-- ==== Sys2Proof/Word.lean ====
section
/-!
DEFINITION. The word types of the EZL-256 model and the one shape of sparse data.

A `Tbl` is a list of (key, value) pairs in one canonical form: keys strictly rising, and no entry equal to what an
unlisted key reads as. Its operations stand in Machine/Table.lean.
-/
namespace Sys2Proof

/-- One byte. -/
abbrev Byte := BitVec 8

/-- A 64-bit word: a register word, a payload word, a tag word, an instruction word. -/
abbrev Word := BitVec 64

/-- A V or W register, a window vector or an output slot: 512 lanes of 16 bits, lane c at bits [16c+15:16c] (R231, R283). -/
abbrev Vec := BitVec 8192

/-- A P register: bit c governs column c (R231). -/
abbrev Pred := BitVec 512

/-- Sparse data by key; see Machine/Table.lean for reading and writing. -/
abbrev Tbl (α : Type) := List (Nat × α)

end Sys2Proof
end

