-- ==== Sys2Proof/Syntax.lean ====
section
/-!
DEFINITION. The commands of the EZL-256: the Zedexa instructions that its processors execute, the X-class operations
that its sequencers execute on its units, and the events at its pins, links, timers and engines.

A Zedexa instruction carries the processor u that executes it (0 to 71 are RP0 to RP71, 72 to 75 are SQ0 to SQ3) and the
fields of its word. An X-class operation is executed by the pair that holds the control lease. An event carries what
reaches the device from outside with it; the device supplies the rest from its state.
-/
namespace Sys2Proof

/-- The fields of an S-class or V-class word below CLASS and OPCODE (Table 8-1), and of a PFX word (IMM is its HI). -/
structure IWord where
  /-- D, destination register. -/
  d : Nat := 0
  /-- A, first source register. -/
  a : Nat := 0
  /-- B, second source register. -/
  b : Nat := 0
  /-- PRED. -/
  pred : Nat := 0
  /-- MOD. -/
  md : Nat := 0
  /-- IMM. -/
  imm : BitVec 32 := 0
  deriving DecidableEq, Repr

/-- The fields of an X-class word below UNIT and OP (Table 8-9). -/
structure XWord where
  /-- AR. -/
  ar : Nat := 0
  /-- LEN. -/
  len : Nat := 0
  /-- SR. -/
  sr : Nat := 0
  /-- INST. -/
  inst : Nat := 0
  /-- ARG. -/
  arg : Nat := 0
  deriving DecidableEq, Repr

/-- What a TAPACK says of one far-end tap (Table 3-7). -/
structure TapAnswer where
  /-- Result: 0 untouched, 1 ACK, 2 MIN, 3 MAX. -/
  result : Nat := 0
  /-- Code of the tap. -/
  code : Nat := 0
  deriving DecidableEq, Repr

/-- What the receiver's adaptation arrives at (step 4 of Table 2-3). -/
structure EqGoal where
  /-- CTLE code. -/
  ctle : Nat := 0
  /-- Values of DFE taps 1 to 8. -/
  dfe : List Int := []
  deriving DecidableEq, Repr

/-- A control block as it arrives on a lane (Table 3-1); SUB counts in a STATUS alone. -/
structure CtrlBlock where
  /-- Lane. -/
  lane : Nat := 0
  /-- TYPE. -/
  type : Nat := 0
  /-- SUB. -/
  sub : Nat := 0
  deriving DecidableEq, Repr

/-- A STATUS block of a head's camera (Table 3-7). -/
structure StatusBlock where
  /-- Head. -/
  head : Nat := 0
  /-- SUB. -/
  sub : Nat := 0
  deriving DecidableEq, Repr

/-- What a self-test finds before its sweep (steps 2 and 3 of Table 17-4). -/
structure TestFound where
  /-- The march test or a check met an error. -/
  fail : Bool := false
  /-- Output slots that came of TEST packets, by sequence number; those left out came out as expected. -/
  outs : List (Nat × List Byte) := []
  deriving DecidableEq, Repr

/-- What a neighbouring device sends for a view row (R357): its boundary member and the columns nearest the boundary. -/
structure EdgeRow where
  /-- View LSEQ. -/
  n : Nat := 0
  /-- FLAGS of the row. -/
  flags : Nat := 0
  /-- σ31 that the sender used, when it is the left device. -/
  sigma : Int := 0
  /-- C0 to C5 of the boundary member. -/
  geo : List Int := []
  /-- GOFS. -/
  gofs : Int := 0
  /-- XS of the boundary member at the sender. -/
  xs : Int := 0
  /-- HW of the boundary member. -/
  hw : Nat := 0
  /-- First head column sent. -/
  col : Nat := 0
  /-- CS of the boundary seam, in the receiver's columns. -/
  cs : Int := 0
  /-- FW of the boundary seam. -/
  fw : Nat := 0
  /-- Samples per declared slot. -/
  slots : List (Nat × List Nat) := []
  /-- The boundary word that the exchange carries (R379). -/
  word : Option Nat := none
  deriving DecidableEq, Repr

/-- The commands of the device: one per row of spec/opcode_table.json. -/
inductive Instr where
  /-- ADD (R289): S-class instruction: adds two scalar operands, optionally saturating. -/
  | add (u : Nat) (w : IWord)
  /-- SUB (R289): S-class instruction: subtracts the second scalar operand from the first. -/
  | sub (u : Nat) (w : IWord)
  /-- AND (R289): S-class instruction: bitwise AND of two scalars. -/
  | and_ (u : Nat) (w : IWord)
  /-- OR (R289): S-class instruction: bitwise OR of two scalars. -/
  | or_ (u : Nat) (w : IWord)
  /-- XOR (R289): S-class instruction: bitwise XOR of two scalars. -/
  | xor_ (u : Nat) (w : IWord)
  /-- SHL (R289): S-class instruction: shifts a scalar left, optionally saturating. -/
  | shl (u : Nat) (w : IWord)
  /-- SHR (R289): S-class instruction: logical right shift of a scalar. -/
  | shr (u : Nat) (w : IWord)
  /-- SRA (R289): S-class instruction: arithmetic right shift of a scalar. -/
  | sra (u : Nat) (w : IWord)
  /-- MUL (R289): S-class instruction: low 32 bits of a product. -/
  | mul (u : Nat) (w : IWord)
  /-- MULH (R289): S-class instruction: high 32 bits of a signed or unsigned product. -/
  | mulh (u : Nat) (w : IWord)
  /-- SLT (R289): S-class instruction: sets 1 when the first operand is less than the second. -/
  | slt (u : Nat) (w : IWord)
  /-- MIN (R289): S-class instruction: smaller of two scalars. -/
  | min_ (u : Nat) (w : IWord)
  /-- MAX (R289): S-class instruction: larger of two scalars. -/
  | max_ (u : Nat) (w : IWord)
  /-- LDA (R289): S-class instruction: loads an A register with an immediate or prefixed 48-bit value. -/
  | lda (u : Nat) (w : IWord)
  /-- ADDA (R289): S-class instruction: adds a sign-extended value to an A register modulo 2^48. -/
  | adda (u : Nat) (w : IWord)
  /-- MOVSA (R289): S-class instruction: moves the low or high part of an A register to an S register. -/
  | movsa (u : Nat) (w : IWord)
  /-- MOVAS (R289): S-class instruction: builds an A register from two S registers. -/
  | movas (u : Nat) (w : IWord)
  /-- LD (R290): S-class instruction: loads a byte, halfword or word from Aa plus offset. -/
  | ld (u : Nat) (w : IWord) (ecc : Nat)
  /-- ST (R290): S-class instruction: stores a byte, halfword or word at Aa plus offset. -/
  | st (u : Nat) (w : IWord)
  /-- KRD (R289): S-class instruction on row processors: reads half of a K register. -/
  | krd (u : Nat) (w : IWord)
  /-- BEQ (R290): Branch when two scalars are equal. -/
  | beq (u : Nat) (w : IWord)
  /-- BNE (R290): Branch when two scalars differ. -/
  | bne (u : Nat) (w : IWord)
  /-- BLT (R290): Branch when the first scalar is less, signed. -/
  | blt (u : Nat) (w : IWord)
  /-- BGE (R290): Branch when the first scalar is greater or equal, signed. -/
  | bge (u : Nat) (w : IWord)
  /-- BLTU (R290): Branch when the first scalar is less, unsigned. -/
  | bltu (u : Nat) (w : IWord)
  /-- BGEU (R290): Branch when the first scalar is greater or equal, unsigned. -/
  | bgeu (u : Nat) (w : IWord)
  /-- JAL (R290): Jumps relative and writes the return index. -/
  | jal (u : Nat) (w : IWord)
  /-- JR (R290): Jumps to the index held in a scalar register. -/
  | jr (u : Nat) (w : IWord)
  /-- END (R239): Ends a run, command or handler; on a row processor it delivers outputs, run summary and window push. -/
  | end_ (u : Nat) (w : IWord)
  /-- EVPOST (R242): Emits a token on source 508 + n, except in replayed or rebuilding runs. -/
  | evpost (u : Nat) (w : IWord)
  /-- EVFIRE (R242): Fires an event channel as software firing does. -/
  | evfire (u : Nat) (w : IWord)
  /-- RDT (R291): Reads the raw counter or presented time, latching the high half on a low-half read. -/
  | rdt (u : Nat) (w : IWord)
  /-- FENCE (R291): Waits until every earlier store of the processor has arrived at its destination. -/
  | fence (u : Nat) (w : IWord)
  /-- XAT (R292): Sets the sequencer's apply context for following streamed operations. -/
  | xat (u : Nat) (w : IWord)
  /-- XSTAT (R293): Returns the status word of the last X-class instruction or XWAIT. -/
  | xstat (u : Nat) (w : IWord)
  /-- XWAIT (R293): Waits for all earlier long operations of the command or handler and records the first non-OK status. -/
  | xwait (u : Nat) (w : IWord)
  /-- NOP (R289): Does nothing. -/
  | nop (u : Nat) (w : IWord)
  /-- PFX (R279): Long-immediate prefix that widens the immediate of the following permitted instruction. -/
  | pfx (u : Nat) (w : IWord)
  /-- VADD (R294): Vector add per element, wrapping or saturating. -/
  | vadd (u : Nat) (w : IWord)
  /-- VSUB (R294): Vector subtract per element. -/
  | vsub (u : Nat) (w : IWord)
  /-- VABSD (R294): Vector absolute difference per element. -/
  | vabsd (u : Nat) (w : IWord)
  /-- VMIN (R294): Vector minimum per element. -/
  | vmin (u : Nat) (w : IWord)
  /-- VMAX (R294): Vector maximum per element. -/
  | vmax (u : Nat) (w : IWord)
  /-- VAND (R294): Vector bitwise AND. -/
  | vand (u : Nat) (w : IWord)
  /-- VOR (R294): Vector bitwise OR. -/
  | vor (u : Nat) (w : IWord)
  /-- VXOR (R294): Vector bitwise XOR. -/
  | vxor (u : Nat) (w : IWord)
  /-- VSHL (R294): Vector left shift per element. -/
  | vshl (u : Nat) (w : IWord)
  /-- VSHR (R294): Vector right shift, logical or arithmetic by type. -/
  | vshr (u : Nat) (w : IWord)
  /-- VRSHR (R294): Vector rounding right shift. -/
  | vrshr (u : Nat) (w : IWord)
  /-- VMUL (R294): Vector multiply per element. -/
  | vmul (u : Nat) (w : IWord)
  /-- VMULSH (R294): Vector multiply with rounding shift. -/
  | vmulsh (u : Nat) (w : IWord)
  /-- VMAC (R294): Vector multiply-accumulate with rounding shift. -/
  | vmac (u : Nat) (w : IWord)
  /-- VLERP (R294): Vector linear interpolation between two vectors by an immediate weight. -/
  | vlerp (u : Nat) (w : IWord)
  /-- VCMPEQ (R294): Vector compare equal into a predicate. -/
  | vcmpeq (u : Nat) (w : IWord)
  /-- VCMPNE (R294): Vector compare not equal into a predicate. -/
  | vcmpne (u : Nat) (w : IWord)
  /-- VCMPLT (R294): Vector compare less than into a predicate. -/
  | vcmplt (u : Nat) (w : IWord)
  /-- VCMPLE (R294): Vector compare less or equal into a predicate. -/
  | vcmple (u : Nat) (w : IWord)
  /-- VCMPGT (R294): Vector compare greater than into a predicate. -/
  | vcmpgt (u : Nat) (w : IWord)
  /-- VCMPGE (R294): Vector compare greater or equal into a predicate. -/
  | vcmpge (u : Nat) (w : IWord)
  /-- VSEL (R294): Selects per element between two sources by a predicate. -/
  | vsel (u : Nat) (w : IWord)
  /-- VMOV (R294): Copies a vector or a scalar broadcast. -/
  | vmov (u : Nat) (w : IWord)
  /-- VWRD (R294): Reads a window register into a vector register. -/
  | vwrd (u : Nat) (w : IWord)
  /-- VCSH (R295): Column shift with zero, halo or edge fill. -/
  | vcsh (u : Nat) (w : IWord)
  /-- VWIDEN (R294): Widens half of a 16-bit vector into 32-bit pairs. -/
  | vwiden (u : Nat) (w : IWord)
  /-- VNARROW (R294): Narrows two 32-bit vectors into one 16-bit vector with rounding shift. -/
  | vnarrow (u : Nat) (w : IWord)
  /-- VLUT (R296): Table lookup through the lookup unit, optionally interpolated. -/
  | vlut (u : Nat) (w : IWord)
  /-- LUTLD (R296): Loads 512 entries of the lookup table from a vector. -/
  | lutld (u : Nat) (w : IWord)
  /-- VHIST (R297): Increments histogram bins for the selected elements. -/
  | vhist (u : Nat) (w : IWord)
  /-- HRD (R297): Reads 256 histogram bins into a vector. -/
  | hrd (u : Nat) (w : IWord)
  /-- HCLR (R297): Clears all histogram bins. -/
  | hclr (u : Nat) (w : IWord)
  /-- VRSUM (R294): Sums the selected elements into a scalar, saturating. -/
  | vrsum (u : Nat) (w : IWord)
  /-- VRMIN (R294): Smallest selected element into a scalar. -/
  | vrmin (u : Nat) (w : IWord)
  /-- VRMAX (R294): Largest selected element into a scalar. -/
  | vrmax (u : Nat) (w : IWord)
  /-- PCNT (R294): Counts the set bits of a predicate under PRED. -/
  | pcnt (u : Nat) (w : IWord)
  /-- PAND (R294): Predicate AND. -/
  | pand (u : Nat) (w : IWord)
  /-- POR (R294): Predicate OR. -/
  | por (u : Nat) (w : IWord)
  /-- PXOR (R294): Predicate XOR. -/
  | pxor (u : Nat) (w : IWord)
  /-- PANDN (R294): Predicate AND NOT. -/
  | pandn (u : Nat) (w : IWord)
  /-- VPBIT (R294): Writes a predicate into one bit of every lane of a vector. -/
  | vpbit (u : Nat) (w : IWord)
  /-- VLD (R298): Loads 1,024 bytes into a vector register. -/
  | vld (u : Nat) (w : IWord) (ecc : Nat) (line : Nat)
  /-- VST (R298): Stores 1,024 bytes of a vector register, journalling mirror lines. -/
  | vst (u : Nat) (w : IWord)
  /-- OUT (R240): Places a vector in an output slot of the run. -/
  | out (u : Nat) (w : IWord)
  /-- WPUSH (R246): Names the vector to be pushed into the window at END. -/
  | wpush (u : Nat) (w : IWord)
  /-- CNTCLR (R304): Clears the counters of one instance or of every instance of a unit. -/
  | cntclr (unit : Nat) (x : XWord)
  /-- EVCLR (R304): Clears the cause bits named in ARG in one or every instance of a unit. -/
  | evclr (unit : Nat) (x : XWord)
  /-- SEQ_LEASE (R538): Sets the sequencer control lease and renewal intervals. -/
  | seqLease (x : XWord)
  /-- SEQ_WDOG (R266): Sets SQWDOG. -/
  | seqWdog (x : XWord)
  /-- SEQ_HANDLER (R265): Installs or removes the handler of a sequencer task input. -/
  | seqHandler (x : XWord)
  /-- SLA_CFG (R73): Writes a lane block, including RATE, inversions and bounds. -/
  | slaCfg (x : XWord)
  /-- SLA_TXTAPS (R84): Sets the device transmitter taps of a lane. -/
  | slaTxtaps (x : XWord)
  /-- SLA_POWER (R97): Requests Tx-sleep, Rx-sleep or COLD on a lane. -/
  | slaPower (x : XWord)
  /-- SLA_TRAIN (R85): Starts training of a lane. -/
  | slaTrain (x : XWord)
  /-- SLA_PRBS (R99): Selects PRBS generator and checker patterns on an unassigned lane. -/
  | slaPrbs (x : XWord)
  /-- SLA_INJECT (R101): Inverts one bit or a burst of line bits on an unassigned lane. -/
  | slaInject (x : XWord)
  /-- SLA_EYESCAN (R102): Starts a FULL or CROSS eye scan of a lane. -/
  | slaEyescan (x : XWord)
  /-- SLA_REFSEL (R108): Changes the reference selection of a lane group. -/
  | slaRefsel (x : XWord)
  /-- SLA_EYECFG (R107): Sets EYE_WMIN and EYE_HMIN. -/
  | slaEyecfg (x : XWord)
  /-- HAU_BOND (R149): Assigns a list of lanes to a head. -/
  | hauBond (x : XWord)
  /-- HAU_CFG (R171): Writes the head block of a head. -/
  | hauCfg (x : XWord)
  /-- HAU_MAP (R166): Writes the strip map of a head. -/
  | hauMap (x : XWord)
  /-- HAU_EBALLOC (R161): Divides the elastic-buffer banks among heads by weight. -/
  | hauEballoc (x : XWord)
  /-- HAU_START (R150): Checks and brings up a head through steps 2 to 8 of Table 3-9. -/
  | hauStart (x : XWord)
  /-- HAU_STOP (R151): Writes RUN 0, stops triggering the head or aborts a start. -/
  | hauStop (x : XWord)
  /-- HAU_SHARE (R166): Changes the dispatch share of a head. -/
  | hauShare (x : XWord)
  /-- HAU_CAMREG (R136): Reads or writes a camera register by CMD on the master downlink. -/
  | hauCamreg (x : XWord)
  /-- HAU_ESLCFG (R148): Writes CMDTO and XSETTO of a head. -/
  | hauEslcfg (x : XWord)
  /-- PFU_ENCCFG (R179): Writes an encoder block. -/
  | pfuEnccfg (x : XWord)
  /-- PFU_SSICFG (R187): Writes an SSI block. -/
  | pfuSsicfg (x : XWord)
  /-- PFU_PRBCFG (R192): Writes a probe block and empties its FIFO. -/
  | pfuPrbcfg (x : XWord)
  /-- PFU_PPOP (R192): Removes the oldest probe record. -/
  | pfuPpop (x : XWord)
  /-- PFU_DIVCFG (R193): Writes a divider block and clears its accumulator and backlog. -/
  | pfuDivcfg (x : XWord)
  /-- PFU_WPCFG (R197): Writes the web-position block with re-anchoring and sets WPVALID. -/
  | pfuWpcfg (x : XWord)
  /-- PFU_WPSET (R197): Steps the web position to a given POS. -/
  | pfuWpset (x : XWord)
  /-- TES_CFG (R228): Writes a TES head block. -/
  | tesCfg (x : XWord)
  /-- TES_GRID (R206): Changes DY, YORG, TPER and LRMAX from the first uncommitted trigger. -/
  | tesGrid (x : XWord)
  /-- TES_XSET (R211): Downloads an exposure set and selects it from an apply-from point. -/
  | tesXset (x : XWord)
  /-- TES_XSEL (R212): Selects an acknowledged exposure set from an apply-from point. -/
  | tesXsel (x : XWord)
  /-- TES_CUT (R219): Places a local epoch cut or refuses it as CUT_LATE. -/
  | tesCut (x : XWord)
  /-- TES_CUT_FABRIC (R510): On the master, announces a fabric-wide cut. -/
  | tesCutFabric (x : XWord)
  /-- RPA_LOAD (R236): Checks a program set image and streams it to every head at an epoch. -/
  | rpaLoad (x : XWord)
  /-- RPA_KSET (R243): Streams new K8 to K63 values for a head. -/
  | rpaKset (x : XWord)
  /-- RPA_SMWRITE (R244): Streams a copy into the data area of strip memories. -/
  | rpaSmwrite (x : XWord)
  /-- RPA_RESUME (R256): Ends the halt of a logical row processor. -/
  | rpaResume (x : XWord)
  /-- RPA_CFG (R241): Sets RUNLIMIT and the dependability settings. -/
  | rpaCfg (x : XWord)
  /-- SST_VIEW (R338): Writes a view block: members and web grid. -/
  | sstView (x : XWord)
  /-- SST_GEOM (R346): Streams a head's geometry polynomial and offset. -/
  | sstGeom (x : XWord)
  /-- SST_SEAM (R353): Streams a seam's mode, bounds and reset. -/
  | sstSeam (x : XWord)
  /-- SST_BLEND (R355): Streams seam centre and feather width, or edge masking settings. -/
  | sstBlend (x : XWord)
  /-- SST_EDGE (R357): Enables the cross-device edge exchange of a view. -/
  | sstEdge (x : XWord)
  /-- RTK_PLANE (R382): Streams plane groups, table share, MINAREA and GAPBRIDGE. -/
  | rtkPlane (x : XWord)
  /-- RTK_STRAW (R382): Streams the straw length of a view. -/
  | rtkStraw (x : XWord)
  /-- RTK_FEAT (R382): Streams the intensity slot and feature sums of a view. -/
  | rtkFeat (x : XWord)
  /-- RCL_MODEL (R391): Checks a model image and streams it under an epoch. -/
  | rclModel (x : XWord)
  /-- RCL_FEATMAP (R389): Streams the feature map of a view. -/
  | rclFeatmap (x : XWord)
  /-- DLG_MARKCFG (R229): Writes a marker block. -/
  | dlgMarkcfg (x : XWord)
  /-- DLG_MLATE (R305): Sets MLATE. -/
  | dlgMlate (x : XWord)
  /-- DLG_RING (R412): Writes the ledger block or a view block of DLG. -/
  | dlgRing (x : XWord)
  /-- DLG_SUMPCFG (R55): Sets SUMP_MERGE_NM and SUMP_CLOSE. -/
  | dlgSumpcfg (x : XWord)
  /-- HIS_CFG (R426): Writes a history head block. -/
  | hisCfg (x : XWord)
  /-- HIS_CROP (R422): Starts cutting a crop from a head's history. -/
  | hisCrop (x : XWord)
  /-- CMP_CFG (R426): Writes SEARCH. -/
  | cmpCfg (x : XWord)
  /-- CMP_FRAME (R425): Starts decompressing and checking one history frame. -/
  | cmpFrame (x : XWord)
  /-- OVS_CFG (R441): Writes an overview stream block. -/
  | ovsCfg (x : XWord)
  /-- OVS_COEF (R441): Writes an overview coefficient block. -/
  | ovsCoef (x : XWord)
  /-- OVS_START (R441): Starts an overview stream. -/
  | ovsStart (x : XWord)
  /-- OVS_STOP (R441): Stops an overview stream taking source rows and flushes it. -/
  | ovsStop (x : XWord)
  /-- DMC_CFG (R460): Writes a DRAM channel block. -/
  | dmcCfg (x : XWord)
  /-- DMC_TRAIN (R455): Requests training of a DRAM channel. -/
  | dmcTrain (x : XWord)
  /-- DMC_XORMAP (R454): Sets the channel, bank-group and bank masks. -/
  | dmcXormap (x : XWord)
  /-- DMC_SPARE (R459): Names the spare rank of a channel. -/
  | dmcSpare (x : XWord)
  /-- DMC_RETIRE (R459): Starts retirement of a rank. -/
  | dmcRetire (x : XWord)
  /-- DMA_LINEAR (R464): Queues a linear copy descriptor. -/
  | dmaLinear (x : XWord)
  /-- DMA_RECT (R464): Queues a rectangular copy descriptor. -/
  | dmaRect (x : XWord)
  /-- DMA_GATHER (R464): Queues a gather descriptor. -/
  | dmaGather (x : XWord)
  /-- DMA_FILL (R464): Queues a fill descriptor. -/
  | dmaFill (x : XWord)
  /-- DMA_COMPARE (R464): Queues a compare descriptor. -/
  | dmaCompare (x : XWord)
  /-- DMA_FENCE (R469): Queues a fence proving arrival of earlier DRAM writes of the channel. -/
  | dmaFence (x : XWord)
  /-- MEM_MODE (R446): Sets the collision mode of a bank. -/
  | memMode (x : XWord)
  /-- MEM_POWER (R448): Sets a bank ON, RETAIN or OFF. -/
  | memPower (x : XWord)
  /-- MEM_ROWSTORE (R450): Names the banks of the row store. -/
  | memRowstore (x : XWord)
  /-- HIF_MIRCFG (R491): Sets the status mirror refresh interval. -/
  | hifMircfg (x : XWord)
  /-- WLK_NODE (R495): Sets the node ID and cut settings. -/
  | wlkNode (x : XWord)
  /-- WLK_ROUTE (R496): Writes route table entries. -/
  | wlkRoute (x : XWord)
  /-- WLK_PORT (R500): Writes a Wyton Link port block. -/
  | wlkPort (x : XWord)
  /-- WLK_EDGE (R515): Names the neighbouring nodes of a view. -/
  | wlkEdge (x : XWord)
  /-- WLK_FWD (R516): Sets the collector and forwarding timeout, or an inbound ring. -/
  | wlkFwd (x : XWord)
  /-- WLK_LEASE (R502): Sets the fabric master lease parameters and waits for a holder. -/
  | wlkLease (x : XWord)
  /-- TNT_INC (R520): Changes the presented-time increment continuously. -/
  | tntInc (x : XWord)
  /-- TNT_OFFSET (R521): Steps or slews presented time by an offset. -/
  | tntOffset (x : XWord)
  /-- TNT_PTP (R528): Writes an Ethernet port block. -/
  | tntPtp (x : XWord)
  /-- TNT_PPS (R528): Writes PPS settings and the time mode. -/
  | tntPps (x : XWord)
  /-- EVR_CHAN (R591): Writes an event channel block or an EVIO block. -/
  | evrChan (x : XWord)
  /-- EVR_TASK (R591): Writes a task input block. -/
  | evrTask (x : XWord)
  /-- EVR_GATE (R591): Sets software gate bits. -/
  | evrGate (x : XWord)
  /-- TWP_CFG (R607): Writes a two-wire port block. -/
  | twpCfg (x : XWord)
  /-- TWP_XFER (R599): Starts a transaction on TW1 or TW2. -/
  | twpXfer (x : XWord)
  /-- PBA_BUDGET (R555): Sets the Damper budget. -/
  | pbaBudget (x : XWord)
  /-- PBA_VBOUNDS (R559): Sets VMIN and VMAX. -/
  | pbaVbounds (x : XWord)
  /-- PBA_TARGET (R558): Sets the minimum-throughput target VTARGET. -/
  | pbaTarget (x : XWord)
  /-- PBA_MONITOR (R560): Sets the warning and reset thresholds of a rail. -/
  | pbaMonitor (x : XWord)
  /-- PBA_EMBER (R564): Enters Ember. -/
  | pbaEmber (x : XWord)
  /-- CAL_RUN (R550): Starts calibration of the named targets. -/
  | calRun (x : XWord)
  /-- CAL_CFG (R554): Sets INHIBIT, DT and ROTINT. -/
  | calCfg (x : XWord)
  /-- CAL_LIMITS (R554): Sets the plausibility limits. -/
  | calLimits (x : XWord)
  /-- PMU_CNTSET (R270): Writes a counter value and its selection. -/
  | pmuCntset (x : XWord)
  /-- PMU_SNAP (R272): Requests a local snapshot. -/
  | pmuSnap (x : XWord)
  /-- PMU_SNAP_FABRIC (R518): On the master, sends a fabric snapshot request. -/
  | pmuSnapFabric (x : XWord)
  /-- PMU_SAMPCFG (R273): Configures and re-arms a sampler. -/
  | pmuSampcfg (x : XWord)
  /-- SLC_ADVANCE (R573): Advances the lifecycle state, wipes and resets. -/
  | slcAdvance (x : XWord)
  /-- SLC_ADVANCE_FUSES (R573): With the current state as target, raises VERMIN or revokes a key slot. -/
  | slcAdvanceFuses (x : XWord)
  /-- SLC_WIPE (R574): Starts a secure-bank wipe. -/
  | slcWipe (x : XWord)
  /-- SLC_KCOPY (R571): Starts copying the running image to KCOPY in DRAM. -/
  | slcKcopy (x : XWord)
  /-- STREAMED_OP_ISSUE (R259): A streamed operation issues once its CTRL packet is accepted into every target stream. -/
  | streamedOpIssue
  /-- EPOCH_WAIT_RESUME (R36): An instruction waiting for a 64th epoch proceeds when an epoch retires. -/
  | epochWaitResume
  /-- LOAD_WAIT_RESUME (R237): A waiting RPA.LOAD issues once a code area becomes inactive. -/
  | loadWaitResume
  /-- MODEL_WAIT_RESUME (R392): A waiting RCL.MODEL issues once a model area becomes inactive. -/
  | modelWaitResume
  /-- CTRL_PACKET_ARRIVE (R32): A CTRL packet reaches a stage and is held until its apply-at point. -/
  | ctrlPacketArrive (n : Nat)
  /-- CUT_PACKET_ARRIVE (R38): A CUT packet reaches a stage of a head or view stream. -/
  | cutPacketArrive (n : Nat)
  /-- GAP_PACKET_ARRIVE (R33): A GAP packet passes a stage, passing apply-at points it covers. -/
  | gapPacketArrive (n : Nat)
  /-- PROGRESS_MARK_ARRIVE (R630): A row, gap or stop mark reaches RCL or DLG and passes apply-at points. -/
  | progressMarkArrive (unit : Nat)
  /-- STAGE_TIMEOUT (R61): A stage whose downstream stays full past its timeout diverts its head packet to the Sump. -/
  | stageTimeout (stage : Nat) (inst : Nat)
  /-- SUMP_NOTE_RECEIVE (R53): The Sump merges a note into a span, allocates an entry or evicts the oldest. -/
  | sumpNoteReceive (a : Word) (b : Word) (c : Word) (d : Word) (n : Nat)
  /-- SUMP_SPAN_CLOSE (R55): A span closes after SUMP_CLOSE without merges or at full ROWS. -/
  | sumpSpanClose (n : Nat)
  /-- SUMP_SPAN_DELIVER (R55): A closed span is delivered to its destination when it can accept it. -/
  | sumpSpanDeliver (n : Nat)
  /-- TOTALISER_REPORT (R56): DLG writes a coarse TOTALISED coverage record from a non-zero totaliser. -/
  | totaliserReport (k : Nat)
  /-- LANE_WAKE (R95): A lane-wake grant starts training or retained wake of a lane. -/
  | laneWake (n : Nat)
  /-- SIGNAL_DETECT (R85): Signal detected on a lane receiver: CDR locks and CTLE takes a coarse setting. -/
  | signalDetect (n : Nat) (ctle : Nat)
  /-- BLOCK_LOCK (R76): A receiver acquires block lock after 64 valid headers. -/
  | blockLock (n : Nat)
  /-- LOCK_LOST (R91): A LOCKED lane loses block lock and enters RECOVER. -/
  | lockLost (n : Nat)
  /-- RELOCK_TIMEOUT (R91): A lane that has not regained lock within RELOCK retrains from step 2. -/
  | relockTimeout (n : Nat)
  /-- TRAIN_STEP_TIMEOUT (R90): A training step exceeds its bound and sets TRAINFAIL. -/
  | trainStepTimeout (n : Nat)
  /-- TRAIN_RETRY (R90): 10 ms after a TRAINFAIL, the lane returns to step 1. -/
  | trainRetry (n : Nat)
  /-- HIBER_WINDOW (R77): At the end of each 125 µs window, HIBER is set or cleared. -/
  | hiberWindow (n : Nat) (bad : Nat)
  /-- REF_MONITOR_WINDOW (R74): At the end of each 1 ms window, a group enters or leaves REFFAULT. -/
  | refMonitorWindow (g : Nat) (present : Bool) (ppb : Int)
  /-- SKIP_RECEIVE (R80): A received SKIP is deleted or followed by an inserted SKIP by FIFO fill. -/
  | skipReceive (n : Nat) (fill : Nat)
  /-- ALIGN_RECEIVE (R81): An ALIGN block deskews a bonded set or reveals a deskew fault. -/
  | alignReceive (n : Nat) (hlane : Nat) (ctr : Nat) (spread : Nat)
  /-- ALIGN_TIMEOUT (R82): No ALIGN arrives on a lane within 32,768 blocks. -/
  | alignTimeout (n : Nat)
  /-- PRBS_RESYNC (R100): After 64 consecutive mismatches the checker clears PRBSSYNC and resynchronises. -/
  | prbsResync (n : Nat)
  /-- EYESCAN_POINT_DONE (R102): An eye scan point completes its dwell; the last point ends the scan. -/
  | eyescanPointDone (n : Nat) (count : Nat)
  /-- TAPACK_RECEIVE (R87): A TAPACK answers a TAPREQ and training sends the next request or ends. -/
  | tapackReceive (n : Nat) (hlane : Nat) (rseq : Nat) (pre : TapAnswer) (main : TapAnswer) (post : TapAnswer) (better : Bool)
    (want : Nat)
  /-- TAPTO_EXPIRY (R88): No TAPACK within TAPTO: repeat, or after three repeats set FENORESP. -/
  | taptoExpiry (n : Nat)
  /-- RATE_CHANGE_RETRAIN (R145): 1 ms after an OK LRATE CMDRSP, HAU trains the head's lanes at the new rate. -/
  | rateChangeRetrain (h : Nat)
  /-- LINE_START (R155): A LINE_START column matches a trigger record and claims an elastic-buffer slot. -/
  | lineStart (h : Nat) (trignum : Nat) (xset : Nat) (echo : Bool) (test : Bool) (len : Nat) (cline : Nat) (differ : Bool)
  /-- DATA_COLUMN (R116): A data column of an open line is received, padding lost lanes and mixed columns. -/
  | dataColumn (h : Nat) (blocks : List (Option Word))
  /-- LINE_END (R157): A LINE_END column completes a line, checks CRC and wraps it as a tagged row. -/
  | lineEnd (h : Nat) (crc : Nat) (cline : Nat) (differ : Bool)
  /-- STATUS_CMDRSP (R136): A CMDRSP completes the outstanding camera register access or is counted stray. -/
  | statusCmdrsp (h : Nat) (tag : Nat) (result : Nat) (data : Nat)
  /-- XSETACK_RECEIVE (R212): An XSETACK acknowledges or rejects an exposure set download. -/
  | xsetackReceive (h : Nat) (set : Nat) (xtag : Nat) (result : Nat)
  /-- CAM_EVENT (R141): A STATUS EVENT is counted and its code and info kept. -/
  | camEvent (h : Nat) (code : Nat) (info : Nat)
  /-- STATUS_UNKNOWN_SUB (R140): A STATUS block with an unknown SUB is discarded and counted. -/
  | statusUnknownSub (b : StatusBlock)
  /-- CMDTO_EXPIRY (R136): No CMDRSP within CMDTO: the access completes with CAM_TIMEOUT. -/
  | cmdtoExpiry (h : Nat)
  /-- XSETTO_EXPIRY (R133): No XSETACK within XSETTO: resend once, then fail with XSET_NOACK. -/
  | xsettoExpiry (h : Nat)
  /-- HEAD_BRINGUP_REGS (R144): Once all lanes of the head are LOCKED, HAU reads and checks the camera registers. -/
  | headBringupRegs (h : Nat) (eslver : Nat) (caps : Nat) (maxlen : Nat) (dcam : Nat) (maxlrate : Nat) (layout : Nat) (answers : Nat)
  /-- LINE_COMPLETION_TIMEOUT (R160): A line without LINE_END in time is completed LATE with padding. -/
  | lineCompletionTimeout (h : Nat)
  /-- TRIGGER_LINE_TIMEOUT (R160): A trigger unanswered in time closes and its row becomes missing. -/
  | triggerLineTimeout (h : Nat)
  /-- BLKTO_EXPIRY (R159): A lane silent for BLKTO sets its LANEDOWN bit and emits a gap token. -/
  | blktoExpiry (h : Nat) (k : Nat)
  /-- GAPFL_EXPIRY (R164): A run of missing rows reaching GAPFL sends its GAP packet. -/
  | gapflExpiry (h : Nat)
  /-- HAU_STOP_COMPLETE (R151): HAU.STOP completes when the buffer is empty and no trigger is outstanding. -/
  | hauStopComplete (h : Nat)
  /-- STRIP_RUN (R239): A free logical row processor takes its next strip by R168 and runs INIT and ROW. -/
  | stripRun (l : Nat)
  /-- ENC_EDGE (R176): An accepted A or B edge updates the count and the observer. -/
  | encEdge (c : Nat) (a : Bool) (b : Bool)
  /-- WIRE_FAULT_ENTER (R175): A pair whose wires agree for F + 50 ns becomes wire-faulted. -/
  | wireFaultEnter (c : Nat) (pair : Nat)
  /-- WIRE_FAULT_EXIT (R175): A pair whose wires disagree for 1 ms leaves the wire fault. -/
  | wireFaultExit (c : Nat) (pair : Nat) (level : Bool)
  /-- ILLACT_CLEAR (R177): ILLACT clears after 1 ms without an illegal transition. -/
  | illactClear (c : Nat)
  /-- INDEX_EDGE (R180): An accepted Z edge latches C and may zero it. -/
  | indexEdge (c : Nat)
  /-- OBSERVER_BOUND_CHECK (R183): Every 100 ns the observer checks its bound and updates WPOS. -/
  | observerBoundCheck
  /-- SSI_POLL (R186): Every PERIOD an SSI port starts a frame. -/
  | ssiPoll (k : Nat) (low : Bool)
  /-- SSI_FRAME_END (R189): A completed SSI frame is checked and gives the observer a measurement. -/
  | ssiFrameEnd (k : Nat) (raw : Nat) (err : Bool)
  /-- SSI_NORESP_TIMEOUT (R188): Data not low within SSITO: the frame is abandoned with NORESP. -/
  | ssiNorespTimeout (k : Nat)
  /-- PROBE_EDGE (R191): A probe edge records time and position into the probe FIFO. -/
  | probeEdge (p : Nat) (rising : Bool)
  /-- DIV_STEP (R194): A divided output issues its next quadrature step from the backlog. -/
  | divStep (n : Nat)
  /-- WP_SOURCE_FAULT (R198): The web-position source enters a fault: switch or coast. -/
  | wpSourceFault
  /-- WP_SOURCE_RECOVER (R198): A coasting source leaves its fault and resumes without a jump. -/
  | wpSourceRecover
  /-- COAST_EXPIRY (R198): A fault outlasting COAST sets WPVALID 0 and freezes POS. -/
  | coastExpiry
  /-- TRIGGER_COMMIT (R204): TES commits a trigger 500 ns before its issue instant, moving it by Tmin if needed. -/
  | triggerCommit (h : Nat) (t : Nat)
  /-- TRIGGER_ISSUE (R203): TES issues a TRIG block or pin pulse and hands HAU a trigger record. -/
  | triggerIssue (h : Nat) (wait : Nat)
  /-- EDGE_TRIGGER (R202): Every EDGEN count edges of ESRC, an EDGE-mode head triggers. -/
  | edgeTrigger (h : Nat)
  /-- TRG_PULSE_END (R209): A pin trigger pulse ends after TPW. -/
  | trgPulseEnd (h : Nat)
  /-- MARK_FIRE (R225): A pending mark falls due and MARK goes high or its pulse is extended. -/
  | markFire (m : Nat)
  /-- MARK_PULSE_END (R225): MARK goes low MPW after the last mark that fell due. -/
  | markPulseEnd (m : Nat)
  /-- STRIP_ACCEPT (R360): SST accepts and commits a strip into the stitch buffer, freeing work upstream. -/
  | stripAccept (l : Nat)
  /-- VIEW_ROW_FORM (R342): SST forms a view row, resamples, blends and writes it to the row store. -/
  | viewRowForm (v : Nat)
  /-- EDGE_EXCHANGE_RECEIVE (R358): A neighbour's edge columns, sigma and boundary word arrive for a view row. -/
  | edgeExchangeReceive (p : Nat) (v : Nat) (right : Bool) (e : EdgeRow)
  /-- EDGETO_EXPIRY (R359): The edge exchange is late: the row is formed without remote columns. -/
  | edgetoExpiry (v : Nat)
  /-- VIEW_ROW_PROCESS (R364): RTK finds runs of a committed view row and opens, merges, straws and closes regions. -/
  | viewRowProcess (v : Nat)
  /-- VIEW_GAP_PROCESS (R367): A view GAP at RTK bridges regions or closes them with GAPCLOSE. -/
  | viewGapProcess (v : Nat)
  /-- VIEW_STOP_PROCESS (R368): When a view stops being open, RTK closes every region with ENDCLOSE. -/
  | viewStopProcess (v : Nat)
  /-- BOUNDARY_WORD_RECEIVE (R379): A neighbour's boundary word arrives, releasing the processing of a row. -/
  | boundaryWordReceive (p : Nat) (v : Nat) (right : Bool) (n : Nat) (word : Nat)
  /-- BOUNDARY_WORD_TIMEOUT (R379): A boundary word missing after EDGETO sets CONTMISS. -/
  | boundaryWordTimeout (v : Nat) (right : Bool)
  /-- RTK_RECORD_ENQUEUE (R375): A held record enters the RTK to RCL FIFO once it has room. -/
  | rtkRecordEnqueue
  /-- RECORD_CLASSIFY (R387): RCL evaluates the forest on a record and writes class, grade and confidence. -/
  | recordClassify
  /-- LEDGER_RECORD_WRITE (R396): DLG writes a numbered record into its DRAM ring when room allows. -/
  | ledgerRecordWrite (which : Nat)
  /-- RD0_HOST_COPY (R407): RD0 copies the next ledger record to the host ledger ring when it has room. -/
  | rd0HostCopy
  /-- RD1_FORWARD (R516): RD1 forwards the next ledger record to the collector. -/
  | rd1Forward
  /-- FWD_ACK_RECEIVE (R516): A cumulative acknowledgement from the collector advances LRD1. -/
  | fwdAckReceive (p : Nat) (dseq : Nat)
  /-- FWD_TIMEOUT (R516): Without progress for FWDTO, forwarding resends from the oldest unacknowledged record. -/
  | fwdTimeout
  /-- FORWARDED_RECORD_RECEIVE (R409): A collector receives a forwarded record, writes or discards it and matches contacts. -/
  | forwardedRecordReceive (p : Nat) (ws : List Word)
  /-- CONTACT_TABLE_EXPIRY (R411): A record leaves the contact table LINKAGE ms after entry. -/
  | contactTableExpiry
  /-- HISTORY_ROW_TAKE (R413): HIS takes a raw copy of a head row into its frame group, or diverts it. -/
  | historyRowTake (h : Nat)
  /-- HFLUSH_EXPIRY (R414): A frame group open for HFLUSH closes. -/
  | hflushExpiry (h : Nat)
  /-- FRAME_COMPRESS (R418): A compressor takes a frame and codes it as DEFLATE. -/
  | frameCompress (h : Nat) (c : Nat)
  /-- FRAME_WRITE (R419): A compressed frame and its directory entry are written to DRAM. -/
  | frameWrite (h : Nat)
  /-- CROP_COMPLETE (R423): A crop finishes delivering frames and writes its results. -/
  | cropComplete (inst : Nat)
  /-- CMP_FRAME_COMPLETE (R425): A frame decompression ends with its RESULT. -/
  | cmpFrameComplete (k : Nat)
  /-- COMPRESSOR_IDLE_RELEASE (R556): A compressor idle for 10 µs returns its grant. -/
  | compressorIdleRelease (c : Nat)
  /-- OVS_SOURCE_ROW (R429): A stream commits a source row into its cascade and forms output rows. -/
  | ovsSourceRow (k : Nat)
  /-- OVS_ROW_DELIVER (R438): A held output row is written to the ring or sent over the fabric when room allows. -/
  | ovsRowDeliver (k : Nat)
  /-- OVS_GAP_RECEIVE (R435): A GAP packet at a stream substitutes rows or restarts the stream. -/
  | ovsGapReceive (k : Nat)
  /-- OVS_STOP_COMPLETE (R441): OVS.STOP completes once every output row is delivered or diverted and SUMP_CLOSE has passed. -/
  | ovsStopComplete (k : Nat)
  /-- INBOUND_BULK_RECEIVE (R517): An overview entry from another node is placed in its inbound ring. -/
  | inboundBulkReceive (p : Nat) (k : Nat) (ws : List Word)
  /-- DMA_DESCRIPTOR_START (R465): A channel checks and starts the next queued descriptor. -/
  | dmaDescriptorStart (c : Nat)
  /-- DMA_DESCRIPTOR_COMPLETE (R468): A descriptor's last write leaves the engine; results written back and FULL set. -/
  | dmaDescriptorComplete (c : Nat) (stop : Option (Nat × Nat))
  /-- DMA_TIMEOUT (R467): A channel without progress for DTO ends its descriptor with TIMEOUT. -/
  | dmaTimeout (c : Nat) (n : Nat)
  /-- DMA_FENCE_COMPLETE (R469): A DMA fence completes when earlier DRAM writes are visible to all sources. -/
  | dmaFenceComplete (c : Nat)
  /-- DRAM_TRAINING_START (R455): A DRAM training grant starts the training steps of a channel. -/
  | dramTrainingStart (c : Nat)
  /-- DRAM_TRAINING_END (R455): A channel finishes training as READY or FAILED. -/
  | dramTrainingEnd (c : Nat) (eyes : List Nat)
  /-- PERIODIC_RETRAIN (R456): Every RTINT, a READY channel is retrained in short pauses. -/
  | periodicRetrain (c : Nat) (eyes : List Nat) (shift : Nat)
  /-- DRAM_PARITY_ERROR (R459): The RCD reports a parity error; the command is retried and retirement starts. -/
  | dramParityError (c : Nat) (rank : Nat)
  /-- RANK_MIGRATION_DONE (R459): The rank copy to the spare completes and compare-verify starts. -/
  | rankMigrationDone (c : Nat)
  /-- RANK_VERIFY_DONE (R459): Compare-verify ends: remap, recopy, or RANKFAULT. -/
  | rankVerifyDone (c : Nat) (clean : Bool)
  /-- BANK_BUSY_RETRY (R446): A requester retries an access that received a busy response. -/
  | bankBusyRetry (r : Nat) (n : Nat)
  /-- CMDDB_WRITE (R484): The host writes the command doorbell; it is accepted or ignored. -/
  | cmddbWrite (v : Nat)
  /-- COMMAND_START (R483): The sequencer fetches and stages the next command once the previous has issued. -/
  | commandStart (entry : List Word)
  /-- COMMAND_COMPLETE (R261): A command completes once its packets are applied and direct operations done. -/
  | commandComplete (cseq : Nat)
  /-- COMPLETION_ENTRY_WRITE (R487): HIF writes a completion entry when the completion ring has room. -/
  | completionEntryWrite
  /-- PRODUCER_WORD_WRITE (R489): The producer word is written within 1 µs or after 64 entries. -/
  | producerWordWrite (ring : Nat)
  /-- MIRROR_REFRESH (R491): The status mirror is refreshed under the GEN sequence lock, periodically or on a (C) change. -/
  | mirrorRefresh
  /-- CEN_WRITE (R483): Setting CEN checks the ring settings and enables the rings or sets CERR. -/
  | cenWrite (m : Nat) (v : Word)
  /-- CCCONS_WRITE (R487): The host reports completion entries consumed. -/
  | ccconsWrite (m : Nat) (v : Word)
  /-- HLCONS_WRITE (R487): The host reports ledger entries consumed. -/
  | hlconsWrite (m : Nat) (v : Word)
  /-- MEN_WRITE (R490): Setting MEN starts mirror refreshes with GEN 0. -/
  | menWrite (m : Nat) (v : Word)
  /-- BOOTDB_WRITE (R569): In WAITHOST, the host announces an image length and Kindling verifies it. -/
  | bootdbWrite (len : Nat)
  /-- RESETKEY_WRITE (R478): Writing 0x5253 resets every unit of the device. -/
  | resetkeyWrite (v : Nat)
  /-- BAR0_EVFIRE (R479): A BAR0 write fires an event channel with hop count 0. -/
  | bar0Evfire (c : Nat)
  /-- BAR0_REG_WRITE (R475): A write to a BAR0 register without behaviour of its own. -/
  | bar0RegWrite (off : Nat) (m : Nat) (v : Word)
  /-- BAR2_ACCESS (R480): A host read or write through a BAR2 window reaches banks or DRAM, or is refused. -/
  | bar2Access (off : Nat) (n : Nat) (data : Option (List Byte))
  /-- FUNCTION_LEVEL_RESET (R478): A Function Level Reset resets every unit, keeping the link. -/
  | functionLevelReset
  /-- PCIE_RESET (R478): PERST_N, conventional or hot reset causes a core reset and link retraining. -/
  | pcieReset
  /-- HELLO_SEND (R495): Every 1 ms an up port sends a HELLO. -/
  | helloSend (p : Nat)
  /-- HELLO_RECEIVE (R495): A HELLO records the neighbour and may bring the port up or set DUPNODE. -/
  | helloReceive (p : Nat) (node : Nat) (holder : Nat) (term : Nat) (below : Bool)
  /-- DELAY_MEASURE (R500): Every 1 ms a port measures round trip and updates LINKDLY. -/
  | delayMeasure (p : Nat) (trip : Nat) (far : Nat)
  /-- SYNC_SEND (R506): Every SYNCPER the master sends SYNC down the tree. -/
  | syncSend
  /-- SYNC_RECEIVE (R507): A SYNC updates fabric POS and disciplines presented time. -/
  | syncReceive (p : Nat) (term : Nat) (epoch : Nat) (pos : Int) (spd : Int) (acc : Int) (valid : Bool) (coasting : Bool) (ptm : Nat) (corr : Nat)
  /-- PSTO_EXPIRY (R508): No SYNC for PSTO: the fabric position source is faulted. -/
  | pstoExpiry
  /-- LEASE_RENEWAL_SEND (R503): Every RENEW the master sends a renewal to every voter. -/
  | leaseRenewalSend
  /-- LEASE_RENEWAL_RECEIVE (R503): A voter acknowledges a renewal of its TERM. -/
  | leaseRenewalReceive (p : Nat) (node : Nat) (term : Nat)
  /-- LEASE_ACK_RECEIVE (R503): The master records a voter's acknowledgement. -/
  | leaseAckReceive (p : Nat) (node : Nat) (term : Nat) (sent : Nat)
  /-- FABRIC_LEASE_EXPIRY (R503): Without majority acknowledgement within LEASELEN, the master stops acting. -/
  | fabricLeaseExpiry
  /-- CANDIDATE_TIMEOUT (R503): A candidate without SYNC for its rank's wait asks voters for TERM + 1. -/
  | candidateTimeout
  /-- TERM_REQUEST_RECEIVE (R503): A voter grants or withholds a TERM request. -/
  | termRequestReceive (p : Nat) (node : Nat) (term : Nat)
  /-- TERM_GRANT_RECEIVE (R503): A candidate granted by a majority becomes master. -/
  | termGrantReceive (p : Nat) (node : Nat) (term : Nat)
  /-- CUT_ANNOUNCE_RECEIVE (R511): A device receives a fabric cut announcement and forwards it down. -/
  | cutAnnounceReceive (p : Nat) (term : Nat) (epoch : Nat) (dir : Nat) (pcut : Int)
  /-- CUT_REPLY_RECEIVE (R511): A reply from below is aggregated; the device replies or the master commits. -/
  | cutReplyReceive (p : Nat) (ack : Bool) (minpos : Option Int)
  /-- CUT_SUBTREE_TIMEOUT (R511): A device silent for CUTWIN ÷ 4 is refused for. -/
  | cutSubtreeTimeout (p : Nat)
  /-- CUT_MASTER_TIMEOUT (R512): Without acknowledgement by CUTWIN ÷ 2 the master cancels and re-announces or fails. -/
  | cutMasterTimeout
  /-- CUT_COMMIT_RECEIVE (R513): On commit, a device places its fabric CUT packet or slips it. -/
  | cutCommitReceive (p : Nat) (term : Nat) (epoch : Nat)
  /-- CUT_CANCEL_RECEIVE (R512): A device drops a cancelled announcement. -/
  | cutCancelReceive (p : Nat) (term : Nat) (epoch : Nat)
  /-- CUT_ORPHAN_TIMEOUT (R513): No commit or cancel within CUTWIN: the cut is discarded. -/
  | cutOrphanTimeout
  /-- PACKET_FORWARD (R497): A Wyton Link packet is routed onward or dropped by route or hop count. -/
  | packetForward (p : Nat) (node : Nat) (hops : Nat)
  /-- FABRIC_SNAP_REQUEST_RECEIVE (R518): A device schedules a snapshot at the fabric Tsnap. -/
  | fabricSnapRequestReceive (p : Nat) (term : Nat) (tsnap : Nat)
  /-- TBREF_FAULT (R519): TBREF absent or off frequency: TBFAULT and token. -/
  | tbrefFault
  /-- PPS_IN_EDGE (R525): A PPS_IN edge is timestamped. -/
  | ppsInEdge (falling : Bool)
  /-- PPS_OUT_FIRE (R525): Presented time reaches the next second: PPS_OUT rises. -/
  | ppsOutFire
  /-- PPS_OUT_END (R525): The PPS_OUT pulse ends after PPSW. -/
  | ppsOutEnd
  /-- ETH_FRAME_RECEIVE (R522): An Ethernet frame is filtered, stamped and placed in the receive ring. -/
  | ethFrameReceive (e : Nat) (frame : List Byte) (fcsOk : Bool)
  /-- ETH_FRAME_TRANSMIT (R523): A frame owned by the port is sent and its stamp written. -/
  | ethFrameTransmit (e : Nat)
  /-- ETH_RING_POLL (R524): Every ETHPOLL the control program polls a ring and stamps new frames class F. -/
  | ethRingPoll (e : Nat)
  /-- EVIO_EDGE (R579): An accepted EVIO edge emits a token. -/
  | evioEdge (n : Nat) (level : Bool)
  /-- CHANNEL_TOKEN (R580): A token enters a channel, is gated, merged and forked to task inputs. -/
  | channelToken (c : Nat) (k : Nat)
  /-- TASK_INPUT_TOKEN (R587): A token at a task input pends, coalesces or overruns. -/
  | taskInputToken (t : Nat)
  /-- ACTIVATION_START (R587): A consumer starts an activation of a pending task input. -/
  | activationStart (t : Nat)
  /-- ACTIVATION_END (R587): An activation's work ends and the input goes idle or pending. -/
  | activationEnd (t : Nat)
  /-- TW_XFER_COMPLETE (R599): A TW1 or TW2 transaction ends with its result. -/
  | twXferComplete (p : Nat) (res : Nat) (nack : Nat) (data : List Byte)
  /-- TARGET_STRETCH_TIMEOUT (R596): A target stretch reaching STRTO releases the bus. -/
  | targetStretchTimeout (p : Nat)
  /-- CONTROLLER_SCL_TIMEOUT (R596): SCL held low by another device for STRTO ends the transaction with SCLTO. -/
  | controllerSclTimeout (p : Nat) (low : Bool)
  /-- STUCK_RECOVERY_RETRY (R598): Every 10 ms a stuck port repeats recovery. -/
  | stuckRecoveryRetry (p : Nat) (pulses : Nat)
  /-- MBOX_WRITE (R606): A TW0 write including MBOX byte 0x23 emits a token. -/
  | mboxWrite (ptr : Nat) (bs : List Byte)
  /-- TW_TARGET_WRITE (R602): A target write to a TW0 or TW3 register without behaviour of its own. -/
  | twTargetWrite (port : Nat) (ptr : Nat) (bs : List Byte)
  /-- TW3_DCMD (R603): A DCMD write at STOP performs a debug read or write. -/
  | tw3Dcmd (ptr : Nat) (bs : List Byte)
  /-- TW0_WAKE_MATCH (R604): An address match on TW0 in Ember wakes the device and stretches SCL. -/
  | tw0WakeMatch
  /-- GRANT_ISSUE (R556): The Damper grants a waiting request once the budget allows. -/
  | grantIssue
  /-- VOLTAGE_LOOP_STEP (R558): Every 100 µs the loop raises, lowers or holds VCORE. -/
  | voltageLoopStep (rate : Nat)
  /-- VREG_RETRY (R559): Every 10 ms after VREGFAIL the loop retries the regulator. -/
  | vregRetry
  /-- SUPPLY_WARNING_ENTER (R561): A rail below warning for 50 ns sets SUPWARN and stops grants. -/
  | supplyWarningEnter (r : Nat)
  /-- SUPPLY_WARNING_EXIT (R561): A rail back above warning writes its dip record and may resume grants. -/
  | supplyWarningExit (r : Nat) (vlow : Nat)
  /-- RAIL_BELOW_RESET (R566): A rail below RESET for 200 ns resets the device. -/
  | railBelowReset (r : Nat)
  /-- THERMAL_WARNING (R562): Tj reaches TWARN: THOT set; clears at TWARN − 5 °C. -/
  | thermalWarning (temps : List Int)
  /-- THERMAL_SHUTDOWN (R563): Tj reaches 135 °C: core reset with cause THERMAL. -/
  | thermalShutdown (temps : List Int)
  /-- THERMAL_RELEASE (R563): Tj at or below 115 °C for 1 s releases the thermal reset. -/
  | thermalRelease (temps : List Int)
  /-- EMBER_WAKE (R565): A wake token or TW0 match starts Ember exit. -/
  | emberWake
  /-- VAUX_POWER_ON (R566): VAUX power-on resets everything including the raw counter. -/
  | vauxPowerOn
  /-- RST_N_ASSERT (R566): RST_N low for 1 µs causes a core reset. -/
  | rstNAssert
  /-- TAMPER_DETECT (R575): A tamper condition sets TAMPER and wipes the secure bank. -/
  | tamperDetect
  /-- SECURE_WIPE_END (R574): A wipe finishes its verification, or repeats on failure. -/
  | secureWipeEnd (good : Bool)
  /-- KINDLING_START (R569): After core reset release, Kindling reads the straps and loads an image. -/
  | kindlingStart (sel : Nat) (port : Nat)
  /-- IMAGE_LOAD_DONE (R570): A loaded image is checked and the control program started, or KERR set. -/
  | imageLoadDone (err : Nat) (image : List Word)
  /-- FABRIC_BOOT_TIMEOUT (R570): The boot port is not up within 200 ms: KERR 0x09. -/
  | fabricBootTimeout
  /-- KCOPY_COMPLETE (R571): The DRAM copy of the image is hashed and KCOPYOK set or not. -/
  | kcopyComplete
  /-- LEASE_RENEW_TICK (R538): Every RENEW the lockstep hardware renews the control lease. -/
  | leaseRenewTick
  /-- SEQ_ABDICATE (R539): A lockstep mismatch or ECC error makes the active pair stop at once. -/
  | seqAbdicate (cause : Nat)
  /-- SEQ_LEASE_EXPIRY (R539): The control lease expires LEASE after the last renewal. -/
  | seqLeaseExpiry
  /-- TAKEOVER (R541): The banked pair takes the lease and re-executes incomplete commands from the log. -/
  | takeover
  /-- SQWDOG_EXPIRY (R266): A command or handler running past SQWDOG ends with SEQ_WATCHDOG. -/
  | sqwdogExpiry
  /-- SEQ_PAIR_SELFTEST (R547): Every 10 s and after a takeover, the banked pair is self-tested. -/
  | seqPairSelftest (pass : Bool)
  /-- FAILOVER (R532): A check mismatch or uncorrectable ECC moves a logical row processor to a banked unit. -/
  | failover (u : Nat) (cause : Nat)
  /-- RP_WATCHDOG (R531): No retired instruction for RPTO triggers a failover. -/
  | rpWatchdog (u : Nat)
  /-- PLANNED_ROTATION (R535): A banked unit restores and copies the state of an active one. -/
  | plannedRotation (l : Nat) (inn : Nat)
  /-- ROTATION_HANDOVER (R535): After SST accepts the outgoing run, the incoming unit recopies dirty lines and takes the token. -/
  | rotationHandover (l : Nat)
  /-- SELF_TEST (R545): On its grant a unit runs march test, TEST packets and trim sweep. -/
  | selfTest (u : Nat) (found : TestFound) (margin : Nat) (move : Nat)
  /-- SELF_TEST_RETRY (R547): 1 s after a failure a REPAIR unit retries its self-test. -/
  | selfTestRetry (u : Nat)
  /-- CECNT_RATE_CHECK (R544): A unit whose CECNT grows beyond CETHR within one second is rotated and tested. -/
  | cecntRateCheck (u : Nat) (n : Nat)
  /-- CANARY_MARGIN_LOW (R543): A canary margin below DMARGIN ÷ 2 requests a rotation. -/
  | canaryMarginLow (u : Nat) (margin : Nat)
  /-- CAL_TARGET_RUN (R548): A due or requested target is calibrated and the result applied or rejected. -/
  | calTargetRun (t : Nat) (q : Nat) (shift : Nat) (fine : Bool) (figs : List Int) (unit : Nat)
  /-- SNAPSHOT_TAKE (R272): At Tsnap every counter is copied into SNAPVAL. -/
  | snapshotTake
  /-- SAMPLE_RECORD (R273): Every SPERIOD-th retired instruction is written as a sample entry. -/
  | sampleRecord (k : Nat) (stall : Nat) (iaddr : Nat) (iword : Word) (lat : Nat)
  /-- EQ_ADAPT_DONE (R85): The CTLE and DFE of a block-locked lane finish adapting (step 4 of Table 2-3), and the lane starts far-end tap training or goes on to deskew. -/
  | eqAdaptDone (n : Nat) (goal : EqGoal) (want : Nat)
  /-- EQ_BOUND_HOLD (R86): While a lane is LOCKED, its continuous CTLE or DFE adaptation reaches or leaves a software bound, setting EQBOUND, EQBCNT and cause EQBOUND. -/
  | eqBoundHold (n : Nat) (q : Nat) (v : Int)
  /-- PRBS_ERROR (R100): A synchronised PRBS checker compares a mismatching bit, counting it in PRBSERRS and setting cause PRBSERR on the first error. -/
  | prbsError (n : Nat) (bits : Nat)
  /-- UNKNOWN_TYPE_BLOCK (R115): An uplink control block of an unlisted TYPE, or a STATUS other than TAPACK on a non-master lane, is treated as IDLE or discarded and counted in TYPECNT. -/
  | unknownTypeBlock (b : CtrlBlock)
  /-- CODE_COPY_COMPLETE (R237): A row processor finishes copying an RPA.LOAD image into its inactive code area, applying the packet and making the area valid from its epoch. -/
  | codeCopyComplete (u : Nat)
  /-- MODEL_COPY_COMPLETE (R392): RCL finishes copying a model into its inactive area, applying the RCL.MODEL packet and releasing records of the new epoch that wait for it. -/
  | modelCopyComplete
  /-- TW_BUS_FREE (R597): After losing arbitration, a controller port sees another controller's STOP and the bus free time pass, and repeats the whole transaction. -/
  | twBusFree (p : Nat)
  /-- VCORE_POWER_GOOD (R565): During Ember exit, VCORE reaches power-good after VCORE_EN goes high, and DRAM self-refresh exit and image reload begin. -/
  | vcorePowerGood
  /-- TAMPER_END (R575): A tamper condition ends, lifting the block on Kindling boot that KERR 0x0B reports. -/
  | tamperEnd
  /-- LIVEHOLD_EXPIRY (R568): LIVEHOLD ms pass after the last GAP record of a view or member head, so the view may become live again and INSP_OK may rise. -/
  | liveholdExpiry (src : Nat)
  deriving DecidableEq, Repr

end Sys2Proof
end

