-- ==== Sys2Proof/Decode.lean ====
section
/-!
DEFINITION. Decoding. The opcode table of the block gives no bit of an encoding (every `fields` list is empty), so no word spells a
command by it. A Zedexa instruction word has the layouts of Tables 8-1 and 8-9 and the codes of Tables 8-6, 8-7 and 8-10:
`decodeZedexa` reads the command that stands for it.
-/
namespace Sys2Proof

/-- No row of the table gives bits: every word spells none. -/
def decodeTableWord (_nbits _w : Nat) : Option Instr := none

/-! ### Zedexa words (R276, R278, R279, R299, R304) -/

/-- Bits hi to lo of an instruction word. -/
def wordBits (w : BitVec 64) (hi lo : Nat) : Nat := (w.extractLsb' lo (hi + 1 - lo)).toNat

/-- The fields of an S-class or V-class word (Table 8-1). -/
def iwordOf (w : BitVec 64) : IWord :=
  { d := wordBits w 53 49, a := wordBits w 48 44, b := wordBits w 43 39, pred := wordBits w 38 36, md := wordBits w 35 32,
    imm := w.extractLsb' 0 32 }

/-- The fields of an X-class word below UNIT and OP (Table 8-9). -/
def xwordOf (w : BitVec 64) : XWord :=
  { ar := wordBits w 47 45, len := wordBits w 44 38, sr := wordBits w 37 33, inst := wordBits w 31 16, arg := wordBits w 15 0 }

/-- An S-class instruction by its opcode (Table 8-6). A load meets no ECC error of its own. -/
def sInstr (u : Nat) (w : IWord) : Nat → Option Instr
  | 0x01 => some (.add u w)
  | 0x02 => some (.sub u w)
  | 0x03 => some (.and_ u w)
  | 0x04 => some (.or_ u w)
  | 0x05 => some (.xor_ u w)
  | 0x06 => some (.shl u w)
  | 0x07 => some (.shr u w)
  | 0x08 => some (.sra u w)
  | 0x09 => some (.mul u w)
  | 0x0A => some (.mulh u w)
  | 0x0B => some (.slt u w)
  | 0x0C => some (.min_ u w)
  | 0x0D => some (.max_ u w)
  | 0x10 => some (.lda u w)
  | 0x11 => some (.adda u w)
  | 0x12 => some (.movsa u w)
  | 0x13 => some (.movas u w)
  | 0x18 => some (.ld u w 0)
  | 0x19 => some (.st u w)
  | 0x1A => some (.krd u w)
  | 0x20 => some (.beq u w)
  | 0x21 => some (.bne u w)
  | 0x22 => some (.blt u w)
  | 0x23 => some (.bge u w)
  | 0x24 => some (.bltu u w)
  | 0x25 => some (.bgeu u w)
  | 0x26 => some (.jal u w)
  | 0x27 => some (.jr u w)
  | 0x28 => some (.end_ u w)
  | 0x30 => some (.evpost u w)
  | 0x31 => some (.evfire u w)
  | 0x32 => some (.rdt u w)
  | 0x34 => some (.fence u w)
  | 0x38 => some (.xat u w)
  | 0x39 => some (.xstat u w)
  | 0x3A => some (.xwait u w)
  | 0x3F => some (.nop u w)
  | _ => none

/-- A V-class instruction by its opcode (Table 8-7). -/
def vInstr (u : Nat) (w : IWord) : Nat → Option Instr
  | 0x01 => some (.vadd u w)
  | 0x02 => some (.vsub u w)
  | 0x03 => some (.vabsd u w)
  | 0x04 => some (.vmin u w)
  | 0x05 => some (.vmax u w)
  | 0x06 => some (.vand u w)
  | 0x07 => some (.vor u w)
  | 0x08 => some (.vxor u w)
  | 0x09 => some (.vshl u w)
  | 0x0A => some (.vshr u w)
  | 0x0B => some (.vrshr u w)
  | 0x0C => some (.vmul u w)
  | 0x0D => some (.vmulsh u w)
  | 0x0E => some (.vmac u w)
  | 0x0F => some (.vlerp u w)
  | 0x10 => some (.vcmpeq u w)
  | 0x11 => some (.vcmpne u w)
  | 0x12 => some (.vcmplt u w)
  | 0x13 => some (.vcmple u w)
  | 0x14 => some (.vcmpgt u w)
  | 0x15 => some (.vcmpge u w)
  | 0x18 => some (.vsel u w)
  | 0x19 => some (.vmov u w)
  | 0x1A => some (.vwrd u w)
  | 0x1B => some (.vcsh u w)
  | 0x1C => some (.vwiden u w)
  | 0x1D => some (.vnarrow u w)
  | 0x20 => some (.vlut u w)
  | 0x21 => some (.lutld u w)
  | 0x22 => some (.vhist u w)
  | 0x23 => some (.hrd u w)
  | 0x24 => some (.hclr u w)
  | 0x28 => some (.vrsum u w)
  | 0x29 => some (.vrmin u w)
  | 0x2A => some (.vrmax u w)
  | 0x2B => some (.pcnt u w)
  | 0x30 => some (.pand u w)
  | 0x31 => some (.por u w)
  | 0x32 => some (.pxor u w)
  | 0x33 => some (.pandn u w)
  | 0x35 => some (.vpbit u w)
  | 0x38 => some (.vld u w 0 0)
  | 0x39 => some (.vst u w)
  | 0x3A => some (.out u w)
  | 0x3B => some (.wpush u w)
  | _ => none

/-- Operations of SEQ (Table 8-10). -/
def seqInstr (x : XWord) : Nat → Option Instr
  | 0x01 => some (.seqLease x)
  | 0x02 => some (.seqWdog x)
  | 0x03 => some (.seqHandler x)
  | _ => none

/-- Operations of SLA (Table 8-10). -/
def slaInstr (x : XWord) : Nat → Option Instr
  | 0x01 => some (.slaCfg x)
  | 0x02 => some (.slaTxtaps x)
  | 0x03 => some (.slaPower x)
  | 0x04 => some (.slaTrain x)
  | 0x05 => some (.slaPrbs x)
  | 0x06 => some (.slaInject x)
  | 0x07 => some (.slaEyescan x)
  | 0x08 => some (.slaRefsel x)
  | 0x09 => some (.slaEyecfg x)
  | _ => none

/-- Operations of HAU (Table 8-10). -/
def hauInstr (x : XWord) : Nat → Option Instr
  | 0x01 => some (.hauBond x)
  | 0x02 => some (.hauCfg x)
  | 0x03 => some (.hauMap x)
  | 0x04 => some (.hauEballoc x)
  | 0x05 => some (.hauStart x)
  | 0x06 => some (.hauStop x)
  | 0x07 => some (.hauShare x)
  | 0x08 => some (.hauCamreg x)
  | 0x09 => some (.hauEslcfg x)
  | _ => none

/-- Operations of PFU (Table 8-10). -/
def pfuInstr (x : XWord) : Nat → Option Instr
  | 0x01 => some (.pfuEnccfg x)
  | 0x02 => some (.pfuSsicfg x)
  | 0x03 => some (.pfuPrbcfg x)
  | 0x04 => some (.pfuPpop x)
  | 0x05 => some (.pfuDivcfg x)
  | 0x06 => some (.pfuWpcfg x)
  | 0x07 => some (.pfuWpset x)
  | _ => none

/-- Operations of TES (Table 8-10). -/
def tesInstr (x : XWord) : Nat → Option Instr
  | 0x01 => some (.tesCfg x)
  | 0x02 => some (.tesGrid x)
  | 0x03 => some (.tesXset x)
  | 0x04 => some (.tesXsel x)
  | 0x05 => some (.tesCut x)
  | _ => none

/-- Operations of RPA (Table 8-10). -/
def rpaInstr (x : XWord) : Nat → Option Instr
  | 0x01 => some (.rpaLoad x)
  | 0x02 => some (.rpaKset x)
  | 0x03 => some (.rpaSmwrite x)
  | 0x04 => some (.rpaResume x)
  | 0x05 => some (.rpaCfg x)
  | _ => none

/-- Operations of SST (Table 8-10). -/
def sstInstr (x : XWord) : Nat → Option Instr
  | 0x01 => some (.sstView x)
  | 0x02 => some (.sstGeom x)
  | 0x03 => some (.sstSeam x)
  | 0x04 => some (.sstBlend x)
  | 0x05 => some (.sstEdge x)
  | _ => none

/-- Operations of RTK (Table 8-10). -/
def rtkInstr (x : XWord) : Nat → Option Instr
  | 0x01 => some (.rtkPlane x)
  | 0x02 => some (.rtkStraw x)
  | 0x03 => some (.rtkFeat x)
  | _ => none

/-- Operations of RCL (Table 8-10). -/
def rclInstr (x : XWord) : Nat → Option Instr
  | 0x01 => some (.rclModel x)
  | 0x02 => some (.rclFeatmap x)
  | _ => none

/-- Operations of DLG (Table 8-10). -/
def dlgInstr (x : XWord) : Nat → Option Instr
  | 0x01 => some (.dlgMarkcfg x)
  | 0x02 => some (.dlgMlate x)
  | 0x03 => some (.dlgRing x)
  | 0x04 => some (.dlgSumpcfg x)
  | _ => none

/-- Operations of HIS (Table 8-10). -/
def hisInstr (x : XWord) : Nat → Option Instr
  | 0x01 => some (.hisCfg x)
  | 0x02 => some (.hisCrop x)
  | _ => none

/-- Operations of CMP (Table 8-10). -/
def cmpInstr (x : XWord) : Nat → Option Instr
  | 0x01 => some (.cmpCfg x)
  | 0x02 => some (.cmpFrame x)
  | _ => none

/-- Operations of OVS (Table 8-10). -/
def ovsInstr (x : XWord) : Nat → Option Instr
  | 0x01 => some (.ovsCfg x)
  | 0x02 => some (.ovsCoef x)
  | 0x03 => some (.ovsStart x)
  | 0x04 => some (.ovsStop x)
  | _ => none

/-- Operations of DMC (Table 8-10). -/
def dmcInstr (x : XWord) : Nat → Option Instr
  | 0x01 => some (.dmcCfg x)
  | 0x02 => some (.dmcTrain x)
  | 0x03 => some (.dmcXormap x)
  | 0x04 => some (.dmcSpare x)
  | 0x05 => some (.dmcRetire x)
  | _ => none

/-- Operations of DMA (Table 8-10). -/
def dmaInstr (x : XWord) : Nat → Option Instr
  | 0x01 => some (.dmaLinear x)
  | 0x02 => some (.dmaRect x)
  | 0x03 => some (.dmaGather x)
  | 0x04 => some (.dmaFill x)
  | 0x05 => some (.dmaCompare x)
  | 0x06 => some (.dmaFence x)
  | _ => none

/-- Operations of MEM (Table 8-10). -/
def memInstr (x : XWord) : Nat → Option Instr
  | 0x01 => some (.memMode x)
  | 0x02 => some (.memPower x)
  | 0x03 => some (.memRowstore x)
  | _ => none

/-- Operations of HIF (Table 8-10). -/
def hifInstr (x : XWord) : Nat → Option Instr
  | 0x01 => some (.hifMircfg x)
  | _ => none

/-- Operations of WLK (Table 8-10). -/
def wlkInstr (x : XWord) : Nat → Option Instr
  | 0x01 => some (.wlkNode x)
  | 0x02 => some (.wlkRoute x)
  | 0x03 => some (.wlkPort x)
  | 0x04 => some (.wlkEdge x)
  | 0x05 => some (.wlkFwd x)
  | 0x06 => some (.wlkLease x)
  | _ => none

/-- Operations of TNT (Table 8-10). -/
def tntInstr (x : XWord) : Nat → Option Instr
  | 0x01 => some (.tntInc x)
  | 0x02 => some (.tntOffset x)
  | 0x03 => some (.tntPtp x)
  | 0x04 => some (.tntPps x)
  | _ => none

/-- Operations of EVR (Table 8-10). -/
def evrInstr (x : XWord) : Nat → Option Instr
  | 0x01 => some (.evrChan x)
  | 0x02 => some (.evrTask x)
  | 0x03 => some (.evrGate x)
  | _ => none

/-- Operations of TWP (Table 8-10). -/
def twpInstr (x : XWord) : Nat → Option Instr
  | 0x01 => some (.twpCfg x)
  | 0x02 => some (.twpXfer x)
  | _ => none

/-- Operations of PBA (Table 8-10). -/
def pbaInstr (x : XWord) : Nat → Option Instr
  | 0x01 => some (.pbaBudget x)
  | 0x02 => some (.pbaVbounds x)
  | 0x03 => some (.pbaTarget x)
  | 0x04 => some (.pbaMonitor x)
  | 0x05 => some (.pbaEmber x)
  | _ => none

/-- Operations of CAL (Table 8-10). -/
def calInstr (x : XWord) : Nat → Option Instr
  | 0x01 => some (.calRun x)
  | 0x02 => some (.calCfg x)
  | 0x03 => some (.calLimits x)
  | _ => none

/-- Operations of PMU (Table 8-10). -/
def pmuInstr (x : XWord) : Nat → Option Instr
  | 0x01 => some (.pmuCntset x)
  | 0x02 => some (.pmuSnap x)
  | 0x03 => some (.pmuSampcfg x)
  | _ => none

/-- Operations of SLC (Table 8-10). -/
def slcInstr (x : XWord) : Nat → Option Instr
  | 0x01 => some (.slcAdvance x)
  | 0x02 => some (.slcWipe x)
  | 0x03 => some (.slcKcopy x)
  | _ => none

/-- An X-class instruction by UNIT and OP (Tables 1-1 and 8-10); every unit has CNTCLR and EVCLR (R304). -/
def xInstr (unit op : Nat) (x : XWord) : Option Instr :=
  if 0x18 < unit then none
  else if op = 0xF0 then some (.cntclr unit x)
  else if op = 0xF1 then some (.evclr unit x)
  else
    match unit with
    | 0x00 => seqInstr x op
    | 0x01 => slaInstr x op
    | 0x02 => hauInstr x op
    | 0x03 => pfuInstr x op
    | 0x04 => tesInstr x op
    | 0x05 => rpaInstr x op
    | 0x06 => sstInstr x op
    | 0x07 => rtkInstr x op
    | 0x08 => rclInstr x op
    | 0x09 => dlgInstr x op
    | 0x0A => hisInstr x op
    | 0x0B => cmpInstr x op
    | 0x0C => ovsInstr x op
    | 0x0D => dmcInstr x op
    | 0x0E => dmaInstr x op
    | 0x0F => memInstr x op
    | 0x10 => hifInstr x op
    | 0x11 => wlkInstr x op
    | 0x12 => tntInstr x op
    | 0x13 => evrInstr x op
    | 0x14 => twpInstr x op
    | 0x15 => pbaInstr x op
    | 0x16 => calInstr x op
    | 0x17 => pmuInstr x op
    | _ => slcInstr x op

/-- A word that names no instruction: an opcode or operation that is not listed, or a class that the processor does not execute. It
stands for a NOP with MOD bits that NOP does not use, which faults ILLEGAL as the word does (R230, R278, R304). -/
def illegalInstr (u : Nat) : Instr := .nop u { md := 15 }

/-- The command that stands for an instruction word at processor u: CLASS in [63:62] (Tables 8-1 and 8-9, R279). Row processors have no
X class (R230). -/
def decodeZedexa (u : Nat) (w : BitVec 64) : Instr :=
  let i := iwordOf w
  (match wordBits w 63 62 with
    | 0 => sInstr u i (wordBits w 61 54)
    | 1 => vInstr u i (wordBits w 61 54)
    | 2 => if u < 72 then none else xInstr (wordBits w 61 56) (wordBits w 55 48) (xwordOf w)
    | _ => some (.pfx u { imm := i.imm })).getD (illegalInstr u)

end Sys2Proof
end

