-- ==== Sys2Proof/Config.lean ====
section
/-!
DEFINITION. What an implementation or a part fixes and the specification leaves open: constants without a body, so
that no proof can rest on a value of one.
-/
namespace Sys2Proof.Config

/-- A fresh free value: what the specification calls undefined where the machine goes on (log entry 3).
The step applies it to the counter `free` of State and advances the counter. -/
opaque freeVec : Nat → Vec

/-- The byte of the Kindling ROM at an address; implementation-defined, fixed for a stepping (R233). -/
opaque romByte : Nat → Byte

/-- The rounding of an observer's corrections of position, speed and acceleration, from its bandwidth in Hz, the ticks
since the previous measurement and the innovation: the model lets it differ from the exact value by at most one unit
(R182, log entry 14). -/
opaque observerRound : Nat → Nat → Int → Int × Int × Int

/-- The choice that R385 leaves in ELONG and ORIENT, which need only lie within ±1 unit of the exact value, and the
angle of a region that has no major axis: from the record's words and the DID (log entry 32). -/
opaque featureSlack : List Word → Nat → Nat

/-- The DEFLATE stream that CMP makes of the rows of a frame, from SEARCH: R418 leaves its matches, its code lengths and
their coding open (log entry 40). -/
opaque deflate : Nat → List (List Byte) → List Byte

/-- The device serial number, which a lifecycle transition's signature covers: its bytes are the part's own (R573). -/
opaque serial : List Byte

/-- The straps TWA[2:0], the low bits of TW0's address (Table 19-7). -/
opaque twa : Nat

/-- Whether a block slot of a head's master downlink begins at a raw tick: the lane's clock is independent of the raw
counter's (R71, R125; log entry 146). -/
opaque slotBegins : Nat → Nat → Bool

/-- The bits that a lane's PRBS checker receives without an error in a raw tick, for the same reason (R100; log entry
147). -/
opaque prbsBits : Nat → Nat → Nat

/-- The seed of a TEST packet, from the raw tick of the test and the packet's sequence number (R546, log entry 150). -/
opaque testSeed : Nat → Nat → Word

/-- The PATTERN of a TEST packet of the built-in test program: datapath, lookup and histogram, or column shift and window
(Table 17-5, log entry 150). -/
opaque testPattern : Nat → Fin 3

/-- The byte of a TEST packet's payload that the generator makes from a seed, a plane and an index (R546, log entry 150). -/
opaque testByte : Word → Nat → Nat → Byte

/-- The output slots that the test program of the Kindling ROM makes of a pattern and a payload (Table 17-4, log entry 150). -/
opaque testProgram : Nat → List Byte → List Byte

end Sys2Proof.Config
end

