-- ==== Sys2Proof/Machine/Bits.lean ====
section
/-!
DEFINITION. Bit fields, sign extension, byte order and exact division helpers, shared by every unit.
-/
namespace Sys2Proof.Machine

/-- Bits [hi:lo] of a word as a number. -/
def bits (x : Word) (hi lo : Nat) : Nat := (x >>> lo).toNat % 2 ^ (hi - lo + 1)

/-- Bit n of a word. -/
def bit (x : Word) (n : Nat) : Bool := x.getLsbD n

/-- A number read as a two's-complement value of `w` bits. -/
def signed (w v : Nat) : Int := if v % 2 ^ w < 2 ^ (w - 1) then (v % 2 ^ w : Nat) else (v % 2 ^ w : Nat) - (2 ^ w : Nat)

/-- The low `w` bits of an integer (two's complement). -/
def low (w : Nat) (x : Int) : Nat := (x % (2 ^ w : Nat)).toNat

/-- An integer held within [lo, hi]. -/
def clampI (lo hi x : Int) : Int := if x < lo then lo else if hi < x then hi else x

/-- A field value placed at bit `lo`, cut to `w` bits. -/
def fld (v w lo : Nat) : Word := BitVec.ofNat 64 ((v % 2 ^ w) * 2 ^ lo)

/-- 1 for true, 0 for false. -/
def b2n (b : Bool) : Nat := if b then 1 else 0

/-- Rounding half of a right shift: 2^(sh − 1) when sh is above 0, else 0 (R294). -/
def rnd (sh : Nat) : Int := if sh = 0 then 0 else (2 ^ (sh - 1) : Nat)

/-- The number of bits that are 1. -/
def popcount (x : Word) : Nat := (List.range 64).countP fun k => x.getLsbD k

/-- Round up to a multiple of `m`. -/
def roundUp (m v : Nat) : Nat := (v + m - 1) / m * m

/-- Quotient rounded up. -/
def cdiv (a b : Nat) : Nat := (a + b - 1) / b

/-- Epoch e2 is later than e1: (e2 − e1) mod 128 lies in 1 to 63 (R37). -/
def epochLater (e2 e1 : Nat) : Bool :=
  let d := (e2 + 128 - e1 % 128) % 128
  decide (1 ≤ d ∧ d ≤ 63)

/-- Bytes of a word in memory, lowest address first (R10: little-endian). -/
def wordBytes (n : Nat) (x : Word) : List Byte := (List.range n).map fun k => (x >>> (8 * k)).setWidth 8

/-- A number from bytes, lowest address first. -/
def bytesNat : List Byte → Nat
  | [] => 0
  | b :: bs => b.toNat + 256 * bytesNat bs

/-- One step of CRC-32C (R123: reflected polynomial 0x82F63B78) over one bit. -/
def crcBit (c : BitVec 32) : BitVec 32 := if c.getLsbD 0 then (c >>> 1) ^^^ 0x82F63B78 else c >>> 1

/-- CRC-32C register after one byte. -/
def crcByte (c : BitVec 32) (b : Byte) : BitVec 32 :=
  crcBit (crcBit (crcBit (crcBit (crcBit (crcBit (crcBit (crcBit (c ^^^ b.setWidth 32))))))))

/-- The register after a byte string, from its value c. The match makes that value a numeral at every byte. -/
def crcBytes : List Byte → Nat → Nat
  | [], c => c
  | b :: bs, 0 => crcBytes bs (crcByte 0 b).toNat
  | b :: bs, c + 1 => crcBytes bs (crcByte (BitVec.ofNat 32 (c + 1)) b).toNat

/-- CRC-32C of a byte string (R123). -/
def crc32c (bs : List Byte) : BitVec 32 := ~~~(BitVec.ofNat 32 (crcBytes bs 0xFFFFFFFF))

end Sys2Proof.Machine
end

