-- ==== Sys2Proof/Machine/Regs.lean ====
section
/-!
DEFINITION. The registers of the device: one `Field` per field of the specification's field maps, and the words'
reset values. The table each group follows and its rule stand above the group. Unit control blocks lie at their
device addresses (R19). BAR0 registers are keyed at 2^48 + offset, above the 48-bit device addresses, and the registers
of the two-wire targets at 2^48 + 2^32, so that one table holds every register word of the device.
-/
namespace Sys2Proof.Machine

/-- A register field: the word of instance (i, j) is at `base + s1·i + s2·j`, its bits [hi:lo]. A field with `ew` above 0
is an array of elements of `ew` bits packed into successive words, and j picks the element. -/
structure Field where
  /-- Byte address of the word of instance (0, 0). -/
  base : Nat
  /-- Byte stride of the first index. -/
  s1 : Nat
  /-- Instances of the first index. -/
  n1 : Nat
  /-- Byte stride of the second index. -/
  s2 : Nat
  /-- Instances of the second index. -/
  n2 : Nat
  /-- Highest bit. -/
  hi : Nat
  /-- Lowest bit. -/
  lo : Nat
  /-- Element width of a packed array, else 0. -/
  ew : Nat
  deriving DecidableEq, Repr

/-- Device address of the word that holds a field instance. -/
def Field.word (f : Field) (i j : Nat) : Nat :=
  f.base + f.s1 * i + if f.ew = 0 then f.s2 * j else 8 * (j * f.ew / 64)

/-- The device has instance (i, j) of the field. -/
def Field.has (f : Field) (i j : Nat) : Bool := decide (i < f.n1 ∧ j < f.n2)

/-- Lowest bit of a field instance within its word. -/
def Field.sh (f : Field) (j : Nat) : Nat := if f.ew = 0 then f.lo else j * f.ew % 64

/-- Width of a field. -/
def Field.width (f : Field) : Nat := f.hi - f.lo + 1

/-- The field's value within a word. -/
def Field.get (f : Field) (j : Nat) (x : Word) : Nat := (x >>> f.sh j).toNat % 2 ^ f.width

/-- A word with the field replaced; a value too wide keeps its low bits. -/
def Field.put (f : Field) (j : Nat) (x : Word) (v : Nat) : Word :=
  let m : Word := BitVec.ofNat 64 ((2 ^ f.width - 1) * 2 ^ f.sh j)
  (x &&& ~~~m) ||| BitVec.ofNat 64 ((v % 2 ^ f.width) * 2 ^ f.sh j)

/-- Whether a word address holds an instance of the field. -/
def Field.covers (f : Field) (a : Nat) : Bool :=
  if a < f.base then false
  else
    let d := a - f.base
    let i := if f.s1 = 0 then 0 else d / f.s1
    let r := d - f.s1 * i
    let j := if f.s2 = 0 then 0 else r / f.s2
    decide (i < f.n1 ∧ j < f.n2 ∧ f.word i j = a)

namespace Reg

/-! ### Lane: Table 2-6 (R106) -/
def Lane.EVEN : Field := ⟨0x20010000, 0x80, 256, 0x0, 1, 47, 32, 0⟩
def Lane.RATE : Field := ⟨0x20010000, 0x80, 256, 0x0, 1, 31, 28, 0⟩
def Lane.RXINV : Field := ⟨0x20010000, 0x80, 256, 0x0, 1, 27, 27, 0⟩
def Lane.TXINV : Field := ⟨0x20010000, 0x80, 256, 0x0, 1, 26, 26, 0⟩
def Lane.TXSLEEP : Field := ⟨0x20010000, 0x80, 256, 0x0, 1, 25, 25, 0⟩
def Lane.RXSLEEP : Field := ⟨0x20010000, 0x80, 256, 0x0, 1, 24, 24, 0⟩
def Lane.COLD : Field := ⟨0x20010000, 0x80, 256, 0x0, 1, 23, 23, 0⟩
def Lane.PRBSGEN : Field := ⟨0x20010000, 0x80, 256, 0x0, 1, 22, 20, 0⟩
def Lane.PRBSCHK : Field := ⟨0x20010000, 0x80, 256, 0x0, 1, 19, 17, 0⟩
def Lane.RELOCK : Field := ⟨0x20010000, 0x80, 256, 0x0, 1, 13, 0, 0⟩
def Lane.TAPTO : Field := ⟨0x20010008, 0x80, 256, 0x0, 1, 63, 48, 0⟩
def Lane.CTLEMIN : Field := ⟨0x20010008, 0x80, 256, 0x0, 1, 47, 43, 0⟩
def Lane.CTLEMAX : Field := ⟨0x20010008, 0x80, 256, 0x0, 1, 42, 38, 0⟩
def Lane.DFE1MAX : Field := ⟨0x20010008, 0x80, 256, 0x0, 1, 37, 32, 0⟩
def Lane.PIN : Field := ⟨0x20010008, 0x80, 256, 0x0, 1, 31, 28, 0⟩
def Lane.STARTEN : Field := ⟨0x20010008, 0x80, 256, 0x0, 1, 27, 27, 0⟩
def Lane.FEPREMIN : Field := ⟨0x20010010, 0x80, 256, 0x0, 1, 63, 58, 0⟩
def Lane.FEPREMAX : Field := ⟨0x20010010, 0x80, 256, 0x0, 1, 57, 52, 0⟩
def Lane.FEMAINMIN : Field := ⟨0x20010010, 0x80, 256, 0x0, 1, 51, 46, 0⟩
def Lane.FEMAINMAX : Field := ⟨0x20010010, 0x80, 256, 0x0, 1, 45, 40, 0⟩
def Lane.FEPOSTMIN : Field := ⟨0x20010010, 0x80, 256, 0x0, 1, 39, 34, 0⟩
def Lane.FEPOSTMAX : Field := ⟨0x20010010, 0x80, 256, 0x0, 1, 33, 28, 0⟩
def Lane.STARTPRE : Field := ⟨0x20010010, 0x80, 256, 0x0, 1, 27, 22, 0⟩
def Lane.STARTMAIN : Field := ⟨0x20010010, 0x80, 256, 0x0, 1, 21, 16, 0⟩
def Lane.STARTPOST : Field := ⟨0x20010010, 0x80, 256, 0x0, 1, 15, 10, 0⟩
def Lane.STATE : Field := ⟨0x20010018, 0x80, 256, 0x0, 1, 63, 60, 0⟩
def Lane.TXASLEEP : Field := ⟨0x20010018, 0x80, 256, 0x0, 1, 59, 59, 0⟩
def Lane.EQBOUND : Field := ⟨0x20010018, 0x80, 256, 0x0, 1, 58, 58, 0⟩
def Lane.HIBER : Field := ⟨0x20010018, 0x80, 256, 0x0, 1, 57, 57, 0⟩
def Lane.LOWEYE : Field := ⟨0x20010018, 0x80, 256, 0x0, 1, 56, 56, 0⟩
def Lane.FENORESP : Field := ⟨0x20010018, 0x80, 256, 0x0, 1, 55, 55, 0⟩
def Lane.ASSIGNED : Field := ⟨0x20010018, 0x80, 256, 0x0, 1, 54, 54, 0⟩
def Lane.MASTER : Field := ⟨0x20010018, 0x80, 256, 0x0, 1, 53, 53, 0⟩
def Lane.HEAD : Field := ⟨0x20010018, 0x80, 256, 0x0, 1, 52, 48, 0⟩
def Lane.HLANE : Field := ⟨0x20010018, 0x80, 256, 0x0, 1, 46, 42, 0⟩
def Lane.ELFILL : Field := ⟨0x20010018, 0x80, 256, 0x0, 1, 41, 37, 0⟩
def Lane.CTLE : Field := ⟨0x20010020, 0x80, 256, 0x0, 1, 60, 56, 0⟩
def Lane.DFETAP : Field := ⟨0x20010020, 0x80, 256, 0x0, 8, 6, 0, 7⟩
def Lane.FEPRE : Field := ⟨0x20010028, 0x80, 256, 0x0, 1, 63, 58, 0⟩
def Lane.FEMAIN : Field := ⟨0x20010028, 0x80, 256, 0x0, 1, 57, 52, 0⟩
def Lane.FEPOST : Field := ⟨0x20010028, 0x80, 256, 0x0, 1, 51, 46, 0⟩
def Lane.TXPRE : Field := ⟨0x20010028, 0x80, 256, 0x0, 1, 23, 16, 0⟩
def Lane.TXMAIN : Field := ⟨0x20010028, 0x80, 256, 0x0, 1, 15, 8, 0⟩
def Lane.TXPOST : Field := ⟨0x20010028, 0x80, 256, 0x0, 1, 7, 0, 0⟩
def Lane.SHDRERR : Field := ⟨0x20010030, 0x80, 256, 0x0, 1, 63, 32, 0⟩
def Lane.LOCKLOSS : Field := ⟨0x20010030, 0x80, 256, 0x0, 1, 31, 16, 0⟩
def Lane.EQBCNT : Field := ⟨0x20010030, 0x80, 256, 0x0, 1, 15, 0, 0⟩
def Lane.SKIPDEL : Field := ⟨0x20010038, 0x80, 256, 0x0, 1, 63, 32, 0⟩
def Lane.SKIPINS : Field := ⟨0x20010038, 0x80, 256, 0x0, 1, 31, 0, 0⟩
def Lane.PRBSBITS : Field := ⟨0x20010040, 0x80, 256, 0x0, 1, 47, 0, 0⟩
def Lane.PRBSSYNC : Field := ⟨0x20010048, 0x80, 256, 0x0, 1, 63, 63, 0⟩
def Lane.PRBSERRS : Field := ⟨0x20010048, 0x80, 256, 0x0, 1, 47, 0, 0⟩
def Lane.ESTATE : Field := ⟨0x20010050, 0x80, 256, 0x0, 1, 63, 62, 0⟩
def Lane.EWIDTH : Field := ⟨0x20010050, 0x80, 256, 0x0, 1, 55, 48, 0⟩
def Lane.EHEIGHT : Field := ⟨0x20010050, 0x80, 256, 0x0, 1, 47, 40, 0⟩
def Lane.EVCAUSE : Field := ⟨0x20010058, 0x80, 256, 0x0, 1, 15, 0, 0⟩

/-! ### LaneGroup: Table 2-7 (R107) -/
def LaneGroup.REFSEL : Field := ⟨0x20018000, 0x40, 16, 0x0, 1, 0, 0, 0⟩
def LaneGroup.REFOK : Field := ⟨0x20018008, 0x40, 16, 0x0, 1, 63, 63, 0⟩
def LaneGroup.REFFAULT : Field := ⟨0x20018008, 0x40, 16, 0x0, 1, 62, 62, 0⟩
def LaneGroup.REFPPB : Field := ⟨0x20018008, 0x40, 16, 0x0, 1, 31, 0, 0⟩

/-! ### SlaGlobal: Table 2-7 (R107) -/
def SlaGlobal.EYE_WMIN : Field := ⟨0x20019000, 0x0, 1, 0x0, 1, 63, 56, 0⟩
def SlaGlobal.EYE_HMIN : Field := ⟨0x20019000, 0x0, 1, 0x0, 1, 55, 48, 0⟩

/-! ### EslHead: Table 3-11 (R148) -/
def EslHead.CMDTO : Field := ⟨0x2002c000, 0x40, 32, 0x0, 1, 63, 47, 0⟩
def EslHead.XSETTO : Field := ⟨0x2002c000, 0x40, 32, 0x0, 1, 46, 30, 0⟩
def EslHead.DISCNT : Field := ⟨0x2002c008, 0x40, 32, 0x0, 1, 63, 32, 0⟩
def EslHead.MIXCNT : Field := ⟨0x2002c008, 0x40, 32, 0x0, 1, 31, 0, 0⟩
def EslHead.ORPHCNT : Field := ⟨0x2002c010, 0x40, 32, 0x0, 1, 63, 32, 0⟩
def EslHead.TYPECNT : Field := ⟨0x2002c010, 0x40, 32, 0x0, 1, 31, 0, 0⟩
def EslHead.STRAYCNT : Field := ⟨0x2002c018, 0x40, 32, 0x0, 1, 63, 32, 0⟩
def EslHead.CMDTOCNT : Field := ⟨0x2002c018, 0x40, 32, 0x0, 1, 31, 16, 0⟩
def EslHead.XSNACKCNT : Field := ⟨0x2002c018, 0x40, 32, 0x0, 1, 15, 0, 0⟩
def EslHead.CAMEVCNT : Field := ⟨0x2002c020, 0x40, 32, 0x0, 1, 63, 48, 0⟩
def EslHead.CAMEVCODE : Field := ⟨0x2002c020, 0x40, 32, 0x0, 1, 47, 32, 0⟩
def EslHead.CAMEVINFO : Field := ⟨0x2002c020, 0x40, 32, 0x0, 1, 31, 0, 0⟩
def EslHead.CAMDCAM : Field := ⟨0x2002c028, 0x40, 32, 0x0, 1, 63, 32, 0⟩
def EslHead.CAMCAPS : Field := ⟨0x2002c028, 0x40, 32, 0x0, 1, 31, 0, 0⟩
def EslHead.CAMMAXLEN : Field := ⟨0x2002c030, 0x40, 32, 0x0, 1, 31, 0, 0⟩
def EslHead.CAMLAYOUT : Field := ⟨0x2002c038, 0x40, 32, 0x0, 1, 31, 0, 0⟩

/-! ### Head: Table 4-3 (R171) -/
def Head.RUNNING : Field := ⟨0x20020000, 0x80, 32, 0x0, 1, 63, 63, 0⟩
def Head.LANES : Field := ⟨0x20020000, 0x80, 32, 0x0, 1, 62, 60, 0⟩
def Head.DEPTH : Field := ⟨0x20020000, 0x80, 32, 0x0, 1, 59, 57, 0⟩
def Head.FMT : Field := ⟨0x20020000, 0x80, 32, 0x0, 1, 56, 55, 0⟩
def Head.PADMODE : Field := ⟨0x20020000, 0x80, 32, 0x0, 1, 54, 54, 0⟩
def Head.STRIPW : Field := ⟨0x20020000, 0x80, 32, 0x0, 1, 53, 52, 0⟩
def Head.HW : Field := ⟨0x20020000, 0x80, 32, 0x0, 1, 16, 0, 0⟩
def Head.PADVAL : Field := ⟨0x20020028, 0x80, 32, 0x0, 1, 63, 48, 0⟩
def Head.EBWEIGHT : Field := ⟨0x20020028, 0x80, 32, 0x0, 1, 47, 40, 0⟩
def Head.SHARE : Field := ⟨0x20020028, 0x80, 32, 0x0, 1, 39, 32, 0⟩
def Head.LCTO : Field := ⟨0x20020028, 0x80, 32, 0x0, 1, 31, 24, 0⟩
def Head.TLTO : Field := ⟨0x20020028, 0x80, 32, 0x0, 1, 23, 16, 0⟩
def Head.LCMIN : Field := ⟨0x20020030, 0x80, 32, 0x0, 1, 63, 48, 0⟩
def Head.TLMIN : Field := ⟨0x20020030, 0x80, 32, 0x0, 1, 47, 32, 0⟩
def Head.BLKTO : Field := ⟨0x20020030, 0x80, 32, 0x0, 1, 31, 16, 0⟩
def Head.GAPFL : Field := ⟨0x20020030, 0x80, 32, 0x0, 1, 15, 0, 0⟩
def Head.EBSLOTS : Field := ⟨0x20020038, 0x80, 32, 0x0, 1, 63, 40, 0⟩
def Head.LSEQNEXT : Field := ⟨0x20020038, 0x80, 32, 0x0, 1, 39, 0, 0⟩
def Head.EBFILL : Field := ⟨0x20020040, 0x80, 32, 0x0, 1, 63, 40, 0⟩
def Head.EBBANKS : Field := ⟨0x20020040, 0x80, 32, 0x0, 1, 39, 32, 0⟩
def Head.LANEDOWN : Field := ⟨0x20020040, 0x80, 32, 0x0, 1, 31, 0, 0⟩
def Head.EBPEAK : Field := ⟨0x20020048, 0x80, 32, 0x0, 1, 63, 40, 0⟩
def Head.SHORTCNT : Field := ⟨0x20020050, 0x80, 32, 0x0, 1, 63, 32, 0⟩
def Head.LONGCNT : Field := ⟨0x20020050, 0x80, 32, 0x0, 1, 31, 0, 0⟩
def Head.CRCCNT : Field := ⟨0x20020058, 0x80, 32, 0x0, 1, 63, 32, 0⟩
def Head.LATECNT : Field := ⟨0x20020058, 0x80, 32, 0x0, 1, 31, 0, 0⟩
def Head.LOSTCNT : Field := ⟨0x20020060, 0x80, 32, 0x0, 1, 63, 32, 0⟩
def Head.EBFULLCNT : Field := ⟨0x20020060, 0x80, 32, 0x0, 1, 31, 0, 0⟩
def Head.NOLINECNT : Field := ⟨0x20020068, 0x80, 32, 0x0, 1, 63, 32, 0⟩
def Head.UNMATCHCNT : Field := ⟨0x20020068, 0x80, 32, 0x0, 1, 31, 0, 0⟩
def Head.LENCNT : Field := ⟨0x20020070, 0x80, 32, 0x0, 1, 63, 32, 0⟩
def Head.CLINECNT : Field := ⟨0x20020070, 0x80, 32, 0x0, 1, 31, 0, 0⟩
def Head.SHARECNT : Field := ⟨0x20020078, 0x80, 32, 0x0, 1, 63, 32, 0⟩
def Head.LANEMAP : Field := ⟨0x20020008, 0x80, 32, 0x0, 32, 7, 0, 8⟩

/-! ### Enc: Table 5-3 (R201) -/
def Enc.EN : Field := ⟨0x20030000, 0x80, 8, 0x0, 1, 63, 63, 0⟩
def Enc.HYST : Field := ⟨0x20030000, 0x80, 8, 0x0, 1, 62, 62, 0⟩
def Enc.ZMODE : Field := ⟨0x20030000, 0x80, 8, 0x0, 1, 61, 60, 0⟩
def Enc.ZGATE : Field := ⟨0x20030000, 0x80, 8, 0x0, 1, 59, 59, 0⟩
def Enc.INVDIR : Field := ⟨0x20030000, 0x80, 8, 0x0, 1, 58, 58, 0⟩
def Enc.DEC : Field := ⟨0x20030000, 0x80, 8, 0x0, 1, 57, 56, 0⟩
def Enc.FILT : Field := ⟨0x20030000, 0x80, 8, 0x0, 1, 55, 48, 0⟩
def Enc.BW : Field := ⟨0x20030000, 0x80, 8, 0x0, 1, 47, 32, 0⟩
def Enc.ILIM : Field := ⟨0x20030000, 0x80, 8, 0x0, 1, 31, 16, 0⟩
def Enc.LIMLO : Field := ⟨0x20030008, 0x80, 8, 0x0, 1, 63, 0, 0⟩
def Enc.LIMHI : Field := ⟨0x20030010, 0x80, 8, 0x0, 1, 63, 0, 0⟩
def Enc.CPR : Field := ⟨0x20030018, 0x80, 8, 0x0, 1, 63, 32, 0⟩
def Enc.COUNT : Field := ⟨0x20030020, 0x80, 8, 0x0, 1, 63, 0, 0⟩
def Enc.ZLATCH : Field := ⟨0x20030028, 0x80, 8, 0x0, 1, 63, 0, 0⟩
def Enc.OPOS : Field := ⟨0x20030030, 0x80, 8, 0x0, 1, 63, 0, 0⟩
def Enc.OFRAC : Field := ⟨0x20030038, 0x80, 8, 0x0, 1, 63, 48, 0⟩
def Enc.OSPD : Field := ⟨0x20030040, 0x80, 8, 0x0, 1, 63, 0, 0⟩
def Enc.OACC : Field := ⟨0x20030048, 0x80, 8, 0x0, 1, 63, 0, 0⟩
def Enc.ILLACT : Field := ⟨0x20030050, 0x80, 8, 0x0, 1, 22, 22, 0⟩
def Enc.WFZ : Field := ⟨0x20030050, 0x80, 8, 0x0, 1, 21, 21, 0⟩
def Enc.WFB : Field := ⟨0x20030050, 0x80, 8, 0x0, 1, 20, 20, 0⟩
def Enc.WFA : Field := ⟨0x20030050, 0x80, 8, 0x0, 1, 19, 19, 0⟩
def Enc.OBSOK : Field := ⟨0x20030050, 0x80, 8, 0x0, 1, 18, 18, 0⟩
def Enc.DIRN : Field := ⟨0x20030050, 0x80, 8, 0x0, 1, 17, 17, 0⟩
def Enc.LIMHIT : Field := ⟨0x20030050, 0x80, 8, 0x0, 1, 16, 16, 0⟩
def Enc.FEVEN : Field := ⟨0x20030050, 0x80, 8, 0x0, 1, 15, 8, 0⟩
def Enc.FCAUSE : Field := ⟨0x20030050, 0x80, 8, 0x0, 1, 7, 0, 0⟩
def Enc.ILLCNT : Field := ⟨0x20030058, 0x80, 8, 0x0, 1, 63, 32, 0⟩
def Enc.INNOVCNT : Field := ⟨0x20030058, 0x80, 8, 0x0, 1, 31, 0, 0⟩
def Enc.WIRECNT : Field := ⟨0x20030060, 0x80, 8, 0x0, 1, 63, 32, 0⟩
def Enc.ZERRCNT : Field := ⟨0x20030060, 0x80, 8, 0x0, 1, 31, 0, 0⟩
def Enc.EDGET : Field := ⟨0x20030068, 0x80, 8, 0x0, 1, 63, 0, 0⟩

/-! ### Ssi: Table 5-4 (R201) -/
def Ssi.EN : Field := ⟨0x20030400, 0x80, 4, 0x0, 1, 63, 63, 0⟩
def Ssi.GRAY : Field := ⟨0x20030400, 0x80, 4, 0x0, 1, 62, 62, 0⟩
def Ssi.BITS : Field := ⟨0x20030400, 0x80, 4, 0x0, 1, 61, 56, 0⟩
def Ssi.ERRBIT : Field := ⟨0x20030400, 0x80, 4, 0x0, 1, 55, 55, 0⟩
def Ssi.CLKDIV : Field := ⟨0x20030400, 0x80, 4, 0x0, 1, 53, 44, 0⟩
def Ssi.SDLY : Field := ⟨0x20030400, 0x80, 4, 0x0, 1, 43, 32, 0⟩
def Ssi.PERIOD : Field := ⟨0x20030400, 0x80, 4, 0x0, 1, 31, 16, 0⟩
def Ssi.TMON : Field := ⟨0x20030400, 0x80, 4, 0x0, 1, 15, 0, 0⟩
def Ssi.SSITO : Field := ⟨0x20030408, 0x80, 4, 0x0, 1, 63, 48, 0⟩
def Ssi.BW : Field := ⟨0x20030408, 0x80, 4, 0x0, 1, 47, 32, 0⟩
def Ssi.ILIM : Field := ⟨0x20030408, 0x80, 4, 0x0, 1, 31, 16, 0⟩
def Ssi.SLAT : Field := ⟨0x20030408, 0x80, 4, 0x0, 1, 15, 0, 0⟩
def Ssi.SVALUE : Field := ⟨0x20030410, 0x80, 4, 0x0, 1, 47, 0, 0⟩
def Ssi.SPOS : Field := ⟨0x20030418, 0x80, 4, 0x0, 1, 63, 0, 0⟩
def Ssi.OPOS : Field := ⟨0x20030420, 0x80, 4, 0x0, 1, 63, 0, 0⟩
def Ssi.OFRAC : Field := ⟨0x20030428, 0x80, 4, 0x0, 1, 63, 48, 0⟩
def Ssi.OSPD : Field := ⟨0x20030430, 0x80, 4, 0x0, 1, 63, 0, 0⟩
def Ssi.OACC : Field := ⟨0x20030438, 0x80, 4, 0x0, 1, 63, 0, 0⟩
def Ssi.OBSOK : Field := ⟨0x20030440, 0x80, 4, 0x0, 1, 16, 16, 0⟩
def Ssi.FEVEN : Field := ⟨0x20030440, 0x80, 4, 0x0, 1, 15, 8, 0⟩
def Ssi.FCAUSE : Field := ⟨0x20030440, 0x80, 4, 0x0, 1, 7, 0, 0⟩
def Ssi.FRAMES : Field := ⟨0x20030448, 0x80, 4, 0x0, 1, 63, 32, 0⟩
def Ssi.FAULTCNT : Field := ⟨0x20030448, 0x80, 4, 0x0, 1, 31, 0, 0⟩

/-! ### Probe: Table 5-5 (R201) -/
def Probe.EN : Field := ⟨0x20030600, 0x40, 8, 0x0, 1, 63, 63, 0⟩
def Probe.EDGE : Field := ⟨0x20030600, 0x40, 8, 0x0, 1, 62, 61, 0⟩
def Probe.PSRC : Field := ⟨0x20030600, 0x40, 8, 0x0, 1, 60, 56, 0⟩
def Probe.PFILT : Field := ⟨0x20030600, 0x40, 8, 0x0, 1, 55, 48, 0⟩
def Probe.FILL : Field := ⟨0x20030600, 0x40, 8, 0x0, 1, 47, 40, 0⟩
def Probe.OVFCNT : Field := ⟨0x20030600, 0x40, 8, 0x0, 1, 31, 0, 0⟩
def Probe.PTIME : Field := ⟨0x20030608, 0x40, 8, 0x0, 1, 63, 0, 0⟩
def Probe.PVAL : Field := ⟨0x20030610, 0x40, 8, 0x0, 1, 63, 0, 0⟩
def Probe.PVALID : Field := ⟨0x20030618, 0x40, 8, 0x0, 1, 63, 63, 0⟩
def Probe.PQUAL : Field := ⟨0x20030618, 0x40, 8, 0x0, 1, 62, 62, 0⟩
def Probe.PEDGE : Field := ⟨0x20030618, 0x40, 8, 0x0, 1, 61, 61, 0⟩

/-! ### Divider: Table 5-5 (R201) -/
def Divider.EN : Field := ⟨0x20030800, 0x20, 8, 0x0, 1, 63, 63, 0⟩
def Divider.DSRC : Field := ⟨0x20030800, 0x20, 8, 0x0, 1, 62, 60, 0⟩
def Divider.DINV : Field := ⟨0x20030800, 0x20, 8, 0x0, 1, 59, 59, 0⟩
def Divider.N : Field := ⟨0x20030800, 0x20, 8, 0x0, 1, 47, 32, 0⟩
def Divider.M : Field := ⟨0x20030800, 0x20, 8, 0x0, 1, 31, 16, 0⟩
def Divider.BACKLOG : Field := ⟨0x20030808, 0x20, 8, 0x0, 1, 63, 48, 0⟩
def Divider.DIVOVF : Field := ⟨0x20030808, 0x20, 8, 0x0, 1, 47, 47, 0⟩
def Divider.OUTCNT : Field := ⟨0x20030808, 0x20, 8, 0x0, 1, 31, 0, 0⟩

/-! ### WebPos: Table 5-6 (R201) -/
def WebPos.WPSRC : Field := ⟨0x20030900, 0x0, 1, 0x0, 1, 63, 59, 0⟩
def WebPos.WPALT : Field := ⟨0x20030900, 0x0, 1, 0x0, 1, 58, 54, 0⟩
def WebPos.ALTEN : Field := ⟨0x20030900, 0x0, 1, 0x0, 1, 53, 53, 0⟩
def WebPos.COAST : Field := ⟨0x20030900, 0x0, 1, 0x0, 1, 47, 32, 0⟩
def WebPos.SCALE : Field := ⟨0x20030908, 0x0, 1, 0x0, 1, 63, 0, 0⟩
def WebPos.WOFS : Field := ⟨0x20030910, 0x0, 1, 0x0, 1, 63, 0, 0⟩
def WebPos.PANCH : Field := ⟨0x20030918, 0x0, 1, 0x0, 1, 63, 0, 0⟩
def WebPos.WPVALID : Field := ⟨0x20030920, 0x0, 1, 0x0, 1, 63, 63, 0⟩
def WebPos.COASTING : Field := ⟨0x20030920, 0x0, 1, 0x0, 1, 62, 62, 0⟩
def WebPos.SWITCHED : Field := ⟨0x20030920, 0x0, 1, 0x0, 1, 61, 61, 0⟩
def WebPos.WPOS : Field := ⟨0x20030928, 0x0, 1, 0x0, 1, 63, 0, 0⟩
def WebPos.WPSPD : Field := ⟨0x20030930, 0x0, 1, 0x0, 1, 63, 0, 0⟩
def WebPos.WPSTEPNM : Field := ⟨0x20030938, 0x0, 1, 0x0, 1, 63, 0, 0⟩

/-! ### TesHead: Table 6-3 (R228) -/
def TesHead.TSRC : Field := ⟨0x20040000, 0x80, 32, 0x0, 1, 63, 62, 0⟩
def TesHead.INBAND : Field := ⟨0x20040000, 0x80, 32, 0x0, 1, 61, 61, 0⟩
def TesHead.PDIR : Field := ⟨0x20040000, 0x80, 32, 0x0, 1, 60, 60, 0⟩
def TesHead.ESRC : Field := ⟨0x20040000, 0x80, 32, 0x0, 1, 59, 57, 0⟩
def TesHead.LRMAX : Field := ⟨0x20040000, 0x80, 32, 0x0, 1, 31, 0, 0⟩
def TesHead.DY : Field := ⟨0x20040008, 0x80, 32, 0x0, 1, 39, 0, 0⟩
def TesHead.YORG : Field := ⟨0x20040010, 0x80, 32, 0x0, 1, 63, 0, 0⟩
def TesHead.EDGEN : Field := ⟨0x20040018, 0x80, 32, 0x0, 1, 63, 48, 0⟩
def TesHead.TPER : Field := ⟨0x20040018, 0x80, 32, 0x0, 1, 39, 0, 0⟩
def TesHead.TSTART : Field := ⟨0x20040020, 0x80, 32, 0x0, 1, 63, 0, 0⟩
def TesHead.TPW : Field := ⟨0x20040028, 0x80, 32, 0x0, 1, 63, 48, 0⟩
def TesHead.CABLE : Field := ⟨0x20040028, 0x80, 32, 0x0, 1, 47, 32, 0⟩
def TesHead.PINLAT : Field := ⟨0x20040028, 0x80, 32, 0x0, 1, 31, 0, 0⟩
def TesHead.XCUR : Field := ⟨0x20040030, 0x80, 32, 0x0, 1, 63, 56, 0⟩
def TesHead.XPEND : Field := ⟨0x20040030, 0x80, 32, 0x0, 1, 55, 48, 0⟩
def TesHead.XPV : Field := ⟨0x20040030, 0x80, 32, 0x0, 1, 47, 47, 0⟩
def TesHead.XPMODE : Field := ⟨0x20040030, 0x80, 32, 0x0, 1, 46, 46, 0⟩
def TesHead.XPAPPLY : Field := ⟨0x20040038, 0x80, 32, 0x0, 1, 63, 0, 0⟩
def TesHead.RUNNING : Field := ⟨0x20040040, 0x80, 32, 0x0, 1, 63, 63, 0⟩
def TesHead.HELD : Field := ⟨0x20040040, 0x80, 32, 0x0, 1, 62, 62, 0⟩
def TesHead.NOPOS : Field := ⟨0x20040040, 0x80, 32, 0x0, 1, 61, 61, 0⟩
def TesHead.TEVEN : Field := ⟨0x20040040, 0x80, 32, 0x0, 1, 23, 16, 0⟩
def TesHead.TRIGNUM : Field := ⟨0x20040040, 0x80, 32, 0x0, 1, 15, 0, 0⟩
def TesHead.HWM : Field := ⟨0x20040048, 0x80, 32, 0x0, 1, 63, 0, 0⟩
def TesHead.LASTT : Field := ⟨0x20040050, 0x80, 32, 0x0, 1, 63, 0, 0⟩
def TesHead.TRIGCNT : Field := ⟨0x20040058, 0x80, 32, 0x0, 1, 63, 32, 0⟩
def TesHead.USCNT : Field := ⟨0x20040058, 0x80, 32, 0x0, 1, 31, 0, 0⟩
def TesHead.SKIPCNT : Field := ⟨0x20040060, 0x80, 32, 0x0, 1, 63, 32, 0⟩
def TesHead.XLATECNT : Field := ⟨0x20040060, 0x80, 32, 0x0, 1, 31, 16, 0⟩
def TesHead.XMISCNT : Field := ⟨0x20040060, 0x80, 32, 0x0, 1, 15, 0, 0⟩
def TesHead.TCAUSE : Field := ⟨0x20040068, 0x80, 32, 0x0, 1, 7, 0, 0⟩

/-! ### Cut: Table 6-4 (R228) -/
def Cut.EPOCH : Field := ⟨0x20041000, 0x0, 1, 0x0, 1, 6, 0, 0⟩
def Cut.CUTPOS : Field := ⟨0x20041008, 0x0, 1, 0x0, 1, 63, 0, 0⟩
def Cut.CUTCNT : Field := ⟨0x20041010, 0x0, 1, 0x0, 1, 63, 32, 0⟩
def Cut.CUTLATECNT : Field := ⟨0x20041010, 0x0, 1, 0x0, 1, 31, 0, 0⟩

/-! ### Marker: Table 6-5 (R229) -/
def Marker.EN : Field := ⟨0x20094000, 0x40, 16, 0x0, 1, 63, 63, 0⟩
def Marker.MDIR : Field := ⟨0x20094000, 0x40, 16, 0x0, 1, 62, 62, 0⟩
def Marker.MSTRAW : Field := ⟨0x20094000, 0x40, 16, 0x0, 1, 61, 61, 0⟩
def Marker.VIEW : Field := ⟨0x20094000, 0x40, 16, 0x0, 1, 59, 56, 0⟩
def Marker.GRADEMIN : Field := ⟨0x20094000, 0x40, 16, 0x0, 1, 55, 48, 0⟩
def Marker.MPW : Field := ⟨0x20094000, 0x40, 16, 0x0, 1, 47, 32, 0⟩
def Marker.MKFULL : Field := ⟨0x20094000, 0x40, 16, 0x0, 1, 0, 0, 0⟩
def Marker.MOFS : Field := ⟨0x20094008, 0x40, 16, 0x0, 1, 63, 0, 0⟩
def Marker.XLO : Field := ⟨0x20094010, 0x40, 16, 0x0, 1, 63, 32, 0⟩
def Marker.XHI : Field := ⟨0x20094010, 0x40, 16, 0x0, 1, 31, 0, 0⟩
def Marker.FIRECNT : Field := ⟨0x20094038, 0x40, 16, 0x0, 1, 63, 32, 0⟩
def Marker.MISSCNT : Field := ⟨0x20094038, 0x40, 16, 0x0, 1, 31, 16, 0⟩
def Marker.MERGECNT : Field := ⟨0x20094038, 0x40, 16, 0x0, 1, 15, 0, 0⟩
def Marker.CLASSMASK : Field := ⟨0x20094018, 0x40, 16, 0x0, 256, 0, 0, 1⟩

/-! ### MarkerGlobal: Table 6-5 (R229) -/
def MarkerGlobal.MLATE : Field := ⟨0x20094400, 0x0, 1, 0x0, 1, 63, 32, 0⟩
def MarkerGlobal.PENDING : Field := ⟨0x20094400, 0x0, 1, 0x0, 1, 16, 0, 0⟩
def MarkerGlobal.MKFULLCNT : Field := ⟨0x20094408, 0x0, 1, 0x0, 1, 63, 32, 0⟩
def MarkerGlobal.MKLOSTCNT : Field := ⟨0x20094408, 0x0, 1, 0x0, 1, 31, 0, 0⟩

/-! ### Seq: Table 7-10 (R269) -/
def Seq.SQWDOG : Field := ⟨0x20000000, 0x0, 1, 0x0, 1, 63, 32, 0⟩
def Seq.OUTST : Field := ⟨0x20000000, 0x0, 1, 0x0, 1, 10, 0, 0⟩
def Seq.CMDCNT : Field := ⟨0x20000008, 0x0, 1, 0x0, 1, 63, 32, 0⟩
def Seq.HLATECNT : Field := ⟨0x20000008, 0x0, 1, 0x0, 1, 31, 0, 0⟩
def Seq.HFCODE : Field := ⟨0x20000010, 0x0, 1, 0x0, 1, 63, 56, 0⟩
def Seq.HFIADDR : Field := ⟨0x20000010, 0x0, 1, 0x0, 1, 47, 0, 0⟩

/-! ### Lrp: Table 7-11 (R269) -/
def Lrp.HALTED : Field := ⟨0x20050000, 0x40, 64, 0x0, 1, 63, 63, 0⟩
def Lrp.FCODE : Field := ⟨0x20050000, 0x40, 64, 0x0, 1, 55, 48, 0⟩
def Lrp.FIADDR : Field := ⟨0x20050000, 0x40, 64, 0x0, 1, 47, 0, 0⟩
def Lrp.FHEAD : Field := ⟨0x20050008, 0x40, 64, 0x0, 1, 63, 59, 0⟩
def Lrp.FSTRIP : Field := ⟨0x20050008, 0x40, 64, 0x0, 1, 58, 51, 0⟩
def Lrp.FLSEQ : Field := ⟨0x20050008, 0x40, 64, 0x0, 1, 39, 0, 0⟩
def Lrp.PHYS : Field := ⟨0x20050010, 0x40, 64, 0x0, 1, 63, 57, 0⟩
def Lrp.NASSIGN : Field := ⟨0x20050010, 0x40, 64, 0x0, 1, 56, 48, 0⟩
def Lrp.RUNCNT : Field := ⟨0x20050018, 0x40, 64, 0x0, 1, 63, 32, 0⟩
def Lrp.FAULTCNT : Field := ⟨0x20050018, 0x40, 64, 0x0, 1, 31, 16, 0⟩
def Lrp.JWAITCNT : Field := ⟨0x20050018, 0x40, 64, 0x0, 1, 15, 0, 0⟩

/-! ### RpaGlobal: Table 7-11 (R269) -/
def RpaGlobal.RUNLIMIT : Field := ⟨0x20051000, 0x0, 1, 0x0, 1, 63, 32, 0⟩
def RpaGlobal.LOADPEND : Field := ⟨0x20051018, 0x0, 1, 0x0, 1, 63, 63, 0⟩
def RpaGlobal.NOENTCNT : Field := ⟨0x20051018, 0x0, 1, 0x0, 1, 31, 0, 0⟩
def RpaGlobal.AVALID : Field := ⟨0x20051008, 0x0, 1, 0x8, 2, 63, 63, 0⟩
def RpaGlobal.AEPOCH : Field := ⟨0x20051008, 0x0, 1, 0x8, 2, 62, 56, 0⟩
def RpaGlobal.AIDENT : Field := ⟨0x20051008, 0x0, 1, 0x8, 2, 31, 0, 0⟩

/-! ### Pmu: Table 7-14 (R274) -/
def Pmu.COUNT : Field := ⟨0x20170000, 0x8, 1024, 0x0, 1, 47, 0, 0⟩
def Pmu.EN : Field := ⟨0x20172000, 0x8, 1024, 0x0, 1, 63, 63, 0⟩
def Pmu.CHAIN : Field := ⟨0x20172000, 0x8, 1024, 0x0, 1, 62, 62, 0⟩
def Pmu.UNIT : Field := ⟨0x20172000, 0x8, 1024, 0x0, 1, 61, 56, 0⟩
def Pmu.INST : Field := ⟨0x20172000, 0x8, 1024, 0x0, 1, 55, 48, 0⟩
def Pmu.EVT : Field := ⟨0x20172000, 0x8, 1024, 0x0, 1, 47, 40, 0⟩
def Pmu.SNAPVAL : Field := ⟨0x20174000, 0x8, 1024, 0x0, 1, 47, 0, 0⟩
def Pmu.SVALID : Field := ⟨0x20176000, 0x0, 1, 0x0, 1, 63, 63, 0⟩
def Pmu.SSEQ : Field := ⟨0x20176000, 0x0, 1, 0x0, 1, 47, 16, 0⟩
def Pmu.SEPOCH : Field := ⟨0x20176000, 0x0, 1, 0x0, 1, 6, 0, 0⟩
def Pmu.SRAW : Field := ⟨0x20176008, 0x0, 1, 0x0, 1, 63, 0, 0⟩
def Pmu.STIME : Field := ⟨0x20176010, 0x0, 1, 0x0, 1, 63, 0, 0⟩
def Pmu.SEN : Field := ⟨0x20177000, 0x20, 76, 0x0, 1, 63, 63, 0⟩
def Pmu.SWRAP : Field := ⟨0x20177000, 0x20, 76, 0x0, 1, 62, 62, 0⟩
def Pmu.SBASE : Field := ⟨0x20177000, 0x20, 76, 0x0, 1, 47, 0, 0⟩
def Pmu.SPERIOD : Field := ⟨0x20177008, 0x20, 76, 0x0, 1, 63, 48, 0⟩
def Pmu.SWPTR : Field := ⟨0x20177008, 0x20, 76, 0x0, 1, 43, 32, 0⟩
def Pmu.SDROP : Field := ⟨0x20177008, 0x20, 76, 0x0, 1, 31, 0, 0⟩
def Pmu.SFULL : Field := ⟨0x20177010, 0x20, 76, 0x0, 1, 63, 63, 0⟩
def Pmu.SCNT : Field := ⟨0x20177010, 0x20, 76, 0x0, 1, 31, 0, 0⟩

/-! ### RpaStat: Table 9-9 (R337) -/
def RpaStat.SBLOCKS : Field := ⟨0x20052000, 0x40, 32, 0x0, 1, 63, 32, 0⟩
def RpaStat.SWP : Field := ⟨0x20052000, 0x40, 32, 0x0, 1, 31, 0, 0⟩
def RpaStat.STATSDROP : Field := ⟨0x20052008, 0x40, 32, 0x0, 1, 63, 32, 0⟩
def RpaStat.HOLDNOW : Field := ⟨0x20052008, 0x40, 32, 0x0, 1, 15, 0, 0⟩
def RpaStat.HOLDCNT : Field := ⟨0x20052010, 0x40, 32, 0x0, 16, 15, 0, 16⟩

/-! ### View: Table 10-1 (R361) -/
def View.OPEN : Field := ⟨0x20060000, 0x200, 16, 0x0, 1, 63, 63, 0⟩
def View.NMEM : Field := ⟨0x20060000, 0x200, 16, 0x0, 1, 58, 53, 0⟩
def View.NCOL : Field := ⟨0x20060000, 0x200, 16, 0x0, 1, 52, 32, 0⟩
def View.XPITCH : Field := ⟨0x20060000, 0x200, 16, 0x0, 1, 31, 16, 0⟩
def View.FILLVAL : Field := ⟨0x20060000, 0x200, 16, 0x0, 1, 15, 0, 0⟩
def View.XORG : Field := ⟨0x20060008, 0x200, 16, 0x0, 1, 31, 0, 0⟩
def View.KSEL : Field := ⟨0x20060030, 0x200, 16, 0x0, 1, 63, 62, 0⟩
def View.SBWEIGHT : Field := ⟨0x20060030, 0x200, 16, 0x0, 1, 55, 48, 0⟩
def View.SBROWS : Field := ⟨0x20060030, 0x200, 16, 0x0, 1, 31, 0, 0⟩
def View.EMODE : Field := ⟨0x20060038, 0x200, 16, 0x0, 1, 63, 62, 0⟩
def View.EPOL : Field := ⟨0x20060038, 0x200, 16, 0x0, 1, 61, 61, 0⟩
def View.ETHR : Field := ⟨0x20060038, 0x200, 16, 0x0, 1, 47, 32, 0⟩
def View.EIN : Field := ⟨0x20060038, 0x200, 16, 0x0, 1, 15, 0, 0⟩
def View.XEL : Field := ⟨0x20060040, 0x200, 16, 0x0, 1, 63, 32, 0⟩
def View.XER : Field := ⟨0x20060040, 0x200, 16, 0x0, 1, 31, 0, 0⟩
def View.REMOTEL : Field := ⟨0x20060048, 0x200, 16, 0x0, 1, 63, 63, 0⟩
def View.REMOTER : Field := ⟨0x20060048, 0x200, 16, 0x0, 1, 62, 62, 0⟩
def View.EXW : Field := ⟨0x20060048, 0x200, 16, 0x0, 1, 42, 32, 0⟩
def View.XLAG : Field := ⟨0x20060048, 0x200, 16, 0x0, 1, 31, 24, 0⟩
def View.EDGETO : Field := ⟨0x20060048, 0x200, 16, 0x0, 1, 23, 0, 0⟩
def View.REMSIG : Field := ⟨0x20060050, 0x200, 16, 0x0, 1, 63, 32, 0⟩
def View.OPENLSEQ : Field := ⟨0x20060058, 0x200, 16, 0x0, 1, 39, 0, 0⟩
def View.OPENPOS : Field := ⟨0x20060060, 0x200, 16, 0x0, 1, 63, 0, 0⟩
def View.CLOSELSEQ : Field := ⟨0x20060068, 0x200, 16, 0x0, 1, 39, 0, 0⟩
def View.VROWS : Field := ⟨0x20060070, 0x200, 16, 0x0, 1, 63, 32, 0⟩
def View.NOTOPENCNT : Field := ⟨0x20060070, 0x200, 16, 0x0, 1, 31, 0, 0⟩
def View.EDGECLCNT : Field := ⟨0x20060078, 0x200, 16, 0x0, 1, 63, 32, 0⟩
def View.EDGEMISS : Field := ⟨0x20060078, 0x200, 16, 0x0, 1, 31, 0, 0⟩
def View.SIGMISS : Field := ⟨0x20060080, 0x200, 16, 0x0, 1, 63, 32, 0⟩
def View.VGAPCNT : Field := ⟨0x20060080, 0x200, 16, 0x0, 1, 31, 0, 0⟩
def View.MEMBERS : Field := ⟨0x20060010, 0x200, 16, 0x0, 32, 7, 0, 8⟩

/-! ### Seam: Table 10-2 (R361) -/
def Seam.SMODE : Field := ⟨0x20062000, 0x800, 16, 0x40, 32, 63, 62, 0⟩
def Seam.HELD : Field := ⟨0x20062000, 0x800, 16, 0x40, 32, 61, 61, 0⟩
def Seam.CONFLOW : Field := ⟨0x20062000, 0x800, 16, 0x40, 32, 60, 60, 0⟩
def Seam.SMIN : Field := ⟨0x20062000, 0x800, 16, 0x40, 32, 47, 32, 0⟩
def Seam.SMAX : Field := ⟨0x20062000, 0x800, 16, 0x40, 32, 31, 16, 0⟩
def Seam.SLEW : Field := ⟨0x20062000, 0x800, 16, 0x40, 32, 15, 0, 0⟩
def Seam.SPIN : Field := ⟨0x20062008, 0x800, 16, 0x40, 32, 63, 48, 0⟩
def Seam.GAIN : Field := ⟨0x20062008, 0x800, 16, 0x40, 32, 47, 39, 0⟩
def Seam.CMIN : Field := ⟨0x20062008, 0x800, 16, 0x40, 32, 38, 31, 0⟩
def Seam.FW : Field := ⟨0x20062010, 0x800, 16, 0x40, 32, 47, 32, 0⟩
def Seam.CS : Field := ⟨0x20062010, 0x800, 16, 0x40, 32, 20, 0, 0⟩
def Seam.SIGMA : Field := ⟨0x20062018, 0x800, 16, 0x40, 32, 63, 48, 0⟩
def Seam.DELTA : Field := ⟨0x20062018, 0x800, 16, 0x40, 32, 47, 32, 0⟩
def Seam.CONF : Field := ⟨0x20062018, 0x800, 16, 0x40, 32, 31, 24, 0⟩
def Seam.SBCNT : Field := ⟨0x20062020, 0x800, 16, 0x40, 32, 63, 32, 0⟩
def Seam.CHOLDCNT : Field := ⟨0x20062020, 0x800, 16, 0x40, 32, 31, 0, 0⟩
def Seam.RANGECNT : Field := ⟨0x20062028, 0x800, 16, 0x40, 32, 63, 32, 0⟩

/-! ### Geom: Table 10-3 (R361) -/
def Geom.GOFS : Field := ⟨0x2006a030, 0x40, 32, 0x0, 1, 31, 0, 0⟩
def Geom.MEMBER : Field := ⟨0x2006a038, 0x40, 32, 0x0, 1, 63, 63, 0⟩
def Geom.VIEW : Field := ⟨0x2006a038, 0x40, 32, 0x0, 1, 61, 58, 0⟩
def Geom.MIDX : Field := ⟨0x2006a038, 0x40, 32, 0x0, 1, 57, 53, 0⟩
def Geom.XS : Field := ⟨0x2006a038, 0x40, 32, 0x0, 1, 31, 0, 0⟩
def Geom.C : Field := ⟨0x2006a000, 0x40, 32, 0x8, 6, 63, 0, 0⟩

/-! ### RtkView: Table 11-6 (R383) -/
def RtkView.PGRP : Field := ⟨0x20070000, 0x80, 16, 0x0, 1, 63, 0, 0⟩
def RtkView.ISRC : Field := ⟨0x20070008, 0x80, 16, 0x0, 1, 63, 62, 0⟩
def RtkView.FEN : Field := ⟨0x20070008, 0x80, 16, 0x0, 1, 61, 58, 0⟩
def RtkView.STRAW : Field := ⟨0x20070008, 0x80, 16, 0x0, 1, 24, 0, 0⟩
def RtkView.RTMAX : Field := ⟨0x20070010, 0x80, 16, 0x0, 1, 52, 32, 0⟩
def RtkView.MINAREA : Field := ⟨0x20070010, 0x80, 16, 0x0, 1, 31, 0, 0⟩
def RtkView.GAPBRIDGE : Field := ⟨0x20070018, 0x80, 16, 0x0, 1, 15, 0, 0⟩
def RtkView.FULLNOW : Field := ⟨0x20070020, 0x80, 16, 0x0, 1, 63, 63, 0⟩
def RtkView.OPENPEAK : Field := ⟨0x20070020, 0x80, 16, 0x0, 1, 52, 32, 0⟩
def RtkView.OPENREG : Field := ⟨0x20070020, 0x80, 16, 0x0, 1, 20, 0, 0⟩
def RtkView.RSERNEXT : Field := ⟨0x20070028, 0x80, 16, 0x0, 1, 47, 0, 0⟩
def RtkView.RECCNT : Field := ⟨0x20070030, 0x80, 16, 0x0, 1, 63, 32, 0⟩
def RtkView.STRAWCNT : Field := ⟨0x20070030, 0x80, 16, 0x0, 1, 31, 0, 0⟩
def RtkView.JOINCNT : Field := ⟨0x20070038, 0x80, 16, 0x0, 1, 63, 32, 0⟩
def RtkView.SPECKCNT : Field := ⟨0x20070038, 0x80, 16, 0x0, 1, 31, 0, 0⟩
def RtkView.FULLCNT : Field := ⟨0x20070040, 0x80, 16, 0x0, 1, 63, 32, 0⟩
def RtkView.DIVCNT : Field := ⟨0x20070040, 0x80, 16, 0x0, 1, 31, 0, 0⟩
def RtkView.GAPCLCNT : Field := ⟨0x20070048, 0x80, 16, 0x0, 1, 63, 32, 0⟩
def RtkView.CONTMISSCNT : Field := ⟨0x20070048, 0x80, 16, 0x0, 1, 31, 0, 0⟩

/-! ### RtkGlobal: Table 11-6 (R383) -/
def RtkGlobal.RTUSED : Field := ⟨0x20071000, 0x0, 1, 0x0, 1, 52, 32, 0⟩
def RtkGlobal.FIFOFILL : Field := ⟨0x20071000, 0x0, 1, 0x0, 1, 16, 0, 0⟩

/-! ### RclGlobal: Table 11-11 (R394) -/
def RclGlobal.MLOADPEND : Field := ⟨0x20080010, 0x0, 1, 0x0, 1, 63, 63, 0⟩
def RclGlobal.AVALID : Field := ⟨0x20080000, 0x0, 1, 0x8, 2, 63, 63, 0⟩
def RclGlobal.AEPOCH : Field := ⟨0x20080000, 0x0, 1, 0x8, 2, 62, 56, 0⟩
def RclGlobal.ANODES : Field := ⟨0x20080000, 0x0, 1, 0x8, 2, 50, 32, 0⟩
def RclGlobal.AIDENT : Field := ⟨0x20080000, 0x0, 1, 0x8, 2, 31, 0, 0⟩

/-! ### RclView: Table 11-11 (R394) -/
def RclView.CLSCNT : Field := ⟨0x20080100, 0x20, 16, 0x0, 1, 63, 32, 0⟩
def RclView.UNCLCNT : Field := ⟨0x20080100, 0x20, 16, 0x0, 1, 31, 0, 0⟩
def RclView.DIVCNT : Field := ⟨0x20080108, 0x20, 16, 0x0, 1, 63, 32, 0⟩
def RclView.LINKCNT : Field := ⟨0x20080108, 0x20, 16, 0x0, 1, 31, 0, 0⟩

/-! ### Ledger: Table 1-11, Table 12-6 (R412) -/
def Ledger.LBASE : Field := ⟨0x20090000, 0x0, 1, 0x0, 1, 47, 0, 0⟩
def Ledger.LOG2N : Field := ⟨0x20090008, 0x0, 1, 0x0, 1, 63, 59, 0⟩
def Ledger.RDEN : Field := ⟨0x20090008, 0x0, 1, 0x0, 1, 58, 56, 0⟩
def Ledger.COLLECT : Field := ⟨0x20090008, 0x0, 1, 0x0, 1, 55, 55, 0⟩
def Ledger.LRESV : Field := ⟨0x20090008, 0x0, 1, 0x0, 1, 16, 0, 0⟩
def Ledger.DSEQBASE : Field := ⟨0x20090010, 0x0, 1, 0x0, 1, 49, 0, 0⟩
def Ledger.LINKAGE : Field := ⟨0x20090018, 0x0, 1, 0x0, 1, 15, 0, 0⟩
def Ledger.LWP : Field := ⟨0x20090020, 0x0, 1, 0x0, 1, 63, 0, 0⟩
def Ledger.LRD0 : Field := ⟨0x20090028, 0x0, 1, 0x0, 1, 63, 0, 0⟩
def Ledger.LRD1 : Field := ⟨0x20090030, 0x0, 1, 0x0, 1, 63, 0, 0⟩
def Ledger.DSEQNEXT : Field := ⟨0x20090038, 0x0, 1, 0x0, 1, 49, 0, 0⟩
def Ledger.DUPCNT : Field := ⟨0x20090040, 0x0, 1, 0x0, 1, 63, 32, 0⟩
def Ledger.FDUPCNT : Field := ⟨0x20090040, 0x0, 1, 0x0, 1, 31, 0, 0⟩
def Ledger.DLGDIVCNT : Field := ⟨0x20090048, 0x0, 1, 0x0, 1, 63, 32, 0⟩
def Ledger.LINKCNT : Field := ⟨0x20090048, 0x0, 1, 0x0, 1, 31, 0, 0⟩
def Ledger.LINKEVCNT : Field := ⟨0x20090050, 0x0, 1, 0x0, 1, 63, 32, 0⟩
def Ledger.CTFILL : Field := ⟨0x20090050, 0x0, 1, 0x0, 1, 16, 0, 0⟩
def Ledger.TROWS : Field := ⟨0x20098000, 0x0, 1, 0x20, 256, 63, 0, 0⟩
def Ledger.TSPANS : Field := ⟨0x20098008, 0x0, 1, 0x20, 256, 63, 0, 0⟩
def Ledger.TYMIN : Field := ⟨0x20098010, 0x0, 1, 0x20, 256, 63, 0, 0⟩
def Ledger.TYMAX : Field := ⟨0x20098018, 0x0, 1, 0x20, 256, 63, 0, 0⟩

/-! ### DlgView: Table 12-6 (R412) -/
def DlgView.LYOFS : Field := ⟨0x20090100, 0x10, 16, 0x0, 1, 63, 0, 0⟩
def DlgView.LXOFS : Field := ⟨0x20090108, 0x10, 16, 0x0, 1, 31, 0, 0⟩

/-! ### HisHead: Table 12-9 (R426) -/
def HisHead.EN : Field := ⟨0x200a0000, 0x80, 32, 0x0, 1, 63, 63, 0⟩
def HisHead.PRED : Field := ⟨0x200a0000, 0x80, 32, 0x0, 1, 62, 60, 0⟩
def HisHead.HBASE : Field := ⟨0x200a0000, 0x80, 32, 0x0, 1, 47, 0, 0⟩
def HisHead.HSIZE : Field := ⟨0x200a0008, 0x80, 32, 0x0, 1, 38, 0, 0⟩
def HisHead.DLOG : Field := ⟨0x200a0010, 0x80, 32, 0x0, 1, 52, 48, 0⟩
def HisHead.DIRBASE : Field := ⟨0x200a0010, 0x80, 32, 0x0, 1, 47, 0, 0⟩
def HisHead.HFLUSH : Field := ⟨0x200a0018, 0x80, 32, 0x0, 1, 15, 0, 0⟩
def HisHead.HWP : Field := ⟨0x200a0020, 0x80, 32, 0x0, 1, 38, 0, 0⟩
def HisHead.DWP : Field := ⟨0x200a0028, 0x80, 32, 0x0, 1, 63, 0, 0⟩
def HisHead.FRAMECNT : Field := ⟨0x200a0030, 0x80, 32, 0x0, 1, 63, 32, 0⟩
def HisHead.HDIVCNT : Field := ⟨0x200a0030, 0x80, 32, 0x0, 1, 31, 0, 0⟩
def HisHead.DIRLOSTCNT : Field := ⟨0x200a0038, 0x80, 32, 0x0, 1, 63, 32, 0⟩
def HisHead.CROPCNT : Field := ⟨0x200a0038, 0x80, 32, 0x0, 1, 31, 0, 0⟩
def HisHead.OBYTES : Field := ⟨0x200a0040, 0x80, 32, 0x0, 1, 63, 0, 0⟩
def HisHead.SBYTES : Field := ⟨0x200a0048, 0x80, 32, 0x0, 1, 63, 0, 0⟩

/-! ### Cmp: Table 12-9 (R426) -/
def Cmp.SEARCH : Field := ⟨0x200b0000, 0x0, 1, 0x0, 1, 5, 0, 0⟩
def Cmp.CRCFAILCNT : Field := ⟨0x200b0008, 0x0, 1, 0x0, 1, 63, 32, 0⟩
def Cmp.STREAMERRCNT : Field := ⟨0x200b0008, 0x0, 1, 0x0, 1, 31, 0, 0⟩

/-! ### Stream: Table 13-2, Table 13-3 (R444) -/
def Stream.NH : Field := ⟨0x200c0088, 0x200, 8, 0x10, 12, 15, 13, 0⟩
def Stream.SHIFT : Field := ⟨0x200c0088, 0x200, 8, 0x10, 12, 3, 0, 0⟩
def Stream.SRCT : Field := ⟨0x200c0000, 0x200, 8, 0x0, 1, 63, 63, 0⟩
def Stream.SRC : Field := ⟨0x200c0000, 0x200, 8, 0x0, 1, 62, 58, 0⟩
def Stream.SLOTSEL : Field := ⟨0x200c0000, 0x200, 8, 0x0, 1, 57, 55, 0⟩
def Stream.KX : Field := ⟨0x200c0000, 0x200, 8, 0x0, 1, 54, 52, 0⟩
def Stream.KY : Field := ⟨0x200c0000, 0x200, 8, 0x0, 1, 51, 49, 0⟩
def Stream.OBYTE : Field := ⟨0x200c0000, 0x200, 8, 0x0, 1, 48, 48, 0⟩
def Stream.DEST : Field := ⟨0x200c0000, 0x200, 8, 0x0, 1, 47, 47, 0⟩
def Stream.DMACH : Field := ⟨0x200c0000, 0x200, 8, 0x0, 1, 46, 43, 0⟩
def Stream.DNODE : Field := ⟨0x200c0000, 0x200, 8, 0x0, 1, 13, 0, 0⟩
def Stream.CW : Field := ⟨0x200c0008, 0x200, 8, 0x0, 1, 52, 32, 0⟩
def Stream.C0 : Field := ⟨0x200c0008, 0x200, 8, 0x0, 1, 20, 0, 0⟩
def Stream.RBASE : Field := ⟨0x200c0010, 0x200, 8, 0x0, 1, 47, 0, 0⟩
def Stream.RLOG : Field := ⟨0x200c0018, 0x200, 8, 0x0, 1, 63, 59, 0⟩
def Stream.FROWS : Field := ⟨0x200c0018, 0x200, 8, 0x0, 1, 47, 32, 0⟩
def Stream.OGAPMAX : Field := ⟨0x200c0018, 0x200, 8, 0x0, 1, 15, 0, 0⟩
def Stream.LBASE : Field := ⟨0x200c0020, 0x200, 8, 0x0, 1, 47, 0, 0⟩
def Stream.RUNNING : Field := ⟨0x200c0040, 0x200, 8, 0x0, 1, 63, 63, 0⟩
def Stream.STOPPING : Field := ⟨0x200c0040, 0x200, 8, 0x0, 1, 62, 62, 0⟩
def Stream.ROWBYTES : Field := ⟨0x200c0040, 0x200, 8, 0x0, 1, 31, 0, 0⟩
def Stream.ORWP : Field := ⟨0x200c0048, 0x200, 8, 0x0, 1, 63, 0, 0⟩
def Stream.DELAY : Field := ⟨0x200c0050, 0x200, 8, 0x0, 1, 31, 0, 0⟩
def Stream.LBSIZE : Field := ⟨0x200c0050, 0x200, 8, 0x0, 1, 63, 32, 0⟩
def Stream.DIVCNT : Field := ⟨0x200c0058, 0x200, 8, 0x0, 1, 63, 32, 0⟩
def Stream.SATCNT : Field := ⟨0x200c0058, 0x200, 8, 0x0, 1, 31, 0, 0⟩
def Stream.FILLCNT : Field := ⟨0x200c0060, 0x200, 8, 0x0, 1, 63, 32, 0⟩
def Stream.RESTCNT : Field := ⟨0x200c0060, 0x200, 8, 0x0, 1, 31, 0, 0⟩
def Stream.FRAMECNT : Field := ⟨0x200c0068, 0x200, 8, 0x0, 1, 63, 32, 0⟩
def Stream.OUTCNT : Field := ⟨0x200c0068, 0x200, 8, 0x0, 1, 31, 0, 0⟩
def Stream.H1 : Field := ⟨0x200c0080, 0x200, 8, 0x10, 12, 63, 48, 0⟩
def Stream.H3 : Field := ⟨0x200c0080, 0x200, 8, 0x10, 12, 47, 32, 0⟩
def Stream.H5 : Field := ⟨0x200c0080, 0x200, 8, 0x10, 12, 31, 16, 0⟩
def Stream.H7 : Field := ⟨0x200c0080, 0x200, 8, 0x10, 12, 15, 0, 0⟩
def Stream.H9 : Field := ⟨0x200c0088, 0x200, 8, 0x10, 12, 63, 48, 0⟩
def Stream.H11 : Field := ⟨0x200c0088, 0x200, 8, 0x10, 12, 47, 32, 0⟩
def Stream.H13 : Field := ⟨0x200c0088, 0x200, 8, 0x10, 12, 31, 16, 0⟩

/-! ### Mem: Table 14-2 (R452) -/
def Mem.MODE : Field := ⟨0x200f0000, 0x8, 256, 0x0, 1, 63, 63, 0⟩
def Mem.POWER : Field := ⟨0x200f0000, 0x8, 256, 0x0, 1, 62, 61, 0⟩
def Mem.PSTATE : Field := ⟨0x200f0000, 0x8, 256, 0x0, 1, 60, 59, 0⟩
def Mem.USE : Field := ⟨0x200f0000, 0x8, 256, 0x0, 1, 58, 56, 0⟩
def Mem.ROWSTORE : Field := ⟨0x200f0800, 0x0, 1, 0x0, 1, 63, 0, 0⟩
def Mem.CONFCNT : Field := ⟨0x200f1000, 0x8, 128, 0x0, 1, 63, 32, 0⟩
def Mem.BUSYCNT : Field := ⟨0x200f1000, 0x8, 128, 0x0, 1, 31, 0, 0⟩

/-! ### Dmc: Table 14-6 (R460) -/
def Dmc.SPEED : Field := ⟨0x200d0000, 0x100, 8, 0x0, 1, 63, 61, 0⟩
def Dmc.DIMMS : Field := ⟨0x200d0000, 0x100, 8, 0x0, 1, 60, 59, 0⟩
def Dmc.RANKS : Field := ⟨0x200d0000, 0x100, 8, 0x0, 1, 58, 56, 0⟩
def Dmc.DEVW : Field := ⟨0x200d0000, 0x100, 8, 0x0, 1, 55, 55, 0⟩
def Dmc.DENS : Field := ⟨0x200d0000, 0x100, 8, 0x0, 1, 54, 53, 0⟩
def Dmc.TCL : Field := ⟨0x200d0008, 0x100, 8, 0x0, 1, 63, 56, 0⟩
def Dmc.TRCD : Field := ⟨0x200d0008, 0x100, 8, 0x0, 1, 55, 48, 0⟩
def Dmc.TRP : Field := ⟨0x200d0008, 0x100, 8, 0x0, 1, 47, 40, 0⟩
def Dmc.TRAS : Field := ⟨0x200d0008, 0x100, 8, 0x0, 1, 39, 32, 0⟩
def Dmc.TRFC : Field := ⟨0x200d0008, 0x100, 8, 0x0, 1, 31, 16, 0⟩
def Dmc.TREFI : Field := ⟨0x200d0008, 0x100, 8, 0x0, 1, 15, 0, 0⟩
def Dmc.SPAREEN : Field := ⟨0x200d0010, 0x100, 8, 0x0, 1, 63, 63, 0⟩
def Dmc.SPARERANK : Field := ⟨0x200d0010, 0x100, 8, 0x0, 1, 62, 61, 0⟩
def Dmc.MIGSHARE : Field := ⟨0x200d0010, 0x100, 8, 0x0, 1, 47, 40, 0⟩
def Dmc.RTINT : Field := ⟨0x200d0010, 0x100, 8, 0x0, 1, 31, 16, 0⟩
def Dmc.DEYEMIN : Field := ⟨0x200d0010, 0x100, 8, 0x0, 1, 15, 8, 0⟩
def Dmc.CHSTATE : Field := ⟨0x200d0018, 0x100, 8, 0x0, 1, 63, 60, 0⟩
def Dmc.RETIRED : Field := ⟨0x200d0018, 0x100, 8, 0x0, 1, 59, 56, 0⟩
def Dmc.EYEMIN : Field := ⟨0x200d0018, 0x100, 8, 0x0, 1, 55, 48, 0⟩
def Dmc.MIGPCT : Field := ⟨0x200d0018, 0x100, 8, 0x0, 1, 47, 40, 0⟩
def Dmc.MIGRANK : Field := ⟨0x200d0018, 0x100, 8, 0x0, 1, 39, 38, 0⟩
def Dmc.CECNT : Field := ⟨0x200d0030, 0x100, 8, 0x0, 1, 63, 32, 0⟩
def Dmc.UECNT : Field := ⟨0x200d0030, 0x100, 8, 0x0, 1, 31, 0, 0⟩
def Dmc.PARCNT : Field := ⟨0x200d0038, 0x100, 8, 0x0, 1, 63, 32, 0⟩
def Dmc.RTCNT : Field := ⟨0x200d0038, 0x100, 8, 0x0, 1, 31, 0, 0⟩
def Dmc.POISONADDR : Field := ⟨0x200d0040, 0x100, 8, 0x0, 1, 39, 0, 0⟩
def Dmc.EYEW : Field := ⟨0x200d0020, 0x100, 8, 0x0, 10, 7, 0, 8⟩

/-! ### Dma: Table 14-9 (R471) -/
def Dma.OWNER : Field := ⟨0x200e0000, 0x40, 16, 0x0, 1, 63, 62, 0⟩
def Dma.QFILL : Field := ⟨0x200e0000, 0x40, 16, 0x0, 1, 61, 59, 0⟩
def Dma.ACTIVE : Field := ⟨0x200e0000, 0x40, 16, 0x0, 1, 58, 58, 0⟩
def Dma.HALF : Field := ⟨0x200e0000, 0x40, 16, 0x0, 1, 1, 1, 0⟩
def Dma.FULL : Field := ⟨0x200e0000, 0x40, 16, 0x0, 1, 0, 0, 0⟩
def Dma.DONE : Field := ⟨0x200e0008, 0x40, 16, 0x0, 1, 39, 0, 0⟩
def Dma.FIRSTMIS : Field := ⟨0x200e0010, 0x40, 16, 0x0, 1, 63, 24, 0⟩
def Dma.DRESULT : Field := ⟨0x200e0010, 0x40, 16, 0x0, 1, 7, 0, 0⟩
def Dma.DESCCNT : Field := ⟨0x200e0018, 0x40, 16, 0x0, 1, 63, 32, 0⟩
def Dma.TOCNT : Field := ⟨0x200e0018, 0x40, 16, 0x0, 1, 31, 0, 0⟩
def Dma.ERRCNT : Field := ⟨0x200e0020, 0x40, 16, 0x0, 1, 63, 32, 0⟩
def Dma.MISCNT : Field := ⟨0x200e0020, 0x40, 16, 0x0, 1, 31, 0, 0⟩

/-! ### Bar0: Table 15-2 (R476) -/
def Bar0.PART : Field := ⟨0x1000000000000, 0x0, 1, 0x0, 1, 63, 48, 0⟩
def Bar0.STEPPING : Field := ⟨0x1000000000000, 0x0, 1, 0x0, 1, 47, 40, 0⟩
def Bar0.NODE : Field := ⟨0x1000000000000, 0x0, 1, 0x0, 1, 13, 0, 0⟩
def Bar0.KSRC : Field := ⟨0x1000000000010, 0x0, 1, 0x0, 1, 59, 56, 0⟩
def Bar0.KIDENT : Field := ⟨0x1000000000010, 0x0, 1, 0x0, 1, 31, 0, 0⟩
def Bar0.BOOTDB : Field := ⟨0x1000000000018, 0x0, 1, 0x0, 1, 31, 0, 0⟩
def Bar0.RESETKEY : Field := ⟨0x1000000000020, 0x0, 1, 0x0, 1, 15, 0, 0⟩
def Bar0.EVFIRE : Field := ⟨0x1000000000028, 0x0, 1, 0x0, 1, 6, 0, 0⟩
def Bar0.CBASE : Field := ⟨0x1000000000100, 0x0, 1, 0x0, 1, 46, 0, 0⟩
def Bar0.CEN : Field := ⟨0x1000000000108, 0x0, 1, 0x0, 1, 63, 63, 0⟩
def Bar0.CERR : Field := ⟨0x1000000000108, 0x0, 1, 0x0, 1, 62, 56, 0⟩
def Bar0.CLOG : Field := ⟨0x1000000000108, 0x0, 1, 0x0, 1, 51, 48, 0⟩
def Bar0.CSTAGE : Field := ⟨0x1000000000108, 0x0, 1, 0x0, 1, 26, 0, 0⟩
def Bar0.CMDDB : Field := ⟨0x1000000000110, 0x0, 1, 0x0, 1, 31, 0, 0⟩
def Bar0.CHEAD : Field := ⟨0x1000000000118, 0x0, 1, 0x0, 1, 31, 0, 0⟩
def Bar0.CCBASE : Field := ⟨0x1000000000120, 0x0, 1, 0x0, 1, 46, 0, 0⟩
def Bar0.CCCONS : Field := ⟨0x1000000000128, 0x0, 1, 0x0, 1, 63, 0, 0⟩
def Bar0.HLBASE : Field := ⟨0x1000000000140, 0x0, 1, 0x0, 1, 46, 0, 0⟩
def Bar0.HLEN : Field := ⟨0x1000000000148, 0x0, 1, 0x0, 1, 63, 63, 0⟩
def Bar0.HLLOG : Field := ⟨0x1000000000148, 0x0, 1, 0x0, 1, 52, 48, 0⟩
def Bar0.HLCONS : Field := ⟨0x1000000000150, 0x0, 1, 0x0, 1, 63, 0, 0⟩
def Bar0.MBASE : Field := ⟨0x1000000000180, 0x0, 1, 0x0, 1, 46, 0, 0⟩
def Bar0.MEN : Field := ⟨0x1000000000188, 0x0, 1, 0x0, 1, 63, 63, 0⟩
def Bar0.MREFRESH : Field := ⟨0x1000000000188, 0x0, 1, 0x0, 1, 31, 0, 0⟩
def Bar0.W2BASE : Field := ⟨0x10000000001c0, 0x8, 4, 0x0, 1, 47, 32, 0⟩
def Bar0.DBERRCNT : Field := ⟨0x1000000000200, 0x0, 1, 0x0, 1, 63, 32, 0⟩
def Bar0.B2ERRCNT : Field := ⟨0x1000000000200, 0x0, 1, 0x0, 1, 31, 0, 0⟩

/-! ### Wlk: Table 16-5 (R527) -/
def Wlk.CUTDOM : Field := ⟨0x20110000, 0x0, 1, 0x0, 1, 63, 63, 0⟩
def Wlk.OUTDOMAIN : Field := ⟨0x20110000, 0x0, 1, 0x0, 1, 62, 62, 0⟩
def Wlk.MASTER : Field := ⟨0x20110000, 0x0, 1, 0x0, 1, 61, 61, 0⟩
def Wlk.NODE : Field := ⟨0x20110000, 0x0, 1, 0x0, 1, 13, 0, 0⟩
def Wlk.CUTWIN : Field := ⟨0x20110008, 0x0, 1, 0x0, 1, 63, 32, 0⟩
def Wlk.AMAX : Field := ⟨0x20110008, 0x0, 1, 0x0, 1, 31, 16, 0⟩
def Wlk.CUTTRIES : Field := ⟨0x20110008, 0x0, 1, 0x0, 1, 15, 12, 0⟩
def Wlk.SYNCPER : Field := ⟨0x20110010, 0x0, 1, 0x0, 1, 63, 48, 0⟩
def Wlk.PSTO : Field := ⟨0x20110010, 0x0, 1, 0x0, 1, 47, 32, 0⟩
def Wlk.RANK : Field := ⟨0x20110010, 0x0, 1, 0x0, 1, 31, 28, 0⟩
def Wlk.LSRC : Field := ⟨0x20110010, 0x0, 1, 0x0, 1, 27, 23, 0⟩
def Wlk.LEASELEN : Field := ⟨0x20110018, 0x0, 1, 0x0, 1, 63, 32, 0⟩
def Wlk.RENEW : Field := ⟨0x20110018, 0x0, 1, 0x0, 1, 31, 0, 0⟩
def Wlk.HOLDER : Field := ⟨0x20110030, 0x0, 1, 0x0, 1, 63, 50, 0⟩
def Wlk.TERM : Field := ⟨0x20110030, 0x0, 1, 0x0, 1, 31, 0, 0⟩
def Wlk.COLLECTOR : Field := ⟨0x20110038, 0x0, 1, 0x0, 1, 63, 50, 0⟩
def Wlk.FWDTO : Field := ⟨0x20110038, 0x0, 1, 0x0, 1, 47, 32, 0⟩
def Wlk.CUTSLIPCNT : Field := ⟨0x20110040, 0x0, 1, 0x0, 1, 63, 32, 0⟩
def Wlk.CUTORPHCNT : Field := ⟨0x20110040, 0x0, 1, 0x0, 1, 31, 0, 0⟩
def Wlk.CUTREFCNT : Field := ⟨0x20110048, 0x0, 1, 0x0, 1, 63, 32, 0⟩
def Wlk.LEASECHGCNT : Field := ⟨0x20110048, 0x0, 1, 0x0, 1, 31, 0, 0⟩
def Wlk.TTLCNT : Field := ⟨0x20110050, 0x0, 1, 0x0, 1, 63, 32, 0⟩
def Wlk.NOROUTECNT : Field := ⟨0x20110050, 0x0, 1, 0x0, 1, 31, 0, 0⟩
def Wlk.FWDRETXCNT : Field := ⟨0x20110058, 0x0, 1, 0x0, 1, 63, 32, 0⟩
def Wlk.FOOOCNT : Field := ⟨0x20110058, 0x0, 1, 0x0, 1, 31, 0, 0⟩
def Wlk.SLIPLSEQ : Field := ⟨0x20110060, 0x0, 1, 0x0, 1, 39, 0, 0⟩
def Wlk.WEVEN : Field := ⟨0x20110068, 0x0, 1, 0x0, 1, 15, 8, 0⟩
def Wlk.WCAUSE : Field := ⟨0x20110068, 0x0, 1, 0x0, 1, 7, 0, 0⟩
def Wlk.VOTERSLO : Field := ⟨0x20110020, 0x0, 1, 0x0, 4, 13, 0, 14⟩
def Wlk.VOTERSHI : Field := ⟨0x20110028, 0x0, 1, 0x0, 3, 13, 0, 14⟩
def Wlk.ROUTE : Field := ⟨0x20118000, 0x0, 1, 0x0, 16384, 7, 0, 8⟩

/-! ### WlkPort: Table 16-5 (R527) -/
def WlkPort.EN : Field := ⟨0x20110100, 0x40, 4, 0x0, 1, 63, 63, 0⟩
def WlkPort.ASYM : Field := ⟨0x20110100, 0x40, 4, 0x0, 1, 31, 0, 0⟩
def WlkPort.PSTATE : Field := ⟨0x20110108, 0x40, 4, 0x0, 1, 63, 61, 0⟩
def WlkPort.NBRNODE : Field := ⟨0x20110108, 0x40, 4, 0x0, 1, 45, 32, 0⟩
def WlkPort.LINKDLY : Field := ⟨0x20110108, 0x40, 4, 0x0, 1, 31, 0, 0⟩
def WlkPort.RXPKT : Field := ⟨0x20110110, 0x40, 4, 0x0, 1, 63, 32, 0⟩
def WlkPort.TXPKT : Field := ⟨0x20110110, 0x40, 4, 0x0, 1, 31, 0, 0⟩
def WlkPort.DOWNCNT : Field := ⟨0x20110118, 0x40, 4, 0x0, 1, 31, 0, 0⟩

/-! ### WlkInbound: Table 16-5 (R527) -/
def WlkInbound.IRBASE : Field := ⟨0x20110600, 0x20, 8, 0x0, 1, 47, 0, 0⟩
def WlkInbound.IRLOG : Field := ⟨0x20110608, 0x20, 8, 0x0, 1, 4, 0, 0⟩
def WlkInbound.IRWP : Field := ⟨0x20110610, 0x20, 8, 0x0, 1, 63, 0, 0⟩
def WlkInbound.IRDROP : Field := ⟨0x20110618, 0x20, 8, 0x0, 1, 31, 0, 0⟩

/-! ### Tnt: Table 16-6 (R528) -/
def Tnt.TMODE : Field := ⟨0x20120000, 0x0, 1, 0x0, 1, 63, 62, 0⟩
def Tnt.TSLEWING : Field := ⟨0x20120000, 0x0, 1, 0x0, 1, 61, 61, 0⟩
def Tnt.TBFAULT : Field := ⟨0x20120000, 0x0, 1, 0x0, 1, 60, 60, 0⟩
def Tnt.SYNCOK : Field := ⟨0x20120000, 0x0, 1, 0x0, 1, 59, 59, 0⟩
def Tnt.SLEWPPM : Field := ⟨0x20120000, 0x0, 1, 0x0, 1, 47, 32, 0⟩
def Tnt.TSBW : Field := ⟨0x20120000, 0x0, 1, 0x0, 1, 31, 16, 0⟩
def Tnt.STEPTHR : Field := ⟨0x20120000, 0x0, 1, 0x0, 1, 15, 0, 0⟩
def Tnt.INC : Field := ⟨0x20120008, 0x0, 1, 0x0, 1, 47, 0, 0⟩
def Tnt.BASE : Field := ⟨0x20120010, 0x0, 1, 0x0, 1, 63, 0, 0⟩
def Tnt.ANCHOR : Field := ⟨0x20120018, 0x0, 1, 0x0, 1, 63, 0, 0⟩
def Tnt.RAW : Field := ⟨0x20120020, 0x0, 1, 0x0, 1, 63, 0, 0⟩
def Tnt.OFFSLEW : Field := ⟨0x20120028, 0x0, 1, 0x0, 1, 63, 0, 0⟩
def Tnt.TERR : Field := ⟨0x20120030, 0x0, 1, 0x0, 1, 63, 0, 0⟩
def Tnt.STEPCNT : Field := ⟨0x20120038, 0x0, 1, 0x0, 1, 63, 32, 0⟩
def Tnt.SYNCLOSSCNT : Field := ⟨0x20120038, 0x0, 1, 0x0, 1, 31, 0, 0⟩
def Tnt.PPSRAW : Field := ⟨0x20120040, 0x0, 1, 0x0, 1, 63, 0, 0⟩
def Tnt.PPSEN : Field := ⟨0x20120048, 0x0, 1, 0x0, 1, 63, 63, 0⟩
def Tnt.PPSPOL : Field := ⟨0x20120048, 0x0, 1, 0x0, 1, 62, 62, 0⟩
def Tnt.PPSW : Field := ⟨0x20120048, 0x0, 1, 0x0, 1, 47, 32, 0⟩
def Tnt.PPSOFS : Field := ⟨0x20120048, 0x0, 1, 0x0, 1, 31, 0, 0⟩
def Tnt.TEVEN : Field := ⟨0x20120050, 0x0, 1, 0x0, 1, 15, 0, 0⟩

/-! ### TntPort: Table 16-6 (R528) -/
def TntPort.EN : Field := ⟨0x20120100, 0x40, 2, 0x0, 1, 63, 63, 0⟩
def TntPort.SPEED : Field := ⟨0x20120100, 0x40, 2, 0x0, 1, 62, 62, 0⟩
def TntPort.MAC : Field := ⟨0x20120100, 0x40, 2, 0x0, 1, 47, 0, 0⟩
def TntPort.TXLAT : Field := ⟨0x20120108, 0x40, 2, 0x0, 1, 63, 48, 0⟩
def TntPort.RXLAT : Field := ⟨0x20120108, 0x40, 2, 0x0, 1, 47, 32, 0⟩
def TntPort.ETHASYM : Field := ⟨0x20120108, 0x40, 2, 0x0, 1, 31, 0, 0⟩
def TntPort.ETHPOLL : Field := ⟨0x20120110, 0x40, 2, 0x0, 1, 63, 48, 0⟩
def TntPort.QLOG : Field := ⟨0x20120110, 0x40, 2, 0x0, 1, 44, 40, 0⟩
def TntPort.QBASE : Field := ⟨0x20120110, 0x40, 2, 0x0, 1, 26, 0, 0⟩
def TntPort.MCAST : Field := ⟨0x20120118, 0x40, 2, 0x0, 1, 63, 0, 0⟩
def TntPort.RXFRM : Field := ⟨0x20120120, 0x40, 2, 0x0, 1, 63, 32, 0⟩
def TntPort.RXDROP : Field := ⟨0x20120120, 0x40, 2, 0x0, 1, 31, 0, 0⟩

/-! ### RpaDep: Table 17-9 (R554) -/
def RpaDep.PSTATE : Field := ⟨0x20053000, 0x20, 72, 0x0, 1, 63, 61, 0⟩
def RpaDep.LRP : Field := ⟨0x20053000, 0x20, 72, 0x0, 1, 60, 55, 0⟩
def RpaDep.LASTCAUSE : Field := ⟨0x20053000, 0x20, 72, 0x0, 1, 54, 52, 0⟩
def RpaDep.TRIES : Field := ⟨0x20053000, 0x20, 72, 0x0, 1, 51, 50, 0⟩
def RpaDep.MARGIN : Field := ⟨0x20053000, 0x20, 72, 0x0, 1, 7, 0, 0⟩
def RpaDep.FOCNT : Field := ⟨0x20053008, 0x20, 72, 0x0, 1, 63, 32, 0⟩
def RpaDep.CECNT : Field := ⟨0x20053008, 0x20, 72, 0x0, 1, 31, 0, 0⟩
def RpaDep.TTEST : Field := ⟨0x20053010, 0x20, 72, 0x0, 1, 63, 0, 0⟩
def RpaDep.RPTO : Field := ⟨0x20051040, 0x0, 1, 0x0, 1, 63, 48, 0⟩
def RpaDep.FAILRESV : Field := ⟨0x20051040, 0x0, 1, 0x0, 1, 47, 44, 0⟩
def RpaDep.CETHR : Field := ⟨0x20051040, 0x0, 1, 0x0, 1, 39, 32, 0⟩
def RpaDep.FAILCNT : Field := ⟨0x20051040, 0x0, 1, 0x0, 1, 31, 0, 0⟩
def RpaDep.UNBOUND : Field := ⟨0x20051058, 0x0, 1, 0x0, 1, 63, 0, 0⟩
def RpaDep.ROTCNT : Field := ⟨0x20051060, 0x0, 1, 0x0, 1, 31, 0, 0⟩
def RpaDep.RETMAP : Field := ⟨0x20051048, 0x0, 1, 0x0, 72, 0, 0, 1⟩

/-! ### SeqLease: Table 17-9 (R554) -/
def SeqLease.LEASE : Field := ⟨0x20000040, 0x0, 1, 0x0, 1, 63, 32, 0⟩
def SeqLease.RENEW : Field := ⟨0x20000040, 0x0, 1, 0x0, 1, 31, 0, 0⟩
def SeqLease.LEASEPAIR : Field := ⟨0x20000048, 0x0, 1, 0x0, 1, 63, 63, 0⟩
def SeqLease.PAIRSTATE : Field := ⟨0x20000048, 0x0, 1, 0x0, 1, 62, 60, 0⟩
def SeqLease.TCAUSE : Field := ⟨0x20000048, 0x0, 1, 0x0, 1, 59, 58, 0⟩
def SeqLease.TAKECNT : Field := ⟨0x20000048, 0x0, 1, 0x0, 1, 31, 0, 0⟩
def SeqLease.TAKEOVERT : Field := ⟨0x20000050, 0x0, 1, 0x0, 1, 63, 0, 0⟩
def SeqLease.SUPPCNT : Field := ⟨0x20000058, 0x0, 1, 0x0, 1, 31, 0, 0⟩

/-! ### Cal: Table 17-9 (R554) -/
def Cal.INHIBIT : Field := ⟨0x20160000, 0x0, 1, 0x0, 1, 63, 63, 0⟩
def Cal.CAL_DUE : Field := ⟨0x20160000, 0x0, 1, 0x0, 1, 62, 62, 0⟩
def Cal.CALPEND : Field := ⟨0x20160000, 0x0, 1, 0x0, 1, 61, 61, 0⟩
def Cal.DT : Field := ⟨0x20160000, 0x0, 1, 0x0, 1, 53, 48, 0⟩
def Cal.ROTINT : Field := ⟨0x20160000, 0x0, 1, 0x0, 1, 47, 32, 0⟩
def Cal.DUE : Field := ⟨0x20160000, 0x0, 1, 0x0, 1, 4, 0, 0⟩
def Cal.OFSMAX : Field := ⟨0x20160008, 0x0, 1, 0x0, 1, 63, 56, 0⟩
def Cal.DSHIFT : Field := ⟨0x20160008, 0x0, 1, 0x0, 1, 55, 48, 0⟩
def Cal.DMARGIN : Field := ⟨0x20160008, 0x0, 1, 0x0, 1, 47, 40, 0⟩
def Cal.TAPSTEP : Field := ⟨0x20160008, 0x0, 1, 0x0, 1, 39, 32, 0⟩
def Cal.THRMAX : Field := ⟨0x20160008, 0x0, 1, 0x0, 1, 31, 16, 0⟩
def Cal.SENSDEV : Field := ⟨0x20160008, 0x0, 1, 0x0, 1, 15, 0, 0⟩
def Cal.TJMEAN : Field := ⟨0x20160018, 0x0, 1, 0x0, 1, 63, 48, 0⟩
def Cal.SENSBAD : Field := ⟨0x20160018, 0x0, 1, 0x0, 1, 15, 0, 0⟩
def Cal.CALRUNCNT : Field := ⟨0x20160020, 0x0, 1, 0x0, 1, 63, 32, 0⟩
def Cal.REJCNT : Field := ⟨0x20160020, 0x0, 1, 0x0, 1, 31, 0, 0⟩
def Cal.CALDUECNT : Field := ⟨0x20160028, 0x0, 1, 0x0, 1, 31, 0, 0⟩
def Cal.RESULT : Field := ⟨0x20160100, 0x20, 5, 0x0, 1, 63, 62, 0⟩
def Cal.QUAL : Field := ⟨0x20160100, 0x20, 5, 0x0, 1, 47, 32, 0⟩
def Cal.TLAST : Field := ⟨0x20160100, 0x20, 5, 0x0, 1, 31, 16, 0⟩
def Cal.TAPPLY : Field := ⟨0x20160108, 0x20, 5, 0x0, 1, 63, 0, 0⟩
def Cal.TEMP : Field := ⟨0x20160400, 0x8, 16, 0x0, 1, 63, 48, 0⟩
def Cal.BAD : Field := ⟨0x20160400, 0x8, 16, 0x0, 1, 47, 47, 0⟩

/-! ### Pba: Table 18-6 (R577) -/
def Pba.BUDGET : Field := ⟨0x20150000, 0x0, 1, 0x0, 1, 63, 32, 0⟩
def Pba.GRANTED : Field := ⟨0x20150000, 0x0, 1, 0x0, 1, 31, 0, 0⟩
def Pba.VMIN : Field := ⟨0x20150008, 0x0, 1, 0x0, 1, 63, 48, 0⟩
def Pba.VMAX : Field := ⟨0x20150008, 0x0, 1, 0x0, 1, 47, 32, 0⟩
def Pba.VTARGET : Field := ⟨0x20150008, 0x0, 1, 0x0, 1, 31, 16, 0⟩
def Pba.VCMD : Field := ⟨0x20150008, 0x0, 1, 0x0, 1, 15, 0, 0⟩
def Pba.VREGADR : Field := ⟨0x20150010, 0x0, 1, 0x0, 1, 63, 57, 0⟩
def Pba.POWER_HELD : Field := ⟨0x20150010, 0x0, 1, 0x0, 1, 56, 56, 0⟩
def Pba.THOT : Field := ⟨0x20150010, 0x0, 1, 0x0, 1, 55, 55, 0⟩
def Pba.SUPWARNR : Field := ⟨0x20150010, 0x0, 1, 0x0, 1, 54, 48, 0⟩
def Pba.TWARN : Field := ⟨0x20150010, 0x0, 1, 0x0, 1, 47, 40, 0⟩
def Pba.PEVEN : Field := ⟨0x20150010, 0x0, 1, 0x0, 1, 39, 32, 0⟩
def Pba.HELDCNT : Field := ⟨0x20150010, 0x0, 1, 0x0, 1, 31, 0, 0⟩
def Pba.INSPREQ : Field := ⟨0x20150018, 0x0, 1, 0x0, 1, 63, 48, 0⟩
def Pba.LIVEHOLD : Field := ⟨0x20150018, 0x0, 1, 0x0, 1, 47, 32, 0⟩
def Pba.VREGFAIL : Field := ⟨0x20150018, 0x0, 1, 0x0, 1, 7, 7, 0⟩
def Pba.RSTRAIL : Field := ⟨0x20150018, 0x0, 1, 0x0, 1, 6, 4, 0⟩
def Pba.RSTCAUSE : Field := ⟨0x20150018, 0x0, 1, 0x0, 1, 2, 0, 0⟩
def Pba.DIPWP : Field := ⟨0x20150020, 0x0, 1, 0x0, 1, 31, 0, 0⟩

/-! ### Rail: Table 18-6 (R577) -/
def Rail.WARN : Field := ⟨0x20150100, 0x10, 7, 0x0, 1, 31, 16, 0⟩
def Rail.RESET : Field := ⟨0x20150100, 0x10, 7, 0x0, 1, 15, 0, 0⟩
def Rail.DIPCNT : Field := ⟨0x20150108, 0x10, 7, 0x0, 1, 31, 0, 0⟩

/-! ### Dip: Table 18-6 (R577) -/
def Dip.RAIL : Field := ⟨0x20150200, 0x20, 16, 0x0, 1, 2, 0, 0⟩
def Dip.TSTART : Field := ⟨0x20150208, 0x20, 16, 0x0, 1, 63, 0, 0⟩
def Dip.DUR : Field := ⟨0x20150210, 0x20, 16, 0x0, 1, 63, 0, 0⟩
def Dip.VLOW : Field := ⟨0x20150218, 0x20, 16, 0x0, 1, 15, 0, 0⟩

/-! ### Slc: Table 18-10 (R577) -/
def Slc.KPHASE : Field := ⟨0x20180000, 0x0, 1, 0x0, 1, 63, 60, 0⟩
def Slc.KERR : Field := ⟨0x20180000, 0x0, 1, 0x0, 1, 55, 48, 0⟩
def Slc.LCSTATE : Field := ⟨0x20180000, 0x0, 1, 0x0, 1, 47, 40, 0⟩
def Slc.REVOKED : Field := ⟨0x20180000, 0x0, 1, 0x0, 1, 39, 36, 0⟩
def Slc.VERMIN : Field := ⟨0x20180000, 0x0, 1, 0x0, 1, 31, 0, 0⟩
def Slc.TAMPER : Field := ⟨0x20180008, 0x0, 1, 0x0, 1, 63, 63, 0⟩
def Slc.WIPING : Field := ⟨0x20180008, 0x0, 1, 0x0, 1, 62, 62, 0⟩
def Slc.WIPEFAIL : Field := ⟨0x20180008, 0x0, 1, 0x0, 1, 31, 16, 0⟩
def Slc.TAMPERCNT : Field := ⟨0x20180008, 0x0, 1, 0x0, 1, 15, 0, 0⟩
def Slc.WIPECNT : Field := ⟨0x20180010, 0x0, 1, 0x0, 1, 31, 0, 0⟩
def Slc.KCOPYOK : Field := ⟨0x20180018, 0x0, 1, 0x0, 1, 63, 63, 0⟩
def Slc.KCOPYADR : Field := ⟨0x20180018, 0x0, 1, 0x0, 1, 47, 0, 0⟩
def Slc.KEYHASH : Field := ⟨0x20180020, 0x0, 1, 0x8, 24, 63, 0, 0⟩

/-! ### EvrChan: Table 19-5 (R593) -/
def EvrChan.EN : Field := ⟨0x20130000, 0x10, 128, 0x0, 1, 63, 63, 0⟩
def EvrChan.GEN : Field := ⟨0x20130000, 0x10, 128, 0x0, 1, 62, 62, 0⟩
def EvrChan.GINV : Field := ⟨0x20130000, 0x10, 128, 0x0, 1, 61, 61, 0⟩
def EvrChan.GSEL : Field := ⟨0x20130000, 0x10, 128, 0x0, 1, 53, 48, 0⟩
def EvrChan.SRC : Field := ⟨0x20130000, 0x10, 128, 0x0, 1, 8, 0, 0⟩
def EvrChan.TOKCNT : Field := ⟨0x20130008, 0x10, 128, 0x0, 1, 63, 32, 0⟩
def EvrChan.GATECNT : Field := ⟨0x20130008, 0x10, 128, 0x0, 1, 31, 16, 0⟩
def EvrChan.MRGCNT : Field := ⟨0x20130008, 0x10, 128, 0x0, 1, 15, 0, 0⟩

/-! ### EvrTask: Table 19-5 (R593) -/
def EvrTask.EN : Field := ⟨0x20130800, 0x20, 256, 0x0, 1, 63, 63, 0⟩
def EvrTask.OVR : Field := ⟨0x20130800, 0x20, 256, 0x0, 1, 62, 62, 0⟩
def EvrTask.TSTATE : Field := ⟨0x20130800, 0x20, 256, 0x0, 1, 61, 60, 0⟩
def EvrTask.LHOP : Field := ⟨0x20130800, 0x20, 256, 0x0, 1, 59, 57, 0⟩
def EvrTask.CHSEL : Field := ⟨0x20130800, 0x20, 256, 0x0, 1, 6, 0, 0⟩
def EvrTask.COALCNT : Field := ⟨0x20130808, 0x20, 256, 0x0, 1, 63, 32, 0⟩
def EvrTask.OVRCNT : Field := ⟨0x20130808, 0x20, 256, 0x0, 1, 31, 0, 0⟩
def EvrTask.ACTCNT : Field := ⟨0x20130810, 0x20, 256, 0x0, 1, 63, 32, 0⟩
def EvrTask.DROPCNT : Field := ⟨0x20130810, 0x20, 256, 0x0, 1, 31, 0, 0⟩

/-! ### EvrGlobal: Table 19-5 (R593) -/
def EvrGlobal.GSW : Field := ⟨0x20132800, 0x0, 1, 0x0, 1, 7, 0, 0⟩
def EvrGlobal.GLEVEL : Field := ⟨0x20132808, 0x0, 1, 0x0, 1, 63, 0, 0⟩
def EvrGlobal.LOOPCNT : Field := ⟨0x20132810, 0x0, 1, 0x0, 1, 63, 32, 0⟩
def EvrGlobal.LOOPSRC : Field := ⟨0x20132810, 0x0, 1, 0x0, 1, 24, 16, 0⟩
def EvrGlobal.LOOPCH : Field := ⟨0x20132810, 0x0, 1, 0x0, 1, 6, 0, 0⟩

/-! ### Evio: Table 19-5 (R593) -/
def Evio.EN : Field := ⟨0x20132900, 0x8, 16, 0x0, 1, 63, 63, 0⟩
def Evio.EEDGE : Field := ⟨0x20132900, 0x8, 16, 0x0, 1, 62, 61, 0⟩
def Evio.EFILT : Field := ⟨0x20132900, 0x8, 16, 0x0, 1, 55, 48, 0⟩
def Evio.LEVEL : Field := ⟨0x20132900, 0x8, 16, 0x0, 1, 0, 0, 0⟩

/-! ### TwpPort: Table 19-10 (R607) -/
def TwpPort.SPEED : Field := ⟨0x20140000, 0x40, 4, 0x0, 1, 63, 62, 0⟩
def TwpPort.STRTO : Field := ⟨0x20140000, 0x40, 4, 0x0, 1, 61, 54, 0⟩
def TwpPort.ARBRETRY : Field := ⟨0x20140000, 0x40, 4, 0x0, 1, 53, 50, 0⟩
def TwpPort.PECEN : Field := ⟨0x20140000, 0x40, 4, 0x0, 1, 49, 49, 0⟩
def TwpPort.TEVEN : Field := ⟨0x20140000, 0x40, 4, 0x0, 1, 15, 8, 0⟩
def TwpPort.TWCAUSE : Field := ⟨0x20140000, 0x40, 4, 0x0, 1, 7, 0, 0⟩
def TwpPort.XFERCNT : Field := ⟨0x20140008, 0x40, 4, 0x0, 1, 63, 32, 0⟩
def TwpPort.ARBCNT : Field := ⟨0x20140008, 0x40, 4, 0x0, 1, 31, 16, 0⟩
def TwpPort.STRTOCNT : Field := ⟨0x20140008, 0x40, 4, 0x0, 1, 15, 0, 0⟩
def TwpPort.STUCKCNT : Field := ⟨0x20140010, 0x40, 4, 0x0, 1, 63, 48, 0⟩
def TwpPort.NACKCNT : Field := ⟨0x20140010, 0x40, 4, 0x0, 1, 47, 32, 0⟩
def TwpPort.OWNADDR : Field := ⟨0x20140018, 0x40, 4, 0x0, 1, 6, 0, 0⟩
def TwpPort.MBOX : Field := ⟨0x20140020, 0x40, 4, 0x0, 1, 31, 0, 0⟩

/-! ### DmcGlobal: Table 14-6 (R460) -/
def DmcGlobal.CHX : Field := ⟨0x200d1000, 0x0, 1, 0x8, 3, 39, 0, 0⟩
def DmcGlobal.BG : Field := ⟨0x200d1018, 0x0, 1, 0x8, 3, 39, 0, 0⟩
def DmcGlobal.BA : Field := ⟨0x200d1030, 0x0, 1, 0x8, 2, 39, 0, 0⟩

/-! ### WlkEdge: Table 16-5 (R515) -/
def WlkEdge.RNODE : Field := ⟨0x20110400, 0x10, 16, 0x0, 1, 29, 16, 0⟩
def WlkEdge.LNODE : Field := ⟨0x20110400, 0x10, 16, 0x0, 1, 13, 0, 0⟩

/-! ### StripMap: Table 4-3 (R171) -/
def StripMap.LRPOF : Field := ⟨0x20024000, 0x100, 32, 0x0, 256, 7, 0, 8⟩

/-! ### FeatMap: Table 11-11 (R394) -/
def FeatMap.FENTRY : Field := ⟨0x20081000, 0x100, 16, 0x0, 64, 31, 0, 32⟩

/-! ### Tw0: Table 19-9 (R606) -/
def Tw0.STATE : Field := ⟨0x1000100000018, 0x0, 1, 0x0, 1, 7, 0, 0⟩
def Tw0.MBOX : Field := ⟨0x1000100000020, 0x0, 1, 0x0, 1, 31, 0, 0⟩

/-! ### Tw3: Table 19-9 (R603) -/
def Tw3.DADDR : Field := ⟨0x1000100000110, 0x0, 1, 0x0, 1, 47, 0, 0⟩
def Tw3.DCMD : Field := ⟨0x1000100000118, 0x0, 1, 0x0, 1, 7, 0, 0⟩
def Tw3.DSTAT : Field := ⟨0x1000100000120, 0x0, 1, 0x0, 1, 7, 0, 0⟩
def Tw3.DDATA : Field := ⟨0x1000100000128, 0x0, 1, 0x0, 1, 63, 0, 0⟩

end Reg

/-- Fields whose reset value is not 0, with that value in every instance (the Reset column of the field maps), by the 64 KiB block
that holds them. -/
def resetRows : List (Nat × List (Field × Nat)) :=
   [(0x2000, [(Reg.Seq.SQWDOG, 10000), (Reg.SeqLease.LEASE, 40), (Reg.SeqLease.RENEW, 10), (Reg.SeqLease.PAIRSTATE, 1)]),
    (0x2001, [(Reg.Lane.COLD, 1), (Reg.Lane.RELOCK, 100), (Reg.Lane.TAPTO, 10), (Reg.Lane.CTLEMAX, 31),
      (Reg.Lane.DFE1MAX, 63), (Reg.Lane.FEPREMAX, 63), (Reg.Lane.FEMAINMAX, 63), (Reg.Lane.FEPOSTMAX, 63),
      (Reg.Lane.STATE, 1), (Reg.Lane.TXASLEEP, 1), (Reg.Lane.TXMAIN, 54), (Reg.Lane.TXPOST, 9),
      (Reg.SlaGlobal.EYE_WMIN, 39), (Reg.SlaGlobal.EYE_HMIN, 6)]),
    (0x2002, [(Reg.EslHead.CMDTO, 100), (Reg.EslHead.XSETTO, 100), (Reg.Head.DEPTH, 2), (Reg.Head.STRIPW, 3),
      (Reg.Head.EBWEIGHT, 1), (Reg.Head.SHARE, 8), (Reg.Head.LCTO, 4), (Reg.Head.TLTO, 8),
      (Reg.Head.LCMIN, 2), (Reg.Head.TLMIN, 20), (Reg.Head.BLKTO, 50), (Reg.Head.GAPFL, 10)]),
    (0x2003, [(Reg.Enc.HYST, 1), (Reg.Enc.FILT, 4), (Reg.Enc.BW, 2000), (Reg.Enc.ILIM, 64),
      (Reg.Enc.LIMLO, 9223372036854775808), (Reg.Enc.LIMHI, 9223372036854775807), (Reg.Ssi.BITS, 24), (Reg.Ssi.CLKDIV, 100),
      (Reg.Ssi.PERIOD, 100), (Reg.Ssi.TMON, 20), (Reg.Ssi.SSITO, 100), (Reg.Ssi.BW, 200),
      (Reg.Ssi.ILIM, 64), (Reg.Probe.EDGE, 1), (Reg.Probe.PSRC, 16), (Reg.Probe.PFILT, 4),
      (Reg.Divider.N, 1), (Reg.Divider.M, 1), (Reg.WebPos.WPSRC, 31), (Reg.WebPos.WPALT, 31),
      (Reg.WebPos.COAST, 1000)]),
    (0x2004, [(Reg.TesHead.LRMAX, 100000), (Reg.TesHead.EDGEN, 1), (Reg.TesHead.TPW, 100)]),
    (0x2005, [(Reg.RpaGlobal.RUNLIMIT, 65536), (Reg.RpaDep.RPTO, 100), (Reg.RpaDep.FAILRESV, 1), (Reg.RpaDep.CETHR, 16)]),
    (0x2006, [(Reg.View.XPITCH, 16), (Reg.View.SBWEIGHT, 1), (Reg.View.XEL, 2147483648), (Reg.View.XER, 2147483647),
      (Reg.View.EXW, 64), (Reg.View.XLAG, 8), (Reg.View.EDGETO, 100), (Reg.Seam.SMIN, 65024),
      (Reg.Seam.SMAX, 512), (Reg.Seam.SLEW, 64), (Reg.Seam.GAIN, 64), (Reg.Seam.CMIN, 32)]),
    (0x2007, [(Reg.RtkView.PGRP, 18446744073709551615), (Reg.RtkView.STRAW, 65536), (Reg.RtkView.RTMAX, 65536), (Reg.RtkView.MINAREA, 1),
      (Reg.RtkView.GAPBRIDGE, 16), (Reg.RtkView.RSERNEXT, 1)])] ++
   [(0x2009, [(Reg.Marker.MPW, 1000), (Reg.Marker.XLO, 2147483648), (Reg.Marker.XHI, 2147483647), (Reg.MarkerGlobal.MLATE, 10000000),
      (Reg.Ledger.LOG2N, 16), (Reg.Ledger.LRESV, 256), (Reg.Ledger.LINKAGE, 1000)]),
    (0x200a, [(Reg.HisHead.DLOG, 16), (Reg.HisHead.HFLUSH, 100)]),
    (0x200b, [(Reg.Cmp.SEARCH, 16)]),
    (0x200c, [(Reg.Stream.RLOG, 10), (Reg.Stream.FROWS, 1024), (Reg.Stream.OGAPMAX, 64)]),
    (0x200d, [(Reg.Dmc.MIGSHARE, 26), (Reg.Dmc.RTINT, 100), (Reg.Dmc.DEYEMIN, 40)]),
    (0x2011, [(Reg.Wlk.CUTWIN, 2000), (Reg.Wlk.AMAX, 10000), (Reg.Wlk.CUTTRIES, 3), (Reg.Wlk.SYNCPER, 10),
      (Reg.Wlk.PSTO, 50), (Reg.Wlk.LSRC, 31), (Reg.Wlk.LEASELEN, 4000), (Reg.Wlk.RENEW, 1000),
      (Reg.Wlk.FWDTO, 10)]),
    (0x2012, [(Reg.Tnt.SLEWPPM, 100), (Reg.Tnt.TSBW, 100), (Reg.Tnt.STEPTHR, 1000), (Reg.Tnt.INC, 17592186044416),
      (Reg.Tnt.PPSW, 100), (Reg.TntPort.ETHPOLL, 100), (Reg.TntPort.QLOG, 6)]),
    (0x2013, [(Reg.Evio.EFILT, 4)])] ++
   [(0x2014, [(Reg.TwpPort.STRTO, 25), (Reg.TwpPort.ARBRETRY, 3)]),
    (0x2015, [(Reg.Pba.BUDGET, 180000), (Reg.Pba.VMIN, 720), (Reg.Pba.VMAX, 880), (Reg.Pba.VTARGET, 620),
      (Reg.Pba.VCMD, 800), (Reg.Pba.VREGADR, 64), (Reg.Pba.TWARN, 120), (Reg.Pba.LIVEHOLD, 10),
      (Reg.Pba.RSTCAUSE, 1)]),
    (0x2016, [(Reg.Cal.DT, 8), (Reg.Cal.ROTINT, 10), (Reg.Cal.OFSMAX, 4), (Reg.Cal.DSHIFT, 25),
      (Reg.Cal.DMARGIN, 15), (Reg.Cal.TAPSTEP, 8), (Reg.Cal.THRMAX, 100), (Reg.Cal.SENSDEV, 160)]),
    (0x2017, [(Reg.Pmu.SPERIOD, 4096)]),
    (0x2018, [(Reg.Slc.LCSTATE, 4)]),
    (0x100000000, [(Reg.Bar0.PART, 598), (Reg.Bar0.STEPPING, 163), (Reg.Bar0.CLOG, 6), (Reg.Bar0.HLLOG, 12),
      (Reg.Bar0.MREFRESH, 1000)])]

/-- Rail thresholds in mV: warning and reset of rails 0 to 6 (Table 18-2). -/
def railReset : List (Nat × Nat) := [(660, 580), (740, 700), (855, 810), (1140, 1080), (1045, 990), (1710, 1620), (3135, 2970)]

/-- Reset bits that differ between instances: PHYS of logical row processor l is l (Table 7-11), PSTATE and LRP of the
physical row processors (Table 17-9), the route bytes (0xFF, Table 16-5), the target ports' addresses (Table 19-7) and the rail
thresholds (Table 18-2). -/
def instanceReset (a : Nat) : Word :=
  if Reg.Lrp.PHYS.covers a then fld ((a - Reg.Lrp.PHYS.base) / 0x40) 7 57
  else if Reg.RpaDep.PSTATE.covers a then
    let p := (a - Reg.RpaDep.PSTATE.base) / 0x20
    if p < 64 then fld p 6 55 else fld 1 3 61
  else if Reg.Wlk.ROUTE.covers a then BitVec.allOnes 64
  else if a = Reg.TwpPort.OWNADDR.word 0 0 then fld (0x38 + Config.twa % 8) 7 0
  else if a = Reg.TwpPort.OWNADDR.word 3 0 then fld 0x5C 7 0
  else if Reg.Rail.WARN.covers a then
    match railReset[(a - Reg.Rail.WARN.base) / 0x10]? with
    | some (w, r) => fld w 16 16 ||| fld r 16 0
    | none => 0
  else 0

/-- The bits that the rows of a reset table put into the word at `a`. -/
def resetOf : List (Field × Nat) → Nat → Word
  | [], _ => 0
  | (f, v) :: rs, a => (if f.covers a then fld v f.width f.lo else 0) ||| resetOf rs a

/-- The value of a register word after reset: what an unlisted register word reads as. -/
def resetWord (a : Nat) : Word := instanceReset a ||| resetOf ((resetRows.lookup (a / 65536)).getD []) a

end Sys2Proof.Machine
end

