-- ==== Sys2Proof/Machine/State.lean ====
section
/-!
DEFINITION. The state of the device as plain data, its reset value, and the reasons a step can stop.

Register words live in `regs`, keyed by device address (Machine/Regs.lean). Every other piece of state that the
specification names or implies stands in the structure of the unit that owns it. What an unlisted key of a table reads
as is said by the operation that reads it (Machine/Ops.lean and the unit's file).
-/
namespace Sys2Proof.Machine

/-- Reasons for which the machine stops. A program fault of R255 is not one of them: it is a state that the device
enters (R256, R257), and every other error of the specification is a status, a counter or a record. -/
inductive Fault where
  /-- Raised by a command that names an instance which the device does not have (a lane above 255, a head above 31):
  nothing outside or inside the device can send it. Safe: the model stops where the hardware has no behaviour. -/
  | noInstance
  deriving DecidableEq, Repr

/-- Reasons for which a command has no meaning. -/
inductive Refusal where
  /-- Raised by an arm of `exec` whose command has no meaning yet. Safe: the machine stops. -/
  | notModelled (mnemonic : String)
  deriving DecidableEq, Repr

/-- The fields of a row tag (R20 to R25), and the shape in which a row, a strip or a note is known by every stage. -/
structure Tag where
  /-- KIND of Table 1-4. -/
  kind : Nat := 1
  /-- HEAD, or VIEW in view-domain packets. -/
  head : Nat := 0
  /-- XSET. -/
  xset : Nat := 0
  /-- EPOCH, 0 to 127. -/
  epoch : Nat := 0
  /-- 40-bit LSEQ. -/
  lseq : Nat := 0
  /-- POS, nm (signed 64-bit). -/
  pos : Int := 0
  /-- TIME, presented time in ticks. -/
  time : Nat := 0
  /-- FLAGS of Table 1-6. -/
  flags : Nat := 0
  /-- STRIP. -/
  strip : Nat := 0
  /-- DLEN. -/
  dlen : Nat := 0
  /-- SPD, mm/s. -/
  spd : Int := 0
  deriving DecidableEq, Repr

/-- The run a row processor is carrying out (R239). -/
structure Run where
  /-- Logical row processor. -/
  lrp : Nat := 0
  /-- Code area that the strip's epoch selects (R237). -/
  area : Nat := 0
  /-- INIT is running, ROW follows. -/
  init : Bool := false
  /-- Assignment index (R232). -/
  assign : Nat := 0
  /-- Tag of the strip as delivered. -/
  tag : Tag := {}
  /-- Output slots that the run delivers (R240). -/
  outMask : Nat := 0
  /-- Columns per strip. -/
  stripW : Nat := 512
  /-- Sample planes S of the head (R152). -/
  planes : Nat := 1
  /-- INIT alone runs, to restore a unit (R252, R535). -/
  restore : Bool := false
  /-- K8 to K63 as the run sees them (R47, R243). -/
  ks : List Word := []
  /-- Copies by SMWRITE that landed before the run: offset and bytes (R47, R244). -/
  copies : List (Nat × List Byte) := []
  /-- Commands whose late packet has been applied and that this run, once it has ended, is the first row to follow (R34). -/
  lates : List Nat := []
  deriving DecidableEq, Repr

/-- One Zedexa processor: RP0 to RP71 are 0 to 71, and the lockstep pairs SQ0/SQ1 and SQ2/SQ3 are 72 and 74 (R230). -/
structure Proc where
  /-- S1 to S31; S0 is not stored (R231). -/
  s : Tbl (BitVec 32) := []
  /-- A0 to A7. -/
  a : Tbl (BitVec 48) := []
  /-- V0 to V31. -/
  v : Tbl Vec := []
  /-- W0 to W7 as the run's entry gave them (R245). -/
  w : Tbl Vec := []
  /-- P1 to P7; P0 is not stored. -/
  p : Tbl Pred := []
  /-- K0 to K63 as the run sees them. -/
  k : Tbl Word := []
  /-- Lookup table, 4,096 entries (R296). -/
  lut : Tbl (BitVec 16) := []
  /-- Histogram bins, 1,024 (R297). -/
  hist : Tbl (BitVec 32) := []
  /-- Output slots written by the run (R240). -/
  out : Tbl Vec := []
  /-- P7 as each slot was written (R331). -/
  outP : Tbl Pred := []
  /-- V register named by the last WPUSH of the run (R246). -/
  wpush : Option Nat := none
  /-- Latch of the raw counter's high half (R291). -/
  latRaw : Option (BitVec 32) := none
  /-- Latch of presented time's high half (R291). -/
  latPt : Option (BitVec 32) := none
  /-- Index of the next instruction. -/
  pc : Nat := 0
  /-- A PFX word met and not yet joined: its index and HI (R279). -/
  pfx : Option (Nat × Nat) := none
  /-- Index of the instruction that retired last, or that waits where it stands (R266). -/
  last : Nat := 0
  /-- Instructions retired in the run (R241). -/
  retired : Nat := 0
  /-- 64-byte lines of the mirror regions that the run has dirtied (R250, R251). -/
  dirty : List Nat := []
  /-- The run in progress on a row processor. -/
  run : Option Run := none
  deriving DecidableEq, Repr

/-- The target of the apply context (R260, R292). -/
inductive Target where
  /-- No target. -/
  | none
  /-- One head. -/
  | head (h : Nat)
  /-- One view. -/
  | view (v : Nat)
  /-- All running heads. -/
  | heads
  /-- All running views. -/
  | views
  deriving DecidableEq, Repr

/-- The sequencer's apply context (R260). -/
structure Xat where
  /-- MODE of Table 1-7. -/
  mode : Nat := 0
  /-- DIR. -/
  dir : Nat := 0
  /-- Apply-at value as XAT left it, 64 bits. -/
  value : Nat := 0
  /-- Target streams. -/
  target : Target := .none
  deriving DecidableEq, Repr

/-- A CTRL packet (R30). -/
structure Pkt where
  /-- Target unit. -/
  unit : Nat := 0
  /-- Operation code. -/
  op : Nat := 0
  /-- MODE. -/
  mode : Nat := 0
  /-- DIR. -/
  dir : Nat := 0
  /-- The stream is a view's. -/
  vs : Bool := false
  /-- Head or view. -/
  stream : Nat := 0
  /-- Apply-at LSEQ, POS or epoch as MODE says. -/
  value : Nat := 0
  /-- Presented time of insertion. -/
  time : Nat := 0
  /-- Originating command. -/
  cseq : Nat := 0
  /-- Insertion number, which orders packets of equal CSEQ (R265). -/
  ord : Nat := 0
  /-- Payload words. -/
  words : List Word := []
  deriving DecidableEq, Repr

/-- A packet on its way to a stage, or held there. `sub` is the logical row processor at RPA and 0 at other units. -/
structure Held where
  /-- Stage (a UNIT number). -/
  stage : Nat := 0
  /-- Logical row processor at RPA. -/
  sub : Nat := 0
  /-- The packet. -/
  pkt : Pkt := {}
  /-- A row beyond the apply-at point had been processed when the packet arrived (R34). -/
  late : Bool := false
  deriving DecidableEq, Repr

/-- What a stage knows of a stream's progress: how far the rows that it processed, and those that it passed, went (R31,
R33, R34). -/
structure Progress where
  /-- A row has been processed. -/
  seen : Bool := false
  /-- Highest LSEQ of a processed row. -/
  lseq : Nat := 0
  /-- Highest POS of a processed row. -/
  hi : Int := 0
  /-- Lowest POS of a processed row. -/
  lo : Int := 0
  /-- Latest EPOCH of a processed row. -/
  epoch : Nat := 0
  /-- Commands (CSEQ) whose late packet has been applied and that wait for the first row processed after it. -/
  lateFor : List Nat := []
  /-- Latest epoch of a row or gap that the stage has processed, diverted or seen missing (R36). -/
  passed : Nat := 0
  deriving DecidableEq, Repr

/-- A long operation under way (R301). -/
structure LongOp where
  /-- Command that issued it (CSEQ), 0 for a handler's. -/
  cseq : Nat := 0
  /-- Index of its instruction. -/
  idx : Nat := 0
  /-- UNIT. -/
  unit : Nat := 0
  /-- OP. -/
  op : Nat := 0
  /-- Instance. -/
  inst : Nat := 0
  /-- Payload address. -/
  addr : Nat := 0
  /-- Status once complete. -/
  done : Option Nat := none
  deriving DecidableEq, Repr

/-- An outstanding command: an entry of the mirrored command log (R258, R263, R540). -/
structure Cmd where
  /-- Command sequence number. -/
  cseq : Nat := 0
  /-- Staging slot. -/
  slot : Nat := 0
  /-- Still executing instructions. -/
  open_ : Bool := true
  /-- Status reported so far (Table 7-8). -/
  status : Nat := 0
  /-- Index of the instruction that gave the status. -/
  idx : Nat := 0
  /-- Highest LSEQ reported by a stage that applied late (R264). -/
  lateLseq : Nat := 0
  /-- HOSTTAG (R481). -/
  tag : Word := 0
  /-- Device address of its entry. -/
  addr : Nat := 0
  /-- NCODE. -/
  ncode : Nat := 0
  /-- Index and status of each X-class instruction that it has executed (R540). -/
  xlog : List (Nat × Nat) := []
  /-- It is to be executed again after a takeover (R541). -/
  redo : Bool := false
  deriving DecidableEq, Repr

/-- What the sequencer is executing (R261, R265). -/
inductive Exec where
  /-- A command. -/
  | command (cseq : Nat)
  /-- The handler of a task input, with the hop count of its activation (R589). -/
  | handler (input hop : Nat)
  /-- The control program from its ENTRY (R570). -/
  | program
  deriving DecidableEq, Repr

/-- A streamed operation that the sequencer has formed and that has not issued (R63, R259). -/
structure Forming where
  /-- UNIT. -/
  unit : Nat := 0
  /-- OP. -/
  op : Nat := 0
  /-- Payload. -/
  words : List Word := []
  deriving DecidableEq, Repr

/-- The sequencer cores' state beside their registers. -/
structure SeqState where
  /-- What runs now. -/
  cur : Option Exec := none
  /-- Instructions of the current command or control program (R290). -/
  codeLen : Nat := 0
  /-- Apply context. -/
  xat : Xat := {}
  /-- Status code of the last X-class instruction or XWAIT (R293). -/
  status : Nat := 0
  /-- Index of that instruction. -/
  statusIdx : Nat := 0
  /-- Streamed operation formed and not yet issued. -/
  forming : Option Forming := none
  /-- X-class instruction (UNIT, OP, word) that waits for an epoch, a code area or a model area (R36, R237, R392). -/
  wait : Option (Nat × Nat × XWord) := none
  /-- The active pair has stopped and no pair has taken the lease (R539). -/
  stopped : Bool := false
  /-- Outstanding commands, oldest first. -/
  log : List Cmd := []
  /-- Long operations under way or done and not yet collected. -/
  longs : List LongOp := []
  /-- Handler instruction index per task input. -/
  handlers : Tbl (Option Nat) := []
  /-- An XWAIT waits for long operations (R293). -/
  xwaits : Bool := false
  /-- Packets inserted so far. -/
  ord : Nat := 0
  /-- Device address of instruction 0 of what runs. -/
  base : Nat := 0
  /-- Raw tick of the last renewal of the control lease (R538). -/
  renewed : Nat := 0
  /-- The active pair stopped while the banked pair was not BANKED (R542). -/
  failed : Bool := false
  /-- X-class instructions executed so far in the present execution (R541). -/
  xk : Nat := 0
  /-- Index and status of each that a handler or the control program's entry has executed (R540). -/
  xlog : List (Nat × Nat) := []
  /-- Failed self-tests of the banked pair since its last pass (R547). -/
  tries : Nat := 0
  deriving DecidableEq, Repr

/-- A span entry of the Sump (Table 1-10). -/
structure Span where
  /-- VALID. -/
  valid : Bool := false
  /-- SRC. -/
  src : Nat := 0
  /-- SKIND. -/
  skind : Nat := 0
  /-- ROWS. -/
  rows : Nat := 0
  /-- LSEQFIRST. -/
  lseqFirst : Nat := 0
  /-- YFIRST. -/
  yFirst : Int := 0
  /-- YLAST. -/
  yLast : Int := 0
  /-- Allocation number: the entry allocated earliest is evicted (R53). -/
  ord : Nat := 0
  /-- The span has closed and waits for its destination (R55). -/
  closed : Bool := false
  deriving DecidableEq, Repr

/-- A TEST packet (KIND 0x6): its tag and its payload (R546). -/
structure TestPkt where
  /-- TAG0 to TAG2: HEAD 0, XSET 0, LSEQ the test sequence number, TIME the injection, FLAGS with TEST. -/
  tag : Tag := { kind := 6 }
  /-- Generator seed, TAG1. -/
  seed : Word := 0
  /-- TRP: the physical row processor under test. -/
  trp : Nat := 0
  /-- PATTERN. -/
  pattern : Nat := 0
  /-- SIG: CRC-32C of the expected output slots. -/
  sig : Nat := 0
  /-- Three planes of 1,024 bytes. -/
  payload : List Byte := []
  deriving DecidableEq, Repr

/-- A Sump note (KIND 0xF): the tag of what was diverted, with TIME the time of the diversion, its kind and its source (R48). -/
structure SumpNote where
  /-- Tag: KIND 0xF, what TAG0 and TAG1 copy, TIME, FLAGS and STRIP. -/
  tag : Tag := { kind := 15 }
  /-- SKIND of Table 1-9. -/
  skind : Nat := 0
  /-- SRC of Table 1-8. -/
  src : Nat := 0
  deriving DecidableEq, Repr

/-- The Sump (R51 to R57). -/
structure Sump where
  /-- The Sump note taken last. -/
  last : SumpNote := {}
  /-- The 4,096 entries. -/
  spans : Tbl Span := []
  /-- Allocations made. -/
  allocs : Nat := 0
  /-- SUMP_MERGE_NM (R52). -/
  mergeNm : Nat := 1000000
  /-- SUMP_CLOSE, µs (R55). -/
  closeUs : Nat := 1000
  deriving DecidableEq, Repr

/-- A token in a channel, after the source multiplexer (R580). -/
structure Token where
  /-- Channel. -/
  chan : Nat := 0
  /-- Source, 512 for software fires. -/
  src : Nat := 0
  /-- Hop count. -/
  hop : Nat := 0
  deriving DecidableEq, Repr

/-- A GAP packet on its way to a stage (R58). -/
structure GapPkt where
  /-- Stage it reaches next (a UNIT number). -/
  stage : Nat := 0
  /-- A view's stream. -/
  vs : Bool := false
  /-- Head or view. -/
  stream : Nat := 0
  /-- First missing LSEQ. -/
  lseq : Nat := 0
  /-- First missing POS. -/
  pos : Int := 0
  /-- Time of diversion. -/
  time : Nat := 0
  /-- SKIND. -/
  skind : Nat := 0
  /-- Missing rows. -/
  count : Nat := 0
  /-- The model's own: POS and EPOCH of each missing row (R33; log entry 151). -/
  rows : List (Int × Nat) := []
  deriving DecidableEq, Repr

/-- A head's entries in a program set (Table 7-6). -/
structure HeadEntry where
  /-- OUTMASK. -/
  outMask : Nat := 0
  /-- ROWOFF. -/
  rowOff : Nat := 0
  /-- INITOFF. -/
  initOff : Nat := 0
  deriving DecidableEq, Repr

/-- What RPA keeps of the image in a code area (R235, R237); the code itself stands in the strip memories. -/
structure Area where
  /-- Enabled heads' entries. -/
  heads : Tbl (Option HeadEntry) := []
  /-- WBASE. -/
  wbase : Nat := 0
  /-- WDEPTH. -/
  wdepth : Nat := 0
  /-- Mirror regions: offset and length. -/
  mirror : List (Nat × Nat) := []
  /-- Shared banks that hold mirror images and journals (R249). -/
  banks : List Nat := []
  /-- Insertion number of the RPA.LOAD packet that loaded it. -/
  ord : Nat := 0
  /-- Instructions of its code; the rest of the area reads as 0 (R277). -/
  len : Nat := 8192
  deriving DecidableEq, Repr

/-- A Damper request or grant (R556). -/
structure Grant where
  /-- Class of Table 18-1. -/
  cls : Nat := 0
  /-- Lane, channel, unit or compressor. -/
  id : Nat := 0
  /-- mW. -/
  mw : Nat := 0
  deriving DecidableEq, Repr

/-- The Damper's account (R555 to R558). -/
structure Damper where
  /-- Requests that wait, in arrival order. -/
  waiting : List Grant := []
  /-- Grants held. -/
  held : List Grant := []
  /-- A rise of VCORE was withheld by the cap or by VMAX (R558). -/
  riseHeld : Bool := false
  deriving DecidableEq, Repr

/-- A TAPREQ (R142), without the lane number, which is the lane's position in its bonding list. -/
structure TapReq where
  /-- ACTION: 0 INC, 1 DEC, 2 PRESET. -/
  action : Nat := 0
  /-- TAP: 0 pre, 1 main, 2 post. -/
  tap : Nat := 0
  /-- RSEQ. -/
  rseq : Nat := 0
  /-- PREVAL, MAINVAL and POSTVAL of a PRESET. -/
  vals : List Nat := []
  deriving DecidableEq, Repr

/-- What a lane keeps beside its lane block. -/
structure Lane where
  /-- Step of Table 2-3 under way, 0 for none. -/
  step : Nat := 0
  /-- Equaliser and far-end values are retained (R95). -/
  retained : Bool := false
  /-- The present wake is a retained one (R95). -/
  short : Bool := false
  /-- Step 3 was resumed from Rx-sleep, and RELOCK runs (R94). -/
  resumed : Bool := false
  /-- TRAINFAIL has been set and the retry of R90 is due. -/
  failed : Bool := false
  /-- Block lock has been regained in RECOVER (R91). -/
  relocked : Bool := false
  /-- The lane was COLD when its group entered REFFAULT (R74). -/
  wasCold : Bool := false
  /-- A wake or SLA.TRAIN was requested during the fault (R74). -/
  wakeReq : Bool := false
  /-- The outstanding TAPREQ of step 5 (R142). -/
  req : Option TapReq := none
  /-- RSEQ of the next TAPREQ. -/
  rseq : Nat := 0
  /-- TAPREQ requests sent in the present training. -/
  reqs : Nat := 0
  /-- Requests since the eye estimate last improved. -/
  stale : Nat := 0
  /-- Repeats of the present request. -/
  repeats : Nat := 0
  /-- The far-end step that the adaptation would make next: 2·tap, plus 1 upward. -/
  want : Nat := 0
  /-- A TAPACK has been received since reset (R86). -/
  acked : Bool := false
  /-- Directions that the camera has closed by MIN or MAX, bit 2·tap + (0 down, 1 up) (R87). -/
  closed : Nat := 0
  /-- Quantities held at a software bound: bit 0 CTLE, 1 DFE tap 1, 2 to 4 far-end pre, main, post. -/
  heldQ : Nat := 0
  /-- Counter of the last ALIGN. -/
  alignCtr : Nat := 0
  /-- Non-SKIP blocks by which it came after the first of its counter on the set. -/
  alignSpread : Nat := 0
  /-- An ALIGN has arrived since block lock, or since the set last lost deskew. -/
  alignSeen : Bool := false
  /-- The lane's set is deskewed (R81). -/
  deskewed : Bool := false
  /-- Pending injection: bits and side (0 Tx, 1 Rx) (R101). -/
  inject : Option (Nat × Nat) := none
  /-- The PRBS checker runs (R100). -/
  checking : Bool := false
  /-- Bits that a checker that synchronises has loaded. -/
  loaded : Nat := 0
  /-- Consecutive mismatches of the PRBS checker. -/
  mism : Nat := 0
  /-- An error has occurred since the checker synchronised. -/
  prbsErr : Bool := false
  /-- Receiver offset trim, codes (R105). -/
  trim : Int := 0
  /-- Eye scan: CROSS mode. -/
  scanCross : Bool := false
  /-- Eye scan: log2 of the bits per point. -/
  scanK : Nat := 0
  /-- Eye scan: EMAX. -/
  scanEmax : Nat := 0
  /-- Eye scan: map address. -/
  scanAddr : Nat := 0
  /-- Eye scan: next point. -/
  scanPoint : Nat := 0
  deriving DecidableEq, Repr

/-- An epoch cut that has been placed and has not retired (R36, R38). -/
structure CutRec where
  /-- New epoch. -/
  epoch : Nat := 0
  /-- Pcut. -/
  pos : Int := 0
  /-- DIR. -/
  dir : Nat := 0
  /-- FABRIC. -/
  fabric : Bool := false
  /-- Presented time of placement. -/
  time : Nat := 0
  deriving DecidableEq, Repr

/-- A CUT packet on its way to a stage (R38). -/
structure CutPkt where
  /-- Stage it reaches next (a UNIT number). -/
  stage : Nat := 0
  /-- A view's stream. -/
  vs : Bool := false
  /-- Head or view. -/
  stream : Nat := 0
  /-- The cut. -/
  cut : CutRec := {}
  deriving DecidableEq, Repr

/-- A trigger record at HAU (R154). -/
structure TrigRec where
  /-- Trigger number. -/
  num : Nat := 0
  /-- LSEQ. -/
  lseq : Nat := 0
  /-- TIME, presented time. -/
  time : Nat := 0
  /-- POS. -/
  pos : Int := 0
  /-- SPD, mm/s. -/
  spd : Int := 0
  /-- Intended exposure set. -/
  xset : Nat := 0
  /-- UNDERSAMP. -/
  undersamp : Bool := false
  deriving DecidableEq, Repr

/-- A line being received (R116, R155 to R163). -/
structure Line where
  /-- The trigger that it answers. -/
  rcd : TrigRec := {}
  /-- Elastic-buffer slot, none when no slot was free. -/
  slot : Option Nat := none
  /-- LEN of LINE_START. -/
  len : Nat := 0
  /-- TEST. -/
  test : Bool := false
  /-- ECHO. -/
  echo : Bool := false
  /-- XSET of LINE_START. -/
  xset : Nat := 0
  /-- CLINE. -/
  cline : Nat := 0
  /-- Lanes that deliver in this line, bit k = HLANE k (R159). -/
  lanes : Nat := 0
  /-- Data blocks in order; none for a padded position. -/
  blocks : List (Option Word) := []
  /-- A lane was lost. -/
  lost : Bool := false
  /-- A block position was padded. -/
  padded : Bool := false
  /-- A supply warning has been active (Table 4-1). -/
  low : Bool := false
  /-- Data blocks beyond NBexp have been discarded. -/
  extra : Bool := false
  /-- The copies of LINE_START differ (R119). -/
  differs : Bool := false
  /-- The line matches no trigger and is discarded (R155). -/
  drop : Bool := false
  deriving DecidableEq, Repr

/-- A row in its elastic buffer (R163, R165). -/
structure EbRow where
  /-- Slot. -/
  slot : Nat := 0
  /-- Tag, STRIP 0. -/
  tag : Tag := {}
  /-- Strips not yet dispatched (R168). -/
  todo : List Nat := []
  /-- Strips neither committed by SST nor diverted (R165). -/
  open_ : List Nat := []
  /-- HIS has taken or diverted its copy, or takes none. -/
  taken : Bool := false
  deriving DecidableEq, Repr

/-- A run of missing rows (R164). -/
structure GapRun where
  /-- First missing LSEQ. -/
  lseq : Nat := 0
  /-- First missing POS. -/
  pos : Int := 0
  /-- Time of the first diversion. -/
  time : Nat := 0
  /-- SKIND. -/
  skind : Nat := 0
  /-- Rows. -/
  count : Nat := 0
  /-- The model's own: POS and EPOCH of each missing row (R33; log entry 151). -/
  rows : List (Int × Nat) := []
  deriving DecidableEq, Repr

/-- Why a CMD is sent to a camera. -/
inductive CamUse where
  /-- HAU.CAMREG, its payload at an address. -/
  | camreg (addr : Nat)
  /-- The reads of step 5 and the writes of steps 6 and 8 of Table 3-9. -/
  | start
  /-- RUN 0 by HAU.STOP. -/
  | stop
  deriving DecidableEq, Repr

/-- A camera register access (R135, R136). -/
structure CamCmd where
  /-- Purpose. -/
  use : CamUse := .start
  /-- Write. -/
  write : Bool := true
  /-- ADDR. -/
  addr : Nat := 0
  /-- Data written. -/
  data : Nat := 0
  /-- TAG, once sent. -/
  tag : Nat := 0
  deriving DecidableEq, Repr

/-- A HAU.START under way (R144, R150). -/
structure Start where
  /-- Step of Table 3-9. -/
  step : Nat := 2
  /-- The default map is to be written. -/
  dflt : Bool := false
  /-- First LSEQ. -/
  lseq : Nat := 0
  /-- Logical row processor and assignment index of each strip, fixed before step 2 (R150, R166, R232). -/
  plan : List (Nat × Nat) := []
  /-- ESLVER as read in step 5. -/
  eslver : Nat := 0
  /-- Exposure sets still to be downloaded in step 7. -/
  sets : List Nat := []
  deriving DecidableEq, Repr

/-- The master downlink of a head (R125). -/
structure Downlink where
  /-- TRIG blocks that are due. -/
  trigs : List Word := []
  /-- Blocks since the last SKIP. -/
  since : Nat := 0
  /-- Data blocks of the open CMD or XSETDL sequence still to be sent. -/
  data : List Word := []
  /-- TAPREQ blocks that wait. -/
  taps : List Word := []
  /-- CMD and XSETDL sequences that wait. -/
  seqs : List (List Word) := []
  /-- The block of the last slot: whether it is a data block, and its payload. -/
  last : Option (Bool × Word) := none
  deriving DecidableEq, Repr

/-- A head beside its blocks. -/
structure HeadState where
  /-- HAU.START under way. -/
  start : Option Start := none
  /-- HAU.STOP under way. -/
  stopping : Bool := false
  /-- TAG of the next CMD. -/
  tag : Nat := 0
  /-- Outstanding CMD. -/
  cmd : Option CamCmd := none
  /-- CMDs that wait for it. -/
  cmds : List CamCmd := []
  /-- Blocks of the last CMD or XSETDL sequence sent on the master downlink. -/
  sent : List Word := []
  /-- Last TRIG block sent. -/
  trig : Word := 0
  /-- Its master downlink. -/
  down : Downlink := {}
  /-- Outstanding trigger records, oldest first. -/
  recs : List TrigRec := []
  /-- Records that closed unanswered while an older trigger's line is being received (R164). -/
  unanswered : List TrigRec := []
  /-- Line being received. -/
  line : Option Line := none
  /-- CLINE of the previous line. -/
  cline : Option Nat := none
  /-- Rows in the elastic buffer, oldest first. -/
  rows : List EbRow := []
  /-- Run of missing rows whose GAP packet has not been sent. -/
  gap : Option GapRun := none
  /-- A GAP packet has been sent since the last row. -/
  gapBefore : Bool := false
  /-- Cuts whose packets have reached HAU in this head's stream (R39). -/
  cuts : List CutRec := []
  /-- Epoch of the head's rows. -/
  epoch : Nat := 0
  /-- MAXLRATE read at the start (R206). -/
  maxLrate : Nat := 0
  /-- Bank of the first byte of the elastic buffer. -/
  bank : Nat := 64
  /-- Lanes of the head taken to TRAINING by a rate change, and due to train (R145). -/
  reRate : Bool := false
  deriving DecidableEq, Repr

/-- A motion law: position in 1/65,536 units, speed and acceleration in 1/65,536 units per second, valid from an instant
(R182, R507). Units are counts for an observer and nm for the fabric source. -/
structure Track where
  /-- Position at `t0`. -/
  p : Int := 0
  /-- Speed. -/
  v : Int := 0
  /-- Acceleration. -/
  a : Int := 0
  /-- Raw tick. -/
  t0 : Nat := 0
  deriving DecidableEq, Repr

/-- What an encoder channel keeps beside its block. -/
structure EncState where
  /-- RCOUNT (R176). -/
  rcount : Int := 0
  /-- A count edge has set the direction that DIRN shows (R178). -/
  counted : Bool := false
  /-- Accepted level of A. -/
  a : Bool := false
  /-- Accepted level of B. -/
  b : Bool := false
  /-- Raw tick of the observer's last measurement. -/
  t0 : Nat := 0
  /-- Consecutive measurements that have passed the check of R184. -/
  streak : Nat := 0
  /-- An index has been met. -/
  zSeen : Bool := false
  /-- What the next index is checked against: C latched at the last one, 0 after a zeroing (R181). -/
  zPrev : Int := 0
  /-- The one zeroing of ZMODE 1 has happened. -/
  zDone : Bool := false
  deriving DecidableEq, Repr

/-- What an SSI port keeps beside its block. -/
structure SsiState where
  /-- Raw tick of the observer's last measurement. -/
  t0 : Nat := 0
  /-- Consecutive measurements that have passed the check of R184. -/
  streak : Nat := 0
  /-- A frame has given a value since PFU.SSICFG. -/
  seen : Bool := false
  /-- The last frame set IDLELOW, NORESP, SENSERR or JUMP (R198). -/
  fault : Bool := false
  /-- A frame is under way, since this raw tick. -/
  frame : Option Nat := none
  /-- Data was low just before its first falling edge. -/
  idleLow : Bool := false
  deriving DecidableEq, Repr

/-- A probe record (R192). -/
structure ProbeRec where
  /-- Raw tick. -/
  time : Nat := 0
  /-- PVAL. -/
  val : Int := 0
  /-- PQUAL. -/
  qual : Bool := false
  /-- PEDGE. -/
  rising : Bool := false
  deriving DecidableEq, Repr

/-- What a divided output keeps beside its block. -/
structure DivState where
  /-- Phase accumulator, 0 to M − 1. -/
  acc : Int := 0
  /-- Steps not yet issued, signed. -/
  backlog : Int := 0
  /-- Output phase: DIVA, DIVB are 00, 10, 11, 01 at 0, 1, 2, 3. -/
  phase : Nat := 0
  deriving DecidableEq, Repr

/-- The web position beside its block. -/
structure WebState where
  /-- Prediction that POS continues from while the source is faulted (R198). -/
  coast : Option Track := none
  /-- POS while WPVALID is 0. -/
  frozen : Int := 0
  /-- Fabric position of the last SYNC, nm (R507). -/
  fabric : Track := {}
  /-- The fabric source is faulted (R508); no SYNC has arrived at reset. -/
  fabFault : Bool := true
  deriving DecidableEq, Repr

/-- A pending mark (R221). -/
structure Mark where
  /-- Marker. -/
  marker : Nat := 0
  /-- Fire point, nm. -/
  fire : Int := 0
  deriving DecidableEq, Repr

/-- A trigger that TES has committed (R204). -/
structure Trig where
  /-- Trigger time, raw ticks. -/
  at_ : Nat := 0
  /-- Issue instant, raw ticks. -/
  issue : Nat := 0
  /-- TIME, presented time at the trigger time. -/
  time : Nat := 0
  /-- POS of the record: at the trigger time plus half the exposure (R196). -/
  pos : Int := 0
  /-- SPD at that instant. -/
  spd : Int := 0
  /-- Intended exposure set. -/
  xset : Nat := 0
  /-- The row carries UNDERSAMP. -/
  undersamp : Bool := false
  /-- Hop count that the trigger's token carries (R589). -/
  hop : Nat := 0
  deriving DecidableEq, Repr

/-- An exposure-set download under way (R131 to R133). -/
structure Download where
  /-- SET. -/
  set : Nat := 0
  /-- XTAG. -/
  xtag : Nat := 0
  /-- The five words that are downloaded. -/
  img : List Word := []
  /-- The second attempt has been sent. -/
  again : Bool := false
  /-- It belongs to step 7 of Table 3-9, else to TES.XSET. -/
  start : Bool := false
  deriving DecidableEq, Repr

/-- What TES keeps of a head beside its block. -/
structure TesState where
  /-- Count edges since the last EDGE trigger. -/
  edges : Nat := 0
  /-- EDGE triggers due. -/
  due : Nat := 0
  /-- Committed triggers, not yet issued. -/
  queue : List Trig := []
  /-- Raw tick of the last trigger time; none before the first trigger of a run. -/
  last : Option Nat := none
  /-- The next TIME instant's k. -/
  k : Nat := 0
  /-- The next issued row carries UNDERSAMP for a skipped cause (R207). -/
  skipped : Bool := false
  /-- Contents of exposure sets as last acknowledged: set to five words. -/
  images : Tbl (List Word) := []
  /-- Sets that the camera has acknowledged. -/
  acked : List Nat := []
  /-- EXPNS of a set as TES holds it; 0 for one never downloaded (log entry 18). -/
  expns : Tbl Nat := []
  /-- Next XTAG. -/
  xtag : Nat := 0
  /-- Download under way. -/
  dl : Option Download := none
  /-- The pending set is one of TES.XSET, which completes when it takes effect. -/
  pendLong : Bool := false
  /-- Raw tick of the pending set's acknowledgement or selection; none until then. -/
  ready : Option Nat := none
  /-- It was acknowledged to TES.XSET, so Tline must pass (R212). -/
  byAck : Bool := false
  /-- Pin trigger from which an ARM block that has been sent applies the pending set (R214). -/
  arm : Option Nat := none
  /-- The apply-from point has been reached. -/
  reached : Bool := false
  /-- A trigger beyond the point has gone without the pending set (R213). -/
  xlate : Bool := false
  /-- TRG pair high. -/
  trg : Bool := false
  deriving DecidableEq, Repr

/-- The journal of a run: its stores to mirror regions at line granularity, applied in run order (R250). -/
structure Journal where
  /-- Logical row processor. -/
  lrp : Nat := 0
  /-- Head, LSEQ and STRIP of the run. -/
  head : Nat := 0
  /-- LSEQ. -/
  lseq : Nat := 0
  /-- STRIP. -/
  strip : Nat := 0
  /-- Code area of the run. -/
  area : Nat := 0
  /-- Dirtied 64-byte lines: strip-memory offset and contents. -/
  lines : List (Nat × List Byte) := []
  /-- K8 to K63 as the run saw them, for its replay (R47). -/
  ks : List Word := []
  /-- Copies by SMWRITE that landed before the run, for its replay (R47). -/
  copies : List (Nat × List Byte) := []
  /-- The strip has been committed by SST or diverted to the Sump. -/
  settled : Bool := false
  deriving DecidableEq, Repr

/-- What a run delivers to SST at END (R240, R331). -/
structure Strip where
  /-- Tag with STRIP set. -/
  tag : Tag := {}
  /-- Logical row processor that ran it. -/
  lrp : Nat := 0
  /-- Slots delivered. -/
  outMask : Nat := 0
  /-- Slot contents; an unlisted slot is zeros. -/
  slots : Tbl Vec := []
  /-- P7 as each slot was written, for the run summary. -/
  valid : Tbl Pred := []
  /-- S31 [15:0] at END. -/
  hold : Nat := 0
  /-- K8 as the run saw it. -/
  k8 : Word := 0
  /-- K9 as the run saw it. -/
  k9 : Word := 0
  /-- Valid columns of the strip. -/
  cols : Nat := 0
  /-- The strip has found SST full (PMU event 0x04, R271). -/
  waited : Bool := false
  deriving DecidableEq, Repr

/-- A copy of an image into a row processor's code area (R237). -/
structure Copy where
  /-- Row processor. -/
  rp : Nat := 0
  /-- Image address. -/
  addr : Nat := 0
  /-- First epoch. -/
  epoch : Nat := 0
  /-- Code area. -/
  area : Nat := 0
  /-- Command whose packet is applied at the end of the copy. -/
  cseq : Nat := 0
  /-- Insertion number of the packet. -/
  ord : Nat := 0
  deriving DecidableEq, Repr

/-- The open statistics block of a (HEAD, STRIP) (R217, R333, R335). -/
structure Stats where
  /-- Tag of the first row, with FLAGS ORed and the lowest DLEN. -/
  tag : Tag := {}
  /-- Contributing rows. -/
  rows : Nat := 0
  /-- LSEQ of the last row. -/
  lseqLast : Nat := 0
  /-- POS of the last row. -/
  yLast : Int := 0
  /-- OR of HOLD. -/
  hold : Nat := 0
  /-- OUTMASK. -/
  outMask : Nat := 0
  /-- Valid columns. -/
  cols : Nat := 0
  /-- K8. -/
  k8 : Word := 0
  /-- K9. -/
  k9 : Word := 0
  /-- SUM, SUMSQ, MIN, MAX, FULLCNT, ZEROCNT of slots 0 to 2, six each. -/
  sums : List Nat := []
  /-- Counts of the 16 mask bits. -/
  masks : List Nat := []
  /-- The 64 bins. -/
  hist : List Nat := []
  deriving DecidableEq, Repr

/-- A strip that is to run again after a failover, under the control state of its first run (R44, R47, R252). -/
structure Replay where
  /-- Logical row processor. -/
  lrp : Nat := 0
  /-- Tag as first delivered. -/
  tag : Tag := {}
  /-- K8 to K63 of the first run. -/
  ks : List Word := []
  /-- Copies by SMWRITE that landed before the first run. -/
  copies : List (Nat × List Byte) := []
  /-- Commands that the first run would have reported (R34). -/
  lates : List Nat := []
  deriving DecidableEq, Repr

/-- Row processor array: program sets, journals, and strips between RPA and SST. -/
structure RpaState where
  /-- Code areas 0 and 1. -/
  areas : Tbl Area := []
  /-- Code area that a halted logical row processor faulted in; none, it is not halted (R256). -/
  haltArea : Tbl (Option Nat) := []
  /-- K8 to K63 per head and logical row processor (R243): key 64·(64·lrp + head) + n. -/
  heads : Tbl Word := []
  /-- Assignment indices: key 256·lrp + index holds 1 + 256·head + strip (R232). -/
  assigns : Tbl Nat := []
  /-- Assignments that have run INIT: key 2·(256·lrp + index) + area holds 1 (R239). -/
  inits : Tbl Nat := []
  /-- Assignments whose next strip carries CALSTEP: key 256·lrp + index holds 1 (R536). -/
  calstep : Tbl Nat := []
  /-- Journals not yet applied, in run order. -/
  journals : List Journal := []
  /-- The run that waits for journal room has been counted (R251). -/
  jwait : Tbl Bool := []
  /-- Strips whose run has ended and that wait for SST (R360). -/
  outbox : List Strip := []
  /-- Image copies under way (R237). -/
  copies : List Copy := []
  /-- Strips of a failed unit that its replacement runs again, in order, with REPLAY (R44, R252). -/
  replays : List Replay := []
  /-- Shared banks that RPA.LOAD has allocated and whose image is not yet in its area: insertion number of the packet and
  banks (R249). -/
  alloc : List (Nat × List Nat) := []
  /-- Copies by SMWRITE that have landed since a logical row processor's last run began, in order (R244, R250). -/
  smCopies : Tbl (List (Nat × List Byte)) := []
  /-- Source address at which a copy by SMWRITE failed: key 64·lrp + head (R244). -/
  smFault : Tbl (Option Nat) := []
  /-- LSEQs of rows that RPA diverted, per strip of a head (key 256·head + strip): the strip's next row after one carries
  GAPBEFORE (R58). -/
  gapAfter : Tbl (List Nat) := []
  /-- Last 256 dispatches of each logical row processor, newest first: heads (R168). -/
  dispatched : Tbl (List Nat) := []
  /-- Open statistics blocks: key 256·head + strip (R333). -/
  stats : Tbl Stats := []
  /-- HOLD of the last committed row: key 256·head + strip (R332). -/
  holds : Tbl Nat := []
  /-- Entries of a head dropped since the previous written entry (R335). -/
  dropped : Tbl Nat := []
  deriving DecidableEq, Repr

/-- A member's row that a GAP packet covers (R33, R342). -/
structure MemGap where
  /-- SKIND of the packet. -/
  skind : Nat := 0
  /-- POS of the row. -/
  pos : Int := 0
  /-- EPOCH of the row. -/
  epoch : Nat := 0
  deriving DecidableEq, Repr

/-- A member head's part of a view row that has not been formed (R341, R342). -/
structure MemRow where
  /-- Head. -/
  head : Nat := 0
  /-- Head LSEQ. -/
  lseq : Nat := 0
  /-- Strips accepted. -/
  strips : List Strip := []
  /-- The GAP packet that covers the row, as far as it concerns it. -/
  gap : Option MemGap := none
  deriving DecidableEq, Repr

/-- A view row that has not been formed: one per trigger of the view (R341). -/
structure PendRow where
  /-- View LSEQ. -/
  n : Nat := 0
  /-- The members that ran at the trigger. -/
  mems : List MemRow := []
  /-- A member's HAU.STOP has begun since the trigger, so the view cannot open at this row (R342). -/
  dead : Bool := false
  deriving DecidableEq, Repr

/-- What SST keeps of a view beside its block (R342 to R360). -/
structure ViewState where
  /-- View rows not yet formed, in trigger order. -/
  rows : List PendRow := []
  /-- The next view row carries GAPBEFORE (R342, R343). -/
  gapBefore : Bool := false
  /-- No view row has been formed since the opening (R343). -/
  first : Bool := false
  /-- Heads whose next contributing row follows a missing one (R58). -/
  after : List Nat := []
  /-- Run of rows that no member delivered, whose GAP packet has not been sent (R342). -/
  gap : Option GapRun := none
  /-- Epoch of the last view row formed (R38). -/
  epoch : Nat := 0
  /-- View LSEQ of the last view row formed. -/
  last : Nat := 0
  /-- Exchanges received from the left neighbour, for rows not yet formed (R358). -/
  left : List EdgeRow := []
  /-- Exchanges received from the right neighbour. -/
  right : List EdgeRow := []
  /-- σ31 that the left neighbour has sent, by its view LSEQ (R358). -/
  sigs : List (Nat × Int) := []
  /-- Boundary words received from the left neighbour, by view LSEQ (R379). -/
  wordsL : List (Nat × Nat) := []
  /-- Boundary words received from the right neighbour. -/
  wordsR : List (Nat × Nat) := []
  /-- The view row whose exchange has been sent last (R357). -/
  told : Option Nat := none
  deriving DecidableEq, Repr

/-- What an item of the row store is (R43, R342, R427). -/
inductive ItemKind where
  /-- A row. -/
  | row
  /-- A GAP packet in the place of missing rows. -/
  | gap (g : GapPkt)
  /-- The stream's stop: the view stops being open, or the head stops. -/
  | stop
  deriving DecidableEq, Repr

/-- An item of the row store: a row, or what stands between two rows of its stream. -/
structure StoreItem where
  /-- What it is. -/
  kind : ItemKind := .row
  /-- View domain; otherwise a head-domain row (R427). -/
  vs : Bool := true
  /-- View or head. -/
  src : Nat := 0
  /-- Row tag. -/
  tag : Tag := {}
  /-- Samples per declared slot. -/
  slots : Tbl (List Nat) := []
  /-- Bytes that it takes of the row store. -/
  size : Nat := 0
  /-- Consumers that have not committed it: overview streams 0 to 7, and 8 for RTK (R43). -/
  need : List Nat := []
  deriving DecidableEq, Repr

/-- An open region, or an absorbed one in the row that absorbs it: its accumulators over the current chunk (R365, R366). -/
structure Region where
  /-- RSER. -/
  rser : Nat := 0
  /-- GROUP. -/
  group : Nat := 0
  /-- XA. -/
  xa : Nat := 0
  /-- YREG. -/
  yreg : Int := 0
  /-- Records emitted so far (CHUNK modulo 65,536). -/
  chunk : Nat := 0
  /-- AREATOT. -/
  areaTot : Nat := 0
  /-- LSEQFIRST. -/
  first : Nat := 0
  /-- LSEQLAST. -/
  last : Nat := 0
  /-- POS of row LSEQFIRST. -/
  yStart : Int := 0
  /-- POS of row LSEQLAST. -/
  yEnd : Int := 0
  /-- TIME of row LSEQFIRST. -/
  tStart : Nat := 0
  /-- EPOCHFIRST. -/
  epochFirst : Nat := 0
  /-- Lowest and highest column of the chunk; none while it has no pixel. -/
  cols : Option (Nat × Nat) := none
  /-- AREA. -/
  area : Nat := 0
  /-- SUMI. -/
  sumI : Nat := 0
  /-- SUMX. -/
  sumX : Int := 0
  /-- SUMY. -/
  sumY : Int := 0
  /-- SUMXX. -/
  sumXX : Int := 0
  /-- SUMYY. -/
  sumYY : Int := 0
  /-- SUMXY. -/
  sumXY : Int := 0
  /-- FSUM0 to FSUM3. -/
  fsum : List Nat := [0, 0, 0, 0]
  /-- IMIN and IMAX; none while the chunk has no pixel. -/
  lim : Option (Nat × Nat) := none
  /-- PLANES. -/
  planes : Nat := 0
  /-- RFLAGS. -/
  rflags : Nat := 0
  /-- REGFLAGS. -/
  regflags : Nat := 0
  /-- First and last row of the chunk with a left contact (R380). -/
  conL : Option (Nat × Nat) := none
  /-- First and last row with a right contact. -/
  conR : Option (Nat × Nat) := none
  /-- Runs in the last row processed. -/
  runs : List (Nat × Nat) := []
  deriving DecidableEq, Repr

/-- A progress mark (R630). -/
inductive MarkKind where
  /-- A view row. -/
  | row (lseq : Nat) (pos : Int) (epoch : Nat)
  /-- A view GAP packet. -/
  | gap (lseq : Nat) (rows : List (Int × Nat))
  /-- The view's stop. -/
  | stop
  deriving DecidableEq, Repr

/-- What RTK sends to RCL and RCL to DLG, in order. -/
inductive RecItem where
  /-- A region record of 32 words (Table 11-1). -/
  | record (ws : List Word)
  /-- A progress mark of a view. -/
  | mark (v : Nat) (k : MarkKind)
  deriving DecidableEq, Repr

/-- What RTK keeps of a view beside its block. -/
structure RtkState where
  /-- Open regions, in order of opening. -/
  regions : List Region := []
  /-- View LSEQ, POS and EPOCH of the last row processed. -/
  last : Nat × Int × Nat := (0, 0, 0)
  /-- A gap no longer than GAPBRIDGE precedes the next row (R367). -/
  bridged : Bool := false
  /-- Boundary words that have been missed, by view LSEQ: left and right (R379). -/
  missL : List Nat := []
  /-- Right. -/
  missR : List Nat := []
  deriving DecidableEq, Repr

/-- A model held by RCL (R386, R390). -/
structure Model where
  /-- EN, CMIN, NT and FIRST words of views 0 to 15. -/
  forests : List Word := []
  /-- Roots of trees 0 to 255. -/
  roots : List Nat := []
  /-- Nodes. -/
  nodes : List Word := []
  /-- Insertion number of the packet that loaded it. -/
  ord : Nat := 0
  deriving DecidableEq, Repr

/-- A copy of a model image under way (R392). -/
structure ModelCopy where
  /-- Image address. -/
  addr : Nat := 0
  /-- First epoch. -/
  epoch : Nat := 0
  /-- Area. -/
  area : Nat := 0
  /-- Command. -/
  cseq : Nat := 0
  /-- Views at which its packet was late (R34). -/
  late : List Nat := []
  /-- Insertion number of the packet. -/
  ord : Nat := 0
  deriving DecidableEq, Repr

/-- Regions, records and models between RTK, RCL and DLG. -/
structure RecState where
  /-- RTK's part of each view. -/
  rtk : Tbl RtkState := []
  /-- Records formed, and marks behind them, that wait to enter the FIFO. -/
  held : List RecItem := []
  /-- The RTK to RCL FIFO with the marks between its records (R375). -/
  fifo : List RecItem := []
  /-- Model areas 0 and 1. -/
  models : Tbl Model := []
  /-- Model copies under way. -/
  copies : List ModelCopy := []
  /-- Classified records and marks on their way to DLG; one record at most (log entry 31). -/
  toDlg : List RecItem := []
  deriving DecidableEq, Repr

/-- DLG beside its registers. -/
structure DlgState where
  /-- Last 256 keys of records, per view, newest first (R408). -/
  recKeys : Tbl (List (List Nat)) := []
  /-- Last 256 keys of spans, per Sump source. -/
  spanKeys : Tbl (List (List Int)) := []
  /-- LINK records that wait to be written. -/
  links : List (List Word) := []
  /-- Contact table, oldest first. -/
  contacts : List (List Word) := []
  /-- Highest DSEQ received per NODE, plus 1 (R409, R516). -/
  highest : Tbl Nat := []
  /-- Forwarded records received and not yet written. -/
  inbox : List (List Word) := []
  /-- Ring index of the next record that RD1 sends (R516). -/
  fwdNext : Nat := 0
  /-- Heads and views (SRC) of which a GAP record has been written in the last LIVEHOLD ms (R568). -/
  gapSrcs : List Nat := []
  deriving DecidableEq, Repr

/-- A row that HIS has taken (R413). -/
structure HisRow where
  /-- Tag, STRIP 0. -/
  tag : Tag := {}
  /-- Packed payload, least significant bit first (R121). -/
  pay : Nat := 0
  deriving DecidableEq, Repr

/-- A frame group (R414), with the shape that its rows were taken in. -/
structure HisGroup where
  /-- Head. -/
  head : Nat := 0
  /-- PRED. -/
  pred : Nat := 0
  /-- FMT. -/
  fmt : Nat := 0
  /-- HW. -/
  hw : Nat := 0
  /-- Bits per sample. -/
  d : Nat := 8
  /-- Columns per strip. -/
  stripW : Nat := 64
  /-- Planes. -/
  planes : Nat := 1
  /-- Rows, LSEQ rising; the first gives LSEQ0. -/
  rows : List HisRow := []
  deriving DecidableEq, Repr

/-- A frame of a closed group that has not been written (R414, R419). -/
structure HisFrame where
  /-- Group. -/
  group : HisGroup := {}
  /-- Strip. -/
  strip : Nat := 0
  /-- Header and payload, once a compressor has coded the frame. -/
  bytes : Option (List Byte) := none
  deriving DecidableEq, Repr

/-- A frame that lies in the frame area with its directory entry (R419). -/
structure HisEntry where
  /-- Entries written before it. -/
  idx : Nat := 0
  /-- Offset from HBASE, 64-byte units. -/
  ofs : Nat := 0
  /-- Size, 64-byte units. -/
  units : Nat := 0
  /-- Strip. -/
  strip : Nat := 0
  /-- LSEQ0. -/
  lseq0 : Nat := 0
  /-- PRESENT. -/
  present : Nat := 0
  /-- TFIRST. -/
  tfirst : Nat := 0
  deriving DecidableEq, Repr

/-- History of a head beside its block. -/
structure HisHeadState where
  /-- The open group. -/
  group : Option HisGroup := none
  /-- Frames to be coded and written, in order. -/
  frames : List HisFrame := []
  /-- Frames in the area, oldest first. -/
  entries : List HisEntry := []
  deriving DecidableEq, Repr

/-- A crop under way (R422). -/
structure Crop where
  /-- Head. -/
  head : Nat := 0
  /-- SFIRST. -/
  sfirst : Nat := 0
  /-- SLAST. -/
  slast : Nat := 0
  /-- KEY is 1: the range is TIME. -/
  byTime : Bool := false
  /-- MODE. -/
  mode : Nat := 0
  /-- First of the range. -/
  first : Nat := 0
  /-- Last of the range. -/
  last : Nat := 0
  /-- Destination. -/
  dst : Nat := 0
  /-- Destination size. -/
  size : Nat := 0
  /-- Work area of mode 0. -/
  work : Nat := 0
  /-- Payload address, where the results go. -/
  addr : Nat := 0
  /-- It waits for the open group to pass the range. -/
  waits : Bool := false
  /-- Directory numbers of the frames selected at the request. -/
  sel : List Nat := []
  /-- DMA channel held (MODE 0). -/
  dma : Option Nat := none
  deriving DecidableEq, Repr

/-- History and compression beside their registers. -/
structure HisState where
  /-- Heads. -/
  heads : Tbl HisHeadState := []
  /-- Crops under way, oldest first. -/
  crops : List Crop := []
  /-- Frame checks under way (CMP.FRAME): payload address and words. -/
  checks : List (Nat × List Word) := []
  deriving DecidableEq, Repr

/-- A source row of an overview stream after its reduction across the web (R431, R435). -/
structure SrcRow where
  /-- Tag. -/
  tag : Tag := {}
  /-- The planes, one after the other. -/
  samples : List Nat := []
  /-- Substituted for a missing row. -/
  fill : Bool := false
  deriving DecidableEq, Repr

/-- Rows that a stream has still to substitute before its next source row (R435). -/
structure OvsGap where
  /-- First missing LSEQ. -/
  lseq : Nat := 0
  /-- Missing rows. -/
  count : Nat := 0
  /-- Rows substituted so far. -/
  done : Nat := 0
  deriving DecidableEq, Repr

/-- An output row that a stream holds (R429, Table 13-1). -/
structure OutRow where
  /-- Tag (R434). -/
  tag : Tag := {}
  /-- RESTART. -/
  restart : Bool := false
  /-- FRAMEEND. -/
  frameEnd : Bool := false
  /-- FILLROWS. -/
  fill : Nat := 0
  /-- OROW. -/
  orow : Nat := 0
  /-- The planes, one after the other. -/
  samples : List Nat := []
  deriving DecidableEq, Repr

/-- An overview stream beside its block. -/
structure OvsState where
  /-- Source rows that output rows to come may read; the last is the last row taken. -/
  rows : List SrcRow := []
  /-- Source rows numbered so far since the start or the last restart (R432). -/
  n : Nat := 0
  /-- Next output row since then. -/
  m : Nat := 0
  /-- The source row last taken since then, substituted rows apart (R435). -/
  last : Option SrcRow := none
  /-- Gaps that await the next source row. -/
  gaps : List OvsGap := []
  /-- A flush is under way: true for a restart, false for a stop (R436, R441). -/
  flush : Option Bool := none
  /-- The next output row is the first after a restart. -/
  restarted : Bool := false
  /-- Output rows since OVS.START. -/
  orow : Nat := 0
  /-- Output rows that wait, oldest first; at most 4. -/
  held : List OutRow := []
  deriving DecidableEq, Repr

/-- A retirement of a rank under way (Table 14-5). -/
structure Retire where
  /-- Rank. -/
  rank : Nat := 0
  /-- Passes of copy and compare begun. -/
  pass : Nat := 1
  /-- The copy of this pass has ended; the compare runs or waits for a channel. -/
  comparing : Bool := false
  /-- DMA channel that compares. -/
  dma : Option Nat := none
  /-- A DMC.RETIRE waits for its end. -/
  long : Bool := false
  deriving DecidableEq, Repr

/-- A DRAM channel beside its block. -/
structure DmcState where
  /-- The steps of Table 14-4 run. -/
  training : Bool := false
  /-- Retirement under way. -/
  cur : Option Retire := none
  /-- Retirement requests that wait: rank, and whether a DMC.RETIRE waits for them. -/
  queue : List (Nat × Bool) := []
  deriving DecidableEq, Repr

/-- An operation queued at a DMA channel (R462). -/
structure DmaOp where
  /-- OP: 1 LINEAR, 2 RECT, 3 GATHER, 4 FILL, 5 COMPARE, 6 FENCE. -/
  op : Nat := 1
  /-- Descriptor. -/
  words : List Word := []
  /-- Its address, where the results go. -/
  addr : Nat := 0
  /-- The operation completes with its descriptor (ARG[0] 1, and FENCE). -/
  long : Bool := false
  deriving DecidableEq, Repr

/-- A DMA channel beside its block. -/
structure DmaState where
  /-- Operations that wait, in order; at most 4. -/
  queue : List DmaOp := []
  /-- The descriptor or fence that runs. -/
  cur : Option DmaOp := none
  deriving DecidableEq, Repr

/-- HIF beside the registers of BAR0 (R472 to R493). -/
structure HifState where
  /-- Commands fetched since CEN was set: the position of the next (R482). -/
  pos : Nat := 0
  /-- Completion entries of commands that wait to be written, oldest first (R487). -/
  entries : List (List Word) := []
  /-- Completion entries written (R486). -/
  written : Nat := 0
  /-- CPROD as last written to host memory (R489). -/
  cprod : Nat := 0
  /-- Ledger entries copied to the host ring (R488). -/
  copied : Nat := 0
  /-- HLPROD as last written to host memory. -/
  hlprod : Nat := 0
  /-- GEN of the status mirror (R490). -/
  gen : Nat := 0
  /-- Bytes that the last BAR2 read returned; none when it ended with Completer Abort (R480). The model's own field. -/
  answer : Option (List Byte) := some []
  deriving DecidableEq, Repr

/-- What a HELLO has told of a Wyton Link port's neighbour (R495, R506). -/
structure Hello where
  /-- A HELLO has been received since the port's lanes locked. -/
  heard : Bool := false
  /-- The neighbour reaches HOLDER through this device. -/
  below : Bool := false
  /-- Its HOLDER. -/
  holder : Nat := 0
  /-- Round trips of the last 16 measurements, newest first (R500). -/
  delays : List Int := []
  deriving DecidableEq, Repr

/-- What a Wyton Link packet carries (R495, R500, R503, R506, R510 to R518, Table 16-1). -/
inductive WlkPkt where
  /-- HELLO: the sender's NODE, HOLDER and TERM, and the port through which it reaches HOLDER. -/
  | hello (node holder term : Nat) (via : Option Nat)
  /-- A delay measurement. -/
  | delay
  /-- SYNC: TERM, fabric epoch, the master's POS (nm), speed (nm/s) and acceleration (nm/s²) at ts, its WPVALID, COASTING and
  presented time at ts, and CORR. -/
  | sync (term epoch : Nat) (pos spd acc : Int) (valid coasting : Bool) (ptm corr : Nat)
  /-- Announcement of a cut. -/
  | announce (term epoch dir : Nat) (pcut : Int)
  /-- A subtree's reply to it. -/
  | reply (epoch : Nat) (ack : Bool) (minpos : Option Int)
  /-- Commit of a cut. -/
  | commit (term epoch : Nat)
  /-- Cancel of a cut. -/
  | cancel (term epoch : Nat)
  /-- A renewal of a TERM, with the raw tick at which the master sent it. -/
  | renewal (node term sent : Nat)
  /-- A voter's acknowledgement of it. -/
  | renewed (node term : Nat)
  /-- A candidate's request for a TERM. -/
  | ask (node term : Nat)
  /-- A voter's grant of it. -/
  | grant (node term : Nat)
  /-- A fabric snapshot at a presented time. -/
  | snapshot (term tsnap : Nat)
  /-- The exchange of a view row for the neighbour on one side. -/
  | edge (v : Nat) (right : Bool) (e : EdgeRow)
  /-- The boundary word of a view row for that neighbour. -/
  | boundary (v : Nat) (right : Bool) (n word : Nat)
  /-- A ledger record. -/
  | record (ws : List Word)
  /-- The collector's acknowledgement of the records of a node up to a DSEQ. -/
  | recorded (node dseq : Nat)
  /-- An entry of an overview stream. -/
  | bulk (k : Nat) (entry : List Byte)
  /-- A packet between other nodes. -/
  | through
  deriving DecidableEq, Repr

/-- A packet as it left a port: the node that it goes to (0 for the neighbour), its hop count and what it carries (R497). -/
structure WlkSent where
  /-- Destination. -/
  node : Nat := 0
  /-- Hop count. -/
  hops : Nat := 63
  /-- Contents. -/
  pkt : WlkPkt := .delay
  deriving DecidableEq, Repr

/-- A fabric cut that has been announced and not committed (R510 to R513). -/
structure FabCut where
  /-- Epoch. -/
  epoch : Nat := 0
  /-- Pcut. -/
  pos : Int := 0
  /-- DIR. -/
  dir : Nat := 0
  /-- The device is the cut master. -/
  master : Bool := false
  /-- Port towards the master. -/
  up : Nat := 0
  /-- Ports below whose replies are awaited. -/
  wait : List Nat := []
  /-- AND of the acknowledgements so far. -/
  ack : Bool := true
  /-- Furthest MINPOS reported. -/
  minpos : Option Int := none
  /-- The device has replied, or the master holds the whole tree's replies. -/
  replied : Bool := false
  /-- Announcements made (master). -/
  tries : Nat := 1
  deriving DecidableEq, Repr

/-- WLK beside its registers: neighbours, the fabric master lease and the cut in progress. -/
structure WlkState where
  /-- Neighbours, by port. -/
  ports : Tbl Hello := []
  /-- As voter: raw tick at which the present TERM was granted, none before the first grant. -/
  grantedAt : Option Nat := none
  /-- As voter: raw tick of the last renewal heard of that TERM. -/
  heardAt : Option Nat := none
  /-- As voter: highest TERM granted (R503). -/
  voteTerm : Nat := 0
  /-- Highest TERM seen in SYNC and CTRL packets (R503). -/
  seenTerm : Nat := 0
  /-- As candidate: the TERM asked for and the voters that have granted it. -/
  asked : Option (Nat × List Nat) := none
  /-- As master: raw ticks of renewals sent and the voters that have acknowledged each, newest first. -/
  renewals : List (Nat × List Nat) := []
  /-- As master: raw tick of the last renewal that a majority acknowledged, or of the grant. -/
  leased : Nat := 0
  /-- Raw tick of the last SYNC. -/
  lastSync : Nat := 0
  /-- PSTO has expired since the last SYNC (R508). -/
  lostSync : Bool := false
  /-- Epoch in the last SYNC (R514). -/
  syncEpoch : Nat := 0
  /-- The cut in progress. -/
  cut : Option FabCut := none
  deriving DecidableEq, Repr

/-- An Ethernet port beside its block (R522 to R524). -/
structure EthState where
  /-- Next receive descriptor. -/
  rx : Nat := 0
  /-- Next transmit descriptor. -/
  tx : Nat := 0
  /-- Receive descriptors that the poll has still to stamp class F. -/
  unpolled : List Nat := []
  /-- Presented time of the last poll. -/
  polled : Nat := 0
  deriving DecidableEq, Repr

/-- TNT beside its registers (R519 to R525). -/
structure TntState where
  /-- What the servo adds to INC, Q8.40 (R509). -/
  adj : Int := 0
  /-- Offset still to be absorbed at ANCHOR, ticks (R521). -/
  slew : Int := 0
  /-- The rate at which it is absorbed, ppm. -/
  ppm : Nat := 0
  /-- No SYNC has been used since TMODE became FABRIC (R509). -/
  firstSync : Bool := true
  /-- Last second k that PPS_OUT has fired (R525). -/
  fired : Option Int := none
  /-- PPS_OUT is high. -/
  ppsOut : Bool := false
  /-- Ethernet ports. -/
  eth : Tbl EthState := []
  deriving DecidableEq, Repr

/-- A planned rotation under way (R535). -/
structure Rotation where
  /-- Logical row processor. -/
  lrp : Nat := 0
  /-- Incoming unit. -/
  unit : Nat := 0
  deriving DecidableEq, Repr

/-- Failover, rotation, self-test and calibration beside their registers (R529 to R551). -/
structure DepState where
  /-- INIT runs that a unit in RESTORING has still to make: unit, assignment and code area, in order (R532, R535). -/
  restores : List (Nat × Nat × Nat) := []
  /-- Rotations under way. -/
  rotations : List Rotation := []
  /-- Units that a request names for rotation and trim calibration (R544, Table 17-3). -/
  named : List Nat := []
  /-- Units that have had a trim calibration since reset (R549). -/
  trimmed : List Nat := []
  /-- Units in TESTING for CAL target 2. -/
  runs : List Nat := []
  /-- Targets that each CAL.RUN under way still awaits, oldest first (R550). -/
  requests : List (List Nat) := []
  /-- A self-test, trim calibration or rotation waits for a banked unit (R530). -/
  reserve : Bool := false
  /-- Units in REPAIR whose retry of the self-test is not due yet (R547). -/
  retryWait : List Nat := []
  /-- Presented time of the last planned rotation (R550). -/
  rotated : Nat := 0
  deriving DecidableEq, Repr

/-- Power, resets and Kindling beside the registers of PBA and SLC (R558 to R576). -/
structure PowerState where
  /-- The device is in Ember: VCORE is off. -/
  ember : Bool := false
  /-- VCORE_EN. -/
  vcoreEn : Bool := true
  /-- Ember exit is under way, from the wake to step 4 of Table 18-4. -/
  leaving : Bool := false
  /-- KCOPYOK was 1 when Ember was entered. -/
  hadCopy : Bool := false
  /-- The reset of R563 is held until Tj has been low enough. -/
  hot : Bool := false
  /-- A tamper condition lasts (R575). -/
  tamper : Bool := false
  /-- What KERR reads once that condition has ended. -/
  kerr : Nat := 0
  /-- Rails below warning: presented time and raw tick at which the dip began. -/
  dips : Tbl (Option (Nat × Nat)) := []
  /-- STATE RECOVERING (Table 18-3). -/
  recovering : Bool := false
  /-- Exponent N that VOUT_MODE reported (R601). -/
  voutN : Option Int := none
  /-- The last regulator transaction failed (R559). -/
  vregBad : Bool := false
  /-- VERSION of the running image (R573). -/
  version : Nat := 0
  /-- LOAD of the running image. -/
  load : Nat := 0
  /-- LENGTH of the running image. -/
  length : Nat := 0
  /-- ENTRY of the running image. -/
  entry : Nat := 0
  deriving DecidableEq, Repr

/-- The event router beside its registers (R578 to R593). -/
structure EvrState where
  /-- Tokens delivered to task inputs and not yet met: input and hop count. -/
  arrivals : List (Nat × Nat) := []
  /-- Highest hop count among the tokens of a task input's queued activation. -/
  hops : Tbl Nat := []
  deriving DecidableEq, Repr

/-- What a transaction on TW1 or TW2 is (R599, R601). -/
inductive TwKind where
  /-- TWP.XFER with its payload address and words. -/
  | xfer (addr : Nat) (words : List Word)
  /-- VOUT_MODE of the regulator. -/
  | voutMode
  /-- VOUT_COMMAND of the regulator: the core voltage commanded, mV. -/
  | voutCommand (mv : Nat)
  deriving DecidableEq, Repr

/-- A two-wire port beside its block. -/
structure TwState where
  /-- Transactions of a controller port in order: the first is under way, the others wait. -/
  queue : List TwKind := []
  /-- Arbitration losses of the one under way. -/
  losses : Nat := 0
  /-- It has lost arbitration and waits for the bus (R597). -/
  lost : Bool := false
  /-- Pointer of a target port (R602). -/
  ptr : Nat := 0
  /-- A target port stretches SCL (R604). -/
  stretch : Bool := false
  /-- TW3 does not acknowledge its next transaction (R605). -/
  mute : Bool := false
  /-- Controller ports: the bytes after its address that the last transaction to end had to write, without PEC (R599, R601). -/
  wrote : List Byte := []
  deriving DecidableEq, Repr

/-- What a snapshot has captured at Tsnap (R272). -/
structure Captured where
  /-- Raw tick. -/
  raw : Nat := 0
  /-- Presented time. -/
  pt : Nat := 0
  /-- Epoch current at TES. -/
  epoch : Nat := 0
  /-- The words of the counters, by device address. -/
  counts : Tbl Word := []
  deriving DecidableEq, Repr

/-- A snapshot in progress: what it waits for, and what it has captured (R272, R518). -/
structure Snap where
  /-- Presented time Tsnap of a fabric snapshot; none, the next raw tick. -/
  at_ : Option Nat := none
  /-- What it has captured, once Tsnap is reached. -/
  got : Option Captured := none
  deriving DecidableEq, Repr

/-- A sample that is to be written (Table 7-13). -/
structure Sample where
  /-- IADDR. -/
  iaddr : Nat := 0
  /-- IWORD. -/
  iword : Word := 0
  /-- Word 2: the run. -/
  run : Word := 0
  /-- Raw tick of its completion. -/
  raw : Nat := 0
  deriving DecidableEq, Repr

/-- A sampler (R273). -/
structure Sampler where
  /-- Instructions retired since the last sample. -/
  count : Nat := 0
  /-- The sample that waits to be written. -/
  pend : Option Sample := none
  /-- Samples dropped since while it waits, which SDROP counts with it (log entry 149). -/
  drops : Nat := 0
  deriving DecidableEq, Repr

/-- The state of the device. -/
structure State where
  /-- Commands that wait, first in, first out (the interface of a block). -/
  pending : List Instr := []
  /-- Register words by device address; an unlisted word reads as its reset value (Machine/Regs.lean). -/
  regs : Tbl Word := []
  /-- Stored bytes by device address: shared banks, strip memories, secure bank, DRAM, host memory. -/
  mem : List Host.Cell := []
  /-- Device addresses of the 8-byte words of shared banks and the 64-byte bursts of DRAM that are poisoned (R458, Table 17-3). -/
  poison : List Nat := []
  /-- The model's own field: free values taken so far (log entry 3). -/
  free : Nat := 0
  /-- Processors (R230). -/
  procs : Tbl Proc := []
  /-- Sequencer cores (R258 to R268). -/
  seq : SeqState := {}
  /-- CTRL packets inserted and not yet at their stage (R32). -/
  transit : List Held := []
  /-- CTRL packets held at a stage until their apply-at point (R31). -/
  held : List Held := []
  /-- What each stage has processed of each stream; key 64·(64·stage + sub) + stream, plus 32 in a view's stream. -/
  progress : Tbl Progress := []
  /-- GAP packets on their way (R58). -/
  gaps : List GapPkt := []
  /-- The Sump (R51). -/
  sump : Sump := {}
  /-- Packets of a reserved KIND that each unit has discarded, by unit code (R23). -/
  malformed : Tbl Nat := []
  /-- Tokens in channels (R580). -/
  tokens : List Token := []
  /-- Row processor array beside its registers. -/
  rpa : RpaState := {}
  /-- The Damper's account. -/
  damper : Damper := {}
  /-- Lanes beside their registers. -/
  lanes : Tbl Lane := []
  /-- Consecutive good windows of each lane group's reference monitor (R74). -/
  goodWin : Tbl Nat := []
  /-- Heads that have a bonding (R149). -/
  bonded : Tbl Bool := []
  /-- Heads beside their blocks. -/
  heads : Tbl HeadState := []
  /-- Cuts whose epochs are in flight, oldest first (R36). -/
  cuts : List CutRec := []
  /-- CUT packets on their way to a stage (R38). -/
  cutPkts : List CutPkt := []
  /-- Encoder channels beside their registers. -/
  enc : Tbl EncState := []
  /-- SSI ports beside their registers. -/
  ssi : Tbl SsiState := []
  /-- Probe FIFOs, oldest record first (R192). -/
  probes : Tbl (List ProbeRec) := []
  /-- Divided outputs beside their registers. -/
  divs : Tbl DivState := []
  /-- Raw tick of the last token of each PFU source (R200). -/
  pfuTick : Tbl (Option Nat) := []
  /-- Web position beside its block. -/
  web : WebState := {}
  /-- Pending marks (R223). -/
  marks : List Mark := []
  /-- MARK outputs (R225). -/
  markPins : Tbl Bool := []
  /-- TES heads beside their registers. -/
  tes : Tbl TesState := []
  /-- Views beside their blocks. -/
  views : Tbl ViewState := []
  /-- The row store, oldest first (R43). -/
  store : List StoreItem := []
  /-- Strips of head rows of which a head-domain row is to be written, per head (R427). -/
  strips : Tbl (List Strip) := []
  /-- The last 256 (LSEQ, STRIP) that SST has committed, per head, newest first (R45). -/
  commits : Tbl (List (Nat × Nat)) := []
  /-- Regions, records and models. -/
  recs : RecState := {}
  /-- The ledger beside its registers. -/
  dlg : DlgState := {}
  /-- History and compression (R413 to R426). -/
  his : HisState := {}
  /-- Overview streams beside their blocks. -/
  ovs : Tbl OvsState := []
  /-- DRAM channels beside their blocks. -/
  dmc : Tbl DmcState := []
  /-- DMA channels beside their blocks. -/
  dma : Tbl DmaState := []
  /-- The host interface beside its registers. -/
  hif : HifState := {}
  /-- WLK beside its registers. -/
  wlk : WlkState := {}
  /-- The packet that each Wyton Link port has sent last. -/
  sent : Tbl (Option WlkSent) := []
  /-- TNT beside its registers. -/
  tnt : TntState := {}
  /-- Dependability and calibration beside their registers. -/
  dep : DepState := {}
  /-- Power, resets and Kindling beside their registers. -/
  power : PowerState := {}
  /-- The event router beside its registers. -/
  evr : EvrState := {}
  /-- Two-wire ports beside their blocks. -/
  tw : Tbl TwState := []
  /-- A snapshot in progress (R272). -/
  snap : Option Snap := none
  /-- Samplers beside their registers (R273). -/
  sampled : Tbl Sampler := []
  deriving DecidableEq, Repr

/-- The machine right after power-on reset: every register word at its reset value (no entry in `regs`), memory with
nothing listed, empty queues, and the fields that the specification gives no reset value at the values of the
assumption log. -/
def State.reset : State := {}

end Sys2Proof.Machine
end

