-- ==== Sys2Proof/Machine/Table.lean ====
section
/-!
DEFINITION. Reading and writing sparse tables. `d` says what an unlisted key reads as.
-/
namespace Sys2Proof.Machine

/-- What key `k` reads as. -/
def Tbl.get {α : Type} (d : Nat → α) : Tbl α → Nat → α
  | [], k => d k
  | (a, v) :: m, k => if a = k then v else Tbl.get d m k

/-- Put an entry in its sorted place, in place of the one that stands there. -/
def Tbl.ins {α : Type} : Tbl α → Nat → α → Tbl α
  | [], k, v => [(k, v)]
  | (a, w) :: m, k, v =>
    if a = k then (k, v) :: m else if k < a then (k, v) :: (a, w) :: m else (a, w) :: Tbl.ins m k v

/-- Drop every entry of key `k`. -/
def Tbl.erase {α : Type} : Tbl α → Nat → Tbl α
  | [], _ => []
  | (a, w) :: m, k => if a = k then Tbl.erase m k else (a, w) :: Tbl.erase m k

/-- Write key `k`: writing what an unlisted key reads as removes the entry. -/
def Tbl.set {α : Type} [DecidableEq α] (d : Nat → α) (m : Tbl α) (k : Nat) (v : α) : Tbl α :=
  if v = d k then Tbl.erase m k else Tbl.ins m k v

/-- Keep the entries of a table whose keys a test selects. -/
def Tbl.keep {α : Type} (q : Nat → Bool) (t : Tbl α) : Tbl α := t.filter fun e => q e.1

/-- The canonical form: keys strictly rising from `lo`, no entry equal to its default. -/
def Tbl.wfFrom {α : Type} [DecidableEq α] (d : Nat → α) : Nat → Tbl α → Bool
  | _, [] => true
  | lo, (a, v) :: m => decide (lo ≤ a) && decide (v ≠ d a) && Tbl.wfFrom d (a + 1) m

/-- The canonical form of a table. -/
def Tbl.wf {α : Type} [DecidableEq α] (d : Nat → α) (m : Tbl α) : Bool := Tbl.wfFrom d 0 m

end Sys2Proof.Machine
end

