-- ==== Sys2Proof/Machine/Ops.lean ====
section
/-!
DEFINITION. The named operations over registers, memory, tokens, counters, the Sump and presented time that every
unit's meanings share.
-/
namespace Sys2Proof.Machine

/-! ### Outcomes -/

/-- The outcome type of every meaning. -/
abbrev Out := Host.Outcome State Fault Refusal

/-- Continue with a state. -/
abbrev ok (s : State) : Out := .next s

/-- A command that names an instance below `n`; otherwise nothing can send it (`Fault.noInstance`). -/
def within (i n : Nat) (o : Out) : Out := if i < n then o else .fault .noInstance

/-! ### Registers -/

/-- A register word (an unlisted word reads as its reset value). -/
def State.word (s : State) (a : Nat) : Word := Tbl.get resetWord s.regs a

/-- Replace a register word. -/
def State.setWord (s : State) (a : Nat) (x : Word) : State := { s with regs := Tbl.set resetWord s.regs a x }

/-- A field of a two-index block. -/
def State.rd2 (s : State) (f : Field) (i j : Nat) : Nat := f.get j (s.word (f.word i j))

/-- Write a field of a two-index block; a value too wide keeps its low bits, and an instance that the device does not
have is not written. -/
def State.wr2 (s : State) (f : Field) (i j v : Nat) : State :=
  if f.has i j then s.setWord (f.word i j) (f.put j (s.word (f.word i j)) v) else s

/-- Replace the word that holds a field instance; one that the device does not have is not written. -/
def State.putWord (s : State) (f : Field) (i j : Nat) (x : Word) : State := if f.has i j then s.setWord (f.word i j) x else s

/-- A field of instance i. -/
def State.rd (s : State) (f : Field) (i : Nat) : Nat := s.rd2 f i 0

/-- Write a field of instance i. -/
def State.wr (s : State) (f : Field) (i v : Nat) : State := s.wr2 f i 0 v

/-- A one-bit field as a truth value. -/
def State.on (s : State) (f : Field) (i : Nat) : Bool := s.rd f i != 0

/-- A signed field. -/
def State.rdI (s : State) (f : Field) (i : Nat) : Int := signed f.width (s.rd f i)

/-- A signed field of a two-index block. -/
def State.rdI2 (s : State) (f : Field) (i j : Nat) : Int := signed f.width (s.rd2 f i j)

/-- Write a signed field (two's complement, low bits). -/
def State.wrI (s : State) (f : Field) (i : Nat) (v : Int) : State := s.wr f i (low f.width v)

/-- Add to a saturating counter. -/
def State.sat (s : State) (f : Field) (i n : Nat) : State := s.wr f i (min (s.rd f i + n) (2 ^ f.width - 1))

/-- Add to a saturating counter of a two-index block. -/
def State.sat2 (s : State) (f : Field) (i j n : Nat) : State :=
  s.wr2 f i j (min (s.rd2 f i j + n) (2 ^ f.width - 1))

/-- Add to a wrapping counter. -/
def State.wrap (s : State) (f : Field) (i n : Nat) : State := s.wr f i (s.rd f i + n)

/-- Subtract from a count held in a register, not below 0. -/
def State.dec (s : State) (f : Field) (i n : Nat) : State := s.wr f i (s.rd f i - n)

/-- Write one value into instance i of each field of a list. -/
def State.wrAll (s : State) (i : Nat) : List (Field × Nat) → State
  | [] => s
  | (f, v) :: fs => (s.wr f i v).wrAll i fs

/-- Clear instance i of each field of a list. -/
def State.clr (s : State) (i : Nat) : List Field → State
  | [] => s
  | f :: fs => (s.wr f i 0).clr i fs

/-- Clear every second-index element of a field in instance i. -/
def State.clrRow (s : State) (f : Field) (i : Nat) : Nat → State
  | 0 => s
  | n + 1 => (s.wr2 f i n 0).clrRow f i n

/-! ### Time (R519, R520) -/

/-- The raw counter. -/
def State.raw (s : State) : Nat := s.rd Reg.Tnt.RAW 0

/-- Raw ticks from ANCHOR to raw tick t. -/
def State.sinceAnchor (s : State) (t : Nat) : Nat := (t + 2 ^ 64 - s.rd Reg.Tnt.ANCHOR 0) % 2 ^ 64

/-- The part of an offset that has been absorbed at raw tick t, at its rate in ppm of INC (R521). -/
def State.absorbed (s : State) (t : Nat) : Int :=
  let m : Int := (s.sinceAnchor t * s.rd Reg.Tnt.INC 0 * s.tnt.ppm / (1000000 * (16 * 2 ^ 40)) : Nat)
  if 0 ≤ s.tnt.slew then min s.tnt.slew m else max s.tnt.slew (-m)

/-- Presented time at raw tick t: BASE + (RAW − ANCHOR) × INC ÷ 16, INC in Q8.40 with the servo's part, and what has been
absorbed of an offset (R509, R520, R521). -/
def State.ptAtTick (s : State) (t : Nat) : Nat :=
  (((s.rd Reg.Tnt.BASE 0 : Int) + (s.sinceAnchor t : Int) * ((s.rd Reg.Tnt.INC 0 : Int) + s.tnt.adj) / (16 * 2 ^ 40 : Nat) +
    s.absorbed t) % (2 ^ 64 : Nat)).toNat

/-- Presented time now. -/
def State.pt (s : State) : Nat := s.ptAtTick s.raw

/-! ### Performance counters (R270, R271) -/

/-- Whether counter n counts event `evt` of instance `inst` of unit `unit`. -/
def pmuMatches (s : State) (unit inst evt n : Nat) : Bool :=
  s.on Reg.Pmu.EN n && s.rd Reg.Pmu.UNIT n == unit && s.rd Reg.Pmu.EVT n == evt &&
    (s.rd Reg.Pmu.INST n == 0xFF || s.rd Reg.Pmu.INST n == inst % 256) &&
    !(n % 2 == 1 && s.on Reg.Pmu.CHAIN n)

/-- Add k to counter n; wraps of an even counter go to a chained odd one above it. -/
def pmuAdd (s : State) (n k : Nat) : State :=
  let t := s.rd Reg.Pmu.COUNT n + k
  let s := s.wr Reg.Pmu.COUNT n t
  if n % 2 = 0 && s.on Reg.Pmu.EN (n + 1) && s.on Reg.Pmu.CHAIN (n + 1) then
    s.wrap Reg.Pmu.COUNT (n + 1) (t / 2 ^ 48)
  else s

/-- Count an event in each counter of a list of configuration words that selects it. -/
def pmuGo (unit inst evt k : Nat) : List Nat → State → State
  | [], s => s
  | n :: ns, s => pmuGo unit inst evt k ns (if pmuMatches s unit inst evt n then pmuAdd s n k else s)

/-- The counters whose configuration word is not at its reset value. -/
def pmuSet (s : State) : List Nat :=
  (s.regs.filter fun e => decide (0x20172000 ≤ e.1 ∧ e.1 < 0x20174000)).map fun e => (e.1 - 0x20172000) / 8

/-- Count `k` occurrences of event `evt` of instance `inst` of `unit` (R270). -/
def State.evt (s : State) (unit inst evt : Nat) (k : Nat := 1) : State := pmuGo unit inst evt k (pmuSet s) s

/-! ### Tokens (R578, R580, R585) -/

/-- Channels that a source feeds: enabled, with that source selected. -/
def chansOf (s : State) (src : Nat) : List Nat :=
  (List.range 128).filter fun c => s.on Reg.EvrChan.EN c && s.rd Reg.EvrChan.SRC c == src

/-- A source emits a token: one enters each enabled channel whose multiplexer selects the source. -/
def State.emit (s : State) (src : Nat) (hop : Nat := 0) : State :=
  { s with tokens := s.tokens ++ (chansOf s src).map fun c => { chan := c, src := src, hop := hop } }

/-- Software fires a channel (R585); a disabled channel discards the token (R580). -/
def State.fire (s : State) (c hop : Nat) : State :=
  if s.on Reg.EvrChan.EN c then { s with tokens := s.tokens ++ [{ chan := c, src := 512, hop := hop }] } else s

/-! ### Free values -/

/-- Take a fresh free value (log entry 3). -/
def State.fresh (s : State) : Vec × State := (Config.freeVec s.free, { s with free := s.free + 1 })

/-! ### Running heads -/

/-- A head runs (R150). -/
def State.running (s : State) (h : Nat) : Bool := s.on Reg.Head.RUNNING h

/-- The heads that run, in increasing order. -/
def runningHeads (s : State) : List Nat := (List.range 32).filter s.running

/-- A view is open (R342). -/
def State.viewOpen (s : State) (v : Nat) : Bool := s.on Reg.View.OPEN v

/-- The open views, in increasing order. -/
def openViews (s : State) : List Nat := (List.range 16).filter s.viewOpen

/-! ### Live views and gate levels (R568, R581) -/

/-- The member heads of a view. -/
def membersOf (s : State) (v : Nat) : List Nat := (List.range (min 32 (s.rd Reg.View.NMEM v))).map fun k => s.rd2 Reg.View.MEMBERS v k

/-- Logical row processor l is halted or unbound. -/
def lrpDown (s : State) (l : Nat) : Bool := s.on Reg.Lrp.HALTED l || (s.rd Reg.RpaDep.UNBOUND 0).testBit l

/-- A strip of head h is assigned to a logical row processor that is halted or unbound. -/
def headDown (s : State) (h : Nat) : Bool :=
  s.rpa.assigns.any fun e => decide (1 + 256 * h ≤ e.2 ∧ e.2 < 257 + 256 * h) && lrpDown s (e.1 / 256)

/-- A view is live (R568). -/
def State.viewLive (s : State) (v : Nat) : Bool :=
  s.viewOpen v && !s.dlg.gapSrcs.contains (0x20 + v) &&
    (membersOf s v).all fun h => !s.on Reg.TesHead.NOPOS h && s.rd Reg.Head.LANEDOWN h == 0 && !headDown s h && !s.dlg.gapSrcs.contains h

/-- The live views as a mask (LIVEVIEWS). -/
def liveViews (s : State) : Nat := ((openViews s).map fun v => if s.viewLive v then 2 ^ v else 0).sum

/-- The device is running: its control program runs and it is not in Ember (R567). -/
def State.up (s : State) : Bool := s.rd Reg.Slc.KPHASE 0 == 5 && !s.power.ember

/-- The level that INSP_OK is driven to (R568). -/
def State.inspOk (s : State) : Bool :=
  let l := liveViews s
  s.up && l != 0 && (s.rd Reg.Pba.INSPREQ 0 &&& l) == s.rd Reg.Pba.INSPREQ 0

/-- Gate level k (Table 19-2). In Ember the levels of units that are off read 0 (R581). -/
def gateLevel (s : State) (k : Nat) : Bool :=
  if k = 0 then true
  else if k ≤ 16 then s.on Reg.Evio.LEVEL (k - 1)
  else if k ≤ 48 then !s.power.ember && s.running (k - 17)
  else if k = 49 then s.on Reg.WebPos.WPVALID 0
  else if k = 50 then s.inspOk
  else if k = 51 then s.rd Reg.Pba.SUPWARNR 0 != 0
  else if k = 52 then s.on Reg.Pba.POWER_HELD 0
  else if k ≤ 60 then (s.rd Reg.EvrGlobal.GSW 0).testBit (k - 53)
  else false

/-- The gate levels as a word (GLEVEL). -/
def gateLevels (s : State) : Nat := ((List.range 64).map fun k => if gateLevel s k then 2 ^ k else 0).sum

/-! ### Memory -/

/-- A stored byte. Memory that nothing has written reads 0 (log entry 2). -/
def State.byte (s : State) (a : Nat) : Byte := Tbl.get (fun _ => 0) s.mem a

/-- Store one byte. -/
def State.setByte (s : State) (a : Nat) (b : Byte) : State := { s with mem := Tbl.set (fun _ => 0) s.mem a b }

/-- Store bytes at rising addresses. -/
def State.setBytes (s : State) (a : Nat) : List Byte → State
  | [] => s
  | b :: bs => (s.setByte a b).setBytes (a + 1) bs

/-- Zero the n bytes from an address, which then read as memory that nothing has written. -/
def State.zeroBytes (s : State) (a n : Nat) : State := { s with mem := Tbl.keep (fun k => !decide (a ≤ k ∧ k < a + n)) s.mem }

/-- Start of DRAM in device addresses. -/
def dramBase : Nat := 0x10000000000

/-- Start of host memory in device addresses. -/
def hostBase : Nat := 0x800000000000

/-- Bytes that are poisoned together: a word of a shared bank, a burst of DRAM (R458, Table 17-3). -/
def poisonSize (p : Nat) : Nat := if p < dramBase then 8 else 64

/-- A byte of the extent lies in a poisoned word or burst (R458, Table 17-3). -/
def State.poisoned (s : State) (a n : Nat) : Bool :=
  s.poison.any fun p => decide (p < a + n ∧ a < p + poisonSize p)

/-- The words and bursts of an extent lose their poison as they are written whole; the others keep it (R458, Table 17-3). -/
def unpoison (a n : Nat) (s : State) : State :=
  { s with poison := s.poison.filter fun p => !decide (a ≤ p ∧ p + poisonSize p ≤ a + n) }

/-- Write bytes whole: what they cover entirely loses its poison. -/
def State.fill (s : State) (a : Nat) (bs : List Byte) : State := (unpoison a bs.length s).setBytes a bs

/-- The canonical form of memory. -/
def Memory.wf (m : List Host.Cell) : Bool := Tbl.wf (fun _ => 0) m

/-- Start of the UCB region (Table 7-4). -/
def ucbBase : Nat := 0x20000000

/-- The four words of a Sump span entry (Table 1-10). -/
def Span.word (e : Span) (k : Nat) : Word :=
  match k with
  | 0 => fld (b2n e.valid) 1 63 ||| fld e.src 7 56 ||| fld e.skind 8 48 ||| fld e.rows 24 24
  | 1 => fld e.lseqFirst 40 0
  | 2 => BitVec.ofInt 64 e.yFirst
  | _ => BitVec.ofInt 64 e.yLast

/-- Entry n of the Sump table. -/
def State.span (s : State) (n : Nat) : Span := Tbl.get (fun _ => {}) s.sump.spans n

/-- Replace entry n of the Sump table. -/
def State.setSpan (s : State) (n : Nat) (e : Span) : State :=
  { s with sump := { s.sump with spans := Tbl.set (fun _ => {}) s.sump.spans n e } }

/-- The register or Sump word that a read of a device address sees: unit control blocks (reserved UNITs read 0, R19),
among them OFFSLEW (R521) and GLEVEL (Table 19-5), which follow the machine, and the Sump table (R51). -/
def State.ioWord (s : State) (a : Nat) : Word :=
  if 0x20190000 ≤ a then
    if 0x21000000 ≤ a ∧ a < 0x21020000 then (s.span ((a - 0x21000000) / 32)).word ((a - 0x21000000) / 8 % 4) else 0
  else if a = 0x20120028 then BitVec.ofInt 64 (s.tnt.slew - s.absorbed s.raw)
  else if a = 0x20132808 then BitVec.ofNat 64 (gateLevels s)
  else s.word a

/-- What a read of one byte of a device address returns, whatever the reader. -/
def State.readByte (s : State) (a : Nat) : Byte :=
  if (0x20000000 ≤ a ∧ a < 0x20400000) ∨ (0x21000000 ≤ a ∧ a < 0x21020000) then
    (s.ioWord (a / 8 * 8) >>> (8 * (a % 8))).setWidth 8
  else if 0x40000000 ≤ a ∧ a < 0x40100000 then Config.romByte a
  else s.byte a

/-- The n bytes from a device address. -/
def State.readBytes (s : State) (a n : Nat) : List Byte := (List.range n).map fun k => s.readByte (a + k)

/-- The 64-bit word at a device address. -/
def State.read64 (s : State) (a : Nat) : Word := BitVec.ofNat 64 (bytesNat (s.readBytes a 8))

/-- Store a 64-bit word. -/
def State.write64 (s : State) (a : Nat) (x : Word) : State := s.fill a (wordBytes 8 x)

/-- Store 64-bit words at rising addresses. -/
def State.writeWords (s : State) (a : Nat) : List Word → State
  | [] => s
  | x :: xs => (s.write64 a x).writeWords (a + 8) xs

/-- The n words from a device address. -/
def State.readWords (s : State) (a n : Nat) : List Word := (List.range n).map fun k => s.read64 (a + 8 * k)

/-- Shared bank n is ON (R448). -/
def State.bankOn (s : State) (n : Nat) : Bool := s.rd Reg.Mem.PSTATE n == 0

/-- An extent lies in shared banks that are ON. -/
def State.inBanksOn (s : State) (a n : Nat) : Bool :=
  decide (a + n ≤ 0x8000000) && ((List.range ((a + n - 1) / 0x80000 + 1 - a / 0x80000)).all fun k => s.bankOn (a / 0x80000 + k))

/-- Channels that are READY, or in service while a rank migrates or lacks a spare (Table 14-6). -/
def State.channelUp (s : State) (c : Nat) : Bool :=
  let t := s.rd Reg.Dmc.CHSTATE c
  t == 2 || t == 4 || t == 5

/-- Populated channels: those whose DIMMS is not 0 (R454). -/
def populated (s : State) : Nat := (List.range 8).countP fun c => s.on Reg.Dmc.DIMMS c

/-- Channels that the XOR map expects: one for no channel mask, doubled by each non-zero mask (R454). -/
def mapChannels (s : State) : Nat := 2 ^ ((List.range 3).countP fun k => s.rd2 Reg.DmcGlobal.CHX 0 k != 0)

/-- Bytes of one channel: its ranks less a held spare, each of two 32-bit subchannels of devices of the density named
(R453, R459, Example 14-1). -/
def channelBytes (s : State) (c : Nat) : Nat :=
  let ranks := s.rd Reg.Dmc.RANKS c - b2n (s.on Reg.Dmc.SPAREEN c)
  let devs := if s.on Reg.Dmc.DEVW c then 4 else 8
  let gbit := match s.rd Reg.Dmc.DENS c with | 0 => 16 | 1 => 24 | _ => 32
  2 * (ranks * devs * gbit * 2 ^ 27)

/-- Bytes of the DRAM that the channels in service hold together. -/
def dramBytes (s : State) : Nat := ((List.range 8).map fun c => if s.channelUp c then channelBytes s c else 0).sum

/-- DRAM is accessible: the READY channels are those that the map expects (R454, R455). -/
def State.dramUp (s : State) : Bool := ((List.range 8).countP s.channelUp) == mapChannels s

/-- An extent lies in DRAM: within the capacity of the channels in service. -/
def State.hasDram (s : State) (a n : Nat) : Bool := decide (dramBase ≤ a ∧ a + n ≤ dramBase + dramBytes s)

/-- An extent lies in DRAM that can be reached. -/
def State.inDram (s : State) (a n : Nat) : Bool := s.hasDram a n && s.dramUp

/-- An engine of the device can write the extent: shared banks that are ON, DRAM that is up, host memory. -/
def State.canPut (s : State) (a n : Nat) : Bool := s.inBanksOn a n || s.inDram a n || decide (hostBase ≤ a ∧ a + n ≤ 2 ^ 48)

/-- Parity of an offset under a mask (R454). -/
def maskParity (off m : Nat) : Nat := (popcount (BitVec.ofNat 64 (off &&& m))) % 2

/-- The channel-select masks in use. -/
def channelMasks (s : State) : List Nat := ((List.range 3).map fun k => s.rd2 Reg.DmcGlobal.CHX 0 k).filter (· != 0)

/-- The bank-group and bank masks in use. -/
def bankMasks (s : State) : List Nat :=
  (((List.range 3).map fun k => s.rd2 Reg.DmcGlobal.BG 0 k) ++ (List.range 2).map fun k => s.rd2 Reg.DmcGlobal.BA 0 k).filter (· != 0)

/-- The channel that holds a DRAM offset: the select bits count the channels in service, in order (R454). -/
def channelAt (s : State) (off : Nat) : Nat :=
  let k := (((channelMasks s).zipIdx.map fun m => maskParity off m.1 * 2 ^ m.2).sum)
  ((List.range 8).filter s.channelUp).getD k 0

/-- Count the bursts of a read (DMC event 0x40) or write (0x41), or the requests of a read of host memory (HIF event
0x41) or posted writes (0x40), one per 256 bytes (Table 8-11; log entry 35). -/
def State.traffic (s : State) (write : Bool) (a n : Nat) : State :=
  if hostBase ≤ a then s.evt 0x10 0 (if write then 0x40 else 0x41) (cdiv n 256)
  else if dramBase ≤ a then
    if (pmuSet s).isEmpty then s
    else (List.range ((a + n - 1) / 64 + 1 - a / 64)).foldl (fun s k =>
      s.evt 0xD (channelAt s ((a / 64 + k) * 64 - dramBase)) (if write then 0x41 else 0x40)) s
  else s

/-- An engine writes bytes; an extent that it cannot write loses them (log entry 23). -/
def State.put (s : State) (a : Nat) (bs : List Byte) : State :=
  if s.canPut a bs.length then (s.fill a bs).traffic true a bs.length else s

/-- Bytes of words at rising addresses. -/
def wordsBytes (ws : List Word) : List Byte := ws.flatMap (wordBytes 8)

/-! ### The Sump (R48 to R57) -/

/-- The four words of a Sump note (R48). -/
def SumpNote.words (m : SumpNote) : List Word :=
  let t := m.tag
  [fld t.kind 4 60 ||| fld t.head 5 55 ||| fld t.xset 8 47 ||| fld t.epoch 7 40 ||| fld t.lseq 40 0,
   BitVec.ofInt 64 t.pos, BitVec.ofNat 64 t.time, fld t.flags 16 48 ||| fld t.strip 8 40 ||| fld m.skind 8 32 ||| fld m.src 7 24]

/-- The fields of TAG0 and TAG1 of Tables 1-3 and R24. -/
def Tag.ofWords (a b : Word) : Tag :=
  { kind := bits a 63 60, head := bits a 59 55, xset := bits a 54 47, epoch := bits a 46 40, lseq := bits a 39 0, pos := b.toInt }

/-- The note that four words spell (R48). -/
def SumpNote.ofWords (a b c d : Word) : SumpNote :=
  { tag := { Tag.ofWords a b with time := c.toNat, flags := bits d 63 48, strip := bits d 47 40 }, skind := bits d 39 32,
    src := bits d 30 24 }

/-- A KIND that Table 1-4 reserves. -/
def kindReserved (k : Nat) : Bool := k == 0 || decide (7 ≤ k ∧ k ≤ 14)

/-- A unit discards a packet of a reserved KIND and counts it (R23). -/
def State.discard (s : State) (unit : Nat) : State :=
  { s with malformed := Tbl.set (fun _ => 0) s.malformed unit (Tbl.get (fun _ => 0) s.malformed unit + 1) }

/-- Whether a note merges into an entry (R52). -/
def Span.takes (s : State) (e : Span) (src skind lseq : Nat) (pos : Int) (n : Nat) : Bool :=
  e.valid && e.src == src && e.skind == skind && decide (e.rows < 16777215) &&
    (if src < 0x30 then lseq == e.lseqFirst + e.rows - 1 || lseq == e.lseqFirst + e.rows
     else decide ((pos - e.yLast).natAbs ≤ s.sump.mergeNm ∧ e.rows + n ≤ 16777215))

/-- The lowest entry that a note merges into. -/
def mergeSlot (s : State) (src skind lseq : Nat) (pos : Int) (n : Nat) : Option Nat :=
  (s.sump.spans.find? fun e => Span.takes s (s.span e.1) src skind lseq pos n).map (·.1)

/-- The lowest free entry. -/
def freeSlot (s : State) : Option Nat :=
  let used := (s.sump.spans.filter fun e => e.2.valid).map (·.1)
  if used.length < 4096 then (List.range (used.length + 1)).find? fun k => !used.contains k else none

/-- The valid entry allocated earliest (R53). -/
def oldestSlot (s : State) : Nat :=
  (s.sump.spans.foldl (fun (b : Nat × Nat) e => if e.2.valid && decide (e.2.ord < b.2) then (e.1, e.2.ord) else b)
    (0, s.sump.allocs)).1

/-- Add an evicted span to the totaliser of its SKIND (R53, R54). -/
def totalise (s : State) (e : Span) : State :=
  let k := e.skind
  let lo := min e.yFirst e.yLast
  let hi := max e.yFirst e.yLast
  let none0 := s.rd2 Reg.Ledger.TSPANS 0 k == 0
  let lo' := if none0 then lo else min lo (s.rdI2 Reg.Ledger.TYMIN 0 k)
  let hi' := if none0 then hi else max hi (s.rdI2 Reg.Ledger.TYMAX 0 k)
  let s := s.wr2 Reg.Ledger.TROWS 0 k (s.rd2 Reg.Ledger.TROWS 0 k + e.rows)
  let s := s.wr2 Reg.Ledger.TSPANS 0 k (s.rd2 Reg.Ledger.TSPANS 0 k + 1)
  let s := s.wr2 Reg.Ledger.TYMIN 0 k (low 64 lo')
  s.wr2 Reg.Ledger.TYMAX 0 k (low 64 hi')

/-- The spans take a note for n rows: it merges (R52), or takes a free entry, or evicts the oldest (R53). -/
def State.merge (s : State) (src skind lseq : Nat) (pos : Int) (n : Nat) : State :=
  match mergeSlot s src skind lseq pos n with
  | some k =>
    let e := s.span k
    let rows := if src < 0x30 then (if lseq == e.lseqFirst + e.rows then e.rows + 1 else e.rows) else e.rows + n
    s.setSpan k { e with rows := rows, yLast := pos }
  | none =>
    let e : Span := { valid := true, src := src, skind := skind, rows := n,
                      lseqFirst := if src < 0x30 then lseq else 0, yFirst := pos, yLast := pos, ord := s.sump.allocs }
    let s1 := { s with sump := { s.sump with allocs := s.sump.allocs + 1 } }
    match freeSlot s with
    | some k => s1.setSpan k e
    | none => (totalise s1 (s.span (oldestSlot s))).setSpan (oldestSlot s) e

/-- The Sump takes a note for n rows (R48, R52, R53). -/
def State.takeNote (s : State) (m : SumpNote) (n : Nat) : State :=
  ({ s with sump := { s.sump with last := m } } : State).merge m.src m.skind m.tag.lseq m.tag.pos n

/-- A stage diverts what carries a tag: a Sump note of KIND 0xF with its TAG0 and TAG1 and the present time (R48). -/
def State.note (s : State) (src skind : Nat) (t : Tag) (n : Nat := 1) : State :=
  s.takeNote { tag := { t with kind := 15, time := s.pt }, skind := skind, src := src } n

/-! ### The Damper (R555 to R558) -/

/-- Base of the account, mW (R555). -/
def baseMw : Nat := 24000

/-- Grants held, mW. -/
def heldMw (s : State) : Nat := (s.damper.held.map (·.mw)).sum

/-- POWER_HELD follows the waiting requests and a withheld rise; its rise counts and emits source 471 (R558). -/
def setHeld (s : State) : State :=
  let h := !s.damper.waiting.isEmpty || s.damper.riseHeld
  let was := s.on Reg.Pba.POWER_HELD 0
  let s := s.wr Reg.Pba.POWER_HELD 0 (b2n h)
  if h && !was then
    let s := s.sat Reg.Pba.HELDCNT 0 1
    if (s.rd Reg.Pba.PEVEN 0).testBit 7 then s.emit 471 else s
  else s

/-- GRANTED shows the account, base included. -/
def showGranted (s : State) : State := s.wr Reg.Pba.GRANTED 0 (baseMw + heldMw s)

/-- Request a grant; the request waits until GRANT_ISSUE. One request or grant per class and unit. -/
def State.request (s : State) (cls id mw : Nat) : State :=
  if (s.damper.waiting ++ s.damper.held).any fun g => g.cls == cls && g.id == id then s
  else setHeld { s with damper := { s.damper with waiting := s.damper.waiting ++ [{ cls := cls, id := id, mw := mw }] } }

/-- A grant is held. -/
def State.granted (s : State) (cls id : Nat) : Bool := s.damper.held.any fun g => g.cls == cls && g.id == id

/-- Return a grant, or drop the request that waits for it. -/
def State.release (s : State) (cls id : Nat) : State :=
  let q := fun (g : Grant) => !(g.cls == cls && g.id == id)
  showGranted (setHeld { s with damper := { s.damper with waiting := s.damper.waiting.filter q, held := s.damper.held.filter q } })

end Sys2Proof.Machine
end

