-- ==== Sys2Proof/Machine/Dram.lean ====
section
/-!
DEFINITION. DRAM errors, poison, DMA channels as resources, and the retirement of ranks (R454, R458, R459, R461).
-/
namespace Sys2Proof.Machine

/-- DRAM channel c beside its block. -/
def State.dram (s : State) (c : Nat) : DmcState := Tbl.get (fun _ => {}) s.dmc c

/-- Replace it. -/
def State.setDram (s : State) (c : Nat) (e : DmcState) : State := { s with dmc := Tbl.set (fun _ => {}) s.dmc c e }

/-- DMA channel c beside its block. -/
def State.dmaOf (s : State) (c : Nat) : DmaState := Tbl.get (fun _ => {}) s.dma c

/-- Replace it; QFILL and ACTIVE follow (Table 14-9). -/
def State.setDma (s : State) (c : Nat) (e : DmaState) : State :=
  { s with dma := Tbl.set (fun _ => {}) s.dma c e }.wrAll c
    [(Reg.Dma.QFILL, e.queue.length), (Reg.Dma.ACTIVE, b2n (e.cur.any fun (o : DmaOp) => o.op != 6))]

/-! ### DMA channels that another owner takes (R461) -/

/-- A channel is idle and owned by software. -/
def dmaIdle (s : State) (c : Nat) : Bool :=
  s.rd Reg.Dma.OWNER c == 0 && (s.dmaOf c).queue.isEmpty && (s.dmaOf c).cur.isNone

/-- Take the lowest-numbered idle channel owned by software for an owner, if there is one (R461). -/
def takeDma (owner : Nat) (s : State) : Option (Nat × State) :=
  ((List.range 16).find? (dmaIdle s)).map fun c => (c, s.wr Reg.Dma.OWNER c owner)

/-- Give a channel back to software. -/
def giveDma (c : Option Nat) (s : State) : State :=
  match c with
  | some c => s.wr Reg.Dma.OWNER c 0
  | none => s

/-! ### Ranks (R454, R459) -/

/-- Bytes of a rank: two 32-bit subchannels of devices of the density named. -/
def rankBytes (s : State) (c : Nat) : Nat :=
  let devs := if s.on Reg.Dmc.DEVW c then 4 else 8
  let gbit := match s.rd Reg.Dmc.DENS c with | 0 => 16 | 1 => 24 | _ => 32
  2 * (devs * gbit * 2 ^ 27)

/-- Lowest set bit of a mask. -/
def pivot (m : Nat) : Nat := ((List.range 40).find? m.testBit).getD 40

/-- The offset bits that are neither pivots nor below 6, ascending, read as one number (R454). -/
def remaining (s : State) (off : Nat) : Nat :=
  let ps := (channelMasks s ++ bankMasks s).map pivot
  let bs := ((List.range 34).map (· + 6)).filter fun b => !ps.contains b
  (bs.zipIdx.map fun b => b2n (off.testBit b.1) * 2 ^ b.2).sum

/-- The spare rank has taken a retired rank's place. -/
def spareUsed (s : State) (c : Nat) : Bool := s.rd Reg.Dmc.RETIRED c != 0

/-- Ranks that serve a channel's locations, in order: the spare stands in a retired rank's place. -/
def serving (s : State) (c : Nat) : List Nat :=
  let spare := s.rd Reg.Dmc.SPARERANK c
  ((List.range (s.rd Reg.Dmc.RANKS c)).filter fun r => !(s.on Reg.Dmc.SPAREEN c && r == spare)).map fun r =>
    if (s.rd Reg.Dmc.RETIRED c).testBit r then spare else r

/-- The rank that holds a DRAM offset. -/
def rankAt (s : State) (off : Nat) : Nat :=
  let c := channelAt s off
  (serving s c).getD (remaining s off / (rankBytes s c / 64 / 2 ^ (bankMasks s).length)) 0

/-! ### Retirement (R459, Table 14-5) -/

/-- A retirement ends: CHSTATE is left as said, a DMC.RETIRE that waits for it completes. -/
def endRetire (c chstate : Nat) (long : Bool) (s : State) : State :=
  let s := s.wr Reg.Dmc.CHSTATE c chstate
  if long then
    { s with seq := { s.seq with longs := go s.seq.longs } }
  else s
where
  /-- The oldest DMC.RETIRE of the channel completes OK. -/
  go : List LongOp → List LongOp
    | [] => []
    | l :: ls => if l.unit = 0xD ∧ l.op = 5 ∧ l.inst = c ∧ l.done = none then { l with done := some 0 } :: ls else l :: go ls

/-- Begin a retirement: step 1, or RANKFAULT where the channel has no spare or has used it. -/
def beginRetire (c rank : Nat) (long : Bool) (s : State) : State :=
  if !s.on Reg.Dmc.SPAREEN c || spareUsed s c then endRetire c 5 long s
  else
    (s.setDram c { s.dram c with cur := some { rank := rank, long := long } }).wrAll c
      [(Reg.Dmc.CHSTATE, 4), (Reg.Dmc.MIGRANK, rank), (Reg.Dmc.MIGPCT, 0)]

/-- The requests that wait begin, one after the other, until one migrates. -/
def nextRetire (c : Nat) : List (Nat × Bool) → State → State
  | [], s => s.setDram c { s.dram c with queue := [] }
  | q :: qs, s =>
    if (s.dram c).cur.isSome then s.setDram c { s.dram c with queue := q :: qs }
    else nextRetire c qs (beginRetire c q.1 q.2 s)

/-- A retirement is requested; a second one on the channel waits until the first ends. -/
def retireRank (c rank : Nat) (long : Bool) (s : State) : State :=
  nextRetire c ((s.dram c).queue ++ [(rank, long)]) s

/-! ### Errors (R458) -/

/-- A word or burst becomes poisoned. -/
def State.poisonAt (s : State) (b : Nat) : State :=
  { s with poison := if s.poison.contains b then s.poison else s.poison ++ [b] }

/-- A read of the burst, or of the shared-bank word, at a device address meets an ECC error: 1 corrected, 2 uncorrectable and
persistent (R458, Table 17-3). -/
def State.eccError (s : State) (a ecc : Nat) : State :=
  let b := a / 64 * 64
  let off := b - dramBase
  let c := channelAt s off
  if a < 0x8000000 then (if ecc = 2 then s.poisonAt (a / 8 * 8) else s)
  else if !s.inDram b 64 then s
  else if ecc = 1 then s.sat Reg.Dmc.CECNT c 1
  else if ecc = 2 then
    let s := (s.sat Reg.Dmc.UECNT c 1).wr Reg.Dmc.POISONADDR c off
    retireRank c (rankAt s off) false (s.poisonAt b)
  else s

/-- Bytes of fresh free values at rising addresses, 1,024 for each value taken (log entry 3). -/
def scramble (a : Nat) : Nat → State → State
  | 0, s => s
  | n + 1, s =>
    let r := s.fresh
    scramble (a + 1024) n (r.2.setBytes a ((List.range 1024).map fun k => (r.1 >>> (8 * k)).setWidth 8))

end Sys2Proof.Machine
end

