-- ==== Sys2Proof/Machine/Flags.lean ====
section
/-!
DEFINITION. The FLAGS bits of a row tag (Table 1-6), their masks and the operations on them, and the status codes with
which commands complete (Table 7-8). The processors of this device have no condition flags.
-/
namespace Sys2Proof.Machine

/-- Bit numbers of FLAGS (Table 1-6). -/
def fSHORT : Nat := 0
/-- Line exceeded its declared length. -/
def fLONG : Nat := 1
/-- Pixels were supplied by padding. -/
def fPADDED : Nat := 2
/-- Excess pixels were discarded. -/
def fCUT : Nat := 3
/-- CRC-32C mismatch. -/
def fCRCERR : Nat := 4
/-- Line completed after its timeout. -/
def fLATE : Nat := 5
/-- Camera sends no XSET echo. -/
def fXUNCONF : Nat := 6
/-- Rows before this one are missing. -/
def fGAPBEFORE : Nat := 7
/-- Processed again after a failover. -/
def fREPLAY : Nat := 8
/-- Supply below warning. -/
def fLOWMARGIN : Nat := 9
/-- Seam offset held at a bound. -/
def fSEAMBOUND : Nat := 10
/-- Line spacing widened. -/
def fUNDERSAMP : Nat := 11
/-- Test pattern. -/
def fTEST : Nat := 12
/-- First row with a new calibration set. -/
def fCALSTEP : Nat := 13
/-- A lane was lost during the line. -/
def fLANELOST : Nat := 14

/-- Set a bit of a number. -/
def setBit (x n : Nat) : Nat := x ||| 2 ^ n

/-- Clear a bit of a number. -/
def clearBit (x n : Nat) : Nat := if x.testBit n then x - 2 ^ n else x

/-- Set a bit when a condition holds. -/
def setBitIf (c : Bool) (x n : Nat) : Nat := if c then setBit x n else x

/-- Status codes (Table 7-8). -/
def stOK : Nat := 0x00
/-- APPLIED_LATE. -/
def stLATE : Nat := 0x01
/-- BOUNDS_INVALID. -/
def stBOUNDS : Nat := 0x02
/-- BUSY. -/
def stBUSY : Nat := 0x03
/-- LANE_BUSY. -/
def stLANEBUSY : Nat := 0x04
/-- HEAD_BUSY. -/
def stHEADBUSY : Nat := 0x05
/-- CAM_INCOMPAT. -/
def stINCOMPAT : Nat := 0x06
/-- CAM_TIMEOUT. -/
def stCAMTO : Nat := 0x07
/-- XSET_NOACK. -/
def stNOACK : Nat := 0x08
/-- XSET_REJECT. -/
def stREJECT : Nat := 0x09
/-- XSET_INUSE. -/
def stINUSE : Nat := 0x0A
/-- CUT_LATE. -/
def stCUTLATE : Nat := 0x0B
/-- IMAGE_INVALID. -/
def stIMAGE : Nat := 0x0C
/-- PROG_FAULT. -/
def stFAULT : Nat := 0x0D
/-- SEQ_WATCHDOG. -/
def stWDOG : Nat := 0x0E
/-- BUS_STUCK. -/
def stSTUCK : Nat := 0x0F
/-- ABORTED. -/
def stABORT : Nat := 0x10

/-- Program fault codes (Table 7-7). -/
def pfILLEGAL : Nat := 1
/-- ADDR. -/
def pfADDR : Nat := 2
/-- ALIGN. -/
def pfALIGN : Nat := 3
/-- WRITEPROT. -/
def pfWRITEPROT : Nat := 4
/-- RUNAWAY. -/
def pfRUNAWAY : Nat := 5
/-- MIRRORX. -/
def pfMIRRORX : Nat := 6
/-- SECURE. -/
def pfSECURE : Nat := 7

end Sys2Proof.Machine
end

