-- ==== Sys2Proof/Machine/Operands.lean ====
section
/-!
DEFINITION. The operand forms of Zedexa instructions: scalar registers and immediates (R281), address registers,
element types and the scalar broadcast (R282 to R284), predicates (R285), saturation (R286).
-/
namespace Sys2Proof.Machine

/-- The processor state of unit u. -/
def State.proc (s : State) (u : Nat) : Proc := Tbl.get (fun _ => {}) s.procs u

/-- Replace the processor state of unit u. -/
def State.setProc (s : State) (u : Nat) (p : Proc) : State := { s with procs := Tbl.set (fun _ => {}) s.procs u p }

/-- S(n); S0 reads 0 (R231). -/
def Proc.sreg (p : Proc) (n : Nat) : BitVec 32 := if n = 0 then 0 else Tbl.get (fun _ => 0) p.s n

/-- Write S(n); a write to S0 is discarded (R281). -/
def Proc.setS (p : Proc) (n : Nat) (x : BitVec 32) : Proc :=
  if n = 0 then p else { p with s := Tbl.set (fun _ => 0) p.s n x }

/-- A(n). -/
def Proc.areg (p : Proc) (n : Nat) : BitVec 48 := Tbl.get (fun _ => 0) p.a n

/-- Write A(n). -/
def Proc.setA (p : Proc) (n : Nat) (x : BitVec 48) : Proc := { p with a := Tbl.set (fun _ => 0) p.a n x }

/-- V(n). -/
def Proc.vreg (p : Proc) (n : Nat) : Vec := Tbl.get (fun _ => 0) p.v n

/-- Write V(n). -/
def Proc.setV (p : Proc) (n : Nat) (x : Vec) : Proc := { p with v := Tbl.set (fun _ => 0) p.v n x }

/-- P(n); P0 is all ones (R231). -/
def Proc.preg (p : Proc) (n : Nat) : Pred := if n = 0 then BitVec.allOnes 512 else Tbl.get (fun _ => 0) p.p n

/-- Write P(n), n from 1 to 7. -/
def Proc.setP (p : Proc) (n : Nat) (x : Pred) : Proc := { p with p := Tbl.set (fun _ => 0) p.p n x }

/-- K(n). -/
def Proc.kreg (p : Proc) (n : Nat) : Word := Tbl.get (fun _ => 0) p.k n

/-- MOD bit n. -/
def mbit (w : IWord) (n : Nat) : Bool := w.md.testBit n

/-- IMM as a signed number. -/
def immS (w : IWord) : Int := w.imm.toInt

/-- Bits [hi:lo] of IMM. -/
def immF (w : IWord) (hi lo : Nat) : Nat := (w.imm >>> lo).toNat % 2 ^ (hi - lo + 1)

/-- The second scalar operand: S(B), or IMM when I is 1 (R281). -/
def Proc.opB (p : Proc) (w : IWord) : BitVec 32 := if mbit w 0 then w.imm else p.sreg w.b

/-- The 48-bit offset or immediate: IMM, or the value of R279 with a prefix. `sx` sign-extends it. -/
def Proc.imm48 (p : Proc) (w : IWord) (sx : Bool) : BitVec 48 :=
  match p.pfx with
  | some (_, hi) => BitVec.ofNat 48 (hi % 65536 * 2 ^ 32 + w.imm.toNat)
  | none => if sx then w.imm.signExtend 48 else w.imm.setWidth 48

/-- The address Aa + IMM, modulo 2^48 (R290, R298). -/
def Proc.addr (p : Proc) (w : IWord) : Nat := (p.areg w.a + p.imm48 w true).toNat

/-! ### Vector elements (Table 8-3) -/

/-- Element width of a TYPE. -/
def tyWidth (ty : Nat) : Nat := match ty with | 2 => 32 | 3 => 8 | _ => 16

/-- Elements in a vector of a TYPE. -/
def tyCount (ty : Nat) : Nat := match ty with | 2 => 256 | 3 => 1024 | _ => 512

/-- A TYPE is signed. -/
def tySigned (ty : Nat) : Bool := ty == 1 || ty == 2

/-- The predicate bit that governs element i. -/
def tyPred (ty i : Nat) : Nat := match ty with | 2 => 2 * i | 3 => i / 2 | _ => i

/-- Smallest value of a TYPE. -/
def tyMin (ty : Nat) : Int := if tySigned ty then -(2 ^ (tyWidth ty - 1) : Nat) else 0

/-- Largest value of a TYPE. -/
def tyMax (ty : Nat) : Int := if tySigned ty then (2 ^ (tyWidth ty - 1) : Nat) - 1 else (2 ^ tyWidth ty : Nat) - 1

/-- Element i of a vector: its bits. -/
def elemBits (ty : Nat) (v : Vec) (i : Nat) : Nat := (v >>> (tyWidth ty * i)).toNat % 2 ^ tyWidth ty

/-- Element i of a vector as a number of its TYPE. -/
def elem (ty : Nat) (v : Vec) (i : Nat) : Int :=
  if tySigned ty then signed (tyWidth ty) (elemBits ty v i) else (elemBits ty v i : Nat)

/-- The number formed of n elements of width w, element 0 lowest. -/
def pack (w : Nat) (f : Nat → Nat) : Nat → Nat
  | 0 => 0
  | n + 1 => pack w f n + f n % 2 ^ w * 2 ^ (w * n)

/-- A vector from its elements' bits. -/
def ofElems (ty : Nat) (f : Nat → Nat) : Vec := BitVec.ofNat 8192 (pack (tyWidth ty) f (tyCount ty))

/-- A vector from an element function, elements whose governing bit is 0 keeping those of `old` (R285). -/
def maskedElems (ty : Nat) (q : Pred) (old : Vec) (f : Nat → Nat) : Vec :=
  ofElems ty fun i => if q.getLsbD (tyPred ty i) then f i else elemBits ty old i

/-- A vector from 512 lanes. -/
def ofLanes (f : Nat → Nat) : Vec := ofElems 0 f

/-- Lane c of a vector. -/
def lane (v : Vec) (c : Nat) : Nat := elemBits 0 v c

/-- The scalar broadcast of R284 as a vector of a TYPE. -/
def bcast (p : Proc) (w : IWord) (ty : Nat) : Vec :=
  let x := p.sreg w.b + ((w.imm.setWidth 16).signExtend 32)
  ofElems ty fun _ => x.toNat

/-- The second vector source: V(B), or the broadcast when BS is 1 (Table 8-2). -/
def Proc.vecB (p : Proc) (w : IWord) (ty : Nat) : Vec := if mbit w 0 then bcast p w ty else p.vreg w.b

/-- The nearest value of a TYPE when SAT is 1, else the low bits; the flag says that the element saturated (R286). -/
def satElem (ty : Nat) (sat : Bool) (x : Int) : Nat × Bool :=
  if sat then (low (tyWidth ty) (clampI (tyMin ty) (tyMax ty) x), decide (x < tyMin ty ∨ tyMax ty < x))
  else (low (tyWidth ty) x, false)

/-- Floor division by a power of two. -/
def sar (x : Int) (n : Nat) : Int := x / (2 ^ n : Nat)

end Sys2Proof.Machine
end

