-- ==== Sys2Proof/Machine/Proc.lean ====
section
/-!
DEFINITION. What the instructions of a processor share: memory access and its faults (R233, R234, R290, R298, Tables 7-4 and
7-5), retirement and samples (R273), a sequencer's program faults (R257) and the end of a command or handler (R262, R265).
-/
namespace Sys2Proof.Machine

/-- The register file of a processor: a row processor's own; for a sequencer core, its lockstep pair's (log entry 7). -/
def core (u : Nat) : Nat := if u < 72 then u else 72 + (u - 72) / 2 * 2

/-- A row processor. -/
def isRp (u : Nat) : Bool := decide (u < 72)

/-! ### Address map -/

/-- Reads and writes of the secure bank are permitted in the lifecycle state (Table 18-8). -/
def secureOpen (s : State) : Bool :=
  let l := s.rd Reg.Slc.LCSTATE 0
  l == 0x01 || l == 0x02 || l == 0x04

/-- A row program's access to its own strip memory at an offset (Table 7-5): the fault it takes. -/
def stripFault (store : Bool) (off : Nat) : Option Nat :=
  if off < 0x20000 then some (if store then pfWRITEPROT else pfADDR)
  else if off < 0xFC000 then none
  else if off < 0xFC100 then (if store then some pfWRITEPROT else none)
  else some pfADDR

/-- The fault that processor u takes on an access to n bytes at a, alignment apart (Table 7-4, R448, R455, R458). -/
def regionFault (s : State) (u : Nat) (store : Bool) (a n : Nat) : Option Nat :=
  if a < 0x8000000 then (if s.bankOn (a / 0x80000) && (store || !s.poisoned a n) then none else some pfADDR)
  else if a < 0x8100000 then (if isRp u then stripFault store (a - 0x8000000) else some pfADDR)
  else if 0x10000000 ≤ a ∧ a < 0x10000000 + 72 * 0x100000 then
    if isRp u then (if (a - 0x10000000) / 0x100000 = u then stripFault store ((a - 0x10000000) % 0x100000) else some pfADDR)
    else if store then some pfADDR else none
  else if 0x20000000 ≤ a ∧ a < 0x20400000 then none
  else if 0x21000000 ≤ a ∧ a < 0x21020000 then none
  else if 0x30000000 ≤ a ∧ a < 0x30040000 then
    (if isRp u then some pfADDR else if secureOpen s then none else some pfSECURE)
  else if 0x40000000 ≤ a ∧ a < 0x40100000 then
    (if isRp u then some pfADDR else if store then some pfWRITEPROT else none)
  else if dramBase ≤ a ∧ a < 2 * dramBase then
    (if s.inDram a n && (store || !s.poisoned a n) then none else some pfADDR)
  else if hostBase ≤ a then (if isRp u then some pfADDR else none)
  else some pfADDR

/-- The pieces of an access that lie each in one 64-byte line, addresses modulo 2^48; a short access and its last byte, which a
misaligned one may have in another region. -/
def pieces (a n : Nat) : List (Nat × Nat) :=
  if n ≤ 8 then [(a, n), ((a + n - 1) % 2 ^ 48, 1)] else (List.range (n / 64)).map fun k => ((a + 64 * k) % 2 ^ 48, 64)

/-- The fault of an access, the highest in the order of R308: SECURE, ADDR, ALIGN, WRITEPROT. -/
def accessFault (s : State) (u : Nat) (store : Bool) (a n align : Nat) : Option Nat :=
  let fs := (pieces a n).filterMap fun c => regionFault s u store c.1 c.2
  if fs.contains pfSECURE then some pfSECURE
  else if fs.contains pfADDR then some pfADDR
  else if a % align ≠ 0 then some pfALIGN
  else fs.head?

/-- Where an address of processor u is stored: the alias of its own strip memory stands for that memory. -/
def physAddr (u a : Nat) : Nat :=
  if 0x8000000 ≤ a ∧ a < 0x8100000 then 0x10000000 + u * 0x100000 + (a - 0x8000000) else a

/-- A store to the address is discarded (UCBs and the Sump table, R12, R51). -/
def storeIgnored (a : Nat) : Bool := decide (0x20000000 ≤ a ∧ a < 0x21020000)

/-- A store waits while the secure bank is wiped (R451); so does a load. -/
def secureWait (s : State) (a : Nat) : Bool := decide (0x30000000 ≤ a ∧ a < 0x30040000) && s.on Reg.Slc.WIPING 0

/-- The mirror regions of the program set that the run uses. -/
def mirrorOf (s : State) (p : Proc) : List (Nat × Nat) :=
  match p.run with
  | some r => (Tbl.get (fun _ => {}) s.rpa.areas r.area).mirror
  | none => []

/-- Strip-memory offset of an address of row processor u. -/
def stripOff (u a : Nat) : Nat := physAddr u a - (0x10000000 + u * 0x100000)

/-- The lines (offsets of 64 bytes) of mirror regions that a store of n bytes touches (R250). -/
def mirrorLines (s : State) (u : Nat) (p : Proc) (a n : Nat) : List Nat :=
  if isRp u && decide (0x10000000 + u * 0x100000 ≤ physAddr u a ∧ physAddr u a < 0x10100000 + u * 0x100000) then
    let o := stripOff u a
    (((List.range ((o + n - 1) / 64 + 1 - o / 64)).map fun k => (o / 64 + k) * 64).filter fun l =>
      (mirrorOf s p).any fun m => decide (m.1 ≤ l ∧ l < m.1 + m.2))
  else []

/-- The run's dirty lines after a store. -/
def dirtyAfter (s : State) (u : Nat) (p : Proc) (a n : Nat) : List Nat :=
  p.dirty ++ (mirrorLines s u p a n).filter fun l => !p.dirty.contains l

/-- A load of n bytes, or the fault it takes. -/
def load (s : State) (u a n align : Nat) : Except Nat Nat :=
  match accessFault s u false a n align with
  | some c => .error c
  | none => .ok (bytesNat ((List.range n).map fun k => s.readByte (physAddr u ((a + k) % 2 ^ 48))))

/-- Store the bytes whose selector is true. -/
def storeSel (s : State) (u a : Nat) : List (Bool × Byte) → State
  | [] => s
  | (q, b) :: bs =>
    storeSel (if q && !storeIgnored (a % 2 ^ 48) then s.setByte (physAddr u (a % 2 ^ 48)) b else s) u (a + 1) bs

/-- Shared-bank words and DRAM bursts that a store writes whole lose their poison (R458, Table 17-3). -/
def unpoisonWhole (a : Nat) (bs : List (Bool × Byte)) (s : State) : State :=
  { s with poison := s.poison.filter fun p =>
      !(decide (a ≤ p ∧ p + poisonSize p ≤ a + bs.length) && ((bs.drop (p - a)).take (poisonSize p)).all (·.1)) }

/-- A store of bytes with selectors, or the fault it takes; the processor's dirty lines grow (R250, R251, R298). -/
def store (s : State) (u a align : Nat) (bs : List (Bool × Byte)) : Except Nat State :=
  let p := s.proc u
  let n := bs.length
  match accessFault s u true a n align with
  | some c => .error c
  | none =>
    let d := dirtyAfter s u p a n
    if d.length > 512 ∧ d ≠ p.dirty then .error pfMIRRORX
    else
      let s := s.setProc u { p with dirty := d }
      .ok ((unpoisonWhole a bs (storeSel s u a bs)).traffic true a n)

/-! ### Program faults -/

/-- The address of the instruction at an index: the alias of the code area on a row processor, the control program's
place on a sequencer. -/
def instrAddr (s : State) (u : Nat) (p : Proc) (idx : Nat) : Nat :=
  if isRp u then 0x8000000 + (match p.run with | some r => r.area | none => 0) * 0x10000 + 8 * idx
  else (s.seq.base + 8 * idx) % 2 ^ 48

/-- The index that a fault or status reports: the PFX's when one is joined (R280). -/
def Proc.faultIdx (p : Proc) : Nat := match p.pfx with | some (i, _) => i | none => p.pc

/-- The entry of a command in the log, changed. -/
def State.updCmd (s : State) (cseq : Nat) (f : Cmd → Cmd) : State :=
  { s with seq := { s.seq with log := s.seq.log.map fun c => if c.cseq = cseq then f c else c } }

/-- The running command ends with a status and an instruction index (R262). -/
def endCommand (cseq st idx : Nat) (s : State) : State :=
  let s := s.updCmd cseq fun c => { c with open_ := false, status := st, idx := idx }
  { s with seq := { s.seq with cur := none } }

/-- A sequencer takes a program fault (R257): a command ends with PROG_FAULT and the index, a handler ends and HFCODE
and HFIADDR record it; source 483 emits. -/
def seqFault (u c : Nat) (s : State) : State :=
  let p := s.proc u
  let i := p.faultIdx
  let s1 := ((s.setProc u { p with pfx := none }).emit 483).evt 0 (u - 72) 0x0C
  match s.seq.cur with
  | some (.command q) => endCommand q stFAULT i s1
  | some _ =>
    let s1 := s1.wrAll 0 [(Reg.Seq.HFCODE, c), (Reg.Seq.HFIADDR, instrAddr s u p i)]
    { s1 with seq := { s1.seq with cur := none } }
  | none => s1.wrAll 0 [(Reg.Seq.HFCODE, c), (Reg.Seq.HFIADDR, instrAddr s u p i)]

/-! ### Carrying out one instruction -/

/-- Word 2 of a sample: the run of a row processor (Table 7-13). -/
def sampledRun (p : Proc) : Word :=
  match p.run with
  | some r => fld r.tag.head 5 59 ||| fld r.tag.strip 8 51 ||| fld 1 1 50 ||| fld r.tag.lseq 40 0
  | none => 0

/-- The sample of the instruction that retires at processor u: with its prefix, the pair reports the prefix (R273, R280). -/
def retiredSample (s : State) (u : Nat) (p : Proc) : Sample :=
  let a := instrAddr s u p p.faultIdx
  { iaddr := a, iword := s.read64 (physAddr u a), run := sampledRun p, raw := s.raw }

/-- A sampler that is enabled counts a retired instruction; the SPERIOD-th becomes its sample, or is dropped while the last one
has not been written (R273). -/
def sampleCount (k u : Nat) (p : Proc) (s : State) : State :=
  if s.on Reg.Pmu.SEN k then
    let m := Tbl.get (fun _ => {}) s.sampled k
    if m.count + 1 < s.rd Reg.Pmu.SPERIOD k then { s with sampled := Tbl.set (fun _ => {}) s.sampled k { m with count := m.count + 1 } }
    else if m.pend.isSome then { s with sampled := Tbl.set (fun _ => {}) s.sampled k { m with count := 0, drops := m.drops + 1 } }
    else { s with sampled := Tbl.set (fun _ => {}) s.sampled k { count := 0, pend := some (retiredSample s u p) } }
  else s

/-- The instruction retires: the pc moves, the pair with its prefix counts once (R280), PMU event 0x08 counts. -/
def retire (u pc : Nat) (s : State) : State :=
  let p := s.proc u
  let s := (s.setProc u { p with pc := pc, pfx := none, last := p.faultIdx, retired := p.retired + 1 }).evt (if isRp u then 5 else 0)
    (if isRp u then u else u - 72) 0x08
  if isRp u then sampleCount u u p s else sampleCount (u + 1) u p (sampleCount u u p s)

/-- Instructions of the control program (R570). -/
def progLen (s : State) : Nat := s.power.length / 8

/-- Instructions of the code that a run executes (R277). -/
def runLen (s : State) (p : Proc) : Nat :=
  match p.run with
  | some r => (Tbl.get (fun _ => {}) s.rpa.areas r.area).len
  | none => 8192

/-- The pc has passed the last code word: of an image, or of a command; the words there read as 0 (R277, R483). -/
def offEnd (s : State) (c : Nat) (p : Proc) : Bool :=
  if isRp c then decide (runLen s p ≤ p.pc)
  else match s.seq.cur with | some (.command _) => decide (s.seq.codeLen ≤ p.pc) | _ => false

/-- The CSEQ under which the running command or handler issues operations: 0 for a handler (R265). -/
def curCseq (s : State) : Nat := match s.seq.cur with | some (.command q) => q | _ => 0

/-- The long operations of the running command or handler. -/
def myLongs (s : State) : List LongOp := s.seq.longs.filter fun l => l.cseq == curCseq s

/-- The processor may execute: none does in reset or in Ember (R3); a row processor in a run (R239); a sequencer core when its pair holds
the control lease (R258), it has not stopped (R539), and it holds no operation that waits to issue (R63, R36, R237,
R392). -/
def mayExecute (s : State) (u : Nat) : Bool :=
  s.up && (if isRp u then (s.proc u).run.isSome
    else decide ((u - 72) / 2 = s.rd Reg.SeqLease.LEASEPAIR 0) && !s.seq.stopped && s.seq.forming.isNone && s.seq.wait.isNone)

end Sys2Proof.Machine
end

