-- ==== Sys2Proof/Machine/Xops.lean ====
section
/-!
DEFINITION. What every X-class operation shares: the payload and its faults,
the instance, the kinds of operation, the status word and the end of a command (R262, R293, R299 to R303).
-/
namespace Sys2Proof.Machine

/-- The first core of the pair that holds the control lease. -/
def activeCore (s : State) : Nat := 72 + 2 * s.rd Reg.SeqLease.LEASEPAIR 0

/-- What an X-class operation is given: instance, argument, payload address and words (R300). -/
structure XArgs where
  /-- Instance. -/
  i : Nat
  /-- ARG. -/
  arg : Nat
  /-- Payload address. -/
  addr : Nat
  /-- Payload words. -/
  ws : List Word

/-- Payload word k; a word beyond LEN reads 0 (log entry 10). -/
def XArgs.w (a : XArgs) (k : Nat) : Word := a.ws.getD k 0

/-- The arguments of an X-class word: instance (S(SR) + INST) mod 65,536, payload at A(AR) (R300). -/
def xargs (s : State) (x : XWord) : XArgs :=
  let p := s.proc (activeCore s)
  { i := ((p.sreg x.sr).toNat + x.inst) % 65536, arg := x.arg, addr := (p.areg x.ar).toNat,
    ws := s.readWords (p.areg x.ar).toNat x.len }

/-- The fault of an X-class word: a joined prefix or a reserved LEN (ILLEGAL), a payload outside shared banks that are
ON (ADDR) or not aligned to 8 (ALIGN) (R279, R300, R304, R309). -/
def xFault (s : State) (x : XWord) : Option Nat :=
  let p := s.proc (activeCore s)
  let a := (p.areg x.ar).toNat
  if p.pfx.isSome || offEnd s (activeCore s) p || decide (64 < x.len) then some pfILLEGAL
  else if x.len = 0 then none
  else if !s.inBanksOn a (8 * x.len) || s.poisoned a (8 * x.len) then some pfADDR
  else if a % 8 ≠ 0 then some pfALIGN
  else none

/-- The control lease is held: less than LEASE has passed since its last renewal (R538). -/
def leaseHeld (s : State) : Bool := decide (s.raw < s.seq.renewed + 16000 * s.rd Reg.SeqLease.LEASE 0)

/-- What the mirror holds of the X-class instructions that the running command, handler or program has executed (R540). -/
def mirrorLog (s : State) : List (Nat × Nat) :=
  match s.seq.cur with
  | some (.command q) => ((s.seq.log.find? fun c => c.cseq == q).map (·.xlog)).getD []
  | some _ => s.seq.xlog
  | none => []

/-- The mirror takes the index and status of an X-class instruction (R540). -/
def mirror (i st : Nat) (s : State) : State :=
  let new := decide ((mirrorLog s).length ≤ s.seq.xk)
  let s := { s with seq := { s.seq with xk := s.seq.xk + 1 } }
  match s.seq.cur with
  | some (.command q) => if new then s.updCmd q fun c => { c with xlog := c.xlog ++ [(i, st)] } else s
  | some _ => if new then { s with seq := { s.seq with xlog := s.seq.xlog ++ [(i, st)] } } else s
  | none => s

/-- The status that the mirror holds for the X-class instruction about to execute, in a re-execution (R541). -/
def mirrored (s : State) : Option Nat := ((mirrorLog s)[s.seq.xk]?).map (·.2)

/-- The instruction at the pc completes with a status: the status word takes it (R293), the instruction retires, and a
command ends at a status other than OK and APPLIED_LATE (R262). -/
def xDone (st : Nat) (s : State) : State :=
  let c := activeCore s
  let i := (s.proc c).pc
  let s := mirror i st (retire c (i + 1) { s with seq := { s.seq with status := st, statusIdx := i } })
  if st = stOK ∨ st = stLATE then s
  else match s.seq.cur with
    | some (.command q) => endCommand q st i s
    | _ => s

/-- How an operation's execution ends. -/
inductive XRes where
  /-- It completes with a status, leaving a state. -/
  | fin (st : Nat) (s : State)
  /-- A long operation has started and completes later (kind L). -/
  | start (s : State)
  /-- A streamed operation is formed and waits to issue (kind S). -/
  | form (ws : List Word) (s : State)
  /-- The instruction waits where it stands (R36, R63, R237, R392); it may show that it does. -/
  | hold (s : State)
  /-- It has reset the device or taken its core's power: nothing of the instruction remains. -/
  | gone (s : State)

/-- An operation that changes nothing and reports a status (R303). -/
def XRes.no (st : Nat) (s : State) : XRes := .fin st s

/-- Execute X-class operation (unit, op) by the active pair. -/
def xop (unit op : Nat) (x : XWord) (body : XArgs → State → XRes) (s : State) : Out :=
  if !mayExecute s (activeCore s) || !leaseHeld s then ok s
  else match xFault s x, mirrored s with
    | some f, _ => ok (seqFault (activeCore s) f s)
    | none, some st => ok (xDone st (s.sat Reg.SeqLease.SUPPCNT 0 1))
    | none, none =>
      let a := xargs s x
      match body a s with
      | .fin st t => ok (xDone st t)
      | .start t =>
        let l : LongOp := { cseq := curCseq s, idx := (s.proc (activeCore s)).pc, unit := unit, op := op, inst := a.i,
                            addr := a.addr }
        ok (xDone stOK { t with seq := { t.seq with longs := t.seq.longs ++ [l] } })
      | .form ws t => ok { t with seq := { t.seq with forming := some { unit := unit, op := op, words := ws } } }
      | .gone t => ok t
      | .hold t => ok { t with seq := { t.seq with wait := some (unit, op, x) } }

/-- The long operation (unit, op) on an instance that has not completed, if one is under way. -/
def findLong (s : State) (unit op inst : Nat) : Option LongOp :=
  s.seq.longs.find? fun l => l.unit == unit && l.op == op && l.inst == inst && l.done.isNone

/-- Complete the first of the long operations that a test selects. -/
def markDone (q : LongOp → Bool) (st : Nat) : List LongOp → List LongOp
  | [] => []
  | l :: ls => if q l && l.done.isNone then { l with done := some st } :: ls else l :: markDone q st ls

/-- The long operation (unit, op) on an instance completes with a status (R301). -/
def State.complete (s : State) (unit op inst st : Nat) : State :=
  let ls := markDone (fun l => l.unit == unit && l.op == op && l.inst == inst) st s.seq.longs
  { s with seq := { s.seq with longs := ls } }

/-- Every long operation (unit, op) on an instance that is under way completes with a status (R301). -/
def State.completeAll (s : State) (unit op inst st : Nat) : State :=
  let ls := s.seq.longs.map fun l =>
    if l.unit == unit && l.op == op && l.inst == inst && l.done.isNone then { l with done := some st } else l
  { s with seq := { s.seq with longs := ls } }

/-- A direct operation on an instance below n that checks and then changes state: `f` answers a status to refuse with,
or the new state. -/
def direct (unit op n : Nat) (x : XWord) (f : XArgs → State → Except Nat State) (s : State) : Out :=
  xop unit op x
    (fun a s =>
      if n ≤ a.i then .no stBOUNDS s
      else match f a s with
        | .error st => .no st s
        | .ok t => .fin stOK t) s

/-- Write the named fields of a block from payload words: word k of the payload is word k of the instance's block, and
only fields of words below LEN are written (R302). `base` is the byte offset of the block's first word from the field's
own instance base, as device address of instance 0. -/
def blockWrite (base : Nat) (a : XArgs) (i j : Nat) : List Field → State → State
  | [], s => s
  | f :: fs, s =>
    let k := (f.word 0 0 - base) / 8
    blockWrite base a i j fs
      (if k < a.ws.length then s.wr2 f i j (f.get 0 (a.w k)) else s)

/-- The value that a block write would give field f: from the payload where it reaches, else the present one. -/
def blockVal (base : Nat) (a : XArgs) (s : State) (f : Field) (i : Nat) : Nat :=
  let k := (f.word 0 0 - base) / 8
  if k < a.ws.length then f.get 0 (a.w k) else s.rd f i

/-- A block write (R302): the instance is below n, LEN does not pass `len` words, no status of `refuse` applies and the
block that would result passes `check`; then the fields are written and `after` sees the states before and after. -/
def blockOp (unit op n : Nat) (x : XWord) (base len : Nat) (fields : List Field)
    (refuse : XArgs → State → Option Nat) (check : (Field → Nat) → XArgs → State → Bool)
    (after : Nat → State → State → State) (s : State) : Out :=
  direct unit op n x (fun a s =>
    match refuse a s with
    | some st => .error st
    | none =>
      if len < a.ws.length ∨ !check (fun f => blockVal base a s f a.i) a s then .error stBOUNDS
      else .ok (after a.i s (blockWrite base a a.i 0 fields s))) s

/-- Write fields from payload words named one by one: a field of a word that LEN does not reach keeps its value (R302). -/
def setFrom (a : XArgs) (i : Nat) : List (Nat × Field) → State → State
  | [], s => s
  | (k, f) :: fs, s => setFrom a i fs (if k < a.ws.length then s.wr f i (f.get 0 (a.w k)) else s)

/-- The value that payload word k gives field f of an instance, or the present one beyond LEN. -/
def payOr (a : XArgs) (s : State) (i k : Nat) (f : Field) : Nat := if k < a.ws.length then f.get 0 (a.w k) else s.rd f i

/-- A range check. -/
def inRange (v lo hi : Nat) : Bool := decide (lo ≤ v ∧ v ≤ hi)

end Sys2Proof.Machine
end

