-- ==== Sys2Proof/Machine/Dma.lean ====
section
/-!
DEFINITION. The DMA channels: queues, descriptors, checks, moves, results and fences (R461 to R471).
-/
namespace Sys2Proof.Machine

/-! ### Operations (R461 to R464, R469) -/

/-- A DMA operation joins a channel's queue: BUSY while another owner holds the channel or four operations wait. With
ARG[0] 1 it completes with its descriptor, and DMA.FENCE always does (R461, R462, R469). -/
def dmaQueue (op : Nat) (x : XWord) (s : State) : Out :=
  xop 0xE op x (fun a s =>
    let e := s.dmaOf a.i
    let long := a.arg % 2 == 1 || op == 6
    if 16 ≤ a.i then .no stBOUNDS s
    else if s.on Reg.Dma.OWNER a.i ∨ 4 ≤ e.queue.length then .no stBUSY s
    else
      let o : DmaOp := { op := op, words := (List.range 8).map a.w, addr := a.addr, long := long }
      let s := s.setDma a.i { e with queue := e.queue ++ [o] }
      if long then .start s else .fin stOK s) s

/-- DMA.LINEAR queues a linear copy. -/
def execDmaLinear (x : XWord) (s : State) : Out := dmaQueue 1 x s

/-- DMA.RECT queues a rectangular copy. -/
def execDmaRect (x : XWord) (s : State) : Out := dmaQueue 2 x s

/-- DMA.GATHER queues a gather. -/
def execDmaGather (x : XWord) (s : State) : Out := dmaQueue 3 x s

/-- DMA.FILL queues a fill. -/
def execDmaFill (x : XWord) (s : State) : Out := dmaQueue 4 x s

/-- DMA.COMPARE queues a compare. -/
def execDmaCompare (x : XWord) (s : State) : Out := dmaQueue 5 x s

/-- DMA.FENCE queues a fence. -/
def execDmaFence (x : XWord) (s : State) : Out := dmaQueue 6 x s

/-! ### Descriptors (Table 14-7) -/

/-- Word k of a descriptor. -/
def DmaOp.w (o : DmaOp) (k : Nat) : Word := o.words.getD k 0

/-- SRC. -/
def DmaOp.src (o : DmaOp) : Nat := bits (o.w 0) 47 0

/-- DST. -/
def DmaOp.dst (o : DmaOp) : Nat := bits (o.w 1) 47 0

/-- Rows or elements: RECT and GATHER have several, the others one. -/
def DmaOp.count (o : DmaOp) : Nat := if o.op = 2 ∨ o.op = 3 then bits (o.w 3) 31 0 else 1

/-- Bytes of a row, of an element, or of the whole. -/
def DmaOp.size (o : DmaOp) : Nat := if o.op = 2 ∨ o.op = 3 then bits (o.w 2) 31 0 else bits (o.w 2) 39 0

/-- Bytes that the descriptor moves or compares. -/
def DmaOp.total (o : DmaOp) : Nat := o.count * o.size

/-- An extent that DMA may read (Table 7-4, R448): shared banks that are ON, strip memories, control blocks, the Sump
table, DRAM in service, host memory. -/
def dmaReads (s : State) (a n : Nat) : Bool :=
  s.inBanksOn a n || decide (0x10000000 ≤ a ∧ a + n ≤ 0x10000000 + 72 * 0x100000) || decide (0x20000000 ≤ a ∧ a + n ≤ 0x20400000) ||
    decide (0x21000000 ≤ a ∧ a + n ≤ 0x21020000) || s.inDram a n || decide (hostBase ≤ a ∧ a + n ≤ 2 ^ 48)

/-- Source address of row or element k; `none` for a fill. A gather's offset is read from its table (R464). -/
def DmaOp.from_ (s : State) (o : DmaOp) (k : Nat) : Nat :=
  match o.op with
  | 2 => o.src + k * bits (o.w 4) 63 32
  | 3 => o.src + (s.read64 ((bits (o.w 4) 47 0 + 4 * k) / 8 * 8)).toNat / 2 ^ (32 * (k % 2)) % 2 ^ 32 * o.size
  | _ => o.src

/-- Destination address of row or element k. -/
def DmaOp.to (o : DmaOp) (k : Nat) : Nat :=
  match o.op with
  | 2 => o.dst + k * bits (o.w 4) 31 0
  | 3 => o.dst + k * o.size
  | _ => o.dst

/-- Rows of a RECT all lie in permitted extents: the first and the last bound them. -/
def rowsIn (f : Nat → Nat → Bool) (base pitch n size : Nat) : Bool := (List.range n).all fun k => f (base + k * pitch) size

/-- The checks of R464 and R465 before a descriptor starts. -/
def DmaOp.valid (s : State) (o : DmaOp) : Bool :=
  let dto := bits (o.w 5) 31 0
  let n := o.count
  let z := o.size
  let al := fun v => v % 8 == 0
  let dst := fun a z => if o.op = 5 then dmaReads s a z else s.canPut a z
  (dto == 0 || inRange dto 100 10000000) && decide (1 ≤ n ∧ 8 ≤ z) && al z && al o.dst && (o.op == 4 || al o.src) &&
    match o.op with
    | 2 => al (bits (o.w 4) 63 32) && al (bits (o.w 4) 31 0) && rowsIn (dmaReads s) o.src (bits (o.w 4) 63 32) n z &&
        rowsIn dst o.dst (bits (o.w 4) 31 0) n z
    | 3 => decide (z ≤ 65536) && al (bits (o.w 4) 47 0) && dmaReads s (bits (o.w 4) 47 0) (4 * n) && dst o.dst (n * z)
    | 4 => dst o.dst z
    | _ => dmaReads s o.src z && dst o.dst z

/-! ### Start (R465, R466) -/

/-- The long operation of a channel whose payload stands at an address completes with a status. -/
def dmaEnd (c : Nat) (o : DmaOp) (st : Nat) (s : State) : State :=
  let ls := markDone (fun l => l.unit == 0xE && l.op == o.op && l.inst == c && l.addr == o.addr) st s.seq.longs
  if o.long then { s with seq := { s.seq with longs := ls } } else s

/-- DMA_DESCRIPTOR_START: an idle channel takes its next operation. A descriptor that fails a check completes with
BOUNDS_INVALID and nothing moves; another starts, HALF and FULL cleared; a fence starts as everything before it has
completed (R465, R466, R469). -/
def execDmaDescriptorStart (c : Nat) (s : State) : Out :=
  within c 16 <|
    let e := s.dmaOf c
    match e.cur, e.queue with
    | none, o :: os =>
      if o.op = 6 then ok (s.setDma c { queue := os, cur := some o })
      else if !o.valid s then ok (dmaEnd c o stBOUNDS (s.setDma c { queue := os, cur := none }))
      else ok ((s.setDma c { queue := os, cur := some o }).wrAll c [(Reg.Dma.HALF, 0), (Reg.Dma.FULL, 0), (Reg.Dma.DONE, 0)])
    | _, _ => ok s

/-! ### Moves (R464, R466, R467, R468) -/

/-- What a descriptor has come to. -/
structure Moved where
  /-- The state. -/
  s : State
  /-- DONE. -/
  done : Nat := 0
  /-- MISWORDS. -/
  mis : Nat := 0
  /-- FIRSTMIS. -/
  first : Nat := 0
  /-- DRESULT, once the descriptor has stopped. -/
  stop : Option Nat := none

/-- Move or compare one 8-byte word, unless the descriptor has stopped. A poisoned source stops it with ECC (R458). -/
def dmaWord (o : DmaOp) (src dst : Nat) (m : Moved) : Moved :=
  if m.stop.isSome then m
  else if o.op ≠ 4 ∧ (m.s.poisoned src 8 ∨ (o.op = 5 ∧ m.s.poisoned dst 8)) then { m with stop := some 2 }
  else if o.op = 5 then
    let eq := m.s.read64 src == m.s.read64 dst
    { m with done := m.done + 8, mis := min (m.mis + b2n (!eq)) 16777215, first := if !eq ∧ m.mis = 0 then m.done else m.first }
  else { m with s := m.s.write64 dst (if o.op = 4 then o.w 0 else m.s.read64 src), done := m.done + 8 }

/-- A gather's table entry for element k reads as poisoned (R458). -/
def DmaOp.tablePoisoned (s : State) (o : DmaOp) (k : Nat) : Bool := o.op == 3 && s.poisoned (bits (o.w 4) 47 0 + 4 * k) 4

/-- Move row or element k, up to `limit` bytes of the descriptor in all; an element of a gather outside the permitted
regions stops it with ADDR (R465), and a poisoned table entry with ECC (R458). -/
def dmaRow (o : DmaOp) (limit k : Nat) (m : Moved) : Moved :=
  if m.stop.isSome then m
  else
    let src := o.from_ m.s k
    let n := min o.size (limit - m.done)
    if n = 0 then m
    else if o.tablePoisoned m.s k then { m with stop := some 2 }
    else if o.op = 3 ∧ !dmaReads m.s src o.size then { m with stop := some 1 }
    else
      let m := (List.range (n / 8)).foldl (fun m i => dmaWord o (src + 8 * i) (o.to k + 8 * i) m) m
      let whole := if o.op = 5 then m.s else unpoison (o.to k) n m.s
      let s := if o.op = 4 then whole else whole.traffic false src n
      { m with s := if o.op = 5 then s else s.traffic true (o.to k) n }

/-- Move a descriptor's first `limit` bytes. -/
def dmaMove (o : DmaOp) (limit : Nat) (s : State) : Moved :=
  (List.range o.count).foldl (fun m k => dmaRow o limit k m) { s := s }

/-- HALF: DONE has reached half of the total, rounded up to a multiple of 8 (R466). -/
def dmaHalf (c total : Nat) (s : State) : State :=
  if !s.on Reg.Dma.HALF c && decide (roundUp 8 ((total + 1) / 2) ≤ s.rd Reg.Dma.DONE c) then (s.wr Reg.Dma.HALF c 1).emit (416 + c) else s

/-- A descriptor completes: results into its words 6 and 7 and the block, HALF before FULL, both tokens, counters
(R463, R466, R468, Table 14-9). -/
def dmaFinish (c : Nat) (o : DmaOp) (m : Moved) (result : Nat) (s : State) : State :=
  let s := s.writeWords (o.addr + 48) [fld m.done 40 0 ||| fld m.mis 24 40, fld m.first 40 24 ||| fld result 8 0]
  let s := s.wrAll c [(Reg.Dma.DONE, m.done), (Reg.Dma.DRESULT, result)]
  let s := if o.op = 5 then s.wr Reg.Dma.FIRSTMIS c m.first else s
  let s := (s.wrap Reg.Dma.DESCCNT c 1).sat Reg.Dma.ERRCNT c (b2n (result == 1 || result == 2 || result == 5))
  let s := s.sat Reg.Dma.MISCNT c (b2n (result == 4))
  let s := ((s.evt 0xE c 0x40).evt 0xE c 0x41 (m.done / 64)).setDma c { s.dmaOf c with cur := none }
  dmaEnd c o stOK (((dmaHalf c o.total s).wr Reg.Dma.FULL c 1).emit (432 + c))

/-- Source address of the byte at offset d of a descriptor's moves. -/
def DmaOp.srcAt (s : State) (o : DmaOp) (d : Nat) : Nat := o.from_ s (d / max 1 o.size) + d % max 1 o.size

/-- What ends a descriptor early at its source: an uncorrectable ECC error met at an offset in DRAM (2), or an error
response of the host at an offset in host memory (5). -/
def dmaStop (o : DmaOp) (d code : Nat) (s : State) : Bool :=
  let a := o.srcAt s d
  o.op != 4 && decide (d < o.total) && ((code == 2 && s.inDram a 8) || (code == 5 && decide (hostBase ≤ a)))

/-- DMA_DESCRIPTOR_COMPLETE: the running descriptor's last write leaves the engine. `stop` names an offset at which a
read met an uncorrectable ECC error (2) or an error response of the host (5), and then the descriptor ends there. -/
def execDmaDescriptorComplete (c : Nat) (stop : Option (Nat × Nat)) (s : State) : Out :=
  within c 16 <|
    match (s.dmaOf c).cur with
    | some o =>
      if o.op = 6 then ok s
      else
        match stop.filter fun e => dmaStop o (e.1 / 8 * 8) e.2 s with
        | some (d, code) =>
          let m := dmaMove o (d / 8 * 8) s
          let s := if code = 2 ∧ m.stop.isNone then m.s.eccError (o.srcAt s (d / 8 * 8)) 2 else m.s
          ok (dmaFinish c o m (m.stop.getD code) s)
        | none =>
          let m := dmaMove o o.total s
          ok (dmaFinish c o m (m.stop.getD (if o.op = 5 ∧ m.mis ≠ 0 then 4 else 0)) m.s)
    | none => ok s

/-- DMA_TIMEOUT: no write accepted and no read answered for DTO. The bytes after the first `n` stay unmoved, a Sump note
of SKIND 0x30 goes out and TOCNT counts (R467). A descriptor has no tag: TAG0 and TAG1 of the note are free values (log entry
3). -/
def execDmaTimeout (c n : Nat) (s : State) : Out :=
  within c 16 <|
    match (s.dmaOf c).cur with
    | some o =>
      if o.op = 6 then ok s
      else
        let m := dmaMove o (min (n / 8 * 8) (o.total - 8)) s
        let t := dmaFinish c o m (m.stop.getD 3) m.s
        if m.stop.isSome then ok t
        else
          let f := t.fresh.1
          ok ((t.sat Reg.Dma.TOCNT c 1).fresh.2.note (0x40 + c) 0x30 (Tag.ofWords (f.extractLsb' 64 64) (f.setWidth 64)))
    | none => ok s

/-- DMA_FENCE_COMPLETE: every DRAM write of the channel's earlier operations can be read by every source (R469). -/
def execDmaFenceComplete (c : Nat) (s : State) : Out :=
  within c 16 <|
    match (s.dmaOf c).cur with
    | some o => if o.op = 6 then ok (dmaEnd c o stOK (s.setDma c { s.dmaOf c with cur := none })) else ok s
    | none => ok s

/-- DMA.CNTCLR of one channel. -/
def dmaCntOne (c : Nat) (s : State) : State := s.clr c [Reg.Dma.DESCCNT, Reg.Dma.TOCNT, Reg.Dma.ERRCNT, Reg.Dma.MISCNT]

/-- DMA.EVCLR of one channel: cause bit 1 is HALF, bit 0 FULL (R466). -/
def dmaEvOne (arg c : Nat) (s : State) : State :=
  let s := if arg.testBit 1 then s.wr Reg.Dma.HALF c 0 else s
  if arg.testBit 0 then s.wr Reg.Dma.FULL c 0 else s

end Sys2Proof.Machine
end

