-- ==== Sys2Proof/Machine/Banks.lean ====
section
/-!
DEFINITION. The shared banks (MEM) and DRAM channels (DMC) as software sees them (R445 to R460).
-/
namespace Sys2Proof.Machine

/-! ### Shared banks -/

/-- MEM.MODE: ARG[0] 0 OLD, 1 BUSY (R446). -/
def execMemMode (x : XWord) (s : State) : Out :=
  direct 0xF 1 256 x (fun a s => .ok (s.wr Reg.Mem.MODE a.i (a.arg % 2))) s

/-- MEM.POWER: a bank goes ON, RETAIN or OFF. A bank that goes OFF loses its contents: they are free values from then on
(R448, log entry 3). BUSY for a bank that holds an elastic buffer, the row store, a mirror image or a journal (R305). -/
def execMemPower (x : XWord) (s : State) : Out :=
  direct 0xF 2 256 x (fun a s =>
    let p := a.arg % 4
    if p = 3 then .error stBOUNDS
    else if inRange (s.rd Reg.Mem.USE a.i) 1 3 then .error stBUSY
    else
      let t := s.wrAll a.i [(Reg.Mem.POWER, p), (Reg.Mem.PSTATE, p)]
      .ok (if p = 2 ∧ s.rd Reg.Mem.PSTATE a.i ≠ 2 then scramble (a.i * 0x80000) 512 t else t)) s

/-- MEM.ROWSTORE: names the banks of the row store; HEAD_BUSY comes before the map is looked at (R450). -/
def execMemRowstore (x : XWord) (s : State) : Out :=
  xop 0xF 3 x (fun a s =>
    let m := (a.w 0).toNat
    let use := fun k => s.rd Reg.Mem.USE k
    if (List.range 32).any s.running then .no stHEADBUSY s
    else if m = 0 ∨ (List.range 64).any (fun k => m.testBit k && (use k == 3 || use k == 4)) then .no stBOUNDS s
    else
      let s := s.wr Reg.Mem.ROWSTORE 0 m
      .fin stOK ((List.range 64).foldl (fun t k =>
        if m.testBit k then t.wr Reg.Mem.USE k 2 else if use k = 2 then t.wr Reg.Mem.USE k 0 else t) s)) s

/-- BANK_BUSY_RETRY: requester r retries an access to bank n that received a busy response, as a bank in MODE BUSY gives
to the later of two accesses (R446, R447). -/
def execBankBusyRetry (r n : Nat) (s : State) : Out :=
  within r 102 <| within n 256 <|
    if s.on Reg.Mem.MODE n && s.bankOn n then ok ((s.sat Reg.Mem.BUSYCNT r 1).evt 0xF 0 0x41) else ok s

/-- MEM.CNTCLR: the counters of a requester. -/
def memCntOne (r : Nat) (s : State) : State := s.clr r [Reg.Mem.CONFCNT, Reg.Mem.BUSYCNT]

/-! ### DRAM channels -/

/-- Fields of channel words 0x00 to 0x17. -/
def dmcFields : List Field :=
  [Reg.Dmc.SPEED, Reg.Dmc.DIMMS, Reg.Dmc.RANKS, Reg.Dmc.DEVW, Reg.Dmc.DENS, Reg.Dmc.TCL, Reg.Dmc.TRCD, Reg.Dmc.TRP, Reg.Dmc.TRAS,
   Reg.Dmc.TRFC, Reg.Dmc.TREFI, Reg.Dmc.SPAREEN, Reg.Dmc.SPARERANK, Reg.Dmc.MIGSHARE, Reg.Dmc.RTINT, Reg.Dmc.DEYEMIN]

/-- A channel may be set up or trained: it is OFF or FAILED (R455, Table 8-10). -/
def dmcOpen (s : State) (c : Nat) : Bool := s.rd Reg.Dmc.CHSTATE c == 0 || s.rd Reg.Dmc.CHSTATE c == 3

/-- DMC.CFG: writes a channel block before training (R460, Table 14-6). -/
def execDmcCfg (x : XWord) (s : State) : Out :=
  blockOp 0xD 1 8 x 0x200d0000 3 dmcFields
    (fun a s => if dmcOpen s a.i then none else some stBUSY)
    (fun f _ _ => decide (f Reg.Dmc.SPEED ≤ 4 ∧ f Reg.Dmc.DIMMS ≤ 2 ∧ f Reg.Dmc.DENS ≤ 2 ∧ f Reg.Dmc.RANKS ≤ 4) &&
      (f Reg.Dmc.DIMMS == 0 || f Reg.Dmc.RANKS != 0) && inRange (f Reg.Dmc.MIGSHARE) 1 255 && inRange (f Reg.Dmc.RTINT) 10 10000 &&
      (f Reg.Dmc.SPAREEN == 0 || decide (f Reg.Dmc.SPARERANK < f Reg.Dmc.RANKS)))
    (fun _ _ t => t) s

/-- DMC.TRAIN: asks for a training grant (R455, R556). -/
def execDmcTrain (x : XWord) (s : State) : Out :=
  xop 0xD 2 x (fun a s =>
    if 8 ≤ a.i ∨ !s.on Reg.Dmc.DIMMS a.i then .no stBOUNDS s
    else if !dmcOpen s a.i then .no stBUSY s
    else .start ((s.wr Reg.Dmc.CHSTATE a.i 1).request 1 a.i 2250)) s

/-- DRAM_TRAINING_START: the grant starts step 1 of Table 14-4. -/
def execDramTrainingStart (c : Nat) (s : State) : Out :=
  within c 8 <|
    if s.rd Reg.Dmc.CHSTATE c = 1 ∧ s.granted 1 c then ok (s.setDram c { s.dram c with training := true }) else ok s

/-- DRAM_TRAINING_END: step 7 with the eyes that training found, per byte lane: READY where the narrowest reaches
DEYEMIN, else FAILED, the grant returned. The operation completes OK either way (R455). -/
def execDramTrainingEnd (c : Nat) (eyes : List Nat) (s : State) : Out :=
  within c 8 <|
    if !(s.dram c).training then ok s
    else
      let ws := (List.range 10).map fun k => eyes.getD k 0 % 256
      let low := ws.foldl min 255
      let good := decide (s.rd Reg.Dmc.DEYEMIN c ≤ low)
      let s := s.setDram c { s.dram c with training := false }
      let s := ws.zipIdx.foldl (fun t e => t.wr2 Reg.Dmc.EYEW c e.2 e.1) s
      let s := s.wrAll c [(Reg.Dmc.EYEMIN, low), (Reg.Dmc.CHSTATE, if good then 2 else 3)]
      ok ((if good then s else s.release 1 c).complete 0xD 2 c stOK)

/-- The masks of a DMC.XORMAP payload: channel, bank group, bank. -/
def mapMasks (a : XArgs) : List Nat := ((List.range 8).map fun k => bits (a.w k) 39 0).filter (· != 0)

/-- Capacity of the populated channels, less held spares. -/
def capacity (s : State) : Nat := ((List.range 8).map fun c => if s.on Reg.Dmc.DIMMS c then channelBytes s c else 0).sum

/-- The checks of R454. An offset that reaches the capacity must have every pivot among its bits (log entry 38). -/
def mapOk (a : XArgs) (s : State) : Bool :=
  let ms := mapMasks a
  let ps := ms.map pivot
  let chans := (((List.range 3).map fun k => bits (a.w k) 39 0).filter (· != 0)).length
  (ms.all fun m => m % 64 == 0) && decide ps.Nodup &&
    (ms.all fun m => ps.all fun p => p == pivot m || !m.testBit p) && 2 ^ chans == populated s &&
    decide (capacity s ≤ 2 ^ 40) && ps.all fun p => decide (2 ^ p < capacity s)

/-- DMC.XORMAP: sets the channel, bank-group and bank masks (R454). -/
def execDmcXormap (x : XWord) (s : State) : Out :=
  xop 0xD 3 x (fun a s =>
    if (List.range 8).any s.channelUp then .no stBUSY s
    else if !mapOk a s then .no stBOUNDS s
    else
      let s := (List.range 3).foldl (fun t k => t.wr2 Reg.DmcGlobal.CHX 0 k (bits (a.w k) 39 0)) s
      let s := (List.range 3).foldl (fun t k => t.wr2 Reg.DmcGlobal.BG 0 k (bits (a.w (3 + k)) 39 0)) s
      .fin stOK ((List.range 2).foldl (fun t k => t.wr2 Reg.DmcGlobal.BA 0 k (bits (a.w (6 + k)) 39 0)) s)) s

/-- DMC.SPARE: names the spare rank in ARG[1:0] before training (R459, log entry 39). -/
def execDmcSpare (x : XWord) (s : State) : Out :=
  direct 0xD 4 8 x (fun a s =>
    if !dmcOpen s a.i then .error stBUSY
    else if s.rd Reg.Dmc.RANKS a.i ≤ a.arg ∨ !s.on Reg.Dmc.DIMMS a.i then .error stBOUNDS
    else .ok (s.wrAll a.i [(Reg.Dmc.SPAREEN, 1), (Reg.Dmc.SPARERANK, a.arg)])) s

/-- DMC.RETIRE: retirement of the rank in ARG; BUSY on a channel out of service (R459, log entry 39). -/
def execDmcRetire (x : XWord) (s : State) : Out :=
  xop 0xD 5 x (fun a s =>
    if 8 ≤ a.i ∨ s.rd Reg.Dmc.RANKS a.i ≤ a.arg then .no stBOUNDS s
    else if !s.channelUp a.i then .no stBUSY s
    else if (s.on Reg.Dmc.SPAREEN a.i && !spareUsed s a.i) || (s.dram a.i).cur.isSome then .start (retireRank a.i a.arg true s)
    else .fin stOK (s.wr Reg.Dmc.CHSTATE a.i 5)) s

/-- DRAM_PARITY_ERROR: the command is retried once and the rank's retirement starts (R459). -/
def execDramParityError (c rank : Nat) (s : State) : Out :=
  within c 8 <|
    if !s.channelUp c || decide (s.rd Reg.Dmc.RANKS c ≤ rank) then ok s
    else ok (retireRank c rank false (s.sat Reg.Dmc.PARCNT c 1))

/-- The compare of a retirement takes a channel if it has none. -/
def takeCompare (r : Retire) (s : State) : Retire × State :=
  if r.dma.isSome then (r, s)
  else match takeDma 3 s with
    | some (k, t) => ({ r with dma := some k }, t)
    | none => (r, s)

/-- RANK_MIGRATION_DONE: the copy of a pass has ended; the compare takes a DMA channel, or waits for one (R459, R461). -/
def execRankMigrationDone (c : Nat) (s : State) : Out :=
  within c 8 <|
    match (s.dram c).cur with
    | some r =>
      if r.comparing then ok s
      else
        let (r, s) := takeCompare { r with comparing := true } (s.wr Reg.Dmc.MIGPCT c 100)
        ok (s.setDram c { s.dram c with cur := some r })
    | none => ok s

/-- RANK_VERIFY_DONE: the compare ends. Clean: remap, RETIRED, READY. Mismatches: another pass, or after three
RANKFAULT. While it has no channel it takes one, and the compare runs from then on (R459, R461). -/
def execRankVerifyDone (c : Nat) (clean : Bool) (s : State) : Out :=
  within c 8 <|
    match (s.dram c).cur with
    | some r =>
      if !r.comparing then ok s
      else if r.dma.isNone then
        let (r, s) := takeCompare r s
        ok (s.setDram c { s.dram c with cur := some r })
      else if clean then
        let s := giveDma r.dma (s.setDram c { s.dram c with cur := none })
        let s := s.wr Reg.Dmc.RETIRED c (setBit (s.rd Reg.Dmc.RETIRED c) r.rank)
        ok (nextRetire c (s.dram c).queue (endRetire c 2 r.long s))
      else if r.pass < 3 then
        ok (s.setDram c { s.dram c with cur := some { r with pass := r.pass + 1, comparing := false } })
      else
        let s := giveDma r.dma (s.setDram c { s.dram c with cur := none })
        ok (nextRetire c (s.dram c).queue (endRetire c 5 r.long s))
    | none => ok s

/-- DMC.CNTCLR of one channel. -/
def dmcCntOne (c : Nat) (s : State) : State := s.clr c [Reg.Dmc.CECNT, Reg.Dmc.UECNT, Reg.Dmc.PARCNT, Reg.Dmc.RTCNT]

end Sys2Proof.Machine
end

