-- ==== Sys2Proof/Machine/Crypto.lean ====
section
/-!
DEFINITION. SHA-384 of FIPS 180-4 and ECDSA over P-384 of FIPS 186-5, which image verification and lifecycle transitions
use (R570, R573).
-/
namespace Sys2Proof.Machine

/-! ### SHA-384 -/

/-- The largest r below 2^n whose e-th power does not exceed x, found bit by bit from the top. -/
def rootBelow (e x : Nat) : Nat → Nat → Nat
  | 0, r => r
  | n + 1, r => rootBelow e x n (if (r + 2 ^ n) ^ e ≤ x then r + 2 ^ n else r)

/-- The first 64 bits of the fractional part of the e-th root of p. -/
def rootWord (e p : Nat) : Word := BitVec.ofNat 64 (rootBelow e (p * 2 ^ (64 * e)) 72 0)

/-- The first 80 primes, 2 to 409. -/
def shaPrimes : List Nat :=
  (List.range 410).filter fun p => decide (2 ≤ p) && (List.range p).all fun d => decide (d < 2) || p % d != 0

/-- The constants of the 80 rounds: the cube roots of the primes. -/
def shaConsts : List Word := shaPrimes.map (rootWord 3)

/-- The working variables as the two recurrences that they are: the last four values of a (a, b, c, d) and the last four
of e (e, f, g, h), newest first. -/
structure ShaState where
  /-- a, b, c, d. -/
  a : List Word := []
  /-- e, f, g, h. -/
  e : List Word := []
  deriving DecidableEq, Repr

/-- The hash value of SHA-384 before the first block: the square roots of the 9th to the 16th prime. -/
def shaStart : ShaState :=
  let roots := ((shaPrimes.drop 8).take 8).map (rootWord 2)
  { a := roots.take 4, e := roots.drop 4 }

/-- The sum modulo 2 of x turned right by each of the amounts. -/
def turned (x : Word) (by_ : List Nat) : Word := by_.foldl (fun acc n => acc ^^^ x.rotateRight n) 0

/-- The schedule word 16 places on, from a window of the schedule, oldest first. -/
def shaExtend (win : List Word) : Word :=
  let old := win.getD 1 0
  let recent := win.getD 14 0
  win.headD 0 + win.getD 9 0 + (turned old [1, 8] ^^^ (old >>> 7)) + (turned recent [19, 61] ^^^ (recent >>> 6))

/-- A round, for the sum kw of its constant and its schedule word: each recurrence gets its next value and forgets its
oldest. -/
def shaRound (x : ShaState) (kw : Word) : ShaState :=
  let at_ := fun (l : List Word) k => l.getD k 0
  let choose := at_ x.e 2 ^^^ (at_ x.e 0 &&& (at_ x.e 1 ^^^ at_ x.e 2))
  let majority := (at_ x.a 0 &&& (at_ x.a 1 ||| at_ x.a 2)) ||| (at_ x.a 1 &&& at_ x.a 2)
  let sum := kw + at_ x.e 3 + choose + turned (at_ x.e 0) [14, 18, 41]
  { a := (sum + majority + turned (at_ x.a 0) [28, 34, 39]) :: x.a.take 3, e := (sum + at_ x.a 3) :: x.e.take 3 }

/-- All rounds: the schedule is a window of 16 words that moves on by one word a round. -/
def shaRounds : List Word → List Word → ShaState → ShaState
  | [], _, x => x
  | k :: rest, win, x => shaRounds rest (win.tail ++ [shaExtend win]) (shaRound x (k + win.headD 0))

/-- A number from bytes, highest first. -/
def bigEndian (bs : List Byte) : Nat := bs.foldl (fun x b => 256 * x + b.toNat) 0

/-- The n bytes of a number, highest first. -/
def bigBytes (n x : Nat) : List Byte := ((List.range n).map fun k => BitVec.ofNat 8 (x / 256 ^ k)).reverse

/-- The hash value after one more block of 128 bytes. -/
def shaBlock (x : ShaState) (block : List Byte) : ShaState :=
  let win := (List.range 16).map fun k => BitVec.ofNat 64 (bigEndian ((block.drop (8 * k)).take 8))
  let y := shaRounds shaConsts win x
  { a := x.a.zipWith (· + ·) y.a, e := x.e.zipWith (· + ·) y.e }

/-- The hash value after n more blocks. -/
def shaBlocks : Nat → List Byte → ShaState → ShaState
  | 0, _, x => x
  | n + 1, m, x => shaBlocks n (m.drop 128) (shaBlock x (m.take 128))

/-- What is appended to a message of n bytes: a one bit, zeros to 16 bytes short of a block, and the length in bits. -/
def shaPad (n : Nat) : List Byte := (0x80 : Byte) :: List.replicate ((239 - n % 128) % 128) 0 ++ bigBytes 16 (8 * n)

/-- SHA-384 of a message: the first 48 of the 64 bytes of the last hash value. -/
def sha384 (m : List Byte) : List Byte :=
  let p := m ++ shaPad m.length
  let x := shaBlocks (p.length / 128) p shaStart
  (x.a ++ x.e.take 2).flatMap fun w => bigBytes 8 w.toNat

/-! ### P-384 -/

/-- The field prime. -/
def p384 : Nat := 2 ^ 384 - 2 ^ 128 - 2 ^ 96 + 2 ^ 32 - 1

/-- The order of the base point. -/
def n384 : Nat :=
  0xFFFFFFFFFFFFFFFFFFFFFFFFFFFFFFFFFFFFFFFFFFFFFFFFC7634D81F4372DDF581A0DB248B0A77AECEC196ACCC52973

/-- The coefficient b of the curve y² = x³ − 3x + b. -/
def b384 : Nat :=
  0xB3312FA7E23EE7E4988E056BE3F82D19181D9C6EFE8141120314088F5013875AC656398D8A2ED19D2A85C8EDD3EC2AEF

/-- A point: none is the point at infinity. -/
abbrev Point := Option (Nat × Nat)

/-- The base point. -/
def g384 : Point :=
  some (0xAA87CA22BE8B05378EB1C71EF320AD746E1D3B628BA79B9859F741E082542A385502F25DBF55296C3A545E3872760AB7,
        0x3617DE4A96262C6F5D9E98BF9292DC29F8F41DBD289A147CE9DA3113B5F0B8C00A60B1CE1D7E819D7A431D7C90EA0E5F)

/-- a to the power e modulo m; `n` bits of e. -/
def powMod (m : Nat) : Nat → Nat → Nat → Nat
  | 0, _, _ => 1 % m
  | n + 1, a, e =>
    let q := powMod m n (a * a % m) (e / 2)
    if e % 2 = 1 then a * q % m else q

/-- The inverse modulo a prime. -/
def invMod (m a : Nat) : Nat := powMod m 384 (a % m) (m - 2)

/-- a − b modulo m. -/
def subMod (m a b : Nat) : Nat := (a + m - b % m) % m

/-- A point of the curve in the field's range. -/
def onCurve (q : Nat × Nat) : Bool :=
  decide (q.1 < p384 ∧ q.2 < p384) && q.2 * q.2 % p384 == subMod p384 (q.1 * q.1 * q.1 + b384) (3 * q.1)

/-- The chord or tangent of slope l through two points. -/
def pointBy (l x1 y1 x2 : Nat) : Point :=
  let x := subMod p384 (l * l) (x1 + x2)
  some (x, subMod p384 (l * subMod p384 x1 x) y1)

/-- The sum of two points. -/
def pointAdd : Point → Point → Point
  | none, q => q
  | p, none => p
  | some (x1, y1), some (x2, y2) =>
    if x1 = x2 then
      if (y1 + y2) % p384 = 0 then none
      else pointBy (subMod p384 (3 * x1 * x1) 3 * invMod p384 (2 * y1) % p384) x1 y1 x2
    else pointBy (subMod p384 y2 y1 * invMod p384 (subMod p384 x2 x1) % p384) x1 y1 x2

/-- k times a point; `n` bits of k. -/
def pointMul : Nat → Nat → Point → Point
  | 0, _, _ => none
  | n + 1, k, q =>
    let r := pointMul n (k / 2) (pointAdd q q)
    if k % 2 = 1 then pointAdd q r else r

/-- r and s of a signature lie in range. -/
def sigRange (r s : Nat) : Bool := decide (1 ≤ r ∧ r < n384 ∧ 1 ≤ s ∧ s < n384)

/-- ECDSA verification of a digest under a public key. -/
def ecdsaVerify (key : Nat × Nat) (e r s : Nat) : Bool :=
  sigRange r s && onCurve key &&
    (let w := invMod n384 s
     match pointAdd (pointMul 384 (e * w % n384) g384) (pointMul 384 (r * w % n384) (some key)) with
     | none => false
     | some q => q.1 % n384 == r)

/-- The points of an x coordinate. -/
def pointsAt (x : Nat) : List (Nat × Nat) :=
  let y := powMod p384 384 (subMod p384 (x * x * x + b384) (3 * x)) ((p384 + 1) / 4)
  ([(x, y), (x, subMod p384 0 y)]).filter onCurve

/-- The public keys under which (r, s) is a signature of a digest. -/
def signersOf (e r s : Nat) : List (Nat × Nat) :=
  if !sigRange r s then []
  else
    let w := invMod n384 r
    (([r, r + n384].filter fun x => decide (x < p384)).flatMap pointsAt).filterMap fun q =>
      pointAdd (pointMul 384 (s * w % n384) (some q)) (pointMul 384 (subMod n384 0 (e * w)) g384)

/-- The 96 bytes of a public key: X then Y, big-endian. -/
def keyBytes (q : Nat × Nat) : List Byte := bigBytes 48 q.1 ++ bigBytes 48 q.2

end Sys2Proof.Machine
end

