-- ==== Sys2Proof/Machine/Reset.lean ====
section
/-!
DEFINITION. Resets of the device and what outlasts them (R3, R478, R566), entry into Ember with what stays powered
(R564, R592, R607), and the phases of Kindling that resets start from.
-/
namespace Sys2Proof.Machine

/-- The secure bank. -/
def secureAddr (a : Nat) : Bool := decide (0x30000000 ≤ a ∧ a < 0x30040000)

/-- Host memory, which is no part of the device. -/
def hostAddr (a : Nat) : Bool := decide (hostBase ≤ a)

/-- DRAM. -/
def dramAddr (a : Nat) : Bool := decide (dramBase ≤ a ∧ a < 2 * dramBase)

/-- Register words that a core reset leaves: the raw counter, DIPWP with the dip records, and the fuses' key hashes
(R519, R566, Table 18-10). -/
def heldWord (a : Nat) : Bool :=
  a == 0x20120020 || a == 0x20150020 || decide (0x20150200 ≤ a ∧ a < 0x20150400) || decide (0x20180020 ≤ a ∧ a < 0x201800E0)

/-- The fuses' fields, kept through every reset (R572, R573). -/
def keepFuses (old s : State) : State :=
  s.wrAll 0 [(Reg.Slc.LCSTATE, old.rd Reg.Slc.LCSTATE 0), (Reg.Slc.REVOKED, old.rd Reg.Slc.REVOKED 0),
    (Reg.Slc.VERMIN, old.rd Reg.Slc.VERMIN 0)]

/-- While a tamper condition lasts, TAMPER is 1 and KERR reads 0x0B (R575). -/
def keepTamper (old s : State) : State :=
  if old.power.tamper then
    { s.wrAll 0 [(Reg.Slc.TAMPER, 1), (Reg.Slc.KERR, 0x0B)] with power := { s.power with tamper := true } }
  else s

/-- A core reset: every unit takes its reset state but for the raw counter, the secure bank, RSTCAUSE, the dip records and
the fuses; a reset that Tj holds stays held, with VCORE_EN low, through another (R563); SUPWARNR shows rails that are still below warning; host memory is no part of the device (R566). The queue of commands and the counter of free values are the
model's own. -/
def coreReset (cause : Nat) (s : State) : State :=
  let r : State := { State.reset with pending := s.pending, free := s.free, regs := Tbl.keep heldWord s.regs,
                                      mem := Tbl.keep (fun a => secureAddr a || hostAddr a) s.mem }
  let r := { r with seq := { r.seq with renewed := s.raw },
                    power := { r.power with dips := s.power.dips, hot := s.power.hot, vcoreEn := !s.power.hot } }
  keepTamper s (keepFuses s (r.wrAll 0 [(Reg.Pba.RSTCAUSE, cause), (Reg.Pba.SUPWARNR, s.rd Reg.Pba.SUPWARNR 0)]))

/-- VAUX power-on: everything, the raw counter included (R566). The fuses stay. -/
def powerOn (s : State) : State :=
  let r : State := { State.reset with pending := s.pending, free := s.free,
                                      regs := Tbl.keep (fun a => decide (0x20180020 ≤ a ∧ a < 0x201800E0)) s.regs,
                                      mem := Tbl.keep hostAddr s.mem }
  keepTamper s (keepFuses s (r.wr Reg.Pba.RSTCAUSE 0 1))

/-- KPHASE changes, and source 507 emits one token for the change (R570). -/
def setPhase (k : Nat) (s : State) : State :=
  if s.rd Reg.Slc.KPHASE 0 = k then s else (s.wr Reg.Slc.KPHASE 0 k).emit 507

/-! ### Ember (R564, R592) -/

/-- Registers that stay powered in Ember: PFU, DMC's retained settings, TNT, EVR, TWP, PBA, the temperature sensors of CAL,
SLC, the lanes' retained values and the two-wire targets (R95, R199, R564, R592, R607). -/
def auxWord (a : Nat) : Bool :=
  decide (0x20010000 ≤ a ∧ a < 0x20020000) || decide (0x20030000 ≤ a ∧ a < 0x20040000) || decide (0x200D0000 ≤ a ∧ a < 0x200E0000) ||
    decide (0x20120000 ≤ a ∧ a < 0x20160000) || decide (0x20160400 ≤ a ∧ a < 0x20160480) || decide (0x20180000 ≤ a ∧ a < 0x20190000) ||
    decide (0x1000100000000 ≤ a)

/-- A lane as Ember leaves it: COLD, with its retained equaliser and far-end values (R95, R564). -/
def coldLane (n : Nat) (s : State) : State :=
  if s.rd Reg.Lane.STATE n < 2 then s
  else s.wrAll n [(Reg.Lane.STATE, 1), (Reg.Lane.COLD, 1), (Reg.Lane.ASSIGNED, 0), (Reg.Lane.PRBSGEN, 0), (Reg.Lane.PRBSCHK, 0)]

/-- What Ember keeps of a lane beside its registers. -/
def emberLane (l : Lane) : Lane := { retained := l.retained, acked := l.acked }

/-- The core loses power: what VAUX keeps stays, and every other unit is as after reset (R564, log entry 43). Of the grants
those of DRAM channels stay held. -/
def coreOff (s : State) : State :=
  let r : State := { State.reset with
    pending := s.pending, free := s.free, regs := Tbl.keep auxWord s.regs,
    mem := Tbl.keep (fun a => secureAddr a || hostAddr a || dramAddr a) s.mem, poison := s.poison.filter dramAddr,
    enc := s.enc, ssi := s.ssi, probes := s.probes, divs := s.divs, web := s.web, pfuTick := s.pfuTick, tnt := s.tnt, evr := s.evr, tokens := s.tokens,
    tw := s.tw, power := s.power, dmc := s.dmc,
    damper := { held := s.damper.held.filter fun g => g.cls == 1 },
    lanes := (s.lanes.map fun l => (l.1, emberLane l.2)).filter fun l => l.2 != {} }
  let r := { r with seq := { r.seq with renewed := s.raw } }
  showGranted (setHeld ((List.range 256).foldl (fun s n => coldLane n s) r))

/-! ### Two-wire ports (R600) -/

/-- A two-wire port beside its block. -/
def State.twOf (s : State) (p : Nat) : TwState := Tbl.get (fun _ => {}) s.tw p

/-- Replace a port's state. -/
def State.setTw (s : State) (p : Nat) (t : TwState) : State := { s with tw := Tbl.set (fun _ => {}) s.tw p t }

/-- A regulator transaction. -/
def TwKind.isReg : TwKind → Bool
  | .xfer _ _ => false
  | _ => true

/-- The Damper's transaction on TW1 goes ahead of every TWP.XFER that has not started (R600). -/
def queueReg (k : TwKind) (s : State) : State :=
  let t := s.twOf 1
  let q := match t.queue with
    | [] => [k]
    | c :: cs => c :: (cs.filter TwKind.isReg ++ k :: cs.filter fun x => !x.isReg)
  s.setTw 1 { t with queue := q }

end Sys2Proof.Machine
end

