-- ==== Sys2Proof/Machine/Boot.lean ====
section
/-!
DEFINITION. Kindling and image verification, the retained image copy, the lifecycle, tamper and wipes of the secure bank
(R569 to R576).
-/
namespace Sys2Proof.Machine

/-! ### Images (R570, Table 18-7) -/

/-- A field of an image header of 128 words. -/
def hdr (h : List Word) (k hi lo : Nat) : Nat := bits (h.getD k 0) hi lo

/-- The digest of an image: SHA-384 of header bytes 0x000 to 0x07F and the body. -/
def imageDigest (h : List Word) (body : List Byte) : List Byte := sha384 (wordsBytes (h.take 16) ++ body)

/-- The two numbers of 48 big-endian bytes each in 12 words. -/
def bigPair (ws : List Word) : Nat × Nat := (bigEndian (wordsBytes (ws.take 6)), bigEndian (wordsBytes ((ws.drop 6).take 6)))

/-- KEYHASH of a slot, as bytes. -/
def keyHash (s : State) (slot : Nat) : List Byte :=
  (List.range 6).flatMap fun k => wordBytes 8 (BitVec.ofNat 64 (s.rd2 Reg.Slc.KEYHASH 0 (6 * slot + k)))

/-- A key slot has been revoked. -/
def revoked (s : State) (slot : Nat) : Bool := (s.rd Reg.Slc.REVOKED 0).testBit slot

/-- The checks of R570 in their order, as the lifecycle state limits them (Table 18-8): KERR of the first that fails, or 0. -/
def imageError (s : State) (h : List Word) (body : List Byte) : Nat :=
  let lc := s.rd Reg.Slc.LCSTATE 0
  let len := hdr h 1 31 0
  let load := hdr h 2 47 0
  let slot := hdr h 0 25 24
  if hdr h 0 15 0 ≠ 0x4B4E ∨ hdr h 0 23 16 ≠ 1 then 0x01
  else if len % 64 ≠ 0 ∨ 67107840 < len ∨ load % 64 ≠ 0 ∨ 0x8000000 < load + len then 0x02
  else if lc = 0x01 then 0
  else if sha384 (wordsBytes ((h.drop 16).take 12)) ≠ keyHash s slot then 0x03
  else if revoked s slot then 0x04
  else
    let sig := bigPair (h.drop 28)
    if !ecdsaVerify (bigPair (h.drop 16)) (bigEndian (imageDigest h body)) sig.1 sig.2 then 0x05
    else if lc = 0x04 ∧ hdr h 1 63 32 < s.rd Reg.Slc.VERMIN 0 then 0x06
    else 0

/-- Where the secure bank keeps the digest, the header and LENGTH of the running image (R570, log entry 44). -/
def digestAt : Nat := 0x30000000

/-- The header's place. -/
def headerAt : Nat := digestAt + 0x40

/-- LENGTH's place. -/
def lengthAt : Nat := headerAt + 0x400

/-- Row processors in service request their activation grants (Table 18-1). -/
def activate (s : State) : State :=
  (List.range 72).foldl (fun s u => if s.rd Reg.RpaDep.PSTATE u = 0 then s.request 3 u 1125 else s) s

/-- The control program starts at ENTRY with KPHASE RUNNING; TW0 stretches no more (R570, R576, R604). -/
def startProgram (s : State) : State :=
  let c := activeCore s
  let s := s.setProc c { s.proc c with pc := s.power.entry, pfx := none }
  let s := { s with seq := { s.seq with cur := some .program, base := s.power.load, codeLen := s.power.length / 8, xat := {}, xk := 0, xlog := [] } }
  let s := s.setTw 0 { s.twOf 0 with stretch := false }
  activate (setPhase 5 { s with power := { s.power with leaving := false } })

/-- An image's body lies at LOAD, and its program becomes the running one. -/
def runImage (h : List Word) (body : List Byte) (s : State) : State :=
  let s := s.fill (hdr h 2 47 0) body
  startProgram { s with power := { s.power with version := hdr h 1 63 32, load := hdr h 2 47 0, length := hdr h 1 31 0, entry := hdr h 4 15 0 } }

/-- A verified image starts: the secure bank takes digest, header and LENGTH, KCOPYOK clears and KIDENT is set (R570). -/
def acceptImage (h : List Word) (body : List Byte) (s : State) : State :=
  let s := (s.fill digestAt (imageDigest h body)).writeWords headerAt (h.take 128)
  let s := s.write64 lengthAt (BitVec.ofNat 64 (hdr h 1 31 0))
  let s := s.wrAll 0 [(Reg.Slc.KCOPYOK, 0), (Reg.Slc.KCOPYADR, hdr h 3 47 0), (Reg.Bar0.KIDENT, hdr h 0 63 32), (Reg.Slc.KERR, 0)]
  runImage h body s

/-- A load fails: KERR, and Kindling waits for the host (R570). -/
def bootFails (e : Nat) (s : State) : State := setPhase 2 (s.wr Reg.Slc.KERR 0 e)

/-- An image has been loaded: it is checked, and starts or fails. -/
def judgeImage (h : List Word) (body : List Byte) (s : State) : State :=
  match imageError s h body with
  | 0 => acceptImage h body s
  | e => bootFails e s

/-- KINDLING_START: after the release of core reset, Kindling reads the straps BOOTSEL and BOOTPORT (R569); it does not boot
while a tamper condition lasts, a rail is below warning or the thermal reset is held (R563, R575, R576). TW1 reads VOUT_MODE
as it leaves reset (R601). -/
def execKindlingStart (sel port : Nat) (s : State) : Out :=
  if s.rd Reg.Slc.KPHASE 0 ≠ 0 ∨ s.power.hot ∨ s.power.ember ∨ s.power.tamper ∨ s.rd Reg.Pba.SUPWARNR 0 ≠ 0 then ok s
  else
    let s := queueReg .voutMode s
    let s := setPhase 1 (s.wr Reg.Slc.KERR 0 0)
    if s.rd Reg.Slc.LCSTATE 0 = 0x10 then ok (setPhase 6 (s.wr Reg.Slc.KERR 0 0x0A))
    else match sel % 4 with
      | 1 => ok (setPhase 2 (s.wr Reg.Bar0.KSRC 0 1))
      | 2 => ok (setPhase 3 ((s.wr Reg.Bar0.KSRC 0 2).wr Reg.WlkPort.PSTATE (port % 4) 1))
      | _ => ok (setPhase 3 (s.wr Reg.Bar0.KSRC 0 0))

/-- BOOTDB_WRITE: in WAITHOST the host announces the length of the image that it has written into the shared banks, and
Kindling verifies it (R569). -/
def execBootdbWrite (_len : Nat) (s : State) : Out :=
  if s.rd Reg.Slc.KPHASE 0 ≠ 2 ∨ s.power.tamper then ok s
  else if s.rd Reg.Slc.LCSTATE 0 = 0x10 then ok (setPhase 6 (s.wr Reg.Slc.KERR 0 0x0A))
  else ok (setPhase 4 (s.wr Reg.Bar0.KSRC 0 1))

/-- All populated DRAM channels are READY, and there is one. -/
def dramReady (s : State) : Bool :=
  populated s != 0 && ((List.range 8).all fun c => !s.on Reg.Dmc.DIMMS c || s.rd Reg.Dmc.CHSTATE c == 2)

/-- Exit from Ember, step 3: the retained image loads when KCOPYOK was 1 at entry, DRAM is READY and its digest is that of
the secure bank; otherwise Kindling boots from the BOOTSEL source as on power-up (R565). -/
def reloadImage (s : State) : State :=
  let a := s.rd Reg.Slc.KCOPYADR 0
  let h := s.readWords a 128
  let n := hdr h 1 31 0
  if s.power.hadCopy && dramReady s && s.inDram a (1024 + n) && !s.poisoned a (1024 + n) &&
      imageDigest h (s.readBytes (a + 1024) n) == s.readBytes digestAt 48 then
    runImage h (s.readBytes (a + 1024) n) s
  else setPhase 0 ({ s with power := { s.power with leaving := false } }.wr Reg.Slc.KCOPYOK 0 0)

/-- IMAGE_LOAD_DONE: Kindling has an image: the one received from QSPI or the fabric (header of 128 words, then the body),
that of the host in the shared banks from address 0, or the retained one at Ember exit; `err` is the error that ended
the load, 0x07 or 0x08, or 0 (R565, R569, R570). While a tamper condition lasts Kindling does not boot (R575). -/
def execImageLoadDone (err : Nat) (image : List Word) (s : State) : Out :=
  if s.power.ember || s.power.tamper then ok s
  else match s.rd Reg.Slc.KPHASE 0 with
    | 3 =>
      if s.power.leaving then
        (if (List.range 8).any fun c => (Tbl.get (fun _ => ({} : DmcState)) s.dmc c).training then ok s else ok (reloadImage s))
      else if err ≠ 0 then ok (bootFails err s)
      else
        let n := hdr image 1 31 0
        let body := wordsBytes (image.drop 128)
        ok (judgeImage image ((body ++ List.replicate (n - body.length) 0).take n) (setPhase 4 s))
    | 4 =>
      let h := s.readWords 0 128
      ok (judgeImage h (s.readBytes 1024 (hdr h 1 31 0)) s)
    | _ => ok s

/-- FABRIC_BOOT_TIMEOUT: the port named by BOOTPORT is not up within 200 ms (R570). -/
def execFabricBootTimeout (s : State) : Out :=
  if s.rd Reg.Slc.KPHASE 0 = 3 ∧ s.rd Reg.Bar0.KSRC 0 = 2 ∧ !s.power.leaving ∧ !s.power.tamper ∧ (List.range 4).all (fun p => s.rd Reg.WlkPort.PSTATE p != 2)
  then ok (bootFails 0x09 s) else ok s

/-! ### The retained copy (R571) -/

/-- SLC.KCOPY: starts copying the running image to KCOPY; BUSY while a DRAM channel is not READY. -/
def execSlcKcopy (x : XWord) (s : State) : Out :=
  xop 0x18 0x03 x (fun _ s => if dramReady s then .start s else .no stBUSY s) s

/-- KCOPY_COMPLETE: the copy of the header from the secure bank and the body from LOAD lies at KCOPY, and its digest is
compared (R571). -/
def execKcopyComplete (s : State) : Out :=
  match s.seq.longs.find? fun l => l.unit == 0x18 && l.op == 3 && l.done.isNone with
  | none => ok s
  | some l =>
    let a := s.rd Reg.Slc.KCOPYADR 0
    let n := s.power.length
    let s := s.put a (s.readBytes headerAt 1024 ++ s.readBytes s.power.load n)
    let good := s.inDram a (1024 + n) && imageDigest (s.readWords a 128) (s.readBytes (a + 1024) n) == s.readBytes digestAt 48
    ok ((s.wr Reg.Slc.KCOPYOK 0 (b2n good)).complete 0x18 3 l.inst (if good then stOK else stIMAGE))

/-! ### Wipes and tamper (R574, R575) -/

/-- A wipe starts, or restarts: zeros are written to the whole secure bank. -/
def startWipe (s : State) : State :=
  { s with mem := Tbl.keep (fun a => !secureAddr a) s.mem }.wr Reg.Slc.WIPING 0 1

/-- SLC.WIPE: starts a wipe. -/
def execSlcWipe (x : XWord) (s : State) : Out := xop 0x18 0x02 x (fun _ s => .start (startWipe s)) s

/-- Every SLC.WIPE under way completes. -/
def completeWipes : Nat → State → State
  | 0, s => s
  | n + 1, s =>
    match s.seq.longs.find? fun l => l.unit == 0x18 && l.op == 2 && l.done.isNone with
    | some l => completeWipes n (s.complete 0x18 2 l.inst stOK)
    | none => s

/-- SECURE_WIPE_END: the verification passes, or the wipe repeats (R574). -/
def execSecureWipeEnd (good : Bool) (s : State) : Out :=
  if !s.on Reg.Slc.WIPING 0 then ok s
  else if !good then ok (s.sat Reg.Slc.WIPEFAIL 0 1)
  else
    let s := ((s.wr Reg.Slc.WIPING 0 0).sat Reg.Slc.WIPECNT 0 1).emit 504
    ok (completeWipes s.seq.longs.length s)

/-- TAMPER_DETECT: a tamper condition begins, in any state (R575). -/
def execTamperDetect (s : State) : Out :=
  if s.power.tamper then ok s
  else
    let s := { s with power := { s.power with tamper := true, kerr := s.rd Reg.Slc.KERR 0 } }.wrAll 0 [(Reg.Slc.TAMPER, 1), (Reg.Slc.KERR, 0x0B)]
    ok (startWipe ((s.sat Reg.Slc.TAMPERCNT 0 1).emit 505))

/-- TAMPER_END: the condition ends; Kindling may boot, and KERR reads what it did before. TAMPER stays set: no rule but a reset of SLC
clears it (R575; log entry 159). -/
def execTamperEnd (s : State) : Out :=
  if s.power.tamper then ok ({ s with power := { s.power with tamper := false } }.wr Reg.Slc.KERR 0 s.power.kerr) else ok s

/-! ### Lifecycle (R572, R573) -/

/-- The transitions of Table 18-8. -/
def nextStates (lc : Nat) : List Nat :=
  match lc with | 0x01 => [0x02, 0x10] | 0x02 => [0x04, 0x10] | 0x04 => [0x08, 0x10] | 0x08 => [0x10] | _ => []

/-- A KEYHASH is programmed: its fuses are not all 0. -/
def keyProgrammed (s : State) : Bool := (List.range 24).any fun k => s.rd2 Reg.Slc.KEYHASH 0 k != 0

/-- The signature of w1 to w12 is one of the serial number and the target by the key of a slot that is not revoked. -/
def authorised (s : State) (ws : List Word) (target slot : Nat) : Bool :=
  let sig := bigPair (ws.drop 1)
  let e := bigEndian (sha384 (Config.serial ++ [BitVec.ofNat 8 target]))
  !revoked s slot && (signersOf e sig.1 sig.2).any fun q => sha384 (keyBytes q) == keyHash s slot

/-- VERMIN is raised and a slot revoked, or nothing is burnt (R573). -/
def burnFuses (a : XArgs) (s : State) : Except Nat State :=
  let v := bits (a.w 13) 31 0
  let rev := bit (a.w 0) 12
  let min := s.rd Reg.Slc.VERMIN 0
  if v < min ∨ s.power.version < v ∨ (v = min ∧ !rev) then .error stBOUNDS
  else
    let s := s.wr Reg.Slc.VERMIN 0 v
    .ok (if rev then s.wr Reg.Slc.REVOKED 0 (s.rd Reg.Slc.REVOKED 0 ||| 2 ^ bits (a.w 0) 11 10) else s)

/-- SLC.ADVANCE: a transition burns the fuses, wipes the secure bank and resets the device; with the present state as
target it updates the anti-rollback and revocation fuses (R573). -/
def advanceLife (a : XArgs) (s : State) : XRes :=
  let t := bits (a.w 0) 7 0
  let lc := s.rd Reg.Slc.LCSTATE 0
  if !(runningHeads s).isEmpty then .no stHEADBUSY s
  else if lc ≠ 0x01 ∧ !authorised s a.ws t (bits (a.w 0) 9 8) then .no stBOUNDS s
  else if t = lc then (match burnFuses a s with | .error st => .no st s | .ok u => .fin stOK u)
  else if !(nextStates lc).contains t ∨ (t = 0x02 ∧ !keyProgrammed s) then .no stBOUNDS s
  else
    let s := (s.emit 506).wr Reg.Slc.LCSTATE 0 t
    .gone (coreReset 7 { s with mem := Tbl.keep (fun a => !secureAddr a) s.mem })

/-- SLC.ADVANCE to another lifecycle state. -/
def execSlcAdvance (x : XWord) (s : State) : Out := xop 0x18 0x01 x advanceLife s

/-- SLC.ADVANCE with the present state as target. -/
def execSlcAdvanceFuses (x : XWord) (s : State) : Out := xop 0x18 0x01 x (fun a s => advanceLife a s) s

end Sys2Proof.Machine
end

