-- ==== Sys2Proof/Machine/Geometry.lean ====
section
/-!
DEFINITION. Stitching arithmetic over plain data: geometry polynomials, coverage, kernels, seam measurement and blending
(R346 to R356).
-/
namespace Sys2Proof.Machine

/-! ### Geometry (R346) -/

/-- A member's geometry: C0 to C5, GOFS + XS, HW, and the head columns at hand. -/
structure Geo where
  /-- C0 to C5. -/
  c : List Int
  /-- GOFS + XS, X-units. -/
  ofs : Int
  /-- HW. -/
  hw : Nat
  /-- First head column at hand. -/
  first : Nat
  /-- Head columns at hand. -/
  count : Nat

/-- Value at x of the polynomial with coefficients lowest first, each term of degree k scaled by m^(d − k). -/
def polyAt (m x : Int) : Nat → List Int → Int
  | _, [] => 0
  | d, c :: cs => c * m ^ d + x * polyAt m x (d - 1) cs

/-- X of head column u/1,024, exactly, in units of 2^−149 X-unit (R346). -/
def Geo.x (g : Geo) (u : Nat) : Int :=
  polyAt (2 ^ 25) ((u : Int) - 512 * g.hw) 5 g.c + g.ofs * 2 ^ 149

/-- dX/dt at T = 65,536 t, in units of 2^−88. -/
def slopeCoeffs (c : List Int) : List Int := (List.range 5).map fun (k : Nat) => ((k + 1 : Nat) : Int) * c.getD (k + 1) 0

/-- Binomial coefficients of degree 4. -/
def binom4 (k : Nat) : Int := [1, 4, 6, 4, 1].getD k 0

/-- Twelve times the Bernstein coefficients of degree 4 of a polynomial with coefficients a0 to a4 on [0, 1]. -/
def bernstein (a : List Int) : List Int :=
  (List.range 5).map fun i => ((List.range (i + 1)).map fun k =>
    ([[1], [1, 1], [1, 2, 1], [1, 3, 3, 1], [1, 4, 6, 4, 1]].getD i []).getD k 0 * (12 / binom4 k) * a.getD k 0).sum

/-- De Casteljau at 1/2, scaled by 16: the left half and the right half. -/
def halves (b : List Int) : List Int × List Int :=
  let f := fun k => b.getD k 0
  let m := f 0 + 4 * f 1 + 6 * f 2 + 4 * f 3 + f 4
  ([16 * f 0, 8 * (f 0 + f 1), 4 * (f 0 + 2 * f 1 + f 2), 2 * (f 0 + 3 * f 1 + 3 * f 2 + f 3), m],
   [m, 2 * (f 1 + 3 * f 2 + 3 * f 3 + f 4), 4 * (f 2 + 2 * f 3 + f 4), 8 * (f 3 + f 4), 16 * f 4])

/-- The polynomial with these Bernstein coefficients is nowhere negative on its interval. An interval that the halvings
given have not decided counts as nowhere negative (log entry 24). -/
def nowhereNeg : Nat → List Int → Bool
  | n, b =>
    if b.all fun x => decide (0 ≤ x) then true
    else if b.getD 0 0 < 0 ∨ b.getD 4 0 < 0 then false
    else match n with
      | 0 => true
      | n + 1 => nowhereNeg n (halves b).1 && nowhereNeg n (halves b).2

/-- Coefficients on [0, 1] of a polynomial of degree 4 in T, scaled by 65,536 per missing degree, over
T = −HW to HW − 2 (head columns 0 to HW − 1). -/
def onHead (hw : Nat) (a : List Int) : List Int :=
  let p : Int := -(hw : Int)
  let q : Int := 2 * (hw : Int) - 2
  let f := fun k => a.getD k 0 * 65536 ^ (4 - k)
  [f 0 + p * f 1 + p ^ 2 * f 2 + p ^ 3 * f 3 + p ^ 4 * f 4,
   q * (f 1 + 2 * p * f 2 + 3 * p ^ 2 * f 3 + 4 * p ^ 3 * f 4),
   q ^ 2 * (f 2 + 3 * p * f 3 + 6 * p ^ 2 * f 4),
   q ^ 3 * (f 3 + 4 * p * f 4), q ^ 4 * f 4]

/-- A polynomial less a constant is nowhere negative over the head. -/
def aboveOn (hw : Nat) (a : List Int) (lo : Int) : Bool :=
  let b := onHead hw a
  nowhereNeg 40 (bernstein ((b.getD 0 0 - lo) :: b.drop 1))

/-- X is strictly monotonic over head columns 0 to HW − 1. -/
def monotonic (hw : Nat) (c : List Int) : Bool :=
  let d := slopeCoeffs c
  decide (hw ≤ 1) || (d.any (· != 0) && (aboveOn hw d 0 || aboveOn hw (d.map (- ·)) 0))

/-- |dX/du| lies within XPITCH ÷ 4 to 4 × XPITCH over the whole head, with one sign (R346). -/
def slopeOk (hw xpitch : Nat) (c : List Int) : Bool :=
  let lo : Int := xpitch * 2 ^ 101
  let hi : Int := xpitch * 2 ^ 105
  let d := slopeCoeffs c
  let n := d.map (- ·)
  decide (hw = 0) || (aboveOn hw d lo && aboveOn hw n (-hi)) || (aboveOn hw n lo && aboveOn hw d (-hi))

/-- Web grid of a view: NCOL, XPITCH, XORG. -/
structure Grid where
  /-- NCOL. -/
  ncol : Nat
  /-- XPITCH. -/
  pitch : Nat
  /-- XORG. -/
  org : Int

/-- Quotient rounded up. -/
def cdivI (a b : Int) : Int := -((-a) / b)

/-- Grid columns whose X lies between those of the outermost head columns at hand, not cut to the grid. -/
def Geo.reach (g : Geo) (r : Grid) : Int × Int :=
  let a := g.x (1024 * g.first)
  let b := g.x (1024 * (g.first + g.count - 1))
  let one : Int := 2 ^ 149
  (cdivI (min a b - r.org * one) (r.pitch * one), (max a b - r.org * one) / (r.pitch * one))

/-- Grid columns that a member covers: the first and the number (R346). -/
def Geo.cover (g : Geo) (r : Grid) : Nat × Nat :=
  if g.count = 0 ∨ r.pitch = 0 then (0, 0)
  else
    let e := g.reach r
    let lo := max 0 e.1
    let hi := min (r.ncol - 1 : Int) e.2
    if hi < lo then (0, 0) else (lo.toNat, (hi - lo + 1).toNat)

/-- The largest k below 2^n, from `base`, for which a test that holds up to some point holds. -/
def bisect (p : Nat → Bool) : Nat → Nat → Nat
  | 0, base => base
  | n + 1, base => bisect p n (if p (base + 2 ^ n) then base + 2 ^ n else base)

/-- Head column of a grid column in units of 1/1,024, rounded down from the exact solution (R347; log entry 24). -/
def Geo.solve (g : Geo) (r : Grid) (j : Nat) : Nat :=
  let target := (r.org + (j : Int) * r.pitch) * 2 ^ 149
  let lo := 1024 * g.first
  let hi := 1024 * (g.first + g.count - 1)
  let up := decide (g.x lo ≤ g.x hi)
  bisect (fun u => decide (u ≤ hi) && (if up then decide (g.x u ≤ target) else decide (target ≤ g.x u))) 27 lo

/-- Two column ranges share a column. -/
def rangesMeet (a b : Nat × Nat) : Bool := decide (a.1 < b.1 + b.2 ∧ b.1 < a.1 + a.2 ∧ 0 < a.2 ∧ 0 < b.2)

/-- Only neighbours in the member list share columns, so that no column has three members (R346). -/
def coverageOk : List (Nat × Nat) → Bool
  | [] => true
  | a :: rest => !(rest.drop 1).any (rangesMeet a) && coverageOk rest

/-- The columns that two ranges share: first and number. -/
def overlap (a b : Nat × Nat) : Nat × Nat :=
  let lo := max a.1 b.1
  let hi := min (a.1 + a.2) (b.1 + b.2)
  if lo < hi then (lo, hi - lo) else (lo, 0)

/-! ### Resampling (R347, R348) -/

/-- Lanczos-4 taps −3 to 4 of phases 0 to 15 (R348). -/
def lanczos0 : List (List Int) := [
  [0, 0, 0, 16384, 0, 0, 0, 0],
  [-25, 80, -226, 16377, 235, -83, 26, 0],
  [-49, 158, -443, 16356, 478, -168, 53, -1],
  [-71, 232, -651, 16319, 730, -255, 82, -2],
  [-93, 304, -850, 16271, 990, -345, 111, -4],
  [-113, 373, -1040, 16206, 1258, -436, 142, -6],
  [-132, 439, -1220, 16129, 1533, -529, 173, -9],
  [-149, 501, -1391, 16039, 1816, -624, 205, -13],
  [-165, 560, -1552, 15933, 2106, -719, 238, -17],
  [-180, 616, -1704, 15816, 2402, -816, 271, -21],
  [-193, 668, -1846, 15685, 2705, -914, 305, -26],
  [-205, 717, -1978, 15539, 3014, -1012, 340, -31],
  [-216, 763, -2101, 15382, 3329, -1111, 375, -37],
  [-226, 805, -2215, 15215, 3649, -1210, 410, -44],
  [-234, 843, -2319, 15033, 3974, -1308, 445, -50],
  [-241, 878, -2413, 14839, 4304, -1406, 481, -58]]

/-- Lanczos-4 taps −3 to 4 of phases 16 to 31 (R348). -/
def lanczos1 : List (List Int) := [
  [-247, 910, -2499, 14636, 4637, -1504, 516, -65],
  [-252, 938, -2575, 14419, 4975, -1600, 552, -73],
  [-255, 962, -2642, 14192, 5316, -1695, 587, -81],
  [-257, 984, -2700, 13956, 5659, -1789, 621, -90],
  [-259, 1001, -2749, 13710, 6005, -1881, 656, -99],
  [-259, 1016, -2790, 13453, 6353, -1970, 689, -108],
  [-258, 1027, -2822, 13187, 6702, -2057, 722, -117],
  [-256, 1036, -2846, 12911, 7053, -2142, 754, -126],
  [-254, 1041, -2862, 12630, 7403, -2223, 785, -136],
  [-250, 1043, -2870, 12338, 7754, -2301, 815, -145],
  [-246, 1042, -2870, 12039, 8104, -2375, 844, -154],
  [-241, 1038, -2863, 11736, 8453, -2446, 871, -164],
  [-236, 1032, -2849, 11425, 8800, -2512, 897, -173],
  [-229, 1023, -2828, 11106, 9146, -2573, 921, -182],
  [-223, 1012, -2800, 10783, 9489, -2629, 943, -191],
  [-215, 998, -2767, 10457, 9828, -2681, 963, -199]]

/-- Lanczos-4 taps −3 to 4 of phases 32 to 47 (R348). -/
def lanczos2 : List (List Int) := [
  [-207, 982, -2727, 10124, 10164, -2727, 982, -207],
  [-199, 963, -2681, 9828, 10457, -2767, 998, -215],
  [-191, 943, -2629, 9489, 10783, -2800, 1012, -223],
  [-182, 921, -2573, 9146, 11106, -2828, 1023, -229],
  [-173, 897, -2512, 8800, 11425, -2849, 1032, -236],
  [-164, 871, -2446, 8453, 11736, -2863, 1038, -241],
  [-154, 844, -2375, 8104, 12039, -2870, 1042, -246],
  [-145, 815, -2301, 7754, 12338, -2870, 1043, -250],
  [-136, 785, -2223, 7403, 12630, -2862, 1041, -254],
  [-126, 754, -2142, 7053, 12911, -2846, 1036, -256],
  [-117, 722, -2057, 6702, 13187, -2822, 1027, -258],
  [-108, 689, -1970, 6353, 13453, -2790, 1016, -259],
  [-99, 656, -1881, 6005, 13710, -2749, 1001, -259],
  [-90, 621, -1789, 5659, 13956, -2700, 984, -257],
  [-81, 587, -1695, 5316, 14192, -2642, 962, -255],
  [-73, 552, -1600, 4975, 14419, -2575, 938, -252]]

/-- Lanczos-4 taps −3 to 4 of phases 48 to 63 (R348). -/
def lanczos3 : List (List Int) := [
  [-65, 516, -1504, 4637, 14636, -2499, 910, -247],
  [-58, 481, -1406, 4304, 14839, -2413, 878, -241],
  [-50, 445, -1308, 3974, 15033, -2319, 843, -234],
  [-44, 410, -1210, 3649, 15215, -2215, 805, -226],
  [-37, 375, -1111, 3329, 15382, -2101, 763, -216],
  [-31, 340, -1012, 3014, 15539, -1978, 717, -205],
  [-26, 305, -914, 2705, 15685, -1846, 668, -193],
  [-21, 271, -816, 2402, 15816, -1704, 616, -180],
  [-17, 238, -719, 2106, 15933, -1552, 560, -165],
  [-13, 205, -624, 1816, 16039, -1391, 501, -149],
  [-9, 173, -529, 1533, 16129, -1220, 439, -132],
  [-6, 142, -436, 1258, 16206, -1040, 373, -113],
  [-4, 111, -345, 990, 16271, -850, 304, -93],
  [-2, 82, -255, 730, 16319, -651, 232, -71],
  [-1, 53, -168, 478, 16356, -443, 158, -49],
  [0, 26, -83, 235, 16377, -226, 80, -25]]

/-- The Lanczos-4 table. -/
def lanczos : List (List Int) := lanczos0 ++ lanczos1 ++ lanczos2 ++ lanczos3

/-- Nearest integer of a quotient, ties away from zero. -/
def roundAway (a : Int) (b : Nat) : Int := if 0 ≤ a then (2 * a + b) / (2 * b : Nat) else -((2 * -a + b) / (2 * b : Nat))

/-- Put the difference from 16,384 on the largest tap, the one with the lowest k among equals (R348). -/
def fixTaps (t : List Int) : List Int :=
  let m := t.foldl max (t.getD 0 0)
  let i := (t.findIdx? (· == m)).getD 0
  t.set i (m + 16384 - t.sum)

/-- Catmull-Rom taps of a phase: 16,384 × polynomial of φ/64, halved (R348). -/
def cubicTaps (p : Nat) : List Int :=
  let f : Int := p
  let q := fun (a b c d : Int) => roundAway (a * f ^ 3 + b * 64 * f ^ 2 + c * 4096 * f + d * 262144) 32
  fixTaps [0, 0, q (-1) 2 (-1) 0, q 3 (-5) 0 2, q (-3) 4 1 0, q 1 (-1) 0 0, 0, 0]

/-- Taps −3 to 4 of a kernel and phase (R348). -/
def kernelTaps (ksel phase : Nat) : List Int :=
  match ksel with
  | 0 => lanczos.getD phase []
  | 1 => cubicTaps phase
  | 2 => [0, 0, 0, 16384 - 256 * (phase : Int), 256 * (phase : Int), 0, 0, 0]
  | _ => [0, 0, 0, if phase < 32 then 16384 else 0, if phase < 32 then 0 else 16384, 0, 0, 0]

/-- Sample of a plane at a head column, held to the columns at hand. -/
def edgeSample (g : Geo) (xs : List Nat) (i : Int) : Nat :=
  xs.getD (clampI g.first (g.first + g.count - 1 : Int) i - g.first).toNat 0

/-- One interpolated sample at head column u/1,024 (R347). -/
def resample (g : Geo) (ksel : Nat) (xs : List Nat) (u : Nat) : Nat :=
  let i : Int := (u / 1024 : Nat)
  let taps := kernelTaps ksel (u % 1024 / 16)
  let acc := ((List.range 8).map fun (k : Nat) => taps.getD k 0 * (edgeSample g xs (i + k - 3) : Int)).sum
  (clampI 0 65535 ((acc + 8192) / 16384)).toNat

/-- The mask word at head column u/1,024: of column floor(u + 0.5) (R347). -/
def maskAt (g : Geo) (xs : List Nat) (u : Nat) : Nat := edgeSample g xs ((u + 512) / 1024 : Nat)

/-! ### Blending (R355) -/

/-- Weight of the right side at column j. -/
def blendWeight (cs : Int) (fw : Nat) (j : Nat) : Int :=
  if fw = 0 then (if (j : Int) < cs then 0 else 65536)
  else clampI 0 65536 ((2 * ((j : Int) - cs) + fw + 1) * 32768 / fw)

/-- The blend of two samples. -/
def blend (w : Int) (a b : Nat) : Nat := ((a * (65536 - w) + b * w + 32768) / 65536).toNat

/-- CS and FW fit an overlap at σ = 0 (R355). -/
def blendFits (cs fw : Nat) (ov : Nat × Nat) : Bool :=
  decide (ov.1 + 8 + fw / 2 ≤ cs ∧ cs + fw / 2 + 8 < ov.1 + ov.2 ∧ max fw 32 + 16 ≤ ov.2)

/-! ### Seam measurement (R350 to R352) -/

/-- S(k) of lag index n, lag n − 8, over the window of an overlap given from both sides. -/
def lagSum (a b : List Nat) (n : Nat) : Nat :=
  ((List.range (b.length - 16)).map fun j => ((a.getD (j + n) 0 : Int) - (b.getD (j + 8) 0 : Int)).natAbs).sum

/-- The order of lags for ties: 0, −1, 1, −2, 2, … as lag indices. -/
def lagOrder : List Nat := [8, 7, 9, 6, 10, 5, 11, 4, 12, 3, 13, 2, 14, 1, 15, 0, 16]

/-- Index of the lag of the smallest S. -/
def bestLag (f : Nat → Nat) : Nat := lagOrder.foldl (fun b k => if f k < f b then k else b) 8

/-- δ, C and k* of two sides of an overlap at σ = 0 (R350). -/
def measureSeam (a b : List Nat) : Int × Nat × Int :=
  let sums := (List.range 17).map (lagSum a b)
  let f := fun k => sums.getD k 0
  let best := bestLag f
  let k : Int := (best : Int) - 8
  let total := sums.sum
  let conf := if total = 0 then 0 else 255 * (total - 17 * f best) / total
  let d : Int := (f (best - 1) : Int) - 2 * f best + f (best + 1)
  let edge := best = 0 ∨ best = 16
  let delta := if edge ∨ d = 0 then 64 * k
    else if 0 < d then roundAway (64 * (2 * k * d + f (best - 1) - f (best + 1))) (2 * d.natAbs)
    else roundAway (-(64 * (2 * k * d + f (best - 1) - f (best + 1)))) (2 * d.natAbs)
  (delta, conf, k)

end Sys2Proof.Machine
end

