-- ==== Sys2Proof/Machine/Packets.lean ====
section
/-!
DEFINITION. What every sender of Wyton Link packets shares: routes, packet counters and WLK causes (R496, R497, R526).
-/
namespace Sys2Proof.Machine

/-- Source of a WLK cause (Table 16-4). -/
def wlkSource (k : Nat) : Nat := if k < 4 then 501 else if k = 4 then 500 else if k = 5 then 502 else 503

/-- A WLK cause occurs: its bit is set, and its source emits a token when enabled (R526, R527). -/
def State.wlkCause (s : State) (k : Nat) : State :=
  let s := s.wr Reg.Wlk.WCAUSE 0 (s.rd Reg.Wlk.WCAUSE 0 ||| 2 ^ k)
  if (s.rd Reg.Wlk.WEVEN 0).testBit k then s.emit (wlkSource k) else s

/-- What a port's neighbour has told. -/
def State.port (s : State) (p : Nat) : Hello := Tbl.get (fun _ => {}) s.wlk.ports p

/-- Replace it. -/
def State.setPort (s : State) (p : Nat) (x : Hello) : State := { s with wlk := { s.wlk with ports := Tbl.set (fun _ => {}) s.wlk.ports p x } }

/-- A Wyton Link port is up (R494). -/
def State.portUp (s : State) (p : Nat) : Bool := decide (p < 4) && s.rd Reg.WlkPort.PSTATE p == 2

/-- A port leaves the up state for another: source 496 + p emits (R494, R526); transitions to DOWN count. -/
def portDown (p st : Nat) (s : State) : State :=
  let was := s.portUp p
  let s := (s.wr Reg.WlkPort.PSTATE p st).setPort p {}
  let s := if was && st == 3 then s.sat Reg.WlkPort.DOWNCNT p 1 else s
  if was then s.emit (496 + p) else s

/-- Where a packet for a node goes: a port, 0xE for local delivery, none when it is dropped (R496). -/
def routeOf (s : State) (n : Nat) : Option Nat :=
  let b := s.rd2 Reg.Wlk.ROUTE 0 n
  let usable := fun c => c == 0xE || s.portUp c
  if n = 0 ∨ n = s.rd Reg.Wlk.NODE 0 then none
  else if usable (b % 16) then some (b % 16)
  else if usable (b / 16) then some (b / 16)
  else none

/-- A packet leaves on a port, in k pieces on the wire: the port's counters, and what it carried (log entry 158). -/
def State.portSend (s : State) (p : Nat) (x : WlkSent) (k : Nat := 1) : State :=
  let s := { s with sent := Tbl.set (fun _ => none) s.sent p (some x) }
  (s.wrap Reg.WlkPort.TXPKT p k).evt 0x11 p 0x40 k

/-- A packet for the neighbours of a list of ports. -/
def sendOn (ps : List Nat) (x : WlkPkt) (s : State) : State := ps.foldl (fun s p => s.portSend p { pkt := x }) s

/-- A packet is dropped for want of a route (R496). -/
def noRoute (s : State) : State := (s.sat Reg.Wlk.NOROUTECNT 0 1).wlkCause 6

/-- The device sends a packet to a node, in k pieces: it leaves on a port, or is dropped for want of a route. A stand-alone device
sends none, and what it addresses to itself leaves on no port (R495, R496; log entry 158). -/
def State.sendTo (s : State) (n : Nat) (x : WlkPkt) (k : Nat := 1) : State :=
  if s.rd Reg.Wlk.NODE 0 = 0 ∨ n = 0 ∨ n = s.rd Reg.Wlk.NODE 0 ∨ k = 0 then s
  else match routeOf s n with
    | some p => if p < 4 then s.portSend p { node := n, pkt := x } k else s
    | none => noRoute s

/-- A packet arrives on a port: counted, and none arrives on a port that is not up (R494, Table 16-5). -/
def fromPort (p : Nat) (f : State → Out) (s : State) : Out :=
  within p 4 <| if s.portUp p then f ((s.wrap Reg.WlkPort.RXPKT p 1).evt 0x11 p 0x41) else ok s

end Sys2Proof.Machine
end

