-- ==== Sys2Proof/Machine/Lanes.lean ====
section
/-!
DEFINITION. The sensor lane array: X-class operations of SLA and the events of a lane (R71 to R110).
-/
namespace Sys2Proof.Machine

/-- Lane states (Table 2-6). -/
def lsOFF : Nat := 0
/-- COLD. -/
def lsCOLD : Nat := 1
/-- TRAINING. -/
def lsTRAINING : Nat := 2
/-- LOCKED. -/
def lsLOCKED : Nat := 3
/-- RECOVER. -/
def lsRECOVER : Nat := 4
/-- RXSLEEP. -/
def lsRXSLEEP : Nat := 5
/-- PRBS. -/
def lsPRBS : Nat := 6
/-- REFFAULT. -/
def lsREFFAULT : Nat := 7

/-- What lane n keeps beside its block. -/
def State.lane (s : State) (n : Nat) : Lane := Tbl.get (fun _ => {}) s.lanes n

/-- Replace it. -/
def State.setLane (s : State) (n : Nat) (l : Lane) : State := { s with lanes := Tbl.set (fun _ => {}) s.lanes n l }

/-- Head h beside its blocks. -/
def State.head (s : State) (h : Nat) : HeadState := Tbl.get (fun _ => {}) s.heads h

/-- Replace it. -/
def State.setHead (s : State) (h : Nat) (e : HeadState) : State := { s with heads := Tbl.set (fun _ => {}) s.heads h e }

/-- A head is starting (R150). -/
def State.starting (s : State) (h : Nat) : Bool := (s.head h).start.isSome

/-- A head is starting or running. -/
def State.busyHead (s : State) (h : Nat) : Bool := s.running h || s.starting h

/-- STATE of lane n. -/
def State.laneState (s : State) (n : Nat) : Nat := s.rd Reg.Lane.STATE n

/-- Lane n sets a cause; with its EVEN bit 1 one token goes out on source n (R109). -/
def laneCause (n c : Nat) (s : State) : State :=
  let s1 := s.wr Reg.Lane.EVCAUSE n (setBit (s.rd Reg.Lane.EVCAUSE n) c)
  if (s.rd Reg.Lane.EVEN n).testBit c then s1.emit n else s1

/-- Lane n sets the causes of a mask at one instant; one token goes out when any of them is enabled (R109). -/
def laneCauses (n mask : Nat) (s : State) : State :=
  let s1 := s.wr Reg.Lane.EVCAUSE n (s.rd Reg.Lane.EVCAUSE n ||| mask)
  if s.rd Reg.Lane.EVEN n &&& mask = 0 then s1 else s1.emit n

/-- The head whose bonding list names lane n, and the lane's position there (R149). -/
def bondOf (s : State) (n : Nat) : Option (Nat × Nat) :=
  (List.range 32).findSome? fun h =>
    if Tbl.get (fun _ => false) s.bonded h then
      ((List.range (2 ^ s.rd Reg.Head.LANES h)).find? fun k => s.rd2 Reg.Head.LANEMAP h k == n).map fun k => (h, k)
    else none

/-- The lanes of a head's bonding list, in HLANE order. -/
def bondLanes (s : State) (h : Nat) : List Nat :=
  if Tbl.get (fun _ => false) s.bonded h then
    (List.range (2 ^ s.rd Reg.Head.LANES h)).map fun k => s.rd2 Reg.Head.LANEMAP h k
  else []

/-- The set that lane n deskews with: its bonding list, or itself alone (R81, R85). -/
def laneSet (s : State) (n : Nat) : List Nat :=
  match bondOf s n with
  | some (h, _) => bondLanes s h
  | none => [n]

/-- The position at which lane n must carry its ALIGN lane number; a lane of no bonding list is a set of one, whose only
position is 0 (log entry 145). -/
def lanePos (s : State) (n : Nat) : Nat := match bondOf s n with | some (_, k) => k | none => 0

/-- A reference (REFSEL) supports a RATE code (Table 2-1). -/
def rateOk (refsel rate : Nat) : Bool :=
  rate == 0 || (if refsel = 0 then [1, 2, 4, 6].contains rate else [3, 5].contains rate)

/-- Power of a lane-wake grant (Table 18-1). -/
def wakeMw (s : State) (n : Nat) : Nat := if s.rd Reg.Lane.RATE n = 5 ∨ s.rd Reg.Lane.RATE n = 6 then 250 else 125

/-- A scan under way ends aborted (R104). -/
def scanAbort (n : Nat) (s : State) : State :=
  if s.rd Reg.Lane.ESTATE n = 1 then laneCause n 5 (s.wr Reg.Lane.ESTATE n 3) else s

/-- The lane's transmitter idles when Tx-sleep is requested or the lane is down (Table 2-4). -/
def txIdle (n : Nat) (s : State) : State :=
  let down := [lsOFF, lsCOLD, lsREFFAULT].contains (s.laneState n)
  s.wr Reg.Lane.TXASLEEP n (b2n (down || s.on Reg.Lane.TXSLEEP n))

/-- The receiver has block lock: LOCKED, relocked in RECOVER, or past step 3 of training (R76, Table 2-3). -/
def blockLocked (s : State) (n : Nat) : Bool :=
  let l := s.lane n
  s.laneState n == lsLOCKED || (s.laneState n == lsRECOVER && l.relocked) || (s.laneState n == lsTRAINING && decide (4 ≤ l.step))

/-- What a lane keeps when it leaves its link: no step, no lock, no deskew, no request. -/
def Lane.idle (l : Lane) : Lane :=
  { l with step := 0, failed := false, relocked := false, resumed := false, deskewed := false, alignSeen := false, req := none }

/-- Generator and checker stop as the lane leaves PRBS (R99; log entry 145). -/
def stopPrbs (n : Nat) (s : State) : State :=
  (s.wrAll n [(Reg.Lane.PRBSGEN, 0), (Reg.Lane.PRBSCHK, 0), (Reg.Lane.PRBSSYNC, 0)]).setLane n { s.lane n with checking := false }

/-- They stop where the lane is in PRBS. -/
def leavePrbs (n : Nat) (s : State) : State := if s.laneState n = lsPRBS then stopPrbs n s else s

/-- The lane enters training at a step of Table 2-3. -/
def trainFrom (n k : Nat) (s : State) : State :=
  let s := leavePrbs n s
  let s := s.setLane n { (s.lane n).idle with step := k, reqs := 0, stale := 0, repeats := 0, closed := 0 }
  txIdle n (s.wrAll n [(Reg.Lane.STATE, lsTRAINING), (Reg.Lane.FENORESP, 0)])

/-- The grant of a lane and the addition of a rate change (R145) are returned. -/
def giveLane (n : Nat) (s : State) : State := (s.release 2 n).release 2 (256 + n)

/-- The lane goes COLD: its grants are returned, a scan ends, values stay in retention (R95, R104, Table 2-4). -/
def goCold (n : Nat) (s : State) : State :=
  let s := leavePrbs n (scanAbort n s)
  let s := s.setLane n { (s.lane n).idle with wakeReq := false }
  giveLane n (txIdle n (s.wr Reg.Lane.STATE n lsCOLD))

/-- Generator or checker starts: the lane is in PRBS, the checker synchronises and its counters are cleared (R99, R100). -/
def startPrbs (n : Nat) (s : State) : State :=
  let s := scanAbort n s
  let s := s.setLane n { (s.lane n).idle with checking := s.on Reg.Lane.PRBSCHK n, loaded := 0, mism := 0, prbsErr := false }
  let s := if s.on Reg.Lane.PRBSCHK n then s.wrAll n [(Reg.Lane.PRBSBITS, 0), (Reg.Lane.PRBSERRS, 0), (Reg.Lane.PRBSSYNC, 0)]
    else s.wr Reg.Lane.PRBSSYNC n 0
  txIdle n (s.wr Reg.Lane.STATE n lsPRBS)

/-- A pattern is selected for generator or checker. -/
def prbsOn (s : State) (n : Nat) : Bool := s.on Reg.Lane.PRBSGEN n || s.on Reg.Lane.PRBSCHK n

/-- The lane has its PLL again: the pattern that was selected for it meanwhile runs, or it trains from step k. -/
def comeUp (n k : Nat) (s : State) : State := if prbsOn s n then startPrbs n s else trainFrom n k s

/-! ### Far-end taps (R85 to R88, R142) -/

/-- The master downlink of a head is up: its master lane transmits, past step 1 of training (Table 2-3). -/
def downUp (s : State) (h : Nat) : Bool :=
  match bondLanes s h with
  | [] => false
  | m :: _ => !s.on Reg.Lane.TXASLEEP m && ([lsLOCKED, lsRECOVER, lsRXSLEEP].contains (s.laneState m) ||
      (s.laneState m == lsTRAINING && decide (2 ≤ (s.lane m).step)))

/-- The software bounds of far-end tap q: 0 pre, 1 main, 2 post. -/
def feBounds (s : State) (n q : Nat) : Nat × Nat :=
  match q with
  | 0 => (s.rd Reg.Lane.FEPREMIN n, s.rd Reg.Lane.FEPREMAX n)
  | 1 => (s.rd Reg.Lane.FEMAINMIN n, s.rd Reg.Lane.FEMAINMAX n)
  | _ => (s.rd Reg.Lane.FEPOSTMIN n, s.rd Reg.Lane.FEPOSTMAX n)

/-- Its last acknowledged code. -/
def feCode (s : State) (n q : Nat) : Nat :=
  s.rd (match q with | 0 => Reg.Lane.FEPRE | 1 => Reg.Lane.FEMAIN | _ => Reg.Lane.FEPOST) n

/-- Its START value. -/
def feStart (s : State) (n q : Nat) : Nat :=
  s.rd (match q with | 0 => Reg.Lane.STARTPRE | 1 => Reg.Lane.STARTMAIN | _ => Reg.Lane.STARTPOST) n

/-- It is pinned. -/
def fePinned (s : State) (n q : Nat) : Bool := (s.rd Reg.Lane.PIN n).testBit (2 - q)

/-- The lane's held quantities become `h`: EQBOUND follows, each that goes from free to held counts in EQBCNT and sets
cause EQBOUND (R67, R86). -/
def setHeldQ (n h : Nat) (s : State) : State :=
  let l := s.lane n
  let newly := (List.range 5).countP fun q => h.testBit q && !l.heldQ.testBit q
  let s1 := ((s.setLane n { l with heldQ := h }).wr Reg.Lane.EQBOUND n (b2n (h != 0))).sat Reg.Lane.EQBCNT n newly
  if newly ≠ 0 then laneCause n 2 s1 else s1

/-- One quantity becomes held or free. -/
def holdQ (n q : Nat) (held : Bool) (s : State) : State :=
  let h := (s.lane n).heldQ
  setHeldQ n (if held then setBit h q else clearBit h q) s

/-- The TAPREQ block for the lane at a position of its bonding list (R142). -/
def TapReq.block (r : TapReq) (hlane : Nat) : Word :=
  fld hlane 5 8 ||| fld r.action 2 16 ||| fld r.tap 2 18 ||| fld r.rseq 8 20 ||| fld (r.vals.getD 0 0) 6 28 |||
    fld (r.vals.getD 1 0) 6 34 ||| fld (r.vals.getD 2 0) 6 40 ||| 0xAA

/-- The outstanding request of a lane becomes due on its head's master downlink. -/
def dueTap (n : Nat) (s : State) : State :=
  match bondOf s n, (s.lane n).req with
  | some (h, k), some r =>
    let e := s.head h
    s.setHead h { e with down := { e.down with taps := e.down.taps ++ [r.block k] } }
  | _, _ => s

/-- A new request of a lane: it takes the next RSEQ and becomes due. -/
def sendTap (n action tap : Nat) (vals : List Nat) (s : State) : State :=
  let l := s.lane n
  dueTap n (s.setLane n { l with req := some { action := action, tap := tap, rseq := l.rseq, vals := vals },
                                 rseq := (l.rseq + 1) % 256, reqs := l.reqs + 1, repeats := 0 })

/-- A far-end step (2·tap, plus 1 upward) may be requested at all: its tap is not pinned (R86) and the camera has not
closed the direction (R87). -/
def tapOpen (s : State) (n k : Nat) : Bool := !fePinned s n (k / 2) && !(s.lane n).closed.testBit k

/-- It would pass a software bound; a code that no TAPACK has told is not known to (R86). -/
def tapPast (s : State) (n k : Nat) : Bool :=
  let b := feBounds s n (k / 2)
  let c := feCode s n (k / 2)
  (s.lane n).acked && (if k % 2 = 0 then decide (c ≤ b.1) else decide (b.2 ≤ c))

/-- The step to request, of steps in order of preference, and the held quantities: one that would pass a software bound is
held there and passed over, the tap that moves is free (R67, R86; log entry 148). -/
def pickTap (s : State) (n : Nat) : List Nat → Nat → Nat × Option Nat
  | [], h => (h, none)
  | k :: ks, h =>
    if !tapOpen s n k then pickTap s n ks h
    else if tapPast s n k then pickTap s n ks (setBit h (2 + k / 2))
    else (clearBit h (2 + k / 2), some k)

/-- Far-end training goes on to deskew (step 6). -/
def tapDone (n : Nat) (s : State) : State := s.setLane n { s.lane n with step := 6, req := none }

/-- The next INC or DEC: the step that the adaptation wants, or the next that may be requested; with none, step 5 ends
(log entry 148). -/
def nextTap (n : Nat) (s : State) : State :=
  let l := s.lane n
  let r := pickTap s n ((List.range 6).map fun j => (l.want + j) % 6) l.heldQ
  let s := setHeldQ n r.1 s
  match r.2 with
  | some k => sendTap n (if k % 2 = 1 then 0 else 1) (k / 2) [] s
  | none => tapDone n s

/-- Tap q's value in a PRESET: its START value within the software bounds, or its code where it is pinned (R68, R86). -/
def presetVal (s : State) (n q : Nat) : Nat :=
  let b := feBounds s n q
  if fePinned s n q then feCode s n q else max b.1 (min (feStart s n q) b.2)

/-- Step 5 begins, its downlink up: the PRESET of STARTEN where every pinned tap's code is known, else an INC or DEC. A START
value outside its bounds is held at the nearest (R68, R85, R86). -/
def startTaps (n : Nat) (s : State) : State :=
  if s.on Reg.Lane.STARTEN n && ((s.lane n).acked || !(List.range 3).any (fePinned s n)) then
    let out := fun q => !fePinned s n q && decide (presetVal s n q ≠ feStart s n q)
    let h := (List.range 3).foldl (fun h q => setBitIf (out q) h (2 + q)) (s.lane n).heldQ
    sendTap n 2 0 ((List.range 3).map (presetVal s n)) (setHeldQ n h s)
  else nextTap n s

/-- Lanes of a head that wait in step 5 for its downlink begin their requests once it is up (Table 2-3). -/
def wakeTaps (h : Nat) (s : State) : State :=
  if downUp s h then
    (bondLanes s h).foldl (fun s n =>
      let l := s.lane n
      if s.laneState n = lsTRAINING ∧ l.step = 5 ∧ l.reqs = 0 ∧ !l.failed then startTaps n s else s) s
  else s

/-- The same for the head of which lane n is the master. -/
def wakeTapsOf (n : Nat) (s : State) : State := match bondOf s n with | some (h, 0) => wakeTaps h s | _ => s

/-- An adapted quantity held within its software bounds; a pinned CTLE keeps its code (R86). -/
def adaptCtle (s : State) (n code : Nat) : Nat :=
  if (s.rd Reg.Lane.PIN n).testBit 3 then s.rd Reg.Lane.CTLE n
  else max (s.rd Reg.Lane.CTLEMIN n) (min code (s.rd Reg.Lane.CTLEMAX n))

/-- DFE tap k (1 to 8) of a lane takes a value within Table 2-2. -/
def setDfe (n : Nat) (v : Int) (k : Nat) (s : State) : State :=
  let m : Nat := if k = 1 then s.rd Reg.Lane.DFE1MAX n else 31
  s.wr2 Reg.Lane.DFETAP n (8 - k) (low 7 (clampI (-(m : Int)) m v))

/-- The CTLE adapts to a code within its bounds: past one it is held there (R67, R86). -/
def adaptC (n code : Nat) (s : State) : State :=
  let c := adaptCtle s n code
  holdQ n 0 (!(s.rd Reg.Lane.PIN n).testBit 3 && c != code) (s.wr Reg.Lane.CTLE n c)

/-- DFE tap k adapts to a value; tap 1 past its bound is held there (R67, R86). -/
def adaptD (n k : Nat) (v : Int) (s : State) : State :=
  let s1 := setDfe n v k s
  if k = 1 then holdQ n 1 (decide (s.rd Reg.Lane.DFE1MAX n < v.natAbs)) s1 else s1

/-! ### X-class operations -/

/-- Fields that SLA.CFG writes (lane block 0x00 to 0x17). -/
def slaCfgFields : List Field :=
  [Reg.Lane.EVEN, Reg.Lane.RATE, Reg.Lane.RXINV, Reg.Lane.TXINV, Reg.Lane.RELOCK, Reg.Lane.TAPTO, Reg.Lane.CTLEMIN,
   Reg.Lane.CTLEMAX, Reg.Lane.DFE1MAX, Reg.Lane.PIN, Reg.Lane.STARTEN, Reg.Lane.FEPREMIN, Reg.Lane.FEPREMAX,
   Reg.Lane.FEMAINMIN, Reg.Lane.FEMAINMAX, Reg.Lane.FEPOSTMIN, Reg.Lane.FEPOSTMAX, Reg.Lane.STARTPRE,
   Reg.Lane.STARTMAIN, Reg.Lane.STARTPOST]

/-- Device address of the lane blocks. -/
def laneBase : Nat := 0x20010000

/-- The checks of SLA.CFG: ranges of Table 2-6, minima not above maxima (R69), a RATE that the group's reference
supports (R73). -/
def slaCfgOk (a : XArgs) (s : State) : Bool :=
  let v := fun f => blockVal laneBase a s f a.i
  inRange (v Reg.Lane.RELOCK) 10 10000 && inRange (v Reg.Lane.TAPTO) 1 1000 &&
    decide (v Reg.Lane.CTLEMIN ≤ v Reg.Lane.CTLEMAX ∧ v Reg.Lane.FEPREMIN ≤ v Reg.Lane.FEPREMAX ∧
      v Reg.Lane.FEMAINMIN ≤ v Reg.Lane.FEMAINMAX ∧ v Reg.Lane.FEPOSTMIN ≤ v Reg.Lane.FEPOSTMAX) &&
    rateOk (s.rd Reg.LaneGroup.REFSEL (a.i / 16)) (v Reg.Lane.RATE)

/-- The lane is off: its transmitter idles, its grants are returned and nothing trains (Table 2-1; log entry 144). -/
def laneOff (n : Nat) (s : State) : State :=
  let s := leavePrbs n s
  let s := s.setLane n { (s.lane n).idle with wakeReq := false }
  giveLane n (txIdle n (s.wr Reg.Lane.STATE n lsOFF))

/-- A new RATE: a COLD lane and one in REFFAULT stay so, RATE 0 turns another lane off, a lane that was off is COLD, and a
training under way ends (R90; log entry 144). -/
def rateChanged (n old : Nat) (s : State) : State :=
  let new := s.rd Reg.Lane.RATE n
  if new = old ∨ s.laneState n = lsCOLD ∨ s.laneState n = lsREFFAULT then s
  else if new = 0 then laneOff n s
  else if s.laneState n = lsOFF then txIdle n (s.wr Reg.Lane.STATE n lsCOLD)
  else if s.laneState n = lsTRAINING then s.setLane n (s.lane n).idle
  else s

/-- CTLE and DFE tap 1 move within new software bounds, and are held there; a pinned CTLE keeps its code (R65, R67, R86). -/
def applyBounds (n : Nat) (s : State) : State :=
  let c := adaptCtle s n (s.rd Reg.Lane.CTLE n)
  let d := signed 7 (s.rd2 Reg.Lane.DFETAP n 7)
  let m : Int := s.rd Reg.Lane.DFE1MAX n
  let s := if c = s.rd Reg.Lane.CTLE n then s else holdQ n 0 true (s.wr Reg.Lane.CTLE n c)
  if clampI (-m) m d = d then s else holdQ n 1 true (setDfe n d 1 s)

/-- SLA.CFG: writes a lane block (R73, R302). -/
def execSlaCfg (x : XWord) (s : State) : Out :=
  direct 1 0x01 256 x (fun a s =>
    let v := fun f => blockVal laneBase a s f a.i
    if 3 < a.ws.length ∨ !slaCfgOk a s then .error stBOUNDS
    else if s.on Reg.Lane.ASSIGNED a.i && (v Reg.Lane.RATE != s.rd Reg.Lane.RATE a.i ||
        v Reg.Lane.RXINV != s.rd Reg.Lane.RXINV a.i || v Reg.Lane.TXINV != s.rd Reg.Lane.TXINV a.i) then
      .error stLANEBUSY
    else .ok (rateChanged a.i (s.rd Reg.Lane.RATE a.i) (applyBounds a.i (blockWrite laneBase a a.i 0 slaCfgFields s)))) s

/-- Device Tx taps within Table 2-2. -/
def txTapsOk (pre main post : Nat) : Bool :=
  inRange pre 0 12 && inRange main 20 63 && inRange post 0 24 && decide (pre + main + post ≤ 63 ∧ 16 + pre + post ≤ main)

/-- SLA.TXTAPS: sets the device transmitter taps (R84). -/
def execSlaTxtaps (x : XWord) (s : State) : Out :=
  direct 1 0x02 256 x (fun a s =>
    let w := a.w 0
    let pre := bits w 23 16
    let main := bits w 15 8
    let post := bits w 7 0
    if txTapsOk pre main post then
      .ok (s.wrAll a.i [(Reg.Lane.TXPRE, pre), (Reg.Lane.TXMAIN, main), (Reg.Lane.TXPOST, post)])
    else .error stBOUNDS) s

/-- A lane that leaves COLD asks for a lane-wake grant; during a reference fault the request is kept (R74, R95). -/
def wake (n : Nat) (s : State) : State :=
  if s.laneState n = lsREFFAULT then s.setLane n { s.lane n with wakeReq := true }
  else if s.rd Reg.Lane.RATE n = 0 then s
  else if s.laneState n = lsCOLD then s.request 2 n (wakeMw s n)
  else s

/-- The receiver sleeps: a scan ends, a pattern stops (R94, R99, R104). -/
def rxSleep (n : Nat) (s : State) : State :=
  let s := leavePrbs n (scanAbort n s)
  txIdle n ((s.setLane n (s.lane n).idle).wr Reg.Lane.STATE n lsRXSLEEP)

/-- The lane follows its requested power bits (R93 to R95). During a reference fault they wait (R74); a lane that leaves COLD
trains before it sleeps (log entry 145). -/
def applyPower (n : Nat) (s : State) : State :=
  if s.on Reg.Lane.COLD n then
    (if s.laneState n = lsREFFAULT then s.setLane n { s.lane n with wakeReq := false } else goCold n s)
  else if s.laneState n = lsCOLD ∨ s.laneState n = lsREFFAULT then txIdle n (wake n s)
  else if s.on Reg.Lane.RXSLEEP n then
    (if s.laneState n = lsRXSLEEP ∨ s.laneState n = lsOFF then txIdle n s else rxSleep n s)
  else if s.laneState n = lsRXSLEEP then
    let s := trainFrom n 3 s
    s.setLane n { s.lane n with resumed := true, short := false }
  else txIdle n s

/-- SLA.POWER: requests Tx-sleep, Rx-sleep or COLD (R94 to R97); the other lanes of a running head stay in Tx-sleep (R96). -/
def execSlaPower (x : XWord) (s : State) : Out :=
  direct 1 0x03 256 x (fun a s =>
    let tx := a.arg.testBit 2
    let rx := a.arg.testBit 1
    let cold := a.arg.testBit 0
    let kept := s.on Reg.Lane.ASSIGNED a.i && !s.on Reg.Lane.MASTER a.i
    if s.on Reg.Lane.ASSIGNED a.i && (rx || cold || (tx && s.on Reg.Lane.MASTER a.i)) then .error stLANEBUSY
    else .ok (wakeTapsOf a.i (applyPower a.i (s.wrAll a.i
      [(Reg.Lane.TXSLEEP, b2n (tx || kept)), (Reg.Lane.RXSLEEP, b2n rx), (Reg.Lane.COLD, b2n cold)])))) s

/-- Start training: from step 1 at once while the lane holds its grant, else on the grant (R85). The lane leaves COLD, PRBS and
Rx-sleep (log entry 145). -/
def startTrain (n : Nat) (s : State) : State :=
  let s := stopPrbs n (s.wrAll n [(Reg.Lane.COLD, 0), (Reg.Lane.RXSLEEP, 0)])
  let s := s.setLane n { s.lane n with retained := false, short := false }
  if s.laneState n = lsCOLD ∨ s.laneState n = lsREFFAULT then wake n s else trainFrom n 1 s

/-- SLA.TRAIN: starts training of a lane (R85); BOUNDS_INVALID when RATE is 0. -/
def execSlaTrain (x : XWord) (s : State) : Out :=
  direct 1 0x04 256 x (fun a s => if s.rd Reg.Lane.RATE a.i = 0 then .error stBOUNDS else .ok (startTrain a.i s)) s

/-- SLA.PRBS: selects generator and checker patterns (R99, R100). A lane whose PLL is off or without reference keeps the selection
for when it comes up; with both off it trains again from step 3 (log entry 145). -/
def execSlaPrbs (x : XWord) (s : State) : Out :=
  direct 1 0x05 256 x (fun a s =>
    let chk := a.arg / 16 % 8
    let gen := a.arg % 8
    if s.on Reg.Lane.ASSIGNED a.i then .error stLANEBUSY
    else if 4 < chk ∨ 4 < gen then .error stBOUNDS
    else
      let s1 := s.wrAll a.i [(Reg.Lane.PRBSGEN, gen), (Reg.Lane.PRBSCHK, chk)]
      if [lsOFF, lsCOLD, lsREFFAULT].contains (s.laneState a.i) then .ok s1
      else if prbsOn s1 a.i then .ok (startPrbs a.i s1)
      else if s1.laneState a.i = lsPRBS then
        .ok (if s1.rd Reg.Lane.RATE a.i = 0 then laneOff a.i s1 else trainFrom a.i 3 s1)
      else .ok s1) s

/-- SLA.INJECT: inverts one bit or a burst on an unassigned lane (R101); a later request replaces a pending one. -/
def execSlaInject (x : XWord) (s : State) : Out :=
  direct 1 0x06 256 x (fun a s =>
    let n := a.arg % 128
    if s.on Reg.Lane.ASSIGNED a.i then .error stLANEBUSY
    else if !inRange n 1 64 then .error stBOUNDS
    else .ok (s.setLane a.i { s.lane a.i with inject := some (n, a.arg / 256 % 2) })) s

/-- SLA.EYESCAN: starts a FULL or CROSS scan (R102, R104). -/
def execSlaEyescan (x : XWord) (s : State) : Out :=
  direct 1 0x07 256 x (fun a s =>
    let w := a.w 0
    let cross := bit w 63
    let k := bits w 61 56
    let addr := bits w 47 0
    if s.rd Reg.Lane.ESTATE a.i = 1 then .error stBUSY
    else if !inRange k 20 40 ∨ 0x8000000 < addr + (if cross then 768 else 32768) then .error stBOUNDS
    else
      let s1 := (s.wr Reg.Lane.ESTATE a.i 1).setLane a.i
        { s.lane a.i with scanCross := cross, scanK := k, scanEmax := bits w 55 48, scanAddr := addr, scanPoint := 0 }
      .ok (if [lsRXSLEEP, lsCOLD, lsPRBS].contains (s.laneState a.i) then scanAbort a.i s1 else s1)) s

/-- SLA.REFSEL: changes a group's reference selection (R108). -/
def execSlaRefsel (x : XWord) (s : State) : Out :=
  direct 1 0x08 16 x (fun a s =>
    let lanes := (List.range 16).map fun k => 16 * a.i + k
    if lanes.any fun n => s.laneState n != lsCOLD then .error stLANEBUSY
    else if lanes.any fun n => !rateOk (a.arg % 2) (s.rd Reg.Lane.RATE n) then .error stBOUNDS
    else .ok (s.wr Reg.LaneGroup.REFSEL a.i (a.arg % 2))) s

/-- SLA.EYECFG: sets EYE_WMIN and EYE_HMIN (Table 2-7). -/
def execSlaEyecfg (x : XWord) (s : State) : Out :=
  xop 1 0x09 x (fun a s =>
    .fin stOK (s.wrAll 0 [(Reg.SlaGlobal.EYE_WMIN, a.arg / 256 % 256), (Reg.SlaGlobal.EYE_HMIN, a.arg % 256)])) s

/-! ### Events -/

/-- LANE_WAKE: with a lane-wake grant held, a COLD lane starts training, its retained wake, or its pattern (R95, Table 2-3). -/
def execLaneWake (n : Nat) (s : State) : Out :=
  within n 256 <|
    if s.granted 2 n && s.laneState n == lsCOLD && !s.on Reg.LaneGroup.REFFAULT (n / 16) then
      ok (comeUp n 1 ((s.wr Reg.Lane.COLD n 0).setLane n { s.lane n with short := (s.lane n).retained }))
    else ok s

/-- SIGNAL_DETECT: CDR locks and the CTLE takes a coarse setting, held at a software bound that it would pass (step 2 of Table
2-3, R86). A master lane's downlink is up from then on. -/
def execSignalDetect (n ctle : Nat) (s : State) : Out :=
  within n 256 <|
    let l := s.lane n
    if s.laneState n = lsTRAINING ∧ (l.step = 1 ∨ l.step = 2) ∧ !l.failed then
      ok (wakeTapsOf n (adaptC n ctle (s.setLane n { l with step := 3 })))
    else ok s

/-- BLOCK_LOCK: 64 consecutive valid headers (R76); training goes on to step 4, a lane in RECOVER waits for its next
ALIGN (R91). -/
def execBlockLock (n : Nat) (s : State) : Out :=
  within n 256 <|
    let l := s.lane n
    if s.laneState n = lsTRAINING ∧ l.step = 3 ∧ !l.failed then ok (s.setLane n { l with step := 4 })
    else if s.laneState n = lsRECOVER then ok (s.setLane n { l with relocked := true })
    else ok s

/-- LOCK_LOST: 16 of 64 headers are invalid and block lock is gone, which LOCKLOSS counts (R76). A LOCKED lane enters RECOVER
(R91), a training one is again at step 3, one in RECOVER waits for lock again (log entry 145). Lanes 256 + 4p + k are lane k
of Wyton Link port p: a port that is up goes down when one of them loses lock (R494). -/
def execLockLost (n : Nat) (s : State) : Out :=
  within n 272 <|
    if 256 ≤ n then (if s.portUp ((n - 256) / 4) then ok (portDown ((n - 256) / 4) 3 s) else ok s)
    else if !blockLocked s n then ok s
    else
      let l := { s.lane n with relocked := false, deskewed := false, alignSeen := false, req := none }
      let s1 := s.sat Reg.Lane.LOCKLOSS n 1
      if s.laneState n = lsLOCKED then ok (laneCause n 1 ((s1.wr Reg.Lane.STATE n lsRECOVER).setLane n l))
      else if s.laneState n = lsTRAINING then ok (s1.setLane n { l with step := 3 })
      else ok (s1.setLane n l)

/-- RELOCK_TIMEOUT: lock not regained within RELOCK; the lane trains again from step 2 (R91, R94). -/
def execRelockTimeout (n : Nat) (s : State) : Out :=
  within n 256 <|
    let l := s.lane n
    if s.laneState n = lsRECOVER ∧ !l.relocked then ok (trainFrom n 2 s)
    else if s.laneState n = lsTRAINING ∧ l.step = 3 ∧ l.resumed then ok (trainFrom n 2 s)
    else ok s

/-- TRAIN_STEP_TIMEOUT: a training step exceeds its bound and sets TRAINFAIL (R90); in step 6 every lane of the set sets
DESKEW and TRAINFAIL (R82). -/
def execTrainStepTimeout (n : Nat) (s : State) : Out :=
  within n 256 <|
    let l := s.lane n
    if s.laneState n = lsTRAINING ∧ l.step ≠ 0 ∧ !l.failed then
      if l.step = 6 then
        ok ((laneSet s n).foldl (fun s m =>
          if s.laneState m = lsTRAINING ∧ (s.lane m).step = 6 then
            (laneCauses m 0x140 s).setLane m { s.lane m with failed := true, deskewed := false }
          else s) s)
      else ok ((laneCause n 6 s).setLane n { l with failed := true })
    else ok s

/-- TRAIN_RETRY: 10 ms after a TRAINFAIL the lane returns to step 1 (R90). -/
def execTrainRetry (n : Nat) (s : State) : Out :=
  within n 256 <|
    if s.laneState n = lsTRAINING ∧ (s.lane n).failed then ok (trainFrom n 1 s) else ok s

/-- HIBER_WINDOW: at the end of a 125 µs window with `bad` invalid headers, HIBER of a lane with block lock is set or cleared
(R77). -/
def execHiberWindow (n bad : Nat) (s : State) : Out :=
  within n 256 <|
    if blockLocked s n then
      let was := s.on Reg.Lane.HIBER n
      let s1 := ((s.sat Reg.Lane.SHDRERR n bad).evt 1 n 0x42 bad).wr Reg.Lane.HIBER n (b2n (decide (16 ≤ bad)))
      ok (if 16 ≤ bad ∧ !was then laneCause n 3 s1 else s1)
    else ok s

/-- A lane of a group leaves the state it is in for REFFAULT (R74). -/
def refFault (n : Nat) (s : State) : State :=
  let cold := s.laneState n == lsCOLD
  let s := leavePrbs n s
  let s := s.setLane n { (s.lane n).idle with wasCold := cold, wakeReq := false, short := false }
  laneCause n 7 (txIdle n (s.wr Reg.Lane.STATE n lsREFFAULT))

/-- A lane of a group whose reference has recovered: one that COLD was asked of is COLD; one that was not COLD retrains from
step 1, or is off with RATE 0; one that was COLD is so again, and waits for its wake grant where a wake was requested (R74, R95). -/
def refRecover (n : Nat) (s : State) : State :=
  let l := s.lane n
  if s.on Reg.Lane.COLD n then goCold n s
  else if !l.wasCold then (if s.rd Reg.Lane.RATE n = 0 then laneOff n s else comeUp n 1 s)
  else
    let s1 := txIdle n ((scanAbort n (s.setLane n { l with wakeReq := false })).wr Reg.Lane.STATE n lsCOLD)
    if l.wakeReq then wake n s1 else s1

/-- REF_MONITOR_WINDOW: at the end of a 1 ms window with the reference present or not and its measured offset, the group
enters or leaves REFFAULT (R74). -/
def execRefMonitorWindow (g : Nat) (present : Bool) (ppb : Int) (s : State) : Out :=
  within g 16 <|
    let good := present && decide (ppb.natAbs ≤ 200000)
    let bad := !present || decide (300000 < ppb.natAbs)
    let s1 := (s.wr Reg.LaneGroup.REFOK g (b2n good)).wrI Reg.LaneGroup.REFPPB g ppb
    let lanes := (List.range 16).map fun k => 16 * g + k
    if s.on Reg.LaneGroup.REFFAULT g then
      let w := if good then Tbl.get (fun _ => 0) s.goodWin g + 1 else 0
      if 10 ≤ w then
        let s2 := { s1.wr Reg.LaneGroup.REFFAULT g 0 with goodWin := Tbl.set (fun _ => 0) s1.goodWin g 0 }
        ok (lanes.foldl (fun s n => refRecover n s) s2)
      else ok { s1 with goodWin := Tbl.set (fun _ => 0) s1.goodWin g w }
    else if bad then ok (lanes.foldl (fun s n => refFault n s) (s1.wr Reg.LaneGroup.REFFAULT g 1))
    else ok s1

/-- SKIP_RECEIVE: with the elastic FIFO at `fill` blocks the received SKIP is deleted, followed by an inserted one, or
dropped beyond the lane (R80). -/
def execSkipReceive (n fill : Nat) (s : State) : Out :=
  within n 256 <|
    if 12 < fill then ok (((s.wr Reg.Lane.ELFILL n (fill - 1)).wrap Reg.Lane.SKIPDEL n 1).evt 1 n 0x40)
    else if fill < 4 then ok (((s.wr Reg.Lane.ELFILL n (fill + 1)).wrap Reg.Lane.SKIPINS n 1).evt 1 n 0x41)
    else ok (s.wr Reg.Lane.ELFILL n fill)

/-- The set of lane n is no longer deskewed; the lanes that are affected set DESKEW (R82, R110). -/
def deskewFault (n : Nat) (s : State) : State :=
  (laneSet s n).foldl (fun s m => laneCause m 8 (s.setLane m { s.lane m with deskewed := false, alignSeen := false })) s

/-- SLA keeps the transmitters of a head's other lanes asleep (R96). -/
def sleepOthers (h : Nat) (s : State) : State :=
  ((bondLanes s h).drop 1).foldl (fun s n => txIdle n (s.wr Reg.Lane.TXSLEEP n 1)) s

/-- Every lane of a head is LOCKED. -/
def allLocked (s : State) (h : Nat) : Bool := (bondLanes s h).all fun n => s.laneState n == lsLOCKED

/-- Training of a head that is starting is complete: its other transmitters sleep from then on (R96, R112). -/
def headTrained (n : Nat) (s : State) : State :=
  match bondOf s n with
  | some (h, _) => if s.busyHead h && allLocked s h then sleepOthers h s else s
  | none => s

/-- The lane enters LOCKED, or the Rx-sleep that was asked of it before it trained (R85, R91; log entry 145). -/
def enterLocked (n : Nat) (s : State) : State :=
  let l := s.lane n
  let s := s.setLane n { l with deskewed := true, step := 0, retained := true, short := false, resumed := false, relocked := false }
  let s := laneCause n 0 (txIdle n (s.wr Reg.Lane.STATE n lsLOCKED))
  if s.on Reg.Lane.RXSLEEP n then rxSleep n s else headTrained n s

/-- A lane whose set has just been deskewed: it enters LOCKED from step 6 of training, or from RECOVER once block lock
has returned (R85, R91). -/
def laneJoin (n : Nat) (s : State) : State :=
  let l := s.lane n
  if (s.laneState n = lsTRAINING ∧ l.step = 6 ∧ !l.failed) ∨ (s.laneState n = lsRECOVER ∧ l.relocked) then enterLocked n s
  else s.setLane n { l with deskewed := true }

/-- The last ALIGN of a lane carried counter value c. -/
def alignReady (s : State) (c n : Nat) : Bool :=
  let l := s.lane n
  l.alignSeen && l.alignCtr == c

/-- Lanes of a set that an ALIGN with counter c deskews: all of them, once it has arrived on every lane; else those in RECOVER
that have lock again, once it has arrived on every lane of the set that is still deskewed (R81, R91; log entry 145). -/
def joining (s : State) (set : List Nat) (c : Nat) : List Nat :=
  let here := set.filter fun m => (s.lane m).deskewed
  if set.all (alignReady s c) then set
  else if !here.isEmpty && here.all (alignReady s c) then
    set.filter fun m => !(s.lane m).deskewed && alignReady s c m && s.laneState m == lsRECOVER
  else []

/-- A counter value disagrees with that of a lane which has had its ALIGN of this value or of the one before. -/
def ctrDiffers (c : Nat) (l : Lane) : Bool := l.alignCtr != c && (l.alignCtr + 1) % 65536 != c

/-- ALIGN_RECEIVE: an ALIGN with lane number `hlane` and counter `ctr` arrives `spread` non-SKIP blocks after the first
of its counter value on the set, on a lane with block lock (R81, R82). -/
def execAlignReceive (n hlane ctr spread : Nat) (s : State) : Out :=
  within n 256 <|
    if !blockLocked s n then ok s
    else
      let l := s.lane n
      let c := ctr % 65536
      let set := laneSet s n
      let s1 := (s.wr Reg.Lane.HLANE n hlane).setLane n { l with alignCtr := c, alignSpread := spread, alignSeen := true }
      if hlane ≠ lanePos s n ∨ 32 < spread ∨
          (l.deskewed ∧ set.any fun m => m != n && (s.lane m).deskewed && ctrDiffers c (s.lane m)) then ok (deskewFault n s1)
      else ok ((joining s1 set c).foldl (fun s m => laneJoin m s) s1)

/-- ALIGN_TIMEOUT: no ALIGN arrives within 32,768 blocks on a lane with block lock (R82). -/
def execAlignTimeout (n : Nat) (s : State) : Out :=
  within n 256 <| if blockLocked s n then ok (deskewFault n s) else ok s

/-- Errors of a synchronised checker: `errs` consecutive wrong bits that end `bits` compared ones (R100). -/
def prbsErrors (n bits errs : Nat) (s : State) : State :=
  let l := s.lane n
  let s1 := (s.sat Reg.Lane.PRBSBITS n bits).sat Reg.Lane.PRBSERRS n errs
  let s2 := s1.setLane n { l with mism := if bits = errs then l.mism + errs else errs, prbsErr := true }
  if l.prbsErr then s2 else laneCause n 4 s2

/-- PRBS_ERROR: a synchronised checker that has compared `bits` more bits finds the last of them wrong (R100). -/
def execPrbsError (n bits : Nat) (s : State) : Out :=
  within n 256 <|
    if s.on Reg.Lane.PRBSSYNC n && s.on Reg.Lane.PRBSCHK n then ok (prbsErrors n (max bits 1) 1 s) else ok s

/-- PRBS_RESYNC: after 64 consecutive mismatches the checker clears PRBSSYNC, synchronises again and sets PRBSERR
(R100). -/
def execPrbsResync (n : Nat) (s : State) : Out :=
  within n 256 <|
    if s.on Reg.Lane.PRBSSYNC n && decide (64 ≤ (s.lane n).mism) then
      ok (laneCause n 4 ((s.wr Reg.Lane.PRBSSYNC n 0).setLane n { s.lane n with loaded := 0, mism := 0, prbsErr := false }))
    else ok s

/-- Bits of the register of a PRBS pattern (Table 2-5). -/
def prbsDegree (code : Nat) : Nat := match code with | 1 => 7 | 2 => 15 | 3 => 23 | _ => 31

/-- A pending injection inverts bits as they leave the transmitter, or as they reach the receiver: there a synchronised checker
finds each of them wrong. What received traffic makes of it shows in the events of the lane (R101). -/
def injectTick (n : Nat) (s : State) : State :=
  let l := s.lane n
  let rx := [lsTRAINING, lsLOCKED, lsRECOVER, lsPRBS].contains (s.laneState n)
  match l.inject with
  | some (k, side) =>
    let s1 := s.setLane n { l with inject := none }
    if side = 0 then (if s.on Reg.Lane.TXASLEEP n then s else s1)
    else if !rx then s
    else if l.checking && s.on Reg.Lane.PRBSSYNC n then prbsErrors n k k s1 else s1
  | none => s

/-- A raw tick of a lane's checker: the bits that it receives load its register, and once it is synchronised count as compared
(R100; log entry 147). -/
def checkTick (n : Nat) (s : State) : State :=
  let l := s.lane n
  let b := Config.prbsBits n s.raw
  if !l.checking || b = 0 then s
  else if s.on Reg.Lane.PRBSSYNC n then (s.sat Reg.Lane.PRBSBITS n b).setLane n { l with mism := 0 }
  else
    let s1 := s.setLane n { l with loaded := l.loaded + b }
    if prbsDegree (s.rd Reg.Lane.PRBSCHK n) ≤ l.loaded + b then s1.wr Reg.Lane.PRBSSYNC n 1 else s1

/-- The count of a point of a scan's map. -/
def scanCount (s : State) (l : Lane) (p : Nat) : Nat := bytesNat (s.readBytes (l.scanAddr + 4 * p) 4)

/-- Contiguous open points around a centre: `f` says which indices are open, n is their number. -/
def openRun (f : Nat → Bool) (centre n : Nat) : Nat :=
  if f centre then
    ((List.range (n - centre)).takeWhile fun k => f (centre + k)).length +
      ((List.range centre).takeWhile fun k => f (centre - 1 - k)).length
  else 0

/-- Map index of phase point p at zero voltage, and of voltage point v at centre phase. -/
def phasePoint (l : Lane) (p : Nat) : Nat := if l.scanCross then p else 64 * p + 32
/-- Voltage point. -/
def voltPoint (l : Lane) (v : Nat) : Nat := if l.scanCross then 128 + v else 64 * 64 + v

/-- The quality figures of a lane after a scan, and LOWEYE (R103, R105). -/
def eyeFigures (n ew eh : Nat) (s : State) : State :=
  let lowEye := decide (ew < s.rd Reg.SlaGlobal.EYE_WMIN 0 ∨ eh < s.rd Reg.SlaGlobal.EYE_HMIN 0)
  s.wrAll n [(Reg.Lane.EWIDTH, ew), (Reg.Lane.EHEIGHT, eh), (Reg.Lane.LOWEYE, b2n lowEye)]

/-- The end of a scan: EWIDTH, EHEIGHT, LOWEYE, ESTATE done and cause EYEDONE (R103, R105). -/
def scanEnd (n : Nat) (s : State) : State :=
  let l := s.lane n
  let isOpen := fun p => decide (scanCount s l p ≤ l.scanEmax)
  let ew := openRun (fun p => isOpen (phasePoint l p)) 64 128
  let eh := openRun (fun v => isOpen (voltPoint l v)) 32 64
  laneCause n 5 ((eyeFigures n ew eh s).wr Reg.Lane.ESTATE n 2)

/-- EYESCAN_POINT_DONE: a point completes its dwell with `count` disagreements; the last one ends the scan (R102). -/
def execEyescanPointDone (n count : Nat) (s : State) : Out :=
  within n 256 <|
    let l := s.lane n
    if s.rd Reg.Lane.ESTATE n = 1 ∧ s.laneState n = lsLOCKED then
      let s1 := s.fill (l.scanAddr + 4 * l.scanPoint) (wordBytes 4 (BitVec.ofNat 64 (min count (2 ^ 32 - 1))))
      let s2 := s1.setLane n { l with scanPoint := l.scanPoint + 1 }
      ok (if l.scanPoint + 1 = (if l.scanCross then 192 else 8192) then scanEnd n s2 else s2)
    else ok s

/-- EQ_ADAPT_DONE: the CTLE and DFE of a block-locked lane finish adapting towards `goal`; quantities that
would pass a software bound are held there (step 4 of Table 2-3, R86). A bonded lane goes on to far-end tap training, with the
step that its adaptation wants first, as soon as its head's downlink is up; one without a bonding list or with retained taps
goes to deskew (R85, R95). -/
def execEqAdaptDone (n : Nat) (goal : EqGoal) (want : Nat) (s : State) : Out :=
  within n 256 <|
    let l := s.lane n
    if s.laneState n = lsTRAINING ∧ l.step = 4 ∧ !l.failed then
      let s1 := (List.range 8).foldl (fun s k => adaptD n (k + 1) (goal.dfe.getD k 0) s) (adaptC n goal.ctle s)
      match bondOf s n with
      | some (h, _) =>
        if l.short then ok (s1.setLane n { s1.lane n with step := 6 })
        else
          let s2 := s1.setLane n { s1.lane n with step := 5, want := want }
          ok (if downUp s2 h then startTaps n s2 else s2)
      | none => ok (s1.setLane n { s1.lane n with step := 6 })
    else ok s

/-- EQ_BOUND_HOLD: the continuous adaptation of a LOCKED lane moves quantity q (0 CTLE, 1 to 8 the DFE taps) towards a value; at a
software bound it is held, and inside it is free (R86, R89). -/
def execEqBoundHold (n q : Nat) (v : Int) (s : State) : Out :=
  within n 256 <|
    if s.laneState n = lsLOCKED ∧ q ≤ 8 then ok (if q = 0 then adaptC n v.toNat s else adaptD n q v s) else ok s

/-- The results of a TAPACK per tap: 0 untouched, 1 ACK, 2 MIN, 3 MAX (Table 3-7); MIN and MAX close that direction for the
training (R87). -/
def closeDirs (c pre main post : Nat) : Nat :=
  let f := fun (c k r : Nat) => if r = 2 then setBit c (2 * k) else if r = 3 then setBit c (2 * k + 1) else c
  f (f (f c 0 pre) 1 main) 2 post

/-- TAPACK_RECEIVE: a TAPACK on lane n with HLANE and RSEQ, and a result and a code per tap; `better` says that the receiver's
eye estimate improved, `want` which step the adaptation would make next. One of another HLANE is discarded (R143), and so is
one that does not answer the outstanding request (log entry 146). Training sends the next request, or ends after 16 requests
without improvement or 256 requests (R85, R87). -/
def execTapackReceive (n hlane rseq : Nat) (pre main post : TapAnswer) (better : Bool) (want : Nat) (s : State) : Out :=
  within n 256 <|
    let l := s.lane n
    let mine : Bool := match l.req with | some r => r.rseq == rseq && hlane == lanePos s n | none => false
    if s.laneState n = lsTRAINING ∧ l.step = 5 ∧ !l.failed ∧ mine then
      let s1 := s.wrAll n [(Reg.Lane.FEPRE, pre.code), (Reg.Lane.FEMAIN, main.code), (Reg.Lane.FEPOST, post.code)]
      let stale := if better then 0 else l.stale + 1
      let s2 := s1.setLane n { l with acked := true, closed := closeDirs l.closed pre.result main.result post.result, req := none, stale := stale, want := want }
      ok (if 16 ≤ stale ∨ 256 ≤ l.reqs then tapDone n s2 else nextTap n s2)
    else ok s

/-- TAPTO_EXPIRY: no TAPACK within TAPTO; the request is repeated, and after three repeats FENORESP is set and training
goes on with receiver equalisation only (R88). -/
def execTaptoExpiry (n : Nat) (s : State) : Out :=
  within n 256 <|
    let l := s.lane n
    if s.laneState n = lsTRAINING ∧ l.step = 5 ∧ !l.failed ∧ l.req.isSome then
      if l.repeats < 3 then ok (dueTap n (s.setLane n { l with repeats := l.repeats + 1 }))
      else ok (tapDone n (s.wr Reg.Lane.FENORESP n 1))
    else ok s

end Sys2Proof.Machine
end

