-- ==== Sys2Proof/Machine/Position.lean ====
section
/-!
DEFINITION. The position feedback unit: encoders, observers, SSI ports, probes, divided outputs and the web position
(R173 to R201). A command of this file stands at the raw tick at which the level changed; the acceptance delay of R174
is timing (log entry 12).
-/
namespace Sys2Proof.Machine

/-! ### Motion laws (R182, R195, R507) -/

/-- Ticks per second of the raw counter (R519). -/
def tickHz : Int := 16000000000

/-- The position of a motion law at a raw tick, in 1/65,536 units, rounded down. -/
def Track.at (k : Track) (t : Nat) : Int :=
  let d : Int := (t : Int) - k.t0
  k.p + (2 * tickHz * k.v * d + k.a * d * d) / (2 * tickHz * tickHz)

/-- Its speed at a raw tick. -/
def Track.speedAt (k : Track) (t : Nat) : Int := k.v + k.a * ((t : Int) - k.t0) / tickHz

/-- The hidden part of an encoder channel. -/
def State.encOf (s : State) (c : Nat) : EncState := Tbl.get (fun _ => {}) s.enc c

/-- Replace it. -/
def State.setEnc (s : State) (c : Nat) (e : EncState) : State := { s with enc := Tbl.set (fun _ => {}) s.enc c e }

/-- The hidden part of an SSI port. -/
def State.ssiOf (s : State) (k : Nat) : SsiState := Tbl.get (fun _ => {}) s.ssi k

/-- Replace it. -/
def State.setSsi (s : State) (k : Nat) (e : SsiState) : State := { s with ssi := Tbl.set (fun _ => {}) s.ssi k e }

/-- Replace the web-position state. -/
def State.setWeb (s : State) (w : WebState) : State := { s with web := w }

/-- The observer of encoder channel c. -/
def encTrack (s : State) (c : Nat) : Track :=
  { p := s.rdI Reg.Enc.OPOS c * 65536 + s.rd Reg.Enc.OFRAC c, v := s.rdI Reg.Enc.OSPD c, a := s.rdI Reg.Enc.OACC c,
    t0 := (s.encOf c).t0 }

/-- The observer of SSI port k. -/
def ssiTrack (s : State) (k : Nat) : Track :=
  { p := s.rdI Reg.Ssi.OPOS k * 65536 + s.rd Reg.Ssi.OFRAC k, v := s.rdI Reg.Ssi.OSPD k, a := s.rdI Reg.Ssi.OACC k,
    t0 := (s.ssiOf k).t0 }

/-- The motion law of a source code of R195; none for code 31 and unknown codes. -/
def srcTrack (s : State) (src : Nat) : Option Track :=
  if src < 8 then some (encTrack s src)
  else if src < 12 then some (ssiTrack s (src - 8))
  else if src = 16 then some s.web.fabric
  else none

/-- The motion law that POS follows now: the coasting prediction while there is one (R198). -/
def webTrack (s : State) : Option Track :=
  match s.web.coast with
  | some k => some k
  | none => srcTrack s (s.rd Reg.WebPos.WPSRC 0)

/-- Within a signed 64-bit value. -/
def sat64 (x : Int) : Int := clampI (-(2 ^ 63 : Nat)) ((2 ^ 63 : Nat) - 1) x

/-- An exact quotient rounded to the nearest integer, ties upwards (log entry 13). -/
def roundDiv (a : Int) (b : Nat) : Int := (2 * a + b) / (2 * b : Nat)

/-- POS at a raw tick while WPVALID is 1: WOFS + round(SCALE × (P(t) − PANCH)) for a local source (R195), the fabric law
for the fabric (R507), WOFS for no source. -/
def livePos (s : State) (t : Nat) : Int :=
  match webTrack s with
  | none => s.rdI Reg.WebPos.WOFS 0
  | some k =>
    if s.rd Reg.WebPos.WPSRC 0 = 16 then sat64 (k.at t / 65536)
    else sat64 (s.rdI Reg.WebPos.WOFS 0 +
      roundDiv (s.rdI Reg.WebPos.SCALE 0 * (k.at t - s.rdI Reg.WebPos.PANCH 0)) (2 ^ 48))

/-- WPVALID reads 1. -/
def State.wpValid (s : State) : Bool := s.on Reg.WebPos.WPVALID 0

/-- POS at a raw tick: frozen while WPVALID is 0 (R198). -/
def State.posAt (s : State) (t : Nat) : Int := if s.wpValid then livePos s t else s.web.frozen

/-- POS now. -/
def State.pos (s : State) : Int := s.posAt s.raw

/-- The web speed in µm/s at a raw tick: 0 while WPVALID is 0 (R195, R198). -/
def State.spdAt (s : State) (t : Nat) : Int :=
  if !s.wpValid then 0
  else match webTrack s with
    | none => 0
    | some k =>
      if s.rd Reg.WebPos.WPSRC 0 = 16 then k.speedAt t / 65536000
      else s.rdI Reg.WebPos.SCALE 0 * k.speedAt t / (2 ^ 48 * 1000 : Nat)

/-- SPD of R25: mm/s, saturating to the signed 23 bits of the field; the model rounds a speed between two towards minus
infinity (DESIGN CHOICE, log entry 145). -/
def State.spdTag (s : State) (t : Nat) : Int := clampI (-4194304) 4194303 (s.spdAt t / 1000)

/-! ### Observers (R182 to R184) -/

/-- 2^64, the unit of the fixed-point numbers below. -/
def unit64 : Nat := 2 ^ 64

/-- Product of two such numbers. -/
def mul64 (x y : Nat) : Nat := x * y / unit64

/-- e^(−y) for y up to 1, by its series: x − y·x/1 + y²·x/2 − …, nested from the term `k` of `n`. -/
def expSeries : Nat → Nat → Nat → Nat
  | 0, _, _ => unit64
  | n + 1, k, y => unit64 - mul64 y (expSeries n (k + 1) y) / k

/-- e^(−x), in units of 2^−64: the series at x ÷ 64, squared six times; 0 beyond x = 64. -/
def expNeg (x : Nat) : Nat :=
  if 64 * unit64 ≤ x then 0 else (List.range 6).foldl (fun r _ => mul64 r r) (expSeries 20 1 (x / 64))

/-- 2π, in units of 2^−64. -/
def twoPi : Nat := 115904311329233965478

/-- z = e^(−ωT) with ω = 2π × BW and T of `dt` ticks: where the discrete loop has its three poles (R182). -/
def pole (bw dt : Nat) : Nat := expNeg (twoPi * (bw * dt) / 16000000000)

/-- One unit at most of rounding (log entry 14). -/
def slack1 (x : Int) : Int := clampI (-1) 1 x

/-- The discrete equivalent over T of the gains 3ω, 3ω² and ω³ (R182): the loop whose characteristic polynomial is (q − z)³, with
gains 1 − z³, 3(1 − z)²(1 + z) ÷ 2T and (1 − z)³ ÷ T², times the innovation (DEDUCED, log entry 14). -/
def observerGain (bw dt : Nat) (e : Int) : Int × Int × Int :=
  if dt = 0 ∨ e = 0 then (0, 0, 0)
  else
    let z := pole bw dt
    let r := unit64 - z
    let c := Config.observerRound bw dt e
    (e * (unit64 - mul64 z (mul64 z z) : Nat) / unit64 + slack1 c.1,
     e * (3 * r * r * (unit64 + z) : Nat) * tickHz / (2 * dt * unit64 ^ 3 : Nat) + slack1 c.2.1,
     e * (r * r * r : Nat) * (tickHz * tickHz) / (dt * dt * unit64 ^ 3 : Nat) + slack1 c.2.2)

/-- What a measurement does: the corrected law, and whether it re-initialised the observer (R184). With innovation 0
the law goes on unchanged. -/
def measure (k : Track) (bw ilim now : Nat) (m : Int) : Track × Bool :=
  let e := m - k.at now
  if (ilim * 4096 : Nat) < e.natAbs then ({ p := m, v := k.v, a := 0, t0 := now }, true)
  else
    let g := observerGain bw (now - k.t0) e
    ({ p := k.at now + g.1, v := k.speedAt now + g.2.1, a := k.a + g.2.2, t0 := now }, false)

/-- OBSOK after a measurement that passed as the n-th in a row (R184). -/
def obsOk (n : Nat) : Nat := b2n (decide (16 ≤ n))

/-- A PFU source emits a token: causes at one tick on one source emit one (R200). -/
def State.pfuEmit (s : State) (src : Nat) : State :=
  if Tbl.get (fun _ => none) s.pfuTick src = some s.raw then s
  else ({ s with pfuTick := Tbl.set (fun _ => none) s.pfuTick src (some s.raw) } : State).emit src

/-- Set cause bits of an encoder channel's FCAUSE; a cause that FEVEN enables emits one token on 368 + c (R200). -/
def encCause (c bits : Nat) (s : State) : State :=
  let s1 := s.wr Reg.Enc.FCAUSE c (s.rd Reg.Enc.FCAUSE c ||| bits)
  if s.rd Reg.Enc.FEVEN c &&& bits = 0 then s1 else s1.pfuEmit (368 + c)

/-- The same for SSI port k, on 376 + k. -/
def ssiCause (k bits : Nat) (s : State) : State :=
  let s1 := s.wr Reg.Ssi.FCAUSE k (s.rd Reg.Ssi.FCAUSE k ||| bits)
  if bits = 0 ∨ s.rd Reg.Ssi.FEVEN k &&& bits = 0 then s1 else s1.pfuEmit (376 + k)

/-- The encoder observer takes a measurement of m counts at a raw tick. -/
def encMeasure (c : Nat) (m : Int) (now : Nat) (s : State) : State :=
  let r := measure (encTrack s c) (s.rd Reg.Enc.BW c) (s.rd Reg.Enc.ILIM c) now (m * 65536)
  let k := r.1
  let n := if r.2 then 0 else min 16 ((s.encOf c).streak + 1)
  let s := ((s.wrI Reg.Enc.OPOS c (k.p / 65536)).wr Reg.Enc.OFRAC c (low 16 k.p)).wrI Reg.Enc.OSPD c k.v
  let s := (s.wrI Reg.Enc.OACC c k.a).setEnc c { s.encOf c with t0 := now, streak := n }
  if r.2 then ((encCause c 0x10 (s.wr Reg.Enc.OBSOK c 0)).sat Reg.Enc.INNOVCNT c 1).evt 3 c 0x41
  else if 16 ≤ n then s.wr Reg.Enc.OBSOK c 1 else s

/-- The SSI observer takes a measurement of m counts at a raw tick. -/
def ssiMeasure (k : Nat) (m : Int) (now : Nat) (s : State) : State :=
  let r := measure (ssiTrack s k) (s.rd Reg.Ssi.BW k) (s.rd Reg.Ssi.ILIM k) now (m * 65536)
  let q := r.1
  let n := if r.2 then 0 else min 16 ((s.ssiOf k).streak + 1)
  let s := ((s.wrI Reg.Ssi.OPOS k (q.p / 65536)).wr Reg.Ssi.OFRAC k (low 16 q.p)).wrI Reg.Ssi.OSPD k q.v
  let s := (s.wrI Reg.Ssi.OACC k q.a).setSsi k { s.ssiOf k with t0 := now, streak := n }
  if r.2 then (ssiCause k 0x08 (s.wr Reg.Ssi.OBSOK k 0)).evt 3 (8 + k) 0x41
  else if 16 ≤ n then s.wr Reg.Ssi.OBSOK k 1 else s

/-! ### Web position source (R195 to R198) -/

/-- A source is enabled: a channel or port with EN 1, or the fabric. -/
def srcEnabled (s : State) (src : Nat) : Bool :=
  if src < 8 then s.on Reg.Enc.EN src else if src < 12 then s.on Reg.Ssi.EN (src - 8) else src == 16

/-- A source is faulted now (R198, R508). -/
def srcFaulted (s : State) (src : Nat) : Bool :=
  if src < 8 then s.on Reg.Enc.WFA src || s.on Reg.Enc.WFB src || s.on Reg.Enc.ILLACT src
  else if src < 12 then (s.ssiOf (src - 8)).fault
  else src == 16 && s.web.fabFault

/-- P(ta) of a source, as PANCH holds it; sources without counts leave PANCH (log entry 15). -/
def srcCount (s : State) (src : Nat) : Int :=
  if src < 12 then ((srcTrack s src).getD {}).at s.raw else s.rdI Reg.WebPos.PANCH 0

/-- WOFS ← POS now, under the settings in force (R197). -/
def anchorPos (s : State) : State := s.wrI Reg.WebPos.WOFS 0 s.pos

/-- PANCH ← P now of the source named. -/
def anchorCount (src : Nat) (s : State) : State := s.wrI Reg.WebPos.PANCH 0 (srcCount s src)

/-- Set a cause of TES head block h; its TEVEN bit lets it emit on 320 + h (R228). -/
def tesCause (h b : Nat) (s : State) : State :=
  let s1 := s.wr Reg.TesHead.TCAUSE h (setBit (s.rd Reg.TesHead.TCAUSE h) b)
  if (s.rd Reg.TesHead.TEVEN h).testBit b then s1.emit (320 + h) else s1

/-- NOPOS of head h follows WPVALID while it runs in POSITION mode (R208). -/
def noposHead (h : Nat) (s : State) : State :=
  let n := s.on Reg.TesHead.RUNNING h && s.rd Reg.TesHead.TSRC h == 0 && !s.wpValid
  let was := s.on Reg.TesHead.NOPOS h
  let s := s.wr Reg.TesHead.NOPOS h (b2n n)
  if n && !was then tesCause h 1 s else s

/-- NOPOS of every head follows WPVALID. -/
def nopos (s : State) : State := (List.range 32).foldl (fun s h => noposHead h s) s

/-- Every pending mark is discarded and counted (R226). -/
def discardMarks (s : State) : State :=
  let n := s.marks.length
  { (s.sat Reg.MarkerGlobal.MKLOSTCNT 0 n).wr Reg.MarkerGlobal.PENDING 0 0 with marks := [] }

/-- WPVALID goes to 0: POS freezes, the speed reads 0, coasting ends, marks are discarded (R198, R208, R226). -/
def posLost (s : State) : State :=
  let p := s.pos
  let s := s.wrAll 0 [(Reg.WebPos.WPVALID, 0), (Reg.WebPos.COASTING, 0), (Reg.WebPos.WPSPD, 0)]
  let s := (s.wrI Reg.WebPos.WPOS 0 p).setWeb { s.web with coast := none, frozen := p }
  nopos (discardMarks s)

/-- The source switches to another with POS continuous (R197). -/
def switchSource (src : Nat) (s : State) : State :=
  let s := anchorCount src (anchorPos s)
  (s.wr Reg.WebPos.WPSRC 0 src).setWeb { s.web with coast := none }

/-- The alternate source may take over (R198). -/
def takesOver (s : State) : Bool :=
  let alt := s.rd Reg.WebPos.WPALT 0
  s.on Reg.WebPos.ALTEN 0 && srcEnabled s alt && !srcFaulted s alt

/-- The web-position source enters a fault: the alternate takes over when it can, else POS coasts (R198). -/
def enterSourceFault (s : State) : State :=
  if takesOver s then
    (switchSource (s.rd Reg.WebPos.WPALT 0) s).wrAll 0 [(Reg.WebPos.ALTEN, 0), (Reg.WebPos.SWITCHED, 1), (Reg.WebPos.COASTING, 0)]
  else
    (s.wr Reg.WebPos.COASTING 0 1).setWeb { s.web with coast := srcTrack s (s.rd Reg.WebPos.WPSRC 0) }

/-- The coasting source leaves its fault and resumes without a jump (R198). -/
def leaveSourceFault (s : State) : State :=
  let s := anchorCount (s.rd Reg.WebPos.WPSRC 0) (anchorPos s)
  (s.wr Reg.WebPos.COASTING 0 0).setWeb { s.web with coast := none }

/-- The web position follows the live fault of its source: entered once, left once, while WPVALID is 1 (R198). -/
def followSource (s : State) : State :=
  if !s.wpValid then s
  else
    let f := srcFaulted s (s.rd Reg.WebPos.WPSRC 0)
    if f && s.web.coast.isNone then enterSourceFault s
    else if !f && s.web.coast.isSome then leaveSourceFault s
    else s

/-! ### Divided outputs (R193, R194) -/

/-- The hidden part of a divided output. -/
def State.divOf (s : State) (n : Nat) : DivState := Tbl.get (fun _ => {}) s.divs n

/-- Replace it. -/
def State.setDiv (s : State) (n : Nat) (d : DivState) : State := { s with divs := Tbl.set (fun _ => {}) s.divs n d }

/-- A count edge of encoder channel c in direction `dir` (1 or −1) at divided output n. -/
def divEdge (c : Nat) (dir : Int) (s : State) (n : Nat) : State :=
  if s.on Reg.Divider.EN n && s.rd Reg.Divider.DSRC n == c then
    let d := s.divOf n
    let m := s.rd Reg.Divider.M n
    let acc := d.acc + dir * s.rd Reg.Divider.N n
    let steps := if s.on Reg.Divider.DINV n then -(acc / m) else acc / m
    let want := d.backlog + steps
    let b := clampI (-65535) 65535 want
    let s := (s.setDiv n { d with acc := acc % m, backlog := b }).wr Reg.Divider.BACKLOG n b.natAbs
    if b = want then s else s.wr Reg.Divider.DIVOVF n 1
  else s

/-! ### Encoder edges (R176 to R181) -/

/-- C reaches or leaves a soft limit: `want` is where the count would go. The value is held within the limits; LIMHIT
rises with one token on 380 + c ÷ 2 (R179). -/
def setCount (c : Nat) (want : Int) (s : State) : State :=
  let v := clampI (s.rdI Reg.Enc.LIMLO c) (s.rdI Reg.Enc.LIMHI c) want
  let held := v != want
  let was := s.on Reg.Enc.LIMHIT c
  let s := (s.wrI Reg.Enc.COUNT c v).wr Reg.Enc.LIMHIT c (b2n held)
  if held && !was then s.pfuEmit (380 + c / 2) else s

/-- Direction of an edge that changed one of A (a to a') and B, to levels (a', b'): up when A leads B (R176). -/
def edgeDir (a a' b' : Bool) : Int := if (a != a') then (if a' == b' then -1 else 1) else (if a' == b' then 1 else -1)

/-- Whether the decoding counts the edge: every edge, edges of A, rising edges of A (R176). -/
def decCounts (dec : Nat) (a a' : Bool) : Bool := dec == 0 || (a != a' && (dec != 2 || a'))

/-- TES heads that count the edges of channel c: one trigger falls due every EDGEN count edges (R202). -/
def tesEdge (c : Nat) (s : State) (h : Nat) : State :=
  if s.on Reg.TesHead.RUNNING h && s.rd Reg.TesHead.TSRC h == 3 && s.rd Reg.TesHead.ESRC h == c then
    let t := Tbl.get (fun _ => {}) s.tes h
    let t' := if s.rd Reg.TesHead.EDGEN h ≤ t.edges + 1 then { t with edges := 0, due := t.due + 1 } else { t with edges := t.edges + 1 }
    { s with tes := Tbl.set (fun _ => {}) s.tes h t' }
  else s

/-- A count edge set C: the observer measures, dividers and EDGE-mode heads count (R178, R183, R193, R202). -/
def countEdge (c : Nat) (dir : Int) (s : State) : State :=
  let s := (s.wr Reg.Enc.DIRN c (b2n (decide (dir < 0)))).wr Reg.Enc.EDGET c s.raw
  let s := s.setEnc c { s.encOf c with counted := true }
  let s := (encMeasure c (s.rdI Reg.Enc.COUNT c) s.raw s).evt 3 c 0x40
  let s := (List.range 8).foldl (divEdge c dir) s
  (List.range 32).foldl (tesEdge c) s

/-- C follows RCOUNT with the hysteresis of R178; a reversal needs two counts, except off a limit (R179), and before the
first count edge there is nothing to reverse (log entry 104). -/
def follows (s : State) (c : Nat) (d : Int) : Bool :=
  d != 0 && (!s.on Reg.Enc.HYST c || !(s.encOf c).counted || s.on Reg.Enc.LIMHIT c || (d < 0) == s.on Reg.Enc.DIRN c || decide (2 ≤ d.natAbs))

/-- RCOUNT moves by one in a direction. -/
def countStep (c : Nat) (dir : Int) (s : State) : State :=
  let old := s.rdI Reg.Enc.COUNT c
  let rc := (s.encOf c).rcount + dir
  if !follows s c (rc - old) then s.setEnc c { s.encOf c with rcount := rc }
  else
    let s := setCount c rc s
    let new := s.rdI Reg.Enc.COUNT c
    let s := s.setEnc c { s.encOf c with rcount := if s.on Reg.Enc.LIMHIT c then new else rc }
    if new = old then s else countEdge c (if old < new then 1 else -1) s

/-- ENC_EDGE: the accepted levels of A and B are now a and b (R176, R177); a wire-faulted pair keeps its level (R175). -/
def execEncEdge (c : Nat) (a b : Bool) (s : State) : Out :=
  within c 8 <|
    if !s.on Reg.Enc.EN c then ok s
    else
      let e := s.encOf c
      let a := if s.on Reg.Enc.WFA c then e.a else a
      let b := if s.on Reg.Enc.WFB c then e.b else b
      let s1 := s.setEnc c { e with a := a, b := b }
      if a = e.a ∧ b = e.b then ok s
      else if a ≠ e.a ∧ b ≠ e.b then
        ok (followSource ((encCause c 0x08 (s1.wr Reg.Enc.ILLACT c 1)).sat Reg.Enc.ILLCNT c 1))
      else if decCounts (s.rd Reg.Enc.DEC c) e.a a then
        ok (countStep c (if s.on Reg.Enc.INVDIR c then -edgeDir e.a a b else edgeDir e.a a b) s1)
      else ok s1

/-- Live bit of a pair: 0 A, 1 B, 2 Z. -/
def wfField (pair : Nat) : Field := match pair with | 0 => Reg.Enc.WFA | 1 => Reg.Enc.WFB | _ => Reg.Enc.WFZ

/-- WIRE_FAULT_ENTER: the wires of a pair have agreed for longer than F + 50 ns (R175). -/
def execWireFaultEnter (c pair : Nat) (s : State) : Out :=
  within c 8 <| within pair 3 <|
    if !s.on Reg.Enc.EN c || s.on (wfField pair) c then ok s
    else ok (followSource ((encCause c (2 ^ pair) (s.wr (wfField pair) c 1)).sat Reg.Enc.WIRECNT c 1))

/-- WIRE_FAULT_EXIT: the wires have disagreed for 1 ms; the pair's accepted level takes its present level without an
edge (R175). -/
def execWireFaultExit (c pair : Nat) (level : Bool) (s : State) : Out :=
  within c 8 <| within pair 3 <|
    if !s.on (wfField pair) c then ok s
    else
      let e := s.encOf c
      let e := match pair with | 0 => { e with a := level } | 1 => { e with b := level } | _ => e
      ok (followSource ((s.wr (wfField pair) c 0).setEnc c e))

/-- ILLACT_CLEAR: 1 ms without an illegal transition (R177). -/
def execIllactClear (c : Nat) (s : State) : Out :=
  within c 8 <| ok (followSource (s.wr Reg.Enc.ILLACT c 0))

/-- Whether an index finds C where CPR expects it (R181). -/
def indexOk (s : State) (c : Nat) : Bool :=
  let cpr : Int := s.rd Reg.Enc.CPR c
  let d := s.rdI Reg.Enc.COUNT c - (s.encOf c).zPrev
  decide ((d - cpr).natAbs ≤ 1 ∨ (d + cpr).natAbs ≤ 1)

/-- INDEX_EDGE: an accepted rising edge of Z latches C, checks it and may zero it (R180, R181). -/
def execIndexEdge (c : Nat) (s : State) : Out :=
  within c 8 <|
    let e := s.encOf c
    if !s.on Reg.Enc.EN c || s.on Reg.Enc.WFZ c || (s.on Reg.Enc.ZGATE c && !(e.a && e.b)) then ok s
    else
      let cnt := s.rdI Reg.Enc.COUNT c
      let s1 := (s.wrI Reg.Enc.ZLATCH c cnt).pfuEmit (352 + c)
      let s1 := if s.rd Reg.Enc.CPR c ≠ 0 ∧ e.zSeen ∧ !indexOk s c then (encCause c 0x20 s1).sat Reg.Enc.ZERRCNT c 1 else s1
      let zero := s.rd Reg.Enc.ZMODE c == 2 || (s.rd Reg.Enc.ZMODE c == 1 && !e.zDone)
      if zero then
        let s1 := setCount c 0 s1
        ok (s1.setEnc c { e with rcount := s1.rdI Reg.Enc.COUNT c, zSeen := true, zPrev := 0, zDone := true })
      else ok (s1.setEnc c { e with zSeen := true, zPrev := cnt })

/-- The observer of channel c checks its bound (R183). -/
def boundCheck (s : State) (c : Nat) : State :=
  let k := encTrack s c
  let n := s.rdI Reg.Enc.COUNT c
  let p := k.at s.raw
  let v := k.speedAt s.raw
  if !s.on Reg.Enc.EN c then s
  else if 0 < v ∧ (n + 1) * 65536 < p then encMeasure c (n + 1) s.raw s
  else if v < 0 ∧ p < (n - 1) * 65536 then encMeasure c (n - 1) s.raw s
  else s

/-- WPOS and WPSPD take the present values. -/
def showWeb (s : State) : State := (s.wrI Reg.WebPos.WPOS 0 s.pos).wrI Reg.WebPos.WPSPD 0 (sat64 (s.spdAt s.raw))

/-- OBSERVER_BOUND_CHECK: the 100 ns update (R183, Table 5-6). -/
def execObserverBoundCheck (s : State) : Out := ok (showWeb ((List.range 8).foldl boundCheck s))

/-! ### SSI (R186 to R190) -/

/-- SSI_POLL: the port starts a frame; `low` says that data is low just before the first falling edge (R186, R188). -/
def execSsiPoll (k : Nat) (low : Bool) (s : State) : Out :=
  within k 4 <|
    let e := s.ssiOf k
    if !s.on Reg.Ssi.EN k || e.frame.isSome then ok s
    else
      let s1 := s.setSsi k { e with frame := some s.raw, idleLow := low }
      ok (if low then ssiCause k 0x01 s1 else s1)

/-- Gray code to binary, `n` bits. -/
def grayToBin (n v : Nat) : Nat := (List.range n).foldl (fun x j => x ^^^ (v >>> (j + 1))) v

/-- A frame ends with a fault: counted once, the port is faulted, no measurement (R188). -/
def ssiFault (k : Nat) (s : State) : State :=
  followSource ((s.sat Reg.Ssi.FAULTCNT k 1).setSsi k { s.ssiOf k with fault := true, frame := none })

/-- The difference of two values modulo 2^BITS as a signed number (R189). -/
def ssiDelta (bits new old : Nat) : Int := signed bits ((new + 2 ^ bits - old % 2 ^ bits) % 2 ^ bits)

/-- SSI_FRAME_END: the frame under way ends with the data word and error bit received (R186, R188, R189). -/
def execSsiFrameEnd (k raw : Nat) (err : Bool) (s : State) : Out :=
  within k 4 <|
    let e := s.ssiOf k
    match e.frame with
    | none => ok s
    | some t =>
      let n := s.rd Reg.Ssi.BITS k
      let v := if s.on Reg.Ssi.GRAY k then grayToBin n (raw % 2 ^ n) else raw % 2 ^ n
      let old := s.rd Reg.Ssi.SVALUE k
      let d := ssiDelta n v old
      let sens := s.on Reg.Ssi.ERRBIT k && err
      let jump := e.seen && decide (2 ^ (n - 1) ≤ d.natAbs)
      let s1 := ((s.wr Reg.Ssi.SVALUE k v).sat Reg.Ssi.FRAMES k 1).evt 3 (8 + k) 0x42
      let s1 := ssiCause k (4 * b2n sens ||| 16 * b2n jump) s1
      let pos := if e.seen then s.rdI Reg.Ssi.SPOS k + d else v
      let s1 := (s1.wrI Reg.Ssi.SPOS k pos).setSsi k { s1.ssiOf k with seen := true, frame := none }
      if e.idleLow || sens || jump then ok (ssiFault k s1)
      else
        ok (followSource (ssiMeasure k pos (t + 16 * s.rd Reg.Ssi.SLAT k) (s1.setSsi k { s1.ssiOf k with fault := false })))

/-- SSI_NORESP_TIMEOUT: data has not gone low within SSITO; the frame is abandoned (R188). -/
def execSsiNorespTimeout (k : Nat) (s : State) : Out :=
  within k 4 <| if (s.ssiOf k).frame.isNone then ok s else ok (ssiFault k (ssiCause k 0x02 s))

/-! ### Probes (R191, R192) -/

/-- The FIFO of probe p. -/
def State.probe (s : State) (p : Nat) : List ProbeRec := Tbl.get (fun _ => []) s.probes p

/-- Replace the FIFO and show its oldest record (Table 5-5). -/
def setProbe (p : Nat) (q : List ProbeRec) (s : State) : State :=
  let s := { s with probes := Tbl.set (fun _ => []) s.probes p q }
  let r := q.headD {}
  (s.wrI Reg.Probe.PVAL p r.val).wrAll p
    [(Reg.Probe.FILL, q.length), (Reg.Probe.PTIME, r.time), (Reg.Probe.PVALID, b2n (!q.isEmpty)),
     (Reg.Probe.PQUAL, b2n r.qual), (Reg.Probe.PEDGE, b2n r.rising)]

/-- OBSOK of a source; the fabric and no source have no observer. -/
def srcObsOk (s : State) (src : Nat) : Bool :=
  if src < 8 then s.on Reg.Enc.OBSOK src else if src < 12 then s.on Reg.Ssi.OBSOK (src - 8) else true

/-- PROBE_EDGE: an accepted edge records time and position, or is counted on a full FIFO; a token goes out (R191, R192). -/
def execProbeEdge (p : Nat) (rising : Bool) (s : State) : Out :=
  within p 8 <|
    if !s.on Reg.Probe.EN p || !(s.rd Reg.Probe.EDGE p).testBit (if rising then 0 else 1) then ok s
    else
      let src := s.rd Reg.Probe.PSRC p
      let r : ProbeRec :=
        if src = 16 then
          { time := s.raw, val := s.pos, qual := s.wpValid && srcObsOk s (s.rd Reg.WebPos.WPSRC 0), rising := rising }
        else
          { time := s.raw, val := ((srcTrack s src).getD {}).at s.raw, qual := srcObsOk s src, rising := rising }
      let q := s.probe p
      if q.length < 16 then ok ((setProbe p (q ++ [r]) s).emit (360 + p))
      else ok ((s.sat Reg.Probe.OVFCNT p 1).emit (360 + p))

/-- DIV_STEP: a divided output issues its next quadrature step (R194). -/
def execDivStep (n : Nat) (s : State) : Out :=
  within n 8 <|
    let d := s.divOf n
    if !s.on Reg.Divider.EN n || d.backlog == 0 then ok s
    else
      let up := decide (0 < d.backlog)
      let b := if up then d.backlog - 1 else d.backlog + 1
      ok (((s.setDiv n { d with backlog := b, phase := (if up then d.phase + 1 else d.phase + 3) % 4 }).wr Reg.Divider.BACKLOG n b.natAbs).wr
        Reg.Divider.OUTCNT n (s.rd Reg.Divider.OUTCNT n + if up then 1 else 2 ^ 32 - 1))

/-! ### Web-position events -/

/-- WP_SOURCE_FAULT: the source is faulted and the web position has not yet followed (R198). -/
def execWpSourceFault (s : State) : Out :=
  if s.wpValid && srcFaulted s (s.rd Reg.WebPos.WPSRC 0) && s.web.coast.isNone then ok (enterSourceFault s) else ok s

/-- WP_SOURCE_RECOVER: a coasting source has left its fault (R198). -/
def execWpSourceRecover (s : State) : Out :=
  if s.wpValid && !srcFaulted s (s.rd Reg.WebPos.WPSRC 0) && s.web.coast.isSome then ok (leaveSourceFault s) else ok s

/-- COAST_EXPIRY: a fault has outlasted COAST (R198). -/
def execCoastExpiry (s : State) : Out := if s.wpValid && s.web.coast.isSome then ok (posLost s) else ok s

/-! ### X-class operations -/

/-- Fields that PFU.ENCCFG writes. -/
def encCfgFields : List Field :=
  [Reg.Enc.EN, Reg.Enc.HYST, Reg.Enc.ZMODE, Reg.Enc.ZGATE, Reg.Enc.INVDIR, Reg.Enc.DEC, Reg.Enc.FILT, Reg.Enc.BW, Reg.Enc.ILIM,
   Reg.Enc.LIMLO, Reg.Enc.LIMHI, Reg.Enc.CPR, Reg.Enc.FEVEN]

/-- Checks of PFU.ENCCFG (Table 5-3, R179). -/
def encCfgOk (v : Field → Nat) : Bool :=
  inRange (v Reg.Enc.FILT) 1 200 && inRange (v Reg.Enc.BW) 1 20000 && inRange (v Reg.Enc.ILIM) 1 65535 &&
    v Reg.Enc.ZMODE != 3 && v Reg.Enc.DEC != 3 && decide (signed 64 (v Reg.Enc.LIMLO) < signed 64 (v Reg.Enc.LIMHI))

/-- Device address of the PFU blocks. -/
def pfuBase : Nat := 0x20030000

/-- New limits hold a count beyond them at the limit (R179). -/
def newLimits (c : Nat) (s : State) : State :=
  let cnt := s.rdI Reg.Enc.COUNT c
  if clampI (s.rdI Reg.Enc.LIMLO c) (s.rdI Reg.Enc.LIMHI c) cnt = cnt then s
  else
    let s := setCount c cnt s
    s.setEnc c { s.encOf c with rcount := s.rdI Reg.Enc.COUNT c }

/-- With HYST 0, C equals RCOUNT: C takes RCOUNT when HYST is switched off between the counts of a reversal. That is no edge
(R178, log entry 104). -/
def joinCount (c : Nat) (s : State) : State :=
  if s.on Reg.Enc.HYST c || s.rdI Reg.Enc.COUNT c == (s.encOf c).rcount then s
  else
    let s := setCount c (s.encOf c).rcount s
    s.setEnc c { s.encOf c with rcount := s.rdI Reg.Enc.COUNT c }

/-- PFU.ENCCFG: writes an encoder block (R179). -/
def execPfuEnccfg (x : XWord) (s : State) : Out :=
  blockOp 3 0x01 8 x pfuBase 11 encCfgFields (fun _ _ => none) (fun v _ _ => encCfgOk v)
    (fun c _ s => newLimits c (joinCount c (s.setEnc c { s.encOf c with zDone := false }))) s

/-- Fields that PFU.SSICFG writes. -/
def ssiCfgFields : List Field :=
  [Reg.Ssi.EN, Reg.Ssi.GRAY, Reg.Ssi.BITS, Reg.Ssi.ERRBIT, Reg.Ssi.CLKDIV, Reg.Ssi.SDLY, Reg.Ssi.PERIOD, Reg.Ssi.TMON, Reg.Ssi.SSITO,
   Reg.Ssi.BW, Reg.Ssi.ILIM, Reg.Ssi.SLAT, Reg.Ssi.FEVEN]

/-- Checks of PFU.SSICFG: ranges of R186 and Table 5-4, and PERIOD against the frame time plus TMON (R187). The frame time
is (BITS + ERRBIT) clock periods of CLKDIV × 10 ns. -/
def ssiCfgOk (v : Field → Nat) : Bool :=
  inRange (v Reg.Ssi.BITS) 8 48 && inRange (v Reg.Ssi.CLKDIV) 10 1000 && inRange (v Reg.Ssi.SDLY) 0 2000 &&
    inRange (v Reg.Ssi.PERIOD) 1 10000 && inRange (v Reg.Ssi.TMON) 1 1000 && inRange (v Reg.Ssi.SSITO) 1 1000 &&
    inRange (v Reg.Ssi.BW) 1 20000 && inRange (v Reg.Ssi.ILIM) 1 65535 &&
    decide ((v Reg.Ssi.BITS + v Reg.Ssi.ERRBIT) * v Reg.Ssi.CLKDIV * 10 + v Reg.Ssi.TMON * 1000 ≤ v Reg.Ssi.PERIOD * 1000)

/-- PFU.SSICFG: writes an SSI block; the next frame is a first one (R187, R189). -/
def execPfuSsicfg (x : XWord) (s : State) : Out :=
  blockOp 3 0x02 4 x (pfuBase + 0x400) 9 ssiCfgFields (fun _ _ => none) (fun v _ _ => ssiCfgOk v)
    (fun k _ s => s.setSsi k { s.ssiOf k with seen := false }) s

/-- PFU.PRBCFG: writes a probe block and empties its FIFO (Table 5-5). -/
def execPfuPrbcfg (x : XWord) (s : State) : Out :=
  blockOp 3 0x03 8 x (pfuBase + 0x600) 1 [Reg.Probe.EN, Reg.Probe.EDGE, Reg.Probe.PSRC, Reg.Probe.PFILT] (fun _ _ => none)
    (fun v _ _ => v Reg.Probe.EDGE != 0 && (decide (v Reg.Probe.PSRC < 12) || v Reg.Probe.PSRC == 16) &&
      inRange (v Reg.Probe.PFILT) 1 200)
    (fun p _ s => setProbe p [] s) s

/-- PFU.PPOP: removes the oldest probe record (R192). -/
def execPfuPpop (x : XWord) (s : State) : Out :=
  direct 3 0x04 8 x (fun a s => .ok (setProbe a.i ((s.probe a.i).drop 1) s)) s

/-- PFU.DIVCFG: writes a divider block and clears its accumulator and backlog (R193, R194). -/
def execPfuDivcfg (x : XWord) (s : State) : Out :=
  blockOp 3 0x05 8 x (pfuBase + 0x800) 1
    [Reg.Divider.EN, Reg.Divider.DSRC, Reg.Divider.DINV, Reg.Divider.N, Reg.Divider.M] (fun _ _ => none)
    (fun v _ _ => decide (1 ≤ v Reg.Divider.N ∧ v Reg.Divider.N ≤ v Reg.Divider.M))
    (fun n _ s => (s.setDiv n { s.divOf n with acc := 0, backlog := 0 }).wr Reg.Divider.BACKLOG n 0) s

/-- Codes of WPSRC and WPALT (R195). -/
def wpCode (c : Nat) : Bool := decide (c < 12) || c == 16 || c == 31

/-- PFU.WPCFG: the web-position block with re-anchoring; WPVALID becomes 1, and a source that is faulted now enters its
fault at once (R197, R198). POS is anchored when WPSRC, WPALT or SCALE changes or WPVALID was 0 (log entry 16). -/
def execPfuWpcfg (x : XWord) (s : State) : Out :=
  xop 3 0x06 x (fun a s =>
    let v := fun f => blockVal (pfuBase + 0x900) a s f 0
    if 2 < a.ws.length ∨ !(wpCode (v Reg.WebPos.WPSRC) && wpCode (v Reg.WebPos.WPALT)) then .no stBOUNDS s
    else
      let change := !s.wpValid || [Reg.WebPos.WPSRC, Reg.WebPos.SCALE, Reg.WebPos.WPALT].any fun f => v f != s.rd f 0
      let s1 := if change then anchorCount (v Reg.WebPos.WPSRC) (anchorPos s) else s
      let s1 := blockWrite (pfuBase + 0x900) a 0 0
        [Reg.WebPos.WPSRC, Reg.WebPos.WPALT, Reg.WebPos.ALTEN, Reg.WebPos.COAST, Reg.WebPos.SCALE] s1
      let keep := !change && s.web.coast.isSome
      if keep && srcFaulted s1 (s1.rd Reg.WebPos.WPSRC 0) then .fin stOK (nopos (if takesOver s1 then enterSourceFault s1 else s1))
      else
        let s1 := if keep then s1 else (s1.wrAll 0 [(Reg.WebPos.WPVALID, 1), (Reg.WebPos.COASTING, 0)]).setWeb { s1.web with coast := none }
        .fin stOK (nopos (followSource s1))) s

/-- PFU.WPSET: steps the web position to a given POS (R197). -/
def execPfuWpset (x : XWord) (s : State) : Out :=
  xop 3 0x07 x (fun a s =>
    if a.arg % 2 = 0 then .no stBOUNDS s
    else if !(runningHeads s).isEmpty then .no stHEADBUSY s
    else
      let p := (a.w 0).toInt
      let s1 := s.wrI Reg.WebPos.WPSTEPNM 0 (sat64 (p - s.pos))
      let s1 := s1.wrI Reg.WebPos.WOFS 0 p
      let s1 := match s.web.coast with
        | some k => s1.wrI Reg.WebPos.PANCH 0 (k.at s.raw)
        | none => anchorCount (s.rd Reg.WebPos.WPSRC 0) s1
      .fin stOK (if s.wpValid then s1 else s1.setWeb { s1.web with frozen := p })) s

/-! ### Counters and causes (R201) -/

/-- Clear the counters of one PFU block. -/
def pfuCntOne (i : Nat) (s : State) : State :=
  if i < 8 then s.clr i [Reg.Enc.ILLCNT, Reg.Enc.INNOVCNT, Reg.Enc.WIRECNT, Reg.Enc.ZERRCNT]
  else if i < 12 then s.clr (i - 8) [Reg.Ssi.FRAMES, Reg.Ssi.FAULTCNT]
  else if 16 ≤ i ∧ i < 24 then s.clr (i - 16) [Reg.Probe.OVFCNT]
  else if 24 ≤ i ∧ i < 32 then s.clr (i - 24) [Reg.Divider.OUTCNT]
  else s

/-- Clear cause bits of one PFU block. -/
def pfuEvOne (arg i : Nat) (s : State) : State :=
  if i < 8 then s.wr Reg.Enc.FCAUSE i (s.rd Reg.Enc.FCAUSE i &&& (255 - arg % 256))
  else if i < 12 then s.wr Reg.Ssi.FCAUSE (i - 8) (s.rd Reg.Ssi.FCAUSE (i - 8) &&& (255 - arg % 256))
  else if 24 ≤ i ∧ i < 32 then (if arg.testBit 0 then s.wr Reg.Divider.DIVOVF (i - 24) 0 else s)
  else if i = 32 then (if arg.testBit 0 then s.wr Reg.WebPos.SWITCHED 0 0 else s)
  else s

/-- Instances that PFU.CNTCLR and PFU.EVCLR name (R201). -/
def pfuInst (i : Nat) : Bool := decide (i < 12 ∨ (16 ≤ i ∧ i ≤ 32))

end Sys2Proof.Machine
end

