-- ==== Sys2Proof/Machine/HeadCore.lean ====
section
/-!
DEFINITION. What HAU and TES share of a head: its hidden state, geometry of its rows and elastic buffer, trigger records,
missing rows and GAP packets, epochs of rows, and CMDs to its camera (R131 to R164).
-/
namespace Sys2Proof.Machine

/-- What TES keeps of head h. -/
def State.tesOf (s : State) (h : Nat) : TesState := Tbl.get (fun _ => {}) s.tes h

/-- Replace it. -/
def State.setTes (s : State) (h : Nat) (e : TesState) : State := { s with tes := Tbl.set (fun _ => {}) s.tes h e }

/-- A view beside its block. -/
def State.view (s : State) (v : Nat) : ViewState := Tbl.get (fun _ => {}) s.views v

/-- Replace it. -/
def State.setView (s : State) (v : Nat) (e : ViewState) : State := { s with views := Tbl.set (fun _ => {}) s.views v e }

/-! ### Row geometry (R121, R152, R162) -/

/-- Samples per column S. -/
def planesOf (s : State) (h : Nat) : Nat := match s.rd Reg.Head.FMT h with | 0 => 1 | 3 => 2 | _ => 3

/-- Bits per sample d. -/
def depthBits (s : State) (h : Nat) : Nat := 8 + 2 * min 4 (s.rd Reg.Head.DEPTH h)

/-- Columns per strip. -/
def headStripW (s : State) (h : Nat) : Nat := 64 * 2 ^ s.rd Reg.Head.STRIPW h

/-- Strips per row NS. -/
def stripsOf (s : State) (h : Nat) : Nat := cdiv (s.rd Reg.Head.HW h) (headStripW s h)

/-- Data blocks of a line of n columns. -/
def blocksFor (s : State) (h n : Nat) : Nat := cdiv (n * planesOf s h * depthBits s h) 64

/-- Packed payload bytes of a row, PB (R162). -/
def payloadBytes (s : State) (h : Nat) : Nat := 8 * blocksFor s h (s.rd Reg.Head.HW h)

/-- Bytes of an elastic-buffer slot, SLOT (R162). -/
def slotBytes (s : State) (h : Nat) : Nat := 64 * cdiv (32 + payloadBytes s h) 64

/-- EBSLOTS for a number of banks (R162). -/
def slotsFor (s : State) (h banks : Nat) : Nat := banks * 524288 / slotBytes s h

/-- Device address of a slot. -/
def slotAddr (s : State) (h k : Nat) : Nat := (s.head h).bank * 0x80000 + k * slotBytes s h

/-! ### Row tags (R20 to R25) -/

/-- The four words of a row tag. -/
def Tag.words (t : Tag) : List Word :=
  [fld t.kind 4 60 ||| fld t.head 5 55 ||| fld t.xset 8 47 ||| fld t.epoch 7 40 ||| fld t.lseq 40 0,
   BitVec.ofInt 64 t.pos, BitVec.ofNat 64 t.time,
   fld t.flags 16 48 ||| fld t.strip 8 40 ||| fld t.dlen 17 23 ||| fld (low 23 t.spd) 23 0]

/-! ### View membership (R338, R340) -/

/-- The view that a head belongs to. -/
def viewOf (s : State) (h : Nat) : Option Nat := (List.range 16).find? fun v => (membersOf s v).contains h

/-- The heads that TES triggers on a head's schedule, itself among them while it triggers it (R340). -/
def scheduleOf (s : State) (h : Nat) : List Nat :=
  match viewOf s h with
  | some v => (membersOf s v).filter (s.on Reg.TesHead.RUNNING)
  | none => if s.on Reg.TesHead.RUNNING h then [h] else []

/-! ### Shares of the stitch buffer (R360) -/

/-- The output slots that a head declares: OUTMASK of the image loaded last that has an entry for it; all eight while
none has (log entry 22). -/
def declMask (s : State) (h : Nat) : Nat :=
  let e := fun k => let a := Tbl.get (fun _ => {}) s.rpa.areas k; (Tbl.get (fun _ => none) a.heads h).map fun e => (a.ord, e.outMask)
  match e 0, e 1 with
  | some a, some b => if a.1 < b.1 then b.2 else a.2
  | some a, none => a.2
  | none, some b => b.2
  | none, none => 0xFF

/-- Views with members, with their SBWEIGHT. -/
def usedViews (s : State) : List (Nat × Nat) :=
  ((List.range 16).filter fun v => s.on Reg.View.NMEM v).map fun v => (v, s.rd Reg.View.SBWEIGHT v)

/-- Units of 64 KiB of a view's share: the floor of its proportion of 128, and one of the units left over by largest
remainder, then lowest view (R161, R360). -/
def shareUnits (s : State) (v : Nat) : Nat :=
  let ws := usedViews s
  let total := (ws.map (·.2)).sum
  let w := s.rd Reg.View.SBWEIGHT v
  let left := 128 - (ws.map fun e => 128 * e.2 / total).sum
  let ahead := ws.countP fun e => e.2 != 0 &&
    (decide (128 * w % total < 128 * e.2 % total) || (128 * e.2 % total == 128 * w % total && decide (e.1 < v)))
  if w = 0 then 0 else 128 * w / total + b2n (decide (ahead < left))

/-- Bytes that a view row reserves (R360). -/
def reserveBytes (s : State) (v : Nat) : Nat :=
  let sides := b2n (s.on Reg.View.REMOTEL v) + b2n (s.on Reg.View.REMOTER v)
  let slots := popcount (BitVec.ofNat 64 ((membersOf s v).foldl (fun m h => m ||| declMask s h) 0))
  ((membersOf s v).map fun h => s.rd Reg.Head.HW h * 2 * popcount (BitVec.ofNat 64 (declMask s h))).sum +
    sides * (s.rd Reg.View.EXW v * 2 * slots)

/-- SBROWS of every view follows the shares (R360). -/
def showSbrows (s : State) : State :=
  (List.range 16).foldl (fun t v =>
    let r := reserveBytes s v
    t.wr Reg.View.SBROWS v (if s.rd Reg.View.NMEM v = 0 ∨ r = 0 then 0 else shareUnits s v * 65536 / r)) s

/-! ### Epochs of head rows (R39) -/

/-- The epoch of a row at a position: each cut that has reached HAU and lies ahead in order is taken once its Pcut is
reached. -/
def rowEpoch (e : HeadState) (pos : Int) : Nat :=
  e.cuts.foldl (fun ep c =>
    if epochLater c.epoch ep && (if c.dir = 0 then decide (c.pos ≤ pos) else decide (pos ≤ c.pos)) then c.epoch else ep) e.epoch

/-! ### Missing rows and GAP packets (R58, R164) -/

/-- Send the GAP packet of the run under way (R164, R172). -/
def sendGap (h : Nat) (s : State) : State :=
  let e := s.head h
  match e.gap with
  | none => s
  | some g =>
    let p : GapPkt := { stage := 5, stream := h, lseq := g.lseq, pos := g.pos, time := g.time, skind := g.skind, count := g.count, rows := g.rows }
    let s := s.setHead h { e with gap := none, gapBefore := true }
    ({ s with gaps := s.gaps ++ [p] }.evt 2 h 0x02).emit (288 + h)

/-- The tag of the row of a trigger record for which no line came. -/
def TrigRec.tag (h : Nat) (r : TrigRec) : Tag := { head := h, xset := r.xset, lseq := r.lseq, pos := r.pos, time := r.time, spd := r.spd }

/-- A row is missing: a Sump note, and the run it belongs to (R164). -/
def missRow (h skind : Nat) (r : Tag) (s : State) : State :=
  let s := (s.note h skind { r with epoch := rowEpoch (s.head h) r.pos }).evt 2 h 0x03
  let joins := match (s.head h).gap with
    | some g => g.skind == skind && r.lseq == (g.lseq + g.count) % 2 ^ 40
    | none => false
  let s := if joins then s else sendGap h s
  let e := s.head h
  let ep := rowEpoch e r.pos
  let g : GapRun := match e.gap with
    | some g => { g with count := g.count + 1, rows := g.rows ++ [(r.pos, ep)] }
    | none => { lseq := r.lseq, pos := r.pos, time := s.pt, skind := skind, count := 1, rows := [(r.pos, ep)] }
  s.setHead h { e with gap := some g, epoch := ep }

/-- A line is being received that answers a trigger. -/
def HeadState.receiving (e : HeadState) : Bool := match e.line with | some l => !l.drop | none => false

/-- The oldest outstanding record closes unanswered (R155 to R157). While an older trigger's line is being received its row is
decided after that one's: HAU decides missing rows in increasing LSEQ (R164). -/
def closeOldest (h : Nat) (s : State) : State :=
  match (s.head h).recs with
  | [] => s
  | r :: rs =>
    let e := s.head h
    if e.receiving then (s.setHead h { e with recs := rs, unanswered := e.unanswered ++ [r] }).sat Reg.Head.NOLINECNT h 1
    else missRow h 0x02 (r.tag h) ((s.setHead h { e with recs := rs }).sat Reg.Head.NOLINECNT h 1)

/-- The line is complete: the rows whose triggers closed meanwhile are missing (R164). -/
def decideClosed (h : Nat) (s : State) : State :=
  let rs := (s.head h).unanswered
  rs.foldl (fun s r => missRow h 0x02 (r.tag h) s) (s.setHead h { s.head h with unanswered := [] })

/-- The n oldest records close unanswered. -/
def closeRecs (h : Nat) : Nat → State → State
  | 0, s => s
  | n + 1, s => closeRecs h n (closeOldest h s)

/-- HAU takes a trigger record; with 1,024 outstanding it first closes the oldest (R154, R156). -/
def addRec (h : Nat) (r : TrigRec) (s : State) : State :=
  let s := if 1024 ≤ (s.head h).recs.length then closeOldest h s else s
  (s.setHead h { s.head h with recs := (s.head h).recs ++ [r] }).wr Reg.Head.LSEQNEXT h (s.rd Reg.Head.LSEQNEXT h + 1)

/-! ### Camera register accesses (R135, R136) -/

/-- The blocks of a CMD (R126, R135). -/
def CamCmd.blocks (c : CamCmd) : List Word :=
  (fld c.addr 32 24 ||| fld c.tag 8 16 ||| fld (if c.write then 2 else 1) 8 8 ||| 0x99) ::
    (if c.write then [fld c.data 32 0] else [])

/-- A new CMD or XSETDL sequence becomes due on the master downlink (R125). -/
def sendSeq (h : Nat) (ws : List Word) (s : State) : State :=
  let e := s.head h
  s.setHead h { e with sent := ws, down := { e.down with seqs := e.down.seqs ++ [ws] } }

/-- A TRIG block becomes due on it. -/
def sendTrig (h : Nat) (w : Word) (s : State) : State :=
  let e := s.head h
  s.setHead h { e with trig := w, down := { e.down with trigs := e.down.trigs ++ [w] } }

/-- Send a CMD, or let it wait behind the outstanding one (R136; log entry 146). -/
def sendCmd (h : Nat) (c : CamCmd) (s : State) : State :=
  let e := s.head h
  if e.cmd.isSome then s.setHead h { e with cmds := e.cmds ++ [c] }
  else
    let c := { c with tag := e.tag }
    sendSeq h c.blocks (s.setHead h { e with cmd := some c, tag := (e.tag + 1) % 256 })

/-- The outstanding CMD has ended; the next one goes out. -/
def nextCmd (h : Nat) (s : State) : State :=
  let e := s.head h
  let s := s.setHead h { e with cmd := none, cmds := e.cmds.drop 1 }
  match e.cmds with
  | [] => s
  | c :: _ => sendCmd h c s

/-- The camera's CTRL word with a RUN bit, from the head and TES blocks (Table 3-6, R209). -/
def ctrlWord (s : State) (h run : Nat) : Nat :=
  s.rd Reg.Head.LANES h * 2 ^ 12 + s.rd Reg.Head.DEPTH h * 2 ^ 8 + s.rd Reg.Head.FMT h * 2 ^ 4 + s.rd Reg.TesHead.INBAND h * 2 + run

/-- The CMDs of a start that has ended: those that wait are dropped, the outstanding one's answer does nothing. -/
def dropStart (e : HeadState) : HeadState :=
  { e with start := none, cmds := e.cmds.filter fun c => c.use != .start,
           cmd := e.cmd.map fun c => if c.use = .start then { c with use := .stop } else c }

/-- A HAU.START ends with a status and leaves the head neither running nor starting (R150). -/
def failStart (h st : Nat) (s : State) : State := (s.setHead h (dropStart (s.head h))).complete 2 0x05 h st

/-! ### Exposure-set downloads (R131) -/

/-- The blocks of an XSETDL (R131). -/
def xsetBlocks (set xtag : Nat) (img : List Word) : List Word :=
  (fld xtag 8 16 ||| fld set 8 8 ||| 0x87) :: (List.range 5).map fun k => img.getD k 0

/-- EXPNS of a set as TES holds it. -/
def expnsOf (s : State) (h set : Nat) : Nat := Tbl.get (fun _ => 0) (s.tesOf h).expns set

/-- Start a download of five words into a set; XTAG counts the downloads of the head (log entry 146). -/
def startDownload (h set : Nat) (img : List Word) (start : Bool) (s : State) : State :=
  let t := s.tesOf h
  sendSeq h (xsetBlocks set t.xtag img)
    (s.setTes h { t with dl := some { set := set, xtag := t.xtag, img := img, start := start }, xtag := (t.xtag + 1) % 256 })

/-! ### Block slots of the master downlink (R125) -/

/-- The block that a slot takes, whether it is a data block, and what remains due: TRIG, a SKIP due 4,032 blocks after the
last, the open sequence's next data block, TAPREQ, a new sequence, IDLE. -/
def Downlink.slot (d : Downlink) : (Bool × Word) × Downlink :=
  match d.trigs with
  | w :: ws => ((false, w), { d with trigs := ws })
  | [] =>
    if 4032 ≤ d.since then ((false, 0x2D), d)
    else match d.data, d.taps, d.seqs with
      | w :: ws, _, _ => ((true, w), { d with data := ws })
      | [], w :: ws, _ => ((false, w), { d with taps := ws })
      | [], [], (w :: ws) :: qs => ((false, w), { d with data := ws, seqs := qs })
      | [], [], [] :: qs => ((false, 0x1E), { d with seqs := qs })
      | [], [], [] => ((false, 0x1E), d)

/-- A block slot passes: the intervals between SKIPs count blocks. -/
def Downlink.pass (d : Downlink) : Downlink :=
  let r := d.slot
  { r.2 with since := if r.1 = (false, 0x2D) then 0 else d.since + 1, last := some r.1 }

/-- A raw tick of a head's master downlink: a block slot passes where one begins and the downlink is up. -/
def downTick (h : Nat) (s : State) : State :=
  if downUp s h && Config.slotBegins h s.raw then s.setHead h { s.head h with down := (s.head h).down.pass } else s

end Sys2Proof.Machine
end

