-- ==== Sys2Proof/Machine/Triggers.lean ====
section
/-!
DEFINITION. The trigger and exposure sequencer: schedules, commitment and issue of triggers, exposure sets and local
cuts (R202 to R220, R340, R341).
-/
namespace Sys2Proof.Machine

/-- Presented time at a raw tick (R520). -/
def ptAt (s : State) (t : Nat) : Nat := s.ptAtTick t

/-- Lfix in ticks by RATE code (Table 3-5). -/
def lfix (rate : Nat) : Nat :=
  16 * (match rate with | 1 => 256 | 2 => 88 | 3 => 72 | 4 => 64 | _ => 56)

/-- RATE of a head's master lane. -/
def masterRate (s : State) (h : Nat) : Nat := s.rd Reg.Lane.RATE (s.rd2 Reg.Head.LANEMAP h 0)

/-- A head's advance in ticks (R203). -/
def advance (s : State) (h : Nat) : Nat :=
  if s.on Reg.TesHead.INBAND h then lfix (masterRate s h) + s.rd Reg.TesHead.CABLE h + s.rd Reg.EslHead.CAMDCAM h
  else s.rd Reg.TesHead.CABLE h + s.rd Reg.TesHead.PINLAT h

/-- Tmin in ticks, rounded up (R206). -/
def tminTicks (s : State) (h : Nat) : Nat := cdiv 16000000000 (s.rd Reg.TesHead.LRMAX h)

/-- The 500 ns before the issue instant, in ticks (R204). -/
def commitTicks : Nat := 8000

/-- The first grid position beyond the high-water mark, as its k (R204). -/
def nextGrid (s : State) (h : Nat) : Int :=
  let dy : Int := s.rd Reg.TesHead.DY h
  let d := s.rdI Reg.TesHead.HWM h - s.rdI Reg.TesHead.YORG h
  if s.rd Reg.TesHead.PDIR h = 0 then d / dy + 1 else -((-d) / dy) - 1

/-- A position has reached another in direction dir. -/
def reaches (dir : Nat) (pos target : Int) : Bool := if dir = 0 then decide (target ≤ pos) else decide (pos ≤ target)

/-- Where and when the next trigger of a head is due: POSITION, the instant t at which the prediction first reaches the
grid position; TIME, the first tick at which presented time reaches the instant. `t` is that tick as the hardware finds
it; one that is not it is not due (log entry 17). -/
def dueAt (s : State) (h t : Nat) : Bool :=
  let first := fun (q : Nat → Bool) => q t && (t == s.raw || !q (t - 1))
  decide (s.raw ≤ t) &&
    (match s.rd Reg.TesHead.TSRC h with
      | 0 =>
        let g := s.rdI Reg.TesHead.YORG h + nextGrid s h * (s.rd Reg.TesHead.DY h : Nat)
        s.wpValid && s.on Reg.TesHead.DY h && first fun x => reaches (s.rd Reg.TesHead.PDIR h) (s.posAt x) g
      | 1 =>
        let g := s.rd Reg.TesHead.TSTART h + (s.tesOf h).k * s.rd Reg.TesHead.TPER h
        s.on Reg.TesHead.TPER h && first fun x => decide (g ≤ ptAt s x)
      | _ => false)

/-- A pending set's point is reached at a trigger of number `num` whose row POS is `pos` (R212). -/
def pointReached (s : State) (h num : Nat) (pos : Int) : Bool :=
  (s.tesOf h).reached ||
    (if s.on Reg.TesHead.XPMODE h then reaches (s.rd Reg.TesHead.PDIR h) pos (s.rdI Reg.TesHead.XPAPPLY h)
     else num == s.rd Reg.TesHead.XPAPPLY h % 65536)

/-- The TRIG block (Table 3-4) without TCHK. -/
def trigBody (arm : Bool) (delay num xset : Nat) : Word :=
  fld (b2n arm) 1 45 ||| fld delay 13 32 ||| fld num 16 16 ||| fld xset 8 8 ||| 0x78

/-- One step of the CRC-8 of R127 over a bit. -/
def crc8Bit (c : Nat) : Nat := if 128 ≤ c then (2 * c - 256) ^^^ 7 else 2 * c

/-- CRC-8 of a byte string (R127). -/
def crc8 (bs : List Byte) : Nat :=
  bs.foldl (fun c b => crc8Bit (crc8Bit (crc8Bit (crc8Bit (crc8Bit (crc8Bit (crc8Bit (crc8Bit (c ^^^ b.toNat))))))))) 0

/-- The TRIG block with its TCHK (R127). -/
def trigBlock (arm : Bool) (delay num xset : Nat) : Word :=
  let b := trigBody arm delay num xset
  b ||| fld (crc8 (wordBytes 7 b)) 8 56

/-- A late command learns the LSEQ of the first row under the new state (R213, R264). -/
def lateRow (cseq lseq : Nat) (s : State) : State :=
  s.updCmd cseq fun c => { c with status := if c.status = stOK then stLATE else c.status, lateLseq := max c.lateLseq lseq }

/-- The pending set takes effect at a trigger (R212, R213); TES.XSET completes. -/
def takeSet (h lseq : Nat) (s : State) : State :=
  let t := s.tesOf h
  let s1 := s.wrAll h [(Reg.TesHead.XCUR, s.rd Reg.TesHead.XPEND h), (Reg.TesHead.XPV, 0)]
  let s1 := s1.setTes h { t with pendLong := false, ready := none, reached := false, xlate := false, arm := none }
  if !t.pendLong then s1
  else
    let s1 := match findLong s 4 0x03 h with
      | some l => if t.xlate then lateRow l.cseq lseq s1 else s1
      | none => s1
    s1.complete 4 0x03 h (if t.xlate then stLATE else stOK)

/-- The pending set may take effect at trigger `num` of trigger time `at_`, issued at `issue`: pin triggers from the number that
an ARM block has named on; else at once for TES.XSEL, and for TES.XSET once the issue instant lies Tline after the
acknowledgement (R212, R214). -/
def setMay (s : State) (h num issue at_ : Nat) : Bool :=
  let t := s.tesOf h
  match t.ready with
  | none => false
  | some r =>
    if !s.on Reg.TesHead.INBAND h then (match t.arm with | some a => decide ((num + 65536 - a) % 65536 < 32768) | none => false)
    else !t.byAck || decide (r + (match t.last with | some l => at_ - l | none => 0) ≤ issue)

/-- The set in force for a trigger: the pending one once its point is reached and it may be used; a trigger beyond the point
that goes without it counts once (R212, R213). -/
def settleSet (h num lseq issue at_ : Nat) (pos : Int) (s : State) : State :=
  if !s.on Reg.TesHead.XPV h || !(pointReached s h num pos || ((s.tesOf h).arm == some num)) then s
  else
    let t := { s.tesOf h with reached := true }
    if setMay s h num issue at_ then takeSet h lseq (s.setTes h t)
    else if t.xlate then s.setTes h t
    else tesCause h 3 ((s.setTes h { t with xlate := true }).sat Reg.TesHead.XLATECNT h 1)

/-- The POS of a trigger record: half the exposure of a set after the trigger time, EXPNS ns being 16 × EXPNS ticks
(R196). -/
def recordPos (s : State) (h set at_ : Nat) : Int := s.posAt (at_ + 8 * expnsOf s h set)

/-- The row POS of a head's first trigger not yet committed (R219): that of the first grid position, instant or cause to come,
or of the earliest trigger time that issuing now and Tmin leave, where the web or time has passed it by then (R204, R206). -/
def nextRowPos (s : State) (h : Nat) : Int :=
  let set := s.rd Reg.TesHead.XCUR h
  let e := expnsOf s h set
  let soon := max (s.raw + advance s h) (match (s.tesOf h).last with | some l => l + tminTicks s h | none => 0)
  match s.rd Reg.TesHead.TSRC h with
  | 0 =>
    let g := s.rdI Reg.TesHead.YORG h + nextGrid s h * (s.rd Reg.TesHead.DY h : Nat)
    if reaches (s.rd Reg.TesHead.PDIR h) (s.posAt soon) g then recordPos s h set soon else g + s.spdAt s.raw * e / 2000000
  | 1 => recordPos s h set (max soon (s.raw + (s.rd Reg.TesHead.TSTART h + (s.tesOf h).k * s.rd Reg.TesHead.TPER h - s.pt)))
  | _ => recordPos s h set soon

/-- With pin triggers, the ARM block that names a pending set goes out with the number of the next trigger to be committed, once
that one is expected at the apply-from point and the last committed one has not issued, so that Tline is left (R214; log entry
149). -/
def armSet (h : Nat) (s : State) : State :=
  let t := s.tesOf h
  let num := (s.rd Reg.TesHead.TRIGNUM h + t.queue.length) % 65536
  if !s.on Reg.TesHead.INBAND h && s.on Reg.TesHead.RUNNING h && s.on Reg.TesHead.XPV h && t.ready.isSome && t.arm.isNone &&
      (!t.queue.isEmpty || t.last.isNone) && pointReached s h num (nextRowPos s h) then
    sendTrig h (trigBlock true 0 num (s.rd Reg.TesHead.XPEND h)) (s.setTes h { t with arm := some num })
  else s

/-- TES gives SST the view LSEQ of a trigger and the head LSEQ of each member that it triggers (R341). -/
def tellView (ms : List Nat) (n : Nat) (s : State) : State :=
  match ms.head?.bind (viewOf s) with
  | none => s
  | some v =>
    let e := s.view v
    let m := ms.map fun h => ({ head := h, lseq := (s.rd Reg.Head.LSEQNEXT h + (s.tesOf h).queue.length) % 2 ^ 40 } : MemRow)
    s.setView v { e with rows := e.rows ++ [{ n := n, mems := m }] }

/-- Head h commits a trigger at raw tick `at_` with TIME, UNDERSAMP and hop count given (R204, R206). -/
def commitOn (h at_ time hop : Nat) (us : Bool) (s : State) : State :=
  let issue := at_ - advance s h
  let n := (s.tesOf h).queue.length
  let num := (s.rd Reg.TesHead.TRIGNUM h + n) % 65536
  let lseq := (s.rd Reg.Head.LSEQNEXT h + n) % 2 ^ 40
  let s := settleSet h num lseq issue at_ (recordPos s h (s.rd Reg.TesHead.XCUR h) at_) s
  let set := s.rd Reg.TesHead.XCUR h
  let t := s.tesOf h
  let q : Trig := { at_ := at_, issue := issue, time := time, pos := recordPos s h set at_,
                    spd := s.spdTag (at_ + 8 * expnsOf s h set), xset := set, undersamp := us || t.skipped, hop := hop }
  (s.setTes h { t with queue := t.queue ++ [q], last := some at_, skipped := false }).wr Reg.TesHead.LASTT h time

/-- HELD follows whether the trigger was moved; its rise counts and sets the cause (R206). -/
def setHeldTes (h : Nat) (us : Bool) (s : State) : State :=
  let was := s.on Reg.TesHead.HELD h
  let s := s.wr Reg.TesHead.HELD h (b2n us)
  let s := if us then s.evt 4 h 0x41 else s
  if us && !was then tesCause h 0 (s.sat Reg.TesHead.USCNT h 1) else s

/-- The schedule of a head moves past the trigger placed at tick t: the high-water mark, or the next k (R204, R206). -/
def advanceSchedule (h t : Nat) (g : Int) (s : State) : State :=
  if s.rd Reg.TesHead.TSRC h = 0 then
    let p := s.posAt t
    s.wrI Reg.TesHead.HWM h (if s.rd Reg.TesHead.PDIR h = 0 then max g p else min g p)
  else
    let e := s.tesOf h
    let past := if s.on Reg.TesHead.TPER h then (ptAt s t - s.rd Reg.TesHead.TSTART h) / s.rd Reg.TesHead.TPER h + 1 else 0
    s.setTes h { e with k := max (e.k + 1) past }

/-- TRIGGER_COMMIT: the next POSITION or TIME trigger of head h and of the running heads that share its schedule,
predicted for raw tick t, is committed 500 ns before its earliest issue instant; an issue instant that has passed is now,
and Tmin is judged on the trigger time that results (R204, R206, R340, R341; log entry 142). -/
def execTriggerCommit (h t : Nat) (s : State) : Out :=
  within h 32 <|
    if !s.on Reg.TesHead.RUNNING h || !dueAt s h t then ok s
    else
      let ms := scheduleOf s h
      let adv := (ms.map (advance s)).foldl max 0
      let t0 := max t (s.raw + adv)
      let us := match (s.tesOf h).last with | some l => decide (t0 < l + tminTicks s h) | none => false
      let t2 := match (s.tesOf h).last with | some l => max t0 (l + tminTicks s h) | none => t0
      if s.raw + commitTicks < t2 - adv then ok s
      else
        let g := s.rdI Reg.TesHead.YORG h + nextGrid s h * (s.rd Reg.TesHead.DY h : Nat)
        let inst := s.rd Reg.TesHead.TSTART h + (s.tesOf h).k * s.rd Reg.TesHead.TPER h
        let time := if s.rd Reg.TesHead.TSRC h = 1 ∧ t2 = t then inst else ptAt s t2
        let vl := if s.rd Reg.TesHead.TSRC h = 0 then low 40 (nextGrid s h)
          else (time - s.rd Reg.TesHead.TSTART h) / s.rd Reg.TesHead.TPER h % 2 ^ 40
        ok (ms.foldl (fun s m => armSet m (advanceSchedule m t2 g (setHeldTes m us (commitOn m t2 time 0 us s)))) (tellView ms vl s))

/-- The oldest committed trigger of a head is not issued: its view row is without the head (R208; log entry 149). -/
def dropTrig (h : Nat) (qs : List Trig) (s : State) : State :=
  let s := s.setTes h { s.tesOf h with queue := qs }
  match viewOf s h with
  | none => s
  | some v =>
    let next := s.rd Reg.Head.LSEQNEXT h
    let n := qs.length
    let e := s.view v
    let shift := fun (m : MemRow) =>
      if m.head = h ∧ 0 < (m.lseq + 2 ^ 40 - next) % 2 ^ 40 ∧ (m.lseq + 2 ^ 40 - next) % 2 ^ 40 ≤ n then
        { m with lseq := (m.lseq + 2 ^ 40 - 1) % 2 ^ 40 } else m
    let rows := e.rows.map fun r => { r with mems := (r.mems.filter fun m => !(m.head == h && m.lseq == next)).map shift }
    s.setView v { e with rows := rows.filter fun r => !r.mems.isEmpty }

/-- TRIGGER_ISSUE: the oldest committed trigger of head h reaches its issue instant. TES sends the TRIG block, which
leaves the pin `wait` ticks later, or drives the TRG pair; HAU takes the record (R127, R203, R209, R210, R154). A POSITION head
issues none while WPVALID is 0 (R208), and the device none in reset (R3). -/
def execTriggerIssue (h wait : Nat) (s : State) : Out :=
  within h 32 <|
    match (s.tesOf h).queue with
    | [] => ok s
    | q :: qs =>
      if s.raw < q.issue ∨ !s.up then ok s
      else if s.rd Reg.TesHead.TSRC h = 0 ∧ !s.wpValid then ok (dropTrig h qs s)
      else
        let num := s.rd Reg.TesHead.TRIGNUM h
        let lseq := s.rd Reg.Head.LSEQNEXT h
        let s1 := s.setTes h { s.tesOf h with queue := qs, trg := (s.tesOf h).trg || !s.on Reg.TesHead.INBAND h }
        let s1 := if s.on Reg.TesHead.INBAND h then
            sendTrig h (trigBlock false (lfix (masterRate s h) - wait) num q.xset) s1
          else s1
        let s1 := addRec h { num := num, lseq := lseq, time := q.time, pos := q.pos, spd := q.spd, xset := q.xset,
                             undersamp := q.undersamp } s1
        ok (((((s1.wr Reg.TesHead.TRIGNUM h (num + 1)).sat Reg.TesHead.TRIGCNT h 1).emit (320 + h) q.hop).evt 4 h 0x40))

/-- A cause of an EVENT or EDGE head: it triggers, or comes too early and is skipped (R202, R207). R341 states no view
LSEQ for such a trigger: in a view it is a free value (log entry 3). -/
def causeTrigger (h hop : Nat) (s : State) : State :=
  if !s.on Reg.TesHead.RUNNING h then s
  else
    let soon := match (s.tesOf h).last with | some l => decide (s.raw < l + tminTicks s h) | none => false
    if soon then (s.setTes h { s.tesOf h with skipped := true }).sat Reg.TesHead.SKIPCNT h 1
    else
      let t := s.raw + advance s h
      let f := s.fresh
      armSet h (commitOn h t (ptAt s t) hop false (if (viewOf s h).isSome then tellView [h] (f.1.toNat % 2 ^ 40) f.2 else s))

/-- EDGE_TRIGGER: EDGEN count edges of ESRC have passed on an EDGE-mode head (R202). -/
def execEdgeTrigger (h : Nat) (s : State) : Out :=
  within h 32 <|
    let t := s.tesOf h
    if t.due = 0 then ok s else ok (causeTrigger h 0 (s.setTes h { t with due := t.due - 1 }))

/-- TRG_PULSE_END: the pin pulse ends after TPW (R209). -/
def execTrgPulseEnd (h : Nat) (s : State) : Out :=
  within h 32 <| ok (s.setTes h { s.tesOf h with trg := false })

/-! ### Exposure sets (R211 to R214) -/

/-- A lane of the head runs at 1.25 Gb/s (R73, R150). -/
def slowLane (s : State) (h : Nat) : Bool := (bondLanes s h).any fun n => s.rd Reg.Lane.RATE n == 1

/-- HAU's write of step 8: CTRL with RUN 1 (Table 3-9); no head runs at 1.25 Gb/s (R73). -/
def startRun (h : Nat) (s : State) : State :=
  match (s.head h).start with
  | some st =>
    if slowLane s h then failStart h stBOUNDS s
    else sendCmd h { use := .start, addr := 0x100, data := ctrlWord s h 1 } (s.setHead h { s.head h with start := some { st with step := 8 } })
  | none => s

/-- Step 7: the next set in use is downloaded, or step 8 follows (Table 3-9); a download under way ends first. -/
def startSets (h : Nat) (s : State) : State :=
  match (s.head h).start with
  | none => s
  | some st =>
    if (s.tesOf h).dl.isSome then s.setHead h { s.head h with start := some { st with step := 7 } }
    else match st.sets with
      | [] => startRun h s
      | x :: xs =>
        startDownload h x (Tbl.get (fun _ => []) (s.tesOf h).images x) true
          (s.setHead h { s.head h with start := some { st with step := 7, sets := xs } })

/-- A start that waits in step 7 goes on. -/
def resumeSets (h : Nat) (s : State) : State :=
  match (s.head h).start with
  | some st => if st.step = 7 then startSets h s else s
  | none => s

/-- A download ends without success: the set keeps its previous contents, and the pending set is cleared, or the start fails
(R133, R144, R213). -/
def failDownload (h st : Nat) (d : Download) (s : State) : State :=
  let t := s.tesOf h
  if d.start then failStart h st (s.setTes h { t with dl := none })
  else resumeSets h (((s.setTes h { t with dl := none, pendLong := false, ready := none, reached := false, xlate := false, arm := none }).wr
    Reg.TesHead.XPV h 0).complete 4 0x03 h st)

/-- A download that the camera has acknowledged is the set's contents (R132, R133). -/
def TesState.took (t : TesState) (d : Download) : TesState :=
  { t with dl := none, acked := if t.acked.contains d.set then t.acked else t.acked ++ [d.set],
           images := Tbl.set (fun _ => []) t.images d.set d.img,
           expns := Tbl.set (fun _ => 0) t.expns d.set (bits (d.img.getD 0 0) 31 0) }

/-- XSETACK_RECEIVE: the camera answers a download (R132, R133, R212). One that matches no download under way is ignored (log
entry 146). -/
def execXsetackReceive (h set xtag result : Nat) (s : State) : Out :=
  within h 32 <|
    let t := s.tesOf h
    match t.dl with
    | none => ok s
    | some d =>
      if d.xtag ≠ xtag ∨ d.set ≠ set then ok s
      else if result ≠ 0 then ok (failDownload h stREJECT d s)
      else if d.start then ok (startSets h (s.setTes h (t.took d)))
      else ok (resumeSets h (armSet h (s.setTes h { t.took d with ready := some s.raw, byAck := true })))

/-- XSETTO_EXPIRY: no XSETACK within XSETTO; one repeat with the same XTAG, then the download fails (R133). -/
def execXsettoExpiry (h : Nat) (s : State) : Out :=
  within h 32 <|
    let t := s.tesOf h
    match t.dl with
    | none => ok s
    | some d =>
      if !d.again then ok (sendSeq h (xsetBlocks d.set d.xtag d.img) (s.setTes h { t with dl := some { d with again := true } }))
      else ok (failDownload h stNOACK d (s.sat Reg.EslHead.XSNACKCNT h 1))

/-- EXPNS above Tmin (R211). -/
def expTooLong (s : State) (h expns : Nat) : Bool := decide (1000000000 < expns * s.rd Reg.TesHead.LRMAX h)

/-- A pending set with its apply-from point (Table 6-3). -/
def setPending (h set mode : Nat) (point : Word) (s : State) : State :=
  s.wrAll h [(Reg.TesHead.XPEND, set), (Reg.TesHead.XPV, 1), (Reg.TesHead.XPMODE, mode), (Reg.TesHead.XPAPPLY, point.toNat)]

/-- TES.XSET: downloads an exposure set and selects it from an apply-from point (R211). -/
def execTesXset (x : XWord) (s : State) : Out :=
  xop 4 0x03 x (fun a s =>
    let set := a.arg % 256
    let pend := s.on Reg.TesHead.XPV a.i
    if 32 ≤ a.i then .no stBOUNDS s
    else if set = s.rd Reg.TesHead.XCUR a.i ∨ (pend ∧ set = s.rd Reg.TesHead.XPEND a.i) then .no stINUSE s
    else if expTooLong s a.i (bits (a.w 0) 31 0) then .no stBOUNDS s
    else if pend || (s.tesOf a.i).dl.isSome then .no stBUSY s
    else
      let t := s.tesOf a.i
      let s := s.setTes a.i { t with pendLong := true, ready := none, reached := false, xlate := false, arm := none }
      .start (startDownload a.i set ((List.range 5).map a.w) false (setPending a.i set (b2n (bit (a.w 8) 0)) (a.w 9) s))) s

/-- TES.XSEL: selects an acknowledged set from an apply-from point (R211, R212, R214). -/
def execTesXsel (x : XWord) (s : State) : Out :=
  direct 4 0x04 32 x (fun a s =>
    let set := a.arg % 256
    let t := s.tesOf a.i
    if !t.acked.contains set || expTooLong s a.i (expnsOf s a.i set) then .error stBOUNDS
    else if s.on Reg.TesHead.XPV a.i || t.dl.isSome then .error stBUSY
    else .ok (armSet a.i ((setPending a.i set (b2n (bit (a.w 0) 0)) (a.w 1) s).setTes a.i
      { t with pendLong := false, reached := false, xlate := false, arm := none, ready := some s.raw, byAck := false }))) s

/-! ### Schedules (R206, R228) -/

/-- Device address of the TES head blocks. -/
def tesBase : Nat := 0x20040000

/-- Fields that TES.CFG writes; TEVEN where its payload reaches word 8 (log entry 65). -/
def tesCfgFields : List Field :=
  [Reg.TesHead.TSRC, Reg.TesHead.INBAND, Reg.TesHead.PDIR, Reg.TesHead.ESRC, Reg.TesHead.LRMAX, Reg.TesHead.DY, Reg.TesHead.YORG,
   Reg.TesHead.EDGEN, Reg.TesHead.TPER, Reg.TesHead.TSTART, Reg.TesHead.TPW, Reg.TesHead.CABLE, Reg.TesHead.PINLAT, Reg.TesHead.TEVEN]

/-- The head, or another member of its view, runs (R228, R340). -/
def scheduleBusy (s : State) (h : Nat) : Bool :=
  s.running h || (match viewOf s h with | some v => (membersOf s v).any s.running | none => false)

/-- TES.CFG: writes a TES head block (R228, R340). -/
def execTesCfg (x : XWord) (s : State) : Out :=
  blockOp 4 0x01 32 x tesBase 9 tesCfgFields (fun a s => if scheduleBusy s a.i then some stHEADBUSY else none)
    (fun v _ _ => inRange (v Reg.TesHead.LRMAX) 1 2000000 && inRange (v Reg.TesHead.EDGEN) 1 65535 &&
      inRange (v Reg.TesHead.TPW) 10 65535)
    (fun _ _ s => s) s

/-- EXPNS of the pending set: of the download under way, or as acknowledged. -/
def pendExpns (s : State) (h : Nat) : Nat :=
  match (s.tesOf h).dl with
  | some d => if d.start then expnsOf s h (s.rd Reg.TesHead.XPEND h) else bits (d.img.getD 0 0) 31 0
  | none => expnsOf s h (s.rd Reg.TesHead.XPEND h)

/-- A running head admits a new grid (R206). -/
def gridOk (dy tper lr : Nat) (s : State) (h : Nat) : Bool :=
  decide (lr ≤ (s.head h).maxLrate) &&
    decide (expnsOf s h (s.rd Reg.TesHead.XCUR h) * lr ≤ 1000000000) &&
    (!s.on Reg.TesHead.XPV h || decide (pendExpns s h * lr ≤ 1000000000)) &&
    !(s.rd Reg.TesHead.TSRC h == 0 && dy == 0) && !(s.rd Reg.TesHead.TSRC h == 1 && tper == 0)

/-- The heads that TES.GRID on a head writes: the head, and every running member of its view (R340). -/
def gridHeads (s : State) (h : Nat) : List Nat := if (scheduleOf s h).contains h then scheduleOf s h else h :: scheduleOf s h

/-- A new TIME grid goes on at its first instant after the last trigger. -/
def rebaseTime (h : Nat) (s : State) : State :=
  if s.rd Reg.TesHead.TSRC h = 1 ∧ (s.tesOf h).last.isSome ∧ s.on Reg.TesHead.TPER h then
    s.setTes h { s.tesOf h with k := (s.rd Reg.TesHead.LASTT h - s.rd Reg.TesHead.TSTART h) / s.rd Reg.TesHead.TPER h + 1 }
  else s

/-- TES.GRID: changes DY, YORG, TPER and LRMAX from the first trigger not yet committed (R206). -/
def execTesGrid (x : XWord) (s : State) : Out :=
  direct 4 0x02 32 x (fun a s =>
    let dy := bits (a.w 0) 39 0
    let tper := bits (a.w 2) 39 0
    let lr := bits (a.w 3) 31 0
    let hs := gridHeads s a.i
    if !inRange lr 1 2000000 || hs.any (fun h => s.running h && !gridOk dy tper lr s h) then .error stBOUNDS
    else .ok (hs.foldl (fun s h => rebaseTime h ((s.wrAll h
      [(Reg.TesHead.DY, dy), (Reg.TesHead.TPER, tper), (Reg.TesHead.LRMAX, lr)]).wr Reg.TesHead.YORG h (a.w 1).toNat)) s)) s

/-- TES starts triggering a head at step 8 of Table 3-9: numbers from 0, the high-water mark at POS or the view's, or the
first TIME instant, or after TSTART the first whose issue lies 500 ns ahead (R202, R204, R340). -/
def tesStart (h : Nat) (s : State) : State :=
  let mates := (scheduleOf s h).filter (· != h)
  let t := s.tesOf h
  let k := match mates with
    | m :: _ => (s.tesOf m).k
    | [] =>
      let need := s.pt + commitTicks + advance s h
      if s.on Reg.TesHead.TPER h && decide (s.rd Reg.TesHead.TSTART h < s.pt) then cdiv (need - s.rd Reg.TesHead.TSTART h) (s.rd Reg.TesHead.TPER h) else 0
  let hwm := match mates with | m :: _ => s.rdI Reg.TesHead.HWM m | [] => s.pos
  let last := match mates with | m :: _ => (s.tesOf m).last | [] => none
  let s := s.setTes h { t with edges := 0, due := 0, queue := [], last := last, k := k, skipped := false, trg := false, arm := none }
  let s := (s.wrI Reg.TesHead.HWM h hwm).wrAll h [(Reg.TesHead.RUNNING, 1), (Reg.TesHead.TRIGNUM, 0), (Reg.TesHead.HELD, 0)]
  armSet h (noposHead h s)

/-! ### Local cuts (R219, R220) -/

/-- Pcut lies strictly beyond a position in a direction. -/
def beyond (dir : Nat) (pcut pos : Int) : Bool := if dir = 0 then decide (pos < pcut) else decide (pcut < pos)

/-- The row positions that a cut must lie beyond on a head: every committed trigger not yet settled, and the next one. -/
def cutBounds (s : State) (h : Nat) : List Int :=
  let e := s.head h
  let line := match e.line with | some l => if l.drop then [] else [l.rcd] | none => []
  nextRowPos s h :: ((s.tesOf h).queue.map (·.pos) ++ (line ++ e.unanswered ++ e.recs).map (·.pos))

/-- A cut is valid (R40, R219; log entry 140). -/
def cutValid (s : State) (dir : Nat) (pcut : Int) : Bool :=
  (runningHeads s).all fun h => (cutBounds s h).all fun p => beyond dir pcut p

/-- Place a cut: the epoch opens and a CUT packet enters the stream of every running head (R220). -/
def placeCut (epoch dir : Nat) (pcut : Int) (fabric : Bool) (s : State) : State :=
  let c : CutRec := { epoch := epoch, pos := pcut, dir := dir, fabric := fabric, time := s.pt }
  let s1 := ((s.wr Reg.Cut.EPOCH 0 epoch).wrI Reg.Cut.CUTPOS 0 pcut).sat Reg.Cut.CUTCNT 0 1
  { s1 with cuts := s1.cuts ++ [c],
            cutPkts := s1.cutPkts ++ (runningHeads s).map fun h => ({ stage := 2, stream := h, cut := c } : CutPkt) }.evt 4 0 0x42
  |> fun t => (runningHeads s).foldl (fun t h => t.evt 4 h 0x02) t

/-- Clear the counters of a TES head block; the cut counters with every instance (R228). -/
def tesCntOne (h : Nat) (s : State) : State :=
  s.clr h [Reg.TesHead.TRIGCNT, Reg.TesHead.USCNT, Reg.TesHead.SKIPCNT, Reg.TesHead.XLATECNT, Reg.TesHead.XMISCNT]

/-- Clear causes of a TES head block. -/
def tesEvOne (arg h : Nat) (s : State) : State := s.wr Reg.TesHead.TCAUSE h (s.rd Reg.TesHead.TCAUSE h &&& (255 - arg % 256))

end Sys2Proof.Machine
end

