-- ==== Sys2Proof/Machine/Streams.lean ====
section
/-!
DEFINITION. Streams and their control packets: insertion, arrival, apply-at points, lateness, gaps and stops (R30 to R35,
R41, R63, R260, R264). `eff` stands for what the unit does when it applies a packet.
-/
namespace Sys2Proof.Machine

/-- Key of a stage's progress in a stream. -/
def progKey (stage sub : Nat) (vs : Bool) (stream : Nat) : Nat := 64 * (128 * stage + sub) + stream + 32 * b2n vs

/-- What a stage knows of a stream's progress. -/
def State.prog (s : State) (stage sub : Nat) (vs : Bool) (stream : Nat) : Progress :=
  Tbl.get (fun _ => {}) s.progress (progKey stage sub vs stream)

/-- Replace it. -/
def State.setProg (s : State) (stage sub : Nat) (vs : Bool) (stream : Nat) (p : Progress) : State :=
  { s with progress := Tbl.set (fun _ => {}) s.progress (progKey stage sub vs stream) p }

/-- The logical row processors that hold strips of a head, by its strip map (R166). -/
def lrpsOf (s : State) (h : Nat) : List Nat :=
  ((List.range (stripsOf s h)).map fun k => s.rd2 Reg.StripMap.LRPOF h k % 64).eraseDups

/-- The parts of a stage that a head's packets reach: each logical row processor at RPA, else the stage itself. -/
def subsOf (s : State) (stage h : Nat) : List Nat := if stage = 5 then lrpsOf s h else [0]

/-- The stream of a packet runs: a running head, or an open view (R260). -/
def streamRuns (s : State) (vs : Bool) (stream : Nat) : Bool := if vs then s.viewOpen stream else s.running stream

/-- A held packet belongs to a stage's part and stream. -/
def Held.at_ (e : Held) (stage sub : Nat) (vs : Bool) (stream : Nat) : Bool :=
  e.stage == stage && e.sub == sub && e.pkt.vs == vs && e.pkt.stream == stream

/-- The packet's signed apply-at position. -/
def Pkt.posValue (p : Pkt) : Int := signed 64 p.value

/-- Epoch `e` is the target or later. -/
def epochReached (target e : Nat) : Bool := e == target || epochLater e target

/-- A row with this LSEQ, POS and EPOCH meets the packet's condition (R31). -/
def Pkt.met (p : Pkt) (lseq : Nat) (pos : Int) (epoch : Nat) : Bool :=
  match p.mode with
  | 0 => decide (p.value ≤ lseq)
  | 1 => reaches p.dir pos p.posValue
  | _ => epochReached (p.value % 128) epoch

/-- Packet a acts before packet b: lower CSEQ, then earlier insertion (R35). -/
def Held.before (a b : Held) : Bool :=
  decide (a.pkt.cseq < b.pkt.cseq ∨ (a.pkt.cseq = b.pkt.cseq ∧ a.pkt.ord ≤ b.pkt.ord))

/-- Put a packet in its place. -/
def insHeld (e : Held) : List Held → List Held
  | [] => [e]
  | x :: xs => if e.before x then e :: x :: xs else x :: insHeld e xs

/-- Packets of a list in increasing CSEQ, then insertion order (R35). -/
def sortHeld (l : List Held) : List Held := l.foldr insHeld []

/-- The instance by which PMU counts an event of a stage's part: a physical row processor at RPA, else the head or view
(R271). -/
def unitInst (s : State) (stage sub stream : Nat) : Nat := if stage = 5 then s.rd Reg.Lrp.PHYS sub else stream

/-- Every part of a stage that a head's packets reach counts one of them (PMU events 0x01 and 0x02). -/
def countPkt (stage stream code : Nat) (s : State) : State :=
  (subsOf s stage stream).foldl (fun s l => s.evt stage (unitInst s stage l stream) code) s

/-- A stage applies one packet (PMU events 0x05, 0x06). -/
def applyOne (eff : Held → State → State) (e : Held) (s : State) : State :=
  let s := eff e s
  let i := unitInst s e.stage e.sub e.pkt.stream
  let s := s.evt e.stage i 0x05
  if e.late then
    let p := s.prog e.stage e.sub e.pkt.vs e.pkt.stream
    (s.setProg e.stage e.sub e.pkt.vs e.pkt.stream { p with lateFor := p.lateFor ++ [e.pkt.cseq] }).evt e.stage i 0x06
  else s

/-- A stage applies the held packets that a test selects, in order: those of one apply-at point in increasing CSEQ (R35), and
those of different points that one row, diversion or gap passes together in the same order (DESIGN CHOICE, log entry 152). -/
def applyHeld (eff : Held → State → State) (q : Held → Bool) (s : State) : State :=
  let l := sortHeld (s.held.filter q)
  l.foldl (fun s e => applyOne eff e s) { s with held := s.held.filter fun e => !q e }

/-- A command whose packet was late learns the first row under the new state; a handler's counts in HLATECNT (R264,
R265). -/
def reportLate (lseq : Nat) (s : State) (cseq : Nat) : State :=
  if cseq = 0 then s.wrap Reg.Seq.HLATECNT 0 1 else lateRow cseq lseq s

/-- The later of two epochs (R37). -/
def laterEpoch (a b : Nat) : Nat := if epochLater b a then b else a

/-- An epoch has retired: it is neither in flight nor to come (R36). -/
def epochRetired (s : State) (ep : Nat) : Bool := !epochLater ep (s.rd Reg.Cut.EPOCH 0) && !s.cuts.any fun c => c.epoch == ep

/-- The packets that a row of a stream makes a stage apply: those that it meets, and late ones (R31, R34). -/
def applyDue (eff : Held → State → State) (stage sub : Nat) (vs : Bool) (stream lseq : Nat) (pos : Int) (epoch : Nat)
    (s : State) : State :=
  applyHeld eff (fun e => e.at_ stage sub vs stream && (e.late || e.pkt.met lseq pos epoch)) s

/-- Progress after a processed row. -/
def Progress.row (p : Progress) (lseq : Nat) (pos : Int) (epoch : Nat) : Progress :=
  { p with seen := true, lseq := if p.seen then max p.lseq lseq else lseq, hi := if p.seen then max p.hi pos else pos,
           lo := if p.seen then min p.lo pos else pos, epoch := if p.seen then laterEpoch p.epoch epoch else epoch,
           passed := laterEpoch p.passed epoch }

/-- A row beyond a packet's point has been processed (R34). -/
def Progress.beyond (p : Progress) (k : Pkt) : Bool := p.seen && k.met p.lseq (if k.dir = 0 then p.hi else p.lo) p.epoch

/-- A row of the packet's stream beyond its point has already been processed at the stage (R34). -/
def arrivesLate (s : State) (e : Held) : Bool := (s.prog e.stage e.sub e.pkt.vs e.pkt.stream).beyond e.pkt

/-- A stage has processed a row: packets that arrived meanwhile and lie behind it are late, and the commands given, whose late
packets were applied before it, learn its LSEQ (R34). -/
def recordRow (stage sub : Nat) (vs : Bool) (stream lseq : Nat) (pos : Int) (epoch : Nat) (lates : List Nat) (s : State) : State :=
  let p := (s.prog stage sub vs stream).row lseq pos epoch
  let s := s.setProg stage sub vs stream p
  lates.foldl (reportLate lseq)
    { s with held := s.held.map fun e => if e.at_ stage sub vs stream && p.beyond e.pkt then { e with late := true } else e }

/-- Take the commands whose late packets await a processed row. -/
def takeLates (stage sub : Nat) (vs : Bool) (stream : Nat) (s : State) : List Nat × State :=
  let p := s.prog stage sub vs stream
  (p.lateFor, s.setProg stage sub vs stream { p with lateFor := [] })

/-- A stage processes a row: due and late packets apply before it, it is recorded, and late commands are reported with its LSEQ
(R31, R34). -/
def stageRow (eff : Held → State → State) (stage sub : Nat) (vs : Bool) (stream lseq : Nat) (pos : Int) (epoch : Nat)
    (s : State) : State :=
  let t := takeLates stage sub vs stream (applyDue eff stage sub vs stream lseq pos epoch s)
  recordRow stage sub vs stream lseq pos epoch t.1 t.2

/-- A stage has passed into an epoch. -/
def passEpoch (stage sub : Nat) (vs : Bool) (stream epoch : Nat) (s : State) : State :=
  let p := s.prog stage sub vs stream
  s.setProg stage sub vs stream { p with passed := laterEpoch p.passed epoch }

/-- A stage diverts a row: it passes the apply-at points that the row has reached (R33). -/
def stageDivert (eff : Held → State → State) (stage sub : Nat) (vs : Bool) (stream lseq : Nat) (pos : Int) (epoch : Nat)
    (s : State) : State :=
  passEpoch stage sub vs stream epoch (applyDue eff stage sub vs stream lseq pos epoch s)

/-- LSEQ, POS and EPOCH of missing rows, from the first one's LSEQ. -/
def gapRows (lseq : Nat) (rows : List (Int × Nat)) : List (Nat × Int × Nat) :=
  rows.zipIdx.map fun r => ((lseq + r.2) % 2 ^ 40, r.1.1, r.1.2)

/-- A GAP packet or gap mark passes a stage: the points that its missing rows include (R33; log entry 151). -/
def stageGap (eff : Held → State → State) (stage sub : Nat) (vs : Bool) (stream lseq : Nat) (rows : List (Int × Nat))
    (s : State) : State :=
  let s := applyHeld eff (fun e => e.at_ stage sub vs stream && (e.late || (gapRows lseq rows).any fun r => e.pkt.met r.1 r.2.1 r.2.2)) s
  rows.foldl (fun s r => passEpoch stage sub vs stream r.2 s) s

/-- A stream stops at a stage: MODE 0 and MODE 1 packets apply, and MODE 2 packets whose epoch has retired; late commands are
reported without an LSEQ (R33, R34). -/
def stageStop (eff : Held → State → State) (stage sub : Nat) (vs : Bool) (stream : Nat) (s : State) : State :=
  let s := applyHeld eff (fun e => e.at_ stage sub vs stream && (e.pkt.mode != 2 || epochRetired s (e.pkt.value % 128))) s
  let p := s.prog stage sub vs stream
  p.lateFor.foldl (reportLate 0) (s.setProg stage sub vs stream { p with seen := false, lateFor := [] })

/-- A stream starts at a stage: nothing processed yet, in an epoch. -/
def stageStart (stage sub : Nat) (vs : Bool) (stream epoch : Nat) (s : State) : State :=
  s.setProg stage sub vs stream { epoch := epoch, passed := epoch }

/-- Packets on the link to a stage in a stream's part of its control pool: CTRL packets, distinct ones, CUT packets and GAP packets
(R63; log entry 154). -/
def poolLoad (s : State) (stage : Nat) (vs : Bool) (stream : Nat) : Nat :=
  (((s.transit.filter fun e => e.stage == stage && e.pkt.vs == vs && e.pkt.stream == stream).map fun e => e.pkt.ord).eraseDups).length +
    (s.cutPkts.countP fun c => c.stage == stage && c.vs == vs && c.stream == stream) +
    s.gaps.countP fun g => g.stage == stage && g.vs == vs && g.stream == stream

/-- The control pool has no free slot of its 8 (R63). -/
def poolFull (s : State) (stage : Nat) (vs : Bool) (stream : Nat) : Bool := decide (8 ≤ poolLoad s stage vs stream)

/-- Packets of a stream held at a stage (R32). -/
def heldCount (s : State) (e : Held) : Nat := s.held.countP fun x => x.at_ e.stage e.sub e.pkt.vs e.pkt.stream

/-- Every stage of the running heads and open views has passed into the epoch (R36). -/
def epochPassed (s : State) (ep : Nat) : Bool :=
  let passed := fun (stage sub : Nat) (vs : Bool) (stream : Nat) => epochReached ep (s.prog stage sub vs stream).passed
  ((runningHeads s).all fun h =>
    (lrpsOf s h).all (fun l => passed 5 l false h) && passed 6 0 false h && (!s.on Reg.HisHead.EN h || passed 10 0 false h)) &&
  ((openViews s).all fun v => passed 7 0 true v && passed 8 0 true v && passed 9 0 true v) &&
  s.store.all fun i => i.kind != .row || epochReached ep i.tag.epoch

/-- The MODE 2 packets that wait at stages for a retired epoch's first row apply (R33). -/
def applyRetired (eff : Held → State → State) (ep : Nat) (s : State) : State :=
  applyHeld eff (fun e => e.pkt.mode == 2 && e.pkt.value % 128 == ep) s

/-- Epochs retire in order while every stage has passed into the oldest (R36). -/
def retireEpochs (eff : Held → State → State) : Nat → State → State
  | 0, s => s
  | n + 1, s =>
    match s.cuts with
    | [] => s
    | c :: cs => if epochPassed s c.epoch then retireEpochs eff n (applyRetired eff c.epoch { s with cuts := cs }) else s

end Sys2Proof.Machine
end

