-- ==== Sys2Proof/Machine/Heads.lean ====
section
/-!
DEFINITION. The head assembly unit: X-class operations of HAU, lines and rows, camera traffic and head bring-up
(R111 to R172).
-/
namespace Sys2Proof.Machine

/-! ### Delivering lanes (R92, R159) -/

/-- Lane k of a head's list is LOCKED. -/
def lockedAt (s : State) (h k : Nat) : Bool := s.laneState (s.rd2 Reg.Head.LANEMAP h k) == lsLOCKED

/-- Lanes of a head, L. -/
def laneCount (s : State) (h : Nat) : Nat := (bondLanes s h).length

/-- HLANE k delivers: it is LOCKED, and deskewed or, in a set that has lost deskew, its last ALIGN agrees with that of the lowest
LOCKED lane: the lane number is its own, the counter is the same and it came within 32 blocks (R82, R159). -/
def delivers (s : State) (h k : Nat) : Bool :=
  let at_ := fun k => s.rd2 Reg.Head.LANEMAP h k
  let good := fun k => lockedAt s h k && s.rd Reg.Lane.HLANE (at_ k) == k
  let l := s.lane (at_ k)
  let agrees := match (List.range (laneCount s h)).find? good with
    | some r =>
      let m := s.lane (at_ r)
      l.alignCtr == m.alignCtr && decide (l.alignSpread ≤ m.alignSpread + 32 ∧ m.alignSpread ≤ l.alignSpread + 32)
    | none => false
  lockedAt s h k && (l.deskewed || (good k && agrees))

/-- The delivering lanes of a head as a mask. -/
def deliverMask (s : State) (h : Nat) : Nat := ((List.range (laneCount s h)).map fun k => if delivers s h k then 2 ^ k else 0).sum

/-! ### Samples (R121, R122, R158) -/

/-- Bit-string index of the sample of column c, plane p in a line of n columns. -/
def sampleIndex (fmt n c p : Nat) : Nat := match fmt with | 0 => c | 1 => 3 * c + p | _ => p * n + c

/-- The bit string of a list of blocks; a padded block counts as zeros. -/
def blockBits : List (Option Word) → Nat
  | [] => 0
  | b :: bs => (b.getD 0).toNat + 2 ^ 64 * blockBits bs

/-- Every block that holds bits [lo, lo + d) has been received. -/
def received (bs : List (Option Word)) (lo d : Nat) : Bool :=
  (List.range ((lo + d - 1) / 64 + 1 - lo / 64)).all fun k => (bs.getD (lo / 64 + k) none).isSome

/-- A sample of a line: none where its column is not among the DLEN delivered or a block of it was padded. -/
def sampleOf (s : State) (h : Nat) (l : Line) (dlen str c p : Nat) : Option Nat :=
  let d := depthBits s h
  let lo := sampleIndex (s.rd Reg.Head.FMT h) l.len c p * d
  if c < dlen && received l.blocks lo d then some (str / 2 ^ lo % 2 ^ d) else none

/-- The samples of plane p of the row, columns 0 to HW − 1, padded under PADMODE (R158). -/
def planeSamples (s : State) (h : Nat) (l : Line) (dlen str p : Nat) : List Nat :=
  let pad := s.rd Reg.Head.PADVAL h % 2 ^ depthBits s h
  let rep := s.on Reg.Head.PADMODE h
  ((List.range (s.rd Reg.Head.HW h)).foldl (fun (acc : List Nat × Nat) c =>
    match sampleOf s h l dlen str c p with
    | some v => (v :: acc.1, if rep then v else acc.2)
    | none => (acc.2 :: acc.1, acc.2)) ([], pad)).1.reverse

/-- The packed payload of the padded and cut row as one number (R121, R162). -/
def packRow (s : State) (h : Nat) (l : Line) (dlen : Nat) : Nat :=
  let str := blockBits l.blocks
  let hw := s.rd Reg.Head.HW h
  ((List.range (planesOf s h)).map fun p =>
    ((planeSamples s h l dlen str p).zipIdx.map fun v =>
      v.1 * 2 ^ (sampleIndex (s.rd Reg.Head.FMT h) hw v.2 p * depthBits s h)).sum).sum

/-- The n low bytes of a number. -/
def natBytes : Nat → Nat → List Byte
  | 0, _ => []
  | n + 1, v => BitVec.ofNat 8 (v % 256) :: natBytes n (v / 256)

/-- CRC-32C over the data blocks that a line has received, padded ones as zeros (R123; log entry 20). -/
def lineCrc (l : Line) : Nat := (crc32c (natBytes (8 * l.blocks.length) (blockBits l.blocks))).toNat

/-! ### Completing a line (R157, R163, R164) -/

/-- A supply warning is active on some rail (R561). -/
def supWarn (s : State) : Bool := s.rd Reg.Pba.SUPWARNR 0 != 0

/-- Claimed slots of a head. -/
def usedSlots (s : State) (h : Nat) : List Nat :=
  (s.head h).rows.map (·.slot) ++ (match (s.head h).line with | some l => l.slot.toList | none => [])

/-- A head's buffer is at or above half of its slots (EBHALF, Table 15-5). -/
def ebHalf (s : State) (h : Nat) : Bool :=
  decide (s.rd Reg.Head.EBSLOTS h ≤ 2 * s.rd Reg.Head.EBFILL h ∧ s.rd Reg.Head.EBSLOTS h ≠ 0)

/-- STATE RECOVERING ends once every running head is below half of its slots (Table 18-3). -/
def settleDip (s : State) : State :=
  if s.power.recovering && !(runningHeads s).any (ebHalf s) then { s with power := { s.power with recovering := false } } else s

/-- EBFILL and EBPEAK follow the claimed slots (R165). -/
def showFill (h : Nat) (s : State) : State :=
  let n := (usedSlots s h).length
  settleDip ((s.wr Reg.Head.EBFILL h n).wr Reg.Head.EBPEAK h (max n (s.rd Reg.Head.EBPEAK h)))

/-- The lowest free slot. -/
def freeEb (s : State) (h : Nat) : Option Nat :=
  let used := usedSlots s h
  if used.length < s.rd Reg.Head.EBSLOTS h then (List.range (used.length + 1)).find? fun k => !used.contains k && decide (k < s.rd Reg.Head.EBSLOTS h)
  else none

/-- How a line ends. -/
inductive LineEnd where
  /-- LINE_END with its CRC and CLINE. -/
  | done (crc cline : Nat)
  /-- LINE_START of the next line (Table 3-3). -/
  | cutShort
  /-- The line-completion timeout (Table 4-1). -/
  | late
  deriving DecidableEq, Repr

/-- A row enters its elastic buffer: GAP packets first, then the slot, the strips and the token (R164, R168, R172). -/
def storeRow (h slot : Nat) (t : Tag) (payload : Nat) (s : State) : State :=
  let s := sendGap h s
  let e := s.head h
  let t := { t with flags := setBitIf e.gapBefore t.flags fGAPBEFORE, epoch := rowEpoch e t.pos }
  let s := s.writeWords (slotAddr s h slot) t.words
  let s := s.fill (slotAddr s h slot + 32) (natBytes (payloadBytes s h) payload)
  let strips := List.range (stripsOf s h)
  let row : EbRow := { slot := slot, tag := t, todo := strips, open_ := strips, taken := !s.on Reg.HisHead.EN h }
  let s := s.setHead h { s.head h with gapBefore := false, epoch := t.epoch, rows := (s.head h).rows ++ [row] }
  ((s.emit (256 + h)).evt 2 h 0x40).evt 2 h 0x02

/-- Complete the open line of a head (Table 4-1, Table 3-3). -/
def completeLine (h : Nat) (how : LineEnd) (s : State) : State :=
  match (s.head h).line with
  | none => s
  | some l =>
    let s0 := s.setHead h { s.head h with line := none }
    if l.drop then s0
    else decideClosed h <|
      let hw := s.rd Reg.Head.HW h
      let dlen := min l.len (l.blocks.length * 64 / (planesOf s h * depthBits s h))
      let badEnd := match how with
        | .done crc cline => crc != lineCrc l || cline != l.cline
        | _ => false
      let short := dlen < hw
      let long := hw < dlen
      let late := how == .late
      let low := l.low || supWarn s
      let f0 := setBitIf (short || how == .cutShort) 0 fSHORT
      let f0 := setBitIf (long || l.extra) f0 fLONG
      let f0 := setBitIf (short || late || l.lost || l.padded || how == .cutShort) f0 fPADDED
      let f0 := setBitIf (long || l.extra) f0 fCUT
      let f0 := setBitIf (badEnd || late || how == .cutShort) f0 fCRCERR
      let f0 := setBitIf late f0 fLATE
      let f0 := setBitIf (!l.echo) f0 fXUNCONF
      let f0 := setBitIf low f0 fLOWMARGIN
      let f0 := setBitIf l.rcd.undersamp f0 fUNDERSAMP
      let f0 := setBitIf l.test f0 fTEST
      let f0 := setBitIf l.lost f0 fLANELOST
      let t : Tag := { head := h, xset := if l.echo then l.xset else l.rcd.xset, lseq := l.rcd.lseq, pos := l.rcd.pos,
                       time := l.rcd.time, flags := f0, dlen := min dlen 131071, spd := l.rcd.spd }
      let s1 := (s0.sat Reg.Head.LENCNT h (b2n (l.len != hw))).sat Reg.Head.SHORTCNT h (b2n short)
      let s1 := (s1.sat Reg.Head.LONGCNT h (b2n long + b2n l.extra)).sat Reg.Head.CRCCNT h (b2n badEnd)
      let s1 := (s1.sat Reg.Head.LATECNT h (b2n late)).sat Reg.Head.LOSTCNT h (b2n l.lost)
      let s1 := if l.echo && l.xset != l.rcd.xset then tesCause h 2 (s1.sat Reg.TesHead.XMISCNT h 1) else s1
      match l.slot with
      | none => showFill h (missRow h 0x01 t ((s1.sat Reg.Head.EBFULLCNT h 1).evt 2 h 0x42))
      | some k =>
        let s1 := storeRow h k t (packRow s h l dlen) s1
        let s1 := if l.test then s1.note h 0x03 { t with epoch := rowEpoch (s0.head h) t.pos } else s1
        showFill h (if f0.testBit fPADDED then s1.evt 2 h 0x41 else s1)

/-! ### Uplink events -/

/-- A line of a head is counted once when the copies of its LINE_START or LINE_END differ (R119). -/
def countDiffer (h : Nat) (differ : Bool) (s : State) : State :=
  match (s.head h).line with
  | some l => if differ && !l.differs then (s.sat Reg.EslHead.DISCNT h 1).setHead h { s.head h with line := some { l with differs := true } } else s
  | none => s

/-- Lanes that deliver again join, and their LANEDOWN bits clear (R159). -/
def joinLanes (h : Nat) (s : State) : State :=
  s.wr Reg.Head.LANEDOWN h (s.rd Reg.Head.LANEDOWN h &&& (2 ^ 32 - 1 - deliverMask s h))

/-- A line that answers record number i: every older record closes, and a slot is claimed when one is free
(R155, R163). -/
def openLine (h i xset len cline : Nat) (echo test : Bool) (s : State) : State :=
  let s := closeRecs h i s
  match (s.head h).recs with
  | [] => s
  | r :: rs =>
    let slot := freeEb s h
    let n := laneCount s h
    let l : Line := { rcd := r, slot := slot, len := len, test := test, echo := echo, xset := xset, cline := cline,
                      lanes := deliverMask s h, lost := deliverMask s h != 2 ^ n - 1, low := supWarn s }
    showFill h (s.setHead h { s.head h with recs := rs, line := some l })

/-- LINE_START: the copy of the lowest delivering lane, `differ` when another lane's copy differs (R119, R120, R155). -/
def execLineStart (h trignum xset : Nat) (echo test : Bool) (len cline : Nat) (differ : Bool) (s : State) : Out :=
  within h 32 <|
    let s1 := joinLanes h (completeLine h .cutShort s)
    let e := s1.head h
    let skip := match e.cline with | some c => cline != (c + 1) % 8192 | none => false
    let s1 := (s1.sat Reg.Head.CLINECNT h (b2n skip)).setHead h { e with cline := some cline }
    match (s1.head h).recs.findIdx? fun r => r.num == trignum % 65536 with
    | some i => ok (countDiffer h differ (openLine h i xset len cline echo test s1))
    | none =>
      ok (countDiffer h differ ((s1.sat Reg.Head.UNMATCHCNT h 1).setHead h { s1.head h with line := some { drop := true } }))

/-- Place one block of a data column into a line (R116, R158). The positions of control blocks are padded (Table 3-3). -/
def placeBlock (s : State) (h nb : Nat) (l : Line) (kb : Nat × Option Word) : Line :=
  let k := kb.1
  let here := l.lanes.testBit k && delivers s h k
  let l := if here then l else { l with lanes := clearBit l.lanes k, lost := true }
  if nb ≤ l.blocks.length then (if here && kb.2.isSome then { l with extra := true } else l)
  else if !here then { l with blocks := l.blocks ++ [none] }
  else match kb.2 with
    | some w => { l with blocks := l.blocks ++ [some w] }
    | none => { l with blocks := l.blocks ++ [none], padded := true }

/-- A column of a line mixes data and control blocks on the lanes that deliver: beyond the last data column any control block
mixes, in it those of the lanes that the line's blocks still reach (R116, Table 3-3). -/
def mixed (s : State) (h nb : Nat) (l : Line) (cols : List (Nat × Option Word)) : Bool :=
  let left := nb - l.blocks.length
  let here := cols.filter fun kb => l.lanes.testBit kb.1 && delivers s h kb.1
  here.any (fun kb => kb.2.isSome) && here.any fun kb => kb.2.isNone && (left == 0 || decide (kb.1 < left))

/-- DATA_COLUMN: one column; entry k is the data block of HLANE k, none for a control block or a lane that delivers
nothing (R116, R124, R157 to R159). A column without a data block is a control column, which leaves a line as it is (R117). -/
def execDataColumn (h : Nat) (blocks : List (Option Word)) (s : State) : Out :=
  within h 32 <|
    let cols := (List.range (laneCount s h)).map fun k => (k, blocks.getD k none)
    let data := fun kb => kb.2.isSome && delivers s h kb.1
    match (s.head h).line with
    | none => ok (s.sat Reg.EslHead.ORPHCNT h (cols.countP data))
    | some l =>
      if l.drop || !cols.any data then ok s
      else
        let nb := blocksFor s h l.len
        let m := mixed s h nb l cols
        let l1 := cols.foldl (placeBlock s h nb) l
        ok ((s.sat Reg.EslHead.MIXCNT h (b2n m)).setHead h { s.head h with line := some { l1 with padded := l1.padded || m } })

/-- LINE_END: completes the open line, or is an orphan on each delivering lane (R119, R157, Table 3-3). -/
def execLineEnd (h crc cline : Nat) (differ : Bool) (s : State) : Out :=
  within h 32 <|
    match (s.head h).line with
    | none => ok (s.sat Reg.EslHead.ORPHCNT h ((List.range (laneCount s h)).countP (delivers s h)))
    | some _ => ok (completeLine h (.done crc cline) (countDiffer h differ s))

/-- LINE_COMPLETION_TIMEOUT: no LINE_END in time (R160). -/
def execLineCompletionTimeout (h : Nat) (s : State) : Out := within h 32 <| ok (completeLine h .late s)

/-- TRIGGER_LINE_TIMEOUT: the oldest outstanding trigger is unanswered in time (R160). -/
def execTriggerLineTimeout (h : Nat) (s : State) : Out := within h 32 <| ok (closeOldest h s)

/-- BLKTO_EXPIRY: HLANE k of a running head has delivered nothing for BLKTO (R159, R172). -/
def execBlktoExpiry (h k : Nat) (s : State) : Out :=
  within h 32 <| within k 32 <|
    if s.running h && decide (k < laneCount s h) && !delivers s h k && !(s.rd Reg.Head.LANEDOWN h).testBit k then
      ok ((s.wr Reg.Head.LANEDOWN h (setBit (s.rd Reg.Head.LANEDOWN h) k)).emit (288 + h))
    else ok s

/-- GAPFL_EXPIRY: a run of missing rows has reached GAPFL (R164). -/
def execGapflExpiry (h : Nat) (s : State) : Out := within h 32 <| ok (sendGap h s)

/-- A control block of TYPE `ty`, with SUB `sub` in a STATUS, at position k of a head's lanes is one that HAU takes as IDLE and
counts: an unlisted TYPE of the uplink, or a STATUS other than TAPACK off the master lane (Table 3-1, R115, R117). -/
def badType (ty sub k : Nat) : Bool :=
  if ty = 0x66 then k != 0 && sub != 3 else !([0x1E, 0x2D, 0x33, 0x4B, 0x55].contains ty)

/-- UNKNOWN_TYPE_BLOCK: such a block arrives on a lane of a head (R115, Table 3-3). -/
def execUnknownTypeBlock (b : CtrlBlock) (s : State) : Out :=
  within b.lane 256 <| match bondOf s b.lane with
    | some (h, k) => ok (if badType b.type b.sub k then s.sat Reg.EslHead.TYPECNT h 1 else s)
    | none => ok s

/-- STATUS_UNKNOWN_SUB: a STATUS whose SUB Table 3-7 does not list (R140). -/
def execStatusUnknownSub (b : StatusBlock) (s : State) : Out :=
  within b.head 32 <| ok (if inRange b.sub 1 4 then s else s.sat Reg.EslHead.TYPECNT b.head 1)

/-- CAM_EVENT: an EVENT is counted and kept (R141). -/
def execCamEvent (h code info : Nat) (s : State) : Out :=
  within h 32 <| ok ((s.sat Reg.EslHead.CAMEVCNT h 1).wrAll h [(Reg.EslHead.CAMEVCODE, code), (Reg.EslHead.CAMEVINFO, info)])

/-! ### Head start (R150, R166, R167, R232, R245, R340) -/

/-- B(h): strips of the running heads below h (R167). -/
def stripsBelow (s : State) (h : Nat) : Nat := ((List.range h).map fun k => if s.running k then stripsOf s k else 0).sum

/-- The logical row processor of strip k under the default rule or the map (R167). -/
def mapOf (s : State) (h : Nat) (dflt : Bool) (k : Nat) : Nat :=
  if dflt then (stripsBelow s h + k) % 64 else s.rd2 Reg.StripMap.LRPOF h k % 64

/-- Strips of a head on each logical row processor, of a map. -/
def onLrp (s : State) (h : Nat) (dflt : Bool) (l : Nat) : List Nat := (List.range (stripsOf s h)).filter fun k => mapOf s h dflt k == l

/-- The logical row processors that strips of a running or starting head are mapped to (R150, R166). -/
def mappedTo (s : State) (h : Nat) : List Nat :=
  match (s.head h).start with
  | some st => st.plan.map (·.1)
  | none => if s.running h then lrpsOf s h else []

/-- The sum of SHARE over the running and starting heads on a logical row processor, h among them, with its share given and
whether it has strips there (R166). -/
def shareSum (s : State) (h share : Nat) (here : Bool) (l : Nat) : Nat :=
  ((List.range 32).map fun k => if k ≠ h ∧ (mappedTo s k).contains l then s.rd Reg.Head.SHARE k else 0).sum + if here then share else 0

/-- Assignment indices held on a logical row processor. -/
def assignedIdx (s : State) (l : Nat) : List Nat := (s.rpa.assigns.filter fun e => e.1 / 256 == l).map fun e => e.1 % 256

/-- Those that heads under start will take there. -/
def plannedIdx (s : State) (l : Nat) : List Nat :=
  (List.range 32).flatMap fun h =>
    match (s.head h).start with
    | some st => (st.plan.filter fun e => e.1 == l).map (·.2)
    | none => []

/-- Assignment indices taken on a logical row processor, those of heads under start among them (R232). -/
def takenIdx (s : State) (l : Nat) : List Nat := assignedIdx s l ++ plannedIdx s l

/-- The lowest indices not taken, n of them. -/
def freeIdx (taken : List Nat) (n : Nat) : List Nat := ((List.range 512).filter fun k => !taken.contains k).take n

/-- A valid code area's image. -/
def areaValid (s : State) (k : Nat) : Bool := s.rd2 Reg.RpaGlobal.AVALID 0 k != 0

/-- An image in a code area. -/
def areaOf (s : State) (k : Nat) : Area := Tbl.get (fun _ => {}) s.rpa.areas k

/-- Bytes of one window slot (R245). -/
def winSlot : Nat := 1088

/-- The window block of an assignment index fits in the data area, in every valid area (R245). -/
def windowFits (s : State) (i : Nat) : Bool :=
  [0, 1].all fun k => !areaValid s k || (areaOf s k).wdepth == 0 ||
    decide ((areaOf s k).wbase + (i + 1) * (areaOf s k).wdepth * winSlot ≤ 0xFC000)

/-- The checks of one logical row processor (R166, R232, R245). -/
def lrpOk (s : State) (h : Nat) (dflt : Bool) (l : Nat) : Bool :=
  let n := (onLrp s h dflt l).length
  let idx := freeIdx (takenIdx s l) n
  n == 0 || (decide (shareSum s h (s.rd Reg.Head.SHARE h) true l ≤ 256) && decide ((takenIdx s l).length + n ≤ 256) &&
    idx.all (windowFits s))

/-- The schedule checks of a view member (R340). -/
def memberOk (s : State) (h : Nat) : Bool :=
  match viewOf s h with
  | none => true
  | some v =>
    let ms := membersOf s v
    ms.length < 2 ||
      (decide (s.rd Reg.TesHead.TSRC h ≤ 1) && ms.all fun m => !s.running m ||
        [Reg.TesHead.PDIR, Reg.TesHead.DY, Reg.TesHead.YORG, Reg.TesHead.LRMAX, Reg.TesHead.TPER, Reg.TesHead.TSTART].all fun f =>
          s.rd f h == s.rd f m)

/-- The head has an EN entry in a valid area (R238). -/
def hasEntry (s : State) (h : Nat) : Bool :=
  [0, 1].any fun k => areaValid s k && (Tbl.get (fun _ => none) (areaOf s k).heads h).isSome

/-- The status with which HAU.START fails before step 2 (R150). -/
def startRefused (s : State) (h : Nat) (dflt : Bool) : Option Nat :=
  if s.busyHead h then some stHEADBUSY
  else if !Tbl.get (fun _ => false) s.bonded h || (bondLanes s h).any (fun n => s.rd Reg.Lane.RATE n == 0) || s.rd Reg.Head.HW h == 0 ||
      s.rd Reg.Head.EBWEIGHT h == 0 || decide (s.rd Reg.Head.EBSLOTS h < 4) ||
      (s.rd Reg.TesHead.TSRC h == 0 && s.rd Reg.TesHead.DY h == 0) || (s.rd Reg.TesHead.TSRC h == 1 && s.rd Reg.TesHead.TPER h == 0) ||
      decide (256 < stripsOf s h) || !(List.range 64).all (lrpOk s h dflt) || !memberOk s h then some stBOUNDS
  else if !hasEntry s h then some stIMAGE
  else none

/-- Logical row processor and assignment index of each strip of a head: the map, and on each processor the lowest indices that
are not taken, in strip order (R167, R232). -/
def planOf (s : State) (h : Nat) (dflt : Bool) : List (Nat × Nat) :=
  (List.range (stripsOf s h)).map fun k =>
    let l := mapOf s h dflt k
    let on := onLrp s h dflt l
    (l, (freeIdx (takenIdx s l) on.length).getD (on.countP fun j => decide (j < k)) 0)

/-- The lanes of a starting head begin to train where they are not LOCKED; its master's transmitter wakes, and the others sleep
where training is complete (R96, R144; log entry 145). -/
def startLanes (h : Nat) (s : State) : State :=
  let ls := bondLanes s h
  let s := match ls with | m :: _ => txIdle m (s.wr Reg.Lane.TXSLEEP m 0) | [] => s
  if allLocked s h then sleepOthers h s else ls.foldl (fun s n => if s.laneState n = lsLOCKED then s else startTrain n s) s

/-- HAU.START: checks, then steps 2 to 8 of Table 3-9; the map and the assignment indices are fixed before step 2 (R150). -/
def execHauStart (x : XWord) (s : State) : Out :=
  xop 2 0x05 x (fun a s =>
    if 32 ≤ a.i then .no stBOUNDS s
    else match startRefused s a.i (a.arg.testBit 0) with
      | some st => .no st s
      | none =>
        let dflt := a.arg.testBit 0
        let st : Start := { dflt := dflt, lseq := bits (a.w 0) 39 0, plan := planOf s a.i dflt }
        .start (startLanes a.i (s.setHead a.i { s.head a.i with start := some st }))) s

/-- The checks of step 5 on the camera's registers as read (R144, R150, R209). -/
def cameraStatus (s : State) (h eslver : Nat) : Nat :=
  let caps := s.rd Reg.EslHead.CAMCAPS h
  if eslver / 65536 ≠ 1 ∨ caps / 256 % 8 < s.rd Reg.Head.LANES h ∨
      (s.on Reg.TesHead.INBAND h ∧ caps / 2 ^ 30 % 2 = 0) then stINCOMPAT
  else if slowLane s h ∨ s.rd Reg.EslHead.CAMMAXLEN h < s.rd Reg.Head.HW h ∨ (caps / 65536 % 16).testBit (s.rd Reg.Head.FMT h) = false ∨
      (caps / 2048 % 32).testBit (s.rd Reg.Head.DEPTH h) = false ∨ (s.head h).maxLrate < s.rd Reg.TesHead.LRMAX h then stBOUNDS
  else stOK

/-- The registers that step 5 reads: ESLVER, CAPS, MAXLEN, DCAM, MAXLRATE and LAYOUT, in address order (log entry 146). -/
def bringupReads : List Nat := [0x0, 0x8, 0xC, 0x10, 0x14, 0x18]

/-- HAU reads a register of the camera for step 5 (Table 3-9). -/
def readReg (h addr : Nat) (s : State) : State := sendCmd h { use := .start, write := false, addr := addr } s

/-- A register that step 5 has read is kept: in the ESL head block, MAXLRATE for the running head (R150, R206). -/
def keepRead (h addr data : Nat) (st : Start) (s : State) : State :=
  match addr with
  | 0x0 => s.setHead h { s.head h with start := some { st with eslver := data } }
  | 0x8 => s.wr Reg.EslHead.CAMCAPS h data
  | 0xC => s.wr Reg.EslHead.CAMMAXLEN h data
  | 0x10 => s.wr Reg.EslHead.CAMDCAM h data
  | 0x14 => s.setHead h { s.head h with maxLrate := data }
  | _ => s.wr Reg.EslHead.CAMLAYOUT h data

/-- A read of step 5 has been answered OK: the next one goes out, or with the last the checks are made and step 6 writes LEN
(Table 3-9). -/
def readAnswered (h addr data : Nat) (st : Start) (s : State) : State :=
  let s := keepRead h addr data st s
  match bringupReads.find? fun a => decide (addr < a) with
  | some a => readReg h a s
  | none =>
    let c := cameraStatus s h st.eslver
    if c ≠ stOK then failStart h c s
    else sendCmd h { use := .start, addr := 0x104, data := s.rd Reg.Head.HW h }
      (s.setHead h { s.head h with start := some { st with step := 6 } })

/-- The camera answers the outstanding read of step 5 with OK. -/
def answerRead (h data : Nat) (s : State) : State :=
  match (s.head h).cmd, (s.head h).start with
  | some c, some st => if c.use = .start ∧ !c.write then readAnswered h c.addr data st (nextCmd h s) else s
  | _, _ => s

/-- HEAD_BRINGUP_REGS: every lane of a starting head is LOCKED, and HAU begins the reads of step 5 (R144). The camera answers as many
of them as `answers` says at once, and the others by STATUS_CMDRSP or not at all (log entry 146). -/
def execHeadBringupRegs (h eslver caps maxlen dcam maxlrate layout answers : Nat) (s : State) : Out :=
  within h 32 <|
    match (s.head h).start with
    | none => ok s
    | some st =>
      if 5 ≤ st.step ∨ !allLocked s h then ok s
      else ok (([eslver, caps, maxlen, dcam, maxlrate, layout].take answers).foldl (fun s d => answerRead h d s)
        (readReg h 0 (s.setHead h { s.head h with start := some { st with step := 5 } })))

/-- The sets in use that step 7 downloads: in force and pending, when TES holds their images (Table 3-9). -/
def setsInUse (s : State) (h : Nat) : List Nat :=
  let t := s.tesOf h
  let held := fun k => !(Tbl.get (fun _ => []) t.images k).isEmpty
  [s.rd Reg.TesHead.XCUR h].filter held ++ (if s.on Reg.TesHead.XPV h then [s.rd Reg.TesHead.XPEND h].filter held else [])

/-- Address of the LSEQ word of a window slot in a physical row processor's strip memory. -/
def winWord (phys wbase wdepth i k : Nat) : Nat := 0x10000000 + phys * 0x100000 + wbase + (i * wdepth + k) * winSlot + 1024

/-- The LSEQ word that matches no row, LSEQs having 40 bits (R232, R246; DESIGN CHOICE, log entry 153). -/
def noLseq : Word := 0xFFFFFFFFFF

/-- Every slot of an assignment's window block becomes invalid, in every valid area (R232). -/
def clearWindow (l i : Nat) (s : State) : State :=
  [0, 1].foldl (fun s k =>
    if areaValid s k then
      (List.range (areaOf s k).wdepth).foldl (fun s j =>
        s.write64 (winWord (s.rd Reg.Lrp.PHYS l) (areaOf s k).wbase (areaOf s k).wdepth i j) noLseq) s
    else s) s

/-- A strip of a head takes its index on its logical row processor (R232). -/
def assignStrip (h : Nat) (s : State) (e : (Nat × Nat) × Nat) : State :=
  let l := e.1.1
  let i := e.1.2
  let s := { s with rpa := { s.rpa with assigns := Tbl.set (fun _ => 0) s.rpa.assigns (256 * l + i) (1 + 256 * h + e.2),
                                        inits := Tbl.erase (Tbl.erase s.rpa.inits (2 * (256 * l + i))) (2 * (256 * l + i) + 1) } }
  clearWindow l i (s.wr Reg.Lrp.NASSIGN l (assignedIdx s l).length)

/-- ASSIGNED shows which lanes belong to a running head (Table 2-6). -/
def showAssigned (h v : Nat) (s : State) : State :=
  (bondLanes s h).foldl (fun s n => s.wr Reg.Lane.ASSIGNED n v) s

/-- Step 8 is done: map and indices are taken, the head runs (R150, R154, R232). -/
def beginRun (h : Nat) (st : Start) (s : State) : State :=
  let s := if st.dflt then st.plan.zipIdx.foldl (fun s v => s.wr2 Reg.StripMap.LRPOF h v.2 v.1.1) s else s
  let ep := s.rd Reg.Cut.EPOCH 0
  let s := s.setHead h { s.head h with start := none, recs := [], unanswered := [], line := none, cline := none, gap := none,
                                       gapBefore := false, cuts := [], epoch := ep, stopping := false }
  let s := st.plan.zipIdx.foldl (assignStrip h) s
  let s := (s.wrAll h [(Reg.Head.RUNNING, 1), (Reg.Head.LSEQNEXT, st.lseq), (Reg.Head.LANEDOWN, 0)])
  let s := showAssigned h 1 s
  let s := (lrpsOf s h).foldl (fun s l => stageStart 5 l false h ep s) s
  let s := stageStart 10 0 false h ep (stageStart 6 0 false h ep s)
  (tesStart h s).complete 2 0x05 h stOK

/-- RUN 0 goes to the camera of a head whose master lane is LOCKED (R151). -/
def stopCamera (h : Nat) (s : State) : State :=
  if lockedAt s h 0 then sendCmd h { use := .stop, addr := 0x100, data := ctrlWord s h 0 } s else s

/-! ### Camera register accesses (R136, R137, R144, R145) -/

/-- A lane takes the new rate: one that is LOCKED, or trains, goes to TRAINING and waits there; one that was off is COLD (R145;
log entry 144). -/
def laneRate (code n : Nat) (s : State) : State :=
  let s := s.wr Reg.Lane.RATE n code
  if s.laneState n = lsLOCKED ∨ s.laneState n = lsTRAINING then (s.wr Reg.Lane.STATE n lsTRAINING).setLane n (s.lane n).idle
  else if s.laneState n = lsOFF then txIdle n (s.wr Reg.Lane.STATE n lsCOLD)
  else s

/-- A CMD has been answered with OK to an LRATE write: the head's lanes take the rate (R145). -/
def rateAccepted (h code : Nat) (s : State) : State :=
  let s := (bondLanes s h).foldl (fun s n => laneRate code n s) s
  s.setHead h { s.head h with reRate := true }

/-- A CMD of steps 5 to 8 has been answered OK (Table 3-9). -/
def startAnswered (h data : Nat) (c : CamCmd) (s : State) : State :=
  match (s.head h).start with
  | none => s
  | some st =>
    if !c.write then readAnswered h c.addr data st s
    else if st.step = 8 then (if slowLane s h then stopCamera h (failStart h stBOUNDS s) else beginRun h st s)
    else if c.addr = 0x104 then sendCmd h { use := .start, addr := 0x100, data := ctrlWord s h 0 } s
    else startSets h (s.setHead h { s.head h with start := some { st with sets := setsInUse s h } })

/-- What the answer to a CMD does; w1 of HAU.CAMREG reads 0 where R137 puts nothing (log entry 146). -/
def answered (h result data : Nat) (c : CamCmd) (s : State) : State :=
  match c.use with
  | .camreg addr =>
    let s := s.write64 (addr + 8) (fld result 8 32 ||| fld (if result = 0 ∧ !c.write then data else 0) 32 0)
    let s := if c.write && c.addr == 0x108 && result == 0 then rateAccepted h (c.data % 16) s else s
    s.complete 2 0x08 h stOK
  | .start => if result ≠ 0 then failStart h stINCOMPAT s else startAnswered h data c s
  | .stop => s

/-- STATUS_CMDRSP: completes the outstanding access, or is a stray answer (R136). -/
def execStatusCmdrsp (h tag result data : Nat) (s : State) : Out :=
  within h 32 <|
    match (s.head h).cmd with
    | none => ok (s.sat Reg.EslHead.STRAYCNT h 1)
    | some c =>
      if c.tag ≠ tag then ok (s.sat Reg.EslHead.STRAYCNT h 1)
      else ok (answered h result data c (nextCmd h s))

/-- CMDTO_EXPIRY: no answer to the outstanding CMD within CMDTO (R136, R144). -/
def execCmdtoExpiry (h : Nat) (s : State) : Out :=
  within h 32 <|
    match (s.head h).cmd with
    | some c =>
      let s1 := nextCmd h (s.sat Reg.EslHead.CMDTOCNT h 1)
      match c.use with
      | .camreg _ => ok (s1.complete 2 0x08 h stCAMTO)
      | .start => ok (failStart h stCAMTO s1)
      | .stop => ok s1
    | none => ok s

/-- HAU.CAMREG: reads or writes a camera register (R135, R136, R145; log entry 141). -/
def execHauCamreg (x : XWord) (s : State) : Out :=
  xop 2 0x08 x (fun a s =>
    let addr := bits (a.w 0) 31 0
    let data := bits (a.w 1) 31 0
    let write := a.arg.testBit 0
    if 32 ≤ a.i ∨ addr % 4 ≠ 0 ∨ !Tbl.get (fun _ => false) s.bonded a.i then .no stBOUNDS s
    else if !lockedAt s a.i 0 then .no stLANEBUSY s
    else if write && addr == 0x108 && (data % 16 == 0 || (bondLanes s a.i).any fun n => !rateOk (s.rd Reg.LaneGroup.REFSEL (n / 16)) (data % 16)) then
      .no stBOUNDS s
    else .start (sendCmd a.i { use := .camreg a.addr, write := write, addr := addr, data := data } s)) s

/-- RATE_CHANGE_RETRAIN: 1 ms after the answer, the lanes train from step 1; a lane whose grant is too small first asks
for the difference (R145). -/
def execRateChangeRetrain (h : Nat) (s : State) : Out :=
  within h 32 <|
    if !(s.head h).reRate then ok s
    else
      let held := fun n => ((s.damper.held.filter fun g => g.cls == 2 && (g.id == n || g.id == 256 + n)).map (·.mw)).sum
      let short := (bondLanes s h).filter fun n => decide (held n < wakeMw s n)
      let s1 := short.foldl (fun s n => s.request 2 (256 + n) (wakeMw s n - held n)) s
      let s1 := ((bondLanes s h).filter fun n => !short.contains n && s.laneState n == lsTRAINING && (s.lane n).step == 0).foldl
        (fun s n => trainFrom n 1 (s.setLane n { s.lane n with retained := false, short := false })) s1
      ok (s1.setHead h { s1.head h with reRate := !short.isEmpty })

/-! ### Other X-class operations -/

/-- The lanes that HAU.BOND lists. -/
def bondList (a : XArgs) : List Nat :=
  (List.range (2 ^ bits (a.w 0) 2 0)).map fun k => bits (a.w (1 + k / 8)) (8 * (k % 8) + 7) (8 * (k % 8))

/-- The lane belongs to another head's bonding. -/
def bondedElsewhere (s : State) (h l : Nat) : Bool :=
  (List.range 32).any fun k => k != h && (bondLanes s k).contains l

/-- HAU.BOND: assigns a list of lanes to a head (R149). -/
def execHauBond (x : XWord) (s : State) : Out :=
  direct 2 0x01 32 x (fun a s =>
    let n := bits (a.w 0) 2 0
    let ls := bondList a
    let l0 := ls.getD 0 0
    if 5 < n ∨ ls.any (fun l => l / 64 != l0 / 64 || s.rd Reg.Lane.RATE l != s.rd Reg.Lane.RATE l0) ∨ !ls.Nodup then .error stBOUNDS
    else if ls.any (bondedElsewhere s a.i) then .error stLANEBUSY
    else if s.busyHead a.i then .error stHEADBUSY
    else
      let s := (bondLanes s a.i).foldl (fun s l => s.wrAll l [(Reg.Lane.MASTER, 0), (Reg.Lane.HEAD, 0)]) s
      let s := ls.zipIdx.foldl (fun s l =>
        (s.wrAll l.1 [(Reg.Lane.MASTER, b2n (l.2 == 0)), (Reg.Lane.HEAD, a.i)]).wr2 Reg.Head.LANEMAP a.i l.2 l.1) s
      .ok { s.wr Reg.Head.LANES a.i n with bonded := Tbl.set (fun _ => false) s.bonded a.i true }) s

/-- Device address of the head blocks. -/
def hauBase : Nat := 0x20020000

/-- Fields that HAU.CFG writes (R171). -/
def hauCfgFields : List Field :=
  [Reg.Head.DEPTH, Reg.Head.FMT, Reg.Head.PADMODE, Reg.Head.STRIPW, Reg.Head.HW, Reg.Head.PADVAL, Reg.Head.EBWEIGHT, Reg.Head.SHARE,
   Reg.Head.LCTO, Reg.Head.TLTO, Reg.Head.LCMIN, Reg.Head.TLMIN, Reg.Head.BLKTO, Reg.Head.GAPFL]

/-- EBSLOTS follows the banks and the row geometry (R162). -/
def showSlots (h : Nat) (s : State) : State := s.wr Reg.Head.EBSLOTS h (slotsFor s h (s.rd Reg.Head.EBBANKS h))

/-- HAU.CFG: writes a head block (R171). -/
def execHauCfg (x : XWord) (s : State) : Out :=
  blockOp 2 0x02 32 x hauBase 7 hauCfgFields (fun a s => if s.busyHead a.i then some stHEADBUSY else none)
    (fun v _ _ => inRange (v Reg.Head.HW) 1 65536 && decide (v Reg.Head.DEPTH ≤ 4) && inRange (v Reg.Head.LCTO) 1 64 &&
      inRange (v Reg.Head.TLTO) 1 255 && inRange (v Reg.Head.LCMIN) 1 65535 && inRange (v Reg.Head.TLMIN) 1 65535 &&
      inRange (v Reg.Head.BLKTO) 1 10000 && inRange (v Reg.Head.GAPFL) 1 1000)
    (fun h _ s => showSbrows (showSlots h s)) s

/-- HAU.MAP: writes the strip map of a head; reserved bits of its bytes are not stored (R166, R171). -/
def execHauMap (x : XWord) (s : State) : Out :=
  direct 2 0x03 32 x (fun a s =>
    if s.busyHead a.i then .error stHEADBUSY
    else if 32 < a.ws.length then .error stBOUNDS
    else .ok ((List.range (8 * a.ws.length)).foldl (fun s k =>
      s.wr2 Reg.StripMap.LRPOF a.i k (bits (a.w (k / 8)) (8 * (k % 8) + 5) (8 * (k % 8)))) s)) s

/-- Sum of the weights of all heads. -/
def weightSum (s : State) : Nat := ((List.range 32).map fun h => s.rd Reg.Head.EBWEIGHT h).sum

/-- Remainder of a head's share of the banks (R161). -/
def ebRem (s : State) (h : Nat) : Nat := 192 * s.rd Reg.Head.EBWEIGHT h % weightSum s

/-- Banks of a head: its floor, and one of the banks left over when fewer heads than those come before it by remainder,
then by HEAD (R161). -/
def banksOf (s : State) (h : Nat) : Nat :=
  let w := weightSum s
  if s.rd Reg.Head.EBWEIGHT h = 0 then 0
  else
    let floors := ((List.range 32).map fun k => 192 * s.rd Reg.Head.EBWEIGHT k / w).sum
    let rank := (List.range 32).countP fun k => s.rd Reg.Head.EBWEIGHT k != 0 &&
      (decide (ebRem s h < ebRem s k) || (ebRem s k == ebRem s h && decide (k < h)))
    192 * s.rd Reg.Head.EBWEIGHT h / w + b2n (decide (rank < 192 - floors))

/-- First bank of a head, the heads' banks following each other from bank 64 in HEAD order (log entry 21). -/
def firstBank (s : State) (h : Nat) : Nat := 64 + ((List.range h).map (banksOf s)).sum

/-- HAU.EBALLOC: divides the elastic-buffer banks by weight (R161). -/
def execHauEballoc (x : XWord) (s : State) : Out :=
  xop 2 0x04 x (fun _ s =>
    if (runningHeads s).any fun h => banksOf s h != s.rd Reg.Head.EBBANKS h || firstBank s h != (s.head h).bank then .no stHEADBUSY s
    else
      let total := ((List.range 32).map (banksOf s)).sum
      let s1 := (List.range 32).foldl (fun t h =>
        showSlots h ((t.wr Reg.Head.EBBANKS h (banksOf s h)).setHead h { t.head h with bank := firstBank s h })) s
      .fin stOK ((List.range 192).foldl (fun t k => t.wr Reg.Mem.USE (64 + k) (b2n (decide (k < total)))) s1)) s

/-- HAU.SHARE: changes the dispatch share of a head, subject to R166 while it runs or starts. -/
def execHauShare (x : XWord) (s : State) : Out :=
  direct 2 0x07 32 x (fun a s =>
    let v := a.arg % 256
    if (mappedTo s a.i).any fun l => decide (256 < shareSum s a.i v true l) then .error stBOUNDS
    else .ok (s.wr Reg.Head.SHARE a.i v)) s

/-- HAU.ESLCFG: writes CMDTO and XSETTO (Table 3-11). -/
def execHauEslcfg (x : XWord) (s : State) : Out :=
  blockOp 2 0x09 32 x 0x2002C000 1 [Reg.EslHead.CMDTO, Reg.EslHead.XSETTO] (fun _ _ => none)
    (fun v _ _ => inRange (v Reg.EslHead.CMDTO) 1 100000 && inRange (v Reg.EslHead.XSETTO) 1 100000) (fun _ _ s => s) s

/-- Clear the counters of a head: head block, ESL block and EBPEAK (R148, R165, R171). -/
def hauCntOne (h : Nat) (s : State) : State :=
  let s := s.clr h [Reg.Head.SHORTCNT, Reg.Head.LONGCNT, Reg.Head.CRCCNT, Reg.Head.LATECNT, Reg.Head.LOSTCNT, Reg.Head.EBFULLCNT,
    Reg.Head.NOLINECNT, Reg.Head.UNMATCHCNT, Reg.Head.LENCNT, Reg.Head.CLINECNT, Reg.Head.SHARECNT, Reg.EslHead.DISCNT,
    Reg.EslHead.MIXCNT, Reg.EslHead.ORPHCNT, Reg.EslHead.TYPECNT, Reg.EslHead.STRAYCNT, Reg.EslHead.CMDTOCNT, Reg.EslHead.XSNACKCNT,
    Reg.EslHead.CAMEVCNT]
  s.wr Reg.Head.EBPEAK h (s.rd Reg.Head.EBFILL h)

end Sys2Proof.Machine
end

