-- ==== Sys2Proof/Machine/RowCore.lean ====
section
/-!
DEFINITION. The row processor array beneath its runs: code areas (R237, R238), parameters and copies (R243, R244), journals (R250,
R251), diversions (R58, R256) and program faults (R256).
-/
namespace Sys2Proof.Machine

/-- Key of a (HEAD, STRIP). -/
def hsKey (h k : Nat) : Nat := 256 * h + k

/-! ### Code areas (R237, R238) -/

/-- First epoch of a code area. -/
def areaEpoch (s : State) (k : Nat) : Nat := s.rd2 Reg.RpaGlobal.AEPOCH 0 k

/-- A valid area may serve an epoch: its first epoch is not later. -/
def areaServes (s : State) (k ep : Nat) : Bool := areaValid s k && !epochLater (areaEpoch s k) ep

/-- The area that an epoch selects: of those that may serve it, the one with the latest first epoch. -/
def areaFor (s : State) (ep : Nat) : Option Nat :=
  if areaServes s 0 ep then
    (if areaServes s 1 ep && epochLater (areaEpoch s 1) (areaEpoch s 0) then some 1 else some 0)
  else if areaServes s 1 ep then some 1 else none

/-- Epochs of the strips that remain to be run: rows in elastic buffers, runs under way, strips to be run again, and rows to
come. -/
def epochsToRun (s : State) : List Nat :=
  s.rd Reg.Cut.EPOCH 0 ::
    ((runningHeads s).flatMap fun h => (s.head h).epoch :: ((s.head h).rows.filter fun r => !r.todo.isEmpty).map fun r => r.tag.epoch) ++
    (s.procs.filterMap fun p => p.2.run.map fun r => r.tag.epoch) ++ s.rpa.replays.map fun e => e.tag.epoch

/-- An area is inactive: not valid, or no remaining strip selects it; and no copy into it is under way (R237). -/
def areaInactive (s : State) (k : Nat) : Bool :=
  (!areaValid s k || (epochsToRun s).all fun e => areaFor s e != some k) && s.rpa.copies.all fun c => c.area != k

/-! ### Parameters and copies (R243, R244) -/

/-- Key of K register n of head h on logical row processor l. -/
def kKey (l h n : Nat) : Nat := 64 * (64 * l + h) + n

/-- Write parameter values. -/
def setParams (l h first : Nat) (ws : List Word) (s : State) : State :=
  { s with rpa := { s.rpa with heads := ws.zipIdx.foldl (fun t v => Tbl.set (fun _ => 0) t (kKey l h (first + v.2)) v.1) s.rpa.heads } }

/-- K8 to K63 of a head on a logical row processor. -/
def headParams (s : State) (l h : Nat) : List Word := (List.range 56).map fun k => Tbl.get (fun _ => 0) s.rpa.heads (kKey l h (k + 8))

/-- A whole extent that RPA can read: shared banks that are ON, or DRAM that is up, not poisoned (R236, R244). -/
def extentReads (s : State) (a n : Nat) : Bool := (s.inBanksOn a n || s.inDram a n) && !s.poisoned a n

/-- An address that a copy by RPA can read. -/
def canRead (s : State) (a : Nat) : Bool := extentReads s a 1

/-- Write copies by SMWRITE into the strip memory of row processor u. -/
def writeCopies (u : Nat) (cs : List (Nat × List Byte)) (s : State) : State :=
  cs.foldl (fun s c => s.setBytes (0x10000000 + u * 0x100000 + c.1) c.2) s

/-- The copies that have landed at a logical row processor since its last run began. -/
def landed (s : State) (l : Nat) : List (Nat × List Byte) := Tbl.get (fun _ => []) s.rpa.smCopies l

/-- A copy by SMWRITE may be in strip memory now: no run is under way on the processor, and no strip waits to run again, which must
not see it (R47). -/
def mayLand (s : State) (l : Nat) : Bool :=
  (s.proc (s.rd Reg.Lrp.PHYS l)).run.isNone && s.rpa.replays.all fun e => e.lrp != l

/-- The copies of a logical row processor are in its strip memory as soon as they may be. -/
def landCopies (l : Nat) (s : State) : State :=
  if mayLand s l then writeCopies (s.rd Reg.Lrp.PHYS l) (landed s l) s else s

/-- SMWRITE at its apply-at point: the bytes go into the processor's strip memory and into the journal of the following run; a
source that cannot be read changes nothing, and the next strip of the head meets the fault (R244). -/
def copyIn (l h src off n : Nat) (s : State) : State :=
  match (List.range n).find? fun k => !canRead s (src + k) with
  | some k => { s with rpa := { s.rpa with smFault := Tbl.set (fun _ => none) s.rpa.smFault (64 * l + h) (some (src + k)) } }
  | none =>
    landCopies l { s with rpa := { s.rpa with
      smCopies := Tbl.set (fun _ => []) s.rpa.smCopies l (landed s l ++ [(off, s.readBytes src n)]) } }

/-- What RPA does when it applies a packet at a logical row processor. -/
def rpaEff (e : Held) (s : State) : State :=
  let w := fun k => e.pkt.words.getD k 0
  match e.pkt.op with
  | 2 => setParams e.sub e.pkt.stream (bits (w 0) 5 0) ((e.pkt.words.drop 1).take (bits (w 0) 13 8)) s
  | 3 => copyIn e.sub e.pkt.stream (bits (w 0) 47 0) (bits (w 1) 19 0) (bits (w 1) 36 20) s
  | _ => s

/-! ### Rows and their strips (R165) -/

/-- Free the slots of rows whose strips are all committed or diverted and whose copy HIS needs no more (R165). -/
def freeSlots (h : Nat) (s : State) : State :=
  let e := s.head h
  showFill h (s.setHead h { e with rows := e.rows.filter fun r => !(r.open_.isEmpty && r.taken) })

/-- A strip is committed by SST or diverted: its row no longer waits for it (R165). -/
def closeStrip (h lseq k : Nat) (s : State) : State :=
  let e := s.head h
  freeSlots h (s.setHead h { e with rows := e.rows.map fun r => if r.tag.lseq = lseq then { r with open_ := r.open_.filter (· != k) } else r })

/-! ### Journals (R250, R251) -/

/-- Bytes that a logical row processor's journals hold. -/
def journalBytes (s : State) (l : Nat) : Nat := ((s.rpa.journals.filter fun j => j.lrp == l).map fun j => 64 * j.lines.length).sum

/-- The journal has room for a run: 32 KiB of its 128 KiB (R249, R251). -/
def journalRoom (s : State) (l : Nat) : Bool := decide (journalBytes s l + 32768 ≤ 131072)

/-- Address of a byte of the packed mirror layout of an area (R249). -/
def mirrorAddr (a : Area) (n : Nat) : Nat := (a.banks.getD (n / 0x80000) 0) * 0x80000 + n % 0x80000

/-- Bytes of all mirror regions of an area. -/
def mirrorLen (a : Area) : Nat := (a.mirror.map (·.2)).sum

/-- Offset of a strip-memory line within the mirror image. -/
def mirrorOff : List (Nat × Nat) → Nat → Option Nat
  | [], _ => none
  | m :: ms, o => if m.1 ≤ o ∧ o < m.1 + m.2 then some (o - m.1) else (mirrorOff ms o).map (· + m.2)

/-- Write a journal's lines into its processor's mirror image. -/
def applyLines (a : Area) (l : Nat) (lines : List (Nat × List Byte)) (s : State) : State :=
  lines.foldl (fun s ln =>
    match mirrorOff a.mirror ln.1 with
    | some o => s.fill (mirrorAddr a (l * (mirrorLen a + 131072) + o)) ln.2
    | none => s) s

/-- Apply settled journals of a logical row processor, in run order, up to the first that is not settled (R250). -/
def applyJournals (l : Nat) : List Journal → State → State
  | [], s => s
  | j :: js, s =>
    if j.lrp ≠ l then applyJournals l js s
    else if !j.settled then s
    else
      let a := areaOf s j.area
      let s := applyLines a l j.lines s
      applyJournals l js { s with rpa := { s.rpa with journals := s.rpa.journals.erase j } }

/-- Settle the journal of a strip: committed by SST or diverted (R250). -/
def settle (s : State) (head lseq strip : Nat) : State :=
  { s with rpa := { s.rpa with journals := s.rpa.journals.map fun j =>
      if j.head = head ∧ j.lseq = lseq ∧ j.strip = strip then { j with settled := true } else j } }

/-- A strip of a logical row processor is settled: journals apply as far as they may. -/
def settleStrip (l : Nat) (t : Tag) (s : State) : State :=
  let s := settle s t.head t.lseq t.strip
  applyJournals l s.rpa.journals s

/-- The lines of mirror regions that a run dirties: by its stores, and by the copies that landed before it (R250). -/
def journalLines (a : Area) (p : Proc) (r : Run) : List Nat :=
  (p.dirty ++ r.copies.flatMap fun c => ((List.range (c.2.length / 64)).map fun k => c.1 + 64 * k).filter fun o =>
    (mirrorOff a.mirror o).isSome).eraseDups

/-- The journal of a run that has ended on row processor u: its dirty lines with their contents (R250). -/
def journalOf (s : State) (u : Nat) (r : Run) (p : Proc) : Journal :=
  { lrp := r.lrp, head := r.tag.head, lseq := r.tag.lseq, strip := r.tag.strip, area := r.area, ks := r.ks, copies := r.copies,
    lines := (journalLines (areaOf s r.area) p r).map fun o => (o, (List.range 64).map fun k => s.byte (0x10000000 + u * 0x100000 + o + k)) }

/-! ### Diversion at RPA (R33, R48, R58, R256) -/

/-- Every strip of a head has a row missing before it; the strip that is missing itself lies behind earlier ones (R58). -/
def markGapAfter (t : Tag) (s : State) : State :=
  { s with rpa := { s.rpa with gapAfter := (List.range (stripsOf s t.head)).foldl (fun g k =>
      Tbl.set (fun _ => []) g (hsKey t.head k) (if k = t.strip then [t.lseq] else Tbl.get (fun _ => []) g (hsKey t.head k) ++ [t.lseq])) s.rpa.gapAfter } }

/-- LSEQ b follows a (R57). -/
def lseqAfter (a b : Nat) : Bool := inRange ((b + 2 ^ 40 - a) % 2 ^ 40) 1 (2 ^ 39 - 1)

/-- A strip that RPA passes on carries GAPBEFORE when a row before it is missing (R58). -/
def gapBefore (t : Tag) (s : State) : Tag × State :=
  let k := hsKey t.head t.strip
  let ls := Tbl.get (fun _ => []) s.rpa.gapAfter k
  ({ t with flags := setBitIf (ls.any fun l => lseqAfter l t.lseq) t.flags fGAPBEFORE },
   { s with rpa := { s.rpa with gapAfter := Tbl.set (fun _ => []) s.rpa.gapAfter k (ls.filter fun l => !lseqAfter l t.lseq) } })

/-- RPA diverts a strip of a logical row processor: a Sump note of SKIND 0x04, points passed, the journal and the slot's claim on it
end, SST learns of it by a GAP packet of its row, and the next row of each strip carries GAPBEFORE (R33, R48, R50, R58, R165,
R251, R256). -/
def divertAtRpa (l skind : Nat) (t : Tag) (s : State) : State :=
  let s := (s.note t.head skind t).evt 5 (s.rd Reg.Lrp.PHYS l) 0x03
  let s := stageDivert rpaEff 5 l false t.head t.lseq t.pos t.epoch (settleStrip l t s)
  let g : GapPkt := { stage := 6, stream := t.head, lseq := t.lseq, pos := t.pos, time := s.pt, skind := skind, count := 1,
                      rows := [(t.pos, t.epoch)] }
  closeStrip t.head t.lseq t.strip (markGapAfter t { s with gaps := s.gaps ++ [g] })

/-! ### Program faults of row processors (R256) -/

/-- A logical row processor halts on an area: the fault is recorded and counted, source 482 emits. -/
def haltLrp (l c iaddr area : Nat) (t : Tag) (s : State) : State :=
  let s := s.wrAll l [(Reg.Lrp.HALTED, 1), (Reg.Lrp.FCODE, c), (Reg.Lrp.FIADDR, iaddr), (Reg.Lrp.FHEAD, t.head), (Reg.Lrp.FSTRIP, t.strip),
    (Reg.Lrp.FLSEQ, t.lseq)]
  let s := ((s.sat Reg.Lrp.FAULTCNT l 1).emit 482).evt 5 (s.rd Reg.Lrp.PHYS l) 0x0C
  { s with rpa := { s.rpa with haltArea := Tbl.set (fun _ => none) s.rpa.haltArea l (some area) } }

/-- The halt of a logical row processor ends. -/
def unhalt (l : Nat) (s : State) : State :=
  { s.wr Reg.Lrp.HALTED l 0 with rpa := { s.rpa with haltArea := Tbl.erase s.rpa.haltArea l } }

/-- Halts on areas that have become inactive end (R256). -/
def liftHalts (s : State) : State :=
  s.rpa.haltArea.foldl (fun s e => if (e.2.map (areaInactive s)).getD true then unhalt e.1 s else s) s

/-- Drop the outputs of a run and end it. -/
def Proc.endRun (p : Proc) : Proc :=
  { p with run := none, out := [], outP := [], wpush := none, dirty := [], pfx := none, retired := 0 }

/-- The strip of a run that ends by a fault is diverted: its stores stand and its journal applies, and the commands that it was to
report wait for the next row (R34, R250, R256). -/
def dropRun (u : Nat) (r : Run) (s : State) : State :=
  let j := journalOf s u r (s.proc u)
  let s := { s with rpa := { s.rpa with journals := s.rpa.journals ++ [j] } }.setProc u (s.proc u).endRun
  let p := s.prog 5 r.lrp false r.tag.head
  let s := s.setProg 5 r.lrp false r.tag.head { p with lateFor := r.lates ++ p.lateFor }
  landCopies r.lrp (divertAtRpa r.lrp 0x04 r.tag s)

/-- A row processor takes a program fault (R256): the run ends without outputs, the logical row processor halts, and the faulting
strip is diverted; a restoring INIT has no strip. -/
def rpFault (u c : Nat) (s : State) : State :=
  let p := s.proc u
  match p.run with
  | none => s
  | some r =>
    let s := haltLrp r.lrp c (instrAddr s u p p.faultIdx) r.area r.tag s
    if r.restore then s.setProc u p.endRun else dropRun u r s

end Sys2Proof.Machine
end

