-- ==== Sys2Proof/Machine/Instr.lean ====
section
/-!
DEFINITION. What every Zedexa instruction of the S and V classes shares: legality (R230, R278 to R280), the order of faults (R307,
R308), retirement, issue slots (Table 8-4), jumps (R290), and the long-immediate prefix (R279).
-/
namespace Sys2Proof.Machine

/-- Processor u takes program fault c: no other effect of the instruction (R307). -/
def procFault (u c : Nat) (s : State) : State := if isRp u then rpFault u c s else seqFault u c s

/-- Which processors execute an instruction (the Where column of Table 8-6). -/
inductive Where where
  /-- Both. -/
  | both
  /-- Row processors only. -/
  | rp
  /-- Sequencers only. -/
  | sq
  deriving DecidableEq, Repr

/-- The form of an instruction: who executes it, the MOD bits that its entry uses, whether a prefix may precede it
(R279), its own condition on fields, whether it is scalar, and the issue slots it takes (Table 8-4). -/
structure Form where
  /-- Processors that execute it. -/
  wh : Where := .both
  /-- MOD bits used. -/
  mask : Nat := 0
  /-- A PFX may precede it. -/
  pfx : Bool := false
  /-- Condition on its fields. -/
  shape : Bool := true
  /-- S-class. -/
  scalar : Bool := true
  /-- Issue slots. -/
  slots : Nat := 1
  /-- It is a branch that is taken, which takes two issue slots (Table 8-4). -/
  taken : Proc → Bool := fun _ => false

/-- The static conditions of R278, R230, R255 and R279 under which an instruction is legal. -/
def legalWord (u : Nat) (p : Proc) (w : IWord) (f : Form) : Bool :=
  (match f.wh with | .both => true | .rp => isRp u | .sq => !isRp u) &&
    (isRp u || w.pred == 0) && (w.md &&& f.mask == w.md) && (p.pfx.isNone || f.pfx) && f.shape

/-- Issue slots that an instruction takes (Table 8-4). -/
def slotsOf (f : Form) (p : Proc) : Nat := if f.taken p then 2 else f.slots

/-- Count issue slots of a row processor (RPA events 0x40 and 0x41, Table 8-11). -/
def countSlots (u : Nat) (f : Form) (n : Nat) (s : State) : State :=
  if isRp u then s.evt 5 u (if f.scalar then 0x41 else 0x40) n else s

/-- One instruction of processor u. In the order of R308: RUNAWAY, ILLEGAL, then the faults of `body`; under a scalar
predicate that has no bit set the instruction retires without effect (R285). `body` answers the state and the index of
the next instruction. A core whose pair does not hold the control lease executes nothing (R258). -/
def instr (u : Nat) (w : IWord) (f : Form) (body : Nat → Proc → State → Except Nat (State × Nat)) (s : State) : Out :=
  within u 76 <|
    if !mayExecute s u then ok s
    else
      let c := core u
      let p := s.proc c
      if isRp u && decide (s.rd Reg.RpaGlobal.RUNLIMIT 0 ≤ p.retired) then ok (procFault c pfRUNAWAY s)
      else if offEnd s c p || !legalWord c p w f then ok (procFault c pfILLEGAL s)
      else if f.scalar && isRp u && p.preg w.pred == 0 then ok (countSlots c f 1 (retire c (p.pc + 1) s))
      else
        match body c p s with
        | .error e => ok (procFault c e s)
        | .ok (t, pc) => ok (countSlots c f (slotsOf f p) (retire c pc t))

/-- A body that changes the processor's registers alone and goes on to the next instruction. -/
def plain (f : Proc → Proc) (c : Nat) (p : Proc) (s : State) : Except Nat (State × Nat) :=
  .ok (s.setProc c (f p), p.pc + 1)

/-- Instructions in the code that a branch may reach (R290). -/
def codeLimit (s : State) (c : Nat) : Nat := if isRp c then 8192 else s.seq.codeLen

/-- A command branches into the control program, whose indices beyond the command's own its branches reach (R290, R483;
log entry 42). -/
def intoProgram (s : State) (c : Nat) (target : Int) : Bool :=
  !isRp c && (match s.seq.cur with | some (.command _) => decide (0 ≤ target ∧ target < progLen s) | _ => false)

/-- Go to an instruction index, or fault ADDR at the branch when it lies outside the code (R290). -/
def jump (c : Nat) (s : State) (target : Int) : Except Nat (State × Nat) :=
  if 0 ≤ target ∧ target < codeLimit s c then .ok (s, target.toNat)
  else if intoProgram s c target then
    .ok ({ s with seq := { s.seq with base := s.power.load, codeLen := progLen s } }, target.toNat)
  else .error pfADDR

/-- PFX: joins the next instruction with HI (R279). A PFX that another precedes faults ILLEGAL at the first. -/
def execPfx (u : Nat) (w : IWord) (s : State) : Out :=
  within u 76 <|
    if !mayExecute s u then ok s
    else
      let c := core u
      let p := s.proc c
      if isRp u && decide (s.rd Reg.RpaGlobal.RUNLIMIT 0 ≤ p.retired) then ok (procFault c pfRUNAWAY s)
      else if p.pfx.isSome || offEnd s c p then ok (procFault c pfILLEGAL s)
      else ok (s.setProc c { p with pfx := some (p.pc, w.imm.toNat), pc := p.pc + 1 })

end Sys2Proof.Machine
end

