-- ==== Sys2Proof/Machine/Scalar.lean ====
section
/-!
DEFINITION. The meanings of the S-class instructions (R289 to R293, Table 8-6).
-/
namespace Sys2Proof.Machine

/-- A signed 32-bit result, held at the limits when SAT is 1 (R286), else cut to 32 bits. -/
def sat32 (sat : Bool) (x : Int) : BitVec 32 :=
  BitVec.ofInt 32 (if sat then clampI (-(2 ^ 31 : Nat)) ((2 ^ 31 : Nat) - 1) x else x)

/-- An instruction that writes S(D) from S(A) and the second operand. -/
def arith (mask : Nat) (f : IWord → BitVec 32 → BitVec 32 → BitVec 32) (u : Nat) (w : IWord) (s : State) : Out :=
  instr u w { mask := mask } (plain fun p => p.setS w.d (f w (p.sreg w.a) (p.opB w))) s

/-- ADD: d ← a + b. -/
def execAdd (u : Nat) (w : IWord) (s : State) : Out := arith 3 (fun w a b => sat32 (mbit w 1) (a.toInt + b.toInt)) u w s

/-- SUB: d ← a − b. -/
def execSub (u : Nat) (w : IWord) (s : State) : Out := arith 3 (fun w a b => sat32 (mbit w 1) (a.toInt - b.toInt)) u w s

/-- AND. -/
def execAnd (u : Nat) (w : IWord) (s : State) : Out := arith 1 (fun _ a b => a &&& b) u w s

/-- OR. -/
def execOr (u : Nat) (w : IWord) (s : State) : Out := arith 1 (fun _ a b => a ||| b) u w s

/-- XOR. -/
def execXor (u : Nat) (w : IWord) (s : State) : Out := arith 1 (fun _ a b => a ^^^ b) u w s

/-- SHL: a shifted left by b mod 32; with SAT, the signed product a × 2^b held at the limits. -/
def execShl (u : Nat) (w : IWord) (s : State) : Out :=
  arith 3 (fun w a b => sat32 (mbit w 1) (a.toInt * (2 ^ (b.toNat % 32) : Nat))) u w s

/-- SHR: logical right shift by b mod 32. -/
def execShr (u : Nat) (w : IWord) (s : State) : Out := arith 1 (fun _ a b => a >>> (b.toNat % 32)) u w s

/-- SRA: arithmetic right shift by b mod 32. -/
def execSra (u : Nat) (w : IWord) (s : State) : Out := arith 1 (fun _ a b => a.sshiftRight (b.toNat % 32)) u w s

/-- MUL: low 32 bits of a × b. -/
def execMul (u : Nat) (w : IWord) (s : State) : Out := arith 1 (fun _ a b => a * b) u w s

/-- MULH: high 32 bits of the 64-bit product, unsigned when U is 1. -/
def execMulh (u : Nat) (w : IWord) (s : State) : Out :=
  arith 5 (fun w a b =>
    if mbit w 2 then BitVec.ofNat 32 (a.toNat * b.toNat / 2 ^ 32)
    else BitVec.ofInt 32 (a.toInt * b.toInt / (2 ^ 32 : Nat))) u w s

/-- a < b, unsigned when U is 1. -/
def sless (w : IWord) (a b : BitVec 32) : Bool := if mbit w 2 then a.ult b else a.slt b

/-- SLT: 1 when a < b, else 0. -/
def execSlt (u : Nat) (w : IWord) (s : State) : Out := arith 5 (fun w a b => if sless w a b then 1 else 0) u w s

/-- MIN. -/
def execMin (u : Nat) (w : IWord) (s : State) : Out := arith 5 (fun w a b => if sless w b a then b else a) u w s

/-- MAX. -/
def execMax (u : Nat) (w : IWord) (s : State) : Out := arith 5 (fun w a b => if sless w a b then b else a) u w s

/-- LDA: Ad ← IMM zero-extended, or the 48-bit value with a prefix. -/
def execLda (u : Nat) (w : IWord) (s : State) : Out :=
  instr u w { pfx := true, shape := decide (w.d < 8) } (plain fun p => p.setA w.d (p.imm48 w false)) s

/-- ADDA: Ad ← (Aa + b sign-extended) mod 2^48; with a prefix the immediate is the 48-bit value. -/
def execAdda (u : Nat) (w : IWord) (s : State) : Out :=
  instr u w { mask := 1, pfx := true, shape := decide (w.d < 8 ∧ w.a < 8) }
    (plain fun p => p.setA w.d (p.areg w.a + if mbit w 0 then p.imm48 w true else (p.sreg w.b).signExtend 48)) s

/-- MOVSA: d ← Aa[31:0], or Aa[47:32] zero-extended when HI is 1. -/
def execMovsa (u : Nat) (w : IWord) (s : State) : Out :=
  instr u w { mask := 1, shape := decide (w.a < 8) }
    (plain fun p => p.setS w.d (if mbit w 0 then (p.areg w.a >>> 32).setWidth 32 else (p.areg w.a).setWidth 32)) s

/-- MOVAS: Ad ← Sb[15:0] × 2^32 + Sa. -/
def execMovas (u : Nat) (w : IWord) (s : State) : Out :=
  instr u w { shape := decide (w.d < 8) }
    (plain fun p => p.setA w.d (((p.sreg w.b).setWidth 16).setWidth 48 <<< 32 ||| (p.sreg w.a).setWidth 48)) s

/-- Bytes of a load or store: MOD[1:0] 0 byte, 1 halfword, 2 word. -/
def memSize (w : IWord) : Nat := 2 ^ (w.md % 4)

/-- A loaded value: sign-extended when MOD[2] is 1. -/
def extend (w : IWord) (n v : Nat) : BitVec 32 := if mbit w 2 then BitVec.ofInt 32 (signed (8 * n) v) else BitVec.ofNat 32 v

/-- An instruction that reaches memory at an address waits while the secure bank there is being wiped (R451). -/
def waiting (u : Nat) (w : IWord) (s : State) (o : Out) : Out :=
  if secureWait s ((s.proc (core u)).addr w) && !isRp u then ok s else o

/-- A load that would take no fault meets an ECC error in a burst of DRAM: 1 corrected, 2 uncorrectable (R458). -/
def loadEcc (u : Nat) (w : IWord) (n ecc line : Nat) (s : State) : State :=
  let c := core u
  let a := (s.proc c).addr w
  if mayExecute s u && (accessFault s c false a n (min n 64)).isNone then s.eccError (a + 64 * line) ecc else s

/-- LD: load a byte, halfword or word. `ecc` says what the DRAM reads: 0 no error, 1 corrected, 2 uncorrectable. -/
def execLd (u : Nat) (w : IWord) (ecc : Nat) (s : State) : Out :=
  let s := loadEcc u w (memSize w) ecc 0 s
  waiting u w s <|
    instr u w { mask := 7, pfx := true, shape := decide (w.a < 8 ∧ w.md % 4 ≠ 3) }
      (fun c p s =>
        match load s c (p.addr w) (memSize w) (memSize w) with
        | .error f => .error f
        | .ok v => .ok ((s.setProc c (p.setS w.d (extend w (memSize w) v))).traffic false (p.addr w) (memSize w), p.pc + 1)) s

/-- ST: store the low byte, halfword or word of Sb. -/
def execSt (u : Nat) (w : IWord) (s : State) : Out :=
  waiting u w s <|
    instr u w { mask := 3, pfx := true, shape := decide (w.a < 8 ∧ w.md % 4 ≠ 3) }
      (fun c p s =>
        match store s c (p.addr w) (memSize w)
            ((wordBytes (memSize w) ((p.sreg w.b).setWidth 64)).map fun b => (true, b)) with
        | .error f => .error f
        | .ok t => .ok (t, p.pc + 1)) s

/-- KRD: d ← a half of K(A + 32 × MOD[1]). -/
def execKrd (u : Nat) (w : IWord) (s : State) : Out :=
  instr u w { wh := .rp, mask := 3 }
    (plain fun p =>
      let x := p.kreg (w.a + 32 * b2n (mbit w 1))
      p.setS w.d ((if mbit w 0 then x >>> 32 else x).setWidth 32)) s

/-- A conditional branch to PC + IMM. -/
def branch (c : BitVec 32 → BitVec 32 → Bool) (u : Nat) (w : IWord) (s : State) : Out :=
  instr u w { taken := fun p => c (p.sreg w.a) (p.sreg w.b) }
    (fun q p s => if c (p.sreg w.a) (p.sreg w.b) then jump q s (p.pc + immS w) else .ok (s, p.pc + 1)) s

/-- BEQ: when a = b. -/
def execBeq (u : Nat) (w : IWord) (s : State) : Out := branch (fun a b => a == b) u w s

/-- BNE: when a ≠ b. -/
def execBne (u : Nat) (w : IWord) (s : State) : Out := branch (fun a b => a != b) u w s

/-- BLT: when a < b, signed. -/
def execBlt (u : Nat) (w : IWord) (s : State) : Out := branch (fun a b => a.slt b) u w s

/-- BGE: when a ≥ b, signed. -/
def execBge (u : Nat) (w : IWord) (s : State) : Out := branch (fun a b => b.sle a) u w s

/-- BLTU: when a < b, unsigned. -/
def execBltu (u : Nat) (w : IWord) (s : State) : Out := branch (fun a b => a.ult b) u w s

/-- BGEU: when a ≥ b, unsigned. -/
def execBgeu (u : Nat) (w : IWord) (s : State) : Out := branch (fun a b => b.ule a) u w s

/-- JAL: d ← PC + 1; PC ← PC + IMM. -/
def execJal (u : Nat) (w : IWord) (s : State) : Out :=
  instr u w { taken := fun _ => true }
    (fun c p s => jump c (s.setProc c (p.setS w.d (BitVec.ofNat 32 (p.pc + 1)))) (p.pc + immS w)) s

/-- JR: PC ← a. -/
def execJr (u : Nat) (w : IWord) (s : State) : Out :=
  instr u w { taken := fun _ => true } (fun c p s => jump c s (p.sreg w.a).toNat) s

/-- The hop count that EVPOST and EVFIRE give: one more than the handler's activation, 0 from a command or a run
(R585, R589). -/
def hopOf (s : State) (c : Nat) : Nat :=
  if isRp c then 0 else match s.seq.cur with | some (.handler _ h) => (h + 1) % 8 | _ => 0

/-- EVPOST and EVFIRE have no effect in a run whose strip carries REPLAY, nor in the INIT of a restoration (R242). -/
def replaying (p : Proc) : Bool := match p.run with | some r => r.restore || r.tag.flags.testBit fREPLAY | none => false

/-- EVPOST: a token on source 508 + IMM[1:0]. -/
def execEvpost (u : Nat) (w : IWord) (s : State) : Out :=
  instr u w {} (fun c p s => .ok (if replaying p then s else s.emit (508 + immF w 1 0) (hopOf s c), p.pc + 1)) s

/-- EVFIRE: fires channel (a + IMM) mod 128. -/
def execEvfire (u : Nat) (w : IWord) (s : State) : Out :=
  instr u w {}
    (fun c p s => .ok (if replaying p then s else s.fire ((p.sreg w.a + w.imm).toNat % 128) (hopOf s c), p.pc + 1)) s

/-- RDT: a half of the raw counter or of presented time; the low half fills the latch, the high half comes from it or,
while it is empty, from the value at that moment (R291). -/
def execRdt (u : Nat) (w : IWord) (s : State) : Out :=
  instr u w { mask := 3 }
    (fun c p s =>
      let x : Word := BitVec.ofNat 64 (if mbit w 1 then s.pt else s.raw)
      let hi := (x >>> 32).setWidth 32
      let q :=
        if mbit w 0 then p.setS w.d ((if mbit w 1 then p.latPt else p.latRaw).getD hi)
        else if mbit w 1 then { p.setS w.d (x.setWidth 32) with latPt := some hi }
        else { p.setS w.d (x.setWidth 32) with latRaw := some hi }
      .ok (s.setProc c q, p.pc + 1)) s

/-- FENCE: every earlier store of the processor has been written at its destination; in this model a store is written
when it executes, so the condition holds (log entry 8). -/
def execFence (u : Nat) (w : IWord) (s : State) : Out := instr u w {} (plain id) s

/-- The target that XAT names (R292). -/
def xatTarget (w : IWord) (a : BitVec 32) : Target :=
  let n := (a + BitVec.ofNat 32 (immF w 4 0)).toNat
  match immF w 31 30 with
  | 0 => if n ≤ 31 then .head n else .none
  | 1 => if n ≤ 15 then .view n else .none
  | 2 => .heads
  | _ => .views

/-- XAT: sets the apply context (R260, R292). -/
def execXat (u : Nat) (w : IWord) (s : State) : Out :=
  instr u w { wh := .sq, mask := 7, shape := decide (w.md % 4 ≠ 3) }
    (fun _ p s =>
      let x : Xat := { mode := w.md % 4, dir := b2n (mbit w 2),
                       value := (p.sreg w.d).toNat * 2 ^ 32 + (p.sreg w.b).toNat, target := xatTarget w (p.sreg w.a) }
      .ok ({ s with seq := { s.seq with xat := x } }, p.pc + 1)) s

/-- XSTAT: d ← the status word (R293). -/
def execXstat (u : Nat) (w : IWord) (s : State) : Out :=
  instr u w { wh := .sq }
    (fun c p s => .ok (s.setProc c (p.setS w.d (BitVec.ofNat 32 (s.seq.statusIdx % 65536 * 65536 + s.seq.status))),
      p.pc + 1)) s

/-- An XWAIT has to wait: it is legal, and a long operation of the command or handler has not completed (R293). -/
def xwaitWaits (u : Nat) (w : IWord) (s : State) : Bool :=
  !offEnd s (core u) (s.proc (core u)) && legalWord (core u) (s.proc (core u)) w { wh := .sq } && mayExecute s u &&
    (myLongs s).any fun l => l.done.isNone

/-- XWAIT: waits until every long operation of the command or handler has completed, then takes the first status that
is not OK; in a command such a status ends it with the failing operation's index (R293). -/
def execXwait (u : Nat) (w : IWord) (s : State) : Out :=
  if xwaitWaits u w s then
    within u 76 (ok ({ s with seq := { s.seq with xwaits := true } }.setProc (core u)
      { s.proc (core u) with last := (s.proc (core u)).faultIdx }))
  else
    instr u w { wh := .sq }
      (fun _ p s =>
        let s := { s with seq := { s.seq with xwaits := false } }
        match (myLongs s).find? fun l => l.done != some stOK with
        | some l =>
          let st := l.done.getD stOK
          let t := { s with seq := { s.seq with status := st, statusIdx := p.pc } }
          match s.seq.cur with
          | some (.command q) => .ok (if st = stLATE then t else endCommand q st l.idx t, p.pc + 1)
          | _ => .ok (t, p.pc + 1)
        | none => .ok ({ s with seq := { s.seq with status := stOK, statusIdx := p.pc } }, p.pc + 1)) s

/-- NOP. -/
def execNop (u : Nat) (w : IWord) (s : State) : Out := instr u w {} (plain id) s

end Sys2Proof.Machine
end

