-- ==== Sys2Proof/Machine/RowRuns.lean ====
section
/-!
DEFINITION. The row processor array: dispatch of strips, entry of runs, END, program sets, parameter packets and halts
(R168, R231 to R256).
-/
namespace Sys2Proof.Machine

/-! ### Dispatch (R168) -/

/-- The oldest pending strip of a head on a logical row processor: its row and strip. -/
def pendingOn (s : State) (l h : Nat) : Option (EbRow × Nat) :=
  (s.head h).rows.findSome? fun r => (r.todo.find? fun k => s.rd2 Reg.StripMap.LRPOF h k % 64 == l).map fun k => (r, k)

/-- The heads with pending strips on a logical row processor, with TIME of the oldest. -/
def candidates (s : State) (l : Nat) : List (Nat × Nat) :=
  (runningHeads s).filterMap fun h => (pendingOn s l h).map fun r => (h, r.1.tag.time)

/-- Of heads with their times, the lowest TIME, ties to the lower HEAD (the list is in HEAD order). -/
def earliest : List (Nat × Nat) → Option (Nat × Nat)
  | [] => none
  | c :: cs => match earliest cs with
    | some d => if d.2 < c.2 then some d else some c
    | none => some c

/-- The dispatches of a head among a processor's last 256. -/
def dispatches (s : State) (l h : Nat) : Nat := (Tbl.get (fun _ => []) s.rpa.dispatched l).countP (· == h)

/-- The head that a logical row processor serves next, and whether under its share (R168). -/
def nextHead (s : State) (l : Nat) : Option (Nat × Bool) :=
  let cs := candidates s l
  match earliest (cs.filter fun c => decide (dispatches s l c.1 < s.rd Reg.Head.SHARE c.1)) with
  | some c => some (c.1, true)
  | none => (earliest cs).map fun c => (c.1, false)

/-- Take a strip off a row's pending strips. -/
def takeStrip (h lseq k : Nat) (s : State) : State :=
  let e := s.head h
  s.setHead h { e with rows := e.rows.map fun r => if r.tag.lseq = lseq then { r with todo := r.todo.filter (· != k) } else r }

/-- Record a dispatch (R168): HAU passes the strip on and the row processor receives it. -/
def recordDispatch (l h : Nat) (share : Bool) (s : State) : State :=
  let s := (s.evt 2 h 0x02).evt 5 (s.rd Reg.Lrp.PHYS l) 0x01
  let q := (h :: Tbl.get (fun _ => []) s.rpa.dispatched l).take 256
  let s := { s with rpa := { s.rpa with dispatched := Tbl.set (fun _ => []) s.rpa.dispatched l q } }
  if share then (s.sat Reg.Head.SHARECNT h 1).evt 2 h 0x43 else s

/-! ### Entry of a run (R231, R232, R239, R245, R248) -/

/-- The packed payload of a row as one number. -/
def slotPayload (s : State) (h slot : Nat) : Nat := bytesNat (s.readBytes (slotAddr s h slot + 32) (payloadBytes s h))

/-- A sample of a stored row, 0 outside its columns. -/
def rowSample (s : State) (h pay : Nat) (c : Int) (p : Nat) : Nat :=
  let hw := s.rd Reg.Head.HW h
  let d := depthBits s h
  if 0 ≤ c ∧ c < hw then pay / 2 ^ (sampleIndex (s.rd Reg.Head.FMT h) hw c.toNat p * d) % 2 ^ d else 0

/-- A vector from lane values. -/
def vecOf (f : Nat → Nat) : Vec := BitVec.ofNat 8192 (((List.range 512).map fun c => f c % 65536 * 2 ^ (16 * c)).sum)

/-- Valid columns of strip k of a head (Table 7-3). -/
def validCols (s : State) (h k : Nat) : Nat := min (headStripW s h) (s.rd Reg.Head.HW h - k * headStripW s h)

/-- Wk of an assignment for a strip of LSEQ L, and whether its slot holds L − k − 1 (R245). -/
def windowReg (s : State) (u : Nat) (a : Area) (i lseq k : Nat) : Vec × Bool :=
  if a.wdepth ≤ k ∨ lseq < k + 1 then (0, false)
  else
    let adr := winWord u a.wbase a.wdepth i ((lseq - k - 1) % a.wdepth)
    let ok := bits (s.read64 adr) 39 0 == lseq - k - 1
    (if ok then BitVec.ofNat 8192 (bytesNat (s.readBytes (adr - 1024) 1024)) else 0, ok)

/-- The strip context K4 and K5 (Table 7-3). -/
def contextWords (s : State) (r : Run) (wvalid : Nat) : List Word :=
  let h := r.tag.head
  let k := r.tag.strip
  let right := decide ((k + 1) * headStripW s h + 16 ≤ s.rd Reg.Head.HW h)
  [fld r.assign 8 56 ||| fld wvalid 8 48 ||| fld r.lrp 6 42 ||| fld (b2n (k != 0)) 1 41 ||| fld (b2n right) 1 40 |||
     fld (s.rd Reg.Head.DEPTH h) 3 34 ||| fld (s.rd Reg.Head.FMT h) 2 32 ||| fld (s.rd Reg.Head.STRIPW h) 2 30 |||
     fld (s.rd Reg.Head.HW h) 17 0,
   fld (stripsOf s h) 9 10 ||| fld (validCols s h k) 10 0]

/-- The halo of a strip: 16 columns to each side of every plane (R248). -/
def writeHalo (u : Nat) (r : Run) (pay : Nat) (s : State) : State :=
  let h := r.tag.head
  let c0 : Int := r.tag.strip * headStripW s h
  let cols := (List.range 16).map (fun (j : Nat) => c0 - 16 + (j : Int)) ++ (List.range 16).map fun (j : Nat) => c0 + headStripW s h + (j : Int)
  (List.range r.planes).foldl (fun s p =>
    s.setBytes (0x10000000 + u * 0x100000 + 0xFC000 + 0x40 * p)
      (cols.flatMap fun c => wordBytes 2 (BitVec.ofNat 64 (rowSample s h pay c p)))) s

/-- The entry state of a run on its row processor: latches and bins are empty (R291, R297); V registers beyond the planes and P1
to P6 are free values (Table 7-2, log entry 3). -/
def enterRun (u : Nat) (r : Run) (pc : Nat) (pay : Nat) (s : State) : State :=
  let h := r.tag.head
  let a := areaOf s r.area
  let s := writeHalo u r pay s
  let ws := (List.range 8).map fun k => windowReg s u a r.assign r.tag.lseq k
  let wvalid := (ws.zipIdx.map fun w => if w.1.2 then 2 ^ w.2 else 0).sum
  let n := validCols s h r.tag.strip
  let c0 : Int := r.tag.strip * headStripW s h
  let planes := (List.range r.planes).map fun p => vecOf fun c => if c < n then rowSample s h pay (c0 + c) p else 0
  let vs := (List.range 32).map fun k => (k, planes.getD k (Config.freeVec (s.free + k)))
  let ps := (7, BitVec.ofNat 512 (2 ^ n - 1)) :: (List.range 6).map fun k => (k + 1, (Config.freeVec (s.free + 32 + k)).setWidth 512)
  let ks := (r.tag.words ++ contextWords s r wvalid).zipIdx.map (fun w => (w.2, w.1)) ++
    r.ks.zipIdx.map fun w => (w.2 + 8, w.1)
  let p := s.proc u
  let s := { s with free := s.free + 38 }
  s.setProc u { p with
    v := vs.foldl (fun t e => Tbl.set (fun _ => 0) t e.1 e.2) [],
    w := ws.zipIdx.foldl (fun t e => Tbl.set (fun _ => 0) t e.2 e.1.1) [],
    p := ps.foldl (fun t e => Tbl.set (fun _ => 0) t e.1 e.2) [],
    k := ks.foldl (fun t e => Tbl.set (fun _ => 0) t e.1 e.2) [],
    hist := [], latRaw := none, latPt := none, out := [], outP := [], wpush := none, pc := pc, pfx := none, run := some r }

/-- The slot of a row in its elastic buffer. -/
def slotOf (s : State) (h lseq : Nat) : Nat := (((s.head h).rows.find? fun r => r.tag.lseq == lseq).map (·.slot)).getD 0

/-- The assignment index of a strip on a logical row processor. -/
def assignOf (s : State) (l h k : Nat) : Nat :=
  ((s.rpa.assigns.find? fun e => e.1 / 256 == l && e.2 == 1 + 256 * h + k).map fun e => e.1 % 256).getD 0

/-- The run of a strip under an area and entry, as dispatched: K8 to K63 and the copies since the last run are the present ones
(R243, R244). -/
def firstRun (s : State) (l area : Nat) (t : Tag) : Run :=
  { lrp := l, area := area, assign := assignOf s l t.head t.strip, tag := t, stripW := headStripW s t.head, planes := planesOf s t.head,
    ks := headParams s l t.head, copies := landed s l }

/-- A replayed strip runs under the control state of its first run, with REPLAY (R44, R47). -/
def replayRun (s : State) (e : Replay) (area : Nat) : Run :=
  { firstRun s e.lrp area e.tag with ks := e.ks, copies := e.copies, lates := e.lates,
                                     tag := { e.tag with flags := setBit e.tag.flags fREPLAY } }

/-- A run starts: the copies that landed before it are in strip memory, and it enters INIT where its assignment has not yet run under
the area, else ROW (R239, R244). -/
def startRunOf (r : Run) (en : HeadEntry) (s : State) : State :=
  let u := s.rd Reg.Lrp.PHYS r.lrp
  let key := 256 * r.lrp + r.assign
  let fresh := Tbl.get (fun _ => 0) s.rpa.inits (2 * key + r.area) == 0
  let cal := Tbl.get (fun _ => 0) s.rpa.calstep key == 1
  let r := { r with init := fresh, outMask := en.outMask, tag := { r.tag with flags := setBitIf cal r.tag.flags fCALSTEP } }
  let s := writeCopies u r.copies { s with rpa := { s.rpa with calstep := Tbl.erase s.rpa.calstep key } }
  let s := s.setProc u { s.proc u with retired := 0 }
  (enterRun u r (if fresh then en.initOff else en.rowOff) (slotPayload s r.tag.head (slotOf s r.tag.head r.tag.lseq)) s).evt 5 u 0x0A

/-- The slot of a row holds poison (Table 17-3). -/
def slotPoisoned (s : State) (t : Tag) : Bool := s.poisoned (slotAddr s t.head (slotOf s t.head t.lseq)) (32 + payloadBytes s t.head)

/-- What becomes of a strip at dispatch: the area that its epoch selects, with its head's entry; or it is diverted, counted in
NOENTCNT where there is none (R238, R256, Table 17-3). -/
def dispatch (l : Nat) (t : Tag) (s : State) : Except State (Nat × HeadEntry) :=
  match areaFor s t.epoch with
  | none => .error (s.sat Reg.RpaGlobal.NOENTCNT 0 1)
  | some k =>
    match Tbl.get (fun _ => none) (areaOf s k).heads t.head with
    | none => .error (s.sat Reg.RpaGlobal.NOENTCNT 0 1)
    | some en => if Tbl.get (fun _ => none) s.rpa.haltArea l == some k || slotPoisoned s t then .error s else .ok (k, en)

/-- A copy by SMWRITE ahead of the strip could not be read: the processor halts before the strip's run, which is diverted
(R244, R256). -/
def copyFault (l k : Nat) (t : Tag) (s : State) : State :=
  let key := 64 * l + t.head
  let a := (Tbl.get (fun _ => none) s.rpa.smFault key).getD 0
  divertAtRpa l 0x04 t (haltLrp l pfADDR a k t { s with rpa := { s.rpa with smFault := Tbl.erase s.rpa.smFault key } })

/-- A dispatched strip passes its apply-at points and runs, or is diverted with SKIND 0x04 (R31, R238, R239, R244, R256). -/
def runStrip (l : Nat) (t : Tag) (s : State) : State :=
  let s := applyDue rpaEff 5 l false t.head t.lseq t.pos t.epoch s
  match dispatch l t s with
  | .error s => divertAtRpa l 0x04 t s
  | .ok (k, en) =>
    if (Tbl.get (fun _ => none) s.rpa.smFault (64 * l + t.head)).isSome then copyFault l k t s
    else
      let c := takeLates 5 l false t.head s
      let r := { firstRun c.2 l k t with lates := c.1 }
      startRunOf r en { c.2 with rpa := { c.2.rpa with smCopies := Tbl.erase c.2.rpa.smCopies l } }

/-- A strip runs again after a failover: it passes no apply-at point a second time (R44, R47, R252). -/
def runReplay (e : Replay) (s : State) : State :=
  match dispatch e.lrp e.tag s with
  | .error s => divertAtRpa e.lrp 0x04 e.tag s
  | .ok (k, en) => startRunOf (replayRun s e k) en s

/-! ### Restoration of a unit (R252, R532, R535) -/

/-- A planned rotation brings unit u in. -/
def rotatingIn (s : State) (u : Nat) : Bool := s.dep.rotations.any fun r => r.unit == u

/-- The mirror images of both valid areas are copied into unit u's mirror regions (R252, R532). -/
def restoreMirror (u l : Nat) (s : State) : State :=
  [0, 1].foldl (fun s k =>
    if !areaValid s k then s
    else
      let a := areaOf s k
      let base := l * (mirrorLen a + 131072)
      (a.mirror.foldl (fun (q : Nat × State) m =>
        (q.1 + m.2, q.2.setBytes (0x10000000 + u * 0x100000 + m.1) ((List.range m.2).map fun n => s.byte (mirrorAddr a (base + q.1 + n))))) (0, s)).2) s

/-- The last INIT of a failover's restoration has ended: the mirror image is copied and the unit is ACTIVE (Table 17-2). -/
def finishRestore (u l : Nat) (s : State) : State :=
  if s.rd Reg.RpaDep.PSTATE u == 3 && !rotatingIn s u && !(s.dep.restores.any fun e => e.1 == u) then
    (restoreMirror u l s).wr Reg.RpaDep.PSTATE u 0
  else s

/-- A unit in RESTORING runs INIT of an assignment under an area. The strip that INIT sees is the assignment's; what else
its tag, its planes and its halo hold is not stated: free values (R239, log entry 3). -/
def restoreInit (u l i k : Nat) (s : State) : State :=
  let id := Tbl.get (fun _ => 0) s.rpa.assigns (256 * l + i) - 1
  let h := id / 256
  match Tbl.get (fun _ => none) (areaOf s k).heads h with
  | none => s
  | some en =>
    let x := s.fresh
    let v := fun (hi lo : Nat) => (x.1.extractLsb' lo (hi - lo + 1)).toNat
    let t : Tag := { head := h, strip := id % 256, epoch := areaEpoch s k, xset := v 7 0, lseq := v 47 8, pos := signed 64 (v 111 48),
                     time := v 175 112, flags := v 191 176, dlen := v 208 192, spd := signed 23 (v 231 209) }
    let r : Run := { lrp := l, area := k, init := true, assign := i, tag := t, outMask := en.outMask, stripW := headStripW x.2 h,
                     planes := planesOf x.2 h, restore := true, ks := headParams x.2 l h }
    let y := x.2.fresh
    let s := enterRun u r en.initOff 0 (y.2.setProc u { y.2.proc u with retired := 0 })
    let s := s.setBytes (0x10000000 + u * 0x100000 + 0xFC000) ((List.range 256).map fun n => (y.1 >>> (8 * n)).setWidth 8)
    let p := s.proc u
    let vs := (List.range r.planes).foldl (fun t n => Tbl.set (fun _ => 0) t n (Config.freeVec (s.free + n))) p.v
    ({ s with free := s.free + r.planes }.setProc u { p with v := vs }).evt 5 u 0x0A

/-! ### STRIP_RUN -/

/-- Logical row processor l is unbound (R533). -/
def unboundAt (s : State) (l : Nat) : Bool := (s.rd Reg.RpaDep.UNBOUND 0).testBit l

/-- A planned rotation of logical row processor l has restored its incoming unit, so that the outgoing one takes no further strip
(R535, step 2). -/
def rotationReady (s : State) (l : Nat) : Bool :=
  s.dep.rotations.any fun r => r.lrp == l && (s.proc r.unit).run.isNone && !(s.dep.restores.any fun e => e.1 == r.unit)

/-- A logical row processor can take a strip: bound to an ACTIVE unit that holds its activation grant, is idle and copies
no image, its last outputs have left for SST, and no rotation is to hand it over (R237, R239, R532, R535, Table 18-1). -/
def lrpFree (s : State) (l : Nat) : Bool :=
  let u := s.rd Reg.Lrp.PHYS l
  decide (u < 72) && s.rd Reg.RpaDep.PSTATE u == 0 && s.granted 3 u && (s.proc u).run.isNone && s.rpa.copies.all (fun c => c.rp != u) &&
    !rotationReady s l && s.rpa.outbox.all fun o => o.lrp != l

/-- What a logical row processor does with its next strip, a replayed one first (R44, R168). -/
def nextStrip (l : Nat) (again : Replay → State → State) (go : Tag → State → State) (s : State) : State :=
  match s.rpa.replays.find? fun e => e.lrp == l with
  | some e => (again e { s with rpa := { s.rpa with replays := s.rpa.replays.erase e } }).evt 5 (s.rd Reg.Lrp.PHYS l) 0x0B
  | none =>
    match nextHead s l with
    | none => s
    | some (h, share) =>
      match pendingOn s l h with
      | none => s
      | some (r, k) => go { r.tag with strip := k } (recordDispatch l h share (takeStrip h r.tag.lseq k s))

/-- The next strip of a logical row processor is diverted with SKIND 0x04. -/
def divertNext (l : Nat) (s : State) : State := nextStrip l (fun e => divertAtRpa l 0x04 e.tag) (divertAtRpa l 0x04) s

/-- The next INIT that a unit in RESTORING has to run for a logical row processor, its unit idle. -/
def nextRestore (s : State) (l : Nat) : Option (Nat × Nat × Nat) :=
  s.dep.restores.find? fun e => s.rd Reg.RpaDep.LRP e.1 == l && (s.proc e.1).run.isNone && s.rpa.copies.all fun c => c.rp != e.1

/-- A free logical row processor runs its next strip, or waits for journal room (R251). -/
def runNext (l : Nat) (s : State) : State :=
  if !journalRoom s l then
    let was := Tbl.get (fun _ => false) s.rpa.jwait l
    { s with rpa := { s.rpa with jwait := Tbl.set (fun _ => false) s.rpa.jwait l true } }.sat Reg.Lrp.JWAITCNT l (b2n (!was))
  else nextStrip l runReplay (runStrip l) { s with rpa := { s.rpa with jwait := Tbl.erase s.rpa.jwait l } }

/-- STRIP_RUN: the next run of a logical row processor: an INIT that restores its unit, or its next strip, a replayed one
first; an unbound one diverts its next strip with SKIND 0x04 (R44, R168, R239, R251, R532, R533). -/
def execStripRun (l : Nat) (s : State) : Out :=
  within l 64 <|
    let s := liftHalts s
    if unboundAt s l then ok (divertNext l s)
    else match nextRestore s l with
      | some e => ok (restoreInit e.1 l e.2.1 e.2.2 { s with dep := { s.dep with restores := s.dep.restores.erase e } })
      | none =>
        let u := s.rd Reg.Lrp.PHYS l
        if s.rd Reg.RpaDep.PSTATE u = 3 ∧ (s.proc u).run.isNone then ok (finishRestore u l s)
        else if lrpFree s l then ok (runNext l s) else ok s

/-! ### END (R239, R240, R246, R250, R262) -/

/-- Address of the slot of the window that a ROW run writes (R245, R246). -/
def pushAddr (u : Nat) (r : Run) (a : Area) : Nat := winWord u a.wbase a.wdepth r.assign (r.tag.lseq % a.wdepth) - 1024

/-- The mirror lines that a ROW run has dirtied at END, its window slot among them (R246, R250). -/
def pushDirty (s : State) (u : Nat) (r : Run) (p : Proc) : List Nat :=
  let a := areaOf s r.area
  if r.init || a.wdepth == 0 then p.dirty else dirtyAfter s u p (pushAddr u r a) winSlot

/-- Write the window vector of a ROW run (R246). -/
def pushWindow (u : Nat) (r : Run) (p : Proc) (s : State) : State :=
  let a := areaOf s r.area
  if a.wdepth = 0 then s
  else
    let adr := pushAddr u r a
    let x : Vec := match p.wpush with | some k => p.vreg k | none => 0
    let w := match p.wpush with | some _ => BitVec.ofNat 64 r.tag.lseq | none => noLseq
    let s := (s.setBytes adr ((List.range 1024).map fun k => (x >>> (8 * k)).setWidth 8)).write64 (adr + 1024) w
    s.setProc u { s.proc u with dirty := pushDirty s u r p }

/-- The outputs of a ROW run, as SST takes them (R240, R331). -/
def outputs (s : State) (r : Run) (p : Proc) : Strip :=
  { tag := r.tag, lrp := r.lrp, outMask := r.outMask, slots := p.out, valid := p.outP, hold := (p.sreg 31).toNat % 65536,
    k8 := p.kreg 8, k9 := p.kreg 9, cols := validCols s r.tag.head r.tag.strip }

/-- END of a ROW run: the window, the outputs, the journal; the row is processed (R34, R58, R239, R240, R246, R250). -/
def endOfRow (u : Nat) (r : Run) (s : State) : State :=
  let s := pushWindow u r (s.proc u) s
  let p := s.proc u
  let g := gapBefore r.tag s
  let o := { outputs s r p with tag := g.1 }
  let s := { g.2 with rpa := { g.2.rpa with outbox := s.rpa.outbox ++ [o], journals := s.rpa.journals ++ [journalOf s u r p] } }
  let s := recordRow 5 r.lrp false r.tag.head r.tag.lseq r.tag.pos r.tag.epoch r.lates (s.setProc u p.endRun)
  landCopies r.lrp (s.wrap Reg.Lrp.RUNCNT r.lrp 1)

/-- END of a run on row processor u: INIT goes on to ROW, ROW delivers (R239, R240). -/
def endOfRun (u : Nat) (r : Run) (s : State) : State :=
  if r.init then
    let s := { s with rpa := { s.rpa with inits := Tbl.set (fun _ => 0) s.rpa.inits (2 * (256 * r.lrp + r.assign) + r.area) 1 } }
    let off := ((Tbl.get (fun _ => none) (areaOf s r.area).heads r.tag.head).map (·.rowOff)).getD 0
    if r.restore then finishRestore u r.lrp (s.setProc u (s.proc u).endRun)
    else enterRun u { r with init := false } off (slotPayload s r.tag.head (slotOf s r.tag.head r.tag.lseq)) s
  else liftHalts (endOfRow u r s)

/-- END on a sequencer: the command's instructions are over, its status standing, or the handler is (R262, R265). -/
def endOfCode (idx : Nat) (s : State) : State :=
  match s.seq.cur with
  | some (.command q) =>
    let c := (s.seq.log.find? fun c => c.cseq == q).getD {}
    endCommand q c.status (if c.status = stOK then idx else c.idx) s
  | some _ => { s with seq := { s.seq with cur := none } }
  | none => s

/-- The window slot that END writes would take a run past 512 dirty lines of the mirror regions (R251). -/
def endFault (s : State) (c : Nat) (p : Proc) : Bool :=
  match p.run with
  | some r => decide (512 < (pushDirty s c r p).length) && pushDirty s c r p != p.dirty
  | none => false

/-- END: ends a run, command or handler (R239, R262, R265). -/
def execEnd (u : Nat) (w : IWord) (s : State) : Out :=
  instr u w {} (fun c p s => if isRp c && endFault s c p then .error pfMIRRORX else .ok (s, p.pc + 1)) s |> fun o =>
    match o with
    | .next t =>
      let c := core u
      if (t.proc c).retired ≤ (s.proc c).retired then .next t
      else if isRp c && (s.proc c).preg w.pred == 0 then .next t
      else if isRp c then (match (s.proc c).run with | some r => ok (endOfRun c r t) | none => .next t)
      else ok (endOfCode (s.proc c).pc t)
    | o => o

/-! ### X-class operations -/

/-- Bits of the image header at an address (Table 7-6). -/
def imgWord (s : State) (a k : Nat) : Word := s.read64 (a + 8 * k)

/-- Mirror regions that an image declares. -/
def imgMirror (s : State) (a : Nat) : List (Nat × Nat) :=
  ((List.range 8).map fun m => (bits (imgWord s a (4 + m)) 19 0, bits (imgWord s a (4 + m)) 40 20)).filter fun m => m.2 != 0

/-- A head's entry in an image. -/
def imgEntry (s : State) (a h : Nat) : Option HeadEntry :=
  let w := imgWord s a (12 + h)
  if bit w 63 then some { outMask := bits w 55 48, rowOff := bits w 31 16, initOff := bits w 15 0 } else none

/-- Two mirror regions overlap. -/
def regionsMeet (m n : Nat × Nat) : Bool := decide (m.1 < n.1 + n.2 ∧ n.1 < m.1 + m.2)

/-- No two of a list of regions overlap. -/
def apart : List (Nat × Nat) → Bool
  | [] => true
  | m :: ms => !ms.any (regionsMeet m) && apart ms

/-- Shared banks 0 to 63 that RPA may lay mirror images in (R249). -/
def mirrorBanks (s : State) : List Nat :=
  (List.range 64).filter fun b => s.rd Reg.Mem.USE b == 0 && !(s.rd Reg.Mem.ROWSTORE 0).testBit b

/-- Banks that mirror images and journals of an image take. -/
def mirrorNeed (len : Nat) : Nat := cdiv (64 * (len + 131072)) 0x80000

/-- The checks of R236 on an image. -/
def imageOk (s : State) (a : Nat) : Bool :=
  let w0 := imgWord s a 0
  let n := bits w0 39 24
  let ms := imgMirror s a
  let wb := bits (imgWord s a 2) 19 0
  let wd := bits (imgWord s a 2) 23 20
  let len := (ms.map (·.2)).sum
  a % 64 == 0 && extentReads s a (0x200 + 8 * n) && bits w0 15 0 == 0x5A58 && bits w0 23 16 == 1 && inRange n 1 8192 &&
    (crc32c (s.readBytes (a + 0x200) (8 * n))).toNat == bits (imgWord s a 1) 31 0 &&
    ((List.range 32).all fun h => match imgEntry s a h with | some e => decide (e.rowOff < n ∧ e.initOff < n) | none => true) &&
    ((List.range 8).all fun m => bits (imgWord s a (4 + m)) 5 0 == 0 && bits (imgWord s a (4 + m)) 25 20 == 0) &&
    (ms.all fun m => decide (0x20000 ≤ m.1 ∧ m.1 + m.2 ≤ 0xFC000)) &&
    decide (wd ≤ 8) && (wd == 0 || (wb % 64 == 0 && decide (0x20000 ≤ wb ∧ wb < 0xFC000))) &&
    apart ms && decide (len ≤ 262144) && decide (mirrorNeed len ≤ (mirrorBanks s).length)

/-- An area that an RPA.LOAD may replace: inactive now (R237). -/
def freeArea (s : State) : Option Nat := [0, 1].find? (areaInactive s)

/-- RPA.LOAD: checks an image; it forms when a code area is inactive and waits otherwise, with LOADPEND 1 (R236, R237). -/
def execRpaLoad (x : XWord) (s : State) : Out :=
  xop 5 0x01 x (fun a s =>
    if s.seq.xat.mode ≠ 2 ∨ s.seq.xat.target = .none then .no stBOUNDS s
    else if !imageOk s (bits (a.w 0) 47 0) then .no stIMAGE s
    else if (freeArea s).isNone then .hold (s.wr Reg.RpaGlobal.LOADPEND 0 1)
    else .form a.ws s) s

/-- The apply context names heads (R243). -/
def onHeads (s : State) : Bool := match s.seq.xat.target with | .head _ => true | .heads => true | _ => false

/-- RPA.KSET: streams new K8 to K63 values for a head (R243). -/
def execRpaKset (x : XWord) (s : State) : Out :=
  xop 5 0x02 x (fun a s =>
    let n := bits (a.w 0) 13 8
    let f := bits (a.w 0) 5 0
    if !onHeads s || !inRange n 1 56 || decide (f < 8 ∨ 64 < f + n) then .no stBOUNDS s else .form a.ws s) s

/-- RPA.SMWRITE: streams a copy into the data area of strip memories (R244). -/
def execRpaSmwrite (x : XWord) (s : State) : Out :=
  xop 5 0x03 x (fun a s =>
    let src := bits (a.w 0) 47 0
    let n := bits (a.w 1) 36 20
    let o := bits (a.w 1) 19 0
    if !onHeads s || !inRange n 64 65536 || n % 64 != 0 || o % 64 != 0 || decide (o < 0x20000 ∨ 0xFC000 < o + n) ||
        !(decide (src + n ≤ 0x8000000) || decide (dramBase ≤ src ∧ src + n ≤ 2 * dramBase)) then .no stBOUNDS s
    else .form a.ws s) s

/-- RPA.RESUME: ends the halt of a logical row processor (R256). -/
def execRpaResume (x : XWord) (s : State) : Out :=
  direct 5 0x04 64 x (fun a s => .ok (unhalt a.i s)) s

/-- RPA.CFG: sets RUNLIMIT, and RPTO, FAILRESV and CETHR where the payload reaches (R241, R554). -/
def execRpaCfg (x : XWord) (s : State) : Out :=
  xop 5 0x05 x (fun a s =>
    let w := a.w 1
    if bits (a.w 0) 63 32 = 0 ∨ (2 ≤ a.ws.length ∧ (!inRange (bits w 63 48) 1 10000 || decide (8 < bits w 47 44)) = true) then .no stBOUNDS s
    else
      let s := s.wr Reg.RpaGlobal.RUNLIMIT 0 (bits (a.w 0) 63 32)
      .fin stOK (if a.ws.length < 2 then s else s.wrAll 0
        [(Reg.RpaDep.RPTO, bits w 63 48), (Reg.RpaDep.FAILRESV, bits w 47 44), (Reg.RpaDep.CETHR, bits w 39 32)])) s

/-- LOAD_WAIT_RESUME: a waiting RPA.LOAD goes on once a code area is inactive (R237). -/
def execLoadWaitResume (s : State) : Out :=
  match s.seq.wait with
  | some (5, 1, x) =>
    if (freeArea s).isNone then ok s
    else execRpaLoad x ({ s with seq := { s.seq with wait := none } }.wr Reg.RpaGlobal.LOADPEND 0 0)
  | _ => ok s

/-- The shared banks that an image needs for mirror images and journals are allocated and show USE 3 (R249). -/
def allocate (ord addr : Nat) (s : State) : State :=
  let banks := (mirrorBanks s).take (mirrorNeed ((imgMirror s addr).map (·.2)).sum)
  let s := banks.foldl (fun s b => s.wr Reg.Mem.USE b 3) s
  { s with rpa := { s.rpa with alloc := s.rpa.alloc ++ [(ord, banks)] } }

/-- The banks that an RPA.LOAD packet has allocated. -/
def allocated (s : State) (ord : Nat) : List Nat := ((s.rpa.alloc.find? fun e => e.1 == ord).map (·.2)).getD []

/-- The mirror images of an area start as the mirror regions stand (R250). -/
def seedMirror (a : Area) (s : State) : State :=
  if a.mirror.isEmpty then s
  else (List.range 64).foldl (fun s l =>
    applyLines a l (a.mirror.map fun m => (m.1, s.readBytes (0x10000000 + s.rd Reg.Lrp.PHYS l * 0x100000 + m.1) m.2)) s) s

/-- The image in an area is replaced: what RPA keeps of it changes, the banks allocated for it are its own and the old ones free,
INIT is due again, and halts on the old image end (R237, R239, R249, R250, R256). -/
def installArea (c : Copy) (s : State) : State :=
  let s := (areaOf s c.area).banks.foldl (fun s b => s.wr Reg.Mem.USE b 0) s
  let a : Area := { heads := (List.range 32).foldl (fun t h => Tbl.set (fun _ => none) t h (imgEntry s c.addr h)) [],
                    wbase := bits (imgWord s c.addr 2) 19 0, wdepth := bits (imgWord s c.addr 2) 23 20, mirror := imgMirror s c.addr,
                    banks := allocated s c.ord, ord := c.ord, len := bits (imgWord s c.addr 0) 39 24 }
  let s := { s with rpa := { s.rpa with areas := Tbl.set (fun _ => {}) s.rpa.areas c.area a,
                                        inits := s.rpa.inits.filter (fun e => e.1 % 2 != c.area),
                                        alloc := s.rpa.alloc.filter fun e => e.1 != c.ord } }
  let s := (((s.wr2 Reg.RpaGlobal.AVALID 0 c.area 1).wr2 Reg.RpaGlobal.AEPOCH 0 c.area c.epoch).wr2 Reg.RpaGlobal.AIDENT 0 c.area
    (bits (imgWord s c.addr 1) 63 32))
  showSbrows (s.rpa.haltArea.foldl (fun s e => if e.2 == some c.area then unhalt e.1 s else s) (seedMirror a s))

/-- The packet has been applied late at the logical row processor of unit u: rows of its epoch have been processed (R34, R237). -/
def lateCopy (u : Nat) (c : Copy) (s : State) : State :=
  let l := s.rd Reg.RpaDep.LRP u
  if s.rd Reg.Lrp.PHYS l ≠ u then s
  else
    (runningHeads s).foldl (fun s h =>
      let p := s.prog 5 l false h
      if (lrpsOf s h).contains l && p.beyond { mode := 2, value := c.epoch } then
        s.setProg 5 l false h { p with lateFor := p.lateFor ++ [c.cseq] }
      else s) s

/-- CODE_COPY_COMPLETE: row processor u ends its copy of an image, zeros filling the area beyond it (R277); the first to end makes
the area valid from its epoch, and a unit runs nothing while its own copy is under way (R237). -/
def execCodeCopyComplete (u : Nat) (s : State) : Out :=
  within u 72 <|
    match s.rpa.copies.find? fun c => c.rp == u with
    | none => ok s
    | some c =>
      let same := areaValid s c.area && (areaOf s c.area).ord == c.ord
      let s1 := if same then s else installArea c s
      let code := s.readBytes (c.addr + 0x200) (8 * bits (imgWord s c.addr 0) 39 24)
      let s1 := (s1.zeroBytes (0x10000000 + u * 0x100000 + c.area * 0x10000) 0x10000).setBytes (0x10000000 + u * 0x100000 + c.area * 0x10000) code
      let s1 := lateCopy u c s1
      ok ({ s1 with rpa := { s1.rpa with copies := s1.rpa.copies.erase c } }.evt 5 u 0x05)

/-- Clear the counters of a logical row processor. -/
def rpaCntOne (l : Nat) (s : State) : State := s.clr l [Reg.Lrp.RUNCNT, Reg.Lrp.FAULTCNT, Reg.Lrp.JWAITCNT]

end Sys2Proof.Machine
end

