-- ==== Sys2Proof/Machine/Statistics.lean ====
section
/-!
DEFINITION. Statistics blocks and the HOLD counters: what RPA does when SST commits a strip (R217, R218, R331 to R337).
-/
namespace Sys2Proof.Machine

/-- Sample c of a slot. -/
def lane16 (v : Vec) (c : Nat) : Nat := (v >>> (16 * c)).toNat % 65536

/-- The samples of a slot of a run's outputs whose P7 bit was 1 when the slot was written (R331). -/
def slotSamples (o : Strip) (p : Nat) : List Nat :=
  let v := Tbl.get (fun _ => 0) o.slots p
  let q := Tbl.get (fun _ => 0) o.valid p
  if o.outMask.testBit p then ((List.range 512).filter fun c => q.getLsbD c).map (lane16 v) else []

/-- Count, sum, sum of squares, minimum, maximum, samples not below a level, and zeros of a list (R331). -/
def sumsOf (lvl : Nat) (xs : List Nat) : List Nat :=
  [xs.length, xs.sum, (xs.map fun v => v * v).sum, xs.foldl min 65535, xs.foldl max 0, xs.countP (fun v => decide (lvl ≤ v)), xs.countP (· == 0)]

/-- Join two such lists. -/
def joinSums (a b : List Nat) : List Nat :=
  let f := fun k => a.getD k 0
  let g := fun k => b.getD k 0
  [f 0 + g 0, f 1 + g 1, f 2 + g 2, min (f 3) (g 3), max (f 4) (g 4), f 5 + g 5, f 6 + g 6]

/-- FULLLVL, HSHIFT and STATSROWS of K8; LOGN and SRBASE of K9. -/
def k8Full (k : Word) : Nat := bits k 47 32
/-- HSHIFT. -/
def k8Shift (k : Word) : Nat := bits k 23 20
/-- STATSROWS. -/
def k8Rows (k : Word) : Nat := bits k 16 0
/-- LOGN. -/
def k9Log (k : Word) : Nat := bits k 52 48
/-- SRBASE. -/
def k9Base (k : Word) : Nat := bits k 47 0

/-- The run summary of a strip as a block of one row (R331). -/
def summary (o : Strip) : Stats :=
  let m := slotSamples o 3
  { tag := o.tag, rows := 1, lseqLast := o.tag.lseq, yLast := o.tag.pos, hold := o.hold, outMask := o.outMask, cols := o.cols, k8 := o.k8,
    k9 := o.k9, sums := (List.range 3).flatMap fun p => sumsOf (k8Full o.k8) (slotSamples o p),
    masks := (List.range 16).map fun k => m.countP fun v => v.testBit k,
    hist := (List.range 64).map fun b => (slotSamples o 0).countP fun v => min (v / 2 ^ k8Shift o.k8) 63 == b }

/-- Add a row to a block. -/
def addRow (b r : Stats) : Stats :=
  let third := fun (x : Stats) p => (x.sums.drop (7 * p)).take 7
  { b with tag := { b.tag with flags := b.tag.flags ||| r.tag.flags, dlen := min b.tag.dlen r.tag.dlen }, rows := b.rows + 1,
           lseqLast := r.lseqLast, yLast := r.yLast, hold := b.hold ||| r.hold,
           sums := (List.range 3).flatMap fun p => joinSums (third b p) (third r p),
           masks := (List.zip b.masks r.masks).map fun e => e.1 + e.2,
           hist := (List.zip b.hist r.hist).map fun e => e.1 + e.2 }

/-- A row may join a block (R217, R334). -/
def joins (b r : Stats) : Bool :=
  b.tag.xset == r.tag.xset && b.tag.epoch == r.tag.epoch && b.tag.flags.testBit fXUNCONF == r.tag.flags.testBit fXUNCONF &&
    b.k8 == r.k8 && b.k9 == r.k9

/-- The four words of slot p; MIN and MAX over no samples of a declared slot are the free value given (Table 9-8). -/
def sumWords (b : Stats) (free p : Nat) : List Word :=
  let f := fun k => b.sums.getD (7 * p + k) 0
  let no := f 0 == 0
  let mn := if no then (if b.outMask.testBit p then free else 0) else f 3
  let mx := if no then (if b.outMask.testBit p then free / 65536 else 0) else f 4
  [BitVec.ofNat 64 (f 1), BitVec.ofNat 64 (f 2), fld mn 16 48 ||| fld mx 16 32 ||| fld (f 5) 32 0, fld (f 6) 32 32]

/-- Words of a statistics entry (Table 9-8). -/
def statsWords (b : Stats) (dropped free sseq : Nat) : List Word :=
  let pair := fun (xs : List Nat) j => fld (xs.getD (2 * j + 1) 0) 32 32 ||| fld (xs.getD (2 * j) 0) 32 0
  { b.tag with kind := 5 }.words ++
    [fld b.rows 17 47 ||| fld b.lseqLast 40 0, BitVec.ofInt 64 b.yLast,
     fld b.hold 16 48 ||| fld dropped 16 32 ||| fld b.outMask 8 24 ||| fld (k8Shift b.k8) 4 20 ||| fld b.cols 10 0] ++
    ((List.range 3).flatMap (sumWords b free)) ++ (List.range 8).map (pair b.masks) ++ (List.range 32).map (pair b.hist) ++
    [0, 0, 0, 0, fld sseq 32 0]

/-- Replace the block of a (HEAD, STRIP). -/
def setStats (key : Nat) (b : Stats) (s : State) : State :=
  { s with rpa := { s.rpa with stats := Tbl.set (fun _ => {}) s.rpa.stats key b } }

/-- The block of a (HEAD, STRIP) closes: an entry, or a discard when the ring is full (R335, R336). -/
def closeStats (h k : Nat) (s : State) : State :=
  let b := Tbl.get (fun _ => ({} : Stats)) s.rpa.stats (hsKey h k)
  let s1 := setStats (hsKey h k) {} s
  let n := 2 ^ k9Log b.k9
  let swp := s.rd Reg.RpaStat.SWP h
  let ridx := bits (s.read64 (k9Base b.k9 + 512 * n)) 31 0
  let lost := Tbl.get (fun _ => 0) s.rpa.dropped h
  if b.rows = 0 then s
  else if (swp + 2 ^ 32 - ridx) % 2 ^ 32 < n then
    let f := s1.fresh
    let s2 := f.2.put (k9Base b.k9 + 512 * (swp % n)) (wordsBytes (statsWords b lost (f.1.toNat % 2 ^ 32) swp))
    { ((s2.wr Reg.RpaStat.SWP h (swp + 1)).wrap Reg.RpaStat.SBLOCKS h 1) with
        rpa := { s2.rpa with dropped := Tbl.erase s2.rpa.dropped h } }
  else
    { s1.sat Reg.RpaStat.STATSDROP h 1 with
        rpa := { s1.rpa with dropped := Tbl.set (fun _ => 0) s1.rpa.dropped h (min (lost + 1) 65535) } }

/-- Accumulate a committed strip (R217, R333, R334). -/
def addStats (o : Strip) (s : State) : State :=
  let h := o.tag.head
  let k := o.tag.strip
  let r := summary o
  let b := Tbl.get (fun _ => ({} : Stats)) s.rpa.stats (hsKey h k)
  let s := if b.rows ≠ 0 ∧ !joins b r then closeStats h k s else s
  if k8Rows o.k8 = 0 then s
  else
    let b := Tbl.get (fun _ => ({} : Stats)) s.rpa.stats (hsKey h k)
    let b := if b.rows = 0 then r else addRow b r
    let s := setStats (hsKey h k) b s
    if k8Rows o.k8 ≤ b.rows then closeStats h k s else s

/-- HOLD of a committed strip: rises count, HOLDNOW is the OR over the strips (R332). -/
def addHold (o : Strip) (s : State) : State :=
  let h := o.tag.head
  let was := Tbl.get (fun _ => 0) s.rpa.holds (hsKey h o.tag.strip)
  let s := (List.range 16).foldl (fun s k => if o.hold.testBit k && !was.testBit k then s.sat2 Reg.RpaStat.HOLDCNT h k 1 else s) s
  let t : Tbl Nat := Tbl.set (fun _ => 0) s.rpa.holds (hsKey h o.tag.strip) o.hold
  ({ s with rpa := { s.rpa with holds := t } }).wr Reg.RpaStat.HOLDNOW h
    ((List.filter (fun (e : Nat × Nat) => e.1 / 256 == h) t).foldl (fun m (e : Nat × Nat) => m ||| e.2) 0)

/-- Every open block of a head closes (R334). -/
def closeAllStats (h : Nat) (s : State) : State :=
  ((s.rpa.stats.filter fun e => e.1 / 256 == h).map (·.1 % 256)).foldl (fun s k => closeStats h k s) s

end Sys2Proof.Machine
end

