-- ==== Sys2Proof/Machine/Stitch.lean ====
section
/-!
DEFINITION. The seam stitcher: views, strips entering the stitch buffer, view rows, seams, the row store and the exchange
with neighbouring devices (R338 to R361).
-/
namespace Sys2Proof.Machine

/-! ### Geometry of a view's members -/

/-- The web grid of a view. -/
def gridOf (s : State) (v : Nat) : Grid :=
  { ncol := s.rd Reg.View.NCOL v, pitch := s.rd Reg.View.XPITCH v, org := s.rdI Reg.View.XORG v }

/-- C0 to C5 of a head. -/
def coeffs (s : State) (h : Nat) : List Int := (List.range 6).map fun k => s.rdI2 Reg.Geom.C h k

/-- A head's geometry under a seam shift. -/
def geoOf (s : State) (h : Nat) (xs : Int) : Geo :=
  let hw := s.rd Reg.Head.HW h
  { c := coeffs s h, ofs := s.rdI Reg.Geom.GOFS h + xs, hw := hw, first := 0, count := hw }

/-- XS of member m, for m from 0: REMSIG and the offsets of the seams to its left (R349). -/
def shiftOf (s : State) (v m : Nat) : Int :=
  roundAway ((s.rdI Reg.View.REMSIG v + ((List.range m).map fun k => s.rdI2 Reg.Seam.SIGMA v k).sum) * s.rd Reg.View.XPITCH v) 64

/-- Column ranges of a list of heads with their seam shifts. -/
def coversOf (s : State) (v : Nat) (ms : List (Nat × Int)) : List (Nat × Nat) := ms.map fun m => (geoOf s m.1 m.2).cover (gridOf s v)

/-- Column ranges of the members with every shift 0. -/
def covers0 (s : State) (v : Nat) : List (Nat × Nat) := coversOf s v ((membersOf s v).map fun h => (h, 0))

/-- CS and FW of seam k fit the overlap of its members; members that share no column have no overlap to check
(R355; log entry 25). -/
def blendOkAt (s : State) (v k cs fw : Nat) : Bool :=
  let cv := covers0 s v
  let ov := overlap (cv.getD k (0, 0)) (cv.getD (k + 1) (0, 0))
  decide (s.rd Reg.View.NMEM v ≤ k + 1) || ov.2 == 0 || blendFits cs fw ov

/-- The geometry of every member and their coverage pass R346, and the overlaps pass R355. -/
def membersOk (s : State) (v : Nat) : Bool :=
  ((membersOf s v).all fun h => slopeOk (s.rd Reg.Head.HW h) (s.rd Reg.View.XPITCH v) (coeffs s h)) && coverageOk (covers0 s v) &&
    (List.range (s.rd Reg.View.NMEM v - 1)).all fun k => blendOkAt s v k (s.rd2 Reg.Seam.CS v k) (s.rd2 Reg.Seam.FW v k)

/-! ### SST.VIEW and SST.EDGE (R338, R357) -/

/-- Device address of the view blocks. -/
def sstBase : Nat := 0x20060000

/-- MEMBER, VIEW and MIDX of every head follow the views' member lists (Table 10-3). -/
def showMembers (s : State) : State :=
  (List.range 32).foldl (fun t h =>
    match viewOf s h with
    | some v => t.wrAll h [(Reg.Geom.MEMBER, 1), (Reg.Geom.VIEW, v), (Reg.Geom.MIDX, ((membersOf s v).findIdx? (· == h)).getD 0)]
    | none => t.wrAll h [(Reg.Geom.MEMBER, 0), (Reg.Geom.VIEW, 0), (Reg.Geom.MIDX, 0)]) s

/-- XO bits of the view block words 0x00 to 0x40. -/
def viewFields : List Field :=
  [Reg.View.NMEM, Reg.View.NCOL, Reg.View.XPITCH, Reg.View.FILLVAL, Reg.View.XORG, Reg.View.KSEL, Reg.View.SBWEIGHT, Reg.View.EMODE,
   Reg.View.EPOL, Reg.View.ETHR, Reg.View.EIN, Reg.View.XEL, Reg.View.XER]

/-- The view block with a payload written (word k of the payload is word k of the block). -/
def writeView (a : XArgs) (s : State) : State :=
  let s := blockWrite sstBase a a.i 0 viewFields s
  (List.range 32).foldl (fun s k => if 2 + k / 8 < a.ws.length then s.wr2 Reg.View.MEMBERS a.i k (bits (a.w (2 + k / 8)) (8 * (k % 8) + 4) (8 * (k % 8))) else s) s

/-- SST.VIEW: writes a view block: members and web grid (R338). -/
def execSstView (x : XWord) (s : State) : Out :=
  direct 6 0x01 16 x (fun a s =>
    let t := showSbrows (showMembers (writeView a s))
    let ms := membersOf t a.i
    if (membersOf s a.i ++ ms).any s.busyHead then .error stHEADBUSY
    else if 9 < a.ws.length ∨ !inRange (t.rd Reg.View.NCOL a.i) 1 1048576 ∨ t.rd Reg.View.XPITCH a.i = 0 ∨ 32 < t.rd Reg.View.NMEM a.i ∨
        t.rd Reg.View.EMODE a.i = 3 ∨ !ms.Nodup ∨ ms.any (fun h => (List.range 16).any fun u => u != a.i && (membersOf s u).contains h) then
      .error stBOUNDS
    else if ms ≠ [] ∧ (!membersOk t a.i ∨ t.rd Reg.View.SBROWS a.i < 4) then .error stBOUNDS
    else .ok (t.setView a.i {})) s

/-- The boundary member reaches past its device's outermost column by half the feather width (R357; log entry 26). -/
def edgeReach (s : State) (v : Nat) (right : Bool) : Bool :=
  let half : Int := (s.rd2 Reg.Seam.FW v 31 / 2 : Nat)
  let ms := membersOf s v
  let r := gridOf s v
  match if right then ms.getLast? else ms.head? with
  | none => false
  | some h =>
    let e := (geoOf s h 0).reach r
    decide (s.rd Reg.Head.HW h ≠ 0 ∧ r.pitch ≠ 0) && (if right then decide ((r.ncol : Int) - 1 + half ≤ e.2) else decide (e.1 ≤ -half))

/-- SST.EDGE: enables the cross-device edge exchange of a view (R357). -/
def execSstEdge (x : XWord) (s : State) : Out :=
  blockOp 6 0x05 16 x (sstBase + 0x48) 1 [Reg.View.REMOTEL, Reg.View.REMOTER, Reg.View.EXW, Reg.View.XLAG, Reg.View.EDGETO]
    (fun _ _ => none)
    (fun val a s => inRange (val Reg.View.EXW) 32 1024 && inRange (val Reg.View.XLAG) 2 64 && inRange (val Reg.View.EDGETO) 1 1000000 &&
      (val Reg.View.REMOTEL == 0 || edgeReach s a.i false) && (val Reg.View.REMOTER == 0 || edgeReach s a.i true))
    (fun _ _ s => showSbrows s) s

/-! ### Streamed operations (R346, R353, R355) -/

/-- The apply context names views, and those of them that a check concerns. -/
def viewTargets (s : State) : Option (List Nat) :=
  match s.seq.xat.target with
  | .view v => some [v]
  | .views => some (openViews s)
  | _ => none

/-- A head's geometry with new coefficients passes R346 at XS 0 and ±512 × XPITCH ÷ 64; a head in no view has no grid and
is checked for monotonicity alone. -/
def geomOk (s : State) (h : Nat) (c : List Int) (gofs : Int) : Bool :=
  let hw := s.rd Reg.Head.HW h
  match viewOf s h with
  | none => monotonic hw c
  | some v =>
    let p := s.rd Reg.View.XPITCH v
    monotonic hw c && slopeOk hw p c && [0, 8 * (p : Int), -(8 * (p : Int))].all fun d =>
      coverageOk ((membersOf s v).map fun m =>
        if m = h then Geo.cover { c := c, ofs := gofs + d, hw := hw, first := 0, count := hw } (gridOf s v) else (geoOf s m 0).cover (gridOf s v))

/-- SST.GEOM: streams a head's geometry polynomial and offset (R346). -/
def execSstGeom (x : XWord) (s : State) : Out :=
  xop 6 0x02 x (fun a s =>
    match s.seq.xat.target with
    | .head h => if geomOk s h ((List.range 6).map fun k => (a.w k).toInt) (signed 32 (bits (a.w 6) 31 0)) then .form a.ws s else .no stBOUNDS s
    | _ => .no stBOUNDS s) s

/-- Within −512 to 512. -/
def sigmaRange (x : Int) : Bool := decide (-512 ≤ x ∧ x ≤ 512)

/-- The checks of SST.SEAM on its payload (R353, R69). -/
def seamOk (w0 w1 w2 : Word) : Bool :=
  let smin := signed 16 (bits w1 47 32)
  let smax := signed 16 (bits w1 31 16)
  decide (bits w0 7 0 < 32) && decide (bits w1 63 62 < 3) && decide (smin ≤ smax) && sigmaRange smin && sigmaRange smax &&
    sigmaRange (signed 16 (bits w2 63 48)) && !(bits w1 63 62 == 1 && bits w1 15 0 == 0) && decide (bits w1 15 0 ≤ 512) &&
    inRange (bits w2 47 39) 1 256

/-- SST.SEAM: streams a seam's mode, bounds and reset (R353). -/
def execSstSeam (x : XWord) (s : State) : Out :=
  xop 6 0x03 x (fun a s =>
    if (viewTargets s).isNone || !seamOk (a.w 0) (a.w 1) (a.w 2) then .no stBOUNDS s else .form a.ws s) s

/-- SST.BLEND: streams a seam's centre and feather width, or with seam 0xFF the edge masking (R355, R356). -/
def execSstBlend (x : XWord) (s : State) : Out :=
  xop 6 0x04 x (fun a s =>
    let k := bits (a.w 0) 7 0
    let fw := bits (a.w 1) 47 32
    let cs := bits (a.w 1) 20 0
    match viewTargets s with
    | none => .no stBOUNDS s
    | some vs =>
      if k = 0xFF then (if bits (a.w 1) 63 62 = 3 then .no stBOUNDS s else .form a.ws s)
      else if 31 < k ∨ 4096 < fw ∨ fw % 2 = 1 ∨ !vs.all (fun v => blendOkAt s v k cs fw) then .no stBOUNDS s
      else .form a.ws s) s

/-- σ and HELD of a seam; the transition from free to held counts (R67, R352). -/
def setSigma (v k : Nat) (sigma : Int) (held : Bool) (s : State) : State :=
  let was := s.rd2 Reg.Seam.HELD v k != 0
  let s := (s.wr2 Reg.Seam.SIGMA v k (low 16 sigma)).wr2 Reg.Seam.HELD v k (b2n held)
  if held && !was then s.sat2 Reg.Seam.SBCNT v k 1 else s

/-- SST.SEAM at its apply-at row (R352, R353; log entry 27). -/
def applySeam (v : Nat) (w0 w1 w2 : Word) (s : State) : State :=
  let k := bits w0 7 0
  let mode := bits w1 63 62
  let s := (((s.wr2 Reg.Seam.SMODE v k mode).wr2 Reg.Seam.SMIN v k (bits w1 47 32)).wr2 Reg.Seam.SMAX v k (bits w1 31 16)).wr2 Reg.Seam.SLEW v k (bits w1 15 0)
  let s := ((s.wr2 Reg.Seam.SPIN v k (bits w2 63 48)).wr2 Reg.Seam.GAIN v k (bits w2 47 39)).wr2 Reg.Seam.CMIN v k (bits w2 38 31)
  let spin := s.rdI2 Reg.Seam.SPIN v k
  let reset := bit w0 8
  let sigma := if reset then spin else s.rdI2 Reg.Seam.SIGMA v k
  let held := !reset && s.rd2 Reg.Seam.HELD v k != 0
  let kept := clampI (s.rdI2 Reg.Seam.SMIN v k) (s.rdI2 Reg.Seam.SMAX v k) sigma
  match mode with
  | 1 => setSigma v k kept (held || kept != sigma) s
  | 2 => setSigma v k spin false s
  | _ => setSigma v k sigma false s

/-- What SST does when it applies a packet. -/
def sstEff (e : Held) (s : State) : State :=
  let w := fun k => e.pkt.words.getD k 0
  let i := e.pkt.stream
  match e.pkt.op with
  | 2 => ((List.range 6).foldl (fun s k => s.wr2 Reg.Geom.C i k (w k).toNat) s).wr Reg.Geom.GOFS i (bits (w 6) 31 0)
  | 3 => applySeam i (w 0) (w 1) (w 2) s
  | 4 =>
    if bits (w 0) 7 0 = 0xFF then
      s.wrAll i [(Reg.View.EMODE, bits (w 1) 63 62), (Reg.View.EPOL, bits (w 1) 61 61), (Reg.View.ETHR, bits (w 1) 47 32),
        (Reg.View.EIN, bits (w 1) 15 0), (Reg.View.XEL, bits (w 2) 63 32), (Reg.View.XER, bits (w 2) 31 0)]
    else (s.wr2 Reg.Seam.FW i (bits (w 0) 7 0) (bits (w 1) 47 32)).wr2 Reg.Seam.CS i (bits (w 0) 7 0) (bits (w 1) 20 0)
  | _ => s

/-! ### The row store (R43, R427, R450) -/

/-- Running overview streams that select a source and still take rows (R427, R441). -/
def streamsOf (s : State) (vs : Bool) (src : Nat) : List Nat :=
  (List.range 8).filter fun k => s.on Reg.Stream.RUNNING k && !s.on Reg.Stream.STOPPING k && (s.rd Reg.Stream.SRCT k == 0) == vs &&
    s.rd Reg.Stream.SRC k == src

/-- Bytes of the row store. -/
def storeBytes (s : State) : Nat := 0x80000 * popcount (s.word (Reg.Mem.ROWSTORE.word 0 0))

/-- Bytes in use. -/
def storeUsed (s : State) : Nat := (s.store.map (·.size)).sum

/-- Bytes that a row takes: 32 of tag, and 2 for each sample (log entry 28). -/
def rowSize (width slots : Nat) : Nat := 32 + 2 * width * slots

/-- Append an item for its consumers; an item that none consumes is dropped. -/
def putItem (i : StoreItem) (s : State) : State := if i.need.isEmpty then s else { s with store := s.store ++ [i] }

/-- Consumers of a view's items: RTK and the streams that select it. -/
def viewReaders (s : State) (v : Nat) : List Nat := 8 :: streamsOf s true v

/-- The first item that a consumer has still to take, of the sources that a test admits. -/
def nextItem (s : State) (c : Nat) (q : StoreItem → Bool) : Option StoreItem := s.store.find? fun i => i.need.contains c && q i

/-- Take a consumer off the first item that it has still to take. -/
def commitFirst (c : Nat) (q : StoreItem → Bool) : List StoreItem → List StoreItem
  | [] => []
  | i :: is =>
    if i.need.contains c && q i then
      let n := i.need.filter (· != c)
      if n.isEmpty then is else { i with need := n } :: is
    else i :: commitFirst c q is

/-- A consumer commits its next item (R43). -/
def commitItem (c : Nat) (q : StoreItem → Bool) (s : State) : State := { s with store := commitFirst c q s.store }

/-! ### View gaps, passing rows and opening (R342, R343) -/

/-- Send the view GAP packet of the run under way. -/
def flushViewGap (v : Nat) (s : State) : State :=
  let e := s.view v
  match e.gap with
  | none => s
  | some g =>
    let s := stageGap sstEff 6 0 true v g.lseq g.rows s
    let p : GapPkt := { stage := 7, vs := true, stream := v, lseq := g.lseq, pos := g.pos, time := g.time, skind := g.skind,
                        count := g.count, rows := g.rows }
    putItem { kind := .gap p, src := v, need := viewReaders s v } (s.setView v { s.view v with gap := none, gapBefore := true })

/-- A view row that no member delivered joins the run of missing rows (R342). -/
def missViewRow (v : Nat) (r : PendRow) (s : State) : State :=
  let g : MemGap := ((membersOf s v).findSome? fun h => (r.mems.find? fun m => m.head == h).bind (·.gap)).getD {}
  let ep := match r.mems.filterMap (·.gap) with
    | [] => 0
    | m :: ms => ms.foldl (fun a b => if epochLater a b.epoch then b.epoch else a) m.epoch
  let joined := match (s.view v).gap with
    | some q => q.skind == g.skind && r.n == (q.lseq + q.count) % 2 ^ 40
    | none => false
  let s := if joined then s else flushViewGap v s
  let e := s.view v
  let q : GapRun := match e.gap with
    | some q => { q with count := q.count + 1, rows := q.rows ++ [(g.pos, ep)] }
    | none => { lseq := r.n, pos := g.pos, time := s.pt, skind := g.skind, count := 1, rows := [(g.pos, ep)] }
  (s.setView v { e with gap := some q }).sat Reg.View.VGAPCNT v 1

/-- A member's part is settled: every strip accepted, or covered by a GAP packet (R342). -/
def MemRow.settled (s : State) (m : MemRow) : Bool := m.gap.isSome || decide (stripsOf s m.head ≤ m.strips.length)

/-- Every member's part of a row is settled. -/
def PendRow.settled (s : State) (r : PendRow) : Bool := r.mems.all (MemRow.settled s)

/-- Tag of a member's row: of its first strip, STRIP 0, FLAGS of every strip (R27). -/
def MemRow.tag (m : MemRow) : Tag :=
  { ((m.strips.head?.map (·.tag)).getD {}) with strip := 0, flags := m.strips.foldl (fun f o => f ||| o.tag.flags) 0 }

/-- SST passes a member's part in its head's stream: a row that it processes, or a gap (R31, R33, R346). -/
def passMember (s : State) (m : MemRow) : State :=
  match m.gap with
  | some g => stageGap sstEff 6 0 false m.head m.lseq [(g.pos, g.epoch)] s
  | none => stageRow sstEff 6 0 false m.head m.lseq m.tag.pos m.tag.epoch s

/-- Drop the oldest pending row of a view. -/
def dropRow (v : Nat) (s : State) : State := s.setView v { s.view v with rows := (s.view v).rows.drop 1 }

/-- A view opens at a row (R342, R343). -/
def openView (v : Nat) (r : PendRow) (s : State) : State :=
  let ep := (r.mems.head?.map (·.tag.epoch)).getD 0
  let s := [6, 7, 8, 9].foldl (fun s u => stageStart u 0 true v ep s) s
  (s.setView v { s.view v with gapBefore := true, first := true, epoch := ep }).wrAll v [(Reg.View.OPEN, 1), (Reg.View.OPENLSEQ, r.n)]

/-- A view can open at a row: every member of the view ran at the trigger and has delivered its row, and none has begun
to stop (R342). -/
def canOpen (s : State) (v : Nat) (r : PendRow) : Bool :=
  !r.dead && (membersOf s v).all fun h => r.mems.any fun m => m.head == h && m.gap.isNone

/-- Settle the oldest pending rows of a view: open it, pass rows over while it is not open, and send for rows that no
member delivered; a row to be formed stays (R342, R343). -/
def settleView : Nat → Nat → State → State
  | 0, _, s => s
  | n + 1, v, s =>
    match (s.view v).rows with
    | [] => s
    | r :: _ =>
      if !PendRow.settled s r then s
      else if s.viewOpen v then
        (if r.mems.any (·.gap.isNone) then s
         else settleView n v (dropRow v (missViewRow v r (r.mems.foldl passMember s))))
      else if canOpen s v r then openView v r s
      else settleView n v ((dropRow v (r.mems.foldl passMember s)).sat Reg.View.NOTOPENCNT v (r.mems.countP (·.gap.isNone)))

/-- Columns of a head row from its strips: each slot's samples over HW columns (R427). -/
def headSlots (s : State) (h : Nat) (os : List Strip) : Tbl (List Nat) :=
  let w := headStripW s h
  let mask := os.foldl (fun m o => m ||| o.outMask) 0
  (List.range 8).foldl (fun t p =>
    if mask.testBit p then
      Tbl.set (fun _ => []) t p ((List.range (s.rd Reg.Head.HW h)).map fun c =>
        match os.find? fun o => o.tag.strip == c / w with
        | some o => if o.outMask.testBit p then lane16 (Tbl.get (fun _ => 0) o.slots p) (c % w) else 0
        | none => 0)
    else t) []

/-- Slots that the strips of a row declare. -/
def maskOf (os : List Strip) : Nat := os.foldl (fun m o => m ||| o.outMask) 0

/-- The offset of REMSIG: σ31 of the left device for row n − XLAG, when it has arrived (R358, R359). -/
def takeRemsig (v n : Nat) (s : State) : State :=
  if !s.on Reg.View.REMOTEL v then s
  else match (s.view v).sigs.find? fun e => e.1 == (n + 2 ^ 40 - s.rd Reg.View.XLAG v) % 2 ^ 40 with
    | some e => s.wr Reg.View.REMSIG v (low 32 e.2)
    | none => s.sat Reg.View.SIGMISS v 1

/-- The epoch that is earliest among those given (R37, R344). -/
def earliestEpoch : List Nat → Nat
  | [] => 0
  | [e] => e
  | e :: es => let f := earliestEpoch es; if epochLater e f then f else e

/-- Tag of a view row (R344). -/
def viewTag (v : Nat) (r : PendRow) (lead : Tag) (ts : List Tag) : Tag :=
  { head := v, xset := 0, epoch := earliestEpoch (ts.map (·.epoch)), lseq := r.n, pos := lead.pos, time := lead.time, spd := lead.spd,
    strip := 0, dlen := ts.foldl (fun d t => min d t.dlen) lead.dlen, flags := ts.foldl (fun f t => f ||| t.flags) 0 }

/-- The view's CUT packets precede the first row of each new epoch (R38, R344). -/
def sendViewCuts (v ep : Nat) (s : State) : State :=
  let was := (s.view v).epoch
  let cs := s.cuts.filter fun c => epochLater c.epoch was && !epochLater c.epoch ep
  { (s.setView v { s.view v with epoch := ep }) with
      cutPkts := s.cutPkts ++ cs.map fun c => ({ stage := 7, vs := true, stream := v, cut := c } : CutPkt) }

/-- A seam of the view is held (R352). -/
def anyHeld (s : State) (v : Nat) : Bool :=
  ((List.range (s.rd Reg.View.NMEM v - 1)).any fun k => s.rd2 Reg.Seam.HELD v k != 0) ||
    (s.on Reg.View.REMOTER v && s.rd2 Reg.Seam.HELD v 31 != 0)

/-- XS of every member is shown (Table 10-3). -/
def showShifts (v : Nat) (s : State) : State :=
  (membersOf s v).zipIdx.foldl (fun t m => t.wrI Reg.Geom.XS m.1 (shiftOf s v m.2)) s

/-- What precedes a view row, and its tag: the view GAP packet under way, the CUT packets of new epochs, the packets whose point it
is, REMSIG and the shifts (R33, R34, R344, R349, R352). `keep` says that the row is processed; else it is diverted, and only passes
its points. -/
def beginRow (v : Nat) (r : PendRow) (keep : Bool) (s : State) : State × Tag :=
  let s := flushViewGap v s
  let ms := membersOf s v
  let here := r.mems.filter (·.gap.isNone)
  let ts := here.map MemRow.tag
  let lead := ((ms.findSome? fun h => here.find? fun m => m.head == h).map MemRow.tag).getD {}
  let tag := viewTag v r lead ts
  let e := s.view v
  let follows := here.any fun m => e.after.contains m.head
  let gaps := (r.mems.filter (·.gap.isSome)).map (·.head)
  let after := (e.after.filter fun h => !here.any fun m => m.head == h) ++ gaps.filter fun h => !e.after.contains h
  let tag := { tag with flags := setBitIf (e.gapBefore || follows) tag.flags fGAPBEFORE }
  let s := sendViewCuts v tag.epoch (s.setView v { e with gapBefore := false, after := after })
  let s := (if keep then stageRow else stageDivert) sstEff 6 0 true v r.n tag.pos tag.epoch (r.mems.foldl passMember s)
  let s := showShifts v (takeRemsig v r.n s)
  let held := anyHeld s v
  (if held then s.evt 6 v 0x40 else s, { tag with flags := setBitIf held tag.flags fSEAMBOUND })

/-! ### The exchange with the neighbours (R357, R515) -/

/-- The view row to be formed next: the oldest pending one of an open view, once settled. -/
def rowToForm (s : State) (v : Nat) : Option PendRow :=
  match (s.view v).rows with
  | r :: _ => if s.viewOpen v && PendRow.settled s r then some r else none
  | [] => none

/-- First of the EXW head columns of a member that lie nearest a boundary: its columns run towards either side of the web. -/
def edgeFirst (g : Geo) (w : Nat) (right : Bool) : Nat :=
  if decide (g.x 0 ≤ g.x (1024 * (g.hw - 1))) == right then g.hw - w else 0

/-- What a view row sends towards a side: LSEQ, FLAGS and geometry of its boundary member, that member's slots in the columns
nearest the boundary before resampling, and towards the right σ31. Without a row of that member there is nothing to send (log
entry 158). `t` is the state in which the row will be formed. -/
def edgeOut (t : State) (v : Nat) (r : PendRow) (tag : Tag) (right : Bool) : Option EdgeRow :=
  let m := if right then t.rd Reg.View.NMEM v - 1 else 0
  let h := (membersOf t v).getD m 0
  match r.mems.find? fun q => q.head == h && q.gap.isNone with
  | none => none
  | some q =>
    let xs := shiftOf t v m
    let g := geoOf t h xs
    let w := min (t.rd Reg.View.EXW v) g.hw
    let col := edgeFirst g w right
    some { n := r.n, flags := tag.flags, sigma := if right then t.rdI2 Reg.Seam.SIGMA v 31 else 0, geo := coeffs t h,
           gofs := t.rdI Reg.Geom.GOFS h, xs := xs, hw := g.hw, col := col, cs := if right then (t.rd2 Reg.Seam.CS v 31 : Nat) else 0,
           fw := if right then t.rd2 Reg.Seam.FW v 31 else 0, slots := (headSlots t h q.strips).map fun e => (e.1, (e.2.drop col).take w) }

/-- The exchange of a row towards one side: one EDGE packet for each 2,048 bytes of header and columns (R357, R515, Table 16-1; log
entry 33). -/
def sendEdge (v n : Nat) (right : Bool) (e : Option EdgeRow) (s : State) : State :=
  match e with
  | none => s
  | some e =>
    let bytes := 64 + 2 * (e.slots.map (·.2.length)).sum
    s.sendTo n (.edge v right e) (cdiv bytes 2048)

/-- Once a view row can be formed, its exchange goes to the neighbours, which wait for it (R357, R359). -/
def sendEdges (v : Nat) (s : State) : State :=
  match rowToForm s v with
  | none => s
  | some r =>
    if (s.view v).told = some r.n then s
    else
      let t := beginRow v r true s
      let s := s.setView v { s.view v with told := some r.n }
      let s := if s.on Reg.View.REMOTEL v then sendEdge v (s.rd Reg.WlkEdge.LNODE v) false (edgeOut t.1 v r t.2 false) s else s
      if s.on Reg.View.REMOTER v then sendEdge v (s.rd Reg.WlkEdge.RNODE v) true (edgeOut t.1 v r t.2 true) s else s

/-- The same for as many rows as pend; the row that can then be formed tells the neighbours. -/
def settleRows (v : Nat) (s : State) : State := sendEdges v (settleView ((s.view v).rows.length + 1) v s)

/-! ### STRIP_ACCEPT (R45, R339, R360) -/

/-- Strips of a head row gathered for a head-domain row. -/
def gathered (s : State) (h lseq : Nat) : List Strip := (Tbl.get (fun _ => []) s.strips h).filter fun o => o.tag.lseq == lseq

/-- The strip would complete a head-domain row for which the row store has no room (R427). -/
def headRowWaits (s : State) (o : Strip) : Bool :=
  let h := o.tag.head
  let os := gathered s h o.tag.lseq ++ [o]
  !(streamsOf s false h).isEmpty && decide (stripsOf s h ≤ os.length) &&
    decide (storeBytes s < storeUsed s + rowSize (s.rd Reg.Head.HW h) (popcount (BitVec.ofNat 64 (maskOf os))))

/-- A committed strip of a head that a running stream selects is gathered; the last one completes the head-domain row
(R427). -/
def gatherHead (o : Strip) (s : State) : State :=
  let h := o.tag.head
  let rs := streamsOf s false h
  if rs.isEmpty then s
  else
    let os := gathered s h o.tag.lseq ++ [o]
    if os.length < stripsOf s h then { s with strips := Tbl.set (fun _ => []) s.strips h (Tbl.get (fun _ => []) s.strips h ++ [o]) }
    else
      let m : MemRow := { head := h, lseq := o.tag.lseq, strips := os }
      let s := { s with strips := Tbl.set (fun _ => []) s.strips h ((Tbl.get (fun _ => []) s.strips h).filter fun p => p.tag.lseq != o.tag.lseq) }
      putItem { vs := false, src := h, tag := m.tag, slots := headSlots s h os,
                size := rowSize (s.rd Reg.Head.HW h) (popcount (BitVec.ofNat 64 (maskOf os))), need := rs } s

/-- The strip's view row is among the SBROWS oldest not yet formed, or it belongs to none (R360). -/
def sstRoom (s : State) (o : Strip) : Bool :=
  match viewOf s o.tag.head with
  | none => true
  | some v =>
    match (s.view v).rows.findIdx? fun r => r.mems.any fun m => m.head == o.tag.head && m.lseq == o.tag.lseq with
    | some k => decide (k < s.rd Reg.View.SBROWS v)
    | none => true

/-- SST takes a strip now: its view row is among the oldest, and a head-domain row that it completes has room (R360, R427). -/
def sstTakes (s : State) (o : Strip) : Bool := sstRoom s o && !headRowWaits s o

/-- A strip that SST does not take has met a full queue once (PMU event 0x04, R271). -/
def markWaited (o : Strip) (os : List Strip) (s : State) : State :=
  if o.waited then s
  else { s with rpa := { s.rpa with outbox := { o with waited := true } :: os } }.evt 5 (s.rd Reg.Lrp.PHYS o.lrp) 0x04

/-- A strip enters the stitch buffer: into the part of its view row, or, for a head in no view, only into its head's
stream (R339, R360). -/
def intoView (o : Strip) (s : State) : State :=
  let h := o.tag.head
  match viewOf s h with
  | none => stageRow sstEff 6 0 false h o.tag.lseq o.tag.pos o.tag.epoch s
  | some v =>
    let e := s.view v
    let put := fun (m : MemRow) => if m.head = h ∧ m.lseq = o.tag.lseq ∧ m.gap.isNone then { m with strips := m.strips ++ [o] } else m
    settleRows v (s.setView v { e with rows := e.rows.map fun r => { r with mems := r.mems.map put } })

/-- SST writes the commit record of a strip (R43): its journal is released, its elastic-buffer slot is freed, its run
summary is accumulated, and a pending rotation of its processor may hand over. -/
def commitStrip (o : Strip) (s : State) : State :=
  let h := o.tag.head
  let s := { s with commits := Tbl.set (fun _ => []) s.commits h (((o.tag.lseq, o.tag.strip) :: Tbl.get (fun _ => []) s.commits h).take 256) }
  let s := addHold o (addStats o (closeStrip h o.tag.lseq o.tag.strip (settleStrip o.lrp o.tag s)))
  (gatherHead o (intoView o s)).evt 6 h 0x01

/-- Take the oldest waiting output of a logical row processor. -/
def takeOut (l : Nat) : List Strip → Option (Strip × List Strip)
  | [] => none
  | o :: os => if o.lrp = l then some (o, os) else (takeOut l os).map fun r => (r.1, o :: r.2)

/-- SST accepts the strip that logical row processor l holds out, discards a duplicate, or has no room yet (R45, R360). -/
def stripAccept (l : Nat) (s : State) : State :=
  match takeOut l s.rpa.outbox with
  | none => s
  | some (o, os) =>
    let s1 := { s with rpa := { s.rpa with outbox := os } }
    if o.tag.flags.testBit fREPLAY && (Tbl.get (fun _ => []) s.commits o.tag.head).contains (o.tag.lseq, o.tag.strip) then
      settleStrip o.lrp o.tag (s1.evt 6 o.tag.head 0x07)
    else if !sstTakes s o then markWaited o os s
    else commitStrip o (s1.evt 5 (s.rd Reg.Lrp.PHYS o.lrp) 0x02)

/-! ### Forming a view row (R344 to R356) -/

/-- One side of the stitch: geometry, covered columns, head columns of each covered grid column, and samples per declared
slot; absent when no row was delivered. -/
structure Side where
  /-- Geometry. -/
  geo : Geo
  /-- Covered columns: first and number. -/
  cov : Nat × Nat
  /-- Head columns of the covered grid columns, in 1/1,024. -/
  us : List Nat
  /-- Declared slots. -/
  slots : Tbl (List Nat)
  /-- A row was delivered. -/
  there : Bool

/-- A side from its geometry and samples. -/
def mkSide (r : Grid) (g : Geo) (slots : Tbl (List Nat)) (there : Bool) : Side :=
  let c := g.cover r
  { geo := g, cov := c, us := (List.range c.2).map fun k => g.solve r (c.1 + k), slots := slots, there := there }

/-- The side of a member (absent when its row is missing). -/
def memberSide (s : State) (v : Nat) (r : PendRow) (hm : Nat × Nat) : Side :=
  let g := geoOf s hm.1 (shiftOf s v hm.2)
  match r.mems.find? fun m => m.head == hm.1 with
  | some m => mkSide (gridOf s v) g (headSlots s hm.1 m.strips) m.gap.isNone
  | none => mkSide (gridOf s v) g [] false

/-- The side of an exchange. -/
def edgeSide (r : Grid) (e : EdgeRow) (xs : Int) : Side :=
  let n := (e.slots.map (·.2.length)).foldl max 0
  mkSide r { c := e.geo, ofs := e.gofs + xs, hw := e.hw, first := e.col, count := n }
    (e.slots.foldl (fun t p => Tbl.set (fun _ => []) t p.1 p.2) []) true

/-- A seam of the stitch: its index, CS and FW. -/
structure SeamAt where
  /-- Seam index; 32 for the left boundary, whose seam belongs to the left device. -/
  k : Nat
  /-- CS. -/
  cs : Int
  /-- FW. -/
  fw : Nat

/-- Index in a side of grid column j. -/
def Side.at (d : Side) (j : Nat) : Option Nat :=
  if d.there && decide (d.cov.1 ≤ j ∧ j < d.cov.1 + d.cov.2) then some (d.us.getD (j - d.cov.1) 0) else none

/-- Slot p of a side at a grid column that it covers (R345, R347). -/
def Side.sample (d : Side) (ksel p u : Nat) : Nat :=
  let xs := Tbl.get (fun _ => []) d.slots p
  if xs.isEmpty then 0 else if p = 3 then maskAt d.geo xs u else resample d.geo ksel xs u

/-- The sides that cover a column, each with its place and head column. -/
def coveringAt (ds : List Side) (j : Nat) : List (Nat × Side × Nat) :=
  ds.zipIdx.filterMap fun d => (d.1.at j).map fun u => (d.2, d.1, u)

/-- Slot p of the view row at column j (R346, R355). Where seam shifts let a third member reach a column, its two lowest sides count
(log entry 156). -/
def pixelAt (ksel fill : Nat) (ds : List Side) (seams : List SeamAt) (p j : Nat) : Nat :=
  match coveringAt ds j with
  | [] => if p = 3 then 0 else fill
  | [a] => a.2.1.sample ksel p a.2.2
  | a :: b :: _ =>
    match seams[a.1]? with
    | none => a.2.1.sample ksel p a.2.2
    | some q =>
      let va := a.2.1.sample ksel p a.2.2
      let vb := b.2.1.sample ksel p b.2.2
      if p = 3 then (if (j : Int) < q.cs then va else vb) else blend (blendWeight q.cs q.fw j) va vb

/-- First and last columns that EMODE keeps, inset included, and whether a limit was taken (R356). -/
def edgeColumns (s : State) (v : Nat) (covered : Nat → Bool) (row0 : List Nat) : Int × Int × Bool :=
  let n := s.rd Reg.View.NCOL v
  let p : Int := s.rd Reg.View.XPITCH v
  let org := s.rdI Reg.View.XORG v
  let xl := cdivI (s.rdI Reg.View.XEL v - org) (max p 1)
  let xr := (s.rdI Reg.View.XER v - org) / max p 1
  if s.rd Reg.View.EMODE v = 1 then (xl, xr, false)
  else
    let thr := s.rd Reg.View.ETHR v
    let hit := fun j => covered j && (if s.on Reg.View.EPOL v then decide (row0.getD j 0 ≤ thr) else decide (thr ≤ row0.getD j 0))
    let l := (List.range n).find? hit
    let r := (List.range n).reverse.find? hit
    let badL := match l with | some j => decide ((j : Int) < xl) | none => true
    let badR := match r with | some j => decide (xr < (j : Int)) | none => true
    let ein : Int := s.rd Reg.View.EIN v
    ((if badL then xl else (l.getD 0 : Int)) + ein, (if badR then xr else (r.getD 0 : Int)) - ein, badL || badR)

/-- Mask the columns outside [lo, hi] in the mask word and the feature slots (R356). -/
def maskRow (lo hi : Int) (slots : Tbl (List Nat)) : Tbl (List Nat) :=
  slots.map fun e => if e.1 < 3 then e else (e.1, e.2.zipIdx.map fun x => if (x.2 : Int) < lo ∨ hi < x.2 then 0 else x.1)

/-- δ and C of a seam give its next σ (R351, R352). -/
def seamUpdate (v k : Nat) (d : Int) (conf : Nat) (best : Int) (s : State) : State :=
  let s := (s.wr2 Reg.Seam.DELTA v k (low 16 d)).wr2 Reg.Seam.CONF v k conf
  let range := best = 8 ∨ best = -8
  if conf < s.rd2 Reg.Seam.CMIN v k ∨ range then
    ((s.wr2 Reg.Seam.CONFLOW v k 1).sat2 (if range then Reg.Seam.RANGECNT else Reg.Seam.CHOLDCNT) v k 1).evt 6 v 0x41
  else
    let s := s.wr2 Reg.Seam.CONFLOW v k 0
    let sigma := s.rdI2 Reg.Seam.SIGMA v k
    let step := roundAway (d * s.rd2 Reg.Seam.GAIN v k) 256
    match s.rd2 Reg.Seam.SMODE v k with
    | 0 => setSigma v k (clampI (-512) 512 (sigma + step)) false s
    | 1 =>
      let slew : Int := s.rd2 Reg.Seam.SLEW v k
      let st := clampI (-slew) slew step
      let new := clampI (s.rdI2 Reg.Seam.SMIN v k) (s.rdI2 Reg.Seam.SMAX v k) (sigma + st)
      setSigma v k new (st != step || new != sigma + st) s
    | _ => setSigma v k (s.rdI2 Reg.Seam.SPIN v k) (step != 0) s

/-- Slot 0 of two sides over their overlap with the seam's own σ at 0 (R350; log entry 29): `b0` is the right side's
column range there. -/
def seamSamples (ksel : Nat) (a b : Side) (b0 : Nat × Nat) : List Nat × List Nat :=
  let ov := overlap a.cov b0
  let f := fun (d : Side) j => match d.at j with | some u => d.sample ksel 0 u | none => 0
  ((List.range ov.2).map fun k => f a (ov.1 + k), (List.range ov.2).map fun k => f b (ov.1 + k))

/-- Seams of the members, then of the remote sides, in the order of the sides. -/
def seamsOf (s : State) (v : Nat) (left right : Option EdgeRow) : List SeamAt :=
  (match left with | some e => [({ k := 32, cs := e.cs, fw := e.fw } : SeamAt)] | none => []) ++
    ((List.range (s.rd Reg.View.NMEM v - 1)).map fun k => { k := k, cs := (s.rd2 Reg.Seam.CS v k : Nat), fw := s.rd2 Reg.Seam.FW v k }) ++
    (match right with | some _ => [{ k := 31, cs := (s.rd2 Reg.Seam.CS v 31 : Nat), fw := s.rd2 Reg.Seam.FW v 31 }] | none => [])

/-- XS of the member of the right neighbour: its seams to the left include seam 31 (R349, R358). -/
def remoteShift (s : State) (v : Nat) (with31 : Bool) : Int :=
  let m := s.rd Reg.View.NMEM v - 1
  roundAway ((s.rdI Reg.View.REMSIG v + ((List.range m).map fun k => s.rdI2 Reg.Seam.SIGMA v k).sum +
    (if with31 then s.rdI2 Reg.Seam.SIGMA v 31 else 0)) * s.rd Reg.View.XPITCH v) 64

/-- The range of the right side of a seam with that seam's σ at 0. -/
def rightAtZero (s : State) (v k : Nat) (right : Option EdgeRow) : Nat × Nat :=
  if k = 31 then (match right with | some e => (edgeSide (gridOf s v) e (remoteShift s v false)).cov | none => (0, 0))
  else (geoOf s ((membersOf s v).getD (k + 1) 0) (shiftOf s v k)).cover (gridOf s v)

/-- Measure and update every seam of this device that has two sides in the row, a seam without them being left as it was (log entry
156); seam 31 without its exchange holds and
counts (R350, R351, R359). -/
def updateSeams (v ksel : Nat) (ds : List Side) (seams : List SeamAt) (right : Option EdgeRow) (s : State) : State :=
  let z := seams.zipIdx.filter fun q => q.1.k ≠ 32
  let f := fun (t : State) (q : SeamAt × Nat) =>
    match ds[q.2]?, ds[q.2 + 1]? with
    | some a, some b =>
      if a.there && b.there then
        let xs := seamSamples ksel a b (rightAtZero s v q.1.k right)
        let m := measureSeam xs.1 xs.2
        seamUpdate v q.1.k m.1 m.2.1 m.2.2 t
      else t
    | _, _ => t
  let t := z.foldl f s
  if s.on Reg.View.REMOTER v && right.isNone then
    ((t.wr2 Reg.Seam.CONFLOW v 31 1).sat2 Reg.Seam.CHOLDCNT v 31 1).evt 6 v 0x41
  else t

/-- Samples of every slot of a view row before masking (R345 to R355). -/
def stitchRow (s : State) (v mask : Nat) (ds : List Side) (seams : List SeamAt) : Tbl (List Nat) :=
  ((List.range 8).filter fun p => mask.testBit p).map fun p =>
    (p, (List.range (s.rd Reg.View.NCOL v)).map fun j => pixelAt (s.rd Reg.View.KSEL v) (s.rd Reg.View.FILLVAL v) ds seams p j)

/-- Web-edge masking of a row, and its count (R356). -/
def maskEdges (v : Nat) (ds : List Side) (slots : Tbl (List Nat)) (s : State) : State × Tbl (List Nat) :=
  if s.rd Reg.View.EMODE v = 0 then (s, slots)
  else
    let e := edgeColumns s v (fun j => !(coveringAt ds j).isEmpty) (Tbl.get (fun _ => []) slots 0)
    ((if e.2.2 then s.sat Reg.View.EDGECLCNT v 1 else s), maskRow e.1 e.2.1 slots)

/-- The view row of a settled pending row, and the state after forming it: packets applied, seams updated, counters
(R342 to R358). `keep` says that the row is processed; else it is diverted, and only passes its points (R33, R34). -/
def formRow (v : Nat) (r : PendRow) (left right : Option EdgeRow) (keep : Bool) (s : State) : State × StoreItem :=
  let b := beginRow v r keep s
  let s := b.1
  let tag := b.2
  let ms := membersOf s v
  let here := r.mems.filter (·.gap.isNone)
  let s := if (s.view v).first then s.wrI Reg.View.OPENPOS v tag.pos else s
  let ksel := s.rd Reg.View.KSEL v
  let ds := (match left with | some q => [edgeSide (gridOf s v) q q.xs] | none => []) ++ ms.zipIdx.map (memberSide s v r) ++
    (match right with | some q => [edgeSide (gridOf s v) q (remoteShift s v true)] | none => [])
  let seams := seamsOf s v left right
  let mask := ms.foldl (fun m h => m ||| (match here.find? fun q => q.head == h with | some q => maskOf q.strips | none => declMask s h)) 0
  let q := maskEdges v ds (stitchRow s v mask ds seams) s
  let s := (updateSeams v ksel ds seams right q.1).wrap Reg.View.VROWS v 1
  let s := s.setView v { s.view v with first := false, last := r.n }
  (s, { src := v, tag := tag, slots := q.2, size := rowSize (s.rd Reg.View.NCOL v) q.2.length, need := viewReaders s v })

/-- The exchange received for a row. -/
def edgeFor (es : List EdgeRow) (n : Nat) : Option EdgeRow := es.find? fun e => e.n == n

/-- Exchanges for a row that has been formed are gone. -/
def dropEdges (v n : Nat) (s : State) : State :=
  let e := s.view v
  s.setView v { e with left := e.left.filter fun x => x.n != n, right := e.right.filter fun x => x.n != n }

/-- Bytes of the row that would be formed. -/
def needBytes (s : State) (v : Nat) (r : PendRow) : Nat :=
  let mask := (membersOf s v).foldl (fun m h => m ||| (match r.mems.find? fun q => q.head == h && q.gap.isNone with
    | some q => maskOf q.strips | none => declMask s h)) 0
  rowSize (s.rd Reg.View.NCOL v) (popcount (BitVec.ofNat 64 mask))

/-- The row store has room for the row that would be formed. -/
def storeRoom (s : State) (v : Nat) (r : PendRow) : Bool := decide (storeUsed s + needBytes s v r ≤ storeBytes s)

/-- Planes of group g of a view (R362). -/
def groupMask (s : State) (v g : Nat) : Nat :=
  let p := s.word (Reg.RtkView.PGRP.word v 0)
  ((List.range 16).map fun k => if bits p (4 * k + 3) (4 * k) = g then 2 ^ k else 0).sum

/-- The boundary word of a column's planes: bit g says that group g has foreground there (R379). -/
def boundaryWord (s : State) (v planes : Nat) : Nat :=
  ((List.range 15).map fun g => if planes &&& groupMask s v g = 0 then 0 else 2 ^ g).sum

/-- The boundary words of a row that stands in the row store go to the neighbours, which wait for them (R379, R515; log entry
158). -/
def sendWords (v : Nat) (it : StoreItem) (s : State) : State :=
  let xs := Tbl.get (fun _ => []) it.slots 3
  let s := if s.on Reg.View.REMOTEL v then
    s.sendTo (s.rd Reg.WlkEdge.LNODE v) (.boundary v false it.tag.lseq (boundaryWord s v (xs.getD 0 0))) else s
  if s.on Reg.View.REMOTER v then
    s.sendTo (s.rd Reg.WlkEdge.RNODE v) (.boundary v true it.tag.lseq (boundaryWord s v (xs.getD (s.rd Reg.View.NCOL v - 1) 0))) else s

/-- Form a row and write it to the row store. -/
def writeRow (v : Nat) (r : PendRow) (left right : Option EdgeRow) (s : State) : State :=
  let f := formRow v r left right true (dropRow v s)
  settleRows v (sendWords v f.2 ((putItem f.2 (dropEdges v r.n f.1)).evt 6 v 0x02))

/-- SST forms the next view row of an open view, once its exchanges have arrived (`late`: although they have not) and the
row store has room (R342, R358, R359, R360). -/
def viewRowForm (v : Nat) (late : Bool) (s : State) : State :=
  match rowToForm s v with
  | none => s
  | some r =>
    let l := edgeFor (s.view v).left r.n
    let q := edgeFor (s.view v).right r.n
    let miss := (s.on Reg.View.REMOTEL v && l.isNone) || (s.on Reg.View.REMOTER v && q.isNone)
    if miss != late || !storeRoom s v r then s else writeRow v r l q (if late then s.sat Reg.View.EDGEMISS v 1 else s)

/-- SST diverts the row that waits for the row store: it is formed, a Sump note takes its place, and a GAP packet goes on
(R48, R58, R61, R360). -/
def divertView (v : Nat) (s : State) : State :=
  match rowToForm s v with
  | none => s
  | some r =>
    if storeRoom s v r then s
    else
      let f := formRow v r (edgeFor (s.view v).left r.n) (edgeFor (s.view v).right r.n) false (dropRow v s)
      let t := f.2.tag
      let s1 := ((dropEdges v r.n f.1).note (0x20 + v) 0x05 t).evt 6 v 0x03
      let g : GapPkt := { stage := 7, vs := true, stream := v, lseq := t.lseq, pos := t.pos, time := s1.pt, skind := 5, count := 1,
                          rows := [(t.pos, t.epoch)] }
      settleRows v (putItem { kind := .gap g, src := v, need := viewReaders s1 v } (s1.setView v { s1.view v with gapBefore := true }))

/-! ### Exchanges (R358, R359, R379) -/

/-- Keep a boundary word of a side. -/
def putWord (v n word : Nat) (right : Bool) (s : State) : State :=
  let e := s.view v
  if right then s.setView v { e with wordsR := (n, word) :: (e.wordsR.filter fun x => x.1 != n).take 255 }
  else s.setView v { e with wordsL := (n, word) :: (e.wordsL.filter fun x => x.1 != n).take 255 }

/-- A row has been formed already, or will not be: its view LSEQ is not among the pending ones, while the view is open. -/
def rowGone (s : State) (v n : Nat) : Bool := s.viewOpen v && !(s.view v).rows.any fun r => r.n == n

/-- EDGE_EXCHANGE_RECEIVE: a neighbour's columns, σ31 and boundary word for a view row arrive; columns for a row already
formed are discarded (R358, R359). -/
def execEdgeExchangeReceive (p v : Nat) (right : Bool) (e : EdgeRow) (s : State) : Out :=
  within v 16 <| fromPort p (fun s =>
    if !(if right then s.on Reg.View.REMOTER v else s.on Reg.View.REMOTEL v) then ok s
    else
      let s1 := match e.word with | some w => putWord v e.n w right s | none => s
      if rowGone s v e.n then ok s1
      else
        let q := s1.view v
        if right then ok (s1.setView v { q with right := (e :: q.right.filter fun x => x.n != e.n).take 256 })
        else ok (s1.setView v { q with left := (e :: q.left.filter fun x => x.n != e.n).take 256,
                                       sigs := ((e.n, e.sigma) :: q.sigs.filter fun x => x.1 != e.n).take 256 })) s

/-- BOUNDARY_WORD_RECEIVE: a neighbour's boundary word for a view row arrives (R379). -/
def execBoundaryWordReceive (p v : Nat) (right : Bool) (n word : Nat) (s : State) : Out :=
  within v 16 <| fromPort p (fun s => ok (putWord v n word right s)) s

/-! ### Stops and gaps of heads at SST -/

/-- A view stops being open: the run of missing rows is sent, the stop follows the last row, and the packets that SST holds
for the view apply (R33, R342, R343). -/
def closeView (v : Nat) (s : State) : State :=
  let s := s.setView v { s.view v with rows := (s.view v).rows.map fun r => { r with dead := true } }
  if !s.viewOpen v then settleRows v s
  else
    let s := flushViewGap v s
    let s := (s.wr Reg.View.OPEN v 0).wr Reg.View.CLOSELSEQ v (s.view v).last
    settleRows v (putItem { kind := .stop, src := v, need := viewReaders s v } (stageStop sstEff 6 0 true v s))

/-- A head is about to stop: triggers that are committed and not issued never are, so the view rows no longer wait for them
(R151, R342). -/
def forgetUnissued (h : Nat) (s : State) : State :=
  match viewOf s h with
  | none => s
  | some v =>
    let e := s.view v
    let next := s.rd Reg.Head.LSEQNEXT h
    let n := (s.tesOf h).queue.length
    let gone := fun (m : MemRow) => m.head == h && decide ((m.lseq + 2 ^ 40 - next) % 2 ^ 40 < n)
    let rows := (e.rows.map fun r => { r with mems := r.mems.filter fun m => !gone m }).filter fun r => !r.mems.isEmpty
    s.setView v { e with rows := rows }

/-- A GAP packet of a head reaches SST: the rows that it covers are missing from their view rows, and a stream that selects
the head learns of it (R33, R342, R435). -/
def headGap (g : GapPkt) (s : State) : State :=
  let h := g.stream
  let s := { s with strips := Tbl.set (fun _ => []) s.strips h ((Tbl.get (fun _ => []) s.strips h).filter fun o =>
    !decide ((o.tag.lseq + 2 ^ 40 - g.lseq) % 2 ^ 40 < g.count)) }
  let s := putItem { kind := .gap g, vs := false, src := h, need := streamsOf s false h } s
  match viewOf s h with
  | none => stageGap sstEff 6 0 false h g.lseq g.rows s
  | some v =>
    let e := s.view v
    let mark := fun (m : MemRow) =>
      let k := (m.lseq + 2 ^ 40 - g.lseq) % 2 ^ 40
      let r := g.rows.getD k (g.pos, 0)
      if m.head = h ∧ k < g.count ∧ m.gap.isNone then { m with gap := some { skind := g.skind, pos := r.1, epoch := r.2 } } else m
    settleRows v (s.setView v { e with rows := e.rows.map fun r => { r with mems := r.mems.map mark } })

/-- Clear the counters of a view and its seams. -/
def sstCntOne (v : Nat) (s : State) : State :=
  let s := s.clr v [Reg.View.VROWS, Reg.View.NOTOPENCNT, Reg.View.EDGECLCNT, Reg.View.EDGEMISS, Reg.View.SIGMISS, Reg.View.VGAPCNT]
  ((s.clrRow Reg.Seam.SBCNT v 32).clrRow Reg.Seam.CHOLDCNT v 32).clrRow Reg.Seam.RANGECNT v 32

end Sys2Proof.Machine
end

