-- ==== Sys2Proof/Machine/Regions.lean ====
section
/-!
DEFINITION. The region tracker: runs, regions, chunks, straws, joins and records (R362 to R383).
-/
namespace Sys2Proof.Machine

/-- RTK's part of a view. -/
def State.rtk (s : State) (v : Nat) : RtkState := Tbl.get (fun _ => {}) s.recs.rtk v

/-- Replace it. -/
def State.setRtk (s : State) (v : Nat) (e : RtkState) : State := { s with recs := { s.recs with rtk := Tbl.set (fun _ => {}) s.recs.rtk v e } }

/-- REGFLAGS bits (Table 11-2). -/
def rfGAPIN : Nat := 0
/-- GAPCLOSE. -/
def rfGAPCLOSE : Nat := 1
/-- CFGCLOSE. -/
def rfCFGCLOSE : Nat := 2
/-- ENDCLOSE. -/
def rfENDCLOSE : Nat := 3
/-- EPOCHSPAN. -/
def rfEPOCHSPAN : Nat := 4
/-- MOMSAT. -/
def rfMOMSAT : Nat := 5
/-- EDGEL. -/
def rfEDGEL : Nat := 6
/-- EDGER. -/
def rfEDGER : Nat := 7
/-- FULLIN. -/
def rfFULLIN : Nat := 8
/-- CONTMISS. -/
def rfCONTMISS : Nat := 9

/-- The signed distance from row a to row b in view LSEQ. -/
def rowDist (a b : Nat) : Int := signed 40 ((b + 2 ^ 40 - a % 2 ^ 40) % 2 ^ 40)

/-- The formation row of a record: view LSEQ, POS, EPOCH (R364). -/
abbrev FormRow := Nat × Int × Nat

/-! ### Records (R373, R374) -/

/-- RKIND codes. -/
def rkREGION : Nat := 1
/-- STRAW. -/
def rkSTRAW : Nat := 2
/-- JOIN. -/
def rkJOIN : Nat := 3

/-- Unsigned saturation to 64 bits. -/
def satU (x : Int) : Int := clampI 0 ((2 ^ 64 : Nat) - 1) x

/-- X of a grid column's centre (R374). -/
def columnX (s : State) (v j : Nat) : Int := s.rdI Reg.View.XORG v + (j : Int) * s.rd Reg.View.XPITCH v

/-- The 32 words of a record (Table 11-1). -/
def regionRecord (s : State) (v kind : Nat) (f : FormRow) (last : Bool) (into : Nat) (r : Region) : List Word :=
  let join := kind = rkJOIN
  let n := fun (x : Nat) => if join then 0 else BitVec.ofNat 64 x
  let i := fun (x : Int) => if join then 0 else BitVec.ofInt 64 x
  let cs := r.cols.getD (0, 0)
  let lm := r.lim.getD (0, 0)
  let con := fun (c : Option (Nat × Nat)) => [fld (b2n c.isSome) 1 63 ||| fld (c.getD (0, 0)).1 40 0, fld (c.getD (0, 0)).2 40 0]
  [fld kind 4 60 ||| fld v 5 55 ||| fld f.2.2 7 40 ||| fld f.1 40 0, BitVec.ofInt 64 f.2.1, BitVec.ofInt 64 r.yStart,
   BitVec.ofInt 64 r.yEnd, BitVec.ofNat 64 r.tStart, fld r.first 40 0, fld r.last 40 0,
   fld (low 32 (columnX s v cs.2)) 32 32 ||| fld (low 32 (columnX s v cs.1)) 32 0, fld r.rser 48 0,
   fld r.chunk 16 48 ||| fld (b2n last) 1 47 ||| fld r.group 4 40 ||| fld r.epochFirst 7 33 ||| fld r.planes 16 16 ||| fld r.regflags 16 0,
   fld r.rflags 16 48 ||| fld (cs.2 + 1 - cs.1) 21 20 ||| fld r.xa 20 0, n r.area, n r.areaTot, n r.sumI, i r.sumX, i r.sumY, i r.sumXX,
   i r.sumYY, i r.sumXY] ++
    (List.range 4).map (fun k => n (r.fsum.getD k 0)) ++
    [fld lm.2 16 48 ||| fld lm.1 16 32, BitVec.ofInt 64 r.yreg] ++ con r.conL ++ con r.conR ++ [fld into 48 0, 0, 0]

/-- Word k of a record. -/
def recWord (ws : List Word) (k : Nat) : Word := ws.getD k 0

/-- XMIN of a record. -/
def recXmin (ws : List Word) : Int := signed 32 (bits (recWord ws 7) 31 0)

/-- Order of records within a formation row and kind: XMIN, GROUP, RSER (R375). -/
def recBefore (a b : List Word) : Bool :=
  let k := fun ws => (recXmin ws, bits (recWord ws 9) 43 40, bits (recWord ws 8) 47 0)
  let x := k a
  let y := k b
  decide (x.1 < y.1 ∨ (x.1 = y.1 ∧ (x.2.1 < y.2.1 ∨ (x.2.1 = y.2.1 ∧ x.2.2 ≤ y.2.2))))

/-- Insert in order. -/
def insRec (a : List Word) : List (List Word) → List (List Word)
  | [] => [a]
  | b :: bs => if recBefore a b then a :: b :: bs else b :: insRec a bs

/-- Records in order. -/
def sortRecs (l : List (List Word)) : List (List Word) := l.foldr insRec []

/-- REGION records of a view that have not entered the FIFO hold their entries (R377). -/
def heldEntries (s : State) (v : Nat) : Nat :=
  s.recs.held.countP fun i => match i with
    | .record ws => bits (recWord ws 0) 63 60 == rkREGION && bits (recWord ws 0) 58 55 == v
    | .mark _ _ => false

/-- OPENREG and OPENPEAK follow the entries held (R377). -/
def showOpen (v : Nat) (s : State) : State :=
  let n := (s.rtk v).regions.length + heldEntries s v
  (s.wr Reg.RtkView.OPENREG v n).wr Reg.RtkView.OPENPEAK v (max n (s.rd Reg.RtkView.OPENPEAK v))

/-- FIFOFILL follows the records in the FIFO. -/
def fifoRecords (l : List RecItem) : Nat := l.countP fun i => match i with | .record _ => true | .mark _ _ => false

/-- Show it. -/
def showFifo (s : State) : State := s.wr Reg.RtkGlobal.FIFOFILL 0 (fifoRecords s.recs.fifo)

/-- Marks at the front of what RTK holds pass on without waiting (R630). -/
def pushMarks : List RecItem → List RecItem → List RecItem × List RecItem
  | .mark v k :: is, f => pushMarks is (f ++ [.mark v k])
  | is, f => (is, f)

/-- RTK sends items to RCL, behind those that it holds. -/
def sendItems (is : List RecItem) (s : State) : State :=
  let p := pushMarks (s.recs.held ++ is) s.recs.fifo
  { s with recs := { s.recs with held := p.1, fifo := p.2 } }

/-- The region record of a closed region, or none for a speck (R370). -/
def closeRecord (s : State) (v flag : Nat) (f : FormRow) (r : Region) : Option (List Word) :=
  if r.chunk = 0 ∧ r.areaTot < s.rd Reg.RtkView.MINAREA v then none
  else some (regionRecord s v rkREGION f true 0 { r with regflags := if flag < 16 then setBit r.regflags flag else r.regflags })

/-- Close a list of regions: records and specks counted (R370, R375). -/
def closeRegions (v flag : Nat) (f : FormRow) (rs : List Region) (s : State) : State :=
  let recs := rs.filterMap (closeRecord s v flag f)
  let s := (s.sat Reg.RtkView.RECCNT v recs.length).sat Reg.RtkView.SPECKCNT v (rs.length - recs.length)
  sendItems ((sortRecs recs).map .record) s

/-- Close every open region of a view (R367 to R369). -/
def closeAll (v flag : Nat) (f : FormRow) (s : State) : State :=
  let e := s.rtk v
  showOpen v (closeRegions v flag f e.regions (s.setRtk v { e with regions := [] }))

/-! ### Merging (R366) -/

/-- Move the sums of a chunk by (dx, dy). -/
def Region.shift (r : Region) (dx dy : Int) : Region :=
  { r with sumXY := r.sumXY + dx * r.sumY + dy * r.sumX + dx * dy * r.area, sumXX := r.sumXX + 2 * dx * r.sumX + dx * dx * r.area,
           sumYY := r.sumYY + 2 * dy * r.sumY + dy * dy * r.area, sumX := r.sumX + dx * r.area, sumY := r.sumY + dy * r.area }

/-- Join two optional ranges. -/
def joinRange : Option (Nat × Nat) → Option (Nat × Nat) → Option (Nat × Nat)
  | some a, some b => some (min a.1 b.1, max a.2 b.2)
  | none, b => b
  | a, none => a

/-- Join two ranges of rows by their order in view LSEQ. -/
def joinRows : Option (Nat × Nat) → Option (Nat × Nat) → Option (Nat × Nat)
  | some a, some b => some (if rowDist a.1 b.1 < 0 then b.1 else a.1, if 0 < rowDist a.2 b.2 then b.2 else a.2)
  | none, b => b
  | a, none => a

/-- Saturate the sums to their fields; MOMSAT when one passes its range (R365). -/
def Region.sat (r : Region) : Region :=
  let f := fun (x : Int) => clampI (-(2 ^ 63 : Nat)) ((2 ^ 63 : Nat) - 1) x
  let g := fun (x : Nat) => min x (2 ^ 64 - 1)
  let t := { r with area := g r.area, areaTot := g r.areaTot, sumI := g r.sumI, fsum := r.fsum.map g, sumX := f r.sumX, sumXY := f r.sumXY,
                    sumY := satU r.sumY, sumXX := satU r.sumXX, sumYY := satU r.sumYY }
  if t = r then r else { t with regflags := setBit t.regflags rfMOMSAT }

/-- The survivor `a` takes the absorbed region `b` (R366). -/
def absorb (a b : Region) : Region :=
  let early := rowDist a.first b.first < 0
  let base := if early then b else a
  let sa := a.shift 0 (rowDist base.first a.first)
  let sb := b.shift ((b.xa : Int) - a.xa) (rowDist base.first b.first)
  let late := 0 < rowDist a.last b.last
  let span := a.epochFirst != b.epochFirst
  Region.sat { sa with
    first := base.first, yStart := base.yStart, tStart := base.tStart, epochFirst := base.epochFirst,
    last := if late then b.last else a.last, yEnd := if late then b.yEnd else a.yEnd,
    areaTot := a.areaTot + b.areaTot, area := a.area + b.area, sumI := a.sumI + b.sumI, sumX := sa.sumX + sb.sumX, sumY := sa.sumY + sb.sumY,
    sumXX := sa.sumXX + sb.sumXX, sumYY := sa.sumYY + sb.sumYY, sumXY := sa.sumXY + sb.sumXY,
    fsum := (List.zip a.fsum b.fsum).map fun e => e.1 + e.2, cols := joinRange a.cols b.cols, lim := joinRange a.lim b.lim,
    planes := a.planes ||| b.planes, rflags := a.rflags ||| b.rflags, regflags := setBitIf span (a.regflags ||| b.regflags) rfEPOCHSPAN,
    conL := joinRows a.conL b.conL, conR := joinRows a.conR b.conR }

/-! ### Runs (R362, R363) -/

/-- Maximal runs of true in a list, with their first and last index. -/
def runsFrom : Nat → Option Nat → List Bool → List (Nat × Nat)
  | j, some a, [] => [(a, j - 1)]
  | _, none, [] => []
  | j, none, b :: bs => runsFrom (j + 1) (if b then some j else none) bs
  | j, some a, b :: bs => if b then runsFrom (j + 1) (some a) bs else (a, j - 1) :: runsFrom (j + 1) none bs

/-- Runs of a row: group and columns, in increasing column, then group. -/
def rowRuns (s : State) (v : Nat) (mask : List Nat) : List (Nat × Nat × Nat) :=
  let all := (List.range 15).flatMap fun g =>
    let m := groupMask s v g
    if m = 0 then [] else (runsFrom 0 none (mask.map fun x => x &&& m != 0)).map fun r => (g, r)
  let before := fun (a b : Nat × Nat × Nat) => decide (a.2.1 < b.2.1 ∨ (a.2.1 = b.2.1 ∧ a.1 ≤ b.1))
  let ins := fun (a : Nat × Nat × Nat) l => (l.takeWhile fun b => before b a) ++ a :: l.dropWhile fun b => before b a
  all.foldl (fun l a => ins a l) []

/-- A run is connected to a run of the preceding row (R363). -/
def runsTouch (a b : Nat × Nat) : Bool := decide (b.1 ≤ a.2 + 1 ∧ a.1 ≤ b.2 + 1)

/-- Regions joined in a row: the RSERs united, and the runs. -/
structure Cluster where
  /-- RSERs of the regions of the preceding row. -/
  ids : List Nat
  /-- Group. -/
  group : Nat
  /-- Runs of this row. -/
  runs : List (Nat × Nat)

/-- Add a run to the clusters: those that share a region with it become one (R364, step 2). -/
def addRun (rs : List Region) (cs : List Cluster) (run : Nat × Nat × Nat) : List Cluster :=
  let ids := (rs.filter fun r => r.group == run.1 && r.runs.any (runsTouch run.2)).map (·.rser)
  let hit := fun (c : Cluster) => c.ids.any fun i => ids.contains i
  let old := cs.filter hit
  let all := ids ++ (old.flatMap (·.ids)).filter fun i => !ids.contains i
  (cs.filter fun c => !hit c) ++ [{ ids := all, group := run.1, runs := old.flatMap (·.runs) ++ [run.2] }]

/-! ### Adding pixels (R365, R379) -/

/-- What a row gives to its pixels. -/
structure RowIn where
  /-- The row's tag. -/
  tag : Tag
  /-- NCOL. -/
  ncol : Nat
  /-- Mask words. -/
  mask : List Nat
  /-- Samples of slot ISRC. -/
  isrc : List Nat
  /-- Samples of slots 4 to 7 with FEN 1; none where it is 0. -/
  feats : List (Option (List Nat))
  /-- Groups with a left contact in this row, as a mask. -/
  wordL : Nat
  /-- Groups with a right contact. -/
  wordR : Nat
  /-- A left word of rows n − 1 to n + 1 has been missed. -/
  missL : Bool
  /-- A right word has. -/
  missR : Bool

/-- One pixel enters a region (R365). -/
def addPixel (i : RowIn) (gm : Nat) (r : Region) (j : Nat) : Region :=
  let v := i.isrc.getD j 0
  let x : Int := (j : Int) - r.xa
  let y := rowDist r.first i.tag.lseq
  let n := i.tag.lseq
  let atL := j = 0
  let atR := j + 1 = i.ncol
  let con := fun (c : Option (Nat × Nat)) (w : Nat) (at_ : Bool) => if at_ && w.testBit r.group then joinRows c (some (n, n)) else c
  let fl := setBitIf (decide atL) (setBitIf (decide atR) r.regflags rfEDGER) rfEDGEL
  let fl := setBitIf ((decide atL && i.missL) || (decide atR && i.missR)) fl rfCONTMISS
  Region.sat { r with
    area := r.area + 1, areaTot := r.areaTot + 1, sumI := r.sumI + v, sumX := r.sumX + x, sumY := r.sumY + y, sumXX := r.sumXX + x * x,
    sumYY := r.sumYY + y * y, sumXY := r.sumXY + x * y,
    fsum := (List.zip r.fsum i.feats).map fun e => e.1 + (match e.2 with | some xs => xs.getD j 0 | none => 0),
    lim := joinRange r.lim (some (v, v)), cols := joinRange r.cols (some (j, j)), planes := r.planes ||| (i.mask.getD j 0 &&& gm),
    regflags := fl, conL := con r.conL i.wordL atL, conR := con r.conR i.wordR atR }

/-- The runs of a row enter a region (R364, step 5). -/
def addRuns (i : RowIn) (gm : Nat) (runs : List (Nat × Nat)) (r : Region) : Region :=
  let cols := runs.flatMap fun q => (List.range (q.2 + 1 - q.1)).map fun k => q.1 + k
  let t := i.tag
  let r := cols.foldl (addPixel i gm) r
  { r with last := t.lseq, yEnd := t.pos, rflags := r.rflags ||| t.flags, runs := runs,
           regflags := setBitIf (t.epoch != r.epochFirst) r.regflags rfEPOCHSPAN }

/-- A new region, or a new chunk of one, at a row (R366, R371). FULLIN is a mark of the region and stays (Table 11-2). -/
def startChunk (t : Tag) (r : Region) : Region :=
  { rser := r.rser, group := r.group, xa := r.xa, yreg := r.yreg, chunk := r.chunk, areaTot := r.areaTot, first := t.lseq, last := t.lseq,
    yStart := t.pos, yEnd := t.pos, tStart := t.time, epochFirst := t.epoch, runs := r.runs,
    regflags := r.regflags &&& 2 ^ rfFULLIN }

/-! ### The steps of a row (R364) -/

/-- RSER after n, wrapping from 2^48 − 1 to 1. -/
def nextRser (n : Nat) : Nat := if n = 2 ^ 48 - 1 then 1 else n + 1

/-- What steps 2 to 5 build: surviving and new regions, joins, straws, merges, openings, untracked runs, RSERNEXT. -/
structure RowOut where
  /-- Regions after the row. -/
  keep : List Region := []
  /-- Join records. -/
  joins : List (List Word) := []
  /-- Straw records. -/
  straws : List (List Word) := []
  /-- Regions absorbed. -/
  merges : Nat := 0
  /-- Regions opened. -/
  opened : Nat := 0
  /-- Runs left untracked. -/
  untracked : Nat := 0
  /-- RSERNEXT. -/
  next : Nat := 1

/-- A cluster of existing regions: the survivor absorbs the others, forms a straw when its chunk is long enough, and takes
the row's pixels (R364, R366, R371). -/
def runCluster (s : State) (v : Nat) (i : RowIn) (rs : List Region) (bridged : Bool) (c : Cluster) (o : RowOut) : RowOut :=
  let ms := rs.filter fun r => c.ids.contains r.rser
  let low := ms.foldl (fun m r => min m r.rser) (2 ^ 48)
  match ms.find? fun r => r.rser == low with
  | none => o
  | some a =>
    let others := ms.filter fun r => r.rser != low
    let f : FormRow := (i.tag.lseq, i.tag.pos, i.tag.epoch)
    let joins := (others.filter fun r => r.chunk != 0).map (regionRecord s v rkJOIN f true a.rser)
    let m := others.foldl absorb a
    let long := (s.rd Reg.RtkView.STRAW v : Int) ≤ rowDist m.first i.tag.lseq
    let straw := if long then [regionRecord s v rkSTRAW f false 0 m] else []
    let m := if long then startChunk i.tag { m with chunk := m.chunk + 1 } else m
    let m := { m with regflags := setBitIf bridged m.regflags rfGAPIN }
    { o with keep := o.keep ++ [addRuns i (groupMask s v c.group) c.runs m], joins := o.joins ++ joins, straws := o.straws ++ straw,
             merges := o.merges + others.length }

/-- A run that connects to no region opens one while the view has an entry (R366, R378). -/
def openCluster (s : State) (v : Nat) (i : RowIn) (room : Nat) (c : Cluster) (o : RowOut) : RowOut :=
  if room ≤ o.opened then { o with untracked := o.untracked + 1 }
  else
    let r := startChunk i.tag { rser := o.next, group := c.group, xa := (c.runs.head?.map (·.1)).getD 0, yreg := i.tag.pos }
    { o with keep := o.keep ++ [addRuns i (groupMask s v c.group) c.runs r], opened := o.opened + 1, next := nextRser o.next }

/-- The boundary words of rows n − 1 to n + 1, ORed. -/
def nearWords (ws : List (Nat × Nat)) (n : Nat) : Nat :=
  (ws.filter fun e => (rowDist n e.1).natAbs ≤ 1).foldl (fun m e => m ||| e.2) 0

/-- What a view row gives to RTK. -/
def rowIn (s : State) (v : Nat) (it : StoreItem) : RowIn :=
  let n := it.tag.lseq
  let slot := fun p => Tbl.get (fun _ => []) it.slots p
  let e := s.view v
  let q := s.rtk v
  let near := fun (l : List Nat) => l.any fun m => decide ((rowDist n m).natAbs ≤ 1)
  { tag := it.tag, ncol := s.rd Reg.View.NCOL v, mask := slot 3, isrc := slot (s.rd Reg.RtkView.ISRC v),
    feats := (List.range 4).map fun k => if (s.rd Reg.RtkView.FEN v).testBit k then some (slot (4 + k)) else none,
    wordL := if s.on Reg.View.REMOTEL v then nearWords e.wordsL n else 0,
    wordR := if s.on Reg.View.REMOTER v then nearWords e.wordsR n else 0,
    missL := s.on Reg.View.REMOTEL v && near q.missL, missR := s.on Reg.View.REMOTER v && near q.missR }

/-- Steps 1 to 6 of a row (R364), with the records in the order of R375. `used` entries were held when the row began: one freed
during it is available from the next row, so that all of them and the new ones are held at once (R377). -/
def rowSteps (v used : Nat) (it : StoreItem) (s : State) : State :=
  let e := s.rtk v
  let i := rowIn s v it
  let cs := (rowRuns s v i.mask).foldl (addRun e.regions) []
  let room := s.rd Reg.RtkView.RTMAX v - used
  let o := cs.foldl (fun o c => if c.ids.isEmpty then openCluster s v i room c o else runCluster s v i e.regions e.bridged c o)
    { next := s.rd Reg.RtkView.RSERNEXT v }
  let full := decide (0 < o.untracked)
  let mark := fun (r : Region) => if full then { r with regflags := setBit r.regflags rfFULLIN } else r
  let keep := o.keep.map mark
  let gone := (e.regions.filter fun r => !cs.any fun c => c.ids.contains r.rser).map mark
  let f : FormRow := (it.tag.lseq, it.tag.pos, it.tag.epoch)
  let s := s.setRtk v { e with regions := keep, last := f, bridged := false }
  let s := ((s.wr Reg.RtkView.RSERNEXT v o.next).wr Reg.RtkView.FULLNOW v (b2n full)).sat Reg.RtkView.FULLCNT v (b2n full)
  let s := if full then (s.note (0x20 + v) 0x07 it.tag).evt 7 v 0x03 else s
  let s := (s.sat Reg.RtkView.JOINCNT v o.joins.length).sat Reg.RtkView.STRAWCNT v o.straws.length
  let s := ((s.evt 7 v 0x40 o.opened).evt 7 v 0x41 o.merges).evt 7 v 0x42 o.straws.length
  let s := sendItems ((sortRecs o.joins ++ sortRecs o.straws).map .record) s
  showOpen v (closeRegions v 16 f gone (s.wr Reg.RtkView.OPENPEAK v (max (used + o.opened) (s.rd Reg.RtkView.OPENPEAK v))))

/-! ### Packets (R369, R382) -/

/-- RTK.PLANE's fields. -/
def applyPlane (v : Nat) (w : Nat → Word) (s : State) : State :=
  let s := (s.wr Reg.RtkView.PGRP v (w 0).toNat).wrAll v
    [(Reg.RtkView.RTMAX, bits (w 1) 52 32), (Reg.RtkView.MINAREA, bits (w 1) 31 0), (Reg.RtkView.GAPBRIDGE, bits (w 2) 15 0)]
  s.wr Reg.RtkGlobal.RTUSED 0 ((List.range 16).map fun u => s.rd Reg.RtkView.RTMAX u).sum

/-- What RTK does when it applies a packet with a formation row for the regions that it closes (R369). -/
def rtkEff (f : FormRow) (e : Held) (s : State) : State :=
  let w := fun k => e.pkt.words.getD k 0
  let v := e.pkt.stream
  match e.pkt.op with
  | 1 => applyPlane v w (if s.word (Reg.RtkView.PGRP.word v 0) = w 0 then s else closeAll v rfCFGCLOSE f s)
  | 2 => s.wr Reg.RtkView.STRAW v (bits (w 0) 24 0)
  | 3 => (closeAll v rfCFGCLOSE f s).wrAll v [(Reg.RtkView.ISRC, bits (w 0) 63 62), (Reg.RtkView.FEN, bits (w 0) 61 58)]
  | _ => s

/-- The largest RTMAX that view u has or that an issued RTK.PLANE will give it (R377; log entry 156). -/
def rtmaxAhead (s : State) (u : Nat) : Nat :=
  let f := fun (m : Nat) (e : Held) =>
    if e.pkt.unit = 7 ∧ e.pkt.op = 1 ∧ e.pkt.vs = true ∧ e.pkt.stream = u then max m (bits (e.pkt.words.getD 1 0) 52 32) else m
  (s.transit ++ s.held).foldl f (s.rd Reg.RtkView.RTMAX u)

/-- RTK.PLANE: streams plane groups, table share, MINAREA and GAPBRIDGE (R382). -/
def execRtkPlane (x : XWord) (s : State) : Out :=
  xop 7 0x01 x (fun a s =>
    let m := bits (a.w 1) 52 32
    match viewTargets s with
    | none => .no stBOUNDS s
    | some vs =>
      let total := ((List.range 16).map fun u => if vs.contains u then m else rtmaxAhead s u).sum
      if m % 4096 ≠ 0 ∨ 1048576 < total then .no stBOUNDS s
      else if vs.any fun v => s.viewOpen v && s.rd Reg.RtkView.RTMAX v != m then .no stHEADBUSY s
      else .form a.ws s) s

/-- RTK.STRAW: streams the straw length of a view (R382). -/
def execRtkStraw (x : XWord) (s : State) : Out :=
  xop 7 0x02 x (fun a s =>
    if (viewTargets s).isNone ∨ !inRange (bits (a.w 0) 24 0) 256 16777216 then .no stBOUNDS s else .form a.ws s) s

/-- RTK.FEAT: streams the intensity slot and feature sums of a view (R382). -/
def execRtkFeat (x : XWord) (s : State) : Out :=
  xop 7 0x03 x (fun a s =>
    if (viewTargets s).isNone ∨ bits (a.w 0) 63 62 = 3 then .no stBOUNDS s else .form a.ws s) s

/-! ### Rows, gaps and stops at RTK (R367, R368, R376, R379) -/

/-- RTK holds a record and processes nothing further (R376). -/
def rtkHolds (s : State) : Bool := !s.recs.held.isEmpty

/-- The item that RTK takes next of a view. -/
def rtkNext (s : State) (v : Nat) : Option StoreItem := nextItem s 8 fun i => i.vs && i.src == v

/-- RTK commits it. -/
def rtkCommit (v : Nat) (s : State) : State := commitItem 8 (fun i => i.vs && i.src == v) s

/-- The boundary words that a row waits for have arrived or been missed (R379). -/
def wordsReady (s : State) (v n : Nat) : Bool :=
  let m := (n + 1) % 2 ^ 40
  (!s.on Reg.View.REMOTEL v || (s.view v).wordsL.any (fun e => e.1 == m) || (s.rtk v).missL.contains m) &&
    (!s.on Reg.View.REMOTER v || (s.view v).wordsR.any (fun e => e.1 == m) || (s.rtk v).missR.contains m)

/-- RTK processes the next row of a view (R364). -/
def viewRowProcess (v : Nat) (s : State) : State :=
  match rtkNext s v with
  | some it =>
    if it.kind ≠ .row ∨ rtkHolds s ∨ !wordsReady s v it.tag.lseq then s
    else
      let t := it.tag
      let used := (s.rtk v).regions.length
      let s := stageRow (rtkEff (t.lseq, t.pos, t.epoch)) 7 0 true v t.lseq t.pos t.epoch s
      rtkCommit v (sendItems [.mark v (.row t.lseq t.pos t.epoch)] ((rowSteps v used it s).evt 7 v 0x01))
  | none => s

/-- RTK takes the next GAP packet of a view (R367). -/
def viewGapProcess (v : Nat) (s : State) : State :=
  match rtkNext s v with
  | some { kind := .gap g, .. } =>
    if rtkHolds s then s
    else
      let e := s.rtk v
      let f : FormRow := (g.lseq, g.pos, (g.rows.head?.map (·.2)).getD e.last.2.2)
      let s := if g.count ≤ s.rd Reg.RtkView.GAPBRIDGE v then s.setRtk v { e with bridged := true }
        else (closeAll v rfGAPCLOSE f s).sat Reg.RtkView.GAPCLCNT v (b2n (!e.regions.isEmpty))
      let s := stageGap (rtkEff f) 7 0 true v g.lseq g.rows s
      rtkCommit v (sendItems [.mark v (.gap g.lseq g.rows)] s)
  | _ => s

/-- The view has stopped being open: RTK closes every region with ENDCLOSE (R368). -/
def viewStopProcess (v : Nat) (s : State) : State :=
  match rtkNext s v with
  | some it =>
    if it.kind ≠ .stop ∨ rtkHolds s then s
    else
      let f := (s.rtk v).last
      let s := stageStop (rtkEff f) 7 0 true v (closeAll v rfENDCLOSE f s)
      rtkCommit v (sendItems [.mark v .stop] (s.setRtk v { s.rtk v with bridged := false, missL := [], missR := [] }))
  | none => s

/-- BOUNDARY_WORD_TIMEOUT: the word that the next row of a view waits for is missing after EDGETO (R379). -/
def execBoundaryWordTimeout (v : Nat) (right : Bool) (s : State) : Out :=
  within v 16 <|
    match rtkNext s v with
    | some it =>
      let m := (it.tag.lseq + 1) % 2 ^ 40
      let on := if right then s.on Reg.View.REMOTER v else s.on Reg.View.REMOTEL v
      let have_ := (if right then (s.view v).wordsR else (s.view v).wordsL).any fun e => e.1 == m
      let e := s.rtk v
      if it.kind ≠ .row ∨ !on ∨ have_ ∨ (if right then e.missR else e.missL).contains m then ok s
      else
        let e := if right then { e with missR := (m :: e.missR).take 4 } else { e with missL := (m :: e.missL).take 4 }
        ok ((s.setRtk v e).sat Reg.RtkView.CONTMISSCNT v 1)
    | none => ok s

/-- RTK_RECORD_ENQUEUE: the record that RTK holds enters the FIFO once it has room (R375, R376). -/
def execRtkRecordEnqueue (s : State) : Out :=
  match s.recs.held with
  | .record ws :: is =>
    if 65536 ≤ fifoRecords s.recs.fifo then ok s
    else
      let p := pushMarks is (s.recs.fifo ++ [.record ws])
      let v := bits (recWord ws 0) 58 55
      ok ((showOpen v (showFifo { s with recs := { s.recs with held := p.1, fifo := p.2 } })).evt 7 v 0x02)
  | _ => ok s

/-- A record is diverted: a Sump note with its words 0 and 1 as tag (R376). -/
def divertRecord (skind unit : Nat) (cnt : Field) (i : Nat) (ws : List Word) (s : State) : State :=
  let v := bits (recWord ws 0) 58 55
  ((s.note (0x20 + v) skind (Tag.ofWords (recWord ws 0) (recWord ws 1))).sat cnt i 1).evt unit v 0x03

/-- RTK's hold has outlasted its timeout: the record goes to the Sump, its entry is freed (R376). -/
def divertAtRtk (s : State) : State :=
  match s.recs.held with
  | .record ws :: is =>
    if fifoRecords s.recs.fifo < 65536 then s
    else
      let p := pushMarks is s.recs.fifo
      showOpen (bits (recWord ws 0) 58 55) (divertRecord 0x06 7 Reg.RtkView.DIVCNT (bits (recWord ws 0) 58 55) ws { s with recs := { s.recs with held := p.1, fifo := p.2 } })
  | _ => s

/-- Clear the counters of an RTK view. -/
def rtkCntOne (v : Nat) (s : State) : State :=
  s.clr v [Reg.RtkView.RECCNT, Reg.RtkView.STRAWCNT, Reg.RtkView.JOINCNT, Reg.RtkView.SPECKCNT, Reg.RtkView.FULLCNT, Reg.RtkView.DIVCNT,
    Reg.RtkView.GAPCLCNT, Reg.RtkView.CONTMISSCNT]

end Sys2Proof.Machine
end

