-- ==== Sys2Proof/Machine/Classify.lean ====
section
/-!
DEFINITION. RCL: features, model images and decision forests, classification of records (R384 to R394).
-/
namespace Sys2Proof.Machine

/-! ### Derived features (R385) -/

/-- Saturate to the signed 32-bit range. -/
def satS32 (x : Int) : Int := clampI (-(2 ^ 31)) (2 ^ 31 - 1) x

/-- A rounded quotient; a zero divisor gives 0 (R385). -/
def ratio (a : Int) (b : Nat) : Int := if b = 0 then 0 else roundAway a b

/-- AREA of a record. -/
def recArea (ws : List Word) : Nat := (recWord ws 11).toNat

/-- The signed value of a record word. -/
def recInt (ws : List Word) (k : Nat) : Int := (recWord ws k).toInt

/-- VARX, VARY and COVXY times AREA², exact; zero when AREA is 0. -/
def moments (ws : List Word) : Int × Int × Int :=
  let a : Int := recArea ws
  let sx := recInt ws 14
  let sy : Int := (recWord ws 15).toNat
  ((recWord ws 16).toNat * a - sx * sx, (recWord ws 17).toNat * a - sy * sy, recInt ws 18 * a - sx * sy)

/-- Integer square root of a number below 2^400. -/
def isqrt (n : Nat) : Nat := bisect (fun r => decide (r * r ≤ n)) 200 0

/-- One of −1, 0 and 1 (log entry 32). -/
def slack (ws : List Word) (did : Nat) : Int := (Config.featureSlack ws did % 3 : Nat) - 1

/-- λ1 ÷ λ2 of the matrix, Q16.16, nearest (R385). -/
def elongation (m : Int × Int × Int) : Int :=
  let p := m.1 + m.2.1
  let r2 := (m.1 - m.2.1) ^ 2 + 4 * m.2.2 ^ 2
  let det := p ^ 2 - r2
  let f : Nat := 2 ^ 64
  let num := 65536 * ((p ^ 2 + r2) * f + 2 * p * (isqrt (r2.toNat * f * f) : Nat))
  if det = 0 then (if p < 0 then 0 else 2 ^ 31 - 1) else roundAway (if det < 0 then -num else num) (det.natAbs * f)

/-- Angles atan(2^−k) in 2^−48 of a turn. -/
def atanTable : List Nat :=
  [35184372088832, 20770547670515, 10974586953444, 5570871696862, 2796246208089, 1399486241028, 699913886760, 349978300884,
   174991820497, 87496244017, 43748163730, 21874087080, 10937044192, 5468522177, 2734261099, 1367130551, 683565276, 341782638,
   170891319, 85445659, 42722830, 21361415, 10680707, 5340354, 2670177, 1335088]

/-- The angle of a vector with x not negative, by rotation towards the x axis. -/
def rotate : List Nat → Nat → Int → Int → Int → Int
  | [], _, _, _, z => z
  | t :: ts, k, x, y, z =>
    if 0 ≤ y then rotate ts (k + 1) (x + y / 2 ^ k) (y - x / 2 ^ k) (z + t) else rotate ts (k + 1) (x - y / 2 ^ k) (y + x / 2 ^ k) (z - t)

/-- The angle of a vector in 2^−48 of a turn. -/
def angle (x y : Int) : Int :=
  let x := x * 2 ^ 40
  let y := y * 2 ^ 40
  if 0 ≤ x then rotate atanTable 0 x y 0
  else if 0 ≤ y then rotate atanTable 0 y (-x) (2 ^ 46) else rotate atanTable 0 (-y) x (-(2 ^ 46))

/-- Angle of the major axis in 1/65,536 of 180°, nearest (R385). -/
def orientation (m : Int × Int × Int) : Int :=
  let v := roundAway (angle (m.1 - m.2.1) (2 * m.2.2)) (2 ^ 32)
  if 32768 ≤ v then v - 65536 else v

/-- Derived feature DID before saturation (Table 11-8); none for a reserved DID. -/
def derived (ws : List Word) (did : Nat) : Option Int :=
  let a := recArea ws
  let rows : Int := rowDist (bits (recWord ws 5) 39 0) (bits (recWord ws 6) 39 0) + 1
  let cells : Int := rows * bits (recWord ws 10) 40 20
  let m := moments ws
  let w := recWord ws 9
  match did with
  | 0x00 => some a
  | 0x01 => some (recWord ws 12).toNat
  | 0x02 => some rows
  | 0x03 => some (signed 32 (bits (recWord ws 7) 63 32) - recXmin ws)
  | 0x04 => some (ratio (recInt ws 3 - recInt ws 2).natAbs 1000)
  | 0x05 => some (ratio ((recWord ws 13).toNat * 65536) a)
  | 0x06 => some (bits (recWord ws 23) 47 32)
  | 0x07 => some (bits (recWord ws 23) 63 48)
  | 0x08 => some (ratio (if cells < 0 then -(a * 65536) else a * 65536) cells.natAbs)
  | 0x09 => some (ratio (256 * m.1) (a * a))
  | 0x0A => some (ratio (256 * m.2.1) (a * a))
  | 0x0B => some (ratio (256 * m.2.2) (a * a))
  | 0x0C => some (let e := elongation m; if e = 2 ^ 31 - 1 then e else e + slack ws 0x0C)
  | 0x0D => some (
      if m.1 = m.2.1 ∧ m.2.2 = 0 then signed 16 (Config.featureSlack ws 0x0D)
      else clampI (-32768) 32767 (orientation m + slack ws 0x0D))
  | 0x10 => some (ratio ((recWord ws 19).toNat * 65536) a)
  | 0x11 => some (ratio ((recWord ws 20).toNat * 65536) a)
  | 0x12 => some (ratio ((recWord ws 21).toNat * 65536) a)
  | 0x13 => some (ratio ((recWord ws 22).toNat * 65536) a)
  | 0x14 => some (bits w 31 16)
  | 0x15 => some (bits w 43 40)
  | 0x16 => some (bits w 15 0)
  | 0x17 => some (bits (recWord ws 10) 63 48)
  | _ => none

/-! ### Feature maps (R384, R389) -/

/-- Address of word k of the feature map of view v. -/
def fmapAddr (v k : Nat) : Nat := 0x20081000 + 0x100 * v + 8 * k

/-- The fields of two feature map entries; reserved bits read 0. -/
def fmapMask : Word := 0xDF7F00FFDF7F00FF

/-- Entry f of the feature map of view v. -/
def fmapEntry (s : State) (v f : Nat) : Nat := bits (s.word (fmapAddr v (f / 2)) >>> (32 * (f % 2))) 31 0

/-- The value of a feature for a record (R384). -/
def feature (ws : List Word) (e : Nat) : Int :=
  let sh := e / 2 ^ 16 % 64
  let w := recWord ws (e / 2 ^ 24 % 32)
  match e / 2 ^ 30 with
  | 1 => satS32 (if e.testBit 22 then w.toInt / (2 : Int) ^ sh else ((w.toNat / 2 ^ sh : Nat) : Int))
  | 2 => satS32 ((derived ws (e % 256)).getD 0)
  | _ => 0

/-- A feature map entry names nothing reserved (R389). -/
def entryOk (e : Nat) : Bool :=
  match e / 2 ^ 30 with
  | 1 => decide (e / 2 ^ 24 % 32 ≤ 29)
  | 2 => (derived [] (e % 256)).isSome
  | 3 => false
  | _ => true

/-- RCL.FEATMAP: streams the feature map of a view (R389). -/
def execRclFeatmap (x : XWord) (s : State) : Out :=
  xop 8 0x02 x (fun a s =>
    let good := (List.range 32).all fun k => entryOk (bits (a.w k) 31 0) && entryOk (bits (a.w k) 63 32)
    if (viewTargets s).isNone ∨ !good then .no stBOUNDS s else .form ((List.range 32).map a.w) s) s

/-- What RCL does when it applies a packet. -/
def rclEff (e : Held) (s : State) : State :=
  if e.pkt.op = 2 then
    (List.range 32).foldl (fun s k => s.putWord Reg.FeatMap.FENTRY e.pkt.stream (2 * k) (e.pkt.words.getD k 0 &&& fmapMask)) s
  else s

/-! ### Model areas (R390 to R392) -/

/-- Model area k. -/
def modelOf (s : State) (k : Nat) : Model := Tbl.get (fun _ => {}) s.recs.models k

/-- The valid model area with the latest first epoch not later than an epoch; of equal ones, the one loaded last (R390). -/
def modelFor (s : State) (e : Nat) : Option Nat :=
  let ok := fun k => s.rd2 Reg.RclGlobal.AVALID 0 k == 1 && epochReached (s.rd2 Reg.RclGlobal.AEPOCH 0 k) e
  let e0 := s.rd2 Reg.RclGlobal.AEPOCH 0 0
  let e1 := s.rd2 Reg.RclGlobal.AEPOCH 0 1
  match ok 0, ok 1 with
  | true, true => if epochLater e0 e1 || (e0 == e1 && decide ((modelOf s 1).ord < (modelOf s 0).ord)) then some 0 else some 1
  | true, false => some 0
  | false, true => some 1
  | false, false => none

/-- EPOCH of an unclassified record. -/
def itemEpoch : RecItem → Option Nat
  | .record ws => some (bits (recWord ws 0) 46 40)
  | .mark _ _ => none

/-- The epochs from a to b. -/
def epochSpan (a b : Nat) : List Nat := (List.range ((b + 128 - a % 128) % 128 + 1)).map fun k => (a + k) % 128

/-- The epochs of records that remain to be classified: those that wait, those of rows in the row store, and those that
rows yet to be processed of an open view may still bring (R390). -/
def epochsToClassify (s : State) : List Nat :=
  s.rd Reg.Cut.EPOCH 0 :: ((s.recs.held ++ s.recs.fifo).filterMap itemEpoch ++ (s.store.filter (·.vs)).map (·.tag.epoch) ++
    (openViews s).flatMap fun v => epochSpan (s.prog 8 0 true v).passed (s.rd Reg.Cut.EPOCH 0))

/-- A model area is inactive: not valid, or no remaining record selects it; and no copy into it is under way. -/
def modelInactive (s : State) (k : Nat) : Bool :=
  (s.rd2 Reg.RclGlobal.AVALID 0 k == 0 || (epochsToClassify s).all fun e => modelFor s e != some k) &&
    s.recs.copies.all fun c => c.area != k

/-- An inactive area. -/
def freeModel (s : State) : Option Nat := [0, 1].find? (modelInactive s)

/-- Word k of a model image. -/
def mdlWord (s : State) (a k : Nat) : Word := s.read64 (a + 8 * k)

/-- Root of tree t in an image. -/
def mdlRoot (s : State) (a t : Nat) : Nat := bits (mdlWord s a (32 + t / 2) >>> (32 * (t % 2))) 17 0

/-- Every path from node n reaches a leaf over at most k internal nodes. -/
def pathsEnd (node : Nat → Word) : Nat → Nat → Bool
  | 0, n => bit (node n) 63
  | k + 1, n =>
    let w := node n
    bit w 63 || (pathsEnd node k (bits w 56 39) && pathsEnd node k (bits w 56 39 + 1))

/-- The checks of R391 on an image. -/
def modelOk (s : State) (a : Nat) : Bool :=
  let w0 := mdlWord s a 0
  let n := bits w0 47 24
  let node := fun k => mdlWord s a (160 + k)
  a % 64 == 0 && extentReads s a 0x500 && bits w0 15 0 == 0x5A46 && bits w0 23 16 == 1 && inRange n 1 262144 &&
    extentReads s a (0x500 + 8 * n) &&
    (crc32c (s.readBytes (a + 0x10) (0x4F0 + 8 * n))).toNat == bits (mdlWord s a 1) 31 0 &&
    ((List.range 256).all fun t => decide (mdlRoot s a t < n)) &&
    ((List.range n).all fun k => if bit (node k) 63 then decide (bits (node k) 7 0 < 0xFE) else decide (bits (node k) 56 39 + 1 < n)) &&
    ((List.range 256).all fun t => pathsEnd node 16 (mdlRoot s a t)) &&
    ((List.range 16).all fun v => let w := mdlWord s a (2 + v); !bit w 63 || decide (bits w 7 0 + bits w 24 16 ≤ 256))

/-- RCL.MODEL: checks an image; it forms when a model area is inactive and waits otherwise, with MLOADPEND 1 (R391, R392). -/
def execRclModel (x : XWord) (s : State) : Out :=
  xop 8 0x01 x (fun a s =>
    if s.seq.xat.mode ≠ 2 ∨ s.seq.xat.target ≠ .views then .no stBOUNDS s
    else if !modelOk s (bits (a.w 0) 47 0) then .no stIMAGE s
    else if (freeModel s).isNone then .hold (s.wr Reg.RclGlobal.MLOADPEND 0 1)
    else .form a.ws s) s

/-- MODEL_WAIT_RESUME: a waiting RCL.MODEL goes on once a model area is inactive (R392). -/
def execModelWaitResume (s : State) : Out :=
  match s.seq.wait with
  | some (8, 1, x) =>
    if (freeModel s).isNone then ok s
    else execRclModel x ({ s with seq := { s.seq with wait := none } }.wr Reg.RclGlobal.MLOADPEND 0 0)
  | _ => ok s

/-- An RCL.MODEL packet reaches RCL: its copy into the inactive area begins; none when no area is inactive (R392). -/
def startModelCopy (p : Pkt) (s : State) : Option State :=
  (freeModel s).map fun k =>
    let late := (openViews s).filter fun v => arrivesLate s { stage := 8, pkt := { p with vs := true, stream := v } }
    let c : ModelCopy := { addr := bits (p.words.getD 0 0) 47 0, epoch := p.value % 128, area := k, cseq := p.cseq, late := late, ord := p.ord }
    { s with recs := { s.recs with copies := s.recs.copies ++ [c] } }

/-- MODEL_COPY_COMPLETE: the oldest copy ends; its area becomes valid from its epoch (R390, R392). -/
def execModelCopyComplete (s : State) : Out :=
  match s.recs.copies with
  | [] => ok s
  | c :: cs =>
    let n := bits (mdlWord s c.addr 0) 47 24
    let m : Model := { forests := (List.range 16).map fun v => mdlWord s c.addr (2 + v), roots := (List.range 256).map (mdlRoot s c.addr),
                       nodes := s.readWords (c.addr + 0x500) n, ord := c.ord }
    let s := { s with recs := { s.recs with copies := cs, models := Tbl.set (fun _ => {}) s.recs.models c.area m } }
    let s := (((s.wr2 Reg.RclGlobal.AVALID 0 c.area 1).wr2 Reg.RclGlobal.AEPOCH 0 c.area c.epoch).wr2 Reg.RclGlobal.ANODES 0 c.area n).wr2
      Reg.RclGlobal.AIDENT 0 c.area (bits (mdlWord s c.addr 1) 63 32)
    ok (c.late.foldl (fun s v => s.setProg 8 0 true v { s.prog 8 0 true v with lateFor := (s.prog 8 0 true v).lateFor ++ [c.cseq] }) (s.evt 8 0 0x05))

/-! ### Classification (R387, R388) -/

/-- The leaf that a tree reaches, and the nodes visited. -/
def runTree (node : Nat → Word) (f : Nat → Int) : Nat → Nat → Word × Nat
  | 0, n => (node n, 1)
  | k + 1, n =>
    let w := node n
    if bit w 63 then (w, 1)
    else
      let l := bits w 56 39
      let r := runTree node f k (if f (bits w 62 57) ≤ signed 32 (bits w 31 0) then l else l + 1)
      (r.1, r.2 + 1)

/-- The sum of WEIGHT over the leaves of class c, WS(c). -/
def classWeight (ls : List Word) (c : Nat) : Nat := ((ls.filter fun w => bits w 7 0 == c).map fun w => bits w 47 32).sum

/-- The class with the highest WS, ties to the lower. -/
def winner (ls : List Word) : Nat :=
  (List.range 254).foldl (fun b c => if classWeight ls b < classWeight ls c then c else b) 0

/-- Words 30 and 31 of a record, and tree nodes evaluated. -/
def classWords (s : State) (v : Nat) (ws : List Word) : Word × Word × Nat :=
  match modelFor s (bits (recWord ws 0) 46 40) with
  | none => (fld 0xFF 8 56, 0, 0)
  | some k =>
    let m := modelOf s k
    let fw := m.forests.getD v 0
    let ident := s.rd2 Reg.RclGlobal.AIDENT 0 k
    let node := fun n => m.nodes.getD n 0
    let f := fun n => feature ws (fmapEntry s v n)
    let ts := if bit fw 63 then (List.range (bits fw 24 16)).map fun t => runTree node f 16 (m.roots.getD (bits fw 7 0 + t) 0) else []
    let ls := ts.map (·.1)
    let tot := (ls.map fun w => bits w 47 32).sum
    let c := winner ls
    let win := classWeight ls c
    let conf := if tot = 0 then 0 else 255 * win / tot
    let grades := ((ls.filter fun w => bits w 7 0 == c).map fun w => bits w 47 32 * bits w 15 8).sum
    let un := tot = 0 ∨ conf < bits fw 47 40
    (fld (if un then 0xFF else c) 8 56 ||| fld (if un then 0 else (2 * grades + win) / (2 * win)) 8 48 ||| fld conf 8 40 ||| fld ident 32 0,
     fld tot 32 32 ||| fld win 32 0, (ts.map (·.2)).sum)

/-- A record with its class; JOIN records are not evaluated (R388). -/
def classify (s : State) (ws : List Word) : List Word × Nat :=
  if bits (recWord ws 0) 63 60 = rkJOIN then ((ws.set 30 (fld 0xFE 8 56)).set 31 0, 0)
  else
    let r := classWords s (bits (recWord ws 0) 58 55) ws
    ((ws.set 30 r.1).set 31 r.2.1, r.2.2)

/-- DLG holds a record that it has not written. -/
def dlgHolds (s : State) : Bool := s.recs.toDlg.any fun i => (itemEpoch i).isSome

/-- A record waits for a model copy of its epoch or an earlier one (R392). -/
def waitsModel (s : State) (ws : List Word) : Bool := s.recs.copies.any fun c => epochReached c.epoch (bits (recWord ws 0) 46 40)

/-- RECORD_CLASSIFY: RCL takes the oldest record, applies the packets that its formation row meets, classifies it and
passes it on (R375, R387 to R390). -/
def execRecordClassify (s : State) : Out :=
  match s.recs.fifo with
  | .record ws :: rest =>
    if dlgHolds s ∨ waitsModel s ws then ok s
    else
      let w0 := recWord ws 0
      let v := bits w0 58 55
      let s := (s.evt 8 v 0x01).evt 8 v 0x02
      let s := stageRow rclEff 8 0 true v (bits w0 39 0) (recInt ws 1) (bits w0 46 40) s
      let r := classify s ws
      let join := bits w0 63 60 = rkJOIN
      let s := { s with recs := { s.recs with fifo := rest, toDlg := s.recs.toDlg ++ [RecItem.record r.1] } }
      let s := if join then s.sat Reg.RclView.LINKCNT v 1
        else ((s.sat Reg.RclView.CLSCNT v 1).sat Reg.RclView.UNCLCNT v (b2n (bits (recWord r.1 30) 63 56 == 0xFF))).evt 8 v 0x40
      ok (showFifo (s.evt 8 v 0x41 r.2))
  | _ => ok s

/-- RCL's wait has outlasted its timeout: the record at its head goes to the Sump (R393). -/
def divertAtRcl (s : State) : State :=
  match s.recs.fifo with
  | .record ws :: rest =>
    if dlgHolds s then showFifo (divertRecord 0x08 8 Reg.RclView.DIVCNT (bits (recWord ws 0) 58 55) ws { s with recs := { s.recs with fifo := rest } }) else s
  | _ => s

/-- The mark at RCL's head passes its apply-at points and goes on to DLG (R630). -/
def passMark (eff : Held → State → State) (stage v : Nat) (k : MarkKind) (s : State) : State :=
  match k with
  | .row l p e => stageRow eff stage 0 true v l p e s
  | .gap l rows => stageGap eff stage 0 true v l rows s
  | .stop => stageStop eff stage 0 true v s

/-- A mark reaches RCL (R630). -/
def markAtRcl (s : State) : State :=
  match s.recs.fifo with
  | .mark v k :: rest => passMark rclEff 8 v k { s with recs := { s.recs with fifo := rest, toDlg := s.recs.toDlg ++ [.mark v k] } }
  | _ => s

/-- Clear the counters of an RCL view. -/
def rclCntOne (v : Nat) (s : State) : State := s.clr v [Reg.RclView.CLSCNT, Reg.RclView.UNCLCNT, Reg.RclView.DIVCNT, Reg.RclView.LINKCNT]

end Sys2Proof.Machine
end

