-- ==== Sys2Proof/Machine/Inflate.lean ====
section
/-!
DEFINITION. Decoding a raw DEFLATE stream (RFC 1951), as CMP does it (R425): stored, fixed and dynamic blocks in any
order and any valid code, and never a reference before the start of the output.
-/
namespace Sys2Proof.Machine

/-- Bits of bytes, in the order of RFC 1951: least significant bit first. -/
def bitsOf (bs : List Byte) : List Bool := bs.flatMap fun b => (List.range 8).map b.getLsbD

/-- The next n bits as a number, least significant first. -/
def takeBits : Nat → List Bool → Option (Nat × List Bool)
  | 0, bs => some (0, bs)
  | _ + 1, [] => none
  | n + 1, b :: bs => (takeBits n bs).map fun r => (b2n b + 2 * r.1, r.2)

/-- A set of prefix codes: the code length of each symbol, 0 for an unused one. -/
abbrev Codes := List Nat

/-- Symbols of a code length, in increasing order. -/
def Codes.ofLen (c : Codes) (n : Nat) : List Nat := (c.zipIdx.filter fun e => e.1 == n).map (·.2)

/-- Codes left unassigned at 15 bits, negative when the lengths ask for too many. -/
def Codes.slack (c : Codes) : Int := (2 ^ 15 : Int) - ((c.map fun n => if n = 0 then 0 else 2 ^ (15 - n)).sum : Nat)

/-- A set of codes is valid: complete, or with at most one code (RFC 1951, 3.2.7). -/
def Codes.valid (c : Codes) : Bool := c.slack == 0 || (decide (0 ≤ c.slack) && decide (c.countP (· != 0) ≤ 1))

/-- Decode one symbol, trying lengths from `len` upward; `code` is what has been read, `first` the first code of the
length before. -/
def Codes.walk (c : Codes) : Nat → Nat → Nat → Nat → List Bool → Option (Nat × List Bool)
  | 0, _, _, _, _ => none
  | _ + 1, _, _, _, [] => none
  | fuel + 1, len, code, first, b :: bs =>
    let code := 2 * code + b2n b
    let syms := c.ofLen len
    if first ≤ code ∧ code < first + syms.length then some (syms.getD (code - first) 0, bs)
    else c.walk fuel (len + 1) code (2 * (first + syms.length)) bs

/-- Decode one symbol. -/
def Codes.next (c : Codes) (bs : List Bool) : Option (Nat × List Bool) := c.walk 15 1 0 0 bs

/-- Base lengths of symbols 257 to 285. -/
def lenBase : List Nat :=
  [3, 4, 5, 6, 7, 8, 9, 10, 11, 13, 15, 17, 19, 23, 27, 31, 35, 43, 51, 59, 67, 83, 99, 115, 131, 163, 195, 227, 258]

/-- Extra bits of symbols 257 to 285. -/
def lenExtra : List Nat := [0, 0, 0, 0, 0, 0, 0, 0, 1, 1, 1, 1, 2, 2, 2, 2, 3, 3, 3, 3, 4, 4, 4, 4, 5, 5, 5, 5, 0]

/-- Base distance of a distance symbol 0 to 29. -/
def distBase (n : Nat) : Nat := if n < 4 then n + 1 else 1 + (2 + n % 2) * 2 ^ (n / 2 - 1)

/-- Extra bits of a distance symbol. -/
def distExtra (n : Nat) : Nat := n / 2 - 1

/-- Copy n bytes from a distance back; the output is held newest first. -/
def copyBack (d : Nat) : Nat → List Byte → List Byte
  | 0, out => out
  | n + 1, out => copyBack d n (out.getD (d - 1) 0 :: out)

/-- What decoding a part of a stream leaves: the bits that remain, or none where the stream is not valid, the output, newest byte
first, and the symbols met, newest first, a distance symbol z as 286 + z. -/
abbrev Decoded := Option (List Bool) × List Byte × List Nat

/-- Decode literals and matches up to the end of a block. -/
def symbols (lit dist : Codes) : Nat → List Bool → List Byte → List Nat → Decoded
  | 0, _, out, us => (none, out, us)
  | fuel + 1, bs, out, us =>
    match lit.next bs with
    | none => (none, out, us)
    | some (y, bs) =>
      if y < 256 then symbols lit dist fuel bs (BitVec.ofNat 8 y :: out) (y :: us)
      else if y = 256 then (some bs, out, y :: us)
      else
        let m := do
          let (e, bs) ← takeBits (lenExtra.getD (y - 257) 0) bs
          let (z, bs) ← dist.next bs
          let (f, bs) ← takeBits (distExtra z) bs
          pure (lenBase.getD (y - 257) 0 + e, z, distBase z + f, bs)
        match m with
        | none => (none, out, us)
        | some (n, z, d, bs) =>
          if 285 < y ∨ 29 < z ∨ out.length < d then (none, out, us) else symbols lit dist fuel bs (copyBack d n out) ((286 + z) :: y :: us)

/-- The fixed literal and length codes. -/
def fixedLit : Codes := List.replicate 144 8 ++ List.replicate 112 9 ++ List.replicate 24 7 ++ List.replicate 8 8

/-- The fixed distance codes. -/
def fixedDist : Codes := List.replicate 30 5 ++ [5, 5]

/-- The order of the code length codes in a dynamic block. -/
def clOrder : List Nat := [16, 17, 18, 0, 8, 7, 9, 6, 10, 5, 11, 4, 12, 3, 13, 2, 14, 1, 15]

/-- Read n three-bit lengths. -/
def readThrees : Nat → List Bool → Option (List Nat × List Bool)
  | 0, bs => some ([], bs)
  | n + 1, bs => do
    let (v, bs) ← takeBits 3 bs
    let (vs, bs) ← readThrees n bs
    pure (v :: vs, bs)

/-- Read code lengths until `want` of them stand; a repeat may not pass the end. -/
def readLens (cl : Codes) (want : Nat) : Nat → List Nat → List Bool → Option (List Nat × List Bool)
  | 0, _, _ => none
  | fuel + 1, got, bs =>
    if want ≤ got.length then (if got.length = want then some (got, bs) else none)
    else do
      let (y, bs) ← cl.next bs
      if y < 16 then readLens cl want fuel (got ++ [y]) bs
      else if y = 16 then
        let (r, bs) ← takeBits 2 bs
        let v ← got.getLast?
        readLens cl want fuel (got ++ List.replicate (3 + r) v) bs
      else
        let (r, bs) ← takeBits (if y = 17 then 3 else 7) bs
        readLens cl want fuel (got ++ List.replicate ((if y = 17 then 3 else 11) + r) 0) bs

/-- The codes of a dynamic block. -/
def dynamicCodes (bs : List Bool) : Option (Codes × Codes × List Bool) := do
  let (hlit, bs) ← takeBits 5 bs
  let (hdist, bs) ← takeBits 5 bs
  let (hclen, bs) ← takeBits 4 bs
  let (vs, bs) ← readThrees (hclen + 4) bs
  let cl : Codes := (List.range 19).map fun y => ((clOrder.zip vs).find? fun e => e.1 == y).elim 0 (·.2)
  if !cl.valid || decide (29 < hlit ∨ 29 < hdist) then none
  else
    let (ls, bs) ← readLens cl (hlit + hdist + 258) 400 [] bs
    let lit : Codes := ls.take (hlit + 257)
    let dist : Codes := ls.drop (hlit + 257)
    if lit.valid && dist.valid && lit.getD 256 0 != 0 then some (lit, dist, bs) else none

/-- Decode a stored block that stands at bit offset `at_` of the stream. -/
def storedBlock (at_ : Nat) (bs : List Bool) (out : List Byte) : Decoded :=
  let m := do
    let (_, bs) ← takeBits ((8 - at_ % 8) % 8) bs
    let (n, bs) ← takeBits 16 bs
    let (c, bs) ← takeBits 16 bs
    pure (n, c, bs)
  match m with
  | none => (none, out, [])
  | some (n, c, bs) =>
    if n + c ≠ 65535 then (none, out, [])
    else
      let k := min n (bs.length / 8)
      let data := (List.range k).map fun i => BitVec.ofNat 8 (((List.range 8).map fun j => b2n (bs.getD (8 * i + j) false) * 2 ^ j).sum)
      (if k = n then some (bs.drop (8 * n)) else none, data.reverse ++ out, [])

/-- A block as met: BTYPE, bytes that it gave, and whether it codes every symbol (R418). -/
structure Block where
  /-- BTYPE. -/
  btype : Nat
  /-- Bytes of output. -/
  bytes : Nat
  /-- Bits that it took, its header among them. -/
  bits : Nat
  /-- Every literal, length and distance symbol has a code. -/
  full : Bool
  /-- Code lengths of the 286 literal and length symbols and the 30 distance symbols of a dynamic block that codes them all. -/
  lens : List Nat
  /-- The symbols met in it. -/
  used : List Nat
  deriving DecidableEq, Repr

/-- What a stream decodes to. -/
structure Inflated where
  /-- The stream is valid up to the end of its last block. -/
  ok : Bool
  /-- The output. -/
  out : List Byte
  /-- The blocks met. -/
  blocks : List Block
  /-- Bits after the last block. -/
  rest : Nat
  deriving DecidableEq, Repr

/-- Decode blocks until the last one. `total` is the number of bits of the stream. -/
def inflateFrom (total : Nat) : Nat → List Bool → List Byte → List Block → Inflated
  | 0, _, out, bks => ⟨false, out.reverse, bks, 0⟩
  | fuel + 1, bs, out, bks =>
    match (do let (f, bs) ← takeBits 1 bs; let (t, bs) ← takeBits 2 bs; pure (f, t, bs)) with
    | none => ⟨false, out.reverse, bks, 0⟩
    | some (f, t, bs) =>
      let start := bs.length + 3
      let r : Decoded × Bool × List Nat :=
        if t = 0 then (storedBlock (total - bs.length) bs out, true, [])
        else if t = 1 then (symbols fixedLit fixedDist (bs.length + 1) bs out [], true, [])
        else if t = 2 then
          match dynamicCodes bs with
          | none => ((none, out, []), false, [])
          | some (lit, dist, bs) =>
            let all := decide (lit.length = 286 ∧ dist.length = 30) && !(lit ++ dist).contains 0
            (symbols lit dist (bs.length + 1) bs out [], all, if all then lit ++ dist else [])
        else ((none, out, []), false, [])
      let now := r.1.2.1
      let bks := bks ++ [⟨t, now.length - out.length, start - (r.1.1.getD []).length, r.2.1, r.2.2, r.1.2.2⟩]
      match r.1.1 with
      | none => ⟨false, now.reverse, bks, 0⟩
      | some bs => if f = 1 then ⟨true, now.reverse, bks, bs.length⟩ else inflateFrom total fuel bs now bks

/-- Decode a raw DEFLATE stream. -/
def inflate (bs : List Byte) : Inflated :=
  let b := bitsOf bs
  inflateFrom b.length (b.length + 1) b [] []

/-- One step of the CRC-32 of RFC 1952 (reflected polynomial 0xEDB88320) over one bit. -/
def crc32Bit (c : BitVec 32) : BitVec 32 := if c.getLsbD 0 then (c >>> 1) ^^^ 0xEDB88320 else c >>> 1

/-- CRC-32 register after one byte. -/
def crc32Byte (c : BitVec 32) (b : Byte) : BitVec 32 :=
  crc32Bit (crc32Bit (crc32Bit (crc32Bit (crc32Bit (crc32Bit (crc32Bit (crc32Bit (c ^^^ b.setWidth 32))))))))

/-- CRC-32 of RFC 1952 of a byte string (Table 12-7). -/
def crc32 (bs : List Byte) : BitVec 32 := ~~~(bs.foldl crc32Byte 0xFFFFFFFF)

end Sys2Proof.Machine
end

