-- ==== Sys2Proof/Machine/Cascade.lean ====
section
/-!
DEFINITION. The half-band cascade of an overview stream over plain data (R430 to R432).
-/
namespace Sys2Proof.Machine

/-- A stage of the cascade: its taps h1, h3, … of which there are NH, and its shift. -/
structure Stage where
  /-- h1, h3, …, h(2NH − 1). -/
  taps : List Int
  /-- SHIFT. -/
  shift : Int

/-- One output of a stage centred on input index c, and whether it was clamped (R430). -/
def halfBand (t : Stage) (x : Int → Nat) (c : Int) : Nat × Bool :=
  let side := (t.taps.zipIdx.map fun h => h.1 * ((x (c - (2 * h.2 + 1)) : Int) + x (c + (2 * h.2 + 1)))).sum
  let acc : Int := 8192 * x c + side
  let k := (14 + t.shift).toNat
  let y := (acc + 2 ^ (k - 1)) / 2 ^ k
  ((clampI 0 65535 y).toNat, decide (y < 0 ∨ 65535 < y))

/-- Inputs on either side that the outputs of a list of stages reach: their group delay (R432). -/
def reachOf : List Stage → Nat
  | [] => 0
  | t :: ts => (2 * t.taps.length - 1) + 2 * reachOf ts

/-- Integers lo to hi. -/
def intRange (lo hi : Int) : List Int := (List.range (hi - lo + 1).toNat).map fun (k : Nat) => lo + (k : Int)

/-- Reduction across the web: `w` outputs of the last stage, and the samples clamped within the row (R431). -/
def across (w : Nat) : List Stage → (Int → Nat) → List Nat × Nat
  | [], x => ((List.range w).map fun (k : Nat) => x (k : Int), 0)
  | t :: ts, x =>
    let e : Int := reachOf ts
    let n : Nat := w * 2 ^ ts.length
    let ys := (intRange (-e) ((w - 1 : Int) * 2 ^ ts.length + e)).map fun i => (i, halfBand t x (2 * i))
    let arr := (ys.map fun y => y.2.1).toArray
    let sat := ys.countP fun y => y.2.2 && decide (0 ≤ y.1 ∧ y.1 < (n : Int))
    let r := across w ts fun i => arr.getD (i + e).toNat 0
    (r.1, r.2 + sat)

/-- One row of a stage centred on input row c, column by column, and the samples clamped. -/
def bandRow (t : Stage) (w : Nat) (x : Int → List Nat) (c : Int) : List Nat × Nat :=
  let ys := (List.range w).map fun k => halfBand t (fun i => (x i).getD k 0) c
  (ys.map (·.1), ys.countP (·.2))

/-- Reduction along the web: output row m, and the samples clamped in the stage rows that no earlier output row has
needed. -/
def along (w : Nat) (m : Nat) : List Stage → (Int → List Nat) → List Nat × Nat
  | [], x => (x m, 0)
  | t :: ts, x =>
    let e : Int := reachOf ts
    let q : Int := (2 : Int) ^ ts.length
    let lo := (m : Int) * q - e
    let seen : Int := if m = 0 then -1 else ((m : Int) - 1) * q + e
    let ys := (intRange lo ((m : Int) * q + e)).map fun i => (i, bandRow t w x (2 * i))
    let arr := (ys.map fun y => y.2.1).toArray
    let sat := (ys.map fun y => if seen < y.1 then y.2.2 else 0).sum
    let r := along w m ts fun i => arr.getD (i - lo).toNat []
    (r.1, r.2 + sat)

/-- Source rows that the taps of a list of stages read for output row m (R434). -/
def rowsRead (m : Int) : List Stage → List Int
  | [] => [m]
  | t :: ts =>
    ((rowsRead m ts).flatMap fun i => 2 * i :: (List.range t.taps.length).flatMap fun (k : Nat) =>
      [2 * i - (2 * (k : Int) + 1), 2 * i + (2 * (k : Int) + 1)]).eraseDups

end Sys2Proof.Machine
end

