-- ==== Sys2Proof/Machine/Ledger.lean ====
section
/-!
DEFINITION. DLG: ledger records, the DRAM ring and its readers, collection and contacts, markers (R221 to R229, R395 to
R412, R516).
-/
namespace Sys2Proof.Machine

/-! ### The ring (R403, R404) -/

/-- Entries of the ring. -/
def ringSize (s : State) : Nat := 2 ^ s.rd Reg.Ledger.LOG2N 0

/-- Address of entry n. -/
def ringAddr (s : State) (n : Nat) : Nat := s.rd Reg.Ledger.LBASE 0 + 128 * (n % ringSize s)

/-- Indices of the enabled readers. -/
def ringReaders (s : State) : List Nat :=
  let en := s.rd Reg.Ledger.RDEN 0
  (if en.testBit 0 then [s.rd Reg.Ledger.LRD0 0] else []) ++ (if en.testBit 1 then [s.rd Reg.Ledger.LRD1 0] else []) ++
    (if en.testBit 2 then [(s.read64 (s.rd Reg.Ledger.LBASE 0 + 128 * ringSize s)).toNat] else [])

/-- Free entries: 2^LOG2N − (LWP − the lowest reader index). -/
def ringFree (s : State) : Int :=
  match ringReaders s with
  | [] => ringSize s
  | r :: rs => (ringSize s : Int) - ((s.rd Reg.Ledger.LWP 0 : Int) - (rs.foldl min r : Nat))

/-- The ring lies in DRAM that can be reached. -/
def ringUp (s : State) : Bool := s.inDram (s.rd Reg.Ledger.LBASE 0) (128 * ringSize s + 8)

/-- A SKIND of Table 1-9 whose spans reach the ledger. -/
def ledgerKind (k : Nat) : Bool := inRange k 1 9 || k == 0x10

/-- A coverage record waits for the ring: a closed span or a totaliser of a ledger kind (R404). -/
def coverageReady (s : State) : Bool :=
  (s.sump.spans.any fun e => e.2.valid && e.2.closed && ledgerKind e.2.skind) ||
    (List.range 0x11).any fun k => ledgerKind k && s.rd2 Reg.Ledger.TSPANS 0 k != 0

/-- The ring takes a record: one entry free for coverage; for others more than LRESV, and no coverage record ready, which goes first
(R404). -/
def ringTakes (s : State) (coverage : Bool) : Bool :=
  ringUp s && (if coverage then decide (1 ≤ ringFree s) else decide ((s.rd Reg.Ledger.LRESV 0 : Int) < ringFree s) && !coverageReady s)

/-- Write a record into the ring. -/
def ringWrite (ws : List Word) (s : State) : State :=
  (s.put (ringAddr s (s.rd Reg.Ledger.LWP 0)) (wordsBytes ws)).wr Reg.Ledger.LWP 0 (s.rd Reg.Ledger.LWP 0 + 1)

/-- The ID that the device's next record takes (R395). -/
def nextId (s : State) : Word := fld (s.rd Reg.Wlk.NODE 0) 14 50 ||| fld (s.rd Reg.Ledger.DSEQNEXT 0) 50 0

/-- Number a record of the device and write it (R396). -/
def writeOwn (ws : List Word) (s : State) : State :=
  (ringWrite (nextId s :: ws.drop 1) s).wr Reg.Ledger.DSEQNEXT 0 (s.rd Reg.Ledger.DSEQNEXT 0 + 1)

/-! ### Defect, straw and join records (R398 to R400) -/

/-- Signed saturation to 64 bits. -/
def satS64 (x : Int) : Int := clampI (-(2 ^ 63)) (2 ^ 63 - 1) x

/-- Ledger Y of a POS of view v. -/
def ledgerY (s : State) (v : Nat) (y : Int) : Word := BitVec.ofInt 64 (satS64 (y + s.rdI Reg.DlgView.LYOFS v))

/-- Ledger X of an X of view v, in 32 bits. -/
def ledgerX (s : State) (v : Nat) (x : Int) : Nat := low 32 (satS32 (x + s.rdI Reg.DlgView.LXOFS v))

/-- The contact word of a side: validity, first and last contact row less LSEQFIRST. -/
def contactWord (first a b : Word) : Word :=
  let d := fun (w : Word) => (bits w 39 0 + 2 ^ 40 - bits first 39 0) % 2 ^ 40
  if bit a 63 then fld 1 1 63 ||| fld (d a) 25 25 ||| fld (d b) 25 0 else 0

/-- The record of RTYPE 1 to 3 formed from a classified region record, without its ID (Table 12-2). -/
def defectRecord (s : State) (dflags : Nat) (r : List Word) : List Word :=
  let w := recWord r
  let v := bits (w 0) 58 55
  let join := bits (w 0) 63 60 = rkJOIN
  let a := recArea r
  [0, fld (bits (w 0) 63 60) 4 60 ||| fld v 4 56 ||| fld (bits (w 9) 47 47) 1 55 ||| fld (bits (w 0) 46 40) 7 48 |||
      fld (bits (w 30) 63 56) 8 40 ||| fld (bits (w 30) 55 48) 8 32 ||| fld (bits (w 30) 47 40) 8 24 ||| fld (bits (w 9) 43 40) 4 20 |||
      fld dflags 4 16 ||| fld (bits (w 9) 15 0) 16 0,
   ledgerY s v (w 2).toInt, ledgerY s v (w 3).toInt,
   fld (ledgerX s v (signed 32 (bits (w 7) 63 32))) 32 32 ||| fld (ledgerX s v (recXmin r)) 32 0, w 4,
   fld (bits (w 9) 63 48) 16 48 ||| fld (bits (w 8) 47 0) 48 0, if join then fld (bits (w 29) 47 0) 48 0 else w 11,
   if join then 0 else w 12, fld (bits (w 10) 40 20) 21 40 ||| fld (bits (w 5) 39 0) 40 0,
   fld (bits (w 10) 63 48) 16 48 ||| fld (bits (w 6) 39 0) 40 0,
   fld (ratio ((w 13).toNat * 65536) a).toNat 32 32 ||| fld (bits (w 23) 63 48) 16 16 ||| fld (bits (w 23) 47 32) 16 0,
   fld (bits (w 9) 31 16) 16 48 ||| fld (bits (w 30) 31 0) 32 0, contactWord (w 5) (w 25) (w 26), contactWord (w 5) (w 27) (w 28),
   fld (s.rd Reg.WlkEdge.LNODE v) 14 50 ||| fld (s.rd Reg.WlkEdge.RNODE v) 14 36]

/-! ### Coverage records (R401, R402) -/

/-- X of a head column, to the nearest X-unit (log entry 34). -/
def headX (s : State) (v h u : Nat) : Int :=
  let m := (membersOf s v).idxOf h
  roundAway ((geoOf s h (shiftOf s v m)).x (1024 * u)) (2 ^ 149)

/-- VIEW, XMIN and XMAX of a source; none when no view has it (R402). -/
def coverageX (s : State) (src : Nat) : Option (Nat × Int × Int) :=
  if src < 0x20 then
    (viewOf s src).map fun v =>
      let a := headX s v src 0
      let b := headX s v src (s.rd Reg.Head.HW src - 1)
      (v, min a b, max a b)
  else if src < 0x30 then
    let v := src - 0x20
    some (v, s.rdI Reg.View.XORG v, s.rdI Reg.View.XORG v + (s.rd Reg.View.NCOL v - 1 : Int) * s.rd Reg.View.XPITCH v)
  else none

/-- A GAP or HGAP record without its ID (Table 12-3). -/
def coverageRecord (s : State) (src skind dflags lseq : Nat) (y0 y1 : Int) (rows spans : Nat) : List Word :=
  let c := coverageX s src
  let y := fun (p : Int) => match c with | some q => ledgerY s q.1 p | none => BitVec.ofInt 64 p
  let x := match c with
    | some q => fld (ledgerX s q.1 q.2.2) 32 32 ||| fld (ledgerX s q.1 q.2.1) 32 0
    | none => fld 0x7FFFFFFF 32 32 ||| fld 0x80000000 32 0
  [0, fld (if skind = 0x10 then 5 else 4) 4 60 ||| fld ((c.map (·.1)).getD 0) 4 56 ||| fld (b2n c.isSome) 1 55 ||| fld skind 8 40 |||
      fld src 7 32 ||| fld dflags 4 16, y y0, y y1, x, BitVec.ofNat 64 s.pt, fld lseq 40 0, BitVec.ofNat 64 rows, BitVec.ofNat 64 spans,
   0, 0, 0, 0, 0, 0, 0]

/-- A GAP record of a source has been written: views that it bears on are not live for LIVEHOLD ms (R568). -/
def holdLive (src skind : Nat) (s : State) : State :=
  if skind = 0x10 ∨ 0x30 ≤ src ∨ s.rd Reg.Pba.LIVEHOLD 0 = 0 then s
  else { s with dlg := { s.dlg with gapSrcs := src :: s.dlg.gapSrcs.filter (· != src) } }

/-- Write a coverage record. -/
def writeCoverage (src skind dflags lseq : Nat) (y0 y1 : Int) (rows spans : Nat) (s : State) : State :=
  holdLive src skind ((writeOwn (coverageRecord s src skind dflags lseq y0 y1 rows spans) s).evt 9 0 (if skind = 0x10 then 0x42 else 0x41))

/-- A key enters a window of 256 (R408). -/
def keyWindow {α : Type} (k : α) (l : List α) : List α := (k :: l).take 256

/-- Keys of spans of a source. -/
def spanKeys (s : State) (src : Nat) : List (List Int) := Tbl.get (fun _ => []) s.dlg.spanKeys src

/-- Empty entry n of the Sump table. -/
def dropSpan (n : Nat) (s : State) : State := s.setSpan n {}

/-- DLG takes a closed span: it discards a duplicate, writes a record when the ring has room, and leaves the span where it
is otherwise (R55, R401, R404, R408). -/
def dlgTakesSpan (n : Nat) (s : State) : State :=
  let e := s.span n
  let key : List Int := [e.skind, e.lseqFirst, e.yFirst]
  if (spanKeys s e.src).contains key then dropSpan n ((s.sat Reg.Ledger.DUPCNT 0 1).evt 9 0 0x07)
  else if !ringTakes s true then s
  else
    let s := { s with dlg := { s.dlg with spanKeys := Tbl.set (fun _ => []) s.dlg.spanKeys e.src (keyWindow key (spanKeys s e.src)) } }
    dropSpan n (writeCoverage e.src e.skind 0 e.lseqFirst e.yFirst e.yLast e.rows 1 s)

/-- What a totaliser holds has been reported (R56). -/
def clearTotal (k : Nat) (s : State) : State :=
  (((s.wr2 Reg.Ledger.TROWS 0 k 0).wr2 Reg.Ledger.TSPANS 0 k 0).wr2 Reg.Ledger.TYMIN 0 k 0).wr2 Reg.Ledger.TYMAX 0 k 0

/-- DLG reports a totaliser (R56, R401, R402). -/
def dlgTakesTotal (k : Nat) (s : State) : State :=
  if !ringTakes s true then s
  else clearTotal k (writeCoverage 0x7F k 8 0 (s.rdI2 Reg.Ledger.TYMIN 0 k) (s.rdI2 Reg.Ledger.TYMAX 0 k) (s.rd2 Reg.Ledger.TROWS 0 k)
    (s.rd2 Reg.Ledger.TSPANS 0 k) s)

/-! ### Markers (R221 to R226) -/

/-- A marker's conditions on a classified region record (R221). -/
def marks (s : State) (r : List Word) (m : Nat) : Bool :=
  let w := recWord r
  let x0 := recXmin r
  let x1 := signed 32 (bits (w 7) 63 32)
  s.on Reg.Marker.EN m && s.rd Reg.Marker.VIEW m == bits (w 0) 58 55 && s.rd2 Reg.Marker.CLASSMASK m (bits (w 30) 63 56) == 1 &&
    decide (s.rd Reg.Marker.GRADEMIN m ≤ bits (w 30) 55 48) && decide (x0 ≤ s.rdI Reg.Marker.XHI m ∧ s.rdI Reg.Marker.XLO m ≤ x1) &&
    (bits (w 0) 63 60 != rkSTRAW || s.on Reg.Marker.MSTRAW m)

/-- Marks fall due on a marker at one instant (R225); in reset the outputs are inactive (R3). -/
def fireMarks (m n : Nat) (s : State) : State :=
  if !s.up then s
  else if Tbl.get (fun _ => false) s.markPins m then (s.evt 9 m 0x43 n).sat Reg.Marker.MERGECNT m n
  else (({ s with markPins := Tbl.set (fun _ => false) s.markPins m true }.evt 9 m 0x43 n).sat Reg.Marker.FIRECNT m 1).emit (384 + m)

/-- PENDING shows the marks that are pending. -/
def showMarks (s : State) : State := s.wr Reg.MarkerGlobal.PENDING 0 s.marks.length

/-- Schedule a mark on marker m; whether it was scheduled (R222 to R224). -/
def scheduleMark (m : Nat) (y : Int) (s : State) : State × Bool :=
  let f := y + s.rdI Reg.Marker.MOFS m
  let d := if s.on Reg.Marker.MDIR m then f - s.pos else s.pos - f
  if 65536 ≤ s.marks.length then ((s.sat Reg.MarkerGlobal.MKFULLCNT 0 1).wr Reg.Marker.MKFULL m 1, false)
  else if s.rd Reg.MarkerGlobal.MLATE 0 < d then (s.sat Reg.Marker.MISSCNT m 1, false)
  else if 0 ≤ d then (fireMarks m 1 s, true)
  else (showMarks { s with marks := s.marks ++ [{ marker := m, fire := f }] }, true)

/-- Schedule the marks of a record; DFLAGS MARKED and MKLOST (R221, R226, Table 12-5). -/
def scheduleMarks (r : List Word) (s : State) : State × Nat :=
  let ms := (List.range 16).filter (marks s r)
  if ms.isEmpty then (s, 0)
  else if !s.wpValid then (s.sat Reg.MarkerGlobal.MKLOSTCNT 0 ms.length, 4)
  else
    let p := ms.foldl (fun (p : State × Bool) m => let q := scheduleMark m (recWord r 2).toInt p.1; (q.1, p.2 || q.2)) (s, false)
    (p.1, if p.2 then 2 else 0)

/-- MARK_FIRE: every pending mark of marker m whose fire point POS has reached falls due (R222, R225). -/
def execMarkFire (m : Nat) (s : State) : Out :=
  within m 16 <|
    let due := fun (k : Mark) => k.marker == m && reaches (s.rd Reg.Marker.MDIR m) s.pos k.fire
    let n := s.marks.countP due
    if n = 0 ∨ !s.wpValid then ok s else ok (showMarks (fireMarks m n { s with marks := s.marks.filter fun k => !due k }))

/-- MARK_PULSE_END: MARK[m] goes low (R225). -/
def execMarkPulseEnd (m : Nat) (s : State) : Out :=
  within m 16 <| ok { s with markPins := Tbl.set (fun _ => false) s.markPins m false }

/-- Fields of a marker block that DLG.MARKCFG writes, without MOFS. -/
def markerFields : List Field :=
  [Reg.Marker.EN, Reg.Marker.MDIR, Reg.Marker.MSTRAW, Reg.Marker.VIEW, Reg.Marker.GRADEMIN, Reg.Marker.MPW, Reg.Marker.XLO, Reg.Marker.XHI]

/-- Words 3 to 6 of a marker block, CLASSMASK. -/
def maskAddr (m k : Nat) : Nat := 0x20094018 + 0x40 * m + 8 * k

/-- DLG.MARKCFG: writes a marker block; while EN is 1 only a change of MOFS is taken (R229). -/
def execDlgMarkcfg (x : XWord) (s : State) : Out :=
  direct 9 0x01 16 x (fun a s =>
    let base := 0x20094000
    let val := fun f => blockVal base a s f a.i
    let masks := (List.range 4).filter fun k => 3 + k < a.ws.length
    let changes := markerFields.any (fun f => val f != s.rd f a.i) || masks.any fun k => a.w (3 + k) != s.word (maskAddr a.i k)
    if 7 < a.ws.length ∨ val Reg.Marker.MPW = 0 then .error stBOUNDS
    else if s.on Reg.Marker.EN a.i ∧ changes = true then .error stBUSY
    else
      let s := blockWrite base a a.i 0 (Reg.Marker.MOFS :: markerFields) s
      .ok (masks.foldl (fun s k => s.putWord Reg.Marker.CLASSMASK a.i (64 * k) (a.w (3 + k))) s)) s

/-- DLG.MLATE: sets MLATE (R305). -/
def execDlgMlate (x : XWord) (s : State) : Out :=
  xop 9 0x02 x (fun a s => .fin stOK (s.wr Reg.MarkerGlobal.MLATE 0 (bits (a.w 0) 63 32))) s

/-! ### Settings (R52, R55, R412) -/

/-- DLG.RING: writes the ledger block, or a view block, while no view is open (R412). -/
def execDlgRing (x : XWord) (s : State) : Out :=
  xop 9 0x03 x (fun a s =>
    let lb := 0x20090000
    let val := fun f => blockVal lb a s f 0
    if !(openViews s).isEmpty then .no stBUSY s
    else if a.arg % 2 = 1 then
      if 15 < a.i ∨ 2 < a.ws.length then .no stBOUNDS s
      else .fin stOK (blockWrite 0x20090100 a a.i 0 [Reg.DlgView.LYOFS, Reg.DlgView.LXOFS] s)
    else if 4 < a.ws.length ∨ val Reg.Ledger.LBASE % 4096 ≠ 0 ∨ val Reg.Ledger.LBASE < dramBase ∨ 2 * dramBase ≤ val Reg.Ledger.LBASE ∨
        !inRange (val Reg.Ledger.LOG2N) 9 25 ∨ 65536 < val Reg.Ledger.LRESV ∨ !inRange (val Reg.Ledger.LINKAGE) 1 60000 then .no stBOUNDS s
    else
      let s := blockWrite lb a 0 0 [Reg.Ledger.LBASE, Reg.Ledger.LOG2N, Reg.Ledger.RDEN, Reg.Ledger.COLLECT, Reg.Ledger.LRESV, Reg.Ledger.DSEQBASE,
        Reg.Ledger.LINKAGE] s
      let s := s.wrAll 0 [(Reg.Ledger.DSEQNEXT, s.rd Reg.Ledger.DSEQBASE 0), (Reg.Ledger.LWP, 0), (Reg.Ledger.LRD0, 0), (Reg.Ledger.LRD1, 0)]
      .fin stOK { s with dlg := { s.dlg with highest := [], fwdNext := 0 } }) s

/-- DLG.SUMPCFG: sets SUMP_MERGE_NM and SUMP_CLOSE (R52, R55). -/
def execDlgSumpcfg (x : XWord) (s : State) : Out :=
  xop 9 0x04 x (fun a s =>
    let c := bits (a.w 1) 31 0
    if !inRange c 10 1000000 then .no stBOUNDS s
    else .fin stOK { s with sump := { s.sump with mergeNm := bits (a.w 0) 31 0, closeUs := c } }) s

/-! ### Collection and contacts (R409 to R411) -/

/-- Word k of a ledger record. -/
def ledWord (ws : List Word) (k : Nat) : Word := ws.getD k 0

/-- NODE of a ledger record. -/
def ledNode (ws : List Word) : Nat := bits (ledWord ws 0) 63 50

/-- First and last contact rows of a side (word 13 left, 14 right), absolute. -/
def contactRows (ws : List Word) (k : Nat) : Nat × Nat :=
  let f := bits (ledWord ws 9) 39 0
  (f + bits (ledWord ws k) 49 25, f + bits (ledWord ws k) 24 0)

/-- Left part l and right part r are parts of one region (R410). -/
def partsJoin (l r : List Word) : Bool :=
  let a := contactRows l 14
  let b := contactRows r 13
  bit (ledWord l 14) 63 && bit (ledWord r 13) 63 && ledNode r == bits (ledWord l 15) 49 36 && bits (ledWord l 15) 49 36 != 0 &&
    bits (ledWord r 15) 63 50 == ledNode l && bits (ledWord r 15) 63 50 != 0 && bits (ledWord l 1) 59 56 == bits (ledWord r 1) 59 56 &&
    bits (ledWord l 1) 23 20 == bits (ledWord r 1) 23 20 && decide (b.1 ≤ a.2 + 1 ∧ a.1 ≤ b.2 + 1)

/-- The LINK record of two parts, without its ID (Table 12-4). -/
def linkRecord (l r : List Word) : List Word :=
  let a := contactRows l 14
  let b := contactRows r 13
  [0, fld 6 4 60 ||| fld (bits (ledWord l 1) 59 56) 4 56 ||| fld (bits (ledWord l 1) 23 20) 4 20, ledWord l 0, ledWord r 0,
   fld (max a.1 b.1) 40 0, fld (min a.2 b.2) 40 0] ++ List.replicate 10 0

/-- The LINK records that a new record makes with those in the contact table. -/
def linksOf (s : State) (ws : List Word) : List (List Word) :=
  s.dlg.contacts.flatMap fun q => (if partsJoin ws q then [linkRecord ws q] else []) ++ (if partsJoin q ws then [linkRecord q ws] else [])

/-- The record has a contact with a neighbouring device. -/
def hasContact (ws : List Word) : Bool :=
  (bit (ledWord ws 13) 63 && bits (ledWord ws 15) 63 50 != 0) || (bit (ledWord ws 14) 63 && bits (ledWord ws 15) 49 36 != 0)

/-- Enter a record into the contact table; the oldest leaves a full one (R411). -/
def enterContact (ws : List Word) (s : State) : State :=
  let s := if 65536 ≤ s.dlg.contacts.length then { s with dlg := { s.dlg with contacts := s.dlg.contacts.drop 1 } }.sat Reg.Ledger.LINKEVCNT 0 1 else s
  let s := { s with dlg := { s.dlg with contacts := s.dlg.contacts ++ [ws] } }
  s.wr Reg.Ledger.CTFILL 0 s.dlg.contacts.length

/-- Write the LINK records for which the ring has room (R404, R410). -/
def writeLinks : List (List Word) → State → State
  | [], s => { s with dlg := { s.dlg with links := [] } }
  | l :: ls, s =>
    if ringTakes s false then writeLinks ls ((writeOwn l s).sat Reg.Ledger.LINKCNT 0 1) else { s with dlg := { s.dlg with links := l :: ls } }

/-- A collector joins a record that has entered its ring (R410). -/
def joinContacts (ws : List Word) (s : State) : State :=
  let t := bits (ledWord ws 1) 63 60
  if !s.on Reg.Ledger.COLLECT 0 ∨ !inRange t 1 2 ∨ !hasContact ws then s
  else
    let ls := s.dlg.links ++ linksOf s ws
    writeLinks ls (enterContact ws s)

/-- CONTACT_TABLE_EXPIRY: the oldest record of the contact table leaves it (R411). -/
def execContactTableExpiry (s : State) : Out :=
  let s := { s with dlg := { s.dlg with contacts := s.dlg.contacts.drop 1 } }
  ok (s.wr Reg.Ledger.CTFILL 0 s.dlg.contacts.length)

/-- A forwarded record reaches the front: it is written, or discarded as a duplicate or out of order; none while the ring
has no room for it (R409, R516). -/
def takeForwarded (ws : List Word) (s : State) : Option State :=
  let n := ledNode ws
  let d := bits (ledWord ws 0) 49 0
  let hi := Tbl.get (fun _ => 0) s.dlg.highest n
  let ahead := (d + 2 ^ 50 - (hi - 1)) % 2 ^ 50
  if hi ≠ 0 ∧ (ahead = 0 ∨ 2 ^ 49 ≤ ahead) then some (s.sat Reg.Ledger.FDUPCNT 0 1)
  else if hi ≠ 0 ∧ ahead ≠ 1 then some ((s.sat Reg.Wlk.FOOOCNT 0 1).wlkCause 5)
  else if !ringTakes s (inRange (bits (ledWord ws 1) 63 60) 4 5) then none
  else
    let r := ws.set 1 (ledWord ws 1 ||| fld 1 1 16)
    let s := { s with dlg := { s.dlg with highest := Tbl.set (fun _ => 0) s.dlg.highest n (d + 1) } }
    some (joinContacts r (ringWrite r s))

/-- The collector acknowledges the records of a node cumulatively, by the highest DSEQ received (R516). -/
def acknowledge (ws : List Word) (s : State) : State :=
  let n := ledNode ws
  s.sendTo n (.recorded n (low 50 ((Tbl.get (fun _ => 0) s.dlg.highest n : Nat) - 1)))

/-- FORWARDED_RECORD_RECEIVE: a collector receives a record on a port and acknowledges; it waits when the ring has no room
(R409, R516). A device that does not collect discards it. -/
def execForwardedRecordReceive (p : Nat) (ws : List Word) (s : State) : Out :=
  fromPort p (fun s =>
    if !s.on Reg.Ledger.COLLECT 0 then ok s
    else if !s.dlg.inbox.isEmpty then ok { s with dlg := { s.dlg with inbox := s.dlg.inbox ++ [ws] } }
    else match takeForwarded ws s with
      | some t => ok (acknowledge ws t)
      | none => ok { s with dlg := { s.dlg with inbox := [ws] } }) s

/-! ### Writing (R396, R404 to R408) -/

/-- Keys of records of a view. -/
def recKeys (s : State) (v : Nat) : List (List Nat) := Tbl.get (fun _ => []) s.dlg.recKeys v

/-- DLG's effect when it applies a packet: it has no streamed operations. -/
def dlgEff (_ : Held) (s : State) : State := s

/-- DLG takes the record at its front: a duplicate is discarded; the others are written when the ring takes them, and their marks are scheduled in the same step (R404, R406, R408). -/
def writeRecord (ws : List Word) (rest : List RecItem) (s : State) : State :=
  let w0 := recWord ws 0
  let v := bits w0 58 55
  let key := [bits w0 39 0, bits w0 63 60, bits (recWord ws 8) 47 0, bits (recWord ws 9) 63 48]
  let done := { s with recs := { s.recs with toDlg := rest } }.evt 9 v 0x01
  if (recKeys s v).contains key then (done.sat Reg.Ledger.DUPCNT 0 1).evt 9 v 0x07
  else if !ringTakes s false then s
  else
    let s := { done with dlg := { s.dlg with recKeys := Tbl.set (fun _ => []) s.dlg.recKeys v (keyWindow key (recKeys s v)) } }
    let s := stageRow dlgEff 9 0 true v (bits w0 39 0) (recInt ws 1) (bits w0 46 40) s
    let p := scheduleMarks ws s
    let r := nextId p.1 :: (defectRecord p.1 p.2 ws).drop 1
    joinContacts r (((writeOwn r p.1).evt 9 v 0x40).evt 9 v 0x02)

/-- LEDGER_RECORD_WRITE: DLG writes what waits: 0 RCL's record, 1 a forwarded record, 2 LINK records (R396). -/
def execLedgerRecordWrite (which : Nat) (s : State) : Out :=
  within which 3 <|
    match which with
    | 0 => match s.recs.toDlg with
      | .record ws :: rest => ok (writeRecord ws rest s)
      | _ => ok s
    | 1 => match s.dlg.inbox with
      | ws :: rest => match takeForwarded ws s with
        | some t => ok (acknowledge ws { t with dlg := { t.dlg with inbox := rest } })
        | none => ok s
      | [] => ok s
    | _ => ok (writeLinks s.dlg.links s)

/-- DLG's wait for the ring has outlasted its timeout: the record goes to the Sump and schedules no mark (R61, R405). -/
def divertAtDlg (s : State) : State :=
  match s.recs.toDlg with
  | .record ws :: rest =>
    if ringTakes s false then s
    else divertRecord 0x09 9 Reg.Ledger.DLGDIVCNT 0 ws { s with recs := { s.recs with toDlg := rest } }
  | _ => s

/-- A mark reaches DLG (R630). -/
def markAtDlg (s : State) : State :=
  match s.recs.toDlg with
  | .mark v k :: rest => passMark dlgEff 9 v k { s with recs := { s.recs with toDlg := rest } }
  | _ => s

/-! ### Readers (R407, R488, R516) -/

/-- Words of ring entry n. -/
def ringEntry (s : State) (n : Nat) : List Word := s.readWords (ringAddr s n) 16

/-- RD1_FORWARD: RD1 sends the next record to the collector, with at most 256 unacknowledged (R407, R516). -/
def execRd1Forward (s : State) : Out :=
  let n := s.dlg.fwdNext
  let c := s.rd Reg.Wlk.COLLECTOR 0
  if (s.rd Reg.Ledger.RDEN 0).testBit 1 = false ∨ c = 0 ∨ s.rd Reg.Wlk.NODE 0 = 0 ∨ s.rd Reg.Ledger.LWP 0 ≤ n ∨
      s.rd Reg.Ledger.LRD1 0 + 256 ≤ n ∨ !ringUp s then ok s
  else ok ({ s with dlg := { s.dlg with fwdNext := n + 1 } }.sendTo c (.record (ringEntry s n)))

/-- FWD_ACK_RECEIVE: the collector acknowledges every record up to a DSEQ (R516). -/
def execFwdAckReceive (p dseq : Nat) (s : State) : Out :=
  fromPort p (fun s =>
    let lo := s.rd Reg.Ledger.LRD1 0
    let hits := ((List.range (s.dlg.fwdNext - lo)).map (lo + ·)).filter fun n => bits (ledWord (ringEntry s n) 0) 49 0 == dseq % 2 ^ 50
    match hits.getLast? with
    | some n => ok (s.wr Reg.Ledger.LRD1 0 (n + 1))
    | none => ok s) s

/-- FWD_TIMEOUT: without progress for FWDTO, forwarding goes back to the oldest unacknowledged record (R516). -/
def execFwdTimeout (s : State) : Out :=
  if s.dlg.fwdNext ≤ s.rd Reg.Ledger.LRD1 0 then ok s
  else ok (({ s with dlg := { s.dlg with fwdNext := s.rd Reg.Ledger.LRD1 0 } }.sat Reg.Wlk.FWDRETXCNT 0 1).wlkCause 5)

/-! ### Counters (R229, R412) -/

/-- Clear the counters of marker m. -/
def markerCntOne (m : Nat) (s : State) : State := s.clr m [Reg.Marker.FIRECNT, Reg.Marker.MISSCNT, Reg.Marker.MERGECNT]

/-- Clear the counters of the ledger block and of the marker global block. -/
def dlgCntGlobal (s : State) : State :=
  s.clr 0 [Reg.Ledger.DUPCNT, Reg.Ledger.FDUPCNT, Reg.Ledger.DLGDIVCNT, Reg.Ledger.LINKCNT, Reg.Ledger.LINKEVCNT, Reg.MarkerGlobal.MKFULLCNT,
    Reg.MarkerGlobal.MKLOSTCNT]

/-- Clear MKFULL of marker m where ARG names it. -/
def markerEvOne (arg m : Nat) (s : State) : State := if arg.testBit 0 then s.wr Reg.Marker.MKFULL m 0 else s

end Sys2Proof.Machine
end

