-- ==== Sys2Proof/Machine/Overview.lean ====
section
/-!
DEFINITION. Overview streams: sources, output rows, rings, gaps, restarts and trailers (R427 to R444).
-/
namespace Sys2Proof.Machine

/-- Stream k beside its block. -/
def State.ovsOf (s : State) (k : Nat) : OvsState := Tbl.get (fun _ => {}) s.ovs k

/-- Replace it. -/
def State.setOvs (s : State) (k : Nat) (e : OvsState) : State := { s with ovs := Tbl.set (fun _ => {}) s.ovs k e }

/-! ### Settings (R428, R430, R433, R437) -/

/-- Stage i of stream k. -/
def stageOf (s : State) (k i : Nat) : Stage :=
  let f := fun r => s.rdI2 r k i
  { taps := [f Reg.Stream.H1, f Reg.Stream.H3, f Reg.Stream.H5, f Reg.Stream.H7, f Reg.Stream.H9, f Reg.Stream.H11, f Reg.Stream.H13].take
      (s.rd2 Reg.Stream.NH k i), shift := f Reg.Stream.SHIFT }

/-- Stages in use across the web. -/
def acrossStages (s : State) (k : Nat) : List Stage := (List.range (min 6 (s.rd Reg.Stream.KX k))).map (stageOf s k)

/-- Stages in use along the web. -/
def alongStages (s : State) (k : Nat) : List Stage := (List.range (min 6 (s.rd Reg.Stream.KY k))).map fun i => stageOf s k (6 + i)

/-- Planes: the slots that SLOTSEL names. -/
def ovsSlots (s : State) (k : Nat) : List Nat :=
  match s.rd Reg.Stream.SLOTSEL k with
  | 3 => [0, 1, 2]
  | n => [n]

/-- OUTW. -/
def outW (s : State) (k : Nat) : Nat := s.rd Reg.Stream.CW k / 2 ^ s.rd Reg.Stream.KX k

/-- ROWBYTES from NP, OUTW and B (R437). -/
def rowBytes (np w b : Nat) : Nat := 64 + 64 * cdiv (np * w * b) 64

/-- N of a stage. -/
def stageN (t : Stage) : Nat := 4 * t.taps.length - 1

/-- LBSIZE (R433). -/
def lbSize (s : State) (k : Nat) : Nat := (ovsSlots s k).length * outW s k * 2 * ((alongStages s k).map stageN).sum

/-- ROWBYTES, DELAY and LBSIZE follow the settings (Table 13-3). -/
def showStream (k : Nat) (s : State) : State :=
  s.wrAll k [(Reg.Stream.ROWBYTES, rowBytes (ovsSlots s k).length (outW s k) (if s.on Reg.Stream.OBYTE k then 1 else 2)),
    (Reg.Stream.DELAY, reachOf (alongStages s k)), (Reg.Stream.LBSIZE, lbSize s k)]

/-- Columns of a stream's source. -/
def srcWidth (s : State) (k : Nat) : Nat :=
  if s.rd Reg.Stream.SRCT k = 0 then s.rd Reg.View.NCOL (s.rd Reg.Stream.SRC k) else s.rd Reg.Head.HW (s.rd Reg.Stream.SRC k)

/-- The checks of R441, and those of the fields' ranges. -/
def streamOk (s : State) (k : Nat) : Bool :=
  let kx := s.rd Reg.Stream.KX k
  let ky := s.rd Reg.Stream.KY k
  let cw := s.rd Reg.Stream.CW k
  let lb := s.rd Reg.Stream.LBASE k
  decide (kx ≤ 6 ∧ ky ≤ 6 ∧ cw ≠ 0 ∧ cw % 2 ^ kx = 0 ∧ outW s k ≤ 65536) &&
    decide (s.rd Reg.Stream.C0 k + cw ≤ srcWidth s k) && (s.on Reg.Stream.SRCT k || decide (s.rd Reg.Stream.SRC k < 16)) &&
    ((List.range kx).all fun i => s.rd2 Reg.Stream.NH k i != 0) && ((List.range ky).all fun i => s.rd2 Reg.Stream.NH k (6 + i) != 0) &&
    decide (lb % 64 = 0 ∧ lb + lbSize s k ≤ 64 * 0x80000) && inRange (s.rd Reg.Stream.RLOG k) 4 24 && s.on Reg.Stream.FROWS k &&
    decide (s.rd Reg.Stream.RBASE k % 64 = 0) && !(s.on Reg.Stream.DEST k && s.rd Reg.Stream.DNODE k == 0)

/-! ### Output rows (R432, R434) -/

/-- Source row r of those that a stream holds; rows before the first read row 0 and rows after the last read the last. -/
def srcRow (e : OvsState) (r : Int) : SrcRow :=
  let last : Int := (e.n : Int) - 1
  let i := clampI 0 last r
  let base : Int := (e.n : Int) - e.rows.length
  e.rows.getD (i - base).toNat {}

/-- Form output row m (R430, R434, R435, R440). -/
def formOut (k : Nat) (s : State) : State :=
  let e := s.ovsOf k
  let ts := alongStages s k
  let c : Int := (e.m * 2 ^ ts.length : Nat)
  let w := (ovsSlots s k).length * outW s k
  let y := along w e.m ts fun r => (srcRow e r).samples
  let read := ((rowsRead e.m ts).map fun r => clampI 0 ((e.n : Int) - 1) r).eraseDups.map (srcRow e)
  let centre := (srcRow e c).tag
  let flags := read.foldl (fun f r => f ||| r.tag.flags) centre.flags
  let dlen := read.foldl (fun d r => min d r.tag.dlen) centre.dlen
  let tag := { centre with kind := 1, flags := setBitIf e.restarted flags fGAPBEFORE, strip := k, dlen := dlen }
  let row : OutRow := { tag := tag, restart := e.restarted, frameEnd := (e.orow + 1) % max 1 (s.rd Reg.Stream.FROWS k) == 0,
                        fill := min 65535 (read.countP (·.fill)), orow := e.orow, samples := y.1 }
  let keep : Int := ((e.m + 1) * 2 ^ ts.length : Nat) - reachOf ts
  let base : Int := (e.n : Int) - e.rows.length
  let drop := min ((keep - base).toNat) (e.rows.length - 1)
  ((s.setOvs k { e with m := e.m + 1, orow := e.orow + 1, restarted := false, held := e.held ++ [row], rows := e.rows.drop drop }).sat
    Reg.Stream.SATCNT k y.2).evt 0xC k 0x40

/-- A row enters the cascade along the web; the output row that it completes is formed (R432). -/
def enterRow (k : Nat) (r : SrcRow) (s : State) : State :=
  let e := s.ovsOf k
  let s := s.setOvs k { e with rows := e.rows ++ [r], n := e.n + 1 }
  let ts := alongStages s k
  if e.m * 2 ^ ts.length + reachOf ts ≤ e.n then formOut k s else s

/-- A source row reduced across the web, and the samples clamped (R428, R431). -/
def reduceRow (s : State) (k : Nat) (it : StoreItem) : SrcRow × Nat :=
  let c0 : Int := s.rd Reg.Stream.C0 k
  let hi : Int := (srcWidth s k : Int) - 1
  let rs := (ovsSlots s k).map fun p =>
    let a := (Tbl.get (fun _ => []) it.slots p).toArray
    across (outW s k) (acrossStages s k) fun j => a.getD (clampI 0 hi (c0 + j)).toNat 0
  ({ tag := it.tag, samples := rs.flatMap (·.1) }, (rs.map (·.2)).sum)

/-- Interpolation of R435, truncated towards zero. -/
def between (a b : Int) (k g : Nat) : Int := a + ((b - a) * k).tdiv (g + 1 : Nat)

/-- Substituted row k of a gap between the row last taken and the next (R435). -/
def fillRow (a : SrcRow) (b : Tag) (g : OvsGap) (k : Nat) : SrcRow :=
  { a with fill := true, tag := { a.tag with lseq := (g.lseq + k - 1) % 2 ^ 40, pos := between a.tag.pos b.pos k g.count,
                                               time := (between a.tag.time b.time k g.count).toNat } }

/-- Room for one more output row, and no flush under way (R429). -/
def ovsRoom (s : State) (k : Nat) : Bool := decide ((s.ovsOf k).held.length < 4) && (s.ovsOf k).flush.isNone

/-- Substitute rows of the first gap while there is room, at most n of them; none before the first row (log entry 85). -/
def substitute (k : Nat) (b : Tag) : Nat → State → State
  | 0, s => s
  | n + 1, s =>
    let e := s.ovsOf k
    match e.gaps, e.last with
    | g :: gs, some a =>
      if g.count ≤ g.done then substitute k b n (s.setOvs k { e with gaps := gs })
      else if !ovsRoom s k then s
      else
        let s := enterRow k (fillRow a b g (g.done + 1)) (s.setOvs k { e with gaps := { g with done := g.done + 1 } :: gs })
        substitute k b n (s.sat Reg.Stream.FILLCNT k 1)
    | _ :: gs, none => substitute k b n (s.setOvs k { e with gaps := gs })
    | [], _ => s

/-- Rows that a stream's gaps ask for, and one step for each gap. -/
def gapSteps (e : OvsState) : Nat := (e.gaps.map fun g => g.count + 1).sum

/-- The items of a stream's source. -/
def isSource (s : State) (k : Nat) (i : StoreItem) : Bool :=
  i.vs == (s.rd Reg.Stream.SRCT k == 0) && i.src == s.rd Reg.Stream.SRC k

/-- The item that stream k takes next; none while it does not run, stops or flushes. -/
def ovsNext (s : State) (k : Nat) : Option StoreItem :=
  if s.on Reg.Stream.RUNNING k && !s.on Reg.Stream.STOPPING k && (s.ovsOf k).flush.isNone then nextItem s k (isSource s k) else none

/-- OVS_SOURCE_ROW: a stream substitutes the rows missing before its next source row, and takes and commits the row, while
it has room for the output rows that they complete (R429, R435). -/
def ovsSourceRow (k : Nat) (s : State) : State :=
  match ovsNext s k with
  | some it =>
    if it.kind ≠ .row then s
    else
      let s := substitute k it.tag (gapSteps (s.ovsOf k)) s
      if !(s.ovsOf k).gaps.isEmpty || !ovsRoom s k then s
      else
        let r := reduceRow s k it
        let s := s.setOvs k { s.ovsOf k with last := some r.1 }
        commitItem k (isSource s k) ((enterRow k r.1 (s.sat Reg.Stream.SATCNT k r.2)).evt 0xC k 0x01)
  | none => s

/-! ### Flushes (R436, R441) -/

/-- The flush under way goes on while output rows can be held, at most n of them; at its end the cascade is clear. -/
def runFlush (k : Nat) : Nat → State → State
  | 0, s => s
  | n + 1, s =>
    let e := s.ovsOf k
    match e.flush with
    | none => s
    | some restart =>
      if e.m * 2 ^ (alongStages s k).length < e.n then
        if 4 ≤ e.held.length then s else runFlush k n (formOut k s)
      else
        s.setOvs k { e with rows := [], n := 0, m := 0, last := none, gaps := [], flush := none, restarted := e.restarted || restart }

/-- Begin a flush. -/
def beginFlush (k : Nat) (restart : Bool) (s : State) : State :=
  let s := s.setOvs k { s.ovsOf k with gaps := [], flush := some restart }
  runFlush k 6 (s.sat Reg.Stream.RESTCNT k (b2n restart))

/-- OVS_GAP_RECEIVE: a GAP packet, or the stop of the source, reaches a stream: rows are to be substituted, or the stream
restarts (R435, R436). -/
def ovsGapReceive (k : Nat) (s : State) : State :=
  match ovsNext s k with
  | some it =>
    match it.kind with
    | .row => s
    | .gap g =>
      let s := commitItem k (isSource s k) s
      if s.rd Reg.Stream.OGAPMAX k < g.count then beginFlush k true s
      else s.setOvs k { s.ovsOf k with gaps := (s.ovsOf k).gaps ++ [{ lseq := g.lseq, count := g.count }] }
    | .stop => beginFlush k true (commitItem k (isSource s k) s)
  | none => s

/-! ### Entries (R437 to R440, R442) -/

/-- Bytes of the planes. -/
def sampleBytes (s : State) (k : Nat) (ys : List Nat) : List Byte :=
  if s.on Reg.Stream.OBYTE k then ys.map fun y => BitVec.ofNat 8 (min y 255)
  else ys.flatMap fun y => [BitVec.ofNat 8 (y % 256), BitVec.ofNat 8 (y / 256)]

/-- Pad with zeros to a length. -/
def padTo (n : Nat) (bs : List Byte) : List Byte := bs ++ List.replicate (n - bs.length) 0

/-- Header word 0x20 of a row: X0 and XSTEP. -/
def placeWord (s : State) (k : Nat) : Word :=
  let kx := 2 ^ s.rd Reg.Stream.KX k
  let c0 := s.rd Reg.Stream.C0 k
  let v := s.rd Reg.Stream.SRC k
  if s.on Reg.Stream.SRCT k then fld c0 32 32 ||| fld kx 32 0
  else fld (low 32 (columnX s v c0)) 32 32 ||| fld (s.rd Reg.View.XPITCH v * kx) 32 0

/-- Header word 0x28. -/
def kindWord (s : State) (k : Nat) (restart frameEnd total : Bool) (fill : Nat) : Word :=
  fld (s.rd Reg.Stream.SRCT k) 1 63 ||| fld (b2n restart) 1 62 ||| fld (b2n frameEnd) 1 61 ||| fld (b2n total) 1 60 ||| fld fill 16 32

/-- The stream's destination takes an entry: ring room, or a port (R438, R439). -/
def entryRoom (s : State) (k : Nat) : Bool :=
  if s.on Reg.Stream.DEST k then true
  else
    let rb := s.rd Reg.Stream.RBASE k
    let n := s.rd Reg.Stream.ROWBYTES k
    let size := 2 ^ s.rd Reg.Stream.RLOG k
    let used := (s.rd Reg.Stream.ORWP k + 2 ^ 64 - (s.read64 (rb + n * size)).toNat) % 2 ^ 64
    decide (used < size) && s.canPut rb (n * size + 8)

/-- Write or send an entry: header words 0x00 to 0x30, then OSEQ, then the planes; ORWP moves on (R438, R439). -/
def putEntry (k : Nat) (head : List Word) (planes : List Byte) (s : State) : State :=
  let n := s.rd Reg.Stream.ROWBYTES k
  let w := s.rd Reg.Stream.ORWP k
  let entry := padTo n (wordsBytes (head ++ [BitVec.ofNat 64 w]) ++ planes)
  let s1 := if s.on Reg.Stream.DEST k then s.sendTo (s.rd Reg.Stream.DNODE k) (.bulk k entry) (cdiv n 2048)
    else s.put (s.rd Reg.Stream.RBASE k + n * (w % 2 ^ s.rd Reg.Stream.RLOG k)) entry
  (s1.wr Reg.Stream.ORWP k (w + 1)).evt 0xC k 0x02

/-- OVS_ROW_DELIVER: the oldest held output row is delivered when its destination takes it; a frame's end emits a token
(R438 to R440). -/
def ovsRowDeliver (k : Nat) (s : State) : State :=
  match (s.ovsOf k).held with
  | [] => s
  | r :: rs =>
    if !entryRoom s k then s
    else
      let head := r.tag.words ++ [placeWord s k, kindWord s k r.restart r.frameEnd false r.fill ||| fld (outW s k) 17 0, BitVec.ofNat 64 r.orow]
      let s := putEntry k head (sampleBytes s k r.samples) (s.setOvs k { s.ovsOf k with held := rs })
      let s := s.wrap Reg.Stream.OUTCNT k 1
      let s := if r.frameEnd then (s.wrap Reg.Stream.FRAMECNT k 1).emit (448 + k) else s
      runFlush k 6 s

/-- The oldest held output row has waited past the timeout, its ring still full or its port not taking it: a Sump note takes its
place (R61, R429, R442). -/
def divertAtOvs (k : Nat) (s : State) : State :=
  match (s.ovsOf k).held with
  | [] => s
  | r :: rs =>
    if entryRoom s k && !s.on Reg.Stream.DEST k then s
    else
      let s := s.setOvs k { s.ovsOf k with held := rs }
      runFlush k 6 (((s.note (0x30 + k) 0x20 r.tag).sat Reg.Stream.DIVCNT k 1).evt 0xC k 0x03)

/-- A trailer entry; its OROW is that of the row delivered next (R442, Table 13-1). -/
def putTrailer (k : Nat) (y0 y1 : Int) (rows : Nat) (total : Option Nat) (s : State) : State :=
  let t0 := fld 4 4 60 ||| fld (s.rd Reg.Stream.SRC k) 5 55
  let w5 := match total with
    | some n => kindWord s k false false true 0 ||| fld n 32 0
    | none => kindWord s k false false false 0 ||| fld (outW s k) 17 0
  putEntry k [t0, BitVec.ofInt 64 y0, BitVec.ofNat 64 s.pt, fld 0x20 8 40 ||| fld rows 40 0, BitVec.ofInt 64 y1, w5,
    BitVec.ofNat 64 (((s.ovsOf k).held.head?.map (·.orow)).getD (s.ovsOf k).orow)] [] s

/-- A closed span of a stream becomes a trailer when the destination takes it (R55, R442). -/
def ovsTakesSpan (n : Nat) (s : State) : State :=
  let e := s.span n
  let k := e.src - 0x30
  if !entryRoom s k then s else dropSpan n (putTrailer k e.yFirst e.yLast e.rows none s)

/-- A totaliser report of SKIND 0x20 becomes a trailer of every running stream once each takes it (R56, R442). -/
def ovsTakesTotal (s : State) : State :=
  let ks := (List.range 8).filter (s.on Reg.Stream.RUNNING)
  if ks.isEmpty || !ks.all (entryRoom s) then s
  else
    let y0 := s.rdI2 Reg.Ledger.TYMIN 0 0x20
    let y1 := s.rdI2 Reg.Ledger.TYMAX 0 0x20
    clearTotal 0x20 (ks.foldl (fun t k => putTrailer k y0 y1 (s.rd2 Reg.Ledger.TROWS 0 0x20) (some (s.rd2 Reg.Ledger.TSPANS 0 0x20)) t) s)

/-! ### Commands (R441) -/

/-- A span of the stream has not been delivered. -/
def streamSpan (s : State) (k : Nat) : Bool := s.sump.spans.any fun e => e.2.valid && e.2.src == 0x30 + k

/-- Fields that OVS.CFG writes. -/
def streamFields : List Field :=
  [Reg.Stream.SRCT, Reg.Stream.SRC, Reg.Stream.SLOTSEL, Reg.Stream.KX, Reg.Stream.KY, Reg.Stream.OBYTE, Reg.Stream.DEST, Reg.Stream.DMACH,
   Reg.Stream.DNODE, Reg.Stream.CW, Reg.Stream.C0, Reg.Stream.RBASE, Reg.Stream.RLOG, Reg.Stream.FROWS, Reg.Stream.OGAPMAX, Reg.Stream.LBASE]

/-- OVS.CFG: writes a stream block while the stream does not run and no span of it waits (R441, R442). -/
def execOvsCfg (x : XWord) (s : State) : Out :=
  direct 0xC 0x01 8 x (fun a s =>
    if s.on Reg.Stream.RUNNING a.i ∨ streamSpan s a.i = true then .error stBUSY
    else if 6 < a.ws.length then .error stBOUNDS
    else
      let t := blockWrite (0x200c0000) a a.i 0 streamFields s
      if !streamOk t a.i then .error stBOUNDS else .ok (showStream a.i t)) s

/-- The fields of a coefficient word: the odd words hold NH, SHIFT and three taps. -/
def coefMask (k : Nat) : Word := if k % 2 = 0 then BitVec.allOnes 64 else 0xFFFFFFFFFFFFE00F

/-- OVS.COEF: writes the coefficient block while the stream does not run (R441). -/
def execOvsCoef (x : XWord) (s : State) : Out :=
  direct 0xC 0x02 8 x (fun a s =>
    if s.on Reg.Stream.RUNNING a.i then .error stBUSY
    else if 24 < a.ws.length then .error stBOUNDS
    else .ok (showStream a.i (a.ws.zipIdx.foldl (fun s w => s.putWord (if w.2 % 2 = 0 then Reg.Stream.H1 else Reg.Stream.H9) a.i (w.2 / 2) (w.1 &&& coefMask w.2)) s))) s

/-- USE of banks 0 to 63 follows the line buffers of running streams (Table 14-2). -/
def showLineBanks (s : State) : State :=
  let buffers := ((List.range 8).filter (s.on Reg.Stream.RUNNING)).map fun k => (s.rd Reg.Stream.LBASE k, lbSize s k)
  (List.range 64).foldl (fun t b =>
    let held := buffers.any fun e => decide (e.1 < (b + 1) * 0x80000 ∧ b * 0x80000 < e.1 + e.2)
    if s.rd Reg.Mem.USE b = 0 ∨ s.rd Reg.Mem.USE b = 4 then t.wr Reg.Mem.USE b (if held then 4 else 0) else t) s

/-- OVS.START: starts a stream (R441, R461). A stream that runs, or whose channel another owner holds, gives BUSY. -/
def execOvsStart (x : XWord) (s : State) : Out :=
  direct 0xC 0x03 8 x (fun a s =>
    let c := s.rd Reg.Stream.DMACH a.i
    if !streamOk s a.i then .error stBOUNDS
    else if s.on Reg.Stream.RUNNING a.i ∨ s.rd Reg.Dma.OWNER c ≠ 0 then .error stBUSY
    else .ok (showLineBanks (((showStream a.i s).setOvs a.i {}).wr Reg.Stream.RUNNING a.i 1 |>.wr Reg.Dma.OWNER c 1))) s

/-- OVS.STOP: the stream takes no further source rows and flushes (R441). A stream that does not run completes at once. -/
def execOvsStop (x : XWord) (s : State) : Out :=
  xop 0xC 0x04 x (fun a s =>
    if 8 ≤ a.i then .no stBOUNDS s
    else if !s.on Reg.Stream.RUNNING a.i then .fin stOK s
    else if s.on Reg.Stream.STOPPING a.i then .no stBUSY s
    else
      let rest := s.store.map fun i => { i with need := i.need.filter (· != a.i) }
      let s := { s with store := rest.filter fun i => !i.need.isEmpty }.wr Reg.Stream.STOPPING a.i 1
      .start (if (s.ovsOf a.i).flush.isSome then s.setOvs a.i { s.ovsOf a.i with flush := some false } else beginFlush a.i false s)) s

/-- OVS_STOP_COMPLETE: every output row has been delivered or diverted, and SUMP_CLOSE has passed since the last diversion:
the stream no longer runs and its channel is free (R441, R461). -/
def execOvsStopComplete (k : Nat) (s : State) : Out :=
  within k 8 <|
    let e := s.ovsOf k
    if !s.on Reg.Stream.STOPPING k ∨ e.flush.isSome ∨ !e.held.isEmpty then ok s
    else
      let s := (s.wr Reg.Stream.RUNNING k 0).wr Reg.Stream.STOPPING k 0
      ok ((showLineBanks (s.wr Reg.Dma.OWNER (s.rd Reg.Stream.DMACH k) 0)).complete 0xC 0x04 k stOK)

/-- OVS_ROW_DELIVER. -/
def execOvsRowDeliver (k : Nat) (s : State) : Out := within k 8 <| ok (ovsRowDeliver k s)

/-- INBOUND_BULK_RECEIVE: an overview entry from stream k of another node is placed in inbound ring k, OSEQ last; with
IRLOG 0 it is discarded and counted; a full ring holds the sender. OSEQ becomes the entry's index in this ring, which its consumer
looks for (R438, R517; log entry 158). -/
def execInboundBulkReceive (p k : Nat) (ws : List Word) (s : State) : Out :=
  within k 8 <| fromPort p (fun s =>
    let log := s.rd Reg.WlkInbound.IRLOG k
    let n := 8 * ws.length
    let w := s.rd Reg.WlkInbound.IRWP k
    let base := s.rd Reg.WlkInbound.IRBASE k
    if log = 0 then ok (s.sat Reg.WlkInbound.IRDROP k 1)
    else if 2 ^ log ≤ (w + 2 ^ 64 - (s.read64 (base + n * 2 ^ log)).toNat) % 2 ^ 64 then ok s
    else ok ((s.put (base + n * (w % 2 ^ log)) (wordsBytes (ws.set 7 (BitVec.ofNat 64 w)))).wr Reg.WlkInbound.IRWP k (w + 1))) s

/-- Clear the counters of a stream. -/
def ovsCntOne (k : Nat) (s : State) : State :=
  s.clr k [Reg.Stream.DIVCNT, Reg.Stream.SATCNT, Reg.Stream.FILLCNT, Reg.Stream.RESTCNT, Reg.Stream.FRAMECNT, Reg.Stream.OUTCNT]

end Sys2Proof.Machine
end

