-- ==== Sys2Proof/Machine/History.lean ====
section
/-!
DEFINITION. The look-back history: frame groups, frames, compression, placement, crops and frame checks (R413 to R426).
-/
namespace Sys2Proof.Machine

/-- History of head h beside its block. -/
def State.hist (s : State) (h : Nat) : HisHeadState := Tbl.get (fun _ => {}) s.his.heads h

/-- Replace it. -/
def State.setHist (s : State) (h : Nat) (e : HisHeadState) : State :=
  { s with his := { s.his with heads := Tbl.set (fun _ => {}) s.his.heads h e } }

/-! ### Original and filtered content (R415, R417) -/

/-- Row length RL of a group. -/
def HisGroup.rowLen (g : HisGroup) : Nat := 32 + g.planes * g.stripW * g.d / 8

/-- LSEQ0. -/
def HisGroup.lseq0 (g : HisGroup) : Nat := match g.rows with | r :: _ => r.tag.lseq | [] => 0

/-- Samples of plane p of a row in a strip; columns at and beyond HW are 0. -/
def HisGroup.plane (g : HisGroup) (strip p : Nat) (r : HisRow) : List Nat :=
  (List.range g.stripW).map fun c =>
    let c := strip * g.stripW + c
    if c < g.hw then r.pay / 2 ^ (sampleIndex g.fmt g.hw c p * g.d) % 2 ^ g.d else 0

/-- The prediction for a sample from its left neighbour and the sample of the previous row (R417). -/
def predict (pred left prev : Nat) : Nat :=
  match pred with
  | 1 => left
  | 2 => prev
  | 3 => (left + prev) / 2
  | _ => 0

/-- Filter a plane segment modulo 2^d, the previous row's given. -/
def filterPlane (pred d : Nat) (prev cur : List Nat) : List Nat :=
  cur.zipIdx.map fun e => (e.1 + 2 ^ d - predict pred (if e.2 = 0 then 0 else cur.getD (e.2 - 1) 0) (prev.getD e.2 0)) % 2 ^ d

/-- Invert the filter, from column 0 upward; `left` is the sample before. -/
def unfilterPlane (pred d : Nat) : Nat → List Nat → List Nat → List Nat
  | _, _, [] => []
  | left, prev, r :: rs =>
    let x := (r + predict pred left (prev.headD 0)) % 2 ^ d
    x :: unfilterPlane pred d x (prev.drop 1) rs

/-- Pack samples at d bits (R121). -/
def packSamples (d : Nat) (xs : List Nat) : List Byte :=
  let n := xs.foldr (fun x a => x % 2 ^ d + 2 ^ d * a) 0
  (List.range (xs.length * d / 8)).map fun k => BitVec.ofNat 8 (n / 2 ^ (8 * k))

/-- Unpack a plane segment. -/
def unpackSamples (d w : Nat) (bs : List Byte) : List Nat :=
  let n := bytesNat bs
  (List.range w).map fun k => n / 2 ^ (d * k) % 2 ^ d

/-- A row's 32 tag bytes with STRIP set. -/
def tagBytes (strip : Nat) (r : HisRow) : List Byte := wordsBytes { r.tag with strip := strip }.words

/-- The rows of a frame's original content. -/
def HisGroup.original (g : HisGroup) (strip : Nat) : List (List Byte) :=
  g.rows.map fun r => tagBytes strip r ++ (List.range g.planes).flatMap fun p => packSamples g.d (g.plane strip p r)

/-- The rows of its filtered content. -/
def HisGroup.filtered (g : HisGroup) (strip : Nat) : List (List Byte) :=
  (none :: g.rows.map some).zip g.rows |>.map fun e =>
    tagBytes strip e.2 ++ (List.range g.planes).flatMap fun p =>
      packSamples g.d (filterPlane g.pred g.d (match e.1 with | some q => g.plane strip p q | none => []) (g.plane strip p e.2))

/-! ### Frames (R416, R418) -/

/-- Rows as stored blocks (BTYPE 00), BFINAL on the last. -/
def storedRows : List (List Byte) → List Byte
  | [] => []
  | r :: rs =>
    [BitVec.ofNat 8 (b2n rs.isEmpty), BitVec.ofNat 8 (r.length % 256), BitVec.ofNat 8 (r.length / 256),
      BitVec.ofNat 8 (255 - r.length % 256), BitVec.ofNat 8 (255 - r.length / 256)] ++ r ++ storedRows rs

/-- Code lengths are those of codes built from a block's symbols: of two symbols of one alphabet, the more frequent has no longer code
(R418). -/
def lensFollow (used lens : List Nat) : Bool :=
  let ok := fun (i j : Nat) => decide (used.count i ≤ used.count j) || decide (lens.getD i 0 ≤ lens.getD j 0)
  ((List.range 286).all fun i => (List.range 286).all (ok i)) && (List.range 30).all fun i => (List.range 30).all fun j => ok (286 + i) (286 + j)

/-- A block of a row after block `p`, none for the first row: fixed codes in the first, else dynamic ones for every symbol, built from
the symbols of `p`, and no longer than the row stored; or a stored block, whose symbols do not show (R418). -/
def blockOk (p : Option Block) (b : Block) : Bool :=
  b.btype == 0 || (decide (b.bits ≤ 8 * (b.bytes + 5)) &&
    match p with
    | none => b.btype == 1
    | some q => b.btype == 2 && b.full && (q.btype == 0 || lensFollow q.used b.lens))

/-- A stream is one that R418 allows for the rows: it decodes to them, one block a row, each as R418 has it. -/
def deflateOk (rows : List (List Byte)) (bs : List Byte) : Bool :=
  let r := inflate bs
  r.ok && r.out == rows.flatten && decide (r.rest < 8) && r.blocks.map (·.bytes) == rows.map (·.length) &&
    decide (bs.length ≤ (storedRows rows).length) && ((none :: r.blocks.map some).zip r.blocks).all fun e => blockOk e.1 e.2

/-- The payload of a frame: the open choice where R418 allows it, else stored blocks (log entry 40). -/
def framePayload (s : State) (rows : List (List Byte)) : List Byte :=
  let bs := Config.deflate (s.rd Reg.Cmp.SEARCH 0) rows
  if deflateOk rows bs then bs else storedRows rows

/-- PRESENT: bit r = row LSEQ0 + r is present. -/
def HisGroup.present (g : HisGroup) : Nat := (g.rows.map fun r => 2 ^ ((r.tag.lseq + 2 ^ 40 - g.lseq0) % 2 ^ 40)).sum

/-- The frame header (Table 12-7). -/
def frameHeader (g : HisGroup) (strip olen clen crc crcf : Nat) : List Word :=
  [fld g.head 5 59 ||| fld strip 8 51 ||| fld g.pred 3 48 ||| fld g.lseq0 40 0, BitVec.ofNat 64 g.present,
   fld olen 32 32 ||| fld clen 32 0, fld crc 32 32 ||| fld crcf 32 0]

/-- The bytes of a frame: header and payload. -/
def frameBytes (s : State) (g : HisGroup) (strip : Nat) : List Byte :=
  let orig := (g.original strip).flatten
  let filt := g.filtered strip
  let pay := framePayload s filt
  wordsBytes (frameHeader g strip orig.length pay.length (crc32c orig).toNat (crc32 filt.flatten).toNat) ++ pay

/-- Give the oldest uncoded frame of a list its bytes. -/
def codeFirst (s : State) : List HisFrame → List HisFrame
  | [] => []
  | f :: fs => if f.bytes.isNone then { f with bytes := some (frameBytes s f.group f.strip) } :: fs else f :: codeFirst s fs

/-- FRAME_COMPRESS: compressor c codes the next frame of head h. A compressor without a grant asks for one and takes no
frame (R418, R421, R556). -/
def execFrameCompress (h c : Nat) (s : State) : Out :=
  within h 32 <| within c 32 <|
    let e := s.hist h
    match e.frames.find? fun f => f.bytes.isNone with
    | none => ok s
    | some f =>
      if !s.granted 4 c then ok (s.request 4 c 375)
      else
        let s1 := s.setHist h { e with frames := codeFirst s e.frames }
        let n := ((frameBytes s f.group f.strip).length - 32)
        ok ((s1.evt 0xB 0 0x40 (f.group.rowLen * f.group.rows.length / 64)).evt 0xB 0 0x41 (n / 64))

/-- COMPRESSOR_IDLE_RELEASE: a compressor idle for 10 µs returns its grant (R556). -/
def execCompressorIdleRelease (c : Nat) (s : State) : Out := within c 32 <| ok (s.release 4 c)

/-! ### Frame groups (R413, R414) -/

/-- A range of a crop includes a row. -/
def Crop.beyond (k : Crop) (t : Tag) : Bool := decide (k.last < if k.byTime then t.time else t.lseq)

/-- The open group of a head closes: one frame per strip, in strip order; crops that waited for it wait no longer. -/
def closeGroup (h : Nat) (s : State) : State :=
  let e := s.hist h
  match e.group with
  | none => s
  | some g =>
    let fs := (List.range (cdiv g.hw g.stripW)).map fun k => ({ group := g, strip := k } : HisFrame)
    let s := s.setHist h { e with group := none, frames := e.frames ++ fs }
    { s with his := { s.his with crops := s.his.crops.map fun c => if c.head = h then { c with waits := false } else c } }

/-- A row enters the open group, or opens one. -/
def enterGroup (h : Nat) (r : HisRow) (s : State) : State :=
  let far := match (s.hist h).group with
    | some g => decide (64 ≤ (r.tag.lseq + 2 ^ 40 - g.lseq0) % 2 ^ 40)
    | none => false
  let s := if far then closeGroup h s else s
  let e := s.hist h
  let g := e.group.getD { head := h, pred := s.rd Reg.HisHead.PRED h, fmt := s.rd Reg.Head.FMT h, hw := s.rd Reg.Head.HW h,
                          d := depthBits s h, stripW := headStripW s h, planes := planesOf s h }
  s.setHist h { e with group := some { g with rows := g.rows ++ [r] } }

/-- Mark the row of an LSEQ as taken and free slots (R165). -/
def markTaken (h lseq : Nat) (s : State) : State :=
  let e := s.head h
  freeSlots h (s.setHead h { e with rows := e.rows.map fun r => if r.tag.lseq = lseq then { r with taken := true } else r })

/-- No effect: HIS has no streamed operations; it only passes their points (R33). -/
def noEff (_ : Held) (s : State) : State := s

/-- The oldest row of a head that HIS has not taken. -/
def untaken (s : State) (h : Nat) : Option EbRow := (s.head h).rows.find? fun r => !r.taken

/-- HIS takes a raw copy of the oldest row that it has not taken (R413, R414, R422). -/
def historyTake (h : Nat) (s : State) : State :=
  if !s.on Reg.HisHead.EN h then s
  else match untaken s h with
    | none => s
    | some r =>
      let s := stageRow noEff 10 0 false h r.tag.lseq r.tag.pos r.tag.epoch s
      let s := enterGroup h { tag := r.tag, pay := slotPayload s h r.slot } s
      let n := stripsOf s h * (32 + planesOf s h * headStripW s h * depthBits s h / 8)
      let s := (markTaken h r.tag.lseq (s.wrap Reg.HisHead.OBYTES h n)).evt 0xA h 0x01
      if s.his.crops.any fun c => c.head == h && c.waits && c.beyond r.tag then closeGroup h s else s

/-- HIS cannot hand a row to a compressor in time: it diverts the row (R413, Table 1-13). -/
def divertAtHis (h : Nat) (s : State) : State :=
  if !s.on Reg.HisHead.EN h then s
  else match untaken s h with
    | none => s
    | some r =>
      let s := (s.note h 0x10 r.tag).sat Reg.HisHead.HDIVCNT h 1
      let s := stageDivert noEff 10 0 false h r.tag.lseq r.tag.pos r.tag.epoch s
      (markTaken h r.tag.lseq s).evt 0xA h 0x03

/-- HFLUSH_EXPIRY: a group has been open for HFLUSH, and a crop has waited for it no longer than that (R414, R422). -/
def execHflushExpiry (h : Nat) (s : State) : Out := within h 32 <| ok (closeGroup h s)

/-! ### Placement (R419) -/

/-- Address of the directory entry of a number. -/
def dirAddr (s : State) (h idx : Nat) : Nat := s.rd Reg.HisHead.DIRBASE h + 32 * (idx % 2 ^ s.rd Reg.HisHead.DLOG h)

/-- Clear VALID of an entry in DRAM. -/
def clearValid (h : Nat) (s : State) (e : HisEntry) : State :=
  let a := dirAddr s h e.idx
  s.put a (wordBytes 8 (s.read64 a &&& 0x7FFFFFFFFFFFFFFF))

/-- Place a coded frame: entries of frames to be overwritten lose VALID, then the frame, then its entry (R419). -/
def placeFrame (h : Nat) (f : HisFrame) (bs : List Byte) (s : State) : State :=
  let units := cdiv bs.length 64
  let hwp := s.rd Reg.HisHead.HWP h
  let at_ := if hwp + 64 * units ≤ s.rd Reg.HisHead.HSIZE h then hwp else 0
  let e := s.hist h
  let hit := fun (x : HisEntry) => decide (x.ofs * 64 < at_ + 64 * units ∧ at_ < (x.ofs + x.units) * 64)
  let s := (e.entries.filter hit).foldl (clearValid h) s
  let idx := s.rd Reg.HisHead.DWP h
  let left := e.entries.filter fun x => !hit x
  let reused := fun (x : HisEntry) => x.idx + 2 ^ s.rd Reg.HisHead.DLOG h == idx
  let s := s.sat Reg.HisHead.DIRLOSTCNT h (left.countP reused)
  let t := match f.group.rows with | r :: _ => r.tag.time | [] => 0
  let ent : HisEntry := { idx := idx, ofs := at_ / 64, units := units, strip := f.strip, lseq0 := f.group.lseq0, present := f.group.present, tfirst := t }
  let s := s.put (s.rd Reg.HisHead.HBASE h + at_) (padTo (64 * units) bs)
  let s := s.put (dirAddr s h idx) (wordsBytes [fld 1 1 63 ||| fld f.strip 8 55 ||| fld ent.lseq0 40 0,
    fld ent.ofs 32 32 ||| fld units 32 0, BitVec.ofNat 64 t, 0])
  let s := s.setHist h { e with frames := e.frames.drop 1, entries := left.filter (fun x => !reused x) ++ [ent] }
  let s := (s.wr Reg.HisHead.HWP h (at_ + 64 * units)).wrap Reg.HisHead.DWP h 1
  ((s.wrap Reg.HisHead.FRAMECNT h 1).wrap Reg.HisHead.SBYTES h (64 * units)).evt 0xA h 0x40

/-- FRAME_WRITE: the oldest frame of a head, once coded, is written with its entry while its area can be reached. -/
def execFrameWrite (h : Nat) (s : State) : Out :=
  within h 32 <|
    match (s.hist h).frames with
    | f :: _ =>
      match f.bytes with
      | some bs => if s.inDram (s.rd Reg.HisHead.HBASE h) (s.rd Reg.HisHead.HSIZE h) then ok (placeFrame h f bs s) else ok s
      | none => ok s
    | [] => ok s

/-! ### Settings (R426) -/

/-- Fields that HIS.CFG writes. -/
def hisFields : List Field :=
  [Reg.HisHead.EN, Reg.HisHead.PRED, Reg.HisHead.HBASE, Reg.HisHead.HSIZE, Reg.HisHead.DLOG, Reg.HisHead.DIRBASE, Reg.HisHead.HFLUSH]

/-- RL of a head's frames with its present settings. -/
def headRowLen (s : State) (h : Nat) : Nat := 32 + planesOf s h * headStripW s h * depthBits s h / 8

/-- EN goes to 0: the open group closes, and rows that HIS has not taken are taken by nobody (R414, R165). -/
def stopHistory (h : Nat) (s : State) : State :=
  let s := closeGroup h s
  let e := s.head h
  freeSlots h (s.setHead h { e with rows := e.rows.map fun r => { r with taken := true } })

/-- HIS.CFG: writes a head block; while EN is 1 only EN and HFLUSH may change (R426). A new frame area or directory holds
none of the frames written before. -/
def execHisCfg (x : XWord) (s : State) : Out :=
  blockOp 0xA 1 32 x 0x200a0000 4 hisFields
    (fun a s =>
      let same := fun f => blockVal 0x200a0000 a s f a.i == s.rd f a.i
      if s.on Reg.HisHead.EN a.i && !([Reg.HisHead.PRED, Reg.HisHead.HBASE, Reg.HisHead.HSIZE, Reg.HisHead.DLOG, Reg.HisHead.DIRBASE].all same)
      then some stBUSY else none)
    (fun f a s => s.hasDram (f Reg.HisHead.HBASE) (f Reg.HisHead.HSIZE) && s.hasDram (f Reg.HisHead.DIRBASE) (32 * 2 ^ f Reg.HisHead.DLOG) &&
      decide (f Reg.HisHead.HBASE % 64 = 0 ∧ f Reg.HisHead.DIRBASE % 32 = 0 ∧ f Reg.HisHead.HSIZE % 64 = 0 ∧ f Reg.HisHead.PRED ≤ 3) &&
      decide (4 * (32 + 64 * (headRowLen s a.i + 5)) ≤ f Reg.HisHead.HSIZE) &&
      inRange (f Reg.HisHead.DLOG) 10 26 && inRange (f Reg.HisHead.HFLUSH) 1 10000)
    (fun h s t =>
      let moved := [Reg.HisHead.HBASE, Reg.HisHead.HSIZE, Reg.HisHead.DLOG, Reg.HisHead.DIRBASE].any fun f => s.rd f h != t.rd f h
      let t := if moved then t.setHist h { t.hist h with entries := [] } else t
      if s.on Reg.HisHead.EN h && !t.on Reg.HisHead.EN h then stopHistory h t else t) s

/-- CMP.CFG: SEARCH, 1 to 64 (R426). -/
def execCmpCfg (x : XWord) (s : State) : Out :=
  xop 0xB 1 x (fun a s =>
    let v := (a.w 0).toNat
    if 1 < a.ws.length ∨ !inRange v 1 64 then .no stBOUNDS s else .fin stOK (s.wr Reg.Cmp.SEARCH 0 v)) s

/-- HIS.CNTCLR of one head. -/
def hisCntOne (h : Nat) (s : State) : State :=
  s.clr h [Reg.HisHead.FRAMECNT, Reg.HisHead.HDIVCNT, Reg.HisHead.DIRLOSTCNT, Reg.HisHead.CROPCNT, Reg.HisHead.OBYTES, Reg.HisHead.SBYTES]

/-- CMP.CNTCLR. -/
def cmpCnt (s : State) : State := s.clr 0 [Reg.Cmp.CRCFAILCNT, Reg.Cmp.STREAMERRCNT]

/-! ### Decompression and checks (R425) -/

/-- Invert the filter over the rows of a frame; `prev` holds the planes of the row before. -/
def unfilterRows (pred d w planes : Nat) : List (List Nat) → List (List Byte) → List (List Byte)
  | _, [] => []
  | prev, r :: rs =>
    let seg := w * d / 8
    let ps := (List.range planes).map fun p =>
      unfilterPlane pred d 0 (prev.getD p []) (unpackSamples d w ((r.drop (32 + seg * p)).take seg))
    (r.take 32 ++ ps.flatMap (packSamples d)) :: unfilterRows pred d w planes ps rs

/-- Cut bytes into n rows of a length. -/
def cutRows (len : Nat) : Nat → List Byte → List (List Byte)
  | 0, _ => []
  | n + 1, bs => bs.take len :: cutRows len n (bs.drop len)

/-- Set FLAGS CRCERR in a row's tag (R26). -/
def markCrc (r : List Byte) : List Byte := r.set 30 (r.getD 30 0 ||| 0x10)

/-- The bytes of an extent up to the first poisoned burst. -/
def cleanBytes (s : State) (a n : Nat) : List Byte :=
  s.readBytes a (((List.range n).find? fun k => s.poisoned (a + k) 1).getD n)

/-- Decompress and check a frame: RESULT and the rows delivered. The planes are those of the head that the header names,
by its present settings (log entry 41). -/
def checkFrame (s : State) (hdr : List Word) (pay : List Byte) : Nat × List Byte :=
  let w := fun k => hdr.getD k 0
  let h := bits (w 0) 63 59
  let olen := bits (w 2) 63 32
  let n := popcount (w 1)
  let len := headRowLen s h
  let r := inflate pay
  let rows := unfilterRows (bits (w 0) 50 48) (depthBits s h) (headStripW s h) (planesOf s h) [] (cutRows len (min n (r.out.length / len)) r.out)
  let out := rows.flatten
  if !r.ok then (3, (rows.map markCrc).flatten)
  else if r.out.length ≠ olen then (2, (rows.map markCrc).flatten)
  else if (crc32c out).toNat ≠ bits (w 3) 63 32 then (1, (rows.map markCrc).flatten)
  else (0, out)

/-- Count a check's result and the bytes that passed (Table 8-11, R425). -/
def countCheck (r inB outB : Nat) (s : State) : State :=
  let s := (s.evt 0xB 0 0x40 (inB / 64)).evt 0xB 0 0x41 (outB / 64)
  let s := (s.sat Reg.Cmp.CRCFAILCNT 0 (b2n (r == 1 || r == 2))).sat Reg.Cmp.STREAMERRCNT 0 (b2n (r == 3))
  if r = 0 then s else s.evt 0xB 0 0x42

/-- CMP.FRAME: starts a check of one frame (R425). -/
def execCmpFrame (x : XWord) (s : State) : Out :=
  xop 0xB 2 x (fun a s => .start { s with his := { s.his with checks := s.his.checks ++ [(a.addr, (List.range 3).map a.w)] } }) s

/-- CMP_FRAME_COMPLETE: check k of those under way ends; w3 takes the bytes written and RESULT (R425). -/
def execCmpFrameComplete (k : Nat) (s : State) : Out :=
  match s.his.checks[k]? with
  | none => ok s
  | some (addr, ws) =>
    let a := bits (ws.getD 0 0) 47 0
    let hdr := s.readWords a 4
    let clen := bits (hdr.getD 2 0) 31 0
    let r := checkFrame s hdr (cleanBytes s (a + 32) clen)
    let out := r.2.take (bits (ws.getD 2 0) 31 0)
    let s := countCheck r.1 clen out.length (s.put (bits (ws.getD 1 0) 47 0) out)
    let ls := markDone (fun l => l.unit == 0xB && l.op == 2 && l.addr == addr) stOK s.seq.longs
    let s := { s with his := { s.his with checks := s.his.checks.eraseIdx k }, seq := { s.seq with longs := ls } }
    ok (s.write64 (addr + 24) (fld out.length 32 32 ||| fld r.1 8 0))

/-! ### Crops (R422 to R424) -/

/-- A frame's rows overlap the range of a crop. -/
def Crop.takes (k : Crop) (es : List HisEntry) (e : HisEntry) : Bool :=
  if k.byTime then
    let next := es.find? fun f => f.strip == e.strip && decide (e.idx < f.idx)
    decide (e.tfirst ≤ k.last) && (match next with | some f => decide (k.first < f.tfirst) | none => true)
  else (List.range 64).any fun r => e.present.testBit r && decide (k.first ≤ e.lseq0 + r ∧ e.lseq0 + r ≤ k.last)

/-- The frames in the area that a crop selects. -/
def Crop.selects (s : State) (k : Crop) : List HisEntry :=
  let es := (s.hist k.head).entries
  es.filter fun e => inRange e.strip k.sfirst k.slast && k.takes es e

/-- An entry still stands VALID in the directory. -/
def entryStands (s : State) (h : Nat) (e : HisEntry) : Bool :=
  let w := s.read64 (dirAddr s h e.idx)
  bit w 63 && bits w 62 55 == e.strip && bits w 39 0 == e.lseq0

/-- A group, open or closed and not yet written, may hold rows of the range. -/
def Crop.meets (k : Crop) (g : HisGroup) : Bool :=
  if k.byTime then (match g.rows with | r :: _ => decide (r.tag.time ≤ k.last) | [] => false)
  else decide (g.lseq0 ≤ k.last ∧ k.first < g.lseq0 + 64)

/-- A crop of MODE 0 that does not wait takes a DMA channel where one is idle (R461). -/
def cropDma (k : Crop) (s : State) : Crop × State :=
  if k.mode ≠ 0 ∨ k.waits ∨ k.dma.isSome then (k, s)
  else match takeDma 2 s with
    | some (c, t) => ({ k with dma := some c }, t)
    | none => (k, s)

/-- HIS.CROP: starts cutting a crop (R422). -/
def execHisCrop (x : XWord) (s : State) : Out :=
  xop 0xA 2 x (fun a s =>
    let w0 := a.w 0
    let h := bits w0 63 59
    let k : Crop := { head := h, sfirst := bits w0 58 51, slast := bits w0 50 43, byTime := bit w0 2, mode := bits w0 1 0,
                      first := (a.w 1).toNat, last := (a.w 2).toNat, dst := bits (a.w 3) 47 0, size := bits (a.w 4) 31 0,
                      work := bits (a.w 5) 47 0, addr := a.addr }
    if k.slast < k.sfirst ∨ stripsOf s h ≤ k.slast ∨ k.last < k.first ∨ k.mode = 3 ∨ !s.on Reg.HisHead.EN h then .no stBOUNDS s
    else
      let passed := match (s.hist h).group with
        | some g => k.meets g && (match g.rows.getLast? with | some r => k.beyond r.tag | none => false)
        | none => false
      let s := if passed then closeGroup h s else s
      let k := { k with waits := (s.hist h).group.any k.meets, sel := (k.selects s).map (·.idx) }
      let (k, s) := cropDma k s
      .start { s with his := { s.his with crops := s.his.crops ++ [k] } }) s

/-- Frames in order of LSEQ0, then STRIP (R423). -/
def insEntry (e : HisEntry) : List HisEntry → List HisEntry
  | [] => [e]
  | x :: xs => if e.lseq0 < x.lseq0 ∨ (e.lseq0 = x.lseq0 ∧ e.strip ≤ x.strip) then e :: x :: xs else x :: insEntry e xs

/-- What a frame is delivered as, and the RESULT of its check in mode 1 (R423, R424). -/
def Crop.frame (s : State) (k : Crop) (e : HisEntry) : List Byte × Nat :=
  let a := s.rd Reg.HisHead.HBASE k.head + 64 * e.ofs
  let hdr := s.readWords a 4
  let clen := bits (hdr.getD 2 0) 31 0
  let hb := s.readBytes a 32
  match k.mode with
  | 0 => (s.readBytes a (64 * e.units), 0)
  | 1 => let r := checkFrame s hdr (cleanBytes s (a + 32) clen); (hb ++ r.2, r.1)
  | _ =>
    ([0x1F, 0x8B, 0x08, 0x04, 0, 0, 0, 0, 0, 0xFF, 36, 0, 0x45, 0x5A, 32, 0] ++ hb ++ s.readBytes (a + 32) clen ++
      (s.readBytes (a + 24) 4) ++ s.readBytes (a + 20) 4, 0)

/-- What a crop has delivered. -/
structure Cut where
  /-- The state. -/
  s : State
  /-- Bytes. -/
  n : Nat := 0
  /-- Frames. -/
  frames : Nat := 0
  /-- Frames not VALID or reused. -/
  gone : Nat := 0
  /-- Units listed in the index table. -/
  units : Nat := 0
  /-- The destination could not hold a frame. -/
  trunc : Bool := false

/-- Deliver one frame, unless delivery has stopped. -/
def Crop.deliver (k : Crop) (m : Cut) (e : HisEntry) : Cut :=
  if m.trunc then m
  else if !entryStands m.s k.head e then { m with gone := m.gone + 1 }
  else
    let f := k.frame m.s e
    if k.size < m.n + f.1.length then { m with trunc := true }
    else
      let offs := (List.range e.units).flatMap fun u => wordBytes 4 (BitVec.ofNat 64 (e.ofs + u))
      let s := if k.mode = 0 then m.s.put (k.work + 4 * m.units) offs else m.s
      let s := if k.mode = 1 then countCheck f.2 (64 * e.units) f.1.length s else s
      { m with s := s.put (k.dst + m.n) f.1, n := m.n + f.1.length, frames := m.frames + 1,
               units := m.units + (if k.mode = 0 then e.units else 0) }

/-- The DMA channel of a crop of MODE 0 ends its gather and goes back to software (R423, R461, R466). -/
def cropDmaEnd (k : Crop) (n : Nat) (s : State) : State :=
  match k.dma with
  | none => s
  | some c =>
    let s := s.wrAll c [(Reg.Dma.DONE, n), (Reg.Dma.DRESULT, 0), (Reg.Dma.HALF, 1), (Reg.Dma.FULL, 1), (Reg.Dma.OWNER, 0)]
    (((s.wrap Reg.Dma.DESCCNT c 1).evt 0xE c 0x40).evt 0xE c 0x41 (n / 64)).emit (416 + c) |>.emit (432 + c)

/-- CROP_COMPLETE: crop number i of those under way has delivered its frames and writes its results, once it waits for no
group, no frame of the range is still to be written, and in mode 0 it has a channel (R423). -/
def execCropComplete (i : Nat) (s : State) : Out :=
  match s.his.crops[i]? with
  | none => ok s
  | some k =>
    let (k, s) := cropDma k s
    let s := { s with his := { s.his with crops := s.his.crops.set i k } }
    let todo := (s.hist k.head).frames.any fun f => k.meets f.group && inRange f.strip k.sfirst k.slast
    if k.waits || todo || (k.mode == 0 && k.dma.isNone) then ok s
    else
      let es := (k.selects s).foldr insEntry []
      let lost := k.sel.countP fun n => !es.any fun e => e.idx == n
      let m := es.foldl k.deliver { s := s }
      let ls := markDone (fun l => l.unit == 0xA && l.op == 2 && l.addr == k.addr) stOK m.s.seq.longs
      let s := { m.s with his := { m.s.his with crops := m.s.his.crops.eraseIdx i }, seq := { m.s.seq with longs := ls } }
      let s := s.writeWords (k.addr + 48) [fld m.n 32 0, fld (b2n m.trunc) 1 63 ||| fld (m.gone + lost) 16 32 ||| fld m.frames 32 0]
      ok ((cropDmaEnd k m.n (s.sat Reg.HisHead.CROPCNT k.head 1)).evt 0xA k.head 0x41)

end Sys2Proof.Machine
end

