-- ==== Sys2Proof/Machine/Flow.lean ====
section
/-!
DEFINITION. The flow of packets between the stages: what each stage does with a packet it applies, the retirement of
epochs, streamed operations on their way, gaps, cuts, marks and stage timeouts, and the steps of rows from stage to
stage (R30 to R63).
-/
namespace Sys2Proof.Machine

/-! ### Packets at their stages -/

/-- What a packet does at its stage. -/
def stageEff (e : Held) (s : State) : State :=
  match e.stage with
  | 5 => rpaEff e s
  | 6 => sstEff e s
  | 7 => rtkEff (s.rtk e.pkt.stream).last e s
  | 8 => rclEff e s
  | _ => s

/-- Epochs that every stage has passed retire, and halts on code areas that become inactive end (R36, R256). -/
def retireAll (s : State) : State := liftHalts (retireEpochs stageEff s.cuts.length s)

/-- The streams that the apply context names: all running ones for a group target (R260). -/
def contextStreams (s : State) : List (Bool × Nat) :=
  match s.seq.xat.target with
  | .none => []
  | .head h => [(false, h)]
  | .view v => [(true, v)]
  | .heads => (runningHeads s).map fun h => (false, h)
  | .views => (openViews s).map fun v => (true, v)

/-- The CTRL packet of a formed operation for a stream; an apply-at LSEQ has 40 bits (R30, R260, R292). -/
def formPkt (s : State) (f : Forming) (t : Bool × Nat) : Pkt :=
  let x := s.seq.xat
  { unit := f.unit, op := f.op, mode := x.mode, dir := x.dir, vs := t.1, stream := t.2, value := if x.mode = 0 then x.value % 2 ^ 40 else x.value,
    time := s.pt, cseq := curCseq s, ord := s.seq.ord, words := f.words }

/-- RPA.LOAD and RCL.MODEL act once on their unit, whichever streams carry them (R237, R392). -/
def actsOnce (p : Pkt) : Bool := (p.unit == 5 && p.op == 1) || (p.unit == 8 && p.op == 1)

/-- An RPA.LOAD packet reaches RPA: the copies of its image into the inactive area begin; none while no area is inactive
(R237). -/
def startLoad (p : Pkt) (s : State) : Option State :=
  (freeArea s).map fun k =>
    let c : Copy := { addr := bits (p.words.getD 0 0) 47 0, epoch := p.value % 128, area := k, cseq := p.cseq, ord := p.ord }
    { s with rpa := { s.rpa with copies := s.rpa.copies ++ (List.range 72).map fun u => { c with rp := u } } }

/-- Start the copy of a packet that acts once. -/
def startCopy (p : Pkt) (s : State) : Option State := if p.unit = 5 then startLoad p s else startModelCopy p s

/-- Insert a formed operation into one target stream, or apply it to the state of a stream that does not run (R259). -/
def insertPkt (f : Forming) (s : State) (t : Bool × Nat) : State :=
  let es := (subsOf s f.unit t.2).map fun l => ({ stage := f.unit, sub := l, pkt := formPkt s f t } : Held)
  if streamRuns s t.1 t.2 then { s with transit := s.transit ++ es } else es.foldl (fun s e => applyOne stageEff e s) s

/-- The streams that a formed operation targets: RPA.LOAD every head stream and RCL.MODEL every view stream, the others those of
the apply context (R236, R260, R391). -/
def targetStreams (s : State) (f : Forming) : List (Bool × Nat) :=
  if f.unit = 5 ∧ f.op = 1 then (List.range 32).map fun h => (false, h)
  else if f.unit = 8 ∧ f.op = 1 then (List.range 16).map fun v => (true, v)
  else contextStreams s

/-- Insert a formed operation that acts once: RPA.LOAD allocates its banks, and the packet travels in one of the running streams; with
none it acts at once (R237, R249, R259). -/
def insertOnce (f : Forming) (ts : List (Bool × Nat)) (s : State) : State :=
  let run := (ts.find? fun t => streamRuns s t.1 t.2)
  let p := formPkt s f (run.getD (false, 0))
  let s := if f.unit = 5 then allocate p.ord (bits (p.words.getD 0 0) 47 0) s else s
  let wait := { s with transit := s.transit ++ [({ stage := f.unit, pkt := p } : Held)] }
  if run.isSome then wait else (startCopy p s).getD wait

/-- STREAMED_OP_ISSUE: the formed operation issues once the control pool of every target stream accepts its packet (R63, R259), and the
pair holds its lease (R538). -/
def execStreamedOpIssue (s : State) : Out :=
  match s.seq.forming with
  | none => ok s
  | some f =>
    let ts := targetStreams s f
    if !leaseHeld s || s.seq.stopped || ts.any fun t => poolFull s f.unit t.1 t.2 then ok s
    else
      let s1 := if actsOnce (formPkt s f (false, 0)) then insertOnce f ts s else ts.foldl (insertPkt f) s
      let s2 := { s1 with seq := { s1.seq with forming := none, ord := s.seq.ord + 1 } }
      ok (xDone stOK (s2.evt 0 0 0x41))

/-- A packet of a stream that does not run applies on arrival, unless it waits for an epoch that has not retired (R33). -/
def arrivesStopped (e : Held) (s : State) : State :=
  if e.pkt.mode = 2 ∧ !epochRetired s (e.pkt.value % 128) then { s with held := s.held ++ [e] } else applyOne stageEff e s

/-- CTRL_PACKET_ARRIVE: packet n of those in transit reaches its stage and is held there, at most 64 of a stream (R32,
R34). A packet that acts once waits upstream while no area is free. -/
def execCtrlPacketArrive (n : Nat) (s : State) : Out :=
  match s.transit[n]? with
  | none => ok s
  | some e =>
    let s1 := { s with transit := s.transit.eraseIdx n }.evt e.stage (unitInst s e.stage e.sub e.pkt.stream) 0x01
    if actsOnce e.pkt then ok ((startCopy e.pkt s1).getD s)
    else if !streamRuns s e.pkt.vs e.pkt.stream then
      if e.pkt.mode = 2 ∧ 64 ≤ heldCount s e then ok s else ok (arrivesStopped e s1)
    else if 64 ≤ heldCount s e then ok s
    else ok { s1 with held := s1.held ++ [{ e with late := arrivesLate s e }] }

/-! ### Gaps, cuts and marks -/

/-- A row of a head stream before an LSEQ has strips that wait at RPA, run, or are to run again. -/
def rowsBefore (s : State) (h lseq : Nat) : Bool :=
  let before := fun (t : Tag) => t.head == h && !lseqAfter lseq t.lseq && t.lseq != lseq
  ((s.head h).rows.any fun r => before r.tag && !r.todo.isEmpty) ||
    (s.procs.any fun p => match p.2.run with | some r => !r.restore && before r.tag | none => false) || s.rpa.replays.any fun e => before e.tag

/-- GAP packet n cannot arrive yet: an earlier one of its stream is before it on the same link; at RPA, rows before it are; and RPA
sends it on only into a free slot of the next link's pool (R33, R58, R63). -/
def gapWaits (s : State) (n : Nat) (g : GapPkt) : Bool :=
  ((s.gaps.take n).any fun e => e.stage == g.stage && e.stream == g.stream) ||
    (g.stage == 5 && (rowsBefore s g.stream g.lseq || poolFull s 6 false g.stream))

/-- GAP_PACKET_ARRIVE: GAP packet n of those on their way reaches RPA, which passes points and sends it on, or SST (R33,
R58). -/
def execGapPacketArrive (n : Nat) (s : State) : Out :=
  match s.gaps[n]? with
  | none => ok s
  | some g =>
    if gapWaits s n g then ok s
    else
      let s := countPkt g.stage g.stream 0x01 { s with gaps := s.gaps.eraseIdx n }
      if g.stage = 5 then
        let s := (lrpsOf s g.stream).foldl (fun s l => stageGap rpaEff 5 l false g.stream g.lseq g.rows s) s
        let s := stageGap noEff 10 0 false g.stream g.lseq g.rows s
        ok (retireAll (countPkt 5 g.stream 0x02 { s with gaps := s.gaps ++ [{ g with stage := 6 }] }))
      else ok (retireAll (headGap g s))

/-- CUT packet n cannot arrive yet: an earlier one of its stream is before it on the same link, or the pool of the next link that it
goes on to is full (R63). -/
def cutWaits (s : State) (n : Nat) (c : CutPkt) : Bool :=
  ((s.cutPkts.take n).any fun e => e.stage == c.stage && e.vs == c.vs && e.stream == c.stream) ||
    (c.stage == 2 && poolFull s 5 c.vs c.stream) || (c.stage == 5 && poolFull s 6 c.vs c.stream)

/-- CUT_PACKET_ARRIVE: CUT packet n of those on their way reaches a stage, which receives it and passes it on: HAU assigns epochs by
it (R38, R39, PMU events 0x01 and 0x02). -/
def execCutPacketArrive (n : Nat) (s : State) : Out :=
  match s.cutPkts[n]? with
  | none => ok s
  | some c =>
    if cutWaits s n c then ok s
    else
      let s := countPkt c.stage c.stream 0x01 { s with cutPkts := s.cutPkts.eraseIdx n }
      if c.stage = 2 then
        let e := s.head c.stream
        ok (countPkt 2 c.stream 0x02 { s.setHead c.stream { e with cuts := e.cuts ++ [c.cut] } with
          cutPkts := s.cutPkts ++ [{ c with stage := 5 }] })
      else if c.stage = 5 then ok (countPkt 5 c.stream 0x02 { s with cutPkts := s.cutPkts ++ [{ c with stage := 6 }] })
      else ok s

/-- PROGRESS_MARK_ARRIVE: the mark at the head of RCL's or DLG's input passes its apply-at points (R630). -/
def execProgressMarkArrive (unit : Nat) (s : State) : Out :=
  match unit with
  | 8 => ok (retireAll (markAtRcl s))
  | 9 => ok (retireAll (markAtDlg s))
  | _ => .fault .noInstance

/-! ### Timeouts (R61, Table 1-13) -/

/-- A logical row processor has waited past the timeout: for SST with outputs that it still does not take, or for journal room with
its next strip (R61, R251). -/
def divertOutbox (l : Nat) (s : State) : State :=
  match takeOut l s.rpa.outbox with
  | none => if Tbl.get (fun _ => false) s.rpa.jwait l && !journalRoom s l && lrpFree s l then divertNext l s else s
  | some (o, os) => if sstTakes s o then s else divertAtRpa l 0x04 o.tag { s with rpa := { s.rpa with outbox := os } }

/-- STAGE_TIMEOUT: the wait of a stage's instance has outlasted its timeout; it diverts the packet at the head of its
queue to the Sump. -/
def execStageTimeout (stage i : Nat) (s : State) : Out :=
  match stage with
  | 5 => within i 64 (ok (retireAll (divertOutbox i s)))
  | 6 => within i 16 (ok (retireAll (divertView i s)))
  | 7 => ok (divertAtRtk s)
  | 8 => ok (retireAll (divertAtRcl s))
  | 9 => ok (retireAll (divertAtDlg s))
  | 10 => within i 32 (ok (retireAll (divertAtHis i s)))
  | 12 => within i 8 (ok (divertAtOvs i s))
  | _ => .fault .noInstance

/-! ### Rows from stage to stage -/

/-- STRIP_ACCEPT: SST accepts the strip that logical row processor l delivers (R45, R339, R360). -/
def execStripAccept (l : Nat) (s : State) : Out := within l 64 <| ok (retireAll (stripAccept l s))

/-- VIEW_ROW_FORM: SST forms the next row of a view (R342). -/
def execViewRowForm (v : Nat) (s : State) : Out := within v 16 <| ok (retireAll (viewRowForm v false s))

/-- EDGETO_EXPIRY: SST forms the next row of a view without the exchange that it waits for (R359). -/
def execEdgetoExpiry (v : Nat) (s : State) : Out := within v 16 <| ok (retireAll (viewRowForm v true s))

/-- VIEW_ROW_PROCESS: RTK processes the next row of a view (R364). -/
def execViewRowProcess (v : Nat) (s : State) : Out := within v 16 <| ok (retireAll (viewRowProcess v s))

/-- VIEW_GAP_PROCESS: RTK takes the next GAP packet of a view (R367). -/
def execViewGapProcess (v : Nat) (s : State) : Out := within v 16 <| ok (retireAll (viewGapProcess v s))

/-- VIEW_STOP_PROCESS: RTK learns that a view has stopped being open (R368). -/
def execViewStopProcess (v : Nat) (s : State) : Out := within v 16 <| ok (retireAll (viewStopProcess v s))

/-- HISTORY_ROW_TAKE: HIS takes a copy of the next row of a head (R413). -/
def execHistoryRowTake (h : Nat) (s : State) : Out := within h 32 <| ok (retireAll (historyTake h s))

/-- OVS_SOURCE_ROW: a stream commits its next source row (R429). -/
def execOvsSourceRow (k : Nat) (s : State) : Out := within k 8 <| ok (retireAll (ovsSourceRow k s))

/-- OVS_GAP_RECEIVE: a stream takes the next GAP packet or stop of its source (R435, R436). -/
def execOvsGapReceive (k : Nat) (s : State) : Out := within k 8 <| ok (retireAll (ovsGapReceive k s))

/-! ### HAU.STOP (R151) -/

/-- A running head begins to stop: RUN 0 goes to the camera, TES stops, its view closes (R151, R342, R343). -/
def beginStop (h : Nat) (s : State) : State :=
  let s := forgetUnissued h s
  let s := s.setTes h { s.tesOf h with queue := [], due := 0 }
  let s := s.wr Reg.TesHead.RUNNING h 0
  let s := s.setHead h { s.head h with stopping := true }
  let s := sendCmd h { use := .stop, addr := 0x100, data := ctrlWord s h 0 } s
  match viewOf s h with
  | some v => closeView v s
  | none => s

/-- A starting head is aborted: RUN 0 goes out where the write of step 8 has been sent and the master lane is LOCKED
(R151). -/
def abortStart (h : Nat) (st : Start) (s : State) : State :=
  let s := failStart h stABORT s
  let s := s.setTes h { s.tesOf h with dl := (s.tesOf h).dl.filter fun d => !d.start }
  if st.step = 8 then stopCamera h s else s

/-- HAU.STOP: stops a running head, aborts a starting one, and does nothing to an idle one; on a head that is stopping it
completes with the stop under way (R151; log entry 71). -/
def execHauStop (x : XWord) (s : State) : Out :=
  xop 2 0x06 x (fun a s =>
    if 32 ≤ a.i then .no stBOUNDS s
    else match (s.head a.i).start with
      | some st => .fin stOK (abortStart a.i st s)
      | none =>
        if !s.running a.i then .fin stOK s
        else if (s.head a.i).stopping then .start s
        else .start (retireAll (beginStop a.i s))) s

/-- The assignments of a head are released (R232). -/
def releaseAssigns (h : Nat) (s : State) : State :=
  let s := { s with rpa := { s.rpa with assigns := s.rpa.assigns.filter fun e => e.2 == 0 || (e.2 - 1) / 256 != h } }
  (List.range 64).foldl (fun s l => s.wr Reg.Lrp.NASSIGN l (assignedIdx s l).length) s

/-- A stopping head is settled: nothing in its buffer, no trigger outstanding (R151). -/
def stopSettled (s : State) (h : Nat) : Bool :=
  let e := s.head h
  e.stopping && e.rows.isEmpty && e.recs.isEmpty && e.line.isNone && (s.tesOf h).queue.isEmpty

/-- HAU_STOP_COMPLETE: the head's buffer is empty and no trigger is outstanding: packets held for the stream apply,
statistics and the frame group close, streams that select the head learn of it (R33, R151, R232, R334, R414, R436). -/
def execHauStopComplete (h : Nat) (s : State) : Out :=
  within h 32 <|
    if !stopSettled s h then ok s
    else
      let s := sendGap h s
      let s := (lrpsOf s h).foldl (fun s l => stageStop rpaEff 5 l false h s) s
      let s := stageStop noEff 10 0 false h (stageStop sstEff 6 0 false h s)
      let s := releaseAssigns h (closeGroup h (closeAllStats h s))
      let s := putItem { kind := .stop, vs := false, src := h, need := streamsOf s false h } s
      let s := showAssigned h 0 (s.setHead h { s.head h with stopping := false })
      ok (retireAll ((s.wr Reg.Head.RUNNING h 0).completeAll 2 0x06 h stOK))

end Sys2Proof.Machine
end

