-- ==== Sys2Proof/Machine/Time.lean ====
section
/-!
DEFINITION. TNT: presented time and its servo, PPS, and the Ethernet ports with their time stamps (R507 to R509, R519 to
R528).
-/
namespace Sys2Proof.Machine

/-- A TNT cause: source 456 + k emits when TEVEN enables it (Table 16-4). -/
def tntEmit (k : Nat) (s : State) : State := if (s.rd Reg.Tnt.TEVEN 0).testBit k then s.emit (456 + k) else s

/-! ### Presented time (R520, R521) -/

/-- The fold: BASE = PT(now) and ANCHOR = RAW(now) in one step; what remains of an offset goes on, at the rate given. -/
def foldTime (ppm : Nat) (s : State) : State :=
  let left := s.tnt.slew - s.absorbed s.raw
  let t := s.pt
  (s.wrAll 0 [(Reg.Tnt.BASE, t), (Reg.Tnt.ANCHOR, s.raw)]) |> fun s => { s with tnt := { s.tnt with slew := left, ppm := ppm } }

/-- The servo's part of the increment from now on. -/
def setServo (adj : Int) (s : State) : State :=
  let s := foldTime s.tnt.ppm s
  { s with tnt := { s.tnt with adj := adj } }

/-- The whole second of PPS_OUT that presented time has reached (R525). -/
def ppsSecond (s : State) : Int := ((s.pt : Int) - s.rdI Reg.Tnt.PPSOFS 0) / 16000000000

/-- Seconds up to the present one count as fired. -/
def skipSeconds (s : State) : State :=
  let k := ppsSecond s
  { s with tnt := { s.tnt with fired := some (match s.tnt.fired with | some f => max f k | none => k) } }

/-- Presented time steps by a signed number of ticks (R509, R521). -/
def stepTime (d : Int) (s : State) : State :=
  let s := foldTime s.tnt.ppm s
  let s := (s.wr Reg.Tnt.BASE 0 (low 64 (s.rd Reg.Tnt.BASE 0 + d))).sat Reg.Tnt.STEPCNT 0 1
  tntEmit 2 (skipSeconds s)

/-- INC's range, 15.984 to 16.016 in Q8.40 (R520). -/
def incOk (inc : Nat) : Bool := decide (15984 * 2 ^ 40 ≤ 1000 * inc ∧ 1000 * inc ≤ 16016 * 2 ^ 40)

/-- TNT.INC: a new increment, presented time continuous (R520); BUSY with TMODE 1 (R521). -/
def execTntInc (x : XWord) (s : State) : Out :=
  xop 0x12 0x01 x (fun a s =>
    let inc := bits (a.w 0) 47 0
    if !incOk inc then .no stBOUNDS s
    else if s.rd Reg.Tnt.TMODE 0 = 1 then .no stBUSY s
    else .fin stOK ((foldTime s.tnt.ppm s).wr Reg.Tnt.INC 0 inc)) s

/-- TNT.OFFSET: a step at once, or an offset absorbed at SLEWPPM (R521). -/
def execTntOffset (x : XWord) (s : State) : Out :=
  xop 0x12 0x02 x (fun a s =>
    let d := (a.w 0).toInt
    if s.rd Reg.Tnt.TMODE 0 = 1 then .no stBUSY s
    else if a.arg % 2 = 1 then
      (if !(runningHeads s).isEmpty then .no stHEADBUSY s else .fin stOK (stepTime d s))
    else
      let s := foldTime (s.rd Reg.Tnt.SLEWPPM 0) s
      .fin stOK { s with tnt := { s.tnt with slew := s.tnt.slew + d } }) s

/-- TMODE changes: into FABRIC the next SYNC is the first; out of it presented time goes on at INC (R504, R509). -/
def setTmode (m : Nat) (s : State) : State :=
  if m = s.rd Reg.Tnt.TMODE 0 then s
  else if m = 1 then
    let s := s.wr Reg.Tnt.TMODE 0 1
    { s with tnt := { s.tnt with firstSync := true } }
  else (setServo 0 s).wrAll 0 [(Reg.Tnt.TMODE, m), (Reg.Tnt.TSLEWING, 0)]

/-- Fields that TNT.PPS writes, with their payload words (R528). -/
def ppsFields : List (Nat × Field) :=
  [(0, Reg.Tnt.PPSEN), (0, Reg.Tnt.PPSPOL), (0, Reg.Tnt.PPSW), (0, Reg.Tnt.PPSOFS), (1, Reg.Tnt.TSBW), (1, Reg.Tnt.STEPTHR),
   (1, Reg.Tnt.SLEWPPM), (2, Reg.Tnt.TEVEN)]

/-- TNT.PPS: PPS settings, and from w1 TMODE, TSBW, STEPTHR and SLEWPPM (R528). -/
def execTntPps (x : XWord) (s : State) : Out :=
  xop 0x12 0x04 x (fun a s =>
    let v := payOr a s 0
    if !inRange (v 0 Reg.Tnt.PPSW) 1 65535 || !inRange (v 1 Reg.Tnt.SLEWPPM) 1 1000 || !inRange (v 1 Reg.Tnt.TSBW) 1 1000 ||
        decide (1 < v 1 Reg.Tnt.TMODE) then .no stBOUNDS s
    else
      let m := v 1 Reg.Tnt.TMODE
      let s := foldTime (v 1 Reg.Tnt.SLEWPPM) s
      let s := setTmode m (setFrom a 0 ppsFields s)
      .fin stOK (if s.on Reg.Tnt.PPSEN 0 then skipSeconds s else s)) s

/-! ### The servo (R509) -/

/-- SYNCOK changes; its fall to 0 is a cause. -/
def setSyncOk (b : Bool) (s : State) : State :=
  let was := s.on Reg.Tnt.SYNCOK 0
  let s := s.wr Reg.Tnt.SYNCOK 0 (b2n b)
  if was && !b then tntEmit 3 s else s

/-- The largest change of the increment, 1,000 ppm of INC. -/
def servoMax (s : State) : Int := s.rd Reg.Tnt.INC 0 / 1000

/-- Slew at 1,000 ppm towards the master's time. -/
def slewServo (e : Int) (s : State) : State :=
  let was := s.on Reg.Tnt.TSLEWING 0
  let s := (setServo (if 0 ≤ e then servoMax s else -servoMax s) s).wr Reg.Tnt.TSLEWING 0 1
  if was then s else tntEmit 6 s

/-- The loop acts: its output within the limits is a free value (log entry 46). -/
def runServo (s : State) : State :=
  let r := s.fresh
  setServo (clampI (-servoMax r.2) (servoMax r.2) (signed 48 r.1.toNat)) (r.2.wr Reg.Tnt.TSLEWING 0 0)

/-- Discipline of presented time by an error e in ticks (R509). -/
def discipline (e : Int) (s : State) : State :=
  let thr := 16 * s.rd Reg.Tnt.STEPTHR 0
  let need := s.tnt.firstSync || decide (thr < e.natAbs)
  let s := setSyncOk (decide (e.natAbs < 1600)) (s.wr Reg.Tnt.TERR 0 (low 64 e))
  let s := { s with tnt := { s.tnt with firstSync := false } }
  if need && e != 0 && (runningHeads s).isEmpty then (stepTime e s).wr Reg.Tnt.TSLEWING 0 0
  else if (need || s.on Reg.Tnt.TSLEWING 0) && decide (thr ≤ e.natAbs) then slewServo e s
  else runServo s

/-! ### TBREF and PPS (R519, R525) -/

/-- TBREF_FAULT: TBREF is absent or lies more than ±500 ppm from 25 MHz (R519). -/
def execTbrefFault (s : State) : Out :=
  if s.on Reg.Tnt.TBFAULT 0 then ok s else ok (tntEmit 7 (s.wr Reg.Tnt.TBFAULT 0 1))

/-- PPS_IN_EDGE: an edge of the polarity of PPSPOL is stamped (R525). -/
def execPpsInEdge (falling : Bool) (s : State) : Out :=
  if s.on Reg.Tnt.PPSPOL 0 == falling then ok (tntEmit 0 (s.wr Reg.Tnt.PPSRAW 0 s.raw)) else ok s

/-- PPS_OUT_FIRE: presented time has reached the instant of a second above the last fired (R525). -/
def execPpsOutFire (s : State) : Out :=
  let k := ppsSecond s
  if s.on Reg.Tnt.PPSEN 0 && (match s.tnt.fired with | some f => decide (f < k) | none => true) then
    ok (tntEmit 1 { s with tnt := { s.tnt with fired := some k, ppsOut := true } })
  else ok s

/-- PPS_OUT_END: the pulse has lasted PPSW. -/
def execPpsOutEnd (s : State) : Out := ok { s with tnt := { s.tnt with ppsOut := false } }

/-! ### Ethernet (R522 to R524) -/

/-- An Ethernet port beside its block. -/
def State.ethOf (s : State) (e : Nat) : EthState := Tbl.get (fun _ => {}) s.tnt.eth e

/-- Replace it. -/
def State.setEth (s : State) (e : Nat) (x : EthState) : State :=
  { s with tnt := { s.tnt with eth := Tbl.set (fun _ => {}) s.tnt.eth e x } }

/-- Fields that TNT.PTP writes, with their payload words. -/
def ptpFields : List (Nat × Field) :=
  [(0, Reg.TntPort.EN), (0, Reg.TntPort.SPEED), (0, Reg.TntPort.MAC), (1, Reg.TntPort.TXLAT), (1, Reg.TntPort.RXLAT), (1, Reg.TntPort.ETHASYM),
   (2, Reg.TntPort.ETHPOLL), (2, Reg.TntPort.QLOG), (2, Reg.TntPort.QBASE), (3, Reg.TntPort.MCAST)]

/-- Bytes of the header and of the two descriptor rings of a port (log entry 47). -/
def ringBytes (qlog : Nat) : Nat := 64 + 64 * 2 ^ qlog

/-- TNT.PTP: an Ethernet port block; BUSY while EN is 1 unless only ETHPOLL changes (R528). -/
def execTntPtp (x : XWord) (s : State) : Out :=
  direct 0x12 0x03 2 x (fun a s =>
    let v := payOr a s a.i
    let base := v 2 Reg.TntPort.QBASE
    if !inRange (v 2 Reg.TntPort.ETHPOLL) 1 10000 || !inRange (v 2 Reg.TntPort.QLOG) 2 10 || base % 4096 != 0 ||
        decide (0x2000000 < base + ringBytes (v 2 Reg.TntPort.QLOG)) then .error stBOUNDS
    else if s.on Reg.TntPort.EN a.i && ptpFields.any (fun f => f.2 != Reg.TntPort.ETHPOLL && v f.1 f.2 != s.rd f.2 a.i) then .error stBUSY
    else
      let was := s.on Reg.TntPort.EN a.i
      let s := setFrom a a.i ptpFields s
      .ok (if was then s else s.setEth a.i { polled := s.pt })) s

/-- Byte k of a frame as a number. -/
def frameByte (f : List Byte) (k : Nat) : Nat := (f.getD k 0).toNat

/-- Bytes k and k + 1 of a frame, network order. -/
def frameHalf (f : List Byte) (k : Nat) : Nat := 256 * frameByte f k + frameByte f (k + 1)

/-- Where the PTP message of a frame starts: over Ethernet, UDP/IPv4 and UDP/IPv6 to the event port (R523, log entry 48). -/
def ptpStart (f : List Byte) : Option Nat :=
  let t := frameHalf f 12
  if t = 0x88F7 then some 14
  else if t = 0x0800 then
    let ihl := 4 * (frameByte f 14 % 16)
    if frameByte f 23 = 17 ∧ frameHalf f (14 + ihl + 2) = 319 then some (14 + ihl + 8) else none
  else if t = 0x86DD then (if frameByte f 20 = 17 ∧ frameHalf f 56 = 319 then some 62 else none)
  else none

/-- The frame carries a PTP event message: Sync, Delay_Req, Pdelay_Req or Pdelay_Resp (R523). -/
def ptpEvent (f : List Byte) : Bool :=
  match ptpStart f with | some k => decide (k < f.length ∧ frameByte f k % 16 < 4) | none => false

/-- A MAC address of a frame or of memory, first byte highest. -/
def macOf (bs : List Byte) : Nat := bs.foldl (fun x b => 256 * x + b.toNat) 0

/-- The destination passes the port's filter: its MAC, broadcast, or an enabled multicast address (R522). -/
def ethTakes (s : State) (e : Nat) (f : List Byte) : Bool :=
  let d := macOf (f.take 6)
  let base := s.rd Reg.TntPort.QBASE e
  d == s.rd Reg.TntPort.MAC e || d == 2 ^ 48 - 1 ||
    ((List.range 8).any fun k => (s.rd Reg.TntPort.MCAST e).testBit k && d == (s.read64 (base + 8 * k)).toNat % 2 ^ 48)

/-- Descriptor k of the receive ring (0) or transmit ring (1) of a port (Table 16-3, log entry 47). -/
def descAt (s : State) (e ring k : Nat) : Nat :=
  let n := 2 ^ s.rd Reg.TntPort.QLOG e
  s.rd Reg.TntPort.QBASE e + 64 + 32 * (ring * n + k % n)

/-- Word 0 of a descriptor. -/
def descWord (own cls err : Bool) (len : Nat) : Word := fld (b2n own) 1 63 ||| fld (b2n cls) 1 62 ||| fld (b2n err) 1 61 ||| fld len 14 0

/-- A class H stamp was taken on a port (Tables 8-11, 16-4). -/
def hardStamp (e : Nat) (s : State) : State := tntEmit (4 + e) (s.evt 0x12 e 0x40)

/-- ETH_FRAME_RECEIVE: a frame (without FCS) is filtered, stamped and placed in the receive ring; a full ring drops it
(R522 to R524). -/
def execEthFrameReceive (e : Nat) (frame : List Byte) (fcsOk : Bool) (s : State) : Out :=
  within e 2 <|
    if !s.on Reg.TntPort.EN e || !inRange frame.length 60 9216 || !ethTakes s e frame then ok s
    else
      let x := s.ethOf e
      let d := descAt s e 0 x.rx
      if (s.read64 d).getLsbD 63 then ok (s.sat Reg.TntPort.RXDROP e 1)
      else
        let h := ptpEvent frame
        let stamp := (s.pt : Int) - s.rd Reg.TntPort.RXLAT e - s.rdI Reg.TntPort.ETHASYM e
        let s := s.put (bits (s.read64 (d + 24)) 47 0) frame
        let s := s.put d (wordsBytes [descWord true h (!fcsOk) frame.length, if h then BitVec.ofInt 64 stamp else 0, 0])
        let n := 2 ^ s.rd Reg.TntPort.QLOG e
        let s := (s.wrap Reg.TntPort.RXFRM e 1).setEth e
          { x with rx := (x.rx + 1) % n, unpolled := if h then x.unpolled else x.unpolled ++ [x.rx] }
        ok (if h then hardStamp e s else s)

/-- ETH_FRAME_TRANSMIT: the next frame that software has handed over is sent; an event message's stamp is written (R523). -/
def execEthFrameTransmit (e : Nat) (s : State) : Out :=
  within e 2 <|
    let x := s.ethOf e
    let d := descAt s e 1 x.tx
    let w := s.read64 d
    if !s.on Reg.TntPort.EN e || !w.getLsbD 63 then ok s
    else
      let len := bits w 13 0
      let h := ptpEvent (s.readBytes (bits (s.read64 (d + 24)) 47 0) (min len 9216))
      let s := s.put d (wordsBytes ([descWord false h false len] ++ if h then [BitVec.ofNat 64 (s.pt + s.rd Reg.TntPort.TXLAT e)] else []))
      let s := s.setEth e { x with tx := (x.tx + 1) % 2 ^ s.rd Reg.TntPort.QLOG e }
      ok (if h then hardStamp e s else s)

/-- ETH_RING_POLL: the control program's poll stamps the frames that it finds, class F (R524). -/
def execEthRingPoll (e : Nat) (s : State) : Out :=
  within e 2 <|
    let x := s.ethOf e
    if !s.on Reg.TntPort.EN e then ok s
    else
      let unc := min (s.pt - x.polled) (2 ^ 32 - 1)
      let t := s.pt
      ok (x.unpolled.foldl (fun s k => s.put (descAt s e 0 k + 8) (wordsBytes [BitVec.ofNat 64 t, BitVec.ofNat 64 unc]))
        (s.setEth e { x with unpolled := [], polled := t }))

end Sys2Proof.Machine
end

