-- ==== Sys2Proof/Machine/Fabric.lean ====
section
/-!
DEFINITION. Wyton Link: nodes and routes, delay measurement, the fabric master lease, shared position and time, and
epoch cuts, local and fabric-wide (R36, R219, R494 to R518). Time-outs are events: a command stands at the moment at
which its interval has passed (log entry 12).
-/
namespace Sys2Proof.Machine

/-! ### Helpers -/

/-- Replace WLK's state beside its registers. -/
def State.setWlk (s : State) (w : WlkState) : State := { s with wlk := w }

/-- The ports that are up. -/
def upPorts (s : State) : List Nat := (List.range 4).filter s.portUp

/-- The ports whose neighbour reaches HOLDER through this device: the tree of R506. -/
def belowPorts (s : State) : List Nat := (upPorts s).filter fun p => (s.port p).below

/-- The voters (R502). -/
def voters (s : State) : List Nat :=
  (((List.range 4).map fun k => s.rd2 Reg.Wlk.VOTERSLO 0 k) ++ (List.range 3).map fun k => s.rd2 Reg.Wlk.VOTERSHI 0 k).filter (· != 0)

/-- A list of voters is a majority. -/
def majority (s : State) (vs : List Nat) : Bool := decide ((voters s).length < 2 * ((voters s).countP fun v => vs.contains v))

/-- The device votes. -/
def isVoter (s : State) : Bool := (voters s).contains (s.rd Reg.Wlk.NODE 0)

/-- The device is the fabric master. -/
def isMaster (s : State) : Bool := s.on Reg.Wlk.MASTER 0

/-- LEASELEN in raw ticks. -/
def leaseTicks (s : State) : Nat := 16000 * s.rd Reg.Wlk.LEASELEN 0

/-- The master acts: LEASELEN has not passed since the last renewal that a majority acknowledged (R503). -/
def masterActs (s : State) : Bool := isMaster s && decide (s.raw < s.wlk.leased + leaseTicks s)

/-- Ticks after which a voter may grant another TERM: LEASELEN + LEASEGUARD (R503). -/
def guardTicks (s : State) : Nat := leaseTicks s + leaseTicks s / 1000 + 160000

/-- A WLK service: BUSY while NODE is 0 (R495). -/
def wlkOp (f : XArgs → State → XRes) (a : XArgs) (s : State) : XRes := if s.rd Reg.Wlk.NODE 0 = 0 then .no stBUSY s else f a s

/-! ### Settings (R495, R496, R500, R515, R516, R527) -/

/-- Enabled ports leave OFF once the device has a NODE, and go OFF without one. -/
def wakePorts (s : State) : State :=
  (List.range 4).foldl (fun s p =>
    if s.rd Reg.Wlk.NODE 0 = 0 ∨ !s.on Reg.WlkPort.EN p then portDown p 0 s
    else if s.rd Reg.WlkPort.PSTATE p = 0 then s.wr Reg.WlkPort.PSTATE p 1 else s) s

/-- WLK.NODE: node ID and cut settings (R495, R527). -/
def execWlkNode (x : XWord) (s : State) : Out :=
  xop 0x11 0x01 x (fun a s =>
    let v := payOr a s 0
    if !inRange (v 1 Reg.Wlk.CUTWIN) 100 100000 || v 1 Reg.Wlk.CUTTRIES == 0 then .no stBOUNDS s
    else
      let s := setFrom a 0 [(0, Reg.Wlk.CUTDOM), (0, Reg.Wlk.NODE), (1, Reg.Wlk.CUTWIN), (1, Reg.Wlk.AMAX), (1, Reg.Wlk.CUTTRIES), (2, Reg.Wlk.WEVEN)] s
      .fin stOK (wakePorts (if s.on Reg.Wlk.CUTDOM 0 then s else s.wr Reg.Wlk.OUTDOMAIN 0 0))) s

/-- A code of a route entry (R496). -/
def routeCode (c : Nat) : Bool := decide (c < 4 ∨ c = 0xE ∨ c = 0xF)

/-- WLK.ROUTE: 8 entries of the route table per payload word, from node i (R496). -/
def execWlkRoute (x : XWord) (s : State) : Out :=
  xop 0x11 0x02 x (wlkOp fun a s =>
    if a.i % 8 ≠ 0 ∨ 16384 < a.i + 8 * a.ws.length ∨
        !(a.ws.all fun w => (List.range 16).all fun k => routeCode (bits w (4 * k + 3) (4 * k))) then .no stBOUNDS s
    else .fin stOK (a.ws.zipIdx.foldl (fun s w => s.putWord Reg.Wlk.ROUTE 0 (a.i + 8 * w.2) w.1) s)) s

/-- WLK.PORT: enables a port and sets ASYM (R494, R500). -/
def execWlkPort (x : XWord) (s : State) : Out :=
  xop 0x11 0x03 x (wlkOp fun a s =>
    if 4 ≤ a.i ∨ 2 < a.ws.length then .no stBOUNDS s
    else .fin stOK (wakePorts (setFrom a a.i [(0, Reg.WlkPort.EN), (0, Reg.WlkPort.ASYM)] s))) s

/-- WLK.EDGE: the nodes left and right of a view (R515). -/
def execWlkEdge (x : XWord) (s : State) : Out :=
  xop 0x11 0x04 x (wlkOp fun a s =>
    if 16 ≤ a.i then .no stBOUNDS s
    else .fin stOK (setFrom a a.i [(0, Reg.WlkEdge.LNODE), (0, Reg.WlkEdge.RNODE)] s)) s

/-- WLK.FWD: the collector and FWDTO with instance 0, an inbound ring with instance 0x100 + stream (R516, R517, R527). -/
def execWlkFwd (x : XWord) (s : State) : Out :=
  xop 0x11 0x05 x (wlkOp fun a s =>
    if a.i = 0 then
      (if !inRange (payOr a s 0 0 Reg.Wlk.FWDTO) 1 10000 then .no stBOUNDS s
       else .fin stOK (setFrom a 0 [(0, Reg.Wlk.COLLECTOR), (0, Reg.Wlk.FWDTO)] s))
    else
      let k := a.i - 0x100
      let log := payOr a s k 1 Reg.WlkInbound.IRLOG
      if a.i < 0x100 ∨ 8 ≤ k ∨ payOr a s k 0 Reg.WlkInbound.IRBASE % 64 ≠ 0 ∨ !(log == 0 || inRange log 4 24) then .no stBOUNDS s
      else .fin stOK (setFrom a k [(0, Reg.WlkInbound.IRBASE), (1, Reg.WlkInbound.IRLOG)] s)) s

/-- Fields of WLK.LEASE. -/
def leaseFields : List (Nat × Field) :=
  [(0, Reg.Wlk.SYNCPER), (0, Reg.Wlk.PSTO), (0, Reg.Wlk.RANK), (0, Reg.Wlk.LSRC), (1, Reg.Wlk.LEASELEN), (1, Reg.Wlk.RENEW)]

/-- The words of the list of voters, as the payload or the present registers give them. -/
def voterWords (a : XArgs) (s : State) : Word × Word :=
  (if 2 < a.ws.length then a.w 2 else s.word Reg.Wlk.VOTERSLO.base, if 3 < a.ws.length then a.w 3 else s.word Reg.Wlk.VOTERSHI.base)

/-- At least one voter is named. -/
def someVoter (v : Word × Word) : Bool := (bits v.1 55 0 != 0) || (bits v.2 41 0 != 0)

/-- A HOLDER is known: heard over a port, or the device itself (R502). -/
def holderKnown (s : State) : Bool := isMaster s || (List.range 4).any fun p => (s.port p).holder != 0

/-- Every WLK.LEASE under way completes once a HOLDER is known. -/
def completeLeases : Nat → State → State
  | 0, s => s
  | n + 1, s =>
    match s.seq.longs.find? fun l => l.unit == 0x11 && l.op == 6 && l.done.isNone with
    | some l => if holderKnown s then completeLeases n (s.complete 0x11 6 l.inst stOK) else s
    | none => s

/-- WLK.LEASE: the fabric master lease's parameters; completes when a HOLDER is known (R502). -/
def execWlkLease (x : XWord) (s : State) : Out :=
  xop 0x11 0x06 x (wlkOp fun a s =>
    let v := payOr a s 0
    let vs := voterWords a s
    if !inRange (v 1 Reg.Wlk.LEASELEN) 100 1000000 || !inRange (v 1 Reg.Wlk.RENEW) 10 (v 1 Reg.Wlk.LEASELEN / 2) ||
        decide (11 < v 0 Reg.Wlk.LSRC) || !inRange (v 0 Reg.Wlk.SYNCPER) 1 1000 || !inRange (v 0 Reg.Wlk.PSTO) 2 10000 || !someVoter vs then
      .no stBOUNDS s
    else
      let s := setFrom a 0 leaseFields s
      let s := (s.putWord Reg.Wlk.VOTERSLO 0 0 (fld vs.1.toNat 56 0)).putWord Reg.Wlk.VOTERSHI 0 0 (fld vs.2.toNat 42 0)
      if holderKnown s then .fin stOK s else .start s) s

/-! ### HELLO and delay (R494, R495, R500) -/

/-- The port through which the device reaches HOLDER: that of its route (R495; log entry 158). -/
def holderPort (s : State) : Option Nat := if isMaster s then none else (routeOf s (s.rd Reg.Wlk.HOLDER 0)).filter (· < 4)

/-- HELLO_SEND: an enabled port whose lanes are LOCKED sends a HELLO with NODE, HOLDER, TERM and the port towards HOLDER (R495). -/
def execHelloSend (p : Nat) (s : State) : Out :=
  within p 4 <| if s.rd Reg.WlkPort.PSTATE p = 0 then ok s
    else ok (s.portSend p { pkt := .hello (s.rd Reg.Wlk.NODE 0) (s.rd Reg.Wlk.HOLDER 0) (s.rd Reg.Wlk.TERM 0) (holderPort s) })

/-- HOLDER or TERM changes (cause LEASE). -/
def setHolder (holder term : Nat) (s : State) : State :=
  if s.rd Reg.Wlk.HOLDER 0 = holder ∧ s.rd Reg.Wlk.TERM 0 = term then s
  else (s.wrAll 0 [(Reg.Wlk.HOLDER, holder), (Reg.Wlk.TERM, term)]).wlkCause 4

/-- An acknowledging device discards a cut that it hears no more of (R513). -/
def orphanCut (s : State) : State :=
  match s.wlk.cut with
  | some c =>
    if c.master || !c.replied || !c.ack then s.setWlk { s.wlk with cut := none }
    else ((s.setWlk { s.wlk with cut := none }).sat Reg.Wlk.CUTORPHCNT 0 1).wlkCause 1
  | none => s

/-- A TERM is heard: the highest is kept; when it is new the lease has changed hands (R503, R513). -/
def hearTerm (term : Nat) (s : State) : State :=
  if term ≤ s.wlk.seenTerm then s else orphanCut (s.setWlk { s.wlk with seenTerm := term })

/-- HELLO_RECEIVE: a neighbour's HELLO with its NODE, HOLDER and TERM, and whether it reaches HOLDER through this device.
The port comes up, or shows DUPNODE (R494, R495). -/
def execHelloReceive (p node holder term : Nat) (below : Bool) (s : State) : Out :=
  within p 4 <|
    if s.rd Reg.WlkPort.PSTATE p = 0 then ok s
    else
      let s := ((s.wrap Reg.WlkPort.RXPKT p 1).evt 0x11 p 0x41).wr Reg.WlkPort.NBRNODE p node
      if node % 2 ^ 14 = s.rd Reg.Wlk.NODE 0 then ok (if s.rd Reg.WlkPort.PSTATE p = 4 then s else portDown p 4 s)
      else
        let s := if s.portUp p then s else (s.wr Reg.WlkPort.PSTATE p 2).emit (496 + p)
        let s := s.setPort p { s.port p with heard := true, below := below && holder != 0, holder := holder % 2 ^ 14 }
        let s := if holder = 0 ∨ isMaster s ∨ term < s.wlk.seenTerm then s else setHolder (holder % 2 ^ 14) term (hearTerm term s)
        ok (completeLeases s.seq.longs.length s)

/-- DELAY_MEASURE: a round trip and the far end's residence, in ticks: (trip − residence) ÷ 2 + ASYM, and LINKDLY is the mean of the last
16 such measurements, kept twice as large (R500). -/
def execDelayMeasure (p : Nat) (trip far : Nat) (s : State) : Out :=
  within p 4 <|
    if !s.portUp p then ok s
    else
      let ds := (((trip : Int) - far + 2 * s.rdI Reg.WlkPort.ASYM p) :: (s.port p).delays).take 16
      let mean := ds.foldl (· + ·) (0 : Int) / (2 * ds.length : Nat)
      let s := (s.portSend p { pkt := .delay }).wrap Reg.WlkPort.RXPKT p 1
      ok ((((s.evt 0x11 p 0x41).evt 0x12 0 0x40 2).setPort p { s.port p with delays := ds }).wrI Reg.WlkPort.LINKDLY p mean)

/-! ### Cuts (R36, R219, R220, R510 to R514) -/

/-- Epochs in flight, an announced one included (R36). -/
def epochsInFlight (s : State) : Nat := s.cuts.length + b2n s.wlk.cut.isSome

/-- The device takes part in fabric cuts: CUTDOM 1, and its epoch is that of SYNC (R514). -/
def inDomain (s : State) : Bool := s.on Reg.Wlk.CUTDOM 0 && !s.on Reg.Wlk.OUTDOMAIN 0

/-- OUTDOMAIN follows the epoch of SYNC on a device with CUTDOM 1 (R514). -/
def followEpoch (s : State) : State :=
  s.wr Reg.Wlk.OUTDOMAIN 0 (b2n (s.on Reg.Wlk.CUTDOM 0 && !isMaster s && s.rd Reg.Cut.EPOCH 0 != s.wlk.syncEpoch))

/-- L of R511, nm: (|v| + AMAX × CUTWIN) × CUTWIN, rounded up. -/
def cutLead (s : State) : Nat :=
  let w := s.rd Reg.Wlk.CUTWIN 0
  cdiv ((s.spdAt s.raw).natAbs * w * 1000 + s.rd Reg.Wlk.AMAX 0 * w * w) 1000000

/-- The further of two positions in a direction. -/
def further (dir : Nat) (a b : Int) : Int := if dir = 0 then max a b else min a b

/-- A position d nm further in a direction. -/
def ahead (dir : Nat) (p : Int) (d : Nat) : Int := if dir = 0 then p + d else p - d

/-- The furthest of two reports, if any. -/
def furtherOpt (dir : Nat) : Option Int → Option Int → Option Int
  | some a, some b => some (further dir a b)
  | some a, none => some a
  | none, b => b

/-- The furthest Pnext of the running heads (R511). -/
def furthestNext (s : State) (dir : Nat) : Option Int :=
  (runningHeads s).foldl (fun m h => furtherOpt dir m (some (nextRowPos s h))) none

/-- The device acknowledges a cut (R511, R514): a device outside the domain refuses nothing. -/
def acksCut (s : State) (epoch dir : Nat) (pcut : Int) : Bool :=
  if !inDomain s then true
  else if (s.rd Reg.Cut.EPOCH 0 + 1) % 128 ≠ epoch then false
  else match furthestNext s dir with
    | none => true
    | some p => decide (s.cuts.length < 63) && (if dir = 0 then decide (p + cutLead s ≤ pcut) else decide (pcut ≤ p - cutLead s))

/-- MINPOS of a device that refuses: its furthest Pnext + 2 × L (R511). -/
def ownMinpos (s : State) (dir : Nat) : Option Int := (furthestNext s dir).map fun p => ahead dir p (2 * cutLead s)

/-- The device's own decision joins the replies from below; a refusal of its own is a cause and counts (R511). -/
def decideCut (c : FabCut) (s : State) : FabCut × State :=
  if acksCut s c.epoch c.dir c.pos then ({ c with replied := true }, s)
  else ({ c with replied := true, ack := false, minpos := furtherOpt c.dir c.minpos (ownMinpos s c.dir) },
        (s.sat Reg.Wlk.CUTREFCNT 0 1).wlkCause 2)

/-- OUTDOMAIN clears once the device reaches the epoch of SYNC (R514). -/
def followEpochIf (e : Nat) (s : State) : State := if s.rd Reg.Cut.EPOCH 0 = e then s.wr Reg.Wlk.OUTDOMAIN 0 0 else s

/-- The cut is placed on a device of the domain whose current epoch it ends; when Pcut has been passed it is placed at the first
trigger not yet committed (R513). A SYNC with the new epoch that has come before the commit has set OUTDOMAIN, which clears then
(R514). -/
def placeFabric (c : FabCut) (s : State) : State :=
  if !s.on Reg.Wlk.CUTDOM 0 || (s.rd Reg.Cut.EPOCH 0 + 1) % 128 != c.epoch then s
  else if cutValid s c.dir c.pos then followEpochIf c.epoch (placeCut c.epoch c.dir c.pos true s)
  else
    let p := (furthestNext s c.dir).getD c.pos
    let h := ((runningHeads s).find? fun h => nextRowPos s h == p).getD 0
    let n := (s.rd Reg.Head.LSEQNEXT h + (s.tesOf h).queue.length) % 2 ^ 40
    let s := followEpochIf c.epoch (placeCut c.epoch c.dir p true s)
    ((s.sat Reg.Wlk.CUTSLIPCNT 0 1).wr Reg.Wlk.SLIPLSEQ 0 n).wlkCause 0

/-- The TES.CUT that waits for the fabric completes. -/
def completeCut (st : Nat) (s : State) : State :=
  match s.seq.longs.find? fun l => l.unit == 4 && l.op == 5 && l.done.isNone with
  | some l => s.complete 4 5 l.inst st
  | none => s

/-- The master commits: messages go down, its own cut is placed, TES.CUT completes (R512, R513). -/
def commitCut (c : FabCut) (s : State) : State :=
  let s := placeFabric c (sendOn (belowPorts s) (.commit (s.rd Reg.Wlk.TERM 0) c.epoch) (s.setWlk { s.wlk with cut := none }))
  completeCut stOK (s.setWlk { s.wlk with syncEpoch := s.rd Reg.Cut.EPOCH 0 })

/-- The master announces a cut; the messages go down the tree (R510). -/
def announceCut (c : FabCut) (s : State) : FabCut × State :=
  let ps := belowPorts s
  ({ c with wait := ps, ack := true, minpos := none, replied := false }, sendOn ps (.announce (s.rd Reg.Wlk.TERM 0) c.epoch c.dir c.pos) s)

/-- The master holds the replies, or CUTWIN ÷ 2 has passed: it commits, announces again further ahead, or gives up after
CUTTRIES announcements (R512). -/
def concludeCut : Nat → FabCut → State → State
  | 0, _, s => s
  | n + 1, c, s =>
    if c.ack && c.wait.isEmpty then commitCut c s
    else
      let s := (sendOn (belowPorts s) (.cancel (s.rd Reg.Wlk.TERM 0) c.epoch) s).wlkCause 3
      if s.rd Reg.Wlk.CUTTRIES 0 ≤ c.tries then
        completeCut stCUTLATE ((s.setWlk { s.wlk with cut := none }).sat Reg.Cut.CUTLATECNT 0 1)
      else
        let p := match c.minpos with | some p => p | none => ahead c.dir c.pos (2 * cutLead s)
        let r := announceCut { c with pos := p, tries := c.tries + 1 } s
        if !r.1.wait.isEmpty then r.2.setWlk { r.2.wlk with cut := some r.1 }
        else
          let d := decideCut r.1 r.2
          concludeCut n d.1 d.2

/-- The master starts a fabric cut (R510). -/
def startCut (dir : Nat) (pcut : Int) (s : State) : State :=
  let r := announceCut { epoch := (s.rd Reg.Cut.EPOCH 0 + 1) % 128, pos := pcut, dir := dir, master := true } s
  if !r.1.wait.isEmpty then r.2.setWlk { r.2.wlk with cut := some r.1 }
  else
    let d := decideCut r.1 r.2
    concludeCut 16 d.1 d.2

/-- A local cut: the next epoch, or on a device that rejoins the epoch that SYNC carries (R219, R514, log entry 49). -/
def localCut (dir : Nat) (pcut : Int) (s : State) : XRes :=
  let cur := s.rd Reg.Cut.EPOCH 0
  if s.on Reg.Wlk.CUTDOM 0 && !s.on Reg.Wlk.OUTDOMAIN 0 then .no stBUSY s
  else if s.on Reg.Wlk.OUTDOMAIN 0 && !epochLater s.wlk.syncEpoch cur then .no stBUSY s
  else if !cutValid s dir pcut then .no stCUTLATE (s.sat Reg.Cut.CUTLATECNT 0 1)
  else
    let e := if s.on Reg.Wlk.OUTDOMAIN 0 then s.wlk.syncEpoch else (cur + 1) % 128
    .fin stOK (retireAll (followEpochIf s.wlk.syncEpoch (placeCut e dir pcut false s)))

/-- A running head's control pool has no slot for a CUT packet (R63). -/
def cutPoolFull (s : State) : Bool := (runningHeads s).any fun h => poolFull s 2 false h

/-- TES.CUT: a local cut, or with FABRIC 1 a fabric cut on the master; it waits for a 64th epoch, for a fabric cut under way and
for the control pools (R36, R63, R219, R510). -/
def tesCut (a : XArgs) (s : State) : XRes :=
  let pcut := (a.w 0).toInt
  let dir := b2n (bit (a.w 1) 0)
  if bit (a.w 1) 1 then
    if !isMaster s || !s.on Reg.Wlk.CUTDOM 0 then .no stBUSY s
    else if s.wlk.cut.isSome || decide (63 ≤ epochsInFlight s) || cutPoolFull s then .hold s
    else
      let l : LongOp := { cseq := curCseq s, idx := (s.proc (activeCore s)).pc, unit := 4, op := 5, inst := a.i, addr := a.addr }
      -- the operation stands in the list of long operations before the announcement that may complete it
      let t := startCut dir pcut { s with seq := { s.seq with longs := s.seq.longs ++ [l] } }
      .fin stOK (retireAll t)
  else if 63 ≤ epochsInFlight s || cutPoolFull s then .hold s
  else localCut dir pcut s

/-- TES.CUT with FABRIC 0. -/
def execTesCut (x : XWord) (s : State) : Out := xop 4 0x05 x tesCut s

/-- TES.CUT with FABRIC 1. -/
def execTesCutFabric (x : XWord) (s : State) : Out := xop 4 0x05 x (fun a s => tesCut a s) s

/-- EPOCH_WAIT_RESUME: a waiting TES.CUT goes on once an epoch has retired, the fabric cut before it has ended or the control pools
have room (R36, R63, R510). -/
def execEpochWaitResume (s : State) : Out :=
  match s.seq.wait with
  | some (4, 5, x) =>
    if 63 ≤ epochsInFlight s then ok s else execTesCut x { s with seq := { s.seq with wait := none } }
  | _ => ok s

/-- A device replies upward once it holds every reply from below (R511). -/
def replyCut (c : FabCut) (s : State) : State :=
  let d := decideCut c s
  if d.1.master then concludeCut 16 d.1 d.2
  else (d.2.setWlk { d.2.wlk with cut := some d.1 }).portSend d.1.up { pkt := .reply d.1.epoch d.1.ack d.1.minpos }

/-- A CTRL packet of a master: ignored from a TERM below the highest seen (R503). -/
def fromMaster (p term : Nat) (f : State → Out) (s : State) : Out :=
  fromPort p (fun s => if term < s.wlk.seenTerm ∨ isMaster s then ok s else f (hearTerm term s)) s

/-- CUT_ANNOUNCE_RECEIVE: the announcement goes down, and without devices below the device replies (R511). -/
def execCutAnnounceReceive (p term epoch dir : Nat) (pcut : Int) (s : State) : Out :=
  fromMaster p term (fun s =>
    let ps := (belowPorts s).filter (· != p)
    let c : FabCut := { epoch := epoch % 128, pos := pcut, dir := dir % 2, up := p, wait := ps }
    let s := sendOn ps (.announce term c.epoch c.dir c.pos) s
    if ps.isEmpty then ok (replyCut c s) else ok (s.setWlk { s.wlk with cut := some c })) s

/-- A reply from below, or a refusal for a silent device, joins the cut. -/
def joinReply (p : Nat) (ack : Bool) (minpos : Option Int) (s : State) : State :=
  match s.wlk.cut with
  | none => s
  | some c =>
    if !c.wait.contains p then s
    else
      let c := { c with wait := c.wait.filter (· != p), ack := c.ack && ack, minpos := if ack then c.minpos else furtherOpt c.dir c.minpos minpos }
      if c.wait.isEmpty then replyCut c s else s.setWlk { s.wlk with cut := some c }

/-- CUT_REPLY_RECEIVE: a reply of the subtree below a port (R511, R512). -/
def execCutReplyReceive (p : Nat) (ack : Bool) (minpos : Option Int) (s : State) : Out :=
  fromPort p (fun s => ok (retireAll (joinReply p ack minpos s))) s

/-- CUT_SUBTREE_TIMEOUT: a device below has been silent for CUTWIN ÷ 4; it is refused for (R511). -/
def execCutSubtreeTimeout (p : Nat) (s : State) : Out :=
  within p 4 <|
    match s.wlk.cut with
    | some c =>
      if c.wait.contains p then ok (retireAll (joinReply p false none ((s.sat Reg.Wlk.CUTREFCNT 0 1).wlkCause 2))) else ok s
    | none => ok s

/-- CUT_MASTER_TIMEOUT: CUTWIN ÷ 2 has passed since the announcement (R512). -/
def execCutMasterTimeout (s : State) : Out :=
  match s.wlk.cut with
  | some c => if c.master then ok (retireAll (concludeCut 16 { c with ack := false } s)) else ok s
  | none => ok s

/-- CUT_COMMIT_RECEIVE: the commit goes down and the device places its cut (R513). -/
def execCutCommitReceive (p term epoch : Nat) (s : State) : Out :=
  fromMaster p term (fun s =>
    match s.wlk.cut with
    | some c =>
      if c.epoch ≠ epoch % 128 then ok s
      else ok (retireAll (placeFabric c (sendOn ((belowPorts s).filter (· != p)) (.commit term c.epoch) (s.setWlk { s.wlk with cut := none }))))
    | none => ok s) s

/-- CUT_CANCEL_RECEIVE: the cancel goes down and the announcement is dropped (R512). -/
def execCutCancelReceive (p term epoch : Nat) (s : State) : Out :=
  fromMaster p term (fun s =>
    match s.wlk.cut with
    | some c =>
      if c.epoch ≠ epoch % 128 then ok s
      else ok ((sendOn ((belowPorts s).filter (· != p)) (.cancel term c.epoch) (s.setWlk { s.wlk with cut := none })).wlkCause 3)
    | none => ok s) s

/-- CUT_ORPHAN_TIMEOUT: neither commit nor cancel within CUTWIN of the acknowledgement (R513). -/
def execCutOrphanTimeout (s : State) : Out :=
  match s.wlk.cut with
  | some c => if c.replied && c.ack && !c.master then ok (orphanCut s) else ok s
  | none => ok s

/-! ### The fabric master (R503, R504) -/

/-- The device becomes master with a TERM (R503, R504). -/
def becomeMaster (term : Nat) (s : State) : State :=
  let s := orphanCut s
  let s := (s.wrAll 0 [(Reg.Wlk.MASTER, 1), (Reg.Wlk.HOLDER, s.rd Reg.Wlk.NODE 0), (Reg.Wlk.TERM, term), (Reg.Wlk.OUTDOMAIN, 0)]).sat
    Reg.Wlk.LEASECHGCNT 0 1
  let s := s.setWlk { s.wlk with seenTerm := max s.wlk.seenTerm term, asked := none, renewals := [], leased := s.raw,
                                 syncEpoch := s.rd Reg.Cut.EPOCH 0 }
  let s := if s.rd Reg.WebPos.WPSRC 0 = 16 then
      followSource ((switchSource (s.rd Reg.Wlk.LSRC 0) s).wr Reg.WebPos.COASTING 0 0) else s
  completeLeases s.seq.longs.length (setTmode 0 (s.wlkCause 4))

/-- The device stops being master: position and time follow the fabric again with continuity, and its cut is cancelled
(R504). -/
def stopMaster (s : State) : State :=
  let s := match s.wlk.cut with
    | some _ => completeCut stABORT ((s.setWlk { s.wlk with cut := none }).wlkCause 3)
    | none => s
  let k : Track := { p := 65536 * s.pos, v := 65536000 * s.spdAt s.raw, a := 0, t0 := s.raw }
  let s := (s.wrAll 0 [(Reg.Wlk.MASTER, 0), (Reg.Wlk.HOLDER, 0)]).setWeb { s.web with fabric := k, fabFault := false }
  let s := s.setWlk { s.wlk with lastSync := s.raw, lostSync := false, renewals := [] }
  setTmode 1 (followSource (switchSource 16 (s.wlkCause 4)))

/-- The voter acknowledges or hears a renewal of its TERM. -/
def hearRenewal (s : State) : State := s.setWlk { s.wlk with heardAt := some s.raw }

/-- An acknowledgement of the renewal sent at a raw tick: with a majority the lease runs from then (R503). -/
def ackRenewal (v at_ : Nat) (s : State) : State :=
  let rs := s.wlk.renewals.map fun r => if r.1 = at_ then (r.1, if r.2.contains v then r.2 else v :: r.2) else r
  let s := s.setWlk { s.wlk with renewals := rs }
  match rs.find? fun r => r.1 == at_ with
  | some r => if majority s r.2 then s.setWlk { s.wlk with leased := max s.wlk.leased at_ } else s
  | none => s

/-- LEASE_RENEWAL_SEND: the master sends a renewal to every voter (R503). -/
def execLeaseRenewalSend (s : State) : Out :=
  if !masterActs s then ok s
  else
    let me := s.rd Reg.Wlk.NODE 0
    let keep := s.wlk.renewals.filter fun r => decide (s.raw < r.1 + leaseTicks s)
    let x := WlkPkt.renewal me (s.rd Reg.Wlk.TERM 0) s.raw
    let s := ((voters s).filter (· != me)).foldl (fun s v => s.sendTo v x) (s.setWlk { s.wlk with renewals := (s.raw, []) :: keep })
    if isVoter s && s.wlk.voteTerm == s.rd Reg.Wlk.TERM 0 then ok (ackRenewal me s.raw (hearRenewal s)) else ok s

/-- LEASE_RENEWAL_RECEIVE: a voter acknowledges a renewal of its own TERM (R503). -/
def execLeaseRenewalReceive (p node term : Nat) (s : State) : Out :=
  fromMaster p term (fun s =>
    if isVoter s && s.wlk.voteTerm == term then ok ((hearRenewal s).sendTo node (.renewed (s.rd Reg.Wlk.NODE 0) term)) else ok s) s

/-- LEASE_ACK_RECEIVE: a voter's acknowledgement of the renewal of a TERM that the master sent at a raw tick (R503). -/
def execLeaseAckReceive (p node term sent : Nat) (s : State) : Out :=
  fromPort p (fun s => if isMaster s ∧ term = s.rd Reg.Wlk.TERM 0 ∧ (voters s).contains node then ok (ackRenewal node sent s) else ok s) s

/-- FABRIC_LEASE_EXPIRY: LEASELEN has passed since the last renewal that a majority acknowledged (R503, R504). -/
def execFabricLeaseExpiry (s : State) : Out := if isMaster s && !masterActs s then ok (stopMaster s) else ok s

/-- A voter grants a TERM above its own when its guard time has passed (R503, log entry 50). -/
def grants (s : State) (term : Nat) : Bool :=
  isVoter s && decide (s.wlk.voteTerm < term) &&
    (match s.wlk.heardAt, s.wlk.grantedAt with
     | some t, _ => decide (t + guardTicks s < s.raw)
     | none, some t => decide (t + guardTicks s < s.raw)
     | none, none => true)

/-- The voter holds a TERM that it has granted. -/
def grantTerm (term : Nat) (s : State) : State :=
  s.setWlk { s.wlk with voteTerm := term, grantedAt := some s.raw, heardAt := none }

/-- A grant for the TERM asked for; with a majority the candidate becomes master (R503). -/
def countGrant (v term : Nat) (s : State) : State :=
  match s.wlk.asked with
  | none => s
  | some (t, vs) =>
    if t ≠ term ∨ !(voters s).contains v then s
    else
      let vs := if vs.contains v then vs else v :: vs
      if majority s vs then becomeMaster term s else s.setWlk { s.wlk with asked := some (t, vs) }

/-- CANDIDATE_TIMEOUT: a candidate has seen no SYNC for LEASELEN + RANK × RENEW and asks every voter for TERM + 1 (R503). -/
def execCandidateTimeout (s : State) : Out :=
  if s.rd Reg.Wlk.RANK 0 = 0 ∨ isMaster s ∨ s.rd Reg.Wlk.NODE 0 = 0 then ok s
  else
    let me := s.rd Reg.Wlk.NODE 0
    let t := max (s.rd Reg.Wlk.TERM 0) s.wlk.seenTerm + 1
    let s := ((voters s).filter (· != me)).foldl (fun s v => s.sendTo v (.ask me t)) (s.setWlk { s.wlk with asked := some (t, []) })
    if grants s t then ok (countGrant me t (grantTerm t s)) else ok s

/-- TERM_REQUEST_RECEIVE: a voter grants or withholds a TERM (R503). -/
def execTermRequestReceive (p node term : Nat) (s : State) : Out :=
  fromPort p (fun s => if grants s term then ok ((grantTerm term s).sendTo node (.grant (s.rd Reg.Wlk.NODE 0) term)) else ok s) s

/-- TERM_GRANT_RECEIVE: a voter's grant reaches the candidate (R503). -/
def execTermGrantReceive (p node term : Nat) (s : State) : Out := fromPort p (fun s => ok (countGrant node term s)) s

/-! ### SYNC (R506 to R509) -/

/-- Acceleration of the web in nm/s² at present: 0 while WPVALID is 0 (R182, R506). -/
def webAccel (s : State) : Int :=
  if !s.wpValid then 0
  else match webTrack s with
    | none => 0
    | some k => if s.rd Reg.WebPos.WPSRC 0 = 16 then k.a / 65536 else s.rdI Reg.WebPos.SCALE 0 * k.a / (2 ^ 48 : Nat)

/-- What a SYNC of this master carries at an instant, the present one (R506). -/
def syncPkt (s : State) : WlkPkt :=
  .sync (s.rd Reg.Wlk.TERM 0) (s.rd Reg.Cut.EPOCH 0) s.pos (1000 * s.spdAt s.raw) (webAccel s) s.wpValid (s.on Reg.WebPos.COASTING 0) s.pt 0

/-- SYNC_SEND: while it acts, the master sends SYNC down the tree (R506). -/
def execSyncSend (s : State) : Out :=
  if masterActs s then ok ((sendOn (belowPorts s) (syncPkt s) s).evt 0x12 0 0x40) else ok s

/-- The fabric position takes the law of a SYNC whose instant lies `corr` ticks back (R507, R508). -/
def takeLaw (pos spd acc : Int) (corr : Nat) (valid coasting : Bool) (s : State) : State :=
  let s := followSource (s.setWeb { s.web with fabric := { p := 65536 * pos, v := 65536 * spd, a := 65536 * acc, t0 := s.raw - corr },
                                               fabFault := !valid })
  if s.rd Reg.WebPos.WPSRC 0 = 16 ∧ s.wpValid ∧ s.web.coast.isNone then s.wr Reg.WebPos.COASTING 0 (b2n coasting) else s

/-- SYNC_RECEIVE: a SYNC with TERM, epoch, the master's POS (nm), speed (nm/s) and acceleration (nm/s²) at ts, WPVALID and
COASTING, its presented time at ts and CORR; it goes on down the tree with the ingress port's LINKDLY added to CORR, since no raw tick
passes in the device (R501, R503, R506 to R509, R514; log entry 158). -/
def execSyncReceive (p term epoch : Nat) (pos spd acc : Int) (valid coasting : Bool) (ptm corr : Nat) (s : State) : Out :=
  fromMaster p term (fun s =>
    let s := setHolder (s.rd Reg.Wlk.HOLDER 0) term s
    let c := (corr + s.rdI Reg.WlkPort.LINKDLY p).toNat
    let s := (sendOn ((belowPorts s).filter (· != p)) (.sync term (epoch % 128) pos spd acc valid coasting ptm c) s).evt 0x12 0 0x40
    let s := followEpoch (s.setWlk { s.wlk with lastSync := s.raw, lostSync := false, syncEpoch := epoch % 128 })
    let s := takeLaw pos spd acc c valid coasting s
    if s.rd Reg.Tnt.TMODE 0 = 1 then ok (discipline ((ptm : Int) + c - s.pt) s) else ok s) s

/-- PSTO_EXPIRY: no SYNC has arrived for PSTO: the fabric source is faulted (R508, R509). -/
def execPstoExpiry (s : State) : Out :=
  if s.rd Reg.Wlk.NODE 0 = 0 ∨ isMaster s ∨ s.wlk.lostSync then ok s
  else
    let s := (s.setWlk { s.wlk with lostSync := true }).setWeb { s.web with fabFault := true }
    ok (followSource (tntEmit 3 ((s.wr Reg.Tnt.SYNCOK 0 0).sat Reg.Tnt.SYNCLOSSCNT 0 1)))

/-! ### Packets through the device (R496, R497) and fabric snapshots (R518) -/

/-- PACKET_FORWARD: a packet for a node arrives with a hop count and is routed onward, delivered or dropped. -/
def execPacketForward (p node hops : Nat) (s : State) : Out :=
  fromPort p (fun s =>
    if node = s.rd Reg.Wlk.NODE 0 then ok s
    else if hops ≤ 1 then ok ((s.sat Reg.Wlk.TTLCNT 0 1).wlkCause 6)
    else match routeOf s node with
      | some q => if q < 4 then ok (s.portSend q { node := node, hops := hops - 1, pkt := .through }) else ok s
      | none => ok (noRoute s)) s

/-- A snapshot is requested at a presented time; while one is in progress the request merges into it (R272, R518). -/
def askSnapshot (t : Option Nat) (s : State) : State :=
  if s.snap.isSome then s else { s with snap := some { at_ := t } }.wr Reg.Pmu.SVALID 0 0

/-- FABRIC_SNAP_REQUEST_RECEIVE: the request goes down the tree and the device schedules its snapshot (R518). -/
def execFabricSnapRequestReceive (p term tsnap : Nat) (s : State) : Out :=
  fromMaster p term (fun s => ok (askSnapshot (some tsnap) (sendOn ((belowPorts s).filter (· != p)) (.snapshot term tsnap) s))) s

end Sys2Proof.Machine
end

