-- ==== Sys2Proof/Machine/Host.lean ====
section
/-!
DEFINITION. The host interface: BAR0 and BAR2, the command, completion and ledger rings in host memory, commands from
fetch to completion entry, and the status mirror (R259 to R265, R475 to R493).
-/
namespace Sys2Proof.Machine

/-- The PCIe link can carry host accesses: the device is not in Ember (R479, R564). -/
def State.linkUp (s : State) : Bool := !s.power.ember

/-- Replace HIF's part. -/
def State.setHif (s : State) (e : HifState) : State := { s with hif := e }

/-! ### What the host reads (R473 to R477) -/

/-- Vendor ID, Device ID, Revision ID, Class Code and Interrupt Pin of configuration space (R473, R474). -/
def configIds : List Nat := [0x1F8E, 0x0256, 0xA3, 0x118000, 0]

/-- Bytes of BAR k; 0 for one that is not implemented (R474). -/
def barBytes (k : Nat) : Nat := if k = 0 then 0x4000000 else if k = 2 then 0x400000000 else 0

/-- The word of BAR0 at an offset that is a multiple of 8: NODE, KPHASE and KERR show the units' fields, doorbell and action
registers read 0, and the windows show the units' words and the Sump table (R476, R477). -/
def State.bar0Word (s : State) (off : Nat) : Word :=
  if off = 0 then Reg.Bar0.NODE.put 0 (s.word Reg.Bar0.NODE.base) (s.rd Reg.Wlk.NODE 0)
  else if off = 0x10 then s.word Reg.Bar0.KSRC.base ||| fld (s.rd Reg.Slc.KPHASE 0) 4 60 ||| fld (s.rd Reg.Slc.KERR 0) 8 48
  else if off = 0x18 ∨ off = 0x20 ∨ off = 0x28 ∨ off = 0x110 then 0
  else if off < 0x1000 then s.word (Reg.Bar0.PART.base + off)
  else if 0x1000000 ≤ off ∧ off < 0x1400000 then s.ioWord (ucbBase + (off - 0x1000000))
  else if 0x1800000 ≤ off ∧ off < 0x1820000 then s.ioWord (0x21000000 + (off - 0x1800000))
  else 0

/-- A read of n bytes from BAR0; it changes nothing. One of another size or alignment is answered as unsupported, and in Ember
none is answered (R475, R479). -/
def State.bar0Read (s : State) (off n : Nat) : Option Word :=
  if s.linkUp && (n == 4 || n == 8) && off % n == 0 then some ((s.bar0Word (off / 8 * 8) >>> (8 * (off % 8))) &&& BitVec.ofNat 64 (2 ^ (8 * n) - 1))
  else none

/-! ### BAR0 writes (R475, R476, R478) -/

/-- The value of a register after a write of 8 bytes (m 0), of its low half (m 1) or of its high half (m 2) (R475). -/
def merge (old : Word) (m : Nat) (v : Word) : Word :=
  match m with
  | 0 => v
  | 1 => (old &&& 0xFFFFFFFF00000000) ||| (v &&& 0xFFFFFFFF)
  | _ => (old &&& 0xFFFFFFFF) ||| (v <<< 32)

/-- Write the named fields of the BAR0 word of `f` from a merged value. -/
def bar0Fields (x : Word) : List Field → State → State
  | [], s => s
  | f :: fs, s => bar0Fields x fs (s.wr f 0 (f.get 0 x))

/-- The staging area lies wholly in banks 0 to 63, aligned, in banks whose USE is 0 (R483). -/
def stagingOk (s : State) : Bool :=
  let a := s.rd Reg.Bar0.CSTAGE 0
  let e := a + 1024 * 2 ^ s.rd Reg.Bar0.CLOG 0
  a % 1024 == 0 && decide (e ≤ 0x2000000) &&
    (List.range ((e - 1) / 0x80000 + 1 - a / 0x80000)).all fun k => s.rd Reg.Mem.USE (a / 0x80000 + k) == 0

/-- The checks of setting CEN: CERR of the first that fails, or 0 (R483). -/
def ringError (s : State) : Nat :=
  if !inRange (s.rd Reg.Bar0.CLOG 0) 2 10 then 1
  else if s.rd Reg.Bar0.CBASE 0 % 4096 ≠ 0 ∨ s.rd Reg.Bar0.CCBASE 0 % 4096 ≠ 0 then 2
  else if !stagingOk s then 3 else 0

/-- Writing 0x0108: the ring's settings while CEN is 0, and CEN, which is checked as it becomes 1 (R475, R483). The counts
of both rings start anew with CEN (R482, log entry 45); clearing CEN drops entries that wait. -/
def writeCen (m : Nat) (v : Word) (s : State) : State :=
  let on := s.on Reg.Bar0.CEN 0
  let x := merge (s.word Reg.Bar0.CEN.base) m v
  let s := if on then s else bar0Fields x [Reg.Bar0.CLOG, Reg.Bar0.CSTAGE] s
  if bit x 63 = on then s
  else if on then (s.wr Reg.Bar0.CEN 0 0).setHif { s.hif with entries := [] }
  else match ringError s with
    | 0 => (s.wrAll 0 [(Reg.Bar0.CEN, 1), (Reg.Bar0.CERR, 0), (Reg.Bar0.CMDDB, 0), (Reg.Bar0.CHEAD, 0), (Reg.Bar0.CCCONS, 0)]).setHif
        { s.hif with pos := 0, entries := [], written := 0, cprod := 0 }
    | e => s.wr Reg.Bar0.CERR 0 e

/-- A consumer count that claims no more than the device has written is taken; another is ignored and counted (R487). -/
def writeCons (f : Field) (written m : Nat) (v : Word) (s : State) : State :=
  let x := merge (s.word f.base) m v
  if written < x.toNat then s.sat Reg.Bar0.DBERRCNT 0 1 else s.wr f 0 x.toNat

/-- Writing 0x0148: HLLOG while HLEN is 0, and HLEN; its counts start anew as it becomes 1, and it stays 0 with HLLOG
outside its range (R488, log entry 45). -/
def writeHlen (m : Nat) (v : Word) (s : State) : State :=
  let on := s.on Reg.Bar0.HLEN 0
  let x := merge (s.word Reg.Bar0.HLEN.base) m v
  let s := if on then s else bar0Fields x [Reg.Bar0.HLLOG] s
  if bit x 63 = on then s
  else if on then s.wr Reg.Bar0.HLEN 0 0
  else if !inRange (s.rd Reg.Bar0.HLLOG 0) 9 25 then s
  else (s.wrAll 0 [(Reg.Bar0.HLEN, 1), (Reg.Bar0.HLCONS, 0)]).setHif { s.hif with copied := 0, hlprod := 0 }

/-- Device address of a host ring or mirror base; a base's low 12 bits count as 0. -/
def hostAt (s : State) (f : Field) : Nat := hostBase + s.rd f 0 / 4096 * 4096

/-- Writing 0x0188: MEN; as it becomes 1, GEN is 0 (R490). -/
def writeMen (m : Nat) (v : Word) (s : State) : State :=
  let x := merge (s.word Reg.Bar0.MEN.base) m v
  let on := s.on Reg.Bar0.MEN 0
  let s := s.wr Reg.Bar0.MEN 0 (b2n (bit x 63))
  if bit x 63 && !on then (s.put (hostAt s Reg.Bar0.MBASE) (wordBytes 8 0)).setHif { s.hif with gen := 0 } else s

/-- A base that is written only while an enable is 0. -/
def writeBase (f en : Field) (m : Nat) (v : Word) (s : State) : State :=
  if s.on en 0 then s else bar0Fields (merge (s.word f.base) m v) [f] s

/-- The doorbell: a value more than the ring's entries ahead of CHEAD is ignored and counted; without CEN none is taken
(R484). -/
def writeDoorbell (v : Nat) (s : State) : State :=
  let v := v % 2 ^ 32
  if !s.on Reg.Bar0.CEN 0 then s
  else if 2 ^ s.rd Reg.Bar0.CLOG 0 < (v + 2 ^ 32 - s.rd Reg.Bar0.CHEAD 0) % 2 ^ 32 then s.sat Reg.Bar0.DBERRCNT 0 1
  else s.wr Reg.Bar0.CMDDB 0 v

/-- A write to a BAR0 register without an action of its own; other offsets ignore it (R475). -/
def writeBar0 (off m : Nat) (v : Word) (s : State) : State :=
  match off with
  | 0x100 => writeBase Reg.Bar0.CBASE Reg.Bar0.CEN m v s
  | 0x108 => writeCen m v s
  | 0x120 => writeBase Reg.Bar0.CCBASE Reg.Bar0.CEN m v s
  | 0x128 => writeCons Reg.Bar0.CCCONS s.hif.written m v s
  | 0x140 => writeBase Reg.Bar0.HLBASE Reg.Bar0.HLEN m v s
  | 0x148 => writeHlen m v s
  | 0x150 => writeCons Reg.Bar0.HLCONS s.hif.copied m v s
  | 0x180 => writeBase Reg.Bar0.MBASE Reg.Bar0.MEN m v s
  | 0x188 => writeMen m v s
  | _ =>
    if inRange off 0x1C0 0x1D8 && off % 8 == 0 then
      let k := (off - 0x1C0) / 8
      let x := merge (s.word (Reg.Bar0.W2BASE.word k 0)) m v
      s.wr Reg.Bar0.W2BASE k (Reg.Bar0.W2BASE.get 0 x)
    else s

/-- A host access arrives while the link is up. -/
def byHost (f : State → State) (s : State) : Out := if s.linkUp then ok (f s) else ok s

/-- CMDDB_WRITE: the command doorbell (R484). -/
def execCmddbWrite (v : Nat) (s : State) : Out := byHost (writeDoorbell v) s

/-- CEN_WRITE: a write of 0x0108 (R483). -/
def execCenWrite (m : Nat) (v : Word) (s : State) : Out := byHost (writeCen m v) s

/-- CCCONS_WRITE: completion entries consumed (R487). -/
def execCcconsWrite (m : Nat) (v : Word) (s : State) : Out := byHost (fun s => writeCons Reg.Bar0.CCCONS s.hif.written m v s) s

/-- HLCONS_WRITE: ledger entries consumed (R487). -/
def execHlconsWrite (m : Nat) (v : Word) (s : State) : Out := byHost (fun s => writeCons Reg.Bar0.HLCONS s.hif.copied m v s) s

/-- MEN_WRITE: a write of 0x0188 (R490). -/
def execMenWrite (m : Nat) (v : Word) (s : State) : Out := byHost (writeMen m v) s

/-- BAR0_REG_WRITE: a write of a register without behaviour of its own (R475). -/
def execBar0RegWrite (off m : Nat) (v : Word) (s : State) : Out := byHost (writeBar0 off m v) s

/-- BAR0_EVFIRE: fires a channel with hop count 0 (R479). -/
def execBar0Evfire (c : Nat) (s : State) : Out := byHost (fun s => s.fire (c % 128) 0) s

/-- RESETKEY_WRITE: 0x5253 resets every unit; other values are ignored (R478). -/
def execResetkeyWrite (v : Nat) (s : State) : Out := byHost (fun s => if v % 2 ^ 16 = 0x5253 then coreReset 4 s else s) s

/-- FUNCTION_LEVEL_RESET: resets every unit, the link kept (R478). -/
def execFunctionLevelReset (s : State) : Out := byHost (coreReset 4) s

/-- PCIE_RESET: PERST_N, a conventional or a hot reset (R478, Table 18-5). -/
def execPcieReset (s : State) : Out := ok (coreReset 3 s)

/-! ### BAR2 (R480) -/

/-- Device address of a BAR2 offset, where the access stays within its window. -/
def bar2Addr (s : State) (off n : Nat) : Option Nat :=
  if off < 2 ^ 34 ∧ off % 2 ^ 32 + n ≤ 2 ^ 32 then some (s.rd Reg.Bar0.W2BASE (off / 2 ^ 32) * 2 ^ 32 + off % 2 ^ 32) else none

/-- A BAR2 access is permitted: shared banks that are ON or DRAM behind READY channels. -/
def bar2Ok (s : State) (a n : Nat) : Bool := s.inBanksOn a n || s.inDram a n

/-- BAR2_ACCESS: a read of n bytes (no data) or a write of bytes at an offset. Elsewhere a read answers all ones, a write is
discarded, and either counts; a read of poisoned DRAM ends with Completer Abort (R480). -/
def execBar2Access (off n : Nat) (data : Option (List Byte)) (s : State) : Out :=
  byHost (fun s =>
    let len := match data with | some bs => bs.length | none => n
    match (bar2Addr s off len).filter fun a => bar2Ok s a len with
    | none =>
      let s := s.sat Reg.Bar0.B2ERRCNT 0 1
      if data.isSome then s else s.setHif { s.hif with answer := some (List.replicate n 0xFF) }
    | some a =>
      match data with
      | some bs => s.put a bs
      | none =>
        if s.poisoned a n then s.setHif { s.hif with answer := none }
        else (s.setHif { s.hif with answer := some (s.readBytes a n) }).traffic false a n) s

/-! ### Completion entries (R486, R487, R489) -/

/-- Entries of the completion ring. -/
def ccSize (s : State) : Nat := 2 ^ (s.rd Reg.Bar0.CLOG 0 + 1)

/-- The completion ring has room for an entry (R487). -/
def ccRoom (s : State) : Bool := s.linkUp && s.on Reg.Bar0.CEN 0 && decide (s.hif.written < s.rd Reg.Bar0.CCCONS 0 + ccSize s)

/-- Write the next completion entry. -/
def putCompletion (ws : List Word) (s : State) : State :=
  (s.put (hostAt s Reg.Bar0.CCBASE + 32 * (s.hif.written % ccSize s)) (wordsBytes ws)).setHif { s.hif with written := s.hif.written + 1 }

/-- COMPLETION_ENTRY_WRITE: HIF writes the oldest entry that waits, while the ring has room (R487). -/
def execCompletionEntryWrite (s : State) : Out :=
  match s.hif.entries with
  | [] => ok s
  | e :: es => if ccRoom s then ok (putCompletion e (s.setHif { s.hif with entries := es })) else ok s

/-- CPROD or HLPROD goes to host memory (R489). -/
def putProducer (ring : Nat) (s : State) : State :=
  if ring = 0 then
    (s.put (hostAt s Reg.Bar0.CCBASE + 32 * ccSize s) (wordBytes 8 (BitVec.ofNat 64 s.hif.written))).setHif { s.hif with cprod := s.hif.written }
  else
    (s.put (hostAt s Reg.Bar0.HLBASE + 128 * 2 ^ s.rd Reg.Bar0.HLLOG 0) (wordBytes 8 (BitVec.ofNat 64 s.hif.copied))).setHif
      { s.hif with hlprod := s.hif.copied }

/-- PRODUCER_WORD_WRITE: the producer word of the completion ring (0) or of the host ledger ring (1) (R489). -/
def execProducerWordWrite (ring : Nat) (s : State) : Out :=
  within ring 2 <|
    if s.linkUp && s.on (if ring = 0 then Reg.Bar0.CEN else Reg.Bar0.HLEN) 0 then ok (putProducer ring s) else ok s

/-- RD0_HOST_COPY: RD0 copies the next record to the host ledger ring while it has room (R407, R488). -/
def execRd0HostCopy (s : State) : Out :=
  let n := s.rd Reg.Ledger.LRD0 0
  let size := 2 ^ s.rd Reg.Bar0.HLLOG 0
  if (s.rd Reg.Ledger.RDEN 0).testBit 0 && s.on Reg.Bar0.HLEN 0 && s.linkUp && ringUp s && decide (n < s.rd Reg.Ledger.LWP 0) &&
      decide (s.hif.copied < s.rd Reg.Bar0.HLCONS 0 + size) then
    let s1 := s.put (hostAt s Reg.Bar0.HLBASE + 128 * (s.hif.copied % size)) (wordsBytes (ringEntry s n))
    ok ((s1.setHif { s.hif with copied := s.hif.copied + 1 }).wr Reg.Ledger.LRD0 0 (n + 1))
  else ok s

/-! ### Commands (R258 to R264, R481 to R483) -/

/-- OUTST shows the outstanding commands (R263). -/
def showOutst (s : State) : State := s.wr Reg.Seq.OUTST 0 s.seq.log.length

/-- A command's completion entry is formed; with CEN 0 there is none (R478, R486). -/
def formCompletion (cseq st idx late : Nat) (tag : Word) (s : State) : State :=
  let s := s.wrap Reg.Seq.CMDCNT 0 1
  if s.on Reg.Bar0.CEN 0 then
    s.setHif { s.hif with entries := s.hif.entries ++ [[fld cseq 32 32 ||| fld 1 8 24 ||| fld st 8 16 ||| fld idx 16 0, tag,
      fld (if st = stLATE then late else 0) 40 0, BitVec.ofNat 64 s.pt]] }
  else s

/-- The instruction index of the handler installed at a task input (R265). -/
def handlerAt (s : State) (t : Nat) : Option Nat := Tbl.get (fun _ => none) s.seq.handlers t

/-- Task input t has a handler activation that waits to start (R265). -/
def handlerReady (s : State) (t : Nat) : Bool := s.rd Reg.EvrTask.TSTATE t == 1 && (handlerAt s t).isSome

/-- A handler activation waits to start. -/
def handlerWaits (s : State) : Bool := (List.range 64).any fun k => handlerReady s (32 + k)

/-- The sequencer may start a command or handler: it runs none, holds no operation that waits to issue, and its pair has
not stopped (R258, R261). -/
def seqIdle (s : State) : Bool :=
  s.up && s.seq.cur.isNone && s.seq.forming.isNone && s.seq.wait.isNone && !s.seq.stopped

/-- A command's instructions begin: A6 and A7, an empty context, empty latches (R260, R291, R483). -/
def beginCommand (c : Cmd) (s : State) : State :=
  let u := activeCore s
  let p := s.proc u
  let p := (p.setA 7 (BitVec.ofNat 48 (s.rd Reg.Bar0.CSTAGE 0 + 1024 * c.slot))).setA 6 (BitVec.ofNat 48 c.addr)
  let s := s.setProc u { p with pc := 0, pfx := none, latRaw := none, latPt := none }
  { s with seq := { s.seq with cur := some (.command c.cseq), codeLen := c.ncode, base := c.addr + 0x40, xat := {}, xk := 0 } }

/-- The checks of Table 15-3 on an entry at a position (R482). -/
def ringEntryOk (e : List Word) (cseq : Nat) : Bool :=
  let w := fun k => e.getD k 0
  let nc := bits (w 1) 63 56
  let nd := bits (w 1) 55 48
  bits (w 0) 15 0 == 0x5A43 && bits (w 0) 31 24 == 1 && bits (w 0) 63 32 == cseq && inRange nc 1 120 && decide (nd ≤ 119) &&
    decide (nc + nd ≤ 120)

/-- The device fetches the entry at its next position from the ring and starts it, or completes it as malformed (R261, R482,
R483). -/
def fetchCommand (entry : List Word) (s : State) : State :=
  let n := s.hif.pos
  let i := n % 2 ^ s.rd Reg.Bar0.CLOG 0
  let addr := hostAt s Reg.Bar0.CBASE + 1024 * i
  let cseq := n % (2 ^ 32 - 1) + 1
  let e := (List.range 128).map fun k => entry.getD k 0
  let s := ((s.writeWords addr e).traffic false addr 1024).wrap Reg.Bar0.CHEAD 0 1
  let s := s.setHif { s.hif with pos := n + 1 }
  if !ringEntryOk e cseq then formCompletion cseq stBOUNDS 0 0 (e.getD 2 0) s
  else
    let nc := bits (e.getD 1 0) 63 56
    let nd := bits (e.getD 1 0) 55 48
    let c : Cmd := { cseq := cseq, slot := i, tag := e.getD 2 0, addr := addr, ncode := nc }
    let s := s.writeWords (s.rd Reg.Bar0.CSTAGE 0 + 1024 * i) ((e.drop (8 + nc)).take nd)
    showOutst (beginCommand c (({ s with seq := { s.seq with log := s.seq.log ++ [c] } }).evt 0 (2 * s.rd Reg.SeqLease.LEASEPAIR 0) 0x40))

/-- The oldest command that a takeover has left to be executed again. -/
def redoCommand (s : State) : Option Cmd := s.seq.log.find? (·.redo)

/-- COMMAND_START: the sequencer starts the next command once the previous has issued: first one that is to be executed
again after a takeover (R541), then the next of the ring, whose entry host memory holds as given. Handler activations
that wait go first (R265). -/
def execCommandStart (entry : List Word) (s : State) : Out :=
  if !seqIdle s || handlerWaits s then ok s
  else match redoCommand s with
    | some c => ok (beginCommand c (s.updCmd c.cseq fun c =>
        { c with redo := false, open_ := true, status := if c.status = stLATE then stLATE else stOK }))
    | none =>
      if s.linkUp && s.on Reg.Bar0.CEN 0 && s.rd Reg.Bar0.CHEAD 0 != s.rd Reg.Bar0.CMDDB 0 && decide (s.seq.log.length < 1024)
      then ok (fetchCommand entry s) else ok s

/-- Something of a command is still under way: instructions, packets, copies, reports of lateness or long operations
(R261, R264). -/
def cmdPending (s : State) (c : Cmd) : Bool :=
  c.open_ || c.redo || (s.transit ++ s.held).any (fun e => e.pkt.cseq == c.cseq) || s.rpa.copies.any (fun k => k.cseq == c.cseq) ||
    s.recs.copies.any (fun k => k.cseq == c.cseq) || s.progress.any (fun p => p.2.lateFor.contains c.cseq) ||
    s.seq.longs.any fun l => l.cseq == c.cseq && l.done.isNone

/-- A status that ends a command. -/
def failing (st : Nat) : Bool := st != stOK && st != stLATE

/-- The status and index that a command completes with: its own, else that of its first long operation that failed, else
APPLIED_LATE where something was late (R262, R264, R301). -/
def finalStatus (s : State) (c : Cmd) : Nat × Nat :=
  let ls := s.seq.longs.filter fun l => l.cseq == c.cseq
  if failing c.status then (c.status, c.idx)
  else match ls.find? fun l => failing (l.done.getD stOK) with
    | some l => (l.done.getD stOK, l.idx)
    | none => if c.status = stLATE ∨ ls.any (fun l => l.done == some stLATE) then (stLATE, c.idx) else (stOK, c.idx)

/-- A command is complete. -/
def completeCommand (c : Cmd) (s : State) : State :=
  let f := finalStatus s c
  let s := { s with seq := { s.seq with log := s.seq.log.filter (fun k => k.cseq != c.cseq),
                                        longs := s.seq.longs.filter fun l => l.cseq != c.cseq } }
  showOutst (formCompletion c.cseq f.1 f.2 c.lateLseq c.tag s)

/-- COMMAND_COMPLETE: a command completes once its packets are applied at every stage and its direct operations are done
(R261). -/
def execCommandComplete (cseq : Nat) (s : State) : Out :=
  match s.seq.log.find? fun c => c.cseq == cseq with
  | none => ok s
  | some c => if cmdPending s c then ok s else ok (completeCommand c s)

/-! ### The status mirror (R490, R491, Table 15-5) -/

/-- Temperatures of the sensors, with whether each is good. -/
def sensors (s : State) : List (Int × Bool) := (List.range 16).map fun k => (s.rdI Reg.Cal.TEMP k, !s.on Reg.Cal.BAD k)

/-- TJMAX: the hottest of the good sensors, or of all when fewer than 8 are good (R562). -/
def tjMax (s : State) : Int :=
  let good := (sensors s).filter (·.2)
  let use := if good.length < 8 then sensors s else good
  (use.map (·.1)).foldl max (-32768)

/-- STATE (Table 15-5). -/
def devState (s : State) : Nat :=
  if s.power.ember then 3 else if s.rd Reg.Slc.KPHASE 0 ≠ 5 then 0 else if s.seq.failed then 4 else if s.power.recovering then 2 else 1

/-- Bit mask of the k below n for which q holds. -/
def bitMaskOf (n : Nat) (q : Nat → Bool) : Nat := ((List.range n).map fun k => if q k then 2 ^ k else 0).sum

/-- Word 0x010 of the mirror. -/
def mirrorState (s : State) (st : Nat) : Word :=
  fld st 8 56 ||| fld (b2n s.inspOk) 1 55 ||| fld (s.rd Reg.Pba.POWER_HELD 0) 1 54 ||| fld (s.rd Reg.Cal.CAL_DUE 0) 1 53 |||
    fld (s.rd Reg.Cal.CALPEND 0) 1 52 ||| fld (b2n (s.rd Reg.Pba.SUPWARNR 0 != 0)) 1 51 ||| fld (s.rd Reg.WebPos.WPVALID 0) 1 50 |||
    fld (s.rd Reg.WebPos.COASTING 0) 1 49 ||| fld (s.rd Reg.WebPos.SWITCHED 0) 1 48 ||| fld (s.rd Reg.SeqLease.LEASEPAIR 0) 1 47 |||
    fld (liveViews s) 16 16 ||| fld (bitMaskOf 16 s.viewOpen) 16 0

/-- The global words 0x010 to 0x078 of the mirror, with STATE given. -/
def mirrorGlobal (s : State) (st : Nat) : List Word :=
  [mirrorState s st,
   fld (bitMaskOf 32 fun h => s.rd Reg.Head.LANEDOWN h != 0) 32 32 ||| fld (bitMaskOf 32 s.running) 32 0,
   fld (low 16 (tjMax s)) 16 48 ||| fld s.cuts.length 8 8 ||| fld (s.rd Reg.Cut.EPOCH 0) 7 0,
   fld (s.rd Reg.Pba.BUDGET 0) 32 32 ||| fld (s.rd Reg.Pba.GRANTED 0) 32 0,
   fld (s.rd Reg.Pba.VCMD 0) 16 0,
   fld s.seq.log.length 11 32 ||| fld (s.rd Reg.Bar0.CHEAD 0) 32 0,
   BitVec.ofNat 64 s.hif.cprod, BitVec.ofNat 64 s.hif.hlprod,
   BitVec.ofNat 64 (s.rd Reg.Ledger.LWP 0), BitVec.ofNat 64 (s.rd Reg.Ledger.DSEQNEXT 0),
   BitVec.ofInt 64 s.pos, BitVec.ofNat 64 (s.rd Reg.WebPos.WPSPD 0),
   fld ((List.range 72).countP fun u => s.rd Reg.RpaDep.PSTATE u == 1) 7 56 |||
     fld ((List.range 64).countP fun l => s.on Reg.Lrp.HALTED l) 8 48,
   fld (b2n ((List.range 256).any fun k => s.rd2 Reg.Ledger.TROWS 0 k != 0 || s.rd2 Reg.Ledger.TSPANS 0 k != 0)) 1 63 |||
     fld (s.sump.spans.countP fun e => e.2.valid) 13 32]

/-- The two words of a head in the mirror. -/
def mirrorHead (s : State) (h : Nat) : List Word :=
  [fld (s.rd Reg.Head.EBFILL h) 24 40 ||| fld (s.rd Reg.Head.LSEQNEXT h) 40 0,
   fld (s.rd Reg.TesHead.XCUR h) 8 56 ||| fld (s.rd Reg.TesHead.HELD h) 1 55 ||| fld (s.rd Reg.TesHead.NOPOS h) 1 54 |||
     fld (b2n (ebHalf s h)) 1 53 ||| fld (s.rd Reg.Head.LANEDOWN h) 32 0]

/-- The two words of a view in the mirror. -/
def mirrorView (s : State) (v : Nat) : List Word :=
  let held := bitMaskOf 32 fun k => s.rd2 Reg.Seam.HELD v k != 0
  [fld (b2n (s.viewOpen v)) 1 63 ||| fld (b2n (s.viewLive v)) 1 62 ||| fld (b2n (held != 0)) 1 61 ||| fld (s.rd Reg.RtkView.FULLNOW v) 1 60 |||
     fld (s.view v).last 40 0, fld held 32 0]

/-- The words of DMA channels, overview streams and DRAM channels in the mirror. -/
def mirrorUnits (s : State) : List Word :=
  (List.range 16).map (fun c => fld (s.rd Reg.Dma.OWNER c) 2 62 ||| fld (s.rd Reg.Dma.QFILL c) 3 59 ||| fld (s.rd Reg.Dma.ACTIVE c) 1 58 |||
      fld (s.rd Reg.Dma.DRESULT c) 8 8 ||| fld (s.rd Reg.Dma.HALF c) 1 1 ||| fld (s.rd Reg.Dma.FULL c) 1 0) ++
    (List.range 8).map (fun k => fld (s.rd Reg.Stream.RUNNING k) 1 63 ||| fld (s.rd Reg.Stream.DIVCNT k) 32 0) ++
    (List.range 8).map fun c => fld (s.rd Reg.Dmc.CHSTATE c) 4 60 ||| fld (s.rd Reg.Dmc.MIGPCT c) 8 40 ||| fld (s.rd Reg.Dmc.UECNT c) 32 0

/-- A mask over the 256 lanes as four words. -/
def laneMask (q : Nat → Bool) : List Word := (List.range 4).map fun k => BitVec.ofNat 64 (bitMaskOf 64 fun n => q (64 * k + n))

/-- The body of the mirror after GEN: offsets 0x008 to 0xFFF (Table 15-5). -/
def mirrorBody (s : State) (st : Nat) : List Word :=
  let a := BitVec.ofNat 64 s.pt :: mirrorGlobal s st ++ laneMask (fun n => s.laneState n == lsLOCKED) ++ laneMask (fun n => s.on Reg.Lane.EQBOUND n)
  let b := a ++ List.replicate (31 - a.length) 0 ++ (List.range 32).flatMap (mirrorHead s) ++ (List.range 16).flatMap (mirrorView s)
  let c := b ++ mirrorUnits s
  c ++ List.replicate (511 - c.length) 0

/-- One refresh with STATE given, under the GEN lock (R490). -/
def refresh (st : Nat) (s : State) : State :=
  if s.on Reg.Bar0.MEN 0 then
    let g := s.hif.gen + 2
    (((s.put (hostAt s Reg.Bar0.MBASE) (wordsBytes (BitVec.ofNat 64 g :: mirrorBody s st))).setHif { s.hif with gen := g }).evt 0x10 0 0x42)
  else s

/-- MIRROR_REFRESH: the status mirror is refreshed (R491). -/
def execMirrorRefresh (s : State) : Out := if s.linkUp then ok (refresh (devState s) s) else ok s

/-- HIF.MIRCFG: the refresh interval, 1 to 10,000 µs. -/
def execHifMircfg (x : XWord) (s : State) : Out :=
  xop 0x10 0x01 x (fun a s =>
    let n := bits (a.w 0) 31 0
    if inRange n 1 10000 then .fin stOK (s.wr Reg.Bar0.MREFRESH 0 n) else .no stBOUNDS s) s

/-- Clear HIF's counters (R304, R476). -/
def hifCnt (s : State) : State := s.clr 0 [Reg.Bar0.DBERRCNT, Reg.Bar0.B2ERRCNT]

end Sys2Proof.Machine
end

