-- ==== Sys2Proof/Machine/Sequencer.lean ====
section
/-!
DEFINITION. The sequencer pairs: settings, the control lease, takeover and the watchdog (R258, R265, R266, R538 to R542,
R547).
-/
namespace Sys2Proof.Machine

/-! ### Settings -/

/-- SEQ.LEASE: LEASE and RENEW of the control lease (R538). -/
def execSeqLease (x : XWord) (s : State) : Out :=
  xop 0 0x01 x (fun a s =>
    let len := bits (a.w 0) 63 32
    let ren := bits (a.w 0) 31 0
    if !inRange len 20 10000 || !inRange ren 5 (len / 2) then .no stBOUNDS s
    else .fin stOK (s.wrAll 0 [(Reg.SeqLease.LEASE, len), (Reg.SeqLease.RENEW, ren)])) s

/-- SEQ.WDOG: SQWDOG, 10 µs to 10,000,000 µs (R266). -/
def execSeqWdog (x : XWord) (s : State) : Out :=
  xop 0 0x02 x (fun a s =>
    let n := bits (a.w 0) 63 32
    if inRange n 10 10000000 then .fin stOK (s.wr Reg.Seq.SQWDOG 0 n) else .no stBOUNDS s) s

/-- SEQ.HANDLER: installs or removes the handler of a sequencer task input, 32 to 95 (R265, R586). -/
def execSeqHandler (x : XWord) (s : State) : Out :=
  xop 0 0x03 x (fun a s =>
    if !inRange a.i 32 95 then .no stBOUNDS s
    else
      let h := if bit (a.w 0) 63 then some (bits (a.w 0) 31 0) else none
      .fin stOK { s with seq := { s.seq with handlers := Tbl.set (fun _ => none) s.seq.handlers a.i h } }) s

/-! ### The control lease (R538, R539) -/

/-- LEASE_RENEW_TICK: the lockstep hardware renews the lease of a pair that has not stopped (R538). -/
def execLeaseRenewTick (s : State) : Out :=
  if s.seq.stopped then ok s else ok { s with seq := { s.seq with renewed := s.raw } }

/-- The active pair stops for a cause; with no banked pair BANKED the sequencers have failed (R539, R542). -/
def stopPair (cause : Nat) (s : State) : State :=
  let s := s.wr Reg.SeqLease.TCAUSE 0 cause
  { s with seq := { s.seq with stopped := true, failed := s.rd Reg.SeqLease.PAIRSTATE 0 != 1, forming := none, wait := none } }

/-- SEQ_ABDICATE: a lockstep mismatch (1) or an uncorrectable ECC error (2) makes the active pair stop at once (R539). -/
def execSeqAbdicate (cause : Nat) (s : State) : Out :=
  if s.seq.stopped ∨ !s.up then ok s
  else
    let c := if cause = 2 then 2 else 1
    ok ((stopPair c s).evt 0 (2 * s.rd Reg.SeqLease.LEASEPAIR 0) (if c = 2 then 0x0F else 0x0D))

/-- SEQ_LEASE_EXPIRY: LEASE has passed since the last renewal (R539). -/
def execSeqLeaseExpiry (s : State) : Out := if s.seq.stopped || !s.up || leaseHeld s then ok s else ok (stopPair 3 s)

/-- What runs starts again at its first instruction, in the new pair: a command by COMMAND_START, a handler or the control
program here (R541). -/
def restartExec (s : State) : State :=
  let c := activeCore s
  let s := { s with seq := { s.seq with xk := 0, xat := {} } }
  match s.seq.cur with
  | some (.handler t _) => s.setProc c { s.proc c with pc := (handlerAt s t).getD 0, pfx := none, latRaw := none, latPt := none }
  | some .program => s.setProc c { s.proc c with pc := s.power.entry, pfx := none, latRaw := none, latPt := none }
  | some (.command _) => { s with seq := { s.seq with cur := none } }
  | none => s

/-- TAKEOVER: the banked pair takes the lease; every command that is not complete is executed again, in order (R539,
R541). -/
def execTakeover (s : State) : Out :=
  if !s.seq.stopped || s.seq.failed then ok s
  else
    let s := s.wrAll 0 [(Reg.SeqLease.LEASEPAIR, 1 - s.rd Reg.SeqLease.LEASEPAIR 0), (Reg.SeqLease.PAIRSTATE, 4),
      (Reg.SeqLease.TAKEOVERT, s.pt)]
    let s := (s.sat Reg.SeqLease.TAKECNT 0 1).emit 481
    let log := s.seq.log.map fun c => { c with redo := true }
    ok (restartExec { s with seq := { s.seq with stopped := false, renewed := s.raw, log := log } })

/-- SQWDOG_EXPIRY: what runs has run for longer than SQWDOG and ends after its current instruction (R266). -/
def execSqwdogExpiry (s : State) : Out :=
  if s.seq.stopped || s.seq.forming.isSome || s.seq.wait.isSome then ok s
  else
    match s.seq.cur with
    | none => ok s
    | some (.command q) =>
      ok ((endCommand q stWDOG (s.proc (activeCore s)).last { s with seq := { s.seq with xwaits := false } }).emit 483)
    | some _ => ok ({ s with seq := { s.seq with cur := none, xwaits := false } }.emit 483)

/-- SEQ_PAIR_SELFTEST: the banked pair's self-test passes or fails; three failures retire it (R547). -/
def execSeqPairSelftest (pass : Bool) (s : State) : Out :=
  let p := s.rd Reg.SeqLease.PAIRSTATE 0
  if p = 5 then ok s
  else if pass then
    let s := { s.wr Reg.SeqLease.PAIRSTATE 0 1 with seq := { s.seq with tries := 0 } }
    ok (if p = 4 then s.emit 485 else s)
  else
    let s := { s with seq := { s.seq with tries := s.seq.tries + 1 } }
    if 3 ≤ s.seq.tries then ok ((s.wr Reg.SeqLease.PAIRSTATE 0 5).emit 484) else ok (s.wr Reg.SeqLease.PAIRSTATE 0 4)

/-- Clear SEQ's counters (R269, R554). -/
def seqCnt (s : State) : State :=
  s.clr 0 [Reg.Seq.CMDCNT, Reg.Seq.HLATECNT, Reg.SeqLease.TAKECNT, Reg.SeqLease.SUPPCNT]

end Sys2Proof.Machine
end

