-- ==== Sys2Proof/Machine/Dependability.lean ====
section
/-!
DEFINITION. Failover and rotation of row processors, self-test and calibration (R456, R529 to R537, R543 to R551).
-/
namespace Sys2Proof.Machine

/-! ### Units and spares (R529, R530, R533) -/

/-- Replace the dependability part. -/
def State.setDep (s : State) (e : DepState) : State := { s with dep := e }

/-- PSTATE of row processor u: 0 ACTIVE, 1 BANKED, 2 TESTING, 3 RESTORING, 4 REPAIR, 5 RETIRED. -/
def State.pstate (s : State) (u : Nat) : Nat := s.rd Reg.RpaDep.PSTATE u

/-- BANKED units. -/
def bankedCount (s : State) : Nat := (List.range 72).countP fun u => s.pstate u == 1

/-- More than FAILRESV units are BANKED (R530). -/
def spareFree (s : State) : Bool := decide (s.rd Reg.RpaDep.FAILRESV 0 < bankedCount s)

/-- The unit that takes a failed unit's place: the lowest BANKED one, else the lowest TESTING one (R532, R533). -/
def replacement (s : State) : Option Nat :=
  match (List.range 72).find? fun u => s.pstate u == 1 with
  | some u => some u
  | none => (List.range 72).find? fun u => s.pstate u == 2

/-- CALPEND: a request waits for a banked unit, or the test of one for its grant (R530, Example 18-1). -/
def showPend (s : State) : State :=
  s.wr Reg.Cal.CALPEND 0 (b2n (s.dep.reserve || s.damper.waiting.any fun g => g.cls == 5 && s.pstate g.id == 2))

/-- A request begins or ends to wait for a banked unit; source 475 emits as it begins (R530). -/
def setPend (b : Bool) (s : State) : State :=
  let was := s.dep.reserve
  let s := showPend (s.setDep { s.dep with reserve := b })
  if b && !was then s.emit 475 else s

/-! ### Calibration results (R548 to R550) -/

/-- Target t is due: the mean temperature has moved by more than ΔT since its last applied run, or, for row processor
trims, a unit is named or ROTINT has elapsed since the last rotation (R550). -/
def targetDue (s : State) (t : Nat) : Bool :=
  decide (16 * s.rd Reg.Cal.DT 0 < (s.rdI Reg.Cal.TJMEAN 0 - s.rdI Reg.Cal.TLAST t).natAbs) ||
    (t == 2 && (!s.dep.named.isEmpty ||
      (s.on Reg.Cal.ROTINT 0 && decide (s.dep.rotated + 16000000000 * s.rd Reg.Cal.ROTINT 0 ≤ s.pt))))

/-- DUE and CAL_DUE follow; CAL_DUE counts its rise and emits source 474 (R550). -/
def showDue (s : State) : State :=
  let d := bitMaskOf 5 (targetDue s)
  let held := s.on Reg.Cal.INHIBIT 0 && d != 0
  let was := s.on Reg.Cal.CAL_DUE 0
  let s := s.wrAll 0 [(Reg.Cal.DUE, d), (Reg.Cal.CAL_DUE, b2n held)]
  if held && !was then (s.sat Reg.Cal.CALDUECNT 0 1).emit 474 else s

/-- The mean of the good sensors (R550). -/
def showMean (s : State) : State :=
  let good := ((sensors s).filter (·.2)).map (·.1)
  if good.isEmpty then s else s.wrI Reg.Cal.TJMEAN 0 (good.sum / good.length)

/-- The sensors read the temperatures of a list, in 1/16 °C; a sensor that it does not reach keeps its value. -/
def readTemps (ts : List Int) (s : State) : State :=
  showDue (showMean (((ts.take 16).zipIdx).foldl (fun s e => s.wrI Reg.Cal.TEMP e.2 e.1) s))

/-- The CAL.RUN operations under way complete whose requests, in the same order, await nothing more. -/
def doneRuns : List LongOp → List (List Nat) → List LongOp
  | [], _ => []
  | l :: ls, rs =>
    if l.unit == 0x16 && l.op == 1 && l.done.isNone then
      (if rs.headD [0] == [] then { l with done := some stOK } else l) :: doneRuns ls (rs.drop 1)
    else l :: doneRuns ls rs

/-- Every CAL.RUN that awaits a target awaits it no more; those that await none complete (R550). A target whose run is
under way is awaited as 8 more than its number. -/
def metTarget (t : Nat) (s : State) : State :=
  let rs := s.dep.requests.map fun r => r.filter (· != t)
  let s := { s with seq := { s.seq with longs := doneRuns s.seq.longs rs } }
  s.setDep { s.dep with requests := rs.filter fun r => !r.isEmpty }

/-- A target ends: 1 applied, 2 rejected, 3 aborted (R549, R550). -/
def calFinish (t res q : Nat) (s : State) : State :=
  let s := ((s.wr Reg.Cal.RESULT t res).sat Reg.Cal.CALRUNCNT 0 1).emit 472 |>.evt 0x16 t 0x40
  let s := if res = 3 then s else s.wr Reg.Cal.QUAL t q
  let s := if res = 1 then s.wrAll t [(Reg.Cal.TLAST, s.rd Reg.Cal.TJMEAN 0), (Reg.Cal.TAPPLY, s.pt)] else s
  let s := if res = 2 then ((s.sat Reg.Cal.REJCNT 0 1).emit 473).evt 0x16 t 0x41 else s
  showDue s

/-- A unit leaves the run of target 2; the run ends with the last of its units. -/
def leaveRun (u res q : Nat) (s : State) : State :=
  if !s.dep.runs.contains u then s
  else
    let s := s.setDep { s.dep with runs := s.dep.runs.filter (· != u) }
    if s.dep.runs.isEmpty then metTarget 10 (calFinish 2 res q s) else s

/-! ### Failover (R531 to R534) -/

/-- Assignment indices of a logical row processor, ascending. -/
def assignsOf (s : State) (l : Nat) : List Nat := (s.rpa.assigns.filter fun e => e.1 / 256 == l && e.2 != 0).map fun e => e.1 % 256

/-- INIT runs that restore unit u for logical row processor l: every assignment under each valid area that has an entry
for its head (R252). -/
def restoresFor (s : State) (u l : Nat) : List (Nat × Nat × Nat) :=
  (assignsOf s l).flatMap fun i =>
    let h := (Tbl.get (fun _ => 0) s.rpa.assigns (256 * l + i) - 1) / 256
    ([0, 1].filter fun k => areaValid s k && (Tbl.get (fun _ => none) (areaOf s k).heads h).isSome).map fun k => (u, i, k)

/-- The tag of a strip whose row is still in its head's elastic buffer. -/
def bufferedTag (s : State) (h lseq k : Nat) : Option Tag :=
  ((s.head h).rows.find? fun r => r.tag.lseq == lseq).map fun r => { r.tag with strip := k }

/-- The unit of a logical row processor stops: its run delivers nothing, and the runs whose journals were not applied are
to run again in order, before those that already waited for it (R252, R254). -/
def stopUnit (u l : Nat) (s : State) : State :=
  let mine := s.rpa.journals.filter fun j => j.lrp == l
  let old := mine.filterMap fun j => (bufferedTag s j.head j.lseq j.strip).map fun t =>
    ({ lrp := l, tag := t, ks := j.ks, copies := j.copies } : Replay)
  let cur : List Replay := match (s.proc u).run with
    | some r => if r.restore then [] else [{ lrp := l, tag := r.tag, ks := r.ks, copies := r.copies, lates := r.lates }]
    | none => []
  let again := old ++ cur
  let s := { s with rpa := { s.rpa with journals := s.rpa.journals.filter (fun j => j.lrp != l), replays := again ++ s.rpa.replays } }
  s.setProc u (s.proc u).endRun

/-- Grants and requests of (class, id) pass to another class and id. -/
def moveGrant (c i c' i' : Nat) (s : State) : State :=
  let f := fun (g : Grant) => if g.cls == c && g.id == i then { g with cls := c', id := i' } else g
  { s with damper := { s.damper with waiting := s.damper.waiting.map f, held := s.damper.held.map f } }

/-- The activation grant of a failed unit, kept under class 0 for its logical row processor, passes to the replacement u: it
needs no new power (Table 18-1). A replacement that already has one, the incoming unit of a rotation, keeps its own, and the
other is returned. -/
def passGrant (l u : Nat) (s : State) : State :=
  if (s.damper.waiting ++ s.damper.held).any fun g => g.cls == 3 && g.id == u then s.release 0 l else moveGrant 0 l 3 u s

/-- Steps 2 and 3 of Table 17-2: unit u enters RESTORING for logical row processor l in place of the unit that PHYS
names. -/
def bindUnit (l u : Nat) (s : State) : State :=
  let old := s.rd Reg.Lrp.PHYS l
  let s := s.wrAll u [(Reg.RpaDep.PSTATE, 3), (Reg.RpaDep.LRP, l)]
  let s := (s.wr Reg.Lrp.PHYS l u).wr Reg.RpaDep.UNBOUND 0 (s.rd Reg.RpaDep.UNBOUND 0 &&& (2 ^ 64 - 1 - 2 ^ l))
  let s := ((s.sat Reg.RpaDep.FOCNT old 1).sat Reg.RpaDep.FAILCNT 0 1).emit 480
  let s := passGrant l u s
  let s := { s with rpa := { s.rpa with inits := s.rpa.inits.filter fun e => e.1 / 512 != l } }
  let s := (assignsOf s l).foldl (fun s i => clearWindow l i s) s
  let s := s.setDep { s.dep with restores := s.dep.restores.filter (fun e => e.1 != u) ++ restoresFor s u l }
  finishRestore u l s

/-- A TESTING unit is pre-empted: its test is abandoned and its calibration run aborted (R533, R551). -/
def preempt (u : Nat) (s : State) : State := if s.pstate u = 2 then showPend ((leaveRun u 3 0 s).release 5 u) else s

/-- Step 2 of Table 17-2 for logical row processor l: a spare takes the token, or l is unbound (R533). -/
def findSpare (l : Nat) (s : State) : State :=
  match replacement s with
  | some u => bindUnit l u (preempt u s)
  | none =>
    if unboundAt s l then s else (s.wr Reg.RpaDep.UNBOUND 0 (s.rd Reg.RpaDep.UNBOUND 0 ||| 2 ^ l)).emit 487

/-- A unit has become BANKED: the lowest unbound logical row processor is bound (R533). -/
def bindUnbound (s : State) : State :=
  match (List.range 64).find? (unboundAt s) with
  | some l => findSpare l s
  | none => s

/-- A unit enters REPAIR for a cause, its self-test pending (R529, R532). -/
def enterRepair (u cause : Nat) (s : State) : State :=
  (s.wrAll u [(Reg.RpaDep.PSTATE, 4), (Reg.RpaDep.LASTCAUSE, cause)]).request 5 u 1125

/-- A unit that no logical row processor is bound to is taken out of service; its activation grant is returned. -/
def toRepair (u cause : Nat) (s : State) : State := enterRepair u cause (s.release 3 u)

/-- The rotation that brings unit u in, if there is one. -/
def rotationTo (s : State) (u : Nat) : Option Rotation := s.dep.rotations.find? fun r => r.unit == u

/-- The rotation that takes the unit of logical row processor l out, if there is one. -/
def rotationOf (s : State) (l : Nat) : Option Rotation := s.dep.rotations.find? fun r => r.lrp == l

/-- A rotation ends. -/
def endRotation (r : Rotation) (s : State) : State :=
  s.setDep { s.dep with rotations := s.dep.rotations.filter (· != r), restores := s.dep.restores.filter fun e => e.1 != r.unit }

/-- Unit u meets a cause of R531: a failover, the failure of a replacement, or the end of a rotation (R532, R534, R537). -/
def failUnit (u cause : Nat) (s : State) : State :=
  let l := s.rd Reg.RpaDep.LRP u
  match rotationTo s u with
  | some r => toRepair u cause ((endRotation r s).setProc u ((endRotation r s).proc u).endRun)
  | none =>
    let t := stopUnit u l (s.setDep { s.dep with restores := s.dep.restores.filter fun e => e.1 != u })
    let t := enterRepair u cause (moveGrant 3 u 0 l t)
    match rotationOf s l with
    | some r => bindUnit l r.unit ((endRotation r t).setProc r.unit ((endRotation r t).proc r.unit).endRun)
    | none => findSpare l t

/-- A unit that a logical row processor is bound to, or that is to be. -/
def inService (s : State) (u : Nat) : Bool := s.pstate u == 0 || s.pstate u == 3

/-- FAILOVER: unit u meets a check mismatch (1) or an uncorrectable ECC error (2) (R531). A banked unit that meets one
leaves the bank. -/
def execFailover (u cause : Nat) (s : State) : Out :=
  within u 72 <|
    let c := if cause = 2 then 2 else 1
    if !s.up then ok s
    else if inService s u then ok (failUnit u c (s.evt 5 u (if c = 2 then 0x0F else 0x0D)))
    else if s.pstate u = 1 then ok (toRepair u c (s.evt 5 u (if c = 2 then 0x0F else 0x0D)))
    else ok s

/-- RP_WATCHDOG: no instruction of the current run of unit u retires for RPTO (R531). -/
def execRpWatchdog (u : Nat) (s : State) : Out :=
  within u 72 <| if inService s u ∧ (s.proc u).run.isSome then ok (failUnit u 3 s) else ok s

/-! ### Planned rotation (R535 to R537) -/

/-- A target may run now: a CAL.RUN names it, or it is due and INHIBIT is 0 (R550). -/
def mayCalibrate (s : State) (t : Nat) : Bool :=
  (s.dep.requests.any fun r => r.contains t) || (!s.on Reg.Cal.INHIBIT 0 && targetDue s t)

/-- PLANNED_ROTATION: logical row processor l is to pass to unit inn. Unless more than FAILRESV units are BANKED the request
waits (R530); the incoming unit needs its activation grant (Table 18-1), and then runs its INITs (R535, step 1). -/
def execPlannedRotation (l inn : Nat) (s : State) : Out :=
  within l 64 <| within inn 72 <|
    let out := s.rd Reg.Lrp.PHYS l
    if s.pstate inn ≠ 1 ∨ s.pstate out ≠ 0 ∨ unboundAt s l ∨ (rotationOf s l).isSome ∨ s.on Reg.Cal.INHIBIT 0 then ok s
    else if !spareFree s then ok (setPend true s)
    else if !s.granted 3 inn then ok (s.request 3 inn 1125)
    else
      let s := setPend false (s.wrAll inn [(Reg.RpaDep.PSTATE, 3), (Reg.RpaDep.LRP, l)])
      ok (s.setDep { s.dep with rotations := s.dep.rotations ++ [{ lrp := l, unit := inn }],
                                restores := s.dep.restores ++ restoresFor s inn l })

/-- Trim calibration is due for unit u. -/
def trimDue (s : State) (u : Nat) : Bool := s.dep.named.contains u || targetDue s 2

/-- The outgoing unit of a rotation leaves service: to TESTING where its trims are due, else to the bank (R535). -/
def retireFrom (u : Nat) (s : State) : State :=
  let s := s.release 3 u
  if trimDue s u then showPend (((s.wr Reg.RpaDep.PSTATE u 2).request 5 u 1125).setDep { s.dep with runs := s.dep.runs ++ [u] })
  else bindUnbound (s.wr Reg.RpaDep.PSTATE u 1)

/-- ROTATION_HANDOVER: once SST has accepted the outgoing unit's last run, the incoming one holds its data area and takes the
token; the next strip of each assignment carries CALSTEP (R535, steps 2 and 3, R536). -/
def execRotationHandover (l : Nat) (s : State) : Out :=
  within l 64 <|
    match rotationOf s l with
    | none => ok s
    | some r =>
      let out := s.rd Reg.Lrp.PHYS l
      if (s.dep.restores.any fun e => e.1 == r.unit) || (s.proc r.unit).run.isSome || (s.proc out).run.isSome ||
          s.rpa.outbox.any (fun o => o.lrp == l) then ok s
      else
        let s := s.setBytes (0x10000000 + r.unit * 0x100000 + 0x20000) (s.readBytes (0x10000000 + out * 0x100000 + 0x20000) 901120)
        let s := (s.wr Reg.Lrp.PHYS l r.unit).wr Reg.RpaDep.PSTATE r.unit 0
        let s := { s with rpa := { s.rpa with calstep := (assignsOf s l).foldl (fun t i => Tbl.set (fun _ => 0) t (256 * l + i) 1) s.rpa.calstep } }
        let s := endRotation r (s.sat Reg.RpaDep.ROTCNT 0 1)
        let s := retireFrom out s
        ok (showDue (s.setDep { s.dep with rotated := s.pt }))

/-! ### Self-test (R544 to R547, R549) -/

/-- The march test leaves in a unit's strip memory, registers, lookup table and bins what the spec does not say: free values
(Table 17-4, log entry 3). -/
def marchTest (u : Nat) (s : State) : State :=
  let a := 0x10000000 + u * 0x100000
  let s := scramble a 1008 s
  let halo := s.fresh
  let s := halo.2.setBytes (a + 0xFC000) ((List.range 256).map fun n => (halo.1 >>> (8 * n)).setWidth 8)
  let n := s.free
  let at' := fun (k w j : Nat) => (Config.freeVec (n + k + j / (8192 / w))).extractLsb' (j % (8192 / w) * w) w
  let p := { s.proc u with
    s := ((List.range 32).drop 1).foldl (fun t j => Tbl.set (fun _ => 0) t j (at' 0 32 j)) [],
    a := (List.range 8).foldl (fun t j => Tbl.set (fun _ => 0) t j (at' 1 48 j)) [],
    lut := (List.range 4096).foldl (fun t j => Tbl.set (fun _ => 0) t j (at' 2 16 j)) [],
    hist := (List.range 1024).foldl (fun t j => Tbl.set (fun _ => 0) t j (at' 10 32 j)) [] }
  { s with free := n + 14 }.setProc u p

/-- The images of both code areas are loaded from a unit that holds them (R237, Table 17-4 step 6). -/
def loadImages (u : Nat) (s : State) : State :=
  match (List.range 72).find? fun k => s.pstate k == 0 && k != u with
  | some k => s.setBytes (0x10000000 + u * 0x100000) (s.readBytes (0x10000000 + k * 0x100000) 0x20000)
  | none => s

/-- A unit enters the bank after its test (R547). -/
def toBank (u : Nat) (s : State) : State :=
  let was := s.pstate u
  let s := (loadImages u s).wr Reg.RpaDep.PSTATE u 1
  let s := s.release 5 u
  bindUnbound (if was = 4 then s.emit 485 else s)

/-- A unit has failed a step of its test (R547): REPAIR until the retry is due, RETIRED at the third failure. -/
def testFails (u : Nat) (s : State) : State :=
  let n := s.rd Reg.RpaDep.TRIES u + 1
  let s := s.wrAll u [(Reg.RpaDep.TRIES, n), (Reg.RpaDep.LASTCAUSE, 4)]
  if 3 ≤ n then
    (((s.wr Reg.RpaDep.PSTATE u 5).wr2 Reg.RpaDep.RETMAP 0 u 1).release 5 u).emit 484
  else (s.wr Reg.RpaDep.PSTATE u 4).setDep { s.dep with retryWait := s.dep.retryWait ++ [u] }

/-- New trims pass the plausibility check: the margin reaches DMARGIN and no tap moves by more than TAPSTEP, except on the
first calibration after reset (R549). -/
def trimsPlausible (s : State) (u margin move : Nat) : Bool :=
  decide (s.rd Reg.Cal.DMARGIN 0 ≤ margin) && (decide (move ≤ s.rd Reg.Cal.TAPSTEP 0) || !s.dep.trimmed.contains u)

/-- The test of unit u ends: a step failed, or the sweep gave a margin with taps moved by at most `move`. -/
def judgeTest (u : Nat) (fail : Bool) (margin move : Nat) (s : State) : State :=
  if fail then leaveRun u 2 margin (testFails u s)
  else if trimsPlausible s u margin move then
    let s := s.wrAll u [(Reg.RpaDep.MARGIN, margin), (Reg.RpaDep.TTEST, s.pt), (Reg.RpaDep.TRIES, 0)]
    let s := s.setDep { s.dep with trimmed := s.dep.trimmed.filter (· != u) ++ [u], named := s.dep.named.filter (· != u) }
    leaveRun u 1 margin (toBank u s)
  else if s.pstate u = 2 ∧ s.rd Reg.Cal.DMARGIN 0 ≤ s.rd Reg.RpaDep.MARGIN u then leaveRun u 2 margin (toBank u s)
  else leaveRun u 2 margin (testFails u s)

/-- The four words of a TEST packet's tag (R546, Table 17-5). -/
def TestPkt.words (p : TestPkt) : List Word :=
  let t := p.tag
  [fld t.kind 4 60 ||| fld t.head 5 55 ||| fld t.xset 8 47 ||| fld t.epoch 7 40 ||| fld t.lseq 40 0, p.seed, BitVec.ofNat 64 t.time,
   fld t.flags 16 48 ||| fld p.trp 8 40 ||| fld p.pattern 8 32 ||| fld p.sig 32 0]

/-- The payload that a seed generates: three planes of 1,024 bytes. -/
def testPayload (seed : Word) : List Byte :=
  (List.range 3).flatMap fun p => (List.range 1024).map fun k => Config.testByte seed p k

/-- TEST packet k of the test of unit u: the first 4,096 run through the test program (step 3 of Table 17-4), those after them
belong to the trim sweep (step 4). -/
def testPkt (s : State) (u k : Nat) : TestPkt :=
  let seed := Config.testSeed s.raw k
  let pattern := if k < 4096 then (Config.testPattern k).val else 3
  { tag := { kind := 6, epoch := s.rd Reg.Cut.EPOCH 0, lseq := k, time := s.pt, flags := 2 ^ fTEST }, seed := seed, trp := u,
    pattern := pattern, sig := (crc32c (Config.testProgram pattern (testPayload seed))).toNat, payload := testPayload seed }

/-- The SST input checks the output slots that came of a TEST packet against SIG, and discards it (R23, R545). -/
def testFailsAt (s : State) (u : Nat) (o : Nat × List Byte) : Bool := (crc32c o.2).toNat != (testPkt s u o.1).sig

/-- SELF_TEST: on its grant a unit in TESTING or REPAIR runs the steps of Table 17-4 (R545). TEST packets that `found` leaves out came
out as expected; `margin` and `move` are what the sweep gave. -/
def execSelfTest (u : Nat) (found : TestFound) (margin move : Nat) (s : State) : Out :=
  within u 72 <|
    if (s.pstate u ≠ 2 ∧ s.pstate u ≠ 4) ∨ !s.granted 5 u ∨ s.dep.retryWait.contains u then ok s
    else ok (judgeTest u (found.fail || found.outs.any (testFailsAt s u)) margin move (marchTest u s))

/-- SELF_TEST_RETRY: 1 s after a failed test a unit in REPAIR may be tested again (R547). -/
def execSelfTestRetry (u : Nat) (s : State) : Out :=
  within u 72 <|
    if s.pstate u = 4 then ok ((s.setDep { s.dep with retryWait := s.dep.retryWait.filter (· != u) }).request 5 u 1125) else ok s

/-- A request names a unit for rotation and self-test. -/
def nameUnit (u cause : Nat) (s : State) : State :=
  let s := s.wr Reg.RpaDep.LASTCAUSE u cause
  showDue (s.setDep { s.dep with named := s.dep.named.filter (· != u) ++ [u] })

/-- CECNT_RATE_CHECK: n corrected ECC errors of unit u within one second (R544, Table 17-3). -/
def execCecntRateCheck (u n : Nat) (s : State) : Out :=
  within u 72 <|
    let s := (s.sat Reg.RpaDep.CECNT u n).evt 5 u 0x0E n
    let t := s.rd Reg.RpaDep.CETHR 0
    if t ≠ 0 ∧ t < n then ok ((nameUnit u 6 s).emit 486) else ok s

/-- CANARY_MARGIN_LOW: a canary of unit u shows a margin below DMARGIN ÷ 2 (Table 17-3). -/
def execCanaryMarginLow (u margin : Nat) (s : State) : Out :=
  within u 72 <| if 2 * margin < s.rd Reg.Cal.DMARGIN 0 then ok ((nameUnit u 5 s).emit 477) else ok s

/-! ### CAL's operations (R550, R554) -/

/-- CAL.RUN: starts calibration of the targets named in w0 [4:0]. -/
def execCalRun (x : XWord) (s : State) : Out :=
  xop 0x16 0x01 x (fun a s =>
    match (List.range 5).filter fun t => bit (a.w 0) t with
    | [] => .fin stOK s
    | ts => .start (s.setDep { s.dep with requests := s.dep.requests ++ [ts] })) s

/-- CAL.CFG: INHIBIT, DT and ROTINT, laid out as CAL word 0x00. -/
def execCalCfg (x : XWord) (s : State) : Out :=
  xop 0x16 0x02 x (fun a s =>
    let w := a.w 0
    if !inRange (Reg.Cal.DT.get 0 w) 1 40 || decide (3600 < Reg.Cal.ROTINT.get 0 w) then .no stBOUNDS s
    else .fin stOK (showDue (setFrom a 0 [(0, Reg.Cal.INHIBIT), (0, Reg.Cal.DT), (0, Reg.Cal.ROTINT)] s))) s

/-- CAL.LIMITS: the plausibility limits, CAL word 0x08 as a block. -/
def execCalLimits (x : XWord) (s : State) : Out :=
  blockOp 0x16 0x03 1 x 0x20160008 1
    [Reg.Cal.OFSMAX, Reg.Cal.DSHIFT, Reg.Cal.DMARGIN, Reg.Cal.TAPSTEP, Reg.Cal.THRMAX, Reg.Cal.SENSDEV]
    (fun _ _ => none) (fun _ _ _ => true) (fun _ _ t => t) s

/-! ### DRAM retraining (R456, R549) -/

/-- The eyes that retraining found for channel c, ten byte lanes, from a list. -/
def eyesOf (eyes : List Nat) : List Nat := (List.range 10).map fun k => eyes.getD k 0 % 256

/-- New delays of channel c are plausible: EYEMIN not below DEYEMIN, no delay moved by more than DSHIFT (R549). -/
def eyesPlausible (s : State) (c : Nat) (eyes : List Nat) (shift : Nat) : Bool :=
  decide (s.rd Reg.Dmc.DEYEMIN c ≤ (eyesOf eyes).foldl min 255 ∧ shift ≤ s.rd Reg.Cal.DSHIFT 0)

/-- The new delays are applied: the eyes follow. -/
def applyEyes (c : Nat) (eyes : List Nat) (s : State) : State :=
  let s := ((eyesOf eyes).zipIdx).foldl (fun t e => t.wr2 Reg.Dmc.EYEW c e.2 e.1) s
  s.wr Reg.Dmc.EYEMIN c ((eyesOf eyes).foldl min 255)

/-- A pause of retraining. -/
def pauseChannel (c : Nat) (s : State) : State := (s.sat Reg.Dmc.RTCNT c 1).evt 0xD c 0x42

/-- PERIODIC_RETRAIN: every RTINT a READY channel is retrained in a pause; implausible delays are not taken (R456). -/
def execPeriodicRetrain (c : Nat) (eyes : List Nat) (shift : Nat) (s : State) : Out :=
  within c 8 <|
    if s.rd Reg.Dmc.CHSTATE c ≠ 2 then ok s
    else
      let s := pauseChannel c s
      ok (if eyesPlausible s c eyes shift then applyEyes c eyes s else s)

/-! ### Calibration runs (R548, R549) -/

/-- The channels that target 1 runs on. -/
def readyChannels (s : State) : List Nat := (List.range 8).filter fun c => s.rd Reg.Dmc.CHSTATE c == 2

/-- Target 1: READY channels with ten eyes each, channel c from index 10c of the figures. -/
def calDram (shift : Nat) (figs : List Int) (s : State) : State :=
  let eyes := fun c => ((figs.drop (10 * c)).take 10).map Int.toNat
  let cs := readyChannels s
  let s := cs.foldl (fun s c => pauseChannel c s) s
  let q := cs.foldl (fun m c => min m ((eyesOf (eyes c)).foldl min 255)) 255
  if cs.all fun c => eyesPlausible s c (eyes c) shift then calFinish 1 1 q (cs.foldl (fun s c => applyEyes c (eyes c) s) s)
  else calFinish 1 2 q s

/-- Insert a temperature in rising order. -/
def insertInt (x : Int) : List Int → List Int
  | [] => [x]
  | y :: ys => if x ≤ y then x :: y :: ys else y :: insertInt x ys

/-- Twice the median of the 16 sensors (the mean of the two middle ones; DESIGN CHOICE, log entry 51). -/
def twiceMedian (ts : List Int) : Int :=
  let o := ts.foldl (fun t x => insertInt x t) []
  o.getD 7 0 + o.getD 8 0

/-- Target 4: each sensor is compared with the median; one more than SENSDEV away is BAD. The run passes while at least 8
are good. -/
def calSensors (figs : List Int) (s : State) : State :=
  let s := ((figs.take 16).zipIdx).foldl (fun s e => s.wrI Reg.Cal.TEMP e.2 e.1) s
  let ts := (sensors s).map (·.1)
  let m := twiceMedian ts
  let bad := ts.map fun t => decide (2 * s.rd Reg.Cal.SENSDEV 0 < (2 * t - m).natAbs)
  let s := (bad.zipIdx).foldl (fun s e => s.wr Reg.Cal.BAD e.2 (b2n e.1)) s
  let s := s.wr Reg.Cal.SENSBAD 0 (bitMaskOf 16 fun k => bad.getD k false)
  let good := ((sensors s).filter (·.2)).map (·.1)
  let q := if good.isEmpty then 0 else (good.foldl max (-32768) - good.foldl min 32767).toNat
  calFinish 4 (if 8 ≤ good.length then 1 else 2) q (showDue (showMean s))

/-- Target 2 starts on a BANKED unit, while more than FAILRESV units are BANKED (R530, R548). -/
def startTrims (u : Nat) (s : State) : State :=
  if 72 ≤ u ∨ s.pstate u ≠ 1 then s
  else if !spareFree s then setPend true s
  else
    let s := setPend false ((s.wr Reg.RpaDep.PSTATE u 2).request 5 u 1125)
    s.setDep { s.dep with runs := s.dep.runs ++ [u], requests := s.dep.requests.map fun r => r.map fun t => if t = 2 then 10 else t }

/-- Target 0: each LOCKED lane ends a CROSS scan with the figures 3n + 1 and 3n + 2 of the list, and on a lane that is not
assigned to a running head the offset trim moves by figure 3n. QUAL shows the worst EWIDTH and EHEIGHT; the result is applied
when no change exceeds OFSMAX and LOWEYE is clear (R105, R548, R549). -/
def calLanes (figs : List Int) (s : State) : State :=
  let ls := (List.range 256).filter fun n => s.laneState n == lsLOCKED
  let move := fun n => if s.on Reg.Lane.ASSIGNED n then 0 else figs.getD (3 * n) 0
  let s := ls.foldl (fun s n => eyeFigures n (min 128 (figs.getD (3 * n + 1) 0).toNat) (min 64 (figs.getD (3 * n + 2) 0).toNat) s) s
  let worst := fun (f : Field) => if ls.isEmpty then 0 else ls.foldl (fun m n => min m (s.rd f n)) 255
  let q := 256 * worst Reg.Lane.EWIDTH + worst Reg.Lane.EHEIGHT
  if ls.all fun n => !s.on Reg.Lane.LOWEYE n && decide ((move n).natAbs ≤ s.rd Reg.Cal.OFSMAX 0) then
    calFinish 0 1 q (ls.foldl (fun s n => s.setLane n { s.lane n with trim := (s.lane n).trim + move n }) s)
  else calFinish 0 2 q s

/-- CAL_TARGET_RUN: a target that is due or requested is calibrated. Target 0: the figures of the lanes; 1: `shift` in ps and the eyes of the channels; 2: the unit to test, whose
SELF_TEST ends the run; 3: q is QUAL, `shift` in mV, `fine` within the common-mode range; 4: the temperatures (R548 to
R550). -/
def execCalTargetRun (t q shift : Nat) (fine : Bool) (figs : List Int) (unit : Nat) (s : State) : Out :=
  within t 5 <|
    if !s.up ∨ !mayCalibrate s t then ok s
    else match t with
      | 0 => ok (metTarget 0 (calLanes figs s))
      | 1 => ok (metTarget 1 (calDram shift figs s))
      | 2 => ok (startTrims unit s)
      | 3 => ok (metTarget 3 (calFinish 3 (if fine && decide (shift ≤ s.rd Reg.Cal.THRMAX 0) then 1 else 2) q s))
      | _ => ok (metTarget 4 (calSensors figs s))

/-! ### Counters -/

/-- Clear the dependability counters of RPA's units and of RPA as a whole. -/
def rpaDepCnt (s : State) : State := s.clr 0 [Reg.RpaDep.FAILCNT, Reg.RpaDep.ROTCNT]

/-- Clear the counters of a physical row processor. -/
def rpaUnitCnt (u : Nat) (s : State) : State := s.clr u [Reg.RpaDep.FOCNT, Reg.RpaDep.CECNT]

/-- Clear CAL's counters (R554). -/
def calCnt (s : State) : State := s.clr 0 [Reg.Cal.CALRUNCNT, Reg.Cal.REJCNT, Reg.Cal.CALDUECNT]

end Sys2Proof.Machine
end

