-- ==== Sys2Proof/Machine/Power.lean ====
section
/-!
DEFINITION. The Damper, the core voltage loop, supply and thermal monitors, Ember and the reset sources (R555 to R568).
-/
namespace Sys2Proof.Machine

/-! ### Settings (R555, R558 to R560) -/

/-- PBA.BUDGET: 40,000 to 240,000 mW in multiples of 125 (R555). -/
def execPbaBudget (x : XWord) (s : State) : Out :=
  xop 0x15 0x01 x (fun a s =>
    let n := bits (a.w 0) 31 0
    if !inRange n 40000 240000 || n % 125 != 0 then .no stBOUNDS s else .fin stOK (s.wr Reg.Pba.BUDGET 0 n)) s

/-- The lowest VCORE that the regulator permits at a VMIN, 0.97 × VMIN, is a warning threshold plus 10 mV or more (R559). -/
def warnFits (warn vmin : Nat) : Bool := decide (100 * (warn + 10) ≤ 97 * vmin)

/-- PBA.VBOUNDS: VMIN and VMAX, laid out as PBA word 0x08 (R559, R69). -/
def execPbaVbounds (x : XWord) (s : State) : Out :=
  xop 0x15 0x02 x (fun a s =>
    let lo := Reg.Pba.VMIN.get 0 (a.w 0)
    let hi := Reg.Pba.VMAX.get 0 (a.w 0)
    if hi < lo ∨ !inRange lo 640 900 ∨ !inRange hi 640 900 ∨ !warnFits (s.rd Reg.Rail.WARN 0) lo then .no stBOUNDS s
    else .fin stOK (s.wrAll 0 [(Reg.Pba.VMIN, lo), (Reg.Pba.VMAX, hi)])) s

/-- PBA.TARGET: VTARGET, laid out as PBA word 0x08, and as far as LEN reaches the words 0x10 and 0x18 with VREGADR, TWARN,
PEVEN, INSPREQ and LIVEHOLD (R558, R562, R568). -/
def execPbaTarget (x : XWord) (s : State) : Out :=
  xop 0x15 0x03 x (fun a s =>
    if !inRange (Reg.Pba.VTARGET.get 0 (a.w 0)) 100 2000 || !inRange (payOr a s 0 1 Reg.Pba.TWARN) 60 130 ||
        decide (60000 < payOr a s 0 2 Reg.Pba.LIVEHOLD ∨ 3 < a.ws.length) then .no stBOUNDS s
    else .fin stOK (setFrom a 0 [(0, Reg.Pba.VTARGET), (1, Reg.Pba.VREGADR), (1, Reg.Pba.TWARN), (1, Reg.Pba.PEVEN),
      (2, Reg.Pba.INSPREQ), (2, Reg.Pba.LIVEHOLD)] s)) s

/-- Ranges of WARN and RESET of a rail, mV (Table 18-2). -/
def railRange : List ((Nat × Nat) × (Nat × Nat)) :=
  [((600, 700), (560, 620)), ((720, 780), (680, 740)), ((830, 880), (780, 840)), ((1100, 1170), (1040, 1120)),
   ((1020, 1080), (960, 1030)), ((1660, 1770), (1560, 1680)), ((3050, 3250), (2880, 3080))]

/-- PBA.MONITOR: WARN and RESET of a rail (R560). -/
def execPbaMonitor (x : XWord) (s : State) : Out :=
  direct 0x15 0x04 7 x (fun a s =>
    let w := bits (a.w 0) 31 16
    let r := bits (a.w 0) 15 0
    let g := railRange.getD a.i ((0, 0), (0, 0))
    if !inRange w g.1.1 g.1.2 || !inRange r g.2.1 g.2.2 || decide (w ≤ r) ||
        (a.i == 0 && !warnFits w (s.rd Reg.Pba.VMIN 0)) then .error stBOUNDS
    else .ok (s.wrAll a.i [(Reg.Rail.WARN, w), (Reg.Rail.RESET, r)])) s

/-! ### Grants (R555 to R557) -/

/-- The account fits the budget at a core voltage in mV: account × VCORE² ≤ BUDGET × 800² (R555). -/
def fits (s : State) (mw v : Nat) : Bool := decide (mw * (v * v) ≤ s.rd Reg.Pba.BUDGET 0 * 640000)

/-- The commanded core voltage: a command to the regulator counts from the moment that it is given (R555). -/
def commandedMv (s : State) : Nat :=
  (s.twOf 1).queue.foldl (fun v k => match k with | .voutCommand w => max v w | _ => v) (s.rd Reg.Pba.VCMD 0)

/-- The request that comes next: of the lowest class, the first to arrive (R556). -/
def nextGrant (s : State) : Option Grant :=
  s.damper.waiting.foldl (fun b g => match b with | some h => if g.cls < h.cls then some g else b | none => some g) none

/-- GRANT_ISSUE: the Damper grants the next request once the account allows it and no rail is below warning (R555, R556,
Table 18-3). -/
def execGrantIssue (s : State) : Out :=
  match nextGrant s with
  | none => ok s
  | some g =>
    if supWarn s || s.power.ember || !fits s (baseMw + heldMw s + g.mw) (commandedMv s) then ok s
    else
      let d := { s.damper with waiting := s.damper.waiting.erase g, held := s.damper.held ++ [g] }
      ok ((showPend (showGranted (setHeld { s with damper := d }))).evt 0x15 0 0x40)

/-! ### The voltage loop (R558, R559) -/

/-- The Damper has a VOUT_COMMAND under way or waiting. -/
def stepPending (s : State) : Bool := (s.twOf 1).queue.any TwKind.isReg

/-- The loop wants to raise VCORE, given the issue rate of the slowest active row processor in M slots/s. -/
def wantsRise (s : State) (rate : Nat) : Bool :=
  decide (rate < s.rd Reg.Pba.VTARGET 0) || (runningHeads s).any (ebHalf s) || decide (s.rd Reg.Pba.VCMD 0 < s.rd Reg.Pba.VMIN 0)

/-- The loop may lower VCORE. -/
def wantsFall (s : State) (rate : Nat) : Bool :=
  decide (11 * s.rd Reg.Pba.VTARGET 0 < 10 * rate) &&
    (runningHeads s).all fun h => decide (8 * s.rd Reg.Head.EBFILL h ≤ s.rd Reg.Head.EBSLOTS h)

/-- The next command of VCORE, in a step of 5 mV, and whether a rise is withheld: the cap and VMAX pull down first, VMIN
holds it up (R557, R558, R68). -/
def nextVcore (s : State) (rate : Nat) : Option Nat × Bool :=
  let v := s.rd Reg.Pba.VCMD 0
  let acc := baseMw + heldMw s
  let canFall := decide (s.rd Reg.Pba.VMIN 0 ≤ v - 5)
  if (!fits s acc v || decide (s.rd Reg.Pba.VMAX 0 < v)) && canFall then (some (v - 5), wantsRise s rate)
  else if wantsRise s rate then
    if decide (v + 5 ≤ s.rd Reg.Pba.VMAX 0) && fits s acc (v + 5) then (some (v + 5), false) else (none, true)
  else if wantsFall s rate && canFall then (some (v - 5), false)
  else (none, false)

/-- VOLTAGE_LOOP_STEP: at most every 100 µs the loop commands one step, unless a rail is below warning, the regulator has
failed or reported no VOUT_MODE, or a command of it is still under way (R558, R559, Table 18-3). -/
def execVoltageLoopStep (rate : Nat) (s : State) : Out :=
  if !s.up || supWarn s || s.power.vregBad || s.power.voutN.isNone || stepPending s then ok s
  else
    let r := nextVcore s rate
    let s := setHeld { s with damper := { s.damper with riseHeld := r.2 } }
    match r.1 with
    | some v => ok (queueReg (.voutCommand v) s)
    | none => ok s

/-- VREG_RETRY: 10 ms after a failed transaction the loop tries the regulator again, from VOUT_MODE where it has none
(R559, R601). -/
def execVregRetry (s : State) : Out :=
  if !s.power.vregBad || stepPending s || s.power.ember then ok s
  else
    let k := if s.power.voutN.isNone then TwKind.voutMode else .voutCommand (s.rd Reg.Pba.VCMD 0)
    ok (queueReg k { s with power := { s.power with vregBad := false } })

/-! ### Supply dips (R561) -/

/-- Source 464 + r, where PEVEN enables it. -/
def railToken (r : Nat) (s : State) : State := if (s.rd Reg.Pba.PEVEN 0).testBit r then s.emit (464 + r) else s

/-- Lines that are being ingested carry LOWMARGIN. -/
def lowLines (s : State) : State :=
  (runningHeads s).foldl (fun s h =>
    match (s.head h).line with
    | some l => s.setHead h { s.head h with line := some { l with low := true } }
    | none => s) s

/-- SUPPLY_WARNING_ENTER: rail r has been below WARN for 50 ns (Table 18-3, step 1). -/
def execSupplyWarningEnter (r : Nat) (s : State) : Out :=
  within r 7 <|
    if (s.rd Reg.Pba.SUPWARNR 0).testBit r then ok s
    else
      let s := s.wr Reg.Pba.SUPWARNR 0 (s.rd Reg.Pba.SUPWARNR 0 ||| 2 ^ r)
      let s := { s with power := { s.power with dips := Tbl.set (fun _ => none) s.power.dips r (some (s.pt, s.raw)) } }
      ok (lowLines (railToken r (s.sat Reg.Rail.DIPCNT r 1)))

/-- SUPPLY_WARNING_EXIT: rail r has been at WARN + 10 mV or more for 1 µs; the dip record is written with the lowest sample,
and once no rail is below warning the state is RECOVERING (Table 18-3, steps 3 to 5). -/
def execSupplyWarningExit (r vlow : Nat) (s : State) : Out :=
  within r 7 <|
    if !(s.rd Reg.Pba.SUPWARNR 0).testBit r then ok s
    else
      let d := (Tbl.get (fun _ => none) s.power.dips r).getD (s.pt, s.raw)
      let k := s.rd Reg.Pba.DIPWP 0 % 16
      let s1 := s.wrAll k [(Reg.Dip.RAIL, r), (Reg.Dip.TSTART, d.1), (Reg.Dip.DUR, s.raw - d.2), (Reg.Dip.VLOW, vlow)]
      let s1 := (s1.wrap Reg.Pba.DIPWP 0 1).wr Reg.Pba.SUPWARNR 0 (s.rd Reg.Pba.SUPWARNR 0 &&& (127 - 2 ^ r))
      let s1 := railToken r { s1 with power := { s1.power with dips := Tbl.erase s1.power.dips r } }
      ok (if supWarn s1 || !s1.up then s1 else settleDip { s1 with power := { s1.power with recovering := true } })

/-- RAIL_BELOW_RESET: rail r has been below RESET for 200 ns (R560, Table 18-5). -/
def execRailBelowReset (r : Nat) (s : State) : Out :=
  within r 7 <| if r = 1 then ok (powerOn s) else ok ((coreReset 5 s).wr Reg.Pba.RSTRAIL 0 r)

/-! ### Thermal limits (R562, R563) -/

/-- THERMAL_WARNING: the sensors read new temperatures; THOT is set at TWARN, with source 471, and clears 5 °C below. -/
def execThermalWarning (temps : List Int) (s : State) : Out :=
  let s := readTemps temps s
  let w : Int := s.rd Reg.Pba.TWARN 0
  if 16 * w ≤ tjMax s ∧ !s.on Reg.Pba.THOT 0 then
    let s := s.wr Reg.Pba.THOT 0 1
    ok (if (s.rd Reg.Pba.PEVEN 0).testBit 7 then s.emit 471 else s)
  else if tjMax s ≤ 16 * (w - 5) then ok (s.wr Reg.Pba.THOT 0 0)
  else ok s

/-- THERMAL_SHUTDOWN: Tj reaches 135 °C and the device resets, held (R563). VCORE_EN is low under this cause (Table 18-6a). -/
def execThermalShutdown (temps : List Int) (s : State) : Out :=
  let s := readTemps temps s
  if tjMax s < 16 * 135 then ok s
  else
    let r := coreReset 6 s
    ok { r with power := { r.power with hot := true, vcoreEn := false } }

/-- THERMAL_RELEASE: Tj has stayed at or below 115 °C for 1 s (R563). -/
def execThermalRelease (temps : List Int) (s : State) : Out :=
  let s := readTemps temps s
  if s.power.hot && decide (tjMax s ≤ 16 * 115) then ok { s with power := { s.power with hot := false, vcoreEn := true } } else ok s

/-! ### Ember (R564, R565) -/

/-- Completion entries that wait are written while the ring has room. -/
def flushEntries : Nat → State → State
  | 0, s => s
  | n + 1, s =>
    match s.hif.entries with
    | [] => s
    | e :: es => if ccRoom s then flushEntries n (putCompletion e (s.setHif { s.hif with entries := es })) else s

/-- PBA.EMBER completes with BUSY (R564). -/
def emberBusy (s : State) : Bool :=
  !(runningHeads s).isEmpty || (List.range 8).any (fun k => s.on Reg.Stream.RUNNING k) || (List.range 16).any (fun c => s.on Reg.Dma.ACTIVE c) ||
    (List.range 8).any (fun c => s.rd Reg.Dmc.CHSTATE c == 4) || supWarn s

/-- The command that runs completes with its entry and CPROD written (R564, step 1). -/
def completeEmber (s : State) : State :=
  let s := match s.seq.cur with
    | some (.command q) => (match s.seq.log.find? fun (c : Cmd) => c.cseq == q with | some c => completeCommand c s | none => s)
    | _ => s
  if s.on Reg.Bar0.CEN 0 then putProducer 0 (flushEntries s.hif.entries.length s) else s

/-- Entry into Ember: the completion, one refresh with STATE EMBERING, DRAM in self-refresh, links and lanes cold, VCORE_EN
low (R564). TW1 and TW2 are released and drop what they had to do. -/
def enterEmber (s : State) : State :=
  let s := refresh 3 (completeEmber s)
  let copy := s.on Reg.Slc.KCOPYOK 0
  let s := coreOff s
  let s := [1, 2].foldl (fun s p => s.setTw p { s.twOf p with queue := [], losses := 0, lost := false }) s
  { s with power := { s.power with ember := true, leaving := false, hadCopy := copy, vcoreEn := false, recovering := false } }

/-- PBA.EMBER: enters Ember. -/
def execPbaEmber (x : XWord) (s : State) : Out :=
  xop 0x15 0x05 x (fun _ s => if emberBusy s then .no stBUSY s else .gone (enterEmber s)) s

/-- A wake: VCORE_EN goes high, and TW3 will not acknowledge its first transaction (Table 18-4, R605). -/
def beginWake (s : State) : State :=
  if s.power.ember && !s.power.leaving then
    { s.setTw 3 { s.twOf 3 with mute := true } with power := { s.power with leaving := true, vcoreEn := true } }
  else s

/-- The wake task input's pending activation is served: the device wakes (R565, R587). -/
def serveWake (s : State) : State :=
  if s.rd Reg.EvrTask.TSTATE 129 = 1 ∧ s.power.ember then
    let s := s.wrAll 129 [(Reg.EvrTask.TSTATE, 0), (Reg.EvrTask.LHOP, Tbl.get (fun _ => 0) s.evr.hops 129)]
    beginWake ({ s with evr := { s.evr with hops := Tbl.erase s.evr.hops 129 } }.wrap Reg.EvrTask.ACTCNT 129 1)
  else s

/-- EMBER_WAKE: a token at the wake task input starts the exit from Ember. -/
def execEmberWake (s : State) : Out := ok (serveWake s)

/-- VCORE_POWER_GOOD: step 1 of Table 18-4 ends: TW1 reads VOUT_MODE and commands the VCORE of entry, DRAM channels that
were READY leave self-refresh, and Kindling begins its load. -/
def execVcorePowerGood (s : State) : Out :=
  if !s.power.ember || !s.power.leaving then ok s
  else
    let s := { s with power := { s.power with ember := false } }
    let s := queueReg (.voutCommand (s.rd Reg.Pba.VCMD 0)) (queueReg .voutMode s)
    let s := (readyChannels s).foldl (fun s c => (s.setDram c { s.dram c with training := true }).wr Reg.Dmc.CHSTATE c 1) s
    ok (setPhase 3 s)

/-! ### Resets (R566) and live views (R568) -/

/-- VAUX_POWER_ON. -/
def execVauxPowerOn (s : State) : Out := ok (powerOn s)

/-- RST_N_ASSERT: RST_N has been low for 1 µs. -/
def execRstNAssert (s : State) : Out := ok (coreReset 2 s)

/-- LIVEHOLD_EXPIRY: LIVEHOLD has passed since the last GAP record of a source (R568). -/
def execLiveholdExpiry (src : Nat) (s : State) : Out :=
  ok { s with dlg := { s.dlg with gapSrcs := s.dlg.gapSrcs.filter (· != src) } }

/-- Clear PBA's counters (R577). -/
def pbaCntOne (r : Nat) (s : State) : State := s.clr r [Reg.Rail.DIPCNT]

/-- HELDCNT. -/
def pbaCnt (s : State) : State := s.clr 0 [Reg.Pba.HELDCNT]

/-- Clear SLC's counters (R577). -/
def slcCnt (s : State) : State := s.clr 0 [Reg.Slc.WIPEFAIL, Reg.Slc.TAMPERCNT, Reg.Slc.WIPECNT]

end Sys2Proof.Machine
end

