-- ==== Sys2Proof/Machine/Events.lean ====
section
/-!
DEFINITION. The event router: EVIO inputs, channels, gates and task inputs, and the activations of their consumers
(R578 to R593).
-/
namespace Sys2Proof.Machine

/-! ### Settings (R591) -/

/-- EVR.CHAN: a channel block, or with instance 0x100 + n the EVIO block of input n. -/
def execEvrChan (x : XWord) (s : State) : Out :=
  xop 0x13 0x01 x (fun a s =>
    if a.i < 128 then
      if 2 < a.ws.length then .no stBOUNDS s
      else .fin stOK (setFrom a a.i [(0, Reg.EvrChan.EN), (0, Reg.EvrChan.GEN), (0, Reg.EvrChan.GINV), (0, Reg.EvrChan.GSEL),
        (0, Reg.EvrChan.SRC)] s)
    else
      let n := a.i - 0x100
      if a.i < 0x100 ∨ 16 ≤ n ∨ 1 < a.ws.length ∨ !inRange (payOr a s n 0 Reg.Evio.EFILT) 1 200 then .no stBOUNDS s
      else .fin stOK (setFrom a n [(0, Reg.Evio.EN), (0, Reg.Evio.EEDGE), (0, Reg.Evio.EFILT)] s)) s

/-- EVR.TASK: word 0x00 of a task block. -/
def execEvrTask (x : XWord) (s : State) : Out :=
  blockOp 0x13 0x02 256 x 0x20130800 1 [Reg.EvrTask.EN, Reg.EvrTask.CHSEL] (fun _ _ => none) (fun _ _ _ => true) (fun _ _ t => t) s

/-- EVR.GATE: GSW bit k becomes ARG[k] where ARG[8 + k] is 1. -/
def execEvrGate (x : XWord) (s : State) : Out :=
  xop 0x13 0x03 x (fun a s =>
    let m := a.arg / 256 % 256
    .fin stOK (s.wr Reg.EvrGlobal.GSW 0 ((s.rd Reg.EvrGlobal.GSW 0 &&& (255 - m)) ||| (a.arg % 256 &&& m)))) s

/-! ### Sources and channels (R579 to R585, R590) -/

/-- EVIO_EDGE: input n has held a new level for its filter time: the level is accepted, and an edge of the selected kind
emits source 400 + n (R579). -/
def execEvioEdge (n : Nat) (level : Bool) (s : State) : Out :=
  within n 16 <|
    if !s.on Reg.Evio.EN n || s.on Reg.Evio.LEVEL n == level then ok s
    else
      let s := s.wr Reg.Evio.LEVEL n (b2n level)
      ok (if (s.rd Reg.Evio.EEDGE n).testBit (if level then 0 else 1) then s.emit (400 + n) else s)

/-- Take the first k tokens of a channel whose hop count is below 7 off a list: their highest hop count with h, how many
were taken, and the rest. -/
def takeMerged (c : Nat) : Nat → Nat → List Token → Nat × Nat × List Token
  | _, h, [] => (h, 0, [])
  | k, h, t :: ts =>
    if t.chan = c ∧ t.hop < 7 ∧ k ≠ 0 then
      let r := takeMerged c (k - 1) (max h t.hop) ts
      (r.1, r.2.1 + 1, r.2.2)
    else
      let r := takeMerged c k h ts
      (r.1, r.2.1, t :: r.2.2)

/-- The gate of a channel reads 1, or is not used (R580). -/
def gateOpen (s : State) (c : Nat) : Bool :=
  !s.on Reg.EvrChan.GEN c || (gateLevel s (s.rd Reg.EvrChan.GSEL c) != s.on Reg.EvrChan.GINV c)

/-- The task inputs that select a channel. -/
def forkOf (s : State) (c : Nat) : List Nat := (List.range 256).filter fun t => s.rd Reg.EvrTask.CHSEL t == c

/-- A token of hop count 7 is dropped at a channel (R590). A software fire has no source to record. -/
def loopDrop (t : Token) (s : State) : State :=
  let s := (s.sat Reg.EvrGlobal.LOOPCNT 0 1).wr Reg.EvrGlobal.LOOPCH 0 t.chan
  (if t.src < 512 then s.wr Reg.EvrGlobal.LOOPSRC 0 t.src else s).evt 0x13 t.chan 0x43

/-- A token meets its channel: it passes the gate with the k tokens that merge with it, and goes to the enabled inputs of the
fork (R580 to R583). -/
def passChannel (c k : Nat) (t : Token) (s : State) : State :=
  if !s.on Reg.EvrChan.EN c || (forkOf s c).isEmpty then s
  else if !gateOpen s c then s.sat Reg.EvrChan.GATECNT c 1
  else
    let m := takeMerged c k t.hop s.tokens
    let s := { s with tokens := m.2.2 }
    let s := ((s.sat Reg.EvrChan.MRGCNT c m.2.1).wrap Reg.EvrChan.TOKCNT c 1).evt 0x13 c 0x40
    { s with evr := { s.evr with arrivals := s.evr.arrivals ++ ((forkOf s c).filter fun t => s.on Reg.EvrTask.EN t).map fun t => (t, m.1) } }

/-- CHANNEL_TOKEN: the next token of channel c, with the k following ones that arrive while it passes. -/
def execChannelToken (c k : Nat) (s : State) : Out :=
  within c 128 <|
    match s.tokens.find? fun t => t.chan == c with
    | none => ok s
    | some t =>
      let s := { s with tokens := s.tokens.erase t }
      ok (if 7 ≤ t.hop then loopDrop t s else passChannel c k t s)

/-! ### Task inputs (R586 to R588, R592) -/

/-- A token has an effect at task input t (R586, R592). -/
def inputActs (s : State) (t : Nat) : Bool :=
  if s.power.ember then t == 129
  else if t < 32 then s.on Reg.TesHead.RUNNING t && s.rd Reg.TesHead.TSRC t == 2
  else if t < 96 then (handlerAt s t).isSome
  else t == 128

/-- The consumer keeps a token that arrives during busy: handlers and the wake (Table 19-3). -/
def keepsToken (t : Nat) : Bool := inRange t 32 95 || t == 129

/-- The hop count of the activation that forms at a task input takes a token's into account (R589). -/
def joinHop (t hop : Nat) (s : State) : State :=
  { s with evr := { s.evr with hops := Tbl.set (fun _ => 0) s.evr.hops t (max hop (Tbl.get (fun _ => 0) s.evr.hops t)) } }

/-- A token overruns a busy input; a TES input drops it as an early cause (Table 19-3, R207). -/
def overrun (t : Nat) (s : State) : State :=
  let s := ((s.wr Reg.EvrTask.OVR t 1).sat Reg.EvrTask.OVRCNT t 1).evt 0x13 t 0x42
  if t < 32 then (s.setTes t { s.tesOf t with skipped := true }).sat Reg.TesHead.SKIPCNT t 1 else s

/-- A token of hop count `hop` arrives at task input t (Table 19-4). -/
def arriveToken (t hop : Nat) (s : State) : State :=
  match s.rd Reg.EvrTask.TSTATE t with
  | 0 => joinHop t hop (s.wr Reg.EvrTask.TSTATE t 1)
  | 1 => joinHop t hop ((s.sat Reg.EvrTask.COALCNT t 1).evt 0x13 t 0x41)
  | 2 => if keepsToken t then joinHop t hop ((overrun t s).wr Reg.EvrTask.TSTATE t 3) else overrun t s
  | _ => joinHop t hop (overrun t s)

/-- TASK_INPUT_TOKEN: the next token delivered to task input t. -/
def execTaskInputToken (t : Nat) (s : State) : Out :=
  within t 256 <|
    match s.evr.arrivals.find? fun a => a.1 == t with
    | none => ok s
    | some a =>
      let s := { s with evr := { s.evr with arrivals := s.evr.arrivals.erase a } }
      ok (if !s.on Reg.EvrTask.EN t then s else if inputActs s t then arriveToken t a.2 s else s.sat Reg.EvrTask.DROPCNT t 1)

/-! ### Activations (R265, R587) -/

/-- An activation of input t begins: BUSY, LHOP, ACTCNT. -/
def beginActivation (t : Nat) (s : State) : State :=
  let h := Tbl.get (fun _ => 0) s.evr.hops t
  let s := (s.wrAll t [(Reg.EvrTask.TSTATE, 2), (Reg.EvrTask.LHOP, h)]).wrap Reg.EvrTask.ACTCNT t 1
  { s with evr := { s.evr with hops := Tbl.erase s.evr.hops t } }

/-- The handler of task input t is the next to run: the sequencer can start one, and no lower input's is ready (R265). -/
def handlerTurn (s : State) (t : Nat) : Bool :=
  seqIdle s && handlerReady s t && (List.range (t - 32)).all fun k => !handlerReady s (32 + k)

/-- Long operations of earlier handlers are no business of the one that starts. -/
def detachLongs (ls : List LongOp) : List LongOp :=
  (ls.filter fun l => !(l.cseq == 0 && l.done.isSome)).map fun l => if l.cseq = 0 then { l with cseq := 2 ^ 32 } else l

/-- The handler of task input t starts at its instruction index, with an empty context (R265). -/
def startHandler (t hop : Nat) (s : State) : State :=
  let c := activeCore s
  let s := s.setProc c { s.proc c with pc := (handlerAt s t).getD 0, pfx := none, latRaw := none, latPt := none }
  { s with seq := { s.seq with cur := some (.handler t hop), base := s.power.load, codeLen := s.power.length / 8, xat := {}, xk := 0, xlog := [],
                               longs := detachLongs s.seq.longs } }.evt 0 (2 * s.rd Reg.SeqLease.LEASEPAIR 0) 0x42

/-- ACTIVATION_START: the consumer of task input t is ready and starts the pending activation. -/
def execActivationStart (t : Nat) (s : State) : Out :=
  within t 256 <|
    let hop := Tbl.get (fun _ => 0) s.evr.hops t
    if s.rd Reg.EvrTask.TSTATE t ≠ 1 then ok s
    else if t = 129 then ok (serveWake s)
    else if s.power.ember then ok s
    else if t < 32 then ok (causeTrigger t (hop + 1) (beginActivation t s))
    else if t = 128 then ok (askSnapshot none (beginActivation t s))
    else if handlerTurn s t then ok (startHandler t hop (beginActivation t s))
    else ok s

/-- The work of an activation of input t has ended (Table 19-3). -/
def workEnded (s : State) (t : Nat) : Bool :=
  if t < 32 then
    match (s.tesOf t).last with
    | some l => !s.on Reg.TesHead.RUNNING t || decide (l + tminTicks s t ≤ s.raw)
    | none => true
  else if t < 96 then (match s.seq.cur with | some (.handler k _) => k != t | _ => true)
  else if t = 128 then s.snap.isNone
  else true

/-- ACTIVATION_END: BUSY becomes IDLE, or PENDING when an activation is queued. -/
def execActivationEnd (t : Nat) (s : State) : Out :=
  within t 256 <|
    let st := s.rd Reg.EvrTask.TSTATE t
    if st < 2 ∨ !workEnded s t then ok s else ok (s.wr Reg.EvrTask.TSTATE t (if st = 3 then 1 else 0))

/-! ### Counters and causes (R593) -/

/-- Counters of a channel. -/
def evrChanCnt (c : Nat) (s : State) : State := s.clr c [Reg.EvrChan.TOKCNT, Reg.EvrChan.GATECNT, Reg.EvrChan.MRGCNT]

/-- Counters of a task input. -/
def evrTaskCnt (t : Nat) (s : State) : State :=
  s.clr t [Reg.EvrTask.COALCNT, Reg.EvrTask.OVRCNT, Reg.EvrTask.ACTCNT, Reg.EvrTask.DROPCNT]

/-- LOOPCNT. -/
def evrCnt (s : State) : State := s.clr 0 [Reg.EvrGlobal.LOOPCNT]

/-- EVR.EVCLR: bit 0 clears OVR. -/
def evrEvOne (arg t : Nat) (s : State) : State := if arg.testBit 0 then s.wr Reg.EvrTask.OVR t 0 else s

end Sys2Proof.Machine
end

