-- ==== Sys2Proof/Machine/Sump.lean ====
section
/-!
DEFINITION. The Sump's commands: a note arrives, a span closes, a span or a totaliser is delivered (R48 to R57).
-/
namespace Sys2Proof.Machine

/-- A source of Table 1-8. -/
def noteSource (src : Nat) : Bool := decide (src < 0x38) || inRange src 0x40 0x4F

/-- SUMP_NOTE_RECEIVE: a packet of four tag words arrives on the Sump path. A note for n rows merges into a span, or takes an
entry (R48, R52, R53); a packet of a reserved KIND is discarded and counted (R23), and one of another KIND is no note. -/
def execSumpNoteReceive (a b c d : Word) (n : Nat) (s : State) : Out :=
  let m := SumpNote.ofWords a b c d
  if kindReserved m.tag.kind then ok (s.discard 9)
  else if !noteSource m.src then .fault .noInstance
  else if n = 0 ∨ m.tag.kind ≠ 15 then ok s
  else ok (s.takeNote m n)

/-- SUMP_SPAN_CLOSE: no note has merged into the span for SUMP_CLOSE, or its ROWS is full (R55). -/
def execSumpSpanClose (n : Nat) (s : State) : Out :=
  within n 4096 <|
    let e := s.span n
    if e.valid then ok (s.setSpan n { e with closed := true }) else ok s

/-- HIF takes a completion entry of kind 2 or 3: the ring has room and no entry waits before it (R55, R486, R487). -/
def hifTakes (s : State) : Bool := ccRoom s && s.hif.entries.isEmpty

/-- The entry of kind 2 or 3 of Table 15-4. -/
def dmaStallEntry (kind src rows tspans : Nat) (s : State) : List Word :=
  [fld kind 8 24, BitVec.ofNat 64 tspans, fld src 7 56 ||| fld 0x30 8 48 ||| fld rows 40 0, BitVec.ofNat 64 s.pt]

/-- HIF takes a closed span of a DMA channel (R55, R467, R486). -/
def hifTakesSpan (n : Nat) (s : State) : State :=
  let e := s.span n
  if hifTakes s then dropSpan n (putCompletion (dmaStallEntry 2 e.src e.rows 0 s) s) else s

/-- HIF takes the totaliser of DMA channels (R56, R486). -/
def hifTakesTotal (s : State) : State :=
  if hifTakes s then
    clearTotal 0x30 (putCompletion (dmaStallEntry 3 0x7F (s.rd2 Reg.Ledger.TROWS 0 0x30) (s.rd2 Reg.Ledger.TSPANS 0 0x30) s) s)
  else s

/-- SUMP_SPAN_DELIVER: a closed span goes to its destination when that accepts it (R55, Table 1-9). -/
def execSumpSpanDeliver (n : Nat) (s : State) : Out :=
  within n 4096 <|
    let e := s.span n
    if !e.valid || !e.closed then ok s
    else if ledgerKind e.skind then ok (dlgTakesSpan n s)
    else if e.skind = 0x20 then ok (ovsTakesSpan n s)
    else if e.skind = 0x30 then ok (hifTakesSpan n s)
    else ok s

/-- TOTALISER_REPORT: the totaliser of a kind is reported to the destination of that kind (R56). -/
def execTotaliserReport (k : Nat) (s : State) : Out :=
  within k 256 <|
    if s.rd2 Reg.Ledger.TSPANS 0 k = 0 then ok s
    else if ledgerKind k then ok (dlgTakesTotal k s)
    else if k = 0x20 then ok (ovsTakesTotal s)
    else if k = 0x30 then ok (hifTakesTotal s)
    else ok s

end Sys2Proof.Machine
end

