-- ==== Sys2Proof/Machine/TwoWire.lean ====
section
/-!
DEFINITION. The two-wire ports: transactions of the controller ports, the regulator, and the target ports' registers and
debug window (R594 to R607).
-/
namespace Sys2Proof.Machine

/-! ### Causes and tokens (R606) -/

/-- A bit of TWCAUSE is set; where TEVEN enables it, source 492 + p emits. -/
def twCause (p k : Nat) (s : State) : State :=
  let s := s.wr Reg.TwpPort.TWCAUSE p (s.rd Reg.TwpPort.TWCAUSE p ||| 2 ^ k)
  if (s.rd Reg.TwpPort.TEVEN p).testBit k then s.emit (492 + p) else s

/-- STUCK of a port is set (R598). -/
def stuck (s : State) (p : Nat) : Bool := (s.rd Reg.TwpPort.TWCAUSE p).testBit 2

/-- A recovery has failed: cause STUCK and its count (R598). -/
def recoveryFails (p : Nat) (s : State) : State := twCause p 2 (s.sat Reg.TwpPort.STUCKCNT p 1)

/-! ### Ends of transactions (Table 19-8, R599, R601) -/

/-- The status of TWP.XFER for a result. -/
def resStatus (res : Nat) : Nat := if res = 4 then stBUSY else if res = 5 ∨ res = 6 then stSTUCK else stOK

/-- The regulator has failed: cause VREGFAIL, and the loop retries (R559). -/
def regFails (s : State) : State := { s with power := { s.power with vregBad := true } }.wr Reg.Pba.VREGFAIL 0 1

/-- VOUT_MODE in the linear format gives the exponent N (R601). -/
def voutExponent (m : Nat) : Option Int := if m / 32 % 8 = 0 then some (signed 5 (m % 32)) else none

/-- The word of VOUT_COMMAND for a core voltage in mV: round(VCORE ÷ 2^N), 16 bits (R601; ties as in log entry 13). -/
def voutWord (n : Int) (mv : Nat) : Nat :=
  (if n < 0 then (2 * mv * 2 ^ n.natAbs + 1000) / 2000 else (2 * mv + 1000 * 2 ^ n.natAbs) / (2000 * 2 ^ n.natAbs)) % 65536

/-- The bytes that a transaction writes: those of its payload, or a PMBus command and its data, low byte first (R599, R601). -/
def txBytes (s : State) : TwKind → List Byte
  | .xfer _ ws => (wordsBytes ((ws.drop 1).take 4)).take (bits (ws.getD 0 0) 15 8)
  | .voutMode => [0x20]
  | .voutCommand mv => 0x21 :: wordBytes 2 (BitVec.ofNat 64 (voutWord (s.power.voutN.getD 0) mv))

/-- The result of a regulator transaction. -/
def regResult (k : TwKind) (res : Nat) (data : List Byte) (s : State) : State :=
  if res ≠ 0 then regFails s
  else match k with
    | .voutMode =>
      (match voutExponent (data.headD 0).toNat with
        | some n => { s with power := { s.power with voutN := some n } }
        | none => regFails { s with power := { s.power with voutN := none } })
    | .voutCommand v => s.wr Reg.Pba.VCMD 0 v
    | .xfer _ _ => s

/-- Results of a TWP.XFER go to its payload: the bytes read where they were read to the end, and w9 (R599). -/
def writeResults (addr : Nat) (ws : List Word) (res nack losses : Nat) (data : List Byte) (s : State) : State :=
  let n := bits (ws.getD 0 0) 23 16
  let s := if res = 0 ∨ res = 3 then s.fill (addr + 40) (data.take n) else s
  s.write64 (addr + 72) (fld losses 4 16 ||| fld nack 8 8 ||| fld res 8 0)

/-- The transaction under way on controller port p ends with a result (R599, R606). -/
def endTx (p res nack : Nat) (data : List Byte) (s : State) : State :=
  match (s.twOf p).queue with
  | [] => s
  | k :: ks =>
    let losses := (s.twOf p).losses
    let s := s.setTw p { s.twOf p with queue := ks, losses := 0, lost := false, wrote := txBytes s k }
    let s := ((s.wrap Reg.TwpPort.XFERCNT p 1).evt 0x14 p 0x40).emit (488 + p)
    let s := s.sat Reg.TwpPort.NACKCNT p (b2n (res == 1 || res == 2))
    match k with
    | .xfer a ws => (writeResults a ws res nack losses data s).complete 0x14 0x02 p (resStatus res)
    | k => regResult k res data s

/-- While STUCK is set each transaction ends at once with RES STUCK (R598). -/
def drainStuck (p : Nat) : Nat → State → State
  | 0, s => s
  | n + 1, s => if stuck s p && !(s.twOf p).queue.isEmpty then drainStuck p n (endTx p 5 0 [] s) else s

/-- The same for all that wait. -/
def settleStuck (p : Nat) (s : State) : State := drainStuck p (s.twOf p).queue.length s

/-- Port p is a controller with a transaction under way. -/
def txRuns (s : State) (p : Nat) : Bool := inRange p 1 2 && !(s.twOf p).queue.isEmpty

/-! ### Operations (R599, R607) -/

/-- TWP.CFG: word 0x00 of a port block; BUSY while a transaction runs on the port. -/
def execTwpCfg (x : XWord) (s : State) : Out :=
  blockOp 0x14 0x01 4 x 0x20140000 1
    [Reg.TwpPort.SPEED, Reg.TwpPort.STRTO, Reg.TwpPort.ARBRETRY, Reg.TwpPort.PECEN, Reg.TwpPort.TEVEN]
    (fun a s => if txRuns s a.i || (s.twOf a.i).stretch then some stBUSY else none)
    (fun f _ _ => decide (f Reg.TwpPort.SPEED ≠ 3) && inRange (f Reg.TwpPort.STRTO) 1 200) (fun _ _ t => t) s

/-- TWP.XFER: a transaction on TW1 or TW2. With STUCK set it ends at once. -/
def execTwpXfer (x : XWord) (s : State) : Out :=
  xop 0x14 0x02 x (fun a s =>
    let w := a.w 0
    if !inRange a.i 1 2 || a.ws.length != 10 || !inRange (bits w 6 0) 0x08 0x77 || decide (32 < bits w 15 8 ∨ 32 < bits w 23 16) then
      .no stBOUNDS s
    else
      let s := s.setTw a.i { s.twOf a.i with queue := (s.twOf a.i).queue ++ [.xfer a.addr a.ws] }
      if stuck s a.i then .fin stSTUCK (settleStuck a.i s) else .start s) s

/-! ### Events of the controller ports (R596 to R600) -/

/-- The transaction loses arbitration: it waits for the bus, or ends after ARBRETRY losses (R597). -/
def loseArb (p : Nat) (s : State) : State :=
  let t := s.twOf p
  let n := t.losses + 1
  let s := twCause p 3 (((s.setTw p { t with losses := n, lost := true }).sat Reg.TwpPort.ARBCNT p 1).evt 0x14 p 0x41)
  if max 1 (s.rd Reg.TwpPort.ARBRETRY p) ≤ n then endTx p 4 0 [] (twCause p 4 s) else s

/-- TW_XFER_COMPLETE: the transaction under way on port p meets a result: 0 to 3 of Table 19-8, with the byte index of a
NACK and the bytes read; 4, a loss of arbitration; 5, SDA still low after recovery before its START. -/
def execTwXferComplete (p res nack : Nat) (data : List Byte) (s : State) : Out :=
  within p 4 <|
    if !txRuns s p || (s.twOf p).lost then ok s
    else if res < 4 then ok (endTx p res nack data s)
    else if res = 4 then ok (loseArb p s)
    else if res = 5 then ok (settleStuck p (recoveryFails p s))
    else ok s

/-- TW_BUS_FREE: after a lost arbitration the bus is free again and the whole transaction is repeated (R597). -/
def execTwBusFree (p : Nat) (s : State) : Out := within p 4 <| ok (s.setTw p { s.twOf p with lost := false })

/-- CONTROLLER_SCL_TIMEOUT: another device held SCL low for STRTO; the transaction ends with SCLTO, and the port recovers
when SDA is low, `low` when in vain (R596). -/
def execControllerSclTimeout (p : Nat) (low : Bool) (s : State) : Out :=
  within p 4 <|
    if !txRuns s p then ok s
    else
      let s := endTx p 6 0 [] (twCause p 1 s)
      ok (if low then settleStuck p (recoveryFails p s) else s)

/-- STUCK_RECOVERY_RETRY: a stuck port repeats recovery; SDA reads high after some pulses, or not after 9 (R598). -/
def execStuckRecoveryRetry (p pulses : Nat) (s : State) : Out :=
  within p 4 <|
    if !inRange p 1 2 || !stuck s p then ok s
    else if pulses ≤ 9 then ok (s.wr Reg.TwpPort.TWCAUSE p (s.rd Reg.TwpPort.TWCAUSE p &&& 251))
    else ok (recoveryFails p s)

/-! ### Target registers (Table 19-9) -/

/-- Debug access is open (Table 18-8). -/
def debugOpen (s : State) : Bool := [0x01, 0x02, 0x08].contains (s.rd Reg.Slc.LCSTATE 0)

/-- FLAGS of TW0. -/
def tw0Flags (s : State) : Nat :=
  b2n s.inspOk + 2 * b2n (supWarn s) + 4 * s.rd Reg.Pba.THOT 0 + 8 * s.rd Reg.Pba.POWER_HELD 0 + 16 * s.rd Reg.Slc.TAMPER 0 +
    32 * s.rd Reg.Cal.CAL_DUE 0

/-- Byte k of a number, little-endian. -/
def byteOf (n k : Nat) : Byte := BitVec.ofNat 8 (n / 2 ^ (8 * k))

/-- What a read of a target register returns; unlisted registers read 0 (R602). -/
def targetByte (s : State) (port a : Nat) : Byte :=
  if port = 0 then
    if a < 2 then byteOf 0x0256 a
    else if a = 2 then 0xA3
    else if a = 3 then BitVec.ofNat 8 (if s.power.ember then 5 else devState s)
    else if a = 4 then BitVec.ofNat 8 (tw0Flags s)
    else if a < 7 then byteOf (low 16 (tjMax s)) (a - 5)
    else if a = 7 then BitVec.ofNat 8 (s.rd Reg.Pba.RSTCAUSE 0)
    else if inRange a 0x20 0x23 then byteOf (s.rd Reg.Tw0.MBOX 0) (a - 0x20)
    else 0
  else
    if a = 0 then BitVec.ofNat 8 (s.rd Reg.Slc.LCSTATE 0)
    else if a = 1 then BitVec.ofNat 8 (s.rd Reg.Slc.KPHASE 0)
    else if a = 2 then BitVec.ofNat 8 (s.rd Reg.Slc.KERR 0)
    else if a = 3 then BitVec.ofNat 8 (b2n (debugOpen s))
    else if inRange a 0x10 0x15 then byteOf (s.rd Reg.Tw3.DADDR 0) (a - 0x10)
    else if a = 0x16 then BitVec.ofNat 8 (s.rd Reg.Tw3.DCMD 0)
    else if a = 0x17 then BitVec.ofNat 8 (s.rd Reg.Tw3.DSTAT 0)
    else if inRange a 0x18 0x1F then byteOf (s.rd Reg.Tw3.DDATA 0) (a - 0x18)
    else 0

/-- A register value with byte k replaced. -/
def putByte (n k : Nat) (b : Byte) : Nat := n - n / 2 ^ (8 * k) % 256 * 2 ^ (8 * k) + b.toNat * 2 ^ (8 * k)

/-- A write of one byte to a target register; unlisted registers ignore it. -/
def writeTarget (port a : Nat) (b : Byte) (s : State) : State :=
  if port = 0 then
    if inRange a 0x20 0x23 then
      let v := putByte (s.rd Reg.Tw0.MBOX 0) (a - 0x20) b
      (s.wr Reg.Tw0.MBOX 0 v).wr Reg.TwpPort.MBOX 0 v
    else s
  else if inRange a 0x10 0x15 then s.wr Reg.Tw3.DADDR 0 (putByte (s.rd Reg.Tw3.DADDR 0) (a - 0x10) b)
  else if a = 0x16 then s.wr Reg.Tw3.DCMD 0 b.toNat
  else if inRange a 0x18 0x1F then s.wr Reg.Tw3.DDATA 0 (putByte (s.rd Reg.Tw3.DDATA 0) (a - 0x18) b)
  else s

/-- The registers that n bytes from a pointer reach: the pointer wraps at 0x3F. -/
def pointers (ptr n : Nat) : List Nat := (List.range n).map fun k => (ptr + k) % 0x40

/-- Bytes of a write transaction, taken at its STOP (R596, R602). -/
def writeTargets (port ptr : Nat) (bs : List Byte) (s : State) : State :=
  let s := ((pointers ptr bs.length).zip bs).foldl (fun s e => writeTarget port e.1 e.2 s) s
  s.setTw port { s.twOf port with ptr := (ptr + bs.length) % 0x40 }

/-- The addresses that debug writes reach: shared banks and DRAM (R603). -/
def debugWrites (s : State) (a : Nat) : Bool := s.inBanksOn a 8 || s.inDram a 8

/-- The debug window acts on DCMD at the STOP: a read or write of 8 bytes, and DSTAT (R603). -/
def debugCmd (s : State) : State :=
  let a := s.rd Reg.Tw3.DADDR 0
  let c := s.rd Reg.Tw3.DCMD 0
  let stat := fun (n : Nat) (s : State) => s.wr Reg.Tw3.DSTAT 0 n
  if !debugOpen s then stat 2 s
  else if s.power.ember then stat 3 s
  else if c = 1 then
    (if inRange a 0x30000000 0x3003FFFF then stat 1 s
     else match load s 72 a 8 8 with
      | .ok v => stat 0 (s.wr Reg.Tw3.DDATA 0 v)
      | .error _ => stat 1 s)
  else if c = 2 then
    (if debugWrites s a && a % 8 == 0 then stat 0 (s.put a (wordBytes 8 (BitVec.ofNat 64 (s.rd Reg.Tw3.DDATA 0)))) else stat 1 s)
  else s

/-- A transaction on a target port has completed. -/
def targetDone (p : Nat) (s : State) : State := (s.wrap Reg.TwpPort.XFERCNT p 1).evt 0x14 p 0x40

/-- A write transaction on TW0: it waits out a wake (R604), and one that includes MBOX byte 0x23 emits source 488. -/
def writeTw0 (ptr : Nat) (bs : List Byte) (s : State) : State :=
  let s := targetDone 0 (writeTargets 0 (ptr % 0x40) bs s)
  if (pointers ptr bs.length).contains 0x23 then s.emit 488 else s

/-- A write transaction on TW3: not acknowledged right after a wake (R605), else it emits source 491 and acts on DCMD. -/
def writeTw3 (ptr : Nat) (bs : List Byte) (s : State) : State :=
  if (s.twOf 3).mute then twCause 3 5 (s.setTw 3 { s.twOf 3 with mute := false })
  else
    let s := (targetDone 3 (writeTargets 3 (ptr % 0x40) bs s)).emit 491
    if (pointers ptr bs.length).contains 0x16 then debugCmd s else s

/-- An address match on TW0 in Ember wakes the device, and TW0 stretches SCL (R604). -/
def matchTw0 (s : State) : State :=
  if s.power.ember then beginWake (s.setTw 0 { s.twOf 0 with stretch := true }) else s

/-- A write transaction on a target port. -/
def targetWrite (port ptr : Nat) (bs : List Byte) (s : State) : State :=
  if port = 0 then if s.power.ember then matchTw0 s else if (s.twOf 0).stretch then s else writeTw0 ptr bs s
  else writeTw3 ptr bs s

/-- MBOX_WRITE: a write transaction on TW0 from a pointer. -/
def execMboxWrite (ptr : Nat) (bs : List Byte) (s : State) : Out := ok (targetWrite 0 ptr bs s)

/-- TW_TARGET_WRITE: a write transaction on TW0 or TW3. -/
def execTwTargetWrite (port ptr : Nat) (bs : List Byte) (s : State) : Out :=
  if port = 0 ∨ port = 3 then ok (targetWrite port ptr bs s) else .fault .noInstance

/-- TW3_DCMD: a write transaction on TW3 that reaches DCMD. -/
def execTw3Dcmd (ptr : Nat) (bs : List Byte) (s : State) : Out := ok (targetWrite 3 ptr bs s)

/-- TW0_WAKE_MATCH. -/
def execTw0WakeMatch (s : State) : Out := ok (matchTw0 s)

/-- TARGET_STRETCH_TIMEOUT: a target's stretch has reached STRTO; it releases the bus (R596). -/
def execTargetStretchTimeout (p : Nat) (s : State) : Out :=
  within p 4 <|
    if !(s.twOf p).stretch then ok s
    else ok (twCause p 0 (((s.setTw p { s.twOf p with stretch := false }).sat Reg.TwpPort.STRTOCNT p 1).evt 0x14 p 0x42))

/-! ### Counters and causes (R607) -/

/-- Counters of a port. -/
def twpCntOne (p : Nat) (s : State) : State :=
  s.clr p [Reg.TwpPort.XFERCNT, Reg.TwpPort.ARBCNT, Reg.TwpPort.STRTOCNT, Reg.TwpPort.STUCKCNT, Reg.TwpPort.NACKCNT]

/-- TWCAUSE bits of a port. -/
def twpEvOne (arg p : Nat) (s : State) : State :=
  s.wr Reg.TwpPort.TWCAUSE p (s.rd Reg.TwpPort.TWCAUSE p &&& (255 - arg % 256))

end Sys2Proof.Machine
end

