-- ==== Sys2Proof/Machine/Pmu.lean ====
section
/-!
DEFINITION. Performance counters, snapshots and samplers (R270 to R274), and the operations CNTCLR and EVCLR of every unit
(R304).
-/
namespace Sys2Proof.Machine

/-! ### Counters and snapshots (R270 to R272) -/

/-- PMU.CNTSET: COUNT of a counter in w0, its selection in w1. -/
def execPmuCntset (x : XWord) (s : State) : Out :=
  direct 0x17 0x01 1024 x (fun a s =>
    .ok (setFrom a a.i [(0, Reg.Pmu.COUNT), (1, Reg.Pmu.EN), (1, Reg.Pmu.CHAIN), (1, Reg.Pmu.UNIT), (1, Reg.Pmu.INST), (1, Reg.Pmu.EVT)] s)) s

/-- PMU.SNAP: a local snapshot, or with ARG[0] 1, on the master, one of the fabric 100 µs from now; elsewhere BUSY (R272,
R518). -/
def snapOp (a : XArgs) (s : State) : XRes :=
  if a.arg % 2 = 0 then .fin stOK (askSnapshot none s)
  else if !isMaster s then .no stBUSY s
  else .fin stOK (askSnapshot (some (s.pt + 1600000)) (sendOn (belowPorts s) (.snapshot (s.rd Reg.Wlk.TERM 0) (s.pt + 1600000)) s))

/-- PMU.SNAP with ARG[0] 0. -/
def execPmuSnap (x : XWord) (s : State) : Out := xop 0x17 0x02 x snapOp s

/-- PMU.SNAP with ARG[0] 1. -/
def execPmuSnapFabric (x : XWord) (s : State) : Out := xop 0x17 0x02 x (fun a s => snapOp a s) s

/-- Every SNAPVAL takes the COUNT that a snapshot has captured. -/
def copyCounts (cs : Tbl Word) (s : State) : State :=
  let r := s.regs.filter fun e => !decide (0x20174000 ≤ e.1 ∧ e.1 < 0x20176000)
  cs.foldl (fun s e => s.wr Reg.Pmu.SNAPVAL ((e.1 - 0x20170000) / 8) (Reg.Pmu.COUNT.get 0 e.2)) { s with regs := r }

/-- SNAPSHOT_TAKE: a snapshot whose Tsnap has been reached is written: the counts, the epoch and the times of Tsnap (R272). -/
def execSnapshotTake (s : State) : Out :=
  match s.snap.bind (·.got) with
  | none => ok s
  | some c =>
    let s := copyCounts c.counts { s with snap := none }
    ok ((s.wrAll 0 [(Reg.Pmu.SVALID, 1), (Reg.Pmu.SEPOCH, c.epoch), (Reg.Pmu.SRAW, c.raw), (Reg.Pmu.STIME, c.pt)]).wrap Reg.Pmu.SSEQ 0 1)

/-! ### Samplers (R273) -/

/-- PMU.SAMPCFG: words 0x00 to 0x0F of a sampler, which is armed anew. -/
def execPmuSampcfg (x : XWord) (s : State) : Out :=
  blockOp 0x17 0x03 76 x 0x20177000 2 [Reg.Pmu.SEN, Reg.Pmu.SWRAP, Reg.Pmu.SBASE, Reg.Pmu.SPERIOD] (fun _ _ => none)
    (fun f _ _ => f Reg.Pmu.SBASE % 32 == 0 && f Reg.Pmu.SPERIOD != 0)
    (fun i _ t => ({ t with sampled := Tbl.erase t.sampled i }.sat Reg.Pmu.SDROP i
      (Tbl.get (fun _ => ({} : Sampler)) t.sampled i).drops).wrAll i [(Reg.Pmu.SWPTR, 0), (Reg.Pmu.SFULL, 0)]) s

/-- The four words of a sample (Table 7-13). -/
def sampleWords (k stall lat : Nat) (m : Sample) : List Word :=
  [fld (if k < 72 then k else 0x80 + (k - 72)) 8 56 ||| fld stall 8 48 ||| fld m.iaddr 48 0, m.iword, m.run,
   fld (min lat (2 ^ 32 - 1)) 32 32 ||| fld m.raw 32 0]

/-- SAMPLE_RECORD: the sample that waits, of that instruction, is written, with the dominant stall cause and the latency of its instruction. With the ring
full, or out of reach, it is dropped; SDROP counts the samples that came due while it waited with it (R273, log entry 149). -/
def execSampleRecord (k stall iaddr : Nat) (iword : Word) (lat : Nat) (s : State) : Out :=
  within k 76 <|
    let c := Tbl.get (fun _ => ({} : Sampler)) s.sampled k
    match c.pend with
    | none => ok s
    | some m =>
      if m.iaddr ≠ iaddr ∨ m.iword ≠ iword then ok s else
      let s := ({ s with sampled := Tbl.set (fun _ => {}) s.sampled k { c with pend := none, drops := 0 } } : State)
      let s := s.sat Reg.Pmu.SDROP k c.drops
      let p := s.rd Reg.Pmu.SWPTR k
      let a := s.rd Reg.Pmu.SBASE k + 32 * p
      if s.on Reg.Pmu.SFULL k || !(s.inBanksOn a 32 || s.inDram a 32) then ok (s.sat Reg.Pmu.SDROP k 1)
      else
        let s := ((s.put a (wordsBytes (sampleWords k stall lat m))).wrap Reg.Pmu.SCNT k 1).evt 0x17 k 0x40
        let s := s.wr Reg.Pmu.SWPTR k (p + 1)
        ok (if p == 4095 && !s.on Reg.Pmu.SWRAP k then s.wr Reg.Pmu.SFULL k 1 else s)

/-! ### CNTCLR and EVCLR (R304) -/

/-- Counters of a lane. -/
def slaCntOne (n : Nat) (s : State) : State :=
  s.clr n [Reg.Lane.SHDRERR, Reg.Lane.LOCKLOSS, Reg.Lane.EQBCNT, Reg.Lane.SKIPDEL, Reg.Lane.SKIPINS, Reg.Lane.PRBSBITS, Reg.Lane.PRBSERRS]

/-- Causes of a lane. -/
def slaEvOne (arg n : Nat) (s : State) : State := s.wr Reg.Lane.EVCAUSE n (s.rd Reg.Lane.EVCAUSE n &&& (65535 - arg % 65536))

/-- Counters of a WLK port. -/
def wlkCntOne (p : Nat) (s : State) : State := s.clr p [Reg.WlkPort.RXPKT, Reg.WlkPort.TXPKT, Reg.WlkPort.DOWNCNT]

/-- Counters of WLK as a whole. -/
def wlkCnt (s : State) : State :=
  s.clr 0 [Reg.Wlk.CUTSLIPCNT, Reg.Wlk.CUTORPHCNT, Reg.Wlk.CUTREFCNT, Reg.Wlk.LEASECHGCNT, Reg.Wlk.TTLCNT, Reg.Wlk.NOROUTECNT,
    Reg.Wlk.FWDRETXCNT, Reg.Wlk.FOOOCNT]

/-- Counters of a head that belong to no logical row processor (R337). -/
def rpaStatCnt (h : Nat) (s : State) : State :=
  (s.clr h [Reg.RpaStat.SBLOCKS, Reg.RpaStat.STATSDROP]).clrRow Reg.RpaStat.HOLDCNT h 16

/-- Counters of a PMU counter and of a sampler. -/
def pmuCntOne (n : Nat) (s : State) : State :=
  let s := s.wr Reg.Pmu.COUNT n 0
  if n < 76 then s.clr n [Reg.Pmu.SDROP, Reg.Pmu.SCNT] else s

/-- Instances that a unit's CNTCLR and EVCLR take; beyond them the operation is out of bounds. -/
def unitInstances (unit : Nat) : Nat :=
  [1, 256, 32, 33, 32, 72, 16, 16, 16, 16, 32, 1, 8, 8, 16, 128, 1, 4, 1, 256, 4, 7, 1, 1024, 1].getD unit 0

/-- An instance of a unit's CNTCLR (R201, R304). -/
def unitHas (unit i : Nat) : Bool := if unit = 3 then pfuInst i else decide (i < unitInstances unit)

/-- Clear the counters of one instance of a unit. -/
def clearOne (unit i : Nat) (s : State) : State :=
  match unit with
  | 0x00 => seqCnt s
  | 0x01 => slaCntOne i s
  | 0x02 => hauCntOne i s
  | 0x03 => pfuCntOne i s
  | 0x04 => tesCntOne i s
  | 0x05 => rpaUnitCnt i (if i < 64 then rpaCntOne i s else s)
  | 0x06 => sstCntOne i s
  | 0x07 => rtkCntOne i s
  | 0x08 => rclCntOne i s
  | 0x09 => markerCntOne i s
  | 0x0A => hisCntOne i s
  | 0x0B => cmpCnt s
  | 0x0C => ovsCntOne i s
  | 0x0D => dmcCntOne i s
  | 0x0E => dmaCntOne i s
  | 0x0F => memCntOne i s
  | 0x10 => hifCnt s
  | 0x11 => wlkCntOne i s
  | 0x12 => s.clr 0 [Reg.Tnt.STEPCNT, Reg.Tnt.SYNCLOSSCNT]
  | 0x13 => evrTaskCnt i (if i < 128 then evrChanCnt i s else s)
  | 0x14 => twpCntOne i s
  | 0x15 => pbaCntOne i s
  | 0x16 => calCnt s
  | 0x17 => pmuCntOne i s
  | 0x18 => slcCnt s
  | _ => s

/-- Clear the counters of a unit that belong to none of its instances; instance 0xFFFF alone does (R337). -/
def clearGlobal (unit : Nat) (s : State) : State :=
  match unit with
  | 0x04 => s.clr 0 [Reg.Cut.CUTCNT, Reg.Cut.CUTLATECNT]
  | 0x05 => (List.range 32).foldl (fun s h => rpaStatCnt h s) (rpaDepCnt (s.clr 0 [Reg.RpaGlobal.NOENTCNT]))
  | 0x09 => dlgCntGlobal s
  | 0x11 => wlkCnt s
  | 0x13 => evrCnt s
  | 0x15 => pbaCnt s
  | _ => s

/-- Clear cause bits of one instance of a unit. -/
def clearCauses (unit arg i : Nat) (s : State) : State :=
  match unit with
  | 0x01 => slaEvOne arg i s
  | 0x03 => pfuEvOne arg i s
  | 0x04 => tesEvOne arg i s
  | 0x09 => markerEvOne arg i s
  | 0x0E => dmaEvOne arg i s
  | 0x11 => if i = 0 then s.wr Reg.Wlk.WCAUSE 0 (s.rd Reg.Wlk.WCAUSE 0 &&& (255 - arg % 256)) else s
  | 0x13 => evrEvOne arg i s
  | 0x14 => twpEvOne arg i s
  | 0x15 => if i = 0 ∧ arg.testBit 7 then s.wr Reg.Pba.VREGFAIL 0 0 else s
  | _ => s

/-- Units with cause bits. -/
def hasCauses (unit : Nat) : Bool := [0x01, 0x03, 0x04, 0x09, 0x0E, 0x11, 0x13, 0x14, 0x15].contains unit

/-- CNTCLR or EVCLR of a unit: `one` on an instance, or on every one and then `all` for 0xFFFF. A reserved UNIT faults
ILLEGAL (R304); WLK's operations complete with BUSY while NODE is 0 (R495). -/
def clearOp (unit op : Nat) (x : XWord) (one : Nat → Nat → State → State) (all : State → State) (acts : Bool) (s : State) : Out :=
  if 0x18 < unit then
    if !mayExecute s (activeCore s) || !leaseHeld s then ok s else ok (seqFault (activeCore s) pfILLEGAL s)
  else
    xop unit op x (fun a s =>
      if unit = 0x11 ∧ s.rd Reg.Wlk.NODE 0 = 0 then .no stBUSY s
      else if !acts then .fin stOK s
      else if a.i = 0xFFFF then .fin stOK (all (((List.range (unitInstances unit)).filter (unitHas unit)).foldl (fun s i => one a.arg i s) s))
      else if unitHas unit a.i then .fin stOK (one a.arg a.i s)
      else .no stBOUNDS s) s

/-- CNTCLR: clears the counters of an instance of a unit, or of all. -/
def execCntclr (unit : Nat) (x : XWord) (s : State) : Out := clearOp unit 0xF0 x (fun _ i s => clearOne unit i s) (clearGlobal unit) true s

/-- EVCLR: clears the cause bits that ARG names in an instance of a unit, or in all. -/
def execEvclr (unit : Nat) (x : XWord) (s : State) : Out :=
  clearOp unit 0xF1 x (fun arg i s => clearCauses unit arg i s) id (hasCauses unit) s

end Sys2Proof.Machine
end

