-- ==== Sys2Proof/Machine/Vector.lean ====
section
/-!
DEFINITION. The meanings of the V-class instructions (R294 to R298, Table 8-7).
-/
namespace Sys2Proof.Machine

/-- TYPE of a V-class word (Table 8-2). -/
def ty (w : IWord) : Nat := w.md / 4 % 4

/-- SAT of a V-class word. -/
def vsat (w : IWord) : Bool := mbit w 1

/-- The form of a V-class instruction: row processors only; `tys` holds the TYPEs listed, `mask` the MOD bits used. -/
def vform (w : IWord) (mask : Nat) (tys : List Nat) (shape : Bool := true) (slots : Nat := 1) : Form :=
  { wh := .rp, mask := mask, shape := tys.contains (ty w) && shape, scalar := false, slots := slots }

/-- Every element type. -/
def allTys : List Nat := [0, 1, 2, 3]

/-- U16, S16, S32. -/
def wideTys : List Nat := [0, 1, 2]

/-- No type: TYPE must be 0. -/
def noTys : List Nat := [0]

/-- Elements of a vector that saturate, among those selected (RPA event 0x43, R286). -/
def satCount (t : Nat) (q : Pred) (f : Nat → Nat × Bool) : Nat :=
  (List.range (tyCount t)).countP fun i => q.getLsbD (tyPred t i) && (f i).2

/-- A V-class instruction that writes V(D) element by element: `f` gives an element's bits and whether it saturated,
from the processor and the element's index. -/
def velem (u : Nat) (w : IWord) (fm : Form) (f : Proc → Nat → Nat × Bool) (s : State) : Out :=
  instr u w fm
    (fun c p s =>
      let q := p.preg w.pred
      let t := ty w
      .ok ((s.setProc c (p.setV w.d (maskedElems t q (p.vreg w.d) fun i => (f p i).1))).evt 5 c 0x43 (satCount t q (f p)),
        p.pc + 1)) s

/-- An elementwise operation of two sources on exact integers, saturating or wrapping at the end (R286). -/
def vbin (mask : Nat) (tys : List Nat) (f : IWord → Int → Int → Int) (u : Nat) (w : IWord) (s : State) : Out :=
  velem u w (vform w mask tys)
    (fun p i => satElem (ty w) (mask.testBit 1 && vsat w) (f w (elem (ty w) (p.vreg w.a) i) (elem (ty w) (p.vecB w (ty w)) i))) s

/-- VADD: a + b. -/
def execVadd (u : Nat) (w : IWord) (s : State) : Out := vbin 15 allTys (fun _ a b => a + b) u w s

/-- VSUB: a − b. -/
def execVsub (u : Nat) (w : IWord) (s : State) : Out := vbin 15 allTys (fun _ a b => a - b) u w s

/-- VABSD: |a − b| as an unsigned value of the element width. -/
def execVabsd (u : Nat) (w : IWord) (s : State) : Out := vbin 13 allTys (fun _ a b => ((a - b).natAbs : Int)) u w s

/-- VMIN. -/
def execVmin (u : Nat) (w : IWord) (s : State) : Out := vbin 13 allTys (fun _ a b => min a b) u w s

/-- VMAX. -/
def execVmax (u : Nat) (w : IWord) (s : State) : Out := vbin 13 allTys (fun _ a b => max a b) u w s

/-- A bitwise operation of two sources. -/
def vbit (f : Nat → Nat → Nat) (u : Nat) (w : IWord) (s : State) : Out :=
  velem u w (vform w 1 noTys) (fun p i => (f (lane (p.vreg w.a) i) (lane (p.vecB w 0) i), false)) s

/-- VAND. -/
def execVand (u : Nat) (w : IWord) (s : State) : Out := vbit (· &&& ·) u w s

/-- VOR. -/
def execVor (u : Nat) (w : IWord) (s : State) : Out := vbit (· ||| ·) u w s

/-- VXOR. -/
def execVxor (u : Nat) (w : IWord) (s : State) : Out := vbit (· ^^^ ·) u w s

/-- VSHL: a shifted left by b mod 32; 0 at or beyond the width when SAT is 0 (the low bits of the product). -/
def execVshl (u : Nat) (w : IWord) (s : State) : Out :=
  vbin 15 wideTys (fun _ a b => a * (2 ^ (b % 32).toNat : Nat)) u w s

/-- VSHR: right shift by b mod 32, logical for U16, arithmetic for S16 and S32. -/
def execVshr (u : Nat) (w : IWord) (s : State) : Out := vbin 13 wideTys (fun _ a b => sar a (b % 32).toNat) u w s

/-- VRSHR: (a + rnd) >> b, with sh = b mod 32. -/
def execVrshr (u : Nat) (w : IWord) (s : State) : Out :=
  vbin 13 wideTys (fun _ a b => sar (a + rnd (b % 32).toNat) (b % 32).toNat) u w s

/-- VMUL: a × b. -/
def execVmul (u : Nat) (w : IWord) (s : State) : Out := vbin 15 wideTys (fun _ a b => a * b) u w s

/-- The rounded product (a × b + rnd) >> sh, sh = IMM[20:16]. -/
def mulsh (w : IWord) (a b : Int) : Int := sar (a * b + rnd (immF w 20 16)) (immF w 20 16)

/-- VMULSH: (a × b + rnd) >> sh. -/
def execVmulsh (u : Nat) (w : IWord) (s : State) : Out := vbin 15 wideTys mulsh u w s

/-- VMAC: d + ((a × b + rnd) >> sh); the limit applies to the final value only (R286). -/
def execVmac (u : Nat) (w : IWord) (s : State) : Out :=
  velem u w (vform w 15 wideTys)
    (fun p i =>
      let t := ty w
      satElem t (vsat w) (elem t (p.vreg w.d) i + mulsh w (elem t (p.vreg w.a) i) (elem t (p.vecB w t) i))) s

/-- VLERP: a + ((b − a) × w + 2^15) >> 16, w = IMM[31:16]. -/
def execVlerp (u : Nat) (w : IWord) (s : State) : Out :=
  vbin 13 [0, 1] (fun w a b => a + sar ((b - a) * (immF w 31 16 : Nat) + (2 ^ 15 : Nat)) 16) u w s

/-- A predicate from a bit function: bit c is f c for c below n. -/
def ofBits (f : Nat → Bool) : Pred := BitVec.ofNat 512 (pack 1 (fun c => b2n (f c)) 512)

/-- A compare: bit c ← PRED bit and the comparison of its element; S32 pairs write both bits, which follow the governing
bit alone (R285). -/
def vcmp (f : Int → Int → Bool) (u : Nat) (w : IWord) (s : State) : Out :=
  instr u w (vform w 13 wideTys (decide (1 ≤ w.d ∧ w.d ≤ 7)))
    (plain fun p =>
      let t := ty w
      let q := p.preg w.pred
      p.setP w.d (ofBits fun c =>
        let i := if t = 2 then c / 2 else c
        q.getLsbD (tyPred t i) && f (elem t (p.vreg w.a) i) (elem t (p.vecB w t) i))) s

/-- VCMPEQ: a = b. -/
def execVcmpeq (u : Nat) (w : IWord) (s : State) : Out := vcmp (fun a b => decide (a = b)) u w s

/-- VCMPNE: a ≠ b. -/
def execVcmpne (u : Nat) (w : IWord) (s : State) : Out := vcmp (fun a b => decide (a ≠ b)) u w s

/-- VCMPLT: a < b. -/
def execVcmplt (u : Nat) (w : IWord) (s : State) : Out := vcmp (fun a b => decide (a < b)) u w s

/-- VCMPLE: a ≤ b. -/
def execVcmple (u : Nat) (w : IWord) (s : State) : Out := vcmp (fun a b => decide (a ≤ b)) u w s

/-- VCMPGT: a > b. -/
def execVcmpgt (u : Nat) (w : IWord) (s : State) : Out := vcmp (fun a b => decide (b < a)) u w s

/-- VCMPGE: a ≥ b. -/
def execVcmpge (u : Nat) (w : IWord) (s : State) : Out := vcmp (fun a b => decide (b ≤ a)) u w s

/-- VSEL: a where P(PRED) is 1, else b; the predicate is a selector, not a write mask (R285). -/
def execVsel (u : Nat) (w : IWord) (s : State) : Out :=
  instr u w (vform w 13 allTys)
    (plain fun p => p.setV w.d (maskedElems (ty w) (p.preg w.pred) (p.vecB w (ty w)) fun i => elemBits (ty w) (p.vreg w.a) i)) s

/-- VMOV: a, or the broadcast when BS is 1. -/
def execVmov (u : Nat) (w : IWord) (s : State) : Out :=
  velem u w (vform w 13 allTys)
    (fun p i => (elemBits (ty w) (if mbit w 0 then bcast p w (ty w) else p.vreg w.a) i, false)) s

/-- VWRD: d ← W(A); PRED must be 0 (R285). -/
def execVwrd (u : Nat) (w : IWord) (s : State) : Out :=
  instr u w (vform w 0 noTys (decide (w.a < 8 ∧ w.pred = 0)))
    (plain fun p => p.setV w.d (Tbl.get (fun _ => 0) p.w w.a)) s

/-- The head's columns per strip in the run (K4 STRIPW, Table 7-3). -/
def stripCols (p : Proc) : Nat := 64 * 2 ^ bits (p.kreg 4) 31 30

/-- A halo sample: plane q, column j of the strip (−16 to −1 left, STRIPW onward right); left columns lie first
(R248). -/
def halo (s : State) (u q : Nat) (sw : Nat) (j : Int) : Nat :=
  let k := if j < 0 then (16 + j).toNat else 16 + (j.toNat - sw)
  bytesNat (s.readBytes (0x10000000 + u * 0x100000 + 0xFC000 + 0x40 * q + 2 * k) 2)

/-- One column of VCSH (R295). -/
def cshElem (s : State) (u : Nat) (p : Proc) (w : IWord) (c : Nat) : Nat :=
  let sw := stripCols p
  let sh := signed 6 (immF w 21 16)
  let j : Int := c - sh
  let x := p.vreg w.a
  if sw ≤ c then 0
  else if 0 ≤ j ∧ j < sw then lane x j.toNat
  else match immF w 23 22 with
    | 0 => 0
    | 1 => if immF w 25 24 < (p.run.getD {}).planes then halo s u (immF w 25 24) sw j else 0
    | _ => if j < 0 then lane x 0 else lane x (sw - 1)

/-- VCSH: column shift with fill (R295). -/
def execVcsh (u : Nat) (w : IWord) (s : State) : Out :=
  let sh := signed 6 (immF w 21 16)
  let m := immF w 23 22
  instr u w (vform w 0 noTys (decide (-16 ≤ sh ∧ sh ≤ 16 ∧ m ≠ 3 ∧ ¬(m = 1 ∧ immF w 25 24 = 3))))
    (fun c p s => .ok (s.setProc c (p.setV w.d (maskedElems 0 (p.preg w.pred) (p.vreg w.d) (cshElem s c p w))), p.pc + 1)) s

/-- VWIDEN: pair i ← lane i + 256 × IMM[16] of a, extended as the source type says. -/
def execVwiden (u : Nat) (w : IWord) (s : State) : Out :=
  instr u w (vform w 12 [0, 1])
    (plain fun p =>
      p.setV w.d (maskedElems 2 (p.preg w.pred) (p.vreg w.d) fun i =>
        low 32 (elem (ty w) (p.vreg w.a) (i + 256 * immF w 16 16)))) s

/-- VNARROW: lanes 0 to 255 from the pairs of a, 256 to 511 from those of b, rounded, shifted and narrowed to the
destination type. -/
def execVnarrow (u : Nat) (w : IWord) (s : State) : Out :=
  velem u w (vform w 14 [0, 1])
    (fun p i =>
      let sh := immF w 20 16
      let x := if i < 256 then elem 2 (p.vreg w.a) i else elem 2 (p.vreg w.b) (i - 256)
      satElem (ty w) (vsat w) (sar (x + rnd sh) sh)) s

/-- Table entry n of the lookup unit; T[4,096] is T[4,095] (R296). -/
def lutAt (p : Proc) (n : Nat) : Nat := (Tbl.get (fun _ => 0) p.lut (min n 4095)).toNat

/-- One element of VLUT. -/
def lutElem (p : Proc) (w : IWord) (x : Nat) : Nat :=
  let sh := immF w 19 16
  let i := x / 2 ^ sh
  if mbit w 0 then
    let f : Nat := if 4095 < i then 0 else x % 2 ^ sh
    let i := min i 4095
    low 16 ((lutAt p i : Int) + sar (((lutAt p (i + 1) : Int) - lutAt p i) * f + rnd sh) sh)
  else lutAt p (min i 4095)

/-- VLUT: table lookup, interpolated when INTERP is 1. -/
def execVlut (u : Nat) (w : IWord) (s : State) : Out :=
  velem u w (vform w 1 noTys true (if mbit w 0 then 2 else 1)) (fun p i => (lutElem p w (lane (p.vreg w.a) i), false)) s

/-- Write table entries 512k + c for the selected lanes c below n. -/
def lutWrite (p : Proc) (q : Pred) (v : Vec) (k : Nat) : Nat → Tbl (BitVec 16)
  | 0 => p.lut
  | n + 1 =>
    let t := lutWrite p q v k n
    if q.getLsbD n then Tbl.set (fun _ => 0) t (512 * k + n) (BitVec.ofNat 16 (lane v n)) else t

/-- LUTLD: table entries 512k to 512k + 511 ← lanes of a; k = IMM[18:16]. -/
def execLutld (u : Nat) (w : IWord) (s : State) : Out :=
  instr u w (vform w 0 noTys)
    (plain fun p => { p with lut := lutWrite p (p.preg w.pred) (p.vreg w.a) (immF w 18 16) 512 }) s

/-- Add the selected lanes below n to their bins, saturating at 2^32 − 1. -/
def histAdd (p : Proc) (q : Pred) (v : Vec) (sh : Nat) : Nat → Tbl (BitVec 32)
  | 0 => p.hist
  | n + 1 =>
    let t := histAdd p q v sh n
    let b := min (lane v n / 2 ^ sh) 1023
    if q.getLsbD n then Tbl.set (fun _ => 0) t b (BitVec.ofNat 32 (min ((Tbl.get (fun _ => 0) t b).toNat + 1) (2 ^ 32 - 1)))
    else t

/-- VHIST: adds 1 to bin min(x >> sh, 1,023) for each selected element (R297). -/
def execVhist (u : Nat) (w : IWord) (s : State) : Out :=
  instr u w (vform w 0 noTys true 2)
    (plain fun p => { p with hist := histAdd p (p.preg w.pred) (p.vreg w.a) (immF w 19 16) 512 }) s

/-- HRD: pair i ← bin 256k + i; k = IMM[17:16]; PRED must be 0 (R285). -/
def execHrd (u : Nat) (w : IWord) (s : State) : Out :=
  instr u w (vform w 0 noTys (decide (w.pred = 0)) 2)
    (plain fun p => p.setV w.d (ofElems 2 fun i => (Tbl.get (fun _ => 0) p.hist (256 * immF w 17 16 + i)).toNat)) s

/-- HCLR: all bins ← 0. -/
def execHclr (u : Nat) (w : IWord) (s : State) : Out :=
  instr u w (vform w 0 noTys) (plain fun p => { p with hist := [] }) s

/-- The selected elements of a vector. -/
def selected (t : Nat) (q : Pred) (v : Vec) : List Int :=
  ((List.range (tyCount t)).filter fun i => q.getLsbD (tyPred t i)).map fun i => elem t v i

/-- A reduction into S(D). -/
def vreduce (f : Nat → List Int → Int) (u : Nat) (w : IWord) (s : State) : Out :=
  instr u w (vform w 12 allTys)
    (plain fun p => p.setS w.d (BitVec.ofInt 32 (f (ty w) (selected (ty w) (p.preg w.pred) (p.vreg w.a))))) s

/-- VRSUM: sum of the selected elements, saturating to signed 32 bits. -/
def execVrsum (u : Nat) (w : IWord) (s : State) : Out :=
  vreduce (fun _ xs => clampI (-(2 ^ 31 : Nat)) ((2 ^ 31 : Nat) - 1) (xs.foldl (· + ·) 0)) u w s

/-- VRMIN: smallest selected element; the type's maximum when none is. -/
def execVrmin (u : Nat) (w : IWord) (s : State) : Out := vreduce (fun t xs => xs.foldl min (tyMax t)) u w s

/-- VRMAX: largest selected element; the type's minimum when none is. -/
def execVrmax (u : Nat) (w : IWord) (s : State) : Out := vreduce (fun t xs => xs.foldl max (tyMin t)) u w s

/-- PCNT: count of bits of P(A) AND P(PRED). -/
def execPcnt (u : Nat) (w : IWord) (s : State) : Out :=
  instr u w (vform w 0 noTys (decide (w.a < 8)))
    (plain fun p =>
      let x := p.preg w.a &&& p.preg w.pred
      p.setS w.d (BitVec.ofNat 32 ((List.range 512).countP fun c => x.getLsbD c))) s

/-- A predicate operation: bits whose PRED bit is 0 are written 0 (R285). -/
def pop (f : Pred → Pred → Pred) (u : Nat) (w : IWord) (s : State) : Out :=
  instr u w (vform w 0 noTys (decide (1 ≤ w.d ∧ w.d ≤ 7 ∧ w.a < 8 ∧ w.b < 8)))
    (plain fun p => p.setP w.d (f (p.preg w.a) (p.preg w.b) &&& p.preg w.pred)) s

/-- PAND. -/
def execPand (u : Nat) (w : IWord) (s : State) : Out := pop (· &&& ·) u w s

/-- POR. -/
def execPor (u : Nat) (w : IWord) (s : State) : Out := pop (· ||| ·) u w s

/-- PXOR. -/
def execPxor (u : Nat) (w : IWord) (s : State) : Out := pop (· ^^^ ·) u w s

/-- PANDN: a AND NOT b. -/
def execPandn (u : Nat) (w : IWord) (s : State) : Out := pop (fun a b => a &&& ~~~b) u w s

/-- VPBIT: bit IMM[19:16] of lane c ← P(A) bit c; other bits unchanged. -/
def execVpbit (u : Nat) (w : IWord) (s : State) : Out :=
  instr u w (vform w 0 noTys (decide (w.a < 8)))
    (plain fun p =>
      let n := immF w 19 16
      p.setV w.d (maskedElems 0 (p.preg w.pred) (p.vreg w.d) fun c =>
        let x := lane (p.vreg w.d) c
        if (p.preg w.a).getLsbD c then setBit x n else clearBit x n)) s

/-- VLD: load 1,024 bytes (R298). `ecc` says what line `line` of the load
meets in DRAM: 0 no error, 1 corrected, 2 uncorrectable (R458). -/
def execVld (u : Nat) (w : IWord) (ecc line : Nat) (s : State) : Out :=
  let s := loadEcc u w 1024 ecc (line % 16) s
  instr u w { vform w 0 noTys (decide (w.a < 8)) with pfx := true }
    (fun c p s =>
      match load s c (p.addr w) 1024 64 with
      | .error f => .error f
      | .ok v =>
        let x : Vec := BitVec.ofNat 8192 v
        .ok ((s.setProc c (p.setV w.d (maskedElems 0 (p.preg w.pred) (p.vreg w.d) (lane x)))).traffic false (p.addr w) 1024, p.pc + 1)) s

/-- The bytes of a vector with the selector of their lane. -/
def vecBytes (q : Pred) (v : Vec) : List (Bool × Byte) :=
  (List.range 1024).map fun k => (q.getLsbD (k / 2), (v >>> (8 * k)).setWidth 8)

/-- VST: store 1,024 bytes; lanes whose PRED bit is 0 are not written (R285, R298). -/
def execVst (u : Nat) (w : IWord) (s : State) : Out :=
  instr u w { vform w 0 noTys (decide (w.a < 8)) with pfx := true }
    (fun c p s =>
      match store s c (p.addr w) 64 (vecBytes (p.preg w.pred) (p.vreg w.b)) with
      | .error f => .error f
      | .ok t => .ok (t, p.pc + 1)) s

/-- OUT: output slot IMM[18:16] ← a, the whole vector (log entry 9); an undeclared slot is not delivered (R240). -/
def execOut (u : Nat) (w : IWord) (s : State) : Out :=
  instr u w (vform w 0 noTys)
    (plain fun p => { p with out := Tbl.set (fun _ => 0) p.out (immF w 18 16) (p.vreg w.a),
                             outP := Tbl.set (fun _ => 0) p.outP (immF w 18 16) (p.preg 7) }) s

/-- WPUSH: names the window vector (R246); PRED must be 0 (R285). -/
def execWpush (u : Nat) (w : IWord) (s : State) : Out :=
  instr u w (vform w 0 noTys (decide (w.pred = 0))) (plain fun p => { p with wpush := some w.a }) s

end Sys2Proof.Machine
end

