-- ==== Sys2Proof/Machine/Dispatch.lean ====
section
/-!
DEFINITION. The meaning of every command: one arm per constructor of `Instr`, each a direct call of the meaning.
-/
namespace Sys2Proof.Machine

def exec (i : Instr) (s : State) : Host.Outcome State Fault Refusal :=
  match i with
  | .add u w => Sys2Proof.Machine.execAdd u w s
  | .sub u w => Sys2Proof.Machine.execSub u w s
  | .and_ u w => Sys2Proof.Machine.execAnd u w s
  | .or_ u w => Sys2Proof.Machine.execOr u w s
  | .xor_ u w => Sys2Proof.Machine.execXor u w s
  | .shl u w => Sys2Proof.Machine.execShl u w s
  | .shr u w => Sys2Proof.Machine.execShr u w s
  | .sra u w => Sys2Proof.Machine.execSra u w s
  | .mul u w => Sys2Proof.Machine.execMul u w s
  | .mulh u w => Sys2Proof.Machine.execMulh u w s
  | .slt u w => Sys2Proof.Machine.execSlt u w s
  | .min_ u w => Sys2Proof.Machine.execMin u w s
  | .max_ u w => Sys2Proof.Machine.execMax u w s
  | .lda u w => Sys2Proof.Machine.execLda u w s
  | .adda u w => Sys2Proof.Machine.execAdda u w s
  | .movsa u w => Sys2Proof.Machine.execMovsa u w s
  | .movas u w => Sys2Proof.Machine.execMovas u w s
  | .ld u w ecc => Sys2Proof.Machine.execLd u w ecc s
  | .st u w => Sys2Proof.Machine.execSt u w s
  | .krd u w => Sys2Proof.Machine.execKrd u w s
  | .beq u w => Sys2Proof.Machine.execBeq u w s
  | .bne u w => Sys2Proof.Machine.execBne u w s
  | .blt u w => Sys2Proof.Machine.execBlt u w s
  | .bge u w => Sys2Proof.Machine.execBge u w s
  | .bltu u w => Sys2Proof.Machine.execBltu u w s
  | .bgeu u w => Sys2Proof.Machine.execBgeu u w s
  | .jal u w => Sys2Proof.Machine.execJal u w s
  | .jr u w => Sys2Proof.Machine.execJr u w s
  | .end_ u w => Sys2Proof.Machine.execEnd u w s
  | .evpost u w => Sys2Proof.Machine.execEvpost u w s
  | .evfire u w => Sys2Proof.Machine.execEvfire u w s
  | .rdt u w => Sys2Proof.Machine.execRdt u w s
  | .fence u w => Sys2Proof.Machine.execFence u w s
  | .xat u w => Sys2Proof.Machine.execXat u w s
  | .xstat u w => Sys2Proof.Machine.execXstat u w s
  | .xwait u w => Sys2Proof.Machine.execXwait u w s
  | .nop u w => Sys2Proof.Machine.execNop u w s
  | .pfx u w => Sys2Proof.Machine.execPfx u w s
  | .vadd u w => Sys2Proof.Machine.execVadd u w s
  | .vsub u w => Sys2Proof.Machine.execVsub u w s
  | .vabsd u w => Sys2Proof.Machine.execVabsd u w s
  | .vmin u w => Sys2Proof.Machine.execVmin u w s
  | .vmax u w => Sys2Proof.Machine.execVmax u w s
  | .vand u w => Sys2Proof.Machine.execVand u w s
  | .vor u w => Sys2Proof.Machine.execVor u w s
  | .vxor u w => Sys2Proof.Machine.execVxor u w s
  | .vshl u w => Sys2Proof.Machine.execVshl u w s
  | .vshr u w => Sys2Proof.Machine.execVshr u w s
  | .vrshr u w => Sys2Proof.Machine.execVrshr u w s
  | .vmul u w => Sys2Proof.Machine.execVmul u w s
  | .vmulsh u w => Sys2Proof.Machine.execVmulsh u w s
  | .vmac u w => Sys2Proof.Machine.execVmac u w s
  | .vlerp u w => Sys2Proof.Machine.execVlerp u w s
  | .vcmpeq u w => Sys2Proof.Machine.execVcmpeq u w s
  | .vcmpne u w => Sys2Proof.Machine.execVcmpne u w s
  | .vcmplt u w => Sys2Proof.Machine.execVcmplt u w s
  | .vcmple u w => Sys2Proof.Machine.execVcmple u w s
  | .vcmpgt u w => Sys2Proof.Machine.execVcmpgt u w s
  | .vcmpge u w => Sys2Proof.Machine.execVcmpge u w s
  | .vsel u w => Sys2Proof.Machine.execVsel u w s
  | .vmov u w => Sys2Proof.Machine.execVmov u w s
  | .vwrd u w => Sys2Proof.Machine.execVwrd u w s
  | .vcsh u w => Sys2Proof.Machine.execVcsh u w s
  | .vwiden u w => Sys2Proof.Machine.execVwiden u w s
  | .vnarrow u w => Sys2Proof.Machine.execVnarrow u w s
  | .vlut u w => Sys2Proof.Machine.execVlut u w s
  | .lutld u w => Sys2Proof.Machine.execLutld u w s
  | .vhist u w => Sys2Proof.Machine.execVhist u w s
  | .hrd u w => Sys2Proof.Machine.execHrd u w s
  | .hclr u w => Sys2Proof.Machine.execHclr u w s
  | .vrsum u w => Sys2Proof.Machine.execVrsum u w s
  | .vrmin u w => Sys2Proof.Machine.execVrmin u w s
  | .vrmax u w => Sys2Proof.Machine.execVrmax u w s
  | .pcnt u w => Sys2Proof.Machine.execPcnt u w s
  | .pand u w => Sys2Proof.Machine.execPand u w s
  | .por u w => Sys2Proof.Machine.execPor u w s
  | .pxor u w => Sys2Proof.Machine.execPxor u w s
  | .pandn u w => Sys2Proof.Machine.execPandn u w s
  | .vpbit u w => Sys2Proof.Machine.execVpbit u w s
  | .vld u w ecc line => Sys2Proof.Machine.execVld u w ecc line s
  | .vst u w => Sys2Proof.Machine.execVst u w s
  | .out u w => Sys2Proof.Machine.execOut u w s
  | .wpush u w => Sys2Proof.Machine.execWpush u w s
  | .cntclr unit x => Sys2Proof.Machine.execCntclr unit x s
  | .evclr unit x => Sys2Proof.Machine.execEvclr unit x s
  | .seqLease x => Sys2Proof.Machine.execSeqLease x s
  | .seqWdog x => Sys2Proof.Machine.execSeqWdog x s
  | .seqHandler x => Sys2Proof.Machine.execSeqHandler x s
  | .slaCfg x => Sys2Proof.Machine.execSlaCfg x s
  | .slaTxtaps x => Sys2Proof.Machine.execSlaTxtaps x s
  | .slaPower x => Sys2Proof.Machine.execSlaPower x s
  | .slaTrain x => Sys2Proof.Machine.execSlaTrain x s
  | .slaPrbs x => Sys2Proof.Machine.execSlaPrbs x s
  | .slaInject x => Sys2Proof.Machine.execSlaInject x s
  | .slaEyescan x => Sys2Proof.Machine.execSlaEyescan x s
  | .slaRefsel x => Sys2Proof.Machine.execSlaRefsel x s
  | .slaEyecfg x => Sys2Proof.Machine.execSlaEyecfg x s
  | .hauBond x => Sys2Proof.Machine.execHauBond x s
  | .hauCfg x => Sys2Proof.Machine.execHauCfg x s
  | .hauMap x => Sys2Proof.Machine.execHauMap x s
  | .hauEballoc x => Sys2Proof.Machine.execHauEballoc x s
  | .hauStart x => Sys2Proof.Machine.execHauStart x s
  | .hauStop x => Sys2Proof.Machine.execHauStop x s
  | .hauShare x => Sys2Proof.Machine.execHauShare x s
  | .hauCamreg x => Sys2Proof.Machine.execHauCamreg x s
  | .hauEslcfg x => Sys2Proof.Machine.execHauEslcfg x s
  | .pfuEnccfg x => Sys2Proof.Machine.execPfuEnccfg x s
  | .pfuSsicfg x => Sys2Proof.Machine.execPfuSsicfg x s
  | .pfuPrbcfg x => Sys2Proof.Machine.execPfuPrbcfg x s
  | .pfuPpop x => Sys2Proof.Machine.execPfuPpop x s
  | .pfuDivcfg x => Sys2Proof.Machine.execPfuDivcfg x s
  | .pfuWpcfg x => Sys2Proof.Machine.execPfuWpcfg x s
  | .pfuWpset x => Sys2Proof.Machine.execPfuWpset x s
  | .tesCfg x => Sys2Proof.Machine.execTesCfg x s
  | .tesGrid x => Sys2Proof.Machine.execTesGrid x s
  | .tesXset x => Sys2Proof.Machine.execTesXset x s
  | .tesXsel x => Sys2Proof.Machine.execTesXsel x s
  | .tesCut x => Sys2Proof.Machine.execTesCut x s
  | .tesCutFabric x => Sys2Proof.Machine.execTesCutFabric x s
  | .rpaLoad x => Sys2Proof.Machine.execRpaLoad x s
  | .rpaKset x => Sys2Proof.Machine.execRpaKset x s
  | .rpaSmwrite x => Sys2Proof.Machine.execRpaSmwrite x s
  | .rpaResume x => Sys2Proof.Machine.execRpaResume x s
  | .rpaCfg x => Sys2Proof.Machine.execRpaCfg x s
  | .sstView x => Sys2Proof.Machine.execSstView x s
  | .sstGeom x => Sys2Proof.Machine.execSstGeom x s
  | .sstSeam x => Sys2Proof.Machine.execSstSeam x s
  | .sstBlend x => Sys2Proof.Machine.execSstBlend x s
  | .sstEdge x => Sys2Proof.Machine.execSstEdge x s
  | .rtkPlane x => Sys2Proof.Machine.execRtkPlane x s
  | .rtkStraw x => Sys2Proof.Machine.execRtkStraw x s
  | .rtkFeat x => Sys2Proof.Machine.execRtkFeat x s
  | .rclModel x => Sys2Proof.Machine.execRclModel x s
  | .rclFeatmap x => Sys2Proof.Machine.execRclFeatmap x s
  | .dlgMarkcfg x => Sys2Proof.Machine.execDlgMarkcfg x s
  | .dlgMlate x => Sys2Proof.Machine.execDlgMlate x s
  | .dlgRing x => Sys2Proof.Machine.execDlgRing x s
  | .dlgSumpcfg x => Sys2Proof.Machine.execDlgSumpcfg x s
  | .hisCfg x => Sys2Proof.Machine.execHisCfg x s
  | .hisCrop x => Sys2Proof.Machine.execHisCrop x s
  | .cmpCfg x => Sys2Proof.Machine.execCmpCfg x s
  | .cmpFrame x => Sys2Proof.Machine.execCmpFrame x s
  | .ovsCfg x => Sys2Proof.Machine.execOvsCfg x s
  | .ovsCoef x => Sys2Proof.Machine.execOvsCoef x s
  | .ovsStart x => Sys2Proof.Machine.execOvsStart x s
  | .ovsStop x => Sys2Proof.Machine.execOvsStop x s
  | .dmcCfg x => Sys2Proof.Machine.execDmcCfg x s
  | .dmcTrain x => Sys2Proof.Machine.execDmcTrain x s
  | .dmcXormap x => Sys2Proof.Machine.execDmcXormap x s
  | .dmcSpare x => Sys2Proof.Machine.execDmcSpare x s
  | .dmcRetire x => Sys2Proof.Machine.execDmcRetire x s
  | .dmaLinear x => Sys2Proof.Machine.execDmaLinear x s
  | .dmaRect x => Sys2Proof.Machine.execDmaRect x s
  | .dmaGather x => Sys2Proof.Machine.execDmaGather x s
  | .dmaFill x => Sys2Proof.Machine.execDmaFill x s
  | .dmaCompare x => Sys2Proof.Machine.execDmaCompare x s
  | .dmaFence x => Sys2Proof.Machine.execDmaFence x s
  | .memMode x => Sys2Proof.Machine.execMemMode x s
  | .memPower x => Sys2Proof.Machine.execMemPower x s
  | .memRowstore x => Sys2Proof.Machine.execMemRowstore x s
  | .hifMircfg x => Sys2Proof.Machine.execHifMircfg x s
  | .wlkNode x => Sys2Proof.Machine.execWlkNode x s
  | .wlkRoute x => Sys2Proof.Machine.execWlkRoute x s
  | .wlkPort x => Sys2Proof.Machine.execWlkPort x s
  | .wlkEdge x => Sys2Proof.Machine.execWlkEdge x s
  | .wlkFwd x => Sys2Proof.Machine.execWlkFwd x s
  | .wlkLease x => Sys2Proof.Machine.execWlkLease x s
  | .tntInc x => Sys2Proof.Machine.execTntInc x s
  | .tntOffset x => Sys2Proof.Machine.execTntOffset x s
  | .tntPtp x => Sys2Proof.Machine.execTntPtp x s
  | .tntPps x => Sys2Proof.Machine.execTntPps x s
  | .evrChan x => Sys2Proof.Machine.execEvrChan x s
  | .evrTask x => Sys2Proof.Machine.execEvrTask x s
  | .evrGate x => Sys2Proof.Machine.execEvrGate x s
  | .twpCfg x => Sys2Proof.Machine.execTwpCfg x s
  | .twpXfer x => Sys2Proof.Machine.execTwpXfer x s
  | .pbaBudget x => Sys2Proof.Machine.execPbaBudget x s
  | .pbaVbounds x => Sys2Proof.Machine.execPbaVbounds x s
  | .pbaTarget x => Sys2Proof.Machine.execPbaTarget x s
  | .pbaMonitor x => Sys2Proof.Machine.execPbaMonitor x s
  | .pbaEmber x => Sys2Proof.Machine.execPbaEmber x s
  | .calRun x => Sys2Proof.Machine.execCalRun x s
  | .calCfg x => Sys2Proof.Machine.execCalCfg x s
  | .calLimits x => Sys2Proof.Machine.execCalLimits x s
  | .pmuCntset x => Sys2Proof.Machine.execPmuCntset x s
  | .pmuSnap x => Sys2Proof.Machine.execPmuSnap x s
  | .pmuSnapFabric x => Sys2Proof.Machine.execPmuSnapFabric x s
  | .pmuSampcfg x => Sys2Proof.Machine.execPmuSampcfg x s
  | .slcAdvance x => Sys2Proof.Machine.execSlcAdvance x s
  | .slcAdvanceFuses x => Sys2Proof.Machine.execSlcAdvanceFuses x s
  | .slcWipe x => Sys2Proof.Machine.execSlcWipe x s
  | .slcKcopy x => Sys2Proof.Machine.execSlcKcopy x s
  | .streamedOpIssue => Sys2Proof.Machine.execStreamedOpIssue s
  | .epochWaitResume => Sys2Proof.Machine.execEpochWaitResume s
  | .loadWaitResume => Sys2Proof.Machine.execLoadWaitResume s
  | .modelWaitResume => Sys2Proof.Machine.execModelWaitResume s
  | .ctrlPacketArrive n => Sys2Proof.Machine.execCtrlPacketArrive n s
  | .cutPacketArrive n => Sys2Proof.Machine.execCutPacketArrive n s
  | .gapPacketArrive n => Sys2Proof.Machine.execGapPacketArrive n s
  | .progressMarkArrive unit => Sys2Proof.Machine.execProgressMarkArrive unit s
  | .stageTimeout stage inst => Sys2Proof.Machine.execStageTimeout stage inst s
  | .sumpNoteReceive a b c d n => Sys2Proof.Machine.execSumpNoteReceive a b c d n s
  | .sumpSpanClose n => Sys2Proof.Machine.execSumpSpanClose n s
  | .sumpSpanDeliver n => Sys2Proof.Machine.execSumpSpanDeliver n s
  | .totaliserReport k => Sys2Proof.Machine.execTotaliserReport k s
  | .laneWake n => Sys2Proof.Machine.execLaneWake n s
  | .signalDetect n ctle => Sys2Proof.Machine.execSignalDetect n ctle s
  | .blockLock n => Sys2Proof.Machine.execBlockLock n s
  | .lockLost n => Sys2Proof.Machine.execLockLost n s
  | .relockTimeout n => Sys2Proof.Machine.execRelockTimeout n s
  | .trainStepTimeout n => Sys2Proof.Machine.execTrainStepTimeout n s
  | .trainRetry n => Sys2Proof.Machine.execTrainRetry n s
  | .hiberWindow n bad => Sys2Proof.Machine.execHiberWindow n bad s
  | .refMonitorWindow g present ppb => Sys2Proof.Machine.execRefMonitorWindow g present ppb s
  | .skipReceive n fill => Sys2Proof.Machine.execSkipReceive n fill s
  | .alignReceive n hlane ctr spread => Sys2Proof.Machine.execAlignReceive n hlane ctr spread s
  | .alignTimeout n => Sys2Proof.Machine.execAlignTimeout n s
  | .prbsResync n => Sys2Proof.Machine.execPrbsResync n s
  | .eyescanPointDone n count => Sys2Proof.Machine.execEyescanPointDone n count s
  | .tapackReceive n hlane rseq pre main post better want => Sys2Proof.Machine.execTapackReceive n hlane rseq pre main post better want s
  | .taptoExpiry n => Sys2Proof.Machine.execTaptoExpiry n s
  | .rateChangeRetrain h => Sys2Proof.Machine.execRateChangeRetrain h s
  | .lineStart h trignum xset echo test len cline differ => Sys2Proof.Machine.execLineStart h trignum xset echo test len cline differ s
  | .dataColumn h blocks => Sys2Proof.Machine.execDataColumn h blocks s
  | .lineEnd h crc cline differ => Sys2Proof.Machine.execLineEnd h crc cline differ s
  | .statusCmdrsp h tag result data => Sys2Proof.Machine.execStatusCmdrsp h tag result data s
  | .xsetackReceive h set xtag result => Sys2Proof.Machine.execXsetackReceive h set xtag result s
  | .camEvent h code info => Sys2Proof.Machine.execCamEvent h code info s
  | .statusUnknownSub b => Sys2Proof.Machine.execStatusUnknownSub b s
  | .cmdtoExpiry h => Sys2Proof.Machine.execCmdtoExpiry h s
  | .xsettoExpiry h => Sys2Proof.Machine.execXsettoExpiry h s
  | .headBringupRegs h eslver caps maxlen dcam maxlrate layout answers => Sys2Proof.Machine.execHeadBringupRegs h eslver caps maxlen dcam maxlrate layout answers s
  | .lineCompletionTimeout h => Sys2Proof.Machine.execLineCompletionTimeout h s
  | .triggerLineTimeout h => Sys2Proof.Machine.execTriggerLineTimeout h s
  | .blktoExpiry h k => Sys2Proof.Machine.execBlktoExpiry h k s
  | .gapflExpiry h => Sys2Proof.Machine.execGapflExpiry h s
  | .hauStopComplete h => Sys2Proof.Machine.execHauStopComplete h s
  | .stripRun l => Sys2Proof.Machine.execStripRun l s
  | .encEdge c a b => Sys2Proof.Machine.execEncEdge c a b s
  | .wireFaultEnter c pair => Sys2Proof.Machine.execWireFaultEnter c pair s
  | .wireFaultExit c pair level => Sys2Proof.Machine.execWireFaultExit c pair level s
  | .illactClear c => Sys2Proof.Machine.execIllactClear c s
  | .indexEdge c => Sys2Proof.Machine.execIndexEdge c s
  | .observerBoundCheck => Sys2Proof.Machine.execObserverBoundCheck s
  | .ssiPoll k low => Sys2Proof.Machine.execSsiPoll k low s
  | .ssiFrameEnd k raw err => Sys2Proof.Machine.execSsiFrameEnd k raw err s
  | .ssiNorespTimeout k => Sys2Proof.Machine.execSsiNorespTimeout k s
  | .probeEdge p rising => Sys2Proof.Machine.execProbeEdge p rising s
  | .divStep n => Sys2Proof.Machine.execDivStep n s
  | .wpSourceFault => Sys2Proof.Machine.execWpSourceFault s
  | .wpSourceRecover => Sys2Proof.Machine.execWpSourceRecover s
  | .coastExpiry => Sys2Proof.Machine.execCoastExpiry s
  | .triggerCommit h t => Sys2Proof.Machine.execTriggerCommit h t s
  | .triggerIssue h wait => Sys2Proof.Machine.execTriggerIssue h wait s
  | .edgeTrigger h => Sys2Proof.Machine.execEdgeTrigger h s
  | .trgPulseEnd h => Sys2Proof.Machine.execTrgPulseEnd h s
  | .markFire m => Sys2Proof.Machine.execMarkFire m s
  | .markPulseEnd m => Sys2Proof.Machine.execMarkPulseEnd m s
  | .stripAccept l => Sys2Proof.Machine.execStripAccept l s
  | .viewRowForm v => Sys2Proof.Machine.execViewRowForm v s
  | .edgeExchangeReceive p v right e => Sys2Proof.Machine.execEdgeExchangeReceive p v right e s
  | .edgetoExpiry v => Sys2Proof.Machine.execEdgetoExpiry v s
  | .viewRowProcess v => Sys2Proof.Machine.execViewRowProcess v s
  | .viewGapProcess v => Sys2Proof.Machine.execViewGapProcess v s
  | .viewStopProcess v => Sys2Proof.Machine.execViewStopProcess v s
  | .boundaryWordReceive p v right n word => Sys2Proof.Machine.execBoundaryWordReceive p v right n word s
  | .boundaryWordTimeout v right => Sys2Proof.Machine.execBoundaryWordTimeout v right s
  | .rtkRecordEnqueue => Sys2Proof.Machine.execRtkRecordEnqueue s
  | .recordClassify => Sys2Proof.Machine.execRecordClassify s
  | .ledgerRecordWrite which => Sys2Proof.Machine.execLedgerRecordWrite which s
  | .rd0HostCopy => Sys2Proof.Machine.execRd0HostCopy s
  | .rd1Forward => Sys2Proof.Machine.execRd1Forward s
  | .fwdAckReceive p dseq => Sys2Proof.Machine.execFwdAckReceive p dseq s
  | .fwdTimeout => Sys2Proof.Machine.execFwdTimeout s
  | .forwardedRecordReceive p ws => Sys2Proof.Machine.execForwardedRecordReceive p ws s
  | .contactTableExpiry => Sys2Proof.Machine.execContactTableExpiry s
  | .historyRowTake h => Sys2Proof.Machine.execHistoryRowTake h s
  | .hflushExpiry h => Sys2Proof.Machine.execHflushExpiry h s
  | .frameCompress h c => Sys2Proof.Machine.execFrameCompress h c s
  | .frameWrite h => Sys2Proof.Machine.execFrameWrite h s
  | .cropComplete inst => Sys2Proof.Machine.execCropComplete inst s
  | .cmpFrameComplete k => Sys2Proof.Machine.execCmpFrameComplete k s
  | .compressorIdleRelease c => Sys2Proof.Machine.execCompressorIdleRelease c s
  | .ovsSourceRow k => Sys2Proof.Machine.execOvsSourceRow k s
  | .ovsRowDeliver k => Sys2Proof.Machine.execOvsRowDeliver k s
  | .ovsGapReceive k => Sys2Proof.Machine.execOvsGapReceive k s
  | .ovsStopComplete k => Sys2Proof.Machine.execOvsStopComplete k s
  | .inboundBulkReceive p k ws => Sys2Proof.Machine.execInboundBulkReceive p k ws s
  | .dmaDescriptorStart c => Sys2Proof.Machine.execDmaDescriptorStart c s
  | .dmaDescriptorComplete c stop => Sys2Proof.Machine.execDmaDescriptorComplete c stop s
  | .dmaTimeout c n => Sys2Proof.Machine.execDmaTimeout c n s
  | .dmaFenceComplete c => Sys2Proof.Machine.execDmaFenceComplete c s
  | .dramTrainingStart c => Sys2Proof.Machine.execDramTrainingStart c s
  | .dramTrainingEnd c eyes => Sys2Proof.Machine.execDramTrainingEnd c eyes s
  | .periodicRetrain c eyes shift => Sys2Proof.Machine.execPeriodicRetrain c eyes shift s
  | .dramParityError c rank => Sys2Proof.Machine.execDramParityError c rank s
  | .rankMigrationDone c => Sys2Proof.Machine.execRankMigrationDone c s
  | .rankVerifyDone c clean => Sys2Proof.Machine.execRankVerifyDone c clean s
  | .bankBusyRetry r n => Sys2Proof.Machine.execBankBusyRetry r n s
  | .cmddbWrite v => Sys2Proof.Machine.execCmddbWrite v s
  | .commandStart entry => Sys2Proof.Machine.execCommandStart entry s
  | .commandComplete cseq => Sys2Proof.Machine.execCommandComplete cseq s
  | .completionEntryWrite => Sys2Proof.Machine.execCompletionEntryWrite s
  | .producerWordWrite ring => Sys2Proof.Machine.execProducerWordWrite ring s
  | .mirrorRefresh => Sys2Proof.Machine.execMirrorRefresh s
  | .cenWrite m v => Sys2Proof.Machine.execCenWrite m v s
  | .ccconsWrite m v => Sys2Proof.Machine.execCcconsWrite m v s
  | .hlconsWrite m v => Sys2Proof.Machine.execHlconsWrite m v s
  | .menWrite m v => Sys2Proof.Machine.execMenWrite m v s
  | .bootdbWrite len => Sys2Proof.Machine.execBootdbWrite len s
  | .resetkeyWrite v => Sys2Proof.Machine.execResetkeyWrite v s
  | .bar0Evfire c => Sys2Proof.Machine.execBar0Evfire c s
  | .bar0RegWrite off m v => Sys2Proof.Machine.execBar0RegWrite off m v s
  | .bar2Access off n data => Sys2Proof.Machine.execBar2Access off n data s
  | .functionLevelReset => Sys2Proof.Machine.execFunctionLevelReset s
  | .pcieReset => Sys2Proof.Machine.execPcieReset s
  | .helloSend p => Sys2Proof.Machine.execHelloSend p s
  | .helloReceive p node holder term below => Sys2Proof.Machine.execHelloReceive p node holder term below s
  | .delayMeasure p trip far => Sys2Proof.Machine.execDelayMeasure p trip far s
  | .syncSend => Sys2Proof.Machine.execSyncSend s
  | .syncReceive p term epoch pos spd acc valid coasting ptm corr => Sys2Proof.Machine.execSyncReceive p term epoch pos spd acc valid coasting ptm corr s
  | .pstoExpiry => Sys2Proof.Machine.execPstoExpiry s
  | .leaseRenewalSend => Sys2Proof.Machine.execLeaseRenewalSend s
  | .leaseRenewalReceive p node term => Sys2Proof.Machine.execLeaseRenewalReceive p node term s
  | .leaseAckReceive p node term sent => Sys2Proof.Machine.execLeaseAckReceive p node term sent s
  | .fabricLeaseExpiry => Sys2Proof.Machine.execFabricLeaseExpiry s
  | .candidateTimeout => Sys2Proof.Machine.execCandidateTimeout s
  | .termRequestReceive p node term => Sys2Proof.Machine.execTermRequestReceive p node term s
  | .termGrantReceive p node term => Sys2Proof.Machine.execTermGrantReceive p node term s
  | .cutAnnounceReceive p term epoch dir pcut => Sys2Proof.Machine.execCutAnnounceReceive p term epoch dir pcut s
  | .cutReplyReceive p ack minpos => Sys2Proof.Machine.execCutReplyReceive p ack minpos s
  | .cutSubtreeTimeout p => Sys2Proof.Machine.execCutSubtreeTimeout p s
  | .cutMasterTimeout => Sys2Proof.Machine.execCutMasterTimeout s
  | .cutCommitReceive p term epoch => Sys2Proof.Machine.execCutCommitReceive p term epoch s
  | .cutCancelReceive p term epoch => Sys2Proof.Machine.execCutCancelReceive p term epoch s
  | .cutOrphanTimeout => Sys2Proof.Machine.execCutOrphanTimeout s
  | .packetForward p node hops => Sys2Proof.Machine.execPacketForward p node hops s
  | .fabricSnapRequestReceive p term tsnap => Sys2Proof.Machine.execFabricSnapRequestReceive p term tsnap s
  | .tbrefFault => Sys2Proof.Machine.execTbrefFault s
  | .ppsInEdge falling => Sys2Proof.Machine.execPpsInEdge falling s
  | .ppsOutFire => Sys2Proof.Machine.execPpsOutFire s
  | .ppsOutEnd => Sys2Proof.Machine.execPpsOutEnd s
  | .ethFrameReceive e frame fcsOk => Sys2Proof.Machine.execEthFrameReceive e frame fcsOk s
  | .ethFrameTransmit e => Sys2Proof.Machine.execEthFrameTransmit e s
  | .ethRingPoll e => Sys2Proof.Machine.execEthRingPoll e s
  | .evioEdge n level => Sys2Proof.Machine.execEvioEdge n level s
  | .channelToken c k => Sys2Proof.Machine.execChannelToken c k s
  | .taskInputToken t => Sys2Proof.Machine.execTaskInputToken t s
  | .activationStart t => Sys2Proof.Machine.execActivationStart t s
  | .activationEnd t => Sys2Proof.Machine.execActivationEnd t s
  | .twXferComplete p res nack data => Sys2Proof.Machine.execTwXferComplete p res nack data s
  | .targetStretchTimeout p => Sys2Proof.Machine.execTargetStretchTimeout p s
  | .controllerSclTimeout p low => Sys2Proof.Machine.execControllerSclTimeout p low s
  | .stuckRecoveryRetry p pulses => Sys2Proof.Machine.execStuckRecoveryRetry p pulses s
  | .mboxWrite ptr bs => Sys2Proof.Machine.execMboxWrite ptr bs s
  | .twTargetWrite port ptr bs => Sys2Proof.Machine.execTwTargetWrite port ptr bs s
  | .tw3Dcmd ptr bs => Sys2Proof.Machine.execTw3Dcmd ptr bs s
  | .tw0WakeMatch => Sys2Proof.Machine.execTw0WakeMatch s
  | .grantIssue => Sys2Proof.Machine.execGrantIssue s
  | .voltageLoopStep rate => Sys2Proof.Machine.execVoltageLoopStep rate s
  | .vregRetry => Sys2Proof.Machine.execVregRetry s
  | .supplyWarningEnter r => Sys2Proof.Machine.execSupplyWarningEnter r s
  | .supplyWarningExit r vlow => Sys2Proof.Machine.execSupplyWarningExit r vlow s
  | .railBelowReset r => Sys2Proof.Machine.execRailBelowReset r s
  | .thermalWarning temps => Sys2Proof.Machine.execThermalWarning temps s
  | .thermalShutdown temps => Sys2Proof.Machine.execThermalShutdown temps s
  | .thermalRelease temps => Sys2Proof.Machine.execThermalRelease temps s
  | .emberWake => Sys2Proof.Machine.execEmberWake s
  | .vauxPowerOn => Sys2Proof.Machine.execVauxPowerOn s
  | .rstNAssert => Sys2Proof.Machine.execRstNAssert s
  | .tamperDetect => Sys2Proof.Machine.execTamperDetect s
  | .secureWipeEnd good => Sys2Proof.Machine.execSecureWipeEnd good s
  | .kindlingStart sel port => Sys2Proof.Machine.execKindlingStart sel port s
  | .imageLoadDone err image => Sys2Proof.Machine.execImageLoadDone err image s
  | .fabricBootTimeout => Sys2Proof.Machine.execFabricBootTimeout s
  | .kcopyComplete => Sys2Proof.Machine.execKcopyComplete s
  | .leaseRenewTick => Sys2Proof.Machine.execLeaseRenewTick s
  | .seqAbdicate cause => Sys2Proof.Machine.execSeqAbdicate cause s
  | .seqLeaseExpiry => Sys2Proof.Machine.execSeqLeaseExpiry s
  | .takeover => Sys2Proof.Machine.execTakeover s
  | .sqwdogExpiry => Sys2Proof.Machine.execSqwdogExpiry s
  | .seqPairSelftest pass => Sys2Proof.Machine.execSeqPairSelftest pass s
  | .failover u cause => Sys2Proof.Machine.execFailover u cause s
  | .rpWatchdog u => Sys2Proof.Machine.execRpWatchdog u s
  | .plannedRotation l inn => Sys2Proof.Machine.execPlannedRotation l inn s
  | .rotationHandover l => Sys2Proof.Machine.execRotationHandover l s
  | .selfTest u found margin move => Sys2Proof.Machine.execSelfTest u found margin move s
  | .selfTestRetry u => Sys2Proof.Machine.execSelfTestRetry u s
  | .cecntRateCheck u n => Sys2Proof.Machine.execCecntRateCheck u n s
  | .canaryMarginLow u margin => Sys2Proof.Machine.execCanaryMarginLow u margin s
  | .calTargetRun t q shift fine figs unit => Sys2Proof.Machine.execCalTargetRun t q shift fine figs unit s
  | .snapshotTake => Sys2Proof.Machine.execSnapshotTake s
  | .sampleRecord k stall iaddr iword lat => Sys2Proof.Machine.execSampleRecord k stall iaddr iword lat s
  | .eqAdaptDone n goal want => Sys2Proof.Machine.execEqAdaptDone n goal want s
  | .eqBoundHold n q v => Sys2Proof.Machine.execEqBoundHold n q v s
  | .prbsError n bits => Sys2Proof.Machine.execPrbsError n bits s
  | .unknownTypeBlock b => Sys2Proof.Machine.execUnknownTypeBlock b s
  | .codeCopyComplete u => Sys2Proof.Machine.execCodeCopyComplete u s
  | .modelCopyComplete => Sys2Proof.Machine.execModelCopyComplete s
  | .twBusFree p => Sys2Proof.Machine.execTwBusFree p s
  | .vcorePowerGood => Sys2Proof.Machine.execVcorePowerGood s
  | .tamperEnd => Sys2Proof.Machine.execTamperEnd s
  | .liveholdExpiry src => Sys2Proof.Machine.execLiveholdExpiry src s

end Sys2Proof.Machine
end

