-- ==== Sys2Proof/Machine/Tick.lean ====
section
/-!
DEFINITION. What a raw tick does with no command waiting: the counted ticks, the downlink slots, the bits of injections and PRBS
checkers, and the capture of a snapshot.
-/
namespace Sys2Proof.Machine

/-- The downlink slots of the heads at this tick (R125). -/
def downTicks (s : State) : State := (List.range 32).foldl (fun s h => downTick h s) s

/-- The bits of injections and of PRBS checkers at this tick (R100, R101); a lane not in the table has neither. -/
def laneTicks (s : State) : State := (s.lanes.map (·.1)).foldl (fun s n => checkTick n (injectTick n s)) s

/-! ### PMU events that count ticks (R271, Table 8-11) -/

/-- Views with records at RCL. -/
def rclHolds (s : State) (v : Nat) : Bool :=
  s.recs.fifo.any fun i => match i with | .record ws => bits (ws.getD 0 0) 58 55 == v | .mark u _ => u == v

/-- Instances of the units that hold work at this tick (log entry 155). -/
def workHeld (s : State) : List (Nat × Nat) :=
  let heads := fun (unit : Nat) (q : Nat → Bool) => ((List.range 32).filter q).map fun h => (unit, h)
  let views := fun (unit : Nat) (q : Nat → Bool) => ((List.range 16).filter q).map fun v => (unit, v)
  (if s.seq.cur.isSome then [(0, activeCore s - 72), (0, activeCore s - 71)] else []) ++
    heads 2 (fun h => !(s.head h).rows.isEmpty || (s.head h).line.isSome) ++ heads 4 (fun h => !(s.tesOf h).queue.isEmpty) ++
    ((List.range 72).filter fun u => (s.proc u).run.isSome || s.rpa.copies.any fun c => c.rp == u).map (fun u => (5, u)) ++
    views 6 (fun v => !(s.view v).rows.isEmpty) ++ views 7 (fun v => s.store.any fun i => i.vs && i.src == v && i.need.contains 8) ++
    views 8 (rclHolds s) ++ (if s.recs.toDlg.isEmpty && s.dlg.inbox.isEmpty && s.dlg.links.isEmpty then [] else [(9, 0)]) ++
    heads 0xA (fun h => s.on Reg.HisHead.EN h && (s.head h).rows.any fun r => !r.taken) ++
    ((List.range 8).filter fun k => !(s.ovsOf k).rows.isEmpty || !(s.ovsOf k).held.isEmpty).map (fun k => (0xC, k)) ++
    ((List.range 16).filter fun c => (s.dmaOf c).cur.isSome || !(s.dmaOf c).queue.isEmpty).map (fun c => (0xE, c)) ++
    (if s.tokens.isEmpty then [] else [(0x13, 0)]) ++ ((List.range 7).filter fun p => !(s.twOf p).queue.isEmpty).map (fun p => (0x14, p)) ++
    (if s.damper.waiting.isEmpty then [] else [(0x15, 0)]) ++ if s.dep.runs.isEmpty then [] else [(0x16, 0)]

/-- The ticks that PMU counts: with work held (event 0x00), of a waiting XWAIT (SEQ 0x43) and with a grant request waiting (PBA
0x41). -/
def countTicks (s : State) : State :=
  if (pmuSet s).isEmpty then s
  else
    let ws := workHeld s
    let xw := s.seq.xwaits && s.seq.cur.isSome
    let s := ws.foldl (fun s w => s.evt w.1 w.2 0x00) s
    let s := if xw then (s.evt 0 (activeCore s - 72) 0x43).evt 0 (activeCore s - 71) 0x43 else s
    if s.damper.waiting.isEmpty then s else s.evt 0x15 0 0x41

/-! ### Snapshots (R272) -/

/-- A snapshot captures the counts at its Tsnap: a local one at the first tick after the request, one of the fabric once presented time
reaches it. Every event so far occurred at an earlier tick. -/
def captureSnap (s : State) : State :=
  match s.snap with
  | some { at_ := t, got := none } =>
    if (t.getD 0) ≤ s.pt then
      let cs := s.regs.filter fun e => decide (0x20170000 ≤ e.1 ∧ e.1 < 0x20172000)
      { s with snap := some { at_ := t, got := some { raw := s.raw, pt := s.pt, epoch := s.rd Reg.Cut.EPOCH 0, counts := cs } } }
    else s
  | _ => s

/-- A raw tick passes: what the block does when no command waits (R519; DESIGN CHOICE, log entry 1). -/
def idleTick (s : State) : State :=
  let s := laneTicks (downTicks (countTicks s))
  captureSnap (s.wr Reg.Tnt.RAW 0 (s.raw + 1))

end Sys2Proof.Machine
end

