-- ==== Sys2Proof/Machine/Outputs.lean ====
section
/-!
DEFINITION. The outputs of the device in reset, in Ember and while it runs (R209, R225, R227, R567, R568, Table 18-6a).
-/
namespace Sys2Proof.Machine

/-- An output, or a group of outputs of one kind, of Table 18-6a. -/
inductive Pin where
  /-- TRG_P/N[h]. -/
  | trg (h : Nat)
  /-- MARK[m]. -/
  | mark (m : Nat)
  /-- DIVA/DIVB[d]. -/
  | div (d : Nat)
  /-- SSICLK_P/N[j]. -/
  | ssiClk (j : Nat)
  /-- INSP_OK. -/
  | inspOk
  /-- VCORE_EN. -/
  | vcoreEn
  /-- PPS_OUT. -/
  | ppsOut
  /-- Sensor lane, Wyton Link, Ethernet and PCIe transmitters. -/
  | transmitters
  /-- SCL and SDA of two-wire port p. -/
  | twoWire (p : Nat)
  /-- QSPI. -/
  | qspi
  deriving DecidableEq, Repr

/-- What an output does. -/
inductive PinLevel where
  /-- Driven low; a TRG pair at differential low. -/
  | low
  /-- Driven high. -/
  | high
  /-- High-impedance, or released. -/
  | released
  /-- Electrical idle. -/
  | idle
  /-- As its unit's own rules say. -/
  | byUnit
  deriving DecidableEq, Repr

/-- High or low. -/
def PinLevel.of (b : Bool) : PinLevel := if b then .high else .low

/-- The core is in reset: Kindling has not started, and the device is not in Ember (R566, R569). -/
def State.inReset (s : State) : Bool := s.rd Reg.Slc.KPHASE 0 == 0 && !s.power.ember

/-- What an output does (Table 18-6a). -/
def State.output (s : State) (p : Pin) : PinLevel :=
  let off := s.inReset || s.power.ember
  match p with
  | .trg h => .of (!off && (Tbl.get (fun _ => ({} : TesState)) s.tes h).trg)
  | .mark m => .of (!off && Tbl.get (fun _ => false) s.markPins m)
  | .div _ => if s.inReset then .released else .byUnit
  | .ssiClk _ => if s.inReset then .high else .byUnit
  | .inspOk => .of s.inspOk
  | .vcoreEn => .of s.power.vcoreEn
  | .ppsOut => .of (!s.inReset && s.tnt.ppsOut)
  | .transmitters => if off then .idle else .byUnit
  | .twoWire n => if s.inReset || (s.power.ember && (n == 1 || n == 2)) then .released else .byUnit
  | .qspi => if !s.power.ember && decide (1 ≤ s.rd Reg.Slc.KPHASE 0 ∧ s.rd Reg.Slc.KPHASE 0 < 5) then .byUnit else .released

end Sys2Proof.Machine
end

