-- ==== Sys2Proof/Safety.lean ====
section
/-!
DEFINITION. What a good state and a safe run are, and the parts of the state, in the terms that statements use.
-/
namespace Sys2Proof.Machine

/-- The register table and memory are in canonical form: keys strictly rising, no entry that equals what an unlisted key
reads as. Equal contents are then equal data. -/
def State.canonical (s : State) : Prop := Tbl.wf resetWord s.regs = true ∧ Memory.wf s.mem = true

/-- A state from which the next step neither faults nor refuses. -/
def State.safe (s : State) : Prop := ∃ t, step s = .next t

/-- The invariant that every step keeps. -/
def State.inv (s : State) : Prop := s.canonical

/-! ### Parts of the state -/

/-- The group of a register word: its UNIT (R19) for a unit control block, but 64 for the live performance counters;
65 for BAR0 and 66 for the two-wire targets. No register lies in group 67. -/
def groupOf (a : Nat) : Nat :=
  if a < 0x20170000 then (a - 0x20000000) / 65536 else if a < 0x20172000 then 64
  else if a < 0x20400000 then (a - 0x20000000) / 65536 else if a < 0x1000000000000 then 67
  else if a < 0x1000100000000 then 65 else 66

/-- The blocks of which a unit has several instances. -/
inductive Arr where
  /-- Lane blocks (Table 2-6). -/
  | lane
  /-- Lane groups. -/
  | laneGroup
  /-- Head blocks. -/
  | head
  /-- Strip maps of the heads. -/
  | strips
  /-- Link counters and timeouts of the heads. -/
  | eslHead
  /-- Encoder channels. -/
  | enc
  /-- SSI ports. -/
  | ssi
  /-- Probes. -/
  | probe
  /-- Divided outputs. -/
  | divider
  /-- Trigger blocks of the heads. -/
  | tesHead
  /-- Logical row processors. -/
  | lrp
  /-- Statistics of the heads. -/
  | rpaStat
  /-- Row processors as units of the redundancy. -/
  | rpaUnit
  /-- Views. -/
  | view
  /-- Seams of the views. -/
  | seam
  /-- Geometry of the heads. -/
  | geom
  /-- Region tracking of the views. -/
  | rtkView
  /-- Classification of the views. -/
  | rclView
  /-- Feature maps of the views. -/
  | featMap
  /-- Ledger origins of the views. -/
  | dlgView
  /-- Markers. -/
  | marker
  /-- History of the heads. -/
  | hisHead
  /-- Overview streams. -/
  | stream
  /-- DRAM channels. -/
  | dmc
  /-- DMA channels. -/
  | dma
  /-- Shared banks. -/
  | bank
  /-- Requesters of the banks. -/
  | requester
  /-- WebLink ports. -/
  | wlkPort
  /-- Edges of the views towards other nodes. -/
  | wlkEdge
  /-- Inbound bulk rings. -/
  | inbound
  /-- Ethernet ports. -/
  | ethPort
  /-- Channels of the event router. -/
  | chan
  /-- Tasks of the event router. -/
  | task
  /-- Event pins. -/
  | evio
  /-- Two-wire ports. -/
  | twPort
  /-- Supply rails. -/
  | rail
  /-- Supply dip records. -/
  | dip
  /-- Calibration targets. -/
  | target
  /-- Temperature sensors. -/
  | sensor
  /-- Configuration of the performance counters. -/
  | pmuCfg
  /-- Instruction samplers. -/
  | sampler
  deriving DecidableEq, Repr

/-- Address of instance 0. -/
def Arr.lo : Arr → Nat
  | .lane => 0x20010000
  | .laneGroup => 0x20018000
  | .head => 0x20020000
  | .strips => 0x20024000
  | .eslHead => 0x2002C000
  | .enc => 0x20030000
  | .ssi => 0x20030400
  | .probe => 0x20030600
  | .divider => 0x20030800
  | .tesHead => 0x20040000
  | .lrp => 0x20050000
  | .rpaStat => 0x20052000
  | .rpaUnit => 0x20053000
  | .view => 0x20060000
  | .seam => 0x20062000
  | .geom => 0x2006A000
  | .rtkView => 0x20070000
  | .rclView => 0x20080100
  | .featMap => 0x20081000
  | .dlgView => 0x20090100
  | .marker => 0x20094000
  | .hisHead => 0x200A0000
  | .stream => 0x200C0000
  | .dmc => 0x200D0000
  | .dma => 0x200E0000
  | .bank => 0x200F0000
  | .requester => 0x200F1000
  | .wlkPort => 0x20110100
  | .wlkEdge => 0x20110400
  | .inbound => 0x20110600
  | .ethPort => 0x20120100
  | .chan => 0x20130000
  | .task => 0x20130800
  | .evio => 0x20132900
  | .twPort => 0x20140000
  | .rail => 0x20150100
  | .dip => 0x20150200
  | .target => 0x20160100
  | .sensor => 0x20160400
  | .pmuCfg => 0x20172000
  | .sampler => 0x20177000

/-- Bytes of an instance. -/
def Arr.stride : Arr → Nat
  | .lane => 128
  | .laneGroup => 64
  | .head => 128
  | .strips => 256
  | .eslHead => 64
  | .enc => 128
  | .ssi => 128
  | .probe => 64
  | .divider => 32
  | .tesHead => 128
  | .lrp => 64
  | .rpaStat => 64
  | .rpaUnit => 32
  | .view => 512
  | .seam => 2048
  | .geom => 64
  | .rtkView => 128
  | .rclView => 32
  | .featMap => 256
  | .dlgView => 16
  | .marker => 64
  | .hisHead => 128
  | .stream => 512
  | .dmc => 256
  | .dma => 64
  | .bank => 8
  | .requester => 8
  | .wlkPort => 64
  | .wlkEdge => 16
  | .inbound => 32
  | .ethPort => 64
  | .chan => 16
  | .task => 32
  | .evio => 8
  | .twPort => 64
  | .rail => 16
  | .dip => 32
  | .target => 32
  | .sensor => 8
  | .pmuCfg => 8
  | .sampler => 32

/-- Instances. -/
def Arr.count : Arr → Nat
  | .lane => 256
  | .laneGroup => 16
  | .head => 32
  | .strips => 32
  | .eslHead => 32
  | .enc => 8
  | .ssi => 4
  | .probe => 8
  | .divider => 8
  | .tesHead => 32
  | .lrp => 64
  | .rpaStat => 32
  | .rpaUnit => 72
  | .view => 16
  | .seam => 16
  | .geom => 32
  | .rtkView => 16
  | .rclView => 16
  | .featMap => 16
  | .dlgView => 16
  | .marker => 16
  | .hisHead => 32
  | .stream => 8
  | .dmc => 8
  | .dma => 16
  | .bank => 256
  | .requester => 128
  | .wlkPort => 4
  | .wlkEdge => 16
  | .inbound => 8
  | .ethPort => 2
  | .chan => 128
  | .task => 256
  | .evio => 16
  | .twPort => 4
  | .rail => 7
  | .dip => 16
  | .target => 5
  | .sensor => 16
  | .pmuCfg => 1024
  | .sampler => 76

/-- The blocks of a group that have several instances. -/
def arrsOf (g : Nat) : List Arr :=
  match g with
  | 1 => [.lane, .laneGroup]
  | 2 => [.head, .strips, .eslHead]
  | 3 => [.enc, .ssi, .probe, .divider]
  | 4 => [.tesHead]
  | 5 => [.lrp, .rpaStat, .rpaUnit]
  | 6 => [.view, .seam, .geom]
  | 7 => [.rtkView]
  | 8 => [.rclView, .featMap]
  | 9 => [.dlgView, .marker]
  | 10 => [.hisHead]
  | 12 => [.stream]
  | 13 => [.dmc]
  | 14 => [.dma]
  | 15 => [.bank, .requester]
  | 17 => [.wlkPort, .wlkEdge, .inbound]
  | 18 => [.ethPort]
  | 19 => [.chan, .task, .evio]
  | 20 => [.twPort]
  | 21 => [.rail, .dip]
  | 22 => [.target, .sensor]
  | 23 => [.pmuCfg, .sampler]
  | _ => []

/-- An address lies in a block of several instances. -/
def Arr.holds (k : Arr) (a : Nat) : Bool := decide (k.lo ≤ a ∧ a < k.lo + k.stride * k.count)

/-- The parts of the state that a command can change: a group of registers, memory, everything at once (a reset), or a
field of `State`. -/
inductive Part where
  /-- The register words of a group that lie in no block of several instances. -/
  | grp (k : Nat)
  /-- The register words of one instance of a block. -/
  | one (k : Arr) (i : Nat)
  /-- Those of every instance. -/
  | all (k : Arr)
  /-- Memory. -/
  | mem
  /-- The whole state, as a reset leaves it. -/
  | reset
  /-- Device addresses of the 64-byte DRAM bursts that are poisoned (R458). -/
  | poison
  /-- The model's own field: free values taken so far (log entry 3). -/
  | free
  /-- Processors (R230). -/
  | procs
  /-- Sequencer cores (R258 to R268). -/
  | seq
  /-- CTRL packets inserted and not yet at their stage (R32). -/
  | transit
  /-- CTRL packets held at a stage until their apply-at point (R31). -/
  | held
  /-- What each stage has processed of each stream; key 64·(64·stage + sub) + stream, plus 32 in a view's stream. -/
  | progress
  /-- GAP packets on their way (R58). -/
  | gaps
  /-- The Sump (R51). -/
  | sump
  /-- Packets of a reserved KIND that each unit has discarded (R23). -/
  | malformed
  /-- Tokens in channels (R580). -/
  | tokens
  /-- Row processor array beside its registers. -/
  | rpa
  /-- The Damper's account. -/
  | damper
  /-- Lanes beside their registers. -/
  | lanes
  /-- Consecutive good windows of each lane group's reference monitor (R74). -/
  | goodWin
  /-- Heads that have a bonding (R149). -/
  | bonded
  /-- Heads beside their blocks. -/
  | heads
  /-- Cuts whose epochs are in flight, oldest first (R36). -/
  | cuts
  /-- CUT packets on their way to a stage (R38). -/
  | cutPkts
  /-- Encoder channels beside their registers. -/
  | enc
  /-- SSI ports beside their registers. -/
  | ssi
  /-- Probe FIFOs, oldest record first (R192). -/
  | probes
  /-- Divided outputs beside their registers. -/
  | divs
  /-- Raw tick of the last token of each PFU source (R200). -/
  | pfuTick
  /-- Web position beside its block. -/
  | web
  /-- Pending marks (R223). -/
  | marks
  /-- MARK outputs (R225). -/
  | markPins
  /-- TES heads beside their registers. -/
  | tes
  /-- Views beside their blocks. -/
  | views
  /-- The row store, oldest first (R43). -/
  | store
  /-- Strips of head rows of which a head-domain row is to be written, per head (R427). -/
  | strips
  /-- The last 256 (LSEQ, STRIP) that SST has committed, per head, newest first (R45). -/
  | commits
  /-- Regions, records and models. -/
  | recs
  /-- The ledger beside its registers. -/
  | dlg
  /-- History and compression (R413 to R426). -/
  | his
  /-- Overview streams beside their blocks. -/
  | ovs
  /-- DRAM channels beside their blocks. -/
  | dmc
  /-- DMA channels beside their blocks. -/
  | dma
  /-- The host interface beside its registers. -/
  | hif
  /-- WLK beside its registers. -/
  | wlk
  /-- The packet that each Wyton Link port has sent last. -/
  | sent
  /-- TNT beside its registers. -/
  | tnt
  /-- Dependability and calibration beside their registers. -/
  | dep
  /-- Power, resets and Kindling beside their registers. -/
  | power
  /-- The event router beside its registers. -/
  | evr
  /-- Two-wire ports beside their blocks. -/
  | tw
  /-- A snapshot in progress (R272). -/
  | snap
  /-- Samplers beside their registers (R273). -/
  | sampled
  deriving DecidableEq, Repr

/-- The part that a register word belongs to. -/
def partOf (a : Nat) : Part :=
  match (arrsOf (groupOf a)).find? fun k => k.holds a with
  | some k => .one k ((a - k.lo) / k.stride)
  | none => .grp (groupOf a)

/-- The parts that a list names, one instance of a block also where it names them all. -/
def Covers (l : List Part) : Part → Prop
  | .one k i => .one k i ∈ l ∨ .all k ∈ l
  | p => p ∈ l

/-- From s to t nothing has changed but the parts that P names. The queue is no part. -/
structure Frame (P : Part → Prop) (s t : State) : Prop where
  pending : t.pending = s.pending
  word : ∀ a, ¬ P (partOf a) → t.word a = s.word a
  mem : ¬ P .mem → t.mem = s.mem
  poison : ¬ P .poison → t.poison = s.poison
  free : ¬ P .free → t.free = s.free
  procs : ¬ P .procs → t.procs = s.procs
  seq : ¬ P .seq → t.seq = s.seq
  transit : ¬ P .transit → t.transit = s.transit
  held : ¬ P .held → t.held = s.held
  progress : ¬ P .progress → t.progress = s.progress
  gaps : ¬ P .gaps → t.gaps = s.gaps
  sump : ¬ P .sump → t.sump = s.sump
  malformed : ¬ P .malformed → t.malformed = s.malformed
  tokens : ¬ P .tokens → t.tokens = s.tokens
  rpa : ¬ P .rpa → t.rpa = s.rpa
  damper : ¬ P .damper → t.damper = s.damper
  lanes : ¬ P .lanes → t.lanes = s.lanes
  goodWin : ¬ P .goodWin → t.goodWin = s.goodWin
  bonded : ¬ P .bonded → t.bonded = s.bonded
  heads : ¬ P .heads → t.heads = s.heads
  cuts : ¬ P .cuts → t.cuts = s.cuts
  cutPkts : ¬ P .cutPkts → t.cutPkts = s.cutPkts
  enc : ¬ P .enc → t.enc = s.enc
  ssi : ¬ P .ssi → t.ssi = s.ssi
  probes : ¬ P .probes → t.probes = s.probes
  divs : ¬ P .divs → t.divs = s.divs
  pfuTick : ¬ P .pfuTick → t.pfuTick = s.pfuTick
  web : ¬ P .web → t.web = s.web
  marks : ¬ P .marks → t.marks = s.marks
  markPins : ¬ P .markPins → t.markPins = s.markPins
  tes : ¬ P .tes → t.tes = s.tes
  views : ¬ P .views → t.views = s.views
  store : ¬ P .store → t.store = s.store
  strips : ¬ P .strips → t.strips = s.strips
  commits : ¬ P .commits → t.commits = s.commits
  recs : ¬ P .recs → t.recs = s.recs
  dlg : ¬ P .dlg → t.dlg = s.dlg
  his : ¬ P .his → t.his = s.his
  ovs : ¬ P .ovs → t.ovs = s.ovs
  dmc : ¬ P .dmc → t.dmc = s.dmc
  dma : ¬ P .dma → t.dma = s.dma
  hif : ¬ P .hif → t.hif = s.hif
  wlk : ¬ P .wlk → t.wlk = s.wlk
  sent : ¬ P .sent → t.sent = s.sent
  tnt : ¬ P .tnt → t.tnt = s.tnt
  dep : ¬ P .dep → t.dep = s.dep
  power : ¬ P .power → t.power = s.power
  evr : ¬ P .evr → t.evr = s.evr
  tw : ¬ P .tw → t.tw = s.tw
  snap : ¬ P .snap → t.snap = s.snap
  sampled : ¬ P .sampled → t.sampled = s.sampled

/-- From s to t nothing has changed but the parts of a list. -/
def Only (l : List Part) (s t : State) : Prop := Frame (Covers l) s t

/-! ### Instructions -/

/-- Processor u can carry out its next instruction: it may execute (R258), a row processor has not used up RUNLIMIT
(R256), a sequencer is within its code (R483). -/
def Ready (u : Nat) (s : State) : Prop :=
  u < 76 ∧ mayExecute s u = true ∧
    (isRp u = true → (s.proc (core u)).retired < s.rd Reg.RpaGlobal.RUNLIMIT 0) ∧ offEnd s (core u) (s.proc (core u)) = false

/-- An S-class word that processor u executes with effect: its MOD bits lie in a mask, a sequencer's word names predicate
0, and a row processor's scalar predicate has a bit set (R230, R255, R285). -/
def Takes (u : Nat) (w : IWord) (mask : Nat) (s : State) : Prop :=
  Ready u s ∧ w.md &&& mask = w.md ∧ (if isRp u then (s.proc (core u)).preg w.pred ≠ 0 else w.pred = 0)

/-- No PFX stands before the instruction. -/
def Bare (u : Nat) (s : State) : Prop := (s.proc (core u)).pfx = none

/-- A V-class word that row processor u executes: its MOD bits lie in a mask, its TYPE is one of a list (R282, R283). -/
def TakesV (u : Nat) (w : IWord) (mask : Nat) (tys : List Nat) (s : State) : Prop :=
  u < 72 ∧ Ready u s ∧ w.md &&& mask = w.md ∧ ty w ∈ tys

/-- The instruction has retired on register file c, whose processor has become p with the pc at the given index and no
prefix; beside the parts named, only performance counts follow (R270, R273). -/
def Retired (c pc : Nat) (p : Proc) (l : List Part) (s t : State) : Prop :=
  t.proc c = { p with pc := pc, pfx := none, last := p.faultIdx, retired := (s.proc c).retired + 1 } ∧
    (∀ v, v ≠ c → t.proc v = s.proc v) ∧ Only (l ++ [.procs, .grp 64, .sampled]) s t

/-! ### What a command writes -/

/-- The part is one of registers. -/
def Part.isReg : Part → Bool
  | .grp _ => true
  | .one _ _ => true
  | .all _ => true
  | _ => false

/-- The fields that a list names (field, instance, second index, value) have been written in its order, and no other bit
of any register has changed, live performance counters apart (group 64, R270). -/
def Writes (l : List (Field × Nat × Nat × Nat)) (s t : State) : Prop :=
  ∀ a, groupOf a ≠ 64 →
    t.word a = l.foldl (fun x e => if e.1.word e.2.1 e.2.2.1 = a then e.1.put e.2.2.1 x e.2.2.2 else x) (s.word a)

/-- Of what is no register, nothing has changed but the parts that a list names. -/
def Others (l : List Part) (s t : State) : Prop := Frame (fun p => p.isReg = true ∨ p ∈ l) s t

/-- The writes of fields of instance i from payload words named one by one; words that LEN does not reach write nothing
(R302). -/
def payload (a : XArgs) (i : Nat) (l : List (Nat × Field)) : List (Field × Nat × Nat × Nat) :=
  (l.filter fun e => decide (e.1 < a.ws.length)).map fun e => (e.2, i, 0, e.2.get 0 (a.w e.1))

/-- The tokens that a source emits: one for each enabled channel that selects it (R580). -/
def tokensOf (s : State) (src : Nat) (hop : Nat := 0) : List Token :=
  ((List.range 128).filter fun k => s.on Reg.EvrChan.EN k && s.rd Reg.EvrChan.SRC k == src).map fun k =>
    { chan := k, src := src, hop := hop }

/-- The active pair can carry out an X-class word: it holds the control lease and may execute (R258), the word takes no
fault (R300, R304, R309), and it is not one that a takeover re-executes (R541). -/
def XReady (x : XWord) (s : State) : Prop :=
  mayExecute s (activeCore s) = true ∧ leaseHeld s = true ∧ xFault s x = none ∧ mirrored s = none

/-- The instruction at the pc of the active pair has completed with a status, from sequencer state q: the status word
holds the status and the index (R293), the instruction has retired, and a command has ended with a status other than OK
and APPLIED_LATE (R262). -/
def XStatus (st : Nat) (q : SeqState) (s t : State) : Prop :=
  let c := activeCore s
  let p := s.proc c
  t.proc c = { p with pc := p.pc + 1, pfx := none, last := p.faultIdx, retired := p.retired + 1 } ∧ (∀ v, v ≠ c → t.proc v = s.proc v) ∧
    t.seq = { q with status := st, statusIdx := p.pc, xk := q.xk + 1, xlog := t.seq.xlog, log := t.seq.log, cur := t.seq.cur } ∧
    (match q.cur with
      | some (.command n) =>
        t.seq.xlog = q.xlog ∧ (if st ≤ 1 then t.seq.cur = q.cur else t.seq.cur = none) ∧
        (t.seq.log.map fun e => { e with xlog := [] }) = q.log.map fun e =>
          { e with xlog := [], open_ := if e.cseq = n ∧ 1 < st then false else e.open_,
                   status := if e.cseq = n ∧ 1 < st then st else e.status, idx := if e.cseq = n ∧ 1 < st then p.pc else e.idx }
      | _ => t.seq.cur = q.cur ∧ t.seq.log = q.log)

/-- An X-class operation has completed with a status: the registers written, the other parts that have changed, and what
the sequencers hold. -/
def XDid (st : Nat) (ws : List (Field × Nat × Nat × Nat)) (l : List Part) (q : SeqState) (s t : State) : Prop :=
  XStatus st q s t ∧ Writes ws s t ∧ Others (l ++ [.procs, .seq, .sampled]) s t

/-- An X-class operation has completed with a status from sequencer state q, and has changed nothing but the parts that a
list names, what completing an instruction changes, and live performance counts. -/
def XTouched (st : Nat) (l : List Part) (q : SeqState) (s t : State) : Prop :=
  XStatus st q s t ∧ Only (l ++ [.procs, .seq, .grp 64, .sampled]) s t

/-- The sequencers' state with a long operation under way (R301). -/
def startedLong (unit op : Nat) (x : XWord) (s : State) : SeqState :=
  { s.seq with longs := s.seq.longs ++ [{ cseq := curCseq s, idx := (s.proc (activeCore s)).pc, unit := unit, op := op,
                                          inst := (xargs s x).i, addr := (xargs s x).addr }] }

end Sys2Proof.Machine
end

