-- ==== Sys2Proof/WellFormed.lean ====
section
/-!
DEFINITION. Commands that the device and its surroundings can make: fields of instruction words within their widths
(Tables 8-1 and 8-9), and instances that the device has.
-/
namespace Sys2Proof

/-- The fields of an S-class or V-class word fit their places (Table 8-1). -/
def IWord.wf (w : IWord) : Bool := decide (w.d < 32 ∧ w.a < 32 ∧ w.b < 32 ∧ w.pred < 8 ∧ w.md < 16)

/-- The fields of an X-class word fit their places (Table 8-9). -/
def XWord.wf (x : XWord) : Bool := decide (x.ar < 8 ∧ x.len < 128 ∧ x.sr < 32 ∧ x.inst < 65536 ∧ x.arg < 65536)

/-- Instances of the stages that have a timeout (Table 1-13): logical row processors at RPA, views at SST, heads at HIS, streams at
OVS; RTK, RCL and DLG have one. -/
def stageInst (stage i : Nat) : Bool :=
  match stage with
  | 5 => decide (i < 64)
  | 6 => decide (i < 16)
  | 10 => decide (i < 32)
  | 12 => decide (i < 8)
  | 7 | 8 | 9 => true
  | _ => false

/-- A command names what the device has, and its word's fields fit. -/
def Instr.wf (i : Instr) : Bool :=
  match i with
  | .add u w => decide (u < 76) && w.wf
  | .sub u w => decide (u < 76) && w.wf
  | .and_ u w => decide (u < 76) && w.wf
  | .or_ u w => decide (u < 76) && w.wf
  | .xor_ u w => decide (u < 76) && w.wf
  | .shl u w => decide (u < 76) && w.wf
  | .shr u w => decide (u < 76) && w.wf
  | .sra u w => decide (u < 76) && w.wf
  | .mul u w => decide (u < 76) && w.wf
  | .mulh u w => decide (u < 76) && w.wf
  | .slt u w => decide (u < 76) && w.wf
  | .min_ u w => decide (u < 76) && w.wf
  | .max_ u w => decide (u < 76) && w.wf
  | .lda u w => decide (u < 76) && w.wf
  | .adda u w => decide (u < 76) && w.wf
  | .movsa u w => decide (u < 76) && w.wf
  | .movas u w => decide (u < 76) && w.wf
  | .ld u w _ => decide (u < 76) && w.wf
  | .st u w => decide (u < 76) && w.wf
  | .krd u w => decide (u < 76) && w.wf
  | .beq u w => decide (u < 76) && w.wf
  | .bne u w => decide (u < 76) && w.wf
  | .blt u w => decide (u < 76) && w.wf
  | .bge u w => decide (u < 76) && w.wf
  | .bltu u w => decide (u < 76) && w.wf
  | .bgeu u w => decide (u < 76) && w.wf
  | .jal u w => decide (u < 76) && w.wf
  | .jr u w => decide (u < 76) && w.wf
  | .end_ u w => decide (u < 76) && w.wf
  | .evpost u w => decide (u < 76) && w.wf
  | .evfire u w => decide (u < 76) && w.wf
  | .rdt u w => decide (u < 76) && w.wf
  | .fence u w => decide (u < 76) && w.wf
  | .xat u w => decide (u < 76) && w.wf
  | .xstat u w => decide (u < 76) && w.wf
  | .xwait u w => decide (u < 76) && w.wf
  | .nop u w => decide (u < 76) && w.wf
  | .pfx u w => decide (u < 76) && w.wf
  | .vadd u w => decide (u < 76) && w.wf
  | .vsub u w => decide (u < 76) && w.wf
  | .vabsd u w => decide (u < 76) && w.wf
  | .vmin u w => decide (u < 76) && w.wf
  | .vmax u w => decide (u < 76) && w.wf
  | .vand u w => decide (u < 76) && w.wf
  | .vor u w => decide (u < 76) && w.wf
  | .vxor u w => decide (u < 76) && w.wf
  | .vshl u w => decide (u < 76) && w.wf
  | .vshr u w => decide (u < 76) && w.wf
  | .vrshr u w => decide (u < 76) && w.wf
  | .vmul u w => decide (u < 76) && w.wf
  | .vmulsh u w => decide (u < 76) && w.wf
  | .vmac u w => decide (u < 76) && w.wf
  | .vlerp u w => decide (u < 76) && w.wf
  | .vcmpeq u w => decide (u < 76) && w.wf
  | .vcmpne u w => decide (u < 76) && w.wf
  | .vcmplt u w => decide (u < 76) && w.wf
  | .vcmple u w => decide (u < 76) && w.wf
  | .vcmpgt u w => decide (u < 76) && w.wf
  | .vcmpge u w => decide (u < 76) && w.wf
  | .vsel u w => decide (u < 76) && w.wf
  | .vmov u w => decide (u < 76) && w.wf
  | .vwrd u w => decide (u < 76) && w.wf
  | .vcsh u w => decide (u < 76) && w.wf
  | .vwiden u w => decide (u < 76) && w.wf
  | .vnarrow u w => decide (u < 76) && w.wf
  | .vlut u w => decide (u < 76) && w.wf
  | .lutld u w => decide (u < 76) && w.wf
  | .vhist u w => decide (u < 76) && w.wf
  | .hrd u w => decide (u < 76) && w.wf
  | .hclr u w => decide (u < 76) && w.wf
  | .vrsum u w => decide (u < 76) && w.wf
  | .vrmin u w => decide (u < 76) && w.wf
  | .vrmax u w => decide (u < 76) && w.wf
  | .pcnt u w => decide (u < 76) && w.wf
  | .pand u w => decide (u < 76) && w.wf
  | .por u w => decide (u < 76) && w.wf
  | .pxor u w => decide (u < 76) && w.wf
  | .pandn u w => decide (u < 76) && w.wf
  | .vpbit u w => decide (u < 76) && w.wf
  | .vld u w _ _ => decide (u < 76) && w.wf
  | .vst u w => decide (u < 76) && w.wf
  | .out u w => decide (u < 76) && w.wf
  | .wpush u w => decide (u < 76) && w.wf
  | .cntclr unit x => decide (unit < 64) && x.wf
  | .evclr unit x => decide (unit < 64) && x.wf
  | .seqLease x => x.wf
  | .seqWdog x => x.wf
  | .seqHandler x => x.wf
  | .slaCfg x => x.wf
  | .slaTxtaps x => x.wf
  | .slaPower x => x.wf
  | .slaTrain x => x.wf
  | .slaPrbs x => x.wf
  | .slaInject x => x.wf
  | .slaEyescan x => x.wf
  | .slaRefsel x => x.wf
  | .slaEyecfg x => x.wf
  | .hauBond x => x.wf
  | .hauCfg x => x.wf
  | .hauMap x => x.wf
  | .hauEballoc x => x.wf
  | .hauStart x => x.wf
  | .hauStop x => x.wf
  | .hauShare x => x.wf
  | .hauCamreg x => x.wf
  | .hauEslcfg x => x.wf
  | .pfuEnccfg x => x.wf
  | .pfuSsicfg x => x.wf
  | .pfuPrbcfg x => x.wf
  | .pfuPpop x => x.wf
  | .pfuDivcfg x => x.wf
  | .pfuWpcfg x => x.wf
  | .pfuWpset x => x.wf
  | .tesCfg x => x.wf
  | .tesGrid x => x.wf
  | .tesXset x => x.wf
  | .tesXsel x => x.wf
  | .tesCut x => x.wf
  | .tesCutFabric x => x.wf
  | .rpaLoad x => x.wf
  | .rpaKset x => x.wf
  | .rpaSmwrite x => x.wf
  | .rpaResume x => x.wf
  | .rpaCfg x => x.wf
  | .sstView x => x.wf
  | .sstGeom x => x.wf
  | .sstSeam x => x.wf
  | .sstBlend x => x.wf
  | .sstEdge x => x.wf
  | .rtkPlane x => x.wf
  | .rtkStraw x => x.wf
  | .rtkFeat x => x.wf
  | .rclModel x => x.wf
  | .rclFeatmap x => x.wf
  | .dlgMarkcfg x => x.wf
  | .dlgMlate x => x.wf
  | .dlgRing x => x.wf
  | .dlgSumpcfg x => x.wf
  | .hisCfg x => x.wf
  | .hisCrop x => x.wf
  | .cmpCfg x => x.wf
  | .cmpFrame x => x.wf
  | .ovsCfg x => x.wf
  | .ovsCoef x => x.wf
  | .ovsStart x => x.wf
  | .ovsStop x => x.wf
  | .dmcCfg x => x.wf
  | .dmcTrain x => x.wf
  | .dmcXormap x => x.wf
  | .dmcSpare x => x.wf
  | .dmcRetire x => x.wf
  | .dmaLinear x => x.wf
  | .dmaRect x => x.wf
  | .dmaGather x => x.wf
  | .dmaFill x => x.wf
  | .dmaCompare x => x.wf
  | .dmaFence x => x.wf
  | .memMode x => x.wf
  | .memPower x => x.wf
  | .memRowstore x => x.wf
  | .hifMircfg x => x.wf
  | .wlkNode x => x.wf
  | .wlkRoute x => x.wf
  | .wlkPort x => x.wf
  | .wlkEdge x => x.wf
  | .wlkFwd x => x.wf
  | .wlkLease x => x.wf
  | .tntInc x => x.wf
  | .tntOffset x => x.wf
  | .tntPtp x => x.wf
  | .tntPps x => x.wf
  | .evrChan x => x.wf
  | .evrTask x => x.wf
  | .evrGate x => x.wf
  | .twpCfg x => x.wf
  | .twpXfer x => x.wf
  | .pbaBudget x => x.wf
  | .pbaVbounds x => x.wf
  | .pbaTarget x => x.wf
  | .pbaMonitor x => x.wf
  | .pbaEmber x => x.wf
  | .calRun x => x.wf
  | .calCfg x => x.wf
  | .calLimits x => x.wf
  | .pmuCntset x => x.wf
  | .pmuSnap x => x.wf
  | .pmuSnapFabric x => x.wf
  | .pmuSampcfg x => x.wf
  | .slcAdvance x => x.wf
  | .slcAdvanceFuses x => x.wf
  | .slcWipe x => x.wf
  | .slcKcopy x => x.wf
  | .streamedOpIssue => true
  | .epochWaitResume => true
  | .loadWaitResume => true
  | .modelWaitResume => true
  | .ctrlPacketArrive _ => true
  | .cutPacketArrive _ => true
  | .gapPacketArrive _ => true
  | .progressMarkArrive unit => (unit == 8 || unit == 9)
  | .stageTimeout stage inst => stageInst stage inst
  | .sumpNoteReceive _ _ _ d _ => (let src := (d >>> 24).toNat % 128; decide (src < 0x38 ∨ (0x40 ≤ src ∧ src < 0x50)))
  | .sumpSpanClose n => decide (n < 4096)
  | .sumpSpanDeliver n => decide (n < 4096)
  | .totaliserReport k => decide (k < 256)
  | .laneWake n => decide (n < 256)
  | .signalDetect n _ => decide (n < 256)
  | .blockLock n => decide (n < 256)
  | .lockLost n => decide (n < 272)
  | .relockTimeout n => decide (n < 256)
  | .trainStepTimeout n => decide (n < 256)
  | .trainRetry n => decide (n < 256)
  | .hiberWindow n _ => decide (n < 256)
  | .refMonitorWindow g _ _ => decide (g < 16)
  | .skipReceive n _ => decide (n < 256)
  | .alignReceive n _ _ _ => decide (n < 256)
  | .alignTimeout n => decide (n < 256)
  | .prbsResync n => decide (n < 256)
  | .eyescanPointDone n _ => decide (n < 256)
  | .tapackReceive n _ _ _ _ _ _ _ => decide (n < 256)
  | .taptoExpiry n => decide (n < 256)
  | .rateChangeRetrain h => decide (h < 32)
  | .lineStart h _ _ _ _ _ _ _ => decide (h < 32)
  | .dataColumn h _ => decide (h < 32)
  | .lineEnd h _ _ _ => decide (h < 32)
  | .statusCmdrsp h _ _ _ => decide (h < 32)
  | .xsetackReceive h _ _ _ => decide (h < 32)
  | .camEvent h _ _ => decide (h < 32)
  | .statusUnknownSub b => decide (b.head < 32)
  | .cmdtoExpiry h => decide (h < 32)
  | .xsettoExpiry h => decide (h < 32)
  | .headBringupRegs h _ _ _ _ _ _ n => decide (h < 32 ∧ n ≤ 6)
  | .lineCompletionTimeout h => decide (h < 32)
  | .triggerLineTimeout h => decide (h < 32)
  | .blktoExpiry h k => decide (h < 32) && decide (k < 32)
  | .gapflExpiry h => decide (h < 32)
  | .hauStopComplete h => decide (h < 32)
  | .stripRun l => decide (l < 64)
  | .encEdge c _ _ => decide (c < 8)
  | .wireFaultEnter c pair => decide (c < 8) && decide (pair < 3)
  | .wireFaultExit c pair _ => decide (c < 8) && decide (pair < 3)
  | .illactClear c => decide (c < 8)
  | .indexEdge c => decide (c < 8)
  | .observerBoundCheck => true
  | .ssiPoll k _ => decide (k < 4)
  | .ssiFrameEnd k _ _ => decide (k < 4)
  | .ssiNorespTimeout k => decide (k < 4)
  | .probeEdge p _ => decide (p < 8)
  | .divStep n => decide (n < 8)
  | .wpSourceFault => true
  | .wpSourceRecover => true
  | .coastExpiry => true
  | .triggerCommit h _ => decide (h < 32)
  | .triggerIssue h _ => decide (h < 32)
  | .edgeTrigger h => decide (h < 32)
  | .trgPulseEnd h => decide (h < 32)
  | .markFire m => decide (m < 16)
  | .markPulseEnd m => decide (m < 16)
  | .stripAccept l => decide (l < 64)
  | .viewRowForm v => decide (v < 16)
  | .edgeExchangeReceive _ v _ _ => decide (v < 16)
  | .edgetoExpiry v => decide (v < 16)
  | .viewRowProcess v => decide (v < 16)
  | .viewGapProcess v => decide (v < 16)
  | .viewStopProcess v => decide (v < 16)
  | .boundaryWordReceive _ v _ _ _ => decide (v < 16)
  | .boundaryWordTimeout v _ => decide (v < 16)
  | .rtkRecordEnqueue => true
  | .recordClassify => true
  | .ledgerRecordWrite which => decide (which < 3)
  | .rd0HostCopy => true
  | .rd1Forward => true
  | .fwdAckReceive _ _ => true
  | .fwdTimeout => true
  | .forwardedRecordReceive _ _ => true
  | .contactTableExpiry => true
  | .historyRowTake h => decide (h < 32)
  | .hflushExpiry h => decide (h < 32)
  | .frameCompress h c => decide (h < 32) && decide (c < 32)
  | .frameWrite h => decide (h < 32)
  | .cropComplete _ => true
  | .cmpFrameComplete _ => true
  | .compressorIdleRelease c => decide (c < 32)
  | .ovsSourceRow k => decide (k < 8)
  | .ovsRowDeliver k => decide (k < 8)
  | .ovsGapReceive k => decide (k < 8)
  | .ovsStopComplete k => decide (k < 8)
  | .inboundBulkReceive _ k _ => decide (k < 8)
  | .dmaDescriptorStart c => decide (c < 16)
  | .dmaDescriptorComplete c _ => decide (c < 16)
  | .dmaTimeout c _ => decide (c < 16)
  | .dmaFenceComplete c => decide (c < 16)
  | .dramTrainingStart c => decide (c < 8)
  | .dramTrainingEnd c _ => decide (c < 8)
  | .periodicRetrain c _ _ => decide (c < 8)
  | .dramParityError c _ => decide (c < 8)
  | .rankMigrationDone c => decide (c < 8)
  | .rankVerifyDone c _ => decide (c < 8)
  | .bankBusyRetry r n => decide (r < 102) && decide (n < 256)
  | .cmddbWrite _ => true
  | .commandStart _ => true
  | .commandComplete _ => true
  | .completionEntryWrite => true
  | .producerWordWrite ring => decide (ring < 2)
  | .mirrorRefresh => true
  | .cenWrite _ _ => true
  | .ccconsWrite _ _ => true
  | .hlconsWrite _ _ => true
  | .menWrite _ _ => true
  | .bootdbWrite _ => true
  | .resetkeyWrite _ => true
  | .bar0Evfire _ => true
  | .bar0RegWrite _ _ _ => true
  | .bar2Access _ _ _ => true
  | .functionLevelReset => true
  | .pcieReset => true
  | .helloSend p => decide (p < 4)
  | .helloReceive p _ _ _ _ => decide (p < 4)
  | .delayMeasure p _ _ => decide (p < 4)
  | .syncSend => true
  | .syncReceive _ _ _ _ _ _ _ _ _ _ => true
  | .pstoExpiry => true
  | .leaseRenewalSend => true
  | .leaseRenewalReceive _ _ _ => true
  | .leaseAckReceive _ _ _ _ => true
  | .fabricLeaseExpiry => true
  | .candidateTimeout => true
  | .termRequestReceive _ _ _ => true
  | .termGrantReceive _ _ _ => true
  | .cutAnnounceReceive _ _ _ _ _ => true
  | .cutReplyReceive _ _ _ => true
  | .cutSubtreeTimeout p => decide (p < 4)
  | .cutMasterTimeout => true
  | .cutCommitReceive _ _ _ => true
  | .cutCancelReceive _ _ _ => true
  | .cutOrphanTimeout => true
  | .packetForward _ _ _ => true
  | .fabricSnapRequestReceive _ _ _ => true
  | .tbrefFault => true
  | .ppsInEdge _ => true
  | .ppsOutFire => true
  | .ppsOutEnd => true
  | .ethFrameReceive e _ _ => decide (e < 2)
  | .ethFrameTransmit e => decide (e < 2)
  | .ethRingPoll e => decide (e < 2)
  | .evioEdge n _ => decide (n < 16)
  | .channelToken c _ => decide (c < 128)
  | .taskInputToken t => decide (t < 256)
  | .activationStart t => decide (t < 256)
  | .activationEnd t => decide (t < 256)
  | .twXferComplete p _ _ _ => decide (p < 4)
  | .targetStretchTimeout p => decide (p < 4)
  | .controllerSclTimeout p _ => decide (p < 4)
  | .stuckRecoveryRetry p _ => decide (p < 4)
  | .mboxWrite _ _ => true
  | .twTargetWrite port _ _ => (port == 0 || port == 3)
  | .tw3Dcmd _ _ => true
  | .tw0WakeMatch => true
  | .grantIssue => true
  | .voltageLoopStep _ => true
  | .vregRetry => true
  | .supplyWarningEnter r => decide (r < 7)
  | .supplyWarningExit r _ => decide (r < 7)
  | .railBelowReset r => decide (r < 7)
  | .thermalWarning _ => true
  | .thermalShutdown _ => true
  | .thermalRelease _ => true
  | .emberWake => true
  | .vauxPowerOn => true
  | .rstNAssert => true
  | .tamperDetect => true
  | .secureWipeEnd _ => true
  | .kindlingStart _ _ => true
  | .imageLoadDone _ _ => true
  | .fabricBootTimeout => true
  | .kcopyComplete => true
  | .leaseRenewTick => true
  | .seqAbdicate _ => true
  | .seqLeaseExpiry => true
  | .takeover => true
  | .sqwdogExpiry => true
  | .seqPairSelftest _ => true
  | .failover u _ => decide (u < 72)
  | .rpWatchdog u => decide (u < 72)
  | .plannedRotation l inn => decide (l < 64) && decide (inn < 72)
  | .rotationHandover l => decide (l < 64)
  | .selfTest u _ _ _ => decide (u < 72)
  | .selfTestRetry u => decide (u < 72)
  | .cecntRateCheck u _ => decide (u < 72)
  | .canaryMarginLow u _ => decide (u < 72)
  | .calTargetRun t _ _ _ _ _ => decide (t < 5)
  | .snapshotTake => true
  | .sampleRecord k stall _ _ _ => decide (k < 76 ∧ stall ≤ 10)
  | .eqAdaptDone n _ _ => decide (n < 256)
  | .eqBoundHold n _ _ => decide (n < 256)
  | .prbsError n _ => decide (n < 256)
  | .unknownTypeBlock b => decide (b.lane < 256)
  | .codeCopyComplete u => decide (u < 72)
  | .modelCopyComplete => true
  | .twBusFree p => decide (p < 4)
  | .vcorePowerGood => true
  | .tamperEnd => true
  | .liveholdExpiry _ => true

end Sys2Proof
end

