-- ==== Sys2Proof/Certificates/Slice0/Obligations.lean ====
section
/-!
DEFINITION. The statements for the provers.
-/
open Sys2Proof Sys2Proof.Machine

/-! ### Instructions -/

/-- ADD to MAX (R281, R286, R289, Table 8-6).
Readings and choices of the model in it: log entries 4, 7. -/
def Obligations.ScalarArithmetic : Prop :=
  ∀ e ∈ ([(Instr.add, 3, fun w a b => if mbit w 1 then BitVec.ofInt 32 (clampI (-2147483648) 2147483647 (a.toInt + b.toInt)) else a + b),
      (Instr.sub, 3, fun w a b => if mbit w 1 then BitVec.ofInt 32 (clampI (-2147483648) 2147483647 (a.toInt - b.toInt)) else a - b),
      (Instr.and_, 1, fun _ a b => a &&& b), (Instr.or_, 1, fun _ a b => a ||| b), (Instr.xor_, 1, fun _ a b => a ^^^ b),
      (Instr.shl, 3, fun w a b =>
        if mbit w 1 then BitVec.ofInt 32 (clampI (-2147483648) 2147483647 (a.toInt * 2 ^ (b.toNat % 32))) else a <<< (b.toNat % 32)),
      (Instr.shr, 1, fun _ a b => a >>> (b.toNat % 32)), (Instr.sra, 1, fun _ a b => a.sshiftRight (b.toNat % 32)),
      (Instr.mul, 1, fun _ a b => a * b),
      (Instr.mulh, 5, fun w a b =>
        if mbit w 2 then ((a.setWidth 64 * b.setWidth 64) >>> 32).setWidth 32 else ((a.signExtend 64 * b.signExtend 64) >>> 32).setWidth 32),
      (Instr.slt, 5, fun w a b => if (if mbit w 2 then a.ult b else a.slt b) then 1 else 0),
      (Instr.min_, 5, fun w a b => if mbit w 2 then BitVec.ofNat 32 (min a.toNat b.toNat) else BitVec.ofInt 32 (min a.toInt b.toInt)),
      (Instr.max_, 5, fun w a b => if mbit w 2 then BitVec.ofNat 32 (max a.toNat b.toNat) else BitVec.ofInt 32 (max a.toInt b.toInt))] :
      List ((Nat → IWord → Instr) × Nat × (IWord → BitVec 32 → BitVec 32 → BitVec 32))),
    ∀ (u : Nat) (w : IWord) (s : State), Takes u w e.2.1 s → Bare u s →
      let p := s.proc (core u)
      let r := e.2.2 w (p.sreg w.a) (if mbit w 0 then w.imm else p.sreg w.b)
      ∃ t, exec (e.1 u w) s = .next t ∧
        Retired (core u) (p.pc + 1) (if w.d = 0 then p else { p with s := Tbl.set (fun _ => 0) p.s w.d r }) [] s t ∧
        (∀ n, (t.proc (core u)).sreg n = if n = w.d ∧ n ≠ 0 then r else p.sreg n)

/-- LDA, ADDA, MOVSA, MOVAS, KRD (R279, R289, Table 8-6).
Readings and choices of the model in it: log entry 4. -/
def Obligations.AddressMoves : Prop :=
  ∀ (u : Nat) (w : IWord) (s : State),
    let p := s.proc (core u)
    let ext : Bool → BitVec 48 := fun sx => match p.pfx with
      | some q => BitVec.ofNat 48 (q.2 % 65536 * 2 ^ 32 + w.imm.toNat)
      | none => if sx then w.imm.signExtend 48 else w.imm.setWidth 48
    let toA := fun c x => ∃ t, exec c s = .next t ∧
      Retired (core u) (p.pc + 1) { p with a := Tbl.set (fun _ => 0) p.a w.d x } [] s t ∧
      (∀ n, (t.proc (core u)).areg n = if n = w.d then x else p.areg n)
    let toS := fun c (x : BitVec 32) => ∃ t, exec c s = .next t ∧
      Retired (core u) (p.pc + 1) (if w.d = 0 then p else { p with s := Tbl.set (fun _ => 0) p.s w.d x }) [] s t ∧
      (∀ n, (t.proc (core u)).sreg n = if n = w.d ∧ n ≠ 0 then x else p.sreg n)
    (Takes u w 0 s → w.d < 8 → toA (.lda u w) (ext false)) ∧
    (Takes u w 1 s → w.d < 8 → w.a < 8 →
      toA (.adda u w) (p.areg w.a + if mbit w 0 then ext true else (p.sreg w.b).signExtend 48)) ∧
    (Takes u w 1 s → Bare u s → w.a < 8 →
      toS (.movsa u w) (if mbit w 0 then ((p.areg w.a).extractLsb' 32 16).setWidth 32 else (p.areg w.a).extractLsb' 0 32)) ∧
    (Takes u w 0 s → Bare u s → w.d < 8 →
      toA (.movas u w) (BitVec.ofNat 48 ((p.sreg w.b).toNat % 65536 * 2 ^ 32 + (p.sreg w.a).toNat))) ∧
    (Takes u w 3 s → Bare u s → u < 72 →
      toS (.krd u w) ((p.kreg (w.a + if mbit w 1 then 32 else 0)).extractLsb' (if mbit w 0 then 32 else 0) 32))

/-- Branches and jumps (R289, R290). A target within the code: 8,192 instructions of a row processor, the length of the
command's code or of the control program for a sequencer.
Readings and choices of the model in it: log entries 4, 42, 132. -/
def Obligations.Branches : Prop :=
  ∀ (u : Nat) (w : IWord) (s : State), Takes u w 0 s → Bare u s →
    let p := s.proc (core u)
    let inCode : Int → Prop := fun n => 0 ≤ n ∧ n < if isRp u then (8192 : Int) else s.seq.codeLen
    let goes := fun c (q : Proc) (n : Int) =>
      (inCode n → ∃ t, exec c s = .next t ∧ Retired (core u) n.toNat q [] s t) ∧
      (¬ inCode n → intoProgram s (core u) n = true → ∃ t, exec c s = .next t ∧ Retired (core u) n.toNat q [.seq] s t ∧
        t.seq = { s.seq with base := s.power.load, codeLen := progLen s }) ∧
      (¬ inCode n → intoProgram s (core u) n = false → exec c s = .next (procFault (core u) 2 s))
    let a := p.sreg w.a
    let b := p.sreg w.b
    let br := fun c (q : Prop) =>
      (q → goes c p (p.pc + w.imm.toInt)) ∧ (¬q → ∃ t, exec c s = .next t ∧ Retired (core u) (p.pc + 1) p [] s t)
    br (.beq u w) (a = b) ∧ br (.bne u w) (a ≠ b) ∧
    br (.blt u w) (a.toInt < b.toInt) ∧ br (.bge u w) (b.toInt ≤ a.toInt) ∧
    br (.bltu u w) (a.toNat < b.toNat) ∧ br (.bgeu u w) (b.toNat ≤ a.toNat) ∧
    goes (.jal u w) (if w.d = 0 then p else { p with s := Tbl.set (fun _ => 0) p.s w.d (BitVec.ofNat 32 (p.pc + 1)) })
      (p.pc + w.imm.toInt) ∧
    goes (.jr u w) p a.toNat

/-- LD, ST, VLD, VST (R10, R12, R285, R290, R298). The address of an access is Aa + IMM modulo 2^48.
Readings and choices of the model in it: log entries 4, 8, 23, 95, 130, 131. -/
def Obligations.LoadsAndStores : Prop :=
  ∀ (u : Nat) (w : IWord) (s : State),
    let c := core u
    let p := s.proc c
    let a := p.addr w
    let at_ : Nat → Nat := fun k => physAddr c ((a + k) % 281474976710656)
    let n := 2 ^ (w.md % 4)
    let read : Nat → Nat := fun n => bytesNat ((List.range n).map fun k => s.readByte (at_ k))
    (Takes u w 7 s → w.a < 8 → w.md % 4 ≠ 3 → (isRp u ∨ secureWait s a = false) → accessFault s c false a n n = none →
      ∃ t, exec (.ld u w 0) s = .next t ∧
        Retired c (p.pc + 1) (p.setS w.d (if mbit w 2 then BitVec.ofInt 32 (signed (8 * n) (read n)) else BitVec.ofNat 32 (read n))) [] s t) ∧
    (TakesV u w 0 [0] s → w.a < 8 → accessFault s c false a 1024 64 = none →
      ∃ t, exec (.vld u w 0 0) s = .next t ∧
        Retired c (p.pc + 1) (p.setV w.d (maskedElems 0 (p.preg w.pred) (p.vreg w.d) (lane (BitVec.ofNat 8192 (read 1024))))) [] s t) ∧
    (Takes u w 3 s → w.a < 8 → w.md % 4 ≠ 3 → (isRp u ∨ secureWait s a = false) → accessFault s c true a n n = none →
      (dirtyAfter s c p a n).length ≤ 512 ∨ dirtyAfter s c p a n = p.dirty →
      ∃ t, exec (.st u w) s = .next t ∧
        Retired c (p.pc + 1) { p with dirty := dirtyAfter s c p a n } [.mem, .poison] s t ∧
        (∀ k, k < n → storeIgnored ((a + k) % 281474976710656) = false → t.byte (at_ k) = ((p.sreg w.b) >>> (8 * k)).setWidth 8) ∧
        (∀ b, (∀ k, k < n → storeIgnored ((a + k) % 281474976710656) = false → b ≠ at_ k) → t.byte b = s.byte b)) ∧
    (TakesV u w 0 [0] s → w.a < 8 → accessFault s c true a 1024 64 = none →
      (dirtyAfter s c p a 1024).length ≤ 512 ∨ dirtyAfter s c p a 1024 = p.dirty →
      ∃ t, exec (.vst u w) s = .next t ∧
        Retired c (p.pc + 1) { p with dirty := dirtyAfter s c p a 1024 } [.mem, .poison] s t ∧
        (∀ k, k < 1024 → (p.preg w.pred).getLsbD (k / 2) = true → storeIgnored ((a + k) % 281474976710656) = false →
          t.byte (at_ k) = ((p.vreg w.b) >>> (8 * k)).setWidth 8) ∧
        (∀ b, (∀ k, k < 1024 → (p.preg w.pred).getLsbD (k / 2) = true →
          storeIgnored ((a + k) % 281474976710656) = false → b ≠ at_ k) → t.byte b = s.byte b))

/-- EVPOST, EVFIRE, RDT, NOP, FENCE (log entry 8), PFX (R242, R279, R291, R580, R585, R589).
Readings and choices of the model in it: log entries 4, 8. -/
def Obligations.EventsTimeAndPrefix : Prop :=
  ∀ (u : Nat) (w : IWord) (s : State),
    let c := core u
    let p := s.proc c
    let fed : Nat → List Nat := fun src => (List.range 128).filter fun k => s.on Reg.EvrChan.EN k && s.rd Reg.EvrChan.SRC k == src
    let ch := (p.sreg w.a + w.imm).toNat % 128
    let hi : Nat → BitVec 32 := fun x => BitVec.ofNat 32 (x / 4294967296)
    (Takes u w 0 s → Bare u s →
      ∃ t, exec (.evpost u w) s = .next t ∧ Retired c (p.pc + 1) p [.tokens] s t ∧
        t.tokens = s.tokens ++ if replaying p then []
          else (fed (508 + w.imm.toNat % 4)).map fun k => { chan := k, src := 508 + w.imm.toNat % 4, hop := hopOf s c }) ∧
    (Takes u w 0 s → Bare u s →
      ∃ t, exec (.evfire u w) s = .next t ∧ Retired c (p.pc + 1) p [.tokens] s t ∧
        t.tokens = s.tokens ++ if replaying p ∨ s.rd Reg.EvrChan.EN ch = 0 then [] else [{ chan := ch, src := 512, hop := hopOf s c }]) ∧
    (Takes u w 3 s → Bare u s →
      ∃ t, exec (.rdt u w) s = .next t ∧
        Retired c (p.pc + 1)
          (if w.md = 0 then { p.setS w.d (BitVec.ofNat 32 s.raw) with latRaw := some (hi s.raw) }
           else if w.md = 2 then { p.setS w.d (BitVec.ofNat 32 s.pt) with latPt := some (hi s.pt) }
           else p.setS w.d (if w.md = 1 then p.latRaw.getD (hi s.raw) else p.latPt.getD (hi s.pt))) [] s t) ∧
    (Takes u w 0 s → Bare u s → ∃ t, exec (.nop u w) s = .next t ∧ Retired c (p.pc + 1) p [] s t) ∧
    (Takes u w 0 s → Bare u s → ∃ t, exec (.fence u w) s = .next t ∧ Retired c (p.pc + 1) p [] s t) ∧
    (Ready u s → Bare u s → exec (.pfx u w) s = .next (s.setProc c { p with pfx := some (p.pc, w.imm.toNat), pc := p.pc + 1 }))

/-- XAT, XSTAT, XWAIT (R260, R262, R292, R293). The long operations of a command carry its CSEQ, those of a handler 0.
Readings and choices of the model in it: log entries 4, 10, 99, 100, 118. -/
def Obligations.SequencerControl : Prop :=
  ∀ (u : Nat) (w : IWord) (s : State), 72 ≤ u → Bare u s →
    let c := core u
    let p := s.proc c
    let n := (p.sreg w.a + BitVec.ofNat 32 (w.imm.toNat % 32)).toNat
    let mine := s.seq.longs.filter fun l => l.cseq == match s.seq.cur with | some (.command q) => q | _ => 0
    (Takes u w 7 s → w.md % 4 ≠ 3 →
      ∃ t, exec (.xat u w) s = .next t ∧ Retired c (p.pc + 1) p [.seq] s t ∧
        t.seq.xat.mode = w.md % 4 ∧ t.seq.xat.dir = (if mbit w 2 then 1 else 0) ∧
        t.seq.xat.value = (p.sreg w.d).toNat * 4294967296 + (p.sreg w.b).toNat ∧
        t.seq.xat.target = (match w.imm.toNat / 1073741824 with
            | 0 => if n ≤ 31 then .head n else .none
            | 1 => if n ≤ 15 then .view n else .none
            | 2 => .heads
            | _ => .views) ∧
        t.seq = { s.seq with xat := t.seq.xat }) ∧
    (Takes u w 0 s →
      ∃ t, exec (.xstat u w) s = .next t ∧
        Retired c (p.pc + 1) (p.setS w.d (BitVec.ofNat 32 (s.seq.statusIdx % 65536 * 65536 + s.seq.status))) [] s t) ∧
    (Takes u w 0 s → (∃ l ∈ mine, l.done = none) →
      exec (.xwait u w) s = .next ({ s with seq := { s.seq with xwaits := true } }.setProc c { p with last := p.pc })) ∧
    (Takes u w 0 s → (∀ l ∈ mine, l.done = some 0) →
      ∃ t, exec (.xwait u w) s = .next t ∧ Retired c (p.pc + 1) p [.seq] s t ∧
        t.seq = { s.seq with status := 0, statusIdx := p.pc, xwaits := false }) ∧
    (∀ l st, Takes u w 0 s → (∀ m ∈ mine, m.done ≠ none) → (mine.find? fun m => m.done != some 0) = some l → l.done = some st →
      ∃ t, exec (.xwait u w) s = .next t ∧ Retired c (p.pc + 1) p [.seq] s t ∧ t.seq.status = st ∧ t.seq.statusIdx = p.pc ∧
        (∀ q, s.seq.cur = some (.command q) → st ≠ 1 → t.seq.cur = none ∧
          t.seq.log = s.seq.log.map fun e => if e.cseq = q then { e with open_ := false, status := st, idx := l.idx } else e))

/-- END (R239, R240, R250 to R252, R262, R265).
Readings and choices of the model in it: log entries 4, 63, 93. -/
def Obligations.EndOfProgram : Prop :=
  ∀ (u : Nat) (w : IWord) (s : State), Takes u w 0 s → Bare u s →
    let c := core u
    let p := s.proc c
    let idle := fun (t : State) => (t.proc u).run = none ∧ (t.proc u).out = [] ∧ (t.proc u).retired = 0 ∧ (∀ v, v ≠ u → t.proc v = s.proc v)
    (∀ r, u < 72 → p.run = some r → endFault s u p = true → exec (.end_ u w) s = .next (procFault u pfMIRRORX s)) ∧
    (∀ r, u < 72 → p.run = some r → r.init = false → r.lrp < 64 → endFault s u p = false →
      ∃ t, exec (.end_ u w) s = .next t ∧ idle t ∧
        (∃ o, t.rpa.outbox = s.rpa.outbox ++ [o] ∧ o.tag = (gapBefore r.tag s).1 ∧ o.lrp = r.lrp ∧ o.outMask = r.outMask ∧ o.slots = p.out ∧
          o.valid = p.outP ∧ o.hold = (p.sreg 31).toNat % 65536 ∧ o.k8 = p.kreg 8 ∧ o.k9 = p.kreg 9) ∧
        (∃ j, t.rpa.journals = s.rpa.journals ++ [j] ∧ j.lrp = r.lrp ∧ j.lseq = r.tag.lseq ∧ j.strip = r.tag.strip ∧ j.area = r.area) ∧
        t.rd Reg.Lrp.RUNCNT r.lrp = (s.rd Reg.Lrp.RUNCNT r.lrp + 1) % 4294967296 ∧
        ((areaOf s r.area).wdepth = 0 → s.rpa.haltArea = [] → landed s r.lrp = [] → r.lates = [] →
          Only [.one .lrp r.lrp, .procs, .rpa, .progress, .held, .grp 64, .sampled] s t)) ∧
    (∀ r, u < 72 → p.run = some r → r.init = true → r.restore = false →
      ∃ t, exec (.end_ u w) s = .next t ∧ (t.proc u).run = some { r with init := false } ∧
        (t.proc u).pc = ((Tbl.get (fun _ => none) (areaOf s r.area).heads r.tag.head).map (·.rowOff)).getD 0 ∧
        (∀ v, v ≠ u → t.proc v = s.proc v) ∧ Only [.procs, .rpa, .mem, .free, .grp 64, .sampled] s t) ∧
    (∀ r, u < 72 → p.run = some r → r.init = true → r.restore = true →
      ∃ t, exec (.end_ u w) s = .next t ∧ idle t ∧ Only [.one .rpaUnit u, .procs, .rpa, .mem, .grp 64, .sampled] s t ∧
        t.rd Reg.RpaDep.PSTATE u = if s.rd Reg.RpaDep.PSTATE u = 3 ∧ (∀ e ∈ s.dep.rotations, e.unit ≠ u) ∧ (∀ e ∈ s.dep.restores, e.1 ≠ u)
          then 0 else s.rd Reg.RpaDep.PSTATE u) ∧
    (∀ q e, 72 ≤ u → s.seq.cur = some (.command q) → (s.seq.log.find? fun e => e.cseq == q) = some e →
      ∃ t, exec (.end_ u w) s = .next t ∧ Retired c (p.pc + 1) p [.seq] s t ∧ t.seq.cur = none ∧
        t.seq.log = s.seq.log.map fun x => if x.cseq = q then
          { x with open_ := false, status := e.status, idx := if e.status = 0 then p.pc else e.idx } else x) ∧
    (72 ≤ u → (∀ q, s.seq.cur ≠ some (.command q)) →
      ∃ t, exec (.end_ u w) s = .next t ∧ Retired c (p.pc + 1) p [.seq] s t ∧ t.seq = { s.seq with cur := none })

/-- VADD to VLERP (R282 to R286, R294, Table 8-7). A row of the list: the instruction, its MOD bits, its TYPEs, and its
exact result from the word, the old element and the two sources.
Readings and choices of the model in it: log entry 4. -/
def Obligations.VectorArithmetic : Prop :=
  ∀ e ∈ ([(Instr.vadd, 15, [0, 1, 2, 3], fun _ _ a b => a + b), (Instr.vsub, 15, [0, 1, 2, 3], fun _ _ a b => a - b),
      (Instr.vabsd, 13, [0, 1, 2, 3], fun _ _ a b => ((a - b).natAbs : Int)), (Instr.vmin, 13, [0, 1, 2, 3], fun _ _ a b => min a b),
      (Instr.vmax, 13, [0, 1, 2, 3], fun _ _ a b => max a b), (Instr.vshl, 15, [0, 1, 2], fun _ _ a b => a * 2 ^ (b % 32).toNat),
      (Instr.vshr, 13, [0, 1, 2], fun _ _ a b => a / 2 ^ (b % 32).toNat),
      (Instr.vrshr, 13, [0, 1, 2], fun _ _ a b => (a + rnd (b % 32).toNat) / 2 ^ (b % 32).toNat),
      (Instr.vmul, 15, [0, 1, 2], fun _ _ a b => a * b),
      (Instr.vmulsh, 15, [0, 1, 2], fun w _ a b => (a * b + rnd (immF w 20 16)) / 2 ^ immF w 20 16),
      (Instr.vmac, 15, [0, 1, 2], fun w d a b => d + (a * b + rnd (immF w 20 16)) / 2 ^ immF w 20 16),
      (Instr.vlerp, 13, [0, 1], fun w _ a b => a + ((b - a) * (w.imm.toNat / 65536 : Nat) + 32768) / 65536)] :
      List ((Nat → IWord → Instr) × Nat × List Nat × (IWord → Int → Int → Int → Int))),
    ∀ (u : Nat) (w : IWord) (s : State), TakesV u w e.2.1 e.2.2.1 s → Bare u s →
      let p := s.proc u
      let t := ty w
      let bc := (p.sreg w.b + (w.imm.setWidth 16).signExtend 32).toNat
      let y : Nat → Int := fun i =>
        if mbit w 0 then (if tySigned t then signed (tyWidth t) bc else (bc % 2 ^ tyWidth t : Nat)) else elem t (p.vreg w.b) i
      let x : Nat → Int := fun i => e.2.2.2 w (elem t (p.vreg w.d) i) (elem t (p.vreg w.a) i) (y i)
      ∃ v n, exec (e.1 u w) s = .next n ∧ Retired u (p.pc + 1) (p.setV w.d v) [] s n ∧
        ∀ i, i < tyCount t → elemBits t v i = if (p.preg w.pred).getLsbD (tyPred t i) then
            low (tyWidth t) (if e.2.1 = 15 ∧ mbit w 1 then clampI (tyMin t) (tyMax t) (x i) else x i)
          else elemBits t (p.vreg w.d) i

/-- VAND, VOR, VXOR, VMOV, VSEL, VPBIT, VWRD, VWIDEN, VNARROW (R283 to R286, R294, Table 8-7).
Readings and choices of the model in it: log entry 4. -/
def Obligations.VectorMoves : Prop :=
  ∀ (u : Nat) (w : IWord) (s : State), Bare u s →
    let p := s.proc u
    let bc := (p.sreg w.b + (w.imm.setWidth 16).signExtend 32).toNat
    let b : Nat → Nat → Nat := fun t i => if mbit w 0 then bc % 2 ^ tyWidth t else elemBits t (p.vreg w.b) i
    let sel : Nat → Nat → Bool := fun t i => (p.preg w.pred).getLsbD (tyPred t i)
    let writes := fun c t (f : Nat → Nat) => ∃ v n, exec c s = .next n ∧ Retired u (p.pc + 1) (p.setV w.d v) [] s n ∧
      ∀ i, i < tyCount t → elemBits t v i = f i
    let masked := fun c t (f : Nat → Nat) => writes c t fun i => if sel t i then f i else elemBits t (p.vreg w.d) i
    (TakesV u w 1 [0] s → masked (.vand u w) 0 (fun i => elemBits 0 (p.vreg w.a) i &&& b 0 i) ∧
      masked (.vor u w) 0 (fun i => elemBits 0 (p.vreg w.a) i ||| b 0 i) ∧
      masked (.vxor u w) 0 (fun i => elemBits 0 (p.vreg w.a) i ^^^ b 0 i)) ∧
    (TakesV u w 13 [0, 1, 2, 3] s →
      masked (.vmov u w) (ty w) (fun i => if mbit w 0 then bc % 2 ^ tyWidth (ty w) else elemBits (ty w) (p.vreg w.a) i) ∧
      writes (.vsel u w) (ty w) (fun i => if sel (ty w) i then elemBits (ty w) (p.vreg w.a) i else b (ty w) i)) ∧
    (TakesV u w 0 [0] s → w.a < 8 → masked (.vpbit u w) 0 (fun i =>
      if (p.preg w.a).getLsbD i then elemBits 0 (p.vreg w.d) i ||| 2 ^ immF w 19 16
      else if (elemBits 0 (p.vreg w.d) i).testBit (immF w 19 16) then elemBits 0 (p.vreg w.d) i - 2 ^ immF w 19 16
      else elemBits 0 (p.vreg w.d) i)) ∧
    (TakesV u w 0 [0] s → w.a < 8 → w.pred = 0 →
      ∃ n, exec (.vwrd u w) s = .next n ∧ Retired u (p.pc + 1) (p.setV w.d (Tbl.get (fun _ => 0) p.w w.a)) [] s n) ∧
    (TakesV u w 12 [0, 1] s → masked (.vwiden u w) 2 (fun i => low 32 (elem (ty w) (p.vreg w.a) (i + 256 * immF w 16 16)))) ∧
    (TakesV u w 14 [0, 1] s → masked (.vnarrow u w) (ty w) (fun i =>
      let x := ((if i < 256 then elem 2 (p.vreg w.a) i else elem 2 (p.vreg w.b) (i - 256)) + rnd (immF w 20 16)) / 2 ^ immF w 20 16
      low 16 (if mbit w 1 then clampI (tyMin (ty w)) (tyMax (ty w)) x else x)))

/-- VCMPEQ to VCMPGE, PAND, POR, PXOR, PANDN, PCNT (R231, R285, R294, Table 8-7).
Readings and choices of the model in it: log entry 4. -/
def Obligations.ComparesAndPredicates : Prop :=
  ∀ (u : Nat) (w : IWord) (s : State), Bare u s →
    let p := s.proc u
    let t := ty w
    let bc := (p.sreg w.b + (w.imm.setWidth 16).signExtend 32).toNat
    let y : Nat → Int := fun i =>
      if mbit w 0 then (if tySigned t then signed (tyWidth t) bc else (bc % 2 ^ tyWidth t : Nat)) else elem t (p.vreg w.b) i
    let writes := fun c (f : Nat → Bool) => ∃ v n, exec c s = .next n ∧ Retired u (p.pc + 1) (p.setP w.d v) [] s n ∧
      ∀ c, c < 512 → v.getLsbD c = f c
    let cmp := fun c (f : Int → Int → Prop) [DecidableRel f] => writes c fun c =>
      let i := if t = 2 then c / 2 else c
      (p.preg w.pred).getLsbD (tyPred t i) && decide (f (elem t (p.vreg w.a) i) (y i))
    let pop := fun c (f : Bool → Bool → Bool) => writes c fun c =>
      f ((p.preg w.a).getLsbD c) ((p.preg w.b).getLsbD c) && (p.preg w.pred).getLsbD c
    (TakesV u w 13 [0, 1, 2] s → 1 ≤ w.d → w.d ≤ 7 →
      cmp (.vcmpeq u w) (fun a b => a = b) ∧ cmp (.vcmpne u w) (fun a b => a ≠ b) ∧ cmp (.vcmplt u w) (fun a b => a < b) ∧
      cmp (.vcmple u w) (fun a b => a ≤ b) ∧ cmp (.vcmpgt u w) (fun a b => b < a) ∧ cmp (.vcmpge u w) (fun a b => b ≤ a)) ∧
    (TakesV u w 0 [0] s → 1 ≤ w.d → w.d ≤ 7 → w.a < 8 → w.b < 8 →
      pop (.pand u w) (fun a b => a && b) ∧ pop (.por u w) (fun a b => a || b) ∧
      pop (.pxor u w) (fun a b => a ^^ b) ∧ pop (.pandn u w) (fun a b => a && !b)) ∧
    (TakesV u w 0 [0] s → w.a < 8 →
      ∃ n, exec (.pcnt u w) s = .next n ∧ Retired u (p.pc + 1) (p.setS w.d (BitVec.ofNat 32
        ((List.range 512).countP fun c => (p.preg w.a).getLsbD c && (p.preg w.pred).getLsbD c))) [] s n)

/-- VCSH, VLUT, LUTLD, VHIST, HRD, HCLR (R285, R295, R296, R297).
Readings and choices of the model in it: log entry 4. -/
def Obligations.ShiftTableAndBins : Prop :=
  ∀ (u : Nat) (w : IWord) (s : State), Bare u s →
    let p := s.proc u
    let sel : Nat → Bool := fun i => (p.preg w.pred).getLsbD i
    let masked := fun c (f : Nat → Nat) => ∃ v n, exec c s = .next n ∧ Retired u (p.pc + 1) (p.setV w.d v) [] s n ∧
      ∀ i, i < 512 → elemBits 0 v i = if sel i then f i else elemBits 0 (p.vreg w.d) i
    let sw := 64 * 2 ^ bits (p.kreg 4) 31 30
    let cs := signed 6 (immF w 21 16)
    let fill := immF w 23 22
    let tab : Nat → Nat := fun n => (Tbl.get (fun _ => 0) p.lut n).toNat
    let sh := immF w 19 16
    (TakesV u w 0 [0] s → -16 ≤ cs → cs ≤ 16 → fill ≠ 3 → ¬(fill = 1 ∧ immF w 25 24 = 3) → masked (.vcsh u w) fun c =>
      let j : Int := c - cs
      if sw ≤ c then 0
      else if 0 ≤ j ∧ j < sw then elemBits 0 (p.vreg w.a) j.toNat
      else if fill = 0 then 0
      else if fill = 1 then (if immF w 25 24 < (p.run.getD {}).planes then
        bytesNat (s.readBytes (0x10000000 + u * 0x100000 + 0xFC000 + 0x40 * immF w 25 24 + 2 * (if j < 0 then 16 + j else 16 + j - sw).toNat) 2) else 0)
      else if j < 0 then elemBits 0 (p.vreg w.a) 0 else elemBits 0 (p.vreg w.a) (sw - 1)) ∧
    (TakesV u w 1 [0] s → masked (.vlut u w) fun c =>
      let x := elemBits 0 (p.vreg w.a) c
      let i := x / 2 ^ sh
      if mbit w 0 = false then tab (min i 4095)
      else if 4095 ≤ i then tab 4095
      else low 16 ((tab i : Int) + (((tab (i + 1) : Int) - tab i) * (x % 2 ^ sh : Nat) + rnd sh) / 2 ^ sh)) ∧
    (TakesV u w 0 [0] s → ∃ l n, exec (.lutld u w) s = .next n ∧ Retired u (p.pc + 1) { p with lut := l } [] s n ∧
      ∀ m, m < 4096 → (Tbl.get (fun _ => 0) l m).toNat =
        if m / 512 = immF w 18 16 ∧ sel (m % 512) then elemBits 0 (p.vreg w.a) (m % 512) else tab m) ∧
    (TakesV u w 0 [0] s → ∃ l n, exec (.vhist u w) s = .next n ∧ Retired u (p.pc + 1) { p with hist := l } [] s n ∧
      ∀ b, b < 1024 → (Tbl.get (fun _ => 0) l b).toNat = min ((Tbl.get (fun _ => 0) p.hist b).toNat +
        (List.range 512).countP fun c => sel c && min (elemBits 0 (p.vreg w.a) c / 2 ^ sh) 1023 == b) 4294967295) ∧
    (TakesV u w 0 [0] s → w.pred = 0 → ∃ v n, exec (.hrd u w) s = .next n ∧ Retired u (p.pc + 1) (p.setV w.d v) [] s n ∧
      ∀ i, i < 256 → elemBits 2 v i = (Tbl.get (fun _ => 0) p.hist (256 * immF w 17 16 + i)).toNat) ∧
    (TakesV u w 0 [0] s → ∃ l n, exec (.hclr u w) s = .next n ∧ Retired u (p.pc + 1) { p with hist := l } [] s n ∧
      ∀ b, Tbl.get (fun _ => 0) l b = 0)

/-- VRSUM, VRMIN, VRMAX, OUT (log entry 9), WPUSH (R240, R246, R285, R294, R298).
Readings and choices of the model in it: log entries 4, 9, 93. -/
def Obligations.ReductionsAndOutputs : Prop :=
  ∀ (u : Nat) (w : IWord) (s : State), Bare u s →
    let p := s.proc u
    let t := ty w
    let on : Nat → Prop := fun i => i < tyCount t ∧ (p.preg w.pred).getLsbD (tyPred t i) = true
    let x : Nat → Int := fun i => elem t (p.vreg w.a) i
    (TakesV u w 12 [0, 1, 2, 3] s →
      (∃ n, exec (.vrsum u w) s = .next n ∧ Retired u (p.pc + 1) (p.setS w.d (BitVec.ofInt 32 (clampI (-2147483648) 2147483647
        (((List.range (tyCount t)).map fun i => if (p.preg w.pred).getLsbD (tyPred t i) then x i else 0).sum)))) [] s n) ∧
      (∃ r n, exec (.vrmin u w) s = .next n ∧ Retired u (p.pc + 1) (p.setS w.d (BitVec.ofInt 32 r)) [] s n ∧
        (∀ i, on i → r ≤ x i) ∧ ((∃ i, on i ∧ x i = r) ∨ ((∀ i, ¬ on i) ∧ r = tyMax t))) ∧
      (∃ r n, exec (.vrmax u w) s = .next n ∧ Retired u (p.pc + 1) (p.setS w.d (BitVec.ofInt 32 r)) [] s n ∧
        (∀ i, on i → x i ≤ r) ∧ ((∃ i, on i ∧ x i = r) ∨ ((∀ i, ¬ on i) ∧ r = tyMin t)))) ∧
    (TakesV u w 0 [0] s → ∃ o q n, exec (.out u w) s = .next n ∧ Retired u (p.pc + 1) { p with out := o, outP := q } [] s n ∧
      ∀ k, Tbl.get (fun _ => 0) o k = (if k = immF w 18 16 then p.vreg w.a else Tbl.get (fun _ => 0) p.out k) ∧
        Tbl.get (fun _ => 0) q k = (if k = immF w 18 16 then p.preg 7 else Tbl.get (fun _ => 0) p.outP k)) ∧
    (TakesV u w 0 [0] s → w.pred = 0 →
      ∃ n, exec (.wpush u w) s = .next n ∧ Retired u (p.pc + 1) { p with wpush := some w.a } [] s n)

/-! ### X-class operations -/

/-- Operations that set one word (R265, R266, R293, R300, R302, R303, R538).
Readings and choices of the model in it: log entries 10, 11, 64. -/
def Obligations.SingleSettings : Prop :=
  ∀ (x : XWord) (s : State), XReady x s →
    let a := xargs s x
    let lo := bits (a.w 0) 31 0
    let hi := bits (a.w 0) 63 32
    let did := fun c ws => ∃ t, exec c s = .next t ∧ XDid 0 ws [] s.seq s t
    let no := fun c st => ∃ t, exec c s = .next t ∧ XDid st [] [] s.seq s t
    let either := fun c (q : Prop) ws => (q → did c ws) ∧ (¬q → no c 2)
    either (.seqLease x) (20 ≤ hi ∧ hi ≤ 10000 ∧ 5 ≤ lo ∧ lo ≤ hi / 2) [(Reg.SeqLease.LEASE, 0, 0, hi), (Reg.SeqLease.RENEW, 0, 0, lo)] ∧
    either (.seqWdog x) (10 ≤ hi ∧ hi ≤ 10000000) [(Reg.Seq.SQWDOG, 0, 0, hi)] ∧
    (32 ≤ a.i → a.i ≤ 95 → ∃ h t, exec (.seqHandler x) s = .next t ∧ XDid 0 [] [] { s.seq with handlers := h } s t ∧
      ∀ n, Tbl.get (fun _ => none) h n =
        if n = a.i then (if bit (a.w 0) 63 then some lo else none) else Tbl.get (fun _ => none) s.seq.handlers n) ∧
    (¬(32 ≤ a.i ∧ a.i ≤ 95) → no (.seqHandler x) 2) ∧
    did (.slaEyecfg x) [(Reg.SlaGlobal.EYE_WMIN, 0, 0, a.arg / 256 % 256), (Reg.SlaGlobal.EYE_HMIN, 0, 0, a.arg % 256)] ∧
    did (.dlgMlate x) [(Reg.MarkerGlobal.MLATE, 0, 0, hi)] ∧
    (10 ≤ bits (a.w 1) 31 0 → bits (a.w 1) 31 0 ≤ 1000000 → ∃ t, exec (.dlgSumpcfg x) s = .next t ∧ XDid 0 [] [.sump] s.seq s t ∧
      t.sump = { s.sump with mergeNm := lo, closeUs := bits (a.w 1) 31 0 }) ∧
    (¬(10 ≤ bits (a.w 1) 31 0 ∧ bits (a.w 1) 31 0 ≤ 1000000) → no (.dlgSumpcfg x) 2) ∧
    either (.cmpCfg x) (a.ws.length ≤ 1 ∧ 1 ≤ (a.w 0).toNat ∧ (a.w 0).toNat ≤ 64) [(Reg.Cmp.SEARCH, 0, 0, (a.w 0).toNat)] ∧
    either (.hifMircfg x) (1 ≤ lo ∧ lo ≤ 10000) [(Reg.Bar0.MREFRESH, 0, 0, lo)] ∧
    did (.evrGate x) [(Reg.EvrGlobal.GSW, 0, 0,
      (s.rd Reg.EvrGlobal.GSW 0 &&& (255 - a.arg / 256 % 256)) ||| (a.arg % 256 &&& a.arg / 256 % 256))] ∧
    either (.pbaBudget x) (40000 ≤ lo ∧ lo ≤ 240000 ∧ lo % 125 = 0) [(Reg.Pba.BUDGET, 0, 0, lo)]

/-- CNTCLR (R201, R269, R304, R337, R361, R383, R554).
Readings and choices of the model in it: log entries 102, 119, 121, 157. -/
def Obligations.ClearCounters : Prop :=
  ∀ (x : XWord) (s : State), XReady x s →
    let i := (xargs s x).i
    let z : List Field → Nat → List (Field × Nat × Nat × Nat) := fun fs i => fs.map fun f => (f, i, 0, 0)
    let did := fun u ws => ∃ t, exec (.cntclr u x) s = .next t ∧ XDid 0 ws [] s.seq s t
    let no := fun u st => ∃ t, exec (.cntclr u x) s = .next t ∧ XDid st [] [] s.seq s t
    (∀ e ∈ ([(0x00, 1, z [Reg.Seq.CMDCNT, Reg.Seq.HLATECNT, Reg.SeqLease.TAKECNT, Reg.SeqLease.SUPPCNT], []),
      (0x01, 256, z [Reg.Lane.SHDRERR, Reg.Lane.LOCKLOSS, Reg.Lane.EQBCNT, Reg.Lane.SKIPDEL, Reg.Lane.SKIPINS, Reg.Lane.PRBSBITS,
        Reg.Lane.PRBSERRS], []),
      (0x02, 32, fun i => z [Reg.Head.SHORTCNT, Reg.Head.LONGCNT, Reg.Head.CRCCNT, Reg.Head.LATECNT, Reg.Head.LOSTCNT, Reg.Head.EBFULLCNT,
        Reg.Head.NOLINECNT, Reg.Head.UNMATCHCNT, Reg.Head.LENCNT, Reg.Head.CLINECNT, Reg.Head.SHARECNT, Reg.EslHead.DISCNT, Reg.EslHead.MIXCNT,
        Reg.EslHead.ORPHCNT, Reg.EslHead.TYPECNT, Reg.EslHead.STRAYCNT, Reg.EslHead.CMDTOCNT, Reg.EslHead.XSNACKCNT, Reg.EslHead.CAMEVCNT] i ++
        [(Reg.Head.EBPEAK, i, 0, s.rd Reg.Head.EBFILL i)], []),
      (0x03, 33, fun i =>
        if i < 8 then z [Reg.Enc.ILLCNT, Reg.Enc.INNOVCNT, Reg.Enc.WIRECNT, Reg.Enc.ZERRCNT] i
        else if i < 12 then z [Reg.Ssi.FRAMES, Reg.Ssi.FAULTCNT] (i - 8)
        else if 16 ≤ i ∧ i < 24 then z [Reg.Probe.OVFCNT] (i - 16)
        else if 24 ≤ i ∧ i < 32 then z [Reg.Divider.OUTCNT] (i - 24) else [], []),
      (0x04, 32, z [Reg.TesHead.TRIGCNT, Reg.TesHead.USCNT, Reg.TesHead.SKIPCNT, Reg.TesHead.XLATECNT, Reg.TesHead.XMISCNT],
        z [Reg.Cut.CUTCNT, Reg.Cut.CUTLATECNT] 0),
      (0x05, 72, fun i => (if i < 64 then z [Reg.Lrp.RUNCNT, Reg.Lrp.FAULTCNT, Reg.Lrp.JWAITCNT] i else []) ++
          z [Reg.RpaDep.FOCNT, Reg.RpaDep.CECNT] i,
        z [Reg.RpaGlobal.NOENTCNT, Reg.RpaDep.FAILCNT, Reg.RpaDep.ROTCNT] 0 ++ (List.range 32).flatMap fun h =>
          z [Reg.RpaStat.SBLOCKS, Reg.RpaStat.STATSDROP] h ++ (List.range 16).map fun j => (Reg.RpaStat.HOLDCNT, h, j, 0)),
      (0x06, 16, fun i => z [Reg.View.VROWS, Reg.View.NOTOPENCNT, Reg.View.EDGECLCNT, Reg.View.EDGEMISS, Reg.View.SIGMISS, Reg.View.VGAPCNT] i ++
        [Reg.Seam.SBCNT, Reg.Seam.CHOLDCNT, Reg.Seam.RANGECNT].flatMap fun f => (List.range 32).map fun j => (f, i, j, 0), []),
      (0x07, 16, z [Reg.RtkView.RECCNT, Reg.RtkView.STRAWCNT, Reg.RtkView.JOINCNT, Reg.RtkView.SPECKCNT, Reg.RtkView.FULLCNT, Reg.RtkView.DIVCNT,
        Reg.RtkView.GAPCLCNT, Reg.RtkView.CONTMISSCNT], []),
      (0x08, 16, z [Reg.RclView.CLSCNT, Reg.RclView.UNCLCNT, Reg.RclView.DIVCNT, Reg.RclView.LINKCNT], []),
      (0x09, 16, z [Reg.Marker.FIRECNT, Reg.Marker.MISSCNT, Reg.Marker.MERGECNT],
        z [Reg.Ledger.DUPCNT, Reg.Ledger.FDUPCNT, Reg.Ledger.DLGDIVCNT, Reg.Ledger.LINKCNT, Reg.Ledger.LINKEVCNT, Reg.MarkerGlobal.MKFULLCNT,
          Reg.MarkerGlobal.MKLOSTCNT] 0),
      (0x0A, 32, z [Reg.HisHead.FRAMECNT, Reg.HisHead.HDIVCNT, Reg.HisHead.DIRLOSTCNT, Reg.HisHead.CROPCNT, Reg.HisHead.OBYTES,
        Reg.HisHead.SBYTES], []),
      (0x0B, 1, z [Reg.Cmp.CRCFAILCNT, Reg.Cmp.STREAMERRCNT], []),
      (0x0C, 8, z [Reg.Stream.DIVCNT, Reg.Stream.SATCNT, Reg.Stream.FILLCNT, Reg.Stream.RESTCNT, Reg.Stream.FRAMECNT, Reg.Stream.OUTCNT], []),
      (0x0D, 8, z [Reg.Dmc.CECNT, Reg.Dmc.UECNT, Reg.Dmc.PARCNT, Reg.Dmc.RTCNT], []),
      (0x0E, 16, z [Reg.Dma.DESCCNT, Reg.Dma.TOCNT, Reg.Dma.ERRCNT, Reg.Dma.MISCNT], []),
      (0x0F, 128, z [Reg.Mem.CONFCNT, Reg.Mem.BUSYCNT], []), (0x10, 1, z [Reg.Bar0.DBERRCNT, Reg.Bar0.B2ERRCNT], []),
      (0x11, 4, z [Reg.WlkPort.RXPKT, Reg.WlkPort.TXPKT, Reg.WlkPort.DOWNCNT], z [Reg.Wlk.CUTSLIPCNT, Reg.Wlk.CUTORPHCNT, Reg.Wlk.CUTREFCNT,
        Reg.Wlk.LEASECHGCNT, Reg.Wlk.TTLCNT, Reg.Wlk.NOROUTECNT, Reg.Wlk.FWDRETXCNT, Reg.Wlk.FOOOCNT] 0),
      (0x12, 1, z [Reg.Tnt.STEPCNT, Reg.Tnt.SYNCLOSSCNT], []),
      (0x13, 256, fun i => (if i < 128 then z [Reg.EvrChan.TOKCNT, Reg.EvrChan.GATECNT, Reg.EvrChan.MRGCNT] i else []) ++
        z [Reg.EvrTask.COALCNT, Reg.EvrTask.OVRCNT, Reg.EvrTask.ACTCNT, Reg.EvrTask.DROPCNT] i, z [Reg.EvrGlobal.LOOPCNT] 0),
      (0x14, 4, z [Reg.TwpPort.XFERCNT, Reg.TwpPort.ARBCNT, Reg.TwpPort.STRTOCNT, Reg.TwpPort.STUCKCNT, Reg.TwpPort.NACKCNT], []),
      (0x15, 7, z [Reg.Rail.DIPCNT], z [Reg.Pba.HELDCNT] 0), (0x16, 1, z [Reg.Cal.CALRUNCNT, Reg.Cal.REJCNT, Reg.Cal.CALDUECNT], []),
      (0x17, 1024, fun i => z [Reg.Pmu.COUNT] i ++ if i < 76 then z [Reg.Pmu.SDROP, Reg.Pmu.SCNT] i else [], []),
      (0x18, 1, z [Reg.Slc.WIPEFAIL, Reg.Slc.TAMPERCNT, Reg.Slc.WIPECNT], [])] :
      List (Nat × Nat × (Nat → List (Field × Nat × Nat × Nat)) × List (Field × Nat × Nat × Nat))),
      let has := fun i => i < e.2.1 ∧ ¬(e.1 = 0x03 ∧ 12 ≤ i ∧ i < 16)
      (e.1 = 0x11 → s.rd Reg.Wlk.NODE 0 = 0 → no e.1 3) ∧
      (¬(e.1 = 0x11 ∧ s.rd Reg.Wlk.NODE 0 = 0) →
        (has i → did e.1 (e.2.2.1 i)) ∧ (¬has i → i ≠ 0xFFFF → no e.1 2) ∧
        (i = 0xFFFF → did e.1 (((List.range e.2.1).filter fun i => decide (has i)).flatMap e.2.2.1 ++ e.2.2.2)))) ∧
    (∀ u, 0x18 < u → exec (.cntclr u x) s = .next (seqFault (activeCore s) 1 s))

/-- EVCLR (R201, R304). VREGFAIL is ARG bit 7.
Readings and choices of the model in it: log entry 120. -/
def Obligations.ClearCauses : Prop :=
  ∀ (x : XWord) (s : State), XReady x s →
    let i := (xargs s x).i
    let arg := (xargs s x).arg
    let did := fun u ws => ∃ t, exec (.evclr u x) s = .next t ∧ XDid 0 ws [] s.seq s t
    let no := fun u st => ∃ t, exec (.evclr u x) s = .next t ∧ XDid st [] [] s.seq s t
    let mask := fun (f : Field) (k n : Nat) => [(f, n, 0, s.rd f n &&& (2 ^ k - 1 - arg % 2 ^ k))]
    let drop := fun (f : Field) (k n : Nat) => if arg.testBit k then [(f, n, 0, 0)] else []
    (∀ e ∈ ([(0x01, 256, mask Reg.Lane.EVCAUSE 16),
      (0x03, 33, fun i => if i < 8 then mask Reg.Enc.FCAUSE 8 i else if i < 12 then mask Reg.Ssi.FCAUSE 8 (i - 8)
        else if i < 24 then [] else if i < 32 then drop Reg.Divider.DIVOVF 0 (i - 24) else drop Reg.WebPos.SWITCHED 0 0),
      (0x04, 32, mask Reg.TesHead.TCAUSE 8), (0x09, 16, drop Reg.Marker.MKFULL 0),
      (0x0E, 16, fun i => drop Reg.Dma.HALF 1 i ++ drop Reg.Dma.FULL 0 i),
      (0x11, 4, fun i => if i = 0 then mask Reg.Wlk.WCAUSE 8 0 else []), (0x13, 256, drop Reg.EvrTask.OVR 0), (0x14, 4, mask Reg.TwpPort.TWCAUSE 8),
      (0x15, 7, fun i => if i = 0 then drop Reg.Pba.VREGFAIL 7 0 else [])] : List (Nat × Nat × (Nat → List (Field × Nat × Nat × Nat)))),
      let has := fun i => i < e.2.1 ∧ ¬(e.1 = 0x03 ∧ 12 ≤ i ∧ i < 16)
      (e.1 = 0x11 → s.rd Reg.Wlk.NODE 0 = 0 → no e.1 3) ∧
      (¬(e.1 = 0x11 ∧ s.rd Reg.Wlk.NODE 0 = 0) →
        (has i → did e.1 (e.2.2 i)) ∧ (¬has i → i ≠ 0xFFFF → no e.1 2) ∧
        (i = 0xFFFF → did e.1 (((List.range e.2.1).filter fun i => decide (has i)).flatMap e.2.2)))) ∧
    (∀ u ∈ [0x00, 0x02, 0x05, 0x06, 0x07, 0x08, 0x0A, 0x0B, 0x0C, 0x0D, 0x0F, 0x10, 0x12, 0x16, 0x17, 0x18], did u []) ∧
    (∀ u, 0x18 < u → exec (.evclr u x) s = .next (seqFault (activeCore s) 1 s))

/-- Sensor lane operations.
Readings and choices of the model in it: log entries 11, 144, 145. -/
def Obligations.SensorLanes : Prop :=
  ∀ (x : XWord) (s : State), XReady x s →
    let a := xargs s x
    let i := a.i
    let v := fun f => blockVal laneBase a s f i
    let as := s.on Reg.Lane.ASSIGNED i
    let did := fun c ws l => ∃ t, exec c s = .next t ∧ XDid 0 ws l s.seq s t
    let touches := fun l c (P : State → Prop) => ∃ t, exec c s = .next t ∧ XTouched 0 l s.seq s t ∧ P t
    let does := touches [.one .lane i, .lanes, .damper, .grp 21, .tokens]
    let master := ∃ h, bondOf s i = some (h, 0)
    let no := fun c st => ∃ t, exec c s = .next t ∧ XDid st [] [] s.seq s t
    let cfgOk := a.ws.length ≤ 3 ∧ inRange (v Reg.Lane.RELOCK) 10 10000 ∧ inRange (v Reg.Lane.TAPTO) 1 1000 ∧
      v Reg.Lane.CTLEMIN ≤ v Reg.Lane.CTLEMAX ∧ v Reg.Lane.FEPREMIN ≤ v Reg.Lane.FEPREMAX ∧
      v Reg.Lane.FEMAINMIN ≤ v Reg.Lane.FEMAINMAX ∧ v Reg.Lane.FEPOSTMIN ≤ v Reg.Lane.FEPOSTMAX ∧
      (v Reg.Lane.RATE = 0 ∨ v Reg.Lane.RATE ∈ (if s.rd Reg.LaneGroup.REFSEL (i / 16) = 0 then [1, 2, 4, 6] else [3, 5]))
    let cfgMoves := as = true ∧ (v Reg.Lane.RATE ≠ s.rd Reg.Lane.RATE i ∨ v Reg.Lane.RXINV ≠ s.rd Reg.Lane.RXINV i ∨
      v Reg.Lane.TXINV ≠ s.rd Reg.Lane.TXINV i)
    let w := a.w 0
    let pre := bits w 23 16
    let main := bits w 15 8
    let post := bits w 7 0
    let tapsOk := pre ≤ 12 ∧ 20 ≤ main ∧ main ≤ 63 ∧ post ≤ 24 ∧ pre + main + post ≤ 63 ∧ 16 + pre + post ≤ main
    let b := fun k => b2n (a.arg.testBit k)
    let powerBusy := as = true ∧ (a.arg.testBit 1 = true ∨ a.arg.testBit 0 = true ∨ (a.arg.testBit 2 = true ∧ s.on Reg.Lane.MASTER i = true))
    let st := s.rd Reg.Lane.STATE i
    let chk := a.arg / 16 % 8
    let gen := a.arg % 8
    let scan := bits w 61 56
    let scanOk := 20 ≤ scan ∧ scan ≤ 40 ∧ bits w 47 0 + (if bit w 63 then 768 else 32768) ≤ 0x8000000
    let busyGroup := ∃ k, k < 16 ∧ s.rd Reg.Lane.STATE (16 * i + k) ≠ 1
    let rateGroup := ∃ k, k < 16 ∧ s.rd Reg.Lane.RATE (16 * i + k) ∉ (if a.arg % 2 = 0 then [0, 1, 2, 4, 6] else [0, 3, 5])
    (256 ≤ i → ∀ c ∈ [Instr.slaCfg, .slaTxtaps, .slaPower, .slaTrain, .slaPrbs, .slaInject, .slaEyescan], no (c x) 2) ∧
    (16 ≤ i → no (.slaRefsel x) 2) ∧
    (i < 256 →
      (¬cfgOk → no (.slaCfg x) 2) ∧ (cfgOk → cfgMoves → no (.slaCfg x) 4) ∧
      (cfgOk → ¬cfgMoves → does (.slaCfg x) fun t => (∀ f ∈ slaCfgFields, t.rd f i = v f) ∧
        t.rd Reg.Lane.CTLE i = (if (v Reg.Lane.PIN).testBit 3 then s.rd Reg.Lane.CTLE i
          else max (v Reg.Lane.CTLEMIN) (min (s.rd Reg.Lane.CTLE i) (v Reg.Lane.CTLEMAX))) ∧
        t.rd2 Reg.Lane.DFETAP i 7 = low 7 (clampI (-(v Reg.Lane.DFE1MAX : Int)) (v Reg.Lane.DFE1MAX) (signed 7 (s.rd2 Reg.Lane.DFETAP i 7))) ∧
        (v Reg.Lane.RATE = s.rd Reg.Lane.RATE i → t.rd Reg.Lane.STATE i = st) ∧
        (st = 1 ∨ st = 7 → t.rd Reg.Lane.STATE i = st) ∧
        (v Reg.Lane.RATE = 0 → s.rd Reg.Lane.RATE i ≠ 0 → st ≠ 1 → st ≠ 7 → t.rd Reg.Lane.STATE i = 0) ∧
        (v Reg.Lane.RATE ≠ 0 → v Reg.Lane.RATE ≠ s.rd Reg.Lane.RATE i → t.rd Reg.Lane.STATE i = if st = 0 then 1 else st)) ∧
      (tapsOk → did (.slaTxtaps x) [(Reg.Lane.TXPRE, i, 0, pre), (Reg.Lane.TXMAIN, i, 0, main), (Reg.Lane.TXPOST, i, 0, post)] []) ∧
      (¬tapsOk → no (.slaTxtaps x) 2) ∧
      (powerBusy → no (.slaPower x) 4) ∧
      (¬powerBusy → ¬master → does (.slaPower x) fun _ => True) ∧
      (¬powerBusy → touches [.all .lane, .lanes, .heads, .damper, .grp 21, .tokens] (.slaPower x) fun t =>
        t.rd Reg.Lane.TXSLEEP i = (if as = true ∧ s.on Reg.Lane.MASTER i = false then 1 else b 2) ∧ t.rd Reg.Lane.RXSLEEP i = b 1 ∧ t.rd Reg.Lane.COLD i = b 0 ∧
        (b 0 = 1 → st ≠ 7 → t.rd Reg.Lane.STATE i = 1) ∧ (b 0 = 0 → st = 1 ∨ st = 7 → t.rd Reg.Lane.STATE i = st) ∧
        (b 0 = 0 → st ≠ 0 → st ≠ 1 → st ≠ 7 → b 1 = 1 → t.rd Reg.Lane.STATE i = 5) ∧
        (b 0 = 0 → b 1 = 0 → st = 5 → t.rd Reg.Lane.STATE i = 2)) ∧
      (s.rd Reg.Lane.RATE i = 0 → no (.slaTrain x) 2) ∧
      (s.rd Reg.Lane.RATE i ≠ 0 → does (.slaTrain x) fun t => t.rd Reg.Lane.COLD i = 0 ∧ t.rd Reg.Lane.RXSLEEP i = 0 ∧
        t.rd Reg.Lane.PRBSGEN i = 0 ∧ t.rd Reg.Lane.PRBSCHK i = 0 ∧ (st ≠ 1 → st ≠ 7 → t.rd Reg.Lane.STATE i = 2 ∧ (t.lane i).step = 1)) ∧
      (as = true → no (.slaPrbs x) 4 ∧ no (.slaInject x) 4) ∧
      (as = false → 4 < chk ∨ 4 < gen → no (.slaPrbs x) 2) ∧
      (as = false → chk ≤ 4 → gen ≤ 4 → does (.slaPrbs x) fun t => t.rd Reg.Lane.PRBSGEN i = gen ∧ t.rd Reg.Lane.PRBSCHK i = chk ∧
        (st ∈ [0, 1, 7] → t.rd Reg.Lane.STATE i = st) ∧
        (st ∉ [0, 1, 7] → chk ≠ 0 ∨ gen ≠ 0 → t.rd Reg.Lane.STATE i = 6 ∧ t.rd Reg.Lane.PRBSSYNC i = 0 ∧
          (chk ≠ 0 → t.rd Reg.Lane.PRBSBITS i = 0 ∧ t.rd Reg.Lane.PRBSERRS i = 0)) ∧
        (st ∉ [0, 1, 7] → chk = 0 → gen = 0 → st ≠ 6 → t.rd Reg.Lane.STATE i = st) ∧
        (chk = 0 → gen = 0 → st = 6 → if s.rd Reg.Lane.RATE i = 0 then t.rd Reg.Lane.STATE i = 0
          else t.rd Reg.Lane.STATE i = 2 ∧ (t.lane i).step = 3)) ∧
      (as = false → ¬(1 ≤ a.arg % 128 ∧ a.arg % 128 ≤ 64) → no (.slaInject x) 2) ∧
      (as = false → 1 ≤ a.arg % 128 → a.arg % 128 ≤ 64 → ∃ t, exec (.slaInject x) s = .next t ∧ XDid 0 [] [.lanes] s.seq s t ∧
        t.lane i = { s.lane i with inject := some (a.arg % 128, a.arg / 256 % 2) } ∧ ∀ n, n ≠ i → t.lane n = s.lane n) ∧
      (s.rd Reg.Lane.ESTATE i = 1 → no (.slaEyescan x) 3) ∧ (s.rd Reg.Lane.ESTATE i ≠ 1 → ¬scanOk → no (.slaEyescan x) 2) ∧
      (s.rd Reg.Lane.ESTATE i ≠ 1 → scanOk → does (.slaEyescan x) fun t =>
        t.rd Reg.Lane.ESTATE i = (if st ∈ [1, 5, 6] then 3 else 1) ∧ (st ∈ [1, 5, 6] → (t.rd Reg.Lane.EVCAUSE i).testBit 5 = true) ∧
        t.lane i = { s.lane i with
          scanCross := bit w 63
          scanK := scan
          scanEmax := bits w 55 48
          scanAddr := bits w 47 0
          scanPoint := 0 })) ∧
    (i < 16 → busyGroup → no (.slaRefsel x) 4) ∧ (i < 16 → ¬busyGroup → rateGroup → no (.slaRefsel x) 2) ∧
    (i < 16 → ¬busyGroup → ¬rateGroup → did (.slaRefsel x) [(Reg.LaneGroup.REFSEL, i, 0, a.arg % 2)] [])

/-- Operations that write a block of settings.
Readings and choices of the model in it: log entries 11, 65, 149. -/
def Obligations.BlockSettings : Prop :=
  ∀ (x : XWord) (s : State), XReady x s →
    let a := xargs s x
    let i := a.i
    let v := payOr a s i
    let no := fun c st => ∃ t, exec c s = .next t ∧ XDid st [] [] s.seq s t
    let block := fun (c : Instr) (n len : Nat) (busy : Option Nat) (l : List (Nat × Field)) (q : Prop)
        (more : List (Field × Nat × Nat × Nat)) (parts : List Part) (P : State → Prop) =>
      (n ≤ i → no c 2) ∧ (∀ st, i < n → busy = some st → no c st) ∧ (i < n → busy = none → ¬(a.ws.length ≤ len ∧ q) → no c 2) ∧
      (i < n → busy = none → a.ws.length ≤ len → q → ∃ t, exec c s = .next t ∧ XDid 0 (payload a i l ++ more) parts s.seq s t ∧ P t)
    let any := fun (_ : State) => True
    let r := fun k f lo hi => lo ≤ v k f ∧ v k f ≤ hi
    block (.hauEslcfg x) 32 1 none [(0, Reg.EslHead.CMDTO), (0, Reg.EslHead.XSETTO)]
      (r 0 Reg.EslHead.CMDTO 1 100000 ∧ r 0 Reg.EslHead.XSETTO 1 100000) [] [] any ∧
    block (.pfuSsicfg x) 4 9 none [(0, Reg.Ssi.EN), (0, Reg.Ssi.GRAY), (0, Reg.Ssi.BITS), (0, Reg.Ssi.ERRBIT), (0, Reg.Ssi.CLKDIV),
        (0, Reg.Ssi.SDLY), (0, Reg.Ssi.PERIOD), (0, Reg.Ssi.TMON), (1, Reg.Ssi.SSITO), (1, Reg.Ssi.BW), (1, Reg.Ssi.ILIM), (1, Reg.Ssi.SLAT),
        (8, Reg.Ssi.FEVEN)]
      (r 0 Reg.Ssi.BITS 8 48 ∧ r 0 Reg.Ssi.CLKDIV 10 1000 ∧ r 0 Reg.Ssi.SDLY 0 2000 ∧ r 0 Reg.Ssi.PERIOD 1 10000 ∧
        r 0 Reg.Ssi.TMON 1 1000 ∧ r 1 Reg.Ssi.SSITO 1 1000 ∧ r 1 Reg.Ssi.BW 1 20000 ∧ r 1 Reg.Ssi.ILIM 1 65535 ∧
        (v 0 Reg.Ssi.BITS + v 0 Reg.Ssi.ERRBIT) * v 0 Reg.Ssi.CLKDIV * 10 + v 0 Reg.Ssi.TMON * 1000 ≤ v 0 Reg.Ssi.PERIOD * 1000) []
      [.ssi] (fun t => t.ssiOf i = { s.ssiOf i with seen := false } ∧ ∀ k, k ≠ i → t.ssiOf k = s.ssiOf k) ∧
    block (.pfuPrbcfg x) 8 1 none [(0, Reg.Probe.EN), (0, Reg.Probe.EDGE), (0, Reg.Probe.PSRC), (0, Reg.Probe.PFILT)]
      (v 0 Reg.Probe.EDGE ≠ 0 ∧ (v 0 Reg.Probe.PSRC < 12 ∨ v 0 Reg.Probe.PSRC = 16) ∧ r 0 Reg.Probe.PFILT 1 200)
      [(Reg.Probe.PVAL, i, 0, 0), (Reg.Probe.FILL, i, 0, 0), (Reg.Probe.PTIME, i, 0, 0), (Reg.Probe.PVALID, i, 0, 0),
        (Reg.Probe.PQUAL, i, 0, 0), (Reg.Probe.PEDGE, i, 0, 0)]
      [.probes] (fun t => t.probe i = [] ∧ ∀ k, k ≠ i → t.probe k = s.probe k) ∧
    block (.pfuDivcfg x) 8 1 none [(0, Reg.Divider.EN), (0, Reg.Divider.DSRC), (0, Reg.Divider.DINV), (0, Reg.Divider.N), (0, Reg.Divider.M)]
      (1 ≤ v 0 Reg.Divider.N ∧ v 0 Reg.Divider.N ≤ v 0 Reg.Divider.M) [(Reg.Divider.BACKLOG, i, 0, 0)]
      [.divs] (fun t => t.divOf i = { s.divOf i with acc := 0, backlog := 0 } ∧ ∀ k, k ≠ i → t.divOf k = s.divOf k) ∧
    block (.tesCfg x) 32 9 (if scheduleBusy s i then some 5 else none) [(0, Reg.TesHead.TSRC), (0, Reg.TesHead.INBAND), (0, Reg.TesHead.PDIR),
        (0, Reg.TesHead.ESRC), (0, Reg.TesHead.LRMAX), (1, Reg.TesHead.DY), (2, Reg.TesHead.YORG), (3, Reg.TesHead.EDGEN),
        (3, Reg.TesHead.TPER), (4, Reg.TesHead.TSTART), (5, Reg.TesHead.TPW), (5, Reg.TesHead.CABLE), (5, Reg.TesHead.PINLAT), (8, Reg.TesHead.TEVEN)]
      (r 0 Reg.TesHead.LRMAX 1 2000000 ∧ r 3 Reg.TesHead.EDGEN 1 65535 ∧ r 5 Reg.TesHead.TPW 10 65535) [] [] any ∧
    block (.dmcCfg x) 8 3 (if s.rd Reg.Dmc.CHSTATE i = 0 ∨ s.rd Reg.Dmc.CHSTATE i = 3 then none else some 3) [(0, Reg.Dmc.SPEED),
        (0, Reg.Dmc.DIMMS), (0, Reg.Dmc.RANKS), (0, Reg.Dmc.DEVW), (0, Reg.Dmc.DENS), (1, Reg.Dmc.TCL), (1, Reg.Dmc.TRCD), (1, Reg.Dmc.TRP),
        (1, Reg.Dmc.TRAS), (1, Reg.Dmc.TRFC), (1, Reg.Dmc.TREFI), (2, Reg.Dmc.SPAREEN), (2, Reg.Dmc.SPARERANK), (2, Reg.Dmc.MIGSHARE),
        (2, Reg.Dmc.RTINT), (2, Reg.Dmc.DEYEMIN)]
      (v 0 Reg.Dmc.SPEED ≤ 4 ∧ v 0 Reg.Dmc.DIMMS ≤ 2 ∧ v 0 Reg.Dmc.DENS ≤ 2 ∧ v 0 Reg.Dmc.RANKS ≤ 4 ∧
        (v 0 Reg.Dmc.DIMMS = 0 ∨ v 0 Reg.Dmc.RANKS ≠ 0) ∧ r 2 Reg.Dmc.MIGSHARE 1 255 ∧ r 2 Reg.Dmc.RTINT 10 10000 ∧
        (v 2 Reg.Dmc.SPAREEN = 0 ∨ v 2 Reg.Dmc.SPARERANK < v 0 Reg.Dmc.RANKS)) [] [] any ∧
    block (.evrTask x) 256 1 none [(0, Reg.EvrTask.EN), (0, Reg.EvrTask.CHSEL)] True [] [] any ∧
    block (.twpCfg x) 4 1 (if (1 ≤ i ∧ i ≤ 2 ∧ (s.twOf i).queue ≠ []) ∨ (s.twOf i).stretch = true then some 3 else none)
      [(0, Reg.TwpPort.SPEED), (0, Reg.TwpPort.STRTO), (0, Reg.TwpPort.ARBRETRY), (0, Reg.TwpPort.PECEN), (0, Reg.TwpPort.TEVEN)]
      (v 0 Reg.TwpPort.SPEED ≠ 3 ∧ r 0 Reg.TwpPort.STRTO 1 200) [] [] any ∧
    block (.calLimits x) 1 1 none [(0, Reg.Cal.OFSMAX), (0, Reg.Cal.DSHIFT), (0, Reg.Cal.DMARGIN), (0, Reg.Cal.TAPSTEP), (0, Reg.Cal.THRMAX),
        (0, Reg.Cal.SENSDEV)] True [] [] any ∧
    block (.pmuSampcfg x) 76 2 none [(0, Reg.Pmu.SEN), (0, Reg.Pmu.SWRAP), (0, Reg.Pmu.SBASE), (1, Reg.Pmu.SPERIOD)]
      (v 0 Reg.Pmu.SBASE % 32 = 0 ∧ v 1 Reg.Pmu.SPERIOD ≠ 0) [(Reg.Pmu.SDROP, i, 0, min (s.rd Reg.Pmu.SDROP i + (Tbl.get (fun _ => ({} : Sampler)) s.sampled i).drops) (2 ^ 32 - 1)),
        (Reg.Pmu.SWPTR, i, 0, 0), (Reg.Pmu.SFULL, i, 0, 0)]
      [.sampled] any

/-- Operations that write words of settings.
Readings and choices of the model in it: log entries 10, 64, 65. -/
def Obligations.WordSettings : Prop :=
  ∀ (x : XWord) (s : State), XReady x s →
    let a := xargs s x
    let i := a.i
    let did := fun c ws => ∃ t, exec c s = .next t ∧ XDid 0 ws [] s.seq s t
    let no := fun c st => ∃ t, exec c s = .next t ∧ XDid st [] [] s.seq s t
    let put := fun (f : Field) (j v : Nat) => (f, i, j, v)
    let z := payOr a s 0
    let r := fun (y lo hi : Nat) => lo ≤ y ∧ y ≤ hi
    let share := a.arg % 256
    let tooMuch := ∃ l ∈ mappedTo s i, 256 < shareSum s i share true l
    let w1 := a.w 1
    let cfgOk := bits (a.w 0) 63 32 ≠ 0 ∧ (2 ≤ a.ws.length → r (bits w1 63 48) 1 10000 ∧ bits w1 47 44 ≤ 8)
    let node := s.rd Reg.Wlk.NODE 0 ≠ 0
    let routeOk := i % 8 = 0 ∧ i + 8 * a.ws.length ≤ 16384 ∧ ∀ w ∈ a.ws, ∀ k, k < 16 → bits w (4 * k + 3) (4 * k) ∈ [0, 1, 2, 3, 0xE, 0xF]
    let k := i - 0x100
    let base := payOr a s k 0 Reg.WlkInbound.IRBASE
    let log := payOr a s k 1 Reg.WlkInbound.IRLOG
    let ringOk := 0x100 ≤ i ∧ k < 8 ∧ base % 64 = 0 ∧ (log = 0 ∨ r log 4 24)
    let evioOk := 0x100 ≤ i ∧ k < 16 ∧ a.ws.length ≤ 1 ∧ r (payOr a s k 0 Reg.Evio.EFILT) 1 200
    let vmin := Reg.Pba.VMIN.get 0 (a.w 0)
    let vmax := Reg.Pba.VMAX.get 0 (a.w 0)
    let vOk := vmin ≤ vmax ∧ r vmin 640 900 ∧ r vmax 640 900 ∧ 100 * (s.rd Reg.Rail.WARN 0 + 10) ≤ 97 * vmin
    let targetOk := r (Reg.Pba.VTARGET.get 0 (a.w 0)) 100 2000 ∧ r (z 1 Reg.Pba.TWARN) 60 130 ∧ z 2 Reg.Pba.LIVEHOLD ≤ 60000 ∧ a.ws.length ≤ 3
    let warn := bits (a.w 0) 31 16
    let rst := bits (a.w 0) 15 0
    let g := [((600, 700), (560, 620)), ((720, 780), (680, 740)), ((830, 880), (780, 840)), ((1100, 1170), (1040, 1120)),
      ((1020, 1080), (960, 1030)), ((1660, 1770), (1560, 1680)), ((3050, 3250), (2880, 3080))].getD i ((0, 0), (0, 0))
    let railOk := r warn g.1.1 g.1.2 ∧ r rst g.2.1 g.2.2 ∧ rst < warn ∧ (i = 0 → 100 * (warn + 10) ≤ 97 * s.rd Reg.Pba.VMIN 0)
    let anyRuns := ∃ h, h < 32 ∧ s.running h = true
    let m := (a.w 0).toNat
    let rowsOk := m ≠ 0 ∧ ∀ b, b < 64 → m.testBit b = true → s.rd Reg.Mem.USE b ≠ 3 ∧ s.rd Reg.Mem.USE b ≠ 4
    (i < 32 → ¬tooMuch → did (.hauShare x) [put Reg.Head.SHARE 0 share]) ∧ (i < 32 → tooMuch → no (.hauShare x) 2) ∧
    (i < 32 → s.busyHead i = true → no (.hauMap x) 5) ∧ (i < 32 → s.busyHead i = false → 32 < a.ws.length → no (.hauMap x) 2) ∧
    (i < 32 → s.busyHead i = false → a.ws.length ≤ 32 → did (.hauMap x) ((List.range (8 * a.ws.length)).map fun b =>
      put Reg.StripMap.LRPOF b (bits (a.w (b / 8)) (8 * (b % 8) + 5) (8 * (b % 8))))) ∧
    (i < 64 → ∃ t, exec (.rpaResume x) s = .next t ∧ XDid 0 [put Reg.Lrp.HALTED 0 0] [.rpa] s.seq s t ∧
      t.rpa = { s.rpa with haltArea := Tbl.erase s.rpa.haltArea i }) ∧
    (cfgOk → did (.rpaCfg x) ((Reg.RpaGlobal.RUNLIMIT, 0, 0, bits (a.w 0) 63 32) :: if a.ws.length < 2 then [] else
      [(Reg.RpaDep.RPTO, 0, 0, bits w1 63 48), (Reg.RpaDep.FAILRESV, 0, 0, bits w1 47 44), (Reg.RpaDep.CETHR, 0, 0, bits w1 39 32)])) ∧
    (¬cfgOk → no (.rpaCfg x) 2) ∧
    (i < 256 → did (.memMode x) [put Reg.Mem.MODE 0 (a.arg % 2)]) ∧
    (anyRuns → no (.memRowstore x) 5) ∧ (¬anyRuns → ¬rowsOk → no (.memRowstore x) 2) ∧
    (¬anyRuns → rowsOk → did (.memRowstore x) ((Reg.Mem.ROWSTORE, 0, 0, m) :: (List.range 64).flatMap fun b =>
      if m.testBit b then [(Reg.Mem.USE, b, 0, 2)] else if s.rd Reg.Mem.USE b = 2 then [(Reg.Mem.USE, b, 0, 0)] else [])) ∧
    ((∃ c, c < 8 ∧ s.channelUp c = true) → no (.dmcXormap x) 3) ∧
    (¬(∃ c, c < 8 ∧ s.channelUp c = true) → mapOk a s = false → no (.dmcXormap x) 2) ∧
    (¬(∃ c, c < 8 ∧ s.channelUp c = true) → mapOk a s = true → did (.dmcXormap x)
      [(Reg.DmcGlobal.CHX, 0, 0, bits (a.w 0) 39 0), (Reg.DmcGlobal.CHX, 0, 1, bits (a.w 1) 39 0), (Reg.DmcGlobal.CHX, 0, 2, bits (a.w 2) 39 0),
       (Reg.DmcGlobal.BG, 0, 0, bits (a.w 3) 39 0), (Reg.DmcGlobal.BG, 0, 1, bits (a.w 4) 39 0), (Reg.DmcGlobal.BG, 0, 2, bits (a.w 5) 39 0),
       (Reg.DmcGlobal.BA, 0, 0, bits (a.w 6) 39 0), (Reg.DmcGlobal.BA, 0, 1, bits (a.w 7) 39 0)]) ∧
    (i < 8 → s.rd Reg.Dmc.CHSTATE i ≠ 0 → s.rd Reg.Dmc.CHSTATE i ≠ 3 → no (.dmcSpare x) 3) ∧
    (i < 8 → s.rd Reg.Dmc.CHSTATE i = 0 ∨ s.rd Reg.Dmc.CHSTATE i = 3 →
      (s.rd Reg.Dmc.RANKS i ≤ a.arg ∨ s.rd Reg.Dmc.DIMMS i = 0 → no (.dmcSpare x) 2) ∧
      (a.arg < s.rd Reg.Dmc.RANKS i → s.rd Reg.Dmc.DIMMS i ≠ 0 →
        did (.dmcSpare x) [put Reg.Dmc.SPAREEN 0 1, put Reg.Dmc.SPARERANK 0 a.arg])) ∧
    (¬node → ∀ c ∈ [Instr.wlkRoute, .wlkPort, .wlkEdge, .wlkFwd, .wlkLease], no (c x) 3) ∧
    (node → ¬routeOk → no (.wlkRoute x) 2) ∧
    (node → routeOk → ∃ t, exec (.wlkRoute x) s = .next t ∧ XStatus 0 s.seq s t ∧ Others [.procs, .seq, .sampled] s t ∧
      ∀ p, groupOf p ≠ 64 → t.word p = if 0x20118000 + i ≤ p ∧ p < 0x20118000 + i + 8 * a.ws.length ∧ (p - 0x20118000) % 8 = 0 then
        a.w ((p - 0x20118000 - i) / 8) else s.word p) ∧
    (node → 16 ≤ i → no (.wlkEdge x) 2) ∧
    (node → i < 16 → did (.wlkEdge x) (payload a i [(0, Reg.WlkEdge.LNODE), (0, Reg.WlkEdge.RNODE)])) ∧
    (node → i = 0 → ¬r (z 0 Reg.Wlk.FWDTO) 1 10000 → no (.wlkFwd x) 2) ∧
    (node → i = 0 → r (z 0 Reg.Wlk.FWDTO) 1 10000 → did (.wlkFwd x) (payload a 0 [(0, Reg.Wlk.COLLECTOR), (0, Reg.Wlk.FWDTO)])) ∧
    (node → i ≠ 0 → ¬ringOk → no (.wlkFwd x) 2) ∧
    (node → i ≠ 0 → ringOk → did (.wlkFwd x) (payload a k [(0, Reg.WlkInbound.IRBASE), (1, Reg.WlkInbound.IRLOG)])) ∧
    (i < 128 → 2 < a.ws.length → no (.evrChan x) 2) ∧
    (i < 128 → a.ws.length ≤ 2 → did (.evrChan x) (payload a i [(0, Reg.EvrChan.EN), (0, Reg.EvrChan.GEN), (0, Reg.EvrChan.GINV),
      (0, Reg.EvrChan.GSEL), (0, Reg.EvrChan.SRC)])) ∧
    (128 ≤ i → ¬evioOk → no (.evrChan x) 2) ∧
    (128 ≤ i → evioOk → did (.evrChan x) (payload a k [(0, Reg.Evio.EN), (0, Reg.Evio.EEDGE), (0, Reg.Evio.EFILT)])) ∧
    (vOk → did (.pbaVbounds x) [(Reg.Pba.VMIN, 0, 0, vmin), (Reg.Pba.VMAX, 0, 0, vmax)]) ∧ (¬vOk → no (.pbaVbounds x) 2) ∧
    (targetOk → did (.pbaTarget x) (payload a 0 [(0, Reg.Pba.VTARGET), (1, Reg.Pba.VREGADR), (1, Reg.Pba.TWARN), (1, Reg.Pba.PEVEN),
      (2, Reg.Pba.INSPREQ), (2, Reg.Pba.LIVEHOLD)])) ∧ (¬targetOk → no (.pbaTarget x) 2) ∧
    (i < 7 → railOk → did (.pbaMonitor x) [put Reg.Rail.WARN 0 warn, put Reg.Rail.RESET 0 rst]) ∧
    (i < 7 → ¬railOk → no (.pbaMonitor x) 2) ∧
    (i < 1024 → did (.pmuCntset x) (payload a i [(0, Reg.Pmu.COUNT), (1, Reg.Pmu.EN), (1, Reg.Pmu.CHAIN), (1, Reg.Pmu.UNIT), (1, Reg.Pmu.INST),
      (1, Reg.Pmu.EVT)])) ∧
    (∀ e ∈ [(Instr.hauShare x, 32), (.hauMap x, 32), (.rpaResume x, 64), (.memMode x, 256), (.dmcSpare x, 8), (.pbaMonitor x, 7), (.pmuCntset x, 1024)],
      e.2 ≤ i → no e.1 2)

/-- Streamed operations.
Readings and choices of the model in it: log entries 25, 26, 64, 72. -/
def Obligations.StreamedOperations : Prop :=
  ∀ (x : XWord) (s : State), XReady x s →
    let a := xargs s x
    let w0 := a.w 0
    let w1 := a.w 1
    let xat := s.seq.xat
    let form := fun c unit op ws => exec c s = .next { s with seq := { s.seq with forming := some { unit := unit, op := op, words := ws } } }
    let waits := fun c unit op (s' : State) => exec c s = .next { s' with seq := { s'.seq with wait := some (unit, op, x) } }
    let no := fun c st => ∃ t, exec c s = .next t ∧ XDid st [] [] s.seq s t
    let two := fun c unit op ws (q : Prop) => (q → form c unit op ws) ∧ (¬q → no c 2)
    let heads := xat.target = .heads ∨ ∃ h, xat.target = .head h
    let views := xat.target = .views ∨ ∃ v, xat.target = .view v
    let n := bits w0 13 8
    let f := bits w0 5 0
    let len := bits w1 36 20
    let ofs := bits w1 19 0
    let src := bits w0 47 0
    let kind := bits w0 7 0
    let fw := bits w1 47 32
    let m := bits w1 52 32
    let vs := if xat.target = .views then openViews s else match xat.target with | .view v => [v] | _ => []
    let held := ((List.range 16).map fun u => if vs.contains u then m else rtmaxAhead s u).sum
    (xat.mode ≠ 2 ∨ xat.target = .none → no (.rpaLoad x) 2) ∧
    (xat.mode = 2 → xat.target ≠ .none → imageOk s src = false → no (.rpaLoad x) 0xC) ∧
    (xat.mode = 2 → xat.target ≠ .none → imageOk s src = true → freeArea s = none → waits (.rpaLoad x) 5 1 (s.wr Reg.RpaGlobal.LOADPEND 0 1)) ∧
    (xat.mode = 2 → xat.target ≠ .none → imageOk s src = true → freeArea s ≠ none → form (.rpaLoad x) 5 1 a.ws) ∧
    (xat.mode ≠ 2 ∨ xat.target ≠ .views → no (.rclModel x) 2) ∧
    (xat.mode = 2 → xat.target = .views → modelOk s src = false → no (.rclModel x) 0xC) ∧
    (xat.mode = 2 → xat.target = .views → modelOk s src = true → freeModel s = none → waits (.rclModel x) 8 1 (s.wr Reg.RclGlobal.MLOADPEND 0 1)) ∧
    (xat.mode = 2 → xat.target = .views → modelOk s src = true → freeModel s ≠ none → form (.rclModel x) 8 1 a.ws) ∧
    two (.rpaKset x) 5 2 a.ws (heads ∧ 1 ≤ n ∧ n ≤ 56 ∧ 8 ≤ f ∧ f + n ≤ 64) ∧
    two (.rpaSmwrite x) 5 3 a.ws (heads ∧ 64 ≤ len ∧ len ≤ 65536 ∧ len % 64 = 0 ∧ ofs % 64 = 0 ∧ 0x20000 ≤ ofs ∧ ofs + len ≤ 0xFC000 ∧
      (src + len ≤ 0x8000000 ∨ (dramBase ≤ src ∧ src + len ≤ 2 * dramBase))) ∧
    two (.sstGeom x) 6 2 a.ws (∃ h, xat.target = .head h ∧
      geomOk s h ((List.range 6).map fun k => (a.w k).toInt) (signed 32 (bits (a.w 6) 31 0)) = true) ∧
    two (.sstSeam x) 6 3 a.ws (views ∧ seamOk w0 w1 (a.w 2) = true) ∧
    two (.sstBlend x) 6 4 a.ws (views ∧ if kind = 0xFF then bits w1 63 62 ≠ 3
      else kind ≤ 31 ∧ fw ≤ 4096 ∧ fw % 2 = 0 ∧ ∀ v ∈ vs, blendOkAt s v kind (bits w1 20 0) fw = true) ∧
    (¬(views ∧ m % 4096 = 0 ∧ held ≤ 1048576) → no (.rtkPlane x) 2) ∧
    (views → m % 4096 = 0 → held ≤ 1048576 →
      ((∃ v ∈ vs, s.viewOpen v = true ∧ s.rd Reg.RtkView.RTMAX v ≠ m) → no (.rtkPlane x) 5) ∧
      ((∀ v ∈ vs, s.viewOpen v = true → s.rd Reg.RtkView.RTMAX v = m) → form (.rtkPlane x) 7 1 a.ws)) ∧
    two (.rtkStraw x) 7 2 a.ws (views ∧ 256 ≤ bits w0 24 0 ∧ bits w0 24 0 ≤ 16777216) ∧
    two (.rtkFeat x) 7 3 a.ws (views ∧ bits w0 63 62 ≠ 3) ∧
    two (.rclFeatmap x) 8 2 ((List.range 32).map a.w) (views ∧ ∀ k, k < 32 → entryOk (bits (a.w k) 31 0) = true ∧ entryOk (bits (a.w k) 63 32) = true)

/-- Head operations. `showSlots` and the frame leave out nothing but what the lists of parts name.
Readings and choices of the model in it: log entries 21, 22, 52, 71, 141. -/
def Obligations.HeadOperations : Prop :=
  ∀ (x : XWord) (s : State), XReady x s →
    let a := xargs s x
    let i := a.i
    let w0 := a.w 0
    let no := fun c st => ∃ t, exec c s = .next t ∧ XDid st [] [] s.seq s t
    let does := fun c l (P : State → Prop) => ∃ t, exec c s = .next t ∧ XTouched 0 l s.seq s t ∧ P t
    let starts := fun c op l (P : State → Prop) => ∃ t, exec c s = .next t ∧ XTouched 0 l (startedLong 2 op x s) s t ∧ P t
    let ls := (List.range (2 ^ bits w0 2 0)).map fun k => bits (a.w (1 + k / 8)) (8 * (k % 8) + 7) (8 * (k % 8))
    let l0 := ls.getD 0 0
    let bondOk := bits w0 2 0 ≤ 5 ∧ (∀ l ∈ ls, l / 64 = l0 / 64 ∧ s.rd Reg.Lane.RATE l = s.rd Reg.Lane.RATE l0) ∧ ls.Nodup
    let taken := ∃ l ∈ ls, ∃ k, k < 32 ∧ k ≠ i ∧ l ∈ bondLanes s k
    let v := fun f => blockVal 0x20020000 a s f i
    let r := fun (y lo hi : Nat) => lo ≤ y ∧ y ≤ hi
    let cfgOk := a.ws.length ≤ 7 ∧ r (v Reg.Head.HW) 1 65536 ∧ v Reg.Head.DEPTH ≤ 4 ∧ r (v Reg.Head.LCTO) 1 64 ∧ r (v Reg.Head.TLTO) 1 255 ∧
      r (v Reg.Head.LCMIN) 1 65535 ∧ r (v Reg.Head.TLMIN) 1 65535 ∧ r (v Reg.Head.BLKTO) 1 10000 ∧ r (v Reg.Head.GAPFL) 1 1000
    let moves := ∃ h, h < 32 ∧ s.running h = true ∧ (banksOf s h ≠ s.rd Reg.Head.EBBANKS h ∨ firstBank s h ≠ (s.head h).bank)
    let total := ((List.range 32).map (banksOf s)).sum
    let busy := s.running i = true ∨ (s.head i).start.isSome = true
    let dflt := a.arg.testBit 0
    let bonded := Tbl.get (fun _ => false) s.bonded i
    let master := s.rd2 Reg.Head.LANEMAP i 0
    let locked := s.rd Reg.Lane.STATE master = 3
    let aligned := bits w0 31 0 % 4 = 0
    let write := a.arg.testBit 0
    let rateBad := write = true ∧ bits w0 31 0 = 0x108 ∧ (bits (a.w 1) 31 0 % 16 = 0 ∨
      ∃ n ∈ bondLanes s i, rateOk (s.rd Reg.LaneGroup.REFSEL (n / 16)) (bits (a.w 1) 31 0 % 16) = false)
    let cmd : CamCmd := { use := .camreg a.addr, write := write, addr := bits w0 31 0, data := bits (a.w 1) 31 0 }
    (32 ≤ i → ∀ c ∈ [Instr.hauBond, .hauCfg, .hauStart, .hauStop, .hauCamreg], no (c x) 2) ∧
    (i < 32 →
      (¬bondOk → no (.hauBond x) 2) ∧ (bondOk → taken → no (.hauBond x) 4) ∧ (bondOk → ¬taken → busy → no (.hauBond x) 5) ∧
      (bondOk → ¬taken → ¬busy → does (.hauBond x) [.one .head i, .all .lane, .bonded] fun t =>
        t.rd Reg.Head.LANES i = bits w0 2 0 ∧ Tbl.get (fun _ => false) t.bonded i = true ∧
        (∀ k, k < 2 ^ bits w0 2 0 → t.rd2 Reg.Head.LANEMAP i k = ls.getD k 0) ∧ (∀ l ∈ ls, t.rd Reg.Lane.HEAD l = i)) ∧
      (busy → no (.hauCfg x) 5) ∧ (¬busy → ¬cfgOk → no (.hauCfg x) 2) ∧
      (¬busy → cfgOk → does (.hauCfg x) [.all .head, .all .view] fun t => ∀ f ∈ [Reg.Head.DEPTH, Reg.Head.FMT, Reg.Head.PADMODE,
        Reg.Head.STRIPW, Reg.Head.HW, Reg.Head.PADVAL, Reg.Head.EBWEIGHT, Reg.Head.SHARE, Reg.Head.LCTO, Reg.Head.TLTO, Reg.Head.LCMIN,
        Reg.Head.TLMIN, Reg.Head.BLKTO, Reg.Head.GAPFL], t.rd f i = v f) ∧
      (busy → no (.hauStart x) 5) ∧ (¬busy → bonded = false ∨ (∃ n ∈ bondLanes s i, s.rd Reg.Lane.RATE n = 0) ∨ s.rd Reg.Head.HW i = 0 ∨ s.rd Reg.Head.EBWEIGHT i = 0 → no (.hauStart x) 2) ∧
      (startRefused s i dflt = none → starts (.hauStart x) 5 [.heads, .all .lane, .lanes, .damper, .grp 21, .tokens] fun t =>
        (t.head i).start = some { dflt := dflt, lseq := bits w0 39 0, plan := planOf s i dflt }) ∧
      ((s.head i).start.isSome = true → ∃ t, exec (.hauStop x) s = .next t ∧ (t.head i).start = none ∧ Only [.heads, .tes, .seq, .procs, .grp 64, .sampled] s t) ∧
      (¬busy → no (.hauStop x) 0) ∧ ((s.head i).start = none → s.running i = true → (s.head i).stopping = true → starts (.hauStop x) 6 [] fun _ => True) ∧
      ((s.head i).start = none → s.running i = true → (s.head i).stopping = false → ∃ t, exec (.hauStop x) s = .next t ∧
        (t.head i).stopping = true ∧ t.rd Reg.TesHead.RUNNING i = 0 ∧ (t.tesOf i).queue = []) ∧
      (bonded = false ∨ ¬aligned → no (.hauCamreg x) 2) ∧ (bonded = true → aligned → ¬locked → no (.hauCamreg x) 4) ∧
      (bonded = true → aligned → locked → rateBad → no (.hauCamreg x) 2) ∧
      (bonded = true → aligned → locked → ¬rateBad → starts (.hauCamreg x) 8 [.heads] fun t =>
        if (s.head i).cmd.isSome then (t.head i).cmds = (s.head i).cmds ++ [cmd]
        else (t.head i).cmd = some { cmd with tag := (s.head i).tag } ∧ (t.head i).tag = ((s.head i).tag + 1) % 256)) ∧
    (moves → no (.hauEballoc x) 5) ∧
    (¬moves → does (.hauEballoc x) [.all .head, .all .bank, .heads] fun t =>
      (∀ h, h < 32 → t.rd Reg.Head.EBBANKS h = banksOf s h ∧ (t.head h).bank = firstBank s h) ∧
      ∀ k, k < 192 → t.rd Reg.Mem.USE (64 + k) = if k < total then 1 else 0)

/-- TES and PFU operations.
Readings and choices of the model in it: log entries 16, 18, 19, 90. -/
def Obligations.TriggerAndPositionOperations : Prop :=
  ∀ (x : XWord) (s : State), XReady x s →
    let a := xargs s x
    let i := a.i
    let w0 := a.w 0
    let no := fun c st => ∃ t, exec c s = .next t ∧ XDid st [] [] s.seq s t
    let waits := fun c unit op => exec c s = .next { s with seq := { s.seq with wait := some (unit, op, x) } }
    let does := fun c l (P : State → Prop) => ∃ t, exec c s = .next t ∧ XTouched 0 l s.seq s t ∧ P t
    let dy := bits w0 39 0
    let tper := bits (a.w 2) 39 0
    let lr := bits (a.w 3) 31 0
    let hs := gridHeads s i
    let gridBad := ¬(1 ≤ lr ∧ lr ≤ 2000000) ∨ ∃ h ∈ hs, s.running h = true ∧ gridOk dy tper lr s h = false
    let set := a.arg % 256
    let t0 := s.tesOf i
    let pend := s.rd Reg.TesHead.XPV i
    let inUse := set = s.rd Reg.TesHead.XCUR i ∨ (pend ≠ 0 ∧ set = s.rd Reg.TesHead.XPEND i)
    let long := fun e => 1000000000 < e * s.rd Reg.TesHead.LRMAX i
    let busy := pend ≠ 0 ∨ t0.dl.isSome = true
    let pends := fun (t : State) (w p : Word) => t.rd Reg.TesHead.XPEND i = set ∧ t.rd Reg.TesHead.XPV i = 1 ∧
      t.rd Reg.TesHead.XPMODE i = b2n (bit w 0) ∧ t.rd Reg.TesHead.XPAPPLY i = p.toNat
    let selOk := t0.acked.contains set = true ∧ ¬long (expnsOf s i set)
    let pcut := w0.toInt
    let dir := b2n (bit (a.w 1) 0)
    let fabric := bit (a.w 1) 1
    let out := s.rd Reg.Wlk.OUTDOMAIN 0
    let cur := s.rd Reg.Cut.EPOCH 0
    let e1 := if out ≠ 0 then s.wlk.syncEpoch else (cur + 1) % 128
    let barred := (s.rd Reg.Wlk.CUTDOM 0 ≠ 0 ∧ out = 0) ∨ (out ≠ 0 ∧ epochLater s.wlk.syncEpoch cur = false)
    let cutParts : List Part := [.all .featMap, .all .geom, .all .lrp, .all .rtkView, .all .seam, .all .view, .all .wlkPort, .grp 4, .grp 7,
      .grp 17, .grp 64, .cutPkts, .cuts, .held, .mem, .procs, .progress, .recs, .rpa, .tokens, .wlk, .seq, .sampled, .sent]
    let cuts := fun c (P : State → Prop) => ∃ t, exec c s = .next t ∧ Only cutParts s t ∧ P t
    let v := fun f => blockVal 0x20030000 a s f i
    let encOk := a.ws.length ≤ 11 ∧ (1 ≤ v Reg.Enc.FILT ∧ v Reg.Enc.FILT ≤ 200) ∧ (1 ≤ v Reg.Enc.BW ∧ v Reg.Enc.BW ≤ 20000) ∧
      (1 ≤ v Reg.Enc.ILIM ∧ v Reg.Enc.ILIM ≤ 65535) ∧ v Reg.Enc.ZMODE ≠ 3 ∧ v Reg.Enc.DEC ≠ 3 ∧
      signed 64 (v Reg.Enc.LIMLO) < signed 64 (v Reg.Enc.LIMHI)
    let z := fun f => blockVal 0x20030900 a s f 0
    let code := fun c => c < 12 ∨ c = 16 ∨ c = 31
    let wpOk := a.ws.length ≤ 2 ∧ code (z Reg.WebPos.WPSRC) ∧ code (z Reg.WebPos.WPALT)
    let anyRuns := ∃ h, h < 32 ∧ s.running h = true
    (i < 32 → gridBad → no (.tesGrid x) 2) ∧
    (i < 32 → ¬gridBad → does (.tesGrid x) [.all .tesHead, .tes] fun t => ∀ h ∈ hs, h < 32 →
      t.rd Reg.TesHead.DY h = dy ∧ t.rd Reg.TesHead.YORG h = (a.w 1).toNat ∧ t.rd Reg.TesHead.TPER h = tper ∧ t.rd Reg.TesHead.LRMAX h = lr) ∧
    (i < 32 → (inUse → no (.tesXset x) 0xA) ∧ (¬inUse → long (bits w0 31 0) → no (.tesXset x) 2) ∧
      (¬inUse → ¬long (bits w0 31 0) → busy → no (.tesXset x) 3) ∧
      (¬inUse → ¬long (bits w0 31 0) → ¬busy → ∃ t, exec (.tesXset x) s = .next t ∧
        XTouched 0 [.one .tesHead i, .tes, .heads] (startedLong 4 3 x s) s t ∧ pends t (a.w 8) (a.w 9) ∧
        (t.tesOf i).dl = some { set := set, xtag := t0.xtag, img := [w0, a.w 1, a.w 2, a.w 3, a.w 4], start := false } ∧
        (t.tesOf i).images = t0.images ∧ (t.tesOf i).acked = t0.acked ∧ (t.head i).sent ≠ []) ∧
      (¬selOk → no (.tesXsel x) 2) ∧ (selOk → busy → no (.tesXsel x) 3) ∧
      (selOk → ¬busy → does (.tesXsel x) [.one .tesHead i, .tes, .heads] fun t => pends t w0 (a.w 1) ∧
        (t.tesOf i).ready = some s.raw ∧ (t.tesOf i).byAck = false)) ∧
    (32 ≤ i → no (.tesGrid x) 2 ∧ no (.tesXset x) 2 ∧ no (.tesXsel x) 2) ∧
    (∀ c ∈ [Instr.tesCut x, .tesCutFabric x],
      (fabric = true → s.rd Reg.Wlk.MASTER 0 = 0 ∨ s.rd Reg.Wlk.CUTDOM 0 = 0 → no c 3) ∧
      (fabric = true → s.rd Reg.Wlk.MASTER 0 ≠ 0 → s.rd Reg.Wlk.CUTDOM 0 ≠ 0 →
        (s.wlk.cut.isSome = true ∨ 63 ≤ s.cuts.length ∨ cutPoolFull s = true → waits c 4 5) ∧
        (s.wlk.cut = none → s.cuts.length < 63 → cutPoolFull s = false →
          (belowPorts s ≠ [] → cuts c fun t => t.wlk.cut = some { epoch := (cur + 1) % 128, pos := pcut, dir := dir, master := true, wait := belowPorts s }) ∧
          (belowPorts s = [] → out = 0 → acksCut s ((cur + 1) % 128) dir pcut = true → cuts c fun t => t.rd Reg.Cut.EPOCH 0 = (cur + 1) % 128))) ∧
      (fabric = false → 63 ≤ epochsInFlight s ∨ cutPoolFull s = true → waits c 4 5) ∧
      (fabric = false → epochsInFlight s < 63 → cutPoolFull s = false → (barred → no c 3) ∧
        (¬barred → cutValid s dir pcut = false → ∃ t, exec c s = .next t ∧
          XDid 0xB [(Reg.Cut.CUTLATECNT, 0, 0, min (s.rd Reg.Cut.CUTLATECNT 0 + 1) (2 ^ 32 - 1))] [] s.seq s t) ∧
        (¬barred → cutValid s dir pcut = true → cuts c fun t => t.rd Reg.Cut.EPOCH 0 = e1 % 128 ∧ t.rd Reg.Cut.CUTPOS 0 = low 64 pcut))) ∧
    (8 ≤ i → no (.pfuEnccfg x) 2 ∧ no (.pfuPpop x) 2) ∧
    (i < 8 → (¬encOk → no (.pfuEnccfg x) 2) ∧
      (encOk → does (.pfuEnccfg x) [.one .enc i, .enc, .pfuTick, .tokens] fun t => ∀ f ∈ [Reg.Enc.EN, Reg.Enc.HYST, Reg.Enc.ZMODE, Reg.Enc.ZGATE, Reg.Enc.INVDIR,
        Reg.Enc.DEC, Reg.Enc.FILT, Reg.Enc.BW, Reg.Enc.ILIM, Reg.Enc.LIMLO, Reg.Enc.LIMHI, Reg.Enc.CPR, Reg.Enc.FEVEN], t.rd f i = v f) ∧
      does (.pfuPpop x) [.one .probe i, .probes] fun t => t.probe i = (s.probe i).drop 1 ∧
        t.rd Reg.Probe.PVALID i = b2n (1 < (s.probe i).length)) ∧
    (¬wpOk → no (.pfuWpcfg x) 2) ∧
    (wpOk → does (.pfuWpcfg x) [.grp 3, .all .tesHead, .web, .tokens] fun t =>
      (∀ f ∈ [Reg.WebPos.WPALT, Reg.WebPos.COAST, Reg.WebPos.SCALE], t.rd f 0 = z f) ∧
      (srcFaulted s (z Reg.WebPos.WPSRC) = false → t.rd Reg.WebPos.WPSRC 0 = z Reg.WebPos.WPSRC ∧ t.rd Reg.WebPos.ALTEN 0 = z Reg.WebPos.ALTEN)) ∧
    (a.arg % 2 = 0 → no (.pfuWpset x) 2) ∧ (a.arg % 2 = 1 → anyRuns → no (.pfuWpset x) 5) ∧
    (a.arg % 2 = 1 → ¬anyRuns → does (.pfuWpset x) [.grp 3, .web] fun t => t.rd Reg.WebPos.WOFS 0 = low 64 pcut ∧
      (s.wpValid = false → t.web.frozen = pcut) ∧ (s.wpValid = true → t.web.frozen = s.web.frozen))

/-- WLK, TNT, TWP, PBA, CAL, PMU and SLC operations.
Readings and choices of the model in it: log entries 11, 58, 62, 64, 65. -/
def Obligations.ServiceOperations : Prop :=
  ∀ (x : XWord) (s : State), XReady x s →
    let a := xargs s x
    let i := a.i
    let w0 := a.w 0
    let no := fun c st => ∃ t, exec c s = .next t ∧ XDid st [] [] s.seq s t
    let does := fun c l (P : State → Prop) => ∃ t, exec c s = .next t ∧ XTouched 0 l s.seq s t ∧ P t
    let starts := fun c unit op l (P : State → Prop) => ∃ t, exec c s = .next t ∧ XTouched 0 l (startedLong unit op x s) s t ∧ P t
    let z := payOr a s 0
    let p := payOr a s i
    let r := fun (y lo hi : Nat) => lo ≤ y ∧ y ≤ hi
    let node := s.rd Reg.Wlk.NODE 0
    let nodeOk := r (z 1 Reg.Wlk.CUTWIN) 100 100000 ∧ z 1 Reg.Wlk.CUTTRIES ≠ 0
    let portOk := i < 4 ∧ a.ws.length ≤ 2
    let lo := if 2 < a.ws.length then a.w 2 else s.word 0x20110020
    let hi := if 3 < a.ws.length then a.w 3 else s.word 0x20110028
    let leaseOk := r (z 1 Reg.Wlk.LEASELEN) 100 1000000 ∧ r (z 1 Reg.Wlk.RENEW) 10 (z 1 Reg.Wlk.LEASELEN / 2) ∧ z 0 Reg.Wlk.LSRC ≤ 11 ∧
      r (z 0 Reg.Wlk.SYNCPER) 1 1000 ∧ r (z 0 Reg.Wlk.PSTO) 2 10000 ∧ (bits lo 55 0 ≠ 0 ∨ bits hi 41 0 ≠ 0)
    let lease := fun (t : State) => ∀ e ∈ [(0, Reg.Wlk.SYNCPER), (0, Reg.Wlk.PSTO), (0, Reg.Wlk.RANK), (0, Reg.Wlk.LSRC), (1, Reg.Wlk.LEASELEN),
      (1, Reg.Wlk.RENEW)], t.rd e.2 0 = z e.1 e.2
    let inc := bits w0 47 0
    let incOk := 15984 * 2 ^ 40 ≤ 1000 * inc ∧ 1000 * inc ≤ 16016 * 2 ^ 40
    let tmode := s.rd Reg.Tnt.TMODE 0
    let d := w0.toInt
    let anyRuns := ∃ h, h < 32 ∧ s.running h = true
    let ptp := [(0, Reg.TntPort.EN), (0, Reg.TntPort.SPEED), (0, Reg.TntPort.MAC), (1, Reg.TntPort.TXLAT), (1, Reg.TntPort.RXLAT),
      (1, Reg.TntPort.ETHASYM), (2, Reg.TntPort.ETHPOLL), (2, Reg.TntPort.QLOG), (2, Reg.TntPort.QBASE), (3, Reg.TntPort.MCAST)]
    let ptpOk := r (p 2 Reg.TntPort.ETHPOLL) 1 10000 ∧ r (p 2 Reg.TntPort.QLOG) 2 10 ∧ p 2 Reg.TntPort.QBASE % 4096 = 0 ∧
      p 2 Reg.TntPort.QBASE + (64 + 64 * 2 ^ p 2 Reg.TntPort.QLOG) ≤ 0x2000000
    let ptpHeld := s.rd Reg.TntPort.EN i ≠ 0 ∧ ∃ e ∈ ptp, e.2 ≠ Reg.TntPort.ETHPOLL ∧ p e.1 e.2 ≠ s.rd e.2 i
    let ppsOk := r (z 0 Reg.Tnt.PPSW) 1 65535 ∧ r (z 1 Reg.Tnt.SLEWPPM) 1 1000 ∧ r (z 1 Reg.Tnt.TSBW) 1 1000 ∧ z 1 Reg.Tnt.TMODE ≤ 1
    let xferOk := r i 1 2 ∧ a.ws.length = 10 ∧ r (bits w0 6 0) 0x08 0x77 ∧ bits w0 15 8 ≤ 32 ∧ bits w0 23 16 ≤ 32
    let stuckNow := (s.rd Reg.TwpPort.TWCAUSE i).testBit 2
    let targets := (List.range 5).filter fun k => bit w0 k
    let calOk := r (Reg.Cal.DT.get 0 w0) 1 40 ∧ Reg.Cal.ROTINT.get 0 w0 ≤ 3600
    let lc := s.rd Reg.Slc.LCSTATE 0
    let target := bits w0 7 0
    let auth := lc = 1 ∨ authorised s a.ws target (bits w0 9 8) = true
    let along := match lc with | 1 => [0x02, 0x10] | 2 => [0x04, 0x10] | 4 => [0x08, 0x10] | 8 => [0x10] | _ => []
    let may := target ∈ along ∧ (target = 2 → keyProgrammed s = true)
    let v := bits (a.w 13) 31 0
    let vOk := s.rd Reg.Slc.VERMIN 0 ≤ v ∧ v ≤ s.power.version ∧ (v = s.rd Reg.Slc.VERMIN 0 → bit w0 12 = true)
    (¬nodeOk → no (.wlkNode x) 2) ∧
    (nodeOk → does (.wlkNode x) [.grp 17, .all .wlkPort, .wlk, .tokens] fun t =>
      (∀ e ∈ [(0, Reg.Wlk.CUTDOM), (0, Reg.Wlk.NODE), (1, Reg.Wlk.CUTWIN), (1, Reg.Wlk.AMAX), (1, Reg.Wlk.CUTTRIES), (2, Reg.Wlk.WEVEN)],
        t.rd e.2 0 = z e.1 e.2) ∧ (z 0 Reg.Wlk.CUTDOM = 0 → t.rd Reg.Wlk.OUTDOMAIN 0 = 0)) ∧
    (node = 0 → no (.wlkPort x) 3 ∧ no (.wlkLease x) 3) ∧
    (node ≠ 0 → (¬portOk → no (.wlkPort x) 2) ∧
      (portOk → does (.wlkPort x) [.all .wlkPort, .wlk, .tokens] fun t =>
        t.rd Reg.WlkPort.EN i = p 0 Reg.WlkPort.EN ∧ t.rd Reg.WlkPort.ASYM i = p 0 Reg.WlkPort.ASYM) ∧
      (¬leaseOk → no (.wlkLease x) 2) ∧ (leaseOk → holderKnown s = true → does (.wlkLease x) [.grp 17] lease) ∧
      (leaseOk → holderKnown s = false → starts (.wlkLease x) 0x11 6 [.grp 17] lease)) ∧
    (¬incOk → no (.tntInc x) 2) ∧ (incOk → tmode = 1 → no (.tntInc x) 3) ∧
    (incOk → tmode ≠ 1 → does (.tntInc x) [.grp 18, .tnt] fun t => t.rd Reg.Tnt.INC 0 = inc ∧ t.rd Reg.Tnt.BASE 0 = s.pt ∧
      t.rd Reg.Tnt.ANCHOR 0 = s.raw ∧ t.pt = s.pt) ∧
    (tmode = 1 → no (.tntOffset x) 3) ∧ (tmode ≠ 1 → a.arg % 2 = 1 → anyRuns → no (.tntOffset x) 5) ∧
    (tmode ≠ 1 → a.arg % 2 = 1 → ¬anyRuns → does (.tntOffset x) [.grp 18, .tnt, .tokens] fun t =>
      t.rd Reg.Tnt.BASE 0 = low 64 ((s.pt : Int) + d) ∧ t.rd Reg.Tnt.ANCHOR 0 = s.raw) ∧
    (tmode ≠ 1 → a.arg % 2 = 0 → does (.tntOffset x) [.grp 18, .tnt] fun t =>
      t.tnt.slew = s.tnt.slew - s.absorbed s.raw + d ∧ t.tnt.ppm = s.rd Reg.Tnt.SLEWPPM 0) ∧
    (2 ≤ i → no (.tntPtp x) 2) ∧
    (i < 2 → (¬ptpOk → no (.tntPtp x) 2) ∧ (ptpOk → ptpHeld → no (.tntPtp x) 3) ∧
      (ptpOk → ¬ptpHeld → does (.tntPtp x) [.one .ethPort i, .tnt] fun t => ∀ e ∈ ptp, t.rd e.2 i = p e.1 e.2)) ∧
    (¬ppsOk → no (.tntPps x) 2) ∧
    (ppsOk → does (.tntPps x) [.grp 18, .tnt] fun t => (∀ e ∈ [(0, Reg.Tnt.PPSEN), (0, Reg.Tnt.PPSPOL), (0, Reg.Tnt.PPSW), (0, Reg.Tnt.PPSOFS),
      (1, Reg.Tnt.TSBW), (1, Reg.Tnt.STEPTHR), (1, Reg.Tnt.SLEWPPM), (2, Reg.Tnt.TEVEN), (1, Reg.Tnt.TMODE)], t.rd e.2 0 = z e.1 e.2)) ∧
    (¬xferOk → no (.twpXfer x) 2) ∧
    (xferOk → stuckNow = false → starts (.twpXfer x) 0x14 2 [.tw] fun t => (t.twOf i).queue = (s.twOf i).queue ++ [.xfer a.addr a.ws]) ∧
    (emberBusy s = true → no (.pbaEmber x) 3) ∧
    (emberBusy s = false → ∃ t, exec (.pbaEmber x) s = .next t ∧ t.power.ember = true ∧ t.pending = s.pending) ∧
    (targets = [] → no (.calRun x) 0) ∧
    (targets ≠ [] → starts (.calRun x) 0x16 1 [.dep] fun t => t.dep.requests = s.dep.requests ++ [targets]) ∧
    (¬calOk → no (.calCfg x) 2) ∧
    (calOk → does (.calCfg x) [.grp 22, .tokens] fun t => ∀ f ∈ [Reg.Cal.INHIBIT, Reg.Cal.DT, Reg.Cal.ROTINT], t.rd f 0 = z 0 f) ∧
    (∀ c ∈ [Instr.pmuSnap x, .pmuSnapFabric x],
      (a.arg % 2 = 0 → does c [.grp 23, .snap] fun t => t.snap = some (s.snap.getD {}) ∧ (s.snap = none → t.rd Reg.Pmu.SVALID 0 = 0)) ∧
      (a.arg % 2 = 1 → s.rd Reg.Wlk.MASTER 0 = 0 → no c 3) ∧
      (a.arg % 2 = 1 → s.rd Reg.Wlk.MASTER 0 ≠ 0 → s.snap = none →
        does c [.grp 23, .snap, .all .wlkPort, .grp 64, .sent] fun t => t.snap = some { at_ := some (s.pt + 1600000) })) ∧
    (∀ c ∈ [Instr.slcAdvance x, .slcAdvanceFuses x],
      (anyRuns → no c 5) ∧ (¬anyRuns → ¬auth → no c 2) ∧ (¬anyRuns → auth → target ≠ lc → ¬may → no c 2) ∧
      (¬anyRuns → auth → target ≠ lc → may → ∃ t, exec c s = .next t ∧ t.rd Reg.Slc.LCSTATE 0 = target ∧ t.rd Reg.Pba.RSTCAUSE 0 = 7 ∧
        ∀ b, secureAddr b = true → t.byte b = 0) ∧
      (¬anyRuns → auth → target = lc → ¬vOk → no c 2) ∧
      (¬anyRuns → auth → target = lc → vOk → does c [.grp 24] fun t => t.rd Reg.Slc.VERMIN 0 = v ∧
        t.rd Reg.Slc.REVOKED 0 = if bit w0 12 then s.rd Reg.Slc.REVOKED 0 ||| 2 ^ bits w0 11 10 else s.rd Reg.Slc.REVOKED 0)) ∧
    starts (.slcWipe x) 0x18 2 [.grp 24, .mem] (fun t => t.rd Reg.Slc.WIPING 0 = 1 ∧ ∀ b, secureAddr b = true → t.byte b = 0) ∧
    (dramReady s = true → starts (.slcKcopy x) 0x18 3 [] fun _ => True) ∧ (dramReady s = false → no (.slcKcopy x) 3)

/-- SST, DLG, HIS, CMP and OVS operations.
Readings and choices of the model in it: log entries 11, 37, 69. -/
def Obligations.OutputOperations : Prop :=
  ∀ (x : XWord) (s : State), XReady x s →
    let a := xargs s x
    let i := a.i
    let w0 := a.w 0
    let no := fun c st => ∃ t, exec c s = .next t ∧ XDid st [] [] s.seq s t
    let does := fun c l (P : State → Prop) => ∃ t, exec c s = .next t ∧ XTouched 0 l s.seq s t ∧ P t
    let starts := fun c unit op l (P : State → Prop) => ∃ t, exec c s = .next t ∧ XTouched 0 l (startedLong unit op x s) s t ∧ P t
    let r := fun (y lo hi : Nat) => lo ≤ y ∧ y ≤ hi
    let stored := fun (base : Nat) (j : Nat) (l : List Field) (t : State) => ∀ f ∈ l, t.rd f j = blockVal base a s f j
    let n := a.ws.length
    let vw := showSbrows (showMembers (writeView a s))
    let ms := membersOf vw i
    let vBusy := ∃ h ∈ membersOf s i ++ ms, s.busyHead h = true
    let vOk := n ≤ 9 ∧ r (vw.rd Reg.View.NCOL i) 1 1048576 ∧ vw.rd Reg.View.XPITCH i ≠ 0 ∧ vw.rd Reg.View.NMEM i ≤ 32 ∧ vw.rd Reg.View.EMODE i ≠ 3 ∧
      ms.Nodup ∧ (∀ h ∈ ms, ∀ u, u < 16 → u ≠ i → h ∉ membersOf s u) ∧ (ms ≠ [] → membersOk vw i = true ∧ 4 ≤ vw.rd Reg.View.SBROWS i)
    let e := fun f => blockVal 0x20060048 a s f i
    let eOk := n ≤ 1 ∧ r (e Reg.View.EXW) 32 1024 ∧ r (e Reg.View.XLAG) 2 64 ∧ r (e Reg.View.EDGETO) 1 1000000 ∧
      (e Reg.View.REMOTEL = 0 ∨ edgeReach s i false = true) ∧ (e Reg.View.REMOTER = 0 ∨ edgeReach s i true = true)
    let mf := [Reg.Marker.EN, Reg.Marker.MDIR, Reg.Marker.MSTRAW, Reg.Marker.VIEW, Reg.Marker.GRADEMIN, Reg.Marker.MPW, Reg.Marker.XLO, Reg.Marker.XHI]
    let m := fun f => blockVal 0x20094000 a s f i
    let masks := (List.range 4).filter fun k => 3 + k < n
    let mask := fun k => 0x20094018 + 0x40 * i + 8 * k
    let changes := (∃ f ∈ mf, m f ≠ s.rd f i) ∨ ∃ k ∈ masks, a.w (3 + k) ≠ s.word (mask k)
    let mOk := n ≤ 7 ∧ m Reg.Marker.MPW ≠ 0
    let l := fun f => blockVal 0x20090000 a s f 0
    let lOk := n ≤ 4 ∧ l Reg.Ledger.LBASE % 4096 = 0 ∧ dramBase ≤ l Reg.Ledger.LBASE ∧ l Reg.Ledger.LBASE < 2 * dramBase ∧
      r (l Reg.Ledger.LOG2N) 9 25 ∧ l Reg.Ledger.LRESV ≤ 65536 ∧ r (l Reg.Ledger.LINKAGE) 1 60000
    let hf := [Reg.HisHead.EN, Reg.HisHead.PRED, Reg.HisHead.HBASE, Reg.HisHead.HSIZE, Reg.HisHead.DLOG, Reg.HisHead.DIRBASE, Reg.HisHead.HFLUSH]
    let h := fun f => blockVal 0x200a0000 a s f i
    let hHeld := s.rd Reg.HisHead.EN i ≠ 0 ∧ ∃ f ∈ [Reg.HisHead.PRED, Reg.HisHead.HBASE, Reg.HisHead.HSIZE, Reg.HisHead.DLOG, Reg.HisHead.DIRBASE],
      h f ≠ s.rd f i
    let hOk := n ≤ 4 ∧ s.hasDram (h Reg.HisHead.HBASE) (h Reg.HisHead.HSIZE) = true ∧ s.hasDram (h Reg.HisHead.DIRBASE) (32 * 2 ^ h Reg.HisHead.DLOG) = true ∧
      (h Reg.HisHead.HBASE % 64 = 0 ∧ h Reg.HisHead.DIRBASE % 32 = 0 ∧ h Reg.HisHead.HSIZE % 64 = 0 ∧ h Reg.HisHead.PRED ≤ 3) ∧
      4 * (32 + 64 * (headRowLen s i + 5)) ≤ h Reg.HisHead.HSIZE ∧ r (h Reg.HisHead.DLOG) 10 26 ∧ r (h Reg.HisHead.HFLUSH) 1 10000
    let ch := bits w0 63 59
    let cropOk := bits w0 58 51 ≤ bits w0 50 43 ∧ bits w0 50 43 < stripsOf s ch ∧ (a.w 1).toNat ≤ (a.w 2).toNat ∧ bits w0 1 0 ≠ 3 ∧
      s.rd Reg.HisHead.EN ch ≠ 0
    let sf := [Reg.Stream.SRCT, Reg.Stream.SRC, Reg.Stream.SLOTSEL, Reg.Stream.KX, Reg.Stream.KY, Reg.Stream.OBYTE, Reg.Stream.DEST, Reg.Stream.DMACH,
      Reg.Stream.DNODE, Reg.Stream.CW, Reg.Stream.C0, Reg.Stream.RBASE, Reg.Stream.RLOG, Reg.Stream.FROWS, Reg.Stream.OGAPMAX, Reg.Stream.LBASE]
    let runs := s.rd Reg.Stream.RUNNING i ≠ 0
    let c := s.rd Reg.Stream.DMACH i
    (16 ≤ i → no (.sstView x) 2 ∧ no (.sstEdge x) 2 ∧ no (.dlgMarkcfg x) 2) ∧
    (i < 16 → (vBusy → no (.sstView x) 5) ∧ (¬vBusy → ¬vOk → no (.sstView x) 2) ∧
      (¬vBusy → vOk → does (.sstView x) [.all .view, .all .geom, .views] fun t => t.view i = {} ∧ stored 0x20060000 i [Reg.View.NMEM, Reg.View.NCOL,
        Reg.View.XPITCH, Reg.View.FILLVAL, Reg.View.XORG, Reg.View.KSEL, Reg.View.SBWEIGHT, Reg.View.EMODE, Reg.View.EPOL, Reg.View.ETHR,
        Reg.View.EIN, Reg.View.XEL, Reg.View.XER] t) ∧
      (¬eOk → no (.sstEdge x) 2) ∧
      (eOk → does (.sstEdge x) [.all .view] fun t => stored 0x20060048 i [Reg.View.REMOTEL, Reg.View.REMOTER, Reg.View.EXW, Reg.View.XLAG, Reg.View.EDGETO] t) ∧
      (¬mOk → no (.dlgMarkcfg x) 2) ∧ (mOk → s.rd Reg.Marker.EN i ≠ 0 → changes → no (.dlgMarkcfg x) 3) ∧
      (mOk → s.rd Reg.Marker.EN i = 0 ∨ ¬changes → does (.dlgMarkcfg x) [.one .marker i] fun t =>
        stored 0x20094000 i (Reg.Marker.MOFS :: mf) t ∧ ∀ k ∈ masks, t.word (mask k) = a.w (3 + k))) ∧
    (openViews s ≠ [] → no (.dlgRing x) 3) ∧
    (openViews s = [] → a.arg % 2 = 1 → 15 < i ∨ 2 < n → no (.dlgRing x) 2) ∧
    (openViews s = [] → a.arg % 2 = 1 → i ≤ 15 → n ≤ 2 → does (.dlgRing x) [.one .dlgView i] fun t =>
      stored 0x20090100 i [Reg.DlgView.LYOFS, Reg.DlgView.LXOFS] t) ∧
    (openViews s = [] → a.arg % 2 = 0 → ¬lOk → no (.dlgRing x) 2) ∧
    (openViews s = [] → a.arg % 2 = 0 → lOk → does (.dlgRing x) [.grp 9, .dlg] fun t => stored 0x20090000 0 [Reg.Ledger.LBASE, Reg.Ledger.LOG2N,
      Reg.Ledger.RDEN, Reg.Ledger.COLLECT, Reg.Ledger.LRESV, Reg.Ledger.DSEQBASE, Reg.Ledger.LINKAGE] t ∧
      t.rd Reg.Ledger.DSEQNEXT 0 = l Reg.Ledger.DSEQBASE ∧ t.rd Reg.Ledger.LWP 0 = 0 ∧ t.dlg.highest = []) ∧
    (32 ≤ i → no (.hisCfg x) 2) ∧
    (i < 32 → (hHeld → no (.hisCfg x) 3) ∧ (¬hHeld → ¬hOk → no (.hisCfg x) 2) ∧
      (¬hHeld → hOk → does (.hisCfg x) [.one .hisHead i, .one .head i, .heads, .his, .power] fun t => stored 0x200a0000 i hf t)) ∧
    (¬cropOk → no (.hisCrop x) 2) ∧
    (cropOk → starts (.hisCrop x) 0xA 2 [.his, .all .dma] fun t => t.his.crops.length = s.his.crops.length + 1 ∧
      ∃ k, t.his.crops.getLast? = some k ∧ k.head = ch ∧ k.sfirst = bits w0 58 51 ∧ k.slast = bits w0 50 43 ∧ k.byTime = bit w0 2 ∧
        k.mode = bits w0 1 0 ∧ k.first = (a.w 1).toNat ∧ k.last = (a.w 2).toNat ∧ k.dst = bits (a.w 3) 47 0 ∧ k.size = bits (a.w 4) 31 0 ∧
        k.work = bits (a.w 5) 47 0 ∧ k.addr = a.addr) ∧
    starts (.cmpFrame x) 0xB 2 [.his] (fun t => t.his.checks = s.his.checks ++ [(a.addr, [w0, a.w 1, a.w 2])]) ∧
    (8 ≤ i → no (.ovsCfg x) 2 ∧ no (.ovsCoef x) 2 ∧ no (.ovsStart x) 2 ∧ no (.ovsStop x) 2) ∧
    (i < 8 → (runs ∨ streamSpan s i = true → no (.ovsCfg x) 3) ∧
      (¬(runs ∨ streamSpan s i = true) → 6 < n ∨ streamOk (blockWrite 0x200c0000 a i 0 streamFields s) i = false → no (.ovsCfg x) 2) ∧
      (¬(runs ∨ streamSpan s i = true) → n ≤ 6 → streamOk (blockWrite 0x200c0000 a i 0 streamFields s) i = true →
        does (.ovsCfg x) [.one .stream i] fun t => stored 0x200c0000 i sf t) ∧
      (runs → no (.ovsCoef x) 3) ∧ (¬runs → 24 < n → no (.ovsCoef x) 2) ∧
      (¬runs → n ≤ 24 → does (.ovsCoef x) [.one .stream i] fun t => ∀ k, k < n → t.word (if k % 2 = 0 then Reg.Stream.H1.word i (k / 2)
        else Reg.Stream.H9.word i (k / 2)) = if k % 2 = 0 then a.w k else a.w k &&& 0xFFFFFFFFFFFFE00F) ∧
      (streamOk s i = false → no (.ovsStart x) 2) ∧ (streamOk s i = true → runs ∨ s.rd Reg.Dma.OWNER c ≠ 0 → no (.ovsStart x) 3) ∧
      (streamOk s i = true → ¬(runs ∨ s.rd Reg.Dma.OWNER c ≠ 0) → does (.ovsStart x) [.one .stream i, .one .dma c, .all .bank, .ovs] fun t =>
        t.rd Reg.Stream.RUNNING i = 1 ∧ t.rd Reg.Dma.OWNER c = 1 ∧ t.ovsOf i = {}) ∧
      (¬runs → no (.ovsStop x) 0) ∧ (runs → s.rd Reg.Stream.STOPPING i ≠ 0 → no (.ovsStop x) 3) ∧
      (runs → s.rd Reg.Stream.STOPPING i = 0 → starts (.ovsStop x) 0xC 4 [.all .stream, .store, .ovs, .grp 64] fun t =>
        t.rd Reg.Stream.STOPPING i = 1 ∧ ∀ q ∈ t.store, i ∉ q.need))

/-- DMC, MEM and DMA operations.
Readings and choices of the model in it: log entries 38, 39, 70. -/
def Obligations.StoreOperations : Prop :=
  ∀ (x : XWord) (s : State), XReady x s →
    let a := xargs s x
    let i := a.i
    let no := fun c st => ∃ t, exec c s = .next t ∧ XDid st [] [] s.seq s t
    let does := fun c l (P : State → Prop) => ∃ t, exec c s = .next t ∧ XTouched 0 l s.seq s t ∧ P t
    let starts := fun c unit op l (P : State → Prop) => ∃ t, exec c s = .next t ∧ XTouched 0 l (startedLong unit op x s) s t ∧ P t
    let state := s.rd Reg.Dmc.CHSTATE i
    let there := i < 8 ∧ s.rd Reg.Dmc.DIMMS i ≠ 0
    let rank := i < 8 ∧ a.arg < s.rd Reg.Dmc.RANKS i
    let spare := s.rd Reg.Dmc.SPAREEN i ≠ 0 ∧ s.rd Reg.Dmc.RETIRED i = 0
    let p := a.arg % 4
    let use := s.rd Reg.Mem.USE i
    let held := 1 ≤ use ∧ use ≤ 3
    let full := s.rd Reg.Dma.OWNER i ≠ 0 ∨ 4 ≤ (s.dmaOf i).queue.length
    let o := fun op long => ({ op := op, words := (List.range 8).map a.w, addr := a.addr, long := long } : DmaOp)
    let joined := fun op long t => (t.dmaOf i).queue = (s.dmaOf i).queue ++ [o op long] ∧ (t.dmaOf i).cur = (s.dmaOf i).cur ∧
      t.rd Reg.Dma.QFILL i = (s.dmaOf i).queue.length + 1
    (¬there → no (.dmcTrain x) 2) ∧ (there → state ≠ 0 → state ≠ 3 → no (.dmcTrain x) 3) ∧
    (there → state = 0 ∨ state = 3 → starts (.dmcTrain x) 0xD 2 [.one .dmc i, .damper, .grp 21, .tokens] fun t => t.rd Reg.Dmc.CHSTATE i = 1) ∧
    (¬rank → no (.dmcRetire x) 2) ∧ (rank → s.channelUp i = false → no (.dmcRetire x) 3) ∧
    (rank → s.channelUp i = true → ¬spare → (s.dram i).cur = none → does (.dmcRetire x) [.one .dmc i] fun t => t.rd Reg.Dmc.CHSTATE i = 5) ∧
    (rank → s.channelUp i = true → spare → (s.dram i).cur = none → (s.dram i).queue = [] →
      starts (.dmcRetire x) 0xD 5 [.all .dmc, .dmc] fun t => t.rd Reg.Dmc.CHSTATE i = 4 ∧ t.rd Reg.Dmc.MIGRANK i = a.arg ∧
        (t.dram i).cur = some { rank := a.arg, long := true }) ∧
    (256 ≤ i → no (.memPower x) 2) ∧
    (i < 256 → (p = 3 → no (.memPower x) 2) ∧ (p ≠ 3 → held → no (.memPower x) 3) ∧
      (p ≠ 3 → ¬held → does (.memPower x) [.one .bank i, .mem, .free] fun t => t.rd Reg.Mem.POWER i = p ∧ t.rd Reg.Mem.PSTATE i = p ∧
        ∀ b, p ≠ 2 ∨ s.rd Reg.Mem.PSTATE i = 2 ∨ b < i * 0x80000 ∨ (i + 1) * 0x80000 ≤ b → t.byte b = s.byte b)) ∧
    (∀ e ∈ [(1, Instr.dmaLinear x), (2, .dmaRect x), (3, .dmaGather x), (4, .dmaFill x), (5, .dmaCompare x), (6, .dmaFence x)],
      (16 ≤ i → no e.2 2) ∧ (i < 16 → full → no e.2 3) ∧
      (i < 16 → ¬full → e.1 = 6 ∨ a.arg % 2 = 1 → starts e.2 0xE e.1 [.one .dma i, .dma] (joined e.1 true)) ∧
      (i < 16 → ¬full → e.1 ≠ 6 → a.arg % 2 = 0 → does e.2 [.one .dma i, .dma] (joined e.1 false)))

/-- Program faults of every instruction (R255 to R258, R300, R304).
Readings and choices of the model in it: log entries 63, 132. -/
def Obligations.ProgramFaults : Prop :=
  ∀ (u : Nat) (w : IWord) (x : XWord) (line : Nat) (s : State),
    let p := s.proc (core u)
    let ss : List (Nat → IWord → Instr) := [
      Instr.add, .sub, .and_, .or_, .xor_, .shl, .shr, .sra, .mul, .mulh, .slt, .min_, .max_, .lda, .adda, .movsa, .movas, .beq, .bne,
      .blt, .bge, .bltu, .bgeu, .jal, .jr, .end_, .evpost, .evfire, .rdt, .fence, .nop]
    let vs : List (Nat → IWord → Instr) := [
      Instr.vadd, .vsub, .vabsd, .vmin, .vmax, .vand, .vor, .vxor, .vshl, .vshr, .vrshr, .vmul, .vmulsh, .vmac, .vlerp, .vcmpeq, .vcmpne,
      .vcmplt, .vcmple, .vcmpgt, .vcmpge, .vsel, .vmov, .vwrd, .vcsh, .vwiden, .vnarrow, .vlut, .lutld, .vhist, .hrd, .hclr, .vrsum,
      .vrmin, .vrmax, .pcnt, .pand, .por, .pxor, .pandn, .vpbit, .vst, .out, .wpush]
    let ofBoth := ss.map fun c => c u w
    let ofRp := (vs.map fun c => c u w) ++ [.krd u w, .vld u w 0 line]
    let ofSeq := [Instr.xat u w, .xstat u w, .xwait u w]
    let is := ofBoth ++ ofRp ++ ofSeq ++ [.pfx u w, .ld u w 0, .st u w]
    let xs : List (XWord → Instr) := [
      Instr.seqLease, .seqWdog, .seqHandler, .slaCfg, .slaTxtaps, .slaPower, .slaTrain, .slaPrbs, .slaInject, .slaEyescan, .slaRefsel,
      .slaEyecfg, .hauBond, .hauCfg, .hauMap, .hauEballoc, .hauStart, .hauStop, .hauShare, .hauCamreg, .hauEslcfg, .pfuEnccfg, .pfuSsicfg,
      .pfuPrbcfg, .pfuPpop, .pfuDivcfg, .pfuWpcfg, .pfuWpset, .tesCfg, .tesGrid, .tesXset, .tesXsel, .tesCut, .tesCutFabric, .rpaLoad,
      .rpaKset, .rpaSmwrite, .rpaResume, .rpaCfg, .sstView, .sstGeom, .sstSeam, .sstBlend, .sstEdge, .rtkPlane, .rtkStraw, .rtkFeat,
      .rclModel, .rclFeatmap, .dlgMarkcfg, .dlgMlate, .dlgRing, .dlgSumpcfg, .hisCfg, .hisCrop, .cmpCfg, .cmpFrame, .ovsCfg, .ovsCoef,
      .ovsStart, .ovsStop, .dmcCfg, .dmcTrain, .dmcXormap, .dmcSpare, .dmcRetire, .dmaLinear, .dmaRect, .dmaGather, .dmaFill, .dmaCompare,
      .dmaFence, .memMode, .memPower, .memRowstore, .hifMircfg, .wlkNode, .wlkRoute, .wlkPort, .wlkEdge, .wlkFwd, .wlkLease, .tntInc,
      .tntOffset, .tntPtp, .tntPps, .evrChan, .evrTask, .evrGate, .twpCfg, .twpXfer, .pbaBudget, .pbaVbounds, .pbaTarget, .pbaMonitor,
      .pbaEmber, .calRun, .calCfg, .calLimits, .pmuCntset, .pmuSnap, .pmuSnapFabric, .pmuSampcfg, .slcAdvance, .slcAdvanceFuses, .slcWipe,
      .slcKcopy]
    let k := activeCore s
    let halts := fun c code => ∀ r, p.run = some r → r.lrp < 64 → ∃ t, exec c s = .next t ∧ t.rd Reg.Lrp.HALTED r.lrp = 1 ∧
      t.rd Reg.Lrp.FCODE r.lrp = code ∧ t.rd Reg.Lrp.FHEAD r.lrp = r.tag.head % 32 ∧ t.rd Reg.Lrp.FSTRIP r.lrp = r.tag.strip % 256 ∧
      t.rd Reg.Lrp.FLSEQ r.lrp = r.tag.lseq % 2 ^ 40 ∧ (t.proc u).run = none ∧ (t.proc u).retired = 0
    let ends := fun c j code => ∃ t, exec c s = .next t ∧ t.seq.cur = none ∧ (t.proc j).pfx = none ∧
      (∀ q, s.seq.cur = some (.command q) → t.seq.log = s.seq.log.map fun e =>
        if e.cseq = q then { e with open_ := false, status := 0xD, idx := (s.proc j).faultIdx } else e) ∧
      ((∀ q, s.seq.cur ≠ some (.command q)) → t.rd Reg.Seq.HFCODE 0 = code ∧ t.seq.log = s.seq.log)
    let limit := s.rd Reg.RpaGlobal.RUNLIMIT 0
    (72 ≤ u → u < 76 → mayExecute s u = false → ∀ c ∈ is, exec c s = .next s) ∧
    (mayExecute s k = false ∨ leaseHeld s = false → ∀ c ∈ xs, exec (c x) s = .next s) ∧
    (u < 72 → s.up = true → limit ≤ p.retired → ∀ c ∈ is, halts c 5) ∧
    (u < 72 → s.up = true → p.retired < limit → (8 ≤ w.md → ∀ c ∈ ofBoth ++ [.krd u w, .ld u w 0, .st u w], halts c 1) ∧ (∀ c ∈ ofSeq, halts c 1) ∧
      (runLen s p ≤ p.pc → ∀ c ∈ is, halts c 1)) ∧
    (72 ≤ u → u < 76 → mayExecute s u = true →
      (offEnd s (core u) p = true ∨ w.pred ≠ 0 ∨ 8 ≤ w.md → ∀ c ∈ ofBoth ++ ofSeq, ends c (core u) 1) ∧
      (∀ c ∈ ofRp, ends c (core u) 1) ∧ (offEnd s (core u) p = true ∨ p.pfx.isSome = true → ends (.pfx u w) (core u) 1)) ∧
    (∀ code, mayExecute s k = true → leaseHeld s = true → xFault s x = some code → ∀ c ∈ xs, ends (c x) k code) ∧
    ((s.proc k).pfx.isSome = true ∨ offEnd s k (s.proc k) = true ∨ 64 < x.len → xFault s x = some 1)

/-- Training of a sensor lane (Table 2-3).
Readings and choices of the model in it: log entries 12, 145, 146, 148. -/
def Obligations.LaneTraining : Prop :=
  ∀ (n : Nat) (s : State), n < 256 →
    let l := s.lane n
    let st := s.rd Reg.Lane.STATE n
    let ev := fun c ps (P : State → Prop) => ∃ t, exec c s = .next t ∧ Only ps s t ∧ P t
    let nothing := fun c => exec c s = .next s
    let trains := fun k t => t.rd Reg.Lane.STATE n = 2 ∧ t.rd Reg.Lane.FENORESP n = 0 ∧ (t.lane n).step = k ∧ (t.lane n).failed = false ∧
      (t.lane n).relocked = false ∧ (t.lane n).deskewed = false
    let caused := fun c t => (t.rd Reg.Lane.EVCAUSE n).testBit c = true ∧
      t.tokens = s.tokens ++ if (s.rd Reg.Lane.EVEN n).testBit c then tokensOf s n else []
    let at_ := fun k => st = 2 ∧ l.step = k ∧ l.failed = false
    let pattern := s.rd Reg.Lane.PRBSGEN n ≠ 0 ∨ s.rd Reg.Lane.PRBSCHK n ≠ 0
    let me : List Part := [.one .lane n, .lanes]
    let meT : List Part := [.one .lane n, .lanes, .tokens]
    let meH : List Part := [.one .lane n, .lanes, .heads, .tokens]
    let wakes := s.granted 2 n = true ∧ st = 1 ∧ s.rd Reg.LaneGroup.REFFAULT (n / 16) = 0
    let pinned := fun q => (s.rd Reg.Lane.PIN n).testBit q = true
    let ctle := fun code => if (s.rd Reg.Lane.PIN n).testBit 3 then s.rd Reg.Lane.CTLE n
      else max (s.rd Reg.Lane.CTLEMIN n) (min code (s.rd Reg.Lane.CTLEMAX n))
    let dfe := fun (k : Nat) (v : Int) => let m : Nat := if k = 1 then s.rd Reg.Lane.DFE1MAX n else 31
      low 7 (clampI (-(m : Int)) m v)
    let adapts := fun code t => t.rd Reg.Lane.CTLE n = ctle code ∧ ((t.lane n).heldQ.testBit 0 = true ↔ ¬pinned 3 ∧ ctle code ≠ code) ∧
      t.rd Reg.Lane.EQBOUND n = b2n ((t.lane n).heldQ != 0)
    -- step 2·tap (DEC) or 2·tap + 1 (INC) may be requested
    let may := fun (acked : Bool) (closed : Nat) (code : Nat → Nat) (k : Nat) => ¬pinned (2 - k / 2) ∧ closed.testBit k = false ∧
      (acked = true → if k % 2 = 0 then (feBounds s n (k / 2)).1 < code (k / 2) else code (k / 2) < (feBounds s n (k / 2)).2)
    let asks := fun action tap vals t => (t.lane n).step = 5 ∧ (t.lane n).req = some { action := action, tap := tap, rseq := l.rseq, vals := vals } ∧
      (t.lane n).rseq = (l.rseq + 1) % 256 ∧ (t.lane n).reqs = l.reqs + 1
    let goesOn := fun (ok : Nat → Prop) t => ((∀ k, k < 6 → ¬ok k) → (t.lane n).step = 6 ∧ (t.lane n).req = none) ∧
      ((∃ k, k < 6 ∧ ok k) → ∃ k, k < 6 ∧ ok k ∧ asks (if k % 2 = 1 then 0 else 1) (k / 2) [] t)
    (wakes → ¬pattern → ev (.laneWake n) meT fun t => trains 1 t ∧ t.rd Reg.Lane.COLD n = 0 ∧ (t.lane n).short = l.retained) ∧
    (wakes → pattern → ev (.laneWake n) meT fun t => t.rd Reg.Lane.STATE n = 6 ∧ t.rd Reg.Lane.COLD n = 0) ∧
    (s.granted 2 n = false ∨ st ≠ 1 ∨ s.rd Reg.LaneGroup.REFFAULT (n / 16) ≠ 0 → nothing (.laneWake n)) ∧
    (∀ code, (at_ 1 ∨ at_ 2 → ev (.signalDetect n code) [.all .lane, .lanes, .heads, .tokens] fun t => (t.lane n).step = 3 ∧ adapts code t) ∧
      (¬(at_ 1 ∨ at_ 2) → nothing (.signalDetect n code))) ∧
    (at_ 3 → ev (.blockLock n) [.lanes] fun t => t.lane n = { l with step := 4 }) ∧
    (st = 4 → ev (.blockLock n) [.lanes] fun t => t.lane n = { l with relocked := true }) ∧
    (¬at_ 3 → st ≠ 4 → nothing (.blockLock n)) ∧
    (blockLocked s n = true → ev (.lockLost n) meT fun t => (t.lane n).relocked = false ∧ (t.lane n).deskewed = false ∧
      t.rd Reg.Lane.LOCKLOSS n = min (s.rd Reg.Lane.LOCKLOSS n + 1) (2 ^ Reg.Lane.LOCKLOSS.width - 1) ∧
      (st = 3 → t.rd Reg.Lane.STATE n = 4 ∧ caused 1 t) ∧
      (st ≠ 3 → t.rd Reg.Lane.STATE n = st ∧ t.tokens = s.tokens ∧ (st = 2 → (t.lane n).step = 3))) ∧
    (blockLocked s n = false → nothing (.lockLost n)) ∧
    (∀ k, k < 16 → exec (.lockLost (256 + k)) s = .next (if s.portUp (k / 4) then portDown (k / 4) 3 s else s)) ∧
    (st = 4 → l.relocked = false → ev (.relockTimeout n) me (trains 2)) ∧
    (st = 2 → l.step = 3 → l.resumed = true → ev (.relockTimeout n) me fun t => trains 2 t ∧ (t.lane n).resumed = false) ∧
    (at_ l.step → l.step ≠ 0 → l.step ≠ 6 → ev (.trainStepTimeout n) meT fun t => (t.lane n).failed = true ∧ caused 6 t) ∧
    (at_ 6 → ev (.trainStepTimeout n) [.all .lane, .lanes, .tokens] fun t => ∀ m ∈ laneSet s n, s.rd Reg.Lane.STATE m = 2 → (s.lane m).step = 6 →
      (t.lane m).failed = true ∧ (t.rd Reg.Lane.EVCAUSE m).testBit 6 = true ∧ (t.rd Reg.Lane.EVCAUSE m).testBit 8 = true) ∧
    (st = 2 → l.failed = true → ev (.trainRetry n) me (trains 1)) ∧ (st ≠ 2 ∨ l.failed = false → nothing (.trainRetry n)) ∧
    (∀ hlane rseq (pre main post : TapAnswer) better want, let c := Instr.tapackReceive n hlane rseq pre main post better want
      let mine := ∃ r, l.req = some r ∧ r.rseq = rseq ∧ hlane = lanePos s n
      let stale := if better then 0 else l.stale + 1
      let code := fun q => match q with | 0 => pre.code % 2 ^ Reg.Lane.FEPRE.width | 1 => main.code % 2 ^ Reg.Lane.FEMAIN.width | _ => post.code % 2 ^ Reg.Lane.FEPOST.width
      let closed := closeDirs l.closed pre.result main.result post.result
      (at_ 5 → mine → ev c meH fun t => t.rd Reg.Lane.FEPRE n = code 0 ∧ t.rd Reg.Lane.FEMAIN n = code 1 ∧ t.rd Reg.Lane.FEPOST n = code 2 ∧
        (t.lane n).acked = true ∧ (t.lane n).stale = stale ∧ (t.lane n).closed = closed ∧
        (16 ≤ stale ∨ 256 ≤ l.reqs → (t.lane n).step = 6 ∧ (t.lane n).req = none) ∧
        (stale < 16 → l.reqs < 256 → goesOn (may true closed code) t)) ∧
      (¬(at_ 5 ∧ mine) → nothing c)) ∧
    (∀ r, at_ 5 → l.req = some r → l.repeats < 3 → ev (.taptoExpiry n) [.lanes, .heads] fun t => t.lane n = { l with repeats := l.repeats + 1 } ∧
      ∀ h k, bondOf s n = some (h, k) → (t.head h).down.taps = (s.head h).down.taps ++ [r.block k]) ∧
    (∀ r, at_ 5 → l.req = some r → 3 ≤ l.repeats → ev (.taptoExpiry n) me fun t => (t.lane n).step = 6 ∧ (t.lane n).req = none ∧
      t.rd Reg.Lane.FENORESP n = 1) ∧
    (¬at_ 5 ∨ l.req = none → nothing (.taptoExpiry n)) ∧
    (∀ code vs want, let c := Instr.eqAdaptDone n { ctle := code, dfe := vs } want
      (at_ 4 → ev c meH fun t => t.rd Reg.Lane.CTLE n = ctle code ∧
        (∀ k, k < 8 → t.rd2 Reg.Lane.DFETAP n (7 - k) = dfe (k + 1) (vs.getD k 0)) ∧
        (bondOf s n = none ∨ l.short = true → (t.lane n).step = 6) ∧
        (∀ h j, bondOf s n = some (h, j) → l.short = false →
          (downUp s h = false → (t.lane n).step = 5 ∧ (t.lane n).req = l.req ∧ (t.lane n).want = want) ∧
          (downUp s h = true → s.rd Reg.Lane.STARTEN n ≠ 0 → l.acked = true ∨ (∀ q, q < 3 → ¬pinned q) →
            asks 2 0 ((List.range 3).map (presetVal s n)) t) ∧
          (downUp s h = true → s.rd Reg.Lane.STARTEN n = 0 → goesOn (may l.acked l.closed (feCode s n)) t))) ∧
      (¬at_ 4 → nothing c)) ∧
    (∀ q v, (st = 3 → q = 0 → ev (.eqBoundHold n q v) meT (adapts v.toNat)) ∧
      (st = 3 → 1 ≤ q → q ≤ 8 → ev (.eqBoundHold n q v) meT fun t => t.rd2 Reg.Lane.DFETAP n (8 - q) = dfe q v ∧
        (q = 1 → ((t.lane n).heldQ.testBit 1 = true ↔ s.rd Reg.Lane.DFE1MAX n < v.natAbs))) ∧
      (st ≠ 3 ∨ 8 < q → nothing (.eqBoundHold n q v)))

/-- Monitors of the sensor lanes.
Readings and choices of the model in it: log entries 12, 96, 97, 145, 147. -/
def Obligations.LaneMonitoring : Prop :=
  ∀ (n : Nat) (s : State), n < 256 →
    let l := s.lane n
    let st := s.rd Reg.Lane.STATE n
    let ev := fun c ps (P : State → Prop) => ∃ t, exec c s = .next t ∧ Only ps s t ∧ P t
    let nothing := fun c => exec c s = .next s
    let rd := fun f => s.rd f n
    let sat := fun (t : State) f k => t.rd f n = min (rd f + k) (2 ^ f.width - 1)
    let caused := fun c (t : State) => (t.rd Reg.Lane.EVCAUSE n).testBit c = true ∧
      t.tokens = s.tokens ++ if (rd Reg.Lane.EVEN).testBit c then tokensOf s n else []
    let quiet := fun (t : State) => t.rd Reg.Lane.EVCAUSE n = rd Reg.Lane.EVCAUSE ∧ t.tokens = s.tokens
    let alone := bondOf s n = none
    let one : List Part := [.one .lane n, .lanes, .tokens]
    (∀ bad, (blockLocked s n = true → ev (.hiberWindow n bad) [.one .lane n, .tokens, .grp 64] fun t => sat t Reg.Lane.SHDRERR bad ∧
        t.rd Reg.Lane.HIBER n = b2n (decide (16 ≤ bad)) ∧ if 16 ≤ bad ∧ rd Reg.Lane.HIBER = 0 then caused 3 t else quiet t) ∧
      (blockLocked s n = false → nothing (.hiberWindow n bad))) ∧
    (∀ g present ppb, g < 16 → let good := present = true ∧ Int.natAbs ppb ≤ 200000
      let bad := present = false ∨ 300000 < Int.natAbs ppb
      let fault := s.rd Reg.LaneGroup.REFFAULT g
      let run := Tbl.get (fun _ => 0) s.goodWin g
      let window := Instr.refMonitorWindow g present ppb
      let L : List Part := [.one .laneGroup g, .all .lane, .lanes, .goodWin, .grp 21, .damper, .tokens]
      (ev window L fun t => (t.rd Reg.LaneGroup.REFOK g = 1 ↔ good) ∧ t.rd Reg.LaneGroup.REFPPB g = low Reg.LaneGroup.REFPPB.width ppb) ∧
      (fault = 0 → bad → ev window L fun t => t.rd Reg.LaneGroup.REFFAULT g = 1 ∧ ∀ k, k < 16 → t.rd Reg.Lane.STATE (16 * g + k) = 7) ∧
      (fault = 0 → ¬bad → ev window [.one .laneGroup g] fun t => t.rd Reg.LaneGroup.REFFAULT g = 0) ∧
      (fault ≠ 0 → ¬good ∨ run < 9 → ev window [.one .laneGroup g, .goodWin] fun t => t.rd Reg.LaneGroup.REFFAULT g = fault) ∧
      (fault ≠ 0 → good → run < 9 → ev window L fun t => Tbl.get (fun _ => 0) t.goodWin g = run + 1) ∧
      (fault ≠ 0 → good → 9 ≤ run → ev window L fun t => t.rd Reg.LaneGroup.REFFAULT g = 0 ∧ Tbl.get (fun _ => 0) t.goodWin g = 0 ∧
        ∀ k, k < 16 → let m := 16 * g + k
          t.rd Reg.Lane.STATE m = if s.rd Reg.Lane.COLD m ≠ 0 ∨ (s.lane m).wasCold = true then 1 else if s.rd Reg.Lane.RATE m = 0 then 0
            else if s.rd Reg.Lane.PRBSGEN m ≠ 0 ∨ s.rd Reg.Lane.PRBSCHK m ≠ 0 then 6 else 2)) ∧
    (∀ fill, (12 < fill → ev (.skipReceive n fill) [.one .lane n, .grp 64] fun t =>
        t.rd Reg.Lane.ELFILL n = (fill - 1) % 2 ^ Reg.Lane.ELFILL.width ∧
        t.rd Reg.Lane.SKIPDEL n = (rd Reg.Lane.SKIPDEL + 1) % 2 ^ Reg.Lane.SKIPDEL.width) ∧
      (fill < 4 → ev (.skipReceive n fill) [.one .lane n, .grp 64] fun t => t.rd Reg.Lane.ELFILL n = fill + 1 ∧
        t.rd Reg.Lane.SKIPINS n = (rd Reg.Lane.SKIPINS + 1) % 2 ^ Reg.Lane.SKIPINS.width) ∧
      (4 ≤ fill → fill ≤ 12 → ev (.skipReceive n fill) [.one .lane n] fun t => t.rd Reg.Lane.ELFILL n = fill)) ∧
    (∀ hlane ctr spread, let align := Instr.alignReceive n hlane ctr spread
      let c := ctr % 65536
      let set := laneSet s n
      let ready := fun m => m = n ∨ ((s.lane m).alignSeen = true ∧ (s.lane m).alignCtr = c)
      let wrong := hlane ≠ lanePos s n ∨ 32 < spread ∨ (l.deskewed = true ∧ ∃ m ∈ set, m ≠ n ∧ (s.lane m).deskewed = true ∧
        (s.lane m).alignCtr ≠ c ∧ ((s.lane m).alignCtr + 1) % 65536 ≠ c)
      let joins := fun m (t : State) => (s.rd Reg.Lane.RXSLEEP m = 0 → (t.lane m).deskewed = true) ∧ t.rd Reg.Lane.STATE m =
        if (s.rd Reg.Lane.STATE m = 2 ∧ (s.lane m).step = 6 ∧ (s.lane m).failed = false) ∨ (s.rd Reg.Lane.STATE m = 4 ∧ (s.lane m).relocked = true)
        then (if s.rd Reg.Lane.RXSLEEP m = 0 then 3 else 5) else s.rd Reg.Lane.STATE m
      let does := ev align [.all .lane, .lanes, .tokens]
      (blockLocked s n = false → nothing align) ∧
      (blockLocked s n = true → does (fun t => t.rd Reg.Lane.HLANE n = hlane % 2 ^ Reg.Lane.HLANE.width) ∧
        (wrong → does fun t => ∀ m ∈ set, (t.lane m).deskewed = false ∧ (t.rd Reg.Lane.EVCAUSE m).testBit 8 = true) ∧
        (wrong → alone → does (caused 8)) ∧
        (¬wrong → (∀ m ∈ set, ready m) → does fun t => ∀ m ∈ set, joins m t) ∧
        (¬wrong → (∃ m ∈ set, ¬ready m) → st = 4 → l.deskewed = false → (∃ m ∈ set, (s.lane m).deskewed = true) →
          (∀ m ∈ set, (s.lane m).deskewed = true → ready m) → does (joins n)))) ∧
    (blockLocked s n = true → (ev (.alignTimeout n) [.all .lane, .lanes, .tokens] fun t => ∀ m ∈ laneSet s n, (t.lane m).deskewed = false ∧
        (t.rd Reg.Lane.EVCAUSE m).testBit 8 = true) ∧ (alone → ev (.alignTimeout n) [.all .lane, .lanes, .tokens] (caused 8))) ∧
    (blockLocked s n = false → nothing (.alignTimeout n)) ∧
    (∀ bits, (rd Reg.Lane.PRBSSYNC ≠ 0 → rd Reg.Lane.PRBSCHK ≠ 0 → ev (.prbsError n bits) one fun t =>
        sat t Reg.Lane.PRBSBITS (max bits 1) ∧ sat t Reg.Lane.PRBSERRS 1 ∧ (t.lane n).mism = (if bits ≤ 1 then l.mism + 1 else 1) ∧
        if l.prbsErr = true then quiet t else caused 4 t) ∧
      (rd Reg.Lane.PRBSSYNC = 0 ∨ rd Reg.Lane.PRBSCHK = 0 → nothing (.prbsError n bits))) ∧
    (rd Reg.Lane.PRBSSYNC ≠ 0 → 64 ≤ l.mism → ev (.prbsResync n) one fun t => t.rd Reg.Lane.PRBSSYNC n = 0 ∧ (t.lane n).mism = 0 ∧ (t.lane n).prbsErr = false ∧ caused 4 t) ∧
    (rd Reg.Lane.PRBSSYNC = 0 ∨ l.mism < 64 → nothing (.prbsResync n)) ∧
    (∀ count, let points := if l.scanCross = true then 192 else 8192
      let a := l.scanAddr + 4 * l.scanPoint
      (rd Reg.Lane.ESTATE = 1 → st = 3 → ev (.eyescanPointDone n count) [.one .lane n, .lanes, .tokens, .mem, .poison] fun t =>
        (t.lane n).scanPoint = l.scanPoint + 1 ∧ bytesNat ((List.range 4).map fun k => t.byte (a + k)) = min count (2 ^ 32 - 1) ∧
        (∀ b, b < a ∨ a + 4 ≤ b → t.byte b = s.byte b) ∧
        if l.scanPoint + 1 = points then t.rd Reg.Lane.ESTATE n = 2 ∧ (t.rd Reg.Lane.EVCAUSE n).testBit 5 = true
        else t.rd Reg.Lane.ESTATE n = 1 ∧ quiet t) ∧
      (rd Reg.Lane.ESTATE ≠ 1 ∨ st ≠ 3 → nothing (.eyescanPointDone n count)))

/-- Line reception (R141, R154 to R164).
Readings and choices of the model in it: log entries 12, 20, 101, 146, 151. -/
def Obligations.LineReception : Prop :=
  ∀ (h : Nat) (s : State), h < 32 →
    let e := s.head h
    let L : List Part := [.all .head, .one .eslHead h, .one .tesHead h, .grp 9, .grp 64, .gaps, .heads, .mem, .poison, .power, .sump, .tokens]
    let ev := fun c ps (P : State → Prop) => ∃ t, exec c s = .next t ∧ Only ps s t ∧ P t
    let nothing := fun c => exec c s = .next s
    let count := fun (f : Field) k (t : State) => t.rd f h = min (s.rd f h + k) (2 ^ f.width - 1)
    let only := fun c f k => ∃ t, exec c s = .next t ∧ Writes [(f, h, 0, min (s.rd f h + k) (2 ^ f.width - 1))] s t ∧ Others [] s t
    let ready := (List.range (laneCount s h)).countP (delivers s h)
    let row := fun (l : Line) (t : State) => (t.head h).rows.length = e.rows.length + 1 ∧
      ∀ r, (t.head h).rows.getLast? = some r → r.tag.head = h ∧ r.tag.lseq = l.rcd.lseq ∧ r.tag.pos = l.rcd.pos ∧ r.tag.time = l.rcd.time ∧
        r.slot = l.slot.getD 0 ∧ r.todo = List.range (stripsOf s h)
    (∀ num xset echo test len cline differ, let c := Instr.lineStart h num xset echo test len cline differ
      (∀ i r, (e.recs.findIdx? fun q => q.num == num % 65536) = some i → e.recs[i]? = some r →
        ev c L fun t => (t.head h).recs = e.recs.drop (i + 1) ∧ ∃ l, (t.head h).line = some l ∧ l.rcd = r ∧ l.len = len ∧ l.xset = xset ∧
          l.echo = echo ∧ l.test = test ∧ l.cline = cline ∧ l.blocks = [] ∧ l.drop = false ∧ l.differs = differ) ∧
      ((e.recs.findIdx? fun q => q.num == num % 65536) = none →
        ev c L fun t => (t.head h).recs = e.recs ∧ (∃ l, (t.head h).line = some l ∧ l.drop = true) ∧ count Reg.Head.UNMATCHCNT 1 t) ∧
      (∀ l k, e.line = some l → l.drop = false → l.slot = some k → ev c L (row l))) ∧
    (∀ blocks, (e.line = none → only (.dataColumn h blocks) Reg.EslHead.ORPHCNT
        ((List.range (laneCount s h)).countP fun k => (blocks.getD k none).isSome && delivers s h k)) ∧
      (∀ l, e.line = some l → l.drop = true ∨ (∀ k, k < laneCount s h → blocks.getD k none = none ∨ delivers s h k = false) →
        nothing (.dataColumn h blocks)) ∧
      (∀ l, e.line = some l → l.drop = false → (∃ k, k < laneCount s h ∧ (blocks.getD k none).isSome = true ∧ delivers s h k = true) →
        ev (.dataColumn h blocks) [.one .eslHead h, .heads] (count Reg.EslHead.MIXCNT
          (b2n (mixed s h (blocksFor s h l.len) l ((List.range (laneCount s h)).map fun k => (k, blocks.getD k none)))))) ∧
      (∀ l, e.line = some l → l.drop = false → l.blocks.length + laneCount s h ≤ blocksFor s h l.len →
        (∀ k, k < laneCount s h → l.lanes.testBit k = true ∧ delivers s h k = true ∧ (blocks.getD k none).isSome = true) →
        ev (.dataColumn h blocks) [.one .eslHead h, .heads] fun t => (t.head h).line =
          some { l with blocks := l.blocks ++ (List.range (laneCount s h)).map fun k => blocks.getD k none })) ∧
    (∀ crc cline differ, let c := Instr.lineEnd h crc cline differ
      (e.line = none → only c Reg.EslHead.ORPHCNT ready) ∧
      (∀ l, e.line = some l → ev c L fun t => (t.head h).line = none) ∧
      (∀ l k, e.line = some l → l.drop = false → l.slot = some k → ev c L fun t => row l t ∧
        count Reg.Head.CRCCNT (if crc ≠ lineCrc l ∨ cline ≠ l.cline then 1 else 0) t)) ∧
    (e.line = none → nothing (.lineCompletionTimeout h)) ∧
    (∀ l, e.line = some l → ev (.lineCompletionTimeout h) L fun t => (t.head h).line = none) ∧
    (∀ l k, e.line = some l → l.drop = false → l.slot = some k → ev (.lineCompletionTimeout h) L fun t => row l t ∧ count Reg.Head.LATECNT 1 t) ∧
    (e.recs = [] → nothing (.triggerLineTimeout h)) ∧
    (∀ r rs, e.recs = r :: rs → ev (.triggerLineTimeout h) [.one .head h, .grp 9, .grp 64, .gaps, .heads, .sump, .tokens] fun t =>
      (t.head h).recs = rs ∧ count Reg.Head.NOLINECNT 1 t ∧
        if e.receiving = true then (t.head h).unanswered = e.unanswered ++ [r] ∧ (t.head h).gap = e.gap
        else ∃ g, (t.head h).gap = some g ∧ g.skind = 2 ∧ (g.lseq + g.count) % 2 ^ 40 = (r.lseq + 1) % 2 ^ 40) ∧
    (∀ code info, ∃ t, exec (.camEvent h code info) s = .next t ∧ Writes [(Reg.EslHead.CAMEVCNT, h, 0,
      min (s.rd Reg.EslHead.CAMEVCNT h + 1) (2 ^ Reg.EslHead.CAMEVCNT.width - 1)), (Reg.EslHead.CAMEVCODE, h, 0, code),
      (Reg.EslHead.CAMEVINFO, h, 0, info)] s t ∧ Others [] s t) ∧
    (∀ sub, let c := Instr.statusUnknownSub { head := h, sub := sub }
      (1 ≤ sub → sub ≤ 4 → nothing c) ∧ (sub = 0 ∨ 4 < sub → only c Reg.EslHead.TYPECNT 1)) ∧
    (∀ n ty sub, n < 256 → let c := Instr.unknownTypeBlock { lane := n, type := ty, sub := sub }
      let bad := fun k => if ty = 0x66 then k ≠ 0 ∧ sub ≠ 3 else ty ∉ [0x1E, 0x2D, 0x33, 0x4B, 0x55]
      (∀ k, bondOf s n = some (h, k) → bad k → only c Reg.EslHead.TYPECNT 1) ∧
      (bondOf s n = none ∨ (∃ k, bondOf s n = some (h, k) ∧ ¬bad k) → nothing c)) ∧
    (∀ k, k < 32 → let stops := s.running h = true ∧ k < laneCount s h ∧ delivers s h k = false ∧ (s.rd Reg.Head.LANEDOWN h).testBit k = false
      (stops → ev (.blktoExpiry h k) [.one .head h, .tokens] fun t => t.rd Reg.Head.LANEDOWN h = s.rd Reg.Head.LANEDOWN h + 2 ^ k ∧
        t.tokens = s.tokens ++ tokensOf s (288 + h)) ∧ (¬stops → nothing (.blktoExpiry h k))) ∧
    (e.gap = none → nothing (.gapflExpiry h)) ∧
    (∀ g, e.gap = some g → ev (.gapflExpiry h) [.gaps, .heads, .tokens, .grp 64] fun t => (t.head h).gap = none ∧ (t.head h).gapBefore = true ∧
      t.gaps = s.gaps ++ [{ stage := 5, stream := h, lseq := g.lseq, pos := g.pos, time := g.time, skind := g.skind, count := g.count, rows := g.rows }] ∧
      t.tokens = s.tokens ++ tokensOf s (288 + h))

/-- Camera commands (R136, R137, R144, R145).
Readings and choices of the model in it: log entries 12, 146. -/
def Obligations.CameraCommands : Prop :=
  ∀ (h : Nat) (s : State), h < 32 →
    let e := s.head h
    let ev := fun c ps (P : State → Prop) => ∃ t, exec c s = .next t ∧ Only ps s t ∧ P t
    let nothing := fun c => exec c s = .next s
    let only := fun c f => ∃ t, exec c s = .next t ∧ Writes [(f, h, 0, min (s.rd f h + 1) (2 ^ f.width - 1))] s t ∧ Others [] s t
    let done := fun op st (t : State) => t.seq = (s.complete 2 op h st).seq
    let word1 := fun addr (t : State) => bytesNat ((List.range 8).map fun k => t.byte (addr + 8 + k))
    -- a CMD goes out when none is left to wait for, and waits its turn otherwise
    let sends := fun (q : CamCmd) (t : State) =>
      if e.cmd = none then (t.head h).cmd = some { q with tag := e.tag } else (t.head h).cmds = e.cmds ++ [q]
    let sendsNext := fun (q : CamCmd) (t : State) =>
      if e.cmds = [] then (t.head h).cmd = some { q with tag := e.tag } else (t.head h).cmds = e.cmds.drop 1 ++ [q]
    let locked := ∀ n ∈ bondLanes s h, s.rd Reg.Lane.STATE n = 3
    (∀ tag result data, let c := Instr.statusCmdrsp h tag result data
      (e.cmd = none ∨ (∃ q, e.cmd = some q ∧ q.tag ≠ tag) → only c Reg.EslHead.STRAYCNT) ∧
      (∀ q addr, e.cmd = some q → q.tag = tag → q.use = .camreg addr → ¬(q.write = true ∧ q.addr = 0x108 ∧ result = 0) →
        ev c [.heads, .mem, .poison, .seq] fun t => done 8 0 t ∧ (t.head h).cmds = e.cmds.drop 1 ∧ (e.cmds = [] → (t.head h).cmd = none) ∧
          word1 addr t = result % 256 * 2 ^ 32 + if result = 0 ∧ q.write = false then data % 2 ^ 32 else 0) ∧
      (∀ q addr, e.cmd = some q → q.tag = tag → q.use = .camreg addr → q.write = true → q.addr = 0x108 → result = 0 →
        ev c [.heads, .mem, .poison, .seq, .all .lane, .lanes] fun t => (t.head h).reRate = true ∧ done 8 0 t) ∧
      (∀ q, e.cmd = some q → q.tag = tag → q.use = .start → result ≠ 0 → ev c [.heads, .seq] fun t => (t.head h).start = none ∧ done 5 6 t) ∧
      (∀ q, e.cmd = some q → q.tag = tag → q.use = .stop → ev c [.heads] fun t => e.cmds = [] → (t.head h).cmd = none)) ∧
    (∀ q addr, e.cmd = some q → q.use = .camreg addr → ev (.cmdtoExpiry h) [.one .eslHead h, .heads, .seq] fun t => done 8 7 t ∧
      t.rd Reg.EslHead.CMDTOCNT h = min (s.rd Reg.EslHead.CMDTOCNT h + 1) (2 ^ Reg.EslHead.CMDTOCNT.width - 1)) ∧
    (∀ q, e.cmd = some q → q.use = .start → ev (.cmdtoExpiry h) [.one .eslHead h, .heads, .seq] fun t => (t.head h).start = none ∧ done 5 7 t) ∧
    (∀ q, e.cmd = some q → q.use = .stop → ev (.cmdtoExpiry h) [.one .eslHead h, .heads] fun t => e.cmds = [] → (t.head h).cmd = none) ∧
    (e.cmd = none → nothing (.cmdtoExpiry h)) ∧
    (e.start = none ∨ (∃ st, e.start = some st ∧ 5 ≤ st.step) ∨ ¬locked → ∀ a0 a1 a2 a3 a4 a5 n, nothing (.headBringupRegs h a0 a1 a2 a3 a4 a5 n)) ∧
    (∀ st a0 a1 a2 a3 a4 a5, e.start = some st → st.step < 5 → locked →
      let run := fun n => Instr.headBringupRegs h a0 a1 a2 a3 a4 a5 n
      ev (run 0) [.heads] (fun t => (t.head h).start = some { st with step := 5 } ∧ sends { use := .start, write := false, addr := 0 } t) ∧
      ∀ n, n < 6 → ev (run n) [.one .eslHead h, .heads, .seq] fun t =>
        (∀ q st', (t.head h).cmd = some q → q.use = .start → q.write = false → (t.head h).start = some st' →
          exec (run (n + 1)) s = exec (.statusCmdrsp h q.tag 0 ([a0, a1, a2, a3, a4, a5].getD n 0)) t) ∧
        ((t.head h).cmd = none ∨ (t.head h).start = none ∨ (∃ q, (t.head h).cmd = some q ∧ (q.use ≠ .start ∨ q.write = true)) →
          exec (run (n + 1)) s = .next t)) ∧
    (∀ q st data, e.cmd = some q → q.use = .start → q.write = false → e.start = some st →
      let c := Instr.statusCmdrsp h q.tag 0 data
      let R : List Part := [.one .eslHead h, .heads, .seq]
      let next := fun a => sendsNext { use := .start, write := false, addr := a }
      (q.addr = 0 → ev c R fun t => (t.head h).start = some { st with eslver := data } ∧ next 8 t) ∧
      (q.addr = 8 → ev c R fun t => t.rd Reg.EslHead.CAMCAPS h = data % 2 ^ Reg.EslHead.CAMCAPS.width ∧ next 0xC t) ∧
      (q.addr = 0xC → ev c R fun t => t.rd Reg.EslHead.CAMMAXLEN h = data % 2 ^ Reg.EslHead.CAMMAXLEN.width ∧ next 0x10 t) ∧
      (q.addr = 0x10 → ev c R fun t => t.rd Reg.EslHead.CAMDCAM h = data % 2 ^ Reg.EslHead.CAMDCAM.width ∧ next 0x14 t) ∧
      (q.addr = 0x14 → ev c R fun t => (t.head h).maxLrate = data ∧ next 0x18 t) ∧
      (q.addr = 0x18 → ev c R fun t => t.rd Reg.EslHead.CAMLAYOUT h = data % 2 ^ Reg.EslHead.CAMLAYOUT.width ∧
        (cameraStatus s h st.eslver ≠ 0 → (t.head h).start = none ∧ done 5 (cameraStatus s h st.eslver) t) ∧
        (cameraStatus s h st.eslver = 0 → (t.head h).start = some { st with step := 6 } ∧
          sendsNext { use := .start, addr := 0x104, data := s.rd Reg.Head.HW h } t))) ∧
    (e.reRate = false → nothing (.rateChangeRetrain h)) ∧
    (e.reRate = true → (∀ n ∈ bondLanes s h, wakeMw s n ≤ ((s.damper.held.filter fun g => g.cls == 2 && (g.id == n || g.id == 256 + n)).map (·.mw)).sum) →
      ev (.rateChangeRetrain h) [.all .lane, .grp 21, .damper, .heads, .lanes, .tokens] fun t => (t.head h).reRate = false ∧
        ∀ n ∈ bondLanes s h, n < 256 → s.rd Reg.Lane.STATE n = 2 → (s.lane n).step = 0 → (t.lane n).step = 1 ∧ t.rd Reg.Lane.STATE n = 2)

/-- Triggering (R204 to R212). EXPNS of a set never downloaded is log entry 18; the instant of commitment log entry 17.
Readings and choices of the model in it: log entries 12, 17, 18, 103, 142, 146, 149. -/
def Obligations.Triggering : Prop :=
  ∀ (h : Nat) (s : State), h < 32 →
    let e := s.tesOf h
    let ev := fun c ps (P : State → Prop) => ∃ t, exec c s = .next t ∧ Only ps s t ∧ P t
    let nothing := fun c => exec c s = .next s
    let done := fun unit op st (t : State) => t.seq = (s.complete unit op h st).seq
    -- a bring-up that waits for the download to end
    let waits := ∃ st, (s.head h).start = some st ∧ st.step = 7
    let fails := fun st d (t : State) => (t.tesOf h).acked = e.acked ∧ (t.tesOf h).images = e.images ∧
      (if d.start = true then (t.tesOf h).dl = none ∧ (t.head h).start = none ∧ done 2 5 st t
       else t.rd Reg.TesHead.XPV h = 0 ∧ (t.tesOf h).pendLong = false ∧ (¬waits → (t.tesOf h).dl = none ∧ done 4 3 st t))
    let soon := fun at_ => ∃ l, e.last = some l ∧ at_ < l + tminTicks s h
    (∀ set xtag result, let c := Instr.xsetackReceive h set xtag result
      (e.dl = none ∨ (∃ d, e.dl = some d ∧ (d.xtag ≠ xtag ∨ d.set ≠ set)) → nothing c) ∧
      (∀ d, e.dl = some d → d.xtag = xtag → d.set = set →
        (result ≠ 0 → ev c [.heads, .seq, .tes, .one .tesHead h] (fails 9 d)) ∧
        (result = 0 → ev c [.heads, .seq, .tes] fun t => (t.tesOf h).acked.contains set = true ∧
          Tbl.get (fun _ => []) (t.tesOf h).images set = d.img ∧ expnsOf t h set = bits (d.img.getD 0 0) 31 0 ∧
          (d.start = false → (t.tesOf h).ready = some s.raw ∧ (t.tesOf h).byAck = true ∧ (¬waits → (t.tesOf h).dl = none)) ∧
          (∀ st x xs, d.start = true → (s.head h).start = some st → st.sets = x :: xs →
            (t.head h).start = some { st with step := 7, sets := xs } ∧
            (t.tesOf h).dl = some { set := x, xtag := e.xtag, img := Tbl.get (fun _ => []) (t.tesOf h).images x, start := true }) ∧
          (∀ st, d.start = true → (s.head h).start = some st → st.sets = [] → (t.tesOf h).dl = none ∧
            if slowLane s h = true then (t.head h).start = none ∧ done 2 5 2 t else (t.head h).start = some { st with step := 8 })))) ∧
    (e.dl = none → nothing (.xsettoExpiry h)) ∧
    (∀ d, e.dl = some d → d.again = false → ev (.xsettoExpiry h) [.heads, .tes] fun t =>
      t.tesOf h = { e with dl := some { d with again := true } } ∧
      (t.head h).sent = xsetBlocks d.set d.xtag d.img) ∧
    (∀ d, e.dl = some d → d.again = true → ev (.xsettoExpiry h) [.heads, .seq, .tes, .one .tesHead h, .one .eslHead h] fun t => fails 8 d t ∧
      t.rd Reg.EslHead.XSNACKCNT h = min (s.rd Reg.EslHead.XSNACKCNT h + 1) (2 ^ Reg.EslHead.XSNACKCNT.width - 1)) ∧
    (∀ at_, let due := s.rd Reg.TesHead.RUNNING h ≠ 0 ∧ dueAt s h at_ = true
      let ms := scheduleOf s h
      let adv := (ms.map (advance s)).foldl max 0
      let t0 := max at_ (s.raw + adv)
      let t1 := match e.last with | some l => max t0 (l + tminTicks s h) | none => t0
      (¬due → nothing (.triggerCommit h at_)) ∧ (due → s.raw + commitTicks < t1 - adv → nothing (.triggerCommit h at_)) ∧
      (due → t1 - adv ≤ s.raw + commitTicks →
        ev (.triggerCommit h at_) [.all .tesHead, .grp 64, .heads, .seq, .tes, .tokens, .views] fun t => ∀ m ∈ ms, m < 32 →
          (t.tesOf m).last = some t1 ∧ t.rd Reg.TesHead.HELD m = (if soon t0 then 1 else 0) ∧
          (ms.Nodup → ∃ q, (t.tesOf m).queue = (s.tesOf m).queue ++ [q] ∧ q.at_ = t1 ∧
            q.xset = t.rd Reg.TesHead.XCUR m ∧ (soon t0 → q.undersamp = true)))) ∧
    (∀ wait, let c := Instr.triggerIssue h wait
      (e.queue = [] ∨ (∃ q, e.queue.head? = some q ∧ s.raw < q.issue) ∨ s.up = false → nothing c) ∧
      (∀ q qs, e.queue = q :: qs → q.issue ≤ s.raw → s.up = true → s.rd Reg.TesHead.TSRC h = 0 → s.wpValid = false →
        ev c [.tes, .views] fun t => (t.tesOf h).queue = qs) ∧
      (∀ q qs, e.queue = q :: qs → q.issue ≤ s.raw → s.up = true → s.rd Reg.TesHead.TSRC h ≠ 0 ∨ s.wpValid = true →
        ev c [.one .head h, .one .tesHead h, .grp 9, .grp 64, .gaps, .heads, .sump, .tes, .tokens] fun t => (t.tesOf h).queue = qs ∧
          t.rd Reg.TesHead.TRIGNUM h = (s.rd Reg.TesHead.TRIGNUM h + 1) % 65536 ∧
          t.rd Reg.TesHead.TRIGCNT h = min (s.rd Reg.TesHead.TRIGCNT h + 1) (2 ^ Reg.TesHead.TRIGCNT.width - 1) ∧
          t.rd Reg.Head.LSEQNEXT h = (s.rd Reg.Head.LSEQNEXT h + 1) % 2 ^ 40 ∧
          (t.head h).recs.getLast? = some
            ⟨s.rd Reg.TesHead.TRIGNUM h, s.rd Reg.Head.LSEQNEXT h, q.time, q.pos, q.spd, q.xset, q.undersamp⟩ ∧
          ((s.head h).recs.length < 1024 → (t.head h).recs.length = (s.head h).recs.length + 1 ∧
            t.tokens = s.tokens ++ tokensOf s (320 + h) q.hop))) ∧
    (e.due = 0 → nothing (.edgeTrigger h)) ∧
    (e.due ≠ 0 → s.rd Reg.TesHead.RUNNING h = 0 → ev (.edgeTrigger h) [.tes] fun t => t.tesOf h = { e with due := e.due - 1 }) ∧
    (e.due ≠ 0 → s.rd Reg.TesHead.RUNNING h ≠ 0 → soon s.raw → ev (.edgeTrigger h) [.one .tesHead h, .tes] fun t =>
      t.tesOf h = { e with due := e.due - 1, skipped := true } ∧
      t.rd Reg.TesHead.SKIPCNT h = min (s.rd Reg.TesHead.SKIPCNT h + 1) (2 ^ Reg.TesHead.SKIPCNT.width - 1)) ∧
    (e.due ≠ 0 → s.rd Reg.TesHead.RUNNING h ≠ 0 → ¬soon s.raw →
      ev (.edgeTrigger h) [.one .tesHead h, .free, .heads, .seq, .tes, .tokens, .views] fun t => (t.tesOf h).due = e.due - 1 ∧
        (t.tesOf h).last = some (s.raw + advance s h) ∧ ∃ q, (t.tesOf h).queue = e.queue ++ [q] ∧ q.at_ = s.raw + advance s h ∧
          q.time = ptAt s (s.raw + advance s h) ∧ q.xset = t.rd Reg.TesHead.XCUR h) ∧
    ev (.trgPulseEnd h) [.tes] (fun t => t.tesOf h = { e with trg := false })

/-- Position events (chapter 5). The observer's step is log entry 14.
Readings and choices of the model in it: log entries 12, 13, 14, 15, 104, 105. -/
def Obligations.PositionEvents : Prop :=
  ∀ (c p k n : Nat) (s : State), c < 8 → p < 8 → k < 4 → n < 8 →
    let ev := fun c ps (P : State → Prop) => ∃ t, exec c s = .next t ∧ Only ps s t ∧ P t
    let nothing := fun c => exec c s = .next s
    let on := fun f i => s.rd f i ≠ 0
    let more := fun (f : Field) i (t : State) => t.rd f i = min (s.rd f i + 1) (2 ^ f.width - 1)
    let e := s.encOf c
    let signals := fun bs i t => t.tokens = s.tokens ++ if s.rd Reg.Enc.FEVEN i &&& bs = 0 ∨ Tbl.get (fun _ => none) s.pfuTick (368 + i) = some s.raw then [] else tokensOf s (368 + i)
    let count := s.rdI Reg.Enc.COUNT c
    let within := fun x => clampI (s.rdI Reg.Enc.LIMLO c) (s.rdI Reg.Enc.LIMHI c) x
    (∀ a0 b0, let a := if on Reg.Enc.WFA c then e.a else a0
      let b := if on Reg.Enc.WFB c then e.b else b0
      let counts := s.rd Reg.Enc.DEC c = 0 ∨ (a ≠ e.a ∧ (s.rd Reg.Enc.DEC c = 2 → a = true))
      let dir := if on Reg.Enc.INVDIR c then -edgeDir e.a a b else edgeDir e.a a b
      (¬on Reg.Enc.EN c ∨ (a = e.a ∧ b = e.b) → nothing (.encEdge c a0 b0)) ∧
      (on Reg.Enc.EN c → a ≠ e.a → b ≠ e.b → ev (.encEdge c a0 b0) [.one .enc c, .grp 3, .enc, .web, .tokens, .pfuTick] fun t =>
        t.rd Reg.Enc.ILLACT c = 1 ∧ more Reg.Enc.ILLCNT c t ∧ (t.rd Reg.Enc.FCAUSE c).testBit 3 = true ∧
        t.encOf c = { e with a := a, b := b } ∧ signals 8 c t) ∧
      (on Reg.Enc.EN c → ¬(a = e.a ∧ b = e.b) → ¬(a ≠ e.a ∧ b ≠ e.b) → ¬counts → ev (.encEdge c a0 b0) [.enc] fun t =>
        t.encOf c = { e with a := a, b := b }) ∧
      (on Reg.Enc.EN c → ¬(a = e.a ∧ b = e.b) → ¬(a ≠ e.a ∧ b ≠ e.b) → counts → follows s c (e.rcount + dir - count) = false →
        ev (.encEdge c a0 b0) [.enc] fun t => t.encOf c = { e with a := a, b := b, rcount := e.rcount + dir }) ∧
      (on Reg.Enc.EN c → ¬(a = e.a ∧ b = e.b) → ¬(a ≠ e.a ∧ b ≠ e.b) → counts → follows s c (e.rcount + dir - count) = true →
        ev (.encEdge c a0 b0) [.all .divider, .grp 3, .grp 64, .divs, .enc, .tes, .tokens, .web, .one .enc c, .pfuTick] fun t =>
          t.rdI Reg.Enc.COUNT c = within (e.rcount + dir) ∧
          t.rd Reg.Enc.LIMHIT c = b2n (within (e.rcount + dir) != e.rcount + dir) ∧ (t.encOf c).a = a ∧ (t.encOf c).b = b)) ∧
    (∀ pair, pair < 3 → let f := wfField pair
      (¬on Reg.Enc.EN c ∨ on f c → nothing (.wireFaultEnter c pair)) ∧
      (on Reg.Enc.EN c → ¬on f c → ev (.wireFaultEnter c pair) [.all .enc, .grp 3, .tokens, .web, .pfuTick] fun t => t.rd f c = 1 ∧
        more Reg.Enc.WIRECNT c t ∧ (t.rd Reg.Enc.FCAUSE c).testBit pair = true ∧ signals (2 ^ pair) c t) ∧
      (∀ level, (¬on f c → nothing (.wireFaultExit c pair level)) ∧
        (on f c → ev (.wireFaultExit c pair level) [.all .enc, .grp 3, .enc, .web] fun t => t.rd f c = 0 ∧
          (t.encOf c).a = (if pair = 0 then level else e.a) ∧ (t.encOf c).b = (if pair = 1 then level else e.b)))) ∧
    ev (.illactClear c) [.one .enc c, .grp 3, .web] (fun t => t.rd Reg.Enc.ILLACT c = 0) ∧
    (let taken := on Reg.Enc.EN c ∧ ¬on Reg.Enc.WFZ c ∧ (on Reg.Enc.ZGATE c → e.a = true ∧ e.b = true)
     let zeroes := s.rd Reg.Enc.ZMODE c = 2 ∨ (s.rd Reg.Enc.ZMODE c = 1 ∧ e.zDone = false)
     (¬taken → nothing (.indexEdge c)) ∧
     (taken → ev (.indexEdge c) [.one .enc c, .enc, .tokens, .pfuTick] fun t => t.rdI Reg.Enc.ZLATCH c = count ∧ (t.encOf c).zSeen = true ∧
        (zeroes → t.rdI Reg.Enc.COUNT c = within 0 ∧ (t.encOf c).zDone = true ∧ (t.encOf c).zPrev = 0) ∧
        (¬zeroes → t.rdI Reg.Enc.COUNT c = count ∧ (t.encOf c).zPrev = count) ∧
        (s.rd Reg.Enc.CPR c ≠ 0 → e.zSeen = true → indexOk s c = false → more Reg.Enc.ZERRCNT c t ∧
          (t.rd Reg.Enc.FCAUSE c).testBit 5 = true) ∧
        (s.rd Reg.Enc.CPR c = 0 ∨ e.zSeen = false ∨ indexOk s c = true → t.rd Reg.Enc.ZERRCNT c = s.rd Reg.Enc.ZERRCNT c))) ∧
    ev .observerBoundCheck [.all .enc, .grp 3, .grp 64, .enc, .tokens, .pfuTick] (fun t => ∀ i, i < 8 → t.rd Reg.Enc.COUNT i = s.rd Reg.Enc.COUNT i) ∧
    (let q := s.ssiOf k
     (∀ l, (¬on Reg.Ssi.EN k ∨ q.frame.isSome = true → nothing (.ssiPoll k l)) ∧
        (on Reg.Ssi.EN k → q.frame = none → ev (.ssiPoll k l) [.one .ssi k, .ssi, .tokens, .pfuTick] fun t =>
          t.ssiOf k = { q with frame := some s.raw, idleLow := l } ∧ (l = true → (t.rd Reg.Ssi.FCAUSE k).testBit 0 = true))) ∧
     (∀ raw err, let w := s.rd Reg.Ssi.BITS k
        let v := if on Reg.Ssi.GRAY k then grayToBin w (raw % 2 ^ w) else raw % 2 ^ w
        let d := ssiDelta w v (s.rd Reg.Ssi.SVALUE k)
        let sens := on Reg.Ssi.ERRBIT k ∧ err = true
        let jump := q.seen = true ∧ 2 ^ (w - 1) ≤ d.natAbs
        (q.frame = none → nothing (.ssiFrameEnd k raw err)) ∧
        (q.frame.isSome = true → ev (.ssiFrameEnd k raw err) [.one .ssi k, .grp 3, .grp 64, .seq, .ssi, .tokens, .web, .pfuTick] fun t =>
          t.rd Reg.Ssi.SVALUE k = v % 2 ^ Reg.Ssi.SVALUE.width ∧ more Reg.Ssi.FRAMES k t ∧
          t.rdI Reg.Ssi.SPOS k = signed 64 (low 64 (if q.seen = true then s.rdI Reg.Ssi.SPOS k + d else v)) ∧
          (t.ssiOf k).frame = none ∧ (t.ssiOf k).seen = true ∧
          (sens → (t.rd Reg.Ssi.FCAUSE k).testBit 2 = true) ∧ (jump → (t.rd Reg.Ssi.FCAUSE k).testBit 4 = true) ∧
          (q.idleLow = true ∨ sens ∨ jump → (t.ssiOf k).fault = true ∧ more Reg.Ssi.FAULTCNT k t) ∧
          (q.idleLow = false → ¬sens → ¬jump → (t.ssiOf k).fault = false ∧ t.rd Reg.Ssi.FAULTCNT k = s.rd Reg.Ssi.FAULTCNT k))) ∧
     (q.frame = none → nothing (.ssiNorespTimeout k)) ∧
     (q.frame.isSome = true → ev (.ssiNorespTimeout k) [.one .ssi k, .grp 3, .ssi, .tokens, .web, .pfuTick] fun t => (t.ssiOf k).frame = none ∧
        (t.ssiOf k).fault = true ∧ more Reg.Ssi.FAULTCNT k t ∧ (t.rd Reg.Ssi.FCAUSE k).testBit 1 = true)) ∧
    (∀ r, let wanted := on Reg.Probe.EN p ∧ (s.rd Reg.Probe.EDGE p).testBit (if r = true then 0 else 1) = true
      let src := s.rd Reg.Probe.PSRC p
      let v := if src = 16 then s.pos else ((srcTrack s src).getD {}).at s.raw
      (¬wanted → nothing (.probeEdge p r)) ∧
      (wanted → (s.probe p).length < 16 → ev (.probeEdge p r) [.one .probe p, .probes, .tokens] fun t =>
        (∃ q, t.probe p = s.probe p ++ [q] ∧ q.time = s.raw ∧ q.val = v ∧ q.rising = r) ∧ t.tokens = s.tokens ++ tokensOf s (360 + p)) ∧
      (wanted → 16 ≤ (s.probe p).length → ev (.probeEdge p r) [.one .probe p, .tokens] fun t => more Reg.Probe.OVFCNT p t ∧
        t.tokens = s.tokens ++ tokensOf s (360 + p))) ∧
    (let d := s.divOf n
     (¬on Reg.Divider.EN n ∨ d.backlog = 0 → nothing (.divStep n)) ∧
     (on Reg.Divider.EN n → d.backlog ≠ 0 → ev (.divStep n) [.one .divider n, .divs] fun t =>
        t.divOf n = { d with backlog := d.backlog - d.backlog.sign, phase := (d.phase + if 0 < d.backlog then 1 else 3) % 4 } ∧
        t.rdI Reg.Divider.OUTCNT n = signed 32 (low 32 (s.rdI Reg.Divider.OUTCNT n + d.backlog.sign)))) ∧
    (let bad := srcFaulted s (s.rd Reg.WebPos.WPSRC 0) = true
     let alt := s.rd Reg.WebPos.WPALT 0
     let takes := on Reg.WebPos.ALTEN 0 ∧ srcEnabled s alt = true ∧ srcFaulted s alt = false
     (s.wpValid = false ∨ ¬bad ∨ s.web.coast.isSome = true → nothing .wpSourceFault) ∧
     (s.wpValid = true → bad → s.web.coast = none → ev .wpSourceFault [.grp 3, .web] fun t =>
        (takes → t.rd Reg.WebPos.WPSRC 0 = alt ∧ t.rd Reg.WebPos.SWITCHED 0 = 1 ∧ t.rd Reg.WebPos.ALTEN 0 = 0 ∧ t.web.coast = none) ∧
        (¬takes → t.rd Reg.WebPos.COASTING 0 = 1 ∧ t.web.coast = srcTrack s (s.rd Reg.WebPos.WPSRC 0))) ∧
     (s.wpValid = false ∨ bad ∨ s.web.coast = none → nothing .wpSourceRecover) ∧
     (s.wpValid = true → ¬bad → s.web.coast.isSome = true → ev .wpSourceRecover [.grp 3, .web] fun t =>
        t.rd Reg.WebPos.COASTING 0 = 0 ∧ t.web.coast = none) ∧
     (s.wpValid = false ∨ s.web.coast = none → nothing .coastExpiry) ∧
     (s.wpValid = true → s.web.coast.isSome = true →
        ev .coastExpiry [.all .tesHead, .grp 3, .grp 9, .marks, .tokens, .web] fun t => t.rd Reg.WebPos.WPVALID 0 = 0 ∧
          t.rd Reg.WebPos.COASTING 0 = 0 ∧ t.marks = [] ∧ t.web.frozen = s.pos ∧
          t.rd Reg.MarkerGlobal.MKLOSTCNT 0 = min (s.rd Reg.MarkerGlobal.MKLOSTCNT 0 + s.marks.length) (2 ^ Reg.MarkerGlobal.MKLOSTCNT.width - 1)))

/-- Control packets and diversions.
Readings and choices of the model in it: log entries 12, 72, 107, 151, 152, 154, 157. -/
def Obligations.ControlPackets : Prop :=
  ∀ (n k h v : Nat) (s : State), k < 64 → h < 32 → v < 16 →
    let ev := fun c ps (P : State → Prop) => ∃ t, exec c s = .next t ∧ Only ps s t ∧ P t
    let nothing := fun c => exec c s = .next s
    let L : List Part := [.all .featMap, .all .geom, .all .rtkView, .all .seam, .all .view, .grp 7, .grp 64, .mem, .progress, .recs, .rpa]
    let R : List Part := L ++ [.all .lrp, .cuts, .held]
    let N : List Part := [.grp 9, .sump]
    -- nothing to retire and no halt that may end
    let calm := s.cuts = [] ∧ s.rpa.haltArea = []
    let more := fun (f : Field) i (t : State) => t.rd f i = min (s.rd f i + 1) (2 ^ f.width - 1)
    let notes := fun src kind tag (t : State) => t.sump = (s.note src kind tag).sump
    (s.seq.forming = none ∨ leaseHeld s = false ∨ s.seq.stopped = true → nothing .streamedOpIssue) ∧
    (∀ f, s.seq.forming = some f → let ts := targetStreams s f
      ((∃ u ∈ ts, poolFull s f.unit u.1 u.2 = true) → nothing .streamedOpIssue) ∧
      (leaseHeld s = true → s.seq.stopped = false → (∀ u ∈ ts, poolFull s f.unit u.1 u.2 = false) →
        ev .streamedOpIssue (L ++ [.all .bank, .procs, .sampled, .seq, .transit]) fun t => t.seq.forming = none ∧ t.seq.ord = s.seq.ord + 1 ∧
          t.seq.status = 0 ∧ (actsOnce (formPkt s f (false, 0)) = false → (∀ u ∈ ts, streamRuns s u.1 u.2 = true) →
            t.transit = s.transit ++ ts.flatMap fun u => (subsOf s f.unit u.2).map fun l =>
              { stage := f.unit, sub := l, pkt := formPkt s f u }))) ∧
    (s.transit[n]? = none → nothing (.ctrlPacketArrive n)) ∧
    (∀ e, s.transit[n]? = some e →
      let runs := streamRuns s e.pkt.vs e.pkt.stream = true
      let full := 64 ≤ heldCount s e
      let ep := e.pkt.value % 128
      let early := e.pkt.mode = 2 ∧ (epochLater ep (s.rd Reg.Cut.EPOCH 0) = true ∨ ∃ c ∈ s.cuts, c.epoch = ep)
      let c := Instr.ctrlPacketArrive n
      let gone := fun (t : State) => t.transit = s.transit.eraseIdx n
      (actsOnce e.pkt = true → startCopy e.pkt { s with transit := s.transit.eraseIdx n } = none → nothing c) ∧
      (actsOnce e.pkt = true → (startCopy e.pkt { s with transit := s.transit.eraseIdx n }).isSome = true →
        ev c [.transit, .rpa, .recs, .progress, .grp 64] gone) ∧
      (actsOnce e.pkt = false → full → runs ∨ e.pkt.mode = 2 → nothing c) ∧
      (actsOnce e.pkt = false → runs → ¬full → ev c [.transit, .held, .grp 64] fun t => gone t ∧
        t.held = s.held ++ [{ e with late := arrivesLate s e }]) ∧
      (actsOnce e.pkt = false → ¬runs → ¬full → early → ev c [.transit, .held, .grp 64] fun t => gone t ∧ t.held = s.held ++ [e]) ∧
      (actsOnce e.pkt = false → ¬runs → ¬early → (full → e.pkt.mode ≠ 2) → ev c (L ++ [.transit]) gone)) ∧
    (s.cutPkts[n]? = none → nothing (.cutPacketArrive n)) ∧
    (∀ c, s.cutPkts[n]? = some c → (cutWaits s n c = true → nothing (.cutPacketArrive n)) ∧
      (cutWaits s n c = false → ev (.cutPacketArrive n) [.cutPkts, .heads, .grp 64] fun t =>
      (c.stage = 2 → (t.head c.stream).cuts = (s.head c.stream).cuts ++ [c.cut]) ∧ (c.stage ≠ 2 → t.heads = s.heads) ∧
      t.cutPkts = s.cutPkts.eraseIdx n ++ if c.stage = 2 then [{ c with stage := 5 }] else if c.stage = 5 then [{ c with stage := 6 }] else [])) ∧
    (s.gaps[n]? = none → nothing (.gapPacketArrive n)) ∧
    (∀ g, s.gaps[n]? = some g → (gapWaits s n g = true → nothing (.gapPacketArrive n)) ∧
      (gapWaits s n g = false → ev (.gapPacketArrive n) (R ++ [.all .wlkPort, .grp 0, .grp 17, .cutPkts, .gaps, .sent, .seq, .store, .strips, .tokens, .views]) fun t =>
        t.gaps = s.gaps.eraseIdx n ++ if g.stage = 5 then [{ g with stage := 6 }] else [])) ∧
    (∀ m j rest, (s.recs.fifo = .mark m j :: rest → ev (.progressMarkArrive 8) (R ++ [.grp 0, .seq]) fun t => t.recs.toDlg = s.recs.toDlg ++ [.mark m j]) ∧
      (s.recs.toDlg = .mark m j :: rest → ev (.progressMarkArrive 9) (R ++ [.grp 0, .seq]) fun t => t.recs.toDlg = rest)) ∧
    (calm → s.recs.fifo = [] → nothing (.progressMarkArrive 8)) ∧ (calm → s.recs.toDlg = [] → nothing (.progressMarkArrive 9)) ∧
    (∀ o os, takeOut k s.rpa.outbox = some (o, os) → (sstTakes s o = true → calm → nothing (.stageTimeout 5 k)) ∧
      (sstTakes s o = false → ev (.stageTimeout 5 k) (R ++ N ++ [.all .head, .gaps, .heads, .poison, .power]) fun t => t.rpa.outbox = os ∧
        notes o.tag.head 4 o.tag t ∧ (∃ g ∈ t.gaps, g.stage = 6 ∧ g.stream = o.tag.head ∧ g.lseq = o.tag.lseq ∧ g.skind = 4))) ∧
    (let waits := Tbl.get (fun _ => false) s.rpa.jwait k = true ∧ journalRoom s k = false ∧ lrpFree s k = true
     takeOut k s.rpa.outbox = none → (¬waits → calm → nothing (.stageTimeout 5 k)) ∧
      (∀ e, waits → (s.rpa.replays.find? fun e => e.lrp == k) = some e →
        ev (.stageTimeout 5 k) (R ++ N ++ [.all .head, .gaps, .heads, .poison, .power]) fun t => t.rpa.replays = s.rpa.replays.erase e ∧
          notes e.tag.head 4 e.tag t)) ∧
    (∀ r, rowToForm s v = some r → storeRoom s v r = false →
      ev (.stageTimeout 6 v) (R ++ N ++ [.all .wlkPort, .grp 0, .grp 17, .cutPkts, .sent, .seq, .store, .tokens, .views]) fun t =>
        (t.view v).gapBefore = true) ∧
    (∀ r, calm → rowToForm s v = none ∨ (rowToForm s v = some r ∧ storeRoom s v r = true) → nothing (.stageTimeout 6 v)) ∧
    (∀ ws is, let i := bits (recWord ws 0) 58 55
      let tag := Tag.ofWords (recWord ws 0) (recWord ws 1)
      (s.recs.held = .record ws :: is → 65536 ≤ fifoRecords s.recs.fifo →
        ev (.stageTimeout 7 k) (N ++ [.all .rtkView, .grp 64, .recs]) fun t => more Reg.RtkView.DIVCNT i t ∧ notes (0x20 + i) 6 tag t) ∧
      (s.recs.held = .record ws :: is → fifoRecords s.recs.fifo < 65536 → nothing (.stageTimeout 7 k)) ∧
      (s.recs.fifo = .record ws :: is → dlgHolds s = true →
        ev (.stageTimeout 8 k) (R ++ N ++ [.all .rclView]) fun t => more Reg.RclView.DIVCNT i t ∧ notes (0x20 + i) 8 tag t) ∧
      (calm → s.recs.fifo = [] ∨ dlgHolds s = false → nothing (.stageTimeout 8 k)) ∧
      (s.recs.toDlg = .record ws :: is → ringTakes s false = false → ev (.stageTimeout 9 k) (R ++ N) fun t => more Reg.Ledger.DLGDIVCNT 0 t ∧
        t.recs.toDlg = is ∧ notes (0x20 + i) 9 tag t)) ∧
    (calm → s.recs.toDlg = [] ∨ ringTakes s false = true → nothing (.stageTimeout 9 k)) ∧
    (∀ r, s.rd Reg.HisHead.EN h ≠ 0 → untaken s h = some r →
      ev (.stageTimeout 10 h) (R ++ N ++ [.one .hisHead h, .all .head, .heads, .power]) fun t => more Reg.HisHead.HDIVCNT h t ∧
        notes h 0x10 r.tag t) ∧
    (calm → s.rd Reg.HisHead.EN h = 0 ∨ untaken s h = none → nothing (.stageTimeout 10 h)) ∧
    (k < 8 → ((s.ovsOf k).held = [] ∨ (s.rd Reg.Stream.DEST k = 0 ∧ entryRoom s k = true) → nothing (.stageTimeout 12 k)) ∧
      (∀ r rs, (s.ovsOf k).held = r :: rs → s.rd Reg.Stream.DEST k ≠ 0 ∨ entryRoom s k = false →
        ev (.stageTimeout 12 k) (N ++ [.all .stream, .grp 64, .ovs]) fun t => more Reg.Stream.DIVCNT k t ∧ notes (0x30 + k) 0x20 r.tag t)) ∧
    (stopSettled s h = false → nothing (.hauStopComplete h)) ∧
    (stopSettled s h = true → ev (.hauStopComplete h) (R ++ [.all .lane, .one .head h, .one .rpaStat h, .grp 0, .free, .gaps, .heads, .his, .poison, .seq, .store, .tokens]) fun t =>
      t.rd Reg.Head.RUNNING h = 0 ∧ (t.head h).stopping = false)

/-- Rows through the stages.
Readings and choices of the model in it: log entries 12, 22, 24, 27, 28, 29, 33, 74, 75, 76, 151, 156. -/
def Obligations.RowsThroughStages : Prop :=
  ∀ (l v h k : Nat) (s : State), l < 64 → v < 16 → h < 32 → k < 8 →
    let ev := fun c ps (P : State → Prop) => ∃ t, exec c s = .next t ∧ Only ps s t ∧ P t
    let idle := fun c => s.cuts = [] → s.rpa.haltArea = [] → exec c s = .next s
    let L : List Part := [.all .featMap, .all .geom, .all .lrp, .all .rtkView, .all .seam, .all .view, .grp 0, .grp 7, .grp 64, .cuts, .held,
      .mem, .progress, .recs, .rpa, .seq, .store, .tokens]
    let more := fun (f : Field) i n (t : State) => t.rd f i = min (s.rd f i + n) (2 ^ f.width - 1)
    let steps := fun (f : Field) i n (t : State) => t.rd f i = (s.rd f i + n) % 2 ^ f.width
    let commits := fun c q (t : State) => t.store = commitFirst c q s.store
    (takeOut l s.rpa.outbox = none → idle (.stripAccept l)) ∧
    (∀ o os, takeOut l s.rpa.outbox = some (o, os) →
      let key := (o.tag.lseq, o.tag.strip)
      let old := Tbl.get (fun _ => []) s.commits o.tag.head
      let again := o.tag.flags.testBit fREPLAY = true ∧ old.contains key = true
      let fits := sstRoom s o = true ∧ headRowWaits s o = false
      let ps := L ++ [.all .head, .all .rpaStat, .all .wlkPort, .grp 17, .commits, .cutPkts, .free, .heads, .poison, .power, .sent, .strips, .views]
      (again → ev (.stripAccept l) ps fun t => t.rpa.outbox = os ∧ t.commits = s.commits) ∧
      (¬again → fits → ev (.stripAccept l) ps fun t => t.rpa.outbox = os ∧
        Tbl.get (fun _ => []) t.commits o.tag.head = (key :: old).take 256) ∧
      (¬again → ¬fits → o.waited = true → idle (.stripAccept l)) ∧
      (¬again → ¬fits → o.waited = false → ev (.stripAccept l) L fun t => t.rpa.outbox = { o with waited := true } :: os)) ∧
    (rowToForm s v = none → idle (.viewRowForm v) ∧ idle (.edgetoExpiry v)) ∧
    (∀ r, rowToForm s v = some r →
      let misses := (s.rd Reg.View.REMOTEL v ≠ 0 ∧ edgeFor (s.view v).left r.n = none) ∨
        (s.rd Reg.View.REMOTER v ≠ 0 ∧ edgeFor (s.view v).right r.n = none)
      let room := storeRoom s v r = true
      let ps := L ++ [.all .wlkPort, .grp 17, .cutPkts, .sent, .views]
      (misses ∨ ¬room → idle (.viewRowForm v)) ∧ (¬misses ∨ ¬room → idle (.edgetoExpiry v)) ∧
      (¬misses → room → ev (.viewRowForm v) ps fun t => steps Reg.View.VROWS v 1 t ∧ t.rd Reg.View.EDGEMISS v = s.rd Reg.View.EDGEMISS v) ∧
      (misses → room → ev (.edgetoExpiry v) ps fun t => steps Reg.View.VROWS v 1 t ∧ more Reg.View.EDGEMISS v 1 t)) ∧
    (let mine := fun i : StoreItem => i.vs && i.src == v
     let free := rtkHolds s = false
     (rtkNext s v = none ∨ ¬free → idle (.viewRowProcess v) ∧ idle (.viewGapProcess v) ∧ idle (.viewStopProcess v)) ∧
     (∀ i, rtkNext s v = some i →
       (i.kind ≠ .row ∨ wordsReady s v i.tag.lseq = false → idle (.viewRowProcess v)) ∧
       (free → i.kind = .row → wordsReady s v i.tag.lseq = true →
         ev (.viewRowProcess v) (L ++ [.grp 9, .sump]) fun t => commits 8 mine t) ∧
       (i.kind = .row ∨ i.kind = .stop → idle (.viewGapProcess v)) ∧
       (∀ g, free → i.kind = .gap g → ev (.viewGapProcess v) L fun t => commits 8 mine t ∧
         (s.rd Reg.RtkView.GAPBRIDGE v < g.count → (t.rtk v).regions = [])) ∧
       (i.kind ≠ .stop → idle (.viewStopProcess v)) ∧
       (free → i.kind = .stop → ev (.viewStopProcess v) L fun t => commits 8 mine t ∧ (t.rtk v).regions = []))) ∧
    (s.rd Reg.HisHead.EN h = 0 ∨ untaken s h = none → idle (.historyRowTake h)) ∧
    (∀ r, s.rd Reg.HisHead.EN h ≠ 0 → untaken s h = some r →
      ev (.historyRowTake h) (L ++ [.one .head h, .one .hisHead h, .heads, .his, .power]) fun t =>
        steps Reg.HisHead.OBYTES h (stripsOf s h * (32 + planesOf s h * headStripW s h * depthBits s h / 8)) t ∧
        ∀ q ∈ (t.head h).rows, q.tag.lseq = r.tag.lseq → q.taken = true) ∧
    (let o := s.ovsOf k
     let mine := isSource s k
     let ps := L ++ [.all .stream, .ovs]
     (ovsNext s k = none → idle (.ovsSourceRow k) ∧ idle (.ovsGapReceive k)) ∧
     (∀ i, ovsNext s k = some i →
       (i.kind ≠ .row → idle (.ovsSourceRow k)) ∧
       (i.kind = .row → o.gaps = [] → ovsRoom s k = false → idle (.ovsSourceRow k)) ∧
       (i.kind = .row → o.gaps = [] → ovsRoom s k = true → ev (.ovsSourceRow k) ps fun t => commits k mine t ∧ (t.ovsOf k).n = o.n + 1) ∧
       (i.kind = .row → o.gaps ≠ [] → ev (.ovsSourceRow k) ps fun t => t.pending = s.pending) ∧
       (i.kind = .row → idle (.ovsGapReceive k)) ∧
       (∀ g, i.kind = .gap g → g.count ≤ s.rd Reg.Stream.OGAPMAX k → ev (.ovsGapReceive k) ps fun t => commits k mine t ∧
         (t.ovsOf k).gaps = o.gaps ++ [{ lseq := g.lseq, count := g.count }]) ∧
       ((∃ g, i.kind = .gap g ∧ s.rd Reg.Stream.OGAPMAX k < g.count) ∨ i.kind = .stop → ev (.ovsGapReceive k) ps fun t => commits k mine t ∧
         (t.ovsOf k).gaps = [] ∧ more Reg.Stream.RESTCNT k 1 t)))

/-- Runs and records.
Readings and choices of the model in it: log entries 3, 12, 31, 32, 78, 79, 80, 81, 93, 106, 108, 153. -/
def Obligations.RunsAndRecords : Prop :=
  ∀ (l u v p : Nat) (s : State), l < 64 → u < 72 → v < 16 → p < 4 →
    let ev := fun c ps (P : State → Prop) => ∃ t, exec c s = .next t ∧ Only ps s t ∧ P t
    let nothing := fun c => exec c s = .next s
    let more := fun (f : Field) i (t : State) => t.rd f i = min (s.rd f i + 1) (2 ^ f.width - 1)
    let noWait := { s with seq := { s.seq with wait := none } }
    let resumes := fun c unit flag x (ok : State → Prop) => let z := noWait.wr flag 0 0
      XReady x z → ok z → ev c [.grp unit, .seq] fun t => t.rd flag 0 = 0 ∧
        t.seq = { s.seq with wait := none, forming := some { unit := unit, op := 1, words := (xargs z x).ws } }
    ((∀ x, s.seq.wait ≠ some (5, 1, x)) → nothing .loadWaitResume) ∧
    (∀ x, s.seq.wait = some (5, 1, x) → (freeArea s = none → nothing .loadWaitResume) ∧
      (freeArea s ≠ none → resumes .loadWaitResume 5 Reg.RpaGlobal.LOADPEND x fun z => s.seq.xat.mode = 2 ∧ s.seq.xat.target ≠ .none ∧
        imageOk z (bits ((xargs z x).w 0) 47 0) = true ∧ freeArea z ≠ none)) ∧
    ((∀ x, s.seq.wait ≠ some (8, 1, x)) → nothing .modelWaitResume) ∧
    (∀ x, s.seq.wait = some (8, 1, x) → (freeModel s = none → nothing .modelWaitResume) ∧
      (freeModel s ≠ none → resumes .modelWaitResume 8 Reg.RclGlobal.MLOADPEND x fun z => s.seq.xat.mode = 2 ∧ s.seq.xat.target = .views ∧
        modelOk z (bits ((xargs z x).w 0) 47 0) = true ∧ freeModel z ≠ none)) ∧
    (let ph := s.rd Reg.Lrp.PHYS l
     let ps : List Part := [.all .head, .all .lrp, .all .rpaUnit, .grp 5, .grp 9, .grp 64, .dep, .free, .gaps, .heads, .held, .mem, .poison,
       .power, .procs, .progress, .rpa, .sump, .tokens]
     let plain := unboundAt s l = false ∧ nextRestore s l = none ∧ (s.rd Reg.RpaDep.PSTATE ph = 3 → (s.proc ph).run.isSome = true)
     let runs := fun (g : Tag) => slotPoisoned s g = false → ∀ k en, areaFor s g.epoch = some k →
       Tbl.get (fun _ => none) (areaOf s k).heads g.head = some en → Tbl.get (fun _ => none) s.rpa.haltArea l ≠ some k →
       ev (.stripRun l) ps fun t => ∃ r, (t.proc ph).run = some r ∧ r.lrp = l ∧ r.area = k ∧ r.outMask = en.outMask ∧
         r.tag.head = g.head ∧ r.tag.lseq = g.lseq ∧ r.tag.strip = g.strip ∧ (t.proc ph).pc = if r.init = true then en.initOff else en.rowOff
     (∃ t, exec (.stripRun l) s = .next t ∧ Only ps s t) ∧
     (plain → s.rpa.haltArea = [] → lrpFree s l = false → nothing (.stripRun l)) ∧
     (plain → lrpFree s l = true → journalRoom s l = false → ev (.stripRun l) [.all .lrp, .rpa] fun t =>
       (Tbl.get (fun _ => false) s.rpa.jwait l = false → more Reg.Lrp.JWAITCNT l t) ∧ Tbl.get (fun _ => false) t.rpa.jwait l = true) ∧
     (plain → lrpFree s l = true → journalRoom s l = true →
       (∀ e, (s.rpa.replays.find? fun q => q.lrp == l) = some e → runs e.tag) ∧
       (∀ h b r j, (s.rpa.replays.find? fun q => q.lrp == l) = none → nextHead s l = some (h, b) → pendingOn s l h = some (r, j) →
         s.held = [] → Tbl.get (fun _ => none) s.rpa.smFault (64 * l + r.tag.head) = none → runs { r.tag with strip := j }))) ∧
    ((s.rpa.copies.find? fun c => c.rp == u) = none → nothing (.codeCopyComplete u)) ∧
    (∀ c, (s.rpa.copies.find? fun c => c.rp == u) = some c → c.area < 2 →
      ev (.codeCopyComplete u) [.all .bank, .all .lrp, .all .view, .grp 5, .grp 64, .mem, .poison, .progress, .rpa] fun t =>
        t.rpa.copies = s.rpa.copies.erase c ∧ areaValid t c.area = true ∧
        let n := 8 * bits (imgWord s c.addr 0) 39 24
        let a := 0x10000000 + u * 0x100000 + c.area * 0x10000
        (List.range n).map (fun k => t.byte (a + k)) = s.readBytes (c.addr + 0x200) n ∧ ∀ k, n ≤ k → k < 0x10000 → t.byte (a + k) = 0) ∧
    (s.recs.copies = [] → nothing .modelCopyComplete) ∧
    (∀ c cs, s.recs.copies = c :: cs → c.area < 2 → ev .modelCopyComplete [.grp 8, .grp 64, .progress, .recs] fun t => t.recs.copies = cs ∧
      t.rd2 Reg.RclGlobal.AVALID 0 c.area = 1 ∧ t.rd2 Reg.RclGlobal.AEPOCH 0 c.area = c.epoch % 2 ^ Reg.RclGlobal.AEPOCH.width) ∧
    (∀ right e n w,
      let on := (if right = true then s.rd Reg.View.REMOTER v else s.rd Reg.View.REMOTEL v) ≠ 0
      let rows := fun (t : State) => if right = true then (t.view v).right else (t.view v).left
      let words := fun (t : State) => if right = true then (t.view v).wordsR else (t.view v).wordsL
      let miss := fun (t : State) => if right = true then (t.rtk v).missR else (t.rtk v).missL
      let came := fun (t : State) => t.rd Reg.WlkPort.RXPKT p = (s.rd Reg.WlkPort.RXPKT p + 1) % 2 ^ Reg.WlkPort.RXPKT.width
      (s.portUp p = false → nothing (.edgeExchangeReceive p v right e) ∧ nothing (.boundaryWordReceive p v right n w)) ∧
      (s.portUp p = true → ev (.edgeExchangeReceive p v right e) [.one .wlkPort p, .grp 64, .views] fun t => came t ∧
        (¬on → t.views = s.views) ∧
        (on → rowGone s v e.n = false → rows t = (e :: (rows s).filter fun q => q.n != e.n).take 256) ∧
        (on → rowGone s v e.n = true → rows t = rows s) ∧ (∀ q, on → e.word = some q → (words t).head? = some (e.n, q))) ∧
      (s.portUp p = true → ev (.boundaryWordReceive p v right n w) [.one .wlkPort p, .grp 64, .views] fun t => came t ∧
        words t = (n, w) :: ((words s).filter fun q => q.1 != n).take 255) ∧
      (∀ i, rtkNext s v = some i → let m := (i.tag.lseq + 1) % 2 ^ 40
        let lacks := i.kind = .row ∧ on ∧ ((words s).any fun q => q.1 == m) = false ∧ (miss s).contains m = false
        (¬lacks → nothing (.boundaryWordTimeout v right)) ∧
        (lacks → ev (.boundaryWordTimeout v right) [.one .rtkView v, .recs] fun t => miss t = (m :: miss s).take 4 ∧
          more Reg.RtkView.CONTMISSCNT v t)) ∧
      (rtkNext s v = none → nothing (.boundaryWordTimeout v right))) ∧
    (∀ ws is, (s.recs.held = .record ws :: is →
        (65536 ≤ fifoRecords s.recs.fifo → nothing .rtkRecordEnqueue) ∧
        (fifoRecords s.recs.fifo < 65536 → ev .rtkRecordEnqueue [.all .rtkView, .grp 7, .grp 64, .recs] fun t =>
          (t.recs.held, t.recs.fifo) = pushMarks is (s.recs.fifo ++ [.record ws]))) ∧
      (s.recs.fifo = .record ws :: is →
        (dlgHolds s = true ∨ waitsModel s ws = true → nothing .recordClassify) ∧
        (dlgHolds s = false → waitsModel s ws = false →
          ev .recordClassify [.all .featMap, .all .rclView, .grp 0, .grp 7, .grp 64, .held, .progress, .recs, .seq] fun t => t.recs.fifo = is ∧
            (∃ r, t.recs.toDlg = s.recs.toDlg ++ [.record r] ∧ r.take 30 = ws.take 30) ∧
            more (if bits (recWord ws 0) 63 60 = 3 then Reg.RclView.LINKCNT else Reg.RclView.CLSCNT) (bits (recWord ws 0) 58 55) t))) ∧
    (s.recs.held = [] → nothing .rtkRecordEnqueue) ∧ (s.recs.fifo = [] → nothing .recordClassify)

/-- Ledger events.
Readings and choices of the model in it: log entries 12, 34, 82, 83, 84, 86, 157, 158. -/
def Obligations.LedgerAndMarkers : Prop :=
  ∀ (m p : Nat) (s : State), m < 16 → p < 4 →
    let ev := fun c ps (P : State → Prop) => ∃ t, exec c s = .next t ∧ Only ps s t ∧ P t
    let nothing := fun c => exec c s = .next s
    let more := fun (f : Field) i n (t : State) => t.rd f i = min (s.rd f i + n) (2 ^ f.width - 1)
    let steps := fun (f : Field) (t : State) => t.rd f 0 = (s.rd f 0 + 1) % 2 ^ f.width
    let came := fun (t : State) => t.rd Reg.WlkPort.RXPKT p = (s.rd Reg.WlkPort.RXPKT p + 1) % 2 ^ Reg.WlkPort.RXPKT.width
    let due := fun k : Mark => k.marker == m && reaches (s.rd Reg.Marker.MDIR m) s.pos k.fire
    let n := s.marks.countP due
    let high := Tbl.get (fun _ => false) s.markPins m
    let L : List Part := [.all .marker, .all .wlkPort, .grp 0, .grp 9, .grp 17, .grp 64, .dlg, .held, .markPins, .marks, .mem, .poison,
      .progress, .recs, .sent, .seq, .tokens]
    let written := fun (t : State) => steps Reg.Ledger.LWP t ∧ steps Reg.Ledger.DSEQNEXT t ∧
      ledWord (ringEntry t (s.rd Reg.Ledger.LWP 0)) 0 = nextId s
    (n = 0 ∨ s.wpValid = false → nothing (.markFire m)) ∧
    (n ≠ 0 → s.wpValid = true → ev (.markFire m) [.one .marker m, .grp 9, .grp 64, .markPins, .marks, .tokens] fun t =>
      t.marks = (s.marks.filter fun k => !due k) ∧ (s.up = false → t.markPins = s.markPins ∧ t.tokens = s.tokens) ∧
      (s.up = true → Tbl.get (fun _ => false) t.markPins m = true ∧ (high = true → more Reg.Marker.MERGECNT m n t ∧ t.tokens = s.tokens) ∧
        (high = false → more Reg.Marker.FIRECNT m 1 t ∧ t.tokens = s.tokens ++ tokensOf s (384 + m)))) ∧
    ev (.markPulseEnd m) [.markPins] (fun t => Tbl.get (fun _ => false) t.markPins m = false) ∧
    (∀ ws rest, s.recs.toDlg = .record ws :: rest →
      let w0 := recWord ws 0
      let v := bits w0 58 55
      let key := [bits w0 39 0, bits w0 63 60, bits (recWord ws 8) 47 0, bits (recWord ws 9) 63 48]
      let known := (recKeys s v).contains key
      let takes := ringTakes s false = true
      (known = true → ev (.ledgerRecordWrite 0) [.grp 9, .grp 64, .recs] fun t => t.recs.toDlg = rest ∧ more Reg.Ledger.DUPCNT 0 1 t) ∧
      (known = false → ¬takes → nothing (.ledgerRecordWrite 0)) ∧
      (known = false → takes → ev (.ledgerRecordWrite 0) L fun t => t.recs.toDlg = rest ∧ (recKeys t v).head? = some key ∧
        (s.rd Reg.Ledger.COLLECT 0 = 0 → written t))) ∧
    (s.recs.toDlg = [] → nothing (.ledgerRecordWrite 0)) ∧ (s.dlg.inbox = [] → nothing (.ledgerRecordWrite 1)) ∧
    (∀ ws rest, s.dlg.inbox = ws :: rest → (takeForwarded ws s = none → nothing (.ledgerRecordWrite 1)) ∧
      ((takeForwarded ws s).isSome = true → ev (.ledgerRecordWrite 1) L fun t => t.dlg.inbox = rest ∧ t.recs = s.recs)) ∧
    (s.dlg.links = [] ∨ ringTakes s false = false → nothing (.ledgerRecordWrite 2)) ∧
    (∀ l, s.dlg.links = [l] → ringTakes s false = true → ev (.ledgerRecordWrite 2) L fun t => t.dlg.links = [] ∧
      more Reg.Ledger.LINKCNT 0 1 t ∧ written t) ∧
    (let next := s.dlg.fwdNext
     let c := s.rd Reg.Wlk.COLLECTOR 0
     let lo := s.rd Reg.Ledger.LRD1 0
     let may := (s.rd Reg.Ledger.RDEN 0).testBit 1 = true ∧ c ≠ 0 ∧ s.rd Reg.Wlk.NODE 0 ≠ 0 ∧ next < s.rd Reg.Ledger.LWP 0 ∧
       next < lo + 256 ∧ ringUp s = true
     let hits := fun q => ((List.range (next - lo)).map (lo + ·)).filter fun k => bits (ledWord (ringEntry s k) 0) 49 0 == q % 2 ^ 50
     (¬may → nothing .rd1Forward) ∧
     (may → ev .rd1Forward [.all .wlkPort, .grp 17, .grp 64, .dlg, .sent, .tokens] fun t => t.dlg = { s.dlg with fwdNext := next + 1 }) ∧
     (∀ q, (s.portUp p = false → nothing (.fwdAckReceive p q)) ∧
       (s.portUp p = true → s.inDram (s.rd Reg.Ledger.LBASE 0) (128 * ringSize s + 8) = true →
         ev (.fwdAckReceive p q) [.one .wlkPort p, .grp 9, .grp 64] fun t => came t ∧
           t.rd Reg.Ledger.LRD1 0 = match (hits q).getLast? with | some k => (k + 1) % 2 ^ Reg.Ledger.LRD1.width | none => lo)) ∧
     (next ≤ lo → nothing .fwdTimeout) ∧
     (lo < next → ev .fwdTimeout [.grp 17, .dlg, .tokens] fun t => t.dlg = { s.dlg with fwdNext := lo } ∧ more Reg.Wlk.FWDRETXCNT 0 1 t ∧
       (t.rd Reg.Wlk.WCAUSE 0).testBit 5 = true)) ∧
    (∀ ws, let c := Instr.forwardedRecordReceive p ws
      (s.portUp p = false → nothing c) ∧
      (s.portUp p = true → s.rd Reg.Ledger.COLLECT 0 = 0 → ev c [.one .wlkPort p, .grp 64] came) ∧
      (s.portUp p = true → s.rd Reg.Ledger.COLLECT 0 ≠ 0 →
        (s.dlg.inbox ≠ [] ∨ takeForwarded ws s = none → ev c [.one .wlkPort p, .grp 64, .dlg] fun t => came t ∧
          t.dlg = { s.dlg with inbox := s.dlg.inbox ++ [ws] }) ∧
        (s.dlg.inbox = [] → (takeForwarded ws s).isSome = true →
          ev c [.all .wlkPort, .grp 9, .grp 17, .grp 64, .dlg, .mem, .poison, .sent, .tokens] fun t => came t ∧ t.dlg.inbox = []))) ∧
    ev .contactTableExpiry [.grp 9, .dlg] (fun t => t.dlg = { s.dlg with contacts := s.dlg.contacts.drop 1 } ∧
      t.rd Reg.Ledger.CTFILL 0 = (s.dlg.contacts.length - 1) % 2 ^ Reg.Ledger.CTFILL.width)

/-- Sump and overview delivery.
Readings and choices of the model in it: log entries 12, 36, 85, 109. -/
def Obligations.SumpAndOverview : Prop :=
  ∀ (n k p : Nat) (s : State), n < 4096 → k < 8 → p < 4 →
    let ev := fun c ps (P : State → Prop) => ∃ t, exec c s = .next t ∧ Only ps s t ∧ P t
    let nothing := fun c => exec c s = .next s
    let more := fun (f : Field) i (t : State) => t.rd f i = min (s.rd f i + 1) (2 ^ f.width - 1)
    let steps := fun (f : Field) i (t : State) => t.rd f i = (s.rd f i + 1) % 2 ^ f.width
    let L : List Part := [.all .stream, .all .wlkPort, .grp 9, .grp 17, .grp 64, .grp 65, .dlg, .hif, .mem, .poison, .sent, .tokens]
    let e := s.span n
    (∀ w0 w1 w2 w3 c, let m := SumpNote.ofWords w0 w1 w2 w3
      let note := Instr.sumpNoteReceive w0 w1 w2 w3 c
      let reserved := m.tag.kind = 0 ∨ (7 ≤ m.tag.kind ∧ m.tag.kind ≤ 14)
      (reserved → ev note [.malformed] fun t => Tbl.get (fun _ => 0) t.malformed 9 = Tbl.get (fun _ => 0) s.malformed 9 + 1) ∧
      (¬reserved → noteSource m.src = true → (c = 0 ∨ m.tag.kind ≠ 15 → nothing note) ∧
        (c ≠ 0 → m.tag.kind = 15 → ev note [.grp 9, .sump] fun t => t.sump.last = m ∧
          ∃ j, (t.span j).src = m.src ∧ (t.span j).skind = m.skind ∧ (t.span j).yLast = m.tag.pos))) ∧
    (e.valid = true → ev (.sumpSpanClose n) [.sump] fun t => t.span n = { e with closed := true }) ∧
    (e.valid = false → nothing (.sumpSpanClose n)) ∧
    (let c := Instr.sumpSpanDeliver n
     let key : List Int := [e.skind, e.lseqFirst, e.yFirst]
     let known := (spanKeys s e.src).contains key
     let isLedger := ledgerKind e.skind = true
     let j := e.src - 0x30
     let drops := fun (P : State → Prop) => ev c (.sump :: L) fun t => t.span n = {} ∧ P t
     (e.valid = false ∨ e.closed = false ∨ (¬isLedger ∧ e.skind ≠ 0x20 ∧ e.skind ≠ 0x30) → nothing c) ∧
     (e.valid = true → e.closed = true →
       (isLedger → known = true → drops (more Reg.Ledger.DUPCNT 0)) ∧
       (isLedger → known = false → ringTakes s true = false → nothing c) ∧
       (isLedger → known = false → ringTakes s true = true → drops fun t => steps Reg.Ledger.LWP 0 t ∧ steps Reg.Ledger.DSEQNEXT 0 t ∧
         (spanKeys t e.src).head? = some key) ∧
       (e.skind = 0x20 → entryRoom s j = false → nothing c) ∧
       (e.skind = 0x20 → entryRoom s j = true → 0x30 ≤ e.src → e.src < 0x38 → drops (steps Reg.Stream.ORWP j)) ∧
       (e.skind = 0x30 → hifTakes s = false → nothing c) ∧
       (e.skind = 0x30 → hifTakes s = true → drops fun t => t.hif = { s.hif with written := s.hif.written + 1 }))) ∧
    (∀ q, q < 256 → let c := Instr.totaliserReport q
      let some_ := s.rd2 Reg.Ledger.TSPANS 0 q ≠ 0
      let ks := (List.range 8).filter (s.on Reg.Stream.RUNNING)
      let takes := (ledgerKind q = true ∧ ringTakes s true = true) ∨ (q = 0x20 ∧ ks ≠ [] ∧ ∀ j ∈ ks, entryRoom s j = true) ∨
        (q = 0x30 ∧ hifTakes s = true)
      (¬(some_ ∧ takes) → nothing c) ∧
      (some_ → takes → ev c L fun t => t.rd2 Reg.Ledger.TSPANS 0 q = 0 ∧ t.rd2 Reg.Ledger.TROWS 0 q = 0 ∧
        (ledgerKind q = true → steps Reg.Ledger.LWP 0 t ∧ steps Reg.Ledger.DSEQNEXT 0 t) ∧
        (q = 0x20 → ∀ j ∈ ks, steps Reg.Stream.ORWP j t) ∧ (q = 0x30 → t.hif = { s.hif with written := s.hif.written + 1 }))) ∧
    ((s.ovsOf k).held = [] ∨ entryRoom s k = false → nothing (.ovsRowDeliver k)) ∧
    (∀ r rs, (s.ovsOf k).held = r :: rs → entryRoom s k = true →
      ev (.ovsRowDeliver k) [.all .stream, .all .wlkPort, .grp 17, .grp 64, .mem, .ovs, .poison, .sent, .tokens] fun t => steps Reg.Stream.ORWP k t ∧
        steps Reg.Stream.OUTCNT k t ∧ (if r.frameEnd = true then steps Reg.Stream.FRAMECNT k t
          else t.rd Reg.Stream.FRAMECNT k = s.rd Reg.Stream.FRAMECNT k)) ∧
    (let done := s.rd Reg.Stream.STOPPING k ≠ 0 ∧ (s.ovsOf k).flush = none ∧ (s.ovsOf k).held = []
     (¬done → nothing (.ovsStopComplete k)) ∧
     (done → ev (.ovsStopComplete k) [.one .stream k, .all .bank, .all .dma, .seq] fun t => t.rd Reg.Stream.RUNNING k = 0 ∧
       t.rd Reg.Stream.STOPPING k = 0 ∧ (s.rd Reg.Stream.DMACH k < 16 → t.rd Reg.Dma.OWNER (s.rd Reg.Stream.DMACH k) = 0) ∧
       t.seq = (s.complete 0xC 4 k 0).seq)) ∧
    (∀ ws, let c := Instr.inboundBulkReceive p k ws
      let z := (s.wrap Reg.WlkPort.RXPKT p 1).evt 0x11 p 0x41
      let log := s.rd Reg.WlkInbound.IRLOG k
      let full := 2 ^ log ≤ (s.rd Reg.WlkInbound.IRWP k + 2 ^ 64 -
        (z.read64 (s.rd Reg.WlkInbound.IRBASE k + 8 * ws.length * 2 ^ log)).toNat) % 2 ^ 64
      (s.portUp p = false → nothing c) ∧
      (s.portUp p = true → ev c [.all .wlkPort, .one .inbound k, .grp 64, .mem, .poison] fun t =>
        t.rd Reg.WlkPort.RXPKT p = (s.rd Reg.WlkPort.RXPKT p + 1) % 2 ^ Reg.WlkPort.RXPKT.width ∧ (log = 0 → more Reg.WlkInbound.IRDROP k t) ∧
        (log ≠ 0 → full → t.rd Reg.WlkInbound.IRWP k = s.rd Reg.WlkInbound.IRWP k) ∧ (log ≠ 0 → ¬full → steps Reg.WlkInbound.IRWP k t)))

/-- The fabric (chapter 16). The voter's grant is log entry 50.
Readings and choices of the model in it: log entries 12, 50, 88, 89, 92. -/
def Obligations.Fabric : Prop :=
  ∀ (p : Nat) (s : State), p < 4 →
    let ev := fun c ps (P : State → Prop) => ∃ t, exec c s = .next t ∧ Only ps s t ∧ P t
    let nothing := fun c => exec c s = .next s
    let came := fun (t : State) => t.rd Reg.WlkPort.RXPKT p = (s.rd Reg.WlkPort.RXPKT p + 1) % 2 ^ 32
    let counted := fun c => ev c [.one .wlkPort p, .grp 64] came
    let more := fun (f : Field) (t : State) => t.rd f 0 = min (s.rd f 0 + 1) (2 ^ f.width - 1)
    let sends := fun q (t : State) => t.rd Reg.WlkPort.TXPKT q = (s.rd Reg.WlkPort.TXPKT q + 1) % 2 ^ 32
    let cold := s.rd Reg.WlkPort.PSTATE p = 0
    let up := s.portUp p = true
    let me := s.rd Reg.Wlk.NODE 0
    let master := s.rd Reg.Wlk.MASTER 0 ≠ 0
    let port := fun c => ¬up → nothing c
    let fresh := fun term => ¬(term < s.wlk.seenTerm ∨ master)
    let old := fun c term => up → ¬fresh term → counted c
    (cold → nothing (.helloSend p)) ∧ (¬cold → ev (.helloSend p) [.one .wlkPort p, .grp 64, .sent] fun t => sends p t ∧ Tbl.get (fun _ => none) t.sent p =
      some { pkt := .hello me (s.rd Reg.Wlk.HOLDER 0) (s.rd Reg.Wlk.TERM 0) (holderPort s) }) ∧
    (∀ node holder term below, let c := Instr.helloReceive p node holder term below
      let ps : List Part := [.one .wlkPort p, .grp 17, .grp 64, .seq, .tokens, .wlk]
      let learns := holder ≠ 0 ∧ ¬master ∧ s.wlk.seenTerm ≤ term
      (cold → nothing c) ∧
      (¬cold → node % 2 ^ 14 = me → ev c ps fun t => came t ∧ t.rd Reg.WlkPort.PSTATE p = 4 ∧ t.rd Reg.WlkPort.NBRNODE p = node % 2 ^ 14) ∧
      (¬cold → node % 2 ^ 14 ≠ me → ev c ps fun t => came t ∧ t.rd Reg.WlkPort.PSTATE p = 2 ∧ t.rd Reg.WlkPort.NBRNODE p = node % 2 ^ 14 ∧
        t.port p = { s.port p with heard := true, below := below && holder != 0, holder := holder % 2 ^ 14 } ∧
        (learns → t.rd Reg.Wlk.HOLDER 0 = holder % 2 ^ 14 ∧ t.rd Reg.Wlk.TERM 0 = term % 2 ^ 32) ∧
        (¬learns → t.rd Reg.Wlk.HOLDER 0 = s.rd Reg.Wlk.HOLDER 0 ∧ t.rd Reg.Wlk.TERM 0 = s.rd Reg.Wlk.TERM 0))) ∧
    (∀ trip far : Nat, let c := Instr.delayMeasure p trip far
      let ds := (((trip : Int) - far + 2 * s.rdI Reg.WlkPort.ASYM p) :: (s.port p).delays).take 16
      port c ∧ (up → ev c [.one .wlkPort p, .grp 64, .sent, .wlk] fun t => (t.port p).delays = ds ∧ came t ∧ sends p t ∧
        t.rd Reg.WlkPort.LINKDLY p = low 32 (ds.foldl (· + ·) 0 / (2 * ds.length : Nat)))) ∧
    (masterActs s = false → nothing .syncSend) ∧
    (masterActs s = true → ev .syncSend [.all .wlkPort, .grp 64, .sent] fun t => ∀ q ∈ belowPorts s, sends q t ∧
      Tbl.get (fun _ => none) t.sent q = some { pkt := syncPkt s }) ∧
    (∀ term epoch pos spd acc valid coasting ptm corr, let c := Instr.syncReceive p term epoch pos spd acc valid coasting ptm corr
      port c ∧ old c term ∧
      (up → fresh term → ev c [.all .wlkPort, .grp 3, .grp 17, .grp 18, .grp 64, .free, .sent, .tnt, .tokens, .web, .wlk] fun t => came t ∧
        t.wlk.lastSync = s.raw ∧ t.wlk.lostSync = false ∧ t.wlk.syncEpoch = epoch % 128 ∧ t.wlk.seenTerm = term ∧
        t.rd Reg.Wlk.TERM 0 = term % 2 ^ 32 ∧ (∀ q ∈ belowPorts s, q ≠ p → sends q t) ∧
        t.rd Reg.Wlk.OUTDOMAIN 0 = (if s.rd Reg.Wlk.CUTDOM 0 ≠ 0 ∧ s.rd Reg.Cut.EPOCH 0 ≠ epoch % 128 then 1 else 0) ∧
        (s.rd Reg.Tnt.TMODE 0 ≠ 1 → t.web.fabFault = !valid ∧ t.web.fabric =
          ⟨65536 * pos, 65536 * spd, 65536 * acc, s.raw - (corr + s.rdI Reg.WlkPort.LINKDLY p).toNat⟩))) ∧
    (me = 0 ∨ master ∨ s.wlk.lostSync = true → nothing .pstoExpiry) ∧
    (me ≠ 0 → ¬master → s.wlk.lostSync = false → ev .pstoExpiry [.grp 3, .grp 18, .tokens, .web, .wlk] fun t => t.wlk.lostSync = true ∧
      t.web.fabFault = true ∧ t.rd Reg.Tnt.SYNCOK 0 = 0 ∧ more Reg.Tnt.SYNCLOSSCNT t) ∧
    (masterActs s = false → nothing .leaseRenewalSend) ∧
    (masterActs s = true → ev .leaseRenewalSend [.all .wlkPort, .grp 17, .grp 64, .sent, .tokens, .wlk] fun t => t.wlk.renewals.map (·.1) =
      s.raw :: (s.wlk.renewals.filter fun r => decide (s.raw < r.1 + leaseTicks s)).map (·.1)) ∧
    (∀ node term, let c := Instr.leaseRenewalReceive p node term
      let votes := isVoter s = true ∧ s.wlk.voteTerm = term
      port c ∧ old c term ∧ (up → fresh term → ev c [.all .wlkPort, .grp 17, .grp 64, .sent, .tokens, .wlk] fun t => came t ∧ t.wlk.seenTerm = term ∧
        (votes → t.wlk.heardAt = some s.raw) ∧ (¬votes → t.wlk.heardAt = s.wlk.heardAt))) ∧
    (∀ node term sent, let c := Instr.leaseAckReceive p node term sent
      let takes := master ∧ term = s.rd Reg.Wlk.TERM 0 ∧ (voters s).contains node = true
      port c ∧ (up → ¬takes → counted c) ∧ (up → takes → ev c [.one .wlkPort p, .grp 64, .wlk] fun t => came t ∧
        t.wlk.renewals = (s.wlk.renewals.map fun r => if r.1 = sent then (r.1, if r.2.contains node then r.2 else node :: r.2) else r) ∧
        (∀ r, (t.wlk.renewals.find? fun r => r.1 == sent) = some r → majority s r.2 = true → t.wlk.leased = max s.wlk.leased sent))) ∧
    (¬master ∨ masterActs s = true → nothing .fabricLeaseExpiry) ∧
    (master → masterActs s = false → ev .fabricLeaseExpiry [.grp 3, .grp 17, .grp 18, .seq, .tnt, .tokens, .web, .wlk] fun t =>
      t.rd Reg.Wlk.MASTER 0 = 0 ∧ t.rd Reg.Wlk.HOLDER 0 = 0 ∧ t.rd Reg.WebPos.WPSRC 0 = 16 ∧ t.rd Reg.Tnt.TMODE 0 = 1 ∧ t.wlk.cut = none) ∧
    (let may := s.rd Reg.Wlk.RANK 0 ≠ 0 ∧ ¬master ∧ me ≠ 0
     let term := max (s.rd Reg.Wlk.TERM 0) s.wlk.seenTerm + 1
     (¬may → nothing .candidateTimeout) ∧
     (may → ev .candidateTimeout [.all .wlkPort, .grp 3, .grp 17, .grp 18, .grp 64, .sent, .seq, .tnt, .tokens, .web, .wlk] fun t =>
       (grants s term = false → t.wlk.asked = some (term, [])) ∧
       (grants s term = true → t.wlk.voteTerm = term ∧ t.wlk.grantedAt = some s.raw ∧
         (majority s [me] = false → t.wlk.asked = some (term, [me])) ∧ (majority s [me] = true → t.rd Reg.Wlk.MASTER 0 = 1)))) ∧
    (∀ node term, let c := Instr.termRequestReceive p node term
      port c ∧ (up → grants s term = false → counted c) ∧
      (up → grants s term = true → ev c [.all .wlkPort, .grp 17, .grp 64, .sent, .tokens, .wlk] fun t =>
        t.wlk = { s.wlk with voteTerm := term, grantedAt := some s.raw, heardAt := none })) ∧
    (∀ node term, let c := Instr.termGrantReceive p node term
      let takes := fun vs => s.wlk.asked = some (term, vs) ∧ (voters s).contains node = true
      port c ∧ (up → (∀ vs, ¬takes vs) → counted c) ∧
      (∀ vs, up → takes vs → let ws := if vs.contains node then vs else node :: vs
        (majority s ws = false → ev c [.one .wlkPort p, .grp 64, .wlk] fun t => t.wlk = { s.wlk with asked := some (term, ws) }) ∧
        (majority s ws = true → ev c [.one .wlkPort p, .grp 3, .grp 17, .grp 18, .grp 64, .seq, .tnt, .tokens, .web, .wlk] fun t =>
          t.rd Reg.Wlk.MASTER 0 = 1 ∧ t.rd Reg.Wlk.HOLDER 0 = me ∧ t.rd Reg.Wlk.TERM 0 = term % 2 ^ 32 ∧ t.wlk.asked = none ∧
          t.wlk.leased = s.raw ∧ t.rd Reg.Tnt.TMODE 0 = 0 ∧ more Reg.Wlk.LEASECHGCNT t))) ∧
    (∀ node hops, let c := Instr.packetForward p node hops
      let on := up ∧ node ≠ me ∧ 1 < hops
      let ps : List Part := [.one .wlkPort p, .grp 17, .grp 64, .tokens]
      port c ∧ (up → node = me → counted c) ∧
      (up → node ≠ me → hops ≤ 1 → ev c ps fun t => came t ∧ more Reg.Wlk.TTLCNT t ∧ (t.rd Reg.Wlk.WCAUSE 0).testBit 6 = true) ∧
      (on → routeOf s node = none → ev c ps fun t => came t ∧ more Reg.Wlk.NOROUTECNT t ∧ (t.rd Reg.Wlk.WCAUSE 0).testBit 6 = true) ∧
      (∀ q, on → routeOf s node = some q → (4 ≤ q → counted c) ∧ (q < 4 → ev c [.all .wlkPort, .grp 64, .sent] fun t => came t ∧
        Tbl.get (fun _ => none) t.sent q = some { node := node, hops := hops - 1, pkt := .through } ∧ sends q t))) ∧
    (∀ term tsnap, let c := Instr.fabricSnapRequestReceive p term tsnap
      port c ∧ old c term ∧ (up → fresh term → ev c [.all .wlkPort, .grp 17, .grp 23, .grp 64, .sent, .snap, .tokens, .wlk] fun t => came t ∧
        t.wlk.seenTerm = term ∧ (s.snap = none → t.snap = some { at_ := some tsnap } ∧ t.rd Reg.Pmu.SVALID 0 = 0) ∧ (s.snap.isSome = true → t.snap = s.snap)))

/-- Fabric cuts (R42, R510 to R514).
Readings and choices of the model in it: log entries 12, 49, 90. -/
def Obligations.FabricCuts : Prop :=
  ∀ (p : Nat) (s : State), p < 4 →
    let ev := fun c ps (P : State → Prop) => ∃ t, exec c s = .next t ∧ Only ps s t ∧ P t
    let nothing := fun c => exec c s = .next s
    let came := fun (t : State) => t.rd Reg.WlkPort.RXPKT p = (s.rd Reg.WlkPort.RXPKT p + 1) % 2 ^ 32
    let counted := fun c => ev c [.one .wlkPort p, .grp 64] came
    let more := fun (f : Field) (t : State) => t.rd f 0 = min (s.rd f 0 + 1) (2 ^ f.width - 1)
    let cause := fun k (t : State) => (t.rd Reg.Wlk.WCAUSE 0).testBit k = true
    let L : List Part := [.all .wlkPort, .grp 17, .grp 64, .tokens, .wlk]
    let R : List Part := L ++ [.all .featMap, .all .geom, .all .lrp, .all .rtkView, .all .seam, .all .view, .grp 4, .grp 7, .cutPkts, .cuts,
      .held, .mem, .progress, .recs, .rpa, .sent, .seq]
    let calm := s.cuts = [] ∧ s.rpa.haltArea = []
    let up := s.portUp p = true
    let master := s.rd Reg.Wlk.MASTER 0 ≠ 0
    let cut := s.wlk.cut
    let opens := fun (c : FabCut) (t : State) => s.rd Reg.Wlk.CUTDOM 0 ≠ 0 → (s.rd Reg.Cut.EPOCH 0 + 1) % 128 = c.epoch → t.rd Reg.Cut.EPOCH 0 = c.epoch
    let z := { s with seq := { s.seq with wait := none } }
    ((∀ x, s.seq.wait ≠ some (4, 5, x)) → nothing .epochWaitResume) ∧
    (∀ x, (s.seq.wait = some (4, 5, x) → 63 ≤ epochsInFlight s → nothing .epochWaitResume) ∧
      (s.seq.wait = some (4, 5, x) → epochsInFlight s < 63 → XReady x z → bit ((xargs z x).w 1) 1 = false → cutPoolFull s = true →
        exec .epochWaitResume s = .next s) ∧
      (s.seq.wait = some (4, 5, x) → epochsInFlight s < 63 → XReady x z → bit ((xargs z x).w 1) 1 = false → cutPoolFull s = false →
        s.rd Reg.Wlk.OUTDOMAIN 0 = 0 → s.rd Reg.Wlk.CUTDOM 0 = 0 → cutValid s (b2n (bit ((xargs z x).w 1) 0)) ((xargs z x).w 0).toInt = true →
        ev .epochWaitResume (R ++ [.grp 0, .procs, .sampled]) fun t => t.rd Reg.Cut.EPOCH 0 = (s.rd Reg.Cut.EPOCH 0 + 1) % 128 ∧ t.seq.wait = none)) ∧
    (∀ term epoch dir pcut, let c := Instr.cutAnnounceReceive p term epoch dir pcut
      let ps := (belowPorts s).filter (· != p)
      let f : FabCut := { epoch := epoch % 128, pos := pcut, dir := dir % 2, up := p, wait := ps }
      (¬up → nothing c) ∧ (up → term < s.wlk.seenTerm ∨ master → counted c) ∧
      (up → s.wlk.seenTerm ≤ term → ¬master → ev c (L ++ [.grp 4, .cutPkts, .cuts, .sent, .seq]) fun t => came t ∧
        (ps ≠ [] → t.wlk.cut = some f) ∧
        (ps = [] → acksCut s f.epoch f.dir pcut = true → t.wlk.cut = some { f with replied := true }) ∧
        (ps = [] → acksCut s f.epoch f.dir pcut = false → more Reg.Wlk.CUTREFCNT t ∧ cause 2 t ∧
          ∃ q, t.wlk.cut = some q ∧ q.replied = true ∧ q.ack = false))) ∧
    (∀ ack minpos, let c := Instr.cutReplyReceive p ack minpos
      (¬up → nothing c) ∧ (up → calm → cut = none ∨ (∃ f, cut = some f ∧ f.wait.contains p = false) → counted c) ∧
      (∀ f, up → cut = some f → f.wait.contains p = true → let w := f.wait.filter (· != p)
        let all := f.ack = true ∧ ack = true ∧ acksCut s f.epoch f.dir f.pos = true
        (w ≠ [] → ev c R fun t => came t ∧ t.wlk.cut =
          some { f with wait := w, ack := f.ack && ack, minpos := if ack = true then f.minpos else furtherOpt f.dir f.minpos minpos }) ∧
        (w = [] → f.master = false → ev c R fun t => came t ∧ ∃ q, t.wlk.cut = some q ∧ q.replied = true ∧ q.wait = [] ∧ (q.ack = true ↔ all)) ∧
        (w = [] → f.master = true → all → ev c R fun t => t.wlk.cut = none ∧ opens f t))) ∧
    (cut = none ∨ (∃ f, cut = some f ∧ f.wait.contains p = false) → nothing (.cutSubtreeTimeout p)) ∧
    (∀ f, cut = some f → f.wait.contains p = true → ev (.cutSubtreeTimeout p) R fun t => cause 2 t ∧
      (f.wait.filter (· != p) ≠ [] → more Reg.Wlk.CUTREFCNT t ∧ t.wlk.cut =
        some { f with wait := f.wait.filter (· != p), ack := false, minpos := furtherOpt f.dir f.minpos none })) ∧
    (cut = none ∨ (∃ f, cut = some f ∧ f.master = false) → nothing .cutMasterTimeout) ∧
    (∀ f, cut = some f → f.master = true → ev .cutMasterTimeout R fun t => cause 3 t ∧
      (s.rd Reg.Wlk.CUTTRIES 0 ≤ f.tries → t.wlk.cut = none ∧ more Reg.Cut.CUTLATECNT t ∧ t.seq = (completeCut 0xB s).seq) ∧
      (f.tries < s.rd Reg.Wlk.CUTTRIES 0 → belowPorts s ≠ [] → ∃ q, t.wlk.cut = some q ∧ q.epoch = f.epoch ∧ q.dir = f.dir ∧ q.master = true ∧
        q.wait = belowPorts s ∧ q.tries = f.tries + 1 ∧ q.ack = true ∧ ∀ x, f.minpos = some x → q.pos = x)) ∧
    (∀ term epoch, ∀ c ∈ [Instr.cutCommitReceive p term epoch, .cutCancelReceive p term epoch],
      let mine := fun f : FabCut => cut = some f ∧ f.epoch = epoch % 128
      (¬up → nothing c) ∧ (up → term < s.wlk.seenTerm ∨ master → counted c) ∧
      (up → s.wlk.seenTerm < term → ¬master → ev c L fun t => came t ∧ t.wlk.cut = none ∧ t.wlk.seenTerm = term) ∧
      (up → term = s.wlk.seenTerm → ¬master → (∀ f, ¬mine f) → counted c) ∧
      (∀ f, up → term = s.wlk.seenTerm → ¬master → mine f → ev c R fun t => came t ∧ t.wlk.cut = none ∧
        (c = .cutCommitReceive p term epoch → opens f t) ∧ (c = .cutCancelReceive p term epoch → cause 3 t ∧ t.rd Reg.Cut.EPOCH 0 = s.rd Reg.Cut.EPOCH 0))) ∧
    (let agreed := fun f : FabCut => cut = some f ∧ f.replied = true ∧ f.ack = true ∧ f.master = false
     ((∀ f, ¬agreed f) → nothing .cutOrphanTimeout) ∧
     (∀ f, agreed f → ev .cutOrphanTimeout [.grp 17, .tokens, .wlk] fun t => t.wlk.cut = none ∧ more Reg.Wlk.CUTORPHCNT t ∧ cause 1 t))

/-- The host interface (chapter 15). That memory without a stated content reads 0 after a core reset is the model's choice (log entry 2).
Readings and choices of the model in it: log entries 2, 45, 66, 67, 98, 107. -/
def Obligations.HostInterface : Prop :=
  ∀ (s : State),
    let ev := fun c ps (P : State → Prop) => ∃ t, exec c s = .next t ∧ Only ps s t ∧ P t
    let nothing := fun c => exec c s = .next s
    let only := fun c ws => ∃ t, exec c s = .next t ∧ Writes ws s t ∧ Others [] s t
    let errs := fun c => only c [(Reg.Bar0.DBERRCNT, 0, 0, min (s.rd Reg.Bar0.DBERRCNT 0 + 1) (2 ^ 32 - 1))]
    let link := s.power.ember = false
    let cen := s.rd Reg.Bar0.CEN 0 ≠ 0
    let h := s.hif
    let q : List Part := [.grp 64, .grp 65, .hif, .mem, .poison]
    let resets := fun c cause => ∃ t, exec c s = .next t ∧ t.pending = s.pending ∧ t.rd Reg.Pba.RSTCAUSE 0 = cause ∧ t.raw = s.raw ∧
      (∀ a, groupOf a ≠ 18 → groupOf a ≠ 21 → groupOf a ≠ 24 → t.word a = resetWord a) ∧
      (∀ a, t.byte a = if secureAddr a = true ∨ hostAddr a = true then s.byte a else 0) ∧
      t.heads = [] ∧ t.tokens = [] ∧ t.hif = {} ∧ t.seq = { renewed := s.raw } ∧ t.power.dips = s.power.dips ∧ t.power.hot = s.power.hot
    (¬link → ∀ v m c off n d, nothing (.cmddbWrite v) ∧ nothing (.cenWrite m v) ∧ nothing (.ccconsWrite m v) ∧ nothing (.hlconsWrite m v) ∧
      nothing (.menWrite m v) ∧ nothing (.resetkeyWrite v) ∧ nothing (.bar0Evfire c) ∧ nothing (.bar0RegWrite off m v) ∧
      nothing (.bar2Access off n d) ∧ nothing .functionLevelReset ∧ nothing .mirrorRefresh ∧ nothing (.producerWordWrite 0) ∧
      nothing (.producerWordWrite 1) ∧ nothing .rd0HostCopy) ∧
    resets .pcieReset 3 ∧
    (link → resets .functionLevelReset 4 ∧
      (∀ v, (v % 65536 = 0x5253 → resets (.resetkeyWrite v) 4) ∧ (v % 65536 ≠ 0x5253 → nothing (.resetkeyWrite v))) ∧
      (∀ v, let ahead := (v % 2 ^ 32 + 2 ^ 32 - s.rd Reg.Bar0.CHEAD 0) % 2 ^ 32
        (¬cen → nothing (.cmddbWrite v)) ∧ (cen → 2 ^ s.rd Reg.Bar0.CLOG 0 < ahead → errs (.cmddbWrite v)) ∧
        (cen → ahead ≤ 2 ^ s.rd Reg.Bar0.CLOG 0 → only (.cmddbWrite v) [(Reg.Bar0.CMDDB, 0, 0, v % 2 ^ 32)])) ∧
      (∀ m v, let x := merge (s.word Reg.Bar0.CEN.base) m v
        let z := bar0Fields x [Reg.Bar0.CLOG, Reg.Bar0.CSTAGE] s
        (cen → bit x 63 = true → nothing (.cenWrite m v)) ∧
        (cen → bit x 63 = false → ev (.cenWrite m v) [.grp 65, .hif] fun t => t.rd Reg.Bar0.CEN 0 = 0 ∧ t.hif = { h with entries := [] }) ∧
        (¬cen → ev (.cenWrite m v) [.grp 65, .hif] fun t =>
          t.rd Reg.Bar0.CLOG 0 = Reg.Bar0.CLOG.get 0 x ∧ t.rd Reg.Bar0.CSTAGE 0 = Reg.Bar0.CSTAGE.get 0 x ∧
          (bit x 63 = true → ringError z = 0 → t.rd Reg.Bar0.CEN 0 = 1 ∧ t.rd Reg.Bar0.CERR 0 = 0 ∧ t.rd Reg.Bar0.CMDDB 0 = 0 ∧
            t.rd Reg.Bar0.CHEAD 0 = 0 ∧ t.rd Reg.Bar0.CCCONS 0 = 0 ∧ t.hif.pos = 0 ∧ t.hif.written = 0 ∧ t.hif.entries = []) ∧
          (bit x 63 = true → ringError z ≠ 0 → t.rd Reg.Bar0.CEN 0 = 0 ∧ t.rd Reg.Bar0.CERR 0 = ringError z ∧ t.hif = h) ∧
          (bit x 63 = false → t.rd Reg.Bar0.CEN 0 = 0 ∧ t.hif = h))) ∧
      (∀ m v, ∀ e ∈ [(Instr.ccconsWrite m v, Reg.Bar0.CCCONS, h.written), (Instr.hlconsWrite m v, Reg.Bar0.HLCONS, h.copied)],
        let x := merge (s.word e.2.1.base) m v
        (e.2.2 < x.toNat → errs e.1) ∧ (x.toNat ≤ e.2.2 → only e.1 [(e.2.1, 0, 0, x.toNat)])) ∧
      (∀ m v, let on := bit (merge (s.word Reg.Bar0.MEN.base) m v) 63
        ev (.menWrite m v) q fun t => t.rd Reg.Bar0.MEN 0 = b2n on ∧
          t.hif.gen = if on = true ∧ s.rd Reg.Bar0.MEN 0 = 0 then 0 else h.gen) ∧
      (∀ c, (s.rd Reg.EvrChan.EN (c % 128) = 0 → nothing (.bar0Evfire c)) ∧ (s.rd Reg.EvrChan.EN (c % 128) ≠ 0 →
        exec (.bar0Evfire c) s = .next { s with tokens := s.tokens ++ [{ chan := c % 128, src := 512 }] })) ∧
      (∀ m v, let base := fun off (f en : Field) => (s.rd en 0 ≠ 0 → nothing (.bar0RegWrite off m v)) ∧
          (s.rd en 0 = 0 → only (.bar0RegWrite off m v) [(f, 0, 0, f.get 0 (merge (s.word f.base) m v))])
        base 0x100 Reg.Bar0.CBASE Reg.Bar0.CEN ∧ base 0x120 Reg.Bar0.CCBASE Reg.Bar0.CEN ∧ base 0x140 Reg.Bar0.HLBASE Reg.Bar0.HLEN ∧
        base 0x180 Reg.Bar0.MBASE Reg.Bar0.MEN ∧ exec (.bar0RegWrite 0x108 m v) s = exec (.cenWrite m v) s ∧
        exec (.bar0RegWrite 0x128 m v) s = exec (.ccconsWrite m v) s ∧ exec (.bar0RegWrite 0x150 m v) s = exec (.hlconsWrite m v) s ∧
        exec (.bar0RegWrite 0x188 m v) s = exec (.menWrite m v) s ∧
        (∀ k, k < 4 → only (.bar0RegWrite (0x1C0 + 8 * k) m v) [(Reg.Bar0.W2BASE, k, 0,
          Reg.Bar0.W2BASE.get 0 (merge (s.word (Reg.Bar0.W2BASE.word k 0)) m v))]) ∧
        ev (.bar0RegWrite 0x148 m v) [.grp 65, .hif] (fun t => bit (merge (s.word Reg.Bar0.HLEN.base) m v) 63 = false → t.rd Reg.Bar0.HLEN 0 = 0)) ∧
      (∀ off n, let a := fun len => (bar2Addr s off len).filter fun a => bar2Ok s a len
        let fails := fun c (P : State → Prop) => ev c [.grp 65, .hif] fun t =>
          t.rd Reg.Bar0.B2ERRCNT 0 = min (s.rd Reg.Bar0.B2ERRCNT 0 + 1) (2 ^ 32 - 1) ∧ P t
        (a n = none → fails (.bar2Access off n none) fun t => t.hif.answer = some (List.replicate n 0xFF)) ∧
        (∀ b, a n = some b → ev (.bar2Access off n none) [.grp 64, .hif] fun t =>
          t.hif.answer = if s.poisoned b n = true then none else some (s.readBytes b n)) ∧
        (∀ bs : List Byte, (a bs.length = none → fails (.bar2Access off n (some bs)) fun t => t.hif = h) ∧
          (∀ b, a bs.length = some b → ev (.bar2Access off n (some bs)) [.grp 64, .mem, .poison] fun t =>
            (∀ k, k < bs.length → t.byte (b + k) = bs.getD k 0) ∧ ∀ x, x < b ∨ b + bs.length ≤ x → t.byte x = s.byte x))) ∧
      (s.rd Reg.Bar0.MEN 0 = 0 → nothing .mirrorRefresh) ∧
      (s.rd Reg.Bar0.MEN 0 ≠ 0 → ev .mirrorRefresh q fun t => t.hif = { h with gen := h.gen + 2 }) ∧
      (¬cen → nothing (.producerWordWrite 0)) ∧ (s.rd Reg.Bar0.HLEN 0 = 0 → nothing (.producerWordWrite 1)) ∧
      (cen → ev (.producerWordWrite 0) q fun t => t.hif = { h with cprod := h.written }) ∧
      (s.rd Reg.Bar0.HLEN 0 ≠ 0 → ev (.producerWordWrite 1) q fun t => t.hif = { h with hlprod := h.copied })) ∧
    (h.entries = [] ∨ ccRoom s = false → nothing .completionEntryWrite) ∧
    (∀ e es, h.entries = e :: es → ccRoom s = true → ev .completionEntryWrite q fun t =>
      t.hif = { h with entries := es, written := h.written + 1 }) ∧
    (let n := s.rd Reg.Ledger.LRD0 0
     let may := (s.rd Reg.Ledger.RDEN 0).testBit 0 = true ∧ s.rd Reg.Bar0.HLEN 0 ≠ 0 ∧ ringUp s = true ∧ n < s.rd Reg.Ledger.LWP 0 ∧
       h.copied < s.rd Reg.Bar0.HLCONS 0 + 2 ^ s.rd Reg.Bar0.HLLOG 0
     (¬may → nothing .rd0HostCopy) ∧
     (link → may → ev .rd0HostCopy (.grp 9 :: q) fun t => t.hif = { h with copied := h.copied + 1 } ∧ t.rd Reg.Ledger.LRD0 0 = (n + 1) % 2 ^ 64)) ∧
    (∀ entry, let c := Instr.commandStart entry
      let may := seqIdle s = true ∧ handlerWaits s = false
      let next := link ∧ cen ∧ s.rd Reg.Bar0.CHEAD 0 ≠ s.rd Reg.Bar0.CMDDB 0 ∧ s.seq.log.length < 1024
      let cseq := h.pos % (2 ^ 32 - 1) + 1
      let ps : List Part := [.grp 0, .grp 64, .grp 65, .hif, .mem, .poison, .procs, .seq]
      let e := (List.range 128).map fun k => entry.getD k 0
      (¬may → nothing c) ∧ (may → redoCommand s = none → ¬next → nothing c) ∧
      (∀ d, may → redoCommand s = some d → ev c [.procs, .seq] fun t => t.seq.cur = some (.command d.cseq) ∧ (t.proc (activeCore s)).pc = 0) ∧
      (may → redoCommand s = none → next → ev c ps fun t => t.rd Reg.Bar0.CHEAD 0 = (s.rd Reg.Bar0.CHEAD 0 + 1) % 2 ^ 32 ∧
        t.hif.pos = h.pos + 1 ∧
        (ringEntryOk e cseq = true → t.seq.cur = some (.command cseq) ∧ t.seq.log.length = s.seq.log.length + 1 ∧
          (t.proc (activeCore s)).pc = 0 ∧ t.seq.codeLen = bits (entry.getD 1 0) 63 56) ∧
        (ringEntryOk e cseq = false → t.seq = s.seq ∧ t.hif.entries.length = h.entries.length + 1))) ∧
    (∀ cseq, ((s.seq.log.find? fun c => c.cseq == cseq) = none → nothing (.commandComplete cseq)) ∧
      (∀ c, (s.seq.log.find? fun c => c.cseq == cseq) = some c → (cmdPending s c = true → nothing (.commandComplete cseq)) ∧
        (cmdPending s c = false → ev (.commandComplete cseq) [.grp 0, .hif, .seq] fun t =>
          t.seq.log = (s.seq.log.filter fun k => k.cseq != cseq) ∧ t.rd Reg.Seq.CMDCNT 0 = (s.rd Reg.Seq.CMDCNT 0 + 1) % 2 ^ 32 ∧
          t.hif.entries.length = h.entries.length + if cen then 1 else 0)))

/-- The sequencer pairs (R538 to R547).
Readings and choices of the model in it: log entries 7, 12. -/
def Obligations.SequencerPairs : Prop :=
  ∀ (s : State),
    let ev := fun c ps (P : State → Prop) => ∃ t, exec c s = .next t ∧ Only ps s t ∧ P t
    let nothing := fun c => exec c s = .next s
    let q := s.seq
    let up := s.power.ember = false ∧ s.rd Reg.Slc.KPHASE 0 = 5
    let pair := s.rd Reg.SeqLease.LEASEPAIR 0
    let ps := s.rd Reg.SeqLease.PAIRSTATE 0
    let emits := fun src (t : State) => t.tokens = s.tokens ++ tokensOf s src
    let stops := fun cause (t : State) => t.rd Reg.SeqLease.TCAUSE 0 = cause ∧
      t.seq = { q with stopped := true, failed := ps != 1, forming := none, wait := none }
    (q.stopped = true → nothing .leaseRenewTick) ∧
    (q.stopped = false → exec .leaseRenewTick s = .next { s with seq := { q with renewed := s.raw } }) ∧
    (∀ cause, (q.stopped = true ∨ ¬up → nothing (.seqAbdicate cause)) ∧
      (q.stopped = false → up → ev (.seqAbdicate cause) [.grp 0, .grp 64, .seq] (stops (if cause = 2 then 2 else 1)))) ∧
    (q.stopped = true ∨ ¬up ∨ leaseHeld s = true → nothing .seqLeaseExpiry) ∧
    (q.stopped = false → up → leaseHeld s = false → ev .seqLeaseExpiry [.grp 0, .seq] (stops 3)) ∧
    (q.stopped = false ∨ q.failed = true → nothing .takeover) ∧
    (q.stopped = true → q.failed = false → ev .takeover [.grp 0, .procs, .seq, .tokens] fun t => t.rd Reg.SeqLease.LEASEPAIR 0 = 1 - pair ∧
      t.rd Reg.SeqLease.PAIRSTATE 0 = 4 ∧ t.rd Reg.SeqLease.TAKEOVERT 0 = s.pt % 2 ^ 64 ∧
      t.rd Reg.SeqLease.TAKECNT 0 = min (s.rd Reg.SeqLease.TAKECNT 0 + 1) (2 ^ 32 - 1) ∧ emits 481 t ∧ t.seq.stopped = false ∧
      t.seq.renewed = s.raw ∧ t.seq.log = (q.log.map fun c => { c with redo := true }) ∧ t.seq.xat = {} ∧
      (∀ k, q.cur = some (.command k) → t.seq.cur = none) ∧ ((∀ k, q.cur ≠ some (.command k)) → t.seq.cur = q.cur)) ∧
    (let runs := q.stopped = false ∧ q.forming = none ∧ q.wait = none
     (¬runs ∨ q.cur = none → nothing .sqwdogExpiry) ∧
     (∀ k, runs → q.cur = some (.command k) → ev .sqwdogExpiry [.seq, .tokens] fun t => emits 483 t ∧ t.seq.cur = none ∧
       t.seq.log = q.log.map fun e => if e.cseq = k then { e with open_ := false, status := 0xE, idx := (s.proc (activeCore s)).last } else e) ∧
     (runs → q.cur ≠ none → (∀ k, q.cur ≠ some (.command k)) → ev .sqwdogExpiry [.seq, .tokens] fun t => emits 483 t ∧
       t.seq = { q with cur := none, xwaits := false })) ∧
    (∀ pass, let c := Instr.seqPairSelftest pass
      (ps = 5 → nothing c) ∧
      (ps ≠ 5 → ev c [.grp 0, .seq, .tokens] fun t =>
        (pass = true → t.rd Reg.SeqLease.PAIRSTATE 0 = 1 ∧ t.seq = { q with tries := 0 } ∧
          (if ps = 4 then emits 485 t else t.tokens = s.tokens)) ∧
        (pass = false → t.seq = { q with tries := q.tries + 1 } ∧ (q.tries < 2 → t.rd Reg.SeqLease.PAIRSTATE 0 = 4 ∧ t.tokens = s.tokens) ∧
          (2 ≤ q.tries → t.rd Reg.SeqLease.PAIRSTATE 0 = 5 ∧ emits 484 t))))

/-- Dependability and calibration (R530 to R551).
Readings and choices of the model in it: log entries 3, 12, 51, 111, 112, 113, 114, 115. -/
def Obligations.Dependability : Prop :=
  ∀ (u l : Nat) (s : State), u < 72 → l < 64 →
    let ev := fun c ps (P : State → Prop) => ∃ t, exec c s = .next t ∧ Only ps s t ∧ P t
    let nothing := fun c => exec c s = .next s
    let more := fun (f : Field) i n (t : State) => t.rd f i = min (s.rd f i + n) (2 ^ f.width - 1)
    let up := s.power.ember = false ∧ s.rd Reg.Slc.KPHASE 0 = 5
    let st := s.rd Reg.RpaDep.PSTATE u
    let is := fun k c (t : State) => t.rd Reg.RpaDep.PSTATE u = k ∧ t.rd Reg.RpaDep.LASTCAUSE u = c
    let F : List Part := [.all .lrp, .all .rpaUnit, .all .target, .grp 5, .grp 21, .grp 22, .grp 64, .damper, .dep, .mem, .poison, .procs, .rpa, .seq, .tokens]
    let names := fun c cause ps (P : State → Prop) => ev c (ps ++ [.one .rpaUnit u, .grp 22, .dep, .tokens]) fun t =>
      t.rd Reg.RpaDep.LASTCAUSE u = cause ∧ t.dep.named = (s.dep.named.filter (· != u)) ++ [u] ∧ P t
    (∀ cause, (¬up ∨ (st ≠ 0 ∧ st ≠ 1 ∧ st ≠ 3) → nothing (.failover u cause)) ∧
      (up → st = 0 ∨ st = 1 ∨ st = 3 → ev (.failover u cause) F (is 4 (if cause = 2 then 2 else 1)))) ∧
    ((st ≠ 0 ∧ st ≠ 3) ∨ (s.proc u).run = none → nothing (.rpWatchdog u)) ∧
    (st = 0 ∨ st = 3 → (s.proc u).run.isSome = true → ev (.rpWatchdog u) F (is 4 3)) ∧
    (let c := Instr.plannedRotation l u
     let out := s.rd Reg.Lrp.PHYS l
     let may := st = 1 ∧ s.rd Reg.RpaDep.PSTATE out = 0 ∧ unboundAt s l = false ∧ rotationOf s l = none ∧ s.rd Reg.Cal.INHIBIT 0 = 0
     (¬may → nothing c) ∧
     (may → spareFree s = false → ev c [.grp 22, .dep, .tokens] fun t => t.dep = { s.dep with reserve := true } ∧ t.rd Reg.Cal.CALPEND 0 = 1) ∧
     (may → spareFree s = true → s.granted 3 u = false → ev c [.grp 21, .damper, .tokens] fun t =>
       ((t.damper.waiting ++ t.damper.held).any fun g => g.cls == 3 && g.id == u) = true) ∧
     (may → spareFree s = true → s.granted 3 u = true → ev c [.one .rpaUnit u, .grp 22, .dep, .tokens] fun t =>
       t.rd Reg.RpaDep.PSTATE u = 3 ∧ t.rd Reg.RpaDep.LRP u = l ∧ t.dep.reserve = false ∧
       t.dep.rotations = s.dep.rotations ++ [{ lrp := l, unit := u }] ∧ t.dep.restores = s.dep.restores ++ restoresFor s u l)) ∧
    (rotationOf s l = none → nothing (.rotationHandover l)) ∧
    (∀ r, rotationOf s l = some r → let out := s.rd Reg.Lrp.PHYS l
      let busy := (∃ e ∈ s.dep.restores, e.1 = r.unit) ∨ (s.proc r.unit).run.isSome = true ∨ (s.proc out).run.isSome = true ∨
        ∃ o ∈ s.rpa.outbox, o.lrp = l
      (busy → nothing (.rotationHandover l)) ∧
      (¬busy → r.unit < 72 → out < 72 → r.unit ≠ out → s.rd Reg.RpaDep.UNBOUND 0 = 0 →
        ev (.rotationHandover l) [.all .lrp, .all .rpaUnit, .all .target, .grp 5, .grp 21, .grp 22, .grp 64, .damper, .dep, .mem, .poison, .rpa,
          .seq, .tokens] fun t => t.rd Reg.Lrp.PHYS l = r.unit ∧ t.rd Reg.RpaDep.PSTATE r.unit = 0 ∧
          (t.rd Reg.RpaDep.PSTATE out = 1 ∨ t.rd Reg.RpaDep.PSTATE out = 2) ∧ more Reg.RpaDep.ROTCNT 0 1 t ∧ t.dep.rotations = s.dep.rotations.filter (· != r) ∧
          ∀ k, k < 901120 → t.byte (0x10020000 + r.unit * 0x100000 + k) = s.byte (0x10020000 + out * 0x100000 + k))) ∧
    (∀ fail outs margin move, let c := Instr.selfTest u { fail := fail, outs := outs } margin move
      let bad := fail = true ∨ ∃ o ∈ outs, (crc32c o.2).toNat ≠ (testPkt s u o.1).sig
      let may := (st = 2 ∨ st = 4) ∧ s.granted 5 u = true ∧ s.dep.retryWait.contains u = false
      let tries := s.rd Reg.RpaDep.TRIES u + 1
      (¬may → nothing c) ∧
      (may → bad → ev c (.free :: F) fun t => t.rd Reg.RpaDep.LASTCAUSE u = 4 ∧
        (3 ≤ tries → t.rd Reg.RpaDep.PSTATE u = 5 ∧ t.rd2 Reg.RpaDep.RETMAP 0 u = 1) ∧
        (tries < 3 → t.rd Reg.RpaDep.PSTATE u = 4 ∧ t.rd Reg.RpaDep.TRIES u = tries ∧ t.dep.retryWait = s.dep.retryWait ++ [u])) ∧
      (may → ¬bad → trimsPlausible s u margin move = true → s.rd Reg.RpaDep.UNBOUND 0 = 0 → ev c (.free :: F) fun t =>
        t.rd Reg.RpaDep.PSTATE u = 1 ∧ t.rd Reg.RpaDep.MARGIN u = margin % 2 ^ Reg.RpaDep.MARGIN.width ∧ t.rd Reg.RpaDep.TRIES u = 0) ∧
      (may → ¬bad → trimsPlausible s u margin move = false → st = 2 → s.rd Reg.Cal.DMARGIN 0 ≤ s.rd Reg.RpaDep.MARGIN u →
        s.rd Reg.RpaDep.UNBOUND 0 = 0 → ev c (.free :: F) fun t => t.rd Reg.RpaDep.PSTATE u = 1)) ∧
    (st ≠ 4 → nothing (.selfTestRetry u)) ∧
    (st = 4 → ev (.selfTestRetry u) [.grp 21, .damper, .dep, .tokens] fun t =>
      t.dep = { s.dep with retryWait := s.dep.retryWait.filter (· != u) } ∧
      ((t.damper.waiting ++ t.damper.held).any fun g => g.cls == 5 && g.id == u) = true) ∧
    (∀ n, let thr := s.rd Reg.RpaDep.CETHR 0
      (thr = 0 ∨ n ≤ thr → ev (.cecntRateCheck u n) [.one .rpaUnit u, .grp 64] (more Reg.RpaDep.CECNT u n)) ∧
      (thr ≠ 0 → thr < n → names (.cecntRateCheck u n) 6 [.grp 64] (more Reg.RpaDep.CECNT u n))) ∧
    (∀ margin, (s.rd Reg.Cal.DMARGIN 0 ≤ 2 * margin → nothing (.canaryMarginLow u margin)) ∧
      (2 * margin < s.rd Reg.Cal.DMARGIN 0 → names (.canaryMarginLow u margin) 5 [] fun _ => True)) ∧
    (∀ k q shift fine figs, k < 5 → let c := Instr.calTargetRun k q shift fine figs u
      let may := up ∧ mayCalibrate s k = true
      let spare := st = 1 ∧ spareFree s = true
      let ps : List Part := [.all .dmc, .all .lane, .all .sensor, .all .target, .grp 21, .grp 22, .grp 64, .damper, .dep, .lanes, .seq, .tokens]
      let ls := (List.range 256).filter fun n => s.laneState n == 3
      let w := fun n => min 128 (figs.getD (3 * n + 1) 0).toNat
      let e := fun n => min 64 (figs.getD (3 * n + 2) 0).toNat
      let low := fun n => w n < s.rd Reg.SlaGlobal.EYE_WMIN 0 ∨ e n < s.rd Reg.SlaGlobal.EYE_HMIN 0
      let move := fun n => if s.rd Reg.Lane.ASSIGNED n ≠ 0 then 0 else figs.getD (3 * n) 0
      let good := ∀ n ∈ ls, ¬low n ∧ (move n).natAbs ≤ s.rd Reg.Cal.OFSMAX 0
      let runs := fun res => ev c ps fun t => (∀ b, res = some b → t.rd Reg.Cal.RESULT k = if b then 1 else 2) ∧ more Reg.Cal.CALRUNCNT 0 1 t ∧
        t.dep.requests = (s.dep.requests.map fun r => r.filter (· != k)).filter fun r => !r.isEmpty
      (¬may → nothing c) ∧
      (may → k = 0 → runs none ∧ ev c ps fun t => t.rd Reg.Cal.RESULT 0 = (if good then 1 else 2) ∧ ∀ n, n < 256 →
        (n ∈ ls → t.rd Reg.Lane.EWIDTH n = w n ∧ t.rd Reg.Lane.EHEIGHT n = e n ∧ t.rd Reg.Lane.LOWEYE n = (if low n then 1 else 0) ∧
          t.rd Reg.Cal.QUAL 0 / 256 ≤ w n ∧ t.rd Reg.Cal.QUAL 0 % 256 ≤ e n) ∧
        (t.lane n).trim = (s.lane n).trim + if good ∧ n ∈ ls then move n else 0) ∧
      (may → k = 3 → runs (some (fine && decide (shift ≤ s.rd Reg.Cal.THRMAX 0)))) ∧
      (may → k = 1 → runs (some ((readyChannels s).all fun c => eyesPlausible s c (((figs.drop (10 * c)).take 10).map Int.toNat) shift))) ∧
      (may → k = 4 → runs none) ∧
      (may → k = 3 → ev c ps fun t => t.rd Reg.Cal.QUAL k = q % 65536) ∧
      (may → k = 2 → st ≠ 1 → nothing c) ∧
      (may → k = 2 → st = 1 → spareFree s = false → ev c ps fun t => t.dep = { s.dep with reserve := true }) ∧
      (may → k = 2 → spare → ev c (.one .rpaUnit u :: ps) fun t => t.rd Reg.RpaDep.PSTATE u = 2 ∧ t.dep.runs = s.dep.runs ++ [u]))

/-- DRAM channels and banks (R448 to R460).
Readings and choices of the model in it: log entries 3, 12, 39, 95, 134. -/
def Obligations.DramAndBanks : Prop :=
  ∀ (c r n : Nat) (s : State), c < 8 → r < 102 → n < 256 →
    let ev := fun i ps (P : State → Prop) => ∃ t, exec i s = .next t ∧ Only ps s t ∧ P t
    let nothing := fun i => exec i s = .next s
    let more := fun (f : Field) i (t : State) => t.rd f i = min (s.rd f i + 1) (2 ^ f.width - 1)
    let d := s.dram c
    let st := s.rd Reg.Dmc.CHSTATE c
    let width := fun (eyes : List Nat) k => eyes.getD k 0 % 256
    let least := fun (eyes : List Nat) => ((List.range 10).map (width eyes)).foldl min 255
    let shows := fun eyes (t : State) => t.rd Reg.Dmc.EYEMIN c = least eyes ∧ ∀ k, k < 10 → t.rd2 Reg.Dmc.EYEW c k = width eyes k
    let may := st = 1 ∧ s.granted 1 c = true
    let serves := st = 2 ∨ st = 4 ∨ st = 5
    (¬may → nothing (.dramTrainingStart c)) ∧ (may → exec (.dramTrainingStart c) s = .next (s.setDram c { d with training := true })) ∧
    (∀ eyes, (d.training = false → nothing (.dramTrainingEnd c eyes)) ∧
      (d.training = true → ev (.dramTrainingEnd c eyes) [.one .dmc c, .grp 21, .damper, .dmc, .seq, .tokens] fun t => shows eyes t ∧
        t.rd Reg.Dmc.CHSTATE c = (if s.rd Reg.Dmc.DEYEMIN c ≤ least eyes then 2 else 3) ∧ t.dram c = { d with training := false } ∧
        t.seq = (s.complete 0xD 2 c 0).seq) ∧
      (∀ shift, let good := s.rd Reg.Dmc.DEYEMIN c ≤ least eyes ∧ shift ≤ s.rd Reg.Cal.DSHIFT 0
        (st ≠ 2 → nothing (.periodicRetrain c eyes shift)) ∧
        (st = 2 → ev (.periodicRetrain c eyes shift) [.one .dmc c, .grp 64] fun t => more Reg.Dmc.RTCNT c t ∧ (good → shows eyes t) ∧
          (¬good → t.rd Reg.Dmc.EYEMIN c = s.rd Reg.Dmc.EYEMIN c)))) ∧
    (∀ rank, let hit := serves ∧ rank < s.rd Reg.Dmc.RANKS c
      (¬hit → nothing (.dramParityError c rank)) ∧
      (hit → ev (.dramParityError c rank) [.all .dmc, .dmc, .seq] fun t => more Reg.Dmc.PARCNT c t ∧
        (d.cur.isSome = true → t.dram c = { d with queue := d.queue ++ [(rank, false)] }))) ∧
    (d.cur = none ∨ (∃ q, d.cur = some q ∧ q.comparing = true) → nothing (.rankMigrationDone c)) ∧
    (∀ q, d.cur = some q → q.comparing = false → ev (.rankMigrationDone c) [.one .dmc c, .all .dma, .dmc] fun t =>
      t.rd Reg.Dmc.MIGPCT c = 100 ∧ ∃ q', (t.dram c).cur = some q' ∧ q'.rank = q.rank ∧ q'.comparing = true ∧ q'.pass = q.pass) ∧
    (∀ clean, let i := Instr.rankVerifyDone c clean
      let ps : List Part := [.all .dma, .all .dmc, .dmc, .seq]
      (d.cur = none ∨ (∃ q, d.cur = some q ∧ q.comparing = false) → nothing i) ∧
      (∀ q, d.cur = some q → q.comparing = true → q.dma = none → ev i [.all .dma, .dmc] fun t =>
        ∃ q', (t.dram c).cur = some q' ∧ q'.rank = q.rank ∧ q'.comparing = true ∧ q'.pass = q.pass) ∧
      (∀ q k, d.cur = some q → q.comparing = true → q.dma = some k →
        (clean = false → q.pass < 3 → exec i s = .next (s.setDram c { d with cur := some { q with pass := q.pass + 1, comparing := false } })) ∧
        (clean = true → q.rank < Reg.Dmc.RETIRED.width → ev i ps fun t => (t.rd Reg.Dmc.RETIRED c).testBit q.rank = true ∧
          (d.queue = [] → t.rd Reg.Dmc.CHSTATE c = 2 ∧ t.dram c = { d with cur := none } ∧ (k < 16 → t.rd Reg.Dma.OWNER k = 0))) ∧
        (clean = false → 3 ≤ q.pass → ev i ps fun t =>
          d.queue = [] → t.rd Reg.Dmc.CHSTATE c = 5 ∧ t.dram c = { d with cur := none } ∧ (k < 16 → t.rd Reg.Dma.OWNER k = 0)))) ∧
    (let hit := s.rd Reg.Mem.MODE n ≠ 0 ∧ s.rd Reg.Mem.PSTATE n = 0
     (¬hit → nothing (.bankBusyRetry r n)) ∧ (hit → ev (.bankBusyRetry r n) [.one .requester r, .grp 64] (more Reg.Mem.BUSYCNT r)))

/-- History, DMA and performance events. The compressor's coding is log entry 40.
Readings and choices of the model in it: log entries 3, 12, 40, 41, 60, 68, 73, 122. -/
def Obligations.HistoryDmaAndSamples : Prop :=
  ∀ (h c k : Nat) (s : State), h < 32 → c < 16 → k < 76 →
    let ev := fun i ps (P : State → Prop) => ∃ t, exec i s = .next t ∧ Only ps s t ∧ P t
    let nothing := fun i => exec i s = .next s
    let more := fun (f : Field) i n (t : State) => t.rd f i = min (s.rd f i + n) (2 ^ f.width - 1)
    let steps := fun (f : Field) i n (t : State) => t.rd f i = (s.rd f i + n) % 2 ^ f.width
    let e := s.hist h
    (e.group = none → nothing (.hflushExpiry h)) ∧
    (∀ g, e.group = some g → ev (.hflushExpiry h) [.his] fun t => (t.hist h).group = none ∧
      (t.hist h).frames.length = e.frames.length + cdiv g.hw g.stripW ∧ (t.hist h).frames.take e.frames.length = e.frames) ∧
    (∀ j, j < 32 → let i := Instr.frameCompress h j
      let f := e.frames.find? fun f => f.bytes.isNone
      (f = none → nothing i) ∧
      (f.isSome = true → s.granted 4 j = false → ev i [.grp 21, .damper, .tokens] fun t =>
        ((t.damper.waiting ++ t.damper.held).any fun g => g.cls == 4 && g.id == j) = true) ∧
      (f.isSome = true → s.granted 4 j = true → ev i [.grp 64, .his] fun t => t.hist h = { e with frames := codeFirst s e.frames }) ∧
      ev (.compressorIdleRelease j) [.grp 21, .damper, .tokens] fun t => t.granted 4 j = false) ∧
    (let room := s.inDram (s.rd Reg.HisHead.HBASE h) (s.rd Reg.HisHead.HSIZE h) = true
     (e.frames = [] ∨ (∃ f, e.frames.head? = some f ∧ f.bytes = none) ∨ ¬room → nothing (.frameWrite h)) ∧
     (∀ f fs bs, e.frames = f :: fs → f.bytes = some bs → room → ev (.frameWrite h) [.one .hisHead h, .grp 64, .his, .mem, .poison] fun t =>
       let n := 64 * cdiv bs.length 64
       let wp := s.rd Reg.HisHead.HWP h
       (t.hist h).frames = fs ∧ steps Reg.HisHead.DWP h 1 t ∧ steps Reg.HisHead.FRAMECNT h 1 t ∧ steps Reg.HisHead.SBYTES h n t ∧
       t.rd Reg.HisHead.HWP h = ((if wp + n ≤ s.rd Reg.HisHead.HSIZE h then wp else 0) + n) % 2 ^ Reg.HisHead.HWP.width)) ∧
    (∀ i, (s.his.crops[i]? = none → nothing (.cropComplete i)) ∧
      (∀ q, s.his.crops[i]? = some q → q.head < 32 →
        let todo := (s.hist q.head).frames.any fun f => q.meets f.group && inRange f.strip q.sfirst q.slast
        ev (.cropComplete i) [.all .dma, .all .hisHead, .grp 11, .grp 64, .his, .mem, .poison, .seq, .tokens] fun t =>
          (q.waits = true ∨ todo = true → t.his.crops.length = s.his.crops.length ∧ t.mem = s.mem ∧ t.seq = s.seq) ∧
          (q.waits = false → todo = false → (q.mode ≠ 0 ∨ q.dma.isSome = true) → t.his.crops.length + 1 = s.his.crops.length ∧
            more Reg.HisHead.CROPCNT q.head 1 t)) ∧
      (s.his.checks[i]? = none → nothing (.cmpFrameComplete i)) ∧
      (∀ a ws, s.his.checks[i]? = some (a, ws) → ev (.cmpFrameComplete i) [.grp 11, .grp 64, .his, .mem, .poison, .seq] fun t =>
        let from_ := bits (ws.getD 0 0) 47 0
        let hdr := s.readWords from_ 4
        let r := checkFrame s hdr (cleanBytes s (from_ + 32) (bits (hdr.getD 2 0) 31 0))
        t.his.checks = s.his.checks.eraseIdx i ∧ (t.byte (a + 24)).toNat = r.1 % 256)) ∧
    (let d := s.dmaOf c
     let now := fun (t : State) q o => t.dmaOf c = { queue := q, cur := o }
     (d.cur.isSome = true ∨ d.queue = [] → nothing (.dmaDescriptorStart c)) ∧
     (∀ o os, d.cur = none → d.queue = o :: os →
       (o.op = 6 → ev (.dmaDescriptorStart c) [.one .dma c, .dma] fun t => now t os (some o)) ∧
       (o.op ≠ 6 → DmaOp.valid s o = false → ev (.dmaDescriptorStart c) [.one .dma c, .dma, .seq] fun t => now t os none ∧
         t.seq = (dmaEnd c o 2 s).seq) ∧
       (o.op ≠ 6 → DmaOp.valid s o = true → ev (.dmaDescriptorStart c) [.one .dma c, .dma] fun t => now t os (some o) ∧
         t.rd Reg.Dma.HALF c = 0 ∧ t.rd Reg.Dma.FULL c = 0 ∧ t.rd Reg.Dma.DONE c = 0)) ∧
     (∀ stop n, (d.cur = none ∨ (∃ o, d.cur = some o ∧ o.op = 6) → nothing (.dmaDescriptorComplete c stop) ∧ nothing (.dmaTimeout c n)) ∧
       (∀ o, d.cur = some o → o.op ≠ 6 →
         let ps : List Part := [.one .dma c, .all .dmc, .grp 64, .dma, .dmc, .mem, .poison, .seq, .tokens]
         let ended := fun (m : Moved) res (t : State) => now t d.queue none ∧ t.rd Reg.Dma.DONE c = m.done % 2 ^ 40 ∧
           t.rd Reg.Dma.DRESULT c = res % 256 ∧ t.rd Reg.Dma.FULL c = 1 ∧ steps Reg.Dma.DESCCNT c 1 t ∧
           (∃ l, t.tokens = l ++ tokensOf s (432 + c)) ∧ ∀ a, a < o.addr + 48 ∨ o.addr + 64 ≤ a → t.byte a = m.s.byte a
         let all := dmaMove o o.total s
         (stop = none → ev (.dmaDescriptorComplete c stop) ps (ended all (all.stop.getD (if o.op = 5 ∧ all.mis ≠ 0 then 4 else 0)))) ∧
         (∀ b code, stop = some (b, code) → dmaStop o (b / 8 * 8) code s = true → let m := dmaMove o (b / 8 * 8) s
           ev (.dmaDescriptorComplete c stop) ps (ended m (m.stop.getD code))) ∧
         (let m := dmaMove o (min (n / 8 * 8) (o.total - 8)) s
          ev (.dmaTimeout c n) ([.grp 9, .free, .sump] ++ ps) fun t => ended m (m.stop.getD 3) t ∧ (m.stop = none → more Reg.Dma.TOCNT c 1 t)))) ∧
     (d.cur = none ∨ (∃ o, d.cur = some o ∧ o.op ≠ 6) → nothing (.dmaFenceComplete c)) ∧
     (∀ o, d.cur = some o → o.op = 6 → ev (.dmaFenceComplete c) [.one .dma c, .dma, .seq] fun t => now t d.queue none ∧
       t.seq = (dmaEnd c o 0 s).seq)) ∧
    (s.snap = none ∨ (∃ x, s.snap = some x ∧ x.got = none) → nothing .snapshotTake) ∧
    (∀ x got, s.snap = some x → x.got = some got → s.canonical → Tbl.wf (fun _ => 0) got.counts = true →
      (∀ y ∈ got.counts, ∃ j, j < 1024 ∧ y.1 = Reg.Pmu.COUNT.word j 0) → ev .snapshotTake [.grp 23, .snap] fun t => t.snap = none ∧
      t.rd Reg.Pmu.SVALID 0 = 1 ∧ t.rd Reg.Pmu.SEPOCH 0 = got.epoch % 128 ∧ t.rd Reg.Pmu.SRAW 0 = got.raw % 2 ^ 64 ∧
      t.rd Reg.Pmu.STIME 0 = got.pt % 2 ^ 64 ∧ steps Reg.Pmu.SSEQ 0 1 t ∧
      ∀ j, j < 1024 → t.rd Reg.Pmu.SNAPVAL j = Reg.Pmu.COUNT.get 0 (Tbl.get (fun _ => 0) got.counts (Reg.Pmu.COUNT.word j 0))) ∧
    (∀ stall iaddr iword lat, let i := Instr.sampleRecord k stall iaddr iword lat
      let q := Tbl.get (fun _ => ({} : Sampler)) s.sampled k
      let p := s.rd Reg.Pmu.SWPTR k
      let a := s.rd Reg.Pmu.SBASE k + 32 * p
      let room := s.rd Reg.Pmu.SFULL k = 0 ∧ (s.inBanksOn a 32 = true ∨ s.inDram a 32 = true)
      let left := fun (t : State) => Tbl.get (fun _ => {}) t.sampled k = { q with pend := none, drops := 0 }
      let mine := fun (m : Sample) => q.pend = some m ∧ m.iaddr = iaddr ∧ m.iword = iword
      ((∀ m, ¬mine m) → nothing i) ∧
      (∀ m, mine m → ¬room → ev i [.one .sampler k, .sampled] fun t => left t ∧ more Reg.Pmu.SDROP k (q.drops + 1) t) ∧
      (∀ m, mine m → room → ev i [.one .sampler k, .grp 64, .mem, .poison, .sampled] fun t => left t ∧ steps Reg.Pmu.SCNT k 1 t ∧
        more Reg.Pmu.SDROP k q.drops t ∧ steps Reg.Pmu.SWPTR k 1 t ∧ t.read64 (a + 8) = iword ∧ t.read64 (a + 16) = m.run ∧
        bits (t.read64 a) 47 0 = iaddr % 2 ^ 48 ∧ bits (t.read64 a) 55 48 = stall % 256 ∧
        bits (t.read64 (a + 24)) 31 0 = m.raw % 2 ^ 32 ∧ bits (t.read64 (a + 24)) 63 32 = min lat (2 ^ 32 - 1) ∧
        t.rd Reg.Pmu.SFULL k = if p = 4095 ∧ s.rd Reg.Pmu.SWRAP k = 0 then 1 else 0))

/-- Kindling, images, wipes and tamper (R569 to R575). The places of digest, header and LENGTH in the secure bank are those of
log entry 44.
Readings and choices of the model in it: log entries 12, 44, 53, 57, 58, 59, 62. -/
def Obligations.StartUp : Prop :=
  ∀ (s : State),
    let ev := fun c ps (P : State → Prop) => ∃ t, exec c s = .next t ∧ Only ps s t ∧ P t
    let nothing := fun c => exec c s = .next s
    let phase := s.rd Reg.Slc.KPHASE 0
    let scrap := s.rd Reg.Slc.LCSTATE 0 = 0x10
    let ph := fun k (t : State) => t.rd Reg.Slc.KPHASE 0 = k
    let err := fun k (t : State) => t.rd Reg.Slc.KERR 0 = k
    let src := fun k (t : State) => t.rd Reg.Bar0.KSRC 0 = k
    let one := fun (t : State) => t.tokens = s.tokens ++ tokensOf s 507
    let two := fun (t : State) => t.tokens = s.tokens ++ tokensOf s 507 ++ tokensOf s 507
    let may := phase = 0 ∧ s.power.hot = false ∧ s.power.ember = false ∧ s.power.tamper = false ∧ s.rd Reg.Pba.SUPWARNR 0 = 0
    let runs := fun (h : List Word) (body : List Byte) (t : State) =>
      let load := hdr h 2 47 0
      ph 5 t ∧ t.power = { s.power with version := hdr h 1 63 32, load := load, length := hdr h 1 31 0, entry := hdr h 4 15 0, leaving := false } ∧
      (t.proc (activeCore s)).pc = hdr h 4 15 0 ∧ t.seq.cur = some .program ∧ (t.twOf 0).stretch = false ∧
      (∀ u, u < 72 → s.rd Reg.RpaDep.PSTATE u = 0 → ∃ g ∈ t.damper.waiting ++ t.damper.held, g.cls = 3 ∧ g.id = u) ∧
      (∀ k, k < body.length → t.byte (load + k) = body.getD k 0) ∧
      (∀ a, (a < load ∨ load + body.length ≤ a) → secureAddr a = false → t.byte a = s.byte a) ∧
      ∃ l, t.tokens = s.tokens ++ tokensOf s 507 ++ l
    let accepts := fun h body (t : State) => runs h body t ∧ err 0 t ∧ t.rd Reg.Slc.KCOPYOK 0 = 0 ∧
      t.rd Reg.Slc.KCOPYADR 0 = hdr h 3 47 0 ∧ t.rd Reg.Bar0.KIDENT 0 = hdr h 0 63 32 ∧
      (∀ k, k < 48 → t.byte (digestAt + k) = (imageDigest h body).getD k 0) ∧
      (128 ≤ h.length → t.readWords headerAt 128 = h.take 128) ∧ t.readWords lengthAt 1 = [BitVec.ofNat 64 (hdr h 1 31 0)]
    let boot : List Part := [.grp 24, .tokens]
    let start : List Part := [.grp 21, .grp 24, .grp 65, .damper, .mem, .poison, .power, .procs, .seq, .tokens, .tw]
    (∀ sel port, let c := Instr.kindlingStart sel port
      let goes := fun k x => ev c [.grp 24, .grp 65, .tokens, .tw] fun t => ph k t ∧ src x t ∧ err 0 t ∧ two t
      (¬may → nothing c) ∧
      (may → scrap → ev c [.grp 24, .tokens, .tw] fun t => ph 6 t ∧ err 0xA t ∧ two t) ∧
      (may → ¬scrap → (sel % 4 = 1 → goes 2 1) ∧ (sel % 4 = 0 ∨ sel % 4 = 3 → goes 3 0) ∧
        (sel % 4 = 2 → ev c [.one .wlkPort (port % 4), .grp 24, .grp 65, .tokens, .tw] fun t => ph 3 t ∧ src 2 t ∧ err 0 t ∧ two t ∧
          t.rd Reg.WlkPort.PSTATE (port % 4) = 1))) ∧
    (∀ len, let c := Instr.bootdbWrite len
      (phase ≠ 2 ∨ s.power.tamper = true → nothing c) ∧
      (phase = 2 → s.power.tamper = false → (scrap → ev c boot fun t => ph 6 t ∧ err 0xA t ∧ one t) ∧
        (¬scrap → ev c [.grp 24, .grp 65, .tokens] fun t => ph 4 t ∧ src 1 t ∧ one t))) ∧
    (let hit := phase = 3 ∧ s.rd Reg.Bar0.KSRC 0 = 2 ∧ s.power.leaving = false ∧ s.power.tamper = false ∧ ∀ p, p < 4 → s.rd Reg.WlkPort.PSTATE p ≠ 2
     (¬hit → nothing .fabricBootTimeout) ∧ (hit → ev .fabricBootTimeout boot fun t => ph 2 t ∧ err 9 t ∧ one t)) ∧
    (∀ e image, let c := Instr.imageLoadDone e image
      let n := hdr image 1 31 0
      let b := wordsBytes (image.drop 128)
      let body := (b ++ List.replicate (n - b.length) 0).take n
      let h4 := s.readWords 0 128
      let body4 := s.readBytes 1024 (hdr h4 1 31 0)
      let awake := s.power.ember = false ∧ s.power.tamper = false
      let out := s.power.leaving = true
      let busy := ∃ k, k < 8 ∧ (s.dram k).training = true
      let a := s.rd Reg.Slc.KCOPYADR 0
      let kh := s.readWords a 128
      let kn := hdr kh 1 31 0
      let good := s.power.hadCopy = true ∧ dramReady s = true ∧ s.inDram a (1024 + kn) = true ∧ s.poisoned a (1024 + kn) = false ∧
        imageDigest kh (s.readBytes (a + 1024) kn) = s.readBytes digestAt 48
      (¬awake ∨ (phase ≠ 3 ∧ phase ≠ 4) → nothing c) ∧ (awake → phase = 3 → out → busy → nothing c) ∧
      (awake → phase = 3 → out → ¬busy → good → ev c start (runs kh (s.readBytes (a + 1024) kn))) ∧
      (awake → phase = 3 → out → ¬busy → ¬good → ev c [.grp 24, .power, .tokens] fun t => ph 0 t ∧ one t ∧ t.rd Reg.Slc.KCOPYOK 0 = 0 ∧
        t.power = { s.power with leaving := false }) ∧
      (awake → phase = 3 → ¬out → e ≠ 0 → e < 256 → ev c boot fun t => ph 2 t ∧ err e t ∧ one t) ∧
      (awake → phase = 3 → ¬out → e = 0 → imageError s image body ≠ 0 → ev c boot fun t => ph 2 t ∧ err (imageError s image body) t ∧ two t) ∧
      (awake → phase = 3 → ¬out → e = 0 → imageError s image body = 0 → ev c start (accepts image body)) ∧
      (awake → phase = 4 → imageError s h4 body4 ≠ 0 → ev c boot fun t => ph 2 t ∧ err (imageError s h4 body4) t ∧ one t) ∧
      (awake → phase = 4 → imageError s h4 body4 = 0 → ev c start (accepts h4 body4))) ∧
    (let l := s.seq.longs.find? fun l => l.unit == 0x18 && l.op == 3 && l.done.isNone
     let a := s.rd Reg.Slc.KCOPYADR 0
     let n := s.power.length
     (l = none → nothing .kcopyComplete) ∧
     (∀ x, l = some x → ev .kcopyComplete [.grp 24, .grp 64, .mem, .poison, .seq] fun t =>
       let good := s.inDram a (1024 + n) = true ∧ imageDigest (t.readWords a 128) (t.readBytes (a + 1024) n) = s.readBytes digestAt 48
       (good → t.rd Reg.Slc.KCOPYOK 0 = 1 ∧ t.seq = (s.complete 0x18 3 x.inst 0).seq) ∧
       (¬good → t.rd Reg.Slc.KCOPYOK 0 = 0 ∧ t.seq = (s.complete 0x18 3 x.inst 0xC).seq) ∧
       (s.inDram a (1024 + n) = true → t.readBytes a (1024 + n) = s.readBytes headerAt 1024 ++ s.readBytes s.power.load n))) ∧
    (∀ good, let c := Instr.secureWipeEnd good
      (s.rd Reg.Slc.WIPING 0 = 0 → nothing c) ∧
      (s.rd Reg.Slc.WIPING 0 ≠ 0 → good = false → ev c [.grp 24] fun t => t.rd Reg.Slc.WIPING 0 = s.rd Reg.Slc.WIPING 0 ∧
        t.rd Reg.Slc.WIPEFAIL 0 = min (s.rd Reg.Slc.WIPEFAIL 0 + 1) (2 ^ Reg.Slc.WIPEFAIL.width - 1)) ∧
      (s.rd Reg.Slc.WIPING 0 ≠ 0 → good = true → ev c [.grp 24, .seq, .tokens] fun t => t.rd Reg.Slc.WIPING 0 = 0 ∧
        t.rd Reg.Slc.WIPECNT 0 = min (s.rd Reg.Slc.WIPECNT 0 + 1) (2 ^ Reg.Slc.WIPECNT.width - 1) ∧ t.tokens = s.tokens ++ tokensOf s 504 ∧
        t.seq.longs.length = s.seq.longs.length ∧ ∀ l ∈ t.seq.longs, l.unit = 0x18 → l.op = 2 → l.done ≠ none)) ∧
    (s.power.tamper = true → nothing .tamperDetect) ∧
    (s.power.tamper = false → ev .tamperDetect [.grp 24, .mem, .power, .tokens] fun t => t.rd Reg.Slc.TAMPER 0 = 1 ∧ err 0xB t ∧
      t.rd Reg.Slc.WIPING 0 = 1 ∧ t.rd Reg.Slc.TAMPERCNT 0 = min (s.rd Reg.Slc.TAMPERCNT 0 + 1) (2 ^ Reg.Slc.TAMPERCNT.width - 1) ∧
      t.tokens = s.tokens ++ tokensOf s 505 ∧ t.power = { s.power with tamper := true, kerr := s.rd Reg.Slc.KERR 0 } ∧
      ∀ a, t.byte a = if secureAddr a = true then 0 else s.byte a) ∧
    (s.power.tamper = false → nothing .tamperEnd) ∧
    (s.power.tamper = true → ev .tamperEnd [.grp 24, .power] fun t => t.rd Reg.Slc.TAMPER 0 = s.rd Reg.Slc.TAMPER 0 ∧
      err (s.power.kerr % 256) t ∧
      t.power = { s.power with tamper := false })

/-- The Damper, the voltage loop, supply and thermal monitors and the resets (R555 to R568). That memory without a stated content
reads 0 after a core reset or a power-on is the model's choice (log entry 2).
Readings and choices of the model in it: log entries 2, 12, 43, 56, 110, 127, 128, 129. -/
def Obligations.PowerAndResets : Prop :=
  ∀ (s : State),
    let ev := fun c ps (P : State → Prop) => ∃ t, exec c s = .next t ∧ Only ps s t ∧ P t
    let nothing := fun c => exec c s = .next s
    let p := s.power
    let dm := s.damper
    let acc := baseMw + heldMw s
    let v := s.rd Reg.Pba.VCMD 0
    let commanded := (s.twOf 1).queue.foldl (fun m k => match k with | .voutCommand w => max m w | _ => m) v
    let fit := fun mw x => mw * (x * x) ≤ s.rd Reg.Pba.BUDGET 0 * 640000
    let warn := s.rd Reg.Pba.SUPWARNR 0
    let awake := p.ember = false
    let idle := ∀ k ∈ (s.twOf 1).queue, TwKind.isReg k = false
    let asks := fun k (t : State) => t.twOf 1 = { s.twOf 1 with queue := (s.twOf 1).queue.take 1 ++ k :: (s.twOf 1).queue.drop 1 }
    let enabled := fun k src (t : State) =>
      t.tokens = s.tokens ++ if (s.rd Reg.Pba.PEVEN 0).testBit k = true then tokensOf s src else []
    let held := fun (t : State) => t.rd Reg.Slc.KPHASE 0 = 0 ∧ t.power.ember = false ∧ t.output .inspOk = .low ∧ t.output .ppsOut = .low ∧
      t.output .transmitters = .idle ∧ t.output .qspi = .released ∧ ∀ k, t.output (.trg k) = .low ∧ t.output (.mark k) = .low ∧
        t.output (.div k) = .released ∧ t.output (.ssiClk k) = .high ∧ t.output (.twoWire k) = .released
    let resets := fun c (q : State) cause (P : State → Prop) => ∃ t, exec c s = .next t ∧ t.pending = s.pending ∧
      t.rd Reg.Pba.RSTCAUSE 0 = cause ∧ t.raw = s.raw ∧ (∀ a, groupOf a ≠ 18 → groupOf a ≠ 21 → groupOf a ≠ 24 → t.word a = resetWord a) ∧
      (∀ a, t.byte a = if secureAddr a = true ∨ hostAddr a = true then s.byte a else 0) ∧ t.rd Reg.Pba.SUPWARNR 0 = q.rd Reg.Pba.SUPWARNR 0 ∧
      t.heads = [] ∧ t.tokens = [] ∧ t.hif = {} ∧ t.seq = { renewed := s.raw } ∧ t.power.dips = p.dips ∧ held t ∧ P t
    let powersOn := fun c => ∃ t, exec c s = .next t ∧ t.pending = s.pending ∧ t.rd Reg.Pba.RSTCAUSE 0 = 1 ∧ t.raw = State.reset.raw ∧
      (∀ a, groupOf a ≠ 21 → groupOf a ≠ 24 → t.word a = resetWord a) ∧ (∀ a, t.byte a = if hostAddr a = true then s.byte a else 0) ∧
      t.rd Reg.Slc.LCSTATE 0 = s.rd Reg.Slc.LCSTATE 0 ∧ t.rd Reg.Slc.REVOKED 0 = s.rd Reg.Slc.REVOKED 0 ∧
      t.rd Reg.Slc.VERMIN 0 = s.rd Reg.Slc.VERMIN 0 ∧ t.heads = [] ∧ t.tokens = [] ∧ t.seq = {} ∧ t.power.dips = [] ∧ held t
    (dm.waiting = [] → nothing .grantIssue) ∧
    (∀ pre g post, dm.waiting = pre ++ g :: post → (∀ h ∈ pre, g.cls < h.cls) → (∀ h ∈ post, g.cls ≤ h.cls) →
      let may := warn = 0 ∧ awake ∧ fit (acc + g.mw) commanded
      (¬may → nothing .grantIssue) ∧
      (may → ev .grantIssue [.grp 21, .grp 22, .grp 64, .damper, .tokens] fun t =>
        t.damper = { dm with waiting := pre ++ post, held := dm.held ++ [g] } ∧
        t.rd Reg.Pba.GRANTED 0 = (acc + g.mw) % 2 ^ Reg.Pba.GRANTED.width ∧
        (t.rd Reg.Pba.POWER_HELD 0 = 1 ↔ pre ++ post ≠ [] ∨ dm.riseHeld = true))) ∧
    (∀ rate, let c := Instr.voltageLoopStep rate
      let may := awake ∧ s.rd Reg.Slc.KPHASE 0 = 5 ∧ warn = 0 ∧ p.vregBad = false ∧ p.voutN ≠ none ∧ idle
      let rise := rate < s.rd Reg.Pba.VTARGET 0 ∨ (∃ h ∈ runningHeads s, ebHalf s h = true) ∨ v < s.rd Reg.Pba.VMIN 0
      let fall := 11 * s.rd Reg.Pba.VTARGET 0 < 10 * rate ∧ ∀ h ∈ runningHeads s, 8 * s.rd Reg.Head.EBFILL h ≤ s.rd Reg.Head.EBSLOTS h
      let room := s.rd Reg.Pba.VMIN 0 ≤ v - 5
      let high := ¬fit acc v ∨ s.rd Reg.Pba.VMAX 0 < v
      let lowers := room ∧ (high ∨ (¬rise ∧ fall))
      let raises := rise ∧ ¬(high ∧ room) ∧ v + 5 ≤ s.rd Reg.Pba.VMAX 0 ∧ fit acc (v + 5)
      let holds := fun (t : State) => t.damper.waiting = dm.waiting ∧ t.damper.held = dm.held ∧ (t.damper.riseHeld = true ↔ rise ∧ ¬raises) ∧
        (t.rd Reg.Pba.POWER_HELD 0 = 1 ↔ dm.waiting ≠ [] ∨ (rise ∧ ¬raises))
      (¬may → nothing c) ∧
      (may → lowers → ev c [.grp 21, .damper, .tokens, .tw] fun t => holds t ∧ asks (.voutCommand (v - 5)) t) ∧
      (may → raises → ev c [.grp 21, .damper, .tokens, .tw] fun t => holds t ∧ asks (.voutCommand (v + 5)) t) ∧
      (may → ¬lowers → ¬raises → ev c [.grp 21, .damper, .tokens] holds)) ∧
    (let may := p.vregBad = true ∧ idle ∧ awake
     (¬may → nothing .vregRetry) ∧ (may → ev .vregRetry [.power, .tw] fun t => t.power = { p with vregBad := false } ∧
       (p.voutN = none → asks .voutMode t) ∧ (p.voutN ≠ none → asks (.voutCommand v) t))) ∧
    (∀ r, r < 7 → let c := Instr.supplyWarningEnter r
      (warn.testBit r = true → nothing c) ∧
      (warn.testBit r = false → ev c [.grp 21, .one .rail r, .heads, .power, .tokens] fun t =>
        (∀ k, k < 7 → (t.rd Reg.Pba.SUPWARNR 0).testBit k = (k == r || warn.testBit k)) ∧ enabled r (464 + r) t ∧
        t.rd Reg.Rail.DIPCNT r = min (s.rd Reg.Rail.DIPCNT r + 1) (2 ^ Reg.Rail.DIPCNT.width - 1) ∧
        t.power = { p with dips := Tbl.set (fun _ => none) p.dips r (some (s.pt, s.raw)) } ∧
        (∀ h l, h < 32 → s.running h = true → (s.head h).line = some l → t.head h = { s.head h with line := some { l with low := true } }) ∧
        ∀ h, s.running h = false → t.head h = s.head h)) ∧
    (∀ r vlow, r < 7 → let c := Instr.supplyWarningExit r vlow
      let k := s.rd Reg.Pba.DIPWP 0 % 16
      let d := (Tbl.get (fun _ => none) p.dips r).getD (s.pt, s.raw)
      (warn.testBit r = false → nothing c) ∧
      (warn.testBit r = true → ev c [.grp 21, .all .dip, .power, .tokens] fun t => t.rd Reg.Dip.RAIL k = r ∧
        t.rd Reg.Dip.TSTART k = d.1 % 2 ^ 64 ∧ t.rd Reg.Dip.DUR k = (s.raw - d.2) % 2 ^ 64 ∧ t.rd Reg.Dip.VLOW k = vlow % 2 ^ 16 ∧
        t.rd Reg.Pba.DIPWP 0 = (s.rd Reg.Pba.DIPWP 0 + 1) % 2 ^ 32 ∧
        (∀ j, j < 7 → (t.rd Reg.Pba.SUPWARNR 0).testBit j = (j != r && warn.testBit j)) ∧ enabled r (464 + r) t ∧
        t.power = { p with dips := Tbl.erase p.dips r,
                           recovering := if t.rd Reg.Pba.SUPWARNR 0 = 0 ∧ s.up = true then (runningHeads s).any (ebHalf s) else p.recovering })) ∧
    powersOn .vauxPowerOn ∧ powersOn (.railBelowReset 1) ∧ resets .rstNAssert s 2 (fun _ => True) ∧
    (∀ r, r < 7 → r ≠ 1 → resets (.railBelowReset r) s 5 fun t => t.rd Reg.Pba.RSTRAIL 0 = r) ∧
    (∀ temps, let q := readTemps temps s
      let tj := tjMax q
      let w : Int := s.rd Reg.Pba.TWARN 0
      let read : List Part := [.all .sensor, .grp 22, .tokens]
      (∀ k, k < 16 → ∀ h : k < temps.length, -2 ^ 15 ≤ temps[k] → temps[k] < 2 ^ 15 → q.rdI Reg.Cal.TEMP k = temps[k]) ∧
      (let hot := 16 * w ≤ tj
       let was := s.rd Reg.Pba.THOT 0
       (hot → was = 0 → ev (.thermalWarning temps) (.grp 21 :: read) fun t => t.rd Reg.Pba.THOT 0 = 1 ∧
         t.tokens = q.tokens ++ if (s.rd Reg.Pba.PEVEN 0).testBit 7 = true then tokensOf s 471 else []) ∧
       (tj ≤ 16 * (w - 5) → ev (.thermalWarning temps) (.grp 21 :: read) fun t => t.rd Reg.Pba.THOT 0 = 0 ∧ t.tokens = q.tokens) ∧
       (16 * (w - 5) < tj → ¬(hot ∧ was = 0) → exec (.thermalWarning temps) s = .next q)) ∧
      (tj < 16 * 135 → exec (.thermalShutdown temps) s = .next q) ∧
      (p.hot = false ∨ 16 * 115 < tj → exec (.thermalRelease temps) s = .next q) ∧ Only read s q ∧
      (16 * 135 ≤ tj → resets (.thermalShutdown temps) s 6 fun t => t.power.hot = true ∧ t.power.vcoreEn = false) ∧
      (p.hot = true → tj ≤ 16 * 115 → ev (.thermalRelease temps) (.power :: read) fun t => t.power = { p with hot := false, vcoreEn := true })) ∧
    (let hit := s.rd Reg.EvrTask.TSTATE 129 = 1 ∧ p.ember = true
     (¬hit → nothing .emberWake) ∧
     (hit → ev .emberWake [.all .task, .evr, .power, .tw] fun t => t.rd Reg.EvrTask.TSTATE 129 = 0 ∧
       t.rd Reg.EvrTask.ACTCNT 129 = (s.rd Reg.EvrTask.ACTCNT 129 + 1) % 2 ^ 32 ∧ t.power = { p with leaving := true, vcoreEn := p.leaving == false || p.vcoreEn } ∧
       (p.leaving = false → (t.twOf 3).mute = true) ∧ (p.leaving = true → t.tw = s.tw))) ∧
    (let hit := p.ember = true ∧ p.leaving = true
     (¬hit → nothing .vcorePowerGood) ∧
     (hit → ev .vcorePowerGood [.all .dmc, .grp 24, .dmc, .power, .tokens, .tw] fun t => t.power = { p with ember := false } ∧
       t.rd Reg.Slc.KPHASE 0 = 3 ∧ ((s.twOf 1).queue = [] → (t.twOf 1).queue = [.voutMode, .voutCommand v]) ∧
       (∀ c, c < 8 → s.rd Reg.Dmc.CHSTATE c = 2 → t.rd Reg.Dmc.CHSTATE c = 1 ∧ t.dram c = { s.dram c with training := true }) ∧
       ∀ c, c < 8 → s.rd Reg.Dmc.CHSTATE c ≠ 2 → t.rd Reg.Dmc.CHSTATE c = s.rd Reg.Dmc.CHSTATE c ∧ t.dram c = s.dram c)) ∧
    (∀ src, exec (.liveholdExpiry src) s = .next { s with dlg := { s.dlg with gapSrcs := s.dlg.gapSrcs.filter (· != src) } })

/-- TNT's events (R519 to R525). The Ethernet ring layout is log entry 47, the recognition of PTP frames log entry 48.
Readings and choices of the model in it: log entries 12, 46, 47, 48, 91. -/
def Obligations.TimeEvents : Prop :=
  ∀ (s : State),
    let ev := fun c ps (P : State → Prop) => ∃ t, exec c s = .next t ∧ Only ps s t ∧ P t
    let nothing := fun c => exec c s = .next s
    let caused := fun k => if (s.rd Reg.Tnt.TEVEN 0).testBit k = true then tokensOf s (456 + k) else []
    let cause := fun k (t : State) => t.tokens = s.tokens ++ caused k
    (s.rd Reg.Tnt.TBFAULT 0 ≠ 0 → nothing .tbrefFault) ∧
    (s.rd Reg.Tnt.TBFAULT 0 = 0 → ev .tbrefFault [.grp 18, .tokens] fun t => t.rd Reg.Tnt.TBFAULT 0 = 1 ∧ cause 7 t) ∧
    (∀ falling, ((s.rd Reg.Tnt.PPSPOL 0 ≠ 0 ↔ falling = true) → ev (.ppsInEdge falling) [.grp 18, .tokens] fun t =>
        t.rd Reg.Tnt.PPSRAW 0 = s.raw ∧ cause 0 t) ∧
      (¬(s.rd Reg.Tnt.PPSPOL 0 ≠ 0 ↔ falling = true) → nothing (.ppsInEdge falling))) ∧
    (let k := ((s.pt : Int) - s.rdI Reg.Tnt.PPSOFS 0) / 16000000000
     let due := s.rd Reg.Tnt.PPSEN 0 ≠ 0 ∧ ∀ f, s.tnt.fired = some f → f < k
     (¬due → nothing .ppsOutFire) ∧
     (due → ev .ppsOutFire [.tnt, .tokens] fun t => t.tnt = { s.tnt with fired := some k, ppsOut := true } ∧ cause 1 t)) ∧
    exec .ppsOutEnd s = .next { s with tnt := { s.tnt with ppsOut := false } } ∧
    (∀ e, e < 2 →
      let x := s.ethOf e
      let n := 2 ^ s.rd Reg.TntPort.QLOG e
      let up := s.rd Reg.TntPort.EN e ≠ 0
      (∀ frame ok, let c := Instr.ethFrameReceive e frame ok
        let d := descAt s e 0 x.rx
        let b := bits (s.read64 (d + 24)) 47 0
        let ev1 := ptpEvent frame
        let stamp : Int := (s.pt : Int) - s.rd Reg.TntPort.RXLAT e - s.rdI Reg.TntPort.ETHASYM e
        let takes := up ∧ 60 ≤ frame.length ∧ frame.length ≤ 9216 ∧ ethTakes s e frame = true
        let full := (s.read64 d).getLsbD 63 = true
        (¬takes → nothing c) ∧
        (takes → full → ev c [.one .ethPort e] fun t => t.rd Reg.TntPort.RXDROP e = min (s.rd Reg.TntPort.RXDROP e + 1) (2 ^ 32 - 1)) ∧
        (takes → ¬full → ev c [.one .ethPort e, .grp 64, .mem, .poison, .tnt, .tokens] fun t =>
          t.rd Reg.TntPort.RXFRM e = (s.rd Reg.TntPort.RXFRM e + 1) % 2 ^ 32 ∧
          t.ethOf e = { x with rx := (x.rx + 1) % n, unpolled := if ev1 = true then x.unpolled else x.unpolled ++ [x.rx] } ∧
          (ev1 = true → cause (4 + e) t) ∧ (ev1 = false → t.tokens = s.tokens) ∧
          (s.canPut d 24 = true → t.readWords d 3 = [descWord true ev1 (!ok) frame.length, if ev1 = true then BitVec.ofInt 64 stamp else 0, 0]) ∧
          (s.canPut b frame.length = true → b + frame.length ≤ d ∨ d + 24 ≤ b → t.readBytes b frame.length = frame) ∧
          ∀ a, (a < d ∨ d + 24 ≤ a) → (a < b ∨ b + frame.length ≤ a) → t.byte a = s.byte a)) ∧
      (let c := Instr.ethFrameTransmit e
       let d := descAt s e 1 x.tx
       let w := s.read64 d
       let sent := up ∧ w.getLsbD 63 = true
       let ev1 := ptpEvent (s.readBytes (bits (s.read64 (d + 24)) 47 0) (min (bits w 13 0) 9216))
       let ws := descWord false ev1 false (bits w 13 0) :: if ev1 = true then [BitVec.ofNat 64 (s.pt + s.rd Reg.TntPort.TXLAT e)] else []
       (¬sent → nothing c) ∧
       (sent → ev c [.grp 64, .mem, .poison, .tnt, .tokens] fun t => t.ethOf e = { x with tx := (x.tx + 1) % n } ∧
         (ev1 = true → cause (4 + e) t) ∧ (ev1 = false → t.tokens = s.tokens) ∧
         (s.canPut d (8 * ws.length) = true → t.readWords d ws.length = ws) ∧
         ∀ a, (a < d ∨ d + 8 * ws.length ≤ a) → t.byte a = s.byte a)) ∧
      (let c := Instr.ethRingPoll e
       let unc := min (s.pt - x.polled) (2 ^ 32 - 1)
       (¬up → nothing c) ∧
       (up → ev c [.grp 64, .mem, .poison, .tnt] fun t => t.ethOf e = { x with unpolled := [], polled := s.pt } ∧
         (∀ k ∈ x.unpolled, s.canPut (descAt s e 0 k + 8) 16 = true →
           t.readWords (descAt s e 0 k + 8) 2 = [BitVec.ofNat 64 s.pt, BitVec.ofNat 64 unc]) ∧
         ∀ a, (∀ k ∈ x.unpolled, a < descAt s e 0 k + 8 ∨ descAt s e 0 k + 24 ≤ a) → t.byte a = s.byte a)))

/-- The event router (R578 to R593).
Readings and choices of the model in it: log entries 12, 116, 117. -/
def Obligations.EventRouter : Prop :=
  ∀ (s : State),
    let ev := fun c ps (P : State → Prop) => ∃ t, exec c s = .next t ∧ Only ps s t ∧ P t
    let nothing := fun c => exec c s = .next s
    let more := fun (f : Field) i n (t : State) => t.rd f i = min (s.rd f i + n) (2 ^ f.width - 1)
    let up1 := fun (f : Field) i (t : State) => t.rd f i = (s.rd f i + 1) % 2 ^ f.width
    let E := s.evr
    (∀ n level, n < 16 → let c := Instr.evioEdge n level
      let new := s.rd Reg.Evio.EN n ≠ 0 ∧ ¬(s.rd Reg.Evio.LEVEL n ≠ 0 ↔ level = true)
      (¬new → nothing c) ∧
      (new → ev c [.one .evio n, .tokens] fun t => t.rd Reg.Evio.LEVEL n = (if level = true then 1 else 0) ∧ t.tokens = s.tokens ++
        if (s.rd Reg.Evio.EEDGE n).testBit (if level = true then 0 else 1) = true then tokensOf s (400 + n) else [])) ∧
    (∀ c k, c < 128 → let i := Instr.channelToken c k
      let fork := (List.range 256).filter fun t => s.rd Reg.EvrTask.CHSEL t == c
      let shut := s.rd Reg.EvrChan.GEN c ≠ 0 ∧ (gateLevel s (s.rd Reg.EvrChan.GSEL c) = true ↔ s.rd Reg.EvrChan.GINV c ≠ 0)
      ((∀ x ∈ s.tokens, x.chan ≠ c) → nothing i) ∧
      (∀ pre x post, s.tokens = pre ++ x :: post → x.chan = c → (∀ y ∈ pre, y.chan ≠ c) →
        let deaf := s.rd Reg.EvrChan.EN c = 0 ∨ fork = []
        let m := takeMerged c k x.hop (pre ++ post)
        (7 ≤ x.hop → ev i [.grp 19, .grp 64, .tokens] fun t => t.tokens = pre ++ post ∧ more Reg.EvrGlobal.LOOPCNT 0 1 t ∧
          t.rd Reg.EvrGlobal.LOOPCH 0 = c ∧ t.rd Reg.EvrGlobal.LOOPSRC 0 = if x.src < 512 then x.src else s.rd Reg.EvrGlobal.LOOPSRC 0) ∧
        (x.hop < 7 → deaf → exec i s = .next { s with tokens := pre ++ post }) ∧
        (x.hop < 7 → ¬deaf → shut → ev i [.one .chan c, .tokens] fun t => t.tokens = pre ++ post ∧ more Reg.EvrChan.GATECNT c 1 t) ∧
        (x.hop < 7 → ¬deaf → ¬shut → ev i [.one .chan c, .grp 64, .evr, .tokens] fun t => t.tokens = m.2.2 ∧ (k = 0 → t.tokens = pre ++ post) ∧
          more Reg.EvrChan.MRGCNT c m.2.1 t ∧ up1 Reg.EvrChan.TOKCNT c t ∧
          t.evr = { E with arrivals := E.arrivals ++ (fork.filter fun t => s.on Reg.EvrTask.EN t).map fun t => (t, m.1) }))) ∧
    (∀ n, n < 256 →
      let st := s.rd Reg.EvrTask.TSTATE n
      let kept := (32 ≤ n ∧ n ≤ 95) ∨ n = 129
      let hop0 := Tbl.get (fun _ => 0) E.hops n
      (let i := Instr.taskInputToken n
       ((∀ x ∈ E.arrivals, x.1 ≠ n) → nothing i) ∧
       (∀ pre hop post, E.arrivals = pre ++ (n, hop) :: post → (∀ y ∈ pre, y.1 ≠ n) →
         let rest := { E with arrivals := pre ++ post }
         let joined := { rest with hops := Tbl.set (fun _ => 0) E.hops n (max hop hop0) }
         let on := s.rd Reg.EvrTask.EN n ≠ 0
         let acts := inputActs s n = true
         let ovr := fun (t : State) => t.rd Reg.EvrTask.OVR n = 1 ∧ more Reg.EvrTask.OVRCNT n 1 t ∧
           (n < 32 → t.tesOf n = { s.tesOf n with skipped := true } ∧ more Reg.TesHead.SKIPCNT n 1 t) ∧ (32 ≤ n → t.tes = s.tes)
         let ps : List Part := [.one .task n, .one .tesHead n, .grp 64, .evr, .tes]
         (¬on → exec i s = .next { s with evr := rest }) ∧
         (on → ¬acts → ev i [.one .task n, .evr] fun t => t.evr = rest ∧ more Reg.EvrTask.DROPCNT n 1 t) ∧
         (on → acts → st = 0 → ev i [.one .task n, .evr] fun t => t.evr = joined ∧ t.rd Reg.EvrTask.TSTATE n = 1) ∧
         (on → acts → st = 1 → ev i [.one .task n, .grp 64, .evr] fun t => t.evr = joined ∧ more Reg.EvrTask.COALCNT n 1 t ∧
           t.rd Reg.EvrTask.TSTATE n = 1) ∧
         (on → acts → st = 2 → kept → ev i ps fun t => t.evr = joined ∧ ovr t ∧ t.rd Reg.EvrTask.TSTATE n = 3) ∧
         (on → acts → st = 2 → ¬kept → ev i ps fun t => t.evr = rest ∧ ovr t ∧ t.rd Reg.EvrTask.TSTATE n = 2) ∧
         (on → acts → st = 3 → ev i ps fun t => t.evr = joined ∧ ovr t ∧ t.rd Reg.EvrTask.TSTATE n = 3))) ∧
      (let i := Instr.activationStart n
       let ready := st = 1 ∧ s.power.ember = false
       let begun := fun (t : State) => t.rd Reg.EvrTask.TSTATE n = 2 ∧ t.rd Reg.EvrTask.LHOP n = hop0 % 8 ∧ up1 Reg.EvrTask.ACTCNT n t ∧
         t.evr = { E with hops := Tbl.erase E.hops n }
       let runs := s.rd Reg.TesHead.RUNNING n ≠ 0
       let soon := ∃ l, (s.tesOf n).last = some l ∧ s.raw < l + tminTicks s n
       (st ≠ 1 → nothing i) ∧ (st = 1 → n = 129 → exec i s = exec .emberWake s) ∧ (n ≠ 129 → s.power.ember = true → nothing i) ∧
       (ready → n < 32 → ¬runs → ev i [.one .task n, .evr] begun) ∧
       (ready → n < 32 → runs → soon → ev i [.one .task n, .one .tesHead n, .evr, .tes] fun t => begun t ∧
         t.tesOf n = { s.tesOf n with skipped := true } ∧ more Reg.TesHead.SKIPCNT n 1 t) ∧
       (ready → n < 32 → runs → ¬soon → ev i [.one .task n, .one .tesHead n, .evr, .free, .heads, .seq, .tes, .tokens, .views] fun t => begun t ∧
         (t.tesOf n).last = some (s.raw + advance s n) ∧
         ∃ q, (t.tesOf n).queue = (s.tesOf n).queue ++ [q] ∧ q.at_ = s.raw + advance s n ∧ q.hop = hop0 + 1) ∧
       (ready → n = 128 → ev i [.one .task n, .grp 23, .evr, .snap] fun t => begun t ∧
         (s.snap = none → t.snap = some {} ∧ t.rd Reg.Pmu.SVALID 0 = 0) ∧ (s.snap ≠ none → t.snap = s.snap)) ∧
       (32 ≤ n → n ≠ 128 → n ≠ 129 → handlerTurn s n = false → nothing i) ∧
       (ready → 32 ≤ n → n ≠ 128 → n ≠ 129 → handlerTurn s n = true → ev i [.one .task n, .grp 64, .evr, .procs, .seq] fun t => begun t ∧
         t.seq.cur = some (.handler n hop0) ∧ t.seq.base = s.power.load ∧ t.seq.codeLen = s.power.length / 8 ∧ t.seq.xat = {} ∧ t.seq.xk = 0 ∧
         (t.proc (activeCore s)).pc = (handlerAt s n).getD 0 ∧ (t.proc (activeCore s)).pfx = none ∧
         (t.proc (activeCore s)).latRaw = none ∧ (t.proc (activeCore s)).latPt = none)) ∧
      (let i := Instr.activationEnd n
       (st < 2 ∨ workEnded s n = false → nothing i) ∧
       (2 ≤ st → workEnded s n = true → ev i [.one .task n] fun t => t.rd Reg.EvrTask.TSTATE n = if st = 3 then 1 else 0)))

/-- The two-wire ports (R594 to R607).
Readings and choices of the model in it: log entries 12, 123, 124, 125, 126. -/
def Obligations.TwoWirePorts : Prop :=
  ∀ (s : State),
    let ev := fun c ps (P : State → Prop) => ∃ t, exec c s = .next t ∧ Only ps s t ∧ P t
    let nothing := fun c => exec c s = .next s
    let more := fun (f : Field) i n (t : State) => t.rd f i = min (s.rd f i + n) (2 ^ f.width - 1)
    let C := fun p => s.rd Reg.TwpPort.TWCAUSE p
    let sets := fun p ks (t : State) => ∀ j, j < 8 → (t.rd Reg.TwpPort.TWCAUSE p).testBit j = (List.contains ks j || (C p).testBit j)
    let caused := fun p k => if (s.rd Reg.TwpPort.TEVEN p).testBit k = true then tokensOf s (492 + p) else []
    let count := fun p (t : State) => t.rd Reg.TwpPort.XFERCNT p = (s.rd Reg.TwpPort.XFERCNT p + 1) % 2 ^ 32
    let wide : List Part := [.all .twPort, .grp 21, .grp 64, .mem, .poison, .power, .seq, .tokens, .tw]
    let done := fun p (t : State) => ∃ k ks, (s.twOf p).queue = k :: ks ∧ t.twOf p = { s.twOf p with queue := ks, losses := 0, lost := false, wrote := txBytes s k }
    (∀ p, p < 4 →
      let q := (s.twOf p).queue
      let runs := (p = 1 ∨ p = 2) ∧ q ≠ []
      let n := (s.twOf p).losses + 1
      let gives := max 1 (s.rd Reg.TwpPort.ARBRETRY p) ≤ n
      (∀ res nack data, let c := Instr.twXferComplete p res nack data
        let may := runs ∧ (s.twOf p).lost = false
        (¬may ∨ 5 < res → nothing c) ∧
        (may → res < 4 → ev c wide fun t => done p t ∧ count p t ∧ t.tokens = s.tokens ++ tokensOf s (488 + p) ∧
          more Reg.TwpPort.NACKCNT p (if res = 1 ∨ res = 2 then 1 else 0) t ∧
          (∀ a ws, q.head? = some (.xfer a ws) → a % 8 = 0 → a + 80 ≤ 0x8000000 → t.seq = (s.complete 0x14 2 p 0).seq ∧ t.power = s.power ∧
            let k := bits (ws.getD 0 0) 23 16
            t.readWords (a + 72) 1 = [fld (s.twOf p).losses 4 16 ||| fld nack 8 8 ||| fld res 8 0] ∧
            (res = 0 ∨ res = 3 → ∀ j, j < 32 → j < k → j < data.length → t.byte (a + 40 + j) = data.getD j 0) ∧
            (k ≤ 32 → ∀ x, x < a + 40 ∨ a + 80 ≤ x → t.byte x = s.byte x)) ∧
          (∀ x, q.head? = some x → TwKind.isReg x = true → t.mem = s.mem ∧ t.seq = s.seq ∧
            (res ≠ 0 → t.rd Reg.Pba.VREGFAIL 0 = 1 ∧ t.power = { s.power with vregBad := true }) ∧
            (∀ v, res = 0 → x = .voutCommand v → t.rd Reg.Pba.VCMD 0 = v % 2 ^ Reg.Pba.VCMD.width ∧ t.power = s.power) ∧
            (∀ v e, x = .voutCommand v → s.power.voutN = some e → (t.twOf p).wrote = 0x21 :: wordBytes 2 (BitVec.ofNat 64 (voutWord e v))) ∧
            (res = 0 → x = .voutMode → let m := (data.headD 0).toNat
              (m / 32 % 8 = 0 → t.power = { s.power with voutN := some (signed 5 (m % 32)) }) ∧
              (m / 32 % 8 ≠ 0 → t.rd Reg.Pba.VREGFAIL 0 = 1 ∧ t.power = { s.power with voutN := none, vregBad := true })))) ∧
        (may → res = 4 → ¬gives → ev c [.all .twPort, .grp 64, .tokens, .tw] fun t => t.twOf p = { s.twOf p with losses := n, lost := true } ∧
          more Reg.TwpPort.ARBCNT p 1 t ∧ sets p [3] t ∧ t.tokens = s.tokens ++ caused p 3) ∧
        (may → res = 4 → gives → ev c wide fun t => done p t ∧ more Reg.TwpPort.ARBCNT p 1 t ∧ sets p [3, 4] t ∧ count p t ∧
          t.tokens = s.tokens ++ caused p 3 ++ caused p 4 ++ tokensOf s (488 + p) ∧
          (∀ a ws, q.head? = some (.xfer a ws) → t.seq = (s.complete 0x14 2 p 3).seq)) ∧
        (may → res = 5 → ev c wide fun t => (t.twOf p).queue = [] ∧ more Reg.TwpPort.STUCKCNT p 1 t ∧ sets p [2] t)) ∧
      (∀ low, let c := Instr.controllerSclTimeout p low
        (¬runs → nothing c) ∧
        (runs → low = false → ev c wide fun t => done p t ∧ sets p [1] t ∧ count p t ∧ t.tokens = s.tokens ++ caused p 1 ++ tokensOf s (488 + p) ∧
          (∀ a ws, q.head? = some (.xfer a ws) → t.seq = (s.complete 0x14 2 p 0xF).seq)) ∧
        (runs → low = true → ev c wide fun t => (t.twOf p).queue = [] ∧ sets p [1, 2] t ∧ more Reg.TwpPort.STUCKCNT p 1 t)) ∧
      (∀ pulses, let c := Instr.stuckRecoveryRetry p pulses
        let hit := (p = 1 ∨ p = 2) ∧ (C p).testBit 2 = true
        (¬hit → nothing c) ∧
        (hit → pulses ≤ 9 → ev c [.one .twPort p] fun t => ∀ j, j < 8 → (t.rd Reg.TwpPort.TWCAUSE p).testBit j = (j != 2 && (C p).testBit j)) ∧
        (hit → 9 < pulses → ev c [.one .twPort p, .tokens] fun t => sets p [2] t ∧ more Reg.TwpPort.STUCKCNT p 1 t ∧ t.tokens = s.tokens ++ caused p 2)) ∧
      exec (.twBusFree p) s = .next (s.setTw p { s.twOf p with lost := false }) ∧
      (let c := Instr.targetStretchTimeout p
       ((s.twOf p).stretch = false → nothing c) ∧
       ((s.twOf p).stretch = true → ev c [.one .twPort p, .grp 64, .tokens, .tw] fun t => t.twOf p = { s.twOf p with stretch := false } ∧
         sets p [0] t ∧ more Reg.TwpPort.STRTOCNT p 1 t ∧ t.tokens = s.tokens ++ caused p 0))) ∧
    (∀ ptr bs,
      let at_ := fun k => (ptr % 64 + k) % 64
      let reach := fun a => ∃ k, k < bs.length ∧ at_ k = a
      let ember := s.power.ember = true
      let busy := (s.twOf 0).stretch = true
      let plain : List Part := [.all .twPort, .grp 64, .grp 66, .tokens, .tw]
      exec (.twTargetWrite 0 ptr bs) s = exec (.mboxWrite ptr bs) s ∧ exec (.twTargetWrite 3 ptr bs) s = exec (.tw3Dcmd ptr bs) s ∧
      (∀ port, port ≠ 0 → port ≠ 3 → exec (.twTargetWrite port ptr bs) s = .fault .noInstance) ∧
      (ember → exec (.mboxWrite ptr bs) s = exec .tw0WakeMatch s) ∧ (¬ember → busy → nothing (.mboxWrite ptr bs)) ∧
      (¬ember → ¬busy → ev (.mboxWrite ptr bs) plain fun t => count 0 t ∧ t.twOf 0 = { s.twOf 0 with ptr := (ptr % 64 + bs.length) % 64 } ∧
        (bs.length ≤ 64 → ∀ j, j < 4 → ∀ k, k < bs.length → at_ k = 0x20 + j → targetByte t 0 (0x20 + j) = bs.getD k 0) ∧
        (∀ j, j < 4 → ¬reach (0x20 + j) → targetByte t 0 (0x20 + j) = targetByte s 0 (0x20 + j)) ∧
        (reach 0x23 → t.tokens = s.tokens ++ tokensOf s 488) ∧ (¬reach 0x23 → t.tokens = s.tokens)) ∧
      ((s.twOf 3).mute = true → ev (.tw3Dcmd ptr bs) [.one .twPort 3, .tokens, .tw] fun t => t.twOf 3 = { s.twOf 3 with mute := false } ∧
        sets 3 [5] t ∧ t.tokens = s.tokens ++ caused 3 5) ∧
      ((s.twOf 3).mute = false → ¬reach 0x16 → ev (.tw3Dcmd ptr bs) plain fun t => count 3 t ∧ t.tokens = s.tokens ++ tokensOf s 491 ∧
        t.twOf 3 = { s.twOf 3 with ptr := (ptr % 64 + bs.length) % 64 } ∧ t.rd Reg.Tw3.DSTAT 0 = s.rd Reg.Tw3.DSTAT 0) ∧
      ((s.twOf 3).mute = false → reach 0x16 → ev (.tw3Dcmd ptr bs) (.mem :: .poison :: plain) fun t => count 3 t ∧
        t.tokens = s.tokens ++ tokensOf s 491 ∧
        let a := t.rd Reg.Tw3.DADDR 0
        let cmd := t.rd Reg.Tw3.DCMD 0
        let stat := fun k => t.rd Reg.Tw3.DSTAT 0 = k
        let ok2 := (s.inBanksOn a 8 = true ∨ s.inDram a 8 = true) ∧ a % 8 = 0
        (debugOpen s = false → stat 2 ∧ t.mem = s.mem) ∧ (debugOpen s = true → ember → stat 3 ∧ t.mem = s.mem) ∧
        (debugOpen s = true → ¬ember → cmd = 1 → t.mem = s.mem ∧ (0x30000000 ≤ a → a ≤ 0x3003FFFF → stat 1) ∧
          (s.inBanksOn a 8 = true → a % 8 = 0 → s.poisoned a 8 = false → stat 0 ∧ t.rd Reg.Tw3.DDATA 0 = (s.read64 a).toNat)) ∧
        (debugOpen s = true → ¬ember → cmd = 2 → (¬ok2 → stat 1 ∧ t.mem = s.mem) ∧
          (ok2 → stat 0 ∧ t.readWords a 1 = [BitVec.ofNat 64 (t.rd Reg.Tw3.DDATA 0)] ∧ ∀ x, x < a ∨ a + 8 ≤ x → t.byte x = s.byte x)) ∧
        (debugOpen s = true → ¬ember → cmd ≠ 1 → cmd ≠ 2 → stat (s.rd Reg.Tw3.DSTAT 0) ∧ t.mem = s.mem))) ∧
    (s.power.ember = false → nothing .tw0WakeMatch) ∧
    (s.power.ember = true → ev .tw0WakeMatch [.power, .tw] fun t => (t.twOf 0).stretch = true ∧
      t.power = { s.power with leaving := true, vcoreEn := s.power.leaving == false || s.power.vcoreEn } ∧
      (s.power.leaving = false → (t.twOf 3).mute = true))

/-! ### The whole block -/

/-- A step takes the front command. What an empty queue does is log entry 1. -/
def Obligations.StepTakesFrontCommand : Prop :=
  ∀ s : State,
    (∀ c, step { s with pending := c :: s.pending } = exec c s) ∧
    (∀ c cs, s.pending = c :: cs → step s = exec c { s with pending := cs }) ∧
    (s.pending = [] → ∃ t, step s = .next t ∧ Only [.all .lane, .grp 18, .grp 64, .heads, .lanes, .snap, .tokens] s t ∧
      t.raw = (s.raw + 1) % 2 ^ 64 ∧ (∀ a, groupOf a = 18 → a ≠ Reg.Tnt.RAW.base → t.word a = s.word a) ∧
      (∀ q, s.snap = some { at_ := q } → (t.pt < q.getD 0 → t.snap = s.snap) ∧
        (q.getD 0 ≤ t.pt → ∃ c, t.snap = some { at_ := q, got := some c } ∧ c.raw = t.raw ∧ c.pt = t.pt ∧ c.epoch = t.rd Reg.Cut.EPOCH 0 ∧
          ∀ j, j < 1024 → Reg.Pmu.COUNT.get 0 (Tbl.get (fun _ => 0) c.counts (Reg.Pmu.COUNT.word j 0)) = t.rd Reg.Pmu.COUNT j)) ∧
      (s.lanes = [] → pmuSet s = [] → s.snap = none → (∀ h, h < 32 → downUp s h = false) → t = s.wr Reg.Tnt.RAW 0 (s.raw + 1)))

/-- The invariant of `EveryStepKeepsCanonicalForm` holds after reset. That memory lists nothing, and so reads 0, is the model's
choice (log entry 2). -/
def Obligations.ResetIsCanonical : Prop := State.reset.inv ∧ State.reset.pending = [] ∧ State.reset.mem = []

/-- Reset values that the spec states. -/
def Obligations.ResetValues : Prop :=
  let r := State.reset
  (∀ n, n < 256 → r.rd Reg.Lane.STATE n = 1 ∧ r.rd Reg.Lane.RATE n = 0) ∧
  (∀ l, l < 64 → r.rd Reg.RpaDep.PSTATE l = 0 ∧ r.rd Reg.Lrp.PHYS l = l) ∧ (∀ u, 64 ≤ u → u < 72 → r.rd Reg.RpaDep.PSTATE u = 1) ∧
  r.rd Reg.SeqLease.LEASEPAIR 0 = 0 ∧ r.rd Reg.SeqLease.LEASE 0 = 40 ∧ r.rd Reg.SeqLease.RENEW 0 = 10 ∧
  (∀ b, b < 256 → r.rd Reg.Mem.PSTATE b = 0 ∧ r.rd Reg.Mem.MODE b = 0) ∧ (∀ c, c < 8 → r.rd Reg.Dmc.CHSTATE c = 0) ∧
  r.rd Reg.RpaGlobal.RUNLIMIT 0 = 65536 ∧ r.rd Reg.RpaDep.CETHR 0 = 16 ∧ r.rd Reg.Pba.BUDGET 0 = 180000 ∧ r.rd Reg.Pba.TWARN 0 = 120 ∧
  r.rd Reg.Pba.VMIN 0 = 720 ∧ r.rd Reg.Pba.VTARGET 0 = 620 ∧ r.rd Reg.Pba.LIVEHOLD 0 = 10 ∧ r.rd Reg.Rail.WARN 0 = 660 ∧
  r.rd Reg.Pba.RSTCAUSE 0 = 1 ∧ r.rd Reg.Tnt.INC 0 = 16 * 2 ^ 40 ∧ r.raw = 0 ∧ r.rd Reg.Bar0.CEN 0 = 0 ∧ r.rd Reg.Bar0.HLEN 0 = 0 ∧
  r.rd Reg.Bar0.MEN 0 = 0

/-- The canonical form is an invariant of every step. -/
def Obligations.EveryStepKeepsCanonicalForm : Prop := ∀ s t : State, s.inv → step s = .next t → t.inv

/-- No command that the device or its surroundings can make stops the machine. -/
def Obligations.WellFormedCommandsComplete : Prop :=
  ∀ (c : Instr) (s : State),
    (c.wf = true → ∃ t, exec c s = .next t) ∧ (∀ t, exec c s = .next t → t.pending = s.pending) ∧ (∀ r, exec c s ≠ .refused r) ∧
      ∀ f, exec c s = .fault f → f = .noInstance ∧ c.wf = false

/-- The raw counter is never written (R519). -/
def Obligations.RawCounterIsNeverWritten : Prop :=
  ∀ (c : Instr) (s t : State), exec c s = .next t →
    t.raw = if c = .vauxPowerOn ∨ c = .railBelowReset 1 then 0 else s.raw

/-- Lifecycle transitions (R572, R573). -/
def Obligations.LifecycleMovesOnlyRightward : Prop :=
  ∀ (c : Instr) (s t : State), exec c s = .next t →
    let lc := s.rd Reg.Slc.LCSTATE 0
    let new := t.rd Reg.Slc.LCSTATE 0
    new = lc ∨ ((∃ x, c = .slcAdvance x ∨ c = .slcAdvanceFuses x) ∧
      ((lc = 1 ∧ new = 2) ∨ (lc = 2 ∧ new = 4) ∨ (lc = 4 ∧ new = 8) ∨ ((lc = 1 ∨ lc = 2 ∨ lc = 4 ∨ lc = 8) ∧ new = 0x10)))

/-- The secure bank is out of reach of row processors, host window and debug window. -/
def Obligations.SecureBankIsIsolated : Prop :=
  ∀ (s : State),
    (∀ u w, u < 72 → ∀ c ∈ [Instr.st u w, .vst u w], ∀ t, exec c s = .next t → ∀ a, secureAddr a = true → t.byte a = s.byte a) ∧
    (∀ off n d t, exec (.bar2Access off n d) s = .next t → ∀ a, secureAddr a = true → t.byte a = s.byte a) ∧
    (∀ ptr bs t, exec (.mboxWrite ptr bs) s = .next t ∨ exec (.tw3Dcmd ptr bs) s = .next t →
      ∀ a, secureAddr a = true → t.byte a = s.byte a) ∧
    (∀ m off n t t', (∀ a, secureAddr a = false → Tbl.get (fun _ => 0) m a = s.byte a) →
      exec (.bar2Access off n none) s = .next t → exec (.bar2Access off n none) { s with mem := m } = .next t' → t'.hif = t.hif)

/-- Registers and memory hold what is written. -/
def Obligations.FieldsAndBytesReadBack : Prop :=
  ∀ s : State,
    (∀ (f : Field) (i v : Nat), f.has i 0 = true → f.lo ≤ f.hi → f.hi < 64 → f.ew = 0 →
      (s.wr f i v).rd f i = v % 2 ^ f.width ∧ (∀ a, a ≠ f.word i 0 → (s.wr f i v).word a = s.word a) ∧
      (∀ b, (b < f.lo ∨ f.hi < b) → ((s.wr f i v).word (f.word i 0)).getLsbD b = (s.word (f.word i 0)).getLsbD b)) ∧
    (∀ (a : Nat) (bs : List Byte), (∀ k, k < bs.length → (s.setBytes a bs).byte (a + k) = bs.getD k 0) ∧
      (∀ x, x < a ∨ a + bs.length ≤ x → (s.setBytes a bs).byte x = s.byte x))

/-! ### Rules stated whole -/

/-- R97. -/
def Obligations.SleepOfRunningHeadIsLaneBusy : Prop :=
  ∀ (x : XWord) (s : State), XReady x s →
    let a := xargs s x
    a.i < 256 → s.rd Reg.Lane.ASSIGNED a.i ≠ 0 →
    a.arg.testBit 1 = true ∨ a.arg.testBit 0 = true ∨ (a.arg.testBit 2 = true ∧ s.rd Reg.Lane.MASTER a.i ≠ 0) →
    ∃ t, exec (.slaPower x) s = .next t ∧ XDid 4 [] [] s.seq s t ∧ (∀ f ∈ [Reg.Lane.STATE, Reg.Lane.TXSLEEP, Reg.Lane.RXSLEEP, Reg.Lane.COLD],
      t.rd f a.i = s.rd f a.i) ∧ t.lane a.i = s.lane a.i

/-- R482. -/
def Obligations.CommandSequenceNumbers : Prop :=
  ∀ (s : State) (e : List Word), e.length = 128 →
    let n := s.hif.pos
    let cseq := n % (2 ^ 32 - 1) + 1
    let w := fun k => e.getD k 0
    let nc := bits (w 1) 63 56
    let nd := bits (w 1) 55 48
    let formed := bits (w 0) 15 0 = 0x5A43 ∧ bits (w 0) 31 24 = 1 ∧ bits (w 0) 63 32 = cseq ∧ 1 ≤ nc ∧ nc ≤ 120 ∧ nd ≤ 119 ∧ nc + nd ≤ 120
    let next := seqIdle s = true ∧ handlerWaits s = false ∧ (∀ c ∈ s.seq.log, c.redo = false) ∧ s.power.ember = false ∧
      s.rd Reg.Bar0.CEN 0 ≠ 0 ∧ s.rd Reg.Bar0.CHEAD 0 ≠ s.rd Reg.Bar0.CMDDB 0 ∧ s.seq.log.length < 1024
    cseq ≠ 0 ∧ cseq < 2 ^ 32 ∧
    (∀ m v t, s.power.ember = false → s.rd Reg.Bar0.CEN 0 = 0 → exec (.cenWrite m v) s = .next t → t.rd Reg.Bar0.CEN 0 = 1 → t.hif.pos = 0) ∧
    (next → ¬formed → ∃ t, exec (.commandStart e) s = .next t ∧ t.seq = s.seq ∧ t.procs = s.procs ∧ t.hif.pos = n + 1 ∧
      t.hif.entries = s.hif.entries ++ [[fld cseq 32 32 ||| fld 1 8 24 ||| fld 2 8 16, w 2, 0, BitVec.ofNat 64 s.pt]]) ∧
    (next → formed → ∃ t, exec (.commandStart e) s = .next t ∧ t.hif.pos = n + 1 ∧ t.seq.cur = some (.command cseq) ∧
      ∃ c, t.seq.log.getLast? = some c ∧ c.cseq = cseq ∧ c.tag = w 2)

/-- R605. -/
def Obligations.FirstPrivateTransactionAfterWake : Prop :=
  ∀ (s : State),
    (s.power.ember = true → s.power.leaving = false →
      (∃ t, exec .tw0WakeMatch s = .next t ∧ (t.twOf 3).mute = true) ∧
      (s.rd Reg.EvrTask.TSTATE 129 = 1 → ∃ t, exec .emberWake s = .next t ∧ (t.twOf 3).mute = true)) ∧
    ∀ ptr bs,
      ((s.twOf 3).mute = true → ∃ t, exec (.tw3Dcmd ptr bs) s = .next t ∧ (t.twOf 3).mute = false ∧ t.mem = s.mem ∧
        (t.rd Reg.TwpPort.TWCAUSE 3).testBit 5 = true ∧ t.rd Reg.TwpPort.XFERCNT 3 = s.rd Reg.TwpPort.XFERCNT 3 ∧
        ∀ a, targetByte t 3 a = targetByte s 3 a) ∧
      ((s.twOf 3).mute = false → ∃ t, exec (.tw3Dcmd ptr bs) s = .next t ∧ (t.twOf 3).mute = false ∧
        t.rd Reg.TwpPort.XFERCNT 3 = (s.rd Reg.TwpPort.XFERCNT 3 + 1) % 2 ^ 32 ∧ t.tokens = s.tokens ++ tokensOf s 491)
end

