-- ==== Sys2Proof/Laws/Arms.lean ====
section
/-!
SUPPORT. The meaning that `exec` calls for each command.
-/
namespace Sys2Proof.Machine

theorem exec_add (u : Nat) (w : IWord) (s : State) : exec (.add u w) s = execAdd u w s := rfl

theorem exec_sub (u : Nat) (w : IWord) (s : State) : exec (.sub u w) s = execSub u w s := rfl

theorem exec_and (u : Nat) (w : IWord) (s : State) : exec (.and_ u w) s = execAnd u w s := rfl

theorem exec_or (u : Nat) (w : IWord) (s : State) : exec (.or_ u w) s = execOr u w s := rfl

theorem exec_xor (u : Nat) (w : IWord) (s : State) : exec (.xor_ u w) s = execXor u w s := rfl

theorem exec_shl (u : Nat) (w : IWord) (s : State) : exec (.shl u w) s = execShl u w s := rfl

theorem exec_shr (u : Nat) (w : IWord) (s : State) : exec (.shr u w) s = execShr u w s := rfl

theorem exec_sra (u : Nat) (w : IWord) (s : State) : exec (.sra u w) s = execSra u w s := rfl

theorem exec_mul (u : Nat) (w : IWord) (s : State) : exec (.mul u w) s = execMul u w s := rfl

theorem exec_mulh (u : Nat) (w : IWord) (s : State) : exec (.mulh u w) s = execMulh u w s := rfl

theorem exec_slt (u : Nat) (w : IWord) (s : State) : exec (.slt u w) s = execSlt u w s := rfl

theorem exec_min (u : Nat) (w : IWord) (s : State) : exec (.min_ u w) s = execMin u w s := rfl

theorem exec_max (u : Nat) (w : IWord) (s : State) : exec (.max_ u w) s = execMax u w s := rfl

theorem exec_lda (u : Nat) (w : IWord) (s : State) : exec (.lda u w) s = execLda u w s := rfl

theorem exec_adda (u : Nat) (w : IWord) (s : State) : exec (.adda u w) s = execAdda u w s := rfl

theorem exec_movsa (u : Nat) (w : IWord) (s : State) : exec (.movsa u w) s = execMovsa u w s := rfl

theorem exec_movas (u : Nat) (w : IWord) (s : State) : exec (.movas u w) s = execMovas u w s := rfl

theorem exec_ld (u : Nat) (w : IWord) (ecc : Nat) (s : State) : exec (.ld u w ecc) s = execLd u w ecc s := rfl

theorem exec_st (u : Nat) (w : IWord) (s : State) : exec (.st u w) s = execSt u w s := rfl

theorem exec_krd (u : Nat) (w : IWord) (s : State) : exec (.krd u w) s = execKrd u w s := rfl

theorem exec_beq (u : Nat) (w : IWord) (s : State) : exec (.beq u w) s = execBeq u w s := rfl

theorem exec_bne (u : Nat) (w : IWord) (s : State) : exec (.bne u w) s = execBne u w s := rfl

theorem exec_blt (u : Nat) (w : IWord) (s : State) : exec (.blt u w) s = execBlt u w s := rfl

theorem exec_bge (u : Nat) (w : IWord) (s : State) : exec (.bge u w) s = execBge u w s := rfl

theorem exec_bltu (u : Nat) (w : IWord) (s : State) : exec (.bltu u w) s = execBltu u w s := rfl

theorem exec_bgeu (u : Nat) (w : IWord) (s : State) : exec (.bgeu u w) s = execBgeu u w s := rfl

theorem exec_jal (u : Nat) (w : IWord) (s : State) : exec (.jal u w) s = execJal u w s := rfl

theorem exec_jr (u : Nat) (w : IWord) (s : State) : exec (.jr u w) s = execJr u w s := rfl

theorem exec_end (u : Nat) (w : IWord) (s : State) : exec (.end_ u w) s = execEnd u w s := rfl

theorem exec_evpost (u : Nat) (w : IWord) (s : State) : exec (.evpost u w) s = execEvpost u w s := rfl

theorem exec_evfire (u : Nat) (w : IWord) (s : State) : exec (.evfire u w) s = execEvfire u w s := rfl

theorem exec_rdt (u : Nat) (w : IWord) (s : State) : exec (.rdt u w) s = execRdt u w s := rfl

theorem exec_fence (u : Nat) (w : IWord) (s : State) : exec (.fence u w) s = execFence u w s := rfl

theorem exec_xat (u : Nat) (w : IWord) (s : State) : exec (.xat u w) s = execXat u w s := rfl

theorem exec_xstat (u : Nat) (w : IWord) (s : State) : exec (.xstat u w) s = execXstat u w s := rfl

theorem exec_xwait (u : Nat) (w : IWord) (s : State) : exec (.xwait u w) s = execXwait u w s := rfl

theorem exec_nop (u : Nat) (w : IWord) (s : State) : exec (.nop u w) s = execNop u w s := rfl

theorem exec_pfx (u : Nat) (w : IWord) (s : State) : exec (.pfx u w) s = execPfx u w s := rfl

theorem exec_vadd (u : Nat) (w : IWord) (s : State) : exec (.vadd u w) s = execVadd u w s := rfl

theorem exec_vsub (u : Nat) (w : IWord) (s : State) : exec (.vsub u w) s = execVsub u w s := rfl

theorem exec_vabsd (u : Nat) (w : IWord) (s : State) : exec (.vabsd u w) s = execVabsd u w s := rfl

theorem exec_vmin (u : Nat) (w : IWord) (s : State) : exec (.vmin u w) s = execVmin u w s := rfl

theorem exec_vmax (u : Nat) (w : IWord) (s : State) : exec (.vmax u w) s = execVmax u w s := rfl

theorem exec_vand (u : Nat) (w : IWord) (s : State) : exec (.vand u w) s = execVand u w s := rfl

theorem exec_vor (u : Nat) (w : IWord) (s : State) : exec (.vor u w) s = execVor u w s := rfl

theorem exec_vxor (u : Nat) (w : IWord) (s : State) : exec (.vxor u w) s = execVxor u w s := rfl

theorem exec_vshl (u : Nat) (w : IWord) (s : State) : exec (.vshl u w) s = execVshl u w s := rfl

theorem exec_vshr (u : Nat) (w : IWord) (s : State) : exec (.vshr u w) s = execVshr u w s := rfl

theorem exec_vrshr (u : Nat) (w : IWord) (s : State) : exec (.vrshr u w) s = execVrshr u w s := rfl

theorem exec_vmul (u : Nat) (w : IWord) (s : State) : exec (.vmul u w) s = execVmul u w s := rfl

theorem exec_vmulsh (u : Nat) (w : IWord) (s : State) : exec (.vmulsh u w) s = execVmulsh u w s := rfl

theorem exec_vmac (u : Nat) (w : IWord) (s : State) : exec (.vmac u w) s = execVmac u w s := rfl

theorem exec_vlerp (u : Nat) (w : IWord) (s : State) : exec (.vlerp u w) s = execVlerp u w s := rfl

theorem exec_vcmpeq (u : Nat) (w : IWord) (s : State) : exec (.vcmpeq u w) s = execVcmpeq u w s := rfl

theorem exec_vcmpne (u : Nat) (w : IWord) (s : State) : exec (.vcmpne u w) s = execVcmpne u w s := rfl

theorem exec_vcmplt (u : Nat) (w : IWord) (s : State) : exec (.vcmplt u w) s = execVcmplt u w s := rfl

theorem exec_vcmple (u : Nat) (w : IWord) (s : State) : exec (.vcmple u w) s = execVcmple u w s := rfl

theorem exec_vcmpgt (u : Nat) (w : IWord) (s : State) : exec (.vcmpgt u w) s = execVcmpgt u w s := rfl

theorem exec_vcmpge (u : Nat) (w : IWord) (s : State) : exec (.vcmpge u w) s = execVcmpge u w s := rfl

theorem exec_vsel (u : Nat) (w : IWord) (s : State) : exec (.vsel u w) s = execVsel u w s := rfl

theorem exec_vmov (u : Nat) (w : IWord) (s : State) : exec (.vmov u w) s = execVmov u w s := rfl

theorem exec_vwrd (u : Nat) (w : IWord) (s : State) : exec (.vwrd u w) s = execVwrd u w s := rfl

theorem exec_vcsh (u : Nat) (w : IWord) (s : State) : exec (.vcsh u w) s = execVcsh u w s := rfl

theorem exec_vwiden (u : Nat) (w : IWord) (s : State) : exec (.vwiden u w) s = execVwiden u w s := rfl

theorem exec_vnarrow (u : Nat) (w : IWord) (s : State) : exec (.vnarrow u w) s = execVnarrow u w s := rfl

theorem exec_vlut (u : Nat) (w : IWord) (s : State) : exec (.vlut u w) s = execVlut u w s := rfl

theorem exec_lutld (u : Nat) (w : IWord) (s : State) : exec (.lutld u w) s = execLutld u w s := rfl

theorem exec_vhist (u : Nat) (w : IWord) (s : State) : exec (.vhist u w) s = execVhist u w s := rfl

theorem exec_hrd (u : Nat) (w : IWord) (s : State) : exec (.hrd u w) s = execHrd u w s := rfl

theorem exec_hclr (u : Nat) (w : IWord) (s : State) : exec (.hclr u w) s = execHclr u w s := rfl

theorem exec_vrsum (u : Nat) (w : IWord) (s : State) : exec (.vrsum u w) s = execVrsum u w s := rfl

theorem exec_vrmin (u : Nat) (w : IWord) (s : State) : exec (.vrmin u w) s = execVrmin u w s := rfl

theorem exec_vrmax (u : Nat) (w : IWord) (s : State) : exec (.vrmax u w) s = execVrmax u w s := rfl

theorem exec_pcnt (u : Nat) (w : IWord) (s : State) : exec (.pcnt u w) s = execPcnt u w s := rfl

theorem exec_pand (u : Nat) (w : IWord) (s : State) : exec (.pand u w) s = execPand u w s := rfl

theorem exec_por (u : Nat) (w : IWord) (s : State) : exec (.por u w) s = execPor u w s := rfl

theorem exec_pxor (u : Nat) (w : IWord) (s : State) : exec (.pxor u w) s = execPxor u w s := rfl

theorem exec_pandn (u : Nat) (w : IWord) (s : State) : exec (.pandn u w) s = execPandn u w s := rfl

theorem exec_vpbit (u : Nat) (w : IWord) (s : State) : exec (.vpbit u w) s = execVpbit u w s := rfl

theorem exec_vld (u : Nat) (w : IWord) (ecc : Nat) (line : Nat) (s : State) : exec (.vld u w ecc line) s = execVld u w ecc line s := rfl

theorem exec_vst (u : Nat) (w : IWord) (s : State) : exec (.vst u w) s = execVst u w s := rfl

theorem exec_out (u : Nat) (w : IWord) (s : State) : exec (.out u w) s = execOut u w s := rfl

theorem exec_wpush (u : Nat) (w : IWord) (s : State) : exec (.wpush u w) s = execWpush u w s := rfl

theorem exec_cntclr (unit : Nat) (x : XWord) (s : State) : exec (.cntclr unit x) s = execCntclr unit x s := rfl

theorem exec_evclr (unit : Nat) (x : XWord) (s : State) : exec (.evclr unit x) s = execEvclr unit x s := rfl

theorem exec_seqLease (x : XWord) (s : State) : exec (.seqLease x) s = execSeqLease x s := rfl

theorem exec_seqWdog (x : XWord) (s : State) : exec (.seqWdog x) s = execSeqWdog x s := rfl

theorem exec_seqHandler (x : XWord) (s : State) : exec (.seqHandler x) s = execSeqHandler x s := rfl

theorem exec_slaCfg (x : XWord) (s : State) : exec (.slaCfg x) s = execSlaCfg x s := rfl

theorem exec_slaTxtaps (x : XWord) (s : State) : exec (.slaTxtaps x) s = execSlaTxtaps x s := rfl

theorem exec_slaPower (x : XWord) (s : State) : exec (.slaPower x) s = execSlaPower x s := rfl

theorem exec_slaTrain (x : XWord) (s : State) : exec (.slaTrain x) s = execSlaTrain x s := rfl

theorem exec_slaPrbs (x : XWord) (s : State) : exec (.slaPrbs x) s = execSlaPrbs x s := rfl

theorem exec_slaInject (x : XWord) (s : State) : exec (.slaInject x) s = execSlaInject x s := rfl

theorem exec_slaEyescan (x : XWord) (s : State) : exec (.slaEyescan x) s = execSlaEyescan x s := rfl

theorem exec_slaRefsel (x : XWord) (s : State) : exec (.slaRefsel x) s = execSlaRefsel x s := rfl

theorem exec_slaEyecfg (x : XWord) (s : State) : exec (.slaEyecfg x) s = execSlaEyecfg x s := rfl

theorem exec_hauBond (x : XWord) (s : State) : exec (.hauBond x) s = execHauBond x s := rfl

theorem exec_hauCfg (x : XWord) (s : State) : exec (.hauCfg x) s = execHauCfg x s := rfl

theorem exec_hauMap (x : XWord) (s : State) : exec (.hauMap x) s = execHauMap x s := rfl

theorem exec_hauEballoc (x : XWord) (s : State) : exec (.hauEballoc x) s = execHauEballoc x s := rfl

theorem exec_hauStart (x : XWord) (s : State) : exec (.hauStart x) s = execHauStart x s := rfl

theorem exec_hauStop (x : XWord) (s : State) : exec (.hauStop x) s = execHauStop x s := rfl

theorem exec_hauShare (x : XWord) (s : State) : exec (.hauShare x) s = execHauShare x s := rfl

theorem exec_hauCamreg (x : XWord) (s : State) : exec (.hauCamreg x) s = execHauCamreg x s := rfl

theorem exec_hauEslcfg (x : XWord) (s : State) : exec (.hauEslcfg x) s = execHauEslcfg x s := rfl

theorem exec_pfuEnccfg (x : XWord) (s : State) : exec (.pfuEnccfg x) s = execPfuEnccfg x s := rfl

theorem exec_pfuSsicfg (x : XWord) (s : State) : exec (.pfuSsicfg x) s = execPfuSsicfg x s := rfl

theorem exec_pfuPrbcfg (x : XWord) (s : State) : exec (.pfuPrbcfg x) s = execPfuPrbcfg x s := rfl

theorem exec_pfuPpop (x : XWord) (s : State) : exec (.pfuPpop x) s = execPfuPpop x s := rfl

theorem exec_pfuDivcfg (x : XWord) (s : State) : exec (.pfuDivcfg x) s = execPfuDivcfg x s := rfl

theorem exec_pfuWpcfg (x : XWord) (s : State) : exec (.pfuWpcfg x) s = execPfuWpcfg x s := rfl

theorem exec_pfuWpset (x : XWord) (s : State) : exec (.pfuWpset x) s = execPfuWpset x s := rfl

theorem exec_tesCfg (x : XWord) (s : State) : exec (.tesCfg x) s = execTesCfg x s := rfl

theorem exec_tesGrid (x : XWord) (s : State) : exec (.tesGrid x) s = execTesGrid x s := rfl

theorem exec_tesXset (x : XWord) (s : State) : exec (.tesXset x) s = execTesXset x s := rfl

theorem exec_tesXsel (x : XWord) (s : State) : exec (.tesXsel x) s = execTesXsel x s := rfl

theorem exec_tesCut (x : XWord) (s : State) : exec (.tesCut x) s = execTesCut x s := rfl

theorem exec_tesCutFabric (x : XWord) (s : State) : exec (.tesCutFabric x) s = execTesCutFabric x s := rfl

theorem exec_rpaLoad (x : XWord) (s : State) : exec (.rpaLoad x) s = execRpaLoad x s := rfl

theorem exec_rpaKset (x : XWord) (s : State) : exec (.rpaKset x) s = execRpaKset x s := rfl

theorem exec_rpaSmwrite (x : XWord) (s : State) : exec (.rpaSmwrite x) s = execRpaSmwrite x s := rfl

theorem exec_rpaResume (x : XWord) (s : State) : exec (.rpaResume x) s = execRpaResume x s := rfl

theorem exec_rpaCfg (x : XWord) (s : State) : exec (.rpaCfg x) s = execRpaCfg x s := rfl

theorem exec_sstView (x : XWord) (s : State) : exec (.sstView x) s = execSstView x s := rfl

theorem exec_sstGeom (x : XWord) (s : State) : exec (.sstGeom x) s = execSstGeom x s := rfl

theorem exec_sstSeam (x : XWord) (s : State) : exec (.sstSeam x) s = execSstSeam x s := rfl

theorem exec_sstBlend (x : XWord) (s : State) : exec (.sstBlend x) s = execSstBlend x s := rfl

theorem exec_sstEdge (x : XWord) (s : State) : exec (.sstEdge x) s = execSstEdge x s := rfl

theorem exec_rtkPlane (x : XWord) (s : State) : exec (.rtkPlane x) s = execRtkPlane x s := rfl

theorem exec_rtkStraw (x : XWord) (s : State) : exec (.rtkStraw x) s = execRtkStraw x s := rfl

theorem exec_rtkFeat (x : XWord) (s : State) : exec (.rtkFeat x) s = execRtkFeat x s := rfl

theorem exec_rclModel (x : XWord) (s : State) : exec (.rclModel x) s = execRclModel x s := rfl

theorem exec_rclFeatmap (x : XWord) (s : State) : exec (.rclFeatmap x) s = execRclFeatmap x s := rfl

theorem exec_dlgMarkcfg (x : XWord) (s : State) : exec (.dlgMarkcfg x) s = execDlgMarkcfg x s := rfl

theorem exec_dlgMlate (x : XWord) (s : State) : exec (.dlgMlate x) s = execDlgMlate x s := rfl

theorem exec_dlgRing (x : XWord) (s : State) : exec (.dlgRing x) s = execDlgRing x s := rfl

theorem exec_dlgSumpcfg (x : XWord) (s : State) : exec (.dlgSumpcfg x) s = execDlgSumpcfg x s := rfl

theorem exec_hisCfg (x : XWord) (s : State) : exec (.hisCfg x) s = execHisCfg x s := rfl

theorem exec_hisCrop (x : XWord) (s : State) : exec (.hisCrop x) s = execHisCrop x s := rfl

theorem exec_cmpCfg (x : XWord) (s : State) : exec (.cmpCfg x) s = execCmpCfg x s := rfl

theorem exec_cmpFrame (x : XWord) (s : State) : exec (.cmpFrame x) s = execCmpFrame x s := rfl

theorem exec_ovsCfg (x : XWord) (s : State) : exec (.ovsCfg x) s = execOvsCfg x s := rfl

theorem exec_ovsCoef (x : XWord) (s : State) : exec (.ovsCoef x) s = execOvsCoef x s := rfl

theorem exec_ovsStart (x : XWord) (s : State) : exec (.ovsStart x) s = execOvsStart x s := rfl

theorem exec_ovsStop (x : XWord) (s : State) : exec (.ovsStop x) s = execOvsStop x s := rfl

theorem exec_dmcCfg (x : XWord) (s : State) : exec (.dmcCfg x) s = execDmcCfg x s := rfl

theorem exec_dmcTrain (x : XWord) (s : State) : exec (.dmcTrain x) s = execDmcTrain x s := rfl

theorem exec_dmcXormap (x : XWord) (s : State) : exec (.dmcXormap x) s = execDmcXormap x s := rfl

theorem exec_dmcSpare (x : XWord) (s : State) : exec (.dmcSpare x) s = execDmcSpare x s := rfl

theorem exec_dmcRetire (x : XWord) (s : State) : exec (.dmcRetire x) s = execDmcRetire x s := rfl

theorem exec_dmaLinear (x : XWord) (s : State) : exec (.dmaLinear x) s = execDmaLinear x s := rfl

theorem exec_dmaRect (x : XWord) (s : State) : exec (.dmaRect x) s = execDmaRect x s := rfl

theorem exec_dmaGather (x : XWord) (s : State) : exec (.dmaGather x) s = execDmaGather x s := rfl

theorem exec_dmaFill (x : XWord) (s : State) : exec (.dmaFill x) s = execDmaFill x s := rfl

theorem exec_dmaCompare (x : XWord) (s : State) : exec (.dmaCompare x) s = execDmaCompare x s := rfl

theorem exec_dmaFence (x : XWord) (s : State) : exec (.dmaFence x) s = execDmaFence x s := rfl

theorem exec_memMode (x : XWord) (s : State) : exec (.memMode x) s = execMemMode x s := rfl

theorem exec_memPower (x : XWord) (s : State) : exec (.memPower x) s = execMemPower x s := rfl

theorem exec_memRowstore (x : XWord) (s : State) : exec (.memRowstore x) s = execMemRowstore x s := rfl

theorem exec_hifMircfg (x : XWord) (s : State) : exec (.hifMircfg x) s = execHifMircfg x s := rfl

theorem exec_wlkNode (x : XWord) (s : State) : exec (.wlkNode x) s = execWlkNode x s := rfl

theorem exec_wlkRoute (x : XWord) (s : State) : exec (.wlkRoute x) s = execWlkRoute x s := rfl

theorem exec_wlkPort (x : XWord) (s : State) : exec (.wlkPort x) s = execWlkPort x s := rfl

theorem exec_wlkEdge (x : XWord) (s : State) : exec (.wlkEdge x) s = execWlkEdge x s := rfl

theorem exec_wlkFwd (x : XWord) (s : State) : exec (.wlkFwd x) s = execWlkFwd x s := rfl

theorem exec_wlkLease (x : XWord) (s : State) : exec (.wlkLease x) s = execWlkLease x s := rfl

theorem exec_tntInc (x : XWord) (s : State) : exec (.tntInc x) s = execTntInc x s := rfl

theorem exec_tntOffset (x : XWord) (s : State) : exec (.tntOffset x) s = execTntOffset x s := rfl

theorem exec_tntPtp (x : XWord) (s : State) : exec (.tntPtp x) s = execTntPtp x s := rfl

theorem exec_tntPps (x : XWord) (s : State) : exec (.tntPps x) s = execTntPps x s := rfl

theorem exec_evrChan (x : XWord) (s : State) : exec (.evrChan x) s = execEvrChan x s := rfl

theorem exec_evrTask (x : XWord) (s : State) : exec (.evrTask x) s = execEvrTask x s := rfl

theorem exec_evrGate (x : XWord) (s : State) : exec (.evrGate x) s = execEvrGate x s := rfl

theorem exec_twpCfg (x : XWord) (s : State) : exec (.twpCfg x) s = execTwpCfg x s := rfl

theorem exec_twpXfer (x : XWord) (s : State) : exec (.twpXfer x) s = execTwpXfer x s := rfl

theorem exec_pbaBudget (x : XWord) (s : State) : exec (.pbaBudget x) s = execPbaBudget x s := rfl

theorem exec_pbaVbounds (x : XWord) (s : State) : exec (.pbaVbounds x) s = execPbaVbounds x s := rfl

theorem exec_pbaTarget (x : XWord) (s : State) : exec (.pbaTarget x) s = execPbaTarget x s := rfl

theorem exec_pbaMonitor (x : XWord) (s : State) : exec (.pbaMonitor x) s = execPbaMonitor x s := rfl

theorem exec_pbaEmber (x : XWord) (s : State) : exec (.pbaEmber x) s = execPbaEmber x s := rfl

theorem exec_calRun (x : XWord) (s : State) : exec (.calRun x) s = execCalRun x s := rfl

theorem exec_calCfg (x : XWord) (s : State) : exec (.calCfg x) s = execCalCfg x s := rfl

theorem exec_calLimits (x : XWord) (s : State) : exec (.calLimits x) s = execCalLimits x s := rfl

theorem exec_pmuCntset (x : XWord) (s : State) : exec (.pmuCntset x) s = execPmuCntset x s := rfl

theorem exec_pmuSnap (x : XWord) (s : State) : exec (.pmuSnap x) s = execPmuSnap x s := rfl

theorem exec_pmuSnapFabric (x : XWord) (s : State) : exec (.pmuSnapFabric x) s = execPmuSnapFabric x s := rfl

theorem exec_pmuSampcfg (x : XWord) (s : State) : exec (.pmuSampcfg x) s = execPmuSampcfg x s := rfl

theorem exec_slcAdvance (x : XWord) (s : State) : exec (.slcAdvance x) s = execSlcAdvance x s := rfl

theorem exec_slcAdvanceFuses (x : XWord) (s : State) : exec (.slcAdvanceFuses x) s = execSlcAdvanceFuses x s := rfl

theorem exec_slcWipe (x : XWord) (s : State) : exec (.slcWipe x) s = execSlcWipe x s := rfl

theorem exec_slcKcopy (x : XWord) (s : State) : exec (.slcKcopy x) s = execSlcKcopy x s := rfl

theorem exec_streamedOpIssue (s : State) : exec (.streamedOpIssue) s = execStreamedOpIssue s := rfl

theorem exec_epochWaitResume (s : State) : exec (.epochWaitResume) s = execEpochWaitResume s := rfl

theorem exec_loadWaitResume (s : State) : exec (.loadWaitResume) s = execLoadWaitResume s := rfl

theorem exec_modelWaitResume (s : State) : exec (.modelWaitResume) s = execModelWaitResume s := rfl

theorem exec_ctrlPacketArrive (n : Nat) (s : State) : exec (.ctrlPacketArrive n) s = execCtrlPacketArrive n s := rfl

theorem exec_cutPacketArrive (n : Nat) (s : State) : exec (.cutPacketArrive n) s = execCutPacketArrive n s := rfl

theorem exec_gapPacketArrive (n : Nat) (s : State) : exec (.gapPacketArrive n) s = execGapPacketArrive n s := rfl

theorem exec_progressMarkArrive (unit : Nat) (s : State) : exec (.progressMarkArrive unit) s = execProgressMarkArrive unit s := rfl

theorem exec_stageTimeout (stage : Nat) (inst : Nat) (s : State) : exec (.stageTimeout stage inst) s = execStageTimeout stage inst s := rfl

theorem exec_sumpNoteReceive (a : Word) (b : Word) (c : Word) (d : Word) (n : Nat) (s : State) : exec (.sumpNoteReceive a b c d n) s = execSumpNoteReceive a b c d n s := rfl

theorem exec_sumpSpanClose (n : Nat) (s : State) : exec (.sumpSpanClose n) s = execSumpSpanClose n s := rfl

theorem exec_sumpSpanDeliver (n : Nat) (s : State) : exec (.sumpSpanDeliver n) s = execSumpSpanDeliver n s := rfl

theorem exec_totaliserReport (k : Nat) (s : State) : exec (.totaliserReport k) s = execTotaliserReport k s := rfl

theorem exec_laneWake (n : Nat) (s : State) : exec (.laneWake n) s = execLaneWake n s := rfl

theorem exec_signalDetect (n : Nat) (ctle : Nat) (s : State) : exec (.signalDetect n ctle) s = execSignalDetect n ctle s := rfl

theorem exec_blockLock (n : Nat) (s : State) : exec (.blockLock n) s = execBlockLock n s := rfl

theorem exec_lockLost (n : Nat) (s : State) : exec (.lockLost n) s = execLockLost n s := rfl

theorem exec_relockTimeout (n : Nat) (s : State) : exec (.relockTimeout n) s = execRelockTimeout n s := rfl

theorem exec_trainStepTimeout (n : Nat) (s : State) : exec (.trainStepTimeout n) s = execTrainStepTimeout n s := rfl

theorem exec_trainRetry (n : Nat) (s : State) : exec (.trainRetry n) s = execTrainRetry n s := rfl

theorem exec_hiberWindow (n : Nat) (bad : Nat) (s : State) : exec (.hiberWindow n bad) s = execHiberWindow n bad s := rfl

theorem exec_refMonitorWindow (g : Nat) (present : Bool) (ppb : Int) (s : State) : exec (.refMonitorWindow g present ppb) s = execRefMonitorWindow g present ppb s := rfl

theorem exec_skipReceive (n : Nat) (fill : Nat) (s : State) : exec (.skipReceive n fill) s = execSkipReceive n fill s := rfl

theorem exec_alignReceive (n : Nat) (hlane : Nat) (ctr : Nat) (spread : Nat) (s : State) : exec (.alignReceive n hlane ctr spread) s = execAlignReceive n hlane ctr spread s := rfl

theorem exec_alignTimeout (n : Nat) (s : State) : exec (.alignTimeout n) s = execAlignTimeout n s := rfl

theorem exec_prbsResync (n : Nat) (s : State) : exec (.prbsResync n) s = execPrbsResync n s := rfl

theorem exec_eyescanPointDone (n : Nat) (count : Nat) (s : State) : exec (.eyescanPointDone n count) s = execEyescanPointDone n count s := rfl

theorem exec_tapackReceive (n : Nat) (hlane : Nat) (rseq : Nat) (pre : TapAnswer) (main : TapAnswer) (post : TapAnswer) (better : Bool) (want : Nat) (s : State) : exec (.tapackReceive n hlane rseq pre main post better want) s = execTapackReceive n hlane rseq pre main post better want s := rfl

theorem exec_taptoExpiry (n : Nat) (s : State) : exec (.taptoExpiry n) s = execTaptoExpiry n s := rfl

theorem exec_rateChangeRetrain (h : Nat) (s : State) : exec (.rateChangeRetrain h) s = execRateChangeRetrain h s := rfl

theorem exec_lineStart (h : Nat) (trignum : Nat) (xset : Nat) (echo : Bool) (test : Bool) (len : Nat) (cline : Nat) (differ : Bool) (s : State) : exec (.lineStart h trignum xset echo test len cline differ) s = execLineStart h trignum xset echo test len cline differ s := rfl

theorem exec_dataColumn (h : Nat) (blocks : List (Option Word)) (s : State) : exec (.dataColumn h blocks) s = execDataColumn h blocks s := rfl

theorem exec_lineEnd (h : Nat) (crc : Nat) (cline : Nat) (differ : Bool) (s : State) : exec (.lineEnd h crc cline differ) s = execLineEnd h crc cline differ s := rfl

theorem exec_statusCmdrsp (h : Nat) (tag : Nat) (result : Nat) (data : Nat) (s : State) : exec (.statusCmdrsp h tag result data) s = execStatusCmdrsp h tag result data s := rfl

theorem exec_xsetackReceive (h : Nat) (set : Nat) (xtag : Nat) (result : Nat) (s : State) : exec (.xsetackReceive h set xtag result) s = execXsetackReceive h set xtag result s := rfl

theorem exec_camEvent (h : Nat) (code : Nat) (info : Nat) (s : State) : exec (.camEvent h code info) s = execCamEvent h code info s := rfl

theorem exec_statusUnknownSub (b : StatusBlock) (s : State) : exec (.statusUnknownSub b) s = execStatusUnknownSub b s := rfl

theorem exec_cmdtoExpiry (h : Nat) (s : State) : exec (.cmdtoExpiry h) s = execCmdtoExpiry h s := rfl

theorem exec_xsettoExpiry (h : Nat) (s : State) : exec (.xsettoExpiry h) s = execXsettoExpiry h s := rfl

theorem exec_headBringupRegs (h : Nat) (eslver : Nat) (caps : Nat) (maxlen : Nat) (dcam : Nat) (maxlrate : Nat) (layout : Nat) (answers : Nat) (s : State) : exec (.headBringupRegs h eslver caps maxlen dcam maxlrate layout answers) s = execHeadBringupRegs h eslver caps maxlen dcam maxlrate layout answers s := rfl

theorem exec_lineCompletionTimeout (h : Nat) (s : State) : exec (.lineCompletionTimeout h) s = execLineCompletionTimeout h s := rfl

theorem exec_triggerLineTimeout (h : Nat) (s : State) : exec (.triggerLineTimeout h) s = execTriggerLineTimeout h s := rfl

theorem exec_blktoExpiry (h : Nat) (k : Nat) (s : State) : exec (.blktoExpiry h k) s = execBlktoExpiry h k s := rfl

theorem exec_gapflExpiry (h : Nat) (s : State) : exec (.gapflExpiry h) s = execGapflExpiry h s := rfl

theorem exec_hauStopComplete (h : Nat) (s : State) : exec (.hauStopComplete h) s = execHauStopComplete h s := rfl

theorem exec_stripRun (l : Nat) (s : State) : exec (.stripRun l) s = execStripRun l s := rfl

theorem exec_encEdge (c : Nat) (a : Bool) (b : Bool) (s : State) : exec (.encEdge c a b) s = execEncEdge c a b s := rfl

theorem exec_wireFaultEnter (c : Nat) (pair : Nat) (s : State) : exec (.wireFaultEnter c pair) s = execWireFaultEnter c pair s := rfl

theorem exec_wireFaultExit (c : Nat) (pair : Nat) (level : Bool) (s : State) : exec (.wireFaultExit c pair level) s = execWireFaultExit c pair level s := rfl

theorem exec_illactClear (c : Nat) (s : State) : exec (.illactClear c) s = execIllactClear c s := rfl

theorem exec_indexEdge (c : Nat) (s : State) : exec (.indexEdge c) s = execIndexEdge c s := rfl

theorem exec_observerBoundCheck (s : State) : exec (.observerBoundCheck) s = execObserverBoundCheck s := rfl

theorem exec_ssiPoll (k : Nat) (low : Bool) (s : State) : exec (.ssiPoll k low) s = execSsiPoll k low s := rfl

theorem exec_ssiFrameEnd (k : Nat) (raw : Nat) (err : Bool) (s : State) : exec (.ssiFrameEnd k raw err) s = execSsiFrameEnd k raw err s := rfl

theorem exec_ssiNorespTimeout (k : Nat) (s : State) : exec (.ssiNorespTimeout k) s = execSsiNorespTimeout k s := rfl

theorem exec_probeEdge (p : Nat) (rising : Bool) (s : State) : exec (.probeEdge p rising) s = execProbeEdge p rising s := rfl

theorem exec_divStep (n : Nat) (s : State) : exec (.divStep n) s = execDivStep n s := rfl

theorem exec_wpSourceFault (s : State) : exec (.wpSourceFault) s = execWpSourceFault s := rfl

theorem exec_wpSourceRecover (s : State) : exec (.wpSourceRecover) s = execWpSourceRecover s := rfl

theorem exec_coastExpiry (s : State) : exec (.coastExpiry) s = execCoastExpiry s := rfl

theorem exec_triggerCommit (h : Nat) (t : Nat) (s : State) : exec (.triggerCommit h t) s = execTriggerCommit h t s := rfl

theorem exec_triggerIssue (h : Nat) (wait : Nat) (s : State) : exec (.triggerIssue h wait) s = execTriggerIssue h wait s := rfl

theorem exec_edgeTrigger (h : Nat) (s : State) : exec (.edgeTrigger h) s = execEdgeTrigger h s := rfl

theorem exec_trgPulseEnd (h : Nat) (s : State) : exec (.trgPulseEnd h) s = execTrgPulseEnd h s := rfl

theorem exec_markFire (m : Nat) (s : State) : exec (.markFire m) s = execMarkFire m s := rfl

theorem exec_markPulseEnd (m : Nat) (s : State) : exec (.markPulseEnd m) s = execMarkPulseEnd m s := rfl

theorem exec_stripAccept (l : Nat) (s : State) : exec (.stripAccept l) s = execStripAccept l s := rfl

theorem exec_viewRowForm (v : Nat) (s : State) : exec (.viewRowForm v) s = execViewRowForm v s := rfl

theorem exec_edgeExchangeReceive (p : Nat) (v : Nat) (right : Bool) (e : EdgeRow) (s : State) : exec (.edgeExchangeReceive p v right e) s = execEdgeExchangeReceive p v right e s := rfl

theorem exec_edgetoExpiry (v : Nat) (s : State) : exec (.edgetoExpiry v) s = execEdgetoExpiry v s := rfl

theorem exec_viewRowProcess (v : Nat) (s : State) : exec (.viewRowProcess v) s = execViewRowProcess v s := rfl

theorem exec_viewGapProcess (v : Nat) (s : State) : exec (.viewGapProcess v) s = execViewGapProcess v s := rfl

theorem exec_viewStopProcess (v : Nat) (s : State) : exec (.viewStopProcess v) s = execViewStopProcess v s := rfl

theorem exec_boundaryWordReceive (p : Nat) (v : Nat) (right : Bool) (n : Nat) (word : Nat) (s : State) : exec (.boundaryWordReceive p v right n word) s = execBoundaryWordReceive p v right n word s := rfl

theorem exec_boundaryWordTimeout (v : Nat) (right : Bool) (s : State) : exec (.boundaryWordTimeout v right) s = execBoundaryWordTimeout v right s := rfl

theorem exec_rtkRecordEnqueue (s : State) : exec (.rtkRecordEnqueue) s = execRtkRecordEnqueue s := rfl

theorem exec_recordClassify (s : State) : exec (.recordClassify) s = execRecordClassify s := rfl

theorem exec_ledgerRecordWrite (which : Nat) (s : State) : exec (.ledgerRecordWrite which) s = execLedgerRecordWrite which s := rfl

theorem exec_rd0HostCopy (s : State) : exec (.rd0HostCopy) s = execRd0HostCopy s := rfl

theorem exec_rd1Forward (s : State) : exec (.rd1Forward) s = execRd1Forward s := rfl

theorem exec_fwdAckReceive (p : Nat) (dseq : Nat) (s : State) : exec (.fwdAckReceive p dseq) s = execFwdAckReceive p dseq s := rfl

theorem exec_fwdTimeout (s : State) : exec (.fwdTimeout) s = execFwdTimeout s := rfl

theorem exec_forwardedRecordReceive (p : Nat) (ws : List Word) (s : State) : exec (.forwardedRecordReceive p ws) s = execForwardedRecordReceive p ws s := rfl

theorem exec_contactTableExpiry (s : State) : exec (.contactTableExpiry) s = execContactTableExpiry s := rfl

theorem exec_historyRowTake (h : Nat) (s : State) : exec (.historyRowTake h) s = execHistoryRowTake h s := rfl

theorem exec_hflushExpiry (h : Nat) (s : State) : exec (.hflushExpiry h) s = execHflushExpiry h s := rfl

theorem exec_frameCompress (h : Nat) (c : Nat) (s : State) : exec (.frameCompress h c) s = execFrameCompress h c s := rfl

theorem exec_frameWrite (h : Nat) (s : State) : exec (.frameWrite h) s = execFrameWrite h s := rfl

theorem exec_cropComplete (inst : Nat) (s : State) : exec (.cropComplete inst) s = execCropComplete inst s := rfl

theorem exec_cmpFrameComplete (k : Nat) (s : State) : exec (.cmpFrameComplete k) s = execCmpFrameComplete k s := rfl

theorem exec_compressorIdleRelease (c : Nat) (s : State) : exec (.compressorIdleRelease c) s = execCompressorIdleRelease c s := rfl

theorem exec_ovsSourceRow (k : Nat) (s : State) : exec (.ovsSourceRow k) s = execOvsSourceRow k s := rfl

theorem exec_ovsRowDeliver (k : Nat) (s : State) : exec (.ovsRowDeliver k) s = execOvsRowDeliver k s := rfl

theorem exec_ovsGapReceive (k : Nat) (s : State) : exec (.ovsGapReceive k) s = execOvsGapReceive k s := rfl

theorem exec_ovsStopComplete (k : Nat) (s : State) : exec (.ovsStopComplete k) s = execOvsStopComplete k s := rfl

theorem exec_inboundBulkReceive (p : Nat) (k : Nat) (ws : List Word) (s : State) : exec (.inboundBulkReceive p k ws) s = execInboundBulkReceive p k ws s := rfl

theorem exec_dmaDescriptorStart (c : Nat) (s : State) : exec (.dmaDescriptorStart c) s = execDmaDescriptorStart c s := rfl

theorem exec_dmaDescriptorComplete (c : Nat) (stop : Option (Nat × Nat)) (s : State) : exec (.dmaDescriptorComplete c stop) s = execDmaDescriptorComplete c stop s := rfl

theorem exec_dmaTimeout (c : Nat) (n : Nat) (s : State) : exec (.dmaTimeout c n) s = execDmaTimeout c n s := rfl

theorem exec_dmaFenceComplete (c : Nat) (s : State) : exec (.dmaFenceComplete c) s = execDmaFenceComplete c s := rfl

theorem exec_dramTrainingStart (c : Nat) (s : State) : exec (.dramTrainingStart c) s = execDramTrainingStart c s := rfl

theorem exec_dramTrainingEnd (c : Nat) (eyes : List Nat) (s : State) : exec (.dramTrainingEnd c eyes) s = execDramTrainingEnd c eyes s := rfl

theorem exec_periodicRetrain (c : Nat) (eyes : List Nat) (shift : Nat) (s : State) : exec (.periodicRetrain c eyes shift) s = execPeriodicRetrain c eyes shift s := rfl

theorem exec_dramParityError (c : Nat) (rank : Nat) (s : State) : exec (.dramParityError c rank) s = execDramParityError c rank s := rfl

theorem exec_rankMigrationDone (c : Nat) (s : State) : exec (.rankMigrationDone c) s = execRankMigrationDone c s := rfl

theorem exec_rankVerifyDone (c : Nat) (clean : Bool) (s : State) : exec (.rankVerifyDone c clean) s = execRankVerifyDone c clean s := rfl

theorem exec_bankBusyRetry (r : Nat) (n : Nat) (s : State) : exec (.bankBusyRetry r n) s = execBankBusyRetry r n s := rfl

theorem exec_cmddbWrite (v : Nat) (s : State) : exec (.cmddbWrite v) s = execCmddbWrite v s := rfl

theorem exec_commandStart (entry : List Word) (s : State) : exec (.commandStart entry) s = execCommandStart entry s := rfl

theorem exec_commandComplete (cseq : Nat) (s : State) : exec (.commandComplete cseq) s = execCommandComplete cseq s := rfl

theorem exec_completionEntryWrite (s : State) : exec (.completionEntryWrite) s = execCompletionEntryWrite s := rfl

theorem exec_producerWordWrite (ring : Nat) (s : State) : exec (.producerWordWrite ring) s = execProducerWordWrite ring s := rfl

theorem exec_mirrorRefresh (s : State) : exec (.mirrorRefresh) s = execMirrorRefresh s := rfl

theorem exec_cenWrite (m : Nat) (v : Word) (s : State) : exec (.cenWrite m v) s = execCenWrite m v s := rfl

theorem exec_ccconsWrite (m : Nat) (v : Word) (s : State) : exec (.ccconsWrite m v) s = execCcconsWrite m v s := rfl

theorem exec_hlconsWrite (m : Nat) (v : Word) (s : State) : exec (.hlconsWrite m v) s = execHlconsWrite m v s := rfl

theorem exec_menWrite (m : Nat) (v : Word) (s : State) : exec (.menWrite m v) s = execMenWrite m v s := rfl

theorem exec_bootdbWrite (len : Nat) (s : State) : exec (.bootdbWrite len) s = execBootdbWrite len s := rfl

theorem exec_resetkeyWrite (v : Nat) (s : State) : exec (.resetkeyWrite v) s = execResetkeyWrite v s := rfl

theorem exec_bar0Evfire (c : Nat) (s : State) : exec (.bar0Evfire c) s = execBar0Evfire c s := rfl

theorem exec_bar0RegWrite (off : Nat) (m : Nat) (v : Word) (s : State) : exec (.bar0RegWrite off m v) s = execBar0RegWrite off m v s := rfl

theorem exec_bar2Access (off : Nat) (n : Nat) (data : Option (List Byte)) (s : State) : exec (.bar2Access off n data) s = execBar2Access off n data s := rfl

theorem exec_functionLevelReset (s : State) : exec (.functionLevelReset) s = execFunctionLevelReset s := rfl

theorem exec_pcieReset (s : State) : exec (.pcieReset) s = execPcieReset s := rfl

theorem exec_helloSend (p : Nat) (s : State) : exec (.helloSend p) s = execHelloSend p s := rfl

theorem exec_helloReceive (p : Nat) (node : Nat) (holder : Nat) (term : Nat) (below : Bool) (s : State) : exec (.helloReceive p node holder term below) s = execHelloReceive p node holder term below s := rfl

theorem exec_delayMeasure (p : Nat) (trip : Nat) (far : Nat) (s : State) : exec (.delayMeasure p trip far) s = execDelayMeasure p trip far s := rfl

theorem exec_syncSend (s : State) : exec (.syncSend) s = execSyncSend s := rfl

theorem exec_syncReceive (p : Nat) (term : Nat) (epoch : Nat) (pos : Int) (spd : Int) (acc : Int) (valid : Bool) (coasting : Bool) (ptm : Nat) (corr : Nat) (s : State) : exec (.syncReceive p term epoch pos spd acc valid coasting ptm corr) s = execSyncReceive p term epoch pos spd acc valid coasting ptm corr s := rfl

theorem exec_pstoExpiry (s : State) : exec (.pstoExpiry) s = execPstoExpiry s := rfl

theorem exec_leaseRenewalSend (s : State) : exec (.leaseRenewalSend) s = execLeaseRenewalSend s := rfl

theorem exec_leaseRenewalReceive (p : Nat) (node : Nat) (term : Nat) (s : State) : exec (.leaseRenewalReceive p node term) s = execLeaseRenewalReceive p node term s := rfl

theorem exec_leaseAckReceive (p : Nat) (node : Nat) (term : Nat) (sent : Nat) (s : State) : exec (.leaseAckReceive p node term sent) s = execLeaseAckReceive p node term sent s := rfl

theorem exec_fabricLeaseExpiry (s : State) : exec (.fabricLeaseExpiry) s = execFabricLeaseExpiry s := rfl

theorem exec_candidateTimeout (s : State) : exec (.candidateTimeout) s = execCandidateTimeout s := rfl

theorem exec_termRequestReceive (p : Nat) (node : Nat) (term : Nat) (s : State) : exec (.termRequestReceive p node term) s = execTermRequestReceive p node term s := rfl

theorem exec_termGrantReceive (p : Nat) (node : Nat) (term : Nat) (s : State) : exec (.termGrantReceive p node term) s = execTermGrantReceive p node term s := rfl

theorem exec_cutAnnounceReceive (p : Nat) (term : Nat) (epoch : Nat) (dir : Nat) (pcut : Int) (s : State) : exec (.cutAnnounceReceive p term epoch dir pcut) s = execCutAnnounceReceive p term epoch dir pcut s := rfl

theorem exec_cutReplyReceive (p : Nat) (ack : Bool) (minpos : Option Int) (s : State) : exec (.cutReplyReceive p ack minpos) s = execCutReplyReceive p ack minpos s := rfl

theorem exec_cutSubtreeTimeout (p : Nat) (s : State) : exec (.cutSubtreeTimeout p) s = execCutSubtreeTimeout p s := rfl

theorem exec_cutMasterTimeout (s : State) : exec (.cutMasterTimeout) s = execCutMasterTimeout s := rfl

theorem exec_cutCommitReceive (p : Nat) (term : Nat) (epoch : Nat) (s : State) : exec (.cutCommitReceive p term epoch) s = execCutCommitReceive p term epoch s := rfl

theorem exec_cutCancelReceive (p : Nat) (term : Nat) (epoch : Nat) (s : State) : exec (.cutCancelReceive p term epoch) s = execCutCancelReceive p term epoch s := rfl

theorem exec_cutOrphanTimeout (s : State) : exec (.cutOrphanTimeout) s = execCutOrphanTimeout s := rfl

theorem exec_packetForward (p : Nat) (node : Nat) (hops : Nat) (s : State) : exec (.packetForward p node hops) s = execPacketForward p node hops s := rfl

theorem exec_fabricSnapRequestReceive (p : Nat) (term : Nat) (tsnap : Nat) (s : State) : exec (.fabricSnapRequestReceive p term tsnap) s = execFabricSnapRequestReceive p term tsnap s := rfl

theorem exec_tbrefFault (s : State) : exec (.tbrefFault) s = execTbrefFault s := rfl

theorem exec_ppsInEdge (falling : Bool) (s : State) : exec (.ppsInEdge falling) s = execPpsInEdge falling s := rfl

theorem exec_ppsOutFire (s : State) : exec (.ppsOutFire) s = execPpsOutFire s := rfl

theorem exec_ppsOutEnd (s : State) : exec (.ppsOutEnd) s = execPpsOutEnd s := rfl

theorem exec_ethFrameReceive (e : Nat) (frame : List Byte) (fcsOk : Bool) (s : State) : exec (.ethFrameReceive e frame fcsOk) s = execEthFrameReceive e frame fcsOk s := rfl

theorem exec_ethFrameTransmit (e : Nat) (s : State) : exec (.ethFrameTransmit e) s = execEthFrameTransmit e s := rfl

theorem exec_ethRingPoll (e : Nat) (s : State) : exec (.ethRingPoll e) s = execEthRingPoll e s := rfl

theorem exec_evioEdge (n : Nat) (level : Bool) (s : State) : exec (.evioEdge n level) s = execEvioEdge n level s := rfl

theorem exec_channelToken (c : Nat) (k : Nat) (s : State) : exec (.channelToken c k) s = execChannelToken c k s := rfl

theorem exec_taskInputToken (t : Nat) (s : State) : exec (.taskInputToken t) s = execTaskInputToken t s := rfl

theorem exec_activationStart (t : Nat) (s : State) : exec (.activationStart t) s = execActivationStart t s := rfl

theorem exec_activationEnd (t : Nat) (s : State) : exec (.activationEnd t) s = execActivationEnd t s := rfl

theorem exec_twXferComplete (p : Nat) (res : Nat) (nack : Nat) (data : List Byte) (s : State) : exec (.twXferComplete p res nack data) s = execTwXferComplete p res nack data s := rfl

theorem exec_targetStretchTimeout (p : Nat) (s : State) : exec (.targetStretchTimeout p) s = execTargetStretchTimeout p s := rfl

theorem exec_controllerSclTimeout (p : Nat) (low : Bool) (s : State) : exec (.controllerSclTimeout p low) s = execControllerSclTimeout p low s := rfl

theorem exec_stuckRecoveryRetry (p : Nat) (pulses : Nat) (s : State) : exec (.stuckRecoveryRetry p pulses) s = execStuckRecoveryRetry p pulses s := rfl

theorem exec_mboxWrite (ptr : Nat) (bs : List Byte) (s : State) : exec (.mboxWrite ptr bs) s = execMboxWrite ptr bs s := rfl

theorem exec_twTargetWrite (port : Nat) (ptr : Nat) (bs : List Byte) (s : State) : exec (.twTargetWrite port ptr bs) s = execTwTargetWrite port ptr bs s := rfl

theorem exec_tw3Dcmd (ptr : Nat) (bs : List Byte) (s : State) : exec (.tw3Dcmd ptr bs) s = execTw3Dcmd ptr bs s := rfl

theorem exec_tw0WakeMatch (s : State) : exec (.tw0WakeMatch) s = execTw0WakeMatch s := rfl

theorem exec_grantIssue (s : State) : exec (.grantIssue) s = execGrantIssue s := rfl

theorem exec_voltageLoopStep (rate : Nat) (s : State) : exec (.voltageLoopStep rate) s = execVoltageLoopStep rate s := rfl

theorem exec_vregRetry (s : State) : exec (.vregRetry) s = execVregRetry s := rfl

theorem exec_supplyWarningEnter (r : Nat) (s : State) : exec (.supplyWarningEnter r) s = execSupplyWarningEnter r s := rfl

theorem exec_supplyWarningExit (r : Nat) (vlow : Nat) (s : State) : exec (.supplyWarningExit r vlow) s = execSupplyWarningExit r vlow s := rfl

theorem exec_railBelowReset (r : Nat) (s : State) : exec (.railBelowReset r) s = execRailBelowReset r s := rfl

theorem exec_thermalWarning (temps : List Int) (s : State) : exec (.thermalWarning temps) s = execThermalWarning temps s := rfl

theorem exec_thermalShutdown (temps : List Int) (s : State) : exec (.thermalShutdown temps) s = execThermalShutdown temps s := rfl

theorem exec_thermalRelease (temps : List Int) (s : State) : exec (.thermalRelease temps) s = execThermalRelease temps s := rfl

theorem exec_emberWake (s : State) : exec (.emberWake) s = execEmberWake s := rfl

theorem exec_vauxPowerOn (s : State) : exec (.vauxPowerOn) s = execVauxPowerOn s := rfl

theorem exec_rstNAssert (s : State) : exec (.rstNAssert) s = execRstNAssert s := rfl

theorem exec_tamperDetect (s : State) : exec (.tamperDetect) s = execTamperDetect s := rfl

theorem exec_secureWipeEnd (good : Bool) (s : State) : exec (.secureWipeEnd good) s = execSecureWipeEnd good s := rfl

theorem exec_kindlingStart (sel : Nat) (port : Nat) (s : State) : exec (.kindlingStart sel port) s = execKindlingStart sel port s := rfl

theorem exec_imageLoadDone (err : Nat) (image : List Word) (s : State) : exec (.imageLoadDone err image) s = execImageLoadDone err image s := rfl

theorem exec_fabricBootTimeout (s : State) : exec (.fabricBootTimeout) s = execFabricBootTimeout s := rfl

theorem exec_kcopyComplete (s : State) : exec (.kcopyComplete) s = execKcopyComplete s := rfl

theorem exec_leaseRenewTick (s : State) : exec (.leaseRenewTick) s = execLeaseRenewTick s := rfl

theorem exec_seqAbdicate (cause : Nat) (s : State) : exec (.seqAbdicate cause) s = execSeqAbdicate cause s := rfl

theorem exec_seqLeaseExpiry (s : State) : exec (.seqLeaseExpiry) s = execSeqLeaseExpiry s := rfl

theorem exec_takeover (s : State) : exec (.takeover) s = execTakeover s := rfl

theorem exec_sqwdogExpiry (s : State) : exec (.sqwdogExpiry) s = execSqwdogExpiry s := rfl

theorem exec_seqPairSelftest (pass : Bool) (s : State) : exec (.seqPairSelftest pass) s = execSeqPairSelftest pass s := rfl

theorem exec_failover (u : Nat) (cause : Nat) (s : State) : exec (.failover u cause) s = execFailover u cause s := rfl

theorem exec_rpWatchdog (u : Nat) (s : State) : exec (.rpWatchdog u) s = execRpWatchdog u s := rfl

theorem exec_plannedRotation (l : Nat) (inn : Nat) (s : State) : exec (.plannedRotation l inn) s = execPlannedRotation l inn s := rfl

theorem exec_rotationHandover (l : Nat) (s : State) : exec (.rotationHandover l) s = execRotationHandover l s := rfl

theorem exec_selfTest (u : Nat) (found : TestFound) (margin : Nat) (move : Nat) (s : State) : exec (.selfTest u found margin move) s = execSelfTest u found margin move s := rfl

theorem exec_selfTestRetry (u : Nat) (s : State) : exec (.selfTestRetry u) s = execSelfTestRetry u s := rfl

theorem exec_cecntRateCheck (u : Nat) (n : Nat) (s : State) : exec (.cecntRateCheck u n) s = execCecntRateCheck u n s := rfl

theorem exec_canaryMarginLow (u : Nat) (margin : Nat) (s : State) : exec (.canaryMarginLow u margin) s = execCanaryMarginLow u margin s := rfl

theorem exec_calTargetRun (t : Nat) (q : Nat) (shift : Nat) (fine : Bool) (figs : List Int) (unit : Nat) (s : State) : exec (.calTargetRun t q shift fine figs unit) s = execCalTargetRun t q shift fine figs unit s := rfl

theorem exec_snapshotTake (s : State) : exec (.snapshotTake) s = execSnapshotTake s := rfl

theorem exec_sampleRecord (k : Nat) (stall : Nat) (iaddr : Nat) (iword : Word) (lat : Nat) (s : State) : exec (.sampleRecord k stall iaddr iword lat) s = execSampleRecord k stall iaddr iword lat s := rfl

theorem exec_eqAdaptDone (n : Nat) (goal : EqGoal) (want : Nat) (s : State) : exec (.eqAdaptDone n goal want) s = execEqAdaptDone n goal want s := rfl

theorem exec_eqBoundHold (n : Nat) (q : Nat) (v : Int) (s : State) : exec (.eqBoundHold n q v) s = execEqBoundHold n q v s := rfl

theorem exec_prbsError (n : Nat) (bits : Nat) (s : State) : exec (.prbsError n bits) s = execPrbsError n bits s := rfl

theorem exec_unknownTypeBlock (b : CtrlBlock) (s : State) : exec (.unknownTypeBlock b) s = execUnknownTypeBlock b s := rfl

theorem exec_codeCopyComplete (u : Nat) (s : State) : exec (.codeCopyComplete u) s = execCodeCopyComplete u s := rfl

theorem exec_modelCopyComplete (s : State) : exec (.modelCopyComplete) s = execModelCopyComplete s := rfl

theorem exec_twBusFree (p : Nat) (s : State) : exec (.twBusFree p) s = execTwBusFree p s := rfl

theorem exec_vcorePowerGood (s : State) : exec (.vcorePowerGood) s = execVcorePowerGood s := rfl

theorem exec_tamperEnd (s : State) : exec (.tamperEnd) s = execTamperEnd s := rfl

theorem exec_liveholdExpiry (src : Nat) (s : State) : exec (.liveholdExpiry src) s = execLiveholdExpiry src s := rfl

end Sys2Proof.Machine
end

