-- ==== Sys2Proof/Laws/Table.lean ====
section
/-!
SUPPORT. Sparse tables: reading what was written, and the canonical form that every operation keeps.
-/
namespace Sys2Proof.Machine

section
variable {α : Type} {d : Nat → α}

@[simp] theorem Tbl.get_nil (k : Nat) : Tbl.get d [] k = d k := rfl

@[simp] theorem Tbl.get_cons (a : Nat) (v : α) (m : Tbl α) (k : Nat) :
    Tbl.get d ((a, v) :: m) k = if a = k then v else Tbl.get d m k := rfl

theorem Tbl.get_ins_same (m : Tbl α) (k : Nat) (v : α) : Tbl.get d (Tbl.ins m k v) k = v := by
  induction m with
  | nil => simp [Tbl.ins]
  | cons e m ih =>
    obtain ⟨a, w⟩ := e
    unfold Tbl.ins
    split
    · simp [Tbl.get]
    · split
      · simp [Tbl.get]
      · simp_all [Tbl.get]

theorem Tbl.get_ins_ne (m : Tbl α) {k j : Nat} (v : α) (h : k ≠ j) : Tbl.get d (Tbl.ins m k v) j = Tbl.get d m j := by
  induction m with
  | nil => simp [Tbl.ins, Tbl.get, h]
  | cons e m ih =>
    obtain ⟨a, w⟩ := e
    unfold Tbl.ins
    split
    · subst_vars; simp [Tbl.get, h]
    · split
      · simp [Tbl.get, h]
      · simp [Tbl.get, ih]

theorem Tbl.get_erase_ne (m : Tbl α) {k j : Nat} (h : k ≠ j) : Tbl.get d (Tbl.erase m k) j = Tbl.get d m j := by
  induction m with
  | nil => rfl
  | cons e m ih =>
    obtain ⟨a, w⟩ := e
    unfold Tbl.erase
    split
    · subst_vars; simp [Tbl.get, h, ih]
    · simp [Tbl.get, ih]

theorem Tbl.get_erase_same (m : Tbl α) (k : Nat) : Tbl.get d (Tbl.erase m k) k = d k := by
  induction m with
  | nil => rfl
  | cons e m ih =>
    obtain ⟨a, w⟩ := e
    unfold Tbl.erase
    split
    · exact ih
    · simp_all [Tbl.get]

variable [DecidableEq α]

theorem Tbl.get_set_same (m : Tbl α) (k : Nat) (v : α) : Tbl.get d (Tbl.set d m k v) k = v := by
  unfold Tbl.set
  split
  · rw [Tbl.get_erase_same]; exact Eq.symm ‹_›
  · exact Tbl.get_ins_same m k v

theorem Tbl.get_set_ne (m : Tbl α) {k j : Nat} (v : α) (h : k ≠ j) : Tbl.get d (Tbl.set d m k v) j = Tbl.get d m j := by
  unfold Tbl.set
  split
  · exact Tbl.get_erase_ne m h
  · exact Tbl.get_ins_ne m v h

/-! ### The canonical form -/

theorem Tbl.wfFrom_cons {lo a : Nat} {v : α} {m : Tbl α} :
    Tbl.wfFrom d lo ((a, v) :: m) = true ↔ lo ≤ a ∧ v ≠ d a ∧ Tbl.wfFrom d (a + 1) m = true := by
  simp [Tbl.wfFrom, and_assoc]

theorem Tbl.wfFrom_mono {lo hi : Nat} {m : Tbl α} (h : Tbl.wfFrom d hi m = true) (le : lo ≤ hi) : Tbl.wfFrom d lo m = true := by
  cases m with
  | nil => rfl
  | cons e m =>
    obtain ⟨a, v⟩ := e
    rw [Tbl.wfFrom_cons] at h ⊢
    exact ⟨by omega, h.2⟩

theorem Tbl.wfFrom_filter {lo : Nat} {m : Tbl α} (p : Nat × α → Bool) (h : Tbl.wfFrom d lo m = true) :
    Tbl.wfFrom d lo (m.filter p) = true := by
  induction m generalizing lo with
  | nil => rfl
  | cons e m ih =>
    obtain ⟨a, v⟩ := e
    rw [Tbl.wfFrom_cons] at h
    by_cases hp : p (a, v) = true
    · rw [List.filter_cons_of_pos hp, Tbl.wfFrom_cons]
      exact ⟨h.1, h.2.1, ih h.2.2⟩
    · rw [List.filter_cons_of_neg hp]
      exact Tbl.wfFrom_mono (ih h.2.2) (by omega)

theorem Tbl.wfFrom_erase {lo : Nat} {m : Tbl α} {k : Nat} (h : Tbl.wfFrom d lo m = true) :
    Tbl.wfFrom d lo (Tbl.erase m k) = true := by
  induction m generalizing lo with
  | nil => rfl
  | cons e m ih =>
    obtain ⟨a, v⟩ := e
    rw [Tbl.wfFrom_cons] at h
    unfold Tbl.erase
    split
    · exact Tbl.wfFrom_mono (ih h.2.2) (by omega)
    · rw [Tbl.wfFrom_cons]; exact ⟨h.1, h.2.1, ih h.2.2⟩

theorem Tbl.wfFrom_ins {lo : Nat} {m : Tbl α} {k : Nat} {v : α} (hv : v ≠ d k) (hk : lo ≤ k) (h : Tbl.wfFrom d lo m = true) :
    Tbl.wfFrom d lo (Tbl.ins m k v) = true := by
  induction m generalizing lo with
  | nil => simp [Tbl.ins, Tbl.wfFrom, hv, hk]
  | cons e m ih =>
    obtain ⟨a, w⟩ := e
    rw [Tbl.wfFrom_cons] at h
    unfold Tbl.ins
    split
    · subst_vars; rw [Tbl.wfFrom_cons]; exact ⟨hk, hv, h.2.2⟩
    · split
      · rw [Tbl.wfFrom_cons, Tbl.wfFrom_cons]; exact ⟨hk, hv, by omega, h.2⟩
      · rw [Tbl.wfFrom_cons]; exact ⟨h.1, h.2.1, ih (by omega) h.2.2⟩

theorem Tbl.wf_set {m : Tbl α} {k : Nat} {v : α} (h : Tbl.wf d m = true) : Tbl.wf d (Tbl.set d m k v) = true := by
  unfold Tbl.set
  split
  · exact Tbl.wfFrom_erase h
  · exact Tbl.wfFrom_ins ‹_› (Nat.zero_le _) h

theorem Tbl.wf_filter {m : Tbl α} {p : Nat × α → Bool} (h : Tbl.wf d m = true) : Tbl.wf d (m.filter p) = true :=
  Tbl.wfFrom_filter p h

theorem Tbl.wf_keep {m : Tbl α} {p : Nat → Bool} (h : Tbl.wf d m = true) : Tbl.wf d (Tbl.keep p m) = true :=
  Tbl.wfFrom_filter _ h

end

end Sys2Proof.Machine
end

