-- ==== Sys2Proof/Laws/Law.lean ====
section
/-!
SUPPORT. What a function over the state can change, said once for every function: `Law P Q` says that Q survives every
elementary update of a part that P allows; the files beside this one hold one lemma for each function of the model.
-/
namespace Sys2Proof.Machine

/-- Q does not depend on any part of the state that P allows to change. -/
structure Law (P : Part → Prop) (Q : State → Prop) : Prop where
  word : ∀ {s : State} {a : Nat} {x : Word}, P (partOf a) → Q s → Q (s.setWord a x)
  byte : ∀ {s : State} {a : Nat} {x : Byte}, P .mem → Q s → Q (s.setByte a x)
  cut : ∀ {s : State} {p : Nat → Bool}, P .mem → Q s → Q { s with mem := Tbl.keep p s.mem }
  drop : ∀ {s : State}, P (.grp 23) → Q s → Q { s with regs := s.regs.filter fun e => !decide (0x20174000 ≤ e.1 ∧ e.1 < 0x20176000) }
  anew : ∀ {s t : State}, P .reset → t.pending = s.pending → (s.canonical → t.canonical) → Q s → Q t
  poison : ∀ {s : State} {x}, P .poison → Q s → Q { s with poison := x }
  free : ∀ {s : State} {x}, P .free → Q s → Q { s with free := x }
  procs : ∀ {s : State} {x}, P .procs → Q s → Q { s with procs := x }
  seq : ∀ {s : State} {x}, P .seq → Q s → Q { s with seq := x }
  transit : ∀ {s : State} {x}, P .transit → Q s → Q { s with transit := x }
  held : ∀ {s : State} {x}, P .held → Q s → Q { s with held := x }
  progress : ∀ {s : State} {x}, P .progress → Q s → Q { s with progress := x }
  gaps : ∀ {s : State} {x}, P .gaps → Q s → Q { s with gaps := x }
  sump : ∀ {s : State} {x}, P .sump → Q s → Q { s with sump := x }
  malformed : ∀ {s : State} {x}, P .malformed → Q s → Q { s with malformed := x }
  tokens : ∀ {s : State} {x}, P .tokens → Q s → Q { s with tokens := x }
  rpa : ∀ {s : State} {x}, P .rpa → Q s → Q { s with rpa := x }
  damper : ∀ {s : State} {x}, P .damper → Q s → Q { s with damper := x }
  lanes : ∀ {s : State} {x}, P .lanes → Q s → Q { s with lanes := x }
  goodWin : ∀ {s : State} {x}, P .goodWin → Q s → Q { s with goodWin := x }
  bonded : ∀ {s : State} {x}, P .bonded → Q s → Q { s with bonded := x }
  heads : ∀ {s : State} {x}, P .heads → Q s → Q { s with heads := x }
  cuts : ∀ {s : State} {x}, P .cuts → Q s → Q { s with cuts := x }
  cutPkts : ∀ {s : State} {x}, P .cutPkts → Q s → Q { s with cutPkts := x }
  enc : ∀ {s : State} {x}, P .enc → Q s → Q { s with enc := x }
  ssi : ∀ {s : State} {x}, P .ssi → Q s → Q { s with ssi := x }
  probes : ∀ {s : State} {x}, P .probes → Q s → Q { s with probes := x }
  divs : ∀ {s : State} {x}, P .divs → Q s → Q { s with divs := x }
  pfuTick : ∀ {s : State} {x}, P .pfuTick → Q s → Q { s with pfuTick := x }
  web : ∀ {s : State} {x}, P .web → Q s → Q { s with web := x }
  marks : ∀ {s : State} {x}, P .marks → Q s → Q { s with marks := x }
  markPins : ∀ {s : State} {x}, P .markPins → Q s → Q { s with markPins := x }
  tes : ∀ {s : State} {x}, P .tes → Q s → Q { s with tes := x }
  views : ∀ {s : State} {x}, P .views → Q s → Q { s with views := x }
  store : ∀ {s : State} {x}, P .store → Q s → Q { s with store := x }
  strips : ∀ {s : State} {x}, P .strips → Q s → Q { s with strips := x }
  commits : ∀ {s : State} {x}, P .commits → Q s → Q { s with commits := x }
  recs : ∀ {s : State} {x}, P .recs → Q s → Q { s with recs := x }
  dlg : ∀ {s : State} {x}, P .dlg → Q s → Q { s with dlg := x }
  his : ∀ {s : State} {x}, P .his → Q s → Q { s with his := x }
  ovs : ∀ {s : State} {x}, P .ovs → Q s → Q { s with ovs := x }
  dmc : ∀ {s : State} {x}, P .dmc → Q s → Q { s with dmc := x }
  dma : ∀ {s : State} {x}, P .dma → Q s → Q { s with dma := x }
  hif : ∀ {s : State} {x}, P .hif → Q s → Q { s with hif := x }
  wlk : ∀ {s : State} {x}, P .wlk → Q s → Q { s with wlk := x }
  sent : ∀ {s : State} {x}, P .sent → Q s → Q { s with sent := x }
  tnt : ∀ {s : State} {x}, P .tnt → Q s → Q { s with tnt := x }
  dep : ∀ {s : State} {x}, P .dep → Q s → Q { s with dep := x }
  power : ∀ {s : State} {x}, P .power → Q s → Q { s with power := x }
  evr : ∀ {s : State} {x}, P .evr → Q s → Q { s with evr := x }
  tw : ∀ {s : State} {x}, P .tw → Q s → Q { s with tw := x }
  snap : ∀ {s : State} {x}, P .snap → Q s → Q { s with snap := x }
  sampled : ∀ {s : State} {x}, P .sampled → Q s → Q { s with sampled := x }

theorem Law.mono {P R : Part → Prop} {Q : State → Prop} (h : Law P Q) (hr : ∀ p, R p → P p) : Law R Q :=
  { word := fun hp => h.word (hr _ hp), byte := fun hp => h.byte (hr _ hp), cut := fun hp => h.cut (hr _ hp),
    drop := fun hp => h.drop (hr _ hp), anew := fun hp => h.anew (hr _ hp),
    poison := fun hp => h.poison (hr _ hp),
    free := fun hp => h.free (hr _ hp),
    procs := fun hp => h.procs (hr _ hp),
    seq := fun hp => h.seq (hr _ hp),
    transit := fun hp => h.transit (hr _ hp),
    held := fun hp => h.held (hr _ hp),
    progress := fun hp => h.progress (hr _ hp),
    gaps := fun hp => h.gaps (hr _ hp),
    sump := fun hp => h.sump (hr _ hp),
    malformed := fun hp => h.malformed (hr _ hp),
    tokens := fun hp => h.tokens (hr _ hp),
    rpa := fun hp => h.rpa (hr _ hp),
    damper := fun hp => h.damper (hr _ hp),
    lanes := fun hp => h.lanes (hr _ hp),
    goodWin := fun hp => h.goodWin (hr _ hp),
    bonded := fun hp => h.bonded (hr _ hp),
    heads := fun hp => h.heads (hr _ hp),
    cuts := fun hp => h.cuts (hr _ hp),
    cutPkts := fun hp => h.cutPkts (hr _ hp),
    enc := fun hp => h.enc (hr _ hp),
    ssi := fun hp => h.ssi (hr _ hp),
    probes := fun hp => h.probes (hr _ hp),
    divs := fun hp => h.divs (hr _ hp),
    pfuTick := fun hp => h.pfuTick (hr _ hp),
    web := fun hp => h.web (hr _ hp),
    marks := fun hp => h.marks (hr _ hp),
    markPins := fun hp => h.markPins (hr _ hp),
    tes := fun hp => h.tes (hr _ hp),
    views := fun hp => h.views (hr _ hp),
    store := fun hp => h.store (hr _ hp),
    strips := fun hp => h.strips (hr _ hp),
    commits := fun hp => h.commits (hr _ hp),
    recs := fun hp => h.recs (hr _ hp),
    dlg := fun hp => h.dlg (hr _ hp),
    his := fun hp => h.his (hr _ hp),
    ovs := fun hp => h.ovs (hr _ hp),
    dmc := fun hp => h.dmc (hr _ hp),
    dma := fun hp => h.dma (hr _ hp),
    hif := fun hp => h.hif (hr _ hp),
    wlk := fun hp => h.wlk (hr _ hp),
    sent := fun hp => h.sent (hr _ hp),
    tnt := fun hp => h.tnt (hr _ hp),
    dep := fun hp => h.dep (hr _ hp),
    power := fun hp => h.power (hr _ hp),
    evr := fun hp => h.evr (hr _ hp),
    tw := fun hp => h.tw (hr _ hp),
    snap := fun hp => h.snap (hr _ hp),
    sampled := fun hp => h.sampled (hr _ hp) }

/-! ### Groups of fields -/

/-- The group of a field's words. -/
def Field.group (f : Field) : Nat := groupOf f.base

/-- Byte address of the last word of a field. -/
def Field.last (f : Field) : Nat := f.word (f.n1 - 1) (f.n2 - 1)

/-- The words of a field lie in one group. -/
def Field.fits (f : Field) : Bool := f.group == groupOf f.last

theorem groupOf_cases (a : Nat) :
    (a < 0x20170000 ∧ groupOf a = (a - 0x20000000) / 65536) ∨ (0x20170000 ≤ a ∧ a < 0x20172000 ∧ groupOf a = 64) ∨
    (0x20172000 ≤ a ∧ a < 0x20400000 ∧ groupOf a = (a - 0x20000000) / 65536) ∨
    (0x20400000 ≤ a ∧ a < 0x1000000000000 ∧ groupOf a = 67) ∨
    (0x1000000000000 ≤ a ∧ a < 0x1000100000000 ∧ groupOf a = 65) ∨ (0x1000100000000 ≤ a ∧ groupOf a = 66) := by
  unfold groupOf
  split
  · exact .inl ⟨‹_›, rfl⟩
  split
  · exact .inr (.inl ⟨by omega, ‹_›, rfl⟩)
  split
  · exact .inr (.inr (.inl ⟨by omega, ‹_›, rfl⟩))
  split
  · exact .inr (.inr (.inr (.inl ⟨by omega, ‹_›, rfl⟩)))
  split
  · exact .inr (.inr (.inr (.inr (.inl ⟨by omega, ‹_›, rfl⟩))))
  · exact .inr (.inr (.inr (.inr (.inr ⟨by omega, rfl⟩))))

/-- Each group is an interval of addresses. -/
theorem groupOf_between {a b c : Nat} (h : groupOf a = groupOf c) (ab : a ≤ b) (bc : b ≤ c) : groupOf b = groupOf a := by
  rcases groupOf_cases a with h1 | h1 | h1 | h1 | h1 | h1 <;> rcases groupOf_cases c with h2 | h2 | h2 | h2 | h2 | h2 <;>
    first
    | omega
    | (rcases groupOf_cases b with h3 | h3 | h3 | h3 | h3 | h3 <;> omega)

theorem Field.group_word {f : Field} {i j : Nat} (hf : f.fits = true) (h : f.has i j = true) :
    groupOf (f.word i j) = f.group := by
  simp only [Field.has, decide_eq_true_eq] at h
  have h1 : f.s1 * i ≤ f.s1 * (f.n1 - 1) := Nat.mul_le_mul_left _ (by omega)
  have h2 : f.s2 * j ≤ f.s2 * (f.n2 - 1) := Nat.mul_le_mul_left _ (by omega)
  have h3 : j * f.ew / 64 ≤ (f.n2 - 1) * f.ew / 64 := Nat.div_le_div_right (Nat.mul_le_mul_right _ (by omega))
  refine groupOf_between (c := f.last) (by simpa [Field.fits, Field.group] using hf) ?_ ?_
  · simp only [Field.word]; omega
  · simp only [Field.last, Field.word]; split <;> omega

/-- Bytes that a field takes within one instance of its block, above its first word. -/
def Field.span (f : Field) : Nat := if f.ew = 0 then f.s2 * (f.n2 - 1) else 8 * ((f.n2 - 1) * f.ew / 64)

/-- The field lies in a block of several instances, instance i of it in instance i. -/
def Field.inArr (f : Field) (k : Arr) : Bool :=
  decide (k.lo ≤ f.base ∧ f.base + f.span < k.lo + k.stride ∧ f.s1 = k.stride ∧ f.n1 ≤ k.count)

/-- The field lies in no block of several instances. -/
def Field.outside (f : Field) : Bool :=
  f.fits && (arrsOf f.group).all fun k => decide (f.last < k.lo ∨ k.lo + k.stride * k.count ≤ f.base)

theorem Arr.group_eq (k : Arr) : groupOf k.lo = groupOf (k.lo + k.stride * k.count - 1) := by cases k <;> decide

theorem Arr.group_holds {k : Arr} {a : Nat} (h : k.holds a = true) : groupOf a = groupOf k.lo := by
  simp only [Arr.holds, decide_eq_true_eq] at h
  exact groupOf_between k.group_eq h.1 (by omega)

theorem Arr.find_apart {k : Arr} {a : Nat} (h : k.holds a = true) {l : List Arr} (hk : k ∈ l)
    (hd : ∀ m ∈ l, m = k ∨ m.lo + m.stride * m.count ≤ k.lo ∨ k.lo + k.stride * k.count ≤ m.lo) :
    (l.find? fun k => k.holds a) = some k := by
  induction l with
  | nil => cases hk
  | cons m l ih =>
    rw [List.find?_cons]
    split
    · next hm =>
      rcases hd m (.head _) with e | e
      · rw [e]
      · simp only [Arr.holds, decide_eq_true_eq] at h hm; omega
    · next hm =>
      cases hk with
      | head => rw [h] at hm; cases hm
      | tail _ hk => exact ih hk fun m hm => hd m (.tail _ hm)

theorem Arr.find_holds {k : Arr} {a : Nat} (h : k.holds a = true) :
    ((arrsOf (groupOf k.lo)).find? fun k => k.holds a) = some k :=
  Arr.find_apart h (by cases k <;> decide) (by cases k <;> decide)

theorem partOf_one {k : Arr} {a : Nat} (h : k.holds a = true) : partOf a = .one k ((a - k.lo) / k.stride) := by
  unfold partOf
  rw [Arr.group_holds h, Arr.find_holds h]

theorem Field.word_le {f : Field} {i j : Nat} (h : f.has i j = true) : f.word i j ≤ f.base + f.s1 * i + f.span := by
  simp only [Field.has, decide_eq_true_eq] at h
  have h2 : f.s2 * j ≤ f.s2 * (f.n2 - 1) := Nat.mul_le_mul_left _ (by omega)
  have h3 : j * f.ew / 64 ≤ (f.n2 - 1) * f.ew / 64 := Nat.div_le_div_right (Nat.mul_le_mul_right _ (by omega))
  unfold Field.word Field.span
  split <;> omega

theorem Field.le_word {f : Field} {i j : Nat} : f.base + f.s1 * i ≤ f.word i j := by
  unfold Field.word; omega

theorem Field.part_inArr {f : Field} {k : Arr} {i j : Nat} (hf : f.inArr k = true) (h : f.has i j = true) :
    partOf (f.word i j) = .one k i := by
  have h1 := Field.word_le h
  have h2 := f.le_word (i := i) (j := j)
  simp only [Field.inArr, decide_eq_true_eq] at hf
  simp only [Field.has, decide_eq_true_eq] at h
  obtain ⟨a, b, c, d⟩ := hf
  rw [c] at h1 h2
  have h3 : k.stride * (i + 1) ≤ k.stride * k.count := Nat.mul_le_mul_left _ (by omega)
  rw [Nat.mul_succ] at h3
  have hh : k.holds (f.word i j) = true := by
    simp only [Arr.holds, decide_eq_true_eq]
    omega
  rw [partOf_one hh]
  congr 1
  have hs : 0 < k.stride := by cases k <;> decide
  have : f.word i j - k.lo = (f.word i j - k.lo - k.stride * i) + k.stride * i := by omega
  rw [this, Nat.add_mul_div_left _ _ hs, Nat.div_eq_of_lt (by omega), Nat.zero_add]

theorem Field.part_outside {f : Field} {i j : Nat} (hf : f.outside = true) (h : f.has i j = true) :
    partOf (f.word i j) = .grp f.group := by
  simp only [Field.outside, Bool.and_eq_true, List.all_eq_true, decide_eq_true_eq] at hf
  have hg := Field.group_word hf.1 h
  unfold partOf
  rw [hg]
  have hn : ((arrsOf f.group).find? fun k => k.holds (f.word i j)) = none := by
    rw [List.find?_eq_none]
    intro k hk
    have h4 := hf.2 k hk
    have h1 : f.base ≤ f.word i j := by unfold Field.word; omega
    have h2 : f.word i j ≤ f.last := by
      simp only [Field.has, decide_eq_true_eq] at h
      have a1 : f.s1 * i ≤ f.s1 * (f.n1 - 1) := Nat.mul_le_mul_left _ (by omega)
      have a2 : f.s2 * j ≤ f.s2 * (f.n2 - 1) := Nat.mul_le_mul_left _ (by omega)
      have a3 : j * f.ew / 64 ≤ (f.n2 - 1) * f.ew / 64 := Nat.div_le_div_right (Nat.mul_le_mul_right _ (by omega))
      simp only [Field.last, Field.word]; split <;> omega
    simp only [Arr.holds, decide_eq_true_eq]
    omega
  rw [hn]

/-! ### Allowed parts -/

/-- P allows a part; with every instance of a block it allows each. -/
def Allows (P : Part → Prop) : Part → Prop
  | .all k => P (.all k) ∧ ∀ i, P (.one k i)
  | p => P p

/-- P allows every part of a list. -/
def Has (P : Part → Prop) (B : List Part) : Prop := ∀ p ∈ B, Allows P p

/-- Every part of a is one of b. -/
def covered (a b : List Part) : Bool := a.all fun p => b.contains p

theorem Allows.self {P : Part → Prop} {p : Part} (h : Allows P p) : P p := by
  cases p <;> first | exact h | exact h.1

theorem Has.sub {P : Part → Prop} {a b : List Part} (h : Has P b) (hs : covered a b = true) : Has P a := by
  intro p hp
  have := List.all_eq_true.mp hs p hp
  exact h p (by simpa using this)

theorem Has.one {P : Part → Prop} {b : List Part} (h : Has P b) (p : Part) (hs : b.contains p = true) : P p :=
  (h p (by simpa using hs)).self

theorem Has.inst {P : Part → Prop} {b : List Part} (h : Has P b) {k : Arr} {i : Nat} (hs : b.contains (.all k) = true) : P (.one k i) :=
  (h (.all k) (by simpa using hs)).2 i

theorem Has.every {P : Part → Prop} (hP : ∀ p, P p) (B : List Part) : Has P B := by
  intro p _
  cases p <;> first | exact hP _ | exact ⟨hP _, fun _ => hP _⟩

theorem Has.covers {B l : List Part} (h : covered B l = true) : Has (Covers l) B := by
  intro p hp
  have hm : p ∈ l := by simpa using List.all_eq_true.mp h p hp
  cases p <;> first | exact hm | exact .inl hm | exact ⟨hm, fun _ => .inr hm⟩

theorem Covers.one {l : List Part} {k : Arr} {i : Nat} (h : .one k i ∈ l) : Covers l (.one k i) := .inl h

/-- The block that a field lies in. -/
def Field.arr (f : Field) : Option Arr := (arrsOf f.group).find? fun k => f.inArr k

/-- A field whose part the list names. -/
def Field.okIn (f : Field) (B : List Part) : Bool :=
  match f.arr with
  | some k => f.inArr k && B.contains (.all k)
  | none => f.outside && B.contains (.grp f.group)

/-- A field of a block of several instances, or one whose part the list names. -/
def Field.okAt (f : Field) (B : List Part) (k : Arr) : Bool := f.inArr k || f.okIn B

variable {P : Part → Prop} {Q : State → Prop} {B : List Part}

theorem Has.field {f : Field} {i j : Nat} (hP : Has P B) (hf : f.okIn B = true) (h : f.has i j = true) : P (partOf (f.word i j)) := by
  unfold Field.okIn at hf
  split at hf
  · rw [Bool.and_eq_true] at hf
    rw [Field.part_inArr hf.1 h]
    exact hP.inst hf.2
  · rw [Bool.and_eq_true] at hf
    rw [Field.part_outside hf.1 h]
    exact hP.one _ hf.2

theorem Has.fieldAt {f : Field} {k : Arr} {i j : Nat} (hP : Has P B) (hi : P (.one k i)) (hf : f.okAt B k = true)
    (h : f.has i j = true) : P (partOf (f.word i j)) := by
  unfold Field.okAt at hf
  rw [Bool.or_eq_true] at hf
  rcases hf with hf | hf
  · rw [Field.part_inArr hf h]; exact hi
  · exact hP.field hf h

theorem Law.renew (hQ : Law P Q) (hr : P .reset) {s t : State} (hp : t.pending = s.pending)
    (h1 : ∃ p, t.regs = Tbl.keep p s.regs) (h2 : ∃ p, t.mem = Tbl.keep p s.mem) (h : Q s) : Q t := by
  obtain ⟨p, h1⟩ := h1
  obtain ⟨q, h2⟩ := h2
  refine hQ.anew hr hp (fun hc => ?_) h
  unfold State.canonical Memory.wf
  rw [h1, h2]
  exact ⟨Tbl.wf_keep hc.1, Tbl.wf_keep hc.2⟩

theorem Law.wr2 (hQ : Law P Q) (hP : Has P B) {s : State} {f : Field} {i : Nat} {j v : Nat} (hf : f.okIn B = true) (h : Q s) :
    Q (s.wr2 f i j v) := by
  unfold State.wr2
  split
  · exact hQ.word (hP.field hf ‹_›) h
  · exact h

theorem Law.putWord (hQ : Law P Q) (hP : Has P B) {s : State} {f : Field} {i : Nat} {j : Nat} {x : Word} (hf : f.okIn B = true) (h : Q s) :
    Q (s.putWord f i j x) := by
  unfold State.putWord
  split
  · exact hQ.word (hP.field hf ‹_›) h
  · exact h

theorem Law.wr (hQ : Law P Q) (hP : Has P B) {s : State} {f : Field} {i : Nat} {v : Nat} (hf : f.okIn B = true) (h : Q s) :
    Q (s.wr f i v) := hQ.wr2 hP hf h

theorem Law.wrI (hQ : Law P Q) (hP : Has P B) {s : State} {f : Field} {i : Nat} {v : Int} (hf : f.okIn B = true) (h : Q s) :
    Q (s.wrI f i v) := hQ.wr2 hP hf h

theorem Law.sat (hQ : Law P Q) (hP : Has P B) {s : State} {f : Field} {i : Nat} {n : Nat} (hf : f.okIn B = true) (h : Q s) :
    Q (s.sat f i n) := hQ.wr2 hP hf h

theorem Law.sat2 (hQ : Law P Q) (hP : Has P B) {s : State} {f : Field} {i : Nat} {j n : Nat} (hf : f.okIn B = true) (h : Q s) :
    Q (s.sat2 f i j n) := hQ.wr2 hP hf h

theorem Law.wrap (hQ : Law P Q) (hP : Has P B) {s : State} {f : Field} {i : Nat} {n : Nat} (hf : f.okIn B = true) (h : Q s) :
    Q (s.wrap f i n) := hQ.wr2 hP hf h

theorem Law.dec (hQ : Law P Q) (hP : Has P B) {s : State} {f : Field} {i : Nat} {n : Nat} (hf : f.okIn B = true) (h : Q s) :
    Q (s.dec f i n) := hQ.wr2 hP hf h

theorem Law.wrAll (hQ : Law P Q) (hP : Has P B) {i : Nat} {l : List (Field × Nat)} (hf : (l.all fun e => e.1.okIn B) = true)
    {s : State} (h : Q s) : Q (s.wrAll i l) := by
  induction l generalizing s with
  | nil => exact h
  | cons e l ih =>
    simp only [List.all_cons, Bool.and_eq_true] at hf
    exact ih hf.2 (hQ.wr hP hf.1 h)

theorem Law.clr (hQ : Law P Q) (hP : Has P B) {i : Nat} {l : List Field} (hf : (l.all fun f => f.okIn B) = true)
    {s : State} (h : Q s) : Q (s.clr i l) := by
  induction l generalizing s with
  | nil => exact h
  | cons e l ih =>
    simp only [List.all_cons, Bool.and_eq_true] at hf
    exact ih hf.2 (hQ.wr hP hf.1 h)

theorem Law.clrRow (hQ : Law P Q) (hP : Has P B) {i : Nat} {f : Field} (hf : f.okIn B = true) {s : State} {n : Nat} (h : Q s) :
    Q (s.clrRow f i n) := by
  induction n generalizing s with
  | zero => exact h
  | succ n ih => exact ih (hQ.wr2 hP hf h)

theorem Law.blockWrite (hQ : Law P Q) (hP : Has P B) {i : Nat} {l : List Field} (hf : (l.all fun f => f.okIn B) = true)
    {s : State} {b j : Nat} {a : XArgs} (h : Q s) : Q (Machine.blockWrite b a i j l s) := by
  induction l generalizing s with
  | nil => exact h
  | cons f l ih =>
    simp only [List.all_cons, Bool.and_eq_true] at hf
    refine ih hf.2 ?_
    split
    · exact hQ.wr2 hP hf.1 h
    · exact h

theorem Law.setFrom (hQ : Law P Q) (hP : Has P B) {i : Nat} {l : List (Nat × Field)} (hf : (l.all fun e => e.2.okIn B) = true)
    {s : State} {a : XArgs} (h : Q s) : Q (Machine.setFrom a i l s) := by
  induction l generalizing s with
  | nil => exact h
  | cons f l ih =>
    simp only [List.all_cons, Bool.and_eq_true] at hf
    refine ih hf.2 ?_
    split
    · exact hQ.wr hP hf.1 h
    · exact h

theorem Law.wr2At (hQ : Law P Q) (hP : Has P B) {k : Arr} {i : Nat} (hi : P (.one k i)) {s : State} {f : Field} {j v : Nat} (hf : f.okAt B k = true) (h : Q s) :
    Q (s.wr2 f i j v) := by
  unfold State.wr2
  split
  · exact hQ.word (hP.fieldAt hi hf ‹_›) h
  · exact h

theorem Law.putWordAt (hQ : Law P Q) (hP : Has P B) {k : Arr} {i : Nat} (hi : P (.one k i)) {s : State} {f : Field} {j : Nat} {x : Word} (hf : f.okAt B k = true) (h : Q s) :
    Q (s.putWord f i j x) := by
  unfold State.putWord
  split
  · exact hQ.word (hP.fieldAt hi hf ‹_›) h
  · exact h

theorem Law.wrAt (hQ : Law P Q) (hP : Has P B) {k : Arr} {i : Nat} (hi : P (.one k i)) {s : State} {f : Field} {v : Nat} (hf : f.okAt B k = true) (h : Q s) :
    Q (s.wr f i v) := hQ.wr2At hP hi hf h

theorem Law.wrIAt (hQ : Law P Q) (hP : Has P B) {k : Arr} {i : Nat} (hi : P (.one k i)) {s : State} {f : Field} {v : Int} (hf : f.okAt B k = true) (h : Q s) :
    Q (s.wrI f i v) := hQ.wr2At hP hi hf h

theorem Law.satAt (hQ : Law P Q) (hP : Has P B) {k : Arr} {i : Nat} (hi : P (.one k i)) {s : State} {f : Field} {n : Nat} (hf : f.okAt B k = true) (h : Q s) :
    Q (s.sat f i n) := hQ.wr2At hP hi hf h

theorem Law.sat2At (hQ : Law P Q) (hP : Has P B) {k : Arr} {i : Nat} (hi : P (.one k i)) {s : State} {f : Field} {j n : Nat} (hf : f.okAt B k = true) (h : Q s) :
    Q (s.sat2 f i j n) := hQ.wr2At hP hi hf h

theorem Law.wrapAt (hQ : Law P Q) (hP : Has P B) {k : Arr} {i : Nat} (hi : P (.one k i)) {s : State} {f : Field} {n : Nat} (hf : f.okAt B k = true) (h : Q s) :
    Q (s.wrap f i n) := hQ.wr2At hP hi hf h

theorem Law.decAt (hQ : Law P Q) (hP : Has P B) {k : Arr} {i : Nat} (hi : P (.one k i)) {s : State} {f : Field} {n : Nat} (hf : f.okAt B k = true) (h : Q s) :
    Q (s.dec f i n) := hQ.wr2At hP hi hf h

theorem Law.wrAllAt (hQ : Law P Q) (hP : Has P B) {k : Arr} {i : Nat} (hi : P (.one k i)) {l : List (Field × Nat)} (hf : (l.all fun e => e.1.okAt B k) = true)
    {s : State} (h : Q s) : Q (s.wrAll i l) := by
  induction l generalizing s with
  | nil => exact h
  | cons e l ih =>
    simp only [List.all_cons, Bool.and_eq_true] at hf
    exact ih hf.2 (hQ.wrAt hP hi hf.1 h)

theorem Law.clrAt (hQ : Law P Q) (hP : Has P B) {k : Arr} {i : Nat} (hi : P (.one k i)) {l : List Field} (hf : (l.all fun f => f.okAt B k) = true)
    {s : State} (h : Q s) : Q (s.clr i l) := by
  induction l generalizing s with
  | nil => exact h
  | cons e l ih =>
    simp only [List.all_cons, Bool.and_eq_true] at hf
    exact ih hf.2 (hQ.wrAt hP hi hf.1 h)

theorem Law.clrRowAt (hQ : Law P Q) (hP : Has P B) {k : Arr} {i : Nat} (hi : P (.one k i)) {f : Field} (hf : f.okAt B k = true) {s : State} {n : Nat} (h : Q s) :
    Q (s.clrRow f i n) := by
  induction n generalizing s with
  | zero => exact h
  | succ n ih => exact ih (hQ.wr2At hP hi hf h)

theorem Law.blockWriteAt (hQ : Law P Q) (hP : Has P B) {k : Arr} {i : Nat} (hi : P (.one k i)) {l : List Field} (hf : (l.all fun f => f.okAt B k) = true)
    {s : State} {b j : Nat} {a : XArgs} (h : Q s) : Q (Machine.blockWrite b a i j l s) := by
  induction l generalizing s with
  | nil => exact h
  | cons f l ih =>
    simp only [List.all_cons, Bool.and_eq_true] at hf
    refine ih hf.2 ?_
    split
    · exact hQ.wr2At hP hi hf.1 h
    · exact h

theorem Law.setFromAt (hQ : Law P Q) (hP : Has P B) {k : Arr} {i : Nat} (hi : P (.one k i)) {l : List (Nat × Field)} (hf : (l.all fun e => e.2.okAt B k) = true)
    {s : State} {a : XArgs} (h : Q s) : Q (Machine.setFrom a i l s) := by
  induction l generalizing s with
  | nil => exact h
  | cons f l ih =>
    simp only [List.all_cons, Bool.and_eq_true] at hf
    refine ih hf.2 ?_
    split
    · exact hQ.wrAt hP hi hf.1 h
    · exact h

theorem Law.wrAll2 (hQ : Law P Q) (hP : Has P B) {k m : Arr} {i : Nat} (hi : P (.one k i)) (hj : P (.one m i))
    {l : List (Field × Nat)} (hf : (l.all fun e => e.1.inArr k || e.1.okAt B m) = true) {s : State} (h : Q s) : Q (s.wrAll i l) := by
  induction l generalizing s with
  | nil => exact h
  | cons e l ih =>
    simp only [List.all_cons, Bool.and_eq_true, Bool.or_eq_true] at hf
    refine ih hf.2 ?_
    rcases hf.1 with hk | hm
    · exact hQ.wrAt hP hi (by simp [Field.okAt, hk]) h
    · exact hQ.wrAt hP hj hm h

theorem Law.clr2 (hQ : Law P Q) (hP : Has P B) {k m : Arr} {i : Nat} (hi : P (.one k i)) (hj : P (.one m i))
    {l : List Field} (hf : (l.all fun f => f.inArr k || f.okAt B m) = true) {s : State} (h : Q s) : Q (s.clr i l) := by
  induction l generalizing s with
  | nil => exact h
  | cons e l ih =>
    simp only [List.all_cons, Bool.and_eq_true, Bool.or_eq_true] at hf
    refine ih hf.2 ?_
    rcases hf.1 with hk | hm
    · exact hQ.wrAt hP hi (by simp [Field.okAt, hk]) h
    · exact hQ.wrAt hP hj hm h

theorem Law.setBytes (hQ : Law P Q) (hm : P .mem) {bs : List Byte} {s : State} {a : Nat} (h : Q s) : Q (s.setBytes a bs) := by
  induction bs generalizing s a with
  | nil => exact h
  | cons b bs ih => exact ih (hQ.byte hm h)

theorem Law.writeWords (hQ : Law P Q) (hm : P .mem) (hp : P .poison) {ws : List Word} {s : State} {a : Nat} (h : Q s) : Q (s.writeWords a ws) := by
  induction ws generalizing s a with
  | nil => exact h
  | cons b bs ih => exact ih (hQ.setBytes hm (hQ.poison hp h))

theorem Law.foldl {α : Type} {f : State → α → State} (hf : ∀ s x, Q s → Q (f s x)) {l : List α} {s : State} (h : Q s) :
    Q (l.foldl f s) := by
  induction l generalizing s with
  | nil => exact h
  | cons x l ih => exact ih (hf _ _ h)

theorem Law.ite {c : Prop} [Decidable c] {a b : State} (ha : Q a) (hb : Q b) : Q (if c then a else b) := by
  split <;> assumption

/-! ### Several fields at once -/

theorem Law.cuts_cutPkts (hQ : Law P Q) {s : State} {cuts} {cutPkts} (hcuts : P .cuts) (hcutPkts : P .cutPkts) (h : Q s) :
    Q { s with cuts := cuts, cutPkts := cutPkts } := hQ.cutPkts (s := { s with cuts := cuts }) (x := cutPkts) hcutPkts (hQ.cuts (s := s) (x := cuts) hcuts (h))

theorem Law.seq_his (hQ : Law P Q) {s : State} {seq} {his} (hseq : P .seq) (hhis : P .his) (h : Q s) :
    Q { s with seq := seq, his := his } := hQ.his (s := { s with seq := seq }) (x := his) hhis (hQ.seq (s := s) (x := seq) hseq (h))

theorem Law.seq_power (hQ : Law P Q) {s : State} {seq} {power} (hseq : P .seq) (hpower : P .power) (h : Q s) :
    Q { s with seq := seq, power := power } := hQ.power (s := { s with seq := seq }) (x := power) hpower (hQ.seq (s := s) (x := seq) hseq (h))

/-! ### Binders -/

theorem Law.letState {G : State → Prop} {v : State} (hv : Q v) (h : ∀ x, Q x → G x) : let x := v; G x := h v hv

theorem Law.letFst {α : Type} {G : State × α → Prop} {v : State × α} (hv : Q v.1) (h : ∀ x, Q x.1 → G x) : let x := v; G x :=
  h v hv

theorem Law.letSnd {α : Type} {G : α × State → Prop} {v : α × State} (hv : Q v.2) (h : ∀ x, Q x.2 → G x) : let x := v; G x :=
  h v hv

theorem Law.haveState {G : State → Prop} {v : State} (hv : Q v) (h : ∀ x, Q x → G x) : have x := v; G x := h v hv

theorem Law.haveFst {α : Type} {G : State × α → Prop} {v : State × α} (hv : Q v.1) (h : ∀ x, Q x.1 → G x) : have x := v; G x :=
  h v hv

theorem Law.haveSnd {α : Type} {G : α × State → Prop} {v : α × State} (hv : Q v.2) (h : ∀ x, Q x.2 → G x) : have x := v; G x :=
  h v hv

theorem Law.letAny {α : Sort _} {G : α → Prop} {v : α} (h : ∀ x, G x) : let x := v; G x := h v

/-! ### Outcomes -/

/-- Q holds of the next state, if an outcome has one. -/
def outAll (Q : State → Prop) : Out → Prop
  | .next t => Q t
  | _ => True

/-- Q holds of the state that an operation leaves. -/
def resAll (Q : State → Prop) : XRes → Prop
  | .fin _ t => Q t
  | .start t => Q t
  | .form _ t => Q t
  | .gone t => Q t
  | .hold t => Q t

/-- Q holds of the state of a result. -/
def excAll {ε α : Type} (Q : α → Prop) : Except ε α → Prop
  | .ok t => Q t
  | .error _ => True

/-- Q holds of what an option holds. -/
def optAll {α : Type} (Q : α → Prop) : Option α → Prop
  | some t => Q t
  | none => True

theorem optAll.getD {o : Option State} {d : State} (h : optAll Q o) (hd : Q d) : Q (o.getD d) := by
  cases o with
  | none => exact hd
  | some t => exact h

theorem optAll.map {α β : Type} {R : β → Prop} {o : Option α} {f : α → β} (h : ∀ x, R (f x)) : optAll R (o.map f) := by
  cases o with
  | none => trivial
  | some t => exact h t

theorem optAll.get {α : Type} {R : α → Prop} {o : Option α} {t : α} (h : optAll R o) (e : o = some t) : R t := by
  subst e; exact h

theorem excAll.get {ε α : Type} {R : α → Prop} {o : Except ε α} {t : α} (h : excAll R o) (e : o = .ok t) : R t := by
  subst e; exact h

theorem outAll.get {o : Out} {t : State} (h : outAll Q o) (e : o = .next t) : Q t := by
  subst e; exact h

theorem boolGoal {b : Bool} (h : b = true) : b = true := h

theorem excGet {o : Except Nat State} {t : State} (e : o = .ok t) (h : excAll Q o) : Q t := h.get e

theorem optGet {o : Option State} {t : State} (e : o = some t) (h : optAll Q o) : Q t := h.get e

theorem idLaw {s : State} (h : Q s) : Q (id s) := h

theorem outOk {s : State} (h : Q s) : outAll Q (.next s) := h
theorem outFault {f : Fault} : outAll Q (.fault f) := True.intro
theorem outWithin {i n : Nat} {o : Out} (h : outAll Q o) : outAll Q (within i n o) := by
  unfold within; split
  · exact h
  · exact True.intro
theorem iteOut {c : Prop} [Decidable c] {a b : Out} (ha : outAll Q a) (hb : outAll Q b) : outAll Q (if c then a else b) := by
  split <;> assumption
theorem resFin {st : Nat} {s : State} (h : Q s) : resAll Q (.fin st s) := h
theorem resNo {st : Nat} {s : State} (h : Q s) : resAll Q (.no st s) := h
theorem resStart {s : State} (h : Q s) : resAll Q (.start s) := h
theorem resForm {w : List Word} {s : State} (h : Q s) : resAll Q (.form w s) := h
theorem resGone {s : State} (h : Q s) : resAll Q (.gone s) := h
theorem resHold {s : State} (h : Q s) : resAll Q (.hold s) := h
theorem iteRes {c : Prop} [Decidable c] {a b : XRes} (ha : resAll Q a) (hb : resAll Q b) : resAll Q (if c then a else b) := by
  split <;> assumption
theorem optSome {α : Type} {R : α → Prop} {x : α} (h : R x) : optAll R (some x) := h
theorem optNone {α : Type} {R : α → Prop} : optAll R none := True.intro
theorem iteOpt {α : Type} {R : α → Prop} {c : Prop} [Decidable c] {a b : Option α} (ha : optAll R a) (hb : optAll R b) :
    optAll R (if c then a else b) := by
  split <;> assumption
theorem excOk {ε α : Type} {R : α → Prop} {x : α} (h : R x) : excAll R (.ok x : Except ε α) := h
theorem excState {ε : Type} {s : State} (h : Q s) : excAll Q (.ok s : Except ε State) := h
theorem excPair {ε : Type} {r : State × Nat} (h : Q r.1) : excAll (fun r : State × Nat => Q r.1) (.ok r : Except ε (State × Nat)) := h
theorem excError {ε α : Type} {R : α → Prop} {e : ε} : excAll R (.error e : Except ε α) := True.intro
theorem iteExc {ε α : Type} {R : α → Prop} {c : Prop} [Decidable c] {a b : Except ε α} (ha : excAll R a) (hb : excAll R b) :
    excAll R (if c then a else b) := by
  split <;> assumption

theorem Law.foldlBy {α β : Type} (π : α → State) {f : α → β → α} (hf : ∀ m x, Q (π m) → Q (π (f m x))) {l : List β} {m : α}
    (h : Q (π m)) : Q (π (l.foldl f m)) := by
  induction l generalizing m with
  | nil => exact h
  | cons x l ih => exact ih (hf _ _ h)


end Sys2Proof.Machine
end

