-- ==== Sys2Proof/Laws/Regs.lean ====
section
/-!
SUPPORT. Reading a register field after a write: the same instance, another field of the same word, another word.
-/
namespace Sys2Proof.Machine

@[simp] theorem State.word_setWord_same (s : State) (a : Nat) (x : Word) : (s.setWord a x).word a = x :=
  Tbl.get_set_same _ _ _

theorem State.word_setWord_ne (s : State) {a b : Nat} (x : Word) (h : a ≠ b) : (s.setWord a x).word b = s.word b :=
  Tbl.get_set_ne _ _ h

/-! ### Bits of a word -/

/-- Every instance of the field lies within its word. -/
def Field.inWord (f : Field) : Bool :=
  if f.ew = 0 then decide (f.lo + f.width ≤ 64) else decide (f.width = f.ew ∧ 64 % f.ew = 0)

theorem Field.sh_le {f : Field} (h : f.inWord = true) (j : Nat) : f.sh j + f.width ≤ 64 := by
  unfold Field.inWord at h
  unfold Field.sh
  split at h
  · simp_all
  · next he =>
    simp only [he, if_false]
    simp only [decide_eq_true_eq] at h
    rw [h.1]
    have h64 := h.2
    have he' : 0 < f.ew := Nat.pos_of_ne_zero he
    obtain ⟨q, hq⟩ := Nat.dvd_of_mod_eq_zero h64
    have : j * f.ew % (f.ew * q) = (j % q) * f.ew := by rw [Nat.mul_comm j, Nat.mul_mod_mul_left, Nat.mul_comm]
    rw [hq, this]
    have hq0 : 0 < q := by
      rcases Nat.eq_zero_or_pos q with h0 | h0
      · subst h0; omega
      · exact h0
    have h1 : j % q + 1 ≤ q := Nat.mod_lt _ hq0
    calc j % q * f.ew + f.ew = (j % q + 1) * f.ew := by rw [Nat.add_mul, Nat.one_mul]
      _ ≤ q * f.ew := Nat.mul_le_mul_right _ h1
      _ = f.ew * q := Nat.mul_comm _ _

theorem mask_bit (w sh i : Nat) : ((2 ^ w - 1) * 2 ^ sh).testBit i = decide (sh ≤ i ∧ i < sh + w) := by
  rw [Nat.testBit_mul_two_pow, Nat.testBit_two_pow_sub_one]
  by_cases h : sh ≤ i <;> simp [h] <;> omega

theorem Field.get_bit (f : Field) (j : Nat) (x : Word) (i : Nat) :
    (f.get j x).testBit i = (decide (i < f.width) && x.getLsbD (f.sh j + i)) := by
  unfold Field.get
  rw [Nat.testBit_mod_two_pow, BitVec.testBit_toNat, BitVec.getLsbD_ushiftRight]

theorem Field.put_bit {f : Field} (h : f.inWord = true) (j : Nat) (x : Word) (v i : Nat) :
    (f.put j x v).getLsbD i =
      if f.sh j ≤ i ∧ i < f.sh j + f.width then v.testBit (i - f.sh j) else x.getLsbD i := by
  have hs := Field.sh_le h j
  unfold Field.put
  dsimp only
  rw [BitVec.getLsbD_or, BitVec.getLsbD_and, BitVec.getLsbD_not, BitVec.getLsbD_ofNat, BitVec.getLsbD_ofNat, mask_bit,
    Nat.testBit_mul_two_pow, Nat.testBit_mod_two_pow]
  by_cases h64 : i < 64
  · by_cases h1 : f.sh j ≤ i <;> by_cases h2 : i < f.sh j + f.width
    · have : i - f.sh j < f.width := by omega
      simp [h1, h2, h64, this]
    · have : ¬ (i - f.sh j < f.width) := by omega
      simp [h1, h2, h64, this]
    · simp [h1, h64]
    · simp [h1, h64]
  · have hx : x.getLsbD i = false := BitVec.getLsbD_of_ge _ _ (by omega)
    have h2 : ¬ (i < f.sh j + f.width) := by omega
    simp [h64, h2, hx]

theorem Field.get_put_same {f : Field} (h : f.inWord = true) (j : Nat) (x : Word) (v : Nat) :
    f.get j (f.put j x v) = v % 2 ^ f.width := by
  apply Nat.eq_of_testBit_eq
  intro i
  rw [Field.get_bit, Field.put_bit h, Nat.testBit_mod_two_pow]
  by_cases hi : i < f.width
  · have h1 : f.sh j ≤ f.sh j + i ∧ f.sh j + i < f.sh j + f.width := by omega
    simp [hi, h1]
  · simp [hi]

theorem Field.get_put_apart {f g : Field} (h : f.inWord = true) {j k : Nat} (x : Word) (v : Nat)
    (ha : f.sh j + f.width ≤ g.sh k ∨ g.sh k + g.width ≤ f.sh j) : g.get k (f.put j x v) = g.get k x := by
  apply Nat.eq_of_testBit_eq
  intro i
  rw [Field.get_bit, Field.get_bit, Field.put_bit h]
  by_cases hi : i < g.width
  · have h1 : ¬ (f.sh j ≤ g.sh k + i ∧ g.sh k + i < f.sh j + f.width) := by omega
    simp [hi, h1]
  · simp [hi]

theorem Field.get_lt (f : Field) (j : Nat) (x : Word) : f.get j x < 2 ^ f.width := Nat.mod_lt _ (Nat.two_pow_pos _)

theorem State.rd2_lt (s : State) (f : Field) (i j : Nat) : s.rd2 f i j < 2 ^ f.width := Field.get_lt _ _ _

theorem State.rd_lt (s : State) (f : Field) (i : Nat) : s.rd f i < 2 ^ f.width := Field.get_lt _ _ _

/-! ### Reading after a write -/

theorem State.rd2_wr2_same (s : State) {f : Field} (h : f.inWord = true) {i j : Nat} (v : Nat) (hi : f.has i j = true) :
    (s.wr2 f i j v).rd2 f i j = v % 2 ^ f.width := by
  unfold State.wr2 State.rd2
  rw [if_pos hi, State.word_setWord_same, Field.get_put_same h]

theorem State.word_wr2_ne (s : State) {f : Field} {i j v a : Nat} (h : f.has i j = true → f.word i j ≠ a) :
    (s.wr2 f i j v).word a = s.word a := by
  unfold State.wr2
  split
  · exact State.word_setWord_ne _ _ (h ‹_›)
  · rfl

/-- Two fields share no bit of any word: their words lie apart, within an instance or as a whole, or their bits do. -/
def Field.apart (f g : Field) : Bool :=
  (f.inWord && decide (f.ew = 0 ∧ g.ew = 0 ∧ (f.lo + f.width ≤ g.lo ∨ g.lo + g.width ≤ f.lo))) ||
  (decide (f.last < g.base ∨ g.last < f.base)) ||
  (match f.arr with
    | some k => f.inArr k && g.inArr k && decide (f.base + f.span < g.base ∨ g.base + g.span < f.base)
    | none => false)

theorem Field.word_ge (f : Field) (i j : Nat) : f.base ≤ f.word i j := by unfold Field.word; omega

theorem Field.word_last {f : Field} {i j : Nat} (h : f.has i j = true) : f.word i j ≤ f.last := by
  simp only [Field.has, decide_eq_true_eq] at h
  have a1 : f.s1 * i ≤ f.s1 * (f.n1 - 1) := Nat.mul_le_mul_left _ (by omega)
  have a2 : f.s2 * j ≤ f.s2 * (f.n2 - 1) := Nat.mul_le_mul_left _ (by omega)
  have a3 : j * f.ew / 64 ≤ (f.n2 - 1) * f.ew / 64 := Nat.div_le_div_right (Nat.mul_le_mul_right _ (by omega))
  simp only [Field.last, Field.word]; split <;> omega

theorem Field.apart_word {f g : Field} {k : Arr} {i j m n : Nat} (hf : f.inArr k = true) (hg : g.inArr k = true)
    (h : f.base + f.span < g.base ∨ g.base + g.span < f.base) (hi : f.has i j = true) (hm : g.has m n = true) :
    f.word i j ≠ g.word m n := by
  intro e
  have p1 := Field.part_inArr hf hi
  have p2 := Field.part_inArr hg hm
  rw [e, p2] at p1
  have him : m = i := by injection p1
  subst him
  have b1 := Field.word_le hi
  have b2 := Field.word_le hm
  have c1 := f.le_word (i := m) (j := j)
  have c2 := g.le_word (i := m) (j := n)
  simp only [Field.inArr, decide_eq_true_eq] at hf hg
  have : f.s1 * m = g.s1 * m := by rw [hf.2.2.1, hg.2.2.1]
  omega

theorem State.rd2_wr2_apart (s : State) {f g : Field} (h : f.apart g = true) {i j m n : Nat} (v : Nat) (hm : g.has m n = true) :
    (s.wr2 f i j v).rd2 g m n = s.rd2 g m n := by
  by_cases hi : ¬ f.has i j = true
  · unfold State.wr2; rw [if_neg hi]
  have hi : f.has i j = true := by simpa using hi
  unfold State.rd2
  by_cases hw : f.word i j ≠ g.word m n
  · rw [State.word_wr2_ne _ fun _ => hw]
  have hw : f.word i j = g.word m n := by simpa using hw
  unfold State.wr2
  rw [if_pos hi, hw, State.word_setWord_same]
  simp only [Field.apart, Bool.or_eq_true, Bool.and_eq_true, decide_eq_true_eq] at h
  rcases h with (h | h) | h
  · refine Field.get_put_apart h.1 _ _ ?_
    unfold Field.sh
    simp only [h.2.1, h.2.2.1, if_true]
    exact h.2.2.2
  · exfalso
    have a1 := f.word_ge i j
    have a2 := g.word_ge m n
    have a3 := Field.word_last hi
    have a4 := Field.word_last hm
    omega
  · exfalso
    split at h
    · simp only [Bool.and_eq_true, decide_eq_true_eq] at h
      exact Field.apart_word h.1.1 h.1.2 h.2 hi hm hw
    · exact Bool.noConfusion h

/-- Another instance of a block is not written. -/
theorem State.rd2_wr2_other (s : State) {f g : Field} {k : Arr} (hf : f.inArr k = true) (hg : g.inArr k = true) {i j m n : Nat}
    (v : Nat) (hm : g.has m n = true) (h : i ≠ m) : (s.wr2 f i j v).rd2 g m n = s.rd2 g m n := by
  unfold State.rd2
  rw [State.word_wr2_ne]
  intro hi e
  have p1 := Field.part_inArr hf hi
  rw [e, Field.part_inArr hg hm] at p1
  injection p1 with _ e2
  exact h e2.symm

theorem State.rd_wr_same (s : State) {f : Field} (h : f.inWord = true) {i : Nat} (v : Nat) (hi : f.has i 0 = true) :
    (s.wr f i v).rd f i = v % 2 ^ f.width := State.rd2_wr2_same s h v hi

theorem State.rd_sat_same (s : State) {f : Field} (h : f.inWord = true) {i n : Nat} (hi : f.has i 0 = true) :
    (s.sat f i n).rd f i = min (s.rd f i + n) (2 ^ f.width - 1) := by
  unfold State.sat
  rw [State.rd_wr_same s h _ hi]
  have := Nat.two_pow_pos f.width
  apply Nat.mod_eq_of_lt
  have := Nat.min_le_right (s.rd f i + n) (2 ^ f.width - 1)
  omega

theorem State.rd_wr_apart (s : State) {f g : Field} (h : f.apart g = true) {i m : Nat} (v : Nat) (hm : g.has m 0 = true) :
    (s.wr f i v).rd g m = s.rd g m := State.rd2_wr2_apart s h v hm

theorem State.rd_wr_other (s : State) {f g : Field} {k : Arr} (hf : f.inArr k = true) (hg : g.inArr k = true) {i m : Nat}
    (v : Nat) (hm : g.has m 0 = true) (h : i ≠ m) : (s.wr f i v).rd g m = s.rd g m := State.rd2_wr2_other s hf hg v hm h

/-! ### Frames -/

theorem Covers.noReset {l : List Part} (h : l.contains .reset = false) : ¬ Covers l .reset := by
  intro hc
  have : .reset ∈ l := hc
  simp_all

theorem Frame.refl (P : Part → Prop) (s : State) : Frame P s s := by
  constructor <;> intros <;> rfl

theorem Frame.rd2 {P : Part → Prop} {s t : State} (h : Frame P s t) {f : Field} {i j : Nat} (hp : ¬ P (partOf (f.word i j))) :
    t.rd2 f i j = s.rd2 f i j := by
  unfold State.rd2
  rw [h.word _ hp]

/-- A field of a group that no part of a list names keeps its value. -/
theorem Only.rd_grp {l : List Part} {s t : State} (h : Only l s t) {f : Field} {i : Nat} (hf : f.outside = true)
    (hl : l.contains (.grp f.group) = false) (hi : f.has i 0 = true) : t.rd f i = s.rd f i := by
  refine Frame.rd2 h ?_
  rw [Field.part_outside hf hi]
  intro hc
  have : Part.grp f.group ∈ l := hc
  simp_all

/-- A field of a block instance that no part of a list names keeps its value. -/
theorem Only.rd_one {l : List Part} {s t : State} (h : Only l s t) {f : Field} {k : Arr} {i : Nat} (hf : f.inArr k = true)
    (h1 : .one k i ∉ l) (h2 : .all k ∉ l) (hi : f.has i 0 = true) : t.rd f i = s.rd f i := by
  refine Frame.rd2 h ?_
  rw [Field.part_inArr hf hi]
  exact fun hc => hc.elim h1 h2

theorem Frame.mono {P R : Part → Prop} {s t : State} (h : Frame P s t) (hs : ∀ p, P p → R p) : Frame R s t :=
  { pending := h.pending, word := fun a ha => h.word a fun hc => ha (hs _ hc),
    mem := fun hc => h.mem fun hp => hc (hs _ hp),
    poison := fun hc => h.poison fun hp => hc (hs _ hp),
    free := fun hc => h.free fun hp => hc (hs _ hp),
    procs := fun hc => h.procs fun hp => hc (hs _ hp),
    seq := fun hc => h.seq fun hp => hc (hs _ hp),
    transit := fun hc => h.transit fun hp => hc (hs _ hp),
    held := fun hc => h.held fun hp => hc (hs _ hp),
    progress := fun hc => h.progress fun hp => hc (hs _ hp),
    gaps := fun hc => h.gaps fun hp => hc (hs _ hp),
    sump := fun hc => h.sump fun hp => hc (hs _ hp),
    malformed := fun hc => h.malformed fun hp => hc (hs _ hp),
    tokens := fun hc => h.tokens fun hp => hc (hs _ hp),
    rpa := fun hc => h.rpa fun hp => hc (hs _ hp),
    damper := fun hc => h.damper fun hp => hc (hs _ hp),
    lanes := fun hc => h.lanes fun hp => hc (hs _ hp),
    goodWin := fun hc => h.goodWin fun hp => hc (hs _ hp),
    bonded := fun hc => h.bonded fun hp => hc (hs _ hp),
    heads := fun hc => h.heads fun hp => hc (hs _ hp),
    cuts := fun hc => h.cuts fun hp => hc (hs _ hp),
    cutPkts := fun hc => h.cutPkts fun hp => hc (hs _ hp),
    enc := fun hc => h.enc fun hp => hc (hs _ hp),
    ssi := fun hc => h.ssi fun hp => hc (hs _ hp),
    probes := fun hc => h.probes fun hp => hc (hs _ hp),
    divs := fun hc => h.divs fun hp => hc (hs _ hp),
    pfuTick := fun hc => h.pfuTick fun hp => hc (hs _ hp),
    web := fun hc => h.web fun hp => hc (hs _ hp),
    marks := fun hc => h.marks fun hp => hc (hs _ hp),
    markPins := fun hc => h.markPins fun hp => hc (hs _ hp),
    tes := fun hc => h.tes fun hp => hc (hs _ hp),
    views := fun hc => h.views fun hp => hc (hs _ hp),
    store := fun hc => h.store fun hp => hc (hs _ hp),
    strips := fun hc => h.strips fun hp => hc (hs _ hp),
    commits := fun hc => h.commits fun hp => hc (hs _ hp),
    recs := fun hc => h.recs fun hp => hc (hs _ hp),
    dlg := fun hc => h.dlg fun hp => hc (hs _ hp),
    his := fun hc => h.his fun hp => hc (hs _ hp),
    ovs := fun hc => h.ovs fun hp => hc (hs _ hp),
    dmc := fun hc => h.dmc fun hp => hc (hs _ hp),
    dma := fun hc => h.dma fun hp => hc (hs _ hp),
    hif := fun hc => h.hif fun hp => hc (hs _ hp),
    wlk := fun hc => h.wlk fun hp => hc (hs _ hp),
    sent := fun hc => h.sent fun hp => hc (hs _ hp),
    tnt := fun hc => h.tnt fun hp => hc (hs _ hp),
    dep := fun hc => h.dep fun hp => hc (hs _ hp),
    power := fun hc => h.power fun hp => hc (hs _ hp),
    evr := fun hc => h.evr fun hp => hc (hs _ hp),
    tw := fun hc => h.tw fun hp => hc (hs _ hp),
    snap := fun hc => h.snap fun hp => hc (hs _ hp),
    sampled := fun hc => h.sampled fun hp => hc (hs _ hp) }

theorem Frame.trans {P : Part → Prop} {s t u : State} (h : Frame P s t) (k : Frame P t u) : Frame P s u :=
  { pending := k.pending.trans h.pending, word := fun a ha => (k.word a ha).trans (h.word a ha),
    mem := fun hc => (k.mem hc).trans (h.mem hc),
    poison := fun hc => (k.poison hc).trans (h.poison hc),
    free := fun hc => (k.free hc).trans (h.free hc),
    procs := fun hc => (k.procs hc).trans (h.procs hc),
    seq := fun hc => (k.seq hc).trans (h.seq hc),
    transit := fun hc => (k.transit hc).trans (h.transit hc),
    held := fun hc => (k.held hc).trans (h.held hc),
    progress := fun hc => (k.progress hc).trans (h.progress hc),
    gaps := fun hc => (k.gaps hc).trans (h.gaps hc),
    sump := fun hc => (k.sump hc).trans (h.sump hc),
    malformed := fun hc => (k.malformed hc).trans (h.malformed hc),
    tokens := fun hc => (k.tokens hc).trans (h.tokens hc),
    rpa := fun hc => (k.rpa hc).trans (h.rpa hc),
    damper := fun hc => (k.damper hc).trans (h.damper hc),
    lanes := fun hc => (k.lanes hc).trans (h.lanes hc),
    goodWin := fun hc => (k.goodWin hc).trans (h.goodWin hc),
    bonded := fun hc => (k.bonded hc).trans (h.bonded hc),
    heads := fun hc => (k.heads hc).trans (h.heads hc),
    cuts := fun hc => (k.cuts hc).trans (h.cuts hc),
    cutPkts := fun hc => (k.cutPkts hc).trans (h.cutPkts hc),
    enc := fun hc => (k.enc hc).trans (h.enc hc),
    ssi := fun hc => (k.ssi hc).trans (h.ssi hc),
    probes := fun hc => (k.probes hc).trans (h.probes hc),
    divs := fun hc => (k.divs hc).trans (h.divs hc),
    pfuTick := fun hc => (k.pfuTick hc).trans (h.pfuTick hc),
    web := fun hc => (k.web hc).trans (h.web hc),
    marks := fun hc => (k.marks hc).trans (h.marks hc),
    markPins := fun hc => (k.markPins hc).trans (h.markPins hc),
    tes := fun hc => (k.tes hc).trans (h.tes hc),
    views := fun hc => (k.views hc).trans (h.views hc),
    store := fun hc => (k.store hc).trans (h.store hc),
    strips := fun hc => (k.strips hc).trans (h.strips hc),
    commits := fun hc => (k.commits hc).trans (h.commits hc),
    recs := fun hc => (k.recs hc).trans (h.recs hc),
    dlg := fun hc => (k.dlg hc).trans (h.dlg hc),
    his := fun hc => (k.his hc).trans (h.his hc),
    ovs := fun hc => (k.ovs hc).trans (h.ovs hc),
    dmc := fun hc => (k.dmc hc).trans (h.dmc hc),
    dma := fun hc => (k.dma hc).trans (h.dma hc),
    hif := fun hc => (k.hif hc).trans (h.hif hc),
    wlk := fun hc => (k.wlk hc).trans (h.wlk hc),
    sent := fun hc => (k.sent hc).trans (h.sent hc),
    tnt := fun hc => (k.tnt hc).trans (h.tnt hc),
    dep := fun hc => (k.dep hc).trans (h.dep hc),
    power := fun hc => (k.power hc).trans (h.power hc),
    evr := fun hc => (k.evr hc).trans (h.evr hc),
    tw := fun hc => (k.tw hc).trans (h.tw hc),
    snap := fun hc => (k.snap hc).trans (h.snap hc),
    sampled := fun hc => (k.sampled hc).trans (h.sampled hc) }

theorem Only.mono {l m : List Part} {s t : State} (h : Only l s t) (hs : covered l m = true) : Only m s t := by
  refine Frame.mono h fun p hp => ?_
  have hm : ∀ q, q ∈ l → q ∈ m := fun q hq => by simpa using List.all_eq_true.mp hs q hq
  cases p <;> first | exact hm _ hp | exact hp.imp (hm _) (hm _)

end Sys2Proof.Machine
end

