-- ==== Sys2Proof/Laws/State.lean ====
section
/-!
SUPPORT. One lemma for each field of the state under each named update: an update changes its own field and no other.
-/
namespace Sys2Proof.Machine

@[simp] theorem State.setWord_mem (s : State) (a : Nat) (x : Word) : (s.setWord a x).mem = s.mem := rfl

@[simp] theorem State.setWord_poison (s : State) (a : Nat) (x : Word) : (s.setWord a x).poison = s.poison := rfl

@[simp] theorem State.setWord_free (s : State) (a : Nat) (x : Word) : (s.setWord a x).free = s.free := rfl

@[simp] theorem State.setWord_procs (s : State) (a : Nat) (x : Word) : (s.setWord a x).procs = s.procs := rfl

@[simp] theorem State.setWord_seq (s : State) (a : Nat) (x : Word) : (s.setWord a x).seq = s.seq := rfl

@[simp] theorem State.setWord_transit (s : State) (a : Nat) (x : Word) : (s.setWord a x).transit = s.transit := rfl

@[simp] theorem State.setWord_held (s : State) (a : Nat) (x : Word) : (s.setWord a x).held = s.held := rfl

@[simp] theorem State.setWord_progress (s : State) (a : Nat) (x : Word) : (s.setWord a x).progress = s.progress := rfl

@[simp] theorem State.setWord_gaps (s : State) (a : Nat) (x : Word) : (s.setWord a x).gaps = s.gaps := rfl

@[simp] theorem State.setWord_sump (s : State) (a : Nat) (x : Word) : (s.setWord a x).sump = s.sump := rfl

@[simp] theorem State.setWord_malformed (s : State) (a : Nat) (x : Word) : (s.setWord a x).malformed = s.malformed := rfl

@[simp] theorem State.setWord_tokens (s : State) (a : Nat) (x : Word) : (s.setWord a x).tokens = s.tokens := rfl

@[simp] theorem State.setWord_rpa (s : State) (a : Nat) (x : Word) : (s.setWord a x).rpa = s.rpa := rfl

@[simp] theorem State.setWord_damper (s : State) (a : Nat) (x : Word) : (s.setWord a x).damper = s.damper := rfl

@[simp] theorem State.setWord_lanes (s : State) (a : Nat) (x : Word) : (s.setWord a x).lanes = s.lanes := rfl

@[simp] theorem State.setWord_goodWin (s : State) (a : Nat) (x : Word) : (s.setWord a x).goodWin = s.goodWin := rfl

@[simp] theorem State.setWord_bonded (s : State) (a : Nat) (x : Word) : (s.setWord a x).bonded = s.bonded := rfl

@[simp] theorem State.setWord_heads (s : State) (a : Nat) (x : Word) : (s.setWord a x).heads = s.heads := rfl

@[simp] theorem State.setWord_cuts (s : State) (a : Nat) (x : Word) : (s.setWord a x).cuts = s.cuts := rfl

@[simp] theorem State.setWord_cutPkts (s : State) (a : Nat) (x : Word) : (s.setWord a x).cutPkts = s.cutPkts := rfl

@[simp] theorem State.setWord_enc (s : State) (a : Nat) (x : Word) : (s.setWord a x).enc = s.enc := rfl

@[simp] theorem State.setWord_ssi (s : State) (a : Nat) (x : Word) : (s.setWord a x).ssi = s.ssi := rfl

@[simp] theorem State.setWord_probes (s : State) (a : Nat) (x : Word) : (s.setWord a x).probes = s.probes := rfl

@[simp] theorem State.setWord_divs (s : State) (a : Nat) (x : Word) : (s.setWord a x).divs = s.divs := rfl

@[simp] theorem State.setWord_pfuTick (s : State) (a : Nat) (x : Word) : (s.setWord a x).pfuTick = s.pfuTick := rfl

@[simp] theorem State.setWord_web (s : State) (a : Nat) (x : Word) : (s.setWord a x).web = s.web := rfl

@[simp] theorem State.setWord_marks (s : State) (a : Nat) (x : Word) : (s.setWord a x).marks = s.marks := rfl

@[simp] theorem State.setWord_markPins (s : State) (a : Nat) (x : Word) : (s.setWord a x).markPins = s.markPins := rfl

@[simp] theorem State.setWord_tes (s : State) (a : Nat) (x : Word) : (s.setWord a x).tes = s.tes := rfl

@[simp] theorem State.setWord_views (s : State) (a : Nat) (x : Word) : (s.setWord a x).views = s.views := rfl

@[simp] theorem State.setWord_store (s : State) (a : Nat) (x : Word) : (s.setWord a x).store = s.store := rfl

@[simp] theorem State.setWord_strips (s : State) (a : Nat) (x : Word) : (s.setWord a x).strips = s.strips := rfl

@[simp] theorem State.setWord_commits (s : State) (a : Nat) (x : Word) : (s.setWord a x).commits = s.commits := rfl

@[simp] theorem State.setWord_recs (s : State) (a : Nat) (x : Word) : (s.setWord a x).recs = s.recs := rfl

@[simp] theorem State.setWord_dlg (s : State) (a : Nat) (x : Word) : (s.setWord a x).dlg = s.dlg := rfl

@[simp] theorem State.setWord_his (s : State) (a : Nat) (x : Word) : (s.setWord a x).his = s.his := rfl

@[simp] theorem State.setWord_ovs (s : State) (a : Nat) (x : Word) : (s.setWord a x).ovs = s.ovs := rfl

@[simp] theorem State.setWord_dmc (s : State) (a : Nat) (x : Word) : (s.setWord a x).dmc = s.dmc := rfl

@[simp] theorem State.setWord_dma (s : State) (a : Nat) (x : Word) : (s.setWord a x).dma = s.dma := rfl

@[simp] theorem State.setWord_hif (s : State) (a : Nat) (x : Word) : (s.setWord a x).hif = s.hif := rfl

@[simp] theorem State.setWord_wlk (s : State) (a : Nat) (x : Word) : (s.setWord a x).wlk = s.wlk := rfl

@[simp] theorem State.setWord_sent (s : State) (a : Nat) (x : Word) : (s.setWord a x).sent = s.sent := rfl

@[simp] theorem State.setWord_tnt (s : State) (a : Nat) (x : Word) : (s.setWord a x).tnt = s.tnt := rfl

@[simp] theorem State.setWord_dep (s : State) (a : Nat) (x : Word) : (s.setWord a x).dep = s.dep := rfl

@[simp] theorem State.setWord_power (s : State) (a : Nat) (x : Word) : (s.setWord a x).power = s.power := rfl

@[simp] theorem State.setWord_evr (s : State) (a : Nat) (x : Word) : (s.setWord a x).evr = s.evr := rfl

@[simp] theorem State.setWord_tw (s : State) (a : Nat) (x : Word) : (s.setWord a x).tw = s.tw := rfl

@[simp] theorem State.setWord_snap (s : State) (a : Nat) (x : Word) : (s.setWord a x).snap = s.snap := rfl

@[simp] theorem State.setWord_sampled (s : State) (a : Nat) (x : Word) : (s.setWord a x).sampled = s.sampled := rfl

@[simp] theorem State.setWord_pending (s : State) (a : Nat) (x : Word) : (s.setWord a x).pending = s.pending := rfl

@[simp] theorem State.setByte_regs (s : State) (a : Nat) (x : Byte) : (s.setByte a x).regs = s.regs := rfl

@[simp] theorem State.setByte_poison (s : State) (a : Nat) (x : Byte) : (s.setByte a x).poison = s.poison := rfl

@[simp] theorem State.setByte_free (s : State) (a : Nat) (x : Byte) : (s.setByte a x).free = s.free := rfl

@[simp] theorem State.setByte_procs (s : State) (a : Nat) (x : Byte) : (s.setByte a x).procs = s.procs := rfl

@[simp] theorem State.setByte_seq (s : State) (a : Nat) (x : Byte) : (s.setByte a x).seq = s.seq := rfl

@[simp] theorem State.setByte_transit (s : State) (a : Nat) (x : Byte) : (s.setByte a x).transit = s.transit := rfl

@[simp] theorem State.setByte_held (s : State) (a : Nat) (x : Byte) : (s.setByte a x).held = s.held := rfl

@[simp] theorem State.setByte_progress (s : State) (a : Nat) (x : Byte) : (s.setByte a x).progress = s.progress := rfl

@[simp] theorem State.setByte_gaps (s : State) (a : Nat) (x : Byte) : (s.setByte a x).gaps = s.gaps := rfl

@[simp] theorem State.setByte_sump (s : State) (a : Nat) (x : Byte) : (s.setByte a x).sump = s.sump := rfl

@[simp] theorem State.setByte_malformed (s : State) (a : Nat) (x : Byte) : (s.setByte a x).malformed = s.malformed := rfl

@[simp] theorem State.setByte_tokens (s : State) (a : Nat) (x : Byte) : (s.setByte a x).tokens = s.tokens := rfl

@[simp] theorem State.setByte_rpa (s : State) (a : Nat) (x : Byte) : (s.setByte a x).rpa = s.rpa := rfl

@[simp] theorem State.setByte_damper (s : State) (a : Nat) (x : Byte) : (s.setByte a x).damper = s.damper := rfl

@[simp] theorem State.setByte_lanes (s : State) (a : Nat) (x : Byte) : (s.setByte a x).lanes = s.lanes := rfl

@[simp] theorem State.setByte_goodWin (s : State) (a : Nat) (x : Byte) : (s.setByte a x).goodWin = s.goodWin := rfl

@[simp] theorem State.setByte_bonded (s : State) (a : Nat) (x : Byte) : (s.setByte a x).bonded = s.bonded := rfl

@[simp] theorem State.setByte_heads (s : State) (a : Nat) (x : Byte) : (s.setByte a x).heads = s.heads := rfl

@[simp] theorem State.setByte_cuts (s : State) (a : Nat) (x : Byte) : (s.setByte a x).cuts = s.cuts := rfl

@[simp] theorem State.setByte_cutPkts (s : State) (a : Nat) (x : Byte) : (s.setByte a x).cutPkts = s.cutPkts := rfl

@[simp] theorem State.setByte_enc (s : State) (a : Nat) (x : Byte) : (s.setByte a x).enc = s.enc := rfl

@[simp] theorem State.setByte_ssi (s : State) (a : Nat) (x : Byte) : (s.setByte a x).ssi = s.ssi := rfl

@[simp] theorem State.setByte_probes (s : State) (a : Nat) (x : Byte) : (s.setByte a x).probes = s.probes := rfl

@[simp] theorem State.setByte_divs (s : State) (a : Nat) (x : Byte) : (s.setByte a x).divs = s.divs := rfl

@[simp] theorem State.setByte_pfuTick (s : State) (a : Nat) (x : Byte) : (s.setByte a x).pfuTick = s.pfuTick := rfl

@[simp] theorem State.setByte_web (s : State) (a : Nat) (x : Byte) : (s.setByte a x).web = s.web := rfl

@[simp] theorem State.setByte_marks (s : State) (a : Nat) (x : Byte) : (s.setByte a x).marks = s.marks := rfl

@[simp] theorem State.setByte_markPins (s : State) (a : Nat) (x : Byte) : (s.setByte a x).markPins = s.markPins := rfl

@[simp] theorem State.setByte_tes (s : State) (a : Nat) (x : Byte) : (s.setByte a x).tes = s.tes := rfl

@[simp] theorem State.setByte_views (s : State) (a : Nat) (x : Byte) : (s.setByte a x).views = s.views := rfl

@[simp] theorem State.setByte_store (s : State) (a : Nat) (x : Byte) : (s.setByte a x).store = s.store := rfl

@[simp] theorem State.setByte_strips (s : State) (a : Nat) (x : Byte) : (s.setByte a x).strips = s.strips := rfl

@[simp] theorem State.setByte_commits (s : State) (a : Nat) (x : Byte) : (s.setByte a x).commits = s.commits := rfl

@[simp] theorem State.setByte_recs (s : State) (a : Nat) (x : Byte) : (s.setByte a x).recs = s.recs := rfl

@[simp] theorem State.setByte_dlg (s : State) (a : Nat) (x : Byte) : (s.setByte a x).dlg = s.dlg := rfl

@[simp] theorem State.setByte_his (s : State) (a : Nat) (x : Byte) : (s.setByte a x).his = s.his := rfl

@[simp] theorem State.setByte_ovs (s : State) (a : Nat) (x : Byte) : (s.setByte a x).ovs = s.ovs := rfl

@[simp] theorem State.setByte_dmc (s : State) (a : Nat) (x : Byte) : (s.setByte a x).dmc = s.dmc := rfl

@[simp] theorem State.setByte_dma (s : State) (a : Nat) (x : Byte) : (s.setByte a x).dma = s.dma := rfl

@[simp] theorem State.setByte_hif (s : State) (a : Nat) (x : Byte) : (s.setByte a x).hif = s.hif := rfl

@[simp] theorem State.setByte_wlk (s : State) (a : Nat) (x : Byte) : (s.setByte a x).wlk = s.wlk := rfl

@[simp] theorem State.setByte_sent (s : State) (a : Nat) (x : Byte) : (s.setByte a x).sent = s.sent := rfl

@[simp] theorem State.setByte_tnt (s : State) (a : Nat) (x : Byte) : (s.setByte a x).tnt = s.tnt := rfl

@[simp] theorem State.setByte_dep (s : State) (a : Nat) (x : Byte) : (s.setByte a x).dep = s.dep := rfl

@[simp] theorem State.setByte_power (s : State) (a : Nat) (x : Byte) : (s.setByte a x).power = s.power := rfl

@[simp] theorem State.setByte_evr (s : State) (a : Nat) (x : Byte) : (s.setByte a x).evr = s.evr := rfl

@[simp] theorem State.setByte_tw (s : State) (a : Nat) (x : Byte) : (s.setByte a x).tw = s.tw := rfl

@[simp] theorem State.setByte_snap (s : State) (a : Nat) (x : Byte) : (s.setByte a x).snap = s.snap := rfl

@[simp] theorem State.setByte_sampled (s : State) (a : Nat) (x : Byte) : (s.setByte a x).sampled = s.sampled := rfl

@[simp] theorem State.setByte_pending (s : State) (a : Nat) (x : Byte) : (s.setByte a x).pending = s.pending := rfl

@[simp] theorem State.setByte_word (s : State) (a : Nat) (x : Byte) (z : Nat) : (s.setByte a x).word z = s.word z := rfl

@[simp] theorem State.setByte_rd2 (s : State) (a : Nat) (x : Byte) (f : Field) (i j : Nat) : (s.setByte a x).rd2 f i j = s.rd2 f i j := rfl

@[simp] theorem State.setByte_rd (s : State) (a : Nat) (x : Byte) (f : Field) (i : Nat) : (s.setByte a x).rd f i = s.rd f i := rfl

@[simp] theorem State.setByte_on (s : State) (a : Nat) (x : Byte) (f : Field) (i : Nat) : (s.setByte a x).on f i = s.on f i := rfl

@[simp] theorem State.setProc_regs (s : State) (u : Nat) (x : Proc) : (s.setProc u x).regs = s.regs := rfl

@[simp] theorem State.setProc_mem (s : State) (u : Nat) (x : Proc) : (s.setProc u x).mem = s.mem := rfl

@[simp] theorem State.setProc_poison (s : State) (u : Nat) (x : Proc) : (s.setProc u x).poison = s.poison := rfl

@[simp] theorem State.setProc_free (s : State) (u : Nat) (x : Proc) : (s.setProc u x).free = s.free := rfl

@[simp] theorem State.setProc_seq (s : State) (u : Nat) (x : Proc) : (s.setProc u x).seq = s.seq := rfl

@[simp] theorem State.setProc_transit (s : State) (u : Nat) (x : Proc) : (s.setProc u x).transit = s.transit := rfl

@[simp] theorem State.setProc_held (s : State) (u : Nat) (x : Proc) : (s.setProc u x).held = s.held := rfl

@[simp] theorem State.setProc_progress (s : State) (u : Nat) (x : Proc) : (s.setProc u x).progress = s.progress := rfl

@[simp] theorem State.setProc_gaps (s : State) (u : Nat) (x : Proc) : (s.setProc u x).gaps = s.gaps := rfl

@[simp] theorem State.setProc_sump (s : State) (u : Nat) (x : Proc) : (s.setProc u x).sump = s.sump := rfl

@[simp] theorem State.setProc_malformed (s : State) (u : Nat) (x : Proc) : (s.setProc u x).malformed = s.malformed := rfl

@[simp] theorem State.setProc_tokens (s : State) (u : Nat) (x : Proc) : (s.setProc u x).tokens = s.tokens := rfl

@[simp] theorem State.setProc_rpa (s : State) (u : Nat) (x : Proc) : (s.setProc u x).rpa = s.rpa := rfl

@[simp] theorem State.setProc_damper (s : State) (u : Nat) (x : Proc) : (s.setProc u x).damper = s.damper := rfl

@[simp] theorem State.setProc_lanes (s : State) (u : Nat) (x : Proc) : (s.setProc u x).lanes = s.lanes := rfl

@[simp] theorem State.setProc_goodWin (s : State) (u : Nat) (x : Proc) : (s.setProc u x).goodWin = s.goodWin := rfl

@[simp] theorem State.setProc_bonded (s : State) (u : Nat) (x : Proc) : (s.setProc u x).bonded = s.bonded := rfl

@[simp] theorem State.setProc_heads (s : State) (u : Nat) (x : Proc) : (s.setProc u x).heads = s.heads := rfl

@[simp] theorem State.setProc_cuts (s : State) (u : Nat) (x : Proc) : (s.setProc u x).cuts = s.cuts := rfl

@[simp] theorem State.setProc_cutPkts (s : State) (u : Nat) (x : Proc) : (s.setProc u x).cutPkts = s.cutPkts := rfl

@[simp] theorem State.setProc_enc (s : State) (u : Nat) (x : Proc) : (s.setProc u x).enc = s.enc := rfl

@[simp] theorem State.setProc_ssi (s : State) (u : Nat) (x : Proc) : (s.setProc u x).ssi = s.ssi := rfl

@[simp] theorem State.setProc_probes (s : State) (u : Nat) (x : Proc) : (s.setProc u x).probes = s.probes := rfl

@[simp] theorem State.setProc_divs (s : State) (u : Nat) (x : Proc) : (s.setProc u x).divs = s.divs := rfl

@[simp] theorem State.setProc_pfuTick (s : State) (u : Nat) (x : Proc) : (s.setProc u x).pfuTick = s.pfuTick := rfl

@[simp] theorem State.setProc_web (s : State) (u : Nat) (x : Proc) : (s.setProc u x).web = s.web := rfl

@[simp] theorem State.setProc_marks (s : State) (u : Nat) (x : Proc) : (s.setProc u x).marks = s.marks := rfl

@[simp] theorem State.setProc_markPins (s : State) (u : Nat) (x : Proc) : (s.setProc u x).markPins = s.markPins := rfl

@[simp] theorem State.setProc_tes (s : State) (u : Nat) (x : Proc) : (s.setProc u x).tes = s.tes := rfl

@[simp] theorem State.setProc_views (s : State) (u : Nat) (x : Proc) : (s.setProc u x).views = s.views := rfl

@[simp] theorem State.setProc_store (s : State) (u : Nat) (x : Proc) : (s.setProc u x).store = s.store := rfl

@[simp] theorem State.setProc_strips (s : State) (u : Nat) (x : Proc) : (s.setProc u x).strips = s.strips := rfl

@[simp] theorem State.setProc_commits (s : State) (u : Nat) (x : Proc) : (s.setProc u x).commits = s.commits := rfl

@[simp] theorem State.setProc_recs (s : State) (u : Nat) (x : Proc) : (s.setProc u x).recs = s.recs := rfl

@[simp] theorem State.setProc_dlg (s : State) (u : Nat) (x : Proc) : (s.setProc u x).dlg = s.dlg := rfl

@[simp] theorem State.setProc_his (s : State) (u : Nat) (x : Proc) : (s.setProc u x).his = s.his := rfl

@[simp] theorem State.setProc_ovs (s : State) (u : Nat) (x : Proc) : (s.setProc u x).ovs = s.ovs := rfl

@[simp] theorem State.setProc_dmc (s : State) (u : Nat) (x : Proc) : (s.setProc u x).dmc = s.dmc := rfl

@[simp] theorem State.setProc_dma (s : State) (u : Nat) (x : Proc) : (s.setProc u x).dma = s.dma := rfl

@[simp] theorem State.setProc_hif (s : State) (u : Nat) (x : Proc) : (s.setProc u x).hif = s.hif := rfl

@[simp] theorem State.setProc_wlk (s : State) (u : Nat) (x : Proc) : (s.setProc u x).wlk = s.wlk := rfl

@[simp] theorem State.setProc_sent (s : State) (u : Nat) (x : Proc) : (s.setProc u x).sent = s.sent := rfl

@[simp] theorem State.setProc_tnt (s : State) (u : Nat) (x : Proc) : (s.setProc u x).tnt = s.tnt := rfl

@[simp] theorem State.setProc_dep (s : State) (u : Nat) (x : Proc) : (s.setProc u x).dep = s.dep := rfl

@[simp] theorem State.setProc_power (s : State) (u : Nat) (x : Proc) : (s.setProc u x).power = s.power := rfl

@[simp] theorem State.setProc_evr (s : State) (u : Nat) (x : Proc) : (s.setProc u x).evr = s.evr := rfl

@[simp] theorem State.setProc_tw (s : State) (u : Nat) (x : Proc) : (s.setProc u x).tw = s.tw := rfl

@[simp] theorem State.setProc_snap (s : State) (u : Nat) (x : Proc) : (s.setProc u x).snap = s.snap := rfl

@[simp] theorem State.setProc_sampled (s : State) (u : Nat) (x : Proc) : (s.setProc u x).sampled = s.sampled := rfl

@[simp] theorem State.setProc_pending (s : State) (u : Nat) (x : Proc) : (s.setProc u x).pending = s.pending := rfl

@[simp] theorem State.setProc_word (s : State) (u : Nat) (x : Proc) (z : Nat) : (s.setProc u x).word z = s.word z := rfl

@[simp] theorem State.setProc_rd2 (s : State) (u : Nat) (x : Proc) (f : Field) (i j : Nat) : (s.setProc u x).rd2 f i j = s.rd2 f i j := rfl

@[simp] theorem State.setProc_rd (s : State) (u : Nat) (x : Proc) (f : Field) (i : Nat) : (s.setProc u x).rd f i = s.rd f i := rfl

@[simp] theorem State.setProc_on (s : State) (u : Nat) (x : Proc) (f : Field) (i : Nat) : (s.setProc u x).on f i = s.on f i := rfl

@[simp] theorem State.setProc_proc_same (s : State) (u : Nat) (x : Proc) : (s.setProc u x).proc u = x := Tbl.get_set_same _ _ _

theorem State.setProc_proc_ne (s : State) (u : Nat) (x : Proc) {m : Nat} (ne : u ≠ m) : (s.setProc u x).proc m = s.proc m := Tbl.get_set_ne _ _ ne

@[simp] theorem State.setSpan_regs (s : State) (n : Nat) (x : Span) : (s.setSpan n x).regs = s.regs := rfl

@[simp] theorem State.setSpan_mem (s : State) (n : Nat) (x : Span) : (s.setSpan n x).mem = s.mem := rfl

@[simp] theorem State.setSpan_poison (s : State) (n : Nat) (x : Span) : (s.setSpan n x).poison = s.poison := rfl

@[simp] theorem State.setSpan_free (s : State) (n : Nat) (x : Span) : (s.setSpan n x).free = s.free := rfl

@[simp] theorem State.setSpan_procs (s : State) (n : Nat) (x : Span) : (s.setSpan n x).procs = s.procs := rfl

@[simp] theorem State.setSpan_seq (s : State) (n : Nat) (x : Span) : (s.setSpan n x).seq = s.seq := rfl

@[simp] theorem State.setSpan_transit (s : State) (n : Nat) (x : Span) : (s.setSpan n x).transit = s.transit := rfl

@[simp] theorem State.setSpan_held (s : State) (n : Nat) (x : Span) : (s.setSpan n x).held = s.held := rfl

@[simp] theorem State.setSpan_progress (s : State) (n : Nat) (x : Span) : (s.setSpan n x).progress = s.progress := rfl

@[simp] theorem State.setSpan_gaps (s : State) (n : Nat) (x : Span) : (s.setSpan n x).gaps = s.gaps := rfl

@[simp] theorem State.setSpan_malformed (s : State) (n : Nat) (x : Span) : (s.setSpan n x).malformed = s.malformed := rfl

@[simp] theorem State.setSpan_tokens (s : State) (n : Nat) (x : Span) : (s.setSpan n x).tokens = s.tokens := rfl

@[simp] theorem State.setSpan_rpa (s : State) (n : Nat) (x : Span) : (s.setSpan n x).rpa = s.rpa := rfl

@[simp] theorem State.setSpan_damper (s : State) (n : Nat) (x : Span) : (s.setSpan n x).damper = s.damper := rfl

@[simp] theorem State.setSpan_lanes (s : State) (n : Nat) (x : Span) : (s.setSpan n x).lanes = s.lanes := rfl

@[simp] theorem State.setSpan_goodWin (s : State) (n : Nat) (x : Span) : (s.setSpan n x).goodWin = s.goodWin := rfl

@[simp] theorem State.setSpan_bonded (s : State) (n : Nat) (x : Span) : (s.setSpan n x).bonded = s.bonded := rfl

@[simp] theorem State.setSpan_heads (s : State) (n : Nat) (x : Span) : (s.setSpan n x).heads = s.heads := rfl

@[simp] theorem State.setSpan_cuts (s : State) (n : Nat) (x : Span) : (s.setSpan n x).cuts = s.cuts := rfl

@[simp] theorem State.setSpan_cutPkts (s : State) (n : Nat) (x : Span) : (s.setSpan n x).cutPkts = s.cutPkts := rfl

@[simp] theorem State.setSpan_enc (s : State) (n : Nat) (x : Span) : (s.setSpan n x).enc = s.enc := rfl

@[simp] theorem State.setSpan_ssi (s : State) (n : Nat) (x : Span) : (s.setSpan n x).ssi = s.ssi := rfl

@[simp] theorem State.setSpan_probes (s : State) (n : Nat) (x : Span) : (s.setSpan n x).probes = s.probes := rfl

@[simp] theorem State.setSpan_divs (s : State) (n : Nat) (x : Span) : (s.setSpan n x).divs = s.divs := rfl

@[simp] theorem State.setSpan_pfuTick (s : State) (n : Nat) (x : Span) : (s.setSpan n x).pfuTick = s.pfuTick := rfl

@[simp] theorem State.setSpan_web (s : State) (n : Nat) (x : Span) : (s.setSpan n x).web = s.web := rfl

@[simp] theorem State.setSpan_marks (s : State) (n : Nat) (x : Span) : (s.setSpan n x).marks = s.marks := rfl

@[simp] theorem State.setSpan_markPins (s : State) (n : Nat) (x : Span) : (s.setSpan n x).markPins = s.markPins := rfl

@[simp] theorem State.setSpan_tes (s : State) (n : Nat) (x : Span) : (s.setSpan n x).tes = s.tes := rfl

@[simp] theorem State.setSpan_views (s : State) (n : Nat) (x : Span) : (s.setSpan n x).views = s.views := rfl

@[simp] theorem State.setSpan_store (s : State) (n : Nat) (x : Span) : (s.setSpan n x).store = s.store := rfl

@[simp] theorem State.setSpan_strips (s : State) (n : Nat) (x : Span) : (s.setSpan n x).strips = s.strips := rfl

@[simp] theorem State.setSpan_commits (s : State) (n : Nat) (x : Span) : (s.setSpan n x).commits = s.commits := rfl

@[simp] theorem State.setSpan_recs (s : State) (n : Nat) (x : Span) : (s.setSpan n x).recs = s.recs := rfl

@[simp] theorem State.setSpan_dlg (s : State) (n : Nat) (x : Span) : (s.setSpan n x).dlg = s.dlg := rfl

@[simp] theorem State.setSpan_his (s : State) (n : Nat) (x : Span) : (s.setSpan n x).his = s.his := rfl

@[simp] theorem State.setSpan_ovs (s : State) (n : Nat) (x : Span) : (s.setSpan n x).ovs = s.ovs := rfl

@[simp] theorem State.setSpan_dmc (s : State) (n : Nat) (x : Span) : (s.setSpan n x).dmc = s.dmc := rfl

@[simp] theorem State.setSpan_dma (s : State) (n : Nat) (x : Span) : (s.setSpan n x).dma = s.dma := rfl

@[simp] theorem State.setSpan_hif (s : State) (n : Nat) (x : Span) : (s.setSpan n x).hif = s.hif := rfl

@[simp] theorem State.setSpan_wlk (s : State) (n : Nat) (x : Span) : (s.setSpan n x).wlk = s.wlk := rfl

@[simp] theorem State.setSpan_sent (s : State) (n : Nat) (x : Span) : (s.setSpan n x).sent = s.sent := rfl

@[simp] theorem State.setSpan_tnt (s : State) (n : Nat) (x : Span) : (s.setSpan n x).tnt = s.tnt := rfl

@[simp] theorem State.setSpan_dep (s : State) (n : Nat) (x : Span) : (s.setSpan n x).dep = s.dep := rfl

@[simp] theorem State.setSpan_power (s : State) (n : Nat) (x : Span) : (s.setSpan n x).power = s.power := rfl

@[simp] theorem State.setSpan_evr (s : State) (n : Nat) (x : Span) : (s.setSpan n x).evr = s.evr := rfl

@[simp] theorem State.setSpan_tw (s : State) (n : Nat) (x : Span) : (s.setSpan n x).tw = s.tw := rfl

@[simp] theorem State.setSpan_snap (s : State) (n : Nat) (x : Span) : (s.setSpan n x).snap = s.snap := rfl

@[simp] theorem State.setSpan_sampled (s : State) (n : Nat) (x : Span) : (s.setSpan n x).sampled = s.sampled := rfl

@[simp] theorem State.setSpan_pending (s : State) (n : Nat) (x : Span) : (s.setSpan n x).pending = s.pending := rfl

@[simp] theorem State.setSpan_word (s : State) (n : Nat) (x : Span) (z : Nat) : (s.setSpan n x).word z = s.word z := rfl

@[simp] theorem State.setSpan_rd2 (s : State) (n : Nat) (x : Span) (f : Field) (i j : Nat) : (s.setSpan n x).rd2 f i j = s.rd2 f i j := rfl

@[simp] theorem State.setSpan_rd (s : State) (n : Nat) (x : Span) (f : Field) (i : Nat) : (s.setSpan n x).rd f i = s.rd f i := rfl

@[simp] theorem State.setSpan_on (s : State) (n : Nat) (x : Span) (f : Field) (i : Nat) : (s.setSpan n x).on f i = s.on f i := rfl

@[simp] theorem State.setSpan_span_same (s : State) (n : Nat) (x : Span) : (s.setSpan n x).span n = x := Tbl.get_set_same _ _ _

theorem State.setSpan_span_ne (s : State) (n : Nat) (x : Span) {m : Nat} (ne : n ≠ m) : (s.setSpan n x).span m = s.span m := Tbl.get_set_ne _ _ ne

@[simp] theorem State.setLane_regs (s : State) (n : Nat) (x : Lane) : (s.setLane n x).regs = s.regs := rfl

@[simp] theorem State.setLane_mem (s : State) (n : Nat) (x : Lane) : (s.setLane n x).mem = s.mem := rfl

@[simp] theorem State.setLane_poison (s : State) (n : Nat) (x : Lane) : (s.setLane n x).poison = s.poison := rfl

@[simp] theorem State.setLane_free (s : State) (n : Nat) (x : Lane) : (s.setLane n x).free = s.free := rfl

@[simp] theorem State.setLane_procs (s : State) (n : Nat) (x : Lane) : (s.setLane n x).procs = s.procs := rfl

@[simp] theorem State.setLane_seq (s : State) (n : Nat) (x : Lane) : (s.setLane n x).seq = s.seq := rfl

@[simp] theorem State.setLane_transit (s : State) (n : Nat) (x : Lane) : (s.setLane n x).transit = s.transit := rfl

@[simp] theorem State.setLane_held (s : State) (n : Nat) (x : Lane) : (s.setLane n x).held = s.held := rfl

@[simp] theorem State.setLane_progress (s : State) (n : Nat) (x : Lane) : (s.setLane n x).progress = s.progress := rfl

@[simp] theorem State.setLane_gaps (s : State) (n : Nat) (x : Lane) : (s.setLane n x).gaps = s.gaps := rfl

@[simp] theorem State.setLane_sump (s : State) (n : Nat) (x : Lane) : (s.setLane n x).sump = s.sump := rfl

@[simp] theorem State.setLane_malformed (s : State) (n : Nat) (x : Lane) : (s.setLane n x).malformed = s.malformed := rfl

@[simp] theorem State.setLane_tokens (s : State) (n : Nat) (x : Lane) : (s.setLane n x).tokens = s.tokens := rfl

@[simp] theorem State.setLane_rpa (s : State) (n : Nat) (x : Lane) : (s.setLane n x).rpa = s.rpa := rfl

@[simp] theorem State.setLane_damper (s : State) (n : Nat) (x : Lane) : (s.setLane n x).damper = s.damper := rfl

@[simp] theorem State.setLane_goodWin (s : State) (n : Nat) (x : Lane) : (s.setLane n x).goodWin = s.goodWin := rfl

@[simp] theorem State.setLane_bonded (s : State) (n : Nat) (x : Lane) : (s.setLane n x).bonded = s.bonded := rfl

@[simp] theorem State.setLane_heads (s : State) (n : Nat) (x : Lane) : (s.setLane n x).heads = s.heads := rfl

@[simp] theorem State.setLane_cuts (s : State) (n : Nat) (x : Lane) : (s.setLane n x).cuts = s.cuts := rfl

@[simp] theorem State.setLane_cutPkts (s : State) (n : Nat) (x : Lane) : (s.setLane n x).cutPkts = s.cutPkts := rfl

@[simp] theorem State.setLane_enc (s : State) (n : Nat) (x : Lane) : (s.setLane n x).enc = s.enc := rfl

@[simp] theorem State.setLane_ssi (s : State) (n : Nat) (x : Lane) : (s.setLane n x).ssi = s.ssi := rfl

@[simp] theorem State.setLane_probes (s : State) (n : Nat) (x : Lane) : (s.setLane n x).probes = s.probes := rfl

@[simp] theorem State.setLane_divs (s : State) (n : Nat) (x : Lane) : (s.setLane n x).divs = s.divs := rfl

@[simp] theorem State.setLane_pfuTick (s : State) (n : Nat) (x : Lane) : (s.setLane n x).pfuTick = s.pfuTick := rfl

@[simp] theorem State.setLane_web (s : State) (n : Nat) (x : Lane) : (s.setLane n x).web = s.web := rfl

@[simp] theorem State.setLane_marks (s : State) (n : Nat) (x : Lane) : (s.setLane n x).marks = s.marks := rfl

@[simp] theorem State.setLane_markPins (s : State) (n : Nat) (x : Lane) : (s.setLane n x).markPins = s.markPins := rfl

@[simp] theorem State.setLane_tes (s : State) (n : Nat) (x : Lane) : (s.setLane n x).tes = s.tes := rfl

@[simp] theorem State.setLane_views (s : State) (n : Nat) (x : Lane) : (s.setLane n x).views = s.views := rfl

@[simp] theorem State.setLane_store (s : State) (n : Nat) (x : Lane) : (s.setLane n x).store = s.store := rfl

@[simp] theorem State.setLane_strips (s : State) (n : Nat) (x : Lane) : (s.setLane n x).strips = s.strips := rfl

@[simp] theorem State.setLane_commits (s : State) (n : Nat) (x : Lane) : (s.setLane n x).commits = s.commits := rfl

@[simp] theorem State.setLane_recs (s : State) (n : Nat) (x : Lane) : (s.setLane n x).recs = s.recs := rfl

@[simp] theorem State.setLane_dlg (s : State) (n : Nat) (x : Lane) : (s.setLane n x).dlg = s.dlg := rfl

@[simp] theorem State.setLane_his (s : State) (n : Nat) (x : Lane) : (s.setLane n x).his = s.his := rfl

@[simp] theorem State.setLane_ovs (s : State) (n : Nat) (x : Lane) : (s.setLane n x).ovs = s.ovs := rfl

@[simp] theorem State.setLane_dmc (s : State) (n : Nat) (x : Lane) : (s.setLane n x).dmc = s.dmc := rfl

@[simp] theorem State.setLane_dma (s : State) (n : Nat) (x : Lane) : (s.setLane n x).dma = s.dma := rfl

@[simp] theorem State.setLane_hif (s : State) (n : Nat) (x : Lane) : (s.setLane n x).hif = s.hif := rfl

@[simp] theorem State.setLane_wlk (s : State) (n : Nat) (x : Lane) : (s.setLane n x).wlk = s.wlk := rfl

@[simp] theorem State.setLane_sent (s : State) (n : Nat) (x : Lane) : (s.setLane n x).sent = s.sent := rfl

@[simp] theorem State.setLane_tnt (s : State) (n : Nat) (x : Lane) : (s.setLane n x).tnt = s.tnt := rfl

@[simp] theorem State.setLane_dep (s : State) (n : Nat) (x : Lane) : (s.setLane n x).dep = s.dep := rfl

@[simp] theorem State.setLane_power (s : State) (n : Nat) (x : Lane) : (s.setLane n x).power = s.power := rfl

@[simp] theorem State.setLane_evr (s : State) (n : Nat) (x : Lane) : (s.setLane n x).evr = s.evr := rfl

@[simp] theorem State.setLane_tw (s : State) (n : Nat) (x : Lane) : (s.setLane n x).tw = s.tw := rfl

@[simp] theorem State.setLane_snap (s : State) (n : Nat) (x : Lane) : (s.setLane n x).snap = s.snap := rfl

@[simp] theorem State.setLane_sampled (s : State) (n : Nat) (x : Lane) : (s.setLane n x).sampled = s.sampled := rfl

@[simp] theorem State.setLane_pending (s : State) (n : Nat) (x : Lane) : (s.setLane n x).pending = s.pending := rfl

@[simp] theorem State.setLane_word (s : State) (n : Nat) (x : Lane) (z : Nat) : (s.setLane n x).word z = s.word z := rfl

@[simp] theorem State.setLane_rd2 (s : State) (n : Nat) (x : Lane) (f : Field) (i j : Nat) : (s.setLane n x).rd2 f i j = s.rd2 f i j := rfl

@[simp] theorem State.setLane_rd (s : State) (n : Nat) (x : Lane) (f : Field) (i : Nat) : (s.setLane n x).rd f i = s.rd f i := rfl

@[simp] theorem State.setLane_on (s : State) (n : Nat) (x : Lane) (f : Field) (i : Nat) : (s.setLane n x).on f i = s.on f i := rfl

@[simp] theorem State.setLane_lane_same (s : State) (n : Nat) (x : Lane) : (s.setLane n x).lane n = x := Tbl.get_set_same _ _ _

theorem State.setLane_lane_ne (s : State) (n : Nat) (x : Lane) {m : Nat} (ne : n ≠ m) : (s.setLane n x).lane m = s.lane m := Tbl.get_set_ne _ _ ne

@[simp] theorem State.setHead_regs (s : State) (h : Nat) (x : HeadState) : (s.setHead h x).regs = s.regs := rfl

@[simp] theorem State.setHead_mem (s : State) (h : Nat) (x : HeadState) : (s.setHead h x).mem = s.mem := rfl

@[simp] theorem State.setHead_poison (s : State) (h : Nat) (x : HeadState) : (s.setHead h x).poison = s.poison := rfl

@[simp] theorem State.setHead_free (s : State) (h : Nat) (x : HeadState) : (s.setHead h x).free = s.free := rfl

@[simp] theorem State.setHead_procs (s : State) (h : Nat) (x : HeadState) : (s.setHead h x).procs = s.procs := rfl

@[simp] theorem State.setHead_seq (s : State) (h : Nat) (x : HeadState) : (s.setHead h x).seq = s.seq := rfl

@[simp] theorem State.setHead_transit (s : State) (h : Nat) (x : HeadState) : (s.setHead h x).transit = s.transit := rfl

@[simp] theorem State.setHead_held (s : State) (h : Nat) (x : HeadState) : (s.setHead h x).held = s.held := rfl

@[simp] theorem State.setHead_progress (s : State) (h : Nat) (x : HeadState) : (s.setHead h x).progress = s.progress := rfl

@[simp] theorem State.setHead_gaps (s : State) (h : Nat) (x : HeadState) : (s.setHead h x).gaps = s.gaps := rfl

@[simp] theorem State.setHead_sump (s : State) (h : Nat) (x : HeadState) : (s.setHead h x).sump = s.sump := rfl

@[simp] theorem State.setHead_malformed (s : State) (h : Nat) (x : HeadState) : (s.setHead h x).malformed = s.malformed := rfl

@[simp] theorem State.setHead_tokens (s : State) (h : Nat) (x : HeadState) : (s.setHead h x).tokens = s.tokens := rfl

@[simp] theorem State.setHead_rpa (s : State) (h : Nat) (x : HeadState) : (s.setHead h x).rpa = s.rpa := rfl

@[simp] theorem State.setHead_damper (s : State) (h : Nat) (x : HeadState) : (s.setHead h x).damper = s.damper := rfl

@[simp] theorem State.setHead_lanes (s : State) (h : Nat) (x : HeadState) : (s.setHead h x).lanes = s.lanes := rfl

@[simp] theorem State.setHead_goodWin (s : State) (h : Nat) (x : HeadState) : (s.setHead h x).goodWin = s.goodWin := rfl

@[simp] theorem State.setHead_bonded (s : State) (h : Nat) (x : HeadState) : (s.setHead h x).bonded = s.bonded := rfl

@[simp] theorem State.setHead_cuts (s : State) (h : Nat) (x : HeadState) : (s.setHead h x).cuts = s.cuts := rfl

@[simp] theorem State.setHead_cutPkts (s : State) (h : Nat) (x : HeadState) : (s.setHead h x).cutPkts = s.cutPkts := rfl

@[simp] theorem State.setHead_enc (s : State) (h : Nat) (x : HeadState) : (s.setHead h x).enc = s.enc := rfl

@[simp] theorem State.setHead_ssi (s : State) (h : Nat) (x : HeadState) : (s.setHead h x).ssi = s.ssi := rfl

@[simp] theorem State.setHead_probes (s : State) (h : Nat) (x : HeadState) : (s.setHead h x).probes = s.probes := rfl

@[simp] theorem State.setHead_divs (s : State) (h : Nat) (x : HeadState) : (s.setHead h x).divs = s.divs := rfl

@[simp] theorem State.setHead_pfuTick (s : State) (h : Nat) (x : HeadState) : (s.setHead h x).pfuTick = s.pfuTick := rfl

@[simp] theorem State.setHead_web (s : State) (h : Nat) (x : HeadState) : (s.setHead h x).web = s.web := rfl

@[simp] theorem State.setHead_marks (s : State) (h : Nat) (x : HeadState) : (s.setHead h x).marks = s.marks := rfl

@[simp] theorem State.setHead_markPins (s : State) (h : Nat) (x : HeadState) : (s.setHead h x).markPins = s.markPins := rfl

@[simp] theorem State.setHead_tes (s : State) (h : Nat) (x : HeadState) : (s.setHead h x).tes = s.tes := rfl

@[simp] theorem State.setHead_views (s : State) (h : Nat) (x : HeadState) : (s.setHead h x).views = s.views := rfl

@[simp] theorem State.setHead_store (s : State) (h : Nat) (x : HeadState) : (s.setHead h x).store = s.store := rfl

@[simp] theorem State.setHead_strips (s : State) (h : Nat) (x : HeadState) : (s.setHead h x).strips = s.strips := rfl

@[simp] theorem State.setHead_commits (s : State) (h : Nat) (x : HeadState) : (s.setHead h x).commits = s.commits := rfl

@[simp] theorem State.setHead_recs (s : State) (h : Nat) (x : HeadState) : (s.setHead h x).recs = s.recs := rfl

@[simp] theorem State.setHead_dlg (s : State) (h : Nat) (x : HeadState) : (s.setHead h x).dlg = s.dlg := rfl

@[simp] theorem State.setHead_his (s : State) (h : Nat) (x : HeadState) : (s.setHead h x).his = s.his := rfl

@[simp] theorem State.setHead_ovs (s : State) (h : Nat) (x : HeadState) : (s.setHead h x).ovs = s.ovs := rfl

@[simp] theorem State.setHead_dmc (s : State) (h : Nat) (x : HeadState) : (s.setHead h x).dmc = s.dmc := rfl

@[simp] theorem State.setHead_dma (s : State) (h : Nat) (x : HeadState) : (s.setHead h x).dma = s.dma := rfl

@[simp] theorem State.setHead_hif (s : State) (h : Nat) (x : HeadState) : (s.setHead h x).hif = s.hif := rfl

@[simp] theorem State.setHead_wlk (s : State) (h : Nat) (x : HeadState) : (s.setHead h x).wlk = s.wlk := rfl

@[simp] theorem State.setHead_sent (s : State) (h : Nat) (x : HeadState) : (s.setHead h x).sent = s.sent := rfl

@[simp] theorem State.setHead_tnt (s : State) (h : Nat) (x : HeadState) : (s.setHead h x).tnt = s.tnt := rfl

@[simp] theorem State.setHead_dep (s : State) (h : Nat) (x : HeadState) : (s.setHead h x).dep = s.dep := rfl

@[simp] theorem State.setHead_power (s : State) (h : Nat) (x : HeadState) : (s.setHead h x).power = s.power := rfl

@[simp] theorem State.setHead_evr (s : State) (h : Nat) (x : HeadState) : (s.setHead h x).evr = s.evr := rfl

@[simp] theorem State.setHead_tw (s : State) (h : Nat) (x : HeadState) : (s.setHead h x).tw = s.tw := rfl

@[simp] theorem State.setHead_snap (s : State) (h : Nat) (x : HeadState) : (s.setHead h x).snap = s.snap := rfl

@[simp] theorem State.setHead_sampled (s : State) (h : Nat) (x : HeadState) : (s.setHead h x).sampled = s.sampled := rfl

@[simp] theorem State.setHead_pending (s : State) (h : Nat) (x : HeadState) : (s.setHead h x).pending = s.pending := rfl

@[simp] theorem State.setHead_word (s : State) (h : Nat) (x : HeadState) (z : Nat) : (s.setHead h x).word z = s.word z := rfl

@[simp] theorem State.setHead_rd2 (s : State) (h : Nat) (x : HeadState) (f : Field) (i j : Nat) : (s.setHead h x).rd2 f i j = s.rd2 f i j := rfl

@[simp] theorem State.setHead_rd (s : State) (h : Nat) (x : HeadState) (f : Field) (i : Nat) : (s.setHead h x).rd f i = s.rd f i := rfl

@[simp] theorem State.setHead_on (s : State) (h : Nat) (x : HeadState) (f : Field) (i : Nat) : (s.setHead h x).on f i = s.on f i := rfl

@[simp] theorem State.setHead_head_same (s : State) (h : Nat) (x : HeadState) : (s.setHead h x).head h = x := Tbl.get_set_same _ _ _

theorem State.setHead_head_ne (s : State) (h : Nat) (x : HeadState) {m : Nat} (ne : h ≠ m) : (s.setHead h x).head m = s.head m := Tbl.get_set_ne _ _ ne

@[simp] theorem State.setTes_regs (s : State) (h : Nat) (x : TesState) : (s.setTes h x).regs = s.regs := rfl

@[simp] theorem State.setTes_mem (s : State) (h : Nat) (x : TesState) : (s.setTes h x).mem = s.mem := rfl

@[simp] theorem State.setTes_poison (s : State) (h : Nat) (x : TesState) : (s.setTes h x).poison = s.poison := rfl

@[simp] theorem State.setTes_free (s : State) (h : Nat) (x : TesState) : (s.setTes h x).free = s.free := rfl

@[simp] theorem State.setTes_procs (s : State) (h : Nat) (x : TesState) : (s.setTes h x).procs = s.procs := rfl

@[simp] theorem State.setTes_seq (s : State) (h : Nat) (x : TesState) : (s.setTes h x).seq = s.seq := rfl

@[simp] theorem State.setTes_transit (s : State) (h : Nat) (x : TesState) : (s.setTes h x).transit = s.transit := rfl

@[simp] theorem State.setTes_held (s : State) (h : Nat) (x : TesState) : (s.setTes h x).held = s.held := rfl

@[simp] theorem State.setTes_progress (s : State) (h : Nat) (x : TesState) : (s.setTes h x).progress = s.progress := rfl

@[simp] theorem State.setTes_gaps (s : State) (h : Nat) (x : TesState) : (s.setTes h x).gaps = s.gaps := rfl

@[simp] theorem State.setTes_sump (s : State) (h : Nat) (x : TesState) : (s.setTes h x).sump = s.sump := rfl

@[simp] theorem State.setTes_malformed (s : State) (h : Nat) (x : TesState) : (s.setTes h x).malformed = s.malformed := rfl

@[simp] theorem State.setTes_tokens (s : State) (h : Nat) (x : TesState) : (s.setTes h x).tokens = s.tokens := rfl

@[simp] theorem State.setTes_rpa (s : State) (h : Nat) (x : TesState) : (s.setTes h x).rpa = s.rpa := rfl

@[simp] theorem State.setTes_damper (s : State) (h : Nat) (x : TesState) : (s.setTes h x).damper = s.damper := rfl

@[simp] theorem State.setTes_lanes (s : State) (h : Nat) (x : TesState) : (s.setTes h x).lanes = s.lanes := rfl

@[simp] theorem State.setTes_goodWin (s : State) (h : Nat) (x : TesState) : (s.setTes h x).goodWin = s.goodWin := rfl

@[simp] theorem State.setTes_bonded (s : State) (h : Nat) (x : TesState) : (s.setTes h x).bonded = s.bonded := rfl

@[simp] theorem State.setTes_heads (s : State) (h : Nat) (x : TesState) : (s.setTes h x).heads = s.heads := rfl

@[simp] theorem State.setTes_cuts (s : State) (h : Nat) (x : TesState) : (s.setTes h x).cuts = s.cuts := rfl

@[simp] theorem State.setTes_cutPkts (s : State) (h : Nat) (x : TesState) : (s.setTes h x).cutPkts = s.cutPkts := rfl

@[simp] theorem State.setTes_enc (s : State) (h : Nat) (x : TesState) : (s.setTes h x).enc = s.enc := rfl

@[simp] theorem State.setTes_ssi (s : State) (h : Nat) (x : TesState) : (s.setTes h x).ssi = s.ssi := rfl

@[simp] theorem State.setTes_probes (s : State) (h : Nat) (x : TesState) : (s.setTes h x).probes = s.probes := rfl

@[simp] theorem State.setTes_divs (s : State) (h : Nat) (x : TesState) : (s.setTes h x).divs = s.divs := rfl

@[simp] theorem State.setTes_pfuTick (s : State) (h : Nat) (x : TesState) : (s.setTes h x).pfuTick = s.pfuTick := rfl

@[simp] theorem State.setTes_web (s : State) (h : Nat) (x : TesState) : (s.setTes h x).web = s.web := rfl

@[simp] theorem State.setTes_marks (s : State) (h : Nat) (x : TesState) : (s.setTes h x).marks = s.marks := rfl

@[simp] theorem State.setTes_markPins (s : State) (h : Nat) (x : TesState) : (s.setTes h x).markPins = s.markPins := rfl

@[simp] theorem State.setTes_views (s : State) (h : Nat) (x : TesState) : (s.setTes h x).views = s.views := rfl

@[simp] theorem State.setTes_store (s : State) (h : Nat) (x : TesState) : (s.setTes h x).store = s.store := rfl

@[simp] theorem State.setTes_strips (s : State) (h : Nat) (x : TesState) : (s.setTes h x).strips = s.strips := rfl

@[simp] theorem State.setTes_commits (s : State) (h : Nat) (x : TesState) : (s.setTes h x).commits = s.commits := rfl

@[simp] theorem State.setTes_recs (s : State) (h : Nat) (x : TesState) : (s.setTes h x).recs = s.recs := rfl

@[simp] theorem State.setTes_dlg (s : State) (h : Nat) (x : TesState) : (s.setTes h x).dlg = s.dlg := rfl

@[simp] theorem State.setTes_his (s : State) (h : Nat) (x : TesState) : (s.setTes h x).his = s.his := rfl

@[simp] theorem State.setTes_ovs (s : State) (h : Nat) (x : TesState) : (s.setTes h x).ovs = s.ovs := rfl

@[simp] theorem State.setTes_dmc (s : State) (h : Nat) (x : TesState) : (s.setTes h x).dmc = s.dmc := rfl

@[simp] theorem State.setTes_dma (s : State) (h : Nat) (x : TesState) : (s.setTes h x).dma = s.dma := rfl

@[simp] theorem State.setTes_hif (s : State) (h : Nat) (x : TesState) : (s.setTes h x).hif = s.hif := rfl

@[simp] theorem State.setTes_wlk (s : State) (h : Nat) (x : TesState) : (s.setTes h x).wlk = s.wlk := rfl

@[simp] theorem State.setTes_sent (s : State) (h : Nat) (x : TesState) : (s.setTes h x).sent = s.sent := rfl

@[simp] theorem State.setTes_tnt (s : State) (h : Nat) (x : TesState) : (s.setTes h x).tnt = s.tnt := rfl

@[simp] theorem State.setTes_dep (s : State) (h : Nat) (x : TesState) : (s.setTes h x).dep = s.dep := rfl

@[simp] theorem State.setTes_power (s : State) (h : Nat) (x : TesState) : (s.setTes h x).power = s.power := rfl

@[simp] theorem State.setTes_evr (s : State) (h : Nat) (x : TesState) : (s.setTes h x).evr = s.evr := rfl

@[simp] theorem State.setTes_tw (s : State) (h : Nat) (x : TesState) : (s.setTes h x).tw = s.tw := rfl

@[simp] theorem State.setTes_snap (s : State) (h : Nat) (x : TesState) : (s.setTes h x).snap = s.snap := rfl

@[simp] theorem State.setTes_sampled (s : State) (h : Nat) (x : TesState) : (s.setTes h x).sampled = s.sampled := rfl

@[simp] theorem State.setTes_pending (s : State) (h : Nat) (x : TesState) : (s.setTes h x).pending = s.pending := rfl

@[simp] theorem State.setTes_word (s : State) (h : Nat) (x : TesState) (z : Nat) : (s.setTes h x).word z = s.word z := rfl

@[simp] theorem State.setTes_rd2 (s : State) (h : Nat) (x : TesState) (f : Field) (i j : Nat) : (s.setTes h x).rd2 f i j = s.rd2 f i j := rfl

@[simp] theorem State.setTes_rd (s : State) (h : Nat) (x : TesState) (f : Field) (i : Nat) : (s.setTes h x).rd f i = s.rd f i := rfl

@[simp] theorem State.setTes_on (s : State) (h : Nat) (x : TesState) (f : Field) (i : Nat) : (s.setTes h x).on f i = s.on f i := rfl

@[simp] theorem State.setTes_tesOf_same (s : State) (h : Nat) (x : TesState) : (s.setTes h x).tesOf h = x := Tbl.get_set_same _ _ _

theorem State.setTes_tesOf_ne (s : State) (h : Nat) (x : TesState) {m : Nat} (ne : h ≠ m) : (s.setTes h x).tesOf m = s.tesOf m := Tbl.get_set_ne _ _ ne

@[simp] theorem State.setView_regs (s : State) (v : Nat) (x : ViewState) : (s.setView v x).regs = s.regs := rfl

@[simp] theorem State.setView_mem (s : State) (v : Nat) (x : ViewState) : (s.setView v x).mem = s.mem := rfl

@[simp] theorem State.setView_poison (s : State) (v : Nat) (x : ViewState) : (s.setView v x).poison = s.poison := rfl

@[simp] theorem State.setView_free (s : State) (v : Nat) (x : ViewState) : (s.setView v x).free = s.free := rfl

@[simp] theorem State.setView_procs (s : State) (v : Nat) (x : ViewState) : (s.setView v x).procs = s.procs := rfl

@[simp] theorem State.setView_seq (s : State) (v : Nat) (x : ViewState) : (s.setView v x).seq = s.seq := rfl

@[simp] theorem State.setView_transit (s : State) (v : Nat) (x : ViewState) : (s.setView v x).transit = s.transit := rfl

@[simp] theorem State.setView_held (s : State) (v : Nat) (x : ViewState) : (s.setView v x).held = s.held := rfl

@[simp] theorem State.setView_progress (s : State) (v : Nat) (x : ViewState) : (s.setView v x).progress = s.progress := rfl

@[simp] theorem State.setView_gaps (s : State) (v : Nat) (x : ViewState) : (s.setView v x).gaps = s.gaps := rfl

@[simp] theorem State.setView_sump (s : State) (v : Nat) (x : ViewState) : (s.setView v x).sump = s.sump := rfl

@[simp] theorem State.setView_malformed (s : State) (v : Nat) (x : ViewState) : (s.setView v x).malformed = s.malformed := rfl

@[simp] theorem State.setView_tokens (s : State) (v : Nat) (x : ViewState) : (s.setView v x).tokens = s.tokens := rfl

@[simp] theorem State.setView_rpa (s : State) (v : Nat) (x : ViewState) : (s.setView v x).rpa = s.rpa := rfl

@[simp] theorem State.setView_damper (s : State) (v : Nat) (x : ViewState) : (s.setView v x).damper = s.damper := rfl

@[simp] theorem State.setView_lanes (s : State) (v : Nat) (x : ViewState) : (s.setView v x).lanes = s.lanes := rfl

@[simp] theorem State.setView_goodWin (s : State) (v : Nat) (x : ViewState) : (s.setView v x).goodWin = s.goodWin := rfl

@[simp] theorem State.setView_bonded (s : State) (v : Nat) (x : ViewState) : (s.setView v x).bonded = s.bonded := rfl

@[simp] theorem State.setView_heads (s : State) (v : Nat) (x : ViewState) : (s.setView v x).heads = s.heads := rfl

@[simp] theorem State.setView_cuts (s : State) (v : Nat) (x : ViewState) : (s.setView v x).cuts = s.cuts := rfl

@[simp] theorem State.setView_cutPkts (s : State) (v : Nat) (x : ViewState) : (s.setView v x).cutPkts = s.cutPkts := rfl

@[simp] theorem State.setView_enc (s : State) (v : Nat) (x : ViewState) : (s.setView v x).enc = s.enc := rfl

@[simp] theorem State.setView_ssi (s : State) (v : Nat) (x : ViewState) : (s.setView v x).ssi = s.ssi := rfl

@[simp] theorem State.setView_probes (s : State) (v : Nat) (x : ViewState) : (s.setView v x).probes = s.probes := rfl

@[simp] theorem State.setView_divs (s : State) (v : Nat) (x : ViewState) : (s.setView v x).divs = s.divs := rfl

@[simp] theorem State.setView_pfuTick (s : State) (v : Nat) (x : ViewState) : (s.setView v x).pfuTick = s.pfuTick := rfl

@[simp] theorem State.setView_web (s : State) (v : Nat) (x : ViewState) : (s.setView v x).web = s.web := rfl

@[simp] theorem State.setView_marks (s : State) (v : Nat) (x : ViewState) : (s.setView v x).marks = s.marks := rfl

@[simp] theorem State.setView_markPins (s : State) (v : Nat) (x : ViewState) : (s.setView v x).markPins = s.markPins := rfl

@[simp] theorem State.setView_tes (s : State) (v : Nat) (x : ViewState) : (s.setView v x).tes = s.tes := rfl

@[simp] theorem State.setView_store (s : State) (v : Nat) (x : ViewState) : (s.setView v x).store = s.store := rfl

@[simp] theorem State.setView_strips (s : State) (v : Nat) (x : ViewState) : (s.setView v x).strips = s.strips := rfl

@[simp] theorem State.setView_commits (s : State) (v : Nat) (x : ViewState) : (s.setView v x).commits = s.commits := rfl

@[simp] theorem State.setView_recs (s : State) (v : Nat) (x : ViewState) : (s.setView v x).recs = s.recs := rfl

@[simp] theorem State.setView_dlg (s : State) (v : Nat) (x : ViewState) : (s.setView v x).dlg = s.dlg := rfl

@[simp] theorem State.setView_his (s : State) (v : Nat) (x : ViewState) : (s.setView v x).his = s.his := rfl

@[simp] theorem State.setView_ovs (s : State) (v : Nat) (x : ViewState) : (s.setView v x).ovs = s.ovs := rfl

@[simp] theorem State.setView_dmc (s : State) (v : Nat) (x : ViewState) : (s.setView v x).dmc = s.dmc := rfl

@[simp] theorem State.setView_dma (s : State) (v : Nat) (x : ViewState) : (s.setView v x).dma = s.dma := rfl

@[simp] theorem State.setView_hif (s : State) (v : Nat) (x : ViewState) : (s.setView v x).hif = s.hif := rfl

@[simp] theorem State.setView_wlk (s : State) (v : Nat) (x : ViewState) : (s.setView v x).wlk = s.wlk := rfl

@[simp] theorem State.setView_sent (s : State) (v : Nat) (x : ViewState) : (s.setView v x).sent = s.sent := rfl

@[simp] theorem State.setView_tnt (s : State) (v : Nat) (x : ViewState) : (s.setView v x).tnt = s.tnt := rfl

@[simp] theorem State.setView_dep (s : State) (v : Nat) (x : ViewState) : (s.setView v x).dep = s.dep := rfl

@[simp] theorem State.setView_power (s : State) (v : Nat) (x : ViewState) : (s.setView v x).power = s.power := rfl

@[simp] theorem State.setView_evr (s : State) (v : Nat) (x : ViewState) : (s.setView v x).evr = s.evr := rfl

@[simp] theorem State.setView_tw (s : State) (v : Nat) (x : ViewState) : (s.setView v x).tw = s.tw := rfl

@[simp] theorem State.setView_snap (s : State) (v : Nat) (x : ViewState) : (s.setView v x).snap = s.snap := rfl

@[simp] theorem State.setView_sampled (s : State) (v : Nat) (x : ViewState) : (s.setView v x).sampled = s.sampled := rfl

@[simp] theorem State.setView_pending (s : State) (v : Nat) (x : ViewState) : (s.setView v x).pending = s.pending := rfl

@[simp] theorem State.setView_word (s : State) (v : Nat) (x : ViewState) (z : Nat) : (s.setView v x).word z = s.word z := rfl

@[simp] theorem State.setView_rd2 (s : State) (v : Nat) (x : ViewState) (f : Field) (i j : Nat) : (s.setView v x).rd2 f i j = s.rd2 f i j := rfl

@[simp] theorem State.setView_rd (s : State) (v : Nat) (x : ViewState) (f : Field) (i : Nat) : (s.setView v x).rd f i = s.rd f i := rfl

@[simp] theorem State.setView_on (s : State) (v : Nat) (x : ViewState) (f : Field) (i : Nat) : (s.setView v x).on f i = s.on f i := rfl

@[simp] theorem State.setView_view_same (s : State) (v : Nat) (x : ViewState) : (s.setView v x).view v = x := Tbl.get_set_same _ _ _

theorem State.setView_view_ne (s : State) (v : Nat) (x : ViewState) {m : Nat} (ne : v ≠ m) : (s.setView v x).view m = s.view m := Tbl.get_set_ne _ _ ne

@[simp] theorem State.setEnc_regs (s : State) (c : Nat) (x : EncState) : (s.setEnc c x).regs = s.regs := rfl

@[simp] theorem State.setEnc_mem (s : State) (c : Nat) (x : EncState) : (s.setEnc c x).mem = s.mem := rfl

@[simp] theorem State.setEnc_poison (s : State) (c : Nat) (x : EncState) : (s.setEnc c x).poison = s.poison := rfl

@[simp] theorem State.setEnc_free (s : State) (c : Nat) (x : EncState) : (s.setEnc c x).free = s.free := rfl

@[simp] theorem State.setEnc_procs (s : State) (c : Nat) (x : EncState) : (s.setEnc c x).procs = s.procs := rfl

@[simp] theorem State.setEnc_seq (s : State) (c : Nat) (x : EncState) : (s.setEnc c x).seq = s.seq := rfl

@[simp] theorem State.setEnc_transit (s : State) (c : Nat) (x : EncState) : (s.setEnc c x).transit = s.transit := rfl

@[simp] theorem State.setEnc_held (s : State) (c : Nat) (x : EncState) : (s.setEnc c x).held = s.held := rfl

@[simp] theorem State.setEnc_progress (s : State) (c : Nat) (x : EncState) : (s.setEnc c x).progress = s.progress := rfl

@[simp] theorem State.setEnc_gaps (s : State) (c : Nat) (x : EncState) : (s.setEnc c x).gaps = s.gaps := rfl

@[simp] theorem State.setEnc_sump (s : State) (c : Nat) (x : EncState) : (s.setEnc c x).sump = s.sump := rfl

@[simp] theorem State.setEnc_malformed (s : State) (c : Nat) (x : EncState) : (s.setEnc c x).malformed = s.malformed := rfl

@[simp] theorem State.setEnc_tokens (s : State) (c : Nat) (x : EncState) : (s.setEnc c x).tokens = s.tokens := rfl

@[simp] theorem State.setEnc_rpa (s : State) (c : Nat) (x : EncState) : (s.setEnc c x).rpa = s.rpa := rfl

@[simp] theorem State.setEnc_damper (s : State) (c : Nat) (x : EncState) : (s.setEnc c x).damper = s.damper := rfl

@[simp] theorem State.setEnc_lanes (s : State) (c : Nat) (x : EncState) : (s.setEnc c x).lanes = s.lanes := rfl

@[simp] theorem State.setEnc_goodWin (s : State) (c : Nat) (x : EncState) : (s.setEnc c x).goodWin = s.goodWin := rfl

@[simp] theorem State.setEnc_bonded (s : State) (c : Nat) (x : EncState) : (s.setEnc c x).bonded = s.bonded := rfl

@[simp] theorem State.setEnc_heads (s : State) (c : Nat) (x : EncState) : (s.setEnc c x).heads = s.heads := rfl

@[simp] theorem State.setEnc_cuts (s : State) (c : Nat) (x : EncState) : (s.setEnc c x).cuts = s.cuts := rfl

@[simp] theorem State.setEnc_cutPkts (s : State) (c : Nat) (x : EncState) : (s.setEnc c x).cutPkts = s.cutPkts := rfl

@[simp] theorem State.setEnc_ssi (s : State) (c : Nat) (x : EncState) : (s.setEnc c x).ssi = s.ssi := rfl

@[simp] theorem State.setEnc_probes (s : State) (c : Nat) (x : EncState) : (s.setEnc c x).probes = s.probes := rfl

@[simp] theorem State.setEnc_divs (s : State) (c : Nat) (x : EncState) : (s.setEnc c x).divs = s.divs := rfl

@[simp] theorem State.setEnc_pfuTick (s : State) (c : Nat) (x : EncState) : (s.setEnc c x).pfuTick = s.pfuTick := rfl

@[simp] theorem State.setEnc_web (s : State) (c : Nat) (x : EncState) : (s.setEnc c x).web = s.web := rfl

@[simp] theorem State.setEnc_marks (s : State) (c : Nat) (x : EncState) : (s.setEnc c x).marks = s.marks := rfl

@[simp] theorem State.setEnc_markPins (s : State) (c : Nat) (x : EncState) : (s.setEnc c x).markPins = s.markPins := rfl

@[simp] theorem State.setEnc_tes (s : State) (c : Nat) (x : EncState) : (s.setEnc c x).tes = s.tes := rfl

@[simp] theorem State.setEnc_views (s : State) (c : Nat) (x : EncState) : (s.setEnc c x).views = s.views := rfl

@[simp] theorem State.setEnc_store (s : State) (c : Nat) (x : EncState) : (s.setEnc c x).store = s.store := rfl

@[simp] theorem State.setEnc_strips (s : State) (c : Nat) (x : EncState) : (s.setEnc c x).strips = s.strips := rfl

@[simp] theorem State.setEnc_commits (s : State) (c : Nat) (x : EncState) : (s.setEnc c x).commits = s.commits := rfl

@[simp] theorem State.setEnc_recs (s : State) (c : Nat) (x : EncState) : (s.setEnc c x).recs = s.recs := rfl

@[simp] theorem State.setEnc_dlg (s : State) (c : Nat) (x : EncState) : (s.setEnc c x).dlg = s.dlg := rfl

@[simp] theorem State.setEnc_his (s : State) (c : Nat) (x : EncState) : (s.setEnc c x).his = s.his := rfl

@[simp] theorem State.setEnc_ovs (s : State) (c : Nat) (x : EncState) : (s.setEnc c x).ovs = s.ovs := rfl

@[simp] theorem State.setEnc_dmc (s : State) (c : Nat) (x : EncState) : (s.setEnc c x).dmc = s.dmc := rfl

@[simp] theorem State.setEnc_dma (s : State) (c : Nat) (x : EncState) : (s.setEnc c x).dma = s.dma := rfl

@[simp] theorem State.setEnc_hif (s : State) (c : Nat) (x : EncState) : (s.setEnc c x).hif = s.hif := rfl

@[simp] theorem State.setEnc_wlk (s : State) (c : Nat) (x : EncState) : (s.setEnc c x).wlk = s.wlk := rfl

@[simp] theorem State.setEnc_sent (s : State) (c : Nat) (x : EncState) : (s.setEnc c x).sent = s.sent := rfl

@[simp] theorem State.setEnc_tnt (s : State) (c : Nat) (x : EncState) : (s.setEnc c x).tnt = s.tnt := rfl

@[simp] theorem State.setEnc_dep (s : State) (c : Nat) (x : EncState) : (s.setEnc c x).dep = s.dep := rfl

@[simp] theorem State.setEnc_power (s : State) (c : Nat) (x : EncState) : (s.setEnc c x).power = s.power := rfl

@[simp] theorem State.setEnc_evr (s : State) (c : Nat) (x : EncState) : (s.setEnc c x).evr = s.evr := rfl

@[simp] theorem State.setEnc_tw (s : State) (c : Nat) (x : EncState) : (s.setEnc c x).tw = s.tw := rfl

@[simp] theorem State.setEnc_snap (s : State) (c : Nat) (x : EncState) : (s.setEnc c x).snap = s.snap := rfl

@[simp] theorem State.setEnc_sampled (s : State) (c : Nat) (x : EncState) : (s.setEnc c x).sampled = s.sampled := rfl

@[simp] theorem State.setEnc_pending (s : State) (c : Nat) (x : EncState) : (s.setEnc c x).pending = s.pending := rfl

@[simp] theorem State.setEnc_word (s : State) (c : Nat) (x : EncState) (z : Nat) : (s.setEnc c x).word z = s.word z := rfl

@[simp] theorem State.setEnc_rd2 (s : State) (c : Nat) (x : EncState) (f : Field) (i j : Nat) : (s.setEnc c x).rd2 f i j = s.rd2 f i j := rfl

@[simp] theorem State.setEnc_rd (s : State) (c : Nat) (x : EncState) (f : Field) (i : Nat) : (s.setEnc c x).rd f i = s.rd f i := rfl

@[simp] theorem State.setEnc_on (s : State) (c : Nat) (x : EncState) (f : Field) (i : Nat) : (s.setEnc c x).on f i = s.on f i := rfl

@[simp] theorem State.setEnc_encOf_same (s : State) (c : Nat) (x : EncState) : (s.setEnc c x).encOf c = x := Tbl.get_set_same _ _ _

theorem State.setEnc_encOf_ne (s : State) (c : Nat) (x : EncState) {m : Nat} (ne : c ≠ m) : (s.setEnc c x).encOf m = s.encOf m := Tbl.get_set_ne _ _ ne

@[simp] theorem State.setSsi_regs (s : State) (k : Nat) (x : SsiState) : (s.setSsi k x).regs = s.regs := rfl

@[simp] theorem State.setSsi_mem (s : State) (k : Nat) (x : SsiState) : (s.setSsi k x).mem = s.mem := rfl

@[simp] theorem State.setSsi_poison (s : State) (k : Nat) (x : SsiState) : (s.setSsi k x).poison = s.poison := rfl

@[simp] theorem State.setSsi_free (s : State) (k : Nat) (x : SsiState) : (s.setSsi k x).free = s.free := rfl

@[simp] theorem State.setSsi_procs (s : State) (k : Nat) (x : SsiState) : (s.setSsi k x).procs = s.procs := rfl

@[simp] theorem State.setSsi_seq (s : State) (k : Nat) (x : SsiState) : (s.setSsi k x).seq = s.seq := rfl

@[simp] theorem State.setSsi_transit (s : State) (k : Nat) (x : SsiState) : (s.setSsi k x).transit = s.transit := rfl

@[simp] theorem State.setSsi_held (s : State) (k : Nat) (x : SsiState) : (s.setSsi k x).held = s.held := rfl

@[simp] theorem State.setSsi_progress (s : State) (k : Nat) (x : SsiState) : (s.setSsi k x).progress = s.progress := rfl

@[simp] theorem State.setSsi_gaps (s : State) (k : Nat) (x : SsiState) : (s.setSsi k x).gaps = s.gaps := rfl

@[simp] theorem State.setSsi_sump (s : State) (k : Nat) (x : SsiState) : (s.setSsi k x).sump = s.sump := rfl

@[simp] theorem State.setSsi_malformed (s : State) (k : Nat) (x : SsiState) : (s.setSsi k x).malformed = s.malformed := rfl

@[simp] theorem State.setSsi_tokens (s : State) (k : Nat) (x : SsiState) : (s.setSsi k x).tokens = s.tokens := rfl

@[simp] theorem State.setSsi_rpa (s : State) (k : Nat) (x : SsiState) : (s.setSsi k x).rpa = s.rpa := rfl

@[simp] theorem State.setSsi_damper (s : State) (k : Nat) (x : SsiState) : (s.setSsi k x).damper = s.damper := rfl

@[simp] theorem State.setSsi_lanes (s : State) (k : Nat) (x : SsiState) : (s.setSsi k x).lanes = s.lanes := rfl

@[simp] theorem State.setSsi_goodWin (s : State) (k : Nat) (x : SsiState) : (s.setSsi k x).goodWin = s.goodWin := rfl

@[simp] theorem State.setSsi_bonded (s : State) (k : Nat) (x : SsiState) : (s.setSsi k x).bonded = s.bonded := rfl

@[simp] theorem State.setSsi_heads (s : State) (k : Nat) (x : SsiState) : (s.setSsi k x).heads = s.heads := rfl

@[simp] theorem State.setSsi_cuts (s : State) (k : Nat) (x : SsiState) : (s.setSsi k x).cuts = s.cuts := rfl

@[simp] theorem State.setSsi_cutPkts (s : State) (k : Nat) (x : SsiState) : (s.setSsi k x).cutPkts = s.cutPkts := rfl

@[simp] theorem State.setSsi_enc (s : State) (k : Nat) (x : SsiState) : (s.setSsi k x).enc = s.enc := rfl

@[simp] theorem State.setSsi_probes (s : State) (k : Nat) (x : SsiState) : (s.setSsi k x).probes = s.probes := rfl

@[simp] theorem State.setSsi_divs (s : State) (k : Nat) (x : SsiState) : (s.setSsi k x).divs = s.divs := rfl

@[simp] theorem State.setSsi_pfuTick (s : State) (k : Nat) (x : SsiState) : (s.setSsi k x).pfuTick = s.pfuTick := rfl

@[simp] theorem State.setSsi_web (s : State) (k : Nat) (x : SsiState) : (s.setSsi k x).web = s.web := rfl

@[simp] theorem State.setSsi_marks (s : State) (k : Nat) (x : SsiState) : (s.setSsi k x).marks = s.marks := rfl

@[simp] theorem State.setSsi_markPins (s : State) (k : Nat) (x : SsiState) : (s.setSsi k x).markPins = s.markPins := rfl

@[simp] theorem State.setSsi_tes (s : State) (k : Nat) (x : SsiState) : (s.setSsi k x).tes = s.tes := rfl

@[simp] theorem State.setSsi_views (s : State) (k : Nat) (x : SsiState) : (s.setSsi k x).views = s.views := rfl

@[simp] theorem State.setSsi_store (s : State) (k : Nat) (x : SsiState) : (s.setSsi k x).store = s.store := rfl

@[simp] theorem State.setSsi_strips (s : State) (k : Nat) (x : SsiState) : (s.setSsi k x).strips = s.strips := rfl

@[simp] theorem State.setSsi_commits (s : State) (k : Nat) (x : SsiState) : (s.setSsi k x).commits = s.commits := rfl

@[simp] theorem State.setSsi_recs (s : State) (k : Nat) (x : SsiState) : (s.setSsi k x).recs = s.recs := rfl

@[simp] theorem State.setSsi_dlg (s : State) (k : Nat) (x : SsiState) : (s.setSsi k x).dlg = s.dlg := rfl

@[simp] theorem State.setSsi_his (s : State) (k : Nat) (x : SsiState) : (s.setSsi k x).his = s.his := rfl

@[simp] theorem State.setSsi_ovs (s : State) (k : Nat) (x : SsiState) : (s.setSsi k x).ovs = s.ovs := rfl

@[simp] theorem State.setSsi_dmc (s : State) (k : Nat) (x : SsiState) : (s.setSsi k x).dmc = s.dmc := rfl

@[simp] theorem State.setSsi_dma (s : State) (k : Nat) (x : SsiState) : (s.setSsi k x).dma = s.dma := rfl

@[simp] theorem State.setSsi_hif (s : State) (k : Nat) (x : SsiState) : (s.setSsi k x).hif = s.hif := rfl

@[simp] theorem State.setSsi_wlk (s : State) (k : Nat) (x : SsiState) : (s.setSsi k x).wlk = s.wlk := rfl

@[simp] theorem State.setSsi_sent (s : State) (k : Nat) (x : SsiState) : (s.setSsi k x).sent = s.sent := rfl

@[simp] theorem State.setSsi_tnt (s : State) (k : Nat) (x : SsiState) : (s.setSsi k x).tnt = s.tnt := rfl

@[simp] theorem State.setSsi_dep (s : State) (k : Nat) (x : SsiState) : (s.setSsi k x).dep = s.dep := rfl

@[simp] theorem State.setSsi_power (s : State) (k : Nat) (x : SsiState) : (s.setSsi k x).power = s.power := rfl

@[simp] theorem State.setSsi_evr (s : State) (k : Nat) (x : SsiState) : (s.setSsi k x).evr = s.evr := rfl

@[simp] theorem State.setSsi_tw (s : State) (k : Nat) (x : SsiState) : (s.setSsi k x).tw = s.tw := rfl

@[simp] theorem State.setSsi_snap (s : State) (k : Nat) (x : SsiState) : (s.setSsi k x).snap = s.snap := rfl

@[simp] theorem State.setSsi_sampled (s : State) (k : Nat) (x : SsiState) : (s.setSsi k x).sampled = s.sampled := rfl

@[simp] theorem State.setSsi_pending (s : State) (k : Nat) (x : SsiState) : (s.setSsi k x).pending = s.pending := rfl

@[simp] theorem State.setSsi_word (s : State) (k : Nat) (x : SsiState) (z : Nat) : (s.setSsi k x).word z = s.word z := rfl

@[simp] theorem State.setSsi_rd2 (s : State) (k : Nat) (x : SsiState) (f : Field) (i j : Nat) : (s.setSsi k x).rd2 f i j = s.rd2 f i j := rfl

@[simp] theorem State.setSsi_rd (s : State) (k : Nat) (x : SsiState) (f : Field) (i : Nat) : (s.setSsi k x).rd f i = s.rd f i := rfl

@[simp] theorem State.setSsi_on (s : State) (k : Nat) (x : SsiState) (f : Field) (i : Nat) : (s.setSsi k x).on f i = s.on f i := rfl

@[simp] theorem State.setSsi_ssiOf_same (s : State) (k : Nat) (x : SsiState) : (s.setSsi k x).ssiOf k = x := Tbl.get_set_same _ _ _

theorem State.setSsi_ssiOf_ne (s : State) (k : Nat) (x : SsiState) {m : Nat} (ne : k ≠ m) : (s.setSsi k x).ssiOf m = s.ssiOf m := Tbl.get_set_ne _ _ ne

@[simp] theorem State.setDiv_regs (s : State) (n : Nat) (x : DivState) : (s.setDiv n x).regs = s.regs := rfl

@[simp] theorem State.setDiv_mem (s : State) (n : Nat) (x : DivState) : (s.setDiv n x).mem = s.mem := rfl

@[simp] theorem State.setDiv_poison (s : State) (n : Nat) (x : DivState) : (s.setDiv n x).poison = s.poison := rfl

@[simp] theorem State.setDiv_free (s : State) (n : Nat) (x : DivState) : (s.setDiv n x).free = s.free := rfl

@[simp] theorem State.setDiv_procs (s : State) (n : Nat) (x : DivState) : (s.setDiv n x).procs = s.procs := rfl

@[simp] theorem State.setDiv_seq (s : State) (n : Nat) (x : DivState) : (s.setDiv n x).seq = s.seq := rfl

@[simp] theorem State.setDiv_transit (s : State) (n : Nat) (x : DivState) : (s.setDiv n x).transit = s.transit := rfl

@[simp] theorem State.setDiv_held (s : State) (n : Nat) (x : DivState) : (s.setDiv n x).held = s.held := rfl

@[simp] theorem State.setDiv_progress (s : State) (n : Nat) (x : DivState) : (s.setDiv n x).progress = s.progress := rfl

@[simp] theorem State.setDiv_gaps (s : State) (n : Nat) (x : DivState) : (s.setDiv n x).gaps = s.gaps := rfl

@[simp] theorem State.setDiv_sump (s : State) (n : Nat) (x : DivState) : (s.setDiv n x).sump = s.sump := rfl

@[simp] theorem State.setDiv_malformed (s : State) (n : Nat) (x : DivState) : (s.setDiv n x).malformed = s.malformed := rfl

@[simp] theorem State.setDiv_tokens (s : State) (n : Nat) (x : DivState) : (s.setDiv n x).tokens = s.tokens := rfl

@[simp] theorem State.setDiv_rpa (s : State) (n : Nat) (x : DivState) : (s.setDiv n x).rpa = s.rpa := rfl

@[simp] theorem State.setDiv_damper (s : State) (n : Nat) (x : DivState) : (s.setDiv n x).damper = s.damper := rfl

@[simp] theorem State.setDiv_lanes (s : State) (n : Nat) (x : DivState) : (s.setDiv n x).lanes = s.lanes := rfl

@[simp] theorem State.setDiv_goodWin (s : State) (n : Nat) (x : DivState) : (s.setDiv n x).goodWin = s.goodWin := rfl

@[simp] theorem State.setDiv_bonded (s : State) (n : Nat) (x : DivState) : (s.setDiv n x).bonded = s.bonded := rfl

@[simp] theorem State.setDiv_heads (s : State) (n : Nat) (x : DivState) : (s.setDiv n x).heads = s.heads := rfl

@[simp] theorem State.setDiv_cuts (s : State) (n : Nat) (x : DivState) : (s.setDiv n x).cuts = s.cuts := rfl

@[simp] theorem State.setDiv_cutPkts (s : State) (n : Nat) (x : DivState) : (s.setDiv n x).cutPkts = s.cutPkts := rfl

@[simp] theorem State.setDiv_enc (s : State) (n : Nat) (x : DivState) : (s.setDiv n x).enc = s.enc := rfl

@[simp] theorem State.setDiv_ssi (s : State) (n : Nat) (x : DivState) : (s.setDiv n x).ssi = s.ssi := rfl

@[simp] theorem State.setDiv_probes (s : State) (n : Nat) (x : DivState) : (s.setDiv n x).probes = s.probes := rfl

@[simp] theorem State.setDiv_pfuTick (s : State) (n : Nat) (x : DivState) : (s.setDiv n x).pfuTick = s.pfuTick := rfl

@[simp] theorem State.setDiv_web (s : State) (n : Nat) (x : DivState) : (s.setDiv n x).web = s.web := rfl

@[simp] theorem State.setDiv_marks (s : State) (n : Nat) (x : DivState) : (s.setDiv n x).marks = s.marks := rfl

@[simp] theorem State.setDiv_markPins (s : State) (n : Nat) (x : DivState) : (s.setDiv n x).markPins = s.markPins := rfl

@[simp] theorem State.setDiv_tes (s : State) (n : Nat) (x : DivState) : (s.setDiv n x).tes = s.tes := rfl

@[simp] theorem State.setDiv_views (s : State) (n : Nat) (x : DivState) : (s.setDiv n x).views = s.views := rfl

@[simp] theorem State.setDiv_store (s : State) (n : Nat) (x : DivState) : (s.setDiv n x).store = s.store := rfl

@[simp] theorem State.setDiv_strips (s : State) (n : Nat) (x : DivState) : (s.setDiv n x).strips = s.strips := rfl

@[simp] theorem State.setDiv_commits (s : State) (n : Nat) (x : DivState) : (s.setDiv n x).commits = s.commits := rfl

@[simp] theorem State.setDiv_recs (s : State) (n : Nat) (x : DivState) : (s.setDiv n x).recs = s.recs := rfl

@[simp] theorem State.setDiv_dlg (s : State) (n : Nat) (x : DivState) : (s.setDiv n x).dlg = s.dlg := rfl

@[simp] theorem State.setDiv_his (s : State) (n : Nat) (x : DivState) : (s.setDiv n x).his = s.his := rfl

@[simp] theorem State.setDiv_ovs (s : State) (n : Nat) (x : DivState) : (s.setDiv n x).ovs = s.ovs := rfl

@[simp] theorem State.setDiv_dmc (s : State) (n : Nat) (x : DivState) : (s.setDiv n x).dmc = s.dmc := rfl

@[simp] theorem State.setDiv_dma (s : State) (n : Nat) (x : DivState) : (s.setDiv n x).dma = s.dma := rfl

@[simp] theorem State.setDiv_hif (s : State) (n : Nat) (x : DivState) : (s.setDiv n x).hif = s.hif := rfl

@[simp] theorem State.setDiv_wlk (s : State) (n : Nat) (x : DivState) : (s.setDiv n x).wlk = s.wlk := rfl

@[simp] theorem State.setDiv_sent (s : State) (n : Nat) (x : DivState) : (s.setDiv n x).sent = s.sent := rfl

@[simp] theorem State.setDiv_tnt (s : State) (n : Nat) (x : DivState) : (s.setDiv n x).tnt = s.tnt := rfl

@[simp] theorem State.setDiv_dep (s : State) (n : Nat) (x : DivState) : (s.setDiv n x).dep = s.dep := rfl

@[simp] theorem State.setDiv_power (s : State) (n : Nat) (x : DivState) : (s.setDiv n x).power = s.power := rfl

@[simp] theorem State.setDiv_evr (s : State) (n : Nat) (x : DivState) : (s.setDiv n x).evr = s.evr := rfl

@[simp] theorem State.setDiv_tw (s : State) (n : Nat) (x : DivState) : (s.setDiv n x).tw = s.tw := rfl

@[simp] theorem State.setDiv_snap (s : State) (n : Nat) (x : DivState) : (s.setDiv n x).snap = s.snap := rfl

@[simp] theorem State.setDiv_sampled (s : State) (n : Nat) (x : DivState) : (s.setDiv n x).sampled = s.sampled := rfl

@[simp] theorem State.setDiv_pending (s : State) (n : Nat) (x : DivState) : (s.setDiv n x).pending = s.pending := rfl

@[simp] theorem State.setDiv_word (s : State) (n : Nat) (x : DivState) (z : Nat) : (s.setDiv n x).word z = s.word z := rfl

@[simp] theorem State.setDiv_rd2 (s : State) (n : Nat) (x : DivState) (f : Field) (i j : Nat) : (s.setDiv n x).rd2 f i j = s.rd2 f i j := rfl

@[simp] theorem State.setDiv_rd (s : State) (n : Nat) (x : DivState) (f : Field) (i : Nat) : (s.setDiv n x).rd f i = s.rd f i := rfl

@[simp] theorem State.setDiv_on (s : State) (n : Nat) (x : DivState) (f : Field) (i : Nat) : (s.setDiv n x).on f i = s.on f i := rfl

@[simp] theorem State.setDiv_divOf_same (s : State) (n : Nat) (x : DivState) : (s.setDiv n x).divOf n = x := Tbl.get_set_same _ _ _

theorem State.setDiv_divOf_ne (s : State) (n : Nat) (x : DivState) {m : Nat} (ne : n ≠ m) : (s.setDiv n x).divOf m = s.divOf m := Tbl.get_set_ne _ _ ne

@[simp] theorem State.setOvs_regs (s : State) (k : Nat) (x : OvsState) : (s.setOvs k x).regs = s.regs := rfl

@[simp] theorem State.setOvs_mem (s : State) (k : Nat) (x : OvsState) : (s.setOvs k x).mem = s.mem := rfl

@[simp] theorem State.setOvs_poison (s : State) (k : Nat) (x : OvsState) : (s.setOvs k x).poison = s.poison := rfl

@[simp] theorem State.setOvs_free (s : State) (k : Nat) (x : OvsState) : (s.setOvs k x).free = s.free := rfl

@[simp] theorem State.setOvs_procs (s : State) (k : Nat) (x : OvsState) : (s.setOvs k x).procs = s.procs := rfl

@[simp] theorem State.setOvs_seq (s : State) (k : Nat) (x : OvsState) : (s.setOvs k x).seq = s.seq := rfl

@[simp] theorem State.setOvs_transit (s : State) (k : Nat) (x : OvsState) : (s.setOvs k x).transit = s.transit := rfl

@[simp] theorem State.setOvs_held (s : State) (k : Nat) (x : OvsState) : (s.setOvs k x).held = s.held := rfl

@[simp] theorem State.setOvs_progress (s : State) (k : Nat) (x : OvsState) : (s.setOvs k x).progress = s.progress := rfl

@[simp] theorem State.setOvs_gaps (s : State) (k : Nat) (x : OvsState) : (s.setOvs k x).gaps = s.gaps := rfl

@[simp] theorem State.setOvs_sump (s : State) (k : Nat) (x : OvsState) : (s.setOvs k x).sump = s.sump := rfl

@[simp] theorem State.setOvs_malformed (s : State) (k : Nat) (x : OvsState) : (s.setOvs k x).malformed = s.malformed := rfl

@[simp] theorem State.setOvs_tokens (s : State) (k : Nat) (x : OvsState) : (s.setOvs k x).tokens = s.tokens := rfl

@[simp] theorem State.setOvs_rpa (s : State) (k : Nat) (x : OvsState) : (s.setOvs k x).rpa = s.rpa := rfl

@[simp] theorem State.setOvs_damper (s : State) (k : Nat) (x : OvsState) : (s.setOvs k x).damper = s.damper := rfl

@[simp] theorem State.setOvs_lanes (s : State) (k : Nat) (x : OvsState) : (s.setOvs k x).lanes = s.lanes := rfl

@[simp] theorem State.setOvs_goodWin (s : State) (k : Nat) (x : OvsState) : (s.setOvs k x).goodWin = s.goodWin := rfl

@[simp] theorem State.setOvs_bonded (s : State) (k : Nat) (x : OvsState) : (s.setOvs k x).bonded = s.bonded := rfl

@[simp] theorem State.setOvs_heads (s : State) (k : Nat) (x : OvsState) : (s.setOvs k x).heads = s.heads := rfl

@[simp] theorem State.setOvs_cuts (s : State) (k : Nat) (x : OvsState) : (s.setOvs k x).cuts = s.cuts := rfl

@[simp] theorem State.setOvs_cutPkts (s : State) (k : Nat) (x : OvsState) : (s.setOvs k x).cutPkts = s.cutPkts := rfl

@[simp] theorem State.setOvs_enc (s : State) (k : Nat) (x : OvsState) : (s.setOvs k x).enc = s.enc := rfl

@[simp] theorem State.setOvs_ssi (s : State) (k : Nat) (x : OvsState) : (s.setOvs k x).ssi = s.ssi := rfl

@[simp] theorem State.setOvs_probes (s : State) (k : Nat) (x : OvsState) : (s.setOvs k x).probes = s.probes := rfl

@[simp] theorem State.setOvs_divs (s : State) (k : Nat) (x : OvsState) : (s.setOvs k x).divs = s.divs := rfl

@[simp] theorem State.setOvs_pfuTick (s : State) (k : Nat) (x : OvsState) : (s.setOvs k x).pfuTick = s.pfuTick := rfl

@[simp] theorem State.setOvs_web (s : State) (k : Nat) (x : OvsState) : (s.setOvs k x).web = s.web := rfl

@[simp] theorem State.setOvs_marks (s : State) (k : Nat) (x : OvsState) : (s.setOvs k x).marks = s.marks := rfl

@[simp] theorem State.setOvs_markPins (s : State) (k : Nat) (x : OvsState) : (s.setOvs k x).markPins = s.markPins := rfl

@[simp] theorem State.setOvs_tes (s : State) (k : Nat) (x : OvsState) : (s.setOvs k x).tes = s.tes := rfl

@[simp] theorem State.setOvs_views (s : State) (k : Nat) (x : OvsState) : (s.setOvs k x).views = s.views := rfl

@[simp] theorem State.setOvs_store (s : State) (k : Nat) (x : OvsState) : (s.setOvs k x).store = s.store := rfl

@[simp] theorem State.setOvs_strips (s : State) (k : Nat) (x : OvsState) : (s.setOvs k x).strips = s.strips := rfl

@[simp] theorem State.setOvs_commits (s : State) (k : Nat) (x : OvsState) : (s.setOvs k x).commits = s.commits := rfl

@[simp] theorem State.setOvs_recs (s : State) (k : Nat) (x : OvsState) : (s.setOvs k x).recs = s.recs := rfl

@[simp] theorem State.setOvs_dlg (s : State) (k : Nat) (x : OvsState) : (s.setOvs k x).dlg = s.dlg := rfl

@[simp] theorem State.setOvs_his (s : State) (k : Nat) (x : OvsState) : (s.setOvs k x).his = s.his := rfl

@[simp] theorem State.setOvs_dmc (s : State) (k : Nat) (x : OvsState) : (s.setOvs k x).dmc = s.dmc := rfl

@[simp] theorem State.setOvs_dma (s : State) (k : Nat) (x : OvsState) : (s.setOvs k x).dma = s.dma := rfl

@[simp] theorem State.setOvs_hif (s : State) (k : Nat) (x : OvsState) : (s.setOvs k x).hif = s.hif := rfl

@[simp] theorem State.setOvs_wlk (s : State) (k : Nat) (x : OvsState) : (s.setOvs k x).wlk = s.wlk := rfl

@[simp] theorem State.setOvs_sent (s : State) (k : Nat) (x : OvsState) : (s.setOvs k x).sent = s.sent := rfl

@[simp] theorem State.setOvs_tnt (s : State) (k : Nat) (x : OvsState) : (s.setOvs k x).tnt = s.tnt := rfl

@[simp] theorem State.setOvs_dep (s : State) (k : Nat) (x : OvsState) : (s.setOvs k x).dep = s.dep := rfl

@[simp] theorem State.setOvs_power (s : State) (k : Nat) (x : OvsState) : (s.setOvs k x).power = s.power := rfl

@[simp] theorem State.setOvs_evr (s : State) (k : Nat) (x : OvsState) : (s.setOvs k x).evr = s.evr := rfl

@[simp] theorem State.setOvs_tw (s : State) (k : Nat) (x : OvsState) : (s.setOvs k x).tw = s.tw := rfl

@[simp] theorem State.setOvs_snap (s : State) (k : Nat) (x : OvsState) : (s.setOvs k x).snap = s.snap := rfl

@[simp] theorem State.setOvs_sampled (s : State) (k : Nat) (x : OvsState) : (s.setOvs k x).sampled = s.sampled := rfl

@[simp] theorem State.setOvs_pending (s : State) (k : Nat) (x : OvsState) : (s.setOvs k x).pending = s.pending := rfl

@[simp] theorem State.setOvs_word (s : State) (k : Nat) (x : OvsState) (z : Nat) : (s.setOvs k x).word z = s.word z := rfl

@[simp] theorem State.setOvs_rd2 (s : State) (k : Nat) (x : OvsState) (f : Field) (i j : Nat) : (s.setOvs k x).rd2 f i j = s.rd2 f i j := rfl

@[simp] theorem State.setOvs_rd (s : State) (k : Nat) (x : OvsState) (f : Field) (i : Nat) : (s.setOvs k x).rd f i = s.rd f i := rfl

@[simp] theorem State.setOvs_on (s : State) (k : Nat) (x : OvsState) (f : Field) (i : Nat) : (s.setOvs k x).on f i = s.on f i := rfl

@[simp] theorem State.setOvs_ovsOf_same (s : State) (k : Nat) (x : OvsState) : (s.setOvs k x).ovsOf k = x := Tbl.get_set_same _ _ _

theorem State.setOvs_ovsOf_ne (s : State) (k : Nat) (x : OvsState) {m : Nat} (ne : k ≠ m) : (s.setOvs k x).ovsOf m = s.ovsOf m := Tbl.get_set_ne _ _ ne

@[simp] theorem State.setDram_regs (s : State) (c : Nat) (x : DmcState) : (s.setDram c x).regs = s.regs := rfl

@[simp] theorem State.setDram_mem (s : State) (c : Nat) (x : DmcState) : (s.setDram c x).mem = s.mem := rfl

@[simp] theorem State.setDram_poison (s : State) (c : Nat) (x : DmcState) : (s.setDram c x).poison = s.poison := rfl

@[simp] theorem State.setDram_free (s : State) (c : Nat) (x : DmcState) : (s.setDram c x).free = s.free := rfl

@[simp] theorem State.setDram_procs (s : State) (c : Nat) (x : DmcState) : (s.setDram c x).procs = s.procs := rfl

@[simp] theorem State.setDram_seq (s : State) (c : Nat) (x : DmcState) : (s.setDram c x).seq = s.seq := rfl

@[simp] theorem State.setDram_transit (s : State) (c : Nat) (x : DmcState) : (s.setDram c x).transit = s.transit := rfl

@[simp] theorem State.setDram_held (s : State) (c : Nat) (x : DmcState) : (s.setDram c x).held = s.held := rfl

@[simp] theorem State.setDram_progress (s : State) (c : Nat) (x : DmcState) : (s.setDram c x).progress = s.progress := rfl

@[simp] theorem State.setDram_gaps (s : State) (c : Nat) (x : DmcState) : (s.setDram c x).gaps = s.gaps := rfl

@[simp] theorem State.setDram_sump (s : State) (c : Nat) (x : DmcState) : (s.setDram c x).sump = s.sump := rfl

@[simp] theorem State.setDram_malformed (s : State) (c : Nat) (x : DmcState) : (s.setDram c x).malformed = s.malformed := rfl

@[simp] theorem State.setDram_tokens (s : State) (c : Nat) (x : DmcState) : (s.setDram c x).tokens = s.tokens := rfl

@[simp] theorem State.setDram_rpa (s : State) (c : Nat) (x : DmcState) : (s.setDram c x).rpa = s.rpa := rfl

@[simp] theorem State.setDram_damper (s : State) (c : Nat) (x : DmcState) : (s.setDram c x).damper = s.damper := rfl

@[simp] theorem State.setDram_lanes (s : State) (c : Nat) (x : DmcState) : (s.setDram c x).lanes = s.lanes := rfl

@[simp] theorem State.setDram_goodWin (s : State) (c : Nat) (x : DmcState) : (s.setDram c x).goodWin = s.goodWin := rfl

@[simp] theorem State.setDram_bonded (s : State) (c : Nat) (x : DmcState) : (s.setDram c x).bonded = s.bonded := rfl

@[simp] theorem State.setDram_heads (s : State) (c : Nat) (x : DmcState) : (s.setDram c x).heads = s.heads := rfl

@[simp] theorem State.setDram_cuts (s : State) (c : Nat) (x : DmcState) : (s.setDram c x).cuts = s.cuts := rfl

@[simp] theorem State.setDram_cutPkts (s : State) (c : Nat) (x : DmcState) : (s.setDram c x).cutPkts = s.cutPkts := rfl

@[simp] theorem State.setDram_enc (s : State) (c : Nat) (x : DmcState) : (s.setDram c x).enc = s.enc := rfl

@[simp] theorem State.setDram_ssi (s : State) (c : Nat) (x : DmcState) : (s.setDram c x).ssi = s.ssi := rfl

@[simp] theorem State.setDram_probes (s : State) (c : Nat) (x : DmcState) : (s.setDram c x).probes = s.probes := rfl

@[simp] theorem State.setDram_divs (s : State) (c : Nat) (x : DmcState) : (s.setDram c x).divs = s.divs := rfl

@[simp] theorem State.setDram_pfuTick (s : State) (c : Nat) (x : DmcState) : (s.setDram c x).pfuTick = s.pfuTick := rfl

@[simp] theorem State.setDram_web (s : State) (c : Nat) (x : DmcState) : (s.setDram c x).web = s.web := rfl

@[simp] theorem State.setDram_marks (s : State) (c : Nat) (x : DmcState) : (s.setDram c x).marks = s.marks := rfl

@[simp] theorem State.setDram_markPins (s : State) (c : Nat) (x : DmcState) : (s.setDram c x).markPins = s.markPins := rfl

@[simp] theorem State.setDram_tes (s : State) (c : Nat) (x : DmcState) : (s.setDram c x).tes = s.tes := rfl

@[simp] theorem State.setDram_views (s : State) (c : Nat) (x : DmcState) : (s.setDram c x).views = s.views := rfl

@[simp] theorem State.setDram_store (s : State) (c : Nat) (x : DmcState) : (s.setDram c x).store = s.store := rfl

@[simp] theorem State.setDram_strips (s : State) (c : Nat) (x : DmcState) : (s.setDram c x).strips = s.strips := rfl

@[simp] theorem State.setDram_commits (s : State) (c : Nat) (x : DmcState) : (s.setDram c x).commits = s.commits := rfl

@[simp] theorem State.setDram_recs (s : State) (c : Nat) (x : DmcState) : (s.setDram c x).recs = s.recs := rfl

@[simp] theorem State.setDram_dlg (s : State) (c : Nat) (x : DmcState) : (s.setDram c x).dlg = s.dlg := rfl

@[simp] theorem State.setDram_his (s : State) (c : Nat) (x : DmcState) : (s.setDram c x).his = s.his := rfl

@[simp] theorem State.setDram_ovs (s : State) (c : Nat) (x : DmcState) : (s.setDram c x).ovs = s.ovs := rfl

@[simp] theorem State.setDram_dma (s : State) (c : Nat) (x : DmcState) : (s.setDram c x).dma = s.dma := rfl

@[simp] theorem State.setDram_hif (s : State) (c : Nat) (x : DmcState) : (s.setDram c x).hif = s.hif := rfl

@[simp] theorem State.setDram_wlk (s : State) (c : Nat) (x : DmcState) : (s.setDram c x).wlk = s.wlk := rfl

@[simp] theorem State.setDram_sent (s : State) (c : Nat) (x : DmcState) : (s.setDram c x).sent = s.sent := rfl

@[simp] theorem State.setDram_tnt (s : State) (c : Nat) (x : DmcState) : (s.setDram c x).tnt = s.tnt := rfl

@[simp] theorem State.setDram_dep (s : State) (c : Nat) (x : DmcState) : (s.setDram c x).dep = s.dep := rfl

@[simp] theorem State.setDram_power (s : State) (c : Nat) (x : DmcState) : (s.setDram c x).power = s.power := rfl

@[simp] theorem State.setDram_evr (s : State) (c : Nat) (x : DmcState) : (s.setDram c x).evr = s.evr := rfl

@[simp] theorem State.setDram_tw (s : State) (c : Nat) (x : DmcState) : (s.setDram c x).tw = s.tw := rfl

@[simp] theorem State.setDram_snap (s : State) (c : Nat) (x : DmcState) : (s.setDram c x).snap = s.snap := rfl

@[simp] theorem State.setDram_sampled (s : State) (c : Nat) (x : DmcState) : (s.setDram c x).sampled = s.sampled := rfl

@[simp] theorem State.setDram_pending (s : State) (c : Nat) (x : DmcState) : (s.setDram c x).pending = s.pending := rfl

@[simp] theorem State.setDram_word (s : State) (c : Nat) (x : DmcState) (z : Nat) : (s.setDram c x).word z = s.word z := rfl

@[simp] theorem State.setDram_rd2 (s : State) (c : Nat) (x : DmcState) (f : Field) (i j : Nat) : (s.setDram c x).rd2 f i j = s.rd2 f i j := rfl

@[simp] theorem State.setDram_rd (s : State) (c : Nat) (x : DmcState) (f : Field) (i : Nat) : (s.setDram c x).rd f i = s.rd f i := rfl

@[simp] theorem State.setDram_on (s : State) (c : Nat) (x : DmcState) (f : Field) (i : Nat) : (s.setDram c x).on f i = s.on f i := rfl

@[simp] theorem State.setDram_dram_same (s : State) (c : Nat) (x : DmcState) : (s.setDram c x).dram c = x := Tbl.get_set_same _ _ _

theorem State.setDram_dram_ne (s : State) (c : Nat) (x : DmcState) {m : Nat} (ne : c ≠ m) : (s.setDram c x).dram m = s.dram m := Tbl.get_set_ne _ _ ne

@[simp] theorem State.setTw_regs (s : State) (p : Nat) (x : TwState) : (s.setTw p x).regs = s.regs := rfl

@[simp] theorem State.setTw_mem (s : State) (p : Nat) (x : TwState) : (s.setTw p x).mem = s.mem := rfl

@[simp] theorem State.setTw_poison (s : State) (p : Nat) (x : TwState) : (s.setTw p x).poison = s.poison := rfl

@[simp] theorem State.setTw_free (s : State) (p : Nat) (x : TwState) : (s.setTw p x).free = s.free := rfl

@[simp] theorem State.setTw_procs (s : State) (p : Nat) (x : TwState) : (s.setTw p x).procs = s.procs := rfl

@[simp] theorem State.setTw_seq (s : State) (p : Nat) (x : TwState) : (s.setTw p x).seq = s.seq := rfl

@[simp] theorem State.setTw_transit (s : State) (p : Nat) (x : TwState) : (s.setTw p x).transit = s.transit := rfl

@[simp] theorem State.setTw_held (s : State) (p : Nat) (x : TwState) : (s.setTw p x).held = s.held := rfl

@[simp] theorem State.setTw_progress (s : State) (p : Nat) (x : TwState) : (s.setTw p x).progress = s.progress := rfl

@[simp] theorem State.setTw_gaps (s : State) (p : Nat) (x : TwState) : (s.setTw p x).gaps = s.gaps := rfl

@[simp] theorem State.setTw_sump (s : State) (p : Nat) (x : TwState) : (s.setTw p x).sump = s.sump := rfl

@[simp] theorem State.setTw_malformed (s : State) (p : Nat) (x : TwState) : (s.setTw p x).malformed = s.malformed := rfl

@[simp] theorem State.setTw_tokens (s : State) (p : Nat) (x : TwState) : (s.setTw p x).tokens = s.tokens := rfl

@[simp] theorem State.setTw_rpa (s : State) (p : Nat) (x : TwState) : (s.setTw p x).rpa = s.rpa := rfl

@[simp] theorem State.setTw_damper (s : State) (p : Nat) (x : TwState) : (s.setTw p x).damper = s.damper := rfl

@[simp] theorem State.setTw_lanes (s : State) (p : Nat) (x : TwState) : (s.setTw p x).lanes = s.lanes := rfl

@[simp] theorem State.setTw_goodWin (s : State) (p : Nat) (x : TwState) : (s.setTw p x).goodWin = s.goodWin := rfl

@[simp] theorem State.setTw_bonded (s : State) (p : Nat) (x : TwState) : (s.setTw p x).bonded = s.bonded := rfl

@[simp] theorem State.setTw_heads (s : State) (p : Nat) (x : TwState) : (s.setTw p x).heads = s.heads := rfl

@[simp] theorem State.setTw_cuts (s : State) (p : Nat) (x : TwState) : (s.setTw p x).cuts = s.cuts := rfl

@[simp] theorem State.setTw_cutPkts (s : State) (p : Nat) (x : TwState) : (s.setTw p x).cutPkts = s.cutPkts := rfl

@[simp] theorem State.setTw_enc (s : State) (p : Nat) (x : TwState) : (s.setTw p x).enc = s.enc := rfl

@[simp] theorem State.setTw_ssi (s : State) (p : Nat) (x : TwState) : (s.setTw p x).ssi = s.ssi := rfl

@[simp] theorem State.setTw_probes (s : State) (p : Nat) (x : TwState) : (s.setTw p x).probes = s.probes := rfl

@[simp] theorem State.setTw_divs (s : State) (p : Nat) (x : TwState) : (s.setTw p x).divs = s.divs := rfl

@[simp] theorem State.setTw_pfuTick (s : State) (p : Nat) (x : TwState) : (s.setTw p x).pfuTick = s.pfuTick := rfl

@[simp] theorem State.setTw_web (s : State) (p : Nat) (x : TwState) : (s.setTw p x).web = s.web := rfl

@[simp] theorem State.setTw_marks (s : State) (p : Nat) (x : TwState) : (s.setTw p x).marks = s.marks := rfl

@[simp] theorem State.setTw_markPins (s : State) (p : Nat) (x : TwState) : (s.setTw p x).markPins = s.markPins := rfl

@[simp] theorem State.setTw_tes (s : State) (p : Nat) (x : TwState) : (s.setTw p x).tes = s.tes := rfl

@[simp] theorem State.setTw_views (s : State) (p : Nat) (x : TwState) : (s.setTw p x).views = s.views := rfl

@[simp] theorem State.setTw_store (s : State) (p : Nat) (x : TwState) : (s.setTw p x).store = s.store := rfl

@[simp] theorem State.setTw_strips (s : State) (p : Nat) (x : TwState) : (s.setTw p x).strips = s.strips := rfl

@[simp] theorem State.setTw_commits (s : State) (p : Nat) (x : TwState) : (s.setTw p x).commits = s.commits := rfl

@[simp] theorem State.setTw_recs (s : State) (p : Nat) (x : TwState) : (s.setTw p x).recs = s.recs := rfl

@[simp] theorem State.setTw_dlg (s : State) (p : Nat) (x : TwState) : (s.setTw p x).dlg = s.dlg := rfl

@[simp] theorem State.setTw_his (s : State) (p : Nat) (x : TwState) : (s.setTw p x).his = s.his := rfl

@[simp] theorem State.setTw_ovs (s : State) (p : Nat) (x : TwState) : (s.setTw p x).ovs = s.ovs := rfl

@[simp] theorem State.setTw_dmc (s : State) (p : Nat) (x : TwState) : (s.setTw p x).dmc = s.dmc := rfl

@[simp] theorem State.setTw_dma (s : State) (p : Nat) (x : TwState) : (s.setTw p x).dma = s.dma := rfl

@[simp] theorem State.setTw_hif (s : State) (p : Nat) (x : TwState) : (s.setTw p x).hif = s.hif := rfl

@[simp] theorem State.setTw_wlk (s : State) (p : Nat) (x : TwState) : (s.setTw p x).wlk = s.wlk := rfl

@[simp] theorem State.setTw_sent (s : State) (p : Nat) (x : TwState) : (s.setTw p x).sent = s.sent := rfl

@[simp] theorem State.setTw_tnt (s : State) (p : Nat) (x : TwState) : (s.setTw p x).tnt = s.tnt := rfl

@[simp] theorem State.setTw_dep (s : State) (p : Nat) (x : TwState) : (s.setTw p x).dep = s.dep := rfl

@[simp] theorem State.setTw_power (s : State) (p : Nat) (x : TwState) : (s.setTw p x).power = s.power := rfl

@[simp] theorem State.setTw_evr (s : State) (p : Nat) (x : TwState) : (s.setTw p x).evr = s.evr := rfl

@[simp] theorem State.setTw_snap (s : State) (p : Nat) (x : TwState) : (s.setTw p x).snap = s.snap := rfl

@[simp] theorem State.setTw_sampled (s : State) (p : Nat) (x : TwState) : (s.setTw p x).sampled = s.sampled := rfl

@[simp] theorem State.setTw_pending (s : State) (p : Nat) (x : TwState) : (s.setTw p x).pending = s.pending := rfl

@[simp] theorem State.setTw_word (s : State) (p : Nat) (x : TwState) (z : Nat) : (s.setTw p x).word z = s.word z := rfl

@[simp] theorem State.setTw_rd2 (s : State) (p : Nat) (x : TwState) (f : Field) (i j : Nat) : (s.setTw p x).rd2 f i j = s.rd2 f i j := rfl

@[simp] theorem State.setTw_rd (s : State) (p : Nat) (x : TwState) (f : Field) (i : Nat) : (s.setTw p x).rd f i = s.rd f i := rfl

@[simp] theorem State.setTw_on (s : State) (p : Nat) (x : TwState) (f : Field) (i : Nat) : (s.setTw p x).on f i = s.on f i := rfl

@[simp] theorem State.setTw_twOf_same (s : State) (p : Nat) (x : TwState) : (s.setTw p x).twOf p = x := Tbl.get_set_same _ _ _

theorem State.setTw_twOf_ne (s : State) (p : Nat) (x : TwState) {m : Nat} (ne : p ≠ m) : (s.setTw p x).twOf m = s.twOf m := Tbl.get_set_ne _ _ ne

@[simp] theorem State.setEth_regs (s : State) (e : Nat) (x : EthState) : (s.setEth e x).regs = s.regs := rfl

@[simp] theorem State.setEth_mem (s : State) (e : Nat) (x : EthState) : (s.setEth e x).mem = s.mem := rfl

@[simp] theorem State.setEth_poison (s : State) (e : Nat) (x : EthState) : (s.setEth e x).poison = s.poison := rfl

@[simp] theorem State.setEth_free (s : State) (e : Nat) (x : EthState) : (s.setEth e x).free = s.free := rfl

@[simp] theorem State.setEth_procs (s : State) (e : Nat) (x : EthState) : (s.setEth e x).procs = s.procs := rfl

@[simp] theorem State.setEth_seq (s : State) (e : Nat) (x : EthState) : (s.setEth e x).seq = s.seq := rfl

@[simp] theorem State.setEth_transit (s : State) (e : Nat) (x : EthState) : (s.setEth e x).transit = s.transit := rfl

@[simp] theorem State.setEth_held (s : State) (e : Nat) (x : EthState) : (s.setEth e x).held = s.held := rfl

@[simp] theorem State.setEth_progress (s : State) (e : Nat) (x : EthState) : (s.setEth e x).progress = s.progress := rfl

@[simp] theorem State.setEth_gaps (s : State) (e : Nat) (x : EthState) : (s.setEth e x).gaps = s.gaps := rfl

@[simp] theorem State.setEth_sump (s : State) (e : Nat) (x : EthState) : (s.setEth e x).sump = s.sump := rfl

@[simp] theorem State.setEth_malformed (s : State) (e : Nat) (x : EthState) : (s.setEth e x).malformed = s.malformed := rfl

@[simp] theorem State.setEth_tokens (s : State) (e : Nat) (x : EthState) : (s.setEth e x).tokens = s.tokens := rfl

@[simp] theorem State.setEth_rpa (s : State) (e : Nat) (x : EthState) : (s.setEth e x).rpa = s.rpa := rfl

@[simp] theorem State.setEth_damper (s : State) (e : Nat) (x : EthState) : (s.setEth e x).damper = s.damper := rfl

@[simp] theorem State.setEth_lanes (s : State) (e : Nat) (x : EthState) : (s.setEth e x).lanes = s.lanes := rfl

@[simp] theorem State.setEth_goodWin (s : State) (e : Nat) (x : EthState) : (s.setEth e x).goodWin = s.goodWin := rfl

@[simp] theorem State.setEth_bonded (s : State) (e : Nat) (x : EthState) : (s.setEth e x).bonded = s.bonded := rfl

@[simp] theorem State.setEth_heads (s : State) (e : Nat) (x : EthState) : (s.setEth e x).heads = s.heads := rfl

@[simp] theorem State.setEth_cuts (s : State) (e : Nat) (x : EthState) : (s.setEth e x).cuts = s.cuts := rfl

@[simp] theorem State.setEth_cutPkts (s : State) (e : Nat) (x : EthState) : (s.setEth e x).cutPkts = s.cutPkts := rfl

@[simp] theorem State.setEth_enc (s : State) (e : Nat) (x : EthState) : (s.setEth e x).enc = s.enc := rfl

@[simp] theorem State.setEth_ssi (s : State) (e : Nat) (x : EthState) : (s.setEth e x).ssi = s.ssi := rfl

@[simp] theorem State.setEth_probes (s : State) (e : Nat) (x : EthState) : (s.setEth e x).probes = s.probes := rfl

@[simp] theorem State.setEth_divs (s : State) (e : Nat) (x : EthState) : (s.setEth e x).divs = s.divs := rfl

@[simp] theorem State.setEth_pfuTick (s : State) (e : Nat) (x : EthState) : (s.setEth e x).pfuTick = s.pfuTick := rfl

@[simp] theorem State.setEth_web (s : State) (e : Nat) (x : EthState) : (s.setEth e x).web = s.web := rfl

@[simp] theorem State.setEth_marks (s : State) (e : Nat) (x : EthState) : (s.setEth e x).marks = s.marks := rfl

@[simp] theorem State.setEth_markPins (s : State) (e : Nat) (x : EthState) : (s.setEth e x).markPins = s.markPins := rfl

@[simp] theorem State.setEth_tes (s : State) (e : Nat) (x : EthState) : (s.setEth e x).tes = s.tes := rfl

@[simp] theorem State.setEth_views (s : State) (e : Nat) (x : EthState) : (s.setEth e x).views = s.views := rfl

@[simp] theorem State.setEth_store (s : State) (e : Nat) (x : EthState) : (s.setEth e x).store = s.store := rfl

@[simp] theorem State.setEth_strips (s : State) (e : Nat) (x : EthState) : (s.setEth e x).strips = s.strips := rfl

@[simp] theorem State.setEth_commits (s : State) (e : Nat) (x : EthState) : (s.setEth e x).commits = s.commits := rfl

@[simp] theorem State.setEth_recs (s : State) (e : Nat) (x : EthState) : (s.setEth e x).recs = s.recs := rfl

@[simp] theorem State.setEth_dlg (s : State) (e : Nat) (x : EthState) : (s.setEth e x).dlg = s.dlg := rfl

@[simp] theorem State.setEth_his (s : State) (e : Nat) (x : EthState) : (s.setEth e x).his = s.his := rfl

@[simp] theorem State.setEth_ovs (s : State) (e : Nat) (x : EthState) : (s.setEth e x).ovs = s.ovs := rfl

@[simp] theorem State.setEth_dmc (s : State) (e : Nat) (x : EthState) : (s.setEth e x).dmc = s.dmc := rfl

@[simp] theorem State.setEth_dma (s : State) (e : Nat) (x : EthState) : (s.setEth e x).dma = s.dma := rfl

@[simp] theorem State.setEth_hif (s : State) (e : Nat) (x : EthState) : (s.setEth e x).hif = s.hif := rfl

@[simp] theorem State.setEth_wlk (s : State) (e : Nat) (x : EthState) : (s.setEth e x).wlk = s.wlk := rfl

@[simp] theorem State.setEth_sent (s : State) (e : Nat) (x : EthState) : (s.setEth e x).sent = s.sent := rfl

@[simp] theorem State.setEth_dep (s : State) (e : Nat) (x : EthState) : (s.setEth e x).dep = s.dep := rfl

@[simp] theorem State.setEth_power (s : State) (e : Nat) (x : EthState) : (s.setEth e x).power = s.power := rfl

@[simp] theorem State.setEth_evr (s : State) (e : Nat) (x : EthState) : (s.setEth e x).evr = s.evr := rfl

@[simp] theorem State.setEth_tw (s : State) (e : Nat) (x : EthState) : (s.setEth e x).tw = s.tw := rfl

@[simp] theorem State.setEth_snap (s : State) (e : Nat) (x : EthState) : (s.setEth e x).snap = s.snap := rfl

@[simp] theorem State.setEth_sampled (s : State) (e : Nat) (x : EthState) : (s.setEth e x).sampled = s.sampled := rfl

@[simp] theorem State.setEth_pending (s : State) (e : Nat) (x : EthState) : (s.setEth e x).pending = s.pending := rfl

@[simp] theorem State.setEth_word (s : State) (e : Nat) (x : EthState) (z : Nat) : (s.setEth e x).word z = s.word z := rfl

@[simp] theorem State.setEth_rd2 (s : State) (e : Nat) (x : EthState) (f : Field) (i j : Nat) : (s.setEth e x).rd2 f i j = s.rd2 f i j := rfl

@[simp] theorem State.setEth_rd (s : State) (e : Nat) (x : EthState) (f : Field) (i : Nat) : (s.setEth e x).rd f i = s.rd f i := rfl

@[simp] theorem State.setEth_on (s : State) (e : Nat) (x : EthState) (f : Field) (i : Nat) : (s.setEth e x).on f i = s.on f i := rfl

@[simp] theorem State.setPort_regs (s : State) (p : Nat) (x : Hello) : (s.setPort p x).regs = s.regs := rfl

@[simp] theorem State.setPort_mem (s : State) (p : Nat) (x : Hello) : (s.setPort p x).mem = s.mem := rfl

@[simp] theorem State.setPort_poison (s : State) (p : Nat) (x : Hello) : (s.setPort p x).poison = s.poison := rfl

@[simp] theorem State.setPort_free (s : State) (p : Nat) (x : Hello) : (s.setPort p x).free = s.free := rfl

@[simp] theorem State.setPort_procs (s : State) (p : Nat) (x : Hello) : (s.setPort p x).procs = s.procs := rfl

@[simp] theorem State.setPort_seq (s : State) (p : Nat) (x : Hello) : (s.setPort p x).seq = s.seq := rfl

@[simp] theorem State.setPort_transit (s : State) (p : Nat) (x : Hello) : (s.setPort p x).transit = s.transit := rfl

@[simp] theorem State.setPort_held (s : State) (p : Nat) (x : Hello) : (s.setPort p x).held = s.held := rfl

@[simp] theorem State.setPort_progress (s : State) (p : Nat) (x : Hello) : (s.setPort p x).progress = s.progress := rfl

@[simp] theorem State.setPort_gaps (s : State) (p : Nat) (x : Hello) : (s.setPort p x).gaps = s.gaps := rfl

@[simp] theorem State.setPort_sump (s : State) (p : Nat) (x : Hello) : (s.setPort p x).sump = s.sump := rfl

@[simp] theorem State.setPort_malformed (s : State) (p : Nat) (x : Hello) : (s.setPort p x).malformed = s.malformed := rfl

@[simp] theorem State.setPort_tokens (s : State) (p : Nat) (x : Hello) : (s.setPort p x).tokens = s.tokens := rfl

@[simp] theorem State.setPort_rpa (s : State) (p : Nat) (x : Hello) : (s.setPort p x).rpa = s.rpa := rfl

@[simp] theorem State.setPort_damper (s : State) (p : Nat) (x : Hello) : (s.setPort p x).damper = s.damper := rfl

@[simp] theorem State.setPort_lanes (s : State) (p : Nat) (x : Hello) : (s.setPort p x).lanes = s.lanes := rfl

@[simp] theorem State.setPort_goodWin (s : State) (p : Nat) (x : Hello) : (s.setPort p x).goodWin = s.goodWin := rfl

@[simp] theorem State.setPort_bonded (s : State) (p : Nat) (x : Hello) : (s.setPort p x).bonded = s.bonded := rfl

@[simp] theorem State.setPort_heads (s : State) (p : Nat) (x : Hello) : (s.setPort p x).heads = s.heads := rfl

@[simp] theorem State.setPort_cuts (s : State) (p : Nat) (x : Hello) : (s.setPort p x).cuts = s.cuts := rfl

@[simp] theorem State.setPort_cutPkts (s : State) (p : Nat) (x : Hello) : (s.setPort p x).cutPkts = s.cutPkts := rfl

@[simp] theorem State.setPort_enc (s : State) (p : Nat) (x : Hello) : (s.setPort p x).enc = s.enc := rfl

@[simp] theorem State.setPort_ssi (s : State) (p : Nat) (x : Hello) : (s.setPort p x).ssi = s.ssi := rfl

@[simp] theorem State.setPort_probes (s : State) (p : Nat) (x : Hello) : (s.setPort p x).probes = s.probes := rfl

@[simp] theorem State.setPort_divs (s : State) (p : Nat) (x : Hello) : (s.setPort p x).divs = s.divs := rfl

@[simp] theorem State.setPort_pfuTick (s : State) (p : Nat) (x : Hello) : (s.setPort p x).pfuTick = s.pfuTick := rfl

@[simp] theorem State.setPort_web (s : State) (p : Nat) (x : Hello) : (s.setPort p x).web = s.web := rfl

@[simp] theorem State.setPort_marks (s : State) (p : Nat) (x : Hello) : (s.setPort p x).marks = s.marks := rfl

@[simp] theorem State.setPort_markPins (s : State) (p : Nat) (x : Hello) : (s.setPort p x).markPins = s.markPins := rfl

@[simp] theorem State.setPort_tes (s : State) (p : Nat) (x : Hello) : (s.setPort p x).tes = s.tes := rfl

@[simp] theorem State.setPort_views (s : State) (p : Nat) (x : Hello) : (s.setPort p x).views = s.views := rfl

@[simp] theorem State.setPort_store (s : State) (p : Nat) (x : Hello) : (s.setPort p x).store = s.store := rfl

@[simp] theorem State.setPort_strips (s : State) (p : Nat) (x : Hello) : (s.setPort p x).strips = s.strips := rfl

@[simp] theorem State.setPort_commits (s : State) (p : Nat) (x : Hello) : (s.setPort p x).commits = s.commits := rfl

@[simp] theorem State.setPort_recs (s : State) (p : Nat) (x : Hello) : (s.setPort p x).recs = s.recs := rfl

@[simp] theorem State.setPort_dlg (s : State) (p : Nat) (x : Hello) : (s.setPort p x).dlg = s.dlg := rfl

@[simp] theorem State.setPort_his (s : State) (p : Nat) (x : Hello) : (s.setPort p x).his = s.his := rfl

@[simp] theorem State.setPort_ovs (s : State) (p : Nat) (x : Hello) : (s.setPort p x).ovs = s.ovs := rfl

@[simp] theorem State.setPort_dmc (s : State) (p : Nat) (x : Hello) : (s.setPort p x).dmc = s.dmc := rfl

@[simp] theorem State.setPort_dma (s : State) (p : Nat) (x : Hello) : (s.setPort p x).dma = s.dma := rfl

@[simp] theorem State.setPort_hif (s : State) (p : Nat) (x : Hello) : (s.setPort p x).hif = s.hif := rfl

@[simp] theorem State.setPort_sent (s : State) (p : Nat) (x : Hello) : (s.setPort p x).sent = s.sent := rfl

@[simp] theorem State.setPort_tnt (s : State) (p : Nat) (x : Hello) : (s.setPort p x).tnt = s.tnt := rfl

@[simp] theorem State.setPort_dep (s : State) (p : Nat) (x : Hello) : (s.setPort p x).dep = s.dep := rfl

@[simp] theorem State.setPort_power (s : State) (p : Nat) (x : Hello) : (s.setPort p x).power = s.power := rfl

@[simp] theorem State.setPort_evr (s : State) (p : Nat) (x : Hello) : (s.setPort p x).evr = s.evr := rfl

@[simp] theorem State.setPort_tw (s : State) (p : Nat) (x : Hello) : (s.setPort p x).tw = s.tw := rfl

@[simp] theorem State.setPort_snap (s : State) (p : Nat) (x : Hello) : (s.setPort p x).snap = s.snap := rfl

@[simp] theorem State.setPort_sampled (s : State) (p : Nat) (x : Hello) : (s.setPort p x).sampled = s.sampled := rfl

@[simp] theorem State.setPort_pending (s : State) (p : Nat) (x : Hello) : (s.setPort p x).pending = s.pending := rfl

@[simp] theorem State.setPort_word (s : State) (p : Nat) (x : Hello) (z : Nat) : (s.setPort p x).word z = s.word z := rfl

@[simp] theorem State.setPort_rd2 (s : State) (p : Nat) (x : Hello) (f : Field) (i j : Nat) : (s.setPort p x).rd2 f i j = s.rd2 f i j := rfl

@[simp] theorem State.setPort_rd (s : State) (p : Nat) (x : Hello) (f : Field) (i : Nat) : (s.setPort p x).rd f i = s.rd f i := rfl

@[simp] theorem State.setPort_on (s : State) (p : Nat) (x : Hello) (f : Field) (i : Nat) : (s.setPort p x).on f i = s.on f i := rfl

@[simp] theorem State.setWlk_regs (s : State) (x : WlkState) : (s.setWlk x).regs = s.regs := rfl

@[simp] theorem State.setWlk_mem (s : State) (x : WlkState) : (s.setWlk x).mem = s.mem := rfl

@[simp] theorem State.setWlk_poison (s : State) (x : WlkState) : (s.setWlk x).poison = s.poison := rfl

@[simp] theorem State.setWlk_free (s : State) (x : WlkState) : (s.setWlk x).free = s.free := rfl

@[simp] theorem State.setWlk_procs (s : State) (x : WlkState) : (s.setWlk x).procs = s.procs := rfl

@[simp] theorem State.setWlk_seq (s : State) (x : WlkState) : (s.setWlk x).seq = s.seq := rfl

@[simp] theorem State.setWlk_transit (s : State) (x : WlkState) : (s.setWlk x).transit = s.transit := rfl

@[simp] theorem State.setWlk_held (s : State) (x : WlkState) : (s.setWlk x).held = s.held := rfl

@[simp] theorem State.setWlk_progress (s : State) (x : WlkState) : (s.setWlk x).progress = s.progress := rfl

@[simp] theorem State.setWlk_gaps (s : State) (x : WlkState) : (s.setWlk x).gaps = s.gaps := rfl

@[simp] theorem State.setWlk_sump (s : State) (x : WlkState) : (s.setWlk x).sump = s.sump := rfl

@[simp] theorem State.setWlk_malformed (s : State) (x : WlkState) : (s.setWlk x).malformed = s.malformed := rfl

@[simp] theorem State.setWlk_tokens (s : State) (x : WlkState) : (s.setWlk x).tokens = s.tokens := rfl

@[simp] theorem State.setWlk_rpa (s : State) (x : WlkState) : (s.setWlk x).rpa = s.rpa := rfl

@[simp] theorem State.setWlk_damper (s : State) (x : WlkState) : (s.setWlk x).damper = s.damper := rfl

@[simp] theorem State.setWlk_lanes (s : State) (x : WlkState) : (s.setWlk x).lanes = s.lanes := rfl

@[simp] theorem State.setWlk_goodWin (s : State) (x : WlkState) : (s.setWlk x).goodWin = s.goodWin := rfl

@[simp] theorem State.setWlk_bonded (s : State) (x : WlkState) : (s.setWlk x).bonded = s.bonded := rfl

@[simp] theorem State.setWlk_heads (s : State) (x : WlkState) : (s.setWlk x).heads = s.heads := rfl

@[simp] theorem State.setWlk_cuts (s : State) (x : WlkState) : (s.setWlk x).cuts = s.cuts := rfl

@[simp] theorem State.setWlk_cutPkts (s : State) (x : WlkState) : (s.setWlk x).cutPkts = s.cutPkts := rfl

@[simp] theorem State.setWlk_enc (s : State) (x : WlkState) : (s.setWlk x).enc = s.enc := rfl

@[simp] theorem State.setWlk_ssi (s : State) (x : WlkState) : (s.setWlk x).ssi = s.ssi := rfl

@[simp] theorem State.setWlk_probes (s : State) (x : WlkState) : (s.setWlk x).probes = s.probes := rfl

@[simp] theorem State.setWlk_divs (s : State) (x : WlkState) : (s.setWlk x).divs = s.divs := rfl

@[simp] theorem State.setWlk_pfuTick (s : State) (x : WlkState) : (s.setWlk x).pfuTick = s.pfuTick := rfl

@[simp] theorem State.setWlk_web (s : State) (x : WlkState) : (s.setWlk x).web = s.web := rfl

@[simp] theorem State.setWlk_marks (s : State) (x : WlkState) : (s.setWlk x).marks = s.marks := rfl

@[simp] theorem State.setWlk_markPins (s : State) (x : WlkState) : (s.setWlk x).markPins = s.markPins := rfl

@[simp] theorem State.setWlk_tes (s : State) (x : WlkState) : (s.setWlk x).tes = s.tes := rfl

@[simp] theorem State.setWlk_views (s : State) (x : WlkState) : (s.setWlk x).views = s.views := rfl

@[simp] theorem State.setWlk_store (s : State) (x : WlkState) : (s.setWlk x).store = s.store := rfl

@[simp] theorem State.setWlk_strips (s : State) (x : WlkState) : (s.setWlk x).strips = s.strips := rfl

@[simp] theorem State.setWlk_commits (s : State) (x : WlkState) : (s.setWlk x).commits = s.commits := rfl

@[simp] theorem State.setWlk_recs (s : State) (x : WlkState) : (s.setWlk x).recs = s.recs := rfl

@[simp] theorem State.setWlk_dlg (s : State) (x : WlkState) : (s.setWlk x).dlg = s.dlg := rfl

@[simp] theorem State.setWlk_his (s : State) (x : WlkState) : (s.setWlk x).his = s.his := rfl

@[simp] theorem State.setWlk_ovs (s : State) (x : WlkState) : (s.setWlk x).ovs = s.ovs := rfl

@[simp] theorem State.setWlk_dmc (s : State) (x : WlkState) : (s.setWlk x).dmc = s.dmc := rfl

@[simp] theorem State.setWlk_dma (s : State) (x : WlkState) : (s.setWlk x).dma = s.dma := rfl

@[simp] theorem State.setWlk_hif (s : State) (x : WlkState) : (s.setWlk x).hif = s.hif := rfl

@[simp] theorem State.setWlk_sent (s : State) (x : WlkState) : (s.setWlk x).sent = s.sent := rfl

@[simp] theorem State.setWlk_tnt (s : State) (x : WlkState) : (s.setWlk x).tnt = s.tnt := rfl

@[simp] theorem State.setWlk_dep (s : State) (x : WlkState) : (s.setWlk x).dep = s.dep := rfl

@[simp] theorem State.setWlk_power (s : State) (x : WlkState) : (s.setWlk x).power = s.power := rfl

@[simp] theorem State.setWlk_evr (s : State) (x : WlkState) : (s.setWlk x).evr = s.evr := rfl

@[simp] theorem State.setWlk_tw (s : State) (x : WlkState) : (s.setWlk x).tw = s.tw := rfl

@[simp] theorem State.setWlk_snap (s : State) (x : WlkState) : (s.setWlk x).snap = s.snap := rfl

@[simp] theorem State.setWlk_sampled (s : State) (x : WlkState) : (s.setWlk x).sampled = s.sampled := rfl

@[simp] theorem State.setWlk_pending (s : State) (x : WlkState) : (s.setWlk x).pending = s.pending := rfl

@[simp] theorem State.setWlk_word (s : State) (x : WlkState) (z : Nat) : (s.setWlk x).word z = s.word z := rfl

@[simp] theorem State.setWlk_rd2 (s : State) (x : WlkState) (f : Field) (i j : Nat) : (s.setWlk x).rd2 f i j = s.rd2 f i j := rfl

@[simp] theorem State.setWlk_rd (s : State) (x : WlkState) (f : Field) (i : Nat) : (s.setWlk x).rd f i = s.rd f i := rfl

@[simp] theorem State.setWlk_on (s : State) (x : WlkState) (f : Field) (i : Nat) : (s.setWlk x).on f i = s.on f i := rfl

@[simp] theorem State.setHif_regs (s : State) (x : HifState) : (s.setHif x).regs = s.regs := rfl

@[simp] theorem State.setHif_mem (s : State) (x : HifState) : (s.setHif x).mem = s.mem := rfl

@[simp] theorem State.setHif_poison (s : State) (x : HifState) : (s.setHif x).poison = s.poison := rfl

@[simp] theorem State.setHif_free (s : State) (x : HifState) : (s.setHif x).free = s.free := rfl

@[simp] theorem State.setHif_procs (s : State) (x : HifState) : (s.setHif x).procs = s.procs := rfl

@[simp] theorem State.setHif_seq (s : State) (x : HifState) : (s.setHif x).seq = s.seq := rfl

@[simp] theorem State.setHif_transit (s : State) (x : HifState) : (s.setHif x).transit = s.transit := rfl

@[simp] theorem State.setHif_held (s : State) (x : HifState) : (s.setHif x).held = s.held := rfl

@[simp] theorem State.setHif_progress (s : State) (x : HifState) : (s.setHif x).progress = s.progress := rfl

@[simp] theorem State.setHif_gaps (s : State) (x : HifState) : (s.setHif x).gaps = s.gaps := rfl

@[simp] theorem State.setHif_sump (s : State) (x : HifState) : (s.setHif x).sump = s.sump := rfl

@[simp] theorem State.setHif_malformed (s : State) (x : HifState) : (s.setHif x).malformed = s.malformed := rfl

@[simp] theorem State.setHif_tokens (s : State) (x : HifState) : (s.setHif x).tokens = s.tokens := rfl

@[simp] theorem State.setHif_rpa (s : State) (x : HifState) : (s.setHif x).rpa = s.rpa := rfl

@[simp] theorem State.setHif_damper (s : State) (x : HifState) : (s.setHif x).damper = s.damper := rfl

@[simp] theorem State.setHif_lanes (s : State) (x : HifState) : (s.setHif x).lanes = s.lanes := rfl

@[simp] theorem State.setHif_goodWin (s : State) (x : HifState) : (s.setHif x).goodWin = s.goodWin := rfl

@[simp] theorem State.setHif_bonded (s : State) (x : HifState) : (s.setHif x).bonded = s.bonded := rfl

@[simp] theorem State.setHif_heads (s : State) (x : HifState) : (s.setHif x).heads = s.heads := rfl

@[simp] theorem State.setHif_cuts (s : State) (x : HifState) : (s.setHif x).cuts = s.cuts := rfl

@[simp] theorem State.setHif_cutPkts (s : State) (x : HifState) : (s.setHif x).cutPkts = s.cutPkts := rfl

@[simp] theorem State.setHif_enc (s : State) (x : HifState) : (s.setHif x).enc = s.enc := rfl

@[simp] theorem State.setHif_ssi (s : State) (x : HifState) : (s.setHif x).ssi = s.ssi := rfl

@[simp] theorem State.setHif_probes (s : State) (x : HifState) : (s.setHif x).probes = s.probes := rfl

@[simp] theorem State.setHif_divs (s : State) (x : HifState) : (s.setHif x).divs = s.divs := rfl

@[simp] theorem State.setHif_pfuTick (s : State) (x : HifState) : (s.setHif x).pfuTick = s.pfuTick := rfl

@[simp] theorem State.setHif_web (s : State) (x : HifState) : (s.setHif x).web = s.web := rfl

@[simp] theorem State.setHif_marks (s : State) (x : HifState) : (s.setHif x).marks = s.marks := rfl

@[simp] theorem State.setHif_markPins (s : State) (x : HifState) : (s.setHif x).markPins = s.markPins := rfl

@[simp] theorem State.setHif_tes (s : State) (x : HifState) : (s.setHif x).tes = s.tes := rfl

@[simp] theorem State.setHif_views (s : State) (x : HifState) : (s.setHif x).views = s.views := rfl

@[simp] theorem State.setHif_store (s : State) (x : HifState) : (s.setHif x).store = s.store := rfl

@[simp] theorem State.setHif_strips (s : State) (x : HifState) : (s.setHif x).strips = s.strips := rfl

@[simp] theorem State.setHif_commits (s : State) (x : HifState) : (s.setHif x).commits = s.commits := rfl

@[simp] theorem State.setHif_recs (s : State) (x : HifState) : (s.setHif x).recs = s.recs := rfl

@[simp] theorem State.setHif_dlg (s : State) (x : HifState) : (s.setHif x).dlg = s.dlg := rfl

@[simp] theorem State.setHif_his (s : State) (x : HifState) : (s.setHif x).his = s.his := rfl

@[simp] theorem State.setHif_ovs (s : State) (x : HifState) : (s.setHif x).ovs = s.ovs := rfl

@[simp] theorem State.setHif_dmc (s : State) (x : HifState) : (s.setHif x).dmc = s.dmc := rfl

@[simp] theorem State.setHif_dma (s : State) (x : HifState) : (s.setHif x).dma = s.dma := rfl

@[simp] theorem State.setHif_wlk (s : State) (x : HifState) : (s.setHif x).wlk = s.wlk := rfl

@[simp] theorem State.setHif_sent (s : State) (x : HifState) : (s.setHif x).sent = s.sent := rfl

@[simp] theorem State.setHif_tnt (s : State) (x : HifState) : (s.setHif x).tnt = s.tnt := rfl

@[simp] theorem State.setHif_dep (s : State) (x : HifState) : (s.setHif x).dep = s.dep := rfl

@[simp] theorem State.setHif_power (s : State) (x : HifState) : (s.setHif x).power = s.power := rfl

@[simp] theorem State.setHif_evr (s : State) (x : HifState) : (s.setHif x).evr = s.evr := rfl

@[simp] theorem State.setHif_tw (s : State) (x : HifState) : (s.setHif x).tw = s.tw := rfl

@[simp] theorem State.setHif_snap (s : State) (x : HifState) : (s.setHif x).snap = s.snap := rfl

@[simp] theorem State.setHif_sampled (s : State) (x : HifState) : (s.setHif x).sampled = s.sampled := rfl

@[simp] theorem State.setHif_pending (s : State) (x : HifState) : (s.setHif x).pending = s.pending := rfl

@[simp] theorem State.setHif_word (s : State) (x : HifState) (z : Nat) : (s.setHif x).word z = s.word z := rfl

@[simp] theorem State.setHif_rd2 (s : State) (x : HifState) (f : Field) (i j : Nat) : (s.setHif x).rd2 f i j = s.rd2 f i j := rfl

@[simp] theorem State.setHif_rd (s : State) (x : HifState) (f : Field) (i : Nat) : (s.setHif x).rd f i = s.rd f i := rfl

@[simp] theorem State.setHif_on (s : State) (x : HifState) (f : Field) (i : Nat) : (s.setHif x).on f i = s.on f i := rfl

@[simp] theorem State.setDep_regs (s : State) (x : DepState) : (s.setDep x).regs = s.regs := rfl

@[simp] theorem State.setDep_mem (s : State) (x : DepState) : (s.setDep x).mem = s.mem := rfl

@[simp] theorem State.setDep_poison (s : State) (x : DepState) : (s.setDep x).poison = s.poison := rfl

@[simp] theorem State.setDep_free (s : State) (x : DepState) : (s.setDep x).free = s.free := rfl

@[simp] theorem State.setDep_procs (s : State) (x : DepState) : (s.setDep x).procs = s.procs := rfl

@[simp] theorem State.setDep_seq (s : State) (x : DepState) : (s.setDep x).seq = s.seq := rfl

@[simp] theorem State.setDep_transit (s : State) (x : DepState) : (s.setDep x).transit = s.transit := rfl

@[simp] theorem State.setDep_held (s : State) (x : DepState) : (s.setDep x).held = s.held := rfl

@[simp] theorem State.setDep_progress (s : State) (x : DepState) : (s.setDep x).progress = s.progress := rfl

@[simp] theorem State.setDep_gaps (s : State) (x : DepState) : (s.setDep x).gaps = s.gaps := rfl

@[simp] theorem State.setDep_sump (s : State) (x : DepState) : (s.setDep x).sump = s.sump := rfl

@[simp] theorem State.setDep_malformed (s : State) (x : DepState) : (s.setDep x).malformed = s.malformed := rfl

@[simp] theorem State.setDep_tokens (s : State) (x : DepState) : (s.setDep x).tokens = s.tokens := rfl

@[simp] theorem State.setDep_rpa (s : State) (x : DepState) : (s.setDep x).rpa = s.rpa := rfl

@[simp] theorem State.setDep_damper (s : State) (x : DepState) : (s.setDep x).damper = s.damper := rfl

@[simp] theorem State.setDep_lanes (s : State) (x : DepState) : (s.setDep x).lanes = s.lanes := rfl

@[simp] theorem State.setDep_goodWin (s : State) (x : DepState) : (s.setDep x).goodWin = s.goodWin := rfl

@[simp] theorem State.setDep_bonded (s : State) (x : DepState) : (s.setDep x).bonded = s.bonded := rfl

@[simp] theorem State.setDep_heads (s : State) (x : DepState) : (s.setDep x).heads = s.heads := rfl

@[simp] theorem State.setDep_cuts (s : State) (x : DepState) : (s.setDep x).cuts = s.cuts := rfl

@[simp] theorem State.setDep_cutPkts (s : State) (x : DepState) : (s.setDep x).cutPkts = s.cutPkts := rfl

@[simp] theorem State.setDep_enc (s : State) (x : DepState) : (s.setDep x).enc = s.enc := rfl

@[simp] theorem State.setDep_ssi (s : State) (x : DepState) : (s.setDep x).ssi = s.ssi := rfl

@[simp] theorem State.setDep_probes (s : State) (x : DepState) : (s.setDep x).probes = s.probes := rfl

@[simp] theorem State.setDep_divs (s : State) (x : DepState) : (s.setDep x).divs = s.divs := rfl

@[simp] theorem State.setDep_pfuTick (s : State) (x : DepState) : (s.setDep x).pfuTick = s.pfuTick := rfl

@[simp] theorem State.setDep_web (s : State) (x : DepState) : (s.setDep x).web = s.web := rfl

@[simp] theorem State.setDep_marks (s : State) (x : DepState) : (s.setDep x).marks = s.marks := rfl

@[simp] theorem State.setDep_markPins (s : State) (x : DepState) : (s.setDep x).markPins = s.markPins := rfl

@[simp] theorem State.setDep_tes (s : State) (x : DepState) : (s.setDep x).tes = s.tes := rfl

@[simp] theorem State.setDep_views (s : State) (x : DepState) : (s.setDep x).views = s.views := rfl

@[simp] theorem State.setDep_store (s : State) (x : DepState) : (s.setDep x).store = s.store := rfl

@[simp] theorem State.setDep_strips (s : State) (x : DepState) : (s.setDep x).strips = s.strips := rfl

@[simp] theorem State.setDep_commits (s : State) (x : DepState) : (s.setDep x).commits = s.commits := rfl

@[simp] theorem State.setDep_recs (s : State) (x : DepState) : (s.setDep x).recs = s.recs := rfl

@[simp] theorem State.setDep_dlg (s : State) (x : DepState) : (s.setDep x).dlg = s.dlg := rfl

@[simp] theorem State.setDep_his (s : State) (x : DepState) : (s.setDep x).his = s.his := rfl

@[simp] theorem State.setDep_ovs (s : State) (x : DepState) : (s.setDep x).ovs = s.ovs := rfl

@[simp] theorem State.setDep_dmc (s : State) (x : DepState) : (s.setDep x).dmc = s.dmc := rfl

@[simp] theorem State.setDep_dma (s : State) (x : DepState) : (s.setDep x).dma = s.dma := rfl

@[simp] theorem State.setDep_hif (s : State) (x : DepState) : (s.setDep x).hif = s.hif := rfl

@[simp] theorem State.setDep_wlk (s : State) (x : DepState) : (s.setDep x).wlk = s.wlk := rfl

@[simp] theorem State.setDep_sent (s : State) (x : DepState) : (s.setDep x).sent = s.sent := rfl

@[simp] theorem State.setDep_tnt (s : State) (x : DepState) : (s.setDep x).tnt = s.tnt := rfl

@[simp] theorem State.setDep_power (s : State) (x : DepState) : (s.setDep x).power = s.power := rfl

@[simp] theorem State.setDep_evr (s : State) (x : DepState) : (s.setDep x).evr = s.evr := rfl

@[simp] theorem State.setDep_tw (s : State) (x : DepState) : (s.setDep x).tw = s.tw := rfl

@[simp] theorem State.setDep_snap (s : State) (x : DepState) : (s.setDep x).snap = s.snap := rfl

@[simp] theorem State.setDep_sampled (s : State) (x : DepState) : (s.setDep x).sampled = s.sampled := rfl

@[simp] theorem State.setDep_pending (s : State) (x : DepState) : (s.setDep x).pending = s.pending := rfl

@[simp] theorem State.setDep_word (s : State) (x : DepState) (z : Nat) : (s.setDep x).word z = s.word z := rfl

@[simp] theorem State.setDep_rd2 (s : State) (x : DepState) (f : Field) (i j : Nat) : (s.setDep x).rd2 f i j = s.rd2 f i j := rfl

@[simp] theorem State.setDep_rd (s : State) (x : DepState) (f : Field) (i : Nat) : (s.setDep x).rd f i = s.rd f i := rfl

@[simp] theorem State.setDep_on (s : State) (x : DepState) (f : Field) (i : Nat) : (s.setDep x).on f i = s.on f i := rfl

@[simp] theorem State.setWeb_regs (s : State) (x : WebState) : (s.setWeb x).regs = s.regs := rfl

@[simp] theorem State.setWeb_mem (s : State) (x : WebState) : (s.setWeb x).mem = s.mem := rfl

@[simp] theorem State.setWeb_poison (s : State) (x : WebState) : (s.setWeb x).poison = s.poison := rfl

@[simp] theorem State.setWeb_free (s : State) (x : WebState) : (s.setWeb x).free = s.free := rfl

@[simp] theorem State.setWeb_procs (s : State) (x : WebState) : (s.setWeb x).procs = s.procs := rfl

@[simp] theorem State.setWeb_seq (s : State) (x : WebState) : (s.setWeb x).seq = s.seq := rfl

@[simp] theorem State.setWeb_transit (s : State) (x : WebState) : (s.setWeb x).transit = s.transit := rfl

@[simp] theorem State.setWeb_held (s : State) (x : WebState) : (s.setWeb x).held = s.held := rfl

@[simp] theorem State.setWeb_progress (s : State) (x : WebState) : (s.setWeb x).progress = s.progress := rfl

@[simp] theorem State.setWeb_gaps (s : State) (x : WebState) : (s.setWeb x).gaps = s.gaps := rfl

@[simp] theorem State.setWeb_sump (s : State) (x : WebState) : (s.setWeb x).sump = s.sump := rfl

@[simp] theorem State.setWeb_malformed (s : State) (x : WebState) : (s.setWeb x).malformed = s.malformed := rfl

@[simp] theorem State.setWeb_tokens (s : State) (x : WebState) : (s.setWeb x).tokens = s.tokens := rfl

@[simp] theorem State.setWeb_rpa (s : State) (x : WebState) : (s.setWeb x).rpa = s.rpa := rfl

@[simp] theorem State.setWeb_damper (s : State) (x : WebState) : (s.setWeb x).damper = s.damper := rfl

@[simp] theorem State.setWeb_lanes (s : State) (x : WebState) : (s.setWeb x).lanes = s.lanes := rfl

@[simp] theorem State.setWeb_goodWin (s : State) (x : WebState) : (s.setWeb x).goodWin = s.goodWin := rfl

@[simp] theorem State.setWeb_bonded (s : State) (x : WebState) : (s.setWeb x).bonded = s.bonded := rfl

@[simp] theorem State.setWeb_heads (s : State) (x : WebState) : (s.setWeb x).heads = s.heads := rfl

@[simp] theorem State.setWeb_cuts (s : State) (x : WebState) : (s.setWeb x).cuts = s.cuts := rfl

@[simp] theorem State.setWeb_cutPkts (s : State) (x : WebState) : (s.setWeb x).cutPkts = s.cutPkts := rfl

@[simp] theorem State.setWeb_enc (s : State) (x : WebState) : (s.setWeb x).enc = s.enc := rfl

@[simp] theorem State.setWeb_ssi (s : State) (x : WebState) : (s.setWeb x).ssi = s.ssi := rfl

@[simp] theorem State.setWeb_probes (s : State) (x : WebState) : (s.setWeb x).probes = s.probes := rfl

@[simp] theorem State.setWeb_divs (s : State) (x : WebState) : (s.setWeb x).divs = s.divs := rfl

@[simp] theorem State.setWeb_pfuTick (s : State) (x : WebState) : (s.setWeb x).pfuTick = s.pfuTick := rfl

@[simp] theorem State.setWeb_marks (s : State) (x : WebState) : (s.setWeb x).marks = s.marks := rfl

@[simp] theorem State.setWeb_markPins (s : State) (x : WebState) : (s.setWeb x).markPins = s.markPins := rfl

@[simp] theorem State.setWeb_tes (s : State) (x : WebState) : (s.setWeb x).tes = s.tes := rfl

@[simp] theorem State.setWeb_views (s : State) (x : WebState) : (s.setWeb x).views = s.views := rfl

@[simp] theorem State.setWeb_store (s : State) (x : WebState) : (s.setWeb x).store = s.store := rfl

@[simp] theorem State.setWeb_strips (s : State) (x : WebState) : (s.setWeb x).strips = s.strips := rfl

@[simp] theorem State.setWeb_commits (s : State) (x : WebState) : (s.setWeb x).commits = s.commits := rfl

@[simp] theorem State.setWeb_recs (s : State) (x : WebState) : (s.setWeb x).recs = s.recs := rfl

@[simp] theorem State.setWeb_dlg (s : State) (x : WebState) : (s.setWeb x).dlg = s.dlg := rfl

@[simp] theorem State.setWeb_his (s : State) (x : WebState) : (s.setWeb x).his = s.his := rfl

@[simp] theorem State.setWeb_ovs (s : State) (x : WebState) : (s.setWeb x).ovs = s.ovs := rfl

@[simp] theorem State.setWeb_dmc (s : State) (x : WebState) : (s.setWeb x).dmc = s.dmc := rfl

@[simp] theorem State.setWeb_dma (s : State) (x : WebState) : (s.setWeb x).dma = s.dma := rfl

@[simp] theorem State.setWeb_hif (s : State) (x : WebState) : (s.setWeb x).hif = s.hif := rfl

@[simp] theorem State.setWeb_wlk (s : State) (x : WebState) : (s.setWeb x).wlk = s.wlk := rfl

@[simp] theorem State.setWeb_sent (s : State) (x : WebState) : (s.setWeb x).sent = s.sent := rfl

@[simp] theorem State.setWeb_tnt (s : State) (x : WebState) : (s.setWeb x).tnt = s.tnt := rfl

@[simp] theorem State.setWeb_dep (s : State) (x : WebState) : (s.setWeb x).dep = s.dep := rfl

@[simp] theorem State.setWeb_power (s : State) (x : WebState) : (s.setWeb x).power = s.power := rfl

@[simp] theorem State.setWeb_evr (s : State) (x : WebState) : (s.setWeb x).evr = s.evr := rfl

@[simp] theorem State.setWeb_tw (s : State) (x : WebState) : (s.setWeb x).tw = s.tw := rfl

@[simp] theorem State.setWeb_snap (s : State) (x : WebState) : (s.setWeb x).snap = s.snap := rfl

@[simp] theorem State.setWeb_sampled (s : State) (x : WebState) : (s.setWeb x).sampled = s.sampled := rfl

@[simp] theorem State.setWeb_pending (s : State) (x : WebState) : (s.setWeb x).pending = s.pending := rfl

@[simp] theorem State.setWeb_word (s : State) (x : WebState) (z : Nat) : (s.setWeb x).word z = s.word z := rfl

@[simp] theorem State.setWeb_rd2 (s : State) (x : WebState) (f : Field) (i j : Nat) : (s.setWeb x).rd2 f i j = s.rd2 f i j := rfl

@[simp] theorem State.setWeb_rd (s : State) (x : WebState) (f : Field) (i : Nat) : (s.setWeb x).rd f i = s.rd f i := rfl

@[simp] theorem State.setWeb_on (s : State) (x : WebState) (f : Field) (i : Nat) : (s.setWeb x).on f i = s.on f i := rfl

@[simp] theorem State.setRtk_regs (s : State) (v : Nat) (x : RtkState) : (s.setRtk v x).regs = s.regs := rfl

@[simp] theorem State.setRtk_mem (s : State) (v : Nat) (x : RtkState) : (s.setRtk v x).mem = s.mem := rfl

@[simp] theorem State.setRtk_poison (s : State) (v : Nat) (x : RtkState) : (s.setRtk v x).poison = s.poison := rfl

@[simp] theorem State.setRtk_free (s : State) (v : Nat) (x : RtkState) : (s.setRtk v x).free = s.free := rfl

@[simp] theorem State.setRtk_procs (s : State) (v : Nat) (x : RtkState) : (s.setRtk v x).procs = s.procs := rfl

@[simp] theorem State.setRtk_seq (s : State) (v : Nat) (x : RtkState) : (s.setRtk v x).seq = s.seq := rfl

@[simp] theorem State.setRtk_transit (s : State) (v : Nat) (x : RtkState) : (s.setRtk v x).transit = s.transit := rfl

@[simp] theorem State.setRtk_held (s : State) (v : Nat) (x : RtkState) : (s.setRtk v x).held = s.held := rfl

@[simp] theorem State.setRtk_progress (s : State) (v : Nat) (x : RtkState) : (s.setRtk v x).progress = s.progress := rfl

@[simp] theorem State.setRtk_gaps (s : State) (v : Nat) (x : RtkState) : (s.setRtk v x).gaps = s.gaps := rfl

@[simp] theorem State.setRtk_sump (s : State) (v : Nat) (x : RtkState) : (s.setRtk v x).sump = s.sump := rfl

@[simp] theorem State.setRtk_malformed (s : State) (v : Nat) (x : RtkState) : (s.setRtk v x).malformed = s.malformed := rfl

@[simp] theorem State.setRtk_tokens (s : State) (v : Nat) (x : RtkState) : (s.setRtk v x).tokens = s.tokens := rfl

@[simp] theorem State.setRtk_rpa (s : State) (v : Nat) (x : RtkState) : (s.setRtk v x).rpa = s.rpa := rfl

@[simp] theorem State.setRtk_damper (s : State) (v : Nat) (x : RtkState) : (s.setRtk v x).damper = s.damper := rfl

@[simp] theorem State.setRtk_lanes (s : State) (v : Nat) (x : RtkState) : (s.setRtk v x).lanes = s.lanes := rfl

@[simp] theorem State.setRtk_goodWin (s : State) (v : Nat) (x : RtkState) : (s.setRtk v x).goodWin = s.goodWin := rfl

@[simp] theorem State.setRtk_bonded (s : State) (v : Nat) (x : RtkState) : (s.setRtk v x).bonded = s.bonded := rfl

@[simp] theorem State.setRtk_heads (s : State) (v : Nat) (x : RtkState) : (s.setRtk v x).heads = s.heads := rfl

@[simp] theorem State.setRtk_cuts (s : State) (v : Nat) (x : RtkState) : (s.setRtk v x).cuts = s.cuts := rfl

@[simp] theorem State.setRtk_cutPkts (s : State) (v : Nat) (x : RtkState) : (s.setRtk v x).cutPkts = s.cutPkts := rfl

@[simp] theorem State.setRtk_enc (s : State) (v : Nat) (x : RtkState) : (s.setRtk v x).enc = s.enc := rfl

@[simp] theorem State.setRtk_ssi (s : State) (v : Nat) (x : RtkState) : (s.setRtk v x).ssi = s.ssi := rfl

@[simp] theorem State.setRtk_probes (s : State) (v : Nat) (x : RtkState) : (s.setRtk v x).probes = s.probes := rfl

@[simp] theorem State.setRtk_divs (s : State) (v : Nat) (x : RtkState) : (s.setRtk v x).divs = s.divs := rfl

@[simp] theorem State.setRtk_pfuTick (s : State) (v : Nat) (x : RtkState) : (s.setRtk v x).pfuTick = s.pfuTick := rfl

@[simp] theorem State.setRtk_web (s : State) (v : Nat) (x : RtkState) : (s.setRtk v x).web = s.web := rfl

@[simp] theorem State.setRtk_marks (s : State) (v : Nat) (x : RtkState) : (s.setRtk v x).marks = s.marks := rfl

@[simp] theorem State.setRtk_markPins (s : State) (v : Nat) (x : RtkState) : (s.setRtk v x).markPins = s.markPins := rfl

@[simp] theorem State.setRtk_tes (s : State) (v : Nat) (x : RtkState) : (s.setRtk v x).tes = s.tes := rfl

@[simp] theorem State.setRtk_views (s : State) (v : Nat) (x : RtkState) : (s.setRtk v x).views = s.views := rfl

@[simp] theorem State.setRtk_store (s : State) (v : Nat) (x : RtkState) : (s.setRtk v x).store = s.store := rfl

@[simp] theorem State.setRtk_strips (s : State) (v : Nat) (x : RtkState) : (s.setRtk v x).strips = s.strips := rfl

@[simp] theorem State.setRtk_commits (s : State) (v : Nat) (x : RtkState) : (s.setRtk v x).commits = s.commits := rfl

@[simp] theorem State.setRtk_dlg (s : State) (v : Nat) (x : RtkState) : (s.setRtk v x).dlg = s.dlg := rfl

@[simp] theorem State.setRtk_his (s : State) (v : Nat) (x : RtkState) : (s.setRtk v x).his = s.his := rfl

@[simp] theorem State.setRtk_ovs (s : State) (v : Nat) (x : RtkState) : (s.setRtk v x).ovs = s.ovs := rfl

@[simp] theorem State.setRtk_dmc (s : State) (v : Nat) (x : RtkState) : (s.setRtk v x).dmc = s.dmc := rfl

@[simp] theorem State.setRtk_dma (s : State) (v : Nat) (x : RtkState) : (s.setRtk v x).dma = s.dma := rfl

@[simp] theorem State.setRtk_hif (s : State) (v : Nat) (x : RtkState) : (s.setRtk v x).hif = s.hif := rfl

@[simp] theorem State.setRtk_wlk (s : State) (v : Nat) (x : RtkState) : (s.setRtk v x).wlk = s.wlk := rfl

@[simp] theorem State.setRtk_sent (s : State) (v : Nat) (x : RtkState) : (s.setRtk v x).sent = s.sent := rfl

@[simp] theorem State.setRtk_tnt (s : State) (v : Nat) (x : RtkState) : (s.setRtk v x).tnt = s.tnt := rfl

@[simp] theorem State.setRtk_dep (s : State) (v : Nat) (x : RtkState) : (s.setRtk v x).dep = s.dep := rfl

@[simp] theorem State.setRtk_power (s : State) (v : Nat) (x : RtkState) : (s.setRtk v x).power = s.power := rfl

@[simp] theorem State.setRtk_evr (s : State) (v : Nat) (x : RtkState) : (s.setRtk v x).evr = s.evr := rfl

@[simp] theorem State.setRtk_tw (s : State) (v : Nat) (x : RtkState) : (s.setRtk v x).tw = s.tw := rfl

@[simp] theorem State.setRtk_snap (s : State) (v : Nat) (x : RtkState) : (s.setRtk v x).snap = s.snap := rfl

@[simp] theorem State.setRtk_sampled (s : State) (v : Nat) (x : RtkState) : (s.setRtk v x).sampled = s.sampled := rfl

@[simp] theorem State.setRtk_pending (s : State) (v : Nat) (x : RtkState) : (s.setRtk v x).pending = s.pending := rfl

@[simp] theorem State.setRtk_word (s : State) (v : Nat) (x : RtkState) (z : Nat) : (s.setRtk v x).word z = s.word z := rfl

@[simp] theorem State.setRtk_rd2 (s : State) (v : Nat) (x : RtkState) (f : Field) (i j : Nat) : (s.setRtk v x).rd2 f i j = s.rd2 f i j := rfl

@[simp] theorem State.setRtk_rd (s : State) (v : Nat) (x : RtkState) (f : Field) (i : Nat) : (s.setRtk v x).rd f i = s.rd f i := rfl

@[simp] theorem State.setRtk_on (s : State) (v : Nat) (x : RtkState) (f : Field) (i : Nat) : (s.setRtk v x).on f i = s.on f i := rfl

@[simp] theorem State.setHist_regs (s : State) (h : Nat) (x : HisHeadState) : (s.setHist h x).regs = s.regs := rfl

@[simp] theorem State.setHist_mem (s : State) (h : Nat) (x : HisHeadState) : (s.setHist h x).mem = s.mem := rfl

@[simp] theorem State.setHist_poison (s : State) (h : Nat) (x : HisHeadState) : (s.setHist h x).poison = s.poison := rfl

@[simp] theorem State.setHist_free (s : State) (h : Nat) (x : HisHeadState) : (s.setHist h x).free = s.free := rfl

@[simp] theorem State.setHist_procs (s : State) (h : Nat) (x : HisHeadState) : (s.setHist h x).procs = s.procs := rfl

@[simp] theorem State.setHist_seq (s : State) (h : Nat) (x : HisHeadState) : (s.setHist h x).seq = s.seq := rfl

@[simp] theorem State.setHist_transit (s : State) (h : Nat) (x : HisHeadState) : (s.setHist h x).transit = s.transit := rfl

@[simp] theorem State.setHist_held (s : State) (h : Nat) (x : HisHeadState) : (s.setHist h x).held = s.held := rfl

@[simp] theorem State.setHist_progress (s : State) (h : Nat) (x : HisHeadState) : (s.setHist h x).progress = s.progress := rfl

@[simp] theorem State.setHist_gaps (s : State) (h : Nat) (x : HisHeadState) : (s.setHist h x).gaps = s.gaps := rfl

@[simp] theorem State.setHist_sump (s : State) (h : Nat) (x : HisHeadState) : (s.setHist h x).sump = s.sump := rfl

@[simp] theorem State.setHist_malformed (s : State) (h : Nat) (x : HisHeadState) : (s.setHist h x).malformed = s.malformed := rfl

@[simp] theorem State.setHist_tokens (s : State) (h : Nat) (x : HisHeadState) : (s.setHist h x).tokens = s.tokens := rfl

@[simp] theorem State.setHist_rpa (s : State) (h : Nat) (x : HisHeadState) : (s.setHist h x).rpa = s.rpa := rfl

@[simp] theorem State.setHist_damper (s : State) (h : Nat) (x : HisHeadState) : (s.setHist h x).damper = s.damper := rfl

@[simp] theorem State.setHist_lanes (s : State) (h : Nat) (x : HisHeadState) : (s.setHist h x).lanes = s.lanes := rfl

@[simp] theorem State.setHist_goodWin (s : State) (h : Nat) (x : HisHeadState) : (s.setHist h x).goodWin = s.goodWin := rfl

@[simp] theorem State.setHist_bonded (s : State) (h : Nat) (x : HisHeadState) : (s.setHist h x).bonded = s.bonded := rfl

@[simp] theorem State.setHist_heads (s : State) (h : Nat) (x : HisHeadState) : (s.setHist h x).heads = s.heads := rfl

@[simp] theorem State.setHist_cuts (s : State) (h : Nat) (x : HisHeadState) : (s.setHist h x).cuts = s.cuts := rfl

@[simp] theorem State.setHist_cutPkts (s : State) (h : Nat) (x : HisHeadState) : (s.setHist h x).cutPkts = s.cutPkts := rfl

@[simp] theorem State.setHist_enc (s : State) (h : Nat) (x : HisHeadState) : (s.setHist h x).enc = s.enc := rfl

@[simp] theorem State.setHist_ssi (s : State) (h : Nat) (x : HisHeadState) : (s.setHist h x).ssi = s.ssi := rfl

@[simp] theorem State.setHist_probes (s : State) (h : Nat) (x : HisHeadState) : (s.setHist h x).probes = s.probes := rfl

@[simp] theorem State.setHist_divs (s : State) (h : Nat) (x : HisHeadState) : (s.setHist h x).divs = s.divs := rfl

@[simp] theorem State.setHist_pfuTick (s : State) (h : Nat) (x : HisHeadState) : (s.setHist h x).pfuTick = s.pfuTick := rfl

@[simp] theorem State.setHist_web (s : State) (h : Nat) (x : HisHeadState) : (s.setHist h x).web = s.web := rfl

@[simp] theorem State.setHist_marks (s : State) (h : Nat) (x : HisHeadState) : (s.setHist h x).marks = s.marks := rfl

@[simp] theorem State.setHist_markPins (s : State) (h : Nat) (x : HisHeadState) : (s.setHist h x).markPins = s.markPins := rfl

@[simp] theorem State.setHist_tes (s : State) (h : Nat) (x : HisHeadState) : (s.setHist h x).tes = s.tes := rfl

@[simp] theorem State.setHist_views (s : State) (h : Nat) (x : HisHeadState) : (s.setHist h x).views = s.views := rfl

@[simp] theorem State.setHist_store (s : State) (h : Nat) (x : HisHeadState) : (s.setHist h x).store = s.store := rfl

@[simp] theorem State.setHist_strips (s : State) (h : Nat) (x : HisHeadState) : (s.setHist h x).strips = s.strips := rfl

@[simp] theorem State.setHist_commits (s : State) (h : Nat) (x : HisHeadState) : (s.setHist h x).commits = s.commits := rfl

@[simp] theorem State.setHist_recs (s : State) (h : Nat) (x : HisHeadState) : (s.setHist h x).recs = s.recs := rfl

@[simp] theorem State.setHist_dlg (s : State) (h : Nat) (x : HisHeadState) : (s.setHist h x).dlg = s.dlg := rfl

@[simp] theorem State.setHist_ovs (s : State) (h : Nat) (x : HisHeadState) : (s.setHist h x).ovs = s.ovs := rfl

@[simp] theorem State.setHist_dmc (s : State) (h : Nat) (x : HisHeadState) : (s.setHist h x).dmc = s.dmc := rfl

@[simp] theorem State.setHist_dma (s : State) (h : Nat) (x : HisHeadState) : (s.setHist h x).dma = s.dma := rfl

@[simp] theorem State.setHist_hif (s : State) (h : Nat) (x : HisHeadState) : (s.setHist h x).hif = s.hif := rfl

@[simp] theorem State.setHist_wlk (s : State) (h : Nat) (x : HisHeadState) : (s.setHist h x).wlk = s.wlk := rfl

@[simp] theorem State.setHist_sent (s : State) (h : Nat) (x : HisHeadState) : (s.setHist h x).sent = s.sent := rfl

@[simp] theorem State.setHist_tnt (s : State) (h : Nat) (x : HisHeadState) : (s.setHist h x).tnt = s.tnt := rfl

@[simp] theorem State.setHist_dep (s : State) (h : Nat) (x : HisHeadState) : (s.setHist h x).dep = s.dep := rfl

@[simp] theorem State.setHist_power (s : State) (h : Nat) (x : HisHeadState) : (s.setHist h x).power = s.power := rfl

@[simp] theorem State.setHist_evr (s : State) (h : Nat) (x : HisHeadState) : (s.setHist h x).evr = s.evr := rfl

@[simp] theorem State.setHist_tw (s : State) (h : Nat) (x : HisHeadState) : (s.setHist h x).tw = s.tw := rfl

@[simp] theorem State.setHist_snap (s : State) (h : Nat) (x : HisHeadState) : (s.setHist h x).snap = s.snap := rfl

@[simp] theorem State.setHist_sampled (s : State) (h : Nat) (x : HisHeadState) : (s.setHist h x).sampled = s.sampled := rfl

@[simp] theorem State.setHist_pending (s : State) (h : Nat) (x : HisHeadState) : (s.setHist h x).pending = s.pending := rfl

@[simp] theorem State.setHist_word (s : State) (h : Nat) (x : HisHeadState) (z : Nat) : (s.setHist h x).word z = s.word z := rfl

@[simp] theorem State.setHist_rd2 (s : State) (h : Nat) (x : HisHeadState) (f : Field) (i j : Nat) : (s.setHist h x).rd2 f i j = s.rd2 f i j := rfl

@[simp] theorem State.setHist_rd (s : State) (h : Nat) (x : HisHeadState) (f : Field) (i : Nat) : (s.setHist h x).rd f i = s.rd f i := rfl

@[simp] theorem State.setHist_on (s : State) (h : Nat) (x : HisHeadState) (f : Field) (i : Nat) : (s.setHist h x).on f i = s.on f i := rfl

@[simp] theorem State.wr2_mem (s : State) (f : Field) (i j v : Nat) : (s.wr2 f i j v).mem = s.mem := by unfold State.wr2; split <;> rfl

@[simp] theorem State.wr2_poison (s : State) (f : Field) (i j v : Nat) : (s.wr2 f i j v).poison = s.poison := by unfold State.wr2; split <;> rfl

@[simp] theorem State.wr2_free (s : State) (f : Field) (i j v : Nat) : (s.wr2 f i j v).free = s.free := by unfold State.wr2; split <;> rfl

@[simp] theorem State.wr2_procs (s : State) (f : Field) (i j v : Nat) : (s.wr2 f i j v).procs = s.procs := by unfold State.wr2; split <;> rfl

@[simp] theorem State.wr2_seq (s : State) (f : Field) (i j v : Nat) : (s.wr2 f i j v).seq = s.seq := by unfold State.wr2; split <;> rfl

@[simp] theorem State.wr2_transit (s : State) (f : Field) (i j v : Nat) : (s.wr2 f i j v).transit = s.transit := by unfold State.wr2; split <;> rfl

@[simp] theorem State.wr2_held (s : State) (f : Field) (i j v : Nat) : (s.wr2 f i j v).held = s.held := by unfold State.wr2; split <;> rfl

@[simp] theorem State.wr2_progress (s : State) (f : Field) (i j v : Nat) : (s.wr2 f i j v).progress = s.progress := by unfold State.wr2; split <;> rfl

@[simp] theorem State.wr2_gaps (s : State) (f : Field) (i j v : Nat) : (s.wr2 f i j v).gaps = s.gaps := by unfold State.wr2; split <;> rfl

@[simp] theorem State.wr2_sump (s : State) (f : Field) (i j v : Nat) : (s.wr2 f i j v).sump = s.sump := by unfold State.wr2; split <;> rfl

@[simp] theorem State.wr2_malformed (s : State) (f : Field) (i j v : Nat) : (s.wr2 f i j v).malformed = s.malformed := by unfold State.wr2; split <;> rfl

@[simp] theorem State.wr2_tokens (s : State) (f : Field) (i j v : Nat) : (s.wr2 f i j v).tokens = s.tokens := by unfold State.wr2; split <;> rfl

@[simp] theorem State.wr2_rpa (s : State) (f : Field) (i j v : Nat) : (s.wr2 f i j v).rpa = s.rpa := by unfold State.wr2; split <;> rfl

@[simp] theorem State.wr2_damper (s : State) (f : Field) (i j v : Nat) : (s.wr2 f i j v).damper = s.damper := by unfold State.wr2; split <;> rfl

@[simp] theorem State.wr2_lanes (s : State) (f : Field) (i j v : Nat) : (s.wr2 f i j v).lanes = s.lanes := by unfold State.wr2; split <;> rfl

@[simp] theorem State.wr2_goodWin (s : State) (f : Field) (i j v : Nat) : (s.wr2 f i j v).goodWin = s.goodWin := by unfold State.wr2; split <;> rfl

@[simp] theorem State.wr2_bonded (s : State) (f : Field) (i j v : Nat) : (s.wr2 f i j v).bonded = s.bonded := by unfold State.wr2; split <;> rfl

@[simp] theorem State.wr2_heads (s : State) (f : Field) (i j v : Nat) : (s.wr2 f i j v).heads = s.heads := by unfold State.wr2; split <;> rfl

@[simp] theorem State.wr2_cuts (s : State) (f : Field) (i j v : Nat) : (s.wr2 f i j v).cuts = s.cuts := by unfold State.wr2; split <;> rfl

@[simp] theorem State.wr2_cutPkts (s : State) (f : Field) (i j v : Nat) : (s.wr2 f i j v).cutPkts = s.cutPkts := by unfold State.wr2; split <;> rfl

@[simp] theorem State.wr2_enc (s : State) (f : Field) (i j v : Nat) : (s.wr2 f i j v).enc = s.enc := by unfold State.wr2; split <;> rfl

@[simp] theorem State.wr2_ssi (s : State) (f : Field) (i j v : Nat) : (s.wr2 f i j v).ssi = s.ssi := by unfold State.wr2; split <;> rfl

@[simp] theorem State.wr2_probes (s : State) (f : Field) (i j v : Nat) : (s.wr2 f i j v).probes = s.probes := by unfold State.wr2; split <;> rfl

@[simp] theorem State.wr2_divs (s : State) (f : Field) (i j v : Nat) : (s.wr2 f i j v).divs = s.divs := by unfold State.wr2; split <;> rfl

@[simp] theorem State.wr2_pfuTick (s : State) (f : Field) (i j v : Nat) : (s.wr2 f i j v).pfuTick = s.pfuTick := by unfold State.wr2; split <;> rfl

@[simp] theorem State.wr2_web (s : State) (f : Field) (i j v : Nat) : (s.wr2 f i j v).web = s.web := by unfold State.wr2; split <;> rfl

@[simp] theorem State.wr2_marks (s : State) (f : Field) (i j v : Nat) : (s.wr2 f i j v).marks = s.marks := by unfold State.wr2; split <;> rfl

@[simp] theorem State.wr2_markPins (s : State) (f : Field) (i j v : Nat) : (s.wr2 f i j v).markPins = s.markPins := by unfold State.wr2; split <;> rfl

@[simp] theorem State.wr2_tes (s : State) (f : Field) (i j v : Nat) : (s.wr2 f i j v).tes = s.tes := by unfold State.wr2; split <;> rfl

@[simp] theorem State.wr2_views (s : State) (f : Field) (i j v : Nat) : (s.wr2 f i j v).views = s.views := by unfold State.wr2; split <;> rfl

@[simp] theorem State.wr2_store (s : State) (f : Field) (i j v : Nat) : (s.wr2 f i j v).store = s.store := by unfold State.wr2; split <;> rfl

@[simp] theorem State.wr2_strips (s : State) (f : Field) (i j v : Nat) : (s.wr2 f i j v).strips = s.strips := by unfold State.wr2; split <;> rfl

@[simp] theorem State.wr2_commits (s : State) (f : Field) (i j v : Nat) : (s.wr2 f i j v).commits = s.commits := by unfold State.wr2; split <;> rfl

@[simp] theorem State.wr2_recs (s : State) (f : Field) (i j v : Nat) : (s.wr2 f i j v).recs = s.recs := by unfold State.wr2; split <;> rfl

@[simp] theorem State.wr2_dlg (s : State) (f : Field) (i j v : Nat) : (s.wr2 f i j v).dlg = s.dlg := by unfold State.wr2; split <;> rfl

@[simp] theorem State.wr2_his (s : State) (f : Field) (i j v : Nat) : (s.wr2 f i j v).his = s.his := by unfold State.wr2; split <;> rfl

@[simp] theorem State.wr2_ovs (s : State) (f : Field) (i j v : Nat) : (s.wr2 f i j v).ovs = s.ovs := by unfold State.wr2; split <;> rfl

@[simp] theorem State.wr2_dmc (s : State) (f : Field) (i j v : Nat) : (s.wr2 f i j v).dmc = s.dmc := by unfold State.wr2; split <;> rfl

@[simp] theorem State.wr2_dma (s : State) (f : Field) (i j v : Nat) : (s.wr2 f i j v).dma = s.dma := by unfold State.wr2; split <;> rfl

@[simp] theorem State.wr2_hif (s : State) (f : Field) (i j v : Nat) : (s.wr2 f i j v).hif = s.hif := by unfold State.wr2; split <;> rfl

@[simp] theorem State.wr2_wlk (s : State) (f : Field) (i j v : Nat) : (s.wr2 f i j v).wlk = s.wlk := by unfold State.wr2; split <;> rfl

@[simp] theorem State.wr2_sent (s : State) (f : Field) (i j v : Nat) : (s.wr2 f i j v).sent = s.sent := by unfold State.wr2; split <;> rfl

@[simp] theorem State.wr2_tnt (s : State) (f : Field) (i j v : Nat) : (s.wr2 f i j v).tnt = s.tnt := by unfold State.wr2; split <;> rfl

@[simp] theorem State.wr2_dep (s : State) (f : Field) (i j v : Nat) : (s.wr2 f i j v).dep = s.dep := by unfold State.wr2; split <;> rfl

@[simp] theorem State.wr2_power (s : State) (f : Field) (i j v : Nat) : (s.wr2 f i j v).power = s.power := by unfold State.wr2; split <;> rfl

@[simp] theorem State.wr2_evr (s : State) (f : Field) (i j v : Nat) : (s.wr2 f i j v).evr = s.evr := by unfold State.wr2; split <;> rfl

@[simp] theorem State.wr2_tw (s : State) (f : Field) (i j v : Nat) : (s.wr2 f i j v).tw = s.tw := by unfold State.wr2; split <;> rfl

@[simp] theorem State.wr2_snap (s : State) (f : Field) (i j v : Nat) : (s.wr2 f i j v).snap = s.snap := by unfold State.wr2; split <;> rfl

@[simp] theorem State.wr2_sampled (s : State) (f : Field) (i j v : Nat) : (s.wr2 f i j v).sampled = s.sampled := by unfold State.wr2; split <;> rfl

@[simp] theorem State.wr2_pending (s : State) (f : Field) (i j v : Nat) : (s.wr2 f i j v).pending = s.pending := by unfold State.wr2; split <;> rfl

@[simp] theorem State.wr_mem (s : State) (f : Field) (i v : Nat) : (s.wr f i v).mem = s.mem := State.wr2_mem s f i 0 v

@[simp] theorem State.wr_poison (s : State) (f : Field) (i v : Nat) : (s.wr f i v).poison = s.poison := State.wr2_poison s f i 0 v

@[simp] theorem State.wr_free (s : State) (f : Field) (i v : Nat) : (s.wr f i v).free = s.free := State.wr2_free s f i 0 v

@[simp] theorem State.wr_procs (s : State) (f : Field) (i v : Nat) : (s.wr f i v).procs = s.procs := State.wr2_procs s f i 0 v

@[simp] theorem State.wr_seq (s : State) (f : Field) (i v : Nat) : (s.wr f i v).seq = s.seq := State.wr2_seq s f i 0 v

@[simp] theorem State.wr_transit (s : State) (f : Field) (i v : Nat) : (s.wr f i v).transit = s.transit := State.wr2_transit s f i 0 v

@[simp] theorem State.wr_held (s : State) (f : Field) (i v : Nat) : (s.wr f i v).held = s.held := State.wr2_held s f i 0 v

@[simp] theorem State.wr_progress (s : State) (f : Field) (i v : Nat) : (s.wr f i v).progress = s.progress := State.wr2_progress s f i 0 v

@[simp] theorem State.wr_gaps (s : State) (f : Field) (i v : Nat) : (s.wr f i v).gaps = s.gaps := State.wr2_gaps s f i 0 v

@[simp] theorem State.wr_sump (s : State) (f : Field) (i v : Nat) : (s.wr f i v).sump = s.sump := State.wr2_sump s f i 0 v

@[simp] theorem State.wr_malformed (s : State) (f : Field) (i v : Nat) : (s.wr f i v).malformed = s.malformed := State.wr2_malformed s f i 0 v

@[simp] theorem State.wr_tokens (s : State) (f : Field) (i v : Nat) : (s.wr f i v).tokens = s.tokens := State.wr2_tokens s f i 0 v

@[simp] theorem State.wr_rpa (s : State) (f : Field) (i v : Nat) : (s.wr f i v).rpa = s.rpa := State.wr2_rpa s f i 0 v

@[simp] theorem State.wr_damper (s : State) (f : Field) (i v : Nat) : (s.wr f i v).damper = s.damper := State.wr2_damper s f i 0 v

@[simp] theorem State.wr_lanes (s : State) (f : Field) (i v : Nat) : (s.wr f i v).lanes = s.lanes := State.wr2_lanes s f i 0 v

@[simp] theorem State.wr_goodWin (s : State) (f : Field) (i v : Nat) : (s.wr f i v).goodWin = s.goodWin := State.wr2_goodWin s f i 0 v

@[simp] theorem State.wr_bonded (s : State) (f : Field) (i v : Nat) : (s.wr f i v).bonded = s.bonded := State.wr2_bonded s f i 0 v

@[simp] theorem State.wr_heads (s : State) (f : Field) (i v : Nat) : (s.wr f i v).heads = s.heads := State.wr2_heads s f i 0 v

@[simp] theorem State.wr_cuts (s : State) (f : Field) (i v : Nat) : (s.wr f i v).cuts = s.cuts := State.wr2_cuts s f i 0 v

@[simp] theorem State.wr_cutPkts (s : State) (f : Field) (i v : Nat) : (s.wr f i v).cutPkts = s.cutPkts := State.wr2_cutPkts s f i 0 v

@[simp] theorem State.wr_enc (s : State) (f : Field) (i v : Nat) : (s.wr f i v).enc = s.enc := State.wr2_enc s f i 0 v

@[simp] theorem State.wr_ssi (s : State) (f : Field) (i v : Nat) : (s.wr f i v).ssi = s.ssi := State.wr2_ssi s f i 0 v

@[simp] theorem State.wr_probes (s : State) (f : Field) (i v : Nat) : (s.wr f i v).probes = s.probes := State.wr2_probes s f i 0 v

@[simp] theorem State.wr_divs (s : State) (f : Field) (i v : Nat) : (s.wr f i v).divs = s.divs := State.wr2_divs s f i 0 v

@[simp] theorem State.wr_pfuTick (s : State) (f : Field) (i v : Nat) : (s.wr f i v).pfuTick = s.pfuTick := State.wr2_pfuTick s f i 0 v

@[simp] theorem State.wr_web (s : State) (f : Field) (i v : Nat) : (s.wr f i v).web = s.web := State.wr2_web s f i 0 v

@[simp] theorem State.wr_marks (s : State) (f : Field) (i v : Nat) : (s.wr f i v).marks = s.marks := State.wr2_marks s f i 0 v

@[simp] theorem State.wr_markPins (s : State) (f : Field) (i v : Nat) : (s.wr f i v).markPins = s.markPins := State.wr2_markPins s f i 0 v

@[simp] theorem State.wr_tes (s : State) (f : Field) (i v : Nat) : (s.wr f i v).tes = s.tes := State.wr2_tes s f i 0 v

@[simp] theorem State.wr_views (s : State) (f : Field) (i v : Nat) : (s.wr f i v).views = s.views := State.wr2_views s f i 0 v

@[simp] theorem State.wr_store (s : State) (f : Field) (i v : Nat) : (s.wr f i v).store = s.store := State.wr2_store s f i 0 v

@[simp] theorem State.wr_strips (s : State) (f : Field) (i v : Nat) : (s.wr f i v).strips = s.strips := State.wr2_strips s f i 0 v

@[simp] theorem State.wr_commits (s : State) (f : Field) (i v : Nat) : (s.wr f i v).commits = s.commits := State.wr2_commits s f i 0 v

@[simp] theorem State.wr_recs (s : State) (f : Field) (i v : Nat) : (s.wr f i v).recs = s.recs := State.wr2_recs s f i 0 v

@[simp] theorem State.wr_dlg (s : State) (f : Field) (i v : Nat) : (s.wr f i v).dlg = s.dlg := State.wr2_dlg s f i 0 v

@[simp] theorem State.wr_his (s : State) (f : Field) (i v : Nat) : (s.wr f i v).his = s.his := State.wr2_his s f i 0 v

@[simp] theorem State.wr_ovs (s : State) (f : Field) (i v : Nat) : (s.wr f i v).ovs = s.ovs := State.wr2_ovs s f i 0 v

@[simp] theorem State.wr_dmc (s : State) (f : Field) (i v : Nat) : (s.wr f i v).dmc = s.dmc := State.wr2_dmc s f i 0 v

@[simp] theorem State.wr_dma (s : State) (f : Field) (i v : Nat) : (s.wr f i v).dma = s.dma := State.wr2_dma s f i 0 v

@[simp] theorem State.wr_hif (s : State) (f : Field) (i v : Nat) : (s.wr f i v).hif = s.hif := State.wr2_hif s f i 0 v

@[simp] theorem State.wr_wlk (s : State) (f : Field) (i v : Nat) : (s.wr f i v).wlk = s.wlk := State.wr2_wlk s f i 0 v

@[simp] theorem State.wr_sent (s : State) (f : Field) (i v : Nat) : (s.wr f i v).sent = s.sent := State.wr2_sent s f i 0 v

@[simp] theorem State.wr_tnt (s : State) (f : Field) (i v : Nat) : (s.wr f i v).tnt = s.tnt := State.wr2_tnt s f i 0 v

@[simp] theorem State.wr_dep (s : State) (f : Field) (i v : Nat) : (s.wr f i v).dep = s.dep := State.wr2_dep s f i 0 v

@[simp] theorem State.wr_power (s : State) (f : Field) (i v : Nat) : (s.wr f i v).power = s.power := State.wr2_power s f i 0 v

@[simp] theorem State.wr_evr (s : State) (f : Field) (i v : Nat) : (s.wr f i v).evr = s.evr := State.wr2_evr s f i 0 v

@[simp] theorem State.wr_tw (s : State) (f : Field) (i v : Nat) : (s.wr f i v).tw = s.tw := State.wr2_tw s f i 0 v

@[simp] theorem State.wr_snap (s : State) (f : Field) (i v : Nat) : (s.wr f i v).snap = s.snap := State.wr2_snap s f i 0 v

@[simp] theorem State.wr_sampled (s : State) (f : Field) (i v : Nat) : (s.wr f i v).sampled = s.sampled := State.wr2_sampled s f i 0 v

@[simp] theorem State.wr_pending (s : State) (f : Field) (i v : Nat) : (s.wr f i v).pending = s.pending := State.wr2_pending s f i 0 v

@[simp] theorem State.sat_mem (s : State) (f : Field) (i n : Nat) : (s.sat f i n).mem = s.mem := State.wr2_mem s f i 0 _

@[simp] theorem State.sat_poison (s : State) (f : Field) (i n : Nat) : (s.sat f i n).poison = s.poison := State.wr2_poison s f i 0 _

@[simp] theorem State.sat_free (s : State) (f : Field) (i n : Nat) : (s.sat f i n).free = s.free := State.wr2_free s f i 0 _

@[simp] theorem State.sat_procs (s : State) (f : Field) (i n : Nat) : (s.sat f i n).procs = s.procs := State.wr2_procs s f i 0 _

@[simp] theorem State.sat_seq (s : State) (f : Field) (i n : Nat) : (s.sat f i n).seq = s.seq := State.wr2_seq s f i 0 _

@[simp] theorem State.sat_transit (s : State) (f : Field) (i n : Nat) : (s.sat f i n).transit = s.transit := State.wr2_transit s f i 0 _

@[simp] theorem State.sat_held (s : State) (f : Field) (i n : Nat) : (s.sat f i n).held = s.held := State.wr2_held s f i 0 _

@[simp] theorem State.sat_progress (s : State) (f : Field) (i n : Nat) : (s.sat f i n).progress = s.progress := State.wr2_progress s f i 0 _

@[simp] theorem State.sat_gaps (s : State) (f : Field) (i n : Nat) : (s.sat f i n).gaps = s.gaps := State.wr2_gaps s f i 0 _

@[simp] theorem State.sat_sump (s : State) (f : Field) (i n : Nat) : (s.sat f i n).sump = s.sump := State.wr2_sump s f i 0 _

@[simp] theorem State.sat_malformed (s : State) (f : Field) (i n : Nat) : (s.sat f i n).malformed = s.malformed := State.wr2_malformed s f i 0 _

@[simp] theorem State.sat_tokens (s : State) (f : Field) (i n : Nat) : (s.sat f i n).tokens = s.tokens := State.wr2_tokens s f i 0 _

@[simp] theorem State.sat_rpa (s : State) (f : Field) (i n : Nat) : (s.sat f i n).rpa = s.rpa := State.wr2_rpa s f i 0 _

@[simp] theorem State.sat_damper (s : State) (f : Field) (i n : Nat) : (s.sat f i n).damper = s.damper := State.wr2_damper s f i 0 _

@[simp] theorem State.sat_lanes (s : State) (f : Field) (i n : Nat) : (s.sat f i n).lanes = s.lanes := State.wr2_lanes s f i 0 _

@[simp] theorem State.sat_goodWin (s : State) (f : Field) (i n : Nat) : (s.sat f i n).goodWin = s.goodWin := State.wr2_goodWin s f i 0 _

@[simp] theorem State.sat_bonded (s : State) (f : Field) (i n : Nat) : (s.sat f i n).bonded = s.bonded := State.wr2_bonded s f i 0 _

@[simp] theorem State.sat_heads (s : State) (f : Field) (i n : Nat) : (s.sat f i n).heads = s.heads := State.wr2_heads s f i 0 _

@[simp] theorem State.sat_cuts (s : State) (f : Field) (i n : Nat) : (s.sat f i n).cuts = s.cuts := State.wr2_cuts s f i 0 _

@[simp] theorem State.sat_cutPkts (s : State) (f : Field) (i n : Nat) : (s.sat f i n).cutPkts = s.cutPkts := State.wr2_cutPkts s f i 0 _

@[simp] theorem State.sat_enc (s : State) (f : Field) (i n : Nat) : (s.sat f i n).enc = s.enc := State.wr2_enc s f i 0 _

@[simp] theorem State.sat_ssi (s : State) (f : Field) (i n : Nat) : (s.sat f i n).ssi = s.ssi := State.wr2_ssi s f i 0 _

@[simp] theorem State.sat_probes (s : State) (f : Field) (i n : Nat) : (s.sat f i n).probes = s.probes := State.wr2_probes s f i 0 _

@[simp] theorem State.sat_divs (s : State) (f : Field) (i n : Nat) : (s.sat f i n).divs = s.divs := State.wr2_divs s f i 0 _

@[simp] theorem State.sat_pfuTick (s : State) (f : Field) (i n : Nat) : (s.sat f i n).pfuTick = s.pfuTick := State.wr2_pfuTick s f i 0 _

@[simp] theorem State.sat_web (s : State) (f : Field) (i n : Nat) : (s.sat f i n).web = s.web := State.wr2_web s f i 0 _

@[simp] theorem State.sat_marks (s : State) (f : Field) (i n : Nat) : (s.sat f i n).marks = s.marks := State.wr2_marks s f i 0 _

@[simp] theorem State.sat_markPins (s : State) (f : Field) (i n : Nat) : (s.sat f i n).markPins = s.markPins := State.wr2_markPins s f i 0 _

@[simp] theorem State.sat_tes (s : State) (f : Field) (i n : Nat) : (s.sat f i n).tes = s.tes := State.wr2_tes s f i 0 _

@[simp] theorem State.sat_views (s : State) (f : Field) (i n : Nat) : (s.sat f i n).views = s.views := State.wr2_views s f i 0 _

@[simp] theorem State.sat_store (s : State) (f : Field) (i n : Nat) : (s.sat f i n).store = s.store := State.wr2_store s f i 0 _

@[simp] theorem State.sat_strips (s : State) (f : Field) (i n : Nat) : (s.sat f i n).strips = s.strips := State.wr2_strips s f i 0 _

@[simp] theorem State.sat_commits (s : State) (f : Field) (i n : Nat) : (s.sat f i n).commits = s.commits := State.wr2_commits s f i 0 _

@[simp] theorem State.sat_recs (s : State) (f : Field) (i n : Nat) : (s.sat f i n).recs = s.recs := State.wr2_recs s f i 0 _

@[simp] theorem State.sat_dlg (s : State) (f : Field) (i n : Nat) : (s.sat f i n).dlg = s.dlg := State.wr2_dlg s f i 0 _

@[simp] theorem State.sat_his (s : State) (f : Field) (i n : Nat) : (s.sat f i n).his = s.his := State.wr2_his s f i 0 _

@[simp] theorem State.sat_ovs (s : State) (f : Field) (i n : Nat) : (s.sat f i n).ovs = s.ovs := State.wr2_ovs s f i 0 _

@[simp] theorem State.sat_dmc (s : State) (f : Field) (i n : Nat) : (s.sat f i n).dmc = s.dmc := State.wr2_dmc s f i 0 _

@[simp] theorem State.sat_dma (s : State) (f : Field) (i n : Nat) : (s.sat f i n).dma = s.dma := State.wr2_dma s f i 0 _

@[simp] theorem State.sat_hif (s : State) (f : Field) (i n : Nat) : (s.sat f i n).hif = s.hif := State.wr2_hif s f i 0 _

@[simp] theorem State.sat_wlk (s : State) (f : Field) (i n : Nat) : (s.sat f i n).wlk = s.wlk := State.wr2_wlk s f i 0 _

@[simp] theorem State.sat_sent (s : State) (f : Field) (i n : Nat) : (s.sat f i n).sent = s.sent := State.wr2_sent s f i 0 _

@[simp] theorem State.sat_tnt (s : State) (f : Field) (i n : Nat) : (s.sat f i n).tnt = s.tnt := State.wr2_tnt s f i 0 _

@[simp] theorem State.sat_dep (s : State) (f : Field) (i n : Nat) : (s.sat f i n).dep = s.dep := State.wr2_dep s f i 0 _

@[simp] theorem State.sat_power (s : State) (f : Field) (i n : Nat) : (s.sat f i n).power = s.power := State.wr2_power s f i 0 _

@[simp] theorem State.sat_evr (s : State) (f : Field) (i n : Nat) : (s.sat f i n).evr = s.evr := State.wr2_evr s f i 0 _

@[simp] theorem State.sat_tw (s : State) (f : Field) (i n : Nat) : (s.sat f i n).tw = s.tw := State.wr2_tw s f i 0 _

@[simp] theorem State.sat_snap (s : State) (f : Field) (i n : Nat) : (s.sat f i n).snap = s.snap := State.wr2_snap s f i 0 _

@[simp] theorem State.sat_sampled (s : State) (f : Field) (i n : Nat) : (s.sat f i n).sampled = s.sampled := State.wr2_sampled s f i 0 _

@[simp] theorem State.sat_pending (s : State) (f : Field) (i n : Nat) : (s.sat f i n).pending = s.pending := State.wr2_pending s f i 0 _

@[simp] theorem State.wrAll_mem (s : State) (i : Nat) (l : List (Field × Nat)) : (s.wrAll i l).mem = s.mem := by
  induction l generalizing s with
  | nil => rfl
  | cons e l ih => exact (ih _).trans (State.wr_mem _ _ _ _)

@[simp] theorem State.wrAll_poison (s : State) (i : Nat) (l : List (Field × Nat)) : (s.wrAll i l).poison = s.poison := by
  induction l generalizing s with
  | nil => rfl
  | cons e l ih => exact (ih _).trans (State.wr_poison _ _ _ _)

@[simp] theorem State.wrAll_free (s : State) (i : Nat) (l : List (Field × Nat)) : (s.wrAll i l).free = s.free := by
  induction l generalizing s with
  | nil => rfl
  | cons e l ih => exact (ih _).trans (State.wr_free _ _ _ _)

@[simp] theorem State.wrAll_procs (s : State) (i : Nat) (l : List (Field × Nat)) : (s.wrAll i l).procs = s.procs := by
  induction l generalizing s with
  | nil => rfl
  | cons e l ih => exact (ih _).trans (State.wr_procs _ _ _ _)

@[simp] theorem State.wrAll_seq (s : State) (i : Nat) (l : List (Field × Nat)) : (s.wrAll i l).seq = s.seq := by
  induction l generalizing s with
  | nil => rfl
  | cons e l ih => exact (ih _).trans (State.wr_seq _ _ _ _)

@[simp] theorem State.wrAll_transit (s : State) (i : Nat) (l : List (Field × Nat)) : (s.wrAll i l).transit = s.transit := by
  induction l generalizing s with
  | nil => rfl
  | cons e l ih => exact (ih _).trans (State.wr_transit _ _ _ _)

@[simp] theorem State.wrAll_held (s : State) (i : Nat) (l : List (Field × Nat)) : (s.wrAll i l).held = s.held := by
  induction l generalizing s with
  | nil => rfl
  | cons e l ih => exact (ih _).trans (State.wr_held _ _ _ _)

@[simp] theorem State.wrAll_progress (s : State) (i : Nat) (l : List (Field × Nat)) : (s.wrAll i l).progress = s.progress := by
  induction l generalizing s with
  | nil => rfl
  | cons e l ih => exact (ih _).trans (State.wr_progress _ _ _ _)

@[simp] theorem State.wrAll_gaps (s : State) (i : Nat) (l : List (Field × Nat)) : (s.wrAll i l).gaps = s.gaps := by
  induction l generalizing s with
  | nil => rfl
  | cons e l ih => exact (ih _).trans (State.wr_gaps _ _ _ _)

@[simp] theorem State.wrAll_sump (s : State) (i : Nat) (l : List (Field × Nat)) : (s.wrAll i l).sump = s.sump := by
  induction l generalizing s with
  | nil => rfl
  | cons e l ih => exact (ih _).trans (State.wr_sump _ _ _ _)

@[simp] theorem State.wrAll_malformed (s : State) (i : Nat) (l : List (Field × Nat)) : (s.wrAll i l).malformed = s.malformed := by
  induction l generalizing s with
  | nil => rfl
  | cons e l ih => exact (ih _).trans (State.wr_malformed _ _ _ _)

@[simp] theorem State.wrAll_tokens (s : State) (i : Nat) (l : List (Field × Nat)) : (s.wrAll i l).tokens = s.tokens := by
  induction l generalizing s with
  | nil => rfl
  | cons e l ih => exact (ih _).trans (State.wr_tokens _ _ _ _)

@[simp] theorem State.wrAll_rpa (s : State) (i : Nat) (l : List (Field × Nat)) : (s.wrAll i l).rpa = s.rpa := by
  induction l generalizing s with
  | nil => rfl
  | cons e l ih => exact (ih _).trans (State.wr_rpa _ _ _ _)

@[simp] theorem State.wrAll_damper (s : State) (i : Nat) (l : List (Field × Nat)) : (s.wrAll i l).damper = s.damper := by
  induction l generalizing s with
  | nil => rfl
  | cons e l ih => exact (ih _).trans (State.wr_damper _ _ _ _)

@[simp] theorem State.wrAll_lanes (s : State) (i : Nat) (l : List (Field × Nat)) : (s.wrAll i l).lanes = s.lanes := by
  induction l generalizing s with
  | nil => rfl
  | cons e l ih => exact (ih _).trans (State.wr_lanes _ _ _ _)

@[simp] theorem State.wrAll_goodWin (s : State) (i : Nat) (l : List (Field × Nat)) : (s.wrAll i l).goodWin = s.goodWin := by
  induction l generalizing s with
  | nil => rfl
  | cons e l ih => exact (ih _).trans (State.wr_goodWin _ _ _ _)

@[simp] theorem State.wrAll_bonded (s : State) (i : Nat) (l : List (Field × Nat)) : (s.wrAll i l).bonded = s.bonded := by
  induction l generalizing s with
  | nil => rfl
  | cons e l ih => exact (ih _).trans (State.wr_bonded _ _ _ _)

@[simp] theorem State.wrAll_heads (s : State) (i : Nat) (l : List (Field × Nat)) : (s.wrAll i l).heads = s.heads := by
  induction l generalizing s with
  | nil => rfl
  | cons e l ih => exact (ih _).trans (State.wr_heads _ _ _ _)

@[simp] theorem State.wrAll_cuts (s : State) (i : Nat) (l : List (Field × Nat)) : (s.wrAll i l).cuts = s.cuts := by
  induction l generalizing s with
  | nil => rfl
  | cons e l ih => exact (ih _).trans (State.wr_cuts _ _ _ _)

@[simp] theorem State.wrAll_cutPkts (s : State) (i : Nat) (l : List (Field × Nat)) : (s.wrAll i l).cutPkts = s.cutPkts := by
  induction l generalizing s with
  | nil => rfl
  | cons e l ih => exact (ih _).trans (State.wr_cutPkts _ _ _ _)

@[simp] theorem State.wrAll_enc (s : State) (i : Nat) (l : List (Field × Nat)) : (s.wrAll i l).enc = s.enc := by
  induction l generalizing s with
  | nil => rfl
  | cons e l ih => exact (ih _).trans (State.wr_enc _ _ _ _)

@[simp] theorem State.wrAll_ssi (s : State) (i : Nat) (l : List (Field × Nat)) : (s.wrAll i l).ssi = s.ssi := by
  induction l generalizing s with
  | nil => rfl
  | cons e l ih => exact (ih _).trans (State.wr_ssi _ _ _ _)

@[simp] theorem State.wrAll_probes (s : State) (i : Nat) (l : List (Field × Nat)) : (s.wrAll i l).probes = s.probes := by
  induction l generalizing s with
  | nil => rfl
  | cons e l ih => exact (ih _).trans (State.wr_probes _ _ _ _)

@[simp] theorem State.wrAll_divs (s : State) (i : Nat) (l : List (Field × Nat)) : (s.wrAll i l).divs = s.divs := by
  induction l generalizing s with
  | nil => rfl
  | cons e l ih => exact (ih _).trans (State.wr_divs _ _ _ _)

@[simp] theorem State.wrAll_pfuTick (s : State) (i : Nat) (l : List (Field × Nat)) : (s.wrAll i l).pfuTick = s.pfuTick := by
  induction l generalizing s with
  | nil => rfl
  | cons e l ih => exact (ih _).trans (State.wr_pfuTick _ _ _ _)

@[simp] theorem State.wrAll_web (s : State) (i : Nat) (l : List (Field × Nat)) : (s.wrAll i l).web = s.web := by
  induction l generalizing s with
  | nil => rfl
  | cons e l ih => exact (ih _).trans (State.wr_web _ _ _ _)

@[simp] theorem State.wrAll_marks (s : State) (i : Nat) (l : List (Field × Nat)) : (s.wrAll i l).marks = s.marks := by
  induction l generalizing s with
  | nil => rfl
  | cons e l ih => exact (ih _).trans (State.wr_marks _ _ _ _)

@[simp] theorem State.wrAll_markPins (s : State) (i : Nat) (l : List (Field × Nat)) : (s.wrAll i l).markPins = s.markPins := by
  induction l generalizing s with
  | nil => rfl
  | cons e l ih => exact (ih _).trans (State.wr_markPins _ _ _ _)

@[simp] theorem State.wrAll_tes (s : State) (i : Nat) (l : List (Field × Nat)) : (s.wrAll i l).tes = s.tes := by
  induction l generalizing s with
  | nil => rfl
  | cons e l ih => exact (ih _).trans (State.wr_tes _ _ _ _)

@[simp] theorem State.wrAll_views (s : State) (i : Nat) (l : List (Field × Nat)) : (s.wrAll i l).views = s.views := by
  induction l generalizing s with
  | nil => rfl
  | cons e l ih => exact (ih _).trans (State.wr_views _ _ _ _)

@[simp] theorem State.wrAll_store (s : State) (i : Nat) (l : List (Field × Nat)) : (s.wrAll i l).store = s.store := by
  induction l generalizing s with
  | nil => rfl
  | cons e l ih => exact (ih _).trans (State.wr_store _ _ _ _)

@[simp] theorem State.wrAll_strips (s : State) (i : Nat) (l : List (Field × Nat)) : (s.wrAll i l).strips = s.strips := by
  induction l generalizing s with
  | nil => rfl
  | cons e l ih => exact (ih _).trans (State.wr_strips _ _ _ _)

@[simp] theorem State.wrAll_commits (s : State) (i : Nat) (l : List (Field × Nat)) : (s.wrAll i l).commits = s.commits := by
  induction l generalizing s with
  | nil => rfl
  | cons e l ih => exact (ih _).trans (State.wr_commits _ _ _ _)

@[simp] theorem State.wrAll_recs (s : State) (i : Nat) (l : List (Field × Nat)) : (s.wrAll i l).recs = s.recs := by
  induction l generalizing s with
  | nil => rfl
  | cons e l ih => exact (ih _).trans (State.wr_recs _ _ _ _)

@[simp] theorem State.wrAll_dlg (s : State) (i : Nat) (l : List (Field × Nat)) : (s.wrAll i l).dlg = s.dlg := by
  induction l generalizing s with
  | nil => rfl
  | cons e l ih => exact (ih _).trans (State.wr_dlg _ _ _ _)

@[simp] theorem State.wrAll_his (s : State) (i : Nat) (l : List (Field × Nat)) : (s.wrAll i l).his = s.his := by
  induction l generalizing s with
  | nil => rfl
  | cons e l ih => exact (ih _).trans (State.wr_his _ _ _ _)

@[simp] theorem State.wrAll_ovs (s : State) (i : Nat) (l : List (Field × Nat)) : (s.wrAll i l).ovs = s.ovs := by
  induction l generalizing s with
  | nil => rfl
  | cons e l ih => exact (ih _).trans (State.wr_ovs _ _ _ _)

@[simp] theorem State.wrAll_dmc (s : State) (i : Nat) (l : List (Field × Nat)) : (s.wrAll i l).dmc = s.dmc := by
  induction l generalizing s with
  | nil => rfl
  | cons e l ih => exact (ih _).trans (State.wr_dmc _ _ _ _)

@[simp] theorem State.wrAll_dma (s : State) (i : Nat) (l : List (Field × Nat)) : (s.wrAll i l).dma = s.dma := by
  induction l generalizing s with
  | nil => rfl
  | cons e l ih => exact (ih _).trans (State.wr_dma _ _ _ _)

@[simp] theorem State.wrAll_hif (s : State) (i : Nat) (l : List (Field × Nat)) : (s.wrAll i l).hif = s.hif := by
  induction l generalizing s with
  | nil => rfl
  | cons e l ih => exact (ih _).trans (State.wr_hif _ _ _ _)

@[simp] theorem State.wrAll_wlk (s : State) (i : Nat) (l : List (Field × Nat)) : (s.wrAll i l).wlk = s.wlk := by
  induction l generalizing s with
  | nil => rfl
  | cons e l ih => exact (ih _).trans (State.wr_wlk _ _ _ _)

@[simp] theorem State.wrAll_sent (s : State) (i : Nat) (l : List (Field × Nat)) : (s.wrAll i l).sent = s.sent := by
  induction l generalizing s with
  | nil => rfl
  | cons e l ih => exact (ih _).trans (State.wr_sent _ _ _ _)

@[simp] theorem State.wrAll_tnt (s : State) (i : Nat) (l : List (Field × Nat)) : (s.wrAll i l).tnt = s.tnt := by
  induction l generalizing s with
  | nil => rfl
  | cons e l ih => exact (ih _).trans (State.wr_tnt _ _ _ _)

@[simp] theorem State.wrAll_dep (s : State) (i : Nat) (l : List (Field × Nat)) : (s.wrAll i l).dep = s.dep := by
  induction l generalizing s with
  | nil => rfl
  | cons e l ih => exact (ih _).trans (State.wr_dep _ _ _ _)

@[simp] theorem State.wrAll_power (s : State) (i : Nat) (l : List (Field × Nat)) : (s.wrAll i l).power = s.power := by
  induction l generalizing s with
  | nil => rfl
  | cons e l ih => exact (ih _).trans (State.wr_power _ _ _ _)

@[simp] theorem State.wrAll_evr (s : State) (i : Nat) (l : List (Field × Nat)) : (s.wrAll i l).evr = s.evr := by
  induction l generalizing s with
  | nil => rfl
  | cons e l ih => exact (ih _).trans (State.wr_evr _ _ _ _)

@[simp] theorem State.wrAll_tw (s : State) (i : Nat) (l : List (Field × Nat)) : (s.wrAll i l).tw = s.tw := by
  induction l generalizing s with
  | nil => rfl
  | cons e l ih => exact (ih _).trans (State.wr_tw _ _ _ _)

@[simp] theorem State.wrAll_snap (s : State) (i : Nat) (l : List (Field × Nat)) : (s.wrAll i l).snap = s.snap := by
  induction l generalizing s with
  | nil => rfl
  | cons e l ih => exact (ih _).trans (State.wr_snap _ _ _ _)

@[simp] theorem State.wrAll_sampled (s : State) (i : Nat) (l : List (Field × Nat)) : (s.wrAll i l).sampled = s.sampled := by
  induction l generalizing s with
  | nil => rfl
  | cons e l ih => exact (ih _).trans (State.wr_sampled _ _ _ _)

@[simp] theorem State.wrAll_pending (s : State) (i : Nat) (l : List (Field × Nat)) : (s.wrAll i l).pending = s.pending := by
  induction l generalizing s with
  | nil => rfl
  | cons e l ih => exact (ih _).trans (State.wr_pending _ _ _ _)

end Sys2Proof.Machine
end

