-- ==== Sys2Proof/Laws/Ops.lean ====
section
/-!
SUPPORT. What each function of Machine/Ops.lean can change: every law of the parts it names survives it.
-/
namespace Sys2Proof.Machine

variable {P : Part → Prop} {Q : State → Prop}

theorem pmuAdd_law (hQ : Law P Q) (hP : Has P [.grp 64]) {s : State} {n : Nat} {k : Nat}   (h0 : Q s) :
    Q (pmuAdd s n k) := by
  unfold pmuAdd
  repeat' first
    | with_reducible assumption
    | ((with_reducible refine boolGoal ?_); exact rfl)
    | ((with_reducible refine hP.one _ ?_); exact rfl)
    | with_reducible refine hQ.wr hP ?_ ?_
    | with_reducible refine hQ.wrap hP ?_ ?_
    | with_reducible refine Law.ite ?_ ?_
    | ((try lift_lets); (with_reducible intro y); (have hy : Q y := ?_); clear_value y; rotate_left; subst y)
    | ((try lift_lets); (with_reducible intro x); (try clear_value x))
    | split

theorem pmuGo_law (hQ : Law P Q) (hP : Has P [.grp 64]) {unit inst evt k : Nat} {l : List Nat} {s : State} (h : Q s) :
    Q (pmuGo unit inst evt k l s) := by
  induction l generalizing s with
  | nil => exact h
  | cons n l ih =>
    refine ih ?_
    split
    · exact pmuAdd_law hQ hP h
    · exact h

theorem evt_law (hQ : Law P Q) (hP : Has P [.grp 64]) {s : State} {unit : Nat} {inst : Nat} {evt : Nat} {k : Nat}   (h0 : Q s) :
    Q (State.evt s unit inst evt k) := by
  unfold State.evt
  repeat' first
    | with_reducible assumption
    | ((with_reducible refine boolGoal ?_); exact rfl)
    | ((with_reducible refine hP.one _ ?_); exact rfl)
    | with_reducible refine pmuGo_law hQ (hP.sub rfl) ?_

theorem emit_law (hQ : Law P Q) (hP : Has P [.tokens]) {s : State} {src : Nat} {hop : Nat}   (h0 : Q s) :
    Q (State.emit s src hop) := by
  unfold State.emit
  repeat' first
    | with_reducible assumption
    | ((with_reducible refine boolGoal ?_); exact rfl)
    | ((with_reducible refine hP.one _ ?_); exact rfl)
    | with_reducible refine optAll.map (fun _ => ?_)
    | ((try lift_lets); (with_reducible intro y); (have hy : Q y := ?_); clear_value y; rotate_left; subst y)
    | ((try lift_lets); (with_reducible intro x); (try clear_value x))
    | with_reducible refine hQ.tokens ?_ ?_

theorem fire_law (hQ : Law P Q) (hP : Has P [.tokens]) {s : State} {c : Nat} {hop : Nat}   (h0 : Q s) :
    Q (State.fire s c hop) := by
  unfold State.fire
  repeat' first
    | with_reducible assumption
    | ((with_reducible refine boolGoal ?_); exact rfl)
    | ((with_reducible refine hP.one _ ?_); exact rfl)
    | with_reducible refine Law.ite ?_ ?_
    | ((try lift_lets); (with_reducible intro y); (have hy : Q y := ?_); clear_value y; rotate_left; subst y)
    | ((try lift_lets); (with_reducible intro x); (try clear_value x))
    | split
    | with_reducible refine hQ.tokens ?_ ?_

theorem fresh_law (hQ : Law P Q) (hP : Has P [.free]) {s : State}   (h0 : Q s) :
    Q (State.fresh s).2 := by
  unfold State.fresh
  repeat' first
    | with_reducible assumption
    | ((with_reducible refine boolGoal ?_); exact rfl)
    | ((with_reducible refine hP.one _ ?_); exact rfl)
    | ((try lift_lets); (with_reducible intro y); (have hy : Q y := ?_); clear_value y; rotate_left; subst y)
    | ((try lift_lets); (with_reducible intro x); (try clear_value x))
    | with_reducible refine hQ.free ?_ ?_

theorem zeroBytes_law (hQ : Law P Q) (hP : Has P [.mem]) {s : State} {a : Nat} {n : Nat}   (h0 : Q s) :
    Q (State.zeroBytes s a n) := by
  unfold State.zeroBytes
  repeat' first
    | with_reducible assumption
    | ((with_reducible refine boolGoal ?_); exact rfl)
    | ((with_reducible refine hP.one _ ?_); exact rfl)
    | with_reducible refine hQ.cut ?_ ?_
    | ((try lift_lets); (with_reducible intro y); (have hy : Q y := ?_); clear_value y; rotate_left; subst y)
    | ((try lift_lets); (with_reducible intro x); (try clear_value x))

theorem unpoison_law (hQ : Law P Q) (hP : Has P [.poison]) {a : Nat} {n : Nat} {s : State}   (h0 : Q s) :
    Q (unpoison a n s) := by
  unfold unpoison
  repeat' first
    | with_reducible assumption
    | ((with_reducible refine boolGoal ?_); exact rfl)
    | ((with_reducible refine hP.one _ ?_); exact rfl)
    | ((try lift_lets); (with_reducible intro y); (have hy : Q y := ?_); clear_value y; rotate_left; subst y)
    | ((try lift_lets); (with_reducible intro x); (try clear_value x))
    | with_reducible refine hQ.poison ?_ ?_

theorem fill_law (hQ : Law P Q) (hP : Has P [.mem, .poison]) {s : State} {a : Nat} {bs : List Byte}   (h0 : Q s) :
    Q (State.fill s a bs) := by
  unfold State.fill
  repeat' first
    | with_reducible assumption
    | ((with_reducible refine boolGoal ?_); exact rfl)
    | ((with_reducible refine hP.one _ ?_); exact rfl)
    | with_reducible refine unpoison_law hQ (hP.sub rfl) ?_
    | with_reducible refine hQ.setBytes ?_ ?_

theorem setSpan_law (hQ : Law P Q) (hP : Has P [.sump]) {s : State} {n : Nat} {e : Span}   (h0 : Q s) :
    Q (State.setSpan s n e) := by
  unfold State.setSpan
  repeat' first
    | with_reducible assumption
    | ((with_reducible refine boolGoal ?_); exact rfl)
    | ((with_reducible refine hP.one _ ?_); exact rfl)
    | ((try lift_lets); (with_reducible intro y); (have hy : Q y := ?_); clear_value y; rotate_left; subst y)
    | ((try lift_lets); (with_reducible intro y); (have hy : Q y.1 := ?_); clear_value y; rotate_left; subst y)
    | ((try lift_lets); (with_reducible intro x); (try clear_value x))
    | with_reducible refine hQ.sump ?_ ?_

theorem write64_law (hQ : Law P Q) (hP : Has P [.mem, .poison]) {s : State} {a : Nat} {x : Word}   (h0 : Q s) :
    Q (State.write64 s a x) := by
  unfold State.write64
  repeat' first
    | with_reducible assumption
    | ((with_reducible refine boolGoal ?_); exact rfl)
    | ((with_reducible refine hP.one _ ?_); exact rfl)
    | with_reducible refine fill_law hQ (hP.sub rfl) ?_

theorem traffic_law (hQ : Law P Q) (hP : Has P [.grp 64]) {s : State} {write : Bool} {a : Nat} {n : Nat}   (h0 : Q s) :
    Q (State.traffic s write a n) := by
  unfold State.traffic
  repeat' first
    | with_reducible assumption
    | ((with_reducible refine boolGoal ?_); exact rfl)
    | ((with_reducible refine hP.one _ ?_); exact rfl)
    | with_reducible refine evt_law hQ (hP.sub rfl) ?_
    | with_reducible refine Law.ite ?_ ?_
    | with_reducible refine Law.foldl (fun _ _ _ => ?_) ?_
    | with_reducible refine Law.foldlBy Prod.snd (fun _ _ _ => ?_) ?_
    | with_reducible refine Law.foldlBy Prod.fst (fun _ _ _ => ?_) ?_
    | ((try lift_lets); (with_reducible intro x); (try clear_value x))
    | split

theorem put_law (hQ : Law P Q) (hP : Has P [.grp 64, .mem, .poison]) {s : State} {a : Nat} {bs : List Byte}   (h0 : Q s) :
    Q (State.put s a bs) := by
  unfold State.put
  repeat' first
    | with_reducible assumption
    | ((with_reducible refine boolGoal ?_); exact rfl)
    | ((with_reducible refine hP.one _ ?_); exact rfl)
    | with_reducible refine fill_law hQ (hP.sub rfl) ?_
    | with_reducible refine traffic_law hQ (hP.sub rfl) ?_
    | with_reducible refine Law.ite ?_ ?_
    | split

theorem discard_law (hQ : Law P Q) (hP : Has P [.malformed]) {s : State} {unit : Nat}   (h0 : Q s) :
    Q (State.discard s unit) := by
  unfold State.discard
  repeat' first
    | with_reducible assumption
    | ((with_reducible refine boolGoal ?_); exact rfl)
    | ((with_reducible refine hP.one _ ?_); exact rfl)
    | ((try lift_lets); (with_reducible intro y); (have hy : Q y := ?_); clear_value y; rotate_left; subst y)
    | ((try lift_lets); (with_reducible intro y); (have hy : Q y.1 := ?_); clear_value y; rotate_left; subst y)
    | ((try lift_lets); (with_reducible intro x); (try clear_value x))
    | with_reducible refine hQ.malformed ?_ ?_

theorem totalise_law (hQ : Law P Q) (hP : Has P [.grp 9]) {s : State} {e : Span}   (h0 : Q s) :
    Q (totalise s e) := by
  unfold totalise
  repeat' first
    | with_reducible assumption
    | ((with_reducible refine boolGoal ?_); exact rfl)
    | ((with_reducible refine hP.one _ ?_); exact rfl)
    | with_reducible refine hQ.wr2 hP ?_ ?_
    | with_reducible refine Law.ite ?_ ?_
    | ((try lift_lets); (with_reducible intro y); (have hy : Q y := ?_); clear_value y; rotate_left; subst y)
    | ((try lift_lets); (with_reducible intro y); (have hy : Q y.1 := ?_); clear_value y; rotate_left; subst y)
    | ((try lift_lets); (with_reducible intro x); (try clear_value x))
    | split

theorem merge_law (hQ : Law P Q) (hP : Has P [.grp 9, .sump]) {s : State} {src : Nat} {skind : Nat} {lseq : Nat} {pos : Int} {n : Nat}   (h0 : Q s) :
    Q (State.merge s src skind lseq pos n) := by
  unfold State.merge
  repeat' first
    | with_reducible assumption
    | ((with_reducible refine boolGoal ?_); exact rfl)
    | ((with_reducible refine hP.one _ ?_); exact rfl)
    | with_reducible refine setSpan_law hQ (hP.sub rfl) ?_
    | with_reducible refine totalise_law hQ (hP.sub rfl) ?_
    | with_reducible refine Law.ite ?_ ?_
    | ((try lift_lets); (with_reducible intro y); (have hy : Q y := ?_); clear_value y; rotate_left; subst y)
    | ((try lift_lets); (with_reducible intro y); (have hy : Q y.1 := ?_); clear_value y; rotate_left; subst y)
    | ((try lift_lets); (with_reducible intro x); (try clear_value x))
    | split
    | dsimp only
    | with_reducible refine hQ.sump ?_ ?_

theorem takeNote_law (hQ : Law P Q) (hP : Has P [.grp 9, .sump]) {s : State} {m : SumpNote} {n : Nat}   (h0 : Q s) :
    Q (State.takeNote s m n) := by
  unfold State.takeNote
  repeat' first
    | with_reducible assumption
    | ((with_reducible refine boolGoal ?_); exact rfl)
    | ((with_reducible refine hP.one _ ?_); exact rfl)
    | with_reducible refine merge_law hQ (hP.sub rfl) ?_
    | ((try lift_lets); (with_reducible intro y); (have hy : Q y := ?_); clear_value y; rotate_left; subst y)
    | ((try lift_lets); (with_reducible intro y); (have hy : Q y.1 := ?_); clear_value y; rotate_left; subst y)
    | ((try lift_lets); (with_reducible intro x); (try clear_value x))
    | with_reducible refine hQ.sump ?_ ?_

theorem note_law (hQ : Law P Q) (hP : Has P [.grp 9, .sump]) {s : State} {src : Nat} {skind : Nat} {t : Tag} {n : Nat}   (h0 : Q s) :
    Q (State.note s src skind t n) := by
  unfold State.note
  repeat' first
    | with_reducible assumption
    | ((with_reducible refine boolGoal ?_); exact rfl)
    | ((with_reducible refine hP.one _ ?_); exact rfl)
    | with_reducible refine takeNote_law hQ (hP.sub rfl) ?_
    | ((try lift_lets); (with_reducible intro y); (have hy : Q y := ?_); clear_value y; rotate_left; subst y)
    | ((try lift_lets); (with_reducible intro x); (try clear_value x))

theorem setHeld_law (hQ : Law P Q) (hP : Has P [.grp 21, .tokens]) {s : State}   (h0 : Q s) :
    Q (setHeld s) := by
  unfold setHeld
  repeat' first
    | with_reducible assumption
    | ((with_reducible refine boolGoal ?_); exact rfl)
    | ((with_reducible refine hP.one _ ?_); exact rfl)
    | with_reducible refine hQ.wr hP ?_ ?_
    | with_reducible refine hQ.sat hP ?_ ?_
    | with_reducible refine emit_law hQ (hP.sub rfl) ?_
    | with_reducible refine Law.ite ?_ ?_
    | ((try lift_lets); (with_reducible intro y); (have hy : Q y := ?_); clear_value y; rotate_left; subst y)
    | ((try lift_lets); (with_reducible intro y); (have hy : Q y.1 := ?_); clear_value y; rotate_left; subst y)
    | ((try lift_lets); (with_reducible intro x); (try clear_value x))
    | split

theorem showGranted_law (hQ : Law P Q) (hP : Has P [.grp 21]) {s : State}   (h0 : Q s) :
    Q (showGranted s) := by
  unfold showGranted
  repeat' first
    | with_reducible assumption
    | ((with_reducible refine boolGoal ?_); exact rfl)
    | ((with_reducible refine hP.one _ ?_); exact rfl)
    | with_reducible refine hQ.wr hP ?_ ?_

theorem request_law (hQ : Law P Q) (hP : Has P [.grp 21, .damper, .tokens]) {s : State} {cls : Nat} {id : Nat} {mw : Nat}   (h0 : Q s) :
    Q (State.request s cls id mw) := by
  unfold State.request
  repeat' first
    | with_reducible assumption
    | ((with_reducible refine boolGoal ?_); exact rfl)
    | ((with_reducible refine hP.one _ ?_); exact rfl)
    | with_reducible refine setHeld_law hQ (hP.sub rfl) ?_
    | with_reducible refine Law.ite ?_ ?_
    | ((try lift_lets); (with_reducible intro y); (have hy : Q y := ?_); clear_value y; rotate_left; subst y)
    | ((try lift_lets); (with_reducible intro x); (try clear_value x))
    | split
    | with_reducible exact idLaw ‹_›
    | with_reducible refine hQ.damper ?_ ?_

theorem release_law (hQ : Law P Q) (hP : Has P [.grp 21, .damper, .tokens]) {s : State} {cls : Nat} {id : Nat}   (h0 : Q s) :
    Q (State.release s cls id) := by
  unfold State.release
  repeat' first
    | with_reducible assumption
    | ((with_reducible refine boolGoal ?_); exact rfl)
    | ((with_reducible refine hP.one _ ?_); exact rfl)
    | with_reducible refine showGranted_law hQ (hP.sub rfl) ?_
    | with_reducible refine setHeld_law hQ (hP.sub rfl) ?_
    | ((try lift_lets); (with_reducible intro y); (have hy : Q y := ?_); clear_value y; rotate_left; subst y)
    | ((try lift_lets); (with_reducible intro x); (try clear_value x))
    | with_reducible refine hQ.damper ?_ ?_

end Sys2Proof.Machine
end

