-- ==== Sys2Proof/Laws/Dram.lean ====
section
/-!
SUPPORT. What each function of Machine/Dram.lean can change: every law of the parts it names survives it.
-/
namespace Sys2Proof.Machine

variable {P : Part → Prop} {Q : State → Prop}

theorem setDram_law (hQ : Law P Q) (hP : Has P [.dmc]) {s : State} {c : Nat} {e : DmcState}   (h0 : Q s) :
    Q (State.setDram s c e) := by
  unfold State.setDram
  repeat' first
    | with_reducible assumption
    | ((with_reducible refine boolGoal ?_); exact rfl)
    | ((with_reducible refine hP.one _ ?_); exact rfl)
    | ((try lift_lets); (with_reducible intro y); (have hy : Q y := ?_); clear_value y; rotate_left; subst y)
    | ((try lift_lets); (with_reducible intro y); (have hy : Q y.1 := ?_); clear_value y; rotate_left; subst y)
    | ((try lift_lets); (with_reducible intro x); (try clear_value x))
    | with_reducible refine hQ.dmc ?_ ?_

theorem setDma_law (hQ : Law P Q) (hP : Has P [.dma]) {s : State} {c : Nat} {e : DmaState} (hi0 : P (.one .dma c))  (h0 : Q s) :
    Q (State.setDma s c e) := by
  unfold State.setDma
  repeat' first
    | with_reducible assumption
    | ((with_reducible refine boolGoal ?_); exact rfl)
    | ((with_reducible refine hP.one _ ?_); exact rfl)
    | ((with_reducible refine hQ.wrAllAt hP hi0 ?_ ?_); simp only [List.all]; exact rfl)
    | ((with_reducible refine hQ.wrAll hP ?_ ?_); simp only [List.all]; exact rfl)
    | ((try lift_lets); (with_reducible intro y); (have hy : Q y := ?_); clear_value y; rotate_left; subst y)
    | ((try lift_lets); (with_reducible intro y); (have hy : Q y.1 := ?_); clear_value y; rotate_left; subst y)
    | ((try lift_lets); (with_reducible intro x); (try clear_value x))
    | with_reducible refine hQ.dma ?_ ?_

theorem takeDma_law (hQ : Law P Q) (hP : Has P [.all .dma]) {owner : Nat} {s : State} (h : Q s) :
    optAll (fun r : Nat × State => Q r.2) (takeDma owner s) := by
  unfold takeDma
  exact optAll.map (R := fun r : Nat × State => Q r.2) fun c => hQ.wr hP rfl h

theorem giveDma_law (hQ : Law P Q) (hP : Has P [.all .dma]) {c : Option Nat} {s : State}   (h0 : Q s) :
    Q (giveDma c s) := by
  unfold giveDma
  repeat' first
    | with_reducible assumption
    | ((with_reducible refine boolGoal ?_); exact rfl)
    | ((with_reducible refine hP.inst ?_); exact rfl)
    | ((with_reducible refine hP.one _ ?_); exact rfl)
    | with_reducible refine hQ.wr hP ?_ ?_
    | ((try lift_lets); (with_reducible intro y); (have hy : Q y := ?_); clear_value y; rotate_left; subst y)
    | ((try lift_lets); (with_reducible intro x); (try clear_value x))
    | split
    | dsimp only

theorem endRetire_law (hQ : Law P Q) (hP : Has P [.seq]) {c : Nat} {chstate : Nat} {long : Bool} {s : State} (hi0 : P (.one .dmc c))  (h0 : Q s) :
    Q (endRetire c chstate long s) := by
  unfold endRetire
  repeat' first
    | with_reducible assumption
    | ((with_reducible refine boolGoal ?_); exact rfl)
    | ((with_reducible refine hP.one _ ?_); exact rfl)
    | ((with_reducible refine hQ.wrAt hP hi0 ?_ ?_); exact rfl)
    | with_reducible refine hQ.wr hP ?_ ?_
    | with_reducible refine Law.ite ?_ ?_
    | ((try lift_lets); (with_reducible intro y); (have hy : Q y := ?_); clear_value y; rotate_left; subst y)
    | ((try lift_lets); (with_reducible intro y); (have hy : Q y.1 := ?_); clear_value y; rotate_left; subst y)
    | ((try lift_lets); (with_reducible intro x); (try clear_value x))
    | split
    | with_reducible refine hQ.seq ?_ ?_

theorem beginRetire_law (hQ : Law P Q) (hP : Has P [.dmc, .seq]) {c : Nat} {rank : Nat} {long : Bool} {s : State} (hi0 : P (.one .dmc c))  (h0 : Q s) :
    Q (beginRetire c rank long s) := by
  unfold beginRetire
  repeat' first
    | with_reducible assumption
    | ((with_reducible refine boolGoal ?_); exact rfl)
    | ((with_reducible refine hP.one _ ?_); exact rfl)
    | with_reducible refine endRetire_law hQ (hP.sub rfl) ?_ ?_
    | with_reducible refine setDram_law hQ (hP.sub rfl) ?_
    | ((with_reducible refine hQ.wrAllAt hP hi0 ?_ ?_); simp only [List.all]; exact rfl)
    | ((with_reducible refine hQ.wrAll hP ?_ ?_); simp only [List.all]; exact rfl)
    | with_reducible refine Law.ite ?_ ?_
    | ((try lift_lets); (with_reducible intro y); (have hy : Q y := ?_); clear_value y; rotate_left; subst y)
    | ((try lift_lets); (with_reducible intro y); (have hy : Q y.1 := ?_); clear_value y; rotate_left; subst y)
    | ((try lift_lets); (with_reducible intro x); (try clear_value x))
    | split

theorem nextRetire_law (hQ : Law P Q) (hP : Has P [.all .dmc, .dmc, .seq]) {c : Nat} {l : List (Nat × Bool)} {s : State} (h : Q s) :
    Q (nextRetire c l s) := by
  induction l generalizing s with
  | nil => exact setDram_law hQ (hP.sub rfl) h
  | cons q l ih =>
    unfold nextRetire
    split
    · exact setDram_law hQ (hP.sub rfl) h
    · exact ih (beginRetire_law hQ (hP.sub rfl) (hP.inst rfl) h)

theorem retireRank_law (hQ : Law P Q) (hP : Has P [.all .dmc, .dmc, .seq]) {c : Nat} {rank : Nat} {long : Bool} {s : State}   (h0 : Q s) :
    Q (retireRank c rank long s) := by
  unfold retireRank
  repeat' first
    | with_reducible assumption
    | ((with_reducible refine boolGoal ?_); exact rfl)
    | ((with_reducible refine hP.inst ?_); exact rfl)
    | ((with_reducible refine hP.one _ ?_); exact rfl)
    | with_reducible refine nextRetire_law hQ (hP.sub rfl) ?_

theorem poisonAt_law (hQ : Law P Q) (hP : Has P [.poison]) {s : State} {b : Nat}   (h0 : Q s) :
    Q (State.poisonAt s b) := by
  unfold State.poisonAt
  repeat' first
    | with_reducible assumption
    | ((with_reducible refine boolGoal ?_); exact rfl)
    | ((with_reducible refine hP.one _ ?_); exact rfl)
    | with_reducible refine Law.ite ?_ ?_
    | ((try lift_lets); (with_reducible intro y); (have hy : Q y := ?_); clear_value y; rotate_left; subst y)
    | ((try lift_lets); (with_reducible intro x); (try clear_value x))
    | split
    | with_reducible refine hQ.poison ?_ ?_

theorem eccError_law (hQ : Law P Q) (hP : Has P [.all .dmc, .dmc, .poison, .seq]) {s : State} {a : Nat} {ecc : Nat}   (h0 : Q s) :
    Q (State.eccError s a ecc) := by
  unfold State.eccError
  repeat' first
    | with_reducible assumption
    | ((with_reducible refine boolGoal ?_); exact rfl)
    | ((with_reducible refine hP.inst ?_); exact rfl)
    | ((with_reducible refine hP.one _ ?_); exact rfl)
    | with_reducible refine poisonAt_law hQ (hP.sub rfl) ?_
    | with_reducible refine hQ.sat hP ?_ ?_
    | with_reducible refine retireRank_law hQ (hP.sub rfl) ?_
    | with_reducible refine hQ.wr hP ?_ ?_
    | with_reducible refine Law.ite ?_ ?_
    | ((try lift_lets); (with_reducible intro y); (have hy : Q y := ?_); clear_value y; rotate_left; subst y)
    | ((try lift_lets); (with_reducible intro y); (have hy : Q y.1 := ?_); clear_value y; rotate_left; subst y)
    | ((try lift_lets); (with_reducible intro x); (try clear_value x))
    | split

theorem scramble_law (hQ : Law P Q) (hP : Has P [.free, .mem]) {a n : Nat} {s : State} (h : Q s) : Q (scramble a n s) := by
  induction n generalizing a s with
  | zero => exact h
  | succ n ih => exact ih (hQ.setBytes (hP.one _ rfl) (fresh_law hQ (hP.sub rfl) h))

end Sys2Proof.Machine
end

