-- ==== Sys2Proof/Laws/Operands.lean ====
section
/-!
SUPPORT. What each function of Machine/Operands.lean can change: every law of the parts it names survives it.
-/
namespace Sys2Proof.Machine

variable {P : Part → Prop} {Q : State → Prop}

theorem setProc_law (hQ : Law P Q) (hP : Has P [.procs]) {s : State} {u : Nat} {p : Proc}   (h0 : Q s) :
    Q (State.setProc s u p) := by
  unfold State.setProc
  repeat' first
    | with_reducible assumption
    | ((with_reducible refine boolGoal ?_); exact rfl)
    | ((with_reducible refine hP.one _ ?_); exact rfl)
    | ((try lift_lets); (with_reducible intro y); (have hy : Q y := ?_); clear_value y; rotate_left; subst y)
    | ((try lift_lets); (with_reducible intro y); (have hy : Q y.1 := ?_); clear_value y; rotate_left; subst y)
    | ((try lift_lets); (with_reducible intro x); (try clear_value x))
    | with_reducible refine hQ.procs ?_ ?_

end Sys2Proof.Machine
end

