-- ==== Sys2Proof/Laws/Proc.lean ====
section
/-!
SUPPORT. What each function of Machine/Proc.lean can change: every law of the parts it names survives it.
-/
namespace Sys2Proof.Machine

variable {P : Part → Prop} {Q : State → Prop}

theorem storeSel_law (hQ : Law P Q) (hP : Has P [.mem]) {u a : Nat} {l : List (Bool × Byte)} {s : State} (h : Q s) :
    Q (storeSel s u a l) := by
  induction l generalizing a s with
  | nil => exact h
  | cons e l ih =>
    refine ih ?_
    split
    · exact hQ.byte (hP.one _ rfl) h
    · exact h

theorem unpoisonWhole_law (hQ : Law P Q) (hP : Has P [.poison]) {a : Nat} {bs : List (Bool × Byte)} {s : State}   (h0 : Q s) :
    Q (unpoisonWhole a bs s) := by
  unfold unpoisonWhole
  repeat' first
    | with_reducible assumption
    | ((with_reducible refine boolGoal ?_); exact rfl)
    | ((with_reducible refine hP.one _ ?_); exact rfl)
    | ((try lift_lets); (with_reducible intro y); (have hy : Q y := ?_); clear_value y; rotate_left; subst y)
    | ((try lift_lets); (with_reducible intro y); (have hy : Q y.1 := ?_); clear_value y; rotate_left; subst y)
    | ((try lift_lets); (with_reducible intro x); (try clear_value x))
    | dsimp only
    | with_reducible refine hQ.poison ?_ ?_

theorem store_law (hQ : Law P Q) (hP : Has P [.grp 64, .mem, .poison, .procs]) {s : State} {u : Nat} {a : Nat} {align : Nat} {bs : List (Bool × Byte)}   (h0 : Q s) :
    excAll Q (store s u a align bs) := by
  unfold store
  repeat' first
    | with_reducible assumption
    | ((with_reducible refine boolGoal ?_); exact rfl)
    | ((with_reducible refine hP.one _ ?_); exact rfl)
    | with_reducible refine setProc_law hQ (hP.sub rfl) ?_
    | with_reducible refine unpoisonWhole_law hQ (hP.sub rfl) ?_
    | with_reducible refine storeSel_law hQ (hP.sub rfl) ?_
    | with_reducible refine traffic_law hQ (hP.sub rfl) ?_
    | with_reducible refine Law.ite ?_ ?_
    | with_reducible refine excPair ?_
    | with_reducible refine excState ?_
    | with_reducible exact excError
    | with_reducible refine iteExc ?_ ?_
    | ((try lift_lets); (with_reducible intro y); (have hy : Q y := ?_); clear_value y; rotate_left; subst y)
    | ((try lift_lets); (with_reducible intro y); (have hy : Q y.1 := ?_); clear_value y; rotate_left; subst y)
    | ((try lift_lets); (with_reducible intro x); (try clear_value x))
    | split
    | dsimp only

theorem updCmd_law (hQ : Law P Q) (hP : Has P [.seq]) {s : State} {cseq : Nat} {f : Cmd → Cmd}   (h0 : Q s) :
    Q (State.updCmd s cseq f) := by
  unfold State.updCmd
  repeat' first
    | with_reducible assumption
    | ((with_reducible refine boolGoal ?_); exact rfl)
    | ((with_reducible refine hP.one _ ?_); exact rfl)
    | with_reducible refine Law.ite ?_ ?_
    | with_reducible refine optAll.map (fun _ => ?_)
    | ((try lift_lets); (with_reducible intro y); (have hy : Q y := ?_); clear_value y; rotate_left; subst y)
    | ((try lift_lets); (with_reducible intro y); (have hy : Q y.1 := ?_); clear_value y; rotate_left; subst y)
    | ((try lift_lets); (with_reducible intro x); (try clear_value x))
    | split
    | with_reducible refine hQ.seq ?_ ?_

theorem endCommand_law (hQ : Law P Q) (hP : Has P [.seq]) {cseq : Nat} {st : Nat} {idx : Nat} {s : State}   (h0 : Q s) :
    Q (endCommand cseq st idx s) := by
  unfold endCommand
  repeat' first
    | with_reducible assumption
    | ((with_reducible refine boolGoal ?_); exact rfl)
    | ((with_reducible refine hP.one _ ?_); exact rfl)
    | with_reducible refine updCmd_law hQ (hP.sub rfl) ?_
    | ((try lift_lets); (with_reducible intro y); (have hy : Q y := ?_); clear_value y; rotate_left; subst y)
    | ((try lift_lets); (with_reducible intro y); (have hy : Q y.1 := ?_); clear_value y; rotate_left; subst y)
    | ((try lift_lets); (with_reducible intro x); (try clear_value x))
    | with_reducible refine hQ.seq ?_ ?_

theorem seqFault_law (hQ : Law P Q) (hP : Has P [.grp 0, .grp 64, .procs, .seq, .tokens]) {u : Nat} {c : Nat} {s : State}   (h0 : Q s) :
    Q (seqFault u c s) := by
  unfold seqFault
  repeat' first
    | with_reducible assumption
    | ((with_reducible refine boolGoal ?_); exact rfl)
    | ((with_reducible refine hP.one _ ?_); exact rfl)
    | with_reducible refine setProc_law hQ (hP.sub rfl) ?_
    | with_reducible refine endCommand_law hQ (hP.sub rfl) ?_
    | ((with_reducible refine hQ.wrAll hP ?_ ?_); simp only [List.all]; exact rfl)
    | with_reducible refine emit_law hQ (hP.sub rfl) ?_
    | with_reducible refine evt_law hQ (hP.sub rfl) ?_
    | ((try lift_lets); (with_reducible intro y); (have hy : Q y := ?_); clear_value y; rotate_left; subst y)
    | ((try lift_lets); (with_reducible intro y); (have hy : Q y.1 := ?_); clear_value y; rotate_left; subst y)
    | ((try lift_lets); (with_reducible intro x); (try clear_value x))
    | split
    | dsimp only
    | with_reducible refine hQ.seq ?_ ?_

theorem sampleCount_law (hQ : Law P Q) (hP : Has P [.sampled]) {k : Nat} {u : Nat} {p : Proc} {s : State}   (h0 : Q s) :
    Q (sampleCount k u p s) := by
  unfold sampleCount
  repeat' first
    | with_reducible assumption
    | ((with_reducible refine boolGoal ?_); exact rfl)
    | ((with_reducible refine hP.one _ ?_); exact rfl)
    | with_reducible refine Law.ite ?_ ?_
    | ((try lift_lets); (with_reducible intro y); (have hy : Q y := ?_); clear_value y; rotate_left; subst y)
    | ((try lift_lets); (with_reducible intro y); (have hy : Q y.1 := ?_); clear_value y; rotate_left; subst y)
    | ((try lift_lets); (with_reducible intro x); (try clear_value x))
    | split
    | with_reducible refine hQ.sampled ?_ ?_

theorem retire_law (hQ : Law P Q) (hP : Has P [.grp 64, .procs, .sampled]) {u : Nat} {pc : Nat} {s : State}   (h0 : Q s) :
    Q (retire u pc s) := by
  unfold retire
  repeat' first
    | with_reducible assumption
    | ((with_reducible refine boolGoal ?_); exact rfl)
    | ((with_reducible refine hP.one _ ?_); exact rfl)
    | with_reducible refine setProc_law hQ (hP.sub rfl) ?_
    | with_reducible refine sampleCount_law hQ (hP.sub rfl) ?_
    | with_reducible refine evt_law hQ (hP.sub rfl) ?_
    | with_reducible refine Law.ite ?_ ?_
    | ((try lift_lets); (with_reducible intro y); (have hy : Q y := ?_); clear_value y; rotate_left; subst y)
    | ((try lift_lets); (with_reducible intro y); (have hy : Q y.1 := ?_); clear_value y; rotate_left; subst y)
    | ((try lift_lets); (with_reducible intro x); (try clear_value x))
    | split

end Sys2Proof.Machine
end

