-- ==== Sys2Proof/Laws/Xops.lean ====
section
/-!
SUPPORT. What each function of Machine/Xops.lean can change: every law of the parts it names survives it.
-/
namespace Sys2Proof.Machine

variable {P : Part → Prop} {Q : State → Prop}

theorem mirror_law (hQ : Law P Q) (hP : Has P [.seq]) {i : Nat} {st : Nat} {s : State}   (h0 : Q s) :
    Q (mirror i st s) := by
  unfold mirror
  repeat' first
    | with_reducible assumption
    | ((with_reducible refine boolGoal ?_); exact rfl)
    | ((with_reducible refine hP.one _ ?_); exact rfl)
    | with_reducible refine updCmd_law hQ (hP.sub rfl) ?_
    | with_reducible refine Law.ite ?_ ?_
    | ((try lift_lets); (with_reducible intro y); (have hy : Q y := ?_); clear_value y; rotate_left; subst y)
    | ((try lift_lets); (with_reducible intro y); (have hy : Q y.1 := ?_); clear_value y; rotate_left; subst y)
    | ((try lift_lets); (with_reducible intro x); (try clear_value x))
    | split
    | dsimp only
    | with_reducible refine hQ.seq ?_ ?_

theorem xDone_law (hQ : Law P Q) (hP : Has P [.grp 64, .procs, .sampled, .seq]) {st : Nat} {s : State}   (h0 : Q s) :
    Q (xDone st s) := by
  unfold xDone
  repeat' first
    | with_reducible assumption
    | ((with_reducible refine boolGoal ?_); exact rfl)
    | ((with_reducible refine hP.one _ ?_); exact rfl)
    | with_reducible refine mirror_law hQ (hP.sub rfl) ?_
    | with_reducible refine retire_law hQ (hP.sub rfl) ?_
    | with_reducible refine endCommand_law hQ (hP.sub rfl) ?_
    | with_reducible refine Law.ite ?_ ?_
    | ((try lift_lets); (with_reducible intro y); (have hy : Q y := ?_); clear_value y; rotate_left; subst y)
    | ((try lift_lets); (with_reducible intro y); (have hy : Q y.1 := ?_); clear_value y; rotate_left; subst y)
    | ((try lift_lets); (with_reducible intro x); (try clear_value x))
    | split
    | dsimp only
    | with_reducible refine hQ.seq ?_ ?_

theorem xop_law (hQ : Law P Q) (hP : Has P [.grp 0, .grp 64, .procs, .sampled, .seq, .tokens]) {unit op : Nat} {x : XWord} {body : XArgs → State → XRes} {s : State}
    (hb : Q s → resAll Q (body (xargs s x) s)) (h : Q s) : outAll Q (xop unit op x body s) := by
  unfold xop
  split
  · exact h
  split
  · exact seqFault_law hQ (hP.sub rfl) h
  · exact xDone_law hQ (hP.sub rfl) (hQ.sat hP rfl h)
  · have hc := hb h
    try dsimp only
    split
    · next heq => rw [heq] at hc; exact xDone_law hQ (hP.sub rfl) hc
    · next heq => rw [heq] at hc; exact xDone_law hQ (hP.sub rfl) (hQ.seq (hP.one _ rfl) hc)
    · next heq => rw [heq] at hc; exact hQ.seq (hP.one _ rfl) hc
    · next heq => rw [heq] at hc; exact hc
    · next heq => rw [heq] at hc; exact hQ.seq (hP.one _ rfl) hc

theorem complete_law (hQ : Law P Q) (hP : Has P [.seq]) {s : State} {unit : Nat} {op : Nat} {inst : Nat} {st : Nat}   (h0 : Q s) :
    Q (State.complete s unit op inst st) := by
  unfold State.complete
  repeat' first
    | with_reducible assumption
    | ((with_reducible refine boolGoal ?_); exact rfl)
    | ((with_reducible refine hP.one _ ?_); exact rfl)
    | ((try lift_lets); (with_reducible intro y); (have hy : Q y := ?_); clear_value y; rotate_left; subst y)
    | ((try lift_lets); (with_reducible intro y); (have hy : Q y.1 := ?_); clear_value y; rotate_left; subst y)
    | ((try lift_lets); (with_reducible intro x); (try clear_value x))
    | with_reducible refine hQ.seq ?_ ?_

theorem completeAll_law (hQ : Law P Q) (hP : Has P [.seq]) {s : State} {unit : Nat} {op : Nat} {inst : Nat} {st : Nat}   (h0 : Q s) :
    Q (State.completeAll s unit op inst st) := by
  unfold State.completeAll
  repeat' first
    | with_reducible assumption
    | ((with_reducible refine boolGoal ?_); exact rfl)
    | ((with_reducible refine hP.one _ ?_); exact rfl)
    | with_reducible refine Law.ite ?_ ?_
    | with_reducible refine optAll.map (fun _ => ?_)
    | ((try lift_lets); (with_reducible intro y); (have hy : Q y := ?_); clear_value y; rotate_left; subst y)
    | ((try lift_lets); (with_reducible intro y); (have hy : Q y.1 := ?_); clear_value y; rotate_left; subst y)
    | ((try lift_lets); (with_reducible intro x); (try clear_value x))
    | split
    | with_reducible refine hQ.seq ?_ ?_

theorem direct_law (hQ : Law P Q) (hP : Has P [.grp 0, .grp 64, .procs, .sampled, .seq, .tokens]) {unit op n : Nat} {x : XWord} {f : XArgs → State → Except Nat State}
    {s : State} (hf : Q s → excAll Q (f (xargs s x) s)) (h : Q s) : outAll Q (direct unit op n x f s) := by
  unfold direct
  refine xop_law hQ (hP.sub rfl) (fun h => ?_) h
  split
  · exact h
  · have hc := hf h
    split
    · exact h
    · next heq => rw [heq] at hc; exact hc

theorem blockOpAt_law (hQ : Law P Q) (hP : Has P [.grp 0, .grp 64, .procs, .sampled, .seq, .tokens]) {B : List Part} (hB : Has P B) {x : XWord} {s : State} {k : Arr}
    (hi : P (.one k (xargs s x).i)) {unit op n : Nat} {base len : Nat} {fields : List Field} {refuse : XArgs → State → Option Nat}
    {check : (Field → Nat) → XArgs → State → Bool} {after : Nat → State → State → State}
    (hf : (fields.all fun f => f.okAt B k) = true) (ha : ∀ t, Q t → Q (after (xargs s x).i s t)) (h : Q s) :
    outAll Q (blockOp unit op n x base len fields refuse check after s) := by
  unfold blockOp
  refine direct_law hQ (hP.sub rfl) (fun h => ?_) h
  try dsimp only
  split
  · trivial
  split
  · trivial
  · exact ha _ (hQ.blockWriteAt hB hi hf h)

theorem blockOp_law (hQ : Law P Q) (hP : Has P [.grp 0, .grp 64, .procs, .sampled, .seq, .tokens]) {B : List Part} (hB : Has P B) {unit op n : Nat} {x : XWord}
    {base len : Nat} {fields : List Field} {refuse : XArgs → State → Option Nat} {check : (Field → Nat) → XArgs → State → Bool}
    {after : Nat → State → State → State} {s : State} (hf : (fields.all fun f => f.okIn B) = true)
    (ha : ∀ t, Q t → Q (after (xargs s x).i s t)) (h : Q s) : outAll Q (blockOp unit op n x base len fields refuse check after s) := by
  unfold blockOp
  refine direct_law hQ (hP.sub rfl) (fun h => ?_) h
  try dsimp only
  split
  · trivial
  split
  · trivial
  · exact ha _ (hQ.blockWrite hB hf h)

end Sys2Proof.Machine
end

