-- ==== Sys2Proof/Laws/Dma.lean ====
section
/-!
SUPPORT. What each function of Machine/Dma.lean can change: every law of the parts it names survives it.
-/
namespace Sys2Proof.Machine

variable {P : Part → Prop} {Q : State → Prop}

theorem dmaQueue_law (hQ : Law P Q) (hP : Has P [.grp 0, .grp 64, .dma, .procs, .sampled, .seq, .tokens]) {op : Nat} {x : XWord} {s : State} (hi0 : P (.one .dma (xargs s x).i))  (h0 : Q s) :
    outAll Q (dmaQueue op x s) := by
  unfold dmaQueue
  repeat' first
    | with_reducible assumption
    | ((with_reducible refine boolGoal ?_); exact rfl)
    | ((with_reducible refine hP.one _ ?_); exact rfl)
    | with_reducible refine xop_law hQ (hP.sub rfl) (fun _ => ?_) ?_
    | with_reducible refine setDma_law hQ (hP.sub rfl) ?_ ?_
    | with_reducible refine Law.ite ?_ ?_
    | with_reducible refine resFin ?_
    | with_reducible refine resNo ?_
    | with_reducible refine resStart ?_
    | with_reducible refine resForm ?_
    | with_reducible refine resGone ?_
    | with_reducible refine resHold ?_
    | with_reducible refine iteRes ?_ ?_
    | with_reducible refine outOk ?_
    | with_reducible exact outFault
    | with_reducible refine outWithin ?_
    | with_reducible refine iteOut ?_ ?_
    | ((try lift_lets); (with_reducible intro y); (have hy : Q y := ?_); clear_value y; rotate_left; subst y)
    | ((try lift_lets); (with_reducible intro y); (have hy : Q y.1 := ?_); clear_value y; rotate_left; subst y)
    | ((try lift_lets); (with_reducible intro x); (try clear_value x))
    | split

theorem execDmaLinear_law (hQ : Law P Q) (hP : Has P [.all .dma, .grp 0, .grp 64, .dma, .procs, .sampled, .seq, .tokens]) {x : XWord} {s : State}   (h0 : Q s) :
    outAll Q (execDmaLinear x s) := by
  unfold execDmaLinear
  repeat' first
    | with_reducible assumption
    | ((with_reducible refine boolGoal ?_); exact rfl)
    | ((with_reducible refine hP.inst ?_); exact rfl)
    | ((with_reducible refine hP.one _ ?_); exact rfl)
    | with_reducible refine dmaQueue_law hQ (hP.sub rfl) ?_ ?_
    | with_reducible refine outOk ?_
    | with_reducible exact outFault
    | with_reducible refine outWithin ?_
    | with_reducible refine iteOut ?_ ?_

theorem execDmaRect_law (hQ : Law P Q) (hP : Has P [.all .dma, .grp 0, .grp 64, .dma, .procs, .sampled, .seq, .tokens]) {x : XWord} {s : State}   (h0 : Q s) :
    outAll Q (execDmaRect x s) := by
  unfold execDmaRect
  repeat' first
    | with_reducible assumption
    | ((with_reducible refine boolGoal ?_); exact rfl)
    | ((with_reducible refine hP.inst ?_); exact rfl)
    | ((with_reducible refine hP.one _ ?_); exact rfl)
    | with_reducible refine dmaQueue_law hQ (hP.sub rfl) ?_ ?_
    | with_reducible refine outOk ?_
    | with_reducible exact outFault
    | with_reducible refine outWithin ?_
    | with_reducible refine iteOut ?_ ?_

theorem execDmaGather_law (hQ : Law P Q) (hP : Has P [.all .dma, .grp 0, .grp 64, .dma, .procs, .sampled, .seq, .tokens]) {x : XWord} {s : State}   (h0 : Q s) :
    outAll Q (execDmaGather x s) := by
  unfold execDmaGather
  repeat' first
    | with_reducible assumption
    | ((with_reducible refine boolGoal ?_); exact rfl)
    | ((with_reducible refine hP.inst ?_); exact rfl)
    | ((with_reducible refine hP.one _ ?_); exact rfl)
    | with_reducible refine dmaQueue_law hQ (hP.sub rfl) ?_ ?_
    | with_reducible refine outOk ?_
    | with_reducible exact outFault
    | with_reducible refine outWithin ?_
    | with_reducible refine iteOut ?_ ?_

theorem execDmaFill_law (hQ : Law P Q) (hP : Has P [.all .dma, .grp 0, .grp 64, .dma, .procs, .sampled, .seq, .tokens]) {x : XWord} {s : State}   (h0 : Q s) :
    outAll Q (execDmaFill x s) := by
  unfold execDmaFill
  repeat' first
    | with_reducible assumption
    | ((with_reducible refine boolGoal ?_); exact rfl)
    | ((with_reducible refine hP.inst ?_); exact rfl)
    | ((with_reducible refine hP.one _ ?_); exact rfl)
    | with_reducible refine dmaQueue_law hQ (hP.sub rfl) ?_ ?_
    | with_reducible refine outOk ?_
    | with_reducible exact outFault
    | with_reducible refine outWithin ?_
    | with_reducible refine iteOut ?_ ?_

theorem execDmaCompare_law (hQ : Law P Q) (hP : Has P [.all .dma, .grp 0, .grp 64, .dma, .procs, .sampled, .seq, .tokens]) {x : XWord} {s : State}   (h0 : Q s) :
    outAll Q (execDmaCompare x s) := by
  unfold execDmaCompare
  repeat' first
    | with_reducible assumption
    | ((with_reducible refine boolGoal ?_); exact rfl)
    | ((with_reducible refine hP.inst ?_); exact rfl)
    | ((with_reducible refine hP.one _ ?_); exact rfl)
    | with_reducible refine dmaQueue_law hQ (hP.sub rfl) ?_ ?_
    | with_reducible refine outOk ?_
    | with_reducible exact outFault
    | with_reducible refine outWithin ?_
    | with_reducible refine iteOut ?_ ?_

theorem execDmaFence_law (hQ : Law P Q) (hP : Has P [.all .dma, .grp 0, .grp 64, .dma, .procs, .sampled, .seq, .tokens]) {x : XWord} {s : State}   (h0 : Q s) :
    outAll Q (execDmaFence x s) := by
  unfold execDmaFence
  repeat' first
    | with_reducible assumption
    | ((with_reducible refine boolGoal ?_); exact rfl)
    | ((with_reducible refine hP.inst ?_); exact rfl)
    | ((with_reducible refine hP.one _ ?_); exact rfl)
    | with_reducible refine dmaQueue_law hQ (hP.sub rfl) ?_ ?_
    | with_reducible refine outOk ?_
    | with_reducible exact outFault
    | with_reducible refine outWithin ?_
    | with_reducible refine iteOut ?_ ?_

theorem dmaEnd_law (hQ : Law P Q) (hP : Has P [.seq]) {c : Nat} {o : DmaOp} {st : Nat} {s : State}   (h0 : Q s) :
    Q (dmaEnd c o st s) := by
  unfold dmaEnd
  repeat' first
    | with_reducible assumption
    | ((with_reducible refine boolGoal ?_); exact rfl)
    | ((with_reducible refine hP.one _ ?_); exact rfl)
    | with_reducible refine Law.ite ?_ ?_
    | ((try lift_lets); (with_reducible intro y); (have hy : Q y := ?_); clear_value y; rotate_left; subst y)
    | ((try lift_lets); (with_reducible intro y); (have hy : Q y.1 := ?_); clear_value y; rotate_left; subst y)
    | ((try lift_lets); (with_reducible intro x); (try clear_value x))
    | split
    | with_reducible refine hQ.seq ?_ ?_

theorem execDmaDescriptorStart_law (hQ : Law P Q) (hP : Has P [.dma, .seq]) {c : Nat} {s : State} (hi0 : P (.one .dma c))  (h0 : Q s) :
    outAll Q (execDmaDescriptorStart c s) := by
  unfold execDmaDescriptorStart
  repeat' first
    | with_reducible assumption
    | ((with_reducible refine boolGoal ?_); exact rfl)
    | ((with_reducible refine hP.one _ ?_); exact rfl)
    | with_reducible refine setDma_law hQ (hP.sub rfl) ?_ ?_
    | with_reducible refine dmaEnd_law hQ (hP.sub rfl) ?_
    | ((with_reducible refine hQ.wrAllAt hP hi0 ?_ ?_); simp only [List.all]; exact rfl)
    | ((with_reducible refine hQ.wrAll hP ?_ ?_); simp only [List.all]; exact rfl)
    | with_reducible refine Law.ite ?_ ?_
    | with_reducible refine outOk ?_
    | with_reducible exact outFault
    | with_reducible refine outWithin ?_
    | with_reducible refine iteOut ?_ ?_
    | ((try lift_lets); (with_reducible intro y); (have hy : Q y := ?_); clear_value y; rotate_left; subst y)
    | ((try lift_lets); (with_reducible intro y); (have hy : Q y.1 := ?_); clear_value y; rotate_left; subst y)
    | ((try lift_lets); (with_reducible intro x); (try clear_value x))
    | split
    | dsimp only

theorem dmaWord_law (hQ : Law P Q) (hP : Has P [.mem, .poison]) {o : DmaOp} {src dst : Nat} {m : Moved} (h : Q m.s) :
    Q (dmaWord o src dst m).s := by
  unfold dmaWord
  split
  · exact h
  split
  · exact h
  split
  · exact h
  · exact write64_law hQ (hP.sub rfl) h

theorem dmaRow_law (hQ : Law P Q) (hP : Has P [.grp 64, .mem, .poison]) {o : DmaOp} {limit k : Nat} {m : Moved} (h : Q m.s) :
    Q (dmaRow o limit k m).s := by
  unfold dmaRow
  split
  · exact h
  dsimp only
  split
  · exact h
  split
  · exact h
  split
  · exact h
  have hm : Q ((List.range (min o.size (limit - m.done) / 8)).foldl
      (fun n i => dmaWord o (o.from_ m.s k + 8 * i) (o.to k + 8 * i) n) m).s :=
    Law.foldlBy Moved.s (fun _ _ h => dmaWord_law hQ (hP.sub rfl) h) h
  revert hm
  generalize (List.range (min o.size (limit - m.done) / 8)).foldl
    (fun n i => dmaWord o (o.from_ m.s k + 8 * i) (o.to k + 8 * i) n) m = r
  intro hm
  have hu : Q (if o.op = 5 then r.s else unpoison (o.to k) (min o.size (limit - m.done)) r.s) := by
    split
    · exact hm
    · exact unpoison_law hQ (hP.sub rfl) hm
  have hs : ∀ x, Q x → Q (if o.op = 4 then x else x.traffic false (o.from_ m.s k) (min o.size (limit - m.done))) := by
    intro x hx
    split
    · exact hx
    · exact traffic_law hQ (hP.sub rfl) hx
  refine Law.ite (hs _ hu) (traffic_law hQ (hP.sub rfl) (hs _ hu))

theorem dmaMove_law (hQ : Law P Q) (hP : Has P [.grp 64, .mem, .poison]) {o : DmaOp} {limit : Nat} {s : State} (h : Q s) :
    Q (dmaMove o limit s).s :=
  Law.foldlBy Moved.s (m := { s := s }) (fun _ _ h => dmaRow_law hQ (hP.sub rfl) h) h

theorem dmaHalf_law (hQ : Law P Q) (hP : Has P [.tokens]) {c : Nat} {total : Nat} {s : State} (hi0 : P (.one .dma c))  (h0 : Q s) :
    Q (dmaHalf c total s) := by
  unfold dmaHalf
  repeat' first
    | with_reducible assumption
    | ((with_reducible refine boolGoal ?_); exact rfl)
    | ((with_reducible refine hP.one _ ?_); exact rfl)
    | ((with_reducible refine hQ.wrAt hP hi0 ?_ ?_); exact rfl)
    | with_reducible refine hQ.wr hP ?_ ?_
    | with_reducible refine emit_law hQ (hP.sub rfl) ?_
    | with_reducible refine Law.ite ?_ ?_
    | split

theorem dmaFinish_law (hQ : Law P Q) (hP : Has P [.grp 64, .dma, .mem, .poison, .seq, .tokens]) {c : Nat} {o : DmaOp} {m : Moved} {result : Nat} {s : State} (hi0 : P (.one .dma c))  (h0 : Q s) :
    Q (dmaFinish c o m result s) := by
  unfold dmaFinish
  repeat' first
    | with_reducible assumption
    | ((with_reducible refine boolGoal ?_); exact rfl)
    | ((with_reducible refine hP.one _ ?_); exact rfl)
    | with_reducible refine hQ.writeWords ?_ ?_ ?_
    | ((with_reducible refine hQ.wrAllAt hP hi0 ?_ ?_); simp only [List.all]; exact rfl)
    | ((with_reducible refine hQ.wrAll hP ?_ ?_); simp only [List.all]; exact rfl)
    | ((with_reducible refine hQ.wrAt hP hi0 ?_ ?_); exact rfl)
    | with_reducible refine hQ.wr hP ?_ ?_
    | ((with_reducible refine hQ.wrapAt hP hi0 ?_ ?_); exact rfl)
    | with_reducible refine hQ.wrap hP ?_ ?_
    | ((with_reducible refine hQ.satAt hP hi0 ?_ ?_); exact rfl)
    | with_reducible refine hQ.sat hP ?_ ?_
    | with_reducible refine evt_law hQ (hP.sub rfl) ?_
    | with_reducible refine dmaEnd_law hQ (hP.sub rfl) ?_
    | with_reducible refine dmaHalf_law hQ (hP.sub rfl) ?_ ?_
    | with_reducible refine setDma_law hQ (hP.sub rfl) ?_ ?_
    | with_reducible refine emit_law hQ (hP.sub rfl) ?_
    | with_reducible refine Law.ite ?_ ?_
    | ((try lift_lets); (with_reducible intro y); (have hy : Q y := ?_); clear_value y; rotate_left; subst y)
    | ((try lift_lets); (with_reducible intro y); (have hy : Q y.1 := ?_); clear_value y; rotate_left; subst y)
    | ((try lift_lets); (with_reducible intro x); (try clear_value x))
    | split

theorem execDmaDescriptorComplete_law (hQ : Law P Q) (hP : Has P [.all .dmc, .grp 64, .dma, .dmc, .mem, .poison, .seq, .tokens]) {c : Nat} {stop : Option (Nat × Nat)} {s : State} (hi0 : P (.one .dma c))  (h0 : Q s) :
    outAll Q (execDmaDescriptorComplete c stop s) := by
  unfold execDmaDescriptorComplete
  repeat' first
    | with_reducible assumption
    | ((with_reducible refine boolGoal ?_); exact rfl)
    | ((with_reducible refine hP.inst ?_); exact rfl)
    | ((with_reducible refine hP.one _ ?_); exact rfl)
    | with_reducible refine dmaMove_law hQ (hP.sub rfl) ?_
    | with_reducible refine eccError_law hQ (hP.sub rfl) ?_
    | with_reducible refine dmaFinish_law hQ (hP.sub rfl) ?_ ?_
    | with_reducible refine Law.ite ?_ ?_
    | with_reducible refine outOk ?_
    | with_reducible exact outFault
    | with_reducible refine outWithin ?_
    | with_reducible refine iteOut ?_ ?_
    | with_reducible refine optAll.getD ?_ ?_
    | ((try lift_lets); (with_reducible intro y); (have hy : Q y := ?_); clear_value y; rotate_left; subst y)
    | ((try lift_lets); (with_reducible intro y); (have hy : Q y.2 := ?_); clear_value y; rotate_left; subst y)
    | ((try lift_lets); (with_reducible intro y); (have hy : Q y.1 := ?_); clear_value y; rotate_left; subst y)
    | ((try lift_lets); (with_reducible intro x); (try clear_value x))
    | split
    | dsimp only

theorem execDmaTimeout_law (hQ : Law P Q) (hP : Has P [.grp 9, .grp 64, .dma, .free, .mem, .poison, .seq, .sump, .tokens]) {c : Nat} {n : Nat} {s : State} (hi0 : P (.one .dma c))  (h0 : Q s) :
    outAll Q (execDmaTimeout c n s) := by
  unfold execDmaTimeout
  repeat' first
    | with_reducible assumption
    | ((with_reducible refine boolGoal ?_); exact rfl)
    | ((with_reducible refine hP.one _ ?_); exact rfl)
    | with_reducible refine dmaMove_law hQ (hP.sub rfl) ?_
    | with_reducible refine dmaFinish_law hQ (hP.sub rfl) ?_ ?_
    | with_reducible refine fresh_law hQ (hP.sub rfl) ?_
    | ((with_reducible refine hQ.satAt hP hi0 ?_ ?_); exact rfl)
    | with_reducible refine hQ.sat hP ?_ ?_
    | with_reducible refine note_law hQ (hP.sub rfl) ?_
    | with_reducible refine Law.ite ?_ ?_
    | with_reducible refine outOk ?_
    | with_reducible exact outFault
    | with_reducible refine outWithin ?_
    | with_reducible refine iteOut ?_ ?_
    | with_reducible refine optAll.getD ?_ ?_
    | ((try lift_lets); (with_reducible intro y); (have hy : Q y := ?_); clear_value y; rotate_left; subst y)
    | ((try lift_lets); (with_reducible intro y); (have hy : Q y.2 := ?_); clear_value y; rotate_left; subst y)
    | ((try lift_lets); (with_reducible intro y); (have hy : Q y.1 := ?_); clear_value y; rotate_left; subst y)
    | ((try lift_lets); (with_reducible intro x); (try clear_value x))
    | split
    | dsimp only

theorem execDmaFenceComplete_law (hQ : Law P Q) (hP : Has P [.dma, .seq]) {c : Nat} {s : State} (hi0 : P (.one .dma c))  (h0 : Q s) :
    outAll Q (execDmaFenceComplete c s) := by
  unfold execDmaFenceComplete
  repeat' first
    | with_reducible assumption
    | ((with_reducible refine boolGoal ?_); exact rfl)
    | ((with_reducible refine hP.one _ ?_); exact rfl)
    | with_reducible refine dmaEnd_law hQ (hP.sub rfl) ?_
    | with_reducible refine setDma_law hQ (hP.sub rfl) ?_ ?_
    | with_reducible refine Law.ite ?_ ?_
    | with_reducible refine outOk ?_
    | with_reducible exact outFault
    | with_reducible refine outWithin ?_
    | with_reducible refine iteOut ?_ ?_
    | ((try lift_lets); (with_reducible intro y); (have hy : Q y := ?_); clear_value y; rotate_left; subst y)
    | ((try lift_lets); (with_reducible intro y); (have hy : Q y.1 := ?_); clear_value y; rotate_left; subst y)
    | ((try lift_lets); (with_reducible intro x); (try clear_value x))
    | split
    | dsimp only

theorem dmaCntOne_law (hQ : Law P Q) (hP : Has P []) {c : Nat} {s : State} (hi0 : P (.one .dma c))  (h0 : Q s) :
    Q (dmaCntOne c s) := by
  unfold dmaCntOne
  repeat' first
    | with_reducible assumption
    | ((with_reducible refine boolGoal ?_); exact rfl)
    | ((with_reducible refine hP.one _ ?_); exact rfl)
    | ((with_reducible refine hQ.clrAt hP hi0 ?_ ?_); simp only [List.all]; exact rfl)
    | ((with_reducible refine hQ.clr hP ?_ ?_); simp only [List.all]; exact rfl)

theorem dmaEvOne_law (hQ : Law P Q) (hP : Has P []) {arg : Nat} {c : Nat} {s : State} (hi0 : P (.one .dma c))  (h0 : Q s) :
    Q (dmaEvOne arg c s) := by
  unfold dmaEvOne
  repeat' first
    | with_reducible assumption
    | ((with_reducible refine boolGoal ?_); exact rfl)
    | ((with_reducible refine hP.one _ ?_); exact rfl)
    | ((with_reducible refine hQ.wrAt hP hi0 ?_ ?_); exact rfl)
    | with_reducible refine hQ.wr hP ?_ ?_
    | with_reducible refine Law.ite ?_ ?_
    | ((try lift_lets); (with_reducible intro y); (have hy : Q y := ?_); clear_value y; rotate_left; subst y)
    | ((try lift_lets); (with_reducible intro x); (try clear_value x))
    | split

end Sys2Proof.Machine
end

