-- ==== Sys2Proof/Laws/Banks.lean ====
section
/-!
SUPPORT. What each function of Machine/Banks.lean can change: every law of the parts it names survives it.
-/
namespace Sys2Proof.Machine

variable {P : Part → Prop} {Q : State → Prop}

theorem execMemMode_law (hQ : Law P Q) (hP : Has P [.grp 0, .grp 64, .procs, .sampled, .seq, .tokens]) {x : XWord} {s : State} (hi0 : P (.one .bank (xargs s x).i))  (h0 : Q s) :
    outAll Q (execMemMode x s) := by
  unfold execMemMode
  repeat' first
    | with_reducible assumption
    | ((with_reducible refine boolGoal ?_); exact rfl)
    | ((with_reducible refine hP.one _ ?_); exact rfl)
    | with_reducible refine direct_law hQ (hP.sub rfl) (fun _ => ?_) ?_
    | ((with_reducible refine hQ.wrAt hP hi0 ?_ ?_); exact rfl)
    | with_reducible refine hQ.wr hP ?_ ?_
    | with_reducible refine excPair ?_
    | with_reducible refine excState ?_
    | with_reducible exact excError
    | with_reducible refine iteExc ?_ ?_
    | with_reducible refine outOk ?_
    | with_reducible exact outFault
    | with_reducible refine outWithin ?_
    | with_reducible refine iteOut ?_ ?_
    | ((try lift_lets); (with_reducible intro x); (try clear_value x))

theorem execMemPower_law (hQ : Law P Q) (hP : Has P [.grp 0, .grp 64, .free, .mem, .procs, .sampled, .seq, .tokens]) {x : XWord} {s : State} (hi0 : P (.one .bank (xargs s x).i))  (h0 : Q s) :
    outAll Q (execMemPower x s) := by
  unfold execMemPower
  repeat' first
    | with_reducible assumption
    | ((with_reducible refine boolGoal ?_); exact rfl)
    | ((with_reducible refine hP.one _ ?_); exact rfl)
    | with_reducible refine direct_law hQ (hP.sub rfl) (fun _ => ?_) ?_
    | ((with_reducible refine hQ.wrAllAt hP hi0 ?_ ?_); simp only [List.all]; exact rfl)
    | ((with_reducible refine hQ.wrAll hP ?_ ?_); simp only [List.all]; exact rfl)
    | with_reducible refine scramble_law hQ (hP.sub rfl) ?_
    | with_reducible refine Law.ite ?_ ?_
    | with_reducible refine excPair ?_
    | with_reducible refine excState ?_
    | with_reducible exact excError
    | with_reducible refine iteExc ?_ ?_
    | with_reducible refine outOk ?_
    | with_reducible exact outFault
    | with_reducible refine outWithin ?_
    | with_reducible refine iteOut ?_ ?_
    | ((try lift_lets); (with_reducible intro y); (have hy : Q y := ?_); clear_value y; rotate_left; subst y)
    | ((try lift_lets); (with_reducible intro x); (try clear_value x))
    | split

theorem execMemRowstore_law (hQ : Law P Q) (hP : Has P [.all .bank, .grp 0, .grp 15, .grp 64, .procs, .sampled, .seq, .tokens]) {x : XWord} {s : State}   (h0 : Q s) :
    outAll Q (execMemRowstore x s) := by
  unfold execMemRowstore
  repeat' first
    | with_reducible assumption
    | ((with_reducible refine boolGoal ?_); exact rfl)
    | ((with_reducible refine hP.inst ?_); exact rfl)
    | ((with_reducible refine hP.one _ ?_); exact rfl)
    | with_reducible refine xop_law hQ (hP.sub rfl) (fun _ => ?_) ?_
    | with_reducible refine hQ.wr hP ?_ ?_
    | with_reducible refine Law.ite ?_ ?_
    | with_reducible refine resFin ?_
    | with_reducible refine resNo ?_
    | with_reducible refine resStart ?_
    | with_reducible refine resForm ?_
    | with_reducible refine resGone ?_
    | with_reducible refine resHold ?_
    | with_reducible refine iteRes ?_ ?_
    | with_reducible refine outOk ?_
    | with_reducible exact outFault
    | with_reducible refine outWithin ?_
    | with_reducible refine iteOut ?_ ?_
    | with_reducible refine Law.foldl (fun _ _ _ => ?_) ?_
    | with_reducible refine Law.foldlBy Prod.snd (fun _ _ _ => ?_) ?_
    | with_reducible refine Law.foldlBy Prod.fst (fun _ _ _ => ?_) ?_
    | ((try lift_lets); (with_reducible intro y); (have hy : Q y := ?_); clear_value y; rotate_left; subst y)
    | ((try lift_lets); (with_reducible intro x); (try clear_value x))
    | split

theorem execBankBusyRetry_law (hQ : Law P Q) (hP : Has P [.grp 64]) {r : Nat} {n : Nat} {s : State} (hi0 : P (.one .requester r))  (h0 : Q s) :
    outAll Q (execBankBusyRetry r n s) := by
  unfold execBankBusyRetry
  repeat' first
    | with_reducible assumption
    | ((with_reducible refine boolGoal ?_); exact rfl)
    | ((with_reducible refine hP.one _ ?_); exact rfl)
    | ((with_reducible refine hQ.satAt hP hi0 ?_ ?_); exact rfl)
    | with_reducible refine hQ.sat hP ?_ ?_
    | with_reducible refine evt_law hQ (hP.sub rfl) ?_
    | with_reducible refine Law.ite ?_ ?_
    | with_reducible refine outOk ?_
    | with_reducible exact outFault
    | with_reducible refine outWithin ?_
    | with_reducible refine iteOut ?_ ?_
    | ((try lift_lets); (with_reducible intro y); (have hy : Q y := ?_); clear_value y; rotate_left; subst y)
    | ((try lift_lets); (with_reducible intro y); (have hy : Q y.1 := ?_); clear_value y; rotate_left; subst y)
    | ((try lift_lets); (with_reducible intro x); (try clear_value x))
    | split

theorem memCntOne_law (hQ : Law P Q) (hP : Has P []) {r : Nat} {s : State} (hi0 : P (.one .requester r))  (h0 : Q s) :
    Q (memCntOne r s) := by
  unfold memCntOne
  repeat' first
    | with_reducible assumption
    | ((with_reducible refine boolGoal ?_); exact rfl)
    | ((with_reducible refine hP.one _ ?_); exact rfl)
    | ((with_reducible refine hQ.clrAt hP hi0 ?_ ?_); simp only [List.all]; exact rfl)
    | ((with_reducible refine hQ.clr hP ?_ ?_); simp only [List.all]; exact rfl)

theorem execDmcCfg_law (hQ : Law P Q) (hP : Has P [.all .dmc, .grp 0, .grp 64, .procs, .sampled, .seq, .tokens]) {x : XWord} {s : State}   (h0 : Q s) :
    outAll Q (execDmcCfg x s) := by
  unfold execDmcCfg
  repeat' first
    | with_reducible assumption
    | ((with_reducible refine boolGoal ?_); exact rfl)
    | ((with_reducible refine hP.inst ?_); exact rfl)
    | ((with_reducible refine hP.one _ ?_); exact rfl)
    | ((with_reducible refine blockOp_law hQ (hP.sub rfl) hP ?_ (fun _ _ => ?_) ?_); (simp only [List.all, dmcFields]; exact rfl))
    | with_reducible refine Law.ite ?_ ?_
    | with_reducible refine excPair ?_
    | with_reducible refine excState ?_
    | with_reducible exact excError
    | with_reducible refine iteExc ?_ ?_
    | with_reducible refine outOk ?_
    | with_reducible exact outFault
    | with_reducible refine outWithin ?_
    | with_reducible refine iteOut ?_ ?_
    | ((try lift_lets); (with_reducible intro x); (try clear_value x))
    | split

theorem execDmcTrain_law (hQ : Law P Q) (hP : Has P [.grp 0, .grp 21, .grp 64, .damper, .procs, .sampled, .seq, .tokens]) {x : XWord} {s : State} (hi0 : P (.one .dmc (xargs s x).i))  (h0 : Q s) :
    outAll Q (execDmcTrain x s) := by
  unfold execDmcTrain
  repeat' first
    | with_reducible assumption
    | ((with_reducible refine boolGoal ?_); exact rfl)
    | ((with_reducible refine hP.one _ ?_); exact rfl)
    | with_reducible refine xop_law hQ (hP.sub rfl) (fun _ => ?_) ?_
    | ((with_reducible refine hQ.wrAt hP hi0 ?_ ?_); exact rfl)
    | with_reducible refine hQ.wr hP ?_ ?_
    | with_reducible refine request_law hQ (hP.sub rfl) ?_
    | with_reducible refine Law.ite ?_ ?_
    | with_reducible refine resFin ?_
    | with_reducible refine resNo ?_
    | with_reducible refine resStart ?_
    | with_reducible refine resForm ?_
    | with_reducible refine resGone ?_
    | with_reducible refine resHold ?_
    | with_reducible refine iteRes ?_ ?_
    | with_reducible refine outOk ?_
    | with_reducible exact outFault
    | with_reducible refine outWithin ?_
    | with_reducible refine iteOut ?_ ?_
    | ((try lift_lets); (with_reducible intro x); (try clear_value x))
    | split

theorem execDramTrainingStart_law (hQ : Law P Q) (hP : Has P [.dmc]) {c : Nat} {s : State}   (h0 : Q s) :
    outAll Q (execDramTrainingStart c s) := by
  unfold execDramTrainingStart
  repeat' first
    | with_reducible assumption
    | ((with_reducible refine boolGoal ?_); exact rfl)
    | ((with_reducible refine hP.one _ ?_); exact rfl)
    | with_reducible refine setDram_law hQ (hP.sub rfl) ?_
    | with_reducible refine Law.ite ?_ ?_
    | with_reducible refine outOk ?_
    | with_reducible exact outFault
    | with_reducible refine outWithin ?_
    | with_reducible refine iteOut ?_ ?_
    | ((try lift_lets); (with_reducible intro y); (have hy : Q y := ?_); clear_value y; rotate_left; subst y)
    | ((try lift_lets); (with_reducible intro y); (have hy : Q y.1 := ?_); clear_value y; rotate_left; subst y)
    | ((try lift_lets); (with_reducible intro x); (try clear_value x))
    | split

theorem execDramTrainingEnd_law (hQ : Law P Q) (hP : Has P [.grp 21, .damper, .dmc, .seq, .tokens]) {c : Nat} {eyes : List Nat} {s : State} (hi0 : P (.one .dmc c))  (h0 : Q s) :
    outAll Q (execDramTrainingEnd c eyes s) := by
  unfold execDramTrainingEnd
  repeat' first
    | with_reducible assumption
    | ((with_reducible refine boolGoal ?_); exact rfl)
    | ((with_reducible refine hP.one _ ?_); exact rfl)
    | with_reducible refine setDram_law hQ (hP.sub rfl) ?_
    | ((with_reducible refine hQ.wr2At hP hi0 ?_ ?_); exact rfl)
    | with_reducible refine hQ.wr2 hP ?_ ?_
    | ((with_reducible refine hQ.wrAllAt hP hi0 ?_ ?_); simp only [List.all]; exact rfl)
    | ((with_reducible refine hQ.wrAll hP ?_ ?_); simp only [List.all]; exact rfl)
    | with_reducible refine release_law hQ (hP.sub rfl) ?_
    | with_reducible refine complete_law hQ (hP.sub rfl) ?_
    | with_reducible refine Law.ite ?_ ?_
    | with_reducible refine outOk ?_
    | with_reducible exact outFault
    | with_reducible refine outWithin ?_
    | with_reducible refine iteOut ?_ ?_
    | with_reducible refine Law.foldl (fun _ _ _ => ?_) ?_
    | with_reducible refine Law.foldlBy Prod.snd (fun _ _ _ => ?_) ?_
    | with_reducible refine Law.foldlBy Prod.fst (fun _ _ _ => ?_) ?_
    | with_reducible refine optAll.getD ?_ ?_
    | with_reducible refine optAll.map (fun _ => ?_)
    | ((try lift_lets); (with_reducible intro y); (have hy : Q y := ?_); clear_value y; rotate_left; subst y)
    | ((try lift_lets); (with_reducible intro y); (have hy : Q y.2 := ?_); clear_value y; rotate_left; subst y)
    | ((try lift_lets); (with_reducible intro y); (have hy : Q y.1 := ?_); clear_value y; rotate_left; subst y)
    | ((try lift_lets); (with_reducible intro x); (try clear_value x))
    | split
    | dsimp only

theorem execDmcXormap_law (hQ : Law P Q) (hP : Has P [.grp 0, .grp 13, .grp 64, .procs, .sampled, .seq, .tokens]) {x : XWord} {s : State}   (h0 : Q s) :
    outAll Q (execDmcXormap x s) := by
  unfold execDmcXormap
  repeat' first
    | with_reducible assumption
    | ((with_reducible refine boolGoal ?_); exact rfl)
    | ((with_reducible refine hP.one _ ?_); exact rfl)
    | with_reducible refine xop_law hQ (hP.sub rfl) (fun _ => ?_) ?_
    | with_reducible refine hQ.wr2 hP ?_ ?_
    | with_reducible refine Law.ite ?_ ?_
    | with_reducible refine resFin ?_
    | with_reducible refine resNo ?_
    | with_reducible refine resStart ?_
    | with_reducible refine resForm ?_
    | with_reducible refine resGone ?_
    | with_reducible refine resHold ?_
    | with_reducible refine iteRes ?_ ?_
    | with_reducible refine outOk ?_
    | with_reducible exact outFault
    | with_reducible refine outWithin ?_
    | with_reducible refine iteOut ?_ ?_
    | with_reducible refine Law.foldl (fun _ _ _ => ?_) ?_
    | with_reducible refine Law.foldlBy Prod.snd (fun _ _ _ => ?_) ?_
    | with_reducible refine Law.foldlBy Prod.fst (fun _ _ _ => ?_) ?_
    | ((try lift_lets); (with_reducible intro y); (have hy : Q y := ?_); clear_value y; rotate_left; subst y)
    | ((try lift_lets); (with_reducible intro x); (try clear_value x))
    | split

theorem execDmcSpare_law (hQ : Law P Q) (hP : Has P [.grp 0, .grp 64, .procs, .sampled, .seq, .tokens]) {x : XWord} {s : State} (hi0 : P (.one .dmc (xargs s x).i))  (h0 : Q s) :
    outAll Q (execDmcSpare x s) := by
  unfold execDmcSpare
  repeat' first
    | with_reducible assumption
    | ((with_reducible refine boolGoal ?_); exact rfl)
    | ((with_reducible refine hP.one _ ?_); exact rfl)
    | with_reducible refine direct_law hQ (hP.sub rfl) (fun _ => ?_) ?_
    | ((with_reducible refine hQ.wrAllAt hP hi0 ?_ ?_); simp only [List.all]; exact rfl)
    | ((with_reducible refine hQ.wrAll hP ?_ ?_); simp only [List.all]; exact rfl)
    | with_reducible refine Law.ite ?_ ?_
    | with_reducible refine excPair ?_
    | with_reducible refine excState ?_
    | with_reducible exact excError
    | with_reducible refine iteExc ?_ ?_
    | with_reducible refine outOk ?_
    | with_reducible exact outFault
    | with_reducible refine outWithin ?_
    | with_reducible refine iteOut ?_ ?_
    | ((try lift_lets); (with_reducible intro x); (try clear_value x))
    | split

theorem execDmcRetire_law (hQ : Law P Q) (hP : Has P [.all .dmc, .grp 0, .grp 64, .dmc, .procs, .sampled, .seq, .tokens]) {x : XWord} {s : State}   (h0 : Q s) :
    outAll Q (execDmcRetire x s) := by
  unfold execDmcRetire
  repeat' first
    | with_reducible assumption
    | ((with_reducible refine boolGoal ?_); exact rfl)
    | ((with_reducible refine hP.inst ?_); exact rfl)
    | ((with_reducible refine hP.one _ ?_); exact rfl)
    | with_reducible refine xop_law hQ (hP.sub rfl) (fun _ => ?_) ?_
    | with_reducible refine retireRank_law hQ (hP.sub rfl) ?_
    | with_reducible refine hQ.wr hP ?_ ?_
    | with_reducible refine Law.ite ?_ ?_
    | with_reducible refine resFin ?_
    | with_reducible refine resNo ?_
    | with_reducible refine resStart ?_
    | with_reducible refine resForm ?_
    | with_reducible refine resGone ?_
    | with_reducible refine resHold ?_
    | with_reducible refine iteRes ?_ ?_
    | with_reducible refine outOk ?_
    | with_reducible exact outFault
    | with_reducible refine outWithin ?_
    | with_reducible refine iteOut ?_ ?_
    | ((try lift_lets); (with_reducible intro x); (try clear_value x))
    | split

theorem execDramParityError_law (hQ : Law P Q) (hP : Has P [.all .dmc, .dmc, .seq]) {c : Nat} {rank : Nat} {s : State}   (h0 : Q s) :
    outAll Q (execDramParityError c rank s) := by
  unfold execDramParityError
  repeat' first
    | with_reducible assumption
    | ((with_reducible refine boolGoal ?_); exact rfl)
    | ((with_reducible refine hP.inst ?_); exact rfl)
    | ((with_reducible refine hP.one _ ?_); exact rfl)
    | with_reducible refine retireRank_law hQ (hP.sub rfl) ?_
    | with_reducible refine hQ.sat hP ?_ ?_
    | with_reducible refine Law.ite ?_ ?_
    | with_reducible refine outOk ?_
    | with_reducible exact outFault
    | with_reducible refine outWithin ?_
    | with_reducible refine iteOut ?_ ?_
    | ((try lift_lets); (with_reducible intro y); (have hy : Q y := ?_); clear_value y; rotate_left; subst y)
    | ((try lift_lets); (with_reducible intro y); (have hy : Q y.1 := ?_); clear_value y; rotate_left; subst y)
    | ((try lift_lets); (with_reducible intro x); (try clear_value x))
    | split

theorem takeCompare_law (hQ : Law P Q) (hP : Has P [.all .dma]) {r : Retire} {s : State} (h0 : Q s) : Q (takeCompare r s).2 := by
  unfold takeCompare
  split
  · exact h0
  have h := takeDma_law hQ (owner := 3) (hP.sub rfl) h0
  split
  · next heq => rw [heq] at h; exact h
  · exact h0

theorem execRankMigrationDone_law (hQ : Law P Q) (hP : Has P [.all .dma, .dmc]) {c : Nat} {s : State} (hi0 : P (.one .dmc c))  (h0 : Q s) :
    outAll Q (execRankMigrationDone c s) := by
  unfold execRankMigrationDone
  repeat' first
    | with_reducible assumption
    | ((with_reducible refine boolGoal ?_); exact rfl)
    | ((with_reducible refine hP.inst ?_); exact rfl)
    | ((with_reducible refine hP.one _ ?_); exact rfl)
    | with_reducible refine takeCompare_law hQ (hP.sub rfl) ?_
    | ((with_reducible refine hQ.wrAt hP hi0 ?_ ?_); exact rfl)
    | with_reducible refine hQ.wr hP ?_ ?_
    | with_reducible refine setDram_law hQ (hP.sub rfl) ?_
    | with_reducible refine Law.ite ?_ ?_
    | with_reducible refine outOk ?_
    | with_reducible exact outFault
    | with_reducible refine outWithin ?_
    | with_reducible refine iteOut ?_ ?_
    | ((try lift_lets); (with_reducible intro y); (have hy : Q y := ?_); clear_value y; rotate_left; subst y)
    | ((try lift_lets); (with_reducible intro y); (have hy : Q y.1 := ?_); clear_value y; rotate_left; subst y)
    | ((try lift_lets); (with_reducible intro x); (try clear_value x))
    | split
    | dsimp only

theorem execRankVerifyDone_law (hQ : Law P Q) (hP : Has P [.all .dma, .all .dmc, .dmc, .seq]) {c : Nat} {clean : Bool} {s : State}   (h0 : Q s) :
    outAll Q (execRankVerifyDone c clean s) := by
  unfold execRankVerifyDone
  repeat' first
    | with_reducible assumption
    | ((with_reducible refine boolGoal ?_); exact rfl)
    | ((with_reducible refine hP.inst ?_); exact rfl)
    | ((with_reducible refine hP.one _ ?_); exact rfl)
    | with_reducible refine takeCompare_law hQ (hP.sub rfl) ?_
    | with_reducible refine setDram_law hQ (hP.sub rfl) ?_
    | with_reducible refine giveDma_law hQ (hP.sub rfl) ?_
    | with_reducible refine hQ.wr hP ?_ ?_
    | with_reducible refine nextRetire_law hQ (hP.sub rfl) ?_
    | with_reducible refine endRetire_law hQ (hP.sub rfl) ?_ ?_
    | with_reducible refine Law.ite ?_ ?_
    | with_reducible refine outOk ?_
    | with_reducible exact outFault
    | with_reducible refine outWithin ?_
    | with_reducible refine iteOut ?_ ?_
    | ((try lift_lets); (with_reducible intro y); (have hy : Q y := ?_); clear_value y; rotate_left; subst y)
    | ((try lift_lets); (with_reducible intro y); (have hy : Q y.1 := ?_); clear_value y; rotate_left; subst y)
    | ((try lift_lets); (with_reducible intro x); (try clear_value x))
    | split
    | dsimp only

theorem dmcCntOne_law (hQ : Law P Q) (hP : Has P []) {c : Nat} {s : State} (hi0 : P (.one .dmc c))  (h0 : Q s) :
    Q (dmcCntOne c s) := by
  unfold dmcCntOne
  repeat' first
    | with_reducible assumption
    | ((with_reducible refine boolGoal ?_); exact rfl)
    | ((with_reducible refine hP.one _ ?_); exact rfl)
    | ((with_reducible refine hQ.clrAt hP hi0 ?_ ?_); simp only [List.all]; exact rfl)
    | ((with_reducible refine hQ.clr hP ?_ ?_); simp only [List.all]; exact rfl)

end Sys2Proof.Machine
end

