-- ==== Sys2Proof/Laws/Reset.lean ====
section
/-!
SUPPORT. What each function of Machine/Reset.lean can change: every law of the parts it names survives it.
-/
namespace Sys2Proof.Machine

variable {P : Part → Prop} {Q : State → Prop}

theorem keepFuses_law (hQ : Law P Q) (hP : Has P [.grp 24]) {old s : State} (_ : Q old) (h : Q s) : Q (keepFuses old s) := by
  unfold keepFuses
  refine hQ.wrAll hP ?_ h
  simp only [List.all]; exact rfl

theorem keepTamper_law (hQ : Law P Q) (hP : Has P [.grp 24, .power]) {old s : State} (_ : Q old) (h : Q s) : Q (keepTamper old s) := by
  unfold keepTamper
  split
  · refine hQ.power (hP.one _ rfl) (hQ.wrAll hP ?_ h)
    simp only [List.all]; exact rfl
  · exact h

theorem coreReset_law (hQ : Law P Q) (hP : Has P [.reset, .grp 21, .grp 24, .power]) {cause : Nat} {s : State} (h : Q s) :
    Q (coreReset cause s) := by
  unfold coreReset
  refine keepTamper_law hQ (hP.sub rfl) h (keepFuses_law hQ (hP.sub rfl) h ?_)
  refine hQ.wrAll hP ?_ (hQ.renew (hP.one _ rfl) ?_ ?_ ?_ h)
  · simp only [List.all]; exact rfl
  · rfl
  · exact ⟨heldWord, rfl⟩
  · exact ⟨fun a => secureAddr a || hostAddr a, rfl⟩

theorem powerOn_law (hQ : Law P Q) (hP : Has P [.reset, .grp 21, .grp 24, .power]) {s : State} (h : Q s) : Q (powerOn s) := by
  unfold powerOn
  refine keepTamper_law hQ (hP.sub rfl) h (keepFuses_law hQ (hP.sub rfl) h ?_)
  refine hQ.wr hP rfl (hQ.renew (hP.one _ rfl) ?_ ?_ ?_ h)
  · rfl
  · exact ⟨fun a => decide (0x20180020 ≤ a ∧ a < 0x201800E0), rfl⟩
  · exact ⟨hostAddr, rfl⟩

theorem setPhase_law (hQ : Law P Q) (hP : Has P [.grp 24, .tokens]) {k : Nat} {s : State}   (h0 : Q s) :
    Q (setPhase k s) := by
  unfold setPhase
  repeat' first
    | with_reducible assumption
    | ((with_reducible refine boolGoal ?_); exact rfl)
    | ((with_reducible refine hP.one _ ?_); exact rfl)
    | with_reducible refine hQ.wr hP ?_ ?_
    | with_reducible refine emit_law hQ (hP.sub rfl) ?_
    | with_reducible refine Law.ite ?_ ?_
    | split

theorem coldLane_law (hQ : Law P Q) (hP : Has P []) {n : Nat} {s : State} (hi0 : P (.one .lane n))  (h0 : Q s) :
    Q (coldLane n s) := by
  unfold coldLane
  repeat' first
    | with_reducible assumption
    | ((with_reducible refine boolGoal ?_); exact rfl)
    | ((with_reducible refine hP.one _ ?_); exact rfl)
    | ((with_reducible refine hQ.wrAllAt hP hi0 ?_ ?_); simp only [List.all]; exact rfl)
    | ((with_reducible refine hQ.wrAll hP ?_ ?_); simp only [List.all]; exact rfl)
    | with_reducible refine Law.ite ?_ ?_
    | split

theorem coreOff_law (hQ : Law P Q) (hP : Has P [.reset, .all .lane, .grp 21, .tokens]) {s : State} (h : Q s) : Q (coreOff s) := by
  unfold coreOff
  refine showGranted_law hQ (hP.sub rfl) (setHeld_law hQ (hP.sub rfl) (Law.foldl (fun _ _ h => coldLane_law hQ (hP.sub rfl) (hP.inst rfl) h) ?_))
  refine hQ.renew (hP.one _ rfl) ?_ ?_ ?_ h
  · rfl
  · exact ⟨auxWord, rfl⟩
  · exact ⟨fun a => secureAddr a || hostAddr a || dramAddr a, rfl⟩

theorem setTw_law (hQ : Law P Q) (hP : Has P [.tw]) {s : State} {p : Nat} {t : TwState}   (h0 : Q s) :
    Q (State.setTw s p t) := by
  unfold State.setTw
  repeat' first
    | with_reducible assumption
    | ((with_reducible refine boolGoal ?_); exact rfl)
    | ((with_reducible refine hP.one _ ?_); exact rfl)
    | ((try lift_lets); (with_reducible intro y); (have hy : Q y := ?_); clear_value y; rotate_left; subst y)
    | ((try lift_lets); (with_reducible intro y); (have hy : Q y.1 := ?_); clear_value y; rotate_left; subst y)
    | ((try lift_lets); (with_reducible intro x); (try clear_value x))
    | with_reducible refine hQ.tw ?_ ?_

theorem queueReg_law (hQ : Law P Q) (hP : Has P [.tw]) {k : TwKind} {s : State}   (h0 : Q s) :
    Q (queueReg k s) := by
  unfold queueReg
  repeat' first
    | with_reducible assumption
    | ((with_reducible refine boolGoal ?_); exact rfl)
    | ((with_reducible refine hP.one _ ?_); exact rfl)
    | with_reducible refine setTw_law hQ (hP.sub rfl) ?_
    | ((try lift_lets); (with_reducible intro y); (have hy : Q y := ?_); clear_value y; rotate_left; subst y)
    | ((try lift_lets); (with_reducible intro y); (have hy : Q y.1 := ?_); clear_value y; rotate_left; subst y)
    | ((try lift_lets); (with_reducible intro x); (try clear_value x))
    | split
    | dsimp only

end Sys2Proof.Machine
end

