-- ==== Sys2Proof/Laws/Boot.lean ====
section
/-!
SUPPORT. What each function of Machine/Boot.lean can change: every law of the parts it names survives it.
-/
namespace Sys2Proof.Machine

variable {P : Part → Prop} {Q : State → Prop}

theorem activate_law (hQ : Law P Q) (hP : Has P [.grp 21, .damper, .tokens]) {s : State}   (h0 : Q s) :
    Q (activate s) := by
  unfold activate
  repeat' first
    | with_reducible assumption
    | ((with_reducible refine boolGoal ?_); exact rfl)
    | ((with_reducible refine hP.one _ ?_); exact rfl)
    | with_reducible refine request_law hQ (hP.sub rfl) ?_
    | with_reducible refine Law.ite ?_ ?_
    | with_reducible refine Law.foldl (fun _ _ _ => ?_) ?_
    | with_reducible refine Law.foldlBy Prod.snd (fun _ _ _ => ?_) ?_
    | with_reducible refine Law.foldlBy Prod.fst (fun _ _ _ => ?_) ?_
    | ((try lift_lets); (with_reducible intro x); (try clear_value x))
    | split

theorem startProgram_law (hQ : Law P Q) (hP : Has P [.grp 21, .grp 24, .damper, .power, .procs, .seq, .tokens, .tw]) {s : State}   (h0 : Q s) :
    Q (startProgram s) := by
  unfold startProgram
  repeat' first
    | with_reducible assumption
    | ((with_reducible refine boolGoal ?_); exact rfl)
    | ((with_reducible refine hP.one _ ?_); exact rfl)
    | with_reducible refine setProc_law hQ (hP.sub rfl) ?_
    | with_reducible refine setTw_law hQ (hP.sub rfl) ?_
    | with_reducible refine activate_law hQ (hP.sub rfl) ?_
    | with_reducible refine setPhase_law hQ (hP.sub rfl) ?_
    | ((try lift_lets); (with_reducible intro y); (have hy : Q y := ?_); clear_value y; rotate_left; subst y)
    | ((try lift_lets); (with_reducible intro y); (have hy : Q y.1 := ?_); clear_value y; rotate_left; subst y)
    | ((try lift_lets); (with_reducible intro x); (try clear_value x))
    | with_reducible refine hQ.seq ?_ ?_
    | with_reducible refine hQ.power ?_ ?_

theorem runImage_law (hQ : Law P Q) (hP : Has P [.grp 21, .grp 24, .damper, .mem, .poison, .power, .procs, .seq, .tokens, .tw]) {h : List Word} {body : List Byte} {s : State}   (h0 : Q s) :
    Q (runImage h body s) := by
  unfold runImage
  repeat' first
    | with_reducible assumption
    | ((with_reducible refine boolGoal ?_); exact rfl)
    | ((with_reducible refine hP.one _ ?_); exact rfl)
    | with_reducible refine fill_law hQ (hP.sub rfl) ?_
    | with_reducible refine startProgram_law hQ (hP.sub rfl) ?_
    | ((try lift_lets); (with_reducible intro y); (have hy : Q y := ?_); clear_value y; rotate_left; subst y)
    | ((try lift_lets); (with_reducible intro x); (try clear_value x))
    | with_reducible refine hQ.power ?_ ?_

theorem acceptImage_law (hQ : Law P Q) (hP : Has P [.grp 21, .grp 24, .grp 65, .damper, .mem, .poison, .power, .procs, .seq, .tokens, .tw]) {h : List Word} {body : List Byte} {s : State}   (h0 : Q s) :
    Q (acceptImage h body s) := by
  unfold acceptImage
  repeat' first
    | with_reducible assumption
    | ((with_reducible refine boolGoal ?_); exact rfl)
    | ((with_reducible refine hP.one _ ?_); exact rfl)
    | with_reducible refine fill_law hQ (hP.sub rfl) ?_
    | with_reducible refine write64_law hQ (hP.sub rfl) ?_
    | ((with_reducible refine hQ.wrAll hP ?_ ?_); simp only [List.all]; exact rfl)
    | with_reducible refine runImage_law hQ (hP.sub rfl) ?_
    | with_reducible refine hQ.writeWords ?_ ?_ ?_
    | ((try lift_lets); (with_reducible intro y); (have hy : Q y := ?_); clear_value y; rotate_left; subst y)
    | ((try lift_lets); (with_reducible intro x); (try clear_value x))

theorem bootFails_law (hQ : Law P Q) (hP : Has P [.grp 24, .tokens]) {e : Nat} {s : State}   (h0 : Q s) :
    Q (bootFails e s) := by
  unfold bootFails
  repeat' first
    | with_reducible assumption
    | ((with_reducible refine boolGoal ?_); exact rfl)
    | ((with_reducible refine hP.one _ ?_); exact rfl)
    | with_reducible refine setPhase_law hQ (hP.sub rfl) ?_
    | with_reducible refine hQ.wr hP ?_ ?_

theorem judgeImage_law (hQ : Law P Q) (hP : Has P [.grp 21, .grp 24, .grp 65, .damper, .mem, .poison, .power, .procs, .seq, .tokens, .tw]) {h : List Word} {body : List Byte} {s : State}   (h0 : Q s) :
    Q (judgeImage h body s) := by
  unfold judgeImage
  repeat' first
    | with_reducible assumption
    | ((with_reducible refine boolGoal ?_); exact rfl)
    | ((with_reducible refine hP.one _ ?_); exact rfl)
    | with_reducible refine acceptImage_law hQ (hP.sub rfl) ?_
    | with_reducible refine bootFails_law hQ (hP.sub rfl) ?_
    | ((try lift_lets); (with_reducible intro y); (have hy : Q y := ?_); clear_value y; rotate_left; subst y)
    | ((try lift_lets); (with_reducible intro x); (try clear_value x))
    | split
    | dsimp only

theorem execKindlingStart_law (hQ : Law P Q) (hP : Has P [.all .wlkPort, .grp 24, .grp 65, .tokens, .tw]) {sel : Nat} {port : Nat} {s : State}   (h0 : Q s) :
    outAll Q (execKindlingStart sel port s) := by
  unfold execKindlingStart
  repeat' first
    | with_reducible assumption
    | ((with_reducible refine boolGoal ?_); exact rfl)
    | ((with_reducible refine hP.inst ?_); exact rfl)
    | ((with_reducible refine hP.one _ ?_); exact rfl)
    | with_reducible refine queueReg_law hQ (hP.sub rfl) ?_
    | with_reducible refine setPhase_law hQ (hP.sub rfl) ?_
    | with_reducible refine hQ.wr hP ?_ ?_
    | with_reducible refine Law.ite ?_ ?_
    | with_reducible refine outOk ?_
    | with_reducible exact outFault
    | with_reducible refine outWithin ?_
    | with_reducible refine iteOut ?_ ?_
    | ((try lift_lets); (with_reducible intro y); (have hy : Q y := ?_); clear_value y; rotate_left; subst y)
    | ((try lift_lets); (with_reducible intro x); (try clear_value x))
    | split
    | dsimp only

theorem execBootdbWrite_law (hQ : Law P Q) (hP : Has P [.grp 24, .grp 65, .tokens]) {_len : Nat} {s : State}   (h0 : Q s) :
    outAll Q (execBootdbWrite _len s) := by
  unfold execBootdbWrite
  repeat' first
    | with_reducible assumption
    | ((with_reducible refine boolGoal ?_); exact rfl)
    | ((with_reducible refine hP.one _ ?_); exact rfl)
    | with_reducible refine setPhase_law hQ (hP.sub rfl) ?_
    | with_reducible refine hQ.wr hP ?_ ?_
    | with_reducible refine Law.ite ?_ ?_
    | with_reducible refine outOk ?_
    | with_reducible exact outFault
    | with_reducible refine outWithin ?_
    | with_reducible refine iteOut ?_ ?_
    | split

theorem reloadImage_law (hQ : Law P Q) (hP : Has P [.grp 21, .grp 24, .damper, .mem, .poison, .power, .procs, .seq, .tokens, .tw]) {s : State}   (h0 : Q s) :
    Q (reloadImage s) := by
  unfold reloadImage
  repeat' first
    | with_reducible assumption
    | ((with_reducible refine boolGoal ?_); exact rfl)
    | ((with_reducible refine hP.one _ ?_); exact rfl)
    | with_reducible refine runImage_law hQ (hP.sub rfl) ?_
    | with_reducible refine setPhase_law hQ (hP.sub rfl) ?_
    | with_reducible refine hQ.wr hP ?_ ?_
    | with_reducible refine Law.ite ?_ ?_
    | ((try lift_lets); (with_reducible intro y); (have hy : Q y := ?_); clear_value y; rotate_left; subst y)
    | ((try lift_lets); (with_reducible intro x); (try clear_value x))
    | split
    | with_reducible refine hQ.power ?_ ?_

theorem execImageLoadDone_law (hQ : Law P Q) (hP : Has P [.grp 21, .grp 24, .grp 65, .damper, .mem, .poison, .power, .procs, .seq, .tokens, .tw]) {err : Nat} {image : List Word} {s : State}   (h0 : Q s) :
    outAll Q (execImageLoadDone err image s) := by
  unfold execImageLoadDone
  repeat' first
    | with_reducible assumption
    | ((with_reducible refine boolGoal ?_); exact rfl)
    | ((with_reducible refine hP.one _ ?_); exact rfl)
    | with_reducible refine reloadImage_law hQ (hP.sub rfl) ?_
    | with_reducible refine bootFails_law hQ (hP.sub rfl) ?_
    | with_reducible refine judgeImage_law hQ (hP.sub rfl) ?_
    | with_reducible refine setPhase_law hQ (hP.sub rfl) ?_
    | with_reducible refine Law.ite ?_ ?_
    | with_reducible refine outOk ?_
    | with_reducible exact outFault
    | with_reducible refine outWithin ?_
    | with_reducible refine iteOut ?_ ?_
    | ((try lift_lets); (with_reducible intro y); (have hy : Q y := ?_); clear_value y; rotate_left; subst y)
    | ((try lift_lets); (with_reducible intro x); (try clear_value x))
    | split
    | dsimp only

theorem execFabricBootTimeout_law (hQ : Law P Q) (hP : Has P [.grp 24, .tokens]) {s : State}   (h0 : Q s) :
    outAll Q (execFabricBootTimeout s) := by
  unfold execFabricBootTimeout
  repeat' first
    | with_reducible assumption
    | ((with_reducible refine boolGoal ?_); exact rfl)
    | ((with_reducible refine hP.one _ ?_); exact rfl)
    | with_reducible refine bootFails_law hQ (hP.sub rfl) ?_
    | with_reducible refine Law.ite ?_ ?_
    | with_reducible refine outOk ?_
    | with_reducible exact outFault
    | with_reducible refine outWithin ?_
    | with_reducible refine iteOut ?_ ?_
    | ((try lift_lets); (with_reducible intro x); (try clear_value x))
    | split

theorem execSlcKcopy_law (hQ : Law P Q) (hP : Has P [.grp 0, .grp 64, .procs, .sampled, .seq, .tokens]) {x : XWord} {s : State}   (h0 : Q s) :
    outAll Q (execSlcKcopy x s) := by
  unfold execSlcKcopy
  repeat' first
    | with_reducible assumption
    | ((with_reducible refine boolGoal ?_); exact rfl)
    | ((with_reducible refine hP.one _ ?_); exact rfl)
    | with_reducible refine xop_law hQ (hP.sub rfl) (fun _ => ?_) ?_
    | with_reducible refine Law.ite ?_ ?_
    | with_reducible refine resFin ?_
    | with_reducible refine resNo ?_
    | with_reducible refine resStart ?_
    | with_reducible refine resForm ?_
    | with_reducible refine resGone ?_
    | with_reducible refine resHold ?_
    | with_reducible refine iteRes ?_ ?_
    | with_reducible refine outOk ?_
    | with_reducible exact outFault
    | with_reducible refine outWithin ?_
    | with_reducible refine iteOut ?_ ?_
    | ((try lift_lets); (with_reducible intro x); (try clear_value x))
    | split

theorem execKcopyComplete_law (hQ : Law P Q) (hP : Has P [.grp 24, .grp 64, .mem, .poison, .seq]) {s : State}   (h0 : Q s) :
    outAll Q (execKcopyComplete s) := by
  unfold execKcopyComplete
  repeat' first
    | with_reducible assumption
    | ((with_reducible refine boolGoal ?_); exact rfl)
    | ((with_reducible refine hP.one _ ?_); exact rfl)
    | with_reducible refine put_law hQ (hP.sub rfl) ?_
    | with_reducible refine hQ.wr hP ?_ ?_
    | with_reducible refine complete_law hQ (hP.sub rfl) ?_
    | with_reducible refine Law.ite ?_ ?_
    | with_reducible refine outOk ?_
    | with_reducible exact outFault
    | with_reducible refine outWithin ?_
    | with_reducible refine iteOut ?_ ?_
    | ((try lift_lets); (with_reducible intro y); (have hy : Q y := ?_); clear_value y; rotate_left; subst y)
    | ((try lift_lets); (with_reducible intro y); (have hy : Q y.1 := ?_); clear_value y; rotate_left; subst y)
    | ((try lift_lets); (with_reducible intro x); (try clear_value x))
    | split
    | dsimp only

theorem startWipe_law (hQ : Law P Q) (hP : Has P [.grp 24, .mem]) {s : State}   (h0 : Q s) :
    Q (startWipe s) := by
  unfold startWipe
  repeat' first
    | with_reducible assumption
    | ((with_reducible refine boolGoal ?_); exact rfl)
    | ((with_reducible refine hP.one _ ?_); exact rfl)
    | with_reducible refine hQ.wr hP ?_ ?_
    | with_reducible refine hQ.cut ?_ ?_
    | ((try lift_lets); (with_reducible intro y); (have hy : Q y := ?_); clear_value y; rotate_left; subst y)
    | ((try lift_lets); (with_reducible intro x); (try clear_value x))

theorem execSlcWipe_law (hQ : Law P Q) (hP : Has P [.grp 0, .grp 24, .grp 64, .mem, .procs, .sampled, .seq, .tokens]) {x : XWord} {s : State}   (h0 : Q s) :
    outAll Q (execSlcWipe x s) := by
  unfold execSlcWipe
  repeat' first
    | with_reducible assumption
    | ((with_reducible refine boolGoal ?_); exact rfl)
    | ((with_reducible refine hP.one _ ?_); exact rfl)
    | with_reducible refine xop_law hQ (hP.sub rfl) (fun _ => ?_) ?_
    | with_reducible refine startWipe_law hQ (hP.sub rfl) ?_
    | with_reducible refine resFin ?_
    | with_reducible refine resNo ?_
    | with_reducible refine resStart ?_
    | with_reducible refine resForm ?_
    | with_reducible refine resGone ?_
    | with_reducible refine resHold ?_
    | with_reducible refine iteRes ?_ ?_
    | with_reducible refine outOk ?_
    | with_reducible exact outFault
    | with_reducible refine outWithin ?_
    | with_reducible refine iteOut ?_ ?_
    | ((try lift_lets); (with_reducible intro x); (try clear_value x))

theorem completeWipes_law (hQ : Law P Q) (hP : Has P [.seq])  {x0 : Nat}   {s : State} (h0 : Q s) :
    Q (completeWipes x0 s) := by
  induction x0 generalizing s with
  | zero =>
    unfold completeWipes
    repeat' first
      | with_reducible assumption
      | ((with_reducible refine boolGoal ?_); exact rfl)
      | ((with_reducible refine hP.one _ ?_); exact rfl)
      | with_reducible refine complete_law hQ (hP.sub rfl) ?_
      | ((try lift_lets); (with_reducible intro y); (have hy : Q y := ?_); clear_value y; rotate_left; subst y)
      | ((try lift_lets); (with_reducible intro y); (have hy : Q y.1 := ?_); clear_value y; rotate_left; subst y)
      | ((try lift_lets); (with_reducible intro x); (try clear_value x))
      | split
      | dsimp only
  | succ n ih =>
    unfold completeWipes
    repeat' first
      | with_reducible assumption
      | with_reducible apply ih
      | ((with_reducible refine boolGoal ?_); exact rfl)
      | ((with_reducible refine hP.one _ ?_); exact rfl)
      | with_reducible refine complete_law hQ (hP.sub rfl) ?_
      | ((try lift_lets); (with_reducible intro y); (have hy : Q y := ?_); clear_value y; rotate_left; subst y)
      | ((try lift_lets); (with_reducible intro y); (have hy : Q y.1 := ?_); clear_value y; rotate_left; subst y)
      | ((try lift_lets); (with_reducible intro x); (try clear_value x))
      | split
      | dsimp only

theorem execSecureWipeEnd_law (hQ : Law P Q) (hP : Has P [.grp 24, .seq, .tokens]) {good : Bool} {s : State}   (h0 : Q s) :
    outAll Q (execSecureWipeEnd good s) := by
  unfold execSecureWipeEnd
  repeat' first
    | with_reducible assumption
    | ((with_reducible refine boolGoal ?_); exact rfl)
    | ((with_reducible refine hP.one _ ?_); exact rfl)
    | with_reducible refine hQ.sat hP ?_ ?_
    | with_reducible refine hQ.wr hP ?_ ?_
    | with_reducible refine completeWipes_law hQ (hP.sub rfl) ?_
    | with_reducible refine emit_law hQ (hP.sub rfl) ?_
    | with_reducible refine Law.ite ?_ ?_
    | with_reducible refine outOk ?_
    | with_reducible exact outFault
    | with_reducible refine outWithin ?_
    | with_reducible refine iteOut ?_ ?_
    | ((try lift_lets); (with_reducible intro y); (have hy : Q y := ?_); clear_value y; rotate_left; subst y)
    | ((try lift_lets); (with_reducible intro y); (have hy : Q y.1 := ?_); clear_value y; rotate_left; subst y)
    | ((try lift_lets); (with_reducible intro x); (try clear_value x))
    | split

theorem execTamperDetect_law (hQ : Law P Q) (hP : Has P [.grp 24, .mem, .power, .tokens]) {s : State}   (h0 : Q s) :
    outAll Q (execTamperDetect s) := by
  unfold execTamperDetect
  repeat' first
    | with_reducible assumption
    | ((with_reducible refine boolGoal ?_); exact rfl)
    | ((with_reducible refine hP.one _ ?_); exact rfl)
    | with_reducible refine startWipe_law hQ (hP.sub rfl) ?_
    | with_reducible refine hQ.sat hP ?_ ?_
    | ((with_reducible refine hQ.wrAll hP ?_ ?_); simp only [List.all]; exact rfl)
    | with_reducible refine emit_law hQ (hP.sub rfl) ?_
    | with_reducible refine Law.ite ?_ ?_
    | with_reducible refine outOk ?_
    | with_reducible exact outFault
    | with_reducible refine outWithin ?_
    | with_reducible refine iteOut ?_ ?_
    | ((try lift_lets); (with_reducible intro y); (have hy : Q y := ?_); clear_value y; rotate_left; subst y)
    | ((try lift_lets); (with_reducible intro y); (have hy : Q y.1 := ?_); clear_value y; rotate_left; subst y)
    | ((try lift_lets); (with_reducible intro x); (try clear_value x))
    | split
    | with_reducible refine hQ.power ?_ ?_

theorem execTamperEnd_law (hQ : Law P Q) (hP : Has P [.grp 24, .power]) {s : State}   (h0 : Q s) :
    outAll Q (execTamperEnd s) := by
  unfold execTamperEnd
  repeat' first
    | with_reducible assumption
    | ((with_reducible refine boolGoal ?_); exact rfl)
    | ((with_reducible refine hP.one _ ?_); exact rfl)
    | with_reducible refine hQ.wr hP ?_ ?_
    | with_reducible refine Law.ite ?_ ?_
    | with_reducible refine outOk ?_
    | with_reducible exact outFault
    | with_reducible refine outWithin ?_
    | with_reducible refine iteOut ?_ ?_
    | ((try lift_lets); (with_reducible intro y); (have hy : Q y := ?_); clear_value y; rotate_left; subst y)
    | ((try lift_lets); (with_reducible intro x); (try clear_value x))
    | split
    | with_reducible refine hQ.power ?_ ?_

theorem burnFuses_law (hQ : Law P Q) (hP : Has P [.grp 24]) {a : XArgs} {s : State}   (h0 : Q s) :
    excAll Q (burnFuses a s) := by
  unfold burnFuses
  repeat' first
    | with_reducible assumption
    | ((with_reducible refine boolGoal ?_); exact rfl)
    | ((with_reducible refine hP.one _ ?_); exact rfl)
    | with_reducible refine hQ.wr hP ?_ ?_
    | with_reducible refine Law.ite ?_ ?_
    | with_reducible refine excPair ?_
    | with_reducible refine excState ?_
    | with_reducible exact excError
    | with_reducible refine iteExc ?_ ?_
    | ((try lift_lets); (with_reducible intro y); (have hy : Q y := ?_); clear_value y; rotate_left; subst y)
    | ((try lift_lets); (with_reducible intro x); (try clear_value x))
    | split

theorem advanceLife_law (hQ : Law P Q) (hP : Has P [.grp 21, .grp 24, .mem, .power, .reset, .seq, .tokens]) {a : XArgs} {s : State}   (h0 : Q s) :
    resAll Q (advanceLife a s) := by
  unfold advanceLife
  repeat' first
    | with_reducible assumption
    | ((with_reducible refine boolGoal ?_); exact rfl)
    | ((with_reducible refine hP.one _ ?_); exact rfl)
    | with_reducible refine burnFuses_law hQ (hP.sub rfl) ?_
    | with_reducible refine excGet (by with_reducible assumption) ?_
    | with_reducible refine emit_law hQ (hP.sub rfl) ?_
    | with_reducible refine coreReset_law hQ (hP.sub rfl) ?_
    | with_reducible refine hQ.wr hP ?_ ?_
    | with_reducible refine hQ.cut ?_ ?_
    | with_reducible refine Law.ite ?_ ?_
    | with_reducible refine resNo ?_
    | with_reducible refine resFin ?_
    | with_reducible refine resStart ?_
    | with_reducible refine resForm ?_
    | with_reducible refine resGone ?_
    | with_reducible refine resHold ?_
    | with_reducible refine iteRes ?_ ?_
    | ((try lift_lets); (with_reducible intro y); (have hy : Q y := ?_); clear_value y; rotate_left; subst y)
    | ((try lift_lets); (with_reducible intro x); (try clear_value x))
    | split
    | dsimp only

theorem execSlcAdvance_law (hQ : Law P Q) (hP : Has P [.grp 0, .grp 21, .grp 24, .grp 64, .mem, .power, .procs, .reset, .sampled, .seq, .tokens]) {x : XWord} {s : State}   (h0 : Q s) :
    outAll Q (execSlcAdvance x s) := by
  unfold execSlcAdvance
  repeat' first
    | with_reducible assumption
    | ((with_reducible refine boolGoal ?_); exact rfl)
    | ((with_reducible refine hP.one _ ?_); exact rfl)
    | with_reducible refine xop_law hQ (hP.sub rfl) (fun _ => ?_) ?_
    | with_reducible refine advanceLife_law hQ (hP.sub rfl) ?_
    | with_reducible refine resFin ?_
    | with_reducible refine resNo ?_
    | with_reducible refine resStart ?_
    | with_reducible refine resForm ?_
    | with_reducible refine resGone ?_
    | with_reducible refine resHold ?_
    | with_reducible refine iteRes ?_ ?_
    | with_reducible refine outOk ?_
    | with_reducible exact outFault
    | with_reducible refine outWithin ?_
    | with_reducible refine iteOut ?_ ?_

theorem execSlcAdvanceFuses_law (hQ : Law P Q) (hP : Has P [.grp 0, .grp 21, .grp 24, .grp 64, .mem, .power, .procs, .reset, .sampled, .seq, .tokens]) {x : XWord} {s : State}   (h0 : Q s) :
    outAll Q (execSlcAdvanceFuses x s) := by
  unfold execSlcAdvanceFuses
  repeat' first
    | with_reducible assumption
    | ((with_reducible refine boolGoal ?_); exact rfl)
    | ((with_reducible refine hP.one _ ?_); exact rfl)
    | with_reducible refine xop_law hQ (hP.sub rfl) (fun _ => ?_) ?_
    | with_reducible refine advanceLife_law hQ (hP.sub rfl) ?_
    | with_reducible refine resFin ?_
    | with_reducible refine resNo ?_
    | with_reducible refine resStart ?_
    | with_reducible refine resForm ?_
    | with_reducible refine resGone ?_
    | with_reducible refine resHold ?_
    | with_reducible refine iteRes ?_ ?_
    | with_reducible refine outOk ?_
    | with_reducible exact outFault
    | with_reducible refine outWithin ?_
    | with_reducible refine iteOut ?_ ?_
    | ((try lift_lets); (with_reducible intro x); (try clear_value x))

end Sys2Proof.Machine
end

