-- ==== Sys2Proof/Laws/Packets.lean ====
section
/-!
SUPPORT. What each function of Machine/Packets.lean can change: every law of the parts it names survives it.
-/
namespace Sys2Proof.Machine

variable {P : Part → Prop} {Q : State → Prop}

theorem wlkCause_law (hQ : Law P Q) (hP : Has P [.grp 17, .tokens]) {s : State} {k : Nat}   (h0 : Q s) :
    Q (State.wlkCause s k) := by
  unfold State.wlkCause
  repeat' first
    | with_reducible assumption
    | ((with_reducible refine boolGoal ?_); exact rfl)
    | ((with_reducible refine hP.one _ ?_); exact rfl)
    | with_reducible refine hQ.wr hP ?_ ?_
    | with_reducible refine emit_law hQ (hP.sub rfl) ?_
    | with_reducible refine Law.ite ?_ ?_
    | ((try lift_lets); (with_reducible intro y); (have hy : Q y := ?_); clear_value y; rotate_left; subst y)
    | ((try lift_lets); (with_reducible intro x); (try clear_value x))
    | split

theorem setPort_law (hQ : Law P Q) (hP : Has P [.wlk]) {s : State} {p : Nat} {x : Hello}   (h0 : Q s) :
    Q (State.setPort s p x) := by
  unfold State.setPort
  repeat' first
    | with_reducible assumption
    | ((with_reducible refine boolGoal ?_); exact rfl)
    | ((with_reducible refine hP.one _ ?_); exact rfl)
    | ((try lift_lets); (with_reducible intro y); (have hy : Q y := ?_); clear_value y; rotate_left; subst y)
    | ((try lift_lets); (with_reducible intro y); (have hy : Q y.1 := ?_); clear_value y; rotate_left; subst y)
    | ((try lift_lets); (with_reducible intro x); (try clear_value x))
    | with_reducible refine hQ.wlk ?_ ?_

theorem portDown_law (hQ : Law P Q) (hP : Has P [.tokens, .wlk]) {p : Nat} {st : Nat} {s : State} (hi0 : P (.one .wlkPort p))  (h0 : Q s) :
    Q (portDown p st s) := by
  unfold portDown
  repeat' first
    | with_reducible assumption
    | ((with_reducible refine boolGoal ?_); exact rfl)
    | ((with_reducible refine hP.one _ ?_); exact rfl)
    | ((with_reducible refine hQ.wrAt hP hi0 ?_ ?_); exact rfl)
    | with_reducible refine hQ.wr hP ?_ ?_
    | ((with_reducible refine hQ.satAt hP hi0 ?_ ?_); exact rfl)
    | with_reducible refine hQ.sat hP ?_ ?_
    | with_reducible refine emit_law hQ (hP.sub rfl) ?_
    | with_reducible refine setPort_law hQ (hP.sub rfl) ?_
    | with_reducible refine Law.ite ?_ ?_
    | ((try lift_lets); (with_reducible intro y); (have hy : Q y := ?_); clear_value y; rotate_left; subst y)
    | ((try lift_lets); (with_reducible intro y); (have hy : Q y.1 := ?_); clear_value y; rotate_left; subst y)
    | ((try lift_lets); (with_reducible intro x); (try clear_value x))
    | split

theorem portSend_law (hQ : Law P Q) (hP : Has P [.grp 64, .sent]) {s : State} {p : Nat} {x : WlkSent} {k : Nat} (hi0 : P (.one .wlkPort p))  (h0 : Q s) :
    Q (State.portSend s p x k) := by
  unfold State.portSend
  repeat' first
    | with_reducible assumption
    | ((with_reducible refine boolGoal ?_); exact rfl)
    | ((with_reducible refine hP.one _ ?_); exact rfl)
    | ((with_reducible refine hQ.wrapAt hP hi0 ?_ ?_); exact rfl)
    | with_reducible refine hQ.wrap hP ?_ ?_
    | with_reducible refine evt_law hQ (hP.sub rfl) ?_
    | ((try lift_lets); (with_reducible intro y); (have hy : Q y := ?_); clear_value y; rotate_left; subst y)
    | ((try lift_lets); (with_reducible intro y); (have hy : Q y.1 := ?_); clear_value y; rotate_left; subst y)
    | ((try lift_lets); (with_reducible intro x); (try clear_value x))
    | with_reducible refine hQ.sent ?_ ?_

theorem sendOn_law (hQ : Law P Q) (hP : Has P [.all .wlkPort, .grp 64, .sent]) {ps : List Nat} {x : WlkPkt} {s : State}   (h0 : Q s) :
    Q (sendOn ps x s) := by
  unfold sendOn
  repeat' first
    | with_reducible assumption
    | ((with_reducible refine boolGoal ?_); exact rfl)
    | ((with_reducible refine hP.inst ?_); exact rfl)
    | ((with_reducible refine hP.one _ ?_); exact rfl)
    | with_reducible refine portSend_law hQ (hP.sub rfl) ?_ ?_
    | with_reducible refine Law.foldl (fun _ _ _ => ?_) ?_
    | with_reducible refine Law.foldlBy Prod.snd (fun _ _ _ => ?_) ?_
    | with_reducible refine Law.foldlBy Prod.fst (fun _ _ _ => ?_) ?_
    | ((try lift_lets); (with_reducible intro x); (try clear_value x))

theorem noRoute_law (hQ : Law P Q) (hP : Has P [.grp 17, .tokens]) {s : State}   (h0 : Q s) :
    Q (noRoute s) := by
  unfold noRoute
  repeat' first
    | with_reducible assumption
    | ((with_reducible refine boolGoal ?_); exact rfl)
    | ((with_reducible refine hP.one _ ?_); exact rfl)
    | with_reducible refine hQ.sat hP ?_ ?_
    | with_reducible refine wlkCause_law hQ (hP.sub rfl) ?_

theorem sendTo_law (hQ : Law P Q) (hP : Has P [.all .wlkPort, .grp 17, .grp 64, .sent, .tokens]) {s : State} {n : Nat} {x : WlkPkt} {k : Nat}   (h0 : Q s) :
    Q (State.sendTo s n x k) := by
  unfold State.sendTo
  repeat' first
    | with_reducible assumption
    | ((with_reducible refine boolGoal ?_); exact rfl)
    | ((with_reducible refine hP.inst ?_); exact rfl)
    | ((with_reducible refine hP.one _ ?_); exact rfl)
    | with_reducible refine portSend_law hQ (hP.sub rfl) ?_ ?_
    | with_reducible refine noRoute_law hQ (hP.sub rfl) ?_
    | with_reducible refine Law.ite ?_ ?_
    | ((try lift_lets); (with_reducible intro y); (have hy : Q y := ?_); clear_value y; rotate_left; subst y)
    | ((try lift_lets); (with_reducible intro x); (try clear_value x))
    | split
    | dsimp only

theorem fromPort_law (hQ : Law P Q) (hP : Has P [.grp 64]) {p : Nat} {f : State → Out} {s : State} (hi0 : P (.one .wlkPort p)) (hf_f : ∀ s0_, Q s0_ → outAll Q (f s0_)) (h0 : Q s) :
    outAll Q (fromPort p f s) := by
  unfold fromPort
  repeat' first
    | with_reducible assumption
    | ((with_reducible refine boolGoal ?_); exact rfl)
    | ((with_reducible refine hP.one _ ?_); exact rfl)
    | ((with_reducible refine hQ.wrapAt hP hi0 ?_ ?_); exact rfl)
    | with_reducible refine hQ.wrap hP ?_ ?_
    | with_reducible refine evt_law hQ (hP.sub rfl) ?_
    | with_reducible refine hf_f _ ?_
    | with_reducible refine Law.ite ?_ ?_
    | with_reducible refine outOk ?_
    | with_reducible exact outFault
    | with_reducible refine outWithin ?_
    | with_reducible refine iteOut ?_ ?_
    | ((try lift_lets); (with_reducible intro y); (have hy : Q y := ?_); clear_value y; rotate_left; subst y)
    | ((try lift_lets); (with_reducible intro x); (try clear_value x))
    | split

end Sys2Proof.Machine
end

