-- ==== Sys2Proof/Laws/Lanes.lean ====
section
/-!
SUPPORT. What each function of Machine/Lanes.lean can change: every law of the parts it names survives it.
-/
namespace Sys2Proof.Machine

variable {P : Part → Prop} {Q : State → Prop}

theorem setLane_law (hQ : Law P Q) (hP : Has P [.lanes]) {s : State} {n : Nat} {l : Lane}   (h0 : Q s) :
    Q (State.setLane s n l) := by
  unfold State.setLane
  repeat' first
    | with_reducible assumption
    | ((with_reducible refine boolGoal ?_); exact rfl)
    | ((with_reducible refine hP.one _ ?_); exact rfl)
    | ((try lift_lets); (with_reducible intro y); (have hy : Q y := ?_); clear_value y; rotate_left; subst y)
    | ((try lift_lets); (with_reducible intro y); (have hy : Q y.1 := ?_); clear_value y; rotate_left; subst y)
    | ((try lift_lets); (with_reducible intro x); (try clear_value x))
    | with_reducible refine hQ.lanes ?_ ?_

theorem setHead_law (hQ : Law P Q) (hP : Has P [.heads]) {s : State} {h : Nat} {e : HeadState}   (h0 : Q s) :
    Q (State.setHead s h e) := by
  unfold State.setHead
  repeat' first
    | with_reducible assumption
    | ((with_reducible refine boolGoal ?_); exact rfl)
    | ((with_reducible refine hP.one _ ?_); exact rfl)
    | ((try lift_lets); (with_reducible intro y); (have hy : Q y := ?_); clear_value y; rotate_left; subst y)
    | ((try lift_lets); (with_reducible intro y); (have hy : Q y.1 := ?_); clear_value y; rotate_left; subst y)
    | ((try lift_lets); (with_reducible intro x); (try clear_value x))
    | with_reducible refine hQ.heads ?_ ?_

theorem laneCause_law (hQ : Law P Q) (hP : Has P [.tokens]) {n : Nat} {c : Nat} {s : State} (hi0 : P (.one .lane n))  (h0 : Q s) :
    Q (laneCause n c s) := by
  unfold laneCause
  repeat' first
    | with_reducible assumption
    | ((with_reducible refine boolGoal ?_); exact rfl)
    | ((with_reducible refine hP.one _ ?_); exact rfl)
    | ((with_reducible refine hQ.wrAt hP hi0 ?_ ?_); exact rfl)
    | with_reducible refine hQ.wr hP ?_ ?_
    | with_reducible refine emit_law hQ (hP.sub rfl) ?_
    | with_reducible refine Law.ite ?_ ?_
    | ((try lift_lets); (with_reducible intro y); (have hy : Q y := ?_); clear_value y; rotate_left; subst y)
    | ((try lift_lets); (with_reducible intro x); (try clear_value x))
    | split

theorem laneCauses_law (hQ : Law P Q) (hP : Has P [.tokens]) {n : Nat} {mask : Nat} {s : State} (hi0 : P (.one .lane n))  (h0 : Q s) :
    Q (laneCauses n mask s) := by
  unfold laneCauses
  repeat' first
    | with_reducible assumption
    | ((with_reducible refine boolGoal ?_); exact rfl)
    | ((with_reducible refine hP.one _ ?_); exact rfl)
    | ((with_reducible refine hQ.wrAt hP hi0 ?_ ?_); exact rfl)
    | with_reducible refine hQ.wr hP ?_ ?_
    | with_reducible refine emit_law hQ (hP.sub rfl) ?_
    | with_reducible refine Law.ite ?_ ?_
    | ((try lift_lets); (with_reducible intro y); (have hy : Q y := ?_); clear_value y; rotate_left; subst y)
    | ((try lift_lets); (with_reducible intro x); (try clear_value x))
    | split

theorem scanAbort_law (hQ : Law P Q) (hP : Has P [.tokens]) {n : Nat} {s : State} (hi0 : P (.one .lane n))  (h0 : Q s) :
    Q (scanAbort n s) := by
  unfold scanAbort
  repeat' first
    | with_reducible assumption
    | ((with_reducible refine boolGoal ?_); exact rfl)
    | ((with_reducible refine hP.one _ ?_); exact rfl)
    | with_reducible refine laneCause_law hQ (hP.sub rfl) ?_ ?_
    | ((with_reducible refine hQ.wrAt hP hi0 ?_ ?_); exact rfl)
    | with_reducible refine hQ.wr hP ?_ ?_
    | with_reducible refine Law.ite ?_ ?_
    | split

theorem txIdle_law (hQ : Law P Q) (hP : Has P []) {n : Nat} {s : State} (hi0 : P (.one .lane n))  (h0 : Q s) :
    Q (txIdle n s) := by
  unfold txIdle
  repeat' first
    | with_reducible assumption
    | ((with_reducible refine boolGoal ?_); exact rfl)
    | ((with_reducible refine hP.one _ ?_); exact rfl)
    | ((with_reducible refine hQ.wrAt hP hi0 ?_ ?_); exact rfl)
    | with_reducible refine hQ.wr hP ?_ ?_
    | ((try lift_lets); (with_reducible intro y); (have hy : Q y := ?_); clear_value y; rotate_left; subst y)
    | ((try lift_lets); (with_reducible intro x); (try clear_value x))

theorem stopPrbs_law (hQ : Law P Q) (hP : Has P [.lanes]) {n : Nat} {s : State} (hi0 : P (.one .lane n))  (h0 : Q s) :
    Q (stopPrbs n s) := by
  unfold stopPrbs
  repeat' first
    | with_reducible assumption
    | ((with_reducible refine boolGoal ?_); exact rfl)
    | ((with_reducible refine hP.one _ ?_); exact rfl)
    | ((with_reducible refine hQ.wrAllAt hP hi0 ?_ ?_); simp only [List.all]; exact rfl)
    | ((with_reducible refine hQ.wrAll hP ?_ ?_); simp only [List.all]; exact rfl)
    | with_reducible refine setLane_law hQ (hP.sub rfl) ?_
    | ((try lift_lets); (with_reducible intro y); (have hy : Q y := ?_); clear_value y; rotate_left; subst y)
    | ((try lift_lets); (with_reducible intro y); (have hy : Q y.1 := ?_); clear_value y; rotate_left; subst y)
    | ((try lift_lets); (with_reducible intro x); (try clear_value x))

theorem leavePrbs_law (hQ : Law P Q) (hP : Has P [.lanes]) {n : Nat} {s : State} (hi0 : P (.one .lane n))  (h0 : Q s) :
    Q (leavePrbs n s) := by
  unfold leavePrbs
  repeat' first
    | with_reducible assumption
    | ((with_reducible refine boolGoal ?_); exact rfl)
    | ((with_reducible refine hP.one _ ?_); exact rfl)
    | with_reducible refine stopPrbs_law hQ (hP.sub rfl) ?_ ?_
    | with_reducible refine Law.ite ?_ ?_
    | split

theorem trainFrom_law (hQ : Law P Q) (hP : Has P [.lanes]) {n : Nat} {k : Nat} {s : State} (hi0 : P (.one .lane n))  (h0 : Q s) :
    Q (trainFrom n k s) := by
  unfold trainFrom
  repeat' first
    | with_reducible assumption
    | ((with_reducible refine boolGoal ?_); exact rfl)
    | ((with_reducible refine hP.one _ ?_); exact rfl)
    | with_reducible refine leavePrbs_law hQ (hP.sub rfl) ?_ ?_
    | with_reducible refine setLane_law hQ (hP.sub rfl) ?_
    | with_reducible refine txIdle_law hQ (hP.sub rfl) ?_ ?_
    | ((with_reducible refine hQ.wrAllAt hP hi0 ?_ ?_); simp only [List.all]; exact rfl)
    | ((with_reducible refine hQ.wrAll hP ?_ ?_); simp only [List.all]; exact rfl)
    | ((try lift_lets); (with_reducible intro y); (have hy : Q y := ?_); clear_value y; rotate_left; subst y)
    | ((try lift_lets); (with_reducible intro y); (have hy : Q y.1 := ?_); clear_value y; rotate_left; subst y)
    | ((try lift_lets); (with_reducible intro x); (try clear_value x))

theorem giveLane_law (hQ : Law P Q) (hP : Has P [.grp 21, .damper, .tokens]) {n : Nat} {s : State}   (h0 : Q s) :
    Q (giveLane n s) := by
  unfold giveLane
  repeat' first
    | with_reducible assumption
    | ((with_reducible refine boolGoal ?_); exact rfl)
    | ((with_reducible refine hP.one _ ?_); exact rfl)
    | with_reducible refine release_law hQ (hP.sub rfl) ?_

theorem goCold_law (hQ : Law P Q) (hP : Has P [.grp 21, .damper, .lanes, .tokens]) {n : Nat} {s : State} (hi0 : P (.one .lane n))  (h0 : Q s) :
    Q (goCold n s) := by
  unfold goCold
  repeat' first
    | with_reducible assumption
    | ((with_reducible refine boolGoal ?_); exact rfl)
    | ((with_reducible refine hP.one _ ?_); exact rfl)
    | with_reducible refine leavePrbs_law hQ (hP.sub rfl) ?_ ?_
    | with_reducible refine scanAbort_law hQ (hP.sub rfl) ?_ ?_
    | with_reducible refine setLane_law hQ (hP.sub rfl) ?_
    | with_reducible refine giveLane_law hQ (hP.sub rfl) ?_
    | with_reducible refine txIdle_law hQ (hP.sub rfl) ?_ ?_
    | ((with_reducible refine hQ.wrAt hP hi0 ?_ ?_); exact rfl)
    | with_reducible refine hQ.wr hP ?_ ?_
    | ((try lift_lets); (with_reducible intro y); (have hy : Q y := ?_); clear_value y; rotate_left; subst y)
    | ((try lift_lets); (with_reducible intro y); (have hy : Q y.1 := ?_); clear_value y; rotate_left; subst y)
    | ((try lift_lets); (with_reducible intro x); (try clear_value x))

theorem startPrbs_law (hQ : Law P Q) (hP : Has P [.lanes, .tokens]) {n : Nat} {s : State} (hi0 : P (.one .lane n))  (h0 : Q s) :
    Q (startPrbs n s) := by
  unfold startPrbs
  repeat' first
    | with_reducible assumption
    | ((with_reducible refine boolGoal ?_); exact rfl)
    | ((with_reducible refine hP.one _ ?_); exact rfl)
    | with_reducible refine scanAbort_law hQ (hP.sub rfl) ?_ ?_
    | with_reducible refine setLane_law hQ (hP.sub rfl) ?_
    | ((with_reducible refine hQ.wrAllAt hP hi0 ?_ ?_); simp only [List.all]; exact rfl)
    | ((with_reducible refine hQ.wrAll hP ?_ ?_); simp only [List.all]; exact rfl)
    | ((with_reducible refine hQ.wrAt hP hi0 ?_ ?_); exact rfl)
    | with_reducible refine hQ.wr hP ?_ ?_
    | with_reducible refine txIdle_law hQ (hP.sub rfl) ?_ ?_
    | with_reducible refine Law.ite ?_ ?_
    | ((try lift_lets); (with_reducible intro y); (have hy : Q y := ?_); clear_value y; rotate_left; subst y)
    | ((try lift_lets); (with_reducible intro y); (have hy : Q y.1 := ?_); clear_value y; rotate_left; subst y)
    | ((try lift_lets); (with_reducible intro x); (try clear_value x))
    | split

theorem comeUp_law (hQ : Law P Q) (hP : Has P [.lanes, .tokens]) {n : Nat} {k : Nat} {s : State} (hi0 : P (.one .lane n))  (h0 : Q s) :
    Q (comeUp n k s) := by
  unfold comeUp
  repeat' first
    | with_reducible assumption
    | ((with_reducible refine boolGoal ?_); exact rfl)
    | ((with_reducible refine hP.one _ ?_); exact rfl)
    | with_reducible refine startPrbs_law hQ (hP.sub rfl) ?_ ?_
    | with_reducible refine trainFrom_law hQ (hP.sub rfl) ?_ ?_
    | with_reducible refine Law.ite ?_ ?_
    | split

theorem setHeldQ_law (hQ : Law P Q) (hP : Has P [.lanes, .tokens]) {n : Nat} {h : Nat} {s : State} (hi0 : P (.one .lane n))  (h0 : Q s) :
    Q (setHeldQ n h s) := by
  unfold setHeldQ
  repeat' first
    | with_reducible assumption
    | ((with_reducible refine boolGoal ?_); exact rfl)
    | ((with_reducible refine hP.one _ ?_); exact rfl)
    | with_reducible refine setLane_law hQ (hP.sub rfl) ?_
    | with_reducible refine laneCause_law hQ (hP.sub rfl) ?_ ?_
    | ((with_reducible refine hQ.wrAt hP hi0 ?_ ?_); exact rfl)
    | with_reducible refine hQ.wr hP ?_ ?_
    | ((with_reducible refine hQ.satAt hP hi0 ?_ ?_); exact rfl)
    | with_reducible refine hQ.sat hP ?_ ?_
    | with_reducible refine Law.ite ?_ ?_
    | ((try lift_lets); (with_reducible intro y); (have hy : Q y := ?_); clear_value y; rotate_left; subst y)
    | ((try lift_lets); (with_reducible intro y); (have hy : Q y.1 := ?_); clear_value y; rotate_left; subst y)
    | ((try lift_lets); (with_reducible intro x); (try clear_value x))
    | split

theorem holdQ_law (hQ : Law P Q) (hP : Has P [.lanes, .tokens]) {n : Nat} {q : Nat} {held : Bool} {s : State} (hi0 : P (.one .lane n))  (h0 : Q s) :
    Q (holdQ n q held s) := by
  unfold holdQ
  repeat' first
    | with_reducible assumption
    | ((with_reducible refine boolGoal ?_); exact rfl)
    | ((with_reducible refine hP.one _ ?_); exact rfl)
    | with_reducible refine setHeldQ_law hQ (hP.sub rfl) ?_ ?_
    | with_reducible refine Law.ite ?_ ?_
    | ((try lift_lets); (with_reducible intro y); (have hy : Q y := ?_); clear_value y; rotate_left; subst y)
    | ((try lift_lets); (with_reducible intro x); (try clear_value x))
    | split

theorem dueTap_law (hQ : Law P Q) (hP : Has P [.heads]) {n : Nat} {s : State}   (h0 : Q s) :
    Q (dueTap n s) := by
  unfold dueTap
  repeat' first
    | with_reducible assumption
    | ((with_reducible refine boolGoal ?_); exact rfl)
    | ((with_reducible refine hP.one _ ?_); exact rfl)
    | with_reducible refine setHead_law hQ (hP.sub rfl) ?_
    | ((try lift_lets); (with_reducible intro y); (have hy : Q y := ?_); clear_value y; rotate_left; subst y)
    | ((try lift_lets); (with_reducible intro y); (have hy : Q y.1 := ?_); clear_value y; rotate_left; subst y)
    | ((try lift_lets); (with_reducible intro x); (try clear_value x))
    | split
    | dsimp only

theorem sendTap_law (hQ : Law P Q) (hP : Has P [.heads, .lanes]) {n : Nat} {action : Nat} {tap : Nat} {vals : List Nat} {s : State}   (h0 : Q s) :
    Q (sendTap n action tap vals s) := by
  unfold sendTap
  repeat' first
    | with_reducible assumption
    | ((with_reducible refine boolGoal ?_); exact rfl)
    | ((with_reducible refine hP.one _ ?_); exact rfl)
    | with_reducible refine dueTap_law hQ (hP.sub rfl) ?_
    | with_reducible refine setLane_law hQ (hP.sub rfl) ?_
    | ((try lift_lets); (with_reducible intro y); (have hy : Q y := ?_); clear_value y; rotate_left; subst y)
    | ((try lift_lets); (with_reducible intro y); (have hy : Q y.1 := ?_); clear_value y; rotate_left; subst y)
    | ((try lift_lets); (with_reducible intro x); (try clear_value x))

theorem tapDone_law (hQ : Law P Q) (hP : Has P [.lanes]) {n : Nat} {s : State}   (h0 : Q s) :
    Q (tapDone n s) := by
  unfold tapDone
  repeat' first
    | with_reducible assumption
    | ((with_reducible refine boolGoal ?_); exact rfl)
    | ((with_reducible refine hP.one _ ?_); exact rfl)
    | with_reducible refine setLane_law hQ (hP.sub rfl) ?_
    | ((try lift_lets); (with_reducible intro y); (have hy : Q y := ?_); clear_value y; rotate_left; subst y)
    | ((try lift_lets); (with_reducible intro y); (have hy : Q y.1 := ?_); clear_value y; rotate_left; subst y)
    | ((try lift_lets); (with_reducible intro x); (try clear_value x))

theorem nextTap_law (hQ : Law P Q) (hP : Has P [.heads, .lanes, .tokens]) {n : Nat} {s : State} (hi0 : P (.one .lane n))  (h0 : Q s) :
    Q (nextTap n s) := by
  unfold nextTap
  repeat' first
    | with_reducible assumption
    | ((with_reducible refine boolGoal ?_); exact rfl)
    | ((with_reducible refine hP.one _ ?_); exact rfl)
    | with_reducible refine setHeldQ_law hQ (hP.sub rfl) ?_ ?_
    | with_reducible refine sendTap_law hQ (hP.sub rfl) ?_
    | with_reducible refine tapDone_law hQ (hP.sub rfl) ?_
    | with_reducible refine Law.ite ?_ ?_
    | with_reducible refine optAll.map (fun _ => ?_)
    | ((try lift_lets); (with_reducible intro y); (have hy : Q y := ?_); clear_value y; rotate_left; subst y)
    | ((try lift_lets); (with_reducible intro y); (have hy : Q y.2 := ?_); clear_value y; rotate_left; subst y)
    | ((try lift_lets); (with_reducible intro y); (have hy : Q y.1 := ?_); clear_value y; rotate_left; subst y)
    | ((try lift_lets); (with_reducible intro x); (try clear_value x))
    | split
    | dsimp only

theorem startTaps_law (hQ : Law P Q) (hP : Has P [.heads, .lanes, .tokens]) {n : Nat} {s : State} (hi0 : P (.one .lane n))  (h0 : Q s) :
    Q (startTaps n s) := by
  unfold startTaps
  repeat' first
    | with_reducible assumption
    | ((with_reducible refine boolGoal ?_); exact rfl)
    | ((with_reducible refine hP.one _ ?_); exact rfl)
    | with_reducible refine sendTap_law hQ (hP.sub rfl) ?_
    | with_reducible refine setHeldQ_law hQ (hP.sub rfl) ?_ ?_
    | with_reducible refine nextTap_law hQ (hP.sub rfl) ?_ ?_
    | with_reducible refine Law.ite ?_ ?_
    | with_reducible refine Law.foldl (fun _ _ _ => ?_) ?_
    | with_reducible refine Law.foldlBy Prod.snd (fun _ _ _ => ?_) ?_
    | with_reducible refine Law.foldlBy Prod.fst (fun _ _ _ => ?_) ?_
    | ((try lift_lets); (with_reducible intro y); (have hy : Q y := ?_); clear_value y; rotate_left; subst y)
    | ((try lift_lets); (with_reducible intro x); (try clear_value x))
    | split

theorem wakeTaps_law (hQ : Law P Q) (hP : Has P [.all .lane, .heads, .lanes, .tokens]) {h : Nat} {s : State}   (h0 : Q s) :
    Q (wakeTaps h s) := by
  unfold wakeTaps
  repeat' first
    | with_reducible assumption
    | ((with_reducible refine boolGoal ?_); exact rfl)
    | ((with_reducible refine hP.inst ?_); exact rfl)
    | ((with_reducible refine hP.one _ ?_); exact rfl)
    | with_reducible refine startTaps_law hQ (hP.sub rfl) ?_ ?_
    | with_reducible refine Law.ite ?_ ?_
    | with_reducible refine Law.foldl (fun _ _ _ => ?_) ?_
    | with_reducible refine Law.foldlBy Prod.snd (fun _ _ _ => ?_) ?_
    | with_reducible refine Law.foldlBy Prod.fst (fun _ _ _ => ?_) ?_
    | ((try lift_lets); (with_reducible intro y); (have hy : Q y := ?_); clear_value y; rotate_left; subst y)
    | ((try lift_lets); (with_reducible intro y); (have hy : Q y.1 := ?_); clear_value y; rotate_left; subst y)
    | ((try lift_lets); (with_reducible intro x); (try clear_value x))
    | split

theorem wakeTapsOf_law (hQ : Law P Q) (hP : Has P [.all .lane, .heads, .lanes, .tokens]) {n : Nat} {s : State}   (h0 : Q s) :
    Q (wakeTapsOf n s) := by
  unfold wakeTapsOf
  repeat' first
    | with_reducible assumption
    | ((with_reducible refine boolGoal ?_); exact rfl)
    | ((with_reducible refine hP.inst ?_); exact rfl)
    | ((with_reducible refine hP.one _ ?_); exact rfl)
    | with_reducible refine wakeTaps_law hQ (hP.sub rfl) ?_
    | ((try lift_lets); (with_reducible intro y); (have hy : Q y := ?_); clear_value y; rotate_left; subst y)
    | ((try lift_lets); (with_reducible intro x); (try clear_value x))
    | split
    | dsimp only

theorem setDfe_law (hQ : Law P Q) (hP : Has P []) {n : Nat} {v : Int} {k : Nat} {s : State} (hi0 : P (.one .lane n))  (h0 : Q s) :
    Q (setDfe n v k s) := by
  unfold setDfe
  repeat' first
    | with_reducible assumption
    | ((with_reducible refine boolGoal ?_); exact rfl)
    | ((with_reducible refine hP.one _ ?_); exact rfl)
    | ((with_reducible refine hQ.wr2At hP hi0 ?_ ?_); exact rfl)
    | with_reducible refine hQ.wr2 hP ?_ ?_
    | with_reducible refine Law.ite ?_ ?_
    | ((try lift_lets); (with_reducible intro y); (have hy : Q y := ?_); clear_value y; rotate_left; subst y)
    | ((try lift_lets); (with_reducible intro x); (try clear_value x))
    | split

theorem adaptC_law (hQ : Law P Q) (hP : Has P [.lanes, .tokens]) {n : Nat} {code : Nat} {s : State} (hi0 : P (.one .lane n))  (h0 : Q s) :
    Q (adaptC n code s) := by
  unfold adaptC
  repeat' first
    | with_reducible assumption
    | ((with_reducible refine boolGoal ?_); exact rfl)
    | ((with_reducible refine hP.one _ ?_); exact rfl)
    | with_reducible refine holdQ_law hQ (hP.sub rfl) ?_ ?_
    | ((with_reducible refine hQ.wrAt hP hi0 ?_ ?_); exact rfl)
    | with_reducible refine hQ.wr hP ?_ ?_
    | ((try lift_lets); (with_reducible intro y); (have hy : Q y := ?_); clear_value y; rotate_left; subst y)
    | ((try lift_lets); (with_reducible intro x); (try clear_value x))

theorem adaptD_law (hQ : Law P Q) (hP : Has P [.lanes, .tokens]) {n : Nat} {k : Nat} {v : Int} {s : State} (hi0 : P (.one .lane n))  (h0 : Q s) :
    Q (adaptD n k v s) := by
  unfold adaptD
  repeat' first
    | with_reducible assumption
    | ((with_reducible refine boolGoal ?_); exact rfl)
    | ((with_reducible refine hP.one _ ?_); exact rfl)
    | with_reducible refine setDfe_law hQ (hP.sub rfl) ?_ ?_
    | with_reducible refine holdQ_law hQ (hP.sub rfl) ?_ ?_
    | with_reducible refine Law.ite ?_ ?_
    | ((try lift_lets); (with_reducible intro y); (have hy : Q y := ?_); clear_value y; rotate_left; subst y)
    | ((try lift_lets); (with_reducible intro x); (try clear_value x))
    | split

theorem laneOff_law (hQ : Law P Q) (hP : Has P [.grp 21, .damper, .lanes, .tokens]) {n : Nat} {s : State} (hi0 : P (.one .lane n))  (h0 : Q s) :
    Q (laneOff n s) := by
  unfold laneOff
  repeat' first
    | with_reducible assumption
    | ((with_reducible refine boolGoal ?_); exact rfl)
    | ((with_reducible refine hP.one _ ?_); exact rfl)
    | with_reducible refine leavePrbs_law hQ (hP.sub rfl) ?_ ?_
    | with_reducible refine setLane_law hQ (hP.sub rfl) ?_
    | with_reducible refine giveLane_law hQ (hP.sub rfl) ?_
    | with_reducible refine txIdle_law hQ (hP.sub rfl) ?_ ?_
    | ((with_reducible refine hQ.wrAt hP hi0 ?_ ?_); exact rfl)
    | with_reducible refine hQ.wr hP ?_ ?_
    | ((try lift_lets); (with_reducible intro y); (have hy : Q y := ?_); clear_value y; rotate_left; subst y)
    | ((try lift_lets); (with_reducible intro y); (have hy : Q y.1 := ?_); clear_value y; rotate_left; subst y)
    | ((try lift_lets); (with_reducible intro x); (try clear_value x))

theorem rateChanged_law (hQ : Law P Q) (hP : Has P [.grp 21, .damper, .lanes, .tokens]) {n : Nat} {old : Nat} {s : State} (hi0 : P (.one .lane n))  (h0 : Q s) :
    Q (rateChanged n old s) := by
  unfold rateChanged
  repeat' first
    | with_reducible assumption
    | ((with_reducible refine boolGoal ?_); exact rfl)
    | ((with_reducible refine hP.one _ ?_); exact rfl)
    | with_reducible refine laneOff_law hQ (hP.sub rfl) ?_ ?_
    | with_reducible refine txIdle_law hQ (hP.sub rfl) ?_ ?_
    | ((with_reducible refine hQ.wrAt hP hi0 ?_ ?_); exact rfl)
    | with_reducible refine hQ.wr hP ?_ ?_
    | with_reducible refine setLane_law hQ (hP.sub rfl) ?_
    | with_reducible refine Law.ite ?_ ?_
    | ((try lift_lets); (with_reducible intro y); (have hy : Q y := ?_); clear_value y; rotate_left; subst y)
    | ((try lift_lets); (with_reducible intro y); (have hy : Q y.1 := ?_); clear_value y; rotate_left; subst y)
    | ((try lift_lets); (with_reducible intro x); (try clear_value x))
    | split

theorem applyBounds_law (hQ : Law P Q) (hP : Has P [.lanes, .tokens]) {n : Nat} {s : State} (hi0 : P (.one .lane n))  (h0 : Q s) :
    Q (applyBounds n s) := by
  unfold applyBounds
  repeat' first
    | with_reducible assumption
    | ((with_reducible refine boolGoal ?_); exact rfl)
    | ((with_reducible refine hP.one _ ?_); exact rfl)
    | with_reducible refine holdQ_law hQ (hP.sub rfl) ?_ ?_
    | ((with_reducible refine hQ.wrAt hP hi0 ?_ ?_); exact rfl)
    | with_reducible refine hQ.wr hP ?_ ?_
    | with_reducible refine setDfe_law hQ (hP.sub rfl) ?_ ?_
    | with_reducible refine Law.ite ?_ ?_
    | ((try lift_lets); (with_reducible intro y); (have hy : Q y := ?_); clear_value y; rotate_left; subst y)
    | ((try lift_lets); (with_reducible intro x); (try clear_value x))
    | split

theorem execSlaCfg_law (hQ : Law P Q) (hP : Has P [.grp 0, .grp 21, .grp 64, .damper, .lanes, .procs, .sampled, .seq, .tokens]) {x : XWord} {s : State} (hi0 : P (.one .lane (xargs s x).i))  (h0 : Q s) :
    outAll Q (execSlaCfg x s) := by
  unfold execSlaCfg
  repeat' first
    | with_reducible assumption
    | ((with_reducible refine boolGoal ?_); exact rfl)
    | ((with_reducible refine hP.one _ ?_); exact rfl)
    | with_reducible refine direct_law hQ (hP.sub rfl) (fun _ => ?_) ?_
    | with_reducible refine rateChanged_law hQ (hP.sub rfl) ?_ ?_
    | with_reducible refine applyBounds_law hQ (hP.sub rfl) ?_ ?_
    | ((with_reducible refine hQ.blockWriteAt hP hi0 ?_ ?_); simp only [List.all, slaCfgFields]; exact rfl)
    | ((with_reducible refine hQ.blockWrite hP ?_ ?_); simp only [List.all, slaCfgFields]; exact rfl)
    | with_reducible refine Law.ite ?_ ?_
    | with_reducible refine excPair ?_
    | with_reducible refine excState ?_
    | with_reducible exact excError
    | with_reducible refine iteExc ?_ ?_
    | with_reducible refine outOk ?_
    | with_reducible exact outFault
    | with_reducible refine outWithin ?_
    | with_reducible refine iteOut ?_ ?_
    | ((try lift_lets); (with_reducible intro y); (have hy : Q y := ?_); clear_value y; rotate_left; subst y)
    | ((try lift_lets); (with_reducible intro x); (try clear_value x))
    | split

theorem execSlaTxtaps_law (hQ : Law P Q) (hP : Has P [.grp 0, .grp 64, .procs, .sampled, .seq, .tokens]) {x : XWord} {s : State} (hi0 : P (.one .lane (xargs s x).i))  (h0 : Q s) :
    outAll Q (execSlaTxtaps x s) := by
  unfold execSlaTxtaps
  repeat' first
    | with_reducible assumption
    | ((with_reducible refine boolGoal ?_); exact rfl)
    | ((with_reducible refine hP.one _ ?_); exact rfl)
    | with_reducible refine direct_law hQ (hP.sub rfl) (fun _ => ?_) ?_
    | ((with_reducible refine hQ.wrAllAt hP hi0 ?_ ?_); simp only [List.all]; exact rfl)
    | ((with_reducible refine hQ.wrAll hP ?_ ?_); simp only [List.all]; exact rfl)
    | with_reducible refine Law.ite ?_ ?_
    | with_reducible refine excPair ?_
    | with_reducible refine excState ?_
    | with_reducible exact excError
    | with_reducible refine iteExc ?_ ?_
    | with_reducible refine outOk ?_
    | with_reducible exact outFault
    | with_reducible refine outWithin ?_
    | with_reducible refine iteOut ?_ ?_
    | ((try lift_lets); (with_reducible intro y); (have hy : Q y := ?_); clear_value y; rotate_left; subst y)
    | ((try lift_lets); (with_reducible intro x); (try clear_value x))
    | split

theorem wake_law (hQ : Law P Q) (hP : Has P [.grp 21, .damper, .lanes, .tokens]) {n : Nat} {s : State}   (h0 : Q s) :
    Q (wake n s) := by
  unfold wake
  repeat' first
    | with_reducible assumption
    | ((with_reducible refine boolGoal ?_); exact rfl)
    | ((with_reducible refine hP.one _ ?_); exact rfl)
    | with_reducible refine setLane_law hQ (hP.sub rfl) ?_
    | with_reducible refine request_law hQ (hP.sub rfl) ?_
    | with_reducible refine Law.ite ?_ ?_
    | ((try lift_lets); (with_reducible intro y); (have hy : Q y := ?_); clear_value y; rotate_left; subst y)
    | ((try lift_lets); (with_reducible intro y); (have hy : Q y.1 := ?_); clear_value y; rotate_left; subst y)
    | ((try lift_lets); (with_reducible intro x); (try clear_value x))
    | split

theorem rxSleep_law (hQ : Law P Q) (hP : Has P [.lanes, .tokens]) {n : Nat} {s : State} (hi0 : P (.one .lane n))  (h0 : Q s) :
    Q (rxSleep n s) := by
  unfold rxSleep
  repeat' first
    | with_reducible assumption
    | ((with_reducible refine boolGoal ?_); exact rfl)
    | ((with_reducible refine hP.one _ ?_); exact rfl)
    | with_reducible refine leavePrbs_law hQ (hP.sub rfl) ?_ ?_
    | with_reducible refine scanAbort_law hQ (hP.sub rfl) ?_ ?_
    | with_reducible refine txIdle_law hQ (hP.sub rfl) ?_ ?_
    | with_reducible refine setLane_law hQ (hP.sub rfl) ?_
    | ((with_reducible refine hQ.wrAt hP hi0 ?_ ?_); exact rfl)
    | with_reducible refine hQ.wr hP ?_ ?_
    | ((try lift_lets); (with_reducible intro y); (have hy : Q y := ?_); clear_value y; rotate_left; subst y)
    | ((try lift_lets); (with_reducible intro y); (have hy : Q y.1 := ?_); clear_value y; rotate_left; subst y)
    | ((try lift_lets); (with_reducible intro x); (try clear_value x))

theorem applyPower_law (hQ : Law P Q) (hP : Has P [.grp 21, .damper, .lanes, .tokens]) {n : Nat} {s : State} (hi0 : P (.one .lane n))  (h0 : Q s) :
    Q (applyPower n s) := by
  unfold applyPower
  repeat' first
    | with_reducible assumption
    | ((with_reducible refine boolGoal ?_); exact rfl)
    | ((with_reducible refine hP.one _ ?_); exact rfl)
    | with_reducible refine setLane_law hQ (hP.sub rfl) ?_
    | with_reducible refine goCold_law hQ (hP.sub rfl) ?_ ?_
    | with_reducible refine txIdle_law hQ (hP.sub rfl) ?_ ?_
    | with_reducible refine wake_law hQ (hP.sub rfl) ?_
    | with_reducible refine rxSleep_law hQ (hP.sub rfl) ?_ ?_
    | with_reducible refine trainFrom_law hQ (hP.sub rfl) ?_ ?_
    | with_reducible refine Law.ite ?_ ?_
    | ((try lift_lets); (with_reducible intro y); (have hy : Q y := ?_); clear_value y; rotate_left; subst y)
    | ((try lift_lets); (with_reducible intro y); (have hy : Q y.1 := ?_); clear_value y; rotate_left; subst y)
    | ((try lift_lets); (with_reducible intro x); (try clear_value x))
    | split

theorem execSlaPower_law (hQ : Law P Q) (hP : Has P [.all .lane, .grp 0, .grp 21, .grp 64, .damper, .heads, .lanes, .procs, .sampled, .seq, .tokens]) {x : XWord} {s : State}   (h0 : Q s) :
    outAll Q (execSlaPower x s) := by
  unfold execSlaPower
  repeat' first
    | with_reducible assumption
    | ((with_reducible refine boolGoal ?_); exact rfl)
    | ((with_reducible refine hP.inst ?_); exact rfl)
    | ((with_reducible refine hP.one _ ?_); exact rfl)
    | with_reducible refine direct_law hQ (hP.sub rfl) (fun _ => ?_) ?_
    | with_reducible refine wakeTapsOf_law hQ (hP.sub rfl) ?_
    | with_reducible refine applyPower_law hQ (hP.sub rfl) ?_ ?_
    | ((with_reducible refine hQ.wrAll hP ?_ ?_); simp only [List.all]; exact rfl)
    | with_reducible refine Law.ite ?_ ?_
    | with_reducible refine excPair ?_
    | with_reducible refine excState ?_
    | with_reducible exact excError
    | with_reducible refine iteExc ?_ ?_
    | with_reducible refine outOk ?_
    | with_reducible exact outFault
    | with_reducible refine outWithin ?_
    | with_reducible refine iteOut ?_ ?_
    | ((try lift_lets); (with_reducible intro y); (have hy : Q y := ?_); clear_value y; rotate_left; subst y)
    | ((try lift_lets); (with_reducible intro x); (try clear_value x))
    | split

theorem startTrain_law (hQ : Law P Q) (hP : Has P [.grp 21, .damper, .lanes, .tokens]) {n : Nat} {s : State} (hi0 : P (.one .lane n))  (h0 : Q s) :
    Q (startTrain n s) := by
  unfold startTrain
  repeat' first
    | with_reducible assumption
    | ((with_reducible refine boolGoal ?_); exact rfl)
    | ((with_reducible refine hP.one _ ?_); exact rfl)
    | with_reducible refine stopPrbs_law hQ (hP.sub rfl) ?_ ?_
    | ((with_reducible refine hQ.wrAllAt hP hi0 ?_ ?_); simp only [List.all]; exact rfl)
    | ((with_reducible refine hQ.wrAll hP ?_ ?_); simp only [List.all]; exact rfl)
    | with_reducible refine setLane_law hQ (hP.sub rfl) ?_
    | with_reducible refine wake_law hQ (hP.sub rfl) ?_
    | with_reducible refine trainFrom_law hQ (hP.sub rfl) ?_ ?_
    | with_reducible refine Law.ite ?_ ?_
    | ((try lift_lets); (with_reducible intro y); (have hy : Q y := ?_); clear_value y; rotate_left; subst y)
    | ((try lift_lets); (with_reducible intro y); (have hy : Q y.1 := ?_); clear_value y; rotate_left; subst y)
    | ((try lift_lets); (with_reducible intro x); (try clear_value x))
    | split

theorem execSlaTrain_law (hQ : Law P Q) (hP : Has P [.grp 0, .grp 21, .grp 64, .damper, .lanes, .procs, .sampled, .seq, .tokens]) {x : XWord} {s : State} (hi0 : P (.one .lane (xargs s x).i))  (h0 : Q s) :
    outAll Q (execSlaTrain x s) := by
  unfold execSlaTrain
  repeat' first
    | with_reducible assumption
    | ((with_reducible refine boolGoal ?_); exact rfl)
    | ((with_reducible refine hP.one _ ?_); exact rfl)
    | with_reducible refine direct_law hQ (hP.sub rfl) (fun _ => ?_) ?_
    | with_reducible refine startTrain_law hQ (hP.sub rfl) ?_ ?_
    | with_reducible refine Law.ite ?_ ?_
    | with_reducible refine excPair ?_
    | with_reducible refine excState ?_
    | with_reducible exact excError
    | with_reducible refine iteExc ?_ ?_
    | with_reducible refine outOk ?_
    | with_reducible exact outFault
    | with_reducible refine outWithin ?_
    | with_reducible refine iteOut ?_ ?_
    | ((try lift_lets); (with_reducible intro x); (try clear_value x))
    | split

theorem execSlaPrbs_law (hQ : Law P Q) (hP : Has P [.grp 0, .grp 21, .grp 64, .damper, .lanes, .procs, .sampled, .seq, .tokens]) {x : XWord} {s : State} (hi0 : P (.one .lane (xargs s x).i))  (h0 : Q s) :
    outAll Q (execSlaPrbs x s) := by
  unfold execSlaPrbs
  repeat' first
    | with_reducible assumption
    | ((with_reducible refine boolGoal ?_); exact rfl)
    | ((with_reducible refine hP.one _ ?_); exact rfl)
    | with_reducible refine direct_law hQ (hP.sub rfl) (fun _ => ?_) ?_
    | ((with_reducible refine hQ.wrAllAt hP hi0 ?_ ?_); simp only [List.all]; exact rfl)
    | ((with_reducible refine hQ.wrAll hP ?_ ?_); simp only [List.all]; exact rfl)
    | with_reducible refine startPrbs_law hQ (hP.sub rfl) ?_ ?_
    | with_reducible refine laneOff_law hQ (hP.sub rfl) ?_ ?_
    | with_reducible refine trainFrom_law hQ (hP.sub rfl) ?_ ?_
    | with_reducible refine Law.ite ?_ ?_
    | with_reducible refine excPair ?_
    | with_reducible refine excState ?_
    | with_reducible exact excError
    | with_reducible refine iteExc ?_ ?_
    | with_reducible refine outOk ?_
    | with_reducible exact outFault
    | with_reducible refine outWithin ?_
    | with_reducible refine iteOut ?_ ?_
    | ((try lift_lets); (with_reducible intro y); (have hy : Q y := ?_); clear_value y; rotate_left; subst y)
    | ((try lift_lets); (with_reducible intro x); (try clear_value x))
    | split

theorem execSlaInject_law (hQ : Law P Q) (hP : Has P [.grp 0, .grp 64, .lanes, .procs, .sampled, .seq, .tokens]) {x : XWord} {s : State}   (h0 : Q s) :
    outAll Q (execSlaInject x s) := by
  unfold execSlaInject
  repeat' first
    | with_reducible assumption
    | ((with_reducible refine boolGoal ?_); exact rfl)
    | ((with_reducible refine hP.one _ ?_); exact rfl)
    | with_reducible refine direct_law hQ (hP.sub rfl) (fun _ => ?_) ?_
    | with_reducible refine setLane_law hQ (hP.sub rfl) ?_
    | with_reducible refine Law.ite ?_ ?_
    | with_reducible refine excPair ?_
    | with_reducible refine excState ?_
    | with_reducible exact excError
    | with_reducible refine iteExc ?_ ?_
    | with_reducible refine outOk ?_
    | with_reducible exact outFault
    | with_reducible refine outWithin ?_
    | with_reducible refine iteOut ?_ ?_
    | ((try lift_lets); (with_reducible intro y); (have hy : Q y := ?_); clear_value y; rotate_left; subst y)
    | ((try lift_lets); (with_reducible intro y); (have hy : Q y.1 := ?_); clear_value y; rotate_left; subst y)
    | ((try lift_lets); (with_reducible intro x); (try clear_value x))
    | split

theorem execSlaEyescan_law (hQ : Law P Q) (hP : Has P [.grp 0, .grp 64, .lanes, .procs, .sampled, .seq, .tokens]) {x : XWord} {s : State} (hi0 : P (.one .lane (xargs s x).i))  (h0 : Q s) :
    outAll Q (execSlaEyescan x s) := by
  unfold execSlaEyescan
  repeat' first
    | with_reducible assumption
    | ((with_reducible refine boolGoal ?_); exact rfl)
    | ((with_reducible refine hP.one _ ?_); exact rfl)
    | with_reducible refine direct_law hQ (hP.sub rfl) (fun _ => ?_) ?_
    | ((with_reducible refine hQ.wrAt hP hi0 ?_ ?_); exact rfl)
    | with_reducible refine hQ.wr hP ?_ ?_
    | with_reducible refine scanAbort_law hQ (hP.sub rfl) ?_ ?_
    | with_reducible refine setLane_law hQ (hP.sub rfl) ?_
    | with_reducible refine Law.ite ?_ ?_
    | with_reducible refine excPair ?_
    | with_reducible refine excState ?_
    | with_reducible exact excError
    | with_reducible refine iteExc ?_ ?_
    | with_reducible refine outOk ?_
    | with_reducible exact outFault
    | with_reducible refine outWithin ?_
    | with_reducible refine iteOut ?_ ?_
    | ((try lift_lets); (with_reducible intro y); (have hy : Q y := ?_); clear_value y; rotate_left; subst y)
    | ((try lift_lets); (with_reducible intro y); (have hy : Q y.1 := ?_); clear_value y; rotate_left; subst y)
    | ((try lift_lets); (with_reducible intro x); (try clear_value x))
    | split

theorem execSlaRefsel_law (hQ : Law P Q) (hP : Has P [.grp 0, .grp 64, .procs, .sampled, .seq, .tokens]) {x : XWord} {s : State} (hi0 : P (.one .laneGroup (xargs s x).i))  (h0 : Q s) :
    outAll Q (execSlaRefsel x s) := by
  unfold execSlaRefsel
  repeat' first
    | with_reducible assumption
    | ((with_reducible refine boolGoal ?_); exact rfl)
    | ((with_reducible refine hP.one _ ?_); exact rfl)
    | with_reducible refine direct_law hQ (hP.sub rfl) (fun _ => ?_) ?_
    | ((with_reducible refine hQ.wrAt hP hi0 ?_ ?_); exact rfl)
    | with_reducible refine hQ.wr hP ?_ ?_
    | with_reducible refine Law.ite ?_ ?_
    | with_reducible refine excPair ?_
    | with_reducible refine excState ?_
    | with_reducible exact excError
    | with_reducible refine iteExc ?_ ?_
    | with_reducible refine outOk ?_
    | with_reducible exact outFault
    | with_reducible refine outWithin ?_
    | with_reducible refine iteOut ?_ ?_
    | with_reducible refine optAll.map (fun _ => ?_)
    | ((try lift_lets); (with_reducible intro y); (have hy : Q y := ?_); clear_value y; rotate_left; subst y)
    | ((try lift_lets); (with_reducible intro x); (try clear_value x))
    | split

theorem execSlaEyecfg_law (hQ : Law P Q) (hP : Has P [.grp 0, .grp 1, .grp 64, .procs, .sampled, .seq, .tokens]) {x : XWord} {s : State}   (h0 : Q s) :
    outAll Q (execSlaEyecfg x s) := by
  unfold execSlaEyecfg
  repeat' first
    | with_reducible assumption
    | ((with_reducible refine boolGoal ?_); exact rfl)
    | ((with_reducible refine hP.one _ ?_); exact rfl)
    | with_reducible refine xop_law hQ (hP.sub rfl) (fun _ => ?_) ?_
    | ((with_reducible refine hQ.wrAll hP ?_ ?_); simp only [List.all]; exact rfl)
    | with_reducible refine resFin ?_
    | with_reducible refine resNo ?_
    | with_reducible refine resStart ?_
    | with_reducible refine resForm ?_
    | with_reducible refine resGone ?_
    | with_reducible refine resHold ?_
    | with_reducible refine iteRes ?_ ?_
    | with_reducible refine outOk ?_
    | with_reducible exact outFault
    | with_reducible refine outWithin ?_
    | with_reducible refine iteOut ?_ ?_
    | ((try lift_lets); (with_reducible intro x); (try clear_value x))

theorem execLaneWake_law (hQ : Law P Q) (hP : Has P [.lanes, .tokens]) {n : Nat} {s : State} (hi0 : P (.one .lane n))  (h0 : Q s) :
    outAll Q (execLaneWake n s) := by
  unfold execLaneWake
  repeat' first
    | with_reducible assumption
    | ((with_reducible refine boolGoal ?_); exact rfl)
    | ((with_reducible refine hP.one _ ?_); exact rfl)
    | with_reducible refine comeUp_law hQ (hP.sub rfl) ?_ ?_
    | ((with_reducible refine hQ.wrAt hP hi0 ?_ ?_); exact rfl)
    | with_reducible refine hQ.wr hP ?_ ?_
    | with_reducible refine setLane_law hQ (hP.sub rfl) ?_
    | with_reducible refine Law.ite ?_ ?_
    | with_reducible refine outOk ?_
    | with_reducible exact outFault
    | with_reducible refine outWithin ?_
    | with_reducible refine iteOut ?_ ?_
    | ((try lift_lets); (with_reducible intro y); (have hy : Q y := ?_); clear_value y; rotate_left; subst y)
    | ((try lift_lets); (with_reducible intro y); (have hy : Q y.1 := ?_); clear_value y; rotate_left; subst y)
    | ((try lift_lets); (with_reducible intro x); (try clear_value x))
    | split

theorem execSignalDetect_law (hQ : Law P Q) (hP : Has P [.all .lane, .heads, .lanes, .tokens]) {n : Nat} {ctle : Nat} {s : State}   (h0 : Q s) :
    outAll Q (execSignalDetect n ctle s) := by
  unfold execSignalDetect
  repeat' first
    | with_reducible assumption
    | ((with_reducible refine boolGoal ?_); exact rfl)
    | ((with_reducible refine hP.inst ?_); exact rfl)
    | ((with_reducible refine hP.one _ ?_); exact rfl)
    | with_reducible refine wakeTapsOf_law hQ (hP.sub rfl) ?_
    | with_reducible refine adaptC_law hQ (hP.sub rfl) ?_ ?_
    | with_reducible refine setLane_law hQ (hP.sub rfl) ?_
    | with_reducible refine Law.ite ?_ ?_
    | with_reducible refine outOk ?_
    | with_reducible exact outFault
    | with_reducible refine outWithin ?_
    | with_reducible refine iteOut ?_ ?_
    | ((try lift_lets); (with_reducible intro y); (have hy : Q y := ?_); clear_value y; rotate_left; subst y)
    | ((try lift_lets); (with_reducible intro y); (have hy : Q y.1 := ?_); clear_value y; rotate_left; subst y)
    | ((try lift_lets); (with_reducible intro x); (try clear_value x))
    | split

theorem execBlockLock_law (hQ : Law P Q) (hP : Has P [.lanes]) {n : Nat} {s : State}   (h0 : Q s) :
    outAll Q (execBlockLock n s) := by
  unfold execBlockLock
  repeat' first
    | with_reducible assumption
    | ((with_reducible refine boolGoal ?_); exact rfl)
    | ((with_reducible refine hP.one _ ?_); exact rfl)
    | with_reducible refine setLane_law hQ (hP.sub rfl) ?_
    | with_reducible refine Law.ite ?_ ?_
    | with_reducible refine outOk ?_
    | with_reducible exact outFault
    | with_reducible refine outWithin ?_
    | with_reducible refine iteOut ?_ ?_
    | ((try lift_lets); (with_reducible intro y); (have hy : Q y := ?_); clear_value y; rotate_left; subst y)
    | ((try lift_lets); (with_reducible intro y); (have hy : Q y.1 := ?_); clear_value y; rotate_left; subst y)
    | ((try lift_lets); (with_reducible intro x); (try clear_value x))
    | split

theorem execLockLost_law (hQ : Law P Q) (hP : Has P [.all .wlkPort, .lanes, .tokens, .wlk]) {n : Nat} {s : State} (hi0 : P (.one .lane n))  (h0 : Q s) :
    outAll Q (execLockLost n s) := by
  unfold execLockLost
  repeat' first
    | with_reducible assumption
    | ((with_reducible refine boolGoal ?_); exact rfl)
    | ((with_reducible refine hP.inst ?_); exact rfl)
    | ((with_reducible refine hP.one _ ?_); exact rfl)
    | with_reducible refine portDown_law hQ (hP.sub rfl) ?_ ?_
    | ((with_reducible refine hQ.satAt hP hi0 ?_ ?_); exact rfl)
    | with_reducible refine hQ.sat hP ?_ ?_
    | with_reducible refine laneCause_law hQ (hP.sub rfl) ?_ ?_
    | ((with_reducible refine hQ.wrAt hP hi0 ?_ ?_); exact rfl)
    | with_reducible refine hQ.wr hP ?_ ?_
    | with_reducible refine setLane_law hQ (hP.sub rfl) ?_
    | with_reducible refine Law.ite ?_ ?_
    | with_reducible refine outOk ?_
    | with_reducible exact outFault
    | with_reducible refine outWithin ?_
    | with_reducible refine iteOut ?_ ?_
    | ((try lift_lets); (with_reducible intro y); (have hy : Q y := ?_); clear_value y; rotate_left; subst y)
    | ((try lift_lets); (with_reducible intro y); (have hy : Q y.1 := ?_); clear_value y; rotate_left; subst y)
    | ((try lift_lets); (with_reducible intro x); (try clear_value x))
    | split

theorem execRelockTimeout_law (hQ : Law P Q) (hP : Has P [.lanes]) {n : Nat} {s : State} (hi0 : P (.one .lane n))  (h0 : Q s) :
    outAll Q (execRelockTimeout n s) := by
  unfold execRelockTimeout
  repeat' first
    | with_reducible assumption
    | ((with_reducible refine boolGoal ?_); exact rfl)
    | ((with_reducible refine hP.one _ ?_); exact rfl)
    | with_reducible refine trainFrom_law hQ (hP.sub rfl) ?_ ?_
    | with_reducible refine Law.ite ?_ ?_
    | with_reducible refine outOk ?_
    | with_reducible exact outFault
    | with_reducible refine outWithin ?_
    | with_reducible refine iteOut ?_ ?_
    | ((try lift_lets); (with_reducible intro y); (have hy : Q y := ?_); clear_value y; rotate_left; subst y)
    | ((try lift_lets); (with_reducible intro y); (have hy : Q y.1 := ?_); clear_value y; rotate_left; subst y)
    | ((try lift_lets); (with_reducible intro x); (try clear_value x))
    | split

theorem execTrainStepTimeout_law (hQ : Law P Q) (hP : Has P [.all .lane, .lanes, .tokens]) {n : Nat} {s : State}   (h0 : Q s) :
    outAll Q (execTrainStepTimeout n s) := by
  unfold execTrainStepTimeout
  repeat' first
    | with_reducible assumption
    | ((with_reducible refine boolGoal ?_); exact rfl)
    | ((with_reducible refine hP.inst ?_); exact rfl)
    | ((with_reducible refine hP.one _ ?_); exact rfl)
    | with_reducible refine laneCauses_law hQ (hP.sub rfl) ?_ ?_
    | with_reducible refine laneCause_law hQ (hP.sub rfl) ?_ ?_
    | with_reducible refine setLane_law hQ (hP.sub rfl) ?_
    | with_reducible refine Law.ite ?_ ?_
    | with_reducible refine outOk ?_
    | with_reducible exact outFault
    | with_reducible refine outWithin ?_
    | with_reducible refine iteOut ?_ ?_
    | with_reducible refine Law.foldl (fun _ _ _ => ?_) ?_
    | with_reducible refine Law.foldlBy Prod.snd (fun _ _ _ => ?_) ?_
    | with_reducible refine Law.foldlBy Prod.fst (fun _ _ _ => ?_) ?_
    | ((try lift_lets); (with_reducible intro y); (have hy : Q y := ?_); clear_value y; rotate_left; subst y)
    | ((try lift_lets); (with_reducible intro y); (have hy : Q y.1 := ?_); clear_value y; rotate_left; subst y)
    | ((try lift_lets); (with_reducible intro x); (try clear_value x))
    | split

theorem execTrainRetry_law (hQ : Law P Q) (hP : Has P [.lanes]) {n : Nat} {s : State} (hi0 : P (.one .lane n))  (h0 : Q s) :
    outAll Q (execTrainRetry n s) := by
  unfold execTrainRetry
  repeat' first
    | with_reducible assumption
    | ((with_reducible refine boolGoal ?_); exact rfl)
    | ((with_reducible refine hP.one _ ?_); exact rfl)
    | with_reducible refine trainFrom_law hQ (hP.sub rfl) ?_ ?_
    | with_reducible refine Law.ite ?_ ?_
    | with_reducible refine outOk ?_
    | with_reducible exact outFault
    | with_reducible refine outWithin ?_
    | with_reducible refine iteOut ?_ ?_
    | ((try lift_lets); (with_reducible intro y); (have hy : Q y := ?_); clear_value y; rotate_left; subst y)
    | ((try lift_lets); (with_reducible intro x); (try clear_value x))
    | split

theorem execHiberWindow_law (hQ : Law P Q) (hP : Has P [.grp 64, .tokens]) {n : Nat} {bad : Nat} {s : State} (hi0 : P (.one .lane n))  (h0 : Q s) :
    outAll Q (execHiberWindow n bad s) := by
  unfold execHiberWindow
  repeat' first
    | with_reducible assumption
    | ((with_reducible refine boolGoal ?_); exact rfl)
    | ((with_reducible refine hP.one _ ?_); exact rfl)
    | ((with_reducible refine hQ.satAt hP hi0 ?_ ?_); exact rfl)
    | with_reducible refine hQ.sat hP ?_ ?_
    | with_reducible refine laneCause_law hQ (hP.sub rfl) ?_ ?_
    | with_reducible refine evt_law hQ (hP.sub rfl) ?_
    | ((with_reducible refine hQ.wrAt hP hi0 ?_ ?_); exact rfl)
    | with_reducible refine hQ.wr hP ?_ ?_
    | with_reducible refine Law.ite ?_ ?_
    | with_reducible refine outOk ?_
    | with_reducible exact outFault
    | with_reducible refine outWithin ?_
    | with_reducible refine iteOut ?_ ?_
    | ((try lift_lets); (with_reducible intro y); (have hy : Q y := ?_); clear_value y; rotate_left; subst y)
    | ((try lift_lets); (with_reducible intro y); (have hy : Q y.1 := ?_); clear_value y; rotate_left; subst y)
    | ((try lift_lets); (with_reducible intro x); (try clear_value x))
    | split

theorem refFault_law (hQ : Law P Q) (hP : Has P [.lanes, .tokens]) {n : Nat} {s : State} (hi0 : P (.one .lane n))  (h0 : Q s) :
    Q (refFault n s) := by
  unfold refFault
  repeat' first
    | with_reducible assumption
    | ((with_reducible refine boolGoal ?_); exact rfl)
    | ((with_reducible refine hP.one _ ?_); exact rfl)
    | with_reducible refine leavePrbs_law hQ (hP.sub rfl) ?_ ?_
    | with_reducible refine setLane_law hQ (hP.sub rfl) ?_
    | with_reducible refine laneCause_law hQ (hP.sub rfl) ?_ ?_
    | with_reducible refine txIdle_law hQ (hP.sub rfl) ?_ ?_
    | ((with_reducible refine hQ.wrAt hP hi0 ?_ ?_); exact rfl)
    | with_reducible refine hQ.wr hP ?_ ?_
    | ((try lift_lets); (with_reducible intro y); (have hy : Q y := ?_); clear_value y; rotate_left; subst y)
    | ((try lift_lets); (with_reducible intro y); (have hy : Q y.1 := ?_); clear_value y; rotate_left; subst y)
    | ((try lift_lets); (with_reducible intro x); (try clear_value x))

theorem refRecover_law (hQ : Law P Q) (hP : Has P [.grp 21, .damper, .lanes, .tokens]) {n : Nat} {s : State} (hi0 : P (.one .lane n))  (h0 : Q s) :
    Q (refRecover n s) := by
  unfold refRecover
  repeat' first
    | with_reducible assumption
    | ((with_reducible refine boolGoal ?_); exact rfl)
    | ((with_reducible refine hP.one _ ?_); exact rfl)
    | with_reducible refine goCold_law hQ (hP.sub rfl) ?_ ?_
    | with_reducible refine laneOff_law hQ (hP.sub rfl) ?_ ?_
    | with_reducible refine comeUp_law hQ (hP.sub rfl) ?_ ?_
    | with_reducible refine txIdle_law hQ (hP.sub rfl) ?_ ?_
    | with_reducible refine scanAbort_law hQ (hP.sub rfl) ?_ ?_
    | with_reducible refine setLane_law hQ (hP.sub rfl) ?_
    | with_reducible refine wake_law hQ (hP.sub rfl) ?_
    | ((with_reducible refine hQ.wrAt hP hi0 ?_ ?_); exact rfl)
    | with_reducible refine hQ.wr hP ?_ ?_
    | with_reducible refine Law.ite ?_ ?_
    | ((try lift_lets); (with_reducible intro y); (have hy : Q y := ?_); clear_value y; rotate_left; subst y)
    | ((try lift_lets); (with_reducible intro y); (have hy : Q y.1 := ?_); clear_value y; rotate_left; subst y)
    | ((try lift_lets); (with_reducible intro x); (try clear_value x))
    | split

theorem execRefMonitorWindow_law (hQ : Law P Q) (hP : Has P [.all .lane, .grp 21, .damper, .goodWin, .lanes, .tokens]) {g : Nat} {present : Bool} {ppb : Int} {s : State} (hi0 : P (.one .laneGroup g))  (h0 : Q s) :
    outAll Q (execRefMonitorWindow g present ppb s) := by
  unfold execRefMonitorWindow
  repeat' first
    | with_reducible assumption
    | ((with_reducible refine boolGoal ?_); exact rfl)
    | ((with_reducible refine hP.inst ?_); exact rfl)
    | ((with_reducible refine hP.one _ ?_); exact rfl)
    | ((with_reducible refine hQ.wrAt hP hi0 ?_ ?_); exact rfl)
    | with_reducible refine hQ.wr hP ?_ ?_
    | with_reducible refine refRecover_law hQ (hP.sub rfl) ?_ ?_
    | with_reducible refine refFault_law hQ (hP.sub rfl) ?_ ?_
    | ((with_reducible refine hQ.wrIAt hP hi0 ?_ ?_); exact rfl)
    | with_reducible refine hQ.wrI hP ?_ ?_
    | with_reducible refine Law.ite ?_ ?_
    | with_reducible refine outOk ?_
    | with_reducible exact outFault
    | with_reducible refine outWithin ?_
    | with_reducible refine iteOut ?_ ?_
    | with_reducible refine Law.foldl (fun _ _ _ => ?_) ?_
    | with_reducible refine Law.foldlBy Prod.snd (fun _ _ _ => ?_) ?_
    | with_reducible refine Law.foldlBy Prod.fst (fun _ _ _ => ?_) ?_
    | with_reducible refine optAll.map (fun _ => ?_)
    | ((try lift_lets); (with_reducible intro y); (have hy : Q y := ?_); clear_value y; rotate_left; subst y)
    | ((try lift_lets); (with_reducible intro y); (have hy : Q y.1 := ?_); clear_value y; rotate_left; subst y)
    | ((try lift_lets); (with_reducible intro x); (try clear_value x))
    | split
    | with_reducible refine hQ.goodWin ?_ ?_

theorem execSkipReceive_law (hQ : Law P Q) (hP : Has P [.grp 64]) {n : Nat} {fill : Nat} {s : State} (hi0 : P (.one .lane n))  (h0 : Q s) :
    outAll Q (execSkipReceive n fill s) := by
  unfold execSkipReceive
  repeat' first
    | with_reducible assumption
    | ((with_reducible refine boolGoal ?_); exact rfl)
    | ((with_reducible refine hP.one _ ?_); exact rfl)
    | ((with_reducible refine hQ.wrAt hP hi0 ?_ ?_); exact rfl)
    | with_reducible refine hQ.wr hP ?_ ?_
    | ((with_reducible refine hQ.wrapAt hP hi0 ?_ ?_); exact rfl)
    | with_reducible refine hQ.wrap hP ?_ ?_
    | with_reducible refine evt_law hQ (hP.sub rfl) ?_
    | with_reducible refine Law.ite ?_ ?_
    | with_reducible refine outOk ?_
    | with_reducible exact outFault
    | with_reducible refine outWithin ?_
    | with_reducible refine iteOut ?_ ?_
    | ((try lift_lets); (with_reducible intro y); (have hy : Q y := ?_); clear_value y; rotate_left; subst y)
    | ((try lift_lets); (with_reducible intro x); (try clear_value x))
    | split

theorem deskewFault_law (hQ : Law P Q) (hP : Has P [.all .lane, .lanes, .tokens]) {n : Nat} {s : State}   (h0 : Q s) :
    Q (deskewFault n s) := by
  unfold deskewFault
  repeat' first
    | with_reducible assumption
    | ((with_reducible refine boolGoal ?_); exact rfl)
    | ((with_reducible refine hP.inst ?_); exact rfl)
    | ((with_reducible refine hP.one _ ?_); exact rfl)
    | with_reducible refine laneCause_law hQ (hP.sub rfl) ?_ ?_
    | with_reducible refine setLane_law hQ (hP.sub rfl) ?_
    | with_reducible refine Law.foldl (fun _ _ _ => ?_) ?_
    | with_reducible refine Law.foldlBy Prod.snd (fun _ _ _ => ?_) ?_
    | with_reducible refine Law.foldlBy Prod.fst (fun _ _ _ => ?_) ?_
    | ((try lift_lets); (with_reducible intro y); (have hy : Q y := ?_); clear_value y; rotate_left; subst y)
    | ((try lift_lets); (with_reducible intro y); (have hy : Q y.1 := ?_); clear_value y; rotate_left; subst y)
    | ((try lift_lets); (with_reducible intro x); (try clear_value x))

theorem sleepOthers_law (hQ : Law P Q) (hP : Has P [.all .lane]) {h : Nat} {s : State}   (h0 : Q s) :
    Q (sleepOthers h s) := by
  unfold sleepOthers
  repeat' first
    | with_reducible assumption
    | ((with_reducible refine boolGoal ?_); exact rfl)
    | ((with_reducible refine hP.inst ?_); exact rfl)
    | ((with_reducible refine hP.one _ ?_); exact rfl)
    | with_reducible refine txIdle_law hQ (hP.sub rfl) ?_ ?_
    | with_reducible refine hQ.wr hP ?_ ?_
    | with_reducible refine Law.foldl (fun _ _ _ => ?_) ?_
    | with_reducible refine Law.foldlBy Prod.snd (fun _ _ _ => ?_) ?_
    | with_reducible refine Law.foldlBy Prod.fst (fun _ _ _ => ?_) ?_
    | ((try lift_lets); (with_reducible intro x); (try clear_value x))

theorem headTrained_law (hQ : Law P Q) (hP : Has P [.all .lane]) {n : Nat} {s : State}   (h0 : Q s) :
    Q (headTrained n s) := by
  unfold headTrained
  repeat' first
    | with_reducible assumption
    | ((with_reducible refine boolGoal ?_); exact rfl)
    | ((with_reducible refine hP.inst ?_); exact rfl)
    | ((with_reducible refine hP.one _ ?_); exact rfl)
    | with_reducible refine sleepOthers_law hQ (hP.sub rfl) ?_
    | with_reducible refine Law.ite ?_ ?_
    | ((try lift_lets); (with_reducible intro y); (have hy : Q y := ?_); clear_value y; rotate_left; subst y)
    | ((try lift_lets); (with_reducible intro x); (try clear_value x))
    | split
    | dsimp only

theorem enterLocked_law (hQ : Law P Q) (hP : Has P [.all .lane, .lanes, .tokens]) {n : Nat} {s : State}   (h0 : Q s) :
    Q (enterLocked n s) := by
  unfold enterLocked
  repeat' first
    | with_reducible assumption
    | ((with_reducible refine boolGoal ?_); exact rfl)
    | ((with_reducible refine hP.inst ?_); exact rfl)
    | ((with_reducible refine hP.one _ ?_); exact rfl)
    | with_reducible refine setLane_law hQ (hP.sub rfl) ?_
    | with_reducible refine laneCause_law hQ (hP.sub rfl) ?_ ?_
    | with_reducible refine txIdle_law hQ (hP.sub rfl) ?_ ?_
    | with_reducible refine hQ.wr hP ?_ ?_
    | with_reducible refine rxSleep_law hQ (hP.sub rfl) ?_ ?_
    | with_reducible refine headTrained_law hQ (hP.sub rfl) ?_
    | with_reducible refine Law.ite ?_ ?_
    | ((try lift_lets); (with_reducible intro y); (have hy : Q y := ?_); clear_value y; rotate_left; subst y)
    | ((try lift_lets); (with_reducible intro y); (have hy : Q y.1 := ?_); clear_value y; rotate_left; subst y)
    | ((try lift_lets); (with_reducible intro x); (try clear_value x))
    | split

theorem laneJoin_law (hQ : Law P Q) (hP : Has P [.all .lane, .lanes, .tokens]) {n : Nat} {s : State}   (h0 : Q s) :
    Q (laneJoin n s) := by
  unfold laneJoin
  repeat' first
    | with_reducible assumption
    | ((with_reducible refine boolGoal ?_); exact rfl)
    | ((with_reducible refine hP.inst ?_); exact rfl)
    | ((with_reducible refine hP.one _ ?_); exact rfl)
    | with_reducible refine enterLocked_law hQ (hP.sub rfl) ?_
    | with_reducible refine setLane_law hQ (hP.sub rfl) ?_
    | with_reducible refine Law.ite ?_ ?_
    | ((try lift_lets); (with_reducible intro y); (have hy : Q y := ?_); clear_value y; rotate_left; subst y)
    | ((try lift_lets); (with_reducible intro y); (have hy : Q y.1 := ?_); clear_value y; rotate_left; subst y)
    | ((try lift_lets); (with_reducible intro x); (try clear_value x))
    | split

theorem execAlignReceive_law (hQ : Law P Q) (hP : Has P [.all .lane, .lanes, .tokens]) {n : Nat} {hlane : Nat} {ctr : Nat} {spread : Nat} {s : State}   (h0 : Q s) :
    outAll Q (execAlignReceive n hlane ctr spread s) := by
  unfold execAlignReceive
  repeat' first
    | with_reducible assumption
    | ((with_reducible refine boolGoal ?_); exact rfl)
    | ((with_reducible refine hP.inst ?_); exact rfl)
    | ((with_reducible refine hP.one _ ?_); exact rfl)
    | with_reducible refine hQ.wr hP ?_ ?_
    | with_reducible refine deskewFault_law hQ (hP.sub rfl) ?_
    | with_reducible refine laneJoin_law hQ (hP.sub rfl) ?_
    | with_reducible refine setLane_law hQ (hP.sub rfl) ?_
    | with_reducible refine Law.ite ?_ ?_
    | with_reducible refine outOk ?_
    | with_reducible exact outFault
    | with_reducible refine outWithin ?_
    | with_reducible refine iteOut ?_ ?_
    | with_reducible refine Law.foldl (fun _ _ _ => ?_) ?_
    | with_reducible refine Law.foldlBy Prod.snd (fun _ _ _ => ?_) ?_
    | with_reducible refine Law.foldlBy Prod.fst (fun _ _ _ => ?_) ?_
    | ((try lift_lets); (with_reducible intro y); (have hy : Q y := ?_); clear_value y; rotate_left; subst y)
    | ((try lift_lets); (with_reducible intro y); (have hy : Q y.1 := ?_); clear_value y; rotate_left; subst y)
    | ((try lift_lets); (with_reducible intro x); (try clear_value x))
    | split

theorem execAlignTimeout_law (hQ : Law P Q) (hP : Has P [.all .lane, .lanes, .tokens]) {n : Nat} {s : State}   (h0 : Q s) :
    outAll Q (execAlignTimeout n s) := by
  unfold execAlignTimeout
  repeat' first
    | with_reducible assumption
    | ((with_reducible refine boolGoal ?_); exact rfl)
    | ((with_reducible refine hP.inst ?_); exact rfl)
    | ((with_reducible refine hP.one _ ?_); exact rfl)
    | with_reducible refine deskewFault_law hQ (hP.sub rfl) ?_
    | with_reducible refine Law.ite ?_ ?_
    | with_reducible refine outOk ?_
    | with_reducible exact outFault
    | with_reducible refine outWithin ?_
    | with_reducible refine iteOut ?_ ?_
    | ((try lift_lets); (with_reducible intro y); (have hy : Q y := ?_); clear_value y; rotate_left; subst y)
    | ((try lift_lets); (with_reducible intro x); (try clear_value x))
    | split

theorem prbsErrors_law (hQ : Law P Q) (hP : Has P [.lanes, .tokens]) {n : Nat} {bits : Nat} {errs : Nat} {s : State} (hi0 : P (.one .lane n))  (h0 : Q s) :
    Q (prbsErrors n bits errs s) := by
  unfold prbsErrors
  repeat' first
    | with_reducible assumption
    | ((with_reducible refine boolGoal ?_); exact rfl)
    | ((with_reducible refine hP.one _ ?_); exact rfl)
    | ((with_reducible refine hQ.satAt hP hi0 ?_ ?_); exact rfl)
    | with_reducible refine hQ.sat hP ?_ ?_
    | with_reducible refine setLane_law hQ (hP.sub rfl) ?_
    | with_reducible refine laneCause_law hQ (hP.sub rfl) ?_ ?_
    | with_reducible refine Law.ite ?_ ?_
    | ((try lift_lets); (with_reducible intro y); (have hy : Q y := ?_); clear_value y; rotate_left; subst y)
    | ((try lift_lets); (with_reducible intro y); (have hy : Q y.1 := ?_); clear_value y; rotate_left; subst y)
    | ((try lift_lets); (with_reducible intro x); (try clear_value x))
    | split

theorem execPrbsError_law (hQ : Law P Q) (hP : Has P [.lanes, .tokens]) {n : Nat} {bits : Nat} {s : State} (hi0 : P (.one .lane n))  (h0 : Q s) :
    outAll Q (execPrbsError n bits s) := by
  unfold execPrbsError
  repeat' first
    | with_reducible assumption
    | ((with_reducible refine boolGoal ?_); exact rfl)
    | ((with_reducible refine hP.one _ ?_); exact rfl)
    | with_reducible refine prbsErrors_law hQ (hP.sub rfl) ?_ ?_
    | with_reducible refine Law.ite ?_ ?_
    | with_reducible refine outOk ?_
    | with_reducible exact outFault
    | with_reducible refine outWithin ?_
    | with_reducible refine iteOut ?_ ?_
    | ((try lift_lets); (with_reducible intro y); (have hy : Q y := ?_); clear_value y; rotate_left; subst y)
    | ((try lift_lets); (with_reducible intro x); (try clear_value x))
    | split

theorem execPrbsResync_law (hQ : Law P Q) (hP : Has P [.lanes, .tokens]) {n : Nat} {s : State} (hi0 : P (.one .lane n))  (h0 : Q s) :
    outAll Q (execPrbsResync n s) := by
  unfold execPrbsResync
  repeat' first
    | with_reducible assumption
    | ((with_reducible refine boolGoal ?_); exact rfl)
    | ((with_reducible refine hP.one _ ?_); exact rfl)
    | with_reducible refine laneCause_law hQ (hP.sub rfl) ?_ ?_
    | ((with_reducible refine hQ.wrAt hP hi0 ?_ ?_); exact rfl)
    | with_reducible refine hQ.wr hP ?_ ?_
    | with_reducible refine setLane_law hQ (hP.sub rfl) ?_
    | with_reducible refine Law.ite ?_ ?_
    | with_reducible refine outOk ?_
    | with_reducible exact outFault
    | with_reducible refine outWithin ?_
    | with_reducible refine iteOut ?_ ?_
    | ((try lift_lets); (with_reducible intro y); (have hy : Q y := ?_); clear_value y; rotate_left; subst y)
    | ((try lift_lets); (with_reducible intro y); (have hy : Q y.1 := ?_); clear_value y; rotate_left; subst y)
    | ((try lift_lets); (with_reducible intro x); (try clear_value x))
    | split

theorem injectTick_law (hQ : Law P Q) (hP : Has P [.lanes, .tokens]) {n : Nat} {s : State} (hi0 : P (.one .lane n))  (h0 : Q s) :
    Q (injectTick n s) := by
  unfold injectTick
  repeat' first
    | with_reducible assumption
    | ((with_reducible refine boolGoal ?_); exact rfl)
    | ((with_reducible refine hP.one _ ?_); exact rfl)
    | with_reducible refine setLane_law hQ (hP.sub rfl) ?_
    | with_reducible refine prbsErrors_law hQ (hP.sub rfl) ?_ ?_
    | with_reducible refine Law.ite ?_ ?_
    | ((try lift_lets); (with_reducible intro y); (have hy : Q y := ?_); clear_value y; rotate_left; subst y)
    | ((try lift_lets); (with_reducible intro y); (have hy : Q y.1 := ?_); clear_value y; rotate_left; subst y)
    | ((try lift_lets); (with_reducible intro x); (try clear_value x))
    | split
    | dsimp only

theorem checkTick_law (hQ : Law P Q) (hP : Has P [.lanes]) {n : Nat} {s : State} (hi0 : P (.one .lane n))  (h0 : Q s) :
    Q (checkTick n s) := by
  unfold checkTick
  repeat' first
    | with_reducible assumption
    | ((with_reducible refine boolGoal ?_); exact rfl)
    | ((with_reducible refine hP.one _ ?_); exact rfl)
    | ((with_reducible refine hQ.satAt hP hi0 ?_ ?_); exact rfl)
    | with_reducible refine hQ.sat hP ?_ ?_
    | with_reducible refine setLane_law hQ (hP.sub rfl) ?_
    | ((with_reducible refine hQ.wrAt hP hi0 ?_ ?_); exact rfl)
    | with_reducible refine hQ.wr hP ?_ ?_
    | with_reducible refine Law.ite ?_ ?_
    | ((try lift_lets); (with_reducible intro y); (have hy : Q y := ?_); clear_value y; rotate_left; subst y)
    | ((try lift_lets); (with_reducible intro y); (have hy : Q y.1 := ?_); clear_value y; rotate_left; subst y)
    | ((try lift_lets); (with_reducible intro x); (try clear_value x))
    | split

theorem eyeFigures_law (hQ : Law P Q) (hP : Has P []) {n : Nat} {ew : Nat} {eh : Nat} {s : State} (hi0 : P (.one .lane n))  (h0 : Q s) :
    Q (eyeFigures n ew eh s) := by
  unfold eyeFigures
  repeat' first
    | with_reducible assumption
    | ((with_reducible refine boolGoal ?_); exact rfl)
    | ((with_reducible refine hP.one _ ?_); exact rfl)
    | ((with_reducible refine hQ.wrAllAt hP hi0 ?_ ?_); simp only [List.all]; exact rfl)
    | ((with_reducible refine hQ.wrAll hP ?_ ?_); simp only [List.all]; exact rfl)
    | ((try lift_lets); (with_reducible intro y); (have hy : Q y := ?_); clear_value y; rotate_left; subst y)
    | ((try lift_lets); (with_reducible intro x); (try clear_value x))

theorem scanEnd_law (hQ : Law P Q) (hP : Has P [.tokens]) {n : Nat} {s : State} (hi0 : P (.one .lane n))  (h0 : Q s) :
    Q (scanEnd n s) := by
  unfold scanEnd
  repeat' first
    | with_reducible assumption
    | ((with_reducible refine boolGoal ?_); exact rfl)
    | ((with_reducible refine hP.one _ ?_); exact rfl)
    | with_reducible refine laneCause_law hQ (hP.sub rfl) ?_ ?_
    | with_reducible refine eyeFigures_law hQ (hP.sub rfl) ?_ ?_
    | ((with_reducible refine hQ.wrAt hP hi0 ?_ ?_); exact rfl)
    | with_reducible refine hQ.wr hP ?_ ?_
    | ((try lift_lets); (with_reducible intro y); (have hy : Q y := ?_); clear_value y; rotate_left; subst y)
    | ((try lift_lets); (with_reducible intro y); (have hy : Q y.1 := ?_); clear_value y; rotate_left; subst y)
    | ((try lift_lets); (with_reducible intro x); (try clear_value x))

theorem execEyescanPointDone_law (hQ : Law P Q) (hP : Has P [.lanes, .mem, .poison, .tokens]) {n : Nat} {count : Nat} {s : State} (hi0 : P (.one .lane n))  (h0 : Q s) :
    outAll Q (execEyescanPointDone n count s) := by
  unfold execEyescanPointDone
  repeat' first
    | with_reducible assumption
    | ((with_reducible refine boolGoal ?_); exact rfl)
    | ((with_reducible refine hP.one _ ?_); exact rfl)
    | with_reducible refine fill_law hQ (hP.sub rfl) ?_
    | with_reducible refine setLane_law hQ (hP.sub rfl) ?_
    | with_reducible refine scanEnd_law hQ (hP.sub rfl) ?_ ?_
    | with_reducible refine Law.ite ?_ ?_
    | with_reducible refine outOk ?_
    | with_reducible exact outFault
    | with_reducible refine outWithin ?_
    | with_reducible refine iteOut ?_ ?_
    | ((try lift_lets); (with_reducible intro y); (have hy : Q y := ?_); clear_value y; rotate_left; subst y)
    | ((try lift_lets); (with_reducible intro y); (have hy : Q y.1 := ?_); clear_value y; rotate_left; subst y)
    | ((try lift_lets); (with_reducible intro x); (try clear_value x))
    | split

theorem execEqAdaptDone_law (hQ : Law P Q) (hP : Has P [.heads, .lanes, .tokens]) {n : Nat} {goal : EqGoal} {want : Nat} {s : State} (hi0 : P (.one .lane n))  (h0 : Q s) :
    outAll Q (execEqAdaptDone n goal want s) := by
  unfold execEqAdaptDone
  repeat' first
    | with_reducible assumption
    | ((with_reducible refine boolGoal ?_); exact rfl)
    | ((with_reducible refine hP.one _ ?_); exact rfl)
    | with_reducible refine adaptD_law hQ (hP.sub rfl) ?_ ?_
    | with_reducible refine adaptC_law hQ (hP.sub rfl) ?_ ?_
    | with_reducible refine setLane_law hQ (hP.sub rfl) ?_
    | with_reducible refine startTaps_law hQ (hP.sub rfl) ?_ ?_
    | with_reducible refine Law.ite ?_ ?_
    | with_reducible refine outOk ?_
    | with_reducible exact outFault
    | with_reducible refine outWithin ?_
    | with_reducible refine iteOut ?_ ?_
    | with_reducible refine Law.foldl (fun _ _ _ => ?_) ?_
    | with_reducible refine Law.foldlBy Prod.snd (fun _ _ _ => ?_) ?_
    | with_reducible refine Law.foldlBy Prod.fst (fun _ _ _ => ?_) ?_
    | with_reducible refine optAll.getD ?_ ?_
    | ((try lift_lets); (with_reducible intro y); (have hy : Q y := ?_); clear_value y; rotate_left; subst y)
    | ((try lift_lets); (with_reducible intro y); (have hy : Q y.1 := ?_); clear_value y; rotate_left; subst y)
    | ((try lift_lets); (with_reducible intro x); (try clear_value x))
    | split
    | dsimp only

theorem execEqBoundHold_law (hQ : Law P Q) (hP : Has P [.lanes, .tokens]) {n : Nat} {q : Nat} {v : Int} {s : State} (hi0 : P (.one .lane n))  (h0 : Q s) :
    outAll Q (execEqBoundHold n q v s) := by
  unfold execEqBoundHold
  repeat' first
    | with_reducible assumption
    | ((with_reducible refine boolGoal ?_); exact rfl)
    | ((with_reducible refine hP.one _ ?_); exact rfl)
    | with_reducible refine adaptC_law hQ (hP.sub rfl) ?_ ?_
    | with_reducible refine adaptD_law hQ (hP.sub rfl) ?_ ?_
    | with_reducible refine Law.ite ?_ ?_
    | with_reducible refine outOk ?_
    | with_reducible exact outFault
    | with_reducible refine outWithin ?_
    | with_reducible refine iteOut ?_ ?_
    | ((try lift_lets); (with_reducible intro y); (have hy : Q y := ?_); clear_value y; rotate_left; subst y)
    | ((try lift_lets); (with_reducible intro x); (try clear_value x))
    | split

theorem execTapackReceive_law (hQ : Law P Q) (hP : Has P [.heads, .lanes, .tokens]) {n : Nat} {hlane : Nat} {rseq : Nat} {pre : TapAnswer} {main : TapAnswer} {post : TapAnswer} {better : Bool} {want : Nat} {s : State} (hi0 : P (.one .lane n))  (h0 : Q s) :
    outAll Q (execTapackReceive n hlane rseq pre main post better want s) := by
  unfold execTapackReceive
  repeat' first
    | with_reducible assumption
    | ((with_reducible refine boolGoal ?_); exact rfl)
    | ((with_reducible refine hP.one _ ?_); exact rfl)
    | ((with_reducible refine hQ.wrAllAt hP hi0 ?_ ?_); simp only [List.all]; exact rfl)
    | ((with_reducible refine hQ.wrAll hP ?_ ?_); simp only [List.all]; exact rfl)
    | with_reducible refine setLane_law hQ (hP.sub rfl) ?_
    | with_reducible refine tapDone_law hQ (hP.sub rfl) ?_
    | with_reducible refine nextTap_law hQ (hP.sub rfl) ?_ ?_
    | with_reducible refine Law.ite ?_ ?_
    | with_reducible refine outOk ?_
    | with_reducible exact outFault
    | with_reducible refine outWithin ?_
    | with_reducible refine iteOut ?_ ?_
    | ((try lift_lets); (with_reducible intro y); (have hy : Q y := ?_); clear_value y; rotate_left; subst y)
    | ((try lift_lets); (with_reducible intro y); (have hy : Q y.1 := ?_); clear_value y; rotate_left; subst y)
    | ((try lift_lets); (with_reducible intro x); (try clear_value x))
    | split
    | dsimp only

theorem execTaptoExpiry_law (hQ : Law P Q) (hP : Has P [.heads, .lanes]) {n : Nat} {s : State} (hi0 : P (.one .lane n))  (h0 : Q s) :
    outAll Q (execTaptoExpiry n s) := by
  unfold execTaptoExpiry
  repeat' first
    | with_reducible assumption
    | ((with_reducible refine boolGoal ?_); exact rfl)
    | ((with_reducible refine hP.one _ ?_); exact rfl)
    | with_reducible refine dueTap_law hQ (hP.sub rfl) ?_
    | with_reducible refine setLane_law hQ (hP.sub rfl) ?_
    | with_reducible refine tapDone_law hQ (hP.sub rfl) ?_
    | ((with_reducible refine hQ.wrAt hP hi0 ?_ ?_); exact rfl)
    | with_reducible refine hQ.wr hP ?_ ?_
    | with_reducible refine Law.ite ?_ ?_
    | with_reducible refine outOk ?_
    | with_reducible exact outFault
    | with_reducible refine outWithin ?_
    | with_reducible refine iteOut ?_ ?_
    | ((try lift_lets); (with_reducible intro y); (have hy : Q y := ?_); clear_value y; rotate_left; subst y)
    | ((try lift_lets); (with_reducible intro y); (have hy : Q y.1 := ?_); clear_value y; rotate_left; subst y)
    | ((try lift_lets); (with_reducible intro x); (try clear_value x))
    | split

end Sys2Proof.Machine
end

