-- ==== Sys2Proof/Laws/Position.lean ====
section
/-!
SUPPORT. What each function of Machine/Position.lean can change: every law of the parts it names survives it.
-/
namespace Sys2Proof.Machine

variable {P : Part → Prop} {Q : State → Prop}

theorem setEnc_law (hQ : Law P Q) (hP : Has P [.enc]) {s : State} {c : Nat} {e : EncState}   (h0 : Q s) :
    Q (State.setEnc s c e) := by
  unfold State.setEnc
  repeat' first
    | with_reducible assumption
    | ((with_reducible refine boolGoal ?_); exact rfl)
    | ((with_reducible refine hP.one _ ?_); exact rfl)
    | ((try lift_lets); (with_reducible intro y); (have hy : Q y := ?_); clear_value y; rotate_left; subst y)
    | ((try lift_lets); (with_reducible intro y); (have hy : Q y.1 := ?_); clear_value y; rotate_left; subst y)
    | ((try lift_lets); (with_reducible intro x); (try clear_value x))
    | with_reducible refine hQ.enc ?_ ?_

theorem setSsi_law (hQ : Law P Q) (hP : Has P [.ssi]) {s : State} {k : Nat} {e : SsiState}   (h0 : Q s) :
    Q (State.setSsi s k e) := by
  unfold State.setSsi
  repeat' first
    | with_reducible assumption
    | ((with_reducible refine boolGoal ?_); exact rfl)
    | ((with_reducible refine hP.one _ ?_); exact rfl)
    | ((try lift_lets); (with_reducible intro y); (have hy : Q y := ?_); clear_value y; rotate_left; subst y)
    | ((try lift_lets); (with_reducible intro y); (have hy : Q y.1 := ?_); clear_value y; rotate_left; subst y)
    | ((try lift_lets); (with_reducible intro x); (try clear_value x))
    | with_reducible refine hQ.ssi ?_ ?_

theorem setWeb_law (hQ : Law P Q) (hP : Has P [.web]) {s : State} {w : WebState}   (h0 : Q s) :
    Q (State.setWeb s w) := by
  unfold State.setWeb
  repeat' first
    | with_reducible assumption
    | ((with_reducible refine boolGoal ?_); exact rfl)
    | ((with_reducible refine hP.one _ ?_); exact rfl)
    | ((try lift_lets); (with_reducible intro y); (have hy : Q y := ?_); clear_value y; rotate_left; subst y)
    | ((try lift_lets); (with_reducible intro x); (try clear_value x))
    | with_reducible refine hQ.web ?_ ?_

theorem pfuEmit_law (hQ : Law P Q) (hP : Has P [.pfuTick, .tokens]) {s : State} {src : Nat}   (h0 : Q s) :
    Q (State.pfuEmit s src) := by
  unfold State.pfuEmit
  repeat' first
    | with_reducible assumption
    | ((with_reducible refine boolGoal ?_); exact rfl)
    | ((with_reducible refine hP.one _ ?_); exact rfl)
    | with_reducible refine emit_law hQ (hP.sub rfl) ?_
    | with_reducible refine Law.ite ?_ ?_
    | ((try lift_lets); (with_reducible intro y); (have hy : Q y := ?_); clear_value y; rotate_left; subst y)
    | ((try lift_lets); (with_reducible intro y); (have hy : Q y.1 := ?_); clear_value y; rotate_left; subst y)
    | ((try lift_lets); (with_reducible intro x); (try clear_value x))
    | split
    | with_reducible refine hQ.pfuTick ?_ ?_

theorem encCause_law (hQ : Law P Q) (hP : Has P [.pfuTick, .tokens]) {c : Nat} {bits : Nat} {s : State} (hi0 : P (.one .enc c))  (h0 : Q s) :
    Q (encCause c bits s) := by
  unfold encCause
  repeat' first
    | with_reducible assumption
    | ((with_reducible refine boolGoal ?_); exact rfl)
    | ((with_reducible refine hP.one _ ?_); exact rfl)
    | ((with_reducible refine hQ.wrAt hP hi0 ?_ ?_); exact rfl)
    | with_reducible refine hQ.wr hP ?_ ?_
    | with_reducible refine pfuEmit_law hQ (hP.sub rfl) ?_
    | with_reducible refine Law.ite ?_ ?_
    | ((try lift_lets); (with_reducible intro y); (have hy : Q y := ?_); clear_value y; rotate_left; subst y)
    | ((try lift_lets); (with_reducible intro x); (try clear_value x))
    | split

theorem ssiCause_law (hQ : Law P Q) (hP : Has P [.pfuTick, .tokens]) {k : Nat} {bits : Nat} {s : State} (hi0 : P (.one .ssi k))  (h0 : Q s) :
    Q (ssiCause k bits s) := by
  unfold ssiCause
  repeat' first
    | with_reducible assumption
    | ((with_reducible refine boolGoal ?_); exact rfl)
    | ((with_reducible refine hP.one _ ?_); exact rfl)
    | ((with_reducible refine hQ.wrAt hP hi0 ?_ ?_); exact rfl)
    | with_reducible refine hQ.wr hP ?_ ?_
    | with_reducible refine pfuEmit_law hQ (hP.sub rfl) ?_
    | with_reducible refine Law.ite ?_ ?_
    | ((try lift_lets); (with_reducible intro y); (have hy : Q y := ?_); clear_value y; rotate_left; subst y)
    | ((try lift_lets); (with_reducible intro x); (try clear_value x))
    | split

theorem encMeasure_law (hQ : Law P Q) (hP : Has P [.grp 64, .enc, .pfuTick, .tokens]) {c : Nat} {m : Int} {now : Nat} {s : State} (hi0 : P (.one .enc c))  (h0 : Q s) :
    Q (encMeasure c m now s) := by
  unfold encMeasure
  repeat' first
    | with_reducible assumption
    | ((with_reducible refine boolGoal ?_); exact rfl)
    | ((with_reducible refine hP.one _ ?_); exact rfl)
    | ((with_reducible refine hQ.wrIAt hP hi0 ?_ ?_); exact rfl)
    | with_reducible refine hQ.wrI hP ?_ ?_
    | with_reducible refine encCause_law hQ (hP.sub rfl) ?_ ?_
    | ((with_reducible refine hQ.wrAt hP hi0 ?_ ?_); exact rfl)
    | with_reducible refine hQ.wr hP ?_ ?_
    | with_reducible refine setEnc_law hQ (hP.sub rfl) ?_
    | ((with_reducible refine hQ.satAt hP hi0 ?_ ?_); exact rfl)
    | with_reducible refine hQ.sat hP ?_ ?_
    | with_reducible refine evt_law hQ (hP.sub rfl) ?_
    | with_reducible refine Law.ite ?_ ?_
    | ((try lift_lets); (with_reducible intro y); (have hy : Q y := ?_); clear_value y; rotate_left; subst y)
    | ((try lift_lets); (with_reducible intro y); (have hy : Q y.2 := ?_); clear_value y; rotate_left; subst y)
    | ((try lift_lets); (with_reducible intro y); (have hy : Q y.1 := ?_); clear_value y; rotate_left; subst y)
    | ((try lift_lets); (with_reducible intro x); (try clear_value x))
    | split
    | dsimp only

theorem ssiMeasure_law (hQ : Law P Q) (hP : Has P [.grp 64, .pfuTick, .ssi, .tokens]) {k : Nat} {m : Int} {now : Nat} {s : State} (hi0 : P (.one .ssi k))  (h0 : Q s) :
    Q (ssiMeasure k m now s) := by
  unfold ssiMeasure
  repeat' first
    | with_reducible assumption
    | ((with_reducible refine boolGoal ?_); exact rfl)
    | ((with_reducible refine hP.one _ ?_); exact rfl)
    | ((with_reducible refine hQ.wrIAt hP hi0 ?_ ?_); exact rfl)
    | with_reducible refine hQ.wrI hP ?_ ?_
    | with_reducible refine ssiCause_law hQ (hP.sub rfl) ?_ ?_
    | ((with_reducible refine hQ.wrAt hP hi0 ?_ ?_); exact rfl)
    | with_reducible refine hQ.wr hP ?_ ?_
    | with_reducible refine setSsi_law hQ (hP.sub rfl) ?_
    | with_reducible refine evt_law hQ (hP.sub rfl) ?_
    | with_reducible refine Law.ite ?_ ?_
    | ((try lift_lets); (with_reducible intro y); (have hy : Q y := ?_); clear_value y; rotate_left; subst y)
    | ((try lift_lets); (with_reducible intro y); (have hy : Q y.2 := ?_); clear_value y; rotate_left; subst y)
    | ((try lift_lets); (with_reducible intro y); (have hy : Q y.1 := ?_); clear_value y; rotate_left; subst y)
    | ((try lift_lets); (with_reducible intro x); (try clear_value x))
    | split
    | dsimp only

theorem anchorPos_law (hQ : Law P Q) (hP : Has P [.grp 3]) {s : State}   (h0 : Q s) :
    Q (anchorPos s) := by
  unfold anchorPos
  repeat' first
    | with_reducible assumption
    | ((with_reducible refine boolGoal ?_); exact rfl)
    | ((with_reducible refine hP.one _ ?_); exact rfl)
    | with_reducible refine hQ.wrI hP ?_ ?_

theorem anchorCount_law (hQ : Law P Q) (hP : Has P [.grp 3]) {src : Nat} {s : State}   (h0 : Q s) :
    Q (anchorCount src s) := by
  unfold anchorCount
  repeat' first
    | with_reducible assumption
    | ((with_reducible refine boolGoal ?_); exact rfl)
    | ((with_reducible refine hP.one _ ?_); exact rfl)
    | with_reducible refine hQ.wrI hP ?_ ?_

theorem tesCause_law (hQ : Law P Q) (hP : Has P [.tokens]) {h : Nat} {b : Nat} {s : State} (hi0 : P (.one .tesHead h))  (h0 : Q s) :
    Q (tesCause h b s) := by
  unfold tesCause
  repeat' first
    | with_reducible assumption
    | ((with_reducible refine boolGoal ?_); exact rfl)
    | ((with_reducible refine hP.one _ ?_); exact rfl)
    | ((with_reducible refine hQ.wrAt hP hi0 ?_ ?_); exact rfl)
    | with_reducible refine hQ.wr hP ?_ ?_
    | with_reducible refine emit_law hQ (hP.sub rfl) ?_
    | with_reducible refine Law.ite ?_ ?_
    | ((try lift_lets); (with_reducible intro y); (have hy : Q y := ?_); clear_value y; rotate_left; subst y)
    | ((try lift_lets); (with_reducible intro x); (try clear_value x))
    | split

theorem noposHead_law (hQ : Law P Q) (hP : Has P [.tokens]) {h : Nat} {s : State} (hi0 : P (.one .tesHead h))  (h0 : Q s) :
    Q (noposHead h s) := by
  unfold noposHead
  repeat' first
    | with_reducible assumption
    | ((with_reducible refine boolGoal ?_); exact rfl)
    | ((with_reducible refine hP.one _ ?_); exact rfl)
    | ((with_reducible refine hQ.wrAt hP hi0 ?_ ?_); exact rfl)
    | with_reducible refine hQ.wr hP ?_ ?_
    | with_reducible refine tesCause_law hQ (hP.sub rfl) ?_ ?_
    | with_reducible refine Law.ite ?_ ?_
    | ((try lift_lets); (with_reducible intro y); (have hy : Q y := ?_); clear_value y; rotate_left; subst y)
    | ((try lift_lets); (with_reducible intro x); (try clear_value x))
    | split

theorem nopos_law (hQ : Law P Q) (hP : Has P [.all .tesHead, .tokens]) {s : State}   (h0 : Q s) :
    Q (nopos s) := by
  unfold nopos
  repeat' first
    | with_reducible assumption
    | ((with_reducible refine boolGoal ?_); exact rfl)
    | ((with_reducible refine hP.inst ?_); exact rfl)
    | ((with_reducible refine hP.one _ ?_); exact rfl)
    | with_reducible refine noposHead_law hQ (hP.sub rfl) ?_ ?_
    | with_reducible refine Law.foldl (fun _ _ _ => ?_) ?_
    | with_reducible refine Law.foldlBy Prod.snd (fun _ _ _ => ?_) ?_
    | with_reducible refine Law.foldlBy Prod.fst (fun _ _ _ => ?_) ?_
    | ((try lift_lets); (with_reducible intro x); (try clear_value x))

theorem discardMarks_law (hQ : Law P Q) (hP : Has P [.grp 9, .marks]) {s : State}   (h0 : Q s) :
    Q (discardMarks s) := by
  unfold discardMarks
  repeat' first
    | with_reducible assumption
    | ((with_reducible refine boolGoal ?_); exact rfl)
    | ((with_reducible refine hP.one _ ?_); exact rfl)
    | with_reducible refine hQ.sat hP ?_ ?_
    | with_reducible refine hQ.wr hP ?_ ?_
    | ((try lift_lets); (with_reducible intro y); (have hy : Q y := ?_); clear_value y; rotate_left; subst y)
    | ((try lift_lets); (with_reducible intro y); (have hy : Q y.1 := ?_); clear_value y; rotate_left; subst y)
    | ((try lift_lets); (with_reducible intro x); (try clear_value x))
    | with_reducible refine hQ.marks ?_ ?_

theorem posLost_law (hQ : Law P Q) (hP : Has P [.all .tesHead, .grp 3, .grp 9, .marks, .tokens, .web]) {s : State}   (h0 : Q s) :
    Q (posLost s) := by
  unfold posLost
  repeat' first
    | with_reducible assumption
    | ((with_reducible refine boolGoal ?_); exact rfl)
    | ((with_reducible refine hP.inst ?_); exact rfl)
    | ((with_reducible refine hP.one _ ?_); exact rfl)
    | ((with_reducible refine hQ.wrAll hP ?_ ?_); simp only [List.all]; exact rfl)
    | with_reducible refine hQ.wrI hP ?_ ?_
    | with_reducible refine nopos_law hQ (hP.sub rfl) ?_
    | with_reducible refine discardMarks_law hQ (hP.sub rfl) ?_
    | with_reducible refine setWeb_law hQ (hP.sub rfl) ?_
    | ((try lift_lets); (with_reducible intro y); (have hy : Q y := ?_); clear_value y; rotate_left; subst y)
    | ((try lift_lets); (with_reducible intro y); (have hy : Q y.1 := ?_); clear_value y; rotate_left; subst y)
    | ((try lift_lets); (with_reducible intro x); (try clear_value x))

theorem switchSource_law (hQ : Law P Q) (hP : Has P [.grp 3, .web]) {src : Nat} {s : State}   (h0 : Q s) :
    Q (switchSource src s) := by
  unfold switchSource
  repeat' first
    | with_reducible assumption
    | ((with_reducible refine boolGoal ?_); exact rfl)
    | ((with_reducible refine hP.one _ ?_); exact rfl)
    | with_reducible refine anchorCount_law hQ (hP.sub rfl) ?_
    | with_reducible refine anchorPos_law hQ (hP.sub rfl) ?_
    | with_reducible refine hQ.wr hP ?_ ?_
    | with_reducible refine setWeb_law hQ (hP.sub rfl) ?_
    | ((try lift_lets); (with_reducible intro y); (have hy : Q y := ?_); clear_value y; rotate_left; subst y)
    | ((try lift_lets); (with_reducible intro y); (have hy : Q y.1 := ?_); clear_value y; rotate_left; subst y)
    | ((try lift_lets); (with_reducible intro x); (try clear_value x))

theorem enterSourceFault_law (hQ : Law P Q) (hP : Has P [.grp 3, .web]) {s : State}   (h0 : Q s) :
    Q (enterSourceFault s) := by
  unfold enterSourceFault
  repeat' first
    | with_reducible assumption
    | ((with_reducible refine boolGoal ?_); exact rfl)
    | ((with_reducible refine hP.one _ ?_); exact rfl)
    | with_reducible refine switchSource_law hQ (hP.sub rfl) ?_
    | with_reducible refine hQ.wr hP ?_ ?_
    | ((with_reducible refine hQ.wrAll hP ?_ ?_); simp only [List.all]; exact rfl)
    | with_reducible refine setWeb_law hQ (hP.sub rfl) ?_
    | with_reducible refine Law.ite ?_ ?_
    | ((try lift_lets); (with_reducible intro y); (have hy : Q y := ?_); clear_value y; rotate_left; subst y)
    | ((try lift_lets); (with_reducible intro y); (have hy : Q y.1 := ?_); clear_value y; rotate_left; subst y)
    | ((try lift_lets); (with_reducible intro x); (try clear_value x))
    | split

theorem leaveSourceFault_law (hQ : Law P Q) (hP : Has P [.grp 3, .web]) {s : State}   (h0 : Q s) :
    Q (leaveSourceFault s) := by
  unfold leaveSourceFault
  repeat' first
    | with_reducible assumption
    | ((with_reducible refine boolGoal ?_); exact rfl)
    | ((with_reducible refine hP.one _ ?_); exact rfl)
    | with_reducible refine anchorCount_law hQ (hP.sub rfl) ?_
    | with_reducible refine anchorPos_law hQ (hP.sub rfl) ?_
    | with_reducible refine hQ.wr hP ?_ ?_
    | with_reducible refine setWeb_law hQ (hP.sub rfl) ?_
    | ((try lift_lets); (with_reducible intro y); (have hy : Q y := ?_); clear_value y; rotate_left; subst y)
    | ((try lift_lets); (with_reducible intro y); (have hy : Q y.1 := ?_); clear_value y; rotate_left; subst y)
    | ((try lift_lets); (with_reducible intro x); (try clear_value x))

theorem followSource_law (hQ : Law P Q) (hP : Has P [.grp 3, .web]) {s : State}   (h0 : Q s) :
    Q (followSource s) := by
  unfold followSource
  repeat' first
    | with_reducible assumption
    | ((with_reducible refine boolGoal ?_); exact rfl)
    | ((with_reducible refine hP.one _ ?_); exact rfl)
    | with_reducible refine enterSourceFault_law hQ (hP.sub rfl) ?_
    | with_reducible refine leaveSourceFault_law hQ (hP.sub rfl) ?_
    | with_reducible refine Law.ite ?_ ?_
    | ((try lift_lets); (with_reducible intro y); (have hy : Q y := ?_); clear_value y; rotate_left; subst y)
    | ((try lift_lets); (with_reducible intro x); (try clear_value x))
    | split

theorem setDiv_law (hQ : Law P Q) (hP : Has P [.divs]) {s : State} {n : Nat} {d : DivState}   (h0 : Q s) :
    Q (State.setDiv s n d) := by
  unfold State.setDiv
  repeat' first
    | with_reducible assumption
    | ((with_reducible refine boolGoal ?_); exact rfl)
    | ((with_reducible refine hP.one _ ?_); exact rfl)
    | ((try lift_lets); (with_reducible intro y); (have hy : Q y := ?_); clear_value y; rotate_left; subst y)
    | ((try lift_lets); (with_reducible intro y); (have hy : Q y.1 := ?_); clear_value y; rotate_left; subst y)
    | ((try lift_lets); (with_reducible intro x); (try clear_value x))
    | with_reducible refine hQ.divs ?_ ?_

theorem divEdge_law (hQ : Law P Q) (hP : Has P [.divs]) {c : Nat} {dir : Int} {s : State} {n : Nat} (hi0 : P (.one .divider n))  (h0 : Q s) :
    Q (divEdge c dir s n) := by
  unfold divEdge
  repeat' first
    | with_reducible assumption
    | ((with_reducible refine boolGoal ?_); exact rfl)
    | ((with_reducible refine hP.one _ ?_); exact rfl)
    | with_reducible refine setDiv_law hQ (hP.sub rfl) ?_
    | ((with_reducible refine hQ.wrAt hP hi0 ?_ ?_); exact rfl)
    | with_reducible refine hQ.wr hP ?_ ?_
    | with_reducible refine Law.ite ?_ ?_
    | ((try lift_lets); (with_reducible intro y); (have hy : Q y := ?_); clear_value y; rotate_left; subst y)
    | ((try lift_lets); (with_reducible intro y); (have hy : Q y.1 := ?_); clear_value y; rotate_left; subst y)
    | ((try lift_lets); (with_reducible intro x); (try clear_value x))
    | split

theorem setCount_law (hQ : Law P Q) (hP : Has P [.pfuTick, .tokens]) {c : Nat} {want : Int} {s : State} (hi0 : P (.one .enc c))  (h0 : Q s) :
    Q (setCount c want s) := by
  unfold setCount
  repeat' first
    | with_reducible assumption
    | ((with_reducible refine boolGoal ?_); exact rfl)
    | ((with_reducible refine hP.one _ ?_); exact rfl)
    | ((with_reducible refine hQ.wrIAt hP hi0 ?_ ?_); exact rfl)
    | with_reducible refine hQ.wrI hP ?_ ?_
    | with_reducible refine pfuEmit_law hQ (hP.sub rfl) ?_
    | ((with_reducible refine hQ.wrAt hP hi0 ?_ ?_); exact rfl)
    | with_reducible refine hQ.wr hP ?_ ?_
    | with_reducible refine Law.ite ?_ ?_
    | ((try lift_lets); (with_reducible intro y); (have hy : Q y := ?_); clear_value y; rotate_left; subst y)
    | ((try lift_lets); (with_reducible intro x); (try clear_value x))
    | split

theorem tesEdge_law (hQ : Law P Q) (hP : Has P [.tes]) {c : Nat} {s : State} {h : Nat}   (h0 : Q s) :
    Q (tesEdge c s h) := by
  unfold tesEdge
  repeat' first
    | with_reducible assumption
    | ((with_reducible refine boolGoal ?_); exact rfl)
    | ((with_reducible refine hP.one _ ?_); exact rfl)
    | with_reducible refine Law.ite ?_ ?_
    | ((try lift_lets); (with_reducible intro y); (have hy : Q y := ?_); clear_value y; rotate_left; subst y)
    | ((try lift_lets); (with_reducible intro y); (have hy : Q y.1 := ?_); clear_value y; rotate_left; subst y)
    | ((try lift_lets); (with_reducible intro x); (try clear_value x))
    | split
    | with_reducible refine hQ.tes ?_ ?_

theorem countEdge_law (hQ : Law P Q) (hP : Has P [.all .divider, .grp 64, .divs, .enc, .pfuTick, .tes, .tokens]) {c : Nat} {dir : Int} {s : State} (hi0 : P (.one .enc c))  (h0 : Q s) :
    Q (countEdge c dir s) := by
  unfold countEdge
  repeat' first
    | with_reducible assumption
    | ((with_reducible refine boolGoal ?_); exact rfl)
    | ((with_reducible refine hP.inst ?_); exact rfl)
    | ((with_reducible refine hP.one _ ?_); exact rfl)
    | ((with_reducible refine hQ.wrAt hP hi0 ?_ ?_); exact rfl)
    | with_reducible refine hQ.wr hP ?_ ?_
    | with_reducible refine setEnc_law hQ (hP.sub rfl) ?_
    | with_reducible refine encMeasure_law hQ (hP.sub rfl) ?_ ?_
    | with_reducible refine divEdge_law hQ (hP.sub rfl) ?_ ?_
    | with_reducible refine tesEdge_law hQ (hP.sub rfl) ?_
    | with_reducible refine evt_law hQ (hP.sub rfl) ?_
    | with_reducible refine Law.foldl (fun _ _ _ => ?_) ?_
    | with_reducible refine Law.foldlBy Prod.snd (fun _ _ _ => ?_) ?_
    | with_reducible refine Law.foldlBy Prod.fst (fun _ _ _ => ?_) ?_
    | ((try lift_lets); (with_reducible intro y); (have hy : Q y := ?_); clear_value y; rotate_left; subst y)
    | ((try lift_lets); (with_reducible intro y); (have hy : Q y.1 := ?_); clear_value y; rotate_left; subst y)
    | ((try lift_lets); (with_reducible intro x); (try clear_value x))

theorem countStep_law (hQ : Law P Q) (hP : Has P [.all .divider, .grp 64, .divs, .enc, .pfuTick, .tes, .tokens]) {c : Nat} {dir : Int} {s : State} (hi0 : P (.one .enc c))  (h0 : Q s) :
    Q (countStep c dir s) := by
  unfold countStep
  repeat' first
    | with_reducible assumption
    | ((with_reducible refine boolGoal ?_); exact rfl)
    | ((with_reducible refine hP.inst ?_); exact rfl)
    | ((with_reducible refine hP.one _ ?_); exact rfl)
    | with_reducible refine setEnc_law hQ (hP.sub rfl) ?_
    | with_reducible refine setCount_law hQ (hP.sub rfl) ?_ ?_
    | with_reducible refine countEdge_law hQ (hP.sub rfl) ?_ ?_
    | with_reducible refine Law.ite ?_ ?_
    | ((try lift_lets); (with_reducible intro y); (have hy : Q y := ?_); clear_value y; rotate_left; subst y)
    | ((try lift_lets); (with_reducible intro y); (have hy : Q y.1 := ?_); clear_value y; rotate_left; subst y)
    | ((try lift_lets); (with_reducible intro x); (try clear_value x))
    | split

theorem execEncEdge_law (hQ : Law P Q) (hP : Has P [.all .divider, .grp 3, .grp 64, .divs, .enc, .pfuTick, .tes, .tokens, .web]) {c : Nat} {a : Bool} {b : Bool} {s : State} (hi0 : P (.one .enc c))  (h0 : Q s) :
    outAll Q (execEncEdge c a b s) := by
  unfold execEncEdge
  repeat' first
    | with_reducible assumption
    | ((with_reducible refine boolGoal ?_); exact rfl)
    | ((with_reducible refine hP.inst ?_); exact rfl)
    | ((with_reducible refine hP.one _ ?_); exact rfl)
    | with_reducible refine setEnc_law hQ (hP.sub rfl) ?_
    | with_reducible refine followSource_law hQ (hP.sub rfl) ?_
    | with_reducible refine encCause_law hQ (hP.sub rfl) ?_ ?_
    | ((with_reducible refine hQ.wrAt hP hi0 ?_ ?_); exact rfl)
    | with_reducible refine hQ.wr hP ?_ ?_
    | with_reducible refine countStep_law hQ (hP.sub rfl) ?_ ?_
    | ((with_reducible refine hQ.satAt hP hi0 ?_ ?_); exact rfl)
    | with_reducible refine hQ.sat hP ?_ ?_
    | with_reducible refine Law.ite ?_ ?_
    | with_reducible refine outOk ?_
    | with_reducible exact outFault
    | with_reducible refine outWithin ?_
    | with_reducible refine iteOut ?_ ?_
    | ((try lift_lets); (with_reducible intro y); (have hy : Q y := ?_); clear_value y; rotate_left; subst y)
    | ((try lift_lets); (with_reducible intro y); (have hy : Q y.1 := ?_); clear_value y; rotate_left; subst y)
    | ((try lift_lets); (with_reducible intro x); (try clear_value x))
    | split

theorem execWireFaultEnter_law (hQ : Law P Q) (hP : Has P [.all .enc, .grp 3, .pfuTick, .tokens, .web]) {c : Nat} {pair : Nat} {s : State}   (h0 : Q s) :
    outAll Q (execWireFaultEnter c pair s) := by
  unfold execWireFaultEnter
  repeat' first
    | with_reducible assumption
    | ((with_reducible refine boolGoal ?_); exact rfl)
    | ((with_reducible refine hP.inst ?_); exact rfl)
    | ((with_reducible refine hP.one _ ?_); exact rfl)
    | with_reducible refine followSource_law hQ (hP.sub rfl) ?_
    | with_reducible refine encCause_law hQ (hP.sub rfl) ?_ ?_
    | with_reducible refine hQ.wr hP ?_ ?_
    | with_reducible refine hQ.sat hP ?_ ?_
    | ((with_reducible refine boolGoal ?_); unfold wfField; (repeat' split) <;> rfl)
    | with_reducible refine Law.ite ?_ ?_
    | with_reducible refine outOk ?_
    | with_reducible exact outFault
    | with_reducible refine outWithin ?_
    | with_reducible refine iteOut ?_ ?_
    | ((try lift_lets); (with_reducible intro y); (have hy : Q y := ?_); clear_value y; rotate_left; subst y)
    | ((try lift_lets); (with_reducible intro y); (have hy : Q y.1 := ?_); clear_value y; rotate_left; subst y)
    | ((try lift_lets); (with_reducible intro x); (try clear_value x))
    | split

theorem execWireFaultExit_law (hQ : Law P Q) (hP : Has P [.all .enc, .grp 3, .enc, .web]) {c : Nat} {pair : Nat} {level : Bool} {s : State}   (h0 : Q s) :
    outAll Q (execWireFaultExit c pair level s) := by
  unfold execWireFaultExit
  repeat' first
    | with_reducible assumption
    | ((with_reducible refine boolGoal ?_); exact rfl)
    | ((with_reducible refine hP.inst ?_); exact rfl)
    | ((with_reducible refine hP.one _ ?_); exact rfl)
    | with_reducible refine followSource_law hQ (hP.sub rfl) ?_
    | with_reducible refine hQ.wr hP ?_ ?_
    | with_reducible refine setEnc_law hQ (hP.sub rfl) ?_
    | ((with_reducible refine boolGoal ?_); unfold wfField; (repeat' split) <;> rfl)
    | with_reducible refine Law.ite ?_ ?_
    | with_reducible refine outOk ?_
    | with_reducible exact outFault
    | with_reducible refine outWithin ?_
    | with_reducible refine iteOut ?_ ?_
    | ((try lift_lets); (with_reducible intro y); (have hy : Q y := ?_); clear_value y; rotate_left; subst y)
    | ((try lift_lets); (with_reducible intro y); (have hy : Q y.1 := ?_); clear_value y; rotate_left; subst y)
    | ((try lift_lets); (with_reducible intro x); (try clear_value x))
    | split
    | dsimp only

theorem execIllactClear_law (hQ : Law P Q) (hP : Has P [.grp 3, .web]) {c : Nat} {s : State} (hi0 : P (.one .enc c))  (h0 : Q s) :
    outAll Q (execIllactClear c s) := by
  unfold execIllactClear
  repeat' first
    | with_reducible assumption
    | ((with_reducible refine boolGoal ?_); exact rfl)
    | ((with_reducible refine hP.one _ ?_); exact rfl)
    | with_reducible refine followSource_law hQ (hP.sub rfl) ?_
    | ((with_reducible refine hQ.wrAt hP hi0 ?_ ?_); exact rfl)
    | with_reducible refine hQ.wr hP ?_ ?_
    | with_reducible refine outOk ?_
    | with_reducible exact outFault
    | with_reducible refine outWithin ?_
    | with_reducible refine iteOut ?_ ?_
    | ((try lift_lets); (with_reducible intro y); (have hy : Q y := ?_); clear_value y; rotate_left; subst y)
    | ((try lift_lets); (with_reducible intro x); (try clear_value x))

theorem execIndexEdge_law (hQ : Law P Q) (hP : Has P [.enc, .pfuTick, .tokens]) {c : Nat} {s : State} (hi0 : P (.one .enc c))  (h0 : Q s) :
    outAll Q (execIndexEdge c s) := by
  unfold execIndexEdge
  repeat' first
    | with_reducible assumption
    | ((with_reducible refine boolGoal ?_); exact rfl)
    | ((with_reducible refine hP.one _ ?_); exact rfl)
    | ((with_reducible refine hQ.wrIAt hP hi0 ?_ ?_); exact rfl)
    | with_reducible refine hQ.wrI hP ?_ ?_
    | with_reducible refine encCause_law hQ (hP.sub rfl) ?_ ?_
    | with_reducible refine setCount_law hQ (hP.sub rfl) ?_ ?_
    | with_reducible refine setEnc_law hQ (hP.sub rfl) ?_
    | with_reducible refine pfuEmit_law hQ (hP.sub rfl) ?_
    | ((with_reducible refine hQ.satAt hP hi0 ?_ ?_); exact rfl)
    | with_reducible refine hQ.sat hP ?_ ?_
    | with_reducible refine Law.ite ?_ ?_
    | with_reducible refine outOk ?_
    | with_reducible exact outFault
    | with_reducible refine outWithin ?_
    | with_reducible refine iteOut ?_ ?_
    | ((try lift_lets); (with_reducible intro y); (have hy : Q y := ?_); clear_value y; rotate_left; subst y)
    | ((try lift_lets); (with_reducible intro y); (have hy : Q y.1 := ?_); clear_value y; rotate_left; subst y)
    | ((try lift_lets); (with_reducible intro x); (try clear_value x))
    | split

theorem boundCheck_law (hQ : Law P Q) (hP : Has P [.grp 64, .enc, .pfuTick, .tokens]) {s : State} {c : Nat} (hi0 : P (.one .enc c))  (h0 : Q s) :
    Q (boundCheck s c) := by
  unfold boundCheck
  repeat' first
    | with_reducible assumption
    | ((with_reducible refine boolGoal ?_); exact rfl)
    | ((with_reducible refine hP.one _ ?_); exact rfl)
    | with_reducible refine encMeasure_law hQ (hP.sub rfl) ?_ ?_
    | with_reducible refine Law.ite ?_ ?_
    | ((try lift_lets); (with_reducible intro y); (have hy : Q y := ?_); clear_value y; rotate_left; subst y)
    | ((try lift_lets); (with_reducible intro y); (have hy : Q y.1 := ?_); clear_value y; rotate_left; subst y)
    | ((try lift_lets); (with_reducible intro x); (try clear_value x))
    | split

theorem showWeb_law (hQ : Law P Q) (hP : Has P [.grp 3]) {s : State}   (h0 : Q s) :
    Q (showWeb s) := by
  unfold showWeb
  repeat' first
    | with_reducible assumption
    | ((with_reducible refine boolGoal ?_); exact rfl)
    | ((with_reducible refine hP.one _ ?_); exact rfl)
    | with_reducible refine hQ.wrI hP ?_ ?_

theorem execObserverBoundCheck_law (hQ : Law P Q) (hP : Has P [.all .enc, .grp 3, .grp 64, .enc, .pfuTick, .tokens]) {s : State}   (h0 : Q s) :
    outAll Q (execObserverBoundCheck s) := by
  unfold execObserverBoundCheck
  repeat' first
    | with_reducible assumption
    | ((with_reducible refine boolGoal ?_); exact rfl)
    | ((with_reducible refine hP.inst ?_); exact rfl)
    | ((with_reducible refine hP.one _ ?_); exact rfl)
    | with_reducible refine showWeb_law hQ (hP.sub rfl) ?_
    | with_reducible refine boundCheck_law hQ (hP.sub rfl) ?_ ?_
    | with_reducible refine outOk ?_
    | with_reducible exact outFault
    | with_reducible refine outWithin ?_
    | with_reducible refine iteOut ?_ ?_
    | with_reducible refine Law.foldl (fun _ _ _ => ?_) ?_
    | with_reducible refine Law.foldlBy Prod.snd (fun _ _ _ => ?_) ?_
    | with_reducible refine Law.foldlBy Prod.fst (fun _ _ _ => ?_) ?_

theorem execSsiPoll_law (hQ : Law P Q) (hP : Has P [.pfuTick, .ssi, .tokens]) {k : Nat} {low : Bool} {s : State} (hi0 : P (.one .ssi k))  (h0 : Q s) :
    outAll Q (execSsiPoll k low s) := by
  unfold execSsiPoll
  repeat' first
    | with_reducible assumption
    | ((with_reducible refine boolGoal ?_); exact rfl)
    | ((with_reducible refine hP.one _ ?_); exact rfl)
    | with_reducible refine setSsi_law hQ (hP.sub rfl) ?_
    | with_reducible refine ssiCause_law hQ (hP.sub rfl) ?_ ?_
    | with_reducible refine Law.ite ?_ ?_
    | with_reducible refine outOk ?_
    | with_reducible exact outFault
    | with_reducible refine outWithin ?_
    | with_reducible refine iteOut ?_ ?_
    | ((try lift_lets); (with_reducible intro y); (have hy : Q y := ?_); clear_value y; rotate_left; subst y)
    | ((try lift_lets); (with_reducible intro y); (have hy : Q y.1 := ?_); clear_value y; rotate_left; subst y)
    | ((try lift_lets); (with_reducible intro x); (try clear_value x))
    | split

theorem ssiFault_law (hQ : Law P Q) (hP : Has P [.grp 3, .ssi, .web]) {k : Nat} {s : State} (hi0 : P (.one .ssi k))  (h0 : Q s) :
    Q (ssiFault k s) := by
  unfold ssiFault
  repeat' first
    | with_reducible assumption
    | ((with_reducible refine boolGoal ?_); exact rfl)
    | ((with_reducible refine hP.one _ ?_); exact rfl)
    | with_reducible refine followSource_law hQ (hP.sub rfl) ?_
    | ((with_reducible refine hQ.satAt hP hi0 ?_ ?_); exact rfl)
    | with_reducible refine hQ.sat hP ?_ ?_
    | with_reducible refine setSsi_law hQ (hP.sub rfl) ?_
    | ((try lift_lets); (with_reducible intro y); (have hy : Q y := ?_); clear_value y; rotate_left; subst y)
    | ((try lift_lets); (with_reducible intro y); (have hy : Q y.1 := ?_); clear_value y; rotate_left; subst y)
    | ((try lift_lets); (with_reducible intro x); (try clear_value x))

theorem execSsiFrameEnd_law (hQ : Law P Q) (hP : Has P [.grp 3, .grp 64, .pfuTick, .seq, .ssi, .tokens, .web]) {k : Nat} {raw : Nat} {err : Bool} {s : State} (hi0 : P (.one .ssi k))  (h0 : Q s) :
    outAll Q (execSsiFrameEnd k raw err s) := by
  unfold execSsiFrameEnd
  repeat' first
    | with_reducible assumption
    | ((with_reducible refine boolGoal ?_); exact rfl)
    | ((with_reducible refine hP.one _ ?_); exact rfl)
    | ((with_reducible refine hQ.wrAt hP hi0 ?_ ?_); exact rfl)
    | with_reducible refine hQ.wr hP ?_ ?_
    | with_reducible refine ssiCause_law hQ (hP.sub rfl) ?_ ?_
    | ((with_reducible refine hQ.wrIAt hP hi0 ?_ ?_); exact rfl)
    | with_reducible refine hQ.wrI hP ?_ ?_
    | with_reducible refine ssiFault_law hQ (hP.sub rfl) ?_ ?_
    | with_reducible refine followSource_law hQ (hP.sub rfl) ?_
    | with_reducible refine ssiMeasure_law hQ (hP.sub rfl) ?_ ?_
    | with_reducible refine setSsi_law hQ (hP.sub rfl) ?_
    | ((with_reducible refine hQ.satAt hP hi0 ?_ ?_); exact rfl)
    | with_reducible refine hQ.sat hP ?_ ?_
    | with_reducible refine evt_law hQ (hP.sub rfl) ?_
    | with_reducible refine Law.ite ?_ ?_
    | with_reducible refine outOk ?_
    | with_reducible exact outFault
    | with_reducible refine outWithin ?_
    | with_reducible refine iteOut ?_ ?_
    | ((try lift_lets); (with_reducible intro y); (have hy : Q y := ?_); clear_value y; rotate_left; subst y)
    | ((try lift_lets); (with_reducible intro y); (have hy : Q y.1 := ?_); clear_value y; rotate_left; subst y)
    | ((try lift_lets); (with_reducible intro x); (try clear_value x))
    | split
    | dsimp only

theorem execSsiNorespTimeout_law (hQ : Law P Q) (hP : Has P [.grp 3, .pfuTick, .ssi, .tokens, .web]) {k : Nat} {s : State} (hi0 : P (.one .ssi k))  (h0 : Q s) :
    outAll Q (execSsiNorespTimeout k s) := by
  unfold execSsiNorespTimeout
  repeat' first
    | with_reducible assumption
    | ((with_reducible refine boolGoal ?_); exact rfl)
    | ((with_reducible refine hP.one _ ?_); exact rfl)
    | with_reducible refine ssiFault_law hQ (hP.sub rfl) ?_ ?_
    | with_reducible refine ssiCause_law hQ (hP.sub rfl) ?_ ?_
    | with_reducible refine Law.ite ?_ ?_
    | with_reducible refine outOk ?_
    | with_reducible exact outFault
    | with_reducible refine outWithin ?_
    | with_reducible refine iteOut ?_ ?_
    | ((try lift_lets); (with_reducible intro y); (have hy : Q y := ?_); clear_value y; rotate_left; subst y)
    | ((try lift_lets); (with_reducible intro y); (have hy : Q y.1 := ?_); clear_value y; rotate_left; subst y)
    | ((try lift_lets); (with_reducible intro x); (try clear_value x))
    | split

theorem setProbe_law (hQ : Law P Q) (hP : Has P [.probes]) {p : Nat} {q : List ProbeRec} {s : State} (hi0 : P (.one .probe p))  (h0 : Q s) :
    Q (setProbe p q s) := by
  unfold setProbe
  repeat' first
    | with_reducible assumption
    | ((with_reducible refine boolGoal ?_); exact rfl)
    | ((with_reducible refine hP.one _ ?_); exact rfl)
    | ((with_reducible refine hQ.wrIAt hP hi0 ?_ ?_); exact rfl)
    | with_reducible refine hQ.wrI hP ?_ ?_
    | ((with_reducible refine hQ.wrAllAt hP hi0 ?_ ?_); simp only [List.all]; exact rfl)
    | ((with_reducible refine hQ.wrAll hP ?_ ?_); simp only [List.all]; exact rfl)
    | ((try lift_lets); (with_reducible intro y); (have hy : Q y := ?_); clear_value y; rotate_left; subst y)
    | ((try lift_lets); (with_reducible intro y); (have hy : Q y.1 := ?_); clear_value y; rotate_left; subst y)
    | ((try lift_lets); (with_reducible intro x); (try clear_value x))
    | with_reducible refine hQ.probes ?_ ?_

theorem execProbeEdge_law (hQ : Law P Q) (hP : Has P [.probes, .tokens]) {p : Nat} {rising : Bool} {s : State} (hi0 : P (.one .probe p))  (h0 : Q s) :
    outAll Q (execProbeEdge p rising s) := by
  unfold execProbeEdge
  repeat' first
    | with_reducible assumption
    | ((with_reducible refine boolGoal ?_); exact rfl)
    | ((with_reducible refine hP.one _ ?_); exact rfl)
    | with_reducible refine setProbe_law hQ (hP.sub rfl) ?_ ?_
    | ((with_reducible refine hQ.satAt hP hi0 ?_ ?_); exact rfl)
    | with_reducible refine hQ.sat hP ?_ ?_
    | with_reducible refine emit_law hQ (hP.sub rfl) ?_
    | with_reducible refine Law.ite ?_ ?_
    | with_reducible refine outOk ?_
    | with_reducible exact outFault
    | with_reducible refine outWithin ?_
    | with_reducible refine iteOut ?_ ?_
    | with_reducible refine optAll.getD ?_ ?_
    | ((try lift_lets); (with_reducible intro y); (have hy : Q y := ?_); clear_value y; rotate_left; subst y)
    | ((try lift_lets); (with_reducible intro y); (have hy : Q y.1 := ?_); clear_value y; rotate_left; subst y)
    | ((try lift_lets); (with_reducible intro x); (try clear_value x))
    | split

theorem execDivStep_law (hQ : Law P Q) (hP : Has P [.divs]) {n : Nat} {s : State} (hi0 : P (.one .divider n))  (h0 : Q s) :
    outAll Q (execDivStep n s) := by
  unfold execDivStep
  repeat' first
    | with_reducible assumption
    | ((with_reducible refine boolGoal ?_); exact rfl)
    | ((with_reducible refine hP.one _ ?_); exact rfl)
    | with_reducible refine setDiv_law hQ (hP.sub rfl) ?_
    | ((with_reducible refine hQ.wrAt hP hi0 ?_ ?_); exact rfl)
    | with_reducible refine hQ.wr hP ?_ ?_
    | with_reducible refine Law.ite ?_ ?_
    | with_reducible refine outOk ?_
    | with_reducible exact outFault
    | with_reducible refine outWithin ?_
    | with_reducible refine iteOut ?_ ?_
    | ((try lift_lets); (with_reducible intro y); (have hy : Q y := ?_); clear_value y; rotate_left; subst y)
    | ((try lift_lets); (with_reducible intro y); (have hy : Q y.1 := ?_); clear_value y; rotate_left; subst y)
    | ((try lift_lets); (with_reducible intro x); (try clear_value x))
    | split

theorem execWpSourceFault_law (hQ : Law P Q) (hP : Has P [.grp 3, .web]) {s : State}   (h0 : Q s) :
    outAll Q (execWpSourceFault s) := by
  unfold execWpSourceFault
  repeat' first
    | with_reducible assumption
    | ((with_reducible refine boolGoal ?_); exact rfl)
    | ((with_reducible refine hP.one _ ?_); exact rfl)
    | with_reducible refine enterSourceFault_law hQ (hP.sub rfl) ?_
    | with_reducible refine Law.ite ?_ ?_
    | with_reducible refine outOk ?_
    | with_reducible exact outFault
    | with_reducible refine outWithin ?_
    | with_reducible refine iteOut ?_ ?_
    | split

theorem execWpSourceRecover_law (hQ : Law P Q) (hP : Has P [.grp 3, .web]) {s : State}   (h0 : Q s) :
    outAll Q (execWpSourceRecover s) := by
  unfold execWpSourceRecover
  repeat' first
    | with_reducible assumption
    | ((with_reducible refine boolGoal ?_); exact rfl)
    | ((with_reducible refine hP.one _ ?_); exact rfl)
    | with_reducible refine leaveSourceFault_law hQ (hP.sub rfl) ?_
    | with_reducible refine Law.ite ?_ ?_
    | with_reducible refine outOk ?_
    | with_reducible exact outFault
    | with_reducible refine outWithin ?_
    | with_reducible refine iteOut ?_ ?_
    | split

theorem execCoastExpiry_law (hQ : Law P Q) (hP : Has P [.all .tesHead, .grp 3, .grp 9, .marks, .tokens, .web]) {s : State}   (h0 : Q s) :
    outAll Q (execCoastExpiry s) := by
  unfold execCoastExpiry
  repeat' first
    | with_reducible assumption
    | ((with_reducible refine boolGoal ?_); exact rfl)
    | ((with_reducible refine hP.inst ?_); exact rfl)
    | ((with_reducible refine hP.one _ ?_); exact rfl)
    | with_reducible refine posLost_law hQ (hP.sub rfl) ?_
    | with_reducible refine Law.ite ?_ ?_
    | with_reducible refine outOk ?_
    | with_reducible exact outFault
    | with_reducible refine outWithin ?_
    | with_reducible refine iteOut ?_ ?_
    | split

theorem newLimits_law (hQ : Law P Q) (hP : Has P [.enc, .pfuTick, .tokens]) {c : Nat} {s : State} (hi0 : P (.one .enc c))  (h0 : Q s) :
    Q (newLimits c s) := by
  unfold newLimits
  repeat' first
    | with_reducible assumption
    | ((with_reducible refine boolGoal ?_); exact rfl)
    | ((with_reducible refine hP.one _ ?_); exact rfl)
    | with_reducible refine setCount_law hQ (hP.sub rfl) ?_ ?_
    | with_reducible refine setEnc_law hQ (hP.sub rfl) ?_
    | with_reducible refine Law.ite ?_ ?_
    | ((try lift_lets); (with_reducible intro y); (have hy : Q y := ?_); clear_value y; rotate_left; subst y)
    | ((try lift_lets); (with_reducible intro y); (have hy : Q y.1 := ?_); clear_value y; rotate_left; subst y)
    | ((try lift_lets); (with_reducible intro x); (try clear_value x))
    | split

theorem joinCount_law (hQ : Law P Q) (hP : Has P [.enc, .pfuTick, .tokens]) {c : Nat} {s : State} (hi0 : P (.one .enc c))  (h0 : Q s) :
    Q (joinCount c s) := by
  unfold joinCount
  repeat' first
    | with_reducible assumption
    | ((with_reducible refine boolGoal ?_); exact rfl)
    | ((with_reducible refine hP.one _ ?_); exact rfl)
    | with_reducible refine setCount_law hQ (hP.sub rfl) ?_ ?_
    | with_reducible refine setEnc_law hQ (hP.sub rfl) ?_
    | with_reducible refine Law.ite ?_ ?_
    | ((try lift_lets); (with_reducible intro y); (have hy : Q y := ?_); clear_value y; rotate_left; subst y)
    | ((try lift_lets); (with_reducible intro y); (have hy : Q y.1 := ?_); clear_value y; rotate_left; subst y)
    | ((try lift_lets); (with_reducible intro x); (try clear_value x))
    | split

theorem execPfuEnccfg_law (hQ : Law P Q) (hP : Has P [.all .enc, .grp 0, .grp 64, .enc, .pfuTick, .procs, .sampled, .seq, .tokens]) {x : XWord} {s : State}   (h0 : Q s) :
    outAll Q (execPfuEnccfg x s) := by
  unfold execPfuEnccfg
  repeat' first
    | with_reducible assumption
    | ((with_reducible refine boolGoal ?_); exact rfl)
    | ((with_reducible refine hP.inst ?_); exact rfl)
    | ((with_reducible refine hP.one _ ?_); exact rfl)
    | ((with_reducible refine blockOp_law hQ (hP.sub rfl) hP ?_ (fun _ _ => ?_) ?_); (simp only [List.all, encCfgFields]; exact rfl))
    | with_reducible refine newLimits_law hQ (hP.sub rfl) ?_ ?_
    | with_reducible refine joinCount_law hQ (hP.sub rfl) ?_ ?_
    | with_reducible refine setEnc_law hQ (hP.sub rfl) ?_
    | with_reducible refine excPair ?_
    | with_reducible refine excState ?_
    | with_reducible exact excError
    | with_reducible refine iteExc ?_ ?_
    | with_reducible refine outOk ?_
    | with_reducible exact outFault
    | with_reducible refine outWithin ?_
    | with_reducible refine iteOut ?_ ?_
    | ((try lift_lets); (with_reducible intro y); (have hy : Q y := ?_); clear_value y; rotate_left; subst y)
    | ((try lift_lets); (with_reducible intro y); (have hy : Q y.1 := ?_); clear_value y; rotate_left; subst y)
    | ((try lift_lets); (with_reducible intro x); (try clear_value x))

theorem execPfuSsicfg_law (hQ : Law P Q) (hP : Has P [.grp 0, .grp 64, .procs, .sampled, .seq, .ssi, .tokens]) {x : XWord} {s : State} (hi0 : P (.one .ssi (xargs s x).i))  (h0 : Q s) :
    outAll Q (execPfuSsicfg x s) := by
  unfold execPfuSsicfg
  repeat' first
    | with_reducible assumption
    | ((with_reducible refine boolGoal ?_); exact rfl)
    | ((with_reducible refine hP.one _ ?_); exact rfl)
    | ((with_reducible refine blockOpAt_law hQ (hP.sub rfl) hP hi0 ?_ (fun _ _ => ?_) ?_); (simp only [List.all, ssiCfgFields]; exact rfl))
    | ((with_reducible refine blockOp_law hQ (hP.sub rfl) hP ?_ (fun _ _ => ?_) ?_); (simp only [List.all, ssiCfgFields]; exact rfl))
    | with_reducible refine setSsi_law hQ (hP.sub rfl) ?_
    | with_reducible refine excPair ?_
    | with_reducible refine excState ?_
    | with_reducible exact excError
    | with_reducible refine iteExc ?_ ?_
    | with_reducible refine outOk ?_
    | with_reducible exact outFault
    | with_reducible refine outWithin ?_
    | with_reducible refine iteOut ?_ ?_
    | ((try lift_lets); (with_reducible intro y); (have hy : Q y := ?_); clear_value y; rotate_left; subst y)
    | ((try lift_lets); (with_reducible intro y); (have hy : Q y.1 := ?_); clear_value y; rotate_left; subst y)
    | ((try lift_lets); (with_reducible intro x); (try clear_value x))

theorem execPfuPrbcfg_law (hQ : Law P Q) (hP : Has P [.all .probe, .grp 0, .grp 64, .probes, .procs, .sampled, .seq, .tokens]) {x : XWord} {s : State}   (h0 : Q s) :
    outAll Q (execPfuPrbcfg x s) := by
  unfold execPfuPrbcfg
  repeat' first
    | with_reducible assumption
    | ((with_reducible refine boolGoal ?_); exact rfl)
    | ((with_reducible refine hP.inst ?_); exact rfl)
    | ((with_reducible refine hP.one _ ?_); exact rfl)
    | ((with_reducible refine blockOp_law hQ (hP.sub rfl) hP ?_ (fun _ _ => ?_) ?_); (simp only [List.all]; exact rfl))
    | with_reducible refine setProbe_law hQ (hP.sub rfl) ?_ ?_
    | with_reducible refine excPair ?_
    | with_reducible refine excState ?_
    | with_reducible exact excError
    | with_reducible refine iteExc ?_ ?_
    | with_reducible refine outOk ?_
    | with_reducible exact outFault
    | with_reducible refine outWithin ?_
    | with_reducible refine iteOut ?_ ?_
    | ((try lift_lets); (with_reducible intro x); (try clear_value x))

theorem execPfuPpop_law (hQ : Law P Q) (hP : Has P [.grp 0, .grp 64, .probes, .procs, .sampled, .seq, .tokens]) {x : XWord} {s : State} (hi0 : P (.one .probe (xargs s x).i))  (h0 : Q s) :
    outAll Q (execPfuPpop x s) := by
  unfold execPfuPpop
  repeat' first
    | with_reducible assumption
    | ((with_reducible refine boolGoal ?_); exact rfl)
    | ((with_reducible refine hP.one _ ?_); exact rfl)
    | with_reducible refine direct_law hQ (hP.sub rfl) (fun _ => ?_) ?_
    | with_reducible refine setProbe_law hQ (hP.sub rfl) ?_ ?_
    | with_reducible refine excPair ?_
    | with_reducible refine excState ?_
    | with_reducible exact excError
    | with_reducible refine iteExc ?_ ?_
    | with_reducible refine outOk ?_
    | with_reducible exact outFault
    | with_reducible refine outWithin ?_
    | with_reducible refine iteOut ?_ ?_
    | ((try lift_lets); (with_reducible intro x); (try clear_value x))

theorem execPfuDivcfg_law (hQ : Law P Q) (hP : Has P [.grp 0, .grp 64, .divs, .procs, .sampled, .seq, .tokens]) {x : XWord} {s : State} (hi0 : P (.one .divider (xargs s x).i))  (h0 : Q s) :
    outAll Q (execPfuDivcfg x s) := by
  unfold execPfuDivcfg
  repeat' first
    | with_reducible assumption
    | ((with_reducible refine boolGoal ?_); exact rfl)
    | ((with_reducible refine hP.one _ ?_); exact rfl)
    | ((with_reducible refine blockOpAt_law hQ (hP.sub rfl) hP hi0 ?_ (fun _ _ => ?_) ?_); (simp only [List.all]; exact rfl))
    | ((with_reducible refine blockOp_law hQ (hP.sub rfl) hP ?_ (fun _ _ => ?_) ?_); (simp only [List.all]; exact rfl))
    | with_reducible refine setDiv_law hQ (hP.sub rfl) ?_
    | ((with_reducible refine hQ.wrAt hP hi0 ?_ ?_); exact rfl)
    | with_reducible refine hQ.wr hP ?_ ?_
    | with_reducible refine excPair ?_
    | with_reducible refine excState ?_
    | with_reducible exact excError
    | with_reducible refine iteExc ?_ ?_
    | with_reducible refine outOk ?_
    | with_reducible exact outFault
    | with_reducible refine outWithin ?_
    | with_reducible refine iteOut ?_ ?_
    | ((try lift_lets); (with_reducible intro y); (have hy : Q y := ?_); clear_value y; rotate_left; subst y)
    | ((try lift_lets); (with_reducible intro y); (have hy : Q y.1 := ?_); clear_value y; rotate_left; subst y)
    | ((try lift_lets); (with_reducible intro x); (try clear_value x))

theorem execPfuWpcfg_law (hQ : Law P Q) (hP : Has P [.all .tesHead, .grp 0, .grp 3, .grp 64, .procs, .sampled, .seq, .tokens, .web]) {x : XWord} {s : State}   (h0 : Q s) :
    outAll Q (execPfuWpcfg x s) := by
  unfold execPfuWpcfg
  repeat' first
    | with_reducible assumption
    | ((with_reducible refine boolGoal ?_); exact rfl)
    | ((with_reducible refine hP.inst ?_); exact rfl)
    | ((with_reducible refine hP.one _ ?_); exact rfl)
    | with_reducible refine xop_law hQ (hP.sub rfl) (fun _ => ?_) ?_
    | with_reducible refine anchorCount_law hQ (hP.sub rfl) ?_
    | with_reducible refine anchorPos_law hQ (hP.sub rfl) ?_
    | ((with_reducible refine hQ.blockWrite hP ?_ ?_); simp only [List.all]; exact rfl)
    | with_reducible refine nopos_law hQ (hP.sub rfl) ?_
    | with_reducible refine enterSourceFault_law hQ (hP.sub rfl) ?_
    | ((with_reducible refine hQ.wrAll hP ?_ ?_); simp only [List.all]; exact rfl)
    | with_reducible refine followSource_law hQ (hP.sub rfl) ?_
    | with_reducible refine setWeb_law hQ (hP.sub rfl) ?_
    | with_reducible refine Law.ite ?_ ?_
    | with_reducible refine resFin ?_
    | with_reducible refine resNo ?_
    | with_reducible refine resStart ?_
    | with_reducible refine resForm ?_
    | with_reducible refine resGone ?_
    | with_reducible refine resHold ?_
    | with_reducible refine iteRes ?_ ?_
    | with_reducible refine outOk ?_
    | with_reducible exact outFault
    | with_reducible refine outWithin ?_
    | with_reducible refine iteOut ?_ ?_
    | ((try lift_lets); (with_reducible intro y); (have hy : Q y := ?_); clear_value y; rotate_left; subst y)
    | ((try lift_lets); (with_reducible intro y); (have hy : Q y.1 := ?_); clear_value y; rotate_left; subst y)
    | ((try lift_lets); (with_reducible intro x); (try clear_value x))
    | split

theorem execPfuWpset_law (hQ : Law P Q) (hP : Has P [.grp 0, .grp 3, .grp 64, .procs, .sampled, .seq, .tokens, .web]) {x : XWord} {s : State}   (h0 : Q s) :
    outAll Q (execPfuWpset x s) := by
  unfold execPfuWpset
  repeat' first
    | with_reducible assumption
    | ((with_reducible refine boolGoal ?_); exact rfl)
    | ((with_reducible refine hP.one _ ?_); exact rfl)
    | with_reducible refine xop_law hQ (hP.sub rfl) (fun _ => ?_) ?_
    | with_reducible refine hQ.wrI hP ?_ ?_
    | with_reducible refine anchorCount_law hQ (hP.sub rfl) ?_
    | with_reducible refine setWeb_law hQ (hP.sub rfl) ?_
    | with_reducible refine Law.ite ?_ ?_
    | with_reducible refine resFin ?_
    | with_reducible refine resNo ?_
    | with_reducible refine resStart ?_
    | with_reducible refine resForm ?_
    | with_reducible refine resGone ?_
    | with_reducible refine resHold ?_
    | with_reducible refine iteRes ?_ ?_
    | with_reducible refine outOk ?_
    | with_reducible exact outFault
    | with_reducible refine outWithin ?_
    | with_reducible refine iteOut ?_ ?_
    | ((try lift_lets); (with_reducible intro y); (have hy : Q y := ?_); clear_value y; rotate_left; subst y)
    | ((try lift_lets); (with_reducible intro y); (have hy : Q y.1 := ?_); clear_value y; rotate_left; subst y)
    | ((try lift_lets); (with_reducible intro x); (try clear_value x))
    | split
    | dsimp only

theorem pfuCntOne_law (hQ : Law P Q) (hP : Has P [.all .divider, .all .probe, .all .ssi]) {i : Nat} {s : State} (hi0 : P (.one .enc i))  (h0 : Q s) :
    Q (pfuCntOne i s) := by
  unfold pfuCntOne
  repeat' first
    | with_reducible assumption
    | ((with_reducible refine boolGoal ?_); exact rfl)
    | ((with_reducible refine hP.inst ?_); exact rfl)
    | ((with_reducible refine hP.one _ ?_); exact rfl)
    | ((with_reducible refine hQ.clrAt hP hi0 ?_ ?_); simp only [List.all]; exact rfl)
    | ((with_reducible refine hQ.clr hP ?_ ?_); simp only [List.all]; exact rfl)
    | with_reducible refine Law.ite ?_ ?_
    | split

theorem pfuEvOne_law (hQ : Law P Q) (hP : Has P [.all .divider, .all .ssi, .grp 3]) {arg : Nat} {i : Nat} {s : State} (hi0 : P (.one .enc i))  (h0 : Q s) :
    Q (pfuEvOne arg i s) := by
  unfold pfuEvOne
  repeat' first
    | with_reducible assumption
    | ((with_reducible refine boolGoal ?_); exact rfl)
    | ((with_reducible refine hP.inst ?_); exact rfl)
    | ((with_reducible refine hP.one _ ?_); exact rfl)
    | ((with_reducible refine hQ.wrAt hP hi0 ?_ ?_); exact rfl)
    | with_reducible refine hQ.wr hP ?_ ?_
    | with_reducible refine Law.ite ?_ ?_
    | split

end Sys2Proof.Machine
end

