-- ==== Sys2Proof/Laws/HeadCore.lean ====
section
/-!
SUPPORT. What each function of Machine/HeadCore.lean can change: every law of the parts it names survives it.
-/
namespace Sys2Proof.Machine

variable {P : Part → Prop} {Q : State → Prop}

theorem setTes_law (hQ : Law P Q) (hP : Has P [.tes]) {s : State} {h : Nat} {e : TesState}   (h0 : Q s) :
    Q (State.setTes s h e) := by
  unfold State.setTes
  repeat' first
    | with_reducible assumption
    | ((with_reducible refine boolGoal ?_); exact rfl)
    | ((with_reducible refine hP.one _ ?_); exact rfl)
    | ((try lift_lets); (with_reducible intro y); (have hy : Q y := ?_); clear_value y; rotate_left; subst y)
    | ((try lift_lets); (with_reducible intro y); (have hy : Q y.1 := ?_); clear_value y; rotate_left; subst y)
    | ((try lift_lets); (with_reducible intro x); (try clear_value x))
    | with_reducible refine hQ.tes ?_ ?_

theorem setView_law (hQ : Law P Q) (hP : Has P [.views]) {s : State} {v : Nat} {e : ViewState}   (h0 : Q s) :
    Q (State.setView s v e) := by
  unfold State.setView
  repeat' first
    | with_reducible assumption
    | ((with_reducible refine boolGoal ?_); exact rfl)
    | ((with_reducible refine hP.one _ ?_); exact rfl)
    | ((try lift_lets); (with_reducible intro y); (have hy : Q y := ?_); clear_value y; rotate_left; subst y)
    | ((try lift_lets); (with_reducible intro y); (have hy : Q y.1 := ?_); clear_value y; rotate_left; subst y)
    | ((try lift_lets); (with_reducible intro x); (try clear_value x))
    | with_reducible refine hQ.views ?_ ?_

theorem showSbrows_law (hQ : Law P Q) (hP : Has P [.all .view]) {s : State}   (h0 : Q s) :
    Q (showSbrows s) := by
  unfold showSbrows
  repeat' first
    | with_reducible assumption
    | ((with_reducible refine boolGoal ?_); exact rfl)
    | ((with_reducible refine hP.inst ?_); exact rfl)
    | ((with_reducible refine hP.one _ ?_); exact rfl)
    | with_reducible refine hQ.wr hP ?_ ?_
    | with_reducible refine Law.ite ?_ ?_
    | with_reducible refine Law.foldl (fun _ _ _ => ?_) ?_
    | with_reducible refine Law.foldlBy Prod.snd (fun _ _ _ => ?_) ?_
    | with_reducible refine Law.foldlBy Prod.fst (fun _ _ _ => ?_) ?_
    | ((try lift_lets); (with_reducible intro y); (have hy : Q y := ?_); clear_value y; rotate_left; subst y)
    | ((try lift_lets); (with_reducible intro x); (try clear_value x))
    | split

theorem sendGap_law (hQ : Law P Q) (hP : Has P [.grp 64, .gaps, .heads, .tokens]) {h : Nat} {s : State}   (h0 : Q s) :
    Q (sendGap h s) := by
  unfold sendGap
  repeat' first
    | with_reducible assumption
    | ((with_reducible refine boolGoal ?_); exact rfl)
    | ((with_reducible refine hP.one _ ?_); exact rfl)
    | with_reducible refine setHead_law hQ (hP.sub rfl) ?_
    | with_reducible refine evt_law hQ (hP.sub rfl) ?_
    | with_reducible refine emit_law hQ (hP.sub rfl) ?_
    | ((try lift_lets); (with_reducible intro y); (have hy : Q y := ?_); clear_value y; rotate_left; subst y)
    | ((try lift_lets); (with_reducible intro y); (have hy : Q y.1 := ?_); clear_value y; rotate_left; subst y)
    | ((try lift_lets); (with_reducible intro x); (try clear_value x))
    | split
    | dsimp only
    | with_reducible refine hQ.gaps ?_ ?_

theorem missRow_law (hQ : Law P Q) (hP : Has P [.grp 9, .grp 64, .gaps, .heads, .sump, .tokens]) {h : Nat} {skind : Nat} {r : Tag} {s : State}   (h0 : Q s) :
    Q (missRow h skind r s) := by
  unfold missRow
  repeat' first
    | with_reducible assumption
    | ((with_reducible refine boolGoal ?_); exact rfl)
    | ((with_reducible refine hP.one _ ?_); exact rfl)
    | with_reducible refine note_law hQ (hP.sub rfl) ?_
    | with_reducible refine sendGap_law hQ (hP.sub rfl) ?_
    | with_reducible refine setHead_law hQ (hP.sub rfl) ?_
    | with_reducible refine evt_law hQ (hP.sub rfl) ?_
    | with_reducible refine Law.ite ?_ ?_
    | ((try lift_lets); (with_reducible intro y); (have hy : Q y := ?_); clear_value y; rotate_left; subst y)
    | ((try lift_lets); (with_reducible intro y); (have hy : Q y.1 := ?_); clear_value y; rotate_left; subst y)
    | ((try lift_lets); (with_reducible intro x); (try clear_value x))
    | split
    | dsimp only

theorem closeOldest_law (hQ : Law P Q) (hP : Has P [.grp 9, .grp 64, .gaps, .heads, .sump, .tokens]) {h : Nat} {s : State} (hi0 : P (.one .head h))  (h0 : Q s) :
    Q (closeOldest h s) := by
  unfold closeOldest
  repeat' first
    | with_reducible assumption
    | ((with_reducible refine boolGoal ?_); exact rfl)
    | ((with_reducible refine hP.one _ ?_); exact rfl)
    | with_reducible refine setHead_law hQ (hP.sub rfl) ?_
    | with_reducible refine missRow_law hQ (hP.sub rfl) ?_
    | ((with_reducible refine hQ.satAt hP hi0 ?_ ?_); exact rfl)
    | with_reducible refine hQ.sat hP ?_ ?_
    | with_reducible refine Law.ite ?_ ?_
    | ((try lift_lets); (with_reducible intro y); (have hy : Q y := ?_); clear_value y; rotate_left; subst y)
    | ((try lift_lets); (with_reducible intro y); (have hy : Q y.1 := ?_); clear_value y; rotate_left; subst y)
    | ((try lift_lets); (with_reducible intro x); (try clear_value x))
    | split
    | dsimp only

theorem decideClosed_law (hQ : Law P Q) (hP : Has P [.grp 9, .grp 64, .gaps, .heads, .sump, .tokens]) {h : Nat} {s : State}   (h0 : Q s) :
    Q (decideClosed h s) := by
  unfold decideClosed
  repeat' first
    | with_reducible assumption
    | ((with_reducible refine boolGoal ?_); exact rfl)
    | ((with_reducible refine hP.one _ ?_); exact rfl)
    | with_reducible refine missRow_law hQ (hP.sub rfl) ?_
    | with_reducible refine setHead_law hQ (hP.sub rfl) ?_
    | with_reducible refine Law.foldl (fun _ _ _ => ?_) ?_
    | with_reducible refine Law.foldlBy Prod.snd (fun _ _ _ => ?_) ?_
    | with_reducible refine Law.foldlBy Prod.fst (fun _ _ _ => ?_) ?_
    | ((try lift_lets); (with_reducible intro y); (have hy : Q y := ?_); clear_value y; rotate_left; subst y)
    | ((try lift_lets); (with_reducible intro y); (have hy : Q y.1 := ?_); clear_value y; rotate_left; subst y)
    | ((try lift_lets); (with_reducible intro x); (try clear_value x))

theorem closeRecs_law (hQ : Law P Q) (hP : Has P [.all .head, .grp 9, .grp 64, .gaps, .heads, .sump, .tokens]) {h : Nat} {x0 : Nat}   {s : State} (h0 : Q s) :
    Q (closeRecs h x0 s) := by
  induction x0 generalizing h s with
  | zero =>
    unfold closeRecs
    repeat' first
      | with_reducible assumption
      | ((with_reducible refine boolGoal ?_); exact rfl)
      | ((with_reducible refine hP.inst ?_); exact rfl)
      | ((with_reducible refine hP.one _ ?_); exact rfl)
      | with_reducible refine closeOldest_law hQ (hP.sub rfl) ?_ ?_
  | succ n ih =>
    unfold closeRecs
    repeat' first
      | with_reducible assumption
      | with_reducible apply ih
      | ((with_reducible refine boolGoal ?_); exact rfl)
      | ((with_reducible refine hP.inst ?_); exact rfl)
      | ((with_reducible refine hP.one _ ?_); exact rfl)
      | with_reducible refine closeOldest_law hQ (hP.sub rfl) ?_ ?_

theorem addRec_law (hQ : Law P Q) (hP : Has P [.grp 9, .grp 64, .gaps, .heads, .sump, .tokens]) {h : Nat} {r : TrigRec} {s : State} (hi0 : P (.one .head h))  (h0 : Q s) :
    Q (addRec h r s) := by
  unfold addRec
  repeat' first
    | with_reducible assumption
    | ((with_reducible refine boolGoal ?_); exact rfl)
    | ((with_reducible refine hP.one _ ?_); exact rfl)
    | with_reducible refine closeOldest_law hQ (hP.sub rfl) ?_ ?_
    | with_reducible refine setHead_law hQ (hP.sub rfl) ?_
    | ((with_reducible refine hQ.wrAt hP hi0 ?_ ?_); exact rfl)
    | with_reducible refine hQ.wr hP ?_ ?_
    | with_reducible refine Law.ite ?_ ?_
    | ((try lift_lets); (with_reducible intro y); (have hy : Q y := ?_); clear_value y; rotate_left; subst y)
    | ((try lift_lets); (with_reducible intro y); (have hy : Q y.1 := ?_); clear_value y; rotate_left; subst y)
    | ((try lift_lets); (with_reducible intro x); (try clear_value x))
    | split

theorem sendSeq_law (hQ : Law P Q) (hP : Has P [.heads]) {h : Nat} {ws : List Word} {s : State}   (h0 : Q s) :
    Q (sendSeq h ws s) := by
  unfold sendSeq
  repeat' first
    | with_reducible assumption
    | ((with_reducible refine boolGoal ?_); exact rfl)
    | ((with_reducible refine hP.one _ ?_); exact rfl)
    | with_reducible refine setHead_law hQ (hP.sub rfl) ?_
    | ((try lift_lets); (with_reducible intro y); (have hy : Q y := ?_); clear_value y; rotate_left; subst y)
    | ((try lift_lets); (with_reducible intro y); (have hy : Q y.1 := ?_); clear_value y; rotate_left; subst y)
    | ((try lift_lets); (with_reducible intro x); (try clear_value x))

theorem sendTrig_law (hQ : Law P Q) (hP : Has P [.heads]) {h : Nat} {w : Word} {s : State}   (h0 : Q s) :
    Q (sendTrig h w s) := by
  unfold sendTrig
  repeat' first
    | with_reducible assumption
    | ((with_reducible refine boolGoal ?_); exact rfl)
    | ((with_reducible refine hP.one _ ?_); exact rfl)
    | with_reducible refine setHead_law hQ (hP.sub rfl) ?_
    | ((try lift_lets); (with_reducible intro y); (have hy : Q y := ?_); clear_value y; rotate_left; subst y)
    | ((try lift_lets); (with_reducible intro y); (have hy : Q y.1 := ?_); clear_value y; rotate_left; subst y)
    | ((try lift_lets); (with_reducible intro x); (try clear_value x))

theorem sendCmd_law (hQ : Law P Q) (hP : Has P [.heads]) {h : Nat} {c : CamCmd} {s : State}   (h0 : Q s) :
    Q (sendCmd h c s) := by
  unfold sendCmd
  repeat' first
    | with_reducible assumption
    | ((with_reducible refine boolGoal ?_); exact rfl)
    | ((with_reducible refine hP.one _ ?_); exact rfl)
    | with_reducible refine setHead_law hQ (hP.sub rfl) ?_
    | with_reducible refine sendSeq_law hQ (hP.sub rfl) ?_
    | with_reducible refine Law.ite ?_ ?_
    | ((try lift_lets); (with_reducible intro y); (have hy : Q y := ?_); clear_value y; rotate_left; subst y)
    | ((try lift_lets); (with_reducible intro y); (have hy : Q y.1 := ?_); clear_value y; rotate_left; subst y)
    | ((try lift_lets); (with_reducible intro x); (try clear_value x))
    | split

theorem nextCmd_law (hQ : Law P Q) (hP : Has P [.heads]) {h : Nat} {s : State}   (h0 : Q s) :
    Q (nextCmd h s) := by
  unfold nextCmd
  repeat' first
    | with_reducible assumption
    | ((with_reducible refine boolGoal ?_); exact rfl)
    | ((with_reducible refine hP.one _ ?_); exact rfl)
    | with_reducible refine setHead_law hQ (hP.sub rfl) ?_
    | with_reducible refine sendCmd_law hQ (hP.sub rfl) ?_
    | ((try lift_lets); (with_reducible intro y); (have hy : Q y := ?_); clear_value y; rotate_left; subst y)
    | ((try lift_lets); (with_reducible intro y); (have hy : Q y.1 := ?_); clear_value y; rotate_left; subst y)
    | ((try lift_lets); (with_reducible intro x); (try clear_value x))
    | split
    | dsimp only

theorem failStart_law (hQ : Law P Q) (hP : Has P [.heads, .seq]) {h : Nat} {st : Nat} {s : State}   (h0 : Q s) :
    Q (failStart h st s) := by
  unfold failStart
  repeat' first
    | with_reducible assumption
    | ((with_reducible refine boolGoal ?_); exact rfl)
    | ((with_reducible refine hP.one _ ?_); exact rfl)
    | with_reducible refine setHead_law hQ (hP.sub rfl) ?_
    | with_reducible refine complete_law hQ (hP.sub rfl) ?_

theorem startDownload_law (hQ : Law P Q) (hP : Has P [.heads, .tes]) {h : Nat} {set : Nat} {img : List Word} {start : Bool} {s : State}   (h0 : Q s) :
    Q (startDownload h set img start s) := by
  unfold startDownload
  repeat' first
    | with_reducible assumption
    | ((with_reducible refine boolGoal ?_); exact rfl)
    | ((with_reducible refine hP.one _ ?_); exact rfl)
    | with_reducible refine sendSeq_law hQ (hP.sub rfl) ?_
    | with_reducible refine setTes_law hQ (hP.sub rfl) ?_
    | ((try lift_lets); (with_reducible intro y); (have hy : Q y := ?_); clear_value y; rotate_left; subst y)
    | ((try lift_lets); (with_reducible intro y); (have hy : Q y.1 := ?_); clear_value y; rotate_left; subst y)
    | ((try lift_lets); (with_reducible intro x); (try clear_value x))

theorem downTick_law (hQ : Law P Q) (hP : Has P [.heads]) {h : Nat} {s : State}   (h0 : Q s) :
    Q (downTick h s) := by
  unfold downTick
  repeat' first
    | with_reducible assumption
    | ((with_reducible refine boolGoal ?_); exact rfl)
    | ((with_reducible refine hP.one _ ?_); exact rfl)
    | with_reducible refine setHead_law hQ (hP.sub rfl) ?_
    | with_reducible refine Law.ite ?_ ?_
    | ((try lift_lets); (with_reducible intro y); (have hy : Q y := ?_); clear_value y; rotate_left; subst y)
    | ((try lift_lets); (with_reducible intro y); (have hy : Q y.1 := ?_); clear_value y; rotate_left; subst y)
    | ((try lift_lets); (with_reducible intro x); (try clear_value x))
    | split

end Sys2Proof.Machine
end

