-- ==== Sys2Proof/Laws/Triggers.lean ====
section
/-!
SUPPORT. What each function of Machine/Triggers.lean can change: every law of the parts it names survives it.
-/
namespace Sys2Proof.Machine

variable {P : Part → Prop} {Q : State → Prop}

theorem lateRow_law (hQ : Law P Q) (hP : Has P [.seq]) {cseq : Nat} {lseq : Nat} {s : State}   (h0 : Q s) :
    Q (lateRow cseq lseq s) := by
  unfold lateRow
  repeat' first
    | with_reducible assumption
    | ((with_reducible refine boolGoal ?_); exact rfl)
    | ((with_reducible refine hP.one _ ?_); exact rfl)
    | with_reducible refine updCmd_law hQ (hP.sub rfl) ?_
    | with_reducible refine Law.ite ?_ ?_
    | ((try lift_lets); (with_reducible intro y); (have hy : Q y := ?_); clear_value y; rotate_left; subst y)
    | ((try lift_lets); (with_reducible intro y); (have hy : Q y.1 := ?_); clear_value y; rotate_left; subst y)
    | ((try lift_lets); (with_reducible intro x); (try clear_value x))
    | split

theorem takeSet_law (hQ : Law P Q) (hP : Has P [.seq, .tes]) {h : Nat} {lseq : Nat} {s : State} (hi0 : P (.one .tesHead h))  (h0 : Q s) :
    Q (takeSet h lseq s) := by
  unfold takeSet
  repeat' first
    | with_reducible assumption
    | ((with_reducible refine boolGoal ?_); exact rfl)
    | ((with_reducible refine hP.one _ ?_); exact rfl)
    | ((with_reducible refine hQ.wrAllAt hP hi0 ?_ ?_); simp only [List.all]; exact rfl)
    | ((with_reducible refine hQ.wrAll hP ?_ ?_); simp only [List.all]; exact rfl)
    | with_reducible refine setTes_law hQ (hP.sub rfl) ?_
    | with_reducible refine lateRow_law hQ (hP.sub rfl) ?_
    | with_reducible refine complete_law hQ (hP.sub rfl) ?_
    | with_reducible refine Law.ite ?_ ?_
    | ((try lift_lets); (with_reducible intro y); (have hy : Q y := ?_); clear_value y; rotate_left; subst y)
    | ((try lift_lets); (with_reducible intro y); (have hy : Q y.1 := ?_); clear_value y; rotate_left; subst y)
    | ((try lift_lets); (with_reducible intro x); (try clear_value x))
    | split
    | dsimp only

theorem settleSet_law (hQ : Law P Q) (hP : Has P [.seq, .tes, .tokens]) {h : Nat} {num : Nat} {lseq : Nat} {issue : Nat} {at_ : Nat} {pos : Int} {s : State} (hi0 : P (.one .tesHead h))  (h0 : Q s) :
    Q (settleSet h num lseq issue at_ pos s) := by
  unfold settleSet
  repeat' first
    | with_reducible assumption
    | ((with_reducible refine boolGoal ?_); exact rfl)
    | ((with_reducible refine hP.one _ ?_); exact rfl)
    | with_reducible refine takeSet_law hQ (hP.sub rfl) ?_ ?_
    | with_reducible refine setTes_law hQ (hP.sub rfl) ?_
    | with_reducible refine tesCause_law hQ (hP.sub rfl) ?_ ?_
    | ((with_reducible refine hQ.satAt hP hi0 ?_ ?_); exact rfl)
    | with_reducible refine hQ.sat hP ?_ ?_
    | with_reducible refine Law.ite ?_ ?_
    | ((try lift_lets); (with_reducible intro y); (have hy : Q y := ?_); clear_value y; rotate_left; subst y)
    | ((try lift_lets); (with_reducible intro y); (have hy : Q y.1 := ?_); clear_value y; rotate_left; subst y)
    | ((try lift_lets); (with_reducible intro x); (try clear_value x))
    | split

theorem armSet_law (hQ : Law P Q) (hP : Has P [.heads, .tes]) {h : Nat} {s : State}   (h0 : Q s) :
    Q (armSet h s) := by
  unfold armSet
  repeat' first
    | with_reducible assumption
    | ((with_reducible refine boolGoal ?_); exact rfl)
    | ((with_reducible refine hP.one _ ?_); exact rfl)
    | with_reducible refine sendTrig_law hQ (hP.sub rfl) ?_
    | with_reducible refine setTes_law hQ (hP.sub rfl) ?_
    | with_reducible refine Law.ite ?_ ?_
    | ((try lift_lets); (with_reducible intro y); (have hy : Q y := ?_); clear_value y; rotate_left; subst y)
    | ((try lift_lets); (with_reducible intro y); (have hy : Q y.1 := ?_); clear_value y; rotate_left; subst y)
    | ((try lift_lets); (with_reducible intro x); (try clear_value x))
    | split

theorem tellView_law (hQ : Law P Q) (hP : Has P [.views]) {ms : List Nat} {n : Nat} {s : State}   (h0 : Q s) :
    Q (tellView ms n s) := by
  unfold tellView
  repeat' first
    | with_reducible assumption
    | ((with_reducible refine boolGoal ?_); exact rfl)
    | ((with_reducible refine hP.one _ ?_); exact rfl)
    | with_reducible refine setView_law hQ (hP.sub rfl) ?_
    | with_reducible refine optAll.map (fun _ => ?_)
    | ((try lift_lets); (with_reducible intro y); (have hy : Q y := ?_); clear_value y; rotate_left; subst y)
    | ((try lift_lets); (with_reducible intro y); (have hy : Q y.1 := ?_); clear_value y; rotate_left; subst y)
    | ((try lift_lets); (with_reducible intro x); (try clear_value x))
    | split
    | dsimp only

theorem commitOn_law (hQ : Law P Q) (hP : Has P [.seq, .tes, .tokens]) {h : Nat} {at_ : Nat} {time : Nat} {hop : Nat} {us : Bool} {s : State} (hi0 : P (.one .tesHead h))  (h0 : Q s) :
    Q (commitOn h at_ time hop us s) := by
  unfold commitOn
  repeat' first
    | with_reducible assumption
    | ((with_reducible refine boolGoal ?_); exact rfl)
    | ((with_reducible refine hP.one _ ?_); exact rfl)
    | with_reducible refine settleSet_law hQ (hP.sub rfl) ?_ ?_
    | with_reducible refine setTes_law hQ (hP.sub rfl) ?_
    | ((with_reducible refine hQ.wrAt hP hi0 ?_ ?_); exact rfl)
    | with_reducible refine hQ.wr hP ?_ ?_
    | ((try lift_lets); (with_reducible intro y); (have hy : Q y := ?_); clear_value y; rotate_left; subst y)
    | ((try lift_lets); (with_reducible intro y); (have hy : Q y.1 := ?_); clear_value y; rotate_left; subst y)
    | ((try lift_lets); (with_reducible intro x); (try clear_value x))

theorem setHeldTes_law (hQ : Law P Q) (hP : Has P [.grp 64, .tokens]) {h : Nat} {us : Bool} {s : State} (hi0 : P (.one .tesHead h))  (h0 : Q s) :
    Q (setHeldTes h us s) := by
  unfold setHeldTes
  repeat' first
    | with_reducible assumption
    | ((with_reducible refine boolGoal ?_); exact rfl)
    | ((with_reducible refine hP.one _ ?_); exact rfl)
    | ((with_reducible refine hQ.wrAt hP hi0 ?_ ?_); exact rfl)
    | with_reducible refine hQ.wr hP ?_ ?_
    | with_reducible refine evt_law hQ (hP.sub rfl) ?_
    | with_reducible refine tesCause_law hQ (hP.sub rfl) ?_ ?_
    | ((with_reducible refine hQ.satAt hP hi0 ?_ ?_); exact rfl)
    | with_reducible refine hQ.sat hP ?_ ?_
    | with_reducible refine Law.ite ?_ ?_
    | ((try lift_lets); (with_reducible intro y); (have hy : Q y := ?_); clear_value y; rotate_left; subst y)
    | ((try lift_lets); (with_reducible intro y); (have hy : Q y.1 := ?_); clear_value y; rotate_left; subst y)
    | ((try lift_lets); (with_reducible intro x); (try clear_value x))
    | split

theorem advanceSchedule_law (hQ : Law P Q) (hP : Has P [.tes]) {h : Nat} {t : Nat} {g : Int} {s : State} (hi0 : P (.one .tesHead h))  (h0 : Q s) :
    Q (advanceSchedule h t g s) := by
  unfold advanceSchedule
  repeat' first
    | with_reducible assumption
    | ((with_reducible refine boolGoal ?_); exact rfl)
    | ((with_reducible refine hP.one _ ?_); exact rfl)
    | ((with_reducible refine hQ.wrIAt hP hi0 ?_ ?_); exact rfl)
    | with_reducible refine hQ.wrI hP ?_ ?_
    | with_reducible refine setTes_law hQ (hP.sub rfl) ?_
    | with_reducible refine Law.ite ?_ ?_
    | ((try lift_lets); (with_reducible intro y); (have hy : Q y := ?_); clear_value y; rotate_left; subst y)
    | ((try lift_lets); (with_reducible intro y); (have hy : Q y.1 := ?_); clear_value y; rotate_left; subst y)
    | ((try lift_lets); (with_reducible intro x); (try clear_value x))
    | split

theorem execTriggerCommit_law (hQ : Law P Q) (hP : Has P [.all .tesHead, .grp 64, .heads, .seq, .tes, .tokens, .views]) {h : Nat} {t : Nat} {s : State}   (h0 : Q s) :
    outAll Q (execTriggerCommit h t s) := by
  unfold execTriggerCommit
  repeat' first
    | with_reducible assumption
    | ((with_reducible refine boolGoal ?_); exact rfl)
    | ((with_reducible refine hP.inst ?_); exact rfl)
    | ((with_reducible refine hP.one _ ?_); exact rfl)
    | with_reducible refine armSet_law hQ (hP.sub rfl) ?_
    | with_reducible refine advanceSchedule_law hQ (hP.sub rfl) ?_ ?_
    | with_reducible refine setHeldTes_law hQ (hP.sub rfl) ?_ ?_
    | with_reducible refine commitOn_law hQ (hP.sub rfl) ?_ ?_
    | with_reducible refine tellView_law hQ (hP.sub rfl) ?_
    | with_reducible refine Law.ite ?_ ?_
    | with_reducible refine outOk ?_
    | with_reducible exact outFault
    | with_reducible refine outWithin ?_
    | with_reducible refine iteOut ?_ ?_
    | with_reducible refine Law.foldl (fun _ _ _ => ?_) ?_
    | with_reducible refine Law.foldlBy Prod.snd (fun _ _ _ => ?_) ?_
    | with_reducible refine Law.foldlBy Prod.fst (fun _ _ _ => ?_) ?_
    | ((try lift_lets); (with_reducible intro y); (have hy : Q y := ?_); clear_value y; rotate_left; subst y)
    | ((try lift_lets); (with_reducible intro x); (try clear_value x))
    | split
    | dsimp only

theorem dropTrig_law (hQ : Law P Q) (hP : Has P [.tes, .views]) {h : Nat} {qs : List Trig} {s : State}   (h0 : Q s) :
    Q (dropTrig h qs s) := by
  unfold dropTrig
  repeat' first
    | with_reducible assumption
    | ((with_reducible refine boolGoal ?_); exact rfl)
    | ((with_reducible refine hP.one _ ?_); exact rfl)
    | with_reducible refine setTes_law hQ (hP.sub rfl) ?_
    | with_reducible refine setView_law hQ (hP.sub rfl) ?_
    | with_reducible refine Law.ite ?_ ?_
    | with_reducible refine optAll.map (fun _ => ?_)
    | ((try lift_lets); (with_reducible intro y); (have hy : Q y := ?_); clear_value y; rotate_left; subst y)
    | ((try lift_lets); (with_reducible intro y); (have hy : Q y.1 := ?_); clear_value y; rotate_left; subst y)
    | ((try lift_lets); (with_reducible intro x); (try clear_value x))
    | split
    | dsimp only

theorem execTriggerIssue_law (hQ : Law P Q) (hP : Has P [.grp 9, .grp 64, .gaps, .heads, .sump, .tes, .tokens, .views]) {h : Nat} {wait : Nat} {s : State} (hi0 : P (.one .head h)) (hi1 : P (.one .tesHead h))  (h0 : Q s) :
    outAll Q (execTriggerIssue h wait s) := by
  unfold execTriggerIssue
  repeat' first
    | with_reducible assumption
    | ((with_reducible refine boolGoal ?_); exact rfl)
    | ((with_reducible refine hP.one _ ?_); exact rfl)
    | with_reducible refine dropTrig_law hQ (hP.sub rfl) ?_
    | with_reducible refine setTes_law hQ (hP.sub rfl) ?_
    | with_reducible refine sendTrig_law hQ (hP.sub rfl) ?_
    | with_reducible refine addRec_law hQ (hP.sub rfl) ?_ ?_
    | ((with_reducible refine hQ.wrAt hP hi0 ?_ ?_); exact rfl)
    | ((with_reducible refine hQ.wrAt hP hi1 ?_ ?_); exact rfl)
    | with_reducible refine hQ.wr hP ?_ ?_
    | ((with_reducible refine hQ.satAt hP hi0 ?_ ?_); exact rfl)
    | ((with_reducible refine hQ.satAt hP hi1 ?_ ?_); exact rfl)
    | with_reducible refine hQ.sat hP ?_ ?_
    | with_reducible refine emit_law hQ (hP.sub rfl) ?_
    | with_reducible refine evt_law hQ (hP.sub rfl) ?_
    | with_reducible refine Law.ite ?_ ?_
    | with_reducible refine outOk ?_
    | with_reducible exact outFault
    | with_reducible refine outWithin ?_
    | with_reducible refine iteOut ?_ ?_
    | ((try lift_lets); (with_reducible intro y); (have hy : Q y := ?_); clear_value y; rotate_left; subst y)
    | ((try lift_lets); (with_reducible intro y); (have hy : Q y.1 := ?_); clear_value y; rotate_left; subst y)
    | ((try lift_lets); (with_reducible intro x); (try clear_value x))
    | split
    | dsimp only

theorem causeTrigger_law (hQ : Law P Q) (hP : Has P [.free, .heads, .seq, .tes, .tokens, .views]) {h : Nat} {hop : Nat} {s : State} (hi0 : P (.one .tesHead h))  (h0 : Q s) :
    Q (causeTrigger h hop s) := by
  unfold causeTrigger
  repeat' first
    | with_reducible assumption
    | ((with_reducible refine boolGoal ?_); exact rfl)
    | ((with_reducible refine hP.one _ ?_); exact rfl)
    | with_reducible refine setTes_law hQ (hP.sub rfl) ?_
    | with_reducible refine fresh_law hQ (hP.sub rfl) ?_
    | with_reducible refine armSet_law hQ (hP.sub rfl) ?_
    | with_reducible refine commitOn_law hQ (hP.sub rfl) ?_ ?_
    | with_reducible refine tellView_law hQ (hP.sub rfl) ?_
    | ((with_reducible refine hQ.satAt hP hi0 ?_ ?_); exact rfl)
    | with_reducible refine hQ.sat hP ?_ ?_
    | with_reducible refine Law.ite ?_ ?_
    | ((try lift_lets); (with_reducible intro y); (have hy : Q y := ?_); clear_value y; rotate_left; subst y)
    | ((try lift_lets); (with_reducible intro y); (have hy : Q y.2 := ?_); clear_value y; rotate_left; subst y)
    | ((try lift_lets); (with_reducible intro y); (have hy : Q y.1 := ?_); clear_value y; rotate_left; subst y)
    | ((try lift_lets); (with_reducible intro x); (try clear_value x))
    | split
    | dsimp only

theorem execEdgeTrigger_law (hQ : Law P Q) (hP : Has P [.free, .heads, .seq, .tes, .tokens, .views]) {h : Nat} {s : State} (hi0 : P (.one .tesHead h))  (h0 : Q s) :
    outAll Q (execEdgeTrigger h s) := by
  unfold execEdgeTrigger
  repeat' first
    | with_reducible assumption
    | ((with_reducible refine boolGoal ?_); exact rfl)
    | ((with_reducible refine hP.one _ ?_); exact rfl)
    | with_reducible refine causeTrigger_law hQ (hP.sub rfl) ?_ ?_
    | with_reducible refine setTes_law hQ (hP.sub rfl) ?_
    | with_reducible refine Law.ite ?_ ?_
    | with_reducible refine outOk ?_
    | with_reducible exact outFault
    | with_reducible refine outWithin ?_
    | with_reducible refine iteOut ?_ ?_
    | ((try lift_lets); (with_reducible intro y); (have hy : Q y := ?_); clear_value y; rotate_left; subst y)
    | ((try lift_lets); (with_reducible intro y); (have hy : Q y.1 := ?_); clear_value y; rotate_left; subst y)
    | ((try lift_lets); (with_reducible intro x); (try clear_value x))
    | split

theorem execTrgPulseEnd_law (hQ : Law P Q) (hP : Has P [.tes]) {h : Nat} {s : State}   (h0 : Q s) :
    outAll Q (execTrgPulseEnd h s) := by
  unfold execTrgPulseEnd
  repeat' first
    | with_reducible assumption
    | ((with_reducible refine boolGoal ?_); exact rfl)
    | ((with_reducible refine hP.one _ ?_); exact rfl)
    | with_reducible refine setTes_law hQ (hP.sub rfl) ?_
    | with_reducible refine outOk ?_
    | with_reducible exact outFault
    | with_reducible refine outWithin ?_
    | with_reducible refine iteOut ?_ ?_
    | ((try lift_lets); (with_reducible intro y); (have hy : Q y := ?_); clear_value y; rotate_left; subst y)
    | ((try lift_lets); (with_reducible intro y); (have hy : Q y.1 := ?_); clear_value y; rotate_left; subst y)
    | ((try lift_lets); (with_reducible intro x); (try clear_value x))

theorem startRun_law (hQ : Law P Q) (hP : Has P [.heads, .seq]) {h : Nat} {s : State}   (h0 : Q s) :
    Q (startRun h s) := by
  unfold startRun
  repeat' first
    | with_reducible assumption
    | ((with_reducible refine boolGoal ?_); exact rfl)
    | ((with_reducible refine hP.one _ ?_); exact rfl)
    | with_reducible refine failStart_law hQ (hP.sub rfl) ?_
    | with_reducible refine sendCmd_law hQ (hP.sub rfl) ?_
    | with_reducible refine setHead_law hQ (hP.sub rfl) ?_
    | with_reducible refine Law.ite ?_ ?_
    | ((try lift_lets); (with_reducible intro y); (have hy : Q y := ?_); clear_value y; rotate_left; subst y)
    | ((try lift_lets); (with_reducible intro y); (have hy : Q y.1 := ?_); clear_value y; rotate_left; subst y)
    | ((try lift_lets); (with_reducible intro x); (try clear_value x))
    | split
    | dsimp only

theorem startSets_law (hQ : Law P Q) (hP : Has P [.heads, .seq, .tes]) {h : Nat} {s : State}   (h0 : Q s) :
    Q (startSets h s) := by
  unfold startSets
  repeat' first
    | with_reducible assumption
    | ((with_reducible refine boolGoal ?_); exact rfl)
    | ((with_reducible refine hP.one _ ?_); exact rfl)
    | with_reducible refine setHead_law hQ (hP.sub rfl) ?_
    | with_reducible refine startRun_law hQ (hP.sub rfl) ?_
    | with_reducible refine startDownload_law hQ (hP.sub rfl) ?_
    | with_reducible refine Law.ite ?_ ?_
    | ((try lift_lets); (with_reducible intro y); (have hy : Q y := ?_); clear_value y; rotate_left; subst y)
    | ((try lift_lets); (with_reducible intro y); (have hy : Q y.1 := ?_); clear_value y; rotate_left; subst y)
    | ((try lift_lets); (with_reducible intro x); (try clear_value x))
    | split
    | dsimp only

theorem resumeSets_law (hQ : Law P Q) (hP : Has P [.heads, .seq, .tes]) {h : Nat} {s : State}   (h0 : Q s) :
    Q (resumeSets h s) := by
  unfold resumeSets
  repeat' first
    | with_reducible assumption
    | ((with_reducible refine boolGoal ?_); exact rfl)
    | ((with_reducible refine hP.one _ ?_); exact rfl)
    | with_reducible refine startSets_law hQ (hP.sub rfl) ?_
    | with_reducible refine Law.ite ?_ ?_
    | ((try lift_lets); (with_reducible intro y); (have hy : Q y := ?_); clear_value y; rotate_left; subst y)
    | ((try lift_lets); (with_reducible intro y); (have hy : Q y.1 := ?_); clear_value y; rotate_left; subst y)
    | ((try lift_lets); (with_reducible intro x); (try clear_value x))
    | split
    | dsimp only

theorem failDownload_law (hQ : Law P Q) (hP : Has P [.heads, .seq, .tes]) {h : Nat} {st : Nat} {d : Download} {s : State} (hi0 : P (.one .tesHead h))  (h0 : Q s) :
    Q (failDownload h st d s) := by
  unfold failDownload
  repeat' first
    | with_reducible assumption
    | ((with_reducible refine boolGoal ?_); exact rfl)
    | ((with_reducible refine hP.one _ ?_); exact rfl)
    | with_reducible refine failStart_law hQ (hP.sub rfl) ?_
    | with_reducible refine setTes_law hQ (hP.sub rfl) ?_
    | with_reducible refine resumeSets_law hQ (hP.sub rfl) ?_
    | ((with_reducible refine hQ.wrAt hP hi0 ?_ ?_); exact rfl)
    | with_reducible refine hQ.wr hP ?_ ?_
    | with_reducible refine complete_law hQ (hP.sub rfl) ?_
    | with_reducible refine Law.ite ?_ ?_
    | ((try lift_lets); (with_reducible intro y); (have hy : Q y := ?_); clear_value y; rotate_left; subst y)
    | ((try lift_lets); (with_reducible intro y); (have hy : Q y.1 := ?_); clear_value y; rotate_left; subst y)
    | ((try lift_lets); (with_reducible intro x); (try clear_value x))
    | split

theorem execXsetackReceive_law (hQ : Law P Q) (hP : Has P [.heads, .seq, .tes]) {h : Nat} {set : Nat} {xtag : Nat} {result : Nat} {s : State} (hi0 : P (.one .tesHead h))  (h0 : Q s) :
    outAll Q (execXsetackReceive h set xtag result s) := by
  unfold execXsetackReceive
  repeat' first
    | with_reducible assumption
    | ((with_reducible refine boolGoal ?_); exact rfl)
    | ((with_reducible refine hP.one _ ?_); exact rfl)
    | with_reducible refine failDownload_law hQ (hP.sub rfl) ?_ ?_
    | with_reducible refine startSets_law hQ (hP.sub rfl) ?_
    | with_reducible refine setTes_law hQ (hP.sub rfl) ?_
    | with_reducible refine resumeSets_law hQ (hP.sub rfl) ?_
    | with_reducible refine armSet_law hQ (hP.sub rfl) ?_
    | with_reducible refine Law.ite ?_ ?_
    | with_reducible refine outOk ?_
    | with_reducible exact outFault
    | with_reducible refine outWithin ?_
    | with_reducible refine iteOut ?_ ?_
    | ((try lift_lets); (with_reducible intro y); (have hy : Q y := ?_); clear_value y; rotate_left; subst y)
    | ((try lift_lets); (with_reducible intro y); (have hy : Q y.1 := ?_); clear_value y; rotate_left; subst y)
    | ((try lift_lets); (with_reducible intro x); (try clear_value x))
    | split
    | dsimp only

theorem execXsettoExpiry_law (hQ : Law P Q) (hP : Has P [.heads, .seq, .tes]) {h : Nat} {s : State} (hi0 : P (.one .eslHead h)) (hi1 : P (.one .tesHead h))  (h0 : Q s) :
    outAll Q (execXsettoExpiry h s) := by
  unfold execXsettoExpiry
  repeat' first
    | with_reducible assumption
    | ((with_reducible refine boolGoal ?_); exact rfl)
    | ((with_reducible refine hP.one _ ?_); exact rfl)
    | with_reducible refine sendSeq_law hQ (hP.sub rfl) ?_
    | with_reducible refine setTes_law hQ (hP.sub rfl) ?_
    | with_reducible refine failDownload_law hQ (hP.sub rfl) ?_ ?_
    | ((with_reducible refine hQ.satAt hP hi0 ?_ ?_); exact rfl)
    | ((with_reducible refine hQ.satAt hP hi1 ?_ ?_); exact rfl)
    | with_reducible refine hQ.sat hP ?_ ?_
    | with_reducible refine Law.ite ?_ ?_
    | with_reducible refine outOk ?_
    | with_reducible exact outFault
    | with_reducible refine outWithin ?_
    | with_reducible refine iteOut ?_ ?_
    | ((try lift_lets); (with_reducible intro y); (have hy : Q y := ?_); clear_value y; rotate_left; subst y)
    | ((try lift_lets); (with_reducible intro y); (have hy : Q y.1 := ?_); clear_value y; rotate_left; subst y)
    | ((try lift_lets); (with_reducible intro x); (try clear_value x))
    | split
    | dsimp only

theorem setPending_law (hQ : Law P Q) (hP : Has P []) {h : Nat} {set : Nat} {mode : Nat} {point : Word} {s : State} (hi0 : P (.one .tesHead h))  (h0 : Q s) :
    Q (setPending h set mode point s) := by
  unfold setPending
  repeat' first
    | with_reducible assumption
    | ((with_reducible refine boolGoal ?_); exact rfl)
    | ((with_reducible refine hP.one _ ?_); exact rfl)
    | ((with_reducible refine hQ.wrAllAt hP hi0 ?_ ?_); simp only [List.all]; exact rfl)
    | ((with_reducible refine hQ.wrAll hP ?_ ?_); simp only [List.all]; exact rfl)

theorem execTesXset_law (hQ : Law P Q) (hP : Has P [.grp 0, .grp 64, .heads, .procs, .sampled, .seq, .tes, .tokens]) {x : XWord} {s : State} (hi0 : P (.one .tesHead (xargs s x).i))  (h0 : Q s) :
    outAll Q (execTesXset x s) := by
  unfold execTesXset
  repeat' first
    | with_reducible assumption
    | ((with_reducible refine boolGoal ?_); exact rfl)
    | ((with_reducible refine hP.one _ ?_); exact rfl)
    | with_reducible refine xop_law hQ (hP.sub rfl) (fun _ => ?_) ?_
    | with_reducible refine setTes_law hQ (hP.sub rfl) ?_
    | with_reducible refine startDownload_law hQ (hP.sub rfl) ?_
    | with_reducible refine setPending_law hQ (hP.sub rfl) ?_ ?_
    | with_reducible refine Law.ite ?_ ?_
    | with_reducible refine resFin ?_
    | with_reducible refine resNo ?_
    | with_reducible refine resStart ?_
    | with_reducible refine resForm ?_
    | with_reducible refine resGone ?_
    | with_reducible refine resHold ?_
    | with_reducible refine iteRes ?_ ?_
    | with_reducible refine outOk ?_
    | with_reducible exact outFault
    | with_reducible refine outWithin ?_
    | with_reducible refine iteOut ?_ ?_
    | ((try lift_lets); (with_reducible intro y); (have hy : Q y := ?_); clear_value y; rotate_left; subst y)
    | ((try lift_lets); (with_reducible intro y); (have hy : Q y.1 := ?_); clear_value y; rotate_left; subst y)
    | ((try lift_lets); (with_reducible intro x); (try clear_value x))
    | split

theorem execTesXsel_law (hQ : Law P Q) (hP : Has P [.grp 0, .grp 64, .heads, .procs, .sampled, .seq, .tes, .tokens]) {x : XWord} {s : State} (hi0 : P (.one .tesHead (xargs s x).i))  (h0 : Q s) :
    outAll Q (execTesXsel x s) := by
  unfold execTesXsel
  repeat' first
    | with_reducible assumption
    | ((with_reducible refine boolGoal ?_); exact rfl)
    | ((with_reducible refine hP.one _ ?_); exact rfl)
    | with_reducible refine direct_law hQ (hP.sub rfl) (fun _ => ?_) ?_
    | with_reducible refine armSet_law hQ (hP.sub rfl) ?_
    | with_reducible refine setPending_law hQ (hP.sub rfl) ?_ ?_
    | with_reducible refine setTes_law hQ (hP.sub rfl) ?_
    | with_reducible refine Law.ite ?_ ?_
    | with_reducible refine excPair ?_
    | with_reducible refine excState ?_
    | with_reducible exact excError
    | with_reducible refine iteExc ?_ ?_
    | with_reducible refine outOk ?_
    | with_reducible exact outFault
    | with_reducible refine outWithin ?_
    | with_reducible refine iteOut ?_ ?_
    | ((try lift_lets); (with_reducible intro y); (have hy : Q y := ?_); clear_value y; rotate_left; subst y)
    | ((try lift_lets); (with_reducible intro y); (have hy : Q y.1 := ?_); clear_value y; rotate_left; subst y)
    | ((try lift_lets); (with_reducible intro x); (try clear_value x))
    | split

theorem execTesCfg_law (hQ : Law P Q) (hP : Has P [.all .tesHead, .grp 0, .grp 64, .procs, .sampled, .seq, .tokens]) {x : XWord} {s : State}   (h0 : Q s) :
    outAll Q (execTesCfg x s) := by
  unfold execTesCfg
  repeat' first
    | with_reducible assumption
    | ((with_reducible refine boolGoal ?_); exact rfl)
    | ((with_reducible refine hP.inst ?_); exact rfl)
    | ((with_reducible refine hP.one _ ?_); exact rfl)
    | ((with_reducible refine blockOp_law hQ (hP.sub rfl) hP ?_ (fun _ _ => ?_) ?_); (simp only [List.all, tesCfgFields]; exact rfl))
    | with_reducible refine Law.ite ?_ ?_
    | with_reducible refine excPair ?_
    | with_reducible refine excState ?_
    | with_reducible exact excError
    | with_reducible refine iteExc ?_ ?_
    | with_reducible refine outOk ?_
    | with_reducible exact outFault
    | with_reducible refine outWithin ?_
    | with_reducible refine iteOut ?_ ?_
    | ((try lift_lets); (with_reducible intro x); (try clear_value x))
    | split

theorem rebaseTime_law (hQ : Law P Q) (hP : Has P [.tes]) {h : Nat} {s : State}   (h0 : Q s) :
    Q (rebaseTime h s) := by
  unfold rebaseTime
  repeat' first
    | with_reducible assumption
    | ((with_reducible refine boolGoal ?_); exact rfl)
    | ((with_reducible refine hP.one _ ?_); exact rfl)
    | with_reducible refine setTes_law hQ (hP.sub rfl) ?_
    | with_reducible refine Law.ite ?_ ?_
    | ((try lift_lets); (with_reducible intro y); (have hy : Q y := ?_); clear_value y; rotate_left; subst y)
    | ((try lift_lets); (with_reducible intro y); (have hy : Q y.1 := ?_); clear_value y; rotate_left; subst y)
    | ((try lift_lets); (with_reducible intro x); (try clear_value x))
    | split

theorem execTesGrid_law (hQ : Law P Q) (hP : Has P [.all .tesHead, .grp 0, .grp 64, .procs, .sampled, .seq, .tes, .tokens]) {x : XWord} {s : State}   (h0 : Q s) :
    outAll Q (execTesGrid x s) := by
  unfold execTesGrid
  repeat' first
    | with_reducible assumption
    | ((with_reducible refine boolGoal ?_); exact rfl)
    | ((with_reducible refine hP.inst ?_); exact rfl)
    | ((with_reducible refine hP.one _ ?_); exact rfl)
    | with_reducible refine direct_law hQ (hP.sub rfl) (fun _ => ?_) ?_
    | with_reducible refine rebaseTime_law hQ (hP.sub rfl) ?_
    | ((with_reducible refine hQ.wrAll hP ?_ ?_); simp only [List.all]; exact rfl)
    | with_reducible refine hQ.wr hP ?_ ?_
    | with_reducible refine Law.ite ?_ ?_
    | with_reducible refine excPair ?_
    | with_reducible refine excState ?_
    | with_reducible exact excError
    | with_reducible refine iteExc ?_ ?_
    | with_reducible refine outOk ?_
    | with_reducible exact outFault
    | with_reducible refine outWithin ?_
    | with_reducible refine iteOut ?_ ?_
    | with_reducible refine Law.foldl (fun _ _ _ => ?_) ?_
    | with_reducible refine Law.foldlBy Prod.snd (fun _ _ _ => ?_) ?_
    | with_reducible refine Law.foldlBy Prod.fst (fun _ _ _ => ?_) ?_
    | ((try lift_lets); (with_reducible intro y); (have hy : Q y := ?_); clear_value y; rotate_left; subst y)
    | ((try lift_lets); (with_reducible intro x); (try clear_value x))
    | split

theorem tesStart_law (hQ : Law P Q) (hP : Has P [.heads, .tes, .tokens]) {h : Nat} {s : State} (hi0 : P (.one .tesHead h))  (h0 : Q s) :
    Q (tesStart h s) := by
  unfold tesStart
  repeat' first
    | with_reducible assumption
    | ((with_reducible refine boolGoal ?_); exact rfl)
    | ((with_reducible refine hP.one _ ?_); exact rfl)
    | with_reducible refine setTes_law hQ (hP.sub rfl) ?_
    | ((with_reducible refine hQ.wrIAt hP hi0 ?_ ?_); exact rfl)
    | with_reducible refine hQ.wrI hP ?_ ?_
    | with_reducible refine armSet_law hQ (hP.sub rfl) ?_
    | with_reducible refine noposHead_law hQ (hP.sub rfl) ?_ ?_
    | ((with_reducible refine hQ.wrAllAt hP hi0 ?_ ?_); simp only [List.all]; exact rfl)
    | ((with_reducible refine hQ.wrAll hP ?_ ?_); simp only [List.all]; exact rfl)
    | with_reducible refine Law.ite ?_ ?_
    | ((try lift_lets); (with_reducible intro y); (have hy : Q y := ?_); clear_value y; rotate_left; subst y)
    | ((try lift_lets); (with_reducible intro y); (have hy : Q y.1 := ?_); clear_value y; rotate_left; subst y)
    | ((try lift_lets); (with_reducible intro x); (try clear_value x))
    | split
    | dsimp only

theorem placeCut_law (hQ : Law P Q) (hP : Has P [.grp 4, .grp 64, .cutPkts, .cuts]) {epoch : Nat} {dir : Nat} {pcut : Int} {fabric : Bool} {s : State}   (h0 : Q s) :
    Q (placeCut epoch dir pcut fabric s) := by
  unfold placeCut
  repeat' first
    | with_reducible assumption
    | ((with_reducible refine boolGoal ?_); exact rfl)
    | ((with_reducible refine hP.one _ ?_); exact rfl)
    | with_reducible refine hQ.wr hP ?_ ?_
    | with_reducible refine evt_law hQ (hP.sub rfl) ?_
    | with_reducible refine hQ.wrI hP ?_ ?_
    | with_reducible refine hQ.sat hP ?_ ?_
    | with_reducible refine Law.foldl (fun _ _ _ => ?_) ?_
    | with_reducible refine Law.foldlBy Prod.snd (fun _ _ _ => ?_) ?_
    | with_reducible refine Law.foldlBy Prod.fst (fun _ _ _ => ?_) ?_
    | with_reducible refine optAll.map (fun _ => ?_)
    | ((try lift_lets); (with_reducible intro y); (have hy : Q y := ?_); clear_value y; rotate_left; subst y)
    | ((try lift_lets); (with_reducible intro y); (have hy : Q y.1 := ?_); clear_value y; rotate_left; subst y)
    | ((try lift_lets); (with_reducible intro x); (try clear_value x))
    | with_reducible refine hQ.cuts_cutPkts ?_ ?_ ?_
    | with_reducible refine hQ.cuts ?_ ?_
    | with_reducible refine hQ.cutPkts ?_ ?_

theorem tesCntOne_law (hQ : Law P Q) (hP : Has P []) {h : Nat} {s : State} (hi0 : P (.one .tesHead h))  (h0 : Q s) :
    Q (tesCntOne h s) := by
  unfold tesCntOne
  repeat' first
    | with_reducible assumption
    | ((with_reducible refine boolGoal ?_); exact rfl)
    | ((with_reducible refine hP.one _ ?_); exact rfl)
    | ((with_reducible refine hQ.clrAt hP hi0 ?_ ?_); simp only [List.all]; exact rfl)
    | ((with_reducible refine hQ.clr hP ?_ ?_); simp only [List.all]; exact rfl)

theorem tesEvOne_law (hQ : Law P Q) (hP : Has P []) {arg : Nat} {h : Nat} {s : State} (hi0 : P (.one .tesHead h))  (h0 : Q s) :
    Q (tesEvOne arg h s) := by
  unfold tesEvOne
  repeat' first
    | with_reducible assumption
    | ((with_reducible refine boolGoal ?_); exact rfl)
    | ((with_reducible refine hP.one _ ?_); exact rfl)
    | ((with_reducible refine hQ.wrAt hP hi0 ?_ ?_); exact rfl)
    | with_reducible refine hQ.wr hP ?_ ?_

end Sys2Proof.Machine
end

