-- ==== Sys2Proof/Laws/Streams.lean ====
section
/-!
SUPPORT. What each function of Machine/Streams.lean can change: every law of the parts it names survives it.
-/
namespace Sys2Proof.Machine

variable {P : Part → Prop} {Q : State → Prop}

theorem setProg_law (hQ : Law P Q) (hP : Has P [.progress]) {s : State} {stage : Nat} {sub : Nat} {vs : Bool} {stream : Nat} {p : Progress}   (h0 : Q s) :
    Q (State.setProg s stage sub vs stream p) := by
  unfold State.setProg
  repeat' first
    | with_reducible assumption
    | ((with_reducible refine boolGoal ?_); exact rfl)
    | ((with_reducible refine hP.one _ ?_); exact rfl)
    | ((try lift_lets); (with_reducible intro y); (have hy : Q y := ?_); clear_value y; rotate_left; subst y)
    | ((try lift_lets); (with_reducible intro y); (have hy : Q y.1 := ?_); clear_value y; rotate_left; subst y)
    | ((try lift_lets); (with_reducible intro x); (try clear_value x))
    | with_reducible refine hQ.progress ?_ ?_

theorem countPkt_law (hQ : Law P Q) (hP : Has P [.grp 64]) {stage : Nat} {stream : Nat} {code : Nat} {s : State}   (h0 : Q s) :
    Q (countPkt stage stream code s) := by
  unfold countPkt
  repeat' first
    | with_reducible assumption
    | ((with_reducible refine boolGoal ?_); exact rfl)
    | ((with_reducible refine hP.one _ ?_); exact rfl)
    | with_reducible refine evt_law hQ (hP.sub rfl) ?_
    | with_reducible refine Law.foldl (fun _ _ _ => ?_) ?_
    | with_reducible refine Law.foldlBy Prod.snd (fun _ _ _ => ?_) ?_
    | with_reducible refine Law.foldlBy Prod.fst (fun _ _ _ => ?_) ?_
    | ((try lift_lets); (with_reducible intro x); (try clear_value x))

theorem applyOne_law (hQ : Law P Q) (hP : Has P [.grp 64, .progress]) {eff : Held → State → State} {e : Held} {s : State}  (hf_eff : ∀ a0 s1_, Q s1_ → Q (eff a0 s1_)) (h0 : Q s) :
    Q (applyOne eff e s) := by
  unfold applyOne
  repeat' first
    | with_reducible assumption
    | ((with_reducible refine boolGoal ?_); exact rfl)
    | ((with_reducible refine hP.one _ ?_); exact rfl)
    | with_reducible refine evt_law hQ (hP.sub rfl) ?_
    | with_reducible refine setProg_law hQ (hP.sub rfl) ?_
    | with_reducible refine hf_eff _ _ ?_
    | with_reducible refine Law.ite ?_ ?_
    | ((try lift_lets); (with_reducible intro y); (have hy : Q y := ?_); clear_value y; rotate_left; subst y)
    | ((try lift_lets); (with_reducible intro y); (have hy : Q y.1 := ?_); clear_value y; rotate_left; subst y)
    | ((try lift_lets); (with_reducible intro x); (try clear_value x))
    | split

theorem applyHeld_law (hQ : Law P Q) (hP : Has P [.grp 64, .held, .progress]) {eff : Held → State → State} {q : Held → Bool} {s : State}  (hf_eff : ∀ a0 s1_, Q s1_ → Q (eff a0 s1_)) (h0 : Q s) :
    Q (applyHeld eff q s) := by
  unfold applyHeld
  repeat' first
    | with_reducible assumption
    | ((with_reducible refine boolGoal ?_); exact rfl)
    | ((with_reducible refine hP.one _ ?_); exact rfl)
    | with_reducible refine applyOne_law hQ (hP.sub rfl) (fun _ _ _ => ?_) ?_
    | with_reducible refine hf_eff _ _ ?_
    | with_reducible refine Law.foldl (fun _ _ _ => ?_) ?_
    | with_reducible refine Law.foldlBy Prod.snd (fun _ _ _ => ?_) ?_
    | with_reducible refine Law.foldlBy Prod.fst (fun _ _ _ => ?_) ?_
    | ((try lift_lets); (with_reducible intro y); (have hy : Q y := ?_); clear_value y; rotate_left; subst y)
    | ((try lift_lets); (with_reducible intro x); (try clear_value x))
    | with_reducible refine hQ.held ?_ ?_

theorem reportLate_law (hQ : Law P Q) (hP : Has P [.grp 0, .seq]) {lseq : Nat} {s : State} {cseq : Nat}   (h0 : Q s) :
    Q (reportLate lseq s cseq) := by
  unfold reportLate
  repeat' first
    | with_reducible assumption
    | ((with_reducible refine boolGoal ?_); exact rfl)
    | ((with_reducible refine hP.one _ ?_); exact rfl)
    | with_reducible refine hQ.wrap hP ?_ ?_
    | with_reducible refine lateRow_law hQ (hP.sub rfl) ?_
    | with_reducible refine Law.ite ?_ ?_
    | split

theorem applyDue_law (hQ : Law P Q) (hP : Has P [.grp 64, .held, .progress]) {eff : Held → State → State} {stage : Nat} {sub : Nat} {vs : Bool} {stream : Nat} {lseq : Nat} {pos : Int} {epoch : Nat} {s : State}  (hf_eff : ∀ a0 s1_, Q s1_ → Q (eff a0 s1_)) (h0 : Q s) :
    Q (applyDue eff stage sub vs stream lseq pos epoch s) := by
  unfold applyDue
  repeat' first
    | with_reducible assumption
    | ((with_reducible refine boolGoal ?_); exact rfl)
    | ((with_reducible refine hP.one _ ?_); exact rfl)
    | with_reducible refine applyHeld_law hQ (hP.sub rfl) (fun _ _ _ => ?_) ?_
    | with_reducible refine hf_eff _ _ ?_
    | ((try lift_lets); (with_reducible intro x); (try clear_value x))

theorem recordRow_law (hQ : Law P Q) (hP : Has P [.grp 0, .held, .progress, .seq]) {stage : Nat} {sub : Nat} {vs : Bool} {stream : Nat} {lseq : Nat} {pos : Int} {epoch : Nat} {lates : List Nat} {s : State}   (h0 : Q s) :
    Q (recordRow stage sub vs stream lseq pos epoch lates s) := by
  unfold recordRow
  repeat' first
    | with_reducible assumption
    | ((with_reducible refine boolGoal ?_); exact rfl)
    | ((with_reducible refine hP.one _ ?_); exact rfl)
    | with_reducible refine setProg_law hQ (hP.sub rfl) ?_
    | with_reducible refine reportLate_law hQ (hP.sub rfl) ?_
    | with_reducible refine Law.ite ?_ ?_
    | with_reducible refine Law.foldl (fun _ _ _ => ?_) ?_
    | with_reducible refine Law.foldlBy Prod.snd (fun _ _ _ => ?_) ?_
    | with_reducible refine Law.foldlBy Prod.fst (fun _ _ _ => ?_) ?_
    | with_reducible refine optAll.map (fun _ => ?_)
    | ((try lift_lets); (with_reducible intro y); (have hy : Q y := ?_); clear_value y; rotate_left; subst y)
    | ((try lift_lets); (with_reducible intro y); (have hy : Q y.1 := ?_); clear_value y; rotate_left; subst y)
    | ((try lift_lets); (with_reducible intro x); (try clear_value x))
    | split
    | with_reducible refine hQ.held ?_ ?_

theorem takeLates_law (hQ : Law P Q) (hP : Has P [.progress]) {stage : Nat} {sub : Nat} {vs : Bool} {stream : Nat} {s : State}   (h0 : Q s) :
    Q (takeLates stage sub vs stream s).2 := by
  unfold takeLates
  repeat' first
    | with_reducible assumption
    | ((with_reducible refine boolGoal ?_); exact rfl)
    | ((with_reducible refine hP.one _ ?_); exact rfl)
    | with_reducible refine setProg_law hQ (hP.sub rfl) ?_
    | ((try lift_lets); (with_reducible intro y); (have hy : Q y := ?_); clear_value y; rotate_left; subst y)
    | ((try lift_lets); (with_reducible intro y); (have hy : Q y.1 := ?_); clear_value y; rotate_left; subst y)
    | ((try lift_lets); (with_reducible intro x); (try clear_value x))

theorem stageRow_law (hQ : Law P Q) (hP : Has P [.grp 0, .grp 64, .held, .progress, .seq]) {eff : Held → State → State} {stage : Nat} {sub : Nat} {vs : Bool} {stream : Nat} {lseq : Nat} {pos : Int} {epoch : Nat} {s : State}  (hf_eff : ∀ a0 s1_, Q s1_ → Q (eff a0 s1_)) (h0 : Q s) :
    Q (stageRow eff stage sub vs stream lseq pos epoch s) := by
  unfold stageRow
  repeat' first
    | with_reducible assumption
    | ((with_reducible refine boolGoal ?_); exact rfl)
    | ((with_reducible refine hP.one _ ?_); exact rfl)
    | with_reducible refine takeLates_law hQ (hP.sub rfl) ?_
    | with_reducible refine applyDue_law hQ (hP.sub rfl) (fun _ _ _ => ?_) ?_
    | with_reducible refine recordRow_law hQ (hP.sub rfl) ?_
    | with_reducible refine hf_eff _ _ ?_
    | ((try lift_lets); (with_reducible intro y); (have hy : Q y := ?_); clear_value y; rotate_left; subst y)
    | ((try lift_lets); (with_reducible intro y); (have hy : Q y.2 := ?_); clear_value y; rotate_left; subst y)
    | ((try lift_lets); (with_reducible intro y); (have hy : Q y.1 := ?_); clear_value y; rotate_left; subst y)
    | ((try lift_lets); (with_reducible intro x); (try clear_value x))
    | dsimp only

theorem passEpoch_law (hQ : Law P Q) (hP : Has P [.progress]) {stage : Nat} {sub : Nat} {vs : Bool} {stream : Nat} {epoch : Nat} {s : State}   (h0 : Q s) :
    Q (passEpoch stage sub vs stream epoch s) := by
  unfold passEpoch
  repeat' first
    | with_reducible assumption
    | ((with_reducible refine boolGoal ?_); exact rfl)
    | ((with_reducible refine hP.one _ ?_); exact rfl)
    | with_reducible refine setProg_law hQ (hP.sub rfl) ?_
    | ((try lift_lets); (with_reducible intro y); (have hy : Q y := ?_); clear_value y; rotate_left; subst y)
    | ((try lift_lets); (with_reducible intro y); (have hy : Q y.1 := ?_); clear_value y; rotate_left; subst y)
    | ((try lift_lets); (with_reducible intro x); (try clear_value x))

theorem stageDivert_law (hQ : Law P Q) (hP : Has P [.grp 64, .held, .progress]) {eff : Held → State → State} {stage : Nat} {sub : Nat} {vs : Bool} {stream : Nat} {lseq : Nat} {pos : Int} {epoch : Nat} {s : State}  (hf_eff : ∀ a0 s1_, Q s1_ → Q (eff a0 s1_)) (h0 : Q s) :
    Q (stageDivert eff stage sub vs stream lseq pos epoch s) := by
  unfold stageDivert
  repeat' first
    | with_reducible assumption
    | ((with_reducible refine boolGoal ?_); exact rfl)
    | ((with_reducible refine hP.one _ ?_); exact rfl)
    | with_reducible refine passEpoch_law hQ (hP.sub rfl) ?_
    | with_reducible refine applyDue_law hQ (hP.sub rfl) (fun _ _ _ => ?_) ?_
    | with_reducible refine hf_eff _ _ ?_

theorem stageGap_law (hQ : Law P Q) (hP : Has P [.grp 64, .held, .progress]) {eff : Held → State → State} {stage : Nat} {sub : Nat} {vs : Bool} {stream : Nat} {lseq : Nat} {rows : List (Int × Nat)} {s : State}  (hf_eff : ∀ a0 s1_, Q s1_ → Q (eff a0 s1_)) (h0 : Q s) :
    Q (stageGap eff stage sub vs stream lseq rows s) := by
  unfold stageGap
  repeat' first
    | with_reducible assumption
    | ((with_reducible refine boolGoal ?_); exact rfl)
    | ((with_reducible refine hP.one _ ?_); exact rfl)
    | with_reducible refine applyHeld_law hQ (hP.sub rfl) (fun _ _ _ => ?_) ?_
    | with_reducible refine passEpoch_law hQ (hP.sub rfl) ?_
    | with_reducible refine hf_eff _ _ ?_
    | with_reducible refine Law.foldl (fun _ _ _ => ?_) ?_
    | with_reducible refine Law.foldlBy Prod.snd (fun _ _ _ => ?_) ?_
    | with_reducible refine Law.foldlBy Prod.fst (fun _ _ _ => ?_) ?_
    | ((try lift_lets); (with_reducible intro y); (have hy : Q y := ?_); clear_value y; rotate_left; subst y)
    | ((try lift_lets); (with_reducible intro y); (have hy : Q y.2 := ?_); clear_value y; rotate_left; subst y)
    | ((try lift_lets); (with_reducible intro y); (have hy : Q y.1 := ?_); clear_value y; rotate_left; subst y)
    | ((try lift_lets); (with_reducible intro x); (try clear_value x))
    | dsimp only

theorem stageStop_law (hQ : Law P Q) (hP : Has P [.grp 0, .grp 64, .held, .progress, .seq]) {eff : Held → State → State} {stage : Nat} {sub : Nat} {vs : Bool} {stream : Nat} {s : State}  (hf_eff : ∀ a0 s1_, Q s1_ → Q (eff a0 s1_)) (h0 : Q s) :
    Q (stageStop eff stage sub vs stream s) := by
  unfold stageStop
  repeat' first
    | with_reducible assumption
    | ((with_reducible refine boolGoal ?_); exact rfl)
    | ((with_reducible refine hP.one _ ?_); exact rfl)
    | with_reducible refine applyHeld_law hQ (hP.sub rfl) (fun _ _ _ => ?_) ?_
    | with_reducible refine reportLate_law hQ (hP.sub rfl) ?_
    | with_reducible refine setProg_law hQ (hP.sub rfl) ?_
    | with_reducible refine hf_eff _ _ ?_
    | with_reducible refine Law.foldl (fun _ _ _ => ?_) ?_
    | with_reducible refine Law.foldlBy Prod.snd (fun _ _ _ => ?_) ?_
    | with_reducible refine Law.foldlBy Prod.fst (fun _ _ _ => ?_) ?_
    | ((try lift_lets); (with_reducible intro y); (have hy : Q y := ?_); clear_value y; rotate_left; subst y)
    | ((try lift_lets); (with_reducible intro y); (have hy : Q y.1 := ?_); clear_value y; rotate_left; subst y)
    | ((try lift_lets); (with_reducible intro x); (try clear_value x))

theorem stageStart_law (hQ : Law P Q) (hP : Has P [.progress]) {stage : Nat} {sub : Nat} {vs : Bool} {stream : Nat} {epoch : Nat} {s : State}   (h0 : Q s) :
    Q (stageStart stage sub vs stream epoch s) := by
  unfold stageStart
  repeat' first
    | with_reducible assumption
    | ((with_reducible refine boolGoal ?_); exact rfl)
    | ((with_reducible refine hP.one _ ?_); exact rfl)
    | with_reducible refine setProg_law hQ (hP.sub rfl) ?_

theorem applyRetired_law (hQ : Law P Q) (hP : Has P [.grp 64, .held, .progress]) {eff : Held → State → State} {ep : Nat} {s : State}  (hf_eff : ∀ a0 s1_, Q s1_ → Q (eff a0 s1_)) (h0 : Q s) :
    Q (applyRetired eff ep s) := by
  unfold applyRetired
  repeat' first
    | with_reducible assumption
    | ((with_reducible refine boolGoal ?_); exact rfl)
    | ((with_reducible refine hP.one _ ?_); exact rfl)
    | with_reducible refine applyHeld_law hQ (hP.sub rfl) (fun _ _ _ => ?_) ?_
    | with_reducible refine hf_eff _ _ ?_
    | ((try lift_lets); (with_reducible intro x); (try clear_value x))

theorem retireEpochs_law (hQ : Law P Q) (hP : Has P [.grp 64, .cuts, .held, .progress]) {eff : Held → State → State} {x0 : Nat}  (hf_eff : ∀ a0 s1_, Q s1_ → Q (eff a0 s1_)) {s : State} (h0 : Q s) :
    Q (retireEpochs eff x0 s) := by
  induction x0 generalizing s with
  | zero =>
    unfold retireEpochs
    repeat' first
      | with_reducible assumption
      | ((with_reducible refine boolGoal ?_); exact rfl)
      | ((with_reducible refine hP.one _ ?_); exact rfl)
      | with_reducible refine applyRetired_law hQ (hP.sub rfl) (fun _ _ _ => ?_) ?_
      | with_reducible refine hf_eff _ _ ?_
      | with_reducible refine Law.ite ?_ ?_
      | ((try lift_lets); (with_reducible intro y); (have hy : Q y := ?_); clear_value y; rotate_left; subst y)
      | ((try lift_lets); (with_reducible intro x); (try clear_value x))
      | split
      | dsimp only
      | with_reducible refine hQ.cuts ?_ ?_
  | succ n ih =>
    unfold retireEpochs
    repeat' first
      | with_reducible assumption
      | with_reducible apply ih
      | ((with_reducible refine boolGoal ?_); exact rfl)
      | ((with_reducible refine hP.one _ ?_); exact rfl)
      | with_reducible refine applyRetired_law hQ (hP.sub rfl) (fun _ _ _ => ?_) ?_
      | with_reducible refine hf_eff _ _ ?_
      | with_reducible refine Law.ite ?_ ?_
      | ((try lift_lets); (with_reducible intro y); (have hy : Q y := ?_); clear_value y; rotate_left; subst y)
      | ((try lift_lets); (with_reducible intro x); (try clear_value x))
      | split
      | dsimp only
      | with_reducible refine hQ.cuts ?_ ?_

end Sys2Proof.Machine
end

