-- ==== Sys2Proof/Laws/Heads.lean ====
section
/-!
SUPPORT. What each function of Machine/Heads.lean can change: every law of the parts it names survives it.
-/
namespace Sys2Proof.Machine

variable {P : Part → Prop} {Q : State → Prop}

theorem settleDip_law (hQ : Law P Q) (hP : Has P [.power]) {s : State}   (h0 : Q s) :
    Q (settleDip s) := by
  unfold settleDip
  repeat' first
    | with_reducible assumption
    | ((with_reducible refine boolGoal ?_); exact rfl)
    | ((with_reducible refine hP.one _ ?_); exact rfl)
    | with_reducible refine Law.ite ?_ ?_
    | ((try lift_lets); (with_reducible intro y); (have hy : Q y := ?_); clear_value y; rotate_left; subst y)
    | ((try lift_lets); (with_reducible intro x); (try clear_value x))
    | split
    | with_reducible refine hQ.power ?_ ?_

theorem showFill_law (hQ : Law P Q) (hP : Has P [.power]) {h : Nat} {s : State} (hi0 : P (.one .head h))  (h0 : Q s) :
    Q (showFill h s) := by
  unfold showFill
  repeat' first
    | with_reducible assumption
    | ((with_reducible refine boolGoal ?_); exact rfl)
    | ((with_reducible refine hP.one _ ?_); exact rfl)
    | with_reducible refine settleDip_law hQ (hP.sub rfl) ?_
    | ((with_reducible refine hQ.wrAt hP hi0 ?_ ?_); exact rfl)
    | with_reducible refine hQ.wr hP ?_ ?_
    | ((try lift_lets); (with_reducible intro y); (have hy : Q y := ?_); clear_value y; rotate_left; subst y)
    | ((try lift_lets); (with_reducible intro x); (try clear_value x))

theorem storeRow_law (hQ : Law P Q) (hP : Has P [.grp 64, .gaps, .heads, .mem, .poison, .tokens]) {h : Nat} {slot : Nat} {t : Tag} {payload : Nat} {s : State}   (h0 : Q s) :
    Q (storeRow h slot t payload s) := by
  unfold storeRow
  repeat' first
    | with_reducible assumption
    | ((with_reducible refine boolGoal ?_); exact rfl)
    | ((with_reducible refine hP.one _ ?_); exact rfl)
    | with_reducible refine sendGap_law hQ (hP.sub rfl) ?_
    | with_reducible refine hQ.writeWords ?_ ?_ ?_
    | with_reducible refine fill_law hQ (hP.sub rfl) ?_
    | with_reducible refine setHead_law hQ (hP.sub rfl) ?_
    | with_reducible refine emit_law hQ (hP.sub rfl) ?_
    | with_reducible refine evt_law hQ (hP.sub rfl) ?_
    | ((try lift_lets); (with_reducible intro y); (have hy : Q y := ?_); clear_value y; rotate_left; subst y)
    | ((try lift_lets); (with_reducible intro y); (have hy : Q y.1 := ?_); clear_value y; rotate_left; subst y)
    | ((try lift_lets); (with_reducible intro x); (try clear_value x))

theorem completeLine_law (hQ : Law P Q) (hP : Has P [.grp 9, .grp 64, .gaps, .heads, .mem, .poison, .power, .sump, .tokens]) {h : Nat} {how : LineEnd} {s : State} (hi0 : P (.one .head h)) (hi1 : P (.one .tesHead h))  (h0 : Q s) :
    Q (completeLine h how s) := by
  unfold completeLine
  repeat' first
    | with_reducible assumption
    | ((with_reducible refine boolGoal ?_); exact rfl)
    | ((with_reducible refine hP.one _ ?_); exact rfl)
    | with_reducible refine setHead_law hQ (hP.sub rfl) ?_
    | with_reducible refine decideClosed_law hQ (hP.sub rfl) ?_
    | ((with_reducible refine hQ.satAt hP hi0 ?_ ?_); exact rfl)
    | ((with_reducible refine hQ.satAt hP hi1 ?_ ?_); exact rfl)
    | with_reducible refine hQ.sat hP ?_ ?_
    | with_reducible refine tesCause_law hQ (hP.sub rfl) ?_ ?_
    | with_reducible refine showFill_law hQ (hP.sub rfl) ?_ ?_
    | with_reducible refine missRow_law hQ (hP.sub rfl) ?_
    | with_reducible refine storeRow_law hQ (hP.sub rfl) ?_
    | with_reducible refine note_law hQ (hP.sub rfl) ?_
    | with_reducible refine evt_law hQ (hP.sub rfl) ?_
    | with_reducible refine Law.ite ?_ ?_
    | ((try lift_lets); (with_reducible intro y); (have hy : Q y := ?_); clear_value y; rotate_left; subst y)
    | ((try lift_lets); (with_reducible intro y); (have hy : Q y.1 := ?_); clear_value y; rotate_left; subst y)
    | ((try lift_lets); (with_reducible intro x); (try clear_value x))
    | split
    | dsimp only

theorem countDiffer_law (hQ : Law P Q) (hP : Has P [.heads]) {h : Nat} {differ : Bool} {s : State} (hi0 : P (.one .eslHead h))  (h0 : Q s) :
    Q (countDiffer h differ s) := by
  unfold countDiffer
  repeat' first
    | with_reducible assumption
    | ((with_reducible refine boolGoal ?_); exact rfl)
    | ((with_reducible refine hP.one _ ?_); exact rfl)
    | ((with_reducible refine hQ.satAt hP hi0 ?_ ?_); exact rfl)
    | with_reducible refine hQ.sat hP ?_ ?_
    | with_reducible refine setHead_law hQ (hP.sub rfl) ?_
    | with_reducible refine Law.ite ?_ ?_
    | ((try lift_lets); (with_reducible intro y); (have hy : Q y := ?_); clear_value y; rotate_left; subst y)
    | ((try lift_lets); (with_reducible intro y); (have hy : Q y.1 := ?_); clear_value y; rotate_left; subst y)
    | ((try lift_lets); (with_reducible intro x); (try clear_value x))
    | split
    | dsimp only

theorem joinLanes_law (hQ : Law P Q) (hP : Has P []) {h : Nat} {s : State} (hi0 : P (.one .head h))  (h0 : Q s) :
    Q (joinLanes h s) := by
  unfold joinLanes
  repeat' first
    | with_reducible assumption
    | ((with_reducible refine boolGoal ?_); exact rfl)
    | ((with_reducible refine hP.one _ ?_); exact rfl)
    | ((with_reducible refine hQ.wrAt hP hi0 ?_ ?_); exact rfl)
    | with_reducible refine hQ.wr hP ?_ ?_

theorem openLine_law (hQ : Law P Q) (hP : Has P [.all .head, .grp 9, .grp 64, .gaps, .heads, .power, .sump, .tokens]) {h : Nat} {i : Nat} {xset : Nat} {len : Nat} {cline : Nat} {echo : Bool} {test : Bool} {s : State}   (h0 : Q s) :
    Q (openLine h i xset len cline echo test s) := by
  unfold openLine
  repeat' first
    | with_reducible assumption
    | ((with_reducible refine boolGoal ?_); exact rfl)
    | ((with_reducible refine hP.inst ?_); exact rfl)
    | ((with_reducible refine hP.one _ ?_); exact rfl)
    | with_reducible refine closeRecs_law hQ (hP.sub rfl) ?_
    | with_reducible refine showFill_law hQ (hP.sub rfl) ?_ ?_
    | with_reducible refine setHead_law hQ (hP.sub rfl) ?_
    | ((try lift_lets); (with_reducible intro y); (have hy : Q y := ?_); clear_value y; rotate_left; subst y)
    | ((try lift_lets); (with_reducible intro y); (have hy : Q y.1 := ?_); clear_value y; rotate_left; subst y)
    | ((try lift_lets); (with_reducible intro x); (try clear_value x))
    | split
    | dsimp only

theorem execLineStart_law (hQ : Law P Q) (hP : Has P [.all .head, .grp 9, .grp 64, .gaps, .heads, .mem, .poison, .power, .sump, .tokens]) {h : Nat} {trignum : Nat} {xset : Nat} {echo : Bool} {test : Bool} {len : Nat} {cline : Nat} {differ : Bool} {s : State} (hi0 : P (.one .eslHead h)) (hi1 : P (.one .tesHead h))  (h0 : Q s) :
    outAll Q (execLineStart h trignum xset echo test len cline differ s) := by
  unfold execLineStart
  repeat' first
    | with_reducible assumption
    | ((with_reducible refine boolGoal ?_); exact rfl)
    | ((with_reducible refine hP.inst ?_); exact rfl)
    | ((with_reducible refine hP.one _ ?_); exact rfl)
    | with_reducible refine joinLanes_law hQ (hP.sub rfl) ?_ ?_
    | with_reducible refine completeLine_law hQ (hP.sub rfl) ?_ ?_ ?_
    | ((with_reducible refine hQ.satAt hP hi0 ?_ ?_); exact rfl)
    | ((with_reducible refine hQ.satAt hP hi1 ?_ ?_); exact rfl)
    | with_reducible refine hQ.sat hP ?_ ?_
    | with_reducible refine countDiffer_law hQ (hP.sub rfl) ?_ ?_
    | with_reducible refine openLine_law hQ (hP.sub rfl) ?_
    | with_reducible refine setHead_law hQ (hP.sub rfl) ?_
    | with_reducible refine outOk ?_
    | with_reducible exact outFault
    | with_reducible refine outWithin ?_
    | with_reducible refine iteOut ?_ ?_
    | ((try lift_lets); (with_reducible intro y); (have hy : Q y := ?_); clear_value y; rotate_left; subst y)
    | ((try lift_lets); (with_reducible intro y); (have hy : Q y.1 := ?_); clear_value y; rotate_left; subst y)
    | ((try lift_lets); (with_reducible intro x); (try clear_value x))
    | split
    | dsimp only

theorem execDataColumn_law (hQ : Law P Q) (hP : Has P [.heads]) {h : Nat} {blocks : List (Option Word)} {s : State} (hi0 : P (.one .eslHead h))  (h0 : Q s) :
    outAll Q (execDataColumn h blocks s) := by
  unfold execDataColumn
  repeat' first
    | with_reducible assumption
    | ((with_reducible refine boolGoal ?_); exact rfl)
    | ((with_reducible refine hP.one _ ?_); exact rfl)
    | ((with_reducible refine hQ.satAt hP hi0 ?_ ?_); exact rfl)
    | with_reducible refine hQ.sat hP ?_ ?_
    | with_reducible refine setHead_law hQ (hP.sub rfl) ?_
    | with_reducible refine Law.ite ?_ ?_
    | with_reducible refine outOk ?_
    | with_reducible exact outFault
    | with_reducible refine outWithin ?_
    | with_reducible refine iteOut ?_ ?_
    | with_reducible refine Law.foldl (fun _ _ _ => ?_) ?_
    | with_reducible refine Law.foldlBy Prod.snd (fun _ _ _ => ?_) ?_
    | with_reducible refine Law.foldlBy Prod.fst (fun _ _ _ => ?_) ?_
    | with_reducible refine optAll.getD ?_ ?_
    | with_reducible refine optAll.map (fun _ => ?_)
    | ((try lift_lets); (with_reducible intro y); (have hy : Q y := ?_); clear_value y; rotate_left; subst y)
    | ((try lift_lets); (with_reducible intro y); (have hy : Q y.2 := ?_); clear_value y; rotate_left; subst y)
    | ((try lift_lets); (with_reducible intro y); (have hy : Q y.1 := ?_); clear_value y; rotate_left; subst y)
    | ((try lift_lets); (with_reducible intro x); (try clear_value x))
    | split
    | dsimp only

theorem execLineEnd_law (hQ : Law P Q) (hP : Has P [.grp 9, .grp 64, .gaps, .heads, .mem, .poison, .power, .sump, .tokens]) {h : Nat} {crc : Nat} {cline : Nat} {differ : Bool} {s : State} (hi0 : P (.one .eslHead h)) (hi1 : P (.one .head h)) (hi2 : P (.one .tesHead h))  (h0 : Q s) :
    outAll Q (execLineEnd h crc cline differ s) := by
  unfold execLineEnd
  repeat' first
    | with_reducible assumption
    | ((with_reducible refine boolGoal ?_); exact rfl)
    | ((with_reducible refine hP.one _ ?_); exact rfl)
    | ((with_reducible refine hQ.satAt hP hi0 ?_ ?_); exact rfl)
    | ((with_reducible refine hQ.satAt hP hi1 ?_ ?_); exact rfl)
    | ((with_reducible refine hQ.satAt hP hi2 ?_ ?_); exact rfl)
    | with_reducible refine hQ.sat hP ?_ ?_
    | with_reducible refine completeLine_law hQ (hP.sub rfl) ?_ ?_ ?_
    | with_reducible refine countDiffer_law hQ (hP.sub rfl) ?_ ?_
    | with_reducible refine outOk ?_
    | with_reducible exact outFault
    | with_reducible refine outWithin ?_
    | with_reducible refine iteOut ?_ ?_
    | ((try lift_lets); (with_reducible intro y); (have hy : Q y := ?_); clear_value y; rotate_left; subst y)
    | ((try lift_lets); (with_reducible intro y); (have hy : Q y.1 := ?_); clear_value y; rotate_left; subst y)
    | ((try lift_lets); (with_reducible intro x); (try clear_value x))
    | split
    | dsimp only

theorem execLineCompletionTimeout_law (hQ : Law P Q) (hP : Has P [.grp 9, .grp 64, .gaps, .heads, .mem, .poison, .power, .sump, .tokens]) {h : Nat} {s : State} (hi0 : P (.one .head h)) (hi1 : P (.one .tesHead h))  (h0 : Q s) :
    outAll Q (execLineCompletionTimeout h s) := by
  unfold execLineCompletionTimeout
  repeat' first
    | with_reducible assumption
    | ((with_reducible refine boolGoal ?_); exact rfl)
    | ((with_reducible refine hP.one _ ?_); exact rfl)
    | with_reducible refine completeLine_law hQ (hP.sub rfl) ?_ ?_ ?_
    | with_reducible refine outOk ?_
    | with_reducible exact outFault
    | with_reducible refine outWithin ?_
    | with_reducible refine iteOut ?_ ?_
    | ((try lift_lets); (with_reducible intro y); (have hy : Q y := ?_); clear_value y; rotate_left; subst y)
    | ((try lift_lets); (with_reducible intro x); (try clear_value x))

theorem execTriggerLineTimeout_law (hQ : Law P Q) (hP : Has P [.grp 9, .grp 64, .gaps, .heads, .sump, .tokens]) {h : Nat} {s : State} (hi0 : P (.one .head h))  (h0 : Q s) :
    outAll Q (execTriggerLineTimeout h s) := by
  unfold execTriggerLineTimeout
  repeat' first
    | with_reducible assumption
    | ((with_reducible refine boolGoal ?_); exact rfl)
    | ((with_reducible refine hP.one _ ?_); exact rfl)
    | with_reducible refine closeOldest_law hQ (hP.sub rfl) ?_ ?_
    | with_reducible refine outOk ?_
    | with_reducible exact outFault
    | with_reducible refine outWithin ?_
    | with_reducible refine iteOut ?_ ?_
    | ((try lift_lets); (with_reducible intro y); (have hy : Q y := ?_); clear_value y; rotate_left; subst y)
    | ((try lift_lets); (with_reducible intro x); (try clear_value x))

theorem execBlktoExpiry_law (hQ : Law P Q) (hP : Has P [.tokens]) {h : Nat} {k : Nat} {s : State} (hi0 : P (.one .head h))  (h0 : Q s) :
    outAll Q (execBlktoExpiry h k s) := by
  unfold execBlktoExpiry
  repeat' first
    | with_reducible assumption
    | ((with_reducible refine boolGoal ?_); exact rfl)
    | ((with_reducible refine hP.one _ ?_); exact rfl)
    | ((with_reducible refine hQ.wrAt hP hi0 ?_ ?_); exact rfl)
    | with_reducible refine hQ.wr hP ?_ ?_
    | with_reducible refine emit_law hQ (hP.sub rfl) ?_
    | with_reducible refine Law.ite ?_ ?_
    | with_reducible refine outOk ?_
    | with_reducible exact outFault
    | with_reducible refine outWithin ?_
    | with_reducible refine iteOut ?_ ?_
    | ((try lift_lets); (with_reducible intro y); (have hy : Q y := ?_); clear_value y; rotate_left; subst y)
    | ((try lift_lets); (with_reducible intro x); (try clear_value x))
    | split

theorem execGapflExpiry_law (hQ : Law P Q) (hP : Has P [.grp 64, .gaps, .heads, .tokens]) {h : Nat} {s : State}   (h0 : Q s) :
    outAll Q (execGapflExpiry h s) := by
  unfold execGapflExpiry
  repeat' first
    | with_reducible assumption
    | ((with_reducible refine boolGoal ?_); exact rfl)
    | ((with_reducible refine hP.one _ ?_); exact rfl)
    | with_reducible refine sendGap_law hQ (hP.sub rfl) ?_
    | with_reducible refine outOk ?_
    | with_reducible exact outFault
    | with_reducible refine outWithin ?_
    | with_reducible refine iteOut ?_ ?_
    | ((try lift_lets); (with_reducible intro y); (have hy : Q y := ?_); clear_value y; rotate_left; subst y)
    | ((try lift_lets); (with_reducible intro x); (try clear_value x))

theorem execUnknownTypeBlock_law (hQ : Law P Q) (hP : Has P [.all .eslHead]) {b : CtrlBlock} {s : State}   (h0 : Q s) :
    outAll Q (execUnknownTypeBlock b s) := by
  unfold execUnknownTypeBlock
  repeat' first
    | with_reducible assumption
    | ((with_reducible refine boolGoal ?_); exact rfl)
    | ((with_reducible refine hP.inst ?_); exact rfl)
    | ((with_reducible refine hP.one _ ?_); exact rfl)
    | with_reducible refine hQ.sat hP ?_ ?_
    | with_reducible refine Law.ite ?_ ?_
    | with_reducible refine outOk ?_
    | with_reducible exact outFault
    | with_reducible refine outWithin ?_
    | with_reducible refine iteOut ?_ ?_
    | ((try lift_lets); (with_reducible intro y); (have hy : Q y := ?_); clear_value y; rotate_left; subst y)
    | ((try lift_lets); (with_reducible intro y); (have hy : Q y.1 := ?_); clear_value y; rotate_left; subst y)
    | ((try lift_lets); (with_reducible intro x); (try clear_value x))
    | split
    | dsimp only

theorem execStatusUnknownSub_law (hQ : Law P Q) (hP : Has P []) {b : StatusBlock} {s : State} (hi0 : P (.one .eslHead b.head))  (h0 : Q s) :
    outAll Q (execStatusUnknownSub b s) := by
  unfold execStatusUnknownSub
  repeat' first
    | with_reducible assumption
    | ((with_reducible refine boolGoal ?_); exact rfl)
    | ((with_reducible refine hP.one _ ?_); exact rfl)
    | ((with_reducible refine hQ.satAt hP hi0 ?_ ?_); exact rfl)
    | with_reducible refine hQ.sat hP ?_ ?_
    | with_reducible refine Law.ite ?_ ?_
    | with_reducible refine outOk ?_
    | with_reducible exact outFault
    | with_reducible refine outWithin ?_
    | with_reducible refine iteOut ?_ ?_
    | ((try lift_lets); (with_reducible intro y); (have hy : Q y := ?_); clear_value y; rotate_left; subst y)
    | ((try lift_lets); (with_reducible intro y); (have hy : Q y.1 := ?_); clear_value y; rotate_left; subst y)
    | ((try lift_lets); (with_reducible intro x); (try clear_value x))
    | split

theorem execCamEvent_law (hQ : Law P Q) (hP : Has P []) {h : Nat} {code : Nat} {info : Nat} {s : State} (hi0 : P (.one .eslHead h))  (h0 : Q s) :
    outAll Q (execCamEvent h code info s) := by
  unfold execCamEvent
  repeat' first
    | with_reducible assumption
    | ((with_reducible refine boolGoal ?_); exact rfl)
    | ((with_reducible refine hP.one _ ?_); exact rfl)
    | ((with_reducible refine hQ.satAt hP hi0 ?_ ?_); exact rfl)
    | with_reducible refine hQ.sat hP ?_ ?_
    | ((with_reducible refine hQ.wrAllAt hP hi0 ?_ ?_); simp only [List.all]; exact rfl)
    | ((with_reducible refine hQ.wrAll hP ?_ ?_); simp only [List.all]; exact rfl)
    | with_reducible refine outOk ?_
    | with_reducible exact outFault
    | with_reducible refine outWithin ?_
    | with_reducible refine iteOut ?_ ?_
    | ((try lift_lets); (with_reducible intro y); (have hy : Q y := ?_); clear_value y; rotate_left; subst y)
    | ((try lift_lets); (with_reducible intro y); (have hy : Q y.1 := ?_); clear_value y; rotate_left; subst y)
    | ((try lift_lets); (with_reducible intro x); (try clear_value x))

theorem startLanes_law (hQ : Law P Q) (hP : Has P [.all .lane, .grp 21, .damper, .lanes, .tokens]) {h : Nat} {s : State}   (h0 : Q s) :
    Q (startLanes h s) := by
  unfold startLanes
  repeat' first
    | with_reducible assumption
    | ((with_reducible refine boolGoal ?_); exact rfl)
    | ((with_reducible refine hP.inst ?_); exact rfl)
    | ((with_reducible refine hP.one _ ?_); exact rfl)
    | with_reducible refine txIdle_law hQ (hP.sub rfl) ?_ ?_
    | with_reducible refine hQ.wr hP ?_ ?_
    | with_reducible refine sleepOthers_law hQ (hP.sub rfl) ?_
    | with_reducible refine startTrain_law hQ (hP.sub rfl) ?_ ?_
    | with_reducible refine Law.ite ?_ ?_
    | with_reducible refine Law.foldl (fun _ _ _ => ?_) ?_
    | with_reducible refine Law.foldlBy Prod.snd (fun _ _ _ => ?_) ?_
    | with_reducible refine Law.foldlBy Prod.fst (fun _ _ _ => ?_) ?_
    | ((try lift_lets); (with_reducible intro y); (have hy : Q y := ?_); clear_value y; rotate_left; subst y)
    | ((try lift_lets); (with_reducible intro x); (try clear_value x))
    | split
    | dsimp only

theorem execHauStart_law (hQ : Law P Q) (hP : Has P [.all .lane, .grp 0, .grp 21, .grp 64, .damper, .heads, .lanes, .procs, .sampled, .seq, .tokens]) {x : XWord} {s : State}   (h0 : Q s) :
    outAll Q (execHauStart x s) := by
  unfold execHauStart
  repeat' first
    | with_reducible assumption
    | ((with_reducible refine boolGoal ?_); exact rfl)
    | ((with_reducible refine hP.inst ?_); exact rfl)
    | ((with_reducible refine hP.one _ ?_); exact rfl)
    | with_reducible refine xop_law hQ (hP.sub rfl) (fun _ => ?_) ?_
    | with_reducible refine startLanes_law hQ (hP.sub rfl) ?_
    | with_reducible refine setHead_law hQ (hP.sub rfl) ?_
    | with_reducible refine Law.ite ?_ ?_
    | with_reducible refine resFin ?_
    | with_reducible refine resNo ?_
    | with_reducible refine resStart ?_
    | with_reducible refine resForm ?_
    | with_reducible refine resGone ?_
    | with_reducible refine resHold ?_
    | with_reducible refine iteRes ?_ ?_
    | with_reducible refine outOk ?_
    | with_reducible exact outFault
    | with_reducible refine outWithin ?_
    | with_reducible refine iteOut ?_ ?_
    | ((try lift_lets); (with_reducible intro y); (have hy : Q y := ?_); clear_value y; rotate_left; subst y)
    | ((try lift_lets); (with_reducible intro y); (have hy : Q y.1 := ?_); clear_value y; rotate_left; subst y)
    | ((try lift_lets); (with_reducible intro x); (try clear_value x))
    | split
    | dsimp only

theorem readReg_law (hQ : Law P Q) (hP : Has P [.heads]) {h : Nat} {addr : Nat} {s : State}   (h0 : Q s) :
    Q (readReg h addr s) := by
  unfold readReg
  repeat' first
    | with_reducible assumption
    | ((with_reducible refine boolGoal ?_); exact rfl)
    | ((with_reducible refine hP.one _ ?_); exact rfl)
    | with_reducible refine sendCmd_law hQ (hP.sub rfl) ?_

theorem keepRead_law (hQ : Law P Q) (hP : Has P [.heads]) {h : Nat} {addr : Nat} {data : Nat} {st : Start} {s : State} (hi0 : P (.one .eslHead h))  (h0 : Q s) :
    Q (keepRead h addr data st s) := by
  unfold keepRead
  repeat' first
    | with_reducible assumption
    | ((with_reducible refine boolGoal ?_); exact rfl)
    | ((with_reducible refine hP.one _ ?_); exact rfl)
    | with_reducible refine setHead_law hQ (hP.sub rfl) ?_
    | ((with_reducible refine hQ.wrAt hP hi0 ?_ ?_); exact rfl)
    | with_reducible refine hQ.wr hP ?_ ?_
    | ((try lift_lets); (with_reducible intro y); (have hy : Q y := ?_); clear_value y; rotate_left; subst y)
    | ((try lift_lets); (with_reducible intro y); (have hy : Q y.1 := ?_); clear_value y; rotate_left; subst y)
    | ((try lift_lets); (with_reducible intro x); (try clear_value x))
    | split
    | dsimp only

theorem readAnswered_law (hQ : Law P Q) (hP : Has P [.heads, .seq]) {h : Nat} {addr : Nat} {data : Nat} {st : Start} {s : State} (hi0 : P (.one .eslHead h))  (h0 : Q s) :
    Q (readAnswered h addr data st s) := by
  unfold readAnswered
  repeat' first
    | with_reducible assumption
    | ((with_reducible refine boolGoal ?_); exact rfl)
    | ((with_reducible refine hP.one _ ?_); exact rfl)
    | with_reducible refine keepRead_law hQ (hP.sub rfl) ?_ ?_
    | with_reducible refine readReg_law hQ (hP.sub rfl) ?_
    | with_reducible refine failStart_law hQ (hP.sub rfl) ?_
    | with_reducible refine sendCmd_law hQ (hP.sub rfl) ?_
    | with_reducible refine setHead_law hQ (hP.sub rfl) ?_
    | with_reducible refine Law.ite ?_ ?_
    | ((try lift_lets); (with_reducible intro y); (have hy : Q y := ?_); clear_value y; rotate_left; subst y)
    | ((try lift_lets); (with_reducible intro y); (have hy : Q y.1 := ?_); clear_value y; rotate_left; subst y)
    | ((try lift_lets); (with_reducible intro x); (try clear_value x))
    | split
    | dsimp only

theorem answerRead_law (hQ : Law P Q) (hP : Has P [.heads, .seq]) {h : Nat} {data : Nat} {s : State} (hi0 : P (.one .eslHead h))  (h0 : Q s) :
    Q (answerRead h data s) := by
  unfold answerRead
  repeat' first
    | with_reducible assumption
    | ((with_reducible refine boolGoal ?_); exact rfl)
    | ((with_reducible refine hP.one _ ?_); exact rfl)
    | with_reducible refine readAnswered_law hQ (hP.sub rfl) ?_ ?_
    | with_reducible refine nextCmd_law hQ (hP.sub rfl) ?_
    | with_reducible refine Law.ite ?_ ?_
    | ((try lift_lets); (with_reducible intro y); (have hy : Q y := ?_); clear_value y; rotate_left; subst y)
    | ((try lift_lets); (with_reducible intro y); (have hy : Q y.1 := ?_); clear_value y; rotate_left; subst y)
    | ((try lift_lets); (with_reducible intro x); (try clear_value x))
    | split
    | dsimp only

theorem execHeadBringupRegs_law (hQ : Law P Q) (hP : Has P [.heads, .seq]) {h : Nat} {eslver : Nat} {caps : Nat} {maxlen : Nat} {dcam : Nat} {maxlrate : Nat} {layout : Nat} {answers : Nat} {s : State} (hi0 : P (.one .eslHead h))  (h0 : Q s) :
    outAll Q (execHeadBringupRegs h eslver caps maxlen dcam maxlrate layout answers s) := by
  unfold execHeadBringupRegs
  repeat' first
    | with_reducible assumption
    | ((with_reducible refine boolGoal ?_); exact rfl)
    | ((with_reducible refine hP.one _ ?_); exact rfl)
    | with_reducible refine answerRead_law hQ (hP.sub rfl) ?_ ?_
    | with_reducible refine readReg_law hQ (hP.sub rfl) ?_
    | with_reducible refine setHead_law hQ (hP.sub rfl) ?_
    | with_reducible refine Law.ite ?_ ?_
    | with_reducible refine outOk ?_
    | with_reducible exact outFault
    | with_reducible refine outWithin ?_
    | with_reducible refine iteOut ?_ ?_
    | with_reducible refine Law.foldl (fun _ _ _ => ?_) ?_
    | with_reducible refine Law.foldlBy Prod.snd (fun _ _ _ => ?_) ?_
    | with_reducible refine Law.foldlBy Prod.fst (fun _ _ _ => ?_) ?_
    | ((try lift_lets); (with_reducible intro y); (have hy : Q y := ?_); clear_value y; rotate_left; subst y)
    | ((try lift_lets); (with_reducible intro y); (have hy : Q y.1 := ?_); clear_value y; rotate_left; subst y)
    | ((try lift_lets); (with_reducible intro x); (try clear_value x))
    | split
    | dsimp only

theorem clearWindow_law (hQ : Law P Q) (hP : Has P [.mem, .poison]) {l : Nat} {i : Nat} {s : State}   (h0 : Q s) :
    Q (clearWindow l i s) := by
  unfold clearWindow
  repeat' first
    | with_reducible assumption
    | ((with_reducible refine boolGoal ?_); exact rfl)
    | ((with_reducible refine hP.one _ ?_); exact rfl)
    | with_reducible refine write64_law hQ (hP.sub rfl) ?_
    | with_reducible refine Law.ite ?_ ?_
    | with_reducible refine Law.foldl (fun _ _ _ => ?_) ?_
    | with_reducible refine Law.foldlBy Prod.snd (fun _ _ _ => ?_) ?_
    | with_reducible refine Law.foldlBy Prod.fst (fun _ _ _ => ?_) ?_
    | ((try lift_lets); (with_reducible intro x); (try clear_value x))
    | split

theorem assignStrip_law (hQ : Law P Q) (hP : Has P [.all .lrp, .mem, .poison, .rpa]) {h : Nat} {s : State} {e : (Nat × Nat) × Nat}   (h0 : Q s) :
    Q (assignStrip h s e) := by
  unfold assignStrip
  repeat' first
    | with_reducible assumption
    | ((with_reducible refine boolGoal ?_); exact rfl)
    | ((with_reducible refine hP.inst ?_); exact rfl)
    | ((with_reducible refine hP.one _ ?_); exact rfl)
    | with_reducible refine clearWindow_law hQ (hP.sub rfl) ?_
    | with_reducible refine hQ.wr hP ?_ ?_
    | ((try lift_lets); (with_reducible intro y); (have hy : Q y := ?_); clear_value y; rotate_left; subst y)
    | ((try lift_lets); (with_reducible intro y); (have hy : Q y.2 := ?_); clear_value y; rotate_left; subst y)
    | ((try lift_lets); (with_reducible intro y); (have hy : Q y.1 := ?_); clear_value y; rotate_left; subst y)
    | ((try lift_lets); (with_reducible intro x); (try clear_value x))
    | dsimp only
    | with_reducible refine hQ.rpa ?_ ?_

theorem showAssigned_law (hQ : Law P Q) (hP : Has P [.all .lane]) {h : Nat} {v : Nat} {s : State}   (h0 : Q s) :
    Q (showAssigned h v s) := by
  unfold showAssigned
  repeat' first
    | with_reducible assumption
    | ((with_reducible refine boolGoal ?_); exact rfl)
    | ((with_reducible refine hP.inst ?_); exact rfl)
    | ((with_reducible refine hP.one _ ?_); exact rfl)
    | with_reducible refine hQ.wr hP ?_ ?_
    | with_reducible refine Law.foldl (fun _ _ _ => ?_) ?_
    | with_reducible refine Law.foldlBy Prod.snd (fun _ _ _ => ?_) ?_
    | with_reducible refine Law.foldlBy Prod.fst (fun _ _ _ => ?_) ?_
    | ((try lift_lets); (with_reducible intro x); (try clear_value x))

theorem beginRun_law (hQ : Law P Q) (hP : Has P [.all .lane, .all .lrp, .heads, .mem, .poison, .progress, .rpa, .seq, .tes, .tokens]) {h : Nat} {st : Start} {s : State} (hi0 : P (.one .head h)) (hi1 : P (.one .strips h)) (hi2 : P (.one .tesHead h))  (h0 : Q s) :
    Q (beginRun h st s) := by
  unfold beginRun
  repeat' first
    | with_reducible assumption
    | ((with_reducible refine boolGoal ?_); exact rfl)
    | ((with_reducible refine hP.inst ?_); exact rfl)
    | ((with_reducible refine hP.one _ ?_); exact rfl)
    | ((with_reducible refine hQ.wr2At hP hi0 ?_ ?_); exact rfl)
    | ((with_reducible refine hQ.wr2At hP hi1 ?_ ?_); exact rfl)
    | ((with_reducible refine hQ.wr2At hP hi2 ?_ ?_); exact rfl)
    | with_reducible refine hQ.wr2 hP ?_ ?_
    | with_reducible refine setHead_law hQ (hP.sub rfl) ?_
    | with_reducible refine assignStrip_law hQ (hP.sub rfl) ?_
    | ((with_reducible refine hQ.wrAllAt hP hi0 ?_ ?_); simp only [List.all]; exact rfl)
    | ((with_reducible refine hQ.wrAllAt hP hi1 ?_ ?_); simp only [List.all]; exact rfl)
    | ((with_reducible refine hQ.wrAllAt hP hi2 ?_ ?_); simp only [List.all]; exact rfl)
    | ((with_reducible refine hQ.wrAll2 hP hi0 hi1 ?_ ?_); simp only [List.all]; exact rfl)
    | ((with_reducible refine hQ.wrAll2 hP hi0 hi2 ?_ ?_); simp only [List.all]; exact rfl)
    | ((with_reducible refine hQ.wrAll2 hP hi1 hi2 ?_ ?_); simp only [List.all]; exact rfl)
    | ((with_reducible refine hQ.wrAll hP ?_ ?_); simp only [List.all]; exact rfl)
    | with_reducible refine showAssigned_law hQ (hP.sub rfl) ?_
    | with_reducible refine stageStart_law hQ (hP.sub rfl) ?_
    | with_reducible refine tesStart_law hQ (hP.sub rfl) ?_ ?_
    | with_reducible refine complete_law hQ (hP.sub rfl) ?_
    | with_reducible refine Law.ite ?_ ?_
    | with_reducible refine Law.foldl (fun _ _ _ => ?_) ?_
    | with_reducible refine Law.foldlBy Prod.snd (fun _ _ _ => ?_) ?_
    | with_reducible refine Law.foldlBy Prod.fst (fun _ _ _ => ?_) ?_
    | ((try lift_lets); (with_reducible intro y); (have hy : Q y := ?_); clear_value y; rotate_left; subst y)
    | ((try lift_lets); (with_reducible intro y); (have hy : Q y.2 := ?_); clear_value y; rotate_left; subst y)
    | ((try lift_lets); (with_reducible intro y); (have hy : Q y.1 := ?_); clear_value y; rotate_left; subst y)
    | ((try lift_lets); (with_reducible intro x); (try clear_value x))
    | split
    | dsimp only

theorem stopCamera_law (hQ : Law P Q) (hP : Has P [.heads]) {h : Nat} {s : State}   (h0 : Q s) :
    Q (stopCamera h s) := by
  unfold stopCamera
  repeat' first
    | with_reducible assumption
    | ((with_reducible refine boolGoal ?_); exact rfl)
    | ((with_reducible refine hP.one _ ?_); exact rfl)
    | with_reducible refine sendCmd_law hQ (hP.sub rfl) ?_
    | with_reducible refine Law.ite ?_ ?_
    | split

theorem laneRate_law (hQ : Law P Q) (hP : Has P [.lanes]) {code : Nat} {n : Nat} {s : State} (hi0 : P (.one .lane n))  (h0 : Q s) :
    Q (laneRate code n s) := by
  unfold laneRate
  repeat' first
    | with_reducible assumption
    | ((with_reducible refine boolGoal ?_); exact rfl)
    | ((with_reducible refine hP.one _ ?_); exact rfl)
    | ((with_reducible refine hQ.wrAt hP hi0 ?_ ?_); exact rfl)
    | with_reducible refine hQ.wr hP ?_ ?_
    | with_reducible refine txIdle_law hQ (hP.sub rfl) ?_ ?_
    | with_reducible refine setLane_law hQ (hP.sub rfl) ?_
    | with_reducible refine Law.ite ?_ ?_
    | ((try lift_lets); (with_reducible intro y); (have hy : Q y := ?_); clear_value y; rotate_left; subst y)
    | ((try lift_lets); (with_reducible intro y); (have hy : Q y.1 := ?_); clear_value y; rotate_left; subst y)
    | ((try lift_lets); (with_reducible intro x); (try clear_value x))
    | split

theorem rateAccepted_law (hQ : Law P Q) (hP : Has P [.all .lane, .heads, .lanes]) {h : Nat} {code : Nat} {s : State}   (h0 : Q s) :
    Q (rateAccepted h code s) := by
  unfold rateAccepted
  repeat' first
    | with_reducible assumption
    | ((with_reducible refine boolGoal ?_); exact rfl)
    | ((with_reducible refine hP.inst ?_); exact rfl)
    | ((with_reducible refine hP.one _ ?_); exact rfl)
    | with_reducible refine laneRate_law hQ (hP.sub rfl) ?_ ?_
    | with_reducible refine setHead_law hQ (hP.sub rfl) ?_
    | with_reducible refine Law.foldl (fun _ _ _ => ?_) ?_
    | with_reducible refine Law.foldlBy Prod.snd (fun _ _ _ => ?_) ?_
    | with_reducible refine Law.foldlBy Prod.fst (fun _ _ _ => ?_) ?_
    | ((try lift_lets); (with_reducible intro y); (have hy : Q y := ?_); clear_value y; rotate_left; subst y)
    | ((try lift_lets); (with_reducible intro y); (have hy : Q y.1 := ?_); clear_value y; rotate_left; subst y)
    | ((try lift_lets); (with_reducible intro x); (try clear_value x))

theorem startAnswered_law (hQ : Law P Q) (hP : Has P [.all .lane, .all .lrp, .heads, .mem, .poison, .progress, .rpa, .seq, .tes, .tokens]) {h : Nat} {data : Nat} {c : CamCmd} {s : State} (hi0 : P (.one .eslHead h)) (hi1 : P (.one .head h)) (hi2 : P (.one .strips h)) (hi3 : P (.one .tesHead h))  (h0 : Q s) :
    Q (startAnswered h data c s) := by
  unfold startAnswered
  repeat' first
    | with_reducible assumption
    | ((with_reducible refine boolGoal ?_); exact rfl)
    | ((with_reducible refine hP.inst ?_); exact rfl)
    | ((with_reducible refine hP.one _ ?_); exact rfl)
    | with_reducible refine readAnswered_law hQ (hP.sub rfl) ?_ ?_
    | with_reducible refine stopCamera_law hQ (hP.sub rfl) ?_
    | with_reducible refine failStart_law hQ (hP.sub rfl) ?_
    | with_reducible refine beginRun_law hQ (hP.sub rfl) ?_ ?_ ?_ ?_
    | with_reducible refine sendCmd_law hQ (hP.sub rfl) ?_
    | with_reducible refine startSets_law hQ (hP.sub rfl) ?_
    | with_reducible refine setHead_law hQ (hP.sub rfl) ?_
    | with_reducible refine Law.ite ?_ ?_
    | ((try lift_lets); (with_reducible intro y); (have hy : Q y := ?_); clear_value y; rotate_left; subst y)
    | ((try lift_lets); (with_reducible intro y); (have hy : Q y.1 := ?_); clear_value y; rotate_left; subst y)
    | ((try lift_lets); (with_reducible intro x); (try clear_value x))
    | split
    | dsimp only

theorem answered_law (hQ : Law P Q) (hP : Has P [.all .lane, .all .lrp, .heads, .lanes, .mem, .poison, .progress, .rpa, .seq, .tes, .tokens]) {h : Nat} {result : Nat} {data : Nat} {c : CamCmd} {s : State} (hi0 : P (.one .eslHead h)) (hi1 : P (.one .head h)) (hi2 : P (.one .strips h)) (hi3 : P (.one .tesHead h))  (h0 : Q s) :
    Q (answered h result data c s) := by
  unfold answered
  repeat' first
    | with_reducible assumption
    | ((with_reducible refine boolGoal ?_); exact rfl)
    | ((with_reducible refine hP.inst ?_); exact rfl)
    | ((with_reducible refine hP.one _ ?_); exact rfl)
    | with_reducible refine write64_law hQ (hP.sub rfl) ?_
    | with_reducible refine rateAccepted_law hQ (hP.sub rfl) ?_
    | with_reducible refine complete_law hQ (hP.sub rfl) ?_
    | with_reducible refine failStart_law hQ (hP.sub rfl) ?_
    | with_reducible refine startAnswered_law hQ (hP.sub rfl) ?_ ?_ ?_ ?_ ?_
    | with_reducible refine Law.ite ?_ ?_
    | ((try lift_lets); (with_reducible intro y); (have hy : Q y := ?_); clear_value y; rotate_left; subst y)
    | ((try lift_lets); (with_reducible intro y); (have hy : Q y.1 := ?_); clear_value y; rotate_left; subst y)
    | ((try lift_lets); (with_reducible intro x); (try clear_value x))
    | split
    | dsimp only

theorem execStatusCmdrsp_law (hQ : Law P Q) (hP : Has P [.all .lane, .all .lrp, .heads, .lanes, .mem, .poison, .progress, .rpa, .seq, .tes, .tokens]) {h : Nat} {tag : Nat} {result : Nat} {data : Nat} {s : State} (hi0 : P (.one .eslHead h)) (hi1 : P (.one .head h)) (hi2 : P (.one .strips h)) (hi3 : P (.one .tesHead h))  (h0 : Q s) :
    outAll Q (execStatusCmdrsp h tag result data s) := by
  unfold execStatusCmdrsp
  repeat' first
    | with_reducible assumption
    | ((with_reducible refine boolGoal ?_); exact rfl)
    | ((with_reducible refine hP.inst ?_); exact rfl)
    | ((with_reducible refine hP.one _ ?_); exact rfl)
    | ((with_reducible refine hQ.satAt hP hi0 ?_ ?_); exact rfl)
    | ((with_reducible refine hQ.satAt hP hi1 ?_ ?_); exact rfl)
    | ((with_reducible refine hQ.satAt hP hi2 ?_ ?_); exact rfl)
    | ((with_reducible refine hQ.satAt hP hi3 ?_ ?_); exact rfl)
    | with_reducible refine hQ.sat hP ?_ ?_
    | with_reducible refine answered_law hQ (hP.sub rfl) ?_ ?_ ?_ ?_ ?_
    | with_reducible refine nextCmd_law hQ (hP.sub rfl) ?_
    | with_reducible refine Law.ite ?_ ?_
    | with_reducible refine outOk ?_
    | with_reducible exact outFault
    | with_reducible refine outWithin ?_
    | with_reducible refine iteOut ?_ ?_
    | ((try lift_lets); (with_reducible intro y); (have hy : Q y := ?_); clear_value y; rotate_left; subst y)
    | ((try lift_lets); (with_reducible intro y); (have hy : Q y.1 := ?_); clear_value y; rotate_left; subst y)
    | ((try lift_lets); (with_reducible intro x); (try clear_value x))
    | split
    | dsimp only

theorem execCmdtoExpiry_law (hQ : Law P Q) (hP : Has P [.heads, .seq]) {h : Nat} {s : State} (hi0 : P (.one .eslHead h))  (h0 : Q s) :
    outAll Q (execCmdtoExpiry h s) := by
  unfold execCmdtoExpiry
  repeat' first
    | with_reducible assumption
    | ((with_reducible refine boolGoal ?_); exact rfl)
    | ((with_reducible refine hP.one _ ?_); exact rfl)
    | with_reducible refine nextCmd_law hQ (hP.sub rfl) ?_
    | ((with_reducible refine hQ.satAt hP hi0 ?_ ?_); exact rfl)
    | with_reducible refine hQ.sat hP ?_ ?_
    | with_reducible refine complete_law hQ (hP.sub rfl) ?_
    | with_reducible refine failStart_law hQ (hP.sub rfl) ?_
    | with_reducible refine outOk ?_
    | with_reducible exact outFault
    | with_reducible refine outWithin ?_
    | with_reducible refine iteOut ?_ ?_
    | ((try lift_lets); (with_reducible intro y); (have hy : Q y := ?_); clear_value y; rotate_left; subst y)
    | ((try lift_lets); (with_reducible intro y); (have hy : Q y.1 := ?_); clear_value y; rotate_left; subst y)
    | ((try lift_lets); (with_reducible intro x); (try clear_value x))
    | split
    | dsimp only

theorem execHauCamreg_law (hQ : Law P Q) (hP : Has P [.grp 0, .grp 64, .heads, .procs, .sampled, .seq, .tokens]) {x : XWord} {s : State}   (h0 : Q s) :
    outAll Q (execHauCamreg x s) := by
  unfold execHauCamreg
  repeat' first
    | with_reducible assumption
    | ((with_reducible refine boolGoal ?_); exact rfl)
    | ((with_reducible refine hP.one _ ?_); exact rfl)
    | with_reducible refine xop_law hQ (hP.sub rfl) (fun _ => ?_) ?_
    | with_reducible refine sendCmd_law hQ (hP.sub rfl) ?_
    | with_reducible refine Law.ite ?_ ?_
    | with_reducible refine resFin ?_
    | with_reducible refine resNo ?_
    | with_reducible refine resStart ?_
    | with_reducible refine resForm ?_
    | with_reducible refine resGone ?_
    | with_reducible refine resHold ?_
    | with_reducible refine iteRes ?_ ?_
    | with_reducible refine outOk ?_
    | with_reducible exact outFault
    | with_reducible refine outWithin ?_
    | with_reducible refine iteOut ?_ ?_
    | ((try lift_lets); (with_reducible intro y); (have hy : Q y := ?_); clear_value y; rotate_left; subst y)
    | ((try lift_lets); (with_reducible intro y); (have hy : Q y.1 := ?_); clear_value y; rotate_left; subst y)
    | ((try lift_lets); (with_reducible intro x); (try clear_value x))
    | split

theorem execRateChangeRetrain_law (hQ : Law P Q) (hP : Has P [.all .lane, .grp 21, .damper, .heads, .lanes, .tokens]) {h : Nat} {s : State}   (h0 : Q s) :
    outAll Q (execRateChangeRetrain h s) := by
  unfold execRateChangeRetrain
  repeat' first
    | with_reducible assumption
    | ((with_reducible refine boolGoal ?_); exact rfl)
    | ((with_reducible refine hP.inst ?_); exact rfl)
    | ((with_reducible refine hP.one _ ?_); exact rfl)
    | with_reducible refine request_law hQ (hP.sub rfl) ?_
    | with_reducible refine trainFrom_law hQ (hP.sub rfl) ?_ ?_
    | with_reducible refine setLane_law hQ (hP.sub rfl) ?_
    | with_reducible refine setHead_law hQ (hP.sub rfl) ?_
    | with_reducible refine Law.ite ?_ ?_
    | with_reducible refine outOk ?_
    | with_reducible exact outFault
    | with_reducible refine outWithin ?_
    | with_reducible refine iteOut ?_ ?_
    | with_reducible refine Law.foldl (fun _ _ _ => ?_) ?_
    | with_reducible refine Law.foldlBy Prod.snd (fun _ _ _ => ?_) ?_
    | with_reducible refine Law.foldlBy Prod.fst (fun _ _ _ => ?_) ?_
    | ((try lift_lets); (with_reducible intro y); (have hy : Q y := ?_); clear_value y; rotate_left; subst y)
    | ((try lift_lets); (with_reducible intro y); (have hy : Q y.1 := ?_); clear_value y; rotate_left; subst y)
    | ((try lift_lets); (with_reducible intro x); (try clear_value x))
    | split

theorem execHauBond_law (hQ : Law P Q) (hP : Has P [.all .lane, .grp 0, .grp 64, .bonded, .procs, .sampled, .seq, .tokens]) {x : XWord} {s : State} (hi0 : P (.one .head (xargs s x).i))  (h0 : Q s) :
    outAll Q (execHauBond x s) := by
  unfold execHauBond
  repeat' first
    | with_reducible assumption
    | ((with_reducible refine boolGoal ?_); exact rfl)
    | ((with_reducible refine hP.inst ?_); exact rfl)
    | ((with_reducible refine hP.one _ ?_); exact rfl)
    | with_reducible refine direct_law hQ (hP.sub rfl) (fun _ => ?_) ?_
    | ((with_reducible refine hQ.wrAllAt hP hi0 ?_ ?_); simp only [List.all]; exact rfl)
    | ((with_reducible refine hQ.wrAll hP ?_ ?_); simp only [List.all]; exact rfl)
    | ((with_reducible refine hQ.wrAt hP hi0 ?_ ?_); exact rfl)
    | with_reducible refine hQ.wr hP ?_ ?_
    | ((with_reducible refine hQ.wr2At hP hi0 ?_ ?_); exact rfl)
    | with_reducible refine hQ.wr2 hP ?_ ?_
    | with_reducible refine Law.ite ?_ ?_
    | with_reducible refine excPair ?_
    | with_reducible refine excState ?_
    | with_reducible exact excError
    | with_reducible refine iteExc ?_ ?_
    | with_reducible refine outOk ?_
    | with_reducible exact outFault
    | with_reducible refine outWithin ?_
    | with_reducible refine iteOut ?_ ?_
    | with_reducible refine Law.foldl (fun _ _ _ => ?_) ?_
    | with_reducible refine Law.foldlBy Prod.snd (fun _ _ _ => ?_) ?_
    | with_reducible refine Law.foldlBy Prod.fst (fun _ _ _ => ?_) ?_
    | with_reducible refine optAll.getD ?_ ?_
    | ((try lift_lets); (with_reducible intro y); (have hy : Q y := ?_); clear_value y; rotate_left; subst y)
    | ((try lift_lets); (with_reducible intro y); (have hy : Q y.2 := ?_); clear_value y; rotate_left; subst y)
    | ((try lift_lets); (with_reducible intro y); (have hy : Q y.1 := ?_); clear_value y; rotate_left; subst y)
    | ((try lift_lets); (with_reducible intro x); (try clear_value x))
    | split
    | dsimp only
    | with_reducible refine hQ.bonded ?_ ?_

theorem showSlots_law (hQ : Law P Q) (hP : Has P []) {h : Nat} {s : State} (hi0 : P (.one .head h))  (h0 : Q s) :
    Q (showSlots h s) := by
  unfold showSlots
  repeat' first
    | with_reducible assumption
    | ((with_reducible refine boolGoal ?_); exact rfl)
    | ((with_reducible refine hP.one _ ?_); exact rfl)
    | ((with_reducible refine hQ.wrAt hP hi0 ?_ ?_); exact rfl)
    | with_reducible refine hQ.wr hP ?_ ?_

theorem execHauCfg_law (hQ : Law P Q) (hP : Has P [.all .head, .all .view, .grp 0, .grp 64, .procs, .sampled, .seq, .tokens]) {x : XWord} {s : State}   (h0 : Q s) :
    outAll Q (execHauCfg x s) := by
  unfold execHauCfg
  repeat' first
    | with_reducible assumption
    | ((with_reducible refine boolGoal ?_); exact rfl)
    | ((with_reducible refine hP.inst ?_); exact rfl)
    | ((with_reducible refine hP.one _ ?_); exact rfl)
    | ((with_reducible refine blockOp_law hQ (hP.sub rfl) hP ?_ (fun _ _ => ?_) ?_); (simp only [List.all, hauCfgFields]; exact rfl))
    | with_reducible refine showSbrows_law hQ (hP.sub rfl) ?_
    | with_reducible refine showSlots_law hQ (hP.sub rfl) ?_ ?_
    | with_reducible refine Law.ite ?_ ?_
    | with_reducible refine excPair ?_
    | with_reducible refine excState ?_
    | with_reducible exact excError
    | with_reducible refine iteExc ?_ ?_
    | with_reducible refine outOk ?_
    | with_reducible exact outFault
    | with_reducible refine outWithin ?_
    | with_reducible refine iteOut ?_ ?_
    | ((try lift_lets); (with_reducible intro x); (try clear_value x))
    | split

theorem execHauMap_law (hQ : Law P Q) (hP : Has P [.grp 0, .grp 64, .procs, .sampled, .seq, .tokens]) {x : XWord} {s : State} (hi0 : P (.one .strips (xargs s x).i))  (h0 : Q s) :
    outAll Q (execHauMap x s) := by
  unfold execHauMap
  repeat' first
    | with_reducible assumption
    | ((with_reducible refine boolGoal ?_); exact rfl)
    | ((with_reducible refine hP.one _ ?_); exact rfl)
    | with_reducible refine direct_law hQ (hP.sub rfl) (fun _ => ?_) ?_
    | ((with_reducible refine hQ.wr2At hP hi0 ?_ ?_); exact rfl)
    | with_reducible refine hQ.wr2 hP ?_ ?_
    | with_reducible refine Law.ite ?_ ?_
    | with_reducible refine excPair ?_
    | with_reducible refine excState ?_
    | with_reducible exact excError
    | with_reducible refine iteExc ?_ ?_
    | with_reducible refine outOk ?_
    | with_reducible exact outFault
    | with_reducible refine outWithin ?_
    | with_reducible refine iteOut ?_ ?_
    | with_reducible refine Law.foldl (fun _ _ _ => ?_) ?_
    | with_reducible refine Law.foldlBy Prod.snd (fun _ _ _ => ?_) ?_
    | with_reducible refine Law.foldlBy Prod.fst (fun _ _ _ => ?_) ?_
    | ((try lift_lets); (with_reducible intro x); (try clear_value x))
    | split

theorem execHauEballoc_law (hQ : Law P Q) (hP : Has P [.all .bank, .all .head, .grp 0, .grp 64, .heads, .procs, .sampled, .seq, .tokens]) {x : XWord} {s : State}   (h0 : Q s) :
    outAll Q (execHauEballoc x s) := by
  unfold execHauEballoc
  repeat' first
    | with_reducible assumption
    | ((with_reducible refine boolGoal ?_); exact rfl)
    | ((with_reducible refine hP.inst ?_); exact rfl)
    | ((with_reducible refine hP.one _ ?_); exact rfl)
    | with_reducible refine xop_law hQ (hP.sub rfl) (fun _ => ?_) ?_
    | with_reducible refine showSlots_law hQ (hP.sub rfl) ?_ ?_
    | with_reducible refine hQ.wr hP ?_ ?_
    | with_reducible refine setHead_law hQ (hP.sub rfl) ?_
    | with_reducible refine Law.ite ?_ ?_
    | with_reducible refine resFin ?_
    | with_reducible refine resNo ?_
    | with_reducible refine resStart ?_
    | with_reducible refine resForm ?_
    | with_reducible refine resGone ?_
    | with_reducible refine resHold ?_
    | with_reducible refine iteRes ?_ ?_
    | with_reducible refine outOk ?_
    | with_reducible exact outFault
    | with_reducible refine outWithin ?_
    | with_reducible refine iteOut ?_ ?_
    | with_reducible refine Law.foldl (fun _ _ _ => ?_) ?_
    | with_reducible refine Law.foldlBy Prod.snd (fun _ _ _ => ?_) ?_
    | with_reducible refine Law.foldlBy Prod.fst (fun _ _ _ => ?_) ?_
    | ((try lift_lets); (with_reducible intro y); (have hy : Q y := ?_); clear_value y; rotate_left; subst y)
    | ((try lift_lets); (with_reducible intro y); (have hy : Q y.1 := ?_); clear_value y; rotate_left; subst y)
    | ((try lift_lets); (with_reducible intro x); (try clear_value x))
    | split

theorem execHauShare_law (hQ : Law P Q) (hP : Has P [.grp 0, .grp 64, .procs, .sampled, .seq, .tokens]) {x : XWord} {s : State} (hi0 : P (.one .head (xargs s x).i))  (h0 : Q s) :
    outAll Q (execHauShare x s) := by
  unfold execHauShare
  repeat' first
    | with_reducible assumption
    | ((with_reducible refine boolGoal ?_); exact rfl)
    | ((with_reducible refine hP.one _ ?_); exact rfl)
    | with_reducible refine direct_law hQ (hP.sub rfl) (fun _ => ?_) ?_
    | ((with_reducible refine hQ.wrAt hP hi0 ?_ ?_); exact rfl)
    | with_reducible refine hQ.wr hP ?_ ?_
    | with_reducible refine Law.ite ?_ ?_
    | with_reducible refine excPair ?_
    | with_reducible refine excState ?_
    | with_reducible exact excError
    | with_reducible refine iteExc ?_ ?_
    | with_reducible refine outOk ?_
    | with_reducible exact outFault
    | with_reducible refine outWithin ?_
    | with_reducible refine iteOut ?_ ?_
    | ((try lift_lets); (with_reducible intro y); (have hy : Q y := ?_); clear_value y; rotate_left; subst y)
    | ((try lift_lets); (with_reducible intro x); (try clear_value x))
    | split

theorem execHauEslcfg_law (hQ : Law P Q) (hP : Has P [.grp 0, .grp 64, .procs, .sampled, .seq, .tokens]) {x : XWord} {s : State} (hi0 : P (.one .eslHead (xargs s x).i))  (h0 : Q s) :
    outAll Q (execHauEslcfg x s) := by
  unfold execHauEslcfg
  repeat' first
    | with_reducible assumption
    | ((with_reducible refine boolGoal ?_); exact rfl)
    | ((with_reducible refine hP.one _ ?_); exact rfl)
    | ((with_reducible refine blockOpAt_law hQ (hP.sub rfl) hP hi0 ?_ (fun _ _ => ?_) ?_); (simp only [List.all]; exact rfl))
    | ((with_reducible refine blockOp_law hQ (hP.sub rfl) hP ?_ (fun _ _ => ?_) ?_); (simp only [List.all]; exact rfl))
    | with_reducible refine excPair ?_
    | with_reducible refine excState ?_
    | with_reducible exact excError
    | with_reducible refine iteExc ?_ ?_
    | with_reducible refine outOk ?_
    | with_reducible exact outFault
    | with_reducible refine outWithin ?_
    | with_reducible refine iteOut ?_ ?_
    | ((try lift_lets); (with_reducible intro x); (try clear_value x))

theorem hauCntOne_law (hQ : Law P Q) (hP : Has P []) {h : Nat} {s : State} (hi0 : P (.one .eslHead h)) (hi1 : P (.one .head h))  (h0 : Q s) :
    Q (hauCntOne h s) := by
  unfold hauCntOne
  repeat' first
    | with_reducible assumption
    | ((with_reducible refine boolGoal ?_); exact rfl)
    | ((with_reducible refine hP.one _ ?_); exact rfl)
    | ((with_reducible refine hQ.clrAt hP hi0 ?_ ?_); simp only [List.all]; exact rfl)
    | ((with_reducible refine hQ.clrAt hP hi1 ?_ ?_); simp only [List.all]; exact rfl)
    | ((with_reducible refine hQ.clr2 hP hi0 hi1 ?_ ?_); simp only [List.all]; exact rfl)
    | ((with_reducible refine hQ.clr hP ?_ ?_); simp only [List.all]; exact rfl)
    | ((with_reducible refine hQ.wrAt hP hi0 ?_ ?_); exact rfl)
    | ((with_reducible refine hQ.wrAt hP hi1 ?_ ?_); exact rfl)
    | with_reducible refine hQ.wr hP ?_ ?_
    | ((try lift_lets); (with_reducible intro y); (have hy : Q y := ?_); clear_value y; rotate_left; subst y)
    | ((try lift_lets); (with_reducible intro x); (try clear_value x))

end Sys2Proof.Machine
end

