-- ==== Sys2Proof/Laws/RowCore.lean ====
section
/-!
SUPPORT. What each function of Machine/RowCore.lean can change: every law of the parts it names survives it.
-/
namespace Sys2Proof.Machine

variable {P : Part → Prop} {Q : State → Prop}

theorem setParams_law (hQ : Law P Q) (hP : Has P [.rpa]) {l : Nat} {h : Nat} {first : Nat} {ws : List Word} {s : State}   (h0 : Q s) :
    Q (setParams l h first ws s) := by
  unfold setParams
  repeat' first
    | with_reducible assumption
    | ((with_reducible refine boolGoal ?_); exact rfl)
    | ((with_reducible refine hP.one _ ?_); exact rfl)
    | with_reducible refine Law.foldl (fun _ _ _ => ?_) ?_
    | with_reducible refine Law.foldlBy Prod.snd (fun _ _ _ => ?_) ?_
    | with_reducible refine Law.foldlBy Prod.fst (fun _ _ _ => ?_) ?_
    | ((try lift_lets); (with_reducible intro y); (have hy : Q y := ?_); clear_value y; rotate_left; subst y)
    | ((try lift_lets); (with_reducible intro y); (have hy : Q y.2 := ?_); clear_value y; rotate_left; subst y)
    | ((try lift_lets); (with_reducible intro y); (have hy : Q y.1 := ?_); clear_value y; rotate_left; subst y)
    | ((try lift_lets); (with_reducible intro x); (try clear_value x))
    | dsimp only
    | with_reducible refine hQ.rpa ?_ ?_

theorem writeCopies_law (hQ : Law P Q) (hP : Has P [.mem]) {u : Nat} {cs : List (Nat × List Byte)} {s : State}   (h0 : Q s) :
    Q (writeCopies u cs s) := by
  unfold writeCopies
  repeat' first
    | with_reducible assumption
    | ((with_reducible refine boolGoal ?_); exact rfl)
    | ((with_reducible refine hP.one _ ?_); exact rfl)
    | with_reducible refine hQ.setBytes ?_ ?_
    | with_reducible refine Law.foldl (fun _ _ _ => ?_) ?_
    | with_reducible refine Law.foldlBy Prod.snd (fun _ _ _ => ?_) ?_
    | with_reducible refine Law.foldlBy Prod.fst (fun _ _ _ => ?_) ?_
    | ((try lift_lets); (with_reducible intro x); (try clear_value x))
    | dsimp only

theorem landCopies_law (hQ : Law P Q) (hP : Has P [.mem]) {l : Nat} {s : State}   (h0 : Q s) :
    Q (landCopies l s) := by
  unfold landCopies
  repeat' first
    | with_reducible assumption
    | ((with_reducible refine boolGoal ?_); exact rfl)
    | ((with_reducible refine hP.one _ ?_); exact rfl)
    | with_reducible refine writeCopies_law hQ (hP.sub rfl) ?_
    | with_reducible refine Law.ite ?_ ?_
    | split

theorem copyIn_law (hQ : Law P Q) (hP : Has P [.mem, .rpa]) {l : Nat} {h : Nat} {src : Nat} {off : Nat} {n : Nat} {s : State}   (h0 : Q s) :
    Q (copyIn l h src off n s) := by
  unfold copyIn
  repeat' first
    | with_reducible assumption
    | ((with_reducible refine boolGoal ?_); exact rfl)
    | ((with_reducible refine hP.one _ ?_); exact rfl)
    | with_reducible refine landCopies_law hQ (hP.sub rfl) ?_
    | ((try lift_lets); (with_reducible intro y); (have hy : Q y := ?_); clear_value y; rotate_left; subst y)
    | ((try lift_lets); (with_reducible intro y); (have hy : Q y.1 := ?_); clear_value y; rotate_left; subst y)
    | ((try lift_lets); (with_reducible intro x); (try clear_value x))
    | split
    | dsimp only
    | with_reducible refine hQ.rpa ?_ ?_

theorem rpaEff_law (hQ : Law P Q) (hP : Has P [.mem, .rpa]) {e : Held} {s : State}   (h0 : Q s) :
    Q (rpaEff e s) := by
  unfold rpaEff
  repeat' first
    | with_reducible assumption
    | ((with_reducible refine boolGoal ?_); exact rfl)
    | ((with_reducible refine hP.one _ ?_); exact rfl)
    | with_reducible refine setParams_law hQ (hP.sub rfl) ?_
    | with_reducible refine copyIn_law hQ (hP.sub rfl) ?_
    | with_reducible refine optAll.getD ?_ ?_
    | ((try lift_lets); (with_reducible intro y); (have hy : Q y := ?_); clear_value y; rotate_left; subst y)
    | ((try lift_lets); (with_reducible intro y); (have hy : Q y.1 := ?_); clear_value y; rotate_left; subst y)
    | ((try lift_lets); (with_reducible intro x); (try clear_value x))
    | split
    | dsimp only

theorem freeSlots_law (hQ : Law P Q) (hP : Has P [.heads, .power]) {h : Nat} {s : State} (hi0 : P (.one .head h))  (h0 : Q s) :
    Q (freeSlots h s) := by
  unfold freeSlots
  repeat' first
    | with_reducible assumption
    | ((with_reducible refine boolGoal ?_); exact rfl)
    | ((with_reducible refine hP.one _ ?_); exact rfl)
    | with_reducible refine showFill_law hQ (hP.sub rfl) ?_ ?_
    | with_reducible refine setHead_law hQ (hP.sub rfl) ?_
    | ((try lift_lets); (with_reducible intro y); (have hy : Q y := ?_); clear_value y; rotate_left; subst y)
    | ((try lift_lets); (with_reducible intro y); (have hy : Q y.1 := ?_); clear_value y; rotate_left; subst y)
    | ((try lift_lets); (with_reducible intro x); (try clear_value x))

theorem closeStrip_law (hQ : Law P Q) (hP : Has P [.heads, .power]) {h : Nat} {lseq : Nat} {k : Nat} {s : State} (hi0 : P (.one .head h))  (h0 : Q s) :
    Q (closeStrip h lseq k s) := by
  unfold closeStrip
  repeat' first
    | with_reducible assumption
    | ((with_reducible refine boolGoal ?_); exact rfl)
    | ((with_reducible refine hP.one _ ?_); exact rfl)
    | with_reducible refine freeSlots_law hQ (hP.sub rfl) ?_ ?_
    | with_reducible refine setHead_law hQ (hP.sub rfl) ?_
    | with_reducible refine Law.ite ?_ ?_
    | with_reducible refine optAll.map (fun _ => ?_)
    | ((try lift_lets); (with_reducible intro y); (have hy : Q y := ?_); clear_value y; rotate_left; subst y)
    | ((try lift_lets); (with_reducible intro y); (have hy : Q y.1 := ?_); clear_value y; rotate_left; subst y)
    | ((try lift_lets); (with_reducible intro x); (try clear_value x))
    | split

theorem applyLines_law (hQ : Law P Q) (hP : Has P [.mem, .poison]) {a : Area} {l : Nat} {lines : List (Nat × List Byte)} {s : State}   (h0 : Q s) :
    Q (applyLines a l lines s) := by
  unfold applyLines
  repeat' first
    | with_reducible assumption
    | ((with_reducible refine boolGoal ?_); exact rfl)
    | ((with_reducible refine hP.one _ ?_); exact rfl)
    | with_reducible refine fill_law hQ (hP.sub rfl) ?_
    | with_reducible refine Law.foldl (fun _ _ _ => ?_) ?_
    | with_reducible refine Law.foldlBy Prod.snd (fun _ _ _ => ?_) ?_
    | with_reducible refine Law.foldlBy Prod.fst (fun _ _ _ => ?_) ?_
    | ((try lift_lets); (with_reducible intro y); (have hy : Q y := ?_); clear_value y; rotate_left; subst y)
    | ((try lift_lets); (with_reducible intro y); (have hy : Q y.2 := ?_); clear_value y; rotate_left; subst y)
    | ((try lift_lets); (with_reducible intro y); (have hy : Q y.1 := ?_); clear_value y; rotate_left; subst y)
    | ((try lift_lets); (with_reducible intro x); (try clear_value x))
    | split
    | dsimp only

theorem applyJournals_law (hQ : Law P Q) (hP : Has P [.mem, .poison, .rpa]) {l : Nat} {x0 : List Journal}   {s : State} (h0 : Q s) :
    Q (applyJournals l x0 s) := by
  induction x0 generalizing l s with
  | nil =>
    unfold applyJournals
    repeat' first
      | with_reducible assumption
      | ((with_reducible refine boolGoal ?_); exact rfl)
      | ((with_reducible refine hP.one _ ?_); exact rfl)
      | with_reducible refine applyLines_law hQ (hP.sub rfl) ?_
      | with_reducible refine Law.ite ?_ ?_
      | ((try lift_lets); (with_reducible intro y); (have hy : Q y := ?_); clear_value y; rotate_left; subst y)
      | ((try lift_lets); (with_reducible intro y); (have hy : Q y.1 := ?_); clear_value y; rotate_left; subst y)
      | ((try lift_lets); (with_reducible intro x); (try clear_value x))
      | split
      | with_reducible refine hQ.rpa ?_ ?_
  | cons x xs ih =>
    unfold applyJournals
    repeat' first
      | with_reducible assumption
      | with_reducible apply ih
      | ((with_reducible refine boolGoal ?_); exact rfl)
      | ((with_reducible refine hP.one _ ?_); exact rfl)
      | with_reducible refine applyLines_law hQ (hP.sub rfl) ?_
      | with_reducible refine Law.ite ?_ ?_
      | ((try lift_lets); (with_reducible intro y); (have hy : Q y := ?_); clear_value y; rotate_left; subst y)
      | ((try lift_lets); (with_reducible intro y); (have hy : Q y.1 := ?_); clear_value y; rotate_left; subst y)
      | ((try lift_lets); (with_reducible intro x); (try clear_value x))
      | split
      | with_reducible refine hQ.rpa ?_ ?_

theorem settle_law (hQ : Law P Q) (hP : Has P [.rpa]) {s : State} {head : Nat} {lseq : Nat} {strip : Nat}   (h0 : Q s) :
    Q (settle s head lseq strip) := by
  unfold settle
  repeat' first
    | with_reducible assumption
    | ((with_reducible refine boolGoal ?_); exact rfl)
    | ((with_reducible refine hP.one _ ?_); exact rfl)
    | with_reducible refine Law.ite ?_ ?_
    | with_reducible refine optAll.map (fun _ => ?_)
    | ((try lift_lets); (with_reducible intro y); (have hy : Q y := ?_); clear_value y; rotate_left; subst y)
    | ((try lift_lets); (with_reducible intro y); (have hy : Q y.1 := ?_); clear_value y; rotate_left; subst y)
    | ((try lift_lets); (with_reducible intro x); (try clear_value x))
    | split
    | with_reducible refine hQ.rpa ?_ ?_

theorem settleStrip_law (hQ : Law P Q) (hP : Has P [.mem, .poison, .rpa]) {l : Nat} {t : Tag} {s : State}   (h0 : Q s) :
    Q (settleStrip l t s) := by
  unfold settleStrip
  repeat' first
    | with_reducible assumption
    | ((with_reducible refine boolGoal ?_); exact rfl)
    | ((with_reducible refine hP.one _ ?_); exact rfl)
    | with_reducible refine settle_law hQ (hP.sub rfl) ?_
    | with_reducible refine applyJournals_law hQ (hP.sub rfl) ?_
    | ((try lift_lets); (with_reducible intro y); (have hy : Q y := ?_); clear_value y; rotate_left; subst y)
    | ((try lift_lets); (with_reducible intro y); (have hy : Q y.1 := ?_); clear_value y; rotate_left; subst y)
    | ((try lift_lets); (with_reducible intro x); (try clear_value x))

theorem markGapAfter_law (hQ : Law P Q) (hP : Has P [.rpa]) {t : Tag} {s : State}   (h0 : Q s) :
    Q (markGapAfter t s) := by
  unfold markGapAfter
  repeat' first
    | with_reducible assumption
    | ((with_reducible refine boolGoal ?_); exact rfl)
    | ((with_reducible refine hP.one _ ?_); exact rfl)
    | with_reducible refine Law.ite ?_ ?_
    | with_reducible refine Law.foldl (fun _ _ _ => ?_) ?_
    | with_reducible refine Law.foldlBy Prod.snd (fun _ _ _ => ?_) ?_
    | with_reducible refine Law.foldlBy Prod.fst (fun _ _ _ => ?_) ?_
    | ((try lift_lets); (with_reducible intro y); (have hy : Q y := ?_); clear_value y; rotate_left; subst y)
    | ((try lift_lets); (with_reducible intro y); (have hy : Q y.1 := ?_); clear_value y; rotate_left; subst y)
    | ((try lift_lets); (with_reducible intro x); (try clear_value x))
    | split
    | with_reducible refine hQ.rpa ?_ ?_

theorem gapBefore_law (hQ : Law P Q) (hP : Has P [.rpa]) {t : Tag} {s : State}   (h0 : Q s) :
    Q (gapBefore t s).2 := by
  unfold gapBefore
  repeat' first
    | with_reducible assumption
    | ((with_reducible refine boolGoal ?_); exact rfl)
    | ((with_reducible refine hP.one _ ?_); exact rfl)
    | ((try lift_lets); (with_reducible intro y); (have hy : Q y := ?_); clear_value y; rotate_left; subst y)
    | ((try lift_lets); (with_reducible intro y); (have hy : Q y.1 := ?_); clear_value y; rotate_left; subst y)
    | ((try lift_lets); (with_reducible intro x); (try clear_value x))
    | with_reducible refine hQ.rpa ?_ ?_

theorem divertAtRpa_law (hQ : Law P Q) (hP : Has P [.grp 9, .grp 64, .gaps, .heads, .held, .mem, .poison, .power, .progress, .rpa, .sump]) {l : Nat} {skind : Nat} {t : Tag} {s : State} (hi0 : P (.one .head t.head))  (h0 : Q s) :
    Q (divertAtRpa l skind t s) := by
  unfold divertAtRpa
  repeat' first
    | with_reducible assumption
    | ((with_reducible refine boolGoal ?_); exact rfl)
    | ((with_reducible refine hP.one _ ?_); exact rfl)
    | with_reducible refine note_law hQ (hP.sub rfl) ?_
    | with_reducible refine stageDivert_law hQ (hP.sub rfl) (fun _ _ _ => ?_) ?_
    | with_reducible refine rpaEff_law hQ (hP.sub rfl) ?_
    | with_reducible refine settleStrip_law hQ (hP.sub rfl) ?_
    | with_reducible refine closeStrip_law hQ (hP.sub rfl) ?_ ?_
    | with_reducible refine markGapAfter_law hQ (hP.sub rfl) ?_
    | with_reducible refine evt_law hQ (hP.sub rfl) ?_
    | ((try lift_lets); (with_reducible intro y); (have hy : Q y := ?_); clear_value y; rotate_left; subst y)
    | ((try lift_lets); (with_reducible intro y); (have hy : Q y.1 := ?_); clear_value y; rotate_left; subst y)
    | ((try lift_lets); (with_reducible intro x); (try clear_value x))
    | with_reducible refine hQ.gaps ?_ ?_

theorem haltLrp_law (hQ : Law P Q) (hP : Has P [.grp 64, .rpa, .tokens]) {l : Nat} {c : Nat} {iaddr : Nat} {area : Nat} {t : Tag} {s : State} (hi0 : P (.one .lrp l))  (h0 : Q s) :
    Q (haltLrp l c iaddr area t s) := by
  unfold haltLrp
  repeat' first
    | with_reducible assumption
    | ((with_reducible refine boolGoal ?_); exact rfl)
    | ((with_reducible refine hP.one _ ?_); exact rfl)
    | ((with_reducible refine hQ.wrAllAt hP hi0 ?_ ?_); simp only [List.all]; exact rfl)
    | ((with_reducible refine hQ.wrAll hP ?_ ?_); simp only [List.all]; exact rfl)
    | ((with_reducible refine hQ.satAt hP hi0 ?_ ?_); exact rfl)
    | with_reducible refine hQ.sat hP ?_ ?_
    | with_reducible refine emit_law hQ (hP.sub rfl) ?_
    | with_reducible refine evt_law hQ (hP.sub rfl) ?_
    | ((try lift_lets); (with_reducible intro y); (have hy : Q y := ?_); clear_value y; rotate_left; subst y)
    | ((try lift_lets); (with_reducible intro y); (have hy : Q y.1 := ?_); clear_value y; rotate_left; subst y)
    | ((try lift_lets); (with_reducible intro x); (try clear_value x))
    | with_reducible refine hQ.rpa ?_ ?_

theorem unhalt_law (hQ : Law P Q) (hP : Has P [.rpa]) {l : Nat} {s : State} (hi0 : P (.one .lrp l))  (h0 : Q s) :
    Q (unhalt l s) := by
  unfold unhalt
  repeat' first
    | with_reducible assumption
    | ((with_reducible refine boolGoal ?_); exact rfl)
    | ((with_reducible refine hP.one _ ?_); exact rfl)
    | ((with_reducible refine hQ.wrAt hP hi0 ?_ ?_); exact rfl)
    | with_reducible refine hQ.wr hP ?_ ?_
    | ((try lift_lets); (with_reducible intro y); (have hy : Q y := ?_); clear_value y; rotate_left; subst y)
    | ((try lift_lets); (with_reducible intro x); (try clear_value x))
    | with_reducible refine hQ.rpa ?_ ?_

theorem liftHalts_law (hQ : Law P Q) (hP : Has P [.all .lrp, .rpa]) {s : State}   (h0 : Q s) :
    Q (liftHalts s) := by
  unfold liftHalts
  repeat' first
    | with_reducible assumption
    | ((with_reducible refine boolGoal ?_); exact rfl)
    | ((with_reducible refine hP.inst ?_); exact rfl)
    | ((with_reducible refine hP.one _ ?_); exact rfl)
    | with_reducible refine unhalt_law hQ (hP.sub rfl) ?_ ?_
    | with_reducible refine Law.ite ?_ ?_
    | with_reducible refine Law.foldl (fun _ _ _ => ?_) ?_
    | with_reducible refine Law.foldlBy Prod.snd (fun _ _ _ => ?_) ?_
    | with_reducible refine Law.foldlBy Prod.fst (fun _ _ _ => ?_) ?_
    | with_reducible refine optAll.getD ?_ ?_
    | ((try lift_lets); (with_reducible intro x); (try clear_value x))
    | split
    | dsimp only

theorem dropRun_law (hQ : Law P Q) (hP : Has P [.grp 9, .grp 64, .gaps, .heads, .held, .mem, .poison, .power, .procs, .progress, .rpa, .sump]) {u : Nat} {r : Run} {s : State} (hi0 : P (.one .head r.tag.head))  (h0 : Q s) :
    Q (dropRun u r s) := by
  unfold dropRun
  repeat' first
    | with_reducible assumption
    | ((with_reducible refine boolGoal ?_); exact rfl)
    | ((with_reducible refine hP.one _ ?_); exact rfl)
    | with_reducible refine setProg_law hQ (hP.sub rfl) ?_
    | with_reducible refine landCopies_law hQ (hP.sub rfl) ?_
    | with_reducible refine divertAtRpa_law hQ (hP.sub rfl) ?_ ?_
    | with_reducible refine setProc_law hQ (hP.sub rfl) ?_
    | ((try lift_lets); (with_reducible intro y); (have hy : Q y := ?_); clear_value y; rotate_left; subst y)
    | ((try lift_lets); (with_reducible intro y); (have hy : Q y.1 := ?_); clear_value y; rotate_left; subst y)
    | ((try lift_lets); (with_reducible intro x); (try clear_value x))
    | with_reducible refine hQ.rpa ?_ ?_

theorem rpFault_law (hQ : Law P Q) (hP : Has P [.all .head, .all .lrp, .grp 9, .grp 64, .gaps, .heads, .held, .mem, .poison, .power, .procs, .progress, .rpa, .sump, .tokens]) {u : Nat} {c : Nat} {s : State}   (h0 : Q s) :
    Q (rpFault u c s) := by
  unfold rpFault
  repeat' first
    | with_reducible assumption
    | ((with_reducible refine boolGoal ?_); exact rfl)
    | ((with_reducible refine hP.inst ?_); exact rfl)
    | ((with_reducible refine hP.one _ ?_); exact rfl)
    | with_reducible refine haltLrp_law hQ (hP.sub rfl) ?_ ?_
    | with_reducible refine setProc_law hQ (hP.sub rfl) ?_
    | with_reducible refine dropRun_law hQ (hP.sub rfl) ?_ ?_
    | with_reducible refine Law.ite ?_ ?_
    | ((try lift_lets); (with_reducible intro y); (have hy : Q y := ?_); clear_value y; rotate_left; subst y)
    | ((try lift_lets); (with_reducible intro y); (have hy : Q y.1 := ?_); clear_value y; rotate_left; subst y)
    | ((try lift_lets); (with_reducible intro x); (try clear_value x))
    | split
    | dsimp only

end Sys2Proof.Machine
end

