-- ==== Sys2Proof/Laws/Instr.lean ====
section
/-!
SUPPORT. What each function of Machine/Instr.lean can change: every law of the parts it names survives it.
-/
namespace Sys2Proof.Machine

variable {P : Part → Prop} {Q : State → Prop}

theorem procFault_law (hQ : Law P Q) (hP : Has P [.all .head, .all .lrp, .grp 0, .grp 9, .grp 64, .gaps, .heads, .held, .mem, .poison, .power, .procs, .progress, .rpa, .seq, .sump, .tokens]) {u : Nat} {c : Nat} {s : State}   (h0 : Q s) :
    Q (procFault u c s) := by
  unfold procFault
  repeat' first
    | with_reducible assumption
    | ((with_reducible refine boolGoal ?_); exact rfl)
    | ((with_reducible refine hP.inst ?_); exact rfl)
    | ((with_reducible refine hP.one _ ?_); exact rfl)
    | with_reducible refine rpFault_law hQ (hP.sub rfl) ?_
    | with_reducible refine seqFault_law hQ (hP.sub rfl) ?_
    | with_reducible refine Law.ite ?_ ?_
    | split

theorem countSlots_law (hQ : Law P Q) (hP : Has P [.grp 64]) {u : Nat} {f : Form} {n : Nat} {s : State}   (h0 : Q s) :
    Q (countSlots u f n s) := by
  unfold countSlots
  repeat' first
    | with_reducible assumption
    | ((with_reducible refine boolGoal ?_); exact rfl)
    | ((with_reducible refine hP.one _ ?_); exact rfl)
    | with_reducible refine evt_law hQ (hP.sub rfl) ?_
    | with_reducible refine Law.ite ?_ ?_
    | split

theorem instr_law (hQ : Law P Q) (hP : Has P [.all .head, .all .lrp, .grp 0, .grp 9, .grp 64, .gaps, .heads, .held, .mem, .poison, .power, .procs, .progress, .rpa, .sampled, .seq, .sump, .tokens]) {u : Nat} {w : IWord} {f : Form}
    {body : Nat → Proc → State → Except Nat (State × Nat)} {s : State}
    (hb : ∀ c p s, Q s → excAll (fun r : State × Nat => Q r.1) (body c p s)) (h : Q s) : outAll Q (instr u w f body s) := by
  unfold instr
  refine outWithin ?_
  split
  · exact h
  dsimp only
  split
  · exact procFault_law hQ (hP.sub rfl) h
  split
  · exact procFault_law hQ (hP.sub rfl) h
  split
  · exact countSlots_law hQ (hP.sub rfl) (retire_law hQ (hP.sub rfl) h)
  have hc := hb (core u) (s.proc (core u)) s h
  split
  · exact procFault_law hQ (hP.sub rfl) h
  · next heq => rw [heq] at hc; exact countSlots_law hQ (hP.sub rfl) (retire_law hQ (hP.sub rfl) hc)

theorem plain_law (hQ : Law P Q) (hP : Has P [.procs]) {f : Proc → Proc} {c : Nat} {p : Proc} {s : State}   (h0 : Q s) :
    excAll (fun r => Q r.1) (plain f c p s) := by
  unfold plain
  repeat' first
    | with_reducible assumption
    | ((with_reducible refine boolGoal ?_); exact rfl)
    | ((with_reducible refine hP.one _ ?_); exact rfl)
    | with_reducible refine setProc_law hQ (hP.sub rfl) ?_
    | with_reducible refine excPair ?_
    | with_reducible refine excState ?_
    | with_reducible exact excError
    | with_reducible refine iteExc ?_ ?_

theorem jump_law (hQ : Law P Q) (hP : Has P [.seq]) {c : Nat} {s : State} {target : Int}   (h0 : Q s) :
    excAll (fun r => Q r.1) (jump c s target) := by
  unfold jump
  repeat' first
    | with_reducible assumption
    | ((with_reducible refine boolGoal ?_); exact rfl)
    | ((with_reducible refine hP.one _ ?_); exact rfl)
    | with_reducible refine Law.ite ?_ ?_
    | with_reducible refine excPair ?_
    | with_reducible refine excState ?_
    | with_reducible exact excError
    | with_reducible refine iteExc ?_ ?_
    | ((try lift_lets); (with_reducible intro y); (have hy : Q y := ?_); clear_value y; rotate_left; subst y)
    | ((try lift_lets); (with_reducible intro y); (have hy : Q y.1 := ?_); clear_value y; rotate_left; subst y)
    | ((try lift_lets); (with_reducible intro x); (try clear_value x))
    | split
    | with_reducible refine hQ.seq ?_ ?_

theorem execPfx_law (hQ : Law P Q) (hP : Has P [.all .head, .all .lrp, .grp 0, .grp 9, .grp 64, .gaps, .heads, .held, .mem, .poison, .power, .procs, .progress, .rpa, .seq, .sump, .tokens]) {u : Nat} {w : IWord} {s : State}   (h0 : Q s) :
    outAll Q (execPfx u w s) := by
  unfold execPfx
  repeat' first
    | with_reducible assumption
    | ((with_reducible refine boolGoal ?_); exact rfl)
    | ((with_reducible refine hP.inst ?_); exact rfl)
    | ((with_reducible refine hP.one _ ?_); exact rfl)
    | with_reducible refine procFault_law hQ (hP.sub rfl) ?_
    | with_reducible refine setProc_law hQ (hP.sub rfl) ?_
    | with_reducible refine Law.ite ?_ ?_
    | with_reducible refine outOk ?_
    | with_reducible exact outFault
    | with_reducible refine outWithin ?_
    | with_reducible refine iteOut ?_ ?_
    | ((try lift_lets); (with_reducible intro y); (have hy : Q y := ?_); clear_value y; rotate_left; subst y)
    | ((try lift_lets); (with_reducible intro y); (have hy : Q y.1 := ?_); clear_value y; rotate_left; subst y)
    | ((try lift_lets); (with_reducible intro x); (try clear_value x))
    | split

end Sys2Proof.Machine
end

