-- ==== Sys2Proof/Laws/Scalar.lean ====
section
/-!
SUPPORT. What each function of Machine/Scalar.lean can change: every law of the parts it names survives it.
-/
namespace Sys2Proof.Machine

variable {P : Part → Prop} {Q : State → Prop}

theorem arith_law (hQ : Law P Q) (hP : Has P [.all .head, .all .lrp, .grp 0, .grp 9, .grp 64, .gaps, .heads, .held, .mem, .poison, .power, .procs, .progress, .rpa, .sampled, .seq, .sump, .tokens]) {mask : Nat} {f : IWord → BitVec 32 → BitVec 32 → BitVec 32} {u : Nat} {w : IWord} {s : State}   (h0 : Q s) :
    outAll Q (arith mask f u w s) := by
  unfold arith
  repeat' first
    | with_reducible assumption
    | ((with_reducible refine boolGoal ?_); exact rfl)
    | ((with_reducible refine hP.inst ?_); exact rfl)
    | ((with_reducible refine hP.one _ ?_); exact rfl)
    | with_reducible refine instr_law hQ (hP.sub rfl) (fun _ _ _ _ => ?_) ?_
    | with_reducible refine plain_law hQ (hP.sub rfl) ?_
    | with_reducible refine excGet (by with_reducible assumption) ?_
    | with_reducible refine excPair ?_
    | with_reducible refine excState ?_
    | with_reducible exact excError
    | with_reducible refine iteExc ?_ ?_
    | with_reducible refine outOk ?_
    | with_reducible exact outFault
    | with_reducible refine outWithin ?_
    | with_reducible refine iteOut ?_ ?_
    | ((try lift_lets); (with_reducible intro x); (try clear_value x))

theorem execAdd_law (hQ : Law P Q) (hP : Has P [.all .head, .all .lrp, .grp 0, .grp 9, .grp 64, .gaps, .heads, .held, .mem, .poison, .power, .procs, .progress, .rpa, .sampled, .seq, .sump, .tokens]) {u : Nat} {w : IWord} {s : State}   (h0 : Q s) :
    outAll Q (execAdd u w s) := by
  unfold execAdd
  repeat' first
    | with_reducible assumption
    | ((with_reducible refine boolGoal ?_); exact rfl)
    | ((with_reducible refine hP.inst ?_); exact rfl)
    | ((with_reducible refine hP.one _ ?_); exact rfl)
    | with_reducible refine arith_law hQ (hP.sub rfl) ?_
    | with_reducible refine outOk ?_
    | with_reducible exact outFault
    | with_reducible refine outWithin ?_
    | with_reducible refine iteOut ?_ ?_
    | ((try lift_lets); (with_reducible intro x); (try clear_value x))

theorem execSub_law (hQ : Law P Q) (hP : Has P [.all .head, .all .lrp, .grp 0, .grp 9, .grp 64, .gaps, .heads, .held, .mem, .poison, .power, .procs, .progress, .rpa, .sampled, .seq, .sump, .tokens]) {u : Nat} {w : IWord} {s : State}   (h0 : Q s) :
    outAll Q (execSub u w s) := by
  unfold execSub
  repeat' first
    | with_reducible assumption
    | ((with_reducible refine boolGoal ?_); exact rfl)
    | ((with_reducible refine hP.inst ?_); exact rfl)
    | ((with_reducible refine hP.one _ ?_); exact rfl)
    | with_reducible refine arith_law hQ (hP.sub rfl) ?_
    | with_reducible refine outOk ?_
    | with_reducible exact outFault
    | with_reducible refine outWithin ?_
    | with_reducible refine iteOut ?_ ?_
    | ((try lift_lets); (with_reducible intro x); (try clear_value x))

theorem execAnd_law (hQ : Law P Q) (hP : Has P [.all .head, .all .lrp, .grp 0, .grp 9, .grp 64, .gaps, .heads, .held, .mem, .poison, .power, .procs, .progress, .rpa, .sampled, .seq, .sump, .tokens]) {u : Nat} {w : IWord} {s : State}   (h0 : Q s) :
    outAll Q (execAnd u w s) := by
  unfold execAnd
  repeat' first
    | with_reducible assumption
    | ((with_reducible refine boolGoal ?_); exact rfl)
    | ((with_reducible refine hP.inst ?_); exact rfl)
    | ((with_reducible refine hP.one _ ?_); exact rfl)
    | with_reducible refine arith_law hQ (hP.sub rfl) ?_
    | with_reducible refine outOk ?_
    | with_reducible exact outFault
    | with_reducible refine outWithin ?_
    | with_reducible refine iteOut ?_ ?_
    | ((try lift_lets); (with_reducible intro x); (try clear_value x))

theorem execOr_law (hQ : Law P Q) (hP : Has P [.all .head, .all .lrp, .grp 0, .grp 9, .grp 64, .gaps, .heads, .held, .mem, .poison, .power, .procs, .progress, .rpa, .sampled, .seq, .sump, .tokens]) {u : Nat} {w : IWord} {s : State}   (h0 : Q s) :
    outAll Q (execOr u w s) := by
  unfold execOr
  repeat' first
    | with_reducible assumption
    | ((with_reducible refine boolGoal ?_); exact rfl)
    | ((with_reducible refine hP.inst ?_); exact rfl)
    | ((with_reducible refine hP.one _ ?_); exact rfl)
    | with_reducible refine arith_law hQ (hP.sub rfl) ?_
    | with_reducible refine outOk ?_
    | with_reducible exact outFault
    | with_reducible refine outWithin ?_
    | with_reducible refine iteOut ?_ ?_
    | ((try lift_lets); (with_reducible intro x); (try clear_value x))

theorem execXor_law (hQ : Law P Q) (hP : Has P [.all .head, .all .lrp, .grp 0, .grp 9, .grp 64, .gaps, .heads, .held, .mem, .poison, .power, .procs, .progress, .rpa, .sampled, .seq, .sump, .tokens]) {u : Nat} {w : IWord} {s : State}   (h0 : Q s) :
    outAll Q (execXor u w s) := by
  unfold execXor
  repeat' first
    | with_reducible assumption
    | ((with_reducible refine boolGoal ?_); exact rfl)
    | ((with_reducible refine hP.inst ?_); exact rfl)
    | ((with_reducible refine hP.one _ ?_); exact rfl)
    | with_reducible refine arith_law hQ (hP.sub rfl) ?_
    | with_reducible refine outOk ?_
    | with_reducible exact outFault
    | with_reducible refine outWithin ?_
    | with_reducible refine iteOut ?_ ?_
    | ((try lift_lets); (with_reducible intro x); (try clear_value x))

theorem execShl_law (hQ : Law P Q) (hP : Has P [.all .head, .all .lrp, .grp 0, .grp 9, .grp 64, .gaps, .heads, .held, .mem, .poison, .power, .procs, .progress, .rpa, .sampled, .seq, .sump, .tokens]) {u : Nat} {w : IWord} {s : State}   (h0 : Q s) :
    outAll Q (execShl u w s) := by
  unfold execShl
  repeat' first
    | with_reducible assumption
    | ((with_reducible refine boolGoal ?_); exact rfl)
    | ((with_reducible refine hP.inst ?_); exact rfl)
    | ((with_reducible refine hP.one _ ?_); exact rfl)
    | with_reducible refine arith_law hQ (hP.sub rfl) ?_
    | with_reducible refine outOk ?_
    | with_reducible exact outFault
    | with_reducible refine outWithin ?_
    | with_reducible refine iteOut ?_ ?_
    | ((try lift_lets); (with_reducible intro x); (try clear_value x))

theorem execShr_law (hQ : Law P Q) (hP : Has P [.all .head, .all .lrp, .grp 0, .grp 9, .grp 64, .gaps, .heads, .held, .mem, .poison, .power, .procs, .progress, .rpa, .sampled, .seq, .sump, .tokens]) {u : Nat} {w : IWord} {s : State}   (h0 : Q s) :
    outAll Q (execShr u w s) := by
  unfold execShr
  repeat' first
    | with_reducible assumption
    | ((with_reducible refine boolGoal ?_); exact rfl)
    | ((with_reducible refine hP.inst ?_); exact rfl)
    | ((with_reducible refine hP.one _ ?_); exact rfl)
    | with_reducible refine arith_law hQ (hP.sub rfl) ?_
    | with_reducible refine outOk ?_
    | with_reducible exact outFault
    | with_reducible refine outWithin ?_
    | with_reducible refine iteOut ?_ ?_
    | ((try lift_lets); (with_reducible intro x); (try clear_value x))

theorem execSra_law (hQ : Law P Q) (hP : Has P [.all .head, .all .lrp, .grp 0, .grp 9, .grp 64, .gaps, .heads, .held, .mem, .poison, .power, .procs, .progress, .rpa, .sampled, .seq, .sump, .tokens]) {u : Nat} {w : IWord} {s : State}   (h0 : Q s) :
    outAll Q (execSra u w s) := by
  unfold execSra
  repeat' first
    | with_reducible assumption
    | ((with_reducible refine boolGoal ?_); exact rfl)
    | ((with_reducible refine hP.inst ?_); exact rfl)
    | ((with_reducible refine hP.one _ ?_); exact rfl)
    | with_reducible refine arith_law hQ (hP.sub rfl) ?_
    | with_reducible refine outOk ?_
    | with_reducible exact outFault
    | with_reducible refine outWithin ?_
    | with_reducible refine iteOut ?_ ?_
    | ((try lift_lets); (with_reducible intro x); (try clear_value x))

theorem execMul_law (hQ : Law P Q) (hP : Has P [.all .head, .all .lrp, .grp 0, .grp 9, .grp 64, .gaps, .heads, .held, .mem, .poison, .power, .procs, .progress, .rpa, .sampled, .seq, .sump, .tokens]) {u : Nat} {w : IWord} {s : State}   (h0 : Q s) :
    outAll Q (execMul u w s) := by
  unfold execMul
  repeat' first
    | with_reducible assumption
    | ((with_reducible refine boolGoal ?_); exact rfl)
    | ((with_reducible refine hP.inst ?_); exact rfl)
    | ((with_reducible refine hP.one _ ?_); exact rfl)
    | with_reducible refine arith_law hQ (hP.sub rfl) ?_
    | with_reducible refine outOk ?_
    | with_reducible exact outFault
    | with_reducible refine outWithin ?_
    | with_reducible refine iteOut ?_ ?_
    | ((try lift_lets); (with_reducible intro x); (try clear_value x))

theorem execMulh_law (hQ : Law P Q) (hP : Has P [.all .head, .all .lrp, .grp 0, .grp 9, .grp 64, .gaps, .heads, .held, .mem, .poison, .power, .procs, .progress, .rpa, .sampled, .seq, .sump, .tokens]) {u : Nat} {w : IWord} {s : State}   (h0 : Q s) :
    outAll Q (execMulh u w s) := by
  unfold execMulh
  repeat' first
    | with_reducible assumption
    | ((with_reducible refine boolGoal ?_); exact rfl)
    | ((with_reducible refine hP.inst ?_); exact rfl)
    | ((with_reducible refine hP.one _ ?_); exact rfl)
    | with_reducible refine arith_law hQ (hP.sub rfl) ?_
    | with_reducible refine Law.ite ?_ ?_
    | with_reducible refine outOk ?_
    | with_reducible exact outFault
    | with_reducible refine outWithin ?_
    | with_reducible refine iteOut ?_ ?_
    | ((try lift_lets); (with_reducible intro x); (try clear_value x))
    | split

theorem execSlt_law (hQ : Law P Q) (hP : Has P [.all .head, .all .lrp, .grp 0, .grp 9, .grp 64, .gaps, .heads, .held, .mem, .poison, .power, .procs, .progress, .rpa, .sampled, .seq, .sump, .tokens]) {u : Nat} {w : IWord} {s : State}   (h0 : Q s) :
    outAll Q (execSlt u w s) := by
  unfold execSlt
  repeat' first
    | with_reducible assumption
    | ((with_reducible refine boolGoal ?_); exact rfl)
    | ((with_reducible refine hP.inst ?_); exact rfl)
    | ((with_reducible refine hP.one _ ?_); exact rfl)
    | with_reducible refine arith_law hQ (hP.sub rfl) ?_
    | with_reducible refine Law.ite ?_ ?_
    | with_reducible refine outOk ?_
    | with_reducible exact outFault
    | with_reducible refine outWithin ?_
    | with_reducible refine iteOut ?_ ?_
    | ((try lift_lets); (with_reducible intro x); (try clear_value x))
    | split

theorem execMin_law (hQ : Law P Q) (hP : Has P [.all .head, .all .lrp, .grp 0, .grp 9, .grp 64, .gaps, .heads, .held, .mem, .poison, .power, .procs, .progress, .rpa, .sampled, .seq, .sump, .tokens]) {u : Nat} {w : IWord} {s : State}   (h0 : Q s) :
    outAll Q (execMin u w s) := by
  unfold execMin
  repeat' first
    | with_reducible assumption
    | ((with_reducible refine boolGoal ?_); exact rfl)
    | ((with_reducible refine hP.inst ?_); exact rfl)
    | ((with_reducible refine hP.one _ ?_); exact rfl)
    | with_reducible refine arith_law hQ (hP.sub rfl) ?_
    | with_reducible refine Law.ite ?_ ?_
    | with_reducible refine outOk ?_
    | with_reducible exact outFault
    | with_reducible refine outWithin ?_
    | with_reducible refine iteOut ?_ ?_
    | ((try lift_lets); (with_reducible intro x); (try clear_value x))
    | split

theorem execMax_law (hQ : Law P Q) (hP : Has P [.all .head, .all .lrp, .grp 0, .grp 9, .grp 64, .gaps, .heads, .held, .mem, .poison, .power, .procs, .progress, .rpa, .sampled, .seq, .sump, .tokens]) {u : Nat} {w : IWord} {s : State}   (h0 : Q s) :
    outAll Q (execMax u w s) := by
  unfold execMax
  repeat' first
    | with_reducible assumption
    | ((with_reducible refine boolGoal ?_); exact rfl)
    | ((with_reducible refine hP.inst ?_); exact rfl)
    | ((with_reducible refine hP.one _ ?_); exact rfl)
    | with_reducible refine arith_law hQ (hP.sub rfl) ?_
    | with_reducible refine Law.ite ?_ ?_
    | with_reducible refine outOk ?_
    | with_reducible exact outFault
    | with_reducible refine outWithin ?_
    | with_reducible refine iteOut ?_ ?_
    | ((try lift_lets); (with_reducible intro x); (try clear_value x))
    | split

theorem execLda_law (hQ : Law P Q) (hP : Has P [.all .head, .all .lrp, .grp 0, .grp 9, .grp 64, .gaps, .heads, .held, .mem, .poison, .power, .procs, .progress, .rpa, .sampled, .seq, .sump, .tokens]) {u : Nat} {w : IWord} {s : State}   (h0 : Q s) :
    outAll Q (execLda u w s) := by
  unfold execLda
  repeat' first
    | with_reducible assumption
    | ((with_reducible refine boolGoal ?_); exact rfl)
    | ((with_reducible refine hP.inst ?_); exact rfl)
    | ((with_reducible refine hP.one _ ?_); exact rfl)
    | with_reducible refine instr_law hQ (hP.sub rfl) (fun _ _ _ _ => ?_) ?_
    | with_reducible refine plain_law hQ (hP.sub rfl) ?_
    | with_reducible refine excGet (by with_reducible assumption) ?_
    | with_reducible refine excPair ?_
    | with_reducible refine excState ?_
    | with_reducible exact excError
    | with_reducible refine iteExc ?_ ?_
    | with_reducible refine outOk ?_
    | with_reducible exact outFault
    | with_reducible refine outWithin ?_
    | with_reducible refine iteOut ?_ ?_
    | ((try lift_lets); (with_reducible intro x); (try clear_value x))

theorem execAdda_law (hQ : Law P Q) (hP : Has P [.all .head, .all .lrp, .grp 0, .grp 9, .grp 64, .gaps, .heads, .held, .mem, .poison, .power, .procs, .progress, .rpa, .sampled, .seq, .sump, .tokens]) {u : Nat} {w : IWord} {s : State}   (h0 : Q s) :
    outAll Q (execAdda u w s) := by
  unfold execAdda
  repeat' first
    | with_reducible assumption
    | ((with_reducible refine boolGoal ?_); exact rfl)
    | ((with_reducible refine hP.inst ?_); exact rfl)
    | ((with_reducible refine hP.one _ ?_); exact rfl)
    | with_reducible refine instr_law hQ (hP.sub rfl) (fun _ _ _ _ => ?_) ?_
    | with_reducible refine plain_law hQ (hP.sub rfl) ?_
    | with_reducible refine excGet (by with_reducible assumption) ?_
    | with_reducible refine Law.ite ?_ ?_
    | with_reducible refine excPair ?_
    | with_reducible refine excState ?_
    | with_reducible exact excError
    | with_reducible refine iteExc ?_ ?_
    | with_reducible refine outOk ?_
    | with_reducible exact outFault
    | with_reducible refine outWithin ?_
    | with_reducible refine iteOut ?_ ?_
    | ((try lift_lets); (with_reducible intro x); (try clear_value x))
    | split

theorem execMovsa_law (hQ : Law P Q) (hP : Has P [.all .head, .all .lrp, .grp 0, .grp 9, .grp 64, .gaps, .heads, .held, .mem, .poison, .power, .procs, .progress, .rpa, .sampled, .seq, .sump, .tokens]) {u : Nat} {w : IWord} {s : State}   (h0 : Q s) :
    outAll Q (execMovsa u w s) := by
  unfold execMovsa
  repeat' first
    | with_reducible assumption
    | ((with_reducible refine boolGoal ?_); exact rfl)
    | ((with_reducible refine hP.inst ?_); exact rfl)
    | ((with_reducible refine hP.one _ ?_); exact rfl)
    | with_reducible refine instr_law hQ (hP.sub rfl) (fun _ _ _ _ => ?_) ?_
    | with_reducible refine plain_law hQ (hP.sub rfl) ?_
    | with_reducible refine excGet (by with_reducible assumption) ?_
    | with_reducible refine Law.ite ?_ ?_
    | with_reducible refine excPair ?_
    | with_reducible refine excState ?_
    | with_reducible exact excError
    | with_reducible refine iteExc ?_ ?_
    | with_reducible refine outOk ?_
    | with_reducible exact outFault
    | with_reducible refine outWithin ?_
    | with_reducible refine iteOut ?_ ?_
    | ((try lift_lets); (with_reducible intro x); (try clear_value x))
    | split

theorem execMovas_law (hQ : Law P Q) (hP : Has P [.all .head, .all .lrp, .grp 0, .grp 9, .grp 64, .gaps, .heads, .held, .mem, .poison, .power, .procs, .progress, .rpa, .sampled, .seq, .sump, .tokens]) {u : Nat} {w : IWord} {s : State}   (h0 : Q s) :
    outAll Q (execMovas u w s) := by
  unfold execMovas
  repeat' first
    | with_reducible assumption
    | ((with_reducible refine boolGoal ?_); exact rfl)
    | ((with_reducible refine hP.inst ?_); exact rfl)
    | ((with_reducible refine hP.one _ ?_); exact rfl)
    | with_reducible refine instr_law hQ (hP.sub rfl) (fun _ _ _ _ => ?_) ?_
    | with_reducible refine plain_law hQ (hP.sub rfl) ?_
    | with_reducible refine excGet (by with_reducible assumption) ?_
    | with_reducible refine excPair ?_
    | with_reducible refine excState ?_
    | with_reducible exact excError
    | with_reducible refine iteExc ?_ ?_
    | with_reducible refine outOk ?_
    | with_reducible exact outFault
    | with_reducible refine outWithin ?_
    | with_reducible refine iteOut ?_ ?_
    | ((try lift_lets); (with_reducible intro x); (try clear_value x))

theorem waiting_law {u : Nat} {w : IWord} {s : State} {o : Out} (h : Q s) (ho : outAll Q o) : outAll Q (waiting u w s o) := by
  unfold waiting
  split
  · exact h
  · exact ho

theorem loadEcc_law (hQ : Law P Q) (hP : Has P [.all .dmc, .dmc, .poison, .seq]) {u : Nat} {w : IWord} {n : Nat} {ecc : Nat} {line : Nat} {s : State}   (h0 : Q s) :
    Q (loadEcc u w n ecc line s) := by
  unfold loadEcc
  repeat' first
    | with_reducible assumption
    | ((with_reducible refine boolGoal ?_); exact rfl)
    | ((with_reducible refine hP.inst ?_); exact rfl)
    | ((with_reducible refine hP.one _ ?_); exact rfl)
    | with_reducible refine eccError_law hQ (hP.sub rfl) ?_
    | with_reducible refine Law.ite ?_ ?_
    | ((try lift_lets); (with_reducible intro y); (have hy : Q y := ?_); clear_value y; rotate_left; subst y)
    | ((try lift_lets); (with_reducible intro x); (try clear_value x))
    | split

theorem execLd_law (hQ : Law P Q) (hP : Has P [.all .dmc, .all .head, .all .lrp, .grp 0, .grp 9, .grp 64, .dmc, .gaps, .heads, .held, .mem, .poison, .power, .procs, .progress, .rpa, .sampled, .seq, .sump, .tokens]) {u : Nat} {w : IWord} {ecc : Nat} {s : State}   (h0 : Q s) :
    outAll Q (execLd u w ecc s) := by
  unfold execLd
  repeat' first
    | with_reducible assumption
    | ((with_reducible refine boolGoal ?_); exact rfl)
    | ((with_reducible refine hP.inst ?_); exact rfl)
    | ((with_reducible refine hP.one _ ?_); exact rfl)
    | with_reducible refine loadEcc_law hQ (hP.sub rfl) ?_
    | with_reducible refine waiting_law ?_ ?_
    | with_reducible refine instr_law hQ (hP.sub rfl) (fun _ _ _ _ => ?_) ?_
    | with_reducible refine setProc_law hQ (hP.sub rfl) ?_
    | with_reducible refine traffic_law hQ (hP.sub rfl) ?_
    | with_reducible refine excPair ?_
    | with_reducible refine excState ?_
    | with_reducible exact excError
    | with_reducible refine iteExc ?_ ?_
    | with_reducible refine outOk ?_
    | with_reducible exact outFault
    | with_reducible refine outWithin ?_
    | with_reducible refine iteOut ?_ ?_
    | ((try lift_lets); (with_reducible intro y); (have hy : Q y := ?_); clear_value y; rotate_left; subst y)
    | ((try lift_lets); (with_reducible intro y); (have hy : Q y.1 := ?_); clear_value y; rotate_left; subst y)
    | ((try lift_lets); (with_reducible intro x); (try clear_value x))
    | split
    | dsimp only

theorem execSt_law (hQ : Law P Q) (hP : Has P [.all .head, .all .lrp, .grp 0, .grp 9, .grp 64, .gaps, .heads, .held, .mem, .poison, .power, .procs, .progress, .rpa, .sampled, .seq, .sump, .tokens]) {u : Nat} {w : IWord} {s : State}   (h0 : Q s) :
    outAll Q (execSt u w s) := by
  unfold execSt
  repeat' first
    | with_reducible assumption
    | ((with_reducible refine boolGoal ?_); exact rfl)
    | ((with_reducible refine hP.inst ?_); exact rfl)
    | ((with_reducible refine hP.one _ ?_); exact rfl)
    | with_reducible refine waiting_law ?_ ?_
    | with_reducible refine instr_law hQ (hP.sub rfl) (fun _ _ _ _ => ?_) ?_
    | with_reducible refine store_law hQ (hP.sub rfl) ?_
    | with_reducible refine excGet (by with_reducible assumption) ?_
    | with_reducible refine excPair ?_
    | with_reducible refine excState ?_
    | with_reducible exact excError
    | with_reducible refine iteExc ?_ ?_
    | with_reducible refine outOk ?_
    | with_reducible exact outFault
    | with_reducible refine outWithin ?_
    | with_reducible refine iteOut ?_ ?_
    | with_reducible refine optAll.map (fun _ => ?_)
    | ((try lift_lets); (with_reducible intro y); (have hy : Q y := ?_); clear_value y; rotate_left; subst y)
    | ((try lift_lets); (with_reducible intro y); (have hy : Q y.1 := ?_); clear_value y; rotate_left; subst y)
    | ((try lift_lets); (with_reducible intro x); (try clear_value x))
    | split
    | dsimp only

theorem execKrd_law (hQ : Law P Q) (hP : Has P [.all .head, .all .lrp, .grp 0, .grp 9, .grp 64, .gaps, .heads, .held, .mem, .poison, .power, .procs, .progress, .rpa, .sampled, .seq, .sump, .tokens]) {u : Nat} {w : IWord} {s : State}   (h0 : Q s) :
    outAll Q (execKrd u w s) := by
  unfold execKrd
  repeat' first
    | with_reducible assumption
    | ((with_reducible refine boolGoal ?_); exact rfl)
    | ((with_reducible refine hP.inst ?_); exact rfl)
    | ((with_reducible refine hP.one _ ?_); exact rfl)
    | with_reducible refine instr_law hQ (hP.sub rfl) (fun _ _ _ _ => ?_) ?_
    | with_reducible refine plain_law hQ (hP.sub rfl) ?_
    | with_reducible refine excGet (by with_reducible assumption) ?_
    | with_reducible refine Law.ite ?_ ?_
    | with_reducible refine excPair ?_
    | with_reducible refine excState ?_
    | with_reducible exact excError
    | with_reducible refine iteExc ?_ ?_
    | with_reducible refine outOk ?_
    | with_reducible exact outFault
    | with_reducible refine outWithin ?_
    | with_reducible refine iteOut ?_ ?_
    | ((try lift_lets); (with_reducible intro y); (have hy : Q y := ?_); clear_value y; rotate_left; subst y)
    | ((try lift_lets); (with_reducible intro y); (have hy : Q y.1 := ?_); clear_value y; rotate_left; subst y)
    | ((try lift_lets); (with_reducible intro x); (try clear_value x))
    | split

theorem branch_law (hQ : Law P Q) (hP : Has P [.all .head, .all .lrp, .grp 0, .grp 9, .grp 64, .gaps, .heads, .held, .mem, .poison, .power, .procs, .progress, .rpa, .sampled, .seq, .sump, .tokens]) {c : BitVec 32 → BitVec 32 → Bool} {u : Nat} {w : IWord} {s : State}   (h0 : Q s) :
    outAll Q (branch c u w s) := by
  unfold branch
  repeat' first
    | with_reducible assumption
    | ((with_reducible refine boolGoal ?_); exact rfl)
    | ((with_reducible refine hP.inst ?_); exact rfl)
    | ((with_reducible refine hP.one _ ?_); exact rfl)
    | with_reducible refine instr_law hQ (hP.sub rfl) (fun _ _ _ _ => ?_) ?_
    | with_reducible refine jump_law hQ (hP.sub rfl) ?_
    | with_reducible refine excGet (by with_reducible assumption) ?_
    | with_reducible refine Law.ite ?_ ?_
    | with_reducible refine excPair ?_
    | with_reducible refine excState ?_
    | with_reducible exact excError
    | with_reducible refine iteExc ?_ ?_
    | with_reducible refine outOk ?_
    | with_reducible exact outFault
    | with_reducible refine outWithin ?_
    | with_reducible refine iteOut ?_ ?_
    | ((try lift_lets); (with_reducible intro x); (try clear_value x))
    | split

theorem execBeq_law (hQ : Law P Q) (hP : Has P [.all .head, .all .lrp, .grp 0, .grp 9, .grp 64, .gaps, .heads, .held, .mem, .poison, .power, .procs, .progress, .rpa, .sampled, .seq, .sump, .tokens]) {u : Nat} {w : IWord} {s : State}   (h0 : Q s) :
    outAll Q (execBeq u w s) := by
  unfold execBeq
  repeat' first
    | with_reducible assumption
    | ((with_reducible refine boolGoal ?_); exact rfl)
    | ((with_reducible refine hP.inst ?_); exact rfl)
    | ((with_reducible refine hP.one _ ?_); exact rfl)
    | with_reducible refine branch_law hQ (hP.sub rfl) ?_
    | with_reducible refine outOk ?_
    | with_reducible exact outFault
    | with_reducible refine outWithin ?_
    | with_reducible refine iteOut ?_ ?_
    | ((try lift_lets); (with_reducible intro x); (try clear_value x))

theorem execBne_law (hQ : Law P Q) (hP : Has P [.all .head, .all .lrp, .grp 0, .grp 9, .grp 64, .gaps, .heads, .held, .mem, .poison, .power, .procs, .progress, .rpa, .sampled, .seq, .sump, .tokens]) {u : Nat} {w : IWord} {s : State}   (h0 : Q s) :
    outAll Q (execBne u w s) := by
  unfold execBne
  repeat' first
    | with_reducible assumption
    | ((with_reducible refine boolGoal ?_); exact rfl)
    | ((with_reducible refine hP.inst ?_); exact rfl)
    | ((with_reducible refine hP.one _ ?_); exact rfl)
    | with_reducible refine branch_law hQ (hP.sub rfl) ?_
    | with_reducible refine outOk ?_
    | with_reducible exact outFault
    | with_reducible refine outWithin ?_
    | with_reducible refine iteOut ?_ ?_
    | ((try lift_lets); (with_reducible intro x); (try clear_value x))

theorem execBlt_law (hQ : Law P Q) (hP : Has P [.all .head, .all .lrp, .grp 0, .grp 9, .grp 64, .gaps, .heads, .held, .mem, .poison, .power, .procs, .progress, .rpa, .sampled, .seq, .sump, .tokens]) {u : Nat} {w : IWord} {s : State}   (h0 : Q s) :
    outAll Q (execBlt u w s) := by
  unfold execBlt
  repeat' first
    | with_reducible assumption
    | ((with_reducible refine boolGoal ?_); exact rfl)
    | ((with_reducible refine hP.inst ?_); exact rfl)
    | ((with_reducible refine hP.one _ ?_); exact rfl)
    | with_reducible refine branch_law hQ (hP.sub rfl) ?_
    | with_reducible refine outOk ?_
    | with_reducible exact outFault
    | with_reducible refine outWithin ?_
    | with_reducible refine iteOut ?_ ?_
    | ((try lift_lets); (with_reducible intro x); (try clear_value x))

theorem execBge_law (hQ : Law P Q) (hP : Has P [.all .head, .all .lrp, .grp 0, .grp 9, .grp 64, .gaps, .heads, .held, .mem, .poison, .power, .procs, .progress, .rpa, .sampled, .seq, .sump, .tokens]) {u : Nat} {w : IWord} {s : State}   (h0 : Q s) :
    outAll Q (execBge u w s) := by
  unfold execBge
  repeat' first
    | with_reducible assumption
    | ((with_reducible refine boolGoal ?_); exact rfl)
    | ((with_reducible refine hP.inst ?_); exact rfl)
    | ((with_reducible refine hP.one _ ?_); exact rfl)
    | with_reducible refine branch_law hQ (hP.sub rfl) ?_
    | with_reducible refine outOk ?_
    | with_reducible exact outFault
    | with_reducible refine outWithin ?_
    | with_reducible refine iteOut ?_ ?_
    | ((try lift_lets); (with_reducible intro x); (try clear_value x))

theorem execBltu_law (hQ : Law P Q) (hP : Has P [.all .head, .all .lrp, .grp 0, .grp 9, .grp 64, .gaps, .heads, .held, .mem, .poison, .power, .procs, .progress, .rpa, .sampled, .seq, .sump, .tokens]) {u : Nat} {w : IWord} {s : State}   (h0 : Q s) :
    outAll Q (execBltu u w s) := by
  unfold execBltu
  repeat' first
    | with_reducible assumption
    | ((with_reducible refine boolGoal ?_); exact rfl)
    | ((with_reducible refine hP.inst ?_); exact rfl)
    | ((with_reducible refine hP.one _ ?_); exact rfl)
    | with_reducible refine branch_law hQ (hP.sub rfl) ?_
    | with_reducible refine outOk ?_
    | with_reducible exact outFault
    | with_reducible refine outWithin ?_
    | with_reducible refine iteOut ?_ ?_
    | ((try lift_lets); (with_reducible intro x); (try clear_value x))

theorem execBgeu_law (hQ : Law P Q) (hP : Has P [.all .head, .all .lrp, .grp 0, .grp 9, .grp 64, .gaps, .heads, .held, .mem, .poison, .power, .procs, .progress, .rpa, .sampled, .seq, .sump, .tokens]) {u : Nat} {w : IWord} {s : State}   (h0 : Q s) :
    outAll Q (execBgeu u w s) := by
  unfold execBgeu
  repeat' first
    | with_reducible assumption
    | ((with_reducible refine boolGoal ?_); exact rfl)
    | ((with_reducible refine hP.inst ?_); exact rfl)
    | ((with_reducible refine hP.one _ ?_); exact rfl)
    | with_reducible refine branch_law hQ (hP.sub rfl) ?_
    | with_reducible refine outOk ?_
    | with_reducible exact outFault
    | with_reducible refine outWithin ?_
    | with_reducible refine iteOut ?_ ?_
    | ((try lift_lets); (with_reducible intro x); (try clear_value x))

theorem execJal_law (hQ : Law P Q) (hP : Has P [.all .head, .all .lrp, .grp 0, .grp 9, .grp 64, .gaps, .heads, .held, .mem, .poison, .power, .procs, .progress, .rpa, .sampled, .seq, .sump, .tokens]) {u : Nat} {w : IWord} {s : State}   (h0 : Q s) :
    outAll Q (execJal u w s) := by
  unfold execJal
  repeat' first
    | with_reducible assumption
    | ((with_reducible refine boolGoal ?_); exact rfl)
    | ((with_reducible refine hP.inst ?_); exact rfl)
    | ((with_reducible refine hP.one _ ?_); exact rfl)
    | with_reducible refine instr_law hQ (hP.sub rfl) (fun _ _ _ _ => ?_) ?_
    | with_reducible refine jump_law hQ (hP.sub rfl) ?_
    | with_reducible refine excGet (by with_reducible assumption) ?_
    | with_reducible refine setProc_law hQ (hP.sub rfl) ?_
    | with_reducible refine excPair ?_
    | with_reducible refine excState ?_
    | with_reducible exact excError
    | with_reducible refine iteExc ?_ ?_
    | with_reducible refine outOk ?_
    | with_reducible exact outFault
    | with_reducible refine outWithin ?_
    | with_reducible refine iteOut ?_ ?_
    | ((try lift_lets); (with_reducible intro x); (try clear_value x))

theorem execJr_law (hQ : Law P Q) (hP : Has P [.all .head, .all .lrp, .grp 0, .grp 9, .grp 64, .gaps, .heads, .held, .mem, .poison, .power, .procs, .progress, .rpa, .sampled, .seq, .sump, .tokens]) {u : Nat} {w : IWord} {s : State}   (h0 : Q s) :
    outAll Q (execJr u w s) := by
  unfold execJr
  repeat' first
    | with_reducible assumption
    | ((with_reducible refine boolGoal ?_); exact rfl)
    | ((with_reducible refine hP.inst ?_); exact rfl)
    | ((with_reducible refine hP.one _ ?_); exact rfl)
    | with_reducible refine instr_law hQ (hP.sub rfl) (fun _ _ _ _ => ?_) ?_
    | with_reducible refine jump_law hQ (hP.sub rfl) ?_
    | with_reducible refine excGet (by with_reducible assumption) ?_
    | with_reducible refine excPair ?_
    | with_reducible refine excState ?_
    | with_reducible exact excError
    | with_reducible refine iteExc ?_ ?_
    | with_reducible refine outOk ?_
    | with_reducible exact outFault
    | with_reducible refine outWithin ?_
    | with_reducible refine iteOut ?_ ?_
    | ((try lift_lets); (with_reducible intro x); (try clear_value x))

theorem execEvpost_law (hQ : Law P Q) (hP : Has P [.all .head, .all .lrp, .grp 0, .grp 9, .grp 64, .gaps, .heads, .held, .mem, .poison, .power, .procs, .progress, .rpa, .sampled, .seq, .sump, .tokens]) {u : Nat} {w : IWord} {s : State}   (h0 : Q s) :
    outAll Q (execEvpost u w s) := by
  unfold execEvpost
  repeat' first
    | with_reducible assumption
    | ((with_reducible refine boolGoal ?_); exact rfl)
    | ((with_reducible refine hP.inst ?_); exact rfl)
    | ((with_reducible refine hP.one _ ?_); exact rfl)
    | with_reducible refine instr_law hQ (hP.sub rfl) (fun _ _ _ _ => ?_) ?_
    | with_reducible refine emit_law hQ (hP.sub rfl) ?_
    | with_reducible refine Law.ite ?_ ?_
    | with_reducible refine excPair ?_
    | with_reducible refine excState ?_
    | with_reducible exact excError
    | with_reducible refine iteExc ?_ ?_
    | with_reducible refine outOk ?_
    | with_reducible exact outFault
    | with_reducible refine outWithin ?_
    | with_reducible refine iteOut ?_ ?_
    | ((try lift_lets); (with_reducible intro x); (try clear_value x))
    | split

theorem execEvfire_law (hQ : Law P Q) (hP : Has P [.all .head, .all .lrp, .grp 0, .grp 9, .grp 64, .gaps, .heads, .held, .mem, .poison, .power, .procs, .progress, .rpa, .sampled, .seq, .sump, .tokens]) {u : Nat} {w : IWord} {s : State}   (h0 : Q s) :
    outAll Q (execEvfire u w s) := by
  unfold execEvfire
  repeat' first
    | with_reducible assumption
    | ((with_reducible refine boolGoal ?_); exact rfl)
    | ((with_reducible refine hP.inst ?_); exact rfl)
    | ((with_reducible refine hP.one _ ?_); exact rfl)
    | with_reducible refine instr_law hQ (hP.sub rfl) (fun _ _ _ _ => ?_) ?_
    | with_reducible refine fire_law hQ (hP.sub rfl) ?_
    | with_reducible refine Law.ite ?_ ?_
    | with_reducible refine excPair ?_
    | with_reducible refine excState ?_
    | with_reducible exact excError
    | with_reducible refine iteExc ?_ ?_
    | with_reducible refine outOk ?_
    | with_reducible exact outFault
    | with_reducible refine outWithin ?_
    | with_reducible refine iteOut ?_ ?_
    | ((try lift_lets); (with_reducible intro x); (try clear_value x))
    | split

theorem execRdt_law (hQ : Law P Q) (hP : Has P [.all .head, .all .lrp, .grp 0, .grp 9, .grp 64, .gaps, .heads, .held, .mem, .poison, .power, .procs, .progress, .rpa, .sampled, .seq, .sump, .tokens]) {u : Nat} {w : IWord} {s : State}   (h0 : Q s) :
    outAll Q (execRdt u w s) := by
  unfold execRdt
  repeat' first
    | with_reducible assumption
    | ((with_reducible refine boolGoal ?_); exact rfl)
    | ((with_reducible refine hP.inst ?_); exact rfl)
    | ((with_reducible refine hP.one _ ?_); exact rfl)
    | with_reducible refine instr_law hQ (hP.sub rfl) (fun _ _ _ _ => ?_) ?_
    | with_reducible refine setProc_law hQ (hP.sub rfl) ?_
    | with_reducible refine Law.ite ?_ ?_
    | with_reducible refine excPair ?_
    | with_reducible refine excState ?_
    | with_reducible exact excError
    | with_reducible refine iteExc ?_ ?_
    | with_reducible refine outOk ?_
    | with_reducible exact outFault
    | with_reducible refine outWithin ?_
    | with_reducible refine iteOut ?_ ?_
    | with_reducible refine optAll.getD ?_ ?_
    | ((try lift_lets); (with_reducible intro y); (have hy : Q y := ?_); clear_value y; rotate_left; subst y)
    | ((try lift_lets); (with_reducible intro y); (have hy : Q y.1 := ?_); clear_value y; rotate_left; subst y)
    | ((try lift_lets); (with_reducible intro x); (try clear_value x))
    | split

theorem execFence_law (hQ : Law P Q) (hP : Has P [.all .head, .all .lrp, .grp 0, .grp 9, .grp 64, .gaps, .heads, .held, .mem, .poison, .power, .procs, .progress, .rpa, .sampled, .seq, .sump, .tokens]) {u : Nat} {w : IWord} {s : State}   (h0 : Q s) :
    outAll Q (execFence u w s) := by
  unfold execFence
  repeat' first
    | with_reducible assumption
    | ((with_reducible refine boolGoal ?_); exact rfl)
    | ((with_reducible refine hP.inst ?_); exact rfl)
    | ((with_reducible refine hP.one _ ?_); exact rfl)
    | with_reducible refine instr_law hQ (hP.sub rfl) (fun _ _ _ _ => ?_) ?_
    | with_reducible refine plain_law hQ (hP.sub rfl) ?_
    | with_reducible refine excGet (by with_reducible assumption) ?_
    | with_reducible refine excPair ?_
    | with_reducible refine excState ?_
    | with_reducible exact excError
    | with_reducible refine iteExc ?_ ?_
    | with_reducible refine outOk ?_
    | with_reducible exact outFault
    | with_reducible refine outWithin ?_
    | with_reducible refine iteOut ?_ ?_

theorem execXat_law (hQ : Law P Q) (hP : Has P [.all .head, .all .lrp, .grp 0, .grp 9, .grp 64, .gaps, .heads, .held, .mem, .poison, .power, .procs, .progress, .rpa, .sampled, .seq, .sump, .tokens]) {u : Nat} {w : IWord} {s : State}   (h0 : Q s) :
    outAll Q (execXat u w s) := by
  unfold execXat
  repeat' first
    | with_reducible assumption
    | ((with_reducible refine boolGoal ?_); exact rfl)
    | ((with_reducible refine hP.inst ?_); exact rfl)
    | ((with_reducible refine hP.one _ ?_); exact rfl)
    | with_reducible refine instr_law hQ (hP.sub rfl) (fun _ _ _ _ => ?_) ?_
    | with_reducible refine excPair ?_
    | with_reducible refine excState ?_
    | with_reducible exact excError
    | with_reducible refine iteExc ?_ ?_
    | with_reducible refine outOk ?_
    | with_reducible exact outFault
    | with_reducible refine outWithin ?_
    | with_reducible refine iteOut ?_ ?_
    | ((try lift_lets); (with_reducible intro y); (have hy : Q y := ?_); clear_value y; rotate_left; subst y)
    | ((try lift_lets); (with_reducible intro y); (have hy : Q y.1 := ?_); clear_value y; rotate_left; subst y)
    | ((try lift_lets); (with_reducible intro x); (try clear_value x))
    | with_reducible refine hQ.seq ?_ ?_

theorem execXstat_law (hQ : Law P Q) (hP : Has P [.all .head, .all .lrp, .grp 0, .grp 9, .grp 64, .gaps, .heads, .held, .mem, .poison, .power, .procs, .progress, .rpa, .sampled, .seq, .sump, .tokens]) {u : Nat} {w : IWord} {s : State}   (h0 : Q s) :
    outAll Q (execXstat u w s) := by
  unfold execXstat
  repeat' first
    | with_reducible assumption
    | ((with_reducible refine boolGoal ?_); exact rfl)
    | ((with_reducible refine hP.inst ?_); exact rfl)
    | ((with_reducible refine hP.one _ ?_); exact rfl)
    | with_reducible refine instr_law hQ (hP.sub rfl) (fun _ _ _ _ => ?_) ?_
    | with_reducible refine setProc_law hQ (hP.sub rfl) ?_
    | with_reducible refine excPair ?_
    | with_reducible refine excState ?_
    | with_reducible exact excError
    | with_reducible refine iteExc ?_ ?_
    | with_reducible refine outOk ?_
    | with_reducible exact outFault
    | with_reducible refine outWithin ?_
    | with_reducible refine iteOut ?_ ?_
    | ((try lift_lets); (with_reducible intro x); (try clear_value x))

theorem execXwait_law (hQ : Law P Q) (hP : Has P [.all .head, .all .lrp, .grp 0, .grp 9, .grp 64, .gaps, .heads, .held, .mem, .poison, .power, .procs, .progress, .rpa, .sampled, .seq, .sump, .tokens]) {u : Nat} {w : IWord} {s : State}   (h0 : Q s) :
    outAll Q (execXwait u w s) := by
  unfold execXwait
  repeat' first
    | with_reducible assumption
    | ((with_reducible refine boolGoal ?_); exact rfl)
    | ((with_reducible refine hP.inst ?_); exact rfl)
    | ((with_reducible refine hP.one _ ?_); exact rfl)
    | with_reducible refine instr_law hQ (hP.sub rfl) (fun _ _ _ _ => ?_) ?_
    | with_reducible refine endCommand_law hQ (hP.sub rfl) ?_
    | with_reducible refine setProc_law hQ (hP.sub rfl) ?_
    | with_reducible refine Law.ite ?_ ?_
    | with_reducible refine excPair ?_
    | with_reducible refine excState ?_
    | with_reducible exact excError
    | with_reducible refine iteExc ?_ ?_
    | with_reducible refine outOk ?_
    | with_reducible exact outFault
    | with_reducible refine outWithin ?_
    | with_reducible refine iteOut ?_ ?_
    | with_reducible refine optAll.getD ?_ ?_
    | ((try lift_lets); (with_reducible intro y); (have hy : Q y := ?_); clear_value y; rotate_left; subst y)
    | ((try lift_lets); (with_reducible intro y); (have hy : Q y.1 := ?_); clear_value y; rotate_left; subst y)
    | ((try lift_lets); (with_reducible intro x); (try clear_value x))
    | split
    | dsimp only
    | with_reducible refine hQ.seq ?_ ?_

theorem execNop_law (hQ : Law P Q) (hP : Has P [.all .head, .all .lrp, .grp 0, .grp 9, .grp 64, .gaps, .heads, .held, .mem, .poison, .power, .procs, .progress, .rpa, .sampled, .seq, .sump, .tokens]) {u : Nat} {w : IWord} {s : State}   (h0 : Q s) :
    outAll Q (execNop u w s) := by
  unfold execNop
  repeat' first
    | with_reducible assumption
    | ((with_reducible refine boolGoal ?_); exact rfl)
    | ((with_reducible refine hP.inst ?_); exact rfl)
    | ((with_reducible refine hP.one _ ?_); exact rfl)
    | with_reducible refine instr_law hQ (hP.sub rfl) (fun _ _ _ _ => ?_) ?_
    | with_reducible refine plain_law hQ (hP.sub rfl) ?_
    | with_reducible refine excGet (by with_reducible assumption) ?_
    | with_reducible refine excPair ?_
    | with_reducible refine excState ?_
    | with_reducible exact excError
    | with_reducible refine iteExc ?_ ?_
    | with_reducible refine outOk ?_
    | with_reducible exact outFault
    | with_reducible refine outWithin ?_
    | with_reducible refine iteOut ?_ ?_

end Sys2Proof.Machine
end

