-- ==== Sys2Proof/Laws/RowRuns.lean ====
section
/-!
SUPPORT. What each function of Machine/RowRuns.lean can change: every law of the parts it names survives it.
-/
namespace Sys2Proof.Machine

variable {P : Part → Prop} {Q : State → Prop}

theorem takeStrip_law (hQ : Law P Q) (hP : Has P [.heads]) {h : Nat} {lseq : Nat} {k : Nat} {s : State}   (h0 : Q s) :
    Q (takeStrip h lseq k s) := by
  unfold takeStrip
  repeat' first
    | with_reducible assumption
    | ((with_reducible refine boolGoal ?_); exact rfl)
    | ((with_reducible refine hP.one _ ?_); exact rfl)
    | with_reducible refine setHead_law hQ (hP.sub rfl) ?_
    | with_reducible refine Law.ite ?_ ?_
    | with_reducible refine optAll.map (fun _ => ?_)
    | ((try lift_lets); (with_reducible intro y); (have hy : Q y := ?_); clear_value y; rotate_left; subst y)
    | ((try lift_lets); (with_reducible intro y); (have hy : Q y.1 := ?_); clear_value y; rotate_left; subst y)
    | ((try lift_lets); (with_reducible intro x); (try clear_value x))
    | split

theorem recordDispatch_law (hQ : Law P Q) (hP : Has P [.grp 64, .rpa]) {l : Nat} {h : Nat} {share : Bool} {s : State} (hi0 : P (.one .head h))  (h0 : Q s) :
    Q (recordDispatch l h share s) := by
  unfold recordDispatch
  repeat' first
    | with_reducible assumption
    | ((with_reducible refine boolGoal ?_); exact rfl)
    | ((with_reducible refine hP.one _ ?_); exact rfl)
    | with_reducible refine evt_law hQ (hP.sub rfl) ?_
    | ((with_reducible refine hQ.satAt hP hi0 ?_ ?_); exact rfl)
    | with_reducible refine hQ.sat hP ?_ ?_
    | with_reducible refine Law.ite ?_ ?_
    | ((try lift_lets); (with_reducible intro y); (have hy : Q y := ?_); clear_value y; rotate_left; subst y)
    | ((try lift_lets); (with_reducible intro y); (have hy : Q y.1 := ?_); clear_value y; rotate_left; subst y)
    | ((try lift_lets); (with_reducible intro x); (try clear_value x))
    | split
    | with_reducible refine hQ.rpa ?_ ?_

theorem writeHalo_law (hQ : Law P Q) (hP : Has P [.mem]) {u : Nat} {r : Run} {pay : Nat} {s : State}   (h0 : Q s) :
    Q (writeHalo u r pay s) := by
  unfold writeHalo
  repeat' first
    | with_reducible assumption
    | ((with_reducible refine boolGoal ?_); exact rfl)
    | ((with_reducible refine hP.one _ ?_); exact rfl)
    | with_reducible refine hQ.setBytes ?_ ?_
    | with_reducible refine Law.foldl (fun _ _ _ => ?_) ?_
    | with_reducible refine Law.foldlBy Prod.snd (fun _ _ _ => ?_) ?_
    | with_reducible refine Law.foldlBy Prod.fst (fun _ _ _ => ?_) ?_
    | with_reducible refine optAll.map (fun _ => ?_)
    | ((try lift_lets); (with_reducible intro y); (have hy : Q y := ?_); clear_value y; rotate_left; subst y)
    | ((try lift_lets); (with_reducible intro y); (have hy : Q y.1 := ?_); clear_value y; rotate_left; subst y)
    | ((try lift_lets); (with_reducible intro x); (try clear_value x))

theorem enterRun_law (hQ : Law P Q) (hP : Has P [.free, .mem, .procs]) {u : Nat} {r : Run} {pc : Nat} {pay : Nat} {s : State}   (h0 : Q s) :
    Q (enterRun u r pc pay s) := by
  unfold enterRun
  repeat' first
    | with_reducible assumption
    | ((with_reducible refine boolGoal ?_); exact rfl)
    | ((with_reducible refine hP.one _ ?_); exact rfl)
    | with_reducible refine writeHalo_law hQ (hP.sub rfl) ?_
    | with_reducible refine setProc_law hQ (hP.sub rfl) ?_
    | with_reducible refine Law.ite ?_ ?_
    | with_reducible refine Law.foldl (fun _ _ _ => ?_) ?_
    | with_reducible refine Law.foldlBy Prod.snd (fun _ _ _ => ?_) ?_
    | with_reducible refine Law.foldlBy Prod.fst (fun _ _ _ => ?_) ?_
    | with_reducible refine optAll.getD ?_ ?_
    | with_reducible refine optAll.map (fun _ => ?_)
    | ((try lift_lets); (with_reducible intro y); (have hy : Q y := ?_); clear_value y; rotate_left; subst y)
    | ((try lift_lets); (with_reducible intro y); (have hy : Q y.2 := ?_); clear_value y; rotate_left; subst y)
    | ((try lift_lets); (with_reducible intro y); (have hy : Q y.1 := ?_); clear_value y; rotate_left; subst y)
    | ((try lift_lets); (with_reducible intro x); (try clear_value x))
    | split
    | dsimp only
    | with_reducible refine hQ.free ?_ ?_

theorem startRunOf_law (hQ : Law P Q) (hP : Has P [.grp 64, .free, .mem, .procs, .rpa]) {r : Run} {en : HeadEntry} {s : State}   (h0 : Q s) :
    Q (startRunOf r en s) := by
  unfold startRunOf
  repeat' first
    | with_reducible assumption
    | ((with_reducible refine boolGoal ?_); exact rfl)
    | ((with_reducible refine hP.one _ ?_); exact rfl)
    | with_reducible refine writeCopies_law hQ (hP.sub rfl) ?_
    | with_reducible refine setProc_law hQ (hP.sub rfl) ?_
    | with_reducible refine enterRun_law hQ (hP.sub rfl) ?_
    | with_reducible refine evt_law hQ (hP.sub rfl) ?_
    | with_reducible refine Law.ite ?_ ?_
    | ((try lift_lets); (with_reducible intro y); (have hy : Q y := ?_); clear_value y; rotate_left; subst y)
    | ((try lift_lets); (with_reducible intro y); (have hy : Q y.1 := ?_); clear_value y; rotate_left; subst y)
    | ((try lift_lets); (with_reducible intro x); (try clear_value x))
    | split
    | with_reducible refine hQ.rpa ?_ ?_

theorem dispatch_law (hQ : Law P Q) (hP : Has P [.grp 5]) {l : Nat} {g : Tag} {s t : State} (e : dispatch l g s = .error t)
    (h : Q s) : Q t := by
  unfold dispatch at e
  split at e
  · cases e; exact hQ.sat hP rfl h
  split at e
  · cases e; exact hQ.sat hP rfl h
  split at e
  · cases e; exact h
  · cases e

theorem copyFault_law (hQ : Law P Q) (hP : Has P [.grp 9, .grp 64, .gaps, .heads, .held, .mem, .poison, .power, .progress, .rpa, .sump, .tokens]) {l : Nat} {k : Nat} {t : Tag} {s : State} (hi0 : P (.one .head t.head)) (hi1 : P (.one .lrp l))  (h0 : Q s) :
    Q (copyFault l k t s) := by
  unfold copyFault
  repeat' first
    | with_reducible assumption
    | ((with_reducible refine boolGoal ?_); exact rfl)
    | ((with_reducible refine hP.one _ ?_); exact rfl)
    | with_reducible refine divertAtRpa_law hQ (hP.sub rfl) ?_ ?_
    | with_reducible refine haltLrp_law hQ (hP.sub rfl) ?_ ?_
    | with_reducible refine optAll.getD ?_ ?_
    | ((try lift_lets); (with_reducible intro y); (have hy : Q y := ?_); clear_value y; rotate_left; subst y)
    | ((try lift_lets); (with_reducible intro y); (have hy : Q y.1 := ?_); clear_value y; rotate_left; subst y)
    | ((try lift_lets); (with_reducible intro x); (try clear_value x))
    | with_reducible refine hQ.rpa ?_ ?_

theorem runStrip_law (hQ : Law P Q) (hP : Has P [.grp 5, .grp 9, .grp 64, .free, .gaps, .heads, .held, .mem, .poison, .power, .procs, .progress, .rpa, .sump, .tokens]) {l : Nat} {t : Tag} {s : State} (hi0 : P (.one .head t.head)) (hi1 : P (.one .lrp l))  (h0 : Q s) :
    Q (runStrip l t s) := by
  unfold runStrip
  repeat' first
    | with_reducible assumption
    | ((with_reducible refine boolGoal ?_); exact rfl)
    | ((with_reducible refine hP.one _ ?_); exact rfl)
    | with_reducible refine applyDue_law hQ (hP.sub rfl) (fun _ _ _ => ?_) ?_
    | with_reducible refine rpaEff_law hQ (hP.sub rfl) ?_
    | with_reducible refine dispatch_law hQ (hP.sub rfl) (by with_reducible assumption) ?_
    | with_reducible refine excGet (by with_reducible assumption) ?_
    | with_reducible refine divertAtRpa_law hQ (hP.sub rfl) ?_ ?_
    | with_reducible refine copyFault_law hQ (hP.sub rfl) ?_ ?_ ?_
    | with_reducible refine takeLates_law hQ (hP.sub rfl) ?_
    | with_reducible refine startRunOf_law hQ (hP.sub rfl) ?_
    | with_reducible refine Law.ite ?_ ?_
    | ((try lift_lets); (with_reducible intro y); (have hy : Q y := ?_); clear_value y; rotate_left; subst y)
    | ((try lift_lets); (with_reducible intro y); (have hy : Q y.2 := ?_); clear_value y; rotate_left; subst y)
    | ((try lift_lets); (with_reducible intro y); (have hy : Q y.1 := ?_); clear_value y; rotate_left; subst y)
    | ((try lift_lets); (with_reducible intro x); (try clear_value x))
    | split
    | dsimp only
    | with_reducible refine hQ.rpa ?_ ?_

theorem runReplay_law (hQ : Law P Q) (hP : Has P [.grp 5, .grp 9, .grp 64, .free, .gaps, .heads, .held, .mem, .poison, .power, .procs, .progress, .rpa, .sump]) {e : Replay} {s : State} (hi0 : P (.one .head e.tag.head))  (h0 : Q s) :
    Q (runReplay e s) := by
  unfold runReplay
  repeat' first
    | with_reducible assumption
    | ((with_reducible refine boolGoal ?_); exact rfl)
    | ((with_reducible refine hP.one _ ?_); exact rfl)
    | with_reducible refine dispatch_law hQ (hP.sub rfl) (by with_reducible assumption) ?_
    | with_reducible refine excGet (by with_reducible assumption) ?_
    | with_reducible refine divertAtRpa_law hQ (hP.sub rfl) ?_ ?_
    | with_reducible refine startRunOf_law hQ (hP.sub rfl) ?_
    | ((try lift_lets); (with_reducible intro y); (have hy : Q y := ?_); clear_value y; rotate_left; subst y)
    | ((try lift_lets); (with_reducible intro x); (try clear_value x))
    | split
    | dsimp only

theorem restoreMirror_law (hQ : Law P Q) (hP : Has P [.mem]) {u : Nat} {l : Nat} {s : State}   (h0 : Q s) :
    Q (restoreMirror u l s) := by
  unfold restoreMirror
  repeat' first
    | with_reducible assumption
    | ((with_reducible refine boolGoal ?_); exact rfl)
    | ((with_reducible refine hP.one _ ?_); exact rfl)
    | with_reducible refine hQ.setBytes ?_ ?_
    | with_reducible refine Law.ite ?_ ?_
    | with_reducible refine Law.foldl (fun _ _ _ => ?_) ?_
    | with_reducible refine Law.foldlBy Prod.snd (fun _ _ _ => ?_) ?_
    | with_reducible refine Law.foldlBy Prod.fst (fun _ _ _ => ?_) ?_
    | with_reducible refine optAll.map (fun _ => ?_)
    | ((try lift_lets); (with_reducible intro y); (have hy : Q y := ?_); clear_value y; rotate_left; subst y)
    | ((try lift_lets); (with_reducible intro y); (have hy : Q y.2 := ?_); clear_value y; rotate_left; subst y)
    | ((try lift_lets); (with_reducible intro y); (have hy : Q y.1 := ?_); clear_value y; rotate_left; subst y)
    | ((try lift_lets); (with_reducible intro x); (try clear_value x))
    | split
    | dsimp only

theorem finishRestore_law (hQ : Law P Q) (hP : Has P [.mem]) {u : Nat} {l : Nat} {s : State} (hi0 : P (.one .rpaUnit u))  (h0 : Q s) :
    Q (finishRestore u l s) := by
  unfold finishRestore
  repeat' first
    | with_reducible assumption
    | ((with_reducible refine boolGoal ?_); exact rfl)
    | ((with_reducible refine hP.one _ ?_); exact rfl)
    | with_reducible refine restoreMirror_law hQ (hP.sub rfl) ?_
    | ((with_reducible refine hQ.wrAt hP hi0 ?_ ?_); exact rfl)
    | with_reducible refine hQ.wr hP ?_ ?_
    | with_reducible refine Law.ite ?_ ?_
    | ((try lift_lets); (with_reducible intro x); (try clear_value x))
    | split
    | dsimp only

theorem restoreInit_law (hQ : Law P Q) (hP : Has P [.grp 64, .free, .mem, .procs]) {u : Nat} {l : Nat} {i : Nat} {k : Nat} {s : State}   (h0 : Q s) :
    Q (restoreInit u l i k s) := by
  unfold restoreInit
  repeat' first
    | with_reducible assumption
    | ((with_reducible refine boolGoal ?_); exact rfl)
    | ((with_reducible refine hP.one _ ?_); exact rfl)
    | with_reducible refine fresh_law hQ (hP.sub rfl) ?_
    | with_reducible refine enterRun_law hQ (hP.sub rfl) ?_
    | with_reducible refine hQ.setBytes ?_ ?_
    | with_reducible refine setProc_law hQ (hP.sub rfl) ?_
    | with_reducible refine evt_law hQ (hP.sub rfl) ?_
    | with_reducible refine Law.foldl (fun _ _ _ => ?_) ?_
    | with_reducible refine Law.foldlBy Prod.snd (fun _ _ _ => ?_) ?_
    | with_reducible refine Law.foldlBy Prod.fst (fun _ _ _ => ?_) ?_
    | with_reducible refine optAll.map (fun _ => ?_)
    | ((try lift_lets); (with_reducible intro y); (have hy : Q y := ?_); clear_value y; rotate_left; subst y)
    | ((try lift_lets); (with_reducible intro y); (have hy : Q y.2 := ?_); clear_value y; rotate_left; subst y)
    | ((try lift_lets); (with_reducible intro y); (have hy : Q y.1 := ?_); clear_value y; rotate_left; subst y)
    | ((try lift_lets); (with_reducible intro x); (try clear_value x))
    | split
    | with_reducible exact idLaw ‹_›
    | dsimp only
    | with_reducible refine hQ.free ?_ ?_

theorem nextStrip_law (hQ : Law P Q) (hP : Has P [.all .head, .grp 64, .heads, .rpa]) {l : Nat} {again : Replay → State → State} {go : Tag → State → State} {s : State}  (hf_again : ∀ a0 s1_, Q s1_ → Q (again a0 s1_)) (hf_go : ∀ a0 s1_, Q s1_ → Q (go a0 s1_)) (h0 : Q s) :
    Q (nextStrip l again go s) := by
  unfold nextStrip
  repeat' first
    | with_reducible assumption
    | ((with_reducible refine boolGoal ?_); exact rfl)
    | ((with_reducible refine hP.inst ?_); exact rfl)
    | ((with_reducible refine hP.one _ ?_); exact rfl)
    | with_reducible refine recordDispatch_law hQ (hP.sub rfl) ?_ ?_
    | with_reducible refine takeStrip_law hQ (hP.sub rfl) ?_
    | with_reducible refine evt_law hQ (hP.sub rfl) ?_
    | with_reducible refine hf_again _ _ ?_
    | with_reducible refine hf_go _ _ ?_
    | ((try lift_lets); (with_reducible intro y); (have hy : Q y := ?_); clear_value y; rotate_left; subst y)
    | ((try lift_lets); (with_reducible intro x); (try clear_value x))
    | split
    | dsimp only
    | with_reducible refine hQ.rpa ?_ ?_

theorem divertNext_law (hQ : Law P Q) (hP : Has P [.all .head, .grp 9, .grp 64, .gaps, .heads, .held, .mem, .poison, .power, .progress, .rpa, .sump]) {l : Nat} {s : State}   (h0 : Q s) :
    Q (divertNext l s) := by
  unfold divertNext
  repeat' first
    | with_reducible assumption
    | ((with_reducible refine boolGoal ?_); exact rfl)
    | ((with_reducible refine hP.inst ?_); exact rfl)
    | ((with_reducible refine hP.one _ ?_); exact rfl)
    | with_reducible refine nextStrip_law hQ (hP.sub rfl) (fun _ _ _ => ?_) (fun _ _ _ => ?_) ?_
    | with_reducible refine divertAtRpa_law hQ (hP.sub rfl) ?_ ?_
    | ((try lift_lets); (with_reducible intro x); (try clear_value x))

theorem runNext_law (hQ : Law P Q) (hP : Has P [.all .head, .grp 5, .grp 9, .grp 64, .free, .gaps, .heads, .held, .mem, .poison, .power, .procs, .progress, .rpa, .sump, .tokens]) {l : Nat} {s : State} (hi0 : P (.one .lrp l))  (h0 : Q s) :
    Q (runNext l s) := by
  unfold runNext
  repeat' first
    | with_reducible assumption
    | ((with_reducible refine boolGoal ?_); exact rfl)
    | ((with_reducible refine hP.inst ?_); exact rfl)
    | ((with_reducible refine hP.one _ ?_); exact rfl)
    | with_reducible refine nextStrip_law hQ (hP.sub rfl) (fun _ _ _ => ?_) (fun _ _ _ => ?_) ?_
    | with_reducible refine runReplay_law hQ (hP.sub rfl) ?_ ?_
    | with_reducible refine runStrip_law hQ (hP.sub rfl) ?_ ?_ ?_
    | ((with_reducible refine hQ.satAt hP hi0 ?_ ?_); exact rfl)
    | with_reducible refine hQ.sat hP ?_ ?_
    | with_reducible refine Law.ite ?_ ?_
    | ((try lift_lets); (with_reducible intro y); (have hy : Q y := ?_); clear_value y; rotate_left; subst y)
    | ((try lift_lets); (with_reducible intro y); (have hy : Q y.1 := ?_); clear_value y; rotate_left; subst y)
    | ((try lift_lets); (with_reducible intro x); (try clear_value x))
    | split
    | with_reducible refine hQ.rpa ?_ ?_

theorem execStripRun_law (hQ : Law P Q) (hP : Has P [.all .head, .all .lrp, .all .rpaUnit, .grp 5, .grp 9, .grp 64, .dep, .free, .gaps, .heads, .held, .mem, .poison, .power, .procs, .progress, .rpa, .sump, .tokens]) {l : Nat} {s : State}   (h0 : Q s) :
    outAll Q (execStripRun l s) := by
  unfold execStripRun
  repeat' first
    | with_reducible assumption
    | ((with_reducible refine boolGoal ?_); exact rfl)
    | ((with_reducible refine hP.inst ?_); exact rfl)
    | ((with_reducible refine hP.one _ ?_); exact rfl)
    | with_reducible refine liftHalts_law hQ (hP.sub rfl) ?_
    | with_reducible refine divertNext_law hQ (hP.sub rfl) ?_
    | with_reducible refine restoreInit_law hQ (hP.sub rfl) ?_
    | with_reducible refine finishRestore_law hQ (hP.sub rfl) ?_ ?_
    | with_reducible refine runNext_law hQ (hP.sub rfl) ?_ ?_
    | with_reducible refine Law.ite ?_ ?_
    | with_reducible refine outOk ?_
    | with_reducible exact outFault
    | with_reducible refine outWithin ?_
    | with_reducible refine iteOut ?_ ?_
    | ((try lift_lets); (with_reducible intro y); (have hy : Q y := ?_); clear_value y; rotate_left; subst y)
    | ((try lift_lets); (with_reducible intro y); (have hy : Q y.2 := ?_); clear_value y; rotate_left; subst y)
    | ((try lift_lets); (with_reducible intro y); (have hy : Q y.1 := ?_); clear_value y; rotate_left; subst y)
    | ((try lift_lets); (with_reducible intro x); (try clear_value x))
    | split
    | dsimp only
    | with_reducible refine hQ.dep ?_ ?_

theorem pushWindow_law (hQ : Law P Q) (hP : Has P [.mem, .poison, .procs]) {u : Nat} {r : Run} {p : Proc} {s : State}   (h0 : Q s) :
    Q (pushWindow u r p s) := by
  unfold pushWindow
  repeat' first
    | with_reducible assumption
    | ((with_reducible refine boolGoal ?_); exact rfl)
    | ((with_reducible refine hP.one _ ?_); exact rfl)
    | with_reducible refine hQ.setBytes ?_ ?_
    | with_reducible refine setProc_law hQ (hP.sub rfl) ?_
    | with_reducible refine write64_law hQ (hP.sub rfl) ?_
    | with_reducible refine Law.ite ?_ ?_
    | with_reducible refine optAll.map (fun _ => ?_)
    | ((try lift_lets); (with_reducible intro y); (have hy : Q y := ?_); clear_value y; rotate_left; subst y)
    | ((try lift_lets); (with_reducible intro y); (have hy : Q y.1 := ?_); clear_value y; rotate_left; subst y)
    | ((try lift_lets); (with_reducible intro x); (try clear_value x))
    | split
    | dsimp only

theorem endOfRow_law (hQ : Law P Q) (hP : Has P [.grp 0, .held, .mem, .poison, .procs, .progress, .rpa, .seq]) {u : Nat} {r : Run} {s : State} (hi0 : P (.one .lrp r.lrp))  (h0 : Q s) :
    Q (endOfRow u r s) := by
  unfold endOfRow
  repeat' first
    | with_reducible assumption
    | ((with_reducible refine boolGoal ?_); exact rfl)
    | ((with_reducible refine hP.one _ ?_); exact rfl)
    | with_reducible refine pushWindow_law hQ (hP.sub rfl) ?_
    | with_reducible refine gapBefore_law hQ (hP.sub rfl) ?_
    | with_reducible refine recordRow_law hQ (hP.sub rfl) ?_
    | with_reducible refine setProc_law hQ (hP.sub rfl) ?_
    | with_reducible refine landCopies_law hQ (hP.sub rfl) ?_
    | ((with_reducible refine hQ.wrapAt hP hi0 ?_ ?_); exact rfl)
    | with_reducible refine hQ.wrap hP ?_ ?_
    | ((try lift_lets); (with_reducible intro y); (have hy : Q y := ?_); clear_value y; rotate_left; subst y)
    | ((try lift_lets); (with_reducible intro y); (have hy : Q y.2 := ?_); clear_value y; rotate_left; subst y)
    | ((try lift_lets); (with_reducible intro y); (have hy : Q y.1 := ?_); clear_value y; rotate_left; subst y)
    | ((try lift_lets); (with_reducible intro x); (try clear_value x))
    | dsimp only
    | with_reducible refine hQ.rpa ?_ ?_

theorem endOfRun_law (hQ : Law P Q) (hP : Has P [.all .lrp, .grp 0, .free, .held, .mem, .poison, .procs, .progress, .rpa, .seq]) {u : Nat} {r : Run} {s : State} (hi0 : P (.one .rpaUnit u))  (h0 : Q s) :
    Q (endOfRun u r s) := by
  unfold endOfRun
  repeat' first
    | with_reducible assumption
    | ((with_reducible refine boolGoal ?_); exact rfl)
    | ((with_reducible refine hP.inst ?_); exact rfl)
    | ((with_reducible refine hP.one _ ?_); exact rfl)
    | with_reducible refine finishRestore_law hQ (hP.sub rfl) ?_ ?_
    | with_reducible refine setProc_law hQ (hP.sub rfl) ?_
    | with_reducible refine enterRun_law hQ (hP.sub rfl) ?_
    | with_reducible refine liftHalts_law hQ (hP.sub rfl) ?_
    | with_reducible refine endOfRow_law hQ (hP.sub rfl) ?_ ?_
    | with_reducible refine Law.ite ?_ ?_
    | with_reducible refine optAll.getD ?_ ?_
    | ((try lift_lets); (with_reducible intro y); (have hy : Q y := ?_); clear_value y; rotate_left; subst y)
    | ((try lift_lets); (with_reducible intro y); (have hy : Q y.1 := ?_); clear_value y; rotate_left; subst y)
    | ((try lift_lets); (with_reducible intro x); (try clear_value x))
    | split
    | with_reducible refine hQ.rpa ?_ ?_

theorem endOfCode_law (hQ : Law P Q) (hP : Has P [.seq]) {idx : Nat} {s : State}   (h0 : Q s) :
    Q (endOfCode idx s) := by
  unfold endOfCode
  repeat' first
    | with_reducible assumption
    | ((with_reducible refine boolGoal ?_); exact rfl)
    | ((with_reducible refine hP.one _ ?_); exact rfl)
    | with_reducible refine endCommand_law hQ (hP.sub rfl) ?_
    | with_reducible refine Law.ite ?_ ?_
    | with_reducible refine optAll.getD ?_ ?_
    | ((try lift_lets); (with_reducible intro y); (have hy : Q y := ?_); clear_value y; rotate_left; subst y)
    | ((try lift_lets); (with_reducible intro y); (have hy : Q y.1 := ?_); clear_value y; rotate_left; subst y)
    | ((try lift_lets); (with_reducible intro x); (try clear_value x))
    | split
    | dsimp only
    | with_reducible refine hQ.seq ?_ ?_

theorem execEnd_law (hQ : Law P Q) (hP : Has P [.all .head, .all .lrp, .all .rpaUnit, .grp 0, .grp 9, .grp 64, .free, .gaps, .heads, .held, .mem, .poison, .power, .procs, .progress, .rpa, .sampled, .seq, .sump, .tokens]) {u : Nat} {w : IWord} {s : State} (h0 : Q s) : outAll Q (execEnd u w s) := by
  unfold execEnd
  have h : outAll Q (instr u w {} (fun c p s => if isRp c && endFault s c p then .error pfMIRRORX else .ok (s, p.pc + 1)) s) :=
    instr_law hQ (hP.sub rfl) (fun _ _ _ h => iteExc excError (excPair h)) h0
  dsimp only
  split
  · next t heq =>
    have ht : Q t := h.get heq
    split
    · exact ht
    split
    · exact ht
    split
    · split
      · exact endOfRun_law hQ (hP.sub rfl) (hP.inst rfl) ht
      · exact ht
    · exact endOfCode_law hQ (hP.sub rfl) ht
  · exact h

theorem execRpaLoad_law (hQ : Law P Q) (hP : Has P [.grp 0, .grp 5, .grp 64, .procs, .sampled, .seq, .tokens]) {x : XWord} {s : State}   (h0 : Q s) :
    outAll Q (execRpaLoad x s) := by
  unfold execRpaLoad
  repeat' first
    | with_reducible assumption
    | ((with_reducible refine boolGoal ?_); exact rfl)
    | ((with_reducible refine hP.one _ ?_); exact rfl)
    | with_reducible refine xop_law hQ (hP.sub rfl) (fun _ => ?_) ?_
    | with_reducible refine hQ.wr hP ?_ ?_
    | with_reducible refine Law.ite ?_ ?_
    | with_reducible refine resFin ?_
    | with_reducible refine resNo ?_
    | with_reducible refine resStart ?_
    | with_reducible refine resForm ?_
    | with_reducible refine resGone ?_
    | with_reducible refine resHold ?_
    | with_reducible refine iteRes ?_ ?_
    | with_reducible refine outOk ?_
    | with_reducible exact outFault
    | with_reducible refine outWithin ?_
    | with_reducible refine iteOut ?_ ?_
    | ((try lift_lets); (with_reducible intro x); (try clear_value x))
    | split

theorem execRpaKset_law (hQ : Law P Q) (hP : Has P [.grp 0, .grp 64, .procs, .sampled, .seq, .tokens]) {x : XWord} {s : State}   (h0 : Q s) :
    outAll Q (execRpaKset x s) := by
  unfold execRpaKset
  repeat' first
    | with_reducible assumption
    | ((with_reducible refine boolGoal ?_); exact rfl)
    | ((with_reducible refine hP.one _ ?_); exact rfl)
    | with_reducible refine xop_law hQ (hP.sub rfl) (fun _ => ?_) ?_
    | with_reducible refine Law.ite ?_ ?_
    | with_reducible refine resFin ?_
    | with_reducible refine resNo ?_
    | with_reducible refine resStart ?_
    | with_reducible refine resForm ?_
    | with_reducible refine resGone ?_
    | with_reducible refine resHold ?_
    | with_reducible refine iteRes ?_ ?_
    | with_reducible refine outOk ?_
    | with_reducible exact outFault
    | with_reducible refine outWithin ?_
    | with_reducible refine iteOut ?_ ?_
    | ((try lift_lets); (with_reducible intro y); (have hy : Q y := ?_); clear_value y; rotate_left; subst y)
    | ((try lift_lets); (with_reducible intro x); (try clear_value x))
    | split

theorem execRpaSmwrite_law (hQ : Law P Q) (hP : Has P [.grp 0, .grp 64, .procs, .sampled, .seq, .tokens]) {x : XWord} {s : State}   (h0 : Q s) :
    outAll Q (execRpaSmwrite x s) := by
  unfold execRpaSmwrite
  repeat' first
    | with_reducible assumption
    | ((with_reducible refine boolGoal ?_); exact rfl)
    | ((with_reducible refine hP.one _ ?_); exact rfl)
    | with_reducible refine xop_law hQ (hP.sub rfl) (fun _ => ?_) ?_
    | with_reducible refine Law.ite ?_ ?_
    | with_reducible refine resFin ?_
    | with_reducible refine resNo ?_
    | with_reducible refine resStart ?_
    | with_reducible refine resForm ?_
    | with_reducible refine resGone ?_
    | with_reducible refine resHold ?_
    | with_reducible refine iteRes ?_ ?_
    | with_reducible refine outOk ?_
    | with_reducible exact outFault
    | with_reducible refine outWithin ?_
    | with_reducible refine iteOut ?_ ?_
    | ((try lift_lets); (with_reducible intro y); (have hy : Q y := ?_); clear_value y; rotate_left; subst y)
    | ((try lift_lets); (with_reducible intro x); (try clear_value x))
    | split

theorem execRpaResume_law (hQ : Law P Q) (hP : Has P [.grp 0, .grp 64, .procs, .rpa, .sampled, .seq, .tokens]) {x : XWord} {s : State} (hi0 : P (.one .lrp (xargs s x).i))  (h0 : Q s) :
    outAll Q (execRpaResume x s) := by
  unfold execRpaResume
  repeat' first
    | with_reducible assumption
    | ((with_reducible refine boolGoal ?_); exact rfl)
    | ((with_reducible refine hP.one _ ?_); exact rfl)
    | with_reducible refine direct_law hQ (hP.sub rfl) (fun _ => ?_) ?_
    | with_reducible refine unhalt_law hQ (hP.sub rfl) ?_ ?_
    | with_reducible refine excPair ?_
    | with_reducible refine excState ?_
    | with_reducible exact excError
    | with_reducible refine iteExc ?_ ?_
    | with_reducible refine outOk ?_
    | with_reducible exact outFault
    | with_reducible refine outWithin ?_
    | with_reducible refine iteOut ?_ ?_
    | ((try lift_lets); (with_reducible intro x); (try clear_value x))

theorem execRpaCfg_law (hQ : Law P Q) (hP : Has P [.grp 0, .grp 5, .grp 64, .procs, .sampled, .seq, .tokens]) {x : XWord} {s : State}   (h0 : Q s) :
    outAll Q (execRpaCfg x s) := by
  unfold execRpaCfg
  repeat' first
    | with_reducible assumption
    | ((with_reducible refine boolGoal ?_); exact rfl)
    | ((with_reducible refine hP.one _ ?_); exact rfl)
    | with_reducible refine xop_law hQ (hP.sub rfl) (fun _ => ?_) ?_
    | with_reducible refine hQ.wr hP ?_ ?_
    | ((with_reducible refine hQ.wrAll hP ?_ ?_); simp only [List.all]; exact rfl)
    | with_reducible refine Law.ite ?_ ?_
    | with_reducible refine resFin ?_
    | with_reducible refine resNo ?_
    | with_reducible refine resStart ?_
    | with_reducible refine resForm ?_
    | with_reducible refine resGone ?_
    | with_reducible refine resHold ?_
    | with_reducible refine iteRes ?_ ?_
    | with_reducible refine outOk ?_
    | with_reducible exact outFault
    | with_reducible refine outWithin ?_
    | with_reducible refine iteOut ?_ ?_
    | ((try lift_lets); (with_reducible intro y); (have hy : Q y := ?_); clear_value y; rotate_left; subst y)
    | ((try lift_lets); (with_reducible intro x); (try clear_value x))
    | split

theorem execLoadWaitResume_law (hQ : Law P Q) (hP : Has P [.grp 0, .grp 5, .grp 64, .procs, .sampled, .seq, .tokens]) {s : State}   (h0 : Q s) :
    outAll Q (execLoadWaitResume s) := by
  unfold execLoadWaitResume
  repeat' first
    | with_reducible assumption
    | ((with_reducible refine boolGoal ?_); exact rfl)
    | ((with_reducible refine hP.one _ ?_); exact rfl)
    | with_reducible refine execRpaLoad_law hQ (hP.sub rfl) ?_
    | with_reducible refine hQ.wr hP ?_ ?_
    | with_reducible refine Law.ite ?_ ?_
    | with_reducible refine outOk ?_
    | with_reducible exact outFault
    | with_reducible refine outWithin ?_
    | with_reducible refine iteOut ?_ ?_
    | ((try lift_lets); (with_reducible intro y); (have hy : Q y := ?_); clear_value y; rotate_left; subst y)
    | ((try lift_lets); (with_reducible intro y); (have hy : Q y.1 := ?_); clear_value y; rotate_left; subst y)
    | ((try lift_lets); (with_reducible intro x); (try clear_value x))
    | split
    | dsimp only
    | with_reducible refine hQ.seq ?_ ?_

theorem allocate_law (hQ : Law P Q) (hP : Has P [.all .bank, .rpa]) {ord : Nat} {addr : Nat} {s : State}   (h0 : Q s) :
    Q (allocate ord addr s) := by
  unfold allocate
  repeat' first
    | with_reducible assumption
    | ((with_reducible refine boolGoal ?_); exact rfl)
    | ((with_reducible refine hP.inst ?_); exact rfl)
    | ((with_reducible refine hP.one _ ?_); exact rfl)
    | with_reducible refine hQ.wr hP ?_ ?_
    | with_reducible refine Law.foldl (fun _ _ _ => ?_) ?_
    | with_reducible refine Law.foldlBy Prod.snd (fun _ _ _ => ?_) ?_
    | with_reducible refine Law.foldlBy Prod.fst (fun _ _ _ => ?_) ?_
    | ((try lift_lets); (with_reducible intro y); (have hy : Q y := ?_); clear_value y; rotate_left; subst y)
    | ((try lift_lets); (with_reducible intro y); (have hy : Q y.2 := ?_); clear_value y; rotate_left; subst y)
    | ((try lift_lets); (with_reducible intro y); (have hy : Q y.1 := ?_); clear_value y; rotate_left; subst y)
    | ((try lift_lets); (with_reducible intro x); (try clear_value x))
    | dsimp only
    | with_reducible refine hQ.rpa ?_ ?_

theorem seedMirror_law (hQ : Law P Q) (hP : Has P [.mem, .poison]) {a : Area} {s : State}   (h0 : Q s) :
    Q (seedMirror a s) := by
  unfold seedMirror
  repeat' first
    | with_reducible assumption
    | ((with_reducible refine boolGoal ?_); exact rfl)
    | ((with_reducible refine hP.one _ ?_); exact rfl)
    | with_reducible refine applyLines_law hQ (hP.sub rfl) ?_
    | with_reducible refine Law.ite ?_ ?_
    | with_reducible refine Law.foldl (fun _ _ _ => ?_) ?_
    | with_reducible refine Law.foldlBy Prod.snd (fun _ _ _ => ?_) ?_
    | with_reducible refine Law.foldlBy Prod.fst (fun _ _ _ => ?_) ?_
    | with_reducible refine optAll.map (fun _ => ?_)
    | ((try lift_lets); (with_reducible intro x); (try clear_value x))
    | split
    | dsimp only

theorem installArea_law (hQ : Law P Q) (hP : Has P [.all .bank, .all .lrp, .all .view, .grp 5, .mem, .poison, .rpa]) {c : Copy} {s : State}   (h0 : Q s) :
    Q (installArea c s) := by
  unfold installArea
  repeat' first
    | with_reducible assumption
    | ((with_reducible refine boolGoal ?_); exact rfl)
    | ((with_reducible refine hP.inst ?_); exact rfl)
    | ((with_reducible refine hP.one _ ?_); exact rfl)
    | with_reducible refine hQ.wr hP ?_ ?_
    | with_reducible refine hQ.wr2 hP ?_ ?_
    | with_reducible refine showSbrows_law hQ (hP.sub rfl) ?_
    | with_reducible refine unhalt_law hQ (hP.sub rfl) ?_ ?_
    | with_reducible refine seedMirror_law hQ (hP.sub rfl) ?_
    | with_reducible refine Law.ite ?_ ?_
    | with_reducible refine Law.foldl (fun _ _ _ => ?_) ?_
    | with_reducible refine Law.foldlBy Prod.snd (fun _ _ _ => ?_) ?_
    | with_reducible refine Law.foldlBy Prod.fst (fun _ _ _ => ?_) ?_
    | ((try lift_lets); (with_reducible intro y); (have hy : Q y := ?_); clear_value y; rotate_left; subst y)
    | ((try lift_lets); (with_reducible intro y); (have hy : Q y.2 := ?_); clear_value y; rotate_left; subst y)
    | ((try lift_lets); (with_reducible intro y); (have hy : Q y.1 := ?_); clear_value y; rotate_left; subst y)
    | ((try lift_lets); (with_reducible intro x); (try clear_value x))
    | split
    | dsimp only
    | with_reducible refine hQ.rpa ?_ ?_

theorem lateCopy_law (hQ : Law P Q) (hP : Has P [.progress]) {u : Nat} {c : Copy} {s : State}   (h0 : Q s) :
    Q (lateCopy u c s) := by
  unfold lateCopy
  repeat' first
    | with_reducible assumption
    | ((with_reducible refine boolGoal ?_); exact rfl)
    | ((with_reducible refine hP.one _ ?_); exact rfl)
    | with_reducible refine setProg_law hQ (hP.sub rfl) ?_
    | with_reducible refine Law.ite ?_ ?_
    | with_reducible refine Law.foldl (fun _ _ _ => ?_) ?_
    | with_reducible refine Law.foldlBy Prod.snd (fun _ _ _ => ?_) ?_
    | with_reducible refine Law.foldlBy Prod.fst (fun _ _ _ => ?_) ?_
    | ((try lift_lets); (with_reducible intro y); (have hy : Q y := ?_); clear_value y; rotate_left; subst y)
    | ((try lift_lets); (with_reducible intro y); (have hy : Q y.1 := ?_); clear_value y; rotate_left; subst y)
    | ((try lift_lets); (with_reducible intro x); (try clear_value x))
    | split

theorem execCodeCopyComplete_law (hQ : Law P Q) (hP : Has P [.all .bank, .all .lrp, .all .view, .grp 5, .grp 64, .mem, .poison, .progress, .rpa]) {u : Nat} {s : State}   (h0 : Q s) :
    outAll Q (execCodeCopyComplete u s) := by
  unfold execCodeCopyComplete
  repeat' first
    | with_reducible assumption
    | ((with_reducible refine boolGoal ?_); exact rfl)
    | ((with_reducible refine hP.inst ?_); exact rfl)
    | ((with_reducible refine hP.one _ ?_); exact rfl)
    | with_reducible refine installArea_law hQ (hP.sub rfl) ?_
    | with_reducible refine zeroBytes_law hQ (hP.sub rfl) ?_
    | with_reducible refine lateCopy_law hQ (hP.sub rfl) ?_
    | with_reducible refine hQ.setBytes ?_ ?_
    | with_reducible refine evt_law hQ (hP.sub rfl) ?_
    | with_reducible refine Law.ite ?_ ?_
    | with_reducible refine outOk ?_
    | with_reducible exact outFault
    | with_reducible refine outWithin ?_
    | with_reducible refine iteOut ?_ ?_
    | ((try lift_lets); (with_reducible intro y); (have hy : Q y := ?_); clear_value y; rotate_left; subst y)
    | ((try lift_lets); (with_reducible intro y); (have hy : Q y.1 := ?_); clear_value y; rotate_left; subst y)
    | ((try lift_lets); (with_reducible intro x); (try clear_value x))
    | split
    | dsimp only
    | with_reducible refine hQ.rpa ?_ ?_

theorem rpaCntOne_law (hQ : Law P Q) (hP : Has P []) {l : Nat} {s : State} (hi0 : P (.one .lrp l))  (h0 : Q s) :
    Q (rpaCntOne l s) := by
  unfold rpaCntOne
  repeat' first
    | with_reducible assumption
    | ((with_reducible refine boolGoal ?_); exact rfl)
    | ((with_reducible refine hP.one _ ?_); exact rfl)
    | ((with_reducible refine hQ.clrAt hP hi0 ?_ ?_); simp only [List.all]; exact rfl)
    | ((with_reducible refine hQ.clr hP ?_ ?_); simp only [List.all]; exact rfl)

end Sys2Proof.Machine
end

