-- ==== Sys2Proof/Laws/Statistics.lean ====
section
/-!
SUPPORT. What each function of Machine/Statistics.lean can change: every law of the parts it names survives it.
-/
namespace Sys2Proof.Machine

variable {P : Part → Prop} {Q : State → Prop}

theorem setStats_law (hQ : Law P Q) (hP : Has P [.rpa]) {key : Nat} {b : Stats} {s : State}   (h0 : Q s) :
    Q (setStats key b s) := by
  unfold setStats
  repeat' first
    | with_reducible assumption
    | ((with_reducible refine boolGoal ?_); exact rfl)
    | ((with_reducible refine hP.one _ ?_); exact rfl)
    | ((try lift_lets); (with_reducible intro y); (have hy : Q y := ?_); clear_value y; rotate_left; subst y)
    | ((try lift_lets); (with_reducible intro y); (have hy : Q y.1 := ?_); clear_value y; rotate_left; subst y)
    | ((try lift_lets); (with_reducible intro x); (try clear_value x))
    | with_reducible refine hQ.rpa ?_ ?_

theorem closeStats_law (hQ : Law P Q) (hP : Has P [.grp 64, .free, .mem, .poison, .rpa]) {h : Nat} {k : Nat} {s : State} (hi0 : P (.one .rpaStat h))  (h0 : Q s) :
    Q (closeStats h k s) := by
  unfold closeStats
  repeat' first
    | with_reducible assumption
    | ((with_reducible refine boolGoal ?_); exact rfl)
    | ((with_reducible refine hP.one _ ?_); exact rfl)
    | with_reducible refine setStats_law hQ (hP.sub rfl) ?_
    | with_reducible refine fresh_law hQ (hP.sub rfl) ?_
    | ((with_reducible refine hQ.wrAt hP hi0 ?_ ?_); exact rfl)
    | with_reducible refine hQ.wr hP ?_ ?_
    | ((with_reducible refine hQ.satAt hP hi0 ?_ ?_); exact rfl)
    | with_reducible refine hQ.sat hP ?_ ?_
    | with_reducible refine put_law hQ (hP.sub rfl) ?_
    | ((with_reducible refine hQ.wrapAt hP hi0 ?_ ?_); exact rfl)
    | with_reducible refine hQ.wrap hP ?_ ?_
    | with_reducible refine Law.ite ?_ ?_
    | ((try lift_lets); (with_reducible intro y); (have hy : Q y := ?_); clear_value y; rotate_left; subst y)
    | ((try lift_lets); (with_reducible intro y); (have hy : Q y.2 := ?_); clear_value y; rotate_left; subst y)
    | ((try lift_lets); (with_reducible intro y); (have hy : Q y.1 := ?_); clear_value y; rotate_left; subst y)
    | ((try lift_lets); (with_reducible intro x); (try clear_value x))
    | split
    | dsimp only
    | with_reducible refine hQ.rpa ?_ ?_

theorem addStats_law (hQ : Law P Q) (hP : Has P [.all .rpaStat, .grp 64, .free, .mem, .poison, .rpa]) {o : Strip} {s : State}   (h0 : Q s) :
    Q (addStats o s) := by
  unfold addStats
  repeat' first
    | with_reducible assumption
    | ((with_reducible refine boolGoal ?_); exact rfl)
    | ((with_reducible refine hP.inst ?_); exact rfl)
    | ((with_reducible refine hP.one _ ?_); exact rfl)
    | with_reducible refine closeStats_law hQ (hP.sub rfl) ?_ ?_
    | with_reducible refine setStats_law hQ (hP.sub rfl) ?_
    | with_reducible refine Law.ite ?_ ?_
    | ((try lift_lets); (with_reducible intro y); (have hy : Q y := ?_); clear_value y; rotate_left; subst y)
    | ((try lift_lets); (with_reducible intro y); (have hy : Q y.1 := ?_); clear_value y; rotate_left; subst y)
    | ((try lift_lets); (with_reducible intro x); (try clear_value x))
    | split

theorem addHold_law (hQ : Law P Q) (hP : Has P [.all .rpaStat, .rpa]) {o : Strip} {s : State}   (h0 : Q s) :
    Q (addHold o s) := by
  unfold addHold
  repeat' first
    | with_reducible assumption
    | ((with_reducible refine boolGoal ?_); exact rfl)
    | ((with_reducible refine hP.inst ?_); exact rfl)
    | ((with_reducible refine hP.one _ ?_); exact rfl)
    | with_reducible refine hQ.sat2 hP ?_ ?_
    | with_reducible refine hQ.wr hP ?_ ?_
    | with_reducible refine Law.ite ?_ ?_
    | with_reducible refine Law.foldl (fun _ _ _ => ?_) ?_
    | with_reducible refine Law.foldlBy Prod.snd (fun _ _ _ => ?_) ?_
    | with_reducible refine Law.foldlBy Prod.fst (fun _ _ _ => ?_) ?_
    | ((try lift_lets); (with_reducible intro y); (have hy : Q y := ?_); clear_value y; rotate_left; subst y)
    | ((try lift_lets); (with_reducible intro y); (have hy : Q y.2 := ?_); clear_value y; rotate_left; subst y)
    | ((try lift_lets); (with_reducible intro y); (have hy : Q y.1 := ?_); clear_value y; rotate_left; subst y)
    | ((try lift_lets); (with_reducible intro x); (try clear_value x))
    | split
    | dsimp only
    | with_reducible refine hQ.rpa ?_ ?_

theorem closeAllStats_law (hQ : Law P Q) (hP : Has P [.grp 64, .free, .mem, .poison, .rpa]) {h : Nat} {s : State} (hi0 : P (.one .rpaStat h))  (h0 : Q s) :
    Q (closeAllStats h s) := by
  unfold closeAllStats
  repeat' first
    | with_reducible assumption
    | ((with_reducible refine boolGoal ?_); exact rfl)
    | ((with_reducible refine hP.one _ ?_); exact rfl)
    | with_reducible refine closeStats_law hQ (hP.sub rfl) ?_ ?_
    | with_reducible refine Law.foldl (fun _ _ _ => ?_) ?_
    | with_reducible refine Law.foldlBy Prod.snd (fun _ _ _ => ?_) ?_
    | with_reducible refine Law.foldlBy Prod.fst (fun _ _ _ => ?_) ?_
    | ((try lift_lets); (with_reducible intro x); (try clear_value x))
    | dsimp only

end Sys2Proof.Machine
end

