-- ==== Sys2Proof/Laws/Stitch.lean ====
section
/-!
SUPPORT. What each function of Machine/Stitch.lean can change: every law of the parts it names survives it.
-/
namespace Sys2Proof.Machine

variable {P : Part → Prop} {Q : State → Prop}

theorem showMembers_law (hQ : Law P Q) (hP : Has P [.all .geom]) {s : State}   (h0 : Q s) :
    Q (showMembers s) := by
  unfold showMembers
  repeat' first
    | with_reducible assumption
    | ((with_reducible refine boolGoal ?_); exact rfl)
    | ((with_reducible refine hP.inst ?_); exact rfl)
    | ((with_reducible refine hP.one _ ?_); exact rfl)
    | ((with_reducible refine hQ.wrAll hP ?_ ?_); simp only [List.all]; exact rfl)
    | with_reducible refine Law.foldl (fun _ _ _ => ?_) ?_
    | with_reducible refine Law.foldlBy Prod.snd (fun _ _ _ => ?_) ?_
    | with_reducible refine Law.foldlBy Prod.fst (fun _ _ _ => ?_) ?_
    | with_reducible refine optAll.getD ?_ ?_
    | ((try lift_lets); (with_reducible intro y); (have hy : Q y := ?_); clear_value y; rotate_left; subst y)
    | ((try lift_lets); (with_reducible intro x); (try clear_value x))
    | split
    | dsimp only

theorem writeView_law (hQ : Law P Q) (hP : Has P []) {a : XArgs} {s : State} (hi0 : P (.one .view a.i))  (h0 : Q s) :
    Q (writeView a s) := by
  unfold writeView
  repeat' first
    | with_reducible assumption
    | ((with_reducible refine boolGoal ?_); exact rfl)
    | ((with_reducible refine hP.one _ ?_); exact rfl)
    | ((with_reducible refine hQ.blockWriteAt hP hi0 ?_ ?_); simp only [List.all, viewFields]; exact rfl)
    | ((with_reducible refine hQ.blockWrite hP ?_ ?_); simp only [List.all, viewFields]; exact rfl)
    | ((with_reducible refine hQ.wr2At hP hi0 ?_ ?_); exact rfl)
    | with_reducible refine hQ.wr2 hP ?_ ?_
    | with_reducible refine Law.ite ?_ ?_
    | with_reducible refine Law.foldl (fun _ _ _ => ?_) ?_
    | with_reducible refine Law.foldlBy Prod.snd (fun _ _ _ => ?_) ?_
    | with_reducible refine Law.foldlBy Prod.fst (fun _ _ _ => ?_) ?_
    | ((try lift_lets); (with_reducible intro y); (have hy : Q y := ?_); clear_value y; rotate_left; subst y)
    | ((try lift_lets); (with_reducible intro x); (try clear_value x))
    | split

theorem execSstView_law (hQ : Law P Q) (hP : Has P [.all .geom, .all .view, .grp 0, .grp 64, .procs, .sampled, .seq, .tokens, .views]) {x : XWord} {s : State}   (h0 : Q s) :
    outAll Q (execSstView x s) := by
  unfold execSstView
  repeat' first
    | with_reducible assumption
    | ((with_reducible refine boolGoal ?_); exact rfl)
    | ((with_reducible refine hP.inst ?_); exact rfl)
    | ((with_reducible refine hP.one _ ?_); exact rfl)
    | with_reducible refine direct_law hQ (hP.sub rfl) (fun _ => ?_) ?_
    | with_reducible refine showSbrows_law hQ (hP.sub rfl) ?_
    | with_reducible refine showMembers_law hQ (hP.sub rfl) ?_
    | with_reducible refine writeView_law hQ (hP.sub rfl) ?_ ?_
    | with_reducible refine setView_law hQ (hP.sub rfl) ?_
    | with_reducible refine Law.ite ?_ ?_
    | with_reducible refine excPair ?_
    | with_reducible refine excState ?_
    | with_reducible exact excError
    | with_reducible refine iteExc ?_ ?_
    | with_reducible refine outOk ?_
    | with_reducible exact outFault
    | with_reducible refine outWithin ?_
    | with_reducible refine iteOut ?_ ?_
    | ((try lift_lets); (with_reducible intro y); (have hy : Q y := ?_); clear_value y; rotate_left; subst y)
    | ((try lift_lets); (with_reducible intro y); (have hy : Q y.1 := ?_); clear_value y; rotate_left; subst y)
    | ((try lift_lets); (with_reducible intro x); (try clear_value x))
    | split

theorem execSstEdge_law (hQ : Law P Q) (hP : Has P [.all .view, .grp 0, .grp 64, .procs, .sampled, .seq, .tokens]) {x : XWord} {s : State}   (h0 : Q s) :
    outAll Q (execSstEdge x s) := by
  unfold execSstEdge
  repeat' first
    | with_reducible assumption
    | ((with_reducible refine boolGoal ?_); exact rfl)
    | ((with_reducible refine hP.inst ?_); exact rfl)
    | ((with_reducible refine hP.one _ ?_); exact rfl)
    | ((with_reducible refine blockOp_law hQ (hP.sub rfl) hP ?_ (fun _ _ => ?_) ?_); (simp only [List.all]; exact rfl))
    | with_reducible refine showSbrows_law hQ (hP.sub rfl) ?_
    | with_reducible refine excPair ?_
    | with_reducible refine excState ?_
    | with_reducible exact excError
    | with_reducible refine iteExc ?_ ?_
    | with_reducible refine outOk ?_
    | with_reducible exact outFault
    | with_reducible refine outWithin ?_
    | with_reducible refine iteOut ?_ ?_
    | ((try lift_lets); (with_reducible intro x); (try clear_value x))

theorem execSstGeom_law (hQ : Law P Q) (hP : Has P [.grp 0, .grp 64, .procs, .sampled, .seq, .tokens]) {x : XWord} {s : State}   (h0 : Q s) :
    outAll Q (execSstGeom x s) := by
  unfold execSstGeom
  repeat' first
    | with_reducible assumption
    | ((with_reducible refine boolGoal ?_); exact rfl)
    | ((with_reducible refine hP.one _ ?_); exact rfl)
    | with_reducible refine xop_law hQ (hP.sub rfl) (fun _ => ?_) ?_
    | with_reducible refine Law.ite ?_ ?_
    | with_reducible refine resFin ?_
    | with_reducible refine resNo ?_
    | with_reducible refine resStart ?_
    | with_reducible refine resForm ?_
    | with_reducible refine resGone ?_
    | with_reducible refine resHold ?_
    | with_reducible refine iteRes ?_ ?_
    | with_reducible refine outOk ?_
    | with_reducible exact outFault
    | with_reducible refine outWithin ?_
    | with_reducible refine iteOut ?_ ?_
    | with_reducible refine optAll.map (fun _ => ?_)
    | ((try lift_lets); (with_reducible intro y); (have hy : Q y := ?_); clear_value y; rotate_left; subst y)
    | ((try lift_lets); (with_reducible intro y); (have hy : Q y.1 := ?_); clear_value y; rotate_left; subst y)
    | ((try lift_lets); (with_reducible intro x); (try clear_value x))
    | split
    | dsimp only

theorem execSstSeam_law (hQ : Law P Q) (hP : Has P [.grp 0, .grp 64, .procs, .sampled, .seq, .tokens]) {x : XWord} {s : State}   (h0 : Q s) :
    outAll Q (execSstSeam x s) := by
  unfold execSstSeam
  repeat' first
    | with_reducible assumption
    | ((with_reducible refine boolGoal ?_); exact rfl)
    | ((with_reducible refine hP.one _ ?_); exact rfl)
    | with_reducible refine xop_law hQ (hP.sub rfl) (fun _ => ?_) ?_
    | with_reducible refine Law.ite ?_ ?_
    | with_reducible refine resFin ?_
    | with_reducible refine resNo ?_
    | with_reducible refine resStart ?_
    | with_reducible refine resForm ?_
    | with_reducible refine resGone ?_
    | with_reducible refine resHold ?_
    | with_reducible refine iteRes ?_ ?_
    | with_reducible refine outOk ?_
    | with_reducible exact outFault
    | with_reducible refine outWithin ?_
    | with_reducible refine iteOut ?_ ?_
    | ((try lift_lets); (with_reducible intro x); (try clear_value x))
    | split

theorem execSstBlend_law (hQ : Law P Q) (hP : Has P [.grp 0, .grp 64, .procs, .sampled, .seq, .tokens]) {x : XWord} {s : State}   (h0 : Q s) :
    outAll Q (execSstBlend x s) := by
  unfold execSstBlend
  repeat' first
    | with_reducible assumption
    | ((with_reducible refine boolGoal ?_); exact rfl)
    | ((with_reducible refine hP.one _ ?_); exact rfl)
    | with_reducible refine xop_law hQ (hP.sub rfl) (fun _ => ?_) ?_
    | with_reducible refine Law.ite ?_ ?_
    | with_reducible refine resFin ?_
    | with_reducible refine resNo ?_
    | with_reducible refine resStart ?_
    | with_reducible refine resForm ?_
    | with_reducible refine resGone ?_
    | with_reducible refine resHold ?_
    | with_reducible refine iteRes ?_ ?_
    | with_reducible refine outOk ?_
    | with_reducible exact outFault
    | with_reducible refine outWithin ?_
    | with_reducible refine iteOut ?_ ?_
    | ((try lift_lets); (with_reducible intro y); (have hy : Q y := ?_); clear_value y; rotate_left; subst y)
    | ((try lift_lets); (with_reducible intro x); (try clear_value x))
    | split
    | dsimp only

theorem setSigma_law (hQ : Law P Q) (hP : Has P []) {v : Nat} {k : Nat} {sigma : Int} {held : Bool} {s : State} (hi0 : P (.one .seam v))  (h0 : Q s) :
    Q (setSigma v k sigma held s) := by
  unfold setSigma
  repeat' first
    | with_reducible assumption
    | ((with_reducible refine boolGoal ?_); exact rfl)
    | ((with_reducible refine hP.one _ ?_); exact rfl)
    | ((with_reducible refine hQ.wr2At hP hi0 ?_ ?_); exact rfl)
    | with_reducible refine hQ.wr2 hP ?_ ?_
    | ((with_reducible refine hQ.sat2At hP hi0 ?_ ?_); exact rfl)
    | with_reducible refine hQ.sat2 hP ?_ ?_
    | with_reducible refine Law.ite ?_ ?_
    | ((try lift_lets); (with_reducible intro y); (have hy : Q y := ?_); clear_value y; rotate_left; subst y)
    | ((try lift_lets); (with_reducible intro y); (have hy : Q y.1 := ?_); clear_value y; rotate_left; subst y)
    | ((try lift_lets); (with_reducible intro x); (try clear_value x))
    | split

theorem applySeam_law (hQ : Law P Q) (hP : Has P []) {v : Nat} {w0 : Word} {w1 : Word} {w2 : Word} {s : State} (hi0 : P (.one .seam v))  (h0 : Q s) :
    Q (applySeam v w0 w1 w2 s) := by
  unfold applySeam
  repeat' first
    | with_reducible assumption
    | ((with_reducible refine boolGoal ?_); exact rfl)
    | ((with_reducible refine hP.one _ ?_); exact rfl)
    | ((with_reducible refine hQ.wr2At hP hi0 ?_ ?_); exact rfl)
    | with_reducible refine hQ.wr2 hP ?_ ?_
    | with_reducible refine setSigma_law hQ (hP.sub rfl) ?_ ?_
    | with_reducible refine Law.ite ?_ ?_
    | ((try lift_lets); (with_reducible intro y); (have hy : Q y := ?_); clear_value y; rotate_left; subst y)
    | ((try lift_lets); (with_reducible intro x); (try clear_value x))
    | split
    | dsimp only

theorem sstEff_law (hQ : Law P Q) (hP : Has P [.all .geom, .all .seam, .all .view]) {e : Held} {s : State}   (h0 : Q s) :
    Q (sstEff e s) := by
  unfold sstEff
  repeat' first
    | with_reducible assumption
    | ((with_reducible refine boolGoal ?_); exact rfl)
    | ((with_reducible refine hP.inst ?_); exact rfl)
    | ((with_reducible refine hP.one _ ?_); exact rfl)
    | with_reducible refine hQ.wr2 hP ?_ ?_
    | with_reducible refine applySeam_law hQ (hP.sub rfl) ?_ ?_
    | ((with_reducible refine hQ.wrAll hP ?_ ?_); simp only [List.all]; exact rfl)
    | with_reducible refine hQ.wr hP ?_ ?_
    | with_reducible refine Law.ite ?_ ?_
    | with_reducible refine Law.foldl (fun _ _ _ => ?_) ?_
    | with_reducible refine Law.foldlBy Prod.snd (fun _ _ _ => ?_) ?_
    | with_reducible refine Law.foldlBy Prod.fst (fun _ _ _ => ?_) ?_
    | with_reducible refine optAll.getD ?_ ?_
    | ((try lift_lets); (with_reducible intro y); (have hy : Q y := ?_); clear_value y; rotate_left; subst y)
    | ((try lift_lets); (with_reducible intro y); (have hy : Q y.1 := ?_); clear_value y; rotate_left; subst y)
    | ((try lift_lets); (with_reducible intro x); (try clear_value x))
    | split
    | dsimp only

theorem putItem_law (hQ : Law P Q) (hP : Has P [.store]) {i : StoreItem} {s : State}   (h0 : Q s) :
    Q (putItem i s) := by
  unfold putItem
  repeat' first
    | with_reducible assumption
    | ((with_reducible refine boolGoal ?_); exact rfl)
    | ((with_reducible refine hP.one _ ?_); exact rfl)
    | with_reducible refine Law.ite ?_ ?_
    | ((try lift_lets); (with_reducible intro y); (have hy : Q y := ?_); clear_value y; rotate_left; subst y)
    | ((try lift_lets); (with_reducible intro y); (have hy : Q y.1 := ?_); clear_value y; rotate_left; subst y)
    | ((try lift_lets); (with_reducible intro x); (try clear_value x))
    | split
    | with_reducible refine hQ.store ?_ ?_

theorem commitItem_law (hQ : Law P Q) (hP : Has P [.store]) {c : Nat} {q : StoreItem → Bool} {s : State}   (h0 : Q s) :
    Q (commitItem c q s) := by
  unfold commitItem
  repeat' first
    | with_reducible assumption
    | ((with_reducible refine boolGoal ?_); exact rfl)
    | ((with_reducible refine hP.one _ ?_); exact rfl)
    | ((try lift_lets); (with_reducible intro y); (have hy : Q y := ?_); clear_value y; rotate_left; subst y)
    | ((try lift_lets); (with_reducible intro y); (have hy : Q y.1 := ?_); clear_value y; rotate_left; subst y)
    | ((try lift_lets); (with_reducible intro x); (try clear_value x))
    | with_reducible refine hQ.store ?_ ?_

theorem flushViewGap_law (hQ : Law P Q) (hP : Has P [.all .geom, .all .seam, .all .view, .grp 64, .held, .progress, .store, .views]) {v : Nat} {s : State}   (h0 : Q s) :
    Q (flushViewGap v s) := by
  unfold flushViewGap
  repeat' first
    | with_reducible assumption
    | ((with_reducible refine boolGoal ?_); exact rfl)
    | ((with_reducible refine hP.inst ?_); exact rfl)
    | ((with_reducible refine hP.one _ ?_); exact rfl)
    | with_reducible refine stageGap_law hQ (hP.sub rfl) (fun _ _ _ => ?_) ?_
    | with_reducible refine sstEff_law hQ (hP.sub rfl) ?_
    | with_reducible refine putItem_law hQ (hP.sub rfl) ?_
    | with_reducible refine setView_law hQ (hP.sub rfl) ?_
    | ((try lift_lets); (with_reducible intro y); (have hy : Q y := ?_); clear_value y; rotate_left; subst y)
    | ((try lift_lets); (with_reducible intro y); (have hy : Q y.1 := ?_); clear_value y; rotate_left; subst y)
    | ((try lift_lets); (with_reducible intro x); (try clear_value x))
    | split
    | dsimp only

theorem missViewRow_law (hQ : Law P Q) (hP : Has P [.all .geom, .all .seam, .all .view, .grp 64, .held, .progress, .store, .views]) {v : Nat} {r : PendRow} {s : State}   (h0 : Q s) :
    Q (missViewRow v r s) := by
  unfold missViewRow
  repeat' first
    | with_reducible assumption
    | ((with_reducible refine boolGoal ?_); exact rfl)
    | ((with_reducible refine hP.inst ?_); exact rfl)
    | ((with_reducible refine hP.one _ ?_); exact rfl)
    | with_reducible refine flushViewGap_law hQ (hP.sub rfl) ?_
    | with_reducible refine setView_law hQ (hP.sub rfl) ?_
    | with_reducible refine hQ.sat hP ?_ ?_
    | with_reducible refine Law.ite ?_ ?_
    | with_reducible refine Law.foldl (fun _ _ _ => ?_) ?_
    | with_reducible refine Law.foldlBy Prod.snd (fun _ _ _ => ?_) ?_
    | with_reducible refine Law.foldlBy Prod.fst (fun _ _ _ => ?_) ?_
    | with_reducible refine optAll.getD ?_ ?_
    | ((try lift_lets); (with_reducible intro y); (have hy : Q y := ?_); clear_value y; rotate_left; subst y)
    | ((try lift_lets); (with_reducible intro y); (have hy : Q y.1 := ?_); clear_value y; rotate_left; subst y)
    | ((try lift_lets); (with_reducible intro x); (try clear_value x))
    | split
    | dsimp only

theorem passMember_law (hQ : Law P Q) (hP : Has P [.all .geom, .all .seam, .all .view, .grp 0, .grp 64, .held, .progress, .seq]) {s : State} {m : MemRow}   (h0 : Q s) :
    Q (passMember s m) := by
  unfold passMember
  repeat' first
    | with_reducible assumption
    | ((with_reducible refine boolGoal ?_); exact rfl)
    | ((with_reducible refine hP.inst ?_); exact rfl)
    | ((with_reducible refine hP.one _ ?_); exact rfl)
    | with_reducible refine stageGap_law hQ (hP.sub rfl) (fun _ _ _ => ?_) ?_
    | with_reducible refine sstEff_law hQ (hP.sub rfl) ?_
    | with_reducible refine stageRow_law hQ (hP.sub rfl) (fun _ _ _ => ?_) ?_
    | ((try lift_lets); (with_reducible intro y); (have hy : Q y := ?_); clear_value y; rotate_left; subst y)
    | ((try lift_lets); (with_reducible intro x); (try clear_value x))
    | split
    | dsimp only

theorem dropRow_law (hQ : Law P Q) (hP : Has P [.views]) {v : Nat} {s : State}   (h0 : Q s) :
    Q (dropRow v s) := by
  unfold dropRow
  repeat' first
    | with_reducible assumption
    | ((with_reducible refine boolGoal ?_); exact rfl)
    | ((with_reducible refine hP.one _ ?_); exact rfl)
    | with_reducible refine setView_law hQ (hP.sub rfl) ?_
    | ((try lift_lets); (with_reducible intro y); (have hy : Q y := ?_); clear_value y; rotate_left; subst y)
    | ((try lift_lets); (with_reducible intro y); (have hy : Q y.1 := ?_); clear_value y; rotate_left; subst y)
    | ((try lift_lets); (with_reducible intro x); (try clear_value x))

theorem openView_law (hQ : Law P Q) (hP : Has P [.progress, .views]) {v : Nat} {r : PendRow} {s : State} (hi0 : P (.one .view v))  (h0 : Q s) :
    Q (openView v r s) := by
  unfold openView
  repeat' first
    | with_reducible assumption
    | ((with_reducible refine boolGoal ?_); exact rfl)
    | ((with_reducible refine hP.one _ ?_); exact rfl)
    | with_reducible refine stageStart_law hQ (hP.sub rfl) ?_
    | with_reducible refine setView_law hQ (hP.sub rfl) ?_
    | ((with_reducible refine hQ.wrAllAt hP hi0 ?_ ?_); simp only [List.all]; exact rfl)
    | ((with_reducible refine hQ.wrAll hP ?_ ?_); simp only [List.all]; exact rfl)
    | with_reducible refine Law.foldl (fun _ _ _ => ?_) ?_
    | with_reducible refine Law.foldlBy Prod.snd (fun _ _ _ => ?_) ?_
    | with_reducible refine Law.foldlBy Prod.fst (fun _ _ _ => ?_) ?_
    | with_reducible refine optAll.getD ?_ ?_
    | ((try lift_lets); (with_reducible intro y); (have hy : Q y := ?_); clear_value y; rotate_left; subst y)
    | ((try lift_lets); (with_reducible intro y); (have hy : Q y.1 := ?_); clear_value y; rotate_left; subst y)
    | ((try lift_lets); (with_reducible intro x); (try clear_value x))

theorem settleView_law (hQ : Law P Q) (hP : Has P [.all .geom, .all .seam, .all .view, .grp 0, .grp 64, .held, .progress, .seq, .store, .views])  {x0 : Nat} {x1 : Nat}   {s : State} (h0 : Q s) :
    Q (settleView x0 x1 s) := by
  induction x0 generalizing x1 s with
  | zero =>
    unfold settleView
    repeat' first
      | with_reducible assumption
      | ((with_reducible refine boolGoal ?_); exact rfl)
      | ((with_reducible refine hP.inst ?_); exact rfl)
      | ((with_reducible refine hP.one _ ?_); exact rfl)
      | with_reducible refine dropRow_law hQ (hP.sub rfl) ?_
      | with_reducible refine missViewRow_law hQ (hP.sub rfl) ?_
      | with_reducible refine passMember_law hQ (hP.sub rfl) ?_
      | with_reducible refine openView_law hQ (hP.sub rfl) ?_ ?_
      | with_reducible refine hQ.sat hP ?_ ?_
      | with_reducible refine Law.ite ?_ ?_
      | with_reducible refine Law.foldl (fun _ _ _ => ?_) ?_
      | with_reducible refine Law.foldlBy Prod.snd (fun _ _ _ => ?_) ?_
      | with_reducible refine Law.foldlBy Prod.fst (fun _ _ _ => ?_) ?_
      | ((try lift_lets); (with_reducible intro y); (have hy : Q y := ?_); clear_value y; rotate_left; subst y)
      | ((try lift_lets); (with_reducible intro y); (have hy : Q y.1 := ?_); clear_value y; rotate_left; subst y)
      | ((try lift_lets); (with_reducible intro x); (try clear_value x))
      | split
      | dsimp only
  | succ n ih =>
    unfold settleView
    repeat' first
      | with_reducible assumption
      | with_reducible apply ih
      | ((with_reducible refine boolGoal ?_); exact rfl)
      | ((with_reducible refine hP.inst ?_); exact rfl)
      | ((with_reducible refine hP.one _ ?_); exact rfl)
      | with_reducible refine dropRow_law hQ (hP.sub rfl) ?_
      | with_reducible refine missViewRow_law hQ (hP.sub rfl) ?_
      | with_reducible refine passMember_law hQ (hP.sub rfl) ?_
      | with_reducible refine openView_law hQ (hP.sub rfl) ?_ ?_
      | with_reducible refine hQ.sat hP ?_ ?_
      | with_reducible refine Law.ite ?_ ?_
      | with_reducible refine Law.foldl (fun _ _ _ => ?_) ?_
      | with_reducible refine Law.foldlBy Prod.snd (fun _ _ _ => ?_) ?_
      | with_reducible refine Law.foldlBy Prod.fst (fun _ _ _ => ?_) ?_
      | ((try lift_lets); (with_reducible intro y); (have hy : Q y := ?_); clear_value y; rotate_left; subst y)
      | ((try lift_lets); (with_reducible intro y); (have hy : Q y.1 := ?_); clear_value y; rotate_left; subst y)
      | ((try lift_lets); (with_reducible intro x); (try clear_value x))
      | split
      | dsimp only

theorem takeRemsig_law (hQ : Law P Q) (hP : Has P []) {v : Nat} {n : Nat} {s : State} (hi0 : P (.one .view v))  (h0 : Q s) :
    Q (takeRemsig v n s) := by
  unfold takeRemsig
  repeat' first
    | with_reducible assumption
    | ((with_reducible refine boolGoal ?_); exact rfl)
    | ((with_reducible refine hP.one _ ?_); exact rfl)
    | ((with_reducible refine hQ.wrAt hP hi0 ?_ ?_); exact rfl)
    | with_reducible refine hQ.wr hP ?_ ?_
    | ((with_reducible refine hQ.satAt hP hi0 ?_ ?_); exact rfl)
    | with_reducible refine hQ.sat hP ?_ ?_
    | with_reducible refine Law.ite ?_ ?_
    | ((try lift_lets); (with_reducible intro y); (have hy : Q y := ?_); clear_value y; rotate_left; subst y)
    | ((try lift_lets); (with_reducible intro y); (have hy : Q y.2 := ?_); clear_value y; rotate_left; subst y)
    | ((try lift_lets); (with_reducible intro y); (have hy : Q y.1 := ?_); clear_value y; rotate_left; subst y)
    | ((try lift_lets); (with_reducible intro x); (try clear_value x))
    | split
    | dsimp only

theorem sendViewCuts_law (hQ : Law P Q) (hP : Has P [.cutPkts, .views]) {v : Nat} {ep : Nat} {s : State}   (h0 : Q s) :
    Q (sendViewCuts v ep s) := by
  unfold sendViewCuts
  repeat' first
    | with_reducible assumption
    | ((with_reducible refine boolGoal ?_); exact rfl)
    | ((with_reducible refine hP.one _ ?_); exact rfl)
    | with_reducible refine setView_law hQ (hP.sub rfl) ?_
    | with_reducible refine optAll.map (fun _ => ?_)
    | ((try lift_lets); (with_reducible intro y); (have hy : Q y := ?_); clear_value y; rotate_left; subst y)
    | ((try lift_lets); (with_reducible intro y); (have hy : Q y.1 := ?_); clear_value y; rotate_left; subst y)
    | ((try lift_lets); (with_reducible intro x); (try clear_value x))
    | with_reducible refine hQ.cutPkts ?_ ?_

theorem showShifts_law (hQ : Law P Q) (hP : Has P [.all .geom]) {v : Nat} {s : State}   (h0 : Q s) :
    Q (showShifts v s) := by
  unfold showShifts
  repeat' first
    | with_reducible assumption
    | ((with_reducible refine boolGoal ?_); exact rfl)
    | ((with_reducible refine hP.inst ?_); exact rfl)
    | ((with_reducible refine hP.one _ ?_); exact rfl)
    | with_reducible refine hQ.wrI hP ?_ ?_
    | with_reducible refine Law.foldl (fun _ _ _ => ?_) ?_
    | with_reducible refine Law.foldlBy Prod.snd (fun _ _ _ => ?_) ?_
    | with_reducible refine Law.foldlBy Prod.fst (fun _ _ _ => ?_) ?_
    | ((try lift_lets); (with_reducible intro x); (try clear_value x))
    | dsimp only

theorem beginRow_law (hQ : Law P Q) (hP : Has P [.all .geom, .all .seam, .all .view, .grp 0, .grp 64, .cutPkts, .held, .progress, .seq, .store, .views]) {v : Nat} {r : PendRow} {keep : Bool} {s : State}   (h0 : Q s) :
    Q (beginRow v r keep s).1 := by
  unfold beginRow
  repeat' first
    | with_reducible assumption
    | ((with_reducible refine boolGoal ?_); exact rfl)
    | ((with_reducible refine hP.inst ?_); exact rfl)
    | ((with_reducible refine hP.one _ ?_); exact rfl)
    | with_reducible refine flushViewGap_law hQ (hP.sub rfl) ?_
    | with_reducible refine sendViewCuts_law hQ (hP.sub rfl) ?_
    | with_reducible refine setView_law hQ (hP.sub rfl) ?_
    | with_reducible refine stageRow_law hQ (hP.sub rfl) (fun _ _ _ => ?_) ?_
    | with_reducible refine stageDivert_law hQ (hP.sub rfl) (fun _ _ _ => ?_) ?_
    | with_reducible refine sstEff_law hQ (hP.sub rfl) ?_
    | with_reducible refine passMember_law hQ (hP.sub rfl) ?_
    | with_reducible refine showShifts_law hQ (hP.sub rfl) ?_
    | with_reducible refine takeRemsig_law hQ (hP.sub rfl) ?_ ?_
    | with_reducible refine evt_law hQ (hP.sub rfl) ?_
    | with_reducible refine Law.ite ?_ ?_
    | with_reducible refine Law.foldl (fun _ _ _ => ?_) ?_
    | with_reducible refine Law.foldlBy Prod.snd (fun _ _ _ => ?_) ?_
    | with_reducible refine Law.foldlBy Prod.fst (fun _ _ _ => ?_) ?_
    | with_reducible refine optAll.getD ?_ ?_
    | ((try lift_lets); (with_reducible intro y); (have hy : Q y := ?_); clear_value y; rotate_left; subst y)
    | ((try lift_lets); (with_reducible intro y); (have hy : Q y.1 := ?_); clear_value y; rotate_left; subst y)
    | ((try lift_lets); (with_reducible intro x); (try clear_value x))
    | split

theorem sendEdge_law (hQ : Law P Q) (hP : Has P [.all .wlkPort, .grp 17, .grp 64, .sent, .tokens]) {v : Nat} {n : Nat} {right : Bool} {e : Option EdgeRow} {s : State}   (h0 : Q s) :
    Q (sendEdge v n right e s) := by
  unfold sendEdge
  repeat' first
    | with_reducible assumption
    | ((with_reducible refine boolGoal ?_); exact rfl)
    | ((with_reducible refine hP.inst ?_); exact rfl)
    | ((with_reducible refine hP.one _ ?_); exact rfl)
    | with_reducible refine sendTo_law hQ (hP.sub rfl) ?_
    | ((try lift_lets); (with_reducible intro y); (have hy : Q y := ?_); clear_value y; rotate_left; subst y)
    | ((try lift_lets); (with_reducible intro y); (have hy : Q y.2 := ?_); clear_value y; rotate_left; subst y)
    | ((try lift_lets); (with_reducible intro y); (have hy : Q y.1 := ?_); clear_value y; rotate_left; subst y)
    | ((try lift_lets); (with_reducible intro x); (try clear_value x))
    | split
    | dsimp only

theorem sendEdges_law (hQ : Law P Q) (hP : Has P [.all .geom, .all .seam, .all .view, .all .wlkPort, .grp 0, .grp 17, .grp 64, .cutPkts, .held, .progress, .sent, .seq, .store, .tokens, .views]) {v : Nat} {s : State}   (h0 : Q s) :
    Q (sendEdges v s) := by
  unfold sendEdges
  repeat' first
    | with_reducible assumption
    | ((with_reducible refine boolGoal ?_); exact rfl)
    | ((with_reducible refine hP.inst ?_); exact rfl)
    | ((with_reducible refine hP.one _ ?_); exact rfl)
    | with_reducible refine beginRow_law hQ (hP.sub rfl) ?_
    | with_reducible refine setView_law hQ (hP.sub rfl) ?_
    | with_reducible refine sendEdge_law hQ (hP.sub rfl) ?_
    | with_reducible refine Law.ite ?_ ?_
    | ((try lift_lets); (with_reducible intro y); (have hy : Q y := ?_); clear_value y; rotate_left; subst y)
    | ((try lift_lets); (with_reducible intro y); (have hy : Q y.2 := ?_); clear_value y; rotate_left; subst y)
    | ((try lift_lets); (with_reducible intro y); (have hy : Q y.1 := ?_); clear_value y; rotate_left; subst y)
    | ((try lift_lets); (with_reducible intro x); (try clear_value x))
    | split
    | dsimp only

theorem settleRows_law (hQ : Law P Q) (hP : Has P [.all .geom, .all .seam, .all .view, .all .wlkPort, .grp 0, .grp 17, .grp 64, .cutPkts, .held, .progress, .sent, .seq, .store, .tokens, .views]) {v : Nat} {s : State}   (h0 : Q s) :
    Q (settleRows v s) := by
  unfold settleRows
  repeat' first
    | with_reducible assumption
    | ((with_reducible refine boolGoal ?_); exact rfl)
    | ((with_reducible refine hP.inst ?_); exact rfl)
    | ((with_reducible refine hP.one _ ?_); exact rfl)
    | with_reducible refine sendEdges_law hQ (hP.sub rfl) ?_
    | with_reducible refine settleView_law hQ (hP.sub rfl) ?_

theorem gatherHead_law (hQ : Law P Q) (hP : Has P [.store, .strips]) {o : Strip} {s : State}   (h0 : Q s) :
    Q (gatherHead o s) := by
  unfold gatherHead
  repeat' first
    | with_reducible assumption
    | ((with_reducible refine boolGoal ?_); exact rfl)
    | ((with_reducible refine hP.one _ ?_); exact rfl)
    | with_reducible refine putItem_law hQ (hP.sub rfl) ?_
    | with_reducible refine Law.ite ?_ ?_
    | ((try lift_lets); (with_reducible intro y); (have hy : Q y := ?_); clear_value y; rotate_left; subst y)
    | ((try lift_lets); (with_reducible intro y); (have hy : Q y.1 := ?_); clear_value y; rotate_left; subst y)
    | ((try lift_lets); (with_reducible intro x); (try clear_value x))
    | split
    | with_reducible refine hQ.strips ?_ ?_

theorem markWaited_law (hQ : Law P Q) (hP : Has P [.grp 64, .rpa]) {o : Strip} {os : List Strip} {s : State}   (h0 : Q s) :
    Q (markWaited o os s) := by
  unfold markWaited
  repeat' first
    | with_reducible assumption
    | ((with_reducible refine boolGoal ?_); exact rfl)
    | ((with_reducible refine hP.one _ ?_); exact rfl)
    | with_reducible refine evt_law hQ (hP.sub rfl) ?_
    | with_reducible refine Law.ite ?_ ?_
    | ((try lift_lets); (with_reducible intro y); (have hy : Q y := ?_); clear_value y; rotate_left; subst y)
    | ((try lift_lets); (with_reducible intro x); (try clear_value x))
    | split
    | with_reducible refine hQ.rpa ?_ ?_

theorem intoView_law (hQ : Law P Q) (hP : Has P [.all .geom, .all .seam, .all .view, .all .wlkPort, .grp 0, .grp 17, .grp 64, .cutPkts, .held, .progress, .sent, .seq, .store, .tokens, .views]) {o : Strip} {s : State}   (h0 : Q s) :
    Q (intoView o s) := by
  unfold intoView
  repeat' first
    | with_reducible assumption
    | ((with_reducible refine boolGoal ?_); exact rfl)
    | ((with_reducible refine hP.inst ?_); exact rfl)
    | ((with_reducible refine hP.one _ ?_); exact rfl)
    | with_reducible refine stageRow_law hQ (hP.sub rfl) (fun _ _ _ => ?_) ?_
    | with_reducible refine sstEff_law hQ (hP.sub rfl) ?_
    | with_reducible refine settleRows_law hQ (hP.sub rfl) ?_
    | with_reducible refine setView_law hQ (hP.sub rfl) ?_
    | with_reducible refine Law.ite ?_ ?_
    | with_reducible refine optAll.map (fun _ => ?_)
    | ((try lift_lets); (with_reducible intro y); (have hy : Q y := ?_); clear_value y; rotate_left; subst y)
    | ((try lift_lets); (with_reducible intro y); (have hy : Q y.1 := ?_); clear_value y; rotate_left; subst y)
    | ((try lift_lets); (with_reducible intro x); (try clear_value x))
    | split
    | dsimp only

theorem commitStrip_law (hQ : Law P Q) (hP : Has P [.all .geom, .all .head, .all .rpaStat, .all .seam, .all .view, .all .wlkPort, .grp 0, .grp 17, .grp 64, .commits, .cutPkts, .free, .heads, .held, .mem, .poison, .power, .progress, .rpa, .sent, .seq, .store, .strips, .tokens, .views]) {o : Strip} {s : State}   (h0 : Q s) :
    Q (commitStrip o s) := by
  unfold commitStrip
  repeat' first
    | with_reducible assumption
    | ((with_reducible refine boolGoal ?_); exact rfl)
    | ((with_reducible refine hP.inst ?_); exact rfl)
    | ((with_reducible refine hP.one _ ?_); exact rfl)
    | with_reducible refine addHold_law hQ (hP.sub rfl) ?_
    | with_reducible refine addStats_law hQ (hP.sub rfl) ?_
    | with_reducible refine closeStrip_law hQ (hP.sub rfl) ?_ ?_
    | with_reducible refine settleStrip_law hQ (hP.sub rfl) ?_
    | with_reducible refine gatherHead_law hQ (hP.sub rfl) ?_
    | with_reducible refine intoView_law hQ (hP.sub rfl) ?_
    | with_reducible refine evt_law hQ (hP.sub rfl) ?_
    | ((try lift_lets); (with_reducible intro y); (have hy : Q y := ?_); clear_value y; rotate_left; subst y)
    | ((try lift_lets); (with_reducible intro y); (have hy : Q y.1 := ?_); clear_value y; rotate_left; subst y)
    | ((try lift_lets); (with_reducible intro x); (try clear_value x))
    | with_reducible refine hQ.commits ?_ ?_

theorem stripAccept_law (hQ : Law P Q) (hP : Has P [.all .geom, .all .head, .all .rpaStat, .all .seam, .all .view, .all .wlkPort, .grp 0, .grp 17, .grp 64, .commits, .cutPkts, .free, .heads, .held, .mem, .poison, .power, .progress, .rpa, .sent, .seq, .store, .strips, .tokens, .views]) {l : Nat} {s : State}   (h0 : Q s) :
    Q (stripAccept l s) := by
  unfold stripAccept
  repeat' first
    | with_reducible assumption
    | ((with_reducible refine boolGoal ?_); exact rfl)
    | ((with_reducible refine hP.inst ?_); exact rfl)
    | ((with_reducible refine hP.one _ ?_); exact rfl)
    | with_reducible refine settleStrip_law hQ (hP.sub rfl) ?_
    | with_reducible refine evt_law hQ (hP.sub rfl) ?_
    | with_reducible refine markWaited_law hQ (hP.sub rfl) ?_
    | with_reducible refine commitStrip_law hQ (hP.sub rfl) ?_
    | with_reducible refine Law.ite ?_ ?_
    | ((try lift_lets); (with_reducible intro y); (have hy : Q y := ?_); clear_value y; rotate_left; subst y)
    | ((try lift_lets); (with_reducible intro y); (have hy : Q y.1 := ?_); clear_value y; rotate_left; subst y)
    | ((try lift_lets); (with_reducible intro x); (try clear_value x))
    | split
    | dsimp only
    | with_reducible refine hQ.rpa ?_ ?_

theorem seamUpdate_law (hQ : Law P Q) (hP : Has P [.all .seam, .grp 64]) {v : Nat} {k : Nat} {d : Int} {conf : Nat} {best : Int} {s : State}   (h0 : Q s) :
    Q (seamUpdate v k d conf best s) := by
  unfold seamUpdate
  repeat' first
    | with_reducible assumption
    | ((with_reducible refine boolGoal ?_); exact rfl)
    | ((with_reducible refine hP.inst ?_); exact rfl)
    | ((with_reducible refine hP.one _ ?_); exact rfl)
    | with_reducible refine hQ.wr2 hP ?_ ?_
    | with_reducible refine setSigma_law hQ (hP.sub rfl) ?_ ?_
    | with_reducible refine hQ.sat2 hP ?_ ?_
    | with_reducible refine evt_law hQ (hP.sub rfl) ?_
    | with_reducible refine Law.ite ?_ ?_
    | ((try lift_lets); (with_reducible intro y); (have hy : Q y := ?_); clear_value y; rotate_left; subst y)
    | ((try lift_lets); (with_reducible intro y); (have hy : Q y.1 := ?_); clear_value y; rotate_left; subst y)
    | ((try lift_lets); (with_reducible intro x); (try clear_value x))
    | split
    | dsimp only

theorem updateSeams_law (hQ : Law P Q) (hP : Has P [.all .seam, .grp 64]) {v : Nat} {ksel : Nat} {ds : List Side} {seams : List SeamAt} {right : Option EdgeRow} {s : State}   (h0 : Q s) :
    Q (updateSeams v ksel ds seams right s) := by
  unfold updateSeams
  repeat' first
    | with_reducible assumption
    | ((with_reducible refine boolGoal ?_); exact rfl)
    | ((with_reducible refine hP.inst ?_); exact rfl)
    | ((with_reducible refine hP.one _ ?_); exact rfl)
    | with_reducible refine seamUpdate_law hQ (hP.sub rfl) ?_
    | with_reducible refine hQ.wr2 hP ?_ ?_
    | with_reducible refine hQ.sat2 hP ?_ ?_
    | with_reducible refine evt_law hQ (hP.sub rfl) ?_
    | with_reducible refine Law.ite ?_ ?_
    | with_reducible refine Law.foldl (fun _ _ _ => ?_) ?_
    | with_reducible refine Law.foldlBy Prod.snd (fun _ _ _ => ?_) ?_
    | with_reducible refine Law.foldlBy Prod.fst (fun _ _ _ => ?_) ?_
    | ((try lift_lets); (with_reducible intro y); (have hy : Q y := ?_); clear_value y; rotate_left; subst y)
    | ((try lift_lets); (with_reducible intro y); (have hy : Q y.2 := ?_); clear_value y; rotate_left; subst y)
    | ((try lift_lets); (with_reducible intro y); (have hy : Q y.1 := ?_); clear_value y; rotate_left; subst y)
    | ((try lift_lets); (with_reducible intro x); (try clear_value x))
    | split
    | dsimp only

theorem maskEdges_law (hQ : Law P Q) (hP : Has P []) {v : Nat} {ds : List Side} {slots : Tbl (List Nat)} {s : State} (hi0 : P (.one .view v))  (h0 : Q s) :
    Q (maskEdges v ds slots s).1 := by
  unfold maskEdges
  repeat' first
    | with_reducible assumption
    | ((with_reducible refine boolGoal ?_); exact rfl)
    | ((with_reducible refine hP.one _ ?_); exact rfl)
    | ((with_reducible refine hQ.satAt hP hi0 ?_ ?_); exact rfl)
    | with_reducible refine hQ.sat hP ?_ ?_
    | with_reducible refine Law.ite ?_ ?_
    | ((try lift_lets); (with_reducible intro y); (have hy : Q y := ?_); clear_value y; rotate_left; subst y)
    | ((try lift_lets); (with_reducible intro y); (have hy : Q y.2 := ?_); clear_value y; rotate_left; subst y)
    | ((try lift_lets); (with_reducible intro y); (have hy : Q y.1 := ?_); clear_value y; rotate_left; subst y)
    | ((try lift_lets); (with_reducible intro x); (try clear_value x))
    | split
    | dsimp only

theorem formRow_law (hQ : Law P Q) (hP : Has P [.all .geom, .all .seam, .all .view, .grp 0, .grp 64, .cutPkts, .held, .progress, .seq, .store, .views]) {v : Nat} {r : PendRow} {left : Option EdgeRow} {right : Option EdgeRow} {keep : Bool} {s : State}   (h0 : Q s) :
    Q (formRow v r left right keep s).1 := by
  unfold formRow
  repeat' first
    | with_reducible assumption
    | ((with_reducible refine boolGoal ?_); exact rfl)
    | ((with_reducible refine hP.inst ?_); exact rfl)
    | ((with_reducible refine hP.one _ ?_); exact rfl)
    | with_reducible refine beginRow_law hQ (hP.sub rfl) ?_
    | with_reducible refine hQ.wrI hP ?_ ?_
    | with_reducible refine maskEdges_law hQ (hP.sub rfl) ?_ ?_
    | with_reducible refine updateSeams_law hQ (hP.sub rfl) ?_
    | with_reducible refine setView_law hQ (hP.sub rfl) ?_
    | with_reducible refine hQ.wrap hP ?_ ?_
    | with_reducible refine Law.ite ?_ ?_
    | with_reducible refine Law.foldl (fun _ _ _ => ?_) ?_
    | with_reducible refine Law.foldlBy Prod.snd (fun _ _ _ => ?_) ?_
    | with_reducible refine Law.foldlBy Prod.fst (fun _ _ _ => ?_) ?_
    | ((try lift_lets); (with_reducible intro y); (have hy : Q y := ?_); clear_value y; rotate_left; subst y)
    | ((try lift_lets); (with_reducible intro y); (have hy : Q y.2 := ?_); clear_value y; rotate_left; subst y)
    | ((try lift_lets); (with_reducible intro y); (have hy : Q y.1 := ?_); clear_value y; rotate_left; subst y)
    | ((try lift_lets); (with_reducible intro x); (try clear_value x))
    | split
    | dsimp only

theorem dropEdges_law (hQ : Law P Q) (hP : Has P [.views]) {v : Nat} {n : Nat} {s : State}   (h0 : Q s) :
    Q (dropEdges v n s) := by
  unfold dropEdges
  repeat' first
    | with_reducible assumption
    | ((with_reducible refine boolGoal ?_); exact rfl)
    | ((with_reducible refine hP.one _ ?_); exact rfl)
    | with_reducible refine setView_law hQ (hP.sub rfl) ?_
    | ((try lift_lets); (with_reducible intro y); (have hy : Q y := ?_); clear_value y; rotate_left; subst y)
    | ((try lift_lets); (with_reducible intro y); (have hy : Q y.1 := ?_); clear_value y; rotate_left; subst y)
    | ((try lift_lets); (with_reducible intro x); (try clear_value x))

theorem sendWords_law (hQ : Law P Q) (hP : Has P [.all .wlkPort, .grp 17, .grp 64, .sent, .tokens]) {v : Nat} {it : StoreItem} {s : State}   (h0 : Q s) :
    Q (sendWords v it s) := by
  unfold sendWords
  repeat' first
    | with_reducible assumption
    | ((with_reducible refine boolGoal ?_); exact rfl)
    | ((with_reducible refine hP.inst ?_); exact rfl)
    | ((with_reducible refine hP.one _ ?_); exact rfl)
    | with_reducible refine sendTo_law hQ (hP.sub rfl) ?_
    | with_reducible refine Law.ite ?_ ?_
    | with_reducible refine optAll.getD ?_ ?_
    | ((try lift_lets); (with_reducible intro y); (have hy : Q y := ?_); clear_value y; rotate_left; subst y)
    | ((try lift_lets); (with_reducible intro y); (have hy : Q y.1 := ?_); clear_value y; rotate_left; subst y)
    | ((try lift_lets); (with_reducible intro x); (try clear_value x))
    | split

theorem writeRow_law (hQ : Law P Q) (hP : Has P [.all .geom, .all .seam, .all .view, .all .wlkPort, .grp 0, .grp 17, .grp 64, .cutPkts, .held, .progress, .sent, .seq, .store, .tokens, .views]) {v : Nat} {r : PendRow} {left : Option EdgeRow} {right : Option EdgeRow} {s : State}   (h0 : Q s) :
    Q (writeRow v r left right s) := by
  unfold writeRow
  repeat' first
    | with_reducible assumption
    | ((with_reducible refine boolGoal ?_); exact rfl)
    | ((with_reducible refine hP.inst ?_); exact rfl)
    | ((with_reducible refine hP.one _ ?_); exact rfl)
    | with_reducible refine formRow_law hQ (hP.sub rfl) ?_
    | with_reducible refine dropRow_law hQ (hP.sub rfl) ?_
    | with_reducible refine settleRows_law hQ (hP.sub rfl) ?_
    | with_reducible refine sendWords_law hQ (hP.sub rfl) ?_
    | with_reducible refine putItem_law hQ (hP.sub rfl) ?_
    | with_reducible refine dropEdges_law hQ (hP.sub rfl) ?_
    | with_reducible refine evt_law hQ (hP.sub rfl) ?_
    | ((try lift_lets); (with_reducible intro y); (have hy : Q y := ?_); clear_value y; rotate_left; subst y)
    | ((try lift_lets); (with_reducible intro y); (have hy : Q y.2 := ?_); clear_value y; rotate_left; subst y)
    | ((try lift_lets); (with_reducible intro y); (have hy : Q y.1 := ?_); clear_value y; rotate_left; subst y)
    | ((try lift_lets); (with_reducible intro x); (try clear_value x))
    | dsimp only

theorem viewRowForm_law (hQ : Law P Q) (hP : Has P [.all .geom, .all .seam, .all .view, .all .wlkPort, .grp 0, .grp 17, .grp 64, .cutPkts, .held, .progress, .sent, .seq, .store, .tokens, .views]) {v : Nat} {late : Bool} {s : State}   (h0 : Q s) :
    Q (viewRowForm v late s) := by
  unfold viewRowForm
  repeat' first
    | with_reducible assumption
    | ((with_reducible refine boolGoal ?_); exact rfl)
    | ((with_reducible refine hP.inst ?_); exact rfl)
    | ((with_reducible refine hP.one _ ?_); exact rfl)
    | with_reducible refine writeRow_law hQ (hP.sub rfl) ?_
    | with_reducible refine hQ.sat hP ?_ ?_
    | with_reducible refine Law.ite ?_ ?_
    | ((try lift_lets); (with_reducible intro y); (have hy : Q y := ?_); clear_value y; rotate_left; subst y)
    | ((try lift_lets); (with_reducible intro y); (have hy : Q y.1 := ?_); clear_value y; rotate_left; subst y)
    | ((try lift_lets); (with_reducible intro x); (try clear_value x))
    | split
    | dsimp only

theorem divertView_law (hQ : Law P Q) (hP : Has P [.all .geom, .all .seam, .all .view, .all .wlkPort, .grp 0, .grp 9, .grp 17, .grp 64, .cutPkts, .held, .progress, .sent, .seq, .store, .sump, .tokens, .views]) {v : Nat} {s : State}   (h0 : Q s) :
    Q (divertView v s) := by
  unfold divertView
  repeat' first
    | with_reducible assumption
    | ((with_reducible refine boolGoal ?_); exact rfl)
    | ((with_reducible refine hP.inst ?_); exact rfl)
    | ((with_reducible refine hP.one _ ?_); exact rfl)
    | with_reducible refine formRow_law hQ (hP.sub rfl) ?_
    | with_reducible refine dropRow_law hQ (hP.sub rfl) ?_
    | with_reducible refine dropEdges_law hQ (hP.sub rfl) ?_
    | with_reducible refine settleRows_law hQ (hP.sub rfl) ?_
    | with_reducible refine putItem_law hQ (hP.sub rfl) ?_
    | with_reducible refine setView_law hQ (hP.sub rfl) ?_
    | with_reducible refine note_law hQ (hP.sub rfl) ?_
    | with_reducible refine evt_law hQ (hP.sub rfl) ?_
    | with_reducible refine Law.ite ?_ ?_
    | ((try lift_lets); (with_reducible intro y); (have hy : Q y := ?_); clear_value y; rotate_left; subst y)
    | ((try lift_lets); (with_reducible intro y); (have hy : Q y.2 := ?_); clear_value y; rotate_left; subst y)
    | ((try lift_lets); (with_reducible intro y); (have hy : Q y.1 := ?_); clear_value y; rotate_left; subst y)
    | ((try lift_lets); (with_reducible intro x); (try clear_value x))
    | split
    | dsimp only

theorem putWord_law (hQ : Law P Q) (hP : Has P [.views]) {v : Nat} {n : Nat} {word : Nat} {right : Bool} {s : State}   (h0 : Q s) :
    Q (putWord v n word right s) := by
  unfold putWord
  repeat' first
    | with_reducible assumption
    | ((with_reducible refine boolGoal ?_); exact rfl)
    | ((with_reducible refine hP.one _ ?_); exact rfl)
    | with_reducible refine setView_law hQ (hP.sub rfl) ?_
    | with_reducible refine Law.ite ?_ ?_
    | ((try lift_lets); (with_reducible intro y); (have hy : Q y := ?_); clear_value y; rotate_left; subst y)
    | ((try lift_lets); (with_reducible intro y); (have hy : Q y.1 := ?_); clear_value y; rotate_left; subst y)
    | ((try lift_lets); (with_reducible intro x); (try clear_value x))
    | split
    | dsimp only

theorem execEdgeExchangeReceive_law (hQ : Law P Q) (hP : Has P [.all .wlkPort, .grp 64, .views]) {p : Nat} {v : Nat} {right : Bool} {e : EdgeRow} {s : State}   (h0 : Q s) :
    outAll Q (execEdgeExchangeReceive p v right e s) := by
  unfold execEdgeExchangeReceive
  repeat' first
    | with_reducible assumption
    | ((with_reducible refine boolGoal ?_); exact rfl)
    | ((with_reducible refine hP.inst ?_); exact rfl)
    | ((with_reducible refine hP.one _ ?_); exact rfl)
    | with_reducible refine fromPort_law hQ (hP.sub rfl) ?_ (fun _ _ => ?_) ?_
    | with_reducible refine putWord_law hQ (hP.sub rfl) ?_
    | with_reducible refine setView_law hQ (hP.sub rfl) ?_
    | with_reducible refine Law.ite ?_ ?_
    | with_reducible refine outOk ?_
    | with_reducible exact outFault
    | with_reducible refine outWithin ?_
    | with_reducible refine iteOut ?_ ?_
    | ((try lift_lets); (with_reducible intro y); (have hy : Q y := ?_); clear_value y; rotate_left; subst y)
    | ((try lift_lets); (with_reducible intro y); (have hy : Q y.1 := ?_); clear_value y; rotate_left; subst y)
    | ((try lift_lets); (with_reducible intro x); (try clear_value x))
    | split
    | dsimp only

theorem execBoundaryWordReceive_law (hQ : Law P Q) (hP : Has P [.all .wlkPort, .grp 64, .views]) {p : Nat} {v : Nat} {right : Bool} {n : Nat} {word : Nat} {s : State}   (h0 : Q s) :
    outAll Q (execBoundaryWordReceive p v right n word s) := by
  unfold execBoundaryWordReceive
  repeat' first
    | with_reducible assumption
    | ((with_reducible refine boolGoal ?_); exact rfl)
    | ((with_reducible refine hP.inst ?_); exact rfl)
    | ((with_reducible refine hP.one _ ?_); exact rfl)
    | with_reducible refine fromPort_law hQ (hP.sub rfl) ?_ (fun _ _ => ?_) ?_
    | with_reducible refine putWord_law hQ (hP.sub rfl) ?_
    | with_reducible refine outOk ?_
    | with_reducible exact outFault
    | with_reducible refine outWithin ?_
    | with_reducible refine iteOut ?_ ?_
    | ((try lift_lets); (with_reducible intro y); (have hy : Q y := ?_); clear_value y; rotate_left; subst y)
    | ((try lift_lets); (with_reducible intro x); (try clear_value x))

theorem closeView_law (hQ : Law P Q) (hP : Has P [.all .geom, .all .seam, .all .view, .all .wlkPort, .grp 0, .grp 17, .grp 64, .cutPkts, .held, .progress, .sent, .seq, .store, .tokens, .views]) {v : Nat} {s : State}   (h0 : Q s) :
    Q (closeView v s) := by
  unfold closeView
  repeat' first
    | with_reducible assumption
    | ((with_reducible refine boolGoal ?_); exact rfl)
    | ((with_reducible refine hP.inst ?_); exact rfl)
    | ((with_reducible refine hP.one _ ?_); exact rfl)
    | with_reducible refine setView_law hQ (hP.sub rfl) ?_
    | with_reducible refine settleRows_law hQ (hP.sub rfl) ?_
    | with_reducible refine flushViewGap_law hQ (hP.sub rfl) ?_
    | with_reducible refine hQ.wr hP ?_ ?_
    | with_reducible refine putItem_law hQ (hP.sub rfl) ?_
    | with_reducible refine stageStop_law hQ (hP.sub rfl) (fun _ _ _ => ?_) ?_
    | with_reducible refine sstEff_law hQ (hP.sub rfl) ?_
    | with_reducible refine Law.ite ?_ ?_
    | with_reducible refine optAll.map (fun _ => ?_)
    | ((try lift_lets); (with_reducible intro y); (have hy : Q y := ?_); clear_value y; rotate_left; subst y)
    | ((try lift_lets); (with_reducible intro y); (have hy : Q y.1 := ?_); clear_value y; rotate_left; subst y)
    | ((try lift_lets); (with_reducible intro x); (try clear_value x))
    | split

theorem forgetUnissued_law (hQ : Law P Q) (hP : Has P [.views]) {h : Nat} {s : State}   (h0 : Q s) :
    Q (forgetUnissued h s) := by
  unfold forgetUnissued
  repeat' first
    | with_reducible assumption
    | ((with_reducible refine boolGoal ?_); exact rfl)
    | ((with_reducible refine hP.one _ ?_); exact rfl)
    | with_reducible refine setView_law hQ (hP.sub rfl) ?_
    | with_reducible refine optAll.map (fun _ => ?_)
    | ((try lift_lets); (with_reducible intro y); (have hy : Q y := ?_); clear_value y; rotate_left; subst y)
    | ((try lift_lets); (with_reducible intro y); (have hy : Q y.1 := ?_); clear_value y; rotate_left; subst y)
    | ((try lift_lets); (with_reducible intro x); (try clear_value x))
    | split
    | dsimp only

theorem headGap_law (hQ : Law P Q) (hP : Has P [.all .geom, .all .seam, .all .view, .all .wlkPort, .grp 0, .grp 17, .grp 64, .cutPkts, .held, .progress, .sent, .seq, .store, .strips, .tokens, .views]) {g : GapPkt} {s : State}   (h0 : Q s) :
    Q (headGap g s) := by
  unfold headGap
  repeat' first
    | with_reducible assumption
    | ((with_reducible refine boolGoal ?_); exact rfl)
    | ((with_reducible refine hP.inst ?_); exact rfl)
    | ((with_reducible refine hP.one _ ?_); exact rfl)
    | with_reducible refine putItem_law hQ (hP.sub rfl) ?_
    | with_reducible refine stageGap_law hQ (hP.sub rfl) (fun _ _ _ => ?_) ?_
    | with_reducible refine sstEff_law hQ (hP.sub rfl) ?_
    | with_reducible refine settleRows_law hQ (hP.sub rfl) ?_
    | with_reducible refine setView_law hQ (hP.sub rfl) ?_
    | with_reducible refine Law.ite ?_ ?_
    | with_reducible refine optAll.getD ?_ ?_
    | with_reducible refine optAll.map (fun _ => ?_)
    | ((try lift_lets); (with_reducible intro y); (have hy : Q y := ?_); clear_value y; rotate_left; subst y)
    | ((try lift_lets); (with_reducible intro y); (have hy : Q y.2 := ?_); clear_value y; rotate_left; subst y)
    | ((try lift_lets); (with_reducible intro y); (have hy : Q y.1 := ?_); clear_value y; rotate_left; subst y)
    | ((try lift_lets); (with_reducible intro x); (try clear_value x))
    | split
    | dsimp only
    | with_reducible refine hQ.strips ?_ ?_

theorem sstCntOne_law (hQ : Law P Q) (hP : Has P []) {v : Nat} {s : State} (hi0 : P (.one .seam v)) (hi1 : P (.one .view v))  (h0 : Q s) :
    Q (sstCntOne v s) := by
  unfold sstCntOne
  repeat' first
    | with_reducible assumption
    | ((with_reducible refine boolGoal ?_); exact rfl)
    | ((with_reducible refine hP.one _ ?_); exact rfl)
    | ((with_reducible refine hQ.clrAt hP hi0 ?_ ?_); simp only [List.all]; exact rfl)
    | ((with_reducible refine hQ.clrAt hP hi1 ?_ ?_); simp only [List.all]; exact rfl)
    | ((with_reducible refine hQ.clr2 hP hi0 hi1 ?_ ?_); simp only [List.all]; exact rfl)
    | ((with_reducible refine hQ.clr hP ?_ ?_); simp only [List.all]; exact rfl)
    | ((with_reducible refine hQ.clrRowAt hP hi0 ?_ ?_); exact rfl)
    | ((with_reducible refine hQ.clrRowAt hP hi1 ?_ ?_); exact rfl)
    | with_reducible refine hQ.clrRow hP ?_ ?_
    | ((try lift_lets); (with_reducible intro y); (have hy : Q y := ?_); clear_value y; rotate_left; subst y)
    | ((try lift_lets); (with_reducible intro x); (try clear_value x))

end Sys2Proof.Machine
end

