-- ==== Sys2Proof/Laws/Regions.lean ====
section
/-!
SUPPORT. What each function of Machine/Regions.lean can change: every law of the parts it names survives it.
-/
namespace Sys2Proof.Machine

variable {P : Part → Prop} {Q : State → Prop}

theorem setRtk_law (hQ : Law P Q) (hP : Has P [.recs]) {s : State} {v : Nat} {e : RtkState}   (h0 : Q s) :
    Q (State.setRtk s v e) := by
  unfold State.setRtk
  repeat' first
    | with_reducible assumption
    | ((with_reducible refine boolGoal ?_); exact rfl)
    | ((with_reducible refine hP.one _ ?_); exact rfl)
    | ((try lift_lets); (with_reducible intro y); (have hy : Q y := ?_); clear_value y; rotate_left; subst y)
    | ((try lift_lets); (with_reducible intro y); (have hy : Q y.1 := ?_); clear_value y; rotate_left; subst y)
    | ((try lift_lets); (with_reducible intro x); (try clear_value x))
    | with_reducible refine hQ.recs ?_ ?_

theorem showOpen_law (hQ : Law P Q) (hP : Has P []) {v : Nat} {s : State} (hi0 : P (.one .rtkView v))  (h0 : Q s) :
    Q (showOpen v s) := by
  unfold showOpen
  repeat' first
    | with_reducible assumption
    | ((with_reducible refine boolGoal ?_); exact rfl)
    | ((with_reducible refine hP.one _ ?_); exact rfl)
    | ((with_reducible refine hQ.wrAt hP hi0 ?_ ?_); exact rfl)
    | with_reducible refine hQ.wr hP ?_ ?_
    | ((try lift_lets); (with_reducible intro y); (have hy : Q y := ?_); clear_value y; rotate_left; subst y)
    | ((try lift_lets); (with_reducible intro x); (try clear_value x))

theorem showFifo_law (hQ : Law P Q) (hP : Has P [.grp 7]) {s : State}   (h0 : Q s) :
    Q (showFifo s) := by
  unfold showFifo
  repeat' first
    | with_reducible assumption
    | ((with_reducible refine boolGoal ?_); exact rfl)
    | ((with_reducible refine hP.one _ ?_); exact rfl)
    | with_reducible refine hQ.wr hP ?_ ?_

theorem sendItems_law (hQ : Law P Q) (hP : Has P [.recs]) {is : List RecItem} {s : State}   (h0 : Q s) :
    Q (sendItems is s) := by
  unfold sendItems
  repeat' first
    | with_reducible assumption
    | ((with_reducible refine boolGoal ?_); exact rfl)
    | ((with_reducible refine hP.one _ ?_); exact rfl)
    | ((try lift_lets); (with_reducible intro y); (have hy : Q y := ?_); clear_value y; rotate_left; subst y)
    | ((try lift_lets); (with_reducible intro y); (have hy : Q y.2 := ?_); clear_value y; rotate_left; subst y)
    | ((try lift_lets); (with_reducible intro y); (have hy : Q y.1 := ?_); clear_value y; rotate_left; subst y)
    | ((try lift_lets); (with_reducible intro x); (try clear_value x))
    | dsimp only
    | with_reducible refine hQ.recs ?_ ?_

theorem closeRegions_law (hQ : Law P Q) (hP : Has P [.recs]) {v : Nat} {flag : Nat} {f : FormRow} {rs : List Region} {s : State} (hi0 : P (.one .rtkView v))  (h0 : Q s) :
    Q (closeRegions v flag f rs s) := by
  unfold closeRegions
  repeat' first
    | with_reducible assumption
    | ((with_reducible refine boolGoal ?_); exact rfl)
    | ((with_reducible refine hP.one _ ?_); exact rfl)
    | ((with_reducible refine hQ.satAt hP hi0 ?_ ?_); exact rfl)
    | with_reducible refine hQ.sat hP ?_ ?_
    | with_reducible refine sendItems_law hQ (hP.sub rfl) ?_
    | ((try lift_lets); (with_reducible intro y); (have hy : Q y := ?_); clear_value y; rotate_left; subst y)
    | ((try lift_lets); (with_reducible intro y); (have hy : Q y.1 := ?_); clear_value y; rotate_left; subst y)
    | ((try lift_lets); (with_reducible intro x); (try clear_value x))

theorem closeAll_law (hQ : Law P Q) (hP : Has P [.recs]) {v : Nat} {flag : Nat} {f : FormRow} {s : State} (hi0 : P (.one .rtkView v))  (h0 : Q s) :
    Q (closeAll v flag f s) := by
  unfold closeAll
  repeat' first
    | with_reducible assumption
    | ((with_reducible refine boolGoal ?_); exact rfl)
    | ((with_reducible refine hP.one _ ?_); exact rfl)
    | with_reducible refine showOpen_law hQ (hP.sub rfl) ?_ ?_
    | with_reducible refine closeRegions_law hQ (hP.sub rfl) ?_ ?_
    | with_reducible refine setRtk_law hQ (hP.sub rfl) ?_
    | ((try lift_lets); (with_reducible intro y); (have hy : Q y := ?_); clear_value y; rotate_left; subst y)
    | ((try lift_lets); (with_reducible intro y); (have hy : Q y.1 := ?_); clear_value y; rotate_left; subst y)
    | ((try lift_lets); (with_reducible intro x); (try clear_value x))

theorem rowSteps_law (hQ : Law P Q) (hP : Has P [.grp 9, .grp 64, .recs, .sump]) {v : Nat} {used : Nat} {it : StoreItem} {s : State} (hi0 : P (.one .rtkView v))  (h0 : Q s) :
    Q (rowSteps v used it s) := by
  unfold rowSteps
  repeat' first
    | with_reducible assumption
    | ((with_reducible refine boolGoal ?_); exact rfl)
    | ((with_reducible refine hP.one _ ?_); exact rfl)
    | with_reducible refine setRtk_law hQ (hP.sub rfl) ?_
    | ((with_reducible refine hQ.wrAt hP hi0 ?_ ?_); exact rfl)
    | with_reducible refine hQ.wr hP ?_ ?_
    | with_reducible refine note_law hQ (hP.sub rfl) ?_
    | ((with_reducible refine hQ.satAt hP hi0 ?_ ?_); exact rfl)
    | with_reducible refine hQ.sat hP ?_ ?_
    | with_reducible refine evt_law hQ (hP.sub rfl) ?_
    | with_reducible refine sendItems_law hQ (hP.sub rfl) ?_
    | with_reducible refine showOpen_law hQ (hP.sub rfl) ?_ ?_
    | with_reducible refine closeRegions_law hQ (hP.sub rfl) ?_ ?_
    | with_reducible refine Law.ite ?_ ?_
    | with_reducible refine Law.foldl (fun _ _ _ => ?_) ?_
    | with_reducible refine Law.foldlBy Prod.snd (fun _ _ _ => ?_) ?_
    | with_reducible refine Law.foldlBy Prod.fst (fun _ _ _ => ?_) ?_
    | ((try lift_lets); (with_reducible intro y); (have hy : Q y := ?_); clear_value y; rotate_left; subst y)
    | ((try lift_lets); (with_reducible intro y); (have hy : Q y.1 := ?_); clear_value y; rotate_left; subst y)
    | ((try lift_lets); (with_reducible intro x); (try clear_value x))
    | split

theorem applyPlane_law (hQ : Law P Q) (hP : Has P [.grp 7]) {v : Nat} {w : Nat → Word} {s : State} (hi0 : P (.one .rtkView v))  (h0 : Q s) :
    Q (applyPlane v w s) := by
  unfold applyPlane
  repeat' first
    | with_reducible assumption
    | ((with_reducible refine boolGoal ?_); exact rfl)
    | ((with_reducible refine hP.one _ ?_); exact rfl)
    | ((with_reducible refine hQ.wrAt hP hi0 ?_ ?_); exact rfl)
    | with_reducible refine hQ.wr hP ?_ ?_
    | ((with_reducible refine hQ.wrAllAt hP hi0 ?_ ?_); simp only [List.all]; exact rfl)
    | ((with_reducible refine hQ.wrAll hP ?_ ?_); simp only [List.all]; exact rfl)
    | with_reducible refine optAll.map (fun _ => ?_)
    | ((try lift_lets); (with_reducible intro y); (have hy : Q y := ?_); clear_value y; rotate_left; subst y)
    | ((try lift_lets); (with_reducible intro y); (have hy : Q y.1 := ?_); clear_value y; rotate_left; subst y)
    | ((try lift_lets); (with_reducible intro x); (try clear_value x))

theorem rtkEff_law (hQ : Law P Q) (hP : Has P [.all .rtkView, .grp 7, .recs]) {f : FormRow} {e : Held} {s : State}   (h0 : Q s) :
    Q (rtkEff f e s) := by
  unfold rtkEff
  repeat' first
    | with_reducible assumption
    | ((with_reducible refine boolGoal ?_); exact rfl)
    | ((with_reducible refine hP.inst ?_); exact rfl)
    | ((with_reducible refine hP.one _ ?_); exact rfl)
    | with_reducible refine applyPlane_law hQ (hP.sub rfl) ?_ ?_
    | with_reducible refine closeAll_law hQ (hP.sub rfl) ?_ ?_
    | with_reducible refine hQ.wr hP ?_ ?_
    | ((with_reducible refine hQ.wrAll hP ?_ ?_); simp only [List.all]; exact rfl)
    | with_reducible refine Law.ite ?_ ?_
    | with_reducible refine optAll.getD ?_ ?_
    | ((try lift_lets); (with_reducible intro y); (have hy : Q y := ?_); clear_value y; rotate_left; subst y)
    | ((try lift_lets); (with_reducible intro y); (have hy : Q y.1 := ?_); clear_value y; rotate_left; subst y)
    | ((try lift_lets); (with_reducible intro x); (try clear_value x))
    | split
    | dsimp only

theorem execRtkPlane_law (hQ : Law P Q) (hP : Has P [.grp 0, .grp 64, .procs, .sampled, .seq, .tokens]) {x : XWord} {s : State}   (h0 : Q s) :
    outAll Q (execRtkPlane x s) := by
  unfold execRtkPlane
  repeat' first
    | with_reducible assumption
    | ((with_reducible refine boolGoal ?_); exact rfl)
    | ((with_reducible refine hP.one _ ?_); exact rfl)
    | with_reducible refine xop_law hQ (hP.sub rfl) (fun _ => ?_) ?_
    | with_reducible refine Law.ite ?_ ?_
    | with_reducible refine resFin ?_
    | with_reducible refine resNo ?_
    | with_reducible refine resStart ?_
    | with_reducible refine resForm ?_
    | with_reducible refine resGone ?_
    | with_reducible refine resHold ?_
    | with_reducible refine iteRes ?_ ?_
    | with_reducible refine outOk ?_
    | with_reducible exact outFault
    | with_reducible refine outWithin ?_
    | with_reducible refine iteOut ?_ ?_
    | with_reducible refine optAll.map (fun _ => ?_)
    | ((try lift_lets); (with_reducible intro y); (have hy : Q y := ?_); clear_value y; rotate_left; subst y)
    | ((try lift_lets); (with_reducible intro y); (have hy : Q y.1 := ?_); clear_value y; rotate_left; subst y)
    | ((try lift_lets); (with_reducible intro x); (try clear_value x))
    | split
    | dsimp only

theorem execRtkStraw_law (hQ : Law P Q) (hP : Has P [.grp 0, .grp 64, .procs, .sampled, .seq, .tokens]) {x : XWord} {s : State}   (h0 : Q s) :
    outAll Q (execRtkStraw x s) := by
  unfold execRtkStraw
  repeat' first
    | with_reducible assumption
    | ((with_reducible refine boolGoal ?_); exact rfl)
    | ((with_reducible refine hP.one _ ?_); exact rfl)
    | with_reducible refine xop_law hQ (hP.sub rfl) (fun _ => ?_) ?_
    | with_reducible refine Law.ite ?_ ?_
    | with_reducible refine resFin ?_
    | with_reducible refine resNo ?_
    | with_reducible refine resStart ?_
    | with_reducible refine resForm ?_
    | with_reducible refine resGone ?_
    | with_reducible refine resHold ?_
    | with_reducible refine iteRes ?_ ?_
    | with_reducible refine outOk ?_
    | with_reducible exact outFault
    | with_reducible refine outWithin ?_
    | with_reducible refine iteOut ?_ ?_
    | ((try lift_lets); (with_reducible intro x); (try clear_value x))
    | split

theorem execRtkFeat_law (hQ : Law P Q) (hP : Has P [.grp 0, .grp 64, .procs, .sampled, .seq, .tokens]) {x : XWord} {s : State}   (h0 : Q s) :
    outAll Q (execRtkFeat x s) := by
  unfold execRtkFeat
  repeat' first
    | with_reducible assumption
    | ((with_reducible refine boolGoal ?_); exact rfl)
    | ((with_reducible refine hP.one _ ?_); exact rfl)
    | with_reducible refine xop_law hQ (hP.sub rfl) (fun _ => ?_) ?_
    | with_reducible refine Law.ite ?_ ?_
    | with_reducible refine resFin ?_
    | with_reducible refine resNo ?_
    | with_reducible refine resStart ?_
    | with_reducible refine resForm ?_
    | with_reducible refine resGone ?_
    | with_reducible refine resHold ?_
    | with_reducible refine iteRes ?_ ?_
    | with_reducible refine outOk ?_
    | with_reducible exact outFault
    | with_reducible refine outWithin ?_
    | with_reducible refine iteOut ?_ ?_
    | ((try lift_lets); (with_reducible intro x); (try clear_value x))
    | split

theorem rtkCommit_law (hQ : Law P Q) (hP : Has P [.store]) {v : Nat} {s : State}   (h0 : Q s) :
    Q (rtkCommit v s) := by
  unfold rtkCommit
  repeat' first
    | with_reducible assumption
    | ((with_reducible refine boolGoal ?_); exact rfl)
    | ((with_reducible refine hP.one _ ?_); exact rfl)
    | with_reducible refine commitItem_law hQ (hP.sub rfl) ?_
    | ((try lift_lets); (with_reducible intro x); (try clear_value x))

theorem viewRowProcess_law (hQ : Law P Q) (hP : Has P [.all .rtkView, .grp 0, .grp 7, .grp 9, .grp 64, .held, .progress, .recs, .seq, .store, .sump]) {v : Nat} {s : State}   (h0 : Q s) :
    Q (viewRowProcess v s) := by
  unfold viewRowProcess
  repeat' first
    | with_reducible assumption
    | ((with_reducible refine boolGoal ?_); exact rfl)
    | ((with_reducible refine hP.inst ?_); exact rfl)
    | ((with_reducible refine hP.one _ ?_); exact rfl)
    | with_reducible refine stageRow_law hQ (hP.sub rfl) (fun _ _ _ => ?_) ?_
    | with_reducible refine rtkEff_law hQ (hP.sub rfl) ?_
    | with_reducible refine rtkCommit_law hQ (hP.sub rfl) ?_
    | with_reducible refine sendItems_law hQ (hP.sub rfl) ?_
    | with_reducible refine rowSteps_law hQ (hP.sub rfl) ?_ ?_
    | with_reducible refine evt_law hQ (hP.sub rfl) ?_
    | with_reducible refine Law.ite ?_ ?_
    | ((try lift_lets); (with_reducible intro y); (have hy : Q y := ?_); clear_value y; rotate_left; subst y)
    | ((try lift_lets); (with_reducible intro x); (try clear_value x))
    | split
    | dsimp only

theorem viewGapProcess_law (hQ : Law P Q) (hP : Has P [.all .rtkView, .grp 7, .grp 64, .held, .progress, .recs, .store]) {v : Nat} {s : State}   (h0 : Q s) :
    Q (viewGapProcess v s) := by
  unfold viewGapProcess
  repeat' first
    | with_reducible assumption
    | ((with_reducible refine boolGoal ?_); exact rfl)
    | ((with_reducible refine hP.inst ?_); exact rfl)
    | ((with_reducible refine hP.one _ ?_); exact rfl)
    | with_reducible refine setRtk_law hQ (hP.sub rfl) ?_
    | with_reducible refine closeAll_law hQ (hP.sub rfl) ?_ ?_
    | with_reducible refine stageGap_law hQ (hP.sub rfl) (fun _ _ _ => ?_) ?_
    | with_reducible refine rtkEff_law hQ (hP.sub rfl) ?_
    | with_reducible refine rtkCommit_law hQ (hP.sub rfl) ?_
    | with_reducible refine sendItems_law hQ (hP.sub rfl) ?_
    | with_reducible refine hQ.sat hP ?_ ?_
    | with_reducible refine Law.ite ?_ ?_
    | with_reducible refine optAll.getD ?_ ?_
    | ((try lift_lets); (with_reducible intro y); (have hy : Q y := ?_); clear_value y; rotate_left; subst y)
    | ((try lift_lets); (with_reducible intro y); (have hy : Q y.2 := ?_); clear_value y; rotate_left; subst y)
    | ((try lift_lets); (with_reducible intro y); (have hy : Q y.1 := ?_); clear_value y; rotate_left; subst y)
    | ((try lift_lets); (with_reducible intro x); (try clear_value x))
    | split
    | dsimp only

theorem viewStopProcess_law (hQ : Law P Q) (hP : Has P [.all .rtkView, .grp 0, .grp 7, .grp 64, .held, .progress, .recs, .seq, .store]) {v : Nat} {s : State}   (h0 : Q s) :
    Q (viewStopProcess v s) := by
  unfold viewStopProcess
  repeat' first
    | with_reducible assumption
    | ((with_reducible refine boolGoal ?_); exact rfl)
    | ((with_reducible refine hP.inst ?_); exact rfl)
    | ((with_reducible refine hP.one _ ?_); exact rfl)
    | with_reducible refine stageStop_law hQ (hP.sub rfl) (fun _ _ _ => ?_) ?_
    | with_reducible refine rtkEff_law hQ (hP.sub rfl) ?_
    | with_reducible refine closeAll_law hQ (hP.sub rfl) ?_ ?_
    | with_reducible refine rtkCommit_law hQ (hP.sub rfl) ?_
    | with_reducible refine sendItems_law hQ (hP.sub rfl) ?_
    | with_reducible refine setRtk_law hQ (hP.sub rfl) ?_
    | with_reducible refine Law.ite ?_ ?_
    | ((try lift_lets); (with_reducible intro y); (have hy : Q y := ?_); clear_value y; rotate_left; subst y)
    | ((try lift_lets); (with_reducible intro y); (have hy : Q y.1 := ?_); clear_value y; rotate_left; subst y)
    | ((try lift_lets); (with_reducible intro x); (try clear_value x))
    | split
    | dsimp only

theorem execBoundaryWordTimeout_law (hQ : Law P Q) (hP : Has P [.recs]) {v : Nat} {right : Bool} {s : State} (hi0 : P (.one .rtkView v))  (h0 : Q s) :
    outAll Q (execBoundaryWordTimeout v right s) := by
  unfold execBoundaryWordTimeout
  repeat' first
    | with_reducible assumption
    | ((with_reducible refine boolGoal ?_); exact rfl)
    | ((with_reducible refine hP.one _ ?_); exact rfl)
    | with_reducible refine setRtk_law hQ (hP.sub rfl) ?_
    | ((with_reducible refine hQ.satAt hP hi0 ?_ ?_); exact rfl)
    | with_reducible refine hQ.sat hP ?_ ?_
    | with_reducible refine Law.ite ?_ ?_
    | with_reducible refine outOk ?_
    | with_reducible exact outFault
    | with_reducible refine outWithin ?_
    | with_reducible refine iteOut ?_ ?_
    | ((try lift_lets); (with_reducible intro y); (have hy : Q y := ?_); clear_value y; rotate_left; subst y)
    | ((try lift_lets); (with_reducible intro y); (have hy : Q y.1 := ?_); clear_value y; rotate_left; subst y)
    | ((try lift_lets); (with_reducible intro x); (try clear_value x))
    | split
    | dsimp only

theorem execRtkRecordEnqueue_law (hQ : Law P Q) (hP : Has P [.all .rtkView, .grp 7, .grp 64, .recs]) {s : State}   (h0 : Q s) :
    outAll Q (execRtkRecordEnqueue s) := by
  unfold execRtkRecordEnqueue
  repeat' first
    | with_reducible assumption
    | ((with_reducible refine boolGoal ?_); exact rfl)
    | ((with_reducible refine hP.inst ?_); exact rfl)
    | ((with_reducible refine hP.one _ ?_); exact rfl)
    | with_reducible refine showOpen_law hQ (hP.sub rfl) ?_ ?_
    | with_reducible refine showFifo_law hQ (hP.sub rfl) ?_
    | with_reducible refine evt_law hQ (hP.sub rfl) ?_
    | with_reducible refine Law.ite ?_ ?_
    | with_reducible refine outOk ?_
    | with_reducible exact outFault
    | with_reducible refine outWithin ?_
    | with_reducible refine iteOut ?_ ?_
    | ((try lift_lets); (with_reducible intro y); (have hy : Q y := ?_); clear_value y; rotate_left; subst y)
    | ((try lift_lets); (with_reducible intro y); (have hy : Q y.2 := ?_); clear_value y; rotate_left; subst y)
    | ((try lift_lets); (with_reducible intro y); (have hy : Q y.1 := ?_); clear_value y; rotate_left; subst y)
    | ((try lift_lets); (with_reducible intro x); (try clear_value x))
    | split
    | dsimp only
    | with_reducible refine hQ.recs ?_ ?_

theorem divertRecord_law (hQ : Law P Q) (hP : Has P [.grp 9, .grp 64, .sump]) {skind : Nat} {unit : Nat} {cnt : Field} {i : Nat} {ws : List Word} {s : State}  {B : List Part} (hB : Has P B) (hc_cnt : cnt.okIn B = true)  (h0 : Q s) :
    Q (divertRecord skind unit cnt i ws s) := by
  unfold divertRecord
  repeat' first
    | with_reducible assumption
    | ((with_reducible refine boolGoal ?_); exact rfl)
    | ((with_reducible refine hP.one _ ?_); exact rfl)
    | ((with_reducible refine hQ.wr hB ?_ ?_); (with_reducible assumption))
    | ((with_reducible refine hQ.sat hB ?_ ?_); (with_reducible assumption))
    | ((with_reducible refine hQ.wr2 hB ?_ ?_); (with_reducible assumption))
    | ((with_reducible refine hQ.wrI hB ?_ ?_); (with_reducible assumption))
    | ((with_reducible refine hQ.wrap hB ?_ ?_); (with_reducible assumption))
    | with_reducible refine note_law hQ (hP.sub rfl) ?_
    | with_reducible refine hQ.sat hP ?_ ?_
    | with_reducible refine evt_law hQ (hP.sub rfl) ?_
    | with_reducible refine hQ.wr hB ?_ ?_
    | with_reducible refine hQ.sat hB ?_ ?_
    | with_reducible refine hQ.wr2 hB ?_ ?_
    | with_reducible refine hQ.wrI hB ?_ ?_
    | with_reducible refine hQ.wrap hB ?_ ?_
    | ((try lift_lets); (with_reducible intro y); (have hy : Q y := ?_); clear_value y; rotate_left; subst y)
    | ((try lift_lets); (with_reducible intro y); (have hy : Q y.1 := ?_); clear_value y; rotate_left; subst y)
    | ((try lift_lets); (with_reducible intro x); (try clear_value x))

theorem divertAtRtk_law (hQ : Law P Q) (hP : Has P [.all .rtkView, .grp 9, .grp 64, .recs, .sump]) {s : State}   (h0 : Q s) :
    Q (divertAtRtk s) := by
  unfold divertAtRtk
  repeat' first
    | with_reducible assumption
    | ((with_reducible refine boolGoal ?_); exact rfl)
    | ((with_reducible refine hP.inst ?_); exact rfl)
    | ((with_reducible refine hP.one _ ?_); exact rfl)
    | with_reducible refine showOpen_law hQ (hP.sub rfl) ?_ ?_
    | with_reducible refine divertRecord_law hQ (hP.sub rfl) hP ?_ ?_ 
    | with_reducible refine Law.ite ?_ ?_
    | ((try lift_lets); (with_reducible intro y); (have hy : Q y := ?_); clear_value y; rotate_left; subst y)
    | ((try lift_lets); (with_reducible intro y); (have hy : Q y.2 := ?_); clear_value y; rotate_left; subst y)
    | ((try lift_lets); (with_reducible intro y); (have hy : Q y.1 := ?_); clear_value y; rotate_left; subst y)
    | ((try lift_lets); (with_reducible intro x); (try clear_value x))
    | split
    | dsimp only
    | with_reducible refine hQ.recs ?_ ?_

theorem rtkCntOne_law (hQ : Law P Q) (hP : Has P []) {v : Nat} {s : State} (hi0 : P (.one .rtkView v))  (h0 : Q s) :
    Q (rtkCntOne v s) := by
  unfold rtkCntOne
  repeat' first
    | with_reducible assumption
    | ((with_reducible refine boolGoal ?_); exact rfl)
    | ((with_reducible refine hP.one _ ?_); exact rfl)
    | ((with_reducible refine hQ.clrAt hP hi0 ?_ ?_); simp only [List.all]; exact rfl)
    | ((with_reducible refine hQ.clr hP ?_ ?_); simp only [List.all]; exact rfl)

end Sys2Proof.Machine
end

