-- ==== Sys2Proof/Laws/Classify.lean ====
section
/-!
SUPPORT. What each function of Machine/Classify.lean can change: every law of the parts it names survives it.
-/
namespace Sys2Proof.Machine

variable {P : Part → Prop} {Q : State → Prop}

theorem execRclFeatmap_law (hQ : Law P Q) (hP : Has P [.grp 0, .grp 64, .procs, .sampled, .seq, .tokens]) {x : XWord} {s : State}   (h0 : Q s) :
    outAll Q (execRclFeatmap x s) := by
  unfold execRclFeatmap
  repeat' first
    | with_reducible assumption
    | ((with_reducible refine boolGoal ?_); exact rfl)
    | ((with_reducible refine hP.one _ ?_); exact rfl)
    | with_reducible refine xop_law hQ (hP.sub rfl) (fun _ => ?_) ?_
    | with_reducible refine Law.ite ?_ ?_
    | with_reducible refine resFin ?_
    | with_reducible refine resNo ?_
    | with_reducible refine resStart ?_
    | with_reducible refine resForm ?_
    | with_reducible refine resGone ?_
    | with_reducible refine resHold ?_
    | with_reducible refine iteRes ?_ ?_
    | with_reducible refine outOk ?_
    | with_reducible exact outFault
    | with_reducible refine outWithin ?_
    | with_reducible refine iteOut ?_ ?_
    | ((try lift_lets); (with_reducible intro y); (have hy : Q y := ?_); clear_value y; rotate_left; subst y)
    | ((try lift_lets); (with_reducible intro x); (try clear_value x))
    | split

theorem rclEff_law (hQ : Law P Q) (hP : Has P []) {e : Held} {s : State} (hi0 : P (.one .featMap e.pkt.stream))  (h0 : Q s) :
    Q (rclEff e s) := by
  unfold rclEff
  repeat' first
    | with_reducible assumption
    | ((with_reducible refine boolGoal ?_); exact rfl)
    | ((with_reducible refine hP.one _ ?_); exact rfl)
    | ((with_reducible refine hQ.putWordAt hP hi0 ?_ ?_); exact rfl)
    | with_reducible refine hQ.putWord hP ?_ ?_
    | with_reducible refine Law.ite ?_ ?_
    | with_reducible refine Law.foldl (fun _ _ _ => ?_) ?_
    | with_reducible refine Law.foldlBy Prod.snd (fun _ _ _ => ?_) ?_
    | with_reducible refine Law.foldlBy Prod.fst (fun _ _ _ => ?_) ?_
    | with_reducible refine optAll.getD ?_ ?_
    | ((try lift_lets); (with_reducible intro x); (try clear_value x))
    | split

theorem execRclModel_law (hQ : Law P Q) (hP : Has P [.grp 0, .grp 8, .grp 64, .procs, .sampled, .seq, .tokens]) {x : XWord} {s : State}   (h0 : Q s) :
    outAll Q (execRclModel x s) := by
  unfold execRclModel
  repeat' first
    | with_reducible assumption
    | ((with_reducible refine boolGoal ?_); exact rfl)
    | ((with_reducible refine hP.one _ ?_); exact rfl)
    | with_reducible refine xop_law hQ (hP.sub rfl) (fun _ => ?_) ?_
    | with_reducible refine hQ.wr hP ?_ ?_
    | with_reducible refine Law.ite ?_ ?_
    | with_reducible refine resFin ?_
    | with_reducible refine resNo ?_
    | with_reducible refine resStart ?_
    | with_reducible refine resForm ?_
    | with_reducible refine resGone ?_
    | with_reducible refine resHold ?_
    | with_reducible refine iteRes ?_ ?_
    | with_reducible refine outOk ?_
    | with_reducible exact outFault
    | with_reducible refine outWithin ?_
    | with_reducible refine iteOut ?_ ?_
    | ((try lift_lets); (with_reducible intro x); (try clear_value x))
    | split

theorem execModelWaitResume_law (hQ : Law P Q) (hP : Has P [.grp 0, .grp 8, .grp 64, .procs, .sampled, .seq, .tokens]) {s : State}   (h0 : Q s) :
    outAll Q (execModelWaitResume s) := by
  unfold execModelWaitResume
  repeat' first
    | with_reducible assumption
    | ((with_reducible refine boolGoal ?_); exact rfl)
    | ((with_reducible refine hP.one _ ?_); exact rfl)
    | with_reducible refine execRclModel_law hQ (hP.sub rfl) ?_
    | with_reducible refine hQ.wr hP ?_ ?_
    | with_reducible refine Law.ite ?_ ?_
    | with_reducible refine outOk ?_
    | with_reducible exact outFault
    | with_reducible refine outWithin ?_
    | with_reducible refine iteOut ?_ ?_
    | ((try lift_lets); (with_reducible intro y); (have hy : Q y := ?_); clear_value y; rotate_left; subst y)
    | ((try lift_lets); (with_reducible intro y); (have hy : Q y.1 := ?_); clear_value y; rotate_left; subst y)
    | ((try lift_lets); (with_reducible intro x); (try clear_value x))
    | split
    | dsimp only
    | with_reducible refine hQ.seq ?_ ?_

theorem startModelCopy_law (hQ : Law P Q) (hP : Has P [.recs]) {p : Pkt} {s : State}   (h0 : Q s) :
    optAll Q (startModelCopy p s) := by
  unfold startModelCopy
  repeat' first
    | with_reducible assumption
    | ((with_reducible refine boolGoal ?_); exact rfl)
    | ((with_reducible refine hP.one _ ?_); exact rfl)
    | with_reducible refine optSome ?_
    | with_reducible exact optNone
    | with_reducible refine iteOpt ?_ ?_
    | with_reducible refine optAll.getD ?_ ?_
    | with_reducible refine optAll.map (fun _ => ?_)
    | ((try lift_lets); (with_reducible intro y); (have hy : Q y := ?_); clear_value y; rotate_left; subst y)
    | ((try lift_lets); (with_reducible intro x); (try clear_value x))
    | with_reducible refine hQ.recs ?_ ?_

theorem execModelCopyComplete_law (hQ : Law P Q) (hP : Has P [.grp 8, .grp 64, .progress, .recs]) {s : State}   (h0 : Q s) :
    outAll Q (execModelCopyComplete s) := by
  unfold execModelCopyComplete
  repeat' first
    | with_reducible assumption
    | ((with_reducible refine boolGoal ?_); exact rfl)
    | ((with_reducible refine hP.one _ ?_); exact rfl)
    | with_reducible refine hQ.wr2 hP ?_ ?_
    | with_reducible refine setProg_law hQ (hP.sub rfl) ?_
    | with_reducible refine evt_law hQ (hP.sub rfl) ?_
    | with_reducible refine outOk ?_
    | with_reducible exact outFault
    | with_reducible refine outWithin ?_
    | with_reducible refine iteOut ?_ ?_
    | with_reducible refine Law.foldl (fun _ _ _ => ?_) ?_
    | with_reducible refine Law.foldlBy Prod.snd (fun _ _ _ => ?_) ?_
    | with_reducible refine Law.foldlBy Prod.fst (fun _ _ _ => ?_) ?_
    | with_reducible refine optAll.map (fun _ => ?_)
    | ((try lift_lets); (with_reducible intro y); (have hy : Q y := ?_); clear_value y; rotate_left; subst y)
    | ((try lift_lets); (with_reducible intro y); (have hy : Q y.1 := ?_); clear_value y; rotate_left; subst y)
    | ((try lift_lets); (with_reducible intro x); (try clear_value x))
    | split
    | dsimp only
    | with_reducible refine hQ.recs ?_ ?_

theorem execRecordClassify_law (hQ : Law P Q) (hP : Has P [.all .featMap, .all .rclView, .grp 0, .grp 7, .grp 64, .held, .progress, .recs, .seq]) {s : State}   (h0 : Q s) :
    outAll Q (execRecordClassify s) := by
  unfold execRecordClassify
  repeat' first
    | with_reducible assumption
    | ((with_reducible refine boolGoal ?_); exact rfl)
    | ((with_reducible refine hP.inst ?_); exact rfl)
    | ((with_reducible refine hP.one _ ?_); exact rfl)
    | with_reducible refine evt_law hQ (hP.sub rfl) ?_
    | with_reducible refine stageRow_law hQ (hP.sub rfl) (fun _ _ _ => ?_) ?_
    | with_reducible refine rclEff_law hQ (hP.sub rfl) ?_ ?_
    | with_reducible refine hQ.sat hP ?_ ?_
    | with_reducible refine showFifo_law hQ (hP.sub rfl) ?_
    | with_reducible refine Law.ite ?_ ?_
    | with_reducible refine outOk ?_
    | with_reducible exact outFault
    | with_reducible refine outWithin ?_
    | with_reducible refine iteOut ?_ ?_
    | ((try lift_lets); (with_reducible intro y); (have hy : Q y := ?_); clear_value y; rotate_left; subst y)
    | ((try lift_lets); (with_reducible intro y); (have hy : Q y.2 := ?_); clear_value y; rotate_left; subst y)
    | ((try lift_lets); (with_reducible intro y); (have hy : Q y.1 := ?_); clear_value y; rotate_left; subst y)
    | ((try lift_lets); (with_reducible intro x); (try clear_value x))
    | split
    | dsimp only
    | with_reducible refine hQ.recs ?_ ?_

theorem divertAtRcl_law (hQ : Law P Q) (hP : Has P [.all .rclView, .grp 7, .grp 9, .grp 64, .recs, .sump]) {s : State}   (h0 : Q s) :
    Q (divertAtRcl s) := by
  unfold divertAtRcl
  repeat' first
    | with_reducible assumption
    | ((with_reducible refine boolGoal ?_); exact rfl)
    | ((with_reducible refine hP.inst ?_); exact rfl)
    | ((with_reducible refine hP.one _ ?_); exact rfl)
    | with_reducible refine showFifo_law hQ (hP.sub rfl) ?_
    | with_reducible refine divertRecord_law hQ (hP.sub rfl) hP ?_ ?_ 
    | with_reducible refine Law.ite ?_ ?_
    | ((try lift_lets); (with_reducible intro y); (have hy : Q y := ?_); clear_value y; rotate_left; subst y)
    | ((try lift_lets); (with_reducible intro x); (try clear_value x))
    | split
    | dsimp only
    | with_reducible refine hQ.recs ?_ ?_

theorem passMark_law (hQ : Law P Q) (hP : Has P [.grp 0, .grp 64, .held, .progress, .seq]) {eff : Held → State → State} {stage : Nat} {v : Nat} {k : MarkKind} {s : State}  (hf_eff : ∀ a0 s1_, Q s1_ → Q (eff a0 s1_)) (h0 : Q s) :
    Q (passMark eff stage v k s) := by
  unfold passMark
  repeat' first
    | with_reducible assumption
    | ((with_reducible refine boolGoal ?_); exact rfl)
    | ((with_reducible refine hP.one _ ?_); exact rfl)
    | with_reducible refine stageRow_law hQ (hP.sub rfl) (fun _ _ _ => ?_) ?_
    | with_reducible refine stageGap_law hQ (hP.sub rfl) (fun _ _ _ => ?_) ?_
    | with_reducible refine stageStop_law hQ (hP.sub rfl) (fun _ _ _ => ?_) ?_
    | with_reducible refine hf_eff _ _ ?_
    | ((try lift_lets); (with_reducible intro y); (have hy : Q y := ?_); clear_value y; rotate_left; subst y)
    | ((try lift_lets); (with_reducible intro y); (have hy : Q y.1 := ?_); clear_value y; rotate_left; subst y)
    | ((try lift_lets); (with_reducible intro x); (try clear_value x))
    | split
    | dsimp only

theorem markAtRcl_law (hQ : Law P Q) (hP : Has P [.all .featMap, .grp 0, .grp 64, .held, .progress, .recs, .seq]) {s : State}   (h0 : Q s) :
    Q (markAtRcl s) := by
  unfold markAtRcl
  repeat' first
    | with_reducible assumption
    | ((with_reducible refine boolGoal ?_); exact rfl)
    | ((with_reducible refine hP.inst ?_); exact rfl)
    | ((with_reducible refine hP.one _ ?_); exact rfl)
    | with_reducible refine passMark_law hQ (hP.sub rfl) (fun _ _ _ => ?_) ?_
    | with_reducible refine rclEff_law hQ (hP.sub rfl) ?_ ?_
    | ((try lift_lets); (with_reducible intro y); (have hy : Q y := ?_); clear_value y; rotate_left; subst y)
    | ((try lift_lets); (with_reducible intro x); (try clear_value x))
    | split
    | dsimp only
    | with_reducible refine hQ.recs ?_ ?_

theorem rclCntOne_law (hQ : Law P Q) (hP : Has P []) {v : Nat} {s : State} (hi0 : P (.one .rclView v))  (h0 : Q s) :
    Q (rclCntOne v s) := by
  unfold rclCntOne
  repeat' first
    | with_reducible assumption
    | ((with_reducible refine boolGoal ?_); exact rfl)
    | ((with_reducible refine hP.one _ ?_); exact rfl)
    | ((with_reducible refine hQ.clrAt hP hi0 ?_ ?_); simp only [List.all]; exact rfl)
    | ((with_reducible refine hQ.clr hP ?_ ?_); simp only [List.all]; exact rfl)

end Sys2Proof.Machine
end

