-- ==== Sys2Proof/Laws/Ledger.lean ====
section
/-!
SUPPORT. What each function of Machine/Ledger.lean can change: every law of the parts it names survives it.
-/
namespace Sys2Proof.Machine

variable {P : Part → Prop} {Q : State → Prop}

theorem ringWrite_law (hQ : Law P Q) (hP : Has P [.grp 9, .grp 64, .mem, .poison]) {ws : List Word} {s : State}   (h0 : Q s) :
    Q (ringWrite ws s) := by
  unfold ringWrite
  repeat' first
    | with_reducible assumption
    | ((with_reducible refine boolGoal ?_); exact rfl)
    | ((with_reducible refine hP.one _ ?_); exact rfl)
    | with_reducible refine put_law hQ (hP.sub rfl) ?_
    | with_reducible refine hQ.wr hP ?_ ?_

theorem writeOwn_law (hQ : Law P Q) (hP : Has P [.grp 9, .grp 64, .mem, .poison]) {ws : List Word} {s : State}   (h0 : Q s) :
    Q (writeOwn ws s) := by
  unfold writeOwn
  repeat' first
    | with_reducible assumption
    | ((with_reducible refine boolGoal ?_); exact rfl)
    | ((with_reducible refine hP.one _ ?_); exact rfl)
    | with_reducible refine ringWrite_law hQ (hP.sub rfl) ?_
    | with_reducible refine hQ.wr hP ?_ ?_

theorem holdLive_law (hQ : Law P Q) (hP : Has P [.dlg]) {src : Nat} {skind : Nat} {s : State}   (h0 : Q s) :
    Q (holdLive src skind s) := by
  unfold holdLive
  repeat' first
    | with_reducible assumption
    | ((with_reducible refine boolGoal ?_); exact rfl)
    | ((with_reducible refine hP.one _ ?_); exact rfl)
    | with_reducible refine Law.ite ?_ ?_
    | ((try lift_lets); (with_reducible intro y); (have hy : Q y := ?_); clear_value y; rotate_left; subst y)
    | ((try lift_lets); (with_reducible intro x); (try clear_value x))
    | split
    | with_reducible refine hQ.dlg ?_ ?_

theorem writeCoverage_law (hQ : Law P Q) (hP : Has P [.grp 9, .grp 64, .dlg, .mem, .poison]) {src : Nat} {skind : Nat} {dflags : Nat} {lseq : Nat} {y0 : Int} {y1 : Int} {rows : Nat} {spans : Nat} {s : State}   (h0 : Q s) :
    Q (writeCoverage src skind dflags lseq y0 y1 rows spans s) := by
  unfold writeCoverage
  repeat' first
    | with_reducible assumption
    | ((with_reducible refine boolGoal ?_); exact rfl)
    | ((with_reducible refine hP.one _ ?_); exact rfl)
    | with_reducible refine holdLive_law hQ (hP.sub rfl) ?_
    | with_reducible refine writeOwn_law hQ (hP.sub rfl) ?_
    | with_reducible refine evt_law hQ (hP.sub rfl) ?_
    | with_reducible refine Law.ite ?_ ?_
    | split

theorem dropSpan_law (hQ : Law P Q) (hP : Has P [.sump]) {n : Nat} {s : State}   (h0 : Q s) :
    Q (dropSpan n s) := by
  unfold dropSpan
  repeat' first
    | with_reducible assumption
    | ((with_reducible refine boolGoal ?_); exact rfl)
    | ((with_reducible refine hP.one _ ?_); exact rfl)
    | with_reducible refine setSpan_law hQ (hP.sub rfl) ?_

theorem dlgTakesSpan_law (hQ : Law P Q) (hP : Has P [.grp 9, .grp 64, .dlg, .mem, .poison, .sump]) {n : Nat} {s : State}   (h0 : Q s) :
    Q (dlgTakesSpan n s) := by
  unfold dlgTakesSpan
  repeat' first
    | with_reducible assumption
    | ((with_reducible refine boolGoal ?_); exact rfl)
    | ((with_reducible refine hP.one _ ?_); exact rfl)
    | with_reducible refine dropSpan_law hQ (hP.sub rfl) ?_
    | with_reducible refine hQ.sat hP ?_ ?_
    | with_reducible refine writeCoverage_law hQ (hP.sub rfl) ?_
    | with_reducible refine evt_law hQ (hP.sub rfl) ?_
    | with_reducible refine Law.ite ?_ ?_
    | ((try lift_lets); (with_reducible intro y); (have hy : Q y := ?_); clear_value y; rotate_left; subst y)
    | ((try lift_lets); (with_reducible intro y); (have hy : Q y.1 := ?_); clear_value y; rotate_left; subst y)
    | ((try lift_lets); (with_reducible intro x); (try clear_value x))
    | split
    | with_reducible refine hQ.dlg ?_ ?_

theorem clearTotal_law (hQ : Law P Q) (hP : Has P [.grp 9]) {k : Nat} {s : State}   (h0 : Q s) :
    Q (clearTotal k s) := by
  unfold clearTotal
  repeat' first
    | with_reducible assumption
    | ((with_reducible refine boolGoal ?_); exact rfl)
    | ((with_reducible refine hP.one _ ?_); exact rfl)
    | with_reducible refine hQ.wr2 hP ?_ ?_

theorem dlgTakesTotal_law (hQ : Law P Q) (hP : Has P [.grp 9, .grp 64, .dlg, .mem, .poison]) {k : Nat} {s : State}   (h0 : Q s) :
    Q (dlgTakesTotal k s) := by
  unfold dlgTakesTotal
  repeat' first
    | with_reducible assumption
    | ((with_reducible refine boolGoal ?_); exact rfl)
    | ((with_reducible refine hP.one _ ?_); exact rfl)
    | with_reducible refine clearTotal_law hQ (hP.sub rfl) ?_
    | with_reducible refine writeCoverage_law hQ (hP.sub rfl) ?_
    | with_reducible refine Law.ite ?_ ?_
    | split

theorem fireMarks_law (hQ : Law P Q) (hP : Has P [.grp 64, .markPins, .tokens]) {m : Nat} {n : Nat} {s : State} (hi0 : P (.one .marker m))  (h0 : Q s) :
    Q (fireMarks m n s) := by
  unfold fireMarks
  repeat' first
    | with_reducible assumption
    | ((with_reducible refine boolGoal ?_); exact rfl)
    | ((with_reducible refine hP.one _ ?_); exact rfl)
    | with_reducible refine evt_law hQ (hP.sub rfl) ?_
    | ((with_reducible refine hQ.satAt hP hi0 ?_ ?_); exact rfl)
    | with_reducible refine hQ.sat hP ?_ ?_
    | with_reducible refine emit_law hQ (hP.sub rfl) ?_
    | with_reducible refine Law.ite ?_ ?_
    | ((try lift_lets); (with_reducible intro y); (have hy : Q y := ?_); clear_value y; rotate_left; subst y)
    | ((try lift_lets); (with_reducible intro y); (have hy : Q y.1 := ?_); clear_value y; rotate_left; subst y)
    | ((try lift_lets); (with_reducible intro x); (try clear_value x))
    | split
    | with_reducible refine hQ.markPins ?_ ?_

theorem showMarks_law (hQ : Law P Q) (hP : Has P [.grp 9]) {s : State}   (h0 : Q s) :
    Q (showMarks s) := by
  unfold showMarks
  repeat' first
    | with_reducible assumption
    | ((with_reducible refine boolGoal ?_); exact rfl)
    | ((with_reducible refine hP.one _ ?_); exact rfl)
    | with_reducible refine hQ.wr hP ?_ ?_

theorem scheduleMark_law (hQ : Law P Q) (hP : Has P [.grp 9, .grp 64, .markPins, .marks, .tokens]) {m : Nat} {y : Int} {s : State} (hi0 : P (.one .marker m))  (h0 : Q s) :
    Q (scheduleMark m y s).1 := by
  unfold scheduleMark
  repeat' first
    | with_reducible assumption
    | ((with_reducible refine boolGoal ?_); exact rfl)
    | ((with_reducible refine hP.one _ ?_); exact rfl)
    | ((with_reducible refine hQ.satAt hP hi0 ?_ ?_); exact rfl)
    | with_reducible refine hQ.sat hP ?_ ?_
    | with_reducible refine fireMarks_law hQ (hP.sub rfl) ?_ ?_
    | with_reducible refine showMarks_law hQ (hP.sub rfl) ?_
    | ((with_reducible refine hQ.wrAt hP hi0 ?_ ?_); exact rfl)
    | with_reducible refine hQ.wr hP ?_ ?_
    | with_reducible refine Law.ite ?_ ?_
    | ((try lift_lets); (with_reducible intro y); (have hy : Q y := ?_); clear_value y; rotate_left; subst y)
    | ((try lift_lets); (with_reducible intro y); (have hy : Q y.1 := ?_); clear_value y; rotate_left; subst y)
    | ((try lift_lets); (with_reducible intro x); (try clear_value x))
    | split
    | with_reducible refine hQ.marks ?_ ?_

theorem scheduleMarks_law (hQ : Law P Q) (hP : Has P [.all .marker, .grp 9, .grp 64, .markPins, .marks, .tokens]) {r : List Word} {s : State}   (h0 : Q s) :
    Q (scheduleMarks r s).1 := by
  unfold scheduleMarks
  repeat' first
    | with_reducible assumption
    | ((with_reducible refine boolGoal ?_); exact rfl)
    | ((with_reducible refine hP.inst ?_); exact rfl)
    | ((with_reducible refine hP.one _ ?_); exact rfl)
    | with_reducible refine hQ.sat hP ?_ ?_
    | with_reducible refine scheduleMark_law hQ (hP.sub rfl) ?_ ?_
    | with_reducible refine Law.ite ?_ ?_
    | with_reducible refine Law.foldl (fun _ _ _ => ?_) ?_
    | with_reducible refine Law.foldlBy Prod.snd (fun _ _ _ => ?_) ?_
    | with_reducible refine Law.foldlBy Prod.fst (fun _ _ _ => ?_) ?_
    | ((try lift_lets); (with_reducible intro y); (have hy : Q y := ?_); clear_value y; rotate_left; subst y)
    | ((try lift_lets); (with_reducible intro y); (have hy : Q y.2 := ?_); clear_value y; rotate_left; subst y)
    | ((try lift_lets); (with_reducible intro y); (have hy : Q y.1 := ?_); clear_value y; rotate_left; subst y)
    | ((try lift_lets); (with_reducible intro x); (try clear_value x))
    | split
    | dsimp only

theorem execMarkFire_law (hQ : Law P Q) (hP : Has P [.grp 9, .grp 64, .markPins, .marks, .tokens]) {m : Nat} {s : State} (hi0 : P (.one .marker m))  (h0 : Q s) :
    outAll Q (execMarkFire m s) := by
  unfold execMarkFire
  repeat' first
    | with_reducible assumption
    | ((with_reducible refine boolGoal ?_); exact rfl)
    | ((with_reducible refine hP.one _ ?_); exact rfl)
    | with_reducible refine fire_law hQ (hP.sub rfl) ?_
    | with_reducible refine showMarks_law hQ (hP.sub rfl) ?_
    | with_reducible refine fireMarks_law hQ (hP.sub rfl) ?_ ?_
    | with_reducible refine Law.ite ?_ ?_
    | with_reducible refine outOk ?_
    | with_reducible exact outFault
    | with_reducible refine outWithin ?_
    | with_reducible refine iteOut ?_ ?_
    | ((try lift_lets); (with_reducible intro y); (have hy : Q y := ?_); clear_value y; rotate_left; subst y)
    | ((try lift_lets); (with_reducible intro x); (try clear_value x))
    | split
    | with_reducible refine hQ.marks ?_ ?_

theorem execMarkPulseEnd_law (hQ : Law P Q) (hP : Has P [.markPins]) {m : Nat} {s : State}   (h0 : Q s) :
    outAll Q (execMarkPulseEnd m s) := by
  unfold execMarkPulseEnd
  repeat' first
    | with_reducible assumption
    | ((with_reducible refine boolGoal ?_); exact rfl)
    | ((with_reducible refine hP.one _ ?_); exact rfl)
    | with_reducible refine outOk ?_
    | with_reducible exact outFault
    | with_reducible refine outWithin ?_
    | with_reducible refine iteOut ?_ ?_
    | ((try lift_lets); (with_reducible intro y); (have hy : Q y := ?_); clear_value y; rotate_left; subst y)
    | ((try lift_lets); (with_reducible intro y); (have hy : Q y.1 := ?_); clear_value y; rotate_left; subst y)
    | ((try lift_lets); (with_reducible intro x); (try clear_value x))
    | with_reducible refine hQ.markPins ?_ ?_

theorem execDlgMarkcfg_law (hQ : Law P Q) (hP : Has P [.all .marker, .grp 0, .grp 64, .procs, .sampled, .seq, .tokens]) {x : XWord} {s : State}   (h0 : Q s) :
    outAll Q (execDlgMarkcfg x s) := by
  unfold execDlgMarkcfg
  repeat' first
    | with_reducible assumption
    | ((with_reducible refine boolGoal ?_); exact rfl)
    | ((with_reducible refine hP.inst ?_); exact rfl)
    | ((with_reducible refine hP.one _ ?_); exact rfl)
    | with_reducible refine direct_law hQ (hP.sub rfl) (fun _ => ?_) ?_
    | ((with_reducible refine hQ.blockWrite hP ?_ ?_); simp only [List.all, markerFields]; exact rfl)
    | with_reducible refine hQ.putWord hP ?_ ?_
    | with_reducible refine Law.ite ?_ ?_
    | with_reducible refine excPair ?_
    | with_reducible refine excState ?_
    | with_reducible exact excError
    | with_reducible refine iteExc ?_ ?_
    | with_reducible refine outOk ?_
    | with_reducible exact outFault
    | with_reducible refine outWithin ?_
    | with_reducible refine iteOut ?_ ?_
    | with_reducible refine Law.foldl (fun _ _ _ => ?_) ?_
    | with_reducible refine Law.foldlBy Prod.snd (fun _ _ _ => ?_) ?_
    | with_reducible refine Law.foldlBy Prod.fst (fun _ _ _ => ?_) ?_
    | ((try lift_lets); (with_reducible intro y); (have hy : Q y := ?_); clear_value y; rotate_left; subst y)
    | ((try lift_lets); (with_reducible intro x); (try clear_value x))
    | split

theorem execDlgMlate_law (hQ : Law P Q) (hP : Has P [.grp 0, .grp 9, .grp 64, .procs, .sampled, .seq, .tokens]) {x : XWord} {s : State}   (h0 : Q s) :
    outAll Q (execDlgMlate x s) := by
  unfold execDlgMlate
  repeat' first
    | with_reducible assumption
    | ((with_reducible refine boolGoal ?_); exact rfl)
    | ((with_reducible refine hP.one _ ?_); exact rfl)
    | with_reducible refine xop_law hQ (hP.sub rfl) (fun _ => ?_) ?_
    | with_reducible refine hQ.wr hP ?_ ?_
    | with_reducible refine resFin ?_
    | with_reducible refine resNo ?_
    | with_reducible refine resStart ?_
    | with_reducible refine resForm ?_
    | with_reducible refine resGone ?_
    | with_reducible refine resHold ?_
    | with_reducible refine iteRes ?_ ?_
    | with_reducible refine outOk ?_
    | with_reducible exact outFault
    | with_reducible refine outWithin ?_
    | with_reducible refine iteOut ?_ ?_
    | ((try lift_lets); (with_reducible intro x); (try clear_value x))

theorem execDlgRing_law (hQ : Law P Q) (hP : Has P [.grp 0, .grp 9, .grp 64, .dlg, .procs, .sampled, .seq, .tokens]) {x : XWord} {s : State} (hi0 : P (.one .dlgView (xargs s x).i))  (h0 : Q s) :
    outAll Q (execDlgRing x s) := by
  unfold execDlgRing
  repeat' first
    | with_reducible assumption
    | ((with_reducible refine boolGoal ?_); exact rfl)
    | ((with_reducible refine hP.one _ ?_); exact rfl)
    | with_reducible refine xop_law hQ (hP.sub rfl) (fun _ => ?_) ?_
    | ((with_reducible refine hQ.blockWriteAt hP hi0 ?_ ?_); simp only [List.all]; exact rfl)
    | ((with_reducible refine hQ.blockWrite hP ?_ ?_); simp only [List.all]; exact rfl)
    | ((with_reducible refine hQ.wrAllAt hP hi0 ?_ ?_); simp only [List.all]; exact rfl)
    | ((with_reducible refine hQ.wrAll hP ?_ ?_); simp only [List.all]; exact rfl)
    | with_reducible refine Law.ite ?_ ?_
    | with_reducible refine resFin ?_
    | with_reducible refine resNo ?_
    | with_reducible refine resStart ?_
    | with_reducible refine resForm ?_
    | with_reducible refine resGone ?_
    | with_reducible refine resHold ?_
    | with_reducible refine iteRes ?_ ?_
    | with_reducible refine outOk ?_
    | with_reducible exact outFault
    | with_reducible refine outWithin ?_
    | with_reducible refine iteOut ?_ ?_
    | ((try lift_lets); (with_reducible intro y); (have hy : Q y := ?_); clear_value y; rotate_left; subst y)
    | ((try lift_lets); (with_reducible intro x); (try clear_value x))
    | split
    | with_reducible refine hQ.dlg ?_ ?_

theorem execDlgSumpcfg_law (hQ : Law P Q) (hP : Has P [.grp 0, .grp 64, .procs, .sampled, .seq, .sump, .tokens]) {x : XWord} {s : State}   (h0 : Q s) :
    outAll Q (execDlgSumpcfg x s) := by
  unfold execDlgSumpcfg
  repeat' first
    | with_reducible assumption
    | ((with_reducible refine boolGoal ?_); exact rfl)
    | ((with_reducible refine hP.one _ ?_); exact rfl)
    | with_reducible refine xop_law hQ (hP.sub rfl) (fun _ => ?_) ?_
    | with_reducible refine Law.ite ?_ ?_
    | with_reducible refine resFin ?_
    | with_reducible refine resNo ?_
    | with_reducible refine resStart ?_
    | with_reducible refine resForm ?_
    | with_reducible refine resGone ?_
    | with_reducible refine resHold ?_
    | with_reducible refine iteRes ?_ ?_
    | with_reducible refine outOk ?_
    | with_reducible exact outFault
    | with_reducible refine outWithin ?_
    | with_reducible refine iteOut ?_ ?_
    | ((try lift_lets); (with_reducible intro y); (have hy : Q y := ?_); clear_value y; rotate_left; subst y)
    | ((try lift_lets); (with_reducible intro y); (have hy : Q y.1 := ?_); clear_value y; rotate_left; subst y)
    | ((try lift_lets); (with_reducible intro x); (try clear_value x))
    | split
    | with_reducible refine hQ.sump ?_ ?_

theorem enterContact_law (hQ : Law P Q) (hP : Has P [.grp 9, .dlg]) {ws : List Word} {s : State}   (h0 : Q s) :
    Q (enterContact ws s) := by
  unfold enterContact
  repeat' first
    | with_reducible assumption
    | ((with_reducible refine boolGoal ?_); exact rfl)
    | ((with_reducible refine hP.one _ ?_); exact rfl)
    | with_reducible refine hQ.wr hP ?_ ?_
    | with_reducible refine hQ.sat hP ?_ ?_
    | with_reducible refine Law.ite ?_ ?_
    | ((try lift_lets); (with_reducible intro y); (have hy : Q y := ?_); clear_value y; rotate_left; subst y)
    | ((try lift_lets); (with_reducible intro y); (have hy : Q y.1 := ?_); clear_value y; rotate_left; subst y)
    | ((try lift_lets); (with_reducible intro x); (try clear_value x))
    | split
    | with_reducible refine hQ.dlg ?_ ?_

theorem writeLinks_law (hQ : Law P Q) (hP : Has P [.grp 9, .grp 64, .dlg, .mem, .poison])  {x0 : List (List Word)}   {s : State} (h0 : Q s) :
    Q (writeLinks x0 s) := by
  induction x0 generalizing s with
  | nil =>
    unfold writeLinks
    repeat' first
      | with_reducible assumption
      | ((with_reducible refine boolGoal ?_); exact rfl)
      | ((with_reducible refine hP.one _ ?_); exact rfl)
      | with_reducible refine writeOwn_law hQ (hP.sub rfl) ?_
      | with_reducible refine hQ.sat hP ?_ ?_
      | with_reducible refine Law.ite ?_ ?_
      | ((try lift_lets); (with_reducible intro y); (have hy : Q y := ?_); clear_value y; rotate_left; subst y)
      | ((try lift_lets); (with_reducible intro y); (have hy : Q y.1 := ?_); clear_value y; rotate_left; subst y)
      | ((try lift_lets); (with_reducible intro x); (try clear_value x))
      | split
      | with_reducible refine hQ.dlg ?_ ?_
  | cons x xs ih =>
    unfold writeLinks
    repeat' first
      | with_reducible assumption
      | with_reducible apply ih
      | ((with_reducible refine boolGoal ?_); exact rfl)
      | ((with_reducible refine hP.one _ ?_); exact rfl)
      | with_reducible refine writeOwn_law hQ (hP.sub rfl) ?_
      | with_reducible refine hQ.sat hP ?_ ?_
      | with_reducible refine Law.ite ?_ ?_
      | ((try lift_lets); (with_reducible intro y); (have hy : Q y := ?_); clear_value y; rotate_left; subst y)
      | ((try lift_lets); (with_reducible intro y); (have hy : Q y.1 := ?_); clear_value y; rotate_left; subst y)
      | ((try lift_lets); (with_reducible intro x); (try clear_value x))
      | split
      | with_reducible refine hQ.dlg ?_ ?_

theorem joinContacts_law (hQ : Law P Q) (hP : Has P [.grp 9, .grp 64, .dlg, .mem, .poison]) {ws : List Word} {s : State}   (h0 : Q s) :
    Q (joinContacts ws s) := by
  unfold joinContacts
  repeat' first
    | with_reducible assumption
    | ((with_reducible refine boolGoal ?_); exact rfl)
    | ((with_reducible refine hP.one _ ?_); exact rfl)
    | with_reducible refine writeLinks_law hQ (hP.sub rfl) ?_
    | with_reducible refine enterContact_law hQ (hP.sub rfl) ?_
    | with_reducible refine Law.ite ?_ ?_
    | ((try lift_lets); (with_reducible intro y); (have hy : Q y := ?_); clear_value y; rotate_left; subst y)
    | ((try lift_lets); (with_reducible intro x); (try clear_value x))
    | split

theorem execContactTableExpiry_law (hQ : Law P Q) (hP : Has P [.grp 9, .dlg]) {s : State}   (h0 : Q s) :
    outAll Q (execContactTableExpiry s) := by
  unfold execContactTableExpiry
  repeat' first
    | with_reducible assumption
    | ((with_reducible refine boolGoal ?_); exact rfl)
    | ((with_reducible refine hP.one _ ?_); exact rfl)
    | with_reducible refine hQ.wr hP ?_ ?_
    | with_reducible refine outOk ?_
    | with_reducible exact outFault
    | with_reducible refine outWithin ?_
    | with_reducible refine iteOut ?_ ?_
    | ((try lift_lets); (with_reducible intro y); (have hy : Q y := ?_); clear_value y; rotate_left; subst y)
    | ((try lift_lets); (with_reducible intro x); (try clear_value x))
    | with_reducible refine hQ.dlg ?_ ?_

theorem takeForwarded_law (hQ : Law P Q) (hP : Has P [.grp 9, .grp 17, .grp 64, .dlg, .mem, .poison, .tokens]) {ws : List Word} {s : State}   (h0 : Q s) :
    optAll Q (takeForwarded ws s) := by
  unfold takeForwarded
  repeat' first
    | with_reducible assumption
    | ((with_reducible refine boolGoal ?_); exact rfl)
    | ((with_reducible refine hP.one _ ?_); exact rfl)
    | with_reducible refine hQ.sat hP ?_ ?_
    | with_reducible refine joinContacts_law hQ (hP.sub rfl) ?_
    | with_reducible refine ringWrite_law hQ (hP.sub rfl) ?_
    | with_reducible refine wlkCause_law hQ (hP.sub rfl) ?_
    | with_reducible refine Law.ite ?_ ?_
    | with_reducible refine optSome ?_
    | with_reducible exact optNone
    | with_reducible refine iteOpt ?_ ?_
    | ((try lift_lets); (with_reducible intro y); (have hy : Q y := ?_); clear_value y; rotate_left; subst y)
    | ((try lift_lets); (with_reducible intro y); (have hy : Q y.1 := ?_); clear_value y; rotate_left; subst y)
    | ((try lift_lets); (with_reducible intro x); (try clear_value x))
    | split
    | with_reducible refine hQ.dlg ?_ ?_

theorem acknowledge_law (hQ : Law P Q) (hP : Has P [.all .wlkPort, .grp 17, .grp 64, .sent, .tokens]) {ws : List Word} {s : State}   (h0 : Q s) :
    Q (acknowledge ws s) := by
  unfold acknowledge
  repeat' first
    | with_reducible assumption
    | ((with_reducible refine boolGoal ?_); exact rfl)
    | ((with_reducible refine hP.inst ?_); exact rfl)
    | ((with_reducible refine hP.one _ ?_); exact rfl)
    | with_reducible refine sendTo_law hQ (hP.sub rfl) ?_
    | ((try lift_lets); (with_reducible intro y); (have hy : Q y := ?_); clear_value y; rotate_left; subst y)
    | ((try lift_lets); (with_reducible intro y); (have hy : Q y.1 := ?_); clear_value y; rotate_left; subst y)
    | ((try lift_lets); (with_reducible intro x); (try clear_value x))

theorem execForwardedRecordReceive_law (hQ : Law P Q) (hP : Has P [.all .wlkPort, .grp 9, .grp 17, .grp 64, .dlg, .mem, .poison, .sent, .tokens]) {p : Nat} {ws : List Word} {s : State}   (h0 : Q s) :
    outAll Q (execForwardedRecordReceive p ws s) := by
  unfold execForwardedRecordReceive
  repeat' first
    | with_reducible assumption
    | ((with_reducible refine boolGoal ?_); exact rfl)
    | ((with_reducible refine hP.inst ?_); exact rfl)
    | ((with_reducible refine hP.one _ ?_); exact rfl)
    | with_reducible refine fromPort_law hQ (hP.sub rfl) ?_ (fun _ _ => ?_) ?_
    | with_reducible refine takeForwarded_law hQ (hP.sub rfl) ?_
    | with_reducible refine optGet (by with_reducible assumption) ?_
    | with_reducible refine acknowledge_law hQ (hP.sub rfl) ?_
    | with_reducible refine Law.ite ?_ ?_
    | with_reducible refine outOk ?_
    | with_reducible exact outFault
    | with_reducible refine outWithin ?_
    | with_reducible refine iteOut ?_ ?_
    | ((try lift_lets); (with_reducible intro y); (have hy : Q y := ?_); clear_value y; rotate_left; subst y)
    | ((try lift_lets); (with_reducible intro x); (try clear_value x))
    | split
    | dsimp only
    | with_reducible refine hQ.dlg ?_ ?_

theorem dlgEff_law (hQ : Law P Q) (hP : Has P []) {u_0 : Held} {s : State}   (h0 : Q s) :
    Q (dlgEff u_0 s) := by
  unfold dlgEff
  repeat' first
    | with_reducible assumption
    | ((with_reducible refine boolGoal ?_); exact rfl)
    | ((with_reducible refine hP.one _ ?_); exact rfl)

theorem writeRecord_law (hQ : Law P Q) (hP : Has P [.all .marker, .grp 0, .grp 9, .grp 64, .dlg, .held, .markPins, .marks, .mem, .poison, .progress, .recs, .seq, .tokens]) {ws : List Word} {rest : List RecItem} {s : State}   (h0 : Q s) :
    Q (writeRecord ws rest s) := by
  unfold writeRecord
  repeat' first
    | with_reducible assumption
    | ((with_reducible refine boolGoal ?_); exact rfl)
    | ((with_reducible refine hP.inst ?_); exact rfl)
    | ((with_reducible refine hP.one _ ?_); exact rfl)
    | with_reducible refine hQ.sat hP ?_ ?_
    | with_reducible refine stageRow_law hQ (hP.sub rfl) (fun _ _ _ => ?_) ?_
    | with_reducible refine dlgEff_law hQ (hP.sub rfl) ?_
    | with_reducible refine scheduleMarks_law hQ (hP.sub rfl) ?_
    | with_reducible refine joinContacts_law hQ (hP.sub rfl) ?_
    | with_reducible refine writeOwn_law hQ (hP.sub rfl) ?_
    | with_reducible refine evt_law hQ (hP.sub rfl) ?_
    | with_reducible refine Law.ite ?_ ?_
    | ((try lift_lets); (with_reducible intro y); (have hy : Q y := ?_); clear_value y; rotate_left; subst y)
    | ((try lift_lets); (with_reducible intro y); (have hy : Q y.2 := ?_); clear_value y; rotate_left; subst y)
    | ((try lift_lets); (with_reducible intro y); (have hy : Q y.1 := ?_); clear_value y; rotate_left; subst y)
    | ((try lift_lets); (with_reducible intro x); (try clear_value x))
    | split
    | dsimp only
    | with_reducible refine hQ.recs ?_ ?_
    | with_reducible refine hQ.dlg ?_ ?_

theorem execLedgerRecordWrite_law (hQ : Law P Q) (hP : Has P [.all .marker, .all .wlkPort, .grp 0, .grp 9, .grp 17, .grp 64, .dlg, .held, .markPins, .marks, .mem, .poison, .progress, .recs, .sent, .seq, .tokens]) {which : Nat} {s : State}   (h0 : Q s) :
    outAll Q (execLedgerRecordWrite which s) := by
  unfold execLedgerRecordWrite
  repeat' first
    | with_reducible assumption
    | ((with_reducible refine boolGoal ?_); exact rfl)
    | ((with_reducible refine hP.inst ?_); exact rfl)
    | ((with_reducible refine hP.one _ ?_); exact rfl)
    | with_reducible refine writeRecord_law hQ (hP.sub rfl) ?_
    | with_reducible refine takeForwarded_law hQ (hP.sub rfl) ?_
    | with_reducible refine optGet (by with_reducible assumption) ?_
    | with_reducible refine acknowledge_law hQ (hP.sub rfl) ?_
    | with_reducible refine writeLinks_law hQ (hP.sub rfl) ?_
    | with_reducible refine outOk ?_
    | with_reducible exact outFault
    | with_reducible refine outWithin ?_
    | with_reducible refine iteOut ?_ ?_
    | ((try lift_lets); (with_reducible intro y); (have hy : Q y := ?_); clear_value y; rotate_left; subst y)
    | ((try lift_lets); (with_reducible intro x); (try clear_value x))
    | split
    | dsimp only
    | with_reducible refine hQ.dlg ?_ ?_

theorem divertAtDlg_law (hQ : Law P Q) (hP : Has P [.grp 9, .grp 64, .recs, .sump]) {s : State}   (h0 : Q s) :
    Q (divertAtDlg s) := by
  unfold divertAtDlg
  repeat' first
    | with_reducible assumption
    | ((with_reducible refine boolGoal ?_); exact rfl)
    | ((with_reducible refine hP.one _ ?_); exact rfl)
    | with_reducible refine divertRecord_law hQ (hP.sub rfl) hP ?_ ?_ 
    | with_reducible refine Law.ite ?_ ?_
    | ((try lift_lets); (with_reducible intro y); (have hy : Q y := ?_); clear_value y; rotate_left; subst y)
    | ((try lift_lets); (with_reducible intro x); (try clear_value x))
    | split
    | dsimp only
    | with_reducible refine hQ.recs ?_ ?_

theorem markAtDlg_law (hQ : Law P Q) (hP : Has P [.grp 0, .grp 64, .held, .progress, .recs, .seq]) {s : State}   (h0 : Q s) :
    Q (markAtDlg s) := by
  unfold markAtDlg
  repeat' first
    | with_reducible assumption
    | ((with_reducible refine boolGoal ?_); exact rfl)
    | ((with_reducible refine hP.one _ ?_); exact rfl)
    | with_reducible refine passMark_law hQ (hP.sub rfl) (fun _ _ _ => ?_) ?_
    | with_reducible refine dlgEff_law hQ (hP.sub rfl) ?_
    | ((try lift_lets); (with_reducible intro y); (have hy : Q y := ?_); clear_value y; rotate_left; subst y)
    | ((try lift_lets); (with_reducible intro x); (try clear_value x))
    | split
    | dsimp only
    | with_reducible refine hQ.recs ?_ ?_

theorem execRd1Forward_law (hQ : Law P Q) (hP : Has P [.all .wlkPort, .grp 17, .grp 64, .dlg, .sent, .tokens]) {s : State}   (h0 : Q s) :
    outAll Q (execRd1Forward s) := by
  unfold execRd1Forward
  repeat' first
    | with_reducible assumption
    | ((with_reducible refine boolGoal ?_); exact rfl)
    | ((with_reducible refine hP.inst ?_); exact rfl)
    | ((with_reducible refine hP.one _ ?_); exact rfl)
    | with_reducible refine sendTo_law hQ (hP.sub rfl) ?_
    | with_reducible refine Law.ite ?_ ?_
    | with_reducible refine outOk ?_
    | with_reducible exact outFault
    | with_reducible refine outWithin ?_
    | with_reducible refine iteOut ?_ ?_
    | ((try lift_lets); (with_reducible intro y); (have hy : Q y := ?_); clear_value y; rotate_left; subst y)
    | ((try lift_lets); (with_reducible intro y); (have hy : Q y.1 := ?_); clear_value y; rotate_left; subst y)
    | ((try lift_lets); (with_reducible intro x); (try clear_value x))
    | split
    | with_reducible refine hQ.dlg ?_ ?_

theorem execFwdAckReceive_law (hQ : Law P Q) (hP : Has P [.grp 9, .grp 64]) {p : Nat} {dseq : Nat} {s : State} (hi0 : P (.one .wlkPort p))  (h0 : Q s) :
    outAll Q (execFwdAckReceive p dseq s) := by
  unfold execFwdAckReceive
  repeat' first
    | with_reducible assumption
    | ((with_reducible refine boolGoal ?_); exact rfl)
    | ((with_reducible refine hP.one _ ?_); exact rfl)
    | with_reducible refine fromPort_law hQ (hP.sub rfl) ?_ (fun _ _ => ?_) ?_
    | ((with_reducible refine hQ.wrAt hP hi0 ?_ ?_); exact rfl)
    | with_reducible refine hQ.wr hP ?_ ?_
    | with_reducible refine outOk ?_
    | with_reducible exact outFault
    | with_reducible refine outWithin ?_
    | with_reducible refine iteOut ?_ ?_
    | ((try lift_lets); (with_reducible intro y); (have hy : Q y := ?_); clear_value y; rotate_left; subst y)
    | ((try lift_lets); (with_reducible intro x); (try clear_value x))
    | split
    | dsimp only

theorem execFwdTimeout_law (hQ : Law P Q) (hP : Has P [.grp 17, .dlg, .tokens]) {s : State}   (h0 : Q s) :
    outAll Q (execFwdTimeout s) := by
  unfold execFwdTimeout
  repeat' first
    | with_reducible assumption
    | ((with_reducible refine boolGoal ?_); exact rfl)
    | ((with_reducible refine hP.one _ ?_); exact rfl)
    | with_reducible refine hQ.sat hP ?_ ?_
    | with_reducible refine wlkCause_law hQ (hP.sub rfl) ?_
    | with_reducible refine Law.ite ?_ ?_
    | with_reducible refine outOk ?_
    | with_reducible exact outFault
    | with_reducible refine outWithin ?_
    | with_reducible refine iteOut ?_ ?_
    | ((try lift_lets); (with_reducible intro y); (have hy : Q y := ?_); clear_value y; rotate_left; subst y)
    | ((try lift_lets); (with_reducible intro y); (have hy : Q y.1 := ?_); clear_value y; rotate_left; subst y)
    | ((try lift_lets); (with_reducible intro x); (try clear_value x))
    | split
    | with_reducible refine hQ.dlg ?_ ?_

theorem markerCntOne_law (hQ : Law P Q) (hP : Has P []) {m : Nat} {s : State} (hi0 : P (.one .marker m))  (h0 : Q s) :
    Q (markerCntOne m s) := by
  unfold markerCntOne
  repeat' first
    | with_reducible assumption
    | ((with_reducible refine boolGoal ?_); exact rfl)
    | ((with_reducible refine hP.one _ ?_); exact rfl)
    | ((with_reducible refine hQ.clrAt hP hi0 ?_ ?_); simp only [List.all]; exact rfl)
    | ((with_reducible refine hQ.clr hP ?_ ?_); simp only [List.all]; exact rfl)

theorem dlgCntGlobal_law (hQ : Law P Q) (hP : Has P [.grp 9]) {s : State}   (h0 : Q s) :
    Q (dlgCntGlobal s) := by
  unfold dlgCntGlobal
  repeat' first
    | with_reducible assumption
    | ((with_reducible refine boolGoal ?_); exact rfl)
    | ((with_reducible refine hP.one _ ?_); exact rfl)
    | ((with_reducible refine hQ.clr hP ?_ ?_); simp only [List.all]; exact rfl)

theorem markerEvOne_law (hQ : Law P Q) (hP : Has P []) {arg : Nat} {m : Nat} {s : State} (hi0 : P (.one .marker m))  (h0 : Q s) :
    Q (markerEvOne arg m s) := by
  unfold markerEvOne
  repeat' first
    | with_reducible assumption
    | ((with_reducible refine boolGoal ?_); exact rfl)
    | ((with_reducible refine hP.one _ ?_); exact rfl)
    | ((with_reducible refine hQ.wrAt hP hi0 ?_ ?_); exact rfl)
    | with_reducible refine hQ.wr hP ?_ ?_
    | with_reducible refine Law.ite ?_ ?_
    | split

end Sys2Proof.Machine
end

