-- ==== Sys2Proof/Laws/Overview.lean ====
section
/-!
SUPPORT. What each function of Machine/Overview.lean can change: every law of the parts it names survives it.
-/
namespace Sys2Proof.Machine

variable {P : Part → Prop} {Q : State → Prop}

theorem setOvs_law (hQ : Law P Q) (hP : Has P [.ovs]) {s : State} {k : Nat} {e : OvsState}   (h0 : Q s) :
    Q (State.setOvs s k e) := by
  unfold State.setOvs
  repeat' first
    | with_reducible assumption
    | ((with_reducible refine boolGoal ?_); exact rfl)
    | ((with_reducible refine hP.one _ ?_); exact rfl)
    | ((try lift_lets); (with_reducible intro y); (have hy : Q y := ?_); clear_value y; rotate_left; subst y)
    | ((try lift_lets); (with_reducible intro y); (have hy : Q y.1 := ?_); clear_value y; rotate_left; subst y)
    | ((try lift_lets); (with_reducible intro x); (try clear_value x))
    | with_reducible refine hQ.ovs ?_ ?_

theorem showStream_law (hQ : Law P Q) (hP : Has P []) {k : Nat} {s : State} (hi0 : P (.one .stream k))  (h0 : Q s) :
    Q (showStream k s) := by
  unfold showStream
  repeat' first
    | with_reducible assumption
    | ((with_reducible refine boolGoal ?_); exact rfl)
    | ((with_reducible refine hP.one _ ?_); exact rfl)
    | ((with_reducible refine hQ.wrAllAt hP hi0 ?_ ?_); simp only [List.all]; exact rfl)
    | ((with_reducible refine hQ.wrAll hP ?_ ?_); simp only [List.all]; exact rfl)
    | with_reducible refine Law.ite ?_ ?_
    | split

theorem formOut_law (hQ : Law P Q) (hP : Has P [.grp 64, .ovs]) {k : Nat} {s : State} (hi0 : P (.one .stream k))  (h0 : Q s) :
    Q (formOut k s) := by
  unfold formOut
  repeat' first
    | with_reducible assumption
    | ((with_reducible refine boolGoal ?_); exact rfl)
    | ((with_reducible refine hP.one _ ?_); exact rfl)
    | with_reducible refine setOvs_law hQ (hP.sub rfl) ?_
    | ((with_reducible refine hQ.satAt hP hi0 ?_ ?_); exact rfl)
    | with_reducible refine hQ.sat hP ?_ ?_
    | with_reducible refine evt_law hQ (hP.sub rfl) ?_
    | with_reducible refine Law.foldl (fun _ _ _ => ?_) ?_
    | with_reducible refine Law.foldlBy Prod.snd (fun _ _ _ => ?_) ?_
    | with_reducible refine Law.foldlBy Prod.fst (fun _ _ _ => ?_) ?_
    | with_reducible refine optAll.map (fun _ => ?_)
    | ((try lift_lets); (with_reducible intro y); (have hy : Q y := ?_); clear_value y; rotate_left; subst y)
    | ((try lift_lets); (with_reducible intro y); (have hy : Q y.2 := ?_); clear_value y; rotate_left; subst y)
    | ((try lift_lets); (with_reducible intro y); (have hy : Q y.1 := ?_); clear_value y; rotate_left; subst y)
    | ((try lift_lets); (with_reducible intro x); (try clear_value x))
    | dsimp only

theorem enterRow_law (hQ : Law P Q) (hP : Has P [.grp 64, .ovs]) {k : Nat} {r : SrcRow} {s : State} (hi0 : P (.one .stream k))  (h0 : Q s) :
    Q (enterRow k r s) := by
  unfold enterRow
  repeat' first
    | with_reducible assumption
    | ((with_reducible refine boolGoal ?_); exact rfl)
    | ((with_reducible refine hP.one _ ?_); exact rfl)
    | with_reducible refine setOvs_law hQ (hP.sub rfl) ?_
    | with_reducible refine formOut_law hQ (hP.sub rfl) ?_ ?_
    | with_reducible refine Law.ite ?_ ?_
    | ((try lift_lets); (with_reducible intro y); (have hy : Q y := ?_); clear_value y; rotate_left; subst y)
    | ((try lift_lets); (with_reducible intro y); (have hy : Q y.1 := ?_); clear_value y; rotate_left; subst y)
    | ((try lift_lets); (with_reducible intro x); (try clear_value x))
    | split

theorem substitute_law (hQ : Law P Q) (hP : Has P [.all .stream, .grp 64, .ovs]) {k : Nat} {b : Tag} {x0 : Nat}   {s : State} (h0 : Q s) :
    Q (substitute k b x0 s) := by
  induction x0 generalizing k b s with
  | zero =>
    unfold substitute
    repeat' first
      | with_reducible assumption
      | ((with_reducible refine boolGoal ?_); exact rfl)
      | ((with_reducible refine hP.inst ?_); exact rfl)
      | ((with_reducible refine hP.one _ ?_); exact rfl)
      | with_reducible refine setOvs_law hQ (hP.sub rfl) ?_
      | with_reducible refine enterRow_law hQ (hP.sub rfl) ?_ ?_
      | with_reducible refine hQ.sat hP ?_ ?_
      | with_reducible refine Law.ite ?_ ?_
      | ((try lift_lets); (with_reducible intro y); (have hy : Q y := ?_); clear_value y; rotate_left; subst y)
      | ((try lift_lets); (with_reducible intro y); (have hy : Q y.1 := ?_); clear_value y; rotate_left; subst y)
      | ((try lift_lets); (with_reducible intro x); (try clear_value x))
      | split
      | dsimp only
  | succ n ih =>
    unfold substitute
    repeat' first
      | with_reducible assumption
      | with_reducible apply ih
      | ((with_reducible refine boolGoal ?_); exact rfl)
      | ((with_reducible refine hP.inst ?_); exact rfl)
      | ((with_reducible refine hP.one _ ?_); exact rfl)
      | with_reducible refine setOvs_law hQ (hP.sub rfl) ?_
      | with_reducible refine enterRow_law hQ (hP.sub rfl) ?_ ?_
      | with_reducible refine hQ.sat hP ?_ ?_
      | with_reducible refine Law.ite ?_ ?_
      | ((try lift_lets); (with_reducible intro y); (have hy : Q y := ?_); clear_value y; rotate_left; subst y)
      | ((try lift_lets); (with_reducible intro y); (have hy : Q y.1 := ?_); clear_value y; rotate_left; subst y)
      | ((try lift_lets); (with_reducible intro x); (try clear_value x))
      | split
      | dsimp only

theorem ovsSourceRow_law (hQ : Law P Q) (hP : Has P [.all .stream, .grp 64, .ovs, .store]) {k : Nat} {s : State}   (h0 : Q s) :
    Q (ovsSourceRow k s) := by
  unfold ovsSourceRow
  repeat' first
    | with_reducible assumption
    | ((with_reducible refine boolGoal ?_); exact rfl)
    | ((with_reducible refine hP.inst ?_); exact rfl)
    | ((with_reducible refine hP.one _ ?_); exact rfl)
    | with_reducible refine substitute_law hQ (hP.sub rfl) ?_
    | with_reducible refine setOvs_law hQ (hP.sub rfl) ?_
    | with_reducible refine commitItem_law hQ (hP.sub rfl) ?_
    | with_reducible refine enterRow_law hQ (hP.sub rfl) ?_ ?_
    | with_reducible refine hQ.sat hP ?_ ?_
    | with_reducible refine evt_law hQ (hP.sub rfl) ?_
    | with_reducible refine Law.ite ?_ ?_
    | ((try lift_lets); (with_reducible intro y); (have hy : Q y := ?_); clear_value y; rotate_left; subst y)
    | ((try lift_lets); (with_reducible intro y); (have hy : Q y.2 := ?_); clear_value y; rotate_left; subst y)
    | ((try lift_lets); (with_reducible intro y); (have hy : Q y.1 := ?_); clear_value y; rotate_left; subst y)
    | ((try lift_lets); (with_reducible intro x); (try clear_value x))
    | split
    | dsimp only

theorem runFlush_law (hQ : Law P Q) (hP : Has P [.all .stream, .grp 64, .ovs]) {k : Nat} {x0 : Nat}   {s : State} (h0 : Q s) :
    Q (runFlush k x0 s) := by
  induction x0 generalizing k s with
  | zero =>
    unfold runFlush
    repeat' first
      | with_reducible assumption
      | ((with_reducible refine boolGoal ?_); exact rfl)
      | ((with_reducible refine hP.inst ?_); exact rfl)
      | ((with_reducible refine hP.one _ ?_); exact rfl)
      | with_reducible refine formOut_law hQ (hP.sub rfl) ?_ ?_
      | with_reducible refine setOvs_law hQ (hP.sub rfl) ?_
      | with_reducible refine Law.ite ?_ ?_
      | ((try lift_lets); (with_reducible intro y); (have hy : Q y := ?_); clear_value y; rotate_left; subst y)
      | ((try lift_lets); (with_reducible intro y); (have hy : Q y.1 := ?_); clear_value y; rotate_left; subst y)
      | ((try lift_lets); (with_reducible intro x); (try clear_value x))
      | split
      | dsimp only
  | succ n ih =>
    unfold runFlush
    repeat' first
      | with_reducible assumption
      | with_reducible apply ih
      | ((with_reducible refine boolGoal ?_); exact rfl)
      | ((with_reducible refine hP.inst ?_); exact rfl)
      | ((with_reducible refine hP.one _ ?_); exact rfl)
      | with_reducible refine formOut_law hQ (hP.sub rfl) ?_ ?_
      | with_reducible refine setOvs_law hQ (hP.sub rfl) ?_
      | with_reducible refine Law.ite ?_ ?_
      | ((try lift_lets); (with_reducible intro y); (have hy : Q y := ?_); clear_value y; rotate_left; subst y)
      | ((try lift_lets); (with_reducible intro y); (have hy : Q y.1 := ?_); clear_value y; rotate_left; subst y)
      | ((try lift_lets); (with_reducible intro x); (try clear_value x))
      | split
      | dsimp only

theorem beginFlush_law (hQ : Law P Q) (hP : Has P [.all .stream, .grp 64, .ovs]) {k : Nat} {restart : Bool} {s : State}   (h0 : Q s) :
    Q (beginFlush k restart s) := by
  unfold beginFlush
  repeat' first
    | with_reducible assumption
    | ((with_reducible refine boolGoal ?_); exact rfl)
    | ((with_reducible refine hP.inst ?_); exact rfl)
    | ((with_reducible refine hP.one _ ?_); exact rfl)
    | with_reducible refine setOvs_law hQ (hP.sub rfl) ?_
    | with_reducible refine runFlush_law hQ (hP.sub rfl) ?_
    | with_reducible refine hQ.sat hP ?_ ?_
    | ((try lift_lets); (with_reducible intro y); (have hy : Q y := ?_); clear_value y; rotate_left; subst y)
    | ((try lift_lets); (with_reducible intro y); (have hy : Q y.1 := ?_); clear_value y; rotate_left; subst y)
    | ((try lift_lets); (with_reducible intro x); (try clear_value x))

theorem ovsGapReceive_law (hQ : Law P Q) (hP : Has P [.all .stream, .grp 64, .ovs, .store]) {k : Nat} {s : State}   (h0 : Q s) :
    Q (ovsGapReceive k s) := by
  unfold ovsGapReceive
  repeat' first
    | with_reducible assumption
    | ((with_reducible refine boolGoal ?_); exact rfl)
    | ((with_reducible refine hP.inst ?_); exact rfl)
    | ((with_reducible refine hP.one _ ?_); exact rfl)
    | with_reducible refine commitItem_law hQ (hP.sub rfl) ?_
    | with_reducible refine beginFlush_law hQ (hP.sub rfl) ?_
    | with_reducible refine setOvs_law hQ (hP.sub rfl) ?_
    | with_reducible refine Law.ite ?_ ?_
    | ((try lift_lets); (with_reducible intro y); (have hy : Q y := ?_); clear_value y; rotate_left; subst y)
    | ((try lift_lets); (with_reducible intro y); (have hy : Q y.1 := ?_); clear_value y; rotate_left; subst y)
    | ((try lift_lets); (with_reducible intro x); (try clear_value x))
    | split
    | dsimp only

theorem putEntry_law (hQ : Law P Q) (hP : Has P [.all .wlkPort, .grp 17, .grp 64, .mem, .poison, .sent, .tokens]) {k : Nat} {head : List Word} {planes : List Byte} {s : State} (hi0 : P (.one .stream k))  (h0 : Q s) :
    Q (putEntry k head planes s) := by
  unfold putEntry
  repeat' first
    | with_reducible assumption
    | ((with_reducible refine boolGoal ?_); exact rfl)
    | ((with_reducible refine hP.inst ?_); exact rfl)
    | ((with_reducible refine hP.one _ ?_); exact rfl)
    | with_reducible refine sendTo_law hQ (hP.sub rfl) ?_
    | with_reducible refine put_law hQ (hP.sub rfl) ?_
    | ((with_reducible refine hQ.wrAt hP hi0 ?_ ?_); exact rfl)
    | with_reducible refine hQ.wr hP ?_ ?_
    | with_reducible refine evt_law hQ (hP.sub rfl) ?_
    | with_reducible refine Law.ite ?_ ?_
    | ((try lift_lets); (with_reducible intro y); (have hy : Q y := ?_); clear_value y; rotate_left; subst y)
    | ((try lift_lets); (with_reducible intro y); (have hy : Q y.1 := ?_); clear_value y; rotate_left; subst y)
    | ((try lift_lets); (with_reducible intro x); (try clear_value x))
    | split

theorem ovsRowDeliver_law (hQ : Law P Q) (hP : Has P [.all .stream, .all .wlkPort, .grp 17, .grp 64, .mem, .ovs, .poison, .sent, .tokens]) {k : Nat} {s : State}   (h0 : Q s) :
    Q (ovsRowDeliver k s) := by
  unfold ovsRowDeliver
  repeat' first
    | with_reducible assumption
    | ((with_reducible refine boolGoal ?_); exact rfl)
    | ((with_reducible refine hP.inst ?_); exact rfl)
    | ((with_reducible refine hP.one _ ?_); exact rfl)
    | with_reducible refine fill_law hQ (hP.sub rfl) ?_
    | with_reducible refine putEntry_law hQ (hP.sub rfl) ?_ ?_
    | with_reducible refine setOvs_law hQ (hP.sub rfl) ?_
    | with_reducible refine hQ.wrap hP ?_ ?_
    | with_reducible refine runFlush_law hQ (hP.sub rfl) ?_
    | with_reducible refine emit_law hQ (hP.sub rfl) ?_
    | with_reducible refine Law.ite ?_ ?_
    | ((try lift_lets); (with_reducible intro y); (have hy : Q y := ?_); clear_value y; rotate_left; subst y)
    | ((try lift_lets); (with_reducible intro y); (have hy : Q y.1 := ?_); clear_value y; rotate_left; subst y)
    | ((try lift_lets); (with_reducible intro x); (try clear_value x))
    | split
    | dsimp only

theorem divertAtOvs_law (hQ : Law P Q) (hP : Has P [.all .stream, .grp 9, .grp 64, .ovs, .sump]) {k : Nat} {s : State}   (h0 : Q s) :
    Q (divertAtOvs k s) := by
  unfold divertAtOvs
  repeat' first
    | with_reducible assumption
    | ((with_reducible refine boolGoal ?_); exact rfl)
    | ((with_reducible refine hP.inst ?_); exact rfl)
    | ((with_reducible refine hP.one _ ?_); exact rfl)
    | with_reducible refine setOvs_law hQ (hP.sub rfl) ?_
    | with_reducible refine runFlush_law hQ (hP.sub rfl) ?_
    | with_reducible refine note_law hQ (hP.sub rfl) ?_
    | with_reducible refine hQ.sat hP ?_ ?_
    | with_reducible refine evt_law hQ (hP.sub rfl) ?_
    | with_reducible refine Law.ite ?_ ?_
    | ((try lift_lets); (with_reducible intro y); (have hy : Q y := ?_); clear_value y; rotate_left; subst y)
    | ((try lift_lets); (with_reducible intro y); (have hy : Q y.1 := ?_); clear_value y; rotate_left; subst y)
    | ((try lift_lets); (with_reducible intro x); (try clear_value x))
    | split
    | dsimp only

theorem putTrailer_law (hQ : Law P Q) (hP : Has P [.all .wlkPort, .grp 17, .grp 64, .mem, .poison, .sent, .tokens]) {k : Nat} {y0 : Int} {y1 : Int} {rows : Nat} {total : Option Nat} {s : State} (hi0 : P (.one .stream k))  (h0 : Q s) :
    Q (putTrailer k y0 y1 rows total s) := by
  unfold putTrailer
  repeat' first
    | with_reducible assumption
    | ((with_reducible refine boolGoal ?_); exact rfl)
    | ((with_reducible refine hP.inst ?_); exact rfl)
    | ((with_reducible refine hP.one _ ?_); exact rfl)
    | with_reducible refine putEntry_law hQ (hP.sub rfl) ?_ ?_
    | with_reducible refine optAll.getD ?_ ?_
    | ((try lift_lets); (with_reducible intro y); (have hy : Q y := ?_); clear_value y; rotate_left; subst y)
    | ((try lift_lets); (with_reducible intro x); (try clear_value x))
    | split
    | dsimp only

theorem ovsTakesSpan_law (hQ : Law P Q) (hP : Has P [.all .stream, .all .wlkPort, .grp 17, .grp 64, .mem, .poison, .sent, .sump, .tokens]) {n : Nat} {s : State}   (h0 : Q s) :
    Q (ovsTakesSpan n s) := by
  unfold ovsTakesSpan
  repeat' first
    | with_reducible assumption
    | ((with_reducible refine boolGoal ?_); exact rfl)
    | ((with_reducible refine hP.inst ?_); exact rfl)
    | ((with_reducible refine hP.one _ ?_); exact rfl)
    | with_reducible refine dropSpan_law hQ (hP.sub rfl) ?_
    | with_reducible refine putTrailer_law hQ (hP.sub rfl) ?_ ?_
    | with_reducible refine Law.ite ?_ ?_
    | ((try lift_lets); (with_reducible intro y); (have hy : Q y := ?_); clear_value y; rotate_left; subst y)
    | ((try lift_lets); (with_reducible intro y); (have hy : Q y.1 := ?_); clear_value y; rotate_left; subst y)
    | ((try lift_lets); (with_reducible intro x); (try clear_value x))
    | split

theorem ovsTakesTotal_law (hQ : Law P Q) (hP : Has P [.all .stream, .all .wlkPort, .grp 9, .grp 17, .grp 64, .mem, .poison, .sent, .tokens]) {s : State}   (h0 : Q s) :
    Q (ovsTakesTotal s) := by
  unfold ovsTakesTotal
  repeat' first
    | with_reducible assumption
    | ((with_reducible refine boolGoal ?_); exact rfl)
    | ((with_reducible refine hP.inst ?_); exact rfl)
    | ((with_reducible refine hP.one _ ?_); exact rfl)
    | with_reducible refine clearTotal_law hQ (hP.sub rfl) ?_
    | with_reducible refine putTrailer_law hQ (hP.sub rfl) ?_ ?_
    | with_reducible refine Law.ite ?_ ?_
    | with_reducible refine Law.foldl (fun _ _ _ => ?_) ?_
    | with_reducible refine Law.foldlBy Prod.snd (fun _ _ _ => ?_) ?_
    | with_reducible refine Law.foldlBy Prod.fst (fun _ _ _ => ?_) ?_
    | ((try lift_lets); (with_reducible intro y); (have hy : Q y := ?_); clear_value y; rotate_left; subst y)
    | ((try lift_lets); (with_reducible intro x); (try clear_value x))
    | split

theorem execOvsCfg_law (hQ : Law P Q) (hP : Has P [.grp 0, .grp 64, .procs, .sampled, .seq, .tokens]) {x : XWord} {s : State} (hi0 : P (.one .stream (xargs s x).i))  (h0 : Q s) :
    outAll Q (execOvsCfg x s) := by
  unfold execOvsCfg
  repeat' first
    | with_reducible assumption
    | ((with_reducible refine boolGoal ?_); exact rfl)
    | ((with_reducible refine hP.one _ ?_); exact rfl)
    | with_reducible refine direct_law hQ (hP.sub rfl) (fun _ => ?_) ?_
    | ((with_reducible refine hQ.blockWriteAt hP hi0 ?_ ?_); simp only [List.all, streamFields]; exact rfl)
    | ((with_reducible refine hQ.blockWrite hP ?_ ?_); simp only [List.all, streamFields]; exact rfl)
    | with_reducible refine showStream_law hQ (hP.sub rfl) ?_ ?_
    | with_reducible refine Law.ite ?_ ?_
    | with_reducible refine excPair ?_
    | with_reducible refine excState ?_
    | with_reducible exact excError
    | with_reducible refine iteExc ?_ ?_
    | with_reducible refine outOk ?_
    | with_reducible exact outFault
    | with_reducible refine outWithin ?_
    | with_reducible refine iteOut ?_ ?_
    | ((try lift_lets); (with_reducible intro y); (have hy : Q y := ?_); clear_value y; rotate_left; subst y)
    | ((try lift_lets); (with_reducible intro x); (try clear_value x))
    | split

theorem execOvsCoef_law (hQ : Law P Q) (hP : Has P [.all .stream, .grp 0, .grp 64, .procs, .sampled, .seq, .tokens]) {x : XWord} {s : State}   (h0 : Q s) :
    outAll Q (execOvsCoef x s) := by
  unfold execOvsCoef
  repeat' first
    | with_reducible assumption
    | ((with_reducible refine boolGoal ?_); exact rfl)
    | ((with_reducible refine hP.inst ?_); exact rfl)
    | ((with_reducible refine hP.one _ ?_); exact rfl)
    | with_reducible refine direct_law hQ (hP.sub rfl) (fun _ => ?_) ?_
    | with_reducible refine showStream_law hQ (hP.sub rfl) ?_ ?_
    | with_reducible refine hQ.putWord hP ?_ ?_
    | ((with_reducible refine boolGoal ?_); split <;> rfl)
    | with_reducible refine Law.ite ?_ ?_
    | with_reducible refine excPair ?_
    | with_reducible refine excState ?_
    | with_reducible exact excError
    | with_reducible refine iteExc ?_ ?_
    | with_reducible refine outOk ?_
    | with_reducible exact outFault
    | with_reducible refine outWithin ?_
    | with_reducible refine iteOut ?_ ?_
    | with_reducible refine Law.foldl (fun _ _ _ => ?_) ?_
    | with_reducible refine Law.foldlBy Prod.snd (fun _ _ _ => ?_) ?_
    | with_reducible refine Law.foldlBy Prod.fst (fun _ _ _ => ?_) ?_
    | ((try lift_lets); (with_reducible intro x); (try clear_value x))
    | split
    | dsimp only

theorem showLineBanks_law (hQ : Law P Q) (hP : Has P [.all .bank]) {s : State}   (h0 : Q s) :
    Q (showLineBanks s) := by
  unfold showLineBanks
  repeat' first
    | with_reducible assumption
    | ((with_reducible refine boolGoal ?_); exact rfl)
    | ((with_reducible refine hP.inst ?_); exact rfl)
    | ((with_reducible refine hP.one _ ?_); exact rfl)
    | with_reducible refine hQ.wr hP ?_ ?_
    | with_reducible refine Law.ite ?_ ?_
    | with_reducible refine Law.foldl (fun _ _ _ => ?_) ?_
    | with_reducible refine Law.foldlBy Prod.snd (fun _ _ _ => ?_) ?_
    | with_reducible refine Law.foldlBy Prod.fst (fun _ _ _ => ?_) ?_
    | with_reducible refine optAll.map (fun _ => ?_)
    | ((try lift_lets); (with_reducible intro y); (have hy : Q y := ?_); clear_value y; rotate_left; subst y)
    | ((try lift_lets); (with_reducible intro y); (have hy : Q y.2 := ?_); clear_value y; rotate_left; subst y)
    | ((try lift_lets); (with_reducible intro y); (have hy : Q y.1 := ?_); clear_value y; rotate_left; subst y)
    | ((try lift_lets); (with_reducible intro x); (try clear_value x))
    | split
    | dsimp only

theorem execOvsStart_law (hQ : Law P Q) (hP : Has P [.all .bank, .all .dma, .grp 0, .grp 64, .ovs, .procs, .sampled, .seq, .tokens]) {x : XWord} {s : State} (hi0 : P (.one .stream (xargs s x).i))  (h0 : Q s) :
    outAll Q (execOvsStart x s) := by
  unfold execOvsStart
  repeat' first
    | with_reducible assumption
    | ((with_reducible refine boolGoal ?_); exact rfl)
    | ((with_reducible refine hP.inst ?_); exact rfl)
    | ((with_reducible refine hP.one _ ?_); exact rfl)
    | with_reducible refine direct_law hQ (hP.sub rfl) (fun _ => ?_) ?_
    | with_reducible refine showLineBanks_law hQ (hP.sub rfl) ?_
    | with_reducible refine showStream_law hQ (hP.sub rfl) ?_ ?_
    | with_reducible refine setOvs_law hQ (hP.sub rfl) ?_
    | ((with_reducible refine hQ.wrAt hP hi0 ?_ ?_); exact rfl)
    | with_reducible refine hQ.wr hP ?_ ?_
    | with_reducible refine Law.ite ?_ ?_
    | with_reducible refine excPair ?_
    | with_reducible refine excState ?_
    | with_reducible exact excError
    | with_reducible refine iteExc ?_ ?_
    | with_reducible refine outOk ?_
    | with_reducible exact outFault
    | with_reducible refine outWithin ?_
    | with_reducible refine iteOut ?_ ?_
    | ((try lift_lets); (with_reducible intro y); (have hy : Q y := ?_); clear_value y; rotate_left; subst y)
    | ((try lift_lets); (with_reducible intro y); (have hy : Q y.1 := ?_); clear_value y; rotate_left; subst y)
    | ((try lift_lets); (with_reducible intro x); (try clear_value x))
    | split

theorem execOvsStop_law (hQ : Law P Q) (hP : Has P [.all .stream, .grp 0, .grp 64, .ovs, .procs, .sampled, .seq, .store, .tokens]) {x : XWord} {s : State}   (h0 : Q s) :
    outAll Q (execOvsStop x s) := by
  unfold execOvsStop
  repeat' first
    | with_reducible assumption
    | ((with_reducible refine boolGoal ?_); exact rfl)
    | ((with_reducible refine hP.inst ?_); exact rfl)
    | ((with_reducible refine hP.one _ ?_); exact rfl)
    | with_reducible refine xop_law hQ (hP.sub rfl) (fun _ => ?_) ?_
    | with_reducible refine setOvs_law hQ (hP.sub rfl) ?_
    | with_reducible refine beginFlush_law hQ (hP.sub rfl) ?_
    | with_reducible refine hQ.wr hP ?_ ?_
    | with_reducible refine Law.ite ?_ ?_
    | with_reducible refine resFin ?_
    | with_reducible refine resNo ?_
    | with_reducible refine resStart ?_
    | with_reducible refine resForm ?_
    | with_reducible refine resGone ?_
    | with_reducible refine resHold ?_
    | with_reducible refine iteRes ?_ ?_
    | with_reducible refine outOk ?_
    | with_reducible exact outFault
    | with_reducible refine outWithin ?_
    | with_reducible refine iteOut ?_ ?_
    | with_reducible refine optAll.map (fun _ => ?_)
    | ((try lift_lets); (with_reducible intro y); (have hy : Q y := ?_); clear_value y; rotate_left; subst y)
    | ((try lift_lets); (with_reducible intro y); (have hy : Q y.1 := ?_); clear_value y; rotate_left; subst y)
    | ((try lift_lets); (with_reducible intro x); (try clear_value x))
    | split
    | with_reducible refine hQ.store ?_ ?_

theorem execOvsStopComplete_law (hQ : Law P Q) (hP : Has P [.all .bank, .all .dma, .seq]) {k : Nat} {s : State} (hi0 : P (.one .stream k))  (h0 : Q s) :
    outAll Q (execOvsStopComplete k s) := by
  unfold execOvsStopComplete
  repeat' first
    | with_reducible assumption
    | ((with_reducible refine boolGoal ?_); exact rfl)
    | ((with_reducible refine hP.inst ?_); exact rfl)
    | ((with_reducible refine hP.one _ ?_); exact rfl)
    | ((with_reducible refine hQ.wrAt hP hi0 ?_ ?_); exact rfl)
    | with_reducible refine hQ.wr hP ?_ ?_
    | with_reducible refine showLineBanks_law hQ (hP.sub rfl) ?_
    | with_reducible refine complete_law hQ (hP.sub rfl) ?_
    | with_reducible refine Law.ite ?_ ?_
    | with_reducible refine outOk ?_
    | with_reducible exact outFault
    | with_reducible refine outWithin ?_
    | with_reducible refine iteOut ?_ ?_
    | ((try lift_lets); (with_reducible intro y); (have hy : Q y := ?_); clear_value y; rotate_left; subst y)
    | ((try lift_lets); (with_reducible intro x); (try clear_value x))
    | split

theorem execOvsRowDeliver_law (hQ : Law P Q) (hP : Has P [.all .stream, .all .wlkPort, .grp 17, .grp 64, .mem, .ovs, .poison, .sent, .tokens]) {k : Nat} {s : State}   (h0 : Q s) :
    outAll Q (execOvsRowDeliver k s) := by
  unfold execOvsRowDeliver
  repeat' first
    | with_reducible assumption
    | ((with_reducible refine boolGoal ?_); exact rfl)
    | ((with_reducible refine hP.inst ?_); exact rfl)
    | ((with_reducible refine hP.one _ ?_); exact rfl)
    | with_reducible refine ovsRowDeliver_law hQ (hP.sub rfl) ?_
    | with_reducible refine outOk ?_
    | with_reducible exact outFault
    | with_reducible refine outWithin ?_
    | with_reducible refine iteOut ?_ ?_
    | ((try lift_lets); (with_reducible intro y); (have hy : Q y := ?_); clear_value y; rotate_left; subst y)
    | ((try lift_lets); (with_reducible intro x); (try clear_value x))

theorem execInboundBulkReceive_law (hQ : Law P Q) (hP : Has P [.all .wlkPort, .grp 64, .mem, .poison]) {p : Nat} {k : Nat} {ws : List Word} {s : State} (hi0 : P (.one .inbound k))  (h0 : Q s) :
    outAll Q (execInboundBulkReceive p k ws s) := by
  unfold execInboundBulkReceive
  repeat' first
    | with_reducible assumption
    | ((with_reducible refine boolGoal ?_); exact rfl)
    | ((with_reducible refine hP.inst ?_); exact rfl)
    | ((with_reducible refine hP.one _ ?_); exact rfl)
    | with_reducible refine fromPort_law hQ (hP.sub rfl) ?_ (fun _ _ => ?_) ?_
    | ((with_reducible refine hQ.satAt hP hi0 ?_ ?_); exact rfl)
    | with_reducible refine hQ.sat hP ?_ ?_
    | with_reducible refine put_law hQ (hP.sub rfl) ?_
    | ((with_reducible refine hQ.wrAt hP hi0 ?_ ?_); exact rfl)
    | with_reducible refine hQ.wr hP ?_ ?_
    | with_reducible refine Law.ite ?_ ?_
    | with_reducible refine outOk ?_
    | with_reducible exact outFault
    | with_reducible refine outWithin ?_
    | with_reducible refine iteOut ?_ ?_
    | ((try lift_lets); (with_reducible intro y); (have hy : Q y := ?_); clear_value y; rotate_left; subst y)
    | ((try lift_lets); (with_reducible intro y); (have hy : Q y.1 := ?_); clear_value y; rotate_left; subst y)
    | ((try lift_lets); (with_reducible intro x); (try clear_value x))
    | split

theorem ovsCntOne_law (hQ : Law P Q) (hP : Has P []) {k : Nat} {s : State} (hi0 : P (.one .stream k))  (h0 : Q s) :
    Q (ovsCntOne k s) := by
  unfold ovsCntOne
  repeat' first
    | with_reducible assumption
    | ((with_reducible refine boolGoal ?_); exact rfl)
    | ((with_reducible refine hP.one _ ?_); exact rfl)
    | ((with_reducible refine hQ.clrAt hP hi0 ?_ ?_); simp only [List.all]; exact rfl)
    | ((with_reducible refine hQ.clr hP ?_ ?_); simp only [List.all]; exact rfl)

end Sys2Proof.Machine
end

