-- ==== Sys2Proof/Laws/History.lean ====
section
/-!
SUPPORT. What each function of Machine/History.lean can change: every law of the parts it names survives it.
-/
namespace Sys2Proof.Machine

variable {P : Part → Prop} {Q : State → Prop}

theorem setHist_law (hQ : Law P Q) (hP : Has P [.his]) {s : State} {h : Nat} {e : HisHeadState}   (h0 : Q s) :
    Q (State.setHist s h e) := by
  unfold State.setHist
  repeat' first
    | with_reducible assumption
    | ((with_reducible refine boolGoal ?_); exact rfl)
    | ((with_reducible refine hP.one _ ?_); exact rfl)
    | ((try lift_lets); (with_reducible intro y); (have hy : Q y := ?_); clear_value y; rotate_left; subst y)
    | ((try lift_lets); (with_reducible intro y); (have hy : Q y.1 := ?_); clear_value y; rotate_left; subst y)
    | ((try lift_lets); (with_reducible intro x); (try clear_value x))
    | with_reducible refine hQ.his ?_ ?_

theorem execFrameCompress_law (hQ : Law P Q) (hP : Has P [.grp 21, .grp 64, .damper, .his, .tokens]) {h : Nat} {c : Nat} {s : State}   (h0 : Q s) :
    outAll Q (execFrameCompress h c s) := by
  unfold execFrameCompress
  repeat' first
    | with_reducible assumption
    | ((with_reducible refine boolGoal ?_); exact rfl)
    | ((with_reducible refine hP.one _ ?_); exact rfl)
    | with_reducible refine request_law hQ (hP.sub rfl) ?_
    | with_reducible refine setHist_law hQ (hP.sub rfl) ?_
    | with_reducible refine evt_law hQ (hP.sub rfl) ?_
    | with_reducible refine Law.ite ?_ ?_
    | with_reducible refine outOk ?_
    | with_reducible exact outFault
    | with_reducible refine outWithin ?_
    | with_reducible refine iteOut ?_ ?_
    | ((try lift_lets); (with_reducible intro y); (have hy : Q y := ?_); clear_value y; rotate_left; subst y)
    | ((try lift_lets); (with_reducible intro y); (have hy : Q y.1 := ?_); clear_value y; rotate_left; subst y)
    | ((try lift_lets); (with_reducible intro x); (try clear_value x))
    | split
    | dsimp only

theorem execCompressorIdleRelease_law (hQ : Law P Q) (hP : Has P [.grp 21, .damper, .tokens]) {c : Nat} {s : State}   (h0 : Q s) :
    outAll Q (execCompressorIdleRelease c s) := by
  unfold execCompressorIdleRelease
  repeat' first
    | with_reducible assumption
    | ((with_reducible refine boolGoal ?_); exact rfl)
    | ((with_reducible refine hP.one _ ?_); exact rfl)
    | with_reducible refine release_law hQ (hP.sub rfl) ?_
    | with_reducible refine outOk ?_
    | with_reducible exact outFault
    | with_reducible refine outWithin ?_
    | with_reducible refine iteOut ?_ ?_
    | ((try lift_lets); (with_reducible intro y); (have hy : Q y := ?_); clear_value y; rotate_left; subst y)
    | ((try lift_lets); (with_reducible intro x); (try clear_value x))

theorem closeGroup_law (hQ : Law P Q) (hP : Has P [.his]) {h : Nat} {s : State}   (h0 : Q s) :
    Q (closeGroup h s) := by
  unfold closeGroup
  repeat' first
    | with_reducible assumption
    | ((with_reducible refine boolGoal ?_); exact rfl)
    | ((with_reducible refine hP.one _ ?_); exact rfl)
    | with_reducible refine setHist_law hQ (hP.sub rfl) ?_
    | with_reducible refine Law.ite ?_ ?_
    | with_reducible refine optAll.map (fun _ => ?_)
    | ((try lift_lets); (with_reducible intro y); (have hy : Q y := ?_); clear_value y; rotate_left; subst y)
    | ((try lift_lets); (with_reducible intro y); (have hy : Q y.1 := ?_); clear_value y; rotate_left; subst y)
    | ((try lift_lets); (with_reducible intro x); (try clear_value x))
    | split
    | dsimp only
    | with_reducible refine hQ.his ?_ ?_

theorem enterGroup_law (hQ : Law P Q) (hP : Has P [.his]) {h : Nat} {r : HisRow} {s : State}   (h0 : Q s) :
    Q (enterGroup h r s) := by
  unfold enterGroup
  repeat' first
    | with_reducible assumption
    | ((with_reducible refine boolGoal ?_); exact rfl)
    | ((with_reducible refine hP.one _ ?_); exact rfl)
    | with_reducible refine closeGroup_law hQ (hP.sub rfl) ?_
    | with_reducible refine setHist_law hQ (hP.sub rfl) ?_
    | with_reducible refine Law.ite ?_ ?_
    | with_reducible refine optAll.getD ?_ ?_
    | ((try lift_lets); (with_reducible intro y); (have hy : Q y := ?_); clear_value y; rotate_left; subst y)
    | ((try lift_lets); (with_reducible intro y); (have hy : Q y.1 := ?_); clear_value y; rotate_left; subst y)
    | ((try lift_lets); (with_reducible intro x); (try clear_value x))
    | split
    | dsimp only

theorem markTaken_law (hQ : Law P Q) (hP : Has P [.heads, .power]) {h : Nat} {lseq : Nat} {s : State} (hi0 : P (.one .head h))  (h0 : Q s) :
    Q (markTaken h lseq s) := by
  unfold markTaken
  repeat' first
    | with_reducible assumption
    | ((with_reducible refine boolGoal ?_); exact rfl)
    | ((with_reducible refine hP.one _ ?_); exact rfl)
    | with_reducible refine freeSlots_law hQ (hP.sub rfl) ?_ ?_
    | with_reducible refine setHead_law hQ (hP.sub rfl) ?_
    | with_reducible refine Law.ite ?_ ?_
    | with_reducible refine optAll.map (fun _ => ?_)
    | ((try lift_lets); (with_reducible intro y); (have hy : Q y := ?_); clear_value y; rotate_left; subst y)
    | ((try lift_lets); (with_reducible intro y); (have hy : Q y.1 := ?_); clear_value y; rotate_left; subst y)
    | ((try lift_lets); (with_reducible intro x); (try clear_value x))
    | split

theorem noEff_law (hQ : Law P Q) (hP : Has P []) {u_0 : Held} {s : State}   (h0 : Q s) :
    Q (noEff u_0 s) := by
  unfold noEff
  repeat' first
    | with_reducible assumption
    | ((with_reducible refine boolGoal ?_); exact rfl)
    | ((with_reducible refine hP.one _ ?_); exact rfl)

theorem historyTake_law (hQ : Law P Q) (hP : Has P [.grp 0, .grp 64, .heads, .held, .his, .power, .progress, .seq]) {h : Nat} {s : State} (hi0 : P (.one .head h)) (hi1 : P (.one .hisHead h))  (h0 : Q s) :
    Q (historyTake h s) := by
  unfold historyTake
  repeat' first
    | with_reducible assumption
    | ((with_reducible refine boolGoal ?_); exact rfl)
    | ((with_reducible refine hP.one _ ?_); exact rfl)
    | with_reducible refine stageRow_law hQ (hP.sub rfl) (fun _ _ _ => ?_) ?_
    | with_reducible refine noEff_law hQ (hP.sub rfl) ?_
    | with_reducible refine enterGroup_law hQ (hP.sub rfl) ?_
    | with_reducible refine markTaken_law hQ (hP.sub rfl) ?_ ?_
    | ((with_reducible refine hQ.wrapAt hP hi0 ?_ ?_); exact rfl)
    | ((with_reducible refine hQ.wrapAt hP hi1 ?_ ?_); exact rfl)
    | with_reducible refine hQ.wrap hP ?_ ?_
    | with_reducible refine closeGroup_law hQ (hP.sub rfl) ?_
    | with_reducible refine evt_law hQ (hP.sub rfl) ?_
    | with_reducible refine Law.ite ?_ ?_
    | ((try lift_lets); (with_reducible intro y); (have hy : Q y := ?_); clear_value y; rotate_left; subst y)
    | ((try lift_lets); (with_reducible intro y); (have hy : Q y.1 := ?_); clear_value y; rotate_left; subst y)
    | ((try lift_lets); (with_reducible intro x); (try clear_value x))
    | split
    | dsimp only

theorem divertAtHis_law (hQ : Law P Q) (hP : Has P [.grp 9, .grp 64, .heads, .held, .power, .progress, .sump]) {h : Nat} {s : State} (hi0 : P (.one .head h)) (hi1 : P (.one .hisHead h))  (h0 : Q s) :
    Q (divertAtHis h s) := by
  unfold divertAtHis
  repeat' first
    | with_reducible assumption
    | ((with_reducible refine boolGoal ?_); exact rfl)
    | ((with_reducible refine hP.one _ ?_); exact rfl)
    | with_reducible refine note_law hQ (hP.sub rfl) ?_
    | with_reducible refine stageDivert_law hQ (hP.sub rfl) (fun _ _ _ => ?_) ?_
    | with_reducible refine noEff_law hQ (hP.sub rfl) ?_
    | with_reducible refine markTaken_law hQ (hP.sub rfl) ?_ ?_
    | ((with_reducible refine hQ.satAt hP hi0 ?_ ?_); exact rfl)
    | ((with_reducible refine hQ.satAt hP hi1 ?_ ?_); exact rfl)
    | with_reducible refine hQ.sat hP ?_ ?_
    | with_reducible refine evt_law hQ (hP.sub rfl) ?_
    | with_reducible refine Law.ite ?_ ?_
    | ((try lift_lets); (with_reducible intro y); (have hy : Q y := ?_); clear_value y; rotate_left; subst y)
    | ((try lift_lets); (with_reducible intro y); (have hy : Q y.1 := ?_); clear_value y; rotate_left; subst y)
    | ((try lift_lets); (with_reducible intro x); (try clear_value x))
    | split
    | dsimp only

theorem execHflushExpiry_law (hQ : Law P Q) (hP : Has P [.his]) {h : Nat} {s : State}   (h0 : Q s) :
    outAll Q (execHflushExpiry h s) := by
  unfold execHflushExpiry
  repeat' first
    | with_reducible assumption
    | ((with_reducible refine boolGoal ?_); exact rfl)
    | ((with_reducible refine hP.one _ ?_); exact rfl)
    | with_reducible refine closeGroup_law hQ (hP.sub rfl) ?_
    | with_reducible refine outOk ?_
    | with_reducible exact outFault
    | with_reducible refine outWithin ?_
    | with_reducible refine iteOut ?_ ?_
    | ((try lift_lets); (with_reducible intro y); (have hy : Q y := ?_); clear_value y; rotate_left; subst y)
    | ((try lift_lets); (with_reducible intro x); (try clear_value x))

theorem clearValid_law (hQ : Law P Q) (hP : Has P [.grp 64, .mem, .poison]) {h : Nat} {s : State} {e : HisEntry}   (h0 : Q s) :
    Q (clearValid h s e) := by
  unfold clearValid
  repeat' first
    | with_reducible assumption
    | ((with_reducible refine boolGoal ?_); exact rfl)
    | ((with_reducible refine hP.one _ ?_); exact rfl)
    | with_reducible refine put_law hQ (hP.sub rfl) ?_
    | ((try lift_lets); (with_reducible intro y); (have hy : Q y := ?_); clear_value y; rotate_left; subst y)
    | ((try lift_lets); (with_reducible intro x); (try clear_value x))

theorem placeFrame_law (hQ : Law P Q) (hP : Has P [.grp 64, .his, .mem, .poison]) {h : Nat} {f : HisFrame} {bs : List Byte} {s : State} (hi0 : P (.one .hisHead h))  (h0 : Q s) :
    Q (placeFrame h f bs s) := by
  unfold placeFrame
  repeat' first
    | with_reducible assumption
    | ((with_reducible refine boolGoal ?_); exact rfl)
    | ((with_reducible refine hP.one _ ?_); exact rfl)
    | with_reducible refine clearValid_law hQ (hP.sub rfl) ?_
    | ((with_reducible refine hQ.satAt hP hi0 ?_ ?_); exact rfl)
    | with_reducible refine hQ.sat hP ?_ ?_
    | with_reducible refine put_law hQ (hP.sub rfl) ?_
    | with_reducible refine setHist_law hQ (hP.sub rfl) ?_
    | ((with_reducible refine hQ.wrAt hP hi0 ?_ ?_); exact rfl)
    | with_reducible refine hQ.wr hP ?_ ?_
    | ((with_reducible refine hQ.wrapAt hP hi0 ?_ ?_); exact rfl)
    | with_reducible refine hQ.wrap hP ?_ ?_
    | with_reducible refine evt_law hQ (hP.sub rfl) ?_
    | with_reducible refine Law.ite ?_ ?_
    | with_reducible refine Law.foldl (fun _ _ _ => ?_) ?_
    | with_reducible refine Law.foldlBy Prod.snd (fun _ _ _ => ?_) ?_
    | with_reducible refine Law.foldlBy Prod.fst (fun _ _ _ => ?_) ?_
    | ((try lift_lets); (with_reducible intro y); (have hy : Q y := ?_); clear_value y; rotate_left; subst y)
    | ((try lift_lets); (with_reducible intro y); (have hy : Q y.1 := ?_); clear_value y; rotate_left; subst y)
    | ((try lift_lets); (with_reducible intro x); (try clear_value x))
    | split
    | dsimp only

theorem execFrameWrite_law (hQ : Law P Q) (hP : Has P [.grp 64, .his, .mem, .poison]) {h : Nat} {s : State} (hi0 : P (.one .hisHead h))  (h0 : Q s) :
    outAll Q (execFrameWrite h s) := by
  unfold execFrameWrite
  repeat' first
    | with_reducible assumption
    | ((with_reducible refine boolGoal ?_); exact rfl)
    | ((with_reducible refine hP.one _ ?_); exact rfl)
    | with_reducible refine placeFrame_law hQ (hP.sub rfl) ?_ ?_
    | with_reducible refine Law.ite ?_ ?_
    | with_reducible refine outOk ?_
    | with_reducible exact outFault
    | with_reducible refine outWithin ?_
    | with_reducible refine iteOut ?_ ?_
    | ((try lift_lets); (with_reducible intro y); (have hy : Q y := ?_); clear_value y; rotate_left; subst y)
    | ((try lift_lets); (with_reducible intro x); (try clear_value x))
    | split
    | dsimp only

theorem stopHistory_law (hQ : Law P Q) (hP : Has P [.heads, .his, .power]) {h : Nat} {s : State} (hi0 : P (.one .head h))  (h0 : Q s) :
    Q (stopHistory h s) := by
  unfold stopHistory
  repeat' first
    | with_reducible assumption
    | ((with_reducible refine boolGoal ?_); exact rfl)
    | ((with_reducible refine hP.one _ ?_); exact rfl)
    | with_reducible refine closeGroup_law hQ (hP.sub rfl) ?_
    | with_reducible refine freeSlots_law hQ (hP.sub rfl) ?_ ?_
    | with_reducible refine setHead_law hQ (hP.sub rfl) ?_
    | with_reducible refine optAll.map (fun _ => ?_)
    | ((try lift_lets); (with_reducible intro y); (have hy : Q y := ?_); clear_value y; rotate_left; subst y)
    | ((try lift_lets); (with_reducible intro y); (have hy : Q y.1 := ?_); clear_value y; rotate_left; subst y)
    | ((try lift_lets); (with_reducible intro x); (try clear_value x))

theorem execHisCfg_law (hQ : Law P Q) (hP : Has P [.all .head, .all .hisHead, .grp 0, .grp 64, .heads, .his, .power, .procs, .sampled, .seq, .tokens]) {x : XWord} {s : State}   (h0 : Q s) :
    outAll Q (execHisCfg x s) := by
  unfold execHisCfg
  repeat' first
    | with_reducible assumption
    | ((with_reducible refine boolGoal ?_); exact rfl)
    | ((with_reducible refine hP.inst ?_); exact rfl)
    | ((with_reducible refine hP.one _ ?_); exact rfl)
    | ((with_reducible refine blockOp_law hQ (hP.sub rfl) hP ?_ (fun _ _ => ?_) ?_); (simp only [List.all, hisFields]; exact rfl))
    | with_reducible refine setHist_law hQ (hP.sub rfl) ?_
    | with_reducible refine stopHistory_law hQ (hP.sub rfl) ?_ ?_
    | with_reducible refine Law.ite ?_ ?_
    | with_reducible refine excPair ?_
    | with_reducible refine excState ?_
    | with_reducible exact excError
    | with_reducible refine iteExc ?_ ?_
    | with_reducible refine outOk ?_
    | with_reducible exact outFault
    | with_reducible refine outWithin ?_
    | with_reducible refine iteOut ?_ ?_
    | ((try lift_lets); (with_reducible intro y); (have hy : Q y := ?_); clear_value y; rotate_left; subst y)
    | ((try lift_lets); (with_reducible intro y); (have hy : Q y.1 := ?_); clear_value y; rotate_left; subst y)
    | ((try lift_lets); (with_reducible intro x); (try clear_value x))
    | split

theorem execCmpCfg_law (hQ : Law P Q) (hP : Has P [.grp 0, .grp 11, .grp 64, .procs, .sampled, .seq, .tokens]) {x : XWord} {s : State}   (h0 : Q s) :
    outAll Q (execCmpCfg x s) := by
  unfold execCmpCfg
  repeat' first
    | with_reducible assumption
    | ((with_reducible refine boolGoal ?_); exact rfl)
    | ((with_reducible refine hP.one _ ?_); exact rfl)
    | with_reducible refine xop_law hQ (hP.sub rfl) (fun _ => ?_) ?_
    | with_reducible refine hQ.wr hP ?_ ?_
    | with_reducible refine Law.ite ?_ ?_
    | with_reducible refine resFin ?_
    | with_reducible refine resNo ?_
    | with_reducible refine resStart ?_
    | with_reducible refine resForm ?_
    | with_reducible refine resGone ?_
    | with_reducible refine resHold ?_
    | with_reducible refine iteRes ?_ ?_
    | with_reducible refine outOk ?_
    | with_reducible exact outFault
    | with_reducible refine outWithin ?_
    | with_reducible refine iteOut ?_ ?_
    | ((try lift_lets); (with_reducible intro y); (have hy : Q y := ?_); clear_value y; rotate_left; subst y)
    | ((try lift_lets); (with_reducible intro x); (try clear_value x))
    | split

theorem hisCntOne_law (hQ : Law P Q) (hP : Has P []) {h : Nat} {s : State} (hi0 : P (.one .hisHead h))  (h0 : Q s) :
    Q (hisCntOne h s) := by
  unfold hisCntOne
  repeat' first
    | with_reducible assumption
    | ((with_reducible refine boolGoal ?_); exact rfl)
    | ((with_reducible refine hP.one _ ?_); exact rfl)
    | ((with_reducible refine hQ.clrAt hP hi0 ?_ ?_); simp only [List.all]; exact rfl)
    | ((with_reducible refine hQ.clr hP ?_ ?_); simp only [List.all]; exact rfl)

theorem cmpCnt_law (hQ : Law P Q) (hP : Has P [.grp 11]) {s : State}   (h0 : Q s) :
    Q (cmpCnt s) := by
  unfold cmpCnt
  repeat' first
    | with_reducible assumption
    | ((with_reducible refine boolGoal ?_); exact rfl)
    | ((with_reducible refine hP.one _ ?_); exact rfl)
    | ((with_reducible refine hQ.clr hP ?_ ?_); simp only [List.all]; exact rfl)

theorem countCheck_law (hQ : Law P Q) (hP : Has P [.grp 11, .grp 64]) {r : Nat} {inB : Nat} {outB : Nat} {s : State}   (h0 : Q s) :
    Q (countCheck r inB outB s) := by
  unfold countCheck
  repeat' first
    | with_reducible assumption
    | ((with_reducible refine boolGoal ?_); exact rfl)
    | ((with_reducible refine hP.one _ ?_); exact rfl)
    | with_reducible refine evt_law hQ (hP.sub rfl) ?_
    | with_reducible refine hQ.sat hP ?_ ?_
    | with_reducible refine Law.ite ?_ ?_
    | ((try lift_lets); (with_reducible intro y); (have hy : Q y := ?_); clear_value y; rotate_left; subst y)
    | ((try lift_lets); (with_reducible intro y); (have hy : Q y.1 := ?_); clear_value y; rotate_left; subst y)
    | ((try lift_lets); (with_reducible intro x); (try clear_value x))
    | split

theorem execCmpFrame_law (hQ : Law P Q) (hP : Has P [.grp 0, .grp 64, .his, .procs, .sampled, .seq, .tokens]) {x : XWord} {s : State}   (h0 : Q s) :
    outAll Q (execCmpFrame x s) := by
  unfold execCmpFrame
  repeat' first
    | with_reducible assumption
    | ((with_reducible refine boolGoal ?_); exact rfl)
    | ((with_reducible refine hP.one _ ?_); exact rfl)
    | with_reducible refine xop_law hQ (hP.sub rfl) (fun _ => ?_) ?_
    | with_reducible refine resFin ?_
    | with_reducible refine resNo ?_
    | with_reducible refine resStart ?_
    | with_reducible refine resForm ?_
    | with_reducible refine resGone ?_
    | with_reducible refine resHold ?_
    | with_reducible refine iteRes ?_ ?_
    | with_reducible refine outOk ?_
    | with_reducible exact outFault
    | with_reducible refine outWithin ?_
    | with_reducible refine iteOut ?_ ?_
    | ((try lift_lets); (with_reducible intro y); (have hy : Q y := ?_); clear_value y; rotate_left; subst y)
    | ((try lift_lets); (with_reducible intro y); (have hy : Q y.1 := ?_); clear_value y; rotate_left; subst y)
    | ((try lift_lets); (with_reducible intro x); (try clear_value x))
    | with_reducible refine hQ.his ?_ ?_

theorem execCmpFrameComplete_law (hQ : Law P Q) (hP : Has P [.grp 11, .grp 64, .his, .mem, .poison, .seq]) {k : Nat} {s : State}   (h0 : Q s) :
    outAll Q (execCmpFrameComplete k s) := by
  unfold execCmpFrameComplete
  repeat' first
    | with_reducible assumption
    | ((with_reducible refine boolGoal ?_); exact rfl)
    | ((with_reducible refine hP.one _ ?_); exact rfl)
    | with_reducible refine countCheck_law hQ (hP.sub rfl) ?_
    | with_reducible refine put_law hQ (hP.sub rfl) ?_
    | with_reducible refine write64_law hQ (hP.sub rfl) ?_
    | with_reducible refine outOk ?_
    | with_reducible exact outFault
    | with_reducible refine outWithin ?_
    | with_reducible refine iteOut ?_ ?_
    | with_reducible refine optAll.getD ?_ ?_
    | ((try lift_lets); (with_reducible intro y); (have hy : Q y := ?_); clear_value y; rotate_left; subst y)
    | ((try lift_lets); (with_reducible intro y); (have hy : Q y.2 := ?_); clear_value y; rotate_left; subst y)
    | ((try lift_lets); (with_reducible intro y); (have hy : Q y.1 := ?_); clear_value y; rotate_left; subst y)
    | ((try lift_lets); (with_reducible intro x); (try clear_value x))
    | split
    | dsimp only
    | with_reducible refine hQ.seq_his ?_ ?_ ?_
    | with_reducible refine hQ.seq ?_ ?_
    | with_reducible refine hQ.his ?_ ?_

theorem cropDma_law (hQ : Law P Q) (hP : Has P [.all .dma]) {k : Crop} {s : State} (h0 : Q s) : Q (cropDma k s).2 := by
  unfold cropDma
  split
  · exact h0
  have h := takeDma_law hQ (owner := 2) (hP.sub rfl) h0
  split
  · next heq => rw [heq] at h; exact h
  · exact h0

theorem execHisCrop_law (hQ : Law P Q) (hP : Has P [.all .dma, .grp 0, .grp 64, .his, .procs, .sampled, .seq, .tokens]) {x : XWord} {s : State}   (h0 : Q s) :
    outAll Q (execHisCrop x s) := by
  unfold execHisCrop
  repeat' first
    | with_reducible assumption
    | ((with_reducible refine boolGoal ?_); exact rfl)
    | ((with_reducible refine hP.inst ?_); exact rfl)
    | ((with_reducible refine hP.one _ ?_); exact rfl)
    | with_reducible refine xop_law hQ (hP.sub rfl) (fun _ => ?_) ?_
    | with_reducible refine closeGroup_law hQ (hP.sub rfl) ?_
    | with_reducible refine cropDma_law hQ (hP.sub rfl) ?_
    | with_reducible refine Law.ite ?_ ?_
    | with_reducible refine resFin ?_
    | with_reducible refine resNo ?_
    | with_reducible refine resStart ?_
    | with_reducible refine resForm ?_
    | with_reducible refine resGone ?_
    | with_reducible refine resHold ?_
    | with_reducible refine iteRes ?_ ?_
    | with_reducible refine outOk ?_
    | with_reducible exact outFault
    | with_reducible refine outWithin ?_
    | with_reducible refine iteOut ?_ ?_
    | ((try lift_lets); (with_reducible intro y); (have hy : Q y := ?_); clear_value y; rotate_left; subst y)
    | ((try lift_lets); (with_reducible intro y); (have hy : Q y.1 := ?_); clear_value y; rotate_left; subst y)
    | ((try lift_lets); (with_reducible intro x); (try clear_value x))
    | split
    | dsimp only
    | with_reducible refine hQ.his ?_ ?_

theorem Crop_deliver_law (hQ : Law P Q) (hP : Has P [.grp 11, .grp 64, .mem, .poison]) {k : Crop} {m : Cut} {e : HisEntry} (h : Q m.s) :
    Q (Crop.deliver k m e).s := by
  unfold Crop.deliver
  split
  · exact h
  split
  · exact h
  dsimp only
  split
  · exact h
  refine put_law hQ (hP.sub rfl) ?_
  split
  · refine countCheck_law hQ (hP.sub rfl) ?_
    split
    · exact put_law hQ (hP.sub rfl) h
    · exact h
  · split
    · exact put_law hQ (hP.sub rfl) h
    · exact h

theorem cropDmaEnd_law (hQ : Law P Q) (hP : Has P [.all .dma, .grp 64, .tokens]) {k : Crop} {n : Nat} {s : State}   (h0 : Q s) :
    Q (cropDmaEnd k n s) := by
  unfold cropDmaEnd
  repeat' first
    | with_reducible assumption
    | ((with_reducible refine boolGoal ?_); exact rfl)
    | ((with_reducible refine hP.inst ?_); exact rfl)
    | ((with_reducible refine hP.one _ ?_); exact rfl)
    | ((with_reducible refine hQ.wrAll hP ?_ ?_); simp only [List.all]; exact rfl)
    | with_reducible refine hQ.wrap hP ?_ ?_
    | with_reducible refine evt_law hQ (hP.sub rfl) ?_
    | with_reducible refine emit_law hQ (hP.sub rfl) ?_
    | ((try lift_lets); (with_reducible intro y); (have hy : Q y := ?_); clear_value y; rotate_left; subst y)
    | ((try lift_lets); (with_reducible intro x); (try clear_value x))
    | split
    | dsimp only

theorem execCropComplete_law (hQ : Law P Q) (hP : Has P [.all .dma, .all .hisHead, .grp 11, .grp 64, .his, .mem, .poison, .seq, .tokens]) {i : Nat} {s : State} (h0 : Q s) :
    outAll Q (execCropComplete i s) := by
  unfold execCropComplete
  split
  · exact h0
  next k _ =>
    have hc : Q (cropDma k s).2 := cropDma_law hQ (hP.sub rfl) h0
    revert hc
    generalize cropDma k s = r
    obtain ⟨k', t⟩ := r
    intro hc
    dsimp -zeta only at hc ⊢
    lift_lets
    intro src
    clear_value src
    intro t'
    have ht : Q t' := hQ.his (hP.one _ rfl) hc
    clear_value t'
    intro todo
    clear_value todo
    split
    · exact ht
    · refine outOk (evt_law hQ (hP.sub rfl) (cropDmaEnd_law hQ (hP.sub rfl) (hQ.sat hP rfl (hQ.writeWords (hP.one _ rfl) (hP.one _ rfl) ?_))))
      refine hQ.seq_his (hP.one _ rfl) (hP.one _ rfl) ?_
      exact Law.foldlBy Cut.s (fun _ _ h => Crop_deliver_law hQ (hP.sub rfl) h) ht

end Sys2Proof.Machine
end

