-- ==== Sys2Proof/Laws/Flow.lean ====
section
/-!
SUPPORT. What each function of Machine/Flow.lean can change: every law of the parts it names survives it.
-/
namespace Sys2Proof.Machine

variable {P : Part → Prop} {Q : State → Prop}

theorem stageEff_law (hQ : Law P Q) (hP : Has P [.all .geom, .all .rtkView, .all .seam, .all .view, .grp 7, .mem, .recs, .rpa]) {e : Held} {s : State} (hi0 : P (.one .featMap e.pkt.stream))  (h0 : Q s) :
    Q (stageEff e s) := by
  unfold stageEff
  repeat' first
    | with_reducible assumption
    | ((with_reducible refine boolGoal ?_); exact rfl)
    | ((with_reducible refine hP.inst ?_); exact rfl)
    | ((with_reducible refine hP.one _ ?_); exact rfl)
    | with_reducible refine rpaEff_law hQ (hP.sub rfl) ?_
    | with_reducible refine sstEff_law hQ (hP.sub rfl) ?_
    | with_reducible refine rtkEff_law hQ (hP.sub rfl) ?_
    | with_reducible refine rclEff_law hQ (hP.sub rfl) ?_ ?_
    | ((try lift_lets); (with_reducible intro y); (have hy : Q y := ?_); clear_value y; rotate_left; subst y)
    | ((try lift_lets); (with_reducible intro y); (have hy : Q y.1 := ?_); clear_value y; rotate_left; subst y)
    | ((try lift_lets); (with_reducible intro x); (try clear_value x))
    | split
    | dsimp only

theorem retireAll_law (hQ : Law P Q) (hP : Has P [.all .featMap, .all .geom, .all .lrp, .all .rtkView, .all .seam, .all .view, .grp 7, .grp 64, .cuts, .held, .mem, .progress, .recs, .rpa]) {s : State}   (h0 : Q s) :
    Q (retireAll s) := by
  unfold retireAll
  repeat' first
    | with_reducible assumption
    | ((with_reducible refine boolGoal ?_); exact rfl)
    | ((with_reducible refine hP.inst ?_); exact rfl)
    | ((with_reducible refine hP.one _ ?_); exact rfl)
    | with_reducible refine liftHalts_law hQ (hP.sub rfl) ?_
    | with_reducible refine retireEpochs_law hQ (hP.sub rfl) (fun _ _ _ => ?_) ?_
    | with_reducible refine stageEff_law hQ (hP.sub rfl) ?_ ?_

theorem startLoad_law (hQ : Law P Q) (hP : Has P [.rpa]) {p : Pkt} {s : State}   (h0 : Q s) :
    optAll Q (startLoad p s) := by
  unfold startLoad
  repeat' first
    | with_reducible assumption
    | ((with_reducible refine boolGoal ?_); exact rfl)
    | ((with_reducible refine hP.one _ ?_); exact rfl)
    | with_reducible refine optSome ?_
    | with_reducible exact optNone
    | with_reducible refine iteOpt ?_ ?_
    | with_reducible refine optAll.getD ?_ ?_
    | with_reducible refine optAll.map (fun _ => ?_)
    | ((try lift_lets); (with_reducible intro y); (have hy : Q y := ?_); clear_value y; rotate_left; subst y)
    | ((try lift_lets); (with_reducible intro x); (try clear_value x))
    | with_reducible refine hQ.rpa ?_ ?_

theorem startCopy_law (hQ : Law P Q) (hP : Has P [.recs, .rpa]) {p : Pkt} {s : State}   (h0 : Q s) :
    optAll Q (startCopy p s) := by
  unfold startCopy
  repeat' first
    | with_reducible assumption
    | ((with_reducible refine boolGoal ?_); exact rfl)
    | ((with_reducible refine hP.one _ ?_); exact rfl)
    | with_reducible refine startLoad_law hQ (hP.sub rfl) ?_
    | with_reducible refine optGet (by with_reducible assumption) ?_
    | with_reducible refine startModelCopy_law hQ (hP.sub rfl) ?_
    | with_reducible refine optGet (by with_reducible assumption) ?_
    | with_reducible refine Law.ite ?_ ?_
    | with_reducible refine optSome ?_
    | with_reducible exact optNone
    | with_reducible refine iteOpt ?_ ?_
    | split

theorem insertPkt_law (hQ : Law P Q) (hP : Has P [.all .featMap, .all .geom, .all .rtkView, .all .seam, .all .view, .grp 7, .grp 64, .mem, .progress, .recs, .rpa, .transit]) {f : Forming} {s : State} {t : Bool × Nat}   (h0 : Q s) :
    Q (insertPkt f s t) := by
  unfold insertPkt
  repeat' first
    | with_reducible assumption
    | ((with_reducible refine boolGoal ?_); exact rfl)
    | ((with_reducible refine hP.inst ?_); exact rfl)
    | ((with_reducible refine hP.one _ ?_); exact rfl)
    | with_reducible refine applyOne_law hQ (hP.sub rfl) (fun _ _ _ => ?_) ?_
    | with_reducible refine stageEff_law hQ (hP.sub rfl) ?_ ?_
    | with_reducible refine Law.ite ?_ ?_
    | with_reducible refine Law.foldl (fun _ _ _ => ?_) ?_
    | with_reducible refine Law.foldlBy Prod.snd (fun _ _ _ => ?_) ?_
    | with_reducible refine Law.foldlBy Prod.fst (fun _ _ _ => ?_) ?_
    | with_reducible refine optAll.map (fun _ => ?_)
    | ((try lift_lets); (with_reducible intro y); (have hy : Q y := ?_); clear_value y; rotate_left; subst y)
    | ((try lift_lets); (with_reducible intro y); (have hy : Q y.2 := ?_); clear_value y; rotate_left; subst y)
    | ((try lift_lets); (with_reducible intro y); (have hy : Q y.1 := ?_); clear_value y; rotate_left; subst y)
    | ((try lift_lets); (with_reducible intro x); (try clear_value x))
    | split
    | dsimp only
    | with_reducible refine hQ.transit ?_ ?_

theorem insertOnce_law (hQ : Law P Q) (hP : Has P [.all .bank, .recs, .rpa, .transit]) {f : Forming} {ts : List (Bool × Nat)} {s : State}   (h0 : Q s) :
    Q (insertOnce f ts s) := by
  unfold insertOnce
  repeat' first
    | with_reducible assumption
    | ((with_reducible refine boolGoal ?_); exact rfl)
    | ((with_reducible refine hP.inst ?_); exact rfl)
    | ((with_reducible refine hP.one _ ?_); exact rfl)
    | with_reducible refine allocate_law hQ (hP.sub rfl) ?_
    | with_reducible refine startCopy_law hQ (hP.sub rfl) ?_
    | with_reducible refine optGet (by with_reducible assumption) ?_
    | with_reducible refine Law.ite ?_ ?_
    | with_reducible refine optAll.getD ?_ ?_
    | ((try lift_lets); (with_reducible intro y); (have hy : Q y := ?_); clear_value y; rotate_left; subst y)
    | ((try lift_lets); (with_reducible intro y); (have hy : Q y.2 := ?_); clear_value y; rotate_left; subst y)
    | ((try lift_lets); (with_reducible intro y); (have hy : Q y.1 := ?_); clear_value y; rotate_left; subst y)
    | ((try lift_lets); (with_reducible intro x); (try clear_value x))
    | split
    | dsimp only
    | with_reducible refine hQ.transit ?_ ?_

theorem execStreamedOpIssue_law (hQ : Law P Q) (hP : Has P [.all .bank, .all .featMap, .all .geom, .all .rtkView, .all .seam, .all .view, .grp 7, .grp 64, .mem, .procs, .progress, .recs, .rpa, .sampled, .seq, .transit]) {s : State}   (h0 : Q s) :
    outAll Q (execStreamedOpIssue s) := by
  unfold execStreamedOpIssue
  repeat' first
    | with_reducible assumption
    | ((with_reducible refine boolGoal ?_); exact rfl)
    | ((with_reducible refine hP.inst ?_); exact rfl)
    | ((with_reducible refine hP.one _ ?_); exact rfl)
    | with_reducible refine insertOnce_law hQ (hP.sub rfl) ?_
    | with_reducible refine insertPkt_law hQ (hP.sub rfl) ?_
    | with_reducible refine xDone_law hQ (hP.sub rfl) ?_
    | with_reducible refine evt_law hQ (hP.sub rfl) ?_
    | with_reducible refine Law.ite ?_ ?_
    | with_reducible refine outOk ?_
    | with_reducible exact outFault
    | with_reducible refine outWithin ?_
    | with_reducible refine iteOut ?_ ?_
    | with_reducible refine Law.foldl (fun _ _ _ => ?_) ?_
    | with_reducible refine Law.foldlBy Prod.snd (fun _ _ _ => ?_) ?_
    | with_reducible refine Law.foldlBy Prod.fst (fun _ _ _ => ?_) ?_
    | ((try lift_lets); (with_reducible intro y); (have hy : Q y := ?_); clear_value y; rotate_left; subst y)
    | ((try lift_lets); (with_reducible intro y); (have hy : Q y.2 := ?_); clear_value y; rotate_left; subst y)
    | ((try lift_lets); (with_reducible intro y); (have hy : Q y.1 := ?_); clear_value y; rotate_left; subst y)
    | ((try lift_lets); (with_reducible intro x); (try clear_value x))
    | split
    | dsimp only
    | with_reducible refine hQ.seq ?_ ?_

theorem arrivesStopped_law (hQ : Law P Q) (hP : Has P [.all .featMap, .all .geom, .all .rtkView, .all .seam, .all .view, .grp 7, .grp 64, .held, .mem, .progress, .recs, .rpa]) {e : Held} {s : State}   (h0 : Q s) :
    Q (arrivesStopped e s) := by
  unfold arrivesStopped
  repeat' first
    | with_reducible assumption
    | ((with_reducible refine boolGoal ?_); exact rfl)
    | ((with_reducible refine hP.inst ?_); exact rfl)
    | ((with_reducible refine hP.one _ ?_); exact rfl)
    | with_reducible refine applyOne_law hQ (hP.sub rfl) (fun _ _ _ => ?_) ?_
    | with_reducible refine stageEff_law hQ (hP.sub rfl) ?_ ?_
    | with_reducible refine Law.ite ?_ ?_
    | ((try lift_lets); (with_reducible intro y); (have hy : Q y := ?_); clear_value y; rotate_left; subst y)
    | ((try lift_lets); (with_reducible intro x); (try clear_value x))
    | split
    | with_reducible refine hQ.held ?_ ?_

theorem execCtrlPacketArrive_law (hQ : Law P Q) (hP : Has P [.all .featMap, .all .geom, .all .rtkView, .all .seam, .all .view, .grp 7, .grp 64, .held, .mem, .progress, .recs, .rpa, .transit]) {n : Nat} {s : State}   (h0 : Q s) :
    outAll Q (execCtrlPacketArrive n s) := by
  unfold execCtrlPacketArrive
  repeat' first
    | with_reducible assumption
    | ((with_reducible refine boolGoal ?_); exact rfl)
    | ((with_reducible refine hP.inst ?_); exact rfl)
    | ((with_reducible refine hP.one _ ?_); exact rfl)
    | with_reducible refine startCopy_law hQ (hP.sub rfl) ?_
    | with_reducible refine optGet (by with_reducible assumption) ?_
    | with_reducible refine arrivesStopped_law hQ (hP.sub rfl) ?_
    | with_reducible refine evt_law hQ (hP.sub rfl) ?_
    | with_reducible refine Law.ite ?_ ?_
    | with_reducible refine outOk ?_
    | with_reducible exact outFault
    | with_reducible refine outWithin ?_
    | with_reducible refine iteOut ?_ ?_
    | with_reducible refine optAll.getD ?_ ?_
    | ((try lift_lets); (with_reducible intro y); (have hy : Q y := ?_); clear_value y; rotate_left; subst y)
    | ((try lift_lets); (with_reducible intro y); (have hy : Q y.1 := ?_); clear_value y; rotate_left; subst y)
    | ((try lift_lets); (with_reducible intro x); (try clear_value x))
    | split
    | dsimp only
    | with_reducible refine hQ.transit ?_ ?_
    | with_reducible refine hQ.held ?_ ?_

theorem execGapPacketArrive_law (hQ : Law P Q) (hP : Has P [.all .featMap, .all .geom, .all .lrp, .all .rtkView, .all .seam, .all .view, .all .wlkPort, .grp 0, .grp 7, .grp 17, .grp 64, .cutPkts, .cuts, .gaps, .held, .mem, .progress, .recs, .rpa, .sent, .seq, .store, .strips, .tokens, .views]) {n : Nat} {s : State}   (h0 : Q s) :
    outAll Q (execGapPacketArrive n s) := by
  unfold execGapPacketArrive
  repeat' first
    | with_reducible assumption
    | ((with_reducible refine boolGoal ?_); exact rfl)
    | ((with_reducible refine hP.inst ?_); exact rfl)
    | ((with_reducible refine hP.one _ ?_); exact rfl)
    | with_reducible refine countPkt_law hQ (hP.sub rfl) ?_
    | with_reducible refine stageGap_law hQ (hP.sub rfl) (fun _ _ _ => ?_) ?_
    | with_reducible refine rpaEff_law hQ (hP.sub rfl) ?_
    | with_reducible refine noEff_law hQ (hP.sub rfl) ?_
    | with_reducible refine retireAll_law hQ (hP.sub rfl) ?_
    | with_reducible refine headGap_law hQ (hP.sub rfl) ?_
    | with_reducible refine Law.ite ?_ ?_
    | with_reducible refine outOk ?_
    | with_reducible exact outFault
    | with_reducible refine outWithin ?_
    | with_reducible refine iteOut ?_ ?_
    | with_reducible refine Law.foldl (fun _ _ _ => ?_) ?_
    | with_reducible refine Law.foldlBy Prod.snd (fun _ _ _ => ?_) ?_
    | with_reducible refine Law.foldlBy Prod.fst (fun _ _ _ => ?_) ?_
    | ((try lift_lets); (with_reducible intro y); (have hy : Q y := ?_); clear_value y; rotate_left; subst y)
    | ((try lift_lets); (with_reducible intro y); (have hy : Q y.1 := ?_); clear_value y; rotate_left; subst y)
    | ((try lift_lets); (with_reducible intro x); (try clear_value x))
    | split
    | dsimp only
    | with_reducible refine hQ.gaps ?_ ?_

theorem execCutPacketArrive_law (hQ : Law P Q) (hP : Has P [.grp 64, .cutPkts, .heads]) {n : Nat} {s : State}   (h0 : Q s) :
    outAll Q (execCutPacketArrive n s) := by
  unfold execCutPacketArrive
  repeat' first
    | with_reducible assumption
    | ((with_reducible refine boolGoal ?_); exact rfl)
    | ((with_reducible refine hP.one _ ?_); exact rfl)
    | with_reducible refine countPkt_law hQ (hP.sub rfl) ?_
    | with_reducible refine setHead_law hQ (hP.sub rfl) ?_
    | with_reducible refine Law.ite ?_ ?_
    | with_reducible refine outOk ?_
    | with_reducible exact outFault
    | with_reducible refine outWithin ?_
    | with_reducible refine iteOut ?_ ?_
    | ((try lift_lets); (with_reducible intro y); (have hy : Q y := ?_); clear_value y; rotate_left; subst y)
    | ((try lift_lets); (with_reducible intro y); (have hy : Q y.1 := ?_); clear_value y; rotate_left; subst y)
    | ((try lift_lets); (with_reducible intro x); (try clear_value x))
    | split
    | dsimp only
    | with_reducible refine hQ.cutPkts ?_ ?_

theorem execProgressMarkArrive_law (hQ : Law P Q) (hP : Has P [.all .featMap, .all .geom, .all .lrp, .all .rtkView, .all .seam, .all .view, .grp 0, .grp 7, .grp 64, .cuts, .held, .mem, .progress, .recs, .rpa, .seq]) {unit : Nat} {s : State}   (h0 : Q s) :
    outAll Q (execProgressMarkArrive unit s) := by
  unfold execProgressMarkArrive
  repeat' first
    | with_reducible assumption
    | ((with_reducible refine boolGoal ?_); exact rfl)
    | ((with_reducible refine hP.inst ?_); exact rfl)
    | ((with_reducible refine hP.one _ ?_); exact rfl)
    | with_reducible refine retireAll_law hQ (hP.sub rfl) ?_
    | with_reducible refine markAtRcl_law hQ (hP.sub rfl) ?_
    | with_reducible refine markAtDlg_law hQ (hP.sub rfl) ?_
    | with_reducible refine outOk ?_
    | with_reducible exact outFault
    | with_reducible refine outWithin ?_
    | with_reducible refine iteOut ?_ ?_
    | ((try lift_lets); (with_reducible intro y); (have hy : Q y := ?_); clear_value y; rotate_left; subst y)
    | ((try lift_lets); (with_reducible intro x); (try clear_value x))
    | split
    | dsimp only

theorem divertOutbox_law (hQ : Law P Q) (hP : Has P [.all .head, .grp 9, .grp 64, .gaps, .heads, .held, .mem, .poison, .power, .progress, .rpa, .sump]) {l : Nat} {s : State}   (h0 : Q s) :
    Q (divertOutbox l s) := by
  unfold divertOutbox
  repeat' first
    | with_reducible assumption
    | ((with_reducible refine boolGoal ?_); exact rfl)
    | ((with_reducible refine hP.inst ?_); exact rfl)
    | ((with_reducible refine hP.one _ ?_); exact rfl)
    | with_reducible refine divertNext_law hQ (hP.sub rfl) ?_
    | with_reducible refine divertAtRpa_law hQ (hP.sub rfl) ?_ ?_
    | with_reducible refine Law.ite ?_ ?_
    | ((try lift_lets); (with_reducible intro y); (have hy : Q y := ?_); clear_value y; rotate_left; subst y)
    | ((try lift_lets); (with_reducible intro x); (try clear_value x))
    | split
    | dsimp only
    | with_reducible refine hQ.rpa ?_ ?_

theorem execStageTimeout_law (hQ : Law P Q) (hP : Has P [.all .featMap, .all .geom, .all .head, .all .lrp, .all .rclView, .all .rtkView, .all .seam, .all .stream, .all .view, .all .wlkPort, .grp 0, .grp 7, .grp 9, .grp 17, .grp 64, .cutPkts, .cuts, .gaps, .heads, .held, .mem, .ovs, .poison, .power, .progress, .recs, .rpa, .sent, .seq, .store, .sump, .tokens, .views]) {stage : Nat} {i : Nat} {s : State} (hi0 : P (.one .hisHead i))  (h0 : Q s) :
    outAll Q (execStageTimeout stage i s) := by
  unfold execStageTimeout
  repeat' first
    | with_reducible assumption
    | ((with_reducible refine boolGoal ?_); exact rfl)
    | ((with_reducible refine hP.inst ?_); exact rfl)
    | ((with_reducible refine hP.one _ ?_); exact rfl)
    | with_reducible refine retireAll_law hQ (hP.sub rfl) ?_
    | with_reducible refine divertOutbox_law hQ (hP.sub rfl) ?_
    | with_reducible refine divertView_law hQ (hP.sub rfl) ?_
    | with_reducible refine divertAtRtk_law hQ (hP.sub rfl) ?_
    | with_reducible refine divertAtRcl_law hQ (hP.sub rfl) ?_
    | with_reducible refine divertAtDlg_law hQ (hP.sub rfl) ?_
    | with_reducible refine divertAtHis_law hQ (hP.sub rfl) ?_ ?_ ?_
    | with_reducible refine divertAtOvs_law hQ (hP.sub rfl) ?_
    | with_reducible refine outOk ?_
    | with_reducible exact outFault
    | with_reducible refine outWithin ?_
    | with_reducible refine iteOut ?_ ?_
    | ((try lift_lets); (with_reducible intro y); (have hy : Q y := ?_); clear_value y; rotate_left; subst y)
    | ((try lift_lets); (with_reducible intro x); (try clear_value x))
    | split
    | dsimp only

theorem execStripAccept_law (hQ : Law P Q) (hP : Has P [.all .featMap, .all .geom, .all .head, .all .lrp, .all .rpaStat, .all .rtkView, .all .seam, .all .view, .all .wlkPort, .grp 0, .grp 7, .grp 17, .grp 64, .commits, .cutPkts, .cuts, .free, .heads, .held, .mem, .poison, .power, .progress, .recs, .rpa, .sent, .seq, .store, .strips, .tokens, .views]) {l : Nat} {s : State}   (h0 : Q s) :
    outAll Q (execStripAccept l s) := by
  unfold execStripAccept
  repeat' first
    | with_reducible assumption
    | ((with_reducible refine boolGoal ?_); exact rfl)
    | ((with_reducible refine hP.inst ?_); exact rfl)
    | ((with_reducible refine hP.one _ ?_); exact rfl)
    | with_reducible refine retireAll_law hQ (hP.sub rfl) ?_
    | with_reducible refine stripAccept_law hQ (hP.sub rfl) ?_
    | with_reducible refine outOk ?_
    | with_reducible exact outFault
    | with_reducible refine outWithin ?_
    | with_reducible refine iteOut ?_ ?_
    | ((try lift_lets); (with_reducible intro y); (have hy : Q y := ?_); clear_value y; rotate_left; subst y)
    | ((try lift_lets); (with_reducible intro x); (try clear_value x))

theorem execViewRowForm_law (hQ : Law P Q) (hP : Has P [.all .featMap, .all .geom, .all .lrp, .all .rtkView, .all .seam, .all .view, .all .wlkPort, .grp 0, .grp 7, .grp 17, .grp 64, .cutPkts, .cuts, .held, .mem, .progress, .recs, .rpa, .sent, .seq, .store, .tokens, .views]) {v : Nat} {s : State}   (h0 : Q s) :
    outAll Q (execViewRowForm v s) := by
  unfold execViewRowForm
  repeat' first
    | with_reducible assumption
    | ((with_reducible refine boolGoal ?_); exact rfl)
    | ((with_reducible refine hP.inst ?_); exact rfl)
    | ((with_reducible refine hP.one _ ?_); exact rfl)
    | with_reducible refine retireAll_law hQ (hP.sub rfl) ?_
    | with_reducible refine viewRowForm_law hQ (hP.sub rfl) ?_
    | with_reducible refine outOk ?_
    | with_reducible exact outFault
    | with_reducible refine outWithin ?_
    | with_reducible refine iteOut ?_ ?_
    | ((try lift_lets); (with_reducible intro y); (have hy : Q y := ?_); clear_value y; rotate_left; subst y)
    | ((try lift_lets); (with_reducible intro x); (try clear_value x))

theorem execEdgetoExpiry_law (hQ : Law P Q) (hP : Has P [.all .featMap, .all .geom, .all .lrp, .all .rtkView, .all .seam, .all .view, .all .wlkPort, .grp 0, .grp 7, .grp 17, .grp 64, .cutPkts, .cuts, .held, .mem, .progress, .recs, .rpa, .sent, .seq, .store, .tokens, .views]) {v : Nat} {s : State}   (h0 : Q s) :
    outAll Q (execEdgetoExpiry v s) := by
  unfold execEdgetoExpiry
  repeat' first
    | with_reducible assumption
    | ((with_reducible refine boolGoal ?_); exact rfl)
    | ((with_reducible refine hP.inst ?_); exact rfl)
    | ((with_reducible refine hP.one _ ?_); exact rfl)
    | with_reducible refine retireAll_law hQ (hP.sub rfl) ?_
    | with_reducible refine viewRowForm_law hQ (hP.sub rfl) ?_
    | with_reducible refine outOk ?_
    | with_reducible exact outFault
    | with_reducible refine outWithin ?_
    | with_reducible refine iteOut ?_ ?_
    | ((try lift_lets); (with_reducible intro y); (have hy : Q y := ?_); clear_value y; rotate_left; subst y)
    | ((try lift_lets); (with_reducible intro x); (try clear_value x))

theorem execViewRowProcess_law (hQ : Law P Q) (hP : Has P [.all .featMap, .all .geom, .all .lrp, .all .rtkView, .all .seam, .all .view, .grp 0, .grp 7, .grp 9, .grp 64, .cuts, .held, .mem, .progress, .recs, .rpa, .seq, .store, .sump]) {v : Nat} {s : State}   (h0 : Q s) :
    outAll Q (execViewRowProcess v s) := by
  unfold execViewRowProcess
  repeat' first
    | with_reducible assumption
    | ((with_reducible refine boolGoal ?_); exact rfl)
    | ((with_reducible refine hP.inst ?_); exact rfl)
    | ((with_reducible refine hP.one _ ?_); exact rfl)
    | with_reducible refine retireAll_law hQ (hP.sub rfl) ?_
    | with_reducible refine viewRowProcess_law hQ (hP.sub rfl) ?_
    | with_reducible refine outOk ?_
    | with_reducible exact outFault
    | with_reducible refine outWithin ?_
    | with_reducible refine iteOut ?_ ?_
    | ((try lift_lets); (with_reducible intro y); (have hy : Q y := ?_); clear_value y; rotate_left; subst y)
    | ((try lift_lets); (with_reducible intro x); (try clear_value x))

theorem execViewGapProcess_law (hQ : Law P Q) (hP : Has P [.all .featMap, .all .geom, .all .lrp, .all .rtkView, .all .seam, .all .view, .grp 7, .grp 64, .cuts, .held, .mem, .progress, .recs, .rpa, .store]) {v : Nat} {s : State}   (h0 : Q s) :
    outAll Q (execViewGapProcess v s) := by
  unfold execViewGapProcess
  repeat' first
    | with_reducible assumption
    | ((with_reducible refine boolGoal ?_); exact rfl)
    | ((with_reducible refine hP.inst ?_); exact rfl)
    | ((with_reducible refine hP.one _ ?_); exact rfl)
    | with_reducible refine retireAll_law hQ (hP.sub rfl) ?_
    | with_reducible refine viewGapProcess_law hQ (hP.sub rfl) ?_
    | with_reducible refine outOk ?_
    | with_reducible exact outFault
    | with_reducible refine outWithin ?_
    | with_reducible refine iteOut ?_ ?_
    | ((try lift_lets); (with_reducible intro y); (have hy : Q y := ?_); clear_value y; rotate_left; subst y)
    | ((try lift_lets); (with_reducible intro x); (try clear_value x))

theorem execViewStopProcess_law (hQ : Law P Q) (hP : Has P [.all .featMap, .all .geom, .all .lrp, .all .rtkView, .all .seam, .all .view, .grp 0, .grp 7, .grp 64, .cuts, .held, .mem, .progress, .recs, .rpa, .seq, .store]) {v : Nat} {s : State}   (h0 : Q s) :
    outAll Q (execViewStopProcess v s) := by
  unfold execViewStopProcess
  repeat' first
    | with_reducible assumption
    | ((with_reducible refine boolGoal ?_); exact rfl)
    | ((with_reducible refine hP.inst ?_); exact rfl)
    | ((with_reducible refine hP.one _ ?_); exact rfl)
    | with_reducible refine retireAll_law hQ (hP.sub rfl) ?_
    | with_reducible refine viewStopProcess_law hQ (hP.sub rfl) ?_
    | with_reducible refine outOk ?_
    | with_reducible exact outFault
    | with_reducible refine outWithin ?_
    | with_reducible refine iteOut ?_ ?_
    | ((try lift_lets); (with_reducible intro y); (have hy : Q y := ?_); clear_value y; rotate_left; subst y)
    | ((try lift_lets); (with_reducible intro x); (try clear_value x))

theorem execHistoryRowTake_law (hQ : Law P Q) (hP : Has P [.all .featMap, .all .geom, .all .lrp, .all .rtkView, .all .seam, .all .view, .grp 0, .grp 7, .grp 64, .cuts, .heads, .held, .his, .mem, .power, .progress, .recs, .rpa, .seq]) {h : Nat} {s : State} (hi0 : P (.one .head h)) (hi1 : P (.one .hisHead h))  (h0 : Q s) :
    outAll Q (execHistoryRowTake h s) := by
  unfold execHistoryRowTake
  repeat' first
    | with_reducible assumption
    | ((with_reducible refine boolGoal ?_); exact rfl)
    | ((with_reducible refine hP.inst ?_); exact rfl)
    | ((with_reducible refine hP.one _ ?_); exact rfl)
    | with_reducible refine retireAll_law hQ (hP.sub rfl) ?_
    | with_reducible refine historyTake_law hQ (hP.sub rfl) ?_ ?_ ?_
    | with_reducible refine outOk ?_
    | with_reducible exact outFault
    | with_reducible refine outWithin ?_
    | with_reducible refine iteOut ?_ ?_
    | ((try lift_lets); (with_reducible intro y); (have hy : Q y := ?_); clear_value y; rotate_left; subst y)
    | ((try lift_lets); (with_reducible intro x); (try clear_value x))

theorem execOvsSourceRow_law (hQ : Law P Q) (hP : Has P [.all .featMap, .all .geom, .all .lrp, .all .rtkView, .all .seam, .all .stream, .all .view, .grp 7, .grp 64, .cuts, .held, .mem, .ovs, .progress, .recs, .rpa, .store]) {k : Nat} {s : State}   (h0 : Q s) :
    outAll Q (execOvsSourceRow k s) := by
  unfold execOvsSourceRow
  repeat' first
    | with_reducible assumption
    | ((with_reducible refine boolGoal ?_); exact rfl)
    | ((with_reducible refine hP.inst ?_); exact rfl)
    | ((with_reducible refine hP.one _ ?_); exact rfl)
    | with_reducible refine retireAll_law hQ (hP.sub rfl) ?_
    | with_reducible refine ovsSourceRow_law hQ (hP.sub rfl) ?_
    | with_reducible refine outOk ?_
    | with_reducible exact outFault
    | with_reducible refine outWithin ?_
    | with_reducible refine iteOut ?_ ?_
    | ((try lift_lets); (with_reducible intro y); (have hy : Q y := ?_); clear_value y; rotate_left; subst y)
    | ((try lift_lets); (with_reducible intro x); (try clear_value x))

theorem execOvsGapReceive_law (hQ : Law P Q) (hP : Has P [.all .featMap, .all .geom, .all .lrp, .all .rtkView, .all .seam, .all .stream, .all .view, .grp 7, .grp 64, .cuts, .held, .mem, .ovs, .progress, .recs, .rpa, .store]) {k : Nat} {s : State}   (h0 : Q s) :
    outAll Q (execOvsGapReceive k s) := by
  unfold execOvsGapReceive
  repeat' first
    | with_reducible assumption
    | ((with_reducible refine boolGoal ?_); exact rfl)
    | ((with_reducible refine hP.inst ?_); exact rfl)
    | ((with_reducible refine hP.one _ ?_); exact rfl)
    | with_reducible refine retireAll_law hQ (hP.sub rfl) ?_
    | with_reducible refine ovsGapReceive_law hQ (hP.sub rfl) ?_
    | with_reducible refine outOk ?_
    | with_reducible exact outFault
    | with_reducible refine outWithin ?_
    | with_reducible refine iteOut ?_ ?_
    | ((try lift_lets); (with_reducible intro y); (have hy : Q y := ?_); clear_value y; rotate_left; subst y)
    | ((try lift_lets); (with_reducible intro x); (try clear_value x))

theorem beginStop_law (hQ : Law P Q) (hP : Has P [.all .geom, .all .seam, .all .view, .all .wlkPort, .grp 0, .grp 17, .grp 64, .cutPkts, .heads, .held, .progress, .sent, .seq, .store, .tes, .tokens, .views]) {h : Nat} {s : State} (hi0 : P (.one .tesHead h))  (h0 : Q s) :
    Q (beginStop h s) := by
  unfold beginStop
  repeat' first
    | with_reducible assumption
    | ((with_reducible refine boolGoal ?_); exact rfl)
    | ((with_reducible refine hP.inst ?_); exact rfl)
    | ((with_reducible refine hP.one _ ?_); exact rfl)
    | with_reducible refine forgetUnissued_law hQ (hP.sub rfl) ?_
    | with_reducible refine setTes_law hQ (hP.sub rfl) ?_
    | ((with_reducible refine hQ.wrAt hP hi0 ?_ ?_); exact rfl)
    | with_reducible refine hQ.wr hP ?_ ?_
    | with_reducible refine setHead_law hQ (hP.sub rfl) ?_
    | with_reducible refine sendCmd_law hQ (hP.sub rfl) ?_
    | with_reducible refine closeView_law hQ (hP.sub rfl) ?_
    | ((try lift_lets); (with_reducible intro y); (have hy : Q y := ?_); clear_value y; rotate_left; subst y)
    | ((try lift_lets); (with_reducible intro y); (have hy : Q y.1 := ?_); clear_value y; rotate_left; subst y)
    | ((try lift_lets); (with_reducible intro x); (try clear_value x))
    | split
    | dsimp only

theorem abortStart_law (hQ : Law P Q) (hP : Has P [.heads, .seq, .tes]) {h : Nat} {st : Start} {s : State}   (h0 : Q s) :
    Q (abortStart h st s) := by
  unfold abortStart
  repeat' first
    | with_reducible assumption
    | ((with_reducible refine boolGoal ?_); exact rfl)
    | ((with_reducible refine hP.one _ ?_); exact rfl)
    | with_reducible refine failStart_law hQ (hP.sub rfl) ?_
    | with_reducible refine setTes_law hQ (hP.sub rfl) ?_
    | with_reducible refine stopCamera_law hQ (hP.sub rfl) ?_
    | with_reducible refine Law.ite ?_ ?_
    | ((try lift_lets); (with_reducible intro y); (have hy : Q y := ?_); clear_value y; rotate_left; subst y)
    | ((try lift_lets); (with_reducible intro y); (have hy : Q y.1 := ?_); clear_value y; rotate_left; subst y)
    | ((try lift_lets); (with_reducible intro x); (try clear_value x))
    | split

theorem execHauStop_law (hQ : Law P Q) (hP : Has P [.all .featMap, .all .geom, .all .lrp, .all .rtkView, .all .seam, .all .view, .all .wlkPort, .grp 0, .grp 7, .grp 17, .grp 64, .cutPkts, .cuts, .heads, .held, .mem, .procs, .progress, .recs, .rpa, .sampled, .sent, .seq, .store, .tes, .tokens, .views]) {x : XWord} {s : State} (hi0 : P (.one .tesHead (xargs s x).i))  (h0 : Q s) :
    outAll Q (execHauStop x s) := by
  unfold execHauStop
  repeat' first
    | with_reducible assumption
    | ((with_reducible refine boolGoal ?_); exact rfl)
    | ((with_reducible refine hP.inst ?_); exact rfl)
    | ((with_reducible refine hP.one _ ?_); exact rfl)
    | with_reducible refine xop_law hQ (hP.sub rfl) (fun _ => ?_) ?_
    | with_reducible refine abortStart_law hQ (hP.sub rfl) ?_
    | with_reducible refine retireAll_law hQ (hP.sub rfl) ?_
    | with_reducible refine beginStop_law hQ (hP.sub rfl) ?_ ?_
    | with_reducible refine Law.ite ?_ ?_
    | with_reducible refine resFin ?_
    | with_reducible refine resNo ?_
    | with_reducible refine resStart ?_
    | with_reducible refine resForm ?_
    | with_reducible refine resGone ?_
    | with_reducible refine resHold ?_
    | with_reducible refine iteRes ?_ ?_
    | with_reducible refine outOk ?_
    | with_reducible exact outFault
    | with_reducible refine outWithin ?_
    | with_reducible refine iteOut ?_ ?_
    | ((try lift_lets); (with_reducible intro y); (have hy : Q y := ?_); clear_value y; rotate_left; subst y)
    | ((try lift_lets); (with_reducible intro y); (have hy : Q y.1 := ?_); clear_value y; rotate_left; subst y)
    | ((try lift_lets); (with_reducible intro x); (try clear_value x))
    | split
    | dsimp only

theorem releaseAssigns_law (hQ : Law P Q) (hP : Has P [.all .lrp, .rpa]) {h : Nat} {s : State}   (h0 : Q s) :
    Q (releaseAssigns h s) := by
  unfold releaseAssigns
  repeat' first
    | with_reducible assumption
    | ((with_reducible refine boolGoal ?_); exact rfl)
    | ((with_reducible refine hP.inst ?_); exact rfl)
    | ((with_reducible refine hP.one _ ?_); exact rfl)
    | with_reducible refine hQ.wr hP ?_ ?_
    | with_reducible refine Law.foldl (fun _ _ _ => ?_) ?_
    | with_reducible refine Law.foldlBy Prod.snd (fun _ _ _ => ?_) ?_
    | with_reducible refine Law.foldlBy Prod.fst (fun _ _ _ => ?_) ?_
    | ((try lift_lets); (with_reducible intro y); (have hy : Q y := ?_); clear_value y; rotate_left; subst y)
    | ((try lift_lets); (with_reducible intro y); (have hy : Q y.2 := ?_); clear_value y; rotate_left; subst y)
    | ((try lift_lets); (with_reducible intro x); (try clear_value x))
    | dsimp only
    | with_reducible refine hQ.rpa ?_ ?_

theorem execHauStopComplete_law (hQ : Law P Q) (hP : Has P [.all .featMap, .all .geom, .all .lane, .all .lrp, .all .rtkView, .all .seam, .all .view, .grp 0, .grp 7, .grp 64, .cuts, .free, .gaps, .heads, .held, .his, .mem, .poison, .progress, .recs, .rpa, .seq, .store, .tokens]) {h : Nat} {s : State} (hi0 : P (.one .head h)) (hi1 : P (.one .rpaStat h))  (h0 : Q s) :
    outAll Q (execHauStopComplete h s) := by
  unfold execHauStopComplete
  repeat' first
    | with_reducible assumption
    | ((with_reducible refine boolGoal ?_); exact rfl)
    | ((with_reducible refine hP.inst ?_); exact rfl)
    | ((with_reducible refine hP.one _ ?_); exact rfl)
    | with_reducible refine sendGap_law hQ (hP.sub rfl) ?_
    | with_reducible refine stageStop_law hQ (hP.sub rfl) (fun _ _ _ => ?_) ?_
    | with_reducible refine rpaEff_law hQ (hP.sub rfl) ?_
    | with_reducible refine noEff_law hQ (hP.sub rfl) ?_
    | with_reducible refine sstEff_law hQ (hP.sub rfl) ?_
    | with_reducible refine releaseAssigns_law hQ (hP.sub rfl) ?_
    | with_reducible refine closeGroup_law hQ (hP.sub rfl) ?_
    | with_reducible refine closeAllStats_law hQ (hP.sub rfl) ?_ ?_
    | with_reducible refine putItem_law hQ (hP.sub rfl) ?_
    | with_reducible refine showAssigned_law hQ (hP.sub rfl) ?_
    | with_reducible refine setHead_law hQ (hP.sub rfl) ?_
    | with_reducible refine retireAll_law hQ (hP.sub rfl) ?_
    | ((with_reducible refine hQ.wrAt hP hi0 ?_ ?_); exact rfl)
    | ((with_reducible refine hQ.wrAt hP hi1 ?_ ?_); exact rfl)
    | with_reducible refine hQ.wr hP ?_ ?_
    | with_reducible refine completeAll_law hQ (hP.sub rfl) ?_
    | with_reducible refine Law.ite ?_ ?_
    | with_reducible refine outOk ?_
    | with_reducible exact outFault
    | with_reducible refine outWithin ?_
    | with_reducible refine iteOut ?_ ?_
    | with_reducible refine Law.foldl (fun _ _ _ => ?_) ?_
    | with_reducible refine Law.foldlBy Prod.snd (fun _ _ _ => ?_) ?_
    | with_reducible refine Law.foldlBy Prod.fst (fun _ _ _ => ?_) ?_
    | ((try lift_lets); (with_reducible intro y); (have hy : Q y := ?_); clear_value y; rotate_left; subst y)
    | ((try lift_lets); (with_reducible intro y); (have hy : Q y.1 := ?_); clear_value y; rotate_left; subst y)
    | ((try lift_lets); (with_reducible intro x); (try clear_value x))
    | split

end Sys2Proof.Machine
end

