-- ==== Sys2Proof/Laws/Fabric.lean ====
section
/-!
SUPPORT. What each function of Machine/Fabric.lean can change: every law of the parts it names survives it.
-/
namespace Sys2Proof.Machine

variable {P : Part → Prop} {Q : State → Prop}

theorem setWlk_law (hQ : Law P Q) (hP : Has P [.wlk]) {s : State} {w : WlkState}   (h0 : Q s) :
    Q (State.setWlk s w) := by
  unfold State.setWlk
  repeat' first
    | with_reducible assumption
    | ((with_reducible refine boolGoal ?_); exact rfl)
    | ((with_reducible refine hP.one _ ?_); exact rfl)
    | ((try lift_lets); (with_reducible intro y); (have hy : Q y := ?_); clear_value y; rotate_left; subst y)
    | ((try lift_lets); (with_reducible intro x); (try clear_value x))
    | with_reducible refine hQ.wlk ?_ ?_

theorem wlkOp_law {f : XArgs → State → XRes} {a : XArgs} {s : State} (hf : Q s → resAll Q (f a s)) (h : Q s) :
    resAll Q (wlkOp f a s) := by
  unfold wlkOp
  split
  · exact h
  · exact hf h

theorem wakePorts_law (hQ : Law P Q) (hP : Has P [.all .wlkPort, .tokens, .wlk]) {s : State}   (h0 : Q s) :
    Q (wakePorts s) := by
  unfold wakePorts
  repeat' first
    | with_reducible assumption
    | ((with_reducible refine boolGoal ?_); exact rfl)
    | ((with_reducible refine hP.inst ?_); exact rfl)
    | ((with_reducible refine hP.one _ ?_); exact rfl)
    | with_reducible refine portDown_law hQ (hP.sub rfl) ?_ ?_
    | with_reducible refine hQ.wr hP ?_ ?_
    | with_reducible refine Law.ite ?_ ?_
    | with_reducible refine Law.foldl (fun _ _ _ => ?_) ?_
    | with_reducible refine Law.foldlBy Prod.snd (fun _ _ _ => ?_) ?_
    | with_reducible refine Law.foldlBy Prod.fst (fun _ _ _ => ?_) ?_
    | ((try lift_lets); (with_reducible intro x); (try clear_value x))
    | split

theorem execWlkNode_law (hQ : Law P Q) (hP : Has P [.all .wlkPort, .grp 0, .grp 17, .grp 64, .procs, .sampled, .seq, .tokens, .wlk]) {x : XWord} {s : State}   (h0 : Q s) :
    outAll Q (execWlkNode x s) := by
  unfold execWlkNode
  repeat' first
    | with_reducible assumption
    | ((with_reducible refine boolGoal ?_); exact rfl)
    | ((with_reducible refine hP.inst ?_); exact rfl)
    | ((with_reducible refine hP.one _ ?_); exact rfl)
    | with_reducible refine xop_law hQ (hP.sub rfl) (fun _ => ?_) ?_
    | ((with_reducible refine hQ.setFrom hP ?_ ?_); simp only [List.all]; exact rfl)
    | with_reducible refine wakePorts_law hQ (hP.sub rfl) ?_
    | with_reducible refine hQ.wr hP ?_ ?_
    | with_reducible refine Law.ite ?_ ?_
    | with_reducible refine resFin ?_
    | with_reducible refine resNo ?_
    | with_reducible refine resStart ?_
    | with_reducible refine resForm ?_
    | with_reducible refine resGone ?_
    | with_reducible refine resHold ?_
    | with_reducible refine iteRes ?_ ?_
    | with_reducible refine outOk ?_
    | with_reducible exact outFault
    | with_reducible refine outWithin ?_
    | with_reducible refine iteOut ?_ ?_
    | ((try lift_lets); (with_reducible intro y); (have hy : Q y := ?_); clear_value y; rotate_left; subst y)
    | ((try lift_lets); (with_reducible intro x); (try clear_value x))
    | split

theorem execWlkRoute_law (hQ : Law P Q) (hP : Has P [.grp 0, .grp 17, .grp 64, .procs, .sampled, .seq, .tokens]) {x : XWord} {s : State}   (h0 : Q s) :
    outAll Q (execWlkRoute x s) := by
  unfold execWlkRoute
  repeat' first
    | with_reducible assumption
    | ((with_reducible refine boolGoal ?_); exact rfl)
    | ((with_reducible refine hP.one _ ?_); exact rfl)
    | with_reducible refine xop_law hQ (hP.sub rfl) (fun _ => ?_) ?_
    | with_reducible refine wlkOp_law (fun _ => ?_) ?_
    | with_reducible refine hQ.putWord hP ?_ ?_
    | with_reducible refine Law.ite ?_ ?_
    | with_reducible refine resFin ?_
    | with_reducible refine resNo ?_
    | with_reducible refine resStart ?_
    | with_reducible refine resForm ?_
    | with_reducible refine resGone ?_
    | with_reducible refine resHold ?_
    | with_reducible refine iteRes ?_ ?_
    | with_reducible refine outOk ?_
    | with_reducible exact outFault
    | with_reducible refine outWithin ?_
    | with_reducible refine iteOut ?_ ?_
    | with_reducible refine Law.foldl (fun _ _ _ => ?_) ?_
    | with_reducible refine Law.foldlBy Prod.snd (fun _ _ _ => ?_) ?_
    | with_reducible refine Law.foldlBy Prod.fst (fun _ _ _ => ?_) ?_
    | ((try lift_lets); (with_reducible intro x); (try clear_value x))
    | split
    | dsimp only

theorem execWlkPort_law (hQ : Law P Q) (hP : Has P [.all .wlkPort, .grp 0, .grp 64, .procs, .sampled, .seq, .tokens, .wlk]) {x : XWord} {s : State}   (h0 : Q s) :
    outAll Q (execWlkPort x s) := by
  unfold execWlkPort
  repeat' first
    | with_reducible assumption
    | ((with_reducible refine boolGoal ?_); exact rfl)
    | ((with_reducible refine hP.inst ?_); exact rfl)
    | ((with_reducible refine hP.one _ ?_); exact rfl)
    | with_reducible refine xop_law hQ (hP.sub rfl) (fun _ => ?_) ?_
    | with_reducible refine wlkOp_law (fun _ => ?_) ?_
    | with_reducible refine wakePorts_law hQ (hP.sub rfl) ?_
    | ((with_reducible refine hQ.setFrom hP ?_ ?_); simp only [List.all]; exact rfl)
    | with_reducible refine Law.ite ?_ ?_
    | with_reducible refine resFin ?_
    | with_reducible refine resNo ?_
    | with_reducible refine resStart ?_
    | with_reducible refine resForm ?_
    | with_reducible refine resGone ?_
    | with_reducible refine resHold ?_
    | with_reducible refine iteRes ?_ ?_
    | with_reducible refine outOk ?_
    | with_reducible exact outFault
    | with_reducible refine outWithin ?_
    | with_reducible refine iteOut ?_ ?_
    | ((try lift_lets); (with_reducible intro x); (try clear_value x))
    | split

theorem execWlkEdge_law (hQ : Law P Q) (hP : Has P [.grp 0, .grp 64, .procs, .sampled, .seq, .tokens]) {x : XWord} {s : State} (hi0 : P (.one .wlkEdge (xargs s x).i))  (h0 : Q s) :
    outAll Q (execWlkEdge x s) := by
  unfold execWlkEdge
  repeat' first
    | with_reducible assumption
    | ((with_reducible refine boolGoal ?_); exact rfl)
    | ((with_reducible refine hP.one _ ?_); exact rfl)
    | with_reducible refine xop_law hQ (hP.sub rfl) (fun _ => ?_) ?_
    | with_reducible refine wlkOp_law (fun _ => ?_) ?_
    | ((with_reducible refine hQ.setFromAt hP hi0 ?_ ?_); simp only [List.all]; exact rfl)
    | ((with_reducible refine hQ.setFrom hP ?_ ?_); simp only [List.all]; exact rfl)
    | with_reducible refine Law.ite ?_ ?_
    | with_reducible refine resFin ?_
    | with_reducible refine resNo ?_
    | with_reducible refine resStart ?_
    | with_reducible refine resForm ?_
    | with_reducible refine resGone ?_
    | with_reducible refine resHold ?_
    | with_reducible refine iteRes ?_ ?_
    | with_reducible refine outOk ?_
    | with_reducible exact outFault
    | with_reducible refine outWithin ?_
    | with_reducible refine iteOut ?_ ?_
    | ((try lift_lets); (with_reducible intro x); (try clear_value x))
    | split

theorem execWlkFwd_law (hQ : Law P Q) (hP : Has P [.all .inbound, .grp 0, .grp 17, .grp 64, .procs, .sampled, .seq, .tokens]) {x : XWord} {s : State}   (h0 : Q s) :
    outAll Q (execWlkFwd x s) := by
  unfold execWlkFwd
  repeat' first
    | with_reducible assumption
    | ((with_reducible refine boolGoal ?_); exact rfl)
    | ((with_reducible refine hP.inst ?_); exact rfl)
    | ((with_reducible refine hP.one _ ?_); exact rfl)
    | with_reducible refine xop_law hQ (hP.sub rfl) (fun _ => ?_) ?_
    | with_reducible refine wlkOp_law (fun _ => ?_) ?_
    | ((with_reducible refine hQ.setFrom hP ?_ ?_); simp only [List.all]; exact rfl)
    | with_reducible refine Law.ite ?_ ?_
    | with_reducible refine resFin ?_
    | with_reducible refine resNo ?_
    | with_reducible refine resStart ?_
    | with_reducible refine resForm ?_
    | with_reducible refine resGone ?_
    | with_reducible refine resHold ?_
    | with_reducible refine iteRes ?_ ?_
    | with_reducible refine outOk ?_
    | with_reducible exact outFault
    | with_reducible refine outWithin ?_
    | with_reducible refine iteOut ?_ ?_
    | ((try lift_lets); (with_reducible intro y); (have hy : Q y := ?_); clear_value y; rotate_left; subst y)
    | ((try lift_lets); (with_reducible intro x); (try clear_value x))
    | split

theorem completeLeases_law (hQ : Law P Q) (hP : Has P [.seq])  {x0 : Nat}   {s : State} (h0 : Q s) :
    Q (completeLeases x0 s) := by
  induction x0 generalizing s with
  | zero =>
    unfold completeLeases
    repeat' first
      | with_reducible assumption
      | ((with_reducible refine boolGoal ?_); exact rfl)
      | ((with_reducible refine hP.one _ ?_); exact rfl)
      | with_reducible refine complete_law hQ (hP.sub rfl) ?_
      | with_reducible refine Law.ite ?_ ?_
      | ((try lift_lets); (with_reducible intro y); (have hy : Q y := ?_); clear_value y; rotate_left; subst y)
      | ((try lift_lets); (with_reducible intro y); (have hy : Q y.1 := ?_); clear_value y; rotate_left; subst y)
      | ((try lift_lets); (with_reducible intro x); (try clear_value x))
      | split
      | dsimp only
  | succ n ih =>
    unfold completeLeases
    repeat' first
      | with_reducible assumption
      | with_reducible apply ih
      | ((with_reducible refine boolGoal ?_); exact rfl)
      | ((with_reducible refine hP.one _ ?_); exact rfl)
      | with_reducible refine complete_law hQ (hP.sub rfl) ?_
      | with_reducible refine Law.ite ?_ ?_
      | ((try lift_lets); (with_reducible intro y); (have hy : Q y := ?_); clear_value y; rotate_left; subst y)
      | ((try lift_lets); (with_reducible intro y); (have hy : Q y.1 := ?_); clear_value y; rotate_left; subst y)
      | ((try lift_lets); (with_reducible intro x); (try clear_value x))
      | split
      | dsimp only

theorem execWlkLease_law (hQ : Law P Q) (hP : Has P [.grp 0, .grp 17, .grp 64, .procs, .sampled, .seq, .tokens]) {x : XWord} {s : State}   (h0 : Q s) :
    outAll Q (execWlkLease x s) := by
  unfold execWlkLease
  repeat' first
    | with_reducible assumption
    | ((with_reducible refine boolGoal ?_); exact rfl)
    | ((with_reducible refine hP.one _ ?_); exact rfl)
    | with_reducible refine xop_law hQ (hP.sub rfl) (fun _ => ?_) ?_
    | with_reducible refine wlkOp_law (fun _ => ?_) ?_
    | ((with_reducible refine hQ.setFrom hP ?_ ?_); simp only [List.all, leaseFields]; exact rfl)
    | with_reducible refine hQ.putWord hP ?_ ?_
    | with_reducible refine Law.ite ?_ ?_
    | with_reducible refine resFin ?_
    | with_reducible refine resNo ?_
    | with_reducible refine resStart ?_
    | with_reducible refine resForm ?_
    | with_reducible refine resGone ?_
    | with_reducible refine resHold ?_
    | with_reducible refine iteRes ?_ ?_
    | with_reducible refine outOk ?_
    | with_reducible exact outFault
    | with_reducible refine outWithin ?_
    | with_reducible refine iteOut ?_ ?_
    | ((try lift_lets); (with_reducible intro y); (have hy : Q y := ?_); clear_value y; rotate_left; subst y)
    | ((try lift_lets); (with_reducible intro y); (have hy : Q y.2 := ?_); clear_value y; rotate_left; subst y)
    | ((try lift_lets); (with_reducible intro y); (have hy : Q y.1 := ?_); clear_value y; rotate_left; subst y)
    | ((try lift_lets); (with_reducible intro x); (try clear_value x))
    | split
    | dsimp only

theorem execHelloSend_law (hQ : Law P Q) (hP : Has P [.grp 64, .sent]) {p : Nat} {s : State} (hi0 : P (.one .wlkPort p))  (h0 : Q s) :
    outAll Q (execHelloSend p s) := by
  unfold execHelloSend
  repeat' first
    | with_reducible assumption
    | ((with_reducible refine boolGoal ?_); exact rfl)
    | ((with_reducible refine hP.one _ ?_); exact rfl)
    | with_reducible refine portSend_law hQ (hP.sub rfl) ?_ ?_
    | with_reducible refine Law.ite ?_ ?_
    | with_reducible refine outOk ?_
    | with_reducible exact outFault
    | with_reducible refine outWithin ?_
    | with_reducible refine iteOut ?_ ?_
    | ((try lift_lets); (with_reducible intro y); (have hy : Q y := ?_); clear_value y; rotate_left; subst y)
    | ((try lift_lets); (with_reducible intro x); (try clear_value x))
    | split

theorem setHolder_law (hQ : Law P Q) (hP : Has P [.grp 17, .tokens]) {holder : Nat} {term : Nat} {s : State}   (h0 : Q s) :
    Q (setHolder holder term s) := by
  unfold setHolder
  repeat' first
    | with_reducible assumption
    | ((with_reducible refine boolGoal ?_); exact rfl)
    | ((with_reducible refine hP.one _ ?_); exact rfl)
    | ((with_reducible refine hQ.wrAll hP ?_ ?_); simp only [List.all]; exact rfl)
    | with_reducible refine wlkCause_law hQ (hP.sub rfl) ?_
    | with_reducible refine Law.ite ?_ ?_
    | split

theorem orphanCut_law (hQ : Law P Q) (hP : Has P [.grp 17, .tokens, .wlk]) {s : State}   (h0 : Q s) :
    Q (orphanCut s) := by
  unfold orphanCut
  repeat' first
    | with_reducible assumption
    | ((with_reducible refine boolGoal ?_); exact rfl)
    | ((with_reducible refine hP.one _ ?_); exact rfl)
    | with_reducible refine setWlk_law hQ (hP.sub rfl) ?_
    | with_reducible refine hQ.sat hP ?_ ?_
    | with_reducible refine wlkCause_law hQ (hP.sub rfl) ?_
    | with_reducible refine Law.ite ?_ ?_
    | ((try lift_lets); (with_reducible intro y); (have hy : Q y := ?_); clear_value y; rotate_left; subst y)
    | ((try lift_lets); (with_reducible intro y); (have hy : Q y.1 := ?_); clear_value y; rotate_left; subst y)
    | ((try lift_lets); (with_reducible intro x); (try clear_value x))
    | split
    | dsimp only

theorem hearTerm_law (hQ : Law P Q) (hP : Has P [.grp 17, .tokens, .wlk]) {term : Nat} {s : State}   (h0 : Q s) :
    Q (hearTerm term s) := by
  unfold hearTerm
  repeat' first
    | with_reducible assumption
    | ((with_reducible refine boolGoal ?_); exact rfl)
    | ((with_reducible refine hP.one _ ?_); exact rfl)
    | with_reducible refine orphanCut_law hQ (hP.sub rfl) ?_
    | with_reducible refine setWlk_law hQ (hP.sub rfl) ?_
    | with_reducible refine Law.ite ?_ ?_
    | ((try lift_lets); (with_reducible intro y); (have hy : Q y := ?_); clear_value y; rotate_left; subst y)
    | ((try lift_lets); (with_reducible intro y); (have hy : Q y.1 := ?_); clear_value y; rotate_left; subst y)
    | ((try lift_lets); (with_reducible intro x); (try clear_value x))
    | split

theorem execHelloReceive_law (hQ : Law P Q) (hP : Has P [.grp 17, .grp 64, .seq, .tokens, .wlk]) {p : Nat} {node : Nat} {holder : Nat} {term : Nat} {below : Bool} {s : State} (hi0 : P (.one .wlkPort p))  (h0 : Q s) :
    outAll Q (execHelloReceive p node holder term below s) := by
  unfold execHelloReceive
  repeat' first
    | with_reducible assumption
    | ((with_reducible refine boolGoal ?_); exact rfl)
    | ((with_reducible refine hP.one _ ?_); exact rfl)
    | ((with_reducible refine hQ.wrapAt hP hi0 ?_ ?_); exact rfl)
    | with_reducible refine hQ.wrap hP ?_ ?_
    | with_reducible refine portDown_law hQ (hP.sub rfl) ?_ ?_
    | ((with_reducible refine hQ.wrAt hP hi0 ?_ ?_); exact rfl)
    | with_reducible refine hQ.wr hP ?_ ?_
    | with_reducible refine setPort_law hQ (hP.sub rfl) ?_
    | with_reducible refine setHolder_law hQ (hP.sub rfl) ?_
    | with_reducible refine hearTerm_law hQ (hP.sub rfl) ?_
    | with_reducible refine completeLeases_law hQ (hP.sub rfl) ?_
    | with_reducible refine evt_law hQ (hP.sub rfl) ?_
    | with_reducible refine emit_law hQ (hP.sub rfl) ?_
    | with_reducible refine Law.ite ?_ ?_
    | with_reducible refine outOk ?_
    | with_reducible exact outFault
    | with_reducible refine outWithin ?_
    | with_reducible refine iteOut ?_ ?_
    | ((try lift_lets); (with_reducible intro y); (have hy : Q y := ?_); clear_value y; rotate_left; subst y)
    | ((try lift_lets); (with_reducible intro y); (have hy : Q y.1 := ?_); clear_value y; rotate_left; subst y)
    | ((try lift_lets); (with_reducible intro x); (try clear_value x))
    | split

theorem execDelayMeasure_law (hQ : Law P Q) (hP : Has P [.grp 64, .sent, .wlk]) {p : Nat} {trip : Nat} {far : Nat} {s : State} (hi0 : P (.one .wlkPort p))  (h0 : Q s) :
    outAll Q (execDelayMeasure p trip far s) := by
  unfold execDelayMeasure
  repeat' first
    | with_reducible assumption
    | ((with_reducible refine boolGoal ?_); exact rfl)
    | ((with_reducible refine hP.one _ ?_); exact rfl)
    | with_reducible refine portSend_law hQ (hP.sub rfl) ?_ ?_
    | with_reducible refine evt_law hQ (hP.sub rfl) ?_
    | ((with_reducible refine hQ.wrapAt hP hi0 ?_ ?_); exact rfl)
    | with_reducible refine hQ.wrap hP ?_ ?_
    | with_reducible refine setPort_law hQ (hP.sub rfl) ?_
    | ((with_reducible refine hQ.wrIAt hP hi0 ?_ ?_); exact rfl)
    | with_reducible refine hQ.wrI hP ?_ ?_
    | with_reducible refine Law.ite ?_ ?_
    | with_reducible refine outOk ?_
    | with_reducible exact outFault
    | with_reducible refine outWithin ?_
    | with_reducible refine iteOut ?_ ?_
    | with_reducible refine Law.foldl (fun _ _ _ => ?_) ?_
    | with_reducible refine Law.foldlBy Prod.snd (fun _ _ _ => ?_) ?_
    | with_reducible refine Law.foldlBy Prod.fst (fun _ _ _ => ?_) ?_
    | ((try lift_lets); (with_reducible intro y); (have hy : Q y := ?_); clear_value y; rotate_left; subst y)
    | ((try lift_lets); (with_reducible intro y); (have hy : Q y.1 := ?_); clear_value y; rotate_left; subst y)
    | ((try lift_lets); (with_reducible intro x); (try clear_value x))
    | split

theorem followEpoch_law (hQ : Law P Q) (hP : Has P [.grp 17]) {s : State}   (h0 : Q s) :
    Q (followEpoch s) := by
  unfold followEpoch
  repeat' first
    | with_reducible assumption
    | ((with_reducible refine boolGoal ?_); exact rfl)
    | ((with_reducible refine hP.one _ ?_); exact rfl)
    | with_reducible refine hQ.wr hP ?_ ?_

theorem decideCut_law (hQ : Law P Q) (hP : Has P [.grp 17, .tokens]) {c : FabCut} {s : State}   (h0 : Q s) :
    Q (decideCut c s).2 := by
  unfold decideCut
  repeat' first
    | with_reducible assumption
    | ((with_reducible refine boolGoal ?_); exact rfl)
    | ((with_reducible refine hP.one _ ?_); exact rfl)
    | with_reducible refine hQ.sat hP ?_ ?_
    | with_reducible refine wlkCause_law hQ (hP.sub rfl) ?_
    | with_reducible refine Law.ite ?_ ?_
    | ((try lift_lets); (with_reducible intro y); (have hy : Q y := ?_); clear_value y; rotate_left; subst y)
    | ((try lift_lets); (with_reducible intro y); (have hy : Q y.1 := ?_); clear_value y; rotate_left; subst y)
    | ((try lift_lets); (with_reducible intro x); (try clear_value x))
    | split

theorem followEpochIf_law (hQ : Law P Q) (hP : Has P [.grp 17]) {e : Nat} {s : State}   (h0 : Q s) :
    Q (followEpochIf e s) := by
  unfold followEpochIf
  repeat' first
    | with_reducible assumption
    | ((with_reducible refine boolGoal ?_); exact rfl)
    | ((with_reducible refine hP.one _ ?_); exact rfl)
    | with_reducible refine hQ.wr hP ?_ ?_
    | with_reducible refine Law.ite ?_ ?_
    | split

theorem placeFabric_law (hQ : Law P Q) (hP : Has P [.grp 4, .grp 17, .grp 64, .cutPkts, .cuts, .tokens]) {c : FabCut} {s : State}   (h0 : Q s) :
    Q (placeFabric c s) := by
  unfold placeFabric
  repeat' first
    | with_reducible assumption
    | ((with_reducible refine boolGoal ?_); exact rfl)
    | ((with_reducible refine hP.one _ ?_); exact rfl)
    | with_reducible refine followEpochIf_law hQ (hP.sub rfl) ?_
    | with_reducible refine placeCut_law hQ (hP.sub rfl) ?_
    | with_reducible refine hQ.sat hP ?_ ?_
    | with_reducible refine hQ.wr hP ?_ ?_
    | with_reducible refine wlkCause_law hQ (hP.sub rfl) ?_
    | with_reducible refine Law.ite ?_ ?_
    | with_reducible refine optAll.getD ?_ ?_
    | ((try lift_lets); (with_reducible intro y); (have hy : Q y := ?_); clear_value y; rotate_left; subst y)
    | ((try lift_lets); (with_reducible intro y); (have hy : Q y.1 := ?_); clear_value y; rotate_left; subst y)
    | ((try lift_lets); (with_reducible intro x); (try clear_value x))
    | split

theorem completeCut_law (hQ : Law P Q) (hP : Has P [.seq]) {st : Nat} {s : State}   (h0 : Q s) :
    Q (completeCut st s) := by
  unfold completeCut
  repeat' first
    | with_reducible assumption
    | ((with_reducible refine boolGoal ?_); exact rfl)
    | ((with_reducible refine hP.one _ ?_); exact rfl)
    | with_reducible refine complete_law hQ (hP.sub rfl) ?_
    | ((try lift_lets); (with_reducible intro y); (have hy : Q y := ?_); clear_value y; rotate_left; subst y)
    | ((try lift_lets); (with_reducible intro y); (have hy : Q y.1 := ?_); clear_value y; rotate_left; subst y)
    | ((try lift_lets); (with_reducible intro x); (try clear_value x))
    | split
    | dsimp only

theorem commitCut_law (hQ : Law P Q) (hP : Has P [.all .wlkPort, .grp 4, .grp 17, .grp 64, .cutPkts, .cuts, .sent, .seq, .tokens, .wlk]) {c : FabCut} {s : State}   (h0 : Q s) :
    Q (commitCut c s) := by
  unfold commitCut
  repeat' first
    | with_reducible assumption
    | ((with_reducible refine boolGoal ?_); exact rfl)
    | ((with_reducible refine hP.inst ?_); exact rfl)
    | ((with_reducible refine hP.one _ ?_); exact rfl)
    | with_reducible refine placeFabric_law hQ (hP.sub rfl) ?_
    | with_reducible refine sendOn_law hQ (hP.sub rfl) ?_
    | with_reducible refine setWlk_law hQ (hP.sub rfl) ?_
    | with_reducible refine completeCut_law hQ (hP.sub rfl) ?_
    | ((try lift_lets); (with_reducible intro y); (have hy : Q y := ?_); clear_value y; rotate_left; subst y)
    | ((try lift_lets); (with_reducible intro y); (have hy : Q y.1 := ?_); clear_value y; rotate_left; subst y)
    | ((try lift_lets); (with_reducible intro x); (try clear_value x))

theorem announceCut_law (hQ : Law P Q) (hP : Has P [.all .wlkPort, .grp 64, .sent]) {c : FabCut} {s : State}   (h0 : Q s) :
    Q (announceCut c s).2 := by
  unfold announceCut
  repeat' first
    | with_reducible assumption
    | ((with_reducible refine boolGoal ?_); exact rfl)
    | ((with_reducible refine hP.inst ?_); exact rfl)
    | ((with_reducible refine hP.one _ ?_); exact rfl)
    | with_reducible refine sendOn_law hQ (hP.sub rfl) ?_
    | ((try lift_lets); (with_reducible intro y); (have hy : Q y := ?_); clear_value y; rotate_left; subst y)
    | ((try lift_lets); (with_reducible intro x); (try clear_value x))

theorem concludeCut_law (hQ : Law P Q) (hP : Has P [.all .wlkPort, .grp 4, .grp 17, .grp 64, .cutPkts, .cuts, .sent, .seq, .tokens, .wlk])  {x0 : Nat} {x1 : FabCut}   {s : State} (h0 : Q s) :
    Q (concludeCut x0 x1 s) := by
  induction x0 generalizing x1 s with
  | zero =>
    unfold concludeCut
    repeat' first
      | with_reducible assumption
      | ((with_reducible refine boolGoal ?_); exact rfl)
      | ((with_reducible refine hP.inst ?_); exact rfl)
      | ((with_reducible refine hP.one _ ?_); exact rfl)
      | with_reducible refine commitCut_law hQ (hP.sub rfl) ?_
      | with_reducible refine sendOn_law hQ (hP.sub rfl) ?_
      | with_reducible refine completeCut_law hQ (hP.sub rfl) ?_
      | with_reducible refine setWlk_law hQ (hP.sub rfl) ?_
      | with_reducible refine announceCut_law hQ (hP.sub rfl) ?_
      | with_reducible refine decideCut_law hQ (hP.sub rfl) ?_
      | with_reducible refine wlkCause_law hQ (hP.sub rfl) ?_
      | with_reducible refine hQ.sat hP ?_ ?_
      | with_reducible refine Law.ite ?_ ?_
      | ((try lift_lets); (with_reducible intro y); (have hy : Q y := ?_); clear_value y; rotate_left; subst y)
      | ((try lift_lets); (with_reducible intro y); (have hy : Q y.2 := ?_); clear_value y; rotate_left; subst y)
      | ((try lift_lets); (with_reducible intro y); (have hy : Q y.1 := ?_); clear_value y; rotate_left; subst y)
      | ((try lift_lets); (with_reducible intro x); (try clear_value x))
      | split
      | dsimp only
  | succ n ih =>
    unfold concludeCut
    repeat' first
      | with_reducible assumption
      | with_reducible apply ih
      | ((with_reducible refine boolGoal ?_); exact rfl)
      | ((with_reducible refine hP.inst ?_); exact rfl)
      | ((with_reducible refine hP.one _ ?_); exact rfl)
      | with_reducible refine commitCut_law hQ (hP.sub rfl) ?_
      | with_reducible refine sendOn_law hQ (hP.sub rfl) ?_
      | with_reducible refine completeCut_law hQ (hP.sub rfl) ?_
      | with_reducible refine setWlk_law hQ (hP.sub rfl) ?_
      | with_reducible refine announceCut_law hQ (hP.sub rfl) ?_
      | with_reducible refine decideCut_law hQ (hP.sub rfl) ?_
      | with_reducible refine wlkCause_law hQ (hP.sub rfl) ?_
      | with_reducible refine hQ.sat hP ?_ ?_
      | with_reducible refine Law.ite ?_ ?_
      | ((try lift_lets); (with_reducible intro y); (have hy : Q y := ?_); clear_value y; rotate_left; subst y)
      | ((try lift_lets); (with_reducible intro y); (have hy : Q y.2 := ?_); clear_value y; rotate_left; subst y)
      | ((try lift_lets); (with_reducible intro y); (have hy : Q y.1 := ?_); clear_value y; rotate_left; subst y)
      | ((try lift_lets); (with_reducible intro x); (try clear_value x))
      | split
      | dsimp only

theorem startCut_law (hQ : Law P Q) (hP : Has P [.all .wlkPort, .grp 4, .grp 17, .grp 64, .cutPkts, .cuts, .sent, .seq, .tokens, .wlk]) {dir : Nat} {pcut : Int} {s : State}   (h0 : Q s) :
    Q (startCut dir pcut s) := by
  unfold startCut
  repeat' first
    | with_reducible assumption
    | ((with_reducible refine boolGoal ?_); exact rfl)
    | ((with_reducible refine hP.inst ?_); exact rfl)
    | ((with_reducible refine hP.one _ ?_); exact rfl)
    | with_reducible refine announceCut_law hQ (hP.sub rfl) ?_
    | with_reducible refine decideCut_law hQ (hP.sub rfl) ?_
    | with_reducible refine concludeCut_law hQ (hP.sub rfl) ?_
    | with_reducible refine setWlk_law hQ (hP.sub rfl) ?_
    | with_reducible refine Law.ite ?_ ?_
    | ((try lift_lets); (with_reducible intro y); (have hy : Q y := ?_); clear_value y; rotate_left; subst y)
    | ((try lift_lets); (with_reducible intro y); (have hy : Q y.2 := ?_); clear_value y; rotate_left; subst y)
    | ((try lift_lets); (with_reducible intro y); (have hy : Q y.1 := ?_); clear_value y; rotate_left; subst y)
    | ((try lift_lets); (with_reducible intro x); (try clear_value x))
    | split
    | dsimp only

theorem localCut_law (hQ : Law P Q) (hP : Has P [.all .featMap, .all .geom, .all .lrp, .all .rtkView, .all .seam, .all .view, .grp 4, .grp 7, .grp 17, .grp 64, .cutPkts, .cuts, .held, .mem, .progress, .recs, .rpa]) {dir : Nat} {pcut : Int} {s : State}   (h0 : Q s) :
    resAll Q (localCut dir pcut s) := by
  unfold localCut
  repeat' first
    | with_reducible assumption
    | ((with_reducible refine boolGoal ?_); exact rfl)
    | ((with_reducible refine hP.inst ?_); exact rfl)
    | ((with_reducible refine hP.one _ ?_); exact rfl)
    | with_reducible refine hQ.sat hP ?_ ?_
    | with_reducible refine retireAll_law hQ (hP.sub rfl) ?_
    | with_reducible refine followEpochIf_law hQ (hP.sub rfl) ?_
    | with_reducible refine placeCut_law hQ (hP.sub rfl) ?_
    | with_reducible refine Law.ite ?_ ?_
    | with_reducible refine resNo ?_
    | with_reducible refine resFin ?_
    | with_reducible refine resStart ?_
    | with_reducible refine resForm ?_
    | with_reducible refine resGone ?_
    | with_reducible refine resHold ?_
    | with_reducible refine iteRes ?_ ?_
    | ((try lift_lets); (with_reducible intro y); (have hy : Q y := ?_); clear_value y; rotate_left; subst y)
    | ((try lift_lets); (with_reducible intro y); (have hy : Q y.1 := ?_); clear_value y; rotate_left; subst y)
    | ((try lift_lets); (with_reducible intro x); (try clear_value x))
    | split

theorem tesCut_law (hQ : Law P Q) (hP : Has P [.all .featMap, .all .geom, .all .lrp, .all .rtkView, .all .seam, .all .view, .all .wlkPort, .grp 4, .grp 7, .grp 17, .grp 64, .cutPkts, .cuts, .held, .mem, .progress, .recs, .rpa, .sent, .seq, .tokens, .wlk]) {a : XArgs} {s : State}   (h0 : Q s) :
    resAll Q (tesCut a s) := by
  unfold tesCut
  repeat' first
    | with_reducible assumption
    | ((with_reducible refine boolGoal ?_); exact rfl)
    | ((with_reducible refine hP.inst ?_); exact rfl)
    | ((with_reducible refine hP.one _ ?_); exact rfl)
    | with_reducible refine startCut_law hQ (hP.sub rfl) ?_
    | with_reducible refine retireAll_law hQ (hP.sub rfl) ?_
    | with_reducible refine localCut_law hQ (hP.sub rfl) ?_
    | with_reducible refine Law.ite ?_ ?_
    | with_reducible refine resNo ?_
    | with_reducible refine resFin ?_
    | with_reducible refine resStart ?_
    | with_reducible refine resForm ?_
    | with_reducible refine resGone ?_
    | with_reducible refine resHold ?_
    | with_reducible refine iteRes ?_ ?_
    | ((try lift_lets); (with_reducible intro y); (have hy : Q y := ?_); clear_value y; rotate_left; subst y)
    | ((try lift_lets); (with_reducible intro y); (have hy : Q y.1 := ?_); clear_value y; rotate_left; subst y)
    | ((try lift_lets); (with_reducible intro x); (try clear_value x))
    | split
    | with_reducible refine hQ.seq ?_ ?_

theorem execTesCut_law (hQ : Law P Q) (hP : Has P [.all .featMap, .all .geom, .all .lrp, .all .rtkView, .all .seam, .all .view, .all .wlkPort, .grp 0, .grp 4, .grp 7, .grp 17, .grp 64, .cutPkts, .cuts, .held, .mem, .procs, .progress, .recs, .rpa, .sampled, .sent, .seq, .tokens, .wlk]) {x : XWord} {s : State}   (h0 : Q s) :
    outAll Q (execTesCut x s) := by
  unfold execTesCut
  repeat' first
    | with_reducible assumption
    | ((with_reducible refine boolGoal ?_); exact rfl)
    | ((with_reducible refine hP.inst ?_); exact rfl)
    | ((with_reducible refine hP.one _ ?_); exact rfl)
    | with_reducible refine xop_law hQ (hP.sub rfl) (fun _ => ?_) ?_
    | with_reducible refine tesCut_law hQ (hP.sub rfl) ?_
    | with_reducible refine resFin ?_
    | with_reducible refine resNo ?_
    | with_reducible refine resStart ?_
    | with_reducible refine resForm ?_
    | with_reducible refine resGone ?_
    | with_reducible refine resHold ?_
    | with_reducible refine iteRes ?_ ?_
    | with_reducible refine outOk ?_
    | with_reducible exact outFault
    | with_reducible refine outWithin ?_
    | with_reducible refine iteOut ?_ ?_

theorem execTesCutFabric_law (hQ : Law P Q) (hP : Has P [.all .featMap, .all .geom, .all .lrp, .all .rtkView, .all .seam, .all .view, .all .wlkPort, .grp 0, .grp 4, .grp 7, .grp 17, .grp 64, .cutPkts, .cuts, .held, .mem, .procs, .progress, .recs, .rpa, .sampled, .sent, .seq, .tokens, .wlk]) {x : XWord} {s : State}   (h0 : Q s) :
    outAll Q (execTesCutFabric x s) := by
  unfold execTesCutFabric
  repeat' first
    | with_reducible assumption
    | ((with_reducible refine boolGoal ?_); exact rfl)
    | ((with_reducible refine hP.inst ?_); exact rfl)
    | ((with_reducible refine hP.one _ ?_); exact rfl)
    | with_reducible refine xop_law hQ (hP.sub rfl) (fun _ => ?_) ?_
    | with_reducible refine tesCut_law hQ (hP.sub rfl) ?_
    | with_reducible refine resFin ?_
    | with_reducible refine resNo ?_
    | with_reducible refine resStart ?_
    | with_reducible refine resForm ?_
    | with_reducible refine resGone ?_
    | with_reducible refine resHold ?_
    | with_reducible refine iteRes ?_ ?_
    | with_reducible refine outOk ?_
    | with_reducible exact outFault
    | with_reducible refine outWithin ?_
    | with_reducible refine iteOut ?_ ?_
    | ((try lift_lets); (with_reducible intro x); (try clear_value x))

theorem execEpochWaitResume_law (hQ : Law P Q) (hP : Has P [.all .featMap, .all .geom, .all .lrp, .all .rtkView, .all .seam, .all .view, .all .wlkPort, .grp 0, .grp 4, .grp 7, .grp 17, .grp 64, .cutPkts, .cuts, .held, .mem, .procs, .progress, .recs, .rpa, .sampled, .sent, .seq, .tokens, .wlk]) {s : State}   (h0 : Q s) :
    outAll Q (execEpochWaitResume s) := by
  unfold execEpochWaitResume
  repeat' first
    | with_reducible assumption
    | ((with_reducible refine boolGoal ?_); exact rfl)
    | ((with_reducible refine hP.inst ?_); exact rfl)
    | ((with_reducible refine hP.one _ ?_); exact rfl)
    | with_reducible refine execTesCut_law hQ (hP.sub rfl) ?_
    | with_reducible refine Law.ite ?_ ?_
    | with_reducible refine outOk ?_
    | with_reducible exact outFault
    | with_reducible refine outWithin ?_
    | with_reducible refine iteOut ?_ ?_
    | ((try lift_lets); (with_reducible intro y); (have hy : Q y := ?_); clear_value y; rotate_left; subst y)
    | ((try lift_lets); (with_reducible intro y); (have hy : Q y.1 := ?_); clear_value y; rotate_left; subst y)
    | ((try lift_lets); (with_reducible intro x); (try clear_value x))
    | split
    | dsimp only
    | with_reducible refine hQ.seq ?_ ?_

theorem replyCut_law (hQ : Law P Q) (hP : Has P [.all .wlkPort, .grp 4, .grp 17, .grp 64, .cutPkts, .cuts, .sent, .seq, .tokens, .wlk]) {c : FabCut} {s : State}   (h0 : Q s) :
    Q (replyCut c s) := by
  unfold replyCut
  repeat' first
    | with_reducible assumption
    | ((with_reducible refine boolGoal ?_); exact rfl)
    | ((with_reducible refine hP.inst ?_); exact rfl)
    | ((with_reducible refine hP.one _ ?_); exact rfl)
    | with_reducible refine decideCut_law hQ (hP.sub rfl) ?_
    | with_reducible refine concludeCut_law hQ (hP.sub rfl) ?_
    | with_reducible refine setWlk_law hQ (hP.sub rfl) ?_
    | with_reducible refine portSend_law hQ (hP.sub rfl) ?_ ?_
    | with_reducible refine Law.ite ?_ ?_
    | ((try lift_lets); (with_reducible intro y); (have hy : Q y := ?_); clear_value y; rotate_left; subst y)
    | ((try lift_lets); (with_reducible intro y); (have hy : Q y.2 := ?_); clear_value y; rotate_left; subst y)
    | ((try lift_lets); (with_reducible intro y); (have hy : Q y.1 := ?_); clear_value y; rotate_left; subst y)
    | ((try lift_lets); (with_reducible intro x); (try clear_value x))
    | split
    | dsimp only

theorem fromMaster_law (hQ : Law P Q) (hP : Has P [.grp 17, .grp 64, .tokens, .wlk]) {p : Nat} {term : Nat} {f : State → Out} {s : State} (hi0 : P (.one .wlkPort p)) (hf_f : ∀ s0_, Q s0_ → outAll Q (f s0_)) (h0 : Q s) :
    outAll Q (fromMaster p term f s) := by
  unfold fromMaster
  repeat' first
    | with_reducible assumption
    | ((with_reducible refine boolGoal ?_); exact rfl)
    | ((with_reducible refine hP.one _ ?_); exact rfl)
    | with_reducible refine fromPort_law hQ (hP.sub rfl) ?_ (fun _ _ => ?_) ?_
    | with_reducible refine hearTerm_law hQ (hP.sub rfl) ?_
    | with_reducible refine hf_f _ ?_
    | with_reducible refine Law.ite ?_ ?_
    | with_reducible refine outOk ?_
    | with_reducible exact outFault
    | with_reducible refine outWithin ?_
    | with_reducible refine iteOut ?_ ?_
    | ((try lift_lets); (with_reducible intro x); (try clear_value x))
    | split

theorem execCutAnnounceReceive_law (hQ : Law P Q) (hP : Has P [.all .wlkPort, .grp 4, .grp 17, .grp 64, .cutPkts, .cuts, .sent, .seq, .tokens, .wlk]) {p : Nat} {term : Nat} {epoch : Nat} {dir : Nat} {pcut : Int} {s : State}   (h0 : Q s) :
    outAll Q (execCutAnnounceReceive p term epoch dir pcut s) := by
  unfold execCutAnnounceReceive
  repeat' first
    | with_reducible assumption
    | ((with_reducible refine boolGoal ?_); exact rfl)
    | ((with_reducible refine hP.inst ?_); exact rfl)
    | ((with_reducible refine hP.one _ ?_); exact rfl)
    | with_reducible refine fromMaster_law hQ (hP.sub rfl) ?_ (fun _ _ => ?_) ?_
    | with_reducible refine sendOn_law hQ (hP.sub rfl) ?_
    | with_reducible refine replyCut_law hQ (hP.sub rfl) ?_
    | with_reducible refine setWlk_law hQ (hP.sub rfl) ?_
    | with_reducible refine Law.ite ?_ ?_
    | with_reducible refine outOk ?_
    | with_reducible exact outFault
    | with_reducible refine outWithin ?_
    | with_reducible refine iteOut ?_ ?_
    | ((try lift_lets); (with_reducible intro y); (have hy : Q y := ?_); clear_value y; rotate_left; subst y)
    | ((try lift_lets); (with_reducible intro y); (have hy : Q y.1 := ?_); clear_value y; rotate_left; subst y)
    | ((try lift_lets); (with_reducible intro x); (try clear_value x))
    | split

theorem joinReply_law (hQ : Law P Q) (hP : Has P [.all .wlkPort, .grp 4, .grp 17, .grp 64, .cutPkts, .cuts, .sent, .seq, .tokens, .wlk]) {p : Nat} {ack : Bool} {minpos : Option Int} {s : State}   (h0 : Q s) :
    Q (joinReply p ack minpos s) := by
  unfold joinReply
  repeat' first
    | with_reducible assumption
    | ((with_reducible refine boolGoal ?_); exact rfl)
    | ((with_reducible refine hP.inst ?_); exact rfl)
    | ((with_reducible refine hP.one _ ?_); exact rfl)
    | with_reducible refine replyCut_law hQ (hP.sub rfl) ?_
    | with_reducible refine setWlk_law hQ (hP.sub rfl) ?_
    | with_reducible refine Law.ite ?_ ?_
    | ((try lift_lets); (with_reducible intro y); (have hy : Q y := ?_); clear_value y; rotate_left; subst y)
    | ((try lift_lets); (with_reducible intro y); (have hy : Q y.1 := ?_); clear_value y; rotate_left; subst y)
    | ((try lift_lets); (with_reducible intro x); (try clear_value x))
    | split
    | dsimp only

theorem execCutReplyReceive_law (hQ : Law P Q) (hP : Has P [.all .featMap, .all .geom, .all .lrp, .all .rtkView, .all .seam, .all .view, .all .wlkPort, .grp 4, .grp 7, .grp 17, .grp 64, .cutPkts, .cuts, .held, .mem, .progress, .recs, .rpa, .sent, .seq, .tokens, .wlk]) {p : Nat} {ack : Bool} {minpos : Option Int} {s : State}   (h0 : Q s) :
    outAll Q (execCutReplyReceive p ack minpos s) := by
  unfold execCutReplyReceive
  repeat' first
    | with_reducible assumption
    | ((with_reducible refine boolGoal ?_); exact rfl)
    | ((with_reducible refine hP.inst ?_); exact rfl)
    | ((with_reducible refine hP.one _ ?_); exact rfl)
    | with_reducible refine fromPort_law hQ (hP.sub rfl) ?_ (fun _ _ => ?_) ?_
    | with_reducible refine retireAll_law hQ (hP.sub rfl) ?_
    | with_reducible refine joinReply_law hQ (hP.sub rfl) ?_
    | with_reducible refine outOk ?_
    | with_reducible exact outFault
    | with_reducible refine outWithin ?_
    | with_reducible refine iteOut ?_ ?_
    | ((try lift_lets); (with_reducible intro x); (try clear_value x))

theorem execCutSubtreeTimeout_law (hQ : Law P Q) (hP : Has P [.all .featMap, .all .geom, .all .lrp, .all .rtkView, .all .seam, .all .view, .all .wlkPort, .grp 4, .grp 7, .grp 17, .grp 64, .cutPkts, .cuts, .held, .mem, .progress, .recs, .rpa, .sent, .seq, .tokens, .wlk]) {p : Nat} {s : State}   (h0 : Q s) :
    outAll Q (execCutSubtreeTimeout p s) := by
  unfold execCutSubtreeTimeout
  repeat' first
    | with_reducible assumption
    | ((with_reducible refine boolGoal ?_); exact rfl)
    | ((with_reducible refine hP.inst ?_); exact rfl)
    | ((with_reducible refine hP.one _ ?_); exact rfl)
    | with_reducible refine retireAll_law hQ (hP.sub rfl) ?_
    | with_reducible refine joinReply_law hQ (hP.sub rfl) ?_
    | with_reducible refine hQ.sat hP ?_ ?_
    | with_reducible refine wlkCause_law hQ (hP.sub rfl) ?_
    | with_reducible refine Law.ite ?_ ?_
    | with_reducible refine outOk ?_
    | with_reducible exact outFault
    | with_reducible refine outWithin ?_
    | with_reducible refine iteOut ?_ ?_
    | ((try lift_lets); (with_reducible intro y); (have hy : Q y := ?_); clear_value y; rotate_left; subst y)
    | ((try lift_lets); (with_reducible intro y); (have hy : Q y.1 := ?_); clear_value y; rotate_left; subst y)
    | ((try lift_lets); (with_reducible intro x); (try clear_value x))
    | split
    | dsimp only

theorem execCutMasterTimeout_law (hQ : Law P Q) (hP : Has P [.all .featMap, .all .geom, .all .lrp, .all .rtkView, .all .seam, .all .view, .all .wlkPort, .grp 4, .grp 7, .grp 17, .grp 64, .cutPkts, .cuts, .held, .mem, .progress, .recs, .rpa, .sent, .seq, .tokens, .wlk]) {s : State}   (h0 : Q s) :
    outAll Q (execCutMasterTimeout s) := by
  unfold execCutMasterTimeout
  repeat' first
    | with_reducible assumption
    | ((with_reducible refine boolGoal ?_); exact rfl)
    | ((with_reducible refine hP.inst ?_); exact rfl)
    | ((with_reducible refine hP.one _ ?_); exact rfl)
    | with_reducible refine retireAll_law hQ (hP.sub rfl) ?_
    | with_reducible refine concludeCut_law hQ (hP.sub rfl) ?_
    | with_reducible refine Law.ite ?_ ?_
    | with_reducible refine outOk ?_
    | with_reducible exact outFault
    | with_reducible refine outWithin ?_
    | with_reducible refine iteOut ?_ ?_
    | ((try lift_lets); (with_reducible intro y); (have hy : Q y := ?_); clear_value y; rotate_left; subst y)
    | ((try lift_lets); (with_reducible intro x); (try clear_value x))
    | split
    | dsimp only

theorem execCutCommitReceive_law (hQ : Law P Q) (hP : Has P [.all .featMap, .all .geom, .all .lrp, .all .rtkView, .all .seam, .all .view, .all .wlkPort, .grp 4, .grp 7, .grp 17, .grp 64, .cutPkts, .cuts, .held, .mem, .progress, .recs, .rpa, .sent, .tokens, .wlk]) {p : Nat} {term : Nat} {epoch : Nat} {s : State}   (h0 : Q s) :
    outAll Q (execCutCommitReceive p term epoch s) := by
  unfold execCutCommitReceive
  repeat' first
    | with_reducible assumption
    | ((with_reducible refine boolGoal ?_); exact rfl)
    | ((with_reducible refine hP.inst ?_); exact rfl)
    | ((with_reducible refine hP.one _ ?_); exact rfl)
    | with_reducible refine fromMaster_law hQ (hP.sub rfl) ?_ (fun _ _ => ?_) ?_
    | with_reducible refine retireAll_law hQ (hP.sub rfl) ?_
    | with_reducible refine placeFabric_law hQ (hP.sub rfl) ?_
    | with_reducible refine sendOn_law hQ (hP.sub rfl) ?_
    | with_reducible refine setWlk_law hQ (hP.sub rfl) ?_
    | with_reducible refine Law.ite ?_ ?_
    | with_reducible refine outOk ?_
    | with_reducible exact outFault
    | with_reducible refine outWithin ?_
    | with_reducible refine iteOut ?_ ?_
    | ((try lift_lets); (with_reducible intro y); (have hy : Q y := ?_); clear_value y; rotate_left; subst y)
    | ((try lift_lets); (with_reducible intro y); (have hy : Q y.1 := ?_); clear_value y; rotate_left; subst y)
    | ((try lift_lets); (with_reducible intro x); (try clear_value x))
    | split
    | dsimp only

theorem execCutCancelReceive_law (hQ : Law P Q) (hP : Has P [.all .wlkPort, .grp 17, .grp 64, .sent, .tokens, .wlk]) {p : Nat} {term : Nat} {epoch : Nat} {s : State}   (h0 : Q s) :
    outAll Q (execCutCancelReceive p term epoch s) := by
  unfold execCutCancelReceive
  repeat' first
    | with_reducible assumption
    | ((with_reducible refine boolGoal ?_); exact rfl)
    | ((with_reducible refine hP.inst ?_); exact rfl)
    | ((with_reducible refine hP.one _ ?_); exact rfl)
    | with_reducible refine fromMaster_law hQ (hP.sub rfl) ?_ (fun _ _ => ?_) ?_
    | with_reducible refine sendOn_law hQ (hP.sub rfl) ?_
    | with_reducible refine setWlk_law hQ (hP.sub rfl) ?_
    | with_reducible refine wlkCause_law hQ (hP.sub rfl) ?_
    | with_reducible refine Law.ite ?_ ?_
    | with_reducible refine outOk ?_
    | with_reducible exact outFault
    | with_reducible refine outWithin ?_
    | with_reducible refine iteOut ?_ ?_
    | ((try lift_lets); (with_reducible intro y); (have hy : Q y := ?_); clear_value y; rotate_left; subst y)
    | ((try lift_lets); (with_reducible intro y); (have hy : Q y.1 := ?_); clear_value y; rotate_left; subst y)
    | ((try lift_lets); (with_reducible intro x); (try clear_value x))
    | split
    | dsimp only

theorem execCutOrphanTimeout_law (hQ : Law P Q) (hP : Has P [.grp 17, .tokens, .wlk]) {s : State}   (h0 : Q s) :
    outAll Q (execCutOrphanTimeout s) := by
  unfold execCutOrphanTimeout
  repeat' first
    | with_reducible assumption
    | ((with_reducible refine boolGoal ?_); exact rfl)
    | ((with_reducible refine hP.one _ ?_); exact rfl)
    | with_reducible refine orphanCut_law hQ (hP.sub rfl) ?_
    | with_reducible refine Law.ite ?_ ?_
    | with_reducible refine outOk ?_
    | with_reducible exact outFault
    | with_reducible refine outWithin ?_
    | with_reducible refine iteOut ?_ ?_
    | ((try lift_lets); (with_reducible intro y); (have hy : Q y := ?_); clear_value y; rotate_left; subst y)
    | ((try lift_lets); (with_reducible intro x); (try clear_value x))
    | split
    | dsimp only

theorem becomeMaster_law (hQ : Law P Q) (hP : Has P [.grp 3, .grp 17, .grp 18, .seq, .tnt, .tokens, .web, .wlk]) {term : Nat} {s : State}   (h0 : Q s) :
    Q (becomeMaster term s) := by
  unfold becomeMaster
  repeat' first
    | with_reducible assumption
    | ((with_reducible refine boolGoal ?_); exact rfl)
    | ((with_reducible refine hP.one _ ?_); exact rfl)
    | with_reducible refine orphanCut_law hQ (hP.sub rfl) ?_
    | ((with_reducible refine hQ.wrAll hP ?_ ?_); simp only [List.all]; exact rfl)
    | with_reducible refine setWlk_law hQ (hP.sub rfl) ?_
    | with_reducible refine followSource_law hQ (hP.sub rfl) ?_
    | with_reducible refine switchSource_law hQ (hP.sub rfl) ?_
    | with_reducible refine completeLeases_law hQ (hP.sub rfl) ?_
    | with_reducible refine setTmode_law hQ (hP.sub rfl) ?_
    | with_reducible refine wlkCause_law hQ (hP.sub rfl) ?_
    | with_reducible refine hQ.sat hP ?_ ?_
    | with_reducible refine hQ.wr hP ?_ ?_
    | with_reducible refine Law.ite ?_ ?_
    | ((try lift_lets); (with_reducible intro y); (have hy : Q y := ?_); clear_value y; rotate_left; subst y)
    | ((try lift_lets); (with_reducible intro y); (have hy : Q y.1 := ?_); clear_value y; rotate_left; subst y)
    | ((try lift_lets); (with_reducible intro x); (try clear_value x))
    | split

theorem stopMaster_law (hQ : Law P Q) (hP : Has P [.grp 3, .grp 17, .grp 18, .seq, .tnt, .tokens, .web, .wlk]) {s : State}   (h0 : Q s) :
    Q (stopMaster s) := by
  unfold stopMaster
  repeat' first
    | with_reducible assumption
    | ((with_reducible refine boolGoal ?_); exact rfl)
    | ((with_reducible refine hP.one _ ?_); exact rfl)
    | with_reducible refine completeCut_law hQ (hP.sub rfl) ?_
    | with_reducible refine setWlk_law hQ (hP.sub rfl) ?_
    | ((with_reducible refine hQ.wrAll hP ?_ ?_); simp only [List.all]; exact rfl)
    | with_reducible refine setTmode_law hQ (hP.sub rfl) ?_
    | with_reducible refine followSource_law hQ (hP.sub rfl) ?_
    | with_reducible refine switchSource_law hQ (hP.sub rfl) ?_
    | with_reducible refine wlkCause_law hQ (hP.sub rfl) ?_
    | with_reducible refine setWeb_law hQ (hP.sub rfl) ?_
    | ((try lift_lets); (with_reducible intro y); (have hy : Q y := ?_); clear_value y; rotate_left; subst y)
    | ((try lift_lets); (with_reducible intro y); (have hy : Q y.1 := ?_); clear_value y; rotate_left; subst y)
    | ((try lift_lets); (with_reducible intro x); (try clear_value x))
    | split
    | dsimp only

theorem hearRenewal_law (hQ : Law P Q) (hP : Has P [.wlk]) {s : State}   (h0 : Q s) :
    Q (hearRenewal s) := by
  unfold hearRenewal
  repeat' first
    | with_reducible assumption
    | ((with_reducible refine boolGoal ?_); exact rfl)
    | ((with_reducible refine hP.one _ ?_); exact rfl)
    | with_reducible refine setWlk_law hQ (hP.sub rfl) ?_
    | ((try lift_lets); (with_reducible intro y); (have hy : Q y := ?_); clear_value y; rotate_left; subst y)
    | ((try lift_lets); (with_reducible intro y); (have hy : Q y.1 := ?_); clear_value y; rotate_left; subst y)
    | ((try lift_lets); (with_reducible intro x); (try clear_value x))

theorem ackRenewal_law (hQ : Law P Q) (hP : Has P [.wlk]) {v : Nat} {at_ : Nat} {s : State}   (h0 : Q s) :
    Q (ackRenewal v at_ s) := by
  unfold ackRenewal
  repeat' first
    | with_reducible assumption
    | ((with_reducible refine boolGoal ?_); exact rfl)
    | ((with_reducible refine hP.one _ ?_); exact rfl)
    | with_reducible refine setWlk_law hQ (hP.sub rfl) ?_
    | with_reducible refine Law.ite ?_ ?_
    | with_reducible refine optAll.map (fun _ => ?_)
    | ((try lift_lets); (with_reducible intro y); (have hy : Q y := ?_); clear_value y; rotate_left; subst y)
    | ((try lift_lets); (with_reducible intro y); (have hy : Q y.2 := ?_); clear_value y; rotate_left; subst y)
    | ((try lift_lets); (with_reducible intro y); (have hy : Q y.1 := ?_); clear_value y; rotate_left; subst y)
    | ((try lift_lets); (with_reducible intro x); (try clear_value x))
    | split
    | dsimp only

theorem execLeaseRenewalSend_law (hQ : Law P Q) (hP : Has P [.all .wlkPort, .grp 17, .grp 64, .sent, .tokens, .wlk]) {s : State}   (h0 : Q s) :
    outAll Q (execLeaseRenewalSend s) := by
  unfold execLeaseRenewalSend
  repeat' first
    | with_reducible assumption
    | ((with_reducible refine boolGoal ?_); exact rfl)
    | ((with_reducible refine hP.inst ?_); exact rfl)
    | ((with_reducible refine hP.one _ ?_); exact rfl)
    | with_reducible refine sendTo_law hQ (hP.sub rfl) ?_
    | with_reducible refine setWlk_law hQ (hP.sub rfl) ?_
    | with_reducible refine ackRenewal_law hQ (hP.sub rfl) ?_
    | with_reducible refine hearRenewal_law hQ (hP.sub rfl) ?_
    | with_reducible refine Law.ite ?_ ?_
    | with_reducible refine outOk ?_
    | with_reducible exact outFault
    | with_reducible refine outWithin ?_
    | with_reducible refine iteOut ?_ ?_
    | with_reducible refine Law.foldl (fun _ _ _ => ?_) ?_
    | with_reducible refine Law.foldlBy Prod.snd (fun _ _ _ => ?_) ?_
    | with_reducible refine Law.foldlBy Prod.fst (fun _ _ _ => ?_) ?_
    | ((try lift_lets); (with_reducible intro y); (have hy : Q y := ?_); clear_value y; rotate_left; subst y)
    | ((try lift_lets); (with_reducible intro y); (have hy : Q y.1 := ?_); clear_value y; rotate_left; subst y)
    | ((try lift_lets); (with_reducible intro x); (try clear_value x))
    | split
    | dsimp only

theorem execLeaseRenewalReceive_law (hQ : Law P Q) (hP : Has P [.all .wlkPort, .grp 17, .grp 64, .sent, .tokens, .wlk]) {p : Nat} {node : Nat} {term : Nat} {s : State}   (h0 : Q s) :
    outAll Q (execLeaseRenewalReceive p node term s) := by
  unfold execLeaseRenewalReceive
  repeat' first
    | with_reducible assumption
    | ((with_reducible refine boolGoal ?_); exact rfl)
    | ((with_reducible refine hP.inst ?_); exact rfl)
    | ((with_reducible refine hP.one _ ?_); exact rfl)
    | with_reducible refine fromMaster_law hQ (hP.sub rfl) ?_ (fun _ _ => ?_) ?_
    | with_reducible refine hearRenewal_law hQ (hP.sub rfl) ?_
    | with_reducible refine sendTo_law hQ (hP.sub rfl) ?_
    | with_reducible refine Law.ite ?_ ?_
    | with_reducible refine outOk ?_
    | with_reducible exact outFault
    | with_reducible refine outWithin ?_
    | with_reducible refine iteOut ?_ ?_
    | ((try lift_lets); (with_reducible intro x); (try clear_value x))
    | split

theorem execLeaseAckReceive_law (hQ : Law P Q) (hP : Has P [.grp 64, .wlk]) {p : Nat} {node : Nat} {term : Nat} {sent : Nat} {s : State} (hi0 : P (.one .wlkPort p))  (h0 : Q s) :
    outAll Q (execLeaseAckReceive p node term sent s) := by
  unfold execLeaseAckReceive
  repeat' first
    | with_reducible assumption
    | ((with_reducible refine boolGoal ?_); exact rfl)
    | ((with_reducible refine hP.one _ ?_); exact rfl)
    | with_reducible refine fromPort_law hQ (hP.sub rfl) ?_ (fun _ _ => ?_) ?_
    | with_reducible refine ackRenewal_law hQ (hP.sub rfl) ?_
    | with_reducible refine Law.ite ?_ ?_
    | with_reducible refine outOk ?_
    | with_reducible exact outFault
    | with_reducible refine outWithin ?_
    | with_reducible refine iteOut ?_ ?_
    | ((try lift_lets); (with_reducible intro x); (try clear_value x))
    | split

theorem execFabricLeaseExpiry_law (hQ : Law P Q) (hP : Has P [.grp 3, .grp 17, .grp 18, .seq, .tnt, .tokens, .web, .wlk]) {s : State}   (h0 : Q s) :
    outAll Q (execFabricLeaseExpiry s) := by
  unfold execFabricLeaseExpiry
  repeat' first
    | with_reducible assumption
    | ((with_reducible refine boolGoal ?_); exact rfl)
    | ((with_reducible refine hP.one _ ?_); exact rfl)
    | with_reducible refine stopMaster_law hQ (hP.sub rfl) ?_
    | with_reducible refine Law.ite ?_ ?_
    | with_reducible refine outOk ?_
    | with_reducible exact outFault
    | with_reducible refine outWithin ?_
    | with_reducible refine iteOut ?_ ?_
    | split

theorem grantTerm_law (hQ : Law P Q) (hP : Has P [.wlk]) {term : Nat} {s : State}   (h0 : Q s) :
    Q (grantTerm term s) := by
  unfold grantTerm
  repeat' first
    | with_reducible assumption
    | ((with_reducible refine boolGoal ?_); exact rfl)
    | ((with_reducible refine hP.one _ ?_); exact rfl)
    | with_reducible refine setWlk_law hQ (hP.sub rfl) ?_
    | ((try lift_lets); (with_reducible intro y); (have hy : Q y := ?_); clear_value y; rotate_left; subst y)
    | ((try lift_lets); (with_reducible intro y); (have hy : Q y.1 := ?_); clear_value y; rotate_left; subst y)
    | ((try lift_lets); (with_reducible intro x); (try clear_value x))

theorem countGrant_law (hQ : Law P Q) (hP : Has P [.grp 3, .grp 17, .grp 18, .seq, .tnt, .tokens, .web, .wlk]) {v : Nat} {term : Nat} {s : State}   (h0 : Q s) :
    Q (countGrant v term s) := by
  unfold countGrant
  repeat' first
    | with_reducible assumption
    | ((with_reducible refine boolGoal ?_); exact rfl)
    | ((with_reducible refine hP.one _ ?_); exact rfl)
    | with_reducible refine becomeMaster_law hQ (hP.sub rfl) ?_
    | with_reducible refine setWlk_law hQ (hP.sub rfl) ?_
    | with_reducible refine Law.ite ?_ ?_
    | ((try lift_lets); (with_reducible intro y); (have hy : Q y := ?_); clear_value y; rotate_left; subst y)
    | ((try lift_lets); (with_reducible intro y); (have hy : Q y.1 := ?_); clear_value y; rotate_left; subst y)
    | ((try lift_lets); (with_reducible intro x); (try clear_value x))
    | split
    | dsimp only

theorem execCandidateTimeout_law (hQ : Law P Q) (hP : Has P [.all .wlkPort, .grp 3, .grp 17, .grp 18, .grp 64, .sent, .seq, .tnt, .tokens, .web, .wlk]) {s : State}   (h0 : Q s) :
    outAll Q (execCandidateTimeout s) := by
  unfold execCandidateTimeout
  repeat' first
    | with_reducible assumption
    | ((with_reducible refine boolGoal ?_); exact rfl)
    | ((with_reducible refine hP.inst ?_); exact rfl)
    | ((with_reducible refine hP.one _ ?_); exact rfl)
    | with_reducible refine sendTo_law hQ (hP.sub rfl) ?_
    | with_reducible refine setWlk_law hQ (hP.sub rfl) ?_
    | with_reducible refine countGrant_law hQ (hP.sub rfl) ?_
    | with_reducible refine grantTerm_law hQ (hP.sub rfl) ?_
    | with_reducible refine Law.ite ?_ ?_
    | with_reducible refine outOk ?_
    | with_reducible exact outFault
    | with_reducible refine outWithin ?_
    | with_reducible refine iteOut ?_ ?_
    | with_reducible refine Law.foldl (fun _ _ _ => ?_) ?_
    | with_reducible refine Law.foldlBy Prod.snd (fun _ _ _ => ?_) ?_
    | with_reducible refine Law.foldlBy Prod.fst (fun _ _ _ => ?_) ?_
    | ((try lift_lets); (with_reducible intro y); (have hy : Q y := ?_); clear_value y; rotate_left; subst y)
    | ((try lift_lets); (with_reducible intro y); (have hy : Q y.1 := ?_); clear_value y; rotate_left; subst y)
    | ((try lift_lets); (with_reducible intro x); (try clear_value x))
    | split

theorem execTermRequestReceive_law (hQ : Law P Q) (hP : Has P [.all .wlkPort, .grp 17, .grp 64, .sent, .tokens, .wlk]) {p : Nat} {node : Nat} {term : Nat} {s : State}   (h0 : Q s) :
    outAll Q (execTermRequestReceive p node term s) := by
  unfold execTermRequestReceive
  repeat' first
    | with_reducible assumption
    | ((with_reducible refine boolGoal ?_); exact rfl)
    | ((with_reducible refine hP.inst ?_); exact rfl)
    | ((with_reducible refine hP.one _ ?_); exact rfl)
    | with_reducible refine fromPort_law hQ (hP.sub rfl) ?_ (fun _ _ => ?_) ?_
    | with_reducible refine grantTerm_law hQ (hP.sub rfl) ?_
    | with_reducible refine sendTo_law hQ (hP.sub rfl) ?_
    | with_reducible refine Law.ite ?_ ?_
    | with_reducible refine outOk ?_
    | with_reducible exact outFault
    | with_reducible refine outWithin ?_
    | with_reducible refine iteOut ?_ ?_
    | ((try lift_lets); (with_reducible intro x); (try clear_value x))
    | split

theorem execTermGrantReceive_law (hQ : Law P Q) (hP : Has P [.grp 3, .grp 17, .grp 18, .grp 64, .seq, .tnt, .tokens, .web, .wlk]) {p : Nat} {node : Nat} {term : Nat} {s : State} (hi0 : P (.one .wlkPort p))  (h0 : Q s) :
    outAll Q (execTermGrantReceive p node term s) := by
  unfold execTermGrantReceive
  repeat' first
    | with_reducible assumption
    | ((with_reducible refine boolGoal ?_); exact rfl)
    | ((with_reducible refine hP.one _ ?_); exact rfl)
    | with_reducible refine fromPort_law hQ (hP.sub rfl) ?_ (fun _ _ => ?_) ?_
    | with_reducible refine countGrant_law hQ (hP.sub rfl) ?_
    | with_reducible refine outOk ?_
    | with_reducible exact outFault
    | with_reducible refine outWithin ?_
    | with_reducible refine iteOut ?_ ?_
    | ((try lift_lets); (with_reducible intro x); (try clear_value x))

theorem execSyncSend_law (hQ : Law P Q) (hP : Has P [.all .wlkPort, .grp 64, .sent]) {s : State}   (h0 : Q s) :
    outAll Q (execSyncSend s) := by
  unfold execSyncSend
  repeat' first
    | with_reducible assumption
    | ((with_reducible refine boolGoal ?_); exact rfl)
    | ((with_reducible refine hP.inst ?_); exact rfl)
    | ((with_reducible refine hP.one _ ?_); exact rfl)
    | with_reducible refine sendOn_law hQ (hP.sub rfl) ?_
    | with_reducible refine evt_law hQ (hP.sub rfl) ?_
    | with_reducible refine Law.ite ?_ ?_
    | with_reducible refine outOk ?_
    | with_reducible exact outFault
    | with_reducible refine outWithin ?_
    | with_reducible refine iteOut ?_ ?_
    | split

theorem takeLaw_law (hQ : Law P Q) (hP : Has P [.grp 3, .web]) {pos : Int} {spd : Int} {acc : Int} {corr : Nat} {valid : Bool} {coasting : Bool} {s : State}   (h0 : Q s) :
    Q (takeLaw pos spd acc corr valid coasting s) := by
  unfold takeLaw
  repeat' first
    | with_reducible assumption
    | ((with_reducible refine boolGoal ?_); exact rfl)
    | ((with_reducible refine hP.one _ ?_); exact rfl)
    | with_reducible refine followSource_law hQ (hP.sub rfl) ?_
    | with_reducible refine setWeb_law hQ (hP.sub rfl) ?_
    | with_reducible refine hQ.wr hP ?_ ?_
    | with_reducible refine Law.ite ?_ ?_
    | ((try lift_lets); (with_reducible intro y); (have hy : Q y := ?_); clear_value y; rotate_left; subst y)
    | ((try lift_lets); (with_reducible intro y); (have hy : Q y.1 := ?_); clear_value y; rotate_left; subst y)
    | ((try lift_lets); (with_reducible intro x); (try clear_value x))
    | split

theorem execSyncReceive_law (hQ : Law P Q) (hP : Has P [.all .wlkPort, .grp 3, .grp 17, .grp 18, .grp 64, .free, .sent, .tnt, .tokens, .web, .wlk]) {p : Nat} {term : Nat} {epoch : Nat} {pos : Int} {spd : Int} {acc : Int} {valid : Bool} {coasting : Bool} {ptm : Nat} {corr : Nat} {s : State}   (h0 : Q s) :
    outAll Q (execSyncReceive p term epoch pos spd acc valid coasting ptm corr s) := by
  unfold execSyncReceive
  repeat' first
    | with_reducible assumption
    | ((with_reducible refine boolGoal ?_); exact rfl)
    | ((with_reducible refine hP.inst ?_); exact rfl)
    | ((with_reducible refine hP.one _ ?_); exact rfl)
    | with_reducible refine fromMaster_law hQ (hP.sub rfl) ?_ (fun _ _ => ?_) ?_
    | with_reducible refine setHolder_law hQ (hP.sub rfl) ?_
    | with_reducible refine sendOn_law hQ (hP.sub rfl) ?_
    | with_reducible refine followEpoch_law hQ (hP.sub rfl) ?_
    | with_reducible refine setWlk_law hQ (hP.sub rfl) ?_
    | with_reducible refine takeLaw_law hQ (hP.sub rfl) ?_
    | with_reducible refine discipline_law hQ (hP.sub rfl) ?_
    | with_reducible refine evt_law hQ (hP.sub rfl) ?_
    | with_reducible refine Law.ite ?_ ?_
    | with_reducible refine outOk ?_
    | with_reducible exact outFault
    | with_reducible refine outWithin ?_
    | with_reducible refine iteOut ?_ ?_
    | ((try lift_lets); (with_reducible intro y); (have hy : Q y := ?_); clear_value y; rotate_left; subst y)
    | ((try lift_lets); (with_reducible intro y); (have hy : Q y.1 := ?_); clear_value y; rotate_left; subst y)
    | ((try lift_lets); (with_reducible intro x); (try clear_value x))
    | split

theorem execPstoExpiry_law (hQ : Law P Q) (hP : Has P [.grp 3, .grp 18, .tokens, .web, .wlk]) {s : State}   (h0 : Q s) :
    outAll Q (execPstoExpiry s) := by
  unfold execPstoExpiry
  repeat' first
    | with_reducible assumption
    | ((with_reducible refine boolGoal ?_); exact rfl)
    | ((with_reducible refine hP.one _ ?_); exact rfl)
    | with_reducible refine setWlk_law hQ (hP.sub rfl) ?_
    | with_reducible refine followSource_law hQ (hP.sub rfl) ?_
    | with_reducible refine tntEmit_law hQ (hP.sub rfl) ?_
    | with_reducible refine hQ.wr hP ?_ ?_
    | with_reducible refine setWeb_law hQ (hP.sub rfl) ?_
    | with_reducible refine hQ.sat hP ?_ ?_
    | with_reducible refine Law.ite ?_ ?_
    | with_reducible refine outOk ?_
    | with_reducible exact outFault
    | with_reducible refine outWithin ?_
    | with_reducible refine iteOut ?_ ?_
    | ((try lift_lets); (with_reducible intro y); (have hy : Q y := ?_); clear_value y; rotate_left; subst y)
    | ((try lift_lets); (with_reducible intro y); (have hy : Q y.1 := ?_); clear_value y; rotate_left; subst y)
    | ((try lift_lets); (with_reducible intro x); (try clear_value x))
    | split

theorem execPacketForward_law (hQ : Law P Q) (hP : Has P [.all .wlkPort, .grp 17, .grp 64, .sent, .tokens]) {p : Nat} {node : Nat} {hops : Nat} {s : State}   (h0 : Q s) :
    outAll Q (execPacketForward p node hops s) := by
  unfold execPacketForward
  repeat' first
    | with_reducible assumption
    | ((with_reducible refine boolGoal ?_); exact rfl)
    | ((with_reducible refine hP.inst ?_); exact rfl)
    | ((with_reducible refine hP.one _ ?_); exact rfl)
    | with_reducible refine fromPort_law hQ (hP.sub rfl) ?_ (fun _ _ => ?_) ?_
    | with_reducible refine hQ.sat hP ?_ ?_
    | with_reducible refine portSend_law hQ (hP.sub rfl) ?_ ?_
    | with_reducible refine noRoute_law hQ (hP.sub rfl) ?_
    | with_reducible refine wlkCause_law hQ (hP.sub rfl) ?_
    | with_reducible refine Law.ite ?_ ?_
    | with_reducible refine outOk ?_
    | with_reducible exact outFault
    | with_reducible refine outWithin ?_
    | with_reducible refine iteOut ?_ ?_
    | ((try lift_lets); (with_reducible intro y); (have hy : Q y := ?_); clear_value y; rotate_left; subst y)
    | ((try lift_lets); (with_reducible intro y); (have hy : Q y.1 := ?_); clear_value y; rotate_left; subst y)
    | ((try lift_lets); (with_reducible intro x); (try clear_value x))
    | split
    | dsimp only

theorem askSnapshot_law (hQ : Law P Q) (hP : Has P [.grp 23, .snap]) {t : Option Nat} {s : State}   (h0 : Q s) :
    Q (askSnapshot t s) := by
  unfold askSnapshot
  repeat' first
    | with_reducible assumption
    | ((with_reducible refine boolGoal ?_); exact rfl)
    | ((with_reducible refine hP.one _ ?_); exact rfl)
    | with_reducible refine hQ.wr hP ?_ ?_
    | with_reducible refine Law.ite ?_ ?_
    | ((try lift_lets); (with_reducible intro y); (have hy : Q y := ?_); clear_value y; rotate_left; subst y)
    | ((try lift_lets); (with_reducible intro y); (have hy : Q y.1 := ?_); clear_value y; rotate_left; subst y)
    | ((try lift_lets); (with_reducible intro x); (try clear_value x))
    | split
    | with_reducible refine hQ.snap ?_ ?_

theorem execFabricSnapRequestReceive_law (hQ : Law P Q) (hP : Has P [.all .wlkPort, .grp 17, .grp 23, .grp 64, .sent, .snap, .tokens, .wlk]) {p : Nat} {term : Nat} {tsnap : Nat} {s : State}   (h0 : Q s) :
    outAll Q (execFabricSnapRequestReceive p term tsnap s) := by
  unfold execFabricSnapRequestReceive
  repeat' first
    | with_reducible assumption
    | ((with_reducible refine boolGoal ?_); exact rfl)
    | ((with_reducible refine hP.inst ?_); exact rfl)
    | ((with_reducible refine hP.one _ ?_); exact rfl)
    | with_reducible refine fromMaster_law hQ (hP.sub rfl) ?_ (fun _ _ => ?_) ?_
    | with_reducible refine askSnapshot_law hQ (hP.sub rfl) ?_
    | with_reducible refine sendOn_law hQ (hP.sub rfl) ?_
    | with_reducible refine outOk ?_
    | with_reducible exact outFault
    | with_reducible refine outWithin ?_
    | with_reducible refine iteOut ?_ ?_
    | ((try lift_lets); (with_reducible intro x); (try clear_value x))

end Sys2Proof.Machine
end

