-- ==== Sys2Proof/Laws/Host.lean ====
section
/-!
SUPPORT. What each function of Machine/Host.lean can change: every law of the parts it names survives it.
-/
namespace Sys2Proof.Machine

variable {P : Part → Prop} {Q : State → Prop}

theorem setHif_law (hQ : Law P Q) (hP : Has P [.hif]) {s : State} {e : HifState}   (h0 : Q s) :
    Q (State.setHif s e) := by
  unfold State.setHif
  repeat' first
    | with_reducible assumption
    | ((with_reducible refine boolGoal ?_); exact rfl)
    | ((with_reducible refine hP.one _ ?_); exact rfl)
    | with_reducible refine Law.ite ?_ ?_
    | ((try lift_lets); (with_reducible intro y); (have hy : Q y := ?_); clear_value y; rotate_left; subst y)
    | ((try lift_lets); (with_reducible intro x); (try clear_value x))
    | split
    | with_reducible refine hQ.hif ?_ ?_

theorem bar0Fields_law (hQ : Law P Q) (hP : Has P []) {B : List Part} (hB : Has P B) {x : Word} {l : List Field}
    (hf : (l.all fun f => f.okIn B) = true) {s : State} (h : Q s) : Q (bar0Fields x l s) := by
  induction l generalizing s with
  | nil => exact h
  | cons f l ih =>
    simp only [List.all_cons, Bool.and_eq_true] at hf
    exact ih hf.2 (hQ.wr hB hf.1 h)

theorem writeCen_law (hQ : Law P Q) (hP : Has P [.grp 65, .hif]) {m : Nat} {v : Word} {s : State}   (h0 : Q s) :
    Q (writeCen m v s) := by
  unfold writeCen
  repeat' first
    | with_reducible assumption
    | ((with_reducible refine boolGoal ?_); exact rfl)
    | ((with_reducible refine hP.one _ ?_); exact rfl)
    | ((with_reducible refine bar0Fields_law hQ (hP.sub rfl) hP ?_ ?_); simp only [List.all]; exact rfl)
    | with_reducible refine hQ.wr hP ?_ ?_
    | ((with_reducible refine hQ.wrAll hP ?_ ?_); simp only [List.all]; exact rfl)
    | with_reducible refine setHif_law hQ (hP.sub rfl) ?_
    | with_reducible refine Law.ite ?_ ?_
    | ((try lift_lets); (with_reducible intro y); (have hy : Q y := ?_); clear_value y; rotate_left; subst y)
    | ((try lift_lets); (with_reducible intro y); (have hy : Q y.1 := ?_); clear_value y; rotate_left; subst y)
    | ((try lift_lets); (with_reducible intro x); (try clear_value x))
    | split
    | dsimp only

theorem writeCons_law (hQ : Law P Q) (hP : Has P [.grp 65]) {f : Field} {written : Nat} {m : Nat} {v : Word} {s : State}  {B : List Part} (hB : Has P B) (hc_f : f.okIn B = true)  (h0 : Q s) :
    Q (writeCons f written m v s) := by
  unfold writeCons
  repeat' first
    | with_reducible assumption
    | ((with_reducible refine boolGoal ?_); exact rfl)
    | ((with_reducible refine hP.one _ ?_); exact rfl)
    | ((with_reducible refine hQ.wr hB ?_ ?_); (with_reducible assumption))
    | ((with_reducible refine hQ.sat hB ?_ ?_); (with_reducible assumption))
    | ((with_reducible refine hQ.wr2 hB ?_ ?_); (with_reducible assumption))
    | ((with_reducible refine hQ.wrI hB ?_ ?_); (with_reducible assumption))
    | ((with_reducible refine hQ.wrap hB ?_ ?_); (with_reducible assumption))
    | with_reducible refine hQ.sat hP ?_ ?_
    | with_reducible refine hQ.wr hP ?_ ?_
    | with_reducible refine hQ.wr hB ?_ ?_
    | with_reducible refine hQ.sat hB ?_ ?_
    | with_reducible refine hQ.wr2 hB ?_ ?_
    | with_reducible refine hQ.wrI hB ?_ ?_
    | with_reducible refine hQ.wrap hB ?_ ?_
    | with_reducible refine Law.ite ?_ ?_
    | ((try lift_lets); (with_reducible intro y); (have hy : Q y := ?_); clear_value y; rotate_left; subst y)
    | ((try lift_lets); (with_reducible intro y); (have hy : Q y.1 := ?_); clear_value y; rotate_left; subst y)
    | ((try lift_lets); (with_reducible intro x); (try clear_value x))
    | split

theorem writeHlen_law (hQ : Law P Q) (hP : Has P [.grp 65, .hif]) {m : Nat} {v : Word} {s : State}   (h0 : Q s) :
    Q (writeHlen m v s) := by
  unfold writeHlen
  repeat' first
    | with_reducible assumption
    | ((with_reducible refine boolGoal ?_); exact rfl)
    | ((with_reducible refine hP.one _ ?_); exact rfl)
    | ((with_reducible refine bar0Fields_law hQ (hP.sub rfl) hP ?_ ?_); simp only [List.all]; exact rfl)
    | with_reducible refine hQ.wr hP ?_ ?_
    | ((with_reducible refine hQ.wrAll hP ?_ ?_); simp only [List.all]; exact rfl)
    | with_reducible refine setHif_law hQ (hP.sub rfl) ?_
    | with_reducible refine Law.ite ?_ ?_
    | ((try lift_lets); (with_reducible intro y); (have hy : Q y := ?_); clear_value y; rotate_left; subst y)
    | ((try lift_lets); (with_reducible intro y); (have hy : Q y.1 := ?_); clear_value y; rotate_left; subst y)
    | ((try lift_lets); (with_reducible intro x); (try clear_value x))
    | split

theorem writeMen_law (hQ : Law P Q) (hP : Has P [.grp 64, .grp 65, .hif, .mem, .poison]) {m : Nat} {v : Word} {s : State}   (h0 : Q s) :
    Q (writeMen m v s) := by
  unfold writeMen
  repeat' first
    | with_reducible assumption
    | ((with_reducible refine boolGoal ?_); exact rfl)
    | ((with_reducible refine hP.one _ ?_); exact rfl)
    | with_reducible refine hQ.wr hP ?_ ?_
    | with_reducible refine put_law hQ (hP.sub rfl) ?_
    | with_reducible refine setHif_law hQ (hP.sub rfl) ?_
    | with_reducible refine Law.ite ?_ ?_
    | ((try lift_lets); (with_reducible intro y); (have hy : Q y := ?_); clear_value y; rotate_left; subst y)
    | ((try lift_lets); (with_reducible intro y); (have hy : Q y.1 := ?_); clear_value y; rotate_left; subst y)
    | ((try lift_lets); (with_reducible intro x); (try clear_value x))
    | split

theorem writeBase_law (hQ : Law P Q) {B : List Part} (hB : Has P B) {f en : Field} (hf : f.okIn B = true) {m : Nat} {v : Word} {s : State}
    (h0 : Q s) : Q (writeBase f en m v s) := by
  unfold writeBase
  split
  · exact h0
  · refine bar0Fields_law hQ (hB.sub rfl) hB ?_ h0
    simp only [List.all, hf, Bool.and_self]

theorem writeDoorbell_law (hQ : Law P Q) (hP : Has P [.grp 65]) {v : Nat} {s : State}   (h0 : Q s) :
    Q (writeDoorbell v s) := by
  unfold writeDoorbell
  repeat' first
    | with_reducible assumption
    | ((with_reducible refine boolGoal ?_); exact rfl)
    | ((with_reducible refine hP.one _ ?_); exact rfl)
    | with_reducible refine hQ.sat hP ?_ ?_
    | with_reducible refine hQ.wr hP ?_ ?_
    | with_reducible refine Law.ite ?_ ?_
    | ((try lift_lets); (with_reducible intro y); (have hy : Q y := ?_); clear_value y; rotate_left; subst y)
    | ((try lift_lets); (with_reducible intro y); (have hy : Q y.1 := ?_); clear_value y; rotate_left; subst y)
    | ((try lift_lets); (with_reducible intro x); (try clear_value x))
    | split

theorem writeBar0_law (hQ : Law P Q) (hP : Has P [.grp 64, .grp 65, .hif, .mem, .poison]) {off : Nat} {m : Nat} {v : Word} {s : State}   (h0 : Q s) :
    Q (writeBar0 off m v s) := by
  unfold writeBar0
  repeat' first
    | with_reducible assumption
    | ((with_reducible refine boolGoal ?_); exact rfl)
    | ((with_reducible refine hP.one _ ?_); exact rfl)
    | with_reducible refine writeBase_law hQ hP ?_ ?_
    | with_reducible refine writeCen_law hQ (hP.sub rfl) ?_
    | with_reducible refine writeCons_law hQ (hP.sub rfl) hP ?_ ?_ 
    | with_reducible refine writeHlen_law hQ (hP.sub rfl) ?_
    | with_reducible refine writeMen_law hQ (hP.sub rfl) ?_
    | with_reducible refine hQ.wr hP ?_ ?_
    | with_reducible refine Law.ite ?_ ?_
    | ((try lift_lets); (with_reducible intro y); (have hy : Q y := ?_); clear_value y; rotate_left; subst y)
    | ((try lift_lets); (with_reducible intro x); (try clear_value x))
    | split
    | dsimp only

theorem byHost_law (hQ : Law P Q) (hP : Has P []) {f : State → State} {s : State}  (hf_f : ∀ s0_, Q s0_ → Q (f s0_)) (h0 : Q s) :
    outAll Q (byHost f s) := by
  unfold byHost
  repeat' first
    | with_reducible assumption
    | ((with_reducible refine boolGoal ?_); exact rfl)
    | ((with_reducible refine hP.one _ ?_); exact rfl)
    | with_reducible refine hf_f _ ?_
    | with_reducible refine Law.ite ?_ ?_
    | with_reducible refine outOk ?_
    | with_reducible exact outFault
    | with_reducible refine outWithin ?_
    | with_reducible refine iteOut ?_ ?_
    | split

theorem execCmddbWrite_law (hQ : Law P Q) (hP : Has P [.grp 65]) {v : Nat} {s : State}   (h0 : Q s) :
    outAll Q (execCmddbWrite v s) := by
  unfold execCmddbWrite
  repeat' first
    | with_reducible assumption
    | ((with_reducible refine boolGoal ?_); exact rfl)
    | ((with_reducible refine hP.one _ ?_); exact rfl)
    | with_reducible refine byHost_law hQ (hP.sub rfl) (fun _ _ => ?_) ?_
    | with_reducible refine writeDoorbell_law hQ (hP.sub rfl) ?_
    | with_reducible refine outOk ?_
    | with_reducible exact outFault
    | with_reducible refine outWithin ?_
    | with_reducible refine iteOut ?_ ?_

theorem execCenWrite_law (hQ : Law P Q) (hP : Has P [.grp 65, .hif]) {m : Nat} {v : Word} {s : State}   (h0 : Q s) :
    outAll Q (execCenWrite m v s) := by
  unfold execCenWrite
  repeat' first
    | with_reducible assumption
    | ((with_reducible refine boolGoal ?_); exact rfl)
    | ((with_reducible refine hP.one _ ?_); exact rfl)
    | with_reducible refine byHost_law hQ (hP.sub rfl) (fun _ _ => ?_) ?_
    | with_reducible refine writeCen_law hQ (hP.sub rfl) ?_
    | with_reducible refine outOk ?_
    | with_reducible exact outFault
    | with_reducible refine outWithin ?_
    | with_reducible refine iteOut ?_ ?_

theorem execCcconsWrite_law (hQ : Law P Q) (hP : Has P [.grp 65]) {m : Nat} {v : Word} {s : State}   (h0 : Q s) :
    outAll Q (execCcconsWrite m v s) := by
  unfold execCcconsWrite
  repeat' first
    | with_reducible assumption
    | ((with_reducible refine boolGoal ?_); exact rfl)
    | ((with_reducible refine hP.one _ ?_); exact rfl)
    | with_reducible refine byHost_law hQ (hP.sub rfl) (fun _ _ => ?_) ?_
    | with_reducible refine writeCons_law hQ (hP.sub rfl) hP ?_ ?_ 
    | with_reducible refine outOk ?_
    | with_reducible exact outFault
    | with_reducible refine outWithin ?_
    | with_reducible refine iteOut ?_ ?_
    | ((try lift_lets); (with_reducible intro x); (try clear_value x))

theorem execHlconsWrite_law (hQ : Law P Q) (hP : Has P [.grp 65]) {m : Nat} {v : Word} {s : State}   (h0 : Q s) :
    outAll Q (execHlconsWrite m v s) := by
  unfold execHlconsWrite
  repeat' first
    | with_reducible assumption
    | ((with_reducible refine boolGoal ?_); exact rfl)
    | ((with_reducible refine hP.one _ ?_); exact rfl)
    | with_reducible refine byHost_law hQ (hP.sub rfl) (fun _ _ => ?_) ?_
    | with_reducible refine writeCons_law hQ (hP.sub rfl) hP ?_ ?_ 
    | with_reducible refine outOk ?_
    | with_reducible exact outFault
    | with_reducible refine outWithin ?_
    | with_reducible refine iteOut ?_ ?_
    | ((try lift_lets); (with_reducible intro x); (try clear_value x))

theorem execMenWrite_law (hQ : Law P Q) (hP : Has P [.grp 64, .grp 65, .hif, .mem, .poison]) {m : Nat} {v : Word} {s : State}   (h0 : Q s) :
    outAll Q (execMenWrite m v s) := by
  unfold execMenWrite
  repeat' first
    | with_reducible assumption
    | ((with_reducible refine boolGoal ?_); exact rfl)
    | ((with_reducible refine hP.one _ ?_); exact rfl)
    | with_reducible refine byHost_law hQ (hP.sub rfl) (fun _ _ => ?_) ?_
    | with_reducible refine writeMen_law hQ (hP.sub rfl) ?_
    | with_reducible refine outOk ?_
    | with_reducible exact outFault
    | with_reducible refine outWithin ?_
    | with_reducible refine iteOut ?_ ?_

theorem execBar0RegWrite_law (hQ : Law P Q) (hP : Has P [.grp 64, .grp 65, .hif, .mem, .poison]) {off : Nat} {m : Nat} {v : Word} {s : State}   (h0 : Q s) :
    outAll Q (execBar0RegWrite off m v s) := by
  unfold execBar0RegWrite
  repeat' first
    | with_reducible assumption
    | ((with_reducible refine boolGoal ?_); exact rfl)
    | ((with_reducible refine hP.one _ ?_); exact rfl)
    | with_reducible refine byHost_law hQ (hP.sub rfl) (fun _ _ => ?_) ?_
    | with_reducible refine writeBar0_law hQ (hP.sub rfl) ?_
    | with_reducible refine outOk ?_
    | with_reducible exact outFault
    | with_reducible refine outWithin ?_
    | with_reducible refine iteOut ?_ ?_

theorem execBar0Evfire_law (hQ : Law P Q) (hP : Has P [.tokens]) {c : Nat} {s : State}   (h0 : Q s) :
    outAll Q (execBar0Evfire c s) := by
  unfold execBar0Evfire
  repeat' first
    | with_reducible assumption
    | ((with_reducible refine boolGoal ?_); exact rfl)
    | ((with_reducible refine hP.one _ ?_); exact rfl)
    | with_reducible refine byHost_law hQ (hP.sub rfl) (fun _ _ => ?_) ?_
    | with_reducible refine fire_law hQ (hP.sub rfl) ?_
    | with_reducible refine outOk ?_
    | with_reducible exact outFault
    | with_reducible refine outWithin ?_
    | with_reducible refine iteOut ?_ ?_
    | ((try lift_lets); (with_reducible intro x); (try clear_value x))

theorem execResetkeyWrite_law (hQ : Law P Q) (hP : Has P [.grp 21, .grp 24, .mem, .power, .reset, .seq]) {v : Nat} {s : State}   (h0 : Q s) :
    outAll Q (execResetkeyWrite v s) := by
  unfold execResetkeyWrite
  repeat' first
    | with_reducible assumption
    | ((with_reducible refine boolGoal ?_); exact rfl)
    | ((with_reducible refine hP.one _ ?_); exact rfl)
    | with_reducible refine byHost_law hQ (hP.sub rfl) (fun _ _ => ?_) ?_
    | with_reducible refine coreReset_law hQ (hP.sub rfl) ?_
    | with_reducible refine Law.ite ?_ ?_
    | with_reducible refine outOk ?_
    | with_reducible exact outFault
    | with_reducible refine outWithin ?_
    | with_reducible refine iteOut ?_ ?_
    | ((try lift_lets); (with_reducible intro x); (try clear_value x))
    | split

theorem execFunctionLevelReset_law (hQ : Law P Q) (hP : Has P [.grp 21, .grp 24, .mem, .power, .reset, .seq]) {s : State}   (h0 : Q s) :
    outAll Q (execFunctionLevelReset s) := by
  unfold execFunctionLevelReset
  repeat' first
    | with_reducible assumption
    | ((with_reducible refine boolGoal ?_); exact rfl)
    | ((with_reducible refine hP.one _ ?_); exact rfl)
    | with_reducible refine byHost_law hQ (hP.sub rfl) (fun _ _ => ?_) ?_
    | with_reducible refine coreReset_law hQ (hP.sub rfl) ?_
    | with_reducible refine outOk ?_
    | with_reducible exact outFault
    | with_reducible refine outWithin ?_
    | with_reducible refine iteOut ?_ ?_

theorem execPcieReset_law (hQ : Law P Q) (hP : Has P [.grp 21, .grp 24, .mem, .power, .reset, .seq]) {s : State}   (h0 : Q s) :
    outAll Q (execPcieReset s) := by
  unfold execPcieReset
  repeat' first
    | with_reducible assumption
    | ((with_reducible refine boolGoal ?_); exact rfl)
    | ((with_reducible refine hP.one _ ?_); exact rfl)
    | with_reducible refine coreReset_law hQ (hP.sub rfl) ?_
    | with_reducible refine outOk ?_
    | with_reducible exact outFault
    | with_reducible refine outWithin ?_
    | with_reducible refine iteOut ?_ ?_

theorem execBar2Access_law (hQ : Law P Q) (hP : Has P [.grp 64, .grp 65, .hif, .mem, .poison]) {off : Nat} {n : Nat} {data : Option (List Byte)} {s : State}   (h0 : Q s) :
    outAll Q (execBar2Access off n data s) := by
  unfold execBar2Access
  repeat' first
    | with_reducible assumption
    | ((with_reducible refine boolGoal ?_); exact rfl)
    | ((with_reducible refine hP.one _ ?_); exact rfl)
    | with_reducible refine byHost_law hQ (hP.sub rfl) (fun _ _ => ?_) ?_
    | with_reducible refine hQ.sat hP ?_ ?_
    | with_reducible refine setHif_law hQ (hP.sub rfl) ?_
    | with_reducible refine put_law hQ (hP.sub rfl) ?_
    | with_reducible refine traffic_law hQ (hP.sub rfl) ?_
    | with_reducible refine Law.ite ?_ ?_
    | with_reducible refine outOk ?_
    | with_reducible exact outFault
    | with_reducible refine outWithin ?_
    | with_reducible refine iteOut ?_ ?_
    | ((try lift_lets); (with_reducible intro y); (have hy : Q y := ?_); clear_value y; rotate_left; subst y)
    | ((try lift_lets); (with_reducible intro y); (have hy : Q y.1 := ?_); clear_value y; rotate_left; subst y)
    | ((try lift_lets); (with_reducible intro x); (try clear_value x))
    | split
    | dsimp only

theorem putCompletion_law (hQ : Law P Q) (hP : Has P [.grp 64, .grp 65, .hif, .mem, .poison]) {ws : List Word} {s : State}   (h0 : Q s) :
    Q (putCompletion ws s) := by
  unfold putCompletion
  repeat' first
    | with_reducible assumption
    | ((with_reducible refine boolGoal ?_); exact rfl)
    | ((with_reducible refine hP.one _ ?_); exact rfl)
    | with_reducible refine put_law hQ (hP.sub rfl) ?_
    | with_reducible refine setHif_law hQ (hP.sub rfl) ?_
    | with_reducible refine Law.ite ?_ ?_
    | ((try lift_lets); (with_reducible intro y); (have hy : Q y := ?_); clear_value y; rotate_left; subst y)
    | ((try lift_lets); (with_reducible intro y); (have hy : Q y.1 := ?_); clear_value y; rotate_left; subst y)
    | ((try lift_lets); (with_reducible intro x); (try clear_value x))
    | split

theorem execCompletionEntryWrite_law (hQ : Law P Q) (hP : Has P [.grp 64, .grp 65, .hif, .mem, .poison]) {s : State}   (h0 : Q s) :
    outAll Q (execCompletionEntryWrite s) := by
  unfold execCompletionEntryWrite
  repeat' first
    | with_reducible assumption
    | ((with_reducible refine boolGoal ?_); exact rfl)
    | ((with_reducible refine hP.one _ ?_); exact rfl)
    | with_reducible refine putCompletion_law hQ (hP.sub rfl) ?_
    | with_reducible refine setHif_law hQ (hP.sub rfl) ?_
    | with_reducible refine Law.ite ?_ ?_
    | with_reducible refine outOk ?_
    | with_reducible exact outFault
    | with_reducible refine outWithin ?_
    | with_reducible refine iteOut ?_ ?_
    | ((try lift_lets); (with_reducible intro y); (have hy : Q y := ?_); clear_value y; rotate_left; subst y)
    | ((try lift_lets); (with_reducible intro y); (have hy : Q y.1 := ?_); clear_value y; rotate_left; subst y)
    | ((try lift_lets); (with_reducible intro x); (try clear_value x))
    | split
    | dsimp only

theorem putProducer_law (hQ : Law P Q) (hP : Has P [.grp 64, .grp 65, .hif, .mem, .poison]) {ring : Nat} {s : State}   (h0 : Q s) :
    Q (putProducer ring s) := by
  unfold putProducer
  repeat' first
    | with_reducible assumption
    | ((with_reducible refine boolGoal ?_); exact rfl)
    | ((with_reducible refine hP.one _ ?_); exact rfl)
    | with_reducible refine put_law hQ (hP.sub rfl) ?_
    | with_reducible refine setHif_law hQ (hP.sub rfl) ?_
    | with_reducible refine Law.ite ?_ ?_
    | ((try lift_lets); (with_reducible intro y); (have hy : Q y := ?_); clear_value y; rotate_left; subst y)
    | ((try lift_lets); (with_reducible intro y); (have hy : Q y.1 := ?_); clear_value y; rotate_left; subst y)
    | ((try lift_lets); (with_reducible intro x); (try clear_value x))
    | split

theorem execProducerWordWrite_law (hQ : Law P Q) (hP : Has P [.grp 64, .grp 65, .hif, .mem, .poison]) {ring : Nat} {s : State}   (h0 : Q s) :
    outAll Q (execProducerWordWrite ring s) := by
  unfold execProducerWordWrite
  repeat' first
    | with_reducible assumption
    | ((with_reducible refine boolGoal ?_); exact rfl)
    | ((with_reducible refine hP.one _ ?_); exact rfl)
    | with_reducible refine putProducer_law hQ (hP.sub rfl) ?_
    | with_reducible refine Law.ite ?_ ?_
    | with_reducible refine outOk ?_
    | with_reducible exact outFault
    | with_reducible refine outWithin ?_
    | with_reducible refine iteOut ?_ ?_
    | ((try lift_lets); (with_reducible intro y); (have hy : Q y := ?_); clear_value y; rotate_left; subst y)
    | ((try lift_lets); (with_reducible intro x); (try clear_value x))
    | split

theorem execRd0HostCopy_law (hQ : Law P Q) (hP : Has P [.grp 9, .grp 64, .grp 65, .hif, .mem, .poison]) {s : State}   (h0 : Q s) :
    outAll Q (execRd0HostCopy s) := by
  unfold execRd0HostCopy
  repeat' first
    | with_reducible assumption
    | ((with_reducible refine boolGoal ?_); exact rfl)
    | ((with_reducible refine hP.one _ ?_); exact rfl)
    | with_reducible refine put_law hQ (hP.sub rfl) ?_
    | with_reducible refine setHif_law hQ (hP.sub rfl) ?_
    | with_reducible refine hQ.wr hP ?_ ?_
    | with_reducible refine Law.ite ?_ ?_
    | with_reducible refine outOk ?_
    | with_reducible exact outFault
    | with_reducible refine outWithin ?_
    | with_reducible refine iteOut ?_ ?_
    | ((try lift_lets); (with_reducible intro y); (have hy : Q y := ?_); clear_value y; rotate_left; subst y)
    | ((try lift_lets); (with_reducible intro y); (have hy : Q y.1 := ?_); clear_value y; rotate_left; subst y)
    | ((try lift_lets); (with_reducible intro x); (try clear_value x))
    | split

theorem showOutst_law (hQ : Law P Q) (hP : Has P [.grp 0]) {s : State}   (h0 : Q s) :
    Q (showOutst s) := by
  unfold showOutst
  repeat' first
    | with_reducible assumption
    | ((with_reducible refine boolGoal ?_); exact rfl)
    | ((with_reducible refine hP.one _ ?_); exact rfl)
    | with_reducible refine hQ.wr hP ?_ ?_

theorem formCompletion_law (hQ : Law P Q) (hP : Has P [.grp 0, .hif]) {cseq : Nat} {st : Nat} {idx : Nat} {late : Nat} {tag : Word} {s : State}   (h0 : Q s) :
    Q (formCompletion cseq st idx late tag s) := by
  unfold formCompletion
  repeat' first
    | with_reducible assumption
    | ((with_reducible refine boolGoal ?_); exact rfl)
    | ((with_reducible refine hP.one _ ?_); exact rfl)
    | with_reducible refine hQ.wrap hP ?_ ?_
    | with_reducible refine setHif_law hQ (hP.sub rfl) ?_
    | with_reducible refine Law.ite ?_ ?_
    | ((try lift_lets); (with_reducible intro y); (have hy : Q y := ?_); clear_value y; rotate_left; subst y)
    | ((try lift_lets); (with_reducible intro y); (have hy : Q y.1 := ?_); clear_value y; rotate_left; subst y)
    | ((try lift_lets); (with_reducible intro x); (try clear_value x))
    | split

theorem beginCommand_law (hQ : Law P Q) (hP : Has P [.procs, .seq]) {c : Cmd} {s : State}   (h0 : Q s) :
    Q (beginCommand c s) := by
  unfold beginCommand
  repeat' first
    | with_reducible assumption
    | ((with_reducible refine boolGoal ?_); exact rfl)
    | ((with_reducible refine hP.one _ ?_); exact rfl)
    | with_reducible refine setProc_law hQ (hP.sub rfl) ?_
    | ((try lift_lets); (with_reducible intro y); (have hy : Q y := ?_); clear_value y; rotate_left; subst y)
    | ((try lift_lets); (with_reducible intro y); (have hy : Q y.1 := ?_); clear_value y; rotate_left; subst y)
    | ((try lift_lets); (with_reducible intro x); (try clear_value x))
    | with_reducible refine hQ.seq ?_ ?_

theorem fetchCommand_law (hQ : Law P Q) (hP : Has P [.grp 0, .grp 64, .grp 65, .hif, .mem, .poison, .procs, .seq]) {entry : List Word} {s : State}   (h0 : Q s) :
    Q (fetchCommand entry s) := by
  unfold fetchCommand
  repeat' first
    | with_reducible assumption
    | ((with_reducible refine boolGoal ?_); exact rfl)
    | ((with_reducible refine hP.one _ ?_); exact rfl)
    | with_reducible refine hQ.writeWords ?_ ?_ ?_
    | with_reducible refine setHif_law hQ (hP.sub rfl) ?_
    | with_reducible refine formCompletion_law hQ (hP.sub rfl) ?_
    | with_reducible refine showOutst_law hQ (hP.sub rfl) ?_
    | with_reducible refine beginCommand_law hQ (hP.sub rfl) ?_
    | with_reducible refine traffic_law hQ (hP.sub rfl) ?_
    | with_reducible refine hQ.wrap hP ?_ ?_
    | with_reducible refine evt_law hQ (hP.sub rfl) ?_
    | with_reducible refine Law.ite ?_ ?_
    | with_reducible refine optAll.getD ?_ ?_
    | with_reducible refine optAll.map (fun _ => ?_)
    | ((try lift_lets); (with_reducible intro y); (have hy : Q y := ?_); clear_value y; rotate_left; subst y)
    | ((try lift_lets); (with_reducible intro y); (have hy : Q y.1 := ?_); clear_value y; rotate_left; subst y)
    | ((try lift_lets); (with_reducible intro x); (try clear_value x))
    | split
    | with_reducible refine hQ.seq ?_ ?_

theorem execCommandStart_law (hQ : Law P Q) (hP : Has P [.grp 0, .grp 64, .grp 65, .hif, .mem, .poison, .procs, .seq]) {entry : List Word} {s : State}   (h0 : Q s) :
    outAll Q (execCommandStart entry s) := by
  unfold execCommandStart
  repeat' first
    | with_reducible assumption
    | ((with_reducible refine boolGoal ?_); exact rfl)
    | ((with_reducible refine hP.one _ ?_); exact rfl)
    | with_reducible refine beginCommand_law hQ (hP.sub rfl) ?_
    | with_reducible refine updCmd_law hQ (hP.sub rfl) ?_
    | with_reducible refine fetchCommand_law hQ (hP.sub rfl) ?_
    | with_reducible refine Law.ite ?_ ?_
    | with_reducible refine outOk ?_
    | with_reducible exact outFault
    | with_reducible refine outWithin ?_
    | with_reducible refine iteOut ?_ ?_
    | ((try lift_lets); (with_reducible intro y); (have hy : Q y := ?_); clear_value y; rotate_left; subst y)
    | ((try lift_lets); (with_reducible intro y); (have hy : Q y.1 := ?_); clear_value y; rotate_left; subst y)
    | ((try lift_lets); (with_reducible intro x); (try clear_value x))
    | split
    | dsimp only

theorem completeCommand_law (hQ : Law P Q) (hP : Has P [.grp 0, .hif, .seq]) {c : Cmd} {s : State}   (h0 : Q s) :
    Q (completeCommand c s) := by
  unfold completeCommand
  repeat' first
    | with_reducible assumption
    | ((with_reducible refine boolGoal ?_); exact rfl)
    | ((with_reducible refine hP.one _ ?_); exact rfl)
    | with_reducible refine showOutst_law hQ (hP.sub rfl) ?_
    | with_reducible refine formCompletion_law hQ (hP.sub rfl) ?_
    | ((try lift_lets); (with_reducible intro y); (have hy : Q y := ?_); clear_value y; rotate_left; subst y)
    | ((try lift_lets); (with_reducible intro y); (have hy : Q y.2 := ?_); clear_value y; rotate_left; subst y)
    | ((try lift_lets); (with_reducible intro y); (have hy : Q y.1 := ?_); clear_value y; rotate_left; subst y)
    | ((try lift_lets); (with_reducible intro x); (try clear_value x))
    | dsimp only
    | with_reducible refine hQ.seq ?_ ?_

theorem execCommandComplete_law (hQ : Law P Q) (hP : Has P [.grp 0, .hif, .seq]) {cseq : Nat} {s : State}   (h0 : Q s) :
    outAll Q (execCommandComplete cseq s) := by
  unfold execCommandComplete
  repeat' first
    | with_reducible assumption
    | ((with_reducible refine boolGoal ?_); exact rfl)
    | ((with_reducible refine hP.one _ ?_); exact rfl)
    | with_reducible refine completeCommand_law hQ (hP.sub rfl) ?_
    | with_reducible refine Law.ite ?_ ?_
    | with_reducible refine outOk ?_
    | with_reducible exact outFault
    | with_reducible refine outWithin ?_
    | with_reducible refine iteOut ?_ ?_
    | ((try lift_lets); (with_reducible intro y); (have hy : Q y := ?_); clear_value y; rotate_left; subst y)
    | ((try lift_lets); (with_reducible intro y); (have hy : Q y.1 := ?_); clear_value y; rotate_left; subst y)
    | ((try lift_lets); (with_reducible intro x); (try clear_value x))
    | split
    | dsimp only

theorem refresh_law (hQ : Law P Q) (hP : Has P [.grp 64, .grp 65, .hif, .mem, .poison]) {st : Nat} {s : State}   (h0 : Q s) :
    Q (refresh st s) := by
  unfold refresh
  repeat' first
    | with_reducible assumption
    | ((with_reducible refine boolGoal ?_); exact rfl)
    | ((with_reducible refine hP.one _ ?_); exact rfl)
    | with_reducible refine put_law hQ (hP.sub rfl) ?_
    | with_reducible refine setHif_law hQ (hP.sub rfl) ?_
    | with_reducible refine evt_law hQ (hP.sub rfl) ?_
    | with_reducible refine Law.ite ?_ ?_
    | ((try lift_lets); (with_reducible intro y); (have hy : Q y := ?_); clear_value y; rotate_left; subst y)
    | ((try lift_lets); (with_reducible intro y); (have hy : Q y.1 := ?_); clear_value y; rotate_left; subst y)
    | ((try lift_lets); (with_reducible intro x); (try clear_value x))
    | split

theorem execMirrorRefresh_law (hQ : Law P Q) (hP : Has P [.grp 64, .grp 65, .hif, .mem, .poison]) {s : State}   (h0 : Q s) :
    outAll Q (execMirrorRefresh s) := by
  unfold execMirrorRefresh
  repeat' first
    | with_reducible assumption
    | ((with_reducible refine boolGoal ?_); exact rfl)
    | ((with_reducible refine hP.one _ ?_); exact rfl)
    | with_reducible refine refresh_law hQ (hP.sub rfl) ?_
    | with_reducible refine Law.ite ?_ ?_
    | with_reducible refine outOk ?_
    | with_reducible exact outFault
    | with_reducible refine outWithin ?_
    | with_reducible refine iteOut ?_ ?_
    | split

theorem execHifMircfg_law (hQ : Law P Q) (hP : Has P [.grp 0, .grp 64, .grp 65, .procs, .sampled, .seq, .tokens]) {x : XWord} {s : State}   (h0 : Q s) :
    outAll Q (execHifMircfg x s) := by
  unfold execHifMircfg
  repeat' first
    | with_reducible assumption
    | ((with_reducible refine boolGoal ?_); exact rfl)
    | ((with_reducible refine hP.one _ ?_); exact rfl)
    | with_reducible refine xop_law hQ (hP.sub rfl) (fun _ => ?_) ?_
    | with_reducible refine hQ.wr hP ?_ ?_
    | with_reducible refine Law.ite ?_ ?_
    | with_reducible refine resFin ?_
    | with_reducible refine resNo ?_
    | with_reducible refine resStart ?_
    | with_reducible refine resForm ?_
    | with_reducible refine resGone ?_
    | with_reducible refine resHold ?_
    | with_reducible refine iteRes ?_ ?_
    | with_reducible refine outOk ?_
    | with_reducible exact outFault
    | with_reducible refine outWithin ?_
    | with_reducible refine iteOut ?_ ?_
    | ((try lift_lets); (with_reducible intro y); (have hy : Q y := ?_); clear_value y; rotate_left; subst y)
    | ((try lift_lets); (with_reducible intro x); (try clear_value x))
    | split

theorem hifCnt_law (hQ : Law P Q) (hP : Has P [.grp 65]) {s : State}   (h0 : Q s) :
    Q (hifCnt s) := by
  unfold hifCnt
  repeat' first
    | with_reducible assumption
    | ((with_reducible refine boolGoal ?_); exact rfl)
    | ((with_reducible refine hP.one _ ?_); exact rfl)
    | ((with_reducible refine hQ.clr hP ?_ ?_); simp only [List.all]; exact rfl)

end Sys2Proof.Machine
end

