-- ==== Sys2Proof/Laws/Dependability.lean ====
section
/-!
SUPPORT. What each function of Machine/Dependability.lean can change: every law of the parts it names survives it.
-/
namespace Sys2Proof.Machine

variable {P : Part → Prop} {Q : State → Prop}

theorem setDep_law (hQ : Law P Q) (hP : Has P [.dep]) {s : State} {e : DepState}   (h0 : Q s) :
    Q (State.setDep s e) := by
  unfold State.setDep
  repeat' first
    | with_reducible assumption
    | ((with_reducible refine boolGoal ?_); exact rfl)
    | ((with_reducible refine hP.one _ ?_); exact rfl)
    | ((try lift_lets); (with_reducible intro y); (have hy : Q y := ?_); clear_value y; rotate_left; subst y)
    | ((try lift_lets); (with_reducible intro x); (try clear_value x))
    | with_reducible refine hQ.dep ?_ ?_

theorem showPend_law (hQ : Law P Q) (hP : Has P [.grp 22]) {s : State}   (h0 : Q s) :
    Q (showPend s) := by
  unfold showPend
  repeat' first
    | with_reducible assumption
    | ((with_reducible refine boolGoal ?_); exact rfl)
    | ((with_reducible refine hP.one _ ?_); exact rfl)
    | with_reducible refine hQ.wr hP ?_ ?_
    | ((try lift_lets); (with_reducible intro x); (try clear_value x))

theorem setPend_law (hQ : Law P Q) (hP : Has P [.grp 22, .dep, .tokens]) {b : Bool} {s : State}   (h0 : Q s) :
    Q (setPend b s) := by
  unfold setPend
  repeat' first
    | with_reducible assumption
    | ((with_reducible refine boolGoal ?_); exact rfl)
    | ((with_reducible refine hP.one _ ?_); exact rfl)
    | with_reducible refine showPend_law hQ (hP.sub rfl) ?_
    | with_reducible refine setDep_law hQ (hP.sub rfl) ?_
    | with_reducible refine emit_law hQ (hP.sub rfl) ?_
    | with_reducible refine Law.ite ?_ ?_
    | ((try lift_lets); (with_reducible intro y); (have hy : Q y := ?_); clear_value y; rotate_left; subst y)
    | ((try lift_lets); (with_reducible intro y); (have hy : Q y.1 := ?_); clear_value y; rotate_left; subst y)
    | ((try lift_lets); (with_reducible intro x); (try clear_value x))
    | split

theorem showDue_law (hQ : Law P Q) (hP : Has P [.grp 22, .tokens]) {s : State}   (h0 : Q s) :
    Q (showDue s) := by
  unfold showDue
  repeat' first
    | with_reducible assumption
    | ((with_reducible refine boolGoal ?_); exact rfl)
    | ((with_reducible refine hP.one _ ?_); exact rfl)
    | ((with_reducible refine hQ.wrAll hP ?_ ?_); simp only [List.all]; exact rfl)
    | with_reducible refine hQ.sat hP ?_ ?_
    | with_reducible refine emit_law hQ (hP.sub rfl) ?_
    | with_reducible refine Law.ite ?_ ?_
    | with_reducible refine optAll.getD ?_ ?_
    | ((try lift_lets); (with_reducible intro y); (have hy : Q y := ?_); clear_value y; rotate_left; subst y)
    | ((try lift_lets); (with_reducible intro y); (have hy : Q y.1 := ?_); clear_value y; rotate_left; subst y)
    | ((try lift_lets); (with_reducible intro x); (try clear_value x))
    | split

theorem showMean_law (hQ : Law P Q) (hP : Has P [.grp 22]) {s : State}   (h0 : Q s) :
    Q (showMean s) := by
  unfold showMean
  repeat' first
    | with_reducible assumption
    | ((with_reducible refine boolGoal ?_); exact rfl)
    | ((with_reducible refine hP.one _ ?_); exact rfl)
    | with_reducible refine hQ.wrI hP ?_ ?_
    | with_reducible refine Law.ite ?_ ?_
    | ((try lift_lets); (with_reducible intro y); (have hy : Q y := ?_); clear_value y; rotate_left; subst y)
    | ((try lift_lets); (with_reducible intro y); (have hy : Q y.2 := ?_); clear_value y; rotate_left; subst y)
    | ((try lift_lets); (with_reducible intro y); (have hy : Q y.1 := ?_); clear_value y; rotate_left; subst y)
    | ((try lift_lets); (with_reducible intro x); (try clear_value x))
    | split
    | dsimp only

theorem readTemps_law (hQ : Law P Q) (hP : Has P [.all .sensor, .grp 22, .tokens]) {ts : List Int} {s : State}   (h0 : Q s) :
    Q (readTemps ts s) := by
  unfold readTemps
  repeat' first
    | with_reducible assumption
    | ((with_reducible refine boolGoal ?_); exact rfl)
    | ((with_reducible refine hP.inst ?_); exact rfl)
    | ((with_reducible refine hP.one _ ?_); exact rfl)
    | with_reducible refine showDue_law hQ (hP.sub rfl) ?_
    | with_reducible refine showMean_law hQ (hP.sub rfl) ?_
    | with_reducible refine hQ.wrI hP ?_ ?_
    | with_reducible refine Law.foldl (fun _ _ _ => ?_) ?_
    | with_reducible refine Law.foldlBy Prod.snd (fun _ _ _ => ?_) ?_
    | with_reducible refine Law.foldlBy Prod.fst (fun _ _ _ => ?_) ?_
    | ((try lift_lets); (with_reducible intro x); (try clear_value x))
    | dsimp only

theorem metTarget_law (hQ : Law P Q) (hP : Has P [.dep, .seq]) {t : Nat} {s : State}   (h0 : Q s) :
    Q (metTarget t s) := by
  unfold metTarget
  repeat' first
    | with_reducible assumption
    | ((with_reducible refine boolGoal ?_); exact rfl)
    | ((with_reducible refine hP.one _ ?_); exact rfl)
    | with_reducible refine setDep_law hQ (hP.sub rfl) ?_
    | with_reducible refine optAll.map (fun _ => ?_)
    | ((try lift_lets); (with_reducible intro y); (have hy : Q y := ?_); clear_value y; rotate_left; subst y)
    | ((try lift_lets); (with_reducible intro y); (have hy : Q y.1 := ?_); clear_value y; rotate_left; subst y)
    | ((try lift_lets); (with_reducible intro x); (try clear_value x))
    | with_reducible refine hQ.seq ?_ ?_

theorem calFinish_law (hQ : Law P Q) (hP : Has P [.grp 22, .grp 64, .tokens]) {t : Nat} {res : Nat} {q : Nat} {s : State} (hi0 : P (.one .target t))  (h0 : Q s) :
    Q (calFinish t res q s) := by
  unfold calFinish
  repeat' first
    | with_reducible assumption
    | ((with_reducible refine boolGoal ?_); exact rfl)
    | ((with_reducible refine hP.one _ ?_); exact rfl)
    | ((with_reducible refine hQ.wrAt hP hi0 ?_ ?_); exact rfl)
    | with_reducible refine hQ.wr hP ?_ ?_
    | ((with_reducible refine hQ.wrAllAt hP hi0 ?_ ?_); simp only [List.all]; exact rfl)
    | ((with_reducible refine hQ.wrAll hP ?_ ?_); simp only [List.all]; exact rfl)
    | ((with_reducible refine hQ.satAt hP hi0 ?_ ?_); exact rfl)
    | with_reducible refine hQ.sat hP ?_ ?_
    | with_reducible refine showDue_law hQ (hP.sub rfl) ?_
    | with_reducible refine emit_law hQ (hP.sub rfl) ?_
    | with_reducible refine evt_law hQ (hP.sub rfl) ?_
    | with_reducible refine Law.ite ?_ ?_
    | ((try lift_lets); (with_reducible intro y); (have hy : Q y := ?_); clear_value y; rotate_left; subst y)
    | ((try lift_lets); (with_reducible intro y); (have hy : Q y.1 := ?_); clear_value y; rotate_left; subst y)
    | ((try lift_lets); (with_reducible intro x); (try clear_value x))
    | split

theorem leaveRun_law (hQ : Law P Q) (hP : Has P [.all .target, .grp 22, .grp 64, .dep, .seq, .tokens]) {u : Nat} {res : Nat} {q : Nat} {s : State}   (h0 : Q s) :
    Q (leaveRun u res q s) := by
  unfold leaveRun
  repeat' first
    | with_reducible assumption
    | ((with_reducible refine boolGoal ?_); exact rfl)
    | ((with_reducible refine hP.inst ?_); exact rfl)
    | ((with_reducible refine hP.one _ ?_); exact rfl)
    | with_reducible refine setDep_law hQ (hP.sub rfl) ?_
    | with_reducible refine metTarget_law hQ (hP.sub rfl) ?_
    | with_reducible refine calFinish_law hQ (hP.sub rfl) ?_ ?_
    | with_reducible refine Law.ite ?_ ?_
    | ((try lift_lets); (with_reducible intro y); (have hy : Q y := ?_); clear_value y; rotate_left; subst y)
    | ((try lift_lets); (with_reducible intro y); (have hy : Q y.1 := ?_); clear_value y; rotate_left; subst y)
    | ((try lift_lets); (with_reducible intro x); (try clear_value x))
    | split

theorem stopUnit_law (hQ : Law P Q) (hP : Has P [.procs, .rpa]) {u : Nat} {l : Nat} {s : State}   (h0 : Q s) :
    Q (stopUnit u l s) := by
  unfold stopUnit
  repeat' first
    | with_reducible assumption
    | ((with_reducible refine boolGoal ?_); exact rfl)
    | ((with_reducible refine hP.one _ ?_); exact rfl)
    | with_reducible refine setProc_law hQ (hP.sub rfl) ?_
    | with_reducible refine Law.ite ?_ ?_
    | with_reducible refine optAll.map (fun _ => ?_)
    | ((try lift_lets); (with_reducible intro y); (have hy : Q y := ?_); clear_value y; rotate_left; subst y)
    | ((try lift_lets); (with_reducible intro y); (have hy : Q y.1 := ?_); clear_value y; rotate_left; subst y)
    | ((try lift_lets); (with_reducible intro x); (try clear_value x))
    | split
    | dsimp only
    | with_reducible refine hQ.rpa ?_ ?_

theorem moveGrant_law (hQ : Law P Q) (hP : Has P [.damper]) {c : Nat} {i : Nat} {c' : Nat} {i' : Nat} {s : State}   (h0 : Q s) :
    Q (moveGrant c i c' i' s) := by
  unfold moveGrant
  repeat' first
    | with_reducible assumption
    | ((with_reducible refine boolGoal ?_); exact rfl)
    | ((with_reducible refine hP.one _ ?_); exact rfl)
    | with_reducible refine Law.ite ?_ ?_
    | ((try lift_lets); (with_reducible intro y); (have hy : Q y := ?_); clear_value y; rotate_left; subst y)
    | ((try lift_lets); (with_reducible intro x); (try clear_value x))
    | split
    | with_reducible exact idLaw ‹_›
    | with_reducible refine hQ.damper ?_ ?_

theorem passGrant_law (hQ : Law P Q) (hP : Has P [.grp 21, .damper, .tokens]) {l : Nat} {u : Nat} {s : State}   (h0 : Q s) :
    Q (passGrant l u s) := by
  unfold passGrant
  repeat' first
    | with_reducible assumption
    | ((with_reducible refine boolGoal ?_); exact rfl)
    | ((with_reducible refine hP.one _ ?_); exact rfl)
    | with_reducible refine release_law hQ (hP.sub rfl) ?_
    | with_reducible refine moveGrant_law hQ (hP.sub rfl) ?_
    | with_reducible refine Law.ite ?_ ?_
    | ((try lift_lets); (with_reducible intro x); (try clear_value x))
    | split

theorem bindUnit_law (hQ : Law P Q) (hP : Has P [.all .rpaUnit, .grp 5, .grp 21, .damper, .dep, .mem, .poison, .rpa, .tokens]) {l : Nat} {u : Nat} {s : State} (hi0 : P (.one .lrp l))  (h0 : Q s) :
    Q (bindUnit l u s) := by
  unfold bindUnit
  repeat' first
    | with_reducible assumption
    | ((with_reducible refine boolGoal ?_); exact rfl)
    | ((with_reducible refine hP.inst ?_); exact rfl)
    | ((with_reducible refine hP.one _ ?_); exact rfl)
    | ((with_reducible refine hQ.wrAllAt hP hi0 ?_ ?_); simp only [List.all]; exact rfl)
    | ((with_reducible refine hQ.wrAll hP ?_ ?_); simp only [List.all]; exact rfl)
    | ((with_reducible refine hQ.wrAt hP hi0 ?_ ?_); exact rfl)
    | with_reducible refine hQ.wr hP ?_ ?_
    | ((with_reducible refine hQ.satAt hP hi0 ?_ ?_); exact rfl)
    | with_reducible refine hQ.sat hP ?_ ?_
    | with_reducible refine passGrant_law hQ (hP.sub rfl) ?_
    | with_reducible refine clearWindow_law hQ (hP.sub rfl) ?_
    | with_reducible refine setDep_law hQ (hP.sub rfl) ?_
    | with_reducible refine finishRestore_law hQ (hP.sub rfl) ?_ ?_
    | with_reducible refine emit_law hQ (hP.sub rfl) ?_
    | with_reducible refine Law.foldl (fun _ _ _ => ?_) ?_
    | with_reducible refine Law.foldlBy Prod.snd (fun _ _ _ => ?_) ?_
    | with_reducible refine Law.foldlBy Prod.fst (fun _ _ _ => ?_) ?_
    | ((try lift_lets); (with_reducible intro y); (have hy : Q y := ?_); clear_value y; rotate_left; subst y)
    | ((try lift_lets); (with_reducible intro y); (have hy : Q y.1 := ?_); clear_value y; rotate_left; subst y)
    | ((try lift_lets); (with_reducible intro x); (try clear_value x))
    | dsimp only
    | with_reducible refine hQ.rpa ?_ ?_

theorem preempt_law (hQ : Law P Q) (hP : Has P [.all .target, .grp 21, .grp 22, .grp 64, .damper, .dep, .seq, .tokens]) {u : Nat} {s : State}   (h0 : Q s) :
    Q (preempt u s) := by
  unfold preempt
  repeat' first
    | with_reducible assumption
    | ((with_reducible refine boolGoal ?_); exact rfl)
    | ((with_reducible refine hP.inst ?_); exact rfl)
    | ((with_reducible refine hP.one _ ?_); exact rfl)
    | with_reducible refine showPend_law hQ (hP.sub rfl) ?_
    | with_reducible refine leaveRun_law hQ (hP.sub rfl) ?_
    | with_reducible refine release_law hQ (hP.sub rfl) ?_
    | with_reducible refine Law.ite ?_ ?_
    | split

theorem findSpare_law (hQ : Law P Q) (hP : Has P [.all .rpaUnit, .all .target, .grp 5, .grp 21, .grp 22, .grp 64, .damper, .dep, .mem, .poison, .rpa, .seq, .tokens]) {l : Nat} {s : State} (hi0 : P (.one .lrp l))  (h0 : Q s) :
    Q (findSpare l s) := by
  unfold findSpare
  repeat' first
    | with_reducible assumption
    | ((with_reducible refine boolGoal ?_); exact rfl)
    | ((with_reducible refine hP.inst ?_); exact rfl)
    | ((with_reducible refine hP.one _ ?_); exact rfl)
    | with_reducible refine bindUnit_law hQ (hP.sub rfl) ?_ ?_
    | with_reducible refine preempt_law hQ (hP.sub rfl) ?_
    | ((with_reducible refine hQ.wrAt hP hi0 ?_ ?_); exact rfl)
    | with_reducible refine hQ.wr hP ?_ ?_
    | with_reducible refine emit_law hQ (hP.sub rfl) ?_
    | with_reducible refine Law.ite ?_ ?_
    | ((try lift_lets); (with_reducible intro y); (have hy : Q y := ?_); clear_value y; rotate_left; subst y)
    | ((try lift_lets); (with_reducible intro x); (try clear_value x))
    | split
    | dsimp only

theorem bindUnbound_law (hQ : Law P Q) (hP : Has P [.all .lrp, .all .rpaUnit, .all .target, .grp 5, .grp 21, .grp 22, .grp 64, .damper, .dep, .mem, .poison, .rpa, .seq, .tokens]) {s : State}   (h0 : Q s) :
    Q (bindUnbound s) := by
  unfold bindUnbound
  repeat' first
    | with_reducible assumption
    | ((with_reducible refine boolGoal ?_); exact rfl)
    | ((with_reducible refine hP.inst ?_); exact rfl)
    | ((with_reducible refine hP.one _ ?_); exact rfl)
    | with_reducible refine findSpare_law hQ (hP.sub rfl) ?_ ?_
    | ((try lift_lets); (with_reducible intro y); (have hy : Q y := ?_); clear_value y; rotate_left; subst y)
    | ((try lift_lets); (with_reducible intro x); (try clear_value x))
    | split
    | dsimp only

theorem enterRepair_law (hQ : Law P Q) (hP : Has P [.grp 21, .damper, .tokens]) {u : Nat} {cause : Nat} {s : State} (hi0 : P (.one .rpaUnit u))  (h0 : Q s) :
    Q (enterRepair u cause s) := by
  unfold enterRepair
  repeat' first
    | with_reducible assumption
    | ((with_reducible refine boolGoal ?_); exact rfl)
    | ((with_reducible refine hP.one _ ?_); exact rfl)
    | ((with_reducible refine hQ.wrAllAt hP hi0 ?_ ?_); simp only [List.all]; exact rfl)
    | ((with_reducible refine hQ.wrAll hP ?_ ?_); simp only [List.all]; exact rfl)
    | with_reducible refine request_law hQ (hP.sub rfl) ?_

theorem toRepair_law (hQ : Law P Q) (hP : Has P [.grp 21, .damper, .tokens]) {u : Nat} {cause : Nat} {s : State} (hi0 : P (.one .rpaUnit u))  (h0 : Q s) :
    Q (toRepair u cause s) := by
  unfold toRepair
  repeat' first
    | with_reducible assumption
    | ((with_reducible refine boolGoal ?_); exact rfl)
    | ((with_reducible refine hP.one _ ?_); exact rfl)
    | with_reducible refine enterRepair_law hQ (hP.sub rfl) ?_ ?_
    | with_reducible refine release_law hQ (hP.sub rfl) ?_

theorem endRotation_law (hQ : Law P Q) (hP : Has P [.dep]) {r : Rotation} {s : State}   (h0 : Q s) :
    Q (endRotation r s) := by
  unfold endRotation
  repeat' first
    | with_reducible assumption
    | ((with_reducible refine boolGoal ?_); exact rfl)
    | ((with_reducible refine hP.one _ ?_); exact rfl)
    | with_reducible refine setDep_law hQ (hP.sub rfl) ?_
    | ((try lift_lets); (with_reducible intro y); (have hy : Q y := ?_); clear_value y; rotate_left; subst y)
    | ((try lift_lets); (with_reducible intro y); (have hy : Q y.1 := ?_); clear_value y; rotate_left; subst y)
    | ((try lift_lets); (with_reducible intro x); (try clear_value x))
    | dsimp only

theorem failUnit_law (hQ : Law P Q) (hP : Has P [.all .lrp, .all .rpaUnit, .all .target, .grp 5, .grp 21, .grp 22, .grp 64, .damper, .dep, .mem, .poison, .procs, .rpa, .seq, .tokens]) {u : Nat} {cause : Nat} {s : State}   (h0 : Q s) :
    Q (failUnit u cause s) := by
  unfold failUnit
  repeat' first
    | with_reducible assumption
    | ((with_reducible refine boolGoal ?_); exact rfl)
    | ((with_reducible refine hP.inst ?_); exact rfl)
    | ((with_reducible refine hP.one _ ?_); exact rfl)
    | with_reducible refine toRepair_law hQ (hP.sub rfl) ?_ ?_
    | with_reducible refine endRotation_law hQ (hP.sub rfl) ?_
    | with_reducible refine stopUnit_law hQ (hP.sub rfl) ?_
    | with_reducible refine setDep_law hQ (hP.sub rfl) ?_
    | with_reducible refine enterRepair_law hQ (hP.sub rfl) ?_ ?_
    | with_reducible refine moveGrant_law hQ (hP.sub rfl) ?_
    | with_reducible refine bindUnit_law hQ (hP.sub rfl) ?_ ?_
    | with_reducible refine findSpare_law hQ (hP.sub rfl) ?_ ?_
    | with_reducible refine setProc_law hQ (hP.sub rfl) ?_
    | ((try lift_lets); (with_reducible intro y); (have hy : Q y := ?_); clear_value y; rotate_left; subst y)
    | ((try lift_lets); (with_reducible intro y); (have hy : Q y.1 := ?_); clear_value y; rotate_left; subst y)
    | ((try lift_lets); (with_reducible intro x); (try clear_value x))
    | split
    | dsimp only

theorem execFailover_law (hQ : Law P Q) (hP : Has P [.all .lrp, .all .rpaUnit, .all .target, .grp 5, .grp 21, .grp 22, .grp 64, .damper, .dep, .mem, .poison, .procs, .rpa, .seq, .tokens]) {u : Nat} {cause : Nat} {s : State}   (h0 : Q s) :
    outAll Q (execFailover u cause s) := by
  unfold execFailover
  repeat' first
    | with_reducible assumption
    | ((with_reducible refine boolGoal ?_); exact rfl)
    | ((with_reducible refine hP.inst ?_); exact rfl)
    | ((with_reducible refine hP.one _ ?_); exact rfl)
    | with_reducible refine failUnit_law hQ (hP.sub rfl) ?_
    | with_reducible refine evt_law hQ (hP.sub rfl) ?_
    | with_reducible refine toRepair_law hQ (hP.sub rfl) ?_ ?_
    | with_reducible refine Law.ite ?_ ?_
    | with_reducible refine outOk ?_
    | with_reducible exact outFault
    | with_reducible refine outWithin ?_
    | with_reducible refine iteOut ?_ ?_
    | ((try lift_lets); (with_reducible intro y); (have hy : Q y := ?_); clear_value y; rotate_left; subst y)
    | ((try lift_lets); (with_reducible intro x); (try clear_value x))
    | split

theorem execRpWatchdog_law (hQ : Law P Q) (hP : Has P [.all .lrp, .all .rpaUnit, .all .target, .grp 5, .grp 21, .grp 22, .grp 64, .damper, .dep, .mem, .poison, .procs, .rpa, .seq, .tokens]) {u : Nat} {s : State}   (h0 : Q s) :
    outAll Q (execRpWatchdog u s) := by
  unfold execRpWatchdog
  repeat' first
    | with_reducible assumption
    | ((with_reducible refine boolGoal ?_); exact rfl)
    | ((with_reducible refine hP.inst ?_); exact rfl)
    | ((with_reducible refine hP.one _ ?_); exact rfl)
    | with_reducible refine failUnit_law hQ (hP.sub rfl) ?_
    | with_reducible refine Law.ite ?_ ?_
    | with_reducible refine outOk ?_
    | with_reducible exact outFault
    | with_reducible refine outWithin ?_
    | with_reducible refine iteOut ?_ ?_
    | ((try lift_lets); (with_reducible intro y); (have hy : Q y := ?_); clear_value y; rotate_left; subst y)
    | ((try lift_lets); (with_reducible intro x); (try clear_value x))
    | split

theorem execPlannedRotation_law (hQ : Law P Q) (hP : Has P [.grp 21, .grp 22, .damper, .dep, .tokens]) {l : Nat} {inn : Nat} {s : State} (hi0 : P (.one .rpaUnit inn))  (h0 : Q s) :
    outAll Q (execPlannedRotation l inn s) := by
  unfold execPlannedRotation
  repeat' first
    | with_reducible assumption
    | ((with_reducible refine boolGoal ?_); exact rfl)
    | ((with_reducible refine hP.one _ ?_); exact rfl)
    | with_reducible refine setPend_law hQ (hP.sub rfl) ?_
    | with_reducible refine request_law hQ (hP.sub rfl) ?_
    | ((with_reducible refine hQ.wrAllAt hP hi0 ?_ ?_); simp only [List.all]; exact rfl)
    | ((with_reducible refine hQ.wrAll hP ?_ ?_); simp only [List.all]; exact rfl)
    | with_reducible refine setDep_law hQ (hP.sub rfl) ?_
    | with_reducible refine Law.ite ?_ ?_
    | with_reducible refine outOk ?_
    | with_reducible exact outFault
    | with_reducible refine outWithin ?_
    | with_reducible refine iteOut ?_ ?_
    | ((try lift_lets); (with_reducible intro y); (have hy : Q y := ?_); clear_value y; rotate_left; subst y)
    | ((try lift_lets); (with_reducible intro y); (have hy : Q y.1 := ?_); clear_value y; rotate_left; subst y)
    | ((try lift_lets); (with_reducible intro x); (try clear_value x))
    | split

theorem retireFrom_law (hQ : Law P Q) (hP : Has P [.all .lrp, .all .rpaUnit, .all .target, .grp 5, .grp 21, .grp 22, .grp 64, .damper, .dep, .mem, .poison, .rpa, .seq, .tokens]) {u : Nat} {s : State}   (h0 : Q s) :
    Q (retireFrom u s) := by
  unfold retireFrom
  repeat' first
    | with_reducible assumption
    | ((with_reducible refine boolGoal ?_); exact rfl)
    | ((with_reducible refine hP.inst ?_); exact rfl)
    | ((with_reducible refine hP.one _ ?_); exact rfl)
    | with_reducible refine release_law hQ (hP.sub rfl) ?_
    | with_reducible refine showPend_law hQ (hP.sub rfl) ?_
    | with_reducible refine hQ.wr hP ?_ ?_
    | with_reducible refine bindUnbound_law hQ (hP.sub rfl) ?_
    | with_reducible refine request_law hQ (hP.sub rfl) ?_
    | with_reducible refine setDep_law hQ (hP.sub rfl) ?_
    | with_reducible refine Law.ite ?_ ?_
    | ((try lift_lets); (with_reducible intro y); (have hy : Q y := ?_); clear_value y; rotate_left; subst y)
    | ((try lift_lets); (with_reducible intro y); (have hy : Q y.1 := ?_); clear_value y; rotate_left; subst y)
    | ((try lift_lets); (with_reducible intro x); (try clear_value x))
    | split

theorem execRotationHandover_law (hQ : Law P Q) (hP : Has P [.all .lrp, .all .rpaUnit, .all .target, .grp 5, .grp 21, .grp 22, .grp 64, .damper, .dep, .mem, .poison, .rpa, .seq, .tokens]) {l : Nat} {s : State}   (h0 : Q s) :
    outAll Q (execRotationHandover l s) := by
  unfold execRotationHandover
  repeat' first
    | with_reducible assumption
    | ((with_reducible refine boolGoal ?_); exact rfl)
    | ((with_reducible refine hP.inst ?_); exact rfl)
    | ((with_reducible refine hP.one _ ?_); exact rfl)
    | with_reducible refine hQ.setBytes ?_ ?_
    | with_reducible refine hQ.wr hP ?_ ?_
    | with_reducible refine endRotation_law hQ (hP.sub rfl) ?_
    | with_reducible refine hQ.sat hP ?_ ?_
    | with_reducible refine retireFrom_law hQ (hP.sub rfl) ?_
    | with_reducible refine showDue_law hQ (hP.sub rfl) ?_
    | with_reducible refine setDep_law hQ (hP.sub rfl) ?_
    | with_reducible refine Law.ite ?_ ?_
    | with_reducible refine outOk ?_
    | with_reducible exact outFault
    | with_reducible refine outWithin ?_
    | with_reducible refine iteOut ?_ ?_
    | with_reducible refine Law.foldl (fun _ _ _ => ?_) ?_
    | with_reducible refine Law.foldlBy Prod.snd (fun _ _ _ => ?_) ?_
    | with_reducible refine Law.foldlBy Prod.fst (fun _ _ _ => ?_) ?_
    | ((try lift_lets); (with_reducible intro y); (have hy : Q y := ?_); clear_value y; rotate_left; subst y)
    | ((try lift_lets); (with_reducible intro y); (have hy : Q y.1 := ?_); clear_value y; rotate_left; subst y)
    | ((try lift_lets); (with_reducible intro x); (try clear_value x))
    | split
    | dsimp only
    | with_reducible refine hQ.rpa ?_ ?_

theorem marchTest_law (hQ : Law P Q) (hP : Has P [.free, .mem, .procs]) {u : Nat} {s : State}   (h0 : Q s) :
    Q (marchTest u s) := by
  unfold marchTest
  repeat' first
    | with_reducible assumption
    | ((with_reducible refine boolGoal ?_); exact rfl)
    | ((with_reducible refine hP.one _ ?_); exact rfl)
    | with_reducible refine scramble_law hQ (hP.sub rfl) ?_
    | with_reducible refine fresh_law hQ (hP.sub rfl) ?_
    | with_reducible refine hQ.setBytes ?_ ?_
    | with_reducible refine setProc_law hQ (hP.sub rfl) ?_
    | with_reducible refine Law.foldl (fun _ _ _ => ?_) ?_
    | with_reducible refine Law.foldlBy Prod.snd (fun _ _ _ => ?_) ?_
    | with_reducible refine Law.foldlBy Prod.fst (fun _ _ _ => ?_) ?_
    | with_reducible refine optAll.map (fun _ => ?_)
    | ((try lift_lets); (with_reducible intro y); (have hy : Q y := ?_); clear_value y; rotate_left; subst y)
    | ((try lift_lets); (with_reducible intro y); (have hy : Q y.2 := ?_); clear_value y; rotate_left; subst y)
    | ((try lift_lets); (with_reducible intro y); (have hy : Q y.1 := ?_); clear_value y; rotate_left; subst y)
    | ((try lift_lets); (with_reducible intro x); (try clear_value x))
    | dsimp only
    | with_reducible refine hQ.free ?_ ?_

theorem loadImages_law (hQ : Law P Q) (hP : Has P [.mem]) {u : Nat} {s : State}   (h0 : Q s) :
    Q (loadImages u s) := by
  unfold loadImages
  repeat' first
    | with_reducible assumption
    | ((with_reducible refine boolGoal ?_); exact rfl)
    | ((with_reducible refine hP.one _ ?_); exact rfl)
    | with_reducible refine hQ.setBytes ?_ ?_
    | ((try lift_lets); (with_reducible intro y); (have hy : Q y := ?_); clear_value y; rotate_left; subst y)
    | ((try lift_lets); (with_reducible intro y); (have hy : Q y.1 := ?_); clear_value y; rotate_left; subst y)
    | ((try lift_lets); (with_reducible intro x); (try clear_value x))
    | split
    | dsimp only

theorem toBank_law (hQ : Law P Q) (hP : Has P [.all .lrp, .all .rpaUnit, .all .target, .grp 5, .grp 21, .grp 22, .grp 64, .damper, .dep, .mem, .poison, .rpa, .seq, .tokens]) {u : Nat} {s : State}   (h0 : Q s) :
    Q (toBank u s) := by
  unfold toBank
  repeat' first
    | with_reducible assumption
    | ((with_reducible refine boolGoal ?_); exact rfl)
    | ((with_reducible refine hP.inst ?_); exact rfl)
    | ((with_reducible refine hP.one _ ?_); exact rfl)
    | with_reducible refine loadImages_law hQ (hP.sub rfl) ?_
    | with_reducible refine release_law hQ (hP.sub rfl) ?_
    | with_reducible refine bindUnbound_law hQ (hP.sub rfl) ?_
    | with_reducible refine emit_law hQ (hP.sub rfl) ?_
    | with_reducible refine hQ.wr hP ?_ ?_
    | with_reducible refine Law.ite ?_ ?_
    | ((try lift_lets); (with_reducible intro y); (have hy : Q y := ?_); clear_value y; rotate_left; subst y)
    | ((try lift_lets); (with_reducible intro x); (try clear_value x))
    | split

theorem testFails_law (hQ : Law P Q) (hP : Has P [.grp 5, .grp 21, .damper, .dep, .tokens]) {u : Nat} {s : State} (hi0 : P (.one .rpaUnit u))  (h0 : Q s) :
    Q (testFails u s) := by
  unfold testFails
  repeat' first
    | with_reducible assumption
    | ((with_reducible refine boolGoal ?_); exact rfl)
    | ((with_reducible refine hP.one _ ?_); exact rfl)
    | ((with_reducible refine hQ.wrAllAt hP hi0 ?_ ?_); simp only [List.all]; exact rfl)
    | ((with_reducible refine hQ.wrAll hP ?_ ?_); simp only [List.all]; exact rfl)
    | ((with_reducible refine hQ.wrAt hP hi0 ?_ ?_); exact rfl)
    | with_reducible refine hQ.wr hP ?_ ?_
    | ((with_reducible refine hQ.wr2At hP hi0 ?_ ?_); exact rfl)
    | with_reducible refine hQ.wr2 hP ?_ ?_
    | with_reducible refine release_law hQ (hP.sub rfl) ?_
    | with_reducible refine emit_law hQ (hP.sub rfl) ?_
    | with_reducible refine setDep_law hQ (hP.sub rfl) ?_
    | with_reducible refine Law.ite ?_ ?_
    | ((try lift_lets); (with_reducible intro y); (have hy : Q y := ?_); clear_value y; rotate_left; subst y)
    | ((try lift_lets); (with_reducible intro y); (have hy : Q y.1 := ?_); clear_value y; rotate_left; subst y)
    | ((try lift_lets); (with_reducible intro x); (try clear_value x))
    | split

theorem judgeTest_law (hQ : Law P Q) (hP : Has P [.all .lrp, .all .rpaUnit, .all .target, .grp 5, .grp 21, .grp 22, .grp 64, .damper, .dep, .mem, .poison, .rpa, .seq, .tokens]) {u : Nat} {fail : Bool} {margin : Nat} {move : Nat} {s : State}   (h0 : Q s) :
    Q (judgeTest u fail margin move s) := by
  unfold judgeTest
  repeat' first
    | with_reducible assumption
    | ((with_reducible refine boolGoal ?_); exact rfl)
    | ((with_reducible refine hP.inst ?_); exact rfl)
    | ((with_reducible refine hP.one _ ?_); exact rfl)
    | with_reducible refine leaveRun_law hQ (hP.sub rfl) ?_
    | with_reducible refine testFails_law hQ (hP.sub rfl) ?_ ?_
    | ((with_reducible refine hQ.wrAll hP ?_ ?_); simp only [List.all]; exact rfl)
    | with_reducible refine setDep_law hQ (hP.sub rfl) ?_
    | with_reducible refine toBank_law hQ (hP.sub rfl) ?_
    | with_reducible refine Law.ite ?_ ?_
    | ((try lift_lets); (with_reducible intro y); (have hy : Q y := ?_); clear_value y; rotate_left; subst y)
    | ((try lift_lets); (with_reducible intro y); (have hy : Q y.1 := ?_); clear_value y; rotate_left; subst y)
    | ((try lift_lets); (with_reducible intro x); (try clear_value x))
    | split

theorem execSelfTest_law (hQ : Law P Q) (hP : Has P [.all .lrp, .all .rpaUnit, .all .target, .grp 5, .grp 21, .grp 22, .grp 64, .damper, .dep, .free, .mem, .poison, .procs, .rpa, .seq, .tokens]) {u : Nat} {found : TestFound} {margin : Nat} {move : Nat} {s : State}   (h0 : Q s) :
    outAll Q (execSelfTest u found margin move s) := by
  unfold execSelfTest
  repeat' first
    | with_reducible assumption
    | ((with_reducible refine boolGoal ?_); exact rfl)
    | ((with_reducible refine hP.inst ?_); exact rfl)
    | ((with_reducible refine hP.one _ ?_); exact rfl)
    | with_reducible refine judgeTest_law hQ (hP.sub rfl) ?_
    | with_reducible refine marchTest_law hQ (hP.sub rfl) ?_
    | with_reducible refine Law.ite ?_ ?_
    | with_reducible refine outOk ?_
    | with_reducible exact outFault
    | with_reducible refine outWithin ?_
    | with_reducible refine iteOut ?_ ?_
    | ((try lift_lets); (with_reducible intro y); (have hy : Q y := ?_); clear_value y; rotate_left; subst y)
    | ((try lift_lets); (with_reducible intro x); (try clear_value x))
    | split

theorem execSelfTestRetry_law (hQ : Law P Q) (hP : Has P [.grp 21, .damper, .dep, .tokens]) {u : Nat} {s : State}   (h0 : Q s) :
    outAll Q (execSelfTestRetry u s) := by
  unfold execSelfTestRetry
  repeat' first
    | with_reducible assumption
    | ((with_reducible refine boolGoal ?_); exact rfl)
    | ((with_reducible refine hP.one _ ?_); exact rfl)
    | with_reducible refine setDep_law hQ (hP.sub rfl) ?_
    | with_reducible refine request_law hQ (hP.sub rfl) ?_
    | with_reducible refine Law.ite ?_ ?_
    | with_reducible refine outOk ?_
    | with_reducible exact outFault
    | with_reducible refine outWithin ?_
    | with_reducible refine iteOut ?_ ?_
    | ((try lift_lets); (with_reducible intro y); (have hy : Q y := ?_); clear_value y; rotate_left; subst y)
    | ((try lift_lets); (with_reducible intro y); (have hy : Q y.1 := ?_); clear_value y; rotate_left; subst y)
    | ((try lift_lets); (with_reducible intro x); (try clear_value x))
    | split

theorem nameUnit_law (hQ : Law P Q) (hP : Has P [.grp 22, .dep, .tokens]) {u : Nat} {cause : Nat} {s : State} (hi0 : P (.one .rpaUnit u))  (h0 : Q s) :
    Q (nameUnit u cause s) := by
  unfold nameUnit
  repeat' first
    | with_reducible assumption
    | ((with_reducible refine boolGoal ?_); exact rfl)
    | ((with_reducible refine hP.one _ ?_); exact rfl)
    | ((with_reducible refine hQ.wrAt hP hi0 ?_ ?_); exact rfl)
    | with_reducible refine hQ.wr hP ?_ ?_
    | with_reducible refine showDue_law hQ (hP.sub rfl) ?_
    | with_reducible refine setDep_law hQ (hP.sub rfl) ?_
    | ((try lift_lets); (with_reducible intro y); (have hy : Q y := ?_); clear_value y; rotate_left; subst y)
    | ((try lift_lets); (with_reducible intro y); (have hy : Q y.1 := ?_); clear_value y; rotate_left; subst y)
    | ((try lift_lets); (with_reducible intro x); (try clear_value x))

theorem execCecntRateCheck_law (hQ : Law P Q) (hP : Has P [.grp 22, .grp 64, .dep, .tokens]) {u : Nat} {n : Nat} {s : State} (hi0 : P (.one .rpaUnit u))  (h0 : Q s) :
    outAll Q (execCecntRateCheck u n s) := by
  unfold execCecntRateCheck
  repeat' first
    | with_reducible assumption
    | ((with_reducible refine boolGoal ?_); exact rfl)
    | ((with_reducible refine hP.one _ ?_); exact rfl)
    | ((with_reducible refine hQ.satAt hP hi0 ?_ ?_); exact rfl)
    | with_reducible refine hQ.sat hP ?_ ?_
    | with_reducible refine nameUnit_law hQ (hP.sub rfl) ?_ ?_
    | with_reducible refine evt_law hQ (hP.sub rfl) ?_
    | with_reducible refine emit_law hQ (hP.sub rfl) ?_
    | with_reducible refine Law.ite ?_ ?_
    | with_reducible refine outOk ?_
    | with_reducible exact outFault
    | with_reducible refine outWithin ?_
    | with_reducible refine iteOut ?_ ?_
    | ((try lift_lets); (with_reducible intro y); (have hy : Q y := ?_); clear_value y; rotate_left; subst y)
    | ((try lift_lets); (with_reducible intro y); (have hy : Q y.1 := ?_); clear_value y; rotate_left; subst y)
    | ((try lift_lets); (with_reducible intro x); (try clear_value x))
    | split

theorem execCanaryMarginLow_law (hQ : Law P Q) (hP : Has P [.grp 22, .dep, .tokens]) {u : Nat} {margin : Nat} {s : State} (hi0 : P (.one .rpaUnit u))  (h0 : Q s) :
    outAll Q (execCanaryMarginLow u margin s) := by
  unfold execCanaryMarginLow
  repeat' first
    | with_reducible assumption
    | ((with_reducible refine boolGoal ?_); exact rfl)
    | ((with_reducible refine hP.one _ ?_); exact rfl)
    | with_reducible refine nameUnit_law hQ (hP.sub rfl) ?_ ?_
    | with_reducible refine emit_law hQ (hP.sub rfl) ?_
    | with_reducible refine Law.ite ?_ ?_
    | with_reducible refine outOk ?_
    | with_reducible exact outFault
    | with_reducible refine outWithin ?_
    | with_reducible refine iteOut ?_ ?_
    | ((try lift_lets); (with_reducible intro y); (have hy : Q y := ?_); clear_value y; rotate_left; subst y)
    | ((try lift_lets); (with_reducible intro x); (try clear_value x))
    | split

theorem execCalRun_law (hQ : Law P Q) (hP : Has P [.grp 0, .grp 64, .dep, .procs, .sampled, .seq, .tokens]) {x : XWord} {s : State}   (h0 : Q s) :
    outAll Q (execCalRun x s) := by
  unfold execCalRun
  repeat' first
    | with_reducible assumption
    | ((with_reducible refine boolGoal ?_); exact rfl)
    | ((with_reducible refine hP.one _ ?_); exact rfl)
    | with_reducible refine xop_law hQ (hP.sub rfl) (fun _ => ?_) ?_
    | with_reducible refine setDep_law hQ (hP.sub rfl) ?_
    | with_reducible refine resFin ?_
    | with_reducible refine resNo ?_
    | with_reducible refine resStart ?_
    | with_reducible refine resForm ?_
    | with_reducible refine resGone ?_
    | with_reducible refine resHold ?_
    | with_reducible refine iteRes ?_ ?_
    | with_reducible refine outOk ?_
    | with_reducible exact outFault
    | with_reducible refine outWithin ?_
    | with_reducible refine iteOut ?_ ?_
    | ((try lift_lets); (with_reducible intro y); (have hy : Q y := ?_); clear_value y; rotate_left; subst y)
    | ((try lift_lets); (with_reducible intro y); (have hy : Q y.1 := ?_); clear_value y; rotate_left; subst y)
    | ((try lift_lets); (with_reducible intro x); (try clear_value x))
    | split
    | dsimp only

theorem execCalCfg_law (hQ : Law P Q) (hP : Has P [.grp 0, .grp 22, .grp 64, .procs, .sampled, .seq, .tokens]) {x : XWord} {s : State}   (h0 : Q s) :
    outAll Q (execCalCfg x s) := by
  unfold execCalCfg
  repeat' first
    | with_reducible assumption
    | ((with_reducible refine boolGoal ?_); exact rfl)
    | ((with_reducible refine hP.one _ ?_); exact rfl)
    | with_reducible refine xop_law hQ (hP.sub rfl) (fun _ => ?_) ?_
    | with_reducible refine showDue_law hQ (hP.sub rfl) ?_
    | ((with_reducible refine hQ.setFrom hP ?_ ?_); simp only [List.all]; exact rfl)
    | with_reducible refine Law.ite ?_ ?_
    | with_reducible refine resFin ?_
    | with_reducible refine resNo ?_
    | with_reducible refine resStart ?_
    | with_reducible refine resForm ?_
    | with_reducible refine resGone ?_
    | with_reducible refine resHold ?_
    | with_reducible refine iteRes ?_ ?_
    | with_reducible refine outOk ?_
    | with_reducible exact outFault
    | with_reducible refine outWithin ?_
    | with_reducible refine iteOut ?_ ?_
    | ((try lift_lets); (with_reducible intro y); (have hy : Q y := ?_); clear_value y; rotate_left; subst y)
    | ((try lift_lets); (with_reducible intro x); (try clear_value x))
    | split

theorem execCalLimits_law (hQ : Law P Q) (hP : Has P [.grp 0, .grp 22, .grp 64, .procs, .sampled, .seq, .tokens]) {x : XWord} {s : State}   (h0 : Q s) :
    outAll Q (execCalLimits x s) := by
  unfold execCalLimits
  repeat' first
    | with_reducible assumption
    | ((with_reducible refine boolGoal ?_); exact rfl)
    | ((with_reducible refine hP.one _ ?_); exact rfl)
    | ((with_reducible refine blockOp_law hQ (hP.sub rfl) hP ?_ (fun _ _ => ?_) ?_); (simp only [List.all]; exact rfl))
    | with_reducible refine excPair ?_
    | with_reducible refine excState ?_
    | with_reducible exact excError
    | with_reducible refine iteExc ?_ ?_
    | with_reducible refine outOk ?_
    | with_reducible exact outFault
    | with_reducible refine outWithin ?_
    | with_reducible refine iteOut ?_ ?_
    | ((try lift_lets); (with_reducible intro x); (try clear_value x))

theorem applyEyes_law (hQ : Law P Q) (hP : Has P []) {c : Nat} {eyes : List Nat} {s : State} (hi0 : P (.one .dmc c))  (h0 : Q s) :
    Q (applyEyes c eyes s) := by
  unfold applyEyes
  repeat' first
    | with_reducible assumption
    | ((with_reducible refine boolGoal ?_); exact rfl)
    | ((with_reducible refine hP.one _ ?_); exact rfl)
    | ((with_reducible refine hQ.wr2At hP hi0 ?_ ?_); exact rfl)
    | with_reducible refine hQ.wr2 hP ?_ ?_
    | ((with_reducible refine hQ.wrAt hP hi0 ?_ ?_); exact rfl)
    | with_reducible refine hQ.wr hP ?_ ?_
    | with_reducible refine Law.foldl (fun _ _ _ => ?_) ?_
    | with_reducible refine Law.foldlBy Prod.snd (fun _ _ _ => ?_) ?_
    | with_reducible refine Law.foldlBy Prod.fst (fun _ _ _ => ?_) ?_
    | ((try lift_lets); (with_reducible intro y); (have hy : Q y := ?_); clear_value y; rotate_left; subst y)
    | ((try lift_lets); (with_reducible intro y); (have hy : Q y.2 := ?_); clear_value y; rotate_left; subst y)
    | ((try lift_lets); (with_reducible intro y); (have hy : Q y.1 := ?_); clear_value y; rotate_left; subst y)
    | ((try lift_lets); (with_reducible intro x); (try clear_value x))
    | dsimp only

theorem pauseChannel_law (hQ : Law P Q) (hP : Has P [.grp 64]) {c : Nat} {s : State} (hi0 : P (.one .dmc c))  (h0 : Q s) :
    Q (pauseChannel c s) := by
  unfold pauseChannel
  repeat' first
    | with_reducible assumption
    | ((with_reducible refine boolGoal ?_); exact rfl)
    | ((with_reducible refine hP.one _ ?_); exact rfl)
    | ((with_reducible refine hQ.satAt hP hi0 ?_ ?_); exact rfl)
    | with_reducible refine hQ.sat hP ?_ ?_
    | with_reducible refine evt_law hQ (hP.sub rfl) ?_

theorem execPeriodicRetrain_law (hQ : Law P Q) (hP : Has P [.grp 64]) {c : Nat} {eyes : List Nat} {shift : Nat} {s : State} (hi0 : P (.one .dmc c))  (h0 : Q s) :
    outAll Q (execPeriodicRetrain c eyes shift s) := by
  unfold execPeriodicRetrain
  repeat' first
    | with_reducible assumption
    | ((with_reducible refine boolGoal ?_); exact rfl)
    | ((with_reducible refine hP.one _ ?_); exact rfl)
    | with_reducible refine pauseChannel_law hQ (hP.sub rfl) ?_ ?_
    | with_reducible refine applyEyes_law hQ (hP.sub rfl) ?_ ?_
    | with_reducible refine Law.ite ?_ ?_
    | with_reducible refine outOk ?_
    | with_reducible exact outFault
    | with_reducible refine outWithin ?_
    | with_reducible refine iteOut ?_ ?_
    | ((try lift_lets); (with_reducible intro y); (have hy : Q y := ?_); clear_value y; rotate_left; subst y)
    | ((try lift_lets); (with_reducible intro x); (try clear_value x))
    | split

theorem calDram_law (hQ : Law P Q) (hP : Has P [.all .dmc, .all .target, .grp 22, .grp 64, .tokens]) {shift : Nat} {figs : List Int} {s : State}   (h0 : Q s) :
    Q (calDram shift figs s) := by
  unfold calDram
  repeat' first
    | with_reducible assumption
    | ((with_reducible refine boolGoal ?_); exact rfl)
    | ((with_reducible refine hP.inst ?_); exact rfl)
    | ((with_reducible refine hP.one _ ?_); exact rfl)
    | with_reducible refine pauseChannel_law hQ (hP.sub rfl) ?_ ?_
    | with_reducible refine calFinish_law hQ (hP.sub rfl) ?_ ?_
    | with_reducible refine applyEyes_law hQ (hP.sub rfl) ?_ ?_
    | with_reducible refine Law.ite ?_ ?_
    | with_reducible refine Law.foldl (fun _ _ _ => ?_) ?_
    | with_reducible refine Law.foldlBy Prod.snd (fun _ _ _ => ?_) ?_
    | with_reducible refine Law.foldlBy Prod.fst (fun _ _ _ => ?_) ?_
    | ((try lift_lets); (with_reducible intro y); (have hy : Q y := ?_); clear_value y; rotate_left; subst y)
    | ((try lift_lets); (with_reducible intro x); (try clear_value x))
    | split

theorem calSensors_law (hQ : Law P Q) (hP : Has P [.all .sensor, .all .target, .grp 22, .grp 64, .tokens]) {figs : List Int} {s : State}   (h0 : Q s) :
    Q (calSensors figs s) := by
  unfold calSensors
  repeat' first
    | with_reducible assumption
    | ((with_reducible refine boolGoal ?_); exact rfl)
    | ((with_reducible refine hP.inst ?_); exact rfl)
    | ((with_reducible refine hP.one _ ?_); exact rfl)
    | with_reducible refine hQ.wrI hP ?_ ?_
    | with_reducible refine hQ.wr hP ?_ ?_
    | with_reducible refine calFinish_law hQ (hP.sub rfl) ?_ ?_
    | with_reducible refine showDue_law hQ (hP.sub rfl) ?_
    | with_reducible refine showMean_law hQ (hP.sub rfl) ?_
    | with_reducible refine Law.ite ?_ ?_
    | with_reducible refine Law.foldl (fun _ _ _ => ?_) ?_
    | with_reducible refine Law.foldlBy Prod.snd (fun _ _ _ => ?_) ?_
    | with_reducible refine Law.foldlBy Prod.fst (fun _ _ _ => ?_) ?_
    | with_reducible refine optAll.getD ?_ ?_
    | with_reducible refine optAll.map (fun _ => ?_)
    | ((try lift_lets); (with_reducible intro y); (have hy : Q y := ?_); clear_value y; rotate_left; subst y)
    | ((try lift_lets); (with_reducible intro y); (have hy : Q y.2 := ?_); clear_value y; rotate_left; subst y)
    | ((try lift_lets); (with_reducible intro y); (have hy : Q y.1 := ?_); clear_value y; rotate_left; subst y)
    | ((try lift_lets); (with_reducible intro x); (try clear_value x))
    | split
    | dsimp only

theorem startTrims_law (hQ : Law P Q) (hP : Has P [.grp 21, .grp 22, .damper, .dep, .tokens]) {u : Nat} {s : State} (hi0 : P (.one .rpaUnit u))  (h0 : Q s) :
    Q (startTrims u s) := by
  unfold startTrims
  repeat' first
    | with_reducible assumption
    | ((with_reducible refine boolGoal ?_); exact rfl)
    | ((with_reducible refine hP.one _ ?_); exact rfl)
    | with_reducible refine setPend_law hQ (hP.sub rfl) ?_
    | ((with_reducible refine hQ.wrAt hP hi0 ?_ ?_); exact rfl)
    | with_reducible refine hQ.wr hP ?_ ?_
    | with_reducible refine setDep_law hQ (hP.sub rfl) ?_
    | with_reducible refine request_law hQ (hP.sub rfl) ?_
    | with_reducible refine Law.ite ?_ ?_
    | with_reducible refine optAll.map (fun _ => ?_)
    | ((try lift_lets); (with_reducible intro y); (have hy : Q y := ?_); clear_value y; rotate_left; subst y)
    | ((try lift_lets); (with_reducible intro y); (have hy : Q y.1 := ?_); clear_value y; rotate_left; subst y)
    | ((try lift_lets); (with_reducible intro x); (try clear_value x))
    | split

theorem calLanes_law (hQ : Law P Q) (hP : Has P [.all .lane, .all .target, .grp 22, .grp 64, .lanes, .tokens]) {figs : List Int} {s : State}   (h0 : Q s) :
    Q (calLanes figs s) := by
  unfold calLanes
  repeat' first
    | with_reducible assumption
    | ((with_reducible refine boolGoal ?_); exact rfl)
    | ((with_reducible refine hP.inst ?_); exact rfl)
    | ((with_reducible refine hP.one _ ?_); exact rfl)
    | with_reducible refine eyeFigures_law hQ (hP.sub rfl) ?_ ?_
    | with_reducible refine calFinish_law hQ (hP.sub rfl) ?_ ?_
    | with_reducible refine setLane_law hQ (hP.sub rfl) ?_
    | with_reducible refine Law.ite ?_ ?_
    | with_reducible refine Law.foldl (fun _ _ _ => ?_) ?_
    | with_reducible refine Law.foldlBy Prod.snd (fun _ _ _ => ?_) ?_
    | with_reducible refine Law.foldlBy Prod.fst (fun _ _ _ => ?_) ?_
    | with_reducible refine optAll.getD ?_ ?_
    | ((try lift_lets); (with_reducible intro y); (have hy : Q y := ?_); clear_value y; rotate_left; subst y)
    | ((try lift_lets); (with_reducible intro y); (have hy : Q y.1 := ?_); clear_value y; rotate_left; subst y)
    | ((try lift_lets); (with_reducible intro x); (try clear_value x))
    | split

theorem execCalTargetRun_law (hQ : Law P Q) (hP : Has P [.all .dmc, .all .lane, .all .sensor, .all .target, .grp 21, .grp 22, .grp 64, .damper, .dep, .lanes, .seq, .tokens]) {t : Nat} {q : Nat} {shift : Nat} {fine : Bool} {figs : List Int} {unit : Nat} {s : State} (hi0 : P (.one .rpaUnit unit))  (h0 : Q s) :
    outAll Q (execCalTargetRun t q shift fine figs unit s) := by
  unfold execCalTargetRun
  repeat' first
    | with_reducible assumption
    | ((with_reducible refine boolGoal ?_); exact rfl)
    | ((with_reducible refine hP.inst ?_); exact rfl)
    | ((with_reducible refine hP.one _ ?_); exact rfl)
    | with_reducible refine metTarget_law hQ (hP.sub rfl) ?_
    | with_reducible refine calLanes_law hQ (hP.sub rfl) ?_
    | with_reducible refine calDram_law hQ (hP.sub rfl) ?_
    | with_reducible refine startTrims_law hQ (hP.sub rfl) ?_ ?_
    | with_reducible refine calFinish_law hQ (hP.sub rfl) ?_ ?_
    | with_reducible refine calSensors_law hQ (hP.sub rfl) ?_
    | with_reducible refine Law.ite ?_ ?_
    | with_reducible refine outOk ?_
    | with_reducible exact outFault
    | with_reducible refine outWithin ?_
    | with_reducible refine iteOut ?_ ?_
    | ((try lift_lets); (with_reducible intro y); (have hy : Q y := ?_); clear_value y; rotate_left; subst y)
    | ((try lift_lets); (with_reducible intro x); (try clear_value x))
    | split
    | dsimp only

theorem rpaDepCnt_law (hQ : Law P Q) (hP : Has P [.grp 5]) {s : State}   (h0 : Q s) :
    Q (rpaDepCnt s) := by
  unfold rpaDepCnt
  repeat' first
    | with_reducible assumption
    | ((with_reducible refine boolGoal ?_); exact rfl)
    | ((with_reducible refine hP.one _ ?_); exact rfl)
    | ((with_reducible refine hQ.clr hP ?_ ?_); simp only [List.all]; exact rfl)

theorem rpaUnitCnt_law (hQ : Law P Q) (hP : Has P []) {u : Nat} {s : State} (hi0 : P (.one .rpaUnit u))  (h0 : Q s) :
    Q (rpaUnitCnt u s) := by
  unfold rpaUnitCnt
  repeat' first
    | with_reducible assumption
    | ((with_reducible refine boolGoal ?_); exact rfl)
    | ((with_reducible refine hP.one _ ?_); exact rfl)
    | ((with_reducible refine hQ.clrAt hP hi0 ?_ ?_); simp only [List.all]; exact rfl)
    | ((with_reducible refine hQ.clr hP ?_ ?_); simp only [List.all]; exact rfl)

theorem calCnt_law (hQ : Law P Q) (hP : Has P [.grp 22]) {s : State}   (h0 : Q s) :
    Q (calCnt s) := by
  unfold calCnt
  repeat' first
    | with_reducible assumption
    | ((with_reducible refine boolGoal ?_); exact rfl)
    | ((with_reducible refine hP.one _ ?_); exact rfl)
    | ((with_reducible refine hQ.clr hP ?_ ?_); simp only [List.all]; exact rfl)

end Sys2Proof.Machine
end

