-- ==== Sys2Proof/Laws/Sump.lean ====
section
/-!
SUPPORT. What each function of Machine/Sump.lean can change: every law of the parts it names survives it.
-/
namespace Sys2Proof.Machine

variable {P : Part → Prop} {Q : State → Prop}

theorem execSumpNoteReceive_law (hQ : Law P Q) (hP : Has P [.grp 9, .malformed, .sump]) {a : Word} {b : Word} {c : Word} {d : Word} {n : Nat} {s : State}   (h0 : Q s) :
    outAll Q (execSumpNoteReceive a b c d n s) := by
  unfold execSumpNoteReceive
  repeat' first
    | with_reducible assumption
    | ((with_reducible refine boolGoal ?_); exact rfl)
    | ((with_reducible refine hP.one _ ?_); exact rfl)
    | with_reducible refine discard_law hQ (hP.sub rfl) ?_
    | with_reducible refine takeNote_law hQ (hP.sub rfl) ?_
    | with_reducible refine Law.ite ?_ ?_
    | with_reducible refine outOk ?_
    | with_reducible exact outFault
    | with_reducible refine outWithin ?_
    | with_reducible refine iteOut ?_ ?_
    | ((try lift_lets); (with_reducible intro y); (have hy : Q y := ?_); clear_value y; rotate_left; subst y)
    | ((try lift_lets); (with_reducible intro y); (have hy : Q y.1 := ?_); clear_value y; rotate_left; subst y)
    | ((try lift_lets); (with_reducible intro x); (try clear_value x))
    | split

theorem execSumpSpanClose_law (hQ : Law P Q) (hP : Has P [.sump]) {n : Nat} {s : State}   (h0 : Q s) :
    outAll Q (execSumpSpanClose n s) := by
  unfold execSumpSpanClose
  repeat' first
    | with_reducible assumption
    | ((with_reducible refine boolGoal ?_); exact rfl)
    | ((with_reducible refine hP.one _ ?_); exact rfl)
    | with_reducible refine setSpan_law hQ (hP.sub rfl) ?_
    | with_reducible refine Law.ite ?_ ?_
    | with_reducible refine outOk ?_
    | with_reducible exact outFault
    | with_reducible refine outWithin ?_
    | with_reducible refine iteOut ?_ ?_
    | ((try lift_lets); (with_reducible intro y); (have hy : Q y := ?_); clear_value y; rotate_left; subst y)
    | ((try lift_lets); (with_reducible intro y); (have hy : Q y.1 := ?_); clear_value y; rotate_left; subst y)
    | ((try lift_lets); (with_reducible intro x); (try clear_value x))
    | split

theorem hifTakesSpan_law (hQ : Law P Q) (hP : Has P [.grp 64, .grp 65, .hif, .mem, .poison, .sump]) {n : Nat} {s : State}   (h0 : Q s) :
    Q (hifTakesSpan n s) := by
  unfold hifTakesSpan
  repeat' first
    | with_reducible assumption
    | ((with_reducible refine boolGoal ?_); exact rfl)
    | ((with_reducible refine hP.one _ ?_); exact rfl)
    | with_reducible refine dropSpan_law hQ (hP.sub rfl) ?_
    | with_reducible refine putCompletion_law hQ (hP.sub rfl) ?_
    | with_reducible refine Law.ite ?_ ?_
    | ((try lift_lets); (with_reducible intro y); (have hy : Q y := ?_); clear_value y; rotate_left; subst y)
    | ((try lift_lets); (with_reducible intro y); (have hy : Q y.1 := ?_); clear_value y; rotate_left; subst y)
    | ((try lift_lets); (with_reducible intro x); (try clear_value x))
    | split

theorem hifTakesTotal_law (hQ : Law P Q) (hP : Has P [.grp 9, .grp 64, .grp 65, .hif, .mem, .poison]) {s : State}   (h0 : Q s) :
    Q (hifTakesTotal s) := by
  unfold hifTakesTotal
  repeat' first
    | with_reducible assumption
    | ((with_reducible refine boolGoal ?_); exact rfl)
    | ((with_reducible refine hP.one _ ?_); exact rfl)
    | with_reducible refine clearTotal_law hQ (hP.sub rfl) ?_
    | with_reducible refine putCompletion_law hQ (hP.sub rfl) ?_
    | with_reducible refine Law.ite ?_ ?_
    | split

theorem execSumpSpanDeliver_law (hQ : Law P Q) (hP : Has P [.all .stream, .all .wlkPort, .grp 9, .grp 17, .grp 64, .grp 65, .dlg, .hif, .mem, .poison, .sent, .sump, .tokens]) {n : Nat} {s : State}   (h0 : Q s) :
    outAll Q (execSumpSpanDeliver n s) := by
  unfold execSumpSpanDeliver
  repeat' first
    | with_reducible assumption
    | ((with_reducible refine boolGoal ?_); exact rfl)
    | ((with_reducible refine hP.inst ?_); exact rfl)
    | ((with_reducible refine hP.one _ ?_); exact rfl)
    | with_reducible refine dlgTakesSpan_law hQ (hP.sub rfl) ?_
    | with_reducible refine ovsTakesSpan_law hQ (hP.sub rfl) ?_
    | with_reducible refine hifTakesSpan_law hQ (hP.sub rfl) ?_
    | with_reducible refine Law.ite ?_ ?_
    | with_reducible refine outOk ?_
    | with_reducible exact outFault
    | with_reducible refine outWithin ?_
    | with_reducible refine iteOut ?_ ?_
    | ((try lift_lets); (with_reducible intro y); (have hy : Q y := ?_); clear_value y; rotate_left; subst y)
    | ((try lift_lets); (with_reducible intro y); (have hy : Q y.1 := ?_); clear_value y; rotate_left; subst y)
    | ((try lift_lets); (with_reducible intro x); (try clear_value x))
    | split

theorem execTotaliserReport_law (hQ : Law P Q) (hP : Has P [.all .stream, .all .wlkPort, .grp 9, .grp 17, .grp 64, .grp 65, .dlg, .hif, .mem, .poison, .sent, .tokens]) {k : Nat} {s : State}   (h0 : Q s) :
    outAll Q (execTotaliserReport k s) := by
  unfold execTotaliserReport
  repeat' first
    | with_reducible assumption
    | ((with_reducible refine boolGoal ?_); exact rfl)
    | ((with_reducible refine hP.inst ?_); exact rfl)
    | ((with_reducible refine hP.one _ ?_); exact rfl)
    | with_reducible refine dlgTakesTotal_law hQ (hP.sub rfl) ?_
    | with_reducible refine ovsTakesTotal_law hQ (hP.sub rfl) ?_
    | with_reducible refine hifTakesTotal_law hQ (hP.sub rfl) ?_
    | with_reducible refine Law.ite ?_ ?_
    | with_reducible refine outOk ?_
    | with_reducible exact outFault
    | with_reducible refine outWithin ?_
    | with_reducible refine iteOut ?_ ?_
    | ((try lift_lets); (with_reducible intro y); (have hy : Q y := ?_); clear_value y; rotate_left; subst y)
    | ((try lift_lets); (with_reducible intro x); (try clear_value x))
    | split

end Sys2Proof.Machine
end

