-- ==== Sys2Proof/Laws/TwoWire.lean ====
section
/-!
SUPPORT. What each function of Machine/TwoWire.lean can change: every law of the parts it names survives it.
-/
namespace Sys2Proof.Machine

variable {P : Part → Prop} {Q : State → Prop}

theorem twCause_law (hQ : Law P Q) (hP : Has P [.tokens]) {p : Nat} {k : Nat} {s : State} (hi0 : P (.one .twPort p))  (h0 : Q s) :
    Q (twCause p k s) := by
  unfold twCause
  repeat' first
    | with_reducible assumption
    | ((with_reducible refine boolGoal ?_); exact rfl)
    | ((with_reducible refine hP.one _ ?_); exact rfl)
    | ((with_reducible refine hQ.wrAt hP hi0 ?_ ?_); exact rfl)
    | with_reducible refine hQ.wr hP ?_ ?_
    | with_reducible refine emit_law hQ (hP.sub rfl) ?_
    | with_reducible refine Law.ite ?_ ?_
    | ((try lift_lets); (with_reducible intro y); (have hy : Q y := ?_); clear_value y; rotate_left; subst y)
    | ((try lift_lets); (with_reducible intro x); (try clear_value x))
    | split

theorem recoveryFails_law (hQ : Law P Q) (hP : Has P [.tokens]) {p : Nat} {s : State} (hi0 : P (.one .twPort p))  (h0 : Q s) :
    Q (recoveryFails p s) := by
  unfold recoveryFails
  repeat' first
    | with_reducible assumption
    | ((with_reducible refine boolGoal ?_); exact rfl)
    | ((with_reducible refine hP.one _ ?_); exact rfl)
    | with_reducible refine twCause_law hQ (hP.sub rfl) ?_ ?_
    | ((with_reducible refine hQ.satAt hP hi0 ?_ ?_); exact rfl)
    | with_reducible refine hQ.sat hP ?_ ?_

theorem regFails_law (hQ : Law P Q) (hP : Has P [.grp 21, .power]) {s : State}   (h0 : Q s) :
    Q (regFails s) := by
  unfold regFails
  repeat' first
    | with_reducible assumption
    | ((with_reducible refine boolGoal ?_); exact rfl)
    | ((with_reducible refine hP.one _ ?_); exact rfl)
    | with_reducible refine hQ.wr hP ?_ ?_
    | ((try lift_lets); (with_reducible intro y); (have hy : Q y := ?_); clear_value y; rotate_left; subst y)
    | ((try lift_lets); (with_reducible intro x); (try clear_value x))
    | with_reducible refine hQ.power ?_ ?_

theorem regResult_law (hQ : Law P Q) (hP : Has P [.grp 21, .power]) {k : TwKind} {res : Nat} {data : List Byte} {s : State}   (h0 : Q s) :
    Q (regResult k res data s) := by
  unfold regResult
  repeat' first
    | with_reducible assumption
    | ((with_reducible refine boolGoal ?_); exact rfl)
    | ((with_reducible refine hP.one _ ?_); exact rfl)
    | with_reducible refine regFails_law hQ (hP.sub rfl) ?_
    | with_reducible refine hQ.wr hP ?_ ?_
    | with_reducible refine Law.ite ?_ ?_
    | ((try lift_lets); (with_reducible intro y); (have hy : Q y := ?_); clear_value y; rotate_left; subst y)
    | ((try lift_lets); (with_reducible intro x); (try clear_value x))
    | split
    | dsimp only
    | with_reducible refine hQ.power ?_ ?_

theorem writeResults_law (hQ : Law P Q) (hP : Has P [.mem, .poison]) {addr : Nat} {ws : List Word} {res : Nat} {nack : Nat} {losses : Nat} {data : List Byte} {s : State}   (h0 : Q s) :
    Q (writeResults addr ws res nack losses data s) := by
  unfold writeResults
  repeat' first
    | with_reducible assumption
    | ((with_reducible refine boolGoal ?_); exact rfl)
    | ((with_reducible refine hP.one _ ?_); exact rfl)
    | with_reducible refine fill_law hQ (hP.sub rfl) ?_
    | with_reducible refine write64_law hQ (hP.sub rfl) ?_
    | with_reducible refine Law.ite ?_ ?_
    | with_reducible refine optAll.getD ?_ ?_
    | ((try lift_lets); (with_reducible intro y); (have hy : Q y := ?_); clear_value y; rotate_left; subst y)
    | ((try lift_lets); (with_reducible intro x); (try clear_value x))
    | split

theorem endTx_law (hQ : Law P Q) (hP : Has P [.grp 21, .grp 64, .mem, .poison, .power, .seq, .tokens, .tw]) {p : Nat} {res : Nat} {nack : Nat} {data : List Byte} {s : State} (hi0 : P (.one .twPort p))  (h0 : Q s) :
    Q (endTx p res nack data s) := by
  unfold endTx
  repeat' first
    | with_reducible assumption
    | ((with_reducible refine boolGoal ?_); exact rfl)
    | ((with_reducible refine hP.one _ ?_); exact rfl)
    | with_reducible refine setTw_law hQ (hP.sub rfl) ?_
    | ((with_reducible refine hQ.wrapAt hP hi0 ?_ ?_); exact rfl)
    | with_reducible refine hQ.wrap hP ?_ ?_
    | ((with_reducible refine hQ.satAt hP hi0 ?_ ?_); exact rfl)
    | with_reducible refine hQ.sat hP ?_ ?_
    | with_reducible refine writeResults_law hQ (hP.sub rfl) ?_
    | with_reducible refine regResult_law hQ (hP.sub rfl) ?_
    | with_reducible refine evt_law hQ (hP.sub rfl) ?_
    | with_reducible refine emit_law hQ (hP.sub rfl) ?_
    | with_reducible refine complete_law hQ (hP.sub rfl) ?_
    | ((try lift_lets); (with_reducible intro y); (have hy : Q y := ?_); clear_value y; rotate_left; subst y)
    | ((try lift_lets); (with_reducible intro y); (have hy : Q y.1 := ?_); clear_value y; rotate_left; subst y)
    | ((try lift_lets); (with_reducible intro x); (try clear_value x))
    | split
    | dsimp only

theorem drainStuck_law (hQ : Law P Q) (hP : Has P [.all .twPort, .grp 21, .grp 64, .mem, .poison, .power, .seq, .tokens, .tw]) {p : Nat} {x0 : Nat}   {s : State} (h0 : Q s) :
    Q (drainStuck p x0 s) := by
  induction x0 generalizing p s with
  | zero =>
    unfold drainStuck
    repeat' first
      | with_reducible assumption
      | ((with_reducible refine boolGoal ?_); exact rfl)
      | ((with_reducible refine hP.inst ?_); exact rfl)
      | ((with_reducible refine hP.one _ ?_); exact rfl)
      | with_reducible refine endTx_law hQ (hP.sub rfl) ?_ ?_
      | with_reducible refine Law.ite ?_ ?_
      | split
  | succ n ih =>
    unfold drainStuck
    repeat' first
      | with_reducible assumption
      | with_reducible apply ih
      | ((with_reducible refine boolGoal ?_); exact rfl)
      | ((with_reducible refine hP.inst ?_); exact rfl)
      | ((with_reducible refine hP.one _ ?_); exact rfl)
      | with_reducible refine endTx_law hQ (hP.sub rfl) ?_ ?_
      | with_reducible refine Law.ite ?_ ?_
      | split

theorem settleStuck_law (hQ : Law P Q) (hP : Has P [.all .twPort, .grp 21, .grp 64, .mem, .poison, .power, .seq, .tokens, .tw]) {p : Nat} {s : State}   (h0 : Q s) :
    Q (settleStuck p s) := by
  unfold settleStuck
  repeat' first
    | with_reducible assumption
    | ((with_reducible refine boolGoal ?_); exact rfl)
    | ((with_reducible refine hP.inst ?_); exact rfl)
    | ((with_reducible refine hP.one _ ?_); exact rfl)
    | with_reducible refine drainStuck_law hQ (hP.sub rfl) ?_

theorem execTwpCfg_law (hQ : Law P Q) (hP : Has P [.grp 0, .grp 64, .procs, .sampled, .seq, .tokens]) {x : XWord} {s : State} (hi0 : P (.one .twPort (xargs s x).i))  (h0 : Q s) :
    outAll Q (execTwpCfg x s) := by
  unfold execTwpCfg
  repeat' first
    | with_reducible assumption
    | ((with_reducible refine boolGoal ?_); exact rfl)
    | ((with_reducible refine hP.one _ ?_); exact rfl)
    | ((with_reducible refine blockOpAt_law hQ (hP.sub rfl) hP hi0 ?_ (fun _ _ => ?_) ?_); (simp only [List.all]; exact rfl))
    | ((with_reducible refine blockOp_law hQ (hP.sub rfl) hP ?_ (fun _ _ => ?_) ?_); (simp only [List.all]; exact rfl))
    | with_reducible refine Law.ite ?_ ?_
    | with_reducible refine excPair ?_
    | with_reducible refine excState ?_
    | with_reducible exact excError
    | with_reducible refine iteExc ?_ ?_
    | with_reducible refine outOk ?_
    | with_reducible exact outFault
    | with_reducible refine outWithin ?_
    | with_reducible refine iteOut ?_ ?_
    | ((try lift_lets); (with_reducible intro x); (try clear_value x))
    | split

theorem execTwpXfer_law (hQ : Law P Q) (hP : Has P [.all .twPort, .grp 0, .grp 21, .grp 64, .mem, .poison, .power, .procs, .sampled, .seq, .tokens, .tw]) {x : XWord} {s : State}   (h0 : Q s) :
    outAll Q (execTwpXfer x s) := by
  unfold execTwpXfer
  repeat' first
    | with_reducible assumption
    | ((with_reducible refine boolGoal ?_); exact rfl)
    | ((with_reducible refine hP.inst ?_); exact rfl)
    | ((with_reducible refine hP.one _ ?_); exact rfl)
    | with_reducible refine xop_law hQ (hP.sub rfl) (fun _ => ?_) ?_
    | with_reducible refine setTw_law hQ (hP.sub rfl) ?_
    | with_reducible refine settleStuck_law hQ (hP.sub rfl) ?_
    | with_reducible refine Law.ite ?_ ?_
    | with_reducible refine resFin ?_
    | with_reducible refine resNo ?_
    | with_reducible refine resStart ?_
    | with_reducible refine resForm ?_
    | with_reducible refine resGone ?_
    | with_reducible refine resHold ?_
    | with_reducible refine iteRes ?_ ?_
    | with_reducible refine outOk ?_
    | with_reducible exact outFault
    | with_reducible refine outWithin ?_
    | with_reducible refine iteOut ?_ ?_
    | ((try lift_lets); (with_reducible intro y); (have hy : Q y := ?_); clear_value y; rotate_left; subst y)
    | ((try lift_lets); (with_reducible intro y); (have hy : Q y.1 := ?_); clear_value y; rotate_left; subst y)
    | ((try lift_lets); (with_reducible intro x); (try clear_value x))
    | split

theorem loseArb_law (hQ : Law P Q) (hP : Has P [.grp 21, .grp 64, .mem, .poison, .power, .seq, .tokens, .tw]) {p : Nat} {s : State} (hi0 : P (.one .twPort p))  (h0 : Q s) :
    Q (loseArb p s) := by
  unfold loseArb
  repeat' first
    | with_reducible assumption
    | ((with_reducible refine boolGoal ?_); exact rfl)
    | ((with_reducible refine hP.one _ ?_); exact rfl)
    | with_reducible refine twCause_law hQ (hP.sub rfl) ?_ ?_
    | with_reducible refine setTw_law hQ (hP.sub rfl) ?_
    | with_reducible refine endTx_law hQ (hP.sub rfl) ?_ ?_
    | ((with_reducible refine hQ.satAt hP hi0 ?_ ?_); exact rfl)
    | with_reducible refine hQ.sat hP ?_ ?_
    | with_reducible refine evt_law hQ (hP.sub rfl) ?_
    | with_reducible refine Law.ite ?_ ?_
    | ((try lift_lets); (with_reducible intro y); (have hy : Q y := ?_); clear_value y; rotate_left; subst y)
    | ((try lift_lets); (with_reducible intro y); (have hy : Q y.1 := ?_); clear_value y; rotate_left; subst y)
    | ((try lift_lets); (with_reducible intro x); (try clear_value x))
    | split

theorem execTwXferComplete_law (hQ : Law P Q) (hP : Has P [.all .twPort, .grp 21, .grp 64, .mem, .poison, .power, .seq, .tokens, .tw]) {p : Nat} {res : Nat} {nack : Nat} {data : List Byte} {s : State}   (h0 : Q s) :
    outAll Q (execTwXferComplete p res nack data s) := by
  unfold execTwXferComplete
  repeat' first
    | with_reducible assumption
    | ((with_reducible refine boolGoal ?_); exact rfl)
    | ((with_reducible refine hP.inst ?_); exact rfl)
    | ((with_reducible refine hP.one _ ?_); exact rfl)
    | with_reducible refine endTx_law hQ (hP.sub rfl) ?_ ?_
    | with_reducible refine loseArb_law hQ (hP.sub rfl) ?_ ?_
    | with_reducible refine settleStuck_law hQ (hP.sub rfl) ?_
    | with_reducible refine recoveryFails_law hQ (hP.sub rfl) ?_ ?_
    | with_reducible refine Law.ite ?_ ?_
    | with_reducible refine outOk ?_
    | with_reducible exact outFault
    | with_reducible refine outWithin ?_
    | with_reducible refine iteOut ?_ ?_
    | ((try lift_lets); (with_reducible intro y); (have hy : Q y := ?_); clear_value y; rotate_left; subst y)
    | ((try lift_lets); (with_reducible intro x); (try clear_value x))
    | split

theorem execTwBusFree_law (hQ : Law P Q) (hP : Has P [.tw]) {p : Nat} {s : State}   (h0 : Q s) :
    outAll Q (execTwBusFree p s) := by
  unfold execTwBusFree
  repeat' first
    | with_reducible assumption
    | ((with_reducible refine boolGoal ?_); exact rfl)
    | ((with_reducible refine hP.one _ ?_); exact rfl)
    | with_reducible refine setTw_law hQ (hP.sub rfl) ?_
    | with_reducible refine outOk ?_
    | with_reducible exact outFault
    | with_reducible refine outWithin ?_
    | with_reducible refine iteOut ?_ ?_
    | ((try lift_lets); (with_reducible intro y); (have hy : Q y := ?_); clear_value y; rotate_left; subst y)
    | ((try lift_lets); (with_reducible intro y); (have hy : Q y.1 := ?_); clear_value y; rotate_left; subst y)
    | ((try lift_lets); (with_reducible intro x); (try clear_value x))

theorem execControllerSclTimeout_law (hQ : Law P Q) (hP : Has P [.all .twPort, .grp 21, .grp 64, .mem, .poison, .power, .seq, .tokens, .tw]) {p : Nat} {low : Bool} {s : State}   (h0 : Q s) :
    outAll Q (execControllerSclTimeout p low s) := by
  unfold execControllerSclTimeout
  repeat' first
    | with_reducible assumption
    | ((with_reducible refine boolGoal ?_); exact rfl)
    | ((with_reducible refine hP.inst ?_); exact rfl)
    | ((with_reducible refine hP.one _ ?_); exact rfl)
    | with_reducible refine endTx_law hQ (hP.sub rfl) ?_ ?_
    | with_reducible refine twCause_law hQ (hP.sub rfl) ?_ ?_
    | with_reducible refine settleStuck_law hQ (hP.sub rfl) ?_
    | with_reducible refine recoveryFails_law hQ (hP.sub rfl) ?_ ?_
    | with_reducible refine Law.ite ?_ ?_
    | with_reducible refine outOk ?_
    | with_reducible exact outFault
    | with_reducible refine outWithin ?_
    | with_reducible refine iteOut ?_ ?_
    | ((try lift_lets); (with_reducible intro y); (have hy : Q y := ?_); clear_value y; rotate_left; subst y)
    | ((try lift_lets); (with_reducible intro x); (try clear_value x))
    | split

theorem execStuckRecoveryRetry_law (hQ : Law P Q) (hP : Has P [.tokens]) {p : Nat} {pulses : Nat} {s : State} (hi0 : P (.one .twPort p))  (h0 : Q s) :
    outAll Q (execStuckRecoveryRetry p pulses s) := by
  unfold execStuckRecoveryRetry
  repeat' first
    | with_reducible assumption
    | ((with_reducible refine boolGoal ?_); exact rfl)
    | ((with_reducible refine hP.one _ ?_); exact rfl)
    | ((with_reducible refine hQ.wrAt hP hi0 ?_ ?_); exact rfl)
    | with_reducible refine hQ.wr hP ?_ ?_
    | with_reducible refine recoveryFails_law hQ (hP.sub rfl) ?_ ?_
    | with_reducible refine Law.ite ?_ ?_
    | with_reducible refine outOk ?_
    | with_reducible exact outFault
    | with_reducible refine outWithin ?_
    | with_reducible refine iteOut ?_ ?_
    | ((try lift_lets); (with_reducible intro y); (have hy : Q y := ?_); clear_value y; rotate_left; subst y)
    | ((try lift_lets); (with_reducible intro x); (try clear_value x))
    | split

theorem writeTarget_law (hQ : Law P Q) (hP : Has P [.all .twPort, .grp 66]) {port : Nat} {a : Nat} {b : Byte} {s : State}   (h0 : Q s) :
    Q (writeTarget port a b s) := by
  unfold writeTarget
  repeat' first
    | with_reducible assumption
    | ((with_reducible refine boolGoal ?_); exact rfl)
    | ((with_reducible refine hP.inst ?_); exact rfl)
    | ((with_reducible refine hP.one _ ?_); exact rfl)
    | with_reducible refine hQ.wr hP ?_ ?_
    | with_reducible refine Law.ite ?_ ?_
    | ((try lift_lets); (with_reducible intro y); (have hy : Q y := ?_); clear_value y; rotate_left; subst y)
    | ((try lift_lets); (with_reducible intro x); (try clear_value x))
    | split

theorem writeTargets_law (hQ : Law P Q) (hP : Has P [.all .twPort, .grp 66, .tw]) {port : Nat} {ptr : Nat} {bs : List Byte} {s : State}   (h0 : Q s) :
    Q (writeTargets port ptr bs s) := by
  unfold writeTargets
  repeat' first
    | with_reducible assumption
    | ((with_reducible refine boolGoal ?_); exact rfl)
    | ((with_reducible refine hP.inst ?_); exact rfl)
    | ((with_reducible refine hP.one _ ?_); exact rfl)
    | with_reducible refine writeTarget_law hQ (hP.sub rfl) ?_
    | with_reducible refine setTw_law hQ (hP.sub rfl) ?_
    | with_reducible refine Law.foldl (fun _ _ _ => ?_) ?_
    | with_reducible refine Law.foldlBy Prod.snd (fun _ _ _ => ?_) ?_
    | with_reducible refine Law.foldlBy Prod.fst (fun _ _ _ => ?_) ?_
    | ((try lift_lets); (with_reducible intro y); (have hy : Q y := ?_); clear_value y; rotate_left; subst y)
    | ((try lift_lets); (with_reducible intro y); (have hy : Q y.2 := ?_); clear_value y; rotate_left; subst y)
    | ((try lift_lets); (with_reducible intro y); (have hy : Q y.1 := ?_); clear_value y; rotate_left; subst y)
    | ((try lift_lets); (with_reducible intro x); (try clear_value x))
    | dsimp only

theorem debugCmd_law (hQ : Law P Q) (hP : Has P [.grp 64, .grp 66, .mem, .poison]) {s : State}   (h0 : Q s) :
    Q (debugCmd s) := by
  unfold debugCmd
  repeat' first
    | with_reducible assumption
    | ((with_reducible refine boolGoal ?_); exact rfl)
    | ((with_reducible refine hP.one _ ?_); exact rfl)
    | with_reducible refine hQ.wr hP ?_ ?_
    | with_reducible refine put_law hQ (hP.sub rfl) ?_
    | with_reducible refine Law.ite ?_ ?_
    | ((try lift_lets); (with_reducible intro y); (have hy : Q y := ?_); clear_value y; rotate_left; subst y)
    | ((try lift_lets); (with_reducible intro x); (try clear_value x))
    | split
    | dsimp only

theorem targetDone_law (hQ : Law P Q) (hP : Has P [.grp 64]) {p : Nat} {s : State} (hi0 : P (.one .twPort p))  (h0 : Q s) :
    Q (targetDone p s) := by
  unfold targetDone
  repeat' first
    | with_reducible assumption
    | ((with_reducible refine boolGoal ?_); exact rfl)
    | ((with_reducible refine hP.one _ ?_); exact rfl)
    | ((with_reducible refine hQ.wrapAt hP hi0 ?_ ?_); exact rfl)
    | with_reducible refine hQ.wrap hP ?_ ?_
    | with_reducible refine evt_law hQ (hP.sub rfl) ?_

theorem writeTw0_law (hQ : Law P Q) (hP : Has P [.all .twPort, .grp 64, .grp 66, .tokens, .tw]) {ptr : Nat} {bs : List Byte} {s : State}   (h0 : Q s) :
    Q (writeTw0 ptr bs s) := by
  unfold writeTw0
  repeat' first
    | with_reducible assumption
    | ((with_reducible refine boolGoal ?_); exact rfl)
    | ((with_reducible refine hP.inst ?_); exact rfl)
    | ((with_reducible refine hP.one _ ?_); exact rfl)
    | with_reducible refine targetDone_law hQ (hP.sub rfl) ?_ ?_
    | with_reducible refine writeTargets_law hQ (hP.sub rfl) ?_
    | with_reducible refine emit_law hQ (hP.sub rfl) ?_
    | with_reducible refine Law.ite ?_ ?_
    | with_reducible refine optAll.getD ?_ ?_
    | ((try lift_lets); (with_reducible intro y); (have hy : Q y := ?_); clear_value y; rotate_left; subst y)
    | ((try lift_lets); (with_reducible intro x); (try clear_value x))
    | split

theorem writeTw3_law (hQ : Law P Q) (hP : Has P [.all .twPort, .grp 64, .grp 66, .mem, .poison, .tokens, .tw]) {ptr : Nat} {bs : List Byte} {s : State}   (h0 : Q s) :
    Q (writeTw3 ptr bs s) := by
  unfold writeTw3
  repeat' first
    | with_reducible assumption
    | ((with_reducible refine boolGoal ?_); exact rfl)
    | ((with_reducible refine hP.inst ?_); exact rfl)
    | ((with_reducible refine hP.one _ ?_); exact rfl)
    | with_reducible refine twCause_law hQ (hP.sub rfl) ?_ ?_
    | with_reducible refine setTw_law hQ (hP.sub rfl) ?_
    | with_reducible refine targetDone_law hQ (hP.sub rfl) ?_ ?_
    | with_reducible refine writeTargets_law hQ (hP.sub rfl) ?_
    | with_reducible refine debugCmd_law hQ (hP.sub rfl) ?_
    | with_reducible refine emit_law hQ (hP.sub rfl) ?_
    | with_reducible refine Law.ite ?_ ?_
    | with_reducible refine optAll.getD ?_ ?_
    | ((try lift_lets); (with_reducible intro y); (have hy : Q y := ?_); clear_value y; rotate_left; subst y)
    | ((try lift_lets); (with_reducible intro y); (have hy : Q y.1 := ?_); clear_value y; rotate_left; subst y)
    | ((try lift_lets); (with_reducible intro x); (try clear_value x))
    | split

theorem matchTw0_law (hQ : Law P Q) (hP : Has P [.power, .tw]) {s : State}   (h0 : Q s) :
    Q (matchTw0 s) := by
  unfold matchTw0
  repeat' first
    | with_reducible assumption
    | ((with_reducible refine boolGoal ?_); exact rfl)
    | ((with_reducible refine hP.one _ ?_); exact rfl)
    | with_reducible refine beginWake_law hQ (hP.sub rfl) ?_
    | with_reducible refine setTw_law hQ (hP.sub rfl) ?_
    | with_reducible refine Law.ite ?_ ?_
    | ((try lift_lets); (with_reducible intro y); (have hy : Q y := ?_); clear_value y; rotate_left; subst y)
    | ((try lift_lets); (with_reducible intro y); (have hy : Q y.1 := ?_); clear_value y; rotate_left; subst y)
    | ((try lift_lets); (with_reducible intro x); (try clear_value x))
    | split

theorem targetWrite_law (hQ : Law P Q) (hP : Has P [.all .twPort, .grp 64, .grp 66, .mem, .poison, .power, .tokens, .tw]) {port : Nat} {ptr : Nat} {bs : List Byte} {s : State}   (h0 : Q s) :
    Q (targetWrite port ptr bs s) := by
  unfold targetWrite
  repeat' first
    | with_reducible assumption
    | ((with_reducible refine boolGoal ?_); exact rfl)
    | ((with_reducible refine hP.inst ?_); exact rfl)
    | ((with_reducible refine hP.one _ ?_); exact rfl)
    | with_reducible refine matchTw0_law hQ (hP.sub rfl) ?_
    | with_reducible refine writeTw0_law hQ (hP.sub rfl) ?_
    | with_reducible refine writeTw3_law hQ (hP.sub rfl) ?_
    | with_reducible refine Law.ite ?_ ?_
    | split
    | dsimp only

theorem execMboxWrite_law (hQ : Law P Q) (hP : Has P [.all .twPort, .grp 64, .grp 66, .mem, .poison, .power, .tokens, .tw]) {ptr : Nat} {bs : List Byte} {s : State}   (h0 : Q s) :
    outAll Q (execMboxWrite ptr bs s) := by
  unfold execMboxWrite
  repeat' first
    | with_reducible assumption
    | ((with_reducible refine boolGoal ?_); exact rfl)
    | ((with_reducible refine hP.inst ?_); exact rfl)
    | ((with_reducible refine hP.one _ ?_); exact rfl)
    | with_reducible refine targetWrite_law hQ (hP.sub rfl) ?_
    | with_reducible refine outOk ?_
    | with_reducible exact outFault
    | with_reducible refine outWithin ?_
    | with_reducible refine iteOut ?_ ?_

theorem execTwTargetWrite_law (hQ : Law P Q) (hP : Has P [.all .twPort, .grp 64, .grp 66, .mem, .poison, .power, .tokens, .tw]) {port : Nat} {ptr : Nat} {bs : List Byte} {s : State}   (h0 : Q s) :
    outAll Q (execTwTargetWrite port ptr bs s) := by
  unfold execTwTargetWrite
  repeat' first
    | with_reducible assumption
    | ((with_reducible refine boolGoal ?_); exact rfl)
    | ((with_reducible refine hP.inst ?_); exact rfl)
    | ((with_reducible refine hP.one _ ?_); exact rfl)
    | with_reducible refine targetWrite_law hQ (hP.sub rfl) ?_
    | with_reducible refine Law.ite ?_ ?_
    | with_reducible refine outOk ?_
    | with_reducible exact outFault
    | with_reducible refine outWithin ?_
    | with_reducible refine iteOut ?_ ?_
    | split

theorem execTw3Dcmd_law (hQ : Law P Q) (hP : Has P [.all .twPort, .grp 64, .grp 66, .mem, .poison, .power, .tokens, .tw]) {ptr : Nat} {bs : List Byte} {s : State}   (h0 : Q s) :
    outAll Q (execTw3Dcmd ptr bs s) := by
  unfold execTw3Dcmd
  repeat' first
    | with_reducible assumption
    | ((with_reducible refine boolGoal ?_); exact rfl)
    | ((with_reducible refine hP.inst ?_); exact rfl)
    | ((with_reducible refine hP.one _ ?_); exact rfl)
    | with_reducible refine targetWrite_law hQ (hP.sub rfl) ?_
    | with_reducible refine outOk ?_
    | with_reducible exact outFault
    | with_reducible refine outWithin ?_
    | with_reducible refine iteOut ?_ ?_

theorem execTw0WakeMatch_law (hQ : Law P Q) (hP : Has P [.power, .tw]) {s : State}   (h0 : Q s) :
    outAll Q (execTw0WakeMatch s) := by
  unfold execTw0WakeMatch
  repeat' first
    | with_reducible assumption
    | ((with_reducible refine boolGoal ?_); exact rfl)
    | ((with_reducible refine hP.one _ ?_); exact rfl)
    | with_reducible refine matchTw0_law hQ (hP.sub rfl) ?_
    | with_reducible refine outOk ?_
    | with_reducible exact outFault
    | with_reducible refine outWithin ?_
    | with_reducible refine iteOut ?_ ?_
    | split
    | dsimp only

theorem execTargetStretchTimeout_law (hQ : Law P Q) (hP : Has P [.grp 64, .tokens, .tw]) {p : Nat} {s : State} (hi0 : P (.one .twPort p))  (h0 : Q s) :
    outAll Q (execTargetStretchTimeout p s) := by
  unfold execTargetStretchTimeout
  repeat' first
    | with_reducible assumption
    | ((with_reducible refine boolGoal ?_); exact rfl)
    | ((with_reducible refine hP.one _ ?_); exact rfl)
    | with_reducible refine twCause_law hQ (hP.sub rfl) ?_ ?_
    | with_reducible refine setTw_law hQ (hP.sub rfl) ?_
    | ((with_reducible refine hQ.satAt hP hi0 ?_ ?_); exact rfl)
    | with_reducible refine hQ.sat hP ?_ ?_
    | with_reducible refine evt_law hQ (hP.sub rfl) ?_
    | with_reducible refine Law.ite ?_ ?_
    | with_reducible refine outOk ?_
    | with_reducible exact outFault
    | with_reducible refine outWithin ?_
    | with_reducible refine iteOut ?_ ?_
    | ((try lift_lets); (with_reducible intro y); (have hy : Q y := ?_); clear_value y; rotate_left; subst y)
    | ((try lift_lets); (with_reducible intro y); (have hy : Q y.1 := ?_); clear_value y; rotate_left; subst y)
    | ((try lift_lets); (with_reducible intro x); (try clear_value x))
    | split

theorem twpCntOne_law (hQ : Law P Q) (hP : Has P []) {p : Nat} {s : State} (hi0 : P (.one .twPort p))  (h0 : Q s) :
    Q (twpCntOne p s) := by
  unfold twpCntOne
  repeat' first
    | with_reducible assumption
    | ((with_reducible refine boolGoal ?_); exact rfl)
    | ((with_reducible refine hP.one _ ?_); exact rfl)
    | ((with_reducible refine hQ.clrAt hP hi0 ?_ ?_); simp only [List.all]; exact rfl)
    | ((with_reducible refine hQ.clr hP ?_ ?_); simp only [List.all]; exact rfl)

theorem twpEvOne_law (hQ : Law P Q) (hP : Has P []) {arg : Nat} {p : Nat} {s : State} (hi0 : P (.one .twPort p))  (h0 : Q s) :
    Q (twpEvOne arg p s) := by
  unfold twpEvOne
  repeat' first
    | with_reducible assumption
    | ((with_reducible refine boolGoal ?_); exact rfl)
    | ((with_reducible refine hP.one _ ?_); exact rfl)
    | ((with_reducible refine hQ.wrAt hP hi0 ?_ ?_); exact rfl)
    | with_reducible refine hQ.wr hP ?_ ?_

end Sys2Proof.Machine
end

