-- ==== Sys2Proof/Laws/Pmu.lean ====
section
/-!
SUPPORT. What each function of Machine/Pmu.lean can change: every law of the parts it names survives it.
-/
namespace Sys2Proof.Machine

variable {P : Part → Prop} {Q : State → Prop}

theorem execPmuCntset_law (hQ : Law P Q) (hP : Has P [.grp 0, .grp 64, .procs, .sampled, .seq, .tokens]) {x : XWord} {s : State} (hi0 : P (.one .pmuCfg (xargs s x).i))  (h0 : Q s) :
    outAll Q (execPmuCntset x s) := by
  unfold execPmuCntset
  repeat' first
    | with_reducible assumption
    | ((with_reducible refine boolGoal ?_); exact rfl)
    | ((with_reducible refine hP.one _ ?_); exact rfl)
    | with_reducible refine direct_law hQ (hP.sub rfl) (fun _ => ?_) ?_
    | ((with_reducible refine hQ.setFromAt hP hi0 ?_ ?_); simp only [List.all]; exact rfl)
    | ((with_reducible refine hQ.setFrom hP ?_ ?_); simp only [List.all]; exact rfl)
    | with_reducible refine excPair ?_
    | with_reducible refine excState ?_
    | with_reducible exact excError
    | with_reducible refine iteExc ?_ ?_
    | with_reducible refine outOk ?_
    | with_reducible exact outFault
    | with_reducible refine outWithin ?_
    | with_reducible refine iteOut ?_ ?_
    | ((try lift_lets); (with_reducible intro x); (try clear_value x))

theorem snapOp_law (hQ : Law P Q) (hP : Has P [.all .wlkPort, .grp 23, .grp 64, .sent, .snap]) {a : XArgs} {s : State}   (h0 : Q s) :
    resAll Q (snapOp a s) := by
  unfold snapOp
  repeat' first
    | with_reducible assumption
    | ((with_reducible refine boolGoal ?_); exact rfl)
    | ((with_reducible refine hP.inst ?_); exact rfl)
    | ((with_reducible refine hP.one _ ?_); exact rfl)
    | with_reducible refine askSnapshot_law hQ (hP.sub rfl) ?_
    | with_reducible refine sendOn_law hQ (hP.sub rfl) ?_
    | with_reducible refine Law.ite ?_ ?_
    | with_reducible refine resNo ?_
    | with_reducible refine resFin ?_
    | with_reducible refine resStart ?_
    | with_reducible refine resForm ?_
    | with_reducible refine resGone ?_
    | with_reducible refine resHold ?_
    | with_reducible refine iteRes ?_ ?_
    | split

theorem execPmuSnap_law (hQ : Law P Q) (hP : Has P [.all .wlkPort, .grp 0, .grp 23, .grp 64, .procs, .sampled, .sent, .seq, .snap, .tokens]) {x : XWord} {s : State}   (h0 : Q s) :
    outAll Q (execPmuSnap x s) := by
  unfold execPmuSnap
  repeat' first
    | with_reducible assumption
    | ((with_reducible refine boolGoal ?_); exact rfl)
    | ((with_reducible refine hP.inst ?_); exact rfl)
    | ((with_reducible refine hP.one _ ?_); exact rfl)
    | with_reducible refine xop_law hQ (hP.sub rfl) (fun _ => ?_) ?_
    | with_reducible refine snapOp_law hQ (hP.sub rfl) ?_
    | with_reducible refine resFin ?_
    | with_reducible refine resNo ?_
    | with_reducible refine resStart ?_
    | with_reducible refine resForm ?_
    | with_reducible refine resGone ?_
    | with_reducible refine resHold ?_
    | with_reducible refine iteRes ?_ ?_
    | with_reducible refine outOk ?_
    | with_reducible exact outFault
    | with_reducible refine outWithin ?_
    | with_reducible refine iteOut ?_ ?_

theorem execPmuSnapFabric_law (hQ : Law P Q) (hP : Has P [.all .wlkPort, .grp 0, .grp 23, .grp 64, .procs, .sampled, .sent, .seq, .snap, .tokens]) {x : XWord} {s : State}   (h0 : Q s) :
    outAll Q (execPmuSnapFabric x s) := by
  unfold execPmuSnapFabric
  repeat' first
    | with_reducible assumption
    | ((with_reducible refine boolGoal ?_); exact rfl)
    | ((with_reducible refine hP.inst ?_); exact rfl)
    | ((with_reducible refine hP.one _ ?_); exact rfl)
    | with_reducible refine xop_law hQ (hP.sub rfl) (fun _ => ?_) ?_
    | with_reducible refine snapOp_law hQ (hP.sub rfl) ?_
    | with_reducible refine resFin ?_
    | with_reducible refine resNo ?_
    | with_reducible refine resStart ?_
    | with_reducible refine resForm ?_
    | with_reducible refine resGone ?_
    | with_reducible refine resHold ?_
    | with_reducible refine iteRes ?_ ?_
    | with_reducible refine outOk ?_
    | with_reducible exact outFault
    | with_reducible refine outWithin ?_
    | with_reducible refine iteOut ?_ ?_
    | ((try lift_lets); (with_reducible intro x); (try clear_value x))

theorem copyCounts_law (hQ : Law P Q) (hP : Has P [.grp 23]) {cs : Tbl Word} {s : State}   (h0 : Q s) :
    Q (copyCounts cs s) := by
  unfold copyCounts
  repeat' first
    | with_reducible assumption
    | ((with_reducible refine boolGoal ?_); exact rfl)
    | ((with_reducible refine hP.one _ ?_); exact rfl)
    | with_reducible refine hQ.wr hP ?_ ?_
    | with_reducible refine Law.foldl (fun _ _ _ => ?_) ?_
    | with_reducible refine Law.foldlBy Prod.snd (fun _ _ _ => ?_) ?_
    | with_reducible refine Law.foldlBy Prod.fst (fun _ _ _ => ?_) ?_
    | ((try lift_lets); (with_reducible intro y); (have hy : Q y := ?_); clear_value y; rotate_left; subst y)
    | ((try lift_lets); (with_reducible intro y); (have hy : Q y.2 := ?_); clear_value y; rotate_left; subst y)
    | ((try lift_lets); (with_reducible intro y); (have hy : Q y.1 := ?_); clear_value y; rotate_left; subst y)
    | ((try lift_lets); (with_reducible intro x); (try clear_value x))
    | with_reducible refine hQ.drop ?_ ?_
    | dsimp only

theorem execSnapshotTake_law (hQ : Law P Q) (hP : Has P [.grp 23, .snap]) {s : State}   (h0 : Q s) :
    outAll Q (execSnapshotTake s) := by
  unfold execSnapshotTake
  repeat' first
    | with_reducible assumption
    | ((with_reducible refine boolGoal ?_); exact rfl)
    | ((with_reducible refine hP.one _ ?_); exact rfl)
    | with_reducible refine copyCounts_law hQ (hP.sub rfl) ?_
    | ((with_reducible refine hQ.wrAll hP ?_ ?_); simp only [List.all]; exact rfl)
    | with_reducible refine hQ.wrap hP ?_ ?_
    | with_reducible refine outOk ?_
    | with_reducible exact outFault
    | with_reducible refine outWithin ?_
    | with_reducible refine iteOut ?_ ?_
    | ((try lift_lets); (with_reducible intro y); (have hy : Q y := ?_); clear_value y; rotate_left; subst y)
    | ((try lift_lets); (with_reducible intro y); (have hy : Q y.1 := ?_); clear_value y; rotate_left; subst y)
    | ((try lift_lets); (with_reducible intro x); (try clear_value x))
    | split
    | dsimp only
    | with_reducible refine hQ.snap ?_ ?_

theorem execPmuSampcfg_law (hQ : Law P Q) (hP : Has P [.grp 0, .grp 64, .procs, .sampled, .seq, .tokens]) {x : XWord} {s : State} (hi0 : P (.one .sampler (xargs s x).i))  (h0 : Q s) :
    outAll Q (execPmuSampcfg x s) := by
  unfold execPmuSampcfg
  repeat' first
    | with_reducible assumption
    | ((with_reducible refine boolGoal ?_); exact rfl)
    | ((with_reducible refine hP.one _ ?_); exact rfl)
    | ((with_reducible refine blockOpAt_law hQ (hP.sub rfl) hP hi0 ?_ (fun _ _ => ?_) ?_); (simp only [List.all]; exact rfl))
    | ((with_reducible refine blockOp_law hQ (hP.sub rfl) hP ?_ (fun _ _ => ?_) ?_); (simp only [List.all]; exact rfl))
    | ((with_reducible refine hQ.satAt hP hi0 ?_ ?_); exact rfl)
    | with_reducible refine hQ.sat hP ?_ ?_
    | ((with_reducible refine hQ.wrAllAt hP hi0 ?_ ?_); simp only [List.all]; exact rfl)
    | ((with_reducible refine hQ.wrAll hP ?_ ?_); simp only [List.all]; exact rfl)
    | with_reducible refine excPair ?_
    | with_reducible refine excState ?_
    | with_reducible exact excError
    | with_reducible refine iteExc ?_ ?_
    | with_reducible refine outOk ?_
    | with_reducible exact outFault
    | with_reducible refine outWithin ?_
    | with_reducible refine iteOut ?_ ?_
    | ((try lift_lets); (with_reducible intro y); (have hy : Q y := ?_); clear_value y; rotate_left; subst y)
    | ((try lift_lets); (with_reducible intro y); (have hy : Q y.1 := ?_); clear_value y; rotate_left; subst y)
    | ((try lift_lets); (with_reducible intro x); (try clear_value x))
    | with_reducible refine hQ.sampled ?_ ?_

theorem execSampleRecord_law (hQ : Law P Q) (hP : Has P [.grp 64, .mem, .poison, .sampled]) {k : Nat} {stall : Nat} {iaddr : Nat} {iword : Word} {lat : Nat} {s : State} (hi0 : P (.one .sampler k))  (h0 : Q s) :
    outAll Q (execSampleRecord k stall iaddr iword lat s) := by
  unfold execSampleRecord
  repeat' first
    | with_reducible assumption
    | ((with_reducible refine boolGoal ?_); exact rfl)
    | ((with_reducible refine hP.one _ ?_); exact rfl)
    | ((with_reducible refine hQ.satAt hP hi0 ?_ ?_); exact rfl)
    | with_reducible refine hQ.sat hP ?_ ?_
    | with_reducible refine put_law hQ (hP.sub rfl) ?_
    | ((with_reducible refine hQ.wrAt hP hi0 ?_ ?_); exact rfl)
    | with_reducible refine hQ.wr hP ?_ ?_
    | ((with_reducible refine hQ.wrapAt hP hi0 ?_ ?_); exact rfl)
    | with_reducible refine hQ.wrap hP ?_ ?_
    | with_reducible refine evt_law hQ (hP.sub rfl) ?_
    | with_reducible refine Law.ite ?_ ?_
    | with_reducible refine outOk ?_
    | with_reducible exact outFault
    | with_reducible refine outWithin ?_
    | with_reducible refine iteOut ?_ ?_
    | ((try lift_lets); (with_reducible intro y); (have hy : Q y := ?_); clear_value y; rotate_left; subst y)
    | ((try lift_lets); (with_reducible intro y); (have hy : Q y.1 := ?_); clear_value y; rotate_left; subst y)
    | ((try lift_lets); (with_reducible intro x); (try clear_value x))
    | split
    | dsimp only
    | with_reducible refine hQ.sampled ?_ ?_

theorem slaCntOne_law (hQ : Law P Q) (hP : Has P []) {n : Nat} {s : State} (hi0 : P (.one .lane n))  (h0 : Q s) :
    Q (slaCntOne n s) := by
  unfold slaCntOne
  repeat' first
    | with_reducible assumption
    | ((with_reducible refine boolGoal ?_); exact rfl)
    | ((with_reducible refine hP.one _ ?_); exact rfl)
    | ((with_reducible refine hQ.clrAt hP hi0 ?_ ?_); simp only [List.all]; exact rfl)
    | ((with_reducible refine hQ.clr hP ?_ ?_); simp only [List.all]; exact rfl)

theorem slaEvOne_law (hQ : Law P Q) (hP : Has P []) {arg : Nat} {n : Nat} {s : State} (hi0 : P (.one .lane n))  (h0 : Q s) :
    Q (slaEvOne arg n s) := by
  unfold slaEvOne
  repeat' first
    | with_reducible assumption
    | ((with_reducible refine boolGoal ?_); exact rfl)
    | ((with_reducible refine hP.one _ ?_); exact rfl)
    | ((with_reducible refine hQ.wrAt hP hi0 ?_ ?_); exact rfl)
    | with_reducible refine hQ.wr hP ?_ ?_

theorem wlkCntOne_law (hQ : Law P Q) (hP : Has P []) {p : Nat} {s : State} (hi0 : P (.one .wlkPort p))  (h0 : Q s) :
    Q (wlkCntOne p s) := by
  unfold wlkCntOne
  repeat' first
    | with_reducible assumption
    | ((with_reducible refine boolGoal ?_); exact rfl)
    | ((with_reducible refine hP.one _ ?_); exact rfl)
    | ((with_reducible refine hQ.clrAt hP hi0 ?_ ?_); simp only [List.all]; exact rfl)
    | ((with_reducible refine hQ.clr hP ?_ ?_); simp only [List.all]; exact rfl)

theorem wlkCnt_law (hQ : Law P Q) (hP : Has P [.grp 17]) {s : State}   (h0 : Q s) :
    Q (wlkCnt s) := by
  unfold wlkCnt
  repeat' first
    | with_reducible assumption
    | ((with_reducible refine boolGoal ?_); exact rfl)
    | ((with_reducible refine hP.one _ ?_); exact rfl)
    | ((with_reducible refine hQ.clr hP ?_ ?_); simp only [List.all]; exact rfl)

theorem rpaStatCnt_law (hQ : Law P Q) (hP : Has P []) {h : Nat} {s : State} (hi0 : P (.one .rpaStat h))  (h0 : Q s) :
    Q (rpaStatCnt h s) := by
  unfold rpaStatCnt
  repeat' first
    | with_reducible assumption
    | ((with_reducible refine boolGoal ?_); exact rfl)
    | ((with_reducible refine hP.one _ ?_); exact rfl)
    | ((with_reducible refine hQ.clrAt hP hi0 ?_ ?_); simp only [List.all]; exact rfl)
    | ((with_reducible refine hQ.clr hP ?_ ?_); simp only [List.all]; exact rfl)
    | ((with_reducible refine hQ.clrRowAt hP hi0 ?_ ?_); exact rfl)
    | with_reducible refine hQ.clrRow hP ?_ ?_

theorem pmuCntOne_law (hQ : Law P Q) (hP : Has P [.grp 64]) {n : Nat} {s : State} (hi0 : P (.one .sampler n))  (h0 : Q s) :
    Q (pmuCntOne n s) := by
  unfold pmuCntOne
  repeat' first
    | with_reducible assumption
    | ((with_reducible refine boolGoal ?_); exact rfl)
    | ((with_reducible refine hP.one _ ?_); exact rfl)
    | ((with_reducible refine hQ.wrAt hP hi0 ?_ ?_); exact rfl)
    | with_reducible refine hQ.wr hP ?_ ?_
    | ((with_reducible refine hQ.clrAt hP hi0 ?_ ?_); simp only [List.all]; exact rfl)
    | ((with_reducible refine hQ.clr hP ?_ ?_); simp only [List.all]; exact rfl)
    | with_reducible refine Law.ite ?_ ?_
    | ((try lift_lets); (with_reducible intro y); (have hy : Q y := ?_); clear_value y; rotate_left; subst y)
    | ((try lift_lets); (with_reducible intro x); (try clear_value x))
    | split

theorem clearOne_law (hQ : Law P Q) (hP : Has P [.all .divider, .all .probe, .all .ssi, .grp 0, .grp 11, .grp 18, .grp 22, .grp 24, .grp 64, .grp 65]) {unit : Nat} {i : Nat} {s : State} (hi0 : P (.one .chan i)) (hi1 : P (.one .dma i)) (hi2 : P (.one .dmc i)) (hi3 : P (.one .enc i)) (hi4 : P (.one .eslHead i)) (hi5 : P (.one .head i)) (hi6 : P (.one .hisHead i)) (hi7 : P (.one .lane i)) (hi8 : P (.one .lrp i)) (hi9 : P (.one .marker i)) (hi10 : P (.one .rail i)) (hi11 : P (.one .rclView i)) (hi12 : P (.one .requester i)) (hi13 : P (.one .rpaUnit i)) (hi14 : P (.one .rtkView i)) (hi15 : P (.one .sampler i)) (hi16 : P (.one .seam i)) (hi17 : P (.one .stream i)) (hi18 : P (.one .task i)) (hi19 : P (.one .tesHead i)) (hi20 : P (.one .twPort i)) (hi21 : P (.one .view i)) (hi22 : P (.one .wlkPort i))  (h0 : Q s) :
    Q (clearOne unit i s) := by
  unfold clearOne
  repeat' first
    | with_reducible assumption
    | ((with_reducible refine boolGoal ?_); exact rfl)
    | ((with_reducible refine hP.inst ?_); exact rfl)
    | ((with_reducible refine hP.one _ ?_); exact rfl)
    | with_reducible refine seqCnt_law hQ (hP.sub rfl) ?_
    | with_reducible refine slaCntOne_law hQ (hP.sub rfl) ?_ ?_
    | with_reducible refine hauCntOne_law hQ (hP.sub rfl) ?_ ?_ ?_
    | with_reducible refine pfuCntOne_law hQ (hP.sub rfl) ?_ ?_
    | with_reducible refine tesCntOne_law hQ (hP.sub rfl) ?_ ?_
    | with_reducible refine rpaUnitCnt_law hQ (hP.sub rfl) ?_ ?_
    | with_reducible refine rpaCntOne_law hQ (hP.sub rfl) ?_ ?_
    | with_reducible refine sstCntOne_law hQ (hP.sub rfl) ?_ ?_ ?_
    | with_reducible refine rtkCntOne_law hQ (hP.sub rfl) ?_ ?_
    | with_reducible refine rclCntOne_law hQ (hP.sub rfl) ?_ ?_
    | with_reducible refine markerCntOne_law hQ (hP.sub rfl) ?_ ?_
    | with_reducible refine hisCntOne_law hQ (hP.sub rfl) ?_ ?_
    | with_reducible refine cmpCnt_law hQ (hP.sub rfl) ?_
    | with_reducible refine ovsCntOne_law hQ (hP.sub rfl) ?_ ?_
    | with_reducible refine dmcCntOne_law hQ (hP.sub rfl) ?_ ?_
    | with_reducible refine dmaCntOne_law hQ (hP.sub rfl) ?_ ?_
    | with_reducible refine memCntOne_law hQ (hP.sub rfl) ?_ ?_
    | with_reducible refine hifCnt_law hQ (hP.sub rfl) ?_
    | with_reducible refine wlkCntOne_law hQ (hP.sub rfl) ?_ ?_
    | ((with_reducible refine hQ.clrAt hP hi0 ?_ ?_); simp only [List.all]; exact rfl)
    | ((with_reducible refine hQ.clrAt hP hi1 ?_ ?_); simp only [List.all]; exact rfl)
    | ((with_reducible refine hQ.clrAt hP hi2 ?_ ?_); simp only [List.all]; exact rfl)
    | ((with_reducible refine hQ.clrAt hP hi3 ?_ ?_); simp only [List.all]; exact rfl)
    | ((with_reducible refine hQ.clrAt hP hi4 ?_ ?_); simp only [List.all]; exact rfl)
    | ((with_reducible refine hQ.clrAt hP hi5 ?_ ?_); simp only [List.all]; exact rfl)
    | ((with_reducible refine hQ.clrAt hP hi6 ?_ ?_); simp only [List.all]; exact rfl)
    | ((with_reducible refine hQ.clrAt hP hi7 ?_ ?_); simp only [List.all]; exact rfl)
    | ((with_reducible refine hQ.clrAt hP hi8 ?_ ?_); simp only [List.all]; exact rfl)
    | ((with_reducible refine hQ.clrAt hP hi9 ?_ ?_); simp only [List.all]; exact rfl)
    | ((with_reducible refine hQ.clrAt hP hi10 ?_ ?_); simp only [List.all]; exact rfl)
    | ((with_reducible refine hQ.clrAt hP hi11 ?_ ?_); simp only [List.all]; exact rfl)
    | ((with_reducible refine hQ.clrAt hP hi12 ?_ ?_); simp only [List.all]; exact rfl)
    | ((with_reducible refine hQ.clrAt hP hi13 ?_ ?_); simp only [List.all]; exact rfl)
    | ((with_reducible refine hQ.clrAt hP hi14 ?_ ?_); simp only [List.all]; exact rfl)
    | ((with_reducible refine hQ.clrAt hP hi15 ?_ ?_); simp only [List.all]; exact rfl)
    | ((with_reducible refine hQ.clrAt hP hi16 ?_ ?_); simp only [List.all]; exact rfl)
    | ((with_reducible refine hQ.clrAt hP hi17 ?_ ?_); simp only [List.all]; exact rfl)
    | ((with_reducible refine hQ.clrAt hP hi18 ?_ ?_); simp only [List.all]; exact rfl)
    | ((with_reducible refine hQ.clrAt hP hi19 ?_ ?_); simp only [List.all]; exact rfl)
    | ((with_reducible refine hQ.clrAt hP hi20 ?_ ?_); simp only [List.all]; exact rfl)
    | ((with_reducible refine hQ.clrAt hP hi21 ?_ ?_); simp only [List.all]; exact rfl)
    | ((with_reducible refine hQ.clrAt hP hi22 ?_ ?_); simp only [List.all]; exact rfl)
    | ((with_reducible refine hQ.clr2 hP hi0 hi1 ?_ ?_); simp only [List.all]; exact rfl)
    | ((with_reducible refine hQ.clr2 hP hi0 hi2 ?_ ?_); simp only [List.all]; exact rfl)
    | ((with_reducible refine hQ.clr2 hP hi0 hi3 ?_ ?_); simp only [List.all]; exact rfl)
    | ((with_reducible refine hQ.clr2 hP hi0 hi4 ?_ ?_); simp only [List.all]; exact rfl)
    | ((with_reducible refine hQ.clr2 hP hi0 hi5 ?_ ?_); simp only [List.all]; exact rfl)
    | ((with_reducible refine hQ.clr2 hP hi0 hi6 ?_ ?_); simp only [List.all]; exact rfl)
    | ((with_reducible refine hQ.clr2 hP hi0 hi7 ?_ ?_); simp only [List.all]; exact rfl)
    | ((with_reducible refine hQ.clr2 hP hi0 hi8 ?_ ?_); simp only [List.all]; exact rfl)
    | ((with_reducible refine hQ.clr2 hP hi0 hi9 ?_ ?_); simp only [List.all]; exact rfl)
    | ((with_reducible refine hQ.clr2 hP hi0 hi10 ?_ ?_); simp only [List.all]; exact rfl)
    | ((with_reducible refine hQ.clr2 hP hi0 hi11 ?_ ?_); simp only [List.all]; exact rfl)
    | ((with_reducible refine hQ.clr2 hP hi0 hi12 ?_ ?_); simp only [List.all]; exact rfl)
    | ((with_reducible refine hQ.clr2 hP hi0 hi13 ?_ ?_); simp only [List.all]; exact rfl)
    | ((with_reducible refine hQ.clr2 hP hi0 hi14 ?_ ?_); simp only [List.all]; exact rfl)
    | ((with_reducible refine hQ.clr2 hP hi0 hi15 ?_ ?_); simp only [List.all]; exact rfl)
    | ((with_reducible refine hQ.clr2 hP hi0 hi16 ?_ ?_); simp only [List.all]; exact rfl)
    | ((with_reducible refine hQ.clr2 hP hi0 hi17 ?_ ?_); simp only [List.all]; exact rfl)
    | ((with_reducible refine hQ.clr2 hP hi0 hi18 ?_ ?_); simp only [List.all]; exact rfl)
    | ((with_reducible refine hQ.clr2 hP hi0 hi19 ?_ ?_); simp only [List.all]; exact rfl)
    | ((with_reducible refine hQ.clr2 hP hi0 hi20 ?_ ?_); simp only [List.all]; exact rfl)
    | ((with_reducible refine hQ.clr2 hP hi0 hi21 ?_ ?_); simp only [List.all]; exact rfl)
    | ((with_reducible refine hQ.clr2 hP hi0 hi22 ?_ ?_); simp only [List.all]; exact rfl)
    | ((with_reducible refine hQ.clr2 hP hi1 hi2 ?_ ?_); simp only [List.all]; exact rfl)
    | ((with_reducible refine hQ.clr2 hP hi1 hi3 ?_ ?_); simp only [List.all]; exact rfl)
    | ((with_reducible refine hQ.clr2 hP hi1 hi4 ?_ ?_); simp only [List.all]; exact rfl)
    | ((with_reducible refine hQ.clr2 hP hi1 hi5 ?_ ?_); simp only [List.all]; exact rfl)
    | ((with_reducible refine hQ.clr2 hP hi1 hi6 ?_ ?_); simp only [List.all]; exact rfl)
    | ((with_reducible refine hQ.clr2 hP hi1 hi7 ?_ ?_); simp only [List.all]; exact rfl)
    | ((with_reducible refine hQ.clr2 hP hi1 hi8 ?_ ?_); simp only [List.all]; exact rfl)
    | ((with_reducible refine hQ.clr2 hP hi1 hi9 ?_ ?_); simp only [List.all]; exact rfl)
    | ((with_reducible refine hQ.clr2 hP hi1 hi10 ?_ ?_); simp only [List.all]; exact rfl)
    | ((with_reducible refine hQ.clr2 hP hi1 hi11 ?_ ?_); simp only [List.all]; exact rfl)
    | ((with_reducible refine hQ.clr2 hP hi1 hi12 ?_ ?_); simp only [List.all]; exact rfl)
    | ((with_reducible refine hQ.clr2 hP hi1 hi13 ?_ ?_); simp only [List.all]; exact rfl)
    | ((with_reducible refine hQ.clr2 hP hi1 hi14 ?_ ?_); simp only [List.all]; exact rfl)
    | ((with_reducible refine hQ.clr2 hP hi1 hi15 ?_ ?_); simp only [List.all]; exact rfl)
    | ((with_reducible refine hQ.clr2 hP hi1 hi16 ?_ ?_); simp only [List.all]; exact rfl)
    | ((with_reducible refine hQ.clr2 hP hi1 hi17 ?_ ?_); simp only [List.all]; exact rfl)
    | ((with_reducible refine hQ.clr2 hP hi1 hi18 ?_ ?_); simp only [List.all]; exact rfl)
    | ((with_reducible refine hQ.clr2 hP hi1 hi19 ?_ ?_); simp only [List.all]; exact rfl)
    | ((with_reducible refine hQ.clr2 hP hi1 hi20 ?_ ?_); simp only [List.all]; exact rfl)
    | ((with_reducible refine hQ.clr2 hP hi1 hi21 ?_ ?_); simp only [List.all]; exact rfl)
    | ((with_reducible refine hQ.clr2 hP hi1 hi22 ?_ ?_); simp only [List.all]; exact rfl)
    | ((with_reducible refine hQ.clr2 hP hi2 hi3 ?_ ?_); simp only [List.all]; exact rfl)
    | ((with_reducible refine hQ.clr2 hP hi2 hi4 ?_ ?_); simp only [List.all]; exact rfl)
    | ((with_reducible refine hQ.clr2 hP hi2 hi5 ?_ ?_); simp only [List.all]; exact rfl)
    | ((with_reducible refine hQ.clr2 hP hi2 hi6 ?_ ?_); simp only [List.all]; exact rfl)
    | ((with_reducible refine hQ.clr2 hP hi2 hi7 ?_ ?_); simp only [List.all]; exact rfl)
    | ((with_reducible refine hQ.clr2 hP hi2 hi8 ?_ ?_); simp only [List.all]; exact rfl)
    | ((with_reducible refine hQ.clr2 hP hi2 hi9 ?_ ?_); simp only [List.all]; exact rfl)
    | ((with_reducible refine hQ.clr2 hP hi2 hi10 ?_ ?_); simp only [List.all]; exact rfl)
    | ((with_reducible refine hQ.clr2 hP hi2 hi11 ?_ ?_); simp only [List.all]; exact rfl)
    | ((with_reducible refine hQ.clr2 hP hi2 hi12 ?_ ?_); simp only [List.all]; exact rfl)
    | ((with_reducible refine hQ.clr2 hP hi2 hi13 ?_ ?_); simp only [List.all]; exact rfl)
    | ((with_reducible refine hQ.clr2 hP hi2 hi14 ?_ ?_); simp only [List.all]; exact rfl)
    | ((with_reducible refine hQ.clr2 hP hi2 hi15 ?_ ?_); simp only [List.all]; exact rfl)
    | ((with_reducible refine hQ.clr2 hP hi2 hi16 ?_ ?_); simp only [List.all]; exact rfl)
    | ((with_reducible refine hQ.clr2 hP hi2 hi17 ?_ ?_); simp only [List.all]; exact rfl)
    | ((with_reducible refine hQ.clr2 hP hi2 hi18 ?_ ?_); simp only [List.all]; exact rfl)
    | ((with_reducible refine hQ.clr2 hP hi2 hi19 ?_ ?_); simp only [List.all]; exact rfl)
    | ((with_reducible refine hQ.clr2 hP hi2 hi20 ?_ ?_); simp only [List.all]; exact rfl)
    | ((with_reducible refine hQ.clr2 hP hi2 hi21 ?_ ?_); simp only [List.all]; exact rfl)
    | ((with_reducible refine hQ.clr2 hP hi2 hi22 ?_ ?_); simp only [List.all]; exact rfl)
    | ((with_reducible refine hQ.clr2 hP hi3 hi4 ?_ ?_); simp only [List.all]; exact rfl)
    | ((with_reducible refine hQ.clr2 hP hi3 hi5 ?_ ?_); simp only [List.all]; exact rfl)
    | ((with_reducible refine hQ.clr2 hP hi3 hi6 ?_ ?_); simp only [List.all]; exact rfl)
    | ((with_reducible refine hQ.clr2 hP hi3 hi7 ?_ ?_); simp only [List.all]; exact rfl)
    | ((with_reducible refine hQ.clr2 hP hi3 hi8 ?_ ?_); simp only [List.all]; exact rfl)
    | ((with_reducible refine hQ.clr2 hP hi3 hi9 ?_ ?_); simp only [List.all]; exact rfl)
    | ((with_reducible refine hQ.clr2 hP hi3 hi10 ?_ ?_); simp only [List.all]; exact rfl)
    | ((with_reducible refine hQ.clr2 hP hi3 hi11 ?_ ?_); simp only [List.all]; exact rfl)
    | ((with_reducible refine hQ.clr2 hP hi3 hi12 ?_ ?_); simp only [List.all]; exact rfl)
    | ((with_reducible refine hQ.clr2 hP hi3 hi13 ?_ ?_); simp only [List.all]; exact rfl)
    | ((with_reducible refine hQ.clr2 hP hi3 hi14 ?_ ?_); simp only [List.all]; exact rfl)
    | ((with_reducible refine hQ.clr2 hP hi3 hi15 ?_ ?_); simp only [List.all]; exact rfl)
    | ((with_reducible refine hQ.clr2 hP hi3 hi16 ?_ ?_); simp only [List.all]; exact rfl)
    | ((with_reducible refine hQ.clr2 hP hi3 hi17 ?_ ?_); simp only [List.all]; exact rfl)
    | ((with_reducible refine hQ.clr2 hP hi3 hi18 ?_ ?_); simp only [List.all]; exact rfl)
    | ((with_reducible refine hQ.clr2 hP hi3 hi19 ?_ ?_); simp only [List.all]; exact rfl)
    | ((with_reducible refine hQ.clr2 hP hi3 hi20 ?_ ?_); simp only [List.all]; exact rfl)
    | ((with_reducible refine hQ.clr2 hP hi3 hi21 ?_ ?_); simp only [List.all]; exact rfl)
    | ((with_reducible refine hQ.clr2 hP hi3 hi22 ?_ ?_); simp only [List.all]; exact rfl)
    | ((with_reducible refine hQ.clr2 hP hi4 hi5 ?_ ?_); simp only [List.all]; exact rfl)
    | ((with_reducible refine hQ.clr2 hP hi4 hi6 ?_ ?_); simp only [List.all]; exact rfl)
    | ((with_reducible refine hQ.clr2 hP hi4 hi7 ?_ ?_); simp only [List.all]; exact rfl)
    | ((with_reducible refine hQ.clr2 hP hi4 hi8 ?_ ?_); simp only [List.all]; exact rfl)
    | ((with_reducible refine hQ.clr2 hP hi4 hi9 ?_ ?_); simp only [List.all]; exact rfl)
    | ((with_reducible refine hQ.clr2 hP hi4 hi10 ?_ ?_); simp only [List.all]; exact rfl)
    | ((with_reducible refine hQ.clr2 hP hi4 hi11 ?_ ?_); simp only [List.all]; exact rfl)
    | ((with_reducible refine hQ.clr2 hP hi4 hi12 ?_ ?_); simp only [List.all]; exact rfl)
    | ((with_reducible refine hQ.clr2 hP hi4 hi13 ?_ ?_); simp only [List.all]; exact rfl)
    | ((with_reducible refine hQ.clr2 hP hi4 hi14 ?_ ?_); simp only [List.all]; exact rfl)
    | ((with_reducible refine hQ.clr2 hP hi4 hi15 ?_ ?_); simp only [List.all]; exact rfl)
    | ((with_reducible refine hQ.clr2 hP hi4 hi16 ?_ ?_); simp only [List.all]; exact rfl)
    | ((with_reducible refine hQ.clr2 hP hi4 hi17 ?_ ?_); simp only [List.all]; exact rfl)
    | ((with_reducible refine hQ.clr2 hP hi4 hi18 ?_ ?_); simp only [List.all]; exact rfl)
    | ((with_reducible refine hQ.clr2 hP hi4 hi19 ?_ ?_); simp only [List.all]; exact rfl)
    | ((with_reducible refine hQ.clr2 hP hi4 hi20 ?_ ?_); simp only [List.all]; exact rfl)
    | ((with_reducible refine hQ.clr2 hP hi4 hi21 ?_ ?_); simp only [List.all]; exact rfl)
    | ((with_reducible refine hQ.clr2 hP hi4 hi22 ?_ ?_); simp only [List.all]; exact rfl)
    | ((with_reducible refine hQ.clr2 hP hi5 hi6 ?_ ?_); simp only [List.all]; exact rfl)
    | ((with_reducible refine hQ.clr2 hP hi5 hi7 ?_ ?_); simp only [List.all]; exact rfl)
    | ((with_reducible refine hQ.clr2 hP hi5 hi8 ?_ ?_); simp only [List.all]; exact rfl)
    | ((with_reducible refine hQ.clr2 hP hi5 hi9 ?_ ?_); simp only [List.all]; exact rfl)
    | ((with_reducible refine hQ.clr2 hP hi5 hi10 ?_ ?_); simp only [List.all]; exact rfl)
    | ((with_reducible refine hQ.clr2 hP hi5 hi11 ?_ ?_); simp only [List.all]; exact rfl)
    | ((with_reducible refine hQ.clr2 hP hi5 hi12 ?_ ?_); simp only [List.all]; exact rfl)
    | ((with_reducible refine hQ.clr2 hP hi5 hi13 ?_ ?_); simp only [List.all]; exact rfl)
    | ((with_reducible refine hQ.clr2 hP hi5 hi14 ?_ ?_); simp only [List.all]; exact rfl)
    | ((with_reducible refine hQ.clr2 hP hi5 hi15 ?_ ?_); simp only [List.all]; exact rfl)
    | ((with_reducible refine hQ.clr2 hP hi5 hi16 ?_ ?_); simp only [List.all]; exact rfl)
    | ((with_reducible refine hQ.clr2 hP hi5 hi17 ?_ ?_); simp only [List.all]; exact rfl)
    | ((with_reducible refine hQ.clr2 hP hi5 hi18 ?_ ?_); simp only [List.all]; exact rfl)
    | ((with_reducible refine hQ.clr2 hP hi5 hi19 ?_ ?_); simp only [List.all]; exact rfl)
    | ((with_reducible refine hQ.clr2 hP hi5 hi20 ?_ ?_); simp only [List.all]; exact rfl)
    | ((with_reducible refine hQ.clr2 hP hi5 hi21 ?_ ?_); simp only [List.all]; exact rfl)
    | ((with_reducible refine hQ.clr2 hP hi5 hi22 ?_ ?_); simp only [List.all]; exact rfl)
    | ((with_reducible refine hQ.clr2 hP hi6 hi7 ?_ ?_); simp only [List.all]; exact rfl)
    | ((with_reducible refine hQ.clr2 hP hi6 hi8 ?_ ?_); simp only [List.all]; exact rfl)
    | ((with_reducible refine hQ.clr2 hP hi6 hi9 ?_ ?_); simp only [List.all]; exact rfl)
    | ((with_reducible refine hQ.clr2 hP hi6 hi10 ?_ ?_); simp only [List.all]; exact rfl)
    | ((with_reducible refine hQ.clr2 hP hi6 hi11 ?_ ?_); simp only [List.all]; exact rfl)
    | ((with_reducible refine hQ.clr2 hP hi6 hi12 ?_ ?_); simp only [List.all]; exact rfl)
    | ((with_reducible refine hQ.clr2 hP hi6 hi13 ?_ ?_); simp only [List.all]; exact rfl)
    | ((with_reducible refine hQ.clr2 hP hi6 hi14 ?_ ?_); simp only [List.all]; exact rfl)
    | ((with_reducible refine hQ.clr2 hP hi6 hi15 ?_ ?_); simp only [List.all]; exact rfl)
    | ((with_reducible refine hQ.clr2 hP hi6 hi16 ?_ ?_); simp only [List.all]; exact rfl)
    | ((with_reducible refine hQ.clr2 hP hi6 hi17 ?_ ?_); simp only [List.all]; exact rfl)
    | ((with_reducible refine hQ.clr2 hP hi6 hi18 ?_ ?_); simp only [List.all]; exact rfl)
    | ((with_reducible refine hQ.clr2 hP hi6 hi19 ?_ ?_); simp only [List.all]; exact rfl)
    | ((with_reducible refine hQ.clr2 hP hi6 hi20 ?_ ?_); simp only [List.all]; exact rfl)
    | ((with_reducible refine hQ.clr2 hP hi6 hi21 ?_ ?_); simp only [List.all]; exact rfl)
    | ((with_reducible refine hQ.clr2 hP hi6 hi22 ?_ ?_); simp only [List.all]; exact rfl)
    | ((with_reducible refine hQ.clr2 hP hi7 hi8 ?_ ?_); simp only [List.all]; exact rfl)
    | ((with_reducible refine hQ.clr2 hP hi7 hi9 ?_ ?_); simp only [List.all]; exact rfl)
    | ((with_reducible refine hQ.clr2 hP hi7 hi10 ?_ ?_); simp only [List.all]; exact rfl)
    | ((with_reducible refine hQ.clr2 hP hi7 hi11 ?_ ?_); simp only [List.all]; exact rfl)
    | ((with_reducible refine hQ.clr2 hP hi7 hi12 ?_ ?_); simp only [List.all]; exact rfl)
    | ((with_reducible refine hQ.clr2 hP hi7 hi13 ?_ ?_); simp only [List.all]; exact rfl)
    | ((with_reducible refine hQ.clr2 hP hi7 hi14 ?_ ?_); simp only [List.all]; exact rfl)
    | ((with_reducible refine hQ.clr2 hP hi7 hi15 ?_ ?_); simp only [List.all]; exact rfl)
    | ((with_reducible refine hQ.clr2 hP hi7 hi16 ?_ ?_); simp only [List.all]; exact rfl)
    | ((with_reducible refine hQ.clr2 hP hi7 hi17 ?_ ?_); simp only [List.all]; exact rfl)
    | ((with_reducible refine hQ.clr2 hP hi7 hi18 ?_ ?_); simp only [List.all]; exact rfl)
    | ((with_reducible refine hQ.clr2 hP hi7 hi19 ?_ ?_); simp only [List.all]; exact rfl)
    | ((with_reducible refine hQ.clr2 hP hi7 hi20 ?_ ?_); simp only [List.all]; exact rfl)
    | ((with_reducible refine hQ.clr2 hP hi7 hi21 ?_ ?_); simp only [List.all]; exact rfl)
    | ((with_reducible refine hQ.clr2 hP hi7 hi22 ?_ ?_); simp only [List.all]; exact rfl)
    | ((with_reducible refine hQ.clr2 hP hi8 hi9 ?_ ?_); simp only [List.all]; exact rfl)
    | ((with_reducible refine hQ.clr2 hP hi8 hi10 ?_ ?_); simp only [List.all]; exact rfl)
    | ((with_reducible refine hQ.clr2 hP hi8 hi11 ?_ ?_); simp only [List.all]; exact rfl)
    | ((with_reducible refine hQ.clr2 hP hi8 hi12 ?_ ?_); simp only [List.all]; exact rfl)
    | ((with_reducible refine hQ.clr2 hP hi8 hi13 ?_ ?_); simp only [List.all]; exact rfl)
    | ((with_reducible refine hQ.clr2 hP hi8 hi14 ?_ ?_); simp only [List.all]; exact rfl)
    | ((with_reducible refine hQ.clr2 hP hi8 hi15 ?_ ?_); simp only [List.all]; exact rfl)
    | ((with_reducible refine hQ.clr2 hP hi8 hi16 ?_ ?_); simp only [List.all]; exact rfl)
    | ((with_reducible refine hQ.clr2 hP hi8 hi17 ?_ ?_); simp only [List.all]; exact rfl)
    | ((with_reducible refine hQ.clr2 hP hi8 hi18 ?_ ?_); simp only [List.all]; exact rfl)
    | ((with_reducible refine hQ.clr2 hP hi8 hi19 ?_ ?_); simp only [List.all]; exact rfl)
    | ((with_reducible refine hQ.clr2 hP hi8 hi20 ?_ ?_); simp only [List.all]; exact rfl)
    | ((with_reducible refine hQ.clr2 hP hi8 hi21 ?_ ?_); simp only [List.all]; exact rfl)
    | ((with_reducible refine hQ.clr2 hP hi8 hi22 ?_ ?_); simp only [List.all]; exact rfl)
    | ((with_reducible refine hQ.clr2 hP hi9 hi10 ?_ ?_); simp only [List.all]; exact rfl)
    | ((with_reducible refine hQ.clr2 hP hi9 hi11 ?_ ?_); simp only [List.all]; exact rfl)
    | ((with_reducible refine hQ.clr2 hP hi9 hi12 ?_ ?_); simp only [List.all]; exact rfl)
    | ((with_reducible refine hQ.clr2 hP hi9 hi13 ?_ ?_); simp only [List.all]; exact rfl)
    | ((with_reducible refine hQ.clr2 hP hi9 hi14 ?_ ?_); simp only [List.all]; exact rfl)
    | ((with_reducible refine hQ.clr2 hP hi9 hi15 ?_ ?_); simp only [List.all]; exact rfl)
    | ((with_reducible refine hQ.clr2 hP hi9 hi16 ?_ ?_); simp only [List.all]; exact rfl)
    | ((with_reducible refine hQ.clr2 hP hi9 hi17 ?_ ?_); simp only [List.all]; exact rfl)
    | ((with_reducible refine hQ.clr2 hP hi9 hi18 ?_ ?_); simp only [List.all]; exact rfl)
    | ((with_reducible refine hQ.clr2 hP hi9 hi19 ?_ ?_); simp only [List.all]; exact rfl)
    | ((with_reducible refine hQ.clr2 hP hi9 hi20 ?_ ?_); simp only [List.all]; exact rfl)
    | ((with_reducible refine hQ.clr2 hP hi9 hi21 ?_ ?_); simp only [List.all]; exact rfl)
    | ((with_reducible refine hQ.clr2 hP hi9 hi22 ?_ ?_); simp only [List.all]; exact rfl)
    | ((with_reducible refine hQ.clr2 hP hi10 hi11 ?_ ?_); simp only [List.all]; exact rfl)
    | ((with_reducible refine hQ.clr2 hP hi10 hi12 ?_ ?_); simp only [List.all]; exact rfl)
    | ((with_reducible refine hQ.clr2 hP hi10 hi13 ?_ ?_); simp only [List.all]; exact rfl)
    | ((with_reducible refine hQ.clr2 hP hi10 hi14 ?_ ?_); simp only [List.all]; exact rfl)
    | ((with_reducible refine hQ.clr2 hP hi10 hi15 ?_ ?_); simp only [List.all]; exact rfl)
    | ((with_reducible refine hQ.clr2 hP hi10 hi16 ?_ ?_); simp only [List.all]; exact rfl)
    | ((with_reducible refine hQ.clr2 hP hi10 hi17 ?_ ?_); simp only [List.all]; exact rfl)
    | ((with_reducible refine hQ.clr2 hP hi10 hi18 ?_ ?_); simp only [List.all]; exact rfl)
    | ((with_reducible refine hQ.clr2 hP hi10 hi19 ?_ ?_); simp only [List.all]; exact rfl)
    | ((with_reducible refine hQ.clr2 hP hi10 hi20 ?_ ?_); simp only [List.all]; exact rfl)
    | ((with_reducible refine hQ.clr2 hP hi10 hi21 ?_ ?_); simp only [List.all]; exact rfl)
    | ((with_reducible refine hQ.clr2 hP hi10 hi22 ?_ ?_); simp only [List.all]; exact rfl)
    | ((with_reducible refine hQ.clr2 hP hi11 hi12 ?_ ?_); simp only [List.all]; exact rfl)
    | ((with_reducible refine hQ.clr2 hP hi11 hi13 ?_ ?_); simp only [List.all]; exact rfl)
    | ((with_reducible refine hQ.clr2 hP hi11 hi14 ?_ ?_); simp only [List.all]; exact rfl)
    | ((with_reducible refine hQ.clr2 hP hi11 hi15 ?_ ?_); simp only [List.all]; exact rfl)
    | ((with_reducible refine hQ.clr2 hP hi11 hi16 ?_ ?_); simp only [List.all]; exact rfl)
    | ((with_reducible refine hQ.clr2 hP hi11 hi17 ?_ ?_); simp only [List.all]; exact rfl)
    | ((with_reducible refine hQ.clr2 hP hi11 hi18 ?_ ?_); simp only [List.all]; exact rfl)
    | ((with_reducible refine hQ.clr2 hP hi11 hi19 ?_ ?_); simp only [List.all]; exact rfl)
    | ((with_reducible refine hQ.clr2 hP hi11 hi20 ?_ ?_); simp only [List.all]; exact rfl)
    | ((with_reducible refine hQ.clr2 hP hi11 hi21 ?_ ?_); simp only [List.all]; exact rfl)
    | ((with_reducible refine hQ.clr2 hP hi11 hi22 ?_ ?_); simp only [List.all]; exact rfl)
    | ((with_reducible refine hQ.clr2 hP hi12 hi13 ?_ ?_); simp only [List.all]; exact rfl)
    | ((with_reducible refine hQ.clr2 hP hi12 hi14 ?_ ?_); simp only [List.all]; exact rfl)
    | ((with_reducible refine hQ.clr2 hP hi12 hi15 ?_ ?_); simp only [List.all]; exact rfl)
    | ((with_reducible refine hQ.clr2 hP hi12 hi16 ?_ ?_); simp only [List.all]; exact rfl)
    | ((with_reducible refine hQ.clr2 hP hi12 hi17 ?_ ?_); simp only [List.all]; exact rfl)
    | ((with_reducible refine hQ.clr2 hP hi12 hi18 ?_ ?_); simp only [List.all]; exact rfl)
    | ((with_reducible refine hQ.clr2 hP hi12 hi19 ?_ ?_); simp only [List.all]; exact rfl)
    | ((with_reducible refine hQ.clr2 hP hi12 hi20 ?_ ?_); simp only [List.all]; exact rfl)
    | ((with_reducible refine hQ.clr2 hP hi12 hi21 ?_ ?_); simp only [List.all]; exact rfl)
    | ((with_reducible refine hQ.clr2 hP hi12 hi22 ?_ ?_); simp only [List.all]; exact rfl)
    | ((with_reducible refine hQ.clr2 hP hi13 hi14 ?_ ?_); simp only [List.all]; exact rfl)
    | ((with_reducible refine hQ.clr2 hP hi13 hi15 ?_ ?_); simp only [List.all]; exact rfl)
    | ((with_reducible refine hQ.clr2 hP hi13 hi16 ?_ ?_); simp only [List.all]; exact rfl)
    | ((with_reducible refine hQ.clr2 hP hi13 hi17 ?_ ?_); simp only [List.all]; exact rfl)
    | ((with_reducible refine hQ.clr2 hP hi13 hi18 ?_ ?_); simp only [List.all]; exact rfl)
    | ((with_reducible refine hQ.clr2 hP hi13 hi19 ?_ ?_); simp only [List.all]; exact rfl)
    | ((with_reducible refine hQ.clr2 hP hi13 hi20 ?_ ?_); simp only [List.all]; exact rfl)
    | ((with_reducible refine hQ.clr2 hP hi13 hi21 ?_ ?_); simp only [List.all]; exact rfl)
    | ((with_reducible refine hQ.clr2 hP hi13 hi22 ?_ ?_); simp only [List.all]; exact rfl)
    | ((with_reducible refine hQ.clr2 hP hi14 hi15 ?_ ?_); simp only [List.all]; exact rfl)
    | ((with_reducible refine hQ.clr2 hP hi14 hi16 ?_ ?_); simp only [List.all]; exact rfl)
    | ((with_reducible refine hQ.clr2 hP hi14 hi17 ?_ ?_); simp only [List.all]; exact rfl)
    | ((with_reducible refine hQ.clr2 hP hi14 hi18 ?_ ?_); simp only [List.all]; exact rfl)
    | ((with_reducible refine hQ.clr2 hP hi14 hi19 ?_ ?_); simp only [List.all]; exact rfl)
    | ((with_reducible refine hQ.clr2 hP hi14 hi20 ?_ ?_); simp only [List.all]; exact rfl)
    | ((with_reducible refine hQ.clr2 hP hi14 hi21 ?_ ?_); simp only [List.all]; exact rfl)
    | ((with_reducible refine hQ.clr2 hP hi14 hi22 ?_ ?_); simp only [List.all]; exact rfl)
    | ((with_reducible refine hQ.clr2 hP hi15 hi16 ?_ ?_); simp only [List.all]; exact rfl)
    | ((with_reducible refine hQ.clr2 hP hi15 hi17 ?_ ?_); simp only [List.all]; exact rfl)
    | ((with_reducible refine hQ.clr2 hP hi15 hi18 ?_ ?_); simp only [List.all]; exact rfl)
    | ((with_reducible refine hQ.clr2 hP hi15 hi19 ?_ ?_); simp only [List.all]; exact rfl)
    | ((with_reducible refine hQ.clr2 hP hi15 hi20 ?_ ?_); simp only [List.all]; exact rfl)
    | ((with_reducible refine hQ.clr2 hP hi15 hi21 ?_ ?_); simp only [List.all]; exact rfl)
    | ((with_reducible refine hQ.clr2 hP hi15 hi22 ?_ ?_); simp only [List.all]; exact rfl)
    | ((with_reducible refine hQ.clr2 hP hi16 hi17 ?_ ?_); simp only [List.all]; exact rfl)
    | ((with_reducible refine hQ.clr2 hP hi16 hi18 ?_ ?_); simp only [List.all]; exact rfl)
    | ((with_reducible refine hQ.clr2 hP hi16 hi19 ?_ ?_); simp only [List.all]; exact rfl)
    | ((with_reducible refine hQ.clr2 hP hi16 hi20 ?_ ?_); simp only [List.all]; exact rfl)
    | ((with_reducible refine hQ.clr2 hP hi16 hi21 ?_ ?_); simp only [List.all]; exact rfl)
    | ((with_reducible refine hQ.clr2 hP hi16 hi22 ?_ ?_); simp only [List.all]; exact rfl)
    | ((with_reducible refine hQ.clr2 hP hi17 hi18 ?_ ?_); simp only [List.all]; exact rfl)
    | ((with_reducible refine hQ.clr2 hP hi17 hi19 ?_ ?_); simp only [List.all]; exact rfl)
    | ((with_reducible refine hQ.clr2 hP hi17 hi20 ?_ ?_); simp only [List.all]; exact rfl)
    | ((with_reducible refine hQ.clr2 hP hi17 hi21 ?_ ?_); simp only [List.all]; exact rfl)
    | ((with_reducible refine hQ.clr2 hP hi17 hi22 ?_ ?_); simp only [List.all]; exact rfl)
    | ((with_reducible refine hQ.clr2 hP hi18 hi19 ?_ ?_); simp only [List.all]; exact rfl)
    | ((with_reducible refine hQ.clr2 hP hi18 hi20 ?_ ?_); simp only [List.all]; exact rfl)
    | ((with_reducible refine hQ.clr2 hP hi18 hi21 ?_ ?_); simp only [List.all]; exact rfl)
    | ((with_reducible refine hQ.clr2 hP hi18 hi22 ?_ ?_); simp only [List.all]; exact rfl)
    | ((with_reducible refine hQ.clr2 hP hi19 hi20 ?_ ?_); simp only [List.all]; exact rfl)
    | ((with_reducible refine hQ.clr2 hP hi19 hi21 ?_ ?_); simp only [List.all]; exact rfl)
    | ((with_reducible refine hQ.clr2 hP hi19 hi22 ?_ ?_); simp only [List.all]; exact rfl)
    | ((with_reducible refine hQ.clr2 hP hi20 hi21 ?_ ?_); simp only [List.all]; exact rfl)
    | ((with_reducible refine hQ.clr2 hP hi20 hi22 ?_ ?_); simp only [List.all]; exact rfl)
    | ((with_reducible refine hQ.clr2 hP hi21 hi22 ?_ ?_); simp only [List.all]; exact rfl)
    | ((with_reducible refine hQ.clr hP ?_ ?_); simp only [List.all]; exact rfl)
    | with_reducible refine evrTaskCnt_law hQ (hP.sub rfl) ?_ ?_
    | with_reducible refine evrChanCnt_law hQ (hP.sub rfl) ?_ ?_
    | with_reducible refine twpCntOne_law hQ (hP.sub rfl) ?_ ?_
    | with_reducible refine pbaCntOne_law hQ (hP.sub rfl) ?_ ?_
    | with_reducible refine calCnt_law hQ (hP.sub rfl) ?_
    | with_reducible refine pmuCntOne_law hQ (hP.sub rfl) ?_ ?_
    | with_reducible refine slcCnt_law hQ (hP.sub rfl) ?_
    | with_reducible refine Law.ite ?_ ?_
    | ((try lift_lets); (with_reducible intro y); (have hy : Q y := ?_); clear_value y; rotate_left; subst y)
    | ((try lift_lets); (with_reducible intro x); (try clear_value x))
    | split
    | dsimp only

theorem clearGlobal_law (hQ : Law P Q) (hP : Has P [.all .rpaStat, .grp 4, .grp 5, .grp 9, .grp 17, .grp 19, .grp 21]) {unit : Nat} {s : State}   (h0 : Q s) :
    Q (clearGlobal unit s) := by
  unfold clearGlobal
  repeat' first
    | with_reducible assumption
    | ((with_reducible refine boolGoal ?_); exact rfl)
    | ((with_reducible refine hP.inst ?_); exact rfl)
    | ((with_reducible refine hP.one _ ?_); exact rfl)
    | ((with_reducible refine hQ.clr hP ?_ ?_); simp only [List.all]; exact rfl)
    | with_reducible refine rpaStatCnt_law hQ (hP.sub rfl) ?_ ?_
    | with_reducible refine rpaDepCnt_law hQ (hP.sub rfl) ?_
    | with_reducible refine dlgCntGlobal_law hQ (hP.sub rfl) ?_
    | with_reducible refine wlkCnt_law hQ (hP.sub rfl) ?_
    | with_reducible refine evrCnt_law hQ (hP.sub rfl) ?_
    | with_reducible refine pbaCnt_law hQ (hP.sub rfl) ?_
    | with_reducible refine Law.foldl (fun _ _ _ => ?_) ?_
    | with_reducible refine Law.foldlBy Prod.snd (fun _ _ _ => ?_) ?_
    | with_reducible refine Law.foldlBy Prod.fst (fun _ _ _ => ?_) ?_
    | ((try lift_lets); (with_reducible intro y); (have hy : Q y := ?_); clear_value y; rotate_left; subst y)
    | ((try lift_lets); (with_reducible intro x); (try clear_value x))
    | split
    | dsimp only

theorem clearCauses_law (hQ : Law P Q) (hP : Has P [.all .divider, .all .ssi, .grp 3, .grp 17, .grp 21]) {unit : Nat} {arg : Nat} {i : Nat} {s : State} (hi0 : P (.one .dma i)) (hi1 : P (.one .enc i)) (hi2 : P (.one .lane i)) (hi3 : P (.one .marker i)) (hi4 : P (.one .task i)) (hi5 : P (.one .tesHead i)) (hi6 : P (.one .twPort i))  (h0 : Q s) :
    Q (clearCauses unit arg i s) := by
  unfold clearCauses
  repeat' first
    | with_reducible assumption
    | ((with_reducible refine boolGoal ?_); exact rfl)
    | ((with_reducible refine hP.inst ?_); exact rfl)
    | ((with_reducible refine hP.one _ ?_); exact rfl)
    | with_reducible refine slaEvOne_law hQ (hP.sub rfl) ?_ ?_
    | with_reducible refine pfuEvOne_law hQ (hP.sub rfl) ?_ ?_
    | with_reducible refine tesEvOne_law hQ (hP.sub rfl) ?_ ?_
    | with_reducible refine markerEvOne_law hQ (hP.sub rfl) ?_ ?_
    | with_reducible refine dmaEvOne_law hQ (hP.sub rfl) ?_ ?_
    | ((with_reducible refine hQ.wrAt hP hi0 ?_ ?_); exact rfl)
    | ((with_reducible refine hQ.wrAt hP hi1 ?_ ?_); exact rfl)
    | ((with_reducible refine hQ.wrAt hP hi2 ?_ ?_); exact rfl)
    | ((with_reducible refine hQ.wrAt hP hi3 ?_ ?_); exact rfl)
    | ((with_reducible refine hQ.wrAt hP hi4 ?_ ?_); exact rfl)
    | ((with_reducible refine hQ.wrAt hP hi5 ?_ ?_); exact rfl)
    | ((with_reducible refine hQ.wrAt hP hi6 ?_ ?_); exact rfl)
    | with_reducible refine hQ.wr hP ?_ ?_
    | with_reducible refine evrEvOne_law hQ (hP.sub rfl) ?_ ?_
    | with_reducible refine twpEvOne_law hQ (hP.sub rfl) ?_ ?_
    | with_reducible refine Law.ite ?_ ?_
    | ((try lift_lets); (with_reducible intro y); (have hy : Q y := ?_); clear_value y; rotate_left; subst y)
    | ((try lift_lets); (with_reducible intro x); (try clear_value x))
    | split
    | dsimp only

theorem clearOp_law (hQ : Law P Q) (hP : Has P [.grp 0, .grp 64, .procs, .sampled, .seq, .tokens]) {unit : Nat} {op : Nat} {x : XWord} {one : Nat → Nat → State → State} {all : State → State} {acts : Bool} {s : State}  (hf_one : ∀ a0 a1 s2_, Q s2_ → Q (one a0 a1 s2_)) (hf_all : ∀ s0_, Q s0_ → Q (all s0_)) (h0 : Q s) :
    outAll Q (clearOp unit op x one all acts s) := by
  unfold clearOp
  repeat' first
    | with_reducible assumption
    | ((with_reducible refine boolGoal ?_); exact rfl)
    | ((with_reducible refine hP.one _ ?_); exact rfl)
    | with_reducible refine seqFault_law hQ (hP.sub rfl) ?_
    | with_reducible refine xop_law hQ (hP.sub rfl) (fun _ => ?_) ?_
    | with_reducible refine hf_one _ _ _ ?_
    | with_reducible refine hf_all _ ?_
    | with_reducible refine Law.ite ?_ ?_
    | with_reducible refine resFin ?_
    | with_reducible refine resNo ?_
    | with_reducible refine resStart ?_
    | with_reducible refine resForm ?_
    | with_reducible refine resGone ?_
    | with_reducible refine resHold ?_
    | with_reducible refine iteRes ?_ ?_
    | with_reducible refine outOk ?_
    | with_reducible exact outFault
    | with_reducible refine outWithin ?_
    | with_reducible refine iteOut ?_ ?_
    | with_reducible refine Law.foldl (fun _ _ _ => ?_) ?_
    | with_reducible refine Law.foldlBy Prod.snd (fun _ _ _ => ?_) ?_
    | with_reducible refine Law.foldlBy Prod.fst (fun _ _ _ => ?_) ?_
    | ((try lift_lets); (with_reducible intro x); (try clear_value x))
    | split

theorem execCntclr_law (hQ : Law P Q) (hP : Has P [.all .chan, .all .divider, .all .dma, .all .dmc, .all .enc, .all .eslHead, .all .head, .all .hisHead, .all .lane, .all .lrp, .all .marker, .all .probe, .all .rail, .all .rclView, .all .requester, .all .rpaStat, .all .rpaUnit, .all .rtkView, .all .sampler, .all .seam, .all .ssi, .all .stream, .all .task, .all .tesHead, .all .twPort, .all .view, .all .wlkPort, .grp 0, .grp 4, .grp 5, .grp 9, .grp 11, .grp 17, .grp 18, .grp 19, .grp 21, .grp 22, .grp 24, .grp 64, .grp 65, .procs, .sampled, .seq, .tokens]) {unit : Nat} {x : XWord} {s : State}   (h0 : Q s) :
    outAll Q (execCntclr unit x s) := by
  unfold execCntclr
  repeat' first
    | with_reducible assumption
    | ((with_reducible refine boolGoal ?_); exact rfl)
    | ((with_reducible refine hP.inst ?_); exact rfl)
    | ((with_reducible refine hP.one _ ?_); exact rfl)
    | with_reducible refine clearOp_law hQ (hP.sub rfl) (fun _ _ _ _ => ?_) (fun _ _ => ?_) ?_
    | with_reducible refine clearOne_law hQ (hP.sub rfl) ?_ ?_ ?_ ?_ ?_ ?_ ?_ ?_ ?_ ?_ ?_ ?_ ?_ ?_ ?_ ?_ ?_ ?_ ?_ ?_ ?_ ?_ ?_ ?_
    | with_reducible refine clearGlobal_law hQ (hP.sub rfl) ?_
    | with_reducible refine outOk ?_
    | with_reducible exact outFault
    | with_reducible refine outWithin ?_
    | with_reducible refine iteOut ?_ ?_
    | ((try lift_lets); (with_reducible intro x); (try clear_value x))

theorem execEvclr_law (hQ : Law P Q) (hP : Has P [.all .divider, .all .dma, .all .enc, .all .lane, .all .marker, .all .ssi, .all .task, .all .tesHead, .all .twPort, .grp 0, .grp 3, .grp 17, .grp 21, .grp 64, .procs, .sampled, .seq, .tokens]) {unit : Nat} {x : XWord} {s : State}   (h0 : Q s) :
    outAll Q (execEvclr unit x s) := by
  unfold execEvclr
  repeat' first
    | with_reducible assumption
    | ((with_reducible refine boolGoal ?_); exact rfl)
    | ((with_reducible refine hP.inst ?_); exact rfl)
    | ((with_reducible refine hP.one _ ?_); exact rfl)
    | with_reducible refine clearOp_law hQ (hP.sub rfl) (fun _ _ _ _ => ?_) (fun _ _ => ?_) ?_
    | with_reducible refine clearCauses_law hQ (hP.sub rfl) ?_ ?_ ?_ ?_ ?_ ?_ ?_ ?_
    | with_reducible refine outOk ?_
    | with_reducible exact outFault
    | with_reducible refine outWithin ?_
    | with_reducible refine iteOut ?_ ?_
    | ((try lift_lets); (with_reducible intro x); (try clear_value x))
    | with_reducible exact idLaw ‹_›

end Sys2Proof.Machine
end

