-- ==== Sys2Proof/Laws/Vector.lean ====
section
/-!
SUPPORT. What each function of Machine/Vector.lean can change: every law of the parts it names survives it.
-/
namespace Sys2Proof.Machine

variable {P : Part → Prop} {Q : State → Prop}

theorem velem_law (hQ : Law P Q) (hP : Has P [.all .head, .all .lrp, .grp 0, .grp 9, .grp 64, .gaps, .heads, .held, .mem, .poison, .power, .procs, .progress, .rpa, .sampled, .seq, .sump, .tokens]) {u : Nat} {w : IWord} {fm : Form} {f : Proc → Nat → Nat × Bool} {s : State}   (h0 : Q s) :
    outAll Q (velem u w fm f s) := by
  unfold velem
  repeat' first
    | with_reducible assumption
    | ((with_reducible refine boolGoal ?_); exact rfl)
    | ((with_reducible refine hP.inst ?_); exact rfl)
    | ((with_reducible refine hP.one _ ?_); exact rfl)
    | with_reducible refine instr_law hQ (hP.sub rfl) (fun _ _ _ _ => ?_) ?_
    | with_reducible refine setProc_law hQ (hP.sub rfl) ?_
    | with_reducible refine evt_law hQ (hP.sub rfl) ?_
    | with_reducible refine excPair ?_
    | with_reducible refine excState ?_
    | with_reducible exact excError
    | with_reducible refine iteExc ?_ ?_
    | with_reducible refine outOk ?_
    | with_reducible exact outFault
    | with_reducible refine outWithin ?_
    | with_reducible refine iteOut ?_ ?_
    | ((try lift_lets); (with_reducible intro y); (have hy : Q y := ?_); clear_value y; rotate_left; subst y)
    | ((try lift_lets); (with_reducible intro y); (have hy : Q y.1 := ?_); clear_value y; rotate_left; subst y)
    | ((try lift_lets); (with_reducible intro x); (try clear_value x))
    | dsimp only

theorem vbin_law (hQ : Law P Q) (hP : Has P [.all .head, .all .lrp, .grp 0, .grp 9, .grp 64, .gaps, .heads, .held, .mem, .poison, .power, .procs, .progress, .rpa, .sampled, .seq, .sump, .tokens]) {mask : Nat} {tys : List Nat} {f : IWord → Int → Int → Int} {u : Nat} {w : IWord} {s : State}   (h0 : Q s) :
    outAll Q (vbin mask tys f u w s) := by
  unfold vbin
  repeat' first
    | with_reducible assumption
    | ((with_reducible refine boolGoal ?_); exact rfl)
    | ((with_reducible refine hP.inst ?_); exact rfl)
    | ((with_reducible refine hP.one _ ?_); exact rfl)
    | with_reducible refine velem_law hQ (hP.sub rfl) ?_
    | with_reducible refine outOk ?_
    | with_reducible exact outFault
    | with_reducible refine outWithin ?_
    | with_reducible refine iteOut ?_ ?_
    | ((try lift_lets); (with_reducible intro x); (try clear_value x))

theorem execVadd_law (hQ : Law P Q) (hP : Has P [.all .head, .all .lrp, .grp 0, .grp 9, .grp 64, .gaps, .heads, .held, .mem, .poison, .power, .procs, .progress, .rpa, .sampled, .seq, .sump, .tokens]) {u : Nat} {w : IWord} {s : State}   (h0 : Q s) :
    outAll Q (execVadd u w s) := by
  unfold execVadd
  repeat' first
    | with_reducible assumption
    | ((with_reducible refine boolGoal ?_); exact rfl)
    | ((with_reducible refine hP.inst ?_); exact rfl)
    | ((with_reducible refine hP.one _ ?_); exact rfl)
    | with_reducible refine vbin_law hQ (hP.sub rfl) ?_
    | with_reducible refine outOk ?_
    | with_reducible exact outFault
    | with_reducible refine outWithin ?_
    | with_reducible refine iteOut ?_ ?_
    | ((try lift_lets); (with_reducible intro x); (try clear_value x))

theorem execVsub_law (hQ : Law P Q) (hP : Has P [.all .head, .all .lrp, .grp 0, .grp 9, .grp 64, .gaps, .heads, .held, .mem, .poison, .power, .procs, .progress, .rpa, .sampled, .seq, .sump, .tokens]) {u : Nat} {w : IWord} {s : State}   (h0 : Q s) :
    outAll Q (execVsub u w s) := by
  unfold execVsub
  repeat' first
    | with_reducible assumption
    | ((with_reducible refine boolGoal ?_); exact rfl)
    | ((with_reducible refine hP.inst ?_); exact rfl)
    | ((with_reducible refine hP.one _ ?_); exact rfl)
    | with_reducible refine vbin_law hQ (hP.sub rfl) ?_
    | with_reducible refine outOk ?_
    | with_reducible exact outFault
    | with_reducible refine outWithin ?_
    | with_reducible refine iteOut ?_ ?_
    | ((try lift_lets); (with_reducible intro x); (try clear_value x))

theorem execVabsd_law (hQ : Law P Q) (hP : Has P [.all .head, .all .lrp, .grp 0, .grp 9, .grp 64, .gaps, .heads, .held, .mem, .poison, .power, .procs, .progress, .rpa, .sampled, .seq, .sump, .tokens]) {u : Nat} {w : IWord} {s : State}   (h0 : Q s) :
    outAll Q (execVabsd u w s) := by
  unfold execVabsd
  repeat' first
    | with_reducible assumption
    | ((with_reducible refine boolGoal ?_); exact rfl)
    | ((with_reducible refine hP.inst ?_); exact rfl)
    | ((with_reducible refine hP.one _ ?_); exact rfl)
    | with_reducible refine vbin_law hQ (hP.sub rfl) ?_
    | with_reducible refine outOk ?_
    | with_reducible exact outFault
    | with_reducible refine outWithin ?_
    | with_reducible refine iteOut ?_ ?_
    | ((try lift_lets); (with_reducible intro x); (try clear_value x))

theorem execVmin_law (hQ : Law P Q) (hP : Has P [.all .head, .all .lrp, .grp 0, .grp 9, .grp 64, .gaps, .heads, .held, .mem, .poison, .power, .procs, .progress, .rpa, .sampled, .seq, .sump, .tokens]) {u : Nat} {w : IWord} {s : State}   (h0 : Q s) :
    outAll Q (execVmin u w s) := by
  unfold execVmin
  repeat' first
    | with_reducible assumption
    | ((with_reducible refine boolGoal ?_); exact rfl)
    | ((with_reducible refine hP.inst ?_); exact rfl)
    | ((with_reducible refine hP.one _ ?_); exact rfl)
    | with_reducible refine vbin_law hQ (hP.sub rfl) ?_
    | with_reducible refine outOk ?_
    | with_reducible exact outFault
    | with_reducible refine outWithin ?_
    | with_reducible refine iteOut ?_ ?_
    | ((try lift_lets); (with_reducible intro x); (try clear_value x))

theorem execVmax_law (hQ : Law P Q) (hP : Has P [.all .head, .all .lrp, .grp 0, .grp 9, .grp 64, .gaps, .heads, .held, .mem, .poison, .power, .procs, .progress, .rpa, .sampled, .seq, .sump, .tokens]) {u : Nat} {w : IWord} {s : State}   (h0 : Q s) :
    outAll Q (execVmax u w s) := by
  unfold execVmax
  repeat' first
    | with_reducible assumption
    | ((with_reducible refine boolGoal ?_); exact rfl)
    | ((with_reducible refine hP.inst ?_); exact rfl)
    | ((with_reducible refine hP.one _ ?_); exact rfl)
    | with_reducible refine vbin_law hQ (hP.sub rfl) ?_
    | with_reducible refine outOk ?_
    | with_reducible exact outFault
    | with_reducible refine outWithin ?_
    | with_reducible refine iteOut ?_ ?_
    | ((try lift_lets); (with_reducible intro x); (try clear_value x))

theorem vbit_law (hQ : Law P Q) (hP : Has P [.all .head, .all .lrp, .grp 0, .grp 9, .grp 64, .gaps, .heads, .held, .mem, .poison, .power, .procs, .progress, .rpa, .sampled, .seq, .sump, .tokens]) {f : Nat → Nat → Nat} {u : Nat} {w : IWord} {s : State}   (h0 : Q s) :
    outAll Q (vbit f u w s) := by
  unfold vbit
  repeat' first
    | with_reducible assumption
    | ((with_reducible refine boolGoal ?_); exact rfl)
    | ((with_reducible refine hP.inst ?_); exact rfl)
    | ((with_reducible refine hP.one _ ?_); exact rfl)
    | with_reducible refine velem_law hQ (hP.sub rfl) ?_
    | with_reducible refine outOk ?_
    | with_reducible exact outFault
    | with_reducible refine outWithin ?_
    | with_reducible refine iteOut ?_ ?_
    | ((try lift_lets); (with_reducible intro x); (try clear_value x))

theorem execVand_law (hQ : Law P Q) (hP : Has P [.all .head, .all .lrp, .grp 0, .grp 9, .grp 64, .gaps, .heads, .held, .mem, .poison, .power, .procs, .progress, .rpa, .sampled, .seq, .sump, .tokens]) {u : Nat} {w : IWord} {s : State}   (h0 : Q s) :
    outAll Q (execVand u w s) := by
  unfold execVand
  repeat' first
    | with_reducible assumption
    | ((with_reducible refine boolGoal ?_); exact rfl)
    | ((with_reducible refine hP.inst ?_); exact rfl)
    | ((with_reducible refine hP.one _ ?_); exact rfl)
    | with_reducible refine vbit_law hQ (hP.sub rfl) ?_
    | with_reducible refine outOk ?_
    | with_reducible exact outFault
    | with_reducible refine outWithin ?_
    | with_reducible refine iteOut ?_ ?_

theorem execVor_law (hQ : Law P Q) (hP : Has P [.all .head, .all .lrp, .grp 0, .grp 9, .grp 64, .gaps, .heads, .held, .mem, .poison, .power, .procs, .progress, .rpa, .sampled, .seq, .sump, .tokens]) {u : Nat} {w : IWord} {s : State}   (h0 : Q s) :
    outAll Q (execVor u w s) := by
  unfold execVor
  repeat' first
    | with_reducible assumption
    | ((with_reducible refine boolGoal ?_); exact rfl)
    | ((with_reducible refine hP.inst ?_); exact rfl)
    | ((with_reducible refine hP.one _ ?_); exact rfl)
    | with_reducible refine vbit_law hQ (hP.sub rfl) ?_
    | with_reducible refine outOk ?_
    | with_reducible exact outFault
    | with_reducible refine outWithin ?_
    | with_reducible refine iteOut ?_ ?_

theorem execVxor_law (hQ : Law P Q) (hP : Has P [.all .head, .all .lrp, .grp 0, .grp 9, .grp 64, .gaps, .heads, .held, .mem, .poison, .power, .procs, .progress, .rpa, .sampled, .seq, .sump, .tokens]) {u : Nat} {w : IWord} {s : State}   (h0 : Q s) :
    outAll Q (execVxor u w s) := by
  unfold execVxor
  repeat' first
    | with_reducible assumption
    | ((with_reducible refine boolGoal ?_); exact rfl)
    | ((with_reducible refine hP.inst ?_); exact rfl)
    | ((with_reducible refine hP.one _ ?_); exact rfl)
    | with_reducible refine vbit_law hQ (hP.sub rfl) ?_
    | with_reducible refine outOk ?_
    | with_reducible exact outFault
    | with_reducible refine outWithin ?_
    | with_reducible refine iteOut ?_ ?_

theorem execVshl_law (hQ : Law P Q) (hP : Has P [.all .head, .all .lrp, .grp 0, .grp 9, .grp 64, .gaps, .heads, .held, .mem, .poison, .power, .procs, .progress, .rpa, .sampled, .seq, .sump, .tokens]) {u : Nat} {w : IWord} {s : State}   (h0 : Q s) :
    outAll Q (execVshl u w s) := by
  unfold execVshl
  repeat' first
    | with_reducible assumption
    | ((with_reducible refine boolGoal ?_); exact rfl)
    | ((with_reducible refine hP.inst ?_); exact rfl)
    | ((with_reducible refine hP.one _ ?_); exact rfl)
    | with_reducible refine vbin_law hQ (hP.sub rfl) ?_
    | with_reducible refine outOk ?_
    | with_reducible exact outFault
    | with_reducible refine outWithin ?_
    | with_reducible refine iteOut ?_ ?_
    | ((try lift_lets); (with_reducible intro x); (try clear_value x))

theorem execVshr_law (hQ : Law P Q) (hP : Has P [.all .head, .all .lrp, .grp 0, .grp 9, .grp 64, .gaps, .heads, .held, .mem, .poison, .power, .procs, .progress, .rpa, .sampled, .seq, .sump, .tokens]) {u : Nat} {w : IWord} {s : State}   (h0 : Q s) :
    outAll Q (execVshr u w s) := by
  unfold execVshr
  repeat' first
    | with_reducible assumption
    | ((with_reducible refine boolGoal ?_); exact rfl)
    | ((with_reducible refine hP.inst ?_); exact rfl)
    | ((with_reducible refine hP.one _ ?_); exact rfl)
    | with_reducible refine vbin_law hQ (hP.sub rfl) ?_
    | with_reducible refine outOk ?_
    | with_reducible exact outFault
    | with_reducible refine outWithin ?_
    | with_reducible refine iteOut ?_ ?_
    | ((try lift_lets); (with_reducible intro x); (try clear_value x))

theorem execVrshr_law (hQ : Law P Q) (hP : Has P [.all .head, .all .lrp, .grp 0, .grp 9, .grp 64, .gaps, .heads, .held, .mem, .poison, .power, .procs, .progress, .rpa, .sampled, .seq, .sump, .tokens]) {u : Nat} {w : IWord} {s : State}   (h0 : Q s) :
    outAll Q (execVrshr u w s) := by
  unfold execVrshr
  repeat' first
    | with_reducible assumption
    | ((with_reducible refine boolGoal ?_); exact rfl)
    | ((with_reducible refine hP.inst ?_); exact rfl)
    | ((with_reducible refine hP.one _ ?_); exact rfl)
    | with_reducible refine vbin_law hQ (hP.sub rfl) ?_
    | with_reducible refine outOk ?_
    | with_reducible exact outFault
    | with_reducible refine outWithin ?_
    | with_reducible refine iteOut ?_ ?_
    | ((try lift_lets); (with_reducible intro x); (try clear_value x))

theorem execVmul_law (hQ : Law P Q) (hP : Has P [.all .head, .all .lrp, .grp 0, .grp 9, .grp 64, .gaps, .heads, .held, .mem, .poison, .power, .procs, .progress, .rpa, .sampled, .seq, .sump, .tokens]) {u : Nat} {w : IWord} {s : State}   (h0 : Q s) :
    outAll Q (execVmul u w s) := by
  unfold execVmul
  repeat' first
    | with_reducible assumption
    | ((with_reducible refine boolGoal ?_); exact rfl)
    | ((with_reducible refine hP.inst ?_); exact rfl)
    | ((with_reducible refine hP.one _ ?_); exact rfl)
    | with_reducible refine vbin_law hQ (hP.sub rfl) ?_
    | with_reducible refine outOk ?_
    | with_reducible exact outFault
    | with_reducible refine outWithin ?_
    | with_reducible refine iteOut ?_ ?_
    | ((try lift_lets); (with_reducible intro x); (try clear_value x))

theorem execVmulsh_law (hQ : Law P Q) (hP : Has P [.all .head, .all .lrp, .grp 0, .grp 9, .grp 64, .gaps, .heads, .held, .mem, .poison, .power, .procs, .progress, .rpa, .sampled, .seq, .sump, .tokens]) {u : Nat} {w : IWord} {s : State}   (h0 : Q s) :
    outAll Q (execVmulsh u w s) := by
  unfold execVmulsh
  repeat' first
    | with_reducible assumption
    | ((with_reducible refine boolGoal ?_); exact rfl)
    | ((with_reducible refine hP.inst ?_); exact rfl)
    | ((with_reducible refine hP.one _ ?_); exact rfl)
    | with_reducible refine vbin_law hQ (hP.sub rfl) ?_
    | with_reducible refine outOk ?_
    | with_reducible exact outFault
    | with_reducible refine outWithin ?_
    | with_reducible refine iteOut ?_ ?_

theorem execVmac_law (hQ : Law P Q) (hP : Has P [.all .head, .all .lrp, .grp 0, .grp 9, .grp 64, .gaps, .heads, .held, .mem, .poison, .power, .procs, .progress, .rpa, .sampled, .seq, .sump, .tokens]) {u : Nat} {w : IWord} {s : State}   (h0 : Q s) :
    outAll Q (execVmac u w s) := by
  unfold execVmac
  repeat' first
    | with_reducible assumption
    | ((with_reducible refine boolGoal ?_); exact rfl)
    | ((with_reducible refine hP.inst ?_); exact rfl)
    | ((with_reducible refine hP.one _ ?_); exact rfl)
    | with_reducible refine velem_law hQ (hP.sub rfl) ?_
    | with_reducible refine outOk ?_
    | with_reducible exact outFault
    | with_reducible refine outWithin ?_
    | with_reducible refine iteOut ?_ ?_
    | ((try lift_lets); (with_reducible intro y); (have hy : Q y := ?_); clear_value y; rotate_left; subst y)
    | ((try lift_lets); (with_reducible intro x); (try clear_value x))

theorem execVlerp_law (hQ : Law P Q) (hP : Has P [.all .head, .all .lrp, .grp 0, .grp 9, .grp 64, .gaps, .heads, .held, .mem, .poison, .power, .procs, .progress, .rpa, .sampled, .seq, .sump, .tokens]) {u : Nat} {w : IWord} {s : State}   (h0 : Q s) :
    outAll Q (execVlerp u w s) := by
  unfold execVlerp
  repeat' first
    | with_reducible assumption
    | ((with_reducible refine boolGoal ?_); exact rfl)
    | ((with_reducible refine hP.inst ?_); exact rfl)
    | ((with_reducible refine hP.one _ ?_); exact rfl)
    | with_reducible refine vbin_law hQ (hP.sub rfl) ?_
    | with_reducible refine outOk ?_
    | with_reducible exact outFault
    | with_reducible refine outWithin ?_
    | with_reducible refine iteOut ?_ ?_
    | ((try lift_lets); (with_reducible intro x); (try clear_value x))

theorem vcmp_law (hQ : Law P Q) (hP : Has P [.all .head, .all .lrp, .grp 0, .grp 9, .grp 64, .gaps, .heads, .held, .mem, .poison, .power, .procs, .progress, .rpa, .sampled, .seq, .sump, .tokens]) {f : Int → Int → Bool} {u : Nat} {w : IWord} {s : State}   (h0 : Q s) :
    outAll Q (vcmp f u w s) := by
  unfold vcmp
  repeat' first
    | with_reducible assumption
    | ((with_reducible refine boolGoal ?_); exact rfl)
    | ((with_reducible refine hP.inst ?_); exact rfl)
    | ((with_reducible refine hP.one _ ?_); exact rfl)
    | with_reducible refine instr_law hQ (hP.sub rfl) (fun _ _ _ _ => ?_) ?_
    | with_reducible refine plain_law hQ (hP.sub rfl) ?_
    | with_reducible refine excGet (by with_reducible assumption) ?_
    | with_reducible refine Law.ite ?_ ?_
    | with_reducible refine excPair ?_
    | with_reducible refine excState ?_
    | with_reducible exact excError
    | with_reducible refine iteExc ?_ ?_
    | with_reducible refine outOk ?_
    | with_reducible exact outFault
    | with_reducible refine outWithin ?_
    | with_reducible refine iteOut ?_ ?_
    | ((try lift_lets); (with_reducible intro y); (have hy : Q y := ?_); clear_value y; rotate_left; subst y)
    | ((try lift_lets); (with_reducible intro y); (have hy : Q y.1 := ?_); clear_value y; rotate_left; subst y)
    | ((try lift_lets); (with_reducible intro x); (try clear_value x))
    | split

theorem execVcmpeq_law (hQ : Law P Q) (hP : Has P [.all .head, .all .lrp, .grp 0, .grp 9, .grp 64, .gaps, .heads, .held, .mem, .poison, .power, .procs, .progress, .rpa, .sampled, .seq, .sump, .tokens]) {u : Nat} {w : IWord} {s : State}   (h0 : Q s) :
    outAll Q (execVcmpeq u w s) := by
  unfold execVcmpeq
  repeat' first
    | with_reducible assumption
    | ((with_reducible refine boolGoal ?_); exact rfl)
    | ((with_reducible refine hP.inst ?_); exact rfl)
    | ((with_reducible refine hP.one _ ?_); exact rfl)
    | with_reducible refine vcmp_law hQ (hP.sub rfl) ?_
    | with_reducible refine outOk ?_
    | with_reducible exact outFault
    | with_reducible refine outWithin ?_
    | with_reducible refine iteOut ?_ ?_
    | ((try lift_lets); (with_reducible intro x); (try clear_value x))

theorem execVcmpne_law (hQ : Law P Q) (hP : Has P [.all .head, .all .lrp, .grp 0, .grp 9, .grp 64, .gaps, .heads, .held, .mem, .poison, .power, .procs, .progress, .rpa, .sampled, .seq, .sump, .tokens]) {u : Nat} {w : IWord} {s : State}   (h0 : Q s) :
    outAll Q (execVcmpne u w s) := by
  unfold execVcmpne
  repeat' first
    | with_reducible assumption
    | ((with_reducible refine boolGoal ?_); exact rfl)
    | ((with_reducible refine hP.inst ?_); exact rfl)
    | ((with_reducible refine hP.one _ ?_); exact rfl)
    | with_reducible refine vcmp_law hQ (hP.sub rfl) ?_
    | with_reducible refine outOk ?_
    | with_reducible exact outFault
    | with_reducible refine outWithin ?_
    | with_reducible refine iteOut ?_ ?_
    | ((try lift_lets); (with_reducible intro x); (try clear_value x))

theorem execVcmplt_law (hQ : Law P Q) (hP : Has P [.all .head, .all .lrp, .grp 0, .grp 9, .grp 64, .gaps, .heads, .held, .mem, .poison, .power, .procs, .progress, .rpa, .sampled, .seq, .sump, .tokens]) {u : Nat} {w : IWord} {s : State}   (h0 : Q s) :
    outAll Q (execVcmplt u w s) := by
  unfold execVcmplt
  repeat' first
    | with_reducible assumption
    | ((with_reducible refine boolGoal ?_); exact rfl)
    | ((with_reducible refine hP.inst ?_); exact rfl)
    | ((with_reducible refine hP.one _ ?_); exact rfl)
    | with_reducible refine vcmp_law hQ (hP.sub rfl) ?_
    | with_reducible refine outOk ?_
    | with_reducible exact outFault
    | with_reducible refine outWithin ?_
    | with_reducible refine iteOut ?_ ?_
    | ((try lift_lets); (with_reducible intro x); (try clear_value x))

theorem execVcmple_law (hQ : Law P Q) (hP : Has P [.all .head, .all .lrp, .grp 0, .grp 9, .grp 64, .gaps, .heads, .held, .mem, .poison, .power, .procs, .progress, .rpa, .sampled, .seq, .sump, .tokens]) {u : Nat} {w : IWord} {s : State}   (h0 : Q s) :
    outAll Q (execVcmple u w s) := by
  unfold execVcmple
  repeat' first
    | with_reducible assumption
    | ((with_reducible refine boolGoal ?_); exact rfl)
    | ((with_reducible refine hP.inst ?_); exact rfl)
    | ((with_reducible refine hP.one _ ?_); exact rfl)
    | with_reducible refine vcmp_law hQ (hP.sub rfl) ?_
    | with_reducible refine outOk ?_
    | with_reducible exact outFault
    | with_reducible refine outWithin ?_
    | with_reducible refine iteOut ?_ ?_
    | ((try lift_lets); (with_reducible intro x); (try clear_value x))

theorem execVcmpgt_law (hQ : Law P Q) (hP : Has P [.all .head, .all .lrp, .grp 0, .grp 9, .grp 64, .gaps, .heads, .held, .mem, .poison, .power, .procs, .progress, .rpa, .sampled, .seq, .sump, .tokens]) {u : Nat} {w : IWord} {s : State}   (h0 : Q s) :
    outAll Q (execVcmpgt u w s) := by
  unfold execVcmpgt
  repeat' first
    | with_reducible assumption
    | ((with_reducible refine boolGoal ?_); exact rfl)
    | ((with_reducible refine hP.inst ?_); exact rfl)
    | ((with_reducible refine hP.one _ ?_); exact rfl)
    | with_reducible refine vcmp_law hQ (hP.sub rfl) ?_
    | with_reducible refine outOk ?_
    | with_reducible exact outFault
    | with_reducible refine outWithin ?_
    | with_reducible refine iteOut ?_ ?_
    | ((try lift_lets); (with_reducible intro x); (try clear_value x))

theorem execVcmpge_law (hQ : Law P Q) (hP : Has P [.all .head, .all .lrp, .grp 0, .grp 9, .grp 64, .gaps, .heads, .held, .mem, .poison, .power, .procs, .progress, .rpa, .sampled, .seq, .sump, .tokens]) {u : Nat} {w : IWord} {s : State}   (h0 : Q s) :
    outAll Q (execVcmpge u w s) := by
  unfold execVcmpge
  repeat' first
    | with_reducible assumption
    | ((with_reducible refine boolGoal ?_); exact rfl)
    | ((with_reducible refine hP.inst ?_); exact rfl)
    | ((with_reducible refine hP.one _ ?_); exact rfl)
    | with_reducible refine vcmp_law hQ (hP.sub rfl) ?_
    | with_reducible refine outOk ?_
    | with_reducible exact outFault
    | with_reducible refine outWithin ?_
    | with_reducible refine iteOut ?_ ?_
    | ((try lift_lets); (with_reducible intro x); (try clear_value x))

theorem execVsel_law (hQ : Law P Q) (hP : Has P [.all .head, .all .lrp, .grp 0, .grp 9, .grp 64, .gaps, .heads, .held, .mem, .poison, .power, .procs, .progress, .rpa, .sampled, .seq, .sump, .tokens]) {u : Nat} {w : IWord} {s : State}   (h0 : Q s) :
    outAll Q (execVsel u w s) := by
  unfold execVsel
  repeat' first
    | with_reducible assumption
    | ((with_reducible refine boolGoal ?_); exact rfl)
    | ((with_reducible refine hP.inst ?_); exact rfl)
    | ((with_reducible refine hP.one _ ?_); exact rfl)
    | with_reducible refine instr_law hQ (hP.sub rfl) (fun _ _ _ _ => ?_) ?_
    | with_reducible refine plain_law hQ (hP.sub rfl) ?_
    | with_reducible refine excGet (by with_reducible assumption) ?_
    | with_reducible refine excPair ?_
    | with_reducible refine excState ?_
    | with_reducible exact excError
    | with_reducible refine iteExc ?_ ?_
    | with_reducible refine outOk ?_
    | with_reducible exact outFault
    | with_reducible refine outWithin ?_
    | with_reducible refine iteOut ?_ ?_
    | ((try lift_lets); (with_reducible intro x); (try clear_value x))

theorem execVmov_law (hQ : Law P Q) (hP : Has P [.all .head, .all .lrp, .grp 0, .grp 9, .grp 64, .gaps, .heads, .held, .mem, .poison, .power, .procs, .progress, .rpa, .sampled, .seq, .sump, .tokens]) {u : Nat} {w : IWord} {s : State}   (h0 : Q s) :
    outAll Q (execVmov u w s) := by
  unfold execVmov
  repeat' first
    | with_reducible assumption
    | ((with_reducible refine boolGoal ?_); exact rfl)
    | ((with_reducible refine hP.inst ?_); exact rfl)
    | ((with_reducible refine hP.one _ ?_); exact rfl)
    | with_reducible refine velem_law hQ (hP.sub rfl) ?_
    | with_reducible refine Law.ite ?_ ?_
    | with_reducible refine outOk ?_
    | with_reducible exact outFault
    | with_reducible refine outWithin ?_
    | with_reducible refine iteOut ?_ ?_
    | ((try lift_lets); (with_reducible intro x); (try clear_value x))
    | split

theorem execVwrd_law (hQ : Law P Q) (hP : Has P [.all .head, .all .lrp, .grp 0, .grp 9, .grp 64, .gaps, .heads, .held, .mem, .poison, .power, .procs, .progress, .rpa, .sampled, .seq, .sump, .tokens]) {u : Nat} {w : IWord} {s : State}   (h0 : Q s) :
    outAll Q (execVwrd u w s) := by
  unfold execVwrd
  repeat' first
    | with_reducible assumption
    | ((with_reducible refine boolGoal ?_); exact rfl)
    | ((with_reducible refine hP.inst ?_); exact rfl)
    | ((with_reducible refine hP.one _ ?_); exact rfl)
    | with_reducible refine instr_law hQ (hP.sub rfl) (fun _ _ _ _ => ?_) ?_
    | with_reducible refine plain_law hQ (hP.sub rfl) ?_
    | with_reducible refine excGet (by with_reducible assumption) ?_
    | with_reducible refine excPair ?_
    | with_reducible refine excState ?_
    | with_reducible exact excError
    | with_reducible refine iteExc ?_ ?_
    | with_reducible refine outOk ?_
    | with_reducible exact outFault
    | with_reducible refine outWithin ?_
    | with_reducible refine iteOut ?_ ?_
    | ((try lift_lets); (with_reducible intro x); (try clear_value x))

theorem execVcsh_law (hQ : Law P Q) (hP : Has P [.all .head, .all .lrp, .grp 0, .grp 9, .grp 64, .gaps, .heads, .held, .mem, .poison, .power, .procs, .progress, .rpa, .sampled, .seq, .sump, .tokens]) {u : Nat} {w : IWord} {s : State}   (h0 : Q s) :
    outAll Q (execVcsh u w s) := by
  unfold execVcsh
  repeat' first
    | with_reducible assumption
    | ((with_reducible refine boolGoal ?_); exact rfl)
    | ((with_reducible refine hP.inst ?_); exact rfl)
    | ((with_reducible refine hP.one _ ?_); exact rfl)
    | with_reducible refine instr_law hQ (hP.sub rfl) (fun _ _ _ _ => ?_) ?_
    | with_reducible refine setProc_law hQ (hP.sub rfl) ?_
    | with_reducible refine excPair ?_
    | with_reducible refine excState ?_
    | with_reducible exact excError
    | with_reducible refine iteExc ?_ ?_
    | with_reducible refine outOk ?_
    | with_reducible exact outFault
    | with_reducible refine outWithin ?_
    | with_reducible refine iteOut ?_ ?_
    | ((try lift_lets); (with_reducible intro y); (have hy : Q y := ?_); clear_value y; rotate_left; subst y)
    | ((try lift_lets); (with_reducible intro y); (have hy : Q y.1 := ?_); clear_value y; rotate_left; subst y)
    | ((try lift_lets); (with_reducible intro x); (try clear_value x))

theorem execVwiden_law (hQ : Law P Q) (hP : Has P [.all .head, .all .lrp, .grp 0, .grp 9, .grp 64, .gaps, .heads, .held, .mem, .poison, .power, .procs, .progress, .rpa, .sampled, .seq, .sump, .tokens]) {u : Nat} {w : IWord} {s : State}   (h0 : Q s) :
    outAll Q (execVwiden u w s) := by
  unfold execVwiden
  repeat' first
    | with_reducible assumption
    | ((with_reducible refine boolGoal ?_); exact rfl)
    | ((with_reducible refine hP.inst ?_); exact rfl)
    | ((with_reducible refine hP.one _ ?_); exact rfl)
    | with_reducible refine instr_law hQ (hP.sub rfl) (fun _ _ _ _ => ?_) ?_
    | with_reducible refine plain_law hQ (hP.sub rfl) ?_
    | with_reducible refine excGet (by with_reducible assumption) ?_
    | with_reducible refine excPair ?_
    | with_reducible refine excState ?_
    | with_reducible exact excError
    | with_reducible refine iteExc ?_ ?_
    | with_reducible refine outOk ?_
    | with_reducible exact outFault
    | with_reducible refine outWithin ?_
    | with_reducible refine iteOut ?_ ?_
    | ((try lift_lets); (with_reducible intro x); (try clear_value x))

theorem execVnarrow_law (hQ : Law P Q) (hP : Has P [.all .head, .all .lrp, .grp 0, .grp 9, .grp 64, .gaps, .heads, .held, .mem, .poison, .power, .procs, .progress, .rpa, .sampled, .seq, .sump, .tokens]) {u : Nat} {w : IWord} {s : State}   (h0 : Q s) :
    outAll Q (execVnarrow u w s) := by
  unfold execVnarrow
  repeat' first
    | with_reducible assumption
    | ((with_reducible refine boolGoal ?_); exact rfl)
    | ((with_reducible refine hP.inst ?_); exact rfl)
    | ((with_reducible refine hP.one _ ?_); exact rfl)
    | with_reducible refine velem_law hQ (hP.sub rfl) ?_
    | with_reducible refine Law.ite ?_ ?_
    | with_reducible refine outOk ?_
    | with_reducible exact outFault
    | with_reducible refine outWithin ?_
    | with_reducible refine iteOut ?_ ?_
    | ((try lift_lets); (with_reducible intro y); (have hy : Q y := ?_); clear_value y; rotate_left; subst y)
    | ((try lift_lets); (with_reducible intro x); (try clear_value x))
    | split

theorem execVlut_law (hQ : Law P Q) (hP : Has P [.all .head, .all .lrp, .grp 0, .grp 9, .grp 64, .gaps, .heads, .held, .mem, .poison, .power, .procs, .progress, .rpa, .sampled, .seq, .sump, .tokens]) {u : Nat} {w : IWord} {s : State}   (h0 : Q s) :
    outAll Q (execVlut u w s) := by
  unfold execVlut
  repeat' first
    | with_reducible assumption
    | ((with_reducible refine boolGoal ?_); exact rfl)
    | ((with_reducible refine hP.inst ?_); exact rfl)
    | ((with_reducible refine hP.one _ ?_); exact rfl)
    | with_reducible refine velem_law hQ (hP.sub rfl) ?_
    | with_reducible refine Law.ite ?_ ?_
    | with_reducible refine outOk ?_
    | with_reducible exact outFault
    | with_reducible refine outWithin ?_
    | with_reducible refine iteOut ?_ ?_
    | ((try lift_lets); (with_reducible intro x); (try clear_value x))
    | split

theorem execLutld_law (hQ : Law P Q) (hP : Has P [.all .head, .all .lrp, .grp 0, .grp 9, .grp 64, .gaps, .heads, .held, .mem, .poison, .power, .procs, .progress, .rpa, .sampled, .seq, .sump, .tokens]) {u : Nat} {w : IWord} {s : State}   (h0 : Q s) :
    outAll Q (execLutld u w s) := by
  unfold execLutld
  repeat' first
    | with_reducible assumption
    | ((with_reducible refine boolGoal ?_); exact rfl)
    | ((with_reducible refine hP.inst ?_); exact rfl)
    | ((with_reducible refine hP.one _ ?_); exact rfl)
    | with_reducible refine instr_law hQ (hP.sub rfl) (fun _ _ _ _ => ?_) ?_
    | with_reducible refine plain_law hQ (hP.sub rfl) ?_
    | with_reducible refine excGet (by with_reducible assumption) ?_
    | with_reducible refine excPair ?_
    | with_reducible refine excState ?_
    | with_reducible exact excError
    | with_reducible refine iteExc ?_ ?_
    | with_reducible refine outOk ?_
    | with_reducible exact outFault
    | with_reducible refine outWithin ?_
    | with_reducible refine iteOut ?_ ?_
    | ((try lift_lets); (with_reducible intro y); (have hy : Q y := ?_); clear_value y; rotate_left; subst y)
    | ((try lift_lets); (with_reducible intro x); (try clear_value x))

theorem execVhist_law (hQ : Law P Q) (hP : Has P [.all .head, .all .lrp, .grp 0, .grp 9, .grp 64, .gaps, .heads, .held, .mem, .poison, .power, .procs, .progress, .rpa, .sampled, .seq, .sump, .tokens]) {u : Nat} {w : IWord} {s : State}   (h0 : Q s) :
    outAll Q (execVhist u w s) := by
  unfold execVhist
  repeat' first
    | with_reducible assumption
    | ((with_reducible refine boolGoal ?_); exact rfl)
    | ((with_reducible refine hP.inst ?_); exact rfl)
    | ((with_reducible refine hP.one _ ?_); exact rfl)
    | with_reducible refine instr_law hQ (hP.sub rfl) (fun _ _ _ _ => ?_) ?_
    | with_reducible refine plain_law hQ (hP.sub rfl) ?_
    | with_reducible refine excGet (by with_reducible assumption) ?_
    | with_reducible refine excPair ?_
    | with_reducible refine excState ?_
    | with_reducible exact excError
    | with_reducible refine iteExc ?_ ?_
    | with_reducible refine outOk ?_
    | with_reducible exact outFault
    | with_reducible refine outWithin ?_
    | with_reducible refine iteOut ?_ ?_
    | ((try lift_lets); (with_reducible intro y); (have hy : Q y := ?_); clear_value y; rotate_left; subst y)
    | ((try lift_lets); (with_reducible intro x); (try clear_value x))

theorem execHrd_law (hQ : Law P Q) (hP : Has P [.all .head, .all .lrp, .grp 0, .grp 9, .grp 64, .gaps, .heads, .held, .mem, .poison, .power, .procs, .progress, .rpa, .sampled, .seq, .sump, .tokens]) {u : Nat} {w : IWord} {s : State}   (h0 : Q s) :
    outAll Q (execHrd u w s) := by
  unfold execHrd
  repeat' first
    | with_reducible assumption
    | ((with_reducible refine boolGoal ?_); exact rfl)
    | ((with_reducible refine hP.inst ?_); exact rfl)
    | ((with_reducible refine hP.one _ ?_); exact rfl)
    | with_reducible refine instr_law hQ (hP.sub rfl) (fun _ _ _ _ => ?_) ?_
    | with_reducible refine plain_law hQ (hP.sub rfl) ?_
    | with_reducible refine excGet (by with_reducible assumption) ?_
    | with_reducible refine excPair ?_
    | with_reducible refine excState ?_
    | with_reducible exact excError
    | with_reducible refine iteExc ?_ ?_
    | with_reducible refine outOk ?_
    | with_reducible exact outFault
    | with_reducible refine outWithin ?_
    | with_reducible refine iteOut ?_ ?_
    | ((try lift_lets); (with_reducible intro x); (try clear_value x))

theorem execHclr_law (hQ : Law P Q) (hP : Has P [.all .head, .all .lrp, .grp 0, .grp 9, .grp 64, .gaps, .heads, .held, .mem, .poison, .power, .procs, .progress, .rpa, .sampled, .seq, .sump, .tokens]) {u : Nat} {w : IWord} {s : State}   (h0 : Q s) :
    outAll Q (execHclr u w s) := by
  unfold execHclr
  repeat' first
    | with_reducible assumption
    | ((with_reducible refine boolGoal ?_); exact rfl)
    | ((with_reducible refine hP.inst ?_); exact rfl)
    | ((with_reducible refine hP.one _ ?_); exact rfl)
    | with_reducible refine instr_law hQ (hP.sub rfl) (fun _ _ _ _ => ?_) ?_
    | with_reducible refine plain_law hQ (hP.sub rfl) ?_
    | with_reducible refine excGet (by with_reducible assumption) ?_
    | with_reducible refine excPair ?_
    | with_reducible refine excState ?_
    | with_reducible exact excError
    | with_reducible refine iteExc ?_ ?_
    | with_reducible refine outOk ?_
    | with_reducible exact outFault
    | with_reducible refine outWithin ?_
    | with_reducible refine iteOut ?_ ?_
    | ((try lift_lets); (with_reducible intro y); (have hy : Q y := ?_); clear_value y; rotate_left; subst y)
    | ((try lift_lets); (with_reducible intro x); (try clear_value x))

theorem vreduce_law (hQ : Law P Q) (hP : Has P [.all .head, .all .lrp, .grp 0, .grp 9, .grp 64, .gaps, .heads, .held, .mem, .poison, .power, .procs, .progress, .rpa, .sampled, .seq, .sump, .tokens]) {f : Nat → List Int → Int} {u : Nat} {w : IWord} {s : State}   (h0 : Q s) :
    outAll Q (vreduce f u w s) := by
  unfold vreduce
  repeat' first
    | with_reducible assumption
    | ((with_reducible refine boolGoal ?_); exact rfl)
    | ((with_reducible refine hP.inst ?_); exact rfl)
    | ((with_reducible refine hP.one _ ?_); exact rfl)
    | with_reducible refine instr_law hQ (hP.sub rfl) (fun _ _ _ _ => ?_) ?_
    | with_reducible refine plain_law hQ (hP.sub rfl) ?_
    | with_reducible refine excGet (by with_reducible assumption) ?_
    | with_reducible refine excPair ?_
    | with_reducible refine excState ?_
    | with_reducible exact excError
    | with_reducible refine iteExc ?_ ?_
    | with_reducible refine outOk ?_
    | with_reducible exact outFault
    | with_reducible refine outWithin ?_
    | with_reducible refine iteOut ?_ ?_
    | ((try lift_lets); (with_reducible intro x); (try clear_value x))

theorem execVrsum_law (hQ : Law P Q) (hP : Has P [.all .head, .all .lrp, .grp 0, .grp 9, .grp 64, .gaps, .heads, .held, .mem, .poison, .power, .procs, .progress, .rpa, .sampled, .seq, .sump, .tokens]) {u : Nat} {w : IWord} {s : State}   (h0 : Q s) :
    outAll Q (execVrsum u w s) := by
  unfold execVrsum
  repeat' first
    | with_reducible assumption
    | ((with_reducible refine boolGoal ?_); exact rfl)
    | ((with_reducible refine hP.inst ?_); exact rfl)
    | ((with_reducible refine hP.one _ ?_); exact rfl)
    | with_reducible refine vreduce_law hQ (hP.sub rfl) ?_
    | with_reducible refine outOk ?_
    | with_reducible exact outFault
    | with_reducible refine outWithin ?_
    | with_reducible refine iteOut ?_ ?_
    | with_reducible refine Law.foldl (fun _ _ _ => ?_) ?_
    | with_reducible refine Law.foldlBy Prod.snd (fun _ _ _ => ?_) ?_
    | with_reducible refine Law.foldlBy Prod.fst (fun _ _ _ => ?_) ?_
    | ((try lift_lets); (with_reducible intro x); (try clear_value x))

theorem execVrmin_law (hQ : Law P Q) (hP : Has P [.all .head, .all .lrp, .grp 0, .grp 9, .grp 64, .gaps, .heads, .held, .mem, .poison, .power, .procs, .progress, .rpa, .sampled, .seq, .sump, .tokens]) {u : Nat} {w : IWord} {s : State}   (h0 : Q s) :
    outAll Q (execVrmin u w s) := by
  unfold execVrmin
  repeat' first
    | with_reducible assumption
    | ((with_reducible refine boolGoal ?_); exact rfl)
    | ((with_reducible refine hP.inst ?_); exact rfl)
    | ((with_reducible refine hP.one _ ?_); exact rfl)
    | with_reducible refine vreduce_law hQ (hP.sub rfl) ?_
    | with_reducible refine outOk ?_
    | with_reducible exact outFault
    | with_reducible refine outWithin ?_
    | with_reducible refine iteOut ?_ ?_
    | with_reducible refine Law.foldl (fun _ _ _ => ?_) ?_
    | with_reducible refine Law.foldlBy Prod.snd (fun _ _ _ => ?_) ?_
    | with_reducible refine Law.foldlBy Prod.fst (fun _ _ _ => ?_) ?_
    | ((try lift_lets); (with_reducible intro x); (try clear_value x))

theorem execVrmax_law (hQ : Law P Q) (hP : Has P [.all .head, .all .lrp, .grp 0, .grp 9, .grp 64, .gaps, .heads, .held, .mem, .poison, .power, .procs, .progress, .rpa, .sampled, .seq, .sump, .tokens]) {u : Nat} {w : IWord} {s : State}   (h0 : Q s) :
    outAll Q (execVrmax u w s) := by
  unfold execVrmax
  repeat' first
    | with_reducible assumption
    | ((with_reducible refine boolGoal ?_); exact rfl)
    | ((with_reducible refine hP.inst ?_); exact rfl)
    | ((with_reducible refine hP.one _ ?_); exact rfl)
    | with_reducible refine vreduce_law hQ (hP.sub rfl) ?_
    | with_reducible refine outOk ?_
    | with_reducible exact outFault
    | with_reducible refine outWithin ?_
    | with_reducible refine iteOut ?_ ?_
    | with_reducible refine Law.foldl (fun _ _ _ => ?_) ?_
    | with_reducible refine Law.foldlBy Prod.snd (fun _ _ _ => ?_) ?_
    | with_reducible refine Law.foldlBy Prod.fst (fun _ _ _ => ?_) ?_
    | ((try lift_lets); (with_reducible intro x); (try clear_value x))

theorem execPcnt_law (hQ : Law P Q) (hP : Has P [.all .head, .all .lrp, .grp 0, .grp 9, .grp 64, .gaps, .heads, .held, .mem, .poison, .power, .procs, .progress, .rpa, .sampled, .seq, .sump, .tokens]) {u : Nat} {w : IWord} {s : State}   (h0 : Q s) :
    outAll Q (execPcnt u w s) := by
  unfold execPcnt
  repeat' first
    | with_reducible assumption
    | ((with_reducible refine boolGoal ?_); exact rfl)
    | ((with_reducible refine hP.inst ?_); exact rfl)
    | ((with_reducible refine hP.one _ ?_); exact rfl)
    | with_reducible refine instr_law hQ (hP.sub rfl) (fun _ _ _ _ => ?_) ?_
    | with_reducible refine plain_law hQ (hP.sub rfl) ?_
    | with_reducible refine excGet (by with_reducible assumption) ?_
    | with_reducible refine excPair ?_
    | with_reducible refine excState ?_
    | with_reducible exact excError
    | with_reducible refine iteExc ?_ ?_
    | with_reducible refine outOk ?_
    | with_reducible exact outFault
    | with_reducible refine outWithin ?_
    | with_reducible refine iteOut ?_ ?_
    | ((try lift_lets); (with_reducible intro y); (have hy : Q y := ?_); clear_value y; rotate_left; subst y)
    | ((try lift_lets); (with_reducible intro y); (have hy : Q y.1 := ?_); clear_value y; rotate_left; subst y)
    | ((try lift_lets); (with_reducible intro x); (try clear_value x))

theorem pop_law (hQ : Law P Q) (hP : Has P [.all .head, .all .lrp, .grp 0, .grp 9, .grp 64, .gaps, .heads, .held, .mem, .poison, .power, .procs, .progress, .rpa, .sampled, .seq, .sump, .tokens]) {f : Pred → Pred → Pred} {u : Nat} {w : IWord} {s : State}   (h0 : Q s) :
    outAll Q (pop f u w s) := by
  unfold pop
  repeat' first
    | with_reducible assumption
    | ((with_reducible refine boolGoal ?_); exact rfl)
    | ((with_reducible refine hP.inst ?_); exact rfl)
    | ((with_reducible refine hP.one _ ?_); exact rfl)
    | with_reducible refine instr_law hQ (hP.sub rfl) (fun _ _ _ _ => ?_) ?_
    | with_reducible refine plain_law hQ (hP.sub rfl) ?_
    | with_reducible refine excGet (by with_reducible assumption) ?_
    | with_reducible refine excPair ?_
    | with_reducible refine excState ?_
    | with_reducible exact excError
    | with_reducible refine iteExc ?_ ?_
    | with_reducible refine outOk ?_
    | with_reducible exact outFault
    | with_reducible refine outWithin ?_
    | with_reducible refine iteOut ?_ ?_
    | ((try lift_lets); (with_reducible intro x); (try clear_value x))

theorem execPand_law (hQ : Law P Q) (hP : Has P [.all .head, .all .lrp, .grp 0, .grp 9, .grp 64, .gaps, .heads, .held, .mem, .poison, .power, .procs, .progress, .rpa, .sampled, .seq, .sump, .tokens]) {u : Nat} {w : IWord} {s : State}   (h0 : Q s) :
    outAll Q (execPand u w s) := by
  unfold execPand
  repeat' first
    | with_reducible assumption
    | ((with_reducible refine boolGoal ?_); exact rfl)
    | ((with_reducible refine hP.inst ?_); exact rfl)
    | ((with_reducible refine hP.one _ ?_); exact rfl)
    | with_reducible refine pop_law hQ (hP.sub rfl) ?_
    | with_reducible refine outOk ?_
    | with_reducible exact outFault
    | with_reducible refine outWithin ?_
    | with_reducible refine iteOut ?_ ?_

theorem execPor_law (hQ : Law P Q) (hP : Has P [.all .head, .all .lrp, .grp 0, .grp 9, .grp 64, .gaps, .heads, .held, .mem, .poison, .power, .procs, .progress, .rpa, .sampled, .seq, .sump, .tokens]) {u : Nat} {w : IWord} {s : State}   (h0 : Q s) :
    outAll Q (execPor u w s) := by
  unfold execPor
  repeat' first
    | with_reducible assumption
    | ((with_reducible refine boolGoal ?_); exact rfl)
    | ((with_reducible refine hP.inst ?_); exact rfl)
    | ((with_reducible refine hP.one _ ?_); exact rfl)
    | with_reducible refine pop_law hQ (hP.sub rfl) ?_
    | with_reducible refine outOk ?_
    | with_reducible exact outFault
    | with_reducible refine outWithin ?_
    | with_reducible refine iteOut ?_ ?_

theorem execPxor_law (hQ : Law P Q) (hP : Has P [.all .head, .all .lrp, .grp 0, .grp 9, .grp 64, .gaps, .heads, .held, .mem, .poison, .power, .procs, .progress, .rpa, .sampled, .seq, .sump, .tokens]) {u : Nat} {w : IWord} {s : State}   (h0 : Q s) :
    outAll Q (execPxor u w s) := by
  unfold execPxor
  repeat' first
    | with_reducible assumption
    | ((with_reducible refine boolGoal ?_); exact rfl)
    | ((with_reducible refine hP.inst ?_); exact rfl)
    | ((with_reducible refine hP.one _ ?_); exact rfl)
    | with_reducible refine pop_law hQ (hP.sub rfl) ?_
    | with_reducible refine outOk ?_
    | with_reducible exact outFault
    | with_reducible refine outWithin ?_
    | with_reducible refine iteOut ?_ ?_

theorem execPandn_law (hQ : Law P Q) (hP : Has P [.all .head, .all .lrp, .grp 0, .grp 9, .grp 64, .gaps, .heads, .held, .mem, .poison, .power, .procs, .progress, .rpa, .sampled, .seq, .sump, .tokens]) {u : Nat} {w : IWord} {s : State}   (h0 : Q s) :
    outAll Q (execPandn u w s) := by
  unfold execPandn
  repeat' first
    | with_reducible assumption
    | ((with_reducible refine boolGoal ?_); exact rfl)
    | ((with_reducible refine hP.inst ?_); exact rfl)
    | ((with_reducible refine hP.one _ ?_); exact rfl)
    | with_reducible refine pop_law hQ (hP.sub rfl) ?_
    | with_reducible refine outOk ?_
    | with_reducible exact outFault
    | with_reducible refine outWithin ?_
    | with_reducible refine iteOut ?_ ?_
    | ((try lift_lets); (with_reducible intro x); (try clear_value x))

theorem execVpbit_law (hQ : Law P Q) (hP : Has P [.all .head, .all .lrp, .grp 0, .grp 9, .grp 64, .gaps, .heads, .held, .mem, .poison, .power, .procs, .progress, .rpa, .sampled, .seq, .sump, .tokens]) {u : Nat} {w : IWord} {s : State}   (h0 : Q s) :
    outAll Q (execVpbit u w s) := by
  unfold execVpbit
  repeat' first
    | with_reducible assumption
    | ((with_reducible refine boolGoal ?_); exact rfl)
    | ((with_reducible refine hP.inst ?_); exact rfl)
    | ((with_reducible refine hP.one _ ?_); exact rfl)
    | with_reducible refine instr_law hQ (hP.sub rfl) (fun _ _ _ _ => ?_) ?_
    | with_reducible refine plain_law hQ (hP.sub rfl) ?_
    | with_reducible refine excGet (by with_reducible assumption) ?_
    | with_reducible refine Law.ite ?_ ?_
    | with_reducible refine excPair ?_
    | with_reducible refine excState ?_
    | with_reducible exact excError
    | with_reducible refine iteExc ?_ ?_
    | with_reducible refine outOk ?_
    | with_reducible exact outFault
    | with_reducible refine outWithin ?_
    | with_reducible refine iteOut ?_ ?_
    | ((try lift_lets); (with_reducible intro y); (have hy : Q y := ?_); clear_value y; rotate_left; subst y)
    | ((try lift_lets); (with_reducible intro y); (have hy : Q y.1 := ?_); clear_value y; rotate_left; subst y)
    | ((try lift_lets); (with_reducible intro x); (try clear_value x))
    | split

theorem execVld_law (hQ : Law P Q) (hP : Has P [.all .dmc, .all .head, .all .lrp, .grp 0, .grp 9, .grp 64, .dmc, .gaps, .heads, .held, .mem, .poison, .power, .procs, .progress, .rpa, .sampled, .seq, .sump, .tokens]) {u : Nat} {w : IWord} {ecc : Nat} {line : Nat} {s : State}   (h0 : Q s) :
    outAll Q (execVld u w ecc line s) := by
  unfold execVld
  repeat' first
    | with_reducible assumption
    | ((with_reducible refine boolGoal ?_); exact rfl)
    | ((with_reducible refine hP.inst ?_); exact rfl)
    | ((with_reducible refine hP.one _ ?_); exact rfl)
    | with_reducible refine loadEcc_law hQ (hP.sub rfl) ?_
    | with_reducible refine instr_law hQ (hP.sub rfl) (fun _ _ _ _ => ?_) ?_
    | with_reducible refine setProc_law hQ (hP.sub rfl) ?_
    | with_reducible refine traffic_law hQ (hP.sub rfl) ?_
    | with_reducible refine excPair ?_
    | with_reducible refine excState ?_
    | with_reducible exact excError
    | with_reducible refine iteExc ?_ ?_
    | with_reducible refine outOk ?_
    | with_reducible exact outFault
    | with_reducible refine outWithin ?_
    | with_reducible refine iteOut ?_ ?_
    | ((try lift_lets); (with_reducible intro y); (have hy : Q y := ?_); clear_value y; rotate_left; subst y)
    | ((try lift_lets); (with_reducible intro y); (have hy : Q y.1 := ?_); clear_value y; rotate_left; subst y)
    | ((try lift_lets); (with_reducible intro x); (try clear_value x))
    | split
    | dsimp only

theorem execVst_law (hQ : Law P Q) (hP : Has P [.all .head, .all .lrp, .grp 0, .grp 9, .grp 64, .gaps, .heads, .held, .mem, .poison, .power, .procs, .progress, .rpa, .sampled, .seq, .sump, .tokens]) {u : Nat} {w : IWord} {s : State}   (h0 : Q s) :
    outAll Q (execVst u w s) := by
  unfold execVst
  repeat' first
    | with_reducible assumption
    | ((with_reducible refine boolGoal ?_); exact rfl)
    | ((with_reducible refine hP.inst ?_); exact rfl)
    | ((with_reducible refine hP.one _ ?_); exact rfl)
    | with_reducible refine instr_law hQ (hP.sub rfl) (fun _ _ _ _ => ?_) ?_
    | with_reducible refine store_law hQ (hP.sub rfl) ?_
    | with_reducible refine excGet (by with_reducible assumption) ?_
    | with_reducible refine excPair ?_
    | with_reducible refine excState ?_
    | with_reducible exact excError
    | with_reducible refine iteExc ?_ ?_
    | with_reducible refine outOk ?_
    | with_reducible exact outFault
    | with_reducible refine outWithin ?_
    | with_reducible refine iteOut ?_ ?_
    | ((try lift_lets); (with_reducible intro y); (have hy : Q y := ?_); clear_value y; rotate_left; subst y)
    | ((try lift_lets); (with_reducible intro x); (try clear_value x))
    | split
    | dsimp only

theorem execOut_law (hQ : Law P Q) (hP : Has P [.all .head, .all .lrp, .grp 0, .grp 9, .grp 64, .gaps, .heads, .held, .mem, .poison, .power, .procs, .progress, .rpa, .sampled, .seq, .sump, .tokens]) {u : Nat} {w : IWord} {s : State}   (h0 : Q s) :
    outAll Q (execOut u w s) := by
  unfold execOut
  repeat' first
    | with_reducible assumption
    | ((with_reducible refine boolGoal ?_); exact rfl)
    | ((with_reducible refine hP.inst ?_); exact rfl)
    | ((with_reducible refine hP.one _ ?_); exact rfl)
    | with_reducible refine instr_law hQ (hP.sub rfl) (fun _ _ _ _ => ?_) ?_
    | with_reducible refine plain_law hQ (hP.sub rfl) ?_
    | with_reducible refine excGet (by with_reducible assumption) ?_
    | with_reducible refine excPair ?_
    | with_reducible refine excState ?_
    | with_reducible exact excError
    | with_reducible refine iteExc ?_ ?_
    | with_reducible refine outOk ?_
    | with_reducible exact outFault
    | with_reducible refine outWithin ?_
    | with_reducible refine iteOut ?_ ?_
    | ((try lift_lets); (with_reducible intro y); (have hy : Q y := ?_); clear_value y; rotate_left; subst y)
    | ((try lift_lets); (with_reducible intro y); (have hy : Q y.1 := ?_); clear_value y; rotate_left; subst y)
    | ((try lift_lets); (with_reducible intro x); (try clear_value x))

theorem execWpush_law (hQ : Law P Q) (hP : Has P [.all .head, .all .lrp, .grp 0, .grp 9, .grp 64, .gaps, .heads, .held, .mem, .poison, .power, .procs, .progress, .rpa, .sampled, .seq, .sump, .tokens]) {u : Nat} {w : IWord} {s : State}   (h0 : Q s) :
    outAll Q (execWpush u w s) := by
  unfold execWpush
  repeat' first
    | with_reducible assumption
    | ((with_reducible refine boolGoal ?_); exact rfl)
    | ((with_reducible refine hP.inst ?_); exact rfl)
    | ((with_reducible refine hP.one _ ?_); exact rfl)
    | with_reducible refine instr_law hQ (hP.sub rfl) (fun _ _ _ _ => ?_) ?_
    | with_reducible refine plain_law hQ (hP.sub rfl) ?_
    | with_reducible refine excGet (by with_reducible assumption) ?_
    | with_reducible refine excPair ?_
    | with_reducible refine excState ?_
    | with_reducible exact excError
    | with_reducible refine iteExc ?_ ?_
    | with_reducible refine outOk ?_
    | with_reducible exact outFault
    | with_reducible refine outWithin ?_
    | with_reducible refine iteOut ?_ ?_
    | ((try lift_lets); (with_reducible intro y); (have hy : Q y := ?_); clear_value y; rotate_left; subst y)
    | ((try lift_lets); (with_reducible intro x); (try clear_value x))

end Sys2Proof.Machine
end

