-- ==== Sys2Proof/Laws/Exec.lean ====
section
/-!
SUPPORT. A law that every part allows survives every command; the canonical form and frames are such laws.
-/
namespace Sys2Proof.Machine

variable {P : Part → Prop} {Q : State → Prop}

/-- Every law of every part survives every command. -/
theorem exec_law (hQ : Law P Q) (hP : ∀ p, P p) (c : Instr) {s : State} (h : Q s) : outAll Q (exec c s) := by
  cases c with
  | add => exact execAdd_law hQ (Has.every hP _) h
  | sub => exact execSub_law hQ (Has.every hP _) h
  | and_ => exact execAnd_law hQ (Has.every hP _) h
  | or_ => exact execOr_law hQ (Has.every hP _) h
  | xor_ => exact execXor_law hQ (Has.every hP _) h
  | shl => exact execShl_law hQ (Has.every hP _) h
  | shr => exact execShr_law hQ (Has.every hP _) h
  | sra => exact execSra_law hQ (Has.every hP _) h
  | mul => exact execMul_law hQ (Has.every hP _) h
  | mulh => exact execMulh_law hQ (Has.every hP _) h
  | slt => exact execSlt_law hQ (Has.every hP _) h
  | min_ => exact execMin_law hQ (Has.every hP _) h
  | max_ => exact execMax_law hQ (Has.every hP _) h
  | lda => exact execLda_law hQ (Has.every hP _) h
  | adda => exact execAdda_law hQ (Has.every hP _) h
  | movsa => exact execMovsa_law hQ (Has.every hP _) h
  | movas => exact execMovas_law hQ (Has.every hP _) h
  | ld => exact execLd_law hQ (Has.every hP _) h
  | st => exact execSt_law hQ (Has.every hP _) h
  | krd => exact execKrd_law hQ (Has.every hP _) h
  | beq => exact execBeq_law hQ (Has.every hP _) h
  | bne => exact execBne_law hQ (Has.every hP _) h
  | blt => exact execBlt_law hQ (Has.every hP _) h
  | bge => exact execBge_law hQ (Has.every hP _) h
  | bltu => exact execBltu_law hQ (Has.every hP _) h
  | bgeu => exact execBgeu_law hQ (Has.every hP _) h
  | jal => exact execJal_law hQ (Has.every hP _) h
  | jr => exact execJr_law hQ (Has.every hP _) h
  | end_ => exact execEnd_law hQ (Has.every hP _) h
  | evpost => exact execEvpost_law hQ (Has.every hP _) h
  | evfire => exact execEvfire_law hQ (Has.every hP _) h
  | rdt => exact execRdt_law hQ (Has.every hP _) h
  | fence => exact execFence_law hQ (Has.every hP _) h
  | xat => exact execXat_law hQ (Has.every hP _) h
  | xstat => exact execXstat_law hQ (Has.every hP _) h
  | xwait => exact execXwait_law hQ (Has.every hP _) h
  | nop => exact execNop_law hQ (Has.every hP _) h
  | pfx => exact execPfx_law hQ (Has.every hP _) h
  | vadd => exact execVadd_law hQ (Has.every hP _) h
  | vsub => exact execVsub_law hQ (Has.every hP _) h
  | vabsd => exact execVabsd_law hQ (Has.every hP _) h
  | vmin => exact execVmin_law hQ (Has.every hP _) h
  | vmax => exact execVmax_law hQ (Has.every hP _) h
  | vand => exact execVand_law hQ (Has.every hP _) h
  | vor => exact execVor_law hQ (Has.every hP _) h
  | vxor => exact execVxor_law hQ (Has.every hP _) h
  | vshl => exact execVshl_law hQ (Has.every hP _) h
  | vshr => exact execVshr_law hQ (Has.every hP _) h
  | vrshr => exact execVrshr_law hQ (Has.every hP _) h
  | vmul => exact execVmul_law hQ (Has.every hP _) h
  | vmulsh => exact execVmulsh_law hQ (Has.every hP _) h
  | vmac => exact execVmac_law hQ (Has.every hP _) h
  | vlerp => exact execVlerp_law hQ (Has.every hP _) h
  | vcmpeq => exact execVcmpeq_law hQ (Has.every hP _) h
  | vcmpne => exact execVcmpne_law hQ (Has.every hP _) h
  | vcmplt => exact execVcmplt_law hQ (Has.every hP _) h
  | vcmple => exact execVcmple_law hQ (Has.every hP _) h
  | vcmpgt => exact execVcmpgt_law hQ (Has.every hP _) h
  | vcmpge => exact execVcmpge_law hQ (Has.every hP _) h
  | vsel => exact execVsel_law hQ (Has.every hP _) h
  | vmov => exact execVmov_law hQ (Has.every hP _) h
  | vwrd => exact execVwrd_law hQ (Has.every hP _) h
  | vcsh => exact execVcsh_law hQ (Has.every hP _) h
  | vwiden => exact execVwiden_law hQ (Has.every hP _) h
  | vnarrow => exact execVnarrow_law hQ (Has.every hP _) h
  | vlut => exact execVlut_law hQ (Has.every hP _) h
  | lutld => exact execLutld_law hQ (Has.every hP _) h
  | vhist => exact execVhist_law hQ (Has.every hP _) h
  | hrd => exact execHrd_law hQ (Has.every hP _) h
  | hclr => exact execHclr_law hQ (Has.every hP _) h
  | vrsum => exact execVrsum_law hQ (Has.every hP _) h
  | vrmin => exact execVrmin_law hQ (Has.every hP _) h
  | vrmax => exact execVrmax_law hQ (Has.every hP _) h
  | pcnt => exact execPcnt_law hQ (Has.every hP _) h
  | pand => exact execPand_law hQ (Has.every hP _) h
  | por => exact execPor_law hQ (Has.every hP _) h
  | pxor => exact execPxor_law hQ (Has.every hP _) h
  | pandn => exact execPandn_law hQ (Has.every hP _) h
  | vpbit => exact execVpbit_law hQ (Has.every hP _) h
  | vld => exact execVld_law hQ (Has.every hP _) h
  | vst => unfold exec; exact execVst_law hQ (Has.every hP _) h
  | out => exact execOut_law hQ (Has.every hP _) h
  | wpush => exact execWpush_law hQ (Has.every hP _) h
  | cntclr => exact execCntclr_law hQ (Has.every hP _) h
  | evclr => exact execEvclr_law hQ (Has.every hP _) h
  | seqLease => exact execSeqLease_law hQ (Has.every hP _) h
  | seqWdog => exact execSeqWdog_law hQ (Has.every hP _) h
  | seqHandler => exact execSeqHandler_law hQ (Has.every hP _) h
  | slaCfg => exact execSlaCfg_law hQ (Has.every hP _) (hP _) h
  | slaTxtaps => exact execSlaTxtaps_law hQ (Has.every hP _) (hP _) h
  | slaPower => exact execSlaPower_law hQ (Has.every hP _) h
  | slaTrain => exact execSlaTrain_law hQ (Has.every hP _) (hP _) h
  | slaPrbs => exact execSlaPrbs_law hQ (Has.every hP _) (hP _) h
  | slaInject => exact execSlaInject_law hQ (Has.every hP _) h
  | slaEyescan => exact execSlaEyescan_law hQ (Has.every hP _) (hP _) h
  | slaRefsel => exact execSlaRefsel_law hQ (Has.every hP _) (hP _) h
  | slaEyecfg => exact execSlaEyecfg_law hQ (Has.every hP _) h
  | hauBond => exact execHauBond_law hQ (Has.every hP _) (hP _) h
  | hauCfg => exact execHauCfg_law hQ (Has.every hP _) h
  | hauMap => exact execHauMap_law hQ (Has.every hP _) (hP _) h
  | hauEballoc => exact execHauEballoc_law hQ (Has.every hP _) h
  | hauStart => exact execHauStart_law hQ (Has.every hP _) h
  | hauStop => exact execHauStop_law hQ (Has.every hP _) (hP _) h
  | hauShare => exact execHauShare_law hQ (Has.every hP _) (hP _) h
  | hauCamreg => exact execHauCamreg_law hQ (Has.every hP _) h
  | hauEslcfg => exact execHauEslcfg_law hQ (Has.every hP _) (hP _) h
  | pfuEnccfg => exact execPfuEnccfg_law hQ (Has.every hP _) h
  | pfuSsicfg => exact execPfuSsicfg_law hQ (Has.every hP _) (hP _) h
  | pfuPrbcfg => exact execPfuPrbcfg_law hQ (Has.every hP _) h
  | pfuPpop => exact execPfuPpop_law hQ (Has.every hP _) (hP _) h
  | pfuDivcfg => exact execPfuDivcfg_law hQ (Has.every hP _) (hP _) h
  | pfuWpcfg => exact execPfuWpcfg_law hQ (Has.every hP _) h
  | pfuWpset => exact execPfuWpset_law hQ (Has.every hP _) h
  | tesCfg => exact execTesCfg_law hQ (Has.every hP _) h
  | tesGrid => exact execTesGrid_law hQ (Has.every hP _) h
  | tesXset => exact execTesXset_law hQ (Has.every hP _) (hP _) h
  | tesXsel => exact execTesXsel_law hQ (Has.every hP _) (hP _) h
  | tesCut => exact execTesCut_law hQ (Has.every hP _) h
  | tesCutFabric => exact execTesCutFabric_law hQ (Has.every hP _) h
  | rpaLoad => unfold exec; exact execRpaLoad_law hQ (Has.every hP _) h
  | rpaKset => exact execRpaKset_law hQ (Has.every hP _) h
  | rpaSmwrite => exact execRpaSmwrite_law hQ (Has.every hP _) h
  | rpaResume => exact execRpaResume_law hQ (Has.every hP _) (hP _) h
  | rpaCfg => exact execRpaCfg_law hQ (Has.every hP _) h
  | sstView => exact execSstView_law hQ (Has.every hP _) h
  | sstGeom => exact execSstGeom_law hQ (Has.every hP _) h
  | sstSeam => exact execSstSeam_law hQ (Has.every hP _) h
  | sstBlend => exact execSstBlend_law hQ (Has.every hP _) h
  | sstEdge => exact execSstEdge_law hQ (Has.every hP _) h
  | rtkPlane => exact execRtkPlane_law hQ (Has.every hP _) h
  | rtkStraw => exact execRtkStraw_law hQ (Has.every hP _) h
  | rtkFeat => exact execRtkFeat_law hQ (Has.every hP _) h
  | rclModel => exact execRclModel_law hQ (Has.every hP _) h
  | rclFeatmap => exact execRclFeatmap_law hQ (Has.every hP _) h
  | dlgMarkcfg => exact execDlgMarkcfg_law hQ (Has.every hP _) h
  | dlgMlate => exact execDlgMlate_law hQ (Has.every hP _) h
  | dlgRing => exact execDlgRing_law hQ (Has.every hP _) (hP _) h
  | dlgSumpcfg => exact execDlgSumpcfg_law hQ (Has.every hP _) h
  | hisCfg => exact execHisCfg_law hQ (Has.every hP _) h
  | hisCrop => exact execHisCrop_law hQ (Has.every hP _) h
  | cmpCfg => exact execCmpCfg_law hQ (Has.every hP _) h
  | cmpFrame => exact execCmpFrame_law hQ (Has.every hP _) h
  | ovsCfg => exact execOvsCfg_law hQ (Has.every hP _) (hP _) h
  | ovsCoef => exact execOvsCoef_law hQ (Has.every hP _) h
  | ovsStart => exact execOvsStart_law hQ (Has.every hP _) (hP _) h
  | ovsStop => exact execOvsStop_law hQ (Has.every hP _) h
  | dmcCfg => exact execDmcCfg_law hQ (Has.every hP _) h
  | dmcTrain => exact execDmcTrain_law hQ (Has.every hP _) (hP _) h
  | dmcXormap => exact execDmcXormap_law hQ (Has.every hP _) h
  | dmcSpare => exact execDmcSpare_law hQ (Has.every hP _) (hP _) h
  | dmcRetire => exact execDmcRetire_law hQ (Has.every hP _) h
  | dmaLinear => exact execDmaLinear_law hQ (Has.every hP _) h
  | dmaRect => exact execDmaRect_law hQ (Has.every hP _) h
  | dmaGather => exact execDmaGather_law hQ (Has.every hP _) h
  | dmaFill => exact execDmaFill_law hQ (Has.every hP _) h
  | dmaCompare => exact execDmaCompare_law hQ (Has.every hP _) h
  | dmaFence => exact execDmaFence_law hQ (Has.every hP _) h
  | memMode => exact execMemMode_law hQ (Has.every hP _) (hP _) h
  | memPower => exact execMemPower_law hQ (Has.every hP _) (hP _) h
  | memRowstore => exact execMemRowstore_law hQ (Has.every hP _) h
  | hifMircfg => exact execHifMircfg_law hQ (Has.every hP _) h
  | wlkNode => exact execWlkNode_law hQ (Has.every hP _) h
  | wlkRoute => exact execWlkRoute_law hQ (Has.every hP _) h
  | wlkPort => exact execWlkPort_law hQ (Has.every hP _) h
  | wlkEdge => exact execWlkEdge_law hQ (Has.every hP _) (hP _) h
  | wlkFwd => exact execWlkFwd_law hQ (Has.every hP _) h
  | wlkLease => exact execWlkLease_law hQ (Has.every hP _) h
  | tntInc => exact execTntInc_law hQ (Has.every hP _) h
  | tntOffset => exact execTntOffset_law hQ (Has.every hP _) h
  | tntPtp => exact execTntPtp_law hQ (Has.every hP _) h
  | tntPps => exact execTntPps_law hQ (Has.every hP _) h
  | evrChan => exact execEvrChan_law hQ (Has.every hP _) (hP _) h
  | evrTask => exact execEvrTask_law hQ (Has.every hP _) (hP _) h
  | evrGate => exact execEvrGate_law hQ (Has.every hP _) h
  | twpCfg => exact execTwpCfg_law hQ (Has.every hP _) (hP _) h
  | twpXfer => exact execTwpXfer_law hQ (Has.every hP _) h
  | pbaBudget => exact execPbaBudget_law hQ (Has.every hP _) h
  | pbaVbounds => exact execPbaVbounds_law hQ (Has.every hP _) h
  | pbaTarget => exact execPbaTarget_law hQ (Has.every hP _) h
  | pbaMonitor => exact execPbaMonitor_law hQ (Has.every hP _) (hP _) h
  | pbaEmber => exact execPbaEmber_law hQ (Has.every hP _) h
  | calRun => exact execCalRun_law hQ (Has.every hP _) h
  | calCfg => exact execCalCfg_law hQ (Has.every hP _) h
  | calLimits => exact execCalLimits_law hQ (Has.every hP _) h
  | pmuCntset => exact execPmuCntset_law hQ (Has.every hP _) (hP _) h
  | pmuSnap => exact execPmuSnap_law hQ (Has.every hP _) h
  | pmuSnapFabric => exact execPmuSnapFabric_law hQ (Has.every hP _) h
  | pmuSampcfg => exact execPmuSampcfg_law hQ (Has.every hP _) (hP _) h
  | slcAdvance => exact execSlcAdvance_law hQ (Has.every hP _) h
  | slcAdvanceFuses => exact execSlcAdvanceFuses_law hQ (Has.every hP _) h
  | slcWipe => exact execSlcWipe_law hQ (Has.every hP _) h
  | slcKcopy => exact execSlcKcopy_law hQ (Has.every hP _) h
  | streamedOpIssue => exact execStreamedOpIssue_law hQ (Has.every hP _) h
  | epochWaitResume => exact execEpochWaitResume_law hQ (Has.every hP _) h
  | loadWaitResume => exact execLoadWaitResume_law hQ (Has.every hP _) h
  | modelWaitResume => exact execModelWaitResume_law hQ (Has.every hP _) h
  | ctrlPacketArrive => exact execCtrlPacketArrive_law hQ (Has.every hP _) h
  | cutPacketArrive => exact execCutPacketArrive_law hQ (Has.every hP _) h
  | gapPacketArrive => exact execGapPacketArrive_law hQ (Has.every hP _) h
  | progressMarkArrive => exact execProgressMarkArrive_law hQ (Has.every hP _) h
  | stageTimeout => exact execStageTimeout_law hQ (Has.every hP _) (hP _) h
  | sumpNoteReceive => exact execSumpNoteReceive_law hQ (Has.every hP _) h
  | sumpSpanClose => exact execSumpSpanClose_law hQ (Has.every hP _) h
  | sumpSpanDeliver => exact execSumpSpanDeliver_law hQ (Has.every hP _) h
  | totaliserReport => exact execTotaliserReport_law hQ (Has.every hP _) h
  | laneWake => exact execLaneWake_law hQ (Has.every hP _) (hP _) h
  | signalDetect => exact execSignalDetect_law hQ (Has.every hP _) h
  | blockLock => exact execBlockLock_law hQ (Has.every hP _) h
  | lockLost => exact execLockLost_law hQ (Has.every hP _) (hP _) h
  | relockTimeout => exact execRelockTimeout_law hQ (Has.every hP _) (hP _) h
  | trainStepTimeout => exact execTrainStepTimeout_law hQ (Has.every hP _) h
  | trainRetry => exact execTrainRetry_law hQ (Has.every hP _) (hP _) h
  | hiberWindow => exact execHiberWindow_law hQ (Has.every hP _) (hP _) h
  | refMonitorWindow => exact execRefMonitorWindow_law hQ (Has.every hP _) (hP _) h
  | skipReceive => exact execSkipReceive_law hQ (Has.every hP _) (hP _) h
  | alignReceive => exact execAlignReceive_law hQ (Has.every hP _) h
  | alignTimeout => exact execAlignTimeout_law hQ (Has.every hP _) h
  | prbsResync => exact execPrbsResync_law hQ (Has.every hP _) (hP _) h
  | eyescanPointDone => exact execEyescanPointDone_law hQ (Has.every hP _) (hP _) h
  | tapackReceive => exact execTapackReceive_law hQ (Has.every hP _) (hP _) h
  | taptoExpiry => exact execTaptoExpiry_law hQ (Has.every hP _) (hP _) h
  | rateChangeRetrain => exact execRateChangeRetrain_law hQ (Has.every hP _) h
  | lineStart => exact execLineStart_law hQ (Has.every hP _) (hP _) (hP _) h
  | dataColumn => exact execDataColumn_law hQ (Has.every hP _) (hP _) h
  | lineEnd => exact execLineEnd_law hQ (Has.every hP _) (hP _) (hP _) (hP _) h
  | statusCmdrsp => exact execStatusCmdrsp_law hQ (Has.every hP _) (hP _) (hP _) (hP _) (hP _) h
  | xsetackReceive => exact execXsetackReceive_law hQ (Has.every hP _) (hP _) h
  | camEvent => exact execCamEvent_law hQ (Has.every hP _) (hP _) h
  | statusUnknownSub => exact execStatusUnknownSub_law hQ (Has.every hP _) (hP _) h
  | cmdtoExpiry => exact execCmdtoExpiry_law hQ (Has.every hP _) (hP _) h
  | xsettoExpiry => exact execXsettoExpiry_law hQ (Has.every hP _) (hP _) (hP _) h
  | headBringupRegs => exact execHeadBringupRegs_law hQ (Has.every hP _) (hP _) h
  | lineCompletionTimeout => exact execLineCompletionTimeout_law hQ (Has.every hP _) (hP _) (hP _) h
  | triggerLineTimeout => exact execTriggerLineTimeout_law hQ (Has.every hP _) (hP _) h
  | blktoExpiry => exact execBlktoExpiry_law hQ (Has.every hP _) (hP _) h
  | gapflExpiry => exact execGapflExpiry_law hQ (Has.every hP _) h
  | hauStopComplete => exact execHauStopComplete_law hQ (Has.every hP _) (hP _) (hP _) h
  | stripRun => exact execStripRun_law hQ (Has.every hP _) h
  | encEdge => exact execEncEdge_law hQ (Has.every hP _) (hP _) h
  | wireFaultEnter => exact execWireFaultEnter_law hQ (Has.every hP _) h
  | wireFaultExit => exact execWireFaultExit_law hQ (Has.every hP _) h
  | illactClear => exact execIllactClear_law hQ (Has.every hP _) (hP _) h
  | indexEdge => exact execIndexEdge_law hQ (Has.every hP _) (hP _) h
  | observerBoundCheck => exact execObserverBoundCheck_law hQ (Has.every hP _) h
  | ssiPoll => exact execSsiPoll_law hQ (Has.every hP _) (hP _) h
  | ssiFrameEnd => exact execSsiFrameEnd_law hQ (Has.every hP _) (hP _) h
  | ssiNorespTimeout => exact execSsiNorespTimeout_law hQ (Has.every hP _) (hP _) h
  | probeEdge => exact execProbeEdge_law hQ (Has.every hP _) (hP _) h
  | divStep => exact execDivStep_law hQ (Has.every hP _) (hP _) h
  | wpSourceFault => exact execWpSourceFault_law hQ (Has.every hP _) h
  | wpSourceRecover => exact execWpSourceRecover_law hQ (Has.every hP _) h
  | coastExpiry => exact execCoastExpiry_law hQ (Has.every hP _) h
  | triggerCommit => exact execTriggerCommit_law hQ (Has.every hP _) h
  | triggerIssue => exact execTriggerIssue_law hQ (Has.every hP _) (hP _) (hP _) h
  | edgeTrigger => exact execEdgeTrigger_law hQ (Has.every hP _) (hP _) h
  | trgPulseEnd => exact execTrgPulseEnd_law hQ (Has.every hP _) h
  | markFire => exact execMarkFire_law hQ (Has.every hP _) (hP _) h
  | markPulseEnd => exact execMarkPulseEnd_law hQ (Has.every hP _) h
  | stripAccept => exact execStripAccept_law hQ (Has.every hP _) h
  | viewRowForm => exact execViewRowForm_law hQ (Has.every hP _) h
  | edgeExchangeReceive => exact execEdgeExchangeReceive_law hQ (Has.every hP _) h
  | edgetoExpiry => exact execEdgetoExpiry_law hQ (Has.every hP _) h
  | viewRowProcess => exact execViewRowProcess_law hQ (Has.every hP _) h
  | viewGapProcess => exact execViewGapProcess_law hQ (Has.every hP _) h
  | viewStopProcess => exact execViewStopProcess_law hQ (Has.every hP _) h
  | boundaryWordReceive => exact execBoundaryWordReceive_law hQ (Has.every hP _) h
  | boundaryWordTimeout => exact execBoundaryWordTimeout_law hQ (Has.every hP _) (hP _) h
  | rtkRecordEnqueue => exact execRtkRecordEnqueue_law hQ (Has.every hP _) h
  | recordClassify => exact execRecordClassify_law hQ (Has.every hP _) h
  | ledgerRecordWrite => exact execLedgerRecordWrite_law hQ (Has.every hP _) h
  | rd0HostCopy => exact execRd0HostCopy_law hQ (Has.every hP _) h
  | rd1Forward => exact execRd1Forward_law hQ (Has.every hP _) h
  | fwdAckReceive => exact execFwdAckReceive_law hQ (Has.every hP _) (hP _) h
  | fwdTimeout => exact execFwdTimeout_law hQ (Has.every hP _) h
  | forwardedRecordReceive => exact execForwardedRecordReceive_law hQ (Has.every hP _) h
  | contactTableExpiry => exact execContactTableExpiry_law hQ (Has.every hP _) h
  | historyRowTake => exact execHistoryRowTake_law hQ (Has.every hP _) (hP _) (hP _) h
  | hflushExpiry => exact execHflushExpiry_law hQ (Has.every hP _) h
  | frameCompress => exact execFrameCompress_law hQ (Has.every hP _) h
  | frameWrite => exact execFrameWrite_law hQ (Has.every hP _) (hP _) h
  | cropComplete => exact execCropComplete_law hQ (Has.every hP _) h
  | cmpFrameComplete => exact execCmpFrameComplete_law hQ (Has.every hP _) h
  | compressorIdleRelease => exact execCompressorIdleRelease_law hQ (Has.every hP _) h
  | ovsSourceRow => exact execOvsSourceRow_law hQ (Has.every hP _) h
  | ovsRowDeliver => exact execOvsRowDeliver_law hQ (Has.every hP _) h
  | ovsGapReceive => exact execOvsGapReceive_law hQ (Has.every hP _) h
  | ovsStopComplete => exact execOvsStopComplete_law hQ (Has.every hP _) (hP _) h
  | inboundBulkReceive => exact execInboundBulkReceive_law hQ (Has.every hP _) (hP _) h
  | dmaDescriptorStart => exact execDmaDescriptorStart_law hQ (Has.every hP _) (hP _) h
  | dmaDescriptorComplete => exact execDmaDescriptorComplete_law hQ (Has.every hP _) (hP _) h
  | dmaTimeout => exact execDmaTimeout_law hQ (Has.every hP _) (hP _) h
  | dmaFenceComplete => exact execDmaFenceComplete_law hQ (Has.every hP _) (hP _) h
  | dramTrainingStart => exact execDramTrainingStart_law hQ (Has.every hP _) h
  | dramTrainingEnd => exact execDramTrainingEnd_law hQ (Has.every hP _) (hP _) h
  | periodicRetrain => exact execPeriodicRetrain_law hQ (Has.every hP _) (hP _) h
  | dramParityError => exact execDramParityError_law hQ (Has.every hP _) h
  | rankMigrationDone => exact execRankMigrationDone_law hQ (Has.every hP _) (hP _) h
  | rankVerifyDone => exact execRankVerifyDone_law hQ (Has.every hP _) h
  | bankBusyRetry => exact execBankBusyRetry_law hQ (Has.every hP _) (hP _) h
  | cmddbWrite => exact execCmddbWrite_law hQ (Has.every hP _) h
  | commandStart => exact execCommandStart_law hQ (Has.every hP _) h
  | commandComplete => exact execCommandComplete_law hQ (Has.every hP _) h
  | completionEntryWrite => exact execCompletionEntryWrite_law hQ (Has.every hP _) h
  | producerWordWrite => exact execProducerWordWrite_law hQ (Has.every hP _) h
  | mirrorRefresh => exact execMirrorRefresh_law hQ (Has.every hP _) h
  | cenWrite => exact execCenWrite_law hQ (Has.every hP _) h
  | ccconsWrite => exact execCcconsWrite_law hQ (Has.every hP _) h
  | hlconsWrite => exact execHlconsWrite_law hQ (Has.every hP _) h
  | menWrite => exact execMenWrite_law hQ (Has.every hP _) h
  | bootdbWrite len => exact execBootdbWrite_law (_len := len) hQ (Has.every hP _) h
  | resetkeyWrite => exact execResetkeyWrite_law hQ (Has.every hP _) h
  | bar0Evfire => exact execBar0Evfire_law hQ (Has.every hP _) h
  | bar0RegWrite => exact execBar0RegWrite_law hQ (Has.every hP _) h
  | bar2Access => exact execBar2Access_law hQ (Has.every hP _) h
  | functionLevelReset => exact execFunctionLevelReset_law hQ (Has.every hP _) h
  | pcieReset => exact execPcieReset_law hQ (Has.every hP _) h
  | helloSend => exact execHelloSend_law hQ (Has.every hP _) (hP _) h
  | helloReceive => exact execHelloReceive_law hQ (Has.every hP _) (hP _) h
  | delayMeasure => exact execDelayMeasure_law hQ (Has.every hP _) (hP _) h
  | syncSend => exact execSyncSend_law hQ (Has.every hP _) h
  | syncReceive => exact execSyncReceive_law hQ (Has.every hP _) h
  | pstoExpiry => exact execPstoExpiry_law hQ (Has.every hP _) h
  | leaseRenewalSend => exact execLeaseRenewalSend_law hQ (Has.every hP _) h
  | leaseRenewalReceive => exact execLeaseRenewalReceive_law hQ (Has.every hP _) h
  | leaseAckReceive => exact execLeaseAckReceive_law hQ (Has.every hP _) (hP _) h
  | fabricLeaseExpiry => exact execFabricLeaseExpiry_law hQ (Has.every hP _) h
  | candidateTimeout => exact execCandidateTimeout_law hQ (Has.every hP _) h
  | termRequestReceive => exact execTermRequestReceive_law hQ (Has.every hP _) h
  | termGrantReceive => exact execTermGrantReceive_law hQ (Has.every hP _) (hP _) h
  | cutAnnounceReceive => exact execCutAnnounceReceive_law hQ (Has.every hP _) h
  | cutReplyReceive => exact execCutReplyReceive_law hQ (Has.every hP _) h
  | cutSubtreeTimeout => exact execCutSubtreeTimeout_law hQ (Has.every hP _) h
  | cutMasterTimeout => exact execCutMasterTimeout_law hQ (Has.every hP _) h
  | cutCommitReceive => exact execCutCommitReceive_law hQ (Has.every hP _) h
  | cutCancelReceive => exact execCutCancelReceive_law hQ (Has.every hP _) h
  | cutOrphanTimeout => exact execCutOrphanTimeout_law hQ (Has.every hP _) h
  | packetForward => exact execPacketForward_law hQ (Has.every hP _) h
  | fabricSnapRequestReceive => exact execFabricSnapRequestReceive_law hQ (Has.every hP _) h
  | tbrefFault => exact execTbrefFault_law hQ (Has.every hP _) h
  | ppsInEdge => exact execPpsInEdge_law hQ (Has.every hP _) h
  | ppsOutFire => exact execPpsOutFire_law hQ (Has.every hP _) h
  | ppsOutEnd => exact execPpsOutEnd_law hQ (Has.every hP _) h
  | ethFrameReceive => exact execEthFrameReceive_law hQ (Has.every hP _) (hP _) h
  | ethFrameTransmit => exact execEthFrameTransmit_law hQ (Has.every hP _) h
  | ethRingPoll => exact execEthRingPoll_law hQ (Has.every hP _) h
  | evioEdge => exact execEvioEdge_law hQ (Has.every hP _) (hP _) h
  | channelToken => exact execChannelToken_law hQ (Has.every hP _) (hP _) h
  | taskInputToken => exact execTaskInputToken_law hQ (Has.every hP _) (hP _) (hP _) h
  | activationStart => exact execActivationStart_law hQ (Has.every hP _) (hP _) h
  | activationEnd => exact execActivationEnd_law hQ (Has.every hP _) (hP _) h
  | twXferComplete => exact execTwXferComplete_law hQ (Has.every hP _) h
  | targetStretchTimeout => exact execTargetStretchTimeout_law hQ (Has.every hP _) (hP _) h
  | controllerSclTimeout => exact execControllerSclTimeout_law hQ (Has.every hP _) h
  | stuckRecoveryRetry => exact execStuckRecoveryRetry_law hQ (Has.every hP _) (hP _) h
  | mboxWrite => exact execMboxWrite_law hQ (Has.every hP _) h
  | twTargetWrite => exact execTwTargetWrite_law hQ (Has.every hP _) h
  | tw3Dcmd => exact execTw3Dcmd_law hQ (Has.every hP _) h
  | tw0WakeMatch => exact execTw0WakeMatch_law hQ (Has.every hP _) h
  | grantIssue => exact execGrantIssue_law hQ (Has.every hP _) h
  | voltageLoopStep => exact execVoltageLoopStep_law hQ (Has.every hP _) h
  | vregRetry => exact execVregRetry_law hQ (Has.every hP _) h
  | supplyWarningEnter => exact execSupplyWarningEnter_law hQ (Has.every hP _) (hP _) h
  | supplyWarningExit => exact execSupplyWarningExit_law hQ (Has.every hP _) h
  | railBelowReset => exact execRailBelowReset_law hQ (Has.every hP _) h
  | thermalWarning => exact execThermalWarning_law hQ (Has.every hP _) h
  | thermalShutdown => exact execThermalShutdown_law hQ (Has.every hP _) h
  | thermalRelease => exact execThermalRelease_law hQ (Has.every hP _) h
  | emberWake => exact execEmberWake_law hQ (Has.every hP _) h
  | vauxPowerOn => exact execVauxPowerOn_law hQ (Has.every hP _) h
  | rstNAssert => exact execRstNAssert_law hQ (Has.every hP _) h
  | tamperDetect => exact execTamperDetect_law hQ (Has.every hP _) h
  | secureWipeEnd => exact execSecureWipeEnd_law hQ (Has.every hP _) h
  | kindlingStart => exact execKindlingStart_law hQ (Has.every hP _) h
  | imageLoadDone => exact execImageLoadDone_law hQ (Has.every hP _) h
  | fabricBootTimeout => exact execFabricBootTimeout_law hQ (Has.every hP _) h
  | kcopyComplete => exact execKcopyComplete_law hQ (Has.every hP _) h
  | leaseRenewTick => exact execLeaseRenewTick_law hQ (Has.every hP _) h
  | seqAbdicate => exact execSeqAbdicate_law hQ (Has.every hP _) h
  | seqLeaseExpiry => exact execSeqLeaseExpiry_law hQ (Has.every hP _) h
  | takeover => exact execTakeover_law hQ (Has.every hP _) h
  | sqwdogExpiry => exact execSqwdogExpiry_law hQ (Has.every hP _) h
  | seqPairSelftest => exact execSeqPairSelftest_law hQ (Has.every hP _) h
  | failover => exact execFailover_law hQ (Has.every hP _) h
  | rpWatchdog => exact execRpWatchdog_law hQ (Has.every hP _) h
  | plannedRotation => exact execPlannedRotation_law hQ (Has.every hP _) (hP _) h
  | rotationHandover => exact execRotationHandover_law hQ (Has.every hP _) h
  | selfTest => exact execSelfTest_law hQ (Has.every hP _) h
  | selfTestRetry => exact execSelfTestRetry_law hQ (Has.every hP _) h
  | cecntRateCheck => exact execCecntRateCheck_law hQ (Has.every hP _) (hP _) h
  | canaryMarginLow => exact execCanaryMarginLow_law hQ (Has.every hP _) (hP _) h
  | calTargetRun => exact execCalTargetRun_law hQ (Has.every hP _) (hP _) h
  | snapshotTake => exact execSnapshotTake_law hQ (Has.every hP _) h
  | sampleRecord => exact execSampleRecord_law hQ (Has.every hP _) (hP _) h
  | eqAdaptDone => exact execEqAdaptDone_law hQ (Has.every hP _) (hP _) h
  | eqBoundHold => exact execEqBoundHold_law hQ (Has.every hP _) (hP _) h
  | prbsError => exact execPrbsError_law hQ (Has.every hP _) (hP _) h
  | unknownTypeBlock => exact execUnknownTypeBlock_law hQ (Has.every hP _) h
  | codeCopyComplete => exact execCodeCopyComplete_law hQ (Has.every hP _) h
  | modelCopyComplete => exact execModelCopyComplete_law hQ (Has.every hP _) h
  | twBusFree => exact execTwBusFree_law hQ (Has.every hP _) h
  | vcorePowerGood => exact execVcorePowerGood_law hQ (Has.every hP _) h
  | tamperEnd => exact execTamperEnd_law hQ (Has.every hP _) h
  | liveholdExpiry => exact execLiveholdExpiry_law hQ (Has.every hP _) h

/-- The canonical form is a law of every part, and no part is the queue. -/
theorem canonical_law (q : List Instr) : Law (fun _ => True) (fun s => s.pending = q ∧ s.canonical) :=
  { word := fun _ h => ⟨h.1, Tbl.wf_set h.2.1, h.2.2⟩
    byte := fun _ h => ⟨h.1, h.2.1, Tbl.wf_set h.2.2⟩
    cut := fun _ h => ⟨h.1, h.2.1, Tbl.wf_keep h.2.2⟩
    drop := fun _ h => ⟨h.1, Tbl.wf_filter h.2.1, h.2.2⟩
    anew := fun _ hp hc h => ⟨hp.trans h.1, hc h.2⟩
    poison := fun _ h => h
    free := fun _ h => h
    procs := fun _ h => h
    seq := fun _ h => h
    transit := fun _ h => h
    held := fun _ h => h
    progress := fun _ h => h
    gaps := fun _ h => h
    sump := fun _ h => h
    malformed := fun _ h => h
    tokens := fun _ h => h
    rpa := fun _ h => h
    damper := fun _ h => h
    lanes := fun _ h => h
    goodWin := fun _ h => h
    bonded := fun _ h => h
    heads := fun _ h => h
    cuts := fun _ h => h
    cutPkts := fun _ h => h
    enc := fun _ h => h
    ssi := fun _ h => h
    probes := fun _ h => h
    divs := fun _ h => h
    pfuTick := fun _ h => h
    web := fun _ h => h
    marks := fun _ h => h
    markPins := fun _ h => h
    tes := fun _ h => h
    views := fun _ h => h
    store := fun _ h => h
    strips := fun _ h => h
    commits := fun _ h => h
    recs := fun _ h => h
    dlg := fun _ h => h
    his := fun _ h => h
    ovs := fun _ h => h
    dmc := fun _ h => h
    dma := fun _ h => h
    hif := fun _ h => h
    wlk := fun _ h => h
    sent := fun _ h => h
    tnt := fun _ h => h
    dep := fun _ h => h
    power := fun _ h => h
    evr := fun _ h => h
    tw := fun _ h => h
    snap := fun _ h => h
    sampled := fun _ h => h
  }

theorem Tbl.get_filter {α : Type} {d : Nat → α} {p : Nat × α → Bool} {m : Tbl α} {k : Nat} (h : ∀ v, p (k, v) = true) :
    Tbl.get d (m.filter p) k = Tbl.get d m k := by
  induction m with
  | nil => rfl
  | cons e m ih =>
    obtain ⟨a, v⟩ := e
    by_cases hp : p (a, v) = true
    · rw [List.filter_cons_of_pos hp, Tbl.get_cons, Tbl.get_cons, ih]
    · rw [List.filter_cons_of_neg hp, Tbl.get_cons, ih]
      by_cases hk : a = k
      · subst hk; exact absurd (h v) hp
      · simp [hk]

theorem partOf_snapval {a : Nat} (h : 0x20174000 ≤ a) (h2 : a < 0x20176000) : partOf a = .grp 23 := by
  have hg : groupOf a = 23 := by rcases groupOf_cases a with h1 | h1 | h1 | h1 | h1 | h1 <;> omega
  unfold partOf
  rw [hg]
  have hn : ((arrsOf 23).find? fun k => k.holds a) = none := by
    rw [List.find?_eq_none]
    intro k hk
    simp only [arrsOf, List.mem_cons, List.not_mem_nil, or_false] at hk
    intro hx
    rcases hk with rfl | rfl
    · have := of_decide_eq_true hx
      simp only [Arr.lo, Arr.stride, Arr.count] at this; omega
    · have := of_decide_eq_true hx
      simp only [Arr.lo, Arr.stride, Arr.count] at this; omega
  rw [hn]

/-- What a command leaves as it was: the frame of the parts that it does not touch is a law of the others. -/
theorem frame_law {s : State} (hr : ¬ P .reset) : Law P (Frame P s) :=
  { word := fun hp h => { h with word := fun a ha => (Tbl.get_set_ne _ _ (by rintro rfl; exact ha hp)).trans (h.word a ha) }
    byte := fun hp h => { h with mem := fun hm => absurd hp hm }
    cut := fun hp h => { h with mem := fun hm => absurd hp hm }
    drop := fun hp h => { h with word := fun a ha => (Tbl.get_filter (fun v => by
        simp only [Bool.not_eq_true', decide_eq_false_iff_not]
        exact fun hx => ha (by rw [partOf_snapval hx.1 hx.2]; exact hp))).trans (h.word a ha) }
    anew := fun hp _ _ _ => absurd hp hr
    poison := fun hp h => { h with poison := fun hc => absurd hp hc }
    free := fun hp h => { h with free := fun hc => absurd hp hc }
    procs := fun hp h => { h with procs := fun hc => absurd hp hc }
    seq := fun hp h => { h with seq := fun hc => absurd hp hc }
    transit := fun hp h => { h with transit := fun hc => absurd hp hc }
    held := fun hp h => { h with held := fun hc => absurd hp hc }
    progress := fun hp h => { h with progress := fun hc => absurd hp hc }
    gaps := fun hp h => { h with gaps := fun hc => absurd hp hc }
    sump := fun hp h => { h with sump := fun hc => absurd hp hc }
    malformed := fun hp h => { h with malformed := fun hc => absurd hp hc }
    tokens := fun hp h => { h with tokens := fun hc => absurd hp hc }
    rpa := fun hp h => { h with rpa := fun hc => absurd hp hc }
    damper := fun hp h => { h with damper := fun hc => absurd hp hc }
    lanes := fun hp h => { h with lanes := fun hc => absurd hp hc }
    goodWin := fun hp h => { h with goodWin := fun hc => absurd hp hc }
    bonded := fun hp h => { h with bonded := fun hc => absurd hp hc }
    heads := fun hp h => { h with heads := fun hc => absurd hp hc }
    cuts := fun hp h => { h with cuts := fun hc => absurd hp hc }
    cutPkts := fun hp h => { h with cutPkts := fun hc => absurd hp hc }
    enc := fun hp h => { h with enc := fun hc => absurd hp hc }
    ssi := fun hp h => { h with ssi := fun hc => absurd hp hc }
    probes := fun hp h => { h with probes := fun hc => absurd hp hc }
    divs := fun hp h => { h with divs := fun hc => absurd hp hc }
    pfuTick := fun hp h => { h with pfuTick := fun hc => absurd hp hc }
    web := fun hp h => { h with web := fun hc => absurd hp hc }
    marks := fun hp h => { h with marks := fun hc => absurd hp hc }
    markPins := fun hp h => { h with markPins := fun hc => absurd hp hc }
    tes := fun hp h => { h with tes := fun hc => absurd hp hc }
    views := fun hp h => { h with views := fun hc => absurd hp hc }
    store := fun hp h => { h with store := fun hc => absurd hp hc }
    strips := fun hp h => { h with strips := fun hc => absurd hp hc }
    commits := fun hp h => { h with commits := fun hc => absurd hp hc }
    recs := fun hp h => { h with recs := fun hc => absurd hp hc }
    dlg := fun hp h => { h with dlg := fun hc => absurd hp hc }
    his := fun hp h => { h with his := fun hc => absurd hp hc }
    ovs := fun hp h => { h with ovs := fun hc => absurd hp hc }
    dmc := fun hp h => { h with dmc := fun hc => absurd hp hc }
    dma := fun hp h => { h with dma := fun hc => absurd hp hc }
    hif := fun hp h => { h with hif := fun hc => absurd hp hc }
    wlk := fun hp h => { h with wlk := fun hc => absurd hp hc }
    sent := fun hp h => { h with sent := fun hc => absurd hp hc }
    tnt := fun hp h => { h with tnt := fun hc => absurd hp hc }
    dep := fun hp h => { h with dep := fun hc => absurd hp hc }
    power := fun hp h => { h with power := fun hc => absurd hp hc }
    evr := fun hp h => { h with evr := fun hc => absurd hp hc }
    tw := fun hp h => { h with tw := fun hc => absurd hp hc }
    snap := fun hp h => { h with snap := fun hc => absurd hp hc }
    sampled := fun hp h => { h with sampled := fun hc => absurd hp hc }
  }

end Sys2Proof.Machine
end

