-- ==== Sys2Proof/Laws/Carry.lean ====
section
/-!
SUPPORT. What carrying out one instruction leaves: the retired processor, the others, and the performance counts.
-/
namespace Sys2Proof.Machine

theorem Only.of_law {l : List Part} {s : State} (h : l.contains .reset = false) : Law (Covers l) (Frame (Covers l) s) :=
  frame_law (Covers.noReset h)

theorem evt_only (s : State) (unit inst evt k : Nat) : Only [.grp 64] s (s.evt unit inst evt k) :=
  evt_law (Only.of_law rfl) (Has.covers rfl) (Frame.refl _ _)

theorem emit_only (s : State) (src hop : Nat) : Only [.tokens] s (s.emit src hop) :=
  emit_law (Only.of_law rfl) (Has.covers rfl) (Frame.refl _ _)

theorem sampleCount_only (k u : Nat) (p : Proc) (s : State) : Only [.sampled] s (sampleCount k u p s) :=
  sampleCount_law (Only.of_law rfl) (Has.covers rfl) (Frame.refl _ _)

theorem countSlots_only (u : Nat) (f : Form) (n : Nat) (s : State) : Only [.grp 64] s (countSlots u f n s) :=
  countSlots_law (Only.of_law rfl) (Has.covers rfl) (Frame.refl _ _)

theorem retire_only (u pc : Nat) (s : State) : Only [.procs, .grp 64, .sampled] s (retire u pc s) :=
  retire_law (Only.of_law rfl) (Has.covers rfl) (Frame.refl _ _)

theorem Only.proc {l : List Part} {s t : State} (h : Only l s t) (hl : l.contains .procs = false) (u : Nat) : t.proc u = s.proc u := by
  unfold State.proc
  rw [Frame.procs h]
  intro hc
  have : Part.procs ∈ l := hc
  simp_all

theorem retire_procs (u pc : Nat) (s : State) :
    (retire u pc s).procs = (s.setProc u { s.proc u with pc := pc, pfx := none, last := (s.proc u).faultIdx, retired := (s.proc u).retired + 1 }).procs := by
  have h : ∀ a b : State, Only [.grp 64, .sampled] a b → b.procs = a.procs :=
    fun a b h => Frame.procs h (by intro hc; have : Part.procs ∈ _ := hc; simp at this)
  unfold retire
  dsimp only
  split
  · exact ((h _ _ ((sampleCount_only _ _ _ _).mono rfl)).trans (h _ _ ((evt_only _ _ _ _ _).mono rfl)))
  · exact (h _ _ ((sampleCount_only _ _ _ _).mono rfl)).trans
      ((h _ _ ((sampleCount_only _ _ _ _).mono rfl)).trans (h _ _ ((evt_only _ _ _ _ _).mono rfl)))

theorem retire_proc_same (u pc : Nat) (s : State) :
    (retire u pc s).proc u = { s.proc u with pc := pc, pfx := none, last := (s.proc u).faultIdx, retired := (s.proc u).retired + 1 } := by
  have h := retire_procs u pc s
  unfold State.proc at h ⊢
  rw [h]
  exact Tbl.get_set_same _ _ _

theorem retire_proc_ne {u v : Nat} (pc : Nat) (s : State) (h : u ≠ v) : (retire u pc s).proc v = s.proc v := by
  have e := retire_procs u pc s
  unfold State.proc
  rw [e]
  exact Tbl.get_set_ne _ _ h

/-- What follows the body of an instruction that goes on. -/
theorem Retired.of_body {c pc : Nat} {f : Form} {n : Nat} {p : Proc} {l : List Part} {s b : State}
    (hb : b.proc c = p) (hr : p.retired = (s.proc c).retired) (hv : ∀ v, v ≠ c → b.proc v = s.proc v)
    (hl : Only (l ++ [.procs, .grp 64, .sampled]) s b) : Retired c pc p l s (countSlots c f n (retire c pc b)) := by
  refine ⟨?_, ?_, ?_⟩
  · rw [Only.proc (countSlots_only _ _ _ _) rfl, retire_proc_same, hb, hr]
  · intro v h
    rw [Only.proc (countSlots_only _ _ _ _) rfl, retire_proc_ne _ _ (Ne.symm h), hv v h]
  · refine Frame.trans hl (Frame.trans (t := retire c pc b) ?_ ?_)
    · exact Frame.mono (retire_only c pc b) fun q hq => by
        cases q <;> simp_all [Covers]
    · exact Frame.mono (countSlots_only c f n _) fun q hq => by
        cases q <;> simp_all [Covers]

theorem within_lt {i n : Nat} {o : Out} (h : i < n) : within i n o = o := if_pos h

/-- An instruction that is ready and legal does what its body says. -/
theorem instr_runs {u : Nat} {w : IWord} {f : Form} {body : Nat → Proc → State → Except Nat (State × Nat)} {s t : State} {pc : Nat}
    (h : Ready u s) (hl : legalWord (core u) (s.proc (core u)) w f = true)
    (hp : (f.scalar && isRp u && (s.proc (core u)).preg w.pred == 0) = false)
    (hb : body (core u) (s.proc (core u)) s = .ok (t, pc)) :
    instr u w f body s = .next (countSlots (core u) f (slotsOf f (s.proc (core u))) (retire (core u) pc t)) := by
  obtain ⟨h1, h2, h3, h4⟩ := h
  unfold instr
  rw [within_lt h1]
  have h5 : (isRp u && decide (s.rd Reg.RpaGlobal.RUNLIMIT 0 ≤ (s.proc (core u)).retired)) = false := by
    by_cases hr : isRp u = true
    · have := h3 hr; simp [hr]; omega
    · simp [hr]
  simp only [h2, h4, h5, hl, hp, hb, Bool.not_true, Bool.false_or, Bool.false_eq_true, if_false]

theorem isRp_core {u : Nat} (h : u < 76) : isRp (core u) = isRp u := by
  unfold isRp core
  split
  · rfl
  · simp only [decide_eq_decide]; omega

theorem Takes.legal {u : Nat} {w : IWord} {mask : Nat} {s : State} {f : Form} (h : Takes u w mask s)
    (hw : f.wh = .both ∨ (f.wh = .rp ∧ isRp u = true) ∨ (f.wh = .sq ∧ isRp u = false))
    (hm : f.mask = mask) (hp : Bare u s ∨ f.pfx = true) (hs : f.shape = true) :
    legalWord (core u) (s.proc (core u)) w f = true := by
  unfold Takes at h
  have hu := h.1.1
  unfold legalWord
  rw [isRp_core hu, hm, hs, h.2.1]
  have hp' : ((s.proc (core u)).pfx.isNone || f.pfx) = true := by
    rcases hp with hp | hp
    · unfold Bare at hp; rw [hp]; rfl
    · rw [hp, Bool.or_true]
  rw [hp']
  have hq := h.2.2
  by_cases hr : isRp u = true
  · rcases hw with hw | hw | hw
    · rw [hw]; simp [hr]
    · rw [hw.1]; simp [hr]
    · rw [hr] at hw; exact Bool.noConfusion hw.2
  · simp only [hr, Bool.false_eq_true, if_false] at hq
    rcases hw with hw | hw | hw
    · rw [hw]; simp [hq]
    · exact absurd hw.2 hr
    · rw [hw.1]; simp [hq, hw.2]

theorem Takes.pred {u : Nat} {w : IWord} {mask : Nat} {s : State} {f : Form} (h : Takes u w mask s) :
    (f.scalar && isRp u && (s.proc (core u)).preg w.pred == 0) = false := by
  have hq := h.2.2
  by_cases hr : isRp u = true
  · rw [if_pos hr] at hq; simp; exact fun _ _ => hq
  · simp [hr]

theorem setProc_only (s : State) (u : Nat) (p : Proc) : Only [.procs] s (s.setProc u p) :=
  setProc_law (Only.of_law rfl) (Has.covers rfl) (Frame.refl _ _)

/-- An S-class instruction that changes the processor's registers alone. -/
theorem plain_takes {u : Nat} {w : IWord} {mask : Nat} {f : Form} {g : Proc → Proc} {s : State} (h : Takes u w mask s)
    (hw : f.wh = .both ∨ (f.wh = .rp ∧ isRp u = true) ∨ (f.wh = .sq ∧ isRp u = false)) (hm : f.mask = mask) (hp : Bare u s ∨ f.pfx = true) (hs : f.shape = true)
    (hg : ∀ p, (g p).retired = p.retired) :
    ∃ t, instr u w f (plain g) s = .next t ∧ Retired (core u) ((s.proc (core u)).pc + 1) (g (s.proc (core u))) [] s t := by
  refine ⟨_, instr_runs h.1 (h.legal hw hm hp hs) h.pred rfl, ?_⟩
  refine Retired.of_body (by simp) (hg _) ?_ ?_
  · intro v hv; exact State.setProc_proc_ne _ _ _ (Ne.symm hv)
  · exact Frame.mono (setProc_only _ _ _) fun q hq => by cases q <;> simp_all [Covers]

theorem Proc.setS_sreg (p : Proc) (d : Nat) (x : BitVec 32) (n : Nat) :
    (p.setS d x).sreg n = if n = d ∧ n ≠ 0 then x else p.sreg n := by
  unfold Proc.setS
  by_cases hd : d = 0
  · rw [if_pos hd]
    by_cases hn : n = 0
    · simp [hn]
    · rw [if_neg]; omega
  · rw [if_neg hd]
    unfold Proc.sreg
    by_cases hn : n = 0
    · simp [hn]
    · rw [if_neg hn, if_neg hn]
      by_cases h : n = d
      · subst h; rw [Tbl.get_set_same]; simp [hn]
      · rw [Tbl.get_set_ne _ _ (Ne.symm h)]; simp [h]

theorem Proc.setA_areg (p : Proc) (d : Nat) (x : BitVec 48) (n : Nat) : (p.setA d x).areg n = if n = d then x else p.areg n := by
  unfold Proc.setA Proc.areg
  by_cases h : n = d
  · subst h; rw [Tbl.get_set_same]; simp
  · rw [Tbl.get_set_ne _ _ (Ne.symm h)]; simp [h]

theorem Proc.setS_retired (p : Proc) (d : Nat) (x : BitVec 32) : (p.setS d x).retired = p.retired := by
  unfold Proc.setS; split <;> rfl

/-- A body that faults: the processor takes the fault and nothing else happens. -/
theorem instr_faults {u : Nat} {w : IWord} {f : Form} {body : Nat → Proc → State → Except Nat (State × Nat)} {s : State} {e : Nat}
    (h : Ready u s) (hl : legalWord (core u) (s.proc (core u)) w f = true)
    (hp : (f.scalar && isRp u && (s.proc (core u)).preg w.pred == 0) = false)
    (hb : body (core u) (s.proc (core u)) s = .error e) : instr u w f body s = .next (procFault (core u) e s) := by
  obtain ⟨h1, h2, h3, h4⟩ := h
  unfold instr
  rw [within_lt h1]
  have h5 : (isRp u && decide (s.rd Reg.RpaGlobal.RUNLIMIT 0 ≤ (s.proc (core u)).retired)) = false := by
    by_cases hr : isRp u = true
    · have := h3 hr; simp [hr]; omega
    · simp [hr]
  simp only [h2, h4, h5, hl, hp, hb, Bool.not_true, Bool.false_or, Bool.false_eq_true, if_false]

/-- An instruction that is ready and legal and whose body goes on: what it leaves. -/
theorem instr_retires {u : Nat} {w : IWord} {f : Form} {body : Nat → Proc → State → Except Nat (State × Nat)} {s b : State}
    {pc : Nat} {p : Proc} {l : List Part} (h : Ready u s) (hl : legalWord (core u) (s.proc (core u)) w f = true)
    (hp : (f.scalar && isRp u && (s.proc (core u)).preg w.pred == 0) = false)
    (hb : body (core u) (s.proc (core u)) s = .ok (b, pc)) (hc : b.proc (core u) = p) (hr : p.retired = (s.proc (core u)).retired)
    (hv : ∀ v, v ≠ core u → b.proc v = s.proc v) (ho : Only (l ++ [.procs, .grp 64, .sampled]) s b) :
    ∃ t, instr u w f body s = .next t ∧ Retired (core u) pc p l s t ∧ Only [.procs, .grp 64, .sampled] b t :=
  ⟨_, instr_runs h hl hp hb, Retired.of_body hc hr hv ho,
    Frame.trans (retire_only _ _ _) (Frame.mono (countSlots_only _ _ _ _) fun q hq => by cases q <;> simp_all [Covers])⟩

theorem traffic_only (s : State) (w : Bool) (a n : Nat) : Only [.grp 64] s (s.traffic w a n) :=
  traffic_law (Only.of_law rfl) (Has.covers rfl) (Frame.refl _ _)

theorem TakesV.legal {u : Nat} {w : IWord} {mask : Nat} {tys : List Nat} {s : State} {f : Form} (h : TakesV u w mask tys s)
    (hw : f.wh = .rp) (hm : f.mask = mask) (hp : Bare u s ∨ f.pfx = true) (hs : f.shape = true) :
    legalWord (core u) (s.proc (core u)) w f = true := by
  unfold TakesV at h
  have hc : isRp (core u) = true := by rw [isRp_core h.2.1.1]; simp [isRp, h.1]
  unfold legalWord
  have hp' : ((s.proc (core u)).pfx.isNone || f.pfx) = true := by
    rcases hp with hp | hp
    · unfold Bare at hp; rw [hp]; rfl
    · rw [hp, Bool.or_true]
  rw [hw, hm, hs, hp', h.2.2.1, hc]; simp

/-- A V-class instruction that changes the processor's registers alone. -/
theorem plainV_takes {u : Nat} {w : IWord} {mask : Nat} {tys : List Nat} {sh : Bool} {n : Nat} {g : Proc → Proc} {s : State}
    (h : TakesV u w mask tys s) (hb : Bare u s) (hs : sh = true) (hg : ∀ p, (g p).retired = p.retired) :
    ∃ t, instr u w (vform w mask tys sh n) (plain g) s = .next t ∧
      Retired (core u) ((s.proc (core u)).pc + 1) (g (s.proc (core u))) [] s t := by
  have ht : tys.contains (ty w) = true := by have := h.2.2.2; simpa using this
  obtain ⟨t, h1, h2, _⟩ := instr_retires (l := []) (f := vform w mask tys sh n) (body := plain g) h.2.1
    (h.legal rfl rfl (.inl hb) (by simp only [vform, ht, hs, Bool.and_self])) rfl rfl (State.setProc_proc_same _ _ _) (hg _)
    (fun v hv => State.setProc_proc_ne _ _ _ (Ne.symm hv))
    (Frame.mono (setProc_only _ _ _) fun q hq => by cases q <;> simp_all [Covers])
  exact ⟨t, h1, h2⟩

/-- A V-class instruction that writes V(D) element by element. -/
theorem velem_takes {u : Nat} {w : IWord} {mask : Nat} {tys : List Nat} {sh : Bool} {n : Nat} {f : Proc → Nat → Nat × Bool}
    {s : State} (h : TakesV u w mask tys s) (hb : Bare u s) (hs : sh = true) :
    ∃ t, velem u w (vform w mask tys sh n) f s = .next t ∧
      Retired (core u) ((s.proc (core u)).pc + 1) ((s.proc (core u)).setV w.d (maskedElems (ty w) ((s.proc (core u)).preg w.pred)
        ((s.proc (core u)).vreg w.d) fun i => (f (s.proc (core u)) i).1)) [] s t := by
  have ht : tys.contains (ty w) = true := by have := h.2.2.2; simpa using this
  obtain ⟨t, h1, h2, _⟩ := instr_retires (l := []) (w := w) (f := vform w mask tys sh n)
    (body := fun c p s => .ok ((s.setProc c (p.setV w.d (maskedElems (ty w) (p.preg w.pred) (p.vreg w.d) fun i => (f p i).1))).evt 5
      c 0x43 (satCount (ty w) (p.preg w.pred) (f p)), p.pc + 1)) h.2.1
    (h.legal rfl rfl (.inl hb) (by simp only [vform, ht, hs, Bool.and_self])) rfl rfl
    ((Only.proc (evt_only _ _ _ _ _) rfl _).trans (State.setProc_proc_same _ _ _)) rfl
    (fun v hv => (Only.proc (evt_only _ _ _ _ _) rfl _).trans (State.setProc_proc_ne _ _ _ (Ne.symm hv)))
    (Frame.trans (Frame.mono (setProc_only _ _ _) fun q hq => by cases q <;> simp_all [Covers])
      (Frame.mono (evt_only _ _ _ _ _) fun q hq => by cases q <;> simp_all [Covers]))
  exact ⟨t, h1, h2⟩

end Sys2Proof.Machine
end

