-- ==== Sys2Proof/Laws/Access.lean ====
section
/-!
SUPPORT. Loads and stores of a processor: what the bytes of memory are after a store, and what an instruction that loads
or stores leaves.
-/
namespace Sys2Proof.Machine

theorem eccError_zero (s : State) (a : Nat) : s.eccError a 0 = s := by
  unfold State.eccError; simp

theorem loadEcc_zero (u : Nat) (w : IWord) (n l : Nat) (s : State) : loadEcc u w n 0 l s = s := by
  unfold loadEcc; dsimp only; split
  · exact eccError_zero _ _
  · rfl

theorem setByte_only (s : State) (a : Nat) (b : Byte) : Only [.mem] s (s.setByte a b) := by
  constructor <;> intros <;> first | rfl | simp_all [Covers]

theorem byte_setByte (s : State) (a k : Nat) (b : Byte) : (s.setByte a b).byte k = if k = a then b else s.byte k := by
  unfold State.setByte State.byte
  by_cases h : k = a
  · subst h; simp only [if_true]; exact Tbl.get_set_same _ _ _
  · rw [if_neg h]; exact Tbl.get_set_ne _ _ (Ne.symm h)

theorem physAddr_inj {u x y : Nat} (hu : u < 76) (hx : x < 281474976710656) (hy : y < 281474976710656)
    (h : (∃ d, d < 1024 ∧ (y = (x + d) % 281474976710656 ))) (he : physAddr u x = physAddr u y) : x = y := by
  obtain ⟨d, hd, hy'⟩ := h
  unfold physAddr at he
  split at he <;> split at he <;> omega

theorem storeSel_frame (u : Nat) (bs : List (Bool × Byte)) (s : State) (a : Nat) : Only [.mem] s (storeSel s u a bs) :=
  storeSel_law (Only.of_law rfl) (Has.covers rfl) (Frame.refl _ _)

theorem storeSel_out (u : Nat) (bs : List (Bool × Byte)) (s : State) (a b : Nat)
    (h : ∀ k q x, bs[k]? = some (q, x) → q = true → storeIgnored ((a + k) % 281474976710656) = false → b ≠ physAddr u ((a + k) % 281474976710656)) :
    (storeSel s u a bs).byte b = s.byte b := by
  induction bs generalizing s a with
  | nil => rfl
  | cons e es ih =>
    obtain ⟨q, x⟩ := e
    unfold storeSel
    rw [ih _ (a + 1) (fun k q x hk hq hi => by have := h (k + 1) q x (by simpa using hk) hq; simp only [show a + (k+1) = a + 1 + k by omega] at this; exact this hi)]
    split
    · rename_i hc
      have hc' : q = true ∧ storeIgnored (a % 2 ^ 48) = false := by simpa using hc
      rw [byte_setByte, if_neg]
      exact h 0 q x rfl hc'.1 hc'.2
    · rfl

theorem storeSel_in (u : Nat) (hu : u < 76) (bs : List (Bool × Byte)) (s : State) (a k : Nat) (x : Byte) (hl : bs.length ≤ 1024)
    (hk : bs[k]? = some (true, x)) (hi : storeIgnored ((a + k) % 281474976710656) = false) :
    (storeSel s u a bs).byte (physAddr u ((a + k) % 281474976710656)) = x := by
  induction bs generalizing s a k with
  | nil => simp at hk
  | cons e es ih =>
    obtain ⟨q, y⟩ := e
    unfold storeSel
    have hlen : es.length < 1024 := by simp at hl; omega
    cases k with
    | zero =>
      simp at hk
      obtain ⟨rfl, rfl⟩ := hk
      rw [storeSel_out]
      · have hi' : storeIgnored (a % 2 ^ 48) = false := hi
        rw [hi']
        simp only [Bool.not_false, Bool.and_true, if_true]
        rw [byte_setByte]; exact if_pos rfl
      · intro k q x hk hq hj he
        have hkl : k < es.length := by rw [List.getElem?_eq_some_iff] at hk; exact hk.1
        have := physAddr_inj hu (Nat.mod_lt _ (by decide)) (Nat.mod_lt _ (by decide)) ⟨k + 1, by omega, by
          simp only [Nat.add_zero]; omega⟩ he
        omega
    | succ k =>
      have := ih (if q && !storeIgnored (a % 2 ^ 48) then s.setByte (physAddr u (a % 2 ^ 48)) y else s) (a + 1) k (by omega) (by simpa using hk)
        (by rw [show a + 1 + k = a + (k + 1) by omega]; exact hi)
      rw [show a + 1 + k = a + (k + 1) by omega] at this
      exact this

theorem store_ok {s : State} {u a al : Nat} {bs : List (Bool × Byte)} (hu : u < 76) (hn : bs.length ≤ 1024)
    (hf : accessFault s u true a bs.length al = none) (hd : (dirtyAfter s u (s.proc u) a bs.length).length ≤ 512 ∨
      dirtyAfter s u (s.proc u) a bs.length = (s.proc u).dirty) :
    ∃ t, store s u a al bs = .ok t ∧ t.proc u = { s.proc u with dirty := dirtyAfter s u (s.proc u) a bs.length } ∧
      (∀ v, v ≠ u → t.proc v = s.proc v) ∧ Only [.mem, .poison, .procs, .grp 64] s t ∧
      (∀ k x, bs[k]? = some (true, x) → storeIgnored ((a + k) % 281474976710656) = false → t.byte (physAddr u ((a + k) % 281474976710656)) = x) ∧
      (∀ b, (∀ k x, bs[k]? = some (true, x) → storeIgnored ((a + k) % 281474976710656) = false → b ≠ physAddr u ((a + k) % 281474976710656)) →
        t.byte b = s.byte b) := by
  have hst : store s u a al bs = .ok ((unpoisonWhole a bs (storeSel (s.setProc u { s.proc u with dirty := dirtyAfter s u (s.proc u) a bs.length }) u a bs)).traffic true a bs.length) := by
    unfold store; dsimp only; rw [hf]; dsimp only; rw [if_neg (by
      rintro ⟨h1, h2⟩
      rcases hd with h | h
      · omega
      · exact h2 h)]
  set s1 := s.setProc u { s.proc u with dirty := dirtyAfter s u (s.proc u) a bs.length } with hs1
  set s2 := storeSel s1 u a bs with hs2
  have h1 : Only [.procs] s s1 := setProc_only _ _ _
  have h2 : Only [.mem] s1 s2 := storeSel_frame _ _ _ _
  have h3 : Only [.poison, .grp 64] s2 ((unpoisonWhole a bs s2).traffic true a bs.length) :=
    Frame.trans (Only.mono (l := [.poison]) (unpoisonWhole_law (Only.of_law rfl) (Has.covers rfl) (Frame.refl _ _)) rfl) ((traffic_only _ _ _ _).mono rfl)
  have hby : ∀ b, ((unpoisonWhole a bs s2).traffic true a bs.length).byte b = s2.byte b := by
    intro b; unfold State.byte; rw [Frame.mem h3 (by simp [Covers])]
  refine ⟨_, hst, ?_, ?_, ?_, ?_, ?_⟩
  · rw [Only.proc h3 rfl, Only.proc h2 rfl, hs1]; simp
  · intro v hv; rw [Only.proc h3 rfl, Only.proc h2 rfl, hs1]; exact State.setProc_proc_ne _ _ _ (Ne.symm hv)
  · exact Frame.trans (h1.mono rfl) (Frame.trans (h2.mono rfl) (h3.mono rfl))
  · intro k x hk hi
    rw [hby]; exact storeSel_in u hu bs s1 a k x hn hk hi
  · intro b hb
    rw [hby, hs2, storeSel_out]
    · rfl
    · intro k q x hk hq hi; subst hq; exact hb k x hk hi

theorem core_lt {u : Nat} (h : u < 76) : core u < 76 := by unfold core; split <;> omega

theorem load_retires {u : Nat} {w : IWord} {f : Form} {n al v : Nat} {ad : Proc → Nat} {g : Proc → Nat → Proc} {s : State} (h : Ready u s)
    (hl : legalWord (core u) (s.proc (core u)) w f = true)
    (hp : (f.scalar && isRp u && (s.proc (core u)).preg w.pred == 0) = false)
    (hb : load s (core u) (ad (s.proc (core u))) n al = .ok v) (hg : ∀ p v, (g p v).retired = p.retired) :
    ∃ t, instr u w f (fun c p s => match load s c (ad p) n al with
        | .error f => .error f
        | .ok v => .ok ((s.setProc c (g p v)).traffic false (ad p) n, p.pc + 1)) s = .next t ∧
      Retired (core u) ((s.proc (core u)).pc + 1) (g (s.proc (core u)) v) [] s t := by
  obtain ⟨t, h1, h2, _⟩ := instr_retires (l := []) (w := w) (f := f) (body := fun c p s => match load s c (ad p) n al with
        | .error f => .error f
        | .ok v => .ok ((s.setProc c (g p v)).traffic false (ad p) n, p.pc + 1)) h hl hp (by try dsimp only
                                                                                             rw [hb])
    ((Only.proc (traffic_only _ _ _ _) rfl _).trans (State.setProc_proc_same _ _ _)) (hg _ _)
    (fun v hv => (Only.proc (traffic_only _ _ _ _) rfl _).trans (State.setProc_proc_ne _ _ _ (Ne.symm hv)))
    (Frame.trans ((setProc_only _ _ _).mono rfl) ((traffic_only _ _ _ _).mono rfl))
  exact ⟨t, h1, h2⟩

theorem store_retires {u : Nat} {w : IWord} {f : Form} {al : Nat} {ad : Proc → Nat} {g : Proc → List (Bool × Byte)} {s b : State} {p' : Proc} (h : Ready u s)
    (hl : legalWord (core u) (s.proc (core u)) w f = true)
    (hp : (f.scalar && isRp u && (s.proc (core u)).preg w.pred == 0) = false)
    (hb : store s (core u) (ad (s.proc (core u))) al (g (s.proc (core u))) = .ok b)
    (hc : b.proc (core u) = p') (hr : p'.retired = (s.proc (core u)).retired)
    (hv : ∀ v, v ≠ core u → b.proc v = s.proc v) (ho : Only [.mem, .poison, .procs, .grp 64] s b) :
    ∃ t, instr u w f (fun c p s => match store s c (ad p) al (g p) with
        | .error f => .error f
        | .ok t => .ok (t, p.pc + 1)) s = .next t ∧
      Retired (core u) ((s.proc (core u)).pc + 1) p' [.mem, .poison] s t ∧ Only [.procs, .grp 64, .sampled] b t := by
  exact instr_retires (l := [.mem, .poison]) (w := w) (f := f) (body := fun c p s => match store s c (ad p) al (g p) with
        | .error f => .error f
        | .ok t => .ok (t, p.pc + 1)) h hl hp (by try dsimp only
                                                  rw [hb]) hc hr hv (ho.mono rfl)

theorem loadV_retires {u : Nat} {w : IWord} {f : Form} {n al v d : Nat} {ad : Proc → Nat} {m : Proc → Nat → Vec} {s : State} (h : Ready u s)
    (hl : legalWord (core u) (s.proc (core u)) w f = true)
    (hp : (f.scalar && isRp u && (s.proc (core u)).preg w.pred == 0) = false)
    (hb : load s (core u) (ad (s.proc (core u))) n al = .ok v) :
    ∃ t, instr u w f (fun c p s => match load s c (ad p) n al with
        | .error f => .error f
        | .ok v => .ok ((s.setProc c (p.setV d (m p v))).traffic false (ad p) n, p.pc + 1)) s = .next t ∧
      Retired (core u) ((s.proc (core u)).pc + 1) ((s.proc (core u)).setV d (m (s.proc (core u)) v)) [] s t :=
  load_retires (g := fun p v => p.setV d (m p v)) h hl hp hb (fun _ _ => rfl)

theorem storeD_retires {u : Nat} {w : IWord} {f : Form} {al : Nat} {ad : Proc → Nat} {g : Proc → List (Bool × Byte)} {s b : State} {d : List Nat} (h : Ready u s)
    (hl : legalWord (core u) (s.proc (core u)) w f = true)
    (hp : (f.scalar && isRp u && (s.proc (core u)).preg w.pred == 0) = false)
    (hb : store s (core u) (ad (s.proc (core u))) al (g (s.proc (core u))) = .ok b)
    (hc : b.proc (core u) = { s.proc (core u) with dirty := d })
    (hv : ∀ v, v ≠ core u → b.proc v = s.proc v) (ho : Only [.mem, .poison, .procs, .grp 64] s b) :
    ∃ t, instr u w f (fun c p s => match store s c (ad p) al (g p) with
        | .error f => .error f
        | .ok t => .ok (t, p.pc + 1)) s = .next t ∧
      Retired (core u) ((s.proc (core u)).pc + 1) { s.proc (core u) with dirty := d } [.mem, .poison] s t ∧ Only [.procs, .grp 64, .sampled] b t :=
  store_retires h hl hp hb hc rfl hv ho

end Sys2Proof.Machine
end

