-- ==== Sys2Proof/Laws/Elements.lean ====
section
/-!
SUPPORT. Reading the elements of vectors, the bits of predicates, table entries and bins that an instruction has written.
-/
namespace Sys2Proof.Machine

theorem pack_lt (w : Nat) (f : Nat → Nat) (n : Nat) : pack w f n < 2 ^ (w * n) := by
  induction n with
  | zero => simp [pack]
  | succ n ih =>
    unfold pack
    have h : f n % 2 ^ w < 2 ^ w := Nat.mod_lt _ (Nat.two_pow_pos _)
    have e : 2 ^ (w * (n + 1)) = 2 ^ w * 2 ^ (w * n) := by rw [Nat.mul_succ, Nat.pow_add, Nat.mul_comm]
    rw [e]
    calc pack w f n + f n % 2 ^ w * 2 ^ (w * n) < 2 ^ (w * n) + f n % 2 ^ w * 2 ^ (w * n) := by omega
      _ = (f n % 2 ^ w + 1) * 2 ^ (w * n) := by ring
      _ ≤ 2 ^ w * 2 ^ (w * n) := Nat.mul_le_mul_right _ h

theorem pack_div (w : Nat) (f : Nat → Nat) {n i : Nat} (h : i < n) : pack w f n / 2 ^ (w * i) % 2 ^ w = f i % 2 ^ w := by
  induction n with
  | zero => omega
  | succ n ih =>
    unfold pack
    by_cases hi : i = n
    · subst hi
      rw [Nat.add_mul_div_right _ _ (Nat.two_pow_pos _), Nat.div_eq_of_lt (pack_lt w f i), Nat.zero_add, Nat.mod_mod]
    · have hin : i < n := by omega
      have e : f n % 2 ^ w * 2 ^ (w * n) = (f n % 2 ^ w * 2 ^ (w * (n - i - 1))) * 2 ^ w * 2 ^ (w * i) := by
        rw [Nat.mul_assoc, Nat.mul_assoc, ← Nat.pow_add, ← Nat.pow_add]
        congr 2
        obtain ⟨k, rfl⟩ : ∃ k, n = i + k + 1 := ⟨n - i - 1, by omega⟩
        rw [show i + k + 1 - i - 1 = k by omega]; ring
      rw [e, Nat.add_mul_div_right _ _ (Nat.two_pow_pos _), Nat.add_mul_mod_self_right]
      exact ih hin

theorem tyWidth_count (t : Nat) : tyWidth t * tyCount t = 8192 := by
  unfold tyWidth tyCount; split <;> rfl

/-- Element i of a vector made of elements. -/
theorem elemBits_ofElems (t : Nat) (f : Nat → Nat) {i : Nat} (h : i < tyCount t) :
    elemBits t (ofElems t f) i = f i % 2 ^ tyWidth t := by
  unfold elemBits ofElems
  have hl := pack_lt (tyWidth t) f (tyCount t)
  rw [tyWidth_count] at hl
  rw [BitVec.toNat_ushiftRight, Nat.shiftRight_eq_div_pow, BitVec.toNat_ofNat, Nat.mod_eq_of_lt hl]
  exact pack_div _ f h

theorem elemBits_lt (t : Nat) (v : Vec) (i : Nat) : elemBits t v i < 2 ^ tyWidth t := Nat.mod_lt _ (Nat.two_pow_pos _)

/-- Element i of a vector written under a predicate (R285). -/
theorem elemBits_masked (t : Nat) (q : Pred) (old : Vec) (f : Nat → Nat) {i : Nat} (h : i < tyCount t) :
    elemBits t (maskedElems t q old f) i = if q.getLsbD (tyPred t i) then f i % 2 ^ tyWidth t else elemBits t old i := by
  unfold maskedElems
  rw [elemBits_ofElems t _ h]
  split
  · rfl
  · exact Nat.mod_eq_of_lt (elemBits_lt _ _ _)

theorem low_lt (w : Nat) (x : Int) : low w x < 2 ^ w := by
  unfold low
  have h : (0 : Int) < (2 ^ w : Nat) := by exact_mod_cast Nat.two_pow_pos w
  have h1 := Int.emod_nonneg x (ne_of_gt h)
  have h2 := Int.emod_lt_of_pos x h
  omega

theorem low_mod (w : Nat) (x : Int) : low w x % 2 ^ w = low w x := Nat.mod_eq_of_lt (low_lt w x)

/-- Elements of the scalar broadcast (R284). -/
theorem elemBits_bcast (p : Proc) (w : IWord) (t : Nat) {i : Nat} (h : i < tyCount t) :
    elemBits t (bcast p w t) i = (p.sreg w.b + (w.imm.setWidth 16).signExtend 32).toNat % 2 ^ tyWidth t := by
  unfold bcast
  exact elemBits_ofElems t _ h

theorem elemBits_vecB (p : Proc) (w : IWord) (t : Nat) {i : Nat} (h : i < tyCount t) :
    elemBits t (p.vecB w t) i =
      if mbit w 0 then (p.sreg w.b + (w.imm.setWidth 16).signExtend 32).toNat % 2 ^ tyWidth t else elemBits t (p.vreg w.b) i := by
  unfold Proc.vecB
  split
  · exact elemBits_bcast p w t h
  · rfl

theorem signed_mod (w v : Nat) : signed w (v % 2 ^ w) = signed w v := by
  unfold signed; rw [Nat.mod_mod]

theorem elem_vecB (p : Proc) (w : IWord) (t : Nat) {i : Nat} (h : i < tyCount t) :
    elem t (p.vecB w t) i =
      if mbit w 0 then (if tySigned t then signed (tyWidth t) (p.sreg w.b + (w.imm.setWidth 16).signExtend 32).toNat
        else ((p.sreg w.b + (w.imm.setWidth 16).signExtend 32).toNat % 2 ^ tyWidth t : Nat)) else elem t (p.vreg w.b) i := by
  unfold elem
  rw [elemBits_vecB p w t h]
  by_cases hb : mbit w 0 = true
  · simp only [hb, if_true]
    split
    · exact signed_mod _ _
    · rfl
  · simp only [hb, Bool.false_eq_true, if_false]

/-- Bit c of a predicate made of bits. -/
theorem ofBits_bit (f : Nat → Bool) {c : Nat} (h : c < 512) : (ofBits f).getLsbD c = f c := by
  unfold ofBits
  rw [BitVec.getLsbD_ofNat]
  have hd := pack_div 1 (fun c => b2n (f c)) h
  rw [Nat.testBit_eq_decide_div_mod_eq]
  simp only [Nat.one_mul, Nat.pow_one] at hd
  rw [hd]
  unfold b2n
  cases f c <;> simp [h]

/-- Table entries after LUTLD. -/
theorem lutWrite_get (p : Proc) (q : Pred) (v : Vec) (k n m : Nat) :
    Tbl.get (fun _ => 0) (lutWrite p q v k n) m =
      if 512 * k ≤ m ∧ m < 512 * k + n ∧ q.getLsbD (m - 512 * k) then BitVec.ofNat 16 (lane v (m - 512 * k))
      else Tbl.get (fun _ => 0) p.lut m := by
  induction n with
  | zero => rw [if_neg (by omega)]; rfl
  | succ n ih =>
    unfold lutWrite
    dsimp only
    by_cases hm : m = 512 * k + n
    · subst hm
      have e : 512 * k + n - 512 * k = n := by omega
      rw [e]
      split
      · rw [Tbl.get_set_same, if_pos ⟨by omega, by omega, ‹_›⟩]
      · rw [ih, if_neg (by omega), if_neg (by rintro ⟨_, _, h⟩; exact absurd h ‹_›)]
    · have hne : ¬ (512 * k + n = m) := fun h => hm h.symm
      have hs : (512 * k ≤ m ∧ m < 512 * k + n ∧ q.getLsbD (m - 512 * k) = true) ↔
          (512 * k ≤ m ∧ m < 512 * k + (n + 1) ∧ q.getLsbD (m - 512 * k) = true) := by
        constructor
        · rintro ⟨a, b, c⟩; exact ⟨a, by omega, c⟩
        · rintro ⟨a, b, c⟩; exact ⟨a, by omega, c⟩
      split
      · rw [Tbl.get_set_ne _ _ hne, ih]
        simp only [hs]
      · rw [ih]
        simp only [hs]

/-- Bins after VHIST. -/
theorem histAdd_get (p : Proc) (q : Pred) (v : Vec) (sh n b : Nat) (hp : n < 4294967296) :
    (Tbl.get (fun _ => 0) (histAdd p q v sh n) b).toNat = min ((Tbl.get (fun _ => 0) p.hist b).toNat +
      (List.range n).countP fun c => q.getLsbD c && min (lane v c / 2 ^ sh) 1023 == b) 4294967295 := by
  induction n with
  | zero =>
    have := (Tbl.get (fun _ => (0 : BitVec 32)) p.hist b).isLt
    simp only [histAdd, List.range_zero, List.countP_nil, Nat.add_zero]
    omega
  | succ n ih =>
    have ih := ih (by omega)
    unfold histAdd
    dsimp only
    rw [List.range_succ, List.countP_append, List.countP_cons, List.countP_nil]
    by_cases hq : q.getLsbD n = true
    · rw [if_pos hq]
      by_cases hb : min (lane v n / 2 ^ sh) 1023 = b
      · rw [hb, Tbl.get_set_same, BitVec.toNat_ofNat, ih]
        simp only [hq, beq_self_eq_true, Bool.and_self, if_true]
        omega
      · rw [Tbl.get_set_ne _ _ hb, ih]
        have : (min (lane v n / 2 ^ sh) 1023 == b) = false := by simpa using hb
        simp only [this, Bool.and_false, Bool.false_eq_true, if_false]
        omega
    · rw [if_neg hq, ih]
      simp only [hq, Bool.false_and, Bool.false_eq_true, if_false]
      omega

end Sys2Proof.Machine
end

