-- ==== Sys2Proof/Laws/Writes.lean ====
section
/-!
SUPPORT. Which register bits an operation writes, and what carrying out an X-class instruction leaves.
-/
namespace Sys2Proof.Machine

theorem State.word_wr2 (s : State) (f : Field) (i j v a : Nat) (h : f.has i j = true) :
    (s.wr2 f i j v).word a = if f.word i j = a then f.put j (s.word a) v else s.word a := by
  unfold State.wr2
  rw [if_pos h]
  by_cases ha : f.word i j = a
  · subst ha; rw [if_pos rfl, State.word_setWord_same]
  · rw [if_neg ha, State.word_setWord_ne _ _ ha]

theorem Writes.refl (s : State) : Writes [] s s := fun _ _ => rfl

theorem Writes.trans {l m : List (Field × Nat × Nat × Nat)} {s t u : State} (h : Writes l s t) (k : Writes m t u) : Writes (l ++ m) s u := by
  intro a ha
  rw [k a ha, h a ha, List.foldl_append]

/-- Writing a field, and nothing else but what is no register. -/
theorem Writes.wr2 {l : List (Field × Nat × Nat × Nat)} {s t : State} (h : Writes l s t) {f : Field} {i j : Nat} (v : Nat) (hf : f.has i j = true) :
    Writes (l ++ [(f, i, j, v)]) s (t.wr2 f i j v) := by
  refine h.trans ?_
  intro a _
  rw [State.word_wr2 _ _ _ _ _ _ hf]
  rfl

theorem Writes.wr {l : List (Field × Nat × Nat × Nat)} {s t : State} (h : Writes l s t) {f : Field} {i : Nat} (v : Nat) (hf : f.has i 0 = true) :
    Writes (l ++ [(f, i, 0, v)]) s (t.wr f i v) := h.wr2 v hf

theorem Writes.wrAll {l : List (Field × Nat × Nat × Nat)} {s t : State} (h : Writes l s t) {i : Nat} (fs : List (Field × Nat))
    (hf : ∀ e ∈ fs, e.1.has i 0 = true) : Writes (l ++ fs.map fun e => (e.1, i, 0, e.2)) s (t.wrAll i fs) := by
  induction fs generalizing l t with
  | nil => simpa [State.wrAll] using h
  | cons e fs ih =>
    obtain ⟨f, v⟩ := e
    have := ih (h.wr v (hf (f, v) (by simp))) (fun e he => hf e (by simp [he]))
    simpa [State.wrAll] using this

theorem Writes.clr {l : List (Field × Nat × Nat × Nat)} {s t : State} (h : Writes l s t) {i : Nat} (fs : List Field)
    (hf : ∀ f ∈ fs, f.has i 0 = true) : Writes (l ++ fs.map fun f => (f, i, 0, 0)) s (t.clr i fs) := by
  induction fs generalizing l t with
  | nil => simpa [State.clr] using h
  | cons f fs ih =>
    have := ih (h.wr 0 (hf f (by simp))) (fun e he => hf e (by simp [he]))
    simpa [State.clr] using this

theorem Writes.setFrom {l : List (Field × Nat × Nat × Nat)} {s t : State} (h : Writes l s t) (a : XArgs) {i : Nat} (fs : List (Nat × Field))
    (hf : ∀ e ∈ fs, e.2.has i 0 = true) : Writes (l ++ payload a i fs) s (setFrom a i fs t) := by
  induction fs generalizing l t with
  | nil => simpa [payload, Machine.setFrom] using h
  | cons e fs ih =>
    obtain ⟨k, f⟩ := e
    unfold Machine.setFrom
    by_cases hk : k < a.ws.length
    · rw [if_pos hk]
      have := ih (h.wr (f.get 0 (a.w k)) (hf (k, f) (by simp))) (fun e he => hf e (by simp [he]))
      simpa [payload, List.filter_cons, hk] using this
    · rw [if_neg hk]
      have := ih h (fun e he => hf e (by simp [he]))
      simpa [payload, List.filter_cons, hk] using this

theorem blockWrite_eq (base : Nat) (a : XArgs) (i : Nat) (fs : List Field) (s : State) :
    blockWrite base a i 0 fs s = setFrom a i (fs.map fun f => ((f.word 0 0 - base) / 8, f)) s := by
  induction fs generalizing s with
  | nil => rfl
  | cons f fs ih =>
    simp only [blockWrite, List.map_cons, Machine.setFrom]
    exact ih _

/-- What leaves every register, or only counts events, writes nothing. -/
theorem Writes.of_frame {P : Part → Prop} {s t : State} (h : Frame P s t) (hp : ∀ p, P p → p.isReg = true → p = .grp 64) : Writes [] s t := by
  intro a ha
  refine h.word a fun hc => ?_
  have hr : (partOf a).isReg = true := by unfold partOf; split <;> rfl
  have := hp _ hc hr
  unfold partOf at this
  split at this
  · cases this
  · exact ha (by injection this)

/-- The list form: the only part of registers that the list may name is group 64. -/
theorem Writes.of_only {l : List Part} {s t : State} (h : Only l s t)
    (hl : (l.all fun p => !p.isReg || decide (p = .grp 64)) = true) : Writes [] s t := by
  refine Writes.of_frame h ?_
  intro p hp hr
  have hall : ∀ q ∈ l, q.isReg = true → q = .grp 64 := by
    intro q hq hr
    have := List.all_eq_true.mp hl q hq
    simpa [hr] using this
  cases p with
  | one k i =>
    rcases hp with hp | hp
    · exact hall _ hp rfl
    · have := hall _ hp rfl; cases this
  | grp k => exact hall _ hp hr
  | all k => exact hall _ hp hr
  | _ => cases hr

theorem Writes.keep {l : List (Field × Nat × Nat × Nat)} {s t u : State} (h : Writes l s t) (k : Writes [] t u) : Writes l s u := by
  simpa using h.trans k

theorem Others.refl (l : List Part) (s : State) : Others l s s := Frame.refl _ _

theorem Others.trans {l : List Part} {s t u : State} (h : Others l s t) (k : Others l t u) : Others l s u := Frame.trans h k

theorem Others.mono {l m : List Part} {s t : State} (h : Others l s t) (hm : covered l m = true) : Others m s t := by
  refine Frame.mono h fun p hp => hp.imp id fun hp => ?_
  have := List.all_eq_true.mp hm p hp
  simpa using this

theorem Others.of_only {l m : List Part} {s t : State} (h : Only l s t) (hm : covered (l.filter fun p => !p.isReg) m = true) : Others m s t := by
  refine Frame.mono h fun p hp => ?_
  by_cases hr : p.isReg = true
  · exact .inl hr
  · right
    have hin : p ∈ l := by cases p <;> first | exact hp | simp [Part.isReg] at hr
    have := List.all_eq_true.mp hm p (by simp [hin, hr])
    simpa using this

/-- The law of every frame that leaves what is no register but the listed parts. -/
theorem Others.of_law {l : List Part} {s : State} (h : l.contains .reset = false) :
    Law (fun p => p.isReg = true ∨ p ∈ l) (Frame (fun p => p.isReg = true ∨ p ∈ l) s) := by
  refine frame_law ?_
  rintro (h' | h')
  · cases h'
  · simp_all

/-! ### X-class instructions -/

theorem mirror_only (i st : Nat) (s : State) : Only [.seq] s (mirror i st s) :=
  mirror_law (Only.of_law rfl) (Has.covers rfl) (Frame.refl _ _)

theorem xDone_only (st : Nat) (s : State) : Only [.procs, .seq, .grp 64, .sampled] s (xDone st s) :=
  xDone_law (Only.of_law rfl) (Has.covers rfl) (Frame.refl _ _)

theorem mirror_proc (i st : Nat) (s : State) (v : Nat) : (mirror i st s).proc v = s.proc v := Only.proc (mirror_only i st s) rfl v

theorem retire_seq (u pc : Nat) (s : State) : (retire u pc s).seq = s.seq := Frame.seq (retire_only u pc s) (by simp [Covers])

theorem State.updCmd_seq (s : State) (n : Nat) (f : Cmd → Cmd) :
    (s.updCmd n f).seq = { s.seq with log := s.seq.log.map fun c => if c.cseq = n then f c else c } := rfl

theorem mirror_seq (i st : Nat) (s : State) : (mirror i st s).seq = { s.seq with xk := s.seq.xk + 1, xlog := (mirror i st s).seq.xlog, log := (mirror i st s).seq.log } ∧
    (match s.seq.cur with
      | some (.command n) => (mirror i st s).seq.xlog = s.seq.xlog ∧ ∃ f : Cmd → List (Nat × Nat), (mirror i st s).seq.log = s.seq.log.map fun e => { e with xlog := f e }
      | _ => (mirror i st s).seq.log = s.seq.log) := by
  unfold mirror
  dsimp only
  cases hc : s.seq.cur with
  | none => exact ⟨by simp, rfl⟩
  | some x =>
    cases x with
    | command n =>
      dsimp only
      split
      · refine ⟨by rw [State.updCmd_seq], rfl, fun e => if e.cseq = n then e.xlog ++ [(i, st)] else e.xlog, ?_⟩
        rw [State.updCmd_seq]
        dsimp only
        refine List.map_congr_left fun e _ => ?_
        split <;> rfl
      · refine ⟨by simp, rfl, fun e => e.xlog, ?_⟩
        simp
    | _ =>
      dsimp only
      split <;> exact ⟨by simp, rfl⟩

theorem xDone_status {st : Nat} {q : SeqState} {s b : State} (hc : activeCore b = activeCore s) (hp : b.procs = s.procs) (hq : b.seq = q) :
    XStatus st q s (xDone st b) := by
  have hproc : ∀ v, b.proc v = s.proc v := fun v => by unfold State.proc; rw [hp]
  set c := activeCore s with hcc
  set m := mirror ((b.proc c).pc) st (retire c ((b.proc c).pc + 1) { b with seq := { b.seq with status := st, statusIdx := (b.proc c).pc } }) with hm
  have hx : xDone st b = if st = stOK ∨ st = stLATE then m
      else match m.seq.cur with
        | some (.command q) => endCommand q st (b.proc c).pc m
        | _ => m := by
    unfold xDone
    rw [hc]
    all_goals rfl
  have hms := mirror_seq ((b.proc c).pc) st (retire c ((b.proc c).pc + 1) { b with seq := { b.seq with status := st, statusIdx := (b.proc c).pc } })
  rw [← hm, retire_seq] at hms
  dsimp only at hms
  rw [hq] at hms
  have hmp : ∀ v, m.proc v = (retire c ((b.proc c).pc + 1) { b with seq := { b.seq with status := st, statusIdx := (b.proc c).pc } }).proc v := fun v => mirror_proc _ _ _ v
  have hxp : ∀ v, (xDone st b).proc v = m.proc v := by
    intro v; rw [hx]; split
    · rfl
    · split <;> rfl
  have hmc : m.seq.cur = q.cur := by rw [hms.1]
  refine ⟨?_, ?_, ?_, ?_⟩
  · rw [hxp, hmp, retire_proc_same]
    show { b.proc c with pc := (b.proc c).pc + 1, pfx := none, last := (b.proc c).faultIdx, retired := (b.proc c).retired + 1 } = _
    rw [hproc]
  · intro v hv
    rw [hxp, hmp, retire_proc_ne _ _ (Ne.symm hv)]
    exact hproc v
  · rw [hx, ← hcc]
    rw [← hproc c]
    split
    · rw [hms.1]
    · split
      · unfold endCommand
        simp only [State.updCmd_seq]
        rw [hms.1]
      · rw [hms.1]
  · rw [← hproc c] at *
    cases hcur : q.cur with
    | none =>
      rw [hcur] at hms hmc
      simp only [hx, hmc, ite_self]
      exact ⟨trivial, hms.2⟩
    | some z =>
      cases z with
      | command n =>
        rw [hcur] at hms hmc
        dsimp only at hms ⊢
        obtain ⟨h1, h2, f, h3⟩ := hms
        by_cases hst : st = stOK ∨ st = stLATE
        · have hle : st ≤ 1 := by rcases hst with h | h <;> rw [h] <;> decide
          rw [if_pos hst] at hx
          rw [hx]
          refine ⟨h2, by rw [if_pos hle, hmc], ?_⟩
          rw [h3, List.map_map]
          refine List.map_congr_left fun e _ => ?_
          have : ¬ (e.cseq = n ∧ 1 < st) := by omega
          simp [this]
        · have hle : 1 < st := by
            unfold stOK stLATE at hst; omega
          rw [if_neg hst, hmc] at hx
          dsimp only at hx
          rw [hx]
          refine ⟨?_, by rw [if_neg (by omega)]; rfl, ?_⟩
          · exact h2
          · unfold endCommand
            simp only [State.updCmd_seq]
            rw [h3, List.map_map, List.map_map]
            refine List.map_congr_left fun e _ => ?_
            by_cases he : e.cseq = n
            · simp [he, hle]
            · simp [he]
      | _ =>
        rw [hcur] at hms hmc
        dsimp only at hms ⊢
        simp only [hx, hmc, ite_self]
        exact ⟨trivial, hms.2⟩

/-- The end of an X-class operation that leaves the sequencers' state as q says. -/
theorem xDone_did {st : Nat} {ws : List (Field × Nat × Nat × Nat)} {l : List Part} {q : SeqState} {s b : State}
    (hc : activeCore b = activeCore s) (hp : b.procs = s.procs) (hq : b.seq = q) (hw : Writes ws s b)
    (ho : Others (l ++ [.procs, .seq, .sampled]) s b) : XDid st ws l q s (xDone st b) := by
  refine ⟨xDone_status hc hp hq, hw.keep (Writes.of_only (xDone_only st b) rfl), ho.trans ?_⟩
  refine Frame.mono (xDone_only st b) fun p hp => ?_
  cases p <;> simp_all [Covers, Part.isReg]

/-- An X-class operation whose body completes at once. -/
theorem xop_fin {unit op : Nat} {x : XWord} {body : XArgs → State → XRes} {s b : State} {st : Nat}
    {ws : List (Field × Nat × Nat × Nat)} {l : List Part} {q : SeqState} (h : XReady x s) (hb : body (xargs s x) s = .fin st b)
    (hc : activeCore b = activeCore s) (hp : b.procs = s.procs) (hq : b.seq = q) (hw : Writes ws s b)
    (ho : Others (l ++ [.procs, .seq, .sampled]) s b) : ∃ t, xop unit op x body s = .next t ∧ XDid st ws l q s t := by
  obtain ⟨h1, h2, h3, h4⟩ := h
  refine ⟨xDone st b, ?_, xDone_did hc hp hq hw ho⟩
  unfold xop
  simp only [h1, h2, h3, h4, hb, Bool.not_true, Bool.or_self, Bool.false_eq_true, if_false]

/-- One that refuses. -/
theorem xop_no {unit op : Nat} {x : XWord} {body : XArgs → State → XRes} {s : State} {st : Nat}
    (h : XReady x s) (hb : body (xargs s x) s = .no st s) : ∃ t, xop unit op x body s = .next t ∧ XDid st [] [] s.seq s t :=
  xop_fin (l := []) h hb rfl rfl rfl (Writes.refl _) (Others.refl _ _)

/-- One that starts a long operation. -/
theorem xop_start {unit op : Nat} {x : XWord} {body : XArgs → State → XRes} {s b : State}
    {ws : List (Field × Nat × Nat × Nat)} {l : List Part} (h : XReady x s) (hb : body (xargs s x) s = .start b)
    (hc : activeCore b = activeCore s) (hp : b.procs = s.procs) (hq : b.seq = s.seq) (hw : Writes ws s b)
    (ho : Others (l ++ [.procs, .seq, .sampled]) s b) :
    ∃ t, xop unit op x body s = .next t ∧ XDid 0 ws l (startedLong unit op x s) s t := by
  obtain ⟨h1, h2, h3, h4⟩ := h
  refine ⟨_, ?_, xDone_did (st := 0) (b := { b with seq := { b.seq with longs := b.seq.longs ++ [{ cseq := curCseq s, idx := (s.proc (activeCore s)).pc, unit := unit, op := op, inst := (xargs s x).i, addr := (xargs s x).addr }] } }) hc hp ?_ hw ?_⟩
  · unfold xop
    simp only [h1, h2, h3, h4, hb, Bool.not_true, Bool.or_self, Bool.false_eq_true, if_false]
    rfl
  · rw [hq]; rfl
  · refine ho.trans ?_
    exact Others.mono (l := [.seq]) (m := l ++ [.procs, .seq, .sampled]) ((Others.of_law (l := [.seq]) rfl).seq (.inr (by simp)) (Frame.refl _ _)) (by simp [covered])

/-- A direct operation that changes the state. -/
theorem direct_did {unit op n : Nat} {x : XWord} {f : XArgs → State → Except Nat State} {s b : State}
    {ws : List (Field × Nat × Nat × Nat)} {l : List Part} {q : SeqState} (h : XReady x s) (hi : (xargs s x).i < n) (hb : f (xargs s x) s = .ok b)
    (hc : activeCore b = activeCore s) (hp : b.procs = s.procs) (hq : b.seq = q) (hw : Writes ws s b)
    (ho : Others (l ++ [.procs, .seq, .sampled]) s b) : ∃ t, direct unit op n x f s = .next t ∧ XDid 0 ws l q s t := by
  refine xop_fin h ?_ hc hp hq hw ho
  rw [if_neg (by omega), hb]; rfl

/-- A direct operation that refuses: the instance is out of bounds, or the check says so. -/
theorem direct_no {unit op n : Nat} {x : XWord} {f : XArgs → State → Except Nat State} {s : State} {st : Nat} (h : XReady x s)
    (hb : (n ≤ (xargs s x).i ∧ st = 2) ∨ ((xargs s x).i < n ∧ f (xargs s x) s = .error st)) :
    ∃ t, direct unit op n x f s = .next t ∧ XDid st [] [] s.seq s t := by
  refine xop_no h ?_
  rcases hb with ⟨h1, h2⟩ | ⟨h1, h2⟩
  · rw [if_pos h1, h2]; rfl
  · rw [if_neg (by omega), h2]

/-- The sequencers' pair is not touched by what leaves the registers of group 0. -/
theorem activeCore_only {l : List Part} {s t : State} (h : Only l s t) (hl : l.contains (.grp 0) = false) : activeCore t = activeCore s := by
  unfold activeCore
  rw [Only.rd_grp h (f := Reg.SeqLease.LEASEPAIR) rfl (by exact hl) rfl]

/-! ### Chains of writes -/

theorem Others.wr2 (l : List Part) (s : State) (f : Field) (i j v : Nat) : Others l s (s.wr2 f i j v) := by
  unfold State.wr2
  split
  · exact Frame.mono (P := fun p => p.isReg = true) (by constructor <;> intros <;> first | rfl | (rename_i h; exact absurd (show (partOf _).isReg = true by unfold partOf; split <;> rfl) h)) fun p hp => .inl hp
  · exact Others.refl _ _

/-- A state reached by writing the fields of a list and changing parts of another, with the pair that holds the lease the
same. -/
structure Sets (ws : List (Field × Nat × Nat × Nat)) (l : List Part) (s t : State) : Prop where
  w : Writes ws s t
  o : Others l s t
  c : activeCore t = activeCore s

theorem Sets.refl (l : List Part) (s : State) : Sets [] l s s := ⟨Writes.refl s, Others.refl _ _, rfl⟩

theorem Sets.trans {ws vs : List (Field × Nat × Nat × Nat)} {l : List Part} {s t u : State} (h : Sets ws l s t) (k : Sets vs l t u) :
    Sets (ws ++ vs) l s u := ⟨h.w.trans k.w, h.o.trans k.o, k.c.trans h.c⟩

theorem Sets.wr2 {ws : List (Field × Nat × Nat × Nat)} {l : List Part} {s t : State} (h : Sets ws l s t) {f : Field} {i j : Nat} (v : Nat)
    (hf : f.has i j = true) (ha : f.apart Reg.SeqLease.LEASEPAIR = true) : Sets (ws ++ [(f, i, j, v)]) l s (t.wr2 f i j v) := by
  refine ⟨h.w.wr2 v hf, h.o.trans (Others.wr2 _ _ _ _ _ _), ?_⟩
  rw [← h.c]
  unfold activeCore State.rd
  rw [State.rd2_wr2_apart _ ha _ rfl]

theorem Sets.wr {ws : List (Field × Nat × Nat × Nat)} {l : List Part} {s t : State} (h : Sets ws l s t) {f : Field} {i : Nat} (v : Nat)
    (hf : f.has i 0 = true) (ha : f.apart Reg.SeqLease.LEASEPAIR = true) : Sets (ws ++ [(f, i, 0, v)]) l s (t.wr f i v) := h.wr2 v hf ha

theorem Sets.wrAll {ws : List (Field × Nat × Nat × Nat)} {l : List Part} {s t : State} (h : Sets ws l s t) {i : Nat} (fs : List (Field × Nat))
    (hf : (fs.all fun e => e.1.has i 0 && e.1.apart Reg.SeqLease.LEASEPAIR) = true) :
    Sets (ws ++ fs.map fun e => (e.1, i, 0, e.2)) l s (t.wrAll i fs) := by
  induction fs generalizing ws t with
  | nil => simpa [State.wrAll] using h
  | cons e fs ih =>
    obtain ⟨f, v⟩ := e
    simp only [List.all_cons, Bool.and_eq_true] at hf
    have := ih (h.wr v hf.1.1 hf.1.2) hf.2
    simpa [State.wrAll] using this

theorem Sets.clr {ws : List (Field × Nat × Nat × Nat)} {l : List Part} {s t : State} (h : Sets ws l s t) {i : Nat} (fs : List Field)
    (hf : (fs.all fun f => f.has i 0 && f.apart Reg.SeqLease.LEASEPAIR) = true) :
    Sets (ws ++ fs.map fun f => (f, i, 0, 0)) l s (t.clr i fs) := by
  induction fs generalizing ws t with
  | nil => simpa [State.clr] using h
  | cons f fs ih =>
    simp only [List.all_cons, Bool.and_eq_true] at hf
    have := ih (h.wr 0 hf.1.1 hf.1.2) hf.2
    simpa [State.clr] using this

theorem Sets.setFrom {ws : List (Field × Nat × Nat × Nat)} {l : List Part} {s t : State} (h : Sets ws l s t) (a : XArgs) {i : Nat}
    (fs : List (Nat × Field)) (hf : (fs.all fun e => e.2.has i 0 && e.2.apart Reg.SeqLease.LEASEPAIR) = true) :
    Sets (ws ++ payload a i fs) l s (setFrom a i fs t) := by
  induction fs generalizing ws t with
  | nil => simpa [payload, Machine.setFrom] using h
  | cons e fs ih =>
    obtain ⟨k, f⟩ := e
    simp only [List.all_cons, Bool.and_eq_true] at hf
    unfold Machine.setFrom
    by_cases hk : k < a.ws.length
    · rw [if_pos hk]
      have := ih (h.wr (f.get 0 (a.w k)) hf.1.1 hf.1.2) hf.2
      simpa [payload, List.filter_cons, hk] using this
    · rw [if_neg hk]
      have := ih h hf.2
      simpa [payload, List.filter_cons, hk] using this

/-- What only changes parts that are no registers, or counts events. -/
theorem Sets.then {ws : List (Field × Nat × Nat × Nat)} {l m : List Part} {s t u : State} (h : Sets ws l s t) (k : Only m t u)
    (hm : (m.all fun p => !p.isReg || decide (p = .grp 64)) = true) (hl : covered (m.filter fun p => !p.isReg) l = true) : Sets ws l s u := by
  refine ⟨h.w.keep (Writes.of_only k hm), h.o.trans (Others.of_only k hl), ?_⟩
  rw [← h.c]
  refine activeCore_only k ?_
  have h0 := List.all_eq_true.mp hm
  by_contra hc
  have hin : Part.grp 0 ∈ m := by simpa using hc
  have := h0 _ hin
  simp [Part.isReg] at this

theorem Sets.procs {ws : List (Field × Nat × Nat × Nat)} {l : List Part} {s t : State} (h : Sets ws l s t) (hl : l.contains .procs = false) :
    t.procs = s.procs := Frame.procs h.o (by rintro (h | h); cases h; simp_all)

theorem Sets.seq {ws : List (Field × Nat × Nat × Nat)} {l : List Part} {s t : State} (h : Sets ws l s t) (hl : l.contains .seq = false) :
    t.seq = s.seq := Frame.seq h.o (by rintro (h | h); cases h; simp_all)

theorem Others.more {l m : List Part} {s t : State} (h : Others l s t) : Others (l ++ m) s t :=
  Frame.mono h fun p hp => hp.imp id fun hp => by simp [hp]

/-- Completion of an operation that writes fields and changes parts. -/
theorem xop_sets {unit op : Nat} {x : XWord} {body : XArgs → State → XRes} {s b : State} {st : Nat}
    {ws : List (Field × Nat × Nat × Nat)} {l : List Part} (h : XReady x s) (hb : body (xargs s x) s = .fin st b) (hs : Sets ws l s b)
    (h1 : l.contains .procs = false := by rfl) (h2 : l.contains .seq = false := by rfl) :
    ∃ t, xop unit op x body s = .next t ∧ XDid st ws l s.seq s t :=
  xop_fin h hb hs.c (hs.procs h1) (hs.seq h2) hs.w hs.o.more

theorem start_sets {unit op : Nat} {x : XWord} {body : XArgs → State → XRes} {s b : State}
    {ws : List (Field × Nat × Nat × Nat)} {l : List Part} (h : XReady x s) (hb : body (xargs s x) s = .start b) (hs : Sets ws l s b)
    (h1 : l.contains .procs = false := by rfl) (h2 : l.contains .seq = false := by rfl) :
    ∃ t, xop unit op x body s = .next t ∧ XDid 0 ws l (startedLong unit op x s) s t :=
  xop_start h hb hs.c (hs.procs h1) (hs.seq h2) hs.w hs.o.more

theorem direct_sets {unit op n : Nat} {x : XWord} {f : XArgs → State → Except Nat State} {s b : State}
    {ws : List (Field × Nat × Nat × Nat)} {l : List Part} (h : XReady x s) (hi : (xargs s x).i < n) (hb : f (xargs s x) s = .ok b)
    (hs : Sets ws l s b) (h1 : l.contains .procs = false := by rfl) (h2 : l.contains .seq = false := by rfl) :
    ∃ t, direct unit op n x f s = .next t ∧ XDid 0 ws l s.seq s t :=
  direct_did h hi hb hs.c (hs.procs h1) (hs.seq h2) hs.w hs.o.more

/-- Completion, with what the completing state keeps of the state that the body leaves. -/
theorem xop_keeps {unit op : Nat} {x : XWord} {body : XArgs → State → XRes} {s b : State} {st : Nat}
    {ws : List (Field × Nat × Nat × Nat)} {l : List Part} {q : SeqState} (h : XReady x s) (hb : body (xargs s x) s = .fin st b)
    (hc : activeCore b = activeCore s) (hp : b.procs = s.procs) (hq : b.seq = q) (hw : Writes ws s b)
    (ho : Others (l ++ [.procs, .seq, .sampled]) s b) :
    ∃ t, xop unit op x body s = .next t ∧ XDid st ws l q s t ∧ Only [.procs, .seq, .grp 64, .sampled] b t := by
  obtain ⟨h1, h2, h3, h4⟩ := h
  refine ⟨xDone st b, ?_, xDone_did hc hp hq hw ho, xDone_only st b⟩
  unfold xop
  simp only [h1, h2, h3, h4, hb, Bool.not_true, Bool.or_self, Bool.false_eq_true, if_false]

theorem xop_setsP {unit op : Nat} {x : XWord} {body : XArgs → State → XRes} {s b : State} {st : Nat} {P : State → Prop}
    {ws : List (Field × Nat × Nat × Nat)} {l : List Part} (h : XReady x s) (hb : body (xargs s x) s = .fin st b) (hs : Sets ws l s b)
    (hP : ∀ t, Only [.procs, .seq, .grp 64, .sampled] b t → P t) (h1 : l.contains .procs = false := by rfl)
    (h2 : l.contains .seq = false := by rfl) : ∃ t, xop unit op x body s = .next t ∧ XDid st ws l s.seq s t ∧ P t := by
  obtain ⟨t, k1, k2, k3⟩ := xop_keeps (unit := unit) (op := op) h hb hs.c (hs.procs h1) (hs.seq h2) hs.w hs.o.more
  exact ⟨t, k1, k2, hP t k3⟩

theorem start_setsP {unit op : Nat} {x : XWord} {body : XArgs → State → XRes} {s b : State} {P : State → Prop}
    {ws : List (Field × Nat × Nat × Nat)} {l : List Part} (h : XReady x s) (hb : body (xargs s x) s = .start b) (hs : Sets ws l s b)
    (hP : ∀ t, Only [.procs, .seq, .grp 64, .sampled] b t → P t) (h1 : l.contains .procs = false := by rfl)
    (h2 : l.contains .seq = false := by rfl) :
    ∃ t, xop unit op x body s = .next t ∧ XDid 0 ws l (startedLong unit op x s) s t ∧ P t := by
  have hm : Only [.seq] b { b with seq := { b.seq with longs := b.seq.longs ++ [{ cseq := curCseq s, idx := (s.proc (activeCore s)).pc, unit := unit, op := op, inst := (xargs s x).i, addr := (xargs s x).addr }] } } :=
    (Only.of_law (l := [.seq]) rfl).seq (by simp [Covers]) (Frame.refl _ _)
  obtain ⟨k1, k2, k3, k4⟩ := h
  have hq := hs.seq h2
  refine ⟨_, ?_, xDone_did (st := 0) (b := { b with seq := { b.seq with longs := b.seq.longs ++ [{ cseq := curCseq s, idx := (s.proc (activeCore s)).pc, unit := unit, op := op, inst := (xargs s x).i, addr := (xargs s x).addr }] } }) hs.c (hs.procs h1) ?_ hs.w ?_, ?_⟩
  · unfold xop
    simp only [k1, k2, k3, k4, hb, Bool.not_true, Bool.or_self, Bool.false_eq_true, if_false]
    rfl
  · rw [hq]; rfl
  · refine hs.o.more.trans ?_
    exact Others.mono (l := [.seq]) (m := l ++ [.procs, .seq, .sampled]) ((Others.of_law (l := [.seq]) rfl).seq (.inr (by simp)) (Frame.refl _ _)) (by simp [covered])
  · exact hP _ (Frame.trans (hm.mono rfl) (xDone_only _ _))

theorem direct_setsP {unit op n : Nat} {x : XWord} {f : XArgs → State → Except Nat State} {s b : State} {P : State → Prop}
    {ws : List (Field × Nat × Nat × Nat)} {l : List Part} (h : XReady x s) (hi : (xargs s x).i < n) (hb : f (xargs s x) s = .ok b)
    (hs : Sets ws l s b) (hP : ∀ t, Only [.procs, .seq, .grp 64, .sampled] b t → P t) (h1 : l.contains .procs = false := by rfl)
    (h2 : l.contains .seq = false := by rfl) : ∃ t, direct unit op n x f s = .next t ∧ XDid 0 ws l s.seq s t ∧ P t := by
  refine xop_setsP h ?_ hs hP h1 h2
  rw [if_neg (by omega), hb]; rfl

end Sys2Proof.Machine
end

