-- ==== Sys2Proof/Laws/Reads.lean ====
section
/-!
SUPPORT. Reading a register after a write, and the completion of X-class operations stated over the parts they change.
-/
namespace Sys2Proof.Machine

theorem Field.has_lt {f : Field} {i : Nat} (h : i < f.n1) (h2 : 0 < f.n2) : f.has i 0 = true := by
  unfold Field.has; simp [h, h2]

@[simp] theorem State.emit_rd (s : State) (src hop : Nat) (f : Field) (i : Nat) : (s.emit src hop).rd f i = s.rd f i := rfl
@[simp] theorem State.emit_rd2 (s : State) (src hop : Nat) (f : Field) (i j : Nat) : (s.emit src hop).rd2 f i j = s.rd2 f i j := rfl

theorem State.rd_regs {s t : State} (h : t.regs = s.regs) (f : Field) (i : Nat) : t.rd f i = s.rd f i := by
  unfold State.rd State.rd2 State.word; rw [h]

theorem State.rd2_regs {s t : State} (h : t.regs = s.regs) (f : Field) (i j : Nat) : t.rd2 f i j = s.rd2 f i j := by
  unfold State.rd2 State.word; rw [h]

theorem State.rd_ite {c : Prop} [Decidable c] (a b : State) (f : Field) (i : Nat) :
    (if c then a else b).rd f i = if c then a.rd f i else b.rd f i := by
  split <;> rfl

theorem State.rd2_ite {c : Prop} [Decidable c] (a b : State) (f : Field) (i j : Nat) :
    (if c then a else b).rd2 f i j = if c then a.rd2 f i j else b.rd2 f i j := by
  split <;> rfl

@[simp] theorem State.wrAll_nil (s : State) (i : Nat) : s.wrAll i [] = s := rfl
theorem State.wrAll_cons (s : State) (i : Nat) (f : Field) (v : Nat) (l : List (Field × Nat)) :
    s.wrAll i ((f, v) :: l) = (s.wr f i v).wrAll i l := rfl
@[simp] theorem State.clr_nil (s : State) (i : Nat) : s.clr i [] = s := rfl
theorem State.clr_cons (s : State) (i : Nat) (f : Field) (l : List Field) : s.clr i (f :: l) = (s.wr f i 0).clr i l := rfl

theorem State.rd_clr_apart {f : Field} {i n : Nat} (fs : List Field) (s : State) (hf : f.has i 0 = true)
    (h : (fs.all fun g => g.apart f) = true) : (s.clr n fs).rd f i = s.rd f i := by
  induction fs generalizing s with
  | nil => rfl
  | cons g fs ih =>
    simp only [List.all_cons, Bool.and_eq_true] at h
    show ((s.wr g n 0).clr n fs).rd f i = _
    rw [ih _ h.2]; exact State.rd_wr_apart _ h.1 _ hf

theorem Only.append_left {l m : List Part} {s t : State} (h : Only l s t) : Only (l ++ m) s t :=
  Only.mono h (List.all_eq_true.mpr fun p hp => by simp [hp])

theorem Only.append_right {l m : List Part} {s t : State} (h : Only m s t) : Only (l ++ m) s t :=
  Only.mono h (List.all_eq_true.mpr fun p hp => by simp [hp])

/-- Completion of an operation that changes only some parts. -/
theorem xop_touch {unit op : Nat} {x : XWord} {body : XArgs → State → XRes} {s b : State} {st : Nat} {l : List Part} (h : XReady x s)
    (hb : body (xargs s x) s = .fin st b) (hl : Only l s b) (h1 : l.contains .procs = false := by rfl) (h2 : l.contains .seq = false := by rfl)
    (h3 : l.contains (.grp 0) = false := by rfl) :
    ∃ t, xop unit op x body s = .next t ∧ XTouched st l s.seq s t ∧ Only [.procs, .seq, .grp 64, .sampled] b t := by
  have hp : b.procs = s.procs := Frame.procs hl (by intro hc; have : Part.procs ∈ l := hc; simp_all)
  have hq : b.seq = s.seq := Frame.seq hl (by intro hc; have : Part.seq ∈ l := hc; simp_all)
  obtain ⟨k1, k2, k3, k4⟩ := h
  refine ⟨xDone st b, ?_, ⟨xDone_status (activeCore_only hl h3) hp hq, ?_⟩, xDone_only st b⟩
  · unfold xop
    simp only [k1, k2, k3, k4, hb, Bool.not_true, Bool.or_self, Bool.false_eq_true, if_false]
  · exact Frame.trans (Only.append_left hl) (Only.append_right (xDone_only st b))

theorem direct_touch {unit op n : Nat} {x : XWord} {f : XArgs → State → Except Nat State} {s b : State} {l : List Part} (h : XReady x s)
    (hi : (xargs s x).i < n) (hb : f (xargs s x) s = .ok b) (hl : Only l s b) (h1 : l.contains .procs = false := by rfl)
    (h2 : l.contains .seq = false := by rfl) (h3 : l.contains (.grp 0) = false := by rfl) :
    ∃ t, direct unit op n x f s = .next t ∧ XTouched 0 l s.seq s t ∧ Only [.procs, .seq, .grp 64, .sampled] b t := by
  refine xop_touch h ?_ hl h1 h2 h3
  rw [if_neg (by omega), hb]; rfl

/-- An operation that stays under way. -/
theorem start_touch {unit op : Nat} {x : XWord} {body : XArgs → State → XRes} {s b : State} {l : List Part} (h : XReady x s)
    (hb : body (xargs s x) s = .start b) (hl : Only l s b) (h1 : l.contains .procs = false := by rfl) (h2 : l.contains .seq = false := by rfl)
    (h3 : l.contains (.grp 0) = false := by rfl) :
    ∃ t, xop unit op x body s = .next t ∧ XTouched 0 l (startedLong unit op x s) s t ∧ Only [.procs, .seq, .grp 64, .sampled] b t := by
  have hp : b.procs = s.procs := Frame.procs hl (by intro hc; have : Part.procs ∈ l := hc; simp_all)
  have hq : b.seq = s.seq := Frame.seq hl (by intro hc; have : Part.seq ∈ l := hc; simp_all)
  have hm : Only [.seq] b { b with seq := { b.seq with longs := b.seq.longs ++ [{ cseq := curCseq s, idx := (s.proc (activeCore s)).pc, unit := unit, op := op, inst := (xargs s x).i, addr := (xargs s x).addr }] } } :=
    (Only.of_law (l := [.seq]) rfl).seq (by simp [Covers]) (Frame.refl _ _)
  obtain ⟨k1, k2, k3, k4⟩ := h
  refine ⟨xDone 0 { b with seq := { b.seq with longs := b.seq.longs ++ [{ cseq := curCseq s, idx := (s.proc (activeCore s)).pc, unit := unit, op := op, inst := (xargs s x).i, addr := (xargs s x).addr }] } }, ?_, ⟨xDone_status (q := startedLong unit op x s) (show activeCore b = activeCore s from activeCore_only hl h3) hp (by rw [hq]; rfl), ?_⟩, Frame.trans (hm.mono rfl) (xDone_only _ _)⟩
  · unfold xop
    simp only [k1, k2, k3, k4, hb, Bool.not_true, Bool.or_self, Bool.false_eq_true, if_false]
    rfl
  · refine Frame.trans (Only.append_left hl) (Only.append_right (l := l) (Frame.trans (hm.mono rfl) (xDone_only _ _)))

end Sys2Proof.Machine
end

