-- ==== Sys2Proof/Machine/Fetch.lean ====
section
/-!
DEFINITION. The instruction that a processor is to carry out next, from the code that it runs (R277). The commands of the Zedexa rows
stand for instructions; their sender gives each processor the one that `nextInstr` names (log entry 132).
-/
namespace Sys2Proof.Machine

/-- The instruction word at the pc of processor u: of its code area, or of the control program or command (R277). -/
def nextWord (s : State) (u : Nat) : Word :=
  let c := core u
  s.read64 (physAddr c (instrAddr s c (s.proc c) (s.proc c).pc))

/-- The command that stands for it. -/
def nextInstr (s : State) (u : Nat) : Instr := decodeZedexa u (nextWord s u)

end Sys2Proof.Machine
end

