-- ==== Sys2Proof/Tests/Slice0.lean ====
section
/-!
SUPPORT. The model's own tests: ill-formed commands that the check refuses, one step on small states, and a witness for the
hypotheses of each statement.
-/
namespace Sys2Proof.Tests
open Sys2Proof.Machine

-- The tests are checked one after another, so that they hold no more than one stack.
set_option Elab.async false

/-! ### Small states -/

/-- The device right after reset with Kindling done. -/
def up : State := State.reset.wr Reg.Slc.KPHASE 0 5

/-- Fields written one after another: field, instance, value. -/
def sets (l : List (Field × Nat × Nat)) (s : State) : State := l.foldl (fun s e => s.wr e.1 e.2.1 e.2.2) s

/-- `up` with fields written. -/
def with_ (l : List (Field × Nat × Nat)) : State := sets l up

/-- Words written to memory from an address. -/
def mems (a : Nat) (ws : List Word) (s : State) : State := s.writeWords a ws

/-- An X-class word whose payload of n words lies at device address 0. -/
def xw (inst arg n : Nat) : XWord := { len := n, inst := inst, arg := arg }

/-- The state after a command. -/
def after (c : Instr) (s : State) : State := match exec c s with | .next t => t | _ => s

/-- The command answers a next state. -/
def runs (c : Instr) (s : State) : Bool := match exec c s with | .next _ => true | _ => false

/-- A word with fields put into it. -/
def pk (l : List (Field × Nat)) (w : Word := 0) : Word := l.foldl (fun w e => e.1.put 0 w e.2) w

/-- The reset word of a field's block with fields put into it. -/
def blk (f : Field) (l : List (Field × Nat) := []) (i : Nat := 0) : Word := pk l (resetWord (f.word i 0))

/-- What `XReady` asks, as a Bool. -/
def xready (x : XWord) (s : State) : Bool :=
  mayExecute s (activeCore s) && leaseHeld s && (xFault s x).isNone && (mirrored s).isNone

/-- The status of an X-class operation with instance, ARG and payload on a state that is ready for it: it names the clause
of a statement whose hypotheses the state and operands meet; 100 says that it forms its control packet, 101 that it waits. -/
def st (c : XWord → Instr) (i arg : Nat) (ws : List Word) (s : State := up) : Option Nat :=
  let s := mems 0 ws s
  let x := xw i arg ws.length
  if xready x s then
    (match exec (c x) s with
      | .next t => some (if t.seq.forming.isSome then 100 else if t.seq.wait.isSome then 101 else t.seq.status)
      | _ => none)
  else none

/-! ### Ill-formed commands -/

/-! Instances that the device does not have. -/

theorem test_wf_processor_1 : ([.add 76 {}, .sub 76 {}, .and_ 76 {}, .or_ 76 {},
    .xor_ 76 {}, .shl 76 {}, .shr 76 {}, .sra 76 {},
    .mul 76 {}, .mulh 76 {}, .slt 76 {}, .min_ 76 {},
    .max_ 76 {}, .lda 76 {}, .adda 76 {}, .movsa 76 {},
    .movas 76 {}, .ld 76 {} 0, .st 76 {}, .krd 76 {},
    .beq 76 {}, .bne 76 {}, .blt 76 {}, .bge 76 {},
    .bltu 76 {}, .bgeu 76 {}, .jal 76 {}, .jr 76 {},
    .end_ 76 {}, .evpost 76 {}, .evfire 76 {}, .rdt 76 {},
    .fence 76 {}, .xat 76 {}, .xstat 76 {}, .xwait 76 {},
    .nop 76 {}, .pfx 76 {}, .vadd 76 {}, .vsub 76 {},
    .vabsd 76 {}, .vmin 76 {}, .vmax 76 {}, .vand 76 {}] : List Instr).all (fun c => !c.wf) = true := by decide

theorem test_wf_processor_2 : ([.vor 76 {}, .vxor 76 {}, .vshl 76 {}, .vshr 76 {},
    .vrshr 76 {}, .vmul 76 {}, .vmulsh 76 {}, .vmac 76 {},
    .vlerp 76 {}, .vcmpeq 76 {}, .vcmpne 76 {}, .vcmplt 76 {},
    .vcmple 76 {}, .vcmpgt 76 {}, .vcmpge 76 {}, .vsel 76 {},
    .vmov 76 {}, .vwrd 76 {}, .vcsh 76 {}, .vwiden 76 {},
    .vnarrow 76 {}, .vlut 76 {}, .lutld 76 {}, .vhist 76 {},
    .hrd 76 {}, .hclr 76 {}, .vrsum 76 {}, .vrmin 76 {},
    .vrmax 76 {}, .pcnt 76 {}, .pand 76 {}, .por 76 {},
    .pxor 76 {}, .pandn 76 {}, .vpbit 76 {}, .vld 76 {} 0 0,
    .vst 76 {}, .out 76 {}, .wpush 76 {}] : List Instr).all (fun c => !c.wf) = true := by decide

theorem test_wf_instance_1 : ([.sumpSpanClose 4096, .sumpSpanDeliver 4096, .totaliserReport 256, .laneWake 256,
    .signalDetect 256 0, .blockLock 256, .lockLost 272, .relockTimeout 256,
    .trainStepTimeout 256, .trainRetry 256, .hiberWindow 256 0, .refMonitorWindow 16 false 0,
    .skipReceive 256 0, .alignReceive 256 0 0 0, .alignTimeout 256, .prbsResync 256,
    .eyescanPointDone 256 0, .tapackReceive 256 0 0 {} {} {} false 0, .taptoExpiry 256, .rateChangeRetrain 32,
    .lineStart 32 0 0 false false 0 0 false, .dataColumn 32 [], .lineEnd 32 0 0 false, .statusCmdrsp 32 0 0 0,
    .xsetackReceive 32 0 0 0, .camEvent 32 0 0, .statusUnknownSub { head := 32 }, .cmdtoExpiry 32,
    .xsettoExpiry 32, .headBringupRegs 32 0 0 0 0 0 0 0, .headBringupRegs 0 0 0 0 0 0 0 7, .lineCompletionTimeout 32, .triggerLineTimeout 32,
    .blktoExpiry 32 0, .blktoExpiry 0 32, .gapflExpiry 32, .hauStopComplete 32,
    .stripRun 64, .encEdge 8 false false, .wireFaultEnter 8 0, .wireFaultEnter 0 3,
    .wireFaultExit 8 0 false, .wireFaultExit 0 3 false, .illactClear 8, .indexEdge 8,
    .ssiPoll 4 false, .ssiFrameEnd 4 0 false, .ssiNorespTimeout 4, .probeEdge 8 false] : List Instr).all (fun c => !c.wf) = true := by decide

theorem test_wf_instance_2 : ([.divStep 8, .triggerCommit 32 0, .triggerIssue 32 0, .edgeTrigger 32,
    .trgPulseEnd 32, .markFire 16, .markPulseEnd 16, .stripAccept 64,
    .viewRowForm 16, .edgeExchangeReceive 0 16 false {}, .edgetoExpiry 16, .viewRowProcess 16,
    .viewGapProcess 16, .viewStopProcess 16, .boundaryWordReceive 0 16 false 0 0, .boundaryWordTimeout 16 false,
    .ledgerRecordWrite 3, .historyRowTake 32, .hflushExpiry 32, .frameCompress 32 0,
    .frameCompress 0 32, .frameWrite 32, .compressorIdleRelease 32, .ovsSourceRow 8,
    .ovsRowDeliver 8, .ovsGapReceive 8, .ovsStopComplete 8, .inboundBulkReceive 0 8 [],
    .dmaDescriptorStart 16, .dmaDescriptorComplete 16 none, .dmaTimeout 16 0, .dmaFenceComplete 16,
    .dramTrainingStart 8, .dramTrainingEnd 8 [], .periodicRetrain 8 [] 0, .dramParityError 8 0,
    .rankMigrationDone 8, .rankVerifyDone 8 false, .bankBusyRetry 102 0, .bankBusyRetry 0 256,
    .producerWordWrite 2, .helloSend 4, .helloReceive 4 0 0 0 false, .delayMeasure 4 0 0,
    .cutSubtreeTimeout 4, .ethFrameReceive 2 [] false, .ethFrameTransmit 2, .ethRingPoll 2] : List Instr).all (fun c => !c.wf) = true := by decide

theorem test_wf_instance_3 : ([.evioEdge 16 false, .channelToken 128 0, .taskInputToken 256, .activationStart 256,
    .activationEnd 256, .twXferComplete 4 0 0 [], .targetStretchTimeout 4, .controllerSclTimeout 4 false,
    .stuckRecoveryRetry 4 0, .supplyWarningEnter 7, .supplyWarningExit 7 0, .railBelowReset 7,
    .failover 72 0, .rpWatchdog 72, .plannedRotation 64 0, .plannedRotation 0 72,
    .rotationHandover 64, .selfTest 72 {} 0 0, .selfTestRetry 72, .cecntRateCheck 72 0,
    .canaryMarginLow 72 0, .calTargetRun 5 0 0 false [] 0, .sampleRecord 76 0 0 0 0, .sampleRecord 0 11 0 0 0, .eqAdaptDone 256 {} 0,
    .eqBoundHold 256 0 0, .prbsError 256 0, .unknownTypeBlock { lane := 256 }, .codeCopyComplete 72,
    .twBusFree 4] : List Instr).all (fun c => !c.wf) = true := by decide

theorem test_wf_word : ([.add 0 { d := 32 }, .add 0 { a := 32 }, .add 0 { b := 32 }, .add 0 { pred := 8 }, .add 0 { md := 16 }, .slaCfg { ar := 8 },
    .slaCfg { len := 128 }, .slaCfg { sr := 32 }, .slaCfg { inst := 65536 }, .slaCfg { arg := 65536 }, .cntclr 64 {}, .evclr 64 {},
    .progressMarkArrive 7, .stageTimeout 5 64, .stageTimeout 6 16, .stageTimeout 10 32, .stageTimeout 12 8, .stageTimeout 0 0,
    .sumpNoteReceive 0 0 0 0x38000000 0, .sumpNoteReceive 0 0 0 0x50000000 0, .twTargetWrite 1 0 []] :
    List Instr).all (fun c => !c.wf) = true := by decide

theorem test_wf_good : ([.add 75 { d := 31, a := 31, b := 31, pred := 7, md := 15 }, .slaCfg { ar := 7, len := 127, sr := 31, inst := 65535, arg := 65535 },
    .cntclr 63 {}, .laneWake 255, .lockLost 271, .blktoExpiry 31 31, .bankBusyRetry 101 255, .twTargetWrite 3 0 [], .stageTimeout 9 5] :
    List Instr).all (fun c => c.wf) = true := by decide

/-! ### Witnesses: instructions -/

/-- RP0 and RP71 are in runs. -/
def rps : State := (up.setProc 0 { run := some {} }).setProc 71 { run := some {} }

/-- A state in which RP71 is in a run of strip 0 of LRP 63, its code in area 0. -/
def running : State := up.setProc 71 { pc := 8191, run := some { lrp := 63 } }

theorem witness_takes : Takes 71 { d := 31, a := 31, b := 31, pred := 7, md := 3 } 3 (up.setProc 71 { p := [(7, 1)], run := some {} }) ∧
    Takes 72 { d := 31, md := 7 } 7 rps ∧ Takes 73 {} 0 rps ∧ Bare 71 rps ∧ Bare 73 rps := by
  unfold Takes Ready Bare; decide +kernel

theorem witness_takes_vector : TakesV 71 { d := 31, md := 15 } 15 [0, 1, 2, 3] rps ∧ TakesV 0 { md := 8 } 8 [2] rps ∧
    TakesV 71 { md := 12 } 12 [3] rps ∧ TakesV 71 { md := 14 } 14 [0, 1, 3] rps := by
  unfold TakesV Ready; decide +kernel

theorem witness_address_moves : Takes 71 { d := 7, a := 7, md := 1 } 1 rps ∧ Takes 71 { md := 3, a := 31 } 3 rps ∧
    (up.setProc 72 { pfx := some (3, 65535) }).proc 72 ≠ {} := by
  unfold Takes Ready; decide +kernel

/-- A command of 4 instructions runs on SQ0. -/
def inCommand : State := { up with seq := { up.seq with cur := some (.command 1), codeLen := 4, log := [{ cseq := 1 }] } }

theorem witness_branches : Takes 73 {} 0 inCommand ∧ Takes 71 {} 0 running ∧
    (intoProgram { inCommand with power := { inCommand.power with length := 64 } } 72 4 = true ∨
     intoProgram inCommand 72 4 = false) ∧ intoProgram running 71 8192 = false := by
  unfold Takes Ready; decide +kernel

theorem witness_loads_stores : Takes 71 { a := 7, md := 2 } 7 rps ∧ TakesV 71 { a := 7 } 0 [0] rps ∧
    accessFault rps 71 false 0 4 4 = none ∧ accessFault rps 71 true 0x7FFFFC0 4 4 = none ∧ accessFault rps 71 false 0x8020000 1024 64 = none ∧
    accessFault rps 71 true 0x7FFFC00 1024 64 = none ∧ (dirtyAfter rps 71 (rps.proc 71) 0 1024).length ≤ 512 ∧
    Takes 72 { a := 7, md := 2 } 7 rps ∧ secureWait rps 0x30000000 = false ∧ accessFault (up.wr Reg.Slc.LCSTATE 0 4) 72 true 0x3003FFFC 4 4 = none := by
  unfold TakesV Takes Ready; decide +kernel

theorem witness_events_time : Takes 72 { md := 3, imm := 3 } 3 rps ∧ Ready 71 running ∧ Bare 71 running := by
  unfold Takes Ready Bare; decide +kernel

/-- The command has a long operation that is under way, and one that has ended with BUSY. -/
def waits (done : Option Nat) : State :=
  { inCommand with seq := { inCommand.seq with longs := [{ cseq := 1, idx := 2, unit := 1, op := 4, inst := 0, addr := 0, done := done }] } }

theorem witness_sequencer_control : Takes 72 { md := 6 } 7 rps ∧ Takes 73 {} 0 (waits none) ∧ (waits none).seq.longs.any (·.done.isNone) = true ∧
    Takes 73 {} 0 (waits (some 0)) ∧ Takes 73 {} 0 (waits (some 3)) ∧
    (((waits (some 3)).seq.longs.find? fun m => m.done != some 0).map (·.done)) = some (some 3) := by
  unfold Takes Ready; decide +kernel

theorem witness_end : Takes 71 {} 0 running ∧ ((running.proc 71).run.map fun r => (r.init, r.restore, (areaOf running r.area).wdepth, r.lrp)) =
      some (false, false, 0, 63) ∧
    Takes 0 {} 0 (up.setProc 0 { run := some { init := true } }) ∧ Takes 73 {} 0 inCommand ∧
    (inCommand.seq.log.find? fun e => e.cseq == 1).isSome = true ∧ Takes 73 {} 0 rps ∧ up.seq.cur = none := by
  unfold Takes Ready; decide +kernel

theorem witness_vector_moves : TakesV 71 { md := 1 } 1 [0] rps ∧ TakesV 71 { md := 13 } 13 [0, 1, 2, 3] rps ∧ TakesV 71 { a := 7 } 0 [0] rps ∧
    TakesV 71 { md := 4 } 12 [0, 1] rps ∧ TakesV 71 { md := 6 } 14 [0, 1] rps ∧ Bare 71 rps := by
  unfold TakesV Ready Bare; decide +kernel

theorem witness_compares : TakesV 71 { d := 7, md := 9 } 13 [0, 1, 2] rps ∧ TakesV 0 { d := 1, a := 7, b := 7 } 0 [0] rps ∧
    TakesV 0 { a := 7 } 0 [0] rps := by
  unfold TakesV Ready; decide +kernel

theorem witness_shift_table_bins : TakesV 71 { imm := 0x200000 } 0 [0] rps ∧ signed 6 (immF { imm := 0x200000 } 21 16) = -32 ∧
    signed 6 (immF { imm := 0x300000 } 21 16) = -16 ∧ signed 6 (immF { imm := 0x2D00000 } 21 16) = 16 ∧
    immF { imm := 0x2500000 } 23 22 = 1 ∧ immF { imm := 0x2500000 } 25 24 = 2 ∧ TakesV 71 { md := 1 } 1 [0] rps := by
  unfold TakesV Ready; decide +kernel

theorem witness_reductions : TakesV 71 { md := 12 } 12 [0, 1, 2, 3] rps ∧ TakesV 71 { imm := 0x70000 } 0 [0] rps := by
  unfold TakesV Ready; decide +kernel


/-- Part number and stepping as the host reads them (R2, R476). -/
theorem test_bar0_part : State.reset.bar0Read 4 4 = some 0x0256A300 := by decide
/-! ### Witnesses: settings -/

theorem witness_x_ready : XReady (xw 65535 65535 64) up ∧ XReady (xw 0 0 0) up := by unfold XReady; decide +kernel

theorem witness_single_settings : [st .seqLease 0 0 [0x1400000005], st .seqLease 0 0 [0x271000001388], st .seqLease 0 0 [0x140000000B],
    st .seqWdog 0 0 [0xA00000000], st .seqWdog 0 0 [0x900000000], st .seqHandler 32 0 [0x8000000000000004], st .seqHandler 95 0 [0],
    st .seqHandler 31 0 [0], st .seqHandler 96 0 [0], st .slaEyecfg 0 0xFFFF [], st .dlgMlate 0 0 [0], st .dlgSumpcfg 0 0 [0, 10],
    st .dlgSumpcfg 0 0 [0, 1000000], st .dlgSumpcfg 0 0 [0, 9], st .cmpCfg 0 0 [1], st .cmpCfg 0 0 [64], st .cmpCfg 0 0 [65],
    st .hifMircfg 0 0 [10000], st .hifMircfg 0 0 [0], st .evrGate 0 0xFFFF [], st .pbaBudget 0 0 [40000], st .pbaBudget 0 0 [240000],
    st .pbaBudget 0 0 [40001]] =
    [some 0, some 0, some 2, some 0, some 2, some 0, some 0, some 2, some 2, some 0, some 0, some 0, some 0, some 2, some 0, some 0, some 2,
     some 0, some 2, some 0, some 0, some 0, some 2] := by decide +kernel

/-- The largest instance that each unit's counters have, and one that is too large. -/
theorem witness_clear_counters : ([(0, 0, 1), (1, 255, 256), (4, 31, 32), (7, 15, 16), (8, 15, 16), (9, 15, 16), (10, 31, 32), (11, 0, 1), (12, 7, 8),
    (13, 7, 8), (14, 15, 16), (15, 127, 128), (16, 0, 1), (18, 0, 1), (20, 3, 4), (21, 6, 7), (22, 0, 1), (24, 0, 1)] :
    List (Nat × Nat × Nat)).all (fun e => st (.cntclr e.1) e.2.1 0 [] == some 0 && st (.cntclr e.1) e.2.2 0 [] == some 2) = true := by
  decide +kernel

theorem witness_clear_counters_more : [st (.cntclr 2) 31 0 [], st (.cntclr 3) 7 0 [], st (.cntclr 3) 8 0 [], st (.cntclr 3) 11 0 [],
    st (.cntclr 3) 12 0 [], st (.cntclr 3) 16 0 [], st (.cntclr 3) 23 0 [], st (.cntclr 3) 24 0 [], st (.cntclr 3) 31 0 [],
    st (.cntclr 3) 33 0 [], st (.cntclr 5) 63 0 [], st (.cntclr 5) 71 0 [], st (.cntclr 6) 15 0 [], st (.cntclr 0x11) 0 0 [],
    st (.cntclr 0x11) 3 0 [] (with_ [(Reg.Wlk.NODE, 0, 1)]), st (.cntclr 0x13) 127 0 [], st (.cntclr 0x13) 255 0 [], st (.cntclr 0x17) 75 0 []] =
    [some 0, some 0, some 0, some 0, some 2, some 0, some 0, some 0, some 0, some 2, some 0, some 0, some 0, some 3, some 0, some 0, some 0,
     some 0] ∧ xready (xw 0 0 0) up = true := by decide +kernel

theorem witness_clear_causes : [st (.evclr 1) 255 0xFFFF [], st (.evclr 3) 7 0xFF [], st (.evclr 3) 11 1 [], st (.evclr 3) 31 1 [],
    st (.evclr 3) 32 1 [], st (.evclr 4) 31 255 [], st (.evclr 9) 15 1 [], st (.evclr 14) 15 3 [], st (.evclr 0x11) 0 255 [] (with_ [(Reg.Wlk.NODE, 0, 1)]),
    st (.evclr 0x13) 255 1 [], st (.evclr 0x14) 3 255 [], st (.evclr 0x15) 0 128 [], st (.evclr 0x18) 0 1 []] =
    List.replicate 13 (some 0) := by decide +kernel

/-- A lane of a running head; a lane that is being scanned; a lane that is LOCKED. -/
def busyLane : State := with_ [(Reg.Lane.ASSIGNED, 255, 1), (Reg.Lane.MASTER, 255, 1), (Reg.Lane.RATE, 255, 2)]

theorem witness_sensor_lanes : [st .slaCfg 256 0 [], st .slaRefsel 16 0 [], st .slaCfg 255 0 [blk Reg.Lane.RATE [(Reg.Lane.RATE, 3)]],
    st .slaCfg 255 0 [blk Reg.Lane.RATE [(Reg.Lane.RATE, 4)]] busyLane, st .slaCfg 255 0 [blk Reg.Lane.RATE [(Reg.Lane.RATE, 6)]],
    st .slaTxtaps 255 0 [0x0C3F00], st .slaTxtaps 255 0 [0x001400], st .slaTxtaps 255 0 [0x0D1400], st .slaPower 255 1 [] busyLane,
    st .slaPower 255 2 [] busyLane, st .slaPower 255 4 [] busyLane, st .slaPower 255 0 [] busyLane, st .slaPower 255 7 [],
    st .slaTrain 255 0 [], st .slaTrain 255 0 [] busyLane, st .slaPrbs 255 0x44 [] busyLane, st .slaInject 255 1 [] busyLane,
    st .slaPrbs 255 0x55 [], st .slaPrbs 255 0x44 [], st .slaInject 255 0 [], st .slaInject 255 65 [], st .slaInject 255 1 [],
    st .slaInject 255 64 []] =
    [some 2, some 2, some 2, some 4, some 0, some 2, some 0, some 2, some 4, some 4, some 4, some 0, some 0, some 2, some 0, some 4, some 4,
     some 2, some 0, some 2, some 2, some 0, some 0] := by decide +kernel

theorem witness_sensor_lanes_more : [st .slaEyescan 255 0 [0x1400000000000000] (with_ [(Reg.Lane.ESTATE, 255, 1)]),
    st .slaEyescan 255 0 [0x1300000000000000], st .slaEyescan 255 0 [0x2800000000000000], st .slaRefsel 15 1 [] (with_ [(Reg.Lane.STATE, 255, 3)]),
    st .slaRefsel 15 1 [] (with_ [(Reg.Lane.RATE, 255, 1)]), st .slaRefsel 15 1 []] =
    [some 3, some 2, some 0, some 4, some 2, some 0] := by decide +kernel

/-- A head that runs. -/
def runs31 : State := with_ [(Reg.Head.RUNNING, 31, 1), (Reg.TesHead.RUNNING, 31, 1)]

/-- Port 1 has a transaction waiting. -/
def busyTw : State := up.setTw 1 { up.twOf 1 with queue := [.voutMode] }

theorem witness_block_settings : [st .hauEslcfg 32 0 [], st .hauEslcfg 31 0 [blk Reg.EslHead.CMDTO [(Reg.EslHead.CMDTO, 100000)]],
    st .hauEslcfg 31 0 [blk Reg.EslHead.CMDTO [(Reg.EslHead.CMDTO, 0)]], st .pfuSsicfg 4 0 [],
    st .pfuSsicfg 3 0 [blk Reg.Ssi.BITS [(Reg.Ssi.BITS, 48)]], st .pfuSsicfg 3 0 [blk Reg.Ssi.BITS [(Reg.Ssi.BITS, 49)]],
    st .pfuSsicfg 3 0 [blk Reg.Ssi.BITS [(Reg.Ssi.CLKDIV, 1000)]], st .pfuPrbcfg 8 0 [],
    st .pfuPrbcfg 7 0 [blk Reg.Probe.EDGE [(Reg.Probe.PSRC, 11)]], st .pfuPrbcfg 7 0 [blk Reg.Probe.EDGE [(Reg.Probe.PSRC, 12)]],
    st .pfuDivcfg 8 0 [], st .pfuDivcfg 7 0 [blk Reg.Divider.N [(Reg.Divider.N, 7), (Reg.Divider.M, 7)]],
    st .pfuDivcfg 7 0 [blk Reg.Divider.N [(Reg.Divider.N, 8), (Reg.Divider.M, 7)]], st .tesCfg 32 0 [], st .tesCfg 31 0 [] runs31,
    st .tesCfg 31 0 [blk Reg.TesHead.LRMAX [(Reg.TesHead.LRMAX, 2000000)]], st .tesCfg 31 0 [blk Reg.TesHead.LRMAX [(Reg.TesHead.LRMAX, 0)]]] =
    [some 2, some 0, some 2, some 2, some 0, some 2, some 2, some 2, some 0, some 2, some 2, some 0, some 2, some 2, some 5, some 0,
     some 2] := by decide +kernel

theorem witness_block_settings_more : [st .dmcCfg 8 0 [], st .dmcCfg 7 0 [] (with_ [(Reg.Dmc.CHSTATE, 7, 2)]),
    st .dmcCfg 7 0 [blk Reg.Dmc.SPEED [(Reg.Dmc.SPEED, 4), (Reg.Dmc.DIMMS, 2), (Reg.Dmc.RANKS, 4)]],
    st .dmcCfg 7 0 [blk Reg.Dmc.SPEED [(Reg.Dmc.DIMMS, 1), (Reg.Dmc.RANKS, 0)]] (with_ [(Reg.Dmc.CHSTATE, 7, 3)]), st .evrTask 256 0 [],
    st .evrTask 255 0 [0], st .evrTask 255 0 [0, 0], st .twpCfg 4 0 [], st .twpCfg 1 0 [] busyTw, st .twpCfg 3 0 [blk Reg.TwpPort.STRTO [] 3],
    st .twpCfg 3 0 [blk Reg.TwpPort.STRTO [(Reg.TwpPort.SPEED, 3)]], st .calLimits 1 0 [], st .calLimits 0 0 [0], st .calLimits 0 0 [0, 0],
    st .pmuSampcfg 76 0 [], st .pmuSampcfg 75 0 [32, blk Reg.Pmu.SPERIOD], st .pmuSampcfg 75 0 [16], st .pmuSampcfg 75 0 [0, 0]] =
    [some 2, some 3, some 0, some 2, some 2, some 0, some 2, some 2, some 3, some 0, some 2, some 2, some 0, some 2, some 2, some 0, some 2,
     some 2] := by decide +kernel

/-- Node 1 of the fabric. -/
def node : State := with_ [(Reg.Wlk.NODE, 0, 1)]

theorem witness_word_settings : [st .hauShare 31 255 [], st .hauShare 32 1 [],
    st .hauShare 31 255 [] (with_ [(Reg.Head.RUNNING, 31, 1), (Reg.Head.RUNNING, 30, 1), (Reg.Head.SHARE, 30, 255), (Reg.Head.HW, 31, 512), (Reg.Head.HW, 30, 512)]),
    st .hauMap 31 0 [] runs31, st .hauMap 31 0 (List.replicate 33 0),
    st .hauMap 31 0 (List.replicate 32 0), st .rpaResume 63 0 [], st .rpaResume 64 0 [], st .rpaCfg 0 0 [0x100000000, 0x0001800000000000],
    st .rpaCfg 0 0 [0], st .rpaCfg 0 0 [0x100000000, 0x0001900000000000], st .memMode 255 1 [], st .memMode 256 0 [],
    st .memRowstore 0 0 [1] runs31, st .memRowstore 0 0 [0], st .memRowstore 0 0 [0x8000000000000000],
    st .memRowstore 0 0 [1] (with_ [(Reg.Mem.USE, 0, 4)])] =
    [some 0, some 2, some 2, some 5, some 2, some 0, some 0, some 2, some 0, some 2, some 2, some 0, some 2, some 5, some 2, some 0, some 2] := by
  decide +kernel

theorem witness_word_settings_more : [st .dmcXormap 0 0 [] (with_ [(Reg.Dmc.CHSTATE, 7, 5)]), st .dmcXormap 0 0 (List.replicate 8 0),
    st .dmcSpare 7 0 [] (with_ [(Reg.Dmc.CHSTATE, 7, 1)]), st .dmcSpare 7 0 [],
    st .dmcSpare 7 1 [] (with_ [(Reg.Dmc.DIMMS, 7, 1), (Reg.Dmc.RANKS, 7, 2)]), st .wlkRoute 0 0 [0], st .wlkRoute 16376 0 [0xFFFFFFFFFFFFFFFF] node,
    st .wlkRoute 4 0 [0] node, st .wlkRoute 0 0 [4] node, st .wlkEdge 16 0 [] node, st .wlkEdge 15 0 [0] node,
    st .wlkFwd 0 0 [0xA00000000] node, st .wlkFwd 0 0 [0] node, st .wlkFwd 0x107 0 [64, 24] node, st .wlkFwd 0x108 0 [] node,
    st .wlkFwd 0x107 0 [63] node] =
    [some 3, some 2, some 3, some 2, some 0, some 3, some 0, some 2, some 2, some 2, some 0, some 0, some 2, some 0, some 2, some 2] := by
  decide +kernel

theorem witness_xormap : st .dmcXormap 0 0 [0, 0, 0, 0x100, 0x200, 0x400, 0x800, 0x1000] (with_ [(Reg.Dmc.DIMMS, 0, 1), (Reg.Dmc.RANKS, 0, 1)]) = some 0 := by
  decide +kernel

theorem witness_word_settings_last : [st .evrChan 127 0 [0, 0, 0], st .evrChan 127 0 [0, 0], st .evrChan 128 0 [], st .evrChan 0x10F 0 [0x01000000000000],
    st .evrChan 0x10F 0 [0xC8000000000000], st .evrChan 0x10F 0 [0xC9000000000000], st .evrChan 0x110 0 [],
    st .pbaVbounds 0 0 [0x02B3038400000000], st .pbaVbounds 0 0 [0x02B2038400000000], st .pbaTarget 0 0 [0x07D00000],
    st .pbaTarget 0 0 [0x07D10000], st .pbaTarget 0 0 [0x640000, 0x820000000000, 0xEA6000000000], st .pbaMonitor 6 0 [0x0CB20C08],
    st .pbaMonitor 6 0 [0x0CB30C08], st .pbaMonitor 0 0 [0x02B0026C], st .pbaMonitor 0 0 [0x02BC026C], st .pbaMonitor 7 0 [],
    st .pmuCntset 1023 0 [0, 0], st .pmuCntset 1024 0 []] =
    [some 2, some 0, some 2, some 0, some 0, some 2, some 2, some 0, some 2, some 0, some 2, some 0, some 0, some 2, some 0, some 2, some 2,
     some 0, some 2] := by decide +kernel

/-! ### Witnesses: streamed operations, heads, triggers -/

/-- The apply context of an instruction sequence, on a state with fields written. -/
def apply_ (mode : Nat) (t : Target) (l : List (Field × Nat × Nat) := []) : State :=
  let s := with_ l
  { s with seq := { s.seq with xat := { mode := mode, target := t } } }

/-- A program image of one instruction at 0x1000, and a model of one leaf there. -/
def withImage (s : State) : State := mems 0x1000 [0x1015A58, 0x8C28B28A] s

/-- A model image at 0x1000. -/
def withModel (s : State) : State := mems 0x1500 [0x8000000000000000] (mems 0x1000 [0x1015A46, 0xA1A2EE04] s)

/-- Both window halves hold images, of which epochs in flight need each. -/
def noArea (s : State) : State := { s with rpa := { s.rpa with copies := [{ area := 0 }, { area := 1 }] } }

/-- Both model halves are being filled. -/
def noModel (s : State) : State := { s with recs := { s.recs with copies := [{ area := 0 }, { area := 1 }] } }

theorem witness_streamed : [st .rpaLoad 0 0 [0x1000] (apply_ 0 .heads), st .rpaLoad 0 0 [0x1000] (apply_ 2 .none), st .rpaLoad 0 0 [0x1000] (apply_ 2 .heads),
    st .rpaLoad 0 0 [0x1000] (noArea (withImage (apply_ 2 .heads))), st .rpaLoad 0 0 [0x1000] (withImage (apply_ 2 (.head 31))),
    st .rclModel 0 0 [0x1000] (apply_ 2 (.view 0)), st .rclModel 0 0 [0x1000] (apply_ 2 .views),
    st .rpaKset 0 0 [0x3808] (apply_ 0 .heads), st .rpaKset 0 0 [0x3809] (apply_ 0 .heads), st .rpaKset 0 0 [0x13F] (apply_ 0 (.head 31)),
    st .rpaKset 0 0 [0x13F] (apply_ 0 .views), st .rpaSmwrite 0 0 [0, 0x1000020000] (apply_ 0 .heads),
    st .rpaSmwrite 0 0 [0, 0x10000FC000] (apply_ 0 .heads), st .rpaSmwrite 0 0 [0x7FF0000, 0x1000020000] (apply_ 0 .heads)] =
    [some 2, some 2, some 0xC, some 101, some 100, some 2, some 0xC, some 100, some 2, some 100, some 2, some 100, some 2, some 100] := by
  decide +kernel

theorem witness_model : modelOk (withModel (apply_ 2 .views)) 0x1000 = true ∧ freeModel (noModel (apply_ 2 .views)) = none ∧ freeModel (apply_ 2 .views) = some 0 := by decide +kernel

theorem witness_streamed_more : [st .sstGeom 0 0 [0, 0x10000] (apply_ 0 (.head 31)), st .sstGeom 0 0 [0] (apply_ 0 .heads),
    st .sstSeam 0 0 [0x1F, 0xFFF000100000, 0x8000000000] (apply_ 0 .views), st .sstSeam 0 0 [0x20] (apply_ 0 .views),
    st .sstBlend 0 0 [0xFF] (apply_ 0 (.view 15)), st .sstBlend 0 0 [0xFF, 0xC000000000000000] (apply_ 0 .views),
    st .sstBlend 0 0 [31, 0x100000000000] (apply_ 0 (.view 15)), st .sstBlend 0 0 [31, 0x100200000000] (apply_ 0 .views),
    st .rtkPlane 0 0 [0, 0x10000000000000] (apply_ 0 (.view 15)), st .rtkPlane 0 0 [0, 0x100100000000] (apply_ 0 .views),
    st .rtkPlane 0 0 [0, 0x100000000000] (apply_ 0 (.view 15)), st .rtkPlane 0 0 [0, 0x100000000000] (apply_ 0 .views [(Reg.View.OPEN, 15, 1)]),
    st .rtkPlane 0 0 [0, 0x1000000000000] (apply_ 0 .views [(Reg.View.OPEN, 15, 1)]), st .rtkStraw 0 0 [256] (apply_ 0 .views),
    st .rtkStraw 0 0 [16777216] (apply_ 0 .views), st .rtkStraw 0 0 [255] (apply_ 0 .views), st .rtkFeat 0 0 [0x8000000000000000] (apply_ 0 .views),
    st .rtkFeat 0 0 [0xC000000000000000] (apply_ 0 .views), st .rclFeatmap 0 0 (List.replicate 32 0x1D0000001D000000) (apply_ 0 .views),
    st .rclFeatmap 0 0 [0xC0000000] (apply_ 0 .views)] = [some 100, some 2, some 100, some 2, some 100, some 2, some 100, some 2, some 2, some 2, some 100, some 5, some 100, some 100, some 100,
     some 2, some 100, some 2, some 100, some 2] := by decide +kernel

/-- Head 31 bonded to the lane 255, which is LOCKED. -/
def bonded31 : State :=
  let s := with_ [(Reg.Head.LANEMAP, 31, 255), (Reg.Lane.RATE, 255, 1), (Reg.Lane.STATE, 255, 3), (Reg.Head.HW, 31, 512), (Reg.Head.EBSLOTS, 31, 4),
    (Reg.TesHead.TSRC, 31, 2), (Reg.RpaGlobal.AVALID, 0, 1)]
  { s with bonded := [(31, true)], rpa := { s.rpa with areas := [(0, { heads := [(31, some { rowOff := 0 })] })] } }

/-- Head 31 starts. -/
def starting31 : State := bonded31.setHead 31 { start := some { dflt := true, lseq := 0 } }

theorem witness_heads : [st .hauBond 32 0 [], st .hauBond 31 0 [6], st .hauBond 31 0 [1, 0x0000], st .hauBond 31 0 [1, 0xFF00],
    st .hauBond 31 0 [1, 0xFEFF], st .hauBond 30 0 [0, 0xFF] bonded31, st .hauBond 31 0 [0, 0xFF] starting31, st .hauBond 31 0 [0, 0xFF] bonded31,
    st .hauCfg 31 0 [] runs31, st .hauCfg 31 0 (List.replicate 8 0), st .hauCfg 31 0 [blk Reg.Head.HW [(Reg.Head.DEPTH, 5)]],
    st .hauStart 31 0 [] runs31, st .hauStart 31 0 [], st .hauStop 31 0 [], st .hauStop 31 0 [] starting31,
    st .hauStop 31 0 [] (runs31.setHead 31 { stopping := true }), st .hauStop 31 0 [] runs31, st .hauCamreg 31 0 [0],
    st .hauCamreg 31 0 [0] (bonded31.wr Reg.Lane.STATE 255 2), st .hauCamreg 31 1 [0x108, 7] bonded31, st .hauCamreg 31 0 [0x108] bonded31, st .hauCamreg 31 0 [2] bonded31,
    st .hauEballoc 0 0 [] (runs31.wr Reg.Head.EBBANKS 31 1),
    st .hauCfg 31 0 [blk Reg.Head.HW [(Reg.Head.HW, 65536)]], st .hauStart 31 0 [] bonded31] =
    [some 2, some 2, some 2, some 2, some 0, some 4, some 5, some 0, some 5, some 2, some 2, some 5, some 2, some 0, some 0, some 0, some 0, some 2,
     some 4, some 2, some 0, some 2, some 5, some 0, some 0] := by decide +kernel

/-- The pair of a fabric master with no port up. -/
def master : State := with_ [(Reg.Wlk.NODE, 0, 1), (Reg.Wlk.MASTER, 0, 1), (Reg.Wlk.CUTDOM, 0, 1)]

/-- Head 31 has exposure set 3 acknowledged. -/
def acked31 : State := up.setTes 31 { acked := [3] }

theorem witness_triggers : [st .tesGrid 31 0 [0, 0, 0, 2000000], st .tesGrid 31 0 [0, 0, 0, 0], st .tesGrid 32 0 [],
    st .tesGrid 31 0 [0, 0, 0, 1] runs31, st .tesXset 31 0 [1, 0, 0, 0, 0, 0, 0, 0, 0, 0], st .tesXset 31 3 [0x7FFFFFFF], st .tesXset 31 3 [],
    st .tesXset 31 3 [] (with_ [(Reg.TesHead.XPV, 31, 1), (Reg.TesHead.XPEND, 31, 4)]), st .tesXset 32 0 [], st .tesXsel 31 4 [] acked31,
    st .tesXsel 31 3 [] acked31, st .tesXsel 31 3 [] (acked31.wr Reg.TesHead.XPV 31 1), st .tesXsel 32 0 [],
    st .tesCut 0 0 [0, 2], st .tesCut 0 0 [0, 2] master, st .tesCut 0 0 [0, 2] { master with wlk := { master.wlk with cut := some { epoch := 1, pos := 0 } } },
    st .tesCut 0 0 [0, 0] master, st .tesCut 0 0 [0, 0], st .tesCut 0 0 [0xFFFFFFFFFFFFFFFF, 0] runs31,
    st .tesCut 0 0 [0, 0] { up with cuts := List.replicate 63 {} }, st .tesCutFabric 0 0 [0, 2], st .tesCut 0 0 [0, 2] (master.wr Reg.WlkPort.PSTATE 3 2)] =
    [some 0, some 2, some 2, some 2, some 10, some 2, some 0, some 3, some 2, some 2, some 0, some 3, some 2, some 3, some 0, some 101, some 3,
     some 0, some 11, some 101, some 3, some 0] := by decide +kernel

theorem witness_position : [st .pfuEnccfg 8 0 [], st .pfuPpop 8 0 [], st .pfuEnccfg 7 0 [blk Reg.Enc.FILT [(Reg.Enc.FILT, 200)]],
    st .pfuEnccfg 7 0 [blk Reg.Enc.FILT [(Reg.Enc.FILT, 201)]], st .pfuPpop 7 0 [], st .pfuWpcfg 0 0 [blk Reg.WebPos.WPSRC [(Reg.WebPos.WPSRC, 12)]],
    st .pfuWpcfg 0 0 [blk Reg.WebPos.WPSRC [(Reg.WebPos.WPSRC, 11), (Reg.WebPos.WPALT, 31)]], st .pfuWpset 0 0 [0], st .pfuWpset 0 1 [0] runs31,
    st .pfuWpset 0 1 [0], st .pfuWpset 0 1 [0] (with_ [(Reg.WebPos.WPVALID, 0, 1)])] =
    [some 2, some 2, some 0, some 2, some 0, some 2, some 0, some 2, some 5, some 0, some 0] := by decide +kernel

theorem witness_cut_below : belowPorts ((master.wr Reg.WlkPort.PSTATE 3 2).setPort 3 { below := true }) = [3] ∧
    st .tesCut 0 0 [0, 2] ((master.wr Reg.WlkPort.PSTATE 3 2).setPort 3 { below := true }) = some 0 := by decide +kernel

/-! ### Witnesses: services, outputs, memory -/

theorem witness_fabric_services : [st .wlkNode 0 0 [], st .wlkNode 0 0 [0, blk Reg.Wlk.CUTWIN [(Reg.Wlk.CUTWIN, 99)]], st .wlkPort 0 0 [], st .wlkLease 0 0 [],
    st .wlkPort 3 0 [0, 0] node, st .wlkPort 4 0 [] node, st .wlkPort 3 0 [0, 0, 0] node,
    st .wlkLease 0 0 [blk Reg.Wlk.LSRC [(Reg.Wlk.LSRC, 11)], blk Reg.Wlk.LEASELEN, 1] node, st .wlkLease 0 0 [] node] =
    [some 0, some 2, some 3, some 3, some 0, some 2, some 2, some 0, some 2] := by decide +kernel

theorem witness_time_services : [st .tntInc 0 0 [0xFF9DB22D0E56], st .tntInc 0 0 [15984 * 2 ^ 40 / 1000 + 1], st .tntInc 0 0 [16016 * 2 ^ 40 / 1000],
    st .tntInc 0 0 [0], st .tntInc 0 0 [0x100000000000] (with_ [(Reg.Tnt.TMODE, 0, 1)]), st .tntOffset 0 0 [5] (with_ [(Reg.Tnt.TMODE, 0, 1)]),
    st .tntOffset 0 1 [5] runs31, st .tntOffset 0 1 [5], st .tntOffset 0 0 [5], st .tntPtp 2 0 [], st .tntPtp 1 0 [0, 0, 0x1000],
    st .tntPtp 1 0 [blk Reg.TntPort.EN [(Reg.TntPort.MAC, 5)] 1] (with_ [(Reg.TntPort.EN, 1, 1)]), st .tntPtp 1 0 [blk Reg.TntPort.EN [(Reg.TntPort.MAC, 5)] 1],
    st .tntPps 0 0 [0], st .tntPps 0 0 [blk Reg.Tnt.PPSW [(Reg.Tnt.PPSW, 65535)], blk Reg.Tnt.TSBW]] =
    [some 2, some 0, some 0, some 2, some 3, some 3, some 5, some 0, some 0, some 2, some 2, some 3, some 0, some 2, some 0] := by decide +kernel

/-- The payload of a two-wire transaction of 32 bytes each way. -/
def xfer : List Word := 0x202077 :: List.replicate 9 0

theorem witness_other_services : [st .twpXfer 2 0 xfer, st .twpXfer 0 0 xfer, st .twpXfer 1 0 [], st .twpXfer 1 0 (0x78 :: List.replicate 9 0),
    st .pbaEmber 0 0 [] runs31, st .calRun 0 0 [0], st .calRun 0 0 [31], st .calCfg 0 0 [0], st .calCfg 0 0 [blk Reg.Cal.DT [(Reg.Cal.DT, 40)]],
    st .pmuSnap 0 0 [], st .pmuSnap 0 1 [], st .pmuSnapFabric 0 1 [] master, st .slcAdvance 0 0 [4] runs31, st .slcAdvance 0 0 [4],
    st .slcAdvance 0 0 [4] (with_ [(Reg.Slc.LCSTATE, 0, 1)]), st .slcAdvance 0 0 [1] (with_ [(Reg.Slc.LCSTATE, 0, 1)]),
    st .slcAdvanceFuses 0 0 (0x1001 :: List.replicate 13 0) (with_ [(Reg.Slc.LCSTATE, 0, 1)]), st .slcWipe 0 0 [], st .slcKcopy 0 0 [],
    st .slcKcopy 0 0 [] (with_ [(Reg.Dmc.DIMMS, 7, 1), (Reg.Dmc.CHSTATE, 7, 2)])] =
    [some 0, some 2, some 2, some 2, some 3, some 0, some 0, some 2, some 0, some 0, some 3, some 0, some 5, some 2, some 2, some 2, some 0,
     some 0, some 3, some 0] := by decide +kernel

/-- An advance along the graph and entry into Ember go through; a wipe leaves the secure bank zero. -/
theorem witness_advance_ember : (after (.slcAdvance { len := 1 }) (mems 0 [0x10] (with_ [(Reg.Slc.LCSTATE, 0, 1)]))).rd Reg.Slc.LCSTATE 0 = 0x10 ∧
    emberBusy up = false ∧ (after (.pbaEmber {}) up).power.ember = true := by decide +kernel

/-! ### Witnesses: outputs, stores, faults -/

/-- The words of a view of 512 columns whose only member is head 31. -/
def view31 : List Word := [blk Reg.View.OPEN [(Reg.View.NMEM, 1), (Reg.View.NCOL, 512), (Reg.View.XPITCH, 16384)] 15, 0, 31, 0, 0, 0, blk Reg.View.KSEL [(Reg.View.SBWEIGHT, 1)] 15]

/-- Head 31 of 512 pixels with a slope of one column per pixel. -/
def headOf512 : State := (with_ [(Reg.Head.HW, 31, 512)]).wr2 Reg.Geom.C 31 1 (2 ^ 53)

theorem witness_views : [st .sstView 16 0 [], st .sstView 15 0 view31 headOf512, st .sstView 15 0 view31 (headOf512.wr Reg.Head.RUNNING 31 1), st .sstView 15 0 view31,
    st .sstView 15 0 [blk Reg.View.OPEN [(Reg.View.NCOL, 1048576), (Reg.View.XPITCH, 1)] 15],
    st .sstView 15 0 [blk Reg.View.OPEN [(Reg.View.NCOL, 1048577), (Reg.View.XPITCH, 1)] 15], st .sstEdge 15 0 [blk Reg.View.EXW [] 15],
    st .sstEdge 15 0 [blk Reg.View.EXW [(Reg.View.EXW, 1025)] 15], st .sstEdge 15 0 [blk Reg.View.EXW [(Reg.View.REMOTEL, 1)] 15], st .sstEdge 16 0 []] =
    [some 2, some 0, some 5, some 2, some 0, some 2, some 0, some 2, some 2, some 2] := by decide +kernel

theorem witness_ledger : [st .dlgMarkcfg 16 0 [], st .dlgMarkcfg 15 0 [0], st .dlgMarkcfg 15 0 [blk Reg.Marker.MPW [(Reg.Marker.MPW, 1)] 15, 7, 0, 1],
    st .dlgMarkcfg 15 0 [blk Reg.Marker.MPW [(Reg.Marker.MPW, 1)] 15, 7] (with_ [(Reg.Marker.EN, 15, 1), (Reg.Marker.MPW, 15, 2)]),
    st .dlgMarkcfg 15 0 [blk Reg.Marker.MPW [(Reg.Marker.MPW, 1), (Reg.Marker.EN, 1)] 15, 7] (with_ [(Reg.Marker.EN, 15, 1), (Reg.Marker.MPW, 15, 1)]),
    st .dlgRing 0 0 [] (with_ [(Reg.View.OPEN, 15, 1)]), st .dlgRing 16 1 [0, 0], st .dlgRing 15 1 [0, 0], st .dlgRing 15 1 [0, 0, 0],
    st .dlgRing 0 0 [0x10000000000, blk Reg.Ledger.LOG2N [(Reg.Ledger.LOG2N, 9)]], st .dlgRing 0 0 [0x10000000001, blk Reg.Ledger.LOG2N [(Reg.Ledger.LOG2N, 9)]],
    st .dlgRing 0 0 [0x10000000000, blk Reg.Ledger.LOG2N [(Reg.Ledger.LOG2N, 25)]]] =
    [some 2, some 2, some 0, some 3, some 0, some 3, some 2, some 0, some 2, some 0, some 2, some 0] := by decide +kernel

/-- The words of head 31's history. -/
def his31 (l : List (Field × Nat) := []) : List Word :=
  [blk Reg.HisHead.HBASE [(Reg.HisHead.HBASE, 0x10000000000)] 31, blk Reg.HisHead.HSIZE ([(Reg.HisHead.HSIZE, 0x100000)] ++ l) 31,
   blk Reg.HisHead.DLOG [(Reg.HisHead.DLOG, 10), (Reg.HisHead.DIRBASE, 0x10000100000)] 31]

/-- A channel of DRAM is ready, and head 31 keeps a history. -/
def hisState (en : Nat) : State := with_ [(Reg.Dmc.DIMMS, 0, 1), (Reg.Dmc.RANKS, 0, 1), (Reg.Dmc.CHSTATE, 0, 2), (Reg.HisHead.EN, 31, en), (Reg.Head.HW, 31, 512)]

theorem witness_history_ops : [st .hisCfg 32 0 [], st .hisCfg 31 0 his31 (hisState 0), st .hisCfg 31 0 his31 (hisState 1), st .hisCfg 31 0 (his31 [(Reg.HisHead.HSIZE, 64)]) (hisState 0),
    st .hisCrop 0 0 [0xF800000000000000] (hisState 0), st .hisCrop 0 0 [0xF800000000000000] (hisState 1), st .hisCrop 0 0 [0xF800000000000003] (hisState 1),
    st .cmpFrame 0 0 []] =
    [some 2, some 0, some 3, some 2, some 2, some 0, some 2, some 0] := by decide +kernel

/-- The words of overview stream 7. -/
def ovs7 (l : List (Field × Nat) := []) : List Word :=
  [blk Reg.Stream.SRCT ([(Reg.Stream.SRCT, 1), (Reg.Stream.SRC, 31), (Reg.Stream.DMACH, 15)] ++ l) 7, blk Reg.Stream.CW [(Reg.Stream.CW, 512)] 7, 0,
   blk Reg.Stream.RLOG [(Reg.Stream.RLOG, 24), (Reg.Stream.FROWS, 1)] 7]

/-- Stream 7 as those words set it. -/
def ovsState (l : List (Field × Nat × Nat) := []) : State :=
  let s := with_ [(Reg.Head.HW, 31, 512)]
  sets l ((List.range 4).foldl (fun s k => s.setWord (Reg.Stream.SRCT.word 7 0 + 8 * k) (ovs7.getD k 0)) s)

theorem witness_overview : [st .ovsCfg 8 0 [], st .ovsCoef 8 0 [], st .ovsStart 8 0 [], st .ovsStop 8 0 [], st .ovsCfg 7 0 ovs7 headOf512, st .ovsCfg 7 0 ovs7,
    st .ovsCfg 7 0 ovs7 (with_ [(Reg.Stream.RUNNING, 7, 1)]), st .ovsCfg 7 0 (ovs7 ++ [0, 0, 0]) headOf512, st .ovsCoef 7 0 (List.replicate 24 0), st .ovsCoef 7 0 (List.replicate 25 0),
    st .ovsCoef 7 0 [] (with_ [(Reg.Stream.RUNNING, 7, 1)]), st .ovsStart 7 0 [] ovsState, st .ovsStart 7 0 [], st .ovsStart 7 0 [] (ovsState [(Reg.Stream.RUNNING, 7, 1)]),
    st .ovsStart 7 0 [] (ovsState [(Reg.Dma.OWNER, 15, 2)]), st .ovsStop 7 0 [], st .ovsStop 7 0 [] (ovsState [(Reg.Stream.RUNNING, 7, 1)]),
    st .ovsStop 7 0 [] (ovsState [(Reg.Stream.RUNNING, 7, 1), (Reg.Stream.STOPPING, 7, 1)])] =
    [some 2, some 2, some 2, some 2, some 0, some 2, some 3, some 2, some 0, some 2, some 3, some 0, some 2, some 3, some 3, some 0, some 0,
     some 3] := by decide +kernel

theorem witness_memory_ops : [st .dmcTrain 7 0 [], st .dmcTrain 8 0 [], st .dmcTrain 7 0 [] (with_ [(Reg.Dmc.DIMMS, 7, 1)]),
    st .dmcTrain 7 0 [] (with_ [(Reg.Dmc.DIMMS, 7, 1), (Reg.Dmc.CHSTATE, 7, 3)]), st .dmcTrain 7 0 [] (with_ [(Reg.Dmc.DIMMS, 7, 1), (Reg.Dmc.CHSTATE, 7, 2)]),
    st .dmcRetire 7 4 [] (with_ [(Reg.Dmc.RANKS, 7, 4)]), st .dmcRetire 7 3 [] (with_ [(Reg.Dmc.RANKS, 7, 4)]),
    st .dmcRetire 7 3 [] (with_ [(Reg.Dmc.RANKS, 7, 4), (Reg.Dmc.CHSTATE, 7, 2)]),
    st .dmcRetire 7 3 [] (with_ [(Reg.Dmc.RANKS, 7, 4), (Reg.Dmc.CHSTATE, 7, 2), (Reg.Dmc.SPAREEN, 7, 1)]),
    st .memPower 256 0 [], st .memPower 255 3 [], st .memPower 255 2 [] (with_ [(Reg.Mem.USE, 255, 1)]), st .memPower 255 1 [] (with_ [(Reg.Mem.USE, 255, 4)])] =
    [some 2, some 2, some 0, some 0, some 3, some 2, some 3, some 0, some 0, some 2, some 2, some 3, some 0] := by decide +kernel

/-- A full queue of DMA channel 15. -/
def fullDma : State := up.setDma 15 { queue := List.replicate 4 {} }

theorem witness_dma : ([Instr.dmaLinear, .dmaRect, .dmaGather, .dmaFill, .dmaCompare, .dmaFence].flatMap fun c => [st c 16 0 [], st c 15 0 [], st c 15 1 [],
    st c 15 0 [] fullDma, st c 15 0 [] (with_ [(Reg.Dma.OWNER, 15, 1)])]) = (List.replicate 6 [some 2, some 0, some 0, some 3, some 3]).flatten := by
  decide +kernel

/-- A bank that sleeps keeps its contents. -/
theorem witness_bank_power : (after (.memPower { inst := 1, arg := 1 }) (up.setByte 0x80005 7)).byte 0x80005 = 7 := by decide +kernel

/-- The run of RP71 on LRP 63 has used all its instructions, or none. -/
def ranOut (n : Nat) : State := (running.wr Reg.RpaGlobal.RUNLIMIT 0 64).setProc 71 { pc := 3, run := some { lrp := 63 }, retired := n }

theorem witness_program_faults : ((ranOut 64).rd Reg.RpaGlobal.RUNLIMIT 0 ≤ ((ranOut 64).proc 71).retired) ∧
    (((ranOut 63).proc 71).retired < (ranOut 63).rd Reg.RpaGlobal.RUNLIMIT 0) ∧ mayExecute up 74 = false ∧ mayExecute up 75 = false ∧
    mayExecute inCommand 72 = true ∧ activeCore inCommand = 72 ∧
    offEnd inCommand 72 { pc := 4 } = true ∧ offEnd inCommand 72 { pc := 3 } = false ∧ leaseHeld up = true ∧ leaseHeld (up.wr Reg.Tnt.RAW 0 (16000 * 2 ^ 24)) = false ∧
    xFault up { len := 64 } = none ∧ xFault up { len := 65 } = some 1 ∧ xFault (up.setProc 72 { a := [(7, 4)] }) { len := 1, ar := 7 } = some 3 ∧
    xFault (up.setProc 72 { a := [(7, 0x7FFFFF8)] }) { len := 2, ar := 7 } = some 2 := by decide +kernel

/-- A command that meets a fault at its fourth instruction ends with PROGRAM_FAULT at index 3. -/
theorem witness_command_fault : ((after (.add 72 { pred := 1 }) (inCommand.setProc 72 { pc := 3 })).seq.log.map fun e => (e.open_, e.status, e.idx)) =
    [(false, 13, 3)] ∧ (after (.vadd 71 { md := 0 }) (ranOut 64)).rd Reg.Lrp.FCODE 63 = 5 ∧
    (after (.add 71 { md := 8 }) (ranOut 0)).rd Reg.Lrp.FCODE 63 = 1 ∧ (after (.xat 71 {}) (ranOut 0)).rd Reg.Lrp.HALTED 63 = 1 := by decide +kernel

/-! ### Witnesses: lanes and heads -/

/-- Lane 255 in a state, with what it keeps beside its block. -/
def lane255 (st : Nat) (l : Lane := {}) (s : State := up) : State := (s.wr Reg.Lane.STATE 255 st).setLane 255 l

/-- A grant that is held. -/
def holds (cls id : Nat) (mw : Nat := 0) (s : State) : State :=
  { s with damper := { s.damper with held := [{ cls := cls, id := id, mw := mw }] } }

theorem witness_training : (let s := holds 2 255 0 (lane255 1); s.granted 2 255 = true ∧ s.rd Reg.Lane.STATE 255 = 1 ∧ s.rd Reg.LaneGroup.REFFAULT (255 / 16) = 0) ∧
    up.granted 2 255 = false ∧
    (∀ k ∈ [1, 3, 4, 5, 6], let s := lane255 2 { step := k }; s.rd Reg.Lane.STATE 255 = 2 ∧ (s.lane 255).step = k ∧ (s.lane 255).failed = false) ∧
    bondOf (lane255 2 { step := 6 }) 255 = none ∧ (lane255 4).rd Reg.Lane.STATE 255 = 4 ∧ ((lane255 4).lane 255).relocked = false ∧
    (lane255 3).rd Reg.Lane.STATE 255 = 3 ∧ ((lane255 2 { step := 3, short := true }).lane 255).short = true ∧
    ((lane255 2 { failed := true }).lane 255).failed = true ∧ ((lane255 2 { step := 5, repeats := 3 }).lane 255).repeats = 3 ∧
    ((lane255 2 { step := 5, stale := 15, reqs := 256 }).lane 255).stale + 1 = 16 := by decide +kernel

/-- The limits of step 5: 16 answers without a gain, 256 requests. -/
theorem witness_taps : let a := fun better (l : Lane) => (after (.tapackReceive 255 0 7 { result := 1, code := 1 } { code := 2 } { code := 3 } better 1) (lane255 2 { l with step := 5, req := some { rseq := 7 } })).lane 255
    (a false { stale := 15 }).step = 6 ∧ (a false { stale := 14 }).step = 5 ∧ (a true { reqs := 255 }).step = 5 ∧ (a true { reqs := 256 }).step = 6 := by decide +kernel

/-- A lane group's monitor with a number of good windows in a row. -/
def windows (fault n : Nat) : State := { up.wr Reg.LaneGroup.REFFAULT 15 fault with goodWin := [(15, n)] }

theorem witness_monitoring : (∀ st ∈ [2, 3], (lane255 st).rd Reg.Lane.STATE 255 = st) ∧ (windows 0 0).rd Reg.LaneGroup.REFFAULT 15 = 0 ∧
    (windows 1 9).rd Reg.LaneGroup.REFFAULT 15 = 1 ∧ Tbl.get (fun _ => 0) (windows 1 9).goodWin 15 = 9 ∧ Tbl.get (fun _ => 0) (windows 1 8).goodWin 15 < 9 ∧
    Int.natAbs (-200000) ≤ 200000 ∧ ¬ Int.natAbs 300000 < 300000 ∧ 300000 < Int.natAbs (-300001) ∧
    (let s := lane255 2 { step := 6 }; bondOf s 255 = none ∧ s.rd Reg.Lane.STATE 255 = 2 ∧ (s.lane 255).step = 6) ∧
    (let s := lane255 6 { mism := 64 } (with_ [(Reg.Lane.PRBSSYNC, 255, 1), (Reg.Lane.PRBSCHK, 255, 1)]);
      s.rd Reg.Lane.PRBSSYNC 255 ≠ 0 ∧ s.rd Reg.Lane.PRBSCHK 255 ≠ 0 ∧ 64 ≤ (s.lane 255).mism) ∧
    (let s := lane255 3 { scanCross := true, scanPoint := 191, scanAddr := 0x1000 } (with_ [(Reg.Lane.ESTATE, 255, 1)]);
      s.rd Reg.Lane.ESTATE 255 = 1 ∧ s.rd Reg.Lane.STATE 255 = 3 ∧ (s.lane 255).scanPoint + 1 = 192) ∧ up.rd Reg.Lane.PRBSSYNC 255 = 0 ∧
    up.rd Reg.Lane.ESTATE 255 ≠ 1 := by decide +kernel

/-- Limits of the monitors: a window of 16 bad headers, the tenth good reference window, a SKIP at fills 12 and 13. -/
theorem witness_monitor_limits : (after (.hiberWindow 255 16) (lane255 3)).rd Reg.Lane.HIBER 255 = 1 ∧ (after (.hiberWindow 255 15) (lane255 3)).rd Reg.Lane.HIBER 255 = 0 ∧
    (after (.refMonitorWindow 15 true 200000) (windows 1 9)).rd Reg.LaneGroup.REFFAULT 15 = 0 ∧
    (after (.refMonitorWindow 15 true 200000) (windows 1 8)).rd Reg.LaneGroup.REFFAULT 15 = 1 ∧
    (after (.refMonitorWindow 15 true (-300001)) (windows 0 0)).rd Reg.LaneGroup.REFFAULT 15 = 1 ∧
    (after (.refMonitorWindow 15 true (-300000)) (windows 0 0)).rd Reg.LaneGroup.REFFAULT 15 = 0 ∧
    (after (.skipReceive 255 13) up).rd Reg.Lane.ELFILL 255 = 12 ∧ (after (.skipReceive 255 12) up).rd Reg.Lane.ELFILL 255 = 12 ∧
    (after (.skipReceive 255 3) up).rd Reg.Lane.ELFILL 255 = 4 ∧ (after (.skipReceive 255 4) up).rd Reg.Lane.ELFILL 255 = 4 := by decide +kernel

/-- Head 31, bonded to the LOCKED lane 255, in a line of 512 pixels that has a slot. -/
def inLine (l : Line := {}) : State := bonded31.setHead 31 { recs := [{ num := 7, lseq := 5 }], line := some l }

theorem witness_lines : (let e := (bonded31.setHead 31 { recs := [{ num := 7 }, { num := 8 }], gap := some {} }).head 31
      e.line = none ∧ e.gap = some {} ∧ e.recs ≠ [] ∧ (e.recs.findIdx? fun q => q.num == 8 % 65536) = some 1 ∧ (e.recs.findIdx? fun q => q.num == 9 % 65536) = none) ∧
    ((inLine { drop := true }).head 31).line = some { drop := true } ∧
    (let l : Line := { slot := some 0, len := 512, lanes := 1 }; let s := inLine l; (s.head 31).line = some l ∧ l.drop = false ∧ l.slot = some 0 ∧
      laneCount s 31 = 1 ∧ l.blocks.length + laneCount s 31 ≤ blocksFor s 31 l.len ∧ delivers s 31 0 = true ∧ l.lanes.testBit 0 = true) ∧
    bondOf bonded31 255 = some (31, 0) ∧ bondOf bonded31 254 = none ∧
    (let s := (bonded31.wr Reg.Lane.STATE 255 4).wr Reg.Head.RUNNING 31 1; s.running 31 = true ∧ 0 < laneCount s 31 ∧ delivers s 31 0 = false ∧
      (s.rd Reg.Head.LANEDOWN 31).testBit 0 = false) ∧ (up.head 31).gap = none ∧ (up.head 31).recs = [] := by decide +kernel

/-- Head 31 with a command outstanding. -/
def commanded (use : CamUse) (l : List CamCmd := []) (write : Bool := false) (addr : Nat := 0) : State :=
  bonded31.setHead 31 { cmd := some { use := use, write := write, addr := addr, tag := 3 }, cmds := l, start := some { step := 5 } }

/-- Head 31 waits for the lanes of its bonding after a rate change; their power is granted. -/
def rated : State := holds 2 255 500 ((bonded31.wr Reg.Lane.STATE 255 2).setHead 31 { reRate := true })

theorem witness_camera_commands : (∀ l ∈ [[], [({} : CamCmd)]], (((commanded (.camreg 0x1000) l).head 31).cmd.map fun q => (q.tag, q.use, q.write)) = some (3, .camreg 0x1000, false)) ∧
    (((commanded (.camreg 0x1000) [] true 0x108).head 31).cmd.map fun q => (q.write, q.addr)) = some (true, 0x108) ∧
    (((commanded .start).head 31).cmd.map (·.use)) = some .start ∧ (((commanded .stop).head 31).cmd.map (·.use)) = some .stop ∧
    (let s := bonded31.setHead 31 { start := some { step := 5 }, maxLrate := 2 ^ 32 }; (s.head 31).cmd = none ∧ (s.head 31).start = some { step := 5 } ∧
      (∀ n ∈ bondLanes s 31, s.rd Reg.Lane.STATE n = 3) ∧ cameraStatus s 31 0x10000 ≠ 0 ∧
      cameraStatus (sets [(Reg.Lane.RATE, 255, 2), (Reg.EslHead.CAMCAPS, 31, 0xFFFFFFFF), (Reg.EslHead.CAMMAXLEN, 31, 65535)] s) 31 0x10000 = 0) ∧
    (up.head 31).start = none ∧ (rated.head 31).reRate = true ∧ (up.head 31).reRate = false ∧
    (∀ n ∈ bondLanes rated 31, wakeMw rated n ≤ ((rated.damper.held.filter fun g => g.cls == 2 && (g.id == n || g.id == 256 + n)).map (·.mw)).sum ∧
      n < 256 ∧ rated.rd Reg.Lane.STATE n = 2 ∧ (rated.lane n).step = 0) := by decide +kernel

/-- Exposure sets of head 31 being downloaded. -/
def downloading (start again : Bool) (sets : List Nat) : State :=
  (up.setTes 31 { dl := some { set := 3, xtag := 7, start := start, again := again } }).setHead 31 { start := some { step := 7, sets := sets } }

/-- Head 31 runs with free-running triggers, one committed and due. -/
def triggering : State := (with_ [(Reg.TesHead.RUNNING, 31, 1), (Reg.TesHead.TSRC, 31, 1), (Reg.TesHead.TPER, 31, 1), (Reg.TesHead.LRMAX, 31, 1)]).setTes 31
  { queue := [{ at_ := 0, issue := 0 }], due := 1, last := some 0 }

theorem witness_triggering : (let d := (downloading false false []); (d.tesOf 31).dl = some { set := 3, xtag := 7 }) ∧
    ((downloading true false [4]).tesOf 31).dl = some { set := 3, xtag := 7, start := true } ∧
    ((downloading true false [4]).head 31).start = some { step := 7, sets := [4] } ∧ ((downloading true true []).tesOf 31).dl.map (·.again) = some true ∧
    (up.tesOf 31).dl = none ∧ triggering.rd Reg.TesHead.RUNNING 31 ≠ 0 ∧ dueAt triggering 31 0 = true ∧ dueAt up 31 0 = false ∧ scheduleOf triggering 31 = [31] ∧
    (scheduleOf triggering 31).Nodup ∧ (0 : Nat) < 0 + tminTicks triggering 31 ∧
    0 + tminTicks triggering 31 - advance triggering 31 > triggering.raw + commitTicks ∧
    (let s := triggering.wr Reg.TesHead.LRMAX 31 2000000; max 0 (0 + tminTicks s 31) - advance s 31 ≤ s.raw + commitTicks) ∧
    ((triggering.tesOf 31).queue.head?.map (·.issue)) = some 0 ∧ triggering.raw = 0 ∧ (triggering.head 31).recs.length < 1024 ∧ (triggering.tesOf 31).due ≠ 0 ∧
    (up.tesOf 31).queue = [] ∧ (up.tesOf 31).due = 0 ∧ ((up.setTes 31 { due := 1 }).tesOf 31).last = none := by decide +kernel

/-! ### Witnesses: position, control packets -/

/-- Encoder channel 7 enabled, with fields and what it keeps beside its block. -/
def enc7 (l : List (Field × Nat × Nat) := []) (e : EncState := {}) : State := (sets l (with_ [(Reg.Enc.EN, 7, 1)])).setEnc 7 e

/-- The web position from encoder channel 7. -/
def web7 (l : List (Field × Nat × Nat) := []) (w : WebState := {}) : State :=
  (enc7 ([(Reg.WebPos.WPVALID, 0, 1), (Reg.WebPos.WPSRC, 0, 7), (Reg.WebPos.WPALT, 0, 16)] ++ l)).setWeb w

theorem witness_encoder : enc7.rd Reg.Enc.EN 7 ≠ 0 ∧ up.rd Reg.Enc.EN 7 = 0 ∧ ((enc7.encOf 7).a, (enc7.encOf 7).b) = (false, false) ∧
    (∀ d ∈ [0, 1, 2], (enc7 [(Reg.Enc.DEC, 7, d)]).rd Reg.Enc.DEC 7 = d) ∧ follows enc7 7 (0 + edgeDir false true false - enc7.rdI Reg.Enc.COUNT 7) = true ∧
    follows (enc7 [(Reg.Enc.HYST, 7, 1), (Reg.Enc.DIRN, 7, 1)] { counted := true }) 7 (0 + edgeDir false true false - 0) = false ∧
    (∀ p ∈ [0, 1, 2], (enc7.rd (wfField p) 7 = 0) ∧ (enc7 [(wfField p, 7, 1)]).rd (wfField p) 7 ≠ 0) ∧
    (let s := enc7 [(Reg.Enc.ZMODE, 7, 1), (Reg.Enc.ZGATE, 7, 1), (Reg.Enc.CPR, 7, 9)] { a := true, b := true, zSeen := true };
      s.rd Reg.Enc.WFZ 7 = 0 ∧ s.rd Reg.Enc.ZGATE 7 ≠ 0 ∧ (s.encOf 7).a = true ∧ (s.encOf 7).b = true ∧ s.rd Reg.Enc.ZMODE 7 = 1 ∧ (s.encOf 7).zDone = false ∧
      s.rd Reg.Enc.CPR 7 ≠ 0 ∧ (s.encOf 7).zSeen = true ∧ indexOk s 7 = false) ∧ indexOk enc7 7 = true := by decide +kernel

/-- An SSI port in a frame. -/
def inFrame (l : List (Field × Nat × Nat)) (low seen : Bool) : State :=
  { with_ l with ssi := [(3, { frame := some 0, idleLow := low, seen := seen })] }

theorem witness_ssi : (with_ [(Reg.Ssi.EN, 3, 1)]).rd Reg.Ssi.EN 3 ≠ 0 ∧ (up.ssiOf 3).frame = none ∧ ((inFrame [] false false).ssiOf 3).frame.isSome = true ∧
    (let s := inFrame [(Reg.Ssi.BITS, 3, 8), (Reg.Ssi.ERRBIT, 3, 1)] true true; (s.ssiOf 3).idleLow = true ∧ s.rd Reg.Ssi.ERRBIT 3 ≠ 0 ∧
      2 ^ (s.rd Reg.Ssi.BITS 3 - 1) ≤ (ssiDelta 8 128 (s.rd Reg.Ssi.SVALUE 3)).natAbs ∧ ¬ 2 ^ (s.rd Reg.Ssi.BITS 3 - 1) ≤ (ssiDelta 8 127 0).natAbs) := by
  decide +kernel

/-- Probe 7 takes rising edges; its FIFO holds n records. -/
def probe7 (n : Nat) : State := { with_ [(Reg.Probe.EN, 7, 1), (Reg.Probe.EDGE, 7, 1)] with probes := [(7, List.replicate n {})] }

theorem witness_probes_dividers : (probe7 15).rd Reg.Probe.EN 7 ≠ 0 ∧ ((probe7 15).rd Reg.Probe.EDGE 7).testBit 0 = true ∧ ((probe7 15).probe 7).length < 16 ∧
    16 ≤ ((probe7 16).probe 7).length ∧ up.rd Reg.Probe.EN 7 = 0 ∧
    (let s := { with_ [(Reg.Divider.EN, 7, 1)] with divs := [(7, { backlog := -1 })] }; s.rd Reg.Divider.EN 7 ≠ 0 ∧ (s.divOf 7).backlog ≠ 0) ∧
    up.rd Reg.Divider.EN 7 = 0 := by decide +kernel

theorem witness_web_source : (let s := web7 [(Reg.Enc.WFA, 7, 1)]; s.wpValid = true ∧ srcFaulted s (s.rd Reg.WebPos.WPSRC 0) = true ∧ s.web.coast = none ∧
      s.rd Reg.WebPos.ALTEN 0 = 0) ∧
    (let s := web7 [(Reg.Enc.WFA, 7, 1), (Reg.WebPos.ALTEN, 0, 1)] { fabFault := false }; s.rd Reg.WebPos.ALTEN 0 ≠ 0 ∧ srcEnabled s (s.rd Reg.WebPos.WPALT 0) = true ∧
      srcFaulted s (s.rd Reg.WebPos.WPALT 0) = false) ∧
    (let s := web7 [] { coast := some {} }; s.wpValid = true ∧ ¬ srcFaulted s (s.rd Reg.WebPos.WPSRC 0) = true ∧ s.web.coast.isSome = true) ∧ up.wpValid = false := by
  decide +kernel

/-- An operation that targets the running head 31 forms its packet. -/
def formed : State :=
  let s := (apply_ 0 (.head 31)).wr Reg.Head.RUNNING 31 1
  { s with seq := { s.seq with forming := some { unit := 6, op := 2 } } }

/-- A CTRL packet in transit, on a state. -/
def travels (p : Pkt) (s : State := up) : State := { s with transit := [{ stage := 6, pkt := p }] }

/-- 64 packets of head 31 are held at SST. -/
def heldFull (s : State) : State := { s with held := List.replicate 64 { stage := 6, pkt := { stream := 31 } } }

theorem witness_control_packets : formed.seq.forming = some { unit := 6, op := 2 } ∧ leaseHeld formed = true ∧ formed.seq.stopped = false ∧
    contextStreams formed = [(false, 31)] ∧ poolFull formed 6 false 31 = false ∧ actsOnce (formPkt formed { unit := 6, op := 2 } (false, 0)) = false ∧
    streamRuns formed false 31 = true ∧ up.seq.forming = none ∧ up.transit[0]? = none ∧
    (let s := travels { unit := 6, op := 2, stream := 31 } formed; s.transit[0]?.map (·.stage) = some 6 ∧ actsOnce ((s.transit.getD 0 {}).pkt) = false ∧
      heldCount s (s.transit.getD 0 {}) < 64 ∧ 64 ≤ heldCount (heldFull s) (s.transit.getD 0 {})) ∧
    (let s := travels { unit := 6, op := 2, stream := 31, mode := 2, value := 1 }; streamRuns s false 31 = false ∧ epochLater 1 (s.rd Reg.Cut.EPOCH 0) = true) ∧
    (let s := travels { unit := 6, op := 2, stream := 31, mode := 2, value := 0 }; epochLater 0 (s.rd Reg.Cut.EPOCH 0) = false ∧ s.cuts = []) ∧
    (let p : Pkt := { unit := 8, op := 1, words := [0x1000] }; actsOnce p = true ∧ (startCopy p { travels p with transit := [] }).isSome = true ∧
      startCopy p { noModel (travels p) with transit := [] } = none) := by decide +kernel

theorem witness_packets_pass : (∀ k ∈ [2, 5, 6], (({ up with cutPkts := [{ stage := k, stream := 31 }] } : State).cutPkts[0]?.map (·.stage)) = some k) ∧ up.cutPkts[0]? = none ∧
    (({ up with gaps := [{ stage := 5, stream := 31 }] } : State).gaps[0]?.map (·.stage)) = some 5 ∧ up.gaps[0]? = none ∧
    (({ up with recs := { fifo := [.mark 15 .stop], toDlg := [.mark 15 .stop] } } : State).recs.fifo = [.mark 15 .stop]) ∧ up.cuts = [] ∧ up.recs.fifo = [] ∧
    up.recs.toDlg = [] ∧ takeOut 63 [({ lrp := 63 } : Strip)] = some ({ lrp := 63 }, []) ∧ takeOut 63 up.rpa.outbox = none ∧
    (let s := (with_ [(Reg.View.OPEN, 15, 1), (Reg.View.NCOL, 15, 512)]).setView 15 { rows := [{}] }; rowToForm s 15 = some {} ∧
      storeRoom (s.setWord (Reg.Mem.ROWSTORE.word 0 0) 0) 15 {} = false) ∧
    (let s := (with_ [(Reg.View.OPEN, 15, 1)]).setView 15 { rows := [{}] }; storeRoom (s.setWord (Reg.Mem.ROWSTORE.word 0 0) 1) 15 {} = true) ∧
    rowToForm up 15 = none := by decide +kernel

theorem witness_full_fifo (n : Nat) : fifoRecords (List.replicate n (.record [])) = n := by
  simp [fifoRecords, List.countP_replicate]

theorem witness_stage_timeouts : fifoRecords [] < 65536 ∧
    (({ up with recs := { held := [.record [0]], fifo := [.record [0]], toDlg := [.record [0]] } } : State).recs.held = [.record [0]]) ∧
    dlgHolds { up with recs := { toDlg := [.record [0]] } } = true ∧ dlgHolds up = false ∧
    (let s := (with_ [(Reg.HisHead.EN, 31, 1)]).setHead 31 { rows := [{ slot := 3 }] }; s.rd Reg.HisHead.EN 31 ≠ 0 ∧ untaken s 31 = some { slot := 3 }) ∧
    up.rd Reg.HisHead.EN 31 = 0 ∧ ((up.setOvs 7 { held := [{}] }).ovsOf 7).held = [{}] ∧ (up.ovsOf 7).held = [] ∧
    stopSettled (up.setHead 31 { stopping := true }) 31 = true ∧ stopSettled up 31 = false := by
  decide +kernel

/-! ### Witnesses: rows, runs, records -/

/-- Finished strips of logical row processor 63, of head 31. -/
def boxed (t : Tag) (s : State := up) : State := { s with rpa := { s.rpa with outbox := [{ lrp := 63, tag := t }] } }

/-- View 15 is open and its next row complete. -/
def rowReady (l : List (Field × Nat × Nat) := []) (store : Nat := 1) : State :=
  ((with_ ([(Reg.View.OPEN, 15, 1)] ++ l)).setView 15 { rows := [{ n := 4 }] }).setWord (Reg.Mem.ROWSTORE.word 0 0) (.ofNat 64 store)

/-- An item in the row store that RTK and stream 7 are to take. -/
def stored (i : StoreItem) (l : List (Field × Nat × Nat) := []) : State :=
  { with_ ([(Reg.Stream.RUNNING, 7, 1), (Reg.Stream.SRC, 7, 15)] ++ l) with store := [{ i with vs := true, src := 15, need := [7, 8] }] }

theorem witness_strips : takeOut 63 up.rpa.outbox = none ∧
    (let s := boxed { head := 31, flags := 2 ^ fREPLAY }; (takeOut 63 s.rpa.outbox).isSome = true ∧ sstRoom s { tag := { head := 31 } } = true ∧
      headRowWaits s { tag := { head := 31 } } = false ∧
      (Tbl.get (fun _ => []) ({ s with commits := [(31, [(0, 0)])] } : State).commits 31).contains (0, 0) = true) ∧
    (let s := boxed { head := 31, lseq := 9 } ((with_ [(Reg.View.NMEM, 15, 1)]).wr2 Reg.View.MEMBERS 15 0 31);
      sstRoom (s.setView 15 { rows := [{ mems := [{ head := 31, lseq := 9 }] }] }) { tag := { head := 31, lseq := 9 } } = false) := by decide +kernel

theorem witness_view_rows : rowToForm up 15 = none ∧ (rowToForm rowReady 15).map (·.n) = some 4 ∧ storeRoom rowReady 15 { n := 4 } = true ∧
    storeRoom (rowReady [(Reg.View.NCOL, 15, 512)] 0) 15 { n := 4 } = false ∧ rowReady.rd Reg.View.REMOTEL 15 = 0 ∧ rowReady.rd Reg.View.REMOTER 15 = 0 ∧
    (let s := rowReady [(Reg.View.REMOTER, 15, 1)]; s.rd Reg.View.REMOTER 15 ≠ 0 ∧ edgeFor (s.view 15).right 4 = none) := by decide +kernel

theorem witness_row_store : rtkNext up 15 = none ∧ rtkHolds up = false ∧ (rtkNext (stored {}) 15).map (·.kind) = some .row ∧ wordsReady (stored {}) 15 0 = true ∧
    wordsReady (stored {} [(Reg.View.REMOTEL, 15, 1)]) 15 0 = false ∧
    (rtkNext (stored { kind := .gap { count := 1 } }) 15).map (·.kind) = some (.gap { count := 1 }) ∧ (stored {} [(Reg.RtkView.GAPBRIDGE, 15, 0)]).rd Reg.RtkView.GAPBRIDGE 15 < 1 ∧
    (rtkNext (stored { kind := .stop }) 15).map (·.kind) = some .stop ∧ rtkHolds { up with recs := { held := [.record []] } } = true := by decide +kernel

theorem witness_history_overview_rows : untaken up 31 = none ∧
    (let s := (with_ [(Reg.HisHead.EN, 31, 1)]).setHead 31 { rows := [{ slot := 3 }] }; s.rd Reg.HisHead.EN 31 ≠ 0 ∧ untaken s 31 = some { slot := 3 }) ∧
    ovsNext up 7 = none ∧ (ovsNext (stored {}) 7).map (·.kind) = some .row ∧ ((stored {}).ovsOf 7).gaps = [] ∧ ovsRoom (stored {}) 7 = true ∧
    ovsRoom ((stored {}).setOvs 7 { held := List.replicate 4 {} }) 7 = false ∧ (((stored {}).setOvs 7 { gaps := [{}] }).ovsOf 7).gaps ≠ [] ∧
    (ovsNext (stored { kind := .gap { count := 1 } }) 7).map (·.kind) = some (.gap { count := 1 }) ∧ 0 ≤ (stored {}).rd Reg.Stream.OGAPMAX 7 ∧
    (ovsNext (stored { kind := .stop }) 7).map (·.kind) = some .stop := by decide +kernel

/-- An RPA.LOAD or RCL.MODEL that waits for an area, its payload at 0. -/
def waitsArea (unit : Nat) (s : State) : State := mems 0 [0x1000] { s with seq := { s.seq with wait := some (unit, 1, xw 0 0 1) } }

theorem witness_waiting_loads : (∀ u ∈ [5, 8], ((waitsArea u up).seq.wait = some (u, 1, xw 0 0 1))) ∧ freeArea (noArea up) = none ∧ freeArea up ≠ none ∧
    freeModel (noModel up) = none ∧ freeModel up ≠ none ∧
    xready (xw 0 0 1) ({ waitsArea 5 up with seq := { (waitsArea 5 up).seq with wait := none } }.wr Reg.RpaGlobal.LOADPEND 0 0) = true ∧
    imageOk (waitsArea 5 (withImage (apply_ 2 .heads))) 0x1000 = true ∧ (waitsArea 5 (apply_ 2 .heads)).seq.xat.mode = 2 ∧ up.seq.wait = none := by decide +kernel

/-- Logical row processor 63 may run strip 0 of head 31's oldest row, whose image lies in area 0. -/
def mayRun (l : List (Field × Nat × Nat) := []) : State :=
  let s := sets l (bonded31.wr Reg.Head.RUNNING 31 1)
  let s := (s.wr2 Reg.StripMap.LRPOF 31 0 63).wr Reg.Lrp.PHYS 63 71
  s.setHead 31 { rows := [{ tag := { head := 31 }, todo := [0] }] }

theorem witness_strip_run : unboundAt mayRun 63 = false ∧ nextRestore mayRun 63 = none ∧ mayRun.rd Reg.RpaDep.PSTATE 71 ≠ 3 ∧
    lrpFree (holds 3 71 0 (mayRun [(Reg.RpaDep.PSTATE, 71, 0)])) 63 = true ∧ mayRun.rd Reg.Lrp.PHYS 63 = 71 ∧ lrpFree (boxed {} mayRun) 63 = false ∧
    journalRoom mayRun 63 = true ∧ mayRun.held = [] ∧
    journalRoom { mayRun with rpa := { mayRun.rpa with journals := List.replicate 4 { lrp := 63, lines := List.replicate 400 (0, []) } } } 63 = false ∧
    (nextHead mayRun 63).map (·.1) = some 31 ∧ ((pendingOn mayRun 63 31).map fun e => (e.1.tag.head, e.2)) = some (31, 0) ∧
    areaFor mayRun 0 = some 0 ∧ (Tbl.get (fun _ => none) (areaOf mayRun 0).heads 31).isSome = true ∧ mayRun.rd Reg.Lrp.HALTED 63 = 0 ∧
    (({ mayRun with rpa := { mayRun.rpa with replays := [{ lrp := 63 }] } } : State).rpa.replays.find? fun q => q.lrp == 63) = some { lrp := 63 } ∧
    (mayRun.rpa.replays.find? fun q => q.lrp == 63) = none := by decide +kernel

theorem witness_copies : (up.rpa.copies.find? fun c => c.rp == 71) = none ∧
    (let s : State := { up with rpa := { up.rpa with copies := [{ rp := 71, area := 1, addr := 0x1000 }] } };
      (s.rpa.copies.find? fun c => c.rp == 71).map (·.area) = some 1 ∧ 0x1000 + 0x200 + 8 * bits (imgWord s 0x1000 0) 39 24 ≤ 0x8000000) ∧
    up.recs.copies = [] ∧ (noModel up).recs.copies.map (·.area) = [0, 1] := by decide +kernel

theorem witness_edge_exchange : (up.portUp 3 = false) ∧ (with_ [(Reg.WlkPort.PSTATE, 3, 2)]).portUp 3 = true ∧
    (with_ [(Reg.View.REMOTER, 15, 1)]).rd Reg.View.REMOTER 15 ≠ 0 ∧ rowGone rowReady 15 4 = false ∧ rowGone rowReady 15 5 = true ∧
    (let s := stored {} [(Reg.View.REMOTER, 15, 1)]; (rtkNext s 15).map (·.kind) = some .row ∧ s.rd Reg.View.REMOTER 15 ≠ 0 ∧
      (s.rtk 15).missR.contains 1 = false ∧ ((s.view 15).wordsR.any fun q => q.1 == 1) = false) := by decide +kernel

theorem witness_records : (let s : State := { up with recs := { held := [.record [0]], fifo := [.record [0]] } }; s.recs.held = [.record [0]] ∧
      fifoRecords s.recs.fifo < 65536 ∧ dlgHolds s = false ∧ waitsModel s [0] = false) ∧ waitsModel (noModel up) [0] = true ∧
    dlgHolds { up with recs := { toDlg := [.record [0]] } } = true ∧ up.recs.held = [] ∧ up.recs.fifo = [] := by decide +kernel

/-! ### Witnesses: ledger, Sump, fabric -/

/-- A state whose ledger ring lies in DRAM. -/
def ringed (l : List (Field × Nat × Nat) := []) : State := with_ ([(Reg.Dmc.DIMMS, 0, 1), (Reg.Dmc.RANKS, 0, 1), (Reg.Dmc.CHSTATE, 0, 2),
  (Reg.Ledger.LBASE, 0, dramBase), (Reg.Ledger.LOG2N, 0, 9), (Reg.Ledger.LRESV, 0, 4)] ++ l)

/-- A record has reached DLG. -/
def reached (s : State := ringed) : State := { s with recs := { s.recs with toDlg := [.record [0]] } }

/-- A record forwarded by node 3 waits. -/
def inboxed (w : Word) (s : State := ringed) : State := { s with dlg := { s.dlg with inbox := [[w]] } }

theorem witness_marks : (let s := { with_ [(Reg.WebPos.WPVALID, 0, 1)] with marks := [{ marker := 15 }] }; s.wpValid = true ∧ reaches (s.rd Reg.Marker.MDIR 15) s.pos 0 = true ∧
      Tbl.get (fun _ => false) s.markPins 15 = false ∧ Tbl.get (fun _ => false) ({ s with markPins := [(15, true)] } : State).markPins 15 = true) ∧ up.marks = [] := by
  decide +kernel

theorem witness_ledger_records : reached.recs.toDlg = [.record [0]] ∧ ringTakes ringed false = true ∧ coverageReady ringed = false ∧ ringTakes up false = false ∧
    (recKeys reached 0).contains [0, 0, 0, 0] = false ∧ reached.rd Reg.Ledger.COLLECT 0 = 0 ∧
    (recKeys { reached with dlg := { reached.dlg with recKeys := [(0, [[0, 0, 0, 0]])] } } 0).contains [0, 0, 0, 0] = true ∧
    (takeForwarded [5] (inboxed 5)).isSome = true ∧ takeForwarded [5] (inboxed 5 up) = none ∧ up.dlg.inbox = [] ∧ (inboxed 5).dlg.inbox = [[5]] ∧
    (({ ringed with dlg := { ringed.dlg with links := [[]] } } : State).dlg.links = [[]]) ∧ up.dlg.links = [] := by decide +kernel

theorem witness_forwarding : (let s := ringed [(Reg.Ledger.RDEN, 0, 2), (Reg.Wlk.COLLECTOR, 0, 7), (Reg.Wlk.NODE, 0, 5), (Reg.Ledger.LWP, 0, 256), (Reg.WlkPort.PSTATE, 3, 2),
        (Reg.Ledger.COLLECT, 0, 1)]
      let t : State := { s with dlg := { s.dlg with fwdNext := 255 } }
      (t.rd Reg.Ledger.RDEN 0).testBit 1 = true ∧ t.rd Reg.Wlk.COLLECTOR 0 ≠ 0 ∧ t.rd Reg.Wlk.NODE 0 ≠ 0 ∧ t.dlg.fwdNext < t.rd Reg.Ledger.LWP 0 ∧
      t.dlg.fwdNext < t.rd Reg.Ledger.LRD1 0 + 256 ∧ ringUp t = true ∧ t.portUp 3 = true ∧ t.rd Reg.Ledger.LRD1 0 < t.dlg.fwdNext ∧ t.rd Reg.Ledger.COLLECT 0 ≠ 0 ∧
      t.dlg.inbox = [] ∧ (takeForwarded [5] t).isSome = true) ∧ up.portUp 3 = false ∧ up.dlg.fwdNext ≤ up.rd Reg.Ledger.LRD1 0 := by decide +kernel

/-- Span n of the Sump. -/
def spanned (src kind : Nat) (closed : Bool) (s : State := ringed) : State := s.setSpan 4095 { valid := true, src := src, skind := kind, rows := 1, closed := closed }

/-- Stream 7 runs with an output ring in DRAM. -/
def delivering (l : List (Field × Nat × Nat) := []) : State :=
  ringed ([(Reg.Stream.RUNNING, 7, 1), (Reg.Stream.RBASE, 7, dramBase + 0x100000), (Reg.Stream.RLOG, 7, 4), (Reg.Stream.ROWBYTES, 7, 64)] ++ l)

theorem witness_spans : noteSource 0x37 = true ∧ noteSource 0x40 = true ∧ noteSource 0x4F = true ∧ noteSource 0x50 = false ∧
    (∀ c ∈ [false, true], ((spanned 0x20 6 c).span 4095).valid = true ∧ ((spanned 0x20 6 c).span 4095).closed = c) ∧ (up.span 4095).valid = false ∧
    ledgerKind 6 = true ∧ ledgerKind 0x10 = true ∧ ledgerKind 0x20 = false ∧ ledgerKind 10 = false ∧ (spanKeys (spanned 0x20 6 true) 0x20).contains [6, 0, 0] = false ∧
    (spanKeys { up with dlg := { up.dlg with spanKeys := [(0x20, [[6, 0, 0]])] } } 0x20).contains [6, 0, 0] = true ∧ ringTakes ringed true = true ∧ ringTakes up true = false ∧
    entryRoom delivering 7 = true ∧ entryRoom (delivering [(Reg.Stream.ORWP, 7, 16)]) 7 = false ∧ hifTakes up = false ∧
    hifTakes (with_ [(Reg.Bar0.CEN, 0, 1)]) = true ∧
    (ringed [(Reg.Ledger.LOG2N, 0, 9)]).rd2 Reg.Ledger.TSPANS 0 255 = 0 ∧ (ringed.wr2 Reg.Ledger.TSPANS 0 0x20 1).rd2 Reg.Ledger.TSPANS 0 0x20 ≠ 0 ∧
    (List.range 8).filter (delivering.on Reg.Stream.RUNNING) = [7] := by decide +kernel

theorem witness_overview_delivery : ((delivering.setOvs 7 { held := [{ frameEnd := true }] }).ovsOf 7).held = [{ frameEnd := true }] ∧ (up.ovsOf 7).held = [] ∧
    (let s := delivering [(Reg.Stream.STOPPING, 7, 1), (Reg.Stream.DMACH, 7, 15)]; s.rd Reg.Stream.STOPPING 7 ≠ 0 ∧ (s.ovsOf 7).flush = none ∧ (s.ovsOf 7).held = [] ∧
      s.rd Reg.Stream.DMACH 7 < 16) ∧
    (let s := ringed [(Reg.WlkInbound.IRLOG, 7, 4), (Reg.WlkInbound.IRBASE, 7, dramBase + 0x200000), (Reg.WlkPort.PSTATE, 3, 2)]; s.portUp 3 = true ∧
      s.rd Reg.WlkInbound.IRLOG 7 ≠ 0 ∧ ¬ 2 ^ 4 ≤ (s.rd Reg.WlkInbound.IRWP 7 + 2 ^ 64 - (s.read64 (s.rd Reg.WlkInbound.IRBASE 7 + 8 * 16)).toNat) % 2 ^ 64 ∧
      2 ^ 4 ≤ ((s.wr Reg.WlkInbound.IRWP 7 16).rd Reg.WlkInbound.IRWP 7 + 2 ^ 64 - 0) % 2 ^ 64) ∧ up.rd Reg.WlkInbound.IRLOG 7 = 0 := by decide +kernel

/-- Node 5 of a fabric of three voters, its port 3 up. -/
def node5 (l : List (Field × Nat × Nat) := []) (w : WlkState := {}) : State :=
  let s := with_ ([(Reg.Wlk.NODE, 0, 5), (Reg.Wlk.CUTDOM, 0, 1), (Reg.Wlk.LEASELEN, 0, 50), (Reg.WlkPort.PSTATE, 3, 2)] ++ l)
  (((s.wr2 Reg.Wlk.VOTERSLO 0 0 5).wr2 Reg.Wlk.VOTERSLO 0 1 6).wr2 Reg.Wlk.VOTERSHI 0 2 7).setWlk w

theorem witness_fabric : up.rd Reg.WlkPort.PSTATE 3 = 0 ∧ node5.rd Reg.WlkPort.PSTATE 3 ≠ 0 ∧ node5.portUp 3 = true ∧ up.portUp 3 = false ∧ node5.rd Reg.Wlk.MASTER 0 = 0 ∧
    (node5 [(Reg.Wlk.MASTER, 0, 1)]).rd Reg.Wlk.MASTER 0 ≠ 0 ∧ masterActs (node5 [(Reg.Wlk.MASTER, 0, 1)]) = true ∧ masterActs node5 = false ∧
    masterActs (node5 [(Reg.Wlk.MASTER, 0, 1), (Reg.Wlk.LEASELEN, 0, 0)]) = false ∧ node5.wlk.seenTerm = 0 ∧ node5.wlk.lostSync = false ∧ isVoter node5 = true ∧
    isVoter up = false ∧ node5.wlk.voteTerm = 0 ∧ voters node5 = [5, 6, 7] ∧ majority node5 [5, 6] = true ∧ majority node5 [5] = false ∧ grants node5 1 = true ∧
    grants node5 0 = false ∧ (node5 [(Reg.Wlk.RANK, 0, 1)]).rd Reg.Wlk.RANK 0 ≠ 0 ∧ (node5 [] { asked := some (1, [5]) }).wlk.asked = some (1, [5]) ∧
    (let s := node5 [] { renewals := [(0, [5])] }; (s.wlk.renewals.find? fun r => r.1 == 0) = some (0, [5]) ∧ majority s [6, 5] = true) ∧
    routeOf (node5.wr2 Reg.Wlk.ROUTE 0 9 0xF3) 9 = some 3 ∧ routeOf (node5.wr2 Reg.Wlk.ROUTE 0 9 0xFE) 9 = some 14 ∧ routeOf (node5.wr2 Reg.Wlk.ROUTE 0 9 0xFF) 9 = none ∧
    node5.snap = none := by decide +kernel

/-- A lone voter that asks becomes the master at once. -/
theorem witness_lone_voter : (let s := (with_ [(Reg.Wlk.NODE, 0, 5), (Reg.Wlk.RANK, 0, 1)]).wr2 Reg.Wlk.VOTERSLO 0 0 5; majority s [5] = true ∧ grants s 1 = true) := by
  decide +kernel

/-! ### Witnesses: fabric cuts, host interface, sequencers, dependability -/

/-- Node 5 with a fabric cut announced. -/
def cutAt (f : FabCut) (l : List (Field × Nat × Nat) := []) (term : Nat := 0) : State := node5 l { cut := some f, seenTerm := term }

/-- A TES.CUT waits, its payload at 0. -/
def cutWaits (n : Nat) : State := mems 0 [0, 0] { up with seq := { up.seq with wait := some (4, 5, xw 0 0 2) }, cuts := List.replicate n {} }

theorem witness_fabric_cuts : (cutWaits 62).seq.wait = some (4, 5, xw 0 0 2) ∧ epochsInFlight (cutWaits 62) < 63 ∧ 63 ≤ epochsInFlight (cutWaits 63) ∧ up.seq.wait = none ∧
    (let z : State := { cutWaits 62 with seq := { (cutWaits 62).seq with wait := none } }; xready (xw 0 0 2) z = true ∧ bit ((xargs z (xw 0 0 2)).w 1) 1 = false ∧
      z.rd Reg.Wlk.OUTDOMAIN 0 = 0 ∧ z.rd Reg.Wlk.CUTDOM 0 = 0 ∧ cutValid z 0 0 = true) ∧
    node5.portUp 3 = true ∧ (belowPorts node5).filter (· != 3) = [] ∧ acksCut node5 1 0 0 = true ∧ acksCut node5 2 0 0 = false ∧ inDomain node5 = true ∧
    (let s := (node5 [(Reg.WlkPort.PSTATE, 2, 2)]).setPort 2 { below := true }; (belowPorts s).filter (· != 3) = [2]) ∧ node5.cuts = [] ∧ node5.wlk.cut = none ∧
    (cutAt { epoch := 1, wait := [3, 2] }).wlk.cut = some { epoch := 1, wait := [3, 2] } ∧ ([3, 2] : List Nat).filter (· != 3) ≠ [] ∧ ([3] : List Nat).filter (· != 3) = [] ∧
    (cutAt { epoch := 1, wait := [3], master := true }).wlk.cut.map (·.master) = some true ∧ (1 : Nat) ≤ (cutAt {} [(Reg.Wlk.CUTTRIES, 0, 1)]).rd Reg.Wlk.CUTTRIES 0 ∧
    (cutAt {} [(Reg.Wlk.CUTTRIES, 0, 2)]).rd Reg.Wlk.CUTTRIES 0 = 2 ∧ (cutAt {} [] 7).wlk.seenTerm = 7 ∧ (cutAt {}).rd Reg.Wlk.MASTER 0 = 0 ∧
    (cutAt { replied := true }).wlk.cut = some { replied := true } := by decide +kernel

/-- The host interface with its rings in DRAM. -/
def hosted (l : List (Field × Nat × Nat) := []) (h : HifState := {}) : State := (with_ ([(Reg.Bar0.CEN, 0, 1), (Reg.Bar0.CLOG, 0, 2), (Reg.Bar0.HLEN, 0, 1)] ++ l)).setHif h

theorem witness_host : up.power.ember = false ∧ ({ up with power := { up.power with ember := true } } : State).power.ember = true ∧ hosted.rd Reg.Bar0.CEN 0 ≠ 0 ∧ up.rd Reg.Bar0.CEN 0 = 0 ∧
    2 ^ hosted.rd Reg.Bar0.CLOG 0 < (5 + 2 ^ 32 - hosted.rd Reg.Bar0.CHEAD 0) % 2 ^ 32 ∧ (4 + 2 ^ 32 - hosted.rd Reg.Bar0.CHEAD 0) % 2 ^ 32 ≤ 2 ^ hosted.rd Reg.Bar0.CLOG 0 ∧
    bit (merge (up.word Reg.Bar0.CEN.base) 0 (1 <<< 63)) 63 = true ∧
    ringError (bar0Fields (merge (up.word Reg.Bar0.CEN.base) 0 0x8002000000100000) [Reg.Bar0.CLOG, Reg.Bar0.CSTAGE] up) = 0 ∧
    ringError (bar0Fields (merge (up.word Reg.Bar0.CEN.base) 0 0x8001000000100000) [Reg.Bar0.CLOG, Reg.Bar0.CSTAGE] up) = 1 ∧
    ringError (bar0Fields (merge (up.word Reg.Bar0.CEN.base) 0 0x800A000000000001) [Reg.Bar0.CLOG, Reg.Bar0.CSTAGE] up) = 3 ∧
    (with_ [(Reg.EvrChan.EN, 127, 1)]).rd Reg.EvrChan.EN 127 ≠ 0 ∧ (bar2Addr up 0x7FFFFFC 4).filter (fun a => bar2Ok up a 4) = some 0x7FFFFFC ∧
    (bar2Addr up 0x7FFFFFD 4).filter (fun a => bar2Ok up a 4) = none ∧ bar2Addr up 0xFFFFFFFD 4 = none ∧
    (with_ [(Reg.Bar0.MEN, 0, 1)]).rd Reg.Bar0.MEN 0 ≠ 0 ∧ ccRoom hosted = true ∧ (hosted [] { entries := [[]] }).hif.entries = [[]] ∧
    ccRoom (hosted [] { written := 8 }) = false := by decide +kernel

theorem witness_ledger_copy : (let s := ringed [(Reg.Bar0.HLEN, 0, 1), (Reg.Ledger.RDEN, 0, 1), (Reg.Ledger.LWP, 0, 1)]; (s.rd Reg.Ledger.RDEN 0).testBit 0 = true ∧
      s.rd Reg.Bar0.HLEN 0 ≠ 0 ∧ ringUp s = true ∧ s.rd Reg.Ledger.LRD0 0 < s.rd Reg.Ledger.LWP 0 ∧
      s.hif.copied < s.rd Reg.Bar0.HLCONS 0 + 2 ^ s.rd Reg.Bar0.HLLOG 0) := by decide +kernel

/-- A ring entry of one instruction word, command 1. -/
def entry1 : List Word := [0x101005A43, 1 <<< 56, 0, 0, 0, 0, 0, 0]

theorem witness_commands : seqIdle hosted = true ∧ handlerWaits hosted = false ∧ redoCommand hosted = none ∧ hosted.rd Reg.Bar0.CHEAD 0 = hosted.rd Reg.Bar0.CMDDB 0 ∧
    (hosted [(Reg.Bar0.CMDDB, 0, 1)]).rd Reg.Bar0.CHEAD 0 ≠ (hosted [(Reg.Bar0.CMDDB, 0, 1)]).rd Reg.Bar0.CMDDB 0 ∧ hosted.seq.log.length < 1024 ∧
    ringEntryOk ((List.range 128).map fun k => entry1.getD k 0) 1 = true ∧ ringEntryOk ((List.range 128).map fun k => ([] : List Word).getD k 0) 1 = false ∧
    (redoCommand { hosted with seq := { hosted.seq with log := [{ cseq := 1, redo := true }] } }).isSome = true ∧ seqIdle inCommand = false ∧
    (inCommand.seq.log.find? fun c => c.cseq == 1) = some { cseq := 1 } ∧ cmdPending inCommand { cseq := 1 } = true ∧ cmdPending up { cseq := 1, open_ := false } = false ∧
    (up.seq.log.find? fun c => c.cseq == 1) = none := by decide +kernel

/-- The active pair has stopped. -/
def stoppedPair (failed : Bool) (cur : Option Exec := none) : State := { up with seq := { up.seq with stopped := true, failed := failed, cur := cur } }

theorem witness_pairs : up.seq.stopped = false ∧ (up.power.ember = false ∧ up.rd Reg.Slc.KPHASE 0 = 5) ∧ State.reset.rd Reg.Slc.KPHASE 0 ≠ 5 ∧ leaseHeld up = true ∧
    leaseHeld (up.wr Reg.Tnt.RAW 0 (16000 * 2 ^ 24)) = false ∧ (stoppedPair false (some (.command 1))).seq.cur = some (.command 1) ∧ (stoppedPair false).seq.failed = false ∧
    (stoppedPair true).seq.failed = true ∧ (inCommand.seq.forming = none ∧ inCommand.seq.wait = none ∧ inCommand.seq.cur = some (.command 1)) ∧
    ({ up with seq := { up.seq with cur := some (.handler 0 0) } } : State).seq.cur = some (.handler 0 0) ∧
    (∀ k ∈ [1, 4, 5], (with_ [(Reg.SeqLease.PAIRSTATE, 0, k)]).rd Reg.SeqLease.PAIRSTATE 0 = k) ∧ ({ up with seq := { up.seq with tries := 2 } } : State).seq.tries = 2 := by
  decide +kernel

/-- Unit 71 in a state of Table 17-1; its logical row processor 63 runs on unit 62. -/
def unit71 (st : Nat) (l : List (Field × Nat × Nat) := []) : State := with_ ([(Reg.RpaDep.PSTATE, 71, st), (Reg.Lrp.PHYS, 63, 62)] ++ l)

theorem witness_failover : (∀ k ∈ [0, 1, 3, 4], (unit71 k).rd Reg.RpaDep.PSTATE 71 = k) ∧ (running.proc 71).run.isSome = true ∧ (up.proc 71).run = none ∧
    (let s := unit71 1; s.rd Reg.RpaDep.PSTATE (s.rd Reg.Lrp.PHYS 63) = 0 ∧ unboundAt s 63 = false ∧ rotationOf s 63 = none ∧ s.rd Reg.Cal.INHIBIT 0 = 0 ∧
      spareFree s = true ∧ s.granted 3 71 = false ∧ (holds 3 71 0 s).granted 3 71 = true ∧ spareFree (s.wr Reg.RpaDep.FAILRESV 0 8) = false) ∧
    (let s := unit71 3; let t : State := { s with dep := { s.dep with rotations := [{ lrp := 63, unit := 71 }] } };
      rotationOf t 63 = some { lrp := 63, unit := 71 } ∧ t.dep.restores = [] ∧ (t.proc 71).run.isSome = false ∧ (t.proc 62).run.isSome = false ∧
      t.rpa.outbox = [] ∧ t.rd Reg.RpaDep.UNBOUND 0 = 0 ∧ ({ t with dep := { t.dep with restores := [(71, 0, 0)] } } : State).dep.restores = [(71, 0, 0)]) := by decide +kernel

theorem witness_self_test : (let s := holds 5 71 0 (unit71 4 [(Reg.RpaDep.TRIES, 71, 1)]); s.granted 5 71 = true ∧ s.dep.retryWait.contains 71 = false ∧ s.rd Reg.RpaDep.TRIES 71 + 1 < 3 ∧
      3 ≤ (s.wr Reg.RpaDep.TRIES 71 2).rd Reg.RpaDep.TRIES 71 + 1 ∧ trimsPlausible s 71 200 0 = true ∧ s.rd Reg.RpaDep.UNBOUND 0 = 0) ∧
    (with_ [(Reg.RpaDep.CETHR, 0, 5)]).rd Reg.RpaDep.CETHR 0 = 5 ∧ (with_ [(Reg.Cal.DMARGIN, 0, 41)]).rd Reg.Cal.DMARGIN 0 = 41 ∧ (2 : Nat) * 20 < 41 ∧ (41 : Nat) ≤ 2 * 21 ∧
    (let s : State := { up with dep := { up.dep with requests := [[0, 1, 2, 3, 4]] } }; ∀ k < 5, mayCalibrate s k = true) ∧
    mayCalibrate (with_ [(Reg.Cal.INHIBIT, 0, 1)]) 0 = false ∧ (unit71 1).rd Reg.RpaDep.PSTATE 71 = 1 := by decide +kernel

/-! ### Witnesses: DRAM, history, DMA, samples -/

/-- DRAM channel 7 in a state of Table 14-6, and what it keeps beside its block. -/
def dram7 (st : Nat) (d : DmcState := {}) (l : List (Field × Nat × Nat) := []) : State :=
  (with_ ([(Reg.Dmc.RANKS, 7, 4), (Reg.Dmc.CHSTATE, 7, st)] ++ l)).setDram 7 d

theorem witness_dram : (let s := holds 1 7 0 (dram7 1); s.rd Reg.Dmc.CHSTATE 7 = 1 ∧ s.granted 1 7 = true) ∧ ((dram7 1 { training := true }).dram 7).training = true ∧
    (dram7 1).granted 1 7 = false ∧ (∀ k ∈ [2, 4, 5], (dram7 k).rd Reg.Dmc.CHSTATE 7 = k ∧ 3 < (dram7 k).rd Reg.Dmc.RANKS 7) ∧
    ((dram7 2 { cur := some { rank := 3 } }).dram 7).cur = some { rank := 3 } ∧
    ((dram7 2 { cur := some { rank := 3, comparing := true, dma := some 15, pass := 3 } }).dram 7).cur = some { rank := 3, comparing := true, dma := some 15, pass := 3 } ∧
    3 < Reg.Dmc.RETIRED.width ∧ (up.dram 7).cur = none ∧ (up.dram 7).queue = [] ∧
    (let s := with_ [(Reg.Dmc.DEYEMIN, 7, 20), (Reg.Cal.DSHIFT, 0, 3)]; s.rd Reg.Dmc.DEYEMIN 7 = 20 ∧ s.rd Reg.Cal.DSHIFT 0 = 3) ∧
    (with_ [(Reg.Mem.MODE, 255, 1)]).rd Reg.Mem.MODE 255 ≠ 0 ∧ up.rd Reg.Mem.PSTATE 255 = 0 ∧ up.rd Reg.Mem.MODE 255 = 0 := by decide +kernel

/-- Head 31's history with an open group of one row and a frame. -/
def his (bytes : Option (List Byte) := none) (crops : List Crop := []) (l : List (Field × Nat × Nat) := []) : State :=
  let s := (ringed ([(Reg.HisHead.HBASE, 31, dramBase + 0x100000), (Reg.HisHead.HSIZE, 31, 0x1000)] ++ l)).setHist 31
    { group := some { head := 31, hw := 512, rows := [{}] }, frames := [{ group := { head := 31, rows := [{}] }, bytes := bytes }] }
  { s with his := { s.his with crops := crops, checks := [(0, [0x1000])] } }

theorem witness_history : ((his.hist 31).group.map (·.hw) = some 512) ∧ (up.hist 31).group = none ∧ ((his.hist 31).frames.find? fun f => f.bytes.isNone).isSome = true ∧
    his.granted 4 31 = false ∧ (holds 4 31 0 his).granted 4 31 = true ∧ (((his (some [1])).hist 31).frames.map (·.bytes)) = [some [1]] ∧
    (his (some [1])).inDram ((his (some [1])).rd Reg.HisHead.HBASE 31) ((his (some [1])).rd Reg.HisHead.HSIZE 31) = true ∧ (up.hist 31).frames = [] ∧
    up.his.crops[0]? = none ∧ his.his.checks[0]? = some (0, [0x1000]) ∧ up.his.checks[0]? = none ∧
    (let q : Crop := { head := 31, last := 5 }; let s := his (some [1]) [q]; s.his.crops[0]? = some q ∧ q.waits = false ∧
      ((s.hist 31).frames.any fun f => q.meets f.group && inRange f.strip q.sfirst q.slast) = true ∧
      (((his (some [1]) [q]).setHist 31 {}).hist 31).frames = [] ∧ ({ q with mode := 1 } : Crop).mode ≠ 0 ∧ ({ q with dma := some 3 } : Crop).dma.isSome = true) := by
  decide +kernel

/-- A move of 64 bytes within the banks. -/
def move64 : DmaOp := { op := 1, words := [0x1000, 0x2000, 64], addr := 0x100 }

/-- DMA channel 15. -/
def dma15 (cur : Option DmaOp) (queue : List DmaOp := []) : State := up.setDma 15 { cur := cur, queue := queue }

theorem witness_dma_channel : ((dma15 none [move64]).dmaOf 15).queue = [move64] ∧ ((dma15 none [move64]).dmaOf 15).cur = none ∧
    DmaOp.valid (dma15 none) move64 = true ∧ ((dma15 (some move64)).dmaOf 15).cur = some move64 ∧ move64.op ≠ 6 ∧
    DmaOp.valid up { op := 1 } = false ∧ ((dma15 (some { op := 6 })).dmaOf 15).cur = some { op := 6 } ∧
    dmaStop { op := 1, words := [.ofNat 64 hostBase, 0x1000, 64] } 0 5 up = true ∧ dmaStop move64 0 5 up = false := by decide +kernel

theorem witness_snapshot_samples : (let s : State := { up with snap := some { got := some { counts := [(0x20170008, 3)] } } }; s.canonical ∧ Tbl.wf (fun _ => (0 : Word)) [(0x20170008, 3)] = true ∧
      Reg.Pmu.COUNT.word 1 0 = 0x20170008) ∧ ({ up with snap := some {} } : State).snap = some {} ∧ up.snap = none ∧
    (let s : State := { with_ [(Reg.Pmu.SEN, 75, 1), (Reg.Pmu.SPERIOD, 75, 64), (Reg.Pmu.SBASE, 75, 0x1000), (Reg.Pmu.SWPTR, 75, 4095)] with sampled := [(75, { pend := some {} })] };
      (Tbl.get (fun _ => ({} : Sampler)) s.sampled 75).pend = some {} ∧ s.rd Reg.Pmu.SFULL 75 = 0 ∧ s.rd Reg.Pmu.SWPTR 75 = 4095 ∧
      s.inBanksOn (s.rd Reg.Pmu.SBASE 75 + 32 * s.rd Reg.Pmu.SWPTR 75) 32 = true ∧ (s.wr Reg.Pmu.SFULL 75 1).rd Reg.Pmu.SFULL 75 ≠ 0) := by
  unfold State.canonical; decide +kernel

/-! ### Witnesses: start-up, power, time -/

/-- Kindling in a phase. -/
def phase (k : Nat) (l : List (Field × Nat × Nat) := []) : State := sets ([(Reg.Slc.KPHASE, 0, k)] ++ l) State.reset

/-- The device leaves Ember. -/
def leaving (k : Nat) : State := { phase k with power := { (phase k).power with leaving := true } }

/-- The header of an image without a body for a device in TEST. -/
def header0 : List Word := [0x14B4E, 0, 0]

theorem witness_kindling : State.reset.rd Reg.Slc.KPHASE 0 = 0 ∧ State.reset.power.hot = false ∧ State.reset.power.ember = false ∧ State.reset.power.tamper = false ∧
    State.reset.rd Reg.Pba.SUPWARNR 0 = 0 ∧ State.reset.rd Reg.Slc.LCSTATE 0 ≠ 0x10 ∧ (phase 0 [(Reg.Slc.LCSTATE, 0, 0x10)]).rd Reg.Slc.LCSTATE 0 = 0x10 ∧
    (phase 2).rd Reg.Slc.KPHASE 0 = 2 ∧ (phase 2).power.tamper = false ∧
    (let s := phase 3 [(Reg.Bar0.KSRC, 0, 2)]; s.rd Reg.Slc.KPHASE 0 = 3 ∧ s.rd Reg.Bar0.KSRC 0 = 2 ∧ s.power.leaving = false ∧ ∀ p, p < 4 → s.rd Reg.WlkPort.PSTATE p ≠ 2) ∧
    (leaving 3).power.leaving = true ∧ ((leaving 3).setDram 7 { training := true }).dram 7 = { training := true } ∧ (∀ k, k < 8 → ((leaving 3).dram k).training = false) ∧
    (leaving 3).power.hadCopy = false ∧
    imageError (phase 3 [(Reg.Slc.LCSTATE, 0, 1)]) header0 [] = 0 ∧ imageError (phase 3) [] [] = 1 := by decide +kernel

theorem witness_wipe_tamper : (phase 5 [(Reg.Slc.WIPING, 0, 1)]).rd Reg.Slc.WIPING 0 ≠ 0 ∧ up.rd Reg.Slc.WIPING 0 = 0 ∧ up.power.tamper = false ∧
    ({ up with power := { up.power with tamper := true } } : State).power.tamper = true ∧
    (({ up with seq := { up.seq with longs := [{ unit := 0x18, op := 3 }] } } : State).seq.longs.find? fun l => l.unit == 0x18 && l.op == 3 && l.done.isNone) =
      some { unit := 0x18, op := 3 } := by decide +kernel

/-- A request of the Damper waits, with others after and before it. -/
def asking (mw : Nat) : State := { up with damper := { up.damper with waiting := [{ cls := 6 }, { cls := 2, mw := mw }, { cls := 2 }] } }

/-- The regulator answers, one head runs, with fields written. -/
def looping (l : List (Field × Nat × Nat) := []) : State :=
  let s := with_ l
  { s with power := { s.power with voutN := some (-9) } }

theorem witness_grants : (asking 500).damper.waiting = [{ cls := 6 }] ++ { cls := 2, mw := 500 } :: [{ cls := 2 }] ∧ up.damper.waiting = [] ∧
    (∀ mw ∈ [500, 10 ^ 9], let s := asking mw; s.rd Reg.Pba.SUPWARNR 0 = 0 ∧ s.power.ember = false ∧
      ((baseMw + heldMw s + mw) * (s.rd Reg.Pba.VCMD 0 * s.rd Reg.Pba.VCMD 0) ≤ s.rd Reg.Pba.BUDGET 0 * 640000 ↔ mw = 500)) := by decide +kernel

theorem witness_voltage_loop : looping.power.ember = false ∧ looping.rd Reg.Slc.KPHASE 0 = 5 ∧ looping.rd Reg.Pba.SUPWARNR 0 = 0 ∧ looping.power.vregBad = false ∧
    looping.power.voutN ≠ none ∧ (looping.twOf 1).queue = [] ∧ (0 : Nat) < looping.rd Reg.Pba.VTARGET 0 ∧
    11 * looping.rd Reg.Pba.VTARGET 0 < 10 * (2 * looping.rd Reg.Pba.VTARGET 0) ∧ runningHeads looping = [] ∧
    looping.rd Reg.Pba.VMIN 0 ≤ looping.rd Reg.Pba.VCMD 0 - 5 ∧ looping.rd Reg.Pba.VCMD 0 + 5 ≤ looping.rd Reg.Pba.VMAX 0 ∧
    (baseMw + heldMw looping) * ((looping.rd Reg.Pba.VCMD 0 + 5) * (looping.rd Reg.Pba.VCMD 0 + 5)) ≤ looping.rd Reg.Pba.BUDGET 0 * 640000 ∧
    (let s := looping [(Reg.Pba.VMAX, 0, 500)]; s.rd Reg.Pba.VMAX 0 < s.rd Reg.Pba.VCMD 0) ∧
    (let s : State := { up with power := { up.power with vregBad := true } }; s.power.vregBad = true ∧ s.power.voutN = none) := by decide +kernel

theorem witness_supply_heat : up.rd Reg.Pba.SUPWARNR 0 = 0 ∧ ((with_ [(Reg.Pba.SUPWARNR, 0, 64)]).rd Reg.Pba.SUPWARNR 0).testBit 6 = true ∧
    (let hot : List Int := List.replicate 16 (16 * 135); 16 * 135 ≤ tjMax (readTemps hot up) ∧ 16 * (up.rd Reg.Pba.TWARN 0 : Int) ≤ tjMax (readTemps hot up) ∧ up.rd Reg.Pba.THOT 0 = 0) ∧
    (let cool : List Int := List.replicate 16 (16 * 40); tjMax (readTemps cool up) ≤ 16 * ((up.rd Reg.Pba.TWARN 0 : Int) - 5) ∧ tjMax (readTemps cool up) ≤ 16 * 115) ∧
    ({ up with power := { up.power with hot := true } } : State).power.hot = true ∧
    (let s : State := { with_ [(Reg.EvrTask.TSTATE, 129, 1), (Reg.Dmc.CHSTATE, 7, 2)] with power := { up.power with ember := true, leaving := true } };
      s.rd Reg.EvrTask.TSTATE 129 = 1 ∧ s.power.ember = true ∧ s.power.leaving = true ∧ s.rd Reg.Dmc.CHSTATE 7 = 2 ∧ (s.twOf 1).queue = []) := by decide +kernel

/-- Ethernet port 1 enabled, its rings at 0x1000. -/
def eth1 (l : List (Field × Nat × Nat) := []) : State := with_ ([(Reg.TntPort.EN, 1, 1), (Reg.TntPort.QBASE, 1, 0x1000), (Reg.TntPort.QLOG, 1, 4)] ++ l)

theorem witness_time : up.rd Reg.Tnt.TBFAULT 0 = 0 ∧ (with_ [(Reg.Tnt.TBFAULT, 0, 1)]).rd Reg.Tnt.TBFAULT 0 ≠ 0 ∧ up.rd Reg.Tnt.PPSPOL 0 = 0 ∧
    (with_ [(Reg.Tnt.PPSEN, 0, 1)]).rd Reg.Tnt.PPSEN 0 ≠ 0 ∧ up.tnt.fired = none ∧ up.rd Reg.Tnt.PPSEN 0 = 0 ∧ eth1.rd Reg.TntPort.EN 1 ≠ 0 ∧
    (let f : List Byte := List.replicate 6 0xFF ++ List.replicate 54 0; f.length = 60 ∧ ethTakes eth1 1 f = true ∧ ptpEvent f = false) ∧
    (eth1.read64 (descAt eth1 1 0 0)).getLsbD 63 = false ∧ ((mems (descAt eth1 1 0 0) [1 <<< 63] eth1).read64 (descAt eth1 1 0 0)).getLsbD 63 = true ∧
    ((mems (descAt eth1 1 1 0) [1 <<< 63] eth1).read64 (descAt eth1 1 1 0)).getLsbD 63 = true ∧ eth1.canPut (descAt eth1 1 0 15) 24 = true := by decide +kernel

/-- A PTP event message over Ethernet: EtherType 0x88F7, message type Sync. -/
theorem witness_ptp : ptpEvent (List.replicate 12 0 ++ [0x88, 0xF7, 0x00] ++ List.replicate 45 0) = true ∧
    ptpEvent (List.replicate 12 0 ++ [0x88, 0xF7, 0x08] ++ List.replicate 45 0) = false := by decide +kernel

/-! ### Witnesses: event router, two-wire ports, the whole block -/

/-- Task input n listens to channel 127. -/
def listening (n : Nat) (l : List (Field × Nat × Nat) := []) (arrivals : List (Nat × Nat) := []) : State :=
  let s := with_ ([(Reg.EvrChan.EN, 127, 1), (Reg.EvrTask.CHSEL, n, 127), (Reg.EvrTask.EN, n, 1)] ++ l)
  { s with evr := { s.evr with arrivals := arrivals } }

theorem witness_channels : (let s := with_ [(Reg.Evio.EN, 15, 1)]; s.rd Reg.Evio.EN 15 ≠ 0 ∧ s.rd Reg.Evio.LEVEL 15 = 0) ∧
    (let s := listening 255; s.rd Reg.EvrChan.EN 127 ≠ 0 ∧ ((List.range 256).filter fun t => s.rd Reg.EvrTask.CHSEL t == 127) = [255] ∧ s.rd Reg.EvrChan.GEN 127 = 0) ∧
    (let s := listening 255 [(Reg.EvrChan.GEN, 127, 1), (Reg.EvrChan.GINV, 127, 1)]; s.rd Reg.EvrChan.GEN 127 ≠ 0 ∧ s.rd Reg.EvrChan.GINV 127 ≠ 0 ∧
      gateLevel s (s.rd Reg.EvrChan.GSEL 127) = true) ∧ up.rd Reg.EvrChan.EN 127 = 0 ∧ up.tokens = [] := by decide +kernel

theorem witness_inputs : (∀ st ∈ [0, 1, 2, 3], ∀ n ∈ [31, 95, 129],
      let s := listening n [(Reg.EvrTask.TSTATE, n, st)] [(n, 7)]; s.rd Reg.EvrTask.TSTATE n = st ∧ s.rd Reg.EvrTask.EN n ≠ 0 ∧ s.evr.arrivals = [(n, 7)]) ∧ up.evr.arrivals = [] ∧
    inputActs (listening 31 [(Reg.TesHead.RUNNING, 31, 1), (Reg.TesHead.TSRC, 31, 2)]) 31 = true ∧ inputActs (listening 31) 31 = false := by decide +kernel

theorem witness_activations : (let s := listening 31 [(Reg.EvrTask.TSTATE, 31, 1), (Reg.TesHead.RUNNING, 31, 1)]; s.rd Reg.EvrTask.TSTATE 31 = 1 ∧ s.power.ember = false ∧
      s.rd Reg.TesHead.RUNNING 31 ≠ 0 ∧ (s.tesOf 31).last = none ∧ s.raw < 0 + tminTicks (s.wr Reg.TesHead.LRMAX 31 1) 31) ∧
    (let s := listening 128 [(Reg.EvrTask.TSTATE, 128, 1)]; s.rd Reg.EvrTask.TSTATE 128 = 1 ∧ s.snap = none) ∧ handlerTurn up 95 = false ∧
    (let s := listening 95 [(Reg.EvrTask.TSTATE, 95, 1)]; let t : State := { s with seq := { s.seq with handlers := [(95, some 5)] } };
      handlerAt t 95 = some 5 ∧ handlerTurn t 95 = true) ∧ workEnded (listening 95 [(Reg.EvrTask.TSTATE, 95, 3)]) 95 = true ∧
    workEnded { up with seq := { up.seq with cur := some (.handler 95 0) } } 95 = false := by decide +kernel

/-- Port 2 runs transactions. -/
def transacting (q : List TwKind) (l : List (Field × Nat × Nat) := []) (losses : Nat := 0) : State :=
  (with_ l).setTw 2 { queue := q, losses := losses }

theorem witness_transactions : (∀ k ∈ [TwKind.xfer 0x1000 xfer, .voutMode, .voutCommand 800], ((transacting [k]).twOf 2).queue = [k] ∧ ((transacting [k]).twOf 2).lost = false) ∧
    (0x1000 % 8 = 0 ∧ 0x1000 + 80 ≤ 0x8000000 ∧ bits (xfer.getD 0 0) 23 16 = 32) ∧ TwKind.isReg .voutMode = true ∧ TwKind.isReg (.xfer 0 []) = false ∧
    max 1 ((transacting [.voutMode] [(Reg.TwpPort.ARBRETRY, 2, 3)]).rd Reg.TwpPort.ARBRETRY 2) = 3 ∧ (up.twOf 2).queue = [] ∧
    ((transacting [] [(Reg.TwpPort.TWCAUSE, 2, 4)]).rd Reg.TwpPort.TWCAUSE 2).testBit 2 = true ∧ ((up.setTw 3 { stretch := true }).twOf 3).stretch = true := by decide +kernel

theorem witness_targets : up.power.ember = false ∧ (up.twOf 0).stretch = false ∧ ((up.setTw 3 { mute := true }).twOf 3).mute = true ∧ debugOpen up = false ∧
    debugOpen (with_ [(Reg.Slc.LCSTATE, 0, 1)]) = true ∧ up.inBanksOn 0x7FFFFF8 8 = true ∧ up.poisoned 0x7FFFFF8 8 = false ∧ ¬ up.inBanksOn 0x8000000 8 = true := by
  decide +kernel

/-- A debug write and a debug read of the last word of the banks. -/
theorem witness_debug : (let s := with_ [(Reg.Slc.LCSTATE, 0, 1)]; let w : List Byte := [0xF8, 0xFF, 0xFF, 0x07, 0, 0, 5, 0, 0, 0, 0, 0, 0, 0, 2];
      let t := after (.tw3Dcmd 0x08 w) s; (t.rd Reg.Tw3.DCMD 0, t.rd Reg.Tw3.DSTAT 0)) = (2, 0) := by decide +kernel

theorem witness_canonical : State.reset.inv ∧ up.inv := by unfold State.inv State.canonical; decide +kernel

/-- An empty queue is a raw tick; a command in the queue is executed on the queue's rest. -/
theorem test_step : (match step up with | .next t => t.raw | _ => 0) = 1 ∧
    (match step { up with pending := [.nop 72 {}, .tbrefFault] } with | .next t => t.pending.length | _ => 0) = 1 := by decide +kernel

theorem test_decode : decodeTableWord 64 0 = none ∧ (up.withFetchWord 64 0 = up) := ⟨rfl, rfl⟩

theorem witness_wf : (Instr.add 75 {}).wf = true ∧ (Instr.stripRun 63).wf = true ∧ runs (.stripRun 64) up = false := by decide +kernel

theorem witness_lifecycle : (after (.slcAdvance { len := 1 }) (mems 0 [0x10] (with_ [(Reg.Slc.LCSTATE, 0, 1)]))).rd Reg.Slc.LCSTATE 0 = 0x10 ∧
    runs .vauxPowerOn up = true ∧ runs (.mboxWrite 0x20 [1]) up = true ∧ runs (.bar2Access 0 4 none) up = true ∧ runs (.st 0 {}) up = true := by decide +kernel

theorem witness_fields : Reg.Lane.EVCAUSE.has 255 0 = true ∧ Reg.Lane.EVCAUSE.lo ≤ Reg.Lane.EVCAUSE.hi ∧ Reg.Lane.EVCAUSE.hi < 64 ∧ Reg.Lane.EVCAUSE.ew = 0 := by decide +kernel

theorem witness_rx_sleep_of_running_head : (let s := with_ [(Reg.Lane.ASSIGNED, 255, 1)]; s.rd Reg.Lane.ASSIGNED 255 ≠ 0 ∧ (3 : Nat).testBit 1 = true ∧
    xready (xw 255 2 0) s = true) ∧ ((with_ [(Reg.Lane.MASTER, 255, 1)]).rd Reg.Lane.MASTER 255 ≠ 0) := by decide +kernel

theorem witness_ring_commands : (let s := hosted [(Reg.Bar0.CMDDB, 0, 1)] { pos := 2 ^ 32 - 1 }; let e := (List.range 128).map fun k => entry1.getD k 0;
      e.length = 128 ∧ s.hif.pos % (2 ^ 32 - 1) + 1 = 1 ∧ seqIdle s = true ∧ handlerWaits s = false ∧ s.seq.log = [] ∧ s.rd Reg.Bar0.CEN 0 ≠ 0 ∧
      s.rd Reg.Bar0.CHEAD 0 ≠ s.rd Reg.Bar0.CMDDB 0 ∧ bits (e.getD 0 0) 15 0 = 0x5A43 ∧ bits (e.getD 0 0) 31 24 = 1 ∧ bits (e.getD 0 0) 63 32 = 1 ∧
      bits (e.getD 1 0) 63 56 = 1 ∧ bits (e.getD 1 0) 55 48 = 0) := by decide +kernel

theorem witness_wake : (let s : State := { with_ [(Reg.EvrTask.TSTATE, 129, 1)] with power := { up.power with ember := true } }; s.power.ember = true ∧ s.power.leaving = false ∧
    s.rd Reg.EvrTask.TSTATE 129 = 1) := by decide +kernel

/-! ### Witnesses: words, downlink slots, step 5, notes, pools, snapshots -/

/-- The word of Example 8-1 (VMULSH.U16.SAT V5, V4, V9, 14) and words that a processor refuses. -/
theorem test_zedexa_words : decodeZedexa 0 0x434A4482000E0000 = .vmulsh 0 { d := 5, a := 4, b := 9, pred := 0, md := 2, imm := 0xE0000 } ∧
    decodeZedexa 0 0x0000000000000000 = illegalInstr 0 ∧ decodeZedexa 0 0x8001000000000000 = illegalInstr 0 ∧
    decodeZedexa 72 0x8001000000000000 ≠ illegalInstr 72 := by decide +kernel

/-- Lane 255 of head 31 at step 4, its downlink up and a START preset enabled. -/
def presetLane : State :=
  (bonded31.wr Reg.Lane.STATE 255 2).setLane 255 { step := 4 } |> sets [(Reg.Lane.STARTEN, 255, 1), (Reg.Lane.TXASLEEP, 255, 0)]

theorem witness_preset : downUp presetLane 31 = true ∧ presetLane.rd Reg.Lane.STARTEN 255 ≠ 0 ∧ bondOf presetLane 255 = some (31, 0) ∧
    (let t := after (.eqAdaptDone 255 { ctle := 0, dfe := [] } 0) presetLane
     (t.lane 255).step = 5 ∧ ((t.lane 255).req.map (·.action)) = some 2 ∧ (t.head 31).down.taps.length = 1) := by decide +kernel

/-- Slots of a downlink: TRIG before a SKIP that is due, SKIP before data, data before TAPREQ, TAPREQ before a new sequence, else IDLE. -/
theorem test_downlink_order : (let d : Downlink := { trigs := [1], since := 4032, data := [2], taps := [3], seqs := [[4]] }
    [d, { d with trigs := [] }, { d with trigs := [], since := 4031 }, { d with trigs := [], since := 0, data := [] },
      { d with trigs := [], since := 0, data := [], taps := [] }, { }].map (·.slot.1)) =
    [(false, 1), (false, 0x2D), (true, 2), (false, 3), (false, 4), (false, 0x1E)] := by decide +kernel

/-- Head 31 before step 5 of its start, its lane LOCKED. -/
theorem witness_bringup : (∀ n ∈ bondLanes bonded31 31, bonded31.rd Reg.Lane.STATE n = 3) ∧
    (let t := fun n => after (.headBringupRegs 31 0x10000 0xFFFFFFFF 0xFFFF 0 7 0 n) (bonded31.setHead 31 { start := some { step := 4 } })
     (((t 0).head 31).cmd.map (·.addr)) = some 0 ∧ (((t 2).head 31).cmd.map (·.addr)) = some 0xC ∧ (t 2).rd Reg.EslHead.CAMCAPS 31 = 0xFFFFFFFF ∧
      (t 2).rd Reg.EslHead.CAMMAXLEN 31 = 0 ∧ ((t 2).head 31).tag = 3) := by decide +kernel

theorem witness_reserved_note : (SumpNote.ofWords (7 <<< 60) 0 0 0).tag.kind = 7 ∧ (SumpNote.ofWords (0xF <<< 60) 0 0 0).tag.kind = 0xF := by decide +kernel

/-- RTK's part of head 31's pool filled by 8 packets, and by 7. -/
theorem witness_cut_pool : let s := fun k => { runs31 with gaps := List.replicate k { stage := 2, stream := 31 } }
    cutPoolFull (s 8) = true ∧ cutPoolFull (s 7) = false ∧ st .tesCut 0 0 [0, 2] { master with gaps := List.replicate 8 { stage := 2, stream := 31 } } ≠ some 101 := by
  decide +kernel

/-- A snapshot of a time that the next tick reaches, and of a later one. -/
theorem witness_snapshot_tick : let s : Nat → State := fun q => { up with snap := some { at_ := some q } }
    (s 0).pending = [] ∧ (s 0).snap = some { at_ := some 0 } ∧ ((idleTick (s 0)).snap.bind (·.got)).isSome = true ∧
    ((idleTick (s 1000000)).snap.bind (·.got)).isSome = false := by decide +kernel

end Sys2Proof.Tests
end

section
/-!
PROOF. Registers and memory hold what is written (R10, R233): a field's bits within its word, and memory after a store
of several bytes.
-/
namespace Sys2Proof.Machine

/-- A field outside packed arrays whose bits are in order lies within its word. -/
theorem Field.inWord_of_ew_zero {f : Field} (ew : f.ew = 0) (le : f.lo ≤ f.hi) (lt : f.hi < 64) : f.inWord = true := by
  have hw : f.lo + f.width ≤ 64 := by unfold Field.width; omega
  unfold Field.inWord
  rw [if_pos ew]
  exact decide_eq_true hw

theorem Field.put_bit_outside {f : Field} (ew : f.ew = 0) (le : f.lo ≤ f.hi) (lt : f.hi < 64) (j : Nat) (x : Word) (v : Nat)
    {b : Nat} (hb : b < f.lo ∨ f.hi < b) : (f.put j x v).getLsbD b = x.getLsbD b := by
  have hout : ¬(f.sh j ≤ b ∧ b < f.sh j + f.width) := by
    unfold Field.sh Field.width
    rw [if_pos ew]
    omega
  rw [Field.put_bit (Field.inWord_of_ew_zero ew le lt), if_neg hout]

theorem State.word_wr_same (s : State) {f : Field} {i : Nat} (v : Nat) (hi : f.has i 0 = true) :
    (s.wr f i v).word (f.word i 0) = f.put 0 (s.word (f.word i 0)) v := by
  rw [State.wr, State.word_wr2 s f i 0 v _ hi, if_pos rfl]

/-- Memory after a store of bytes: the new bytes on the extent, the old ones elsewhere. -/
theorem byte_setBytes (s : State) (a : Nat) (bs : List Byte) (x : Nat) :
    (s.setBytes a bs).byte x = if a ≤ x ∧ x < a + bs.length then bs.getD (x - a) 0 else s.byte x := by
  induction bs generalizing s a with
  | nil =>
    rw [if_neg (by simp), State.setBytes]
  | cons b bs ih =>
    rw [State.setBytes, ih, byte_setByte, List.length_cons]
    rcases lt_trichotomy x a with hx | rfl | hx
    · rw [if_neg (by omega), if_neg (by omega), if_neg (by omega)]
    · rw [if_neg (by omega), if_pos rfl, if_pos (by omega), Nat.sub_self, List.getD_cons_zero]
    · have hk : x - a = x - (a + 1) + 1 := by omega
      rw [if_neg (by omega : ¬x = a), hk, List.getD_cons_succ]
      exact if_congr (by omega) rfl rfl

/-- Settles O57: the rules of a field's bits within its word, and of memory after a store of bytes. -/
theorem fieldsAndBytesReadBack : Obligations.FieldsAndBytesReadBack := by
  intro s
  refine ⟨fun f i v hi le lt ew => ⟨?sameField, ?otherWords, ?otherBits⟩, fun a bs => ⟨?newBytes, ?otherBytes⟩⟩
  case sameField => exact State.rd_wr_same s (Field.inWord_of_ew_zero ew le lt) v hi
  case otherWords =>
    intro a ha
    exact State.word_wr2_ne s fun _ => ha.symm
  case otherBits =>
    intro b hb
    rw [State.word_wr_same s v hi]
    exact Field.put_bit_outside ew le lt 0 _ v hb
  case newBytes =>
    intro k hk
    rw [byte_setBytes, if_pos (by omega), Nat.add_sub_cancel_left]
  case otherBytes =>
    intro x hx
    rw [byte_setBytes, if_neg (by omega)]

end Sys2Proof.Machine
end

section
/-!
SUPPORT. Reading a field that lies off the parts which a step changes.
-/
namespace Sys2Proof.Machine

/-- No part of a list holds a word of the field. -/
def Field.off (f : Field) (l : List Part) : Bool :=
  match f.arr with
  | some k => f.inArr k && l.all fun p => match p with | .one m _ => decide (m ≠ k) | .all m => decide (m ≠ k) | _ => true
  | none => f.outside && !l.contains (.grp f.group)

/-- A field off the changed parts keeps its value. -/
theorem Only.rd2_off {l : List Part} {s t : State} (h : Only l s t) {f : Field} {i j : Nat} (hf : f.off l = true)
    (hi : f.has i j = true) : t.rd2 f i j = s.rd2 f i j := by
  refine Frame.rd2 h ?_
  unfold Field.off at hf
  split at hf
  case h_1 k _ =>
    rw [Bool.and_eq_true] at hf
    obtain ⟨hk, hl⟩ := hf
    rw [Field.part_inArr hk hi]
    rintro (hc | hc) <;> simpa using List.all_eq_true.mp hl _ hc
  case h_2 =>
    rw [Bool.and_eq_true] at hf
    obtain ⟨ho, hl⟩ := hf
    rw [Field.part_outside ho hi]
    intro hc
    have hin : Part.grp f.group ∈ l := hc
    simp [hin] at hl

theorem Only.rd_off {l : List Part} {s t : State} (h : Only l s t) {f : Field} {i : Nat} (hf : f.off l = true)
    (hi : f.has i 0 = true) : t.rd f i = s.rd f i := Only.rd2_off h hf hi

theorem Only.rdI_off {l : List Part} {s t : State} (h : Only l s t) {f : Field} {i : Nat} (hf : f.off l = true)
    (hi : f.has i 0 = true) : t.rdI f i = s.rdI f i := congrArg (signed f.width) (h.rd_off hf hi)

theorem Only.on_off {l : List Part} {s t : State} (h : Only l s t) {f : Field} {i : Nat} (hf : f.off l = true)
    (hi : f.has i 0 = true) : t.on f i = s.on f i := congrArg (· != 0) (h.rd_off hf hi)

end Sys2Proof.Machine
end

section
/-!
SUPPORT. Where a device stands with a cut is read from its own positions and settings: what WLK writes beside its settings
leaves it (R219, R511).
-/
namespace Sys2Proof.Machine

/-- The parts that Wyton Link's packets and causes change. -/
def wlkParts : List Part := [.all .wlkPort, .grp 17, .grp 64, .sent, .tokens, .wlk]

section
variable {s t : State} (h : Only wlkParts s t)
include h

theorem srcTrack_wlk (src : Nat) : srcTrack t src = srcTrack s src := by
  have he : t.enc = s.enc := Frame.enc h (by simp [Covers, wlkParts])
  have hs : t.ssi = s.ssi := Frame.ssi h (by simp [Covers, wlkParts])
  have hw : t.web = s.web := Frame.web h (by simp [Covers, wlkParts])
  unfold srcTrack
  split
  · next hc =>
    have hi : ∀ {f : Field}, f.n1 = 8 → f.n2 = 1 → f.has src 0 = true := fun h1 h2 => by simp [Field.has, h1, h2, hc]
    unfold encTrack State.encOf
    rw [he, h.rdI_off rfl (hi rfl rfl), h.rd_off rfl (hi rfl rfl), h.rdI_off rfl (hi rfl rfl), h.rdI_off rfl (hi rfl rfl)]
  split
  · next hc =>
    have hi : ∀ {f : Field}, f.n1 = 4 → f.n2 = 1 → f.has (src - 8) 0 = true := fun h1 h2 => by
      simp [Field.has, h1, h2]; omega
    unfold ssiTrack State.ssiOf
    rw [hs, h.rdI_off rfl (hi rfl rfl), h.rd_off rfl (hi rfl rfl), h.rdI_off rfl (hi rfl rfl), h.rdI_off rfl (hi rfl rfl)]
  · rw [hw]

theorem webTrack_wlk : webTrack t = webTrack s := by
  have hw : t.web = s.web := Frame.web h (by simp [Covers, wlkParts])
  unfold webTrack
  rw [hw, srcTrack_wlk h, h.rd_off rfl rfl]

theorem posAt_wlk (n : Nat) : t.posAt n = s.posAt n := by
  have hw : t.web = s.web := Frame.web h (by simp [Covers, wlkParts])
  unfold State.posAt State.wpValid livePos
  rw [hw, webTrack_wlk h, h.on_off rfl rfl, h.rd_off rfl rfl, h.rdI_off rfl rfl, h.rdI_off rfl rfl, h.rdI_off rfl rfl]

theorem spdAt_wlk (n : Nat) : t.spdAt n = s.spdAt n := by
  unfold State.spdAt State.wpValid
  rw [webTrack_wlk h, h.on_off rfl rfl, h.rd_off rfl rfl, h.rdI_off rfl rfl]

theorem raw_wlk : t.raw = s.raw := h.rd_off rfl rfl

theorem pt_wlk : t.pt = s.pt := by
  have ht : t.tnt = s.tnt := Frame.tnt h (by simp [Covers, wlkParts])
  unfold State.pt State.ptAtTick State.absorbed State.sinceAnchor
  rw [raw_wlk h, ht, h.rd_off rfl rfl, h.rd_off rfl rfl, h.rd_off rfl rfl]

theorem recordPos_wlk (n set at_ : Nat) : recordPos t n set at_ = recordPos s n set at_ := by
  have ht : t.tes = s.tes := Frame.tes h (by simp [Covers, wlkParts])
  unfold recordPos expnsOf State.tesOf
  rw [posAt_wlk h, ht]

theorem runningHeads_wlk : runningHeads t = runningHeads s := by
  unfold runningHeads
  refine List.filter_congr fun n hn => ?_
  exact h.on_off rfl (Field.has_lt (List.mem_range.mp hn) (by decide))

theorem advance_wlk {n : Nat} (hn : n < 32) : advance t n = advance s n := by
  have hi : ∀ {f : Field}, f.n1 = 32 → f.n2 = 1 → f.has n 0 = true := fun h1 h2 => by simp [Field.has, h1, h2, hn]
  have hm : t.rd2 Reg.Head.LANEMAP n 0 = s.rd2 Reg.Head.LANEMAP n 0 := h.rd2_off rfl (Field.has_lt hn (by decide))
  have hr : masterRate t n = masterRate s n := by
    unfold masterRate
    rw [hm]
    exact h.rd_off rfl (Field.has_lt (State.rd2_lt s Reg.Head.LANEMAP n 0) (by decide))
  unfold advance
  rw [hr, h.on_off rfl (hi rfl rfl), h.rd_off rfl (hi rfl rfl), h.rd_off rfl (hi rfl rfl), h.rd_off rfl (hi rfl rfl)]

theorem nextRowPos_wlk {n : Nat} (hn : n < 32) : nextRowPos t n = nextRowPos s n := by
  have hi : ∀ {f : Field}, f.n1 = 32 → f.n2 = 1 → f.has n 0 = true := fun h1 h2 => by simp [Field.has, h1, h2, hn]
  have ht : t.tesOf n = s.tesOf n := by
    unfold State.tesOf; rw [Frame.tes h (by simp [Covers, wlkParts])]
  have hrd : ∀ {f : Field}, f.n1 = 32 → f.n2 = 1 → f.off wlkParts = true → t.rd f n = s.rd f n :=
    fun h1 h2 ho => h.rd_off ho (hi h1 h2)
  have hrI : ∀ {f : Field}, f.n1 = 32 → f.n2 = 1 → f.off wlkParts = true → t.rdI f n = s.rdI f n :=
    fun h1 h2 ho => h.rdI_off ho (hi h1 h2)
  have hg : nextGrid t n = nextGrid s n := by
    unfold nextGrid
    rw [hrd (f := Reg.TesHead.DY) rfl rfl rfl, hrI (f := Reg.TesHead.HWM) rfl rfl rfl, hrI (f := Reg.TesHead.YORG) rfl rfl rfl,
      hrd (f := Reg.TesHead.PDIR) rfl rfl rfl]
  unfold nextRowPos expnsOf tminTicks
  simp only [ht, hg, advance_wlk h hn, raw_wlk h, pt_wlk h, posAt_wlk h, spdAt_wlk h, recordPos_wlk h,
    hrd (f := Reg.TesHead.XCUR) rfl rfl rfl, hrd (f := Reg.TesHead.LRMAX) rfl rfl rfl, hrd (f := Reg.TesHead.TSRC) rfl rfl rfl,
    hrI (f := Reg.TesHead.YORG) rfl rfl rfl, hrd (f := Reg.TesHead.DY) rfl rfl rfl, hrd (f := Reg.TesHead.PDIR) rfl rfl rfl,
    hrd (f := Reg.TesHead.TSTART) rfl rfl rfl, hrd (f := Reg.TesHead.TPER) rfl rfl rfl]

theorem furthestNext_wlk (dir : Nat) : furthestNext t dir = furthestNext s dir := by
  unfold furthestNext
  rw [runningHeads_wlk h]
  refine List.foldl_ext _ _ _ fun m n hn => ?_
  rw [nextRowPos_wlk h (List.mem_range.mp (List.mem_filter.mp hn).1)]

/-- Whether a device acknowledges a cut depends on its settings of WLK, and on nothing else that WLK changes. -/
theorem acksCut_wlk (hc : ∀ f ∈ [Reg.Wlk.CUTDOM, Reg.Wlk.OUTDOMAIN, Reg.Wlk.CUTWIN, Reg.Wlk.AMAX], t.rd f 0 = s.rd f 0)
    (epoch dir : Nat) (pcut : Int) : acksCut t epoch dir pcut = acksCut s epoch dir pcut := by
  have hcuts : t.cuts = s.cuts := Frame.cuts h (by simp [Covers, wlkParts])
  have hd : inDomain t = inDomain s := by
    unfold inDomain State.on
    rw [hc _ (by simp), hc _ (by simp)]
  have hl : cutLead t = cutLead s := by
    unfold cutLead
    rw [raw_wlk h, spdAt_wlk h, hc Reg.Wlk.CUTWIN (by simp), hc Reg.Wlk.AMAX (by simp)]
  unfold acksCut
  rw [hd, hl, hcuts, furthestNext_wlk h, h.rd_off rfl rfl]

end

end Sys2Proof.Machine
end

section
/-!
SUPPORT. What the functions of Wyton Link's packets, causes and cuts do, said once for each (R494, R503, R510 to R514, R526).
-/
namespace Sys2Proof.Machine

/-! ### Commands -/

/-- A command ends in a state that differs only in the parts of a list, and of which P holds. -/
def Does (c : Instr) (ps : List Part) (P : State → Prop) (s : State) : Prop := ∃ t, exec c s = .next t ∧ Only ps s t ∧ P t

theorem Only.trans {l : List Part} {s t u : State} (h : Only l s t) (k : Only l t u) : Only l s u := Frame.trans h k

theorem portUp_lt {s : State} {p : Nat} (h : s.portUp p = true) : p < 4 := by
  unfold State.portUp at h
  simp at h
  exact h.1

@[simp] theorem State.setWlk_wlk (s : State) (w : WlkState) : (s.setWlk w).wlk = w := rfl

/-! ### The retirement of epochs -/

/-- The parts that retiring epochs and ending halts change. -/
def retireParts : List Part :=
  [.all .featMap, .all .geom, .all .lrp, .all .rtkView, .all .seam, .all .view, .grp 7, .grp 64, .cuts, .held, .mem, .progress, .recs, .rpa]

theorem retireAll_only (s : State) : Only retireParts s (retireAll s) :=
  retireAll_law (Only.of_law rfl) (Has.covers rfl) (Frame.refl _ _)

/-- With no epoch in flight and no halt that may end, nothing retires. -/
theorem retireAll_calm {s : State} (hc : s.cuts = []) (hh : s.rpa.haltArea = []) : retireAll s = s := by
  unfold retireAll
  rw [hc, List.length_nil, retireEpochs, liftHalts, hh, List.foldl_nil]

theorem retireAll_wlk (s : State) : (retireAll s).wlk = s.wlk := Frame.wlk (retireAll_only s) (by simp [Covers, retireParts])

theorem retireAll_seq (s : State) : (retireAll s).seq = s.seq := Frame.seq (retireAll_only s) (by simp [Covers, retireParts])

theorem retireAll_rd {f : Field} {i : Nat} (s : State) (hf : f.off retireParts = true) (hi : f.has i 0 = true) :
    (retireAll s).rd f i = s.rd f i := Only.rd_off (retireAll_only s) hf hi

/-! ### A packet that arrives -/

/-- The state once a port has counted a packet. -/
def arrived (p : Nat) (s : State) : State := (s.wrap Reg.WlkPort.RXPKT p 1).evt 0x11 p 0x41

theorem fromPort_up {p : Nat} {f : State → Out} {s : State} (h : s.portUp p = true) : fromPort p f s = f (arrived p s) := by
  unfold fromPort
  rw [within_lt (portUp_lt h), if_pos h]
  rfl

theorem fromPort_down {p : Nat} {f : State → Out} {s : State} (hp : p < 4) (h : ¬ s.portUp p = true) : fromPort p f s = .next s := by
  unfold fromPort
  rw [within_lt hp, if_neg h]

theorem arrived_only (p : Nat) (s : State) : Only [.one .wlkPort p, .grp 64] s (arrived p s) := by
  refine evt_law (Only.of_law rfl) (Has.covers rfl) ?_
  exact (Only.of_law (l := [.one .wlkPort p, .grp 64]) rfl).wrapAt (B := []) (k := .wlkPort) (Has.covers rfl) (Covers.one (by simp)) rfl (Frame.refl _ _)

theorem arrived_rd {p i : Nat} {f : Field} (s : State) (ha : Reg.WlkPort.RXPKT.apart f = true) (hf : f.off [.grp 64] = true)
    (hi : f.has i 0 = true) : (arrived p s).rd f i = s.rd f i := by
  unfold arrived
  rw [(evt_only _ _ _ _ _).rd_off hf hi]
  exact State.rd_wr_apart _ ha _ hi

theorem arrived_rx {p : Nat} (hp : p < 4) (s : State) :
    (arrived p s).rd Reg.WlkPort.RXPKT p = (s.rd Reg.WlkPort.RXPKT p + 1) % 2 ^ 32 := by
  have hi : Reg.WlkPort.RXPKT.has p 0 = true := Field.has_lt hp (by decide)
  unfold arrived
  rw [(evt_only _ _ _ _ _).rd_off rfl hi]
  exact State.rd_wr_same _ rfl _ hi

theorem arrived_wlk (p : Nat) (s : State) : (arrived p s).wlk = s.wlk := Frame.wlk (arrived_only p s) (by simp [Covers])

/-! ### Packets that leave -/

theorem sendOn_only (ps : List Nat) (x : WlkPkt) (s : State) : Only [.all .wlkPort, .grp 64, .sent] s (sendOn ps x s) :=
  sendOn_law (Only.of_law rfl) (Has.covers rfl) (Frame.refl _ _)

theorem portSend_only (s : State) (p : Nat) (x : WlkSent) (k : Nat) : Only [.all .wlkPort, .grp 64, .sent] s (s.portSend p x k) :=
  portSend_law (Only.of_law rfl) (Has.covers rfl) (.inr (by simp)) (Frame.refl _ _)

/-- A packet that leaves counts in TXPKT, beside live performance counts. -/
theorem portSend_rd {f : Field} {i : Nat} (s : State) (p : Nat) (x : WlkSent) (k : Nat) (ha : Reg.WlkPort.TXPKT.apart f = true)
    (hf : f.off [.grp 64] = true) (hi : f.has i 0 = true) : (s.portSend p x k).rd f i = s.rd f i := by
  unfold State.portSend
  rw [(evt_only _ _ _ _ _).rd_off hf hi]
  exact State.rd_wr_apart _ ha _ hi

theorem sendOn_rd {f : Field} {i : Nat} (ps : List Nat) (x : WlkPkt) (s : State) (ha : Reg.WlkPort.TXPKT.apart f = true)
    (hf : f.off [.grp 64] = true) (hi : f.has i 0 = true) : (sendOn ps x s).rd f i = s.rd f i := by
  unfold sendOn
  induction ps generalizing s with
  | nil => rfl
  | cons p ps ih => rw [List.foldl_cons, ih, portSend_rd s p _ 1 ha hf hi]

theorem sendOn_wlk (ps : List Nat) (x : WlkPkt) (s : State) : (sendOn ps x s).wlk = s.wlk :=
  Frame.wlk (sendOn_only ps x s) (by simp [Covers])

theorem portSend_wlk (s : State) (p : Nat) (x : WlkSent) (k : Nat) : (s.portSend p x k).wlk = s.wlk :=
  Frame.wlk (portSend_only s p x k) (by simp [Covers])

/-! ### Causes of WLK -/

theorem wlkCause_only (k : Nat) (s : State) : Only [.grp 17, .tokens] s (s.wlkCause k) :=
  wlkCause_law (Only.of_law rfl) (Has.covers rfl) (Frame.refl _ _)

theorem wlkCause_rd {f : Field} {i k : Nat} (s : State) (ha : Reg.Wlk.WCAUSE.apart f = true) (hi : f.has i 0 = true) :
    (s.wlkCause k).rd f i = s.rd f i := by
  unfold State.wlkCause
  dsimp only
  rw [State.rd_ite, State.emit_rd, ite_self]
  exact State.rd_wr_apart _ ha _ hi

theorem wlkCause_wlk (k : Nat) (s : State) : (s.wlkCause k).wlk = s.wlk := Frame.wlk (wlkCause_only k s) (by simp [Covers])

theorem wlkCause_seq (k : Nat) (s : State) : (s.wlkCause k).seq = s.seq := Frame.seq (wlkCause_only k s) (by simp [Covers])

/-- Cause k of WLK is shown. -/
def State.hasWlkCause (s : State) (k : Nat) : Prop := (s.rd Reg.Wlk.WCAUSE 0).testBit k = true

theorem wlkCause_causes (s : State) (k : Nat) : (s.wlkCause k).rd Reg.Wlk.WCAUSE 0 = (s.rd Reg.Wlk.WCAUSE 0 ||| 2 ^ k) % 2 ^ 8 := by
  unfold State.wlkCause
  dsimp only
  rw [State.rd_ite, State.emit_rd, ite_self]
  exact State.rd_wr_same _ rfl _ rfl

theorem hasWlkCause_self {k : Nat} (s : State) (hk : k < 8) : (s.wlkCause k).hasWlkCause k := by
  unfold State.hasWlkCause
  rw [wlkCause_causes, Nat.testBit_mod_two_pow, Nat.testBit_or, Nat.testBit_two_pow_self]
  simp [hk]

/-- A cause that is shown stays. -/
theorem hasWlkCause_wlkCause {s : State} {j : Nat} (k : Nat) (h : s.hasWlkCause j) : (s.wlkCause k).hasWlkCause j := by
  unfold State.hasWlkCause at h ⊢
  have hj : j < 8 := by
    by_contra hc
    rw [Nat.testBit_lt_two_pow (lt_of_lt_of_le (State.rd_lt s Reg.Wlk.WCAUSE 0) (Nat.pow_le_pow_right (by omega) (by omega : 8 ≤ j)))] at h
    exact Bool.noConfusion h
  rw [wlkCause_causes, Nat.testBit_mod_two_pow, Nat.testBit_or, h]
  simp [hj]

theorem hasWlkCause_of_rd {s t : State} {j : Nat} (e : t.rd Reg.Wlk.WCAUSE 0 = s.rd Reg.Wlk.WCAUSE 0) (h : s.hasWlkCause j) : t.hasWlkCause j := by
  unfold State.hasWlkCause at h ⊢
  rw [e, h]

theorem hasWlkCause_setWlk {s : State} {w : WlkState} {j : Nat} (h : s.hasWlkCause j) : (s.setWlk w).hasWlkCause j :=
  hasWlkCause_of_rd (State.setWlk_rd s w _ _) h

theorem hasWlkCause_sat {s : State} {f : Field} {i n j : Nat} (ha : f.apart Reg.Wlk.WCAUSE = true) (h : s.hasWlkCause j) :
    (s.sat f i n).hasWlkCause j := hasWlkCause_of_rd (State.rd_wr_apart _ ha _ rfl) h

/-! ### Terms -/

theorem orphanCut_wlk (s : State) : (orphanCut s).wlk = { s.wlk with cut := none } := by
  unfold orphanCut
  split
  · split
    · rfl
    · rw [wlkCause_wlk]
      simp [State.setWlk]
  · next h => rw [← h]

/-- Dropping a cut counts it, at most, and shows cause 1. -/
theorem orphanCut_rd {f : Field} {i : Nat} (s : State) (h1 : Reg.Wlk.WCAUSE.apart f = true) (h2 : Reg.Wlk.CUTORPHCNT.apart f = true)
    (hi : f.has i 0 = true) : (orphanCut s).rd f i = s.rd f i := by
  unfold orphanCut
  split
  · split
    · rfl
    · rw [wlkCause_rd _ h1 hi]
      exact State.rd_wr_apart _ h2 _ hi
  · rfl

theorem hearTerm_only (term : Nat) (s : State) : Only [.grp 17, .tokens, .wlk] s (hearTerm term s) :=
  hearTerm_law (Only.of_law rfl) (Has.covers rfl) (Frame.refl _ _)

theorem hearTerm_known {term : Nat} {s : State} (h : term ≤ s.wlk.seenTerm) : hearTerm term s = s := if_pos h

/-- A new TERM is the highest seen, and drops the cut. -/
theorem hearTerm_new {term : Nat} {s : State} (h : s.wlk.seenTerm < term) :
    (hearTerm term s).wlk = { s.wlk with seenTerm := term, cut := none } := by
  unfold hearTerm
  rw [if_neg (by omega), orphanCut_wlk]
  rfl

theorem hearTerm_rd {f : Field} {i term : Nat} (s : State) (h1 : Reg.Wlk.WCAUSE.apart f = true) (h2 : Reg.Wlk.CUTORPHCNT.apart f = true)
    (hi : f.has i 0 = true) : (hearTerm term s).rd f i = s.rd f i := by
  unfold hearTerm
  split
  · rfl
  · rw [orphanCut_rd _ h1 h2 hi]
    rfl

theorem hearTerm_ports (term : Nat) (s : State) : (hearTerm term s).wlk.ports = s.wlk.ports := by
  by_cases h : term ≤ s.wlk.seenTerm
  · rw [hearTerm_known h]
  · rw [hearTerm_new (by omega)]

/-- The state once a port has taken a packet of a master's TERM. -/
def heard (p term : Nat) (s : State) : State := hearTerm term (arrived p s)

theorem isMaster_arrived (p : Nat) (s : State) : isMaster (arrived p s) = isMaster s :=
  (arrived_only p s).on_off rfl rfl

theorem fromMaster_ignored {p term : Nat} {f : State → Out} {s : State} (h : s.portUp p = true)
    (hi : term < s.wlk.seenTerm ∨ s.rd Reg.Wlk.MASTER 0 ≠ 0) : fromMaster p term f s = .next (arrived p s) := by
  unfold fromMaster
  rw [fromPort_up h, if_pos]
  rw [arrived_wlk, isMaster_arrived]
  exact hi.imp id fun h => by simpa [isMaster, State.on] using h

theorem fromMaster_taken {p term : Nat} {f : State → Out} {s : State} (h : s.portUp p = true)
    (ht : s.wlk.seenTerm ≤ term) (hm : ¬ s.rd Reg.Wlk.MASTER 0 ≠ 0) : fromMaster p term f s = f (heard p term s) := by
  unfold fromMaster
  rw [fromPort_up h, if_neg]
  · rfl
  rw [arrived_wlk, isMaster_arrived]
  rintro (hc | hc)
  · omega
  · exact hm (by simpa [isMaster, State.on] using hc)

theorem heard_only (p term : Nat) (s : State) : Only [.all .wlkPort, .grp 17, .grp 64, .tokens, .wlk] s (heard p term s) :=
  Frame.trans (Frame.mono (arrived_only p s) fun q hq => by cases q <;> simp_all [Covers]) ((hearTerm_only _ _).mono rfl)

theorem heard_rx {p : Nat} (term : Nat) (hp : p < 4) (s : State) :
    (heard p term s).rd Reg.WlkPort.RXPKT p = (s.rd Reg.WlkPort.RXPKT p + 1) % 2 ^ 32 := by
  unfold heard
  rw [(hearTerm_only _ _).rd_off rfl (Field.has_lt hp (by decide)), arrived_rx hp]

theorem heard_rd {p term i : Nat} {f : Field} (s : State) (h0 : Reg.WlkPort.RXPKT.apart f = true) (hf : f.off [.grp 64] = true)
    (h1 : Reg.Wlk.WCAUSE.apart f = true) (h2 : Reg.Wlk.CUTORPHCNT.apart f = true) (hi : f.has i 0 = true) :
    (heard p term s).rd f i = s.rd f i := by
  unfold heard
  rw [hearTerm_rd _ h1 h2 hi, arrived_rd _ h0 hf hi]

/-- The ports below depend on the ports' states and on what the neighbours have told. -/
theorem belowPorts_congr {s t : State} (h : ∀ p, p < 4 → t.rd Reg.WlkPort.PSTATE p = s.rd Reg.WlkPort.PSTATE p)
    (hp : t.wlk.ports = s.wlk.ports) : belowPorts t = belowPorts s := by
  have hu : upPorts t = upPorts s := by
    unfold upPorts
    refine List.filter_congr fun p hq => ?_
    unfold State.portUp
    rw [h p (List.mem_range.mp hq)]
  unfold belowPorts State.port
  rw [hu, hp]

theorem belowPorts_heard (p term : Nat) (s : State) : belowPorts (heard p term s) = belowPorts s :=
  belowPorts_congr (fun _ hq => heard_rd s rfl rfl rfl rfl (Field.has_lt hq (by decide))) (by rw [heard, hearTerm_ports, arrived_wlk])

/-- A packet of a master changes nothing that decides on a cut. -/
theorem acksCut_heard (p term epoch dir : Nat) (pcut : Int) (s : State) :
    acksCut (heard p term s) epoch dir pcut = acksCut s epoch dir pcut :=
  acksCut_wlk ((heard_only p term s).mono rfl) (by
    intro f hf
    simp only [List.mem_cons, List.not_mem_nil, or_false] at hf
    rcases hf with rfl | rfl | rfl | rfl <;> exact heard_rd s rfl rfl rfl rfl rfl) _ _ _

theorem acksCut_arrived (p epoch dir : Nat) (pcut : Int) (s : State) :
    acksCut (arrived p s) epoch dir pcut = acksCut s epoch dir pcut := by
  have h := acksCut_heard p 0 epoch dir pcut s
  rwa [heard, hearTerm_known (Nat.zero_le _)] at h

/-! ### Decisions and replies -/

theorem decideCut_acks {c : FabCut} {s : State} (h : acksCut s c.epoch c.dir c.pos = true) : decideCut c s = ({ c with replied := true }, s) :=
  if_pos h

theorem decideCut_refuses {c : FabCut} {s : State} (h : ¬ acksCut s c.epoch c.dir c.pos = true) :
    decideCut c s = ({ c with replied := true, ack := false, minpos := furtherOpt c.dir c.minpos (ownMinpos s c.dir) },
      (s.sat Reg.Wlk.CUTREFCNT 0 1).wlkCause 2) := if_neg h

theorem decideCut_only (c : FabCut) (s : State) : Only [.grp 17, .tokens] s (decideCut c s).2 :=
  decideCut_law (Only.of_law rfl) (Has.covers rfl) (Frame.refl _ _)

theorem decideCut_wlk (c : FabCut) (s : State) : (decideCut c s).2.wlk = s.wlk := Frame.wlk (decideCut_only c s) (by simp [Covers])

/-- The device's decision joins the cut: what it keeps, and that both the replies and the device must agree. -/
theorem decideCut_fst (c : FabCut) (s : State) :
    (decideCut c s).1.replied = true ∧ (decideCut c s).1.master = c.master ∧ (decideCut c s).1.wait = c.wait ∧ (decideCut c s).1.epoch = c.epoch ∧
      ((decideCut c s).1.ack = true ↔ c.ack = true ∧ acksCut s c.epoch c.dir c.pos = true) := by
  by_cases h : acksCut s c.epoch c.dir c.pos = true
  · rw [decideCut_acks h]
    exact ⟨rfl, rfl, rfl, rfl, by simp [h]⟩
  · rw [decideCut_refuses h]
    exact ⟨rfl, rfl, rfl, rfl, by simp [h]⟩

/-- The device's reply upward. -/
theorem replyCut_up {c : FabCut} (s : State) (h : c.master = false) :
    (replyCut c s).wlk = { s.wlk with cut := some (decideCut c s).1 } ∧
      ∀ {f : Field} {i : Nat}, Reg.WlkPort.TXPKT.apart f = true → f.off [.grp 64] = true → f.has i 0 = true →
        (replyCut c s).rd f i = (decideCut c s).2.rd f i := by
  have hm : (decideCut c s).1.master = false := by rw [(decideCut_fst c s).2.1, h]
  have he : replyCut c s = ((decideCut c s).2.setWlk { (decideCut c s).2.wlk with cut := some (decideCut c s).1 }).portSend (decideCut c s).1.up
      { pkt := .reply (decideCut c s).1.epoch (decideCut c s).1.ack (decideCut c s).1.minpos } 1 := by
    unfold replyCut
    dsimp only
    rw [hm]
    rfl
  rw [he]
  refine ⟨?_, fun h1 h2 h3 => ?_⟩
  · rw [portSend_wlk, State.setWlk_wlk, decideCut_wlk]
  · rw [portSend_rd _ _ _ _ h1 h2 h3]
    rfl

theorem replyCut_master {c : FabCut} (s : State) (h : c.master = true) :
    replyCut c s = concludeCut 16 (decideCut c s).1 (decideCut c s).2 := by
  unfold replyCut
  dsimp only
  rw [if_pos (by rw [(decideCut_fst c s).2.1, h])]

/-- A cut once a reply of port p has joined it. -/
def FabCut.join (c : FabCut) (p : Nat) (ack : Bool) (minpos : Option Int) : FabCut :=
  { c with wait := c.wait.filter (· != p), ack := c.ack && ack, minpos := if ack then c.minpos else furtherOpt c.dir c.minpos minpos }

theorem joinReply_awaited {p : Nat} {ack : Bool} {minpos : Option Int} {s : State} {c : FabCut} (hc : s.wlk.cut = some c)
    (hp : c.wait.contains p = true) : joinReply p ack minpos s =
      if (c.wait.filter (· != p)).isEmpty then replyCut (c.join p ack minpos) s else s.setWlk { s.wlk with cut := some (c.join p ack minpos) } := by
  unfold joinReply
  rw [hc]
  simp only [hp, Bool.not_true, Bool.false_eq_true, if_false]
  rfl

theorem joinReply_other {p : Nat} {ack : Bool} {minpos : Option Int} {s : State}
    (h : s.wlk.cut = none ∨ ∃ c, s.wlk.cut = some c ∧ c.wait.contains p = false) : joinReply p ack minpos s = s := by
  unfold joinReply
  rcases h with h | ⟨c, h, hp⟩
  · rw [h]
  · rw [h]
    simp only [hp, Bool.not_false, if_true]

/-! ### Placement and conclusion -/

theorem placeCut_only (epoch dir : Nat) (pcut : Int) (fabric : Bool) (s : State) :
    Only [.grp 4, .grp 64, .cutPkts, .cuts] s (placeCut epoch dir pcut fabric s) :=
  placeCut_law (Only.of_law rfl) (Has.covers rfl) (Frame.refl _ _)

theorem State.rd_cuts (s : State) (cs : List CutRec) (ps : List CutPkt) (f : Field) (i : Nat) :
    ({ s with cuts := cs, cutPkts := ps } : State).rd f i = s.rd f i := rfl

theorem evtHeads_only (hs : List Nat) (s : State) : Only [.grp 64] s (hs.foldl (fun t h => t.evt 4 h 0x02) s) :=
  Law.foldl (fun _ _ h => Frame.trans h (evt_only _ _ _ _ _)) (Frame.refl _ _)

/-- Placing a cut opens its epoch. -/
theorem placeCut_epoch (epoch dir : Nat) (pcut : Int) (fabric : Bool) (s : State) :
    (placeCut epoch dir pcut fabric s).rd Reg.Cut.EPOCH 0 = epoch % 128 := by
  unfold placeCut
  dsimp only
  rw [(evtHeads_only _ _).rd_off rfl rfl, (evt_only _ _ _ _ _).rd_off rfl rfl, State.rd_cuts]
  unfold State.sat State.wrI
  rw [State.rd_wr_apart _ rfl _ rfl, State.rd_wr_apart _ rfl _ rfl, State.rd_wr_same _ rfl _ rfl]
  rfl

theorem followEpochIf_only (e : Nat) (s : State) : Only [.grp 17] s (followEpochIf e s) :=
  followEpochIf_law (Only.of_law rfl) (Has.covers rfl) (Frame.refl _ _)

theorem placeFabric_only (c : FabCut) (s : State) : Only [.grp 4, .grp 17, .grp 64, .cutPkts, .cuts, .tokens] s (placeFabric c s) :=
  placeFabric_law (Only.of_law rfl) (Has.covers rfl) (Frame.refl _ _)

theorem placeFabric_wlk (c : FabCut) (s : State) : (placeFabric c s).wlk = s.wlk := Frame.wlk (placeFabric_only c s) (by simp [Covers])

/-- A cut of the epoch that comes next opens that epoch, on a device of the domain. -/
theorem placeFabric_epoch {c : FabCut} {s : State} (hd : s.rd Reg.Wlk.CUTDOM 0 ≠ 0) (he : (s.rd Reg.Cut.EPOCH 0 + 1) % 128 = c.epoch) :
    (placeFabric c s).rd Reg.Cut.EPOCH 0 = c.epoch := by
  have hlt : c.epoch % 128 = c.epoch := by omega
  unfold placeFabric
  rw [if_neg (by simp [State.on, hd, he])]
  split
  · rw [(followEpochIf_only _ _).rd_off rfl rfl, placeCut_epoch, hlt]
  · dsimp only
    rw [(wlkCause_only _ _).rd_off rfl rfl, State.rd_wr_apart _ rfl _ rfl]
    unfold State.sat
    rw [State.rd_wr_apart _ rfl _ rfl, (followEpochIf_only _ _).rd_off rfl rfl, placeCut_epoch, hlt]

theorem followEpochIf_causes (e : Nat) (s : State) : (followEpochIf e s).rd Reg.Wlk.WCAUSE 0 = s.rd Reg.Wlk.WCAUSE 0 := by
  unfold followEpochIf
  split
  · exact State.rd_wr_apart _ rfl _ rfl
  · rfl

/-- Placing a cut shows no cause less. -/
theorem hasWlkCause_placeFabric {c : FabCut} {s : State} {k : Nat} (h : s.hasWlkCause k) : (placeFabric c s).hasWlkCause k := by
  have hp : ∀ {e d : Nat} {p : Int}, (followEpochIf c.epoch (placeCut e d p true s)).hasWlkCause k := fun {e d p} =>
    hasWlkCause_of_rd (by rw [followEpochIf_causes, (placeCut_only e d p true s).rd_off rfl rfl]) h
  unfold placeFabric
  split
  · exact h
  split
  · exact hp
  · exact hasWlkCause_wlkCause 0 (hasWlkCause_of_rd (State.rd_wr_apart _ rfl _ rfl) (hasWlkCause_sat rfl hp))

theorem completeCut_only (st : Nat) (s : State) : Only [.seq] s (completeCut st s) :=
  completeCut_law (Only.of_law rfl) (Has.covers rfl) (Frame.refl _ _)

theorem completeCut_wlk (st : Nat) (s : State) : (completeCut st s).wlk = s.wlk := Frame.wlk (completeCut_only st s) (by simp [Covers])

/-- Which operation completes is read from the sequencers' state alone. -/
theorem completeCut_seq {st : Nat} {s t : State} (h : t.seq = s.seq) : (completeCut st t).seq = (completeCut st s).seq := by
  unfold completeCut State.complete
  rw [h]
  split <;> simp [h]

theorem hasWlkCause_completeCut {st k : Nat} {s : State} (h : s.hasWlkCause k) : (completeCut st s).hasWlkCause k :=
  hasWlkCause_of_rd ((completeCut_only st s).rd_off rfl rfl) h

theorem hasWlkCause_sendOn {ps : List Nat} {x : WlkPkt} {s : State} {k : Nat} (h : s.hasWlkCause k) : (sendOn ps x s).hasWlkCause k :=
  hasWlkCause_of_rd ((sendOn_only ps x s).rd_off rfl rfl) h

theorem hasWlkCause_decideCut {c : FabCut} {s : State} {k : Nat} (h : s.hasWlkCause k) : (decideCut c s).2.hasWlkCause k := by
  unfold decideCut
  split
  · exact h
  · exact hasWlkCause_wlkCause 2 (hasWlkCause_sat rfl h)

theorem hasWlkCause_commitCut {c : FabCut} {s : State} {k : Nat} (h : s.hasWlkCause k) : (commitCut c s).hasWlkCause k := by
  unfold commitCut
  exact hasWlkCause_completeCut (hasWlkCause_setWlk (hasWlkCause_placeFabric (hasWlkCause_sendOn (hasWlkCause_setWlk h))))

/-- The master cancels a cut that not all have agreed to, and ends it after CUTTRIES announcements or announces it again. -/
theorem concludeCut_again {n : Nat} {c : FabCut} {s : State} (h : ¬ (c.ack && c.wait.isEmpty) = true) :
    let u := (sendOn (belowPorts s) (.cancel (s.rd Reg.Wlk.TERM 0) c.epoch) s).wlkCause 3
    let q := { c with pos := c.minpos.getD (ahead c.dir c.pos (2 * cutLead u)), tries := c.tries + 1 }
    let r := announceCut q u
    concludeCut (n + 1) c s = if s.rd Reg.Wlk.CUTTRIES 0 ≤ c.tries then
        completeCut stCUTLATE ((u.setWlk { u.wlk with cut := none }).sat Reg.Cut.CUTLATECNT 0 1)
      else if !(belowPorts s).isEmpty then r.2.setWlk { r.2.wlk with cut := some r.1 }
      else concludeCut n (decideCut r.1 r.2).1 (decideCut r.1 r.2).2 := by
  dsimp only
  set u := (sendOn (belowPorts s) (.cancel (s.rd Reg.Wlk.TERM 0) c.epoch) s).wlkCause 3 with hu
  have ht : u.rd Reg.Wlk.CUTTRIES 0 = s.rd Reg.Wlk.CUTTRIES 0 := by
    rw [wlkCause_rd _ rfl rfl, (sendOn_only _ _ _).rd_off rfl rfl]
  have hb : belowPorts u = belowPorts s := by
    refine belowPorts_congr (fun p hp => ?_) (by rw [wlkCause_wlk, sendOn_wlk])
    rw [wlkCause_rd _ rfl (Field.has_lt hp (by decide)), sendOn_rd _ _ _ rfl rfl (Field.has_lt hp (by decide))]
  rw [concludeCut, if_neg h]
  simp only [← hu, ht]
  cases c.minpos <;> simp only [announceCut, hb, Option.getD_some, Option.getD_none]

theorem hasWlkCause_announceCut {k : Nat} {s : State} (h : s.hasWlkCause k) (c : FabCut) : (announceCut c s).2.hasWlkCause k :=
  hasWlkCause_sendOn h

/-- Concluding a cut shows no cause less. -/
theorem hasWlkCause_concludeCut {n k : Nat} {c : FabCut} {s : State} (h : s.hasWlkCause k) : (concludeCut n c s).hasWlkCause k := by
  induction n generalizing c s with
  | zero => exact h
  | succ n ih =>
    by_cases ha : (c.ack && c.wait.isEmpty) = true
    · rw [concludeCut, if_pos ha]
      exact hasWlkCause_commitCut h
    have hu := hasWlkCause_wlkCause 3 (hasWlkCause_sendOn (ps := belowPorts s) (x := .cancel (s.rd Reg.Wlk.TERM 0) c.epoch) h)
    rw [concludeCut_again ha]
    split
    · refine hasWlkCause_completeCut ?_
      exact hasWlkCause_sat rfl (hasWlkCause_setWlk hu)
    have hr := hasWlkCause_announceCut hu
    split
    · exact hasWlkCause_setWlk (hr _)
    · exact ih (hasWlkCause_decideCut (hr _))

/-- The master that cancels shows cause 3. -/
theorem hasWlkCause_cancel {n : Nat} {c : FabCut} (s : State) (h : ¬ (c.ack && c.wait.isEmpty) = true) : (concludeCut (n + 1) c s).hasWlkCause 3 := by
  have hu := hasWlkCause_self (k := 3) (sendOn (belowPorts s) (.cancel (s.rd Reg.Wlk.TERM 0) c.epoch) s) (by decide)
  rw [concludeCut_again h]
  split
  · refine hasWlkCause_completeCut ?_
    exact hasWlkCause_sat rfl (hasWlkCause_setWlk hu)
  have hr := hasWlkCause_announceCut hu
  split
  · exact hasWlkCause_setWlk (hr _)
  · exact hasWlkCause_concludeCut (hasWlkCause_decideCut (hr _))

theorem hasWlkCause_replyCut {k : Nat} {c : FabCut} {s : State} (h : s.hasWlkCause k) : (replyCut c s).hasWlkCause k := by
  cases hm : c.master with
  | true =>
    rw [replyCut_master s hm]
    exact hasWlkCause_concludeCut (hasWlkCause_decideCut h)
  | false => exact hasWlkCause_of_rd ((replyCut_up s hm).2 rfl rfl rfl) (hasWlkCause_decideCut h)

theorem hasWlkCause_joinReply {p k : Nat} {ack : Bool} {minpos : Option Int} {s : State} {c : FabCut} (hc : s.wlk.cut = some c)
    (hp : c.wait.contains p = true) (h : s.hasWlkCause k) : (joinReply p ack minpos s).hasWlkCause k := by
  rw [joinReply_awaited hc hp]
  split
  · exact hasWlkCause_replyCut h
  · exact hasWlkCause_setWlk h

theorem hasWlkCause_retireAll {k : Nat} {s : State} (h : s.hasWlkCause k) : (retireAll s).hasWlkCause k :=
  hasWlkCause_of_rd (retireAll_rd s rfl rfl) h

/-- A cut that all have agreed to is committed: it is over, and opens its epoch. -/
theorem commitCut_done (c : FabCut) (s : State) : (commitCut c s).wlk.cut = none ∧
    (s.rd Reg.Wlk.CUTDOM 0 ≠ 0 → (s.rd Reg.Cut.EPOCH 0 + 1) % 128 = c.epoch → (commitCut c s).rd Reg.Cut.EPOCH 0 = c.epoch) := by
  unfold commitCut
  dsimp only
  constructor
  · rw [completeCut_wlk, State.setWlk_wlk, placeFabric_wlk, sendOn_wlk, State.setWlk_wlk]
  · intro hd he
    rw [(completeCut_only _ _).rd_off rfl rfl, State.setWlk_rd]
    refine placeFabric_epoch ?_ ?_
    · rw [(sendOn_only _ _ _).rd_off rfl rfl, State.setWlk_rd]; exact hd
    · rw [(sendOn_only _ _ _).rd_off rfl rfl, State.setWlk_rd]; exact he

end Sys2Proof.Machine
end

section
/-!
PROOF. Fabric cuts: a waiting TES.CUT, announcements, replies, timeouts, commitment and cancellation (R42, R219, R510 to R514).
-/
namespace Sys2Proof.Machine

/-- The parts that a packet of a cut changes beside those of its commitment. -/
def cutLinkParts : List Part := [.all .wlkPort, .grp 17, .grp 64, .tokens, .wlk]

/-- The parts that a cut changes that is committed or given up. -/
def cutParts : List Part :=
  cutLinkParts ++ [.all .featMap, .all .geom, .all .lrp, .all .rtkView, .all .seam, .all .view, .grp 4, .grp 7, .cutPkts, .cuts,
    .held, .mem, .progress, .recs, .rpa, .sent, .seq]

/-! ### A TES.CUT that waits -/

/-- The state from which a waiting operation goes on. -/
def State.unwaiting (s : State) : State := { s with seq := { s.seq with wait := none } }

theorem epochWaitResume_idle {s : State} (h : ∀ x, s.seq.wait ≠ some (4, 5, x)) : exec .epochWaitResume s = .next s := by
  rw [exec_epochWaitResume]
  unfold execEpochWaitResume
  split
  · next x hx => exact absurd hx (h x)
  · rfl

theorem epochWaitResume_full {s : State} {x : XWord} (h : s.seq.wait = some (4, 5, x)) (hf : 63 ≤ epochsInFlight s) :
    exec .epochWaitResume s = .next s := by
  rw [exec_epochWaitResume]
  unfold execEpochWaitResume
  rw [h]
  exact if_pos hf

theorem epochWaitResume_goes {s : State} {x : XWord} (h : s.seq.wait = some (4, 5, x)) (hf : epochsInFlight s < 63) :
    exec .epochWaitResume s = xop 4 0x05 x tesCut s.unwaiting := by
  rw [exec_epochWaitResume]
  unfold execEpochWaitResume
  rw [h]
  exact if_neg (by omega)

/-- An operation that waits again stands where it stood. -/
theorem epochWaitResume_holds {s : State} {x : XWord} (h : s.seq.wait = some (4, 5, x)) (hf : epochsInFlight s < 63)
    (hr : XReady x s.unwaiting) (hb : bit ((xargs s.unwaiting x).w 1) 1 = false) (hp : cutPoolFull s = true) :
    exec .epochWaitResume s = .next s := by
  rw [epochWaitResume_goes h hf]
  have hh : tesCut (xargs s.unwaiting x) s.unwaiting = .hold s.unwaiting := by
    have hp' : cutPoolFull s.unwaiting = true := hp
    unfold tesCut
    simp only [hb, hp', Bool.or_true, Bool.false_eq_true, if_false, if_true]
  obtain ⟨h1, h2, h3, h4⟩ := hr
  unfold xop
  simp only [h1, h2, h3, h4, hh, Bool.not_true, Bool.or_self, Bool.false_eq_true, if_false]
  rw [← h]
  rfl

/-- A local cut off the domain opens the next epoch. -/
theorem tesCut_local {a : XArgs} {s : State} (hb : bit (a.w 1) 1 = false) (hf : epochsInFlight s < 63) (hp : cutPoolFull s = false)
    (ho : s.rd Reg.Wlk.OUTDOMAIN 0 = 0) (hd : s.rd Reg.Wlk.CUTDOM 0 = 0)
    (hv : cutValid s (b2n (bit (a.w 1) 0)) (a.w 0).toInt = true) :
    tesCut a s = .fin stOK (retireAll (followEpochIf s.wlk.syncEpoch
      (placeCut ((s.rd Reg.Cut.EPOCH 0 + 1) % 128) (b2n (bit (a.w 1) 0)) (a.w 0).toInt false s))) := by
  have hf' : decide (63 ≤ epochsInFlight s) = false := decide_eq_false (by omega)
  unfold tesCut localCut State.on
  simp only [hb, hf', hp, ho, hd, hv, Bool.or_self, Bool.not_true, Bool.false_and, bne_self_eq_false, Bool.false_eq_true, if_false]

theorem epochWaitResume_places {s : State} {x : XWord} (h : s.seq.wait = some (4, 5, x)) (hf : epochsInFlight s < 63)
    (hr : XReady x s.unwaiting) (hb : bit ((xargs s.unwaiting x).w 1) 1 = false) (hp : cutPoolFull s = false)
    (ho : s.rd Reg.Wlk.OUTDOMAIN 0 = 0) (hd : s.rd Reg.Wlk.CUTDOM 0 = 0)
    (hv : cutValid s (b2n (bit ((xargs s.unwaiting x).w 1) 0)) ((xargs s.unwaiting x).w 0).toInt = true) :
    Does .epochWaitResume (cutParts ++ [.grp 0, .procs, .sampled])
      (fun t => t.rd Reg.Cut.EPOCH 0 = (s.rd Reg.Cut.EPOCH 0 + 1) % 128 ∧ t.seq.wait = none) s := by
  have hbody := tesCut_local (s := s.unwaiting) hb hf hp ho hd hv
  set c := placeCut ((s.unwaiting.rd Reg.Cut.EPOCH 0 + 1) % 128) (b2n (bit ((xargs s.unwaiting x).w 1) 0)) ((xargs s.unwaiting x).w 0).toInt
    false s.unwaiting with hc
  have honly : Only (retireParts ++ [.grp 4, .grp 17, .cutPkts]) s.unwaiting (retireAll (followEpochIf s.unwaiting.wlk.syncEpoch c)) :=
    Only.trans ((placeCut_only _ _ _ _ _).mono rfl) (Only.trans ((followEpochIf_only _ _).mono rfl) ((retireAll_only _).mono rfl))
  obtain ⟨t, he, hst, hk⟩ := xop_touch (unit := 4) (op := 5) hr hbody honly
  rw [← epochWaitResume_goes h hf] at he
  refine ⟨t, he, outAll.get (execEpochWaitResume_law (Only.of_law rfl) (Has.covers rfl) (Frame.refl _ _)) he, ?_, ?_⟩
  · rw [hk.rd_off rfl rfl, retireAll_rd _ rfl rfl, (followEpochIf_only _ _).rd_off rfl rfl, hc, placeCut_epoch]
    show (s.rd Reg.Cut.EPOCH 0 + 1) % 128 % 128 = _
    omega
  · obtain ⟨⟨_, _, hseq, _⟩, _⟩ := hst
    rw [hseq]
    rfl

/-! ### Announcements -/

theorem cutAnnounce_only {p term epoch dir : Nat} {pcut : Int} {s t : State} (he : exec (.cutAnnounceReceive p term epoch dir pcut) s = .next t) :
    Only (cutLinkParts ++ [.grp 4, .cutPkts, .cuts, .sent, .seq]) s t :=
  outAll.get (execCutAnnounceReceive_law (Only.of_law rfl) (Has.covers rfl) (Frame.refl _ _)) he

/-- The ports whose replies an announcement that came on port p awaits. -/
def awaited (p : Nat) (s : State) : List Nat := (belowPorts s).filter (· != p)

/-- The cut that an announcement on port p makes known. -/
def announced (p epoch dir : Nat) (pcut : Int) (s : State) : FabCut :=
  { epoch := epoch % 128, pos := pcut, dir := dir % 2, up := p, wait := awaited p s }

section
variable {p term epoch dir : Nat} {pcut : Int} {s : State}

theorem cutAnnounce_down (hp : p < 4) (hu : ¬ s.portUp p = true) :
    exec (.cutAnnounceReceive p term epoch dir pcut) s = .next s := by
  rw [exec_cutAnnounceReceive, execCutAnnounceReceive, fromMaster, fromPort_down hp hu]

theorem cutAnnounce_counted (hu : s.portUp p = true) (h : term < s.wlk.seenTerm ∨ s.rd Reg.Wlk.MASTER 0 ≠ 0) :
    exec (.cutAnnounceReceive p term epoch dir pcut) s = .next (arrived p s) := by
  rw [exec_cutAnnounceReceive, execCutAnnounceReceive, fromMaster_ignored hu h]

variable (hu : s.portUp p = true) (ht : s.wlk.seenTerm ≤ term) (hm : ¬ s.rd Reg.Wlk.MASTER 0 ≠ 0)
include hu ht hm

/-- An announcement goes on below, or the node replies at once. -/
theorem cutAnnounce_taken : exec (.cutAnnounceReceive p term epoch dir pcut) s =
    let u := sendOn (awaited p s) (.announce term (epoch % 128) (dir % 2) pcut) (heard p term s)
    if (awaited p s).isEmpty then .next (replyCut (announced p epoch dir pcut s) u)
    else .next (u.setWlk { u.wlk with cut := some (announced p epoch dir pcut s) }) := by
  rw [exec_cutAnnounceReceive, execCutAnnounceReceive, fromMaster_taken hu ht hm, belowPorts_heard]
  rfl

theorem cutAnnounce_goesOn (hps : awaited p s ≠ []) : exec (.cutAnnounceReceive p term epoch dir pcut) s =
    .next ((sendOn (awaited p s) (.announce term (epoch % 128) (dir % 2) pcut) (heard p term s)).setWlk
      { (sendOn (awaited p s) (.announce term (epoch % 128) (dir % 2) pcut) (heard p term s)).wlk with cut := some (announced p epoch dir pcut s) }) := by
  rw [cutAnnounce_taken hu ht hm]
  exact if_neg fun h => hps (List.isEmpty_iff.mp h)

theorem cutAnnounce_replies (hps : awaited p s = []) : exec (.cutAnnounceReceive p term epoch dir pcut) s =
    .next (replyCut (announced p epoch dir pcut s) (heard p term s)) := by
  rw [cutAnnounce_taken hu ht hm, hps]
  rfl

theorem cutAnnounce_does : Does (.cutAnnounceReceive p term epoch dir pcut) (cutLinkParts ++ [.grp 4, .cutPkts, .cuts, .sent, .seq]) (fun t =>
    t.rd Reg.WlkPort.RXPKT p = (s.rd Reg.WlkPort.RXPKT p + 1) % 2 ^ 32 ∧
    (awaited p s ≠ [] → t.wlk.cut = some (announced p epoch dir pcut s)) ∧
    (awaited p s = [] → acksCut s (epoch % 128) (dir % 2) pcut = true →
      t.wlk.cut = some { announced p epoch dir pcut s with replied := true }) ∧
    (awaited p s = [] → acksCut s (epoch % 128) (dir % 2) pcut = false →
      t.rd Reg.Wlk.CUTREFCNT 0 = min (s.rd Reg.Wlk.CUTREFCNT 0 + 1) (2 ^ Reg.Wlk.CUTREFCNT.width - 1) ∧
      (t.rd Reg.Wlk.WCAUSE 0).testBit 2 = true ∧ ∃ q, t.wlk.cut = some q ∧ q.replied = true ∧ q.ack = false)) s := by
  have hp := portUp_lt hu
  have hrx : Reg.WlkPort.RXPKT.has p 0 = true := Field.has_lt hp (by decide)
  by_cases hps : awaited p s = []
  · have he := cutAnnounce_replies (epoch := epoch) (dir := dir) (pcut := pcut) hu ht hm hps
    set f := announced p epoch dir pcut s with hf
    obtain ⟨hwlk, hrd⟩ := replyCut_up (c := f) (heard p term s) rfl
    have hack : acksCut (heard p term s) f.epoch f.dir f.pos = acksCut s (epoch % 128) (dir % 2) pcut := acksCut_heard _ _ _ _ _ _
    refine ⟨_, he, cutAnnounce_only he, ?_, fun h => absurd hps h, fun _ ha => ?_, fun _ ha => ?_⟩
    · rw [hrd rfl rfl hrx, (decideCut_only _ _).rd_off rfl hrx, heard_rx term hp]
    · rw [hwlk, decideCut_acks (hack.trans ha)]
    · have hd := decideCut_refuses (c := f) (s := heard p term s) (by rw [hack, ha]; decide)
      refine ⟨?_, ?_, (decideCut f (heard p term s)).1, by rw [hwlk], (decideCut_fst _ _).1, by rw [hd]⟩
      · rw [hrd rfl rfl rfl, hd, wlkCause_rd _ rfl rfl, State.rd_sat_same _ rfl rfl, heard_rd s rfl rfl rfl rfl rfl]
      · rw [hrd rfl rfl rfl, hd]
        exact hasWlkCause_self _ (by decide)
  · have he := cutAnnounce_goesOn (epoch := epoch) (dir := dir) (pcut := pcut) hu ht hm hps
    refine ⟨_, he, cutAnnounce_only he, ?_, fun _ => rfl, fun h => absurd h hps, fun h => absurd h hps⟩
    rw [State.setWlk_rd, sendOn_rd _ _ _ rfl rfl hrx, heard_rx term hp]

end

/-! ### Replies -/

theorem cutReply_only {p : Nat} {ack : Bool} {minpos : Option Int} {s t : State} (he : exec (.cutReplyReceive p ack minpos) s = .next t) :
    Only cutParts s t :=
  outAll.get (execCutReplyReceive_law (Only.of_law rfl) (Has.covers rfl) (Frame.refl _ _)) he

theorem cutReply_up {p : Nat} {ack : Bool} {minpos : Option Int} {s : State} (hu : s.portUp p = true) :
    exec (.cutReplyReceive p ack minpos) s = .next (retireAll (joinReply p ack minpos (arrived p s))) := by
  rw [exec_cutReplyReceive]
  unfold execCutReplyReceive
  rw [fromPort_up hu]

theorem cutReply_down {p : Nat} {ack : Bool} {minpos : Option Int} {s : State} (hp : p < 4) (hu : ¬ s.portUp p = true) :
    exec (.cutReplyReceive p ack minpos) s = .next s := by
  rw [exec_cutReplyReceive, execCutReplyReceive, fromPort_down hp hu]

/-- A reply that no cut awaits is only counted, while nothing else is to retire. -/
theorem cutReply_counted {p : Nat} {ack : Bool} {minpos : Option Int} {s : State} (hu : s.portUp p = true)
    (hc : s.cuts = []) (hh : s.rpa.haltArea = []) (h : s.wlk.cut = none ∨ ∃ f, s.wlk.cut = some f ∧ f.wait.contains p = false) :
    exec (.cutReplyReceive p ack minpos) s = .next (arrived p s) := by
  have hcuts : (arrived p s).cuts = s.cuts := Frame.cuts (arrived_only p s) (by simp [Covers])
  have hrpa : (arrived p s).rpa = s.rpa := Frame.rpa (arrived_only p s) (by simp [Covers])
  rw [cutReply_up hu, joinReply_other (by rw [arrived_wlk]; exact h), retireAll_calm (hcuts.trans hc) (by rw [hrpa, hh])]

section
variable {p : Nat} {ack : Bool} {minpos : Option Int} {s : State} {f : FabCut}
  (hu : s.portUp p = true) (hf : s.wlk.cut = some f) (hw : f.wait.contains p = true)
include hu hf hw

/-- A reply that others are still to follow joins the cut. -/
theorem cutReply_joins (hr : f.wait.filter (· != p) ≠ []) : Does (.cutReplyReceive p ack minpos) cutParts (fun t =>
    t.rd Reg.WlkPort.RXPKT p = (s.rd Reg.WlkPort.RXPKT p + 1) % 2 ^ 32 ∧ t.wlk.cut = some (f.join p ack minpos)) s := by
  have hp := portUp_lt hu
  refine ⟨_, cutReply_up hu, cutReply_only (cutReply_up hu), ?_, ?_⟩
  all_goals rw [joinReply_awaited (by rw [arrived_wlk]; exact hf) hw, if_neg (by simpa using hr)]
  · rw [retireAll_rd _ rfl (Field.has_lt hp (by decide)), State.setWlk_rd, arrived_rx hp]
  · rw [retireAll_wlk, State.setWlk_wlk]

/-- The last reply makes a node below the master reply. -/
theorem cutReply_replies (hr : f.wait.filter (· != p) = []) (hm : f.master = false) : Does (.cutReplyReceive p ack minpos) cutParts (fun t =>
    t.rd Reg.WlkPort.RXPKT p = (s.rd Reg.WlkPort.RXPKT p + 1) % 2 ^ 32 ∧ ∃ q, t.wlk.cut = some q ∧ q.replied = true ∧ q.wait = [] ∧
      (q.ack = true ↔ f.ack = true ∧ ack = true ∧ acksCut s f.epoch f.dir f.pos = true)) s := by
  have hp := portUp_lt hu
  have hrx : Reg.WlkPort.RXPKT.has p 0 = true := Field.has_lt hp (by decide)
  have he := cutReply_up (ack := ack) (minpos := minpos) hu
  rw [joinReply_awaited (by rw [arrived_wlk]; exact hf) hw, if_pos (by simpa using hr)] at he
  obtain ⟨hwlk, hrd⟩ := replyCut_up (c := f.join p ack minpos) (arrived p s) hm
  obtain ⟨hrep, -, hwait, -, hack⟩ := decideCut_fst (f.join p ack minpos) (arrived p s)
  refine ⟨_, he, cutReply_only he, ?_, (decideCut (f.join p ack minpos) (arrived p s)).1, ?_, hrep, hwait.trans hr, ?_⟩
  · rw [retireAll_rd _ rfl hrx, hrd rfl rfl hrx, (decideCut_only _ _).rd_off rfl hrx, arrived_rx hp]
  · rw [retireAll_wlk, hwlk]
  · rw [hack, acksCut_arrived]
    simp [FabCut.join, and_assoc]

/-- The last reply makes the master commit when all have agreed. -/
theorem cutReply_commits (hr : f.wait.filter (· != p) = []) (hm : f.master = true) (ha : f.ack = true) (hk : ack = true)
    (hs : acksCut s f.epoch f.dir f.pos = true) : Does (.cutReplyReceive p ack minpos) cutParts (fun t => t.wlk.cut = none ∧
      (s.rd Reg.Wlk.CUTDOM 0 ≠ 0 → (s.rd Reg.Cut.EPOCH 0 + 1) % 128 = f.epoch → t.rd Reg.Cut.EPOCH 0 = f.epoch)) s := by
  have he := cutReply_up (ack := ack) (minpos := minpos) hu
  have hd : decideCut (f.join p ack minpos) (arrived p s) = ({ f.join p ack minpos with replied := true }, arrived p s) :=
    decideCut_acks ((acksCut_arrived _ _ _ _ _).trans hs)
  rw [joinReply_awaited (by rw [arrived_wlk]; exact hf) hw, if_pos (by simpa using hr),
    replyCut_master _ (show (f.join p ack minpos).master = true from hm), hd, concludeCut,
    if_pos (by simp [FabCut.join, ha, hk, hr])] at he
  obtain ⟨hnone, hopens⟩ := commitCut_done { f.join p ack minpos with replied := true } (arrived p s)
  refine ⟨_, he, cutReply_only he, ?_, fun hdom hep => ?_⟩
  · rw [retireAll_wlk, hnone]
  · rw [retireAll_rd _ rfl rfl]
    refine hopens ?_ ?_
    · rw [arrived_rd _ rfl rfl rfl]; exact hdom
    · rw [arrived_rd _ rfl rfl rfl]; exact hep

end

/-! ### Timeouts -/

theorem cutSubtreeTimeout_idle {p : Nat} {s : State} (hp : p < 4)
    (h : s.wlk.cut = none ∨ ∃ f, s.wlk.cut = some f ∧ f.wait.contains p = false) : exec (.cutSubtreeTimeout p) s = .next s := by
  rw [exec_cutSubtreeTimeout]
  unfold execCutSubtreeTimeout
  rw [within_lt hp]
  rcases h with h | ⟨f, h, hw⟩
  · rw [h]
  · rw [h]
    simp only [hw, Bool.false_eq_true, if_false]

/-- A silent node below counts as one that refuses. -/
theorem cutSubtreeTimeout_refuses {p : Nat} {s : State} {f : FabCut} (hp : p < 4) (hf : s.wlk.cut = some f) (hw : f.wait.contains p = true) :
    Does (.cutSubtreeTimeout p) cutParts (fun t => (t.rd Reg.Wlk.WCAUSE 0).testBit 2 = true ∧
      (f.wait.filter (· != p) ≠ [] →
        t.rd Reg.Wlk.CUTREFCNT 0 = min (s.rd Reg.Wlk.CUTREFCNT 0 + 1) (2 ^ Reg.Wlk.CUTREFCNT.width - 1) ∧
        t.wlk.cut = some { f with wait := f.wait.filter (· != p), ack := false, minpos := furtherOpt f.dir f.minpos none })) s := by
  set u := (s.sat Reg.Wlk.CUTREFCNT 0 1).wlkCause 2 with hu
  have hcut : u.wlk.cut = some f := by rw [hu, wlkCause_wlk, State.sat_wlk, hf]
  have he : exec (.cutSubtreeTimeout p) s = .next (retireAll (joinReply p false none u)) := by
    rw [exec_cutSubtreeTimeout]
    unfold execCutSubtreeTimeout
    rw [within_lt hp, hf]
    simp only [hw, if_true]
    rfl
  refine ⟨_, he, outAll.get (execCutSubtreeTimeout_law (Only.of_law rfl) (Has.covers rfl) (Frame.refl _ _)) he, ?_, fun hr => ?_⟩
  · exact hasWlkCause_retireAll (hasWlkCause_joinReply hcut hw (hasWlkCause_self _ (by decide)))
  · rw [retireAll_rd _ rfl rfl, retireAll_wlk, joinReply_awaited hcut hw, if_neg (by simpa using hr), State.setWlk_rd, State.setWlk_wlk, hu,
      wlkCause_rd _ rfl rfl, State.rd_sat_same _ rfl rfl]
    exact ⟨rfl, by simp [FabCut.join]⟩

theorem cutMasterTimeout_idle {s : State} (h : s.wlk.cut = none ∨ ∃ f, s.wlk.cut = some f ∧ f.master = false) :
    exec .cutMasterTimeout s = .next s := by
  rw [exec_cutMasterTimeout]
  unfold execCutMasterTimeout
  rcases h with h | ⟨f, h, hm⟩
  · rw [h]
  · rw [h]
    simp only [hm, Bool.false_eq_true, if_false]

/-- The master cancels at its timeout: it announces again, or ends the cut. -/
theorem cutMasterTimeout_cancels {s : State} {f : FabCut} (hf : s.wlk.cut = some f) (hm : f.master = true) :
    Does .cutMasterTimeout cutParts (fun t => (t.rd Reg.Wlk.WCAUSE 0).testBit 3 = true ∧
      (s.rd Reg.Wlk.CUTTRIES 0 ≤ f.tries → t.wlk.cut = none ∧
        t.rd Reg.Cut.CUTLATECNT 0 = min (s.rd Reg.Cut.CUTLATECNT 0 + 1) (2 ^ Reg.Cut.CUTLATECNT.width - 1) ∧ t.seq = (completeCut 0xB s).seq) ∧
      (f.tries < s.rd Reg.Wlk.CUTTRIES 0 → belowPorts s ≠ [] → ∃ q, t.wlk.cut = some q ∧ q.epoch = f.epoch ∧ q.dir = f.dir ∧ q.master = true ∧
        q.wait = belowPorts s ∧ q.tries = f.tries + 1 ∧ q.ack = true ∧ ∀ x, f.minpos = some x → q.pos = x)) s := by
  have hn : ¬ (({ f with ack := false } : FabCut).ack && ({ f with ack := false } : FabCut).wait.isEmpty) = true := by simp
  have he : exec .cutMasterTimeout s = .next (retireAll (concludeCut 16 { f with ack := false } s)) := by
    rw [exec_cutMasterTimeout]
    unfold execCutMasterTimeout
    rw [hf]
    simp only [hm, if_true]
  refine ⟨_, he, outAll.get (execCutMasterTimeout_law (Only.of_law rfl) (Has.covers rfl) (Frame.refl _ _)) he,
    hasWlkCause_retireAll (hasWlkCause_cancel s hn), fun ht => ?_, fun ht hb => ?_⟩
  · rw [retireAll_wlk, retireAll_seq, retireAll_rd _ rfl rfl, concludeCut_again hn, if_pos ht]
    refine ⟨?_, ?_, ?_⟩
    · rw [completeCut_wlk, State.sat_wlk, State.setWlk_wlk]
    · rw [(completeCut_only _ _).rd_off rfl rfl, State.rd_sat_same _ rfl rfl, State.setWlk_rd, (wlkCause_only _ _).rd_off rfl rfl,
        (sendOn_only _ _ _).rd_off rfl rfl]
    · refine completeCut_seq ?_
      rw [State.sat_seq, State.setWlk_seq, wlkCause_seq]
      exact Frame.seq (sendOn_only _ _ _) (by simp [Covers])
  · rw [retireAll_wlk, concludeCut_again hn, if_neg (show ¬ s.rd Reg.Wlk.CUTTRIES 0 ≤ f.tries by omega), if_pos (by simpa using hb), State.setWlk_wlk]
    refine ⟨_, rfl, rfl, rfl, hm, ?_, rfl, rfl, fun x hx => ?_⟩
    · refine belowPorts_congr (fun p hp => ?_) (by rw [wlkCause_wlk, sendOn_wlk])
      rw [wlkCause_rd _ rfl (Field.has_lt hp (by decide)), sendOn_rd _ _ _ rfl rfl (Field.has_lt hp (by decide))]
    · show f.minpos.getD _ = x
      rw [hx]
      rfl

/-! ### Commitment and cancellation -/

theorem cutCommit_only {p term epoch : Nat} {s t : State} (he : exec (.cutCommitReceive p term epoch) s = .next t) : Only cutParts s t :=
  outAll.get (execCutCommitReceive_law (Only.of_law rfl) (Has.covers rfl) (Frame.refl _ _)) he

theorem cutCancel_only {p term epoch : Nat} {s t : State} (he : exec (.cutCancelReceive p term epoch) s = .next t) : Only cutParts s t :=
  outAll.get (execCutCancelReceive_law (Only.of_law rfl) (Has.covers rfl) (Frame.refl _ _)) he

theorem cutEnd_down {p term epoch : Nat} {s : State} (hp : p < 4) (hu : ¬ s.portUp p = true)
    {c : Instr} (hc : c ∈ [Instr.cutCommitReceive p term epoch, .cutCancelReceive p term epoch]) :
    exec c s = .next s := by
  rcases List.mem_pair.mp hc with rfl | rfl
  · rw [exec_cutCommitReceive, execCutCommitReceive, fromMaster, fromPort_down hp hu]
  · rw [exec_cutCancelReceive, execCutCancelReceive, fromMaster, fromPort_down hp hu]

theorem cutEnd_counted {p term epoch : Nat} {s : State} (hu : s.portUp p = true)
    (h : term < s.wlk.seenTerm ∨ s.rd Reg.Wlk.MASTER 0 ≠ 0)
    {c : Instr} (hc : c ∈ [Instr.cutCommitReceive p term epoch, .cutCancelReceive p term epoch]) : exec c s = .next (arrived p s) := by
  rcases List.mem_pair.mp hc with rfl | rfl
  · rw [exec_cutCommitReceive, execCutCommitReceive, fromMaster_ignored hu h]
  · rw [exec_cutCancelReceive, execCutCancelReceive, fromMaster_ignored hu h]

/-- Without a cut of the epoch, the TERM is heard and nothing else happens. -/
theorem cutEnd_other {p term epoch : Nat} {s : State} (hu : s.portUp p = true) (ht : s.wlk.seenTerm ≤ term) (hm : ¬ s.rd Reg.Wlk.MASTER 0 ≠ 0)
    (hn : ∀ f, (heard p term s).wlk.cut = some f → f.epoch ≠ epoch % 128)
    {c : Instr} (hc : c ∈ [Instr.cutCommitReceive p term epoch, .cutCancelReceive p term epoch]) :
    exec c s = .next (heard p term s) := by
  rcases List.mem_pair.mp hc with rfl | rfl
  · rw [exec_cutCommitReceive]
    unfold execCutCommitReceive
    rw [fromMaster_taken hu ht hm]
    split
    · next f hf => exact if_pos (hn f hf)
    · rfl
  · rw [exec_cutCancelReceive]
    unfold execCutCancelReceive
    rw [fromMaster_taken hu ht hm]
    split
    · next f hf => exact if_pos (hn f hf)
    · rfl

/-- A packet of a later TERM drops the cut. -/
theorem cutEnd_newTerm {p term epoch : Nat} {s : State} (hu : s.portUp p = true) (ht : s.wlk.seenTerm < term) (hm : ¬ s.rd Reg.Wlk.MASTER 0 ≠ 0)
   
    {c : Instr} (hc : c ∈ [Instr.cutCommitReceive p term epoch, .cutCancelReceive p term epoch]) : Does c cutLinkParts (fun t =>
      t.rd Reg.WlkPort.RXPKT p = (s.rd Reg.WlkPort.RXPKT p + 1) % 2 ^ 32 ∧ t.wlk.cut = none ∧ t.wlk.seenTerm = term) s := by
  have hw : (heard p term s).wlk = { s.wlk with seenTerm := term, cut := none } := by
    unfold heard
    rw [hearTerm_new (by rw [arrived_wlk]; exact ht), arrived_wlk]
  refine ⟨_, cutEnd_other hu ht.le hm (fun f hf => ?_) hc, heard_only p term s, heard_rx term (portUp_lt hu) s, by rw [hw], by rw [hw]⟩
  rw [hw] at hf
  cases hf

/-- The master's TERM as it is: nothing is heard but the packet. -/
theorem heard_sameTerm (p : Nat) (s : State) : heard p s.wlk.seenTerm s = arrived p s := hearTerm_known (by rw [arrived_wlk])

theorem cutEnd_notMine {p epoch : Nat} {s : State} (hu : s.portUp p = true) (hm : ¬ s.rd Reg.Wlk.MASTER 0 ≠ 0)
    (hn : ∀ f, ¬ (s.wlk.cut = some f ∧ f.epoch = epoch % 128))
    {c : Instr} (hc : c ∈ [Instr.cutCommitReceive p s.wlk.seenTerm epoch, .cutCancelReceive p s.wlk.seenTerm epoch]) :
    exec c s = .next (arrived p s) := by
  rw [cutEnd_other hu le_rfl hm (fun f hf he => ?_) hc, heard_sameTerm]
  rw [heard_sameTerm, arrived_wlk] at hf
  exact hn f ⟨hf, he⟩

section
variable {p epoch : Nat} {s : State} {f : FabCut} (hu : s.portUp p = true) (hm : ¬ s.rd Reg.Wlk.MASTER 0 ≠ 0)
  (hf : s.wlk.cut = some f) (he : f.epoch = epoch % 128)
include hu hm hf he

/-- A commitment places the cut. -/
theorem cutCommit_places : Does (.cutCommitReceive p s.wlk.seenTerm epoch) cutParts (fun t =>
    t.rd Reg.WlkPort.RXPKT p = (s.rd Reg.WlkPort.RXPKT p + 1) % 2 ^ 32 ∧ t.wlk.cut = none ∧
      (s.rd Reg.Wlk.CUTDOM 0 ≠ 0 → (s.rd Reg.Cut.EPOCH 0 + 1) % 128 = f.epoch → t.rd Reg.Cut.EPOCH 0 = f.epoch)) s := by
  have hp := portUp_lt hu
  have hrx : Reg.WlkPort.RXPKT.has p 0 = true := Field.has_lt hp (by decide)
  have hx : exec (.cutCommitReceive p s.wlk.seenTerm epoch) s = .next (retireAll (placeFabric f (sendOn ((belowPorts (arrived p s)).filter (· != p))
      (.commit s.wlk.seenTerm f.epoch) ((arrived p s).setWlk { (arrived p s).wlk with cut := none })))) := by
    rw [exec_cutCommitReceive]
    unfold execCutCommitReceive
    rw [fromMaster_taken hu le_rfl hm, heard_sameTerm]
    rw [show (arrived p s).wlk.cut = some f by rw [arrived_wlk, hf]]
    exact if_neg (by simp [he])
  refine ⟨_, hx, cutCommit_only hx, ?_, ?_, fun hd hep => ?_⟩
  · rw [retireAll_rd _ rfl hrx, (placeFabric_only _ _).rd_off rfl hrx, sendOn_rd _ _ _ rfl rfl hrx, State.setWlk_rd, arrived_rx hp]
  · rw [retireAll_wlk, placeFabric_wlk, sendOn_wlk, State.setWlk_wlk]
  · rw [retireAll_rd _ rfl rfl]
    refine placeFabric_epoch ?_ ?_
    · rw [sendOn_rd _ _ _ rfl rfl rfl, State.setWlk_rd, arrived_rd _ rfl rfl rfl]; exact hd
    · rw [sendOn_rd _ _ _ rfl rfl rfl, State.setWlk_rd, arrived_rd _ rfl rfl rfl]; exact hep

/-- A cancellation drops it. -/
theorem cutCancel_drops : Does (.cutCancelReceive p s.wlk.seenTerm epoch) cutParts (fun t =>
    t.rd Reg.WlkPort.RXPKT p = (s.rd Reg.WlkPort.RXPKT p + 1) % 2 ^ 32 ∧ t.wlk.cut = none ∧
      (t.rd Reg.Wlk.WCAUSE 0).testBit 3 = true ∧ t.rd Reg.Cut.EPOCH 0 = s.rd Reg.Cut.EPOCH 0) s := by
  have hp := portUp_lt hu
  have hrx : Reg.WlkPort.RXPKT.has p 0 = true := Field.has_lt hp (by decide)
  have hx : exec (.cutCancelReceive p s.wlk.seenTerm epoch) s = .next ((sendOn ((belowPorts (arrived p s)).filter (· != p))
      (.cancel s.wlk.seenTerm f.epoch) ((arrived p s).setWlk { (arrived p s).wlk with cut := none })).wlkCause 3) := by
    rw [exec_cutCancelReceive]
    unfold execCutCancelReceive
    rw [fromMaster_taken hu le_rfl hm, heard_sameTerm]
    rw [show (arrived p s).wlk.cut = some f by rw [arrived_wlk, hf]]
    exact if_neg (by simp [he])
  refine ⟨_, hx, cutCancel_only hx, ?_, ?_, hasWlkCause_self _ (by decide), ?_⟩
  · rw [wlkCause_rd _ rfl hrx, sendOn_rd _ _ _ rfl rfl hrx, State.setWlk_rd, arrived_rx hp]
  · rw [wlkCause_wlk, sendOn_wlk, State.setWlk_wlk]
  · rw [wlkCause_rd _ rfl rfl, sendOn_rd _ _ _ rfl rfl rfl, State.setWlk_rd, arrived_rd _ rfl rfl rfl]

end

/-! ### A cut of which nothing more is heard -/

/-- The cut that a node has agreed to and that is not its own. -/
def State.agreedTo (s : State) (f : FabCut) : Prop := s.wlk.cut = some f ∧ f.replied = true ∧ f.ack = true ∧ f.master = false

theorem cutOrphanTimeout_idle {s : State} (h : ∀ f, ¬ s.agreedTo f) : exec .cutOrphanTimeout s = .next s := by
  rw [exec_cutOrphanTimeout]
  unfold execCutOrphanTimeout
  split
  · next f hf =>
    refine if_neg fun hc => h f ?_
    simp only [Bool.and_eq_true, Bool.not_eq_true'] at hc
    exact ⟨hf, hc.1.1, hc.1.2, hc.2⟩
  · rfl

theorem cutOrphanTimeout_drops {s : State} {f : FabCut} (h : s.agreedTo f) :
    Does .cutOrphanTimeout [.grp 17, .tokens, .wlk] (fun t => t.wlk.cut = none ∧
      t.rd Reg.Wlk.CUTORPHCNT 0 = min (s.rd Reg.Wlk.CUTORPHCNT 0 + 1) (2 ^ Reg.Wlk.CUTORPHCNT.width - 1) ∧
      (t.rd Reg.Wlk.WCAUSE 0).testBit 1 = true) s := by
  obtain ⟨hf, hr, ha, hm⟩ := h
  have he : exec .cutOrphanTimeout s = .next (orphanCut s) := by
    rw [exec_cutOrphanTimeout]
    unfold execCutOrphanTimeout
    rw [hf]
    simp only [hr, ha, hm, Bool.not_false, Bool.and_self, if_true]
  have ho : orphanCut s = ((s.setWlk { s.wlk with cut := none }).sat Reg.Wlk.CUTORPHCNT 0 1).wlkCause 1 := by
    unfold orphanCut
    rw [hf]
    simp only [hr, ha, hm, Bool.not_true, Bool.or_self, Bool.false_eq_true, if_false]
  refine ⟨_, he, outAll.get (execCutOrphanTimeout_law (Only.of_law rfl) (Has.covers rfl) (Frame.refl _ _)) he, by rw [orphanCut_wlk], ?_, ?_⟩
  · rw [ho, wlkCause_rd _ rfl rfl, State.rd_sat_same _ rfl rfl, State.setWlk_rd]
  · rw [ho]
    exact hasWlkCause_self _ (by decide)

/-! ### The statement -/

/-- A command that only counts its packet. -/
theorem Does.counted {p : Nat} {s : State} {c : Instr} (hu : s.portUp p = true) (h : exec c s = .next (arrived p s)) :
    Does c [.one .wlkPort p, .grp 64] (fun t => t.rd Reg.WlkPort.RXPKT p = (s.rd Reg.WlkPort.RXPKT p + 1) % 2 ^ 32) s :=
  ⟨_, h, arrived_only p s, arrived_rx (portUp_lt hu) s⟩

/-- Settles O38: each command of a cut by the state of the cut that it meets. -/
theorem fabricCuts : Obligations.FabricCuts := by
  intro p s hp
  refine ⟨epochWaitResume_idle, fun x => ⟨epochWaitResume_full, epochWaitResume_holds, epochWaitResume_places⟩, ?announce, ?reply,
    cutSubtreeTimeout_idle hp, fun f => cutSubtreeTimeout_refuses hp, cutMasterTimeout_idle, fun f => cutMasterTimeout_cancels, ?ends,
    cutOrphanTimeout_idle, fun f => cutOrphanTimeout_drops⟩
  case announce =>
    intro term epoch dir pcut
    exact ⟨cutAnnounce_down hp, fun hu h => Does.counted hu (cutAnnounce_counted hu h), fun hu ht hm => cutAnnounce_does hu ht hm⟩
  case reply =>
    intro ack minpos
    refine ⟨cutReply_down hp, fun hu hc h => Does.counted hu (cutReply_counted hu hc.1 hc.2 h), fun f hu hf hw => ?_⟩
    exact ⟨cutReply_joins hu hf hw, cutReply_replies hu hf hw, fun hr hm ha => cutReply_commits hu hf hw hr hm ha.1 ha.2.1 ha.2.2⟩
  case ends =>
    intro term epoch c hc
    refine ⟨fun hu => cutEnd_down hp hu hc, fun hu h => Does.counted hu (cutEnd_counted hu h hc), fun hu ht hm => cutEnd_newTerm hu ht hm hc,
      fun hu ht hm hn => ?_, fun f hu ht hm hf => ?_⟩
    · subst ht
      exact Does.counted hu (cutEnd_notMine hu hm hn hc)
    · subst ht
      obtain ⟨hf, he⟩ := hf
      rcases List.mem_pair.mp hc with rfl | rfl
      · obtain ⟨t, hx, ho, hrx, hcut, hopens⟩ := cutCommit_places hu hm hf he
        refine ⟨t, hx, ho, hrx, hcut, fun _ => hopens, fun h => ?_⟩
        cases h
      · obtain ⟨t, hx, ho, hrx, hcut, hcause, hep⟩ := cutCancel_drops hu hm hf he
        refine ⟨t, hx, ho, hrx, hcut, fun h => ?_, fun _ => ⟨hcause, hep⟩⟩
        cases h

end Sys2Proof.Machine
end

section
/-!
SUPPORT. What the Sump's destinations write: ring entries of the ledger, entries of a stream, completion entries (R55, R56, R403, R404, R438,
R442, R486).
-/
namespace Sys2Proof.Machine

theorem put_only (s : State) (a : Nat) (bs : List Byte) : Only [.grp 64, .mem, .poison] s (s.put a bs) :=
  put_law (Only.of_law rfl) (Has.covers rfl) (Frame.refl _ _)

/-- A field steps by one and wraps. -/
def Steps (f : Field) (i : Nat) (s t : State) : Prop := t.rd f i = (s.rd f i + 1) % 2 ^ f.width

/-- A field counts one more and stops at its highest value. -/
def Counts (f : Field) (i : Nat) (s t : State) : Prop := t.rd f i = min (s.rd f i + 1) (2 ^ f.width - 1)

/-! ### The ledger's ring -/

theorem writeOwn_steps (ws : List Word) (s : State) :
    Steps Reg.Ledger.LWP 0 s (writeOwn ws s) ∧ Steps Reg.Ledger.DSEQNEXT 0 s (writeOwn ws s) := by
  have hp := put_only s (ringAddr s (s.rd Reg.Ledger.LWP 0)) (wordsBytes (nextId s :: ws.drop 1))
  unfold Steps writeOwn ringWrite
  constructor
  · rw [State.rd_wr_apart _ rfl _ rfl, State.rd_wr_same _ rfl _ rfl]
  · rw [State.rd_wr_same _ rfl _ rfl]

theorem writeOwn_dlg (ws : List Word) (s : State) : (writeOwn ws s).dlg = s.dlg := by
  unfold writeOwn ringWrite
  rw [State.wr_dlg, State.wr_dlg]
  exact Frame.dlg (put_only _ _ _) (by simp [Covers])

theorem holdLive_rd (src skind : Nat) (s : State) (f : Field) (i : Nat) : (holdLive src skind s).rd f i = s.rd f i := by
  unfold holdLive
  split <;> rfl

theorem holdLive_spanKeys (src skind : Nat) (s : State) (k : Nat) : spanKeys (holdLive src skind s) k = spanKeys s k := by
  unfold holdLive
  split <;> rfl

section
variable (src skind dflags lseq : Nat) (y0 y1 : Int) (rows spans : Nat) (s : State)

/-- A coverage record takes the next entry of the ring and the next number. -/
theorem writeCoverage_steps : Steps Reg.Ledger.LWP 0 s (writeCoverage src skind dflags lseq y0 y1 rows spans s) ∧
    Steps Reg.Ledger.DSEQNEXT 0 s (writeCoverage src skind dflags lseq y0 y1 rows spans s) := by
  obtain ⟨h1, h2⟩ := writeOwn_steps (coverageRecord s src skind dflags lseq y0 y1 rows spans) s
  unfold Steps writeCoverage at *
  rw [holdLive_rd, holdLive_rd, (evt_only _ _ _ _ _).rd_off rfl rfl, (evt_only _ _ _ _ _).rd_off rfl rfl]
  exact ⟨h1, h2⟩

theorem writeCoverage_spanKeys (k : Nat) : spanKeys (writeCoverage src skind dflags lseq y0 y1 rows spans s) k = spanKeys s k := by
  unfold writeCoverage
  rw [holdLive_spanKeys]
  unfold spanKeys
  rw [Frame.dlg (evt_only _ _ _ _ _) (by simp [Covers]), writeOwn_dlg]

end

/-! ### Totalisers -/

theorem State.rd_wr2_ne (s : State) {f g : Field} {i j m n : Nat} (v : Nat) (h : f.word i j ≠ g.word m n) :
    (s.wr2 f i j v).rd2 g m n = s.rd2 g m n := by
  unfold State.rd2
  rw [State.word_wr2_ne s fun _ => h]

/-- The words of a totaliser are four, one after the other. -/
theorem total_words (q : Nat) : Reg.Ledger.TROWS.word 0 q = 0x20098000 + 32 * q ∧ Reg.Ledger.TSPANS.word 0 q = 0x20098008 + 32 * q ∧
    Reg.Ledger.TYMIN.word 0 q = 0x20098010 + 32 * q ∧ Reg.Ledger.TYMAX.word 0 q = 0x20098018 + 32 * q := ⟨rfl, rfl, rfl, rfl⟩

theorem clearTotal_clears {q : Nat} (hq : q < 256) (s : State) :
    (clearTotal q s).rd2 Reg.Ledger.TSPANS 0 q = 0 ∧ (clearTotal q s).rd2 Reg.Ledger.TROWS 0 q = 0 := by
  obtain ⟨h1, h2, h3, h4⟩ := total_words q
  have hs : Reg.Ledger.TSPANS.has 0 q = true := by simp [Field.has, Reg.Ledger.TSPANS, hq]
  have hr : Reg.Ledger.TROWS.has 0 q = true := by simp [Field.has, Reg.Ledger.TROWS, hq]
  unfold clearTotal
  constructor
  · rw [State.rd_wr2_ne _ _ (by omega), State.rd_wr2_ne _ _ (by omega), State.rd2_wr2_same _ rfl _ hs]
    rfl
  · rw [State.rd_wr2_ne _ _ (by omega), State.rd_wr2_ne _ _ (by omega), State.rd_wr2_ne _ _ (by omega), State.rd2_wr2_same _ rfl _ hr]
    rfl

/-- Clearing a totaliser leaves what lies below the totalisers, or above them. -/
theorem clearTotal_rd {f : Field} {i : Nat} (q : Nat) (s : State) (h1 : Reg.Ledger.TROWS.apart f = true) (h2 : Reg.Ledger.TSPANS.apart f = true)
    (h3 : Reg.Ledger.TYMIN.apart f = true) (h4 : Reg.Ledger.TYMAX.apart f = true) (hi : f.has i 0 = true) :
    (clearTotal q s).rd f i = s.rd f i := by
  unfold clearTotal State.rd
  rw [State.rd2_wr2_apart _ h4 _ hi, State.rd2_wr2_apart _ h3 _ hi, State.rd2_wr2_apart _ h2 _ hi, State.rd2_wr2_apart _ h1 _ hi]

theorem clearTotal_only (q : Nat) (s : State) : Only [.grp 9] s (clearTotal q s) :=
  clearTotal_law (Only.of_law rfl) (Has.covers rfl) (Frame.refl _ _)

/-! ### Entries of a stream -/

/-- The parts that an entry changes on its way into a ring or to another node. -/
def entryParts : List Part := [.all .wlkPort, .grp 17, .grp 64, .mem, .poison, .sent, .tokens]

theorem sendTo_only (s : State) (n : Nat) (x : WlkPkt) (k : Nat) : Only entryParts s (s.sendTo n x k) :=
  sendTo_law (Only.of_law rfl) (Has.covers rfl) (Frame.refl _ _)

section
variable {k : Nat} (head : List Word) (planes : List Byte) (s : State)

theorem putEntry_only : Only (.one .stream k :: entryParts) s (putEntry k head planes s) :=
  putEntry_law (Only.of_law rfl) (Has.covers rfl) (Covers.one (by simp)) (Frame.refl _ _)

/-- An entry is the next of its stream. -/
theorem putEntry_steps (hk : k < 8) : Steps Reg.Stream.ORWP k s (putEntry k head planes s) := by
  have hi : Reg.Stream.ORWP.has k 0 = true := Field.has_lt hk (by decide)
  unfold Steps putEntry
  dsimp only
  rw [(evt_only _ _ _ _ _).rd_off rfl hi, State.rd_wr_same _ rfl _ hi]

/-- Of the streams' fields, an entry moves ORWP of its own stream. -/
theorem putEntry_rd {f : Field} {i : Nat} (h : Reg.Stream.ORWP.apart f = true ∨ (f = Reg.Stream.ORWP ∧ k ≠ i)) (hf : f.off entryParts = true)
    (hg : f.off [.grp 64] = true) (hi : f.has i 0 = true) : (putEntry k head planes s).rd f i = s.rd f i := by
  have hsent : ∀ {c : Prop} [Decidable c] {n p : Nat} {x : WlkPkt} {a : Nat} {bs : List Byte},
      (if c then s.sendTo n x p else s.put a bs).rd f i = s.rd f i := by
    intro c _ n p x a bs
    split
    · exact (sendTo_only _ _ _ _).rd_off hf hi
    · exact ((put_only s a bs).mono (m := entryParts) rfl).rd_off hf hi
  unfold putEntry
  dsimp only
  rw [(evt_only _ _ _ _ _).rd_off hg hi]
  rcases h with h | ⟨rfl, h⟩
  · rw [State.rd_wr_apart _ h _ hi]
    exact hsent
  · rw [State.rd_wr_other _ (k := .stream) rfl rfl _ hi h]
    exact hsent

end

section
variable {k : Nat} (y0 y1 : Int) (rows : Nat) (total : Option Nat) (s : State)

theorem putTrailer_steps (hk : k < 8) : Steps Reg.Stream.ORWP k s (putTrailer k y0 y1 rows total s) := putEntry_steps _ _ _ hk

theorem putTrailer_other {i : Nat} (hi : i < 8) (h : k ≠ i) :
    (putTrailer k y0 y1 rows total s).rd Reg.Stream.ORWP i = s.rd Reg.Stream.ORWP i :=
  putEntry_rd _ _ _ (.inr ⟨rfl, h⟩) rfl rfl (Field.has_lt hi (by decide))

end

/-- A trailer for each of several streams moves each stream's ORWP once. -/
theorem putTrailers_steps {y0 y1 : Int} {rows : Nat} {total : Option Nat} {ks : List Nat} {s : State} (hn : ks.Nodup) (hk : ∀ k ∈ ks, k < 8)
    {j : Nat} (hj : j < 8) : (ks.foldl (fun t k => putTrailer k y0 y1 rows total t) s).rd Reg.Stream.ORWP j =
      if j ∈ ks then (s.rd Reg.Stream.ORWP j + 1) % 2 ^ Reg.Stream.ORWP.width else s.rd Reg.Stream.ORWP j := by
  induction ks generalizing s with
  | nil => rfl
  | cons k ks ih =>
    obtain ⟨hnk, hn⟩ := List.nodup_cons.mp hn
    rw [List.foldl_cons, ih hn fun x hx => hk x (by simp [hx])]
    by_cases hjk : k = j
    · subst hjk
      rw [if_neg hnk, if_pos (by simp)]
      exact putTrailer_steps _ _ _ _ _ hj
    · rw [putTrailer_other _ _ _ _ _ hj hjk]
      simp [Ne.symm hjk]

/-! ### Flushes -/

theorem formOut_rd {f : Field} {i : Nat} (k : Nat) (s : State) (h : Reg.Stream.SATCNT.apart f = true) (hg : f.off [.grp 64] = true)
    (hi : f.has i 0 = true) : (formOut k s).rd f i = s.rd f i := by
  unfold formOut
  dsimp only
  rw [(evt_only _ _ _ _ _).rd_off hg hi]
  exact State.rd_wr_apart _ h _ hi

/-- A flush forms output rows, which count saturated samples and nothing else. -/
theorem runFlush_rd {f : Field} {i : Nat} (k n : Nat) (s : State) (h : Reg.Stream.SATCNT.apart f = true) (hg : f.off [.grp 64] = true)
    (hi : f.has i 0 = true) : (runFlush k n s).rd f i = s.rd f i := by
  induction n generalizing s with
  | zero => rfl
  | succ n ih =>
    unfold runFlush
    dsimp only
    split
    · rfl
    split
    · split
      · rfl
      · rw [ih, formOut_rd k s h hg hi]
    · rfl

/-! ### Completion entries -/

theorem putCompletion_hif (ws : List Word) (s : State) : (putCompletion ws s).hif = { s.hif with written := s.hif.written + 1 } := rfl

end Sys2Proof.Machine
end

section
/-!
PROOF. The Sump and overview delivery: notes, spans, totalisers, output rows, the end of a stream and bulk packets (R23, R48 to R56,
R404, R438 to R442).
-/
namespace Sys2Proof.Machine

/-- The parts that a delivery of the Sump changes beside the Sump. -/
def deliveryParts : List Part :=
  [.all .stream, .all .wlkPort, .grp 9, .grp 17, .grp 64, .grp 65, .dlg, .hif, .mem, .poison, .sent, .tokens]

/-! ### Notes -/

/-- A note leaves an entry of its source and kind that ends with it. -/
theorem merge_entry (s : State) (src skind lseq : Nat) (pos : Int) (n : Nat) :
    ∃ j, ((s.merge src skind lseq pos n).span j).src = src ∧ ((s.merge src skind lseq pos n).span j).skind = skind ∧
      ((s.merge src skind lseq pos n).span j).yLast = pos := by
  unfold State.merge
  split
  · next k hk =>
    obtain ⟨e, he, rfl⟩ : ∃ e, s.sump.spans.find? (fun e => Span.takes s (s.span e.1) src skind lseq pos n) = some e ∧ e.1 = k := by
      simpa [mergeSlot] using hk
    have ht := List.find?_some he
    simp only [Span.takes, Bool.and_eq_true, beq_iff_eq] at ht
    obtain ⟨⟨⟨⟨_, hsrc⟩, hkind⟩, _⟩, _⟩ := ht
    refine ⟨e.1, ?_⟩
    dsimp only
    rw [State.setSpan_span_same]
    exact ⟨hsrc, hkind, rfl⟩
  · dsimp only
    split
    · next k _ => exact ⟨k, by rw [State.setSpan_span_same]; exact ⟨rfl, rfl, rfl⟩⟩
    · exact ⟨oldestSlot s, by rw [State.setSpan_span_same]; exact ⟨rfl, rfl, rfl⟩⟩

theorem totalise_only (s : State) (e : Span) : Only [.grp 9] s (totalise s e) :=
  totalise_law (Only.of_law rfl) (Has.covers rfl) (Frame.refl _ _)

theorem totalise_sump (s : State) (e : Span) : (totalise s e).sump = s.sump := Frame.sump (totalise_only s e) (by simp [Covers])

theorem merge_last (s : State) (src skind lseq : Nat) (pos : Int) (n : Nat) : (s.merge src skind lseq pos n).sump.last = s.sump.last := by
  unfold State.merge
  split
  · rfl
  · dsimp only
    split
    · rfl
    · show (totalise _ _).sump.last = _
      rw [totalise_sump]

section
variable {w0 w1 w2 w3 : Word} {c : Nat} {s : State}

/-- A packet of a reserved KIND counts as malformed at DLG's unit. -/
theorem sumpNote_discards (h : kindReserved (SumpNote.ofWords w0 w1 w2 w3).tag.kind = true) :
    Does (.sumpNoteReceive w0 w1 w2 w3 c) [.malformed]
      (fun t => Tbl.get (fun _ => 0) t.malformed 9 = Tbl.get (fun _ => 0) s.malformed 9 + 1) s := by
  have he : exec (.sumpNoteReceive w0 w1 w2 w3 c) s = .next (s.discard 9) := by
    rw [exec_sumpNoteReceive]
    exact if_pos h
  refine ⟨_, he, ?_, ?_⟩
  rotate_left
  · unfold State.discard
    dsimp only
    rw [Tbl.get_set_same]
  exact (Only.of_law (l := [.malformed]) rfl).malformed (by simp [Covers]) (Frame.refl _ _)

variable (hr : kindReserved (SumpNote.ofWords w0 w1 w2 w3).tag.kind = false) (hs : noteSource (SumpNote.ofWords w0 w1 w2 w3).src = true)
include hr hs

theorem sumpNote_ignored (h : c = 0 ∨ (SumpNote.ofWords w0 w1 w2 w3).tag.kind ≠ 15) : exec (.sumpNoteReceive w0 w1 w2 w3 c) s = .next s := by
  rw [exec_sumpNoteReceive, execSumpNoteReceive]
  simp only [hr, hs, Bool.not_true, Bool.false_eq_true, if_false]
  exact if_pos h

theorem sumpNote_taken (hc : c ≠ 0) (hk : (SumpNote.ofWords w0 w1 w2 w3).tag.kind = 15) :
    Does (.sumpNoteReceive w0 w1 w2 w3 c) [.grp 9, .sump] (fun t => t.sump.last = SumpNote.ofWords w0 w1 w2 w3 ∧
      ∃ j, (t.span j).src = (SumpNote.ofWords w0 w1 w2 w3).src ∧ (t.span j).skind = (SumpNote.ofWords w0 w1 w2 w3).skind ∧
        (t.span j).yLast = (SumpNote.ofWords w0 w1 w2 w3).tag.pos) s := by
  have he : exec (.sumpNoteReceive w0 w1 w2 w3 c) s = .next (s.takeNote (SumpNote.ofWords w0 w1 w2 w3) c) := by
    rw [exec_sumpNoteReceive, execSumpNoteReceive]
    simp only [hr, hs, Bool.not_true, Bool.false_eq_true, if_false]
    exact if_neg fun h => h.elim hc fun h => h hk
  exact ⟨_, he, takeNote_law (Only.of_law rfl) (Has.covers rfl) (Frame.refl _ _), merge_last _ _ _ _ _ _, merge_entry _ _ _ _ _ _⟩

end

/-! ### Spans -/

theorem sumpSpanClose_open {n : Nat} {s : State} (hn : n < 4096) (h : (s.span n).valid = false) : exec (.sumpSpanClose n) s = .next s := by
  rw [exec_sumpSpanClose, execSumpSpanClose, within_lt hn]
  simp only [h, Bool.false_eq_true, if_false]

theorem sumpSpanClose_closes {n : Nat} {s : State} (hn : n < 4096) (h : (s.span n).valid = true) :
    Does (.sumpSpanClose n) [.sump] (fun t => t.span n = { s.span n with closed := true }) s := by
  have he : exec (.sumpSpanClose n) s = .next (s.setSpan n { s.span n with closed := true }) := by
    rw [exec_sumpSpanClose, execSumpSpanClose, within_lt hn]
    exact if_pos h
  exact ⟨_, he, outAll.get (execSumpSpanClose_law (Only.of_law rfl) (Has.covers rfl) (Frame.refl _ _)) he, State.setSpan_span_same _ _ _⟩

theorem sumpSpanDeliver_waits {n : Nat} {s : State} (hn : n < 4096) (h : (s.span n).valid = false ∨ (s.span n).closed = false ∨
    (¬ ledgerKind (s.span n).skind = true ∧ (s.span n).skind ≠ 0x20 ∧ (s.span n).skind ≠ 0x30)) : exec (.sumpSpanDeliver n) s = .next s := by
  rw [exec_sumpSpanDeliver, execSumpSpanDeliver, within_lt hn]
  rcases h with h | h | ⟨h1, h2, h3⟩
  · simp only [h, Bool.not_false, Bool.true_or, if_true]
  · simp only [h, Bool.not_false, Bool.or_true, if_true]
  · simp only [h1, h2, h3, Bool.false_eq_true, if_false, ite_self]

theorem sumpSpanDeliver_only {n : Nat} {s t : State} (he : exec (.sumpSpanDeliver n) s = .next t) : Only (.sump :: deliveryParts) s t :=
  outAll.get (execSumpSpanDeliver_law (Only.of_law rfl) (Has.covers rfl) (Frame.refl _ _)) he

/-- The key by which the ledger knows a span again. -/
def Span.key (e : Span) : List Int := [e.skind, e.lseqFirst, e.yFirst]

/-- The keys of the spans that the ledger knows, with that of entry n. -/
def spanKeysWith (n : Nat) (s : State) : Tbl (List (List Int)) :=
  Tbl.set (fun _ => []) s.dlg.spanKeys (s.span n).src (keyWindow (s.span n).key (spanKeys s (s.span n).src))

section
variable {n : Nat} {s : State}

theorem dlgTakesSpan_repeat (h : (spanKeys s (s.span n).src).contains (s.span n).key = true) :
    dlgTakesSpan n s = dropSpan n ((s.sat Reg.Ledger.DUPCNT 0 1).evt 9 0 0x07) := if_pos h

/-- The ledger knows the span of entry n from now on. -/
def knowSpan (n : Nat) (s : State) : State := { s with dlg := { s.dlg with spanKeys := spanKeysWith n s } }

theorem dlgTakesSpan_new (h : (spanKeys s (s.span n).src).contains (s.span n).key = false) :
    dlgTakesSpan n s = if !ringTakes s true then s else dropSpan n (writeCoverage (s.span n).src (s.span n).skind 0
      (s.span n).lseqFirst (s.span n).yFirst (s.span n).yLast (s.span n).rows 1 (knowSpan n s)) :=
  if_neg (by rw [show (spanKeys s (s.span n).src).contains [((s.span n).skind : Int), ((s.span n).lseqFirst : Int), (s.span n).yFirst] = false from h]
             decide)

theorem knowSpan_first : (spanKeys (knowSpan n s) (s.span n).src).head? = some (s.span n).key := by
  unfold spanKeys knowSpan spanKeysWith
  dsimp only
  rw [Tbl.get_set_same]
  rfl

theorem dropSpan_rd (f : Field) (i : Nat) : (dropSpan n s).rd f i = s.rd f i := State.setSpan_rd _ _ _ _ _

theorem ovsTakesSpan_room (h : entryRoom s ((s.span n).src - 0x30) = true) : ovsTakesSpan n s =
    dropSpan n (putTrailer ((s.span n).src - 0x30) (s.span n).yFirst (s.span n).yLast (s.span n).rows none s) := if_neg (by rw [h]; decide)

theorem hifTakesSpan_room (h : hifTakes s = true) : hifTakesSpan n s =
    dropSpan n (putCompletion (dmaStallEntry 2 (s.span n).src (s.span n).rows 0 s) s) := if_pos h

theorem dropSpan_hif : (dropSpan n s).hif = s.hif := rfl

theorem dropSpan_dlg : (dropSpan n s).dlg = s.dlg := rfl

end

/-- What a delivered span leaves: its entry is empty. -/
theorem Does.delivers {n : Nat} {s u : State} {P : State → Prop} (he : exec (.sumpSpanDeliver n) s = .next (dropSpan n u))
    (hP : P (dropSpan n u)) : Does (.sumpSpanDeliver n) (.sump :: deliveryParts) (fun t => t.span n = {} ∧ P t) s :=
  ⟨_, he, sumpSpanDeliver_only he, State.setSpan_span_same _ _ _, hP⟩

section
variable {n : Nat} {s : State} (hn : n < 4096) (hv : (s.span n).valid = true) (hc : (s.span n).closed = true)
include hn hv hc

theorem sumpSpanDeliver_ledger (hk : ledgerKind (s.span n).skind = true) : exec (.sumpSpanDeliver n) s = .next (dlgTakesSpan n s) := by
  rw [exec_sumpSpanDeliver, execSumpSpanDeliver, within_lt hn]
  simp only [hv, hc, hk, Bool.not_true, Bool.or_self, Bool.false_eq_true, if_false, if_true]

theorem sumpSpanDeliver_stream (hk : (s.span n).skind = 0x20) : exec (.sumpSpanDeliver n) s = .next (ovsTakesSpan n s) := by
  rw [exec_sumpSpanDeliver, execSumpSpanDeliver, within_lt hn]
  simp only [hv, hc, hk, Bool.not_true, Bool.or_self, Bool.false_eq_true, if_false, if_true]
  rfl

theorem sumpSpanDeliver_host (hk : (s.span n).skind = 0x30) : exec (.sumpSpanDeliver n) s = .next (hifTakesSpan n s) := by
  rw [exec_sumpSpanDeliver, execSumpSpanDeliver, within_lt hn]
  simp only [hv, hc, hk, Bool.not_true, Bool.or_self, Bool.false_eq_true, if_false]
  rfl

/-- A span that the ledger knows is a repeat. -/
theorem sumpSpanDeliver_repeat (hk : ledgerKind (s.span n).skind = true)
    (hd : (spanKeys s (s.span n).src).contains (s.span n).key = true) :
    Does (.sumpSpanDeliver n) (.sump :: deliveryParts) (fun t => t.span n = {} ∧ Counts Reg.Ledger.DUPCNT 0 s t) s := by
  have he := sumpSpanDeliver_ledger hn hv hc hk
  rw [dlgTakesSpan_repeat hd] at he
  refine .delivers he ?_
  unfold Counts dropSpan
  rw [State.setSpan_rd, (evt_only _ _ _ _ _).rd_off rfl rfl, State.rd_sat_same _ rfl rfl]

theorem sumpSpanDeliver_noRoom (hk : ledgerKind (s.span n).skind = true)
    (hd : (spanKeys s (s.span n).src).contains (s.span n).key = false) (hr : ringTakes s true = false) : exec (.sumpSpanDeliver n) s = .next s := by
  rw [sumpSpanDeliver_ledger hn hv hc hk, dlgTakesSpan_new hd, if_pos (by rw [hr]; rfl)]

/-- A new span becomes a coverage record, and is known from then on. -/
theorem sumpSpanDeliver_records (hk : ledgerKind (s.span n).skind = true)
    (hd : (spanKeys s (s.span n).src).contains (s.span n).key = false) (hr : ringTakes s true = true) :
    Does (.sumpSpanDeliver n) (.sump :: deliveryParts) (fun t => t.span n = {} ∧ Steps Reg.Ledger.LWP 0 s t ∧ Steps Reg.Ledger.DSEQNEXT 0 s t ∧
      (spanKeys t (s.span n).src).head? = some (s.span n).key) s := by
  have he := sumpSpanDeliver_ledger hn hv hc hk
  rw [dlgTakesSpan_new hd, if_neg (by rw [hr]; decide)] at he
  obtain ⟨h1, h2⟩ := writeCoverage_steps (s.span n).src (s.span n).skind 0 (s.span n).lseqFirst (s.span n).yFirst (s.span n).yLast
    (s.span n).rows 1 (knowSpan n s)
  refine .delivers he ⟨?_, ?_, ?_⟩
  · unfold Steps at *
    rw [dropSpan_rd]
    exact h1
  · unfold Steps at *
    rw [dropSpan_rd]
    exact h2
  · unfold spanKeys
    rw [dropSpan_dlg]
    exact (congrArg List.head? (writeCoverage_spanKeys _ _ _ _ _ _ _ _ _ _)).trans knowSpan_first

theorem sumpSpanDeliver_streamFull (hk : (s.span n).skind = 0x20) (hr : entryRoom s ((s.span n).src - 0x30) = false) :
    exec (.sumpSpanDeliver n) s = .next s := by
  rw [sumpSpanDeliver_stream hn hv hc hk, ovsTakesSpan, if_pos (by rw [hr]; rfl)]

/-- A stream's span becomes a trailer. -/
theorem sumpSpanDeliver_trailer (hk : (s.span n).skind = 0x20) (hr : entryRoom s ((s.span n).src - 0x30) = true)
    (hj : (s.span n).src - 0x30 < 8) : Does (.sumpSpanDeliver n) (.sump :: deliveryParts)
      (fun t => t.span n = {} ∧ Steps Reg.Stream.ORWP ((s.span n).src - 0x30) s t) s := by
  have he := sumpSpanDeliver_stream hn hv hc hk
  rw [ovsTakesSpan_room hr] at he
  refine .delivers he ?_
  unfold Steps
  rw [dropSpan_rd]
  exact putTrailer_steps _ _ _ _ _ hj

theorem sumpSpanDeliver_hostFull (hk : (s.span n).skind = 0x30) (hr : hifTakes s = false) : exec (.sumpSpanDeliver n) s = .next s := by
  rw [sumpSpanDeliver_host hn hv hc hk, hifTakesSpan, if_neg (by rw [hr]; decide)]

/-- A DMA channel's span becomes a completion entry. -/
theorem sumpSpanDeliver_entry (hk : (s.span n).skind = 0x30) (hr : hifTakes s = true) :
    Does (.sumpSpanDeliver n) (.sump :: deliveryParts)
      (fun t => t.span n = {} ∧ t.hif = { s.hif with written := s.hif.written + 1 }) s := by
  have he := sumpSpanDeliver_host hn hv hc hk
  rw [hifTakesSpan_room hr] at he
  refine .delivers he ?_
  rw [dropSpan_hif]
  exact putCompletion_hif _ _

end

/-! ### Totalisers -/

/-- The running streams. -/
def runningStreams (s : State) : List Nat := (List.range 8).filter (s.on Reg.Stream.RUNNING)

/-- The destination of a totaliser of kind q takes a report. -/
def TakesTotal (q : Nat) (s : State) : Prop :=
  (ledgerKind q = true ∧ ringTakes s true = true) ∨ (q = 0x20 ∧ runningStreams s ≠ [] ∧ ∀ j ∈ runningStreams s, entryRoom s j = true) ∨
    (q = 0x30 ∧ hifTakes s = true)

section
variable {q : Nat} {s : State} (hq : q < 256)

theorem totaliserReport_only {t : State} (he : exec (.totaliserReport q) s = .next t) : Only deliveryParts s t :=
  outAll.get (execTotaliserReport_law (Only.of_law rfl) (Has.covers rfl) (Frame.refl _ _)) he

include hq

theorem totaliserReport_empty (h : s.rd2 Reg.Ledger.TSPANS 0 q = 0) : exec (.totaliserReport q) s = .next s := by
  rw [exec_totaliserReport, execTotaliserReport, within_lt hq, if_pos h]

theorem totaliserReport_ledger (h : s.rd2 Reg.Ledger.TSPANS 0 q ≠ 0) (hk : ledgerKind q = true) :
    exec (.totaliserReport q) s = .next (dlgTakesTotal q s) := by
  rw [exec_totaliserReport, execTotaliserReport, within_lt hq, if_neg h, if_pos hk]

omit hq in
theorem totaliserReport_streams (h : s.rd2 Reg.Ledger.TSPANS 0 0x20 ≠ 0) : exec (.totaliserReport 0x20) s = .next (ovsTakesTotal s) := by
  rw [exec_totaliserReport, execTotaliserReport, within_lt (by decide), if_neg h, if_neg (by decide), if_pos rfl]

omit hq in
theorem totaliserReport_host (h : s.rd2 Reg.Ledger.TSPANS 0 0x30 ≠ 0) : exec (.totaliserReport 0x30) s = .next (hifTakesTotal s) := by
  rw [exec_totaliserReport, execTotaliserReport, within_lt (by decide), if_neg h, if_neg (by decide), if_neg (by decide), if_pos rfl]

omit hq in
theorem ovsTakesTotal_waits (h : ¬ (runningStreams s ≠ [] ∧ ∀ j ∈ runningStreams s, entryRoom s j = true)) : ovsTakesTotal s = s := by
  unfold ovsTakesTotal
  refine if_pos ?_
  rw [Bool.or_eq_true, Bool.not_eq_true', List.all_eq_false]
  by_contra hc
  rw [not_or, not_exists] at hc
  refine h ⟨fun he => hc.1 (List.isEmpty_iff.mpr he), fun j hj => ?_⟩
  by_contra hn
  exact hc.2 j ⟨hj, hn⟩

/-- A totaliser that its destination does not take stays. -/
theorem totaliserReport_waits (h : ¬ (s.rd2 Reg.Ledger.TSPANS 0 q ≠ 0 ∧ TakesTotal q s)) : exec (.totaliserReport q) s = .next s := by
  by_cases h0 : s.rd2 Reg.Ledger.TSPANS 0 q = 0
  · exact totaliserReport_empty hq h0
  have ht : ¬ TakesTotal q s := fun ht => h ⟨h0, ht⟩
  by_cases hk : ledgerKind q = true
  · have hr : ringTakes s true = false := by
      by_contra hc
      exact ht (.inl ⟨hk, by simpa using hc⟩)
    rw [totaliserReport_ledger hq h0 hk, dlgTakesTotal, if_pos (by rw [hr]; rfl)]
  by_cases h20 : q = 0x20
  · subst h20
    rw [totaliserReport_streams h0, ovsTakesTotal_waits fun hc => ht (.inr (.inl ⟨rfl, hc⟩))]
  by_cases h30 : q = 0x30
  · subst h30
    have hr : ¬ hifTakes s = true := fun hc => ht (.inr (.inr ⟨rfl, hc⟩))
    rw [totaliserReport_host h0, hifTakesTotal, if_neg hr]
  · rw [exec_totaliserReport, execTotaliserReport, within_lt hq, if_neg h0, if_neg hk, if_neg h20, if_neg h30]

/-- What the report of a totaliser leaves. -/
def Reported (q : Nat) (s t : State) : Prop :=
  t.rd2 Reg.Ledger.TSPANS 0 q = 0 ∧ t.rd2 Reg.Ledger.TROWS 0 q = 0 ∧
    (ledgerKind q = true → Steps Reg.Ledger.LWP 0 s t ∧ Steps Reg.Ledger.DSEQNEXT 0 s t) ∧
    (q = 0x20 → ∀ j ∈ runningStreams s, Steps Reg.Stream.ORWP j s t) ∧
    (q = 0x30 → t.hif = { s.hif with written := s.hif.written + 1 })

omit hq in
theorem runningStreams_lt {j : Nat} (h : j ∈ runningStreams s) : j < 8 := List.mem_range.mp (List.mem_filter.mp h).1

omit hq in
theorem ovsTakesTotal_room (hr : runningStreams s ≠ []) (hall : ∀ j ∈ runningStreams s, entryRoom s j = true) :
    ovsTakesTotal s = clearTotal 0x20 ((runningStreams s).foldl (fun t k => putTrailer k (s.rdI2 Reg.Ledger.TYMIN 0 0x20)
      (s.rdI2 Reg.Ledger.TYMAX 0 0x20) (s.rd2 Reg.Ledger.TROWS 0 0x20) (some (s.rd2 Reg.Ledger.TSPANS 0 0x20)) t) s) := by
  have he : ((runningStreams s).isEmpty || !(runningStreams s).all (entryRoom s)) = false := by
    rw [Bool.or_eq_false_iff, Bool.not_eq_false', List.all_eq_true]
    exact ⟨by simpa using hr, hall⟩
  exact if_neg fun h => Bool.false_ne_true (he.symm.trans h)

omit hq in
theorem ovsTakesTotal_reports (hr : runningStreams s ≠ []) (hall : ∀ j ∈ runningStreams s, entryRoom s j = true) :
    Reported 0x20 s (ovsTakesTotal s) := by
  rw [ovsTakesTotal_room hr hall]
  obtain ⟨h1, h2⟩ := clearTotal_clears (q := 0x20) (by decide) ((runningStreams s).foldl (fun t k => putTrailer k (s.rdI2 Reg.Ledger.TYMIN 0 0x20)
    (s.rdI2 Reg.Ledger.TYMAX 0 0x20) (s.rd2 Reg.Ledger.TROWS 0 0x20) (some (s.rd2 Reg.Ledger.TSPANS 0 0x20)) t) s)
  refine ⟨h1, h2, fun hk => absurd hk (by decide), fun _ j hj => ?_, fun h => absurd h (by decide)⟩
  have hj8 := runningStreams_lt hj
  unfold Steps
  rw [(clearTotal_only _ _).rd_off rfl (Field.has_lt hj8 (by decide))]
  refine (putTrailers_steps (List.nodup_range.filter _) (fun k hk => runningStreams_lt hk) hj8).trans (if_pos hj)

theorem totaliserReport_reports (h : s.rd2 Reg.Ledger.TSPANS 0 q ≠ 0) (ht : TakesTotal q s) :
    Does (.totaliserReport q) deliveryParts (Reported q s) s := by
  rcases ht with ⟨hk, hr⟩ | ⟨rfl, hr, hall⟩ | ⟨rfl, hr⟩
  · have he := totaliserReport_ledger hq h hk
    rw [dlgTakesTotal, if_neg (by rw [hr]; decide)] at he
    obtain ⟨h1, h2⟩ := clearTotal_clears hq (writeCoverage 0x7F q 8 0 (s.rdI2 Reg.Ledger.TYMIN 0 q) (s.rdI2 Reg.Ledger.TYMAX 0 q)
      (s.rd2 Reg.Ledger.TROWS 0 q) (s.rd2 Reg.Ledger.TSPANS 0 q) s)
    refine ⟨_, he, totaliserReport_only he, h1, h2, fun _ => ⟨?_, ?_⟩, fun h20 => ?_, fun h30 => ?_⟩
    · unfold Steps
      rw [clearTotal_rd _ _ rfl rfl rfl rfl rfl]
      exact (writeCoverage_steps _ _ _ _ _ _ _ _ _).1
    · unfold Steps
      rw [clearTotal_rd _ _ rfl rfl rfl rfl rfl]
      exact (writeCoverage_steps _ _ _ _ _ _ _ _ _).2
    · rw [h20] at hk; exact absurd hk (by decide)
    · rw [h30] at hk; exact absurd hk (by decide)
  · have he := totaliserReport_streams h
    exact ⟨_, he, totaliserReport_only he, ovsTakesTotal_reports hr hall⟩
  · have he := totaliserReport_host h
    rw [hifTakesTotal, if_pos hr] at he
    obtain ⟨h1, h2⟩ := clearTotal_clears hq (putCompletion (dmaStallEntry 3 0x7F (s.rd2 Reg.Ledger.TROWS 0 0x30) (s.rd2 Reg.Ledger.TSPANS 0 0x30) s) s)
    refine ⟨_, he, totaliserReport_only he, h1, h2, fun hk => absurd hk (by decide), fun h20 => absurd h20 (by decide), fun _ => ?_⟩
    rw [Frame.hif (clearTotal_only _ _) (by simp [Covers]), putCompletion_hif]

end

/-! ### Output rows -/

theorem ovsRowDeliver_waits {k : Nat} {s : State} (hk : k < 8) (h : (s.ovsOf k).held = [] ∨ entryRoom s k = false) :
    exec (.ovsRowDeliver k) s = .next s := by
  rw [exec_ovsRowDeliver, execOvsRowDeliver, within_lt hk, ovsRowDeliver]
  rcases h with h | h
  · rw [h]
  · split
    · rfl
    · rw [if_pos (by rw [h]; rfl)]

/-- A stream delivers its oldest row. -/
theorem ovsRowDeliver_delivers {k : Nat} {s : State} {r : OutRow} {rs : List OutRow} (hk : k < 8) (hh : (s.ovsOf k).held = r :: rs)
    (hr : entryRoom s k = true) :
    Does (.ovsRowDeliver k) [.all .stream, .all .wlkPort, .grp 17, .grp 64, .mem, .ovs, .poison, .sent, .tokens] (fun t =>
      Steps Reg.Stream.ORWP k s t ∧ Steps Reg.Stream.OUTCNT k s t ∧
      (if r.frameEnd = true then Steps Reg.Stream.FRAMECNT k s t else t.rd Reg.Stream.FRAMECNT k = s.rd Reg.Stream.FRAMECNT k)) s := by
  have hi : ∀ {f : Field}, f.n1 = 8 → f.n2 = 1 → f.has k 0 = true := fun h1 h2 => by simp [Field.has, h1, h2, hk]
  have he : exec (.ovsRowDeliver k) s = .next (ovsRowDeliver k s) := by
    rw [exec_ovsRowDeliver, execOvsRowDeliver, within_lt hk]
  have ht : ∃ hd pl, ovsRowDeliver k s = runFlush k 6 (
      let u := (putEntry k hd pl (s.setOvs k { s.ovsOf k with held := rs })).wrap Reg.Stream.OUTCNT k 1
      if r.frameEnd then (u.wrap Reg.Stream.FRAMECNT k 1).emit (448 + k) else u) := by
    unfold ovsRowDeliver
    rw [hh]
    exact ⟨_, _, if_neg (by rw [hr]; decide)⟩
  obtain ⟨hd, pl, ht⟩ := ht
  have hput := putEntry_steps (k := k) hd pl (s.setOvs k { s.ovsOf k with held := rs }) hk
  have hout := putEntry_rd (k := k) (i := k) (f := Reg.Stream.OUTCNT) hd pl (s.setOvs k { s.ovsOf k with held := rs }) (.inl rfl) rfl rfl (hi rfl rfl)
  have hfrm := putEntry_rd (k := k) (i := k) (f := Reg.Stream.FRAMECNT) hd pl (s.setOvs k { s.ovsOf k with held := rs }) (.inl rfl) rfl rfl (hi rfl rfl)
  rw [State.setOvs_rd] at hout hfrm
  unfold Steps at hput
  rw [State.setOvs_rd] at hput
  refine ⟨_, he, outAll.get (execOvsRowDeliver_law (Only.of_law rfl) (Has.covers rfl) (Frame.refl _ _)) he, ?_, ?_, ?_⟩
  · unfold Steps
    rw [ht, runFlush_rd _ _ _ rfl rfl (hi rfl rfl), ← hput]
    dsimp only
    rw [State.rd_ite, State.emit_rd, State.wrap, State.rd_wr_apart _ rfl _ (hi rfl rfl), ite_self]
    exact State.rd_wr_apart _ rfl _ (hi rfl rfl)
  · unfold Steps
    rw [ht, runFlush_rd _ _ _ rfl rfl (hi rfl rfl)]
    dsimp only
    rw [State.rd_ite, State.emit_rd, State.wrap, State.rd_wr_apart _ rfl _ (hi rfl rfl), ite_self, State.wrap, State.rd_wr_same _ rfl _ (hi rfl rfl), hout]
  · rw [ht]
    unfold Steps
    rw [runFlush_rd _ _ _ rfl rfl (hi rfl rfl)]
    dsimp only
    split
    · rw [State.emit_rd, State.wrap, State.rd_wr_same _ rfl _ (hi rfl rfl), State.wrap, State.rd_wr_apart _ rfl _ (hi rfl rfl), hfrm]
    · rw [State.wrap, State.rd_wr_apart _ rfl _ (hi rfl rfl), hfrm]

/-! ### The end of a stream -/

/-- A stopping stream has nothing left to deliver. -/
def StreamDone (k : Nat) (s : State) : Prop := s.rd Reg.Stream.STOPPING k ≠ 0 ∧ (s.ovsOf k).flush = none ∧ (s.ovsOf k).held = []

theorem ovsStopComplete_waits {k : Nat} {s : State} (hk : k < 8) (h : ¬ StreamDone k s) : exec (.ovsStopComplete k) s = .next s := by
  rw [exec_ovsStopComplete, execOvsStopComplete, within_lt hk]
  refine if_pos ?_
  by_contra hc
  simp only [State.on, Bool.not_eq_true', bne_eq_false_iff_eq, not_or, Bool.not_eq_true, Option.isSome_eq_false_iff, Option.isNone_iff_eq_none,
    Bool.not_eq_false, List.isEmpty_iff] at hc
  exact h hc

theorem showLineBanks_only (s : State) : Only [.all .bank] s (showLineBanks s) :=
  showLineBanks_law (Only.of_law rfl) (Has.covers rfl) (Frame.refl _ _)

theorem ovsStopComplete_stops {k : Nat} {s : State} (hk : k < 8) (h : StreamDone k s) :
    Does (.ovsStopComplete k) [.one .stream k, .all .bank, .all .dma, .seq] (fun t => t.rd Reg.Stream.RUNNING k = 0 ∧
      t.rd Reg.Stream.STOPPING k = 0 ∧ (s.rd Reg.Stream.DMACH k < 16 → t.rd Reg.Dma.OWNER (s.rd Reg.Stream.DMACH k) = 0) ∧
      t.seq = (s.complete 0xC 4 k 0).seq) s := by
  have hi : ∀ {f : Field}, f.n1 = 8 → f.n2 = 1 → f.has k 0 = true := fun h1 h2 => by simp [Field.has, h1, h2, hk]
  obtain ⟨h1, h2, h3⟩ := h
  set u := (s.wr Reg.Stream.RUNNING k 0).wr Reg.Stream.STOPPING k 0 with hu
  have hch : u.rd Reg.Stream.DMACH k = s.rd Reg.Stream.DMACH k := by
    rw [hu, State.rd_wr_apart _ rfl _ (hi rfl rfl), State.rd_wr_apart _ rfl _ (hi rfl rfl)]
  have he : exec (.ovsStopComplete k) s = .next ((showLineBanks (u.wr Reg.Dma.OWNER (s.rd Reg.Stream.DMACH k) 0)).complete 0xC 0x04 k stOK) := by
    rw [exec_ovsStopComplete, execOvsStopComplete, within_lt hk, ← hch]
    refine if_neg ?_
    simp [State.on, h1, h2, h3]
  have hrd : ∀ {f : Field} {i : Nat}, f.off [.all .bank] = true → f.has i 0 = true →
      ((showLineBanks (u.wr Reg.Dma.OWNER (s.rd Reg.Stream.DMACH k) 0)).complete 0xC 0x04 k stOK).rd f i =
        (u.wr Reg.Dma.OWNER (s.rd Reg.Stream.DMACH k) 0).rd f i := fun hf hi => (showLineBanks_only _).rd_off hf hi
  refine ⟨_, he, outAll.get (execOvsStopComplete_law (Only.of_law rfl) (Has.covers rfl) (Covers.one (by simp)) (Frame.refl _ _)) he, ?_, ?_, ?_, ?_⟩
  · rw [hrd rfl (hi rfl rfl), State.rd_wr_apart _ rfl _ (hi rfl rfl), hu, State.rd_wr_apart _ rfl _ (hi rfl rfl), State.rd_wr_same _ rfl _ (hi rfl rfl)]
    rfl
  · rw [hrd rfl (hi rfl rfl), State.rd_wr_apart _ rfl _ (hi rfl rfl), hu, State.rd_wr_same _ rfl _ (hi rfl rfl)]
    rfl
  · intro hc
    have ho : Reg.Dma.OWNER.has (s.rd Reg.Stream.DMACH k) 0 = true := Field.has_lt hc (by decide)
    rw [hrd rfl ho, State.rd_wr_same _ rfl _ ho]
    rfl
  · have hseq : (showLineBanks (u.wr Reg.Dma.OWNER (s.rd Reg.Stream.DMACH k) 0)).seq = s.seq := by
      rw [Frame.seq (showLineBanks_only _) (by simp [Covers]), State.wr_seq, hu, State.wr_seq, State.wr_seq]
    unfold State.complete
    dsimp only
    rw [hseq]
    rfl

/-! ### Bulk packets -/

/-- The inbound ring of stream k, where port p puts entries of n bytes, is full. -/
abbrev InboundFull (p k n : Nat) (s : State) : Prop :=
  2 ^ s.rd Reg.WlkInbound.IRLOG k ≤ (s.rd Reg.WlkInbound.IRWP k + 2 ^ 64 -
    ((arrived p s).read64 (s.rd Reg.WlkInbound.IRBASE k + n * 2 ^ s.rd Reg.WlkInbound.IRLOG k)).toNat) % 2 ^ 64

theorem inboundBulk_down {p k : Nat} {ws : List Word} {s : State} (hp : p < 4) (hk : k < 8) (hu : s.portUp p = false) :
    exec (.inboundBulkReceive p k ws) s = .next s := by
  rw [exec_inboundBulkReceive, execInboundBulkReceive, within_lt hk, fromPort_down hp (by rw [hu]; decide)]

section
variable {p k : Nat} {ws : List Word} {s : State} (hk : k < 8) (hu : s.portUp p = true)
include hk hu

/-- The entry of a bulk packet in the inbound ring of its stream. -/
theorem inboundBulk_up : exec (.inboundBulkReceive p k ws) s =
    if s.rd Reg.WlkInbound.IRLOG k = 0 then ok ((arrived p s).sat Reg.WlkInbound.IRDROP k 1)
    else if InboundFull p k (8 * ws.length) s then ok (arrived p s)
    else ok (((arrived p s).put (s.rd Reg.WlkInbound.IRBASE k + 8 * ws.length * (s.rd Reg.WlkInbound.IRWP k % 2 ^ s.rd Reg.WlkInbound.IRLOG k))
      (wordsBytes (ws.set 7 (BitVec.ofNat 64 (s.rd Reg.WlkInbound.IRWP k))))).wr Reg.WlkInbound.IRWP k (s.rd Reg.WlkInbound.IRWP k + 1)) := by
  have hi : ∀ {f : Field}, f.n1 = 8 → f.n2 = 1 → f.has k 0 = true := fun h1 h2 => by simp [Field.has, h1, h2, hk]
  rw [exec_inboundBulkReceive, execInboundBulkReceive, within_lt hk, fromPort_up hu]
  dsimp only
  rw [arrived_rd s rfl rfl (hi rfl rfl), arrived_rd s rfl rfl (hi rfl rfl), arrived_rd s rfl rfl (hi rfl rfl)]

/-- A bulk packet counts in IRDROP without a ring, stays out while its ring is full, and takes the ring's next entry otherwise. -/
theorem inboundBulk_enters :
    Does (.inboundBulkReceive p k ws) [.all .wlkPort, .one .inbound k, .grp 64, .mem, .poison] (fun t =>
      t.rd Reg.WlkPort.RXPKT p = (s.rd Reg.WlkPort.RXPKT p + 1) % 2 ^ Reg.WlkPort.RXPKT.width ∧
      (s.rd Reg.WlkInbound.IRLOG k = 0 → Counts Reg.WlkInbound.IRDROP k s t) ∧
      (s.rd Reg.WlkInbound.IRLOG k ≠ 0 → InboundFull p k (8 * ws.length) s → t.rd Reg.WlkInbound.IRWP k = s.rd Reg.WlkInbound.IRWP k) ∧
      (s.rd Reg.WlkInbound.IRLOG k ≠ 0 → ¬ InboundFull p k (8 * ws.length) s → Steps Reg.WlkInbound.IRWP k s t)) s := by
  have hrx : Reg.WlkPort.RXPKT.has p 0 = true := Field.has_lt (portUp_lt hu) (by decide)
  have hi : ∀ {f : Field}, f.n1 = 8 → f.n2 = 1 → f.has k 0 = true := fun h1 h2 => by simp [Field.has, h1, h2, hk]
  have hcame : (arrived p s).rd Reg.WlkPort.RXPKT p = (s.rd Reg.WlkPort.RXPKT p + 1) % 2 ^ Reg.WlkPort.RXPKT.width := arrived_rx (portUp_lt hu) s
  have honly : ∀ {t : State}, exec (.inboundBulkReceive p k ws) s = .next t → Only [.all .wlkPort, .one .inbound k, .grp 64, .mem, .poison] s t :=
    fun he => outAll.get (execInboundBulkReceive_law (Only.of_law rfl) (Has.covers rfl) (Covers.one (by simp)) (Frame.refl _ _)) he
  have he := inboundBulk_up (ws := ws) hk hu
  by_cases h0 : s.rd Reg.WlkInbound.IRLOG k = 0
  · rw [if_pos h0] at he
    refine ⟨_, he, honly he, ?_, fun _ => ?_, fun h => absurd h0 h, fun h => absurd h0 h⟩
    · exact (State.rd_wr_apart _ rfl _ hrx).trans hcame
    · unfold Counts
      rw [State.rd_sat_same _ rfl (hi rfl rfl), arrived_rd s rfl rfl (hi rfl rfl)]
  rw [if_neg h0] at he
  by_cases hf : InboundFull p k (8 * ws.length) s
  · rw [if_pos hf] at he
    exact ⟨_, he, honly he, hcame, fun h => absurd h h0, fun _ _ => arrived_rd s rfl rfl (hi rfl rfl), fun _ h => absurd hf h⟩
  · rw [if_neg hf] at he
    refine ⟨_, he, honly he, ?_, fun h => absurd h h0, fun _ h => absurd h hf, fun _ _ => ?_⟩
    · rw [State.rd_wr_apart _ rfl _ hrx, (put_only _ _ _).rd_off rfl hrx, hcame]
    · unfold Steps
      rw [State.rd_wr_same _ rfl _ (hi rfl rfl)]

end

/-! ### The statement -/

/-- Settles O36: each command of the Sump and of overview delivery by what its destination takes. -/
theorem sumpAndOverview : Obligations.SumpAndOverview := by
  intro n k p s hn hk hp
  refine ⟨?notes, sumpSpanClose_closes hn, sumpSpanClose_open hn, ⟨sumpSpanDeliver_waits hn, fun hv hc => ?spans⟩, fun q hq => ⟨totaliserReport_waits hq,
    totaliserReport_reports hq⟩, ovsRowDeliver_waits hk, fun r rs => ovsRowDeliver_delivers hk, ⟨ovsStopComplete_waits hk, ovsStopComplete_stops hk⟩,
    fun ws => ⟨inboundBulk_down hp hk, inboundBulk_enters hk⟩⟩
  case notes =>
    intro w0 w1 w2 w3 c
    have hres : ∀ x : Nat, kindReserved x = true ↔ x = 0 ∨ (7 ≤ x ∧ x ≤ 14) := fun x => by simp [kindReserved]
    refine ⟨fun h => sumpNote_discards ((hres _).mpr h), fun h hs => ?_⟩
    have hr : kindReserved (SumpNote.ofWords w0 w1 w2 w3).tag.kind = false := by
      by_contra hc
      exact h ((hres _).mp (by simpa using hc))
    exact ⟨sumpNote_ignored hr hs, sumpNote_taken hr hs⟩
  case spans =>
    exact ⟨sumpSpanDeliver_repeat hn hv hc, sumpSpanDeliver_noRoom hn hv hc, sumpSpanDeliver_records hn hv hc,
      sumpSpanDeliver_streamFull hn hv hc, fun hk hr h1 h2 => sumpSpanDeliver_trailer hn hv hc hk hr (by omega),
      sumpSpanDeliver_hostFull hn hv hc, sumpSpanDeliver_entry hn hv hc⟩

end Sys2Proof.Machine
end

section
/-!
SUPPORT. Which fields of a lane each of its operations moves, and what it makes of STATE (R73 to R104).
-/
namespace Sys2Proof.Machine

/-- From s to t no field has moved but those of a list and what shares bits with them. -/
def Moves (l : List Field) (s t : State) : Prop :=
  ∀ (f : Field) (i j : Nat), f.has i j = true → (l.all fun g => g.apart f) = true → t.rd2 f i j = s.rd2 f i j

namespace Moves

theorem rd {l : List Field} {s t : State} (h : Moves l s t) {f : Field} {i : Nat} (hf : (l.all fun g => g.apart f) = true)
    (hi : f.has i 0 = true) : t.rd f i = s.rd f i := h _ _ _ hi hf

theorem on {l : List Field} {s t : State} (h : Moves l s t) {f : Field} {i : Nat} (hf : (l.all fun g => g.apart f) = true)
    (hi : f.has i 0 = true) : t.on f i = s.on f i := congrArg (· != 0) (h.rd hf hi)

theorem refl (l : List Field) (s : State) : Moves l s s := fun _ _ _ _ _ => rfl

theorem of_regs {l : List Field} {s t : State} (h : t.regs = s.regs) : Moves l s t := fun _ _ _ _ _ => State.rd2_regs h _ _ _

theorem trans {l m : List Field} {s t u : State} (h : Moves l s t) (k : Moves m t u) : Moves (l ++ m) s u := by
  intro f i j hi ha
  rw [List.all_append, Bool.and_eq_true] at ha
  exact (k f i j hi ha.2).trans (h f i j hi ha.1)

theorem step {l : List Field} {s t u : State} (h : Moves l s t) (k : Moves l t u) : Moves l s u := fun _ _ _ hi ha => (k _ _ _ hi ha).trans (h _ _ _ hi ha)

theorem mono {l m : List Field} {s t : State} (h : Moves l s t) (hm : l ⊆ m) : Moves m s t :=
  fun _ _ _ hi ha => h _ _ _ hi (List.all_eq_true.mpr fun g hg => List.all_eq_true.mp ha g (hm hg))

theorem ite {l : List Field} {c : Prop} [Decidable c] {s a b : State} (ha : c → Moves l s a) (hb : ¬ c → Moves l s b) :
    Moves l s (if c then a else b) := by
  split
  · next h => exact ha h
  · next h => exact hb h

theorem of_wr2 (f : Field) (i j v : Nat) (s : State) : Moves [f] s (s.wr2 f i j v) := by
  intro g m n hi ha
  rw [List.all_cons, Bool.and_eq_true] at ha
  exact State.rd2_wr2_apart _ ha.1 _ hi

theorem of_wr (f : Field) (i v : Nat) (s : State) : Moves [f] s (s.wr f i v) := of_wr2 _ _ _ _ _

theorem of_sat (f : Field) (i n : Nat) (s : State) : Moves [f] s (s.sat f i n) := of_wr2 _ _ _ _ _

theorem of_wrAll (i : Nat) (fs : List (Field × Nat)) (s : State) {m : List Field} (hm : fs.map (·.1) = m := by rfl) :
    Moves m s (s.wrAll i fs) := by
  subst hm
  induction fs generalizing s with
  | nil => exact refl _ _
  | cons e fs ih => exact (of_wr e.1 i e.2 s).trans (ih _)

section
variable {l : List Field} {s t : State} (h : Moves l s t)
include h

theorem wr (f : Field) (i v : Nat) : Moves (l ++ [f]) s (t.wr f i v) := h.trans (of_wr _ _ _ _)

theorem sat (f : Field) (i v : Nat) : Moves (l ++ [f]) s (t.sat f i v) := h.trans (of_sat _ _ _ _)

theorem wrAll (i : Nat) (fs : List (Field × Nat)) {m : List Field} (hm : fs.map (·.1) = m := by rfl) : Moves (l ++ m) s (t.wrAll i fs) :=
  h.trans (of_wrAll _ _ _ hm)

theorem setLane (n : Nat) (x : Lane) : Moves l s (t.setLane n x) := h.step (of_regs rfl)

end

theorem of_foldl {α : Type} {l : List Field} {f : State → α → State} (h : ∀ s a, Moves l s (f s a)) (as : List α) (s : State) :
    Moves l s (as.foldl f s) := by
  induction as generalizing s with
  | nil => exact refl _ _
  | cons a as ih => exact (h s a).step (ih _)

end Moves

/-- A field of a list of writes to one block reads what was written, when no later one of the list shares its bits. -/
theorem State.rd_wrAll_head (s : State) {f : Field} (i v : Nat) (fs : List (Field × Nat)) (hf : f.inWord = true) (hi : f.has i 0 = true)
    (ha : ((fs.map (·.1)).all fun g => g.apart f) = true) : (s.wrAll i ((f, v) :: fs)).rd f i = v % 2 ^ f.width :=
  ((Moves.of_wrAll i fs (s.wr f i v)).rd ha hi).trans (State.rd_wr_same _ hf _ hi)

/-! ### What stands beside the registers -/

@[simp] theorem State.wr_lane (s : State) (f : Field) (i v n : Nat) : (s.wr f i v).lane n = s.lane n := by
  unfold State.lane
  rw [State.wr_lanes]

@[simp] theorem State.wrAll_lane (s : State) (i : Nat) (fs : List (Field × Nat)) (n : Nat) : (s.wrAll i fs).lane n = s.lane n := by
  unfold State.lane
  rw [State.wrAll_lanes]

theorem Only.lane {l : List Part} {s t : State} (h : Only l s t) (hl : ¬ Covers l .lanes) (n : Nat) : t.lane n = s.lane n := by
  unfold State.lane
  rw [Frame.lanes h hl]

/-! ### Grants -/

theorem setHeld_moves (s : State) : Moves [Reg.Pba.POWER_HELD, Reg.Pba.HELDCNT] s (setHeld s) := by
  unfold setHeld
  refine Moves.ite (fun _ => ?_) fun _ => (Moves.of_wr _ _ _ _).mono (by simp)
  refine ((Moves.of_wr _ _ _ _).trans (Moves.of_sat _ _ _ _)).step (Moves.ite (fun _ => Moves.of_regs rfl) fun _ => Moves.refl _ _)

/-- The fields that show the Damper's account. -/
def grantFields : List Field := [Reg.Pba.POWER_HELD, Reg.Pba.HELDCNT, Reg.Pba.GRANTED]

theorem release_moves (s : State) (c id : Nat) : Moves grantFields s (s.release c id) := by
  unfold State.release showGranted
  exact ((Moves.of_regs rfl).step (setHeld_moves _)).wr _ _ _

theorem request_moves (s : State) (c id mw : Nat) : Moves grantFields s (s.request c id mw) :=
  Moves.ite (fun _ => Moves.refl _ _) fun _ => ((Moves.of_regs rfl).step (setHeld_moves _)).mono (by simp [grantFields])

theorem giveLane_moves (n : Nat) (s : State) : Moves grantFields s (giveLane n s) := (release_moves _ _ _).step (release_moves _ _ _)

theorem wake_moves (n : Nat) (s : State) : Moves grantFields s (wake n s) := by
  unfold wake
  exact Moves.ite (fun _ => Moves.of_regs rfl) fun _ => Moves.ite (fun _ => Moves.refl _ _) fun _ =>
    Moves.ite (fun _ => request_moves _ _ _ _) fun _ => Moves.refl _ _

/-! ### Steps of a lane -/

section
variable (n : Nat) (s : State)

theorem laneCause_moves (c : Nat) : Moves [Reg.Lane.EVCAUSE] s (laneCause n c s) :=
  Moves.ite (fun _ => (Moves.of_wr _ _ _ _).step (Moves.of_regs rfl)) fun _ => Moves.of_wr _ _ _ _

theorem scanAbort_moves : Moves [Reg.Lane.ESTATE, Reg.Lane.EVCAUSE] s (scanAbort n s) :=
  Moves.ite (fun _ => (Moves.of_wr _ _ _ _).trans (laneCause_moves _ _ _)) fun _ => Moves.refl _ _

theorem txIdle_moves : Moves [Reg.Lane.TXASLEEP] s (txIdle n s) := Moves.of_wr _ _ _ _

/-- The fields of a lane's patterns. -/
def prbsFields : List Field := [Reg.Lane.PRBSGEN, Reg.Lane.PRBSCHK, Reg.Lane.PRBSSYNC]

theorem stopPrbs_moves : Moves prbsFields s (stopPrbs n s) := ((Moves.refl [] s).wrAll n _).setLane _ _

theorem leavePrbs_moves : Moves prbsFields s (leavePrbs n s) := Moves.ite (fun _ => stopPrbs_moves _ _) fun _ => Moves.refl _ _

theorem trainFrom_moves (k : Nat) : Moves (prbsFields ++ ([Reg.Lane.STATE, Reg.Lane.FENORESP] ++ [Reg.Lane.TXASLEEP])) s (trainFrom n k s) := by
  unfold trainFrom
  dsimp only
  exact (leavePrbs_moves n s).trans ((((Moves.refl [] _).setLane _ _).wrAll _ _).trans (txIdle_moves _ _))

/-- What a lane that goes down moves. -/
def downFields : List Field := [Reg.Lane.STATE, Reg.Lane.TXASLEEP]

theorem down_moves (x : Lane) (v : Nat) : Moves downFields s (txIdle n ((s.setLane n x).wr Reg.Lane.STATE n v)) :=
  (((Moves.refl [] s).setLane n x).wr _ _ _).trans (txIdle_moves _ _)

theorem goCold_moves : Moves ([Reg.Lane.ESTATE, Reg.Lane.EVCAUSE] ++ (prbsFields ++ (downFields ++ grantFields))) s (goCold n s) := by
  unfold goCold
  exact (scanAbort_moves n s).trans ((leavePrbs_moves n _).trans ((down_moves _ _ _ _).trans (giveLane_moves _ _)))

theorem laneOff_moves : Moves (prbsFields ++ (downFields ++ grantFields)) s (laneOff n s) := by
  unfold laneOff
  exact (leavePrbs_moves n _).trans ((down_moves _ _ _ _).trans (giveLane_moves _ _))

theorem rxSleep_moves : Moves ([Reg.Lane.ESTATE, Reg.Lane.EVCAUSE] ++ (prbsFields ++ downFields)) s (rxSleep n s) := by
  unfold rxSleep
  exact (scanAbort_moves n s).trans ((leavePrbs_moves n _).trans (down_moves _ _ _ _))

/-- The counters of a checker. -/
def checkFields : List Field := [Reg.Lane.PRBSBITS, Reg.Lane.PRBSERRS, Reg.Lane.PRBSSYNC]

theorem startPrbs_moves : Moves ([Reg.Lane.ESTATE, Reg.Lane.EVCAUSE] ++ (checkFields ++ downFields)) s (startPrbs n s) := by
  unfold startPrbs
  dsimp only
  refine (scanAbort_moves n s).trans (Moves.trans ?_ ((Moves.of_wr _ _ _ _).trans (txIdle_moves _ _)))
  exact Moves.ite (fun _ => ((Moves.refl [] _).setLane _ _).wrAll _ _) fun _ =>
    (((Moves.refl [] _).setLane _ _).wr _ _ _).mono (by simp [checkFields])

theorem setHeldQ_moves (h : Nat) : Moves [Reg.Lane.EQBOUND, Reg.Lane.EQBCNT, Reg.Lane.EVCAUSE] s (setHeldQ n h s) := by
  unfold setHeldQ
  dsimp only
  exact Moves.ite (fun _ => ((((Moves.refl [] s).setLane _ _).wr _ _ _).sat _ _ _).trans (laneCause_moves _ _ _)) fun _ =>
    ((((Moves.refl [] s).setLane _ _).wr _ _ _).sat _ _ _).mono (by simp)

theorem holdQ_moves (q : Nat) (held : Bool) : Moves [Reg.Lane.EQBOUND, Reg.Lane.EQBCNT, Reg.Lane.EVCAUSE] s (holdQ n q held s) := setHeldQ_moves _ _ _

/-- DFE tap 1 of a lane, which DFETAP holds as the last of eight in one word. -/
def dfeTap1 : Field := ⟨0x20010020, 0x80, 256, 0x0, 1, 55, 49, 0⟩

theorem rd_dfeTap1 : s.rd2 Reg.Lane.DFETAP n 7 = s.rd dfeTap1 n := rfl

theorem wr_dfeTap1 (v : Nat) : s.wr2 Reg.Lane.DFETAP n 7 v = s.wr dfeTap1 n v := by
  have h : Reg.Lane.DFETAP.has n 7 = dfeTap1.has n 0 := by simp [Field.has, Reg.Lane.DFETAP, dfeTap1]
  unfold State.wr State.wr2
  rw [h]
  rfl

theorem setDfe_one (v : Int) :
    setDfe n v 1 s = s.wr dfeTap1 n (low 7 (clampI (-(s.rd Reg.Lane.DFE1MAX n : Nat) : Int) (s.rd Reg.Lane.DFE1MAX n : Nat) v)) := wr_dfeTap1 _ _ _

theorem setDfe_moves (v : Int) : Moves [dfeTap1] s (setDfe n v 1 s) := by
  rw [setDfe_one]
  exact Moves.of_wr _ _ _ _

/-! ### Far-end taps: requests move the bounds' fields only -/

theorem dueTap_moves (l : List Field) : Moves l s (dueTap n s) := by
  unfold dueTap
  split
  · exact Moves.of_regs rfl
  · exact Moves.refl _ _

theorem sendTap_moves (l : List Field) (a q : Nat) (vs : List Nat) : Moves l s (sendTap n a q vs s) := (Moves.of_regs rfl).step (dueTap_moves _ _ _)

theorem nextTap_moves : Moves [Reg.Lane.EQBOUND, Reg.Lane.EQBCNT, Reg.Lane.EVCAUSE] s (nextTap n s) := by
  unfold nextTap
  dsimp only
  split
  · exact (setHeldQ_moves _ _ _).step (sendTap_moves _ _ _ _ _ _)
  · exact (setHeldQ_moves _ _ _).step (Moves.of_regs rfl)

theorem startTaps_moves : Moves [Reg.Lane.EQBOUND, Reg.Lane.EQBCNT, Reg.Lane.EVCAUSE] s (startTaps n s) :=
  Moves.ite (fun _ => (setHeldQ_moves _ _ _).step (sendTap_moves _ _ _ _ _ _)) fun _ => nextTap_moves _ _

theorem wakeTaps_moves (h : Nat) : Moves [Reg.Lane.EQBOUND, Reg.Lane.EQBCNT, Reg.Lane.EVCAUSE] s (wakeTaps h s) :=
  Moves.ite (fun _ => Moves.of_foldl (fun _ _ => Moves.ite (fun _ => startTaps_moves _ _) fun _ => Moves.refl _ _) _ _) fun _ => Moves.refl _ _

theorem wakeTapsOf_moves : Moves [Reg.Lane.EQBOUND, Reg.Lane.EQBCNT, Reg.Lane.EVCAUSE] s (wakeTapsOf n s) := by
  unfold wakeTapsOf
  split
  · exact wakeTaps_moves _ _
  · exact Moves.refl _ _

end

/-! ### STATE and the step of training -/

section
variable {n : Nat} (hn : n < 256) (s : State)

theorem Lane.field_has {n : Nat} (hn : n < 256) {f : Field} (h1 : f.n1 = 256) (h2 : f.n2 = 1) : f.has n 0 = true := by
  simp [Field.has, h1, h2, hn]

include hn

theorem trainFrom_state (k : Nat) : (trainFrom n k s).rd Reg.Lane.STATE n = 2 := by
  have hs : Reg.Lane.STATE.has n 0 = true := Lane.field_has hn rfl rfl
  exact ((txIdle_moves _ _).rd rfl hs).trans (State.rd_wrAll_head _ _ _ _ rfl hs rfl)

omit hn in
theorem trainFrom_step (k : Nat) : ((trainFrom n k s).lane n).step = k := by
  unfold trainFrom txIdle
  dsimp only
  rw [State.wr_lane, State.wrAll_lane, State.setLane_lane_same]

theorem goCold_state : (goCold n s).rd Reg.Lane.STATE n = 1 := by
  have hs : Reg.Lane.STATE.has n 0 = true := Lane.field_has hn rfl rfl
  exact (((txIdle_moves _ _).trans (giveLane_moves _ _)).rd rfl hs).trans (State.rd_wr_same _ rfl _ hs)

theorem laneOff_state : (laneOff n s).rd Reg.Lane.STATE n = 0 := by
  have hs : Reg.Lane.STATE.has n 0 = true := Lane.field_has hn rfl rfl
  exact (((txIdle_moves _ _).trans (giveLane_moves _ _)).rd rfl hs).trans (State.rd_wr_same _ rfl _ hs)

theorem rxSleep_state : (rxSleep n s).rd Reg.Lane.STATE n = 5 := by
  have hs : Reg.Lane.STATE.has n 0 = true := Lane.field_has hn rfl rfl
  exact ((txIdle_moves _ _).rd rfl hs).trans (State.rd_wr_same _ rfl _ hs)

theorem startPrbs_state : (startPrbs n s).rd Reg.Lane.STATE n = 6 := by
  have hs : Reg.Lane.STATE.has n 0 = true := Lane.field_has hn rfl rfl
  exact ((txIdle_moves _ _).rd rfl hs).trans (State.rd_wr_same _ rfl _ hs)

end

end Sys2Proof.Machine
end

section
/-!
PROOF. The operations on sensor lanes (R65, R73, R84 to R108).
-/
namespace Sys2Proof.Machine

/-- What completing an instruction changes. -/
def doneParts : List Part := [.procs, .seq, .grp 64, .sampled]

/-- An operation on one lane that completes, with what its completion leaves of the state b of its body. -/
theorem laneOp_touches {op n : Nat} {x : XWord} {f : XArgs → State → Except Nat State} {s b : State} {l : List Part} {P : State → Prop}
    (h : XReady x s) (hi : (xargs s x).i < n) (hb : f (xargs s x) s = .ok b) (hl : Only l s b) (hP : ∀ t, Only doneParts b t → P t)
    (h1 : l.contains .procs = false := by rfl) (h2 : l.contains .seq = false := by rfl) (h3 : l.contains (.grp 0) = false := by rfl) :
    ∃ t, direct 1 op n x f s = .next t ∧ XTouched 0 l s.seq s t ∧ P t := by
  obtain ⟨t, k1, k2, k3⟩ := direct_touch h hi hb hl h1 h2 h3
  exact ⟨t, k1, k2, hP t k3⟩

/-- The parts that an operation on lane i changes. -/
def laneParts (i : Nat) : List Part := [.one .lane i, .lanes, .damper, .grp 21, .tokens]

theorem laneParts_law {i : Nat} {s : State} : Law (Covers (laneParts i)) (Only (laneParts i) s) := Only.of_law rfl

theorem laneParts_lane (i : Nat) : Covers (laneParts i) (.one .lane i) := .inl (by simp [laneParts])

/-! ### SLA.CFG -/

section
variable {base : Nat} {a : XArgs} {i : Nat}

theorem blockWrite_moves (fs : List Field) (s : State) : Moves fs s (blockWrite base a i 0 fs s) := by
  induction fs generalizing s with
  | nil => exact Moves.refl _ _
  | cons f fs ih =>
    exact Moves.trans (l := [f]) (Moves.ite (fun _ => Moves.of_wr2 _ _ _ _ _) fun _ => Moves.refl _ _) (ih _)

/-- A block write gives each of its fields its value of the payload. -/
theorem blockWrite_rd {fs : List Field} (hs : fs.Pairwise fun f g => f.apart g = true ∧ g.apart f = true)
    (hw : ∀ f ∈ fs, f.inWord = true ∧ f.has i 0 = true) (s : State) {f : Field} (hf : f ∈ fs) :
    (blockWrite base a i 0 fs s).rd f i = blockVal base a s f i := by
  induction fs generalizing s with
  | nil => cases hf
  | cons g fs ih =>
    obtain ⟨hg, hs⟩ := List.pairwise_cons.mp hs
    have hi := (hw f hf).2
    unfold blockVal
    rcases List.mem_cons.mp hf with rfl | hf
    · have hk : (blockWrite base a i 0 (f :: fs) s).rd f i =
          (if (f.word 0 0 - base) / 8 < a.ws.length then s.wr f i (f.get 0 (a.w ((f.word 0 0 - base) / 8))) else s).rd f i :=
        (blockWrite_moves fs _).rd (List.all_eq_true.mpr fun g h => (hg g h).2) hi
      rw [hk, State.rd_ite, State.rd_wr_same _ (hw f (by simp)).1 _ hi, Nat.mod_eq_of_lt (Field.get_lt _ _ _)]
    · have hk : (if (g.word 0 0 - base) / 8 < a.ws.length then s.wr g i (g.get 0 (a.w ((g.word 0 0 - base) / 8))) else s).rd f i = s.rd f i := by
        rw [State.rd_ite, State.rd_wr_apart _ (hg f hf).1 _ hi, ite_self]
      refine (ih hs (fun f hf => hw f (by simp [hf])) _ hf).trans ?_
      unfold blockVal
      dsimp only
      rw [← State.wr, hk]

end

/-- The settings of a lane share no bits with each other. -/
theorem slaCfgFields_apart : slaCfgFields.Pairwise fun f g => f.apart g = true ∧ g.apart f = true := by decide

theorem slaCfgFields_has {i : Nat} (hi : i < 256) : ∀ f ∈ slaCfgFields, f.inWord = true ∧ f.has i 0 = true := by
  have h : ∀ f ∈ slaCfgFields, f.inWord = true ∧ f.n1 = 256 ∧ f.n2 = 1 := by decide
  intro f hf
  obtain ⟨h1, h2, h3⟩ := h f hf
  exact ⟨h1, Lane.field_has hi h2 h3⟩

theorem signed_low {w v : Nat} (hw : 0 < w) (hv : v < 2 ^ w) : low w (signed w v) = v := by
  obtain ⟨w, rfl⟩ := Nat.exists_eq_add_one.mpr hw
  unfold low signed
  rw [Nat.mod_eq_of_lt hv]
  split
  · rw [← Int.natCast_mod, Nat.mod_eq_of_lt hv]
    rfl
  · rw [Int.sub_emod_right, ← Int.natCast_mod, Nat.mod_eq_of_lt hv]
    rfl

section
variable {n : Nat} (s : State)

/-- The CTLE moves within its bounds. -/
def boundCtle (n : Nat) (s : State) : State :=
  if adaptCtle s n (s.rd Reg.Lane.CTLE n) = s.rd Reg.Lane.CTLE n then s
  else holdQ n 0 true (s.wr Reg.Lane.CTLE n (adaptCtle s n (s.rd Reg.Lane.CTLE n)))

/-- The bound of DFE tap 1 of lane n. -/
def dfeBound (s : State) (n : Nat) : Int := (s.rd Reg.Lane.DFE1MAX n : Nat)

theorem applyBounds_eq (n : Nat) : applyBounds n s =
    if clampI (-dfeBound s n) (dfeBound s n) (signed 7 (s.rd2 Reg.Lane.DFETAP n 7)) = signed 7 (s.rd2 Reg.Lane.DFETAP n 7) then boundCtle n s
    else holdQ n 1 true (setDfe n (signed 7 (s.rd2 Reg.Lane.DFETAP n 7)) 1 (boundCtle n s)) := rfl

/-- What a held quantity moves. -/
def heldFields : List Field := [Reg.Lane.EQBOUND, Reg.Lane.EQBCNT, Reg.Lane.EVCAUSE]

theorem boundCtle_moves (n : Nat) : Moves (Reg.Lane.CTLE :: heldFields) s (boundCtle n s) :=
  Moves.ite (fun _ => Moves.refl _ _) fun _ => (Moves.of_wr _ _ _ _).trans (holdQ_moves _ _ _ _)

theorem applyBounds_moves (n : Nat) : Moves (Reg.Lane.CTLE :: heldFields ++ dfeTap1 :: heldFields) s (applyBounds n s) := by
  rw [applyBounds_eq]
  refine Moves.ite (fun _ => (boundCtle_moves s n).mono (by simp [heldFields])) fun _ => ?_
  exact (boundCtle_moves s n).trans ((setDfe_moves _ _ _).trans (holdQ_moves _ _ _ _))

theorem adaptCtle_lt (n c : Nat) : adaptCtle s n c < 2 ^ Reg.Lane.CTLE.width := by
  have h0 := s.rd_lt Reg.Lane.CTLE n
  have h1 := s.rd_lt Reg.Lane.CTLEMIN n
  have h2 := s.rd_lt Reg.Lane.CTLEMAX n
  unfold adaptCtle
  split
  · exact h0
  · exact Nat.max_lt.mpr ⟨h1, lt_of_le_of_lt (Nat.min_le_right _ _) h2⟩

variable (hn : n < 256)
include hn

theorem applyBounds_ctle : (applyBounds n s).rd Reg.Lane.CTLE n = adaptCtle s n (s.rd Reg.Lane.CTLE n) := by
  have hi : Reg.Lane.CTLE.has n 0 = true := Lane.field_has hn rfl rfl
  have hb : (boundCtle n s).rd Reg.Lane.CTLE n = adaptCtle s n (s.rd Reg.Lane.CTLE n) := by
    unfold boundCtle
    split
    · next h => exact h.symm
    · rw [(holdQ_moves _ _ _ _).rd rfl hi, State.rd_wr_same _ rfl _ hi, Nat.mod_eq_of_lt (adaptCtle_lt s n _)]
  rw [applyBounds_eq]
  split
  · exact hb
  · rw [(holdQ_moves _ _ _ _).rd rfl hi, (setDfe_moves _ _ _).rd rfl hi, hb]

theorem applyBounds_dfe : (applyBounds n s).rd2 Reg.Lane.DFETAP n 7 =
    low 7 (clampI (-dfeBound s n) (dfeBound s n) (signed 7 (s.rd2 Reg.Lane.DFETAP n 7))) := by
  have hd : dfeTap1.has n 0 = true := Lane.field_has hn rfl rfl
  have hm : (boundCtle n s).rd Reg.Lane.DFE1MAX n = s.rd Reg.Lane.DFE1MAX n := (boundCtle_moves s n).rd rfl (Lane.field_has hn rfl rfl)
  rw [applyBounds_eq, rd_dfeTap1, rd_dfeTap1]
  split
  · next h =>
    rw [h, (boundCtle_moves s n).rd rfl hd]
    exact (signed_low (w := 7) (by decide) (s.rd_lt dfeTap1 n)).symm
  · rw [(holdQ_moves _ _ _ _).rd rfl hd, setDfe_one, State.rd_wr_same _ rfl _ hd, hm]
    exact low_mod _ _

/-! #### A new RATE -/

omit hn in
theorem rateChanged_moves (n old : Nat) : Moves (prbsFields ++ (downFields ++ grantFields)) s (rateChanged n old s) := by
  unfold rateChanged
  refine Moves.ite (fun _ => Moves.refl _ _) fun _ => Moves.ite (fun _ => laneOff_moves _ _) fun _ => Moves.ite (fun _ => ?_) fun _ =>
    Moves.ite (fun _ => Moves.of_regs rfl) fun _ => Moves.refl _ _
  exact ((Moves.of_wr _ _ _ _).trans (txIdle_moves _ _)).mono (by simp [downFields])

omit hn in
theorem rateChanged_kept {old : Nat} (h : s.rd Reg.Lane.RATE n = old ∨ s.rd Reg.Lane.STATE n = 1 ∨ s.rd Reg.Lane.STATE n = 7) :
    rateChanged n old s = s := if_pos h

theorem rateChanged_off {old : Nat} (h0 : s.rd Reg.Lane.RATE n = 0) (ho : old ≠ 0) (h1 : s.rd Reg.Lane.STATE n ≠ 1)
    (h7 : s.rd Reg.Lane.STATE n ≠ 7) : (rateChanged n old s).rd Reg.Lane.STATE n = 0 := by
  unfold rateChanged
  dsimp only
  rw [if_neg (by rintro (h | h | h); exacts [ho (h.symm.trans h0), h1 h, h7 h]), if_pos h0]
  exact laneOff_state hn s

theorem rateChanged_new {old : Nat} (h0 : s.rd Reg.Lane.RATE n ≠ 0) (ho : s.rd Reg.Lane.RATE n ≠ old) :
    (rateChanged n old s).rd Reg.Lane.STATE n = if s.rd Reg.Lane.STATE n = 0 then 1 else s.rd Reg.Lane.STATE n := by
  have hs : Reg.Lane.STATE.has n 0 = true := Lane.field_has hn rfl rfl
  by_cases hc : s.rd Reg.Lane.STATE n = 1 ∨ s.rd Reg.Lane.STATE n = 7
  · rw [rateChanged_kept s (.inr hc), if_neg (by omega)]
  have hne : ¬ (s.rd Reg.Lane.RATE n = old ∨ s.laneState n = lsCOLD ∨ s.laneState n = lsREFFAULT) := not_or.mpr ⟨ho, hc⟩
  unfold rateChanged
  dsimp only
  rw [if_neg hne, if_neg h0]
  by_cases h : s.rd Reg.Lane.STATE n = 0
  · rw [if_pos (show s.laneState n = lsOFF from h), if_pos h, (txIdle_moves _ _).rd rfl hs, State.rd_wr_same _ rfl _ hs]
    rfl
  · rw [if_neg (show ¬ s.laneState n = lsOFF from h), if_neg h]
    split <;> rfl

end

theorem rateOk_iff (r v : Nat) : rateOk r v = true ↔ v = 0 ∨ v ∈ (if r = 0 then [1, 2, 4, 6] else [3, 5]) := by
  unfold rateOk
  split <;> simp

/-- The settings of a payload for SLA.CFG are in range. -/
def CfgOk (a : XArgs) (s : State) : Prop :=
  let v := fun f => blockVal laneBase a s f a.i
  a.ws.length ≤ 3 ∧ inRange (v Reg.Lane.RELOCK) 10 10000 ∧ inRange (v Reg.Lane.TAPTO) 1 1000 ∧
    v Reg.Lane.CTLEMIN ≤ v Reg.Lane.CTLEMAX ∧ v Reg.Lane.FEPREMIN ≤ v Reg.Lane.FEPREMAX ∧
    v Reg.Lane.FEMAINMIN ≤ v Reg.Lane.FEMAINMAX ∧ v Reg.Lane.FEPOSTMIN ≤ v Reg.Lane.FEPOSTMAX ∧
    (v Reg.Lane.RATE = 0 ∨ v Reg.Lane.RATE ∈ (if s.rd Reg.LaneGroup.REFSEL (a.i / 16) = 0 then [1, 2, 4, 6] else [3, 5]))

/-- They would move what an assigned lane must keep. -/
def CfgMoves (a : XArgs) (s : State) : Prop :=
  let v := fun f => blockVal laneBase a s f a.i
  s.on Reg.Lane.ASSIGNED a.i = true ∧ (v Reg.Lane.RATE ≠ s.rd Reg.Lane.RATE a.i ∨ v Reg.Lane.RXINV ≠ s.rd Reg.Lane.RXINV a.i ∨
    v Reg.Lane.TXINV ≠ s.rd Reg.Lane.TXINV a.i)

theorem cfgOk_iff (a : XArgs) (s : State) : CfgOk a s ↔ ¬ (3 < a.ws.length ∨ (!slaCfgOk a s) = true) := by
  have hr := rateOk_iff (s.rd Reg.LaneGroup.REFSEL (a.i / 16)) (blockVal laneBase a s Reg.Lane.RATE a.i)
  unfold CfgOk slaCfgOk
  simp only [← hr, not_or, Bool.not_eq_true', Bool.not_eq_false, Bool.and_eq_true, decide_eq_true_eq, Nat.not_lt, and_assoc]

theorem cfgMoves_iff (a : XArgs) (s : State) : CfgMoves a s ↔ (s.on Reg.Lane.ASSIGNED a.i && (blockVal laneBase a s Reg.Lane.RATE a.i != s.rd Reg.Lane.RATE a.i ||
    blockVal laneBase a s Reg.Lane.RXINV a.i != s.rd Reg.Lane.RXINV a.i || blockVal laneBase a s Reg.Lane.TXINV a.i != s.rd Reg.Lane.TXINV a.i)) = true := by
  unfold CfgMoves
  simp only [Bool.and_eq_true, Bool.or_eq_true, bne_iff_ne, or_assoc]

/-- The state that SLA.CFG leaves. -/
def cfgState (a : XArgs) (s : State) : State :=
  rateChanged a.i (s.rd Reg.Lane.RATE a.i) (applyBounds a.i (blockWrite laneBase a a.i 0 slaCfgFields s))

theorem cfgState_only (a : XArgs) (s : State) : Only (laneParts a.i) s (cfgState a s) :=
  rateChanged_law laneParts_law (Has.covers rfl) (laneParts_lane _) (applyBounds_law laneParts_law (Has.covers rfl) (laneParts_lane _)
    (laneParts_law.blockWriteAt (B := []) (Has.covers rfl) (laneParts_lane _) rfl (Frame.refl _ _)))

section
variable {a : XArgs} (hi : a.i < 256) (s : State)
include hi

/-- Before a new RATE takes effect, every setting holds its value. -/
theorem cfgSettings {f : Field} (hf : f ∈ slaCfgFields) :
    (applyBounds a.i (blockWrite laneBase a a.i 0 slaCfgFields s)).rd f a.i = blockVal laneBase a s f a.i := by
  have h : ∀ f ∈ slaCfgFields, ((Reg.Lane.CTLE :: heldFields ++ dfeTap1 :: heldFields).all fun g => g.apart f) = true := by decide
  exact ((applyBounds_moves _ _).rd (h f hf) (slaCfgFields_has hi f hf).2).trans (blockWrite_rd slaCfgFields_apart (slaCfgFields_has hi) s hf)

theorem cfgState_settings : ∀ f ∈ slaCfgFields, (cfgState a s).rd f a.i = blockVal laneBase a s f a.i := by
  have h : ∀ f ∈ slaCfgFields, ((prbsFields ++ (downFields ++ grantFields)).all fun g => g.apart f) = true := by decide
  intro f hf
  exact ((rateChanged_moves _ _ _).rd (h f hf) (slaCfgFields_has hi f hf).2).trans (cfgSettings hi s hf)

theorem cfgState_ctle : (cfgState a s).rd Reg.Lane.CTLE a.i = (if (blockVal laneBase a s Reg.Lane.PIN a.i).testBit 3 then s.rd Reg.Lane.CTLE a.i
    else max (blockVal laneBase a s Reg.Lane.CTLEMIN a.i) (min (s.rd Reg.Lane.CTLE a.i) (blockVal laneBase a s Reg.Lane.CTLEMAX a.i))) := by
  have hc : Reg.Lane.CTLE.has a.i 0 = true := Lane.field_has hi rfl rfl
  have hb : ∀ f : Field, f ∈ slaCfgFields → (blockWrite laneBase a a.i 0 slaCfgFields s).rd f a.i = blockVal laneBase a s f a.i :=
    fun _ hf => blockWrite_rd slaCfgFields_apart (slaCfgFields_has hi) s hf
  refine ((rateChanged_moves _ _ _).rd rfl hc).trans ((applyBounds_ctle _ hi).trans ?_)
  unfold adaptCtle
  rw [hb Reg.Lane.PIN (by simp [slaCfgFields]), hb Reg.Lane.CTLEMIN (by simp [slaCfgFields]), hb Reg.Lane.CTLEMAX (by simp [slaCfgFields]),
    (blockWrite_moves _ _).rd rfl hc]

theorem cfgState_dfe : (cfgState a s).rd2 Reg.Lane.DFETAP a.i 7 = low 7 (clampI (-(blockVal laneBase a s Reg.Lane.DFE1MAX a.i : Int))
    (blockVal laneBase a s Reg.Lane.DFE1MAX a.i) (signed 7 (s.rd2 Reg.Lane.DFETAP a.i 7))) := by
  have hd : dfeTap1.has a.i 0 = true := Lane.field_has hi rfl rfl
  have hb : (blockWrite laneBase a a.i 0 slaCfgFields s).rd Reg.Lane.DFE1MAX a.i = blockVal laneBase a s Reg.Lane.DFE1MAX a.i :=
    blockWrite_rd slaCfgFields_apart (slaCfgFields_has hi) s (by simp [slaCfgFields])
  refine ((rateChanged_moves _ _ _).rd (f := dfeTap1) rfl hd).trans ((applyBounds_dfe _ hi).trans ?_)
  unfold dfeBound
  rw [hb, rd_dfeTap1, (blockWrite_moves _ _).rd rfl hd, rd_dfeTap1]

/-- STATE until a new RATE takes effect. -/
theorem cfgBounded_state : (applyBounds a.i (blockWrite laneBase a a.i 0 slaCfgFields s)).rd Reg.Lane.STATE a.i = s.rd Reg.Lane.STATE a.i := by
  have hs : Reg.Lane.STATE.has a.i 0 = true := Lane.field_has hi rfl rfl
  rw [(applyBounds_moves _ _).rd rfl hs, (blockWrite_moves _ _).rd rfl hs]

theorem cfgState_kept (h : blockVal laneBase a s Reg.Lane.RATE a.i = s.rd Reg.Lane.RATE a.i ∨ s.rd Reg.Lane.STATE a.i = 1 ∨ s.rd Reg.Lane.STATE a.i = 7) :
    (cfgState a s).rd Reg.Lane.STATE a.i = s.rd Reg.Lane.STATE a.i := by
  have hb := cfgBounded_state hi s
  unfold cfgState
  rw [rateChanged_kept _ (by rw [hb, cfgSettings hi s (by simp [slaCfgFields])]; exact h), hb]

theorem cfgState_off (h0 : blockVal laneBase a s Reg.Lane.RATE a.i = 0) (ho : s.rd Reg.Lane.RATE a.i ≠ 0) (h1 : s.rd Reg.Lane.STATE a.i ≠ 1)
    (h7 : s.rd Reg.Lane.STATE a.i ≠ 7) : (cfgState a s).rd Reg.Lane.STATE a.i = 0 := by
  have hb := cfgBounded_state hi s
  exact rateChanged_off _ hi ((cfgSettings hi s (by simp [slaCfgFields])).trans h0) ho (by rw [hb]; exact h1) (by rw [hb]; exact h7)

theorem cfgState_new (h0 : blockVal laneBase a s Reg.Lane.RATE a.i ≠ 0) (ho : blockVal laneBase a s Reg.Lane.RATE a.i ≠ s.rd Reg.Lane.RATE a.i) :
    (cfgState a s).rd Reg.Lane.STATE a.i = if s.rd Reg.Lane.STATE a.i = 0 then 1 else s.rd Reg.Lane.STATE a.i := by
  have hr := cfgSettings hi s (f := Reg.Lane.RATE) (by simp [slaCfgFields])
  have hb := cfgBounded_state hi s
  refine (rateChanged_new _ hi (by rw [hr]; exact h0) (by rw [hr]; exact ho)).trans ?_
  rw [hb]

end

/-! ### SLA.POWER -/

/-- What a lane that follows its power bits moves. -/
def powerFields : List Field := [Reg.Lane.ESTATE, Reg.Lane.EVCAUSE, Reg.Lane.FENORESP] ++ (prbsFields ++ (downFields ++ grantFields))

section
variable (n : Nat) (s : State)

theorem resume_moves (x : Lane) : Moves powerFields s ((trainFrom n 3 s).setLane n x) :=
  ((trainFrom_moves n s 3).mono (by simp [powerFields, prbsFields, downFields])).setLane n x

theorem applyPower_moves : Moves powerFields s (applyPower n s) := by
  have hidle : ∀ {t : State}, Moves powerFields t (txIdle n t) := (txIdle_moves n _).mono (by simp [powerFields, downFields])
  unfold applyPower
  refine Moves.ite (fun _ => Moves.ite (fun _ => Moves.of_regs rfl) fun _ => ?_) fun _ => Moves.ite (fun _ => ?_) fun _ =>
    Moves.ite (fun _ => Moves.ite (fun _ => hidle) fun _ => ?_) fun _ => Moves.ite (fun _ => resume_moves _ _ _) fun _ => hidle
  · exact (goCold_moves n s).mono (by simp [powerFields, prbsFields, downFields, grantFields])
  · exact ((wake_moves n s).mono (by simp [powerFields, grantFields])).step hidle
  · exact (rxSleep_moves n s).mono (by simp [powerFields, prbsFields, downFields])

variable {n s} (hn : n < 256)

theorem applyPower_goesCold (hn : n < 256) (hc : s.on Reg.Lane.COLD n = true) (h7 : s.rd Reg.Lane.STATE n ≠ 7) :
    (applyPower n s).rd Reg.Lane.STATE n = 1 := by
  unfold applyPower
  rw [if_pos hc, if_neg (show ¬ s.laneState n = lsREFFAULT from h7)]
  exact goCold_state hn s

section
variable (hc : s.on Reg.Lane.COLD n = false)
include hn hc

theorem applyPower_waits (h : s.rd Reg.Lane.STATE n = 1 ∨ s.rd Reg.Lane.STATE n = 7) :
    (applyPower n s).rd Reg.Lane.STATE n = s.rd Reg.Lane.STATE n := by
  have hs : Reg.Lane.STATE.has n 0 = true := Lane.field_has hn rfl rfl
  unfold applyPower
  rw [if_neg (by rw [hc]; decide), if_pos (show s.laneState n = lsCOLD ∨ s.laneState n = lsREFFAULT from h), (txIdle_moves _ _).rd rfl hs,
    (wake_moves _ _).rd rfl hs]

theorem applyPower_sleeps (h0 : s.rd Reg.Lane.STATE n ≠ 0) (h1 : s.rd Reg.Lane.STATE n ≠ 1) (h7 : s.rd Reg.Lane.STATE n ≠ 7)
    (hr : s.on Reg.Lane.RXSLEEP n = true) : (applyPower n s).rd Reg.Lane.STATE n = 5 := by
  have hs : Reg.Lane.STATE.has n 0 = true := Lane.field_has hn rfl rfl
  unfold applyPower
  rw [if_neg (by rw [hc]; decide), if_neg (show ¬ (s.laneState n = lsCOLD ∨ s.laneState n = lsREFFAULT) from not_or.mpr ⟨h1, h7⟩), if_pos hr]
  split
  · next h => exact ((txIdle_moves _ _).rd rfl hs).trans (h.resolve_right h0)
  · exact rxSleep_state hn s

theorem applyPower_wakes (h5 : s.rd Reg.Lane.STATE n = 5) (hr : s.on Reg.Lane.RXSLEEP n = false) :
    (applyPower n s).rd Reg.Lane.STATE n = 2 := by
  have h1 : ¬ (s.laneState n = lsCOLD ∨ s.laneState n = lsREFFAULT) := by
    rw [show s.laneState n = 5 from h5]
    decide
  unfold applyPower
  rw [if_neg (by rw [hc]; decide), if_neg h1, if_neg (by rw [hr]; decide), if_pos (show s.laneState n = lsRXSLEEP from h5)]
  exact trainFrom_state hn s 3

end
end

/-- A word of the heads' blocks is none that an operation on a lane changes. -/
theorem headWord_kept {a : Nat} (h1 : 0x20020000 ≤ a) (h2 : a < 0x20030000) (i : Nat) : ¬ Covers (laneParts i) (partOf a) := by
  have hg : groupOf a = 2 := by
    unfold groupOf
    rw [if_pos (by omega)]
    omega
  unfold partOf
  rw [hg]
  split
  · next k hk =>
    have hm : k ∈ [Arr.head, Arr.strips, Arr.eslHead] := List.mem_of_find?_eq_some hk
    rintro (hc | hc) <;> simp [laneParts] at hc
    rw [hc.1] at hm
    simp at hm
  · intro hc
    have : Part.grp 2 ∈ laneParts i := hc
    simp [laneParts] at this

theorem findSome?_ext {α β : Type} {f g : α → Option β} {l : List α} (h : ∀ a ∈ l, f a = g a) : l.findSome? f = l.findSome? g := by
  induction l with
  | nil => rfl
  | cons a l ih => rw [List.findSome?_cons, List.findSome?_cons, h a (by simp), ih fun b hb => h b (by simp [hb])]

/-- The bonding of a lane lies in the heads' blocks. -/
theorem bondOf_kept {i : Nat} {s t : State} (h : Only (laneParts i) s t) (n : Nat) : bondOf t n = bondOf s n := by
  have hb : t.bonded = s.bonded := Frame.bonded h (by simp [Covers, laneParts])
  unfold bondOf
  refine findSome?_ext fun h' hh => ?_
  have hh : h' < 32 := List.mem_range.mp hh
  have hl : t.rd Reg.Head.LANES h' = s.rd Reg.Head.LANES h' := h.rd_off rfl (Field.has_lt hh (by decide))
  have hk : ∀ k, k < 2 ^ s.rd Reg.Head.LANES h' → t.rd2 Reg.Head.LANEMAP h' k = s.rd2 Reg.Head.LANEMAP h' k := by
    intro k hk
    have hw : 2 ^ s.rd Reg.Head.LANES h' ≤ 2 ^ 7 := Nat.pow_le_pow_right (by decide) (Nat.le_of_lt_succ (s.rd_lt Reg.Head.LANES h'))
    have hword : Reg.Head.LANEMAP.word h' k = 0x20020008 + 0x80 * h' + 8 * (k * 8 / 64) := rfl
    exact Frame.rd2 h (headWord_kept (by omega) (by omega) i)
  rw [hb, hl]
  split
  · exact congrArg _ (List.find?_congr fun k hk' => by rw [hk k (List.mem_range.mp hk')])
  · rfl

theorem wakeTapsOf_idle {n : Nat} {s : State} (h : ¬ ∃ h, bondOf s n = some (h, 0)) : wakeTapsOf n s = s := by
  unfold wakeTapsOf
  split
  · next hb => exact absurd ⟨_, hb⟩ h
  · rfl

theorem b2n_bit (b : Bool) : b2n b % 2 ^ 1 = b2n b := by cases b <;> rfl

section
variable (a : XArgs) (s : State)

/-- SLA.POWER asks an assigned lane for what it must not do. -/
def PowerBusy : Prop := s.on Reg.Lane.ASSIGNED a.i = true ∧
  (a.arg.testBit 1 = true ∨ a.arg.testBit 0 = true ∨ (a.arg.testBit 2 = true ∧ s.on Reg.Lane.MASTER a.i = true))

theorem powerBusy_iff : PowerBusy a s ↔ (s.on Reg.Lane.ASSIGNED a.i && (a.arg.testBit 1 || a.arg.testBit 0 || (a.arg.testBit 2 && s.on Reg.Lane.MASTER a.i))) = true := by
  unfold PowerBusy
  simp only [Bool.and_eq_true, Bool.or_eq_true, or_assoc]

/-- Transmitter sleep as SLA.POWER stores it: kept with the lanes of a running head that are not its master. -/
def txSleepOf : Bool := a.arg.testBit 2 || (s.on Reg.Lane.ASSIGNED a.i && !s.on Reg.Lane.MASTER a.i)

/-- The sleep bits stored. -/
def powerStored : State :=
  s.wrAll a.i [(Reg.Lane.TXSLEEP, b2n (txSleepOf a s)), (Reg.Lane.RXSLEEP, b2n (a.arg.testBit 1)), (Reg.Lane.COLD, b2n (a.arg.testBit 0))]

theorem powered_only : Only (laneParts a.i) s (applyPower a.i (powerStored a s)) :=
  applyPower_law laneParts_law (Has.covers rfl) (laneParts_lane _)
    (laneParts_law.wrAllAt (B := []) (Has.covers rfl) (laneParts_lane _) rfl (Frame.refl _ _))

variable {a} (hi : a.i < 256)
include hi

theorem powerStored_bits : (powerStored a s).rd Reg.Lane.TXSLEEP a.i = b2n (txSleepOf a s) ∧ (powerStored a s).rd Reg.Lane.RXSLEEP a.i = b2n (a.arg.testBit 1) ∧
    (powerStored a s).rd Reg.Lane.COLD a.i = b2n (a.arg.testBit 0) ∧ (powerStored a s).rd Reg.Lane.STATE a.i = s.rd Reg.Lane.STATE a.i := by
  refine ⟨?_, ?_, ?_, ?_⟩
  · exact (State.rd_wrAll_head s _ _ _ rfl (Lane.field_has hi rfl rfl) rfl).trans (b2n_bit _)
  · exact (State.rd_wrAll_head (s.wr _ _ _) _ _ _ rfl (Lane.field_has hi rfl rfl) rfl).trans (b2n_bit _)
  · exact (State.rd_wrAll_head ((s.wr _ _ _).wr _ _ _) _ _ _ rfl (Lane.field_has hi rfl rfl) rfl).trans (b2n_bit _)
  · exact (Moves.of_wrAll _ _ _).rd rfl (Lane.field_has hi rfl rfl)

/-- What SLA.POWER leaves: the sleep bits, and STATE. -/
theorem powered_leaves {t : State} (ht : ∀ {f : Field}, f.n1 = 256 → f.n2 = 1 → f.off doneParts = true → (heldFields.all fun g => g.apart f) = true →
      t.rd f a.i = (applyPower a.i (powerStored a s)).rd f a.i) :
    t.rd Reg.Lane.TXSLEEP a.i = b2n (txSleepOf a s) ∧ t.rd Reg.Lane.RXSLEEP a.i = b2n (a.arg.testBit 1) ∧
      t.rd Reg.Lane.COLD a.i = b2n (a.arg.testBit 0) ∧
      (b2n (a.arg.testBit 0) = 1 → s.rd Reg.Lane.STATE a.i ≠ 7 → t.rd Reg.Lane.STATE a.i = 1) ∧
      (b2n (a.arg.testBit 0) = 0 → s.rd Reg.Lane.STATE a.i = 1 ∨ s.rd Reg.Lane.STATE a.i = 7 → t.rd Reg.Lane.STATE a.i = s.rd Reg.Lane.STATE a.i) ∧
      (b2n (a.arg.testBit 0) = 0 → s.rd Reg.Lane.STATE a.i ≠ 0 → s.rd Reg.Lane.STATE a.i ≠ 1 → s.rd Reg.Lane.STATE a.i ≠ 7 →
        b2n (a.arg.testBit 1) = 1 → t.rd Reg.Lane.STATE a.i = 5) ∧
      (b2n (a.arg.testBit 0) = 0 → b2n (a.arg.testBit 1) = 0 → s.rd Reg.Lane.STATE a.i = 5 → t.rd Reg.Lane.STATE a.i = 2) := by
  obtain ⟨h1, h2, h3, h4⟩ := powerStored_bits s hi
  have hm := applyPower_moves a.i (powerStored a s)
  have hcold : ∀ {b : Nat}, b2n (a.arg.testBit 0) = b → (powerStored a s).on Reg.Lane.COLD a.i = (b != 0) := fun h => by rw [State.on, h3, h]
  have hrx : ∀ {b : Nat}, b2n (a.arg.testBit 1) = b → (powerStored a s).on Reg.Lane.RXSLEEP a.i = (b != 0) := fun h => by rw [State.on, h2, h]
  rw [ht rfl rfl rfl rfl, ht rfl rfl rfl rfl, ht rfl rfl rfl rfl, ht rfl rfl rfl rfl, ← h4, hm.rd rfl (Lane.field_has hi rfl rfl), hm.rd rfl (Lane.field_has hi rfl rfl),
    hm.rd rfl (Lane.field_has hi rfl rfl)]
  exact ⟨h1, h2, h3, fun h => applyPower_goesCold hi (hcold h), fun h => applyPower_waits hi (hcold h),
    fun h k0 k1 k7 hr => applyPower_sleeps hi (hcold h) k0 k1 k7 (hrx hr), fun h hr h5 => applyPower_wakes hi (hcold h) h5 (hrx hr)⟩

end

/-! ### SLA.TRAIN -/

section
variable {n : Nat} (hn : n < 256) (s : State)
include hn

/-- A lane's patterns are off. -/
def PrbsOff (n : Nat) (s : State) : Prop := s.rd Reg.Lane.PRBSGEN n = 0 ∧ s.rd Reg.Lane.PRBSCHK n = 0

theorem stopPrbs_off : PrbsOff n (stopPrbs n s) :=
  ⟨State.rd_wrAll_head s _ _ _ rfl (Lane.field_has hn rfl rfl) rfl, State.rd_wrAll_head (s.wr _ _ _) _ _ _ rfl (Lane.field_has hn rfl rfl) rfl⟩

theorem leavePrbs_off {s : State} (h : PrbsOff n s) : PrbsOff n (leavePrbs n s) := by
  unfold leavePrbs
  split
  · exact stopPrbs_off hn s
  · exact h

theorem PrbsOff.moves {l : List Field} {s t : State} (h : PrbsOff n s) (hm : Moves l s t) (hg : (l.all fun g => g.apart Reg.Lane.PRBSGEN) = true)
    (hc : (l.all fun g => g.apart Reg.Lane.PRBSCHK) = true) : PrbsOff n t :=
  ⟨(hm.rd hg (Lane.field_has hn rfl rfl)).trans h.1, (hm.rd hc (Lane.field_has hn rfl rfl)).trans h.2⟩

/-- What training moves of a lane whose patterns are off. -/
theorem trainFrom_off {s : State} (h : PrbsOff n s) (k : Nat) : PrbsOff n (trainFrom n k s) := by
  unfold trainFrom
  dsimp only
  exact (leavePrbs_off hn h).moves hn ((((Moves.refl [] _).setLane _ _).wrAll _ _).trans (txIdle_moves _ _)) rfl rfl

theorem laneOff_off {s : State} (h : PrbsOff n s) : PrbsOff n (laneOff n s) := by
  unfold laneOff
  exact (leavePrbs_off hn h).moves hn ((down_moves _ _ _ _).trans (giveLane_moves _ _)) rfl rfl

/-- The lane that SLA.TRAIN starts: not COLD, awake, without patterns. -/
def trainReady (n : Nat) (s : State) : State :=
  let t := stopPrbs n (s.wrAll n [(Reg.Lane.COLD, 0), (Reg.Lane.RXSLEEP, 0)])
  t.setLane n { t.lane n with retained := false, short := false }

omit hn in
theorem startTrain_eq (n : Nat) : startTrain n s = if (trainReady n s).rd Reg.Lane.STATE n = 1 ∨ (trainReady n s).rd Reg.Lane.STATE n = 7
    then wake n (trainReady n s) else trainFrom n 1 (trainReady n s) := rfl

omit hn in
theorem trainReady_moves (n : Nat) : Moves ([Reg.Lane.COLD, Reg.Lane.RXSLEEP] ++ prbsFields) s (trainReady n s) := by
  unfold trainReady
  exact ((Moves.of_wrAll n _ s).trans (stopPrbs_moves n _)).setLane _ _

theorem trainReady_clear : (trainReady n s).rd Reg.Lane.COLD n = 0 ∧ (trainReady n s).rd Reg.Lane.RXSLEEP n = 0 ∧ PrbsOff n (trainReady n s) := by
  refine ⟨?_, ?_, stopPrbs_off hn _⟩
  · exact ((stopPrbs_moves _ _).rd rfl (Lane.field_has hn rfl rfl)).trans (State.rd_wrAll_head s _ _ _ rfl (Lane.field_has hn rfl rfl) rfl)
  · exact ((stopPrbs_moves _ _).rd rfl (Lane.field_has hn rfl rfl)).trans
      (State.rd_wrAll_head (s.wr _ _ _) _ _ _ rfl (Lane.field_has hn rfl rfl) rfl)

theorem startTrain_clears : (startTrain n s).rd Reg.Lane.COLD n = 0 ∧ (startTrain n s).rd Reg.Lane.RXSLEEP n = 0 ∧ PrbsOff n (startTrain n s) := by
  obtain ⟨h1, h2, h3⟩ := trainReady_clear hn s
  have hc : Reg.Lane.COLD.has n 0 = true := Lane.field_has hn rfl rfl
  have hr : Reg.Lane.RXSLEEP.has n 0 = true := Lane.field_has hn rfl rfl
  rw [startTrain_eq]
  split
  · exact ⟨((wake_moves _ _).rd rfl hc).trans h1, ((wake_moves _ _).rd rfl hr).trans h2, h3.moves hn (wake_moves _ _) rfl rfl⟩
  · exact ⟨((trainFrom_moves _ _ _).rd rfl hc).trans h1, ((trainFrom_moves _ _ _).rd rfl hr).trans h2, trainFrom_off hn h3 1⟩

theorem startTrain_trains (h1 : s.rd Reg.Lane.STATE n ≠ 1) (h7 : s.rd Reg.Lane.STATE n ≠ 7) :
    (startTrain n s).rd Reg.Lane.STATE n = 2 ∧ ((startTrain n s).lane n).step = 1 := by
  have hs : (trainReady n s).rd Reg.Lane.STATE n = s.rd Reg.Lane.STATE n := (trainReady_moves s n).rd rfl (Lane.field_has hn rfl rfl)
  rw [startTrain_eq, if_neg (by rw [hs]; exact not_or.mpr ⟨h1, h7⟩)]
  exact ⟨trainFrom_state hn _ 1, trainFrom_step _ 1⟩

end

/-! ### SLA.PRBS -/

section
variable (a : XArgs) (s : State)

/-- The selection of SLA.PRBS stored. -/
def prbsStored : State := s.wrAll a.i [(Reg.Lane.PRBSGEN, a.arg % 8), (Reg.Lane.PRBSCHK, a.arg / 16 % 8)]

/-- The state that SLA.PRBS leaves. -/
def prbsState : State :=
  if [lsOFF, lsCOLD, lsREFFAULT].contains (s.laneState a.i) then prbsStored a s
  else if prbsOn (prbsStored a s) a.i then startPrbs a.i (prbsStored a s)
  else if (prbsStored a s).laneState a.i = lsPRBS then
    if (prbsStored a s).rd Reg.Lane.RATE a.i = 0 then laneOff a.i (prbsStored a s) else trainFrom a.i 3 (prbsStored a s)
  else prbsStored a s

theorem prbsState_only : Only (laneParts a.i) s (prbsState a s) := by
  have h : Only (laneParts a.i) s (prbsStored a s) := laneParts_law.wrAllAt (B := []) (Has.covers rfl) (laneParts_lane _) rfl (Frame.refl _ _)
  exact Law.ite h (Law.ite (startPrbs_law laneParts_law (Has.covers rfl) (laneParts_lane _) h) (Law.ite (Law.ite
    (laneOff_law laneParts_law (Has.covers rfl) (laneParts_lane _) h) (trainFrom_law laneParts_law (Has.covers rfl) (laneParts_lane _) h)) h))

variable {a} (hi : a.i < 256)
include hi

omit hi in
/-- A pattern starts with its checker not in step and, where one runs, its counters cleared. -/
theorem startPrbs_counters {n : Nat} (hn : n < 256) : (startPrbs n s).rd Reg.Lane.PRBSSYNC n = 0 ∧
    (s.rd Reg.Lane.PRBSCHK n ≠ 0 → (startPrbs n s).rd Reg.Lane.PRBSBITS n = 0 ∧ (startPrbs n s).rd Reg.Lane.PRBSERRS n = 0) := by
  have hi : ∀ {f : Field}, f.n1 = 256 → f.n2 = 1 → f.has n 0 = true := Lane.field_has hn
  have hlast : ∀ t, Moves downFields t (txIdle n (t.wr Reg.Lane.STATE n lsPRBS)) := fun t => (Moves.of_wr _ _ _ t).trans (txIdle_moves _ _)
  have hchk : (scanAbort n s).on Reg.Lane.PRBSCHK n = s.on Reg.Lane.PRBSCHK n := (scanAbort_moves n s).on rfl (hi rfl rfl)
  unfold startPrbs
  dsimp only
  rw [(hlast _).rd rfl (hi rfl rfl), (hlast _).rd rfl (hi rfl rfl), (hlast _).rd rfl (hi rfl rfl), State.setLane_on, hchk]
  by_cases hc : s.on Reg.Lane.PRBSCHK n = true
  · rw [if_pos hc]
    refine ⟨?_, fun _ => ⟨?_, ?_⟩⟩
    · exact State.rd_wrAll_head ((State.wr _ _ _ _).wr _ _ _) _ _ _ rfl (hi rfl rfl) rfl
    · exact State.rd_wrAll_head _ _ _ _ rfl (hi rfl rfl) rfl
    · exact State.rd_wrAll_head (State.wr _ _ _ _) _ _ _ rfl (hi rfl rfl) rfl
  · rw [if_neg hc]
    exact ⟨State.rd_wr_same _ rfl _ (hi rfl rfl), fun h => absurd (by simpa [State.on] using h) hc⟩

theorem prbsStored_bits (hg : a.arg % 8 ≤ 4) (hc : a.arg / 16 % 8 ≤ 4) : (prbsStored a s).rd Reg.Lane.PRBSGEN a.i = a.arg % 8 ∧
    (prbsStored a s).rd Reg.Lane.PRBSCHK a.i = a.arg / 16 % 8 ∧ (prbsStored a s).rd Reg.Lane.STATE a.i = s.rd Reg.Lane.STATE a.i ∧
    (prbsStored a s).rd Reg.Lane.RATE a.i = s.rd Reg.Lane.RATE a.i := by
  refine ⟨?_, ?_, (Moves.of_wrAll _ _ _).rd rfl (Lane.field_has hi rfl rfl), (Moves.of_wrAll _ _ _).rd rfl (Lane.field_has hi rfl rfl)⟩
  · exact (State.rd_wrAll_head s _ _ _ rfl (Lane.field_has hi rfl rfl) rfl).trans (Nat.mod_eq_of_lt (show _ < 8 by omega))
  · exact (State.rd_wrAll_head (s.wr _ _ _) _ _ _ rfl (Lane.field_has hi rfl rfl) rfl).trans (Nat.mod_eq_of_lt (show _ < 8 by omega))

omit hi in
/-- A lane that is off, COLD or without reference keeps the selection. -/
theorem prbsState_keeps (h : s.rd Reg.Lane.STATE a.i ∈ [0, 1, 7]) : prbsState a s = prbsStored a s :=
  if_pos (List.contains_iff_mem.mpr h)

omit hi in
theorem prbsState_up (h : s.rd Reg.Lane.STATE a.i ∉ [0, 1, 7]) : prbsState a s =
    if prbsOn (prbsStored a s) a.i then startPrbs a.i (prbsStored a s)
    else if (prbsStored a s).rd Reg.Lane.STATE a.i = 6 then
      if (prbsStored a s).rd Reg.Lane.RATE a.i = 0 then laneOff a.i (prbsStored a s) else trainFrom a.i 3 (prbsStored a s)
    else prbsStored a s := if_neg fun hm => h (List.contains_iff_mem.mp hm)

section
variable {s} (hg : a.arg % 8 ≤ 4) (hc : a.arg / 16 % 8 ≤ 4) (hst : s.rd Reg.Lane.STATE a.i ∉ [0, 1, 7])
include hg hc hst

theorem prbsState_runs (h : a.arg / 16 % 8 ≠ 0 ∨ a.arg % 8 ≠ 0) : prbsState a s = startPrbs a.i (prbsStored a s) := by
  obtain ⟨h1, h2, h3, h4⟩ := prbsStored_bits s hi hg hc
  have hon : prbsOn (prbsStored a s) a.i = true := by
    unfold prbsOn State.on
    rw [h1, h2]
    simpa using h.symm
  rw [prbsState_up s hst, if_pos hon]

theorem prbsState_stops (h1 : a.arg / 16 % 8 = 0) (h2 : a.arg % 8 = 0) : prbsState a s =
    if s.rd Reg.Lane.STATE a.i = 6 then if s.rd Reg.Lane.RATE a.i = 0 then laneOff a.i (prbsStored a s) else trainFrom a.i 3 (prbsStored a s)
    else prbsStored a s := by
  obtain ⟨k1, k2, k3, k4⟩ := prbsStored_bits s hi hg hc
  have hon : ¬ prbsOn (prbsStored a s) a.i = true := by
    unfold prbsOn State.on
    rw [k1, k2, h1, h2]
    decide
  rw [prbsState_up s hst, if_neg hon, k3, k4]

end

/-- The selection stands whatever the lane makes of it. -/
theorem prbsState_selects (hg : a.arg % 8 ≤ 4) (hc : a.arg / 16 % 8 ≤ 4) : (prbsState a s).rd Reg.Lane.PRBSGEN a.i = a.arg % 8 ∧
    (prbsState a s).rd Reg.Lane.PRBSCHK a.i = a.arg / 16 % 8 := by
  obtain ⟨k1, k2, k3, k4⟩ := prbsStored_bits s hi hg hc
  by_cases hst : s.rd Reg.Lane.STATE a.i ∈ [0, 1, 7]
  · rw [prbsState_keeps s hst]
    exact ⟨k1, k2⟩
  by_cases h : a.arg / 16 % 8 = 0 ∧ a.arg % 8 = 0
  · obtain ⟨hc0, hg0⟩ := h
    have hoff : PrbsOff a.i (prbsStored a s) := ⟨k1.trans hg0, k2.trans hc0⟩
    rw [prbsState_stops hi hg hc hst hc0 hg0, hg0, hc0]
    split
    · split
      · exact laneOff_off hi hoff
      · exact trainFrom_off hi hoff 3
    · exact hoff
  · rw [prbsState_runs hi hg hc hst (by omega)]
    exact ⟨((startPrbs_moves _ _).rd rfl (Lane.field_has hi rfl rfl)).trans k1, ((startPrbs_moves _ _).rd rfl (Lane.field_has hi rfl rfl)).trans k2⟩

end

/-! ### SLA.EYESCAN -/

/-- A cause that a lane sets stands in EVCAUSE. -/
theorem laneCause_set {n c : Nat} (s : State) (hn : n < 256) (hc : c < Reg.Lane.EVCAUSE.width) :
    ((laneCause n c s).rd Reg.Lane.EVCAUSE n).testBit c = true := by
  have h : (laneCause n c s).rd Reg.Lane.EVCAUSE n = setBit (s.rd Reg.Lane.EVCAUSE n) c % 2 ^ Reg.Lane.EVCAUSE.width := by
    unfold laneCause
    dsimp only
    rw [State.rd_ite, State.emit_rd, ite_self, State.rd_wr_same _ rfl _ (Lane.field_has hn rfl rfl)]
  rw [h, Nat.testBit_mod_two_pow, setBit, Nat.testBit_or, Nat.testBit_two_pow_self]
  simp [hc]

theorem laneCause_lane (n c : Nat) (s : State) (m : Nat) : (laneCause n c s).lane m = s.lane m :=
  Only.lane (l := [.all .lane, .tokens]) (laneCause_law (Only.of_law rfl) (Has.covers rfl) (.inr (by simp)) (Frame.refl _ _)) (by simp [Covers]) m

section
variable (a : XArgs) (s : State)

/-- The scan of a lane set up. -/
def scanStored : State :=
  (s.wr Reg.Lane.ESTATE a.i 1).setLane a.i { s.lane a.i with
    scanCross := bit (a.w 0) 63
    scanK := bits (a.w 0) 61 56
    scanEmax := bits (a.w 0) 55 48
    scanAddr := bits (a.w 0) 47 0
    scanPoint := 0 }

/-- The state that SLA.EYESCAN leaves. -/
def scanState : State :=
  if [lsRXSLEEP, lsCOLD, lsPRBS].contains (s.laneState a.i) then scanAbort a.i (scanStored a s) else scanStored a s

theorem scanState_only : Only (laneParts a.i) s (scanState a s) := by
  have h : Only (laneParts a.i) s (scanStored a s) := (laneParts_law.wrAt (B := []) (Has.covers rfl) (laneParts_lane _) rfl (Frame.refl _ _)).trans
    (laneParts_law.lanes (by simp [Covers, laneParts]) (Frame.refl _ _))
  exact Law.ite (scanAbort_law laneParts_law (Has.covers rfl) (laneParts_lane _) h) h

/-- A scan on a lane that cannot be scanned ends aborted at once, any other is under way. -/
theorem scanState_leaves (hi : a.i < 256) :
    (scanState a s).rd Reg.Lane.ESTATE a.i = (if s.rd Reg.Lane.STATE a.i ∈ [1, 5, 6] then 3 else 1) ∧
      (s.rd Reg.Lane.STATE a.i ∈ [1, 5, 6] → ((scanState a s).rd Reg.Lane.EVCAUSE a.i).testBit 5 = true) ∧
      (scanState a s).lane a.i = (scanStored a s).lane a.i := by
  have hi' : ∀ {f : Field}, f.n1 = 256 → f.n2 = 1 → f.has a.i 0 = true := Lane.field_has hi
  have he : (scanStored a s).rd Reg.Lane.ESTATE a.i = 1 := State.rd_wr_same _ rfl _ (hi' rfl rfl)
  by_cases h : s.rd Reg.Lane.STATE a.i ∈ [1, 5, 6]
  · have hm : [lsRXSLEEP, lsCOLD, lsPRBS].contains (s.laneState a.i) = true :=
      List.contains_iff_mem.mpr (by simpa [lsRXSLEEP, lsCOLD, lsPRBS, State.laneState, or_left_comm] using h)
    have hs : scanState a s = laneCause a.i 5 ((scanStored a s).wr Reg.Lane.ESTATE a.i 3) := (if_pos hm).trans (if_pos he)
    rw [hs, if_pos h, (laneCause_moves _ _ _).rd rfl (hi' rfl rfl), State.rd_wr_same _ rfl _ (hi' rfl rfl)]
    exact ⟨rfl, fun _ => laneCause_set _ hi (by decide), by rw [laneCause_lane, State.wr_lane]⟩
  · have hm : ¬ [lsRXSLEEP, lsCOLD, lsPRBS].contains (s.laneState a.i) = true := fun hm =>
      h (by simpa [lsRXSLEEP, lsCOLD, lsPRBS, State.laneState, or_left_comm] using List.contains_iff_mem.mp hm)
    have hs : scanState a s = scanStored a s := if_neg hm
    rw [hs, if_neg h]
    exact ⟨he, fun hc => absurd hc h, rfl⟩

end

/-! ### What each operation does -/

theorem laneDone_rd {b t : State} (ht : Only doneParts b t) {i : Nat} (hi : i < 256) {f : Field} (h1 : f.n1 = 256) (h2 : f.n2 = 1)
    (hf : f.off doneParts = true) : t.rd f i = b.rd f i := ht.rd_off hf (Lane.field_has hi h1 h2)

theorem laneDone_lane {b t : State} (ht : Only doneParts b t) (n : Nat) : t.lane n = b.lane n := ht.lane (by simp [Covers, doneParts]) n

section
variable {x : XWord} {s : State} (h : XReady x s)
include h

/-- An operation on a lane that the device does not have. -/
theorem laneOps_none (hi : 256 ≤ (xargs s x).i) :
    ∀ c ∈ [Instr.slaCfg, .slaTxtaps, .slaPower, .slaTrain, .slaPrbs, .slaInject, .slaEyescan],
      ∃ t, exec (c x) s = .next t ∧ XDid 2 [] [] s.seq s t := by
  have hno : ∀ {op : Nat} {f : XArgs → State → Except Nat State}, ∃ t, direct 1 op 256 x f s = .next t ∧ XDid 2 [] [] s.seq s t :=
    direct_no h (.inl ⟨hi, rfl⟩)
  intro c hc
  simp only [List.mem_cons, List.not_mem_nil, or_false] at hc
  rcases hc with rfl | rfl | rfl | rfl | rfl | rfl | rfl
  · rw [exec_slaCfg]; exact hno
  · rw [exec_slaTxtaps]; exact hno
  · rw [exec_slaPower]; exact hno
  · rw [exec_slaTrain]; exact hno
  · rw [exec_slaPrbs]; exact hno
  · rw [exec_slaInject]; exact hno
  · rw [exec_slaEyescan]; exact hno

section
variable (hi : (xargs s x).i < 256)
include hi

theorem slaCfg_bounds (hc : ¬ CfgOk (xargs s x) s) : ∃ t, exec (.slaCfg x) s = .next t ∧ XDid 2 [] [] s.seq s t := by
  rw [exec_slaCfg]
  exact direct_no h (.inr ⟨hi, if_pos (by rwa [cfgOk_iff, not_not] at hc)⟩)

theorem slaCfg_busy (hc : CfgOk (xargs s x) s) (hm : CfgMoves (xargs s x) s) : ∃ t, exec (.slaCfg x) s = .next t ∧ XDid 4 [] [] s.seq s t := by
  rw [exec_slaCfg]
  exact direct_no h (.inr ⟨hi, (if_neg ((cfgOk_iff _ _).mp hc)).trans (if_pos ((cfgMoves_iff _ _).mp hm))⟩)

theorem slaCfg_does (hc : CfgOk (xargs s x) s) (hm : ¬ CfgMoves (xargs s x) s) :
    let a := xargs s x
    let v := fun f => blockVal laneBase a s f a.i
    let st := s.rd Reg.Lane.STATE a.i
    ∃ t, exec (.slaCfg x) s = .next t ∧ XTouched 0 (laneParts a.i) s.seq s t ∧ (∀ f ∈ slaCfgFields, t.rd f a.i = v f) ∧
      t.rd Reg.Lane.CTLE a.i = (if (v Reg.Lane.PIN).testBit 3 then s.rd Reg.Lane.CTLE a.i
        else max (v Reg.Lane.CTLEMIN) (min (s.rd Reg.Lane.CTLE a.i) (v Reg.Lane.CTLEMAX))) ∧
      t.rd2 Reg.Lane.DFETAP a.i 7 = low 7 (clampI (-(v Reg.Lane.DFE1MAX : Int)) (v Reg.Lane.DFE1MAX) (signed 7 (s.rd2 Reg.Lane.DFETAP a.i 7))) ∧
      (v Reg.Lane.RATE = s.rd Reg.Lane.RATE a.i → t.rd Reg.Lane.STATE a.i = st) ∧
      (st = 1 ∨ st = 7 → t.rd Reg.Lane.STATE a.i = st) ∧
      (v Reg.Lane.RATE = 0 → s.rd Reg.Lane.RATE a.i ≠ 0 → st ≠ 1 → st ≠ 7 → t.rd Reg.Lane.STATE a.i = 0) ∧
      (v Reg.Lane.RATE ≠ 0 → v Reg.Lane.RATE ≠ s.rd Reg.Lane.RATE a.i → t.rd Reg.Lane.STATE a.i = if st = 0 then 1 else st) := by
  have hoff : ∀ f ∈ slaCfgFields, f.off doneParts = true := by decide
  rw [exec_slaCfg]
  refine laneOp_touches h hi ((if_neg ((cfgOk_iff _ _).mp hc)).trans (if_neg fun hm' => hm ((cfgMoves_iff _ _).mpr hm'))) (cfgState_only _ s)
    fun t ht => ?_
  have hst : t.rd Reg.Lane.STATE (xargs s x).i = (cfgState (xargs s x) s).rd Reg.Lane.STATE (xargs s x).i := laneDone_rd ht hi rfl rfl rfl
  rw [hst, rd_dfeTap1, laneDone_rd ht hi (f := dfeTap1) rfl rfl rfl, laneDone_rd ht hi (f := Reg.Lane.CTLE) rfl rfl rfl]
  refine ⟨fun f hf => ?_, cfgState_ctle hi s, cfgState_dfe hi s, fun h => cfgState_kept hi s (.inl h), fun h => cfgState_kept hi s (.inr h),
    cfgState_off hi s, cfgState_new hi s⟩
  exact (ht.rd_off (hoff f hf) (slaCfgFields_has hi f hf).2).trans (cfgState_settings hi s f hf)

/-- The transmitter taps of a payload word are in range. -/
def TapsOk (w : Word) : Prop :=
  bits w 23 16 ≤ 12 ∧ 20 ≤ bits w 15 8 ∧ bits w 15 8 ≤ 63 ∧ bits w 7 0 ≤ 24 ∧ bits w 23 16 + bits w 15 8 + bits w 7 0 ≤ 63 ∧
    16 + bits w 23 16 + bits w 7 0 ≤ bits w 15 8

omit h hi in
theorem tapsOk_iff (w : Word) : txTapsOk (bits w 23 16) (bits w 15 8) (bits w 7 0) = true ↔ TapsOk w := by
  unfold txTapsOk inRange TapsOk
  simp only [Bool.and_eq_true, decide_eq_true_eq, Nat.zero_le, true_and, and_assoc]

theorem slaTxtaps_does (hw : TapsOk ((xargs s x).w 0)) : ∃ t, exec (.slaTxtaps x) s = .next t ∧
    XDid 0 [(Reg.Lane.TXPRE, (xargs s x).i, 0, bits ((xargs s x).w 0) 23 16), (Reg.Lane.TXMAIN, (xargs s x).i, 0, bits ((xargs s x).w 0) 15 8),
      (Reg.Lane.TXPOST, (xargs s x).i, 0, bits ((xargs s x).w 0) 7 0)] [] s.seq s t := by
  rw [exec_slaTxtaps]
  refine direct_sets h hi (if_pos ((tapsOk_iff _).mpr hw)) ((Sets.refl [] s).wrAll [(Reg.Lane.TXPRE, bits ((xargs s x).w 0) 23 16),
    (Reg.Lane.TXMAIN, bits ((xargs s x).w 0) 15 8), (Reg.Lane.TXPOST, bits ((xargs s x).w 0) 7 0)] ?_)
  simp only [List.all_cons, List.all_nil, Bool.and_true]
  rw [Lane.field_has hi rfl rfl, Lane.field_has hi rfl rfl, Lane.field_has hi rfl rfl]
  rfl

theorem slaTxtaps_bounds (hw : ¬ TapsOk ((xargs s x).w 0)) : ∃ t, exec (.slaTxtaps x) s = .next t ∧ XDid 2 [] [] s.seq s t := by
  rw [exec_slaTxtaps]
  exact direct_no h (.inr ⟨hi, if_neg fun hc => hw ((tapsOk_iff _).mp hc)⟩)

theorem slaPower_busy (hp : PowerBusy (xargs s x) s) : ∃ t, exec (.slaPower x) s = .next t ∧ XDid 4 [] [] s.seq s t := by
  rw [exec_slaPower]
  exact direct_no h (.inr ⟨hi, if_pos ((powerBusy_iff _ _).mp hp)⟩)

theorem slaPower_alone (hp : ¬ PowerBusy (xargs s x) s) (hm : ¬ ∃ h, bondOf s (xargs s x).i = some (h, 0)) :
    ∃ t, exec (.slaPower x) s = .next t ∧ XTouched 0 (laneParts (xargs s x).i) s.seq s t ∧ True := by
  have hb := powered_only (xargs s x) s
  rw [exec_slaPower]
  refine laneOp_touches h hi (if_neg fun hc => hp ((powerBusy_iff _ _).mpr hc)) ?_ fun _ _ => trivial
  refine (wakeTapsOf_idle ?_).symm ▸ hb
  exact fun ⟨h', hh⟩ => hm ⟨h', (bondOf_kept hb _).symm.trans hh⟩

theorem slaPower_does (hp : ¬ PowerBusy (xargs s x) s) :
    let a := xargs s x
    let b := fun k => b2n (a.arg.testBit k)
    let st := s.rd Reg.Lane.STATE a.i
    ∃ t, exec (.slaPower x) s = .next t ∧ XTouched 0 [.all .lane, .lanes, .heads, .damper, .grp 21, .tokens] s.seq s t ∧
      t.rd Reg.Lane.TXSLEEP a.i = (if s.on Reg.Lane.ASSIGNED a.i = true ∧ s.on Reg.Lane.MASTER a.i = false then 1 else b 2) ∧
      t.rd Reg.Lane.RXSLEEP a.i = b 1 ∧ t.rd Reg.Lane.COLD a.i = b 0 ∧
      (b 0 = 1 → st ≠ 7 → t.rd Reg.Lane.STATE a.i = 1) ∧ (b 0 = 0 → st = 1 ∨ st = 7 → t.rd Reg.Lane.STATE a.i = st) ∧
      (b 0 = 0 → st ≠ 0 → st ≠ 1 → st ≠ 7 → b 1 = 1 → t.rd Reg.Lane.STATE a.i = 5) ∧
      (b 0 = 0 → b 1 = 0 → st = 5 → t.rd Reg.Lane.STATE a.i = 2) := by
  have hb : Only [.all .lane, .lanes, .heads, .damper, .grp 21, .tokens] s (applyPower (xargs s x).i (powerStored (xargs s x) s)) :=
    applyPower_law (Only.of_law rfl) (Has.covers rfl) (.inr (by simp))
      ((Only.of_law rfl).wrAllAt (B := []) (k := .lane) (Has.covers rfl) (.inr (by simp)) rfl (Frame.refl _ _))
  have htx : b2n (txSleepOf (xargs s x) s) = (if s.on Reg.Lane.ASSIGNED (xargs s x).i = true ∧ s.on Reg.Lane.MASTER (xargs s x).i = false then 1
      else b2n ((xargs s x).arg.testBit 2)) := by
    unfold txSleepOf
    cases s.on Reg.Lane.ASSIGNED (xargs s x).i <;> cases s.on Reg.Lane.MASTER (xargs s x).i <;> simp [b2n]
  rw [exec_slaPower]
  refine laneOp_touches h hi (if_neg fun hc => hp ((powerBusy_iff _ _).mpr hc))
    (wakeTapsOf_law (Only.of_law rfl) (Has.covers rfl) hb) fun t ht => ?_
  rw [← htx]
  exact powered_leaves s hi fun h1 h2 hf ha => (laneDone_rd ht hi h1 h2 hf).trans ((wakeTapsOf_moves _ _).rd ha (Lane.field_has hi h1 h2))

theorem slaTrain_bounds (hr : s.rd Reg.Lane.RATE (xargs s x).i = 0) : ∃ t, exec (.slaTrain x) s = .next t ∧ XDid 2 [] [] s.seq s t := by
  rw [exec_slaTrain]
  exact direct_no h (.inr ⟨hi, if_pos hr⟩)

theorem slaTrain_does (hr : s.rd Reg.Lane.RATE (xargs s x).i ≠ 0) :
    let i := (xargs s x).i
    let st := s.rd Reg.Lane.STATE i
    ∃ t, exec (.slaTrain x) s = .next t ∧ XTouched 0 (laneParts i) s.seq s t ∧ t.rd Reg.Lane.COLD i = 0 ∧ t.rd Reg.Lane.RXSLEEP i = 0 ∧
      t.rd Reg.Lane.PRBSGEN i = 0 ∧ t.rd Reg.Lane.PRBSCHK i = 0 ∧ (st ≠ 1 → st ≠ 7 → t.rd Reg.Lane.STATE i = 2 ∧ (t.lane i).step = 1) := by
  rw [exec_slaTrain]
  refine laneOp_touches h hi (if_neg hr) (startTrain_law laneParts_law (Has.covers rfl) (laneParts_lane _) (Frame.refl _ _)) fun t ht => ?_
  obtain ⟨h1, h2, h3, h4⟩ := startTrain_clears hi s
  rw [laneDone_rd ht hi rfl rfl rfl, laneDone_rd ht hi rfl rfl rfl, laneDone_rd ht hi rfl rfl rfl, laneDone_rd ht hi rfl rfl rfl,
    laneDone_rd ht hi rfl rfl rfl, laneDone_lane ht]
  exact ⟨h1, h2, h3, h4, startTrain_trains hi s⟩

/-- An assigned lane neither runs patterns nor takes injected errors. -/
theorem slaPrbs_busy (ha : s.on Reg.Lane.ASSIGNED (xargs s x).i = true) :
    (∃ t, exec (.slaPrbs x) s = .next t ∧ XDid 4 [] [] s.seq s t) ∧ ∃ t, exec (.slaInject x) s = .next t ∧ XDid 4 [] [] s.seq s t := by
  rw [exec_slaPrbs, exec_slaInject]
  exact ⟨direct_no h (.inr ⟨hi, if_pos ha⟩), direct_no h (.inr ⟨hi, if_pos ha⟩)⟩

section
variable (ha : s.on Reg.Lane.ASSIGNED (xargs s x).i = false)
include ha

theorem slaPrbs_bounds (hc : 4 < (xargs s x).arg / 16 % 8 ∨ 4 < (xargs s x).arg % 8) :
    ∃ t, exec (.slaPrbs x) s = .next t ∧ XDid 2 [] [] s.seq s t := by
  rw [exec_slaPrbs]
  exact direct_no h (.inr ⟨hi, (if_neg (by rw [ha]; decide)).trans (if_pos hc)⟩)

theorem slaPrbs_body (hc : (xargs s x).arg / 16 % 8 ≤ 4) (hg : (xargs s x).arg % 8 ≤ 4) {P : State → Prop}
    (hP : ∀ t, Only doneParts (prbsState (xargs s x) s) t → P t) :
    ∃ t, exec (.slaPrbs x) s = .next t ∧ XTouched 0 (laneParts (xargs s x).i) s.seq s t ∧ P t := by
  rw [exec_slaPrbs]
  refine laneOp_touches h hi ((if_neg (by rw [ha]; decide)).trans ((if_neg (by omega)).trans ?_)) (prbsState_only _ s) hP
  unfold prbsState
  rw [apply_ite Except.ok, apply_ite Except.ok, apply_ite Except.ok]
  rfl

theorem slaPrbs_does (hc : (xargs s x).arg / 16 % 8 ≤ 4) (hg : (xargs s x).arg % 8 ≤ 4) :
    let i := (xargs s x).i
    let st := s.rd Reg.Lane.STATE i
    let chk := (xargs s x).arg / 16 % 8
    let gen := (xargs s x).arg % 8
    ∃ t, exec (.slaPrbs x) s = .next t ∧ XTouched 0 (laneParts i) s.seq s t ∧ t.rd Reg.Lane.PRBSGEN i = gen ∧ t.rd Reg.Lane.PRBSCHK i = chk ∧
      (st ∈ [0, 1, 7] → t.rd Reg.Lane.STATE i = st) ∧
      (st ∉ [0, 1, 7] → chk ≠ 0 ∨ gen ≠ 0 → t.rd Reg.Lane.STATE i = 6 ∧ t.rd Reg.Lane.PRBSSYNC i = 0 ∧
        (chk ≠ 0 → t.rd Reg.Lane.PRBSBITS i = 0 ∧ t.rd Reg.Lane.PRBSERRS i = 0)) ∧
      (st ∉ [0, 1, 7] → chk = 0 → gen = 0 → st ≠ 6 → t.rd Reg.Lane.STATE i = st) ∧
      (chk = 0 → gen = 0 → st = 6 → if s.rd Reg.Lane.RATE i = 0 then t.rd Reg.Lane.STATE i = 0
        else t.rd Reg.Lane.STATE i = 2 ∧ (t.lane i).step = 3) := by
  refine slaPrbs_body h hi ha hc hg fun t ht => ?_
  obtain ⟨k1, k2⟩ := prbsState_selects s hi hg hc
  obtain ⟨-, b2, b3, -⟩ := prbsStored_bits s hi hg hc
  have hrd : ∀ {f : Field}, f.n1 = 256 → f.n2 = 1 → f.off doneParts = true → t.rd f (xargs s x).i = (prbsState (xargs s x) s).rd f (xargs s x).i :=
    fun h1 h2 hf => laneDone_rd ht hi h1 h2 hf
  rw [hrd rfl rfl rfl, hrd rfl rfl rfl, hrd rfl rfl rfl, hrd rfl rfl rfl, hrd rfl rfl rfl, hrd rfl rfl rfl, laneDone_lane ht]
  refine ⟨k1, k2, fun hst => ?_, fun hst hon => ?_, fun hst h1 h2 h6 => ?_, fun h1 h2 h6 => ?_⟩
  · rw [prbsState_keeps s hst, b3]
  · obtain ⟨c1, c2⟩ := startPrbs_counters (prbsStored (xargs s x) s) hi
    rw [prbsState_runs hi hg hc hst hon]
    exact ⟨startPrbs_state hi _, c1, fun hc => c2 (by rw [b2]; exact hc)⟩
  · rw [prbsState_stops hi hg hc hst h1 h2, if_neg h6, b3]
  · rw [prbsState_stops hi hg hc (by rw [h6]; decide) h1 h2, if_pos h6]
    split
    · exact laneOff_state hi _
    · exact ⟨trainFrom_state hi _ 3, trainFrom_step _ 3⟩

theorem slaInject_bounds (hn : ¬ (1 ≤ (xargs s x).arg % 128 ∧ (xargs s x).arg % 128 ≤ 64)) :
    ∃ t, exec (.slaInject x) s = .next t ∧ XDid 2 [] [] s.seq s t := by
  rw [exec_slaInject]
  exact direct_no h (.inr ⟨hi, (if_neg (by rw [ha]; decide)).trans (if_pos (by rw [inRange, decide_eq_false hn]; rfl))⟩)

theorem slaInject_does (h1 : 1 ≤ (xargs s x).arg % 128) (h2 : (xargs s x).arg % 128 ≤ 64) :
    ∃ t, exec (.slaInject x) s = .next t ∧ XDid 0 [] [.lanes] s.seq s t ∧
      t.lane (xargs s x).i = { s.lane (xargs s x).i with inject := some ((xargs s x).arg % 128, (xargs s x).arg / 256 % 2) } ∧
      ∀ n, n ≠ (xargs s x).i → t.lane n = s.lane n := by
  have hs : ∀ l : Lane, Only [.lanes] s (s.setLane (xargs s x).i l) := fun l => (Only.of_law rfl).lanes (by simp [Covers]) (Frame.refl _ _)
  rw [exec_slaInject]
  refine direct_setsP h hi ((if_neg (by rw [ha]; decide)).trans (if_neg (by simp [inRange, h1, h2])))
    ((Sets.refl [.lanes] s).then (hs _) rfl rfl) fun t ht => ⟨?_, fun n hn => ?_⟩
  · rw [laneDone_lane ht, State.setLane_lane_same]
  · rw [laneDone_lane ht, State.setLane_lane_ne _ _ _ hn.symm]

end

theorem slaEyescan_busy (he : s.rd Reg.Lane.ESTATE (xargs s x).i = 1) : ∃ t, exec (.slaEyescan x) s = .next t ∧ XDid 3 [] [] s.seq s t := by
  rw [exec_slaEyescan]
  exact direct_no h (.inr ⟨hi, if_pos he⟩)

/-- A scan is in range. -/
def ScanOk (w : Word) : Prop :=
  20 ≤ bits w 61 56 ∧ bits w 61 56 ≤ 40 ∧ bits w 47 0 + (if bit w 63 then 768 else 32768) ≤ 0x8000000

omit h hi in
theorem scanOk_iff (w : Word) : ScanOk w ↔ ¬ ((!inRange (bits w 61 56) 20 40) = true ∨ 0x8000000 < bits w 47 0 + if bit w 63 then 768 else 32768) := by
  unfold ScanOk inRange
  simp only [not_or, Bool.not_eq_true', Bool.not_eq_false, decide_eq_true_eq, Nat.not_lt, and_assoc]

theorem slaEyescan_bounds (he : s.rd Reg.Lane.ESTATE (xargs s x).i ≠ 1) (hw : ¬ ScanOk ((xargs s x).w 0)) :
    ∃ t, exec (.slaEyescan x) s = .next t ∧ XDid 2 [] [] s.seq s t := by
  rw [exec_slaEyescan]
  exact direct_no h (.inr ⟨hi, (if_neg he).trans (if_pos (by rwa [scanOk_iff, not_not] at hw))⟩)

theorem slaEyescan_does (he : s.rd Reg.Lane.ESTATE (xargs s x).i ≠ 1) (hw : ScanOk ((xargs s x).w 0)) :
    let i := (xargs s x).i
    let st := s.rd Reg.Lane.STATE i
    let w := (xargs s x).w 0
    ∃ t, exec (.slaEyescan x) s = .next t ∧ XTouched 0 (laneParts i) s.seq s t ∧ t.rd Reg.Lane.ESTATE i = (if st ∈ [1, 5, 6] then 3 else 1) ∧
      (st ∈ [1, 5, 6] → (t.rd Reg.Lane.EVCAUSE i).testBit 5 = true) ∧
      t.lane i = { s.lane i with
        scanCross := bit w 63
        scanK := bits w 61 56
        scanEmax := bits w 55 48
        scanAddr := bits w 47 0
        scanPoint := 0 } := by
  obtain ⟨k1, k2, k3⟩ := scanState_leaves (xargs s x) s hi
  rw [exec_slaEyescan]
  refine laneOp_touches h hi ((if_neg he).trans (if_neg ((scanOk_iff _).mp hw))) (scanState_only _ s) fun t ht => ?_
  rw [laneDone_rd ht hi rfl rfl rfl, laneDone_rd ht hi rfl rfl rfl, laneDone_lane ht]
  exact ⟨k1, k2, k3.trans (State.setLane_lane_same _ _ _)⟩

end

/-! ### SLA.REFSEL -/

theorem slaRefsel_none (hi : 16 ≤ (xargs s x).i) : ∃ t, exec (.slaRefsel x) s = .next t ∧ XDid 2 [] [] s.seq s t := by
  rw [exec_slaRefsel]
  exact direct_no h (.inl ⟨hi, rfl⟩)

/-- A lane of group g is not COLD. -/
def GroupBusy (g : Nat) (s : State) : Prop := ∃ k, k < 16 ∧ s.rd Reg.Lane.STATE (16 * g + k) ≠ 1

/-- A lane of group g has a rate that reference r does not support. -/
def GroupRate (g r : Nat) (s : State) : Prop := ∃ k, k < 16 ∧ s.rd Reg.Lane.RATE (16 * g + k) ∉ (if r = 0 then [0, 1, 2, 4, 6] else [0, 3, 5])

omit h in
theorem groupBusy_iff (g : Nat) : GroupBusy g s ↔ (((List.range 16).map fun k => 16 * g + k).any fun n => s.laneState n != lsCOLD) = true := by
  unfold GroupBusy
  simp only [List.any_map, List.any_eq_true, List.mem_range, Function.comp_apply, bne_iff_ne]
  rfl

omit h in
theorem groupRate_iff (g r : Nat) : GroupRate g r s ↔ (((List.range 16).map fun k => 16 * g + k).any fun n => !rateOk r (s.rd Reg.Lane.RATE n)) = true := by
  have hr : ∀ v, v ∉ (if r = 0 then [0, 1, 2, 4, 6] else [0, 3, 5]) ↔ (!rateOk r v) = true := by
    intro v
    rw [Bool.not_eq_true', ← Bool.not_eq_true, rateOk_iff]
    split <;> simp
  unfold GroupRate
  simp only [List.any_map, List.any_eq_true, List.mem_range, Function.comp_apply, hr]

section
variable (hi : (xargs s x).i < 16)
include hi

theorem slaRefsel_busy (hb : GroupBusy (xargs s x).i s) : ∃ t, exec (.slaRefsel x) s = .next t ∧ XDid 4 [] [] s.seq s t := by
  rw [exec_slaRefsel]
  exact direct_no h (.inr ⟨hi, if_pos ((groupBusy_iff _).mp hb)⟩)

theorem slaRefsel_bounds (hb : ¬ GroupBusy (xargs s x).i s) (hr : GroupRate (xargs s x).i ((xargs s x).arg % 2) s) :
    ∃ t, exec (.slaRefsel x) s = .next t ∧ XDid 2 [] [] s.seq s t := by
  rw [exec_slaRefsel]
  exact direct_no h (.inr ⟨hi, (if_neg fun hc => hb ((groupBusy_iff _).mpr hc)).trans (if_pos ((groupRate_iff _ _).mp hr))⟩)

theorem slaRefsel_does (hb : ¬ GroupBusy (xargs s x).i s) (hr : ¬ GroupRate (xargs s x).i ((xargs s x).arg % 2) s) :
    ∃ t, exec (.slaRefsel x) s = .next t ∧ XDid 0 [(Reg.LaneGroup.REFSEL, (xargs s x).i, 0, (xargs s x).arg % 2)] [] s.seq s t := by
  rw [exec_slaRefsel]
  exact direct_sets h hi ((if_neg fun hc => hb ((groupBusy_iff _).mpr hc)).trans (if_neg fun hc => hr ((groupRate_iff _ _).mpr hc)))
    ((Sets.refl [] s).wr _ (Field.has_lt hi (by decide)) rfl)

end
end

/-- Settles O16: each operation on a lane by its checks, by what it moves in the lane's block and by what it makes of STATE. -/
theorem sensorLanes : Obligations.SensorLanes := by
  intro x s h
  refine ⟨laneOps_none h, slaRefsel_none h, fun hi => ⟨slaCfg_bounds h hi, slaCfg_busy h hi, slaCfg_does h hi, slaTxtaps_does h hi, slaTxtaps_bounds h hi,
    slaPower_busy h hi, slaPower_alone h hi, slaPower_does h hi, slaTrain_bounds h hi, slaTrain_does h hi, slaPrbs_busy h hi, slaPrbs_bounds h hi,
    slaPrbs_does h hi, slaInject_bounds h hi, slaInject_does h hi, slaEyescan_busy h hi, slaEyescan_bounds h hi, slaEyescan_does h hi⟩,
    slaRefsel_busy h, slaRefsel_bounds h, slaRefsel_does h⟩

end Sys2Proof.Machine
end

section
/-!
SUPPORT. What the retirement of epochs, and the packets that it applies, leave of the outputs of RPA, of the items on their way to DLG, of
closed regions and of a view's counts (R33, R36, R256).
-/
namespace Sys2Proof.Machine

/-! ### Properties that packets at their stages keep -/

/-- The parts that a stage changes as it applies held packets and records what has passed, beside what the packets do. -/
def applyParts : List Part := [.grp 0, .grp 64, .cuts, .held, .progress, .seq]

/-- A property does not depend on what a stage records as it applies packets. -/
def Settled (Q : State → Prop) : Prop := ∀ s t, Only applyParts s t → Q s → Q t

theorem applyOne_frame (eff : Held → State → State) (e : Held) (s : State) : Only applyParts (eff e s) (applyOne eff e s) := by
  have hl : Law (Covers applyParts) (Only applyParts (eff e s)) := Only.of_law rfl
  have h1 := evt_law (unit := e.stage) (inst := unitInst (eff e s) e.stage e.sub e.pkt.stream) (evt := 0x05) (k := 1) hl (Has.covers rfl) (Frame.refl _ _)
  unfold applyOne
  dsimp only
  split
  · exact evt_law hl (Has.covers rfl) (hl.progress (by simp [Covers, applyParts]) h1)
  · exact h1

section
variable {Q : State → Prop} (hm : Settled Q) {eff : Held → State → State} (he : ∀ e s, Q s → Q (eff e s))
include hm he

theorem applyHeld_keeps {q : Held → Bool} {s : State} (h : Q s) : Q (applyHeld eff q s) := by
  have hf : ∀ (l : List Held) (t : State), Q t → Q (l.foldl (fun s e => applyOne eff e s) t) := by
    intro l
    induction l with
    | nil => exact fun _ h => h
    | cons e l ih => exact fun t h => ih _ (hm _ _ (applyOne_frame eff e t) (he e t h))
  exact hf _ _ (hm _ _ ((Only.of_law rfl).held (by simp [Covers, applyParts]) (Frame.refl _ _)) h)

theorem retireEpochs_keeps (n : Nat) {s : State} (h : Q s) : Q (retireEpochs eff n s) := by
  induction n generalizing s with
  | zero => exact h
  | succ n ih =>
    unfold retireEpochs
    split
    · exact h
    split
    · exact ih (applyHeld_keeps hm he (hm _ _ ((Only.of_law rfl).cuts (by simp [Covers, applyParts]) (Frame.refl _ _)) h))
    · exact h

theorem stageGap_keeps {stage sub stream lseq : Nat} {vs : Bool} {rows : List (Int × Nat)} {s : State} (h : Q s) :
    Q (stageGap eff stage sub vs stream lseq rows s) := by
  have hf : ∀ (l : List (Int × Nat)) (t : State), Q t → Q (l.foldl (fun s r => passEpoch stage sub vs stream r.2 s) t) := by
    intro l
    induction l with
    | nil => exact fun _ h => h
    | cons e l ih => exact fun t h => ih _ (hm _ _ ((Only.of_law rfl).progress (by simp [Covers, applyParts]) (Frame.refl _ _)) h)
  exact hf _ _ (applyHeld_keeps hm he h)

theorem stageRow_keeps {stage sub stream lseq epoch : Nat} {pos : Int} {vs : Bool} {s : State} (h : Q s) :
    Q (stageRow eff stage sub vs stream lseq pos epoch s) := by
  have hl : ∀ t, Law (Covers applyParts) (Only applyParts t) := fun t => Only.of_law rfl
  exact hm _ _ (recordRow_law (hl _) (Has.covers rfl) (takeLates_law (hl _) (Has.covers rfl) (Frame.refl _ _))) (applyHeld_keeps hm he h)

theorem stageDivert_keeps {stage sub stream lseq epoch : Nat} {pos : Int} {vs : Bool} {s : State} (h : Q s) :
    Q (stageDivert eff stage sub vs stream lseq pos epoch s) :=
  hm _ _ (passEpoch_law (Only.of_law rfl) (Has.covers rfl) (Frame.refl _ _)) (applyHeld_keeps hm he h)

theorem stageStop_keeps {stage sub stream : Nat} {vs : Bool} {s : State} (h : Q s) : Q (stageStop eff stage sub vs stream s) := by
  have hl : ∀ t, Law (Covers applyParts) (Only applyParts t) := fun t => Only.of_law rfl
  exact hm _ _ (Law.foldl (fun _ _ h => reportLate_law (hl _) (Has.covers rfl) h)
    ((hl _).progress (by simp [Covers, applyParts]) (Frame.refl _ _))) (applyHeld_keeps hm he h)

end

theorem stageStart_only (stage sub : Nat) (vs : Bool) (stream epoch : Nat) (s : State) : Only applyParts s (stageStart stage sub vs stream epoch s) :=
  stageStart_law (Only.of_law rfl) (Has.covers rfl) (Frame.refl _ _)

/-- The retirement of epochs keeps what its packets and the end of halts keep. -/
theorem retireAll_keeps {Q : State → Prop} (hm : Settled Q) (he : ∀ e s, Q s → Q (stageEff e s)) (hu : ∀ l s, Q s → Q (unhalt l s)) {s : State}
    (h : Q s) : Q (retireAll s) := by
  have hf : ∀ (l : List (Nat × Option Nat)) (t : State), Q t →
      Q (l.foldl (fun s e => if (e.2.map (areaInactive s)).getD true then unhalt e.1 s else s) t) := by
    intro l
    induction l with
    | nil => exact fun _ h => h
    | cons e l ih =>
      intro t h
      refine ih _ ?_
      dsimp only
      split
      · exact hu _ _ h
      · exact h
  exact hf _ _ (retireEpochs_keeps hm he _ h)

/-! ### What the effects of packets leave alone -/

theorem rpaEff_only (e : Held) (s : State) : Only [.mem, .rpa] s (rpaEff e s) := rpaEff_law (Only.of_law rfl) (Has.covers rfl) (Frame.refl _ _)

theorem sstEff_only (e : Held) (s : State) : Only [.all .geom, .all .seam, .all .view] s (sstEff e s) :=
  sstEff_law (Only.of_law rfl) (Has.covers rfl) (Frame.refl _ _)

theorem rtkEff_only (f : FormRow) (e : Held) (s : State) : Only [.all .rtkView, .grp 7, .recs] s (rtkEff f e s) :=
  rtkEff_law (Only.of_law rfl) (Has.covers rfl) (Frame.refl _ _)

theorem rclEff_only (e : Held) (s : State) : Only [.all .featMap] s (rclEff e s) :=
  rclEff_law (Only.of_law rfl) (Has.covers rfl) (.inr (by simp)) (Frame.refl _ _)

theorem unhalt_only (l : Nat) (s : State) : Only [.all .lrp, .rpa] s (unhalt l s) :=
  unhalt_law (Only.of_law rfl) (Has.covers rfl) (.inr (by simp)) (Frame.refl _ _)

/-- A packet's effect is that of its stage's unit. -/
theorem stageEff_keeps {Q : State → Prop} (h5 : ∀ e s, Q s → Q (rpaEff e s)) (h6 : ∀ e s, Q s → Q (sstEff e s))
    (h7 : ∀ f e s, Q s → Q (rtkEff f e s)) (h8 : ∀ e s, Q s → Q (rclEff e s)) (e : Held) (s : State) (h : Q s) : Q (stageEff e s) := by
  unfold stageEff
  split
  · exact h5 e s h
  · exact h6 e s h
  · exact h7 _ e s h
  · exact h8 e s h
  · exact h

/-! #### Outputs of RPA -/

/-- The outputs of RPA, and the strips that it is to run again. -/
def State.outs (s : State) : List Strip × List Replay := (s.rpa.outbox, s.rpa.replays)

theorem Only.outs {l : List Part} {s t : State} (h : Only l s t) (hl : ¬ Covers l .rpa) : t.outs = s.outs := by
  unfold State.outs
  rw [Frame.rpa h hl]

theorem writeCopies_rpa (u : Nat) (cs : List (Nat × List Byte)) (s : State) : (writeCopies u cs s).rpa = s.rpa :=
  Frame.rpa (writeCopies_law (Only.of_law (l := [.mem]) rfl) (Has.covers rfl) (Frame.refl _ _)) (by simp [Covers])

theorem copyIn_outs (l h src off n : Nat) (s : State) : (copyIn l h src off n s).outs = s.outs := by
  unfold copyIn State.outs
  split
  · rfl
  · unfold landCopies
    split
    · rw [writeCopies_rpa]
    · rfl

theorem rpaEff_outs (e : Held) (s : State) : (rpaEff e s).outs = s.outs := by
  unfold rpaEff
  dsimp only
  split
  · rfl
  · exact copyIn_outs _ _ _ _ _ _
  · rfl

theorem unhalt_outs (l : Nat) (s : State) : (unhalt l s).outs = s.outs := rfl

theorem retireAll_outs (s : State) : (retireAll s).outs = s.outs := by
  refine retireAll_keeps (Q := fun t => t.outs = s.outs) (fun _ _ h e => (h.outs (by simp [Covers, applyParts])).trans e)
    (stageEff_keeps (fun e t h => (rpaEff_outs e t).trans h) (fun e t h => ((sstEff_only e t).outs (by simp [Covers])).trans h)
      (fun f e t h => ((rtkEff_only f e t).outs (by simp [Covers])).trans h) fun e t h => ((rclEff_only e t).outs (by simp [Covers])).trans h)
    (fun l t h => (unhalt_outs l t).trans h) rfl

theorem retireAll_outbox (s : State) : (retireAll s).rpa.outbox = s.rpa.outbox := congrArg Prod.fst (retireAll_outs s)

theorem retireAll_replays (s : State) : (retireAll s).rpa.replays = s.rpa.replays := congrArg Prod.snd (retireAll_outs s)

/-! #### Regions and records -/

theorem Only.recs_eq {l : List Part} {s t : State} (h : Only l s t) (hl : ¬ Covers l .recs) : t.recs = s.recs := Frame.recs h hl

theorem showOpen_recs (v : Nat) (s : State) : (showOpen v s).recs = s.recs := by
  unfold showOpen
  dsimp only
  rw [State.wr_recs, State.wr_recs]

theorem sendItems_toDlg (is : List RecItem) (s : State) : (sendItems is s).recs.toDlg = s.recs.toDlg := rfl

theorem sendItems_rtk (is : List RecItem) (s : State) (v : Nat) : (sendItems is s).rtk v = s.rtk v := rfl

theorem closeRegions_toDlg (v flag : Nat) (f : FormRow) (rs : List Region) (s : State) : (closeRegions v flag f rs s).recs.toDlg = s.recs.toDlg := by
  unfold closeRegions
  dsimp only
  rw [sendItems_toDlg, State.sat_recs, State.sat_recs]

theorem closeRegions_rtk (v flag : Nat) (f : FormRow) (rs : List Region) (s : State) (u : Nat) : (closeRegions v flag f rs s).rtk u = s.rtk u := by
  unfold closeRegions
  dsimp only
  rw [sendItems_rtk]
  unfold State.rtk
  rw [State.sat_recs, State.sat_recs]

theorem closeAll_toDlg (v flag : Nat) (f : FormRow) (s : State) : (closeAll v flag f s).recs.toDlg = s.recs.toDlg := by
  unfold closeAll
  rw [showOpen_recs, closeRegions_toDlg]
  rfl

/-- Closing every region of a view leaves it with none, and any other view as it was. -/
theorem closeAll_rtk (v flag : Nat) (f : FormRow) (s : State) (u : Nat) :
    (closeAll v flag f s).rtk u = if u = v then { s.rtk v with regions := [] } else s.rtk u := by
  have h : ∀ t, (showOpen v t).rtk u = t.rtk u := fun t => by
    unfold State.rtk
    rw [showOpen_recs]
  unfold closeAll
  rw [h, closeRegions_rtk]
  split
  · next he =>
    subst he
    exact Tbl.get_set_same _ _ _
  · next he => exact Tbl.get_set_ne _ _ (Ne.symm he)

theorem closeAll_regions {v u flag : Nat} {f : FormRow} {s : State} (h : (s.rtk u).regions = [] ∨ u = v) : ((closeAll v flag f s).rtk u).regions = [] := by
  rw [closeAll_rtk]
  split
  · rfl
  · next he => exact h.resolve_right he

theorem applyPlane_recs (v : Nat) (w : Nat → Word) (s : State) : (applyPlane v w s).recs = s.recs :=
  Frame.recs (applyPlane_law (Only.of_law (l := [.all .rtkView, .grp 7]) rfl) (Has.covers rfl) (.inr (by simp)) (Frame.refl _ _)) (by simp [Covers])

/-- What an RTK packet does to the records is to close regions. -/
theorem rtkEff_recs (f : FormRow) (e : Held) (s : State) :
    (rtkEff f e s).recs = s.recs ∨ (rtkEff f e s).recs = (closeAll e.pkt.stream rfCFGCLOSE f s).recs := by
  unfold rtkEff
  dsimp only
  split
  · rw [applyPlane_recs]
    split
    · exact .inl rfl
    · exact .inr rfl
  · exact .inl (State.wr_recs _ _ _ _)
  · exact .inr (State.wrAll_recs _ _ _)
  · exact .inl rfl

theorem rtkEff_toDlg (f : FormRow) (e : Held) (s : State) : (rtkEff f e s).recs.toDlg = s.recs.toDlg := by
  rcases rtkEff_recs f e s with h | h
  · rw [h]
  · rw [h, closeAll_toDlg]

theorem rtkEff_regions (f : FormRow) (e : Held) (s : State) (v : Nat) (hv : (s.rtk v).regions = []) : ((rtkEff f e s).rtk v).regions = [] := by
  have hr : ∀ {t : State}, (rtkEff f e s).recs = t.recs → (t.rtk v).regions = [] → ((rtkEff f e s).rtk v).regions = [] := fun h k => by
    unfold State.rtk at k ⊢
    rw [h]
    exact k
  rcases rtkEff_recs f e s with h | h
  · exact hr h hv
  · exact hr h (closeAll_regions (.inl hv))

theorem retireAll_toDlg (s : State) : (retireAll s).recs.toDlg = s.recs.toDlg := by
  have hk : ∀ {l : List Part} {t u : State}, Only l t u → ¬ Covers l .recs → t.recs.toDlg = s.recs.toDlg → u.recs.toDlg = s.recs.toDlg :=
    fun h hl e => by rw [h.recs_eq hl]; exact e
  exact retireAll_keeps (Q := fun t => t.recs.toDlg = s.recs.toDlg) (fun _ _ h => hk h (by simp [Covers, applyParts]))
    (stageEff_keeps (fun e t => hk (rpaEff_only e t) (by simp [Covers])) (fun e t => hk (sstEff_only e t) (by simp [Covers]))
      (fun f e t h => (rtkEff_toDlg f e t).trans h) fun e t => hk (rclEff_only e t) (by simp [Covers]))
    (fun l t => hk (unhalt_only l t) (by simp [Covers])) rfl

/-- A view has no open region. -/
def NoRegions (v : Nat) (s : State) : Prop := (s.rtk v).regions = []

theorem NoRegions.only {v : Nat} {l : List Part} {s t : State} (hv : NoRegions v s) (h : Only l s t) (hl : ¬ Covers l .recs) : NoRegions v t := by
  unfold NoRegions State.rtk at *
  rw [h.recs_eq hl]
  exact hv

theorem NoRegions.settled (v : Nat) : Settled (NoRegions v) := fun _ _ h hv => hv.only h (by simp [Covers, applyParts])

theorem retireAll_regions {v : Nat} {s : State} (h : NoRegions v s) : NoRegions v (retireAll s) :=
  retireAll_keeps (NoRegions.settled v)
    (stageEff_keeps (fun e t h => h.only (rpaEff_only e t) (by simp [Covers])) (fun e t h => h.only (sstEff_only e t) (by simp [Covers]))
      (fun f e t h => rtkEff_regions f e t v h) fun e t h => h.only (rclEff_only e t) (by simp [Covers]))
    (fun l t h => h.only (unhalt_only l t) (by simp [Covers])) h

/-! #### Counts of a view -/

/-- The fields of a view that its packets and its rows set. -/
def viewSetFields : List Field :=
  [Reg.View.EMODE, Reg.View.EPOL, Reg.View.ETHR, Reg.View.EIN, Reg.View.XEL, Reg.View.XER, Reg.View.OPEN, Reg.View.OPENLSEQ, Reg.View.REMSIG,
    Reg.View.SIGMISS, Reg.View.VGAPCNT, Reg.View.NOTOPENCNT, Reg.View.EDGECLCNT, Reg.View.OPENPOS]

/-- A field that counts something else about a view. -/
structure ViewCount (f : Field) (i : Nat) : Prop where
  apart : ∀ g ∈ viewSetFields, g.apart f = true
  inView : f.inArr .view = true
  arr : f.arr = some .view
  has : f.has i 0 = true

theorem viewCount_rows {v : Nat} (hv : v < 16) : ViewCount Reg.View.VROWS v := ⟨by decide, rfl, rfl, Field.has_lt hv (by decide)⟩

theorem viewCount_missed {v : Nat} (hv : v < 16) : ViewCount Reg.View.EDGEMISS v := ⟨by decide, rfl, rfl, Field.has_lt hv (by decide)⟩

section
variable {f : Field} {i : Nat} (hf : ViewCount f i)
include hf

theorem ViewCount.wr {g : Field} (hg : g ∈ viewSetFields) (j v : Nat) (s : State) : (s.wr g j v).rd f i = s.rd f i :=
  State.rd_wr_apart _ (hf.apart g hg) _ hf.has

theorem ViewCount.wrAll {l : List (Field × Nat)} (hl : ∀ e ∈ l, e.1 ∈ viewSetFields) (j : Nat) (s : State) : (s.wrAll j l).rd f i = s.rd f i := by
  refine (Moves.of_wrAll j l s).rd (List.all_eq_true.mpr fun g hg => ?_) hf.has
  obtain ⟨e, he, rfl⟩ := List.mem_map.mp hg
  exact hf.apart _ (hl e he)

/-- What changes no view leaves it. -/
theorem ViewCount.only {l : List Part} {s t : State} (h : Only l s t)
    (hl : (l.all fun p => match p with | .one m _ => decide (m ≠ .view) | .all m => decide (m ≠ .view) | _ => true) = true) : t.rd f i = s.rd f i := by
  refine h.rd_off ?_ hf.has
  unfold Field.off
  rw [hf.arr]
  simp only [hf.inView, Bool.true_and]
  exact hl

theorem sstEff_rd (e : Held) (s : State) : (sstEff e s).rd f i = s.rd f i := by
  have hl : ∀ t, Law (Covers [.all .geom, .all .seam]) (Only [.all .geom, .all .seam] t) := fun t => Only.of_law rfl
  unfold sstEff
  dsimp only
  split
  · exact hf.only ((hl s).wr (B := [.all .geom, .all .seam]) (Has.covers rfl) rfl
      (Law.foldl (fun _ _ h => (hl s).wr2 (B := [.all .geom, .all .seam]) (Has.covers rfl) rfl h) (Frame.refl _ _))) rfl
  · exact hf.only (applySeam_law (hl s) (Has.covers rfl) (.inr (by simp)) (Frame.refl _ _)) rfl
  · split
    · exact hf.wrAll (by simp [viewSetFields]) _ _
    · exact hf.only ((hl s).wr2 (B := [.all .geom, .all .seam]) (Has.covers rfl) rfl
        ((hl s).wr2 (B := [.all .geom, .all .seam]) (Has.covers rfl) rfl (Frame.refl _ _))) rfl
  · rfl

theorem ViewCount.settled (c : Nat) : Settled fun s => s.rd f i = c := fun _ _ h e => (hf.only h rfl).trans e

theorem stageRow_sst_rd {sub stream lseq epoch : Nat} {pos : Int} {vs : Bool} (s : State) :
    (stageRow sstEff 6 sub vs stream lseq pos epoch s).rd f i = s.rd f i :=
  stageRow_keeps (hf.settled _) (fun e s h => (sstEff_rd hf e s).trans h) rfl

theorem stageGap_sst_rd {sub stream lseq : Nat} {vs : Bool} {rows : List (Int × Nat)} (s : State) :
    (stageGap sstEff 6 sub vs stream lseq rows s).rd f i = s.rd f i :=
  stageGap_keeps (hf.settled _) (fun e s h => (sstEff_rd hf e s).trans h) rfl

theorem retireAll_view_rd (s : State) : (retireAll s).rd f i = s.rd f i :=
  retireAll_keeps (hf.settled _) (stageEff_keeps (fun e t h => (hf.only (rpaEff_only e t) rfl).trans h) (fun e t h => (sstEff_rd hf e t).trans h)
    (fun f' e t h => (hf.only (rtkEff_only f' e t) rfl).trans h) fun e t h => (hf.only (rclEff_only e t) rfl).trans h)
    (fun l t h => (hf.only (unhalt_only l t) rfl).trans h) rfl

end

end Sys2Proof.Machine
end

section
/-!
SUPPORT. What SST's steps leave of the outputs of RPA, and what the forming of a view row does to the view's counts (R43, R45, R342, R359).
-/
namespace Sys2Proof.Machine

/-! ### A strip that SST accepts -/

theorem applyJournals_outs (l : Nat) (js : List Journal) (s : State) : (applyJournals l js s).outs = s.outs := by
  have ha : ∀ (a : Area) (ls : List (Nat × List Byte)) (t : State), (applyLines a l ls t).outs = t.outs := fun a ls t =>
    Only.outs (l := [.mem, .poison]) (applyLines_law (Only.of_law rfl) (Has.covers rfl) (Frame.refl _ _)) (by simp [Covers])
  induction js generalizing s with
  | nil => rfl
  | cons j js ih =>
    unfold applyJournals
    split
    · exact ih s
    split
    · rfl
    · exact (ih _).trans (ha _ _ s)

theorem settleStrip_outs (l : Nat) (t : Tag) (s : State) : (settleStrip l t s).outs = s.outs := applyJournals_outs _ _ _

theorem closeStrip_only (h lseq k : Nat) (s : State) : Only [.all .head, .heads, .power] s (closeStrip h lseq k s) :=
  closeStrip_law (Only.of_law rfl) (Has.covers rfl) (.inr (by simp)) (Frame.refl _ _)

theorem fresh_rpa (s : State) : s.fresh.2.rpa = s.rpa := rfl

theorem closeStats_outs (h k : Nat) (s : State) : (closeStats h k s).outs = s.outs := by
  unfold closeStats
  dsimp only
  split
  · rfl
  split
  · have hp : ∀ (u : State) (a : Nat) (bs : List Byte), (u.put a bs).rpa = u.rpa := fun u a bs => Frame.rpa (put_only u a bs) (by simp [Covers])
    unfold State.outs
    dsimp only
    rw [hp, fresh_rpa]
    rfl
  · rfl

theorem addStats_outs (o : Strip) (s : State) : (addStats o s).outs = s.outs := by
  have hc : ∀ (c : Prop) [Decidable c] (t : State), (if c then closeStats o.tag.head o.tag.strip t else t).outs = t.outs := by
    intro c _ t
    split
    · exact closeStats_outs _ _ _
    · rfl
  unfold addStats
  dsimp only
  split
  · exact hc _ _
  · exact (hc _ _).trans (hc _ s)

theorem addHold_outs (o : Strip) (s : State) : (addHold o s).outs = s.outs := by
  have hf : ∀ (l : List Nat) (w : Nat) (t : State), (l.foldl (fun s k => if o.hold.testBit k && !w.testBit k then s.sat2 Reg.RpaStat.HOLDCNT o.tag.head k 1 else s) t).rpa
      = t.rpa := by
    intro l w
    induction l with
    | nil => exact fun _ => rfl
    | cons k l ih =>
      intro t
      rw [List.foldl_cons, ih]
      split
      · exact State.wr2_rpa _ _ _ _ _
      · rfl
  unfold addHold State.outs
  dsimp only
  rw [State.wr_rpa]
  dsimp only
  rw [hf]

theorem intoView_only (o : Strip) (s : State) : Only [.all .geom, .all .seam, .all .view, .all .wlkPort, .grp 0, .grp 17, .grp 64, .cutPkts, .held, .progress,
    .sent, .seq, .store, .tokens, .views] s (intoView o s) := intoView_law (Only.of_law rfl) (Has.covers rfl) (Frame.refl _ _)

theorem gatherHead_only (o : Strip) (s : State) : Only [.store, .strips] s (gatherHead o s) :=
  gatherHead_law (Only.of_law rfl) (Has.covers rfl) (Frame.refl _ _)

/-- The last 256 commits of a head, with that of a strip. -/
def commitsWith (o : Strip) (s : State) : List (Nat × Nat) := ((o.tag.lseq, o.tag.strip) :: Tbl.get (fun _ => []) s.commits o.tag.head).take 256

/-- The commit of a strip recorded. -/
def committed (o : Strip) (s : State) : State := { s with commits := Tbl.set (fun _ => []) s.commits o.tag.head (commitsWith o s) }

/-- A committed strip taken into the view rows and the gathered rows. -/
theorem commitStrip_eq (o : Strip) (s : State) : commitStrip o s = (gatherHead o (intoView o (addHold o (addStats o (closeStrip o.tag.head o.tag.lseq o.tag.strip
    (settleStrip o.lrp o.tag (committed o s))))))).evt 6 o.tag.head 0x01 := rfl

theorem commitStrip_outs (o : Strip) (s : State) : (commitStrip o s).outs = s.outs := by
  rw [commitStrip_eq, (evt_only _ _ _ _ _).outs (by simp [Covers]), (gatherHead_only _ _).outs (by simp [Covers]),
    (intoView_only _ _).outs (by simp [Covers]), addHold_outs, addStats_outs, (closeStrip_only _ _ _ _).outs (by simp [Covers]), settleStrip_outs]
  rfl

theorem commitStrip_commits (o : Strip) (s : State) : (commitStrip o s).commits = (committed o s).commits := by
  have h1 := settleStrip_law (l := o.lrp) (t := o.tag) (Only.of_law (l := [.mem, .poison, .rpa]) (s := committed o s) rfl) (Has.covers rfl) (Frame.refl _ _)
  have h2 := addHold_law (o := o) (Only.of_law (l := [.all .rpaStat, .grp 64, .free, .mem, .poison, .rpa]) rfl) (Has.covers rfl)
    (addStats_law (o := o) (Only.of_law rfl) (Has.covers rfl) (Frame.refl _ (closeStrip o.tag.head o.tag.lseq o.tag.strip (settleStrip o.lrp o.tag (committed o s)))))
  rw [commitStrip_eq, Frame.commits (evt_only _ _ _ _ _) (by simp [Covers]), Frame.commits (gatherHead_only _ _) (by simp [Covers]),
    Frame.commits (intoView_only _ _) (by simp [Covers]), Frame.commits h2 (by simp [Covers]), Frame.commits (closeStrip_only _ _ _ _) (by simp [Covers]),
    Frame.commits h1 (by simp [Covers])]

/-! ### The rows of a view -/

/-- What stands in `views` moves no register. -/
theorem putItem_rd (i : StoreItem) (s : State) (f : Field) (k : Nat) : (putItem i s).rd f k = s.rd f k := by
  unfold putItem
  split <;> rfl

section
variable {f : Field} {i : Nat} (hf : ViewCount f i)
include hf

theorem flushViewGap_rd (v : Nat) (s : State) : (flushViewGap v s).rd f i = s.rd f i := by
  unfold flushViewGap
  dsimp only
  split
  · rfl
  · rw [putItem_rd, State.setView_rd, stageGap_sst_rd hf]

theorem passMember_rd (s : State) (m : MemRow) : (passMember s m).rd f i = s.rd f i := by
  unfold passMember
  split
  · exact stageGap_sst_rd hf s
  · exact stageRow_sst_rd hf s

theorem passMembers_rd (ms : List MemRow) (s : State) : (ms.foldl passMember s).rd f i = s.rd f i := by
  induction ms generalizing s with
  | nil => rfl
  | cons m ms ih => rw [List.foldl_cons, ih, passMember_rd hf]

theorem missViewRow_rd (v : Nat) (r : PendRow) (s : State) : (missViewRow v r s).rd f i = s.rd f i := by
  unfold missViewRow
  dsimp only
  rw [State.sat, hf.wr (by simp [viewSetFields]), State.setView_rd, State.rd_ite, flushViewGap_rd hf, ite_self]

omit hf in
theorem dropRow_rd (v : Nat) (s : State) : (dropRow v s).rd f i = s.rd f i := State.setView_rd _ _ _ _ _

theorem openView_rd (v : Nat) (r : PendRow) (s : State) : (openView v r s).rd f i = s.rd f i := by
  unfold openView
  dsimp only
  rw [hf.wrAll (by simp [viewSetFields]), State.setView_rd]
  simp only [List.foldl_cons, List.foldl_nil]
  rw [hf.only (stageStart_only _ _ _ _ _ _) rfl, hf.only (stageStart_only _ _ _ _ _ _) rfl, hf.only (stageStart_only _ _ _ _ _ _) rfl,
    hf.only (stageStart_only _ _ _ _ _ _) rfl]

theorem settleView_rd (n v : Nat) (s : State) : (settleView n v s).rd f i = s.rd f i := by
  induction n generalizing s with
  | zero => rfl
  | succ n ih =>
    unfold settleView
    split
    · rfl
    split
    · rfl
    split
    · split
      · rfl
      · rw [ih, dropRow_rd, missViewRow_rd hf, passMembers_rd hf]
    split
    · exact openView_rd hf _ _ _
    · rw [ih, State.sat, hf.wr (by simp [viewSetFields]), dropRow_rd, passMembers_rd hf]

omit hf in
theorem sendEdge_only (v n : Nat) (right : Bool) (e : Option EdgeRow) (s : State) :
    Only [.all .wlkPort, .grp 17, .grp 64, .sent, .tokens] s (sendEdge v n right e s) :=
  sendEdge_law (Only.of_law rfl) (Has.covers rfl) (Frame.refl _ _)

theorem sendEdges_rd (v : Nat) (s : State) : (sendEdges v s).rd f i = s.rd f i := by
  have he : ∀ (c : Bool) (n : Nat) (right : Bool) (e : Option EdgeRow) (t : State),
      (if c then sendEdge v n right e t else t).rd f i = t.rd f i := by
    intro c n right e t
    split
    · exact hf.only (sendEdge_only _ _ _ _ _) rfl
    · rfl
  unfold sendEdges
  split
  · rfl
  split
  · rfl
  · dsimp only
    rw [he, he, State.setView_rd]

theorem settleRows_rd (v : Nat) (s : State) : (settleRows v s).rd f i = s.rd f i := by
  unfold settleRows
  rw [sendEdges_rd hf, settleView_rd hf]

theorem takeRemsig_rd (v n : Nat) (s : State) : (takeRemsig v n s).rd f i = s.rd f i := by
  unfold takeRemsig
  split
  · rfl
  split
  · exact hf.wr (by simp [viewSetFields]) _ _ _
  · exact hf.wr (by simp [viewSetFields]) _ _ _

omit hf in
theorem sendViewCuts_rd (v ep : Nat) (s : State) : (sendViewCuts v ep s).rd f i = s.rd f i := rfl

omit hf in
theorem showShifts_only (v : Nat) (s : State) : Only [.all .geom] s (showShifts v s) := showShifts_law (Only.of_law rfl) (Has.covers rfl) (Frame.refl _ _)

theorem heldEvent_rd (v : Nat) (c : Bool) (s : State) : (if c then s.evt 6 v 0x40 else s).rd f i = s.rd f i := by
  split
  · exact hf.only (evt_only _ _ _ _ _) rfl
  · rfl

theorem beginRow_rd (v : Nat) (r : PendRow) (s : State) : (beginRow v r true s).1.rd f i = s.rd f i := by
  unfold beginRow
  refine (heldEvent_rd hf v _ _).trans ((hf.only (showShifts_only _ _) rfl).trans ((takeRemsig_rd hf _ _ _).trans ((stageRow_sst_rd hf _).trans
    ((passMembers_rd hf _ _).trans ?_))))
  rw [sendViewCuts_rd, State.setView_rd, flushViewGap_rd hf]

theorem maskEdges_rd (v : Nat) (ds : List Side) (slots : Tbl (List Nat)) (s : State) : (maskEdges v ds slots s).1.rd f i = s.rd f i := by
  unfold maskEdges
  split
  · rfl
  · dsimp only
    split
    · exact hf.wr (by simp [viewSetFields]) _ _ _
    · rfl

omit hf in
theorem updateSeams_only (v ksel : Nat) (ds : List Side) (seams : List SeamAt) (right : Option EdgeRow) (s : State) :
    Only [.all .seam, .grp 64] s (updateSeams v ksel ds seams right s) := updateSeams_law (Only.of_law rfl) (Has.covers rfl) (Frame.refl _ _)

/-- Until VROWS counts the row, its forming moves no count. -/
theorem formedSeams_rd (v ksel : Nat) (r : PendRow) (ds : List Side) (seams : List SeamAt) (slots : Tbl (List Nat)) (right : Option EdgeRow)
    (first : Bool) (pos : Int) (s : State) : (updateSeams v ksel ds seams right (maskEdges v ds slots
      (if first then (beginRow v r true s).1.wrI Reg.View.OPENPOS v pos else (beginRow v r true s).1)).1).rd f i = s.rd f i := by
  rw [hf.only (updateSeams_only _ _ _ _ _ _) rfl, maskEdges_rd hf, State.rd_ite, State.wrI, hf.wr (by simp [viewSetFields]), ite_self, beginRow_rd hf]

omit hf in
theorem sendWords_only (v : Nat) (it : StoreItem) (s : State) : Only [.all .wlkPort, .grp 17, .grp 64, .sent, .tokens] s (sendWords v it s) :=
  sendWords_law (Only.of_law rfl) (Has.covers rfl) (Frame.refl _ _)

omit hf in
theorem dropEdges_rd (v n : Nat) (s : State) : (dropEdges v n s).rd f i = s.rd f i := State.setView_rd _ _ _ _ _

/-- What follows the forming of a row moves no count. -/
theorem writeRow_rd (v : Nat) (r : PendRow) (left right : Option EdgeRow) (s : State) :
    (writeRow v r left right s).rd f i = (formRow v r left right true (dropRow v s)).1.rd f i := by
  unfold writeRow
  dsimp only
  rw [settleRows_rd hf, hf.only (sendWords_only _ _ _) rfl, hf.only (evt_only _ _ _ _ _) rfl, putItem_rd, dropEdges_rd]

end

/-- A row that is formed counts in VROWS. -/
theorem writeRow_rows {v : Nat} (hv : v < 16) (r : PendRow) (left right : Option EdgeRow) (s : State) :
    Steps Reg.View.VROWS v s (writeRow v r left right s) := by
  have hf := viewCount_rows hv
  unfold Steps
  rw [writeRow_rd hf]
  unfold formRow
  dsimp only
  rw [State.setView_rd, State.wrap, State.rd_wr_same _ rfl _ hf.has, formedSeams_rd hf, dropRow_rd]

theorem writeRow_missed {v : Nat} (hv : v < 16) (r : PendRow) (left right : Option EdgeRow) (s : State) :
    (writeRow v r left right s).rd Reg.View.EDGEMISS v = s.rd Reg.View.EDGEMISS v := by
  have hf := viewCount_missed hv
  rw [writeRow_rd hf]
  unfold formRow
  dsimp only
  rw [State.setView_rd, State.wrap, State.rd_wr_apart _ rfl _ hf.has, formedSeams_rd hf, dropRow_rd]

end Sys2Proof.Machine
end

section
/-!
SUPPORT. What RTK, HIS and OVS make of the rows, gaps and stops that they take (R364, R367, R368, R413, R429, R435, R436).
-/
namespace Sys2Proof.Machine

/-! ### RTK -/

/-- The parts that RTK changes before it commits an item. -/
def rtkParts : List Part := [.all .rtkView, .grp 0, .grp 7, .grp 9, .grp 64, .held, .progress, .recs, .seq, .sump]

theorem rtkParts_law {s : State} : Law (Covers rtkParts) (Only rtkParts s) := Only.of_law rfl

theorem rtkParts_store {s t : State} (h : Only rtkParts s t) : t.store = s.store := Frame.store h (by simp [Covers, rtkParts])

/-- The items of a view in the row store. -/
def viewItem (v : Nat) (i : StoreItem) : Bool := i.vs && i.src == v

/-- A row that RTK has processed and not yet committed. -/
def rowProcessed (v : Nat) (it : StoreItem) (s : State) : State :=
  sendItems [.mark v (.row it.tag.lseq it.tag.pos it.tag.epoch)] ((rowSteps v (s.rtk v).regions.length it
    (stageRow (rtkEff (it.tag.lseq, it.tag.pos, it.tag.epoch)) 7 0 true v it.tag.lseq it.tag.pos it.tag.epoch s)).evt 7 v 0x01)

theorem rowProcessed_only (v : Nat) (it : StoreItem) (s : State) : Only rtkParts s (rowProcessed v it s) :=
  sendItems_law rtkParts_law (Has.covers rfl) (evt_law rtkParts_law (Has.covers rfl) (rowSteps_law rtkParts_law (Has.covers rfl) (.inr (by simp [rtkParts]))
    (stageRow_law rtkParts_law (Has.covers rfl) (fun _ _ h => rtkEff_law rtkParts_law (Has.covers rfl) h) (Frame.refl _ _))))

section
variable {v : Nat} {s : State}

theorem viewRowProcess_none (h : rtkNext s v = none) : viewRowProcess v s = s := by
  unfold viewRowProcess
  rw [h]

theorem viewGapProcess_none (h : rtkNext s v = none) : viewGapProcess v s = s := by
  unfold viewGapProcess
  rw [h]

theorem viewStopProcess_none (h : rtkNext s v = none) : viewStopProcess v s = s := by
  unfold viewStopProcess
  rw [h]

variable {i : StoreItem} (hn : rtkNext s v = some i)
include hn

theorem viewRowProcess_waits (h : i.kind ≠ .row ∨ rtkHolds s = true ∨ wordsReady s v i.tag.lseq = false) : viewRowProcess v s = s := by
  unfold viewRowProcess
  rw [hn]
  refine if_pos ?_
  rcases h with h | h | h
  · exact .inl h
  · exact .inr (.inl h)
  · exact .inr (.inr (by rw [h]; rfl))

theorem viewRowProcess_takes (hh : rtkHolds s = false) (hk : i.kind = .row) (hw : wordsReady s v i.tag.lseq = true) :
    viewRowProcess v s = rtkCommit v (rowProcessed v i s) := by
  unfold viewRowProcess
  rw [hn]
  refine if_neg ?_
  rintro (h | h | h)
  · exact h hk
  · rw [hh] at h; exact Bool.noConfusion h
  · rw [hw] at h; exact Bool.noConfusion h

theorem viewGapProcess_waits (h : rtkHolds s = true ∨ ∀ g, i.kind ≠ .gap g) : viewGapProcess v s = s := by
  unfold viewGapProcess
  rw [hn]
  split
  · next g _ _ _ _ _ _ he =>
    rcases h with h | h
    · exact if_pos h
    · injection he with he
      exact absurd (congrArg StoreItem.kind he) (h g)
  · rfl

end

/-- The formation row of the regions that a GAP packet closes. -/
def gapForm (v : Nat) (g : GapPkt) (s : State) : FormRow := (g.lseq, g.pos, (g.rows.head?.map (·.2)).getD (s.rtk v).last.2.2)

/-- A view bridges a short gap, and closes its regions over a longer one. -/
def gapBridged (v : Nat) (g : GapPkt) (s : State) : State :=
  if g.count ≤ s.rd Reg.RtkView.GAPBRIDGE v then s.setRtk v { s.rtk v with bridged := true }
  else (closeAll v rfGAPCLOSE (gapForm v g s) s).sat Reg.RtkView.GAPCLCNT v (b2n (!(s.rtk v).regions.isEmpty))

/-- A GAP packet that RTK has taken and not yet committed. -/
def gapTaken (v : Nat) (g : GapPkt) (s : State) : State :=
  sendItems [.mark v (.gap g.lseq g.rows)] (stageGap (rtkEff (gapForm v g s)) 7 0 true v g.lseq g.rows (gapBridged v g s))

/-- A stop that RTK has taken and not yet committed. -/
def stopTaken (v : Nat) (s : State) : State :=
  let t := stageStop (rtkEff (s.rtk v).last) 7 0 true v (closeAll v rfENDCLOSE (s.rtk v).last s)
  sendItems [.mark v .stop] (t.setRtk v { t.rtk v with bridged := false, missL := [], missR := [] })

theorem viewGapProcess_takes {v : Nat} {s : State} {i : StoreItem} (hn : rtkNext s v = some i) (hh : rtkHolds s = false) {g : GapPkt} (hk : i.kind = .gap g) :
    viewGapProcess v s = rtkCommit v (gapTaken v g s) := by
  unfold viewGapProcess
  rw [hn]
  cases i with
  | mk kind vs src tag slots size need =>
    cases hk
    exact if_neg (by rw [hh]; decide)

theorem viewStopProcess_waits {v : Nat} {s : State} {i : StoreItem} (hn : rtkNext s v = some i) (h : i.kind ≠ .stop ∨ rtkHolds s = true) :
    viewStopProcess v s = s := by
  unfold viewStopProcess
  rw [hn]
  exact if_pos h

theorem viewStopProcess_takes {v : Nat} {s : State} {i : StoreItem} (hn : rtkNext s v = some i) (hh : rtkHolds s = false) (hk : i.kind = .stop) :
    viewStopProcess v s = rtkCommit v (stopTaken v s) := by
  unfold viewStopProcess
  rw [hn]
  refine if_neg ?_
  rintro (h | h)
  · exact h hk
  · rw [hh] at h; exact Bool.noConfusion h

theorem gapBridged_only (v : Nat) (g : GapPkt) (s : State) : Only rtkParts s (gapBridged v g s) :=
  Law.ite (rtkParts_law.recs (by simp [Covers, rtkParts]) (Frame.refl _ _))
    (rtkParts_law.satAt (B := []) (k := .rtkView) (Has.covers rfl) (.inr (by simp [rtkParts])) rfl
    (closeAll_law rtkParts_law (Has.covers rfl) (.inr (by simp [rtkParts])) (Frame.refl _ _)))

theorem gapTaken_only (v : Nat) (g : GapPkt) (s : State) : Only rtkParts s (gapTaken v g s) :=
  sendItems_law rtkParts_law (Has.covers rfl) (stageGap_law rtkParts_law (Has.covers rfl) (fun _ _ h => rtkEff_law rtkParts_law (Has.covers rfl) h)
    (gapBridged_only v g s))

theorem stopTaken_only (v : Nat) (s : State) : Only rtkParts s (stopTaken v s) := by
  have h := stageStop_law (eff := rtkEff (s.rtk v).last) (stage := 7) (sub := 0) (vs := true) (stream := v) (rtkParts_law (s := s)) (Has.covers rfl)
    (fun _ _ h => rtkEff_law rtkParts_law (Has.covers rfl) h)
    (closeAll_law (v := v) (flag := rfENDCLOSE) (f := (s.rtk v).last) rtkParts_law (Has.covers rfl) (.inr (by simp [rtkParts])) (Frame.refl _ _))
  exact sendItems_law rtkParts_law (Has.covers rfl) (rtkParts_law.recs (by simp [Covers, rtkParts]) h)

/-- A gap longer than GAPBRIDGE leaves the view no open region. -/
theorem gapTaken_regions {v : Nat} {g : GapPkt} {s : State} (h : s.rd Reg.RtkView.GAPBRIDGE v < g.count) : NoRegions v (gapTaken v g s) := by
  have hb : NoRegions v (gapBridged v g s) := by
    unfold gapBridged
    rw [if_neg (by omega)]
    have hc : NoRegions v (closeAll v rfGAPCLOSE (gapForm v g s) s) := closeAll_regions (.inr rfl)
    unfold NoRegions State.rtk at *
    rw [State.sat_recs]
    exact hc
  exact stageGap_keeps (eff := rtkEff (gapForm v g s)) (NoRegions.settled v) (fun e t h => rtkEff_regions _ e t v h) hb

/-- The end of a view leaves it no open region. -/
theorem stopTaken_regions (v : Nat) (s : State) : NoRegions v (stopTaken v s) := by
  have h := stageStop_keeps (eff := rtkEff (s.rtk v).last) (NoRegions.settled v) (fun e t h => rtkEff_regions _ e t v h) (stage := 7) (sub := 0) (vs := true)
    (stream := v) (closeAll_regions (v := v) (u := v) (flag := rfENDCLOSE) (f := (s.rtk v).last) (s := s) (.inr rfl))
  unfold NoRegions stopTaken
  dsimp only
  rw [sendItems_rtk]
  unfold State.rtk State.setRtk
  dsimp only
  rw [Tbl.get_set_same]
  exact h

/-- RTK's commit, and the retirement of epochs after it. -/
theorem retireAll_store (s : State) : (retireAll s).store = s.store := Frame.store (retireAll_only s) (by simp [Covers, retireParts])

theorem rtkCommit_store {v : Nat} {s t : State} (h : Only rtkParts s t) : (retireAll (rtkCommit v t)).store = commitFirst 8 (viewItem v) s.store := by
  rw [retireAll_store, ← rtkParts_store h]
  rfl

/-! ### HIS -/

/-- The fields of a head that say how much a row of it holds. -/
theorem rowBytes_kept {l : List Part} {s t : State} (h : Only l s t) {k : Nat} (hk : k < 32) (hl : Reg.Head.HW.off l = true)
    (hl2 : Reg.Head.STRIPW.off l = true) (hl3 : Reg.Head.FMT.off l = true) (hl4 : Reg.Head.DEPTH.off l = true) :
    stripsOf t k * (32 + planesOf t k * headStripW t k * depthBits t k / 8) = stripsOf s k * (32 + planesOf s k * headStripW s k * depthBits s k / 8) := by
  have hi : ∀ {f : Field}, f.n1 = 32 → f.n2 = 1 → f.has k 0 = true := fun h1 h2 => by simp [Field.has, h1, h2, hk]
  unfold stripsOf planesOf headStripW depthBits
  rw [h.rd_off hl (hi rfl rfl), h.rd_off hl2 (hi rfl rfl), h.rd_off hl3 (hi rfl rfl), h.rd_off hl4 (hi rfl rfl)]

theorem showFill_heads (h : Nat) (s : State) : (showFill h s).heads = s.heads :=
  Frame.heads (showFill_law (Only.of_law (l := [.all .head, .power]) rfl) (Has.covers rfl) (.inr (by simp)) (Frame.refl _ _)) (by simp [Covers])

/-- Every row of an LSEQ that the buffer still holds is taken. -/
theorem markTaken_taken (h lseq : Nat) (s : State) : ∀ q ∈ ((markTaken h lseq s).head h).rows, q.tag.lseq = lseq → q.taken = true := by
  have hr : ((markTaken h lseq s).head h).rows =
      ((s.head h).rows.map fun r => if r.tag.lseq = lseq then { r with taken := true } else r).filter fun r => !(r.open_.isEmpty && r.taken) := by
    unfold markTaken freeSlots
    dsimp only
    rw [State.head, showFill_heads]
    show ((State.setHead _ h _).head h).rows = _
    rw [State.setHead_head_same, State.setHead_head_same]
  intro q hq hl
  rw [hr] at hq
  obtain ⟨r, -, rfl⟩ := List.mem_map.mp (List.mem_filter.mp hq).1
  by_cases hc : r.tag.lseq = lseq
  · rw [if_pos hc]
  · rw [if_neg hc] at hl
    exact absurd hl hc

/-- What HIS changes before it marks the row taken. -/
def hisParts : List Part := [.grp 0, .grp 64, .held, .his, .progress, .seq]

/-- HIS has passed a row's points and has copied the row. -/
def hisCopied (h : Nat) (r : EbRow) (s : State) : State :=
  let t := stageRow noEff 10 0 false h r.tag.lseq r.tag.pos r.tag.epoch s
  enterGroup h { tag := r.tag, pay := slotPayload t h r.slot } t

theorem hisCopied_only (h : Nat) (r : EbRow) (s : State) : Only hisParts s (hisCopied h r s) := by
  have hl : Law (Covers hisParts) (Only hisParts s) := Only.of_law rfl
  exact enterGroup_law hl (Has.covers rfl) (stageRow_law hl (Has.covers rfl) (fun _ _ h => h) (Frame.refl _ _))

/-- The bytes of a row of head h. -/
def hisRowBytes (h : Nat) (s : State) : Nat := stripsOf s h * (32 + planesOf s h * headStripW s h * depthBits s h / 8)

/-- The row counted and marked taken. -/
def hisTaken (h : Nat) (r : EbRow) (s : State) : State :=
  (markTaken h r.tag.lseq ((hisCopied h r s).wrap Reg.HisHead.OBYTES h (hisRowBytes h (hisCopied h r s)))).evt 0xA h 0x01

theorem historyTake_takes {h : Nat} {r : EbRow} {s : State} (he : s.rd Reg.HisHead.EN h ≠ 0) (hu : untaken s h = some r) :
    historyTake h s = hisTaken h r s ∨ historyTake h s = closeGroup h (hisTaken h r s) := by
  have hon : ¬ (!s.on Reg.HisHead.EN h) = true := by simpa [State.on] using he
  unfold historyTake
  rw [if_neg hon, hu]
  dsimp only
  split
  · exact .inr rfl
  · exact .inl rfl

theorem historyTake_waits {h : Nat} {s : State} (hw : s.rd Reg.HisHead.EN h = 0 ∨ untaken s h = none) : historyTake h s = s := by
  unfold historyTake
  rcases hw with hw | hw
  · exact if_pos (by simp [State.on, hw])
  · rw [hw]
    split <;> rfl

theorem closeGroup_only (h : Nat) (s : State) : Only [.his] s (closeGroup h s) := closeGroup_law (Only.of_law rfl) (Has.covers rfl) (Frame.refl _ _)

/-- A row that HIS takes counts its bytes, and no row of its LSEQ is left to take. -/
theorem hisTaken_counts {h : Nat} (hh : h < 32) (r : EbRow) (s : State) :
    (hisTaken h r s).rd Reg.HisHead.OBYTES h = (s.rd Reg.HisHead.OBYTES h + hisRowBytes h s) % 2 ^ Reg.HisHead.OBYTES.width ∧
      ∀ q ∈ ((hisTaken h r s).head h).rows, q.tag.lseq = r.tag.lseq → q.taken = true := by
  have hi : Reg.HisHead.OBYTES.has h 0 = true := Field.has_lt hh (by decide)
  have hc := hisCopied_only h r s
  have hm : ∀ t, Only [.one .head h, .heads, .power] t (markTaken h r.tag.lseq t) := fun t =>
    markTaken_law (Only.of_law rfl) (Has.covers rfl) (.inl (by simp)) (Frame.refl _ _)
  constructor
  · unfold hisTaken
    rw [(evt_only _ _ _ _ _).rd_off rfl hi, (hm _).rd_off rfl hi, State.wrap, State.rd_wr_same _ rfl _ hi, hc.rd_off rfl hi]
    rw [show hisRowBytes h (hisCopied h r s) = hisRowBytes h s from rowBytes_kept hc hh rfl rfl rfl rfl]
  · unfold hisTaken
    rw [State.head, Frame.heads (evt_only _ _ _ _ _) (by simp [Covers])]
    exact markTaken_taken _ _ _

/-! ### OVS -/

theorem formOut_n (k : Nat) (s : State) : ((formOut k s).ovsOf k).n = (s.ovsOf k).n ∧ ((formOut k s).ovsOf k).gaps = (s.ovsOf k).gaps := by
  have he : ∀ (t : State) (c n : Nat), (((t.sat Reg.Stream.SATCNT k n).evt 0xC k c).ovsOf k) = t.ovsOf k := fun t c n => by
    unfold State.ovsOf
    rw [Frame.ovs (evt_only _ _ _ _ _) (by simp [Covers]), State.sat_ovs]
  unfold formOut
  dsimp only
  rw [he, State.setOvs_ovsOf_same]
  exact ⟨rfl, rfl⟩

/-- A row that enters the cascade is one more. -/
theorem enterRow_n (k : Nat) (r : SrcRow) (s : State) : ((enterRow k r s).ovsOf k).n = (s.ovsOf k).n + 1 := by
  unfold enterRow
  dsimp only
  split
  · rw [(formOut_n _ _).1, State.setOvs_ovsOf_same]
  · rw [State.setOvs_ovsOf_same]

theorem runFlush_gaps {k n : Nat} {s : State} (h : (s.ovsOf k).gaps = []) : ((runFlush k n s).ovsOf k).gaps = [] := by
  induction n generalizing s with
  | zero => exact h
  | succ n ih =>
    unfold runFlush
    dsimp only
    split
    · exact h
    split
    · split
      · exact h
      · exact ih ((formOut_n k s).2.trans h)
    · rw [State.setOvs_ovsOf_same]

/-- A stream that restarts counts it, and has no gaps to fill. -/
theorem beginFlush_restarts {k : Nat} (hk : k < 8) (s : State) :
    ((beginFlush k true s).ovsOf k).gaps = [] ∧ Counts Reg.Stream.RESTCNT k s (beginFlush k true s) := by
  have hi : Reg.Stream.RESTCNT.has k 0 = true := Field.has_lt hk (by decide)
  unfold beginFlush
  constructor
  · refine runFlush_gaps ?_
    unfold State.ovsOf
    rw [State.sat_ovs]
    exact congrArg OvsState.gaps (State.setOvs_ovsOf_same _ _ _)
  · unfold Counts
    rw [runFlush_rd _ _ _ rfl rfl hi, State.rd_sat_same _ rfl hi]
    rfl

end Sys2Proof.Machine
end

section
/-!
PROOF. Rows through the stages (O33).
-/
namespace Sys2Proof.Machine

/-- A command whose unit changes nothing leaves the state to the retirement of epochs, which with no cut and no halt does nothing. -/
theorem exec_idle {c : Instr} {s t : State} (hx : exec c s = .next (retireAll t)) (ht : t = s) (hc : s.cuts = []) (hh : s.rpa.haltArea = []) :
    exec c s = .next s := by
  rw [hx, ht, retireAll_calm hc hh]

/-- What retirement may change, and the parts that every stage names. -/
def rowParts : List Part := [.all .featMap, .all .geom, .all .lrp, .all .rtkView, .all .seam, .all .view, .grp 0, .grp 7, .grp 64, .cuts, .held,
  .mem, .progress, .recs, .rpa, .seq, .store, .tokens]

/-! ### SST takes strips -/

section
variable {l : Nat} {s : State}

theorem stripAccept_exec (hl : l < 64) : exec (.stripAccept l) s = .next (retireAll (stripAccept l s)) := by
  rw [exec_stripAccept, execStripAccept, within_lt hl]

theorem stripAccept_none (h : takeOut l s.rpa.outbox = none) : stripAccept l s = s := by
  unfold stripAccept
  rw [h]

variable {o : Strip} {os : List Strip} (ho : takeOut l s.rpa.outbox = some (o, os))

/-- SST has committed the replayed strip before. -/
abbrev CommittedBefore (s : State) (o : Strip) : Prop :=
  o.tag.flags.testBit fREPLAY = true ∧ (Tbl.get (fun _ => []) s.commits o.tag.head).contains (o.tag.lseq, o.tag.strip) = true

/-- SST has room for the strip. -/
abbrev StripFits (s : State) (o : Strip) : Prop := sstRoom s o = true ∧ headRowWaits s o = false

theorem sstTakes_iff (s : State) (o : Strip) : sstTakes s o = true ↔ StripFits s o := by simp [sstTakes]

/-- The outbox without the strip that SST looks at. -/
def outboxLeft (os : List Strip) (s : State) : State := { s with rpa := { s.rpa with outbox := os } }

include ho

theorem stripAccept_again (h : CommittedBefore s o) :
    stripAccept l s = settleStrip o.lrp o.tag ((outboxLeft os s).evt 6 o.tag.head 0x07) := by
  unfold stripAccept
  rw [ho]
  exact if_pos (by rw [h.1, h.2]; rfl)

theorem stripAccept_fits (h : ¬ CommittedBefore s o) (hf : StripFits s o) :
    stripAccept l s = commitStrip o ((outboxLeft os s).evt 5 (s.rd Reg.Lrp.PHYS o.lrp) 0x02) := by
  unfold stripAccept
  rw [ho]
  refine (if_neg (fun hc => h (Bool.and_eq_true_iff.mp hc))).trans (if_neg ?_)
  rw [(sstTakes_iff s o).mpr hf]
  decide

theorem stripAccept_waits (h : ¬ CommittedBefore s o) (hf : ¬ StripFits s o) : stripAccept l s = markWaited o os s := by
  unfold stripAccept
  rw [ho]
  refine (if_neg (fun hc => h (Bool.and_eq_true_iff.mp hc))).trans (if_pos ?_)
  rw [Bool.not_eq_true', ← Bool.not_eq_true, sstTakes_iff]
  exact hf

end

theorem stripAccept_waited {l : Nat} {s : State} {o : Strip} {os : List Strip} (ho : takeOut l s.rpa.outbox = some (o, os)) (h : ¬ CommittedBefore s o)
    (hf : ¬ StripFits s o) (hw : o.waited = true) : stripAccept l s = s :=
  (stripAccept_waits ho h hf).trans (if_pos hw)

theorem evt_commits (s : State) (u i e k : Nat) : (s.evt u i e k).commits = s.commits := Frame.commits (evt_only _ _ _ _ _) (by simp [Covers])

/-- Everything that the acceptance of a strip may change. -/
def acceptParts : List Part := rowParts ++
  [.all .head, .all .rpaStat, .all .wlkPort, .grp 17, .commits, .cutPkts, .free, .heads, .poison, .power, .sent, .strips, .views]

theorem stripAccept_only {l : Nat} {s t : State} (he : exec (.stripAccept l) s = .next t) : Only acceptParts s t :=
  outAll.get (execStripAccept_law (Only.of_law rfl) (Has.covers rfl) (Frame.refl _ _)) he

section
variable {l : Nat} (hl : l < 64) {s : State} {o : Strip} {os : List Strip} (ho : takeOut l s.rpa.outbox = some (o, os))
include hl ho

theorem accept_again (h : CommittedBefore s o) :
    Does (.stripAccept l) acceptParts (fun t => t.rpa.outbox = os ∧ t.commits = s.commits) s := by
  have he := stripAccept_exec (s := s) hl
  refine ⟨_, he, stripAccept_only he, ?_, ?_⟩
  · rw [retireAll_outbox, stripAccept_again ho h]
    exact congrArg Prod.fst ((settleStrip_outs _ _ _).trans ((evt_only _ _ _ _ _).outs (by simp [Covers])))
  · rw [Frame.commits (retireAll_only _) (by simp [Covers, retireParts]), stripAccept_again ho h]
    refine (Frame.commits (settleStrip_law (Only.of_law (l := [.mem, .poison, .rpa]) rfl) (Has.covers rfl) (Frame.refl _ _)) (by simp [Covers])).trans ?_
    exact evt_commits (outboxLeft os s) _ _ _ _

theorem accept_fits (h : ¬ CommittedBefore s o) (hf : StripFits s o) :
    Does (.stripAccept l) acceptParts (fun t => t.rpa.outbox = os ∧ Tbl.get (fun _ => []) t.commits o.tag.head = commitsWith o s) s := by
  have he := stripAccept_exec (s := s) hl
  have hc : ((outboxLeft os s).evt 5 (s.rd Reg.Lrp.PHYS o.lrp) 0x02).commits = s.commits := evt_commits (outboxLeft os s) _ _ _ _
  refine ⟨_, he, stripAccept_only he, ?_, ?_⟩
  · rw [retireAll_outbox, stripAccept_fits ho h hf]
    exact congrArg Prod.fst ((commitStrip_outs _ _).trans ((evt_only _ _ _ _ _).outs (by simp [Covers])))
  · rw [Frame.commits (retireAll_only _) (by simp [Covers, retireParts]), stripAccept_fits ho h hf, commitStrip_commits, committed]
    rw [Tbl.get_set_same, commitsWith, hc, commitsWith]

theorem accept_waits (h : ¬ CommittedBefore s o) (hf : ¬ StripFits s o) (hw : o.waited = false) :
    Does (.stripAccept l) rowParts (fun t => t.rpa.outbox = { o with waited := true } :: os) s := by
  have he := stripAccept_exec (s := s) hl
  rw [stripAccept_waits ho h hf] at he
  refine ⟨_, he, ?_, ?_⟩
  · have hr : Law (Covers rowParts) (Only rowParts s) := Only.of_law rfl
    exact retireAll_law hr (Has.covers rfl) (markWaited_law hr (Has.covers rfl) (Frame.refl _ _))
  · refine (retireAll_outbox _).trans ?_
    unfold markWaited
    rw [hw]
    exact congrArg Prod.fst ((evt_only _ _ _ _ _).outs (by simp [Covers]))

end

/-! ### SST forms view rows -/

section
variable {v : Nat} {s : State}

/-- The row awaits the exchange of a neighbour. -/
abbrev EdgeMisses (v : Nat) (r : PendRow) (s : State) : Prop :=
  (s.rd Reg.View.REMOTEL v ≠ 0 ∧ edgeFor (s.view v).left r.n = none) ∨ (s.rd Reg.View.REMOTER v ≠ 0 ∧ edgeFor (s.view v).right r.n = none)

/-- The same, as SST decides it. -/
def edgeMisses (v : Nat) (r : PendRow) (s : State) : Bool :=
  (s.on Reg.View.REMOTEL v && (edgeFor (s.view v).left r.n).isNone) || (s.on Reg.View.REMOTER v && (edgeFor (s.view v).right r.n).isNone)

theorem edgeMisses_iff (v : Nat) (r : PendRow) (s : State) : edgeMisses v r s = true ↔ EdgeMisses v r s := by
  simp [edgeMisses, EdgeMisses, State.on]

theorem viewRowForm_none {late : Bool} (h : rowToForm s v = none) : viewRowForm v late s = s := by
  unfold viewRowForm
  rw [h]

variable {r : PendRow} (hr : rowToForm s v = some r) {late : Bool}
include hr

theorem viewRowForm_waits (h : edgeMisses v r s ≠ late ∨ ¬ storeRoom s v r = true) : viewRowForm v late s = s := by
  unfold viewRowForm
  rw [hr]
  refine if_pos ?_
  rcases h with h | h
  · exact Bool.or_eq_true_iff.mpr (.inl (bne_iff_ne.mpr h))
  · exact Bool.or_eq_true_iff.mpr (.inr (by simpa using h))

theorem viewRowForm_forms (h : edgeMisses v r s = late) (hs : storeRoom s v r = true) :
    viewRowForm v late s = writeRow v r (edgeFor (s.view v).left r.n) (edgeFor (s.view v).right r.n)
      (if late then s.sat Reg.View.EDGEMISS v 1 else s) := by
  unfold viewRowForm
  rw [hr]
  refine if_neg fun hc => ?_
  rcases Bool.or_eq_true_iff.mp hc with hc | hc
  · exact bne_iff_ne.mp hc h
  · rw [hs] at hc
    exact Bool.noConfusion hc

end

/-- Everything that the forming of a view row may change. -/
def formParts : List Part := rowParts ++ [.all .wlkPort, .grp 17, .cutPkts, .sent, .views]

section
variable {v : Nat} (hv : v < 16) {s : State}
include hv

theorem viewRowForm_exec : exec (.viewRowForm v) s = .next (retireAll (viewRowForm v false s)) := by
  rw [exec_viewRowForm, execViewRowForm, within_lt hv]

theorem edgetoExpiry_exec : exec (.edgetoExpiry v) s = .next (retireAll (viewRowForm v true s)) := by
  rw [exec_edgetoExpiry, execEdgetoExpiry, within_lt hv]

variable {r : PendRow} (hr : rowToForm s v = some r) (hs : storeRoom s v r = true)
include hr hs

theorem form_inTime (h : ¬ EdgeMisses v r s) :
    Does (.viewRowForm v) formParts (fun t => Steps Reg.View.VROWS v s t ∧ t.rd Reg.View.EDGEMISS v = s.rd Reg.View.EDGEMISS v) s := by
  have he := viewRowForm_exec (s := s) hv
  have hf := viewRowForm_forms hr (late := false) (Bool.eq_false_iff.mpr fun hc => h ((edgeMisses_iff v r s).mp hc)) hs
  refine ⟨_, he, outAll.get (execViewRowForm_law (Only.of_law rfl) (Has.covers rfl) (Frame.refl _ _)) he, ?_, ?_⟩
  · unfold Steps
    rw [retireAll_view_rd (viewCount_rows hv), hf]
    exact writeRow_rows hv _ _ _ _
  · rw [retireAll_view_rd (viewCount_missed hv), hf]
    exact writeRow_missed hv _ _ _ _

theorem form_late (h : EdgeMisses v r s) :
    Does (.edgetoExpiry v) formParts (fun t => Steps Reg.View.VROWS v s t ∧ Counts Reg.View.EDGEMISS v s t) s := by
  have he := edgetoExpiry_exec (s := s) hv
  have hf := viewRowForm_forms hr (late := true) ((edgeMisses_iff v r s).mpr h) hs
  refine ⟨_, he, outAll.get (execEdgetoExpiry_law (Only.of_law rfl) (Has.covers rfl) (Frame.refl _ _)) he, ?_, ?_⟩
  · unfold Steps
    rw [retireAll_view_rd (viewCount_rows hv), hf, writeRow_rows hv, if_pos rfl, State.sat, State.rd_wr_apart _ rfl _ (viewCount_rows hv).has]
  · unfold Counts
    rw [retireAll_view_rd (viewCount_missed hv), hf, writeRow_missed hv, if_pos rfl, State.rd_sat_same _ rfl (viewCount_missed hv).has]

end

/-! ### RTK -/

section
variable {v : Nat} (hv : v < 16) {s : State}
include hv

theorem viewRowProcess_exec : exec (.viewRowProcess v) s = .next (retireAll (viewRowProcess v s)) := by
  rw [exec_viewRowProcess, execViewRowProcess, within_lt hv]

theorem viewGapProcess_exec : exec (.viewGapProcess v) s = .next (retireAll (viewGapProcess v s)) := by
  rw [exec_viewGapProcess, execViewGapProcess, within_lt hv]

theorem viewStopProcess_exec : exec (.viewStopProcess v) s = .next (retireAll (viewStopProcess v s)) := by
  rw [exec_viewStopProcess, execViewStopProcess, within_lt hv]

variable {i : StoreItem} (hn : rtkNext s v = some i) (hh : rtkHolds s = false)
include hn hh

theorem process_row (hk : i.kind = .row) (hw : wordsReady s v i.tag.lseq = true) :
    Does (.viewRowProcess v) (rowParts ++ [.grp 9, .sump]) (fun t => t.store = commitFirst 8 (viewItem v) s.store) s := by
  have he := viewRowProcess_exec (s := s) hv
  refine ⟨_, he, outAll.get (execViewRowProcess_law (Only.of_law rfl) (Has.covers rfl) (Frame.refl _ _)) he, ?_⟩
  rw [viewRowProcess_takes hn hh hk hw]
  exact rtkCommit_store (rowProcessed_only _ _ _)

theorem process_gap {g : GapPkt} (hk : i.kind = .gap g) :
    Does (.viewGapProcess v) rowParts (fun t => t.store = commitFirst 8 (viewItem v) s.store ∧
      (s.rd Reg.RtkView.GAPBRIDGE v < g.count → (t.rtk v).regions = [])) s := by
  have he := viewGapProcess_exec (s := s) hv
  refine ⟨_, he, outAll.get (execViewGapProcess_law (Only.of_law rfl) (Has.covers rfl) (Frame.refl _ _)) he, ?_, fun hg => ?_⟩
  · rw [viewGapProcess_takes hn hh hk]
    exact rtkCommit_store (gapTaken_only _ _ _)
  · rw [viewGapProcess_takes hn hh hk]
    exact retireAll_regions (gapTaken_regions hg)

theorem process_stop (hk : i.kind = .stop) :
    Does (.viewStopProcess v) rowParts (fun t => t.store = commitFirst 8 (viewItem v) s.store ∧ (t.rtk v).regions = []) s := by
  have he := viewStopProcess_exec (s := s) hv
  refine ⟨_, he, outAll.get (execViewStopProcess_law (Only.of_law rfl) (Has.covers rfl) (Frame.refl _ _)) he, ?_, ?_⟩
  · rw [viewStopProcess_takes hn hh hk]
    exact rtkCommit_store (stopTaken_only _ _)
  · rw [viewStopProcess_takes hn hh hk]
    exact retireAll_regions (stopTaken_regions v s)

end

/-! ### HIS -/

section
variable {h : Nat} (hh : h < 32) {s : State}
include hh

theorem historyRowTake_exec : exec (.historyRowTake h) s = .next (retireAll (historyTake h s)) := by
  rw [exec_historyRowTake, execHistoryRowTake, within_lt hh]

theorem take_row {r : EbRow} (he : s.rd Reg.HisHead.EN h ≠ 0) (hu : untaken s h = some r) :
    Does (.historyRowTake h) (rowParts ++ [.one .head h, .one .hisHead h, .heads, .his, .power]) (fun t =>
      t.rd Reg.HisHead.OBYTES h = (s.rd Reg.HisHead.OBYTES h + hisRowBytes h s) % 2 ^ Reg.HisHead.OBYTES.width ∧
      ∀ q ∈ (t.head h).rows, q.tag.lseq = r.tag.lseq → q.taken = true) s := by
  have hi : Reg.HisHead.OBYTES.has h 0 = true := Field.has_lt hh (by decide)
  have hx := historyRowTake_exec (s := s) hh
  refine ⟨_, hx, outAll.get (execHistoryRowTake_law (Only.of_law rfl) (Has.covers rfl) (Covers.one (by simp [rowParts]))
    (Covers.one (by simp [rowParts])) (Frame.refl _ _)) hx, ?_⟩
  obtain ⟨hb, hq⟩ := hisTaken_counts hh r s
  rw [retireAll_rd _ rfl hi, State.head, Frame.heads (retireAll_only _) (by simp [Covers, retireParts])]
  rcases historyTake_takes he hu with ht | ht
  · rw [ht]
    exact ⟨hb, hq⟩
  · rw [ht, (closeGroup_only _ _).rd_off rfl hi, Frame.heads (closeGroup_only _ _) (by simp [Covers])]
    exact ⟨hb, hq⟩

end

/-! ### OVS -/

/-- What a stream changes as it takes rows and gaps, before it commits them. -/
def streamParts : List Part := [.all .stream, .grp 64, .ovs]

theorem enterRow_only (k : Nat) (r : SrcRow) (s : State) : Only streamParts s (enterRow k r s) :=
  enterRow_law (Only.of_law rfl) (Has.covers rfl) (.inr (by simp [streamParts])) (Frame.refl _ _)

theorem beginFlush_only (k : Nat) (restart : Bool) (s : State) : Only streamParts s (beginFlush k restart s) :=
  beginFlush_law (Only.of_law rfl) (Has.covers rfl) (Frame.refl _ _)

theorem retireAll_ovsOf (s : State) (k : Nat) : (retireAll s).ovsOf k = s.ovsOf k := by
  unfold State.ovsOf
  rw [Frame.ovs (retireAll_only s) (by simp [Covers, retireParts])]

theorem evt_ovsOf_n (s : State) (k u i e n : Nat) : ((s.evt u i e n).ovsOf k).n = (s.ovsOf k).n := by
  unfold State.ovsOf
  rw [Frame.ovs (evt_only _ _ _ _ _) (by simp [Covers])]

/-- The source row that a stream enters, and what the reduction saturates. -/
def rowEntered (k : Nat) (it : StoreItem) (s : State) : State :=
  enterRow k (reduceRow s k it).1 ((s.setOvs k { s.ovsOf k with last := some (reduceRow s k it).1 }).sat Reg.Stream.SATCNT k (reduceRow s k it).2)

section
variable {k : Nat} {s : State}

theorem ovsSourceRow_none (h : ovsNext s k = none) : ovsSourceRow k s = s := by
  unfold ovsSourceRow
  rw [h]

theorem ovsGapReceive_none (h : ovsNext s k = none) : ovsGapReceive k s = s := by
  unfold ovsGapReceive
  rw [h]

variable {i : StoreItem} (hn : ovsNext s k = some i)
include hn

theorem ovsSourceRow_notRow (hk : i.kind ≠ .row) : ovsSourceRow k s = s := by
  unfold ovsSourceRow
  rw [hn]
  exact if_pos hk

/-- With no gap to fill, a stream takes its next row if there is room for the rows that it completes. -/
theorem ovsSourceRow_row (hk : i.kind = .row) (hg : (s.ovsOf k).gaps = []) :
    ovsSourceRow k s = if ovsRoom s k then commitItem k (isSource s k) ((rowEntered k i s).evt 0xC k 0x01) else s := by
  unfold ovsSourceRow
  rw [hn]
  dsimp only
  rw [if_neg (not_not_intro hk)]
  have h0 : gapSteps (s.ovsOf k) = 0 := by rw [gapSteps, hg]; rfl
  rw [h0]
  unfold substitute
  cases hr : ovsRoom s k
  · exact if_pos (by simp [hg])
  · exact if_neg (by simp [hg])

theorem ovsGapReceive_row (hk : i.kind = .row) : ovsGapReceive k s = s := by
  unfold ovsGapReceive
  rw [hn]
  dsimp only
  rw [hk]

theorem ovsGapReceive_gap {g : GapPkt} (hk : i.kind = .gap g) :
    ovsGapReceive k s = if s.rd Reg.Stream.OGAPMAX k < g.count then beginFlush k true (commitItem k (isSource s k) s)
      else (commitItem k (isSource s k) s).setOvs k { s.ovsOf k with gaps := (s.ovsOf k).gaps ++ [{ lseq := g.lseq, count := g.count }] } := by
  unfold ovsGapReceive
  rw [hn]
  dsimp only
  rw [hk]
  rfl

theorem ovsGapReceive_stop (hk : i.kind = .stop) : ovsGapReceive k s = beginFlush k true (commitItem k (isSource s k) s) := by
  unfold ovsGapReceive
  rw [hn]
  dsimp only
  rw [hk]

end

/-- Everything that a stream's source row or gap may change. -/
def ovsParts : List Part := rowParts ++ [.all .stream, .ovs]

section
variable {k : Nat} (hk : k < 8) {s : State}
include hk

theorem ovsSourceRow_exec : exec (.ovsSourceRow k) s = .next (retireAll (ovsSourceRow k s)) := by
  rw [exec_ovsSourceRow, execOvsSourceRow, within_lt hk]

theorem ovsGapReceive_exec : exec (.ovsGapReceive k) s = .next (retireAll (ovsGapReceive k s)) := by
  rw [exec_ovsGapReceive, execOvsGapReceive, within_lt hk]

omit hk in
theorem ovsSourceRow_only {t : State} (he : exec (.ovsSourceRow k) s = .next t) : Only ovsParts s t :=
  outAll.get (execOvsSourceRow_law (Only.of_law rfl) (Has.covers rfl) (Frame.refl _ _)) he

omit hk in
theorem ovsGapReceive_only {t : State} (he : exec (.ovsGapReceive k) s = .next t) : Only ovsParts s t :=
  outAll.get (execOvsGapReceive_law (Only.of_law rfl) (Has.covers rfl) (Frame.refl _ _)) he

variable {i : StoreItem} (hn : ovsNext s k = some i)
include hn

theorem source_row (hi : i.kind = .row) (hg : (s.ovsOf k).gaps = []) (hr : ovsRoom s k = true) :
    Does (.ovsSourceRow k) ovsParts (fun t => t.store = commitFirst k (isSource s k) s.store ∧ (t.ovsOf k).n = (s.ovsOf k).n + 1) s := by
  have he := ovsSourceRow_exec (s := s) hk
  refine ⟨_, he, ovsSourceRow_only he, ?_, ?_⟩
  · rw [retireAll_store, ovsSourceRow_row hn hi hg, if_pos hr]
    refine congrArg (commitFirst k (isSource s k)) ((Frame.store (evt_only _ _ _ _ _) (by simp [Covers])).trans ?_)
    refine (Frame.store (enterRow_only _ _ _) (by simp [Covers, streamParts])).trans ?_
    rw [State.sat_store]
    rfl
  · rw [retireAll_ovsOf, ovsSourceRow_row hn hi hg, if_pos hr]
    refine (evt_ovsOf_n (rowEntered k i s) k _ _ _ _).trans ?_
    rw [rowEntered, enterRow_n]
    unfold State.ovsOf
    rw [State.sat_ovs]
    have hs : ((s.setOvs k { s.ovsOf k with last := some (reduceRow s k i).1 }).ovsOf k).n = (s.ovsOf k).n := by
      rw [State.setOvs_ovsOf_same]
    exact congrArg (· + 1) hs

omit hn in
theorem source_fills : Does (.ovsSourceRow k) ovsParts (fun t => t.pending = s.pending) s := by
  have he := ovsSourceRow_exec (s := s) hk
  exact ⟨_, he, ovsSourceRow_only he, Frame.pending (ovsSourceRow_only he)⟩

theorem gap_waits {g : GapPkt} (hi : i.kind = .gap g) (hg : g.count ≤ s.rd Reg.Stream.OGAPMAX k) :
    Does (.ovsGapReceive k) ovsParts (fun t => t.store = commitFirst k (isSource s k) s.store ∧
      (t.ovsOf k).gaps = (s.ovsOf k).gaps ++ [{ lseq := g.lseq, count := g.count }]) s := by
  have he := ovsGapReceive_exec (s := s) hk
  refine ⟨_, he, ovsGapReceive_only he, ?_, ?_⟩
  · rw [retireAll_store, ovsGapReceive_gap hn hi, if_neg (by omega)]
    rfl
  · rw [retireAll_ovsOf, ovsGapReceive_gap hn hi, if_neg (by omega), State.setOvs_ovsOf_same]

theorem gap_restarts (h : (∃ g, i.kind = .gap g ∧ s.rd Reg.Stream.OGAPMAX k < g.count) ∨ i.kind = .stop) :
    Does (.ovsGapReceive k) ovsParts (fun t => t.store = commitFirst k (isSource s k) s.store ∧ (t.ovsOf k).gaps = [] ∧
      Counts Reg.Stream.RESTCNT k s t) s := by
  have he := ovsGapReceive_exec (s := s) hk
  have hf : ovsGapReceive k s = beginFlush k true (commitItem k (isSource s k) s) := by
    rcases h with ⟨g, hg, hc⟩ | h
    · rw [ovsGapReceive_gap hn hg, if_pos hc]
    · exact ovsGapReceive_stop hn h
  obtain ⟨h1, h2⟩ := beginFlush_restarts hk (commitItem k (isSource s k) s)
  refine ⟨_, he, ovsGapReceive_only he, ?_, ?_, ?_⟩
  · rw [retireAll_store, hf]
    exact Frame.store (beginFlush_only _ _ _) (by simp [Covers, streamParts])
  · rw [retireAll_ovsOf, hf]
    exact h1
  · unfold Counts
    rw [retireAll_rd _ rfl (Field.has_lt hk (by decide)), hf]
    exact h2

end

/-! ### The statement -/

/-- Settles O33: each stage by what it finds next: nothing, an item that has to wait, or one that it takes. -/
theorem rowsThroughStages : Obligations.RowsThroughStages := by
  intro l v h k s hl hv hh hk
  refine ⟨fun hn => exec_idle (stripAccept_exec hl) (stripAccept_none hn), fun o os ho => ?strips,
    fun hn => ⟨exec_idle (viewRowForm_exec hv) (viewRowForm_none hn), exec_idle (edgetoExpiry_exec hv) (viewRowForm_none hn)⟩,
    fun r hr => ?rows, ⟨fun hw => ?nothing, fun i hn => ?items⟩,
    fun hw => exec_idle (historyRowTake_exec hh) (historyTake_waits hw), fun r => take_row hh,
    fun hn => ⟨exec_idle (ovsSourceRow_exec hk) (ovsSourceRow_none hn), exec_idle (ovsGapReceive_exec hk) (ovsGapReceive_none hn)⟩,
    fun i hn => ?sources⟩
  case strips =>
    exact ⟨accept_again hl ho, accept_fits hl ho, fun h hf hw => exec_idle (stripAccept_exec hl) (stripAccept_waited ho h hf hw), accept_waits hl ho⟩
  case rows =>
    have hm := edgeMisses_iff v r s
    refine ⟨fun hw => exec_idle (viewRowForm_exec hv) (viewRowForm_waits hr (hw.imp_left fun h => ?_)),
      fun hw => exec_idle (edgetoExpiry_exec hv) (viewRowForm_waits hr (hw.imp_left fun h hc => h (hm.mp hc))),
      fun h hs => form_inTime hv hr hs h, fun h hs => form_late hv hr hs h⟩
    rw [hm.mpr h]
    decide
  case nothing =>
    have hw' : rtkNext s v = none ∨ rtkHolds s = true := hw.imp_right fun h => by simpa using h
    refine ⟨exec_idle (viewRowProcess_exec hv) ?_, exec_idle (viewGapProcess_exec hv) ?_, exec_idle (viewStopProcess_exec hv) ?_⟩ <;>
      rcases hn : rtkNext s v with _ | i
    · exact viewRowProcess_none hn
    · exact viewRowProcess_waits hn (.inr (.inl (hw'.resolve_left (by simp [hn]))))
    · exact viewGapProcess_none hn
    · exact viewGapProcess_waits hn (.inl (hw'.resolve_left (by simp [hn])))
    · exact viewStopProcess_none hn
    · exact viewStopProcess_waits hn (.inr (hw'.resolve_left (by simp [hn])))
  case items =>
    refine ⟨fun h => exec_idle (viewRowProcess_exec hv) (viewRowProcess_waits hn (h.imp_right .inr)), process_row hv hn,
      fun h => exec_idle (viewGapProcess_exec hv) (viewGapProcess_waits hn (.inr fun g hg => ?_)), fun g hr hg => process_gap hv hn hr hg,
      fun h => exec_idle (viewStopProcess_exec hv) (viewStopProcess_waits hn (.inl h)), process_stop hv hn⟩
    rcases h with h | h <;> simp [h] at hg
  case sources =>
    refine ⟨fun h => exec_idle (ovsSourceRow_exec hk) (ovsSourceRow_notRow hn h),
      fun hi hg hr => exec_idle (ovsSourceRow_exec hk) ((ovsSourceRow_row hn hi hg).trans (if_neg (by simp [hr]))), source_row hk hn,
      fun _ _ => source_fills hk, fun hi => exec_idle (ovsGapReceive_exec hk) (ovsGapReceive_row hn hi), fun g => gap_waits hk hn,
      gap_restarts hk hn⟩

end Sys2Proof.Machine
end

section
/-!
SUPPORT. What CTRL packets need of the areas that they load, what a Sump note depends on, and the packets in transit of an operation
(R30, R33, R48, R237, R392).
-/
namespace Sys2Proof.Machine

/-! ### Areas that an arrival finds free -/

section
variable {s t : State} (h : Only [.grp 64] s t)
include h

theorem areaValid_evt {k : Nat} (hk : k < 2) : areaValid t k = areaValid s k := by
  have hi : Reg.RpaGlobal.AVALID.has 0 k = true := by simp [Field.has, Reg.RpaGlobal.AVALID, hk]
  unfold areaValid
  rw [h.rd2_off rfl hi]

theorem areaEpoch_evt {k : Nat} (hk : k < 2) : areaEpoch t k = areaEpoch s k := by
  have hi : Reg.RpaGlobal.AEPOCH.has 0 k = true := by simp [Field.has, Reg.RpaGlobal.AEPOCH, hk]
  unfold areaEpoch
  rw [h.rd2_off rfl hi]

theorem areaFor_evt (ep : Nat) : areaFor t ep = areaFor s ep := by
  have hs : ∀ {k}, k < 2 → areaServes t k ep = areaServes s k ep := fun hk => by
    unfold areaServes
    rw [areaValid_evt h hk, areaEpoch_evt h hk]
  unfold areaFor
  rw [hs (by decide), hs (by decide), areaEpoch_evt h (by decide), areaEpoch_evt h (by decide)]

theorem runningHeads_evt : runningHeads t = runningHeads s :=
  List.filter_congr fun _ hx => h.on_off rfl (Field.has_lt (List.mem_range.mp hx) (by decide))

theorem openViews_evt : openViews t = openViews s :=
  List.filter_congr fun _ hx => h.on_off rfl (Field.has_lt (List.mem_range.mp hx) (by decide))

theorem cutEpoch_evt : t.rd Reg.Cut.EPOCH 0 = s.rd Reg.Cut.EPOCH 0 := h.rd_off rfl rfl

theorem epochsToRun_evt : epochsToRun t = epochsToRun s := by
  unfold epochsToRun State.head
  rw [runningHeads_evt h, cutEpoch_evt h, Frame.heads h (by simp [Covers]), Frame.procs h (by simp [Covers]), Frame.rpa h (by simp [Covers])]

theorem areaInactive_evt {k : Nat} (hk : k < 2) : areaInactive t k = areaInactive s k := by
  unfold areaInactive
  rw [areaValid_evt h hk, epochsToRun_evt h, Frame.rpa h (by simp [Covers]), funext (areaFor_evt h)]

theorem freeArea_evt : freeArea t = freeArea s := by
  unfold freeArea
  rw [List.find?_cons, List.find?_cons, List.find?_cons, List.find?_cons, areaInactive_evt h (by decide), areaInactive_evt h (by decide)]
  rfl

theorem modelFor_evt (e : Nat) : modelFor t e = modelFor s e := by
  unfold modelFor modelOf
  dsimp only
  rw [h.rd2_off (f := Reg.RclGlobal.AEPOCH) (j := 0) rfl rfl, h.rd2_off (f := Reg.RclGlobal.AEPOCH) (j := 1) rfl rfl,
    h.rd2_off (f := Reg.RclGlobal.AVALID) (j := 0) rfl rfl, h.rd2_off (f := Reg.RclGlobal.AVALID) (j := 1) rfl rfl, Frame.recs h (by simp [Covers])]

theorem epochsToClassify_evt : epochsToClassify t = epochsToClassify s := by
  unfold epochsToClassify State.prog
  rw [openViews_evt h, cutEpoch_evt h, Frame.recs h (by simp [Covers]), Frame.store h (by simp [Covers]), Frame.progress h (by simp [Covers])]

theorem modelInactive_evt {k : Nat} (hk : k < 2) : modelInactive t k = modelInactive s k := by
  have hi : Reg.RclGlobal.AVALID.has 0 k = true := by simp [Field.has, Reg.RclGlobal.AVALID, hk]
  unfold modelInactive
  rw [h.rd2_off rfl hi, epochsToClassify_evt h, Frame.recs h (by simp [Covers]), funext (modelFor_evt h)]

theorem freeModel_evt : freeModel t = freeModel s := by
  unfold freeModel
  rw [List.find?_cons, List.find?_cons, List.find?_cons, List.find?_cons, modelInactive_evt h (by decide), modelInactive_evt h (by decide)]
  rfl

/-- Whether a copy can start does not depend on what is counted. -/
theorem startCopy_evt (p : Pkt) : (startCopy p t).isSome = (startCopy p s).isSome := by
  unfold startCopy startLoad startModelCopy
  rw [freeArea_evt h, freeModel_evt h]
  split <;> simp

end

/-! ### Sump notes -/

/-- What a note makes of the spans depends on nothing else. -/
theorem merge_sump_congr {s t : State} (h : t.sump = s.sump) (src skind lseq : Nat) (pos : Int) (n : Nat) :
    (t.merge src skind lseq pos n).sump = (s.merge src skind lseq pos n).sump := by
  have hs : ∀ k, t.span k = s.span k := fun k => by unfold State.span; rw [h]
  have hm : mergeSlot t src skind lseq pos n = mergeSlot s src skind lseq pos n := by
    unfold mergeSlot Span.takes
    simp only [h, hs]
  have hf : freeSlot t = freeSlot s := by unfold freeSlot; rw [h]
  have ho : oldestSlot t = oldestSlot s := by unfold oldestSlot; rw [h]
  unfold State.merge
  rw [hm, hf, ho]
  split
  · unfold State.setSpan
    simp only [h, hs]
  · dsimp only
    split
    · unfold State.setSpan
      simp only [h]
    · unfold State.setSpan
      simp only [totalise_sump, h]

theorem note_sump_congr {s t : State} (h : t.sump = s.sump) (hp : t.pt = s.pt) (src skind : Nat) (g : Tag) : (t.note src skind g).sump = (s.note src skind g).sump := by
  unfold State.note State.takeNote
  dsimp only
  rw [hp]
  exact merge_sump_congr (by dsimp only; rw [h]) _ _ _ _ _

/-- The fields of the totalisers. -/
def totalFields : List Field := [Reg.Ledger.TROWS, Reg.Ledger.TSPANS, Reg.Ledger.TYMIN, Reg.Ledger.TYMAX]

section
variable {f : Field} {i : Nat} (hf : ∀ g ∈ totalFields, g.apart f = true) (hi : f.has i 0 = true)
include hf hi

theorem totalise_rd (s : State) (e : Span) : (totalise s e).rd f i = s.rd f i := by
  have hw : ∀ {g : Field} (_ : g ∈ totalFields) (t : State) (k v : Nat), (t.wr2 g 0 k v).rd f i = t.rd f i := fun hg t k v =>
    State.rd2_wr2_apart t (hf _ hg) v hi
  unfold totalise
  dsimp only
  rw [hw (by simp [totalFields]), hw (by simp [totalFields]), hw (by simp [totalFields]), hw (by simp [totalFields])]

/-- A note moves no field but the totalisers'. -/
theorem note_rd (s : State) (src skind : Nat) (g : Tag) : (s.note src skind g).rd f i = s.rd f i := by
  unfold State.note State.takeNote State.merge
  dsimp only
  split
  · rfl
  · split
    · rfl
    · exact totalise_rd hf hi _ _

end

theorem note_only (s : State) (src skind : Nat) (g : Tag) : Only [.grp 9, .sump] s (s.note src skind g) :=
  note_law (Only.of_law rfl) (Has.covers rfl) (Frame.refl _ _)

end Sys2Proof.Machine
end

section
/-!
SUPPORT. Streamed operations, CTRL, CUT and GAP packets and apply-at marks, each command by what it finds (R30 to R34, R38, R58, R259, R630).
-/
namespace Sys2Proof.Machine

/-- The parts that packets change as their stages apply them. -/
def packetParts : List Part :=
  [.all .featMap, .all .geom, .all .rtkView, .all .seam, .all .view, .grp 7, .grp 64, .mem, .progress, .recs, .rpa]

/-! ### A streamed operation is issued -/

/-- The packets of an operation for a stream, one for each part of its stage. -/
def opPackets (f : Forming) (s : State) (u : Bool × Nat) : List Held :=
  (subsOf s f.unit u.2).map fun l => { stage := f.unit, sub := l, pkt := formPkt s f u }

/-- In streams that run, the packets of an operation go into transit. -/
theorem insertPkts_run {f : Forming} {s : State} (ts : List (Bool × Nat)) (h : ∀ u ∈ ts, streamRuns s u.1 u.2 = true) (x : List Held) :
    ts.foldl (insertPkt f) { s with transit := x } = { s with transit := x ++ ts.flatMap (opPackets f s) } := by
  induction ts generalizing x with
  | nil => rw [List.flatMap_nil, List.append_nil]; rfl
  | cons u ts ih =>
    have h1 : insertPkt f { s with transit := x } u = { s with transit := x ++ opPackets f s u } := if_pos (h u (by simp))
    rw [List.foldl_cons, h1, ih (fun v hv => h v (by simp [hv])), List.flatMap_cons, List.append_assoc]

/-- An operation in its target streams, and the next ordinal taken. -/
def opIssued (f : Forming) (s : State) : State :=
  let t := if actsOnce (formPkt s f (false, 0)) then insertOnce f (targetStreams s f) s else (targetStreams s f).foldl (insertPkt f) s
  { t with seq := { t.seq with forming := none, ord := s.seq.ord + 1 } }

theorem mirror_keeps (i st : Nat) (s : State) :
    (mirror i st s).seq.forming = s.seq.forming ∧ (mirror i st s).seq.ord = s.seq.ord ∧ (mirror i st s).seq.status = s.seq.status := by
  obtain ⟨h, -⟩ := mirror_seq i st s
  exact ⟨by rw [h], by rw [h], by rw [h]⟩

/-- An instruction that completes with OK leaves what is formed, and shows the status. -/
theorem xDone_ok_seq (s : State) :
    (xDone stOK s).seq.forming = s.seq.forming ∧ (xDone stOK s).seq.ord = s.seq.ord ∧ (xDone stOK s).seq.status = 0 := by
  have h := mirror_keeps (s.proc (activeCore s)).pc stOK (retire (activeCore s) ((s.proc (activeCore s)).pc + 1)
    { s with seq := { s.seq with status := stOK, statusIdx := (s.proc (activeCore s)).pc } })
  rw [retire_seq] at h
  exact h

theorem xDone_transit (st : Nat) (s : State) : (xDone st s).transit = s.transit :=
  Frame.transit (xDone_law (Only.of_law (l := [.grp 64, .procs, .sampled, .seq]) rfl) (Has.covers rfl) (Frame.refl _ _)) (by simp [Covers])

section
variable {s : State}

theorem issue_waits (h : s.seq.forming = none ∨ leaseHeld s = false ∨ s.seq.stopped = true) : exec .streamedOpIssue s = .next s := by
  rw [exec_streamedOpIssue]
  unfold execStreamedOpIssue
  split
  · rfl
  · next f hf =>
    refine if_pos ?_
    rcases h with h | h | h
    · rw [hf] at h; cases h
    · simp [h]
    · simp [h]

variable {f : Forming} (hf : s.seq.forming = some f)
include hf

theorem issue_full (h : ∃ u ∈ targetStreams s f, poolFull s f.unit u.1 u.2 = true) : exec .streamedOpIssue s = .next s := by
  rw [exec_streamedOpIssue]
  unfold execStreamedOpIssue
  rw [hf]
  exact if_pos (Bool.or_eq_true_iff.mpr (.inr (List.any_eq_true.mpr h)))

theorem issue_issues (hl : leaseHeld s = true) (hs : s.seq.stopped = false) (hp : ∀ u ∈ targetStreams s f, poolFull s f.unit u.1 u.2 = false) :
    exec .streamedOpIssue s = .next (xDone stOK ((opIssued f s).evt 0 0 0x41)) := by
  have ha : ((targetStreams s f).any fun t => poolFull s f.unit t.1 t.2) = false := List.any_eq_false.mpr fun u hu => by rw [hp u hu]; decide
  rw [exec_streamedOpIssue]
  unfold execStreamedOpIssue
  rw [hf]
  refine if_neg ?_
  rw [ha, hl, hs]
  decide

end

theorem opIssued_evt_seq (f : Forming) (s : State) : ((opIssued f s).evt 0 0 0x41).seq = (opIssued f s).seq := Frame.seq (evt_only _ _ _ _ _) (by simp [Covers])

theorem opIssued_evt_transit (f : Forming) (s : State) : ((opIssued f s).evt 0 0 0x41).transit = (opIssued f s).transit :=
  Frame.transit (evt_only _ _ _ _ _) (by simp [Covers])

/-- An operation that issues takes an ordinal, and in streams that run its packets go into transit. -/
theorem streamedOp_issues {s : State} {f : Forming} (hf : s.seq.forming = some f) (hl : leaseHeld s = true) (hs : s.seq.stopped = false)
    (hp : ∀ u ∈ targetStreams s f, poolFull s f.unit u.1 u.2 = false) :
    Does .streamedOpIssue (packetParts ++ [.all .bank, .procs, .sampled, .seq, .transit]) (fun t =>
      t.seq.forming = none ∧ t.seq.ord = s.seq.ord + 1 ∧ t.seq.status = 0 ∧
      (actsOnce (formPkt s f (false, 0)) = false → (∀ u ∈ targetStreams s f, streamRuns s u.1 u.2 = true) →
        t.transit = s.transit ++ (targetStreams s f).flatMap (opPackets f s))) s := by
  have he := issue_issues hf hl hs hp
  obtain ⟨h1, h2, h3⟩ := xDone_ok_seq ((opIssued f s).evt 0 0 0x41)
  rw [opIssued_evt_seq] at h1 h2
  refine ⟨_, he, outAll.get (execStreamedOpIssue_law (Only.of_law rfl) (Has.covers rfl) (Frame.refl _ _)) he, h1, h2, h3, fun ha hr => ?_⟩
  rw [xDone_transit, opIssued_evt_transit]
  unfold opIssued
  rw [ha]
  exact congrArg State.transit (insertPkts_run _ hr s.transit)

/-! ### A CTRL packet arrives -/

/-- A packet out of transit, and counted. -/
def ctrlCame (n : Nat) (e : Held) (s : State) : State :=
  { s with transit := s.transit.eraseIdx n }.evt e.stage (unitInst s e.stage e.sub e.pkt.stream) 0x01

theorem ctrlCame_evt (n : Nat) (e : Held) (s : State) : Only [.grp 64] { s with transit := s.transit.eraseIdx n } (ctrlCame n e s) := evt_only _ _ _ _ _

theorem ctrlCame_only (n : Nat) (e : Held) (s : State) : Only [.transit, .grp 64] s (ctrlCame n e s) :=
  evt_law (Only.of_law rfl) (Has.covers rfl) ((Only.of_law rfl).transit (by simp [Covers]) (Frame.refl _ _))

theorem ctrlCame_transit (n : Nat) (e : Held) (s : State) : (ctrlCame n e s).transit = s.transit.eraseIdx n :=
  Frame.transit (ctrlCame_evt n e s) (by simp [Covers])

theorem ctrlCame_held (n : Nat) (e : Held) (s : State) : (ctrlCame n e s).held = s.held := Frame.held (ctrlCame_only n e s) (by simp [Covers])

/-- The epoch of a packet is still to come, or in flight. -/
abbrev EpochEarly (e : Held) (s : State) : Prop :=
  e.pkt.mode = 2 ∧ (epochLater (e.pkt.value % 128) (s.rd Reg.Cut.EPOCH 0) = true ∨ ∃ c ∈ s.cuts, c.epoch = e.pkt.value % 128)

theorem epochEarly_iff (n : Nat) (e : Held) (s : State) :
    EpochEarly e s ↔ e.pkt.mode = 2 ∧ (!epochRetired (ctrlCame n e s) (e.pkt.value % 128)) = true := by
  have hr : (ctrlCame n e s).rd Reg.Cut.EPOCH 0 = s.rd Reg.Cut.EPOCH 0 := (ctrlCame_only n e s).rd_off rfl rfl
  have hc : (ctrlCame n e s).cuts = s.cuts := Frame.cuts (ctrlCame_only n e s) (by simp [Covers])
  unfold epochRetired
  rw [hr, hc]
  simp [EpochEarly]

theorem ctrlArrive_none {n : Nat} {s : State} (h : s.transit[n]? = none) : exec (.ctrlPacketArrive n) s = .next s := by
  rw [exec_ctrlPacketArrive]
  unfold execCtrlPacketArrive
  rw [h]

section
variable {n : Nat} {s : State} {e : Held} (he : s.transit[n]? = some e)
include he

theorem ctrlArrive_once (ha : actsOnce e.pkt = true) : exec (.ctrlPacketArrive n) s = .next ((startCopy e.pkt (ctrlCame n e s)).getD s) := by
  rw [exec_ctrlPacketArrive]
  unfold execCtrlPacketArrive
  rw [he]
  exact if_pos ha

/-- No area is free: the packet waits upstream. -/
theorem ctrlArrive_noArea (ha : actsOnce e.pkt = true) (hc : startCopy e.pkt { s with transit := s.transit.eraseIdx n } = none) :
    exec (.ctrlPacketArrive n) s = .next s := by
  have hn : (startCopy e.pkt (ctrlCame n e s)).isSome = false := by rw [startCopy_evt (ctrlCame_evt n e s), hc]; rfl
  rw [ctrlArrive_once he ha]
  rcases h : startCopy e.pkt (ctrlCame n e s) with _ | t
  · rfl
  · rw [h] at hn; cases hn

theorem ctrlArrive_copies (ha : actsOnce e.pkt = true) (hc : (startCopy e.pkt { s with transit := s.transit.eraseIdx n }).isSome = true) :
    Does (.ctrlPacketArrive n) [.transit, .rpa, .recs, .progress, .grp 64] (fun t => t.transit = s.transit.eraseIdx n) s := by
  rw [← startCopy_evt (ctrlCame_evt n e s)] at hc
  obtain ⟨t, ht⟩ := Option.isSome_iff_exists.mp hc
  have ho : Only [.recs, .rpa] (ctrlCame n e s) t := optAll.get (startCopy_law (Only.of_law rfl) (Has.covers rfl) (Frame.refl _ _)) ht
  refine ⟨t, by rw [ctrlArrive_once he ha, ht]; rfl, Only.trans ((ctrlCame_only n e s).mono rfl) (ho.mono rfl), ?_⟩
  exact (Frame.transit ho (by simp [Covers])).trans (ctrlCame_transit n e s)

variable (ha : actsOnce e.pkt = false)
include ha

theorem ctrlArrive_cases : exec (.ctrlPacketArrive n) s =
    if streamRuns s e.pkt.vs e.pkt.stream = false then
      if e.pkt.mode = 2 ∧ 64 ≤ heldCount s e then .next s else .next (arrivesStopped e (ctrlCame n e s))
    else if 64 ≤ heldCount s e then .next s
    else .next { ctrlCame n e s with held := (ctrlCame n e s).held ++ [{ e with late := arrivesLate s e }] } := by
  rw [exec_ctrlPacketArrive]
  unfold execCtrlPacketArrive
  rw [he]
  refine (if_neg (by rw [ha]; decide)).trans ?_
  cases streamRuns s e.pkt.vs e.pkt.stream <;> rfl

theorem ctrlArrive_full (hf : 64 ≤ heldCount s e) (h : streamRuns s e.pkt.vs e.pkt.stream = true ∨ e.pkt.mode = 2) :
    exec (.ctrlPacketArrive n) s = .next s := by
  rw [ctrlArrive_cases he ha]
  split
  · next hr => exact if_pos ⟨h.resolve_left (by rw [hr]; decide), hf⟩
  · rfl

theorem ctrlArrive_holds (hr : streamRuns s e.pkt.vs e.pkt.stream = true) (hf : ¬ 64 ≤ heldCount s e) :
    Does (.ctrlPacketArrive n) [.transit, .held, .grp 64] (fun t => t.transit = s.transit.eraseIdx n ∧
      t.held = s.held ++ [{ e with late := arrivesLate s e }]) s := by
  refine ⟨_, (ctrlArrive_cases he ha).trans ((if_neg (by rw [hr]; decide)).trans (if_neg hf)),
    Only.trans ((ctrlCame_only n e s).mono rfl) ((Only.of_law rfl).held (by simp [Covers]) (Frame.refl _ _)), ctrlCame_transit n e s, ?_⟩
  dsimp only
  rw [ctrlCame_held]

variable (hr : ¬ streamRuns s e.pkt.vs e.pkt.stream = true)
include hr

theorem ctrlArrive_stopped (h : ¬ (e.pkt.mode = 2 ∧ 64 ≤ heldCount s e)) : exec (.ctrlPacketArrive n) s = .next (arrivesStopped e (ctrlCame n e s)) :=
  (ctrlArrive_cases he ha).trans ((if_pos (Bool.eq_false_iff.mpr hr)).trans (if_neg h))

theorem ctrlArrive_early (hf : ¬ 64 ≤ heldCount s e) (hE : EpochEarly e s) :
    Does (.ctrlPacketArrive n) [.transit, .held, .grp 64] (fun t => t.transit = s.transit.eraseIdx n ∧ t.held = s.held ++ [e]) s := by
  have hx := ctrlArrive_stopped he ha hr fun h => hf h.2
  unfold arrivesStopped at hx
  rw [if_pos ((epochEarly_iff n e s).mp hE)] at hx
  refine ⟨_, hx, Only.trans ((ctrlCame_only n e s).mono rfl) ((Only.of_law rfl).held (by simp [Covers]) (Frame.refl _ _)), ctrlCame_transit n e s, ?_⟩
  dsimp only
  rw [ctrlCame_held]

theorem ctrlArrive_applies (hE : ¬ EpochEarly e s) (hf : 64 ≤ heldCount s e → e.pkt.mode ≠ 2) :
    Does (.ctrlPacketArrive n) (packetParts ++ [.transit])
      (fun t => t.transit = s.transit.eraseIdx n) s := by
  have hx := ctrlArrive_stopped he ha hr fun h => hf h.2 h.1
  unfold arrivesStopped at hx
  rw [if_neg (fun h => hE ((epochEarly_iff n e s).mpr h))] at hx
  have ho : Only packetParts (ctrlCame n e s)
      (applyOne stageEff e (ctrlCame n e s)) :=
    applyOne_law (Only.of_law rfl) (Has.covers rfl) (fun _ _ h => stageEff_law (Only.of_law rfl) (Has.covers rfl) (.inr (by simp [packetParts])) h) (Frame.refl _ _)
  refine ⟨_, hx, Only.trans ((ctrlCame_only n e s).mono rfl) (ho.mono rfl), ?_⟩
  exact (Frame.transit ho (by simp [Covers, packetParts])).trans (ctrlCame_transit n e s)

end

/-! ### CUT and GAP packets arrive -/

theorem countPkt_only (stage stream code : Nat) (s : State) : Only [.grp 64] s (countPkt stage stream code s) :=
  countPkt_law (Only.of_law rfl) (Has.covers rfl) (Frame.refl _ _)

/-- A CUT packet that has reached its stage, and counted. -/
def cutCame (n : Nat) (c : CutPkt) (s : State) : State := countPkt c.stage c.stream 0x01 { s with cutPkts := s.cutPkts.eraseIdx n }

theorem cutCame_cutPkts (n : Nat) (c : CutPkt) (s : State) : (cutCame n c s).cutPkts = s.cutPkts.eraseIdx n :=
  Frame.cutPkts (countPkt_only c.stage c.stream 0x01 { s with cutPkts := s.cutPkts.eraseIdx n }) (by simp [Covers])

theorem cutCame_heads (n : Nat) (c : CutPkt) (s : State) : (cutCame n c s).heads = s.heads :=
  Frame.heads (countPkt_law (Only.of_law (l := [.grp 64, .cutPkts]) rfl) (Has.covers rfl) ((Only.of_law rfl).cutPkts (by simp [Covers]) (Frame.refl _ _)))
    (by simp [Covers])

theorem countPkt_cutPkts (stage stream code : Nat) (s : State) : (countPkt stage stream code s).cutPkts = s.cutPkts :=
  Frame.cutPkts (countPkt_only _ _ _ _) (by simp [Covers])

theorem countPkt_heads (stage stream code : Nat) (s : State) : (countPkt stage stream code s).heads = s.heads :=
  Frame.heads (countPkt_only _ _ _ _) (by simp [Covers])

theorem cutArrive_none {n : Nat} {s : State} (h : s.cutPkts[n]? = none) : exec (.cutPacketArrive n) s = .next s := by
  rw [exec_cutPacketArrive]
  unfold execCutPacketArrive
  rw [h]

/-- A CUT packet at HAU, which assigns epochs by it and sends it on. -/
def cutAtHau (c : CutPkt) (s : State) : State :=
  countPkt 2 c.stream 0x02 { s.setHead c.stream { s.head c.stream with cuts := (s.head c.stream).cuts ++ [c.cut] } with
    cutPkts := s.cutPkts ++ [{ c with stage := 5 }] }

/-- A CUT packet at RPA, which sends it on. -/
def cutAtRpa (c : CutPkt) (s : State) : State := countPkt 5 c.stream 0x02 { s with cutPkts := s.cutPkts ++ [{ c with stage := 6 }] }

section
variable {n : Nat} {s : State} {c : CutPkt} (hc : s.cutPkts[n]? = some c)
include hc

theorem cutArrive_waits (hw : cutWaits s n c = true) : exec (.cutPacketArrive n) s = .next s := by
  rw [exec_cutPacketArrive]
  unfold execCutPacketArrive
  rw [hc]
  exact if_pos hw

theorem cutArrive_passes (hw : cutWaits s n c = false) : exec (.cutPacketArrive n) s =
    if c.stage = 2 then .next (cutAtHau c (cutCame n c s)) else if c.stage = 5 then .next (cutAtRpa c (cutCame n c s)) else .next (cutCame n c s) := by
  rw [exec_cutPacketArrive]
  unfold execCutPacketArrive
  rw [hc]
  exact if_neg (by rw [hw]; decide)

/-- A CUT packet reaches its stage, and goes on to the next one. -/
theorem cutArrive_goesOn (hw : cutWaits s n c = false) : Does (.cutPacketArrive n) [.cutPkts, .heads, .grp 64] (fun t =>
    (c.stage = 2 → (t.head c.stream).cuts = (s.head c.stream).cuts ++ [c.cut]) ∧ (c.stage ≠ 2 → t.heads = s.heads) ∧
      t.cutPkts = s.cutPkts.eraseIdx n ++ if c.stage = 2 then [{ c with stage := 5 }] else if c.stage = 5 then [{ c with stage := 6 }] else []) s := by
  have ho : ∀ {t : State}, exec (.cutPacketArrive n) s = .next t → Only [.cutPkts, .heads, .grp 64] s t := fun he =>
    outAll.get (execCutPacketArrive_law (Only.of_law rfl) (Has.covers rfl) (Frame.refl _ _)) he
  have he := cutArrive_passes hc hw
  by_cases h2 : c.stage = 2
  · rw [if_pos h2] at he
    refine ⟨_, he, ho he, fun _ => ?_, fun h => absurd h2 h, ?_⟩
    · unfold cutAtHau State.head
      rw [countPkt_heads]
      dsimp only [State.setHead]
      rw [Tbl.get_set_same, cutCame_heads]
    · rw [if_pos h2]
      refine (countPkt_cutPkts _ _ _ _).trans ?_
      dsimp only
      rw [cutCame_cutPkts]
  rw [if_neg h2] at he
  by_cases h5 : c.stage = 5
  · rw [if_pos h5] at he
    refine ⟨_, he, ho he, fun h => absurd h h2, fun _ => (countPkt_heads _ _ _ _).trans (cutCame_heads n c s), ?_⟩
    rw [if_neg h2, if_pos h5]
    refine (countPkt_cutPkts _ _ _ _).trans ?_
    dsimp only
    rw [cutCame_cutPkts]
  · rw [if_neg h5] at he
    refine ⟨_, he, ho he, fun h => absurd h h2, fun _ => cutCame_heads n c s, ?_⟩
    rw [if_neg h2, if_neg h5, List.append_nil, cutCame_cutPkts]

end

theorem gapArrive_none {n : Nat} {s : State} (h : s.gaps[n]? = none) : exec (.gapPacketArrive n) s = .next s := by
  rw [exec_gapPacketArrive]
  unfold execGapPacketArrive
  rw [h]

/-- The parts of what a GAP packet does at RPA before it goes on. -/
def gapParts : List Part := [.grp 64, .held, .mem, .progress, .rpa]

/-- A GAP packet out of its link, and counted. -/
def gapCame (n : Nat) (g : GapPkt) (s : State) : State := countPkt g.stage g.stream 0x01 { s with gaps := s.gaps.eraseIdx n }

theorem gapCame_gaps (n : Nat) (g : GapPkt) (s : State) : (gapCame n g s).gaps = s.gaps.eraseIdx n :=
  Frame.gaps (countPkt_only g.stage g.stream 0x01 { s with gaps := s.gaps.eraseIdx n }) (by simp [Covers])

/-- RPA and HIS pass the points of a GAP packet. -/
def gapAtRpa (g : GapPkt) (s : State) : State :=
  stageGap noEff 10 0 false g.stream g.lseq g.rows ((lrpsOf s g.stream).foldl (fun s l => stageGap rpaEff 5 l false g.stream g.lseq g.rows s) s)

theorem gapAtRpa_only (g : GapPkt) (s : State) : Only gapParts s (gapAtRpa g s) := by
  have hl : Law (Covers gapParts) (Only gapParts s) := Only.of_law rfl
  exact stageGap_law hl (Has.covers rfl) (fun _ _ h => h) (Law.foldl (fun _ _ h => stageGap_law hl (Has.covers rfl)
    (fun _ _ h => rpaEff_law hl (Has.covers rfl) h) h) (Frame.refl _ _))

/-- A GAP packet that RPA sends on. -/
def gapSentOn (g : GapPkt) (s : State) : State := countPkt 5 g.stream 0x02 { s with gaps := s.gaps ++ [{ g with stage := 6 }] }

theorem gapSentOn_gaps (g : GapPkt) (s : State) : (gapSentOn g s).gaps = s.gaps ++ [{ g with stage := 6 }] :=
  Frame.gaps (countPkt_only 5 g.stream 0x02 { s with gaps := s.gaps ++ [{ g with stage := 6 }] }) (by simp [Covers])

theorem headGap_gaps (g : GapPkt) (s : State) : (headGap g s).gaps = s.gaps :=
  Frame.gaps (headGap_law (Only.of_law (l := [.all .geom, .all .seam, .all .view, .all .wlkPort, .grp 0, .grp 17, .grp 64, .cutPkts, .held, .progress, .sent,
    .seq, .store, .strips, .tokens, .views]) rfl) (Has.covers rfl) (Frame.refl _ _)) (by simp [Covers])

theorem retireAll_gaps (s : State) : (retireAll s).gaps = s.gaps := Frame.gaps (retireAll_only s) (by simp [Covers, retireParts])

section
variable {n : Nat} {s : State} {g : GapPkt} (hg : s.gaps[n]? = some g)
include hg

theorem gapArrive_waits (hw : gapWaits s n g = true) : exec (.gapPacketArrive n) s = .next s := by
  rw [exec_gapPacketArrive]
  unfold execGapPacketArrive
  rw [hg]
  exact if_pos hw

theorem gapArrive_passes (hw : gapWaits s n g = false) : exec (.gapPacketArrive n) s =
    if g.stage = 5 then .next (retireAll (gapSentOn g (gapAtRpa g (gapCame n g s)))) else .next (retireAll (headGap g (gapCame n g s))) := by
  rw [exec_gapPacketArrive]
  unfold execGapPacketArrive
  rw [hg]
  exact if_neg (by rw [hw]; decide)

/-- A GAP packet reaches SST, or RPA, which sends it on. -/
theorem gapArrive_goesOn (hw : gapWaits s n g = false) :
    Does (.gapPacketArrive n) (packetParts ++ [.all .lrp, .cuts, .held,
      .all .wlkPort, .grp 0, .grp 17, .cutPkts, .gaps, .sent, .seq, .store, .strips, .tokens, .views]) (fun t =>
      t.gaps = s.gaps.eraseIdx n ++ if g.stage = 5 then [{ g with stage := 6 }] else []) s := by
  have he := gapArrive_passes hg hw
  by_cases h5 : g.stage = 5
  · rw [if_pos h5] at he
    refine ⟨_, he, outAll.get (execGapPacketArrive_law (Only.of_law rfl) (Has.covers rfl) (Frame.refl _ _)) he, ?_⟩
    beta_reduce
    rw [if_pos h5, retireAll_gaps, gapSentOn_gaps, Frame.gaps (gapAtRpa_only _ _) (by simp [Covers, gapParts]), gapCame_gaps]
  · rw [if_neg h5] at he
    refine ⟨_, he, outAll.get (execGapPacketArrive_law (Only.of_law rfl) (Has.covers rfl) (Frame.refl _ _)) he, ?_⟩
    beta_reduce
    rw [if_neg h5, retireAll_gaps, headGap_gaps, gapCame_gaps, List.append_nil]

end

/-! ### Marks -/

/-- A mark at its stage leaves what is on its way to DLG, if the stage's packets do. -/
theorem passMark_toDlg {eff : Held → State → State} (he : ∀ e s, (eff e s).recs.toDlg = s.recs.toDlg) (stage v : Nat) (k : MarkKind) (s : State) :
    (passMark eff stage v k s).recs.toDlg = s.recs.toDlg := by
  have hm : Settled fun t => t.recs.toDlg = s.recs.toDlg := fun _ _ h e =>
    (congrArg RecState.toDlg (h.recs_eq (by simp [Covers, applyParts]))).trans e
  have hk : ∀ e t, t.recs.toDlg = s.recs.toDlg → (eff e t).recs.toDlg = s.recs.toDlg := fun e t h => (he e t).trans h
  unfold passMark
  split
  · exact stageRow_keeps hm hk rfl
  · exact stageGap_keeps hm hk rfl
  · exact stageStop_keeps hm hk rfl

theorem markArrive_rcl (s : State) : exec (.progressMarkArrive 8) s = .next (retireAll (markAtRcl s)) := rfl

theorem markArrive_dlg (s : State) : exec (.progressMarkArrive 9) s = .next (retireAll (markAtDlg s)) := rfl

/-- The parts that a mark's arrival changes. -/
def markParts : List Part := packetParts ++ [.all .lrp, .cuts, .held,
  .grp 0, .seq]

theorem markArrive_only {u : Nat} {s t : State} (he : exec (.progressMarkArrive u) s = .next t) : Only markParts s t :=
  outAll.get (execProgressMarkArrive_law (Only.of_law rfl) (Has.covers rfl) (Frame.refl _ _)) he

section
variable {s : State} {m : Nat} {j : MarkKind} {rest : List RecItem}

theorem markArrive_sentOn (h : s.recs.fifo = .mark m j :: rest) :
    Does (.progressMarkArrive 8) markParts (fun t => t.recs.toDlg = s.recs.toDlg ++ [.mark m j]) s := by
  refine ⟨_, markArrive_rcl s, markArrive_only (markArrive_rcl s), ?_⟩
  refine (retireAll_toDlg _).trans ?_
  unfold markAtRcl
  rw [h]
  exact passMark_toDlg (fun e t => by rw [(rclEff_only e t).recs_eq (by simp [Covers])]) _ _ _ _

theorem markArrive_ends (h : s.recs.toDlg = .mark m j :: rest) :
    Does (.progressMarkArrive 9) markParts (fun t => t.recs.toDlg = rest) s := by
  refine ⟨_, markArrive_dlg s, markArrive_only (markArrive_dlg s), ?_⟩
  refine (retireAll_toDlg _).trans ?_
  unfold markAtDlg
  rw [h]
  exact passMark_toDlg (eff := dlgEff) (fun _ _ => rfl) _ _ _ _

end

theorem markAtRcl_none {s : State} (h : s.recs.fifo = []) : markAtRcl s = s := by
  unfold markAtRcl
  rw [h]

theorem markAtDlg_none {s : State} (h : s.recs.toDlg = []) : markAtDlg s = s := by
  unfold markAtDlg
  rw [h]

end Sys2Proof.Machine
end

section
/-!
SUPPORT. What a stage's timeout diverts: a strip at RPA, a view row at SST, a record at RTK, RCL and DLG, a row copy at HIS and an output row
at OVS (R48, R58, R61, R251, R376, R393, R405, R413, R442).
-/
namespace Sys2Proof.Machine

/-- The parts of every timeout after which epochs may retire. -/
def timeoutParts : List Part := packetParts ++ [.all .lrp, .cuts, .held, .grp 9, .sump]

theorem retireAll_sump (s : State) : (retireAll s).sump = s.sump := Frame.sump (retireAll_only s) (by simp [Covers, retireParts])

/-! ### RPA -/

/-- A strip noted in the Sump and settled, its points passed. -/
def stripNoted (l skind : Nat) (g : Tag) (s : State) : State :=
  stageDivert rpaEff 5 l false g.head g.lseq g.pos g.epoch (settleStrip l g ((s.note g.head skind g).evt 5 (s.rd Reg.Lrp.PHYS l) 0x03))

/-- The GAP packet that tells SST of a strip that is missing. -/
def stripGap (skind : Nat) (g : Tag) (s : State) : GapPkt :=
  { stage := 6, stream := g.head, lseq := g.lseq, pos := g.pos, time := s.pt, skind := skind, count := 1, rows := [(g.pos, g.epoch)] }

theorem stripNoted_sump (l skind : Nat) (g : Tag) (s : State) : (stripNoted l skind g s).sump = (s.note g.head skind g).sump := by
  have hl : Law (Covers [.grp 64, .held, .progress, .mem, .poison, .rpa])
    (Only [.grp 64, .held, .progress, .mem, .poison, .rpa] (s.note g.head skind g)) := Only.of_law rfl
  exact Frame.sump (stageDivert_law hl (Has.covers rfl) (fun _ _ h => rpaEff_law hl (Has.covers rfl) h)
    (settleStrip_law hl (Has.covers rfl) (evt_law hl (Has.covers rfl) (Frame.refl _ _)))) (by simp [Covers])

theorem stripNoted_outs (l skind : Nat) (g : Tag) (s : State) : (stripNoted l skind g s).outs = s.outs := by
  have hm : Settled fun t => t.outs = s.outs := fun _ _ h e => (h.outs (by simp [Covers, applyParts])).trans e
  refine stageDivert_keeps hm (fun e t h => (rpaEff_outs e t).trans h) ((settleStrip_outs _ _ _).trans ?_)
  exact ((evt_only _ _ _ _ _).outs (by simp [Covers])).trans ((note_only s g.head skind g).outs (by simp [Covers]))

/-- The GAP packet sent, and the strips of the head marked that have a row missing before them. -/
def stripMissed (l skind : Nat) (g : Tag) (s : State) : State :=
  markGapAfter g { stripNoted l skind g s with gaps := (stripNoted l skind g s).gaps ++ [stripGap skind g (stripNoted l skind g s)] }

theorem divertAtRpa_eq (l skind : Nat) (g : Tag) (s : State) :
    divertAtRpa l skind g s = closeStrip g.head g.lseq g.strip (stripMissed l skind g s) := rfl

theorem markGapAfter_outs (g : Tag) (s : State) (gs : List GapPkt) : (markGapAfter g { s with gaps := gs }).outs = s.outs := rfl

theorem stripMissed_outs (l skind : Nat) (g : Tag) (s : State) : (stripMissed l skind g s).outs = s.outs :=
  (markGapAfter_outs g (stripNoted l skind g s) _).trans (stripNoted_outs l skind g s)

/-- A diverted strip leaves the outputs as they are. -/
theorem divertAtRpa_outs (l skind : Nat) (g : Tag) (s : State) : (divertAtRpa l skind g s).outs = s.outs := by
  rw [divertAtRpa_eq]
  exact ((closeStrip_only _ _ _ _).outs (by simp [Covers])).trans (stripMissed_outs l skind g s)

theorem divertAtRpa_sump (l skind : Nat) (g : Tag) (s : State) : (divertAtRpa l skind g s).sump = (s.note g.head skind g).sump := by
  rw [divertAtRpa_eq, Frame.sump (closeStrip_only _ _ _ _) (by simp [Covers])]
  exact stripNoted_sump l skind g s

/-- SST learns of a diverted strip. -/
theorem divertAtRpa_gap (l skind : Nat) (g : Tag) (s : State) :
    ∃ p ∈ (divertAtRpa l skind g s).gaps, p.stage = 6 ∧ p.stream = g.head ∧ p.lseq = g.lseq ∧ p.skind = skind := by
  refine ⟨stripGap skind g (stripNoted l skind g s), ?_, rfl, rfl, rfl, rfl⟩
  rw [divertAtRpa_eq, Frame.gaps (closeStrip_only _ _ _ _) (by simp [Covers])]
  exact List.mem_append_right _ (List.mem_singleton.mpr rfl)

/-- The parts of a timeout at RPA. -/
def rpaTimeoutParts : List Part := timeoutParts ++ [.all .head, .gaps, .heads, .poison, .power]

section
variable {k : Nat} (hk : k < 64) {s : State}
include hk

theorem rpaTimeout_exec : exec (.stageTimeout 5 k) s = .next (retireAll (divertOutbox k s)) := by
  rw [exec_stageTimeout]
  exact within_lt hk

omit hk in
theorem rpaTimeout_only : Only rpaTimeoutParts s (retireAll (divertOutbox k s)) := by
  have hl : Law (Covers rpaTimeoutParts) (Only rpaTimeoutParts s) := Only.of_law rfl
  exact retireAll_law hl (Has.covers rfl) (divertOutbox_law hl (Has.covers rfl) (Frame.refl _ _))

/-- SST takes the strip now, so nothing is diverted. -/
theorem rpaTimeout_taken {o : Strip} {os : List Strip} (ho : takeOut k s.rpa.outbox = some (o, os)) (ht : sstTakes s o = true)
    (hc : s.cuts = []) (hh : s.rpa.haltArea = []) : exec (.stageTimeout 5 k) s = .next s := by
  refine exec_idle (rpaTimeout_exec hk) ?_ hc hh
  unfold divertOutbox
  rw [ho]
  exact if_pos ht

theorem rpaTimeout_diverts {o : Strip} {os : List Strip} (ho : takeOut k s.rpa.outbox = some (o, os)) (ht : sstTakes s o = false) :
    Does (.stageTimeout 5 k) rpaTimeoutParts (fun t => t.rpa.outbox = os ∧ t.sump = (s.note o.tag.head 4 o.tag).sump ∧
      ∃ g ∈ t.gaps, g.stage = 6 ∧ g.stream = o.tag.head ∧ g.lseq = o.tag.lseq ∧ g.skind = 4) s := by
  have hd : divertOutbox k s = divertAtRpa k 0x04 o.tag (outboxLeft os s) := by
    unfold divertOutbox
    rw [ho]
    exact if_neg (by rw [ht]; decide)
  refine ⟨_, rpaTimeout_exec hk, rpaTimeout_only, ?_, ?_, ?_⟩
  · rw [retireAll_outbox, hd]
    exact congrArg Prod.fst (divertAtRpa_outs k 4 o.tag (outboxLeft os s))
  · rw [retireAll_sump, hd, divertAtRpa_sump]
    exact note_sump_congr (s := s) (t := outboxLeft os s) rfl rfl _ _ _
  · rw [retireAll_gaps, hd]
    exact divertAtRpa_gap k 4 o.tag (outboxLeft os s)

/-- The processor waits for journal room. -/
abbrev JournalWaits (k : Nat) (s : State) : Prop := Tbl.get (fun _ => false) s.rpa.jwait k = true ∧ journalRoom s k = false ∧ lrpFree s k = true

omit hk in
theorem journalWaits_iff (k : Nat) (s : State) :
    (Tbl.get (fun _ => false) s.rpa.jwait k && !journalRoom s k && lrpFree s k) = true ↔ JournalWaits k s := by
  simp [JournalWaits, and_assoc]

/-- The strips to be run again without one of them. -/
def replayLeft (e : Replay) (s : State) : State := { s with rpa := { s.rpa with replays := s.rpa.replays.erase e } }

variable (ho : takeOut k s.rpa.outbox = none)
include ho

theorem rpaTimeout_idle (hw : ¬ JournalWaits k s) (hc : s.cuts = []) (hh : s.rpa.haltArea = []) : exec (.stageTimeout 5 k) s = .next s := by
  refine exec_idle (rpaTimeout_exec hk) ?_ hc hh
  unfold divertOutbox
  rw [ho]
  exact if_neg fun h => hw ((journalWaits_iff k s).mp h)

/-- The strip that the processor is to run again next is diverted. -/
theorem rpaTimeout_replay {e : Replay} (hw : JournalWaits k s) (he : (s.rpa.replays.find? fun e => e.lrp == k) = some e) :
    Does (.stageTimeout 5 k) rpaTimeoutParts (fun t => t.rpa.replays = s.rpa.replays.erase e ∧ t.sump = (s.note e.tag.head 4 e.tag).sump) s := by
  have hd : divertOutbox k s =
      (divertAtRpa k 0x04 e.tag (replayLeft e s)).evt 5 (s.rd Reg.Lrp.PHYS k) 0x0B := by
    unfold divertOutbox
    rw [ho]
    refine (if_pos ((journalWaits_iff k s).mpr hw)).trans ?_
    unfold divertNext nextStrip
    rw [he]
    rfl
  refine ⟨_, rpaTimeout_exec hk, rpaTimeout_only, ?_, ?_⟩
  · rw [retireAll_replays, hd]
    exact congrArg Prod.snd (((evt_only _ _ _ _ _).outs (by simp [Covers])).trans (divertAtRpa_outs k 4 e.tag (replayLeft e s)))
  · rw [retireAll_sump, hd]
    refine (Frame.sump (evt_only _ _ _ _ _) (by simp [Covers])).trans ((divertAtRpa_sump k 4 e.tag (replayLeft e s)).trans ?_)
    exact note_sump_congr (s := s) (t := replayLeft e s) rfl rfl _ _ _

end

/-! ### SST -/

/-- The next row of a view follows a gap. -/
def GapBefore (v : Nat) (s : State) : Prop := (s.view v).gapBefore = true

section
variable {v : Nat} {s : State}

theorem GapBefore.only {l : List Part} {t : State} (hg : GapBefore v s) (h : Only l s t) (hl : ¬ Covers l .views) : GapBefore v t := by
  unfold GapBefore State.view at *
  rw [Frame.views h hl]
  exact hg

theorem GapBefore.set {e : ViewState} (he : e.gapBefore = true) : GapBefore v (s.setView v e) := by
  unfold GapBefore
  rw [State.setView_view_same]
  exact he

theorem GapBefore.sat {f : Field} {i n : Nat} (hg : GapBefore v s) : GapBefore v (s.sat f i n) := by
  unfold GapBefore State.view at *
  rw [State.sat_views]
  exact hg

variable (hg : GapBefore v s)
include hg

theorem flushViewGap_gapBefore : GapBefore v (flushViewGap v s) := by
  unfold flushViewGap
  dsimp only
  split
  · exact hg
  · exact (GapBefore.set rfl).only (putItem_law (Only.of_law (l := [.store]) rfl) (Has.covers rfl) (Frame.refl _ _)) (by simp [Covers])

theorem passMembers_gapBefore (ms : List MemRow) : GapBefore v (ms.foldl passMember s) := by
  have hl : Law (Covers [.all .geom, .all .seam, .all .view, .grp 0, .grp 64, .held, .progress, .seq])
    (Only [.all .geom, .all .seam, .all .view, .grp 0, .grp 64, .held, .progress, .seq] s) := Only.of_law rfl
  exact hg.only (Law.foldl (fun _ _ h => passMember_law hl (Has.covers rfl) h) (Frame.refl _ _)) (by simp [Covers])

theorem missViewRow_gapBefore (r : PendRow) : GapBefore v (missViewRow v r s) := by
  have hi : ∀ (c : Bool), GapBefore v (if c = true then s else flushViewGap v s) := by
    intro c
    split
    · exact hg
    · exact flushViewGap_gapBefore hg
  unfold missViewRow
  dsimp only
  exact GapBefore.sat (GapBefore.set (hi _))

theorem dropRow_gapBefore : GapBefore v (dropRow v s) := GapBefore.set hg

omit hg in
theorem openView_gapBefore (r : PendRow) : GapBefore v (openView v r s) :=
  (GapBefore.set rfl).only (l := [.all .view]) ((Only.of_law rfl).wrAllAt (B := []) (k := .view) (Has.covers rfl) (.inr (by simp)) rfl (Frame.refl _ _))
    (by simp [Covers])

theorem settleView_gapBefore (n : Nat) : GapBefore v (settleView n v s) := by
  induction n generalizing s with
  | zero => exact hg
  | succ n ih =>
    unfold settleView
    split
    · exact hg
    split
    · exact hg
    split
    · split
      · exact hg
      · exact ih (dropRow_gapBefore (missViewRow_gapBefore (passMembers_gapBefore hg _) _))
    split
    · exact openView_gapBefore _
    · exact ih (GapBefore.sat (dropRow_gapBefore (passMembers_gapBefore hg _)))

theorem sendEdges_gapBefore : GapBefore v (sendEdges v s) := by
  have he : ∀ (c : Bool) (n : Nat) (right : Bool) (e : Option EdgeRow) (t : State), GapBefore v t →
      GapBefore v (if c then sendEdge v n right e t else t) := by
    intro c n right e t h
    split
    · exact h.only (sendEdge_only _ _ _ _ _) (by simp [Covers])
    · exact h
  unfold sendEdges
  split
  · exact hg
  split
  · exact hg
  · exact he _ _ _ _ _ (he _ _ _ _ _ (GapBefore.set hg))

theorem settleRows_gapBefore : GapBefore v (settleRows v s) := sendEdges_gapBefore (settleView_gapBefore hg _)

end

/-- The parts of a timeout at SST. -/
def sstTimeoutParts : List Part := timeoutParts ++ [.all .wlkPort, .grp 0, .grp 17, .cutPkts, .sent, .seq, .store, .tokens, .views]

section
variable {v : Nat} (hv : v < 16) {s : State}
include hv

theorem sstTimeout_exec : exec (.stageTimeout 6 v) s = .next (retireAll (divertView v s)) := by
  rw [exec_stageTimeout]
  exact within_lt hv

theorem sstTimeout_diverts {r : PendRow} (hr : rowToForm s v = some r) (hs : storeRoom s v r = false) :
    Does (.stageTimeout 6 v) sstTimeoutParts (GapBefore v) s := by
  have hl : Law (Covers sstTimeoutParts) (Only sstTimeoutParts s) := Only.of_law rfl
  refine ⟨_, sstTimeout_exec hv, retireAll_law hl (Has.covers rfl) (divertView_law hl (Has.covers rfl) (Frame.refl _ _)), ?_⟩
  refine GapBefore.only ?_ (retireAll_only _) (by simp [Covers, retireParts])
  unfold divertView
  rw [hr]
  dsimp only
  rw [if_neg (by rw [hs]; decide)]
  exact settleRows_gapBefore ((GapBefore.set rfl).only (putItem_law (Only.of_law (l := [.store]) rfl) (Has.covers rfl) (Frame.refl _ _)) (by simp [Covers]))

theorem sstTimeout_idle {r : PendRow} (h : rowToForm s v = none ∨ (rowToForm s v = some r ∧ storeRoom s v r = true)) (hc : s.cuts = [])
    (hh : s.rpa.haltArea = []) : exec (.stageTimeout 6 v) s = .next s := by
  refine exec_idle (sstTimeout_exec hv) ?_ hc hh
  unfold divertView
  rcases h with h | ⟨h, hs⟩
  · rw [h]
  · rw [h]
    exact if_pos hs

end

/-! ### Records -/

/-- The view that a record names. -/
def recView (ws : List Word) : Nat := bits (recWord ws 0) 58 55

theorem recView_lt (ws : List Word) : recView ws < 16 := Nat.mod_lt _ (by decide)

/-- The tag that a record carries. -/
def recTag (ws : List Word) : Tag := Tag.ofWords (recWord ws 0) (recWord ws 1)

/-- A diverted record is noted, and its unit's count steps. -/
theorem divertRecord_notes {skind unit i : Nat} {cnt : Field} {ws : List Word} (hc : cnt.inWord = true) (hi : cnt.has i 0 = true)
    (ho : ∀ g ∈ totalFields, g.apart cnt = true) (hp : cnt.off [.grp 64] = true) (s : State) :
    Counts cnt i s (divertRecord skind unit cnt i ws s) ∧
      (divertRecord skind unit cnt i ws s).sump = (s.note (0x20 + recView ws) skind (recTag ws)).sump := by
  constructor
  · unfold Counts divertRecord
    dsimp only
    rw [(evt_only _ _ _ _ _).rd_off hp hi, State.rd_sat_same _ hc hi, note_rd ho hi]
  · unfold divertRecord
    exact (Frame.sump (evt_only _ _ _ _ _) (by simp [Covers])).trans (State.sat_sump _ _ _ _)

end Sys2Proof.Machine
end

section
/-!
PROOF. Control packets, marks, timeouts and the end of a stopping head (O32).
-/
namespace Sys2Proof.Machine

/-! ### Timeouts of records -/

theorem note_recs (s : State) (r : RecState) (src skind : Nat) (g : Tag) : (({ s with recs := r } : State).note src skind g).sump = (s.note src skind g).sump :=
  note_sump_congr (s := s) (t := { s with recs := r }) rfl rfl _ _ _

/-- A record diverted once its queue no longer holds it. -/
def recDiverted (skind unit : Nat) (cnt : Field) (i : Nat) (ws : List Word) (r : RecState) (s : State) : State :=
  divertRecord skind unit cnt i ws { s with recs := r }

/-- It counts, and a note takes its place. -/
abbrev RecNoted (skind : Nat) (cnt : Field) (i : Nat) (ws : List Word) (s t : State) : Prop :=
  Counts cnt i s t ∧ t.sump = (s.note (0x20 + recView ws) skind (recTag ws)).sump

theorem recDiverted_notes {skind unit i : Nat} {cnt : Field} {ws : List Word} (hc : cnt.inWord = true) (hi : cnt.has i 0 = true)
    (ho : ∀ g ∈ totalFields, g.apart cnt = true) (hp : cnt.off [.grp 64] = true) (r : RecState) (s : State) :
    RecNoted skind cnt i ws s (recDiverted skind unit cnt i ws r s) := by
  obtain ⟨h1, h2⟩ := divertRecord_notes (skind := skind) (unit := unit) (ws := ws) hc hi ho hp { s with recs := r }
  exact ⟨h1, h2.trans (note_recs _ _ _ _ _)⟩

theorem rtkTimeout_exec (k : Nat) (s : State) : exec (.stageTimeout 7 k) s = .next (divertAtRtk s) := rfl

theorem rclTimeout_exec (k : Nat) (s : State) : exec (.stageTimeout 8 k) s = .next (retireAll (divertAtRcl s)) := rfl

theorem dlgTimeout_exec (k : Nat) (s : State) : exec (.stageTimeout 9 k) s = .next (retireAll (divertAtDlg s)) := rfl

section
variable {ws : List Word} {is : List RecItem} {s : State} (k : Nat)

theorem rtkTimeout_diverts (h : s.recs.held = .record ws :: is) (hf : 65536 ≤ fifoRecords s.recs.fifo) :
    Does (.stageTimeout 7 k) [.grp 9, .sump, .all .rtkView, .grp 64, .recs] (RecNoted 6 Reg.RtkView.DIVCNT (recView ws) ws s) s := by
  have hi : Reg.RtkView.DIVCNT.has (recView ws) 0 = true := Field.has_lt (recView_lt ws) (by decide)
  refine ⟨_, rtkTimeout_exec k s, divertAtRtk_law (Only.of_law rfl) (Has.covers rfl) (Frame.refl _ _), ?_⟩
  have hd : divertAtRtk s = showOpen (recView ws) (recDiverted 6 7 Reg.RtkView.DIVCNT (recView ws) ws
      { s.recs with held := (pushMarks is s.recs.fifo).1, fifo := (pushMarks is s.recs.fifo).2 } s) := by
    unfold divertAtRtk
    rw [h]
    exact if_neg (by omega)
  obtain ⟨h1, h2⟩ := recDiverted_notes (skind := 6) (unit := 7) (ws := ws) (cnt := Reg.RtkView.DIVCNT) rfl hi (by decide) rfl
    { s.recs with held := (pushMarks is s.recs.fifo).1, fifo := (pushMarks is s.recs.fifo).2 } s
  rw [hd]
  unfold showOpen
  dsimp only
  refine ⟨?_, ?_⟩
  · unfold Counts
    rw [State.rd_wr_apart _ rfl _ hi, State.rd_wr_apart _ rfl _ hi]
    exact h1
  · rw [State.wr_sump, State.wr_sump]
    exact h2

theorem rtkTimeout_idle (h : s.recs.held = .record ws :: is) (hf : fifoRecords s.recs.fifo < 65536) : exec (.stageTimeout 7 k) s = .next s := by
  rw [rtkTimeout_exec]
  unfold divertAtRtk
  rw [h]
  exact congrArg _ (if_pos hf)

theorem rclTimeout_diverts (h : s.recs.fifo = .record ws :: is) (hd : dlgHolds s = true) :
    Does (.stageTimeout 8 k) (timeoutParts ++ [.all .rclView]) (RecNoted 8 Reg.RclView.DIVCNT (recView ws) ws s) s := by
  have hi : Reg.RclView.DIVCNT.has (recView ws) 0 = true := Field.has_lt (recView_lt ws) (by decide)
  have hl : Law (Covers (timeoutParts ++ [.all .rclView])) (Only (timeoutParts ++ [.all .rclView]) s) := Only.of_law rfl
  refine ⟨_, rclTimeout_exec k s, retireAll_law hl (Has.covers rfl) (divertAtRcl_law hl (Has.covers rfl) (Frame.refl _ _)), ?_⟩
  have he : divertAtRcl s = showFifo (recDiverted 8 8 Reg.RclView.DIVCNT (recView ws) ws { s.recs with fifo := is } s) := by
    unfold divertAtRcl
    rw [h]
    exact if_pos hd
  obtain ⟨h1, h2⟩ := recDiverted_notes (skind := 8) (unit := 8) (ws := ws) (cnt := Reg.RclView.DIVCNT) rfl hi (by decide) rfl { s.recs with fifo := is } s
  rw [he]
  unfold showFifo
  refine ⟨?_, ?_⟩
  · unfold Counts
    rw [retireAll_rd _ rfl hi, State.rd_wr_apart _ rfl _ hi]
    exact h1
  · rw [retireAll_sump, State.wr_sump]
    exact h2

theorem rclTimeout_idle (h : s.recs.fifo = [] ∨ dlgHolds s = false) (hc : s.cuts = []) (hh : s.rpa.haltArea = []) :
    exec (.stageTimeout 8 k) s = .next s := by
  refine exec_idle (rclTimeout_exec k s) ?_ hc hh
  unfold divertAtRcl
  rcases h with h | h
  · rw [h]
  · split
    · exact if_neg (by rw [h]; decide)
    · rfl

theorem dlgTimeout_diverts (h : s.recs.toDlg = .record ws :: is) (hr : ringTakes s false = false) :
    Does (.stageTimeout 9 k) timeoutParts (fun t => Counts Reg.Ledger.DLGDIVCNT 0 s t ∧ t.recs.toDlg = is ∧
      t.sump = (s.note (0x20 + recView ws) 9 (recTag ws)).sump) s := by
  have hl : Law (Covers timeoutParts) (Only timeoutParts s) := Only.of_law rfl
  refine ⟨_, dlgTimeout_exec k s, retireAll_law hl (Has.covers rfl) (divertAtDlg_law hl (Has.covers rfl) (Frame.refl _ _)), ?_⟩
  have he : divertAtDlg s = recDiverted 9 9 Reg.Ledger.DLGDIVCNT 0 ws { s.recs with toDlg := is } s := by
    unfold divertAtDlg
    rw [h]
    exact if_neg (by rw [hr]; decide)
  obtain ⟨h1, h2⟩ := recDiverted_notes (skind := 9) (unit := 9) (ws := ws) (cnt := Reg.Ledger.DLGDIVCNT) (i := 0) rfl rfl (by decide) rfl { s.recs with toDlg := is } s
  rw [he]
  refine ⟨?_, ?_, ?_⟩
  · unfold Counts
    rw [retireAll_rd _ rfl rfl]
    exact h1
  · rw [retireAll_toDlg]
    exact congrArg RecState.toDlg (Frame.recs (divertRecord_law (Only.of_law (l := [.grp 9, .grp 64, .sump]) (s := { s with recs := { s.recs with toDlg := is } }) rfl)
      (Has.covers rfl) (B := [.grp 9]) (Has.covers rfl) rfl (Frame.refl _ _)) (by simp [Covers]))
  · rw [retireAll_sump]
    exact h2

theorem dlgTimeout_idle (h : s.recs.toDlg = [] ∨ ringTakes s false = true) (hc : s.cuts = []) (hh : s.rpa.haltArea = []) :
    exec (.stageTimeout 9 k) s = .next s := by
  refine exec_idle (dlgTimeout_exec k s) ?_ hc hh
  unfold divertAtDlg
  rcases h with h | h
  · rw [h]
  · split
    · exact if_pos h
    · rfl

end

/-! ### Timeouts of HIS and OVS -/

section
variable {h : Nat} (hh : h < 32) {s : State}
include hh

theorem hisTimeout_exec : exec (.stageTimeout 10 h) s = .next (retireAll (divertAtHis h s)) := by
  rw [exec_stageTimeout]
  exact within_lt hh

/-- A row copy that HIS diverts is noted and counted. -/
theorem hisTimeout_diverts {r : EbRow} (he : s.rd Reg.HisHead.EN h ≠ 0) (hu : untaken s h = some r) :
    Does (.stageTimeout 10 h) (timeoutParts ++ [.one .hisHead h, .all .head, .heads, .power]) (fun t => Counts Reg.HisHead.HDIVCNT h s t ∧
      t.sump = (s.note h 0x10 r.tag).sump) s := by
  have hi : Reg.HisHead.HDIVCNT.has h 0 = true := Field.has_lt hh (by decide)
  have hl : Law (Covers (timeoutParts ++ [.one .hisHead h, .all .head, .heads, .power]))
    (Only (timeoutParts ++ [.one .hisHead h, .all .head, .heads, .power]) s) := Only.of_law rfl
  refine ⟨_, hisTimeout_exec hh, retireAll_law hl (Has.covers rfl) (divertAtHis_law hl (Has.covers rfl) (.inr (by simp [timeoutParts]))
    (Covers.one (by simp [timeoutParts])) (Frame.refl _ _)), ?_⟩
  have hon : ¬ (!s.on Reg.HisHead.EN h) = true := by simpa [State.on] using he
  have hlt : Law (Covers [.all .head, .grp 64, .heads, .held, .power, .progress]) (Only [.all .head, .grp 64, .heads, .held, .power, .progress]
    ((s.note h 0x10 r.tag).sat Reg.HisHead.HDIVCNT h 1)) := Only.of_law rfl
  have hd : Only [.all .head, .grp 64, .heads, .held, .power, .progress] ((s.note h 0x10 r.tag).sat Reg.HisHead.HDIVCNT h 1) (divertAtHis h s) := by
    unfold divertAtHis
    rw [if_neg hon, hu]
    exact evt_law hlt (Has.covers rfl) (markTaken_law hlt (Has.covers rfl) (.inr (by simp)) (stageDivert_law hlt (Has.covers rfl) (fun _ _ h => h) (Frame.refl _ _)))
  refine ⟨?_, ?_⟩
  · unfold Counts
    rw [retireAll_rd _ rfl hi, hd.rd_off rfl hi, State.rd_sat_same _ rfl hi, (note_only _ _ _ _).rd_off rfl hi]
  · rw [retireAll_sump, Frame.sump hd (by simp [Covers]), State.sat_sump]

theorem hisTimeout_idle (hw : s.rd Reg.HisHead.EN h = 0 ∨ untaken s h = none) (hc : s.cuts = []) (hr : s.rpa.haltArea = []) :
    exec (.stageTimeout 10 h) s = .next s := by
  refine exec_idle (hisTimeout_exec hh) ?_ hc hr
  unfold divertAtHis
  rcases hw with hw | hw
  · exact if_pos (by simp [State.on, hw])
  · rw [hw]
    split <;> rfl

end

section
variable {k : Nat} (hk : k < 8) {s : State}
include hk

theorem ovsTimeout_exec : exec (.stageTimeout 12 k) s = .next (divertAtOvs k s) := by
  rw [exec_stageTimeout]
  exact within_lt hk

theorem ovsTimeout_idle (h : (s.ovsOf k).held = [] ∨ (s.rd Reg.Stream.DEST k = 0 ∧ entryRoom s k = true)) : exec (.stageTimeout 12 k) s = .next s := by
  rw [ovsTimeout_exec hk]
  unfold divertAtOvs
  refine congrArg _ ?_
  split
  · rfl
  · next r rs hr =>
    refine if_pos ?_
    obtain ⟨hd, he⟩ := h.resolve_left (by rw [hr]; exact List.cons_ne_nil _ _)
    simp [State.on, hd, he]

/-- An output row that OVS diverts is noted and counted. -/
theorem ovsTimeout_diverts {r : OutRow} {rs : List OutRow} (hr : (s.ovsOf k).held = r :: rs) (h : s.rd Reg.Stream.DEST k ≠ 0 ∨ entryRoom s k = false) :
    Does (.stageTimeout 12 k) [.grp 9, .sump, .all .stream, .grp 64, .ovs] (fun t => Counts Reg.Stream.DIVCNT k s t ∧
      t.sump = (s.note (0x30 + k) 0x20 r.tag).sump) s := by
  have hi : Reg.Stream.DIVCNT.has k 0 = true := Field.has_lt hk (by decide)
  refine ⟨_, ovsTimeout_exec hk, divertAtOvs_law (Only.of_law rfl) (Has.covers rfl) (Frame.refl _ _), ?_⟩
  have hd : divertAtOvs k s = runFlush k 6 ((((s.setOvs k { s.ovsOf k with held := rs }).note (0x30 + k) 0x20 r.tag).sat Reg.Stream.DIVCNT k 1).evt 0xC k 0x03) := by
    unfold divertAtOvs
    rw [hr]
    refine if_neg fun hc => ?_
    rcases h with h | h
    · simp [State.on, h] at hc
    · simp [h] at hc
  rw [hd]
  refine ⟨?_, ?_⟩
  · unfold Counts
    rw [runFlush_rd _ _ _ rfl rfl hi, (evt_only _ _ _ _ _).rd_off rfl hi, State.rd_sat_same _ rfl hi, (note_only _ _ _ _).rd_off rfl hi]
    rfl
  · have hf : ∀ (n : Nat) (t : State), (runFlush k n t).sump = t.sump := fun n t =>
      Frame.sump (runFlush_law (Only.of_law (l := [.all .stream, .grp 64, .ovs]) rfl) (Has.covers rfl) (Frame.refl _ _)) (by simp [Covers])
    rw [hf, Frame.sump (evt_only _ _ _ _ _) (by simp [Covers]), State.sat_sump]
    exact note_sump_congr (s := s) (t := s.setOvs k { s.ovsOf k with held := rs }) rfl rfl _ _ _

end

/-! ### The end of a stopping head -/

/-- A stopping head passes its last points, and closes what it has open. -/
def stopClosed (h : Nat) (s : State) : State :=
  let t := releaseAssigns h (closeGroup h (closeAllStats h (stageStop noEff 10 0 false h (stageStop sstEff 6 0 false h
    ((lrpsOf (sendGap h s) h).foldl (fun s l => stageStop rpaEff 5 l false h s) (sendGap h s))))))
  putItem { kind := .stop, vs := false, src := h, need := streamsOf t false h } t

/-- The head no longer runs. -/
def stopEnded (h : Nat) (s : State) : State :=
  ((showAssigned h 0 (s.setHead h { s.head h with stopping := false })).wr Reg.Head.RUNNING h 0).completeAll 2 0x06 h stOK

theorem showAssigned_heads (h v : Nat) (s : State) : (showAssigned h v s).heads = s.heads :=
  Frame.heads (showAssigned_law (Only.of_law (l := [.all .lane]) rfl) (Has.covers rfl) (Frame.refl _ _)) (by simp [Covers])

theorem stopEnded_running {h : Nat} (hh : h < 32) (s : State) : (stopEnded h s).rd Reg.Head.RUNNING h = 0 :=
  State.rd_wr_same _ rfl _ (Field.has_lt hh (by decide))

theorem stopEnded_stopping (h : Nat) (s : State) : ((stopEnded h s).head h).stopping = false := by
  have he : (stopEnded h s).heads = (s.setHead h { s.head h with stopping := false }).heads :=
    (State.wr_heads _ _ _ _).trans (showAssigned_heads _ _ _)
  unfold State.head
  rw [he]
  exact congrArg HeadState.stopping (State.setHead_head_same _ _ _)

section
variable {h : Nat} (hh : h < 32) {s : State}
include hh

theorem stopComplete_waits (hs : stopSettled s h = false) : exec (.hauStopComplete h) s = .next s := by
  rw [exec_hauStopComplete, execHauStopComplete, within_lt hh]
  exact if_pos (by rw [hs]; rfl)

theorem stopComplete_ends (hs : stopSettled s h = true) :
    Does (.hauStopComplete h) (packetParts ++ [.all .lrp, .cuts, .held,
      .all .lane, .one .head h, .one .rpaStat h, .grp 0, .free, .gaps, .heads, .his, .poison, .seq, .store, .tokens])
      (fun t => t.rd Reg.Head.RUNNING h = 0 ∧ (t.head h).stopping = false) s := by
  have he : exec (.hauStopComplete h) s = .next (retireAll (stopEnded h (stopClosed h s))) := by
    rw [exec_hauStopComplete, execHauStopComplete, within_lt hh]
    exact if_neg (by rw [hs]; decide)
  refine ⟨_, he, outAll.get (execHauStopComplete_law (Only.of_law rfl) (Has.covers rfl) (Covers.one (by simp)) (Covers.one (by simp)) (Frame.refl _ _)) he, ?_, ?_⟩
  · rw [retireAll_rd _ rfl (Field.has_lt hh (by decide))]
    exact stopEnded_running hh _
  · rw [State.head, Frame.heads (retireAll_only _) (by simp [Covers, retireParts])]
    exact stopEnded_stopping h _

end

/-! ### The statement -/

/-- Settles O32: each command of the control packets, the timeouts and the end of a stop by what it finds. -/
theorem controlPackets : Obligations.ControlPackets := by
  intro n k h v s hk hh hv
  refine ⟨issue_waits, fun f hf => ⟨issue_full hf, streamedOp_issues hf⟩, ctrlArrive_none, fun e he => ?arrives,
    cutArrive_none, fun c hc => ⟨cutArrive_waits hc, cutArrive_goesOn hc⟩, gapArrive_none, fun g hg => ⟨gapArrive_waits hg, gapArrive_goesOn hg⟩,
    fun m j rest => ⟨markArrive_sentOn, markArrive_ends⟩,
    fun hc hf => exec_idle (markArrive_rcl s) (markAtRcl_none hf) hc.1 hc.2, fun hc hd => exec_idle (markArrive_dlg s) (markAtDlg_none hd) hc.1 hc.2,
    fun o os ho => ⟨fun ht hc => rpaTimeout_taken hk ho ht hc.1 hc.2, rpaTimeout_diverts hk ho⟩,
    fun ho => ⟨fun hw hc => rpaTimeout_idle hk ho hw hc.1 hc.2, fun e => rpaTimeout_replay hk ho⟩,
    fun r hr hs => sstTimeout_diverts hv hr hs, fun r hc hw => sstTimeout_idle hv hw hc.1 hc.2, fun ws is => ?records,
    fun hc hw => dlgTimeout_idle k hw hc.1 hc.2, fun r he hu => hisTimeout_diverts hh he hu, fun hc hw => hisTimeout_idle hh hw hc.1 hc.2,
    fun hk => ⟨ovsTimeout_idle hk, fun r rs => ovsTimeout_diverts hk⟩, stopComplete_waits hh, stopComplete_ends hh⟩
  case arrives =>
    exact ⟨ctrlArrive_noArea he, ctrlArrive_copies he, ctrlArrive_full he, ctrlArrive_holds he, ctrlArrive_early he, ctrlArrive_applies he⟩
  case records =>
    exact ⟨rtkTimeout_diverts k, rtkTimeout_idle k, rclTimeout_diverts k, fun hc hw => rclTimeout_idle k hw hc.1 hc.2, dlgTimeout_diverts k⟩

end Sys2Proof.Machine
end

section
/-!
PROOF. Values after reset (O51).
-/
namespace Sys2Proof.Machine

theorem reset_lanes : ∀ n, n < 256 → State.reset.rd Reg.Lane.STATE n = 1 ∧ State.reset.rd Reg.Lane.RATE n = 0 := by decide +kernel

theorem reset_boundRps : ∀ l, l < 64 → State.reset.rd Reg.RpaDep.PSTATE l = 0 ∧ State.reset.rd Reg.Lrp.PHYS l = l := by decide +kernel

theorem reset_spareRps : ∀ u, u < 72 → 64 ≤ u → State.reset.rd Reg.RpaDep.PSTATE u = 1 := by decide +kernel

theorem reset_lease : State.reset.rd Reg.SeqLease.LEASEPAIR 0 = 0 ∧ State.reset.rd Reg.SeqLease.LEASE 0 = 40 ∧ State.reset.rd Reg.SeqLease.RENEW 0 = 10 := by
  decide +kernel

theorem reset_banks : ∀ b, b < 256 → State.reset.rd Reg.Mem.PSTATE b = 0 ∧ State.reset.rd Reg.Mem.MODE b = 0 := by decide +kernel

theorem reset_channels : ∀ c, c < 8 → State.reset.rd Reg.Dmc.CHSTATE c = 0 := by decide +kernel

theorem reset_rpLimits : State.reset.rd Reg.RpaGlobal.RUNLIMIT 0 = 65536 ∧ State.reset.rd Reg.RpaDep.CETHR 0 = 16 := by decide +kernel

theorem reset_power : State.reset.rd Reg.Pba.BUDGET 0 = 180000 ∧ State.reset.rd Reg.Pba.TWARN 0 = 120 ∧ State.reset.rd Reg.Pba.VMIN 0 = 720 ∧
    State.reset.rd Reg.Pba.VTARGET 0 = 620 ∧ State.reset.rd Reg.Pba.LIVEHOLD 0 = 10 ∧ State.reset.rd Reg.Rail.WARN 0 = 660 ∧
    State.reset.rd Reg.Pba.RSTCAUSE 0 = 1 := by decide +kernel

theorem reset_time : State.reset.rd Reg.Tnt.INC 0 = 16 * 2 ^ 40 ∧ State.reset.raw = 0 := by decide +kernel

theorem reset_rings : State.reset.rd Reg.Bar0.CEN 0 = 0 ∧ State.reset.rd Reg.Bar0.HLEN 0 = 0 ∧ State.reset.rd Reg.Bar0.MEN 0 = 0 := by decide +kernel

/-- Settles O51: the state after reset, block by block. -/
theorem resetValues : Obligations.ResetValues := by
  obtain ⟨hpair, hlease, hrenew⟩ := reset_lease
  obtain ⟨hrun, hce⟩ := reset_rpLimits
  obtain ⟨hbudget, htwarn, hvmin, hvtarget, hlive, hrail, hcause⟩ := reset_power
  obtain ⟨hinc, hraw⟩ := reset_time
  obtain ⟨hcen, hhlen, hmen⟩ := reset_rings
  exact ⟨reset_lanes, reset_boundRps, fun u h1 h2 => reset_spareRps u h2 h1, hpair, hlease, hrenew, reset_banks, reset_channels, hrun, hce,
    hbudget, htwarn, hvmin, hvtarget, hlive, hrail, hcause, hinc, hraw, hcen, hhlen, hmen⟩

end Sys2Proof.Machine
end

section
/-!
PROOF. SLA.POWER refused on a lane of a running head (O58).
-/
namespace Sys2Proof.Machine

/-- An operation that writes no field leaves every field but the live performance counts. -/
theorem XDid.rd_kept {st : Nat} {l : List Part} {q : SeqState} {s t : State} (h : XDid st [] l q s t) {f : Field} {i : Nat} (hf : f.fits = true)
    (hg : f.group ≠ 64) (hi : f.has i 0 = true) : t.rd f i = s.rd f i := by
  obtain ⟨-, hw, -⟩ := h
  exact congrArg (f.get 0) (hw _ (by rwa [Field.group_word hf hi]))

theorem powerBusy_of_sleep {a : XArgs} {s : State} (ha : s.rd Reg.Lane.ASSIGNED a.i ≠ 0)
    (hp : a.arg.testBit 1 = true ∨ a.arg.testBit 0 = true ∨ (a.arg.testBit 2 = true ∧ s.rd Reg.Lane.MASTER a.i ≠ 0)) : PowerBusy a s :=
  ⟨bne_iff_ne.mpr ha, hp.imp_right (.imp_right (.imp_right bne_iff_ne.mpr))⟩

/-- The fields of a lane's power state. -/
def sleepFields : List Field := [Reg.Lane.STATE, Reg.Lane.TXSLEEP, Reg.Lane.RXSLEEP, Reg.Lane.COLD]

theorem sleepFields_inLane : ∀ f ∈ sleepFields, f.fits = true ∧ f.group ≠ 64 ∧ f.n1 = 256 ∧ f.n2 = 1 := by decide

/-- Settles O58: what the lane must not do is refused as LANE_BUSY, and a refused operation writes nothing. -/
theorem sleepOfRunningHeadIsLaneBusy : Obligations.SleepOfRunningHeadIsLaneBusy := by
  intro x s h a hi ha hp
  obtain ⟨t, he, hd⟩ := slaPower_busy h hi (powerBusy_of_sleep ha hp)
  have hothers : Others [.procs, .seq, .sampled] s t := hd.2.2
  have hl : t.lanes = s.lanes := Frame.lanes hothers (by simp [Part.isReg])
  refine ⟨t, he, hd, fun f hf => ?_, by simp only [State.lane, hl]⟩
  obtain ⟨h1, h2, h3, h4⟩ := sleepFields_inLane f hf
  exact hd.rd_kept h1 h2 (Lane.field_has hi h3 h4)

end Sys2Proof.Machine
end

section
/-!
SUPPORT. What the events of a lane share: the causes it sets, what stays of other lanes, and the set it deskews with (R81, R109, R149).
-/
namespace Sys2Proof.Machine

/-! ### Commands -/

/-- A command that ends in t changes no part but those of which every law survives it. -/
theorem Does.of_law {c : Instr} {ps : List Part} {P : State → Prop} {s t : State} (he : exec c s = .next t) (hl : outAll (Only ps s) (exec c s))
    (hP : P t) : Does c ps P s := ⟨t, he, hl.get he, hP⟩

theorem Does.imp {c : Instr} {ps : List Part} {P R : State → Prop} {s : State} (h : Does c ps P s) (hi : ∀ t, P t → R t) : Does c ps R s := by
  obtain ⟨t, he, hl, hP⟩ := h
  exact ⟨t, he, hl, hi t hP⟩

/-! ### Causes -/

/-- Lane n sets cause c: it stands in EVCAUSE, and a token goes out when it is enabled. -/
def Caused (n c : Nat) (s t : State) : Prop :=
  (t.rd Reg.Lane.EVCAUSE n).testBit c = true ∧ t.tokens = s.tokens ++ if (s.rd Reg.Lane.EVEN n).testBit c then tokensOf s n else []

/-- Lane n sets no cause. -/
def Quiet (n : Nat) (s t : State) : Prop := t.rd Reg.Lane.EVCAUSE n = s.rd Reg.Lane.EVCAUSE n ∧ t.tokens = s.tokens

/-- A list of parts holds no word of the event router's channels. -/
def chansOff (l : List Part) : Bool := Reg.EvrChan.EN.off l && Reg.EvrChan.SRC.off l

theorem tokensOf_only {l : List Part} {s t : State} (h : Only l s t) (hl : chansOff l = true) (src : Nat) : tokensOf t src = tokensOf s src := by
  obtain ⟨he, hs⟩ := Bool.and_eq_true_iff.mp hl
  have hk : ∀ k, k < 128 → t.on Reg.EvrChan.EN k = s.on Reg.EvrChan.EN k ∧ t.rd Reg.EvrChan.SRC k = s.rd Reg.EvrChan.SRC k := fun k hk =>
    ⟨h.on_off he (Field.has_lt hk (by decide)), h.rd_off hs (Field.has_lt hk (by decide))⟩
  unfold tokensOf
  refine congrArg _ (List.filter_congr fun k hm => ?_)
  rw [(hk k (List.mem_range.mp hm)).1, (hk k (List.mem_range.mp hm)).2]

theorem laneCause_only (n c : Nat) (s : State) : Only [.one .lane n, .tokens] s (laneCause n c s) :=
  laneCause_law (Only.of_law rfl) (Has.covers rfl) (Covers.one (by simp)) (Frame.refl _ _)

theorem wrLane_only {f : Field} (hf : f.okAt [] .lane = true) (n v : Nat) (s : State) : Only [.one .lane n] s (s.wr f n v) :=
  (Only.of_law rfl).wrAt (B := []) (Has.covers rfl) (Covers.one (by simp)) hf (Frame.refl _ _)

theorem laneCause_tokens (n c : Nat) (s : State) :
    (laneCause n c s).tokens = s.tokens ++ if (s.rd Reg.Lane.EVEN n).testBit c then tokensOf s n else [] := by
  unfold laneCause
  dsimp only
  split
  · rw [← tokensOf_only (wrLane_only (f := Reg.Lane.EVCAUSE) rfl n _ s) rfl]
    exact congrArg (· ++ _) (State.wr_tokens _ _ _ _)
  · rw [State.wr_tokens, List.append_nil]

/-- A lane that sets a cause after other changes of its own has caused it. -/
theorem Caused.of_laneCause {l : List Part} {n c : Nat} {s u : State} (hn : n < 256) (hc : c < Reg.Lane.EVCAUSE.width) (h : Only l s u)
    (hl : chansOff l = true) (ht : u.tokens = s.tokens) (he : u.rd Reg.Lane.EVEN n = s.rd Reg.Lane.EVEN n) : Caused n c s (laneCause n c u) := by
  refine ⟨laneCause_set _ hn hc, ?_⟩
  rw [laneCause_tokens, ht, he, tokensOf_only h hl]

theorem Caused.setLane {n c m : Nat} {s t : State} (h : Caused n c s t) (x : Lane) : Caused n c s (t.setLane m x) := h

/-! ### Other lanes -/

/-- The sleep of a lane's transmitter, which the training of another lane of its head may ask for (R96). -/
def txSleepFields : List Field := [Reg.Lane.TXSLEEP, Reg.Lane.TXASLEEP]

/-- Lane m stands in t as it does in s: its block, but for the sleep of its transmitter, and what it keeps beside. -/
def SameLane (m : Nat) (s t : State) : Prop :=
  (∀ f : Field, f.inArr .lane = true → f.has m 0 = true → (txSleepFields.all fun g => g.apart f) = true → t.rd f m = s.rd f m) ∧ t.lane m = s.lane m

namespace SameLane

theorem refl (m : Nat) (s : State) : SameLane m s s := ⟨fun _ _ _ _ => rfl, rfl⟩

theorem trans {m : Nat} {s t u : State} (h : SameLane m s t) (k : SameLane m t u) : SameLane m s u :=
  ⟨fun f hf hi ha => (k.1 f hf hi ha).trans (h.1 f hf hi ha), k.2.trans h.2⟩

theorem of_only {l : List Part} {m : Nat} {s t : State} (h : Only l s t) (hl : ¬ Covers l (.one .lane m)) (he : t.lane m = s.lane m) :
    SameLane m s t := ⟨fun _ hf hi _ => h.rd_one hf (fun hc => hl (.inl hc)) (fun hc => hl (.inr hc)) hi, he⟩

theorem of_moves {m : Nat} {s t : State} (h : Moves txSleepFields s t) (he : t.lane m = s.lane m) : SameLane m s t :=
  ⟨fun _ _ hi ha => h.rd ha hi, he⟩

theorem rd {m : Nat} {s t : State} (h : SameLane m s t) {f : Field} (hf : f.inArr .lane = true) (hi : f.has m 0 = true)
    (ha : (txSleepFields.all fun g => g.apart f) = true := by rfl) : t.rd f m = s.rd f m := h.1 f hf hi ha

theorem lane {m : Nat} {s t : State} (h : SameLane m s t) : t.lane m = s.lane m := h.2

end SameLane

section
variable {f : State → Nat → State} {m : Nat} {L : List Nat}

/-- Visits of other lanes leave lane m. -/
theorem foldl_sameLane (hf : ∀ u n, n ≠ m → SameLane m u (f u n)) (hm : m ∉ L) (s : State) : SameLane m s (L.foldl f s) := by
  induction L generalizing s with
  | nil => exact SameLane.refl _ _
  | cons n L ih =>
    rw [List.mem_cons, not_or] at hm
    exact (hf s n (Ne.symm hm.1)).trans (ih hm.2 _)

/-- The first visit of lane m finds it as it was before, and visits of the rest follow. -/
theorem foldl_visits (hf : ∀ u n, n ≠ m → SameLane m u (f u n)) (hm : m ∈ L) (s : State) :
    ∃ (u : State) (r : List Nat), SameLane m s u ∧ L.foldl f s = r.foldl f (f u m) ∧ (L.Nodup → m ∉ r) := by
  obtain ⟨as, bs, rfl, ha⟩ := List.eq_append_cons_of_mem hm
  refine ⟨as.foldl f s, bs, foldl_sameLane hf ha s, by rw [List.foldl_append, List.foldl_cons], fun hd => ?_⟩
  exact (List.nodup_cons.mp hd.of_append_right).1

/-- What the first visit of lane m brings about and every visit keeps holds in the end. -/
theorem foldl_reaches {P : State → Prop} (hf : ∀ u n, n ≠ m → SameLane m u (f u n)) (hm : m ∈ L) {s : State}
    (hfirst : ∀ u, SameLane m s u → P (f u m)) (hkeep : ∀ u n, P u → P (f u n)) : P (L.foldl f s) := by
  obtain ⟨u, r, hu, he, -⟩ := foldl_visits hf hm s
  rw [he]
  exact List.foldlRecOn r f (hfirst u hu) fun b hb a _ => hkeep b a hb

end

/-! ### The set of a lane -/

/-- A list of parts holds no word of the heads' blocks. -/
def headsOff (l : List Part) : Bool :=
  l.all fun p => match p with
    | .grp g => g != 2
    | .one k _ => !([Arr.head, Arr.strips, Arr.eslHead].contains k)
    | .all k => !([Arr.head, Arr.strips, Arr.eslHead].contains k)
    | .bonded => false
    | _ => true

theorem headWord_off {l : List Part} (hl : headsOff l = true) {a : Nat} (h1 : 0x20020000 ≤ a) (h2 : a < 0x20030000) : ¬ Covers l (partOf a) := by
  have hg : groupOf a = 2 := by
    unfold groupOf
    rw [if_pos (by omega)]
    omega
  unfold partOf
  rw [hg]
  split
  · next k hk =>
    have hm : k ∈ [Arr.head, Arr.strips, Arr.eslHead] := List.mem_of_find?_eq_some hk
    have hc : (!([Arr.head, Arr.strips, Arr.eslHead].contains k)) = false := by rw [List.contains_iff_mem.mpr hm]; rfl
    rintro (h | h) <;> exact Bool.noConfusion (hc.symm.trans (List.all_eq_true.mp hl _ h))
  · exact fun h => by simpa using List.all_eq_true.mp hl _ h

section
variable {l : List Part} {s t : State} (h : Only l s t) (hl : headsOff l = true)
include h hl

theorem bonded_only : t.bonded = s.bonded := Frame.bonded h fun hc => by simpa using List.all_eq_true.mp hl _ hc

theorem headLanes_only {k : Nat} (hk : k < 32) : t.rd Reg.Head.LANES k = s.rd Reg.Head.LANES k :=
  Frame.rd2 h (headWord_off hl (Nat.le_add_right _ _) (show 0x20020000 + 0x80 * k + 0 < 0x20030000 by omega))

theorem laneMap_only {k j : Nat} (hk : k < 32) (hj : j < 2 ^ s.rd Reg.Head.LANES k) : t.rd2 Reg.Head.LANEMAP k j = s.rd2 Reg.Head.LANEMAP k j := by
  have hw : 2 ^ s.rd Reg.Head.LANES k ≤ 2 ^ 7 := Nat.pow_le_pow_right (by decide) (Nat.le_of_lt_succ (s.rd_lt Reg.Head.LANES k))
  have hword : Reg.Head.LANEMAP.word k j = 0x20020008 + 0x80 * k + 8 * (j * 8 / 64) := rfl
  exact Frame.rd2 h (headWord_off hl (by omega) (by omega))

theorem bondOf_only (n : Nat) : bondOf t n = bondOf s n := by
  unfold bondOf
  refine findSome?_ext fun k hk => ?_
  have hk := List.mem_range.mp hk
  rw [bonded_only h hl, headLanes_only h hl hk]
  refine if_congr Iff.rfl (congrArg _ (List.find?_congr fun j hj => ?_)) rfl
  rw [laneMap_only h hl hk (List.mem_range.mp hj)]

theorem bondLanes_only {k : Nat} (hk : k < 32) : bondLanes t k = bondLanes s k := by
  unfold bondLanes
  rw [bonded_only h hl, headLanes_only h hl hk]
  exact if_congr Iff.rfl (List.map_congr_left fun j hj => laneMap_only h hl hk (List.mem_range.mp hj)) rfl

end

/-- A lane of a bonding list has its position there. -/
theorem bondOf_some {s : State} {n h k : Nat} (hb : bondOf s n = some (h, k)) :
    h < 32 ∧ Tbl.get (fun _ => false) s.bonded h = true ∧ k < 2 ^ s.rd Reg.Head.LANES h ∧ s.rd2 Reg.Head.LANEMAP h k = n := by
  unfold bondOf at hb
  obtain ⟨h', hm, he⟩ := List.exists_of_findSome?_eq_some hb
  split at he
  · next hbo =>
    obtain ⟨k', hk, hp⟩ := Option.map_eq_some_iff.mp he
    injection hp with h1 h2
    subst h1 h2
    exact ⟨List.mem_range.mp hm, hbo, List.mem_range.mp (List.mem_of_find?_eq_some hk), by simpa using List.find?_some hk⟩
  · cases he

theorem bondLanes_lt {s : State} {h m : Nat} (hm : m ∈ bondLanes s h) : m < 256 := by
  unfold bondLanes at hm
  split at hm
  · obtain ⟨k, -, rfl⟩ := List.mem_map.mp hm
    exact State.rd2_lt s Reg.Head.LANEMAP h k
  · cases hm

theorem laneSet_alone {s : State} {n : Nat} (h : bondOf s n = none) : laneSet s n = [n] := by
  unfold laneSet
  rw [h]

theorem laneSet_bonded {s : State} {n h k : Nat} (hb : bondOf s n = some (h, k)) : laneSet s n = bondLanes s h := by
  unfold laneSet
  rw [hb]

theorem self_mem_laneSet (s : State) (n : Nat) : n ∈ laneSet s n := by
  cases hb : bondOf s n with
  | none => rw [laneSet_alone hb]; exact List.mem_singleton_self n
  | some p =>
    obtain ⟨h, k⟩ := p
    obtain ⟨-, hbo, hk, hm⟩ := bondOf_some hb
    rw [laneSet_bonded hb, bondLanes, if_pos hbo]
    exact List.mem_map.mpr ⟨k, List.mem_range.mpr hk, hm⟩

theorem laneSet_lt {s : State} {n m : Nat} (hn : n < 256) (hm : m ∈ laneSet s n) : m < 256 := by
  cases hb : bondOf s n with
  | none => rw [laneSet_alone hb, List.mem_singleton] at hm; exact hm ▸ hn
  | some p => rw [laneSet_bonded (k := p.2) hb] at hm; exact bondLanes_lt hm

theorem laneSet_only {l : List Part} {s t : State} (h : Only l s t) (hl : headsOff l = true) (n : Nat) : laneSet t n = laneSet s n := by
  unfold laneSet
  rw [bondOf_only h hl]
  cases hb : bondOf s n with
  | none => rfl
  | some p => exact bondLanes_only h hl (bondOf_some (k := p.2) hb).1

end Sys2Proof.Machine
end

section
/-!
SUPPORT. What each step of a lane leaves of the other lanes, and what lanes keep beside their blocks (R74, R85, R90 to R99).
-/
namespace Sys2Proof.Machine

/-! ### Beside the blocks -/

section
variable (n m : Nat) (s : State)

theorem State.ite_lane {c : Prop} [Decidable c] (a b : State) : (if c then a else b).lane m = if c then a.lane m else b.lane m := by
  split <;> rfl

theorem txIdle_lane : (txIdle n s).lane m = s.lane m := State.wr_lane _ _ _ _ _

theorem scanAbort_lane : (scanAbort n s).lane m = s.lane m := by
  unfold scanAbort
  rw [State.ite_lane, laneCause_lane, State.wr_lane, ite_self]

theorem giveLane_lane : (giveLane n s).lane m = s.lane m :=
  Only.lane (l := [.grp 21, .damper, .tokens]) (giveLane_law (Only.of_law rfl) (Has.covers rfl) (Frame.refl _ _)) (by simp [Covers]) m

theorem request_lane (mw : Nat) : (s.request 2 n mw).lane m = s.lane m :=
  Only.lane (l := [.grp 21, .damper, .tokens]) (request_law (Only.of_law rfl) (Has.covers rfl) (Frame.refl _ _)) (by simp [Covers]) m

theorem sleepOthers_lane (h : Nat) : (sleepOthers h s).lane m = s.lane m :=
  Only.lane (l := [.all .lane]) (sleepOthers_law (Only.of_law rfl) (Has.covers rfl) (Frame.refl _ _)) (by simp [Covers]) m

theorem headTrained_lane : (headTrained n s).lane m = s.lane m := by
  unfold headTrained
  split
  · rw [State.ite_lane, sleepOthers_lane, ite_self]
  · rfl

variable {n m} (h : n ≠ m)
include h

theorem leavePrbs_lane_ne : (leavePrbs n s).lane m = s.lane m := by
  unfold leavePrbs stopPrbs
  rw [State.ite_lane, State.setLane_lane_ne _ _ _ h, State.wrAll_lane, ite_self]

theorem trainFrom_lane_ne (k : Nat) : (trainFrom n k s).lane m = s.lane m := by
  unfold trainFrom
  rw [txIdle_lane, State.wrAll_lane, State.setLane_lane_ne _ _ _ h, leavePrbs_lane_ne s h]

theorem goCold_lane_ne : (goCold n s).lane m = s.lane m := by
  unfold goCold
  rw [giveLane_lane, txIdle_lane, State.wr_lane, State.setLane_lane_ne _ _ _ h, leavePrbs_lane_ne _ h, scanAbort_lane]

theorem laneOff_lane_ne : (laneOff n s).lane m = s.lane m := by
  unfold laneOff
  rw [giveLane_lane, txIdle_lane, State.wr_lane, State.setLane_lane_ne _ _ _ h, leavePrbs_lane_ne _ h]

theorem rxSleep_lane_ne : (rxSleep n s).lane m = s.lane m := by
  unfold rxSleep
  rw [txIdle_lane, State.wr_lane, State.setLane_lane_ne _ _ _ h, leavePrbs_lane_ne _ h, scanAbort_lane]

theorem startPrbs_lane_ne : (startPrbs n s).lane m = s.lane m := by
  unfold startPrbs
  dsimp only
  rw [txIdle_lane, State.wr_lane, State.ite_lane, State.wrAll_lane, State.wr_lane, ite_self, State.setLane_lane_ne _ _ _ h, scanAbort_lane]

theorem comeUp_lane_ne (k : Nat) : (comeUp n k s).lane m = s.lane m := by
  unfold comeUp
  rw [State.ite_lane, startPrbs_lane_ne s h, trainFrom_lane_ne s h, ite_self]

theorem wake_lane_ne : (wake n s).lane m = s.lane m := by
  unfold wake
  rw [State.ite_lane, State.ite_lane, State.ite_lane, State.setLane_lane_ne _ _ _ h, request_lane, ite_self, ite_self, ite_self]

theorem refFault_lane_ne : (refFault n s).lane m = s.lane m := by
  unfold refFault
  rw [laneCause_lane, txIdle_lane, State.wr_lane, State.setLane_lane_ne _ _ _ h, leavePrbs_lane_ne _ h]

theorem refRecover_lane_ne : (refRecover n s).lane m = s.lane m := by
  unfold refRecover
  dsimp only
  split
  · exact goCold_lane_ne s h
  split
  · rw [State.ite_lane, laneOff_lane_ne s h, comeUp_lane_ne s h, ite_self]
  · rw [State.ite_lane, wake_lane_ne _ h, ite_self, txIdle_lane, State.wr_lane, scanAbort_lane, State.setLane_lane_ne _ _ _ h]

end

end Sys2Proof.Machine
end

section
/-!
PROOF. Monitors of one lane: header windows, SKIP blocks, PRBS errors and eye scans (R77, R80, R100 to R105).
-/
namespace Sys2Proof.Machine

/-- A saturating counter of lane n has gone up by k. -/
def Climbs (f : Field) (n k : Nat) (s t : State) : Prop := t.rd f n = min (s.rd f n + k) (2 ^ f.width - 1)

section
variable {n : Nat} (hn : n < 256) {s : State}
include hn

/-! ### HIBER_WINDOW -/

/-- The bad headers of a window counted and HIBER shown. -/
def hiberCounted (n bad : Nat) (s : State) : State := ((s.sat Reg.Lane.SHDRERR n bad).evt 1 n 0x42 bad).wr Reg.Lane.HIBER n (b2n (decide (16 ≤ bad)))

omit hn in
theorem hiberCounted_only (n bad : Nat) (s : State) : Only [.one .lane n, .grp 64] s (hiberCounted n bad s) :=
  ((wrLane_only rfl _ _ _).mono (by simp [covered])).trans (((evt_only _ _ _ _ _).mono (by simp [covered])).trans ((wrLane_only rfl _ _ _).mono (by simp [covered])))

/-- Of the lane's block it moves SHDRERR and HIBER. -/
theorem hiberCounted_rd (bad : Nat) {f : Field} (h1 : f.n1 = 256) (h2 : f.n2 = 1) (ha : Reg.Lane.SHDRERR.apart f = true) (hb : Reg.Lane.HIBER.apart f = true)
    (hf : f.off [.grp 64] = true) : (hiberCounted n bad s).rd f n = s.rd f n := by
  have hi := Lane.field_has hn h1 h2
  unfold hiberCounted
  rw [State.rd_wr_apart _ hb _ hi, (evt_only _ _ _ _ _).rd_off hf hi]
  exact State.rd_wr_apart _ ha _ hi

theorem hiberCounted_shows (bad : Nat) : Climbs Reg.Lane.SHDRERR n bad s (hiberCounted n bad s) ∧
    (hiberCounted n bad s).rd Reg.Lane.HIBER n = b2n (decide (16 ≤ bad)) := by
  have hi : ∀ {f : Field}, f.n1 = 256 → f.n2 = 1 → f.has n 0 = true := Lane.field_has hn
  unfold hiberCounted Climbs
  refine ⟨?_, (State.rd_wr_same _ rfl _ (hi rfl rfl)).trans (b2n_bit _)⟩
  rw [State.rd_wr_apart _ rfl _ (hi rfl rfl), (evt_only _ _ _ _ _).rd_off rfl (hi rfl rfl), State.rd_sat_same _ rfl (hi rfl rfl)]

theorem hiberWindow_does (bad : Nat) (hb : blockLocked s n = true) : Does (.hiberWindow n bad) [.one .lane n, .tokens, .grp 64] (fun t =>
    Climbs Reg.Lane.SHDRERR n bad s t ∧ t.rd Reg.Lane.HIBER n = b2n (decide (16 ≤ bad)) ∧
      if 16 ≤ bad ∧ s.rd Reg.Lane.HIBER n = 0 then Caused n 3 s t else Quiet n s t) s := by
  have hi : ∀ {f : Field}, f.n1 = 256 → f.n2 = 1 → f.has n 0 = true := Lane.field_has hn
  have hon : (!s.on Reg.Lane.HIBER n) = true ↔ s.rd Reg.Lane.HIBER n = 0 := by simp [State.on]
  have he : exec (.hiberWindow n bad) s = .next (if 16 ≤ bad ∧ s.rd Reg.Lane.HIBER n = 0 then laneCause n 3 (hiberCounted n bad s) else hiberCounted n bad s) := by
    rw [exec_hiberWindow, execHiberWindow, within_lt hn, if_pos hb]
    exact congrArg Host.Outcome.next (if_congr (and_congr_right' hon) rfl rfl)
  have ho := hiberCounted_only n bad s
  have ht : (hiberCounted n bad s).tokens = s.tokens := Frame.tokens ho (by simp [Covers])
  obtain ⟨hc, hh⟩ := hiberCounted_shows (s := s) hn bad
  refine Does.of_law he (execHiberWindow_law (Only.of_law rfl) (Has.covers rfl) (Covers.one (by simp)) (Frame.refl _ _)) ?_
  split
  · refine ⟨?_, ((laneCause_moves _ _ _).rd rfl (hi rfl rfl)).trans hh, ?_⟩
    · exact ((laneCause_moves _ _ _).rd rfl (hi rfl rfl)).trans hc
    · exact Caused.of_laneCause hn (by decide) ho rfl ht (hiberCounted_rd hn bad rfl rfl rfl rfl rfl)
  · exact ⟨hc, hh, hiberCounted_rd hn bad rfl rfl rfl rfl rfl, ht⟩

theorem hiberWindow_idle (bad : Nat) (hb : blockLocked s n = false) : exec (.hiberWindow n bad) s = .next s := by
  rw [exec_hiberWindow, execHiberWindow, within_lt hn]
  exact if_neg (by rw [hb]; decide)

/-! ### SKIP_RECEIVE -/

/-- A SKIP that moves the fill of the lane's FIFO and counts. -/
theorem skipped_does {fill v evt : Nat} {f : Field} (h1 : f.n1 = 256) (h2 : f.n2 = 1) (hw : f.inWord = true) (ha : Reg.Lane.ELFILL.apart f = true)
    (hb : f.apart Reg.Lane.ELFILL = true) (hf : f.off [.grp 64] = true)
    (he : exec (.skipReceive n fill) s = .next (((s.wr Reg.Lane.ELFILL n v).wrap f n 1).evt 1 n evt)) :
    Does (.skipReceive n fill) [.one .lane n, .grp 64] (fun t => t.rd Reg.Lane.ELFILL n = v % 2 ^ Reg.Lane.ELFILL.width ∧
      t.rd f n = (s.rd f n + 1) % 2 ^ f.width) s := by
  have hi := Lane.field_has hn h1 h2
  have hl : Reg.Lane.ELFILL.has n 0 = true := Lane.field_has hn rfl rfl
  refine Does.of_law he (execSkipReceive_law (Only.of_law rfl) (Has.covers rfl) (Covers.one (by simp)) (Frame.refl _ _)) ⟨?_, ?_⟩
  · rw [(evt_only _ _ _ _ _).rd_off rfl hl, State.wrap, State.rd_wr_apart _ hb _ hl, State.rd_wr_same _ rfl _ hl]
  · rw [(evt_only _ _ _ _ _).rd_off hf hi, State.wrap, State.rd_wr_same _ hw _ hi, State.rd_wr_apart _ ha _ hi]

theorem skipReceive_deletes {fill : Nat} (h : 12 < fill) : Does (.skipReceive n fill) [.one .lane n, .grp 64] (fun t =>
    t.rd Reg.Lane.ELFILL n = (fill - 1) % 2 ^ Reg.Lane.ELFILL.width ∧
      t.rd Reg.Lane.SKIPDEL n = (s.rd Reg.Lane.SKIPDEL n + 1) % 2 ^ Reg.Lane.SKIPDEL.width) s :=
  skipped_does hn rfl rfl rfl rfl rfl rfl (by rw [exec_skipReceive, execSkipReceive, within_lt hn]; exact if_pos h)

theorem skipReceive_inserts {fill : Nat} (h : fill < 4) : Does (.skipReceive n fill) [.one .lane n, .grp 64] (fun t =>
    t.rd Reg.Lane.ELFILL n = fill + 1 ∧ t.rd Reg.Lane.SKIPINS n = (s.rd Reg.Lane.SKIPINS n + 1) % 2 ^ Reg.Lane.SKIPINS.width) s := by
  have hv : (fill + 1) % 2 ^ Reg.Lane.ELFILL.width = fill + 1 := Nat.mod_eq_of_lt (show fill + 1 < 32 by omega)
  rw [← hv]
  refine skipped_does (evt := 0x41) hn rfl rfl rfl rfl rfl rfl ?_
  rw [exec_skipReceive, execSkipReceive, within_lt hn, if_neg (by omega)]
  exact if_pos h

theorem skipReceive_shows {fill : Nat} (h4 : 4 ≤ fill) (h12 : fill ≤ 12) : Does (.skipReceive n fill) [.one .lane n] (fun t =>
    t.rd Reg.Lane.ELFILL n = fill) s := by
  have he : exec (.skipReceive n fill) s = .next (s.wr Reg.Lane.ELFILL n fill) := by
    rw [exec_skipReceive, execSkipReceive, within_lt hn, if_neg (by omega), if_neg (by omega)]
  refine ⟨_, he, wrLane_only rfl _ _ _, ?_⟩
  exact (State.rd_wr_same _ rfl _ (Lane.field_has hn rfl rfl)).trans (Nat.mod_eq_of_lt (show fill < 32 by omega))

/-! ### PRBS_ERROR and PRBS_RESYNC -/

/-- Errors of a checker counted. -/
def prbsCounted (n bits errs : Nat) (s : State) : State := (s.sat Reg.Lane.PRBSBITS n bits).sat Reg.Lane.PRBSERRS n errs

omit hn in
theorem prbsCounted_moves (bits errs : Nat) : Moves [Reg.Lane.PRBSBITS, Reg.Lane.PRBSERRS] s (prbsCounted n bits errs s) := (Moves.of_sat _ _ _ _).sat _ _ _

omit hn in
theorem prbsCounted_only (bits errs : Nat) : Only [.one .lane n, .lanes, .tokens] s (prbsCounted n bits errs s) :=
  ((wrLane_only rfl _ _ _).trans (wrLane_only rfl _ _ _)).mono (by simp [covered])

theorem prbsCounted_climbs (bits errs : Nat) :
    Climbs Reg.Lane.PRBSBITS n bits s (prbsCounted n bits errs s) ∧ Climbs Reg.Lane.PRBSERRS n errs s (prbsCounted n bits errs s) := by
  have hi : ∀ {f : Field}, f.n1 = 256 → f.n2 = 1 → f.has n 0 = true := Lane.field_has hn
  unfold prbsCounted Climbs
  refine ⟨?_, ?_⟩
  · rw [(Moves.of_sat _ _ _ _).rd rfl (hi rfl rfl), State.rd_sat_same _ rfl (hi rfl rfl)]
  · rw [State.rd_sat_same _ rfl (hi rfl rfl), (Moves.of_sat _ _ _ _).rd rfl (hi rfl rfl)]

/-- One wrong bit: it counts, and sets the cause unless the bit before it did. -/
theorem prbsErrors_one (bits : Nat) : let t := prbsErrors n (max bits 1) 1 s
    Climbs Reg.Lane.PRBSBITS n (max bits 1) s t ∧ Climbs Reg.Lane.PRBSERRS n 1 s t ∧
      (t.lane n).mism = (if bits ≤ 1 then (s.lane n).mism + 1 else 1) ∧ if (s.lane n).prbsErr = true then Quiet n s t else Caused n 4 s t := by
  have hi : ∀ {f : Field}, f.n1 = 256 → f.n2 = 1 → f.has n 0 = true := Lane.field_has hn
  have hm := prbsCounted_moves (n := n) (s := s) (max bits 1) 1
  have ht : (prbsCounted n (max bits 1) 1 s).tokens = s.tokens := (State.sat_tokens _ _ _ _).trans (State.sat_tokens _ _ _ _)
  obtain ⟨hb, he⟩ := prbsCounted_climbs (s := s) hn (max bits 1) 1
  have hone : (if max bits 1 = 1 then (s.lane n).mism + 1 else 1) = if bits ≤ 1 then (s.lane n).mism + 1 else 1 :=
    if_congr (by omega) rfl rfl
  intro t
  have heq : t = if (s.lane n).prbsErr = true
    then (prbsCounted n (max bits 1) 1 s).setLane n { s.lane n with mism := if max bits 1 = 1 then (s.lane n).mism + 1 else 1, prbsErr := true }
    else laneCause n 4 ((prbsCounted n (max bits 1) 1 s).setLane n
      { s.lane n with mism := if max bits 1 = 1 then (s.lane n).mism + 1 else 1, prbsErr := true }) := rfl
  rw [heq, hone]
  split
  · refine ⟨hb, he, ?_, hm.rd rfl (hi rfl rfl), ht⟩
    rw [State.setLane_lane_same]
  · refine ⟨((laneCause_moves _ _ _).rd rfl (hi rfl rfl)).trans hb, ((laneCause_moves _ _ _).rd rfl (hi rfl rfl)).trans he, ?_, ?_⟩
    · rw [laneCause_lane, State.setLane_lane_same]
    · refine Caused.of_laneCause hn (by decide) ((prbsCounted_only _ _).trans (setLane_law (Only.of_law rfl) (Has.covers rfl) (Frame.refl _ _))) rfl ht ?_
      exact hm.rd rfl (hi rfl rfl)

theorem prbsError_does (bits : Nat) (hs : s.rd Reg.Lane.PRBSSYNC n ≠ 0) (hc : s.rd Reg.Lane.PRBSCHK n ≠ 0) :
    Does (.prbsError n bits) [.one .lane n, .lanes, .tokens] (fun t => Climbs Reg.Lane.PRBSBITS n (max bits 1) s t ∧ Climbs Reg.Lane.PRBSERRS n 1 s t ∧
      (t.lane n).mism = (if bits ≤ 1 then (s.lane n).mism + 1 else 1) ∧ if (s.lane n).prbsErr = true then Quiet n s t else Caused n 4 s t) s := by
  refine Does.of_law ?_ (execPrbsError_law (Only.of_law rfl) (Has.covers rfl) (Covers.one (by simp)) (Frame.refl _ _)) (prbsErrors_one hn bits)
  rw [exec_prbsError, execPrbsError, within_lt hn]
  exact if_pos (by simp [State.on, hs, hc])

theorem prbsError_idle (bits : Nat) (h : s.rd Reg.Lane.PRBSSYNC n = 0 ∨ s.rd Reg.Lane.PRBSCHK n = 0) : exec (.prbsError n bits) s = .next s := by
  rw [exec_prbsError, execPrbsError, within_lt hn]
  exact if_neg (by rcases h with h | h <;> simp [State.on, h])

theorem prbsResync_does (hs : s.rd Reg.Lane.PRBSSYNC n ≠ 0) (hm : 64 ≤ (s.lane n).mism) : Does (.prbsResync n) [.one .lane n, .lanes, .tokens] (fun t =>
    t.rd Reg.Lane.PRBSSYNC n = 0 ∧ (t.lane n).mism = 0 ∧ (t.lane n).prbsErr = false ∧ Caused n 4 s t) s := by
  have hi : ∀ {f : Field}, f.n1 = 256 → f.n2 = 1 → f.has n 0 = true := Lane.field_has hn
  have he : exec (.prbsResync n) s = .next (laneCause n 4 ((s.wr Reg.Lane.PRBSSYNC n 0).setLane n { s.lane n with loaded := 0, mism := 0, prbsErr := false })) := by
    rw [exec_prbsResync, execPrbsResync, within_lt hn]
    exact if_pos (by simp [State.on, hs, hm])
  refine Does.of_law he (execPrbsResync_law (Only.of_law rfl) (Has.covers rfl) (Covers.one (by simp)) (Frame.refl _ _)) ⟨?_, ?_, ?_, ?_⟩
  · exact ((laneCause_moves _ _ _).rd rfl (hi rfl rfl)).trans (State.rd_wr_same _ rfl _ (hi rfl rfl))
  · rw [laneCause_lane, State.setLane_lane_same]
  · rw [laneCause_lane, State.setLane_lane_same]
  · exact Caused.of_laneCause (l := [.one .lane n, .lanes]) hn (by decide) (setLane_law (Only.of_law rfl) (Has.covers rfl) ((wrLane_only rfl _ _ _).mono (by simp [covered]))) rfl
      (State.wr_tokens _ _ _ _) ((Moves.of_wr _ _ _ _).rd rfl (hi rfl rfl))

theorem prbsResync_idle (h : s.rd Reg.Lane.PRBSSYNC n = 0 ∨ (s.lane n).mism < 64) : exec (.prbsResync n) s = .next s := by
  rw [exec_prbsResync, execPrbsResync, within_lt hn]
  refine if_neg ?_
  rcases h with h | h
  · simp [State.on, h]
  · simp [Nat.not_le.mpr h]

/-! ### EYESCAN_POINT_DONE -/

omit hn in
theorem bytesNat_concat (bs : List Byte) (b : Byte) : bytesNat (bs ++ [b]) = bytesNat bs + 256 ^ bs.length * b.toNat := by
  induction bs with
  | nil => simp [bytesNat]
  | cons c bs ih =>
    rw [List.cons_append, bytesNat, bytesNat, ih, List.length_cons, Nat.pow_succ]
    ring

omit hn in
/-- The bytes of a word are its number. -/
theorem bytesNat_wordBytes (k : Nat) (x : Word) : bytesNat (wordBytes k x) = x.toNat % 256 ^ k := by
  induction k with
  | zero => simp [wordBytes, bytesNat, Nat.mod_one]
  | succ k ih =>
    have hc : wordBytes (k + 1) x = wordBytes k x ++ [(x >>> (8 * k)).setWidth 8] := by
      unfold wordBytes
      rw [List.range_succ, List.map_append]
      rfl
    have hl : (wordBytes k x).length = k := by simp [wordBytes]
    rw [hc, bytesNat_concat, ih, hl, Nat.mod_pow_succ, BitVec.toNat_setWidth, BitVec.toNat_ushiftRight, Nat.shiftRight_eq_div_pow, Nat.pow_mul]

omit hn in
/-- A word stored in memory stands there, and other bytes keep their values. -/
theorem fill_word (s : State) (a k : Nat) (x : Word) (hx : x.toNat < 256 ^ k) :
    bytesNat ((List.range k).map fun j => (s.fill a (wordBytes k x)).byte (a + j)) = x.toNat ∧
      ∀ b, b < a ∨ a + k ≤ b → (s.fill a (wordBytes k x)).byte b = s.byte b := by
  have hl : (wordBytes k x).length = k := by simp [wordBytes]
  have hb : ∀ b, (s.fill a (wordBytes k x)).byte b = if a ≤ b ∧ b < a + k then (wordBytes k x).getD (b - a) 0 else s.byte b := by
    intro b
    rw [State.fill, byte_setBytes, hl]
    rfl
  refine ⟨?_, fun b h => (hb b).trans (if_neg (by omega))⟩
  have hm : ((List.range k).map fun j => (s.fill a (wordBytes k x)).byte (a + j)) = wordBytes k x := by
    refine List.map_congr_left fun j hj => ?_
    have hj := List.mem_range.mp hj
    rw [hb, if_pos (by omega), Nat.add_sub_cancel_left]
    simp [wordBytes, hj]
  rw [hm, bytesNat_wordBytes, Nat.mod_eq_of_lt hx]

/-- A point stored and counted. -/
def pointStored (n count : Nat) (s : State) : State :=
  (s.fill ((s.lane n).scanAddr + 4 * (s.lane n).scanPoint) (wordBytes 4 (BitVec.ofNat 64 (min count (2 ^ 32 - 1))))).setLane n
    { s.lane n with scanPoint := (s.lane n).scanPoint + 1 }

omit hn in
theorem pointStored_only (count : Nat) : Only [.lanes, .mem, .poison] s (pointStored n count s) :=
  setLane_law (Only.of_law rfl) (Has.covers rfl) (fill_law (Only.of_law rfl) (Has.covers rfl) (Frame.refl _ _))

omit hn in
theorem scanEnd_only (n : Nat) (s : State) : Only [.one .lane n, .tokens] s (scanEnd n s) :=
  scanEnd_law (Only.of_law rfl) (Has.covers rfl) (Covers.one (by simp)) (Frame.refl _ _)

omit hn in
theorem scanEnd_lane (n m : Nat) (s : State) : (scanEnd n s).lane m = s.lane m := (scanEnd_only n s).lane (by simp [Covers]) m

theorem scanEnd_ends : (scanEnd n s).rd Reg.Lane.ESTATE n = 2 ∧ ((scanEnd n s).rd Reg.Lane.EVCAUSE n).testBit 5 = true := by
  have hi : Reg.Lane.ESTATE.has n 0 = true := Lane.field_has hn rfl rfl
  exact ⟨((laneCause_moves _ _ _).rd rfl hi).trans (State.rd_wr_same _ rfl _ hi), laneCause_set _ hn (by decide)⟩

theorem eyescanPoint_does (count : Nat) (he : s.rd Reg.Lane.ESTATE n = 1) (hst : s.rd Reg.Lane.STATE n = 3) :
    let l := s.lane n
    let a := l.scanAddr + 4 * l.scanPoint
    Does (.eyescanPointDone n count) [.one .lane n, .lanes, .tokens, .mem, .poison] (fun t =>
      (t.lane n).scanPoint = l.scanPoint + 1 ∧ bytesNat ((List.range 4).map fun k => t.byte (a + k)) = min count (2 ^ 32 - 1) ∧
      (∀ b, b < a ∨ a + 4 ≤ b → t.byte b = s.byte b) ∧
      if l.scanPoint + 1 = (if l.scanCross = true then 192 else 8192) then t.rd Reg.Lane.ESTATE n = 2 ∧ (t.rd Reg.Lane.EVCAUSE n).testBit 5 = true
      else t.rd Reg.Lane.ESTATE n = 1 ∧ Quiet n s t) s := by
  intro l a
  have hi : ∀ {f : Field}, f.n1 = 256 → f.n2 = 1 → f.has n 0 = true := Lane.field_has hn
  have hx : (BitVec.ofNat 64 (min count (2 ^ 32 - 1))).toNat = min count (2 ^ 32 - 1) := Nat.mod_eq_of_lt (by omega)
  obtain ⟨hin, hout⟩ := fill_word s a 4 (BitVec.ofNat 64 (min count (2 ^ 32 - 1))) (by rw [hx]; omega)
  have ho := pointStored_only (n := n) (s := s) count
  have hp : ((pointStored n count s).lane n).scanPoint = l.scanPoint + 1 := by rw [pointStored, State.setLane_lane_same]
  have hx' : exec (.eyescanPointDone n count) s = .next
      (if l.scanPoint + 1 = (if l.scanCross = true then 192 else 8192) then scanEnd n (pointStored n count s) else pointStored n count s) := by
    rw [exec_eyescanPointDone, execEyescanPointDone, within_lt hn]
    exact if_pos ⟨he, hst⟩
  refine Does.of_law hx' (execEyescanPointDone_law (Only.of_law rfl) (Has.covers rfl) (Covers.one (by simp)) (Frame.refl _ _)) ?_
  generalize (if l.scanCross = true then 192 else 8192) = points
  split
  · have hb : ∀ b, (scanEnd n (pointStored n count s)).byte b = (pointStored n count s).byte b := fun b => by
      rw [State.byte, Frame.mem (scanEnd_only n _) (by simp [Covers])]
      rfl
    simp only [hb]
    exact ⟨by rw [scanEnd_lane]; exact hp, hin.trans hx, hout, scanEnd_ends hn⟩
  · refine ⟨hp, hin.trans hx, hout, ?_, ?_, ?_⟩
    · rw [ho.rd_off rfl (hi rfl rfl), he]
    · exact ho.rd_off rfl (hi rfl rfl)
    · exact Frame.tokens ho (by simp [Covers])

theorem eyescanPoint_idle (count : Nat) (h : s.rd Reg.Lane.ESTATE n ≠ 1 ∨ s.rd Reg.Lane.STATE n ≠ 3) : exec (.eyescanPointDone n count) s = .next s := by
  rw [exec_eyescanPointDone, execEyescanPointDone, within_lt hn]
  exact if_neg fun hc => h.elim (· hc.1) (· hc.2)

end
end Sys2Proof.Machine
end

section
/-!
PROOF. Reference monitors of the lane groups (R74).
-/
namespace Sys2Proof.Machine

/-! ### A lane of the group -/

theorem prbsOn_iff (s : State) (n : Nat) : prbsOn s n = true ↔ s.rd Reg.Lane.PRBSGEN n ≠ 0 ∨ s.rd Reg.Lane.PRBSCHK n ≠ 0 := by
  simp [prbsOn, State.on]

section
variable {m : Nat} (hm : m < 256) (s : State)
include hm

theorem comeUp_state (k : Nat) : (comeUp m k s).rd Reg.Lane.STATE m = if s.rd Reg.Lane.PRBSGEN m ≠ 0 ∨ s.rd Reg.Lane.PRBSCHK m ≠ 0 then 6 else 2 := by
  unfold comeUp
  rw [State.rd_ite, startPrbs_state hm, trainFrom_state hm]
  exact if_congr (prbsOn_iff s m) rfl rfl

theorem refFault_state : (refFault m s).rd Reg.Lane.STATE m = 7 := by
  have hs : Reg.Lane.STATE.has m 0 = true := Lane.field_has hm rfl rfl
  unfold refFault
  exact ((laneCause_moves _ _ _).rd rfl hs).trans (((txIdle_moves _ _).rd rfl hs).trans (State.rd_wr_same _ rfl _ hs))

/-- The state of a lane whose reference has recovered. -/
def recoveredState (m : Nat) (s : State) : Nat :=
  if s.rd Reg.Lane.COLD m ≠ 0 ∨ (s.lane m).wasCold = true then 1 else if s.rd Reg.Lane.RATE m = 0 then 0
    else if s.rd Reg.Lane.PRBSGEN m ≠ 0 ∨ s.rd Reg.Lane.PRBSCHK m ≠ 0 then 6 else 2

theorem refRecover_state : (refRecover m s).rd Reg.Lane.STATE m = recoveredState m s := by
  have hs : Reg.Lane.STATE.has m 0 = true := Lane.field_has hm rfl rfl
  unfold refRecover recoveredState
  dsimp only
  by_cases hc : s.rd Reg.Lane.COLD m = 0
  · rw [if_neg (by simp [State.on, hc])]
    by_cases hw : (s.lane m).wasCold = true
    · rw [if_neg (by simp [hw]), State.rd_ite, (wake_moves _ _).rd rfl hs, ite_self, if_pos (.inr hw)]
      exact ((txIdle_moves _ _).rd rfl hs).trans (State.rd_wr_same _ rfl _ hs)
    · rw [if_pos (by simpa using hw), State.rd_ite, laneOff_state hm, comeUp_state hm]
      exact (if_neg (by simp [hc, hw])).symm
  · rw [if_pos (by simp [State.on, hc]), if_pos (.inl hc)]
    exact goCold_state hm s

end

theorem recoveredState_same {m : Nat} (hm : m < 256) {s t : State} (h : SameLane m s t) : recoveredState m t = recoveredState m s := by
  have hi : ∀ {f : Field}, f.n1 = 256 → f.n2 = 1 → f.has m 0 = true := Lane.field_has hm
  unfold recoveredState
  rw [h.lane, h.rd rfl (hi rfl rfl), h.rd rfl (hi rfl rfl), h.rd rfl (hi rfl rfl), h.rd rfl (hi rfl rfl)]

theorem refFault_other {n m : Nat} (h : n ≠ m) (s : State) : SameLane m s (refFault n s) :=
  .of_only (l := [.one .lane n, .lanes, .tokens]) (refFault_law (Only.of_law rfl) (Has.covers rfl) (Covers.one (by simp)) (Frame.refl _ _))
    (by simp [Covers, h.symm]) (refFault_lane_ne s h)

theorem refRecover_other {n m : Nat} (h : n ≠ m) (s : State) : SameLane m s (refRecover n s) :=
  .of_only (l := [.one .lane n, .grp 21, .damper, .lanes, .tokens]) (refRecover_law (Only.of_law rfl) (Has.covers rfl) (Covers.one (by simp)) (Frame.refl _ _))
    (by simp [Covers, h.symm]) (refRecover_lane_ne s h)

/-! ### The lanes of a group -/

/-- The lanes of group g. -/
def groupLanes (g : Nat) : List Nat := (List.range 16).map fun k => 16 * g + k

theorem groupLanes_nodup (g : Nat) : (groupLanes g).Nodup := List.nodup_range.map fun a b h => by simpa using h

theorem mem_groupLanes {g k : Nat} (hk : k < 16) : 16 * g + k ∈ groupLanes g := List.mem_map.mpr ⟨k, List.mem_range.mpr hk, rfl⟩

/-- The group's lanes lose their reference. -/
def groupFaults (g : Nat) (s : State) : State := (groupLanes g).foldl (fun s n => refFault n s) s

/-- They have it again. -/
def groupRecovers (g : Nat) (s : State) : State := (groupLanes g).foldl (fun s n => refRecover n s) s

/-- The parts that the lanes of a group change. -/
def groupParts : List Part := [.all .lane, .lanes, .grp 21, .damper, .tokens]

theorem groupFaults_only (g : Nat) (s : State) : Only groupParts s (groupFaults g s) :=
  Law.foldl (fun _ _ h => refFault_law (Only.of_law rfl) (Has.covers rfl) (.inr (by simp [groupParts])) h) (Frame.refl _ _)

theorem groupRecovers_only (g : Nat) (s : State) : Only groupParts s (groupRecovers g s) :=
  Law.foldl (fun _ _ h => refRecover_law (Only.of_law rfl) (Has.covers rfl) (.inr (by simp [groupParts])) h) (Frame.refl _ _)

section
variable {g k : Nat} (hg : g < 16) (hk : k < 16) (s : State)
include hg hk

theorem groupFaults_state : (groupFaults g s).rd Reg.Lane.STATE (16 * g + k) = 7 := by
  have hm : 16 * g + k < 256 := by omega
  refine foldl_reaches (P := fun t => t.rd Reg.Lane.STATE (16 * g + k) = 7) (fun u n h => refFault_other h u) (mem_groupLanes hk)
    (fun u _ => refFault_state hm u) fun u n hu => ?_
  by_cases h : n = 16 * g + k
  · exact h ▸ refFault_state (h ▸ hm) u
  · exact ((refFault_other h u).rd rfl (Lane.field_has hm rfl rfl)).trans hu

theorem groupRecovers_state : (groupRecovers g s).rd Reg.Lane.STATE (16 * g + k) = recoveredState (16 * g + k) s := by
  have hm : 16 * g + k < 256 := by omega
  obtain ⟨u, r, hu, he, hr⟩ := foldl_visits (f := fun s n => refRecover n s) (fun u n h => refRecover_other h u) (mem_groupLanes (g := g) hk) s
  have hlast := foldl_sameLane (f := fun s n => refRecover n s) (fun u n h => refRecover_other h u) (hr (groupLanes_nodup g)) (refRecover (16 * g + k) u)
  rw [groupRecovers, he, hlast.rd rfl (Lane.field_has hm rfl rfl), refRecover_state hm, recoveredState_same hm hu]

end

/-! ### REF_MONITOR_WINDOW -/

section
variable {g : Nat} (hg : g < 16) {present : Bool} {ppb : Int} {s : State}

/-- A good window. -/
def RefGood (present : Bool) (ppb : Int) : Prop := present = true ∧ ppb.natAbs ≤ 200000

/-- A bad one. -/
def RefBad (present : Bool) (ppb : Int) : Prop := present = false ∨ 300000 < ppb.natAbs

theorem refGood_iff : (present && decide (ppb.natAbs ≤ 200000)) = true ↔ RefGood present ppb := by simp [RefGood]

theorem refBad_iff : (!present || decide (300000 < ppb.natAbs)) = true ↔ RefBad present ppb := by simp [RefBad]

/-- What a window shows of the reference. -/
def refShown (g : Nat) (present : Bool) (ppb : Int) (s : State) : State :=
  (s.wr Reg.LaneGroup.REFOK g (b2n (present && decide (ppb.natAbs ≤ 200000)))).wrI Reg.LaneGroup.REFPPB g ppb

/-- Good windows in a row, of a group in fault. -/
def goodRun (g : Nat) (s : State) : Nat := Tbl.get (fun _ => 0) s.goodWin g

/-- The run of good windows becomes w. -/
def setGoodRun (g w : Nat) (s : State) : State := { s with goodWin := Tbl.set (fun _ => 0) s.goodWin g w }

theorem goodRun_set (g w : Nat) (s : State) : goodRun g (setGoodRun g w s) = w := Tbl.get_set_same _ _ _

theorem setGoodRun_only (g w : Nat) (s : State) : Only [.goodWin] s (setGoodRun g w s) :=
  (Only.of_law rfl).goodWin (by simp [Covers]) (Frame.refl _ _)

theorem wrGroup_only {f : Field} (hf : f.okAt [] .laneGroup = true) (v : Nat) (s : State) : Only [.one .laneGroup g] s (s.wr f g v) :=
  (Only.of_law rfl).wrAt (B := []) (Has.covers rfl) (Covers.one (by simp)) hf (Frame.refl _ _)

theorem refShown_only : Only [.one .laneGroup g] s (refShown g present ppb s) := (wrGroup_only rfl _ _).trans (wrGroup_only rfl _ _)

theorem Group.field_has (hg : g < 16) {f : Field} (h1 : f.n1 = 16) (h2 : f.n2 = 1) : f.has g 0 = true := by simp [Field.has, h1, h2, hg]

/-- A state shows a window's reference. -/
def ShowsRef (g : Nat) (present : Bool) (ppb : Int) (t : State) : Prop :=
  (t.rd Reg.LaneGroup.REFOK g = 1 ↔ RefGood present ppb) ∧ t.rd Reg.LaneGroup.REFPPB g = low Reg.LaneGroup.REFPPB.width ppb

include hg

theorem refShown_shows : ShowsRef g present ppb (refShown g present ppb s) := by
  refine ⟨?_, (State.rd_wr_same _ rfl _ (Group.field_has hg rfl rfl)).trans (low_mod _ _)⟩
  unfold refShown State.wrI
  rw [State.rd_wr_apart _ rfl _ (Group.field_has hg rfl rfl), State.rd_wr_same _ rfl _ (Group.field_has hg rfl rfl), ← refGood_iff]
  cases (present && decide (ppb.natAbs ≤ 200000)) <;> decide

theorem refShown_fault : (refShown g present ppb s).rd Reg.LaneGroup.REFFAULT g = s.rd Reg.LaneGroup.REFFAULT g := by
  unfold refShown State.wrI
  rw [State.rd_wr_apart _ rfl _ (Group.field_has hg rfl rfl), State.rd_wr_apart _ rfl _ (Group.field_has hg rfl rfl)]

theorem ShowsRef.wrFault {t : State} (h : ShowsRef g present ppb t) (v : Nat) : ShowsRef g present ppb (t.wr Reg.LaneGroup.REFFAULT g v) := by
  unfold ShowsRef
  rw [State.rd_wr_apart _ rfl _ (Group.field_has hg rfl rfl), State.rd_wr_apart _ rfl _ (Group.field_has hg rfl rfl)]
  exact h

theorem ShowsRef.only {l : List Part} {t u : State} (h : ShowsRef g present ppb t) (ho : Only l t u) (h1 : Reg.LaneGroup.REFOK.off l = true)
    (h2 : Reg.LaneGroup.REFPPB.off l = true) : ShowsRef g present ppb u := by
  unfold ShowsRef
  rw [ho.rd_off h1 (Group.field_has hg rfl rfl), ho.rd_off h2 (Group.field_has hg rfl rfl)]
  exact h

/-- The parts that a window may change. -/
def windowParts (g : Nat) : List Part := [.one .laneGroup g, .all .lane, .lanes, .goodWin, .grp 21, .damper, .tokens]

omit hg in
theorem refWindow_ends {P : State → Prop} {t : State} (he : exec (.refMonitorWindow g present ppb) s = .next t) (hP : P t) :
    Does (.refMonitorWindow g present ppb) (windowParts g) P s :=
  Does.of_law he (execRefMonitorWindow_law (Only.of_law rfl) (Has.covers rfl) (Covers.one (by simp [windowParts])) (Frame.refl _ _)) hP

section
variable (hf : s.rd Reg.LaneGroup.REFFAULT g = 0)
include hf

theorem refWindow_faults (hb : RefBad present ppb) :
    exec (.refMonitorWindow g present ppb) s = .next (groupFaults g ((refShown g present ppb s).wr Reg.LaneGroup.REFFAULT g 1)) := by
  rw [exec_refMonitorWindow, execRefMonitorWindow, within_lt hg]
  exact (if_neg (by simp [State.on, hf])).trans (if_pos (refBad_iff.mpr hb))

theorem refWindow_shows (hb : ¬ RefBad present ppb) : exec (.refMonitorWindow g present ppb) s = .next (refShown g present ppb s) := by
  rw [exec_refMonitorWindow, execRefMonitorWindow, within_lt hg]
  exact (if_neg (by simp [State.on, hf])).trans (if_neg fun h => hb (refBad_iff.mp h))

end

section
variable (hf : s.rd Reg.LaneGroup.REFFAULT g ≠ 0)
include hf

theorem refWindow_inFault : exec (.refMonitorWindow g present ppb) s =
    if 10 ≤ (if (present && decide (ppb.natAbs ≤ 200000)) = true then goodRun g s + 1 else 0)
    then .next (groupRecovers g (setGoodRun g 0 ((refShown g present ppb s).wr Reg.LaneGroup.REFFAULT g 0)))
    else .next (setGoodRun g (if (present && decide (ppb.natAbs ≤ 200000)) = true then goodRun g s + 1 else 0) (refShown g present ppb s)) := by
  have hw : ((refShown g present ppb s).wr Reg.LaneGroup.REFFAULT g 0).goodWin = (refShown g present ppb s).goodWin := State.wr_goodWin _ _ _ _
  rw [exec_refMonitorWindow, execRefMonitorWindow, within_lt hg, setGoodRun, hw]
  exact if_pos (by simp [State.on, hf])

theorem refWindow_counts (hr : RefGood present ppb) (hn : goodRun g s < 9) :
    exec (.refMonitorWindow g present ppb) s = .next (setGoodRun g (goodRun g s + 1) (refShown g present ppb s)) := by
  rw [refWindow_inFault hg hf, if_pos (refGood_iff.mpr hr), if_neg (by omega)]

theorem refWindow_starts (hr : ¬ RefGood present ppb) :
    exec (.refMonitorWindow g present ppb) s = .next (setGoodRun g 0 (refShown g present ppb s)) := by
  rw [refWindow_inFault hg hf, if_neg fun h => hr (refGood_iff.mp h), if_neg (by omega)]

theorem refWindow_recovers (hr : RefGood present ppb) (hn : 9 ≤ goodRun g s) : exec (.refMonitorWindow g present ppb) s =
    .next (groupRecovers g (setGoodRun g 0 ((refShown g present ppb s).wr Reg.LaneGroup.REFFAULT g 0))) := by
  rw [refWindow_inFault hg hf, if_pos (refGood_iff.mpr hr), if_pos (by omega)]

/-- A window of a group in fault that does not end it. -/
theorem refWindow_stays (h : ¬ RefGood present ppb ∨ goodRun g s < 9) : Does (.refMonitorWindow g present ppb) [.one .laneGroup g, .goodWin]
    (fun t => t.rd Reg.LaneGroup.REFFAULT g = s.rd Reg.LaneGroup.REFFAULT g ∧ ShowsRef g present ppb t) s := by
  have hset : ∀ w, Only [.goodWin] (refShown g present ppb s) (setGoodRun g w (refShown g present ppb s)) := fun w => setGoodRun_only _ _ _
  have hdoes : ∀ w, exec (.refMonitorWindow g present ppb) s = .next (setGoodRun g w (refShown g present ppb s)) →
      Does (.refMonitorWindow g present ppb) [.one .laneGroup g, .goodWin]
        (fun t => t.rd Reg.LaneGroup.REFFAULT g = s.rd Reg.LaneGroup.REFFAULT g ∧ ShowsRef g present ppb t) s := fun w he =>
    ⟨_, he, (refShown_only.mono (by simp [covered])).trans ((hset w).mono (by simp [covered])),
      ((hset w).rd_off rfl (Group.field_has hg rfl rfl)).trans (refShown_fault hg), (refShown_shows hg).only hg (hset w) rfl rfl⟩
  by_cases hr : RefGood present ppb
  · exact hdoes _ (refWindow_counts hg hf hr (h.resolve_left (not_not.mpr hr)))
  · exact hdoes _ (refWindow_starts hg hf hr)

end

/-- Every window shows what it has measured. -/
theorem refWindow_measures : Does (.refMonitorWindow g present ppb) (windowParts g) (ShowsRef g present ppb) s := by
  have hs : ShowsRef g present ppb (refShown g present ppb s) := refShown_shows hg
  by_cases hf : s.rd Reg.LaneGroup.REFFAULT g = 0
  · by_cases hb : RefBad present ppb
    · exact refWindow_ends (refWindow_faults hg hf hb) ((hs.wrFault hg 1).only hg (groupFaults_only _ _) rfl rfl)
    · exact refWindow_ends (refWindow_shows hg hf hb) hs
  · by_cases hr : RefGood present ppb ∧ 9 ≤ goodRun g s
    · exact refWindow_ends (refWindow_recovers hg hf hr.1 hr.2)
        (((hs.wrFault hg 0).only hg (setGoodRun_only _ _ _) rfl rfl).only hg (groupRecovers_only _ _) rfl rfl)
    · obtain ⟨t, he, -, -, ht⟩ := refWindow_stays (present := present) (ppb := ppb) hg hf ((not_and_or.mp hr).imp_right Nat.not_le.mp)
      exact refWindow_ends he ht

/-- A bad window of a group that has its reference puts all its lanes into REFFAULT. -/
theorem refWindow_loses (hf : s.rd Reg.LaneGroup.REFFAULT g = 0) (hb : RefBad present ppb) : Does (.refMonitorWindow g present ppb) (windowParts g)
    (fun t => t.rd Reg.LaneGroup.REFFAULT g = 1 ∧ ∀ k, k < 16 → t.rd Reg.Lane.STATE (16 * g + k) = 7) s :=
  refWindow_ends (refWindow_faults hg hf hb) ⟨((groupFaults_only _ _).rd_off rfl (Group.field_has hg rfl rfl)).trans
    (State.rd_wr_same _ rfl _ (Group.field_has hg rfl rfl)), fun _ hk => groupFaults_state hg hk _⟩

theorem refWindow_keeps (hf : s.rd Reg.LaneGroup.REFFAULT g = 0) (hb : ¬ RefBad present ppb) : Does (.refMonitorWindow g present ppb) [.one .laneGroup g]
    (fun t => t.rd Reg.LaneGroup.REFFAULT g = 0) s :=
  ⟨_, refWindow_shows hg hf hb, refShown_only, (refShown_fault hg).trans hf⟩

/-- A good window of a group in fault that is not the tenth in a row counts. -/
theorem refWindow_goesOn (hf : s.rd Reg.LaneGroup.REFFAULT g ≠ 0) (hr : RefGood present ppb) (hn : goodRun g s < 9) :
    Does (.refMonitorWindow g present ppb) (windowParts g) (fun t => goodRun g t = goodRun g s + 1) s :=
  refWindow_ends (refWindow_counts hg hf hr hn) (goodRun_set _ _ _)

/-- The tenth ends the fault, and each lane goes on as it was or was asked to. -/
theorem refWindow_regains (hf : s.rd Reg.LaneGroup.REFFAULT g ≠ 0) (hr : RefGood present ppb) (hn : 9 ≤ goodRun g s) :
    Does (.refMonitorWindow g present ppb) (windowParts g) (fun t => t.rd Reg.LaneGroup.REFFAULT g = 0 ∧ goodRun g t = 0 ∧
      ∀ k, k < 16 → t.rd Reg.Lane.STATE (16 * g + k) = recoveredState (16 * g + k) s) s := by
  refine refWindow_ends (refWindow_recovers hg hf hr hn) ⟨?_, ?_, fun k hk => ?_⟩
  · exact ((groupRecovers_only _ _).rd_off rfl (Group.field_has hg rfl rfl)).trans (State.rd_wr_same _ rfl _ (Group.field_has hg rfl rfl))
  · unfold goodRun
    rw [Frame.goodWin (groupRecovers_only _ _) (by simp [Covers, groupParts])]
    exact goodRun_set _ _ _
  · have hm : 16 * g + k < 256 := by omega
    have hset : Only [.one .laneGroup g, .goodWin] s (setGoodRun g 0 ((refShown g present ppb s).wr Reg.LaneGroup.REFFAULT g 0)) :=
      ((refShown_only.trans (wrGroup_only rfl _ _)).mono (by simp [covered])).trans ((setGoodRun_only _ _ _).mono (by simp [covered]))
    exact (groupRecovers_state hg hk _).trans (recoveredState_same hm (.of_only hset (by simp [Covers]) (hset.lane (by simp [Covers]) _)))

end

end Sys2Proof.Machine
end

section
/-!
PROOF. ALIGN blocks: deskew found, lost and regained (R81, R82, R85, R91).
-/
namespace Sys2Proof.Machine

/-! ### Deskew lost -/

/-- Lane m is not deskewed any more and says so. -/
def deskewLost (s : State) (m : Nat) : State := laneCause m 8 (s.setLane m { s.lane m with deskewed := false, alignSeen := false })

theorem deskewFault_eq (n : Nat) (s : State) : deskewFault n s = (laneSet s n).foldl deskewLost s := rfl

theorem deskewLost_other {n m : Nat} (h : n ≠ m) (s : State) : SameLane m s (deskewLost s n) :=
  .of_only (l := [.one .lane n, .lanes, .tokens])
    (laneCause_law (Only.of_law rfl) (Has.covers rfl) (Covers.one (by simp)) (setLane_law (Only.of_law rfl) (Has.covers rfl) (Frame.refl _ _)))
    (by simp [Covers, h.symm]) ((laneCause_lane _ _ _ _).trans (State.setLane_lane_ne _ _ _ h))

/-- Lane m has lost its deskew, and its cause stands. -/
def NoDeskew (m : Nat) (t : State) : Prop := (t.lane m).deskewed = false ∧ (t.rd Reg.Lane.EVCAUSE m).testBit 8 = true

theorem deskewLost_lost {m : Nat} (hm : m < 256) (s : State) : NoDeskew m (deskewLost s m) :=
  ⟨by rw [deskewLost, laneCause_lane, State.setLane_lane_same], laneCause_set _ hm (by decide)⟩

theorem NoDeskew.same {m : Nat} (hm : m < 256) {s t : State} (h : NoDeskew m s) (k : SameLane m s t) : NoDeskew m t := by
  unfold NoDeskew
  rw [k.lane, k.rd rfl (Lane.field_has hm rfl rfl)]
  exact h

/-- Every lane of the set loses its deskew. -/
theorem deskewFault_all {n : Nat} (hn : n < 256) (s : State) : ∀ m ∈ laneSet s n, NoDeskew m (deskewFault n s) := by
  intro m hm
  have hlt := laneSet_lt hn hm
  refine foldl_reaches (f := deskewLost) (fun u n h => deskewLost_other h u) hm (fun u _ => deskewLost_lost hlt u) fun u k hu => ?_
  by_cases h : k = m
  · exact h ▸ deskewLost_lost (h ▸ hlt) u
  · exact hu.same hlt (deskewLost_other h u)

theorem deskewFault_moves (n : Nat) (s : State) : Moves [Reg.Lane.EVCAUSE] s (deskewFault n s) :=
  Moves.of_foldl (fun s m => (Moves.of_regs rfl).step (laneCause_moves m (s.setLane m _) 8)) _ _

theorem deskewFault_alone {n : Nat} {s : State} (h : bondOf s n = none) : deskewFault n s = deskewLost s n := by
  rw [deskewFault_eq, laneSet_alone h]
  rfl

/-! ### Deskew found -/

/-- Lane m may lock as soon as its set is deskewed: it is at step 6 of training, or has lock again in RECOVER. -/
abbrev Joinable (m : Nat) (s : State) : Prop :=
  (s.rd Reg.Lane.STATE m = 2 ∧ (s.lane m).step = 6 ∧ (s.lane m).failed = false) ∨ (s.rd Reg.Lane.STATE m = 4 ∧ (s.lane m).relocked = true)

/-- From s to t lane m has become deskewed, unless it goes to the sleep asked of it, and has locked if it may. -/
def Joins (m : Nat) (s t : State) : Prop :=
  (s.rd Reg.Lane.RXSLEEP m = 0 → (t.lane m).deskewed = true) ∧
    t.rd Reg.Lane.STATE m = if Joinable m s then (if s.rd Reg.Lane.RXSLEEP m = 0 then 3 else 5) else s.rd Reg.Lane.STATE m

theorem sleepOthers_moves (h : Nat) (s : State) : Moves txSleepFields s (sleepOthers h s) :=
  Moves.of_foldl (fun _ _ => (Moves.of_wr _ _ _ _).trans (txIdle_moves _ _)) _ _

theorem headTrained_moves (n : Nat) (s : State) : Moves txSleepFields s (headTrained n s) := by
  unfold headTrained
  split
  · exact Moves.ite (fun _ => sleepOthers_moves _ _) fun _ => Moves.refl _ _
  · exact Moves.refl _ _

/-- The lane is LOCKED before a sleep that was asked of it. -/
def lockedNow (n : Nat) (s : State) : State :=
  laneCause n 0 (txIdle n ((s.setLane n { s.lane n with deskewed := true, step := 0, retained := true, short := false, resumed := false, relocked := false }).wr
    Reg.Lane.STATE n lsLOCKED))

theorem enterLocked_eq (n : Nat) (s : State) : enterLocked n s =
    if (lockedNow n s).on Reg.Lane.RXSLEEP n then rxSleep n (lockedNow n s) else headTrained n (lockedNow n s) := rfl

theorem lockedNow_only (n : Nat) (s : State) : Only [.one .lane n, .lanes, .tokens] s (lockedNow n s) :=
  laneCause_law (Only.of_law rfl) (Has.covers rfl) (Covers.one (by simp)) (txIdle_law (Only.of_law rfl) (Has.covers rfl) (Covers.one (by simp))
    ((Only.of_law rfl).wrAt (B := []) (k := .lane) (Has.covers rfl) (Covers.one (by simp)) rfl (setLane_law (Only.of_law rfl) (Has.covers rfl) (Frame.refl _ _))))

theorem lockedNow_moves (n : Nat) (s : State) : Moves (downFields ++ [Reg.Lane.EVCAUSE]) s (lockedNow n s) := (down_moves _ _ _ _).trans (laneCause_moves _ _ _)

theorem lockedNow_lane (n m : Nat) (s : State) : (lockedNow n s).lane m =
    (s.setLane n { s.lane n with deskewed := true, step := 0, retained := true, short := false, resumed := false, relocked := false }).lane m := by
  rw [lockedNow, laneCause_lane, txIdle_lane, State.wr_lane]

section
variable {n : Nat} (hn : n < 256) (s : State)
include hn

theorem lockedNow_rxsleep : (lockedNow n s).rd Reg.Lane.RXSLEEP n = s.rd Reg.Lane.RXSLEEP n := (lockedNow_moves n s).rd rfl (Lane.field_has hn rfl rfl)

theorem enterLocked_state : (enterLocked n s).rd Reg.Lane.STATE n = if s.rd Reg.Lane.RXSLEEP n = 0 then 3 else 5 := by
  have hs : Reg.Lane.STATE.has n 0 = true := Lane.field_has hn rfl rfl
  have hl : (lockedNow n s).rd Reg.Lane.STATE n = 3 :=
    (((txIdle_moves _ _).trans (laneCause_moves _ _ _)).rd rfl hs).trans (State.rd_wr_same _ rfl _ hs)
  have hon : (lockedNow n s).on Reg.Lane.RXSLEEP n = (s.rd Reg.Lane.RXSLEEP n != 0) := congrArg (· != 0) (lockedNow_rxsleep hn s)
  rw [enterLocked_eq, hon]
  by_cases h : s.rd Reg.Lane.RXSLEEP n = 0
  · rw [if_neg (by simp [h]), if_pos h, (headTrained_moves _ _).rd rfl hs, hl]
  · rw [if_pos (by simp [h]), if_neg h, rxSleep_state hn]

theorem enterLocked_deskewed (h : s.rd Reg.Lane.RXSLEEP n = 0) : ((enterLocked n s).lane n).deskewed = true := by
  have hon : (lockedNow n s).on Reg.Lane.RXSLEEP n = false := by rw [State.on, lockedNow_rxsleep hn, h]; rfl
  rw [enterLocked_eq, if_neg (by rw [hon]; decide), headTrained_lane, lockedNow_lane, State.setLane_lane_same]

end

theorem laneJoin_eq (n : Nat) (s : State) : laneJoin n s = if Joinable n s then enterLocked n s else s.setLane n { s.lane n with deskewed := true } := by
  unfold laneJoin
  exact if_congr (by simp [State.laneState, lsTRAINING, lsRECOVER]) rfl rfl

/-- What a lane that joins moves. -/
def joinFields : List Field := [Reg.Lane.ESTATE, Reg.Lane.EVCAUSE] ++ (prbsFields ++ (downFields ++ txSleepFields))

theorem laneJoin_moves (n : Nat) (s : State) : Moves joinFields s (laneJoin n s) := by
  have hl : Moves joinFields s (lockedNow n s) := (lockedNow_moves n s).mono (by simp [joinFields, downFields])
  rw [laneJoin_eq, enterLocked_eq]
  refine Moves.ite (fun _ => Moves.ite (fun _ => ?_) fun _ => ?_) fun _ => Moves.of_regs rfl
  · exact hl.step ((rxSleep_moves _ _).mono (by simp [joinFields, prbsFields, downFields]))
  · exact hl.step ((headTrained_moves _ _).mono (by simp [joinFields, txSleepFields]))

/-- A lane that joins leaves the others. -/
theorem laneJoin_other {n m : Nat} (h : n ≠ m) (s : State) : SameLane m s (laneJoin n s) := by
  have hset : ∀ x, SameLane m s (s.setLane n x) := fun x => ⟨fun _ _ _ _ => rfl, State.setLane_lane_ne _ _ _ h⟩
  have hlock : SameLane m s (lockedNow n s) :=
    .of_only (lockedNow_only n s) (by simp [Covers, h.symm]) ((lockedNow_lane _ _ _).trans (State.setLane_lane_ne _ _ _ h))
  rw [laneJoin_eq, enterLocked_eq]
  split
  · split
    · exact hlock.trans (.of_only (l := [.one .lane n, .lanes, .tokens])
        (rxSleep_law (Only.of_law rfl) (Has.covers rfl) (Covers.one (by simp)) (Frame.refl _ _)) (by simp [Covers, h.symm]) (rxSleep_lane_ne _ h))
    · exact hlock.trans (.of_moves (headTrained_moves _ _) (headTrained_lane _ _ _))
  · exact hset _

section
variable {m : Nat} (hm : m < 256)
include hm

theorem laneJoin_joins (s : State) : Joins m s (laneJoin m s) := by
  by_cases hj : Joinable m s
  · rw [laneJoin_eq, if_pos hj]
    exact ⟨enterLocked_deskewed hm s, (enterLocked_state hm s).trans (if_pos hj).symm⟩
  · rw [laneJoin_eq, if_neg hj]
    exact ⟨fun _ => by rw [State.setLane_lane_same], (State.setLane_rd _ _ _ _ _).trans (if_neg hj).symm⟩

/-- It joins once. -/
theorem laneJoin_done (s : State) : ¬ Joinable m (laneJoin m s) := by
  rw [laneJoin_eq]
  split
  · have hs := enterLocked_state hm s
    rintro (⟨h, -⟩ | ⟨h, -⟩) <;> (rw [hs] at h; split at h <;> cases h)
  · next hj =>
    rintro (⟨h, h'⟩ | ⟨h, h'⟩)
    · rw [State.setLane_lane_same] at h'
      exact hj (.inl ⟨h, h'⟩)
    · rw [State.setLane_lane_same] at h'
      exact hj (.inr ⟨h, h'⟩)

theorem Joinable.same {s t : State} (k : SameLane m s t) : Joinable m t ↔ Joinable m s := by
  unfold Joinable
  rw [k.lane, k.rd rfl (Lane.field_has hm rfl rfl)]

omit hm in
/-- What joins of lane m depends on: STATE, the sleep asked of it, and its training. -/
theorem Joins.from {s u t : State} (h1 : u.rd Reg.Lane.RXSLEEP m = s.rd Reg.Lane.RXSLEEP m) (h2 : u.rd Reg.Lane.STATE m = s.rd Reg.Lane.STATE m)
    (h3 : Joinable m u ↔ Joinable m s) (h : Joins m u t) : Joins m s t := by
  obtain ⟨hd, hs⟩ := h
  exact ⟨fun h0 => hd (h1.trans h0), hs.trans (if_congr h3 (by rw [h1]) h2)⟩

theorem Joins.to {s t u : State} (h : Joins m s t) (k : SameLane m t u) : Joins m s u := by
  unfold Joins
  rw [k.lane, k.rd rfl (Lane.field_has hm rfl rfl)]
  exact h

/-- Every lane of a list joins. -/
theorem foldl_laneJoin {L : List Nat} (hL : m ∈ L) (s : State) : Joins m s (L.foldl (fun s m => laneJoin m s) s) := by
  have hi : ∀ {f : Field}, f.n1 = 256 → f.n2 = 1 → f.has m 0 = true := Lane.field_has hm
  have hend : Joins m s (L.foldl (fun s m => laneJoin m s) s) ∧ ¬ Joinable m (L.foldl (fun s m => laneJoin m s) s) := by
    refine foldl_reaches (f := fun s m => laneJoin m s) (P := fun t => Joins m s t ∧ ¬ Joinable m t) (fun u n h => laneJoin_other h u) hL (fun u hu => ?_)
      fun u n hu => ?_
    · exact ⟨(laneJoin_joins hm u).from (hu.rd rfl (hi rfl rfl)) (hu.rd rfl (hi rfl rfl)) (Joinable.same hm hu), laneJoin_done hm u⟩
    · obtain ⟨hj, hd⟩ := hu
      by_cases h : n = m
      · subst h
        refine ⟨?_, laneJoin_done hm u⟩
        rw [laneJoin_eq, if_neg hd]
        exact ⟨fun _ => by rw [State.setLane_lane_same], hj.2⟩
      · exact ⟨hj.to hm (laneJoin_other h u), fun hc => hd ((Joinable.same hm (laneJoin_other h u)).mp hc)⟩
  exact hend.1

end

/-! ### ALIGN_RECEIVE and ALIGN_TIMEOUT -/

section
variable {n : Nat} (hn : n < 256) {hlane ctr spread : Nat} {s : State}

/-- The lane's ALIGN noted. -/
def alignNoted (n hlane ctr spread : Nat) (s : State) : State :=
  (s.wr Reg.Lane.HLANE n hlane).setLane n { s.lane n with alignCtr := ctr % 65536, alignSpread := spread, alignSeen := true }

theorem alignNoted_only : Only [.one .lane n, .lanes] s (alignNoted n hlane ctr spread s) :=
  setLane_law (Only.of_law rfl) (Has.covers rfl) ((wrLane_only rfl _ _ _).mono (by simp [covered]))

theorem alignNoted_moves : Moves [Reg.Lane.HLANE] s (alignNoted n hlane ctr spread s) := (Moves.of_wr _ _ _ _).setLane _ _

theorem alignNoted_laneSet : laneSet (alignNoted n hlane ctr spread s) n = laneSet s n := laneSet_only alignNoted_only rfl n

/-- An ALIGN that does not fit its lane: its lane number, its spread, or a counter that differs from those of the lanes that are deskewed. -/
def AlignWrong (n hlane ctr spread : Nat) (s : State) : Prop :=
  hlane ≠ lanePos s n ∨ 32 < spread ∨ ((s.lane n).deskewed = true ∧ ∃ m ∈ laneSet s n, m ≠ n ∧ (s.lane m).deskewed = true ∧
    (s.lane m).alignCtr ≠ ctr % 65536 ∧ ((s.lane m).alignCtr + 1) % 65536 ≠ ctr % 65536)

theorem alignWrong_iff : AlignWrong n hlane ctr spread s ↔ (hlane ≠ lanePos s n ∨ 32 < spread ∨
    ((s.lane n).deskewed = true ∧ ((laneSet s n).any fun m => m != n && (s.lane m).deskewed && ctrDiffers (ctr % 65536) (s.lane m)) = true)) := by
  unfold AlignWrong
  simp [ctrDiffers, and_assoc]

/-- The ALIGN with the counter has come to lane m, lane n's just now. -/
def Aligned (n ctr : Nat) (s : State) (m : Nat) : Prop := m = n ∨ ((s.lane m).alignSeen = true ∧ (s.lane m).alignCtr = ctr % 65536)

theorem alignReady_noted (m : Nat) : alignReady (alignNoted n hlane ctr spread s) (ctr % 65536) m = true ↔ Aligned n ctr s m := by
  unfold alignReady Aligned alignNoted
  by_cases h : m = n
  · subst h
    simp
  · rw [State.setLane_lane_ne _ _ _ (Ne.symm h), State.wr_lane]
    simp [h]

theorem alignNoted_deskewed (m : Nat) : ((alignNoted n hlane ctr spread s).lane m).deskewed = (s.lane m).deskewed := by
  unfold alignNoted
  by_cases h : m = n
  · subst h
    rw [State.setLane_lane_same]
  · rw [State.setLane_lane_ne _ _ _ (Ne.symm h), State.wr_lane]

theorem alignReceive_idle (hn : n < 256) (hb : blockLocked s n = false) : exec (.alignReceive n hlane ctr spread) s = .next s := by
  rw [exec_alignReceive, execAlignReceive, within_lt hn]
  exact if_pos (by rw [hb]; rfl)

include hn

theorem alignNoted_joinable {m : Nat} (hm : m < 256) : Joinable m (alignNoted n hlane ctr spread s) ↔ Joinable m s := by
  have hs : (alignNoted n hlane ctr spread s).rd Reg.Lane.STATE m = s.rd Reg.Lane.STATE m := alignNoted_moves.rd rfl (Lane.field_has hm rfl rfl)
  unfold Joinable
  rw [hs]
  unfold alignNoted
  by_cases h : m = n
  · subst h
    rw [State.setLane_lane_same]
  · rw [State.setLane_lane_ne _ _ _ (Ne.symm h), State.wr_lane]

/-- What joins after the ALIGN is noted joins from before. -/
theorem Joins.noted {m : Nat} (hm : m < 256) {t : State} (h : Joins m (alignNoted n hlane ctr spread s) t) : Joins m s t :=
  h.from (alignNoted_moves.rd rfl (Lane.field_has hm rfl rfl)) (alignNoted_moves.rd rfl (Lane.field_has hm rfl rfl)) (alignNoted_joinable hn hm)

section
variable (hb : blockLocked s n = true)
include hb

theorem alignReceive_wrong (hw : AlignWrong n hlane ctr spread s) :
    exec (.alignReceive n hlane ctr spread) s = .next (deskewFault n (alignNoted n hlane ctr spread s)) := by
  rw [exec_alignReceive, execAlignReceive, within_lt hn, if_neg (by rw [hb]; decide)]
  exact if_pos (alignWrong_iff.mp hw)

theorem alignReceive_right (hw : ¬ AlignWrong n hlane ctr spread s) : exec (.alignReceive n hlane ctr spread) s =
    .next ((joining (alignNoted n hlane ctr spread s) (laneSet s n) (ctr % 65536)).foldl (fun s m => laneJoin m s) (alignNoted n hlane ctr spread s)) := by
  rw [exec_alignReceive, execAlignReceive, within_lt hn, if_neg (by rw [hb]; decide)]
  exact if_neg fun h => hw (alignWrong_iff.mpr h)

omit hn hb in
theorem alignReceive_ends {P : State → Prop} {t : State} (he : exec (.alignReceive n hlane ctr spread) s = .next t) (hP : P t) :
    Does (.alignReceive n hlane ctr spread) [.all .lane, .lanes, .tokens] P s :=
  Does.of_law he (execAlignReceive_law (Only.of_law rfl) (Has.covers rfl) (Frame.refl _ _)) hP

/-- An ALIGN shows its lane number, whatever comes of it. -/
theorem alignReceive_shows : Does (.alignReceive n hlane ctr spread) [.all .lane, .lanes, .tokens]
    (fun t => t.rd Reg.Lane.HLANE n = hlane % 2 ^ Reg.Lane.HLANE.width) s := by
  have hi : Reg.Lane.HLANE.has n 0 = true := Lane.field_has hn rfl rfl
  have hs : (alignNoted n hlane ctr spread s).rd Reg.Lane.HLANE n = hlane % 2 ^ Reg.Lane.HLANE.width := State.rd_wr_same _ rfl _ hi
  by_cases hw : AlignWrong n hlane ctr spread s
  · exact alignReceive_ends (alignReceive_wrong hn hb hw) (((deskewFault_moves _ _).rd rfl hi).trans hs)
  · exact alignReceive_ends (alignReceive_right hn hb hw)
      (((Moves.of_foldl (fun s m => laneJoin_moves m s) _ (alignNoted n hlane ctr spread s)).rd rfl hi).trans hs)

theorem alignReceive_faults (hw : AlignWrong n hlane ctr spread s) : Does (.alignReceive n hlane ctr spread) [.all .lane, .lanes, .tokens]
    (fun t => ∀ m ∈ laneSet s n, NoDeskew m t) s := by
  refine alignReceive_ends (alignReceive_wrong hn hb hw) ?_
  have h := deskewFault_all hn (alignNoted n hlane ctr spread s)
  rwa [alignNoted_laneSet] at h

theorem alignReceive_causes (hw : AlignWrong n hlane ctr spread s) (ha : bondOf s n = none) :
    Does (.alignReceive n hlane ctr spread) [.all .lane, .lanes, .tokens] (Caused n 8 s) s := by
  refine alignReceive_ends (alignReceive_wrong hn hb hw) ?_
  have ht : (alignNoted n hlane ctr spread s).tokens = s.tokens := State.wr_tokens _ _ _ _
  have he : (alignNoted n hlane ctr spread s).rd Reg.Lane.EVEN n = s.rd Reg.Lane.EVEN n := alignNoted_moves.rd rfl (Lane.field_has hn rfl rfl)
  rw [deskewFault_alone ((bondOf_only alignNoted_only rfl n).trans ha)]
  exact Caused.of_laneCause hn (by decide) (setLane_law (Only.of_law rfl) (Has.covers rfl) alignNoted_only) rfl ht he

/-- A lane that the ALIGN deskews joins. -/
theorem alignReceive_joins (hw : ¬ AlignWrong n hlane ctr spread s) {ms : List Nat} (hms : ∀ m ∈ ms, m < 256)
    (hj : ∀ m ∈ ms, m ∈ joining (alignNoted n hlane ctr spread s) (laneSet s n) (ctr % 65536)) :
    Does (.alignReceive n hlane ctr spread) [.all .lane, .lanes, .tokens] (fun t => ∀ m ∈ ms, Joins m s t) s :=
  alignReceive_ends (alignReceive_right hn hb hw) fun m hm => (foldl_laneJoin (hms m hm) (hj m hm) _).noted hn (hms m hm)

/-- With every lane of the set aligned, the set is deskewed. -/
theorem alignReceive_deskews (hw : ¬ AlignWrong n hlane ctr spread s) (ha : ∀ m ∈ laneSet s n, Aligned n ctr s m) :
    Does (.alignReceive n hlane ctr spread) [.all .lane, .lanes, .tokens] (fun t => ∀ m ∈ laneSet s n, Joins m s t) s := by
  refine alignReceive_joins hn hb hw (fun m hm => laneSet_lt hn hm) fun m hm => ?_
  unfold joining
  dsimp only
  rw [if_pos (List.all_eq_true.mpr fun m hm => (alignReady_noted m).mpr (ha m hm))]
  exact hm

/-- A lane that has lock again comes back to lanes that are still deskewed. -/
theorem alignReceive_rejoins (hw : ¬ AlignWrong n hlane ctr spread s) (hna : ∃ m ∈ laneSet s n, ¬ Aligned n ctr s m) (hst : s.rd Reg.Lane.STATE n = 4)
    (hd : (s.lane n).deskewed = false) (hsome : ∃ m ∈ laneSet s n, (s.lane m).deskewed = true)
    (hall : ∀ m ∈ laneSet s n, (s.lane m).deskewed = true → Aligned n ctr s m) :
    Does (.alignReceive n hlane ctr spread) [.all .lane, .lanes, .tokens] (Joins n s) s := by
  have hready : ∀ m, alignReady (alignNoted n hlane ctr spread s) (ctr % 65536) m = true ↔ Aligned n ctr s m := fun m => alignReady_noted m
  have hdesk : ∀ m, ((alignNoted n hlane ctr spread s).lane m).deskewed = (s.lane m).deskewed := fun m => alignNoted_deskewed m
  have hin : n ∈ joining (alignNoted n hlane ctr spread s) (laneSet s n) (ctr % 65536) := by
    obtain ⟨a, ha, hna⟩ := hna
    obtain ⟨b, hb', hdb⟩ := hsome
    have h1 : ¬ ((laneSet s n).all (alignReady (alignNoted n hlane ctr spread s) (ctr % 65536))) = true :=
      fun hc => hna ((hready a).mp (List.all_eq_true.mp hc a ha))
    have hb1 : b ∈ (laneSet s n).filter fun m => ((alignNoted n hlane ctr spread s).lane m).deskewed :=
      List.mem_filter.mpr ⟨hb', (hdesk b).trans hdb⟩
    have h2 : (!((laneSet s n).filter fun m => ((alignNoted n hlane ctr spread s).lane m).deskewed).isEmpty &&
        ((laneSet s n).filter fun m => ((alignNoted n hlane ctr spread s).lane m).deskewed).all
          (alignReady (alignNoted n hlane ctr spread s) (ctr % 65536))) = true := by
      refine Bool.and_eq_true_iff.mpr ⟨by simpa using List.ne_nil_of_mem hb1, List.all_eq_true.mpr fun m hm => ?_⟩
      obtain ⟨hm1, hm2⟩ := List.mem_filter.mp hm
      exact (hready m).mpr (hall m hm1 ((hdesk m).symm.trans hm2))
    have hs : (alignNoted n hlane ctr spread s).laneState n = 4 := (alignNoted_moves.rd rfl (Lane.field_has hn rfl rfl)).trans hst
    unfold joining
    dsimp only
    rw [if_neg h1, if_pos h2, List.mem_filter]
    refine ⟨self_mem_laneSet s n, ?_⟩
    rw [hdesk, hd, (hready n).mpr (.inl rfl), hs]
    rfl
  have h := alignReceive_joins (ms := [n]) hn hb hw (by simpa using hn) (by simpa using hin)
  exact h.imp fun t ht => ht n (by simp)

theorem alignTimeout_exec : exec (.alignTimeout n) s = .next (deskewFault n s) := by
  rw [exec_alignTimeout, execAlignTimeout, within_lt hn]
  exact if_pos hb

theorem alignTimeout_faults : Does (.alignTimeout n) [.all .lane, .lanes, .tokens] (fun t => ∀ m ∈ laneSet s n, NoDeskew m t) s :=
  Does.of_law (alignTimeout_exec hn hb) (execAlignTimeout_law (Only.of_law rfl) (Has.covers rfl) (Frame.refl _ _)) (deskewFault_all hn s)

theorem alignTimeout_causes (ha : bondOf s n = none) : Does (.alignTimeout n) [.all .lane, .lanes, .tokens] (Caused n 8 s) s := by
  refine Does.of_law (alignTimeout_exec hn hb) (execAlignTimeout_law (Only.of_law rfl) (Has.covers rfl) (Frame.refl _ _)) ?_
  rw [deskewFault_alone ha]
  exact Caused.of_laneCause (l := [.lanes]) hn (by decide) (setLane_law (Only.of_law rfl) (Has.covers rfl) (Frame.refl _ _)) rfl rfl rfl

end

omit hn in
theorem alignTimeout_idle (hn : n < 256) (hb : blockLocked s n = false) : exec (.alignTimeout n) s = .next s := by
  rw [exec_alignTimeout, execAlignTimeout, within_lt hn]
  exact if_neg (by rw [hb]; decide)

end

end Sys2Proof.Machine
end

section
/-!
PROOF. Monitors of the sensor lanes (O27).
-/
namespace Sys2Proof.Machine

/-- Settles O27: each monitor by what it finds. -/
theorem laneMonitoring : Obligations.LaneMonitoring := by
  intro n s hn
  refine ⟨fun bad => ⟨hiberWindow_does hn bad, hiberWindow_idle hn bad⟩, fun g present ppb hg => ?references,
    fun fill => ⟨skipReceive_deletes hn, skipReceive_inserts hn, skipReceive_shows hn⟩,
    fun hlane ctr spread => ⟨alignReceive_idle hn, fun hb => ⟨alignReceive_shows hn hb, alignReceive_faults hn hb, alignReceive_causes hn hb,
      alignReceive_deskews hn hb, alignReceive_rejoins hn hb⟩⟩,
    fun hb => ⟨alignTimeout_faults hn hb, alignTimeout_causes hn hb⟩, alignTimeout_idle hn,
    fun bits => ⟨prbsError_does hn bits, prbsError_idle hn bits⟩, prbsResync_does hn, prbsResync_idle hn,
    fun count => ⟨eyescanPoint_does hn count, eyescanPoint_idle hn count⟩⟩
  case references =>
    exact ⟨refWindow_measures hg, refWindow_loses hg, refWindow_keeps hg, fun hf h => (refWindow_stays hg hf h).imp fun t ht => ht.1,
      refWindow_goesOn hg, refWindow_regains hg⟩

end Sys2Proof.Machine
end

section
/-!
SUPPORT. The equaliser and the far-end taps of a lane: held quantities, adapted values, requests (R85 to R89, R142).
-/
namespace Sys2Proof.Machine

/-! ### Bits of a number -/

theorem testBit_setBit (x n : Nat) : (setBit x n).testBit n = true := by
  rw [setBit, Nat.testBit_or, Nat.testBit_two_pow_self, Bool.or_true]

theorem testBit_clearBit (x n : Nat) : (clearBit x n).testBit n = false := by
  unfold clearBit
  split
  · next h =>
    have hq : x / 2 ^ n % 2 = 1 := by simpa [Nat.testBit_eq_decide_div_mod_eq] using h
    have hs : (x - 2 ^ n) / 2 ^ n = x / 2 ^ n - 1 := by simpa using Nat.sub_mul_div x (2 ^ n) 1
    rw [Nat.testBit_eq_decide_div_mod_eq, hs, decide_eq_false]
    omega
  · next h => exact Bool.not_eq_true _ ▸ h

/-! ### Requests -/

theorem dueTap_lane (n m : Nat) (s : State) : (dueTap n s).lane m = s.lane m :=
  Only.lane (l := [.heads]) (dueTap_law (Only.of_law rfl) (Has.covers rfl) (Frame.refl _ _)) (by simp [Covers]) m

/-- A request that is due waits on the master downlink of the lane's head. -/
theorem dueTap_taps {n h k : Nat} {r : TapReq} {s : State} (hb : bondOf s n = some (h, k)) (hr : (s.lane n).req = some r) :
    ((dueTap n s).head h).down.taps = (s.head h).down.taps ++ [r.block k] := by
  unfold dueTap
  rw [hb, hr]
  dsimp only
  rw [State.setHead_head_same]

/-- The lane with its next request out. -/
def Lane.asking (l : Lane) (action tap : Nat) (vals : List Nat) : Lane :=
  { l with req := some { action := action, tap := tap, rseq := l.rseq, vals := vals }, rseq := (l.rseq + 1) % 256, reqs := l.reqs + 1, repeats := 0 }

theorem sendTap_lane_same (n action tap : Nat) (vals : List Nat) (s : State) :
    (sendTap n action tap vals s).lane n = (s.lane n).asking action tap vals := (dueTap_lane _ _ _).trans (State.setLane_lane_same _ _ _)

theorem sendTap_lane_ne {n m : Nat} (h : n ≠ m) (action tap : Nat) (vals : List Nat) (s : State) : (sendTap n action tap vals s).lane m = s.lane m :=
  (dueTap_lane _ _ _).trans (State.setLane_lane_ne _ _ _ h)

/-! ### Held quantities -/

theorem State.sat_lane (s : State) (f : Field) (i k m : Nat) : (s.sat f i k).lane m = s.lane m := State.wr_lane _ _ _ _ _

theorem setHeldQ_lane (n h m : Nat) (s : State) : (setHeldQ n h s).lane m = (s.setLane n { s.lane n with heldQ := h }).lane m := by
  unfold setHeldQ
  dsimp only
  rw [State.ite_lane, laneCause_lane, State.sat_lane, State.wr_lane, ite_self]

theorem setHeldQ_lane_same (n h : Nat) (s : State) : (setHeldQ n h s).lane n = { s.lane n with heldQ := h } :=
  (setHeldQ_lane _ _ _ _).trans (State.setLane_lane_same _ _ _)

theorem setHeldQ_lane_ne {n m : Nat} (h : n ≠ m) (v : Nat) (s : State) : (setHeldQ n v s).lane m = s.lane m :=
  (setHeldQ_lane _ _ _ _).trans (State.setLane_lane_ne _ _ _ h)

/-- EQBOUND says whether any quantity is held. -/
theorem setHeldQ_eqbound {n : Nat} (hn : n < 256) (h : Nat) (s : State) : (setHeldQ n h s).rd Reg.Lane.EQBOUND n = b2n (h != 0) := by
  have hi : Reg.Lane.EQBOUND.has n 0 = true := Lane.field_has hn rfl rfl
  unfold setHeldQ
  dsimp only
  rw [State.rd_ite, (laneCause_moves _ _ _).rd rfl hi, ite_self, (Moves.of_sat _ _ _ _).rd rfl hi, State.rd_wr_same _ rfl _ hi]
  exact b2n_bit _

/-- Which quantities hold once quantity q is held or free. -/
def heldWith (h q : Nat) (held : Bool) : Nat := if held then setBit h q else clearBit h q

theorem heldWith_bit (h q : Nat) (held : Bool) : (heldWith h q held).testBit q = held := by
  cases held
  · exact testBit_clearBit h q
  · exact testBit_setBit h q

theorem holdQ_lane_same (n q : Nat) (held : Bool) (s : State) :
    (holdQ n q held s).lane n = { s.lane n with heldQ := heldWith (s.lane n).heldQ q held } := setHeldQ_lane_same _ _ _

theorem holdQ_lane_ne {n m : Nat} (h : n ≠ m) (q : Nat) (held : Bool) (s : State) : (holdQ n q held s).lane m = s.lane m := setHeldQ_lane_ne h _ _

/-! ### The CTLE -/

/-- The code of the CTLE, the mark that it is held, and EQBOUND of an adaptation towards a code. -/
def Adapts (n code : Nat) (s t : State) : Prop :=
  t.rd Reg.Lane.CTLE n = adaptCtle s n code ∧
    ((t.lane n).heldQ.testBit 0 = true ↔ ¬ (s.rd Reg.Lane.PIN n).testBit 3 = true ∧ adaptCtle s n code ≠ code) ∧
    t.rd Reg.Lane.EQBOUND n = b2n ((t.lane n).heldQ != 0)

/-- The lane with the CTLE held or free. -/
def Lane.holding (l : Lane) (q : Nat) (held : Bool) : Lane := { l with heldQ := heldWith l.heldQ q held }

/-- The adaptation passes a bound of a CTLE that is not pinned. -/
def ctleHeld (n code : Nat) (s : State) : Bool := !(s.rd Reg.Lane.PIN n).testBit 3 && adaptCtle s n code != code

theorem adaptC_lane_same (n code : Nat) (s : State) : (adaptC n code s).lane n = (s.lane n).holding 0 (ctleHeld n code s) := by
  unfold adaptC
  dsimp only
  rw [holdQ_lane_same, State.wr_lane]
  rfl

theorem adaptC_lane_ne {n m : Nat} (h : n ≠ m) (code : Nat) (s : State) : (adaptC n code s).lane m = s.lane m :=
  (holdQ_lane_ne h _ _ _).trans (State.wr_lane _ _ _ _ _)

theorem adaptC_moves (n code : Nat) (s : State) : Moves (Reg.Lane.CTLE :: heldFields) s (adaptC n code s) :=
  (Moves.of_wr _ _ _ _).trans (holdQ_moves _ _ _ _)

theorem adaptC_adapts {n : Nat} (hn : n < 256) (code : Nat) (s : State) : Adapts n code s (adaptC n code s) := by
  have hi : Reg.Lane.CTLE.has n 0 = true := Lane.field_has hn rfl rfl
  refine ⟨?_, ?_, ?_⟩
  · exact ((holdQ_moves _ _ _ _).rd rfl hi).trans ((State.rd_wr_same _ rfl _ hi).trans (Nat.mod_eq_of_lt (adaptCtle_lt s n code)))
  · rw [adaptC_lane_same]
    unfold Lane.holding
    dsimp only
    rw [heldWith_bit]
    simp [ctleHeld]
  · rw [adaptC_lane_same]
    unfold adaptC holdQ
    dsimp only
    rw [setHeldQ_eqbound hn, State.wr_lane]
    rfl

/-! ### The DFE -/

/-- DFE tap 8 − j of a lane, which DFETAP holds as element j of eight in one word. -/
def dfeTap (j : Nat) : Field := ⟨0x20010020, 0x80, 256, 0x0, 1, 7 * j + 6, 7 * j, 0⟩

/-- The taps. -/
def dfeTaps : List Field := (List.range 8).map dfeTap

theorem dfeTap_mem {j : Nat} (hj : j < 8) : dfeTap j ∈ dfeTaps := List.mem_map.mpr ⟨j, List.mem_range.mpr hj, rfl⟩

theorem dfeTap_width (j : Nat) : (dfeTap j).width = 7 := by
  show 7 * j + 6 - 7 * j + 1 = 7
  omega

theorem dfeTap_inWord {j : Nat} (hj : j < 8) : (dfeTap j).inWord = true := by
  unfold Field.inWord
  rw [dfeTap_width]
  unfold dfeTap
  simp
  omega

theorem dfeTap_word {j : Nat} (hj : j < 8) (n : Nat) : Reg.Lane.DFETAP.word n j = (dfeTap j).word n 0 := by
  have h : j * 7 / 64 = 0 := by omega
  simp [Field.word, Reg.Lane.DFETAP, dfeTap, h]

theorem dfeTap_sh {j : Nat} (hj : j < 8) : Reg.Lane.DFETAP.sh j = (dfeTap j).sh 0 := by
  simp [Field.sh, Reg.Lane.DFETAP, dfeTap]
  omega

theorem dfeTap_has {n j : Nat} (hn : n < 256) : (dfeTap j).has n 0 = true := Lane.field_has hn rfl rfl

theorem dfeTap_rd {j : Nat} (hj : j < 8) (s : State) (n : Nat) : s.rd2 Reg.Lane.DFETAP n j = s.rd (dfeTap j) n := by
  unfold State.rd State.rd2 Field.get
  rw [dfeTap_word hj, dfeTap_sh hj, dfeTap_width]
  rfl

theorem dfeTap_wr {j : Nat} (hj : j < 8) (s : State) (n v : Nat) : s.wr2 Reg.Lane.DFETAP n j v = s.wr (dfeTap j) n v := by
  have h : Reg.Lane.DFETAP.has n j = (dfeTap j).has n 0 := by simp [Field.has, Reg.Lane.DFETAP, dfeTap, hj]
  unfold State.wr State.wr2 Field.put
  rw [h, dfeTap_word hj, dfeTap_sh hj, dfeTap_width]
  rfl

theorem dfeTap_apart {j k : Nat} (hj : j < 8) (hk : k < 8) (h : j ≠ k) : (dfeTap j).apart (dfeTap k) = true := by
  have hall : ∀ j, j < 8 → ∀ k, k < 8 → j ≠ k → (dfeTap j).apart (dfeTap k) = true := by decide
  exact hall j hj k hk h

/-- The value that DFE tap k takes towards a value: within its bounds. -/
def dfeValue (s : State) (n k : Nat) (v : Int) : Nat :=
  let m : Nat := if k = 1 then s.rd Reg.Lane.DFE1MAX n else 31
  low 7 (clampI (-(m : Int)) m v)

section
variable {k : Nat} (hk : k < 8) (n : Nat) (v : Int) (s : State)
include hk

theorem setDfe_eq : setDfe n v (k + 1) s = s.wr (dfeTap (7 - k)) n (dfeValue s n (k + 1) v) := by
  have h : 8 - (k + 1) = 7 - k := by omega
  unfold setDfe
  rw [h]
  exact dfeTap_wr (by omega) _ _ _

theorem adaptD_moves : Moves (dfeTap (7 - k) :: heldFields) s (adaptD n (k + 1) v s) := by
  have hd : Moves [dfeTap (7 - k)] s (setDfe n v (k + 1) s) := by
    rw [setDfe_eq hk]
    exact Moves.of_wr _ _ _ _
  unfold adaptD
  exact Moves.ite (fun _ => hd.trans (holdQ_moves _ _ _ _)) fun _ => hd.mono (by simp)

omit hk in
theorem adaptD_lane_same (q : Nat) : ((adaptD n q v s).lane n) =
    if q = 1 then (s.lane n).holding 1 (decide (s.rd Reg.Lane.DFE1MAX n < v.natAbs)) else s.lane n := by
  have hl : (setDfe n v q s).lane n = s.lane n :=
    Only.lane (l := [.one .lane n]) (setDfe_law (Only.of_law rfl) (Has.covers rfl) (Covers.one (by simp)) (Frame.refl _ _)) (by simp [Covers]) n
  unfold adaptD
  dsimp only
  split
  · rw [holdQ_lane_same, hl]
    rfl
  · exact hl

omit hk in
theorem adaptD_lane_ne {m : Nat} (h : n ≠ m) (q : Nat) : (adaptD n q v s).lane m = s.lane m := by
  have hl : (setDfe n v q s).lane m = s.lane m :=
    Only.lane (l := [.one .lane n]) (setDfe_law (Only.of_law rfl) (Has.covers rfl) (Covers.one (by simp)) (Frame.refl _ _)) (by simp [Covers]) m
  unfold adaptD
  dsimp only
  rw [State.ite_lane, holdQ_lane_ne h, hl, ite_self]

variable {n} (hn : n < 256)
include hn

theorem adaptD_tap : (adaptD n (k + 1) v s).rd2 Reg.Lane.DFETAP n (7 - k) = dfeValue s n (k + 1) v := by
  have hall : ∀ j, j < 8 → (heldFields.all fun g => g.apart (dfeTap j)) = true := by decide
  have hd : (setDfe n v (k + 1) s).rd (dfeTap (7 - k)) n = dfeValue s n (k + 1) v := by
    rw [setDfe_eq hk, State.rd_wr_same _ (dfeTap_inWord (by omega)) _ (dfeTap_has hn), dfeTap_width]
    exact low_mod _ _
  rw [dfeTap_rd (by omega)]
  unfold adaptD
  dsimp only
  rw [State.rd_ite, (holdQ_moves _ _ _ _).rd (hall _ (by omega)) (dfeTap_has hn), hd, ite_self]

theorem adaptD_tap_ne {j : Nat} (hj : j < 8) (h : j ≠ 7 - k) : (adaptD n (k + 1) v s).rd2 Reg.Lane.DFETAP n j = s.rd2 Reg.Lane.DFETAP n j := by
  have hall : ∀ j, j < 8 → (heldFields.all fun g => g.apart (dfeTap j)) = true := by decide
  rw [dfeTap_rd hj, dfeTap_rd hj]
  refine (adaptD_moves hk n v s).rd ?_ (dfeTap_has hn)
  rw [List.all_cons, dfeTap_apart (by omega) hj (Ne.symm h), hall j hj]
  rfl

end

end Sys2Proof.Machine
end

section
/-!
PROOF. The steps of a lane's training that no tap decides: wake, lock, loss of lock, timeouts and retries (R76, R82, R90, R91, R94, R95).
-/
namespace Sys2Proof.Machine

/-- A lane in training has reached a step and not failed. -/
abbrev TrainsAt (n k : Nat) (s : State) : Prop := s.rd Reg.Lane.STATE n = 2 ∧ (s.lane n).step = k ∧ (s.lane n).failed = false

/-- A lane has begun to train, from step k. -/
def Trains (n k : Nat) (t : State) : Prop :=
  t.rd Reg.Lane.STATE n = 2 ∧ t.rd Reg.Lane.FENORESP n = 0 ∧ (t.lane n).step = k ∧ (t.lane n).failed = false ∧
    (t.lane n).relocked = false ∧ (t.lane n).deskewed = false

theorem leavePrbs_short (n : Nat) (s : State) : ((leavePrbs n s).lane n).short = (s.lane n).short := by
  unfold leavePrbs stopPrbs
  split
  · rw [State.setLane_lane_same]
  · rfl

theorem trainFrom_lane_same (n k : Nat) (s : State) :
    (trainFrom n k s).lane n = { ((leavePrbs n s).lane n).idle with step := k, reqs := 0, stale := 0, repeats := 0, closed := 0 } := by
  unfold trainFrom
  rw [txIdle_lane, State.wrAll_lane, State.setLane_lane_same]

section
variable {n : Nat} (hn : n < 256) {s : State}
include hn

theorem trainFrom_trains (k : Nat) : Trains n k (trainFrom n k s) := by
  have hi : Reg.Lane.FENORESP.has n 0 = true := Lane.field_has hn rfl rfl
  refine ⟨trainFrom_state hn s k, ?_, ?_⟩
  · exact ((txIdle_moves _ _).rd rfl hi).trans (State.rd_wrAll_head (State.wr _ Reg.Lane.STATE n lsTRAINING) n 0 [] rfl hi rfl)
  · rw [trainFrom_lane_same]
    exact ⟨rfl, rfl, rfl, rfl⟩

/-! ### LANE_WAKE -/

/-- A cold lane that may come up. -/
abbrev Wakes (n : Nat) (s : State) : Prop := s.granted 2 n = true ∧ s.rd Reg.Lane.STATE n = 1 ∧ s.rd Reg.LaneGroup.REFFAULT (n / 16) = 0

/-- A pattern is selected for the lane. -/
abbrev Patterned (n : Nat) (s : State) : Prop := s.rd Reg.Lane.PRBSGEN n ≠ 0 ∨ s.rd Reg.Lane.PRBSCHK n ≠ 0

/-- COLD is not asked of the lane any more, and its retained values shorten the training. -/
def waking (n : Nat) (s : State) : State := (s.wr Reg.Lane.COLD n 0).setLane n { s.lane n with short := (s.lane n).retained }

omit hn in
theorem wakes_iff (n : Nat) (s : State) :
    (s.granted 2 n && s.laneState n == lsCOLD && !s.on Reg.LaneGroup.REFFAULT (n / 16)) = true ↔ Wakes n s := by
  simp [State.on, State.laneState, lsCOLD, Wakes, and_assoc]

theorem exec_laneWake_wakes (h : Wakes n s) : exec (.laneWake n) s = .next (comeUp n 1 (waking n s)) := by
  rw [exec_laneWake, execLaneWake, within_lt hn]
  exact if_pos ((wakes_iff n s).mpr h)

theorem waking_rd {f : Field} (h1 : f.n1 = 256) (h2 : f.n2 = 1) (ha : Reg.Lane.COLD.apart f = true) : (waking n s).rd f n = s.rd f n :=
  State.rd_wr_apart _ ha _ (Lane.field_has hn h1 h2)

theorem waking_patterned : Patterned n (waking n s) ↔ Patterned n s := by
  unfold Patterned
  rw [waking_rd hn rfl rfl rfl, waking_rd hn rfl rfl rfl]

theorem comeUp_cold (k : Nat) : (comeUp n k s).rd Reg.Lane.COLD n = s.rd Reg.Lane.COLD n := by
  have hi : Reg.Lane.COLD.has n 0 = true := Lane.field_has hn rfl rfl
  unfold comeUp
  rw [State.rd_ite, (startPrbs_moves _ _).rd rfl hi, (trainFrom_moves _ _ _).rd rfl hi, ite_self]

theorem laneWake_does {P : State → Prop} (h : Wakes n s) (hP : P (comeUp n 1 (waking n s))) :
    Does (.laneWake n) [.one .lane n, .lanes, .tokens] (fun t => P t ∧ t.rd Reg.Lane.COLD n = 0) s := by
  have hi : Reg.Lane.COLD.has n 0 = true := Lane.field_has hn rfl rfl
  refine Does.of_law (exec_laneWake_wakes hn h) (execLaneWake_law (Only.of_law rfl) (Has.covers rfl) (Covers.one (by simp)) (Frame.refl _ _)) ⟨hP, ?_⟩
  exact (comeUp_cold hn 1).trans (State.rd_wr_same _ rfl _ hi)

theorem laneWake_trains (h : Wakes n s) (hp : ¬ Patterned n s) : Does (.laneWake n) [.one .lane n, .lanes, .tokens] (fun t =>
    Trains n 1 t ∧ t.rd Reg.Lane.COLD n = 0 ∧ (t.lane n).short = (s.lane n).retained) s := by
  have hc : comeUp n 1 (waking n s) = trainFrom n 1 (waking n s) := if_neg fun hon => hp ((waking_patterned hn).mp ((prbsOn_iff _ _).mp hon))
  have hP : Trains n 1 (comeUp n 1 (waking n s)) ∧ ((comeUp n 1 (waking n s)).lane n).short = (s.lane n).retained := by
    rw [hc]
    refine ⟨trainFrom_trains hn 1, ?_⟩
    rw [trainFrom_lane_same]
    refine (leavePrbs_short _ _).trans ?_
    rw [waking, State.setLane_lane_same]
  exact (laneWake_does hn (P := fun t => Trains n 1 t ∧ (t.lane n).short = (s.lane n).retained) h hP).imp fun t ⟨⟨ht, hs⟩, hcold⟩ => ⟨ht, hcold, hs⟩

theorem laneWake_patterned (h : Wakes n s) (hp : Patterned n s) : Does (.laneWake n) [.one .lane n, .lanes, .tokens] (fun t =>
    t.rd Reg.Lane.STATE n = 6 ∧ t.rd Reg.Lane.COLD n = 0) s :=
  laneWake_does hn (P := fun t => t.rd Reg.Lane.STATE n = 6) h ((comeUp_state hn _ 1).trans (if_pos ((waking_patterned hn).mpr hp)))

theorem laneWake_idle (h : s.granted 2 n = false ∨ s.rd Reg.Lane.STATE n ≠ 1 ∨ s.rd Reg.LaneGroup.REFFAULT (n / 16) ≠ 0) :
    exec (.laneWake n) s = .next s := by
  rw [exec_laneWake, execLaneWake, within_lt hn]
  refine if_neg fun hw => ?_
  obtain ⟨hg, hs, hr⟩ := (wakes_iff n s).mp hw
  rcases h with h | h | h
  · exact Bool.noConfusion (hg.symm.trans h)
  · exact h hs
  · exact h hr

/-! ### BLOCK_LOCK -/

omit hn in
theorem trainsAt_iff (n k : Nat) (s : State) : (s.laneState n = lsTRAINING ∧ (s.lane n).step = k ∧ (!(s.lane n).failed) = true) ↔ TrainsAt n k s := by
  rw [Bool.not_eq_true']
  rfl

theorem blockLock_steps (h : TrainsAt n 3 s) : Does (.blockLock n) [.lanes] (fun t => t.lane n = { s.lane n with step := 4 }) s := by
  have he : exec (.blockLock n) s = .next (s.setLane n { s.lane n with step := 4 }) := by
    rw [exec_blockLock, execBlockLock, within_lt hn]
    exact if_pos ((trainsAt_iff n 3 s).mpr h)
  exact Does.of_law he (execBlockLock_law (Only.of_law rfl) (Has.covers rfl) (Frame.refl _ _)) (State.setLane_lane_same _ _ _)

theorem blockLock_relocks (h : s.rd Reg.Lane.STATE n = 4) : Does (.blockLock n) [.lanes] (fun t => t.lane n = { s.lane n with relocked := true }) s := by
  have he : exec (.blockLock n) s = .next (s.setLane n { s.lane n with relocked := true }) := by
    rw [exec_blockLock, execBlockLock, within_lt hn]
    refine (if_neg fun ht => ?_).trans (if_pos h)
    have h2 : s.rd Reg.Lane.STATE n = 2 := ht.1
    omega
  exact Does.of_law he (execBlockLock_law (Only.of_law rfl) (Has.covers rfl) (Frame.refl _ _)) (State.setLane_lane_same _ _ _)

theorem blockLock_idle (h : ¬ TrainsAt n 3 s) (h4 : s.rd Reg.Lane.STATE n ≠ 4) : exec (.blockLock n) s = .next s := by
  rw [exec_blockLock, execBlockLock, within_lt hn]
  exact (if_neg fun ht => h ((trainsAt_iff n 3 s).mp ht)).trans (if_neg h4)

/-! ### LOCK_LOST -/

/-- A lane without block lock: no deskew, no request. -/
def Lane.unlocked (l : Lane) : Lane := { l with relocked := false, deskewed := false, alignSeen := false, req := none }

/-- The lane has lost its lock, which LOCKLOSS counts. -/
def lockGone (n : Nat) (s : State) : State :=
  if s.rd Reg.Lane.STATE n = 3 then laneCause n 1 (((s.sat Reg.Lane.LOCKLOSS n 1).wr Reg.Lane.STATE n lsRECOVER).setLane n (s.lane n).unlocked)
  else (s.sat Reg.Lane.LOCKLOSS n 1).setLane n (if s.rd Reg.Lane.STATE n = 2 then { (s.lane n).unlocked with step := 3 } else (s.lane n).unlocked)

theorem exec_lockLost_locked (hb : blockLocked s n = true) : exec (.lockLost n) s = .next (lockGone n s) := by
  rw [exec_lockLost, execLockLost, within_lt (by omega), if_neg (by omega), if_neg (by rw [hb]; decide)]
  unfold lockGone
  by_cases h3 : s.rd Reg.Lane.STATE n = 3
  · exact (if_pos h3).trans (congrArg _ (if_pos h3).symm)
  by_cases h2 : s.rd Reg.Lane.STATE n = 2
  · rw [if_neg h3, if_pos h2]
    exact (if_neg h3).trans (if_pos h2)
  · rw [if_neg h3, if_neg h2]
    exact (if_neg h3).trans (if_neg h2)

omit hn in
theorem lockGone_lane (n : Nat) (s : State) : ((lockGone n s).lane n).relocked = false ∧ ((lockGone n s).lane n).deskewed = false ∧
    (s.rd Reg.Lane.STATE n = 2 → ((lockGone n s).lane n).step = 3) := by
  unfold lockGone
  split
  · next h3 =>
    rw [laneCause_lane, State.setLane_lane_same]
    exact ⟨rfl, rfl, fun h2 => by omega⟩
  · rw [State.setLane_lane_same]
    split
    · exact ⟨rfl, rfl, fun _ => rfl⟩
    · next h2 => exact ⟨rfl, rfl, fun h => absurd h h2⟩

omit hn in
theorem lockGone_only (n : Nat) (s : State) : Only [.one .lane n, .lanes, .tokens] s (lockGone n s) := by
  have hc : Only [.one .lane n, .lanes, .tokens] s (s.sat Reg.Lane.LOCKLOSS n 1) := (wrLane_only rfl _ _ _).mono (by simp [covered])
  unfold lockGone
  split
  · refine laneCause_law (Only.of_law rfl) (Has.covers rfl) (Covers.one (by simp)) (setLane_law (Only.of_law rfl) (Has.covers rfl) ?_)
    exact hc.trans ((wrLane_only rfl _ _ _).mono (by simp [covered]))
  · exact setLane_law (Only.of_law rfl) (Has.covers rfl) hc

theorem lockGone_counts : Climbs Reg.Lane.LOCKLOSS n 1 s (lockGone n s) := by
  have hi : Reg.Lane.LOCKLOSS.has n 0 = true := Lane.field_has hn rfl rfl
  unfold lockGone Climbs
  rw [State.rd_ite, (laneCause_moves _ _ _).rd rfl hi, State.setLane_rd, State.setLane_rd, State.rd_wr_apart _ rfl _ hi, ite_self, State.rd_sat_same _ rfl hi]

theorem lockGone_locked (h : s.rd Reg.Lane.STATE n = 3) : (lockGone n s).rd Reg.Lane.STATE n = 4 ∧ Caused n 1 s (lockGone n s) := by
  have hs : Reg.Lane.STATE.has n 0 = true := Lane.field_has hn rfl rfl
  have he : Reg.Lane.EVEN.has n 0 = true := Lane.field_has hn rfl rfl
  unfold lockGone
  rw [if_pos h]
  refine ⟨((laneCause_moves _ _ _).rd rfl hs).trans (State.rd_wr_same _ rfl _ hs), ?_⟩
  refine Caused.of_laneCause (l := [.one .lane n, .lanes]) hn (by decide) (setLane_law (Only.of_law rfl) (Has.covers rfl)
    (((wrLane_only rfl _ _ _).trans (wrLane_only rfl _ _ _)).mono (by simp [covered]))) rfl ?_ ?_
  · exact (State.wr_tokens _ _ _ _).trans (State.sat_tokens _ _ _ _)
  · exact (State.rd_wr_apart _ rfl _ he).trans ((Moves.of_sat _ _ _ _).rd rfl he)

theorem lockGone_unlocked (h : s.rd Reg.Lane.STATE n ≠ 3) :
    (lockGone n s).rd Reg.Lane.STATE n = s.rd Reg.Lane.STATE n ∧ (lockGone n s).tokens = s.tokens := by
  have hs : Reg.Lane.STATE.has n 0 = true := Lane.field_has hn rfl rfl
  unfold lockGone
  rw [if_neg h]
  exact ⟨(Moves.of_sat _ _ _ _).rd rfl hs, State.sat_tokens _ _ _ _⟩

theorem lockLost_does (hb : blockLocked s n = true) : Does (.lockLost n) [.one .lane n, .lanes, .tokens] (fun t =>
    (t.lane n).relocked = false ∧ (t.lane n).deskewed = false ∧ Climbs Reg.Lane.LOCKLOSS n 1 s t ∧
      (s.rd Reg.Lane.STATE n = 3 → t.rd Reg.Lane.STATE n = 4 ∧ Caused n 1 s t) ∧
      (s.rd Reg.Lane.STATE n ≠ 3 → t.rd Reg.Lane.STATE n = s.rd Reg.Lane.STATE n ∧ t.tokens = s.tokens ∧
        (s.rd Reg.Lane.STATE n = 2 → (t.lane n).step = 3))) s := by
  obtain ⟨hr, hd, h2⟩ := lockGone_lane n s
  refine ⟨_, exec_lockLost_locked hn hb, lockGone_only n s, hr, hd, lockGone_counts hn, lockGone_locked hn, fun h3 => ?_⟩
  obtain ⟨hs, ht⟩ := lockGone_unlocked hn h3
  exact ⟨hs, ht, h2⟩

theorem lockLost_idle (hb : blockLocked s n = false) : exec (.lockLost n) s = .next s := by
  rw [exec_lockLost, execLockLost, within_lt (by omega), if_neg (by omega)]
  exact if_pos (by rw [hb]; decide)

omit hn in
/-- Lane k of the Wyton Link's ports. -/
theorem lockLost_port {k : Nat} (hk : k < 16) (s : State) :
    exec (.lockLost (256 + k)) s = .next (if s.portUp (k / 4) then portDown (k / 4) 3 s else s) := by
  rw [exec_lockLost, execLockLost, within_lt (by omega), if_pos (by omega), Nat.add_sub_cancel_left]
  split <;> rfl

/-! ### RELOCK_TIMEOUT and TRAIN_RETRY -/

omit hn in
theorem relockTimeout_trains (he : exec (.relockTimeout n) s = .next (trainFrom n 2 s)) {P : State → Prop} (hP : P (trainFrom n 2 s)) :
    Does (.relockTimeout n) [.one .lane n, .lanes] P s :=
  Does.of_law he (execRelockTimeout_law (Only.of_law rfl) (Has.covers rfl) (Covers.one (by simp)) (Frame.refl _ _)) hP

theorem relockTimeout_recovering (h4 : s.rd Reg.Lane.STATE n = 4) (hr : (s.lane n).relocked = false) :
    Does (.relockTimeout n) [.one .lane n, .lanes] (Trains n 2) s := by
  refine relockTimeout_trains ?_ (trainFrom_trains hn 2)
  rw [exec_relockTimeout, execRelockTimeout, within_lt hn]
  exact if_pos ⟨h4, by rw [hr]; rfl⟩

theorem relockTimeout_resumed (h2 : s.rd Reg.Lane.STATE n = 2) (h3 : (s.lane n).step = 3) (hr : (s.lane n).resumed = true) :
    Does (.relockTimeout n) [.one .lane n, .lanes] (fun t => Trains n 2 t ∧ (t.lane n).resumed = false) s := by
  refine relockTimeout_trains ?_ ⟨trainFrom_trains hn 2, by rw [trainFrom_lane_same]; rfl⟩
  rw [exec_relockTimeout, execRelockTimeout, within_lt hn]
  refine (if_neg fun h => ?_).trans (if_pos ⟨h2, h3, hr⟩)
  have h4 : s.rd Reg.Lane.STATE n = 4 := h.1
  omega

theorem trainRetry_trains (h2 : s.rd Reg.Lane.STATE n = 2) (hf : (s.lane n).failed = true) :
    Does (.trainRetry n) [.one .lane n, .lanes] (Trains n 1) s := by
  have he : exec (.trainRetry n) s = .next (trainFrom n 1 s) := by
    rw [exec_trainRetry, execTrainRetry, within_lt hn]
    exact if_pos ⟨h2, hf⟩
  exact Does.of_law he (execTrainRetry_law (Only.of_law rfl) (Has.covers rfl) (Covers.one (by simp)) (Frame.refl _ _)) (trainFrom_trains hn 1)

theorem trainRetry_idle (h : s.rd Reg.Lane.STATE n ≠ 2 ∨ (s.lane n).failed = false) : exec (.trainRetry n) s = .next s := by
  rw [exec_trainRetry, execTrainRetry, within_lt hn]
  refine if_neg fun ⟨h2, hf⟩ => ?_
  rcases h with h | h
  · exact h h2
  · exact Bool.noConfusion (h.symm.trans hf)

/-! ### TRAIN_STEP_TIMEOUT -/

theorem trainStepTimeout_fails (h : TrainsAt n (s.lane n).step s) (h0 : (s.lane n).step ≠ 0) (h6 : (s.lane n).step ≠ 6) :
    Does (.trainStepTimeout n) [.one .lane n, .lanes, .tokens] (fun t => (t.lane n).failed = true ∧ Caused n 6 s t) s := by
  obtain ⟨h2, -, hf⟩ := h
  have he : exec (.trainStepTimeout n) s = .next ((laneCause n 6 s).setLane n { s.lane n with failed := true }) := by
    rw [exec_trainStepTimeout, execTrainStepTimeout, within_lt hn]
    exact (if_pos ⟨h2, h0, by rw [hf]; rfl⟩).trans (if_neg h6)
  refine ⟨_, he, setLane_law (Only.of_law rfl) (Has.covers rfl) ((laneCause_only n 6 s).mono (by simp [covered])), ?_, ?_⟩
  · rw [State.setLane_lane_same]
  · exact (Caused.of_laneCause (l := []) hn (by decide) (Frame.refl _ _) rfl rfl rfl).setLane _

/-- A lane of the set whose deskew has timed out. -/
def deskewFailed (s : State) (m : Nat) : State :=
  if s.rd Reg.Lane.STATE m = 2 ∧ (s.lane m).step = 6 then (laneCauses m 0x140 s).setLane m { s.lane m with failed := true, deskewed := false } else s

/-- Lane m has failed, with its causes. -/
def DeskewFailed (m : Nat) (t : State) : Prop :=
  (t.lane m).failed = true ∧ (t.rd Reg.Lane.EVCAUSE m).testBit 6 = true ∧ (t.rd Reg.Lane.EVCAUSE m).testBit 8 = true

omit hn in
theorem deskewFailed_fails {m : Nat} (hm : m < 256) {s : State} (h2 : s.rd Reg.Lane.STATE m = 2) (h6 : (s.lane m).step = 6) :
    DeskewFailed m (deskewFailed s m) := by
  have hc : (laneCauses m 0x140 s).rd Reg.Lane.EVCAUSE m = (s.rd Reg.Lane.EVCAUSE m ||| 0x140) % 2 ^ Reg.Lane.EVCAUSE.width := by
    unfold laneCauses
    dsimp only
    rw [State.rd_ite, State.emit_rd, ite_self, State.rd_wr_same _ rfl _ (Lane.field_has hm rfl rfl)]
  have hb : ∀ b, b < Reg.Lane.EVCAUSE.width → (0x140 : Nat).testBit b = true → ((laneCauses m 0x140 s).rd Reg.Lane.EVCAUSE m).testBit b = true := by
    intro b hb ht
    rw [hc, Nat.testBit_mod_two_pow, Nat.testBit_or, ht, decide_eq_true hb, Bool.or_true]
    rfl
  unfold deskewFailed
  rw [if_pos ⟨h2, h6⟩]
  refine ⟨by rw [State.setLane_lane_same], hb 6 (by decide) (by decide), hb 8 (by decide) (by decide)⟩

omit hn in
theorem laneCauses_lane (n mask m : Nat) (s : State) : (laneCauses n mask s).lane m = s.lane m := by
  unfold laneCauses
  dsimp only
  split
  · exact State.wr_lane _ _ _ _ _
  · exact State.wr_lane _ _ _ _ _

omit hn in
theorem deskewFailed_other {n m : Nat} (h : n ≠ m) (s : State) : SameLane m s (deskewFailed s n) := by
  unfold deskewFailed
  split
  · refine .of_only (l := [.one .lane n, .lanes, .tokens]) (setLane_law (Only.of_law rfl) (Has.covers rfl)
      (laneCauses_law (Only.of_law rfl) (Has.covers rfl) (Covers.one (by simp)) (Frame.refl _ _))) (by simp [Covers, h.symm]) ?_
    rw [State.setLane_lane_ne _ _ _ h, laneCauses_lane]
  · exact SameLane.refl _ _

omit hn in
theorem DeskewFailed.visit {m : Nat} (hm : m < 256) {u : State} (h : DeskewFailed m u) (k : Nat) : DeskewFailed m (deskewFailed u k) := by
  by_cases hk : k = m
  · subst hk
    by_cases hc : u.rd Reg.Lane.STATE k = 2 ∧ (u.lane k).step = 6
    · exact deskewFailed_fails hm hc.1 hc.2
    · rwa [deskewFailed, if_neg hc]
  · have hs := deskewFailed_other hk u
    unfold DeskewFailed
    rw [hs.lane, hs.rd rfl (Lane.field_has hm rfl rfl)]
    exact h

theorem trainStepTimeout_deskew (h : TrainsAt n 6 s) : Does (.trainStepTimeout n) [.all .lane, .lanes, .tokens] (fun t =>
    ∀ m ∈ laneSet s n, s.rd Reg.Lane.STATE m = 2 → (s.lane m).step = 6 → DeskewFailed m t) s := by
  obtain ⟨h2, h6, hf⟩ := h
  have he : exec (.trainStepTimeout n) s = .next ((laneSet s n).foldl deskewFailed s) := by
    rw [exec_trainStepTimeout, execTrainStepTimeout, within_lt hn]
    exact (if_pos ⟨h2, by rw [h6]; decide, by rw [hf]; rfl⟩).trans (if_pos h6)
  refine Does.of_law he (execTrainStepTimeout_law (Only.of_law rfl) (Has.covers rfl) (Frame.refl _ _)) fun m hm hm2 hm6 => ?_
  have hlt := laneSet_lt hn hm
  refine foldl_reaches (f := deskewFailed) (fun u k hk => deskewFailed_other hk u) hm (fun u hu => ?_) fun u k hu => hu.visit hlt k
  exact deskewFailed_fails hlt ((hu.rd rfl (Lane.field_has hlt rfl rfl)).trans hm2) (hu.lane ▸ hm6)

end

end Sys2Proof.Machine
end

section
/-!
PROOF. Far-end taps: the next request, its answers and its repeats, and the lanes that wait for their head's downlink (R85 to R88, R142).
-/
namespace Sys2Proof.Machine

/-! ### The next request -/

/-- Far-end step k (2·tap, plus 1 upward) may be requested, as far as codes are known. -/
def MayStep (n : Nat) (s : State) (acked : Bool) (closed : Nat) (code : Nat → Nat) (k : Nat) : Prop :=
  ¬ (s.rd Reg.Lane.PIN n).testBit (2 - k / 2) = true ∧ closed.testBit k = false ∧
    (acked = true → if k % 2 = 0 then (feBounds s n (k / 2)).1 < code (k / 2) else code (k / 2) < (feBounds s n (k / 2)).2)

/-- The model's choice of a step. -/
def tapFree (s : State) (n k : Nat) : Bool := tapOpen s n k && !tapPast s n k

theorem tapFree_iff (s : State) (n k : Nat) : tapFree s n k = true ↔ MayStep n s (s.lane n).acked (s.lane n).closed (feCode s n) k := by
  have hp : tapPast s n k = false ↔ ((s.lane n).acked = true →
      if k % 2 = 0 then (feBounds s n (k / 2)).1 < feCode s n (k / 2) else feCode s n (k / 2) < (feBounds s n (k / 2)).2) := by
    unfold tapPast
    cases (s.lane n).acked
    · simp
    · split <;> simp
  have ho : tapOpen s n k = true ↔ ¬ (s.rd Reg.Lane.PIN n).testBit (2 - k / 2) = true ∧ (s.lane n).closed.testBit k = false := by
    simp [tapOpen, fePinned]
  rw [tapFree, Bool.and_eq_true, Bool.not_eq_true', ho, hp, and_assoc]
  rfl

theorem pickTap_step (s : State) (n : Nat) (ks : List Nat) (h : Nat) : (pickTap s n ks h).2 = ks.find? (tapFree s n) := by
  induction ks generalizing h with
  | nil => rfl
  | cons k ks ih =>
    unfold pickTap
    cases ho : tapOpen s n k
    · rw [if_pos (by decide), ih, List.find?_cons_of_neg (by simp [tapFree, ho])]
    · rw [if_neg (by decide)]
      cases hp : tapPast s n k
      · rw [if_neg (by decide), List.find?_cons_of_pos (by simp [tapFree, ho, hp])]
      · rw [if_pos rfl, ih, List.find?_cons_of_neg (by simp [tapFree, hp])]

/-- The six steps, the wanted one first. -/
def tapOrder (want : Nat) : List Nat := (List.range 6).map fun j => (want + j) % 6

theorem mem_tapOrder {want k : Nat} : k ∈ tapOrder want ↔ k < 6 := by
  rw [tapOrder, List.mem_map]
  constructor
  · rintro ⟨j, -, rfl⟩
    omega
  · intro h
    exact ⟨(k + 6 - want % 6) % 6, List.mem_range.mpr (by omega), by omega⟩

/-- The lane with other quantities held. -/
def Lane.heldAs (l : Lane) (h : Nat) : Lane := { l with heldQ := h }

/-- The lane at the end of its far-end training. -/
def Lane.tapsOver (l : Lane) : Lane := { l with step := 6, req := none }

/-- The next request of a lane, or the end of its far-end training. -/
def Lane.advanced (l : Lane) : Option Nat → Lane
  | some k => l.asking (if k % 2 = 1 then 0 else 1) (k / 2) []
  | none => l.tapsOver

theorem tapDone_lane_same (n : Nat) (s : State) : (tapDone n s).lane n = (s.lane n).tapsOver := State.setLane_lane_same _ _ _

theorem nextTap_lane_same (n : Nat) (s : State) :
    ∃ h, (nextTap n s).lane n = ((s.lane n).heldAs h).advanced ((tapOrder (s.lane n).want).find? (tapFree s n)) := by
  refine ⟨(pickTap s n (tapOrder (s.lane n).want) (s.lane n).heldQ).1, ?_⟩
  rw [← pickTap_step s n (tapOrder (s.lane n).want) (s.lane n).heldQ]
  unfold nextTap
  dsimp only
  change (match (pickTap s n (tapOrder (s.lane n).want) (s.lane n).heldQ).2 with
    | some k => sendTap n (if k % 2 = 1 then 0 else 1) (k / 2) [] (setHeldQ n (pickTap s n (tapOrder (s.lane n).want) (s.lane n).heldQ).1 s)
    | none => tapDone n (setHeldQ n (pickTap s n (tapOrder (s.lane n).want) (s.lane n).heldQ).1 s) : State).lane n = _
  cases (pickTap s n (tapOrder (s.lane n).want) (s.lane n).heldQ).2 with
  | some k =>
    dsimp only
    rw [sendTap_lane_same, setHeldQ_lane_same]
    rfl
  | none =>
    dsimp only
    rw [tapDone_lane_same, setHeldQ_lane_same]
    rfl

theorem nextTap_lane_ne {n m : Nat} (h : n ≠ m) (s : State) : (nextTap n s).lane m = s.lane m := by
  unfold nextTap
  dsimp only
  split
  · rw [sendTap_lane_ne h, setHeldQ_lane_ne h]
  · exact (State.setLane_lane_ne _ _ _ h).trans (setHeldQ_lane_ne h _ _)

/-- Lane n, which was as l is, has a new request out. -/
def Asks (n : Nat) (l : Lane) (action tap : Nat) (vals : List Nat) (t : State) : Prop :=
  (t.lane n).step = 5 ∧ (t.lane n).req = some { action := action, tap := tap, rseq := l.rseq, vals := vals } ∧
    (t.lane n).rseq = (l.rseq + 1) % 256 ∧ (t.lane n).reqs = l.reqs + 1

/-- It requests one of the steps that it may request, and with none its far-end training is over. -/
def GoesOn (n : Nat) (l : Lane) (ok : Nat → Prop) (t : State) : Prop :=
  ((∀ k, k < 6 → ¬ ok k) → (t.lane n).step = 6 ∧ (t.lane n).req = none) ∧
    ((∃ k, k < 6 ∧ ok k) → ∃ k, k < 6 ∧ ok k ∧ Asks n l (if k % 2 = 1 then 0 else 1) (k / 2) [] t)

theorem nextTap_goesOn {n : Nat} {s : State} {ok : Nat → Prop} (h5 : (s.lane n).step = 5) (hok : ∀ k, tapFree s n k = true ↔ ok k) :
    GoesOn n (s.lane n) ok (nextTap n s) := by
  obtain ⟨h, hl⟩ := nextTap_lane_same n s
  unfold GoesOn Asks
  rw [hl]
  cases hf : (tapOrder (s.lane n).want).find? (tapFree s n) with
  | none =>
    refine ⟨fun _ => ⟨rfl, rfl⟩, fun ⟨k, hk, hp⟩ => ?_⟩
    exact absurd ((hok k).mpr hp) (List.find?_eq_none.mp hf k (mem_tapOrder.mpr hk))
  | some k =>
    have hk : k < 6 := mem_tapOrder.mp (List.mem_of_find?_eq_some hf)
    have hp : ok k := (hok k).mp (List.find?_some hf)
    exact ⟨fun hn => absurd hp (hn k hk), fun _ => ⟨k, hk, hp, h5, rfl, rfl, rfl⟩⟩

/-- What the camera has told stays as a request goes out. -/
theorem nextTap_told (n : Nat) (s : State) : ((nextTap n s).lane n).acked = (s.lane n).acked ∧
    ((nextTap n s).lane n).stale = (s.lane n).stale ∧ ((nextTap n s).lane n).closed = (s.lane n).closed := by
  obtain ⟨h, hl⟩ := nextTap_lane_same n s
  rw [hl]
  cases (tapOrder (s.lane n).want).find? (tapFree s n) <;> exact ⟨rfl, rfl, rfl⟩

/-! ### The first request -/

/-- Step 5 may begin with the PRESET. -/
abbrev Presets (n : Nat) (s : State) : Prop :=
  s.rd Reg.Lane.STARTEN n ≠ 0 ∧ ((s.lane n).acked = true ∨ ∀ q, q < 3 → ¬ (s.rd Reg.Lane.PIN n).testBit q = true)

theorem anyPinned_iff (n : Nat) (s : State) : (List.range 3).any (fePinned s n) = false ↔ ∀ q, q < 3 → ¬ (s.rd Reg.Lane.PIN n).testBit q = true := by
  rw [List.any_eq_false]
  constructor
  · intro h q hq
    have hp := h (2 - q) (List.mem_range.mpr (by omega))
    rwa [fePinned, show 2 - (2 - q) = q by omega] at hp
  · intro h q hq
    exact h (2 - q) (by omega)

theorem presets_iff (n : Nat) (s : State) :
    (s.on Reg.Lane.STARTEN n && ((s.lane n).acked || !(List.range 3).any (fePinned s n))) = true ↔ Presets n s := by
  rw [Bool.and_eq_true, Bool.or_eq_true, Bool.not_eq_true', anyPinned_iff, State.on, bne_iff_ne]

theorem startTaps_presets {n : Nat} {s : State} (h5 : (s.lane n).step = 5) (h : Presets n s) :
    Asks n (s.lane n) 2 0 ((List.range 3).map (presetVal s n)) (startTaps n s) := by
  unfold startTaps
  rw [if_pos ((presets_iff n s).mpr h)]
  unfold Asks
  dsimp only
  rw [sendTap_lane_same, setHeldQ_lane_same]
  exact ⟨h5, rfl, rfl, rfl⟩

theorem startTaps_steps {n : Nat} {s : State} (h : s.rd Reg.Lane.STARTEN n = 0) : startTaps n s = nextTap n s :=
  if_neg fun hp => ((presets_iff n s).mp hp).1 h

theorem startTaps_lane_ne {n m : Nat} (h : n ≠ m) (s : State) : (startTaps n s).lane m = s.lane m := by
  unfold startTaps
  dsimp only
  rw [State.ite_lane, sendTap_lane_ne h, setHeldQ_lane_ne h, nextTap_lane_ne h, ite_self]

theorem startTaps_other {n m : Nat} (h : n ≠ m) (s : State) : SameLane m s (startTaps n s) :=
  .of_only (l := [.one .lane n, .lanes, .heads, .tokens]) (startTaps_law (Only.of_law rfl) (Has.covers rfl) (Covers.one (by simp)) (Frame.refl _ _))
    (by simp [Covers, h.symm]) (startTaps_lane_ne h s)

/-! ### SIGNAL_DETECT -/

/-- A lane that does not wait in step 5 is not woken. -/
theorem wakeTaps_other {m : Nat} (h : Nat) {s : State} (h5 : (s.lane m).step ≠ 5) : SameLane m s (wakeTaps h s) := by
  unfold wakeTaps
  split
  · refine List.foldlRecOn _ _ (SameLane.refl m s) fun u hu n _ => ?_
    dsimp only
    split
    · next hw =>
      obtain ⟨-, hw, -⟩ := hw
      refine hu.trans (startTaps_other (fun hnm => h5 ?_) u)
      rw [← hu.lane, ← hnm, hw]
    · exact hu
  · exact SameLane.refl _ _

theorem wakeTapsOf_other {m : Nat} (n : Nat) {s : State} (h5 : (s.lane m).step ≠ 5) : SameLane m s (wakeTapsOf n s) := by
  unfold wakeTapsOf
  split
  · exact wakeTaps_other _ h5
  · exact SameLane.refl _ _

section
variable {n : Nat} (hn : n < 256) {s : State}
include hn

theorem Adapts.same {code : Nat} {t u : State} (h : Adapts n code s t) (k : SameLane n t u) : Adapts n code s u := by
  unfold Adapts
  rw [k.lane, k.rd rfl (Lane.field_has hn rfl rfl), k.rd rfl (Lane.field_has hn rfl rfl)]
  exact h

omit hn in
theorem signalled_iff (n : Nat) (s : State) :
    (s.laneState n = lsTRAINING ∧ ((s.lane n).step = 1 ∨ (s.lane n).step = 2) ∧ (!(s.lane n).failed) = true) ↔ TrainsAt n 1 s ∨ TrainsAt n 2 s := by
  rw [← trainsAt_iff, ← trainsAt_iff]
  tauto

theorem signalDetect_steps (code : Nat) (h : TrainsAt n 1 s ∨ TrainsAt n 2 s) :
    Does (.signalDetect n code) [.all .lane, .lanes, .heads, .tokens] (fun t => (t.lane n).step = 3 ∧ Adapts n code s t) s := by
  have he : exec (.signalDetect n code) s = .next (wakeTapsOf n (adaptC n code (s.setLane n { s.lane n with step := 3 }))) := by
    rw [exec_signalDetect, execSignalDetect, within_lt hn]
    exact if_pos ((signalled_iff n s).mpr h)
  have h3 : ((adaptC n code (s.setLane n { s.lane n with step := 3 })).lane n).step = 3 := by
    rw [adaptC_lane_same, State.setLane_lane_same]
    rfl
  have hw := wakeTapsOf_other n (m := n) (s := adaptC n code (s.setLane n { s.lane n with step := 3 })) (by omega)
  refine Does.of_law he (execSignalDetect_law (Only.of_law rfl) (Has.covers rfl) (Frame.refl _ _)) ⟨hw.lane ▸ h3, ?_⟩
  exact Adapts.same (s := s) hn (adaptC_adapts hn code (s.setLane n { s.lane n with step := 3 })) hw

theorem signalDetect_idle (code : Nat) (h : ¬ (TrainsAt n 1 s ∨ TrainsAt n 2 s)) : exec (.signalDetect n code) s = .next s := by
  rw [exec_signalDetect, execSignalDetect, within_lt hn]
  exact if_neg fun hs => h ((signalled_iff n s).mp hs)

/-! ### TAPACK_RECEIVE -/

/-- The TAPACK answers the lane's request. -/
def Answers (n hlane rseq : Nat) (s : State) : Prop := ∃ r, (s.lane n).req = some r ∧ r.rseq = rseq ∧ hlane = lanePos s n

/-- The requests in a row without a gain. -/
def staleNow (better : Bool) (l : Lane) : Nat := if better then 0 else l.stale + 1

variable (pre main post : TapAnswer) (better : Bool) (want : Nat)

/-- The camera's codes and the directions that it closes. -/
def tapAnswered (n : Nat) (pre main post : TapAnswer) (better : Bool) (want : Nat) (s : State) : State :=
  (s.wrAll n [(Reg.Lane.FEPRE, pre.code), (Reg.Lane.FEMAIN, main.code), (Reg.Lane.FEPOST, post.code)]).setLane n
    { s.lane n with acked := true, closed := closeDirs (s.lane n).closed pre.result main.result post.result, req := none,
                    stale := staleNow better (s.lane n), want := want }

/-- The answer ends the far-end training, or the next request goes out. -/
def afterAnswer (n : Nat) (pre main post : TapAnswer) (better : Bool) (want : Nat) (s : State) : State :=
  if 16 ≤ staleNow better (s.lane n) ∨ 256 ≤ (s.lane n).reqs then tapDone n (tapAnswered n pre main post better want s)
  else nextTap n (tapAnswered n pre main post better want s)

theorem exec_tapackReceive_answers {hlane rseq : Nat} (h5 : TrainsAt n 5 s) (h : Answers n hlane rseq s) :
    exec (.tapackReceive n hlane rseq pre main post better want) s = .next (afterAnswer n pre main post better want s) := by
  obtain ⟨r, hr, hq, hp⟩ := h
  obtain ⟨h2, h5, hf⟩ := h5
  rw [exec_tapackReceive, execTapackReceive, within_lt hn]
  dsimp only
  refine if_pos ⟨h2, h5, by rw [hf]; rfl, ?_⟩
  rw [hr]
  simp [hq, hp]

theorem tapackReceive_idle {hlane rseq : Nat} (h : ¬ (TrainsAt n 5 s ∧ Answers n hlane rseq s)) :
    exec (.tapackReceive n hlane rseq pre main post better want) s = .next s := by
  rw [exec_tapackReceive, execTapackReceive, within_lt hn]
  dsimp only
  refine if_neg fun ⟨h2, h5, hf, hm⟩ => h ⟨(trainsAt_iff n 5 s).mp ⟨h2, h5, hf⟩, ?_⟩
  cases hr : (s.lane n).req with
  | none => rw [hr] at hm; cases hm
  | some r =>
    rw [hr] at hm
    obtain ⟨hq, hp⟩ := Bool.and_eq_true_iff.mp hm
    exact ⟨r, hr, beq_iff_eq.mp hq, beq_iff_eq.mp hp⟩

/-- The camera's code of tap q, as its field holds it. -/
def answerCode (pre main post : TapAnswer) (q : Nat) : Nat :=
  match q with
  | 0 => pre.code % 2 ^ Reg.Lane.FEPRE.width
  | 1 => main.code % 2 ^ Reg.Lane.FEMAIN.width
  | _ => post.code % 2 ^ Reg.Lane.FEPOST.width

theorem tapAnswered_codes : let t := tapAnswered n pre main post better want s
    t.rd Reg.Lane.FEPRE n = answerCode pre main post 0 ∧ t.rd Reg.Lane.FEMAIN n = answerCode pre main post 1 ∧
      t.rd Reg.Lane.FEPOST n = answerCode pre main post 2 := by
  have hi : ∀ {f : Field}, f.n1 = 256 → f.n2 = 1 → f.has n 0 = true := Lane.field_has hn
  refine ⟨State.rd_wrAll_head _ _ _ _ rfl (hi rfl rfl) rfl, ?_, ?_⟩
  · exact State.rd_wrAll_head (s.wr Reg.Lane.FEPRE n pre.code) n _ [(Reg.Lane.FEPOST, post.code)] rfl (hi rfl rfl) rfl
  · exact State.rd_wrAll_head ((s.wr Reg.Lane.FEPRE n pre.code).wr Reg.Lane.FEMAIN n main.code) n _ [] rfl (hi rfl rfl) rfl

theorem tapAnswered_feCode (q : Nat) : feCode (tapAnswered n pre main post better want s) n q = answerCode pre main post q := by
  obtain ⟨h0, h1, h2⟩ := tapAnswered_codes (s := s) hn pre main post better want
  match q with
  | 0 => exact h0
  | 1 => exact h1
  | _ + 2 => exact h2

/-- The fields of far-end training that software sets. -/
def feSetFields : List Field := [Reg.Lane.PIN, Reg.Lane.FEPREMIN, Reg.Lane.FEPREMAX, Reg.Lane.FEMAINMIN, Reg.Lane.FEMAINMAX, Reg.Lane.FEPOSTMIN, Reg.Lane.FEPOSTMAX]

omit hn in
theorem feBounds_same {t : State} (h : ∀ f ∈ feSetFields, t.rd f n = s.rd f n) (q : Nat) : feBounds t n q = feBounds s n q := by
  match q with
  | 0 => exact Prod.ext (h _ (by simp [feSetFields])) (h _ (by simp [feSetFields]))
  | 1 => exact Prod.ext (h _ (by simp [feSetFields])) (h _ (by simp [feSetFields]))
  | _ + 2 => exact Prod.ext (h _ (by simp [feSetFields])) (h _ (by simp [feSetFields]))

omit hn in
theorem mayStep_same {t : State} (h : ∀ f ∈ feSetFields, t.rd f n = s.rd f n) {acked : Bool} {closed k : Nat} {code : Nat → Nat} :
    MayStep n t acked closed code k ↔ MayStep n s acked closed code k := by
  unfold MayStep
  rw [feBounds_same h, h Reg.Lane.PIN (by simp [feSetFields])]

/-- What leaves the fields of a list apart leaves them to a lane. -/
theorem Moves.lane_rd {l fs : List Field} {t : State} (h : Moves l s t)
    (hf : (fs.all fun f => f.n1 == 256 && f.n2 == 1 && l.all fun g => g.apart f) = true) : ∀ f ∈ fs, t.rd f n = s.rd f n := by
  intro f hm
  have hs := List.all_eq_true.mp hf f hm
  simp only [Bool.and_eq_true, beq_iff_eq] at hs
  obtain ⟨⟨h1, h2⟩, ha⟩ := hs
  exact h.rd ha (Lane.field_has hn h1 h2)

theorem tapAnswered_free (k : Nat) : tapFree (tapAnswered n pre main post better want s) n k = true ↔
    MayStep n s true (closeDirs (s.lane n).closed pre.result main.result post.result) (answerCode pre main post) k := by
  have hm : Moves [Reg.Lane.FEPRE, Reg.Lane.FEMAIN, Reg.Lane.FEPOST] s (tapAnswered n pre main post better want s) := (Moves.of_wrAll _ _ _).setLane _ _
  have hc : feCode (tapAnswered n pre main post better want s) n = answerCode pre main post := funext (tapAnswered_feCode hn pre main post better want)
  rw [tapFree_iff, mayStep_same (hm.lane_rd hn rfl), hc, tapAnswered, State.setLane_lane_same]

omit hn in
theorem afterAnswer_moves : Moves heldFields (tapAnswered n pre main post better want s) (afterAnswer n pre main post better want s) :=
  Moves.ite (fun _ => Moves.of_regs rfl) fun _ => nextTap_moves _ _

omit hn in
theorem afterAnswer_told : let t := afterAnswer n pre main post better want s
    (t.lane n).acked = true ∧ (t.lane n).stale = staleNow better (s.lane n) ∧
      (t.lane n).closed = closeDirs (s.lane n).closed pre.result main.result post.result := by
  unfold afterAnswer
  dsimp only
  split
  · rw [tapDone_lane_same, tapAnswered, State.setLane_lane_same]
    exact ⟨rfl, rfl, rfl⟩
  · obtain ⟨ha, hs, hc⟩ := nextTap_told n (tapAnswered n pre main post better want s)
    rw [ha, hs, hc, tapAnswered, State.setLane_lane_same]
    exact ⟨rfl, rfl, rfl⟩

omit hn in
theorem afterAnswer_over (h : 16 ≤ staleNow better (s.lane n) ∨ 256 ≤ (s.lane n).reqs) :
    ((afterAnswer n pre main post better want s).lane n).step = 6 ∧ ((afterAnswer n pre main post better want s).lane n).req = none := by
  rw [afterAnswer, if_pos h, tapDone_lane_same]
  exact ⟨rfl, rfl⟩

theorem afterAnswer_goesOn (h5 : (s.lane n).step = 5) (hs : staleNow better (s.lane n) < 16) (hr : (s.lane n).reqs < 256) :
    GoesOn n (s.lane n) (MayStep n s true (closeDirs (s.lane n).closed pre.result main.result post.result) (answerCode pre main post))
      (afterAnswer n pre main post better want s) := by
  have hl : (tapAnswered n pre main post better want s).lane n = _ := State.setLane_lane_same _ _ _
  have hg := nextTap_goesOn (n := n) (s := tapAnswered n pre main post better want s) (by rw [hl]; exact h5) (tapAnswered_free hn pre main post better want)
  rw [hl] at hg
  rw [afterAnswer, if_neg (by omega)]
  exact hg

theorem tapackReceive_does {hlane rseq : Nat} (h5 : TrainsAt n 5 s) (h : Answers n hlane rseq s) :
    Does (.tapackReceive n hlane rseq pre main post better want) [.one .lane n, .lanes, .heads, .tokens] (fun t =>
      t.rd Reg.Lane.FEPRE n = answerCode pre main post 0 ∧ t.rd Reg.Lane.FEMAIN n = answerCode pre main post 1 ∧
      t.rd Reg.Lane.FEPOST n = answerCode pre main post 2 ∧ (t.lane n).acked = true ∧ (t.lane n).stale = staleNow better (s.lane n) ∧
      (t.lane n).closed = closeDirs (s.lane n).closed pre.result main.result post.result ∧
      (16 ≤ staleNow better (s.lane n) ∨ 256 ≤ (s.lane n).reqs → (t.lane n).step = 6 ∧ (t.lane n).req = none) ∧
      (staleNow better (s.lane n) < 16 → (s.lane n).reqs < 256 → GoesOn n (s.lane n)
        (MayStep n s true (closeDirs (s.lane n).closed pre.result main.result post.result) (answerCode pre main post)) t)) s := by
  have hi : ∀ {f : Field}, f.n1 = 256 → f.n2 = 1 → f.has n 0 = true := Lane.field_has hn
  have hm := afterAnswer_moves (n := n) (s := s) pre main post better want
  obtain ⟨h0, h1, h2⟩ := tapAnswered_codes (s := s) hn pre main post better want
  obtain ⟨ha, hs, hc⟩ := afterAnswer_told (n := n) (s := s) pre main post better want
  refine Does.of_law (exec_tapackReceive_answers hn pre main post better want h5 h)
    (execTapackReceive_law (Only.of_law rfl) (Has.covers rfl) (Covers.one (by simp)) (Frame.refl _ _))
    ⟨(hm.rd rfl (hi rfl rfl)).trans h0, (hm.rd rfl (hi rfl rfl)).trans h1, (hm.rd rfl (hi rfl rfl)).trans h2, ha, hs, hc,
      afterAnswer_over pre main post better want, afterAnswer_goesOn hn pre main post better want h5.2.1⟩

end

/-! ### TAPTO_EXPIRY -/

section
variable {n : Nat} (hn : n < 256) {s : State} {r : TapReq}
include hn

theorem exec_taptoExpiry_waits (h5 : TrainsAt n 5 s) (hr : (s.lane n).req = some r) : exec (.taptoExpiry n) s =
    .next (if (s.lane n).repeats < 3 then dueTap n (s.setLane n { s.lane n with repeats := (s.lane n).repeats + 1 })
      else tapDone n (s.wr Reg.Lane.FENORESP n 1)) := by
  obtain ⟨h2, h5, hf⟩ := h5
  rw [exec_taptoExpiry, execTaptoExpiry, within_lt hn]
  refine (if_pos ⟨h2, h5, by rw [hf]; rfl, by rw [hr]; rfl⟩).trans ?_
  split <;> rfl

theorem taptoExpiry_repeats (h5 : TrainsAt n 5 s) (hr : (s.lane n).req = some r) (h : (s.lane n).repeats < 3) :
    Does (.taptoExpiry n) [.lanes, .heads] (fun t => t.lane n = { s.lane n with repeats := (s.lane n).repeats + 1 } ∧
      ∀ h k, bondOf s n = some (h, k) → (t.head h).down.taps = (s.head h).down.taps ++ [r.block k]) s := by
  have hl : Only [.lanes] s (s.setLane n { s.lane n with repeats := (s.lane n).repeats + 1 }) := setLane_law (Only.of_law rfl) (Has.covers rfl) (Frame.refl _ _)
  refine ⟨_, (exec_taptoExpiry_waits hn h5 hr).trans (congrArg _ (if_pos h)), ?_, ?_, fun i k hb => ?_⟩
  · exact dueTap_law (Only.of_law rfl) (Has.covers rfl) (hl.mono (by simp [covered]))
  · rw [dueTap_lane, State.setLane_lane_same]
  · refine dueTap_taps (s := s.setLane n { s.lane n with repeats := (s.lane n).repeats + 1 }) ?_ ?_
    · rw [bondOf_only hl rfl, hb]
    · rw [State.setLane_lane_same]
      exact hr

theorem taptoExpiry_ends (h5 : TrainsAt n 5 s) (hr : (s.lane n).req = some r) (h : 3 ≤ (s.lane n).repeats) :
    Does (.taptoExpiry n) [.one .lane n, .lanes] (fun t => (t.lane n).step = 6 ∧ (t.lane n).req = none ∧ t.rd Reg.Lane.FENORESP n = 1) s := by
  refine ⟨_, (exec_taptoExpiry_waits hn h5 hr).trans (congrArg _ (if_neg (by omega))), ?_, ?_, ?_, ?_⟩
  · exact setLane_law (Only.of_law rfl) (Has.covers rfl) ((wrLane_only rfl _ _ _).mono (by simp [covered]))
  · rw [tapDone_lane_same]
    rfl
  · rw [tapDone_lane_same]
    rfl
  · exact State.rd_wr_same _ rfl _ (Lane.field_has hn rfl rfl)

theorem taptoExpiry_idle (h : ¬ TrainsAt n 5 s ∨ (s.lane n).req = none) : exec (.taptoExpiry n) s = .next s := by
  rw [exec_taptoExpiry, execTaptoExpiry, within_lt hn]
  refine if_neg fun ⟨h2, h5, hf, hr⟩ => ?_
  rcases h with h | h
  · exact h ((trainsAt_iff n 5 s).mp ⟨h2, h5, hf⟩)
  · rw [h] at hr
    cases hr

end

end Sys2Proof.Machine
end

section
/-!
PROOF. The adaptation of a lane's equaliser, in training and while it is locked (R80, R85, R86, R89, R95).
-/
namespace Sys2Proof.Machine

/-! ### The DFE taps in turn -/

/-- DFE taps 1 to k adapt to their values. -/
def adaptTaps (n : Nat) (vs : List Int) (k : Nat) (s : State) : State := (List.range k).foldl (fun s j => adaptD n (j + 1) (vs.getD j 0) s) s

theorem adaptTaps_succ (n : Nat) (vs : List Int) (k : Nat) (s : State) :
    adaptTaps n vs (k + 1) s = adaptD n (k + 1) (vs.getD k 0) (adaptTaps n vs k s) := by
  simp [adaptTaps, List.range_succ]

/-- What the DFE taps move. -/
def tapFields : List Field := dfeTaps ++ heldFields

theorem dfeTap_cons_subset {j : Nat} (hj : j < 8) : dfeTap j :: heldFields ⊆ tapFields :=
  List.cons_subset.mpr ⟨List.mem_append_left _ (dfeTap_mem hj), List.subset_append_right _ _⟩

theorem adaptTaps_moves (n : Nat) (vs : List Int) {k : Nat} (hk : k ≤ 8) (s : State) : Moves tapFields s (adaptTaps n vs k s) := by
  induction k with
  | zero => exact Moves.refl _ _
  | succ k ih =>
    rw [adaptTaps_succ]
    exact (ih (by omega)).step ((adaptD_moves (by omega) _ _ _).mono (dfeTap_cons_subset (by omega)))

theorem adaptTaps_only (n : Nat) (vs : List Int) (k : Nat) (s : State) : Only [.one .lane n, .lanes, .tokens] s (adaptTaps n vs k s) := by
  induction k with
  | zero => exact Frame.refl _ _
  | succ k ih =>
    rw [adaptTaps_succ]
    exact adaptD_law (Only.of_law rfl) (Has.covers rfl) (Covers.one (by simp)) ih

theorem adaptTaps_lane_same (n : Nat) (vs : List Int) (k : Nat) (s : State) : ∃ h, (adaptTaps n vs k s).lane n = (s.lane n).heldAs h := by
  induction k with
  | zero => exact ⟨(s.lane n).heldQ, rfl⟩
  | succ k ih =>
    obtain ⟨h, hl⟩ := ih
    rw [adaptTaps_succ, adaptD_lane_same, hl]
    split
    · exact ⟨_, rfl⟩
    · exact ⟨h, rfl⟩

theorem adaptTaps_lane_ne {n m : Nat} (hm : n ≠ m) (vs : List Int) (k : Nat) (s : State) : (adaptTaps n vs k s).lane m = s.lane m := by
  induction k with
  | zero => rfl
  | succ k ih => rw [adaptTaps_succ, adaptD_lane_ne _ _ _ hm, ih]

section
variable {n : Nat} (hn : n < 256) {s : State}
include hn

theorem dfeValue_moves {t : State} (h : Moves tapFields s t) (k : Nat) (v : Int) : dfeValue t n k v = dfeValue s n k v := by
  unfold dfeValue
  rw [h.rd (by decide) (Lane.field_has hn rfl rfl)]

/-- Each tap adapted so far has its value. -/
theorem adaptTaps_values (vs : List Int) {k : Nat} (hk : k ≤ 8) {j : Nat} (hj : j < k) :
    (adaptTaps n vs k s).rd2 Reg.Lane.DFETAP n (7 - j) = dfeValue s n (j + 1) (vs.getD j 0) := by
  induction k with
  | zero => omega
  | succ k ih =>
    rw [adaptTaps_succ]
    by_cases h : j = k
    · subst h
      rw [adaptD_tap (by omega) _ _ hn, dfeValue_moves hn (adaptTaps_moves n vs (by omega) s)]
    · rw [adaptD_tap_ne (by omega) _ _ hn (by omega) (by omega), ih (by omega) (by omega)]

/-! ### EQ_ADAPT_DONE -/

/-- The equaliser adapted to its goal. -/
def equalised (n code : Nat) (vs : List Int) (s : State) : State := adaptTaps n vs 8 (adaptC n code s)

/-- What that moves. -/
def equaliserFields : List Field := (Reg.Lane.CTLE :: heldFields) ++ tapFields

variable (code : Nat) (vs : List Int)

omit hn in
theorem equalised_moves : Moves equaliserFields s (equalised n code vs s) := (adaptC_moves _ _ _).trans (adaptTaps_moves _ _ (Nat.le_refl 8) _)

omit hn in
theorem equalised_only : Only [.one .lane n, .lanes, .tokens] s (equalised n code vs s) :=
  (adaptC_law (Only.of_law rfl) (Has.covers rfl) (Covers.one (by simp)) (Frame.refl _ _)).trans (adaptTaps_only _ _ _ _)

omit hn in
theorem equalised_lane_same : ∃ h, (equalised n code vs s).lane n = (s.lane n).heldAs h := by
  obtain ⟨h, hl⟩ := adaptTaps_lane_same n vs 8 (adaptC n code s)
  refine ⟨h, hl.trans ?_⟩
  rw [adaptC_lane_same]
  rfl

omit hn in
theorem equalised_lane_ne {m : Nat} (h : n ≠ m) : (equalised n code vs s).lane m = s.lane m := (adaptTaps_lane_ne h _ _ _).trans (adaptC_lane_ne h _ _)

theorem equalised_values : (equalised n code vs s).rd Reg.Lane.CTLE n = adaptCtle s n code ∧
    ∀ k, k < 8 → (equalised n code vs s).rd2 Reg.Lane.DFETAP n (7 - k) = dfeValue s n (k + 1) (vs.getD k 0) := by
  have hi : Reg.Lane.CTLE.has n 0 = true := Lane.field_has hn rfl rfl
  obtain ⟨hc, -, -⟩ := adaptC_adapts hn code s
  refine ⟨((adaptTaps_moves _ _ (Nat.le_refl 8) _).rd (by decide) hi).trans hc, fun k hk => ?_⟩
  refine (adaptTaps_values hn vs (Nat.le_refl 8) hk).trans ?_
  unfold dfeValue
  rw [(adaptC_moves n code s).rd rfl (Lane.field_has hn rfl rfl)]

/-- Equalised in full: the goal reached as far as the bounds let it. -/
def Equalised (n code : Nat) (vs : List Int) (s t : State) : Prop :=
  t.rd Reg.Lane.CTLE n = adaptCtle s n code ∧ ∀ k, k < 8 → t.rd2 Reg.Lane.DFETAP n (7 - k) = dfeValue s n (k + 1) (vs.getD k 0)

theorem Equalised.moves {t u : State} (h : Equalised n code vs s t) (hm : Moves heldFields t u) : Equalised n code vs s u := by
  have ha : ∀ j, j < 8 → (heldFields.all fun g => g.apart (dfeTap j)) = true := by decide
  obtain ⟨hc, hd⟩ := h
  refine ⟨(hm.rd rfl (Lane.field_has hn rfl rfl)).trans hc, fun k hk => ?_⟩
  rw [← hd k hk, dfeTap_rd (by omega), dfeTap_rd (by omega)]
  exact hm.rd (ha _ (by omega)) (dfeTap_has hn)

/-- The lane goes to step 5, with the step it wants first. -/
def atTaps (n code : Nat) (vs : List Int) (want : Nat) (s : State) : State :=
  (equalised n code vs s).setLane n { (equalised n code vs s).lane n with step := 5, want := want }

/-- The lane goes to step 6. -/
def atDeskew (n code : Nat) (vs : List Int) (s : State) : State := (equalised n code vs s).setLane n { (equalised n code vs s).lane n with step := 6 }

variable (want : Nat)

omit hn in
theorem atTaps_lane_same : ∃ h, (atTaps n code vs want s).lane n = { (s.lane n).heldAs h with step := 5, want := want } := by
  obtain ⟨h, hl⟩ := equalised_lane_same (n := n) (s := s) code vs
  refine ⟨h, (State.setLane_lane_same _ _ _).trans ?_⟩
  rw [hl]

omit hn in
/-- A downlink is up as before when its lanes have not moved over step 2. -/
theorem downUp_same {s t : State} {h : Nat} (hb : bondLanes t h = bondLanes s h) (hm : ∀ m ∈ bondLanes s h,
    t.rd Reg.Lane.TXASLEEP m = s.rd Reg.Lane.TXASLEEP m ∧ t.rd Reg.Lane.STATE m = s.rd Reg.Lane.STATE m ∧
      (2 ≤ (t.lane m).step ↔ 2 ≤ (s.lane m).step)) : downUp t h = downUp s h := by
  unfold downUp
  rw [hb]
  cases hl : bondLanes s h with
  | nil => rfl
  | cons m ms =>
    obtain ⟨ha, hs, hk⟩ := hm m (hl ▸ List.mem_cons_self)
    dsimp only
    rw [State.on, State.laneState, ha, hs, decide_eq_decide.mpr hk]
    rfl

omit hn in
theorem atTaps_downUp {h : Nat} (hh : h < 32) (h4 : (s.lane n).step = 4) : downUp (atTaps n code vs want s) h = downUp s h := by
  have ho := equalised_only (n := n) (s := s) code vs
  have hmv : Moves equaliserFields s (atTaps n code vs want s) := (equalised_moves code vs).setLane _ _
  refine downUp_same (bondLanes_only (setLane_law (Only.of_law rfl) (Has.covers rfl) ho) rfl hh) fun m hm => ?_
  have hlt := bondLanes_lt hm
  refine ⟨hmv.rd (by decide) (Lane.field_has ?_ rfl rfl), hmv.rd (by decide) (Lane.field_has ?_ rfl rfl), ?_⟩
  · exact hlt
  · exact hlt
  · by_cases hnm : n = m
    · subst hnm
      obtain ⟨h, hl⟩ := atTaps_lane_same (n := n) (s := s) code vs want
      rw [hl, h4]
      simp
    · rw [atTaps, State.setLane_lane_ne _ _ _ hnm, equalised_lane_ne code vs hnm]

theorem exec_eqAdaptDone_deskews (h4 : TrainsAt n 4 s) (h : bondOf s n = none ∨ (s.lane n).short = true) :
    exec (.eqAdaptDone n { ctle := code, dfe := vs } want) s = .next (atDeskew n code vs s) := by
  rw [exec_eqAdaptDone, execEqAdaptDone, within_lt hn]
  refine (if_pos ((trainsAt_iff n 4 s).mpr h4)).trans ?_
  cases hb : bondOf s n with
  | none => rfl
  | some p => exact if_pos (h.resolve_left (by simp [hb]))

theorem exec_eqAdaptDone_trains (h4 : TrainsAt n 4 s) {h j : Nat} (hb : bondOf s n = some (h, j)) (hs : (s.lane n).short = false) :
    exec (.eqAdaptDone n { ctle := code, dfe := vs } want) s =
      .next (if downUp s h then startTaps n (atTaps n code vs want s) else atTaps n code vs want s) := by
  rw [exec_eqAdaptDone, execEqAdaptDone, within_lt hn, ← atTaps_downUp code vs want (bondOf_some hb).1 h4.2.1]
  refine (if_pos ((trainsAt_iff n 4 s).mpr h4)).trans ?_
  dsimp only
  rw [hb]
  exact if_neg (by rw [hs]; decide)

theorem eqAdaptDone_idle (h4 : ¬ TrainsAt n 4 s) : exec (.eqAdaptDone n { ctle := code, dfe := vs } want) s = .next s := by
  rw [exec_eqAdaptDone, execEqAdaptDone, within_lt hn]
  exact if_neg fun h => h4 ((trainsAt_iff n 4 s).mp h)

/-! ### Step 5 after the equaliser -/

/-- The fields of the lane that a PRESET is made of. -/
def presetFields : List Field :=
  feSetFields ++ [Reg.Lane.FEPRE, Reg.Lane.FEMAIN, Reg.Lane.FEPOST, Reg.Lane.STARTPRE, Reg.Lane.STARTMAIN, Reg.Lane.STARTPOST, Reg.Lane.STARTEN]

theorem atTaps_presetFields : ∀ f ∈ presetFields, (atTaps n code vs want s).rd f n = s.rd f n :=
  ((equalised_moves code vs).setLane _ _).lane_rd hn (by decide)

section
omit hn
variable {t : State} (h : ∀ f ∈ presetFields, t.rd f n = s.rd f n)
include h

theorem feCode_same (q : Nat) : feCode t n q = feCode s n q := by
  match q with
  | 0 => exact h _ (by simp [presetFields])
  | 1 => exact h _ (by simp [presetFields])
  | _ + 2 => exact h _ (by simp [presetFields])

theorem feStart_same (q : Nat) : feStart t n q = feStart s n q := by
  match q with
  | 0 => exact h _ (by simp [presetFields])
  | 1 => exact h _ (by simp [presetFields])
  | _ + 2 => exact h _ (by simp [presetFields])

theorem presetVal_same (q : Nat) : presetVal t n q = presetVal s n q := by
  unfold presetVal fePinned
  rw [feBounds_same fun f hf => h f (List.mem_append_left _ hf), feCode_same h, feStart_same h, h Reg.Lane.PIN (by simp [presetFields, feSetFields])]

end

theorem atTaps_presets (h : Presets n s) : Asks n (s.lane n) 2 0 ((List.range 3).map (presetVal s n)) (startTaps n (atTaps n code vs want s)) := by
  have hf := atTaps_presetFields hn (s := s) code vs want
  obtain ⟨hq, hl⟩ := atTaps_lane_same (n := n) (s := s) code vs want
  have hp : Presets n (atTaps n code vs want s) := by
    unfold Presets
    rw [hf _ (by simp [presetFields]), hf Reg.Lane.PIN (by simp [presetFields, feSetFields]), hl]
    exact h
  have ha := startTaps_presets (by rw [hl]) hp
  rw [hl, funext (presetVal_same hf)] at ha
  exact ha

theorem atTaps_goesOn (h : s.rd Reg.Lane.STARTEN n = 0) :
    GoesOn n (s.lane n) (MayStep n s (s.lane n).acked (s.lane n).closed (feCode s n)) (startTaps n (atTaps n code vs want s)) := by
  have hf := atTaps_presetFields hn (s := s) code vs want
  obtain ⟨hq, hl⟩ := atTaps_lane_same (n := n) (s := s) code vs want
  have hok : ∀ k, tapFree (atTaps n code vs want s) n k = true ↔ MayStep n s (s.lane n).acked (s.lane n).closed (feCode s n) k := by
    intro k
    rw [tapFree_iff, mayStep_same fun f hm => hf f (List.mem_append_left _ hm), funext (feCode_same hf), hl]
    rfl
  have hg := nextTap_goesOn (by rw [hl]) hok
  rw [hl] at hg
  rw [startTaps_steps ((hf _ (by simp [presetFields])).trans h)]
  exact hg

omit hn in
theorem atTaps_waits : ((atTaps n code vs want s).lane n).step = 5 ∧ ((atTaps n code vs want s).lane n).req = (s.lane n).req ∧
    ((atTaps n code vs want s).lane n).want = want := by
  obtain ⟨hq, hl⟩ := atTaps_lane_same (n := n) (s := s) code vs want
  rw [hl]
  exact ⟨rfl, rfl, rfl⟩

/-- How step 5 begins, for a lane whose head's downlink is up or not. -/
def TapsBegin (n want : Nat) (up : Bool) (s t : State) : Prop :=
  (up = false → (t.lane n).step = 5 ∧ (t.lane n).req = (s.lane n).req ∧ (t.lane n).want = want) ∧
    (up = true → s.rd Reg.Lane.STARTEN n ≠ 0 → (s.lane n).acked = true ∨ (∀ q, q < 3 → ¬ (s.rd Reg.Lane.PIN n).testBit q = true) →
      Asks n (s.lane n) 2 0 ((List.range 3).map (presetVal s n)) t) ∧
    (up = true → s.rd Reg.Lane.STARTEN n = 0 → GoesOn n (s.lane n) (MayStep n s (s.lane n).acked (s.lane n).closed (feCode s n)) t)

theorem atTaps_begins (up : Bool) :
    TapsBegin n want up s (if up then startTaps n (atTaps n code vs want s) else atTaps n code vs want s) := by
  cases up with
  | false => exact ⟨fun _ => atTaps_waits code vs want, fun h => (by cases h), fun h => (by cases h)⟩
  | true => exact ⟨fun h => (by cases h), fun _ he hp => atTaps_presets hn code vs want ⟨he, hp⟩, fun _ he => atTaps_goesOn hn code vs want he⟩

theorem eqAdaptDone_does (h4 : TrainsAt n 4 s) : Does (.eqAdaptDone n { ctle := code, dfe := vs } want) [.one .lane n, .lanes, .heads, .tokens] (fun t =>
    t.rd Reg.Lane.CTLE n = adaptCtle s n code ∧ (∀ k, k < 8 → t.rd2 Reg.Lane.DFETAP n (7 - k) = dfeValue s n (k + 1) (vs.getD k 0)) ∧
      (bondOf s n = none ∨ (s.lane n).short = true → (t.lane n).step = 6) ∧
      ∀ h j, bondOf s n = some (h, j) → (s.lane n).short = false → TapsBegin n want (downUp s h) s t) s := by
  have hl : outAll (Only [.one .lane n, .lanes, .heads, .tokens] s) (exec (.eqAdaptDone n { ctle := code, dfe := vs } want) s) :=
    execEqAdaptDone_law (Only.of_law rfl) (Has.covers rfl) (Covers.one (by simp)) (Frame.refl _ _)
  have heq : Equalised n code vs s (equalised n code vs s) := equalised_values hn code vs
  by_cases hd : bondOf s n = none ∨ (s.lane n).short = true
  · obtain ⟨hc, ht⟩ := heq
    refine Does.of_law (exec_eqAdaptDone_deskews hn code vs want h4 hd) hl ⟨hc, ht, fun _ => ?_, fun h j hb hs => ?_⟩
    · rw [atDeskew, State.setLane_lane_same]
    · exact (hd.elim (fun hn => by simp [hn] at hb) fun hs' => by simp [hs'] at hs)
  · rw [not_or, Bool.not_eq_true] at hd
    obtain ⟨hb, hs⟩ := hd
    obtain ⟨⟨h, j⟩, hb⟩ := Option.ne_none_iff_exists'.mp hb
    have hmv : Moves heldFields (equalised n code vs s) (if downUp s h then startTaps n (atTaps n code vs want s) else atTaps n code vs want s) :=
      Moves.ite (fun _ => (Moves.of_regs rfl).step (startTaps_moves _ (atTaps n code vs want s))) fun _ => Moves.of_regs rfl
    obtain ⟨hc, ht⟩ := heq.moves hn code vs hmv
    refine Does.of_law (exec_eqAdaptDone_trains hn code vs want h4 hb hs) hl ⟨hc, ht, fun hd => ?_, fun h' j' hb' _ => ?_⟩
    · exact hd.elim (fun hn => by simp [hn] at hb) fun hs' => by simp [hs'] at hs
    · obtain ⟨rfl, rfl⟩ := Prod.mk.inj (Option.some.inj (hb.symm.trans hb'))
      exact atTaps_begins hn code vs want _

end

/-! ### EQ_BOUND_HOLD -/

section
variable {n : Nat} (hn : n < 256) {s : State} (v : Int)
include hn

theorem exec_eqBoundHold_locked (h3 : s.rd Reg.Lane.STATE n = 3) {q : Nat} (hq : q ≤ 8) :
    exec (.eqBoundHold n q v) s = .next (if q = 0 then adaptC n v.toNat s else adaptD n q v s) := by
  rw [exec_eqBoundHold, execEqBoundHold, within_lt hn]
  exact if_pos ⟨h3, hq⟩

theorem eqBoundHold_ctle {q : Nat} (h3 : s.rd Reg.Lane.STATE n = 3) (hq : q = 0) :
    Does (.eqBoundHold n q v) [.one .lane n, .lanes, .tokens] (Adapts n v.toNat s) s := by
  refine Does.of_law ((exec_eqBoundHold_locked hn v h3 (by omega)).trans (congrArg _ (if_pos hq)))
    (execEqBoundHold_law (Only.of_law rfl) (Has.covers rfl) (Covers.one (by simp)) (Frame.refl _ _)) (adaptC_adapts hn _ s)

theorem eqBoundHold_dfe {q : Nat} (h3 : s.rd Reg.Lane.STATE n = 3) (h1 : 1 ≤ q) (h8 : q ≤ 8) :
    Does (.eqBoundHold n q v) [.one .lane n, .lanes, .tokens] (fun t => t.rd2 Reg.Lane.DFETAP n (8 - q) = dfeValue s n q v ∧
      (q = 1 → ((t.lane n).heldQ.testBit 1 = true ↔ s.rd Reg.Lane.DFE1MAX n < v.natAbs))) s := by
  obtain ⟨k, rfl⟩ : ∃ k, q = k + 1 := ⟨q - 1, by omega⟩
  refine Does.of_law ((exec_eqBoundHold_locked hn v h3 h8).trans (congrArg _ (if_neg (by omega))))
    (execEqBoundHold_law (Only.of_law rfl) (Has.covers rfl) (Covers.one (by simp)) (Frame.refl _ _)) ⟨?_, fun h => ?_⟩
  · rw [show 8 - (k + 1) = 7 - k by omega]
    exact adaptD_tap (by omega) v s hn
  · rw [adaptD_lane_same, if_pos h, Lane.holding, heldWith_bit, decide_eq_true_iff]

theorem eqBoundHold_idle {q : Nat} (h : s.rd Reg.Lane.STATE n ≠ 3 ∨ 8 < q) : exec (.eqBoundHold n q v) s = .next s := by
  rw [exec_eqBoundHold, execEqBoundHold, within_lt hn]
  refine if_neg fun ⟨h3, hq⟩ => ?_
  rcases h with h | h
  · exact h h3
  · omega

end

end Sys2Proof.Machine
end

section
/-!
PROOF. Training of the sensor lanes (O26).
-/
namespace Sys2Proof.Machine

/-- Settles O26: each event by the state in which it finds the lane. -/
theorem laneTraining : Obligations.LaneTraining := by
  intro n s hn
  refine ⟨laneWake_trains hn, laneWake_patterned hn, laneWake_idle hn, fun code => ⟨signalDetect_steps hn code, signalDetect_idle hn code⟩,
    blockLock_steps hn, blockLock_relocks hn, blockLock_idle hn, lockLost_does hn, lockLost_idle hn, fun k hk => lockLost_port hk s,
    relockTimeout_recovering hn, relockTimeout_resumed hn, trainStepTimeout_fails hn, trainStepTimeout_deskew hn,
    trainRetry_trains hn, trainRetry_idle hn, fun hlane rseq pre main post better want => ?answers,
    fun r => taptoExpiry_repeats hn, fun r => taptoExpiry_ends hn, taptoExpiry_idle hn,
    fun code vs want => ⟨eqAdaptDone_does hn code vs want, eqAdaptDone_idle hn code vs want⟩,
    fun q v => ⟨eqBoundHold_ctle hn v, eqBoundHold_dfe hn v, eqBoundHold_idle hn v⟩⟩
  case answers =>
    exact ⟨tapackReceive_does hn pre main post better want, tapackReceive_idle hn pre main post better want⟩

end Sys2Proof.Machine
end

section
/-!
SUPPORT. What heads and TES keep beside their blocks under writes of registers, and commands that only count (R119, R136).
-/
namespace Sys2Proof.Machine

-- One proof after the other: in one text with all that stands before, each proof in flight holds a stack of its own.
set_option deprecated.oldSectionVars true

section
variable (s : State) (f : Field) (i v h : Nat)

@[simp] theorem State.wr_head : (s.wr f i v).head h = s.head h := by
  unfold State.head
  rw [State.wr_heads]

@[simp] theorem State.sat_head : (s.sat f i v).head h = s.head h := State.wr_head _ _ _ _ _

@[simp] theorem State.wr_tesOf : (s.wr f i v).tesOf h = s.tesOf h := by
  unfold State.tesOf
  rw [State.wr_tes]

@[simp] theorem State.sat_tesOf : (s.sat f i v).tesOf h = s.tesOf h := State.wr_tesOf _ _ _ _ _

end

theorem Only.head {l : List Part} {s t : State} (h : Only l s t) (hl : ¬ Covers l .heads) (n : Nat) : t.head n = s.head n := by
  unfold State.head
  rw [Frame.heads h hl]

theorem Only.tesOf {l : List Part} {s t : State} (h : Only l s t) (hl : ¬ Covers l .tes) (n : Nat) : t.tesOf n = s.tesOf n := by
  unfold State.tesOf
  rw [Frame.tes h hl]

/-- A write to the block of a head changes nothing else. -/
theorem wrHead_only {f : Field} {k : Arr} (hf : f.okAt [] k = true) (n v : Nat) (s : State) : Only [.one k n] s (s.wr f n v) :=
  (Only.of_law rfl).wrAt (B := []) (Has.covers rfl) (Covers.one (by simp)) hf (Frame.refl _ _)

/-- A field of a head's block, of its ESL block or of its TES block. -/
theorem Head.field_has {h : Nat} (hh : h < 32) {f : Field} (h1 : f.n1 = 32) (h2 : f.n2 = 1) : f.has h 0 = true := by
  simp [Field.has, h1, h2, hh]

/-- A command adds to a counter of head h and does nothing else. -/
def CountsOnly (c : Instr) (f : Field) (h k : Nat) (s : State) : Prop :=
  ∃ t, exec c s = .next t ∧ Writes [(f, h, 0, min (s.rd f h + k) (2 ^ f.width - 1))] s t ∧ Others [] s t

theorem CountsOnly.of_sat {c : Instr} {f : Field} {h k : Nat} {s : State} (he : exec c s = .next (s.sat f h k)) (hf : f.has h 0 = true) :
    CountsOnly c f h k s := ⟨_, he, (Writes.refl s).wr _ hf, Others.wr2 _ _ _ _ _ _⟩

/-- A counter has gone up by k, or to its limit. -/
def CountedBy (f : Field) (h k : Nat) (s t : State) : Prop := t.rd f h = min (s.rd f h + k) (2 ^ f.width - 1)

section
variable {f : Field} {h k : Nat} {s t u : State}

/-- The counter stands before as it stood earlier. -/
theorem CountedBy.of_rd (hc : CountedBy f h k t u) (e : t.rd f h = s.rd f h) : CountedBy f h k s u := by
  unfold CountedBy
  rw [← e]
  exact hc

/-- It stands later as it stands after. -/
theorem CountedBy.then_rd (hc : CountedBy f h k s t) (e : u.rd f h = t.rd f h) : CountedBy f h k s u := Eq.trans e hc

theorem CountedBy.of_sat (hw : f.inWord = true) (hi : f.has h 0 = true) : CountedBy f h k s (s.sat f h k) := State.rd_sat_same _ hw hi

end

end Sys2Proof.Machine
end

section
/-!
SUPPORT. What the functions of line reception make of a head: missing rows, closed triggers, a completed line, an opened one
(R155 to R164).
-/
namespace Sys2Proof.Machine

-- One proof after the other: in one text with all that stands before, each proof in flight holds a stack of its own.
set_option deprecated.oldSectionVars true

/-! ### The lines of a head -/

/-- Outstanding records, the line being received and the rows of a head. -/
def HeadState.lines (e : HeadState) : List TrigRec × Option Line × List EbRow := (e.recs, e.line, e.rows)

/-- Outstanding records, the line being received and the rows of head h are the same. -/
def SameLines (h : Nat) (s t : State) : Prop := (t.head h).lines = (s.head h).lines

namespace SameLines

variable {h : Nat} {s t u : State}

theorem of_head (e : t.head h = s.head h) : SameLines h s t := congrArg HeadState.lines e

theorem refl (h : Nat) (s : State) : SameLines h s s := rfl

theorem trans (a : SameLines h s t) (b : SameLines h t u) : SameLines h s u := Eq.trans b a

theorem recs (a : SameLines h s t) : (t.head h).recs = (s.head h).recs := congrArg Prod.fst a

theorem line (a : SameLines h s t) : (t.head h).line = (s.head h).line := congrArg (fun p => p.2.1) a

theorem rows (a : SameLines h s t) : (t.head h).rows = (s.head h).rows := congrArg (fun p => p.2.2) a

end SameLines

/-! ### GAP packets -/

section
variable {h : Nat} {s : State}

theorem sendGap_none (hg : (s.head h).gap = none) : sendGap h s = s := by
  unfold sendGap
  dsimp only
  rw [hg]

/-- The GAP packet of a run of missing rows. -/
def GapRun.packet (h : Nat) (g : GapRun) : GapPkt :=
  { stage := 5, stream := h, lseq := g.lseq, pos := g.pos, time := g.time, skind := g.skind, count := g.count, rows := g.rows }

/-- The head once its run of missing rows has been sent as a GAP packet. -/
def gapQueued (h : Nat) (g : GapRun) (s : State) : State :=
  { s.setHead h { s.head h with gap := none, gapBefore := true } with gaps := s.gaps ++ [g.packet h] }

theorem sendGap_some {g : GapRun} (hg : (s.head h).gap = some g) :
    sendGap h s = ((gapQueued h g s).evt 2 h 0x02).emit (288 + h) := by
  unfold sendGap
  dsimp only
  rw [hg]
  rfl

theorem gapQueued_head (g : GapRun) : (gapQueued h g s).head h = { s.head h with gap := none, gapBefore := true } :=
  State.setHead_head_same _ _ _

theorem sendGap_some_head {g : GapRun} (hg : (s.head h).gap = some g) :
    (sendGap h s).head h = { s.head h with gap := none, gapBefore := true } := by
  rw [sendGap_some hg]
  exact ((evt_only _ _ _ _ _).head (by simp [Covers]) h).trans (gapQueued_head g)

/-- No run of missing rows remains. -/
theorem sendGap_gap (h : Nat) (s : State) : ((sendGap h s).head h).gap = none := by
  cases hg : (s.head h).gap with
  | none => rw [sendGap_none hg, hg]
  | some g => rw [sendGap_some_head hg]

theorem sendGap_lines (h : Nat) (s : State) : SameLines h s (sendGap h s) := by
  cases hg : (s.head h).gap with
  | none => rw [sendGap_none hg]; exact SameLines.refl _ _
  | some g => rw [SameLines, sendGap_some_head hg]; rfl

theorem sendGap_only (h : Nat) (s : State) : Only [.grp 64, .gaps, .heads, .tokens] s (sendGap h s) :=
  sendGap_law (Only.of_law rfl) (Has.covers rfl) (Frame.refl _ _)

end

/-! ### Missing rows -/

/-- The parts that a missing row changes. -/
def missParts : List Part := [.grp 9, .grp 64, .gaps, .heads, .sump, .tokens]

theorem missRow_only (h skind : Nat) (r : Tag) (s : State) : Only missParts s (missRow h skind r s) :=
  missRow_law (Only.of_law rfl) (Has.covers rfl) (Frame.refl _ _)

/-- The run under way goes on with a missing row. -/
def GapRun.takes (g : GapRun) (skind lseq : Nat) : Bool := g.skind == skind && lseq == (g.lseq + g.count) % 2 ^ 40

/-- A run of missing rows of one cause ends with the row of an LSEQ. -/
def EndsWith (skind lseq : Nat) (g : GapRun) : Prop := g.skind = skind ∧ (g.lseq + g.count) % 2 ^ 40 = (lseq + 1) % 2 ^ 40

/-- The head, once a missing row has been noted and a run that it does not go on has been sent. -/
def missNoted (h skind : Nat) (r : Tag) (s : State) : State :=
  let s := (s.note h skind { r with epoch := rowEpoch (s.head h) r.pos }).evt 2 h 0x03
  if (s.head h).gap.any (·.takes skind r.lseq) then s else sendGap h s

/-- The run that a missing row starts or goes on. -/
def missRun (skind : Nat) (r : Tag) (e : HeadState) (pt : Nat) : GapRun :=
  match e.gap with
  | some g => { g with count := g.count + 1, rows := g.rows ++ [(r.pos, rowEpoch e r.pos)] }
  | none => { lseq := r.lseq, pos := r.pos, time := pt, skind := skind, count := 1, rows := [(r.pos, rowEpoch e r.pos)] }

theorem missRow_eq (h skind : Nat) (r : Tag) (s : State) : missRow h skind r s =
    let t := missNoted h skind r s
    t.setHead h { t.head h with gap := some (missRun skind r (t.head h) t.pt), epoch := rowEpoch (t.head h) r.pos } := by
  have hj : ∀ o : Option GapRun, o.any (·.takes skind r.lseq) =
      match o with | some g => g.skind == skind && r.lseq == (g.lseq + g.count) % 2 ^ 40 | none => false := fun o => by cases o <;> rfl
  unfold missRow missNoted missRun
  dsimp only
  rw [hj] <;> rfl

theorem noted_head (h skind : Nat) (r : Tag) (s : State) :
    ((s.note h skind { r with epoch := rowEpoch (s.head h) r.pos }).evt 2 h 0x03).head h = s.head h :=
  ((evt_only _ _ _ _ _).head (by simp [Covers]) h).trans ((note_only _ _ _ _).head (by simp [Covers]) h)

theorem missNoted_lines (h skind : Nat) (r : Tag) (s : State) : SameLines h s (missNoted h skind r s) := by
  have hn := SameLines.of_head (noted_head h skind r s)
  unfold missNoted
  dsimp only
  split
  · exact hn
  · exact hn.trans (sendGap_lines h _)

theorem missRow_lines (h skind : Nat) (r : Tag) (s : State) : SameLines h s (missRow h skind r s) := by
  refine (missNoted_lines h skind r s).trans ?_
  rw [missRow_eq]
  unfold SameLines
  rw [State.setHead_head_same]
  rfl

/-- What is left of a run before a missing row is none, or one that goes on with it. -/
theorem missNoted_gap (h skind : Nat) (r : Tag) (s : State) : ∀ g, ((missNoted h skind r s).head h).gap = some g → g.takes skind r.lseq = true := by
  intro g hg
  unfold missNoted at hg
  dsimp only at hg
  split at hg
  · next hj => rwa [hg] at hj
  · rw [sendGap_gap] at hg
    cases hg

theorem missRow_gap (h skind : Nat) (r : Tag) (s : State) : ∃ g, ((missRow h skind r s).head h).gap = some g ∧ EndsWith skind r.lseq g := by
  have hj := missNoted_gap h skind r s
  rw [missRow_eq]
  refine ⟨_, by rw [State.setHead_head_same], ?_⟩
  unfold missRun
  generalize (missNoted h skind r s).head h = e at hj ⊢
  cases hg : e.gap with
  | none => exact ⟨rfl, rfl⟩
  | some g =>
    have ht := hj g hg
    simp only [GapRun.takes, Bool.and_eq_true, beq_iff_eq] at ht
    obtain ⟨hk, hl⟩ := ht
    refine ⟨hk, ?_⟩
    dsimp only
    rw [hl]
    omega

/-! ### Closed triggers -/

section
variable {h : Nat} {s : State}

theorem closeOldest_none (hr : (s.head h).recs = []) : closeOldest h s = s := by
  unfold closeOldest
  rw [hr]

/-- The head, once its oldest record has closed unanswered. -/
def recClosed (h : Nat) (rs : List TrigRec) (s : State) : State := (s.setHead h { s.head h with recs := rs }).sat Reg.Head.NOLINECNT h 1

theorem recClosed_head (rs : List TrigRec) : (recClosed h rs s).head h = { s.head h with recs := rs } := by
  unfold recClosed
  rw [State.sat_head, State.setHead_head_same]

theorem closeOldest_waits {r : TrigRec} {rs : List TrigRec} (hr : (s.head h).recs = r :: rs) (hl : (s.head h).receiving = true) :
    closeOldest h s = (s.setHead h { s.head h with recs := rs, unanswered := (s.head h).unanswered ++ [r] }).sat Reg.Head.NOLINECNT h 1 := by
  unfold closeOldest
  rw [hr]
  exact if_pos hl

theorem closeOldest_misses {r : TrigRec} {rs : List TrigRec} (hr : (s.head h).recs = r :: rs) (hl : (s.head h).receiving = false) :
    closeOldest h s = missRow h 0x02 (r.tag h) (recClosed h rs s) := by
  unfold closeOldest
  rw [hr]
  exact if_neg (by simp [hl])

theorem receiving_none {e : HeadState} (hl : e.line = none) : e.receiving = false := by
  unfold HeadState.receiving
  rw [hl]

theorem closeRecs_succ (n : Nat) : closeRecs h (n + 1) s = closeRecs h n (closeOldest h s) := rfl

/-- With no line open, the n oldest records go and the rest of the head's lines stay. -/
theorem closeRecs_idle (n : Nat) (hl : (s.head h).line = none) :
    ((closeRecs h n s).head h).recs = (s.head h).recs.drop n ∧ ((closeRecs h n s).head h).line = none ∧
      ((closeRecs h n s).head h).rows = (s.head h).rows := by
  induction n generalizing s with
  | zero => exact ⟨rfl, hl, rfl⟩
  | succ n ih =>
    rw [closeRecs_succ]
    cases hr : (s.head h).recs with
    | nil =>
      rw [closeOldest_none hr, List.drop_nil]
      obtain ⟨h1, h2, h3⟩ := ih hl
      exact ⟨by rw [h1, hr, List.drop_nil], h2, h3⟩
    | cons r rs =>
      rw [closeOldest_misses hr (receiving_none hl), List.drop_succ_cons]
      have hm := missRow_lines h 2 (r.tag h) (recClosed h rs s)
      have hline : ((missRow h 2 (r.tag h) (recClosed h rs s)).head h).line = none := by rw [hm.line, recClosed_head]; exact hl
      obtain ⟨h1, h2, h3⟩ := ih hline
      exact ⟨by rw [h1, hm.recs, recClosed_head], h2, by rw [h3, hm.rows, recClosed_head]⟩

theorem decideClosed_lines (h : Nat) (s : State) : SameLines h s (decideClosed h s) := by
  unfold decideClosed
  dsimp only
  refine SameLines.trans (t := s.setHead h { s.head h with unanswered := [] }) (by rw [SameLines, State.setHead_head_same]; rfl) ?_
  exact List.foldlRecOn _ _ (SameLines.refl _ _) fun t ht r _ => ht.trans (missRow_lines _ _ _ _)

theorem decideClosed_only (h : Nat) (s : State) : Only missParts s (decideClosed h s) :=
  decideClosed_law (Only.of_law rfl) (Has.covers rfl) (Frame.refl _ _)

end

/-! ### The elastic buffer -/

theorem showFill_moves (h : Nat) (s : State) : Moves [Reg.Head.EBFILL, Reg.Head.EBPEAK] s (showFill h s) := by
  unfold showFill settleDip
  exact ((Moves.of_wr _ _ _ _).trans (Moves.of_wr _ _ _ _)).step (Moves.ite (fun _ => Moves.of_regs rfl) fun _ => Moves.refl _ _)

theorem showFill_only (h : Nat) (s : State) : Only [.one .head h, .power] s (showFill h s) :=
  showFill_law (Only.of_law rfl) (Has.covers rfl) (Covers.one (by simp)) (Frame.refl _ _)

theorem showFill_head (h n : Nat) (s : State) : (showFill h s).head n = s.head n := (showFill_only h s).head (by simp [Covers]) n

theorem stripsOf_congr {h : Nat} {s t : State} (hw : t.rd Reg.Head.HW h = s.rd Reg.Head.HW h) (hs : t.rd Reg.Head.STRIPW h = s.rd Reg.Head.STRIPW h) :
    stripsOf t h = stripsOf s h := by
  unfold stripsOf headStripW
  rw [hw, hs]

theorem stripsOf_only {h : Nat} (hh : h < 32) {l : List Part} {s t : State} (ho : Only l s t) (hw : Reg.Head.HW.off l = true) (hs : Reg.Head.STRIPW.off l = true) :
    stripsOf t h = stripsOf s h :=
  stripsOf_congr (ho.rd_off hw (Head.field_has hh rfl rfl)) (ho.rd_off hs (Head.field_has hh rfl rfl))

/-- The newest row of head h is that of a line, in its slot, with every strip to come; the rows before it are those of s. -/
def NewestRow (h : Nat) (l : Line) (s t : State) : Prop :=
  (t.head h).rows.length = (s.head h).rows.length + 1 ∧
    ∀ r, (t.head h).rows.getLast? = some r → r.tag.head = h ∧ r.tag.lseq = l.rcd.lseq ∧ r.tag.pos = l.rcd.pos ∧ r.tag.time = l.rcd.time ∧
      r.slot = l.slot.getD 0 ∧ r.todo = List.range (stripsOf s h)

theorem NewestRow.rows {h : Nat} {l : Line} {s t u : State} (hr : NewestRow h l s t) (e : (u.head h).rows = (t.head h).rows) : NewestRow h l s u := by
  unfold NewestRow
  rw [e]
  exact hr

/-- The words of a row's tag and the bytes of its payload are written. -/
theorem rowBytes_only (a b : Nat) (ws : List Word) (bs : List Byte) (s : State) : Only [.mem, .poison] s ((s.writeWords a ws).fill b bs) :=
  fill_law (Only.of_law rfl) (Has.covers rfl) ((Only.of_law rfl).writeWords (by simp [Covers]) (by simp [Covers]) (Frame.refl _ _))

theorem storeRow_only (h slot : Nat) (g : Tag) (p : Nat) (s : State) :
    Only [.grp 64, .gaps, .heads, .mem, .poison, .tokens] s (storeRow h slot g p s) :=
  storeRow_law (Only.of_law rfl) (Has.covers rfl) (Frame.refl _ _)

end Sys2Proof.Machine
end

section
/-!
SUPPORT. The completion of a line and the opening of the next one (R155, R157, R163, R164).
-/
namespace Sys2Proof.Machine

-- One proof after the other: in one text with all that stands before, each proof in flight holds a stack of its own.
set_option deprecated.oldSectionVars true

theorem tesCause_only (h b : Nat) (s : State) : Only [.one .tesHead h, .tokens] s (tesCause h b s) :=
  tesCause_law (Only.of_law rfl) (Has.covers rfl) (Covers.one (by simp)) (Frame.refl _ _)

theorem tesCause_moves (h b : Nat) (s : State) : Moves [Reg.TesHead.TCAUSE] s (tesCause h b s) := by
  unfold tesCause
  exact Moves.ite (fun _ => (Moves.of_wr _ _ _ _).step (Moves.of_regs rfl)) fun _ => Moves.of_wr _ _ _ _

/-! ### The counters of a line -/

/-- Counters of lines that end. -/
def lineCounters : List Field :=
  [Reg.Head.LENCNT, Reg.Head.SHORTCNT, Reg.Head.LONGCNT, Reg.Head.CRCCNT, Reg.Head.LATECNT, Reg.Head.LOSTCNT]

/-- What a line adds to each of them. -/
def countLine (h len short long bad late lost : Nat) (s : State) : State :=
  (((((s.sat Reg.Head.LENCNT h len).sat Reg.Head.SHORTCNT h short).sat Reg.Head.LONGCNT h long).sat Reg.Head.CRCCNT h bad).sat
    Reg.Head.LATECNT h late).sat Reg.Head.LOSTCNT h lost

section
variable (h len short long bad late lost : Nat) (s : State)

theorem countLine_head : (countLine h len short long bad late lost s).head h = s.head h := by
  simp only [countLine, State.sat_head]

theorem countLine_moves : Moves lineCounters s (countLine h len short long bad late lost s) :=
  ((((((Moves.refl [] s).sat _ _ _).sat _ _ _).sat _ _ _).sat _ _ _).sat _ _ _).sat _ _ _

variable {h} (hh : h < 32)
include hh

theorem countLine_bad : CountedBy Reg.Head.CRCCNT h bad s (countLine h len short long bad late lost s) := by
  have hi : Reg.Head.CRCCNT.has h 0 = true := Head.field_has hh rfl rfl
  unfold CountedBy countLine
  rw [((Moves.of_sat _ _ _ _).sat Reg.Head.LOSTCNT h lost).rd rfl hi, State.rd_sat_same _ rfl hi]
  exact congrArg (fun x => min (x + bad) _) (((((Moves.refl [] s).sat _ _ _).sat _ _ _).sat _ _ _).rd rfl hi)

theorem countLine_late : CountedBy Reg.Head.LATECNT h late s (countLine h len short long bad late lost s) := by
  have hi : Reg.Head.LATECNT.has h 0 = true := Head.field_has hh rfl rfl
  unfold CountedBy countLine
  rw [(Moves.of_sat _ _ _ _).rd rfl hi, State.rd_sat_same _ rfl hi]
  exact congrArg (fun x => min (x + late) _) ((((((Moves.refl [] s).sat _ _ _).sat _ _ _).sat _ _ _).sat _ _ _).rd rfl hi)

end

/-! ### The end of a line -/

/-- LINE_END with a wrong CRC or CLINE. -/
def LineEnd.bad (how : LineEnd) (l : Line) : Bool :=
  match how with
  | .done crc cline => crc != lineCrc l || cline != l.cline
  | _ => false

theorem LineEnd.bad_done_iff (crc cline : Nat) (l : Line) : (LineEnd.done crc cline).bad l = true ↔ crc ≠ lineCrc l ∨ cline ≠ l.cline := by
  simp [LineEnd.bad]

/-- The columns that a line has delivered. -/
def deliveredColumns (s : State) (h : Nat) (l : Line) : Nat := min l.len (l.blocks.length * 64 / (planesOf s h * depthBits s h))

/-- The line is closed and its errors are counted. -/
def lineEnded (h : Nat) (how : LineEnd) (l : Line) (s : State) : State :=
  let hw := s.rd Reg.Head.HW h
  let dlen := deliveredColumns s h l
  countLine h (b2n (l.len != hw)) (b2n (decide (dlen < hw))) (b2n (decide (hw < dlen)) + b2n l.extra) (b2n (how.bad l))
    (b2n (how == .late)) (b2n l.lost) (s.setHead h { s.head h with line := none })

/-- A line whose exposure set is not the intended one is counted. -/
def xsetChecked (h : Nat) (l : Line) (s : State) : State :=
  if l.echo && l.xset != l.rcd.xset then tesCause h 2 (s.sat Reg.TesHead.XMISCNT h 1) else s

/-- A TEST line is noted, and a padded one counted. -/
def rowNoted (h : Nat) (test padded : Bool) (g : Tag) (s : State) : State :=
  let s := if test then s.note h 0x03 g else s
  if padded then s.evt 2 h 0x41 else s

theorem rowNoted_only (h : Nat) (test padded : Bool) (g : Tag) (s : State) : Only [.grp 9, .grp 64, .sump] s (rowNoted h test padded g s) := by
  have hn : Only [.grp 9, .grp 64, .sump] s (if test then s.note h 0x03 g else s) := by
    split
    · exact (note_only _ _ _ _).mono rfl
    · exact Frame.refl _ _
  unfold rowNoted
  dsimp only
  split
  · exact hn.trans ((evt_only _ _ _ _ _).mono rfl)
  · exact hn

section
variable {h : Nat} {how : LineEnd} {l : Line} {s : State}

theorem completeLine_none (hl : (s.head h).line = none) : completeLine h how s = s := by
  unfold completeLine
  rw [hl]

theorem completeLine_drops (hl : (s.head h).line = some l) (hd : l.drop = true) :
    completeLine h how s = s.setHead h { s.head h with line := none } := by
  unfold completeLine
  rw [hl]
  exact if_pos hd

/-- A line that has a slot leaves a row in it. -/
theorem completeLine_stores {k : Nat} (hl : (s.head h).line = some l) (hd : l.drop = false) (hk : l.slot = some k) :
    ∃ (g m : Tag) (p : Nat) (padded : Bool),
      completeLine h how s = decideClosed h (showFill h (rowNoted h l.test padded m (storeRow h k g p (xsetChecked h l (lineEnded h how l s))))) ∧
        g.head = h ∧ g.lseq = l.rcd.lseq ∧ g.pos = l.rcd.pos ∧ g.time = l.rcd.time := by
  unfold completeLine
  rw [hl]
  dsimp only
  rw [if_neg (by simp [hd]), hk]
  exact ⟨_, _, _, _, rfl, rfl, rfl, rfl, rfl⟩

/-- A line without one leaves its row missing. -/
theorem completeLine_full (hl : (s.head h).line = some l) (hd : l.drop = false) (hk : l.slot = none) :
    ∃ g, completeLine h how s = decideClosed h (showFill h (missRow h 0x01 g (((xsetChecked h l (lineEnded h how l s)).sat Reg.Head.EBFULLCNT h 1).evt 2 h 0x42))) := by
  unfold completeLine
  rw [hl]
  dsimp only
  rw [if_neg (by simp [hd]), hk]
  exact ⟨_, rfl⟩

variable (h how l s)

theorem xsetChecked_only : Only [.one .tesHead h, .tokens] s (xsetChecked h l s) := by
  unfold xsetChecked
  split
  · exact ((wrHead_only (k := .tesHead) rfl h _ s).mono (by simp [covered])).trans (tesCause_only _ _ _)
  · exact Frame.refl _ _

theorem lineEnded_head : (lineEnded h how l s).head h = { s.head h with line := none } := by
  unfold lineEnded
  rw [countLine_head, State.setHead_head_same]

theorem lineEnded_moves : Moves lineCounters s (lineEnded h how l s) := by
  have hs : Moves lineCounters s (s.setHead h { s.head h with line := none }) := Moves.of_regs rfl
  unfold lineEnded
  exact hs.step (countLine_moves _ _ _ _ _ _ _ _)

variable {h} (hh : h < 32)
include hh

theorem lineEnded_bad : CountedBy Reg.Head.CRCCNT h (b2n (how.bad l)) s (lineEnded h how l s) := by
  unfold lineEnded
  exact (countLine_bad _ _ _ _ _ _ _ hh).of_rd (State.setHead_rd _ _ _ _ _)

theorem lineEnded_late : CountedBy Reg.Head.LATECNT h (b2n (how == .late)) s (lineEnded h how l s) := by
  unfold lineEnded
  exact (countLine_late _ _ _ _ _ _ _ hh).of_rd (State.setHead_rd _ _ _ _ _)

end

/-! ### A row enters its buffer -/

section
variable {h : Nat} (slot : Nat) (g : Tag) (p : Nat) (s : State)

/-- The head with its GAP packet sent and a new row, which follows what the tag and the geometry say. -/
theorem storeRow_head (hh : h < 32) : ∃ r : EbRow, (storeRow h slot g p s).head h =
      { (sendGap h s).head h with gapBefore := false, epoch := r.tag.epoch, rows := ((sendGap h s).head h).rows ++ [r] } ∧
    r.slot = slot ∧ r.tag.head = g.head ∧ r.tag.lseq = g.lseq ∧ r.tag.pos = g.pos ∧ r.tag.time = g.time ∧ r.todo = List.range (stripsOf s h) := by
  have hb : ∀ (a b : Nat) (ws : List Word) (bs : List Byte), (((sendGap h s).writeWords a ws).fill b bs).head h = (sendGap h s).head h :=
    fun a b ws bs => (rowBytes_only a b ws bs _).head (by simp [Covers]) h
  have hs : ∀ (a b : Nat) (ws : List Word) (bs : List Byte), stripsOf (((sendGap h s).writeWords a ws).fill b bs) h = stripsOf s h :=
    fun a b ws bs => stripsOf_only hh (((sendGap_only h s).mono (m := [.grp 64, .gaps, .heads, .tokens, .mem, .poison]) rfl).trans
      ((rowBytes_only a b ws bs _).mono rfl)) rfl rfl
  unfold storeRow
  dsimp only
  rw [(evt_only _ _ _ _ _).head (by simp [Covers]), (evt_only _ _ _ _ _).head (by simp [Covers]), (emit_only _ _ _).head (by simp [Covers]),
    State.setHead_head_same, hb, hs]
  exact ⟨_, rfl, rfl, rfl, rfl, rfl, rfl, rfl⟩

theorem storeRow_newest (hh : h < 32) {l : Line} {k : Nat} (hk : l.slot = some k) (h1 : g.head = h) (h2 : g.lseq = l.rcd.lseq) (h3 : g.pos = l.rcd.pos)
    (h4 : g.time = l.rcd.time) : NewestRow h l s (storeRow h k g p s) := by
  obtain ⟨r, he, hs, k1, k2, k3, k4, k5⟩ := storeRow_head k g p s hh
  have hr : ((storeRow h k g p s).head h).rows = (s.head h).rows ++ [r] := by rw [he, (sendGap_lines h s).rows]
  refine ⟨by rw [hr, List.length_append, List.length_singleton], fun q hq => ?_⟩
  rw [hr, List.getLast?_concat, Option.some.injEq] at hq
  subst hq
  exact ⟨k1.trans h1, k2.trans h2, k3.trans h3, k4.trans h4, by rw [hs, hk, Option.getD_some], k5⟩

theorem storeRow_line (hh : h < 32) : ((storeRow h slot g p s).head h).line = (s.head h).line ∧ ((storeRow h slot g p s).head h).recs = (s.head h).recs := by
  obtain ⟨r, he, -⟩ := storeRow_head slot g p s hh
  rw [he]
  exact ⟨(sendGap_lines h s).line, (sendGap_lines h s).recs⟩

end

/-! ### What a completed line leaves -/

/-- A line without a slot is counted. -/
def slotChecked (h : Nat) (l : Line) (s : State) : State := if l.slot.isSome then s else s.sat Reg.Head.EBFULLCNT h 1

/-- The parts that a row changes as it enters its buffer or goes missing. -/
def rowFateParts : List Part := [.grp 9, .grp 64, .gaps, .heads, .mem, .poison, .sump, .tokens]

/-- Fields of a head's block that the completion of a line does not write beside its counters. -/
def Field.offLine (f : Field) : Bool :=
  f.off missParts && f.off rowFateParts && f.off [.one .tesHead 0, .tokens] && [Reg.Head.EBFILL, Reg.Head.EBPEAK].all (·.apart f) &&
    Reg.Head.EBFULLCNT.apart f

section
variable {h : Nat} (hh : h < 32) (how : LineEnd) {l : Line} {s : State}
include hh

/-- A line that answers a trigger is counted, its row enters the buffer or is missing, and the triggers that closed meanwhile are
decided. -/
theorem completeLine_decides (hl : (s.head h).line = some l) (hd : l.drop = false) :
    ∃ u, completeLine h how s = decideClosed h (showFill h u) ∧ Only rowFateParts (slotChecked h l (xsetChecked h l (lineEnded h how l s))) u ∧
      (u.head h).line = none ∧ (u.head h).recs = (s.head h).recs := by
  have he : (xsetChecked h l (lineEnded h how l s)).head h = { s.head h with line := none } :=
    ((xsetChecked_only _ _ _).head (by simp [Covers]) h).trans (lineEnded_head _ _ _ _)
  unfold slotChecked
  cases hk : l.slot with
  | none =>
    obtain ⟨g, hg⟩ := completeLine_full (how := how) hl hd hk
    refine ⟨_, hg, ((evt_only _ _ _ _ _).mono rfl).trans ((missRow_only _ _ _ _).mono rfl), ?_⟩
    have hm := missRow_lines h 1 g (((xsetChecked h l (lineEnded h how l s)).sat Reg.Head.EBFULLCNT h 1).evt 2 h 0x42)
    rw [hm.line, hm.recs, (evt_only _ _ _ _ _).head (by simp [Covers]), State.sat_head, he]
    exact ⟨rfl, rfl⟩
  | some k =>
    obtain ⟨g, m, p, b, hg, -⟩ := completeLine_stores (how := how) hl hd hk
    refine ⟨_, hg, ((storeRow_only _ _ _ _ _).mono rfl).trans ((rowNoted_only _ _ _ _ _).mono rfl), ?_⟩
    obtain ⟨h1, h2⟩ := storeRow_line k g p (xsetChecked h l (lineEnded h how l s)) hh
    rw [(rowNoted_only _ _ _ _ _).head (by simp [Covers]), h1, h2, he]
    exact ⟨rfl, rfl⟩

/-- No line is open, and the outstanding records stay. -/
theorem completeLine_closes : ((completeLine h how s).head h).line = none ∧ ((completeLine h how s).head h).recs = (s.head h).recs := by
  cases hl : (s.head h).line with
  | none => rw [completeLine_none hl]; exact ⟨hl, rfl⟩
  | some l =>
    cases hd : l.drop with
    | true => rw [completeLine_drops hl hd, State.setHead_head_same]; exact ⟨rfl, rfl⟩
    | false =>
      obtain ⟨u, hg, -, h1, h2⟩ := completeLine_decides hh how hl hd
      have hs := (SameLines.of_head (showFill_head h h u)).trans (decideClosed_lines h _)
      rw [hg, hs.line, hs.recs]
      exact ⟨h1, h2⟩

theorem completeLine_rd (hl : (s.head h).line = some l) (hd : l.drop = false) {f : Field} (hf : f.offLine = true) (hi : f.has h 0 = true) :
    (completeLine h how s).rd f h = (lineEnded h how l s).rd f h := by
  simp only [Field.offLine, Bool.and_eq_true] at hf
  obtain ⟨⟨⟨⟨f1, f2⟩, f3⟩, f4⟩, f5⟩ := hf
  obtain ⟨u, hg, ho, -⟩ := completeLine_decides hh how hl hd
  have hc : (slotChecked h l (xsetChecked h l (lineEnded h how l s))).rd f h = (xsetChecked h l (lineEnded h how l s)).rd f h := by
    unfold slotChecked
    split
    · rfl
    · exact State.rd_wr_apart _ f5 _ hi
  rw [hg, (decideClosed_only h _).rd_off f1 hi, (showFill_moves h _).rd f4 hi, ho.rd_off f2 hi, hc]
  exact (xsetChecked_only h l _).rd_off f3 hi

/-- Fields beside its counters keep their values. -/
theorem completeLine_keeps {f : Field} (hf : f.offLine = true) (ha : (lineCounters.all fun e => e.apart f) = true) (hi : f.has h 0 = true) :
    (completeLine h how s).rd f h = s.rd f h := by
  cases hl : (s.head h).line with
  | none => rw [completeLine_none hl]
  | some l =>
    cases hd : l.drop with
    | true => rw [completeLine_drops hl hd, State.setHead_rd]
    | false => rw [completeLine_rd hh how hl hd hf hi, (lineEnded_moves h how l s).rd ha hi]

variable {k : Nat} (hl : (s.head h).line = some l) (hd : l.drop = false) (hk : l.slot = some k)
include hl hd

/-- Its errors are counted. -/
theorem completeLine_bad : CountedBy Reg.Head.CRCCNT h (b2n (how.bad l)) s (completeLine h how s) :=
  (lineEnded_bad how l s hh).then_rd (completeLine_rd hh how hl hd rfl (Head.field_has hh rfl rfl))

theorem completeLine_late : CountedBy Reg.Head.LATECNT h (b2n (how == .late)) s (completeLine h how s) :=
  (lineEnded_late how l s hh).then_rd (completeLine_rd hh how hl hd rfl (Head.field_has hh rfl rfl))

include hk

/-- Its row is the newest of the buffer. -/
theorem completeLine_row : NewestRow h l s (completeLine h how s) := by
  obtain ⟨g, m, p, b, hg, h1, h2, h3, h4⟩ := completeLine_stores (how := how) hl hd hk
  have hm := lineEnded_moves h how l s
  have hs : stripsOf (xsetChecked h l (lineEnded h how l s)) h = stripsOf s h :=
    (stripsOf_only hh (xsetChecked_only h l _) rfl rfl).trans (stripsOf_congr (hm.rd rfl (Head.field_has hh rfl rfl))
      (hm.rd rfl (Head.field_has hh rfl rfl)))
  have he : ((xsetChecked h l (lineEnded h how l s)).head h).rows = (s.head h).rows := by
    rw [(xsetChecked_only _ _ _).head (by simp [Covers]), lineEnded_head]
  have hn := storeRow_newest g p (xsetChecked h l (lineEnded h how l s)) hh hk h1 h2 h3 h4
  unfold NewestRow at hn
  rw [hs, he] at hn
  rw [hg]
  refine NewestRow.rows hn ?_
  rw [(decideClosed_lines h _).rows, showFill_head, (rowNoted_only _ _ _ _ _).head (by simp [Covers])]

end

/-! ### A line opens -/

/-- A line that has opened on a record with what its LINE_START says. -/
def Opened (r : TrigRec) (xset len cline : Nat) (echo test differ : Bool) (l : Line) : Prop :=
  l.rcd = r ∧ l.len = len ∧ l.xset = xset ∧ l.echo = echo ∧ l.test = test ∧ l.cline = cline ∧ l.blocks = [] ∧ l.drop = false ∧ l.differs = differ

section
variable {h : Nat} {s : State}

theorem openLine_opens {i : Nat} {r : TrigRec} (xset len cline : Nat) (echo test : Bool) (hl : (s.head h).line = none)
    (hr : (s.head h).recs[i]? = some r) : ∃ l, ((openLine h i xset len cline echo test s).head h).line = some l ∧
      Opened r xset len cline echo test false l ∧ ((openLine h i xset len cline echo test s).head h).recs = (s.head h).recs.drop (i + 1) ∧
      ((openLine h i xset len cline echo test s).head h).rows = (s.head h).rows := by
  obtain ⟨hi, rfl⟩ := List.getElem?_eq_some_iff.mp hr
  obtain ⟨h1, -, h3⟩ := closeRecs_idle (h := h) (s := s) i hl
  unfold openLine
  dsimp only
  rw [h1, List.drop_eq_getElem_cons hi]
  dsimp only
  rw [showFill_head, State.setHead_head_same]
  exact ⟨_, rfl, ⟨rfl, rfl, rfl, rfl, rfl, rfl, rfl, rfl, rfl⟩, rfl, h3⟩

/-- Of a head's lines only the mark that the copies of the open one differ changes. -/
theorem countDiffer_marks {l : Line} (differ : Bool) (hl : (s.head h).line = some l) :
    ((countDiffer h differ s).head h).line = some { l with differs := l.differs || differ } ∧
      ((countDiffer h differ s).head h).recs = (s.head h).recs ∧ ((countDiffer h differ s).head h).rows = (s.head h).rows := by
  unfold countDiffer
  rw [hl]
  dsimp only
  split
  · next hc =>
    rw [Bool.and_eq_true] at hc
    rw [State.setHead_head_same, hc.1, Bool.or_true]
    exact ⟨rfl, rfl, rfl⟩
  · next hc =>
    have hd : (l.differs || differ) = l.differs := by
      cases hx : l.differs <;> cases differ <;> simp_all
    rw [hd]
    exact ⟨hl, rfl, rfl⟩

theorem countDiffer_only (h : Nat) (differ : Bool) (s : State) : Only [.one .eslHead h, .heads] s (countDiffer h differ s) :=
  countDiffer_law (Only.of_law rfl) (Has.covers rfl) (Covers.one (by simp)) (Frame.refl _ _)

theorem joinLanes_head (h n : Nat) (s : State) : (joinLanes h s).head n = s.head n := State.wr_head _ _ _ _ _

end

end Sys2Proof.Machine
end

section
/-!
SUPPORT. LINE_START, data columns, LINE_END and the timeouts of lines, each by what it finds (R116 to R119, R155 to R160).
-/
namespace Sys2Proof.Machine

-- One proof after the other: in one text with all that stands before, each proof in flight holds a stack of its own.
set_option deprecated.oldSectionVars true

/-- The parts that a line's events change. -/
def lineParts (h : Nat) : List Part :=
  [.all .head, .one .eslHead h, .one .tesHead h, .grp 9, .grp 64, .gaps, .heads, .mem, .poison, .power, .sump, .tokens]

/-! ### LINE_START -/

/-- The open line is completed, and CLINE is followed. -/
def startNoted (h cline : Nat) (s : State) : State :=
  let t := joinLanes h (completeLine h .cutShort s)
  (t.sat Reg.Head.CLINECNT h (b2n (match (t.head h).cline with | some c => cline != (c + 1) % 8192 | none => false))).setHead h
    { t.head h with cline := some cline }

section
variable {h : Nat} (hh : h < 32) (num xset len cline : Nat) (echo test differ : Bool) {s : State}
include hh

theorem startNoted_lines : ((startNoted h cline s).head h).line = none ∧ ((startNoted h cline s).head h).recs = (s.head h).recs ∧
    ((startNoted h cline s).head h).rows = ((completeLine h .cutShort s).head h).rows := by
  obtain ⟨h1, h2⟩ := completeLine_closes hh .cutShort (s := s)
  unfold startNoted
  rw [State.setHead_head_same]
  dsimp only
  rw [joinLanes_head]
  exact ⟨h1, h2, rfl⟩

theorem startNoted_unmatched : (startNoted h cline s).rd Reg.Head.UNMATCHCNT h = s.rd Reg.Head.UNMATCHCNT h := by
  have hi : Reg.Head.UNMATCHCNT.has h 0 = true := Head.field_has hh rfl rfl
  unfold startNoted
  rw [State.setHead_rd, (Moves.of_sat _ _ _ _).rd rfl hi, joinLanes, State.rd_wr_apart _ rfl _ hi]
  exact completeLine_keeps hh _ rfl rfl hi

omit hh in
theorem lineStart_only {t : State} (he : exec (.lineStart h num xset echo test len cline differ) s = .next t) : Only (lineParts h) s t :=
  (execLineStart_law (Only.of_law rfl) (Has.covers rfl) (Covers.one (by simp [lineParts])) (Covers.one (by simp [lineParts])) (Frame.refl _ _) :
    outAll (Only (lineParts h) s) (execLineStart h num xset echo test len cline differ s)).get he

theorem lineStart_exec : exec (.lineStart h num xset echo test len cline differ) s =
    match ((startNoted h cline s).head h).recs.findIdx? (fun q => q.num == num % 65536) with
    | some i => .next (countDiffer h differ (openLine h i xset len cline echo test (startNoted h cline s)))
    | none => .next (countDiffer h differ (((startNoted h cline s).sat Reg.Head.UNMATCHCNT h 1).setHead h
        { (startNoted h cline s).head h with line := some { drop := true } })) := by
  rw [exec_lineStart]
  unfold execLineStart
  rw [within_lt hh]
  rfl

theorem lineStart_matched {i : Nat} (hf : ((s.head h).recs.findIdx? fun q => q.num == num % 65536) = some i) :
    exec (.lineStart h num xset echo test len cline differ) s =
      .next (countDiffer h differ (openLine h i xset len cline echo test (startNoted h cline s))) := by
  rw [lineStart_exec hh, (startNoted_lines hh cline).2.1, hf]

theorem lineStart_unmatched (hf : ((s.head h).recs.findIdx? fun q => q.num == num % 65536) = none) :
    exec (.lineStart h num xset echo test len cline differ) s =
      .next (countDiffer h differ (((startNoted h cline s).sat Reg.Head.UNMATCHCNT h 1).setHead h
        { (startNoted h cline s).head h with line := some { drop := true } })) := by
  rw [lineStart_exec hh, (startNoted_lines hh cline).2.1, hf]

theorem lineStart_opens {i : Nat} {r : TrigRec} (hf : ((s.head h).recs.findIdx? fun q => q.num == num % 65536) = some i)
    (hr : (s.head h).recs[i]? = some r) : Does (.lineStart h num xset echo test len cline differ) (lineParts h) (fun t =>
      (t.head h).recs = (s.head h).recs.drop (i + 1) ∧ ∃ l, (t.head h).line = some l ∧ Opened r xset len cline echo test differ l) s := by
  have he := lineStart_matched hh num xset len cline echo test differ hf
  refine ⟨_, he, lineStart_only num xset len cline echo test differ he, ?_⟩
  obtain ⟨k1, k2, -⟩ := startNoted_lines hh cline (s := s)
  rw [← k2] at hr
  obtain ⟨l, h1, h2, h3, -⟩ := openLine_opens xset len cline echo test k1 hr
  obtain ⟨m1, m2, -⟩ := countDiffer_marks differ h1
  refine ⟨by rw [m2, h3, k2], _, m1, ?_⟩
  obtain ⟨a1, a2, a3, a4, a5, a6, a7, a8, a9⟩ := h2
  exact ⟨a1, a2, a3, a4, a5, a6, a7, a8, by dsimp only; rw [a9, Bool.false_or]⟩

theorem lineStart_drops (hf : ((s.head h).recs.findIdx? fun q => q.num == num % 65536) = none) :
    Does (.lineStart h num xset echo test len cline differ) (lineParts h) (fun t => (t.head h).recs = (s.head h).recs ∧
      (∃ l, (t.head h).line = some l ∧ l.drop = true) ∧ CountedBy Reg.Head.UNMATCHCNT h 1 s t) s := by
  have hi : Reg.Head.UNMATCHCNT.has h 0 = true := Head.field_has hh rfl rfl
  have he := lineStart_unmatched hh num xset len cline echo test differ hf
  refine ⟨_, he, lineStart_only num xset len cline echo test differ he, ?_⟩
  obtain ⟨-, k2, -⟩ := startNoted_lines hh cline (s := s)
  obtain ⟨m1, m2, -⟩ := countDiffer_marks (s := ((startNoted h cline s).sat Reg.Head.UNMATCHCNT h 1).setHead h
    { (startNoted h cline s).head h with line := some { drop := true } }) differ (by rw [State.setHead_head_same])
  refine ⟨by rw [m2, State.setHead_head_same]; exact k2, ⟨_, m1, rfl⟩, ?_⟩
  refine ((CountedBy.of_sat rfl hi).of_rd (startNoted_unmatched hh cline)).then_rd ?_
  rw [(countDiffer_only h differ _).rd_off rfl hi, State.setHead_rd]

/-- Whether the new line answers a trigger or not, the row of the line that was open is the newest. -/
theorem lineStart_row {l : Line} {k : Nat} (hl : (s.head h).line = some l) (hd : l.drop = false) (hk : l.slot = some k) :
    Does (.lineStart h num xset echo test len cline differ) (lineParts h) (NewestRow h l s) s := by
  have hrow := completeLine_row hh .cutShort hl hd hk
  obtain ⟨k1, k2, k3⟩ := startNoted_lines hh cline (s := s)
  cases hf : (s.head h).recs.findIdx? fun q => q.num == num % 65536 with
  | some i =>
    have he := lineStart_matched hh num xset len cline echo test differ hf
    refine ⟨_, he, lineStart_only num xset len cline echo test differ he, hrow.rows ?_⟩
    have hi : i < ((startNoted h cline s).head h).recs.length := by
      rw [k2]
      exact (List.findIdx?_eq_some_iff_getElem.mp hf).1
    obtain ⟨l', h1, -, -, h4⟩ := openLine_opens xset len cline echo test k1 (List.getElem?_eq_getElem hi)
    rw [(countDiffer_marks differ h1).2.2, h4, k3]
  | none =>
    have he := lineStart_unmatched hh num xset len cline echo test differ hf
    refine ⟨_, he, lineStart_only num xset len cline echo test differ he, hrow.rows ?_⟩
    rw [(countDiffer_marks differ (by rw [State.setHead_head_same])).2.2, State.setHead_head_same]
    exact k3

end

/-! ### Data columns -/

/-- Blocks that all come in on lanes of the line, while it lacks so many, join it in order. -/
theorem foldl_placeBlock {s : State} {h nb : Nat} {cols : List (Nat × Option Word)} {l : Line} (hn : l.blocks.length + cols.length ≤ nb)
    (hc : ∀ kb ∈ cols, l.lanes.testBit kb.1 = true ∧ delivers s h kb.1 = true ∧ kb.2.isSome = true) :
    cols.foldl (placeBlock s h nb) l = { l with blocks := l.blocks ++ cols.map (·.2) } := by
  induction cols generalizing l with
  | nil => rw [List.map_nil, List.append_nil]; rfl
  | cons kb cols ih =>
    obtain ⟨h1, h2, h3⟩ := hc kb (by simp)
    obtain ⟨w, hw⟩ := Option.isSome_iff_exists.mp h3
    rw [List.length_cons] at hn
    have hp : placeBlock s h nb l kb = { l with blocks := l.blocks ++ [kb.2] } := by
      unfold placeBlock
      simp [h1, h2, hw, show ¬ nb ≤ l.blocks.length by omega]
    have hk : l.blocks.length + 1 + cols.length ≤ nb := by omega
    rw [List.foldl_cons, hp, ih (l := { l with blocks := l.blocks ++ [kb.2] }) (by rwa [List.length_append]) fun e he => hc e (by simp [he])]
    simp

section
variable {h : Nat} (hh : h < 32) (blocks : List (Option Word)) {s : State}
include hh

/-- The column with the position of each block. -/
def columnOf (s : State) (h : Nat) (blocks : List (Option Word)) : List (Nat × Option Word) :=
  (List.range (laneCount s h)).map fun k => (k, blocks.getD k none)

omit hh in
/-- A column brings data if a lane that delivers does. -/
theorem columnData_iff : ((columnOf s h blocks).any fun kb => kb.2.isSome && delivers s h kb.1) = true ↔
    ∃ k, k < laneCount s h ∧ (blocks.getD k none).isSome = true ∧ delivers s h k = true := by
  simp [columnOf]

theorem dataColumn_orphan (hl : (s.head h).line = none) : CountsOnly (.dataColumn h blocks) Reg.EslHead.ORPHCNT h
    ((List.range (laneCount s h)).countP fun k => (blocks.getD k none).isSome && delivers s h k) s := by
  refine CountsOnly.of_sat ?_ (Head.field_has hh rfl rfl)
  rw [exec_dataColumn]
  unfold execDataColumn
  rw [within_lt hh]
  dsimp only
  rw [hl, List.countP_map]
  rfl

section
variable {l : Line} (hl : (s.head h).line = some l)
include hl

theorem dataColumn_exec : exec (.dataColumn h blocks) s =
    if l.drop || !(columnOf s h blocks).any fun kb => kb.2.isSome && delivers s h kb.1 then .next s
    else
      let nb := blocksFor s h l.len
      let m := mixed s h nb l (columnOf s h blocks)
      let l1 := (columnOf s h blocks).foldl (placeBlock s h nb) l
      .next ((s.sat Reg.EslHead.MIXCNT h (b2n m)).setHead h { s.head h with line := some { l1 with padded := l1.padded || m } }) := by
  rw [exec_dataColumn]
  unfold execDataColumn
  rw [within_lt hh]
  dsimp only
  rw [hl]
  rfl

theorem dataColumn_idle (hd : l.drop = true ∨ ∀ k, k < laneCount s h → blocks.getD k none = none ∨ delivers s h k = false) :
    exec (.dataColumn h blocks) s = .next s := by
  rw [dataColumn_exec hh blocks hl]
  refine if_pos ?_
  rw [Bool.or_eq_true, Bool.not_eq_true', ← Bool.not_eq_true, columnData_iff]
  refine hd.imp id ?_
  rintro hn ⟨k, hk, h1, h2⟩
  rcases hn k hk with h0 | h0
  · rw [h0] at h1
    cases h1
  · simp [h0] at h2

omit hh hl in
theorem dataColumn_only {t : State} (he : exec (.dataColumn h blocks) s = .next t) : Only [.one .eslHead h, .heads] s t :=
  (execDataColumn_law (Only.of_law rfl) (Has.covers rfl) (Covers.one (by simp)) (Frame.refl _ _) :
    outAll (Only [.one .eslHead h, .heads] s) (execDataColumn h blocks s)).get he

variable (hd : l.drop = false)
include hd

theorem dataColumn_joins (hc : ∃ k, k < laneCount s h ∧ (blocks.getD k none).isSome = true ∧ delivers s h k = true) :
    exec (.dataColumn h blocks) s =
      let nb := blocksFor s h l.len
      let m := mixed s h nb l (columnOf s h blocks)
      let l1 := (columnOf s h blocks).foldl (placeBlock s h nb) l
      .next ((s.sat Reg.EslHead.MIXCNT h (b2n m)).setHead h { s.head h with line := some { l1 with padded := l1.padded || m } }) := by
  rw [dataColumn_exec hh blocks hl]
  exact if_neg (by rw [hd, (columnData_iff blocks).mpr hc]; decide)

theorem dataColumn_mixes (hc : ∃ k, k < laneCount s h ∧ (blocks.getD k none).isSome = true ∧ delivers s h k = true) :
    Does (.dataColumn h blocks) [.one .eslHead h, .heads] (CountedBy Reg.EslHead.MIXCNT h (b2n (mixed s h (blocksFor s h l.len) l (columnOf s h blocks))) s) s := by
  have he := dataColumn_joins hh blocks hl hd hc
  refine ⟨_, he, dataColumn_only blocks he, ?_⟩
  exact (CountedBy.of_sat rfl (Head.field_has hh rfl rfl)).then_rd (State.setHead_rd _ _ _ _ _)

/-- A whole column of data on the lanes of the line mixes nothing. -/
theorem dataColumn_adds (hn : l.blocks.length + laneCount s h ≤ blocksFor s h l.len)
    (hc : ∀ k, k < laneCount s h → l.lanes.testBit k = true ∧ delivers s h k = true ∧ (blocks.getD k none).isSome = true) :
    Does (.dataColumn h blocks) [.one .eslHead h, .heads] (fun t => (t.head h).line =
      some { l with blocks := l.blocks ++ (List.range (laneCount s h)).map fun k => blocks.getD k none }) s := by
  have hcol : ∀ kb ∈ columnOf s h blocks, l.lanes.testBit kb.1 = true ∧ delivers s h kb.1 = true ∧ kb.2.isSome = true := by
    intro kb hk
    obtain ⟨k, hr, rfl⟩ := List.mem_map.mp hk
    exact hc k (List.mem_range.mp hr)
  have hlen : (columnOf s h blocks).length = laneCount s h := by simp [columnOf]
  have hmap : (columnOf s h blocks).map (·.2) = (List.range (laneCount s h)).map fun k => blocks.getD k none := by simp [columnOf]
  rcases Nat.eq_zero_or_pos (laneCount s h) with h0 | h0
  · refine ⟨s, dataColumn_idle hh blocks hl (.inr fun k hk => by omega), Frame.refl _ _, ?_⟩
    rw [h0, List.range_zero, List.map_nil, List.append_nil]
    exact hl
  · have he := dataColumn_joins hh blocks hl hd ⟨0, h0, (hc 0 h0).2.2, (hc 0 h0).2.1⟩
    refine ⟨_, he, dataColumn_only blocks he, ?_⟩
    have hm : mixed s h (blocksFor s h l.len) l (columnOf s h blocks) = false := by
      unfold mixed
      dsimp only
      rw [Bool.and_eq_false_iff]
      refine .inr (List.any_eq_false.mpr fun kb hk => ?_)
      have hs := (hcol kb (List.mem_filter.mp hk).1).2.2
      simp [Option.isSome_iff_ne_none.mp hs]
    dsimp only
    rw [State.setHead_head_same, foldl_placeBlock (by omega) hcol, hmap, hm]
    simp

end

end

/-! ### The end of a line -/

section
variable {h : Nat} (hh : h < 32) {s : State}
include hh

theorem lineEnd_orphan (crc cline : Nat) (differ : Bool) (hl : (s.head h).line = none) :
    CountsOnly (.lineEnd h crc cline differ) Reg.EslHead.ORPHCNT h ((List.range (laneCount s h)).countP (delivers s h)) s := by
  refine CountsOnly.of_sat ?_ (Head.field_has hh rfl rfl)
  rw [exec_lineEnd]
  unfold execLineEnd
  rw [within_lt hh, hl]

theorem lineTimeout_exec : exec (.lineCompletionTimeout h) s = .next (completeLine h .late s) := by
  rw [exec_lineCompletionTimeout]
  unfold execLineCompletionTimeout
  rw [within_lt hh]

theorem lineTimeout_idle (hl : (s.head h).line = none) : exec (.lineCompletionTimeout h) s = .next s := by
  rw [lineTimeout_exec hh, completeLine_none hl]

theorem lineTimeout_does {P : State → Prop} (hP : P (completeLine h .late s)) : Does (.lineCompletionTimeout h) (lineParts h) P s :=
  Does.of_law (lineTimeout_exec hh) (execLineCompletionTimeout_law (Only.of_law rfl) (Has.covers rfl) (.inr (by simp [lineParts]))
    (Covers.one (by simp [lineParts])) (Frame.refl _ _)) hP

theorem lineTimeout_closes : Does (.lineCompletionTimeout h) (lineParts h) (fun t => (t.head h).line = none) s :=
  lineTimeout_does hh (completeLine_closes hh _).1

section
variable {l : Line} (hl : (s.head h).line = some l)
include hl

theorem lineEnd_does (crc cline : Nat) (differ : Bool) {P : State → Prop} (hP : P (completeLine h (.done crc cline) (countDiffer h differ s))) :
    Does (.lineEnd h crc cline differ) (lineParts h) P s := by
  refine Does.of_law (t := completeLine h (.done crc cline) (countDiffer h differ s)) ?_ (execLineEnd_law (Only.of_law rfl) (Has.covers rfl)
    (Covers.one (by simp [lineParts])) (.inr (by simp [lineParts])) (Covers.one (by simp [lineParts])) (Frame.refl _ _)) hP
  rw [exec_lineEnd]
  unfold execLineEnd
  rw [within_lt hh, hl]

theorem lineEnd_closes (crc cline : Nat) (differ : Bool) : Does (.lineEnd h crc cline differ) (lineParts h) (fun t => (t.head h).line = none) s :=
  lineEnd_does hh hl crc cline differ (completeLine_closes hh _).1

variable {k : Nat} (hd : l.drop = false) (hk : l.slot = some k)
include hd hk

theorem lineEnd_row (crc cline : Nat) (differ : Bool) : Does (.lineEnd h crc cline differ) (lineParts h) (fun t => NewestRow h l s t ∧
    CountedBy Reg.Head.CRCCNT h (if crc ≠ lineCrc l ∨ cline ≠ l.cline then 1 else 0) s t) s := by
  obtain ⟨m1, m2, m3⟩ := countDiffer_marks differ hl
  have ho := countDiffer_only h differ s
  refine lineEnd_does hh hl crc cline differ ⟨?_, ?_⟩
  · have hr := completeLine_row hh (.done crc cline) m1 hd hk
    unfold NewestRow at hr
    rw [m3, stripsOf_only hh ho rfl rfl] at hr
    exact hr
  · have hb := (completeLine_bad hh (.done crc cline) m1 hd).of_rd (ho.rd_off rfl (Head.field_has hh rfl rfl))
    have hv : b2n (LineEnd.bad (.done crc cline) { l with differs := l.differs || differ }) = if crc ≠ lineCrc l ∨ cline ≠ l.cline then 1 else 0 :=
      if_congr (LineEnd.bad_done_iff crc cline _) rfl rfl
    rwa [hv] at hb

theorem lineTimeout_row : Does (.lineCompletionTimeout h) (lineParts h) (fun t => NewestRow h l s t ∧ CountedBy Reg.Head.LATECNT h 1 s t) s :=
  lineTimeout_does hh ⟨completeLine_row hh _ hl hd hk, completeLine_late hh _ hl hd⟩

end

end

end Sys2Proof.Machine
end

section
/-!
SUPPORT. Trigger-to-line timeouts, blocks that are only counted, stopped lanes and the GAP timeout, each by what it finds (R115,
R117, R141, R156, R159, R160, R164).
-/
namespace Sys2Proof.Machine

-- One proof after the other: in one text with all that stands before, each proof in flight holds a stack of its own.
set_option deprecated.oldSectionVars true

/-- Setting a bit that is clear adds its weight. -/
theorem setBit_of_clear {x n : Nat} (hx : x.testBit n = false) : setBit x n = x + 2 ^ n := by
  have hlt : x % 2 ^ n < 2 ^ n := Nat.mod_lt _ (Nat.two_pow_pos n)
  have hlt' : x % 2 ^ n + 2 ^ n < 2 ^ (n + 1) := by rw [Nat.pow_succ]; omega
  have hm : x % 2 ^ (n + 1) = x % 2 ^ n := by
    have hb : x / 2 ^ n % 2 = 0 := by simpa [Nat.testBit_eq_decide_div_mod_eq] using hx
    rw [Nat.mod_pow_succ, hb, Nat.mul_zero, Nat.add_zero]
  have hx' : 2 ^ (n + 1) * (x / 2 ^ (n + 1)) + x % 2 ^ n = x := by rw [← hm]; exact Nat.div_add_mod _ _
  have hor : x = 2 ^ (n + 1) * (x / 2 ^ (n + 1)) ||| x % 2 ^ n := by
    rw [← Nat.two_pow_add_eq_or_of_lt (by omega), hx']
  unfold setBit
  calc x ||| 2 ^ n = 2 ^ (n + 1) * (x / 2 ^ (n + 1)) ||| (x % 2 ^ n ||| 2 ^ n) := by rw [← Nat.or_assoc, ← hor]
    _ = 2 ^ (n + 1) * (x / 2 ^ (n + 1)) + (x % 2 ^ n + 2 ^ n) := by
      rw [Nat.or_two_pow_eq_add_of_lt hlt, Nat.two_pow_add_eq_or_of_lt hlt']
    _ = x + 2 ^ n := by rw [← Nat.add_assoc, hx']

/-! ### The trigger-to-line timeout -/

section
variable {h : Nat} (hh : h < 32) {s : State}
include hh

theorem triggerTimeout_exec : exec (.triggerLineTimeout h) s = .next (closeOldest h s) := by
  rw [exec_triggerLineTimeout]
  unfold execTriggerLineTimeout
  rw [within_lt hh]

theorem triggerTimeout_idle (hr : (s.head h).recs = []) : exec (.triggerLineTimeout h) s = .next s := by
  rw [triggerTimeout_exec hh, closeOldest_none hr]

theorem triggerTimeout_does {P : State → Prop} (hP : P (closeOldest h s)) :
    Does (.triggerLineTimeout h) [.one .head h, .grp 9, .grp 64, .gaps, .heads, .sump, .tokens] P s :=
  Does.of_law (triggerTimeout_exec hh) (execTriggerLineTimeout_law (Only.of_law rfl) (Has.covers rfl) (Covers.one (by simp)) (Frame.refl _ _)) hP

section
variable {r : TrigRec} {rs : List TrigRec} (hr : (s.head h).recs = r :: rs)
include hr

/-- While a line is received the closed trigger waits for it; the run of missing rows stays. -/
theorem triggerTimeout_waits (hl : (s.head h).receiving = true) :
    Does (.triggerLineTimeout h) [.one .head h, .grp 9, .grp 64, .gaps, .heads, .sump, .tokens] (fun t => (t.head h).recs = rs ∧
      CountedBy Reg.Head.NOLINECNT h 1 s t ∧ (t.head h).unanswered = (s.head h).unanswered ++ [r] ∧ (t.head h).gap = (s.head h).gap) s := by
  refine triggerTimeout_does hh ?_
  rw [closeOldest_waits hr hl]
  refine ⟨?_, (CountedBy.of_sat rfl (Head.field_has hh rfl rfl)).of_rd (State.setHead_rd _ _ _ _ _), ?_, ?_⟩ <;>
    rw [State.sat_head, State.setHead_head_same]

/-- Otherwise its row is the last of the run of missing rows. -/
theorem triggerTimeout_misses (hl : (s.head h).receiving = false) :
    Does (.triggerLineTimeout h) [.one .head h, .grp 9, .grp 64, .gaps, .heads, .sump, .tokens] (fun t => (t.head h).recs = rs ∧
      CountedBy Reg.Head.NOLINECNT h 1 s t ∧ ∃ g, (t.head h).gap = some g ∧ EndsWith 2 r.lseq g) s := by
  have hi : Reg.Head.NOLINECNT.has h 0 = true := Head.field_has hh rfl rfl
  refine triggerTimeout_does hh ?_
  rw [closeOldest_misses hr hl]
  have hs := missRow_lines h 0x02 (r.tag h) (recClosed h rs s)
  refine ⟨?_, ?_, missRow_gap h 0x02 (r.tag h) _⟩
  · rw [hs.recs, recClosed_head]
  · refine CountedBy.then_rd (t := recClosed h rs s) ?_ ((missRow_only h 0x02 (r.tag h) _).rd_off rfl hi)
    exact (CountedBy.of_sat rfl hi).of_rd (State.setHead_rd _ _ _ _ _)

end

/-! ### Events and blocks that are counted -/

theorem camEvent_does (code info : Nat) : ∃ t, exec (.camEvent h code info) s = .next t ∧ Writes [(Reg.EslHead.CAMEVCNT, h, 0,
      min (s.rd Reg.EslHead.CAMEVCNT h + 1) (2 ^ Reg.EslHead.CAMEVCNT.width - 1)), (Reg.EslHead.CAMEVCODE, h, 0, code),
      (Reg.EslHead.CAMEVINFO, h, 0, info)] s t ∧ Others [] s t := by
  have he : execCamEvent h code info s = .next ((s.sat Reg.EslHead.CAMEVCNT h 1).wrAll h
      [(Reg.EslHead.CAMEVCODE, code), (Reg.EslHead.CAMEVINFO, info)]) := within_lt hh
  refine ⟨_, he, ?_, ?_⟩
  · exact ((Writes.refl s).wr _ (Head.field_has hh rfl rfl)).wrAll [(Reg.EslHead.CAMEVCODE, code), (Reg.EslHead.CAMEVINFO, info)]
      (by simp [Head.field_has hh (f := Reg.EslHead.CAMEVCODE) rfl rfl, Head.field_has hh (f := Reg.EslHead.CAMEVINFO) rfl rfl])
  · exact (execCamEvent_law (Others.of_law (l := []) rfl) (fun _ hp => nomatch hp) (.inl rfl) (Frame.refl _ _) :
      outAll (Others [] s) (execCamEvent h code info s)).get he

theorem unknownSub_listed {sub : Nat} (h1 : 1 ≤ sub) (h4 : sub ≤ 4) : exec (.statusUnknownSub { head := h, sub := sub }) s = .next s := by
  rw [exec_statusUnknownSub]
  unfold execStatusUnknownSub
  rw [within_lt hh]
  simp [inRange, h1, h4]

theorem unknownSub_counts {sub : Nat} (hs : sub = 0 ∨ 4 < sub) :
    CountsOnly (.statusUnknownSub { head := h, sub := sub }) Reg.EslHead.TYPECNT h 1 s := by
  refine CountsOnly.of_sat ?_ (Head.field_has hh rfl rfl)
  have hn : inRange sub 1 4 = false := by
    simp [inRange]
    omega
  rw [exec_statusUnknownSub]
  unfold execStatusUnknownSub
  rw [within_lt hh, hn]
  rfl

omit hh in
theorem badType_iff (ty sub k : Nat) :
    badType ty sub k = true ↔ if ty = 0x66 then k ≠ 0 ∧ sub ≠ 3 else ty ∉ [0x1E, 0x2D, 0x33, 0x4B, 0x55] := by
  unfold badType
  split <;> simp

theorem unknownType_counts {n ty sub k : Nat} (hn : n < 256) (hb : bondOf s n = some (h, k)) (ht : badType ty sub k = true) :
    CountsOnly (.unknownTypeBlock { lane := n, type := ty, sub := sub }) Reg.EslHead.TYPECNT h 1 s := by
  refine CountsOnly.of_sat ?_ (Head.field_has hh rfl rfl)
  rw [exec_unknownTypeBlock]
  unfold execUnknownTypeBlock
  rw [within_lt hn, hb]
  dsimp only
  rw [if_pos ht]

omit hh in
theorem unknownType_idle {n ty sub : Nat} (hn : n < 256) (hb : bondOf s n = none ∨ ∃ k, bondOf s n = some (h, k) ∧ badType ty sub k = false) :
    exec (.unknownTypeBlock { lane := n, type := ty, sub := sub }) s = .next s := by
  rw [exec_unknownTypeBlock]
  unfold execUnknownTypeBlock
  rw [within_lt hn]
  rcases hb with hb | ⟨k, hb, ht⟩ <;> rw [hb]
  dsimp only
  rw [ht]
  rfl

/-! ### Lanes that stop delivering -/

/-- HLANE k of a running head delivers nothing, and LANEDOWN does not say so yet. -/
def LaneStops (s : State) (h k : Nat) : Prop :=
  s.running h = true ∧ k < laneCount s h ∧ delivers s h k = false ∧ (s.rd Reg.Head.LANEDOWN h).testBit k = false

section
variable {k : Nat} (hk : k < 32)
include hk

theorem blktoExpiry_stops (hs : LaneStops s h k) : Does (.blktoExpiry h k) [.one .head h, .tokens] (fun t =>
    t.rd Reg.Head.LANEDOWN h = s.rd Reg.Head.LANEDOWN h + 2 ^ k ∧ t.tokens = s.tokens ++ tokensOf s (288 + h)) s := by
  have hi : Reg.Head.LANEDOWN.has h 0 = true := Head.field_has hh rfl rfl
  obtain ⟨h1, h2, h3, h4⟩ := hs
  refine Does.of_law (t := (s.wr Reg.Head.LANEDOWN h (setBit (s.rd Reg.Head.LANEDOWN h) k)).emit (288 + h)) ?_
    (execBlktoExpiry_law (Only.of_law rfl) (Has.covers rfl) (Covers.one (by simp)) (Frame.refl _ _)) ⟨?_, ?_⟩
  · rw [exec_blktoExpiry]
    unfold execBlktoExpiry
    rw [within_lt hh, within_lt hk]
    exact if_pos (by simp [h1, h2, h3, h4])
  · rw [(emit_only _ _ _).rd_off rfl hi, State.rd_wr_same _ rfl _ hi, ← setBit_of_clear h4]
    exact Nat.mod_eq_of_lt (Nat.or_lt_two_pow (State.rd_lt _ _ _) (Nat.pow_lt_pow_right (by decide) hk))
  · have ht : tokensOf (s.wr Reg.Head.LANEDOWN h (setBit (s.rd Reg.Head.LANEDOWN h) k)) (288 + h) = tokensOf s (288 + h) :=
      tokensOf_only (wrHead_only (f := Reg.Head.LANEDOWN) (k := .head) rfl h _ s) rfl _
    rw [← ht, ← State.wr_tokens s Reg.Head.LANEDOWN h (setBit (s.rd Reg.Head.LANEDOWN h) k)]
    rfl

theorem blktoExpiry_idle (hs : ¬ LaneStops s h k) : exec (.blktoExpiry h k) s = .next s := by
  rw [exec_blktoExpiry]
  unfold execBlktoExpiry
  rw [within_lt hh, within_lt hk]
  refine if_neg fun hc => hs ?_
  simpa [LaneStops, and_assoc] using hc

end

/-! ### The GAP timeout -/

theorem gapflExpiry_exec : exec (.gapflExpiry h) s = .next (sendGap h s) := by
  rw [exec_gapflExpiry]
  unfold execGapflExpiry
  rw [within_lt hh]

theorem gapflExpiry_idle (hg : (s.head h).gap = none) : exec (.gapflExpiry h) s = .next s := by
  rw [gapflExpiry_exec hh, sendGap_none hg]

theorem gapflExpiry_sends {g : GapRun} (hg : (s.head h).gap = some g) : Does (.gapflExpiry h) [.gaps, .heads, .tokens, .grp 64] (fun t =>
    (t.head h).gap = none ∧ (t.head h).gapBefore = true ∧ t.gaps = s.gaps ++ [g.packet h] ∧ t.tokens = s.tokens ++ tokensOf s (288 + h)) s := by
  refine Does.of_law (gapflExpiry_exec hh) (execGapflExpiry_law (Only.of_law rfl) (Has.covers rfl) (Frame.refl _ _)) ?_
  have he := evt_only (gapQueued h g s) 2 h 0x02 1
  have hq : Only [.grp 64, .gaps, .heads] s ((gapQueued h g s).evt 2 h 0x02) :=
    Only.trans ((Only.of_law rfl).gaps (by simp [Covers]) ((Only.of_law rfl).heads (by simp [Covers]) (Frame.refl _ _))) (he.mono rfl)
  refine ⟨?_, ?_, ?_, ?_⟩
  · rw [sendGap_gap]
  · rw [sendGap_some_head hg]
  · rw [sendGap_some hg]
    exact Frame.gaps he (by simp [Covers])
  · rw [sendGap_some hg, ← tokensOf_only hq rfl, ← Frame.tokens hq (by simp [Covers])]
    rfl

end

end Sys2Proof.Machine
end

section
/-!
PROOF. Reception of lines (O28).
-/
namespace Sys2Proof.Machine

-- One proof after the other: in one text with all that stands before, each proof in flight holds a stack of its own.
set_option deprecated.oldSectionVars true

/-- Settles O28: each command by what it finds; the row of a completed line and the run of missing rows are proved of
`completeLine` and `missRow` once, and the commands are read off them. -/
theorem lineReception : Obligations.LineReception := by
  intro h s hh
  refine ⟨fun num xset echo test len cline differ => ⟨fun i r hf hr => lineStart_opens hh num xset len cline echo test differ hf hr,
    lineStart_drops hh num xset len cline echo test differ, fun l k hl hd hk => lineStart_row hh num xset len cline echo test differ hl hd hk⟩,
    fun blocks => ⟨dataColumn_orphan hh blocks, fun l hl hd => dataColumn_idle hh blocks hl hd, fun l hl hd hc => dataColumn_mixes hh blocks hl hd hc,
      fun l hl hd hn hc => dataColumn_adds hh blocks hl hd hn hc⟩,
    fun crc cline differ => ⟨lineEnd_orphan hh crc cline differ, fun l hl => lineEnd_closes hh hl crc cline differ,
      fun l k hl hd hk => lineEnd_row hh hl hd hk crc cline differ⟩,
    lineTimeout_idle hh, fun l _ => lineTimeout_closes hh, fun l k hl hd hk => lineTimeout_row hh hl hd hk,
    triggerTimeout_idle hh, fun r rs hr => ?_, camEvent_does hh, fun sub => ⟨unknownSub_listed hh, unknownSub_counts hh⟩,
    fun n ty sub hn => ⟨fun k hb ht => unknownType_counts hh hn hb ((badType_iff ty sub k).mpr ht), fun hb => unknownType_idle (h := h) hn (hb.imp id ?_)⟩,
    fun k hk => ⟨blktoExpiry_stops hh hk, blktoExpiry_idle hh hk⟩, gapflExpiry_idle hh, fun g hg => gapflExpiry_sends hh hg⟩
  · cases hl : (s.head h).receiving with
    | true => exact (triggerTimeout_waits hh hr hl).imp fun t ⟨h1, h2, h3⟩ => ⟨h1, h2, by rw [if_pos rfl]; exact h3⟩
    | false => exact (triggerTimeout_misses hh hr hl).imp fun t ⟨h1, h2, h3⟩ => ⟨h1, h2, by rw [if_neg (by decide)]; exact h3⟩
  · rintro ⟨k, hb, ht⟩
    exact ⟨k, hb, Bool.eq_false_iff.mpr fun hc => ht ((badType_iff ty sub k).mp hc)⟩

end Sys2Proof.Machine
end

section
/-!
SUPPORT. Camera register accesses: what sending a CMD and ending one leave of a head, completions, and the word w1 of HAU.CAMREG
(R135 to R137, log entry 146).
-/
namespace Sys2Proof.Machine

-- One proof after the other: in one text with all that stands before, each proof in flight holds a stack of its own.
set_option deprecated.oldSectionVars true

/-! ### Completions -/

/-- What completes depends on the operations under way alone. -/
theorem complete_seq_congr {s t : State} (h : t.seq = s.seq) (unit op inst st : Nat) :
    (t.complete unit op inst st).seq = (s.complete unit op inst st).seq := by
  unfold State.complete
  rw [h]

theorem complete_only (unit op inst st : Nat) (s : State) : Only [.seq] s (s.complete unit op inst st) :=
  complete_law (Only.of_law rfl) (Has.covers rfl) (Frame.refl _ _)

theorem complete_head (unit op inst st h : Nat) (s : State) : (s.complete unit op inst st).head h = s.head h := rfl

theorem failStart_start (h st : Nat) (s : State) : ((failStart h st s).head h).start = none := by
  unfold failStart
  rw [complete_head, State.setHead_head_same]
  rfl

theorem failStart_seq (h st : Nat) (s : State) : (failStart h st s).seq = (s.complete 2 5 h st).seq :=
  complete_seq_congr (State.setHead_seq _ _ _) 2 5 h st

/-! ### CMDs -/

/-- A CMD goes out when none is left to wait for, and waits its turn otherwise. -/
def Sends (e : HeadState) (q : CamCmd) (x : HeadState) : Prop :=
  if e.cmd = none then x.cmd = some { q with tag := e.tag } else x.cmds = e.cmds ++ [q]

/-- The same once the outstanding CMD has ended. -/
def SendsNext (e : HeadState) (q : CamCmd) (x : HeadState) : Prop :=
  if e.cmds = [] then x.cmd = some { q with tag := e.tag } else x.cmds = e.cmds.drop 1 ++ [q]

section
variable (h : Nat) (q : CamCmd) (s : State)

theorem sendCmd_only : Only [.heads] s (sendCmd h q s) := sendCmd_law (Only.of_law rfl) (Has.covers rfl) (Frame.refl _ _)

theorem nextCmd_only : Only [.heads] s (nextCmd h s) := nextCmd_law (Only.of_law rfl) (Has.covers rfl) (Frame.refl _ _)

theorem sendCmd_free {s : State} (hc : (s.head h).cmd = none) : (sendCmd h q s).head h =
    { s.head h with cmd := some { q with tag := (s.head h).tag }, tag := ((s.head h).tag + 1) % 256, sent := { q with tag := (s.head h).tag }.blocks,
                    down := { (s.head h).down with seqs := (s.head h).down.seqs ++ [{ q with tag := (s.head h).tag }.blocks] } } := by
  unfold sendCmd
  dsimp only
  rw [hc, if_neg (by decide)]
  unfold sendSeq
  rw [State.setHead_head_same, State.setHead_head_same]

theorem sendCmd_waits {s : State} (hc : (s.head h).cmd ≠ none) : (sendCmd h q s).head h = { s.head h with cmds := (s.head h).cmds ++ [q] } := by
  unfold sendCmd
  dsimp only
  rw [if_pos (Option.isSome_iff_ne_none.mpr hc), State.setHead_head_same]

theorem sendCmd_sends : Sends (s.head h) q ((sendCmd h q s).head h) := by
  unfold Sends
  split
  · next hc => rw [sendCmd_free h q hc]
  · next hc => rw [sendCmd_waits h q hc]

theorem sendCmd_start : ((sendCmd h q s).head h).start = (s.head h).start := by
  by_cases hc : (s.head h).cmd = none
  · rw [sendCmd_free h q hc]
  · rw [sendCmd_waits h q hc]

theorem sendCmd_maxLrate : ((sendCmd h q s).head h).maxLrate = (s.head h).maxLrate := by
  by_cases hc : (s.head h).cmd = none
  · rw [sendCmd_free h q hc]
  · rw [sendCmd_waits h q hc]

variable {s}

theorem nextCmd_none (hc : (s.head h).cmds = []) : (nextCmd h s).head h = { s.head h with cmd := none, cmds := [] } := by
  unfold nextCmd
  dsimp only
  rw [hc, State.setHead_head_same]
  rfl

theorem nextCmd_some {c : CamCmd} {cs : List CamCmd} (hc : (s.head h).cmds = c :: cs) :
    nextCmd h s = sendCmd h c (s.setHead h { s.head h with cmd := none, cmds := cs }) := by
  unfold nextCmd
  dsimp only
  rw [hc]
  rfl

variable (s)

theorem nextCmd_start : ((nextCmd h s).head h).start = (s.head h).start := by
  cases hc : (s.head h).cmds with
  | nil => rw [nextCmd_none h hc]
  | cons c cs => rw [nextCmd_some h hc, sendCmd_start, State.setHead_head_same]

theorem nextCmd_maxLrate : ((nextCmd h s).head h).maxLrate = (s.head h).maxLrate := by
  cases hc : (s.head h).cmds with
  | nil => rw [nextCmd_none h hc]
  | cons c cs => rw [nextCmd_some h hc, sendCmd_maxLrate, State.setHead_head_same]

/-- The first CMD that waited goes out. -/
theorem nextCmd_cmds : ((nextCmd h s).head h).cmds = (s.head h).cmds.drop 1 := by
  cases hc : (s.head h).cmds with
  | nil => rw [nextCmd_none h hc]; rfl
  | cons c cs => rw [nextCmd_some h hc, sendCmd_free h c (by rw [State.setHead_head_same]), State.setHead_head_same]; rfl

theorem nextCmd_cmd_none (hc : (s.head h).cmds = []) : ((nextCmd h s).head h).cmd = none := by rw [nextCmd_none h hc]

/-- A head with the same CMDs as one whose outstanding CMD has just ended sends the next as that head does. -/
theorem Sends.next {e x : HeadState} (hs : Sends e q x) (h1 : e.cmd = ((nextCmd h s).head h).cmd) (h2 : e.cmds = ((nextCmd h s).head h).cmds)
    (h3 : e.tag = ((nextCmd h s).head h).tag) : SendsNext (s.head h) q x := by
  unfold Sends at hs
  rw [h1, h2, h3] at hs
  unfold SendsNext
  cases hc : (s.head h).cmds with
  | nil =>
    rw [nextCmd_none h hc, if_pos rfl] at hs
    rw [if_pos rfl, hs]
  | cons c cs =>
    have hn : ((nextCmd h s).head h).cmd ≠ none := by
      rw [nextCmd_some h hc, sendCmd_free h c (by rw [State.setHead_head_same])]
      exact nofun
    rw [if_neg hn, nextCmd_cmds, hc] at hs
    rw [if_neg nofun, hs]

end

/-! ### The word of HAU.CAMREG -/

/-- Word w1 of a payload. -/
def wordOne (addr : Nat) (t : State) : Nat := bytesNat ((List.range 8).map fun k => t.byte (addr + 8 + k))

theorem wordOne_complete (addr unit op inst st : Nat) (s : State) : wordOne addr (s.complete unit op inst st) = wordOne addr s := rfl

/-- Two 32-bit halves make up a word. -/
theorem fld_halves (a b : Nat) : (fld a 8 32 ||| fld b 32 0).toNat = a % 256 * 2 ^ 32 + b % 2 ^ 32 := by
  have ha : a % 2 ^ 8 * 2 ^ 32 < 2 ^ 64 := by omega
  have hb : b % 2 ^ 32 * 2 ^ 0 < 2 ^ 64 := by omega
  rw [BitVec.toNat_or, fld, fld, BitVec.toNat_ofNat, BitVec.toNat_ofNat, Nat.mod_eq_of_lt ha, Nat.mod_eq_of_lt hb, Nat.pow_zero, Nat.mul_one,
    Nat.mul_comm _ (2 ^ 32), ← Nat.two_pow_add_eq_or_of_lt (by omega), Nat.mul_comm (2 ^ 32)]
  rfl

theorem wordOne_write64 (addr a b : Nat) (s : State) :
    wordOne addr (s.write64 (addr + 8) (fld a 8 32 ||| fld b 32 0)) = a % 256 * 2 ^ 32 + b % 2 ^ 32 := by
  rw [← fld_halves]
  exact (fill_word s (addr + 8) 8 _ (BitVec.isLt _)).1

theorem write64_only (a : Nat) (x : Word) (s : State) : Only [.mem, .poison] s (s.write64 a x) :=
  write64_law (Only.of_law rfl) (Has.covers rfl) (Frame.refl _ _)

end Sys2Proof.Machine
end

section
/-!
SUPPORT. Answers to CMDs and their timeout (R136, R137, R144, R145, Table 3-9).
-/
namespace Sys2Proof.Machine

-- One proof after the other: in one text with all that stands before, each proof in flight holds a stack of its own.
set_option deprecated.oldSectionVars true

section
variable {h : Nat} (hh : h < 32) {s : State}
include hh

/-- The answer that the outstanding CMD waits for. -/
theorem cmdrsp_exec {q : CamCmd} (hq : (s.head h).cmd = some q) (result data : Nat) :
    exec (.statusCmdrsp h q.tag result data) s = .next (answered h result data q (nextCmd h s)) := by
  rw [exec_statusCmdrsp]
  unfold execStatusCmdrsp
  rw [within_lt hh, hq]
  exact if_neg (by simp)

/-- Any other is a stray one. -/
theorem cmdrsp_stray {tag : Nat} (ht : (s.head h).cmd = none ∨ ∃ q, (s.head h).cmd = some q ∧ q.tag ≠ tag) (result data : Nat) :
    CountsOnly (.statusCmdrsp h tag result data) Reg.EslHead.STRAYCNT h 1 s := by
  refine CountsOnly.of_sat ?_ (Head.field_has hh rfl rfl)
  rw [exec_statusCmdrsp]
  unfold execStatusCmdrsp
  rw [within_lt hh]
  rcases ht with hq | ⟨q, hq, ht⟩ <;> rw [hq]
  exact if_pos ht

section
variable {q : CamCmd} (hq : (s.head h).cmd = some q)
include hq

/-! ### HAU.CAMREG -/

/-- Word w1 stands in the payload of HAU.CAMREG, and the next CMD is out. -/
def camregWritten (h addr result data : Nat) (c : CamCmd) (s : State) : State :=
  (nextCmd h s).write64 (addr + 8) (fld result 8 32 ||| fld (if result = 0 ∧ !c.write then data else 0) 32 0)

omit hh hq in
theorem camregWritten_only (h addr result data : Nat) (c : CamCmd) (s : State) : Only [.heads, .mem, .poison] s (camregWritten h addr result data c s) :=
  ((nextCmd_only h s).mono rfl).trans ((write64_only _ _ _).mono rfl)

omit hh hq in
theorem camregWritten_word (h addr result data : Nat) (c : CamCmd) (s : State) : wordOne addr (camregWritten h addr result data c s) =
    result % 256 * 2 ^ 32 + if result = 0 ∧ c.write = false then data % 2 ^ 32 else 0 := by
  unfold camregWritten
  rw [wordOne_write64]
  by_cases hr : result = 0 ∧ c.write = false
  · rw [if_pos (by simpa using hr), if_pos hr]
  · rw [if_neg (by simpa using hr), if_neg hr, Nat.zero_mod]

omit hh hq in
theorem camregWritten_head (h addr result data : Nat) (c : CamCmd) (s : State) :
    (camregWritten h addr result data c s).head h = (nextCmd h s).head h := (write64_only _ _ _).head (by simp [Covers]) h

omit hh hq in
theorem camregWritten_seq (h addr result data : Nat) (c : CamCmd) (s : State) : (camregWritten h addr result data c s).seq = s.seq :=
  Frame.seq (camregWritten_only h addr result data c s) (by simp [Covers])

section
variable {addr : Nat} (hu : q.use = .camreg addr)
include hu

theorem cmdrsp_camreg {result : Nat} (hw : ¬(q.write = true ∧ q.addr = 0x108 ∧ result = 0)) (data : Nat) :
    Does (.statusCmdrsp h q.tag result data) [.heads, .mem, .poison, .seq] (fun t => t.seq = (s.complete 2 8 h 0).seq ∧
      (t.head h).cmds = (s.head h).cmds.drop 1 ∧ ((s.head h).cmds = [] → (t.head h).cmd = none) ∧
      wordOne addr t = result % 256 * 2 ^ 32 + if result = 0 ∧ q.write = false then data % 2 ^ 32 else 0) s := by
  refine ⟨(camregWritten h addr result data q s).complete 2 8 h 0, ?_, ?_, ?_, ?_, ?_, ?_⟩
  · rw [cmdrsp_exec hh hq]
    unfold answered
    rw [hu]
    dsimp only
    rw [if_neg (by simpa using hw)]
    rfl
  · exact ((camregWritten_only h addr result data q s).mono rfl).trans ((complete_only _ _ _ _ _).mono rfl)
  · exact complete_seq_congr (camregWritten_seq h addr result data q s) 2 8 h 0
  · rw [complete_head, camregWritten_head, nextCmd_cmds]
  · intro hc
    rw [complete_head, camregWritten_head, nextCmd_cmd_none h s hc]
  · rw [wordOne_complete, camregWritten_word]

/-- An LRATE write that the camera takes: the head's lanes take the rate. -/
theorem cmdrsp_lrate (hw : q.write = true) (ha : q.addr = 0x108) (data : Nat) :
    Does (.statusCmdrsp h q.tag 0 data) [.heads, .mem, .poison, .seq, .all .lane, .lanes] (fun t => (t.head h).reRate = true ∧
      t.seq = (s.complete 2 8 h 0).seq) s := by
  have hr : Only [.all .lane, .heads, .lanes] (camregWritten h addr 0 data q s) (rateAccepted h (q.data % 16) (camregWritten h addr 0 data q s)) :=
    rateAccepted_law (Only.of_law rfl) (Has.covers rfl) (Frame.refl _ _)
  refine ⟨(rateAccepted h (q.data % 16) (camregWritten h addr 0 data q s)).complete 2 8 h 0, ?_, ?_, ?_, ?_⟩
  · rw [cmdrsp_exec hh hq]
    unfold answered
    rw [hu]
    dsimp only
    rw [if_pos (by simp [hw, ha])]
    rfl
  · exact (((camregWritten_only h addr 0 data q s).mono rfl).trans (hr.mono rfl)).trans ((complete_only _ _ _ _ _).mono rfl)
  · rw [complete_head]
    unfold rateAccepted
    rw [State.setHead_head_same]
  · exact complete_seq_congr ((Frame.seq hr (by simp [Covers])).trans (camregWritten_seq h addr 0 data q s)) 2 8 h 0

end

/-! ### Refusals, and CMDs of a stop -/

theorem cmdrsp_refuses (hu : q.use = .start) {result : Nat} (hr : result ≠ 0) (data : Nat) :
    Does (.statusCmdrsp h q.tag result data) [.heads, .seq] (fun t => (t.head h).start = none ∧ t.seq = (s.complete 2 5 h 6).seq) s := by
  refine ⟨failStart h stINCOMPAT (nextCmd h s), ?_, failStart_law (Only.of_law rfl) (Has.covers rfl) ((nextCmd_only h s).mono rfl),
    failStart_start _ _ _, ?_⟩
  · rw [cmdrsp_exec hh hq]
    unfold answered
    rw [hu]
    dsimp only
    rw [if_pos hr]
  · exact (failStart_seq h stINCOMPAT (nextCmd h s)).trans (complete_seq_congr (Frame.seq (nextCmd_only h s) (by simp [Covers])) 2 5 h 6)

theorem cmdrsp_stop (hu : q.use = .stop) (result data : Nat) :
    Does (.statusCmdrsp h q.tag result data) [.heads] (fun t => (s.head h).cmds = [] → (t.head h).cmd = none) s := by
  refine ⟨nextCmd h s, ?_, nextCmd_only h s, nextCmd_cmd_none h s⟩
  rw [cmdrsp_exec hh hq]
  unfold answered
  rw [hu]

end

/-! ### CMDTO -/

/-- The missing answer is counted, and the next CMD is out. -/
def cmdTimedOut (h : Nat) (s : State) : State := nextCmd h (s.sat Reg.EslHead.CMDTOCNT h 1)

omit hh in
theorem cmdTimedOut_only (h : Nat) (s : State) : Only [.one .eslHead h, .heads] s (cmdTimedOut h s) :=
  nextCmd_law (Only.of_law rfl) (Has.covers rfl) ((wrHead_only (k := .eslHead) rfl h _ s).mono (by simp [covered]))

theorem cmdTimedOut_counts : CountedBy Reg.EslHead.CMDTOCNT h 1 s (cmdTimedOut h s) :=
  (CountedBy.of_sat rfl (Head.field_has hh rfl rfl)).then_rd ((nextCmd_only h _).rd_off rfl (Head.field_has hh rfl rfl))

omit hh in
theorem cmdTimedOut_seq (h : Nat) (s : State) : (cmdTimedOut h s).seq = s.seq := Frame.seq (cmdTimedOut_only h s) (by simp [Covers])

theorem cmdto_idle (hq : (s.head h).cmd = none) : exec (.cmdtoExpiry h) s = .next s := by
  rw [exec_cmdtoExpiry]
  unfold execCmdtoExpiry
  rw [within_lt hh, hq]

section
variable {q : CamCmd} (hq : (s.head h).cmd = some q)
include hq

theorem cmdto_camreg {addr : Nat} (hu : q.use = .camreg addr) : Does (.cmdtoExpiry h) [.one .eslHead h, .heads, .seq] (fun t =>
    t.seq = (s.complete 2 8 h 7).seq ∧ CountedBy Reg.EslHead.CMDTOCNT h 1 s t) s := by
  refine ⟨(cmdTimedOut h s).complete 2 8 h 7, ?_, complete_law (Only.of_law rfl) (Has.covers rfl) ((cmdTimedOut_only h s).mono (by simp [covered])),
    complete_seq_congr (cmdTimedOut_seq h s) 2 8 h 7, (cmdTimedOut_counts hh).then_rd ((complete_only _ _ _ _ _).rd_off rfl (Head.field_has hh rfl rfl))⟩
  rw [exec_cmdtoExpiry]
  unfold execCmdtoExpiry
  rw [within_lt hh, hq]
  dsimp only
  rw [hu]
  rfl

theorem cmdto_start (hu : q.use = .start) : Does (.cmdtoExpiry h) [.one .eslHead h, .heads, .seq] (fun t =>
    (t.head h).start = none ∧ t.seq = (s.complete 2 5 h 7).seq) s := by
  refine ⟨failStart h stCAMTO (cmdTimedOut h s), ?_, failStart_law (Only.of_law rfl) (Has.covers rfl) ((cmdTimedOut_only h s).mono (by simp [covered])),
    failStart_start _ _ _, (failStart_seq h stCAMTO _).trans (complete_seq_congr (cmdTimedOut_seq h s) 2 5 h 7)⟩
  rw [exec_cmdtoExpiry]
  unfold execCmdtoExpiry
  rw [within_lt hh, hq]
  dsimp only
  rw [hu]
  rfl

theorem cmdto_stop (hu : q.use = .stop) : Does (.cmdtoExpiry h) [.one .eslHead h, .heads] (fun t => (s.head h).cmds = [] → (t.head h).cmd = none) s := by
  refine ⟨cmdTimedOut h s, ?_, cmdTimedOut_only h s, fun hc => nextCmd_cmd_none h _ ?_⟩
  · rw [exec_cmdtoExpiry]
    unfold execCmdtoExpiry
    rw [within_lt hh, hq]
    dsimp only
    rw [hu]
    rfl
  · rwa [State.sat_head]

end

end

end Sys2Proof.Machine
end

section
/-!
SUPPORT. Step 5 of a start: the camera's registers are read one after the other, each answer is kept, and after the last the camera
fits or not (R144, R150, Table 3-9, log entry 146).
-/
namespace Sys2Proof.Machine

-- One proof after the other: in one text with all that stands before, each proof in flight holds a stack of its own.
set_option deprecated.oldSectionVars true

/-! ### One answered read -/

theorem keepRead_eslver (h data : Nat) (st : Start) (s : State) :
    keepRead h 0 data st s = s.setHead h { s.head h with start := some { st with eslver := data } } := rfl

theorem keepRead_maxLrate (h data : Nat) (st : Start) (s : State) : keepRead h 0x14 data st s = s.setHead h { s.head h with maxLrate := data } := rfl

/-- An answer of step 5 is kept beside the head's CMDs. -/
theorem keepRead_cmds (h addr data : Nat) (st : Start) (s : State) :
    ((keepRead h addr data st s).head h).cmd = (s.head h).cmd ∧ ((keepRead h addr data st s).head h).cmds = (s.head h).cmds ∧
      ((keepRead h addr data st s).head h).tag = (s.head h).tag := by
  unfold keepRead
  split <;> simp only [State.setHead_head_same, State.wr_head, and_self]

/-- The read of the next register goes out as the next CMD. -/
theorem readReg_sendsNext (h addr data a : Nat) (st : Start) (s : State) : SendsNext (s.head h) { use := .start, write := false, addr := a }
    ((readReg h a (keepRead h addr data st (nextCmd h s))).head h) := by
  obtain ⟨h1, h2, h3⟩ := keepRead_cmds h addr data st (nextCmd h s)
  exact (sendCmd_sends h { use := .start, write := false, addr := a } _).next h _ s h1 h2 h3

theorem readReg_only (h a : Nat) (s : State) : Only [.heads] s (readReg h a s) := sendCmd_only h _ s

/-- After a read that is not the last the next one goes out. -/
theorem readAnswered_next {h addr a : Nat} (ha : (bringupReads.find? fun b => decide (addr < b)) = some a) (data : Nat) (st : Start) (s : State) :
    readAnswered h addr data st s = readReg h a (keepRead h addr data st s) := by
  unfold readAnswered
  dsimp only
  rw [ha]

section
variable {h : Nat} (hh : h < 32) {s : State}
include hh

theorem slowLane_only {l : List Part} {t : State} (ho : Only l s t) (hl : headsOff l = true) (hr : Reg.Lane.RATE.off l = true) :
    slowLane t h = slowLane s h := by
  unfold slowLane
  rw [bondLanes_only ho hl hh, Bool.eq_iff_iff, List.any_eq_true, List.any_eq_true]
  refine exists_congr fun n => and_congr_right fun hn => ?_
  rw [ho.rd_off hr (Lane.field_has (bondLanes_lt hn) rfl rfl)]

/-- The bonding list stands in the heads' blocks, which lie below the ESL blocks. -/
theorem bondLanes_wr_layout (v : Nat) : bondLanes (s.wr Reg.EslHead.CAMLAYOUT h v) h = bondLanes s h := by
  unfold bondLanes
  rw [State.wr_bonded, State.rd_wr_apart (g := Reg.Head.LANES) _ rfl _ (Head.field_has hh rfl rfl)]
  refine if_congr Iff.rfl (List.map_congr_left fun j hj => ?_) rfl
  have hw : 2 ^ s.rd Reg.Head.LANES h ≤ 2 ^ 7 := Nat.pow_le_pow_right (by decide) (Nat.le_of_lt_succ (s.rd_lt Reg.Head.LANES h))
  have hj := List.mem_range.mp hj
  have hm : Reg.Head.LANEMAP.word h j = 0x20020008 + 0x80 * h + 8 * (j * 8 / 64) := rfl
  have hc : Reg.EslHead.CAMLAYOUT.word h 0 = 0x2002C038 + 0x40 * h + 0 := rfl
  unfold State.rd2 State.wr
  rw [State.word_wr2_ne _ fun _ => by omega]

theorem slowLane_wr_layout (v : Nat) : slowLane (s.wr Reg.EslHead.CAMLAYOUT h v) h = slowLane s h := by
  unfold slowLane
  rw [bondLanes_wr_layout hh, Bool.eq_iff_iff, List.any_eq_true, List.any_eq_true]
  refine exists_congr fun n => and_congr_right fun hn => ?_
  rw [State.rd_wr_apart _ rfl _ (Lane.field_has (bondLanes_lt hn) rfl rfl)]

section
variable {q : CamCmd} {st : Start} (hq : (s.head h).cmd = some q) (hu : q.use = .start) (hw : q.write = false) (hst : (s.head h).start = some st)
include hq hu hw hst

theorem cmdrsp_read (data : Nat) :
    exec (.statusCmdrsp h q.tag 0 data) s = .next (readAnswered h q.addr data st (nextCmd h s)) := by
  rw [cmdrsp_exec hh hq]
  unfold answered
  rw [hu]
  dsimp only
  rw [if_neg (by decide)]
  unfold startAnswered
  rw [nextCmd_start, hst]
  dsimp only
  rw [hw, Bool.not_false, if_pos rfl]

theorem cmdrsp_read_does (data : Nat) {P : State → Prop} (hP : P (readAnswered h q.addr data st (nextCmd h s))) :
    Does (.statusCmdrsp h q.tag 0 data) [.one .eslHead h, .heads, .seq] P s :=
  ⟨_, cmdrsp_read hh hq hu hw hst data,
    readAnswered_law (Only.of_law rfl) (Has.covers rfl) (Covers.one (by simp)) ((nextCmd_only h s).mono (by simp [covered])), hP⟩

end

section
variable {q : CamCmd} {st : Start} (hq : (s.head h).cmd = some q) (hu : q.use = .start) (hw : q.write = false) (hst : (s.head h).start = some st)
include hq hu hw hst

/-- One of the first five reads is answered: what the kept value means holds of the head once the next read is out. -/
theorem cmdrsp_read_next {a b : Nat} (ha : q.addr = a) (hb : (bringupReads.find? fun c => decide (a < c)) = some b) (data : Nat) {P : State → Prop}
    (hP : P (readReg h b (keepRead h a data st (nextCmd h s)))) :
    Does (.statusCmdrsp h q.tag 0 data) [.one .eslHead h, .heads, .seq]
      (fun t => P t ∧ SendsNext (s.head h) { use := .start, write := false, addr := b } (t.head h)) s := by
  subst ha
  refine cmdrsp_read_does hh hq hu hw hst data ?_
  rw [readAnswered_next hb]
  exact ⟨hP, readReg_sendsNext h q.addr data b st s⟩

theorem cmdrsp_eslver (ha : q.addr = 0) (data : Nat) : Does (.statusCmdrsp h q.tag 0 data) [.one .eslHead h, .heads, .seq] (fun t =>
    (t.head h).start = some { st with eslver := data } ∧ SendsNext (s.head h) { use := .start, write := false, addr := 8 } (t.head h)) s := by
  refine cmdrsp_read_next hh hq hu hw hst ha rfl data (P := fun t => (t.head h).start = some { st with eslver := data }) ?_
  unfold readReg
  rw [sendCmd_start, keepRead_eslver, State.setHead_head_same]

theorem cmdrsp_maxLrate (ha : q.addr = 0x14) (data : Nat) : Does (.statusCmdrsp h q.tag 0 data) [.one .eslHead h, .heads, .seq] (fun t =>
    (t.head h).maxLrate = data ∧ SendsNext (s.head h) { use := .start, write := false, addr := 0x18 } (t.head h)) s := by
  refine cmdrsp_read_next hh hq hu hw hst ha rfl data (P := fun t => (t.head h).maxLrate = data) ?_
  unfold readReg
  rw [sendCmd_maxLrate, keepRead_maxLrate, State.setHead_head_same]

/-- CAPS, MAXLEN and DCAM are kept in a field of the ESL block. -/
theorem cmdrsp_field {a b : Nat} {f : Field} (ha : q.addr = a) (hb : (bringupReads.find? fun c => decide (a < c)) = some b) {data : Nat}
    (hk : keepRead h a data st (nextCmd h s) = (nextCmd h s).wr f h data) (hi : f.has h 0 = true) (hw' : f.inWord = true)
    (ho : f.off [.heads] = true) : Does (.statusCmdrsp h q.tag 0 data) [.one .eslHead h, .heads, .seq] (fun t =>
      t.rd f h = data % 2 ^ f.width ∧ SendsNext (s.head h) { use := .start, write := false, addr := b } (t.head h)) s := by
  refine cmdrsp_read_next hh hq hu hw hst ha hb data (P := fun t => t.rd f h = data % 2 ^ f.width) ?_
  rw [hk, (readReg_only h b _).rd_off ho hi, State.rd_wr_same _ hw' _ hi]

end

end

/-! ### The last read -/

/-- The last register is kept. -/
def layoutKept (h data : Nat) (s : State) : State := (nextCmd h s).wr Reg.EslHead.CAMLAYOUT h data

theorem layoutKept_only (h data : Nat) (s : State) : Only [.one .eslHead h, .heads] s (layoutKept h data s) :=
  Frame.trans ((nextCmd_only h s).mono (by simp [covered])) ((wrHead_only (k := .eslHead) rfl h data _).mono (by simp [covered]))

theorem layoutKept_head (h data : Nat) (s : State) : (layoutKept h data s).head h = (nextCmd h s).head h := State.wr_head _ _ _ _ _

/-- The checks of step 5 do not see LAYOUT. -/
theorem cameraStatus_layoutKept {h : Nat} (hh : h < 32) (s : State) (data eslver : Nat) : cameraStatus (layoutKept h data s) h eslver = cameraStatus s h eslver := by
  have ho := layoutKept_only h data s
  have hi : ∀ {f : Field}, f.n1 = 32 → f.n2 = 1 → f.has h 0 = true := Head.field_has hh
  have hk : ∀ {f : Field}, Reg.EslHead.CAMLAYOUT.apart f = true → f.off [.heads] = true → f.has h 0 = true →
      (layoutKept h data s).rd f h = s.rd f h := fun ha hf hi => (State.rd_wr_apart _ ha _ hi).trans ((nextCmd_only h s).rd_off hf hi)
  unfold cameraStatus
  rw [hk (f := Reg.EslHead.CAMCAPS) rfl rfl (hi rfl rfl), hk (f := Reg.EslHead.CAMMAXLEN) rfl rfl (hi rfl rfl),
    ho.rd_off (f := Reg.Head.LANES) rfl (hi rfl rfl), ho.rd_off (f := Reg.Head.HW) rfl (hi rfl rfl), ho.rd_off (f := Reg.Head.FMT) rfl (hi rfl rfl),
    ho.rd_off (f := Reg.Head.DEPTH) rfl (hi rfl rfl), ho.rd_off (f := Reg.TesHead.LRMAX) rfl (hi rfl rfl),
    ho.on_off (f := Reg.TesHead.INBAND) rfl (hi rfl rfl), layoutKept_head, nextCmd_maxLrate, layoutKept, slowLane_wr_layout hh,
    slowLane_only hh (nextCmd_only h s) rfl rfl]

/-- The camera has answered every read: it fits and step 6 writes LEN, or the start ends. -/
theorem readAnswered_last {h : Nat} (hh : h < 32) (data : Nat) (st : Start) (s : State) :
    readAnswered h 0x18 data st (nextCmd h s) =
      if cameraStatus s h st.eslver ≠ 0 then failStart h (cameraStatus s h st.eslver) (layoutKept h data s)
      else sendCmd h { use := .start, addr := 0x104, data := s.rd Reg.Head.HW h }
        ((layoutKept h data s).setHead h { (layoutKept h data s).head h with start := some { st with step := 6 } }) := by
  rw [← cameraStatus_layoutKept hh s data, ← (layoutKept_only h data s).rd_off (f := Reg.Head.HW) rfl (Head.field_has hh rfl rfl)]
  rfl

section
variable {h : Nat} (hh : h < 32) {s : State} {q : CamCmd} {st : Start} (hq : (s.head h).cmd = some q) (hu : q.use = .start) (hw : q.write = false)
  (hst : (s.head h).start = some st) (ha : q.addr = 0x18) (data : Nat)
include hh hq hu hw hst ha

theorem cmdrsp_misfit (hc : cameraStatus s h st.eslver ≠ 0) : Does (.statusCmdrsp h q.tag 0 data) [.one .eslHead h, .heads, .seq] (fun t =>
    t.rd Reg.EslHead.CAMLAYOUT h = data % 2 ^ Reg.EslHead.CAMLAYOUT.width ∧ (t.head h).start = none ∧
      t.seq = (s.complete 2 5 h (cameraStatus s h st.eslver)).seq) s := by
  have hi : Reg.EslHead.CAMLAYOUT.has h 0 = true := Head.field_has hh rfl rfl
  refine cmdrsp_read_does hh hq hu hw hst data ?_
  rw [ha, readAnswered_last hh, if_pos hc]
  have hf : Only [.heads, .seq] (layoutKept h data s) (failStart h (cameraStatus s h st.eslver) (layoutKept h data s)) :=
    failStart_law (Only.of_law rfl) (Has.covers rfl) (Frame.refl _ _)
  refine ⟨?_, failStart_start _ _ _, (failStart_seq _ _ _).trans (complete_seq_congr (Frame.seq (layoutKept_only h data s) (by simp [Covers])) _ _ _ _)⟩
  rw [hf.rd_off rfl hi]
  unfold layoutKept
  rw [State.rd_wr_same _ rfl _ hi]

theorem cmdrsp_fit (hc : cameraStatus s h st.eslver = 0) : Does (.statusCmdrsp h q.tag 0 data) [.one .eslHead h, .heads, .seq] (fun t =>
    t.rd Reg.EslHead.CAMLAYOUT h = data % 2 ^ Reg.EslHead.CAMLAYOUT.width ∧ (t.head h).start = some { st with step := 6 } ∧
      SendsNext (s.head h) { use := .start, addr := 0x104, data := s.rd Reg.Head.HW h } (t.head h)) s := by
  have hi : Reg.EslHead.CAMLAYOUT.has h 0 = true := Head.field_has hh rfl rfl
  refine cmdrsp_read_does hh hq hu hw hst data ?_
  rw [ha, readAnswered_last hh, if_neg (not_not.mpr hc)]
  refine ⟨?_, ?_, (sendCmd_sends h _ _).next h _ s ?_ ?_ ?_⟩
  · rw [(sendCmd_only h _ _).rd_off rfl hi, State.setHead_rd]
    unfold layoutKept
    rw [State.rd_wr_same _ rfl _ hi]
  · rw [sendCmd_start, State.setHead_head_same]
  all_goals rw [State.setHead_head_same, layoutKept_head]

end

end Sys2Proof.Machine
end

section
/-!
SUPPORT. HEAD_BRINGUP_REGS and RATE_CHANGE_RETRAIN (R144, R145, log entry 146).
-/
namespace Sys2Proof.Machine

-- One proof after the other: in one text with all that stands before, each proof in flight holds a stack of its own.
set_option deprecated.oldSectionVars true

/-! ### The reads of step 5 -/

/-- Every lane of a head is LOCKED. -/
theorem allLocked_iff (s : State) (h : Nat) : allLocked s h = true ↔ ∀ n ∈ bondLanes s h, s.rd Reg.Lane.STATE n = 3 := by
  simp [allLocked, State.laneState, lsLOCKED]

/-- The head once it reads the first register and the camera has answered some of the reads at once. -/
def bringupRead (h : Nat) (st : Start) (answers : List Nat) (s : State) : State :=
  answers.foldl (fun s d => answerRead h d s) (readReg h 0 (s.setHead h { s.head h with start := some { st with step := 5 } }))

section
variable {h : Nat} (hh : h < 32) {s : State}
include hh

theorem bringup_idle (hi : (s.head h).start = none ∨ (∃ st, (s.head h).start = some st ∧ 5 ≤ st.step) ∨
      ¬∀ n ∈ bondLanes s h, s.rd Reg.Lane.STATE n = 3) (a0 a1 a2 a3 a4 a5 n : Nat) :
    exec (.headBringupRegs h a0 a1 a2 a3 a4 a5 n) s = .next s := by
  rw [exec_headBringupRegs]
  unfold execHeadBringupRegs
  rw [within_lt hh]
  rw [← allLocked_iff] at hi
  cases hs : (s.head h).start with
  | none => rfl
  | some st =>
    refine if_pos ?_
    rcases hi with hi | ⟨st', hi, h5⟩ | hi
    · rw [hs] at hi
      cases hi
    · rw [hs] at hi
      injection hi with hi
      exact .inl (hi ▸ h5)
    · exact .inr (by simpa using hi)

section
variable {st : Start} (hs : (s.head h).start = some st) (h5 : st.step < 5) (hl : ∀ n ∈ bondLanes s h, s.rd Reg.Lane.STATE n = 3) (a0 a1 a2 a3 a4 a5 : Nat)
include hs h5 hl

theorem bringup_exec (n : Nat) : exec (.headBringupRegs h a0 a1 a2 a3 a4 a5 n) s = .next (bringupRead h st ([a0, a1, a2, a3, a4, a5].take n) s) := by
  rw [exec_headBringupRegs]
  unfold execHeadBringupRegs
  rw [within_lt hh, hs]
  exact if_neg (by simp [(allLocked_iff s h).mpr hl, h5])

theorem bringup_does (n : Nat) {P : State → Prop} (hP : P (bringupRead h st ([a0, a1, a2, a3, a4, a5].take n) s)) :
    Does (.headBringupRegs h a0 a1 a2 a3 a4 a5 n) [.one .eslHead h, .heads, .seq] P s :=
  Does.of_law (bringup_exec hh hs h5 hl a0 a1 a2 a3 a4 a5 n)
    (execHeadBringupRegs_law (Only.of_law rfl) (Has.covers rfl) (Covers.one (by simp)) (Frame.refl _ _)) hP

/-- The first read goes out. -/
theorem bringup_first : Does (.headBringupRegs h a0 a1 a2 a3 a4 a5 0) [.heads] (fun t => (t.head h).start = some { st with step := 5 } ∧
    Sends (s.head h) { use := .start, write := false, addr := 0 } (t.head h)) s := by
  refine ⟨_, bringup_exec hh hs h5 hl a0 a1 a2 a3 a4 a5 0, sendCmd_law (Only.of_law rfl) (Has.covers rfl)
    (setHead_law (Only.of_law rfl) (Has.covers rfl) (Frame.refl _ _)), ?_, ?_⟩
  · rw [List.take_zero]
    unfold bringupRead
    rw [List.foldl_nil]
    unfold readReg
    rw [sendCmd_start, State.setHead_head_same]
  · rw [List.take_zero]
    unfold bringupRead
    rw [List.foldl_nil]
    unfold readReg
    have hq := sendCmd_sends h { use := .start, write := false, addr := 0 } (s.setHead h { s.head h with start := some { st with step := 5 } })
    unfold Sends at hq ⊢
    rwa [State.setHead_head_same] at hq

omit hh hs h5 hl in
/-- One more register read at once is one more answer. -/
theorem bringupRead_succ {n : Nat} (hn : n < 6) : bringupRead h st ([a0, a1, a2, a3, a4, a5].take (n + 1)) s =
    answerRead h ([a0, a1, a2, a3, a4, a5].getD n 0) (bringupRead h st ([a0, a1, a2, a3, a4, a5].take n) s) := by
  have hg : [a0, a1, a2, a3, a4, a5][n]? = some ([a0, a1, a2, a3, a4, a5].getD n 0) := by simp [hn]
  unfold bringupRead
  rw [List.take_add_one, List.foldl_append, hg]
  rfl

end

/-- An answer to a read at once does what STATUS_CMDRSP does later. -/
theorem answerRead_exec {q : CamCmd} {st : Start} (hq : (s.head h).cmd = some q) (hu : q.use = .start) (hw : q.write = false)
    (hst : (s.head h).start = some st) (data : Nat) : exec (.statusCmdrsp h q.tag 0 data) s = .next (answerRead h data s) := by
  rw [cmdrsp_read hh hq hu hw hst]
  unfold answerRead
  rw [hq, hst]
  dsimp only
  rw [if_pos (by simp [hu, hw])]

omit hh in
/-- Without an outstanding read it does nothing. -/
theorem answerRead_idle (hi : (s.head h).cmd = none ∨ (s.head h).start = none ∨
    ∃ q, (s.head h).cmd = some q ∧ (q.use ≠ .start ∨ q.write = true)) (data : Nat) : answerRead h data s = s := by
  unfold answerRead
  split
  · next q st hq hst =>
    refine if_neg ?_
    rintro ⟨hu, hw⟩
    rcases hi with hi | hi | ⟨q', hi, hc⟩
    · rw [hq] at hi
      cases hi
    · rw [hst] at hi
      cases hi
    · rw [hq] at hi
      injection hi with hi
      subst hi
      rcases hc with hc | hc
      · exact hc hu
      · simp [hc] at hw
  · rfl

/-! ### The rate change -/

theorem retrain_idle (hr : (s.head h).reRate = false) : exec (.rateChangeRetrain h) s = .next s := by
  rw [exec_rateChangeRetrain]
  unfold execRateChangeRetrain
  rw [within_lt hh]
  exact if_pos (by rw [hr]; rfl)

/-- What a lane holds of the damper, with the addition of a rate change. -/
def laneMw (s : State) (n : Nat) : Nat := ((s.damper.held.filter fun g => g.cls == 2 && (g.id == n || g.id == 256 + n)).map (·.mw)).sum

/-- A lane trains anew at the new rate. -/
def retrain (s : State) (n : Nat) : State := trainFrom n 1 (s.setLane n { s.lane n with retained := false, short := false })

omit hh in
theorem retrain_other {m : Nat} (u : State) (n : Nat) (hn : n ≠ m) : SameLane m u (retrain u n) := by
  have ho : Only [.one .lane n, .lanes] u (retrain u n) := trainFrom_law (Only.of_law rfl) (Has.covers rfl) (Covers.one (by simp))
    (setLane_law (Only.of_law rfl) (Has.covers rfl) (Frame.refl _ _))
  refine SameLane.of_only ho (by simp [Covers, Ne.symm hn]) ?_
  unfold retrain
  rw [trainFrom_lane_ne _ hn, State.setLane_lane_ne _ _ _ hn]

/-- Lane n is in TRAINING at step 1. -/
def AtStepOne (n : Nat) (s : State) : Prop := (s.lane n).step = 1 ∧ s.rd Reg.Lane.STATE n = 2

omit hh in
theorem retrain_trains {m : Nat} (hm : m < 256) (u : State) : AtStepOne m (retrain u m) := ⟨trainFrom_step _ 1, trainFrom_state hm _ 1⟩

omit hh in
theorem retrain_keeps {m : Nat} (hm : m < 256) (u : State) (n : Nat) (hu : AtStepOne m u) : AtStepOne m (retrain u n) := by
  by_cases hn : n = m
  · subst hn
    exact retrain_trains hm u
  · obtain ⟨hstep, hstate⟩ := hu
    have hsame := retrain_other u n hn
    have hrd : (retrain u n).rd Reg.Lane.STATE m = u.rd Reg.Lane.STATE m := hsame.rd rfl (Lane.field_has hm rfl rfl) rfl
    exact ⟨by rw [hsame.lane]; exact hstep, hrd.trans hstate⟩

/-- The lanes of a head that wait in TRAINING. -/
def waitingLanes (s : State) (h : Nat) : List Nat := (bondLanes s h).filter fun n => s.laneState n == lsTRAINING && (s.lane n).step == 0

theorem retrain_exec (hr : (s.head h).reRate = true) (hg : ∀ n ∈ bondLanes s h, wakeMw s n ≤ laneMw s n) :
    exec (.rateChangeRetrain h) s = .next (((waitingLanes s h).foldl retrain s).setHead h
      { ((waitingLanes s h).foldl retrain s).head h with reRate := false }) := by
  have hs : ((bondLanes s h).filter fun n => decide (laneMw s n < wakeMw s n)) = [] := by
    rw [List.filter_eq_nil_iff]
    intro n hn
    simpa using hg n hn
  rw [exec_rateChangeRetrain]
  unfold execRateChangeRetrain
  rw [within_lt hh, if_neg (by simp [hr])]
  unfold laneMw at hs
  dsimp only
  rw [hs]
  rfl

theorem retrain_does (hr : (s.head h).reRate = true) (hg : ∀ n ∈ bondLanes s h, wakeMw s n ≤ laneMw s n) :
    Does (.rateChangeRetrain h) [.all .lane, .grp 21, .damper, .heads, .lanes, .tokens] (fun t => (t.head h).reRate = false ∧
      ∀ n ∈ bondLanes s h, n < 256 → s.rd Reg.Lane.STATE n = 2 → (s.lane n).step = 0 → AtStepOne n t) s := by
  refine Does.of_law (retrain_exec hh hr hg) (execRateChangeRetrain_law (Only.of_law rfl) (Has.covers rfl) (Frame.refl _ _))
    ⟨by rw [State.setHead_head_same], fun n hn hlt hst h0 => ?_⟩
  have hw : n ∈ waitingLanes s h := by simp [waitingLanes, hn, State.laneState, hst, h0, lsTRAINING]
  have ht : AtStepOne n ((waitingLanes s h).foldl retrain s) :=
    foldl_reaches (fun u k hk => retrain_other u k hk) hw (fun u _ => retrain_trains hlt u) fun u k hu => retrain_keeps hlt u k hu
  exact ⟨ht.1, (State.setHead_rd _ _ _ _ _).trans ht.2⟩

end

end Sys2Proof.Machine
end

section
/-!
PROOF. Camera commands (O29).
-/
namespace Sys2Proof.Machine

-- One proof after the other: in one text with all that stands before, each proof in flight holds a stack of its own.
set_option deprecated.oldSectionVars true

/-- Settles O29: answers and timeouts by the purpose of the outstanding CMD; a read of step 5 that is answered at once is the
answer that comes later, so each clause about a read is proved once. -/
theorem cameraCommands : Obligations.CameraCommands := by
  intro h s hh
  refine ⟨fun tag result data => ⟨fun ht => cmdrsp_stray hh ht result data, ?camreg, ?lrate, ?refused, ?stop⟩, fun q addr hq hu => cmdto_camreg hh hq hu,
    fun q hq hu => cmdto_start hh hq hu, fun q hq hu => cmdto_stop hh hq hu, cmdto_idle hh, bringup_idle hh, ?bringup, ?reads,
    retrain_idle hh, retrain_does hh⟩
  case camreg =>
    rintro q addr hq rfl hu hw
    exact cmdrsp_camreg hh hq hu hw data
  case lrate =>
    rintro q addr hq rfl hu hw ha rfl
    exact cmdrsp_lrate hh hq hu hw ha data
  case refused =>
    rintro q hq rfl hu hr
    exact cmdrsp_refuses hh hq hu hr data
  case stop =>
    rintro q hq rfl hu
    exact cmdrsp_stop hh hq hu result data
  case bringup =>
    intro st a0 a1 a2 a3 a4 a5 hs h5 hl
    refine ⟨bringup_first hh hs h5 hl a0 a1 a2 a3 a4 a5, fun n hn => bringup_does hh hs h5 hl a0 a1 a2 a3 a4 a5 n ⟨?_, fun hi => ?_⟩⟩
    · intro q st' hq hu hw hst
      rw [bringup_exec hh hs h5 hl, bringupRead_succ _ _ _ _ _ _ hn]
      exact (answerRead_exec hh hq hu hw hst _).symm
    · rw [bringup_exec hh hs h5 hl, bringupRead_succ _ _ _ _ _ _ hn, answerRead_idle hi]
  case reads =>
    intro q st data hq hu hw hst
    refine ⟨fun ha => cmdrsp_eslver hh hq hu hw hst ha data, fun ha => cmdrsp_field hh hq hu hw hst ha rfl rfl (Head.field_has hh rfl rfl) rfl rfl,
      fun ha => cmdrsp_field hh hq hu hw hst ha rfl rfl (Head.field_has hh rfl rfl) rfl rfl,
      fun ha => cmdrsp_field hh hq hu hw hst ha rfl rfl (Head.field_has hh rfl rfl) rfl rfl,
      fun ha => cmdrsp_maxLrate hh hq hu hw hst ha data, fun ha => ?_⟩
    by_cases hc : cameraStatus s h st.eslver = 0
    · exact (cmdrsp_fit hh hq hu hw hst ha data hc).imp fun t ⟨h1, h2⟩ => ⟨h1, fun hn => absurd hc hn, fun _ => h2⟩
    · exact (cmdrsp_misfit hh hq hu hw hst ha data hc).imp fun t ⟨h1, h2⟩ => ⟨h1, fun _ => h2, fun hn => absurd hn hc⟩

end Sys2Proof.Machine
end

section
/-!
SUPPORT. Exposure-set downloads: what a head's TES state keeps while a start goes on, how a download ends, XSETACK and XSETTO (R131 to
R133, R144, R212, R213).
-/
namespace Sys2Proof.Machine

-- One proof after the other: in one text with all that stands before, each proof in flight holds a stack of its own.
set_option deprecated.oldSectionVars true

/-- What TES knows of a head's sets, whatever download follows. -/
def KeepsSets (e x : TesState) : Prop :=
  (x.acked, x.images, x.expns, x.ready, x.byAck, x.pendLong) = (e.acked, e.images, e.expns, e.ready, e.byAck, e.pendLong)

namespace KeepsSets

variable {e x : TesState}

theorem refl (e : TesState) : KeepsSets e e := rfl

theorem of_eq (h : x = e) : KeepsSets e x := h ▸ refl e

theorem acked (h : KeepsSets e x) : x.acked = e.acked := congrArg Prod.fst h

theorem images (h : KeepsSets e x) : x.images = e.images := congrArg (fun p => p.2.1) h

theorem expns (h : KeepsSets e x) : x.expns = e.expns := congrArg (fun p => p.2.2.1) h

theorem ready (h : KeepsSets e x) : x.ready = e.ready := congrArg (fun p => p.2.2.2.1) h

theorem byAck (h : KeepsSets e x) : x.byAck = e.byAck := congrArg (fun p => p.2.2.2.2.1) h

theorem pendLong (h : KeepsSets e x) : x.pendLong = e.pendLong := congrArg (fun p => p.2.2.2.2.2) h

end KeepsSets

/-! ### Step 7 of a start -/

section
variable {h : Nat} {s : State}

theorem startDownload_tes (set : Nat) (img : List Word) (start : Bool) : (startDownload h set img start s).tesOf h =
    { s.tesOf h with dl := some { set := set, xtag := (s.tesOf h).xtag, img := img, start := start }, xtag := ((s.tesOf h).xtag + 1) % 256 } :=
  State.setTes_tesOf_same _ _ _

theorem startDownload_start (set : Nat) (img : List Word) (start : Bool) : ((startDownload h set img start s).head h).start = (s.head h).start := by
  unfold startDownload sendSeq
  rw [State.setHead_head_same]
  rfl

theorem startSets_none (hs : (s.head h).start = none) : startSets h s = s := by
  unfold startSets
  rw [hs]

section
variable {st : Start} (hs : (s.head h).start = some st)
include hs

theorem startSets_waits (hd : (s.tesOf h).dl ≠ none) : startSets h s = s.setHead h { s.head h with start := some { st with step := 7 } } := by
  unfold startSets
  rw [hs]
  exact if_pos (Option.isSome_iff_ne_none.mpr hd)

theorem startSets_free (hd : (s.tesOf h).dl = none) : startSets h s = match st.sets with
    | [] => startRun h s
    | x :: xs => startDownload h x (Tbl.get (fun _ => []) (s.tesOf h).images x) true
        (s.setHead h { s.head h with start := some { st with step := 7, sets := xs } }) := by
  unfold startSets
  rw [hs]
  exact if_neg (by rw [hd]; decide)

theorem startRun_slow (hl : slowLane s h = true) : startRun h s = failStart h stBOUNDS s := by
  unfold startRun
  rw [hs]
  exact if_pos hl

theorem startRun_runs (hl : slowLane s h = false) : ((startRun h s).head h).start = some { st with step := 8 } := by
  unfold startRun
  rw [hs]
  dsimp only
  rw [if_neg (by simp [hl]), sendCmd_start, State.setHead_head_same]

end

theorem startRun_tes (h n : Nat) (s : State) : (startRun h s).tesOf n = s.tesOf n :=
  Only.tesOf (l := [.heads, .seq]) (startRun_law (Only.of_law rfl) (Has.covers rfl) (Frame.refl _ _)) (by simp [Covers]) n

theorem startSets_keeps (h : Nat) (s : State) : KeepsSets (s.tesOf h) ((startSets h s).tesOf h) := by
  cases hs : (s.head h).start with
  | none => exact .of_eq (by rw [startSets_none hs])
  | some st =>
    by_cases hd : (s.tesOf h).dl = none
    · rw [startSets_free hs hd]
      cases st.sets with
      | nil => exact .of_eq (startRun_tes h h s)
      | cons x xs =>
        dsimp only
        rw [startDownload_tes]
        rfl
    · rw [startSets_waits hs hd]
      exact .refl _

/-- A start of the head waits in step 7 for the download to end. -/
def WaitsSets (s : State) (h : Nat) : Prop := ∃ st, (s.head h).start = some st ∧ st.step = 7

theorem resumeSets_idle (hw : ¬ WaitsSets s h) : resumeSets h s = s := by
  unfold resumeSets
  split
  · next st hs => exact if_neg fun h7 => hw ⟨st, hs, h7⟩
  · rfl

theorem resumeSets_waits (hw : WaitsSets s h) : resumeSets h s = startSets h s := by
  obtain ⟨st, hs, h7⟩ := hw
  unfold resumeSets
  rw [hs]
  exact if_pos h7

theorem resumeSets_keeps (h : Nat) (s : State) : KeepsSets (s.tesOf h) ((resumeSets h s).tesOf h) := by
  by_cases hw : WaitsSets s h
  · rw [resumeSets_waits hw]
    exact startSets_keeps h s
  · exact .of_eq (by rw [resumeSets_idle hw])

theorem resumeSets_only (h : Nat) (s : State) : Only [.heads, .seq, .tes] s (resumeSets h s) :=
  resumeSets_law (Only.of_law rfl) (Has.covers rfl) (Frame.refl _ _)

theorem startSets_only (h : Nat) (s : State) : Only [.heads, .seq, .tes] s (startSets h s) :=
  startSets_law (Only.of_law rfl) (Has.covers rfl) (Frame.refl _ _)

end

/-! ### ARM blocks -/

/-- An ARM block goes out, or nothing happens. -/
theorem armSet_cases (h : Nat) (s : State) :
    armSet h s = s ∨ ∃ w k, armSet h s = sendTrig h w (s.setTes h { s.tesOf h with arm := some k }) :=
  (ite_eq_or_eq _ _ _).symm.imp id fun he => ⟨_, _, he⟩

theorem sendTrig_tes (h : Nat) (w : Word) (n : Nat) (s : State) : (sendTrig h w s).tesOf n = s.tesOf n := rfl

theorem sendTrig_start (h : Nat) (w : Word) (s : State) : ((sendTrig h w s).head h).start = (s.head h).start := by
  unfold sendTrig
  rw [State.setHead_head_same]

/-- The ARM block that names the pending set changes what TES keeps of the head only by the number it has named. -/
theorem armSet_tes (h : Nat) (s : State) : (armSet h s).tesOf h = { s.tesOf h with arm := ((armSet h s).tesOf h).arm } := by
  rcases armSet_cases h s with he | ⟨w, k, he⟩
  · rw [he]
  · rw [he, sendTrig_tes, State.setTes_tesOf_same]

theorem armSet_tes_ne {h n : Nat} (hn : h ≠ n) (s : State) : (armSet h s).tesOf n = s.tesOf n := by
  rcases armSet_cases h s with he | ⟨w, k, he⟩
  · rw [he]
  · rw [he, sendTrig_tes, State.setTes_tesOf_ne _ _ _ hn]

theorem armSet_start (h : Nat) (s : State) : ((armSet h s).head h).start = (s.head h).start := by
  rcases armSet_cases h s with he | ⟨w, k, he⟩
  · rw [he]
  · rw [he, sendTrig_start]
    rfl

theorem armSet_only (h : Nat) (s : State) : Only [.heads, .tes] s (armSet h s) := armSet_law (Only.of_law rfl) (Has.covers rfl) (Frame.refl _ _)

/-! ### A download that fails -/

/-- The pending set is cleared. -/
def TesState.unpended (e : TesState) : TesState :=
  { e with dl := none, pendLong := false, ready := none, reached := false, xlate := false, arm := none }

/-- TES.XSET has failed: its pending set is cleared. -/
def xsetFailed (h st : Nat) (s : State) : State :=
  ((s.setTes h (s.tesOf h).unpended).wr Reg.TesHead.XPV h 0).complete 4 3 h st

section
variable {h : Nat} {s : State} {d : Download}

theorem failDownload_start (hd : d.start = true) (st : Nat) :
    failDownload h st d s = failStart h st (s.setTes h { s.tesOf h with dl := none }) := if_pos hd

theorem failDownload_xset (hd : d.start = false) (st : Nat) : failDownload h st d s = resumeSets h (xsetFailed h st s) :=
  if_neg (by rw [hd]; decide)

theorem xsetFailed_tes (h st : Nat) (s : State) : (xsetFailed h st s).tesOf h = (s.tesOf h).unpended := by
  have hc : (xsetFailed h st s).tesOf h = ((s.setTes h (s.tesOf h).unpended).wr Reg.TesHead.XPV h 0).tesOf h := rfl
  rw [hc, State.wr_tesOf, State.setTes_tesOf_same]

theorem xsetFailed_head (h st : Nat) (s : State) : (xsetFailed h st s).head h = s.head h := by
  unfold xsetFailed
  rw [complete_head, State.wr_head]
  rfl

theorem failDownload_only (h st : Nat) (d : Download) (s : State) : Only [.heads, .seq, .tes, .one .tesHead h] s (failDownload h st d s) :=
  failDownload_law (Only.of_law rfl) (Has.covers rfl) (Covers.one (by simp)) (Frame.refl _ _)

/-- A download of head h has failed with a status. -/
def FailedWith (h st : Nat) (d : Download) (s t : State) : Prop :=
  (t.tesOf h).acked = (s.tesOf h).acked ∧ (t.tesOf h).images = (s.tesOf h).images ∧
    (if d.start = true then (t.tesOf h).dl = none ∧ (t.head h).start = none ∧ t.seq = (s.complete 2 5 h st).seq
     else t.rd Reg.TesHead.XPV h = 0 ∧ (t.tesOf h).pendLong = false ∧ (¬WaitsSets s h → (t.tesOf h).dl = none ∧ t.seq = (s.complete 4 3 h st).seq))

theorem failDownload_fails (hh : h < 32) (st : Nat) (d : Download) (s : State) : FailedWith h st d s (failDownload h st d s) := by
  unfold FailedWith
  cases hd : d.start with
  | true =>
    have ht : (failDownload h st d s).tesOf h = { s.tesOf h with dl := none } := by
      rw [failDownload_start hd]
      exact State.setTes_tesOf_same _ _ _
    rw [ht, if_pos rfl, failDownload_start hd]
    exact ⟨rfl, rfl, rfl, failStart_start _ _ _, (failStart_seq _ _ _).trans (complete_seq_congr (State.setTes_seq _ _ _) _ _ _ _)⟩
  | false =>
    have hi : Reg.TesHead.XPV.has h 0 = true := Head.field_has hh rfl rfl
    have hk := resumeSets_keeps h (xsetFailed h st s)
    rw [xsetFailed_tes] at hk
    rw [if_neg (by decide), failDownload_xset hd]
    refine ⟨hk.acked, hk.images, ?_, hk.pendLong, fun hw => ?_⟩
    · rw [(resumeSets_only h _).rd_off rfl hi]
      unfold xsetFailed
      rw [(complete_only _ _ _ _ _).rd_off rfl hi, State.rd_wr_same _ rfl _ hi]
      rfl
    · have hw' : ¬ WaitsSets (xsetFailed h st s) h := by
        unfold WaitsSets
        rw [xsetFailed_head]
        exact hw
      rw [resumeSets_idle hw']
      exact ⟨by rw [xsetFailed_tes]; rfl, complete_seq_congr ((State.wr_seq _ _ _ _).trans (State.setTes_seq _ _ _)) 4 3 h st⟩

end

/-! ### XSETACK -/

/-- A set that the camera has acknowledged. -/
theorem took_acked (e : TesState) (d : Download) : (e.took d).acked.contains d.set = true := by
  unfold TesState.took
  dsimp only
  split
  · assumption
  · simp

theorem took_image (e : TesState) (d : Download) : Tbl.get (fun _ => []) (e.took d).images d.set = d.img := Tbl.get_set_same _ _ _

theorem took_expns (e : TesState) (d : Download) : Tbl.get (fun _ => 0) (e.took d).expns d.set = bits (d.img.getD 0 0) 31 0 := Tbl.get_set_same _ _ _

/-- The set of a download is acknowledged, with its image and its EXPNS. -/
def Acknowledged (d : Download) (e : TesState) : Prop :=
  e.acked.contains d.set = true ∧ Tbl.get (fun _ => []) e.images d.set = d.img ∧ Tbl.get (fun _ => 0) e.expns d.set = bits (d.img.getD 0 0) 31 0

theorem Acknowledged.keep {d : Download} {e x : TesState} (h : Acknowledged d e) (hk : KeepsSets e x) : Acknowledged d x := by
  unfold Acknowledged
  rw [hk.acked, hk.images, hk.expns]
  exact h

theorem took_acknowledged (e : TesState) (d : Download) : Acknowledged d (e.took d) := ⟨took_acked e d, took_image e d, took_expns e d⟩

section
variable {h : Nat} (hh : h < 32) {s : State}
include hh

theorem xsetack_idle {set xtag : Nat} (result : Nat)
    (hi : (s.tesOf h).dl = none ∨ ∃ d, (s.tesOf h).dl = some d ∧ (d.xtag ≠ xtag ∨ d.set ≠ set)) :
    exec (.xsetackReceive h set xtag result) s = .next s := by
  rw [exec_xsetackReceive]
  unfold execXsetackReceive
  rw [within_lt hh]
  dsimp only
  rcases hi with hd | ⟨d, hd, hm⟩ <;> rw [hd]
  exact if_pos hm

section
variable {d : Download} (hd : (s.tesOf h).dl = some d)
include hd

theorem xsetack_refused {result : Nat} (hr : result ≠ 0) :
    Does (.xsetackReceive h d.set d.xtag result) [.heads, .seq, .tes, .one .tesHead h] (FailedWith h 9 d s) s := by
  refine ⟨_, ?_, failDownload_only h 9 d s, failDownload_fails hh 9 d s⟩
  rw [exec_xsetackReceive]
  unfold execXsetackReceive
  rw [within_lt hh]
  dsimp only
  rw [hd]
  dsimp only
  rw [if_neg (by simp), if_pos hr]
  rfl

/-- A download of TES.XSET is acknowledged, and the pending set is ready. -/
def xsetReady (h : Nat) (d : Download) (s : State) : State :=
  armSet h (s.setTes h { (s.tesOf h).took d with ready := some s.raw, byAck := true })

theorem xsetack_xset (hs : d.start = false) : exec (.xsetackReceive h d.set d.xtag 0) s = .next (resumeSets h (xsetReady h d s)) := by
  rw [exec_xsetackReceive]
  unfold execXsetackReceive
  rw [within_lt hh]
  dsimp only
  rw [hd]
  dsimp only
  rw [if_neg (by simp), if_neg (by decide), if_neg (by simp [hs])]
  rfl

theorem xsetack_start (hs : d.start = true) :
    exec (.xsetackReceive h d.set d.xtag 0) s = .next (startSets h (s.setTes h ((s.tesOf h).took d))) := by
  rw [exec_xsetackReceive]
  unfold execXsetackReceive
  rw [within_lt hh]
  dsimp only
  rw [hd]
  dsimp only
  rw [if_neg (by simp), if_neg (by decide), if_pos hs]

omit hh hd in
theorem xsetReady_tes (h : Nat) (d : Download) (s : State) : (xsetReady h d s).tesOf h =
    { (s.tesOf h).took d with ready := some s.raw, byAck := true, arm := ((xsetReady h d s).tesOf h).arm } := by
  have ha := armSet_tes h (s.setTes h { (s.tesOf h).took d with ready := some s.raw, byAck := true })
  rw [State.setTes_tesOf_same] at ha
  exact ha

omit hh hd in
theorem xsetReady_start (h : Nat) (d : Download) (s : State) : ((xsetReady h d s).head h).start = (s.head h).start := armSet_start h _

/-- The pending set of TES.XSET is ready; the download has ended unless a start goes on with the next. -/
theorem xsetack_ready (hs : d.start = false) : Does (.xsetackReceive h d.set d.xtag 0) [.heads, .seq, .tes] (fun t =>
    Acknowledged d (t.tesOf h) ∧ (t.tesOf h).ready = some s.raw ∧ (t.tesOf h).byAck = true ∧ (¬WaitsSets s h → (t.tesOf h).dl = none)) s := by
  have hk := resumeSets_keeps h (xsetReady h d s)
  have ht := xsetReady_tes h d s
  refine ⟨_, xsetack_xset hh hd hs, ?_, ?_, ?_, ?_, fun hw => ?_⟩
  · refine resumeSets_law (Only.of_law rfl) (Has.covers rfl) (armSet_law (Only.of_law rfl) (Has.covers rfl)
      (setTes_law (Only.of_law rfl) (Has.covers rfl) (Frame.refl _ _)))
  · refine Acknowledged.keep ?_ hk
    rw [ht]
    exact took_acknowledged _ d
  · rw [hk.ready, ht]
  · rw [hk.byAck, ht]
  · have hw' : ¬ WaitsSets (xsetReady h d s) h := by
      unfold WaitsSets
      rw [xsetReady_start]
      exact hw
    rw [resumeSets_idle hw', ht]
    rfl

/-- The download of a start is acknowledged, and the start goes on. -/
theorem xsetack_startSets (hs : d.start = true) {P : State → Prop} (hP : P (startSets h (s.setTes h ((s.tesOf h).took d)))) :
    Does (.xsetackReceive h d.set d.xtag 0) [.heads, .seq, .tes] (fun t => Acknowledged d (t.tesOf h) ∧ P t) s := by
  refine ⟨_, xsetack_start hh hd hs, startSets_law (Only.of_law rfl) (Has.covers rfl) (setTes_law (Only.of_law rfl) (Has.covers rfl) (Frame.refl _ _)), ?_, hP⟩
  refine Acknowledged.keep ?_ (startSets_keeps h _)
  rw [State.setTes_tesOf_same]
  exact took_acknowledged _ d

end

end

end Sys2Proof.Machine
end

section
/-!
SUPPORT. How a start goes on after a download, and the timeout of a download (R133, R144, Table 3-9).
-/
namespace Sys2Proof.Machine

-- One proof after the other: in one text with all that stands before, each proof in flight holds a stack of its own.
set_option deprecated.oldSectionVars true

section
variable {h : Nat} {s : State} {st : Start} (hs : (s.head h).start = some st) (hd : (s.tesOf h).dl = none)
include hs hd

/-- The next set in use is downloaded. -/
theorem startSets_next {x : Nat} {xs : List Nat} (hx : st.sets = x :: xs) :
    ((startSets h s).head h).start = some { st with step := 7, sets := xs } ∧ ((startSets h s).tesOf h).dl =
      some { set := x, xtag := (s.tesOf h).xtag, img := Tbl.get (fun _ => []) ((startSets h s).tesOf h).images x, start := true } := by
  rw [(startSets_keeps h s).images, startSets_free hs hd, hx]
  dsimp only
  rw [startDownload_start, startDownload_tes, State.setHead_head_same]
  exact ⟨rfl, rfl⟩

/-- After the last set the start runs the camera, unless a lane is too slow. -/
theorem startSets_last (hx : st.sets = []) : ((startSets h s).tesOf h).dl = none ∧
    if slowLane s h = true then ((startSets h s).head h).start = none ∧ (startSets h s).seq = (s.complete 2 5 h 2).seq
    else ((startSets h s).head h).start = some { st with step := 8 } := by
  have hf : startSets h s = startRun h s := by rw [startSets_free hs hd, hx]
  rw [hf]
  refine ⟨by rw [← hd]; exact congrArg TesState.dl (startRun_tes h h s), ?_⟩
  cases hl : slowLane s h with
  | true =>
    rw [if_pos rfl, startRun_slow hs hl]
    exact ⟨failStart_start _ _ _, failStart_seq _ _ _⟩
  | false =>
    rw [if_neg (by decide)]
    exact startRun_runs hs hl

end

section
variable {h : Nat} (hh : h < 32) {s : State}
include hh

/-- The download of a start is acknowledged: the start goes on with the next set or with step 8. -/
theorem xsetack_goesOn {d : Download} (hd : (s.tesOf h).dl = some d) (hs : d.start = true) :
    Does (.xsetackReceive h d.set d.xtag 0) [.heads, .seq, .tes] (fun t => Acknowledged d (t.tesOf h) ∧
      (∀ st x xs, (s.head h).start = some st → st.sets = x :: xs → (t.head h).start = some { st with step := 7, sets := xs } ∧ (t.tesOf h).dl =
        some { set := x, xtag := (s.tesOf h).xtag, img := Tbl.get (fun _ => []) (t.tesOf h).images x, start := true }) ∧
      ∀ st, (s.head h).start = some st → st.sets = [] → (t.tesOf h).dl = none ∧
        if slowLane s h = true then (t.head h).start = none ∧ t.seq = (s.complete 2 5 h 2).seq else (t.head h).start = some { st with step := 8 }) s := by
  have ht : (s.setTes h ((s.tesOf h).took d)).tesOf h = (s.tesOf h).took d := State.setTes_tesOf_same _ _ _
  have hn : ((s.setTes h ((s.tesOf h).took d)).tesOf h).dl = none := by
    rw [ht]
    rfl
  refine xsetack_startSets hh hd hs ⟨fun st x xs hst hx => ?_, fun st hst hx => ?_⟩
  · have hg := startSets_next (s := s.setTes h ((s.tesOf h).took d)) hst hn hx
    rwa [congrArg TesState.xtag ht] at hg
  · exact startSets_last (s := s.setTes h ((s.tesOf h).took d)) hst hn hx

/-! ### XSETTO -/

theorem xsetto_idle (hd : (s.tesOf h).dl = none) : exec (.xsettoExpiry h) s = .next s := by
  rw [exec_xsettoExpiry]
  unfold execXsettoExpiry
  rw [within_lt hh]
  dsimp only
  rw [hd]

section
variable {d : Download} (hd : (s.tesOf h).dl = some d)
include hd

/-- The first missing answer repeats the download with the same XTAG. -/
theorem xsetto_repeats (ha : d.again = false) : Does (.xsettoExpiry h) [.heads, .tes] (fun t =>
    t.tesOf h = { s.tesOf h with dl := some { d with again := true } } ∧ (t.head h).sent = xsetBlocks d.set d.xtag d.img) s := by
  refine ⟨sendSeq h (xsetBlocks d.set d.xtag d.img) (s.setTes h { s.tesOf h with dl := some { d with again := true } }), ?_,
    sendSeq_law (Only.of_law rfl) (Has.covers rfl) (setTes_law (Only.of_law rfl) (Has.covers rfl) (Frame.refl _ _)), State.setTes_tesOf_same _ _ _, ?_⟩
  · rw [exec_xsettoExpiry]
    unfold execXsettoExpiry
    rw [within_lt hh]
    dsimp only
    rw [hd]
    exact if_pos (by rw [ha]; rfl)
  · unfold sendSeq
    rw [State.setHead_head_same]

/-- The second is counted and ends it. -/
theorem xsetto_fails (ha : d.again = true) : Does (.xsettoExpiry h) [.heads, .seq, .tes, .one .tesHead h, .one .eslHead h] (fun t =>
    FailedWith h 8 d s t ∧ CountedBy Reg.EslHead.XSNACKCNT h 1 s t) s := by
  have hi : Reg.EslHead.XSNACKCNT.has h 0 = true := Head.field_has hh rfl rfl
  have he : exec (.xsettoExpiry h) s = .next (failDownload h 8 d (s.sat Reg.EslHead.XSNACKCNT h 1)) := by
    rw [exec_xsettoExpiry]
    unfold execXsettoExpiry
    rw [within_lt hh]
    dsimp only
    rw [hd]
    exact if_neg (by rw [ha]; decide)
  refine Does.of_law he (execXsettoExpiry_law (Only.of_law rfl) (Has.covers rfl) (Covers.one (by simp)) (Covers.one (by simp)) (Frame.refl _ _)) ⟨?_, ?_⟩
  · have hf := failDownload_fails hh 8 d (s.sat Reg.EslHead.XSNACKCNT h 1)
    have hq : ∀ u o st, ((s.sat Reg.EslHead.XSNACKCNT h 1).complete u o h st).seq = (s.complete u o h st).seq := fun u o st =>
      complete_seq_congr (State.wr_seq _ _ _ _) u o h st
    unfold FailedWith WaitsSets at hf ⊢
    rwa [State.sat_tesOf, State.sat_head, hq, hq] at hf
  · exact (CountedBy.of_sat rfl hi).then_rd ((failDownload_only h 8 d _).rd_off rfl hi)

end

end

end Sys2Proof.Machine
end

section
/-!
SUPPORT. Commitment of triggers: what committing one trigger leaves of the head, of the other heads, and the walk over the heads of a
schedule (R204, R206, R212, R340, log entry 142).
-/
namespace Sys2Proof.Machine

-- One proof after the other: in one text with all that stands before, each proof in flight holds a stack of its own.
set_option deprecated.oldSectionVars true

/-! ### The set of a trigger -/

/-- What TES keeps of a head's triggers when only its pending set changes. -/
def KeepsTriggers (e x : TesState) : Prop := x.queue = e.queue ∧ x.due = e.due

theorem KeepsTriggers.queue {e x : TesState} (h : KeepsTriggers e x) : x.queue = e.queue := h.1

theorem KeepsTriggers.due {e x : TesState} (h : KeepsTriggers e x) : x.due = e.due := h.2

theorem lateRow_tes (cseq lseq n : Nat) (s : State) : (lateRow cseq lseq s).tesOf n = s.tesOf n :=
  Only.tesOf (l := [.seq]) (lateRow_law (Only.of_law rfl) (Has.covers rfl) (Frame.refl _ _)) (by simp [Covers]) n

theorem complete_tes (unit op inst st n : Nat) (s : State) : (s.complete unit op inst st).tesOf n = s.tesOf n := rfl

theorem wrAll_tesOf (s : State) (i : Nat) (l : List (Field × Nat)) (n : Nat) : (s.wrAll i l).tesOf n = s.tesOf n := by
  unfold State.tesOf
  rw [State.wrAll_tes]

theorem tesCause_tes (h b n : Nat) (s : State) : (tesCause h b s).tesOf n = s.tesOf n := (tesCause_only h b s).tesOf (by simp [Covers]) n

section
variable (h lseq : Nat) (s : State)

/-- The pending set takes effect before TES.XSET completes. -/
def setTaken (h : Nat) (s : State) : State :=
  (s.wrAll h [(Reg.TesHead.XCUR, s.rd Reg.TesHead.XPEND h), (Reg.TesHead.XPV, 0)]).setTes h
    { s.tesOf h with pendLong := false, ready := none, reached := false, xlate := false, arm := none }

theorem takeSet_tes (n : Nat) : (takeSet h lseq s).tesOf n = (setTaken h s).tesOf n := by
  unfold takeSet
  dsimp only
  split
  · rfl
  · rw [complete_tes]
    split
    · split
      · rw [lateRow_tes]
        rfl
      · rfl
    · rfl

theorem takeSet_keeps : KeepsTriggers (s.tesOf h) ((takeSet h lseq s).tesOf h) := by
  rw [takeSet_tes]
  unfold setTaken
  rw [State.setTes_tesOf_same]
  exact ⟨rfl, rfl⟩

theorem takeSet_tes_ne {n : Nat} (hn : h ≠ n) : (takeSet h lseq s).tesOf n = s.tesOf n := by
  rw [takeSet_tes]
  unfold setTaken
  rw [State.setTes_tesOf_ne _ _ _ hn, wrAll_tesOf]

end

section
variable (h num lseq issue at_ : Nat) (pos : Int) (s : State)

/-- The pending set stays out of reach, takes effect, waits, or is counted late. -/
theorem settleSet_cases : settleSet h num lseq issue at_ pos s = s ∨
    settleSet h num lseq issue at_ pos s = takeSet h lseq (s.setTes h { s.tesOf h with reached := true }) ∨
    settleSet h num lseq issue at_ pos s = s.setTes h { s.tesOf h with reached := true } ∨
    settleSet h num lseq issue at_ pos s =
      tesCause h 3 ((s.setTes h { s.tesOf h with reached := true, xlate := true }).sat Reg.TesHead.XLATECNT h 1) := by
  generalize he : settleSet h num lseq issue at_ pos s = t
  unfold settleSet at he
  dsimp only at he
  split at he
  · exact .inl he.symm
  · split at he
    · exact .inr (.inl he.symm)
    · split at he
      · exact .inr (.inr (.inl he.symm))
      · exact .inr (.inr (.inr he.symm))

theorem settleSet_keeps : KeepsTriggers (s.tesOf h) ((settleSet h num lseq issue at_ pos s).tesOf h) := by
  rcases settleSet_cases h num lseq issue at_ pos s with he | he | he | he <;> rw [he]
  · exact ⟨rfl, rfl⟩
  · have hk := takeSet_keeps h lseq (s.setTes h { s.tesOf h with reached := true })
    rw [State.setTes_tesOf_same] at hk
    exact ⟨hk.queue, hk.due⟩
  · rw [State.setTes_tesOf_same]
    exact ⟨rfl, rfl⟩
  · rw [tesCause_tes, State.sat_tesOf, State.setTes_tesOf_same]
    exact ⟨rfl, rfl⟩

theorem settleSet_tes_ne {n : Nat} (hn : h ≠ n) : (settleSet h num lseq issue at_ pos s).tesOf n = s.tesOf n := by
  rcases settleSet_cases h num lseq issue at_ pos s with he | he | he | he <;> rw [he]
  · rw [takeSet_tes_ne h lseq _ hn, State.setTes_tesOf_ne _ _ _ hn]
  · rw [State.setTes_tesOf_ne _ _ _ hn]
  · rw [tesCause_tes, State.sat_tesOf, State.setTes_tesOf_ne _ _ _ hn]

end

/-! ### One head -/

/-- The head with its set settled, when the trigger joins its queue. -/
def setSettled (h at_ : Nat) (s : State) : State :=
  settleSet h ((s.rd Reg.TesHead.TRIGNUM h + (s.tesOf h).queue.length) % 65536) ((s.rd Reg.Head.LSEQNEXT h + (s.tesOf h).queue.length) % 2 ^ 40)
    (at_ - advance s h) at_ (recordPos s h (s.rd Reg.TesHead.XCUR h) at_) s

/-- The trigger that a head commits. -/
def trigFor (h at_ time hop : Nat) (us : Bool) (s : State) : Trig :=
  { at_ := at_, issue := at_ - advance s h, time := time, pos := recordPos (setSettled h at_ s) h ((setSettled h at_ s).rd Reg.TesHead.XCUR h) at_,
    spd := (setSettled h at_ s).spdTag (at_ + 8 * expnsOf (setSettled h at_ s) h ((setSettled h at_ s).rd Reg.TesHead.XCUR h)),
    xset := (setSettled h at_ s).rd Reg.TesHead.XCUR h, undersamp := us || ((setSettled h at_ s).tesOf h).skipped, hop := hop }

section
variable (h at_ time hop : Nat) (us : Bool) (s : State)

theorem commitOn_eq : commitOn h at_ time hop us s = ((setSettled h at_ s).setTes h { (setSettled h at_ s).tesOf h with
    queue := ((setSettled h at_ s).tesOf h).queue ++ [trigFor h at_ time hop us s], last := some at_, skipped := false }).wr Reg.TesHead.LASTT h time := rfl

theorem commitOn_tes : (commitOn h at_ time hop us s).tesOf h = { (setSettled h at_ s).tesOf h with
    queue := ((setSettled h at_ s).tesOf h).queue ++ [trigFor h at_ time hop us s], last := some at_, skipped := false } := by
  rw [commitOn_eq, State.wr_tesOf, State.setTes_tesOf_same]

theorem commitOn_queue : ((commitOn h at_ time hop us s).tesOf h).queue = (s.tesOf h).queue ++ [trigFor h at_ time hop us s] := by
  rw [commitOn_tes]
  dsimp only
  unfold setSettled
  rw [(settleSet_keeps _ _ _ _ _ _ _).queue]

theorem commitOn_last : ((commitOn h at_ time hop us s).tesOf h).last = some at_ := by rw [commitOn_tes]

theorem commitOn_due : ((commitOn h at_ time hop us s).tesOf h).due = (s.tesOf h).due := by
  rw [commitOn_tes]
  exact (settleSet_keeps _ _ _ _ _ _ _).due

theorem commitOn_tes_ne {n : Nat} (hn : h ≠ n) : (commitOn h at_ time hop us s).tesOf n = s.tesOf n := by
  rw [commitOn_eq, State.wr_tesOf, State.setTes_tesOf_ne _ _ _ hn]
  unfold setSettled
  rw [settleSet_tes_ne _ _ _ _ _ _ _ hn]

theorem commitOn_only : Only [.one .tesHead h, .seq, .tes, .tokens] s (commitOn h at_ time hop us s) :=
  commitOn_law (Only.of_law rfl) (Has.covers rfl) (Covers.one (by simp)) (Frame.refl _ _)

/-- The set that the trigger carries is the one in force. -/
theorem commitOn_xcur (hh : h < 32) : (commitOn h at_ time hop us s).rd Reg.TesHead.XCUR h = (trigFor h at_ time hop us s).xset := by
  rw [commitOn_eq, State.rd_wr_apart _ rfl _ (Head.field_has hh rfl rfl)]
  rfl

end

end Sys2Proof.Machine
end

section
/-!
SUPPORT. TRIGGER_COMMIT: the heads of a schedule commit one after the other, and each head's triggers are its own (R204, R206, R340, R341,
log entry 142).
-/
namespace Sys2Proof.Machine

-- One proof after the other: in one text with all that stands before, each proof in flight holds a stack of its own.
set_option deprecated.oldSectionVars true

/-! ### What follows the commitment on one head -/

section
variable (h : Nat) (us : Bool) (t : Nat) (g : Int) (s : State)

theorem setHeldTes_tes (n : Nat) : (setHeldTes h us s).tesOf n = s.tesOf n :=
  Only.tesOf (l := [.one .tesHead h, .grp 64, .tokens]) (setHeldTes_law (Only.of_law rfl) (Has.covers rfl) (Covers.one (by simp)) (Frame.refl _ _))
    (by simp [Covers]) n

/-- Beside HELD only the count and the cause of its rise change. -/
theorem setHeldTes_rd {f : Field} (ha : ([Reg.TesHead.USCNT, Reg.TesHead.TCAUSE].all fun g => g.apart f) = true) (ho : f.off [.grp 64] = true)
    (hi : f.has h 0 = true) : (setHeldTes h us s).rd f h = (s.wr Reg.TesHead.HELD h (b2n us)).rd f h := by
  have hc : ∀ u : State, (tesCause h 0 (u.sat Reg.TesHead.USCNT h 1)).rd f h = u.rd f h := fun u =>
    ((Moves.of_sat _ _ _ _).trans (tesCause_moves h 0 _)).rd ha hi
  have he : ∀ u : State, (if us then u.evt 4 h 0x41 else u).rd f h = u.rd f h := by
    intro u
    split
    · exact (evt_only _ _ _ _ _).rd_off ho hi
    · rfl
  unfold setHeldTes
  dsimp only
  split
  · rw [hc, he]
  · rw [he]

theorem advanceSchedule_tes : ∃ k, (advanceSchedule h t g s).tesOf h = { s.tesOf h with k := k } := by
  unfold advanceSchedule
  split
  · exact ⟨(s.tesOf h).k, by rw [State.wrI, State.wr_tesOf]⟩
  · exact ⟨_, State.setTes_tesOf_same _ _ _⟩

theorem advanceSchedule_tes_ne {n : Nat} (hn : h ≠ n) : (advanceSchedule h t g s).tesOf n = s.tesOf n := by
  unfold advanceSchedule
  split
  · rw [State.wrI, State.wr_tesOf]
  · rw [State.setTes_tesOf_ne _ _ _ hn]

theorem advanceSchedule_rd {f : Field} (ha : Reg.TesHead.HWM.apart f = true) (hi : f.has h 0 = true) :
    (advanceSchedule h t g s).rd f h = s.rd f h := by
  unfold advanceSchedule
  split
  · exact State.rd_wr_apart _ ha _ hi
  · rfl

end

/-! ### The step of one head -/

/-- Head m of a schedule commits its trigger. -/
def commitStep (at_ time : Nat) (g : Int) (us : Bool) (s : State) (m : Nat) : State :=
  armSet m (advanceSchedule m at_ g (setHeldTes m us (commitOn m at_ time 0 us s)))

section
variable (at_ time : Nat) (g : Int) (us : Bool) (s : State) (m : Nat)

theorem commitStep_only : Only [.one .tesHead m, .grp 64, .heads, .seq, .tes, .tokens] s (commitStep at_ time g us s m) :=
  armSet_law (Only.of_law rfl) (Has.covers rfl) (advanceSchedule_law (Only.of_law rfl) (Has.covers rfl) (Covers.one (by simp))
    (setHeldTes_law (Only.of_law rfl) (Has.covers rfl) (Covers.one (by simp)) ((commitOn_only _ _ _ _ _ _).mono (by simp [covered]))))

/-- The head's triggers stand as the commitment left them. -/
theorem commitStep_tes : ∃ a k, (commitStep at_ time g us s m).tesOf m = { (commitOn m at_ time 0 us s).tesOf m with arm := a, k := k } := by
  obtain ⟨k, hk⟩ := advanceSchedule_tes m at_ g (setHeldTes m us (commitOn m at_ time 0 us s))
  have ha := armSet_tes m (advanceSchedule m at_ g (setHeldTes m us (commitOn m at_ time 0 us s)))
  rw [hk, setHeldTes_tes] at ha
  exact ⟨_, k, ha⟩

theorem commitStep_queue :
    ((commitStep at_ time g us s m).tesOf m).queue = (s.tesOf m).queue ++ [trigFor m at_ time 0 us s] := by
  obtain ⟨a, k, he⟩ := commitStep_tes at_ time g us s m
  rw [he]
  exact commitOn_queue _ _ _ _ _ _

theorem commitStep_last : ((commitStep at_ time g us s m).tesOf m).last = some at_ := by
  obtain ⟨a, k, he⟩ := commitStep_tes at_ time g us s m
  rw [he]
  exact commitOn_last _ _ _ _ _ _

theorem commitStep_tes_ne {n : Nat} (hn : m ≠ n) : (commitStep at_ time g us s m).tesOf n = s.tesOf n := by
  unfold commitStep
  rw [armSet_tes_ne hn, advanceSchedule_tes_ne _ _ _ _ hn, setHeldTes_tes, commitOn_tes_ne _ _ _ _ _ _ hn]

theorem commitStep_rd_ne {n : Nat} (hn : m ≠ n) {f : Field} (hf : f.inArr .tesHead = true) (hi : f.has n 0 = true) :
    (commitStep at_ time g us s m).rd f n = s.rd f n :=
  (commitStep_only at_ time g us s m).rd_one hf (by simp [Ne.symm hn]) (by simp) hi

variable {m} (hm : m < 32)
include hm

theorem commitStep_held : (commitStep at_ time g us s m).rd Reg.TesHead.HELD m = b2n us := by
  have hi : Reg.TesHead.HELD.has m 0 = true := Head.field_has hm rfl rfl
  unfold commitStep
  rw [(armSet_only m _).rd_off rfl hi, advanceSchedule_rd _ _ _ _ rfl hi, setHeldTes_rd _ _ _ rfl rfl hi, State.rd_wr_same _ rfl _ hi]
  cases us <;> rfl

theorem commitStep_xcur : (commitStep at_ time g us s m).rd Reg.TesHead.XCUR m = (trigFor m at_ time 0 us s).xset := by
  have hi : Reg.TesHead.XCUR.has m 0 = true := Head.field_has hm rfl rfl
  unfold commitStep
  rw [(armSet_only m _).rd_off rfl hi, advanceSchedule_rd _ _ _ _ rfl hi, setHeldTes_rd _ _ _ rfl rfl hi, State.rd_wr_apart _ rfl _ hi,
    commitOn_xcur _ _ _ _ _ _ hm]

end

/-! ### The walk over a schedule -/

section
variable (at_ time : Nat) (g : Int) (us : Bool) {m : Nat} (hm : m < 32)
include hm

/-- Head m's last trigger time and its HELD after a commitment. -/
def Placed (at_ : Nat) (us : Bool) (m : Nat) (s : State) : Prop := (s.tesOf m).last = some at_ ∧ s.rd Reg.TesHead.HELD m = b2n us

theorem commitStep_places (s : State) : Placed at_ us m (commitStep at_ time g us s m) :=
  ⟨commitStep_last _ _ _ _ _ _, commitStep_held _ _ _ _ _ hm⟩

theorem commitStep_placed {s : State} (n : Nat) (hp : Placed at_ us m s) : Placed at_ us m (commitStep at_ time g us s n) := by
  by_cases hn : n = m
  · subst hn
    exact commitStep_places at_ time g us hm s
  · refine ⟨?_, (commitStep_rd_ne _ _ _ _ _ _ hn rfl (Head.field_has hm rfl rfl)).trans hp.2⟩
    rw [commitStep_tes_ne _ _ _ _ _ _ hn]
    exact hp.1

/-- Every head of the schedule has the trigger time and HELD. -/
theorem commitWalk_places {ms : List Nat} (hmem : m ∈ ms) (s : State) : Placed at_ us m (ms.foldl (commitStep at_ time g us) s) := by
  obtain ⟨as, bs, rfl, -⟩ := List.eq_append_cons_of_mem hmem
  rw [List.foldl_append, List.foldl_cons]
  exact List.foldlRecOn bs _ (commitStep_places at_ time g us hm _) fun u hu n _ => commitStep_placed at_ time g us hm n hu

/-- Heads that are not head m leave its triggers and the set in force. -/
theorem commitWalk_other {ms : List Nat} (hmem : m ∉ ms) (s : State) :
    (ms.foldl (commitStep at_ time g us) s).tesOf m = s.tesOf m ∧
      (ms.foldl (commitStep at_ time g us) s).rd Reg.TesHead.XCUR m = s.rd Reg.TesHead.XCUR m := by
  induction ms generalizing s with
  | nil => exact ⟨rfl, rfl⟩
  | cons n ms ih =>
    obtain ⟨hn, hms⟩ := not_or.mp (List.mem_cons.not.mp hmem)
    obtain ⟨h1, h2⟩ := ih hms (commitStep at_ time g us s n)
    exact ⟨h1.trans (commitStep_tes_ne _ _ _ _ _ _ (Ne.symm hn)),
      h2.trans (commitStep_rd_ne _ _ _ _ _ _ (Ne.symm hn) rfl (Head.field_has hm rfl rfl))⟩

/-- A head that stands in the schedule once commits one trigger. -/
theorem commitWalk_queue {ms : List Nat} (hd : ms.Nodup) (hmem : m ∈ ms) (s : State) : ∃ q : Trig,
    ((ms.foldl (commitStep at_ time g us) s).tesOf m).queue = (s.tesOf m).queue ++ [q] ∧ q.at_ = at_ ∧
      q.xset = (ms.foldl (commitStep at_ time g us) s).rd Reg.TesHead.XCUR m ∧ (us = true → q.undersamp = true) := by
  obtain ⟨as, bs, rfl, ha⟩ := List.eq_append_cons_of_mem hmem
  have hb : m ∉ bs := (List.nodup_cons.mp hd.of_append_right).1
  obtain ⟨h1, -⟩ := commitWalk_other at_ time g us hm ha s
  obtain ⟨h3, h4⟩ := commitWalk_other at_ time g us hm hb (commitStep at_ time g us (as.foldl (commitStep at_ time g us) s) m)
  rw [List.foldl_append, List.foldl_cons, h3, h4, commitStep_queue, h1, commitStep_xcur _ _ _ _ _ hm]
  refine ⟨_, rfl, rfl, rfl, ?_⟩
  rintro rfl
  rfl

end

/-! ### The command -/

/-- The advance of the heads of a schedule. -/
def scheduleAdvance (s : State) (h : Nat) : Nat := ((scheduleOf s h).map (advance s)).foldl max 0

/-- A trigger time lies less than Tmin after the last one. -/
def tooSoon (s : State) (h t : Nat) : Bool := match (s.tesOf h).last with | some l => decide (t < l + tminTicks s h) | none => false

/-- The trigger time put off to Tmin after the last one. -/
def afterLast (s : State) (h t : Nat) : Nat := match (s.tesOf h).last with | some l => max t (l + tminTicks s h) | none => t

theorem tooSoon_iff (s : State) (h t : Nat) : tooSoon s h t = true ↔ ∃ l, (s.tesOf h).last = some l ∧ t < l + tminTicks s h := by
  unfold tooSoon
  cases (s.tesOf h).last with
  | none => simp
  | some l => simp

/-- The trigger time that a head's schedule reaches: not before what issuing at once reaches, and Tmin after the last. -/
def placedAt (s : State) (h t : Nat) : Nat := afterLast s h (max t (s.raw + scheduleAdvance s h))

theorem tellView_tes (ms : List Nat) (n : Nat) (s : State) (k : Nat) : (tellView ms n s).tesOf k = s.tesOf k :=
  Only.tesOf (l := [.views]) (tellView_law (Only.of_law rfl) (Has.covers rfl) (Frame.refl _ _)) (by simp [Covers]) k

section
variable {h : Nat} (hh : h < 32) {s : State} (t : Nat)
include hh

theorem triggerCommit_notDue (hd : ¬(s.rd Reg.TesHead.RUNNING h ≠ 0 ∧ dueAt s h t = true)) : exec (.triggerCommit h t) s = .next s := by
  rw [exec_triggerCommit]
  unfold execTriggerCommit
  rw [within_lt hh]
  refine if_pos ?_
  by_cases hr : s.rd Reg.TesHead.RUNNING h = 0
  · simp [State.on, hr]
  · simp [show dueAt s h t = false by simpa [hr] using hd]

section
variable (hr : s.rd Reg.TesHead.RUNNING h ≠ 0) (hd : dueAt s h t = true)
include hr hd

theorem triggerCommit_early (he : s.raw + commitTicks < placedAt s h t - scheduleAdvance s h) : exec (.triggerCommit h t) s = .next s := by
  rw [exec_triggerCommit]
  unfold execTriggerCommit
  rw [within_lt hh, if_neg (by simp [State.on, hr, hd])]
  exact if_pos he

theorem triggerCommit_walks (he : placedAt s h t - scheduleAdvance s h ≤ s.raw + commitTicks) : ∃ g time n,
    exec (.triggerCommit h t) s = .next ((scheduleOf s h).foldl
      (commitStep (placedAt s h t) time g (tooSoon s h (max t (s.raw + scheduleAdvance s h)))) (tellView (scheduleOf s h) n s)) := by
  rw [exec_triggerCommit]
  unfold execTriggerCommit
  rw [within_lt hh, if_neg (by simp [State.on, hr, hd])]
  exact ⟨_, _, _, if_neg (Nat.not_lt.mpr he)⟩

/-- The trigger is committed on every running head of the schedule. -/
theorem triggerCommit_commits (he : placedAt s h t - scheduleAdvance s h ≤ s.raw + commitTicks) :
    Does (.triggerCommit h t) [.all .tesHead, .grp 64, .heads, .seq, .tes, .tokens, .views] (fun u => ∀ m ∈ scheduleOf s h, m < 32 →
      Placed (placedAt s h t) (tooSoon s h (max t (s.raw + scheduleAdvance s h))) m u ∧
      ((scheduleOf s h).Nodup → ∃ q : Trig, (u.tesOf m).queue = (s.tesOf m).queue ++ [q] ∧ q.at_ = placedAt s h t ∧
        q.xset = u.rd Reg.TesHead.XCUR m ∧ (tooSoon s h (max t (s.raw + scheduleAdvance s h)) = true → q.undersamp = true))) s := by
  obtain ⟨g, time, n, hx⟩ := triggerCommit_walks hh t hr hd he
  refine Does.of_law hx (execTriggerCommit_law (Only.of_law rfl) (Has.covers rfl) (Frame.refl _ _)) fun m hmem hm =>
    ⟨commitWalk_places _ _ _ _ hm hmem _, fun hnd => ?_⟩
  have hq := commitWalk_queue (placedAt s h t) time g (tooSoon s h (max t (s.raw + scheduleAdvance s h))) hm hnd hmem (tellView (scheduleOf s h) n s)
  rwa [tellView_tes] at hq

end

end

end Sys2Proof.Machine
end

section
/-!
SUPPORT. TRIGGER_ISSUE, EDGE_TRIGGER and the end of a pin pulse (R127, R154, R202, R203, R207 to R210).
-/
namespace Sys2Proof.Machine

-- One proof after the other: in one text with all that stands before, each proof in flight holds a stack of its own.
set_option deprecated.oldSectionVars true

/-! ### Records of triggers -/

/-- The hop count of a source's tokens is the only thing that it decides. -/
theorem tokensOf_hop (s : State) (src hop : Nat) : tokensOf s src hop = (tokensOf s src).map fun k => { k with hop := hop } := by
  simp [tokensOf]

/-- What a source's tokens are is unchanged where the event router's channels are. -/
theorem tokensOf_only_hop {l : List Part} {s t : State} (h : Only l s t) (hl : chansOff l = true) (src hop : Nat) :
    tokensOf t src hop = tokensOf s src hop := by
  rw [tokensOf_hop, tokensOf_hop s, tokensOf_only h hl]

/-- HAU has room for the record: with 1,024 outstanding the oldest has closed. -/
def recRoom (h : Nat) (s : State) : State := if 1024 ≤ (s.head h).recs.length then closeOldest h s else s

section
variable (h : Nat) (r : TrigRec) (s : State)

theorem addRec_eq : addRec h r s =
    ((recRoom h s).setHead h { (recRoom h s).head h with recs := ((recRoom h s).head h).recs ++ [r] }).wr Reg.Head.LSEQNEXT h
      ((recRoom h s).rd Reg.Head.LSEQNEXT h + 1) := rfl

theorem recRoom_only : Only [.one .head h, .grp 9, .grp 64, .gaps, .heads, .sump, .tokens] s (recRoom h s) := by
  unfold recRoom
  split
  · exact closeOldest_law (Only.of_law rfl) (Has.covers rfl) (Covers.one (by simp)) (Frame.refl _ _)
  · exact Frame.refl _ _

theorem addRec_only : Only [.one .head h, .grp 9, .grp 64, .gaps, .heads, .sump, .tokens] s (addRec h r s) :=
  addRec_law (Only.of_law rfl) (Has.covers rfl) (Covers.one (by simp)) (Frame.refl _ _)

theorem addRec_recs : ((addRec h r s).head h).recs = ((recRoom h s).head h).recs ++ [r] := by
  rw [addRec_eq, State.wr_head, State.setHead_head_same]

theorem addRec_last : ((addRec h r s).head h).recs.getLast? = some r := by
  rw [addRec_recs, List.getLast?_append]
  rfl

/-- Closing the oldest record counts in NOLINECNT alone of the head's own counters. -/
theorem closeOldest_rd {f : Field} (ha : Reg.Head.NOLINECNT.apart f = true) (ho : f.off missParts = true) (hi : f.has h 0 = true) :
    (closeOldest h s).rd f h = s.rd f h := by
  cases hr : (s.head h).recs with
  | nil => rw [closeOldest_none hr]
  | cons r rs =>
    cases hl : (s.head h).receiving with
    | true => rw [closeOldest_waits hr hl]; exact State.rd_wr_apart _ ha _ hi
    | false =>
      rw [closeOldest_misses hr hl, (missRow_only _ _ _ _).rd_off ho hi]
      exact State.rd_wr_apart _ ha _ hi

/-- LSEQNEXT counts the records; closing the oldest leaves it. -/
theorem addRec_lseq (hh : h < 32) : (addRec h r s).rd Reg.Head.LSEQNEXT h = (s.rd Reg.Head.LSEQNEXT h + 1) % 2 ^ 40 := by
  have hi : Reg.Head.LSEQNEXT.has h 0 = true := Head.field_has hh rfl rfl
  have hr : (recRoom h s).rd Reg.Head.LSEQNEXT h = s.rd Reg.Head.LSEQNEXT h := by
    unfold recRoom
    split
    · exact closeOldest_rd h s rfl rfl hi
    · rfl
  rw [addRec_eq, State.rd_wr_same _ rfl _ hi, hr]
  rfl

variable {s} (hl : (s.head h).recs.length < 1024)
include hl

theorem recRoom_free : recRoom h s = s := if_neg (Nat.not_le.mpr hl)

theorem addRec_length : ((addRec h r s).head h).recs.length = (s.head h).recs.length + 1 := by
  rw [addRec_recs, recRoom_free h hl, List.length_append]
  rfl

theorem addRec_free_only : Only [.one .head h, .heads] s (addRec h r s) := by
  rw [addRec_eq, recRoom_free h hl]
  exact Frame.trans (setHead_law (Only.of_law rfl) (Has.covers rfl) (Frame.refl _ _)) ((wrHead_only (k := .head) rfl h _ _).mono (by simp [covered]))

end

/-! ### A trigger that is issued -/

/-- The pin or the TRIG block goes out. -/
def trigSent (h wait : Nat) (q : Trig) (qs : List Trig) (s : State) : State :=
  let t := s.setTes h { s.tesOf h with queue := qs, trg := (s.tesOf h).trg || !s.on Reg.TesHead.INBAND h }
  if s.on Reg.TesHead.INBAND h then sendTrig h (trigBlock false (lfix (masterRate s h) - wait) (s.rd Reg.TesHead.TRIGNUM h) q.xset) t else t

/-- The record that HAU takes. -/
def recordOf (h : Nat) (q : Trig) (s : State) : TrigRec :=
  { num := s.rd Reg.TesHead.TRIGNUM h, lseq := s.rd Reg.Head.LSEQNEXT h, time := q.time, pos := q.pos, spd := q.spd, xset := q.xset,
    undersamp := q.undersamp }

/-- HAU has the record, and the trigger is counted. -/
def trigCounted (h wait : Nat) (q : Trig) (qs : List Trig) (s : State) : State :=
  ((addRec h (recordOf h q s) (trigSent h wait q qs s)).wr Reg.TesHead.TRIGNUM h (s.rd Reg.TesHead.TRIGNUM h + 1)).sat Reg.TesHead.TRIGCNT h 1

section
variable (h wait : Nat) (q : Trig) (qs : List Trig) (s : State)

theorem trigSent_only : Only [.heads, .tes] s (trigSent h wait q qs s) := by
  have ht : ∀ x, Only [.heads, .tes] s (s.setTes h x) := fun _ => setTes_law (Only.of_law rfl) (Has.covers rfl) (Frame.refl _ _)
  unfold trigSent
  dsimp only
  split
  · exact sendTrig_law (Only.of_law rfl) (Has.covers rfl) (ht _)
  · exact ht _

theorem trigSent_queue : ((trigSent h wait q qs s).tesOf h).queue = qs := by
  unfold trigSent
  dsimp only
  split
  · rw [sendTrig_tes, State.setTes_tesOf_same]
  · rw [State.setTes_tesOf_same]

theorem trigSent_recs : ((trigSent h wait q qs s).head h).recs = (s.head h).recs := by
  unfold trigSent
  dsimp only
  split
  · unfold sendTrig
    rw [State.setHead_head_same]
    rfl
  · rfl

/-- The numbers and counts of a trigger stand in the TES block. -/
theorem trigCounted_from :
    Only [.one .tesHead h] (addRec h (recordOf h q s) (trigSent h wait q qs s)) (trigCounted h wait q qs s) :=
  Frame.trans (wrHead_only (k := .tesHead) rfl h _ _) (wrHead_only (k := .tesHead) rfl h _ _)

theorem trigCounted_only :
    Only [.one .head h, .one .tesHead h, .grp 9, .grp 64, .gaps, .heads, .sump, .tes, .tokens] s (trigCounted h wait q qs s) :=
  Frame.trans ((trigSent_only h wait q qs s).mono (by simp [covered])) (Frame.trans ((addRec_only h _ _).mono (by simp [covered]))
    ((trigCounted_from h wait q qs s).mono (by simp [covered])))

theorem trigCounted_queue : ((trigCounted h wait q qs s).tesOf h).queue = qs := by
  rw [(trigCounted_from h wait q qs s).tesOf (by simp [Covers]), (addRec_only h _ _).tesOf (by simp [Covers]), trigSent_queue]

theorem trigCounted_head :
    (trigCounted h wait q qs s).head h = (addRec h (recordOf h q s) (trigSent h wait q qs s)).head h :=
  (trigCounted_from h wait q qs s).head (by simp [Covers]) h

theorem trigCounted_trignum (hh : h < 32) :
    (trigCounted h wait q qs s).rd Reg.TesHead.TRIGNUM h = (s.rd Reg.TesHead.TRIGNUM h + 1) % 65536 := by
  have hi : Reg.TesHead.TRIGNUM.has h 0 = true := Head.field_has hh rfl rfl
  unfold trigCounted
  rw [State.sat, State.rd_wr_apart _ rfl _ hi, State.rd_wr_same _ rfl _ hi]
  rfl

theorem trigCounted_trigcnt (hh : h < 32) : CountedBy Reg.TesHead.TRIGCNT h 1 s (trigCounted h wait q qs s) := by
  have hi : Reg.TesHead.TRIGCNT.has h 0 = true := Head.field_has hh rfl rfl
  refine (CountedBy.of_sat rfl hi).of_rd ?_
  rw [State.rd_wr_apart _ rfl _ hi, (addRec_only h _ _).rd_off rfl hi, (trigSent_only h wait q qs s).rd_off rfl hi]

theorem trigCounted_lseq (hh : h < 32) :
    (trigCounted h wait q qs s).rd Reg.Head.LSEQNEXT h = (s.rd Reg.Head.LSEQNEXT h + 1) % 2 ^ 40 := by
  have hi : Reg.Head.LSEQNEXT.has h 0 = true := Head.field_has hh rfl rfl
  rw [(trigCounted_from h wait q qs s).rd_off rfl hi, addRec_lseq _ _ _ hh, (trigSent_only h wait q qs s).rd_off rfl hi]

/-- With room for the record the event router is as it was. -/
theorem trigCounted_free {s : State} (hl : (s.head h).recs.length < 1024) :
    Only [.one .head h, .one .tesHead h, .heads, .tes] s (trigCounted h wait q qs s) := by
  have hl' : ((trigSent h wait q qs s).head h).recs.length < 1024 := by rwa [trigSent_recs]
  exact Frame.trans ((trigSent_only h wait q qs s).mono (by simp [covered])) (Frame.trans ((addRec_free_only h _ hl').mono (by simp [covered]))
    ((trigCounted_from h wait q qs s).mono (by simp [covered])))

end

/-! ### TRIGGER_ISSUE -/

section
variable {h : Nat} (hh : h < 32) {s : State} (wait : Nat)
include hh

theorem triggerIssue_idle
    (hi : (s.tesOf h).queue = [] ∨ (∃ q, (s.tesOf h).queue.head? = some q ∧ s.raw < q.issue) ∨ s.up = false) :
    exec (.triggerIssue h wait) s = .next s := by
  rw [exec_triggerIssue]
  unfold execTriggerIssue
  rw [within_lt hh]
  cases hq : (s.tesOf h).queue with
  | nil => rfl
  | cons q qs =>
    refine if_pos ?_
    rw [hq] at hi
    rcases hi with hi | ⟨q', hi, hr⟩ | hu
    · cases hi
    · injection hi with hi
      exact .inl (hi ▸ hr)
    · exact .inr (by rw [hu]; rfl)

section
variable {q : Trig} {qs : List Trig} (hq : (s.tesOf h).queue = q :: qs) (hi : q.issue ≤ s.raw) (hu : s.up = true)
include hq hi hu

theorem triggerIssue_drops (ht : s.rd Reg.TesHead.TSRC h = 0) (hw : s.wpValid = false) :
    Does (.triggerIssue h wait) [.tes, .views] (fun t => (t.tesOf h).queue = qs) s := by
  refine ⟨dropTrig h qs s, ?_, dropTrig_law (Only.of_law rfl) (Has.covers rfl) (Frame.refl _ _), ?_⟩
  · rw [exec_triggerIssue]
    unfold execTriggerIssue
    rw [within_lt hh, hq]
    dsimp only
    rw [if_neg (by simp [hu, hi]), if_pos (by simp [ht, hw])]
  · unfold dropTrig
    dsimp only
    split
    · rw [State.setTes_tesOf_same]
    · exact congrArg TesState.queue (State.setTes_tesOf_same _ _ _)

theorem triggerIssue_exec (hv : s.rd Reg.TesHead.TSRC h ≠ 0 ∨ s.wpValid = true) :
    exec (.triggerIssue h wait) s = .next (((trigCounted h wait q qs s).emit (320 + h) q.hop).evt 4 h 0x40) := by
  rw [exec_triggerIssue]
  unfold execTriggerIssue
  rw [within_lt hh, hq]
  dsimp only
  rw [if_neg (by simp [hu, hi]), if_neg (by rcases hv with hv | hv <;> simp [hv])]
  rfl

theorem triggerIssue_issues (hv : s.rd Reg.TesHead.TSRC h ≠ 0 ∨ s.wpValid = true) :
    Does (.triggerIssue h wait) [.one .head h, .one .tesHead h, .grp 9, .grp 64, .gaps, .heads, .sump, .tes, .tokens] (fun t =>
      (t.tesOf h).queue = qs ∧ t.rd Reg.TesHead.TRIGNUM h = (s.rd Reg.TesHead.TRIGNUM h + 1) % 65536 ∧ CountedBy Reg.TesHead.TRIGCNT h 1 s t ∧
      t.rd Reg.Head.LSEQNEXT h = (s.rd Reg.Head.LSEQNEXT h + 1) % 2 ^ 40 ∧ (t.head h).recs.getLast? = some (recordOf h q s) ∧
      ((s.head h).recs.length < 1024 → (t.head h).recs.length = (s.head h).recs.length + 1 ∧
        t.tokens = s.tokens ++ tokensOf s (320 + h) q.hop)) s := by
  have hk : ∀ {f : Field}, f.n1 = 32 → f.n2 = 1 → f.has h 0 = true := Head.field_has hh
  have he := emit_only (trigCounted h wait q qs s) (320 + h) q.hop
  have hv' := evt_only ((trigCounted h wait q qs s).emit (320 + h) q.hop) 4 h 0x40 1
  have ho : Only [.grp 64, .tokens] (trigCounted h wait q qs s) (((trigCounted h wait q qs s).emit (320 + h) q.hop).evt 4 h 0x40) :=
    Frame.trans (he.mono rfl) (hv'.mono rfl)
  refine ⟨_, triggerIssue_exec hh wait hq hi hu hv, Frame.trans (trigCounted_only h wait q qs s) (ho.mono (by simp [covered])), ?_, ?_, ?_, ?_, ?_,
    fun hl => ⟨?_, ?_⟩⟩
  · rw [ho.tesOf (by simp [Covers]), trigCounted_queue]
  · rw [ho.rd_off rfl (hk rfl rfl), trigCounted_trignum _ _ _ _ _ hh]
  · exact (trigCounted_trigcnt h wait q qs s hh).then_rd (ho.rd_off rfl (hk rfl rfl))
  · rw [ho.rd_off rfl (hk rfl rfl), trigCounted_lseq _ _ _ _ _ hh]
  · rw [ho.head (by simp [Covers]), trigCounted_head, addRec_last]
  · rw [ho.head (by simp [Covers]), trigCounted_head, addRec_length _ _ (by rwa [trigSent_recs]), trigSent_recs]
  · have hf := trigCounted_free h wait q qs hl
    rw [Frame.tokens hv' (by simp [Covers]), ← tokensOf_only_hop hf rfl, ← Frame.tokens hf (by simp [Covers])]
    rfl

end

end

/-! ### EDGE_TRIGGER -/

/-- The head's state once an EDGE trigger that is due has come. -/
def edgeTaken (h : Nat) (s : State) : State := s.setTes h { s.tesOf h with due := (s.tesOf h).due - 1 }

theorem edgeTaken_only (h : Nat) (s : State) : Only [.tes] s (edgeTaken h s) :=
  setTes_law (Only.of_law rfl) (Has.covers rfl) (Frame.refl _ _)

theorem edgeTaken_tes (h : Nat) (s : State) : (edgeTaken h s).tesOf h = { s.tesOf h with due := (s.tesOf h).due - 1 } :=
  State.setTes_tesOf_same _ _ _

theorem tooSoon_edgeTaken (h t : Nat) (s : State) : tooSoon (edgeTaken h s) h t = tooSoon s h t := by
  unfold tooSoon
  rw [edgeTaken_tes]
  rfl

/-- The state in which the head commits: a view has taken its row. -/
def edgeTold (h : Nat) (s : State) : State :=
  if (viewOf s h).isSome then tellView [h] (s.fresh.1.toNat % 2 ^ 40) s.fresh.2 else s

theorem edgeTold_only (h : Nat) (s : State) : Only [.free, .views] s (edgeTold h s) := by
  unfold edgeTold
  split
  · exact tellView_law (Only.of_law rfl) (Has.covers rfl) ((Only.of_law rfl).free (by simp [Covers]) (Frame.refl _ _))
  · exact Frame.refl _ _

section
variable {h : Nat} (hh : h < 32) {s : State}
include hh

theorem edgeTrigger_idle (hd : (s.tesOf h).due = 0) : exec (.edgeTrigger h) s = .next s := by
  rw [exec_edgeTrigger]
  unfold execEdgeTrigger
  rw [within_lt hh]
  exact if_pos hd

section
variable (hd : (s.tesOf h).due ≠ 0)
include hd

theorem edgeTrigger_exec : exec (.edgeTrigger h) s = .next (causeTrigger h 0 (edgeTaken h s)) := by
  rw [exec_edgeTrigger]
  unfold execEdgeTrigger
  rw [within_lt hh]
  exact if_neg hd

theorem edgeTrigger_stopped (hr : s.rd Reg.TesHead.RUNNING h = 0) :
    Does (.edgeTrigger h) [.tes] (fun t => t.tesOf h = { s.tesOf h with due := (s.tesOf h).due - 1 }) s := by
  have hc : causeTrigger h 0 (edgeTaken h s) = edgeTaken h s := if_pos (by simp [edgeTaken, State.on, hr])
  refine ⟨edgeTaken h s, ?_, edgeTaken_only h s, edgeTaken_tes h s⟩
  rw [edgeTrigger_exec hh hd, hc]

section
variable (hr : s.rd Reg.TesHead.RUNNING h ≠ 0)
include hr

omit hh hd in
theorem causeTrigger_eq : causeTrigger h 0 (edgeTaken h s) = if tooSoon s h s.raw = true then
      ((edgeTaken h s).setTes h { (edgeTaken h s).tesOf h with skipped := true }).sat Reg.TesHead.SKIPCNT h 1
    else armSet h (commitOn h (s.raw + advance s h) (ptAt s (s.raw + advance s h)) 0 false (edgeTold h (edgeTaken h s))) := by
  have hn : causeTrigger h 0 (edgeTaken h s) = if tooSoon (edgeTaken h s) h s.raw = true then
      ((edgeTaken h s).setTes h { (edgeTaken h s).tesOf h with skipped := true }).sat Reg.TesHead.SKIPCNT h 1
    else armSet h (commitOn h (s.raw + advance s h) (ptAt s (s.raw + advance s h)) 0 false (edgeTold h (edgeTaken h s))) :=
    if_neg (by simp [edgeTaken, State.on, hr])
  rwa [tooSoon_edgeTaken] at hn

/-- Less than Tmin after the last trigger the cause is skipped and counted. -/
theorem edgeTrigger_skips (hs : tooSoon s h s.raw = true) : Does (.edgeTrigger h) [.one .tesHead h, .tes] (fun t =>
    t.tesOf h = { s.tesOf h with due := (s.tesOf h).due - 1, skipped := true } ∧ CountedBy Reg.TesHead.SKIPCNT h 1 s t) s := by
  refine ⟨((edgeTaken h s).setTes h { (edgeTaken h s).tesOf h with skipped := true }).sat Reg.TesHead.SKIPCNT h 1, ?_, ?_, ?_, ?_⟩
  · rw [edgeTrigger_exec hh hd, causeTrigger_eq hr, if_pos hs]
  · have ht : Only [.tes] s ((edgeTaken h s).setTes h { (edgeTaken h s).tesOf h with skipped := true }) :=
      setTes_law (Only.of_law rfl) (Has.covers rfl) (edgeTaken_only h s)
    exact Frame.trans (ht.mono (by simp [covered])) ((wrHead_only (k := .tesHead) rfl h _ _).mono (by simp [covered]))
  · rw [State.sat_tesOf, State.setTes_tesOf_same, edgeTaken_tes]
  · exact (CountedBy.of_sat rfl (Head.field_has hh rfl rfl)).of_rd rfl

/-- Otherwise the head commits a trigger at once. -/
theorem edgeTrigger_commits (hs : tooSoon s h s.raw = false) :
    Does (.edgeTrigger h) [.one .tesHead h, .free, .heads, .seq, .tes, .tokens, .views] (fun t => (t.tesOf h).due = (s.tesOf h).due - 1 ∧
      (t.tesOf h).last = some (s.raw + advance s h) ∧ ∃ q : Trig, (t.tesOf h).queue = (s.tesOf h).queue ++ [q] ∧ q.at_ = s.raw + advance s h ∧
        q.time = ptAt s (s.raw + advance s h) ∧ q.xset = t.rd Reg.TesHead.XCUR h) s := by
  have hx : Reg.TesHead.XCUR.has h 0 = true := Head.field_has hh rfl rfl
  have he : exec (.edgeTrigger h) s = .next (armSet h (commitOn h (s.raw + advance s h) (ptAt s (s.raw + advance s h)) 0 false
      (edgeTold h (edgeTaken h s)))) := by
    rw [edgeTrigger_exec hh hd, causeTrigger_eq hr, if_neg (by rw [hs]; decide)]
  have ht : (edgeTold h (edgeTaken h s)).tesOf h = { s.tesOf h with due := (s.tesOf h).due - 1 } := by
    rw [(edgeTold_only h _).tesOf (by simp [Covers]), edgeTaken_tes]
  refine Does.of_law he (execEdgeTrigger_law (Only.of_law rfl) (Has.covers rfl) (Covers.one (by simp)) (Frame.refl _ _)) ⟨?_, ?_,
    trigFor h (s.raw + advance s h) (ptAt s (s.raw + advance s h)) 0 false (edgeTold h (edgeTaken h s)), ?_, rfl, rfl, ?_⟩
  · rw [armSet_tes]
    exact (commitOn_due _ _ _ _ _ _).trans (congrArg TesState.due ht)
  · rw [armSet_tes]
    exact commitOn_last _ _ _ _ _ _
  · rw [armSet_tes]
    dsimp only
    rw [commitOn_queue, ht]
  · rw [(armSet_only h _).rd_off rfl hx, commitOn_xcur _ _ _ _ _ _ hh]

end

end

/-! ### The pin pulse -/

theorem trgPulseEnd_does : Does (.trgPulseEnd h) [.tes] (fun t => t.tesOf h = { s.tesOf h with trg := false }) s := by
  refine ⟨s.setTes h { s.tesOf h with trg := false }, ?_, setTes_law (Only.of_law rfl) (Has.covers rfl) (Frame.refl _ _), State.setTes_tesOf_same _ _ _⟩
  rw [exec_trgPulseEnd]
  unfold execTrgPulseEnd
  rw [within_lt hh]

end

end Sys2Proof.Machine
end

section
/-!
PROOF. Triggering (O30).
-/
namespace Sys2Proof.Machine

-- One proof after the other: in one text with all that stands before, each proof in flight holds a stack of its own.
set_option deprecated.oldSectionVars true

/-- Settles O30: downloads by how they end; the walk over a schedule by what the step of one head leaves of its own triggers and of the
others'; issue and EDGE triggers by what they find. -/
theorem triggering : Obligations.Triggering := by
  intro h s hh
  refine ⟨fun set xtag result => ⟨xsetack_idle hh result, ?answer⟩, xsetto_idle hh, fun d hd ha => xsetto_repeats hh hd ha,
    fun d hd ha => xsetto_fails hh hd ha, ?commit, fun wait => ⟨triggerIssue_idle hh wait, fun q qs hq hi hu ht hw => triggerIssue_drops hh wait hq hi hu ht hw,
      fun q qs hq hi hu hv => triggerIssue_issues hh wait hq hi hu hv⟩,
    edgeTrigger_idle hh, edgeTrigger_stopped hh, fun hd hr hs => edgeTrigger_skips hh hd hr ((tooSoon_iff s h s.raw).mpr hs),
    fun hd hr hs => edgeTrigger_commits hh hd hr (Bool.eq_false_iff.mpr fun hc => hs ((tooSoon_iff s h s.raw).mp hc)), trgPulseEnd_does hh⟩
  case answer =>
    rintro d hd rfl rfl
    refine ⟨fun hr => xsetack_refused hh hd hr, ?_⟩
    rintro rfl
    cases hs : d.start with
    | false =>
      exact (xsetack_ready hh hd hs).imp fun t ⟨⟨h1, h2, h3⟩, h4⟩ =>
        ⟨h1, h2, h3, fun _ => h4, fun _ _ _ hc => Bool.noConfusion hc, fun _ hc => Bool.noConfusion hc⟩
    | true =>
      exact (xsetack_goesOn hh hd hs).imp fun t ⟨⟨h1, h2, h3⟩, h4, h5⟩ =>
        ⟨h1, h2, h3, fun hc => Bool.noConfusion hc, fun st x xs _ => h4 st x xs, fun st _ => h5 st⟩
  case commit =>
    intro at_
    refine ⟨triggerCommit_notDue hh at_, fun hd he => triggerCommit_early hh at_ hd.1 hd.2 he, fun hd he => ?_⟩
    refine (triggerCommit_commits hh at_ hd.1 hd.2 he).imp fun t hc m hmem hm => ?_
    obtain ⟨⟨hlast, hheld⟩, hqueue⟩ := hc m hmem hm
    have hsoon := tooSoon_iff s h (max at_ (s.raw + scheduleAdvance s h))
    refine ⟨hlast, ?_, fun hn => ?_⟩
    · rw [hheld]
      split
      · next hp => rw [hsoon.mpr hp]; rfl
      · next hp => rw [Bool.eq_false_iff.mpr fun hx => hp (hsoon.mp hx)]; rfl
    · obtain ⟨q, h1, h2, h3, h4⟩ := hqueue hn
      exact ⟨q, h1, h2, h3, fun hp => h4 (hsoon.mpr hp)⟩

end Sys2Proof.Machine
end

section
/-!
SUPPORT. X-class operations that write settings and those that refuse: blocks within bounds, and writes one after the other
(R302, R303).
-/
namespace Sys2Proof.Machine

-- One proof after the other: in one text with all that stands before, each proof in flight holds a stack of its own.
set_option deprecated.oldSectionVars true

/-- A command completes OK and writes fields, and nothing else. -/
def XWrites (c : Instr) (ws : List (Field × Nat × Nat × Nat)) (s : State) : Prop := ∃ t, exec c s = .next t ∧ XDid 0 ws [] s.seq s t

/-- A command completes with a status and changes nothing. -/
def XRefuses (c : Instr) (st : Nat) (s : State) : Prop := ∃ t, exec c s = .next t ∧ XDid st [] [] s.seq s t

/-- Writing the first n blocks of a field leaves the pair that holds the control lease. -/
def Field.settable (n : Nat) (f : Field) : Bool := decide (n ≤ f.n1) && decide (0 < f.n2) && f.apart Reg.SeqLease.LEASEPAIR

section
variable {f : Field} {i n : Nat}

theorem Field.settable_has (h : f.settable n = true) (hi : i < n) : f.has i 0 = true := by
  simp only [Field.settable, Bool.and_eq_true, decide_eq_true_eq] at h
  exact Field.has_lt (by omega) h.1.2

theorem Field.settable_apart (h : f.settable n = true) : f.apart Reg.SeqLease.LEASEPAIR = true := by
  simp only [Field.settable, Bool.and_eq_true] at h
  exact h.2

end

section
variable {ws : List (Field × Nat × Nat × Nat)} {l : List Part} {s t : State} {i n : Nat}

theorem Sets.setting (h : Sets ws l s t) {f : Field} (v : Nat) (hi : i < n) (hf : f.settable n = true) :
    Sets (ws ++ [(f, i, 0, v)]) l s (t.wr f i v) := h.wr v (Field.settable_has hf hi) (Field.settable_apart hf)

theorem Sets.settings (h : Sets ws l s t) (fs : List (Field × Nat)) (hi : i < n) (hf : (fs.all fun e => e.1.settable n) = true) :
    Sets (ws ++ fs.map fun e => (e.1, i, 0, e.2)) l s (t.wrAll i fs) := by
  refine h.wrAll fs (List.all_eq_true.mpr fun e he => ?_)
  have hs := List.all_eq_true.mp hf e he
  simp [Field.settable_has hs hi, Field.settable_apart hs]

theorem Sets.fromPayload (h : Sets ws l s t) (a : XArgs) (fs : List (Nat × Field)) (hi : i < n) (hf : (fs.all fun e => e.2.settable n) = true) :
    Sets (ws ++ payload a i fs) l s (Machine.setFrom a i fs t) := by
  refine h.setFrom a fs (List.all_eq_true.mpr fun e he => ?_)
  have hs := List.all_eq_true.mp hf e he
  simp [Field.settable_has hs hi, Field.settable_apart hs]

end

/-- Steps over a list, each with writes of its own. -/
theorem Sets.foldl {α : Type} {l : List Part} {f : State → α → State} {g : α → List (Field × Nat × Nat × Nat)} {L : List α}
    (hf : ∀ k ∈ L, ∀ t, Sets (g k) l t (f t k)) (s : State) : Sets (L.flatMap g) l s (L.foldl f s) := by
  induction L generalizing s with
  | nil => exact Sets.refl _ _
  | cons k L ih =>
    rw [List.flatMap_cons, List.foldl_cons]
    exact (hf k (by simp) s).trans (ih (fun m hm => hf m (by simp [hm])) _)

/-- Steps over a list that each write one field. -/
theorem Sets.foldl_wr2 {α : Type} {l : List Part} {f : Field} {i : α → Nat} {j : α → Nat} {v : α → Nat} {L : List α}
    (hf : ∀ k ∈ L, f.has (i k) (j k) = true) (ha : f.apart Reg.SeqLease.LEASEPAIR = true) (s : State) :
    Sets (L.map fun k => (f, i k, j k, v k)) l s (L.foldl (fun t k => t.wr2 f (i k) (j k) (v k)) s) := by
  rw [List.map_eq_flatMap]
  exact Sets.foldl (fun k hk t => (Sets.refl l t).wr2 (v k) (hf k hk) ha) s

/-! ### Completions -/

section
variable {unit op n st : Nat} {x : XWord} {s b : State} {c : Instr} {ws : List (Field × Nat × Nat × Nat)} (h : XReady x s)
include h

theorem XWrites.of_xop {body : XArgs → State → XRes} (he : exec c s = xop unit op x body s) (hb : body (xargs s x) s = .fin 0 b)
    (hs : Sets ws [] s b) : XWrites c ws s := by
  unfold XWrites
  rw [he]
  exact xop_sets h hb hs

theorem XRefuses.of_xop {body : XArgs → State → XRes} (he : exec c s = xop unit op x body s) (hb : body (xargs s x) s = .no st s) :
    XRefuses c st s := by
  unfold XRefuses
  rw [he]
  exact xop_no h hb

variable {f : XArgs → State → Except Nat State} (he : exec c s = direct unit op n x f s)
include he

theorem XWrites.of_direct (hi : (xargs s x).i < n) (hb : f (xargs s x) s = .ok b) (hs : Sets ws [] s b) : XWrites c ws s := by
  unfold XWrites
  rw [he]
  exact direct_sets h hi hb hs

theorem XRefuses.of_direct (hi : (xargs s x).i < n) (hb : f (xargs s x) s = .error st) : XRefuses c st s := by
  unfold XRefuses
  rw [he]
  exact direct_no h (.inr ⟨hi, hb⟩)

/-- The command names a block that the device does not have. -/
theorem XRefuses.of_missing (hi : n ≤ (xargs s x).i) : XRefuses c 2 s := by
  unfold XRefuses
  rw [he]
  exact direct_no h (.inl ⟨hi, rfl⟩)

end

theorem inRange_iff {v lo hi : Nat} : inRange v lo hi = true ↔ lo ≤ v ∧ v ≤ hi := decide_eq_true_iff

end Sys2Proof.Machine
end

section
/-!
PROOF. Word settings of the heads, the row processors, the banks and the DRAM channels (R166, R171, R256, R446, R450, R454, R459).
-/
namespace Sys2Proof.Machine

-- One proof after the other: in one text with all that stands before, each proof in flight holds a stack of its own.
set_option deprecated.oldSectionVars true

section
variable {x : XWord} {s : State} (h : XReady x s)
include h

/-! ### HAU -/

/-- A logical row processor to which the head maps strips would pass 256 shares (R166). -/
def ShareTooMuch (a : XArgs) (s : State) : Prop := ∃ l ∈ mappedTo s a.i, 256 < shareSum s a.i (a.arg % 256) true l

theorem hauShare_writes (hi : (xargs s x).i < 32) (ht : ¬ShareTooMuch (xargs s x) s) :
    XWrites (.hauShare x) [(Reg.Head.SHARE, (xargs s x).i, 0, (xargs s x).arg % 256)] s :=
  XWrites.of_direct h (exec_hauShare x s) hi (if_neg (by simpa [ShareTooMuch] using ht)) ((Sets.refl _ s).setting _ hi rfl)

theorem hauShare_refuses (hi : (xargs s x).i < 32) (ht : ShareTooMuch (xargs s x) s) : XRefuses (.hauShare x) 2 s :=
  XRefuses.of_direct h (exec_hauShare x s) hi (if_pos (by simpa [ShareTooMuch] using ht))

theorem hauMap_busy (hi : (xargs s x).i < 32) (hb : s.busyHead (xargs s x).i = true) : XRefuses (.hauMap x) 5 s :=
  XRefuses.of_direct h (exec_hauMap x s) hi (if_pos hb)

theorem hauMap_long (hi : (xargs s x).i < 32) (hb : s.busyHead (xargs s x).i = false) (hl : 32 < (xargs s x).ws.length) :
    XRefuses (.hauMap x) 2 s :=
  XRefuses.of_direct h (exec_hauMap x s) hi ((if_neg (by simp [hb])).trans (if_pos hl))

theorem hauMap_writes (hi : (xargs s x).i < 32) (hb : s.busyHead (xargs s x).i = false) (hl : (xargs s x).ws.length ≤ 32) :
    XWrites (.hauMap x) ((List.range (8 * (xargs s x).ws.length)).map fun b =>
      (Reg.StripMap.LRPOF, (xargs s x).i, b, bits ((xargs s x).w (b / 8)) (8 * (b % 8) + 5) (8 * (b % 8)))) s := by
  refine XWrites.of_direct h (exec_hauMap x s) hi ((if_neg (by simp [hb])).trans (if_neg (by omega))) (Sets.foldl_wr2 (fun k hk => ?_) rfl s)
  have hk : k < 8 * (xargs s x).ws.length := List.mem_range.mp hk
  exact decide_eq_true ⟨hi, show k < 256 by omega⟩

/-! ### RPA -/

/-- The halt of the logical row processor ends, and nothing else changes (R256). -/
theorem rpaResume_ends (hi : (xargs s x).i < 64) :
    ∃ t, exec (.rpaResume x) s = .next t ∧ XDid 0 [(Reg.Lrp.HALTED, (xargs s x).i, 0, 0)] [.rpa] s.seq s t ∧
      t.rpa = { s.rpa with haltArea := Tbl.erase s.rpa.haltArea (xargs s x).i } := by
  have hw : Sets [(Reg.Lrp.HALTED, (xargs s x).i, 0, 0)] [.rpa] s (s.wr Reg.Lrp.HALTED (xargs s x).i 0) := (Sets.refl _ s).setting 0 hi rfl
  rw [exec_rpaResume]
  refine direct_setsP h hi rfl (hw.then (m := [.rpa]) ?_ rfl rfl) fun t ht => Frame.rpa ht (by simp [Covers])
  exact (Only.of_law rfl).rpa (by simp [Covers]) (Frame.refl _ _)

/-- RUNLIMIT is not 0, and where the payload reaches RPTO and FAILRESV lie in their ranges (R241, R256, R554). -/
def RunCfgOk (a : XArgs) : Prop := bits (a.w 0) 63 32 ≠ 0 ∧ (2 ≤ a.ws.length → (1 ≤ bits (a.w 1) 63 48 ∧ bits (a.w 1) 63 48 ≤ 10000) ∧ bits (a.w 1) 47 44 ≤ 8)

theorem runCfgOk_iff (a : XArgs) : RunCfgOk a ↔ ¬(bits (a.w 0) 63 32 = 0 ∨
    (2 ≤ a.ws.length ∧ (!inRange (bits (a.w 1) 63 48) 1 10000 || decide (8 < bits (a.w 1) 47 44)) = true)) := by
  simp only [RunCfgOk, inRange, Bool.or_eq_true, Bool.not_eq_true', decide_eq_false_iff_not, decide_eq_true_eq]
  omega

theorem rpaCfg_refuses (hc : ¬RunCfgOk (xargs s x)) : XRefuses (.rpaCfg x) 2 s :=
  XRefuses.of_xop h (exec_rpaCfg x s) (if_pos (by rwa [runCfgOk_iff, not_not] at hc))

theorem rpaCfg_writes (hc : RunCfgOk (xargs s x)) :
    XWrites (.rpaCfg x) ((Reg.RpaGlobal.RUNLIMIT, 0, 0, bits ((xargs s x).w 0) 63 32) :: if (xargs s x).ws.length < 2 then [] else
      [(Reg.RpaDep.RPTO, 0, 0, bits ((xargs s x).w 1) 63 48), (Reg.RpaDep.FAILRESV, 0, 0, bits ((xargs s x).w 1) 47 44),
        (Reg.RpaDep.CETHR, 0, 0, bits ((xargs s x).w 1) 39 32)]) s := by
  refine XWrites.of_xop h (exec_rpaCfg x s) (if_neg ((runCfgOk_iff _).mp hc)) ?_
  have hr : Sets [(Reg.RpaGlobal.RUNLIMIT, 0, 0, bits ((xargs s x).w 0) 63 32)] [] s (s.wr Reg.RpaGlobal.RUNLIMIT 0 (bits ((xargs s x).w 0) 63 32)) :=
    (Sets.refl _ s).setting _ (n := 1) (by decide) rfl
  by_cases hl : (xargs s x).ws.length < 2
  · rw [if_pos hl, if_pos hl]
    exact hr
  · rw [if_neg hl, if_neg hl]
    exact hr.settings [(Reg.RpaDep.RPTO, bits ((xargs s x).w 1) 63 48), (Reg.RpaDep.FAILRESV, bits ((xargs s x).w 1) 47 44),
      (Reg.RpaDep.CETHR, bits ((xargs s x).w 1) 39 32)] Nat.one_pos rfl

/-! ### MEM -/

theorem memMode_writes (hi : (xargs s x).i < 256) : XWrites (.memMode x) [(Reg.Mem.MODE, (xargs s x).i, 0, (xargs s x).arg % 2)] s :=
  XWrites.of_direct h (exec_memMode x s) hi rfl ((Sets.refl _ s).setting _ hi rfl)

/-- A head runs. -/
def AnyRuns (s : State) : Prop := ∃ h, h < 32 ∧ s.running h = true

/-- The map names banks, none of a mirror image, a journal or the secure bank (R450). -/
def RowsOk (m : Nat) (s : State) : Prop :=
  m ≠ 0 ∧ ∀ b, b < 64 → m.testBit b = true → s.rd Reg.Mem.USE b ≠ 3 ∧ s.rd Reg.Mem.USE b ≠ 4

omit h in
theorem rowsOk_iff (m : Nat) (s : State) : RowsOk m s ↔
    ¬(m = 0 ∨ ((List.range 64).any fun k => m.testBit k && (s.rd Reg.Mem.USE k == 3 || s.rd Reg.Mem.USE k == 4)) = true) := by
  simp [RowsOk]

/-- What MEM.ROWSTORE writes of a bank: one that it takes shows USE 2, one that it leaves shows USE 0. -/
def rowBank (m : Nat) (s : State) (b : Nat) : List (Field × Nat × Nat × Nat) :=
  if m.testBit b then [(Reg.Mem.USE, b, 0, 2)] else if s.rd Reg.Mem.USE b = 2 then [(Reg.Mem.USE, b, 0, 0)] else []

theorem memRowstore_busy (hr : AnyRuns s) : XRefuses (.memRowstore x) 5 s :=
  XRefuses.of_xop h (exec_memRowstore x s) (if_pos (by simpa [AnyRuns] using hr))

theorem memRowstore_refuses (hr : ¬AnyRuns s) (hm : ¬RowsOk ((xargs s x).w 0).toNat s) : XRefuses (.memRowstore x) 2 s :=
  XRefuses.of_xop h (exec_memRowstore x s) ((if_neg (by simpa [AnyRuns] using hr)).trans (if_pos (by rwa [rowsOk_iff, not_not] at hm)))

theorem memRowstore_writes (hr : ¬AnyRuns s) (hm : RowsOk ((xargs s x).w 0).toNat s) :
    XWrites (.memRowstore x) ((Reg.Mem.ROWSTORE, 0, 0, ((xargs s x).w 0).toNat) :: (List.range 64).flatMap (rowBank ((xargs s x).w 0).toNat s)) s := by
  refine XWrites.of_xop h (exec_memRowstore x s) ((if_neg (by simpa [AnyRuns] using hr)).trans (if_neg ((rowsOk_iff _ _).mp hm))) ?_
  refine ((Sets.refl [] s).setting (n := 1) ((xargs s x).w 0).toNat (by decide) rfl).trans (Sets.foldl (fun k hk t => ?_) _)
  have hk : k < 256 := by have := List.mem_range.mp hk; omega
  unfold rowBank
  split
  · exact (Sets.refl [] t).setting 2 hk rfl
  · split
    · exact (Sets.refl [] t).setting 0 hk rfl
    · exact Sets.refl [] t

/-! ### DMC -/

/-- A channel is in service. -/
def AnyUp (s : State) : Prop := ∃ c, c < 8 ∧ s.channelUp c = true

theorem dmcXormap_busy (hu : AnyUp s) : XRefuses (.dmcXormap x) 3 s :=
  XRefuses.of_xop h (exec_dmcXormap x s) (if_pos (by simpa [AnyUp] using hu))

theorem dmcXormap_refuses (hu : ¬AnyUp s) (hm : mapOk (xargs s x) s = false) : XRefuses (.dmcXormap x) 2 s :=
  XRefuses.of_xop h (exec_dmcXormap x s) ((if_neg (by simpa [AnyUp] using hu)).trans (if_pos (by simp [hm])))

/-- Masks of one kind, from payload word n on. -/
def maskWrites (a : XArgs) (f : Field) (n k : Nat) : List (Field × Nat × Nat × Nat) :=
  (List.range k).map fun j => (f, 0, j, bits (a.w (n + j)) 39 0)

theorem dmcXormap_writes (hu : ¬AnyUp s) (hm : mapOk (xargs s x) s = true) :
    XWrites (.dmcXormap x) (maskWrites (xargs s x) Reg.DmcGlobal.CHX 0 3 ++ maskWrites (xargs s x) Reg.DmcGlobal.BG 3 3 ++
      maskWrites (xargs s x) Reg.DmcGlobal.BA 6 2) s := by
  refine XWrites.of_xop h (exec_dmcXormap x s) ((if_neg (by simpa [AnyUp] using hu)).trans (if_neg (by simp [hm]))) ?_
  exact ((Sets.foldl_wr2 (i := fun _ => 0) (j := fun k => k) (by decide) rfl s).trans
    (Sets.foldl_wr2 (i := fun _ => 0) (j := fun k => k) (by decide) rfl _)).trans
    (Sets.foldl_wr2 (i := fun _ => 0) (j := fun k => k) (by decide) rfl _)

omit h in
/-- A channel may be set up while it is OFF or FAILED (R455). -/
theorem dmcOpen_iff (s : State) (c : Nat) : dmcOpen s c = true ↔ s.rd Reg.Dmc.CHSTATE c = 0 ∨ s.rd Reg.Dmc.CHSTATE c = 3 := by
  simp [dmcOpen]

section
variable (hi : (xargs s x).i < 8)
include hi

theorem dmcSpare_busy (hc : ¬(s.rd Reg.Dmc.CHSTATE (xargs s x).i = 0 ∨ s.rd Reg.Dmc.CHSTATE (xargs s x).i = 3)) : XRefuses (.dmcSpare x) 3 s :=
  XRefuses.of_direct h (exec_dmcSpare x s) hi (if_pos (by rw [Bool.not_eq_true', ← Bool.not_eq_true, dmcOpen_iff]; exact hc))

variable (hc : s.rd Reg.Dmc.CHSTATE (xargs s x).i = 0 ∨ s.rd Reg.Dmc.CHSTATE (xargs s x).i = 3)
include hc

theorem dmcSpare_refuses (hr : s.rd Reg.Dmc.RANKS (xargs s x).i ≤ (xargs s x).arg ∨ s.rd Reg.Dmc.DIMMS (xargs s x).i = 0) :
    XRefuses (.dmcSpare x) 2 s :=
  XRefuses.of_direct h (exec_dmcSpare x s) hi ((if_neg (by simp [(dmcOpen_iff _ _).mpr hc])).trans (if_pos (by simpa [State.on] using hr)))

theorem dmcSpare_writes (hr : (xargs s x).arg < s.rd Reg.Dmc.RANKS (xargs s x).i) (hd : s.rd Reg.Dmc.DIMMS (xargs s x).i ≠ 0) :
    XWrites (.dmcSpare x) [(Reg.Dmc.SPAREEN, (xargs s x).i, 0, 1), (Reg.Dmc.SPARERANK, (xargs s x).i, 0, (xargs s x).arg)] s :=
  XWrites.of_direct h (exec_dmcSpare x s) hi ((if_neg (by simp [(dmcOpen_iff _ _).mpr hc])).trans (if_neg (by simp [State.on, hd, hr])))
    ((Sets.refl _ s).settings [(Reg.Dmc.SPAREEN, 1), (Reg.Dmc.SPARERANK, (xargs s x).arg)] hi rfl)

end

end

end Sys2Proof.Machine
end

section
/-!
PROOF. Word settings of the fabric, the event router, the supplies and the performance counters (R270, R496, R515, R516, R559, R560, R591).
-/
namespace Sys2Proof.Machine

-- One proof after the other: in one text with all that stands before, each proof in flight holds a stack of its own.
set_option deprecated.oldSectionVars true

section
variable {x : XWord} {s : State} (h : XReady x s)
include h

/-! ### WLK -/

section
variable {op : Nat} {c : Instr} {f : XArgs → State → XRes} (he : exec c s = xop 0x11 op x (wlkOp f) s)
include he

/-- A service of WLK finds NODE 0 (R495). -/
theorem XRefuses.of_noNode (hn : ¬s.rd Reg.Wlk.NODE 0 ≠ 0) : XRefuses c 3 s := XRefuses.of_xop h he (if_pos (not_not.mp hn))

variable (hn : s.rd Reg.Wlk.NODE 0 ≠ 0)
include hn

theorem XRefuses.of_wlk {st : Nat} (hb : f (xargs s x) s = .no st s) : XRefuses c st s := XRefuses.of_xop h he ((if_neg hn).trans hb)

theorem XWrites.of_wlk {b : State} {ws : List (Field × Nat × Nat × Nat)} (hb : f (xargs s x) s = .fin 0 b) (hs : Sets ws [] s b) :
    XWrites c ws s := XWrites.of_xop h he ((if_neg hn).trans hb) hs

end

theorem wlk_noNode (hn : ¬s.rd Reg.Wlk.NODE 0 ≠ 0) : ∀ c ∈ [Instr.wlkRoute, .wlkPort, .wlkEdge, .wlkFwd, .wlkLease], XRefuses (c x) 3 s := by
  intro c hc
  simp only [List.mem_cons, List.not_mem_nil, or_false] at hc
  rcases hc with rfl | rfl | rfl | rfl | rfl
  · exact XRefuses.of_noNode h (exec_wlkRoute x s) hn
  · exact XRefuses.of_noNode h (exec_wlkPort x s) hn
  · exact XRefuses.of_noNode h (exec_wlkEdge x s) hn
  · exact XRefuses.of_noNode h (exec_wlkFwd x s) hn
  · exact XRefuses.of_noNode h (exec_wlkLease x s) hn

/-- The route entries of a payload fit the table and are codes of R496. -/
def RouteOk (a : XArgs) : Prop :=
  a.i % 8 = 0 ∧ a.i + 8 * a.ws.length ≤ 16384 ∧ ∀ w ∈ a.ws, ∀ k, k < 16 → bits w (4 * k + 3) (4 * k) ∈ [0, 1, 2, 3, 0xE, 0xF]

omit h in
theorem routeCode_iff (c : Nat) : routeCode c = true ↔ c ∈ [0, 1, 2, 3, 0xE, 0xF] := by
  simp only [routeCode, decide_eq_true_eq, List.mem_cons, List.not_mem_nil, or_false]
  omega

omit h in
theorem routeOk_iff (a : XArgs) : RouteOk a ↔ ¬(a.i % 8 ≠ 0 ∨ 16384 < a.i + 8 * a.ws.length ∨
    (!(a.ws.all fun w => (List.range 16).all fun k => routeCode (bits w (4 * k + 3) (4 * k)))) = true) := by
  simp only [RouteOk, not_or, not_not, Nat.not_lt, Bool.not_eq_true', Bool.not_eq_false, List.all_eq_true, List.mem_range, routeCode_iff]

/-- The route table with the entries of payload words from node i on. -/
def routed (i : Nat) (ws : List Word) (s : State) : State :=
  ws.zipIdx.foldl (fun s w => s.putWord Reg.Wlk.ROUTE 0 (i + 8 * w.2) w.1) s

omit h in
theorem routed_append (i : Nat) (ws : List Word) (w : Word) (s : State) :
    routed i (ws ++ [w]) s = (routed i ws s).putWord Reg.Wlk.ROUTE 0 (i + 8 * ws.length) w := by
  simp [routed, List.zipIdx_append]

omit h in
theorem routed_only (i : Nat) (ws : List Word) (s : State) : Only [.grp 17] s (routed i ws s) :=
  Law.foldl (fun _ _ => Law.putWord (B := [.grp 17]) (Only.of_law rfl) (Has.covers rfl) rfl) (Frame.refl _ _)

omit h in
/-- Node i + 8·k stands in word i/8 + k of the route table. -/
theorem route_word {i : Nat} (hi : i % 8 = 0) (k : Nat) : Reg.Wlk.ROUTE.word 0 (i + 8 * k) = 0x20118000 + i + 8 * k := by
  have hw : Reg.Wlk.ROUTE.word 0 (i + 8 * k) = 0x20118000 + 0 * 0 + 8 * ((i + 8 * k) * 8 / 64) := rfl
  omega

omit h in
theorem routed_word {i : Nat} (hi : i % 8 = 0) (ws : List Word) (hl : i + 8 * ws.length ≤ 16384) (s : State) (p : Nat) :
    (routed i ws s).word p = if 0x20118000 + i ≤ p ∧ p < 0x20118000 + i + 8 * ws.length ∧ (p - 0x20118000) % 8 = 0 then
      ws.getD ((p - 0x20118000 - i) / 8) 0 else s.word p := by
  induction ws using List.reverseRecOn with
  | nil => exact (if_neg (by rw [List.length_nil]; omega)).symm
  | append_singleton ws w ih =>
    rw [List.length_append, List.length_singleton] at hl
    have hhas : Reg.Wlk.ROUTE.has 0 (i + 8 * ws.length) = true := decide_eq_true ⟨Nat.one_pos, show _ < 16384 by omega⟩
    rw [routed_append, State.putWord, if_pos hhas, route_word hi, List.length_append, List.length_singleton]
    by_cases hp : 0x20118000 + i + 8 * ws.length = p
    · have hk : (p - 0x20118000 - i) / 8 = ws.length := by omega
      rw [← hp, State.word_setWord_same, hp, if_pos (by omega), hk, List.getD_append_right _ _ _ _ (le_refl _), Nat.sub_self]
      rfl
    · rw [State.word_setWord_ne _ _ hp, ih (by omega)]
      by_cases hc : 0x20118000 + i ≤ p ∧ p < 0x20118000 + i + 8 * ws.length ∧ (p - 0x20118000) % 8 = 0
      · rw [if_pos hc, if_pos (by omega), List.getD_append _ _ _ _ (by omega)]
      · rw [if_neg hc, if_neg (by omega)]

theorem wlkRoute_refuses (hn : s.rd Reg.Wlk.NODE 0 ≠ 0) (hr : ¬RouteOk (xargs s x)) : XRefuses (.wlkRoute x) 2 s :=
  XRefuses.of_wlk h (exec_wlkRoute x s) hn (if_pos (by rwa [routeOk_iff, not_not] at hr))

/-- Eight entries a payload word, from node i on (R496). -/
theorem wlkRoute_writes (hn : s.rd Reg.Wlk.NODE 0 ≠ 0) (hr : RouteOk (xargs s x)) :
    ∃ t, exec (.wlkRoute x) s = .next t ∧ XStatus 0 s.seq s t ∧ Others [.procs, .seq, .sampled] s t ∧
      ∀ p, groupOf p ≠ 64 → t.word p = if 0x20118000 + (xargs s x).i ≤ p ∧ p < 0x20118000 + (xargs s x).i + 8 * (xargs s x).ws.length ∧
          (p - 0x20118000) % 8 = 0 then (xargs s x).w ((p - 0x20118000 - (xargs s x).i) / 8) else s.word p := by
  obtain ⟨t, he, ⟨hst, ho⟩, hd⟩ : ∃ t, exec (.wlkRoute x) s = .next t ∧ XTouched 0 [.grp 17] s.seq s t ∧
      Only doneParts (routed (xargs s x).i (xargs s x).ws s) t := by
    rw [exec_wlkRoute]
    exact xop_touch h ((if_neg hn).trans (if_neg ((routeOk_iff _).mp hr))) (routed_only _ _ s)
  refine ⟨t, he, hst, Others.of_only ho rfl, fun p hp => ?_⟩
  exact (Writes.of_only hd rfl p hp).trans (routed_word hr.1 _ hr.2.1 s p)

theorem wlkEdge_refuses (hn : s.rd Reg.Wlk.NODE 0 ≠ 0) (hi : 16 ≤ (xargs s x).i) : XRefuses (.wlkEdge x) 2 s :=
  XRefuses.of_wlk h (exec_wlkEdge x s) hn (if_pos hi)

theorem wlkEdge_writes (hn : s.rd Reg.Wlk.NODE 0 ≠ 0) (hi : (xargs s x).i < 16) :
    XWrites (.wlkEdge x) (payload (xargs s x) (xargs s x).i [(0, Reg.WlkEdge.LNODE), (0, Reg.WlkEdge.RNODE)]) s :=
  XWrites.of_wlk h (exec_wlkEdge x s) hn (if_neg (by omega))
    ((Sets.refl _ s).fromPayload (xargs s x) [(0, Reg.WlkEdge.LNODE), (0, Reg.WlkEdge.RNODE)] hi rfl)

/-- FWDTO lies in its range (R516). -/
def FwdOk (a : XArgs) (s : State) : Prop := 1 ≤ payOr a s 0 0 Reg.Wlk.FWDTO ∧ payOr a s 0 0 Reg.Wlk.FWDTO ≤ 10000

theorem wlkFwd_refuses (hn : s.rd Reg.Wlk.NODE 0 ≠ 0) (h0 : (xargs s x).i = 0) (hf : ¬FwdOk (xargs s x) s) : XRefuses (.wlkFwd x) 2 s :=
  XRefuses.of_wlk h (exec_wlkFwd x s) hn ((if_pos h0).trans (if_pos (by rw [Bool.not_eq_true', ← Bool.not_eq_true, inRange_iff]; exact hf)))

theorem wlkFwd_writes (hn : s.rd Reg.Wlk.NODE 0 ≠ 0) (h0 : (xargs s x).i = 0) (hf : FwdOk (xargs s x) s) :
    XWrites (.wlkFwd x) (payload (xargs s x) 0 [(0, Reg.Wlk.COLLECTOR), (0, Reg.Wlk.FWDTO)]) s :=
  XWrites.of_wlk h (exec_wlkFwd x s) hn ((if_pos h0).trans (if_neg (by rw [Bool.not_eq_true', ← Bool.not_eq_true, inRange_iff, not_not]; exact hf)))
    ((Sets.refl _ s).fromPayload (xargs s x) [(0, Reg.Wlk.COLLECTOR), (0, Reg.Wlk.FWDTO)] Nat.one_pos rfl)

/-- An inbound ring starts at a multiple of 64 and has 2^4 to 2^24 slots, or none (R517, R527). -/
def RingOk (a : XArgs) (s : State) : Prop :=
  let k := a.i - 0x100
  0x100 ≤ a.i ∧ k < 8 ∧ payOr a s k 0 Reg.WlkInbound.IRBASE % 64 = 0 ∧
    (payOr a s k 1 Reg.WlkInbound.IRLOG = 0 ∨ (4 ≤ payOr a s k 1 Reg.WlkInbound.IRLOG ∧ payOr a s k 1 Reg.WlkInbound.IRLOG ≤ 24))

omit h in
theorem ringOk_iff (a : XArgs) (s : State) : RingOk a s ↔ ¬(a.i < 0x100 ∨ 8 ≤ a.i - 0x100 ∨ payOr a s (a.i - 0x100) 0 Reg.WlkInbound.IRBASE % 64 ≠ 0 ∨
    (!(payOr a s (a.i - 0x100) 1 Reg.WlkInbound.IRLOG == 0 || inRange (payOr a s (a.i - 0x100) 1 Reg.WlkInbound.IRLOG) 4 24)) = true) := by
  simp only [RingOk, not_or, not_not, Nat.not_lt, Nat.not_le, Bool.not_eq_true', Bool.not_eq_false, Bool.or_eq_true, beq_iff_eq, inRange_iff]

theorem wlkFwd_ringRefuses (hn : s.rd Reg.Wlk.NODE 0 ≠ 0) (h0 : (xargs s x).i ≠ 0) (hr : ¬RingOk (xargs s x) s) : XRefuses (.wlkFwd x) 2 s :=
  XRefuses.of_wlk h (exec_wlkFwd x s) hn ((if_neg h0).trans (if_pos (by rwa [ringOk_iff, not_not] at hr)))

theorem wlkFwd_ringWrites (hn : s.rd Reg.Wlk.NODE 0 ≠ 0) (h0 : (xargs s x).i ≠ 0) (hr : RingOk (xargs s x) s) :
    XWrites (.wlkFwd x) (payload (xargs s x) ((xargs s x).i - 0x100) [(0, Reg.WlkInbound.IRBASE), (1, Reg.WlkInbound.IRLOG)]) s :=
  XWrites.of_wlk h (exec_wlkFwd x s) hn ((if_neg h0).trans (if_neg ((ringOk_iff _ _).mp hr)))
    ((Sets.refl _ s).fromPayload (xargs s x) [(0, Reg.WlkInbound.IRBASE), (1, Reg.WlkInbound.IRLOG)] hr.2.1 rfl)

/-! ### EVR -/

theorem evrChan_long (hi : (xargs s x).i < 128) (hl : 2 < (xargs s x).ws.length) : XRefuses (.evrChan x) 2 s :=
  XRefuses.of_xop h (exec_evrChan x s) ((if_pos hi).trans (if_pos hl))

theorem evrChan_writes (hi : (xargs s x).i < 128) (hl : (xargs s x).ws.length ≤ 2) :
    XWrites (.evrChan x) (payload (xargs s x) (xargs s x).i [(0, Reg.EvrChan.EN), (0, Reg.EvrChan.GEN), (0, Reg.EvrChan.GINV),
      (0, Reg.EvrChan.GSEL), (0, Reg.EvrChan.SRC)]) s :=
  XWrites.of_xop h (exec_evrChan x s) ((if_pos hi).trans (if_neg (by omega)))
    ((Sets.refl _ s).fromPayload (xargs s x) [(0, Reg.EvrChan.EN), (0, Reg.EvrChan.GEN), (0, Reg.EvrChan.GINV), (0, Reg.EvrChan.GSEL),
      (0, Reg.EvrChan.SRC)] hi rfl)

/-- Instance 0x100 + n names event pin n, and its filter time lies in its range (R579, R591). -/
def EvioOk (a : XArgs) (s : State) : Prop :=
  let k := a.i - 0x100
  0x100 ≤ a.i ∧ k < 16 ∧ a.ws.length ≤ 1 ∧ (1 ≤ payOr a s k 0 Reg.Evio.EFILT ∧ payOr a s k 0 Reg.Evio.EFILT ≤ 200)

omit h in
theorem evioOk_iff (a : XArgs) (s : State) : EvioOk a s ↔ ¬(a.i < 0x100 ∨ 16 ≤ a.i - 0x100 ∨ 1 < a.ws.length ∨
    (!inRange (payOr a s (a.i - 0x100) 0 Reg.Evio.EFILT) 1 200) = true) := by
  simp only [EvioOk, not_or, Nat.not_lt, Nat.not_le, Bool.not_eq_true', Bool.not_eq_false, inRange_iff]

theorem evrChan_pinRefuses (hi : 128 ≤ (xargs s x).i) (he : ¬EvioOk (xargs s x) s) : XRefuses (.evrChan x) 2 s :=
  XRefuses.of_xop h (exec_evrChan x s) ((if_neg (by omega)).trans (if_pos (by rwa [evioOk_iff, not_not] at he)))

theorem evrChan_pinWrites (hi : 128 ≤ (xargs s x).i) (he : EvioOk (xargs s x) s) :
    XWrites (.evrChan x) (payload (xargs s x) ((xargs s x).i - 0x100) [(0, Reg.Evio.EN), (0, Reg.Evio.EEDGE), (0, Reg.Evio.EFILT)]) s :=
  XWrites.of_xop h (exec_evrChan x s) ((if_neg (by omega)).trans (if_neg ((evioOk_iff _ _).mp he)))
    ((Sets.refl _ s).fromPayload (xargs s x) [(0, Reg.Evio.EN), (0, Reg.Evio.EEDGE), (0, Reg.Evio.EFILT)] he.2.1 rfl)

/-! ### PBA -/

/-- VMIN and VMAX lie in their range and in order, and the warning threshold of VCORE below them (R559). -/
def BoundsOk (vmin vmax : Nat) (s : State) : Prop :=
  vmin ≤ vmax ∧ (640 ≤ vmin ∧ vmin ≤ 900) ∧ (640 ≤ vmax ∧ vmax ≤ 900) ∧ 100 * (s.rd Reg.Rail.WARN 0 + 10) ≤ 97 * vmin

omit h in
theorem boundsOk_iff (lo hi : Nat) (s : State) : BoundsOk lo hi s ↔ ¬(hi < lo ∨ (!inRange lo 640 900) = true ∨ (!inRange hi 640 900) = true ∨
    (!warnFits (s.rd Reg.Rail.WARN 0) lo) = true) := by
  simp only [BoundsOk, warnFits, not_or, Nat.not_lt, Bool.not_eq_true', Bool.not_eq_false, inRange_iff, decide_eq_true_eq]

theorem pbaVbounds_writes (hv : BoundsOk (Reg.Pba.VMIN.get 0 ((xargs s x).w 0)) (Reg.Pba.VMAX.get 0 ((xargs s x).w 0)) s) :
    XWrites (.pbaVbounds x) [(Reg.Pba.VMIN, 0, 0, Reg.Pba.VMIN.get 0 ((xargs s x).w 0)), (Reg.Pba.VMAX, 0, 0, Reg.Pba.VMAX.get 0 ((xargs s x).w 0))] s :=
  XWrites.of_xop h (exec_pbaVbounds x s) (if_neg ((boundsOk_iff _ _ _).mp hv)) ((Sets.refl _ s).settings
    [(Reg.Pba.VMIN, Reg.Pba.VMIN.get 0 ((xargs s x).w 0)), (Reg.Pba.VMAX, Reg.Pba.VMAX.get 0 ((xargs s x).w 0))] Nat.one_pos rfl)

theorem pbaVbounds_refuses (hv : ¬BoundsOk (Reg.Pba.VMIN.get 0 ((xargs s x).w 0)) (Reg.Pba.VMAX.get 0 ((xargs s x).w 0)) s) :
    XRefuses (.pbaVbounds x) 2 s :=
  XRefuses.of_xop h (exec_pbaVbounds x s) (if_pos (by rwa [boundsOk_iff, not_not] at hv))

/-- VTARGET, TWARN and LIVEHOLD lie in their ranges (R558, R562, R568). -/
def TargetOk (a : XArgs) (s : State) : Prop :=
  (100 ≤ Reg.Pba.VTARGET.get 0 (a.w 0) ∧ Reg.Pba.VTARGET.get 0 (a.w 0) ≤ 2000) ∧
    (60 ≤ payOr a s 0 1 Reg.Pba.TWARN ∧ payOr a s 0 1 Reg.Pba.TWARN ≤ 130) ∧ payOr a s 0 2 Reg.Pba.LIVEHOLD ≤ 60000 ∧ a.ws.length ≤ 3

omit h in
theorem targetOk_iff (a : XArgs) (s : State) : TargetOk a s ↔ ¬((!inRange (Reg.Pba.VTARGET.get 0 (a.w 0)) 100 2000 ||
    !inRange (payOr a s 0 1 Reg.Pba.TWARN) 60 130 || decide (60000 < payOr a s 0 2 Reg.Pba.LIVEHOLD ∨ 3 < a.ws.length)) = true) := by
  simp only [TargetOk, Bool.or_eq_true, not_or, Nat.not_lt, Bool.not_eq_true', Bool.not_eq_false, inRange_iff, decide_eq_true_eq, and_assoc]

theorem pbaTarget_writes (ht : TargetOk (xargs s x) s) :
    XWrites (.pbaTarget x) (payload (xargs s x) 0 [(0, Reg.Pba.VTARGET), (1, Reg.Pba.VREGADR), (1, Reg.Pba.TWARN), (1, Reg.Pba.PEVEN),
      (2, Reg.Pba.INSPREQ), (2, Reg.Pba.LIVEHOLD)]) s :=
  XWrites.of_xop h (exec_pbaTarget x s) (if_neg ((targetOk_iff _ _).mp ht)) ((Sets.refl _ s).fromPayload (xargs s x)
    [(0, Reg.Pba.VTARGET), (1, Reg.Pba.VREGADR), (1, Reg.Pba.TWARN), (1, Reg.Pba.PEVEN), (2, Reg.Pba.INSPREQ), (2, Reg.Pba.LIVEHOLD)]
    Nat.one_pos rfl)

theorem pbaTarget_refuses (ht : ¬TargetOk (xargs s x) s) : XRefuses (.pbaTarget x) 2 s :=
  XRefuses.of_xop h (exec_pbaTarget x s) (if_pos (by rwa [targetOk_iff, not_not] at ht))

/-- WARN and RESET of a rail lie in the ranges of Table 18-2 and in order; VMIN of VCORE keeps its distance from WARN (R559, R560). -/
def RailOk (a : XArgs) (s : State) : Prop :=
  let warn := bits (a.w 0) 31 16
  let rst := bits (a.w 0) 15 0
  let g := railRange.getD a.i ((0, 0), (0, 0))
  (g.1.1 ≤ warn ∧ warn ≤ g.1.2) ∧ (g.2.1 ≤ rst ∧ rst ≤ g.2.2) ∧ rst < warn ∧ (a.i = 0 → 100 * (warn + 10) ≤ 97 * s.rd Reg.Pba.VMIN 0)

omit h in
theorem railOk_iff (a : XArgs) (s : State) : RailOk a s ↔ ¬((!inRange (bits (a.w 0) 31 16) (railRange.getD a.i ((0, 0), (0, 0))).1.1
      (railRange.getD a.i ((0, 0), (0, 0))).1.2 || !inRange (bits (a.w 0) 15 0) (railRange.getD a.i ((0, 0), (0, 0))).2.1
      (railRange.getD a.i ((0, 0), (0, 0))).2.2 || decide (bits (a.w 0) 31 16 ≤ bits (a.w 0) 15 0) ||
      (a.i == 0 && !warnFits (bits (a.w 0) 31 16) (s.rd Reg.Pba.VMIN 0))) = true) := by
  simp only [RailOk, warnFits, Bool.or_eq_true, Bool.and_eq_true, not_or, not_and, Nat.not_le, Bool.not_eq_true', Bool.not_eq_false, inRange_iff,
    decide_eq_true_eq, beq_iff_eq, and_assoc]

theorem pbaMonitor_writes (hi : (xargs s x).i < 7) (hr : RailOk (xargs s x) s) :
    XWrites (.pbaMonitor x) [(Reg.Rail.WARN, (xargs s x).i, 0, bits ((xargs s x).w 0) 31 16), (Reg.Rail.RESET, (xargs s x).i, 0, bits ((xargs s x).w 0) 15 0)] s :=
  XWrites.of_direct h (exec_pbaMonitor x s) hi (if_neg ((railOk_iff _ _).mp hr)) ((Sets.refl _ s).settings
    [(Reg.Rail.WARN, bits ((xargs s x).w 0) 31 16), (Reg.Rail.RESET, bits ((xargs s x).w 0) 15 0)] hi rfl)

theorem pbaMonitor_refuses (hi : (xargs s x).i < 7) (hr : ¬RailOk (xargs s x) s) : XRefuses (.pbaMonitor x) 2 s :=
  XRefuses.of_direct h (exec_pbaMonitor x s) hi (if_pos (by rwa [railOk_iff, not_not] at hr))

/-! ### PMU -/

theorem pmuCntset_writes (hi : (xargs s x).i < 1024) :
    XWrites (.pmuCntset x) (payload (xargs s x) (xargs s x).i [(0, Reg.Pmu.COUNT), (1, Reg.Pmu.EN), (1, Reg.Pmu.CHAIN), (1, Reg.Pmu.UNIT),
      (1, Reg.Pmu.INST), (1, Reg.Pmu.EVT)]) s :=
  XWrites.of_direct h (exec_pmuCntset x s) hi rfl ((Sets.refl _ s).fromPayload (xargs s x) [(0, Reg.Pmu.COUNT), (1, Reg.Pmu.EN),
    (1, Reg.Pmu.CHAIN), (1, Reg.Pmu.UNIT), (1, Reg.Pmu.INST), (1, Reg.Pmu.EVT)] hi rfl)

/-! ### Blocks that the device does not have -/

theorem settings_missing : ∀ e ∈ [(Instr.hauShare x, 32), (.hauMap x, 32), (.rpaResume x, 64), (.memMode x, 256), (.dmcSpare x, 8), (.pbaMonitor x, 7),
    (.pmuCntset x, 1024)], e.2 ≤ (xargs s x).i → XRefuses e.1 2 s := by
  intro e he hi
  simp only [List.mem_cons, List.not_mem_nil, or_false] at he
  rcases he with rfl | rfl | rfl | rfl | rfl | rfl | rfl
  · exact XRefuses.of_missing h (exec_hauShare x s) hi
  · exact XRefuses.of_missing h (exec_hauMap x s) hi
  · exact XRefuses.of_missing h (exec_rpaResume x s) hi
  · exact XRefuses.of_missing h (exec_memMode x s) hi
  · exact XRefuses.of_missing h (exec_dmcSpare x s) hi
  · exact XRefuses.of_missing h (exec_pbaMonitor x s) hi
  · exact XRefuses.of_missing h (exec_pmuCntset x s) hi

end

/-- Settles O18: each operation by its condition, from the body that writes the fields or refuses. -/
theorem wordSettings : Obligations.WordSettings := by
  intro x s h a i did no put z r share tooMuch w1 cfgOk node routeOk k base log ringOk evioOk vmin vmax vOk targetOk warn rst g railOk anyRuns m rowsOk
  exact ⟨hauShare_writes h, hauShare_refuses h, hauMap_busy h, hauMap_long h, hauMap_writes h, rpaResume_ends h, rpaCfg_writes h, rpaCfg_refuses h,
    memMode_writes h, memRowstore_busy h, memRowstore_refuses h, memRowstore_writes h,
    dmcXormap_busy h, dmcXormap_refuses h, dmcXormap_writes h,
    fun hi h0 h3 => dmcSpare_busy h hi (not_or.mpr ⟨h0, h3⟩), fun hi hc => ⟨dmcSpare_refuses h hi hc, dmcSpare_writes h hi hc⟩,
    wlk_noNode h, wlkRoute_refuses h, wlkRoute_writes h, wlkEdge_refuses h, wlkEdge_writes h, wlkFwd_refuses h, wlkFwd_writes h,
    wlkFwd_ringRefuses h, wlkFwd_ringWrites h, evrChan_long h, evrChan_writes h, evrChan_pinRefuses h, evrChan_pinWrites h,
    pbaVbounds_writes h, pbaVbounds_refuses h, pbaTarget_writes h, pbaTarget_refuses h, pbaMonitor_writes h, pbaMonitor_refuses h,
    pmuCntset_writes h, settings_missing h⟩

end Sys2Proof.Machine
end

section
/-!
SUPPORT. X-class operations on heads: what completing one leaves of the state of its body, and elements packed into one word.
-/
namespace Sys2Proof.Machine

-- One proof after the other: in one text with all that stands before, each proof in flight holds a stack of its own.
set_option deprecated.oldSectionVars true

/-- A command completes OK from sequencer state q in a state that differs only in the parts of a list, and of which P holds. -/
def XDoes (c : Instr) (q : SeqState) (l : List Part) (P : State → Prop) (s : State) : Prop :=
  ∃ t, exec c s = .next t ∧ XTouched 0 l q s t ∧ P t

/-- A long operation is under way (R301). -/
def State.underWay (s : State) (l : LongOp) : State := { s with seq := { s.seq with longs := s.seq.longs ++ [l] } }

theorem State.underWay_only (s : State) (l : LongOp) : Only doneParts s (s.underWay l) :=
  (Only.of_law rfl).seq (by simp [Covers, doneParts]) (Frame.refl _ _)

section
variable {unit op n : Nat} {x : XWord} {s b : State} {c : Instr} {l : List Part} {P : State → Prop} (h : XReady x s)
include h

section
variable (hl : Only l s b) (hP : ∀ t, Only doneParts b t → P t) (h1 : l.contains .procs = false) (h2 : l.contains .seq = false)
  (h3 : l.contains (.grp 0) = false)
include hl hP h1 h2 h3

theorem XDoes.of_xop {body : XArgs → State → XRes} (he : exec c s = xop unit op x body s) (hb : body (xargs s x) s = .fin 0 b) :
    XDoes c s.seq l P s := by
  unfold XDoes
  rw [he]
  exact (xop_touch h hb hl h1 h2 h3).imp fun t ⟨k1, k2, k3⟩ => ⟨k1, k2, hP t k3⟩

theorem XDoes.of_direct {f : XArgs → State → Except Nat State} (he : exec c s = direct unit op n x f s) (hi : (xargs s x).i < n)
    (hb : f (xargs s x) s = .ok b) : XDoes c s.seq l P s := by
  refine XDoes.of_xop h hl hP h1 h2 h3 he ?_
  rw [if_neg (by omega), hb]
  rfl

/-- The operation stays under way. -/
theorem XDoes.of_start {body : XArgs → State → XRes} (he : exec c s = xop unit op x body s) (hb : body (xargs s x) s = .start b) :
    XDoes c (startedLong unit op x s) l P s := by
  unfold XDoes
  rw [he]
  exact (start_touch h hb hl h1 h2 h3).imp fun t ⟨k1, k2, k3⟩ => ⟨k1, k2, hP t k3⟩

end

variable {body : XArgs → State → XRes} (he : exec c s = xop unit op x body s)
include he

/-- What completing leaves, where the body itself moves the sequencers. -/
theorem exec_of_fin {st : Nat} (hb : body (xargs s x) s = .fin st b) : ∃ t, exec c s = .next t ∧ Only doneParts b t := by
  obtain ⟨h1, h2, h3, h4⟩ := h
  refine ⟨xDone st b, ?_, xDone_only st b⟩
  rw [he]
  unfold xop
  simp only [h1, h2, h3, h4, hb, Bool.not_true, Bool.or_self, Bool.false_eq_true, if_false]

theorem exec_of_start (hb : body (xargs s x) s = .start b) : ∃ t, exec c s = .next t ∧ Only doneParts b t := by
  obtain ⟨h1, h2, h3, h4⟩ := h
  let l : LongOp := { cseq := curCseq s, idx := (s.proc (activeCore s)).pc, unit := unit, op := op, inst := (xargs s x).i, addr := (xargs s x).addr }
  refine ⟨xDone 0 (b.underWay l), ?_, Frame.trans (State.underWay_only b l) (xDone_only 0 _)⟩
  rw [he]
  unfold xop
  simp only [h1, h2, h3, h4, hb, Bool.not_true, Bool.or_self, Bool.false_eq_true, if_false]
  rfl

end

/-- Writing one element of a packed array leaves the others. -/
theorem State.rd2_wr2_element (s : State) {f : Field} (hw : f.inWord = true) (he : f.ew ≠ 0) (i v : Nat) {j k : Nat} (hjk : j ≠ k) :
    (s.wr2 f i j v).rd2 f i k = s.rd2 f i k := by
  have hwidth : f.width = f.ew := by
    unfold Field.inWord at hw
    rw [if_neg he] at hw
    exact (of_decide_eq_true hw).1
  have hsteps : j * f.ew + f.ew ≤ k * f.ew ∨ k * f.ew + f.ew ≤ j * f.ew := by
    rw [← Nat.succ_mul, ← Nat.succ_mul]
    exact (Nat.lt_or_gt_of_ne hjk).imp (Nat.mul_le_mul_right _) (Nat.mul_le_mul_right _)
  by_cases hq : j * f.ew / 64 = k * f.ew / 64
  · have hword : f.word i j = f.word i k := by unfold Field.word; rw [if_neg he, if_neg he, hq]
    have hsh : f.sh j + f.width ≤ f.sh k ∨ f.sh k + f.width ≤ f.sh j := by
      unfold Field.sh
      rw [if_neg he, if_neg he]
      omega
    unfold State.rd2 State.wr2
    split
    · rw [hword, State.word_setWord_same, Field.get_put_apart hw _ _ hsh]
    · rfl
  · refine State.rd_wr2_ne s v ?_
    unfold Field.word
    rw [if_neg he, if_neg he]
    omega

end Sys2Proof.Machine
end

section
/-!
PROOF. HAU.BOND: the lanes of a head (R149).
-/
namespace Sys2Proof.Machine

-- One proof after the other: in one text with all that stands before, each proof in flight holds a stack of its own.
set_option deprecated.oldSectionVars true

/-! ### Lanes of a bonding -/

/-- The lanes that a head has had lose MASTER and HEAD. -/
def lanesLeft (h : Nat) (s : State) : State :=
  (bondLanes s h).foldl (fun s l => s.wrAll l [(Reg.Lane.MASTER, 0), (Reg.Lane.HEAD, 0)]) s

/-- Lane l becomes HLANE k of head h. -/
def laneJoined (h : Nat) (s : State) (l : Nat × Nat) : State :=
  (s.wrAll l.1 [(Reg.Lane.MASTER, b2n (l.2 == 0)), (Reg.Lane.HEAD, h)]).wr2 Reg.Head.LANEMAP h l.2 l.1

/-- The lanes of a list become those of head h, in the order of the list. -/
def lanesJoined (h : Nat) (ls : List Nat) (s : State) : State := ls.zipIdx.foldl (laneJoined h) s

/-- Head h is bonded to 2^n lanes of a list (R149). -/
def headBonded (h n : Nat) (ls : List Nat) (s : State) : State :=
  let t := lanesJoined h ls (lanesLeft h s)
  { t.wr Reg.Head.LANES h n with bonded := Tbl.set (fun _ => false) t.bonded h true }

section
variable (h : Nat)

/-- The parts of a bonding. -/
def bondParts (h : Nat) : List Part := [.one .head h, .all .lane, .bonded]

theorem bondParts_law (s : State) : Law (Covers (bondParts h)) (Only (bondParts h) s) := Only.of_law rfl

theorem bondParts_head : Covers (bondParts h) (.one .head h) := .inl (by simp [bondParts])

theorem bondParts_lanes : Has (Covers (bondParts h)) [.all .lane] := Has.covers (by simp [bondParts, covered])

theorem lanesLeft_only (s : State) : Only (bondParts h) s (lanesLeft h s) :=
  Law.foldl (fun _ _ => (bondParts_law h s).wrAll (bondParts_lanes h) rfl) (Frame.refl _ _)

theorem laneAssigned_law {P : Part → Prop} {Q : State → Prop} (hQ : Law P Q) (hP : Has P [.all .lane]) (l m h : Nat) {s : State} (h0 : Q s) :
    Q (s.wrAll l [(Reg.Lane.MASTER, m), (Reg.Lane.HEAD, h)]) := hQ.wr hP rfl (hQ.wr hP rfl h0)

theorem laneJoined_only (s : State) (l : Nat × Nat) : Only (bondParts h) s (laneJoined h s l) :=
  (bondParts_law h s).wr2At (bondParts_lanes h) (bondParts_head h) rfl (laneAssigned_law (bondParts_law h s) (bondParts_lanes h) _ _ _ (Frame.refl _ _))

theorem lanesJoined_only (ls : List Nat) (s : State) : Only (bondParts h) s (lanesJoined h ls s) :=
  List.foldlRecOn (motive := Only (bondParts h) s) ls.zipIdx (laneJoined h) (Frame.refl _ _)
    fun _ hb l _ => Frame.trans hb (laneJoined_only h _ l)

theorem headBonded_only (n : Nat) (ls : List Nat) (s : State) : Only (bondParts h) s (headBonded h n ls s) := by
  have hj : Only (bondParts h) s (lanesJoined h ls (lanesLeft h s)) := Frame.trans (lanesLeft_only h s) (lanesJoined_only h ls _)
  have hw := (bondParts_law h s).wrAt (f := Reg.Head.LANES) (v := n) (bondParts_lanes h) (bondParts_head h) rfl hj
  exact (bondParts_law h s).bonded (by simp [Covers, bondParts]) hw

theorem lanesJoined_append (ls : List Nat) (l : Nat) (s : State) :
    lanesJoined h (ls ++ [l]) s = laneJoined h (lanesJoined h ls s) (l, ls.length) := by
  simp [lanesJoined, List.zipIdx_append]

variable {h} (hh : h < 32)
include hh

theorem laneMap_has {k : Nat} (hk : k < 32) : Reg.Head.LANEMAP.has h k = true := decide_eq_true ⟨hh, hk⟩

/-- A lane that joins is found at its place of LANEMAP; other places stay. -/
theorem laneJoined_map (s : State) {l k j : Nat} (hl : l < 256) (hk : k < 32) (hj : j < 32) :
    (laneJoined h s (l, k)).rd2 Reg.Head.LANEMAP h j = if j = k then l else s.rd2 Reg.Head.LANEMAP h j := by
  have hw : Only [.all .lane] s (s.wrAll l [(Reg.Lane.MASTER, b2n (k == 0)), (Reg.Lane.HEAD, h)]) :=
    laneAssigned_law (Only.of_law rfl) (Has.covers rfl) _ _ _ (Frame.refl _ _)
  unfold laneJoined
  split
  · next e =>
    subst e
    rw [State.rd2_wr2_same _ rfl _ (laneMap_has hh hj)]
    exact Nat.mod_eq_of_lt hl
  · next e =>
    rw [State.rd2_wr2_element _ rfl (by decide) _ _ (Ne.symm e)]
    exact hw.rd2_off rfl (laneMap_has hh hj)

/-- A lane that joins shows its head; other lanes keep theirs. -/
theorem laneJoined_lane (s : State) {l m : Nat} (k : Nat) (hm : m < 256) :
    (laneJoined h s (l, k)).rd Reg.Lane.HEAD m = if m = l then h else s.rd Reg.Lane.HEAD m := by
  have hhas : Reg.Lane.HEAD.has m 0 = true := Lane.field_has hm rfl rfl
  have hmap : (laneJoined h s (l, k)).rd Reg.Lane.HEAD m =
      ((s.wr Reg.Lane.MASTER l (b2n (k == 0))).wr Reg.Lane.HEAD l h).rd Reg.Lane.HEAD m := State.rd2_wr2_apart _ rfl _ hhas
  rw [hmap]
  split
  · next e =>
    subst e
    rw [State.rd_wr_same _ rfl _ hhas]
    exact Nat.mod_eq_of_lt hh
  · next e =>
    rw [State.rd_wr_other (k := .lane) _ rfl rfl _ hhas (Ne.symm e), State.rd_wr_apart _ rfl _ hhas]

theorem lanesJoined_map (ls : List Nat) (hl : ls.length ≤ 32) (hb : ∀ l ∈ ls, l < 256) (s : State) {k : Nat} (hk : k < ls.length) :
    (lanesJoined h ls s).rd2 Reg.Head.LANEMAP h k = ls.getD k 0 := by
  induction ls using List.reverseRecOn with
  | nil => exact absurd hk (Nat.not_lt_zero k)
  | append_singleton ls l ih =>
    rw [List.length_append, List.length_singleton] at hk hl
    rw [lanesJoined_append, laneJoined_map hh _ (hb l (by simp)) (by omega) (by omega)]
    split
    · next e =>
      rw [e, List.getD_append_right _ _ _ _ (le_refl _), Nat.sub_self]
      rfl
    · next e =>
      rw [List.getD_append _ _ _ _ (by omega)]
      exact ih (by omega) (fun m hm => hb m (by simp [hm])) (by omega)

theorem lanesJoined_lane (ls : List Nat) (hb : ∀ l ∈ ls, l < 256) (s : State) {l : Nat} (hl : l ∈ ls) :
    (lanesJoined h ls s).rd Reg.Lane.HEAD l = h := by
  induction ls using List.reverseRecOn with
  | nil => cases hl
  | append_singleton ls m ih =>
    rw [lanesJoined_append, laneJoined_lane hh _ _ (hb l hl)]
    split
    · rfl
    · next e => exact ih (fun m hm => hb m (by simp [hm])) ((List.mem_append.mp hl).resolve_right (by simpa using e))

/-- What a bonding shows, also in a state that differs from it by what completing an instruction changes. -/
theorem headBonded_shows {n : Nat} (hn : n ≤ 5) {ls : List Nat} (hl : ls.length = 2 ^ n) (hb : ∀ l ∈ ls, l < 256) {s t : State}
    (ht : Only doneParts (headBonded h n ls s) t) :
    t.rd Reg.Head.LANES h = n ∧ Tbl.get (fun _ => false) t.bonded h = true ∧
      (∀ k, k < 2 ^ n → t.rd2 Reg.Head.LANEMAP h k = ls.getD k 0) ∧ (∀ l ∈ ls, t.rd Reg.Lane.HEAD l = h) := by
  have hpow : 2 ^ n ≤ 32 := Nat.pow_le_pow_right (n := 2) (by decide) hn
  have hlanes : Reg.Head.LANES.has h 0 = true := Head.field_has hh rfl rfl
  refine ⟨?lanes, ?bonded, fun k hk => ?map, fun l hm => ?lane⟩
  case lanes =>
    have hw : t.rd Reg.Head.LANES h = ((lanesJoined h ls (lanesLeft h s)).wr Reg.Head.LANES h n).rd Reg.Head.LANES h := ht.rd_off rfl hlanes
    rw [hw, State.rd_wr_same _ rfl _ hlanes]
    exact Nat.mod_eq_of_lt (show n < 8 by omega)
  case bonded =>
    have hw : t.bonded = (headBonded h n ls s).bonded := Frame.bonded ht (by simp [Covers, doneParts])
    rw [hw]
    exact Tbl.get_set_same (d := fun _ => false) _ h true
  case map =>
    have hhas := laneMap_has hh (show k < 32 by omega)
    have hw : t.rd2 Reg.Head.LANEMAP h k = ((lanesJoined h ls (lanesLeft h s)).wr Reg.Head.LANES h n).rd2 Reg.Head.LANEMAP h k := ht.rd2_off rfl hhas
    rw [hw, State.wr, State.rd2_wr2_apart _ rfl _ hhas]
    exact lanesJoined_map hh ls (by omega) hb _ (by omega)
  case lane =>
    have hhas : Reg.Lane.HEAD.has l 0 = true := Lane.field_has (hb l hm) rfl rfl
    have hw : t.rd Reg.Lane.HEAD l = ((lanesJoined h ls (lanesLeft h s)).wr Reg.Head.LANES h n).rd Reg.Lane.HEAD l := ht.rd_off rfl hhas
    rw [hw, State.rd_wr_apart _ rfl _ hhas]
    exact lanesJoined_lane hh ls hb _ hm

end

/-! ### HAU.BOND -/

/-- The list names lanes of one quadrant and rate, none twice (R149). -/
def BondOk (a : XArgs) (s : State) : Prop :=
  let l0 := (bondList a).getD 0 0
  bits (a.w 0) 2 0 ≤ 5 ∧ (∀ l ∈ bondList a, l / 64 = l0 / 64 ∧ s.rd Reg.Lane.RATE l = s.rd Reg.Lane.RATE l0) ∧ (bondList a).Nodup

theorem bondOk_iff (a : XArgs) (s : State) : BondOk a s ↔ ¬(5 < bits (a.w 0) 2 0 ∨
    ((bondList a).any fun l => l / 64 != (bondList a).getD 0 0 / 64 || s.rd Reg.Lane.RATE l != s.rd Reg.Lane.RATE ((bondList a).getD 0 0)) = true ∨
    (!decide (bondList a).Nodup) = true) := by
  simp only [BondOk, not_or, Nat.not_lt, List.any_eq_true, Bool.or_eq_true, bne_iff_ne, not_exists, not_and, not_not, Bool.not_eq_true',
    decide_eq_false_iff_not, ne_eq]

/-- A lane of the list belongs to the bonding of another head. -/
def BondTaken (a : XArgs) (s : State) : Prop := ∃ l ∈ bondList a, ∃ k, k < 32 ∧ k ≠ a.i ∧ l ∈ bondLanes s k

theorem bondTaken_iff (a : XArgs) (s : State) : BondTaken a s ↔ (bondList a).any (bondedElsewhere s a.i) = true := by
  simp [BondTaken, bondedElsewhere]

theorem bondList_lt (a : XArgs) : ∀ l ∈ bondList a, l < 256 := by
  intro l hl
  obtain ⟨k, -, rfl⟩ := List.mem_map.mp hl
  have hw : 8 * (k % 8) + 7 - 8 * (k % 8) + 1 = 8 := by omega
  unfold bits
  rw [hw]
  exact Nat.mod_lt _ (by decide)

/-- The head runs or starts (R150). -/
def HeadBusy (i : Nat) (s : State) : Prop := s.running i = true ∨ (s.head i).start.isSome = true

theorem headBusy_iff (i : Nat) (s : State) : HeadBusy i s ↔ s.busyHead i = true := by
  simp [HeadBusy, State.busyHead, State.starting]

section
variable {x : XWord} {s : State} (h : XReady x s) (hi : (xargs s x).i < 32)
include h hi

theorem hauBond_bounds (hb : ¬BondOk (xargs s x) s) : XRefuses (.hauBond x) 2 s :=
  XRefuses.of_direct h (exec_hauBond x s) hi (if_pos (by rwa [bondOk_iff, not_not] at hb))

section
variable (hb : BondOk (xargs s x) s)
include hb

theorem hauBond_taken (ht : BondTaken (xargs s x) s) : XRefuses (.hauBond x) 4 s :=
  XRefuses.of_direct h (exec_hauBond x s) hi ((if_neg ((bondOk_iff _ _).mp hb)).trans (if_pos ((bondTaken_iff _ _).mp ht)))

variable (ht : ¬BondTaken (xargs s x) s)
include ht

theorem hauBond_busy (hu : HeadBusy (xargs s x).i s) : XRefuses (.hauBond x) 5 s :=
  XRefuses.of_direct h (exec_hauBond x s) hi ((if_neg ((bondOk_iff _ _).mp hb)).trans ((if_neg fun hc => ht ((bondTaken_iff _ _).mpr hc)).trans
    (if_pos ((headBusy_iff _ _).mp hu))))

theorem hauBond_bonds (hu : ¬HeadBusy (xargs s x).i s) : XDoes (.hauBond x) s.seq (bondParts (xargs s x).i) (fun t =>
    t.rd Reg.Head.LANES (xargs s x).i = bits ((xargs s x).w 0) 2 0 ∧ Tbl.get (fun _ => false) t.bonded (xargs s x).i = true ∧
    (∀ k, k < 2 ^ bits ((xargs s x).w 0) 2 0 → t.rd2 Reg.Head.LANEMAP (xargs s x).i k = (bondList (xargs s x)).getD k 0) ∧
    (∀ l ∈ bondList (xargs s x), t.rd Reg.Lane.HEAD l = (xargs s x).i)) s :=
  XDoes.of_direct h (headBonded_only _ _ _ s) (fun _ k => headBonded_shows hi hb.1 (by simp [bondList]) (bondList_lt _) k)
    (by simp [bondParts]) (by simp [bondParts]) (by simp [bondParts]) (exec_hauBond x s) hi
    ((if_neg ((bondOk_iff _ _).mp hb)).trans ((if_neg fun hc => ht ((bondTaken_iff _ _).mpr hc)).trans
      (if_neg fun hc => hu ((headBusy_iff _ _).mpr hc))))

end

end

end Sys2Proof.Machine
end

section
/-!
PROOF. HAU.CFG and HAU.EBALLOC: head blocks and the banks of the elastic buffer (R161, R162, R171).
-/
namespace Sys2Proof.Machine

-- One proof after the other: in one text with all that stands before, each proof in flight holds a stack of its own.
set_option deprecated.oldSectionVars true

/-! ### HAU.CFG -/

/-- The block that would result lies in its ranges (R171). -/
def HeadCfgOk (a : XArgs) (s : State) : Prop :=
  let v := fun f => blockVal hauBase a s f a.i
  let r := fun (y lo hi : Nat) => lo ≤ y ∧ y ≤ hi
  a.ws.length ≤ 7 ∧ r (v Reg.Head.HW) 1 65536 ∧ v Reg.Head.DEPTH ≤ 4 ∧ r (v Reg.Head.LCTO) 1 64 ∧ r (v Reg.Head.TLTO) 1 255 ∧
    r (v Reg.Head.LCMIN) 1 65535 ∧ r (v Reg.Head.TLMIN) 1 65535 ∧ r (v Reg.Head.BLKTO) 1 10000 ∧ r (v Reg.Head.GAPFL) 1 1000

/-- The ranges of a head block, as HAU.CFG checks them. -/
def headRanges (v : Field → Nat) : Bool :=
  inRange (v Reg.Head.HW) 1 65536 && decide (v Reg.Head.DEPTH ≤ 4) && inRange (v Reg.Head.LCTO) 1 64 &&
    inRange (v Reg.Head.TLTO) 1 255 && inRange (v Reg.Head.LCMIN) 1 65535 && inRange (v Reg.Head.TLMIN) 1 65535 &&
    inRange (v Reg.Head.BLKTO) 1 10000 && inRange (v Reg.Head.GAPFL) 1 1000

theorem headCfgOk_iff (a : XArgs) (s : State) : HeadCfgOk a s ↔
    ¬(7 < a.ws.length ∨ (!headRanges fun f => blockVal hauBase a s f a.i) = true) := by
  simp only [HeadCfgOk, headRanges, not_or, Nat.not_lt, Bool.not_eq_true', Bool.not_eq_false, Bool.and_eq_true, inRange_iff, decide_eq_true_eq,
    and_assoc]

/-- The head with its block written, and what follows from it (R162, R360). -/
def headConfigured (a : XArgs) (s : State) : State := showSbrows (showSlots a.i (blockWrite hauBase a a.i 0 hauCfgFields s))

theorem hauCfgFields_apart : hauCfgFields.Pairwise fun f g => f.apart g = true ∧ g.apart f = true := by decide

theorem hauCfgFields_has {i : Nat} (hi : i < 32) : ∀ f ∈ hauCfgFields, f.inWord = true ∧ f.has i 0 = true := by
  have h : ∀ f ∈ hauCfgFields, f.inWord = true ∧ f.n1 = 32 ∧ f.n2 = 1 := by decide
  intro f hf
  obtain ⟨h1, h2, h3⟩ := h f hf
  exact ⟨h1, Head.field_has hi h2 h3⟩

theorem headConfigured_only (a : XArgs) (s : State) : Only [.all .head, .all .view] s (headConfigured a s) := by
  have hL : Law (Covers [.all .head, .all .view]) (Only [.all .head, .all .view] s) := Only.of_law rfl
  have hH : Has (Covers [.all .head, .all .view]) [.all .head] := Has.covers rfl
  exact showSbrows_law hL (Has.covers rfl) (showSlots_law hL (Has.covers rfl) (.inr (by simp)) (hL.blockWrite hH rfl (Frame.refl _ _)))

/-- The settings of the head read as the payload or the block before gives them. -/
theorem headConfigured_shows {a : XArgs} (hi : a.i < 32) {s t : State} (ht : Only doneParts (headConfigured a s) t) :
    ∀ f ∈ hauCfgFields, t.rd f a.i = blockVal hauBase a s f a.i := by
  have hoff : ∀ f ∈ hauCfgFields, f.off doneParts = true ∧ f.off [.all .view] = true ∧ Reg.Head.EBSLOTS.apart f = true := by decide
  intro f hf
  obtain ⟨hdone, hview, hslots⟩ := hoff f hf
  have hhas := (hauCfgFields_has hi f hf).2
  have hrows : Only [.all .view] (showSlots a.i (blockWrite hauBase a a.i 0 hauCfgFields s)) (headConfigured a s) :=
    showSbrows_law (Only.of_law rfl) (Has.covers rfl) (Frame.refl _ _)
  calc t.rd f a.i = (headConfigured a s).rd f a.i := ht.rd_off hdone hhas
    _ = (showSlots a.i (blockWrite hauBase a a.i 0 hauCfgFields s)).rd f a.i := hrows.rd_off hview hhas
    _ = (blockWrite hauBase a a.i 0 hauCfgFields s).rd f a.i := State.rd_wr_apart _ hslots _ hhas
    _ = blockVal hauBase a s f a.i := blockWrite_rd hauCfgFields_apart (hauCfgFields_has hi) s hf

section
variable {x : XWord} {s : State} (h : XReady x s) (hi : (xargs s x).i < 32)
include h hi

omit h hi in
/-- HAU.CFG is a block write that a head refuses while it runs or starts. -/
theorem hauCfg_direct (x : XWord) (s : State) : exec (.hauCfg x) s = direct 2 2 32 x (fun a s =>
    if s.busyHead a.i = true then .error 5
    else if 7 < a.ws.length ∨ (!headRanges fun f => blockVal hauBase a s f a.i) = true then .error 2
    else .ok (headConfigured a s)) s := by
  rw [exec_hauCfg]
  unfold execHauCfg blockOp
  congr 1
  funext a s
  dsimp only
  cases s.busyHead a.i <;> rfl

theorem hauCfg_busy (hu : HeadBusy (xargs s x).i s) : XRefuses (.hauCfg x) 5 s :=
  XRefuses.of_direct h (hauCfg_direct x s) hi (if_pos ((headBusy_iff _ _).mp hu))

section
variable (hu : ¬HeadBusy (xargs s x).i s)
include hu

theorem hauCfg_bounds (hc : ¬HeadCfgOk (xargs s x) s) : XRefuses (.hauCfg x) 2 s :=
  XRefuses.of_direct h (hauCfg_direct x s) hi ((if_neg fun hb => hu ((headBusy_iff _ _).mpr hb)).trans
    (if_pos (by rwa [headCfgOk_iff, not_not] at hc)))

theorem hauCfg_stores (hc : HeadCfgOk (xargs s x) s) : XDoes (.hauCfg x) s.seq [.all .head, .all .view] (fun t =>
    ∀ f ∈ hauCfgFields, t.rd f (xargs s x).i = blockVal hauBase (xargs s x) s f (xargs s x).i) s :=
  XDoes.of_direct h (headConfigured_only _ s) (fun _ ht => headConfigured_shows hi ht) rfl rfl rfl (hauCfg_direct x s) hi
    ((if_neg fun hb => hu ((headBusy_iff _ _).mpr hb)).trans (if_neg ((headCfgOk_iff _ _).mp hc)))

end

end

/-! ### HAU.EBALLOC -/

/-- A running head would get other banks, or others in number (R161). -/
def BanksMove (s : State) : Prop :=
  ∃ h, h < 32 ∧ s.running h = true ∧ (banksOf s h ≠ s.rd Reg.Head.EBBANKS h ∨ firstBank s h ≠ (s.head h).bank)

theorem banksMove_iff (s : State) : BanksMove s ↔
    ((runningHeads s).any fun h => banksOf s h != s.rd Reg.Head.EBBANKS h || firstBank s h != (s.head h).bank) = true := by
  simp [BanksMove, runningHeads]

/-- Head h gets its banks as state s divides them. -/
def bankGiven (s t : State) (h : Nat) : State :=
  showSlots h ((t.wr Reg.Head.EBBANKS h (banksOf s h)).setHead h { t.head h with bank := firstBank s h })

/-- Every head below n gets its banks. -/
def banksGiven (n : Nat) (s : State) : State := (List.range n).foldl (bankGiven s) s

/-- The first n banks of the elastic buffer show whether they lie among the first `total`. -/
def banksShown (total n : Nat) (s : State) : State :=
  (List.range n).foldl (fun t k => t.wr Reg.Mem.USE (64 + k) (b2n (decide (k < total)))) s

theorem banksGiven_succ (n : Nat) (s : State) : banksGiven (n + 1) s = bankGiven s (banksGiven n s) n := by
  simp [banksGiven, List.range_succ]

theorem banksShown_succ (total n : Nat) (s : State) :
    banksShown total (n + 1) s = (banksShown total n s).wr Reg.Mem.USE (64 + n) (b2n (decide (n < total))) := by
  simp [banksShown, List.range_succ]

/-- No head gets more than the 192 banks and one. -/
theorem banksOf_lt (s : State) {h : Nat} (hh : h < 32) : banksOf s h < 2 ^ Reg.Head.EBBANKS.width := by
  have hle : s.rd Reg.Head.EBWEIGHT h ≤ weightSum s := List.le_sum_of_mem (List.mem_map.mpr ⟨h, List.mem_range.mpr hh, rfl⟩)
  have hdiv : 192 * s.rd Reg.Head.EBWEIGHT h / weightSum s ≤ 192 :=
    Nat.div_le_of_le_mul (by rw [Nat.mul_comm (weightSum s)]; exact Nat.mul_le_mul_left _ hle)
  have hbit : ∀ b, b2n b ≤ 1 := by decide
  show banksOf s h < 256
  unfold banksOf
  split
  · decide
  · exact lt_of_le_of_lt (Nat.add_le_add hdiv (hbit _)) (by decide)

theorem bankGiven_only (s t : State) (h : Nat) : Only [.all .head, .heads] t (bankGiven s t h) := by
  have hL : Law (Covers [.all .head, .heads]) (Only [.all .head, .heads] t) := Only.of_law rfl
  have hH : Has (Covers [.all .head, .heads]) [.all .head, .heads] := Has.covers rfl
  exact showSlots_law hL (Has.covers rfl) (.inr (by simp)) (setHead_law hL (Has.covers rfl) (hL.wr hH rfl (Frame.refl _ _)))

theorem banksGiven_only (n : Nat) (s : State) : Only [.all .head, .heads] s (banksGiven n s) :=
  List.foldlRecOn (motive := Only [.all .head, .heads] s) _ _ (Frame.refl _ _) fun _ hb h _ => Frame.trans hb (bankGiven_only s _ h)

theorem banksShown_only (total n : Nat) (s : State) : Only [.all .bank] s (banksShown total n s) :=
  Law.foldl (fun _ _ => Law.wr (B := [.all .bank]) (Only.of_law rfl) (Has.covers rfl) rfl) (Frame.refl _ _)

/-- A head that gets its banks shows them; the others keep theirs. -/
theorem bankGiven_shows (s t : State) {h k : Nat} (hk : k < 32) :
    (bankGiven s t h).rd Reg.Head.EBBANKS k = (if k = h then banksOf s k else t.rd Reg.Head.EBBANKS k) ∧
      ((bankGiven s t h).head k).bank = if k = h then firstBank s k else (t.head k).bank := by
  have hhas : Reg.Head.EBBANKS.has k 0 = true := Head.field_has hk rfl rfl
  have hrd : (bankGiven s t h).rd Reg.Head.EBBANKS k = (t.wr Reg.Head.EBBANKS h (banksOf s h)).rd Reg.Head.EBBANKS k := State.rd_wr_apart _ rfl _ hhas
  have hhead : (bankGiven s t h).head k = ((t.wr Reg.Head.EBBANKS h (banksOf s h)).setHead h { t.head h with bank := firstBank s h }).head k :=
    State.wr_head _ _ _ _ _
  rw [hrd, hhead]
  by_cases e : k = h
  · subst e
    rw [if_pos rfl, if_pos rfl, State.rd_wr_same _ rfl _ hhas, State.setHead_head_same]
    exact ⟨Nat.mod_eq_of_lt (banksOf_lt s hk), rfl⟩
  · rw [if_neg e, if_neg e, State.rd_wr_other (k := .head) _ rfl rfl _ hhas (Ne.symm e), State.setHead_head_ne _ _ _ (Ne.symm e), State.wr_head]
    exact ⟨rfl, rfl⟩

theorem banksGiven_shows (s : State) {n h : Nat} (hn : n ≤ 32) (hh : h < n) :
    (banksGiven n s).rd Reg.Head.EBBANKS h = banksOf s h ∧ ((banksGiven n s).head h).bank = firstBank s h := by
  induction n with
  | zero => omega
  | succ n ih =>
    obtain ⟨hbanks, hfirst⟩ := bankGiven_shows s (banksGiven n s) (h := n) (k := h) (by omega)
    rw [banksGiven_succ, hbanks, hfirst]
    by_cases e : h = n
    · rw [if_pos e, if_pos e]
      exact ⟨rfl, rfl⟩
    · rw [if_neg e, if_neg e]
      exact ih (by omega) (by omega)

theorem banksShown_shows (total : Nat) (s : State) {n k : Nat} (hn : n ≤ 192) (hk : k < n) :
    (banksShown total n s).rd Reg.Mem.USE (64 + k) = if k < total then 1 else 0 := by
  have hhas : Reg.Mem.USE.has (64 + k) 0 = true := decide_eq_true ⟨show 64 + k < 256 by omega, Nat.one_pos⟩
  induction n with
  | zero => omega
  | succ n ih =>
    rw [banksShown_succ]
    by_cases e : k = n
    · subst e
      rw [State.rd_wr_same _ rfl _ hhas]
      by_cases hc : k < total <;> simp [hc, b2n, Field.width, Reg.Mem.USE]
    · rw [State.rd_wr_other (k := .bank) _ rfl rfl _ hhas (by omega)]
      exact ih (by omega) (by omega)

section
variable {x : XWord} {s : State} (h : XReady x s)
include h

theorem hauEballoc_busy (hm : BanksMove s) : XRefuses (.hauEballoc x) 5 s :=
  XRefuses.of_xop h (exec_hauEballoc x s) (if_pos ((banksMove_iff s).mp hm))

theorem hauEballoc_gives (hm : ¬BanksMove s) : XDoes (.hauEballoc x) s.seq [.all .head, .all .bank, .heads] (fun t =>
    (∀ h, h < 32 → t.rd Reg.Head.EBBANKS h = banksOf s h ∧ (t.head h).bank = firstBank s h) ∧
    ∀ k, k < 192 → t.rd Reg.Mem.USE (64 + k) = if k < ((List.range 32).map (banksOf s)).sum then 1 else 0) s := by
  have hb := banksShown_only ((List.range 32).map (banksOf s)).sum 192 (banksGiven 32 s)
  refine XDoes.of_xop h (Frame.trans ((banksGiven_only 32 s).mono rfl) (hb.mono rfl)) (fun t ht => ⟨fun k hk => ?heads, fun k hk => ?banks⟩)
    rfl rfl rfl (exec_hauEballoc x s) (if_neg fun hc => hm ((banksMove_iff s).mpr hc))
  case heads =>
    have hhas : Reg.Head.EBBANKS.has k 0 = true := Head.field_has hk rfl rfl
    rw [ht.rd_off rfl hhas, hb.rd_off rfl hhas, ht.head (by simp [Covers, doneParts]), hb.head (by simp [Covers])]
    exact banksGiven_shows s (le_refl 32) hk
  case banks =>
    rw [ht.rd_off rfl (decide_eq_true ⟨show 64 + k < 256 by omega, Nat.one_pos⟩)]
    exact banksShown_shows _ _ (le_refl 192) hk

end

end Sys2Proof.Machine
end

section
/-!
PROOF. HAU.START, HAU.STOP and HAU.CAMREG (R136, R150, R151; log entries 71, 141).
-/
namespace Sys2Proof.Machine

-- One proof after the other: in one text with all that stands before, each proof in flight holds a stack of its own.
set_option deprecated.oldSectionVars true

/-! ### What the functions of these operations do -/

theorem startRefused_busy {s : State} {i : Nat} (dflt : Bool) (hu : HeadBusy i s) : startRefused s i dflt = some 5 := if_pos ((headBusy_iff _ _).mp hu)

theorem startRefused_bounds {s : State} {i : Nat} (dflt : Bool) (hu : ¬HeadBusy i s) (hb : Tbl.get (fun _ => false) s.bonded i = false ∨
    (∃ n ∈ bondLanes s i, s.rd Reg.Lane.RATE n = 0) ∨ s.rd Reg.Head.HW i = 0 ∨ s.rd Reg.Head.EBWEIGHT i = 0) : startRefused s i dflt = some 2 := by
  unfold startRefused
  rw [if_neg fun hc => hu ((headBusy_iff _ _).mpr hc)]
  refine if_pos ?_
  rcases hb with hb | ⟨n, hn, hr⟩ | hb | hb
  · simp [hb]
  · have hany : ((bondLanes s i).any fun n => s.rd Reg.Lane.RATE n == 0) = true := List.any_eq_true.mpr ⟨n, hn, beq_iff_eq.mpr hr⟩
    simp [hany]
  · simp [hb]
  · simp [hb]

theorem stopCamera_start (i : Nat) (s : State) : ((stopCamera i s).head i).start = (s.head i).start := by
  unfold stopCamera
  split
  · exact sendCmd_start _ _ _
  · rfl

theorem abortStart_start (i : Nat) (st : Start) (s : State) : ((abortStart i st s).head i).start = none := by
  unfold abortStart
  dsimp only
  split
  · exact (stopCamera_start _ _).trans (failStart_start i stABORT s)
  · exact failStart_start i stABORT s

theorem sendCmd_stopping (i : Nat) (q : CamCmd) (s : State) : ((sendCmd i q s).head i).stopping = (s.head i).stopping := by
  by_cases hc : (s.head i).cmd = none
  · rw [sendCmd_free i q hc]
  · rw [sendCmd_waits i q hc]

/-- The head as it stops triggering, with RUN 0 on its way to the camera. -/
def stopTold (i : Nat) (s : State) : State :=
  let s := forgetUnissued i s
  let s := s.setTes i { s.tesOf i with queue := [], due := 0 }
  let s := s.wr Reg.TesHead.RUNNING i 0
  let s := s.setHead i { s.head i with stopping := true }
  sendCmd i { use := .stop, addr := 0x100, data := ctrlWord s i 0 } s

/-- The parts that the end of a view changes. -/
def closeParts : List Part :=
  [.all .geom, .all .seam, .all .view, .all .wlkPort, .grp 0, .grp 17, .grp 64, .cutPkts, .held, .progress, .sent, .seq, .store, .tokens, .views]

theorem beginStop_only (i : Nat) (s : State) : Only closeParts (stopTold i s) (beginStop i s) := by
  unfold beginStop
  dsimp only
  split
  · exact closeView_law (Only.of_law rfl) (Has.covers rfl) (Frame.refl _ _)
  · exact Frame.refl _ _

theorem stopTold_stops {i : Nat} (hi : i < 32) (s : State) : ((stopTold i s).head i).stopping = true ∧
    (stopTold i s).rd Reg.TesHead.RUNNING i = 0 ∧ ((stopTold i s).tesOf i).queue = [] := by
  have hhas : Reg.TesHead.RUNNING.has i 0 = true := Head.field_has hi rfl rfl
  unfold stopTold
  dsimp only
  refine ⟨?_, ?_, ?_⟩
  · rw [sendCmd_stopping, State.setHead_head_same]
  · rw [(sendCmd_only _ _ _).rd_off rfl hhas, State.setHead_rd, State.rd_wr_same _ rfl _ hhas]
    rfl
  · rw [(sendCmd_only _ _ _).tesOf (by simp [Covers])]
    exact (congrArg TesState.queue (State.wr_tesOf _ _ _ _ _)).trans (congrArg TesState.queue (State.setTes_tesOf_same _ _ _))

/-- The command that HAU.CAMREG gives the camera. -/
def camregCmd (a : XArgs) : CamCmd :=
  { use := .camreg a.addr, write := a.arg.testBit 0, addr := bits (a.w 0) 31 0, data := bits (a.w 1) 31 0 }

/-- A write of LRATE names a rate that a lane of the head does not have (R145). -/
def RateBad (a : XArgs) (s : State) : Prop :=
  a.arg.testBit 0 = true ∧ bits (a.w 0) 31 0 = 0x108 ∧ (bits (a.w 1) 31 0 % 16 = 0 ∨
    ∃ n ∈ bondLanes s a.i, rateOk (s.rd Reg.LaneGroup.REFSEL (n / 16)) (bits (a.w 1) 31 0 % 16) = false)

theorem rateBad_iff (a : XArgs) (s : State) : RateBad a s ↔ (a.arg.testBit 0 && bits (a.w 0) 31 0 == 0x108 &&
    (bits (a.w 1) 31 0 % 16 == 0 || (bondLanes s a.i).any fun n => !rateOk (s.rd Reg.LaneGroup.REFSEL (n / 16)) (bits (a.w 1) 31 0 % 16))) = true := by
  simp only [RateBad, Bool.and_eq_true, Bool.or_eq_true, beq_iff_eq, List.any_eq_true, Bool.not_eq_true', and_assoc]

/-! ### The operations -/

section
variable {x : XWord} {s : State} (h : XReady x s) (hi : (xargs s x).i < 32)
include h hi

/-! ### HAU.START -/

theorem hauStart_refuses {st : Nat} (hr : startRefused s (xargs s x).i ((xargs s x).arg.testBit 0) = some st) : XRefuses (.hauStart x) st s :=
  XRefuses.of_xop h (exec_hauStart x s) ((if_neg (by omega)).trans (by rw [hr]))

theorem hauStart_starts (hr : startRefused s (xargs s x).i ((xargs s x).arg.testBit 0) = none) :
    XDoes (.hauStart x) (startedLong 2 5 x s) [.heads, .all .lane, .lanes, .damper, .grp 21, .tokens] (fun t =>
      (t.head (xargs s x).i).start = some { dflt := (xargs s x).arg.testBit 0, lseq := bits ((xargs s x).w 0) 39 0,
                                            plan := planOf s (xargs s x).i ((xargs s x).arg.testBit 0) }) s := by
  have hset : Only [.heads, .all .lane, .lanes, .damper, .grp 21, .tokens] s (s.setHead (xargs s x).i { s.head (xargs s x).i with
      start := some { dflt := (xargs s x).arg.testBit 0, lseq := bits ((xargs s x).w 0) 39 0, plan := planOf s (xargs s x).i ((xargs s x).arg.testBit 0) } }) :=
    setHead_law (Only.of_law rfl) (Has.covers rfl) (Frame.refl _ _)
  have hlanes : ∀ u, Only [.all .lane, .lanes, .damper, .grp 21, .tokens] u (startLanes (xargs s x).i u) := fun u =>
    startLanes_law (Only.of_law rfl) (Has.covers rfl) (Frame.refl _ _)
  refine XDoes.of_start h (Frame.trans hset ((hlanes _).mono rfl)) (fun t ht => ?_) rfl rfl rfl (exec_hauStart x s) ((if_neg (by omega)).trans (by rw [hr]))
  rw [ht.head (by simp [Covers, doneParts]), (hlanes _).head (by simp [Covers]), State.setHead_head_same]

/-! ### HAU.STOP -/

/-- A start is aborted (R151). -/
theorem hauStop_aborts (hs : (s.head (xargs s x).i).start.isSome = true) : ∃ t, exec (.hauStop x) s = .next t ∧
    (t.head (xargs s x).i).start = none ∧ Only [.heads, .tes, .seq, .procs, .grp 64, .sampled] s t := by
  obtain ⟨st, hst⟩ := Option.isSome_iff_exists.mp hs
  obtain ⟨t, he, ht⟩ := exec_of_fin (st := 0) (b := abortStart (xargs s x).i st s) h (exec_hauStop x s)
    ((if_neg (by omega)).trans (by rw [hst]; rfl))
  have ha : Only [.heads, .tes, .seq, .procs, .grp 64, .sampled] s (abortStart (xargs s x).i st s) :=
    abortStart_law (Only.of_law rfl) (Has.covers rfl) (Frame.refl _ _)
  refine ⟨t, he, ?_, Frame.trans ha (ht.mono rfl)⟩
  rw [ht.head (by simp [Covers, doneParts])]
  exact abortStart_start _ _ _

theorem hauStop_idle (hu : ¬HeadBusy (xargs s x).i s) : XRefuses (.hauStop x) 0 s := by
  obtain ⟨hr, hs⟩ := not_or.mp hu
  refine XRefuses.of_xop h (exec_hauStop x s) ((if_neg (by omega)).trans ?_)
  rw [Option.not_isSome_iff_eq_none.mp hs]
  exact if_pos (by simpa using hr)

section
variable (hs : (s.head (xargs s x).i).start = none) (hr : s.running (xargs s x).i = true)
include hs hr

/-- A stop is under way already: the operation waits with it. -/
theorem hauStop_waits (hp : (s.head (xargs s x).i).stopping = true) : XDoes (.hauStop x) (startedLong 2 6 x s) [] (fun _ => True) s := by
  refine XDoes.of_start h (Frame.refl _ _) (fun _ _ => trivial) rfl rfl rfl (exec_hauStop x s) ((if_neg (by omega)).trans ?_)
  rw [hs]
  exact (if_neg (by simp [hr])).trans (if_pos hp)

/-- A running head begins to stop (R151). -/
theorem hauStop_begins (hp : (s.head (xargs s x).i).stopping = false) : ∃ t, exec (.hauStop x) s = .next t ∧
    (t.head (xargs s x).i).stopping = true ∧ t.rd Reg.TesHead.RUNNING (xargs s x).i = 0 ∧ (t.tesOf (xargs s x).i).queue = [] := by
  have hhas : Reg.TesHead.RUNNING.has (xargs s x).i 0 = true := Head.field_has hi rfl rfl
  have hb := beginStop_only (xargs s x).i s
  have hq := retireAll_only (beginStop (xargs s x).i s)
  obtain ⟨t, he, ht⟩ := exec_of_start (b := retireAll (beginStop (xargs s x).i s)) h (exec_hauStop x s) ((if_neg (by omega)).trans (by
    rw [hs]
    exact (if_neg (by simp [hr])).trans (if_neg (by simp [hp]))))
  obtain ⟨h1, h2, h3⟩ := stopTold_stops hi s
  refine ⟨t, he, ?_, ?_, ?_⟩
  · rwa [ht.head (by simp [Covers, doneParts]), hq.head (by simp [Covers, retireParts]), hb.head (by simp [Covers, closeParts])]
  · rwa [ht.rd_off rfl hhas, hq.rd_off rfl hhas, hb.rd_off rfl hhas]
  · rwa [ht.tesOf (by simp [Covers, doneParts]), hq.tesOf (by simp [Covers, retireParts]), hb.tesOf (by simp [Covers, closeParts])]

end

/-! ### HAU.CAMREG -/

omit hi in
/-- The address is no multiple of 4, or the head has no bonding (log entry 141). -/
theorem hauCamreg_bounds (hb : Tbl.get (fun _ => false) s.bonded (xargs s x).i = false ∨ ¬bits ((xargs s x).w 0) 31 0 % 4 = 0) :
    XRefuses (.hauCamreg x) 2 s :=
  XRefuses.of_xop h (exec_hauCamreg x s) (if_pos (.inr (hb.symm.imp id fun hb => by rw [hb]; rfl)))

section
variable (hb : Tbl.get (fun _ => false) s.bonded (xargs s x).i = true) (ha : bits ((xargs s x).w 0) 31 0 % 4 = 0)
include hb ha

omit h in
theorem camreg_named : ¬(32 ≤ (xargs s x).i ∨ bits ((xargs s x).w 0) 31 0 % 4 ≠ 0 ∨ (!Tbl.get (fun _ => false) s.bonded (xargs s x).i) = true) := by
  simp [hb, ha, hi]

theorem hauCamreg_laneBusy (hl : ¬s.rd Reg.Lane.STATE (s.rd2 Reg.Head.LANEMAP (xargs s x).i 0) = 3) : XRefuses (.hauCamreg x) 4 s :=
  XRefuses.of_xop h (exec_hauCamreg x s) ((if_neg (camreg_named hi hb ha)).trans (if_pos (by simpa [lockedAt, State.laneState, lsLOCKED] using hl)))

variable (hl : s.rd Reg.Lane.STATE (s.rd2 Reg.Head.LANEMAP (xargs s x).i 0) = 3)
include hl

omit h hi hb ha in
theorem camreg_locked : ¬(!lockedAt s (xargs s x).i 0) = true := by simp [lockedAt, State.laneState, lsLOCKED, hl]

theorem hauCamreg_rate (hr : RateBad (xargs s x) s) : XRefuses (.hauCamreg x) 2 s :=
  XRefuses.of_xop h (exec_hauCamreg x s) ((if_neg (camreg_named hi hb ha)).trans ((if_neg (camreg_locked hl)).trans (if_pos ((rateBad_iff _ _).mp hr))))

/-- The command goes out, or waits behind the one outstanding. -/
theorem hauCamreg_sends (hr : ¬RateBad (xargs s x) s) : XDoes (.hauCamreg x) (startedLong 2 8 x s) [.heads] (fun t =>
    if (s.head (xargs s x).i).cmd.isSome then (t.head (xargs s x).i).cmds = (s.head (xargs s x).i).cmds ++ [camregCmd (xargs s x)]
    else (t.head (xargs s x).i).cmd = some { camregCmd (xargs s x) with tag := (s.head (xargs s x).i).tag } ∧
      (t.head (xargs s x).i).tag = ((s.head (xargs s x).i).tag + 1) % 256) s := by
  refine XDoes.of_start h (sendCmd_only (xargs s x).i (camregCmd (xargs s x)) s) (fun t ht => ?_) rfl rfl rfl (exec_hauCamreg x s)
    ((if_neg (camreg_named hi hb ha)).trans ((if_neg (camreg_locked hl)).trans (if_neg fun hc => hr ((rateBad_iff _ _).mpr hc))))
  rw [ht.head (by simp [Covers, doneParts])]
  by_cases hc : (s.head (xargs s x).i).cmd = none
  · rw [sendCmd_free _ _ hc, if_neg (by simp [hc])]
    exact ⟨rfl, rfl⟩
  · rw [sendCmd_waits _ _ hc, if_pos (Option.isSome_iff_ne_none.mpr hc)]

end

end

/-- The device has 32 heads. -/
theorem headOps_missing {x : XWord} {s : State} (h : XReady x s) (hi : 32 ≤ (xargs s x).i) :
    ∀ c ∈ [Instr.hauBond, .hauCfg, .hauStart, .hauStop, .hauCamreg], XRefuses (c x) 2 s := by
  intro c hc
  simp only [List.mem_cons, List.not_mem_nil, or_false] at hc
  rcases hc with rfl | rfl | rfl | rfl | rfl
  · exact XRefuses.of_missing h (exec_hauBond x s) hi
  · exact XRefuses.of_missing h (hauCfg_direct x s) hi
  · exact XRefuses.of_xop h (exec_hauStart x s) (if_pos hi)
  · exact XRefuses.of_xop h (exec_hauStop x s) (if_pos hi)
  · exact XRefuses.of_xop h (exec_hauCamreg x s) (if_pos (.inl hi))

/-- Settles O20: each operation by its conditions, in the order in which it checks them. -/
theorem headOperations : Obligations.HeadOperations := by
  intro x s h a i w0 no does starts ls l0 bondOk taken v r cfgOk moves total busy dflt bonded master locked aligned write rateBad cmd
  refine ⟨headOps_missing h, fun hi => ⟨hauBond_bounds h hi, hauBond_taken h hi, hauBond_busy h hi, hauBond_bonds h hi,
    hauCfg_busy h hi, hauCfg_bounds h hi, hauCfg_stores h hi,
    fun hu => hauStart_refuses h hi (startRefused_busy _ hu), fun hu hb => hauStart_refuses h hi (startRefused_bounds _ hu hb), hauStart_starts h hi,
    hauStop_aborts h hi, hauStop_idle h hi, hauStop_waits h hi, hauStop_begins h hi,
    hauCamreg_bounds h, hauCamreg_laneBusy h hi, hauCamreg_rate h hi, hauCamreg_sends h hi⟩,
    hauEballoc_busy h, hauEballoc_gives h⟩

end Sys2Proof.Machine
end
